-- ==== Sys2Proof/Word.lean ====
section
/-! DEFINITION. The word types of the Vofel and their plainest arithmetic: 64-bit register words, bytes,
little-endian byte lists. -/

namespace Sys2Proof

/-- A control-window register, 64 bits (00_scope.md, Registers). -/
abbrev Word := BitVec 64

/-- One byte. -/
abbrev Byte := BitVec 8

/-- The value of a little-endian byte list. -/
def leNat : List Byte → Nat
  | [] => 0
  | b :: bs => b.toNat + 256 * leNat bs

/-- The `n` little-endian bytes of `v` (truncated to `n` bytes). -/
def leBytes : Nat → Nat → List Byte
  | 0, _ => []
  | n + 1, v => BitVec.ofNat 8 v :: leBytes n (v / 256)

end Sys2Proof
end

