-- ==== Sys2Proof/Types.lean ====
section
/-! DEFINITION. The plain data types that commands and state share: parts, completion statuses, flits. -/

namespace Sys2Proof

/-- The three parts of R1. -/
inductive Part where
  | tva1024 | tva1024p | tva768
  deriving DecidableEq, Repr

/-- Completion statuses (R385). -/
inductive Status where
  | ok | aborted | missingUnit | nonfinite | late | uncorrectableMem | linkDown
  | resetInProgress | leadLost | diverged | shoalFull | torn | quota | keySlotBusy | collision
  deriving DecidableEq, Repr

/-- A flit between a port and its peer after FEC, CRC, key and tag (R283, R284, R286): the header fields,
the payload bytes and the link word. -/
structure Flit where
  ftype : Nat := 0
  sub : Nat := 0
  ttl : Nat := 255
  dst : Nat := 0
  src : Nat := 0
  dfn : Nat := 0
  sfn : Nat := 0
  tag : Nat := 0
  len : Nat := 0
  vc : Nat := 0
  addr : Nat := 0
  payload : List Byte := []
  deriving DecidableEq, Repr

/-- The link word of a verified flit (R286). -/
structure LinkWord where
  keyPhase : Bool := false
  nak : Bool := false
  cr : List Nat := [0, 0, 0, 0]
  ack : Nat := 0
  seq : Nat := 0
  txc : Nat := 0
  deriving DecidableEq, Repr

/-- A flit together with its link word, whether its tag verified (R289 step 4) or, unprotected, reads zero (R298), and the symbols
that FEC corrected on its way in (R278, JL_PORT_ERR). -/
structure RxFlit where
  flit : Flit := {}
  link : LinkWord := {}
  tagOk : Bool := true
  corrected : Nat := 0
  deriving DecidableEq, Repr

/-- The source of a memory access, with the code that R227's SOURCE gives it. -/
inductive Source where
  | islet | reef | migration | scrub | staging | host
  deriving DecidableEq, Repr

/-- Who makes a memory access: its source, and the isle die of the islet whose engine it is. -/
structure Requester where
  source : Source
  die : Nat := 0
  deriving DecidableEq, Repr

/-- A unit at which an event happens, and how many of the scratchpad words it reads there had a bit corrected (R86). -/
structure Corrected where
  unit : Nat
  words : Nat := 0
  deriving DecidableEq, Repr

/-- What a receive lane shows: its lock lost, and the symbols corrected on it (R280). -/
structure LaneFault where
  lane : Nat
  lost : Bool
  symbols : Nat := 0
  deriving DecidableEq, Repr

/-- A flit that the link layer discards: whether its codeword is uncorrectable, and the symbols corrected in it (R278, R293). -/
structure BadFlit where
  uncorr : Bool
  corrected : Nat := 0
  deriving DecidableEq, Repr

/-- What an outside party answers to a read it serves for the device: a completion status and data. -/
structure Answer where
  status : Status := .ok
  data : List Byte := []
  deriving DecidableEq, Repr

end Sys2Proof
end

