-- ==== Sys2Proof/Syntax.lean ====
section
/-! DEFINITION. The commands of the block: one constructor a row of spec/opcode_table.json, with the row's
operands. Facts of the environment (check results, temperatures, host data) are operands. -/

namespace Sys2Proof

/-- A command or event of the block. -/
inductive Instr where
  /-- STRAIT_UNIT_SEND (R29). -/
  | straitUnitSend (n : Nat) (ba : Bool)
  /-- STRAIT_UNIT_ARRIVE (R27). -/
  | straitUnitArrive (n : Nat) (ba : Bool) (cls : Nat) (crcOk : Bool) (syndrome : Nat)
  /-- STRAIT_STALL_TIMEOUT (R35). -/
  | straitStallTimeout (n : Nat) (ba : Bool)
  /-- STRAIT_CROSSBAR_FORWARD (R32). -/
  | straitCrossbarForward (die : Nat) (out : Nat) (cls : Nat)
  /-- PLL_RELOCK_DONE (R23). -/
  | pllRelockDone (island : Nat)
  /-- LOAD_START (R47). -/
  | loadStart (fn : Nat) (w : Word)
  /-- LOAD_QUEUED_START (R66). -/
  | loadQueuedStart (fn : Nat)
  /-- LOAD_CANCEL (R65). -/
  | loadCancel (fn : Nat) (w : Word)
  /-- LOAD_HEADER_FETCHED (R47). -/
  | loadHeaderFetched (fn : Nat) (ans : Answer)
  /-- LOAD_STAGE_START (R53). -/
  | loadStageStart (fn : Nat)
  /-- LOAD_STAGE_DONE (R52). -/
  | loadStageDone (fn : Nat) (ans : Answer)
  /-- LOAD_FAULT (R67). -/
  | loadFault (fn : Nat) (st : Status)
  /-- LOAD_WAIT_IDLE_EXIT (R55). -/
  | loadWaitIdleExit (fn : Nat)
  /-- LOAD_QUIESCE_DONE (R57). -/
  | loadQuiesceDone (fn : Nat)
  /-- LOAD_WRITE_DONE (R58). -/
  | loadWriteDone (fn : Nat)
  /-- LAUNCH_PARAMS_READ (R73). -/
  | launchParamsRead (lid : Nat) (ans : Answer)
  /-- ISLET_START_ARRIVE (R73). -/
  | isletStartArrive (lid : Nat) (islet : Nat)
  /-- LAUNCH_TIMEOUT (R74). -/
  | launchTimeout (lid : Nat)
  /-- COLLISION_FORCED_GRANT (R85). -/
  | collisionForcedGrant (islet : Nat) (bank : Nat)
  /-- ISLET_FAULT (R87). -/
  | isletFault (islet : Nat) (cause : Nat) (place : Nat) (index : Nat)
  /-- ISL_STOP (R87). -/
  | islStop (fn : Nat) (islet : Nat) (w : Word)
  /-- ISLET_RESET (R448). -/
  | isletReset (fn : Nat) (islet : Nat) (w : Word)
  /-- COPY_PLAN_START (R89). -/
  | copyPlanStart (islet : Nat) (eng : Nat) (corrected : Nat)
  /-- COPY_READ_RETURN (R91). -/
  | copyReadReturn (islet : Nat) (eng : Nat) (k : Nat) (upset : Nat) (losses : Nat)
  /-- COPY_PLAN_COMPLETE (R92). -/
  | copyPlanComplete (islet : Nat) (eng : Corrected)
  /-- SEQ_NOP (R102). -/
  | seqNop (islet : Nat)
  /-- SEQ_MX (R102). -/
  | seqMx (islet : Nat)
  /-- SEQ_VX (R102). -/
  | seqVx (islet : Nat)
  /-- SEQ_COPY (R89). -/
  | seqCopy (islet : Nat)
  /-- SEQ_SEND (R97). -/
  | seqSend (islet : Corrected)
  /-- SEQ_RECV (R97). -/
  | seqRecv (islet : Nat)
  /-- SEQ_WAIT (R102). -/
  | seqWait (islet : Nat)
  /-- SEQ_SETF (R102). -/
  | seqSetf (islet : Nat)
  /-- SEQ_CLRF (R102). -/
  | seqClrf (islet : Nat)
  /-- SEQ_SIGNAL (R103). -/
  | seqSignal (islet : Nat)
  /-- SEQ_LDCNT (R102). -/
  | seqLdcnt (islet : Nat)
  /-- SEQ_LOOP (R102). -/
  | seqLoop (islet : Nat)
  /-- SEQ_JUMP (R102). -/
  | seqJump (islet : Nat)
  /-- SEQ_FENCE (R102). -/
  | seqFence (islet : Nat)
  /-- SEQ_HALT (R102). -/
  | seqHalt (islet : Nat)
  /-- SEQ_STALL_RELEASE (R103). -/
  | seqStallRelease (islet : Corrected)
  /-- CHANNEL_UNIT_HOP (R96). -/
  | channelUnitHop (islet : Nat) (port : Nat)
  /-- CHANNEL_UNIT_RECEIVE (R97). -/
  | channelUnitReceive (islet : Nat) (chan : Nat) (losses : Nat)
  /-- CHANNEL_CREDIT_RETURN (R97). -/
  | channelCreditReturn (islet : Nat) (chan : Nat)
  /-- CONTROL_PACKET_ARRIVE (R100). -/
  | controlPacketArrive (src : Nat) (dst : Nat)
  /-- GANG_OP_START (R117). -/
  | gangOpStart (islet : Nat)
  /-- MX_LOAD_DISPATCH (R122). -/
  | mxLoadDispatch (islet : Nat)
  /-- MX_LOAD_COMPLETE (R121). -/
  | mxLoadComplete (islet : Nat) (quad : Nat) (corrected : List (Nat × Nat))
  /-- MX_SWAP (R123). -/
  | mxSwap (islet : Nat)
  /-- MX_TILE_START (R123). -/
  | mxTileStart (islet : Nat)
  /-- MX_TILE_COMPLETE (R130). -/
  | mxTileComplete (islet : Nat) (quad : Nat) (stalls : Nat) (spCorrected : List (Nat × Nat)) (mxCorrected : Nat)
  /-- MX_COMBINE_START (R142). -/
  | mxCombineStart (islet : Nat)
  /-- MX_COMBINE_COMPLETE (R141). -/
  | mxCombineComplete (islet : Nat) (spCorrected : List (Nat × Nat)) (mxCorrected : Nat)
  /-- MX_IDLE_GATE (R132). -/
  | mxIdleGate (islet : Nat)
  /-- VX_CHAIN_START (R181). -/
  | vxChainStart (islet : Nat)
  /-- VX_CHAIN_COMPLETE (R183). -/
  | vxChainComplete (islet : Nat) (stalls : Nat) (spCorrected : Nat) (vxCorrected : Nat)
  /-- PHASE_START (R193). -/
  | phaseStart (fn : Nat) (slot : Nat)
  /-- PHASE_DONE (R193). -/
  | phaseDone (fn : Nat) (slot : Nat)
  /-- PHASE_TIMEOUT (R196). -/
  | phaseTimeout (fn : Nat) (slot : Nat)
  /-- SHOAL_WINDOW_ACCESS (R206). -/
  | shoalWindowAccess (fn : Nat) (addr : Nat) (len : Nat) (wr : Option (List Byte)) (upset : Nat)
  /-- FEED_COPY_DONE (R387). -/
  | feedCopyDone (fn : Nat) (slot : Nat) (ans : Answer)
  /-- MEMORY_ACCESS (R219). -/
  | memoryAccess (fn : Nat) (src : Requester) (addr : Nat) (len : Nat) (wr : Option (List Byte)) (upset : Nat)
  /-- HBM_REFRESH (R223). -/
  | hbmRefresh (stack : Nat) (pc : Nat) (bank : Nat)
  /-- PATROL_SCRUB (R224). -/
  | patrolScrub (key : Nat) (upset : Nat)
  /-- PAGE_RELOCATE (R225). -/
  | pageRelocate (fn : Nat) (page : Nat)
  /-- MAINLAND_PORT_DOWN (R230). -/
  | mainlandPortDown (port : Nat)
  /-- MIG_GO (R238). -/
  | migGo (fn : Nat) (w : Word)
  /-- MIG_MAP (R237). -/
  | migMap (fn : Nat)
  /-- MIG_UNMAP (R237). -/
  | migUnmap (fn : Nat)
  /-- MIG_PROMOTE (R237). -/
  | migPromote (fn : Nat)
  /-- MIG_DEMOTE (R237). -/
  | migDemote (fn : Nat)
  /-- MIG_COPY (R237). -/
  | migCopy (fn : Nat)
  /-- MIG_INGEST (R237). -/
  | migIngest (fn : Nat)
  /-- MIG_PAGE_START (R243). -/
  | migPageStart (fn : Nat) (upset : Nat) (ans : Answer)
  /-- DEMOTE_PAGE_COPIED (R240). -/
  | demotePageCopied (port : Nat) (upset : Nat)
  /-- PROMOTE_PAGE_DONE (R241). -/
  | promotePageDone (port : Nat) (upset : Nat)
  /-- MIG_REQUEST_COMPLETE (R243). -/
  | migRequestComplete (fn : Nat)
  /-- MIG_CANCEL (R244). -/
  | migCancel (fn : Nat) (w : Word)
  /-- XLATE_LOOKUP (R232). -/
  | xlateLookup (fn : Nat) (w : Word)
  /-- XLATE_LOOKUP_DONE (R232). -/
  | xlateLookupDone (fn : Nat)
  /-- REEF_WINDOW_WRITE (R257). -/
  | reefWindowWrite (fn : Nat) (addr : Nat) (data : List Byte)
  /-- REEF_GO (R258). -/
  | reefGo (fn : Nat) (stack : Nat) (w : Word)
  /-- REEF_CANCEL (R273). -/
  | reefCancel (fn : Nat) (stack : Nat) (w : Word)
  /-- REEF_ADMIT (R259). -/
  | reefAdmit (stack : Nat)
  /-- REEF_OP_START (R261). -/
  | reefOpStart (stack : Nat) (k : Nat)
  /-- REEF_OP_END (R262). -/
  | reefOpEnd (stack : Nat) (k : Nat) (cycles : Nat)
  /-- REEF_UNCORRECTABLE (R272). -/
  | reefUncorrectable (stack : Nat) (k : Nat) (pc : Nat)
  /-- LANE_FAIL (R280). -/
  | laneFail (p : Nat) (lane : LaneFault)
  /-- LANE_SWITCH_OVER (R281). -/
  | laneSwitchOver (p : Nat)
  /-- LANE_SWAP_TIMEOUT (R282). -/
  | laneSwapTimeout (p : Nat)
  /-- FLIT_SEND (R290). -/
  | flitSend (p : Nat) (vc : Nat)
  /-- FLIT_CORRUPT (R293). -/
  | flitCorrupt (p : Nat) (uncorr : BadFlit)
  /-- FLIT_RESERVED_TYPE (R285). -/
  | flitReservedType (p : Nat) (rx : RxFlit)
  /-- IDLE (R286). -/
  | idle (p : Nat) (rx : RxFlit)
  /-- WRITE (R309). -/
  | write (p : Nat) (rx : RxFlit)
  /-- READ_REQ (R309). -/
  | readReq (p : Nat) (rx : RxFlit)
  /-- READ_RSP (R312). -/
  | readRsp (p : Nat) (rx : RxFlit)
  /-- INTERRUPT (R313). -/
  | interrupt (p : Nat) (rx : RxFlit)
  /-- UNREACHABLE (R310). -/
  | unreachable (p : Nat) (rx : RxFlit)
  /-- CLAIM (R306). -/
  | claim (p : Nat) (rx : RxFlit)
  /-- CLAIM_ACK (R305). -/
  | claimAck (p : Nat) (rx : RxFlit)
  /-- CLAIM_END (R305). -/
  | claimEnd (p : Nat) (rx : RxFlit)
  /-- PROBE (R307). -/
  | probe (p : Nat) (rx : RxFlit)
  /-- PROBE_ACK (R307). -/
  | probeAck (p : Nat) (rx : RxFlit)
  /-- BREAK (R307). -/
  | brk (p : Nat) (rx : RxFlit)
  /-- HELLO (R298). -/
  | hello (p : Nat) (rx : RxFlit)
  /-- KEY_SHARE (R298). -/
  | keyShare (p : Nat) (rx : RxFlit)
  /-- CERT (R298). -/
  | cert (p : Nat) (rx : RxFlit)
  /-- KEY_AUTH (R299). -/
  | keyAuth (p : Nat) (rx : RxFlit)
  /-- KEY_DONE (R298). -/
  | keyDone (p : Nat) (rx : RxFlit)
  /-- REKEY_SWITCH (R302). -/
  | rekeySwitch (p : Nat) (rx : RxFlit)
  /-- LANE_SWAP (R281). -/
  | laneSwap (p : Nat) (rx : RxFlit)
  /-- LANE_SWAP_ACK (R281). -/
  | laneSwapAck (p : Nat) (rx : RxFlit)
  /-- RS (R326). -/
  | rs (p : Nat) (rx : RxFlit)
  /-- RS_END (R332). -/
  | rsEnd (p : Nat) (rx : RxFlit)
  /-- AG (R326). -/
  | ag (p : Nat) (rx : RxFlit)
  /-- AG_END (R333). -/
  | agEnd (p : Nat) (rx : RxFlit)
  /-- UP (R327). -/
  | up (p : Nat) (rx : RxFlit)
  /-- UP_END (R332). -/
  | upEnd (p : Nat) (rx : RxFlit)
  /-- DOWN (R327). -/
  | down (p : Nat) (rx : RxFlit)
  /-- DOWN_END (R333). -/
  | downEnd (p : Nat) (rx : RxFlit)
  /-- VOTE (R339). -/
  | vote (p : Nat) (rx : RxFlit)
  /-- VOTE_RESULT (R341). -/
  | voteResult (p : Nat) (rx : RxFlit)
  /-- STEP_ABORT (R343). -/
  | stepAbort (p : Nat) (rx : RxFlit)
  /-- REPLAY_TIMEOUT (R293). -/
  | replayTimeout (p : Nat)
  /-- LIVENESS_TIMEOUT (R315). -/
  | livenessTimeout (p : Nat)
  /-- KEYING_TIMEOUT (R315). -/
  | keyingTimeout (p : Nat)
  /-- KEYING_RESEND (R298). -/
  | keyingResend (p : Nat)
  /-- READ_TIMEOUT (R315). -/
  | readTimeout (fn : Nat) (tag : Nat)
  /-- FLIT_STALL (R311). -/
  | flitStall (p : Nat) (vc : Nat)
  /-- CLAIM_WAIT (R305). -/
  | claimWait
  /-- TRAINING_DONE (R296). -/
  | trainingDone (p : Nat) (txSpare : Nat) (rxSpare : Nat)
  /-- TRAIN_TIMEOUT (R297). -/
  | trainTimeout (p : Nat)
  /-- PORT_RETRY (R295). -/
  | portRetry (p : Nat)
  /-- PEER_LOSS (R297). -/
  | peerLoss (p : Nat)
  /-- PORT_ENABLE (R296). -/
  | portEnable (fn : Nat) (p : Nat) (w : Word)
  /-- PORT_RESET (R317). -/
  | portReset (fn : Nat) (p : Nat) (w : Word)
  /-- PORT_REKEY (R301). -/
  | portRekey (fn : Nat) (p : Nat) (w : Word)
  /-- REKEY_THRESHOLD (R301). -/
  | rekeyThreshold (p : Nat)
  /-- COUNTER_LIMIT (R303). -/
  | counterLimit (p : Nat)
  /-- REKEY_TIMEOUT (R303). -/
  | rekeyTimeout (p : Nat)
  /-- REKEY_RETRY (R303). -/
  | rekeyRetry (p : Nat)
  /-- ROUTE_WRITE (R311). -/
  | routeWrite (fn : Nat) (d : Nat) (w : Word)
  /-- BUCKET_START (R325). -/
  | bucketStart (ctx : Nat) (b : Nat)
  /-- HELD_FLIT_RELEASE (R323). -/
  | heldFlitRelease (p : Nat)
  /-- BUCKET_COMPLETE (R334). -/
  | bucketComplete (ctx : Nat) (b : Nat)
  /-- BUCKET_DEADLINE (R336). -/
  | bucketDeadline (ctx : Nat) (b : Nat)
  /-- VOTE_TIMEOUT (R342). -/
  | voteTimeout (ctx : Nat)
  /-- RED_RESUME (R341). -/
  | redResume (fn : Nat) (ctx : Nat) (w : Word)
  /-- RED_ABORT_STEP (R343). -/
  | redAbortStep (fn : Nat) (ctx : Nat) (w : Word)
  /-- NORM_ENTRY_ACCEPTED (R353). -/
  | normEntryAccepted (fn : Nat) (q : Nat)
  /-- NORM_TIMEOUT (R353). -/
  | normTimeout (fn : Nat)
  /-- SHARD_UPDATE_START (R361). -/
  | shardUpdateStart (fn : Nat) (shard : Nat)
  /-- SHARD_COMMIT (R359). -/
  | shardCommit (fn : Nat) (shard : Nat)
  /-- DIGEST_RECORD_ACCEPTED (R366). -/
  | digestRecordAccepted (fn : Nat) (round : Nat)
  /-- DIGEST_TIMEOUT (R366). -/
  | digestTimeout (fn : Nat)
  /-- OPT_RECOVER (R363). -/
  | optRecover (fn : Nat) (w : Word)
  /-- OPT_ADOPT (R368). -/
  | optAdopt (fn : Nat) (w : Word)
  /-- QUEUE_DOORBELL (R377). -/
  | queueDoorbell (fn : Nat) (q : Nat) (w : Word)
  /-- DESCRIPTOR_FETCHED (R377). -/
  | descriptorFetched (fn : Nat) (q : Nat) (ans : Answer)
  /-- CMD_NOP (R383). -/
  | cmdNop (fn : Nat) (q : Nat)
  /-- CMD_LOAD (R383). -/
  | cmdLoad (fn : Nat) (q : Nat)
  /-- CMD_LAUNCH (R73). -/
  | cmdLaunch (fn : Nat) (q : Nat)
  /-- CMD_STEP (R386). -/
  | cmdStep (fn : Nat) (q : Nat)
  /-- CMD_GENERATE (R391). -/
  | cmdGenerate (fn : Nat) (q : Nat) (ans : Answer)
  /-- CMD_MIGRATE (R383). -/
  | cmdMigrate (fn : Nat) (q : Nat)
  /-- SERVICE_PAUSE (R383). -/
  | servicePause (fn : Nat) (q : Nat)
  /-- SERVICE_RESUME (R383). -/
  | serviceResume (fn : Nat) (q : Nat)
  /-- SERVICE_STOP (R383). -/
  | serviceStop (fn : Nat) (q : Nat)
  /-- COMPLETION_WRITE (R379). -/
  | completionWrite (fn : Nat) (q : Nat) (st : Status)
  /-- COMPLETION_DOORBELL (R379). -/
  | completionDoorbell (fn : Nat) (q : Nat) (w : Word)
  /-- QUEUE_ENABLE (R380). -/
  | queueEnable (fn : Nat) (q : Nat) (w : Word)
  /-- QUEUE_DISABLE (R380). -/
  | queueDisable (fn : Nat) (q : Nat) (w : Word)
  /-- CONTROLLER_WATCHDOG_WRITE (R374). -/
  | controllerWatchdogWrite (die : Nat) (core : Nat)
  /-- CONTROLLER_RESTART (R374). -/
  | controllerRestart (die : Nat)
  /-- CONTROLLER_RESTART_DONE (R374). -/
  | controllerRestartDone (die : Nat)
  /-- STEP_RECORD_WRITE (R390). -/
  | stepRecordWrite (fn : Nat)
  /-- GEN_POLL (R392). -/
  | genPoll (fn : Nat) (ans : Answer)
  /-- EVENT_BIT_CLEAR (R395). -/
  | eventBitClear (fn : Nat) (off : Nat) (w : Word)
  /-- EVENT_ROUTE_WRITE (R395). -/
  | eventRouteWrite (fn : Nat) (k : Nat) (w : Word)
  /-- REGISTER_WRITE (R14). -/
  | registerWrite (fn : Nat) (off : Nat) (w : Word)
  /-- FUNCTION_ENABLE (R401). -/
  | functionEnable (fn : Nat) (f : Nat) (w : Word)
  /-- ENABLE_COMPLETE (R401). -/
  | enableComplete (f : Nat)
  /-- FUNCTION_DISABLE (R402). -/
  | functionDisable (fn : Nat) (f : Nat) (w : Word)
  /-- GRANT_CTL_RESET (R402). -/
  | grantCtlReset (fn : Nat) (f : Nat) (w : Word)
  /-- FN_CTL_RESET (R402). -/
  | fnCtlReset (fn : Nat) (w : Word)
  /-- SHUTDOWN_COMPLETE (R403). -/
  | shutdownComplete (f : Nat)
  /-- GRANT_WRITE (R398). -/
  | grantWrite (fn : Nat) (off : Nat) (w : Word)
  /-- KEY_ROTATE (R413). -/
  | keyRotate (fn : Nat) (w : Word)
  /-- ROTATION_KEY_LOADED (R413). -/
  | rotationKeyLoaded (f : Nat)
  /-- SWEEP_PAGE_START (R414). -/
  | sweepPageStart (f : Nat) (port : Nat) (upset : Nat)
  /-- SWEEP_PAGE_DONE (R414). -/
  | sweepPageDone (f : Nat) (port : Nat)
  /-- DRBG_HEALTH_FAIL (R409). -/
  | drbgHealthFail (test : Nat)
  /-- DRBG_RESEED (R408). -/
  | drbgReseed
  /-- GET_VERSION (R422). -/
  | getVersion (bind : Nat) (req : List Byte)
  /-- GET_CAPABILITIES (R422). -/
  | getCapabilities (bind : Nat) (req : List Byte)
  /-- NEGOTIATE_ALGORITHMS (R422). -/
  | negotiateAlgorithms (bind : Nat) (req : List Byte)
  /-- GET_DIGESTS (R422). -/
  | getDigests (bind : Nat) (req : List Byte)
  /-- GET_CERTIFICATE (R422). -/
  | getCertificate (bind : Nat) (req : List Byte)
  /-- CHALLENGE (R422). -/
  | challenge (bind : Nat) (req : List Byte)
  /-- GET_MEASUREMENTS (R423). -/
  | getMeasurements (bind : Nat) (req : List Byte)
  /-- SPDM_UNSUPPORTED (R422). -/
  | spdmUnsupported (bind : Nat) (req : List Byte)
  /-- HARBOUR_WATCHDOG (R429). -/
  | harbourWatchdog
  /-- HBR_EVT_CLEAR (R430). -/
  | hbrEvtClear (fn : Nat) (w : Word)
  /-- HBR_EVT_ROUTE_WRITE (R430). -/
  | hbrEvtRouteWrite (fn : Nat) (w : Word)
  /-- WAKE_REQUEST (R432). -/
  | wakeRequest (islet : Nat)
  /-- DVFS_REQUEST (R434). -/
  | dvfsRequest (die : Nat) (point : Nat)
  /-- GOV_WINDOW_START (R431). -/
  | govWindowStart
  /-- CHARGE_END (R432). -/
  | chargeEnd (die : Nat)
  /-- GOV_CFG_WRITE (R264). -/
  | govCfgWrite (fn : Nat) (w : Word)
  /-- DVFS_VOLTAGE_SETTLED (R468). -/
  | dvfsVoltageSettled (die : Nat)
  /-- TEMP_SAMPLE (R435). -/
  | tempSample (temps : List Nat) (dram : List Nat)
  /-- THERMAL_CAP_STEP (R435). -/
  | thermalCapStep (die : Nat)
  /-- LEAD_REQUEST (R438). -/
  | leadRequest (west : Bool)
  /-- LEAD_RELEASE (R438). -/
  | leadRelease
  /-- LEAD_GRANT (R438). -/
  | leadGrant
  /-- LEAD_HOLD_TIMEOUT (R439). -/
  | leadHoldTimeout
  /-- LEADER_TAKEOVER (R436). -/
  | leaderTakeover (west : Bool)
  /-- GATE_ACTION_ARRIVE (R441). -/
  | gateActionArrive (act : Nat) (gate : Nat)
  /-- GATE_RESPONSE (R441). -/
  | gateResponse (act : Nat)
  /-- GATE_GO (R441). -/
  | gateGo (act : Nat) (gate : Nat)
  /-- GATE_DROP (R441). -/
  | gateDrop (act : Nat) (gate : Nat)
  /-- GATE_TIMEOUT (R441). -/
  | gateTimeout (act : Nat) (gate : Nat)
  /-- SNAPSHOT_GO (R444). -/
  | snapshotGo (fn : Nat) (w : Word)
  /-- SNAPSHOT_UNIT_ACCEPT (R444). -/
  | snapshotUnitAccept (island : Nat)
  /-- WARM_RESET (R447). -/
  | warmReset (fn : Nat) (w : Word)
  /-- STACK_RESET (R449). -/
  | stackReset (fn : Nat) (w : Word)
  /-- STACK_RESET_DONE (R449). -/
  | stackResetDone (stack : Nat)
  /-- BOOT_READY (R450). -/
  | bootReady (mlCaps : List Nat) (mlBad : List Nat)
  /-- READY_TIMEOUT (R477). -/
  | readyTimeout
  /-- TRIAL_TIMEOUT (R453). -/
  | trialTimeout
  /-- FW_STAGE (R451). -/
  | fwStage (fn : Nat) (w : Word)
  /-- FW_STAGE_DONE (R451). -/
  | fwStageDone (ans : Answer)
  /-- FW_CANCEL (R452). -/
  | fwCancel (fn : Nat) (w : Word)
  /-- JOURNAL_COMMIT (R457). -/
  | journalCommit (badBlock : Bool)
  /-- JOURNAL_COMPACT (R458). -/
  | journalCompact (fn : Nat) (w : Word)
  /-- JOURNAL_COMPACTION_DONE (R458). -/
  | journalCompactionDone
  /-- MCTP_IN_GO (R461). -/
  | mctpInGo (fn : Nat) (w : Word)
  /-- MCTP_OUT_ACK (R461). -/
  | mctpOutAck (fn : Nat) (w : Word)
  /-- SET_ENDPOINT_ID (R461). -/
  | setEndpointId (bind : Nat) (req : List Byte)
  /-- GET_ENDPOINT_ID (R461). -/
  | getEndpointId (bind : Nat) (req : List Byte)
  /-- GET_MCTP_VERSION_SUPPORT (R461). -/
  | getMctpVersionSupport (bind : Nat) (req : List Byte)
  /-- GET_MESSAGE_TYPE_SUPPORT (R461). -/
  | getMessageTypeSupport (bind : Nat) (req : List Byte)
  /-- GET_TID (R462). -/
  | getTid (bind : Nat) (req : List Byte)
  /-- SET_TID (R462). -/
  | setTid (bind : Nat) (req : List Byte)
  /-- GET_PLDM_VERSION (R462). -/
  | getPldmVersion (bind : Nat) (req : List Byte)
  /-- GET_PLDM_TYPES (R462). -/
  | getPldmTypes (bind : Nat) (req : List Byte)
  /-- GET_PLDM_COMMANDS (R462). -/
  | getPldmCommands (bind : Nat) (req : List Byte)
  /-- GET_PDR_REPOSITORY_INFO (R462). -/
  | getPdrRepositoryInfo (bind : Nat) (req : List Byte)
  /-- GET_PDR (R462). -/
  | getPdr (bind : Nat) (req : List Byte)
  /-- GET_SENSOR_READING (R462). -/
  | getSensorReading (bind : Nat) (req : List Byte)
  /-- GET_STATE_SENSOR_READINGS (R462). -/
  | getStateSensorReadings (bind : Nat) (req : List Byte)
  /-- PLDM_FIRMWARE_UPDATE (R462). -/
  | pldmFirmwareUpdate (bind : Nat) (src : Nat)
  /-- PLDM_UNSUPPORTED (R462). -/
  | pldmUnsupported (bind : Nat) (req : List Byte)
  /-- ENTDAA (R478). -/
  | entdaa (addr : Nat)
  /-- SETDASA (R478). -/
  | setdasa (static : Nat) (addr : Nat)
  /-- BYPASS (R479). -/
  | bypass
  /-- IDCODE (R479). -/
  | idcode
  /-- SAMPLE_PRELOAD (R479). -/
  | samplePreload (preload : Option (List Bool)) (captured : List Bool)
  /-- EXTEST (R480). -/
  | extest
  /-- CLAMP (R480). -/
  | clamp
  /-- HIGHZ (R480). -/
  | highz
  /-- EXTEST_PULSE (R480). -/
  | extestPulse
  /-- EXTEST_TRAIN (R480). -/
  | extestTrain
  /-- RESET_N_ASSERT (R475). -/
  | resetNAssert
  /-- RESET_N_RELEASE (R475). -/
  | resetNRelease
  /-- PWR_GOOD_N_ASSERT (R475). -/
  | pwrGoodNAssert
  /-- PWR_GOOD_N_RELEASE (R475). -/
  | pwrGoodNRelease
  /-- TEST_EN_ASSERT (R466). -/
  | testEnAssert
  /-- TEST_EN_RELEASE (R466). -/
  | testEnRelease
  /-- REFCLK_FAULT (R474). -/
  | refclkFault
  /-- POWER_LOSS (R472). -/
  | powerLoss
  /-- HARBOUR_WATCHDOG_WRITE (R429). -/
  | harbourWatchdogWrite (core : Nat)
  /-- MAINLAND_PORT_TRAINING_LOSS (R230). -/
  | mainlandPortTrainingLoss (port : Nat)
  /-- MAINLAND_PORT_RETRAINED (R230). -/
  | mainlandPortRetrained (port : Nat)
  /-- MAINLAND_REFRESH (R228). -/
  | mainlandRefresh (port : Nat) (rfm : Bool)
  /-- SHARD_DIGEST_READ_DONE (R365). -/
  | shardDigestReadDone (fn : Nat) (shard : Nat)
  /-- ADOPT_REGENERATION_DONE (R368). -/
  | adoptRegenerationDone (fn : Nat)
  deriving DecidableEq, Repr

end Sys2Proof
end

