-- ==== Sys2Proof/Config.lean ====
section
/-! DEFINITION. What an implementation fixes and the values the spec leaves free. Every constant here is
opaque: no proof can see a value of it (log entry 8). -/

namespace Sys2Proof

/-- The free number drawn `n`-th: random bytes, signatures, unspecified results (log entry 8). -/
opaque Config.freeNat : Nat → Nat

/-- Cycles island `i` advances in the `n`-th idle tick (R21 promises no relation; log entry 2). -/
opaque Config.tickCycles : Nat → Nat → Nat

/-- Ed448 verification with context: public key, context, message, signature (R299, R418). Log entry 15. -/
opaque Config.ed448Verify : List Byte → List Byte → List Byte → List Byte → Bool

/-- The Ed448 public key of a private key (R420). Log entry 15. -/
opaque Config.ed448Public : List Byte → List Byte

/-- The certificates of the device's chain, DER: 0 the device identity, issued at manufacture, 1 the product authority, 2 the vendor
root (R420). Log entries 4 and 15. -/
opaque Config.deviceCert : Nat → List Byte

/-- The vendor root digest in the fuses (R299, R416). Log entry 4. -/
opaque Config.rootDigest : List Byte

/-- What a chain reads from a register element that another of its elements writes: its program, the codes of its input
elements before it, the element read. Equal chains on equal operands read equal values (R185; log entry 24). -/
opaque Config.chainRead : List Byte → List Nat → Nat → Nat

/-- A correctly rounded elementary function beyond the precision the model searches (log entry 21):
operation, operand significand, operand exponent. -/
opaque Config.elementaryTail : Nat → Int → Int → Int

/-- The bank of a row of a pseudo-channel, which R218 leaves to the device: it shows in error records only. Log entry 13. -/
opaque Config.rowBank : Nat → Nat

/-- Channel, bank, row and column of a unit of a board frame, packed as bytes 5 to 13 of an error record; left to
the device (R218, R227). Log entry 13. -/
opaque Config.boardPlace : Nat → Nat

/-- The firmware measurement of the image that the factory put into a slot: `2 * component + slot` (R418, R423; log entry 4). -/
opaque Config.factoryMeas : Nat → List Byte

end Sys2Proof
end

