-- ==== Sys2Proof/Machine/Digest.lean ====
section
/-! DEFINITION. SHAKE256 of FIPS 202, which the spec names for page digests, image digests, identities and
measurements (R52, R71, R245, R366, R420, R424, R456). -/

namespace Sys2Proof.Machine

/-- A step of the 8-bit shift register that the round constants of FIPS 202 come from: its feedback is
x^8 + x^6 + x^5 + x^4 + 1. -/
def lfsrNext (r : Nat) : Nat := if 128 ≤ r then (2 * r % 256) ^^^ 0x71 else 2 * r

/-- The register after `n` steps from 1. -/
def lfsrAfter (n : Nat) : Nat := n.repeat lfsrNext 1

/-- The round constant of round `i`: bit 2^j - 1 is bit 0 of the register after 7 i + j steps, j = 0 to 6. -/
def roundConstant (i : Nat) : Word :=
  BitVec.ofNat 64 (((List.range 7).map (fun j => lfsrAfter (7 * i + j) % 2 * 2 ^ (2 ^ j - 1))).sum)

/-- The lane that follows lane `(x, y)` on the walk of the rotations, as `x + 5 * y`: `(y, 2 x + 3 y)`. -/
def nextLane (i : Nat) : Nat := i / 5 + 5 * ((2 * (i % 5) + 3 * (i / 5)) % 5)

/-- The rotation of a lane: the walk starts at lane 1, and turns its lane `t` by the triangular number of `t + 1`;
lane 0 stays. -/
def laneTurn (i : Nat) : Nat :=
  match (List.range 24).find? (fun t => t.repeat nextLane 1 == i) with
  | some t => (t + 1) * (t + 2) / 2 % 64
  | none => 0

/-- The turns of the 25 lanes. -/
def laneTurns : List Nat := (List.range 25).map laneTurn

/-- The parity of each column. -/
def columnParity (a : List Word) (x : Nat) : Word := [0, 1, 2, 3, 4].foldl (fun w y => w ^^^ a.getD (x % 5 + 5 * y) 0) 0

/-- One round of the permutation on its 25 lanes: parities of the two columns beside, turns, places, rows, constant. -/
def keccakRound (a : List Word) (i : Nat) : List Word :=
  let mixed := a.zipIdx.map (fun e => e.1 ^^^ columnParity a (e.2 + 4) ^^^ (columnParity a (e.2 + 1)).rotateLeft 1)
  let turned := mixed.zipWith (fun w n => w.rotateLeft n) laneTurns
  let row (y k : Nat) : Word := let x := k % 5; turned.getD ((x + 3 * y) % 5 + 5 * x) 0
  let out := [0, 1, 2, 3, 4].flatMap (fun y => [0, 1, 2, 3, 4].map (fun x => row y x ^^^ (~~~(row y (x + 1)) &&& row y (x + 2))))
  out.modifyHead (· ^^^ roundConstant i)

/-- The permutation: 24 rounds. -/
def keccakF (a : List Word) : List Word := (List.range 24).foldl keccakRound a

/-- The 64-bit lanes of a byte list, `n` of them. -/
def lanesOf : Nat → List Byte → List Word
  | 0, _ => []
  | n + 1, bs => BitVec.ofNat 64 (leNat (bs.take 8)) :: lanesOf n (bs.drop 8)

/-- Take in `n` blocks of 136 bytes. -/
def shakeAbsorb : Nat → List Word → List Byte → List Word
  | 0, a, _ => a
  | n + 1, a, bs =>
    let blk := lanesOf 17 (bs.take 136)
    shakeAbsorb n (keccakF (a.zipIdx.map (fun e => e.1 ^^^ blk.getD e.2 0))) (bs.drop 136)

/-- Give out `n` blocks of 136 bytes. -/
def shakeSqueeze : Nat → List Word → List Byte
  | 0, _ => []
  | n + 1, a => (a.take 17).flatMap (fun w => leBytes 8 w.toNat) ++ shakeSqueeze n (keccakF a)

/-- SHAKE256 with an output of `n` bytes. Log entry 15. -/
def shake256 (n : Nat) (msg : List Byte) : List Byte :=
  let free := 135 - msg.length % 136
  let padded := if free = 0 then msg ++ [0x9F] else msg ++ [0x1F] ++ List.replicate (free - 1) 0 ++ [0x80]
  (shakeSqueeze ((n + 135) / 136) (shakeAbsorb (padded.length / 136) (List.replicate 25 0) padded)).take n

/-- Absorb blocks of 72 bytes, the rate of SHA3-512. -/
def sha3Absorb : Nat → List Word → List Byte → List Word
  | 0, a, _ => a
  | n + 1, a, bs =>
    let blk := lanesOf 9 (bs.take 72)
    sha3Absorb n (keccakF (a.zipIdx.map (fun e => e.1 ^^^ blk.getD e.2 0))) (bs.drop 72)

/-- SHA3-512 (FIPS 202; R422's BaseHashAlgo). -/
def sha3of512 (msg : List Byte) : List Byte :=
  let free := 71 - msg.length % 72
  let padded := if free = 0 then msg ++ [0x86] else msg ++ [0x06] ++ List.replicate (free - 1) 0 ++ [0x80]
  ((sha3Absorb (padded.length / 72) (List.replicate 25 0) padded).take 8).flatMap (fun w => leBytes 8 w.toNat)

end Sys2Proof.Machine
end

