-- ==== Sys2Proof/Machine/Cert.lean ====
section
/-! DEFINITION. X.509 certificate chains with Ed448 keys (RFC 8410), which R418, R420 and R299 name and do not restate (log entry 15). -/

namespace Sys2Proof.Machine

/-- An element of a DER encoding: tag, content, and all its bytes. -/
structure DerItem where
  tag : Nat := 0
  content : List Byte := []
  whole : List Byte := []
  deriving DecidableEq, Repr

/-- The length that stands at the start of bytes, and the number of bytes that it takes. -/
def derLength : List Byte → Option (Nat × Nat)
  | [] => none
  | b :: rest =>
    let n := b.toNat - 128
    if b.toNat < 128 then some (b.toNat, 1)
    else if n = 0 ∨ 4 < n ∨ rest.length < n then none
    else some (leNat (rest.take n).reverse, 1 + n)

/-- The elements of a DER encoding, one after another, at most `fuel`; bytes that are no element end the list. -/
def derItems : Nat → List Byte → List DerItem
  | 0, _ => []
  | _, [] => []
  | fuel + 1, t :: rest =>
    match derLength rest with
    | none => []
    | some (n, k) =>
      if rest.length < k + n then []
      else
        { tag := t.toNat, content := (rest.drop k).take n, whole := t :: rest.take (k + n) } :: derItems fuel (rest.drop (k + n))

/-- The parts of a certificate: what is signed, the algorithm, the signature. Log entry 15. -/
def certParts (c : List Byte) : List DerItem := ((derItems 1 c).headD {}).content |> derItems 3

/-- What the signature of a certificate covers, and the signature, a bit string. -/
def certSigned (c : List Byte) : List Byte := ((certParts c).getD 0 {}).whole
def certSignature (c : List Byte) : List Byte := ((certParts c).getD 2 {}).content.drop 1

/-- The public key that a certificate certifies: the sixth field after the version. Log entry 15. -/
def certKey (c : List Byte) : List Byte :=
  let fields := derItems 10 ((certParts c).getD 0 {}).content
  let fields := if (fields.headD {}).tag = 0xA0 then fields.tail else fields
  ((derItems 2 (fields.getD 5 {}).content).getD 1 {}).content.drop 1

/-- The certificates of a chain. -/
def chainCerts (chain : List Byte) : List (List Byte) := (derItems chain.length chain).map (·.whole)

/-- Every certificate of a chain is signed with the key of the next, and the last one's key has the digest of the root (R299, R418).
Log entry 15. -/
def chainValid (chain root : List Byte) : Bool :=
  let cs := chainCerts chain
  !cs.isEmpty && (cs.map List.length).sum == chain.length &&
  (List.range (cs.length - 1)).all (fun i =>
    Config.ed448Verify (certKey (cs.getD (i + 1) [])) [] (certSigned (cs.getD i [])) (certSignature (cs.getD i []))) &&
  shake256 64 (certKey (cs.getLastD [])) == root

/-- The public key of a chain's first certificate. -/
def chainLeafKey (chain : List Byte) : List Byte := certKey ((chainCerts chain).headD [])

/-- The device's certificate chain: the device identity, the product authority, the vendor root (R420). -/
def deviceChain : List Byte := [0, 1, 2].flatMap Config.deviceCert

/-- The bytes of an ASCII string. -/
def asciiBytes (x : String) : List Byte := x.toList.map (fun c => BitVec.ofNat 8 c.toNat)

/-- The private key of the device identity, which the key-derivation engine derives from the unique device secret at each boot and
nothing else reads (R420). Log entry 4. -/
def identityKey (secret : List Byte) : List Byte := shake256 57 (secret ++ asciiBytes "TVDI-ED448")

/-- The identity digest (R420). Log entry 15. -/
def identityDigest (secret : List Byte) : List Byte := shake256 64 (Config.ed448Public (identityKey secret))

end Sys2Proof.Machine
end

