-- ==== Sys2Proof/Machine/Reg.lean ====
section
/-! DEFINITION. The registers of the control window, one a register table of spec/: where each stands, and its
fields with access type and reset value (R14, R15). -/

namespace Sys2Proof.Machine

/-- A register (or an array of registers of one table). -/
inductive Reg where
  | PKG_IDENT
  | PKG_CAP
  | PKG_PORTS
  | STR_COUNT
  | STR_FAIL_MAP
  | STR_EVT
  | STR_ISLAND_CLK
  | STR_DESC
  | STR_STAT
  | STR_ERR
  | STR_ARB
  | STR_UNITS
  | IMG_LOAD_CTL
  | IMG_SRC_ADDR
  | IMG_ATOLL_SEL
  | IMG_LOAD_STAT
  | IMG_EVT
  | IMG_CFG_STATE
  | IMG_ACTIVE_ID
  | IMG_LOAD_TIME
  | IMG_DIGEST
  | IMG_MEAS
  | IMG_BOUNDARY_DROP
  | ISL_CTL
  | ISL_STAT
  | ISL_SP_ERR
  | ISL_COLL
  | ISL_COLL_CFG
  | ISL_COPY_STAT
  | ISL_CHAN_SENT
  | ISL_CHAN_RCVD
  | ISL_IDENT
  | ISL_PLAN_FREE
  | MX_CFG
  | MX_STAT
  | MX_FLAGS
  | MX_BUSY
  | MX_SWAPS
  | MX_STALLS
  | MX_ERR
  | MX_GATE_CFG
  | VX_STAT
  | VX_FLAGS
  | VX_BUSY
  | VX_STALLS
  | VX_ERR
  | VX_COUNT
  | VX_LOADED
  | MEM_PIPE_STAT
  | MEM_PIPE_BUSY
  | MEM_SHOAL_PTR
  | MEM_SHOAL_CUR
  | MEM_SHOAL_ERR
  | MEM_SHOAL_USE
  | MEM_CAP
  | MEM_POOL
  | MEM_MIG_REQ
  | MEM_MIG_CTL
  | MEM_MIG_STAT
  | MEM_MIG_DONE
  | MEM_EVT
  | MEM_UNMAPPED
  | MEM_ERR_COUNT
  | MEM_ERR_LAST
  | MEM_XLATE_ADDR
  | MEM_XLATE_RES
  | MEM_SCRUB_CFG
  | MEM_REPAIR_CFG
  | MEM_STACK_STAT
  | MEM_STACK_ERR
  | MEM_ML_PORT_STAT
  | MEM_ML_PORT_ERR
  | REEF_STACK_STAT
  | REEF_REQ
  | REEF_ISSUE
  | REEF_EVT
  | REEF_LAST
  | REEF_OPS
  | REEF_ECC
  | REEF_YIELDS
  | REEF_CAUSE
  | REEF_LOADED
  | REEF_UNIT_STAT
  | JL_PORT_CTL
  | JL_PORT_STAT
  | JL_PORT_CFG
  | JL_PORT_ERR
  | JL_PORT_ERR2
  | JL_PORT_TXC
  | JL_PORT_TX_FLITS
  | JL_PORT_RX_FLITS
  | JL_PORT_PEER
  | JL_PORT_PIN
  | JL_PORT_EVT
  | JL_CHAIN
  | JL_DEV_CFG
  | JL_DROPS
  | JL_UNREACH
  | JL_FN_EVT
  | JL_ROUTE
  | RED_CTX_MAP
  | RED_EVT
  | RED_DROPS
  | RED_JOB_CTL
  | RED_JOB_STAT
  | RED_JOB_STEP
  | RED_JOB_SCALE
  | RED_JOB_COUNT
  | RED_JOB_NF
  | RED_JOB_LATE
  | RED_JOB_FLITS
  | OPT_CTL
  | OPT_STAT
  | OPT_STEP
  | OPT_UPDATES
  | OPT_NORM
  | OPT_SCALE
  | OPT_EVT
  | OPT_DIVERGE
  | OPT_DIGEST
  | OPT_SHARD_SEL
  | OPT_SHARD_STAT
  | SVC_INFO
  | SVC_EVT
  | SVC_STEP_STAT
  | SVC_STEP_CUR
  | SVC_GEN_STAT
  | SVC_GEN_TOKENS
  | SVC_CTRL_STAT
  | SVC_EVT_ROUTE
  | SVC_Q_CMD_BASE
  | SVC_Q_CPL_BASE
  | SVC_Q_CFG
  | SVC_Q_DB
  | SVC_Q_CPL_DB
  | SVC_Q_STAT
  | SVC_Q_STATE
  | SEC_FN_ID
  | SEC_FN_CTL
  | SEC_KEY_CTL
  | SEC_KEY_STAT
  | SEC_KEY_PAGES
  | SEC_KEY_WRITTEN
  | SEC_DEV_STAT
  | SEC_SVN
  | SEC_DEV_ID
  | SEC_DRBG
  | SEC_GRANT_CTL
  | SEC_GRANT_ATOLLS
  | SEC_GRANT_RES
  | SEC_GRANT_PORTS
  | SEC_GRANT_ML
  | SEC_FN_TIME
  | HBR_STAT
  | HBR_EVT
  | HBR_EVT_ROUTE
  | HBR_RESET_CTL
  | HBR_RESET_STAT
  | HBR_GOV_CFG
  | HBR_GOV_STAT
  | HBR_GOV_POINT
  | HBR_LEAD
  | HBR_SNAP_CTL
  | HBR_SNAP_ISSUE
  | HBR_SNAP_CNT
  | HBR_JNL_CTL
  | HBR_JNL_STAT
  | HBR_JNL_SEQ
  | HBR_FW_CTL
  | HBR_FW_SRC
  | HBR_FW_STAT
  | HBR_TEMP
  | HBR_MCTP_CTL
  | HBR_MCTP_IN
  | HBR_MCTP_OUT
  deriving DecidableEq, Repr

/-- The access types of R14. -/
inductive RegAccess where
  | RO | RW | RW1C | WO
  deriving DecidableEq, Repr

/-- A field: the register and its bits, highest and lowest. -/
structure Fld where
  reg : Reg
  hi : Nat
  lo : Nat
  deriving DecidableEq, Repr

/-- A field of a register table: bits, access type, reset value (0 where the table gives none). -/
structure FieldSpec where
  hi : Nat
  lo : Nat
  acc : RegAccess
  reset : Nat
  deriving DecidableEq, Repr

/-- Where a register stands: its base offset; whether each function has its own; the stride and number of its
first index (islet, strait, port, stack, context ...) and of its second (word, queue, slot). -/
structure RegPlace where
  base : Nat
  perFn : Bool
  strideA : Nat
  countA : Nat
  strideB : Nat
  countB : Nat
  deriving DecidableEq, Repr

/-- The number of a register. -/
def Reg.code : Reg → Nat
  | .PKG_IDENT => 0
  | .PKG_CAP => 1
  | .PKG_PORTS => 2
  | .STR_COUNT => 3
  | .STR_FAIL_MAP => 4
  | .STR_EVT => 5
  | .STR_ISLAND_CLK => 6
  | .STR_DESC => 7
  | .STR_STAT => 8
  | .STR_ERR => 9
  | .STR_ARB => 10
  | .STR_UNITS => 11
  | .IMG_LOAD_CTL => 12
  | .IMG_SRC_ADDR => 13
  | .IMG_ATOLL_SEL => 14
  | .IMG_LOAD_STAT => 15
  | .IMG_EVT => 16
  | .IMG_CFG_STATE => 17
  | .IMG_ACTIVE_ID => 18
  | .IMG_LOAD_TIME => 19
  | .IMG_DIGEST => 20
  | .IMG_MEAS => 21
  | .IMG_BOUNDARY_DROP => 22
  | .ISL_CTL => 23
  | .ISL_STAT => 24
  | .ISL_SP_ERR => 25
  | .ISL_COLL => 26
  | .ISL_COLL_CFG => 27
  | .ISL_COPY_STAT => 28
  | .ISL_CHAN_SENT => 29
  | .ISL_CHAN_RCVD => 30
  | .ISL_IDENT => 31
  | .ISL_PLAN_FREE => 32
  | .MX_CFG => 33
  | .MX_STAT => 34
  | .MX_FLAGS => 35
  | .MX_BUSY => 36
  | .MX_SWAPS => 37
  | .MX_STALLS => 38
  | .MX_ERR => 39
  | .MX_GATE_CFG => 40
  | .VX_STAT => 41
  | .VX_FLAGS => 42
  | .VX_BUSY => 43
  | .VX_STALLS => 44
  | .VX_ERR => 45
  | .VX_COUNT => 46
  | .VX_LOADED => 47
  | .MEM_PIPE_STAT => 48
  | .MEM_PIPE_BUSY => 49
  | .MEM_SHOAL_PTR => 50
  | .MEM_SHOAL_CUR => 51
  | .MEM_SHOAL_ERR => 52
  | .MEM_SHOAL_USE => 53
  | .MEM_CAP => 54
  | .MEM_POOL => 55
  | .MEM_MIG_REQ => 56
  | .MEM_MIG_CTL => 57
  | .MEM_MIG_STAT => 58
  | .MEM_MIG_DONE => 59
  | .MEM_EVT => 60
  | .MEM_UNMAPPED => 61
  | .MEM_ERR_COUNT => 62
  | .MEM_ERR_LAST => 63
  | .MEM_XLATE_ADDR => 64
  | .MEM_XLATE_RES => 65
  | .MEM_SCRUB_CFG => 66
  | .MEM_REPAIR_CFG => 67
  | .MEM_STACK_STAT => 68
  | .MEM_STACK_ERR => 69
  | .MEM_ML_PORT_STAT => 70
  | .MEM_ML_PORT_ERR => 71
  | .REEF_STACK_STAT => 72
  | .REEF_REQ => 73
  | .REEF_ISSUE => 74
  | .REEF_EVT => 75
  | .REEF_LAST => 76
  | .REEF_OPS => 77
  | .REEF_ECC => 78
  | .REEF_YIELDS => 79
  | .REEF_CAUSE => 80
  | .REEF_LOADED => 81
  | .REEF_UNIT_STAT => 82
  | .JL_PORT_CTL => 83
  | .JL_PORT_STAT => 84
  | .JL_PORT_CFG => 85
  | .JL_PORT_ERR => 86
  | .JL_PORT_ERR2 => 87
  | .JL_PORT_TXC => 88
  | .JL_PORT_TX_FLITS => 89
  | .JL_PORT_RX_FLITS => 90
  | .JL_PORT_PEER => 91
  | .JL_PORT_PIN => 92
  | .JL_PORT_EVT => 93
  | .JL_CHAIN => 94
  | .JL_DEV_CFG => 95
  | .JL_DROPS => 96
  | .JL_UNREACH => 97
  | .JL_FN_EVT => 98
  | .JL_ROUTE => 99
  | .RED_CTX_MAP => 100
  | .RED_EVT => 101
  | .RED_DROPS => 102
  | .RED_JOB_CTL => 103
  | .RED_JOB_STAT => 104
  | .RED_JOB_STEP => 105
  | .RED_JOB_SCALE => 106
  | .RED_JOB_COUNT => 107
  | .RED_JOB_NF => 108
  | .RED_JOB_LATE => 109
  | .RED_JOB_FLITS => 110
  | .OPT_CTL => 111
  | .OPT_STAT => 112
  | .OPT_STEP => 113
  | .OPT_UPDATES => 114
  | .OPT_NORM => 115
  | .OPT_SCALE => 116
  | .OPT_EVT => 117
  | .OPT_DIVERGE => 118
  | .OPT_DIGEST => 119
  | .OPT_SHARD_SEL => 120
  | .OPT_SHARD_STAT => 121
  | .SVC_INFO => 122
  | .SVC_EVT => 123
  | .SVC_STEP_STAT => 124
  | .SVC_STEP_CUR => 125
  | .SVC_GEN_STAT => 126
  | .SVC_GEN_TOKENS => 127
  | .SVC_CTRL_STAT => 128
  | .SVC_EVT_ROUTE => 129
  | .SVC_Q_CMD_BASE => 130
  | .SVC_Q_CPL_BASE => 131
  | .SVC_Q_CFG => 132
  | .SVC_Q_DB => 133
  | .SVC_Q_CPL_DB => 134
  | .SVC_Q_STAT => 135
  | .SVC_Q_STATE => 136
  | .SEC_FN_ID => 137
  | .SEC_FN_CTL => 138
  | .SEC_KEY_CTL => 139
  | .SEC_KEY_STAT => 140
  | .SEC_KEY_PAGES => 141
  | .SEC_KEY_WRITTEN => 142
  | .SEC_DEV_STAT => 143
  | .SEC_SVN => 144
  | .SEC_DEV_ID => 145
  | .SEC_DRBG => 146
  | .SEC_GRANT_CTL => 147
  | .SEC_GRANT_ATOLLS => 148
  | .SEC_GRANT_RES => 149
  | .SEC_GRANT_PORTS => 150
  | .SEC_GRANT_ML => 151
  | .SEC_FN_TIME => 152
  | .HBR_STAT => 153
  | .HBR_EVT => 154
  | .HBR_EVT_ROUTE => 155
  | .HBR_RESET_CTL => 156
  | .HBR_RESET_STAT => 157
  | .HBR_GOV_CFG => 158
  | .HBR_GOV_STAT => 159
  | .HBR_GOV_POINT => 160
  | .HBR_LEAD => 161
  | .HBR_SNAP_CTL => 162
  | .HBR_SNAP_ISSUE => 163
  | .HBR_SNAP_CNT => 164
  | .HBR_JNL_CTL => 165
  | .HBR_JNL_STAT => 166
  | .HBR_JNL_SEQ => 167
  | .HBR_FW_CTL => 168
  | .HBR_FW_SRC => 169
  | .HBR_FW_STAT => 170
  | .HBR_TEMP => 171
  | .HBR_MCTP_CTL => 172
  | .HBR_MCTP_IN => 173
  | .HBR_MCTP_OUT => 174

/-- Where each register stands (the register tables of spec/). -/
def Reg.place : Reg → RegPlace
  | .PKG_IDENT => ⟨0x0, false, 0x0, 1, 0x0, 1⟩
  | .PKG_CAP => ⟨0x8, false, 0x0, 1, 0x0, 1⟩
  | .PKG_PORTS => ⟨0x10, false, 0x0, 1, 0x0, 1⟩
  | .STR_COUNT => ⟨0x10000, false, 0x0, 1, 0x0, 1⟩
  | .STR_FAIL_MAP => ⟨0x10008, false, 0x0, 1, 0x0, 1⟩
  | .STR_EVT => ⟨0x10010, false, 0x0, 1, 0x0, 1⟩
  | .STR_ISLAND_CLK => ⟨0x10040, false, 0x8, 18, 0x0, 1⟩
  | .STR_DESC => ⟨0x10100, false, 0x40, 35, 0x0, 1⟩
  | .STR_STAT => ⟨0x10108, false, 0x40, 35, 0x0, 1⟩
  | .STR_ERR => ⟨0x10110, false, 0x40, 35, 0x0, 1⟩
  | .STR_ARB => ⟨0x10118, false, 0x40, 35, 0x0, 1⟩
  | .STR_UNITS => ⟨0x10120, false, 0x40, 35, 0x8, 2⟩
  | .IMG_LOAD_CTL => ⟨0x20000, true, 0x0, 1, 0x0, 1⟩
  | .IMG_SRC_ADDR => ⟨0x20008, true, 0x0, 1, 0x0, 1⟩
  | .IMG_ATOLL_SEL => ⟨0x20010, true, 0x0, 1, 0x0, 1⟩
  | .IMG_LOAD_STAT => ⟨0x20018, true, 0x0, 1, 0x0, 1⟩
  | .IMG_EVT => ⟨0x20020, true, 0x0, 1, 0x0, 1⟩
  | .IMG_CFG_STATE => ⟨0x20028, true, 0x0, 1, 0x0, 1⟩
  | .IMG_ACTIVE_ID => ⟨0x20030, true, 0x0, 1, 0x0, 1⟩
  | .IMG_LOAD_TIME => ⟨0x20038, true, 0x0, 1, 0x0, 1⟩
  | .IMG_DIGEST => ⟨0x20040, true, 0x0, 1, 0x8, 8⟩
  | .IMG_MEAS => ⟨0x20080, true, 0x0, 1, 0x8, 8⟩
  | .IMG_BOUNDARY_DROP => ⟨0x200C0, true, 0x0, 1, 0x0, 1⟩
  | .ISL_CTL => ⟨0x100000, false, 0x1000, 384, 0x0, 1⟩
  | .ISL_STAT => ⟨0x100008, false, 0x1000, 384, 0x0, 1⟩
  | .ISL_SP_ERR => ⟨0x100010, false, 0x1000, 384, 0x0, 1⟩
  | .ISL_COLL => ⟨0x100018, false, 0x1000, 384, 0x0, 1⟩
  | .ISL_COLL_CFG => ⟨0x100020, false, 0x1000, 384, 0x0, 1⟩
  | .ISL_COPY_STAT => ⟨0x100028, false, 0x1000, 384, 0x8, 2⟩
  | .ISL_CHAN_SENT => ⟨0x100038, false, 0x1000, 384, 0x0, 1⟩
  | .ISL_CHAN_RCVD => ⟨0x100040, false, 0x1000, 384, 0x0, 1⟩
  | .ISL_IDENT => ⟨0x100048, false, 0x1000, 384, 0x0, 1⟩
  | .ISL_PLAN_FREE => ⟨0x100050, false, 0x1000, 384, 0x0, 1⟩
  | .MX_CFG => ⟨0x100400, false, 0x1000, 384, 0x0, 1⟩
  | .MX_STAT => ⟨0x100408, false, 0x1000, 384, 0x0, 1⟩
  | .MX_FLAGS => ⟨0x100410, false, 0x1000, 384, 0x0, 1⟩
  | .MX_BUSY => ⟨0x100418, false, 0x1000, 384, 0x0, 1⟩
  | .MX_SWAPS => ⟨0x100420, false, 0x1000, 384, 0x0, 1⟩
  | .MX_STALLS => ⟨0x100428, false, 0x1000, 384, 0x0, 1⟩
  | .MX_ERR => ⟨0x100430, false, 0x1000, 384, 0x0, 1⟩
  | .MX_GATE_CFG => ⟨0x100438, false, 0x1000, 384, 0x0, 1⟩
  | .VX_STAT => ⟨0x100800, false, 0x1000, 384, 0x0, 1⟩
  | .VX_FLAGS => ⟨0x100808, false, 0x1000, 384, 0x0, 1⟩
  | .VX_BUSY => ⟨0x100810, false, 0x1000, 384, 0x0, 1⟩
  | .VX_STALLS => ⟨0x100818, false, 0x1000, 384, 0x0, 1⟩
  | .VX_ERR => ⟨0x100820, false, 0x1000, 384, 0x0, 1⟩
  | .VX_COUNT => ⟨0x100828, false, 0x1000, 384, 0x0, 1⟩
  | .VX_LOADED => ⟨0x100830, false, 0x1000, 384, 0x0, 1⟩
  | .MEM_PIPE_STAT => ⟨0x4F0000, true, 0x0, 1, 0x100, 64⟩
  | .MEM_PIPE_BUSY => ⟨0x4F0008, true, 0x0, 1, 0x100, 64⟩
  | .MEM_SHOAL_PTR => ⟨0x4F0010, true, 0x0, 1, 0x100, 64⟩
  | .MEM_SHOAL_CUR => ⟨0x4F0018, true, 0x0, 1, 0x100, 64⟩
  | .MEM_SHOAL_ERR => ⟨0x4F0020, true, 0x0, 1, 0x100, 64⟩
  | .MEM_SHOAL_USE => ⟨0x4F0028, true, 0x0, 1, 0x100, 64⟩
  | .MEM_CAP => ⟨0x400000, true, 0x0, 1, 0x0, 1⟩
  | .MEM_POOL => ⟨0x400008, true, 0x0, 1, 0x0, 1⟩
  | .MEM_MIG_REQ => ⟨0x400010, true, 0x0, 1, 0x8, 4⟩
  | .MEM_MIG_CTL => ⟨0x400030, true, 0x0, 1, 0x0, 1⟩
  | .MEM_MIG_STAT => ⟨0x400038, true, 0x0, 1, 0x0, 1⟩
  | .MEM_MIG_DONE => ⟨0x400040, true, 0x0, 1, 0x0, 1⟩
  | .MEM_EVT => ⟨0x400048, true, 0x0, 1, 0x0, 1⟩
  | .MEM_UNMAPPED => ⟨0x400050, true, 0x0, 1, 0x0, 1⟩
  | .MEM_ERR_COUNT => ⟨0x400058, true, 0x0, 1, 0x0, 1⟩
  | .MEM_ERR_LAST => ⟨0x400060, true, 0x0, 1, 0x8, 4⟩
  | .MEM_XLATE_ADDR => ⟨0x400080, true, 0x0, 1, 0x0, 1⟩
  | .MEM_XLATE_RES => ⟨0x400088, true, 0x0, 1, 0x0, 1⟩
  | .MEM_SCRUB_CFG => ⟨0x400100, false, 0x0, 1, 0x0, 1⟩
  | .MEM_REPAIR_CFG => ⟨0x400108, false, 0x0, 1, 0x0, 1⟩
  | .MEM_STACK_STAT => ⟨0x400200, false, 0x10, 8, 0x0, 1⟩
  | .MEM_STACK_ERR => ⟨0x400208, false, 0x10, 8, 0x0, 1⟩
  | .MEM_ML_PORT_STAT => ⟨0x400300, false, 0x10, 16, 0x0, 1⟩
  | .MEM_ML_PORT_ERR => ⟨0x400308, false, 0x10, 16, 0x0, 1⟩
  | .REEF_STACK_STAT => ⟨0x500000, false, 0x1000, 8, 0x0, 1⟩
  | .REEF_REQ => ⟨0x500008, false, 0x1000, 8, 0x8, 4⟩
  | .REEF_ISSUE => ⟨0x500028, false, 0x1000, 8, 0x0, 1⟩
  | .REEF_EVT => ⟨0x500030, false, 0x1000, 8, 0x0, 1⟩
  | .REEF_LAST => ⟨0x500038, false, 0x1000, 8, 0x8, 4⟩
  | .REEF_OPS => ⟨0x500058, false, 0x1000, 8, 0x0, 1⟩
  | .REEF_ECC => ⟨0x500060, false, 0x1000, 8, 0x0, 1⟩
  | .REEF_YIELDS => ⟨0x500068, false, 0x1000, 8, 0x0, 1⟩
  | .REEF_CAUSE => ⟨0x500070, false, 0x1000, 8, 0x0, 1⟩
  | .REEF_LOADED => ⟨0x500078, false, 0x1000, 8, 0x0, 1⟩
  | .REEF_UNIT_STAT => ⟨0x500100, false, 0x1000, 8, 0x8, 64⟩
  | .JL_PORT_CTL => ⟨0x600000, false, 0x1000, 24, 0x0, 1⟩
  | .JL_PORT_STAT => ⟨0x600008, false, 0x1000, 24, 0x0, 1⟩
  | .JL_PORT_CFG => ⟨0x600010, false, 0x1000, 24, 0x0, 1⟩
  | .JL_PORT_ERR => ⟨0x600018, false, 0x1000, 24, 0x0, 1⟩
  | .JL_PORT_ERR2 => ⟨0x600020, false, 0x1000, 24, 0x0, 1⟩
  | .JL_PORT_TXC => ⟨0x600028, false, 0x1000, 24, 0x0, 1⟩
  | .JL_PORT_TX_FLITS => ⟨0x600030, false, 0x1000, 24, 0x0, 1⟩
  | .JL_PORT_RX_FLITS => ⟨0x600038, false, 0x1000, 24, 0x0, 1⟩
  | .JL_PORT_PEER => ⟨0x600040, false, 0x1000, 24, 0x8, 8⟩
  | .JL_PORT_PIN => ⟨0x600080, false, 0x1000, 24, 0x8, 8⟩
  | .JL_PORT_EVT => ⟨0x6000C0, false, 0x1000, 24, 0x0, 1⟩
  | .JL_CHAIN => ⟨0x618000, false, 0x0, 1, 0x0, 1⟩
  | .JL_DEV_CFG => ⟨0x618008, false, 0x0, 1, 0x0, 1⟩
  | .JL_DROPS => ⟨0x618010, false, 0x0, 1, 0x0, 1⟩
  | .JL_UNREACH => ⟨0x618018, true, 0x0, 1, 0x0, 1⟩
  | .JL_FN_EVT => ⟨0x618020, true, 0x0, 1, 0x0, 1⟩
  | .JL_ROUTE => ⟨0x619000, false, 0x8, 256, 0x0, 1⟩
  | .RED_CTX_MAP => ⟨0x700000, true, 0x0, 1, 0x0, 1⟩
  | .RED_EVT => ⟨0x700008, true, 0x0, 1, 0x0, 1⟩
  | .RED_DROPS => ⟨0x700010, true, 0x0, 1, 0x0, 1⟩
  | .RED_JOB_CTL => ⟨0x701000, false, 0x100, 32, 0x0, 1⟩
  | .RED_JOB_STAT => ⟨0x701008, false, 0x100, 32, 0x0, 1⟩
  | .RED_JOB_STEP => ⟨0x701010, false, 0x100, 32, 0x0, 1⟩
  | .RED_JOB_SCALE => ⟨0x701018, false, 0x100, 32, 0x0, 1⟩
  | .RED_JOB_COUNT => ⟨0x701020, false, 0x100, 32, 0x0, 1⟩
  | .RED_JOB_NF => ⟨0x701028, false, 0x100, 32, 0x0, 1⟩
  | .RED_JOB_LATE => ⟨0x701030, false, 0x100, 32, 0x0, 1⟩
  | .RED_JOB_FLITS => ⟨0x701038, false, 0x100, 32, 0x0, 1⟩
  | .OPT_CTL => ⟨0x780000, true, 0x0, 1, 0x0, 1⟩
  | .OPT_STAT => ⟨0x780008, true, 0x0, 1, 0x0, 1⟩
  | .OPT_STEP => ⟨0x780010, true, 0x0, 1, 0x0, 1⟩
  | .OPT_UPDATES => ⟨0x780018, true, 0x0, 1, 0x0, 1⟩
  | .OPT_NORM => ⟨0x780020, true, 0x0, 1, 0x0, 1⟩
  | .OPT_SCALE => ⟨0x780028, true, 0x0, 1, 0x0, 1⟩
  | .OPT_EVT => ⟨0x780030, true, 0x0, 1, 0x0, 1⟩
  | .OPT_DIVERGE => ⟨0x780038, true, 0x0, 1, 0x0, 1⟩
  | .OPT_DIGEST => ⟨0x780040, true, 0x0, 1, 0x8, 8⟩
  | .OPT_SHARD_SEL => ⟨0x780080, true, 0x0, 1, 0x0, 1⟩
  | .OPT_SHARD_STAT => ⟨0x780088, true, 0x0, 1, 0x0, 1⟩
  | .SVC_INFO => ⟨0x800000, true, 0x0, 1, 0x0, 1⟩
  | .SVC_EVT => ⟨0x800008, true, 0x0, 1, 0x0, 1⟩
  | .SVC_STEP_STAT => ⟨0x800010, true, 0x0, 1, 0x0, 1⟩
  | .SVC_STEP_CUR => ⟨0x800018, true, 0x0, 1, 0x0, 1⟩
  | .SVC_GEN_STAT => ⟨0x800020, true, 0x0, 1, 0x0, 1⟩
  | .SVC_GEN_TOKENS => ⟨0x800028, true, 0x0, 1, 0x0, 1⟩
  | .SVC_CTRL_STAT => ⟨0x800040, false, 0x8, 4, 0x0, 1⟩
  | .SVC_EVT_ROUTE => ⟨0x800080, true, 0x0, 1, 0x8, 16⟩
  | .SVC_Q_CMD_BASE => ⟨0x801000, true, 0x0, 1, 0x40, 64⟩
  | .SVC_Q_CPL_BASE => ⟨0x801008, true, 0x0, 1, 0x40, 64⟩
  | .SVC_Q_CFG => ⟨0x801010, true, 0x0, 1, 0x40, 64⟩
  | .SVC_Q_DB => ⟨0x801018, true, 0x0, 1, 0x40, 64⟩
  | .SVC_Q_CPL_DB => ⟨0x801020, true, 0x0, 1, 0x40, 64⟩
  | .SVC_Q_STAT => ⟨0x801028, true, 0x0, 1, 0x40, 64⟩
  | .SVC_Q_STATE => ⟨0x801030, true, 0x0, 1, 0x40, 64⟩
  | .SEC_FN_ID => ⟨0x900000, true, 0x0, 1, 0x0, 1⟩
  | .SEC_FN_CTL => ⟨0x900008, true, 0x0, 1, 0x0, 1⟩
  | .SEC_KEY_CTL => ⟨0x900010, true, 0x0, 1, 0x0, 1⟩
  | .SEC_KEY_STAT => ⟨0x900018, true, 0x0, 1, 0x0, 1⟩
  | .SEC_KEY_PAGES => ⟨0x900020, true, 0x0, 1, 0x0, 1⟩
  | .SEC_KEY_WRITTEN => ⟨0x900028, true, 0x0, 1, 0x0, 1⟩
  | .SEC_DEV_STAT => ⟨0x900800, false, 0x0, 1, 0x0, 1⟩
  | .SEC_SVN => ⟨0x900808, false, 0x0, 1, 0x0, 1⟩
  | .SEC_DEV_ID => ⟨0x900810, false, 0x0, 1, 0x8, 8⟩
  | .SEC_DRBG => ⟨0x900850, false, 0x0, 1, 0x0, 1⟩
  | .SEC_GRANT_CTL => ⟨0x901000, false, 0x200, 9, 0x0, 1⟩
  | .SEC_GRANT_ATOLLS => ⟨0x901008, false, 0x200, 9, 0x0, 1⟩
  | .SEC_GRANT_RES => ⟨0x901010, false, 0x200, 9, 0x0, 1⟩
  | .SEC_GRANT_PORTS => ⟨0x901018, false, 0x200, 9, 0x0, 1⟩
  | .SEC_GRANT_ML => ⟨0x901020, false, 0x200, 9, 0x8, 32⟩
  | .SEC_FN_TIME => ⟨0x901120, false, 0x200, 9, 0x0, 1⟩
  | .HBR_STAT => ⟨0xA00000, false, 0x0, 1, 0x0, 1⟩
  | .HBR_EVT => ⟨0xA00008, false, 0x0, 1, 0x0, 1⟩
  | .HBR_EVT_ROUTE => ⟨0xA00010, false, 0x0, 1, 0x0, 1⟩
  | .HBR_RESET_CTL => ⟨0xA00018, false, 0x0, 1, 0x0, 1⟩
  | .HBR_RESET_STAT => ⟨0xA00020, false, 0x0, 1, 0x0, 1⟩
  | .HBR_GOV_CFG => ⟨0xA00028, false, 0x0, 1, 0x0, 1⟩
  | .HBR_GOV_STAT => ⟨0xA00030, false, 0x0, 1, 0x0, 1⟩
  | .HBR_GOV_POINT => ⟨0xA00040, false, 0x8, 4, 0x0, 1⟩
  | .HBR_LEAD => ⟨0xA00060, false, 0x0, 1, 0x0, 1⟩
  | .HBR_SNAP_CTL => ⟨0xA00068, false, 0x0, 1, 0x0, 1⟩
  | .HBR_SNAP_ISSUE => ⟨0xA00070, false, 0x0, 1, 0x0, 1⟩
  | .HBR_SNAP_CNT => ⟨0xA00080, false, 0x8, 18, 0x0, 1⟩
  | .HBR_JNL_CTL => ⟨0xA00110, false, 0x0, 1, 0x0, 1⟩
  | .HBR_JNL_STAT => ⟨0xA00118, false, 0x0, 1, 0x0, 1⟩
  | .HBR_JNL_SEQ => ⟨0xA00120, false, 0x0, 1, 0x0, 1⟩
  | .HBR_FW_CTL => ⟨0xA00128, false, 0x0, 1, 0x0, 1⟩
  | .HBR_FW_SRC => ⟨0xA00130, false, 0x0, 1, 0x0, 1⟩
  | .HBR_FW_STAT => ⟨0xA00138, false, 0x0, 1, 0x0, 1⟩
  | .HBR_TEMP => ⟨0xA00140, false, 0x8, 18, 0x0, 1⟩
  | .HBR_MCTP_CTL => ⟨0xA001D0, false, 0x0, 1, 0x0, 1⟩
  | .HBR_MCTP_IN => ⟨0xA00200, false, 0x0, 1, 0x8, 16⟩
  | .HBR_MCTP_OUT => ⟨0xA00280, false, 0x0, 1, 0x8, 16⟩

/-- The fields of each register, as its table lists them; reserved bits are left out (R16). -/
def Reg.fields : Reg → List FieldSpec
  | .PKG_IDENT => [⟨63, 48, .RO, 0x7D1A⟩, ⟨47, 32, .RO, 0xB0F⟩, ⟨31, 16, .RO, 0x0⟩, ⟨15, 8, .RO, 0x0⟩]
  | .PKG_CAP => [⟨63, 48, .RO, 0x200⟩, ⟨47, 32, .RO, 0x180⟩, ⟨31, 24, .RO, 0x10⟩, ⟨23, 16, .RO, 0x8⟩, ⟨1, 1, .RO, 0x1⟩, ⟨0, 0, .RO, 0x1⟩]
  | .PKG_PORTS => [⟨47, 32, .RO, 0xFFFF⟩, ⟨23, 0, .RO, 0xFFFFFF⟩]
  | .STR_COUNT => [⟨7, 0, .RO, 0x23⟩]
  | .STR_FAIL_MAP => [⟨34, 0, .RO, 0x0⟩]
  | .STR_EVT => [⟨0, 0, .RW1C, 0x0⟩]
  | .STR_ISLAND_CLK => [⟨31, 16, .RO, 0x64⟩, ⟨8, 8, .RO, 0x0⟩, ⟨7, 0, .RO, 0x0⟩]
  | .STR_DESC => [⟨63, 56, .RO, 0x0⟩, ⟨55, 48, .RO, 0x0⟩, ⟨47, 40, .RO, 0x0⟩, ⟨31, 16, .RO, 0x0⟩, ⟨15, 0, .RO, 0x0⟩]
  | .STR_STAT => [⟨63, 48, .RO, 0x0⟩, ⟨31, 28, .RO, 0x0⟩, ⟨27, 24, .RO, 0x0⟩, ⟨1, 0, .RO, 0x0⟩]
  | .STR_ERR => [⟨63, 32, .RO, 0x0⟩, ⟨15, 0, .RO, 0x0⟩]
  | .STR_ARB => [⟨7, 0, .RW, 0x10⟩]
  | .STR_UNITS => [⟨63, 0, .RO, 0x0⟩]
  | .IMG_LOAD_CTL => [⟨10, 10, .RW, 0x0⟩, ⟨9, 9, .RW, 0x0⟩, ⟨8, 8, .RW, 0x0⟩, ⟨1, 1, .WO, 0x0⟩, ⟨0, 0, .WO, 0x0⟩]
  | .IMG_SRC_ADDR => [⟨63, 12, .RW, 0x0⟩]
  | .IMG_ATOLL_SEL => [⟨23, 0, .RW, 0x0⟩]
  | .IMG_LOAD_STAT => [⟨63, 32, .RO, 0x0⟩, ⟨23, 16, .RO, 0x0⟩, ⟨15, 8, .RO, 0x0⟩, ⟨4, 4, .RO, 0x0⟩, ⟨3, 0, .RO, 0x0⟩]
  | .IMG_EVT => [⟨2, 2, .RW1C, 0x0⟩, ⟨1, 1, .RW1C, 0x0⟩, ⟨0, 0, .RW1C, 0x0⟩]
  | .IMG_CFG_STATE => [⟨48, 48, .RO, 0x0⟩, ⟨39, 32, .RO, 0x0⟩, ⟨23, 0, .RO, 0x0⟩]
  | .IMG_ACTIVE_ID => [⟨63, 0, .RO, 0x0⟩]
  | .IMG_LOAD_TIME => [⟨31, 0, .RO, 0x0⟩]
  | .IMG_DIGEST => [⟨63, 0, .RO, 0x0⟩]
  | .IMG_MEAS => [⟨63, 0, .RO, 0x0⟩]
  | .IMG_BOUNDARY_DROP => [⟨31, 0, .RO, 0x0⟩]
  | .ISL_CTL => [⟨1, 1, .WO, 0x0⟩, ⟨0, 0, .WO, 0x0⟩]
  | .ISL_STAT => [⟨63, 32, .RO, 0x0⟩, ⟨28, 16, .RO, 0x0⟩, ⟨15, 8, .RO, 0x0⟩, ⟨2, 0, .RO, 0x0⟩]
  | .ISL_SP_ERR => [⟨63, 32, .RO, 0x0⟩, ⟨31, 28, .RO, 0x0⟩, ⟨27, 16, .RO, 0x0⟩, ⟨15, 8, .RO, 0x0⟩, ⟨7, 0, .RO, 0x0⟩]
  | .ISL_COLL => [⟨63, 32, .RO, 0x0⟩, ⟨31, 0, .RO, 0x0⟩]
  | .ISL_COLL_CFG => [⟨7, 0, .RW, 0x40⟩]
  | .ISL_COPY_STAT => [⟨63, 32, .RO, 0x0⟩, ⟨31, 24, .RO, 0x0⟩, ⟨20, 16, .RO, 0x0⟩, ⟨11, 11, .RO, 0x0⟩, ⟨10, 0, .RO, 0x0⟩]
  | .ISL_CHAN_SENT => [⟨63, 0, .RO, 0x0⟩]
  | .ISL_CHAN_RCVD => [⟨63, 0, .RO, 0x0⟩]
  | .ISL_IDENT => [⟨16, 16, .RO, 0x0⟩, ⟨15, 12, .RO, 0x0⟩, ⟨8, 0, .RO, 0x0⟩]
  | .ISL_PLAN_FREE => [⟨11, 0, .RO, 0x0⟩]
  | .MX_CFG => [⟨23, 20, .RO, 0x0⟩, ⟨19, 18, .RO, 0x0⟩, ⟨17, 16, .RO, 0x0⟩, ⟨13, 12, .RO, 0x0⟩, ⟨11, 10, .RO, 0x0⟩, ⟨7, 4, .RO, 0x0⟩, ⟨3, 2, .RO, 0x0⟩, ⟨1, 0, .RO, 0x0⟩]
  | .MX_STAT => [⟨63, 32, .RO, 0x0⟩, ⟨23, 20, .RO, 0x0⟩, ⟨19, 16, .RO, 0x0⟩, ⟨11, 10, .RO, 0x0⟩, ⟨9, 9, .RO, 0x0⟩, ⟨8, 8, .RO, 0x1⟩, ⟨2, 0, .RO, 0x0⟩]
  | .MX_FLAGS => [⟨15, 8, .RO, 0x0⟩, ⟨7, 0, .RW1C, 0x0⟩]
  | .MX_BUSY => [⟨63, 0, .RO, 0x0⟩]
  | .MX_SWAPS => [⟨63, 32, .RO, 0x0⟩, ⟨31, 0, .RO, 0x0⟩]
  | .MX_STALLS => [⟨63, 32, .RO, 0x0⟩, ⟨31, 0, .RO, 0x0⟩]
  | .MX_ERR => [⟨63, 32, .RO, 0x0⟩, ⟨31, 24, .RO, 0x0⟩, ⟨17, 16, .RO, 0x0⟩, ⟨15, 0, .RO, 0x0⟩]
  | .MX_GATE_CFG => [⟨31, 0, .RW, 0x1000⟩]
  | .VX_STAT => [⟨63, 32, .RO, 0x0⟩, ⟨24, 16, .RO, 0x0⟩, ⟨4, 4, .RO, 0x0⟩, ⟨2, 0, .RO, 0x0⟩]
  | .VX_FLAGS => [⟨15, 8, .RO, 0x0⟩, ⟨7, 0, .RW1C, 0x0⟩]
  | .VX_BUSY => [⟨63, 0, .RO, 0x0⟩]
  | .VX_STALLS => [⟨63, 32, .RO, 0x0⟩, ⟨31, 0, .RO, 0x0⟩]
  | .VX_ERR => [⟨63, 32, .RO, 0x0⟩, ⟨31, 24, .RO, 0x0⟩, ⟨16, 16, .RO, 0x0⟩, ⟨15, 0, .RO, 0x0⟩]
  | .VX_COUNT => [⟨31, 0, .RO, 0x0⟩]
  | .VX_LOADED => [⟨9, 0, .RO, 0x0⟩]
  | .MEM_PIPE_STAT => [⟨47, 32, .RO, 0x0⟩, ⟨31, 24, .RO, 0x0⟩, ⟨14, 8, .RO, 0x0⟩, ⟨3, 0, .RO, 0x0⟩]
  | .MEM_PIPE_BUSY => [⟨63, 32, .RO, 0x0⟩, ⟨31, 0, .RO, 0x0⟩]
  | .MEM_SHOAL_PTR => [⟨63, 32, .RO, 0x0⟩, ⟨31, 0, .RO, 0x0⟩]
  | .MEM_SHOAL_CUR => [⟨63, 32, .RO, 0x0⟩, ⟨31, 0, .RO, 0x0⟩]
  | .MEM_SHOAL_ERR => [⟨63, 63, .RW1C, 0x0⟩, ⟨62, 62, .RW1C, 0x0⟩, ⟨36, 0, .RO, 0x0⟩]
  | .MEM_SHOAL_USE => [⟨63, 32, .RO, 0x0⟩, ⟨31, 0, .RO, 0x0⟩]
  | .MEM_CAP => [⟨63, 56, .RO, 0x0⟩, ⟨43, 32, .RO, 0x0⟩, ⟨24, 0, .RO, 0x0⟩]
  | .MEM_POOL => [⟨57, 32, .RO, 0x0⟩, ⟨24, 0, .RO, 0x0⟩]
  | .MEM_MIG_REQ => [⟨63, 0, .RW, 0x0⟩]
  | .MEM_MIG_CTL => [⟨1, 1, .WO, 0x0⟩, ⟨0, 0, .WO, 0x0⟩]
  | .MEM_MIG_STAT => [⟨63, 32, .RO, 0x0⟩, ⟨31, 24, .RO, 0x0⟩, ⟨7, 7, .RO, 0x0⟩, ⟨6, 0, .RO, 0x0⟩]
  | .MEM_MIG_DONE => [⟨63, 32, .RO, 0x0⟩, ⟨31, 0, .RO, 0x0⟩]
  | .MEM_EVT => [⟨3, 3, .RW1C, 0x0⟩, ⟨2, 2, .RW1C, 0x0⟩, ⟨1, 1, .RW1C, 0x0⟩, ⟨0, 0, .RW1C, 0x0⟩]
  | .MEM_UNMAPPED => [⟨63, 52, .RO, 0x0⟩, ⟨51, 0, .RO, 0x0⟩]
  | .MEM_ERR_COUNT => [⟨63, 32, .RO, 0x0⟩, ⟨31, 16, .RO, 0x0⟩, ⟨10, 0, .RO, 0x0⟩]
  | .MEM_ERR_LAST => [⟨63, 0, .RO, 0x0⟩]
  | .MEM_XLATE_ADDR => [⟨51, 16, .RW, 0x0⟩]
  | .MEM_XLATE_RES => [⟨63, 63, .RO, 0x0⟩, ⟨62, 60, .RO, 0x0⟩, ⟨59, 59, .RO, 0x0⟩, ⟨58, 58, .RO, 0x0⟩, ⟨57, 57, .RO, 0x0⟩, ⟨56, 54, .RO, 0x0⟩, ⟨53, 48, .RO, 0x0⟩, ⟨47, 44, .RO, 0x0⟩, ⟨35, 0, .RO, 0x0⟩]
  | .MEM_SCRUB_CFG => [⟨15, 0, .RW, 0x4E9⟩]
  | .MEM_REPAIR_CFG => [⟨7, 0, .RW, 0x8⟩]
  | .MEM_STACK_STAT => [⟨63, 48, .RO, 0x400⟩, ⟨47, 32, .RO, 0x0⟩, ⟨31, 16, .RO, 0x0⟩, ⟨15, 8, .RO, 0x0⟩, ⟨3, 2, .RO, 0x0⟩, ⟨1, 0, .RO, 0x0⟩]
  | .MEM_STACK_ERR => [⟨63, 32, .RO, 0x0⟩, ⟨31, 0, .RO, 0x0⟩]
  | .MEM_ML_PORT_STAT => [⟨63, 56, .RO, 0x0⟩, ⟨1, 0, .RO, 0x0⟩]
  | .MEM_ML_PORT_ERR => [⟨63, 32, .RO, 0x0⟩, ⟨31, 0, .RO, 0x0⟩]
  | .REEF_STACK_STAT => [⟨55, 48, .RO, 0x20⟩, ⟨39, 32, .RO, 0x0⟩, ⟨23, 16, .RO, 0x0⟩, ⟨7, 1, .RO, 0x0⟩, ⟨0, 0, .RO, 0x0⟩]
  | .REEF_REQ => [⟨63, 0, .RW, 0x0⟩]
  | .REEF_ISSUE => [⟨1, 1, .WO, 0x0⟩, ⟨0, 0, .WO, 0x0⟩]
  | .REEF_EVT => [⟨3, 3, .RW1C, 0x0⟩, ⟨2, 2, .RW1C, 0x0⟩, ⟨1, 1, .RW1C, 0x0⟩, ⟨0, 0, .RW1C, 0x0⟩]
  | .REEF_LAST => [⟨63, 0, .RO, 0x0⟩]
  | .REEF_OPS => [⟨63, 32, .RO, 0x0⟩, ⟨31, 0, .RO, 0x0⟩]
  | .REEF_ECC => [⟨63, 32, .RO, 0x0⟩, ⟨31, 16, .RO, 0x0⟩]
  | .REEF_YIELDS => [⟨63, 0, .RO, 0x0⟩]
  | .REEF_CAUSE => [⟨62, 0, .RO, 0x0⟩]
  | .REEF_LOADED => [⟨12, 0, .RO, 0x0⟩]
  | .REEF_UNIT_STAT => [⟨63, 32, .RO, 0x0⟩, ⟨0, 0, .RO, 0x0⟩]
  | .JL_PORT_CTL => [⟨3, 3, .WO, 0x0⟩, ⟨2, 2, .WO, 0x0⟩, ⟨1, 1, .RW, 0x1⟩, ⟨0, 0, .RW, 0x1⟩]
  | .JL_PORT_STAT => [⟨63, 56, .RO, 0x0⟩, ⟨55, 51, .RO, 0x0⟩, ⟨50, 50, .RO, 0x0⟩, ⟨47, 32, .RO, 0x0⟩, ⟨31, 28, .RO, 0x0⟩, ⟨27, 27, .RO, 0x0⟩, ⟨26, 26, .RO, 0x0⟩, ⟨23, 20, .RO, 0xF⟩, ⟨19, 16, .RO, 0xF⟩, ⟨2, 0, .RO, 0x0⟩]
  | .JL_PORT_CFG => [⟨63, 48, .RW, 0x8000⟩, ⟨39, 32, .RW, 0x8⟩, ⟨31, 16, .RW, 0x4000⟩, ⟨15, 8, .RW, 0x40⟩]
  | .JL_PORT_ERR => [⟨63, 32, .RO, 0x0⟩, ⟨31, 16, .RO, 0x0⟩, ⟨15, 0, .RO, 0x0⟩]
  | .JL_PORT_ERR2 => [⟨63, 48, .RO, 0x0⟩, ⟨47, 32, .RO, 0x0⟩, ⟨31, 16, .RO, 0x0⟩, ⟨15, 0, .RO, 0x0⟩]
  | .JL_PORT_TXC => [⟨47, 0, .RO, 0x0⟩]
  | .JL_PORT_TX_FLITS => [⟨63, 0, .RO, 0x0⟩]
  | .JL_PORT_RX_FLITS => [⟨63, 0, .RO, 0x0⟩]
  | .JL_PORT_PEER => [⟨63, 0, .RO, 0x0⟩]
  | .JL_PORT_PIN => [⟨63, 0, .RW, 0x0⟩]
  | .JL_PORT_EVT => [⟨4, 4, .RW1C, 0x0⟩, ⟨3, 3, .RW1C, 0x0⟩, ⟨2, 2, .RW1C, 0x0⟩, ⟨1, 1, .RW1C, 0x0⟩, ⟨0, 0, .RW1C, 0x0⟩]
  | .JL_CHAIN => [⟨63, 48, .RO, 0x0⟩, ⟨16, 16, .RO, 0x0⟩, ⟨8, 8, .RO, 0x0⟩, ⟨7, 0, .RO, 0x0⟩]
  | .JL_DEV_CFG => [⟨47, 32, .RW, 0x64⟩, ⟨31, 16, .RW, 0x3E8⟩, ⟨15, 0, .RW, 0x3E8⟩]
  | .JL_DROPS => [⟨63, 32, .RO, 0x0⟩, ⟨31, 0, .RO, 0x0⟩]
  | .JL_UNREACH => [⟨63, 60, .RO, 0x0⟩, ⟨59, 52, .RO, 0x0⟩, ⟨51, 0, .RO, 0x0⟩]
  | .JL_FN_EVT => [⟨1, 1, .RW1C, 0x0⟩, ⟨0, 0, .RW1C, 0x0⟩]
  | .JL_ROUTE => [⟨4, 0, .RW, 0x1F⟩]
  | .RED_CTX_MAP => [⟨31, 0, .RO, 0x0⟩]
  | .RED_EVT => [⟨3, 3, .RW1C, 0x0⟩, ⟨2, 2, .RW1C, 0x0⟩, ⟨1, 1, .RW1C, 0x0⟩, ⟨0, 0, .RW1C, 0x0⟩]
  | .RED_DROPS => [⟨63, 32, .RO, 0x0⟩, ⟨31, 0, .RO, 0x0⟩]
  | .RED_JOB_CTL => [⟨1, 1, .WO, 0x0⟩, ⟨0, 0, .WO, 0x0⟩]
  | .RED_JOB_STAT => [⟨63, 56, .RO, 0x0⟩, ⟨55, 48, .RO, 0x0⟩, ⟨47, 40, .RO, 0x0⟩, ⟨39, 32, .RO, 0x0⟩, ⟨31, 28, .RO, 0x0⟩, ⟨27, 24, .RO, 0x0⟩, ⟨23, 23, .RO, 0x0⟩, ⟨22, 16, .RO, 0x0⟩, ⟨2, 0, .RO, 0x0⟩]
  | .RED_JOB_STEP => [⟨63, 0, .RO, 0x0⟩]
  | .RED_JOB_SCALE => [⟨63, 32, .RO, 0x0⟩, ⟨31, 16, .RO, 0x0⟩, ⟨15, 0, .RO, 0x0⟩]
  | .RED_JOB_COUNT => [⟨63, 32, .RO, 0x0⟩, ⟨31, 16, .RO, 0x0⟩, ⟨15, 0, .RO, 0x0⟩]
  | .RED_JOB_NF => [⟨63, 56, .RO, 0x0⟩, ⟨55, 48, .RO, 0x0⟩, ⟨47, 36, .RO, 0x0⟩, ⟨31, 0, .RO, 0x0⟩]
  | .RED_JOB_LATE => [⟨63, 32, .RO, 0x0⟩, ⟨27, 16, .RO, 0x0⟩]
  | .RED_JOB_FLITS => [⟨63, 0, .RO, 0x0⟩]
  | .OPT_CTL => [⟨1, 1, .WO, 0x0⟩, ⟨0, 0, .WO, 0x0⟩]
  | .OPT_STAT => [⟨63, 56, .RO, 0x0⟩, ⟨55, 48, .RO, 0x0⟩, ⟨47, 35, .RO, 0x0⟩, ⟨34, 22, .RO, 0x0⟩, ⟨21, 9, .RO, 0x0⟩, ⟨2, 0, .RO, 0x0⟩]
  | .OPT_STEP => [⟨63, 0, .RO, 0xFFFFFFFFFFFFFFFF⟩]
  | .OPT_UPDATES => [⟨63, 32, .RO, 0x0⟩, ⟨31, 16, .RO, 0x0⟩, ⟨15, 0, .RO, 0x0⟩]
  | .OPT_NORM => [⟨63, 0, .RO, 0x0⟩]
  | .OPT_SCALE => [⟨63, 32, .RO, 0x0⟩, ⟨31, 0, .RO, 0x0⟩]
  | .OPT_EVT => [⟨5, 5, .RW1C, 0x0⟩, ⟨4, 4, .RW1C, 0x0⟩, ⟨3, 3, .RW1C, 0x0⟩, ⟨2, 2, .RW1C, 0x0⟩, ⟨1, 1, .RW1C, 0x0⟩, ⟨0, 0, .RW1C, 0x0⟩]
  | .OPT_DIVERGE => [⟨63, 56, .RO, 0x0⟩, ⟨47, 0, .RO, 0x0⟩]
  | .OPT_DIGEST => [⟨63, 0, .RO, 0x0⟩]
  | .OPT_SHARD_SEL => [⟨11, 0, .RW, 0x0⟩]
  | .OPT_SHARD_STAT => [⟨63, 32, .RO, 0xFFFFFFFF⟩, ⟨31, 23, .RO, 0x0⟩, ⟨7, 4, .RO, 0x0⟩, ⟨2, 2, .RO, 0x0⟩, ⟨1, 1, .RO, 0x0⟩, ⟨0, 0, .RO, 0x0⟩]
  | .SVC_INFO => [⟨17, 16, .RO, 0x0⟩, ⟨7, 0, .RO, 0x40⟩]
  | .SVC_EVT => [⟨5, 5, .RW1C, 0x0⟩, ⟨4, 4, .RW1C, 0x0⟩, ⟨3, 3, .RW1C, 0x0⟩, ⟨2, 2, .RW1C, 0x0⟩, ⟨1, 1, .RW1C, 0x0⟩, ⟨0, 0, .RW1C, 0x0⟩]
  | .SVC_STEP_STAT => [⟨63, 32, .RO, 0x0⟩, ⟨31, 24, .RO, 0x0⟩, ⟨23, 20, .RO, 0x0⟩, ⟨2, 0, .RO, 0x0⟩]
  | .SVC_STEP_CUR => [⟨63, 0, .RO, 0x0⟩]
  | .SVC_GEN_STAT => [⟨63, 32, .RO, 0x0⟩, ⟨31, 24, .RO, 0x0⟩, ⟨22, 16, .RO, 0x0⟩, ⟨2, 0, .RO, 0x0⟩]
  | .SVC_GEN_TOKENS => [⟨63, 0, .RO, 0x0⟩]
  | .SVC_CTRL_STAT => [⟨63, 32, .RO, 0x0⟩, ⟨0, 0, .RO, 0x0⟩]
  | .SVC_EVT_ROUTE => [⟨16, 16, .RW, 0x0⟩, ⟨10, 0, .RW, 0x0⟩]
  | .SVC_Q_CMD_BASE => [⟨63, 12, .RW, 0x0⟩]
  | .SVC_Q_CPL_BASE => [⟨63, 12, .RW, 0x0⟩]
  | .SVC_Q_CFG => [⟨26, 16, .RW, 0x0⟩, ⟨12, 8, .RW, 0x4⟩, ⟨2, 2, .RW, 0x0⟩, ⟨1, 1, .RW, 0x0⟩, ⟨0, 0, .RW, 0x0⟩]
  | .SVC_Q_DB => [⟨31, 0, .RW, 0x0⟩]
  | .SVC_Q_CPL_DB => [⟨31, 0, .RW, 0x0⟩]
  | .SVC_Q_STAT => [⟨63, 32, .RO, 0x0⟩, ⟨31, 0, .RO, 0x0⟩]
  | .SVC_Q_STATE => [⟨63, 56, .RO, 0x0⟩, ⟨2, 0, .RO, 0x0⟩]
  | .SEC_FN_ID => [⟨3, 0, .RO, 0x0⟩]
  | .SEC_FN_CTL => [⟨0, 0, .WO, 0x0⟩]
  | .SEC_KEY_CTL => [⟨0, 0, .WO, 0x0⟩]
  | .SEC_KEY_STAT => [⟨63, 32, .RO, 0x0⟩, ⟨31, 24, .RO, 0x0⟩, ⟨4, 4, .RO, 0x0⟩, ⟨3, 2, .RO, 0x0⟩, ⟨1, 0, .RO, 0x1⟩]
  | .SEC_KEY_PAGES => [⟨63, 32, .RO, 0x0⟩, ⟨31, 0, .RO, 0x0⟩]
  | .SEC_KEY_WRITTEN => [⟨63, 0, .RO, 0x0⟩]
  | .SEC_DEV_STAT => [⟨31, 24, .RO, 0x0⟩, ⟨23, 16, .RO, 0x0⟩, ⟨4, 4, .RO, 0x0⟩, ⟨1, 0, .RO, 0x0⟩]
  | .SEC_SVN => [⟨31, 24, .RO, 0x0⟩, ⟨23, 16, .RO, 0x0⟩, ⟨15, 8, .RO, 0x0⟩, ⟨7, 0, .RO, 0x0⟩]
  | .SEC_DEV_ID => [⟨63, 0, .RO, 0x0⟩]
  | .SEC_DRBG => [⟨63, 32, .RO, 0x0⟩, ⟨31, 0, .RO, 0x0⟩]
  | .SEC_GRANT_CTL => [⟨63, 32, .RO, 0x0⟩, ⟨23, 20, .RO, 0x0⟩, ⟨7, 7, .RO, 0x0⟩, ⟨3, 2, .RO, 0x0⟩, ⟨1, 1, .WO, 0x0⟩, ⟨0, 0, .RW, 0x0⟩]
  | .SEC_GRANT_ATOLLS => [⟨23, 0, .RW, 0x0⟩]
  | .SEC_GRANT_RES => [⟨39, 32, .RW, 0x0⟩, ⟨31, 0, .RW, 0x0⟩]
  | .SEC_GRANT_PORTS => [⟨23, 0, .RW, 0x0⟩]
  | .SEC_GRANT_ML => [⟨63, 0, .RW, 0x0⟩]
  | .SEC_FN_TIME => [⟨31, 0, .RO, 0x0⟩]
  | .HBR_STAT => [⟨7, 4, .RO, 0x0⟩, ⟨0, 0, .RO, 0x0⟩]
  | .HBR_EVT => [⟨7, 7, .RW1C, 0x0⟩, ⟨6, 6, .RW1C, 0x0⟩, ⟨5, 5, .RW1C, 0x0⟩, ⟨4, 4, .RW1C, 0x0⟩, ⟨3, 3, .RW1C, 0x0⟩, ⟨2, 2, .RW1C, 0x0⟩, ⟨1, 1, .RW1C, 0x0⟩, ⟨0, 0, .RW1C, 0x0⟩]
  | .HBR_EVT_ROUTE => [⟨16, 16, .RW, 0x0⟩, ⟨10, 0, .RW, 0x0⟩]
  | .HBR_RESET_CTL => [⟨10, 8, .RW, 0x0⟩, ⟨1, 1, .WO, 0x0⟩, ⟨0, 0, .WO, 0x0⟩]
  | .HBR_RESET_STAT => [⟨63, 32, .RO, 0x0⟩, ⟨15, 8, .RO, 0x0⟩, ⟨2, 0, .RO, 0x0⟩]
  | .HBR_GOV_CFG => [⟨63, 48, .RW, 0x32⟩, ⟨31, 24, .RW, 0x30⟩, ⟨23, 16, .RW, 0x18⟩, ⟨15, 0, .RW, 0x96⟩]
  | .HBR_GOV_STAT => [⟨63, 32, .RO, 0x0⟩, ⟨31, 24, .RO, 0x0⟩, ⟨23, 16, .RO, 0x0⟩, ⟨15, 8, .RO, 0x0⟩, ⟨7, 0, .RO, 0x0⟩]
  | .HBR_GOV_POINT => [⟨23, 16, .RW, 0x69⟩, ⟨11, 8, .RO, 0xE⟩, ⟨3, 0, .RW, 0xE⟩]
  | .HBR_LEAD => [⟨63, 48, .RO, 0x0⟩, ⟨47, 32, .RO, 0x0⟩, ⟨27, 26, .RO, 0x2⟩, ⟨25, 25, .RO, 0x0⟩, ⟨24, 24, .RO, 0x0⟩, ⟨23, 22, .RO, 0x0⟩, ⟨17, 16, .RO, 0x0⟩, ⟨15, 0, .RO, 0x1⟩]
  | .HBR_SNAP_CTL => [⟨63, 32, .RO, 0x0⟩, ⟨17, 0, .RO, 0x0⟩]
  | .HBR_SNAP_ISSUE => [⟨63, 1, .RO, 0x0⟩, ⟨0, 0, .WO, 0x0⟩]
  | .HBR_SNAP_CNT => [⟨63, 0, .RO, 0x0⟩]
  | .HBR_JNL_CTL => [⟨0, 0, .WO, 0x0⟩]
  | .HBR_JNL_STAT => [⟨63, 40, .RO, 0x0⟩, ⟨39, 32, .RO, 0x0⟩, ⟨31, 23, .RO, 0x0⟩, ⟨22, 8, .RO, 0x0⟩, ⟨1, 1, .RO, 0x0⟩, ⟨0, 0, .RO, 0x0⟩]
  | .HBR_JNL_SEQ => [⟨63, 0, .RO, 0x0⟩]
  | .HBR_FW_CTL => [⟨1, 1, .WO, 0x0⟩, ⟨0, 0, .WO, 0x0⟩]
  | .HBR_FW_SRC => [⟨63, 12, .RW, 0x0⟩]
  | .HBR_FW_STAT => [⟨23, 16, .RO, 0x0⟩, ⟨9, 9, .RW1C, 0x0⟩, ⟨8, 8, .RO, 0x0⟩, ⟨7, 4, .RO, 0x0⟩, ⟨3, 0, .RO, 0x0⟩]
  | .HBR_TEMP => [⟨15, 8, .RO, 0x0⟩, ⟨7, 0, .RO, 0x0⟩]
  | .HBR_MCTP_CTL => [⟨39, 32, .RO, 0x0⟩, ⟨25, 25, .WO, 0x0⟩, ⟨24, 24, .RO, 0x0⟩, ⟨23, 16, .RW, 0x0⟩, ⟨1, 1, .RO, 0x1⟩, ⟨0, 0, .WO, 0x0⟩]
  | .HBR_MCTP_IN => [⟨63, 0, .RW, 0x0⟩]
  | .HBR_MCTP_OUT => [⟨63, 0, .RO, 0x0⟩]

/-- The registers of the control window, part 1. -/
def Reg.all1 : List Reg := [.PKG_IDENT, .PKG_CAP, .PKG_PORTS, .STR_COUNT, .STR_FAIL_MAP, .STR_EVT, .STR_ISLAND_CLK, .STR_DESC, .STR_STAT, .STR_ERR, .STR_ARB, .STR_UNITS, .IMG_LOAD_CTL, .IMG_SRC_ADDR, .IMG_ATOLL_SEL, .IMG_LOAD_STAT, .IMG_EVT, .IMG_CFG_STATE, .IMG_ACTIVE_ID, .IMG_LOAD_TIME]
/-- The registers of the control window, part 2. -/
def Reg.all2 : List Reg := [.IMG_DIGEST, .IMG_MEAS, .IMG_BOUNDARY_DROP, .ISL_CTL, .ISL_STAT, .ISL_SP_ERR, .ISL_COLL, .ISL_COLL_CFG, .ISL_COPY_STAT, .ISL_CHAN_SENT, .ISL_CHAN_RCVD, .ISL_IDENT, .ISL_PLAN_FREE, .MX_CFG, .MX_STAT, .MX_FLAGS, .MX_BUSY, .MX_SWAPS, .MX_STALLS, .MX_ERR]
/-- The registers of the control window, part 3. -/
def Reg.all3 : List Reg := [.MX_GATE_CFG, .VX_STAT, .VX_FLAGS, .VX_BUSY, .VX_STALLS, .VX_ERR, .VX_COUNT, .VX_LOADED, .MEM_PIPE_STAT, .MEM_PIPE_BUSY, .MEM_SHOAL_PTR, .MEM_SHOAL_CUR, .MEM_SHOAL_ERR, .MEM_SHOAL_USE, .MEM_CAP, .MEM_POOL, .MEM_MIG_REQ, .MEM_MIG_CTL, .MEM_MIG_STAT, .MEM_MIG_DONE]
/-- The registers of the control window, part 4. -/
def Reg.all4 : List Reg := [.MEM_EVT, .MEM_UNMAPPED, .MEM_ERR_COUNT, .MEM_ERR_LAST, .MEM_XLATE_ADDR, .MEM_XLATE_RES, .MEM_SCRUB_CFG, .MEM_REPAIR_CFG, .MEM_STACK_STAT, .MEM_STACK_ERR, .MEM_ML_PORT_STAT, .MEM_ML_PORT_ERR, .REEF_STACK_STAT, .REEF_REQ, .REEF_ISSUE, .REEF_EVT, .REEF_LAST, .REEF_OPS, .REEF_ECC, .REEF_YIELDS]
/-- The registers of the control window, part 5. -/
def Reg.all5 : List Reg := [.REEF_CAUSE, .REEF_LOADED, .REEF_UNIT_STAT, .JL_PORT_CTL, .JL_PORT_STAT, .JL_PORT_CFG, .JL_PORT_ERR, .JL_PORT_ERR2, .JL_PORT_TXC, .JL_PORT_TX_FLITS, .JL_PORT_RX_FLITS, .JL_PORT_PEER, .JL_PORT_PIN, .JL_PORT_EVT, .JL_CHAIN, .JL_DEV_CFG, .JL_DROPS, .JL_UNREACH, .JL_FN_EVT, .JL_ROUTE]
/-- The registers of the control window, part 6. -/
def Reg.all6 : List Reg := [.RED_CTX_MAP, .RED_EVT, .RED_DROPS, .RED_JOB_CTL, .RED_JOB_STAT, .RED_JOB_STEP, .RED_JOB_SCALE, .RED_JOB_COUNT, .RED_JOB_NF, .RED_JOB_LATE, .RED_JOB_FLITS, .OPT_CTL, .OPT_STAT, .OPT_STEP, .OPT_UPDATES, .OPT_NORM, .OPT_SCALE, .OPT_EVT, .OPT_DIVERGE, .OPT_DIGEST]
/-- The registers of the control window, part 7. -/
def Reg.all7 : List Reg := [.OPT_SHARD_SEL, .OPT_SHARD_STAT, .SVC_INFO, .SVC_EVT, .SVC_STEP_STAT, .SVC_STEP_CUR, .SVC_GEN_STAT, .SVC_GEN_TOKENS, .SVC_CTRL_STAT, .SVC_EVT_ROUTE, .SVC_Q_CMD_BASE, .SVC_Q_CPL_BASE, .SVC_Q_CFG, .SVC_Q_DB, .SVC_Q_CPL_DB, .SVC_Q_STAT, .SVC_Q_STATE, .SEC_FN_ID, .SEC_FN_CTL, .SEC_KEY_CTL]
/-- The registers of the control window, part 8. -/
def Reg.all8 : List Reg := [.SEC_KEY_STAT, .SEC_KEY_PAGES, .SEC_KEY_WRITTEN, .SEC_DEV_STAT, .SEC_SVN, .SEC_DEV_ID, .SEC_DRBG, .SEC_GRANT_CTL, .SEC_GRANT_ATOLLS, .SEC_GRANT_RES, .SEC_GRANT_PORTS, .SEC_GRANT_ML, .SEC_FN_TIME, .HBR_STAT, .HBR_EVT, .HBR_EVT_ROUTE, .HBR_RESET_CTL, .HBR_RESET_STAT, .HBR_GOV_CFG, .HBR_GOV_STAT]
/-- The registers of the control window, part 9. -/
def Reg.all9 : List Reg := [.HBR_GOV_POINT, .HBR_LEAD, .HBR_SNAP_CTL, .HBR_SNAP_ISSUE, .HBR_SNAP_CNT, .HBR_JNL_CTL, .HBR_JNL_STAT, .HBR_JNL_SEQ, .HBR_FW_CTL, .HBR_FW_SRC, .HBR_FW_STAT, .HBR_TEMP, .HBR_MCTP_CTL, .HBR_MCTP_IN, .HBR_MCTP_OUT]
/-- Every register, in the order of the chapters. -/
def Reg.all : List Reg := List.flatten [Reg.all1, Reg.all2, Reg.all3, Reg.all4, Reg.all5, Reg.all6, Reg.all7, Reg.all8, Reg.all9]

/-- PKG_IDENT.VENDOR. -/
def Fld.PKG_IDENT_VENDOR : Fld := ⟨.PKG_IDENT, 63, 48⟩
/-- PKG_IDENT.FAMILY. -/
def Fld.PKG_IDENT_FAMILY : Fld := ⟨.PKG_IDENT, 47, 32⟩
/-- PKG_IDENT.PART. -/
def Fld.PKG_IDENT_PART : Fld := ⟨.PKG_IDENT, 31, 16⟩
/-- PKG_IDENT.STEPPING. -/
def Fld.PKG_IDENT_STEPPING : Fld := ⟨.PKG_IDENT, 15, 8⟩
/-- PKG_CAP.REEF_UNITS. -/
def Fld.PKG_CAP_REEF_UNITS : Fld := ⟨.PKG_CAP, 63, 48⟩
/-- PKG_CAP.ISLETS. -/
def Fld.PKG_CAP_ISLETS : Fld := ⟨.PKG_CAP, 47, 32⟩
/-- PKG_CAP.STACK_CAP. -/
def Fld.PKG_CAP_STACK_CAP : Fld := ⟨.PKG_CAP, 31, 24⟩
/-- PKG_CAP.STACKS. -/
def Fld.PKG_CAP_STACKS : Fld := ⟨.PKG_CAP, 23, 16⟩
/-- PKG_CAP.FP64_SLICE. -/
def Fld.PKG_CAP_FP64_SLICE : Fld := ⟨.PKG_CAP, 1, 1⟩
/-- PKG_CAP.REEF. -/
def Fld.PKG_CAP_REEF : Fld := ⟨.PKG_CAP, 0, 0⟩
/-- PKG_PORTS.ML_PRESENT. -/
def Fld.PKG_PORTS_ML_PRESENT : Fld := ⟨.PKG_PORTS, 47, 32⟩
/-- PKG_PORTS.JL_PRESENT. -/
def Fld.PKG_PORTS_JL_PRESENT : Fld := ⟨.PKG_PORTS, 23, 0⟩
/-- STR_COUNT.COUNT. -/
def Fld.STR_COUNT_COUNT : Fld := ⟨.STR_COUNT, 7, 0⟩
/-- STR_FAIL_MAP.FAILED. -/
def Fld.STR_FAIL_MAP_FAILED : Fld := ⟨.STR_FAIL_MAP, 34, 0⟩
/-- STR_EVT.FAIL_EVT. -/
def Fld.STR_EVT_FAIL_EVT : Fld := ⟨.STR_EVT, 0, 0⟩
/-- STR_ISLAND_CLK.FREQ_MHZ. -/
def Fld.STR_ISLAND_CLK_FREQ_MHZ : Fld := ⟨.STR_ISLAND_CLK, 31, 16⟩
/-- STR_ISLAND_CLK.RELOCK. -/
def Fld.STR_ISLAND_CLK_RELOCK : Fld := ⟨.STR_ISLAND_CLK, 8, 8⟩
/-- STR_ISLAND_CLK.POINT. -/
def Fld.STR_ISLAND_CLK_POINT : Fld := ⟨.STR_ISLAND_CLK, 7, 0⟩
/-- STR_DESC.KIND. -/
def Fld.STR_DESC_KIND : Fld := ⟨.STR_DESC, 63, 56⟩
/-- STR_DESC.END_A. -/
def Fld.STR_DESC_END_A : Fld := ⟨.STR_DESC, 55, 48⟩
/-- STR_DESC.END_B. -/
def Fld.STR_DESC_END_B : Fld := ⟨.STR_DESC, 47, 40⟩
/-- STR_DESC.WIDTH_A. -/
def Fld.STR_DESC_WIDTH_A : Fld := ⟨.STR_DESC, 31, 16⟩
/-- STR_DESC.WIDTH_B. -/
def Fld.STR_DESC_WIDTH_B : Fld := ⟨.STR_DESC, 15, 0⟩
/-- STR_STAT.SPARE_USED. -/
def Fld.STR_STAT_SPARE_USED : Fld := ⟨.STR_STAT, 63, 48⟩
/-- STR_STAT.FULL_BA. -/
def Fld.STR_STAT_FULL_BA : Fld := ⟨.STR_STAT, 31, 28⟩
/-- STR_STAT.FULL_AB. -/
def Fld.STR_STAT_FULL_AB : Fld := ⟨.STR_STAT, 27, 24⟩
/-- STR_STAT.STATE. -/
def Fld.STR_STAT_STATE : Fld := ⟨.STR_STAT, 1, 0⟩
/-- STR_ERR.RETRIES. -/
def Fld.STR_ERR_RETRIES : Fld := ⟨.STR_ERR, 63, 32⟩
/-- STR_ERR.LAST_SYNDROME. -/
def Fld.STR_ERR_LAST_SYNDROME : Fld := ⟨.STR_ERR, 15, 0⟩
/-- STR_ARB.STARVE_LIMIT. -/
def Fld.STR_ARB_STARVE_LIMIT : Fld := ⟨.STR_ARB, 7, 0⟩
/-- STR_UNITS.UNITS. -/
def Fld.STR_UNITS_UNITS : Fld := ⟨.STR_UNITS, 63, 0⟩
/-- IMG_LOAD_CTL.SRC. -/
def Fld.IMG_LOAD_CTL_SRC : Fld := ⟨.IMG_LOAD_CTL, 10, 10⟩
/-- IMG_LOAD_CTL.FORCE. -/
def Fld.IMG_LOAD_CTL_FORCE : Fld := ⟨.IMG_LOAD_CTL, 9, 9⟩
/-- IMG_LOAD_CTL.MODE. -/
def Fld.IMG_LOAD_CTL_MODE : Fld := ⟨.IMG_LOAD_CTL, 8, 8⟩
/-- IMG_LOAD_CTL.CANCEL. -/
def Fld.IMG_LOAD_CTL_CANCEL : Fld := ⟨.IMG_LOAD_CTL, 1, 1⟩
/-- IMG_LOAD_CTL.START. -/
def Fld.IMG_LOAD_CTL_START : Fld := ⟨.IMG_LOAD_CTL, 0, 0⟩
/-- IMG_SRC_ADDR.ADDR. -/
def Fld.IMG_SRC_ADDR_ADDR : Fld := ⟨.IMG_SRC_ADDR, 63, 12⟩
/-- IMG_ATOLL_SEL.SEL. -/
def Fld.IMG_ATOLL_SEL_SEL : Fld := ⟨.IMG_ATOLL_SEL, 23, 0⟩
/-- IMG_LOAD_STAT.LOAD_SEQ. -/
def Fld.IMG_LOAD_STAT_LOAD_SEQ : Fld := ⟨.IMG_LOAD_STAT, 63, 32⟩
/-- IMG_LOAD_STAT.STATUS. -/
def Fld.IMG_LOAD_STAT_STATUS : Fld := ⟨.IMG_LOAD_STAT, 23, 16⟩
/-- IMG_LOAD_STAT.CAUSE. -/
def Fld.IMG_LOAD_STAT_CAUSE : Fld := ⟨.IMG_LOAD_STAT, 15, 8⟩
/-- IMG_LOAD_STAT.BUSY. -/
def Fld.IMG_LOAD_STAT_BUSY : Fld := ⟨.IMG_LOAD_STAT, 4, 4⟩
/-- IMG_LOAD_STAT.STATE. -/
def Fld.IMG_LOAD_STAT_STATE : Fld := ⟨.IMG_LOAD_STAT, 3, 0⟩
/-- IMG_EVT.REJ_BUSY. -/
def Fld.IMG_EVT_REJ_BUSY : Fld := ⟨.IMG_EVT, 2, 2⟩
/-- IMG_EVT.END_BAD_EVT. -/
def Fld.IMG_EVT_END_BAD_EVT : Fld := ⟨.IMG_EVT, 1, 1⟩
/-- IMG_EVT.DONE_EVT. -/
def Fld.IMG_EVT_DONE_EVT : Fld := ⟨.IMG_EVT, 0, 0⟩
/-- IMG_CFG_STATE.BASE. -/
def Fld.IMG_CFG_STATE_BASE : Fld := ⟨.IMG_CFG_STATE, 48, 48⟩
/-- IMG_CFG_STATE.STACKS_LOADED. -/
def Fld.IMG_CFG_STATE_STACKS_LOADED : Fld := ⟨.IMG_CFG_STATE, 39, 32⟩
/-- IMG_CFG_STATE.ATOLLS_LOADED. -/
def Fld.IMG_CFG_STATE_ATOLLS_LOADED : Fld := ⟨.IMG_CFG_STATE, 23, 0⟩
/-- IMG_ACTIVE_ID.IMAGE_ID. -/
def Fld.IMG_ACTIVE_ID_IMAGE_ID : Fld := ⟨.IMG_ACTIVE_ID, 63, 0⟩
/-- IMG_LOAD_TIME.CYCLES. -/
def Fld.IMG_LOAD_TIME_CYCLES : Fld := ⟨.IMG_LOAD_TIME, 31, 0⟩
/-- IMG_DIGEST.DIGEST. -/
def Fld.IMG_DIGEST_DIGEST : Fld := ⟨.IMG_DIGEST, 63, 0⟩
/-- IMG_MEAS.MEAS. -/
def Fld.IMG_MEAS_MEAS : Fld := ⟨.IMG_MEAS, 63, 0⟩
/-- IMG_BOUNDARY_DROP.DROPS. -/
def Fld.IMG_BOUNDARY_DROP_DROPS : Fld := ⟨.IMG_BOUNDARY_DROP, 31, 0⟩
/-- ISL_CTL.RESET. -/
def Fld.ISL_CTL_RESET : Fld := ⟨.ISL_CTL, 1, 1⟩
/-- ISL_CTL.STOP. -/
def Fld.ISL_CTL_STOP : Fld := ⟨.ISL_CTL, 0, 0⟩
/-- ISL_STAT.FLAGS. -/
def Fld.ISL_STAT_FLAGS : Fld := ⟨.ISL_STAT, 63, 32⟩
/-- ISL_STAT.PC. -/
def Fld.ISL_STAT_PC : Fld := ⟨.ISL_STAT, 28, 16⟩
/-- ISL_STAT.FAULT_CAUSE. -/
def Fld.ISL_STAT_FAULT_CAUSE : Fld := ⟨.ISL_STAT, 15, 8⟩
/-- ISL_STAT.SEQ_STATE. -/
def Fld.ISL_STAT_SEQ_STATE : Fld := ⟨.ISL_STAT, 2, 0⟩
/-- ISL_SP_ERR.CORRECTED. -/
def Fld.ISL_SP_ERR_CORRECTED : Fld := ⟨.ISL_SP_ERR, 63, 32⟩
/-- ISL_SP_ERR.BANK. -/
def Fld.ISL_SP_ERR_BANK : Fld := ⟨.ISL_SP_ERR, 31, 28⟩
/-- ISL_SP_ERR.WORD. -/
def Fld.ISL_SP_ERR_WORD : Fld := ⟨.ISL_SP_ERR, 27, 16⟩
/-- ISL_SP_ERR.SYNDROME. -/
def Fld.ISL_SP_ERR_SYNDROME : Fld := ⟨.ISL_SP_ERR, 15, 8⟩
/-- ISL_SP_ERR.UNCORR. -/
def Fld.ISL_SP_ERR_UNCORR : Fld := ⟨.ISL_SP_ERR, 7, 0⟩
/-- ISL_COLL.COLLISIONS. -/
def Fld.ISL_COLL_COLLISIONS : Fld := ⟨.ISL_COLL, 63, 32⟩
/-- ISL_COLL.LIMIT_HITS. -/
def Fld.ISL_COLL_LIMIT_HITS : Fld := ⟨.ISL_COLL, 31, 0⟩
/-- ISL_COLL_CFG.COLLISION_LIMIT. -/
def Fld.ISL_COLL_CFG_COLLISION_LIMIT : Fld := ⟨.ISL_COLL_CFG, 7, 0⟩
/-- ISL_COPY_STAT.DONE. -/
def Fld.ISL_COPY_STAT_DONE : Fld := ⟨.ISL_COPY_STAT, 63, 32⟩
/-- ISL_COPY_STAT.LAST_STATUS. -/
def Fld.ISL_COPY_STAT_LAST_STATUS : Fld := ⟨.ISL_COPY_STAT, 31, 24⟩
/-- ISL_COPY_STAT.QUEUED. -/
def Fld.ISL_COPY_STAT_QUEUED : Fld := ⟨.ISL_COPY_STAT, 20, 16⟩
/-- ISL_COPY_STAT.BUSY. -/
def Fld.ISL_COPY_STAT_BUSY : Fld := ⟨.ISL_COPY_STAT, 11, 11⟩
/-- ISL_COPY_STAT.PLAN. -/
def Fld.ISL_COPY_STAT_PLAN : Fld := ⟨.ISL_COPY_STAT, 10, 0⟩
/-- ISL_CHAN_SENT.UNITS. -/
def Fld.ISL_CHAN_SENT_UNITS : Fld := ⟨.ISL_CHAN_SENT, 63, 0⟩
/-- ISL_CHAN_RCVD.UNITS. -/
def Fld.ISL_CHAN_RCVD_UNITS : Fld := ⟨.ISL_CHAN_RCVD, 63, 0⟩
/-- ISL_IDENT.LAGOON. -/
def Fld.ISL_IDENT_LAGOON : Fld := ⟨.ISL_IDENT, 16, 16⟩
/-- ISL_IDENT.POS. -/
def Fld.ISL_IDENT_POS : Fld := ⟨.ISL_IDENT, 15, 12⟩
/-- ISL_IDENT.ISLET. -/
def Fld.ISL_IDENT_ISLET : Fld := ⟨.ISL_IDENT, 8, 0⟩
/-- ISL_PLAN_FREE.LOADED. -/
def Fld.ISL_PLAN_FREE_LOADED : Fld := ⟨.ISL_PLAN_FREE, 11, 0⟩
/-- MX_CFG.LEAD_POS. -/
def Fld.MX_CFG_LEAD_POS : Fld := ⟨.MX_CFG, 23, 20⟩
/-- MX_CFG.GANG_ROW. -/
def Fld.MX_CFG_GANG_ROW : Fld := ⟨.MX_CFG, 19, 18⟩
/-- MX_CFG.GANG_COL. -/
def Fld.MX_CFG_GANG_COL : Fld := ⟨.MX_CFG, 17, 16⟩
/-- MX_CFG.GR_M1. -/
def Fld.MX_CFG_GR_M1 : Fld := ⟨.MX_CFG, 13, 12⟩
/-- MX_CFG.GC_M1. -/
def Fld.MX_CFG_GC_M1 : Fld := ⟨.MX_CFG, 11, 10⟩
/-- MX_CFG.GANG_ID. -/
def Fld.MX_CFG_GANG_ID : Fld := ⟨.MX_CFG, 7, 4⟩
/-- MX_CFG.SHAPE. -/
def Fld.MX_CFG_SHAPE : Fld := ⟨.MX_CFG, 3, 2⟩
/-- MX_CFG.ORG. -/
def Fld.MX_CFG_ORG : Fld := ⟨.MX_CFG, 1, 0⟩
/-- MX_STAT.OPS_DONE. -/
def Fld.MX_STAT_OPS_DONE : Fld := ⟨.MX_STAT, 63, 32⟩
/-- MX_STAT.ACTIVE_FMT. -/
def Fld.MX_STAT_ACTIVE_FMT : Fld := ⟨.MX_STAT, 23, 20⟩
/-- MX_STAT.ACTIVE_SLICE. -/
def Fld.MX_STAT_ACTIVE_SLICE : Fld := ⟨.MX_STAT, 19, 16⟩
/-- MX_STAT.SHADOW. -/
def Fld.MX_STAT_SHADOW : Fld := ⟨.MX_STAT, 11, 10⟩
/-- MX_STAT.ACTIVE_VALID. -/
def Fld.MX_STAT_ACTIVE_VALID : Fld := ⟨.MX_STAT, 9, 9⟩
/-- MX_STAT.GATED. -/
def Fld.MX_STAT_GATED : Fld := ⟨.MX_STAT, 8, 8⟩
/-- MX_STAT.QUEUED. -/
def Fld.MX_STAT_QUEUED : Fld := ⟨.MX_STAT, 2, 0⟩
/-- MX_FLAGS.LAST. -/
def Fld.MX_FLAGS_LAST : Fld := ⟨.MX_FLAGS, 15, 8⟩
/-- MX_FLAGS.STICKY. -/
def Fld.MX_FLAGS_STICKY : Fld := ⟨.MX_FLAGS, 7, 0⟩
/-- MX_BUSY.CYCLES. -/
def Fld.MX_BUSY_CYCLES : Fld := ⟨.MX_BUSY, 63, 0⟩
/-- MX_SWAPS.SWAPS. -/
def Fld.MX_SWAPS_SWAPS : Fld := ⟨.MX_SWAPS, 63, 32⟩
/-- MX_SWAPS.SKIPPED_GROUPS. -/
def Fld.MX_SWAPS_SKIPPED_GROUPS : Fld := ⟨.MX_SWAPS, 31, 0⟩
/-- MX_STALLS.BANK_STALLS. -/
def Fld.MX_STALLS_BANK_STALLS : Fld := ⟨.MX_STALLS, 63, 32⟩
/-- MX_STALLS.WAKE_WAITS. -/
def Fld.MX_STALLS_WAKE_WAITS : Fld := ⟨.MX_STALLS, 31, 0⟩
/-- MX_ERR.CORRECTED. -/
def Fld.MX_ERR_CORRECTED : Fld := ⟨.MX_ERR, 63, 32⟩
/-- MX_ERR.UNCORR. -/
def Fld.MX_ERR_UNCORR : Fld := ⟨.MX_ERR, 31, 24⟩
/-- MX_ERR.WHERE. -/
def Fld.MX_ERR_WHERE : Fld := ⟨.MX_ERR, 17, 16⟩
/-- MX_ERR.INDEX. -/
def Fld.MX_ERR_INDEX : Fld := ⟨.MX_ERR, 15, 0⟩
/-- MX_GATE_CFG.IDLE_GATE. -/
def Fld.MX_GATE_CFG_IDLE_GATE : Fld := ⟨.MX_GATE_CFG, 31, 0⟩
/-- VX_STAT.CHAINS_DONE. -/
def Fld.VX_STAT_CHAINS_DONE : Fld := ⟨.VX_STAT, 63, 32⟩
/-- VX_STAT.PROG. -/
def Fld.VX_STAT_PROG : Fld := ⟨.VX_STAT, 24, 16⟩
/-- VX_STAT.BUSY. -/
def Fld.VX_STAT_BUSY : Fld := ⟨.VX_STAT, 4, 4⟩
/-- VX_STAT.QUEUED. -/
def Fld.VX_STAT_QUEUED : Fld := ⟨.VX_STAT, 2, 0⟩
/-- VX_FLAGS.LAST. -/
def Fld.VX_FLAGS_LAST : Fld := ⟨.VX_FLAGS, 15, 8⟩
/-- VX_FLAGS.STICKY. -/
def Fld.VX_FLAGS_STICKY : Fld := ⟨.VX_FLAGS, 7, 0⟩
/-- VX_BUSY.CYCLES. -/
def Fld.VX_BUSY_CYCLES : Fld := ⟨.VX_BUSY, 63, 0⟩
/-- VX_STALLS.BANK_STALLS. -/
def Fld.VX_STALLS_BANK_STALLS : Fld := ⟨.VX_STALLS, 63, 32⟩
/-- VX_STALLS.COMBINE_WAITS. -/
def Fld.VX_STALLS_COMBINE_WAITS : Fld := ⟨.VX_STALLS, 31, 0⟩
/-- VX_ERR.CORRECTED. -/
def Fld.VX_ERR_CORRECTED : Fld := ⟨.VX_ERR, 63, 32⟩
/-- VX_ERR.UNCORR. -/
def Fld.VX_ERR_UNCORR : Fld := ⟨.VX_ERR, 31, 24⟩
/-- VX_ERR.WHERE. -/
def Fld.VX_ERR_WHERE : Fld := ⟨.VX_ERR, 16, 16⟩
/-- VX_ERR.INDEX. -/
def Fld.VX_ERR_INDEX : Fld := ⟨.VX_ERR, 15, 0⟩
/-- VX_COUNT.TRUE_COUNT. -/
def Fld.VX_COUNT_TRUE_COUNT : Fld := ⟨.VX_COUNT, 31, 0⟩
/-- VX_LOADED.PROGS. -/
def Fld.VX_LOADED_PROGS : Fld := ⟨.VX_LOADED, 9, 0⟩
/-- MEM_PIPE_STAT.MICRO_BATCH. -/
def Fld.MEM_PIPE_STAT_MICRO_BATCH : Fld := ⟨.MEM_PIPE_STAT, 47, 32⟩
/-- MEM_PIPE_STAT.LAST_STATUS. -/
def Fld.MEM_PIPE_STAT_LAST_STATUS : Fld := ⟨.MEM_PIPE_STAT, 31, 24⟩
/-- MEM_PIPE_STAT.FRAMES. -/
def Fld.MEM_PIPE_STAT_FRAMES : Fld := ⟨.MEM_PIPE_STAT, 14, 8⟩
/-- MEM_PIPE_STAT.PHASE. -/
def Fld.MEM_PIPE_STAT_PHASE : Fld := ⟨.MEM_PIPE_STAT, 3, 0⟩
/-- MEM_PIPE_BUSY.BUSY_KCYC. -/
def Fld.MEM_PIPE_BUSY_BUSY_KCYC : Fld := ⟨.MEM_PIPE_BUSY, 63, 32⟩
/-- MEM_PIPE_BUSY.WAIT_KCYC. -/
def Fld.MEM_PIPE_BUSY_WAIT_KCYC : Fld := ⟨.MEM_PIPE_BUSY, 31, 0⟩
/-- MEM_SHOAL_PTR.RETIRE. -/
def Fld.MEM_SHOAL_PTR_RETIRE : Fld := ⟨.MEM_SHOAL_PTR, 63, 32⟩
/-- MEM_SHOAL_PTR.TAIL. -/
def Fld.MEM_SHOAL_PTR_TAIL : Fld := ⟨.MEM_SHOAL_PTR, 31, 0⟩
/-- MEM_SHOAL_CUR.START. -/
def Fld.MEM_SHOAL_CUR_START : Fld := ⟨.MEM_SHOAL_CUR, 63, 32⟩
/-- MEM_SHOAL_CUR.TOP_WORDS. -/
def Fld.MEM_SHOAL_CUR_TOP_WORDS : Fld := ⟨.MEM_SHOAL_CUR, 31, 0⟩
/-- MEM_SHOAL_ERR.FULL. -/
def Fld.MEM_SHOAL_ERR_FULL : Fld := ⟨.MEM_SHOAL_ERR, 63, 63⟩
/-- MEM_SHOAL_ERR.REPLAY. -/
def Fld.MEM_SHOAL_ERR_REPLAY : Fld := ⟨.MEM_SHOAL_ERR, 62, 62⟩
/-- MEM_SHOAL_ERR.FAULT_OFFSET. -/
def Fld.MEM_SHOAL_ERR_FAULT_OFFSET : Fld := ⟨.MEM_SHOAL_ERR, 36, 0⟩
/-- MEM_SHOAL_USE.STRAYS. -/
def Fld.MEM_SHOAL_USE_STRAYS : Fld := ⟨.MEM_SHOAL_USE, 63, 32⟩
/-- MEM_SHOAL_USE.HWM_PAGES. -/
def Fld.MEM_SHOAL_USE_HWM_PAGES : Fld := ⟨.MEM_SHOAL_USE, 31, 0⟩
/-- MEM_CAP.STACKS. -/
def Fld.MEM_CAP_STACKS : Fld := ⟨.MEM_CAP, 63, 56⟩
/-- MEM_CAP.ML_RANGES. -/
def Fld.MEM_CAP_ML_RANGES : Fld := ⟨.MEM_CAP, 43, 32⟩
/-- MEM_CAP.HBM_FRAMES. -/
def Fld.MEM_CAP_HBM_FRAMES : Fld := ⟨.MEM_CAP, 24, 0⟩
/-- MEM_POOL.ML_FREE. -/
def Fld.MEM_POOL_ML_FREE : Fld := ⟨.MEM_POOL, 57, 32⟩
/-- MEM_POOL.HBM_FREE. -/
def Fld.MEM_POOL_HBM_FREE : Fld := ⟨.MEM_POOL, 24, 0⟩
/-- MEM_MIG_REQ.WORD. -/
def Fld.MEM_MIG_REQ_WORD : Fld := ⟨.MEM_MIG_REQ, 63, 0⟩
/-- MEM_MIG_CTL.CANCEL. -/
def Fld.MEM_MIG_CTL_CANCEL : Fld := ⟨.MEM_MIG_CTL, 1, 1⟩
/-- MEM_MIG_CTL.GO. -/
def Fld.MEM_MIG_CTL_GO : Fld := ⟨.MEM_MIG_CTL, 0, 0⟩
/-- MEM_MIG_STAT.SEQ. -/
def Fld.MEM_MIG_STAT_SEQ : Fld := ⟨.MEM_MIG_STAT, 63, 32⟩
/-- MEM_MIG_STAT.STATUS. -/
def Fld.MEM_MIG_STAT_STATUS : Fld := ⟨.MEM_MIG_STAT, 31, 24⟩
/-- MEM_MIG_STAT.BUSY. -/
def Fld.MEM_MIG_STAT_BUSY : Fld := ⟨.MEM_MIG_STAT, 7, 7⟩
/-- MEM_MIG_STAT.QUEUED. -/
def Fld.MEM_MIG_STAT_QUEUED : Fld := ⟨.MEM_MIG_STAT, 6, 0⟩
/-- MEM_MIG_DONE.DONE_PAGES. -/
def Fld.MEM_MIG_DONE_DONE_PAGES : Fld := ⟨.MEM_MIG_DONE, 63, 32⟩
/-- MEM_MIG_DONE.SKIPPED. -/
def Fld.MEM_MIG_DONE_SKIPPED : Fld := ⟨.MEM_MIG_DONE, 31, 0⟩
/-- MEM_EVT.REJ_FULL. -/
def Fld.MEM_EVT_REJ_FULL : Fld := ⟨.MEM_EVT, 3, 3⟩
/-- MEM_EVT.UNMAPPED_EVT. -/
def Fld.MEM_EVT_UNMAPPED_EVT : Fld := ⟨.MEM_EVT, 2, 2⟩
/-- MEM_EVT.ERR_EVT. -/
def Fld.MEM_EVT_ERR_EVT : Fld := ⟨.MEM_EVT, 1, 1⟩
/-- MEM_EVT.MIG_EVT. -/
def Fld.MEM_EVT_MIG_EVT : Fld := ⟨.MEM_EVT, 0, 0⟩
/-- MEM_UNMAPPED.COUNT. -/
def Fld.MEM_UNMAPPED_COUNT : Fld := ⟨.MEM_UNMAPPED, 63, 52⟩
/-- MEM_UNMAPPED.LAST_ADDR. -/
def Fld.MEM_UNMAPPED_LAST_ADDR : Fld := ⟨.MEM_UNMAPPED, 51, 0⟩
/-- MEM_ERR_COUNT.CORRECTED. -/
def Fld.MEM_ERR_COUNT_CORRECTED : Fld := ⟨.MEM_ERR_COUNT, 63, 32⟩
/-- MEM_ERR_COUNT.UNCORR. -/
def Fld.MEM_ERR_COUNT_UNCORR : Fld := ⟨.MEM_ERR_COUNT, 31, 16⟩
/-- MEM_ERR_COUNT.SEGMENTS. -/
def Fld.MEM_ERR_COUNT_SEGMENTS : Fld := ⟨.MEM_ERR_COUNT, 10, 0⟩
/-- MEM_ERR_LAST.RECORD. -/
def Fld.MEM_ERR_LAST_RECORD : Fld := ⟨.MEM_ERR_LAST, 63, 0⟩
/-- MEM_XLATE_ADDR.PAGE. -/
def Fld.MEM_XLATE_ADDR_PAGE : Fld := ⟨.MEM_XLATE_ADDR, 51, 16⟩
/-- MEM_XLATE_RES.DONE. -/
def Fld.MEM_XLATE_RES_DONE : Fld := ⟨.MEM_XLATE_RES, 63, 63⟩
/-- MEM_XLATE_RES.STATE. -/
def Fld.MEM_XLATE_RES_STATE : Fld := ⟨.MEM_XLATE_RES, 62, 60⟩
/-- MEM_XLATE_RES.FROZEN. -/
def Fld.MEM_XLATE_RES_FROZEN : Fld := ⟨.MEM_XLATE_RES, 59, 59⟩
/-- MEM_XLATE_RES.KEY_SLOT. -/
def Fld.MEM_XLATE_RES_KEY_SLOT : Fld := ⟨.MEM_XLATE_RES, 58, 58⟩
/-- MEM_XLATE_RES.LAYOUT. -/
def Fld.MEM_XLATE_RES_LAYOUT : Fld := ⟨.MEM_XLATE_RES, 57, 57⟩
/-- MEM_XLATE_RES.STACK. -/
def Fld.MEM_XLATE_RES_STACK : Fld := ⟨.MEM_XLATE_RES, 56, 54⟩
/-- MEM_XLATE_RES.PC. -/
def Fld.MEM_XLATE_RES_PC : Fld := ⟨.MEM_XLATE_RES, 53, 48⟩
/-- MEM_XLATE_RES.PORT. -/
def Fld.MEM_XLATE_RES_PORT : Fld := ⟨.MEM_XLATE_RES, 47, 44⟩
/-- MEM_XLATE_RES.SEG_BASE. -/
def Fld.MEM_XLATE_RES_SEG_BASE : Fld := ⟨.MEM_XLATE_RES, 35, 0⟩
/-- MEM_SCRUB_CFG.SCRUB_PERIOD. -/
def Fld.MEM_SCRUB_CFG_SCRUB_PERIOD : Fld := ⟨.MEM_SCRUB_CFG, 15, 0⟩
/-- MEM_REPAIR_CFG.ROW_THRESH. -/
def Fld.MEM_REPAIR_CFG_ROW_THRESH : Fld := ⟨.MEM_REPAIR_CFG, 7, 0⟩
/-- MEM_STACK_STAT.SPARE_LEFT. -/
def Fld.MEM_STACK_STAT_SPARE_LEFT : Fld := ⟨.MEM_STACK_STAT, 63, 48⟩
/-- MEM_STACK_STAT.REPAIRS_PENDING. -/
def Fld.MEM_STACK_STAT_REPAIRS_PENDING : Fld := ⟨.MEM_STACK_STAT, 47, 32⟩
/-- MEM_STACK_STAT.WITHDRAWN. -/
def Fld.MEM_STACK_STAT_WITHDRAWN : Fld := ⟨.MEM_STACK_STAT, 31, 16⟩
/-- MEM_STACK_STAT.TEMP_C. -/
def Fld.MEM_STACK_STAT_TEMP_C : Fld := ⟨.MEM_STACK_STAT, 15, 8⟩
/-- MEM_STACK_STAT.REFRESH. -/
def Fld.MEM_STACK_STAT_REFRESH : Fld := ⟨.MEM_STACK_STAT, 3, 2⟩
/-- MEM_STACK_STAT.STATE. -/
def Fld.MEM_STACK_STAT_STATE : Fld := ⟨.MEM_STACK_STAT, 1, 0⟩
/-- MEM_STACK_ERR.CORRECTED. -/
def Fld.MEM_STACK_ERR_CORRECTED : Fld := ⟨.MEM_STACK_ERR, 63, 32⟩
/-- MEM_STACK_ERR.UNCORR. -/
def Fld.MEM_STACK_ERR_UNCORR : Fld := ⟨.MEM_STACK_ERR, 31, 0⟩
/-- MEM_ML_PORT_STAT.CAP_GIB. -/
def Fld.MEM_ML_PORT_STAT_CAP_GIB : Fld := ⟨.MEM_ML_PORT_STAT, 63, 56⟩
/-- MEM_ML_PORT_STAT.STATE. -/
def Fld.MEM_ML_PORT_STAT_STATE : Fld := ⟨.MEM_ML_PORT_STAT, 1, 0⟩
/-- MEM_ML_PORT_ERR.CORRECTED. -/
def Fld.MEM_ML_PORT_ERR_CORRECTED : Fld := ⟨.MEM_ML_PORT_ERR, 63, 32⟩
/-- MEM_ML_PORT_ERR.UNCORR. -/
def Fld.MEM_ML_PORT_ERR_UNCORR : Fld := ⟨.MEM_ML_PORT_ERR, 31, 0⟩
/-- REEF_STACK_STAT.LIMIT. -/
def Fld.REEF_STACK_STAT_LIMIT : Fld := ⟨.REEF_STACK_STAT, 55, 48⟩
/-- REEF_STACK_STAT.COMPUTING. -/
def Fld.REEF_STACK_STAT_COMPUTING : Fld := ⟨.REEF_STACK_STAT, 39, 32⟩
/-- REEF_STACK_STAT.RUNNING. -/
def Fld.REEF_STACK_STAT_RUNNING : Fld := ⟨.REEF_STACK_STAT, 23, 16⟩
/-- REEF_STACK_STAT.QUEUED. -/
def Fld.REEF_STACK_STAT_QUEUED : Fld := ⟨.REEF_STACK_STAT, 7, 1⟩
/-- REEF_STACK_STAT.LOADED. -/
def Fld.REEF_STACK_STAT_LOADED : Fld := ⟨.REEF_STACK_STAT, 0, 0⟩
/-- REEF_REQ.WORD. -/
def Fld.REEF_REQ_WORD : Fld := ⟨.REEF_REQ, 63, 0⟩
/-- REEF_ISSUE.CANCEL. -/
def Fld.REEF_ISSUE_CANCEL : Fld := ⟨.REEF_ISSUE, 1, 1⟩
/-- REEF_ISSUE.GO. -/
def Fld.REEF_ISSUE_GO : Fld := ⟨.REEF_ISSUE, 0, 0⟩
/-- REEF_EVT.BAD_ISSUE. -/
def Fld.REEF_EVT_BAD_ISSUE : Fld := ⟨.REEF_EVT, 3, 3⟩
/-- REEF_EVT.REJ_FULL. -/
def Fld.REEF_EVT_REJ_FULL : Fld := ⟨.REEF_EVT, 2, 2⟩
/-- REEF_EVT.BAD_EVT. -/
def Fld.REEF_EVT_BAD_EVT : Fld := ⟨.REEF_EVT, 1, 1⟩
/-- REEF_EVT.DONE_EVT. -/
def Fld.REEF_EVT_DONE_EVT : Fld := ⟨.REEF_EVT, 0, 0⟩
/-- REEF_LAST.RECORD. -/
def Fld.REEF_LAST_RECORD : Fld := ⟨.REEF_LAST, 63, 0⟩
/-- REEF_OPS.DONE. -/
def Fld.REEF_OPS_DONE : Fld := ⟨.REEF_OPS, 63, 32⟩
/-- REEF_OPS.QUOTA_REFUSED. -/
def Fld.REEF_OPS_QUOTA_REFUSED : Fld := ⟨.REEF_OPS, 31, 0⟩
/-- REEF_ECC.CORRECTED. -/
def Fld.REEF_ECC_CORRECTED : Fld := ⟨.REEF_ECC, 63, 32⟩
/-- REEF_ECC.UNCORR. -/
def Fld.REEF_ECC_UNCORR : Fld := ⟨.REEF_ECC, 31, 16⟩
/-- REEF_YIELDS.YIELDS. -/
def Fld.REEF_YIELDS_YIELDS : Fld := ⟨.REEF_YIELDS, 63, 0⟩
/-- REEF_CAUSE.FUSED. -/
def Fld.REEF_CAUSE_FUSED : Fld := ⟨.REEF_CAUSE, 62, 0⟩
/-- REEF_LOADED.DESCS. -/
def Fld.REEF_LOADED_DESCS : Fld := ⟨.REEF_LOADED, 12, 0⟩
/-- REEF_UNIT_STAT.OPS. -/
def Fld.REEF_UNIT_STAT_OPS : Fld := ⟨.REEF_UNIT_STAT, 63, 32⟩
/-- REEF_UNIT_STAT.LEASED. -/
def Fld.REEF_UNIT_STAT_LEASED : Fld := ⟨.REEF_UNIT_STAT, 0, 0⟩
/-- JL_PORT_CTL.REKEY. -/
def Fld.JL_PORT_CTL_REKEY : Fld := ⟨.JL_PORT_CTL, 3, 3⟩
/-- JL_PORT_CTL.RESET. -/
def Fld.JL_PORT_CTL_RESET : Fld := ⟨.JL_PORT_CTL, 2, 2⟩
/-- JL_PORT_CTL.AUTO_RETRY. -/
def Fld.JL_PORT_CTL_AUTO_RETRY : Fld := ⟨.JL_PORT_CTL, 1, 1⟩
/-- JL_PORT_CTL.ENABLE. -/
def Fld.JL_PORT_CTL_ENABLE : Fld := ⟨.JL_PORT_CTL, 0, 0⟩
/-- JL_PORT_STAT.PEER_ADDR. -/
def Fld.JL_PORT_STAT_PEER_ADDR : Fld := ⟨.JL_PORT_STAT, 63, 56⟩
/-- JL_PORT_STAT.PEER_PORT. -/
def Fld.JL_PORT_STAT_PEER_PORT : Fld := ⟨.JL_PORT_STAT, 55, 51⟩
/-- JL_PORT_STAT.PEER_ADDR_VALID. -/
def Fld.JL_PORT_STAT_PEER_ADDR_VALID : Fld := ⟨.JL_PORT_STAT, 50, 50⟩
/-- JL_PORT_STAT.SESSION. -/
def Fld.JL_PORT_STAT_SESSION : Fld := ⟨.JL_PORT_STAT, 47, 32⟩
/-- JL_PORT_STAT.DOWN_CAUSE. -/
def Fld.JL_PORT_STAT_DOWN_CAUSE : Fld := ⟨.JL_PORT_STAT, 31, 28⟩
/-- JL_PORT_STAT.REKEYING. -/
def Fld.JL_PORT_STAT_REKEYING : Fld := ⟨.JL_PORT_STAT, 27, 27⟩
/-- JL_PORT_STAT.KEY_PHASE. -/
def Fld.JL_PORT_STAT_KEY_PHASE : Fld := ⟨.JL_PORT_STAT, 26, 26⟩
/-- JL_PORT_STAT.SPARE_TX. -/
def Fld.JL_PORT_STAT_SPARE_TX : Fld := ⟨.JL_PORT_STAT, 23, 20⟩
/-- JL_PORT_STAT.SPARE_RX. -/
def Fld.JL_PORT_STAT_SPARE_RX : Fld := ⟨.JL_PORT_STAT, 19, 16⟩
/-- JL_PORT_STAT.STATE. -/
def Fld.JL_PORT_STAT_STATE : Fld := ⟨.JL_PORT_STAT, 2, 0⟩
/-- JL_PORT_CFG.REKEY_AT. -/
def Fld.JL_PORT_CFG_REKEY_AT : Fld := ⟨.JL_PORT_CFG, 63, 48⟩
/-- JL_PORT_CFG.REPLAY_LIMIT. -/
def Fld.JL_PORT_CFG_REPLAY_LIMIT : Fld := ⟨.JL_PORT_CFG, 39, 32⟩
/-- JL_PORT_CFG.REPLAY_TIMEOUT. -/
def Fld.JL_PORT_CFG_REPLAY_TIMEOUT : Fld := ⟨.JL_PORT_CFG, 31, 16⟩
/-- JL_PORT_CFG.LANE_THRESH. -/
def Fld.JL_PORT_CFG_LANE_THRESH : Fld := ⟨.JL_PORT_CFG, 15, 8⟩
/-- JL_PORT_ERR.FEC_CORR. -/
def Fld.JL_PORT_ERR_FEC_CORR : Fld := ⟨.JL_PORT_ERR, 63, 32⟩
/-- JL_PORT_ERR.FEC_UNCORR. -/
def Fld.JL_PORT_ERR_FEC_UNCORR : Fld := ⟨.JL_PORT_ERR, 31, 16⟩
/-- JL_PORT_ERR.CRC_FAIL. -/
def Fld.JL_PORT_ERR_CRC_FAIL : Fld := ⟨.JL_PORT_ERR, 15, 0⟩
/-- JL_PORT_ERR2.AUTH_FAIL. -/
def Fld.JL_PORT_ERR2_AUTH_FAIL : Fld := ⟨.JL_PORT_ERR2, 63, 48⟩
/-- JL_PORT_ERR2.REPLAYS. -/
def Fld.JL_PORT_ERR2_REPLAYS : Fld := ⟨.JL_PORT_ERR2, 47, 32⟩
/-- JL_PORT_ERR2.LANE_SWAPS. -/
def Fld.JL_PORT_ERR2_LANE_SWAPS : Fld := ⟨.JL_PORT_ERR2, 31, 16⟩
/-- JL_PORT_ERR2.DOWN_COUNT. -/
def Fld.JL_PORT_ERR2_DOWN_COUNT : Fld := ⟨.JL_PORT_ERR2, 15, 0⟩
/-- JL_PORT_TXC.TXC. -/
def Fld.JL_PORT_TXC_TXC : Fld := ⟨.JL_PORT_TXC, 47, 0⟩
/-- JL_PORT_TX_FLITS.FLITS. -/
def Fld.JL_PORT_TX_FLITS_FLITS : Fld := ⟨.JL_PORT_TX_FLITS, 63, 0⟩
/-- JL_PORT_RX_FLITS.FLITS. -/
def Fld.JL_PORT_RX_FLITS_FLITS : Fld := ⟨.JL_PORT_RX_FLITS, 63, 0⟩
/-- JL_PORT_PEER.DIGEST. -/
def Fld.JL_PORT_PEER_DIGEST : Fld := ⟨.JL_PORT_PEER, 63, 0⟩
/-- JL_PORT_PIN.PIN. -/
def Fld.JL_PORT_PIN_PIN : Fld := ⟨.JL_PORT_PIN, 63, 0⟩
/-- JL_PORT_EVT.AUTH_EVT. -/
def Fld.JL_PORT_EVT_AUTH_EVT : Fld := ⟨.JL_PORT_EVT, 4, 4⟩
/-- JL_PORT_EVT.REKEY_EVT. -/
def Fld.JL_PORT_EVT_REKEY_EVT : Fld := ⟨.JL_PORT_EVT, 3, 3⟩
/-- JL_PORT_EVT.LANE_EVT. -/
def Fld.JL_PORT_EVT_LANE_EVT : Fld := ⟨.JL_PORT_EVT, 2, 2⟩
/-- JL_PORT_EVT.UP_EVT. -/
def Fld.JL_PORT_EVT_UP_EVT : Fld := ⟨.JL_PORT_EVT, 1, 1⟩
/-- JL_PORT_EVT.DOWN_EVT. -/
def Fld.JL_PORT_EVT_DOWN_EVT : Fld := ⟨.JL_PORT_EVT, 0, 0⟩
/-- JL_CHAIN.EPOCH. -/
def Fld.JL_CHAIN_EPOCH : Fld := ⟨.JL_CHAIN, 63, 48⟩
/-- JL_CHAIN.ADAPTER_PORT. -/
def Fld.JL_CHAIN_ADAPTER_PORT : Fld := ⟨.JL_CHAIN, 16, 16⟩
/-- JL_CHAIN.ADDR_VALID. -/
def Fld.JL_CHAIN_ADDR_VALID : Fld := ⟨.JL_CHAIN, 8, 8⟩
/-- JL_CHAIN.ADDR. -/
def Fld.JL_CHAIN_ADDR : Fld := ⟨.JL_CHAIN, 7, 0⟩
/-- JL_DEV_CFG.CLAIM_WAIT_MS. -/
def Fld.JL_DEV_CFG_CLAIM_WAIT_MS : Fld := ⟨.JL_DEV_CFG, 47, 32⟩
/-- JL_DEV_CFG.FLIT_STALL_US. -/
def Fld.JL_DEV_CFG_FLIT_STALL_US : Fld := ⟨.JL_DEV_CFG, 31, 16⟩
/-- JL_DEV_CFG.READ_TIMEOUT_US. -/
def Fld.JL_DEV_CFG_READ_TIMEOUT_US : Fld := ⟨.JL_DEV_CFG, 15, 0⟩
/-- JL_DROPS.FENCE. -/
def Fld.JL_DROPS_FENCE : Fld := ⟨.JL_DROPS, 63, 32⟩
/-- JL_DROPS.ROUTE. -/
def Fld.JL_DROPS_ROUTE : Fld := ⟨.JL_DROPS, 31, 0⟩
/-- JL_UNREACH.REASON. -/
def Fld.JL_UNREACH_REASON : Fld := ⟨.JL_UNREACH, 63, 60⟩
/-- JL_UNREACH.DST. -/
def Fld.JL_UNREACH_DST : Fld := ⟨.JL_UNREACH, 59, 52⟩
/-- JL_UNREACH.ADDR. -/
def Fld.JL_UNREACH_ADDR : Fld := ⟨.JL_UNREACH, 51, 0⟩
/-- JL_FN_EVT.UNREACH_EVT. -/
def Fld.JL_FN_EVT_UNREACH_EVT : Fld := ⟨.JL_FN_EVT, 1, 1⟩
/-- JL_FN_EVT.PORT_EVT. -/
def Fld.JL_FN_EVT_PORT_EVT : Fld := ⟨.JL_FN_EVT, 0, 0⟩
/-- JL_ROUTE.PORT. -/
def Fld.JL_ROUTE_PORT : Fld := ⟨.JL_ROUTE, 4, 0⟩
/-- RED_CTX_MAP.GRANTED. -/
def Fld.RED_CTX_MAP_GRANTED : Fld := ⟨.RED_CTX_MAP, 31, 0⟩
/-- RED_EVT.STOP_EVT. -/
def Fld.RED_EVT_STOP_EVT : Fld := ⟨.RED_EVT, 3, 3⟩
/-- RED_EVT.NF_EVT. -/
def Fld.RED_EVT_NF_EVT : Fld := ⟨.RED_EVT, 2, 2⟩
/-- RED_EVT.LATE_EVT. -/
def Fld.RED_EVT_LATE_EVT : Fld := ⟨.RED_EVT, 1, 1⟩
/-- RED_EVT.STEP_EVT. -/
def Fld.RED_EVT_STEP_EVT : Fld := ⟨.RED_EVT, 0, 0⟩
/-- RED_DROPS.STALE. -/
def Fld.RED_DROPS_STALE : Fld := ⟨.RED_DROPS, 63, 32⟩
/-- RED_DROPS.FENCE. -/
def Fld.RED_DROPS_FENCE : Fld := ⟨.RED_DROPS, 31, 0⟩
/-- RED_JOB_CTL.RESUME. -/
def Fld.RED_JOB_CTL_RESUME : Fld := ⟨.RED_JOB_CTL, 1, 1⟩
/-- RED_JOB_CTL.ABORT_STEP. -/
def Fld.RED_JOB_CTL_ABORT_STEP : Fld := ⟨.RED_JOB_CTL, 0, 0⟩
/-- RED_JOB_STAT.JOB_ID. -/
def Fld.RED_JOB_STAT_JOB_ID : Fld := ⟨.RED_JOB_STAT, 63, 56⟩
/-- RED_JOB_STAT.RANK. -/
def Fld.RED_JOB_STAT_RANK : Fld := ⟨.RED_JOB_STAT, 55, 48⟩
/-- RED_JOB_STAT.GROUP. -/
def Fld.RED_JOB_STAT_GROUP : Fld := ⟨.RED_JOB_STAT, 47, 40⟩
/-- RED_JOB_STAT.LAST_STATUS. -/
def Fld.RED_JOB_STAT_LAST_STATUS : Fld := ⟨.RED_JOB_STAT, 39, 32⟩
/-- RED_JOB_STAT.STOP_CAUSE. -/
def Fld.RED_JOB_STAT_STOP_CAUSE : Fld := ⟨.RED_JOB_STAT, 31, 28⟩
/-- RED_JOB_STAT.ATTEMPT. -/
def Fld.RED_JOB_STAT_ATTEMPT : Fld := ⟨.RED_JOB_STAT, 27, 24⟩
/-- RED_JOB_STAT.TOPO. -/
def Fld.RED_JOB_STAT_TOPO : Fld := ⟨.RED_JOB_STAT, 23, 23⟩
/-- RED_JOB_STAT.OUTSTANDING. -/
def Fld.RED_JOB_STAT_OUTSTANDING : Fld := ⟨.RED_JOB_STAT, 22, 16⟩
/-- RED_JOB_STAT.STATE. -/
def Fld.RED_JOB_STAT_STATE : Fld := ⟨.RED_JOB_STAT, 2, 0⟩
/-- RED_JOB_STEP.STEP. -/
def Fld.RED_JOB_STEP_STEP : Fld := ⟨.RED_JOB_STEP, 63, 0⟩
/-- RED_JOB_SCALE.LOSS_SCALE. -/
def Fld.RED_JOB_SCALE_LOSS_SCALE : Fld := ⟨.RED_JOB_SCALE, 63, 32⟩
/-- RED_JOB_SCALE.OK_RUN. -/
def Fld.RED_JOB_SCALE_OK_RUN : Fld := ⟨.RED_JOB_SCALE, 31, 16⟩
/-- RED_JOB_SCALE.NOT_COMMITTED. -/
def Fld.RED_JOB_SCALE_NOT_COMMITTED : Fld := ⟨.RED_JOB_SCALE, 15, 0⟩
/-- RED_JOB_COUNT.COMMITS. -/
def Fld.RED_JOB_COUNT_COMMITS : Fld := ⟨.RED_JOB_COUNT, 63, 32⟩
/-- RED_JOB_COUNT.REPEATS. -/
def Fld.RED_JOB_COUNT_REPEATS : Fld := ⟨.RED_JOB_COUNT, 31, 16⟩
/-- RED_JOB_COUNT.SKIPS. -/
def Fld.RED_JOB_COUNT_SKIPS : Fld := ⟨.RED_JOB_COUNT, 15, 0⟩
/-- RED_JOB_NF.NF_ADDR. -/
def Fld.RED_JOB_NF_NF_ADDR : Fld := ⟨.RED_JOB_NF, 63, 56⟩
/-- RED_JOB_NF.REASON. -/
def Fld.RED_JOB_NF_REASON : Fld := ⟨.RED_JOB_NF, 55, 48⟩
/-- RED_JOB_NF.BUCKET. -/
def Fld.RED_JOB_NF_BUCKET : Fld := ⟨.RED_JOB_NF, 47, 36⟩
/-- RED_JOB_NF.NF_INDEX. -/
def Fld.RED_JOB_NF_NF_INDEX : Fld := ⟨.RED_JOB_NF, 31, 0⟩
/-- RED_JOB_LATE.LATE_BUCKETS. -/
def Fld.RED_JOB_LATE_LATE_BUCKETS : Fld := ⟨.RED_JOB_LATE, 63, 32⟩
/-- RED_JOB_LATE.LAST_BUCKET. -/
def Fld.RED_JOB_LATE_LAST_BUCKET : Fld := ⟨.RED_JOB_LATE, 27, 16⟩
/-- RED_JOB_FLITS.FLITS. -/
def Fld.RED_JOB_FLITS_FLITS : Fld := ⟨.RED_JOB_FLITS, 63, 0⟩
/-- OPT_CTL.ADOPT. -/
def Fld.OPT_CTL_ADOPT : Fld := ⟨.OPT_CTL, 1, 1⟩
/-- OPT_CTL.RECOVER. -/
def Fld.OPT_CTL_RECOVER : Fld := ⟨.OPT_CTL, 0, 0⟩
/-- OPT_STAT.FLAGS. -/
def Fld.OPT_STAT_FLAGS : Fld := ⟨.OPT_STAT, 63, 56⟩
/-- OPT_STAT.LAST_STATUS. -/
def Fld.OPT_STAT_LAST_STATUS : Fld := ⟨.OPT_STAT, 55, 48⟩
/-- OPT_STAT.TORN. -/
def Fld.OPT_STAT_TORN : Fld := ⟨.OPT_STAT, 47, 35⟩
/-- OPT_STAT.PENDING. -/
def Fld.OPT_STAT_PENDING : Fld := ⟨.OPT_STAT, 34, 22⟩
/-- OPT_STAT.SHARDS. -/
def Fld.OPT_STAT_SHARDS : Fld := ⟨.OPT_STAT, 21, 9⟩
/-- OPT_STAT.STATE. -/
def Fld.OPT_STAT_STATE : Fld := ⟨.OPT_STAT, 2, 0⟩
/-- OPT_STEP.STEP. -/
def Fld.OPT_STEP_STEP : Fld := ⟨.OPT_STEP, 63, 0⟩
/-- OPT_UPDATES.UPDATE_NO. -/
def Fld.OPT_UPDATES_UPDATE_NO : Fld := ⟨.OPT_UPDATES, 63, 32⟩
/-- OPT_UPDATES.CLIPPED. -/
def Fld.OPT_UPDATES_CLIPPED : Fld := ⟨.OPT_UPDATES, 31, 16⟩
/-- OPT_UPDATES.REJECTED. -/
def Fld.OPT_UPDATES_REJECTED : Fld := ⟨.OPT_UPDATES, 15, 0⟩
/-- OPT_NORM.NORM. -/
def Fld.OPT_NORM_NORM : Fld := ⟨.OPT_NORM, 63, 0⟩
/-- OPT_SCALE.K. -/
def Fld.OPT_SCALE_K : Fld := ⟨.OPT_SCALE, 63, 32⟩
/-- OPT_SCALE.LR. -/
def Fld.OPT_SCALE_LR : Fld := ⟨.OPT_SCALE, 31, 0⟩
/-- OPT_EVT.STOP_EVT. -/
def Fld.OPT_EVT_STOP_EVT : Fld := ⟨.OPT_EVT, 5, 5⟩
/-- OPT_EVT.DIVERGED_EVT. -/
def Fld.OPT_EVT_DIVERGED_EVT : Fld := ⟨.OPT_EVT, 4, 4⟩
/-- OPT_EVT.TORN_EVT. -/
def Fld.OPT_EVT_TORN_EVT : Fld := ⟨.OPT_EVT, 3, 3⟩
/-- OPT_EVT.REJECT_EVT. -/
def Fld.OPT_EVT_REJECT_EVT : Fld := ⟨.OPT_EVT, 2, 2⟩
/-- OPT_EVT.CLIP_EVT. -/
def Fld.OPT_EVT_CLIP_EVT : Fld := ⟨.OPT_EVT, 1, 1⟩
/-- OPT_EVT.APPLIED_EVT. -/
def Fld.OPT_EVT_APPLIED_EVT : Fld := ⟨.OPT_EVT, 0, 0⟩
/-- OPT_DIVERGE.FIRST_RANK. -/
def Fld.OPT_DIVERGE_FIRST_RANK : Fld := ⟨.OPT_DIVERGE, 63, 56⟩
/-- OPT_DIVERGE.STEP. -/
def Fld.OPT_DIVERGE_STEP : Fld := ⟨.OPT_DIVERGE, 47, 0⟩
/-- OPT_DIGEST.DIGEST. -/
def Fld.OPT_DIGEST_DIGEST : Fld := ⟨.OPT_DIGEST, 63, 0⟩
/-- OPT_SHARD_SEL.INDEX. -/
def Fld.OPT_SHARD_SEL_INDEX : Fld := ⟨.OPT_SHARD_SEL, 11, 0⟩
/-- OPT_SHARD_STAT.STEP_LO. -/
def Fld.OPT_SHARD_STAT_STEP_LO : Fld := ⟨.OPT_SHARD_STAT, 63, 32⟩
/-- OPT_SHARD_STAT.ISLET. -/
def Fld.OPT_SHARD_STAT_ISLET : Fld := ⟨.OPT_SHARD_STAT, 31, 23⟩
/-- OPT_SHARD_STAT.STATE. -/
def Fld.OPT_SHARD_STAT_STATE : Fld := ⟨.OPT_SHARD_STAT, 7, 4⟩
/-- OPT_SHARD_STAT.MODE. -/
def Fld.OPT_SHARD_STAT_MODE : Fld := ⟨.OPT_SHARD_STAT, 2, 2⟩
/-- OPT_SHARD_STAT.COPY_VALID. -/
def Fld.OPT_SHARD_STAT_COPY_VALID : Fld := ⟨.OPT_SHARD_STAT, 1, 1⟩
/-- OPT_SHARD_STAT.SLOT. -/
def Fld.OPT_SHARD_STAT_SLOT : Fld := ⟨.OPT_SHARD_STAT, 0, 0⟩
/-- SVC_INFO.CMD_DIE. -/
def Fld.SVC_INFO_CMD_DIE : Fld := ⟨.SVC_INFO, 17, 16⟩
/-- SVC_INFO.QUEUES. -/
def Fld.SVC_INFO_QUEUES : Fld := ⟨.SVC_INFO, 7, 0⟩
/-- SVC_EVT.CTRL_RESTART_EVT. -/
def Fld.SVC_EVT_CTRL_RESTART_EVT : Fld := ⟨.SVC_EVT, 5, 5⟩
/-- SVC_EVT.QUEUE_ERR_EVT. -/
def Fld.SVC_EVT_QUEUE_ERR_EVT : Fld := ⟨.SVC_EVT, 4, 4⟩
/-- SVC_EVT.GEN_END_EVT. -/
def Fld.SVC_EVT_GEN_END_EVT : Fld := ⟨.SVC_EVT, 3, 3⟩
/-- SVC_EVT.GEN_TOKEN_EVT. -/
def Fld.SVC_EVT_GEN_TOKEN_EVT : Fld := ⟨.SVC_EVT, 2, 2⟩
/-- SVC_EVT.STEP_END_EVT. -/
def Fld.SVC_EVT_STEP_END_EVT : Fld := ⟨.SVC_EVT, 1, 1⟩
/-- SVC_EVT.STEP_REC_EVT. -/
def Fld.SVC_EVT_STEP_REC_EVT : Fld := ⟨.SVC_EVT, 0, 0⟩
/-- SVC_STEP_STAT.CONSUMED. -/
def Fld.SVC_STEP_STAT_CONSUMED : Fld := ⟨.SVC_STEP_STAT, 63, 32⟩
/-- SVC_STEP_STAT.LAST_STATUS. -/
def Fld.SVC_STEP_STAT_LAST_STATUS : Fld := ⟨.SVC_STEP_STAT, 31, 24⟩
/-- SVC_STEP_STAT.ATTEMPT. -/
def Fld.SVC_STEP_STAT_ATTEMPT : Fld := ⟨.SVC_STEP_STAT, 23, 20⟩
/-- SVC_STEP_STAT.STATE. -/
def Fld.SVC_STEP_STAT_STATE : Fld := ⟨.SVC_STEP_STAT, 2, 0⟩
/-- SVC_STEP_CUR.STEP. -/
def Fld.SVC_STEP_CUR_STEP : Fld := ⟨.SVC_STEP_CUR, 63, 0⟩
/-- SVC_GEN_STAT.BOUNDARIES. -/
def Fld.SVC_GEN_STAT_BOUNDARIES : Fld := ⟨.SVC_GEN_STAT, 63, 32⟩
/-- SVC_GEN_STAT.LAST_STATUS. -/
def Fld.SVC_GEN_STAT_LAST_STATUS : Fld := ⟨.SVC_GEN_STAT, 31, 24⟩
/-- SVC_GEN_STAT.RUNNING. -/
def Fld.SVC_GEN_STAT_RUNNING : Fld := ⟨.SVC_GEN_STAT, 22, 16⟩
/-- SVC_GEN_STAT.STATE. -/
def Fld.SVC_GEN_STAT_STATE : Fld := ⟨.SVC_GEN_STAT, 2, 0⟩
/-- SVC_GEN_TOKENS.TOKENS. -/
def Fld.SVC_GEN_TOKENS_TOKENS : Fld := ⟨.SVC_GEN_TOKENS, 63, 0⟩
/-- SVC_CTRL_STAT.RESTARTS. -/
def Fld.SVC_CTRL_STAT_RESTARTS : Fld := ⟨.SVC_CTRL_STAT, 63, 32⟩
/-- SVC_CTRL_STAT.RESTARTING. -/
def Fld.SVC_CTRL_STAT_RESTARTING : Fld := ⟨.SVC_CTRL_STAT, 0, 0⟩
/-- SVC_EVT_ROUTE.EN. -/
def Fld.SVC_EVT_ROUTE_EN : Fld := ⟨.SVC_EVT_ROUTE, 16, 16⟩
/-- SVC_EVT_ROUTE.VECTOR. -/
def Fld.SVC_EVT_ROUTE_VECTOR : Fld := ⟨.SVC_EVT_ROUTE, 10, 0⟩
/-- SVC_Q_CMD_BASE.ADDR. -/
def Fld.SVC_Q_CMD_BASE_ADDR : Fld := ⟨.SVC_Q_CMD_BASE, 63, 12⟩
/-- SVC_Q_CPL_BASE.ADDR. -/
def Fld.SVC_Q_CPL_BASE_ADDR : Fld := ⟨.SVC_Q_CPL_BASE, 63, 12⟩
/-- SVC_Q_CFG.VECTOR. -/
def Fld.SVC_Q_CFG_VECTOR : Fld := ⟨.SVC_Q_CFG, 26, 16⟩
/-- SVC_Q_CFG.SIZE. -/
def Fld.SVC_Q_CFG_SIZE : Fld := ⟨.SVC_Q_CFG, 12, 8⟩
/-- SVC_Q_CFG.CPL_HOST. -/
def Fld.SVC_Q_CFG_CPL_HOST : Fld := ⟨.SVC_Q_CFG, 2, 2⟩
/-- SVC_Q_CFG.CMD_HOST. -/
def Fld.SVC_Q_CFG_CMD_HOST : Fld := ⟨.SVC_Q_CFG, 1, 1⟩
/-- SVC_Q_CFG.ENABLE. -/
def Fld.SVC_Q_CFG_ENABLE : Fld := ⟨.SVC_Q_CFG, 0, 0⟩
/-- SVC_Q_DB.TAIL. -/
def Fld.SVC_Q_DB_TAIL : Fld := ⟨.SVC_Q_DB, 31, 0⟩
/-- SVC_Q_CPL_DB.CPL_HEAD. -/
def Fld.SVC_Q_CPL_DB_CPL_HEAD : Fld := ⟨.SVC_Q_CPL_DB, 31, 0⟩
/-- SVC_Q_STAT.HEAD. -/
def Fld.SVC_Q_STAT_HEAD : Fld := ⟨.SVC_Q_STAT, 63, 32⟩
/-- SVC_Q_STAT.CPL_TAIL. -/
def Fld.SVC_Q_STAT_CPL_TAIL : Fld := ⟨.SVC_Q_STAT, 31, 0⟩
/-- SVC_Q_STATE.ERR_STATUS. -/
def Fld.SVC_Q_STATE_ERR_STATUS : Fld := ⟨.SVC_Q_STATE, 63, 56⟩
/-- SVC_Q_STATE.STATE. -/
def Fld.SVC_Q_STATE_STATE : Fld := ⟨.SVC_Q_STATE, 2, 0⟩
/-- SEC_FN_ID.FUNCTION. -/
def Fld.SEC_FN_ID_FUNCTION : Fld := ⟨.SEC_FN_ID, 3, 0⟩
/-- SEC_FN_CTL.RESET. -/
def Fld.SEC_FN_CTL_RESET : Fld := ⟨.SEC_FN_CTL, 0, 0⟩
/-- SEC_KEY_CTL.ROTATE. -/
def Fld.SEC_KEY_CTL_ROTATE : Fld := ⟨.SEC_KEY_CTL, 0, 0⟩
/-- SEC_KEY_STAT.SWEEP_ERR. -/
def Fld.SEC_KEY_STAT_SWEEP_ERR : Fld := ⟨.SEC_KEY_STAT, 63, 32⟩
/-- SEC_KEY_STAT.LAST_STATUS. -/
def Fld.SEC_KEY_STAT_LAST_STATUS : Fld := ⟨.SEC_KEY_STAT, 31, 24⟩
/-- SEC_KEY_STAT.CURRENT. -/
def Fld.SEC_KEY_STAT_CURRENT : Fld := ⟨.SEC_KEY_STAT, 4, 4⟩
/-- SEC_KEY_STAT.SLOT1. -/
def Fld.SEC_KEY_STAT_SLOT1 : Fld := ⟨.SEC_KEY_STAT, 3, 2⟩
/-- SEC_KEY_STAT.SLOT0. -/
def Fld.SEC_KEY_STAT_SLOT0 : Fld := ⟨.SEC_KEY_STAT, 1, 0⟩
/-- SEC_KEY_PAGES.PAGES1. -/
def Fld.SEC_KEY_PAGES_PAGES1 : Fld := ⟨.SEC_KEY_PAGES, 63, 32⟩
/-- SEC_KEY_PAGES.PAGES0. -/
def Fld.SEC_KEY_PAGES_PAGES0 : Fld := ⟨.SEC_KEY_PAGES, 31, 0⟩
/-- SEC_KEY_WRITTEN.MIB. -/
def Fld.SEC_KEY_WRITTEN_MIB : Fld := ⟨.SEC_KEY_WRITTEN, 63, 0⟩
/-- SEC_DEV_STAT.DRAINING_FNS. -/
def Fld.SEC_DEV_STAT_DRAINING_FNS : Fld := ⟨.SEC_DEV_STAT, 31, 24⟩
/-- SEC_DEV_STAT.ENABLED_FNS. -/
def Fld.SEC_DEV_STAT_ENABLED_FNS : Fld := ⟨.SEC_DEV_STAT, 23, 16⟩
/-- SEC_DEV_STAT.UPDATE_STAGED. -/
def Fld.SEC_DEV_STAT_UPDATE_STAGED : Fld := ⟨.SEC_DEV_STAT, 4, 4⟩
/-- SEC_DEV_STAT.DRBG. -/
def Fld.SEC_DEV_STAT_DRBG : Fld := ⟨.SEC_DEV_STAT, 1, 0⟩
/-- SEC_SVN.MAINLAND. -/
def Fld.SEC_SVN_MAINLAND : Fld := ⟨.SEC_SVN, 31, 24⟩
/-- SEC_SVN.CAPE. -/
def Fld.SEC_SVN_CAPE : Fld := ⟨.SEC_SVN, 23, 16⟩
/-- SEC_SVN.ISLAND. -/
def Fld.SEC_SVN_ISLAND : Fld := ⟨.SEC_SVN, 15, 8⟩
/-- SEC_SVN.HARBOUR. -/
def Fld.SEC_SVN_HARBOUR : Fld := ⟨.SEC_SVN, 7, 0⟩
/-- SEC_DEV_ID.DIGEST. -/
def Fld.SEC_DEV_ID_DIGEST : Fld := ⟨.SEC_DEV_ID, 63, 0⟩
/-- SEC_DRBG.RESEEDS. -/
def Fld.SEC_DRBG_RESEEDS : Fld := ⟨.SEC_DRBG, 63, 32⟩
/-- SEC_DRBG.HEALTH_FAILS. -/
def Fld.SEC_DRBG_HEALTH_FAILS : Fld := ⟨.SEC_DRBG, 31, 0⟩
/-- SEC_GRANT_CTL.SEQ. -/
def Fld.SEC_GRANT_CTL_SEQ : Fld := ⟨.SEC_GRANT_CTL, 63, 32⟩
/-- SEC_GRANT_CTL.GRANT_ERR. -/
def Fld.SEC_GRANT_CTL_GRANT_ERR : Fld := ⟨.SEC_GRANT_CTL, 23, 20⟩
/-- SEC_GRANT_CTL.RE_ENABLE_PENDING. -/
def Fld.SEC_GRANT_CTL_RE_ENABLE_PENDING : Fld := ⟨.SEC_GRANT_CTL, 7, 7⟩
/-- SEC_GRANT_CTL.STATE. -/
def Fld.SEC_GRANT_CTL_STATE : Fld := ⟨.SEC_GRANT_CTL, 3, 2⟩
/-- SEC_GRANT_CTL.RESET. -/
def Fld.SEC_GRANT_CTL_RESET : Fld := ⟨.SEC_GRANT_CTL, 1, 1⟩
/-- SEC_GRANT_CTL.ENABLE. -/
def Fld.SEC_GRANT_CTL_ENABLE : Fld := ⟨.SEC_GRANT_CTL, 0, 0⟩
/-- SEC_GRANT_ATOLLS.ATOLLS. -/
def Fld.SEC_GRANT_ATOLLS_ATOLLS : Fld := ⟨.SEC_GRANT_ATOLLS, 23, 0⟩
/-- SEC_GRANT_RES.STACKS. -/
def Fld.SEC_GRANT_RES_STACKS : Fld := ⟨.SEC_GRANT_RES, 39, 32⟩
/-- SEC_GRANT_RES.JOB_CTX. -/
def Fld.SEC_GRANT_RES_JOB_CTX : Fld := ⟨.SEC_GRANT_RES, 31, 0⟩
/-- SEC_GRANT_PORTS.PORTS. -/
def Fld.SEC_GRANT_PORTS_PORTS : Fld := ⟨.SEC_GRANT_PORTS, 23, 0⟩
/-- SEC_GRANT_ML.RANGES. -/
def Fld.SEC_GRANT_ML_RANGES : Fld := ⟨.SEC_GRANT_ML, 63, 0⟩
/-- SEC_FN_TIME.LAST_SHUTDOWN_US. -/
def Fld.SEC_FN_TIME_LAST_SHUTDOWN_US : Fld := ⟨.SEC_FN_TIME, 31, 0⟩
/-- HBR_STAT.ACTIVE_B. -/
def Fld.HBR_STAT_ACTIVE_B : Fld := ⟨.HBR_STAT, 7, 4⟩
/-- HBR_STAT.STATE. -/
def Fld.HBR_STAT_STATE : Fld := ⟨.HBR_STAT, 0, 0⟩
/-- HBR_EVT.MCTP. -/
def Fld.HBR_EVT_MCTP : Fld := ⟨.HBR_EVT, 7, 7⟩
/-- HBR_EVT.LEAD. -/
def Fld.HBR_EVT_LEAD : Fld := ⟨.HBR_EVT, 6, 6⟩
/-- HBR_EVT.FW. -/
def Fld.HBR_EVT_FW : Fld := ⟨.HBR_EVT, 5, 5⟩
/-- HBR_EVT.JOURNAL. -/
def Fld.HBR_EVT_JOURNAL : Fld := ⟨.HBR_EVT, 4, 4⟩
/-- HBR_EVT.THERMAL. -/
def Fld.HBR_EVT_THERMAL : Fld := ⟨.HBR_EVT, 3, 3⟩
/-- HBR_EVT.CTRL_RESTART. -/
def Fld.HBR_EVT_CTRL_RESTART : Fld := ⟨.HBR_EVT, 2, 2⟩
/-- HBR_EVT.PORT. -/
def Fld.HBR_EVT_PORT : Fld := ⟨.HBR_EVT, 1, 1⟩
/-- HBR_EVT.STRAIT. -/
def Fld.HBR_EVT_STRAIT : Fld := ⟨.HBR_EVT, 0, 0⟩
/-- HBR_EVT_ROUTE.EN. -/
def Fld.HBR_EVT_ROUTE_EN : Fld := ⟨.HBR_EVT_ROUTE, 16, 16⟩
/-- HBR_EVT_ROUTE.VECTOR. -/
def Fld.HBR_EVT_ROUTE_VECTOR : Fld := ⟨.HBR_EVT_ROUTE, 10, 0⟩
/-- HBR_RESET_CTL.STACK. -/
def Fld.HBR_RESET_CTL_STACK : Fld := ⟨.HBR_RESET_CTL, 10, 8⟩
/-- HBR_RESET_CTL.STACK_GO. -/
def Fld.HBR_RESET_CTL_STACK_GO : Fld := ⟨.HBR_RESET_CTL, 1, 1⟩
/-- HBR_RESET_CTL.WARM. -/
def Fld.HBR_RESET_CTL_WARM : Fld := ⟨.HBR_RESET_CTL, 0, 0⟩
/-- HBR_RESET_STAT.WARM_COUNT. -/
def Fld.HBR_RESET_STAT_WARM_COUNT : Fld := ⟨.HBR_RESET_STAT, 63, 32⟩
/-- HBR_RESET_STAT.STACK_BUSY. -/
def Fld.HBR_RESET_STAT_STACK_BUSY : Fld := ⟨.HBR_RESET_STAT, 15, 8⟩
/-- HBR_RESET_STAT.CAUSE. -/
def Fld.HBR_RESET_STAT_CAUSE : Fld := ⟨.HBR_RESET_STAT, 2, 0⟩
/-- HBR_GOV_CFG.LEAD_HOLD_MS. -/
def Fld.HBR_GOV_CFG_LEAD_HOLD_MS : Fld := ⟨.HBR_GOV_CFG, 63, 48⟩
/-- HBR_GOV_CFG.REEF_MAX. -/
def Fld.HBR_GOV_CFG_REEF_MAX : Fld := ⟨.HBR_GOV_CFG, 31, 24⟩
/-- HBR_GOV_CFG.WAKE_PER_WIN. -/
def Fld.HBR_GOV_CFG_WAKE_PER_WIN : Fld := ⟨.HBR_GOV_CFG, 23, 16⟩
/-- HBR_GOV_CFG.SLEW_BUDGET. -/
def Fld.HBR_GOV_CFG_SLEW_BUDGET : Fld := ⟨.HBR_GOV_CFG, 15, 0⟩
/-- HBR_GOV_STAT.GRANTS. -/
def Fld.HBR_GOV_STAT_GRANTS : Fld := ⟨.HBR_GOV_STAT, 63, 32⟩
/-- HBR_GOV_STAT.QUEUED3. -/
def Fld.HBR_GOV_STAT_QUEUED3 : Fld := ⟨.HBR_GOV_STAT, 31, 24⟩
/-- HBR_GOV_STAT.QUEUED2. -/
def Fld.HBR_GOV_STAT_QUEUED2 : Fld := ⟨.HBR_GOV_STAT, 23, 16⟩
/-- HBR_GOV_STAT.QUEUED1. -/
def Fld.HBR_GOV_STAT_QUEUED1 : Fld := ⟨.HBR_GOV_STAT, 15, 8⟩
/-- HBR_GOV_STAT.QUEUED0. -/
def Fld.HBR_GOV_STAT_QUEUED0 : Fld := ⟨.HBR_GOV_STAT, 7, 0⟩
/-- HBR_GOV_POINT.THROTTLE_C. -/
def Fld.HBR_GOV_POINT_THROTTLE_C : Fld := ⟨.HBR_GOV_POINT, 23, 16⟩
/-- HBR_GOV_POINT.CAP. -/
def Fld.HBR_GOV_POINT_CAP : Fld := ⟨.HBR_GOV_POINT, 11, 8⟩
/-- HBR_GOV_POINT.POINT_MAX. -/
def Fld.HBR_GOV_POINT_POINT_MAX : Fld := ⟨.HBR_GOV_POINT, 3, 0⟩
/-- HBR_LEAD.REFUSALS. -/
def Fld.HBR_LEAD_REFUSALS : Fld := ⟨.HBR_LEAD, 63, 48⟩
/-- HBR_LEAD.REVOKES. -/
def Fld.HBR_LEAD_REVOKES : Fld := ⟨.HBR_LEAD, 47, 32⟩
/-- HBR_LEAD.WEST_LEADER. -/
def Fld.HBR_LEAD_WEST_LEADER : Fld := ⟨.HBR_LEAD, 27, 26⟩
/-- HBR_LEAD.WEST_NONE. -/
def Fld.HBR_LEAD_WEST_NONE : Fld := ⟨.HBR_LEAD, 25, 25⟩
/-- HBR_LEAD.EAST_NONE. -/
def Fld.HBR_LEAD_EAST_NONE : Fld := ⟨.HBR_LEAD, 24, 24⟩
/-- HBR_LEAD.EAST_LEADER. -/
def Fld.HBR_LEAD_EAST_LEADER : Fld := ⟨.HBR_LEAD, 23, 22⟩
/-- HBR_LEAD.HOLDER. -/
def Fld.HBR_LEAD_HOLDER : Fld := ⟨.HBR_LEAD, 17, 16⟩
/-- HBR_LEAD.EPOCH. -/
def Fld.HBR_LEAD_EPOCH : Fld := ⟨.HBR_LEAD, 15, 0⟩
/-- HBR_SNAP_CTL.SNAP_SEQ. -/
def Fld.HBR_SNAP_CTL_SNAP_SEQ : Fld := ⟨.HBR_SNAP_CTL, 63, 32⟩
/-- HBR_SNAP_CTL.VALID. -/
def Fld.HBR_SNAP_CTL_VALID : Fld := ⟨.HBR_SNAP_CTL, 17, 0⟩
/-- HBR_SNAP_ISSUE.HBR_COUNT. -/
def Fld.HBR_SNAP_ISSUE_HBR_COUNT : Fld := ⟨.HBR_SNAP_ISSUE, 63, 1⟩
/-- HBR_SNAP_ISSUE.GO. -/
def Fld.HBR_SNAP_ISSUE_GO : Fld := ⟨.HBR_SNAP_ISSUE, 0, 0⟩
/-- HBR_SNAP_CNT.COUNT. -/
def Fld.HBR_SNAP_CNT_COUNT : Fld := ⟨.HBR_SNAP_CNT, 63, 0⟩
/-- HBR_JNL_CTL.COMPACT. -/
def Fld.HBR_JNL_CTL_COMPACT : Fld := ⟨.HBR_JNL_CTL, 0, 0⟩
/-- HBR_JNL_STAT.DROPPED. -/
def Fld.HBR_JNL_STAT_DROPPED : Fld := ⟨.HBR_JNL_STAT, 63, 40⟩
/-- HBR_JNL_STAT.RETIRED. -/
def Fld.HBR_JNL_STAT_RETIRED : Fld := ⟨.HBR_JNL_STAT, 39, 32⟩
/-- HBR_JNL_STAT.FREE. -/
def Fld.HBR_JNL_STAT_FREE : Fld := ⟨.HBR_JNL_STAT, 31, 23⟩
/-- HBR_JNL_STAT.SINCE_BASE_KIB. -/
def Fld.HBR_JNL_STAT_SINCE_BASE_KIB : Fld := ⟨.HBR_JNL_STAT, 22, 8⟩
/-- HBR_JNL_STAT.TORN. -/
def Fld.HBR_JNL_STAT_TORN : Fld := ⟨.HBR_JNL_STAT, 1, 1⟩
/-- HBR_JNL_STAT.COMPACTING. -/
def Fld.HBR_JNL_STAT_COMPACTING : Fld := ⟨.HBR_JNL_STAT, 0, 0⟩
/-- HBR_JNL_SEQ.NEXT_SEQ. -/
def Fld.HBR_JNL_SEQ_NEXT_SEQ : Fld := ⟨.HBR_JNL_SEQ, 63, 0⟩
/-- HBR_FW_CTL.CANCEL. -/
def Fld.HBR_FW_CTL_CANCEL : Fld := ⟨.HBR_FW_CTL, 1, 1⟩
/-- HBR_FW_CTL.STAGE. -/
def Fld.HBR_FW_CTL_STAGE : Fld := ⟨.HBR_FW_CTL, 0, 0⟩
/-- HBR_FW_SRC.ADDR. -/
def Fld.HBR_FW_SRC_ADDR : Fld := ⟨.HBR_FW_SRC, 63, 12⟩
/-- HBR_FW_STAT.LAST_STATUS. -/
def Fld.HBR_FW_STAT_LAST_STATUS : Fld := ⟨.HBR_FW_STAT, 23, 16⟩
/-- HBR_FW_STAT.REJ_BUSY. -/
def Fld.HBR_FW_STAT_REJ_BUSY : Fld := ⟨.HBR_FW_STAT, 9, 9⟩
/-- HBR_FW_STAT.BUSY. -/
def Fld.HBR_FW_STAT_BUSY : Fld := ⟨.HBR_FW_STAT, 8, 8⟩
/-- HBR_FW_STAT.LAST_TRIAL. -/
def Fld.HBR_FW_STAT_LAST_TRIAL : Fld := ⟨.HBR_FW_STAT, 7, 4⟩
/-- HBR_FW_STAT.STAGED. -/
def Fld.HBR_FW_STAT_STAGED : Fld := ⟨.HBR_FW_STAT, 3, 0⟩
/-- HBR_TEMP.MAX_C. -/
def Fld.HBR_TEMP_MAX_C : Fld := ⟨.HBR_TEMP, 15, 8⟩
/-- HBR_TEMP.TEMP_C. -/
def Fld.HBR_TEMP_TEMP_C : Fld := ⟨.HBR_TEMP, 7, 0⟩
/-- HBR_MCTP_CTL.OUT_LEN. -/
def Fld.HBR_MCTP_CTL_OUT_LEN : Fld := ⟨.HBR_MCTP_CTL, 39, 32⟩
/-- HBR_MCTP_CTL.OUT_ACK. -/
def Fld.HBR_MCTP_CTL_OUT_ACK : Fld := ⟨.HBR_MCTP_CTL, 25, 25⟩
/-- HBR_MCTP_CTL.OUT_VALID. -/
def Fld.HBR_MCTP_CTL_OUT_VALID : Fld := ⟨.HBR_MCTP_CTL, 24, 24⟩
/-- HBR_MCTP_CTL.IN_LEN. -/
def Fld.HBR_MCTP_CTL_IN_LEN : Fld := ⟨.HBR_MCTP_CTL, 23, 16⟩
/-- HBR_MCTP_CTL.IN_FREE. -/
def Fld.HBR_MCTP_CTL_IN_FREE : Fld := ⟨.HBR_MCTP_CTL, 1, 1⟩
/-- HBR_MCTP_CTL.IN_GO. -/
def Fld.HBR_MCTP_CTL_IN_GO : Fld := ⟨.HBR_MCTP_CTL, 0, 0⟩
/-- HBR_MCTP_IN.BYTES. -/
def Fld.HBR_MCTP_IN_BYTES : Fld := ⟨.HBR_MCTP_IN, 63, 0⟩
/-- HBR_MCTP_OUT.BYTES. -/
def Fld.HBR_MCTP_OUT_BYTES : Fld := ⟨.HBR_MCTP_OUT, 63, 0⟩

end Sys2Proof.Machine
end

