-- ==== Sys2Proof/Machine/Store.lean ====
section
/-! DEFINITION. Sparse stores: lists of key and value with strictly rising keys and no entry equal to what an
unlisted key reads as. Memories, register files and tables of units are stores. -/

namespace Sys2Proof.Machine

/-- A sparse table from numbers to values. -/
abbrev Store (α : Type) := List (Nat × α)

/-- The value at a key; `d` where the key is not listed. -/
def storeGet {α : Type} (d : α) : Store α → Nat → α
  | [], _ => d
  | (j, v) :: rest, k => if j = k then v else storeGet d rest k

/-- The store without a key. -/
def storeErase {α : Type} (st : Store α) (k : Nat) : Store α := st.filter (fun e => e.1 ≠ k)

/-- The store with an entry put before the first larger key. -/
def storeInsert {α : Type} (k : Nat) (v : α) : Store α → Store α
  | [] => [(k, v)]
  | (j, w) :: rest => if k < j then (k, v) :: (j, w) :: rest else (j, w) :: storeInsert k v rest

/-- Write a value at a key; writing the unlisted value removes the entry. -/
def storeSet {α : Type} [DecidableEq α] (d : α) (st : Store α) (k : Nat) (v : α) : Store α :=
  if v = d then storeErase st k else storeInsert k v (storeErase st k)

/-- Strictly rising keys, all above a bound. -/
def storeRising {α : Type} : Nat → Store α → Bool
  | _, [] => true
  | lo, (k, _) :: rest => decide (lo ≤ k) && storeRising (k + 1) rest

/-- The canonical form: keys strictly rising, no entry equal to what an unlisted key reads as. -/
def storeWf {α : Type} [DecidableEq α] (d : Nat → α) (st : Store α) : Bool :=
  storeRising 0 st && st.all (fun e => e.2 ≠ d e.1)

/-- The store without the keys from `lo` up to `lo + n`. -/
def storeEraseRange {α : Type} (st : Store α) (lo n : Nat) : Store α :=
  st.filter (fun e => e.1 < lo || lo + n ≤ e.1)

/-- The entries with keys from `lo` up to `lo + n`. -/
def storeSlice {α : Type} (st : Store α) (lo n : Nat) : Store α :=
  st.filter (fun e => lo ≤ e.1 && e.1 < lo + n)

/-- Byte memory: an unlisted byte reads 0 (R57, R235; board memory: log entry 6). -/
abbrev Memory := Store Byte

/-- The canonical form of a byte memory: addresses strictly rising, no byte that an unlisted address reads as. -/
def Memory.wf (m : Memory) : Bool := storeWf (fun _ => 0) m

/-- The byte at an address. -/
def memByte (m : Memory) (a : Nat) : Byte := storeGet 0 m a

/-- Write one byte. -/
def memPut (m : Memory) (a : Nat) (b : Byte) : Memory := storeSet 0 m a b

/-- The `n` bytes from an address on. -/
def memRead (m : Memory) (a : Nat) : Nat → List Byte
  | 0 => []
  | n + 1 => memByte m a :: memRead m (a + 1) n

/-- Write bytes from an address on. -/
def memWrite (m : Memory) (a : Nat) : List Byte → Memory
  | [] => m
  | b :: bs => memWrite (memPut m a b) (a + 1) bs

/-- The little-endian value of the `n` bytes at an address. -/
def memNat (m : Memory) (a n : Nat) : Nat := leNat (memRead m a n)

/-- Fill a range with zero bytes. -/
def memClear (m : Memory) (a n : Nat) : Memory := storeEraseRange m a n

/-- Copy `n` bytes from `src` of one memory to `dst` of another. -/
def memCopy (source : Memory) (src : Nat) (target : Memory) (dst n : Nat) : Memory :=
  (storeSlice source src n).foldl (fun m e => memPut m (e.1 - src + dst) e.2) (memClear target dst n)

end Sys2Proof.Machine
end

