-- ==== Sys2Proof/Machine/State.lean ====
section
/-! DEFINITION. The state of a Vofel package as plain data, and its reset value. Every register of the control
window is in `regs`; the records here hold what the spec gives the device beside its registers. -/

namespace Sys2Proof.Machine

/-- Why the model stops. -/
inductive Fault where
  /-- A use the spec calls unpredictable within the partition of function `fn` (R13, R49, R102, R108 and the
  chapters' own sentences), for which it gives no effect. Safe: the model stops. -/
  | unpredictable (fn : Nat)
  /-- REFCLK left its range while PWR_GOOD_N was low: unpredictable for the whole device (R474). Safe. -/
  | refclkLost
  deriving DecidableEq, Repr

/-- Why the model has no meaning for a command. -/
inductive Refusal where
  /-- Raised by a dispatch arm whose command has no meaning yet. Safe: the model stops. -/
  | notModelled (mnemonic : String)
  deriving DecidableEq, Repr

/-- What silicon, fuses and package assembly fix (log entry 4): the part (R1), the stepping, the spare wires in
use per strait (R39), the fused causeway links per stack (R256), the unique device secret (R420). -/
structure Package where
  part : Part := .tva1024
  stepping : Nat := 1
  spareUsed : Store Nat := []
  fusedLinks : Store Nat := []
  /-- The unique device secret in fuses, 256 bits (R420). -/
  secret : List Byte := List.replicate 32 0
  /-- The ROOT_DIGEST fuses are blank: no image is accepted (R416). -/
  rootBlank : Bool := false
  /-- The digest of the boot ROM (R423). -/
  bootRom : List Byte := List.replicate 64 0
  deriving DecidableEq, Repr

/-- A channel unit: its 32 bytes, and the send end it came from. -/
structure ChanUnit where
  data : List Byte := []
  src : Nat := 0
  chan : Nat := 0
  deriving DecidableEq, Repr

/-- A channel unit on its way over the straits (R95, R99): the function it belongs to, the islet it goes to, its link identifier
at that islet's strait port. -/
structure Cargo where
  fn : Nat := 0
  islet : Nat := 0
  id : Nat := 0
  unit : ChanUnit := {}
  deriving DecidableEq, Repr

/-- A flit on its way from a port of one cape to a port of another (R308). -/
structure Transit where
  src : Nat := 0
  dst : Nat := 0
  flit : Flit := {}
  deriving DecidableEq, Repr

/-- A strait unit: the island it goes to, the channel unit or the flit that it completes. What other units carry takes effect with
the command that offers them. Log entry 62. -/
structure StraitUnit where
  dst : Nat := 0
  cargo : Option Cargo := none
  transit : Option Transit := none
  deriving DecidableEq, Repr

/-- One class of one direction of a strait (R28): the writer's queue of 16 units, a unit with the number of alike ones behind it;
units that wait at their source for room in it (R30), alike; units in flight in order; the reader's queue of 16; a retry in
progress (R34), whose units stand at the head of `ready`; the writer cycles waited (R29). -/
structure Lane where
  ready : List (StraitUnit × Nat) := []
  backlog : List (StraitUnit × Nat) := []
  flight : List StraitUnit := []
  reader : List StraitUnit := []
  retry : Bool := false
  waited : Nat := 0
  deriving DecidableEq, Repr

/-- A journal record (R456), without its padding and check. -/
structure JournalRecord where
  seq : Nat := 0
  type : Nat := 0
  payload : List Byte := []
  deriving DecidableEq, Repr

/-- A frame of 64 KiB: one row at the same address in each pseudo-channel of a stack; 64 rows of one
pseudo-channel; or a frame of board memory behind a mainland port (R218, R229). -/
inductive Frame where
  | spread (stack row : Nat)
  | channel (stack pc : Nat) (rows : List Nat)
  | board (port frame : Nat)
  deriving DecidableEq, Repr

/-- A page entry (R232): its frame (HBM or MAINLAND by the frame's kind), the key slot of a mainland page, and
whether it is MOVING. -/
structure Page where
  frame : Frame := .spread 0 0
  slot : Nat := 0
  moving : Bool := false
  deriving DecidableEq, Repr

/-- A segment (R231, R232): base address, pages, layout (channel-local), stack set, pseudo-channels, FROZEN. -/
structure Segment where
  base : Nat := 0
  pages : List Page := []
  channelLocal : Bool := false
  stackSet : Nat := 0
  pcFirst : Nat := 0
  pcCount : Nat := 0
  frozen : Bool := false
  promoted : Nat := 0
  lastStack : Option Nat := none
  deriving DecidableEq, Repr

/-- A command of a queue: function, queue, ring index. -/
structure CmdRef where
  fn : Nat := 0
  q : Nat := 0
  index : Nat := 0
  deriving DecidableEq, Repr

/-- A descriptor fetched into a queue (R377, R382): ring index, its 64 bytes, whether it has started (R378). -/
structure Command where
  index : Nat := 0
  bytes : List Byte := []
  started : Bool := false
  deriving DecidableEq, Repr

/-- A completion waiting for its record to be written (R379, R382). -/
structure Completion where
  index : Nat := 0
  opcode : Nat := 0
  tag : Nat := 0
  irq : Bool := false
  status : Status := .ok
  detail : Nat := 0
  result : List Byte := []
  deriving DecidableEq, Repr

/-- A queue beside its registers: commands fetched and not completed, in ring order; completions waiting, in the
order in which commands completed; descriptors whose fetch is in progress. -/
structure Queue where
  cmds : List Command := []
  cpls : List Completion := []
  fetching : Nat := 0
  deriving DecidableEq, Repr

/-- Where a migration request comes from: MEM_MIG_CTL.GO, a MIGRATE command, a checkpoint of the step service (its
COPY, or the UNMAP before it). -/
inductive MigSource where
  | window
  | command (ref : CmdRef)
  | checkpoint (copy : Bool)
  deriving DecidableEq, Repr

/-- A migration request (R236), its four words, and where it comes from. -/
structure MigReq where
  w0 : Nat := 0
  w1 : Nat := 0
  w2 : Nat := 0
  w3 : Nat := 0
  source : MigSource := .window
  deriving DecidableEq, Repr

/-- A running migration request: the next page, pages done and skipped, pages it has started to promote and the stack of the
last (R239), the key slot CURRENT when it started (R412), whether it has made its segment, the status it ends with once that is
settled, the page digests of a manifest and, once it is journaled, the manifest's SEQ (R245). -/
structure MigRun where
  req : MigReq := {}
  next : Nat := 0
  done : Nat := 0
  skipped : Nat := 0
  moved : Nat := 0
  lastStack : Option Nat := none
  made : Bool := false
  slot : Nat := 0
  status : Option Status := none
  digests : List Byte := []
  manifest : Option Nat := none
  deriving DecidableEq, Repr

/-- The migration engine's side of a function: requests waiting, the one running, a cancel accepted (R244), the
port its last mainland allocation used (R239). -/
structure Mig where
  queue : List MigReq := []
  run : Option MigRun := none
  cancel : Bool := false
  lastPort : Option Nat := none
  deriving DecidableEq, Repr

/-- What a page in progress on a mainland port undergoes. -/
inductive MoveKind where
  | demote | promote | sweep
  deriving DecidableEq, Repr

/-- A page in progress (R240, R241, R414): whose, at which address, the frame taken for it, whether a request
moves it, whether a write was tracked. -/
structure PageMove where
  fn : Nat := 0
  addr : Nat := 0
  kind : MoveKind := .demote
  target : Frame := .spread 0 0
  byRequest : Bool := false
  tracked : Bool := false
  deriving DecidableEq, Repr

/-- A mainland port: the page in progress, promotions started by writes and queued behind it, the function served
last, whether it has lost training and retrains (R230). -/
structure MlPort where
  current : Option PageMove := none
  promos : List PageMove := []
  lastFn : Nat := 0
  lost : Bool := false
  deriving DecidableEq, Repr

/-- Where the answer to a link access goes (R309, R312): chain address and function of the source, tag, read. -/
structure LinkReply where
  dst : Nat := 0
  dfn : Nat := 0
  sfn : Nat := 0
  tag : Nat := 0
  deriving DecidableEq, Repr

/-- A memory access within one page, or a write of the issue windows: function, source, the island of the engine that makes it
where that is not the command die, device address, bytes, the data of a write, the answer owed on a link. For a write of the issue
windows, the bytes already taken and whether one of them failed (R257, R258). For a reef completion record, the packet to send
once it is accepted, as stack, islet and flag (R262). -/
structure Access where
  fn : Nat := 0
  src : Source := .islet
  die : Option Nat := none
  addr : Nat := 0
  len : Nat := 0
  wr : Option (List Byte) := none
  reply : Option LinkReply := none
  taken : Nat := 0
  failed : Bool := false
  notify : Option (Nat × Nat × Nat) := none
  deriving DecidableEq, Repr

/-- An access served, and what it was answered. Log entry 57. -/
structure Served where
  access : Access := {}
  answer : Answer := {}
  deriving DecidableEq, Repr

/-- A reef operation's leases, as far as memory accesses meet them (R265): rows read and rows written, by row key;
whether a write into them has made its results unpredictable (R268). -/
structure Lease where
  op : Nat := 0
  readRows : List Nat := []
  resultRows : List Nat := []
  spoiled : Bool := false
  deriving DecidableEq, Repr

/-- A reef operation admitted (R259, R261): its number, the function and request, its descriptor, whether it has started,
the stack island's count then. -/
structure ReefOp where
  id : Nat := 0
  fn : Nat := 0
  req : List Byte := []
  desc : List Byte := []
  started : Bool := false
  opened : Nat := 0
  deriving DecidableEq, Repr

/-- The reef units of a stack beside their registers: the descriptor table (R274), requests waiting as function and 32
bytes (R258); operations admitted; the number of the next; completions since
function reset (SEQ, R262). -/
structure ReefStack where
  descs : Store (List Byte) := []
  queue : List (Nat × List Byte) := []
  ops : List ReefOp := []
  nextOp : Nat := 0
  seq : Nat := 0
  deriving DecidableEq, Repr

/-- What an islet runs for: a launch, a phase of a stage slot of a function, a shard update. -/
inductive Task where
  | launch (lid : Nat)
  | phase (fn slot : Nat)
  | update (fn shard : Nat)
  deriving DecidableEq, Repr

/-- A plan running on a copy engine (R90-R93): plan index, the flag of its COPY, the next word to ask for, the words
outstanding, whether a memory status or a forced grant has been met. -/
structure CopyRun where
  plan : Nat := 0
  flag : Nat := 0
  next : Nat := 0
  out : List Nat := []
  status : Status := .ok
  deriving DecidableEq, Repr

/-- A copy engine: plans issued and waiting, as plan and flag; the plan running. -/
structure CopyEngine where
  queue : List (Nat × Nat) := []
  run : Option CopyRun := none
  deriving DecidableEq, Repr

/-- Who writes through port B: a copy engine or a channel's receive end. -/
inductive PortBWriter where
  | engine (e : Nat)
  | channel (c : Nat)
  deriving DecidableEq, Repr

/-- A port B write that has lost COLLISION_LIMIT cycles and waits for its forced grant (R85). -/
structure PortBWrite where
  off : Nat := 0
  data : List Byte := []
  writer : PortBWriter := .engine 0
  deriving DecidableEq, Repr

/-- A send end (R97, R99): its port, far islet across straits, credits, units sent and not yet at the port. -/
structure SendEnd where
  port : Nat := 0
  peer : Nat := 0
  credits : Nat := 0
  queue : List ChanUnit := []
  deriving DecidableEq, Repr

/-- A receive end: its port, far islet across straits, its ring, the word written next, the origins of the words in
the ring in order, units arrived and not yet written. -/
structure RecvEnd where
  port : Nat := 0
  peer : Nat := 0
  ringOff : Nat := 0
  ringBytes : Nat := 0
  wr : Nat := 0
  words : List (Nat × Nat) := []
  arrived : List ChanUnit := []
  deriving DecidableEq, Repr

/-- A route segment (R99), with the far islet of one that leaves over a strait. -/
structure RouteSeg where
  peer : Nat := 0
  inPort : Nat := 0
  inId : Nat := 0
  outPort : Nat := 0
  outId : Nat := 0
  deriving DecidableEq, Repr

/-- A stationary set (R107, R122): its state (0 EMPTY, 1 LOADING, 2 VALID), format, slice, and its elements as
codes of that format, keyed by `k * W + n`, with block scales keyed by `k / 32 * W + n`. -/
structure StatSet where
  state : Nat := 0
  fmt : Nat := 0
  slice : Nat := 0
  elems : Store Nat := []
  scales : Store Nat := []
  deriving DecidableEq, Repr

/-- A matrix operation queued or running: descriptor index, event flag, issue number since the launch (R117), the
stationary set a TILE started with, the island's count when it was dispatched. -/
structure MxOp where
  desc : Nat := 0
  flag : Nat := 0
  n : Nat := 0
  set : StatSet := {}
  since : Nat := 0
  deriving DecidableEq, Repr

/-- The matrix array of an islet beside its registers (R106-R138): target 0-3 is a quadrant, or 0 the whole array.
Log entry 5. -/
structure Matrix where
  gang : List Byte := []
  /-- Gang records of the image break R146 at this islet: two gangs share an islet of its gang, or a record is malformed. -/
  gangBad : Bool := false
  descs : Store (List Byte) := []
  acc : Store Nat := []
  active : Store StatSet := []
  shadow : Store StatSet := []
  cache : Store Nat := []
  cacheRows : Nat := 0
  cacheSlices : Nat := 0
  cacheFilled : Bool := false
  queue : List MxOp := []
  issued : Nat := 0
  /-- The head operation has been issued by every member of the gang (R117). -/
  assembled : Bool := false
  /-- The head TILE has swapped (R123). -/
  swapped : Bool := false
  loads : Store MxOp := []
  tiles : Store (List MxOp) := []
  combine : Option MxOp := none
  /-- A wake-up asked of the governor and not yet granted, with the island's count when it was asked (R132, R432). -/
  waking : Option Nat := none
  /-- The island's count since which an operation has been in flight (MX_BUSY). -/
  busyFrom : Option Nat := none
  deriving DecidableEq, Repr

/-- The vector engine of an islet beside its registers (R148-R188): registers V0-V31 of 256 bytes each, lagoon
buffers of 64 KiB each, the program table, chains queued and the chain running, as program and event flag. Log entry 5. -/
structure VectorEngine where
  vregs : Memory := []
  lagoon : Memory := []
  progs : Store (List Byte) := []
  queue : List (Nat × Nat) := []
  run : Option (Nat × Nat) := none
  /-- The island's count when the running chain started, and that since which the head waits for a COMBINE. -/
  started : Nat := 0
  waitFrom : Option Nat := none
  /-- COLS_r of the running chain's rows, read when it started (R172). -/
  lens : List Nat := []
  /-- What matrix operations that completed since the running chain started have replaced in the scratchpad: offset and old
  bytes, oldest first (R183). -/
  past : List (Nat × List Byte) := []
  deriving DecidableEq, Repr

/-- An islet beside its registers. Log entry 5. -/
structure Islet where
  /-- Scratchpad (R81). -/
  sp : Memory := []
  /-- Program memory, entry vector, initial flags (R101, R104). -/
  prog : Store Word := []
  entryVec : Store Nat := []
  initFlags : Nat := 0
  /-- Plan table: COPY records by PLAN_INDEX (R94). -/
  plans : Store (List Byte) := []
  /-- Loop counters (R101). -/
  counters : Store Nat := []
  /-- Copy engines (R89). -/
  eng0 : CopyEngine := {}
  eng1 : CopyEngine := {}
  /-- Port B writes waiting for a forced grant (R85). -/
  portB : List PortBWrite := []
  /-- Words the SEND at the program counter has already sent (R97). -/
  sendDone : Nat := 0
  /-- What the islet runs for. -/
  task : Option Task := none
  /-- Channel ends and route segments (R97, R99), by CHAN_ID. -/
  sends : Store SendEnd := []
  recvs : Store RecvEnd := []
  segs : List RouteSeg := []
  /-- Channel buffers of the router's output ports, keyed by `32 * port + id` (R96). -/
  bufs : Store (List ChanUnit) := []
  /-- Port turns: the identifier served last, by port (R96). -/
  turns : Store Nat := []
  /-- Credits that have reached the islet by release packets and not yet its send ends, by CHAN_ID (R97, R100). -/
  creditsIn : Store Nat := []
  /-- An atoll section of the image has a record for no islet of the atoll, or of a reserved kind (R13, R49). -/
  malformed : Bool := false
  /-- The matrix array and the vector engine. -/
  mx : Matrix := {}
  vx : VectorEngine := {}
  deriving DecidableEq, Repr

/-- A control packet (R100): flag set, halt notice, release of a channel's words; of a stage's phase, the start of an islet
on another die and the report that an islet's copy engines have gone idle (R192, R196). -/
inductive PacketKind where
  | flagSet (flag : Nat)
  | halt (task : Task)
  | release (chan words : Nat)
  | phaseStart (fn slot kind batch : Nat)
  | copyIdle (fn slot : Nat)
  deriving DecidableEq, Repr

/-- A control packet in flight; a destination of 384 + d is the controllers of isle die d. -/
structure Packet where
  src : Nat := 0
  dst : Nat := 0
  kind : PacketKind := .flagSet 0
  deriving DecidableEq, Repr

/-- Whom a launch serves: a LAUNCH command, or a launch of the generation service (prefill or decode 0, sampling 1). -/
inductive LaunchFor where
  | command (ref : CmdRef)
  | generation (sampling : Bool)
  deriving DecidableEq, Repr

/-- A launch (R73, R74): its function, entry record, whom it serves, whether its parameters have been read, the count
at which its first start was issued, islets whose start is in flight, islets whose halt has been noticed, the status
COLLISION of one of its plans (R93). -/
structure Launch where
  fn : Nat := 0
  entry : List Byte := []
  client : LaunchFor := .generation false
  /-- Parameters given with the launch: inline bytes, or the token word of a generation launch; the source of the rest
  (0 device, 1 host, 2 none) and its address (R383, R393). -/
  given : List Byte := []
  source : Nat := 0
  addr : Nat := 0
  started : Bool := false
  opened : Nat := 0
  starting : List Nat := []
  halted : List Nat := []
  collided : Bool := false
  deriving DecidableEq, Repr

/-- A load (R51-R69) in progress or last ended, beside IMG_LOAD_STAT: what was latched, the queue command it serves,
the header page, the staged copy, its digest, the count of island 16 at its start. -/
structure Load where
  src : Nat := 0
  host : Bool := false
  sel : Nat := 0
  force : Bool := false
  atoll : Bool := false
  cmd : Option CmdRef := none
  header : List Byte := []
  staged : List Byte := []
  digest : List Byte := []
  opened : Nat := 0
  /-- The gate action that carries the load's epoch (R63), once asked for. -/
  gate : Option Nat := none
  deriving DecidableEq, Repr

/-- A live frame of a shoal ring (R204): its start, its TOP, its micro-batch. -/
structure ShoalFrame where
  start : Nat := 0
  top : Nat := 0
  mb : Nat := 0
  deriving DecidableEq, Repr

/-- A stage (R190-R209): the phases still to run, as kind (0 forward, 1 backward, 2 recompute) and micro-batch; the
phase running, the home island's count when it started; the count when the last one ended; islets whose halt notice
has been accepted; whether a feed record is being copied, or is in place, for the next forward phase; the shoal's
pointers (R204) with the frame being pushed; cycles not yet counted in thousands. -/
structure Stage where
  todo : List (Nat × Nat) := []
  running : Option (Nat × Nat) := none
  opened : Nat := 0
  ended : Nat := 0
  halted : List Nat := []
  feeding : Bool := false
  fed : Bool := false
  frames : List ShoalFrame := []
  tail : Nat := 0
  retire : Nat := 0
  start : Nat := 0
  limit : Nat := 0
  top : Nat := 0
  replayTop : Nat := 0
  busyCycles : Nat := 0
  waitCycles : Nat := 0
  /-- The home island's count at which the running phase last took a halt notice or a copy-idle report (R196). -/
  heard : Nat := 0
  deriving DecidableEq, Repr

/-- A step record that waits to be written (R390): its fields, the checkpoint requests of it that have not ended (none
taken: `ckptStatus` 0xFF), whether its step number is consumed. -/
structure StepRec where
  step : Nat := 0
  attempt : Nat := 0
  outcome : Nat := 0
  status : Status := .ok
  scale : Nat := 0
  norm : Nat := 0
  update : Nat := 0
  nfIndex : Nat := 0
  nfAddr : Nat := 0
  kcyc : Nat := 0
  ckpts : Nat := 0
  ckptStatus : Nat := 0xFF
  deriving DecidableEq, Repr

/-- Where the step service of a function stands (R387, R388). -/
inductive StepPoint where
  /-- Recovery runs before the first step. -/
  | recovering
  /-- Between attempts. -/
  | between
  /-- The schedule, the reductions and the vote of an attempt. -/
  | running
  /-- COMMIT has been applied; the optimiser takes the step on. -/
  | committed
  /-- The service ends with a status once its records are written. -/
  | ending (st : Status)
  deriving DecidableEq, Repr

/-- The step service of a function (R386-R390): its command, entry, operands and control block; the current step and
attempt; step numbers consumed, attempts repeated, records written, checkpoints taken; the count of the lowest stage's
home island at the attempt's first phase start; records waiting; SERVICE_CTL commands whose action has not taken effect
(0 pause, 2 stop); whether it is paused, or held by a load (R54); outcome and step of the last record. -/
structure StepSvc where
  ref : CmdRef := {}
  entry : List Byte := []
  n : Nat := 0
  steps : Nat := 0
  step0 : Nat := 0
  flags : Nat := 0
  cb : List Byte := []
  point : StepPoint := .between
  t : Nat := 0
  attempt : Nat := 0
  consumed : Nat := 0
  repeats : Nat := 0
  seq : Nat := 0
  ckptNo : Nat := 0
  opened : Option Nat := none
  recs : List StepRec := []
  ctl : List (CmdRef × Nat) := []
  paused : Bool := false
  held : Bool := false
  lastOutcome : Nat := 6
  lastStep : Nat := 0
  /-- The service has asked the host for feed records (R310, R387). -/
  asked : Bool := false
  deriving DecidableEq, Repr

/-- Where the generation service of a function stands (R392). -/
inductive GenPoint where
  /-- A boundary begins with a read of the slot table. -/
  | boundary
  /-- Prefill and decode launches run. -/
  | entries
  /-- The sampling launch runs. -/
  | sampling
  deriving DecidableEq, Repr

/-- The generation service of a function (R391-R394): its command and operands, the boundary, tokens written, new and
continuing slots, the slot table as last read, launches not yet ended, the bad status of one, SERVICE_CTL commands whose
action has not taken effect, whether it is paused, held, and has asked the host for its slot table. -/
structure GenSvc where
  ref : CmdRef := {}
  ops : List Byte := []
  point : GenPoint := .boundary
  boundary : Nat := 0
  tokens : Nat := 0
  newSlots : Nat := 0
  contSlots : Nat := 0
  slots : List (List Byte) := []
  waiting : List Nat := []
  bad : Option Status := none
  ctl : List (CmdRef × Nat) := []
  paused : Bool := false
  held : Bool := false
  asked : Bool := false
  deriving DecidableEq, Repr

/-- One segment of a bucket at this member (R326, R332): the next flit of a contribution expected and of a final sum;
in a tree, the next flit staged from the left child, the values staged that no right child has met, and whether its contribution
has ended; the lowest element index of each of
the four events; the chain address that an operand's event names; the trailer that has arrived (a tree node may have one
from each child); the segment's final trailer; its sum of squares. -/
structure SegState where
  next : Nat := 0
  nextFinal : Nat := 0
  staged : Nat := 0
  stagedVals : Store (List Nat) := []
  leftEnd : Option (List Byte) := none
  rightEnd : Option (List Byte) := none
  inBad : Option (Nat × Nat) := none
  readBad : Option Nat := none
  ownBad : Option Nat := none
  sumBad : Option Nat := none
  trailer : Option (List Byte) := none
  sumsq : Nat := 0
  deriving DecidableEq, Repr

/-- A bucket in a step attempt (R324, R325, R334, R336): full, started, complete, LATE, the count at which its window
opened and at which its last needed flit so far was there, its segments, its status and result-record bytes. -/
structure Bucket where
  full : Bool := false
  started : Bool := false
  complete : Bool := false
  late : Bool := false
  opened : Nat := 0
  lastIn : Nat := 0
  segs : Store SegState := []
  status : Status := .ok
  result : List Byte := []
  deriving DecidableEq, Repr

/-- A reduction job beside its registers (R322-R343): its owner, its records, its buckets in the attempt; ports that
carried a flit of the attempt; the VOTE held until the member resolves; whether it has voted; the count at which its
vote window opened; whether a result has been applied for the attempt, or the step has ended. -/
structure Job where
  fn : Nat := 0
  recd : List Byte := []
  ranks : List (Nat × Nat) := []
  peers : List (Nat × Nat) := []
  buckets : Store (List Byte) := []
  run : Store Bucket := []
  ports : List Nat := []
  vote : Option Nat := none
  voted : Bool := false
  voteOpened : Nat := 0
  applied : Bool := false
  /-- The action applied (R340: 0 COMMIT, 1 REPEAT, 2 SKIP, 3 STOP) and the loss scale of the attempt it ended. -/
  action : Nat := 0
  scale : Nat := 0
  /-- A port that the attempt uses has gone DOWN (R337). -/
  lost : Bool := false
  /-- RED_JOB_NF shows an event of this attempt (R390). -/
  noted : Bool := false
  deriving DecidableEq, Repr

/-- A decision and the ticket's scalars (R354, R355): ACTION, UPDATE_NO, FP32 k, lr, c1, c2, FP64 norm. -/
structure Ticket where
  step : Nat := 0
  update : Nat := 0
  action : Nat := 0
  k : Nat := 0
  lr : Nat := 0
  c1 : Nat := 0
  c2 : Nat := 0
  norm : Nat := 0
  deriving DecidableEq, Repr

/-- A replica digest in progress (R365, R366): step and update number, shards whose read has not completed, digests formed,
the device digest once formed, the count at which its window opened. -/
structure DigestRun where
  step : Nat := 0
  update : Nat := 0
  waiting : List Nat := []
  got : Store (List Byte) := []
  own : Option (List Byte) := none
  opened : Nat := 0
  deriving DecidableEq, Repr

/-- The optimiser of a function beside its registers (R346-R369): jobs whose COMMIT of the step has been applied; the
step, attempt and loss scale; the count at which the norm window opened; the ticket, while one is held; shards not current,
by index (1 pending, 2 updating, 3 TORN, 4 uncorrectable); the broadcast's action once issued, and whether updates may
start; whether recovery runs, or adoption with its copies to regenerate; GEN of the last applied update; the replica digest. -/
structure Opt where
  commits : List Nat := []
  step : Nat := 0
  attempt : Nat := 0
  scale : Nat := 0
  normOpened : Nat := 0
  ticket : Option Ticket := none
  shards : Store Nat := []
  broadcast : Option Nat := none
  released : Bool := false
  recovering : Bool := false
  adopting : Option (List Nat) := none
  lastGen : Nat := 0
  digest : Option DigestRun := none
  /-- The sequence was interrupted before its ticket: recovery forms the decision again (R362). -/
  undecided : Bool := false
  /-- The retained gradient must stand: from COMMIT until OPT_STEP has the step (R357). -/
  retains : Bool := false
  /-- The decision of a step whose other jobs have not all applied their actions (R387). -/
  early : Option Ticket := none
  /-- Recovery (1), adoption (2) or the decision (3) waits for pages that move before it reads (R232). -/
  waits : Nat := 0
  /-- The norm entries of the step that count as present, by position (R353). -/
  entries : List Nat := []
  /-- A ticket is written whose step has not ended (R351 step 6). -/
  ending : Bool := false
  deriving DecidableEq, Repr

/-- What a package-wide action does (R437). -/
inductive ActionKind where
  | load (fn : Nat)
  | commit (fn : Nat)
  | power (west : Bool) (point : Nat)
  | rotate (fn : Nat)
  deriving DecidableEq, Repr

/-- A package-wide action (R441): what it does, its issuer (an isle die, or 16 for the harbour), its epoch, the dies it
addresses, the gates that hold it with their islands' counts when they took it, those that have answered, whether one refused,
and its phase: 0 sent, 1 GO, 2 DROP. -/
structure Action where
  kind : ActionKind := .load 0
  src : Nat := 0
  epoch : Nat := 0
  dies : List Nat := []
  holding : Store Nat := []
  answered : List Nat := []
  refused : Bool := false
  phase : Nat := 0
  deriving DecidableEq, Repr

/-- The lead token (R436-R440): the half that holds it (true: west), halves that request it, whether the holder has
been asked to release; the leading die of each half (4: none), east first; epochs at the controllers of each die and at
each gate (0: none). Log entry 5. -/
structure Lead where
  holder : Option Bool := none
  /-- A grant in progress, the gates written: its half, and island 16's count then (R438). -/
  granting : Option (Bool × Nat) := none
  wants : List Bool := []
  asked : Bool := false
  /-- Island 16's count when the holder was asked (R439). -/
  askedAt : Nat := 0
  eastLeader : Nat := 0
  westLeader : Nat := 2
  dieEpoch : Store Nat := []
  gateEpoch : Store Nat := []
  deriving DecidableEq, Repr

/-- What the device holds for a function (1-8). Log entry 5. -/
structure FnState where
  segs : List Segment := []
  mig : Mig := {}
  /-- Checkpoint requests that wait for room in the queue, and the statuses of the checkpoint COPYs that have ended and
  whose step record does not carry them yet (R389, R390). -/
  ckptReqs : List MigReq := []
  ckptEnded : List Status := []
  /-- A page lookup is in progress (R232, MEM_XLATE_RES). -/
  xlating : Bool := false
  load : Load := {}
  /-- LOAD commands that wait for the loader, in order (R66). -/
  loadsWaiting : List CmdRef := []
  /-- Commands held by R54 and R55, in the order in which they were accepted. -/
  heldCmds : List CmdRef := []
  /-- The queue served last (R378). -/
  served : Nat := 63
  /-- Installed ENTRY, PIPE, SHOAL, RED and OPT records (R59, R72, R213, R214, R344, R370). -/
  entries : List (List Byte) := []
  pipe : List (List Byte) := []
  shoal : List (List Byte) := []
  red : List (List Byte) := []
  opt : List (List Byte) := []
  /-- Stages, by slot (R190). -/
  stages : Store Stage := []
  /-- The services (R386, R391). -/
  step : Option StepSvc := none
  gen : Option GenSvc := none
  /-- The optimiser (R346). -/
  optim : Opt := {}
  /-- 64 KiB pages encrypted under the CURRENT slot's key (SEC_KEY_WRITTEN). -/
  keyWritten : Nat := 0
  deriving DecidableEq, Repr

/-- A host read outstanding (R312): destination, address, bytes; the island of the engine that reads; the port its READ_REQ leaves
by and that cape's count once it has left (R315); its status once ended, and its data. -/
structure ReadReq where
  dst : Nat := 0
  addr : Nat := 0
  len : Nat := 0
  home : Nat := 0
  port : Nat := 0
  opened : Option Nat := none
  done : Option Status := none
  data : List Byte := []
  deriving DecidableEq, Repr

/-- A Jumel port beside its registers (R276-R303). Transmit: the flit sent last with its link word (R286), next SEQ, flits
retained with their SEQ, how many of them a replay still resends, credits, the counts last taken, the count of the last advance of
ACK, replay runs without one. Receive: the SEQ expected, flits freed since session start, NAK to send, discarding until the
expected SEQ, the count of the last verified flit, the last TXC verified, REDUCE flits held in the buffer, each with the owner
cape's count at which it verified (R336). -/
structure LinkPort where
  sent : Option (Flit × LinkWord) := none
  txSeq : Nat := 0
  retained : List (Nat × Flit) := []
  resend : Nat := 0
  credits : List Nat := [256, 256, 256, 64]
  crTaken : List Nat := [0, 0, 0, 0]
  acked : Nat := 0
  runs : Nat := 0
  rxSeq : Nat := 0
  freed : List Nat := [0, 0, 0, 0]
  nak : Bool := false
  discarding : Bool := false
  verified : Nat := 0
  rxTxc : Nat := 0
  heldFlits : List (Nat × Flit) := []
  /-- The cape's count at entry to the state the port is in (R297, R315), and as training ended (R281); the physical lanes held
  spare (R276). -/
  entered : Nat := 0
  fecFrom : Nat := 0
  spareTx : Nat := 8
  spareRx : Nat := 8
  /-- The session number; own messages unanswered; payloads of HELLO and KEY_SHARE of both ends; the peer's CERT payloads by
  index with their number; T; the peer's leaf key; the peer accepted; own KEY_DONE sent; the peer's seen. -/
  session : Nat := 0
  unanswered : List Flit := []
  ownHello : List Byte := []
  peerHello : List Byte := []
  ownShare : List Byte := []
  peerShare : List Byte := []
  certs : Store (List Byte) := []
  certCount : Nat := 0
  digestT : List Byte := []
  leafKey : List Byte := []
  accepted : Bool := false
  doneSent : Bool := false
  doneSeen : Bool := false
  /-- Keys (R301, R302): the receive key phase, the receive and the transmit phase in which the rekey began, S of the transmit
  direction and TXC of its old key while that lives, T of the rekey, the count at which it started, the count at which one was
  abandoned. -/
  rxPhase : Bool := false
  rekeyFrom : Bool := false
  rekeyFromTx : Bool := false
  txSwitch : Option Nat := none
  oldTxc : Option Nat := none
  newT : List Byte := []
  rekeyOpened : Nat := 0
  rekeyAgain : Option Nat := none
  /-- A switch-over of a receive lane (R281): the lane, the count at which it failed, N once acknowledged; the count until
  which one of a transmit lane runs. -/
  swap : Option (Nat × Nat) := none
  swapAt : Option Nat := none
  txSwapUntil : Nat := 0
  deriving DecidableEq, Repr

/-- A function record (R424, R427): changes of it since package cold reset; while RESETTING the image measurement and the
grant digest that stood at acceptance. -/
structure FnRecord where
  seq : Nat := 0
  resetting : Bool := false
  meas : List Byte := []
  grant : List Byte := []
  deriving DecidableEq, Repr

/-- A request of the power governor (R431, R432): an islet's wake-up, or a raise to a DVFS point. -/
inductive GovReq where
  | wake (islet : Nat)
  | raise (point : Nat)
  deriving DecidableEq, Repr

/-- The power governor (R431-R435): the admission window last opened, wake-ups granted in it by die, charges in force as die,
A/µs and the count they include last; queues by die; DVFS changes in progress by die, as target and phase (1: the raise's
code is driven, 2: the island relocks); thermal capping by die (1 to lower, 2 lowering, 3 to raise) and the count of its last
step. -/
structure Gov where
  window : Nat := 0
  wakes : Store Nat := []
  charges : List (Nat × Nat × Nat) := []
  queues : Store (List GovReq) := []
  changes : Store (Nat × Nat) := []
  /-- Lowerings granted while a change is in progress on their die, by die (15: none). -/
  lowerNext : Store Nat := []
  capMode : Store Nat := []
  capAt : Store Nat := []
  deriving DecidableEq, Repr

/-- The control signals (R475-R477): levels of RESET_N, PWR_GOOD_N and TEST_EN as sampled, a thermal trip, READY missed; the
DVFS codes driven on ISLE_PT0-3 (R468). Log entry 54. -/
structure Pins where
  resetN : Bool := false
  pwrGoodN : Bool := true
  testEn : Bool := false
  /-- The tick in which an input was released last while another still held the reset, and the lowest code released in it. -/
  released : Option (Nat × Nat) := none
  tripped : Bool := false
  readyLate : Bool := false
  codes : Store Nat := []
  deriving DecidableEq, Repr

/-- JTAG instructions (R479). -/
inductive JtagOp where
  | bypass | idcode | samplePreload | extest | clamp | highz | extestPulse | extestTrain
  deriving DecidableEq, Repr

/-- The JTAG port (R479, R480): the instruction loaded, the values preloaded into the boundary cells and those captured.
Log entries 5 and 7. -/
structure Jtag where
  op : JtagOp := .idcode
  cells : List Bool := []
  captured : List Bool := []
  deriving DecidableEq, Repr

/-- The management endpoints (R422, R461, R462, R478): endpoint IDs by binding (0 I3C, 1 mailbox), the terminus ID, the dynamic
I3C address; SPDM requests served by binding (1 version, 2 capabilities, 4 algorithms); packets assembled by binding.
Log entry 5. -/
structure Mctp where
  eids : Store Nat := []
  /-- The endpoint that assigned a binding's ID: event messages go there. -/
  owners : Store Nat := []
  tid : Nat := 0
  i3c : Option Nat := none
  i3cStrap : Nat := 0
  spdm : Store Nat := []
  incoming : Store (List Byte) := []
  tags : Nat := 0
  deriving DecidableEq, Repr

/-- A staged image on its way into a slot (R451): the slot, as `2 * component + slot`, and the image. -/
structure FwImage where
  slot : Nat := 0
  bytes : List Byte := []
  deriving DecidableEq, Repr

/-- The firmware slots (R417, R451-R454): the images that have been staged into slot A and B of each component, with their firmware
measurement and SVN, keyed by `2 * component + slot`; images whose FW_STAGED record is not yet committed, by its SEQ; the staging in
progress, as host address, whether its header has been asked for, and the header once read; the staged component that it replaces;
components on trial. -/
structure Fw where
  images : Store (List Byte) := []
  meas : Store (List Byte) := []
  svns : Store Nat := []
  coming : Store FwImage := []
  restaged : Option Nat := none
  staging : Option Nat := none
  asked : Bool := false
  head : List Byte := []
  trial : Nat := 0
  deriving DecidableEq, Repr

/-- What a segment of the log holds (R455). -/
inductive SegmentKind where
  | free | log | base | retired
  deriving DecidableEq, Repr

/-- A segment of the log: what it holds, its erase count, the SEQ of its first record, the bytes written, its first page among them
(R455). -/
structure JnlSegment where
  kind : SegmentKind := .free
  erases : Nat := 0
  first : Nat := 0
  used : Nat := 0
  deriving DecidableEq, Repr

/-- The journal store (R455-R460): the committed records that a replay reads, base first; the segments, and the one that is appended
to; bytes logged since the base; the SEQ of a compaction's BASE_BEGIN, the segment that holds it, and the bytes logged since it. -/
structure Journal where
  log : List JournalRecord := []
  segments : Store JnlSegment := [(0, { kind := .log, used := 4096 })]
  current : Nat := 0
  since : Nat := 0
  begun : Option Nat := none
  begunIn : Nat := 0
  sinceBegin : Nat := 0
  deriving DecidableEq, Repr

/-- A shut-down in progress (R402, R403): the count at its acceptance, its cause (0 ENABLE, 1 RESET by function 0, 2 RESET by
the function). -/
structure Drain where
  opened : Nat := 0
  cause : Nat := 0
  deriving DecidableEq, Repr

/-- The state of the package. Log entry 60. -/
structure State where
  /-- Fixed facts of the package. -/
  pkg : Package := {}
  /-- The anti-rollback counters in fuses, by component (R419). -/
  svn : Store Nat := []
  /-- The registers (R14), keyed by `regKey`. -/
  regs : Store Word := []
  /-- The island counters (R443). -/
  counts : Store Nat := []
  /-- Strait lanes, keyed by `laneKey`. -/
  lanes : Store Lane := []
  /-- Crossbar turns (R32): the incoming strait served last, keyed by `turnKey`. -/
  xturn : Store Nat := []
  /-- Armed function event sources (R395): 1 where armed, keyed by `16 * fn + k`. -/
  armed : Store Nat := []
  /-- The management event source is armed (R430). -/
  hbrArmed : Bool := false
  /-- Flits waiting to be sent, keyed by `4 * port + vc`. -/
  egress : Store (List Flit) := []
  /-- The cape's count at which the head of an egress queue became its head (R315), by the same key. -/
  heads : Store Nat := []
  /-- The Jumel ports (R276). -/
  ports : Store LinkPort := []
  /-- The window for CLAIM_END (R305): island 12's count at which it opened. -/
  claimWait : Option Nat := none
  /-- Host reads, by `256 * fn + tag`; ranges still to be asked for, with their function (R312). -/
  reads : Store ReadReq := []
  readsWaiting : List (Nat × ReadReq) := []
  /-- Host reads that are answered or have ended, until their function takes them: the function and the read. -/
  readData : List (Nat × ReadReq) := []
  /-- Memory contents (R217, R229), keyed by physical address; the spare rows included. -/
  mem : Memory := []
  /-- The errors that stand in a sector or unit, keyed by `errKey`: symbol and value (R220, R221, R229). -/
  bad : Store (Store Nat) := []
  /-- Corrected reads per row since package warm reset, keyed by `rowKey`; a mainland row by its own key (R225, R228). -/
  rowErrs : Store Nat := []
  /-- Degraded rows queued for repair (R225). -/
  repairs : List Nat := []
  /-- Rows withdrawn from the pools (R225, R226). -/
  withdrawn : List Nat := []
  /-- Rows that a repair could not replace (R226), by row key. -/
  unrepairable : List Nat := []
  /-- Pages that the sweep of a rotation could not read, as function and address (R415). -/
  sweepBad : List (Nat × Nat) := []
  /-- What the device holds for each function. -/
  fns : Store FnState := []
  /-- The queues, keyed by `64 * fn + q` (R376). -/
  queues : Store Queue := []
  /-- The islets (R76). -/
  islets : Store Islet := []
  /-- Control packets in flight, in the order sent (R100). -/
  packets : List Packet := []
  /-- Launches in progress, by number, and the number of the next. -/
  launches : Store Launch := []
  nextLaunch : Nat := 0
  /-- ATOLL_MASK of launches that have completed while islets of them run on (DONE_RULE 1, R72, R87). -/
  pastLaunches : Store Nat := []
  /-- The staging engine's queue: functions whose load is in STAGE, in order; 9 is a firmware stage (R53, R451). -/
  staging : List Nat := []
  /-- The staging engine serves the head of its queue. -/
  stagingBusy : Bool := false
  /-- The mainland ports. -/
  mlPorts : Store MlPort := []
  /-- Accesses held, in arrival order (R232, R258, R267). -/
  held : List Access := []
  /-- The accesses that the last command which served any served, with their answers. -/
  served : List Served := []
  /-- Reduction jobs, by physical context (R322). -/
  jobs : Store Job := []
  /-- The lead token, and package-wide actions in progress by number (R436-R441). -/
  lead : Lead := {}
  actions : Store Action := []
  nextAction : Nat := 0
  /-- Islands to which the last counter snapshot has sent a unit that they have not accepted (R444). -/
  snapSent : List Nat := []
  /-- Die clusters in a controller restart (R374). -/
  restarting : List Nat := []
  /-- The harbour's count at the last write of each watchdog: `4 * die + core` of the clusters (R374), 16 + core of the
  harbour (R429). -/
  watchdogs : Store Nat := []
  /-- The function records (R424). -/
  records : Store FnRecord := []
  /-- Leases of running reef operations, by stack (R265). -/
  leases : Store (List Lease) := []
  /-- Reef units, by stack (R248). -/
  reefs : Store ReefStack := []
  /-- Journal requests waiting (R457). -/
  jqueue : List JournalRecord := []
  /-- Packets the harbour has to send, by binding (R461). -/
  mctpOut : List (Nat × List Byte) := []
  /-- The power governor, the control signals, the JTAG port, the management endpoints, the firmware slots, the journal store. -/
  gov : Gov := {}
  pins : Pins := {}
  jtag : Jtag := {}
  mctp : Mctp := {}
  fw : Fw := {}
  jnl : Journal := {}
  /-- Shut-downs in progress, and requests held during ENABLING (1 disable, 2 reset), by function (R401, R402). -/
  drains : Store Drain := []
  enablePend : Store Nat := []
  /-- Rotations at steps 1-2 of R413, by function: 1 waits for the token, 2 its action is under way, 3 the action has passed. -/
  rotations : Store Nat := []
  /-- Generate requests since the DRBG was last seeded (R408). -/
  drbgCount : Nat := 0
  /-- The number of free values drawn (log entry 8). -/
  freeCtr : Nat := 0
  /-- The number of idle steps taken (log entry 2). -/
  ticks : Nat := 0
  /-- The commands waiting, first in, first out. -/
  pending : List Instr := []
  deriving DecidableEq, Repr

/-- The machine right after reset: the package cold reset in progress, RESET_N low, HBR_STAT BOOTING (R447, R450),
every register at its table's reset value, no command waiting. Log entries 4, 5 and 10. -/
def State.reset : State := {}

end Sys2Proof.Machine
end

