-- ==== Sys2Proof/Machine/Ops.lean ====
section
/-! DEFINITION. The named operations every family shares: registers and their fields, island counts and windows,
free values, strait traffic, events and interrupts, journal requests, writes to host memory. -/

namespace Sys2Proof.Machine

/-- The outcome of a command. -/
abbrev Result := Host.Outcome State Fault Refusal

/-- Go on in a state. Log entry 1. -/
abbrev ok (s : State) : Result := .next s

/-- The state with no access served yet: a command that serves accesses begins with it. Log entry 57. -/
def State.unserved (s : State) : State := { s with served := [] }

/-! ## Bits -/

/-- Bits `lo + n - 1` to `lo` of a number. -/
def bits (w lo n : Nat) : Nat := w / 2 ^ lo % 2 ^ n

/-- A bit of a number. -/
def bit (w k : Nat) : Bool := w.testBit k

/-- The number with bits `lo + n - 1` to `lo` replaced. -/
def putBits (w lo n v : Nat) : Nat := w - bits w lo n * 2 ^ lo + (v % 2 ^ n) * 2 ^ lo

/-- 1 for true. -/
def natOf (b : Bool) : Nat := if b then 1 else 0

/-- The positions of the set bits of a number below `n`, lowest first. -/
def setBits (w n : Nat) : List Nat := (List.range n).filter (fun k => bit w k)

/-- The number of set bits below `n`. -/
def popCount (w n : Nat) : Nat := (setBits w n).length

/-- The number with exactly the listed bits set. -/
def maskOf (ks : List Nat) : Nat := ks.eraseDups.foldl (fun m k => m + 2 ^ k) 0

/-- Set or clear one bit. -/
def putBit (w k : Nat) (b : Bool) : Nat := putBits w k 1 (natOf b)

/-! ## The package (R1-R10) -/

/-- HBM stacks hold `stackCap` units of 8 GiB (PKG_CAP). -/
def partStackCap : Part → Nat
  | .tva768 => 12
  | _ => 16

/-- FP64 slice mode present (R1). -/
def partSlice : Part → Bool
  | .tva768 => false
  | _ => true

/-- Reef units present (R1). -/
def partReef : Part → Bool
  | .tva1024 => true
  | _ => false

/-- The present Jumel ports (R3, PKG_PORTS). -/
def partJl : Part → Nat
  | .tva768 => 0x3CF3CF
  | _ => 0xFFFFFF

/-- The present mainland ports (R3, PKG_PORTS). -/
def partMl : Part → Nat
  | .tva768 => 0xFF
  | _ => 0xFFFF

/-- The part code of PKG_IDENT. -/
def partCode : Part → Nat
  | .tva1024 => 1
  | .tva1024p => 2
  | .tva768 => 3

/-- The capability mask of PKG_CAP[15:0] (R5). -/
def partCapMask (p : Part) : Nat := 2 * natOf (partSlice p) + natOf (partReef p)

/-- The isle die of an islet (R10). -/
def islDie (i : Nat) : Nat := i / 96

/-- The atoll of an islet (R10). -/
def islAtoll (i : Nat) : Nat := i / 16

/-- The position of an islet in its atoll (R10). -/
def islPos (i : Nat) : Nat := i % 16

/-- Lagoon islets stand at positions 5 and 10 (R10). -/
def isLagoon (i : Nat) : Bool := i % 16 == 5 || i % 16 == 10

/-- End A, end B, width A, width B and kind of each strait (R25, R26). -/
def straitDesc (n : Nat) : Nat × Nat × Nat × Nat × Nat :=
  if n = 0 then (0, 1, 3072, 3072, 0)
  else if n = 1 then (2, 3, 3072, 3072, 0)
  else if n = 2 then (0, 2, 3072, 3072, 0)
  else if n = 3 then (1, 3, 3072, 3072, 0)
  else if n < 12 then ((n - 4) / 2, n, 6144, 4096, 1)
  else if n < 16 then (n - 12, n, 1280, 640, 2)
  else if n = 16 then (2, 17, 1280, 768, 3)
  else if n = 17 then (3, 17, 1280, 768, 3)
  else if n < 34 then (n - 18, 16, 128, 64, 4)
  else (16, 17, 64, 128, 4)

/-- The reset value of a register: its table's, with the values the tables give per part, package, strait, islet
and function (R9, R25, R26, R39, R80, R256, R420, R428). -/
def resetWord (pkg : Package) (r : Reg) (a b : Nat) : Word :=
  match r with
  | .PKG_IDENT => BitVec.ofNat 64 (0x7D1A * 2 ^ 48 + 0x0B0F * 2 ^ 32 + (partCode pkg.part) * 2 ^ 16 + pkg.stepping % 256 * 256)
  | .PKG_CAP => BitVec.ofNat 64 (natOf (partReef pkg.part) * 0x200 * 2 ^ 48 + 0x180 * 2 ^ 32 + (partStackCap pkg.part) * 2 ^ 24
      + 8 * 2 ^ 16 + (partCapMask pkg.part))
  | .PKG_PORTS => BitVec.ofNat 64 ((partMl pkg.part) * 2 ^ 32 + (partJl pkg.part))
  | .STR_DESC =>
    let (ea, eb, wa, wb, k) := straitDesc a
    BitVec.ofNat 64 (k * 2 ^ 56 + ea * 2 ^ 48 + eb * 2 ^ 40 + wa * 2 ^ 16 + wb)
  | .STR_STAT => BitVec.ofNat 64 (storeGet 0 pkg.spareUsed a % 2 ^ 16 * 2 ^ 48)
  | .ISL_IDENT => BitVec.ofNat 64 (natOf (isLagoon a) * 2 ^ 16 + islPos a * 2 ^ 12 + a % 512)
  | .REEF_CAUSE => BitVec.ofNat 64 (storeGet 0 pkg.fusedLinks a % 2 ^ 63)
  | .HBR_JNL_STAT => BitVec.ofNat 64 (383 * 2 ^ 23)
  | .SEC_FN_ID => BitVec.ofNat 64 (a % 16)
  | .SEC_DEV_ID => BitVec.ofNat 64 (leNat (((identityDigest pkg.secret).drop (8 * b)).take 8))
  | r => BitVec.ofNat 64 (r.fields.foldl (fun w f => w + f.reset * 2 ^ f.lo) 0)

/-! ## Registers -/

/-- The key of a register: its number, its first index and its second (each below 65,536 in every table). Log entry 57. -/
def regKey (r : Reg) (a b : Nat) : Nat := (r.code * 65536 + a % 65536) * 65536 + b % 65536

/-- The word of a register. -/
def State.reg (s : State) (r : Reg) (a : Nat := 0) (b : Nat := 0) : Word :=
  storeGet (resetWord s.pkg r a b) s.regs (regKey r a b)

/-- Set the word of a register. -/
def State.setReg (s : State) (r : Reg) (a b : Nat) (w : Word) : State :=
  { s with regs := storeSet (resetWord s.pkg r a b) s.regs (regKey r a b) w }

/-- The value of a field. -/
def State.fld (s : State) (f : Fld) (a : Nat := 0) (b : Nat := 0) : Nat :=
  bits (s.reg f.reg a b).toNat f.lo (f.hi - f.lo + 1)

/-- Set a field. -/
def State.setFld (s : State) (f : Fld) (a b v : Nat) : State :=
  s.setReg f.reg a b (BitVec.ofNat 64 (putBits (s.reg f.reg a b).toNat f.lo (f.hi - f.lo + 1) v))

/-- Add to a field that wraps. -/
def State.addFld (s : State) (f : Fld) (a b n : Nat) : State := s.setFld f a b (s.fld f a b + n)

/-- Add to a field that saturates. -/
def State.satFld (s : State) (f : Fld) (a b n : Nat) : State :=
  s.setFld f a b (min (s.fld f a b + n) (2 ^ (f.hi - f.lo + 1) - 1))

/-- The bits of a register with an access type. -/
def accessMask (r : Reg) (acc : RegAccess) : Nat :=
  (r.fields.filter (fun f => f.acc = acc)).foldl (fun m f => m + (2 ^ (f.hi - f.lo + 1) - 1) * 2 ^ f.lo) 0

/-- The bits of a register that its table gives a field. -/
def fieldMask (r : Reg) : Nat := r.fields.foldl (fun m f => m + (2 ^ (f.hi - f.lo + 1) - 1) * 2 ^ f.lo) 0

/-- What a software write of `w` leaves in a register (R14, R16): RW bits take `w`, RW1C bits set in `w` are
cleared, all others stay. -/
def writtenWord (r : Reg) (old w : Word) : Word :=
  let rw := BitVec.ofNat 64 (accessMask r .RW)
  let w1c := BitVec.ofNat 64 (accessMask r .RW1C)
  ((old &&& ~~~rw) ||| (w &&& rw)) &&& ~~~(w &&& w1c)

/-- A software write of a register. -/
def State.writeReg (s : State) (r : Reg) (a b : Nat) (w : Word) : State :=
  s.setReg r a b (writtenWord r (s.reg r a b) w)

/-- Return the registers at keys that satisfy `p` (register number, first index) to their reset values. -/
def State.clearRegs (s : State) (p : Nat → Nat → Bool) : State :=
  { s with regs := s.regs.filter (fun e => !p (e.1 / 65536 / 65536) (e.1 / 65536 % 65536)) }

/-! ## Island counts and windows (R443, R445) -/

/-- An island's counter. -/
def State.count (s : State) (i : Nat) : Nat := storeGet 0 s.counts i

/-- Set an island's counter. -/
def State.setCount (s : State) (i n : Nat) : State := { s with counts := storeSet 0 s.counts i (n % 2 ^ 64) }

/-- HBR_STAT reads READY (R450), and no thermal trip has stopped the device (R476). -/
def State.ready (s : State) : Bool := s.fld .HBR_STAT_STATE == 1 && !s.pins.tripped

/-- The device is held in a package cold reset (R447, R466, R475). -/
def State.heldInReset (s : State) : Bool := !s.pins.resetN || s.pins.pwrGoodN || s.pins.testEn

/-- An island's counter advances: its PLL is locked and does not relock, and the island runs; before READY, and after a thermal
trip, only island 16 does, and before READY the capes from the step of the boot that locks them (R23, R443, R450, R476). Log
entries 1 and 51. -/
def State.islandRuns (s : State) (i : Nat) : Bool :=
  s.fld .STR_ISLAND_CLK_RELOCK i != 1 && !s.heldInReset && (i == 16 || ((s.fld .HBR_STAT_STATE == 1 ||
    (decide (12 ≤ i) && decide (i < 16) && s.fld .STR_ISLAND_CLK_FREQ_MHZ i != 0)) && !s.pins.tripped))

/-- The block idles: every island that runs counts on (R21, R443; log entry 2). -/
def State.idleTick (s : State) : State :=
  (List.range 18).foldl (fun s i => if s.islandRuns i then s.setCount i (s.count i + Config.tickCycles s.ticks i) else s)
    { s with ticks := s.ticks + 1 }

/-- The timeout of a window that closes at `c` acts: the island's count has reached `c + 1` (R445.3, log entry 3). -/
def State.reachCount (s : State) (i c : Nat) : State := s.setCount i (max (s.count i) (c + 1))

/-- An event at an island's count now is inside a window that closes at `c` (R445). Log entry 3. -/
def State.inWindow (s : State) (i c : Nat) : Bool := s.count i ≤ c

/-- An island's PLL is relocking (R23). -/
def State.relocking (s : State) (i : Nat) : Bool := s.fld .STR_ISLAND_CLK_RELOCK i == 1

/-! ## Free values (log entry 8) -/

/-- The next free value. Log entry 8. -/
def State.free (s : State) : Nat := Config.freeNat s.freeCtr

/-- Draw a free value. Log entry 8. -/
def State.drawn (s : State) : State := { s with freeCtr := s.freeCtr + 1 }

/-! ## Straits (R25-R38) -/

/-- A strait's state: 0 DOWN, 1 UP, 2 RETRY, 3 FAILED (STR_STAT). -/
def State.straitState (s : State) (n : Nat) : Nat := s.fld .STR_STAT_STATE n

/-- The straits on the way from one island to another (R25, R32), in order; empty where both are one island. -/
def islandRoute (src dst : Nat) : List Nat :=
  let isle (x : Nat) : Nat := if x < 4 then x else if x < 12 then (x - 4) / 2 else x - 12
  let isleRoute (a b : Nat) : List Nat :=
    if a = b then [] else
    match a, b with
    | 0, 1 => [0] | 1, 0 => [0]
    | 2, 3 => [1] | 3, 2 => [1]
    | 0, 2 => [2] | 2, 0 => [2]
    | 1, 3 => [3] | 3, 1 => [3]
    | 0, 3 => [0, 3] | 3, 0 => [1, 2]
    | 1, 2 => [0, 2] | 2, 1 => [1, 3]
    | _, _ => []
  if src = dst then []
  else if src = 16 then (if dst = 17 then [34] else [18 + dst])
  else if dst = 16 then (if src = 17 then [34] else [18 + src])
  else if src = 17 then
    let b := isle dst
    let first := if b = 0 ∨ b = 2 then ([16] : List Nat) ++ (if b = 0 then [2] else [])
      else [17] ++ (if b = 1 then [3] else [])
    first ++ (if dst < 4 then [] else [if dst < 12 then dst else dst])
  else if dst = 17 then
    let a := isle src
    (if src < 4 then [] else [src]) ++
      (if a = 0 ∨ a = 2 then (if a = 0 then [2] else []) ++ [16] else (if a = 1 then [3] else []) ++ [17])
  else
    (if src < 4 then [] else [src]) ++ isleRoute (isle src) (isle dst) ++ (if dst < 4 then [] else [dst])

/-- A strait in state UP or RETRY carries units. -/
def State.straitCarries (s : State) (n : Nat) : Bool := s.straitState n == 1 || s.straitState n == 2

/-- Neither end island of a strait relocks, nor has a thermal trip stopped them: both sides handshake (R23, R476). -/
def State.straitRuns (s : State) (n : Nat) : Bool :=
  !s.pins.tripped && !s.relocking (straitDesc n).1 && !s.relocking (straitDesc n).2.1

/-- Every strait on a way is UP or in retry: nothing on it stops. -/
def State.routeUp (s : State) (src dst : Nat) : Bool := (islandRoute src dst).all s.straitCarries

/-- Traffic passes all the way between two islands: every strait on it carries units, and both its sides handshake (R23, R35).
Log entry 62. -/
def State.wayOpen (s : State) (src dst : Nat) : Bool := (islandRoute src dst).all (fun n => s.straitCarries n && s.straitRuns n)

/-- A strait on a way has FAILED. -/
def State.routeFailed (s : State) (src dst : Nat) : Bool :=
  (islandRoute src dst).any (fun n => s.straitState n == 3)

/-- The key of a lane: strait, direction (B to A), class. -/
def laneKey (n : Nat) (ba : Bool) (cls : Nat) : Nat := 8 * n + 4 * natOf ba + cls % 4

/-- A lane. -/
def State.lane (s : State) (n : Nat) (ba : Bool) (cls : Nat) : Lane := storeGet {} s.lanes (laneKey n ba cls)

/-- Set a lane. -/
def State.setLane (s : State) (n : Nat) (ba : Bool) (cls : Nat) (l : Lane) : State :=
  { s with lanes := storeSet {} s.lanes (laneKey n ba cls) l }

/-- The direction in which a unit at an island leaves over a strait: true from end B to end A. -/
def leavesBA (n island : Nat) : Bool := (straitDesc n).2.1 == island

/-- Units in a writer's queue. -/
def Lane.readyCount (l : Lane) : Nat := (l.ready.map (fun u => u.2 + 1)).sum

/-- The writer's queue of 16 units has room, and none waits for it (R28, R30). -/
def Lane.takes (l : Lane) : Bool := l.backlog.isEmpty && decide (l.readyCount < 16)

/-- `k` alike units join a queue of units. -/
def unitsJoin (q : List (StraitUnit × Nat)) (u : StraitUnit) (k : Nat) : List (StraitUnit × Nat) :=
  if k = 0 then q else
  match q.getLast? with
  | some (v, n) => if v = u then q.dropLast ++ [(u, n + k)] else q ++ [(u, k - 1)]
  | none => [(u, k - 1)]

/-- `k` alike units come to a writer: into its queue as far as it has room, the others wait at their source (R28, R30). -/
def Lane.put (l : Lane) (u : StraitUnit) (k : Nat) : Lane :=
  let m := if l.backlog.isEmpty then min k (16 - l.readyCount) else 0
  { l with ready := unitsJoin l.ready u m, backlog := unitsJoin l.backlog u (k - m) }

/-- `k` alike units leave island `src` in a class over the first strait on their way. A FAILED strait accepts none (R35). -/
def State.straitPut (s : State) (src cls : Nat) (u : StraitUnit) (k : Nat) : State :=
  match islandRoute src u.dst with
  | [] => s
  | n :: _ =>
    if k = 0 ∨ s.straitState n = 3 then s else
    let ba := leavesBA n src
    s.setLane n ba cls ((s.lane n ba cls).put u k)

/-- The units of a lane; each changed. -/
def Lane.units (l : Lane) : List StraitUnit := l.ready.map Prod.fst ++ l.backlog.map Prod.fst ++ l.flight ++ l.reader
def Lane.mapUnits (l : Lane) (g : StraitUnit → StraitUnit) : Lane :=
  { l with ready := l.ready.map (fun p => (g p.1, p.2)), backlog := l.backlog.map (fun p => (g p.1, p.2)),
           flight := l.flight.map g, reader := l.reader.map g }

/-- Offer `units` strait units from one island to another in a class (R28). Log entry 62. -/
def State.straitOffer (s : State) (src dst cls units : Nat) : State := s.straitPut src cls { dst := dst } units

/-- The strait units that bytes take. -/
def unitsOf (bytes : Nat) : Nat := (bytes + 63) / 64

/-! ## Flits that the device sends -/

/-- The flits queued at a port in a virtual channel. -/
def State.egressOf (s : State) (p vc : Nat) : List Flit := storeGet [] s.egress (4 * p + vc)

/-- The cape island of a port (R276). -/
def capeIsland (p : Nat) : Nat := 12 + p / 6

/-- Queue a flit at a port; one that finds the queue empty becomes its head (R315). -/
def State.queueFlit (s : State) (p : Nat) (f : Flit) : State :=
  let k := 4 * p + f.vc
  let s := if (s.egressOf p f.vc).isEmpty then { s with heads := storeSet 0 s.heads k (s.count (capeIsland p)) } else s
  { s with egress := storeSet [] s.egress k (s.egressOf p f.vc ++ [f]) }

/-- The chain port toward the adapter (JL_CHAIN). -/
def State.adapterPort (s : State) : Nat := s.fld .JL_CHAIN_ADAPTER_PORT

/-- The state of a Jumel port: 3 is UP (R295). -/
def State.portUp (s : State) (p : Nat) : Bool := s.fld .JL_PORT_STAT_STATE p == 3

/-- The routing entry of a chain address (R308): 0x00 names ADAPTER_PORT, the device's own address LOCAL, 0xFB and above
DROP. -/
def State.routeOf (s : State) (d : Nat) : Nat :=
  if d = 0 then s.adapterPort
  else if s.fld .JL_CHAIN_ADDR_VALID = 1 ∧ d = s.fld .JL_CHAIN_ADDR then 0x1E
  else if 0xFB ≤ d then 0x1F
  else s.fld .JL_ROUTE_PORT d

/-- A flit whose discard is answered with UNREACHABLE (R310): a WRITE, READ_REQ or INTERRUPT. -/
def flitAnswered (f : Flit) : Bool := f.ftype == 1 || f.ftype == 2 || (f.ftype == 5 && f.sub == 1)

/-- Reads that are outstanding end with a status; their tags are free (R310, R312, R316). Log entry 45. -/
def State.endReads (s : State) (st : Status) (p : Nat → ReadReq → Bool) : State :=
  { s with reads := s.reads.filter (fun e => !p e.1 e.2),
           readData := s.readData ++ (s.reads.filter (fun e => p e.1 e.2)).map (fun e => (e.1 / 256, { e.2 with done := some st })) }

/-- Reads of a function to a destination end with LINK_DOWN (R310, R316). Log entry 45. -/
def State.failReads (s : State) (p : Nat → ReadReq → Bool) : State := s.endReads .linkDown p

/-- A function's JL_UNREACH latches a discarded flit of its own, and its reads to that destination end (R310). -/
def State.latchUnreach (s : State) (fn dst addr reason : Nat) : State :=
  let s := ((s.setFld .JL_UNREACH_REASON fn 0 reason).setFld .JL_UNREACH_DST fn 0 dst).setFld .JL_UNREACH_ADDR fn 0 addr
  let s := if fn = 0 then s else s.setFld .JL_FN_EVT_UNREACH_EVT fn 0 1
  s.failReads (fun k r => k / 256 == fn && r.dst == dst)

/-- Flits of the device's own reach the adapter: the chain port toward it is UP, and the device has an address (R307, R308). -/
def State.hostUp (s : State) : Bool := s.portUp s.adapterPort && s.fld .JL_CHAIN_ADDR_VALID == 1

/-- Send a flit of the device's own to the adapter over the chain port toward it (R312, R313). Where that port is not UP the
flit is discarded and counted (R308) and its function told (R310); the interrupt that this would raise is discarded with it. -/
def State.sendAdapter (s : State) (f : Flit) : State :=
  if s.hostUp then
    s.queueFlit s.adapterPort { f with dst := 0, src := s.fld .JL_CHAIN_ADDR, ttl := 255 }
  else
    let s := s.satFld .JL_DROPS_ROUTE 0 0 1
    if flitAnswered f then
      let s := s.latchUnreach f.sfn 0 f.addr 1
      { s with armed := storeSet 0 s.armed (16 * f.sfn + 5) 0 }
    else s

/-- An INTERRUPT message of a function to the adapter (R313). -/
def State.interrupt (s : State) (fn vector : Nat) : State :=
  s.sendAdapter { ftype := 5, sub := 1, sfn := fn, len := 1, vc := 0, payload := leBytes 2 vector }

/-- Cut bytes into pieces of at most `n` (fuel: the length). -/
def chunksOf (n : Nat) : Nat → List Byte → List (List Byte)
  | 0, _ => []
  | _, [] => []
  | fuel + 1, bs => bs.take n :: chunksOf n fuel (bs.drop n)

/-- An engine on island `home` writes bytes to host memory as WRITE flits of at most 512 bytes each (R312); to the adapter's cape
they travel in a class of their traffic (R28). Log entry 26. -/
def State.hostWrite (s : State) (fn home cls addr : Nat) (bs : List Byte) : State :=
  (chunksOf 512 bs.length bs).zipIdx.foldl
    (fun s c => (s.straitOffer home (capeIsland s.adapterPort) cls (unitsOf c.1.length)).sendAdapter
      { ftype := 1, sfn := fn, addr := addr + 512 * c.2, len := (c.1.length + 31) / 32, vc := 0, payload := c.1 }) s

/-! ## Events (R395, R430) -/

/-- The event register of each function event source (R395): register and index; reef sources are several. -/
def eventWord (s : State) (fn k : Nat) : Nat :=
  match k with
  | 0 => (s.reg .IMG_EVT fn).toNat
  | 1 => (s.reg .MEM_EVT fn).toNat
  | 2 => (List.range 8).foldl (fun w st =>
      if bit (s.fld .SEC_GRANT_RES_STACKS fn) st then w ||| (s.reg .REEF_EVT st).toNat else w) 0
  | 3 => (s.reg .RED_EVT fn).toNat
  | 4 => (s.reg .OPT_EVT fn).toNat
  | 5 => (s.reg .JL_FN_EVT fn).toNat
  | 6 => (s.reg .SVC_EVT fn).toNat
  | _ => 0

/-- Whether a function event source is armed. -/
def State.isArmed (s : State) (fn k : Nat) : Bool := storeGet 0 s.armed (16 * fn + k) == 1

/-- Arm or disarm a function event source. -/
def State.setArmed (s : State) (fn k : Nat) (b : Bool) : State :=
  { s with armed := storeSet 0 s.armed (16 * fn + k) (natOf b) }

/-- An event of source `k` of a function has been raised: an armed source sends its interrupt and is disarmed. -/
def State.fireEvent (s : State) (fn k : Nat) : State :=
  if s.isArmed fn k then
    (s.interrupt fn (s.fld .SVC_EVT_ROUTE_VECTOR fn k)).setArmed fn k false
  else s

/-- Flits of the device's own to a chain address have a way: its entry names a port that is UP, and the device has an address
(R307, R308). -/
def State.wayUp (s : State) (dst : Nat) : Bool :=
  decide (s.routeOf dst < 24) && s.portUp (s.routeOf dst) && s.fld .JL_CHAIN_ADDR_VALID == 1

/-- Send a flit of the device's own to another device by the route of its chain address (R308); discarded and counted, and its
function told, where that has no UP port (R310). -/
def State.sendTo (s : State) (f : Flit) : State :=
  if f.dst = 0 then s.sendAdapter f
  else if s.wayUp f.dst then s.queueFlit (s.routeOf f.dst) { f with src := s.fld .JL_CHAIN_ADDR, ttl := 255 }
  else
    let reason := if s.routeOf f.dst < 24 then 1 else 2
    let s := s.satFld .JL_DROPS_ROUTE 0 0 1
    if flitAnswered f then
      let s := s.latchUnreach f.sfn f.dst f.addr reason
      if f.sfn = 0 then s else s.fireEvent f.sfn 5
    else s

/-- Arm a source: with an event bit still set it raises its interrupt at once. -/
def State.armEvent (s : State) (fn k : Nat) : State :=
  if s.fld .SVC_EVT_ROUTE_EN fn k = 1 then
    let s := s.setArmed fn k true
    if eventWord s fn k = 0 then s else s.fireEvent fn k
  else s

/-- Set an event bit of a function's source (register index `a`) and raise its event. -/
def State.fnEvent (s : State) (fn k : Nat) (f : Fld) (a : Nat) : State := (s.setFld f a 0 1).fireEvent fn k

/-- An armed management event source sends its interrupt and is disarmed (R430). -/
def State.hbrInterrupt (s : State) : State :=
  if s.hbrArmed then
    { s.interrupt 0 (s.fld .HBR_EVT_ROUTE_VECTOR) with hbrArmed := false }
  else s

/-- The packets of an MCTP message: at most 64 bytes after a 4-byte header of version, destination, source, start, end, sequence and
tag (R461). `owner` is the tag owner bit, set on what the device starts. Log entry 52. -/
def mctpPackets (bind own dest : Nat) (owner : Bool) (tag : Nat) (msg : List Byte) : List (Nat × List Byte) :=
  let parts := chunksOf 64 (msg.length + 1) msg
  let pack (c : List Byte × Nat) : Nat × List Byte :=
    (bind, leBytes 1 1 ++ leBytes 1 dest ++ leBytes 1 own ++
      leBytes 1 (128 * natOf (c.2 == 0) + 64 * natOf (c.2 + 1 == parts.length) + 16 * (c.2 % 4) + 8 * natOf owner + tag % 8) ++ c.1)
  parts.zipIdx.map pack

/-- A PLDM event message waits on each binding with an endpoint ID: PlatformEventMessage with a class and its data (R430, R462). Log
entry 52. -/
def State.pldmQueued (s : State) (cls : Nat) (data : List Byte) : State :=
  [0, 1].foldl (fun s bind =>
    if storeGet 0 s.mctp.eids bind = 0 then s else
    let tag := s.mctp.tags
    let msg := leBytes 1 1 ++ leBytes 1 (0x80 + tag) ++ leBytes 1 2 ++ leBytes 1 0xA ++ leBytes 1 1 ++ leBytes 1 s.mctp.tid ++ leBytes 1 cls ++ data
    { s with mctp := { s.mctp with tags := (tag + 1) % 8 }
             mctpOut := s.mctpOut ++ mctpPackets bind (storeGet 0 s.mctp.eids bind) (storeGet 0 s.mctp.owners bind) true tag msg }) s

/-- The mailbox takes the first packet that waits for it, once its buffer is free, and raises HBR_EVT.MCTP (R461); a bit that was
clear is a new management event, with its own event message (R430). Log entry 52. -/
def State.mailboxFill (s : State) : State :=
  if s.fld .HBR_MCTP_CTL_OUT_VALID = 1 then s else
  match s.mctpOut.find? (fun e => e.1 == 1) with
  | none => s
  | some e =>
    let s := { s with mctpOut := s.mctpOut.erase e }
    let s := (List.range 16).foldl (fun s j => s.setReg .HBR_MCTP_OUT 0 j (BitVec.ofNat 64 (leNat ((e.2.drop (8 * j)).take 8)))) s
    let s := (s.setFld .HBR_MCTP_CTL_OUT_LEN 0 0 e.2.length).setFld .HBR_MCTP_CTL_OUT_VALID 0 0 1
    let fresh := s.fld .HBR_EVT_MCTP == 0
    let s := (s.setFld .HBR_EVT_MCTP 0 0 1).hbrInterrupt
    if fresh then s.pldmQueued 0xF0 (leBytes 8 (s.reg .HBR_EVT).toNat) else s

/-- An MCTP message goes out on a binding, in packets (R461). Log entry 52. -/
def State.mctpSend (s : State) (bind dest : Nat) (owner : Bool) (tag : Nat) (msg : List Byte) : State :=
  { s with mctpOut := s.mctpOut ++ mctpPackets bind (storeGet 0 s.mctp.eids bind) dest owner tag msg }.mailboxFill

/-- A PLDM event message of a class goes out on each binding with an endpoint ID (R430, R462). -/
def State.pldmSend (s : State) (cls : Nat) (data : List Byte) : State := (s.pldmQueued cls data).mailboxFill

/-- A PLDM event message for a management event, with the event register as its data (R430, R462). Log entry 52. -/
def State.pldmEvent (s : State) : State := s.pldmSend 0xF0 (leBytes 8 (s.reg .HBR_EVT).toNat)

/-- The management event has been raised: its interrupt, and PLDM event messages (R430, R462). -/
def State.fireHbr (s : State) : State := s.hbrInterrupt.pldmEvent

/-- Arm the management event source (R430). -/
def State.armHbr (s : State) : State :=
  if s.fld .HBR_EVT_ROUTE_EN = 1 then
    let s := { s with hbrArmed := true }
    if (s.reg .HBR_EVT).toNat = 0 then s else s.hbrInterrupt
  else s

/-- Set a bit of HBR_EVT and raise the management event. Log entry 52. -/
def State.hbrEvent (s : State) (f : Fld) : State := (s.setFld f 0 0 1).fireHbr

/-! ## Journal (R456, R457) -/

/-- Request a journal record. A MEM_ERROR record is dropped and counted when the queue of 4,096 is full, or when
the log since the base has reached 32 MiB (R457, R458). -/
def State.journal (s : State) (type : Nat) (payload : List Byte) : State :=
  if type = 0x50 ∧ (4096 ≤ s.jqueue.length ∨ 8192 ≤ s.fld .HBR_JNL_STAT_SINCE_BASE_KIB) then
    (s.satFld .HBR_JNL_STAT_DROPPED 0 0 1).hbrEvent .HBR_EVT_JOURNAL
  else
    let r : JournalRecord := { seq := (s.reg .HBR_JNL_SEQ).toNat, type := type, payload := payload }
    { s with jqueue := s.jqueue ++ [r] }.addFld .HBR_JNL_SEQ_NEXT_SEQ 0 0 1

/-! ## Statuses, functions, grants -/

/-- The code of a completion status (R385). -/
def statusCode : Status → Nat
  | .ok => 0 | .aborted => 1 | .missingUnit => 2 | .nonfinite => 3 | .late => 4 | .uncorrectableMem => 5
  | .linkDown => 6 | .resetInProgress => 7 | .leadLost => 8 | .diverged => 9 | .shoalFull => 10 | .torn => 11
  | .quota => 12 | .keySlotBusy => 13 | .collision => 14

/-- The status of a code; a reserved code reads as ABORTED. -/
def statusOf : Nat → Status
  | 0 => .ok | 1 => .aborted | 2 => .missingUnit | 3 => .nonfinite | 4 => .late | 5 => .uncorrectableMem
  | 6 => .linkDown | 7 => .resetInProgress | 8 => .leadLost | 9 => .diverged | 10 => .shoalFull | 11 => .torn
  | 12 => .quota | 13 => .keySlotBusy | 14 => .collision | _ => .aborted

/-- What the device holds for a function. -/
def State.fnState (s : State) (fn : Nat) : FnState := storeGet {} s.fns fn

/-- Change what the device holds for a function. -/
def State.modFn (s : State) (fn : Nat) (f : FnState → FnState) : State :=
  { s with fns := storeSet {} s.fns fn (f (s.fnState fn)) }

/-- A function is enabled (R400): STATE 2 ENABLED. -/
def State.fnEnabled (s : State) (fn : Nat) : Bool := s.fld .SEC_GRANT_CTL_STATE fn == 2

/-- Functions 1-8, while enabled and before a thermal trip, act through their own control windows (R309, R400, R476). -/
def State.fnLive (s : State) (fn : Nat) : Bool := decide (1 ≤ fn) && decide (fn ≤ 8) && s.fnEnabled fn && !s.pins.tripped

/-- The stacks granted to a function. -/
def State.stacksOf (s : State) (fn : Nat) : Nat := s.fld .SEC_GRANT_RES_STACKS fn

/-- The atolls granted to a function. -/
def State.atollsOf (s : State) (fn : Nat) : Nat := s.fld .SEC_GRANT_ATOLLS_ATOLLS fn

/-- The Jumel ports granted to a function. Log entry 56. -/
def State.portsOf (s : State) (fn : Nat) : Nat := s.fld .SEC_GRANT_PORTS_PORTS fn

/-- The function that holds an atoll; 0 where none does. -/
def State.ownerOfAtoll (s : State) (a : Nat) : Nat :=
  (((List.range 9).drop 1).find? (fun f => s.fld .SEC_GRANT_CTL_STATE f != 0 && bit (s.atollsOf f) a)).getD 0

/-- The function that holds a stack; 0 where none does. -/
def State.ownerOfStack (s : State) (st : Nat) : Nat :=
  (((List.range 9).drop 1).find? (fun f => s.fld .SEC_GRANT_CTL_STATE f != 0 && bit (s.stacksOf f) st)).getD 0

/-- The function that holds a Jumel port; 0 where none does. -/
def State.ownerOfPort (s : State) (p : Nat) : Nat :=
  (((List.range 9).drop 1).find? (fun f => s.fld .SEC_GRANT_CTL_STATE f != 0 && bit (s.portsOf f) p)).getD 0

/-- The mainland 1 GiB ranges granted to a function (R397), as range numbers. -/
def State.rangesOf (s : State) (fn : Nat) : List Nat :=
  (List.range 32).flatMap (fun j => (setBits (s.fld .SEC_GRANT_ML_RANGES fn j) 64).map (fun b => 64 * j + b))

/-- A function's command die (R375). Log entry 56. -/
def State.commandDie (s : State) (fn : Nat) : Nat :=
  match setBits (s.atollsOf fn) 24 with
  | [] => 0
  | a :: _ => a / 6

/-! ## Queues (R376-R380) -/

/-- A queue. -/
def State.queue (s : State) (fn q : Nat) : Queue := storeGet {} s.queues (64 * fn + q)

/-- Set a queue. -/
def State.setQueue (s : State) (fn q : Nat) (v : Queue) : State :=
  { s with queues := storeSet {} s.queues (64 * fn + q) v }

/-- The completion ring has room (R379). -/
def State.ringRoom (s : State) (fn q : Nat) : Bool :=
  (s.fld .SVC_Q_STAT_CPL_TAIL fn q + 2 ^ 32 - s.fld .SVC_Q_CPL_DB_CPL_HEAD fn q) % 2 ^ 32 < 2 ^ s.fld .SVC_Q_CFG_SIZE fn q

/-- A draining queue whose commands have all completed, and whose records are written or find the ring full, passes
to DISABLED (R380). -/
def State.queueDrained (s : State) (fn q : Nat) : State :=
  let v := s.queue fn q
  if s.fld .SVC_Q_STATE_STATE fn q = 2 ∧ v.cmds = [] ∧ (v.cpls = [] ∨ s.ringRoom fn q = false) then
    (s.setQueue fn q {}).setFld .SVC_Q_STATE_STATE fn q 0
  else s

/-- A field of a byte record: `n` bytes at an offset, little-endian. -/
def bytesAt (bs : List Byte) (off n : Nat) : Nat := leNat ((bs.drop off).take n)

/-- A fetched command. -/
def State.command (s : State) (r : CmdRef) : Option Command := (s.queue r.fn r.q).cmds.find? (·.index == r.index)

/-- A command completes: it leaves the queue, and its record waits to be written unless QUIET is set and its status
is OK (R379). -/
def State.completeCommand (s : State) (r : CmdRef) (st : Status) (detail : Nat) (result : List Byte) : State :=
  match s.command r with
  | none => s
  | some c =>
    let v := s.queue r.fn r.q
    let flags := bytesAt c.bytes 1 1
    let cpl : Completion := { index := c.index, opcode := bytesAt c.bytes 0 1, tag := bytesAt c.bytes 4 4, irq := bit flags 1,
                              status := st, detail := detail, result := result }
    let quiet := bit flags 2 && st == .ok
    let s := s.modFn r.fn (fun f => { f with heldCmds := f.heldCmds.filter (· ≠ r), loadsWaiting := f.loadsWaiting.filter (· ≠ r) })
    (s.setQueue r.fn r.q { v with cmds := v.cmds.filter (fun x => x.index ≠ r.index)
                                  cpls := if quiet then v.cpls else v.cpls ++ [cpl] }).queueDrained r.fn r.q

/-- A command starts (R378). -/
def State.startCommand (s : State) (r : CmdRef) : State :=
  let v := s.queue r.fn r.q
  s.setQueue r.fn r.q { v with cmds := v.cmds.map (fun c => if c.index = r.index then { c with started := true } else c) }

/-! ## Control packets (R95, R100) -/

/-- The function an islet works for; 0 where its atoll is not granted. -/
def State.isletFn (s : State) (i : Nat) : Nat := s.ownerOfAtoll (islAtoll i)

/-- The isle die of an end of a control packet: an islet's, or the controllers of die `x - 384`. -/
def packetDie (x : Nat) : Nat := if x < 384 then islDie x else x - 384

/-- Send a control packet; one to another die offers one unit in TC1 (R95, R100). Log entry 62. -/
def State.sendPacket (s : State) (p : Packet) : State :=
  { s with packets := s.packets ++ [p] }.straitOffer (packetDie p.src) (packetDie p.dst) 1 1

/-- Count a unit discarded at a partition's boundary (R50, R98, R103). -/
def State.boundaryDrop (s : State) (fn n : Nat) : State := s.satFld .IMG_BOUNDARY_DROP_DROPS fn 0 n

end Sys2Proof.Machine
end

