-- ==== Sys2Proof/Machine/Ecc.lean ====
section
/-! DEFINITION. The Reed-Solomon codes of device memory: RS(36,32) of HBM sectors and RS(72,64) of mainland units, over
GF(2^8) with x^8 + x^4 + x^3 + x^2 + 1 and the roots α^0, α^1, ... for α = 2 (R220, R221, R229). -/

namespace Sys2Proof.Machine

/-! ## The field (R220) -/

/-- Twice a field element. -/
def gfDouble (a : Nat) : Nat := if a < 128 then 2 * a else (2 * a) ^^^ 0x11D

/-- The product of two field elements. -/
def gfMul (a b : Nat) : Nat :=
  ((List.range 8).foldl (fun (acc : Nat × Nat) i => (if bit b i then acc.1 ^^^ acc.2 else acc.1, gfDouble acc.2)) (0, a)).1

/-- A power of a field element. -/
def gfPow (a : Nat) : Nat → Nat
  | 0 => 1
  | n + 1 => gfMul a (gfPow a n)

/-- The inverse of a field element other than 0. -/
def gfInv (a : Nat) : Nat := gfPow a 254

/-! ## Check symbols (R220) -/

/-- The coefficients of a generator below its leading one, highest power first: the roots α^0 to α^(r-1). -/
def rsGenerator : Nat → List Nat
  | 0 => []
  | r + 1 =>
    let g := rsGenerator r
    let x := gfPow 2 r
    List.zipWith (fun a b => a ^^^ gfMul x b) (g ++ [0]) (1 :: g)

/-- The `r` check symbols of data symbols: the remainder under the generator, the first data symbol being the coefficient of the
highest power (DESIGN CHOICE, log entry 9). -/
def rsCheck (r : Nat) (data : List Nat) : List Nat :=
  data.foldl (fun reg d =>
    let f := d ^^^ reg.headD 0
    List.zipWith (fun a b => a ^^^ gfMul f b) (reg.drop 1 ++ [0]) (rsGenerator r)) (List.replicate r 0)

/-- The `r` syndromes of received symbols: their values at the roots. -/
def rsSyndromes (r : Nat) (symbols : List Nat) : List Nat :=
  (List.range r).map (fun k => symbols.foldl (fun acc x => gfMul acc (gfPow 2 k) ^^^ x) 0)

/-! ## Decoding (R221) -/

/-- The errors in exactly `w` symbols that give the syndromes: power and value. The powers lie below `hi`, falling. -/
def rsFind : Nat → Nat → List Nat → Option (List (Nat × Nat))
  | 0, _, syn => if syn.all (· == 0) then some [] else none
  | w + 1, hi, syn =>
    (List.range hi).findSome? (fun p =>
      let x := gfPow 2 p
      match rsFind w p (List.zipWith (fun a b => a ^^^ gfMul x b) syn.tail syn) with
      | none => none
      | some others =>
        let others := others.map (fun e => (e.1, gfMul e.2 (gfInv (gfPow 2 e.1 ^^^ x))))
        let y := others.foldl (fun acc e => acc ^^^ e.2) (syn.headD 0)
        if y = 0 then none else some ((p, y) :: others))

/-- What the decoder corrects in received symbols: the one error in at most `t` symbols that their syndromes name, as symbol and
value; none where they name no such error. -/
def rsDecode (t : Nat) (symbols : List Nat) : Option (List (Nat × Nat)) :=
  let n := symbols.length
  let syn := rsSyndromes (2 * t) symbols
  ((List.range (t + 1)).findSome? (fun w => rsFind w n syn)).map (fun es => es.map (fun e => (n - 1 - e.1, e.2)))

/-- Symbols with errors added: symbol and value. -/
def rsAdd (symbols : List Nat) (es : List (Nat × Nat)) : List Nat :=
  symbols.mapIdx (fun i x => (es.filter (fun e => e.1 == i)).foldl (fun v e => v ^^^ e.2) x)

end Sys2Proof.Machine
end

