-- ==== Sys2Proof/Machine/Memory.lean ====
section
/-! DEFINITION. Device memory: frames and their places, translation, isle ECC and error records, and how an access
is served by the state of its page (R217-R235, R239). -/

namespace Sys2Proof.Machine

/-! ## Frames (R217, R218) -/

/-- Frames per stack for partitions, which is also the rows of a pseudo-channel (R217). -/
def partRows : Part → Nat
  | .tva768 => 1556480
  | _ => 2080768

/-- The key of a row: stack, pseudo-channel, row address. -/
def rowKey (stack pc row : Nat) : Nat := (stack * 64 + pc) * 2 ^ 21 + row

/-- Where board memory starts among the physical keys. -/
def boardBase : Nat := 2 ^ 45

/-- The physical key of byte `off` of a frame (R218, R229). -/
def frameByte (f : Frame) (off : Nat) : Nat :=
  let n := off / 32
  match f with
  | .spread st row => rowKey st (n % 64) row * 1024 + n / 64 * 32 + off % 32
  | .channel st pc rows => rowKey st pc (rows.getD (n / 32) 0) * 1024 + n % 32 * 32 + off % 32
  | .board p fr => boardBase + p * 2 ^ 37 + fr * 65536 + off

/-- The bytes of an access unit: a 32-byte sector of HBM, a 64-byte unit of board memory. -/
def frameUnit : Frame → Nat
  | .board _ _ => 64
  | _ => 32

/-- The symbols an access unit's code corrects (R221, R229). -/
def frameCorrects : Frame → Nat
  | .board _ _ => 4
  | _ => 2

/-- The symbols of an access unit's codeword (R220, R229). -/
def frameSymbols : Frame → Nat
  | .board _ _ => 72
  | _ => 36

/-- A frame of board memory. -/
def Frame.isBoard : Frame → Bool
  | .board _ _ => true
  | _ => false

/-- The key under which the symbols in error of the unit at a physical key are kept. -/
def errKey (phys : Nat) : Nat := if phys < boardBase then phys / 32 else phys / 64

/-- The rows of a frame, by row key. A row of board memory is 1 KiB of its port's bytes (DESIGN CHOICE, log entry 37). -/
def frameRows : Frame → List Nat
  | .spread st row => (List.range 64).map (fun pc => rowKey st pc row)
  | .channel st pc rows => rows.map (rowKey st pc)
  | .board p fr => (List.range 64).map (fun k => (boardBase + p * 2 ^ 37 + fr * 65536) / 1024 + k)

/-- The rows that are withdrawn with a row of a free frame: its row address in every pseudo-channel, or its board frame. -/
def rowFrame (key : Nat) : List Nat :=
  if key * 1024 < boardBase then (List.range 64).map (fun pc => rowKey (key / 2 ^ 21 / 64) pc (key % 2 ^ 21))
  else (List.range 64).map (fun k => key / 64 * 64 + k)

/-- Every frame in use: of a page, or taken for a page in progress. -/
def State.frames (s : State) : List Frame :=
  s.fns.flatMap (fun e => e.2.segs.flatMap (fun g => g.pages.map Page.frame)) ++
  s.mlPorts.flatMap (fun e =>
    (match e.2.current with | some m => if m.kind = .sweep then [] else [m.target] | none => []) ++
    e.2.promos.map PageMove.target)

/-- Row addresses of a stack taken in pseudo-channel `pc`, or in any pseudo-channel. -/
def State.usedRows (s : State) (taken : List Frame) (stack : Nat) (pc : Option Nat) : List Nat :=
  let rows := (s.frames ++ taken).flatMap (fun f =>
    match f, pc with
    | .spread st r, _ => if st = stack then [r] else []
    | .channel st p rs, some q => if st = stack ∧ p = q then rs else []
    | .channel st _ rs, none => if st = stack then rs else []
    | .board _ _, _ => [])
  let gone := (s.withdrawn.filter (fun k => k / 2 ^ 21 / 64 == stack &&
    (match pc with | some q => k / 2 ^ 21 % 64 == q | none => true))).map (· % 2 ^ 21)
  (rows ++ gone).eraseDups

/-- The first `n` numbers from `lo` up to `hi` that are not in `used`. Log entry 13. -/
def firstFree (used : List Nat) (lo hi n : Nat) : List Nat :=
  (((List.range (used.length + n)).map (· + lo)).filter (fun r => r < hi && !used.contains r)).take n

/-- A free spread frame of a stack: the lowest row address free in all 64 pseudo-channels. Log entry 13. -/
def State.takeSpread (s : State) (taken : List Frame) (stack : Nat) : Option Frame :=
  (firstFree (s.usedRows taken stack none) 0 (partRows s.pkg.part) 1).head?.map (Frame.spread stack)

/-- A free channel-local frame: 64 free rows of one pseudo-channel. Log entry 13. -/
def State.takeChannel (s : State) (taken : List Frame) (stack pc : Nat) : Option Frame :=
  let rows := firstFree (s.usedRows taken stack (some pc)) 0 (partRows s.pkg.part) 64
  if rows.length = 64 then some (.channel stack pc rows) else none

/-- Free spread frames of a stack. -/
def State.freeSpread (s : State) (stack : Nat) : Nat :=
  partRows s.pkg.part - ((s.usedRows [] stack none).filter (· < partRows s.pkg.part)).length

/-- Free rows of a pseudo-channel. -/
def State.freeRows (s : State) (stack pc : Nat) : Nat :=
  partRows s.pkg.part - ((s.usedRows [] stack (some pc)).filter (· < partRows s.pkg.part)).length

/-- Free rows of a function's stacks in units of 64 rows (MEM_POOL.HBM_FREE). -/
def State.hbmFree (s : State) (fn : Nat) : Nat :=
  (((setBits (s.stacksOf fn) 8).map (fun st => ((List.range 64).map (s.freeRows st)).sum)).sum) / 64

/-- The spare rows of a pseudo-channel that are in use or withdrawn: the 1,024 rows above those of the pools (R217, R225). -/
def State.spareUsed (s : State) (stack pc : Nat) : List Nat :=
  (s.usedRows [] stack (some pc)).filter (fun r => decide (partRows s.pkg.part ≤ r) && decide (r < partRows s.pkg.part + 1024))

/-- A mainland port is UP (MEM_ML_PORT_STAT). -/
def State.mlUp (s : State) (p : Nat) : Bool := s.fld .MEM_ML_PORT_STAT_STATE p == 1

/-- Board frames in use on a port, or withdrawn there (R226, R228). -/
def State.usedBoard (s : State) (taken : List Frame) (p : Nat) : List Nat :=
  let gone := (s.withdrawn.filter (fun k => boardBase ≤ k * 1024 && (k * 1024 - boardBase) / 2 ^ 37 == p)).map
    (fun k => (k * 1024 - boardBase) % 2 ^ 37 / 65536)
  ((s.frames ++ taken).filterMap (fun f => match f with | .board q fr => if q = p then some fr else none | _ => none) ++ gone).eraseDups

/-- A free board frame of a function on a port, in its granted ranges (R239). -/
def State.takeBoardOn (s : State) (taken : List Frame) (fn p : Nat) : Option Frame :=
  if s.mlUp p then
    let used := s.usedBoard taken p
    ((s.rangesOf fn).filter (fun r => r / 128 == p)).findSome? (fun r =>
      (firstFree used (r % 128 * 16384) (r % 128 * 16384 + 16384) 1).head?.map (Frame.board p))
  else none

/-- Free board frames of a function on ports that are not DOWN (MEM_POOL.ML_FREE). -/
def State.boardFree (s : State) (fn : Nat) : Nat :=
  ((s.rangesOf fn).map (fun r =>
    if s.mlUp (r / 128) then
      16384 - ((s.usedBoard [] (r / 128)).filter (fun f => f / 16384 == r % 128)).length
    else 0)).sum

/-- The ports that hold a function's ranges, lowest first. Log entry 56. -/
def State.boardPorts (s : State) (fn : Nat) : List Nat := ((s.rangesOf fn).map (· / 128)).eraseDups

/-- The next mainland frame of a function: ports in rotation after the one used last, passing over ports that are
DOWN or full (R239). Log entry 13. -/
def State.takeBoard (s : State) (taken : List Frame) (fn : Nat) (last : Option Nat) : Option Frame :=
  let ports := s.boardPorts fn
  let order := match last with
    | none => ports
    | some l => ports.filter (l < ·) ++ ports.filter (· ≤ l)
  order.findSome? (s.takeBoardOn taken fn)

/-- The HBM frame the `i`-th page of a segment takes: stacks in rotation after the one used last, passing over one without a free
frame; a channel-local page in pseudo-channels in rotation (R239). Log entry 13. -/
def State.takeHbm (s : State) (taken : List Frame) (g : Segment) (i : Nat) (last : Option Nat) : Option Frame :=
  let sts := setBits g.stackSet 8
  if g.channelLocal then
    match sts with
    | st :: _ => s.takeChannel taken st (g.pcFirst + i % max 1 g.pcCount)
    | [] => none
  else
    let order := match last with
      | none => sts
      | some l => sts.filter (l < ·) ++ sts.filter (· ≤ l)
    order.findSome? (s.takeSpread taken)

/-! ## Translation (R231-R233) -/

/-- The base of the reserved range (R231). -/
def reservedBase : Nat := 0xFF00000000000

/-- A segment holds an address. -/
def Segment.holds (g : Segment) (addr : Nat) : Bool := g.base ≤ addr && addr < g.base + g.pages.length * 65536

/-- The segment of a function that maps an address. -/
def State.segmentAt (s : State) (fn addr : Nat) : Option Segment := (s.fnState fn).segs.find? (·.holds addr)

/-- The page entry of an address. -/
def State.pageAt (s : State) (fn addr : Nat) : Option Page :=
  match s.segmentAt fn addr with
  | some g => g.pages[(addr - g.base) / 65536]?
  | none => none

/-- Change the page entry of an address. -/
def State.modPage (s : State) (fn addr : Nat) (f : Page → Page) : State :=
  s.modFn fn (fun st => { st with segs := st.segs.map (fun g =>
    if g.holds addr then { g with pages := g.pages.modify ((addr - g.base) / 65536) f } else g) })

/-- Every address of a range is mapped. -/
def State.mappedRange (s : State) (fn addr pages : Nat) : Bool :=
  (List.range pages).all (fun i => (s.pageAt fn (addr + 65536 * i)).isSome)

/-! ## Error records (R227) -/

/-- Keep an error record: it travels in TC3 from the island that it names to the harbour, into the journal's error history; for a
function's address it stands in MEM_ERR_LAST with its event (R28, R227). Log entry 62. -/
def State.memRecord (s : State) (fn : Nat) (mapped : Bool) (rec : List Byte) : State :=
  let s := (s.straitOffer (leNat ((rec.drop 0x1E).take 1)) 16 3 (unitsOf 32)).journal 0x50 rec
  if mapped ∧ fn ≠ 0 then
    let s := (List.range 4).foldl (fun s j =>
      s.setReg .MEM_ERR_LAST fn j (BitVec.ofNat 64 (leNat ((rec.drop (8 * j)).take 8)))) s
    s.fnEvent fn 1 .MEM_EVT_ERR_EVT fn
  else s

/-- The code of a record's SOURCE. -/
def sourceCode : Source → Nat
  | .islet => 0 | .reef => 1 | .migration => 2 | .scrub => 3 | .staging => 4 | .host => 5

/-- An error record of 32 bytes; `devAddr` none where the sector is unmapped or in the reserve. -/
def State.errorRecord (s : State) (type : Nat) (src : Source) (fn symbols phys : Nat) (devAddr : Option Nat) :
    List Byte :=
  let hbm := phys < boardBase
  let stack := phys / 1024 / 2 ^ 21 / 64
  let port := (phys - boardBase) / 2 ^ 37
  let row := phys / 1024 % 2 ^ 21
  let island := if hbm then stack / 2 else 17
  leBytes 1 type ++ leBytes 1 (sourceCode src) ++ leBytes 1 fn ++ leBytes 1 symbols ++
  leBytes 1 (if hbm then stack else 0x10 + port) ++
  (if hbm then leBytes 1 (phys / 1024 / 2 ^ 21 % 64) ++ leBytes 1 (Config.rowBank row) ++ leBytes 1 0 ++
      leBytes 4 row ++ leBytes 2 (phys / 32 % 32)
   else leBytes 1 (Config.boardPlace phys % 2) ++ leBytes 1 (Config.boardPlace phys / 256) ++ leBytes 1 0 ++
      leBytes 4 (Config.boardPlace phys / 65536) ++ leBytes 2 (Config.boardPlace phys / 2 ^ 48)) ++
  leBytes 2 0 ++ leBytes 8 (devAddr.getD (2 ^ 64 - 1)) ++ leBytes 6 (s.count island) ++ leBytes 1 island ++ leBytes 1 0

/-! ## Degraded rows (R225, R226) -/

/-- A row is in a frame in use. -/
def State.rowInUse (s : State) (key : Nat) : Bool := s.frames.any (fun f => (frameRows f).contains key)

/-- Spare rows that a frame's page can move to, in the frame's own layout (R225). Log entry 37. -/
def State.takeSpare (s : State) (f : Frame) : Option Frame :=
  let lo := partRows s.pkg.part
  match f with
  | .spread st _ => (firstFree (s.usedRows [] st none) lo (lo + 1024) 1).head?.map (Frame.spread st)
  | .channel st pc _ =>
    let rows := firstFree (s.usedRows [] st (some pc)) lo (lo + 1024) 64
    if rows.length = 64 then some (.channel st pc rows) else none
  | .board _ _ => none

/-- MEM_STACK_STAT.SPARE_LEFT shows the fewest free spare rows of any pseudo-channel. Log entry 37. -/
def State.spareStat (s : State) (stack : Nat) : State :=
  let most := ((List.range 64).map (fun pc => (s.spareUsed stack pc).length)).foldl max 0
  s.setFld .MEM_STACK_STAT_SPARE_LEFT stack 0 (1024 - most)

/-- Frames withdrawn in a stack: its withdrawn rows that the pools lose, in frames of 64 rows. Log entry 37. -/
def State.framesWithdrawn (s : State) (stack : Nat) : Nat :=
  ((s.withdrawn.filter (fun k => k / 2 ^ 21 / 64 == stack && decide (k % 2 ^ 21 < partRows s.pkg.part))).length + 63) / 64

/-- MEM_STACK_STAT.WITHDRAWN shows the frames withdrawn. -/
def State.withdrawnStat (s : State) (stack : Nat) : State := s.setFld .MEM_STACK_STAT_WITHDRAWN stack 0 (s.framesWithdrawn stack)

/-- MEM_STACK_STAT shows the frames withdrawn and the spare rows left. -/
def State.rowsStat (s : State) (stack : Nat) : State := (s.withdrawnStat stack).spareStat stack

/-- Withdraw rows from the pools; a row is withdrawn once. Log entry 37. -/
def State.withdraw (s : State) (rows : List Nat) : State :=
  let s := { s with withdrawn := (s.withdrawn ++ rows).eraseDups }
  (List.range 8).foldl (fun s k => if rows.any (fun r => r / 2 ^ 21 / 64 == k) then s.rowsStat k else s) s

/-- A row becomes degraded, of a stack or of a mainland port: recorded, queued for repair, and withdrawn where its frame is free
(R225, R228). Log entry 37. -/
def State.degradeRow (s : State) (src : Source) (fn : Nat) (key : Nat) (devAddr : Option Nat) : State :=
  if s.repairs.contains key then s else
  let hbm := decide (key * 1024 < boardBase)
  let s := { s with repairs := s.repairs ++ [key] }
  let s := if hbm then s.addFld .MEM_STACK_STAT_REPAIRS_PENDING (key / 2 ^ 21 / 64) 0 1 else s
  let s := s.memRecord fn devAddr.isSome (s.errorRecord 6 src fn 0 (key * 1024) devAddr)
  let s := s.journal 0x51 (leBytes 1 0 ++ leBytes 8 key)
  if s.rowInUse key then
    match s.frames.find? (fun f => (frameRows f).contains key) with
    | some f => if hbm = true ∧ s.takeSpare f = none then
        s.memRecord fn devAddr.isSome (s.errorRecord 9 src fn 0 (key * 1024) devAddr) else s
    | none => s
  else s.withdraw ((rowFrame key).filter (fun k => !s.rowInUse k))

/-! ## Isle ECC and the mainland code (R221, R222, R229) -/

/-- A unit is read with a correctable error: counted, and recorded for its row's first and degrading error. Log entry 9. -/
def State.correctedRead (s : State) (src : Source) (fn symbols phys : Nat) (devAddr : Option Nat) : State :=
  let s := if devAddr.isSome ∧ fn ≠ 0 then s.satFld .MEM_ERR_COUNT_CORRECTED fn 0 1 else s
  let hbm := decide (phys < boardBase)
  let key := phys / 1024
  let s := if hbm then s.satFld .MEM_STACK_ERR_CORRECTED (key / 2 ^ 21 / 64) 0 1
    else s.satFld .MEM_ML_PORT_ERR_CORRECTED ((phys - boardBase) / 2 ^ 37) 0 1
  let n := storeGet 0 s.rowErrs key + 1
  let s := { s with rowErrs := storeSet 0 s.rowErrs key n }
  let degrades := decide (max 1 (s.fld .MEM_REPAIR_CFG_ROW_THRESH) ≤ n) && !s.repairs.contains key
  let s := if n = 1 ∨ degrades = true then
      s.memRecord fn devAddr.isSome (s.errorRecord (if hbm then 1 else 3) src fn symbols phys devAddr) else s
  if degrades then s.degradeRow src fn key devAddr else s

/-- A unit is read uncorrectable: counted, recorded, its row degraded. Log entry 9. -/
def State.uncorrectableRead (s : State) (src : Source) (fn phys : Nat) (devAddr : Option Nat) : State :=
  let s := if devAddr.isSome ∧ fn ≠ 0 then s.satFld .MEM_ERR_COUNT_UNCORR fn 0 1 else s
  if phys < boardBase then
    let s := s.satFld .MEM_STACK_ERR_UNCORR (phys / 1024 / 2 ^ 21 / 64) 0 1
    let s := s.memRecord fn devAddr.isSome (s.errorRecord 2 src fn 0xFF phys devAddr)
    s.degradeRow src fn (phys / 1024) devAddr
  else
    let s := s.satFld .MEM_ML_PORT_ERR_UNCORR ((phys - boardBase) / 2 ^ 37) 0 1
    let s := s.memRecord fn devAddr.isSome (s.errorRecord 4 src fn 0xFF phys devAddr)
    s.degradeRow src fn (phys / 1024) devAddr

/-- The errors that stand in the unit at a physical key. -/
def State.unitErrors (s : State) (phys : Nat) : Store Nat := storeGet [] s.bad (errKey phys)

/-- The errors of the unit at a physical key are replaced. -/
def State.setErrors (s : State) (phys : Nat) (es : Store Nat) : State := { s with bad := storeSet [] s.bad (errKey phys) es }

/-- One more symbol of a codeword of `n` symbols is in error: which, and by how much, is a free value (log entry 9). -/
def upsetSymbol (n draw : Nat) (es : Store Nat) : Store Nat :=
  match (List.range n).filter (fun k => storeGet 0 es k == 0) with
  | [] => es
  | k :: ks => storeSet 0 es ((k :: ks).getD (Config.freeNat draw % (ks.length + 1)) k) (1 + Config.freeNat (draw + 1) % 255)

/-- Symbols found in error join those already in the unit at a physical key of a frame. -/
def State.addUpset (s : State) (f : Frame) (phys upset : Nat) : State :=
  if upset = 0 then s
  else
    let n := min upset (frameSymbols f)
    { s.setErrors phys ((List.range n).foldl (fun es i => upsetSymbol (frameSymbols f) (s.freeCtr + 2 * i) es) (s.unitErrors phys))
      with freeCtr := s.freeCtr + 2 * n }

/-- The codeword stored for the unit at a physical key, its errors apart: an HBM sector's bytes with their check symbols. The code
is linear, so that the mainland's unknown ciphertext decodes as zeros do (R220, R229; log entries 9 and 12). -/
def State.unitCode (s : State) (f : Frame) (phys : Nat) : List Nat :=
  if f.isBoard then List.replicate 72 0
  else
    let data := (memRead s.mem phys 32).map BitVec.toNat
    data ++ rsCheck 4 data

/-- What the decoder makes of the unit at a physical key: the errors it corrects, or none where it finds the unit uncorrectable. -/
def State.unitDecoded (s : State) (f : Frame) (phys : Nat) : Option (Store Nat) :=
  let es := s.unitErrors phys
  if es.length ≤ frameCorrects f then some es else rsDecode (frameCorrects f) (rsAdd (s.unitCode f phys) es)

/-- A miscorrection, which is not reported: the unit is taken for another codeword, whose data stands from then on. Mainland data
whose ciphertext changes decrypts to free values, by AES blocks of 16 bytes (R221.3, R229; log entry 9). -/
def State.miscorrect (s : State) (f : Frame) (phys : Nat) (es : List (Nat × Nat)) : State :=
  let wrong := es.filter (fun e => e.1 < frameUnit f)
  let s := s.setErrors phys []
  if f.isBoard then
    let blocks := (wrong.map (fun e => e.1 / 16)).eraseDups
    { s with
      mem := (blocks.flatMap (fun b => (List.range 16).map (fun k => 16 * b + k))).foldl (fun m k =>
        memPut m (phys + k) (BitVec.ofNat 8 (Config.freeNat (s.freeCtr + k)))) s.mem
      freeCtr := s.freeCtr + 64 }
  else
    { s with mem := wrong.foldl (fun m e => memPut m (phys + e.1) (memByte m (phys + e.1) ^^^ BitVec.ofNat 8 e.2)) s.mem }

/-- Decode the unit at a physical key: whether its data is delivered. An error that the code corrects is counted; one beyond it is
found uncorrectable, or miscorrected where another codeword lies within the code's reach (R221; log entry 9). -/
def State.decodeUnit (s : State) (src : Source) (fn : Nat) (f : Frame) (phys : Nat) (devAddr : Option Nat) :
    State × Bool :=
  let es := s.unitErrors phys
  if es = [] then (s, true)
  else if es.length ≤ frameCorrects f then (s.correctedRead src fn es.length phys devAddr, true)
  else match s.unitDecoded f phys with
    | some cs => (s.miscorrect f phys (es ++ cs), true)
    | none => (s.uncorrectableRead src fn phys devAddr, false)

/-- The offsets of the units that `len` bytes at offset `off` of a frame touch. -/
def unitOffsets (f : Frame) (off len : Nat) : List Nat :=
  let u := frameUnit f
  if len = 0 then [] else (List.range ((off + len - 1) / u - off / u + 1)).map (fun k => (off / u + k) * u)

/-- The bytes of a frame. Log entry 6. -/
def State.frameBytes (s : State) (f : Frame) (off len : Nat) : List Byte :=
  (List.range len).map (fun k => memByte s.mem (frameByte f (off + k)))

/-- Store bytes into a frame. -/
def State.putFrame (s : State) (f : Frame) (off : Nat) (bs : List Byte) : State :=
  { s with mem := bs.zipIdx.foldl (fun m e => memPut m (frameByte f (off + e.2)) e.1) s.mem }

/-- Read `len` bytes of a frame, decoding every unit touched. -/
def State.readFrame (s : State) (src : Source) (fn : Nat) (f : Frame) (off len : Nat) (pageAddr : Option Nat) :
    State × Answer :=
  let (s', good) := (unitOffsets f off len).foldl (fun acc u =>
    let (s2, g) := acc.1.decodeUnit src fn f (frameByte f u) (pageAddr.map (· + u))
    (s2, acc.2 && g)) (s, true)
  if good then (s', { status := .ok, data := s'.frameBytes f off len })
  else (s', { status := .uncorrectableMem, data := [] })

/-- Write bytes into a frame, unit by unit: a part of a unit is a read-modify-write, and fails where the unit is
uncorrectable; a whole unit stores a fresh codeword (R222). Log entry 13. -/
def State.writeFrame (s : State) (src : Source) (fn : Nat) (f : Frame) (off : Nat) (bs : List Byte)
    (pageAddr : Option Nat) : State × Status :=
  (unitOffsets f off bs.length).foldl (fun acc u =>
    let (s, st) := acc
    let lo := max u off
    let hi := min (u + frameUnit f) (off + bs.length)
    let part := (bs.drop (lo - off)).take (hi - lo)
    let phys := frameByte f u
    if part.length = frameUnit f then
      ((s.setErrors phys []).putFrame f lo part, st)
    else
      let (s, good) := s.decodeUnit src fn f phys (pageAddr.map (· + u))
      if good then ((s.setErrors phys []).putFrame f lo part, st)
      else (s, .uncorrectableMem)) (s, .ok)

/-- Fill a frame with zero, with fresh codewords. -/
def State.zeroFrame (s : State) (f : Frame) : State :=
  let inFrame (phys : Nat) : Bool := match f with
    | .spread _ _ => (frameRows f).contains (phys / 1024)
    | .channel _ _ _ => (frameRows f).contains (phys / 1024)
    | .board p fr => (boardBase + p * 2 ^ 37 + fr * 65536) ≤ phys && phys < (boardBase + p * 2 ^ 37 + fr * 65536) + 65536
  { s with mem := s.mem.filter (fun e => !inFrame e.1)
           bad := s.bad.filter (fun e => !(if e.1 < 2 ^ 39 then inFrame (e.1 * 32) else inFrame (e.1 * 64))) }

/-- A frame holds an uncorrectable unit. -/
def State.frameUncorrectable (s : State) (f : Frame) : Bool :=
  s.bad.any (fun e => frameCorrects f < e.2.length &&
    (unitOffsets f 0 65536).any (fun u => errKey (frameByte f u) == e.1 && (s.unitDecoded f (frameByte f u)).isNone))

/-! ## Yields of reef units (R265, R266) -/

/-- The leases of running reef operations on a stack. -/
def State.leasesOf (s : State) (stack : Nat) : List Lease := storeGet [] s.leases stack

/-- Ordinary accesses to pseudo-channels of a stack make the running members there yield (R266). -/
def State.yieldsAt (s : State) (stack : Nat) (pcs : List Nat) : State :=
  let ls := s.leasesOf stack
  if ls = [] then s else
  let n := (pcs.filter (fun pc => ls.any (fun l => (l.readRows ++ l.resultRows).any (fun k => k / 2 ^ 21 % 64 == pc)))).length
  if n = 0 then s else s.addFld .REEF_YIELDS_YIELDS stack 0 n

/-- The pseudo-channels that bytes of an HBM frame lie in. -/
def framePcs (f : Frame) (off len : Nat) : List Nat :=
  match f with
  | .channel _ pc _ => [pc]
  | .spread _ _ => ((unitOffsets f off len).map (fun u => u / 32 % 64)).eraseDups
  | .board _ _ => []

/-- The stack of an HBM frame. -/
def Frame.stack : Frame → Nat
  | .spread st _ => st
  | .channel st _ _ => st
  | .board _ _ => 0

/-- A served access to a frame makes the running members of its pseudo-channels yield (R266). -/
def State.noteYields (s : State) (f : Frame) (off len : Nat) : State := s.yieldsAt f.stack (framePcs f off len)

/-- Mark the leases of an operation whose leased rows a write meets (R268). -/
def State.spoilLeases (s : State) (stack : Nat) (rows : List Nat) : State :=
  { s with leases := storeSet [] s.leases stack ((s.leasesOf stack).map (fun l =>
      if rows.any (fun k => l.readRows.contains k || l.resultRows.contains k) then { l with spoiled := true } else l)) }

/-- A page write of the migration engine spoils the operations whose leased rows it meets (R268). -/
def State.spoilFrame (s : State) (f : Frame) : State := if f.isBoard then s else s.spoilLeases f.stack (frameRows f)

/-- The island of a frame's controller. -/
def frameIsland : Frame → Nat
  | .board _ _ => 17
  | .spread st _ => 4 + st
  | .channel st _ _ => 4 + st

/-- Copy a whole frame byte for byte, with fresh codewords at the destination; the migration engine on the mainland die moves the
data in TC0 (R28). Log entry 62. -/
def State.copyFrame (s : State) (src dst : Frame) : State :=
  let s := (s.straitOffer (frameIsland src) 17 0 (unitsOf 65536)).straitOffer 17 (frameIsland dst) 0 (unitsOf 65536)
  let data := (List.range 65536).filterMap (fun k =>
    let b := memByte s.mem (frameByte src k)
    if b = 0 then none else some (k, b))
  let s := ((s.noteYields src 0 65536).noteYields dst 0 65536).zeroFrame dst
  { s with mem := data.foldl (fun m e => memPut m (frameByte dst e.1) e.2) s.mem }

/-- Read every unit of a frame, as a page move does: whether all its data is delivered. -/
def State.readWhole (s : State) (src : Source) (fn : Nat) (f : Frame) (pageAddr : Option Nat) : State × Bool :=
  let errs := s.bad
  (unitOffsets f 0 65536).foldl (fun acc u =>
    if errs.any (fun e => e.1 == errKey (frameByte f u)) then
      let (s2, g) := acc.1.decodeUnit src fn f (frameByte f u) (pageAddr.map (· + u))
      (s2, acc.2 && g)
    else acc) (s, true)

/-! ## Key slots (R411, R412) -/

/-- A function's CURRENT mainland key slot. -/
def State.currentSlot (s : State) (fn : Nat) : Nat := s.fld .SEC_KEY_STAT_CURRENT fn

/-- The page count field of a slot. -/
def slotPages (slot : Nat) : Fld := if slot = 0 then .SEC_KEY_PAGES_PAGES0 else .SEC_KEY_PAGES_PAGES1

/-- The state field of a slot: 0 EMPTY, 1 CURRENT, 2 RETIRING. -/
def slotState (slot : Nat) : Fld := if slot = 0 then .SEC_KEY_STAT_SLOT0 else .SEC_KEY_STAT_SLOT1

/-- A page joins a slot's count (R411). -/
def State.slotAdd (s : State) (fn slot : Nat) : State := s.addFld (slotPages slot) fn 0 1

/-- A RETIRING slot that no page names loses its key and is EMPTY (R413 step 5). -/
def State.slotRetire (s : State) (fn slot : Nat) : State :=
  if s.fld (slotState slot) fn = 2 ∧ s.fld (slotPages slot) fn = 0 then s.setFld (slotState slot) fn 0 0 else s

/-- A page leaves a slot's count. -/
def State.slotSub (s : State) (fn slot : Nat) : State :=
  (s.setFld (slotPages slot) fn 0 (s.fld (slotPages slot) fn - 1)).slotRetire fn slot

/-- 64 KiB have been encrypted under a slot: counted while it is the CURRENT one (SEC_KEY_WRITTEN). -/
def State.slotWritten (s : State) (fn slot : Nat) : State :=
  if slot = s.currentSlot fn then
    let s := s.modFn fn (fun f => { f with keyWritten := f.keyWritten + 1 })
    s.setFld .SEC_KEY_WRITTEN_MIB fn 0 (min ((s.fnState fn).keyWritten / 16) (2 ^ 64 - 1))
  else s

/-- A frame is given back: one with a row queued for repair, or with an uncorrectable unit, is withdrawn (R225, R226, R228).
Log entry 37. -/
def State.frameLeft (s : State) (f : Frame) : State :=
  let s := if (frameRows f).any s.repairs.contains ∨ s.frameUncorrectable f = true then s.withdraw (frameRows f) else s
  if f.isBoard then s else s.spareStat f.stack

/-- A page leaves its frame: a board frame lowers its slot's count. -/
def State.freeFrame (s : State) (fn : Nat) (pg : Page) : State :=
  (if pg.frame.isBoard then s.slotSub fn pg.slot else s).frameLeft pg.frame

/-! ## Serving an access (R219, R232, R233, R266-R268) -/

/-- The row keys an access touches in an HBM frame. -/
def accessRows (f : Frame) (off len : Nat) : List Nat :=
  if f.isBoard then [] else ((unitOffsets f off len).map (fun u => frameByte f u / 1024)).eraseDups

/-- A page has a row leased by a running reef operation (R269). -/
def State.frameLeased (s : State) (f : Frame) : Bool :=
  !f.isBoard && (s.leasesOf f.stack).any (fun l =>
    (frameRows f).any (fun k => l.readRows.contains k || l.resultRows.contains k))

/-- An unmapped access: counted, its address latched (R233). -/
def State.unmapped (s : State) (fn addr : Nat) : State :=
  if fn = 0 then s else
  ((s.satFld .MEM_UNMAPPED_COUNT fn 0 1).setFld .MEM_UNMAPPED_LAST_ADDR fn 0 addr).fnEvent fn 1 .MEM_EVT_UNMAPPED_EVT fn

/-- An access meets a DOWN mainland port: UNCORRECTABLE_MEM with a record of type 0x0A that names the 64-byte unit (R227, R230). -/
def State.portDownRecord (s : State) (src : Source) (fn addr phys : Nat) : State :=
  s.memRecord fn true (s.errorRecord 0xA src fn 0 (phys / 64 * 64) (some (addr / 64 * 64)))

/-- The island where a source's accesses enter for a function: its requesting die, or the command die. -/
def State.sourceIsland (s : State) (a : Access) : Nat :=
  match a.src with
  | .migration => 17
  | .staging => 16
  | .host => 12 + s.adapterPort / 6
  | _ => a.die.getD (s.commandDie a.fn)

/-- The straits on the way of an access from an island to a memory: to a stack always through the controller on its isle die, also
from the harbour (R32). -/
def memWay (src mem : Nat) : List Nat :=
  if src = 16 ∧ 4 ≤ mem ∧ mem < 12 then islandRoute 16 ((mem - 4) / 2) ++ islandRoute ((mem - 4) / 2) mem else islandRoute src mem

/-- A strait on the way of an access has FAILED. -/
def State.memCut (s : State) (src mem : Nat) : Bool := (memWay src mem).any (fun n => s.straitState n == 3)

/-- Change the segment that maps an address. -/
def State.modSegment (s : State) (fn addr : Nat) (f : Segment → Segment) : State :=
  s.modFn fn (fun st => { st with segs := st.segs.map (fun g => if g.holds addr then f g else g) })

/-- Start the promotion of a page into a frame of its segment's stacks: MOVING, queued on its port (R241). -/
def State.startPromotion (s : State) (fn addr : Nat) (byRequest : Bool) (f : Frame) : State :=
  match s.pageAt fn addr with
  | some pg =>
    match pg.frame with
    | .board port _ =>
      let mv : PageMove := { fn := fn, addr := addr / 65536 * 65536, kind := .promote, target := f, byRequest := byRequest }
      let p := storeGet {} s.mlPorts port
      let p' := if p.current = none then { p with current := some mv } else { p with promos := p.promos ++ [mv] }
      { s with mlPorts := storeSet {} s.mlPorts port p' }.modPage fn addr (fun e => { e with moving := true })
    | _ => s
  | none => s

/-- The frame that a write's promotion takes: the pages that writes have promoted in a segment count on (R239). Log entry 13. -/
def State.writeFrame? (s : State) (g : Segment) : Option Frame := s.takeHbm [] g g.promoted g.lastStack

/-- A write starts the promotion of its page into a frame. -/
def State.writePromotes (s : State) (fn addr : Nat) (f : Frame) : State :=
  (s.startPromotion fn addr false f).modSegment fn addr (fun g => { g with promoted := g.promoted + 1, lastStack := some f.stack })

/-- A write accepted for a page in demotion is tracked (R240). -/
def State.trackWrite (s : State) (fn addr : Nat) : State :=
  { s with mlPorts := s.mlPorts.map (fun e =>
      match e.2.current with
      | some m => if m.kind = .demote ∧ m.fn = fn ∧ m.addr = addr / 65536 * 65536
          then (e.1, { e.2 with current := some { m with tracked := true } }) else e
      | none => e) }

/-- Serve an access whose page is mapped, as its page state says: the new state, and the answer unless the access
is held. Log entry 36. -/
def State.memAccess (s : State) (a : Access) (upset : Nat) : State × Option Answer :=
  let deny (s : State) (st : Status) : State × Option Answer := (s, some { status := st })
  match s.segmentAt a.fn a.addr, s.pageAt a.fn a.addr with
  | some g, some pg =>
    let off := a.addr % 65536
    let base := a.addr / 65536 * 65536
    if a.wr.isSome ∧ g.frozen then deny s .aborted
    else if pg.moving then ({ s with held := s.held ++ [a] }, none)
    else match pg.frame with
    | .board port _ =>
      let phys := frameByte pg.frame off
      if s.memCut (s.sourceIsland a) 17 then deny s .aborted
      else if (storeGet {} s.mlPorts port).lost then ({ s with held := s.held ++ [a] }, none)
      else if a.wr.isSome then
        match s.writeFrame? g with
        | none => deny s .quota
        | some t =>
          if s.fld .MEM_STACK_STAT_STATE t.stack = 2 then deny s .aborted
          else
            let s := s.writePromotes a.fn a.addr t
            ({ s with held := s.held ++ [a] }, none)
      else if !s.mlUp port then deny (s.portDownRecord a.src a.fn a.addr phys) .uncorrectableMem
      else
        let (s, ans) := (s.addUpset pg.frame phys upset).readFrame a.src a.fn pg.frame off a.len (some base)
        (s, some ans)
    | f =>
      let st := f.stack
      let rows := accessRows f off a.len
      if s.memCut (s.sourceIsland a) (4 + st) ∨ s.fld .MEM_STACK_STAT_STATE st = 2 then deny s .aborted
      else match a.wr with
      | none =>
        if (s.leasesOf st).any (fun l => rows.any l.resultRows.contains) then
          ({ s with held := s.held ++ [a] }, none)
        else
          let (s, ans) := (s.addUpset f (frameByte f off) upset).readFrame a.src a.fn f off a.len (some base)
          (s, some ans)
      | some bs =>
        let leased := (s.leasesOf st).any (fun l => rows.any (fun k => l.readRows.contains k || l.resultRows.contains k))
        let s := s.trackWrite a.fn a.addr
        let s := s.addUpset f (frameByte f off) upset
        if leased then
          -- R268: the written bytes are unpredictable: each is a free value (log entry 8)
          let s := s.spoilLeases st rows
          let bytes := (List.range a.len).map (fun k => BitVec.ofNat 8 (Config.freeNat (s.freeCtr + k)))
          let s := { s with freeCtr := s.freeCtr + a.len }
          let (s, r) := s.writeFrame a.src a.fn f off bytes (some base)
          (s, some { status := r })
        else
          let (s, r) := s.writeFrame a.src a.fn f off bs (some base)
          (s, some { status := r })
  | _, _ => (s.unmapped a.fn a.addr, some { status := .aborted })

/-- The strait units of an access: the data of a write, or a read's request and its data (R28). Log entry 62. -/
def State.memTraffic (s : State) (src mem : Nat) (write : Bool) (len : Nat) : State :=
  let leg (s : State) (a b : Nat) : State :=
    if write then s.straitOffer a b 0 (unitsOf len) else (s.straitOffer a b 0 1).straitOffer b a 0 (unitsOf len)
  if src = 16 ∧ 4 ≤ mem ∧ mem < 12 then leg (leg s 16 ((mem - 4) / 2)) ((mem - 4) / 2) mem else leg s src mem

/-- Serve an access that reaches its controller, with its traffic and the yields it causes; the second part is its answer unless it
is held (R28, R266). -/
def State.memServe (s : State) (a : Access) (upset : Nat) : State × Option Answer :=
  match s.memAccess a upset, s.pageAt a.fn a.addr with
  | (t, some ans), some pg =>
    (if ans.status = .ok ∨ ans.status = .uncorrectableMem then
      (t.noteYields pg.frame (a.addr % 65536) a.len).memTraffic (s.sourceIsland a) (frameIsland pg.frame) a.wr.isSome a.len
      else t, some ans)
  | r, _ => r

/-- Answer an access on its link: a read as a READ_RSP with its status (R309, R312). -/
def State.answerLink (s : State) (a : Access) (ans : Answer) : State :=
  match a.reply, a.wr with
  | some r, none =>
    let f : Flit := { ftype := 3, sub := statusCode ans.status, dst := r.dst, dfn := r.dfn, sfn := r.sfn, tag := r.tag,
                      len := if ans.status = .ok then (a.len + 31) / 32 else 0, vc := 1, payload := ans.data }
    if r.dst = 0 then s.sendAdapter f else s.sendTo f
  | _, _ => s

/-- Note an access as served. -/
def State.noteServed (s : State) (a : Access) (ans : Answer) : State :=
  { s with served := s.served ++ [{ access := a, answer := ans }] }

/-- The flag-set packet of a reef completion, to an islet of the function; to any other islet it is dropped at the boundary and
counted (R103, R262). -/
def State.reefNotify (s : State) (fn stack islet flag : Nat) : State :=
  if s.isletFn islet = fn then s.sendPacket { src := 384 + stack / 2, dst := islet, kind := .flagSet flag }
  else s.boundaryDrop fn 1

/-- An access ends with an answer: noted, answered on its link, and followed by the packet that waits for it (R262, R309). -/
def State.accessEnds (s : State) (a : Access) (ans : Answer) : State :=
  let s := (s.noteServed a ans).answerLink a ans
  match a.notify with
  | some (stack, islet, flag) => s.reefNotify a.fn stack islet flag
  | none => s

/-- Take an access: serve it, or hold it. -/
def State.takeAccess (s : State) (a : Access) (upset : Nat) : State :=
  match s.memServe a upset with
  | (s, none) => s
  | (s, some ans) => s.accessEnds a ans

/-- An access to the reserved range. -/
def Access.windowed (a : Access) : Bool := reservedBase ≤ a.addr && a.addr < 2 ^ 52

/-- Serve again, in arrival order, the accesses to pages that are held (R232, R267). -/
def State.retryHeld (s : State) : State :=
  (s.held.filter (fun a => !a.windowed)).foldl (fun s a => s.takeAccess a 0) { s with held := s.held.filter Access.windowed }

/-- Complete the held accesses to a page that `p` picks with a status. -/
def State.dropHeld (s : State) (p : Access → Bool) (st : Status) : State :=
  let gone := s.held.filter p
  gone.foldl (fun s a => s.accessEnds a { status := st })
    { s with held := s.held.filter (fun a => !p a) }

/-! ## Reads and writes of the device's own engines -/

/-- The pieces of a range that lie in one page each: address and length. -/
def pagePieces : Nat → Nat → Nat → List (Nat × Nat)
  | 0, _, _ => []
  | fuel + 1, addr, len =>
    if len = 0 then [] else
    let n := min len (65536 - addr % 65536)
    (addr, n) :: pagePieces fuel (addr + n) (len - n)

/-- An access to bytes of a page waits: the page is MOVING, its port retrains, or a read meets leased result rows (R230, R232,
R267). -/
def State.pageWaits (s : State) (pg : Page) (off len : Nat) (write : Bool) : Bool :=
  pg.moving || (match pg.frame with
    | .board port _ => (storeGet {} s.mlPorts port).lost
    | f => !write && (s.leasesOf f.stack).any (fun l => (accessRows f off len).any l.resultRows.contains))

/-- Nothing in a range makes an access wait: an engine's access is served at once. A write to a FROZEN segment is refused at once.
-/
def State.rangeReady (s : State) (fn addr len : Nat) (write : Bool := false) : Bool :=
  (pagePieces (len / 65536 + 2) addr len).all (fun p =>
    match s.segmentAt fn p.1, s.pageAt fn p.1 with
    | some g, some pg => (write && g.frozen) || !s.pageWaits pg (p.1 % 65536) p.2 write
    | _, _ => true)

/-- A range holds leased result rows of a running reef operation: an ordinary read of it waits (R267). -/
def State.rowsLeased (s : State) (fn addr len : Nat) : Bool :=
  (pagePieces (len / 65536 + 2) addr len).any (fun p => (s.pageAt fn p.1).any (fun pg =>
    !pg.frame.isBoard && (s.leasesOf pg.frame.stack).any (fun l => (accessRows pg.frame (p.1 % 65536) p.2).any l.resultRows.contains)))

/-- Before an engine writes a range: a MAINLAND page of a segment that is not FROZEN starts its promotion where a
frame is free (R241). The second part says whether the write can be made now. -/
def State.prepareWrite (s : State) (fn addr len : Nat) : State × Bool :=
  let s := (pagePieces (len / 65536 + 2) addr len).foldl (fun s p =>
    match s.segmentAt fn p.1, s.pageAt fn p.1 with
    | some g, some pg =>
      if pg.frame.isBoard ∧ ¬ pg.moving ∧ ¬ g.frozen ∧ s.pageWaits pg 0 0 true = false then
        match s.writeFrame? g with
        | some t => if s.fld .MEM_STACK_STAT_STATE t.stack = 2 then s else s.writePromotes fn p.1 t
        | none => s
      else s
    | _, _ => s) s
  (s, s.rangeReady fn addr len true)

/-- One piece of an engine's access. A write that must wait is held and lands later. A read that must wait is answered with what the
page holds: nothing writes the page while the engine waits (DESIGN CHOICE, log entry 26). -/
def State.devPiece (s : State) (a : Access) : State × Answer :=
  match s.memServe a 0 with
  | (s, some ans) => (s, ans)
  | (t, none) =>
    match a.wr, s.pageAt a.fn a.addr with
    | none, some pg => s.readFrame a.src a.fn pg.frame (a.addr % 65536) a.len (some (a.addr / 65536 * 65536))
    | _, _ => (t, { status := .ok })

/-- An engine of the device reads a range: data, and the first status that is not OK. -/
def State.devRead (s : State) (src : Source) (fn addr len : Nat) (die : Option Nat := none) : State × Answer :=
  (pagePieces (len / 65536 + 2) addr len).foldl (fun (acc : State × Answer) p =>
    let (s, a) := acc.1.devPiece { fn := fn, src := src, die := die, addr := p.1, len := p.2 }
    if acc.2.status = .ok then
      (s, { status := a.status, data := if a.status = .ok then acc.2.data ++ a.data else [] })
    else (s, acc.2)) (s, { status := .ok, data := [] })

/-- An engine of the device writes a range: the first status that is not OK. -/
def State.devWrite (s : State) (src : Source) (fn addr : Nat) (bs : List Byte) (die : Option Nat := none) : State × Status :=
  (pagePieces (bs.length / 65536 + 2) addr bs.length).foldl (fun (acc : State × Status) p =>
    let (s, a) := acc.1.devPiece { fn := fn, src := src, die := die, addr := p.1, len := p.2,
                                   wr := some ((bs.drop (p.1 - addr)).take p.2) }
    (s, if acc.2 = .ok then a.status else acc.2)) (s, .ok)

end Sys2Proof.Machine
end

