-- ==== Sys2Proof/Machine/Operands.lean ====
section
/-! DEFINITION. Operand forms: the records, descriptors and instruction words that name what a command works on. -/

namespace Sys2Proof.Machine

/-- A two's-complement number of `n` bits. -/
def signedOf (n v : Nat) : Int := if v % 2 ^ n < 2 ^ (n - 1) then (v % 2 ^ n : Int) else (v % 2 ^ n : Int) - 2 ^ n

/-- The `n`-bit two's-complement pattern of an integer. -/
def wrapTo (n : Nat) (v : Int) : Nat := (v % (2 ^ n : Int)).toNat

/-- A signed little-endian field of a record. -/
def signedAt (bs : List Byte) (off n : Nat) : Int := signedOf (8 * n) (bytesAt bs off n)

/-! ## ENTRY, PIPE and SHOAL records (R72, R213, R214) -/

def entryId (e : List Byte) : Nat := bytesAt e 0 2
def entryKind (e : List Byte) : Nat := bytesAt e 2 1
def entrySlot (e : List Byte) : Nat := bytesAt e 3 1
def entryDoneRule (e : List Byte) : Nat := bytesAt e 4 1
def entryAtolls (e : List Byte) : Nat := bytesAt e 8 8 % 2 ^ 24
def entryStacks (e : List Byte) : Nat := bytesAt e 0x10 1
def entryParamOffset (e : List Byte) : Nat := bytesAt e 0x14 4
def entryParamLen (e : List Byte) : Nat := bytesAt e 0x18 2
def entryTimeout (e : List Byte) : Nat := bytesAt e 0x1C 4

/-- The islets of an atoll mask, lowest first. -/
def isletsOf (atolls : Nat) : List Nat := (setBits atolls 24).flatMap (fun a => (List.range 16).map (fun p => 16 * a + p))

/-- The lead island of an atoll mask (R74): the lowest-numbered isle die in it. -/
def leadIsland (atolls : Nat) : Nat := match setBits atolls 24 with
  | [] => 0
  | a :: _ => a / 6

/-- The PIPE header record of a function. -/
def FnState.pipeHeader (f : FnState) : List Byte := (f.pipe.find? (fun r => bytesAt r 0 1 == 0)).getD []

/-- The PIPE stage record of a slot. -/
def FnState.stageRec (f : FnState) (slot : Nat) : Option (List Byte) :=
  f.pipe.find? (fun r => bytesAt r 0 1 == 1 && bytesAt r 1 1 == slot)

/-- The stage slots a function's PIPE section declares. -/
def FnState.stageSlots (f : FnState) : List Nat :=
  (List.range 64).filter (fun k => (f.stageRec k).isSome)

/-- The SHOAL record of a slot. -/
def FnState.shoalRec (f : FnState) (slot : Nat) : Option (List Byte) := f.shoal.find? (fun r => bytesAt r 0 1 == slot)

def pipeNDefault (h : List Byte) : Nat := bytesAt h 8 2
def pipePhaseOffset (h : List Byte) : Nat := bytesAt h 0xC 4
def stageGstage (r : List Byte) : Nat := bytesAt r 2 2
def stagePosMask (r : List Byte) : Nat := bytesAt r 4 2
def stageWarmup (r : List Byte) : Nat := bytesAt r 6 1
def stageRecompute (r : List Byte) : Bool := bit (bytesAt r 7 1) 0
def stageFeed (r : List Byte) : Bool := bit (bytesAt r 7 1) 1
def stageAtolls (r : List Byte) : Nat := bytesAt r 8 8 % 2 ^ 24
def stageSlotOf (r : List Byte) (kind : Nat) : Nat := bytesAt r (0x10 + kind) 1
def stageTimeout (r : List Byte) : Nat := bytesAt r 0x14 4
def stageFeedBytes (r : List Byte) : Nat := bytesAt r 0x18 8

/-- The islets of a stage (R190). -/
def stageIslets (r : List Byte) : List Nat :=
  (isletsOf (stageAtolls r)).filter (fun i => bit (stagePosMask r) (i % 16))

/-- The home island of a stage (R192). -/
def stageHome (r : List Byte) : Nat := match stageIslets r with
  | [] => 0
  | i :: _ => islDie i

def shoalRingBase (r : List Byte) : Nat := bytesAt r 8 8
def shoalRingBytes (r : List Byte) : Nat := bytesAt r 0x10 8
def shoalFrameMax (r : List Byte) : Nat := bytesAt r 0x18 8
def shoalReplayBase (r : List Byte) : Nat := bytesAt r 0x20 8
def shoalReplayBytes (r : List Byte) : Nat := bytesAt r 0x28 8

/-- Two ranges share an address. -/
def rangesMeet (a b : Nat × Nat) : Bool := decide (a.1 < b.1 + b.2) && decide (b.1 < a.1 + a.2)

/-- Every pair of a list meets a test, the earlier first. -/
def allPairs {α : Type} (p : α → α → Bool) : List α → Bool
  | [] => true
  | x :: xs => xs.all (p x) && allPairs p xs

/-- A PIPE header, a stage record and a SHOAL record keep the ranges of their tables (R213, R214). -/
def pipeHeaderLegal (h : List Byte) : Bool :=
  bytesAt h 5 3 == 0 && bytesAt h 0xA 2 == 0 && bytesAt h 0x10 48 == 0 && bytesAt h 1 1 == 0 &&
  1 ≤ bytesAt h 2 2 && bytesAt h 2 2 ≤ 256 && 1 ≤ bytesAt h 4 1 && bytesAt h 4 1 ≤ 64 &&
  1 ≤ pipeNDefault h && pipePhaseOffset h % 32 == 0 && pipePhaseOffset h + 32 ≤ 0x200000
def stageLegal (h p : List Byte) (frameMax : Nat) : Bool :=
  bytesAt p 0x13 1 == 0 && bytesAt p 0x20 32 == 0 && bytesAt p 1 1 < 64 && stageGstage p < bytesAt h 2 2 &&
  1 ≤ stageWarmup p && stageWarmup p ≤ 64 && bytesAt p 7 1 < 4 &&
  bytesAt p 8 8 < 2 ^ 24 && stageSlotOf p 0 < 64 && stageSlotOf p 1 < 64 &&
  (if stageRecompute p then stageSlotOf p 2 < 64 else stageSlotOf p 2 == 0xFF) &&
  (if stageFeed p then stageFeedBytes p % 32 == 0 && stageFeedBytes p < frameMax else stageFeedBytes p == 0)
def shoalLegal (r : List Byte) (recompute : Bool) : Bool :=
  let page (n : Nat) : Bool := n % 65536 == 0
  bytesAt r 1 7 == 0 && bytesAt r 0x30 16 == 0 && bytesAt r 0 1 < 64 && page (shoalRingBase r) && shoalRingBase r < 2 ^ 52 &&
  page (shoalRingBytes r) && 65536 ≤ shoalRingBytes r && shoalRingBytes r ≤ 2 ^ 36 &&
  page (shoalFrameMax r) && 65536 ≤ shoalFrameMax r && shoalFrameMax r ≤ shoalRingBytes r &&
  (if recompute then page (shoalReplayBase r) && page (shoalReplayBytes r) && shoalReplayBytes r ≤ 2 ^ 36
   else shoalReplayBase r == 0 && shoalReplayBytes r == 0)

/-- The PIPE and SHOAL sections of a function are well formed (R215): one header, first, with as many stage records as it says,
one record of each kind for a slot, a SHOAL record for each stage and for no other slot, every field in its range and every
reserved one zero (R213, R214); stages share no islet (R190), rings and replay areas do not meet (R202). Log entry 28. -/
def FnState.pipeLegal (f : FnState) : Bool :=
  let stages := f.pipe.filter (fun r => bytesAt r 0 1 == 1)
  let h := f.pipeHeader
  let areas := f.shoal.flatMap (fun r => [(shoalRingBase r, shoalRingBytes r), (shoalReplayBase r, shoalReplayBytes r)])
  (f.pipe.filter (fun r => bytesAt r 0 1 == 0)).length == 1 && f.pipe.all (fun r => bytesAt r 0 1 ≤ 1) && pipeHeaderLegal h &&
  f.pipe.head?.any (fun r => bytesAt r 0 1 == 0) && bytesAt h 4 1 == stages.length &&
  allPairs (fun a b => bytesAt a 1 1 != bytesAt b 1 1) stages && allPairs (fun a b => bytesAt a 0 1 != bytesAt b 0 1) f.shoal &&
  stages.all (fun p => match f.shoalRec (bytesAt p 1 1) with
    | none => false
    | some r => stageLegal h p (shoalFrameMax r)) &&
  f.shoal.all (fun r => match f.stageRec (bytesAt r 0 1) with
    | none => false
    | some p => shoalLegal r (stageRecompute p)) &&
  allPairs (fun a b => (stageIslets a).all (fun i => !(stageIslets b).contains i)) stages &&
  allPairs (fun a b => !rangesMeet a b) (areas.filter (fun a => a.2 ≠ 0))

/-! ## COPY records (R90, R94) -/

/-- A COPY record. -/
structure Plan where
  kind : Nat
  chain : Bool
  next : Nat
  memAddr : Nat
  spOff : Nat
  spOff2 : Nat
  elem : Nat
  count1 : Nat
  count2 : Nat
  memStride1 : Int
  memStride2 : Int
  spStride1 : Int
  spStride2 : Int
  deriving DecidableEq, Repr

/-- Read a COPY record. -/
def planOf (r : List Byte) : Plan where
  kind := bytesAt r 1 1
  chain := bit (bytesAt r 4 1) 0
  next := bytesAt r 6 2
  memAddr := bytesAt r 8 8
  spOff := bytesAt r 0x10 4
  spOff2 := bytesAt r 0x14 4
  elem := bytesAt r 0x18 4
  count1 := bytesAt r 0x1C 2
  count2 := bytesAt r 0x1E 2
  memStride1 := signedAt r 0x20 8
  memStride2 := signedAt r 0x28 8
  spStride1 := signedAt r 0x30 4
  spStride2 := signedAt r 0x34 4

/-- The 32-byte words a plan moves. -/
def Plan.words (p : Plan) : Nat := p.elem / 32 * p.count1 * p.count2

/-- Inner and outer index, and byte within the inner run, of word `n` (R90). -/
def Plan.index (p : Plan) (n : Nat) : Nat × Nat × Nat :=
  let e := p.elem / 32
  (n / e % p.count1, n / e / p.count1, n % e * 32)

/-- The device address of word `n`. -/
def Plan.memAt (p : Plan) (n : Nat) : Nat :=
  let (i1, i2, w) := p.index n
  wrapTo 64 (p.memAddr + i2 * p.memStride2 + i1 * p.memStride1 + w)

/-- The scratchpad offset of word `n`, from a base offset. -/
def Plan.spAt (p : Plan) (base n : Nat) : Int :=
  let (i1, i2, w) := p.index n
  base + i2 * p.spStride2 + i1 * p.spStride1 + w

/-- The limits of R94, on the fields that the kind uses (R90): a defined kind, lengths and counts in range, all multiples of 32,
offsets within 2 MiB. NEXT keeps its range also where CHAIN is 0, which R94 does not say (DESIGN CHOICE, log entry 28). -/
def Plan.legal (p : Plan) : Bool :=
  let corners (base : Nat) : Bool :=
    [0, p.count1 - 1].all (fun i1 => [0, p.count2 - 1].all (fun i2 =>
      let o : Int := base + i2 * p.spStride2 + i1 * p.spStride1
      0 ≤ o && o + p.elem ≤ 0x200000))
  p.kind ≤ 2 && 32 ≤ p.elem && p.elem ≤ 65536 && p.elem % 32 == 0 && 1 ≤ p.count1 && 1 ≤ p.count2 &&
  p.next < 2048 && p.spOff % 32 == 0 && p.spStride1 % 32 == 0 && p.spStride2 % 32 == 0 &&
  (p.kind == 2 || (p.memAddr < 2 ^ 52 && p.memAddr % 32 == 0 && p.memStride1 % 32 == 0 && p.memStride2 % 32 == 0)) &&
  (p.kind != 2 || p.spOff2 % 32 == 0) && corners p.spOff && (p.kind != 2 || corners p.spOff2)

/-! ## Sequencer instructions (R102) -/

/-- The opcode of an instruction. -/
def insOp (w : Word) : Nat := bits w.toNat 56 8

/-- The event flag an instruction names. -/
def insFlag (w : Word) : Nat := bits w.toNat 24 5

/-! ## Migration requests (R236) -/

def migOp (r : MigReq) : Nat := bits r.w0 0 4
def migTier (r : MigReq) : Nat := bits r.w0 4 1
def migLocal (r : MigReq) : Bool := bit r.w0 5
def migFrozen (r : MigReq) : Bool := bit r.w0 6
def migManifest (r : MigReq) : Bool := bit r.w0 7
def migStacks (r : MigReq) : Nat := bits r.w0 8 8
def migPcFirst (r : MigReq) : Nat := bits r.w0 16 8
def migPcCount (r : MigReq) : Nat := bits r.w0 24 8
def migPages (r : MigReq) : Nat := bits r.w0 32 32

/-! ## MXCFG records (R146, R147) -/

def gangId (g : List Byte) : Nat := bytesAt g 1 1
def gangOrg (g : List Byte) : Nat := bytesAt g 2 1
def gangShape (g : List Byte) : Nat := bytesAt g 3 1
def gangRow0 (g : List Byte) : Nat := bytesAt g 4 1
def gangCol0 (g : List Byte) : Nat := bytesAt g 5 1
def gangRows (g : List Byte) : Nat := bytesAt g 6 1
def gangCols (g : List Byte) : Nat := bytesAt g 7 1

/-- The gang record an islet that none covers acts under: a 1 × 1 systolic gang of SHAPE 0 (R146). -/
def loneGang (pos : Nat) : List Byte :=
  [0, 0, 0, 0, BitVec.ofNat 8 (pos / 4), BitVec.ofNat 8 (pos % 4), 1, 1]

def descOp (d : List Byte) : Nat := bytesAt d 4 1
def descSwap (d : List Byte) : Bool := bit (bytesAt d 5 1) 0
def descAccAdd (d : List Byte) : Bool := bit (bytesAt d 5 1) 1
def descWriteOut (d : List Byte) : Bool := bit (bytesAt d 5 1) 2
def descTranspose (d : List Byte) : Bool := bit (bytesAt d 5 1) 3
def descPartLo (d : List Byte) : Bool := bit (bytesAt d 5 1) 4
def descQuad (d : List Byte) : Nat := bits (bytesAt d 5 1) 5 2
def descFinal (d : List Byte) : Bool := bit (bytesAt d 5 1) 7
def descFmt (d : List Byte) : Nat := bits (bytesAt d 6 1) 0 4
def descOutFmt (d : List Byte) : Nat := bits (bytesAt d 6 1) 4 4
def descRnd (d : List Byte) : Nat := bits (bytesAt d 7 1) 0 3
def descSat (d : List Byte) : Bool := bit (bytesAt d 7 1) 3
def descM (d : List Byte) : Nat := bytesAt d 8 2
def descSlices (d : List Byte) : Nat := bytesAt d 0xA 1
def descSliceIdx (d : List Byte) : Nat := bytesAt d 0xB 1
def descSrc (d : List Byte) : Nat := bytesAt d 0xC 4
def descSrcStride (d : List Byte) : Nat := bytesAt d 0x10 4
def descMask (d : List Byte) : Nat := bytesAt d 0x14 4
def descAccBase (d : List Byte) : Nat := bytesAt d 0x18 4
def descOut (d : List Byte) : Nat := bytesAt d 0x1C 4
def descOutStride (d : List Byte) : Nat := bytesAt d 0x20 4
def descExp (d : List Byte) : Nat := bytesAt d 0x24 4
def descExp2 (d : List Byte) : Nat := bytesAt d 0x28 4
def descSeed (d : List Byte) : Nat := bytesAt d 0x2C 4
def descFlagOff (d : List Byte) : Nat := bytesAt d 0x30 4

/-- No offset (R112, R133, R138). -/
def noOffset : Nat := 0xFFFFFFFF

end Sys2Proof.Machine
end

