-- ==== Sys2Proof/Machine/Flags.lean ====
section
/-! DEFINITION. Operation flags: the 8-bit sets of the matrix array (R111), the vector engine (R180) and the reef units
(R255). -/

namespace Sys2Proof.Machine

/-- A rounding changed a value. -/
def fNX : Nat := 1
/-- A rounded result was tiny and inexact. -/
def fUF : Nat := 2
/-- A rounding overflowed. -/
def fOF : Nat := 4
/-- An invalid operation met operands that are not NaN. -/
def fNV : Nat := 8
/-- A NaN operand was met. -/
def fNI : Nat := 16
/-- An INT32 result wrapped. -/
def fIO : Nat := 32
/-- A division by zero (R180). -/
def fDZ : Nat := 64
/-- A slice-mode element was clamped (R111). -/
def fSR : Nat := 64
/-- A conversion saturated. -/
def fST : Nat := 128

/-- A flag set if a condition holds. -/
def flagIf (b : Bool) (f : Nat) : Nat := if b then f else 0

/-- A value with the flags met on the way to it. -/
abbrev Flagged (α : Type) := α × Nat

/-- Add flags to a value. -/
def Flagged.and {α : Type} (x : Flagged α) (f : Nat) : Flagged α := (x.1, x.2 ||| f)

/-- The OR of the flags of a list of results. -/
def orFlags {α : Type} (xs : List (Flagged α)) : Nat := xs.foldl (fun f x => f ||| x.2) 0

end Sys2Proof.Machine
end

