-- ==== Sys2Proof/Machine/Number.lean ====
section
/-! DEFINITION. Numbers, formats and rounding (R11, R12, R173-R179), and the IEEE operations on them (R164-R166). A value
is exact: a NaN, an infinity, or a signed significand times a power of two. -/

namespace Sys2Proof.Machine

/-- An exact value. `fin neg m e` is `m * 2 ^ e` with its sign; a zero keeps its sign. -/
inductive Num where
  | nan (signalling : Bool)
  | inf (neg : Bool)
  | fin (neg : Bool) (m : Nat) (e : Int)
  deriving DecidableEq, Repr

/-- The value +0. -/
def Num.zero : Num := .fin false 0 0

/-- An integer as a value. -/
def Num.ofInt (v : Int) : Num := .fin (decide (v < 0)) v.natAbs 0

/-- The sign of a value. -/
def Num.neg : Num → Bool
  | .nan _ => false
  | .inf n => n
  | .fin n _ _ => n

/-- A NaN. -/
def Num.isNan : Num → Bool
  | .nan _ => true
  | _ => false

/-- Neither an infinity nor a NaN. -/
def Num.isFinite : Num → Bool
  | .fin _ _ _ => true
  | _ => false

/-- ±0. -/
def Num.isZero : Num → Bool
  | .fin _ 0 _ => true
  | _ => false

/-- A value is true when it is neither ±0 nor NaN (R157). -/
def Num.isTrue (x : Num) : Bool := !x.isNan && !x.isZero

/-- The value with a NaN quiet: the matrix array makes no difference between NaNs (R111). Log entry 29. -/
def Num.quiet : Num → Num
  | .nan _ => .nan false
  | x => x

/-- The value with its sign set. -/
def Num.withSign (n : Bool) : Num → Num
  | .nan s => .nan s
  | .inf _ => .inf n
  | .fin _ m e => .fin n m e

/-- floor(log2 abs x) of a finite non-zero value. -/
def Num.log2 : Num → Int
  | .fin _ m e => e + Nat.log2 m
  | _ => 0

/-! ## Cutting a value at a unit -/

/-- The whole units of `m * 2 ^ e` in units of `2 ^ q`, and the rest as a fraction. -/
def cutAt (m : Nat) (e q : Int) : Nat × Nat × Nat :=
  if q ≤ e then (m * 2 ^ (e - q).toNat, 0, 1)
  else
    let d := 2 ^ (q - e).toNat
    (m / d, m % d, d)

/-- Whether a magnitude between two neighbours goes to the larger one: the rounding code of R12, the sign, the whole
units, the rest of one unit, the 16-bit draw of R178. -/
def roundsUp (mode : Nat) (neg : Bool) (n rest den u : Nat) : Bool :=
  match mode with
  | 0 => den < 2 * rest || (2 * rest == den && n % 2 == 1)
  | 2 => !neg && rest != 0
  | 3 => neg && rest != 0
  | 4 => 65536 ≤ 65536 * rest / den + u
  | _ => false

/-- Round `m * 2 ^ e` to whole units of `2 ^ q`: the units, and whether that changed the value. -/
def roundUnits (mode u : Nat) (neg : Bool) (m : Nat) (e q : Int) : Nat × Bool :=
  let (n, rest, den) := cutAt m e q
  (if roundsUp mode neg n rest den u then n + 1 else n, rest != 0)

/-! ## Formats (R11, R174) -/

/-- A binary floating format: bits of the code, bits of the significand, exponent of the smallest subnormal, the code
of the largest finite magnitude, whether the next code is infinity, the canonical NaN. -/
structure FloatFmt where
  width : Nat
  prec : Nat
  qmin : Int
  maxCode : Nat
  hasInf : Bool
  nan : Nat
  deriving DecidableEq, Repr

def fmtFp64 : FloatFmt := ⟨64, 53, -1074, 0x7FEFFFFFFFFFFFFF, true, 0x7FF8000000000000⟩
def fmtFp32 : FloatFmt := ⟨32, 24, -149, 0x7F7FFFFF, true, 0x7FC00000⟩
def fmtBf16 : FloatFmt := ⟨16, 8, -133, 0x7F7F, true, 0x7FC0⟩
def fmtFp16 : FloatFmt := ⟨16, 11, -24, 0x7BFF, true, 0x7E00⟩
def fmtE4m3 : FloatFmt := ⟨8, 4, -9, 0x7E, false, 0x7F⟩
def fmtE5m2 : FloatFmt := ⟨8, 3, -16, 0x7B, true, 0x7E⟩
def fmtE3m2 : FloatFmt := ⟨6, 3, -4, 0x1F, false, 0⟩
def fmtE2m3 : FloatFmt := ⟨6, 4, -3, 0x1F, false, 0⟩
def fmtE2m1 : FloatFmt := ⟨4, 2, -1, 0x7, false, 0⟩

/-- The floating format of a format code; an MX code gives its element's. -/
def floatFmt (c : Nat) : Option FloatFmt :=
  match c with
  | 0x0 => some fmtFp32
  | 0x1 => some fmtBf16
  | 0x2 => some fmtFp16
  | 0x3 => some fmtE4m3
  | 0x4 => some fmtE5m2
  | 0x5 => some fmtE4m3
  | 0x6 => some fmtE5m2
  | 0x7 => some fmtE3m2
  | 0x8 => some fmtE2m3
  | 0x9 => some fmtE2m1
  | 0xE => some fmtFp64
  | _ => none

/-- Width and signedness of an integer format. -/
def intFmt (c : Nat) : Option (Nat × Bool) :=
  match c with
  | 0xA => some (8, true)
  | 0xB => some (8, false)
  | 0xC => some (16, true)
  | 0xD => some (32, true)
  | _ => none

/-- The MX formats (R11). -/
def fmtIsMx (c : Nat) : Bool := 5 ≤ c && c ≤ 9

/-- The bits of an element of a format; 0 for the reserved code. -/
def fmtBits (c : Nat) : Nat :=
  match floatFmt c, intFmt c with
  | some f, _ => f.width
  | none, some (w, _) => w
  | none, none => 0

/-- The chain types (R148). -/
def isChainType (c : Nat) : Bool := c == 0xE || c == 0x0 || c == 0x1 || c == 0x2 || c == 0xD

/-- The exponent of the largest finite element of an MX format (R176). -/
def mxEmax (c : Nat) : Int :=
  match c with
  | 0x5 => 8
  | 0x6 => 15
  | 0x7 => 4
  | _ => 2

/-- The value of a code of a floating format. -/
def FloatFmt.decode (f : FloatFmt) (code : Nat) : Num :=
  let neg := code.testBit (f.width - 1)
  let mag := code % 2 ^ (f.width - 1)
  if f.maxCode < mag then
    if f.hasInf && mag == f.maxCode + 1 then .inf neg
    else .nan (f.hasInf && !mag.testBit (f.prec - 2))
  else
    let ex := mag / 2 ^ (f.prec - 1)
    let fr := mag % 2 ^ (f.prec - 1)
    if ex = 0 then .fin neg fr f.qmin else .fin neg (2 ^ (f.prec - 1) + fr) (f.qmin + (ex - 1))

/-- The value of a code of a format. -/
def decodeNum (c code : Nat) : Num :=
  match floatFmt c, intFmt c with
  | some f, _ => f.decode code
  | none, some (w, true) => .ofInt (signedOf w code)
  | none, some (w, false) => .ofInt (code % 2 ^ w)
  | none, none => .zero

/-- A code with its sign bit. -/
def FloatFmt.signed (f : FloatFmt) (neg : Bool) (mag : Nat) : Nat := natOf neg * 2 ^ (f.width - 1) + mag

/-- Round a finite magnitude as if the exponent had no upper bound: the magnitude code, whether the value changed, and
whether the result is tiny, judged after rounding (R165). -/
def FloatFmt.roundMag (f : FloatFmt) (mode u : Nat) (neg : Bool) (m : Nat) (e : Int) : Nat × Bool × Bool :=
  if m = 0 then (0, false, false)
  else
    let top := e + Nat.log2 m
    let free := top - (f.prec - 1)
    let q := max free f.qmin
    let (n, inexact) := roundUnits mode u neg m e q
    let emin := f.qmin + (f.prec - 1)
    let tiny := decide (top < emin) &&
      !(decide (top + 1 = emin) && (roundUnits mode u neg m e free).1 == 2 ^ f.prec)
    ((q - f.qmin).toNat * 2 ^ (f.prec - 1) + n, inexact, tiny)

/-- The overflow of R175 for a finite source. -/
def FloatFmt.overflow (f : FloatFmt) (mode : Nat) (sat neg : Bool) : Flagged Nat :=
  if f.hasInf && !sat then
    let toMax := mode == 1 || (mode == 2 && neg) || (mode == 3 && !neg)
    (f.signed neg (if toMax then f.maxCode else f.maxCode + 1), fNX ||| fOF)
  else (f.signed neg f.maxCode, fNX ||| fST)

/-- The conversion of a finite value to a floating format: one rounding (R173, R175, R178). -/
def FloatFmt.roundFinite (f : FloatFmt) (mode u : Nat) (sat neg : Bool) (m : Nat) (e : Int) : Flagged Nat :=
  let (code, inexact, tiny) := f.roundMag mode u neg m e
  let (down, _, _) := f.roundMag 1 u neg m e
  if mode = 4 ∧ (f.maxCode < down ∨ (f.maxCode = down ∧ inexact)) then
    if f.maxCode < (f.roundMag 0 u neg m e).1 then f.overflow mode sat neg else (f.signed neg f.maxCode, fNX)
  else if f.maxCode < code then f.overflow mode sat neg
  else (f.signed neg code, flagIf inexact fNX ||| flagIf (inexact && tiny) fUF)

/-- The conversion of any value to a floating format (R175). An MX format without a NaN answers 0 for a value that makes
its block's scale 0xFF. Log entry 29. -/
def FloatFmt.round (f : FloatFmt) (mode u : Nat) (sat : Bool) (x : Num) : Flagged Nat :=
  match x with
  | .nan s => (f.nan, fNI ||| flagIf s fNV)
  | .inf neg =>
    if f.hasInf then (f.signed neg (f.maxCode + 1), 0)
    else if sat then (f.signed neg f.maxCode, fST)
    else (f.nan, fNV)
  | .fin neg m e => f.roundFinite mode u sat neg m e

/-- The conversion of any value to an integer format: rounding to an integral value first, then the range (R173, R175).
A narrowing of an integer source saturates with ST alone. Stochastic rounding beyond the largest value of the source's
sign is to nearest even, without a draw (R178). Log entry 29. -/
def roundInt (w : Nat) (signed fromInt : Bool) (mode u : Nat) (x : Num) : Flagged Nat :=
  let lo : Int := if signed then -(2 ^ (w - 1)) else 0
  let hi : Int := if signed then 2 ^ (w - 1) - 1 else 2 ^ w - 1
  match x with
  | .nan _ => (0, fNV ||| fST)
  | .inf neg => (wrapTo w (if neg then lo else hi), fNV ||| fST)
  | .fin neg m e =>
    let (floor, beyond) := roundUnits 1 0 neg m e 0
    let top := if neg then lo.natAbs else hi.natAbs
    let mode := if mode = 4 ∧ (top < floor ∨ (top = floor ∧ beyond = true)) then 0 else mode
    let (n, inexact) := roundUnits mode u neg m e 0
    let v : Int := if neg then -n else n
    let nx := flagIf inexact fNX
    let out := fST ||| flagIf (!fromInt) fNV
    if v < lo then (wrapTo w lo, nx ||| out)
    else if hi < v then (wrapTo w hi, nx ||| out)
    else (wrapTo w v, nx)

/-- The conversion of a value to a format that is not an MX format. Log entry 29. -/
def convertNum (dst : Nat) (fromInt : Bool) (mode u : Nat) (sat : Bool) (x : Num) : Flagged Nat :=
  match floatFmt dst, intFmt dst with
  | some f, _ => f.round mode u sat x
  | none, some (w, sg) => roundInt w sg fromInt mode u x
  | none, none => (0, 0)

/-! ## MX blocks (R174, R176) -/

/-- The value of an element of a block: a scale of 0xFF makes it NaN. -/
def mxValue (c scale code : Nat) : Num :=
  if scale = 0xFF then .nan false
  else match decodeNum c code with
    | .fin neg m e => .fin neg m (e + (scale : Int) - 127)
    | x => x

/-- Whether an element forces its block's scale to 0xFF (R175). -/
def mxForces (c : Nat) (sat : Bool) : Num → Bool
  | .nan _ => 7 ≤ c
  | .inf _ => 7 ≤ c && !sat
  | .fin _ _ _ => false

/-- The largest exponent of a block's finite non-zero elements. -/
def mxTop (xs : List Num) : Option Int :=
  xs.foldl (fun t x => match x, t with
    | .fin _ 0 _, t => t
    | .fin n m e, none => some (Num.log2 (.fin n m e))
    | .fin n m e, some v => some (max v (Num.log2 (.fin n m e)))
    | _, t => t) none

/-- The exponent of a block (R176). -/
def mxExp (c : Nat) (xs : List Num) : Int :=
  match mxTop xs with
  | none => -127
  | some t => max (-127) (min 127 (t - mxEmax c))

/-- The conversion of a block to an MX format: the scale byte, the element codes and the flags. The elements come with
their draws. Log entry 29. -/
def mxBlock (c mode : Nat) (sat : Bool) (xs : List (Num × Nat)) : Nat × List Nat × Nat :=
  if (xs.any (fun x => mxForces c sat x.1)) then
    let fl := xs.foldl (fun f x => match x.1 with
      | .nan s => f ||| fNI ||| flagIf s fNV
      | .inf _ => if sat then f else f ||| fNV
      | _ => f) 0
    (0xFF, xs.map (fun _ => 0), fl)
  else
    let X := mxExp c (xs.map Prod.fst)
    let f := (floatFmt c).getD fmtE4m3
    let rs := xs.map (fun x => match x.1 with
      | .fin neg m e => f.round mode x.2 sat (.fin neg m (e - X))
      | y => f.round mode x.2 sat y)
    ((X + 127).toNat, rs.map Prod.fst, orFlags rs)

/-! ## Stochastic draws (R178, R179) -/

/-- The mixing function of R178. -/
def srMix (z : Word) : Word :=
  let z := z + 0x9e3779b97f4a7c15
  let z := (z ^^^ (z >>> 30)) * 0xbf58476d1ce4e5b9
  let z := (z ^^^ (z >>> 27)) * 0x94d049bb133111eb
  z ^^^ (z >>> 31)

/-- The 16-bit draw of R178. -/
def srDraw (seed point gcol row col : Nat) : Nat :=
  let k : Word := (BitVec.ofNat 64 seed <<< 32) ||| (BitVec.ofNat 64 point <<< 16) ||| BitVec.ofNat 64 gcol
  let rc : Word := (BitVec.ofNat 64 (row % 2 ^ 32) <<< 32) ||| BitVec.ofNat 64 (col % 2 ^ 32)
  (srMix (srMix k ^^^ rc)).toNat % 65536

/-! ## Exact arithmetic on values -/

/-- What an operation whose operands include a NaN answers: a NaN with NI, and NV for a signalling one. -/
def nanResult (xs : List Num) : Flagged Num :=
  (.nan false, fNI ||| flagIf (xs.any (fun x => x == .nan true)) fNV)

/-- The exact product. -/
def mulNum (a b : Num) : Flagged Num :=
  match a, b with
  | .nan _, _ => nanResult [a, b]
  | _, .nan _ => nanResult [a, b]
  | .inf n, y => if y.isZero then (.nan false, fNV) else (.inf (n != y.neg), 0)
  | x, .inf n => if x.isZero then (.nan false, fNV) else (.inf (x.neg != n), 0)
  | .fin n m e, .fin n' m' e' => (.fin (n != n') (m * m') (e + e'), 0)

/-- The signed significand at an exponent not above the value's own. -/
def sigAt (neg : Bool) (m : Nat) (e q : Int) : Int :=
  let v : Int := m * 2 ^ (e - q).toNat
  if neg then -v else v

/-- The exact sum; a zero sum of unlike signs is +0, or −0 toward −∞. -/
def addNum (mode : Nat) (a b : Num) : Flagged Num :=
  match a, b with
  | .nan _, _ => nanResult [a, b]
  | _, .nan _ => nanResult [a, b]
  | .inf n, .inf n' => if n = n' then (.inf n, 0) else (.nan false, fNV)
  | .inf n, _ => (.inf n, 0)
  | _, .inf n => (.inf n, 0)
  | .fin n m e, .fin n' m' e' =>
    if m = 0 ∧ m' = 0 then (.fin (if n = n' then n else mode == 3) 0 0, 0)
    else if m = 0 then (.fin n' m' e', 0)
    else if m' = 0 then (.fin n m e, 0)
    else
      let q := min e e'
      let v := sigAt n m e q + sigAt n' m' e' q
      if v = 0 then (.fin (mode == 3) 0 0, 0) else (.fin (decide (v < 0)) v.natAbs q, 0)

/-- The negation. -/
def negNum : Num → Num
  | .nan s => .nan s
  | .inf n => .inf (!n)
  | .fin n m e => .fin (!n) m e

/-- The exact `a * b + c`. -/
def fmaNum (mode : Nat) (a b c : Num) : Flagged Num :=
  if a.isNan || b.isNan || c.isNan then nanResult [a, b, c]
  else
    let (p, f) := mulNum a b
    if f ≠ 0 then (p, f) else addNum mode p c

/-- `a / b`, as a significand of at least 100 bits whose last bit stands for the rest. -/
def divNum (a b : Num) : Flagged Num :=
  match a, b with
  | .nan _, _ => nanResult [a, b]
  | _, .nan _ => nanResult [a, b]
  | .inf _, .inf _ => (.nan false, fNV)
  | .inf n, y => (.inf (n != y.neg), 0)
  | x, .inf n => (.fin (x.neg != n) 0 0, 0)
  | .fin n m e, .fin n' m' e' =>
    if m' = 0 then (if m = 0 then (.nan false, fNV) else (.inf (n != n'), fDZ))
    else if m = 0 then (.fin (n != n') 0 0, 0)
    else
      let k := 100 + Nat.log2 m' - Nat.log2 m
      let q := m * 2 ^ k / m'
      let r := m * 2 ^ k % m'
      (.fin (n != n') (2 * q + natOf (r != 0)) (e - e' - k - 1), 0)

/-- The integer square root, bit by bit. -/
def isqrtFrom : Nat → Nat → Nat → Nat
  | 0, _, r => r
  | k + 1, n, r =>
    let r' := r + 2 ^ k
    isqrtFrom k n (if r' * r' ≤ n then r' else r)

/-- floor(√n). -/
def isqrt (n : Nat) : Nat := isqrtFrom (Nat.log2 n / 2 + 1) n 0

/-- √a, in the same way. -/
def sqrtNum (a : Num) : Flagged Num :=
  match a with
  | .nan _ => nanResult [a]
  | .inf true => (.nan false, fNV)
  | .inf false => (.inf false, 0)
  | .fin n 0 e => (.fin n 0 e, 0)
  | .fin true _ _ => (.nan false, fNV)
  | .fin false m e =>
    let k := 200 - Nat.log2 m
    let k := if (e - k) % 2 = 0 then k else k + 1
    let v := m * 2 ^ k
    let r := isqrt v
    (.fin false (2 * r + natOf (r * r != v)) ((e - k) / 2 - 1), 0)

/-- 1 / √a, in the same way. -/
def rsqrtNum (a : Num) : Flagged Num :=
  match a with
  | .nan _ => nanResult [a]
  | .inf true => (.nan false, fNV)
  | .inf false => (.zero, 0)
  | .fin n 0 _ => (.inf n, fDZ)
  | .fin true _ _ => (.nan false, fNV)
  | .fin false m e =>
    let e' := if e % 2 = 0 then e else e - 1
    let m' := if e % 2 = 0 then m else 2 * m
    let K := 200 + Nat.log2 m'
    let r := isqrt (2 ^ (2 * K) / m')
    (.fin false (2 * r + natOf (r * r * m' != 2 ^ (2 * K))) (-(K : Int) - e' / 2 - 1), 0)

/-- The comparison of two values that are not NaN: −1, 0 or 1; ±0 are equal. -/
def cmpNum (a b : Num) : Int :=
  match a, b with
  | .inf n, .inf n' => if n = n' then 0 else if n then -1 else 1
  | .inf n, _ => if n then -1 else 1
  | _, .inf n => if n then 1 else -1
  | .fin n m e, .fin n' m' e' =>
    let q := min e e'
    Int.sign (sigAt n m e q - sigAt n' m' e' q)
  | _, _ => 0

/-- `a` is the smaller for minimum and maximum, where −0 lies below +0. -/
def beforeNum (a b : Num) : Bool :=
  match cmpNum a b with
  | 0 => a.neg && !b.neg
  | c => decide (c < 0)

/-- IEEE 754 minimum, or maximum; a NaN operand gives NaN. -/
def extremeNum (larger : Bool) (a b : Num) : Flagged Num :=
  if a.isNan || b.isNan then nanResult [a, b]
  else if beforeNum a b then (if larger then b else a, 0) else (if larger then a else b, 0)

/-- IEEE 754 minimumNumber, or maximumNumber; a NaN operand is ignored, with NI. Log entry 29. -/
def extremeNumber (larger : Bool) (a b : Num) : Flagged Num :=
  match a.isNan, b.isNan with
  | false, false => extremeNum larger a b
  | true, false => (b, (nanResult [a]).2)
  | false, true => (a, (nanResult [b]).2)
  | true, true => nanResult [a, b]

/-- Round to an integral value under a mode: whether that changed it (R164). -/
def integralNum (mode u : Nat) (a : Num) : Num × Bool :=
  match a with
  | .fin n m e => let (v, x) := roundUnits mode u n m e 0; (.fin n v 0, x)
  | x => (x, false)

/-- trunc of a finite value as an integer, held within ±2^20. -/
def truncInt (a : Num) : Int :=
  match a with
  | .fin n m e =>
    if 20 < e + Nat.log2 m ∧ m ≠ 0 then (if n then -(2 ^ 20) else 2 ^ 20)
    else sigAt n (roundUnits 1 0 n m e 0).1 0 0
  | _ => 0

/-- The last bit of an exact value far below any rounding unit, and far above any finite value. -/
def farExp : Int := 2 ^ 14

/-- `a * 2 ^ trunc b` before its rounding (R164). -/
def scalebNum (a b : Num) : Flagged Num :=
  if a.isNan || b.isNan then nanResult [a, b]
  else match b, a with
    | .inf false, .fin n m _ => if m = 0 then (.nan false, fNV) else (.fin n 1 farExp, 0)
    | .inf true, .inf _ => (.nan false, fNV)
    | .inf true, .fin n m e => if m = 0 then (.fin n m e, 0) else (.fin n 1 (-farExp), 0)
    | .inf false, x => (x, 0)
    | y, .fin n m e =>
      let k := max (-farExp) (min farExp (truncInt y))
      (.fin n m (e + k), 0)
    | _, x => (x, 0)

/-- floor(log2 abs a) (R164). -/
def logbNum (a : Num) : Flagged Num :=
  match a with
  | .nan _ => nanResult [a]
  | .inf _ => (.inf false, 0)
  | .fin _ 0 _ => (.inf true, fDZ)
  | .fin n m e => (.ofInt (Num.log2 (.fin n m e)), 0)

/-! ## FP32 and FP64 arithmetic to nearest even -/

/-- Round to FP32 to nearest even. -/
def roundFp32 (x : Num) : Flagged Nat := fmtFp32.round 0 0 false x

/-- Round to FP64 to nearest even. -/
def roundFp64 (x : Num) : Flagged Nat := fmtFp64.round 0 0 false x

/-- An operation's exact result rounded into a format, with the flags of both; a NaN result takes no further NI. -/
def finishNum (f : FloatFmt) (mode u : Nat) (sat : Bool) (x : Flagged Num) : Flagged Nat :=
  match x.1 with
  | .nan _ => (f.nan, x.2)
  | .inf neg => (f.signed neg (f.maxCode + 1), x.2)
  | y => (f.round mode u sat y).and x.2

/-- An FP32 operation on codes, one rounding to nearest even. -/
def fp32Add (a b : Nat) : Flagged Nat := finishNum fmtFp32 0 0 false (addNum 0 (fmtFp32.decode a) (fmtFp32.decode b))
def fp32Mul (a b : Nat) : Flagged Nat := finishNum fmtFp32 0 0 false (mulNum (fmtFp32.decode a) (fmtFp32.decode b))
def fp32Fma (a b c : Nat) : Flagged Nat :=
  finishNum fmtFp32 0 0 false (fmaNum 0 (fmtFp32.decode a) (fmtFp32.decode b) (fmtFp32.decode c))
def fp32Div (a b : Nat) : Flagged Nat := finishNum fmtFp32 0 0 false (divNum (fmtFp32.decode a) (fmtFp32.decode b))
def fp32Sqrt (a : Nat) : Flagged Nat := finishNum fmtFp32 0 0 false (sqrtNum (fmtFp32.decode a))

/-- An FP64 operation on codes, one rounding to nearest even. -/
def fp64Add (a b : Nat) : Flagged Nat := finishNum fmtFp64 0 0 false (addNum 0 (fmtFp64.decode a) (fmtFp64.decode b))
def fp64Mul (a b : Nat) : Flagged Nat := finishNum fmtFp64 0 0 false (mulNum (fmtFp64.decode a) (fmtFp64.decode b))
def fp64Sub (a b : Nat) : Flagged Nat := finishNum fmtFp64 0 0 false (addNum 0 (fmtFp64.decode a) (negNum (fmtFp64.decode b)))
def fp64Div (a b : Nat) : Flagged Nat := finishNum fmtFp64 0 0 false (divNum (fmtFp64.decode a) (fmtFp64.decode b))
def fp64Sqrt (a : Nat) : Flagged Nat := finishNum fmtFp64 0 0 false (sqrtNum (fmtFp64.decode a))

end Sys2Proof.Machine
end

