-- ==== Sys2Proof/Machine/Elementary.lean ====
section
/-! DEFINITION. The correctly rounded elementary functions of R164 and R165 (EXP to RSQRT). A value is bracketed in
fixed point at rising precision until its leading bits are settled; what the last precision leaves open is a free value
(log entry 21). -/

namespace Sys2Proof.Machine

/-- A bracket: the value lies between `lo * 2 ^ ex` and `hi * 2 ^ ex`. -/
structure Bracket where
  lo : Int
  hi : Int
  ex : Int
  deriving DecidableEq, Repr

/-- A fixed-point approximation within `2 ^ slack` units of its last place. -/
def bracketOf (v : Int) (slack : Nat) (ex : Int) : Bracket := ⟨v - 2 ^ slack, v + 2 ^ slack, ex⟩

/-- The product of two fixed-point numbers with `W` fraction bits. -/
def fixMul (W : Nat) (a b : Int) : Int := a * b / 2 ^ W

/-- A finite value in fixed point. -/
def fixOf (W : Nat) (neg : Bool) (m : Nat) (e : Int) : Int :=
  let v : Int := (cutAt m e (-(W : Int))).1
  if neg then -v else v

/-- Σ from a term on, where the next term is the last times `r` over `k + 1`, the step `k` growing by one. -/
def expSeries (W : Nat) (x : Int) : Nat → Nat → Int → Int → Int
  | 0, _, _, sum => sum
  | fuel + 1, k, t, sum =>
    if t.natAbs ≤ 1 ∧ k ≠ 0 then sum + t
    else expSeries W x fuel (k + 1) (fixMul W t x / (k + 1)) (sum + t)

/-- ln 2 in fixed point. -/
def fixLn2 (W : Nat) : Int := ((List.range W).foldl (fun a k => a + 2 ^ W / ((k + 1) * 2 ^ (k + 1))) 0 : Nat)

/-- atan (1 / n) in fixed point. -/
def fixAtanInv (W n : Nat) : Int :=
  (List.range W).foldl (fun (a : Int) j =>
    let t : Int := (2 ^ W / ((2 * j + 1) * n ^ (2 * j + 1)) : Nat)
    if j % 2 = 0 then a + t else a - t) 0

/-- π in fixed point. -/
def fixPi (W : Nat) : Int := 16 * fixAtanInv W 5 - 4 * fixAtanInv W 239

/-- e^x for a fixed-point x: a significand near 1 and a power of two. -/
def fixExp (W : Nat) (x : Int) : Int × Int :=
  let l := fixLn2 W
  let k := x / l
  (expSeries W (x - k * l) (2 * W) 0 (2 ^ W) 0, k)

/-- Σ z^(2j+1) / (2j+1). -/
def atanhSeries (W : Nat) (z2 : Int) : Nat → Nat → Int → Int → Int
  | 0, _, _, sum => sum
  | fuel + 1, j, t, sum => atanhSeries W z2 fuel (j + 1) (fixMul W t z2) (sum + t / (2 * j + 1))

/-- ln of a significand in [1, 2) scaled into (2/3, 4/3], in fixed point, and the power of two left over. -/
def fixLogParts (W m : Nat) (e : Int) : Int × Int :=
  let L := Nat.log2 m
  let high := 4 * 2 ^ L < 3 * m
  let d := if high then L + 1 else L
  let z : Int := ((m : Int) - 2 ^ d) * 2 ^ W / (m + 2 ^ d)
  (2 * atanhSeries W (fixMul W z z) W 0 z 0, e + d)

/-- Σ of the alternating series of sine (from `k = 1`) or cosine (from `k = 0`). -/
def trigSeries (W : Nat) (x2 : Int) : Nat → Nat → Int → Int → Int
  | 0, _, _, sum => sum
  | fuel + 1, k, t, sum => trigSeries W x2 fuel (k + 2) (-(fixMul W t x2 / ((k + 1) * (k + 2)))) (sum + t)

/-- sine, or cosine, of a fixed-point angle. -/
def fixTrig (W : Nat) (cosine : Bool) (x : Int) : Int :=
  let h := fixPi W / 2
  let k := x / h
  let r := x - k * h
  let q := (k + if cosine then 1 else 0) % 4
  let r2 := fixMul W r r
  let sn := trigSeries W r2 W 1 r 0
  let cs := trigSeries W r2 W 0 (2 ^ W) 0
  if q = 0 then sn else if q = 1 then cs else if q = 2 then -sn else -cs

/-- Σ of the series of erf before its factor: each term is the last times 2x² / (2n + 3). -/
def erfSeries (W : Nat) (x2 : Int) : Nat → Nat → Int → Int → Int
  | 0, _, _, sum => sum
  | fuel + 1, n, t, sum => erfSeries W x2 fuel (n + 1) (2 * fixMul W t x2 / (2 * n + 3)) (sum + t)

/-- The operations of this file (R164). -/
inductive ElemOp where
  | exp | exp2 | log | log2 | sin | cos | tanh | sigmoid | erf
  deriving DecidableEq, Repr

/-- The code of an operation in a draw of the free tail. -/
def elemCode : ElemOp → Nat
  | .exp => 0x30 | .exp2 => 0x31 | .log => 0x32 | .log2 => 0x33 | .sin => 0x34 | .cos => 0x35 | .tanh => 0x36
  | .sigmoid => 0x37 | .erf => 0x38

/-- A bracket of an operation on a finite non-zero value, with `W` bits of working precision. -/
def bracketAt (op : ElemOp) (W : Nat) (neg : Bool) (m : Nat) (e : Int) : Bracket :=
  match op with
  | .exp =>
    let (v, k) := fixExp W (fixOf W neg m e)
    bracketOf v 40 (k - W)
  | .exp2 =>
    let x := fixOf W neg m e
    let k := x / 2 ^ W
    bracketOf (expSeries W (fixMul W (x - k * 2 ^ W) (fixLn2 W)) (2 * W) 0 (2 ^ W) 0) 40 (k - W)
  | .log =>
    let (v, k) := fixLogParts W m e
    bracketOf (v + k * fixLn2 W) 40 (-(W : Int))
  | .log2 =>
    let (v, k) := fixLogParts W m e
    bracketOf (v * 2 ^ W / fixLn2 W + k * 2 ^ W) 40 (-(W : Int))
  | .sin =>
    let B := (e + Nat.log2 m + 1).toNat
    bracketOf (fixTrig (W + B) false (fixOf (W + B) neg m e)) (40 + B) (-((W + B : Nat) : Int))
  | .cos =>
    let B := (e + Nat.log2 m + 1).toNat
    bracketOf (fixTrig (W + B) true (fixOf (W + B) neg m e)) (40 + B) (-((W + B : Nat) : Int))
  | .tanh =>
    let (v, k) := fixExp W (2 * fixOf W false m e)
    let E := v * 2 ^ k.toNat
    let t := (E - 2 ^ W) * 2 ^ W / (E + 2 ^ W)
    bracketOf (if neg then -t else t) 44 (-(W : Int))
  | .sigmoid =>
    let (v, k) := fixExp W (fixOf W false m e)
    let E := v * 2 ^ k.toNat
    if neg then bracketOf (2 ^ (2 * W + k.toNat) / (E + 2 ^ W)) 44 (-(W : Int) - k)
    else bracketOf (E * 2 ^ W / (E + 2 ^ W)) 44 (-(W : Int))
  | .erf =>
    let V := W + 256
    let x := fixOf V false m e
    let x2 := fixMul V x x
    let s := erfSeries V x2 (2 * V + 2000) 0 x 0
    let (v, k) := fixExp V (-x2)
    let p := fixMul V s v / 2 ^ (-k).toNat
    let t := p * 2 ^ (V + 1) / (isqrt (fixPi V * 2 ^ V).toNat : Int)
    bracketOf (if neg then -t else t) 48 (-(V : Int))

/-- The value of a bracket once its first `bits` bits are settled, its last bit standing for the rest. Log entry 21. -/
def Bracket.settle (b : Bracket) (bits : Nat) : Option Num :=
  let neg := decide (b.hi < 0)
  let lo := if neg then -b.hi else b.lo
  let hi := if neg then -b.lo else b.hi
  if lo ≤ 0 then none
  else
    let sh := Nat.log2 hi.natAbs - bits
    let a := lo.natAbs / 2 ^ sh
    if sh = 0 then none
    else if a = hi.natAbs / 2 ^ sh then some (.fin neg (2 * a + 1) (b.ex + sh - 1)) else none

/-- The value of a bracket that is not settled: its last settled place is a free value (log entry 21). -/
def Bracket.tail (b : Bracket) (bits : Nat) (t : Int) : Num :=
  let mid := (b.lo + b.hi) / 2
  let sh := Nat.log2 mid.natAbs - bits
  .fin (decide (mid < 0)) (2 * (mid.natAbs / 2 ^ sh + (t % 2).toNat) + 1) (b.ex + sh - 1)

/-- A value just below ±1, just above 0, or far above every finite value. -/
def belowOne (neg : Bool) : Num := .fin neg (2 ^ 300 - 1) (-300)
def aboveZero : Num := .fin false 1 (-farExp)
def farAbove : Num := .fin false 1 farExp

/-- An operation on a finite non-zero value, by brackets of rising precision. Log entry 21. -/
def elemSearch (op : ElemOp) (neg : Bool) (m : Nat) (e : Int) : Num :=
  let base := (-(e + Nat.log2 m)).toNat + 192
  let bits := 76
  match (bracketAt op base neg m e).settle bits with
  | some v => v
  | none => match (bracketAt op (base + 600) neg m e).settle bits with
    | some v => v
    | none =>
      let b := bracketAt op (base + 2600) neg m e
      match b.settle bits with
      | some v => v
      | none => b.tail bits (Config.elementaryTail (elemCode op) m e)

/-- An elementary operation before its rounding: exact values and special values, then the search (R165). -/
def elemNum (op : ElemOp) (a : Num) : Flagged Num :=
  match a with
  | .nan _ => nanResult [a]
  | .inf n =>
    match op with
    | .exp | .exp2 | .sigmoid => if n then (.zero, 0) else if op = .sigmoid then (.fin false 1 0, 0) else (.inf false, 0)
    | .log | .log2 => if n then (.nan false, fNV) else (.inf false, 0)
    | .sin | .cos => (.nan false, fNV)
    | .tanh | .erf => (.fin n 1 0, 0)
  | .fin n 0 e =>
    match op with
    | .exp | .exp2 | .cos => (.fin false 1 0, 0)
    | .log | .log2 => (.inf true, fDZ)
    | .sin | .tanh | .erf => (.fin n 0 e, 0)
    | .sigmoid => (.fin false 1 (-1), 0)
  | .fin n m e =>
    let top := e + Nat.log2 m
    match op with
    | .exp => (if 12 < top then (if n then aboveZero else farAbove) else elemSearch op n m e, 0)
    | .exp2 =>
      if 12 < top then (if n then aboveZero else farAbove, 0)
      else if (roundUnits 1 0 n m e 0).2 then (elemSearch op n m e, 0)
      else (.fin false 1 (truncInt a), 0)
    | .log => if n then (.nan false, fNV) else (if cmpNum a (.fin false 1 0) = 0 then .zero else elemSearch op n m e, 0)
    | .log2 =>
      if n then (.nan false, fNV)
      else (if m = 2 ^ Nat.log2 m then .ofInt top else elemSearch op n m e, 0)
    | .sin | .cos => (elemSearch op n m e, 0)
    | .tanh => (if 6 < top then belowOne n else elemSearch op n m e, 0)
    | .sigmoid =>
      (if 12 < top then (if n then aboveZero else belowOne false)
       else if 7 < top ∧ !n then belowOne false else elemSearch op n m e, 0)
    | .erf => (if 3 < top then belowOne n else elemSearch op n m e, 0)

end Sys2Proof.Machine
end

