-- ==== Sys2Proof/Machine/Chain.lean ====
section
/-! DEFINITION. What a vector chain computes: programs, stage operations, streams, reductions, writes and cycles
(R148-R184, R188, R189). -/

namespace Sys2Proof.Machine

/-! ## VXPROG records (R163, R188, R189) -/

/-- A stream descriptor. -/
structure VStream where
  src : Nat
  fmt : Nat
  ctype : Nat
  rnd : Nat
  sat : Bool
  sel : Nat
  off : Nat
  rowStride : Int
  colStride : Int
  scaleOff : Nat
  deriving DecidableEq, Repr

/-- Read a stream descriptor. -/
def streamOf (bs : List Byte) : VStream where
  src := bytesAt bs 0 1
  fmt := bits (bytesAt bs 1 1) 0 4
  ctype := bits (bytesAt bs 1 1) 4 4
  rnd := bits (bytesAt bs 2 1) 0 3
  sat := bit (bytesAt bs 2 1) 3
  sel := bytesAt bs 3 1
  off := bytesAt bs 4 4
  rowStride := signedAt bs 8 4
  colStride := signedAt bs 0xC 4
  scaleOff := bytesAt bs 0x10 4

/-- A stage word. -/
structure VStage where
  op : Nat
  type : Nat
  rnd : Nat
  sat : Bool
  a : Nat
  b : Nat
  c : Nat
  deriving DecidableEq, Repr

/-- Read a stage word. -/
def stageWord (w : Nat) : VStage where
  op := bits w 24 8
  type := bits w 20 4
  rnd := bits w 17 3
  sat := bit w 16
  a := bits w 11 5
  b := bits w 6 5
  c := bits w 1 5

/-- A chain program. -/
structure VProg where
  mode : Nat
  redOp : Nat
  maskSel : Nat
  fillSel : Nat
  rows : Nat
  cols : Nat
  lenSrc : Nat
  lenOff : Nat
  countOff : Nat
  seed : Nat
  flagOff : Nat
  stages : List VStage
  ins : List VStream
  outs : List VStream
  deriving DecidableEq, Repr

/-- Read a VXPROG record. -/
def progOf (r : List Byte) : VProg where
  mode := bytesAt r 1 1
  redOp := bytesAt r 5 1
  maskSel := bytesAt r 6 1
  fillSel := bytesAt r 7 1
  rows := bytesAt r 8 2
  cols := bytesAt r 0xA 2
  lenSrc := bytesAt r 0xC 1
  lenOff := bytesAt r 0x10 4
  countOff := bytesAt r 0x14 4
  seed := bytesAt r 0x18 4
  flagOff := bytesAt r 0x1C 4
  stages := (List.range (bytesAt r 4 1)).map (fun k => stageWord (bytesAt r (0x20 + 4 * k) 4))
  ins := (List.range 4).map (fun k => streamOf ((r.drop (0x40 + 24 * k)).take 24))
  outs := (List.range 2).map (fun k => streamOf ((r.drop (0xA0 + 24 * k)).take 24))

/-- A stream that the program does not configure. -/
def noStream : VStream := ⟨0, 0, 0, 0, false, 0, 0, 0, 0, 0⟩

/-- An input, or output, stream by number. -/
def VProg.inS (p : VProg) (i : Nat) : VStream := p.ins.getD i noStream
def VProg.outS (p : VProg) (i : Nat) : VStream := p.outs.getD i noStream

/-! ## Stage operations (R164-R166) -/

/-- Cost of an operation in cycles per beat, for FP64 and for the other types. -/
def stageCost (op type : Nat) : Nat :=
  let wide := type == 0xE
  if op = 0x07 ∨ op = 0x08 then (if wide then 8 else 4)
  else if 0x30 ≤ op ∧ op ≤ 0x3A then (if wide then 32 else 4)
  else if op = 0x52 ∨ op = 0x53 ∨ op = 0x55 then 2
  else 1

/-- Operands an operation uses; 0 for an OP not in the table. -/
def opArity (op : Nat) : Nat :=
  if op = 0x00 ∨ op = 0x08 ∨ op = 0x0E ∨ op = 0x0F ∨ (0x11 ≤ op ∧ op ≤ 0x14) ∨ op = 0x16 ∨ op = 0x25 ∨
      (0x30 ≤ op ∧ op ≤ 0x3A) ∨ op = 0x40 then 1
  else if (0x01 ≤ op ∧ op ≤ 0x03) ∨ op = 0x07 ∨ (0x0A ≤ op ∧ op ≤ 0x0D) ∨ op = 0x10 ∨ op = 0x15 ∨
      (0x18 ≤ op ∧ op ≤ 0x1C) ∨ (0x20 ≤ op ∧ op ≤ 0x24) ∨ op = 0x50 ∨ (0x52 ≤ op ∧ op ≤ 0x54) then 2
  else if (0x04 ≤ op ∧ op ≤ 0x06) ∨ op = 0x28 ∨ op = 0x29 ∨ op = 0x51 ∨ op = 0x55 then 3
  else 0

/-- Whether an operation is defined for INT32, and for the floating types. -/
def opOnInt (op : Nat) : Bool :=
  op ≤ 0x07 || op == 0x0A || op == 0x0B || op == 0x0E || op == 0x0F || (0x18 ≤ op && op ≤ 0x1C) ||
  (0x20 ≤ op && op ≤ 0x23) || op == 0x28 || op == 0x29
def opOnFloat (op : Nat) : Bool := !(0x18 ≤ op && op ≤ 0x1C)

/-- The code of an exact value of a format, without flags; a NaN is the canonical one. -/
def FloatFmt.put (f : FloatFmt) (x : Num) : Nat := (f.round 0 0 false x).1

/-- 1 or +0 of a floating type. -/
def FloatFmt.truth (f : FloatFmt) (b : Bool) : Nat := f.put (if b then .fin false 1 0 else .zero)

/-- A comparison of two floating values (R164). -/
def compareNum (op : Nat) (a b : Num) : Flagged Bool :=
  let unordered := a.isNan || b.isNan
  let ni := flagIf unordered fNI
  let c := cmpNum a b
  match op with
  | 0x20 => (!unordered && c == 0, ni)
  | 0x21 => (unordered || c != 0, ni)
  | 0x22 => (!unordered && decide (c < 0), ni ||| flagIf unordered fNV)
  | 0x23 => (!unordered && decide (c ≤ 0), ni ||| flagIf unordered fNV)
  | _ => (unordered, ni)

/-- A stage operation in a floating type: operands as values, draws of its first and second rounding. A first result of an output
derivative that is a NaN made from operands that are none (t of DSIGMOID at an infinite y) is a NaN operand of the product, and
sets NI: R166 speaks of NaN operands only (DESIGN CHOICE, log entry 29). -/
def floatStage (f : FloatFmt) (op mode : Nat) (sat : Bool) (u u2 : Nat) (a b c : Num) : Flagged Nat :=
  let fin (x : Flagged Num) : Flagged Nat := finishNum f mode u sat x
  let exact (x : Flagged Num) : Flagged Nat := (f.put x.1, x.2)
  let second (t : Flagged Nat) (x : Num) : Flagged Nat :=
    (finishNum f mode u2 sat (mulNum x (f.decode t.1))).and t.2
  match op with
  | 0x00 => (f.put a, 0)
  | 0x01 => fin (addNum mode a b)
  | 0x02 => fin (addNum mode a (negNum b))
  | 0x03 => fin (mulNum a b)
  | 0x04 => fin (fmaNum mode a b c)
  | 0x05 => fin (fmaNum mode a b (negNum c))
  | 0x06 => fin (fmaNum mode (negNum a) b c)
  | 0x07 => fin (divNum a b)
  | 0x08 => fin (sqrtNum a)
  | 0x0A => exact (extremeNum false a b)
  | 0x0B => exact (extremeNum true a b)
  | 0x0C => exact (extremeNumber false a b)
  | 0x0D => exact (extremeNumber true a b)
  | 0x0E => (f.put (a.withSign false), 0)
  | 0x0F => (f.put (negNum a), 0)
  | 0x10 => (f.put (a.withSign b.neg), 0)
  | 0x11 => if a.isNan then exact (nanResult [a]) else (f.put (integralNum 3 0 a).1, 0)
  | 0x12 => if a.isNan then exact (nanResult [a]) else (f.put (integralNum 2 0 a).1, 0)
  | 0x13 => if a.isNan then exact (nanResult [a]) else (f.put (integralNum 1 0 a).1, 0)
  | 0x14 =>
    if a.isNan then exact (nanResult [a])
    else let (v, x) := integralNum mode u a; (f.put v, flagIf x fNX)
  | 0x15 => fin (scalebNum a b)
  | 0x16 => exact (logbNum a)
  | 0x20 | 0x21 | 0x22 | 0x23 | 0x24 => let (r, fl) := compareNum op a b; (f.truth r, fl)
  | 0x25 => (f.truth a.isFinite, 0)
  | 0x28 => (f.put (if a.isTrue then b else c), 0)
  | 0x29 =>
    let (m, f1) := extremeNum true a b
    let (r, f2) := extremeNum false m c
    (f.put r, f1 ||| f2)
  | 0x30 => fin (elemNum .exp a)
  | 0x31 => fin (elemNum .exp2 a)
  | 0x32 => fin (elemNum .log a)
  | 0x33 => fin (elemNum .log2 a)
  | 0x34 => fin (elemNum .sin a)
  | 0x35 => fin (elemNum .cos a)
  | 0x36 => fin (elemNum .tanh a)
  | 0x37 => fin (elemNum .sigmoid a)
  | 0x38 => fin (elemNum .erf a)
  | 0x39 => fin (divNum (.fin false 1 0) a)
  | 0x3A => fin (rsqrtNum a)
  | 0x50 => if a.isNan || b.isNan then exact (nanResult [a, b]) else if cmpNum a .zero > 0 then (f.put b, 0) else (f.put .zero, 0)
  | 0x51 =>
    if a.isNan || b.isNan then exact (nanResult [a, b])
    else if cmpNum a .zero > 0 then (f.put b, 0) else fin (mulNum c b)
  | 0x52 => second (fin (fmaNum mode (negNum a) a a)) b
  | 0x53 => second (fin (fmaNum mode (negNum a) a (.fin false 1 0))) b
  | 0x54 => fin (mulNum b a)
  | 0x55 => second (fin (addNum mode b (negNum c))) a
  | _ => (0, 0)

/-- An INT32 result that wraps. -/
def wrapInt (v : Int) : Flagged Nat :=
  (wrapTo 32 v, flagIf (decide (v < -(2 ^ 31)) || decide (2 ^ 31 ≤ v)) fIO)

/-- A stage operation in INT32. -/
def intStage (op a b c : Nat) : Flagged Nat :=
  let x := signedOf 32 a
  let y := signedOf 32 b
  let z := signedOf 32 c
  match op with
  | 0x00 => (a, 0)
  | 0x01 => wrapInt (x + y)
  | 0x02 => wrapInt (x - y)
  | 0x03 => wrapInt (x * y)
  | 0x04 => wrapInt (x * y + z)
  | 0x05 => wrapInt (x * y - z)
  | 0x06 => wrapInt (z - x * y)
  | 0x07 => if y = 0 then (0, fDZ) else wrapInt (Int.tdiv x y)
  | 0x0A => (wrapTo 32 (min x y), 0)
  | 0x0B => (wrapTo 32 (max x y), 0)
  | 0x0E => wrapInt x.natAbs
  | 0x0F => wrapInt (-x)
  | 0x18 => (a &&& b, 0)
  | 0x19 => (a ||| b, 0)
  | 0x1A => (a ^^^ b, 0)
  | 0x1B => (a * 2 ^ (b % 32) % 2 ^ 32, 0)
  | 0x1C => (wrapTo 32 (x / 2 ^ (b % 32)), 0)
  | 0x20 => (natOf (x == y), 0)
  | 0x21 => (natOf (x != y), 0)
  | 0x22 => (natOf (decide (x < y)), 0)
  | 0x23 => (natOf (decide (x ≤ y)), 0)
  | 0x28 => (if a ≠ 0 then b else c, 0)
  | 0x29 => (wrapTo 32 (min (max x y) z), 0)
  | _ => (0, 0)

/-- A stage of a chain on operand codes; CVT takes a code of any source type. -/
def stageResult (g : VStage) (srcType u u2 : Nat) (a b c : Nat) : Flagged Nat :=
  if g.op = 0x40 then convertNum g.type (intFmt srcType).isSome g.rnd u g.sat (decodeNum srcType a)
  else match floatFmt g.type with
    | some f => floatStage f g.op g.rnd g.sat u u2 (f.decode a) (f.decode b) (f.decode c)
    | none => intStage g.op a b c

/-! ## Types and limits of a program (R149, R155, R156, R188) -/

/-- The type a selector names before stage `k`: none where it names nothing; an index takes any of its three types. -/
def VProg.selType (p : VProg) (k sel want : Nat) : Option Nat :=
  if sel < 4 then (if (p.inS sel).src ≠ 0 then some (p.inS sel).ctype else none)
  else if 8 ≤ sel ∧ sel < 16 then (if sel - 8 < k then (p.stages[sel - 8]?).map (·.type) else none)
  else if sel = 0x12 ∨ sel = 0x13 then (if want = 0xD ∨ want = 0 ∨ want = 0xE then some want else none)
  else none

/-- A stage keeps the rules of R155, R156 and R164. -/
def VProg.stageLegal (p : VProg) (k : Nat) (g : VStage) : Bool :=
  let n := opArity g.op
  let used := [g.a, g.b, g.c].take n
  n != 0 && g.rnd ≤ 4 &&
  (if g.op = 0x40 then !fmtIsMx g.type && g.type != 0xF && (p.selType k g.a g.type).isSome
   else isChainType g.type && (if g.type = 0xD then opOnInt g.op else opOnFloat g.op) &&
     used.all (fun x => p.selType k x g.type == some g.type))

/-- A scratchpad offset is a multiple of the storage size, of one byte for sub-byte formats; row strides are any (R189). -/
def offsetFits (t : VStream) : Bool := fmtBits t.fmt < 8 || 8 * t.off % fmtBits t.fmt == 0

/-- An input stream keeps its limits. -/
def inputLegal (lagoonIslet : Bool) (t : VStream) : Bool :=
  t.src == 0 || (t.src ≤ 4 && t.rnd ≤ 4 && t.fmt != 0xF && isChainType t.ctype &&
    (t.src != 2 || ((fmtBits t.fmt == 16 || fmtBits t.fmt == 32 || fmtBits t.fmt == 64) && 1 ≤ t.rowStride && t.rowStride ≤ 32 &&
      (t.colStride == 0 || t.colStride == 1))) &&
    (t.src < 3 || (lagoonIslet && (t.fmt == 0 || t.fmt == 1))) &&
    (t.src != 1 || ((8 ≤ fmtBits t.fmt || t.colStride == 1) && offsetFits t)))

/-- An output stream keeps its limits: its operand exists, and the reduction goes to OUT1 only. -/
def VProg.outputLegal (p : VProg) (lagoonIslet : Bool) (i : Nat) (t : VStream) : Bool :=
  t.src == 0 || (t.src ≤ 5 && t.rnd ≤ 4 && t.fmt != 0xF &&
    (if t.sel = 0x1E then i == 1 && p.redOp != 0 && t.src ≤ 2 && (p.redOp != 6 || t.fmt == 0xC)
     else (p.selType p.stages.length t.sel 0xD).isSome &&
       (t.src != 1 || t.colStride != 0) && (t.src != 2 || t.colStride == 1)) &&
    (t.src != 2 || ((fmtBits t.fmt == 16 || fmtBits t.fmt == 32 || fmtBits t.fmt == 64) && 1 ≤ t.rowStride && t.rowStride ≤ 32 &&
      (t.sel != 0x1E || t.colStride == 0))) &&
    (t.src < 3 || (lagoonIslet && (t.fmt == 0 || t.fmt == 1))) && (t.src != 5 || t.fmt == 0) &&
    (t.src != 1 || ((8 ≤ fmtBits t.fmt || t.colStride == 1) && offsetFits t)))

/-- The beat width (R149). -/
def VProg.beatWidth (p : VProg) : Nat :=
  let ts := ((p.ins.filter (fun t => t.src ≠ 0)).map (·.ctype)) ++ p.stages.map (·.type)
  if ts.any (· == 0xE) then 32 else if ts.any (fun t => t == 0 || t == 0xD) then 64 else 128

/-- A beat-mode register stream fills its registers (R160). -/
def beatFits (E : Nat) (t : VStream) : Bool := t.src != 2 || t.colStride == 0 || fmtBits t.fmt * E == 2048

/-- A program keeps the chapter's limits, so far as they do not depend on addresses. -/
def VProg.legal (p : VProg) (lagoonIslet : Bool) : Bool :=
  p.mode ≤ 2 && p.redOp ≤ 6 && 1 ≤ p.stages.length && p.stages.length ≤ 8 && 1 ≤ p.rows &&
  p.lenSrc ≤ 1 && (p.lenSrc == 1 || 1 ≤ p.cols) &&
  (p.stages.zipIdx.all (fun g => p.stageLegal g.2 g.1)) &&
  p.ins.all (fun t => inputLegal lagoonIslet t && beatFits p.beatWidth t) &&
  (p.outs.zipIdx.all (fun t => p.outputLegal lagoonIslet t.2 t.1 && beatFits p.beatWidth t.1)) &&
  (p.mode == 0 || (p.maskSel < 16 && (p.selType p.stages.length p.maskSel 0xD).any isChainType)) &&
  (p.mode != 2 || p.fillSel == 0x1F || (p.selType p.stages.length p.fillSel 0xD).isSome) &&
  (p.mode != 2 || (p.inS 0).src != 0) &&
  (p.redOp != 6 || (p.stages.getLast?.any (fun g => g.type != 0xD))) &&
  (p.redOp == 0 || (p.stages.getLast?.any (fun g => isChainType g.type)))

/-! ## Where the elements of a stream lie (R152, R158-R162) -/

/-- What a chain works on: the islet's stores before it, its program, the columns of each row, the beat width. -/
structure VCtx where
  sp : Memory
  vregs : Memory
  lagoon : Memory
  prog : VProg
  cols : List Nat
  E : Nat
  deriving DecidableEq, Repr

/-- Columns of row `r`. -/
def VCtx.colsOf (x : VCtx) (r : Nat) : Nat := x.cols.getD r 0

/-- Beats of a row, and the first beat of a row in the chain's count. -/
def VCtx.rowBeats (x : VCtx) (r : Nat) : Nat := (x.colsOf r + x.E - 1) / x.E
def VCtx.beatBase (x : VCtx) (r : Nat) : Nat := ((List.range r).map x.rowBeats).sum

/-- Where an element lies: the store (0 scratchpad, 1 registers, 2 lagoon buffers), its first bit there, its bits. -/
structure Place where
  store : Nat
  lo : Int
  width : Nat
  deriving DecidableEq, Repr

/-- The place of element (r, c) of a stream. -/
def VCtx.place (x : VCtx) (t : VStream) (r c : Nat) : Place :=
  let w := fmtBits t.fmt
  match t.src with
  | 1 => ⟨0, 8 * ((t.off : Int) + r * t.rowStride) + c * t.colStride * w, w⟩
  | 2 =>
    let n := t.rowStride.toNat
    let b := t.off % 32
    if t.colStride = 0 then
      let per := 2048 / w
      ⟨1, 2048 * ((b + r / per % n) % 32) + r % per * w, w⟩
    else
      let j := x.beatBase r + c / x.E
      ⟨1, 2048 * ((b + j % n) % 32) + c % x.E * w, w⟩
  | 4 => ⟨2, 524288 * (t.off % 4) + 4096 * c + (t.off / 256 % 256 + r) * w, w⟩
  | _ => ⟨2, 524288 * (t.off % 4) + 4096 * (t.off / 256 % 256 + r) + c * w, w⟩

/-- The place lies within its store; a lagoon element within its buffer's lines and columns. -/
def placeLegal (t : VStream) (r c : Nat) (p : Place) : Bool :=
  match p.store with
  | 0 => decide (0 ≤ p.lo) && decide (p.lo + p.width ≤ 8 * 0x200000)
  | 1 => true
  | _ =>
    let first := t.off / 256 % 256
    if t.src = 4 then c < 128 && (first + r) * p.width < 4096 else first + r < 128 && c * p.width < 4096

/-- The place of the scale byte of the block of element (r, c) of an MX stream (R162). -/
def VCtx.scalePlace (x : VCtx) (t : VStream) (r c : Nat) : Place :=
  ⟨0, 8 * ((t.scaleOff + r * ((x.colsOf r + 31) / 32) + c / 32 : Nat) : Int), 8⟩

/-- The bits of a store at a place. -/
def readBits (m : Memory) (p : Place) : Nat :=
  let lo := p.lo.toNat
  leNat (memRead m (lo / 8) ((lo % 8 + p.width + 7) / 8)) / 2 ^ (lo % 8) % 2 ^ p.width

/-- The store a place names. -/
def VCtx.storeOf (x : VCtx) (p : Place) : Memory := match p.store with
  | 0 => x.sp
  | 1 => x.vregs
  | _ => x.lagoon

/-- The value of element (r, c) of an input stream in its chain type; the scratchpad's scale of an MX element applies.
`d` is the column that its draw names (R179). -/
def VCtx.input (x : VCtx) (i r c d : Nat) (override : Option Nat) : Flagged Nat :=
  let t := x.prog.inS i
  let p := x.place t r c
  let code := override.getD (readBits (x.storeOf p) p)
  let v := if fmtIsMx t.fmt ∧ t.src = 1 then mxValue t.fmt (readBits x.sp (x.scalePlace t r c)) code else decodeNum t.fmt code
  convertNum t.ctype (intFmt t.fmt).isSome t.rnd (srDraw x.prog.seed (10 + i) 0 r d) t.sat v

/-! ## Elements -/

/-- The code a selector names: inputs A-D, stage results, an index in a type. -/
def selCode (ins : List Nat) (res : List Nat) (type r c sel : Nat) : Nat :=
  let index (n : Nat) : Nat := match floatFmt type with
    | some f => f.put (.fin false n 0)
    | none => n % 2 ^ 32
  if sel < 4 then ins.getD sel 0
  else if 8 ≤ sel ∧ sel < 16 then res.getD (sel - 8) 0
  else if sel = 0x12 then index c else if sel = 0x13 then index r else 0

/-- The stages of a chain for element (r, c): the results in order, and the flags of them all. -/
def VProg.runStages (p : VProg) (ins : List Nat) (r c : Nat) : List Nat × Nat :=
  p.stages.zipIdx.foldl (fun (acc : List Nat × Nat) gk =>
    let (g, k) := gk
    let src := (p.selType k g.a g.type).getD g.type
    let s := selCode ins acc.1 src r c
    let y := stageResult g src (srDraw p.seed k 0 r c) (srDraw p.seed (24 + k) 0 r c) (s g.a) (s g.b) (s g.c)
    (acc.1 ++ [y.1], acc.2 ||| y.2)) ([], 0)

/-- An operand's value (outputs, masks, fill): inputs and results as their types give, an index as its integer. -/
def VProg.operand (p : VProg) (ins res : List Nat) (r c sel : Nat) : Num :=
  let t := (p.selType p.stages.length sel 0xD).getD 0xD
  decodeNum t (selCode ins res t r c sel)

/-- What one element of a chain gives: its column, truth of its mask, operand values of OUT0 and OUT1, its fill value,
the last stage's result, flags. -/
structure Elem where
  col : Nat
  mask : Bool
  out0 : Num
  out1 : Num
  fill : Num
  last : Nat
  flags : Nat
  deriving DecidableEq, Repr

/-- Free codes of input elements: by stream, row, the stream's column, the column of the element that reads it. -/
abbrev FreeCode := Nat → Nat → Nat → Nat → Option Nat

/-- The elements of row `r`. In expand mode the mask is formed with +0 for A, and stream A's `k`-th element is consumed at the
`k`-th true position (R171). `free` gives the code of an input element that another element writes, in a register. A row broadcast
that converts with RND 4 draws anew in each column: R159 does not say which column its draw names (DESIGN CHOICE, log entry 29).
-/
def VCtx.row (x : VCtx) (r : Nat) (free : FreeCode) : List Elem :=
  let p := x.prog
  let n := x.colsOf r
  let get (i c d : Nat) : Flagged Nat := if (p.inS i).src = 0 then (0, 0) else x.input i r c d (free i r c d)
  let outOf (ins res : List Nat) (c i : Nat) : Num :=
    let t := p.outS i
    if t.src = 0 ∨ t.sel = 0x1E then .zero else p.operand ins res r c t.sel
  ((List.range n).foldl (fun (acc : List Elem × Nat) c =>
    let others := [1, 2, 3].map (fun i => get i c c)
    let (ins, res, mask, k, fl) :=
      if p.mode = 2 then
        let ins0 := 0 :: others.map Prod.fst
        let (res0, _) := p.runStages ins0 r c
        let mask := (p.operand ins0 res0 r c p.maskSel).isTrue
        if mask then
          let a := get 0 acc.2 c
          let ins := a.1 :: others.map Prod.fst
          let (res, f) := p.runStages ins r c
          (ins, res, true, acc.2 + 1, f ||| a.2 ||| orFlags others)
        else (ins0, res0, false, acc.2, orFlags others)
      else
        let a := get 0 c c
        let ins := a.1 :: others.map Prod.fst
        let (res, f) := p.runStages ins r c
        let mask := p.mode == 0 || (p.operand ins res r c p.maskSel).isTrue
        (ins, res, mask, acc.2, f ||| a.2 ||| orFlags others)
    let fill := if p.mode = 2 ∧ p.fillSel ≠ 0x1F then p.operand ins res r c p.fillSel else .zero
    (acc.1 ++ [{ col := c, mask := mask, out0 := outOf ins res c 0, out1 := outOf ins res c 1, fill := fill,
                 last := res.getLast?.getD 0, flags := fl }], k)) ([], 0)).1

/-! ## Reductions (R167, R168) -/

/-- The tree of R168 over `2 ^ d` lanes. -/
def treeSum (add : Nat → Nat → Flagged Nat) : Nat → List (Option Nat) → Option Nat × Nat
  | 0, ls => (ls.head?.join, 0)
  | d + 1, ls =>
    let (a, fa) := treeSum add d (ls.take (2 ^ d))
    let (b, fb) := treeSum add d (ls.drop (2 ^ d))
    match a, b with
    | some v, some w => let (s, f) := add v w; (some s, fa ||| fb ||| f)
    | some v, none => (some v, fa ||| fb)
    | none, w => (w, fa ||| fb)

/-- The lanes of a row cut into beats of `E`. -/
def beatsOf (E : Nat) : Nat → List (Option Nat) → List (List (Option Nat))
  | 0, _ => []
  | fuel + 1, ls => if ls.isEmpty then [] else ls.take E :: beatsOf E fuel (ls.drop E)

/-- The sum of a row in the order of R168. -/
def rowSum (add : Nat → Nat → Flagged Nat) (empty E : Nat) (ls : List (Option Nat)) : Flagged Nat :=
  let (acc, f) := (beatsOf E ls.length ls).foldl (fun (acc : Option Nat × Nat) beat =>
    let (p, f) := treeSum add (Nat.log2 E) beat
    match acc.1, p with
    | none, p => (p, acc.2 ||| f)
    | some v, none => (some v, acc.2 ||| f)
    | some v, some w => let (s, g) := add v w; (some s, acc.2 ||| f ||| g)) (none, 0)
  (acc.getD empty, f)

/-- The type of a reduction's result (R167). -/
def redType (redOp type : Nat) : Nat :=
  if redOp = 6 then 0xC
  else if redOp = 1 ∨ redOp = 2 then (if type = 0xE ∨ type = 0xD then type else 0x0) else type

/-- The reduction of a row's counted elements, as a code of `redType`. The squares of SUMSQ round to nearest even, as its
additions do: R167 says only that each is rounded once (DESIGN CHOICE, log entry 29). -/
def reduceRow (redOp type E : Nat) (ls : List (Option Nat)) : Flagged Nat :=
  let vals := ls.filterMap id
  let nan := type != 0xD && vals.any (fun v => (decodeNum type v).isNan)
  let ni := flagIf nan fNI
  let f := (floatFmt type).getD fmtFp32
  match redOp with
  | 1 | 2 =>
    let acc := redType redOp type
    if acc = 0xD then
      let sq (v : Nat) : Flagged Nat := if redOp = 2 then wrapInt (signedOf 32 v * signedOf 32 v) else (v, 0)
      let add (a b : Nat) : Flagged Nat := wrapInt (signedOf 32 a + signedOf 32 b)
      (rowSum add 0 E (ls.map (·.map (fun v => (sq v).1)))).and (orFlags (vals.map sq))
    else
      let g := (floatFmt acc).getD fmtFp32
      let term (v : Nat) : Flagged Nat :=
        let n := f.decode v
        if redOp = 2 then finishNum g 0 0 false (mulNum n n) else (g.put n, 0)
      let add (a b : Nat) : Flagged Nat := finishNum g 0 0 false (addNum 0 (g.decode a) (g.decode b))
      (rowSum add 0 E (ls.map (·.map (fun v => (term v).1)))).and (orFlags (vals.map term) ||| ni)
  | 3 | 4 =>
    if type = 0xD then
      let empty : Nat := if redOp = 3 then 0x80000000 else 0x7FFFFFFF
      (vals.foldl (fun a v => (intStage (if redOp = 3 then 0x0B else 0x0A) a v 0).1) empty, 0)
    else
      (f.put (vals.foldl (fun a v => (extremeNum (redOp == 3) a (f.decode v)).1) (.inf (redOp == 3))), ni)
  | 5 =>
    if type = 0xD then
      let a := vals.map (fun v => wrapInt (signedOf 32 v).natAbs)
      ((match a with
        | [] => 0
        | v :: rest => rest.foldl (fun m v => (intStage 0x0B m v.1 0).1) v.1), orFlags a)
    else (f.put (vals.foldl (fun a v => (extremeNum true a ((f.decode v).withSign false)).1) .zero), ni)
  | 6 =>
    let ns := vals.map f.decode
    if ns.any (fun n => !n.isFinite) then (0x7FFF, ni)
    else match mxTop ns with
      | none => (0x8000, 0)
      | some t => (wrapTo 16 (t + 1), 0)
  | _ => (0, 0)

/-! ## Outputs (R158-R162, R170-R172) -/

/-- A write of an output stream: the store, its first bit, its bits, the value. -/
structure BitWrite where
  place : Place
  value : Nat
  deriving DecidableEq, Repr

/-- The elements a row gives to an output stream: the column each is written to, its value, its own column. Log entry 29. -/
def rowOutputs (p : VProg) (i : Nat) (es : List Elem) : List (Nat × Num × Nat) :=
  if i = 1 then es.map (fun e => (e.col, e.out1, e.col))
  else match p.mode with
    | 1 => ((es.filter (·.mask)).zipIdx).map (fun e => (e.2, e.1.out0, e.1.col))
    | 2 => es.filterMap (fun e => if e.mask then some (e.col, e.out0, e.col)
        else if p.fillSel ≠ 0x1F then some (e.col, e.fill, e.col) else none)
    | _ => es.map (fun e => (e.col, e.out0, e.col))

/-- Whether an output's operand is an integer. -/
def VProg.outFromInt (p : VProg) (i : Nat) : Bool :=
  (intFmt ((p.selType p.stages.length (p.outS i).sel 0xD).getD 0xD)).isSome

/-- The writes of an output stream for a row, with the flags of its conversions: elements, then an MX stream's scales. -/
def VCtx.rowWrites (x : VCtx) (i r : Nat) (es : List (Nat × Num × Nat)) : List BitWrite × List BitWrite × Nat :=
  let t := x.prog.outS i
  let u (d : Nat) : Nat := srDraw x.prog.seed (8 + i) 0 r d
  if fmtIsMx t.fmt then
    let blocks := (List.range ((es.foldl (fun m e => max m (e.1 + 1)) 0 + 31) / 32)).map (fun j =>
      (j, es.filter (fun e => e.1 / 32 == j)))
    (blocks.filter (fun b => !b.2.isEmpty)).foldl (fun acc b =>
      let (scale, codes, f) := mxBlock t.fmt t.rnd t.sat (b.2.map (fun e => (e.2.1, u e.2.2)))
      (acc.1 ++ (b.2.zip codes).map (fun e => ⟨x.place t r e.1.1, e.2⟩),
       acc.2.1 ++ [⟨x.scalePlace t r (32 * b.1), scale⟩], acc.2.2 ||| f)) ([], [], 0)
  else
    es.foldl (fun acc e =>
      let (code, f) := convertNum t.fmt (x.prog.outFromInt i) t.rnd (u e.2.2) t.sat e.2.1
      (acc.1 ++ [⟨x.place t r e.1, code⟩], acc.2.1, acc.2.2 ||| f)) ([], [], 0)

/-- Put a value into a store at a bit position. -/
def putAt (m : Memory) (p : Place) (v : Nat) : Memory :=
  let lo := p.lo.toNat
  let n := (lo % 8 + p.width + 7) / 8
  let old := memNat m (lo / 8) n
  memWrite m (lo / 8) (leBytes n (putBits old (lo % 8) p.width v))

/-- Write a row's values to the scratchpad: every 8-byte lane they touch is written whole, its other bytes zero (R161). What R161
calls a write is here one row of a stream, so that its beats do not zero each other's elements (DESIGN CHOICE, log entry 29). -/
def writeLanes (m : Memory) (ws : List BitWrite) : Memory :=
  let lanes := (ws.flatMap (fun w =>
    let lo := w.place.lo.toNat / 64
    (List.range ((w.place.lo.toNat + w.place.width - 1) / 64 - lo + 1)).map (· + lo))).eraseDups
  let m := lanes.foldl (fun m l => memClear m (8 * l) 8) m
  ws.foldl (fun m w => putAt m w.place w.value) m

/-- What a chain has written so far, with its flags and its count of true elements. -/
structure VOut where
  sp : Memory
  vregs : Memory
  lagoon : Memory
  flags : Nat
  count : Nat
  deriving DecidableEq, Repr

/-- Apply the writes of one output stream of one row. -/
def VOut.apply (o : VOut) (t : VStream) (w : List BitWrite × List BitWrite × Nat) : VOut :=
  let o := { o with flags := o.flags ||| w.2.2 }
  match t.src with
  | 1 => { o with sp := writeLanes (writeLanes o.sp w.1) w.2.1 }
  | 2 => { o with vregs := w.1.foldl (fun m e => putAt m e.place e.value) o.vregs }
  | 5 =>
    let (m, f) := w.1.foldl (fun (acc : Memory × Nat) e =>
      let (v, f) := fp32Add (readBits acc.1 e.place) e.value
      (putAt acc.1 e.place v, acc.2 ||| f)) (o.lagoon, 0)
    { o with lagoon := m, flags := o.flags ||| f }
  | 0 => o
  | _ => { o with lagoon := w.1.foldl (fun m e => putAt m e.place e.value) o.lagoon }

/-- The elements of a row that its reduction counts, lane by lane. -/
def countedLanes (p : VProg) (es : List Elem) : List (Option Nat) :=
  es.map (fun e => if p.mode = 0 ∨ e.mask then some e.last else none)

/-- One row of a chain: outputs, reduction, counts (R167-R172). Log entry 20. -/
def VCtx.runRow (x : VCtx) (free : FreeCode) (o : VOut) (r : Nat) : VOut :=
  let p := x.prog
  let es := x.row r free
  let o := { o with flags := es.foldl (fun f e => f ||| e.flags) o.flags }
  let out (i : Nat) (o : VOut) : VOut :=
    let t := p.outS i
    if t.src = 0 ∨ t.sel = 0x1E then o else o.apply t (x.rowWrites i r (rowOutputs p i es))
  let o := out 1 (out 0 o)
  let type := (p.stages.getLast?.map (·.type)).getD 0
  let o := if p.redOp = 0 then o else
    let (v, f) := reduceRow p.redOp type x.E (countedLanes p es)
    let o := { o with flags := o.flags ||| f }
    let t := p.outS 1
    if t.src = 0 ∨ t.sel ≠ 0x1E then o
    else
      let n := decodeNum (redType p.redOp type) v
      let (code, g) := if p.redOp = 6 then (v, 0)
        else convertNum t.fmt (intFmt (redType p.redOp type)).isSome t.rnd (srDraw p.seed 9 0 r 0) t.sat n
      if fmtIsMx t.fmt then o.apply t (x.rowWrites 1 r [(0, n, 0)])
      else o.apply t ([⟨x.place t r 0, code⟩], [], g)
  if p.mode = 0 then o
  else
    let n := (es.filter (·.mask)).length
    let o := { o with count := o.count + n }
    if p.countOff = 0xFFFFFFFF then o
    else { o with sp := memWrite o.sp (p.countOff + 8 * r) (leBytes 8 (n % 2 ^ 32)) }

/-! ## Overlaps (R184) -/

/-- The places an output stream writes, with the element each belongs to. -/
def VCtx.outPlaces (x : VCtx) (free : FreeCode) (i : Nat) : List (Place × Nat × Nat) :=
  let t := x.prog.outS i
  if t.src = 0 then []
  else (List.range x.prog.rows).flatMap (fun r =>
    if t.sel = 0x1E then [(x.place t r 0, r, 0x10000)]
    else (rowOutputs x.prog i (x.row r free)).map (fun e => (x.place t r e.1, r, e.2.2)))

/-- The places that a chain's outputs replace, accumulation apart (R184). -/
def VCtx.written (x : VCtx) (free : FreeCode) : List (Place × Nat × Nat) :=
  [0, 1].flatMap (fun i => if (x.prog.outS i).src = 5 then [] else x.outPlaces free i)

/-- The stream columns an input stream reads for row `r`, each with the column of the element that reads it: in expand mode
stream A's dense elements are read at the true positions. -/
def VCtx.readCols (x : VCtx) (i r : Nat) (es : List Elem) : List (Nat × Nat) :=
  if (x.prog.inS i).src = 0 then []
  else if x.prog.mode = 2 ∧ i = 0 then ((es.filter (·.mask)).zipIdx).map (fun e => (e.2, e.1.col))
  else (List.range (x.colsOf r)).map (fun c => (c, c))

/-- Two places share a bit. -/
def placesMeet (a b : Place) : Bool := a.store == b.store && decide (a.lo < b.lo + b.width) && decide (b.lo < a.lo + a.width)

/-- A place is written by another element than the one that reads it. Log entry 24. -/
def clashes (ws : List (Place × Nat × Nat)) (q : Place × Nat × Nat) : Bool :=
  ws.any (fun w => placesMeet w.1 q.1 && (w.2 != q.2))

/-- The codes of a chain's input elements, with the scale bytes of MX streams: its operands (R185). -/
def VCtx.operandCodes (x : VCtx) : List Nat :=
  [0, 1, 2, 3].flatMap (fun i =>
    let t := x.prog.inS i
    if t.src = 0 then [] else
    (List.range x.prog.rows).flatMap (fun r => (List.range (x.colsOf r)).flatMap (fun c =>
      let p := x.place t r c
      readBits (x.storeOf p) p :: (if fmtIsMx t.fmt ∧ t.src = 1 then [readBits x.sp (x.scalePlace t r c)] else []))))

/-- No free codes. -/
def noFree : FreeCode := fun _ _ _ _ => none

/-- An element of a stream lies where it may, and so does the scale of its block (R162, R189). -/
def VCtx.elemLegal (x : VCtx) (t : VStream) (r c : Nat) : Bool :=
  placeLegal t r c (x.place t r c) && (!(fmtIsMx t.fmt && t.src == 1) || decide ((x.scalePlace t r c).lo + 8 ≤ 8 * 0x200000))

/-- Every place a chain reads or writes is legal, and no scratchpad or lagoon element it reads is written by another of its
elements. Log entry 24. -/
def VCtx.sound (x : VCtx) : Bool :=
  let ws := x.written noFree
  (List.range x.prog.rows).all (fun r =>
    let es := x.row r noFree
    ([0, 1, 2, 3].all (fun i =>
      let t := x.prog.inS i
      (x.readCols i r es).all (fun q =>
        let pl := x.place t r q.1
        x.elemLegal t r q.1 && (pl.store == 1 || !clashes ws (pl, r, q.2))))) &&
    ([0, 1].all (fun i =>
      let t := x.prog.outS i
      t.src == 0 || (if t.sel = 0x1E then [(0, .zero, 0)] else rowOutputs x.prog i es).all (fun e => x.elemLegal t r e.1))))

/-! ## Timing (R182) -/

/-- The scratchpad word of a place's first bit, and the one or two words it lies in. -/
def wordOf (p : Place) : Nat := p.lo.toNat / 256
def wordsOf (p : Place) : List Nat :=
  let w := wordOf p
  let last := (p.lo.toNat + p.width - 1) / 256
  if w = last then [w] else [w, last]

/-- The words an output stream's packed elements complete, by beat: a full word, and the scale of a full block, in the beat
of its last element, a partly filled last one in the row's last beat (R170). -/
def VCtx.packedWords (x : VCtx) (t : VStream) (r : Nat) (es : List (Nat × Num × Nat)) : List (Nat × Nat) :=
  es.flatMap (fun e =>
    let ws := wordsOf (x.place t r e.1)
    let next := wordOf (x.place t r (e.1 + 1))
    let final := e.1 + 1 == es.length
    let last := x.rowBeats r - 1
    ws.filterMap (fun w => if w ≠ next then some (e.2.2 / x.E, w) else if final then some (last, w) else none) ++
    (if fmtIsMx t.fmt then
      (let sc := wordOf (x.scalePlace t r e.1)
       if e.1 % 32 = 31 then [(e.2.2 / x.E, sc)] else if final then [(last, sc)] else []) else []))

/-- N_j of each beat of row `r`: scratchpad words read or written, scales included. -/
def VCtx.beatLoads (x : VCtx) (r : Nat) : List Nat :=
  let p := x.prog
  let es := x.row r noFree
  let last := x.rowBeats r - 1
  let reads (i : Nat) : List (Nat × Nat) :=
    let t := p.inS i
    if t.src ≠ 1 then [] else
    (x.readCols i r es).flatMap (fun q =>
      let beat := if t.colStride = 0 then 0 else q.2 / x.E
      (wordsOf (x.place t r q.1)).map (fun w => (beat, w)) ++ (if fmtIsMx t.fmt then [(beat, wordOf (x.scalePlace t r q.1))] else []))
  let writes (i : Nat) : List (Nat × Nat) :=
    let t := p.outS i
    if t.src ≠ 1 then []
    else if t.sel = 0x1E then (wordsOf (x.place t r 0)).map (fun w => (last, w))
    else if i = 0 ∧ p.mode = 1 then x.packedWords t r (rowOutputs p 0 es)
    else (rowOutputs p i es).flatMap (fun e =>
      (wordsOf (x.place t r e.1)).map (fun w => (e.2.2 / x.E, w)) ++
        (if fmtIsMx t.fmt then [(e.2.2 / x.E, wordOf (x.scalePlace t r e.1))] else []))
  let rd := [0, 1, 2, 3].flatMap reads
  let wr := [0, 1].flatMap writes
  (List.range (x.rowBeats r)).map (fun j =>
    let of (l : List (Nat × Nat)) : List Nat := ((l.filter (fun e => e.1 == j)).map Prod.snd).eraseDups
    (List.range 16).foldl (fun m b =>
      max m (((of rd).filter (fun w => w % 16 == b)).length + ((of wr).filter (fun w => w % 16 == b)).length)) 0)

/-- The cycles of a chain (R182). Log entry 29. -/
def VCtx.cycles (x : VCtx) : Nat :=
  let p := x.prog
  let c := (p.stages.map (fun g => stageCost g.op g.type)).sum
  let beats := ((List.range p.rows).map (fun r => ((x.beatLoads r).map (fun n => max c n)).sum)).sum
  3 + beats + 2 * p.stages.length + 4 + (if p.redOp ≠ 0 then 6 else 0) + (if p.mode ≠ 0 then 2 else 0)

/-- A program's side words lie within the scratchpad, on their boundaries (R172, R180, R188). -/
def VProg.sideLegal (p : VProg) : Bool :=
  (p.lenSrc == 0 || (p.lenOff % 32 == 0 && p.lenOff + 8 * p.rows ≤ 0x200000)) &&
  (p.mode == 0 || p.countOff == 0xFFFFFFFF || (p.countOff % 32 == 0 && p.countOff + 8 * p.rows ≤ 0x200000)) &&
  (p.flagOff == 0xFFFFFFFF || p.flagOff + 32 ≤ 0x200000)

end Sys2Proof.Machine
end

