-- ==== Sys2Proof/Machine/Tile.lean ====
section
/-! DEFINITION. What the matrix array computes: gang geometry, stationary sets, slices, tiles and COMBINE (R106-R147). -/

namespace Sys2Proof.Machine

/-! ## Gangs (R113, R115, R146) -/

/-- Rows and columns of an islet's array, of a quadrant in quadrant organisation. -/
def gangH (g : List Byte) : Nat := match gangOrg g with
  | 0 => 64 / 2 ^ gangShape g
  | 1 => 32
  | _ => 64
def gangW (g : List Byte) : Nat := match gangOrg g with
  | 0 => 64 * 2 ^ gangShape g
  | 1 => 32
  | _ => 64

/-- A gang record keeps R146's limits. -/
def gangLegal (g : List Byte) : Bool :=
  gangOrg g ≤ 2 && gangId g ≤ 15 && (if gangOrg g = 0 then gangShape g ≤ 3 else gangShape g == 0 && gangRows g == 1 && gangCols g == 1) &&
  1 ≤ gangRows g && gangRow0 g + gangRows g ≤ 4 && 1 ≤ gangCols g && gangCol0 g + gangCols g ≤ 4

/-- The positions of a gang's members, row by row; the first is the lead islet's. -/
def gangPositions (g : List Byte) : List Nat :=
  (List.range (gangRows g)).flatMap (fun i => (List.range (gangCols g)).map (fun j =>
    4 * (gangRow0 g + i) + gangCol0 g + j))

/-! ## Formats (R108, R135) -/

/-- The rate class of a format; 0 outside the table, but for FP32 and slice mode. -/
def fmtClass (f : Nat) : Nat :=
  if f ≤ 2 then 1 else if f ≤ 8 ∨ f = 0xA ∨ f = 0xB ∨ f = 0xE then 2 else if f = 9 then 4 else 0

/-- A format whose cells hold integers. -/
def fmtIntCells (f : Nat) : Bool := f == 0xA || f == 0xB || f == 0xE

/-- The format of the elements that cells hold. -/
def cellFmt (f : Nat) : Nat := if f = 0 then 1 else if f = 0xE then 0xA else f

/-- A moving format may meet a stationary one (R108, R137). That slices meet only slices, though INT8 and UINT8 lie in the
same integer class, is the model's reading: R108 says nothing of it (DESIGN CHOICE, log entry 64). -/
def fmtMeets (stat mov : Nat) : Bool :=
  fmtClass stat != 0 && fmtClass stat == fmtClass mov && fmtIntCells stat == fmtIntCells mov && ((stat == 0xE) == (mov == 0xE))

/-- Values of k per islet and pass. -/
def kPer (g : List Byte) (f : Nat) : Nat := fmtClass f * gangH g

/-- Pairs of slice mode, and the index of a pair (R139). -/
def slicePairs (s : Nat) : Nat := s * (s + 1) / 2
def pairIndex (s j k : Nat) : Nat := (j - 1) * (s + 1) - (j - 1) * j / 2 + (k - 1)

/-- The BF16 part of an FP32 element (R135). -/
def splitFp32 (lo : Bool) (code : Nat) : Nat :=
  let x := fmtFp32.decode code
  let near := (fmtBf16.round 0 0 false x).1
  let hi := match x with
    | .fin _ _ _ => if (fmtBf16.decode near).isFinite then near else (fmtBf16.round 1 0 false x).1
    | _ => near
  if !lo then hi
  else if !x.isFinite then 0
  else (fmtBf16.round 0 0 false (addNum 0 x (negNum (fmtBf16.decode hi))).1).1

/-- An exponent of slice mode: a reserved value, or one in range (R136). -/
def expLegal (e : Nat) : Bool :=
  e == 0x7FFF || e == 0x8000 || (-1073 ≤ signedOf 16 e && signedOf 16 e ≤ 1024)

/-- The digits of an FP64 element as an integer `q` of `s` base-128 digits, its sign, and its flags (R137). -/
def sliceOf (s e code : Nat) : Bool × Nat × Nat :=
  match fmtFp64.decode code with
  | .nan _ => (false, 0, fNI)
  | .inf _ => (false, 0, fNV)
  | .fin neg m ex =>
    if m = 0 ∨ e = 0x7FFF ∨ e = 0x8000 then (neg, 0, 0)
    else
      let q := (cutAt m ex (signedOf 16 e - 7 * s)).1
      if 2 ^ (7 * s) ≤ q then (neg, 2 ^ (7 * s) - 1, fSR) else (neg, q, 0)

/-- Slice `j` as an INT8 code. -/
def sliceDigit (s j : Nat) (q : Bool × Nat × Nat) : Nat :=
  let d := q.2.1 / 128 ^ (s - j) % 128
  wrapTo 8 (if q.1 then -(d : Int) else d)

/-! ## Loading (R119-R121) -/

/-- The place of a stored element: its row's byte offset, its index in the row. -/
def storedPlace (off stride w row col : Nat) : Place := ⟨0, ((8 * (off + row * stride) + col * w : Nat) : Int), w⟩

/-- The raw code of a stored element. -/
def storedCode (sp : Memory) (d : List Byte) (row col : Nat) : Nat :=
  readBits sp (storedPlace (descSrc d) (descSrcStride d) (fmtBits (descFmt d)) row col)

/-- The code a cell holds for stationary element (k, n), with the flags of its slicing. -/
def loadCode (sp : Memory) (d : List Byte) (k n : Nat) : Flagged Nat :=
  let raw := if descTranspose d then storedCode sp d n k else storedCode sp d k n
  if descFmt d = 0 then (splitFp32 (descPartLo d) raw, 0)
  else if descFmt d = 0xE then
    let q := sliceOf (descSlices d) (memNat sp (descExp d + 2 * n) 2) raw
    (sliceDigit (descSlices d) (descSliceIdx d) q, q.2.2)
  else (raw, 0)

/-- The bits and bytes of a descriptor that R147 wants zero. -/
def descZeros (d : List Byte) : Bool := bytesAt d 7 1 / 16 == 0 && bytesAt d 0x34 12 == 0

/-- The flag word of an operation lies within the scratchpad, on a boundary (R112, R147). -/
def flagOffLegal (d : List Byte) : Bool := descFlagOff d == noOffset || (descFlagOff d % 32 == 0 && descFlagOff d + 32 ≤ 0x200000)

/-- A LOAD descriptor keeps its limits under a gang. -/
def loadLegal (g d : List Byte) : Bool :=
  let s := descSlices d
  fmtClass (descFmt d) != 0 && descSrc d % 32 == 0 && descSrcStride d % 32 == 0 &&
  !(descTranspose d && fmtIsMx (descFmt d)) &&
  (!fmtIsMx (descFmt d) || descExp d % 32 == 0) &&
  (if descFmt d = 0xE then 5 ≤ s && s ≤ 9 && 1 ≤ descSliceIdx d && descSliceIdx d ≤ s && descExp d % 2 == 0
   else s == 0 && descSliceIdx d == 0) &&
  (let K := kPer g (descFmt d)
   let (rows, cols) := if descTranspose d then (gangW g, K) else (K, gangW g)
   descSrc d + (rows - 1) * descSrcStride d + (cols * fmtBits (descFmt d) + 7) / 8 ≤ 0x200000 &&
   (!fmtIsMx (descFmt d) || descExp d + (K + 31) / 32 * gangW g ≤ 0x200000) &&
   (descFmt d != 0xE || descExp d + 2 * gangW g ≤ 0x200000))

/-- The column exponents of a slice LOAD are legal. -/
def loadExps (sp : Memory) (g d : List Byte) : Bool :=
  descFmt d != 0xE || (List.range (gangW g)).all (fun n => expLegal (memNat sp (descExp d + 2 * n) 2))

/-- The stationary set a LOAD writes, with its flags (R119, R137). Log entry 29. -/
def loadSet (sp : Memory) (g d : List Byte) : Flagged StatSet :=
  let W := gangW g
  let K := kPer g (descFmt d)
  let codes := (List.range (K * W)).map (fun x => (x, loadCode sp d (x / W) (x % W)))
  ({ state := 2, fmt := descFmt d, slice := if descFmt d = 0xE then descSliceIdx d else 0
     elems := codes.filterMap (fun e => if e.2.1 = 0 then none else some (e.1, e.2.1))
     scales := if fmtIsMx (descFmt d) then (List.range ((K + 31) / 32 * W)).filterMap (fun x =>
       let b := (memByte sp (descExp d + x)).toNat
       if b = 0 then none else some (x, b)) else [] },
   orFlags (codes.map Prod.snd))

/-- Bytes a LOAD reads (R121). -/
def loadBytes (g d : List Byte) : Nat :=
  let per := match descFmt d with
    | 0 => 16384
    | 7 => 6144
    | 8 => 6144
    | 0xE => 65536
    | _ => 8192
  (if gangOrg g = 1 then per / 4 else per) + (if descFmt d = 0xE then 2 * gangW g else 0) +
    (if fmtIsMx (descFmt d) then (kPer g (descFmt d) + 31) / 32 * gangW g else 0)

/-! ## Rows (R133, R134) -/

/-- Row `m` is live. -/
def rowLive (sp : Memory) (d : List Byte) (m : Nat) : Bool :=
  descMask d == noOffset || (memByte sp (descMask d + m / 8)).toNat.testBit (m % 8)

/-- The live rows of a TILE. -/
def liveRows (sp : Memory) (d : List Byte) : List Nat := (List.range (descM d)).filter (rowLive sp d)

/-- The row groups of a TILE, and those with a live row. -/
def rowGroups (d : List Byte) : Nat := (descM d + 7) / 8
def fedGroups (sp : Memory) (d : List Byte) : List Nat :=
  (List.range (rowGroups d)).filter (fun g => (List.range 8).any (fun k => 8 * g + k < descM d && rowLive sp d (8 * g + k)))

/-- The number of fed rows, M_f. -/
def fedRows (sp : Memory) (d : List Byte) : Nat :=
  ((fedGroups sp d).map (fun g => min 8 (descM d - 8 * g))).sum

/-! ## The slice cache (R138) -/

/-- A key of the slice cache: row, local k, slice from 1. -/
def cacheKey (K s m k j : Nat) : Nat := (m * K + k) * s + (j - 1)

/-- The cache a filling TILE leaves, with its flags. Every row of a fed group is read and cut, a masked one without flags;
rows of a group that is never fed are not read, and a masked row need not have a legal exponent: `free` gives the slices of
those (R134, R138). Log entry 29. -/
def fillCache (sp : Memory) (g d : List Byte) (free : Nat → Nat) : Flagged (Store Nat) :=
  let s := descSlices d
  let K := kPer g (descFmt d)
  let cells := (List.range (descM d * K)).map (fun x =>
    let m := x / K
    let e := memNat sp (descExp d + 2 * m) 2
    if rowLive sp d m || ((fedGroups sp d).contains (m / 8) && expLegal e) then
      let q := sliceOf s e (storedCode sp d m (x % K))
      ((List.range s).map (fun j => (x * s + j, sliceDigit s (j + 1) q)), if rowLive sp d m then q.2.2 else 0)
    else ((List.range s).map (fun j => (x * s + j, wrapTo 8 ((free (x * s + j) % 255 : Int) - 127))), 0))
  ((cells.flatMap Prod.fst).filter (fun e => e.2 ≠ 0), orFlags cells)

/-! ## Tiles (R109, R114-R118, R125, R126) -/

/-- A member of a gang as a tile operation meets it: descriptor, stationary set, scratchpad, slice cache. -/
structure TileMember where
  desc : List Byte
  set : StatSet
  sp : Memory
  cache : Store Nat
  deriving DecidableEq, Repr

/-- Stationary element (k, n) as a value, its block's scale included. -/
def statNum (t : StatSet) (W k n : Nat) : Num :=
  let code := storeGet 0 t.elems (k * W + n)
  (if fmtIsMx t.fmt then mxValue t.fmt (storeGet 0 t.scales (k / 32 * W + n)) code else decodeNum (cellFmt t.fmt) code).quiet

/-- Moving element (m, k) of an islet's block as a value, its block's scale included. -/
def movingNum (g : List Byte) (t : TileMember) (m k : Nat) : Num :=
  let d := t.desc
  if descFmt d = 0xE then
    decodeNum 0xA (storeGet 0 t.cache (cacheKey (kPer g (descFmt d)) (descSlices d) m k (descSliceIdx d)))
  else
    let raw := storedCode t.sp d m k
    (if descFmt d = 0 then fmtBf16.decode (splitFp32 (descPartLo d) raw)
     else if fmtIsMx (descFmt d) then mxValue (descFmt d) (memByte t.sp (descExp d + 32 * m + k / 32)).toNat raw
     else decodeNum (descFmt d) raw).quiet

/-- The exact sum of products and of what arrives; a NaN that arrives sets NI. -/
def exactSum (xs : List (Flagged Num)) : Flagged Num :=
  let f := orFlags xs
  if xs.any (fun x => x.1.isNan) then (.nan false, f)
  else
    let pos := xs.any (fun x => x.1 == .inf false)
    let neg := xs.any (fun x => x.1 == .inf true)
    if pos && neg then (.nan false, f ||| fNV)
    else if pos || neg then (.inf neg, f)
    else match xs with
      | [] => (.zero, 0)
      | x :: rest => (rest.foldl (fun a y => (addNum 0 a y.1).1) x.1, f)

/-- A value that arrives at an addition. -/
def arriving (code : Nat) : Flagged Num :=
  let v := (fmtFp32.decode code).quiet
  (v, flagIf v.isNan fNI)

/-- One addition of a column: exact products, with or without a partial sum, rounded once to FP32. -/
def cellAdd (partialSum : Option Nat) (prods : List (Flagged Num)) : Flagged Nat :=
  finishNum fmtFp32 0 0 false (exactSum ((match partialSum with
    | none => []
    | some p => [arriving p]) ++ prods))

/-- The products of a run of k in one islet. -/
def productsOf (W : Nat) (st : StatSet) (mov : Nat → Num) (n lo len : Nat) : List (Flagged Num) :=
  (List.range len).map (fun i => mulNum (statNum st W (lo + i) n) (mov (lo + i)))

/-- The runs of products that one addition each takes, down an islet's column: a cell's elements, or a block where an
operand is MX. -/
def isletRuns (W c K n : Nat) (row : StatSet × (Nat → Num) × Bool) : List (List (Flagged Num)) :=
  let len := if row.2.2 then min 32 K else c
  (List.range ((K + len - 1) / len)).map (fun b => productsOf W row.1 row.2.1 n (b * len) (min len (K - b * len)))

/-- The runs down a column of a gang; where an islet holds half a block, two islets hold the block (R109). Log entry 29. -/
def columnRuns (W c K n : Nat) : List (StatSet × (Nat → Num) × Bool) → List (List (Flagged Num))
  | [] => []
  | [a] => isletRuns W c K n a
  | a :: b :: rest =>
    (if K < 32 ∧ a.2.2 = true ∧ b.2.2 = true then [productsOf W a.1 a.2.1 n 0 K ++ productsOf W b.1 b.2.1 n 0 K]
     else isletRuns W c K n a ++ isletRuns W c K n b) ++ columnRuns W c K n rest

/-- A floating column sum of one moving row down a column of a gang: the islets' sets and moving rows, top first. -/
def floatColumn (W c K n : Nat) (rows : List (StatSet × (Nat → Num) × Bool)) : Option Nat × Nat :=
  (columnRuns W c K n rows).foldl (fun (acc : Option Nat × Nat) run =>
    let (v, f) := cellAdd acc.1 run
    (some v, acc.2 ||| f)) (none, 0)

/-- An integer column sum, wrapping in INT32 at each cell. -/
def intColumn (W c K n : Nat) (rows : List (StatSet × (Nat → Num) × Bool)) : Flagged Nat :=
  let int : Num → Int
    | .fin neg m e => sigAt neg m e 0
    | _ => 0
  rows.foldl (fun acc row =>
    (List.range (K / c)).foldl (fun (acc : Nat × Nat) r =>
      let v := ((List.range c).map (fun i => int (statNum row.1 W (r * c + i) n) * int (row.2.1 (r * c + i)))).sum
      let (s, f) := wrapInt (signedOf 32 acc.1 + v)
      (s, acc.2 ||| f)) acc) (0, 0)

/-- Accumulator entry of result (m, n) (R125, R139). -/
def accEntry (d : List Byte) (W slice m n : Nat) : Nat :=
  if descFmt d = 0xE then
    let s := descSlices d
    descAccBase d + (m * W + n) * slicePairs s + pairIndex s slice (descSliceIdx d)
  else descAccBase d + m * W + n

/-- The new value of an entry, in slice mode too (R109, R118, R125, R139). -/
def newEntry (g : List Byte) (d : List Byte) (W K n : Nat) (rows : List (StatSet × (Nat → Num) × Bool)) (old : Nat) : Flagged Nat :=
  let c := fmtClass (descFmt d)
  if fmtIntCells (descFmt d) then
    let (v, f) := intColumn W c K n rows
    if descAccAdd d then (wrapInt (signedOf 32 old + signedOf 32 v)).and f else (v, f)
  else if gangOrg g = 2 then
    cellAdd (if descAccAdd d then some old else none) (rows.flatMap (fun r => productsOf W r.1 r.2.1 n 0 K))
  else
    let (v, f) := floatColumn W c K n rows
    if descAccAdd d then
      (finishNum fmtFp32 0 0 false (exactSum [arriving old, arriving (v.getD 0)])).and f
    else (v.getD 0, f)

/-- The output formats of R126. -/
def outLegal (d : List Byte) : Bool :=
  if fmtIntCells (descFmt d) then descOutFmt d == 0xD else descOutFmt d ≤ 6

/-- The writes of one output row: values and MX scale bytes, with flags (R126). -/
def outRow (d : List Byte) (gcol W m : Nat) (vals : List Nat) : List BitWrite × List BitWrite × Nat :=
  let f := descOutFmt d
  let w := fmtBits f
  let src : Nat → Num := if fmtIntCells (descFmt d) then decodeNum 0xD else fmtFp32.decode
  let u (n : Nat) : Nat := srDraw (descSeed d) 15 gcol m n
  let at_ (n : Nat) : Place := storedPlace (descOut d) (descOutStride d) w m n
  if fmtIsMx f then
    (List.range (W / 32)).foldl (fun acc j =>
      let xs := (vals.drop (32 * j)).take 32
      let (sc, codes, fl) := mxBlock f (descRnd d) (descSat d) (xs.zipIdx.map (fun e => (src e.1, u (32 * j + e.2))))
      (acc.1 ++ codes.zipIdx.map (fun e => ⟨at_ (32 * j + e.2), e.1⟩),
       acc.2.1 ++ [⟨⟨0, ((8 * (descExp2 d + m * (W / 32) + j) : Nat) : Int), 8⟩, sc⟩], acc.2.2 ||| fl)) ([], [], 0)
  else
    let rs := vals.zipIdx.map (fun e => convertNum f (fmtIntCells (descFmt d)) (descRnd d) (u e.2) (descSat d) (src e.1))
    (rs.zipIdx.map (fun e => ⟨at_ e.2, e.1.1⟩), [], orFlags rs)

/-- A TILE descriptor keeps its limits under a gang, in the role its member has: moving operand, or accumulator and
outputs; fields its role does not use are ignored (R116). The accumulator and scratchpad limits are judged over all M rows,
masked ones included: R125 does not say (DESIGN CHOICE, log entry 64). Those of a slice TILE's accumulator entries depend on the
active set's slice (`tileMeets`). -/
def tileLegal (g d : List Byte) (feeds ends : Bool) : Bool :=
  let M := descM d
  let s := descSlices d
  let K := kPer g (descFmt d)
  let W := gangW g
  fmtClass (descFmt d) != 0 &&
  (descMask d == noOffset || (descMask d % 32 == 0 && descMask d + (M + 7) / 8 ≤ 0x200000)) &&
  (!(feeds || ends) || M == 0 ||
    (if descFmt d = 0xE then 5 ≤ s && s ≤ 9 && 1 ≤ descSliceIdx d && descSliceIdx d ≤ s else s == 0 && descSliceIdx d == 0)) &&
  (!feeds || M == 0 || (descFmt d == 0xE && descSrc d == noOffset) ||
    (descSrc d % 32 == 0 && descSrcStride d % 32 == 0 &&
     descSrc d + (M - 1) * descSrcStride d + (K * fmtBits (descFmt d) + 7) / 8 ≤ 0x200000 &&
     (!fmtIsMx (descFmt d) || (descExp d % 32 == 0 && descExp d + 32 * (M - 1) + (K + 31) / 32 ≤ 0x200000)) &&
     (descFmt d != 0xE || (descExp d % 2 == 0 && descExp d + 2 * M ≤ 0x200000 && M * K * s ≤ 32768)))) &&
  (!ends || M == 0 ||
    ((descFmt d == 0xE || decide (descAccBase d + M * W ≤ 65536)) &&
     (!descWriteOut d || (outLegal d && descRnd d ≤ 4 && descOut d % 32 == 0 && descOutStride d % 32 == 0 &&
       descOut d + (M - 1) * descOutStride d + W * fmtBits (descOutFmt d) / 8 ≤ 0x200000 &&
       (!fmtIsMx (descOutFmt d) || (descExp2 d % 32 == 0 && descExp2 d + M * (W / 32) ≤ 0x200000))))))

/-- The row exponents a filling TILE reads are legal. -/
def tileExps (sp : Memory) (d : List Byte) : Bool :=
  descFmt d != 0xE || descSrc d == noOffset || (liveRows sp d).all (fun m => expLegal (memNat sp (descExp d + 2 * m) 2))

/-- What a TILE leaves at a member of the last gang row: accumulator, scratchpad, flags. The members come row by row.
Log entry 29. -/
def tileEnd (g : List Byte) (mems : List TileMember) (gcol : Nat) (acc : Store Nat) : Store Nat × Memory × Nat :=
  let gc := gangCols g
  let W := gangW g
  let last := (mems[(gangRows g - 1) * gc + gcol]?).getD ⟨[], {}, [], []⟩
  let d := last.desc
  let K := kPer g (descFmt d)
  let rows := liveRows last.sp d
  let column (m : Nat) : List (StatSet × (Nat → Num) × Bool) := (List.range (gangRows g)).map (fun i =>
    let here := (mems[i * gc + gcol]?).getD last
    let feeder := (mems[i * gc]?).getD last
    (here.set, movingNum g feeder m, fmtIsMx here.set.fmt || fmtIsMx (descFmt feeder.desc)))
  let (acc, writes, scales, f) := rows.foldl (fun (a : Store Nat × List BitWrite × List BitWrite × Nat) m =>
    let col := column m
    let news := (List.range W).map (fun n => newEntry g d W K n col (storeGet 0 a.1 (accEntry d W last.set.slice m n)))
    let acc := news.zipIdx.foldl (fun acc e => storeSet 0 acc (accEntry d W last.set.slice m e.2) e.1.1) a.1
    let (w, sc, fo) := if descWriteOut d then outRow d gcol W m (news.map Prod.fst) else ([], [], 0)
    (acc, a.2.1 ++ w, a.2.2.1 ++ sc, a.2.2.2 ||| orFlags news ||| fo)) (acc, [], [], 0)
  (acc, writeLanes (writeLanes last.sp writes) scales, f)

/-- The cycles from a TILE's start within which it cannot complete (R130, R134, R138). -/
def tileCycles (g : List Byte) (sp : Memory) (d : List Byte) : Nat :=
  let mf := fedRows sp d
  if mf = 0 then 3
  else
    let mw := if descWriteOut d then (liveRows sp d).length else 0
    let O := (mw * gangW g * fmtBits (descOutFmt d) / 8 + 255) / 256
    let feed := if descFmt d = 0xE ∧ descSrc d ≠ noOffset then (8 * kPer g (descFmt d) + 255) / 256 * mf else mf
    max feed O + (match gangOrg g with
      | 0 => gangH g * gangRows g + (gangRows g - 1) + (gangCols g - 1) + 4
      | 1 => 36
      | _ => 10)

/-! ## COMBINE (R139-R142) -/

/-- A COMBINE descriptor keeps its limits. -/
def combineLegal (g d : List Byte) : Bool :=
  let s := descSlices d
  let n := descM d * gangW g
  5 ≤ s && s ≤ 9 && descRnd d ≤ 4 && descAccBase d + n * slicePairs s ≤ 65536 &&
  (!descAccAdd d || (descSrc d % 32 == 0 && descSrc d + 16 * n ≤ 0x200000)) &&
  (if descFinal d then descOutFmt d == 0xE && descOut d % 32 == 0 && descOutStride d % 32 == 0 &&
      (descM d == 0 || descOut d + (descM d - 1) * descOutStride d + 8 * gangW g ≤ 0x200000) &&
      descExp d % 2 == 0 && descExp d + 2 * descM d ≤ 0x200000 && descExp2 d % 2 == 0 && descExp2 d + 2 * gangW g ≤ 0x200000
   else descOut d % 32 == 0 && descOut d + 16 * n ≤ 0x200000)

/-- The exponents of a final COMBINE are legal. -/
def combineExps (sp : Memory) (g d : List Byte) : Bool :=
  !descFinal d || ((List.range (descM d)).all (fun m => expLegal (memNat sp (descExp d + 2 * m) 2)) &&
    (List.range (gangW g)).all (fun n => expLegal (memNat sp (descExp2 d + 2 * n) 2)))

/-- The exact integer of result (m, n), in 128-bit two's complement (R141). -/
def combineX (sp : Memory) (acc : Store Nat) (d : List Byte) (W m n : Nat) : Nat :=
  let s := descSlices d
  let sum := ((List.range s).flatMap (fun j => (List.range (s - j)).map (fun k =>
    signedOf 32 (storeGet 0 acc (descAccBase d + (m * W + n) * slicePairs s + pairIndex s (j + 1) (k + 1))) *
      2 ^ (7 * (s - 1 - j - k))))).sum
  let old : Int := if descAccAdd d then signedOf 128 (memNat sp (descSrc d + 16 * (m * W + n)) 16) else 0
  wrapTo 128 (sum + old)

/-- The FP64 result of a final COMBINE; one that rounds to zero is +0 (R141, R145.3). -/
def combineFinal (sp : Memory) (d : List Byte) (gcol m n x : Nat) : Flagged Nat :=
  let ea := memNat sp (descExp d + 2 * m) 2
  let eb := memNat sp (descExp2 d + 2 * n) 2
  if ea = 0x7FFF ∨ eb = 0x7FFF then (fmtFp64.nan, fNV)
  else if ea = 0x8000 ∨ eb = 0x8000 then (0, 0)
  else
    let v := signedOf 128 x
    if v = 0 then (0, 0)
    else
      let (r, f) := fmtFp64.round (descRnd d) (srDraw (descSeed d) 14 gcol m n) (descSat d)
        (.fin (decide (v < 0)) v.natAbs (signedOf 16 ea + signedOf 16 eb - 7 * (descSlices d + 1)))
      (if r % 2 ^ 63 = 0 then 0 else r, f)

/-- What a COMBINE writes, with its flags. -/
def combineWrites (sp : Memory) (acc : Store Nat) (g d : List Byte) (gcol : Nat) : Memory × Nat :=
  let W := gangW g
  (List.range (descM d * W)).foldl (fun (a : Memory × Nat) i =>
    let m := i / W
    let n := i % W
    let x := combineX sp acc d W m n
    if descFinal d then
      let (v, f) := combineFinal sp d gcol m n x
      (memWrite a.1 (descOut d + m * descOutStride d + 8 * n) (leBytes 8 v), a.2 ||| f)
    else (memWrite a.1 (descOut d + 16 * i) (leBytes 16 x), a.2)) (sp, 0)

/-- The cycles of a COMBINE (R142). -/
def combineCycles (g d : List Byte) : Nat :=
  let n := descM d * gangW g
  let B := (if descFinal d then 8 else 16) + (if descAccAdd d then 16 else 0)
  8 + (n * slicePairs (descSlices d) + 31) / 32 + (n * B + 255) / 256

/-! ## What unfinished operations touch (R129) -/

/-- Accumulator entries and scratchpad ranges, in whole 8-byte lanes, that a TILE, or a COMBINE, writes at a member of the
last gang row. -/
def tileTouches (sp : Memory) (g d : List Byte) (slice : Nat) : List Nat × List (Nat × Nat) :=
  let W := gangW g
  let rows := liveRows sp d
  (rows.flatMap (fun m => (List.range W).map (fun n => accEntry d W slice m n)),
   if descWriteOut d then
     rows.map (fun m => (descOut d + m * descOutStride d, (W * fmtBits (descOutFmt d) / 8 + 7) / 8 * 8)) ++
     (if fmtIsMx (descOutFmt d) then rows.map (fun m =>
        let lo := (descExp2 d + m * (W / 32)) / 8 * 8
        (lo, (descExp2 d + (m + 1) * (W / 32) + 7) / 8 * 8 - lo)) else [])
   else [])
def combineTouches (g d : List Byte) : List (Nat × Nat) :=
  if descFinal d then (List.range (descM d)).map (fun m => (descOut d + m * descOutStride d, 8 * gangW g))
  else [(descOut d, 16 * descM d * gangW g)]

end Sys2Proof.Machine
end

