-- ==== Sys2Proof/Machine/Islet.lean ====
section
/-! DEFINITION. What an islet's families share: its scratchpad, event flags and sequencer state, how it starts, stops
and is cleared, and the control packets it sends (R81, R87, R100-R104, R128). -/

namespace Sys2Proof.Machine

/-- An islet. -/
def State.islet (s : State) (i : Nat) : Islet := storeGet {} s.islets i

/-- Set an islet. -/
def State.setIslet (s : State) (i : Nat) (x : Islet) : State := { s with islets := storeSet {} s.islets i x }

/-- Change an islet. -/
def State.modIslet (s : State) (i : Nat) (f : Islet → Islet) : State := s.setIslet i (f (s.islet i))

/-- The sequencer states of ISL_STAT. -/
def seqIdle : Nat := 0
def seqRunning : Nat := 1
def seqWaiting : Nat := 2
def seqHalted : Nat := 3
def seqFault : Nat := 4

/-- An islet's sequencer state. -/
def State.seqState (s : State) (i : Nat) : Nat := s.fld .ISL_STAT_SEQ_STATE i

/-- An islet's sequencer is running or waiting. -/
def State.isletActive (s : State) (i : Nat) : Bool := s.seqState i == seqRunning || s.seqState i == seqWaiting

/-- Set event flags of an islet (R101). -/
def State.setFlags (s : State) (i mask : Nat) : State :=
  s.setFld .ISL_STAT_FLAGS i 0 (s.fld .ISL_STAT_FLAGS i ||| mask % 2 ^ 32)

/-- Clear event flags of an islet. -/
def State.clearFlags (s : State) (i mask : Nat) : State :=
  s.setFld .ISL_STAT_FLAGS i 0 (s.fld .ISL_STAT_FLAGS i &&& ((2 ^ 32 - 1) ^^^ (mask % 2 ^ 32)))

/-- The instruction at an islet's program counter. Log entry 22. -/
def State.instruction (s : State) (i : Nat) : Word := storeGet 0 (s.islet i).prog (s.fld .ISL_STAT_PC i)

/-- Read a 32-byte word, or any bytes, of a scratchpad. -/
def State.spRead (s : State) (i off n : Nat) : List Byte := memRead (s.islet i).sp off n

/-- Write bytes into a scratchpad. -/
def State.spWrite (s : State) (i off : Nat) (bs : List Byte) : State :=
  s.modIslet i (fun x => { x with sp := memWrite x.sp off bs })

/-- An engine of an islet. -/
def Islet.engine (x : Islet) (e : Nat) : CopyEngine := if e = 0 then x.eng0 else x.eng1

/-- Set an engine of an islet. -/
def Islet.setEngine (x : Islet) (e : Nat) (v : CopyEngine) : Islet := if e = 0 then { x with eng0 := v } else { x with eng1 := v }

/-- ISL_COPY_STAT shows an engine's queue and plan. -/
def State.copyStat (s : State) (i e : Nat) : State :=
  let v := (s.islet i).engine e
  let s := (s.setFld .ISL_COPY_STAT_QUEUED i e v.queue.length).setFld .ISL_COPY_STAT_BUSY i e (natOf v.run.isSome)
  match v.run with
  | some r => s.setFld .ISL_COPY_STAT_PLAN i e r.plan
  | none => s

/-- MX_STAT and VX_STAT show the queues and the stationary sets of the array, or of quadrant 0. -/
def State.queueStat (s : State) (i : Nat) : State :=
  let x := s.islet i
  let act := storeGet ({} : StatSet) x.mx.active 0
  let sh := storeGet ({} : StatSet) x.mx.shadow 0
  let s := (s.setFld .MX_STAT_QUEUED i 0 x.mx.queue.length).setFld .VX_STAT_QUEUED i 0 x.vx.queue.length
  let s := (s.setFld .MX_STAT_ACTIVE_FMT i 0 act.fmt).setFld .MX_STAT_ACTIVE_SLICE i 0 act.slice
  (s.setFld .MX_STAT_SHADOW i 0 sh.state).setFld .MX_STAT_ACTIVE_VALID i 0 (natOf (act.state == 2))

/-- The gang record an islet acts under (R146). -/
def State.gangOf (s : State) (i : Nat) : List Byte :=
  let g := (s.islet i).mx.gang
  if g.isEmpty then loneGang (islPos i) else g

/-- The members of an islet's gang, row by row; the first is the lead islet. -/
def State.gangIslets (s : State) (i : Nat) : List Nat := (gangPositions (s.gangOf i)).map (· + 16 * islAtoll i)

/-- An islet's gang row and column. -/
def State.gangRow (s : State) (i : Nat) : Nat := islPos i / 4 - gangRow0 (s.gangOf i)
def State.gangCol (s : State) (i : Nat) : Nat := islPos i % 4 - gangCol0 (s.gangOf i)

/-- A matrix descriptor of an islet, of the 1,024 its table holds (R147). -/
def Islet.desc (x : Islet) (n : Nat) : List Byte := if n < 1024 then storeGet [] x.mx.descs n else []

/-- The program an islet holds at an index. -/
def State.vxProgram (s : State) (i n : Nat) : Option VProg :=
  ((s.islet i).vx.progs.find? (fun e => e.1 == n)).map (fun e => progOf e.2)

/-- What the running chain of an islet works on, with the row lengths it took when it started (R172). -/
def State.vxCtx (s : State) (i : Nat) (p : VProg) : VCtx :=
  let x := s.islet i
  { sp := x.sp, vregs := x.vx.vregs, lagoon := x.vx.lagoon, prog := p, E := p.beatWidth
    cols := (List.range p.rows).map (fun r => if p.lenSrc = 1 then x.vx.lens.getD r 0 else p.cols) }

/-- Both copy engines of an islet are idle with empty queues (R193). -/
def Islet.copyIdle (x : Islet) : Bool :=
  x.eng0.queue.isEmpty && x.eng1.queue.isEmpty && x.eng0.run.isNone && x.eng1.run.isNone

/-- A matrix array has nothing queued and nothing running. -/
def Matrix.idle (m : Matrix) : Bool :=
  m.queue.isEmpty && m.loads.isEmpty && m.tiles.all (·.2.isEmpty) && m.combine.isNone

/-- Every queued operation of an islet has completed (FENCE, R102). -/
def Islet.allDone (x : Islet) : Bool := x.copyIdle && x.mx.idle && x.vx.queue.isEmpty && x.vx.run.isNone

/-- The engines of an islet stop: copy plans, matrix operations and chains not finished are dropped; what their
unfinished operations touched holds unspecified values (R129, R187), and a set still loading is EMPTY (log entry 25). -/
def Islet.stopped (x : Islet) : Islet :=
  { x with eng0 := {}, eng1 := {}, portB := [], sendDone := 0, task := none,
           mx := { x.mx with queue := [], assembled := false, swapped := false, loads := [], tiles := [], combine := none,
                             shadow := x.mx.shadow.filter (fun e => e.2.state ≠ 1), waking := none, busyFrom := none },
           vx := { x.vx with queue := [], run := none, waitFrom := none, past := [] } }

/-- Give accumulator entries free values (R129; log entry 8). -/
def State.freeAcc (s : State) (i : Nat) (ks : List Nat) : State :=
  let s' := s.modIslet i (fun x => { x with mx := { x.mx with
    acc := ks.zipIdx.foldl (fun a k => storeSet 0 a k.1 (Config.freeNat (s.freeCtr + k.2) % 2 ^ 32)) x.mx.acc } })
  { s' with freeCtr := s.freeCtr + ks.length }

/-- Give scratchpad bytes free values. Log entry 8. -/
def State.freeBytes (s : State) (i off n : Nat) : State :=
  let s' := s.spWrite i off ((List.range n).map (fun k => BitVec.ofNat 8 (Config.freeNat (s.freeCtr + k))))
  { s' with freeCtr := s.freeCtr + n }

/-- Give the bits of a place free values. -/
def State.freePlace (s : State) (i : Nat) (p : Place) : State :=
  let v := s.free % 2 ^ p.width
  let s := s.drawn
  s.modIslet i (fun x => match p.store with
    | 0 => { x with sp := putAt x.sp p v }
    | 1 => { x with vx := { x.vx with vregs := putAt x.vx.vregs p v } }
    | _ => { x with vx := { x.vx with lagoon := putAt x.vx.lagoon p v } })

/-- What the matrix operations `ns` of a gang, by their number since the launch, touch at a member of its last row takes
unspecified values: accumulator entries and outputs of TILEs and COMBINE (R129). Log entry 25. -/
def State.freeGangOps (s : State) (j : Nat) (ns : List Nat) : State :=
  let x := s.islet j
  let g := s.gangOf j
  let s := ((x.mx.tiles.flatMap (·.2)).filter (fun op => ns.contains op.n)).foldl (fun s op =>
    let (es, rs) := tileTouches x.sp g (x.desc op.desc) op.set.slice
    rs.foldl (fun s r => s.freeBytes j r.1 r.2) (s.freeAcc j es)) s
  match x.mx.combine with
  | some op =>
    if ns.contains op.n then (combineTouches g (x.desc op.desc)).foldl (fun s r => s.freeBytes j r.1 r.2) s else s
  | none => s

/-- What the unfinished operations of an islet's array and chain touch takes unspecified values when it stops: what those
of its gang touch at every member of the last row, the chain's outputs, scales, counts (R129, R187). Log entry 25. -/
def State.freeUnfinished (s : State) (i : Nat) : State :=
  let x := s.islet i
  let ns := (x.mx.tiles.flatMap (·.2) ++ x.mx.combine.toList).map (·.n)
  let s := ((s.gangIslets i).filter (fun j => s.gangRow j + 1 == gangRows (s.gangOf j))).foldl (fun s j => s.freeGangOps j ns) s
  match x.vx.run with
  | none => s
  | some (n, _) =>
    match s.vxProgram i n with
    | none => s
    | some p =>
      let c := s.vxCtx i p
      let s := (c.outPlaces noFree 0 ++ c.outPlaces noFree 1).foldl (fun s w => s.freePlace i w.1) s
      let s := [0, 1].foldl (fun s k =>
        if fmtIsMx (p.outS k).fmt ∧ (p.outS k).src = 1 then
          (List.range p.rows).foldl (fun s r => (List.range ((c.colsOf r + 31) / 32)).foldl (fun s j =>
            s.freePlace i (c.scalePlace (p.outS k) r (32 * j))) s) s
        else s) s
      if p.mode = 0 ∨ p.countOff = 0xFFFFFFFF then s else s.freeBytes i p.countOff (8 * p.rows)

/-- HBR_GOV_STAT shows how many requests each die has queued. -/
def State.govStat (s : State) : State :=
  let n (d : Nat) : Nat := min 255 (storeGet [] s.gov.queues d).length
  (((s.setFld .HBR_GOV_STAT_QUEUED0 0 0 (n 0)).setFld .HBR_GOV_STAT_QUEUED1 0 0 (n 1)).setFld .HBR_GOV_STAT_QUEUED2 0 0 (n 2)
    ).setFld .HBR_GOV_STAT_QUEUED3 0 0 (n 3)

/-- A stopped or reset islet has its queued wake-up removed (R432). -/
def State.unqueueWake (s : State) (i : Nat) : State :=
  let q := storeGet [] s.gov.queues (islDie i)
  if q.contains (GovReq.wake i) then
    { s with gov := { s.gov with queues := storeSet [] s.gov.queues (islDie i) (q.filter (fun r => r ≠ GovReq.wake i)) } }.govStat
  else s

/-- Stop an islet as ISL_CTL.STOP does: its sequencer and engines stop and it reports FAULT with a cause; one that has
halted or faulted keeps its state (R87.3). What its unfinished operations touch is unspecified, halted or not (R129, R187).
Log entries 25 and 59. -/
def State.stopIslet (s : State) (i cause : Nat) : State :=
  let s := s.freeUnfinished i
  let s := if s.isletActive i then
      (s.setFld .ISL_STAT_SEQ_STATE i 0 seqFault).setFld .ISL_STAT_FAULT_CAUSE i 0 cause
    else s
  let s := (s.modIslet i Islet.stopped).unqueueWake i
  (((s.copyStat i 0).copyStat i 1).queueStat i).setFld .VX_STAT_BUSY i 0 0

/-- FAULT_CAUSE of a stopped islet. -/
def causeStopped : Nat := 4

/-- Stop the islets of a list that still run or wait (R87.3). Log entry 59. -/
def State.stopIslets (s : State) (is : List Nat) : State :=
  is.foldl (fun s i => if s.isletActive i then s.stopIslet i causeStopped else s) s

/-- An islet's sequencer starts at an entry-vector slot: flags as the image sets them, the program counter at the
slot's instruction, per-launch counts from zero; an unused slot halts it at once (R73, R92, R101, R104). The second
part says whether it halted at once. Loop counters keep what the last launch left; an islet in FAULT starts as any other, its
FAULT_CAUSE cleared; an entry of 8,192 to 0xFFFE is cut to 13 bits: the spec says none of these (DESIGN CHOICE, log entry 63). -/
def State.startIslet (s : State) (i slot : Nat) (task : Task) : State × Bool :=
  let x := s.islet i
  let idx := storeGet 0xFFFF x.entryVec slot
  let s := s.setIslet i { x with task := some task, sendDone := 0, mx := { x.mx with issued := 0 } }
  let s := s.setFld .ISL_STAT_FLAGS i 0 x.initFlags
  let s := s.setFld .ISL_STAT_FAULT_CAUSE i 0 0
  let s := (s.setFld .ISL_COPY_STAT_DONE i 0 0).setFld .ISL_COPY_STAT_DONE i 1 0
  if idx = 0xFFFF then (s.setFld .ISL_STAT_SEQ_STATE i 0 seqHalted, true)
  else ((s.setFld .ISL_STAT_PC i 0 idx).setFld .ISL_STAT_SEQ_STATE i 0 seqRunning, false)

/-- An islet's channels hold no unit and no word. -/
def Islet.drained (x : Islet) : Islet :=
  { x with sends := x.sends.map (fun e => (e.1, { e.2 with queue := [] })),
           recvs := x.recvs.map (fun e => (e.1, { e.2 with arrived := [], words := [], wr := 0 })),
           bufs := [], creditsIn := [] }

/-- The channel units of a function on the straits are discarded: their strait units carry none (R57.4). -/
def State.dropCargo (s : State) (fn : Nat) : State :=
  let bare (u : StraitUnit) : StraitUnit := if u.cargo.any (fun c => c.fn == fn) then { u with cargo := none } else u
  { s with lanes := s.lanes.map (fun e => (e.1, e.2.mapUnits bare)) }

/-- Clear an islet as QUIESCE does (R57.3, R57.4, R128, R187, R483): scratchpad, vector registers, lagoon buffers,
accumulator and stationary sets to zero, channels and queues empty, IDLE. -/
def State.clearIslet (s : State) (i : Nat) : State :=
  let s := s.modIslet i (fun x => { x.stopped.drained with
    sp := []
    counters := []
    mx := { x.stopped.mx with acc := [], active := [], shadow := [], cache := [], cacheRows := 0, cacheSlices := 0,
                              cacheFilled := false, issued := 0 }
    vx := { x.stopped.vx with vregs := [], lagoon := [] } })
  let s := s.setFld .ISL_STAT_SEQ_STATE i 0 seqIdle
  let s := (s.setFld .ISL_STAT_FAULT_CAUSE i 0 0).setFld .ISL_STAT_FLAGS i 0 0
  (((s.copyStat i 0).copyStat i 1).queueStat i).setFld .VX_STAT_BUSY i 0 0

/-- Remove an islet's configuration: program, entry vector, plans, descriptors, gang, chains, channels (R58, R68). -/
def State.unconfigureIslet (s : State) (i : Nat) : State :=
  let s := s.modIslet i (fun x => { x with
    prog := [], entryVec := [], initFlags := 0, plans := [], sends := [], recvs := [], segs := [], bufs := [], turns := [],
    creditsIn := [], malformed := false, mx := { x.mx with gang := [], gangBad := false, descs := [] }, vx := { x.vx with progs := [] } })
  ((s.setFld .ISL_PLAN_FREE_LOADED i 0 0).setFld .VX_LOADED_PROGS i 0 0).setReg .MX_CFG i 0 0

end Sys2Proof.Machine
end

