-- ==== Sys2Proof/Machine/Strait.lean ====
section
/-! DEFINITION. Straits: sending a unit, its arrival short of a failure, and the crossbar (R26-R34). -/

namespace Sys2Proof.Machine

/-- The island at the writing end of a direction. -/
def straitWriter (n : Nat) (ba : Bool) : Nat := if ba then (straitDesc n).2.1 else (straitDesc n).1

/-- The island at the reading end of a direction. -/
def straitReader (n : Nat) (ba : Bool) : Nat := if ba then (straitDesc n).1 else (straitDesc n).2.1

/-- The order of classes R29 gives: TC2, TC1, TC3, TC0. Log entry 18. -/
def classOrder : List Nat := [2, 1, 3, 0]

/-- The reader's class queue of 16 units has room for what is in flight and one more (R28, R30). -/
def Lane.room (l : Lane) : Bool := l.reader.length + l.flight.length < 16

/-- A class has a unit ready. -/
def Lane.isReady (l : Lane) : Bool := !l.ready.isEmpty

/-- Of some classes the one that has waited longest, the first of those listed where several have. Log entry 18. -/
def longestWait (waited : Nat → Nat) : List Nat → Option Nat
  | [] => none
  | c :: cs =>
    match longestWait waited cs with
    | none => some c
    | some d => if waited c < waited d then some d else some c

/-- The class a writer sends next (R29): of those that have been ready for STARVE_LIMIT cycles the one that reached the limit
first, else the first in the order with a unit ready and room. A limit of 0 acts as 1 (STR_ARB). Log entry 18. -/
def State.nextClass (s : State) (n : Nat) (ba : Bool) : Option Nat :=
  let limit := max 1 (s.fld .STR_ARB_STARVE_LIMIT n)
  let can := classOrder.filter (fun c => (s.lane n ba c).isReady && (s.lane n ba c).room)
  (longestWait (fun c => (s.lane n ba c).waited) (can.filter (fun c => limit ≤ (s.lane n ba c).waited))).or can.head?

/-- Take the first ready unit of a lane into flight. Log entry 18. -/
def Lane.send (l : Lane) : Lane :=
  match l.ready with
  | [] => l
  | (u, k) :: rest =>
    { l with ready := if k = 0 then rest else (u, k - 1) :: rest, flight := l.flight ++ [u], waited := 0 }

/-- Units that wait at their source move into the writer's queue as it has room (R30). Log entry 62. -/
def Lane.refill (l : Lane) : Lane :=
  match l.backlog with
  | [] => l
  | (u, k) :: rest =>
    let m := min (k + 1) (16 - l.readyCount)
    { l with ready := unitsJoin l.ready u m, backlog := if m = k + 1 then rest else (u, k - m) :: rest }

/-- The FULL bits of STR_STAT follow the reader queues of 16 (STR_STAT.FULL_AB, FULL_BA). -/
def State.straitFull (s : State) (n : Nat) : State :=
  let full (ba : Bool) := maskOf ((List.range 4).filter (fun c => decide (16 ≤ (s.lane n ba c).reader.length)))
  (s.setFld .STR_STAT_FULL_AB n 0 (full false)).setFld .STR_STAT_FULL_BA n 0 (full true)

/-- The writer queues of a direction take what waits for room in them. -/
def State.straitRefill (s : State) (n : Nat) (ba : Bool) : State :=
  classOrder.foldl (fun s k => s.setLane n ba k (s.lane n ba k).refill) s

/-- A writer cycle of strait `n`: the class R29 names sends a unit, where one can, and every other ready class has waited one
cycle more. -/
def execStraitUnitSend (n : Nat) (ba : Bool) (s : State) : Result :=
  if n < 35 ∧ s.straitCarries n = true ∧ s.straitRuns n = true then
    let s := s.straitRefill n ba
    let sent := s.nextClass n ba
    let s' := classOrder.foldl (fun s k =>
      let l := s.lane n ba k
      s.setLane n ba k (if sent = some k then l.send else if l.isReady then { l with waited := l.waited + 1 } else l)) s
    ok (s'.straitFull n)
  else ok s

/-- RETRY while any class and direction is in retry, UP otherwise (R34). -/
def State.straitRetryState (s : State) (n : Nat) : State :=
  let any := [false, true].any (fun ba => (List.range 4).any (fun c => (s.lane n ba c).retry))
  s.setFld .STR_STAT_STATE n 0 (if any then 2 else 1)

/-- A unit failed its check for the first time: the writer resends it and every later unit of its class and
direction from the retention buffer (R34). -/
def State.straitRetry (s : State) (n : Nat) (ba : Bool) (cls syndrome : Nat) : State :=
  let l := s.lane n ba cls
  let l' : Lane := { l with ready := l.flight.map (fun u => (u, 0)) ++ l.ready, flight := [], retry := true }
  ((((s.setLane n ba cls l').satFld .STR_ERR_RETRIES n 0 1).setFld .STR_ERR_LAST_SYNDROME n 0 syndrome
    ).straitRetryState n).straitFull n

/-- A unit passed its check: it stands in the reader's queue, consumable; a resent unit that passes ends the retry (R27, R31,
R34). A unit for the reader's own island that completes no channel unit or flit and finds the queue empty is taken in the same
event: when an island takes a consumable unit is left open (DESIGN CHOICE, log entry 62). -/
def State.straitPass (s : State) (n : Nat) (ba : Bool) (cls : Nat) : State :=
  let l := s.lane n ba cls
  match l.flight with
  | [] => s
  | u :: rest =>
    let taken := l.reader.isEmpty && u.cargo.isNone && u.transit.isNone && u.dst == straitReader n ba
    let s := s.setLane n ba cls { l with flight := rest, reader := if taken then l.reader else l.reader ++ [u], retry := false }
    ((s.addFld .STR_UNITS_UNITS n (natOf ba) 1).straitRetryState n).straitFull n

/-- The strait a unit for `dst` takes from isle die `die`. -/
def nextStrait (die dst : Nat) : Option Nat := (islandRoute die dst).head?

/-- The incoming straits of an isle die that hold, at the head of their reader queue of a class, a unit for an
outgoing strait; a FAILED one has stopped (R35). -/
def State.crossbarRivals (s : State) (die out cls : Nat) : List Nat :=
  (List.range 18).filter (fun n =>
    n ≠ out && ((straitDesc n).1 == die || (straitDesc n).2.1 == die) && s.straitCarries n &&
    (match (s.lane n (straitReader n true == die) cls).reader with
     | u :: _ => nextStrait die u.dst == some out
     | [] => false))

/-- The key of a crossbar turn. -/
def turnKey (die out cls : Nat) : Nat := (die * 64 + out) * 4 + cls

/-- A unit passes from the reader queue of strait `n` to the writer of strait `out`; the turn goes on (R32). Log entry 14. -/
def State.crossbarMove (s : State) (die out cls n : Nat) (u : StraitUnit) (rest : List StraitUnit) : State :=
  let rba := straitReader n true == die
  let ba := leavesBA out die
  let s := s.setLane n rba cls { s.lane n rba cls with reader := rest }
  let s := s.setLane out ba cls { s.lane out ba cls with ready := unitsJoin (s.lane out ba cls).ready u 1 }
  ({ s with xturn := storeSet 0 s.xturn (turnKey die out cls) (n + 1) }.straitFull n).straitFull out

/-- The crossbar of an isle die, unless its island relocks (R23), forwards one unit to an outgoing strait of the same class once
its queue of 16 has room; competing incoming straits take turns (R32). -/
def State.crossbarForward (s : State) (die out cls : Nat) : State :=
  if die < 4 ∧ out < 18 ∧ cls < 4 ∧ s.straitCarries out = true ∧ s.relocking die = false ∧
      (s.lane out (leavesBA out die) cls).readyCount < 16 then
    let rivals := s.crossbarRivals die out cls
    let last := storeGet 0 s.xturn (turnKey die out cls)
    match (rivals.filter (fun n => last ≤ n)) ++ rivals with
    | [] => s
    | n :: _ =>
      match (s.lane n (straitReader n true == die) cls).reader with
      | [] => s
      | u :: rest => s.crossbarMove die out cls n u rest
  else s

/-- The harbour strait of an island that has one. -/
def harbourStrait (i : Nat) : Nat := if i = 17 then 34 else 18 + i

/-- A strait returns to DOWN with its queues empty, a snapshot unit among them, and its failure bit is cleared (R38). -/
def State.straitDown (s : State) (n : Nat) : State :=
  let s := { s with lanes := storeEraseRange s.lanes (8 * n) 8, snapSent := s.snapSent.filter (fun i => harbourStrait i ≠ n) }
  let s := s.setFld .STR_FAIL_MAP_FAILED 0 0 (putBit (s.fld .STR_FAIL_MAP_FAILED) n false)
  (s.setFld .STR_STAT_STATE n 0 0).straitFull n

/-- A strait comes UP, unless it has FAILED (R35, R38). -/
def State.straitUp (s : State) (n : Nat) : State := if s.straitState n = 3 then s else s.setFld .STR_STAT_STATE n 0 1

end Sys2Proof.Machine
end

