-- ==== Sys2Proof/Machine/Channel.lean ====
section
/-! DEFINITION. Channels: hops of units over the routers and straits, receive rings, credits (R77, R84, R85, R95-R99). -/

namespace Sys2Proof.Machine

/-- Row and column of an islet in its die's mesh (R77). -/
def meshPlace (i : Nat) : Nat × Nat :=
  let a := islAtoll i % 6
  (4 * (a / 3) + islPos i / 4, 4 * (a % 3) + islPos i % 4)

/-- The islet at a row and column of a die. -/
def meshIslet (die r c : Nat) : Nat := die * 96 + (r / 4 * 3 + c / 4) * 16 + r % 4 * 4 + c % 4

/-- The islet beyond a mesh port (1 north, 2 east, 3 south, 4 west); none at a die edge. -/
def neighbour (i port : Nat) : Option Nat :=
  let (r, c) := meshPlace i
  match port with
  | 1 => if r = 0 then none else some (meshIslet (islDie i) (r - 1) c)
  | 2 => if c = 11 then none else some (meshIslet (islDie i) r (c + 1))
  | 3 => if r = 7 then none else some (meshIslet (islDie i) (r + 1) c)
  | 4 => if c = 0 then none else some (meshIslet (islDie i) r (c - 1))
  | _ => none

/-- The port on which a neighbour sees a unit arrive. -/
def facingPort : Nat → Nat
  | 1 => 3 | 2 => 4 | 3 => 1 | 4 => 2 | p => p

/-- An atoll that a load has stopped and not yet handed back: units at its boundary wait (R57-R60, STATE 4-6). -/
def State.atollHeld (s : State) (a : Nat) : Bool :=
  let fn := s.ownerOfAtoll a
  let st := s.fld .IMG_LOAD_STAT_STATE fn
  fn != 0 && decide (4 ≤ st) && decide (st ≤ 6) && bit (s.fnState fn).load.sel a

/-- A buffer of a router's output port. -/
def Islet.buf (x : Islet) (port id : Nat) : List ChanUnit := storeGet [] x.bufs (32 * port + id)

/-- A unit stands at an islet's local port for a receive end, in a buffer of four (R96). -/
def State.unitToEnd (s : State) (j c : Nat) (e : RecvEnd) (u : ChanUnit) : Option State :=
  if e.arrived.length < 4 then
    some (s.modIslet j (fun x => { x with recvs := storeSet {} x.recvs c { e with arrived := e.arrived ++ [u] } }))
  else none

/-- A unit stands in the buffer of four of a channel at a mesh or strait port (R96). -/
def State.unitToPort (s : State) (j port id : Nat) (u : ChanUnit) : Option State :=
  let b := (s.islet j).buf port id
  if b.length < 4 then some (s.modIslet j (fun x => { x with bufs := storeSet [] x.bufs (32 * port + id) (b ++ [u]) })) else none

/-- A unit arrives at an islet's router on a port with a link identifier: into the buffer its segment names, or to its receive
end. The first level is none where nothing maps it, or onto a link identifier above 15; the second where the buffer of four is
full. Without a segment a unit goes to the receive end of that IN_PORT whose CHAN_ID is its link identifier; at the strait port
that end's own PEER_ISLET is not looked at (DESIGN CHOICE, log entry 63). -/
def State.unitArrive (s : State) (j port id : Nat) (u : ChanUnit) : Option (Option State) :=
  let x := s.islet j
  match x.segs.find? (fun g => g.inPort == port && g.inId == id) with
  | some g =>
    if g.outPort = 0 then (x.recvs.find? (fun e => e.1 == g.outId && e.2.port == 0)).map (fun e => s.unitToEnd j e.1 e.2 u)
    else if g.outId < 16 then some (s.unitToPort j g.outPort g.outId u)
    else none
  | none => (x.recvs.find? (fun e => e.1 == id && e.2.port == port)).map (fun e => s.unitToEnd j e.1 e.2 u)

/-- What a hop of one unit comes to. -/
inductive Hop where
  /-- The unit moved, or was discarded. -/
  | moved (s : State)
  /-- No room. -/
  | wait
  /-- The configuration maps the unit nowhere. -/
  | lost

/-- Offer a unit to an islet's router. -/
def State.hopTo (s : State) (j port id : Nat) (u : ChanUnit) : Hop :=
  if s.atollHeld (islAtoll j) then .wait else
  match s.unitArrive j port id u with
  | some (some s') => .moved s'
  | some none => .wait
  | none => .lost

/-- The islet beyond the strait port for a buffer of it: the peer of the send end or segment that feeds it. -/
def Islet.strPeer (x : Islet) (id : Nat) : Option Nat :=
  match x.sends.find? (fun e => e.1 == id && e.2.port == 5) with
  | some (_, e) => some e.peer
  | none => (x.segs.find? (fun g => g.outPort == 5 && g.outId == id)).map (·.peer)

/-- The writer of the first strait on the way between two isle dies takes a TC0 unit now: nothing on the way has stopped, the
writing island does not relock and its queue has room (R23, R28, R30). -/
def State.bulkTakes (s : State) (a b : Nat) : Bool :=
  match islandRoute a b with
  | [] => true
  | n :: _ => s.routeUp a b && !s.relocking a && (s.lane n (leavesBA n a) 0).takes

/-- One unit of a buffer crosses its link: to the neighbour, or into TC0 of the straits on the way to the peer (R95); at a disabled
port, or to an islet outside the partition, it is discarded and counted (R50, R98). Each 32-byte channel unit takes one strait unit
(DESIGN CHOICE, log entry 62). -/
def State.hopLink (s : State) (i port id : Nat) (u : ChanUnit) : Hop :=
  let fn := s.isletFn i
  if port = 5 then
    match (s.islet i).strPeer id with
    | none => .lost
    | some j =>
      if ¬ j < 384 ∨ s.isletFn j ≠ fn then .moved (s.boundaryDrop fn 1)
      else if islDie i = islDie j then s.hopTo j 5 id u
      else if s.bulkTakes (islDie i) (islDie j) = false then .wait
      else .moved (s.straitPut (islDie i) 0 { dst := islDie j, cargo := some { fn := fn, islet := j, id := id, unit := u } } 1)
  else match neighbour i port with
  | none => .moved (s.boundaryDrop fn 1)
  | some j => if s.isletFn j ≠ fn then .moved (s.boundaryDrop fn 1) else s.hopTo j (facingPort port) id u

/-- A unit leaves a send end: into the buffer of its output port, or through the router's local segment (R99). At a mesh or strait
port it travels on the link identifier equal to its end's CHAN_ID; an end with CHAN_ID 16 or above has none there, a port carrying
16 channels (R96; DESIGN CHOICE, log entry 63). -/
def State.hopOut (s : State) (i c : Nat) (e : SendEnd) (u : ChanUnit) : Hop :=
  if e.port = 0 then s.hopTo i 0 c u
  else if 16 ≤ c then .lost
  else match s.unitToPort i e.port c u with
  | some s' => .moved s'
  | none => .wait

/-- Numbers from `last + 1` on round to `last`. Log entry 14. -/
def inTurn (last n : Nat) : List Nat := (List.range n).map (fun k => (last + 1 + k) % n)

/-- The units that an islet's port could move next, with their channel, in the port's turn (R96): port 0 is the local
port with the units of the 32 send ends, 1-4 the mesh ports and 5 the strait port with 16 channels each. Log entry 14. -/
def State.hopChoices (s : State) (i port : Nat) : List (Nat × ChanUnit) :=
  let x := s.islet i
  (inTurn (storeGet 31 x.turns port) (if port = 0 then 32 else 16)).filterMap (fun id =>
    if port = 0 then
      match (storeGet ({} : SendEnd) x.sends id).queue with
      | u :: _ => some (id, u)
      | [] => none
    else match x.buf port id with
      | u :: _ => some (id, u)
      | [] => none)

/-- Take the unit at the head of a channel at a port away, and note the turn. -/
def State.hopTaken (s : State) (i port id : Nat) : State :=
  s.modIslet i (fun x =>
    let x := { x with turns := storeSet 31 x.turns port id }
    if port = 0 then
      let e : SendEnd := storeGet {} x.sends id
      { x with sends := storeSet {} x.sends id ({ e with queue := e.queue.tail } : SendEnd) }
    else { x with bufs := storeSet [] x.bufs (32 * port + id) (x.buf port id).tail })

/-- The unit at the head of a reader queue of an isle die is taken where it is the die's own and the router has room for the channel
unit it carries; one of an islet no longer the function's is discarded and counted (R30, R50, R95). None where nothing is taken: a
FAILED strait has stopped (R35). Log entry 62. -/
def State.laneTake (s : State) (n : Nat) (ba : Bool) (cls : Nat) : Option Result :=
  match (s.lane n ba cls).reader with
  | [] => none
  | u :: rest =>
    if u.dst ≠ straitReader n ba ∨ s.straitCarries n = false then none else
    let t := (s.setLane n ba cls { s.lane n ba cls with reader := rest }).straitFull n
    match u.cargo with
    | none => some (ok t)
    | some c =>
      if t.isletFn c.islet ≠ c.fn then some (ok (t.boundaryDrop c.fn 1))
      else match t.hopTo c.islet 5 c.id c.unit with
      | .moved t' => some (ok t')
      | .wait => none
      | .lost => some (.fault (.unpredictable c.fn))

/-- The units that a reader queue of an isle die gives up, at most so many. -/
def State.laneDrain : Nat → State → Nat → Bool → Nat → Result
  | 0, s, _, _, _ => ok s
  | fuel + 1, s, n, ba, cls =>
    match s.laneTake n ba cls with
    | some (.next t) => State.laneDrain fuel t n ba cls
    | some o => o
    | none => ok s

/-- The reader queues of an isle die: strait and class. -/
def dieLanes (die : Nat) : List (Nat × Nat) :=
  ((List.range 22).filter (fun n => (straitDesc n).1 == die || (straitDesc n).2.1 == die)).flatMap (fun n =>
    classOrder.map (fun c => (n, c)))

/-- An isle die takes what it can from its reader queues. -/
def State.dieDrain (s : State) (die : Nat) : List (Nat × Nat) → Result
  | [] => ok s
  | (n, c) :: rest =>
    match State.laneDrain 16 s n (straitReader n true == die) c with
    | .next t => t.dieDrain die rest
    | o => o

/-- Room has come at an isle die, unless its island relocks: then its strait sides do not handshake (R23). -/
def State.dieTakes (s : State) (die : Nat) : Result :=
  if die < 4 ∧ s.relocking die = false then s.dieDrain die (dieLanes die) else ok s

/-- The crossbar of an isle die forwards one unit to an outgoing strait of the same class (R32); what stood behind it may be the
die's own. -/
def execStraitCrossbarForward (die out cls : Nat) (s : State) : Result := (s.crossbarForward die out cls).dieTakes die

/-- The first choice that has room moves; room behind it lets units from the straits in. -/
def State.hopFirst (s : State) (i port : Nat) : List (Nat × ChanUnit) → Result
  | [] => ok s
  | (id, u) :: rest =>
    let t := s.hopTaken i port id
    let h := if port = 0 then t.hopOut i id (storeGet {} (s.islet i).sends id) u else t.hopLink i port id u
    match h with
    | .moved s' => s'.dieTakes (islDie i)
    | .wait => s.hopFirst i port rest
    | .lost => .fault (.unpredictable (s.isletFn i))

/-- One unit moves at a router port of an islet, ready channels in turn (R96). -/
def execChannelUnitHop (islet port : Nat) (s : State) : Result :=
  if islet < 384 ∧ port < 6 then s.hopFirst islet port (s.hopChoices islet port) else ok s

/-- COLLISION_LIMIT; 0 acts as 1 (R85). -/
def State.collLimit (s : State) (i : Nat) : Nat := max 1 (s.fld .ISL_COLL_CFG_COLLISION_LIMIT i)

/-- A port B write that loses `losses` cycles waits for its forced grant (R85). -/
def State.portBWaits (s : State) (i losses : Nat) : Bool := s.collLimit i ≤ losses

/-- A port B write loses `losses` cycles to port A writes on its word: each is counted; at the limit it waits for its
forced grant, otherwise it takes effect (R84, R85). -/
def State.portBWrite (s : State) (i : Nat) (w : PortBWrite) (losses : Nat) : State :=
  let waits := s.portBWaits i losses
  let s := s.satFld .ISL_COLL_COLLISIONS i 0 (min losses (s.collLimit i))
  if waits then s.modIslet i (fun x => { x with portB := x.portB ++ [w] }) else s.spWrite i w.off w.data

/-- A receive end's unit has been written into its ring. -/
def State.unitReceived (s : State) (i c : Nat) : State :=
  let x := s.islet i
  let e := storeGet {} x.recvs c
  match e.arrived with
  | [] => s
  | u :: rest =>
    let e' : RecvEnd := { e with arrived := rest, wr := (e.wr + 32) % max 32 e.ringBytes, words := e.words ++ [(u.src, u.chan)] }
    (s.setIslet i { x with recvs := storeSet {} x.recvs c e' }).addFld .ISL_CHAN_RCVD_UNITS i 0 1

/-- A unit that has arrived is written into its ring through port B (R97). -/
def execChannelUnitReceive (islet chan losses : Nat) (s : State) : Result :=
  let x := s.islet islet
  let e := storeGet {} x.recvs chan
  match e.arrived with
  | [] => ok s
  | u :: _ =>
    if x.portB.any (fun w => w.writer == .channel chan) then ok s
    else
      let waits := s.portBWaits islet losses
      let s := s.portBWrite islet { off := e.ringOff + e.wr, data := u.data, writer := .channel chan } losses
      ok (if waits then s else s.unitReceived islet chan)

/-- Credits that release packets have brought to an islet reach the send end (R97). -/
def execChannelCreditReturn (islet chan : Nat) (s : State) : Result :=
  let x := s.islet islet
  let n := storeGet 0 x.creditsIn chan
  match x.sends.find? (fun e => e.1 == chan) with
  | none => ok s
  | some (_, e) =>
    ok (s.setIslet islet { x with creditsIn := storeSet 0 x.creditsIn chan 0,
                                  sends := storeSet {} x.sends chan { e with credits := e.credits + n } })

/-- The bank of a scratchpad offset (R81). -/
def spBank (off : Nat) : Nat := off / 32 % 16

/-- A bank grants the port B write that has lost COLLISION_LIMIT cycles: it takes effect, LIMIT_HITS counts it, and a
copy engine's plan carries COLLISION (R85, R93). -/
def execCollisionForcedGrant (islet bank : Nat) (s : State) : Result :=
  match (s.islet islet).portB.find? (fun w => spBank w.off == bank) with
  | none => ok s
  | some w =>
    let s := s.modIslet islet (fun x => { x with portB := x.portB.erase w })
    let s := (s.spWrite islet w.off w.data).satFld .ISL_COLL_LIMIT_HITS islet 0 1
    match w.writer with
    | .channel c => ok (s.unitReceived islet c)
    | .engine e =>
      ok (s.modIslet islet (fun x =>
        let v := x.engine e
        x.setEngine e { v with run := v.run.map (fun r => { r with status := if r.status = .ok then .collision else r.status }) }))

end Sys2Proof.Machine
end

