-- ==== Sys2Proof/Machine/Sequencer.lean ====
section
/-! DEFINITION. The sequencer's instructions (R97, R100-R104). -/

namespace Sys2Proof.Machine

/-- The sequencer goes on at an instruction index; past instruction 8,191 it is 0, where the spec says nothing (DESIGN CHOICE, log
entry 63). -/
def State.seqAt (s : State) (i pc : Nat) : State :=
  (s.setFld .ISL_STAT_PC i 0 (pc % 8192)).setFld .ISL_STAT_SEQ_STATE i 0 seqRunning

/-- The sequencer goes on to the next instruction. -/
def State.seqNext (s : State) (i : Nat) : State := s.seqAt i (s.fld .ISL_STAT_PC i + 1)

/-- The sequencer stalls at its instruction (R103). Log entry 59. -/
def State.seqStall (s : State) (i : Nat) : State := s.setFld .ISL_STAT_SEQ_STATE i 0 seqWaiting

/-- MX: queue a matrix operation, 4 deep. -/
def State.insMx (s : State) (i : Nat) (w : Word) : State :=
  let m := (s.islet i).mx
  if 4 ≤ m.queue.length then s.seqStall i
  else
    let op : MxOp := { desc := bits w.toNat 0 16, flag := insFlag w, n := m.issued }
    ((s.modIslet i (fun x => { x with mx := { m with queue := m.queue ++ [op], issued := m.issued + 1 } })).queueStat i).seqNext i

/-- VX: queue a vector chain, 4 deep. -/
def State.insVx (s : State) (i : Nat) (w : Word) : State :=
  let v := (s.islet i).vx
  if 4 ≤ v.queue.length then s.seqStall i
  else
    let waits := (s.islet i).mx.combine.isSome && s.gangRow i + 1 == gangRows (s.gangOf i) && v.queue.isEmpty && v.run.isNone
    ((s.modIslet i (fun x => { x with vx := { v with
      queue := v.queue ++ [(bits w.toNat 0 16, insFlag w)]
      waitFrom := if waits then some (s.count (islDie i)) else v.waitFrom } })).queueStat i).seqNext i

/-- COPY: queue a plan on an engine, 8 deep (R89). -/
def State.insCopy (s : State) (i : Nat) (w : Word) : State :=
  let e := bits w.toNat 16 1
  let v := (s.islet i).engine e
  if 8 ≤ v.queue.length then s.seqStall i
  else
    ((s.modIslet i (fun x => x.setEngine e { v with queue := v.queue ++ [(bits w.toNat 0 11, insFlag w)] })).copyStat i e).seqNext i

/-- SEND: send words on a channel while credits last; stall with words left (R97). The words are read when the instruction issues,
and those past the scratchpad's last word are zero: when port B reads them, and what lies there, the spec does not say (DESIGN
CHOICE, log entry 63). -/
def State.insSend (s : State) (i : Nat) (w : Word) : Result :=
  let x := s.islet i
  let c := bits w.toNat 0 5
  let words := bits w.toNat 16 16
  let idx := bits w.toNat 32 16
  match x.sends.find? (fun e => e.1 == c) with
  | none => .fault (.unpredictable (s.isletFn i))
  | some (_, e) =>
    let n := min (words - x.sendDone) e.credits
    let units := (List.range n).map (fun k =>
      ({ data := s.spRead i (32 * (idx + x.sendDone + k)) 32, src := i, chan := c } : ChanUnit))
    let finished := x.sendDone + n == words
    let e' : SendEnd := { e with credits := e.credits - n, queue := e.queue ++ units }
    let s := s.setIslet i { x with sends := storeSet {} x.sends c e', sendDone := if finished then 0 else x.sendDone + n }
    let s := s.addFld .ISL_CHAN_SENT_UNITS i 0 n
    ok (if finished then s.seqNext i else s.seqStall i)

/-- The runs of equal origins in the words a RECV releases. -/
def originCounts (ws : List (Nat × Nat)) : List ((Nat × Nat) × Nat) :=
  ws.eraseDups.map (fun o => (o, ws.count o))

/-- RECV: release ring words once they are there, and return their credits to the send ends (R97, R199). An islet stalled on words
that have not come shows WAITING, a stall R103 does not name (DESIGN CHOICE, log entry 59). -/
def State.insRecv (s : State) (i : Nat) (w : Word) : Result :=
  let x := s.islet i
  let c := bits w.toNat 0 5
  let words := bits w.toNat 16 16
  match x.recvs.find? (fun e => e.1 == c) with
  | none => .fault (.unpredictable (s.isletFn i))
  | some (_, e) =>
    if e.words.length < words then ok (s.seqStall i)
    else
      let s := s.setIslet i { x with recvs := storeSet {} x.recvs c { e with words := e.words.drop words } }
      let s := (originCounts (e.words.take words)).foldl (fun s o =>
        s.sendPacket { src := i, dst := o.1.1, kind := .release o.1.2 o.2 }) s
      ok (s.seqNext i)

/-- WAIT: stall until all or any of the flags are set, then clear them if asked; an empty mask passes. -/
def State.insWait (s : State) (i : Nat) (w : Word) : State :=
  let m := bits w.toNat 0 32
  let f := s.fld .ISL_STAT_FLAGS i &&& m
  if m = 0 then s.seqNext i
  else if (if bit w.toNat 32 then f ≠ 0 else f = m) then
    (if bit w.toNat 33 then s.clearFlags i m else s).seqNext i
  else s.seqStall i

/-- SIGNAL: a flag-set packet; to an islet outside the partition it is discarded and counted (R103). -/
def State.insSignal (s : State) (i : Nat) (w : Word) : State :=
  let j := bits w.toNat 0 9
  let fn := s.isletFn i
  if j < 384 ∧ s.isletFn j = fn then (s.sendPacket { src := i, dst := j, kind := .flagSet (bits w.toNat 16 5) }).seqNext i
  else (s.boundaryDrop fn 1).seqNext i

/-- A loop counter. -/
def State.counter (s : State) (i c : Nat) : Nat := storeGet 0 (s.islet i).counters c

/-- Set a loop counter. -/
def State.setCounter (s : State) (i c v : Nat) : State :=
  s.modIslet i (fun x => { x with counters := storeSet 0 x.counters c (v % 2 ^ 32) })

/-- LOOP: decrement modulo 2^32, jump where the result is not zero. -/
def State.insLoop (s : State) (i : Nat) (w : Word) : State :=
  let c := bits w.toNat 0 2
  let v := (s.counter i c + 2 ^ 32 - 1) % 2 ^ 32
  let s := s.setCounter i c v
  if v = 0 then s.seqNext i else s.seqAt i (bits w.toNat 32 13)

/-- FENCE: stall until every queued operation of the islet has completed. Log entry 59. -/
def State.insFence (s : State) (i : Nat) : State := if (s.islet i).allDone then s.seqNext i else s.seqStall i

/-- The island whose controllers an islet's halt notice goes to: the lead island of its launch, the home island of its
stage (R74, R193). -/
def State.taskIsland (s : State) (i : Nat) (t : Task) : Nat :=
  match t with
  | .launch lid => leadIsland (if s.launches.any (fun e => e.1 == lid) then entryAtolls (storeGet {} s.launches lid).entry
      else storeGet 0 s.pastLaunches lid)
  | .phase fn slot => match (s.fnState fn).stageRec slot with
    | some r => stageHome r
    | none => islDie i
  | .update _ _ => islDie i

/-- HALT: the islet halts and sends a halt notice to the controllers its launch or phase belongs to. -/
def State.insHalt (s : State) (i : Nat) : State :=
  let s := s.setFld .ISL_STAT_SEQ_STATE i 0 seqHalted
  match (s.islet i).task with
  | none => s
  | some t => s.sendPacket { src := i, dst := 384 + s.taskIsland i t, kind := .halt t }

/-- The instruction at the program counter acts, or stalls; an opcode outside the table is unpredictable (R102).
Log entry 28. -/
def State.runIns (s : State) (i : Nat) : Result :=
  let w := s.instruction i
  match insOp w with
  | 0x00 => ok (s.seqNext i)
  | 0x01 => ok (s.insMx i w)
  | 0x02 => ok (s.insVx i w)
  | 0x03 => ok (s.insCopy i w)
  | 0x04 => s.insSend i w
  | 0x05 => s.insRecv i w
  | 0x06 => ok (s.insWait i w)
  | 0x07 => ok ((s.setFlags i (bits w.toNat 0 32)).seqNext i)
  | 0x08 => ok ((s.clearFlags i (bits w.toNat 0 32)).seqNext i)
  | 0x09 => ok (s.insSignal i w)
  | 0x0A => ok ((s.setCounter i (bits w.toNat 0 2) (bits w.toNat 24 32)).seqNext i)
  | 0x0B => ok (s.insLoop i w)
  | 0x0C => ok (s.seqAt i (bits w.toNat 32 13))
  | 0x0D => ok (s.insFence i)
  | 0x0E => ok (s.insHalt i)
  | _ => .fault (.unpredictable (s.isletFn i))

/-- A running sequencer issues the instruction at its program counter, where that has the opcode `op`; an opcode outside
the table is unpredictable within the partition (R102). -/
def State.issue (s : State) (i op : Nat) : Result :=
  if i < 384 ∧ s.seqState i = seqRunning then
    if insOp (s.instruction i) = op ∨ 0x0E < insOp (s.instruction i) then s.runIns i else ok s
  else ok s

/-- NOP (R102). Log entry 28. -/
def execSeqNop (islet : Nat) (s : State) : Result := s.issue islet 0x00

/-- MX (R102). -/
def execSeqMx (islet : Nat) (s : State) : Result := s.issue islet 0x01

/-- VX (R102). -/
def execSeqVx (islet : Nat) (s : State) : Result := s.issue islet 0x02

/-- COPY (R89, R102). -/
def execSeqCopy (islet : Nat) (s : State) : Result := s.issue islet 0x03

/-- `corrected` scratchpad reads of an islet meet a single-bit error (R86). -/
def State.spCorrected (s : State) (i corrected : Nat) : State := s.satFld .ISL_SP_ERR_CORRECTED i 0 corrected

/-- SEND; `corrected` of its port B reads meet a single-bit error (R86, R97, R102). -/
def execSeqSend (send : Corrected) (s : State) : Result :=
  match send with
  | ⟨islet, corrected⟩ =>
  match s.issue islet 0x04 with
  | .next t => ok (if s.seqState islet = seqRunning ∧ insOp (s.instruction islet) = 4 then t.spCorrected islet corrected else t)
  | o => o

/-- RECV (R97, R102). -/
def execSeqRecv (islet : Nat) (s : State) : Result := s.issue islet 0x05

/-- WAIT (R102). -/
def execSeqWait (islet : Nat) (s : State) : Result := s.issue islet 0x06

/-- SETF (R102). -/
def execSeqSetf (islet : Nat) (s : State) : Result := s.issue islet 0x07

/-- CLRF (R102). -/
def execSeqClrf (islet : Nat) (s : State) : Result := s.issue islet 0x08

/-- SIGNAL (R102, R103). -/
def execSeqSignal (islet : Nat) (s : State) : Result := s.issue islet 0x09

/-- LDCNT (R102). -/
def execSeqLdcnt (islet : Nat) (s : State) : Result := s.issue islet 0x0A

/-- LOOP (R102). -/
def execSeqLoop (islet : Nat) (s : State) : Result := s.issue islet 0x0B

/-- JUMP (R102). -/
def execSeqJump (islet : Nat) (s : State) : Result := s.issue islet 0x0C

/-- FENCE (R102). -/
def execSeqFence (islet : Nat) (s : State) : Result := s.issue islet 0x0D

/-- HALT (R102). -/
def execSeqHalt (islet : Nat) (s : State) : Result := s.issue islet 0x0E

/-- A stalled sequencer tries its instruction again: it goes on once its condition holds (R103); `corrected` as for SEND. -/
def execSeqStallRelease (stalled : Corrected) (s : State) : Result :=
  match stalled with
  | ⟨islet, corrected⟩ =>
  if islet < 384 ∧ s.seqState islet = seqWaiting then
    match s.runIns islet with
    | .next t => ok (if insOp (s.instruction islet) = 4 then t.spCorrected islet corrected else t)
    | o => o
  else ok s

end Sys2Proof.Machine
end

