-- ==== Sys2Proof/Machine/Reef.lean ====
section
/-! DEFINITION. Reef units: requests, descriptors, geometry, times and arithmetic (R248-R262, R270, R274). -/

namespace Sys2Proof.Machine

/-! ## REEF records and requests (R257, R274) -/

def reefOrient (d : List Byte) : Nat := bytesAt d 2 1
def reefFmt (d : List Byte) : Nat := bits (bytesAt d 3 1) 0 4
def reefVecFmt (d : List Byte) : Nat := bits (bytesAt d 3 1) 4 4
def reefOutFmt (d : List Byte) : Nat := bytesAt d 4 1
def reefPcFirst (d : List Byte) : Nat := bytesAt d 5 1
def reefSpan (d : List Byte) : Nat := bytesAt d 6 1
def reefChain (d : List Byte) : Nat := bytesAt d 7 1
def reefSkip (d : List Byte) : Nat := bytesAt d 8 8
def reefWBase (d : List Byte) : Nat := bytesAt d 0x10 8
def reefInBase (d : List Byte) : Nat := bytesAt d 0x18 8
def reefOutBase (d : List Byte) : Nat := bytesAt d 0x20 8
def reefCu (d : List Byte) : Nat := bytesAt d 0x2C 4
def reefRowBytes (d : List Byte) : Nat := bytesAt d 0x30 4
def reefInStride (d : List Byte) : Nat := 32 * bytesAt d 0x3C 2
def reefOutStride (d : List Byte) : Nat := 32 * bytesAt d 0x3E 2

def reqDesc (r : List Byte) : Nat := bytesAt r 0 2
def reqVecs (r : List Byte) : Nat := bytesAt r 2 1
def reqFlags (r : List Byte) : Nat := bytesAt r 3 1
def reqIslet (r : List Byte) : Nat := bytesAt r 4 2
def reqFlag (r : List Byte) : Nat := bytesAt r 6 1
def reqTag (r : List Byte) : Nat := bytesAt r 0xC 4
def reqCompl (r : List Byte) : Nat := bytesAt r 0x10 8

/-- The rows per slice and the offsets of a request: the descriptor's where it gives none. -/
def reefRc (d r : List Byte) : Nat := if bytesAt r 8 4 = 0 then bytesAt d 0x28 4 else bytesAt r 8 4
def reefIn (d r : List Byte) : Nat := if bytesAt r 0x18 4 = 0xFFFFFFFF then bytesAt d 0x34 4 else bytesAt r 0x18 4
def reefOut (d r : List Byte) : Nat := if bytesAt r 0x1C 4 = 0xFFFFFFFF then bytesAt d 0x38 4 else bytesAt r 0x1C 4

/-- The members of an operation, by rank (R251). -/
def reefMembers (d : List Byte) : List Nat :=
  ((List.range (reefSpan d)).map (· + reefPcFirst d)).filter (fun p => !bit (reefSkip d) p)

/-- The chains of an operation. -/
def reefChains (d : List Byte) : List (List Nat) :=
  let g := reefMembers d
  let l := max 1 (reefChain d)
  (List.range (g.length / l)).map (fun c => (g.drop (c * l)).take l)

/-- A member writes results: it is the last of its chain. -/
def reefLast (d : List Byte) (p : Nat) : Bool := (reefChains d).any (fun c => c.getLast? == some p)

/-- Elements of an input vector, values of an output vector (R252). -/
def reefInLen (d r : List Byte) : Nat := if reefOrient d = 0 then reefCu d else reefRc d r
def reefOutLen (d r : List Byte) : Nat := if reefOrient d = 0 then reefRc d r else reefCu d

/-- Bytes of a row's elements, of a row with its scales, of an input vector, of an output vector. -/
def reefRowElems (d : List Byte) : Nat := (reefCu d * fmtBits (reefFmt d) + 7) / 8
def reefRowLen (d : List Byte) : Nat := reefRowElems d + (if fmtIsMx (reefFmt d) then (reefCu d + 31) / 32 else 0)
def reefInBytes (d r : List Byte) : Nat := (reefInLen d r * fmtBits (reefVecFmt d) + 7) / 8
def reefOutBytes (d r : List Byte) : Nat := reefOutLen d r * fmtBits (reefOutFmt d) / 8

/-- Round up to whole sectors. -/
def sectorUp (n : Nat) : Nat := (n + 31) / 32 * 32

/-- A descriptor and request keep the limits of R250, R251, R252 and R274. Log entry 38. -/
def reefLegal (d r : List Byte) : Bool :=
  let f := reefFmt d
  let v := reefVecFmt d
  (f == 3 || f == 4 || f == 5 || f == 6 || f == 9 || f == 1) && (v == 3 || v == 4 || v == 1) &&
  reefOrient d ≤ 1 && reefOutFmt d ≤ 1 && 1 ≤ reefSpan d && reefPcFirst d + reefSpan d ≤ 64 && 1 ≤ reefChain d &&
  !(reefMembers d).isEmpty && (reefMembers d).length % max 1 (reefChain d) == 0 && 1 ≤ reefRc d r && 1 ≤ reefCu d &&
  reefRowBytes d % 32 == 0 && reefRowLen d ≤ reefRowBytes d && reefIn d r % 32 == 0 && reefOut d r % 32 == 0 &&
  (!bit (reqFlags r) 0 || reqCompl r % 32 == 0) && (!bit (reqFlags r) 1 || reqFlag r < 32)

/-! ## Times (R256, R260) -/

/-- Products per cycle (R250). -/
def reefK (d : List Byte) : Nat := if reefFmt d = 1 ∨ reefVecFmt d = 1 then 64 else 128

/-- Round a quotient up. -/
def ceilDiv (a b : Nat) : Nat := (a + b - 1) / b

/-- A hop goes over the causeway. -/
def reefCauseway (fused p q : Nat) : Bool := q == p + 1 && !bit fused p

/-- The hop time of a chain (R256). -/
def reefHop (fused : Nat) (d r : List Byte) (c : List Nat) : Nat :=
  let hops := c.zip c.tail
  let lat := (hops.map (fun h => if reefCauseway fused h.1 h.2 then 4 else 40)).sum
  if reefOrient d = 1 then
    lat + ceilDiv (4 * reqVecs r * reefCu d) (if hops.all (fun h => reefCauseway fused h.1 h.2) then 64 else 32)
  else lat

/-- Weight, input and output bursts of a last member (R260). -/
def reefNw (d r : List Byte) : Nat := ceilDiv (reefRc d r * reefRowBytes d) 2048
def reefNi (d r : List Byte) : Nat := ceilDiv (reqVecs r * sectorUp (reefInBytes d r)) 2048
def reefNo (d r : List Byte) : Nat := ceilDiv (reqVecs r * sectorUp (reefOutBytes d r)) 2048

/-- T_nom and T_adm (R260). -/
def reefNominal (fused : Nat) (d r : List Byte) : Nat :=
  let work := max (ceilDiv (reefRc d r * reefCu d * reqVecs r) (reefK d)) (20 * reefNw d r)
  ((reefChains d).map (fun c => 64 + 20 * reefNi d r + work + reefHop fused d r c + 20 * reefNo d r)).foldl max 0
def reefAdmissible (fused : Nat) (d r : List Byte) : Nat :=
  reefNominal fused d r + 64 * (reefNi d r + reefNw d r + reefNo d r)

/-! ## Regions (R252) -/

/-- A region: weights, inputs, results. -/
inductive ReefRegion where
  | weights | inputs | results
  deriving DecidableEq, Repr

/-- The device address of a region's page 0. -/
def reefBase (d : List Byte) : ReefRegion → Nat
  | .weights => reefWBase d
  | .inputs => reefInBase d
  | .results => reefOutBase d

/-- The device address of a local offset of member `p`. -/
def reefAddr (d : List Byte) (g : ReefRegion) (p x : Nat) : Nat :=
  reefBase d g + (x / 65536 * reefSpan d + (p - reefPcFirst d)) * 65536 + x % 65536

/-- The runs of local bytes of a region that member `p` touches: rows, input vectors, output vectors in whole sectors. -/
def reefRuns (d r : List Byte) (p : Nat) : ReefRegion → List (Nat × Nat)
  | .weights => (List.range (reefRc d r)).map (fun m => (m * reefRowBytes d, reefRowLen d))
  | .inputs => (List.range (reqVecs r)).map (fun v => (reefIn d r + v * reefInStride d, reefInBytes d r))
  | .results =>
    if reefLast d p then (List.range (reqVecs r)).map (fun v => (reefOut d r + v * reefOutStride d, sectorUp (reefOutBytes d r)))
    else []

/-- The local offsets of the sectors that member `p` touches in a region. -/
def reefSectors (d r : List Byte) (p : Nat) (g : ReefRegion) : List Nat :=
  ((reefRuns d r p g).flatMap (fun x => (List.range ((x.1 + x.2 + 31) / 32 - x.1 / 32)).map (fun k => (x.1 / 32 + k) * 32))).eraseDups

/-- The local page offsets that member `p` touches in a region. -/
def reefPages (d r : List Byte) (p : Nat) (g : ReefRegion) : List Nat :=
  ((reefSectors d r p g).map (fun x => x / 65536 * 65536)).eraseDups

/-- The page of a local offset. -/
def State.reefPage (s : State) (o : ReefOp) (g : ReefRegion) (p x : Nat) : Option Page := s.pageAt o.fn (reefAddr o.desc g p x)

/-- The physical key of a local offset. -/
def State.reefPhys (s : State) (o : ReefOp) (g : ReefRegion) (p x : Nat) : Nat :=
  match s.reefPage o g p x with
  | some pg => frameByte pg.frame (x % 65536)
  | none => 0

/-- Bytes of a member's local stream. -/
def State.reefBytes (s : State) (o : ReefOp) (g : ReefRegion) (p x n : Nat) : List Byte :=
  (List.range n).map (fun k => memByte s.mem (s.reefPhys o g p (x + k)))

/-! ## Arithmetic (R253-R255) -/

/-- Element `k` of packed bytes. -/
def packedCode (w : Nat) (bs : List Byte) (k : Nat) : Nat :=
  bits (bytesAt bs (k * w / 8) ((k * w % 8 + w + 7) / 8)) (k * w % 8) w

/-- A member's slice and inputs as values: weight (row, column), element of vector v. -/
structure ReefSlice where
  rows : List (List Num)
  vecs : List (List Num)
  deriving DecidableEq, Repr

/-- A row of weights as values, block scales included. -/
def reefRow (d bs : List Byte) : List Num :=
  let f := reefFmt d
  (List.range (reefCu d)).map (fun k =>
    let code := packedCode (fmtBits f) bs k
    (if fmtIsMx f then mxValue f ((bs.drop (reefRowElems d)).getD (k / 32) 0).toNat code else decodeNum f code).quiet)

/-- An input vector as values. -/
def reefVec (d r bs : List Byte) : List Num :=
  (List.range (reefInLen d r)).map (fun k => (decodeNum (reefVecFmt d) (packedCode (fmtBits (reefVecFmt d)) bs k)).quiet)

/-- What a member reads. -/
def State.reefSlice (s : State) (o : ReefOp) (p : Nat) : ReefSlice where
  rows := (reefRuns o.desc o.req p .weights).map (fun x => reefRow o.desc (s.reefBytes o .weights p x.1 x.2))
  vecs := (reefRuns o.desc o.req p .inputs).map (fun x => reefVec o.desc o.req (s.reefBytes o .inputs p x.1 x.2))

/-- The values that output `n` of a member meets, in order of reduction. -/
def ReefSlice.line (x : ReefSlice) (orient n : Nat) : List Num :=
  if orient = 0 then x.rows.getD n [] else x.rows.map (fun row => row.getD n .zero)

/-- A member's own partial sum of an output: blocks of 32 products, the first rounded alone, each later one added with one
rounding. -/
def reefPartial (ws vs : List Num) : Flagged Nat :=
  let prods := (ws.zip vs).map (fun e => mulNum e.1 e.2)
  let blocks := (List.range ((prods.length + 31) / 32)).map (fun j => (prods.drop (32 * j)).take 32)
  let (v, f) := blocks.foldl (fun (acc : Option Nat × Nat) b =>
    let (x, f) := cellAdd acc.1 b
    (some x, acc.2 ||| f)) (none, 0)
  (v.getD 0, f)

/-- The sum of a chain's partials, down the chain. -/
def reefSum (slices : List ReefSlice) (orient v n : Nat) : Flagged Nat :=
  let (x, f) := slices.foldl (fun (acc : Option Nat × Nat) sl =>
    let (p, f) := reefPartial (sl.line orient n) (sl.vecs.getD v [])
    match acc.1 with
    | none => (some p, acc.2 ||| f)
    | some a =>
      let (y, g) := cellAdd (some a) [arriving p]
      (some y, acc.2 ||| f ||| g)) (none, 0)
  (x.getD 0, f)

/-- A chain's output vector, converted and packed, with flags. -/
def reefVector (d r : List Byte) (slices : List ReefSlice) (v : Nat) : Flagged (List Byte) :=
  let rs := (List.range (reefOutLen d r)).map (fun n =>
    let (x, f) := reefSum slices (reefOrient d) v n
    (convertNum (reefOutFmt d) false 0 0 false (fmtFp32.decode x)).and f)
  (rs.flatMap (fun x => leBytes (fmtBits (reefOutFmt d) / 8) x.1), orFlags rs)

/-! ## The queue of a stack (R257, R258) -/

/-- The reef units of a stack. -/
def State.reef (s : State) (st : Nat) : ReefStack := storeGet {} s.reefs st

/-- REEF_STACK_STAT shows the queue, the operations running and the units that compute. -/
def State.reefStat (s : State) (st : Nat) : State :=
  let x := s.reef st
  let run := x.ops.filter (·.started)
  let s := s.setFld .REEF_STACK_STAT_QUEUED st 0 (min 64 x.queue.length)
  (s.setFld .REEF_STACK_STAT_RUNNING st 0 run.length).setFld .REEF_STACK_STAT_COMPUTING st 0
    (run.map (fun o => (reefMembers o.desc).length)).sum

/-- Change the reef units of a stack. -/
def State.modReef (s : State) (st : Nat) (f : ReefStack → ReefStack) : State :=
  { s with reefs := storeSet {} s.reefs st (f (s.reef st)) }.reefStat st

/-- Queue a request. Log entry 38. -/
def State.reefPush (s : State) (fn st : Nat) (r : List Byte) : State :=
  s.modReef st (fun x => { x with queue := x.queue ++ [(fn, r)] })

/-- Where the issue windows of the stacks begin. -/
def issueBase : Nat := reservedBase + 2 ^ 43

/-- The stack whose issue window holds an address. -/
def issueWindow (addr : Nat) : Option Nat :=
  let k := (addr - issueBase) / 65536
  if issueBase ≤ addr ∧ k < 8 then some k else none

/-- A function may issue requests through the window of a stack (R257). -/
def State.issueOpen (s : State) (fn st : Nat) : Bool := partReef s.pkg.part && bit (s.stacksOf fn) st

/-- A stack's queue takes a request from its window: it has room, and no earlier window write is held for it (R258). -/
def State.issueRoom (s : State) (st : Nat) : Bool :=
  decide ((s.reef st).queue.length < 64) && !s.held.any (fun a => issueWindow (a.addr + a.taken) == some st)

/-- Take a write through the issue windows from its next byte on, each part by the window it lies in: one request per whole
sector, in address order; a part of a sector is discarded. Where a stack's queue is full the rest is held, without a status. A
part in the window of a stack that the function does not hold is unmapped, one past the windows ends ABORTED, and so does one that
arrives during the stack's reset (R257, R258, R449). The first operand bounds the parts. -/
def State.issueTake : Nat → State → Access → State × Option Status
  | 0, s, a => (s, some (if a.failed then .aborted else .ok))
  | fuel + 1, s, a =>
    let pos := a.addr + a.taken
    let left := a.len - a.taken
    let pass (s : State) (n : Nat) (fails : Bool) : State × Option Status :=
      State.issueTake fuel s { a with taken := a.taken + n, failed := a.failed || fails }
    if left = 0 then (s, some (if a.failed then .aborted else .ok))
    else match issueWindow pos with
    | none => (s, some .aborted)
    | some st =>
      let rest := min left (65536 - pos % 65536)
      let n := min left (32 - pos % 32)
      if s.issueOpen a.fn st = false then pass (s.unmapped a.fn pos) rest true
      else if s.fld .MEM_STACK_STAT_STATE st = 2 then pass s rest true
      else if n < 32 then pass (s.fnEvent a.fn 2 .REEF_EVT_BAD_ISSUE st) n true
      else if s.issueRoom st = false then ({ s with held := s.held ++ [a] }, none)
      else pass (s.reefPush a.fn st (((a.wr.getD []).drop a.taken).take 32)) 32 false

/-- A write through the issue windows; its status unless it is held. -/
def State.issueWrite (s : State) (a : Access) : State × Option Status := State.issueTake (a.len / 32 + 3) s a

/-- Held window writes go on, in arrival order, as far as the queues have room (R258). -/
def State.retryIssues (s : State) : State :=
  (s.held.filter Access.windowed).foldl (fun s a =>
    match s.issueWrite a with
    | (s, none) => s
    | (s, some st) => s.accessEnds a { status := st }) { s with held := s.held.filter (fun a => !a.windowed) }

/-! ## Endings (R262, R273) -/

/-- A completion record (R262). -/
def reefRecord (r : List Byte) (status : Status) (flags result errPc stack cycles seq : Nat) : List Byte :=
  leBytes 1 (statusCode status) ++ leBytes 1 flags ++ leBytes 1 result ++ leBytes 1 errPc ++ leBytes 4 (reqTag r) ++
  leBytes 2 (reqDesc r) ++ leBytes 1 stack ++ leBytes 1 (reqVecs r) ++ leBytes 4 cycles ++ leBytes 8 seq ++ leBytes 8 0

/-- A request ends with its record in REEF_LAST. -/
def State.reefLast (s : State) (st : Nat) (record : List Byte) : State :=
  let s := (s.modReef st (fun x => { x with seq := x.seq + 1 })).addFld .REEF_OPS_DONE st 0 1
  (List.range 4).foldl (fun s j => s.setReg .REEF_LAST st j (BitVec.ofNat 64 (bytesAt record (8 * j) 8))) s

/-- A request or operation has ended: its record in REEF_LAST, its events (R262). -/
def State.reefReport (s : State) (fn st : Nat) (record : List Byte) (bad : Bool) : State :=
  let s := (s.reefLast st record).fnEvent fn 2 .REEF_EVT_DONE_EVT st
  if bad then s.fnEvent fn 2 .REEF_EVT_BAD_EVT st else s

/-- Queued requests of a function in a stack end with a status and RESULT 2, without record in memory or packet; its writes held at
the stack's window end ABORTED. -/
def State.reefDropQueue (s : State) (fn st : Nat) (status : Status) : State :=
  let s := s.dropHeld (fun a => a.fn == fn && issueWindow (a.addr + a.taken) == some st) .aborted
  let gone := (s.reef st).queue.filter (fun e => e.1 == fn)
  let s := s.modReef st (fun x => { x with queue := x.queue.filter (fun e => e.1 ≠ fn) })
  gone.foldl (fun s e => s.reefReport fn st (reefRecord e.2 status 0 2 0xFF st 0 ((s.reef st).seq + 1)) true) s

/-- The result sectors of an operation hold unspecified values with valid codewords (R268, R272; log entry 8); they count as writes
accepted for their pages (R269). -/
def State.reefFreeResults (s : State) (o : ReefOp) : State :=
  (reefMembers o.desc).foldl (fun s p =>
    (reefSectors o.desc o.req p .results).foldl (fun s x =>
      match s.reefPage o .results p x with
      | none => s
      | some pg =>
        let bytes := (List.range 32).map (fun k => BitVec.ofNat 8 (Config.freeNat (s.freeCtr + k)))
        let s := (s.trackWrite o.fn (reefAddr o.desc .results p x)).setErrors (frameByte pg.frame (x % 65536)) []
        { s with freeCtr := s.freeCtr + 32 }.putFrame pg.frame (x % 65536) bytes) s) s

/-- An operation leaves its units: leases end (R265). -/
def State.reefRelease (s : State) (st : Nat) (o : ReefOp) : State :=
  let s := s.modReef st (fun x => { x with ops := x.ops.filter (fun y => y.id ≠ o.id) })
  let s := { s with leases := storeSet [] s.leases st ((s.leasesOf st).filter (fun l => l.op ≠ o.id)) }
  if o.started then (reefMembers o.desc).foldl (fun s p => s.setFld .REEF_UNIT_STAT_LEASED st p 0) s else s

/-- A function reset ends a stack's queued requests and running operations RESET_IN_PROGRESS (R273). -/
def State.reefReset (s : State) (fn st : Nat) : State :=
  let s := s.reefDropQueue fn st .resetInProgress
  ((s.reef st).ops.filter (fun o => o.fn == fn)).foldl (fun s o =>
    let flags := if o.started then s.free % 256 else 0
    let s := if o.started then s.drawn.reefFreeResults o else s
    (s.reefRelease st o).reefReport fn st
      (reefRecord o.req .resetInProgress flags (if o.started then 1 else 2) 0xFF st 0 ((s.reef st).seq + 1)) true) s

end Sys2Proof.Machine
end

