-- ==== Sys2Proof/Machine/HostRead.lean ====
section
/-! DEFINITION. Reads of host memory by the device's own engines (R312). -/

namespace Sys2Proof.Machine

/-- The lowest tag of a function that no outstanding read holds (R312). -/
def State.freeTag (s : State) (fn : Nat) : Option Nat :=
  (List.range 256).find? (fun t => !s.reads.any (fun e => e.1 == 256 * fn + t))

/-- Give tags to ranges that wait, while their function has one free (R312). Log entry 26. -/
def State.issueReads : Nat → State → State
  | 0, s => s
  | fuel + 1, s =>
    match s.readsWaiting.find? (fun r => (s.freeTag r.1).isSome) with
    | none => s
    | some (fn, r) =>
      let t := (s.freeTag fn).getD 0
      let n := min r.len (512 - r.addr % 512)
      let more := if r.len ≤ n then s.readsWaiting.erase (fn, r)
        else s.readsWaiting.replace (fn, r) (fn, { r with addr := r.addr + n, len := r.len - n })
      let req : ReadReq := { r with len := n, port := s.adapterPort }
      let s := { s with readsWaiting := more, reads := storeInsert (256 * fn + t) req s.reads }
      let s := s.straitOffer r.home (capeIsland s.adapterPort) 0 1
      State.issueReads fuel (s.sendAdapter { ftype := 2, sfn := fn, addr := r.addr, len := n / 32, tag := t, vc := 0 })

/-- A function's engine on island `home` begins to read host memory: READ_REQs of at most 512 bytes, 32-byte aligned (R312);
behind a FAILED strait the read ends ABORTED (R35, R47). Log entry 26. -/
def State.hostRead (s : State) (fn home addr len : Nat) : State :=
  let lo := addr / 32 * 32
  let r : ReadReq := { addr := lo, len := (addr + len + 31) / 32 * 32 - lo, home := home, port := s.adapterPort }
  if len = 0 then s
  else if s.routeFailed home (capeIsland s.adapterPort) then { s with readData := s.readData ++ [(fn, { r with done := some .aborted })] }
  else State.issueReads 256 { s with readsWaiting := s.readsWaiting ++ [(fn, r)] }

/-- Ranges of host memory still to be asked for end with a status. -/
def State.endWaiting (s : State) (st : Status) (p : ReadReq → Bool) : State :=
  { s with readsWaiting := s.readsWaiting.filter (fun r => !p r.2),
           readData := s.readData ++ (s.readsWaiting.filter (fun r => p r.2)).map (fun r => (r.1, { r.2 with done := some st })) }

/-- What a function's read of host memory ends with: a status that a READ_RSP, an UNREACHABLE, a timeout or a lost port has
left, the data of READ_RSPs that have all arrived, or the answer given with the command (log entry 26). The reads are forgotten. -/
def State.hostAnswer (s : State) (fn addr len : Nat) (ans : Answer) : State × Answer :=
  let mine (f : Nat) (r : ReadReq) : Bool :=
    f == fn && r.dst == 0 && decide (addr / 32 * 32 ≤ r.addr) && decide (r.addr < addr + len)
  let rs := s.readData.filter (fun e => mine e.1 e.2)
  let s := State.issueReads 256 { s with reads := s.reads.filter (fun e => !mine (e.1 / 256) e.2),
                                         readData := s.readData.filter (fun e => !mine e.1 e.2),
                                         readsWaiting := s.readsWaiting.filter (fun r => !mine r.1 r.2) }
  let parts : Store (List Byte) := rs.foldl (fun st e => storeInsert e.2.addr e.2.data st) []
  let data := (parts.flatMap Prod.snd).drop (addr % 32)
  match rs.findSome? (fun e => e.2.done.filter (· ≠ .ok)) with
  | some st => (s, { status := st })
  | none =>
    if len ≤ data.length then (s, { status := .ok, data := data.take len })
    else (s, ans)

/-- A function's read of host memory has ended: with a status, or with all the bytes asked for. Log entry 26. -/
def State.hostReady (s : State) (fn addr len : Nat) (ans : Answer) : Bool :=
  (s.hostAnswer fn addr len ans).2.status != .ok || (s.hostAnswer fn addr len ans).2.data.length == len

end Sys2Proof.Machine
end

