-- ==== Sys2Proof/Machine/OptRecord.lean ====
section
/-! DEFINITION. The OPT records of a function, their limits, and what must not be written while an optimiser works
(R346-R350, R357, R370). -/

namespace Sys2Proof.Machine

/-- Round up to a multiple of 64 KiB. -/
def pageUp (n : Nat) : Nat := (n + 65535) / 65536 * 65536

/-- The states of OPT_STAT. -/
def optUnloaded : Nat := 0
def optIdle : Nat := 1
def optNorm : Nat := 2
def optUpdating : Nat := 3
def optDigest : Nat := 4
def optRecovering : Nat := 5
def optStopped : Nat := 6

/-- The optimiser's state. -/
def State.optState (s : State) (fn : Nat) : Nat := s.fld .OPT_STAT_STATE fn

/-- Change the optimiser. -/
def State.modOpt (s : State) (fn : Nat) (g : Opt → Opt) : State := s.modFn fn (fun f => { f with optim := g f.optim })

/-! ## OPT records (R348, R370) -/

/-- The configuration record of a function; empty where it has no OPT section. -/
def FnState.optCfg (f : FnState) : List Byte := (f.opt.find? (fun r => bytesAt r 0 1 == 0)).getD []

/-- OPT shard records. -/
def FnState.shardRecs (f : FnState) : List (List Byte) := f.opt.filter (fun r => bytesAt r 0 1 == 1)
def FnState.shardRec (f : FnState) (i : Nat) : Option (List Byte) := f.shardRecs.find? (fun r => bytesAt r 2 2 == i)

def optAlgo (c : List Byte) : Nat := bytesAt c 1 1
def optPolicy (c : List Byte) : Nat := bytesAt c 2 1
def optJobIds (c : List Byte) : List Nat := (List.range (bytesAt c 3 1)).map (fun i => bytesAt c (4 + i) 1)
def optShards (c : List Byte) : Nat := bytesAt c 8 2
def optQ (c : List Byte) : Nat := bytesAt c 0xA 2
def optMyPos (c : List Byte) : Nat := bytesAt c 0xC 2
def optDigestEvery (c : List Byte) : Nat := bytesAt c 0xE 2
def optTicketAddr (c : List Byte) : Nat := bytesAt c 0x38 8
def optNormIn (c : List Byte) : Nat := bytesAt c 0x40 8
def optDigestIn (c : List Byte) : Nat := bytesAt c 0x48 8
def optNormKcyc (c : List Byte) : Nat := bytesAt c 0x50 4
def optDigestKcyc (c : List Byte) : Nat := bytesAt c 0x54 4
def optNormIslet (c : List Byte) : Nat := bytesAt c 0x58 2

def shardInPlace (r : List Byte) : Bool := bytesAt r 1 1 == 1
def shardIndex (r : List Byte) : Nat := bytesAt r 2 2
def shardIslet (r : List Byte) : Nat := bytesAt r 4 2
def shardStage (r : List Byte) : Nat := bytesAt r 7 1
def shardN (r : List Byte) : Nat := bytesAt r 0xC 4
def shardBase (r : List Byte) : Nat := bytesAt r 0x10 8
def shardGrad (r : List Byte) : Nat := bytesAt r 0x18 8
def shardWindow (r : List Byte) : Nat := bytesAt r 0x20 4
def shardSeed (r : List Byte) : Nat := bytesAt r 0x24 4

/-- Compute copy `j` of a shard (R370). -/
def shardCopy (r : List Byte) (j : Nat) : List Byte := (r.drop (0x30 + 0x20 * j)).take 0x20
def copyAddr (d : List Byte) : Nat := bytesAt d 0 8
def copyFmt (d : List Byte) : Nat := bytesAt d 8 1
def copyRnd (d : List Byte) : Nat := bits (bytesAt d 9 1) 0 3
def copySat (d : List Byte) : Bool := bit (bytesAt d 9 1) 3
def copyAxis (d : List Byte) : Nat := bytesAt d 0xA 1
def copyRowLen (d : List Byte) : Nat := bytesAt d 0xC 4
def copyScaleAddr (d : List Byte) : Nat := bytesAt d 0x10 8

/-- The compute copies of a shard, with their index. -/
def shardCopies (r : List Byte) : List (Nat × List Byte) :=
  ([0, 1].map (fun j => (j, shardCopy r j))).filter (fun e => copyFmt e.2 ≠ 0xF)

/-- The moments of an algorithm. -/
def optMoments (c : List Byte) : Nat := optAlgo c

/-- The size of an array of a slot, and the address of array `i` (0 master, then moments) of slot `j` (R348). -/
def shardArray (r : List Byte) : Nat := pageUp (4 * shardN r)
def shardSlot (c r : List Byte) (j i : Nat) : Nat :=
  shardBase r + 0x10000 + j * ((1 + optMoments c) * shardArray r) + shardArray r * i

/-- The bytes a compute copy takes, and those of its scales. -/
def copyBytes (r d : List Byte) : Nat := shardN r * fmtBits (copyFmt d) / 8
def copyScales (r d : List Byte) : Nat := if fmtIsMx (copyFmt d) then shardN r / 32 else 0

/-- What an update of a shard whose current slot is `slot` writes, header page apart: address and length. -/
def shardTargets (c r : List Byte) (slot : Nat) : List (Nat × Nat) :=
  let t := if shardInPlace r then 0 else 1 - slot
  (List.range (1 + optMoments c)).map (fun i => (shardSlot c r t i, 4 * shardN r)) ++
  (shardCopies r).flatMap (fun e => [(copyAddr e.2, copyBytes r e.2), (copyScaleAddr e.2, copyScales r e.2)])

/-! ## The limits of the records (R370) -/

/-- A compute copy descriptor of a shard of `n` elements keeps the limits of R370: a floating-point format other than FP32 and FP64,
a rounding code of R173, AXIS 0 or 1, a ROW_LEN that is a multiple of 32 up to 65,536 and divides the rows of blocks. -/
def copyLegal (n : Nat) (d : List Byte) : Bool :=
  let fmt := copyFmt d
  let len := copyRowLen d
  fmt == 0xF ||
  (decide (1 ≤ fmt ∧ fmt ≤ 9) && decide (bytesAt d 9 1 < 16) && decide (copyRnd d ≤ 4) && decide (copyAxis d ≤ 1) && bytesAt d 0xB 1 == 0 &&
   len % 32 == 0 && decide (len ≤ 65536) && (copyAxis d == 0 || (len != 0 && n / 32 % max 1 len == 0)) && bytesAt d 0x18 8 == 0)

/-- A shard record keeps the limits of R370. -/
def shardLegal (c r : List Byte) : Bool :=
  let n := shardN r
  decide (bytesAt r 1 1 ≤ 1) && decide (shardIndex r < optShards c) && decide (shardIslet r < 384) && isLagoon (shardIslet r) &&
  decide (bytesAt r 6 1 < bytesAt c 3 1) && decide (8192 ≤ n ∧ n ≤ 2 ^ 30) && n % 8192 == 0 && shardBase r % 65536 == 0 &&
  shardGrad r % 32 == 0 && shardWindow r % 32 == 0 && decide (shardWindow r + 0x40000 ≤ 0x200000) && bytesAt r 0x28 8 == 0 &&
  bytesAt r 0x70 16 == 0 && copyLegal n (shardCopy r 0) && copyLegal n (shardCopy r 1)

/-- A configuration record keeps the limits of R370. -/
def optCfgLegal (c : List Byte) : Bool :=
  decide (optAlgo c ≤ 2) && decide (optPolicy c ≤ 2) && decide (1 ≤ bytesAt c 3 1 ∧ bytesAt c 3 1 ≤ 4) &&
  decide (1 ≤ optShards c ∧ optShards c ≤ 4096) && decide (1 ≤ optQ c ∧ optQ c ≤ 256) && decide (optMyPos c < optQ c) &&
  decide (0 < bytesAt c 0x20 8 ∧ bytesAt c 0x20 8 ≤ 0x7FF0000000000000) &&
  decide (0 < bytesAt c 0x28 4 ∧ bytesAt c 0x28 4 ≤ 0x7F800000) && decide (1 ≤ bytesAt c 0x2C 4 ∧ bytesAt c 0x2C 4 ≤ 2 ^ 20) &&
  [bytesAt c 0x30 8, optTicketAddr c, optNormIn c, optDigestIn c].all (fun a => a % 32 == 0) && optNormKcyc c != 0 && optDigestKcyc c != 0 &&
  decide (optNormIslet c < 384) && isLagoon (optNormIslet c) && bytesAt c 0x5A 38 == 0

/-- A function's OPT records keep the tables of R370: one configuration record, one record for each shard, and with more than one
norm peer one norm peer record. Others are unpredictable within the partition. Log entry 28. -/
def FnState.optLegal (f : FnState) : Bool :=
  let c := f.optCfg
  let peers := f.opt.filter (fun r => bytesAt r 0 1 == 2)
  (f.opt.filter (fun r => bytesAt r 0 1 == 0)).length == 1 && optCfgLegal c &&
  f.opt.all (fun r => decide (bytesAt r 0 1 ≤ 2)) && f.shardRecs.all (shardLegal c) && f.shardRecs.length == optShards c &&
  (f.shardRecs.map shardIndex).eraseDups.length == optShards c &&
  (if optQ c = 1 then peers == [] else peers.length == 1 && peers.all (fun r => bytesAt r 2 2 == optQ c))

/-! ## What must not be written (R346, R350, R357) -/

/-- Two address ranges share a byte. -/
def addrsMeet (a n b m : Nat) : Bool := decide (0 < n ∧ 0 < m ∧ a < b + m ∧ b < a + n)

/-- The optimiser is IDLE, UNLOADED or STOPPED: its shards may be written (R350). -/
def State.optRests (s : State) (fn : Nat) : Bool :=
  s.optState fn == optIdle || s.optState fn == optUnloaded || s.optState fn == optStopped

/-- A write to a range gives unpredictable results within the partition: it meets a shard's header page or slots while the optimiser
works (R350); a gradient that must be retained (R357); or, by an image or a command (`image`), a compute copy (R346).
Log entry 28. -/
def State.optForbids (s : State) (fn : Nat) (image : Bool) (addr len : Nat) : Bool :=
  let f := s.fnState fn
  f.shardRecs.any (fun r =>
    (!s.optRests fn && addrsMeet addr len (shardBase r) (shardSlot f.optCfg r (if shardInPlace r then 1 else 2) 0 - shardBase r)) ||
    (f.optim.retains && addrsMeet addr len (shardGrad r) (4 * shardN r)) ||
    (image && (shardCopies r).any (fun e =>
      addrsMeet addr len (copyAddr e.2) (copyBytes r e.2) || addrsMeet addr len (copyScaleAddr e.2) (copyScales r e.2))))

end Sys2Proof.Machine
end

