-- ==== Sys2Proof/Machine/Update.lean ====
section
/-! DEFINITION. What the optimiser computes: the norm decision's scalars, the update of an element, compute copies, commit
words and tickets (R347, R349, R354, R355, R358). -/

namespace Sys2Proof.Machine

/-- The FP64 code of an FP32 code: exact. -/
def fp64Of (x : Nat) : Nat := (roundFp64 (fmtFp32.decode x)).1

/-- The FP32 code nearest to an FP64 code. -/
def fp32Of (x : Nat) : Nat := (roundFp32 (fmtFp64.decode x)).1

/-- FP64 one. -/
def fp64One : Nat := 0x3FF0000000000000

/-- An FP32 value to the power `u`, correctly rounded in FP64. -/
def fp64Pow (x u : Nat) : Nat := match fmtFp32.decode x with
  | .fin neg m e => (roundFp64 (.fin (neg && u % 2 == 1) (m ^ u) (e * u))).1
  | .inf neg => (roundFp64 (.inf (neg && u % 2 == 1))).1
  | .nan _ => fmtFp64.nan

/-- `1 / (1 − beta^u)` as FP32 (R354). -/
def biasScale (beta u : Nat) : Nat := fp32Of (fp64Div fp64One (fp64Sub fp64One (fp64Pow beta u)).1).1

/-- A list of little-endian FP32 words. -/
def words32 : List Byte → List Nat
  | a :: b :: c :: d :: rest => leNat [a, b, c, d] :: words32 rest
  | _ => []

/-- The bytes of FP32 codes. -/
def bytes32 (ws : List Nat) : List Byte := ws.flatMap (leBytes 4)

/-- The constants of an update: algorithm, k, lr, c1, c2, then BETA1, BETA2, EPS, WDECAY (R358). -/
structure UpdateConsts where
  algo : Nat
  k : Nat
  lr : Nat
  c1 : Nat
  c2 : Nat
  beta1 : Nat
  beta2 : Nat
  eps : Nat
  wd : Nat
  deriving DecidableEq, Repr

/-- `c − a * b` with one rounding. -/
def fp32Fnma (a b c : Nat) : Flagged Nat :=
  finishNum fmtFp32 0 0 false (fmaNum 0 (negNum (fmtFp32.decode a)) (fmtFp32.decode b) (fmtFp32.decode c))

/-- `1 − b` as FP32. -/
def oneMinus (b : Nat) : Nat := (finishNum fmtFp32 0 0 false (addNum 0 (Num.ofInt 1) (negNum (fmtFp32.decode b)))).1

/-- The update of an element (R358): gradient, master, moments give master, moments, flags. -/
def updateElem (u : UpdateConsts) (gr w m v : Nat) : (Nat × Nat × Nat) × Nat :=
  let (g, f0) := fp32Mul u.k gr
  match u.algo with
  | 0 =>
    let (d, f1) := fp32Fma u.wd w g
    let (w1, f2) := fp32Fnma u.lr d w
    ((w1, 0, 0), f0 ||| f1 ||| f2)
  | 1 =>
    let (m1, f1) := fp32Fma u.beta1 m g
    let (d, f2) := fp32Fma u.wd w m1
    let (w1, f3) := fp32Fnma u.lr d w
    ((w1, m1, 0), f0 ||| f1 ||| f2 ||| f3)
  | _ =>
    let (a, f1) := fp32Mul (oneMinus u.beta1) g
    let (m1, f2) := fp32Fma u.beta1 m a
    let (gg, f3) := fp32Mul g g
    let (b, f4) := fp32Mul (oneMinus u.beta2) gg
    let (v1, f5) := fp32Fma u.beta2 v b
    let (n, f6) := fp32Mul m1 u.c1
    let (vh, f7) := fp32Mul v1 u.c2
    let (r, f8) := fp32Sqrt vh
    let (den, f9) := fp32Add r u.eps
    let (q, f10) := fp32Div n den
    let (d, f11) := fp32Fma u.wd w q
    let (w1, f12) := fp32Fnma u.lr d w
    ((w1, m1, v1), f0 ||| f1 ||| f2 ||| f3 ||| f4 ||| f5 ||| f6 ||| f7 ||| f8 ||| f9 ||| f10 ||| f11 ||| f12)

/-- The update of a run of elements: masters, first and second moments, flags. -/
def updateRun (u : UpdateConsts) : List Nat → List Nat → List Nat → List Nat → List (Nat × Nat × Nat) × Nat
  | gr :: grs, w :: ws, ms, vs =>
    let (x, f) := updateElem u gr w (ms.headD 0) (vs.headD 0)
    let (xs, fs) := updateRun u grs ws ms.tail vs.tail
    (x :: xs, f ||| fs)
  | _, _, _, _ => ([], 0)

/-! ## Compute copies (R347) -/

/-- Codes of `w` bits packed from bit 0 upward. Log entry 40. -/
def packCodes (w : Nat) (codes : List Nat) : List Byte :=
  (List.range ((codes.length + 31) / 32)).flatMap (fun j =>
    let part := (codes.drop (32 * j)).take 32
    leBytes ((part.length * w + 7) / 8) (part.zipIdx.map (fun e => e.1 * 2 ^ (w * e.2))).sum)

/-- The block of an element: its first element and the distance between its elements. -/
def copyBlock (axis rowLen e : Nat) : Nat × Nat :=
  if axis = 0 then (e / 32 * 32, 1) else (e / rowLen / 32 * 32 * rowLen + e % rowLen, rowLen)

/-- A compute copy of masters: elements, scale bytes in order of address, flags. -/
def copyOf (fmt rnd : Nat) (sat : Bool) (axis rowLen : Nat) (draw : Nat → Nat) (ws : List Nat) :
    List Byte × List Byte × Nat :=
  let rowLen := max 1 rowLen
  let val (e : Nat) : Num × Nat := (fmtFp32.decode (ws.getD e 0), draw e)
  if fmtIsMx fmt then
    let block (first step : Nat) : Nat × List Nat × Nat :=
      mxBlock fmt rnd sat ((List.range 32).map (fun i => val (first + i * step)))
    let codes := (List.range ws.length).map (fun e =>
      let (first, step) := copyBlock axis rowLen e
      (block first step).2.1.getD ((e - first) / step) 0)
    let firsts := if axis = 0 then (List.range (ws.length / 32)).map (32 * ·)
      else (List.range (ws.length / 32)).map (fun b => b / rowLen * 32 * rowLen + b % rowLen)
    let blocks := firsts.map (fun f => block f (if axis = 0 then 1 else rowLen))
    (packCodes (fmtBits fmt) codes, blocks.map (fun b => BitVec.ofNat 8 b.1), blocks.foldl (fun f b => f ||| b.2.2) 0)
  else
    let rs := (List.range ws.length).map (fun e => convertNum fmt false rnd (val e).2 sat (val e).1)
    (packCodes (fmtBits fmt) (rs.map Prod.fst), [], orFlags rs)

/-! ## Commit words and tickets (R349, R355) -/

/-- A commit word. -/
structure CommitWord where
  step : Nat := 2 ^ 64 - 1
  slot : Nat := 0
  copyValid : Bool := false
  inPlaceOpen : Bool := false
  gen : Nat := 0
  deriving DecidableEq, Repr

/-- Read a commit word. -/
def commitOf (bs : List Byte) : CommitWord :=
  { step := bytesAt bs 0 8, slot := bytesAt bs 8 1, copyValid := bit (bytesAt bs 9 1) 0,
    inPlaceOpen := bit (bytesAt bs 9 1) 1, gen := bytesAt bs 0x10 4 }

/-- Write a commit word. -/
def CommitWord.bytes (w : CommitWord) : List Byte :=
  leBytes 8 w.step ++ leBytes 1 w.slot ++ leBytes 1 (natOf w.copyValid + 2 * natOf w.inPlaceOpen) ++ leBytes 6 0 ++
    leBytes 4 w.gen ++ leBytes 12 0

/-- Read an update ticket. -/
def ticketOf (bs : List Byte) : Ticket :=
  { step := bytesAt bs 0 8, update := bytesAt bs 8 4, action := bytesAt bs 0xC 1, k := bytesAt bs 0x10 4,
    lr := bytesAt bs 0x14 4, c1 := bytesAt bs 0x18 4, c2 := bytesAt bs 0x1C 4 }

/-- The sector of an update ticket. -/
def ticketBytes (t : Ticket) : List Byte :=
  leBytes 8 t.step ++ leBytes 4 t.update ++ leBytes 1 t.action ++ leBytes 3 0 ++ leBytes 4 t.k ++ leBytes 4 t.lr ++
    leBytes 4 t.c1 ++ leBytes 4 t.c2

/-- A norm decision (R354): ACTION, the FP64 norm, and k. -/
def normDecide (sum scale div ceiling policy : Nat) : Nat × Nat × Nat :=
  let ld := (fp64Mul (fp64Of scale) (fp64Of div)).1
  let norm := (fp64Div (fp64Sqrt sum).1 ld).1
  let above := cmpNum (fmtFp64.decode norm) (fmtFp64.decode ceiling) == 1 && !(fmtFp64.decode norm).isNan &&
    !(fmtFp64.decode ceiling).isNan
  let k (c : Nat) : Nat := fp32Of (fp64Div c ld).1
  if (fmtFp64.decode sum).isFinite = false then (3, norm, 0)
  else if policy = 2 ∧ above then (2, norm, 0)
  else if policy = 1 ∧ above then (1, norm, k (fp64Div ceiling norm).1)
  else (0, norm, k fp64One)

end Sys2Proof.Machine
end

