-- ==== Sys2Proof/Machine/ShardTile.lean ====
section
/-! DEFINITION. The tiles of a shard's update, and what an interrupted update leaves (R347, R358, R359, R362). -/

namespace Sys2Proof.Machine

/-- The constants of an update, from ticket and configuration. -/
def updateConsts (c : List Byte) (t : Ticket) : UpdateConsts :=
  { algo := optAlgo c, k := t.k, lr := t.lr, c1 := t.c1, c2 := t.c2, beta1 := bytesAt c 0x10 4, beta2 := bytesAt c 0x14 4,
    eps := bytesAt c 0x18 4, wd := bytesAt c 0x1C 4 }

/-- The draws of a compute copy (R347). -/
def copyDraw (r : List Byte) (j update e : Nat) : Nat :=
  srDraw (shardSeed r ^^^ (update % 2 ^ 32)) (16 + j) (shardIndex r) 0 e

/-- The first status that is not OK. -/
def firstBadStatus (l : List Status) : Status := (l.find? (· ≠ .ok)).getD .ok

/-- Elements in a tile, tiles of a shard (R359). -/
def tileElems : Nat := 8192
def shardTileCount (r : List Byte) : Nat := shardN r / tileElems

/-- The elements of a compute copy that tile `k` completes, from the first to before the last: its own; of a copy of AXIS 1 in an MX
format those of the 32-row blocks whose last element it holds (DESIGN CHOICE, log entry 40). -/
def copySpan (d : List Byte) (k : Nat) : Nat × Nat :=
  let g := if fmtIsMx (copyFmt d) ∧ copyAxis d = 1 then 32 * max 1 (copyRowLen d) else tileElems
  (tileElems * k / g * g, tileElems * (k + 1) / g * g)

/-- Where the elements of a compute copy from `lo` on lie, and their scales (R347). -/
def copyAt (d : List Byte) (lo : Nat) : Nat := copyAddr d + lo * fmtBits (copyFmt d) / 8
def copyScaleAt (d : List Byte) (lo : Nat) : Nat := copyScaleAddr d + lo / 32

/-- Regenerate what tile `k` completes of the compute copies of a shard, from its masters so far: the flags, and the first status
that is not OK, after which nothing is written (R347, R359). -/
def State.tileCopies (s : State) (fn : Nat) (r : List Byte) (update : Nat) (ws : List Nat) (k : Nat) : State × Nat × Status :=
  (shardCopies r).foldl (fun acc e =>
    if acc.2.2 ≠ .ok then acc else
    let d := e.2
    let (lo, hi) := copySpan d k
    let (bs, sc, f) := copyOf (copyFmt d) (copyRnd d) (copySat d) (copyAxis d) (copyRowLen d)
      (fun i => copyDraw r e.1 update (lo + i)) ((ws.drop lo).take (hi - lo))
    let (s, st) := acc.1.devWrite .islet fn (copyAt d lo) bs
    let (s, st') := if st = .ok then s.devWrite .islet fn (copyScaleAt d lo) sc else (s, st)
    (s, acc.2.1 ||| f, firstBadStatus [st, st'])) (s, 0, .ok)

/-- Regenerate the compute copies of a shard from its masters, tile by tile (R347, R368). -/
def State.regenerate (s : State) (fn : Nat) (r : List Byte) (update : Nat) (ws : List Nat) : State × Nat × Status :=
  (List.range (shardTileCount r)).foldl (fun acc k =>
    if acc.2.2 ≠ .ok then acc else
    let (s, f, st) := acc.1.tileCopies fn r update ws k
    (s, acc.2.1 ||| f, st)) (s, 0, .ok)

/-- What a tile of an update reads from `off`: gradient, master, moments; the first status that is not OK. -/
def State.tileReads (s : State) (fn : Nat) (c r : List Byte) (slot off : Nat) : State × List (List Nat) × Status :=
  let addrs := shardGrad r :: (List.range (1 + optMoments c)).map (shardSlot c r slot)
  addrs.foldl (fun acc a =>
    let (s, x) := acc.1.devRead .islet fn (a + off) (4 * tileElems)
    (s, acc.2.1 ++ [words32 x.data], firstBadStatus [acc.2.2, x.status])) (s, [], .ok)

/-- A tile's arrays are written to a slot, in order, up to the first write that fails (R359). -/
def State.tileWrites (s : State) (fn : Nat) (c r : List Byte) (target off : Nat) (arrays : List (Nat × List Nat)) : State × Status :=
  arrays.foldl (fun acc e =>
    if acc.2 ≠ .ok then acc else acc.1.devWrite .islet fn (shardSlot c r target e.1 + off) (bytes32 e.2)) (s, .ok)

/-- Tile `k` of an update, after masters `ws`: its reads, then its moments, its master and its copies written. The masters with
its own, the flags, and the first status that is not OK (R358, R359). -/
def State.shardTile (s : State) (fn : Nat) (c r : List Byte) (t : Ticket) (slot target : Nat) (ws : List Nat) (k : Nat) :
    State × List Nat × Nat × Status :=
  let off := 4 * tileElems * k
  match s.tileReads fn c r slot off with
  | (s, arrays, .ok) =>
    let (out, f) := updateRun (updateConsts c t) (arrays.getD 0 []) (arrays.getD 1 []) (arrays.getD 2 []) (arrays.getD 3 [])
    let ws := ws ++ out.map (·.1)
    let moments := [(1, out.map (·.2.1)), (2, out.map (·.2.2))].filter (fun e => e.1 ≤ optMoments c)
    match s.tileWrites fn c r target off (moments ++ [(0, out.map (·.1))]) with
    | (s, .ok) =>
      let (s, fc, st) := s.tileCopies fn r t.update ws k
      (s, ws, f ||| fc, st)
    | (s, st) => (s, ws, f, st)
  | (s, _, st) => (s, ws, 0, st)

/-- The first `n` tiles of an update, in increasing element order, up to the first that fails (R359). -/
def State.shardTiles (s : State) (fn : Nat) (c r : List Byte) (t : Ticket) (slot target n : Nat) : State × List Nat × Nat × Status :=
  (List.range n).foldl (fun acc k =>
    if acc.2.2.2 ≠ .ok then acc else
    let (s, ws, f, st) := acc.1.shardTile fn c r t slot target acc.2.1 k
    (s, ws, acc.2.2.1 ||| f, st)) (s, [], 0, .ok)

/-- What tile `k` writes, in order: address and length. -/
def tileTargets (c r : List Byte) (target k : Nat) : List (Nat × Nat) :=
  ((List.range (1 + optMoments c)).map (fun i => (shardSlot c r target i + 4 * tileElems * k, 4 * tileElems))) ++
  (shardCopies r).flatMap (fun e =>
    let (lo, hi) := copySpan e.2 k
    [(copyAt e.2 lo, (hi - lo) * fmtBits (copyFmt e.2) / 8), (copyScaleAt e.2 lo, if fmtIsMx (copyFmt e.2) then (hi - lo) / 32 else 0)])

/-- The bytes that device memory holds at an address of a function, as its map has them; zero where unmapped. -/
def State.peek (s : State) (fn addr len : Nat) : List Byte :=
  (List.range len).map (fun k => match s.pageAt fn (addr + k) with
    | some pg => memByte s.mem (frameByte pg.frame ((addr + k) % 65536))
    | none => 0)

/-- The current slot that a shard's commit word names. -/
def State.shardCurSlot (s : State) (fn : Nat) (r : List Byte) : Nat := bytesAt (s.peek fn (shardBase r) 32) 8 1 % 2

/-- The slot that an update writes (R359). -/
def targetSlot (r : List Byte) (slot : Nat) : Nat := if shardInPlace r then 0 else 1 - slot

/-- Bytes of device memory take unspecified values with fresh codewords, where they are mapped (log entry 8). -/
def State.freeRange (s : State) (fn addr len : Nat) : State :=
  let s' := (List.range len).foldl (fun s' k => match s.pageAt fn (addr + k) with
    | some pg => (s'.setErrors (frameByte pg.frame ((addr + k) % 65536)) []).putFrame pg.frame
        ((addr + k) % 65536) [BitVec.ofNat 8 (Config.freeNat (s.freeCtr + k))]
    | none => s') s
  { s' with freeCtr := s.freeCtr + len }

/-- OPT_STAT.FLAGS takes the flags of an update (R180). -/
def State.optFlags (s : State) (fn f : Nat) : State := s.setFld .OPT_STAT_FLAGS fn 0 (s.fld .OPT_STAT_FLAGS fn ||| f)

/-- What an update reads and writes does not wait (R232, R237). -/
def State.shardReady (s : State) (fn : Nat) (r : List Byte) (slot : Nat) : Bool :=
  let c := (s.fnState fn).optCfg
  ((shardGrad r, 4 * shardN r) :: (List.range (1 + optMoments c)).map (fun i => (shardSlot c r slot i, 4 * shardN r))).all
    (fun x => s.rangeReady fn x.1 x.2) &&
  (shardTargets c r slot).all (fun x => s.rangeReady fn x.1 x.2 true)

/-- An update that is interrupted has written a number of tiles that the spec leaves open, and what it was writing of the next is
unspecified; what lies beyond is untouched (R359, R362; log entries 8 and 40). -/
def State.shardCut (s : State) (fn : Nat) (r : List Byte) (t : Ticket) : State :=
  let c := (s.fnState fn).optCfg
  let slot := s.shardCurSlot fn r
  if s.shardReady fn r slot = false then s else
  let n := s.free % (shardTileCount r + 1)
  let (s, _, f, st) := s.drawn.shardTiles fn c r t slot (targetSlot r slot) n
  let s := s.optFlags fn f
  if st ≠ .ok ∨ n = shardTileCount r then s
  else (tileTargets c r (targetSlot r slot) n).foldl (fun s x => s.freeRange fn x.1 x.2) s

end Sys2Proof.Machine
end

