-- ==== Sys2Proof/Machine/StepControl.lean ====
section
/-! DEFINITION. What the step service, its stages, reduction jobs and launches share: the shoal's pointers, the start of
an attempt, the abort of a step, and how a launch, a phase or an update ends early (R73, R87, R193-R209, R343, R362,
R387, R388). -/

namespace Sys2Proof.Machine

/-! ## RED records (R344) -/

def jobId (r : List Byte) : Nat := bytesAt r 1 1
def jobCtx (r : List Byte) : Nat := bytesAt r 2 1
def jobTree (r : List Byte) : Bool := bytesAt r 3 1 == 1
def jobGroup (r : List Byte) : Nat := bytesAt r 4 1
def jobRank (r : List Byte) : Nat := bytesAt r 5 1
def jobRepeats (r : List Byte) : Bool := bytesAt r 6 1 == 1
def jobRepeatLimit (r : List Byte) : Nat := max 1 (bytesAt r 7 1)
def jobOwner (r : List Byte) : Nat := bytesAt r 8 1
def jobStepGroup (r : List Byte) : Nat := bytesAt r 9 1
def jobBuckets (r : List Byte) : Nat := bytesAt r 0xA 2
def jobDeadline (r : List Byte) : Nat := bytesAt r 0xC 4
def jobVote (r : List Byte) : Nat := bytesAt r 0x10 4
def jobLossInit (r : List Byte) : Nat := bytesAt r 0x14 4
def jobLossAddr (r : List Byte) : Nat := bytesAt r 0x18 8
def jobGrow (r : List Byte) : Nat := bytesAt r 0x20 2
def jobScaleMax (r : List Byte) : Nat := bytesAt r 0x24 4
def jobStaging (r : List Byte) : Nat := bytesAt r 0x28 8
def bucketStage (r : List Byte) : Nat := bytesAt r 4 1
def bucketBase (r : List Byte) : Nat := bytesAt r 8 8
def bucketPages (r : List Byte) : Nat := bytesAt r 0x10 4
def bucketResultAddr (r : List Byte) : Nat := bytesAt r 0x18 8

/-- The contexts that hold a function's jobs. -/
def State.jobsOf (s : State) (fn : Nat) : List Nat := (s.jobs.filter (fun e => e.2.fn == fn)).map Prod.fst

/-- A job. -/
def State.job (s : State) (x : Nat) : Job := storeGet {} s.jobs x

/-- Change a job. -/
def State.modJob (s : State) (x : Nat) (g : Job → Job) : State := { s with jobs := storeSet {} s.jobs x (g (s.job x)) }

/-- The job states of RED_JOB_STAT. -/
def jobIdle : Nat := 1
def jobRunning : Nat := 2
def jobVoting : Nat := 3
def jobStopped : Nat := 4

/-- The state of the job of a context. -/
def State.jobState (s : State) (x : Nat) : Nat := s.fld .RED_JOB_STAT_STATE x

/-- RED_JOB_STAT.OUTSTANDING shows the buckets started and not complete. -/
def State.jobStat (s : State) (x : Nat) : State :=
  s.setFld .RED_JOB_STAT_OUTSTANDING x 0 ((s.job x).run.filter (fun e => e.2.started && !e.2.complete)).length

/-- A job stops in a step, which ends on it (RED_JOB_STAT.STOP_CAUSE, RED_EVT). -/
def State.jobStop (s : State) (x cause : Nat) (st : Status) : State :=
  let s := s.modJob x (fun j => { j with run := [], vote := none, voted := false, applied := true })
  let s := (s.setFld .RED_JOB_STAT_STATE x 0 jobStopped).setFld .RED_JOB_STAT_STOP_CAUSE x 0 cause
  let s := (s.setFld .RED_JOB_STAT_LAST_STATUS x 0 (statusCode st)).jobStat x
  (s.fnEvent (s.job x).fn 3 .RED_EVT_STOP_EVT (s.job x).fn).fnEvent (s.job x).fn 3 .RED_EVT_STEP_EVT (s.job x).fn

/-! ## Stages and the shoal -/

/-- A stage of a function. -/
def State.stage (s : State) (fn slot : Nat) : Stage := storeGet {} (s.fnState fn).stages slot

/-- Change a stage. -/
def State.modStage (s : State) (fn slot : Nat) (g : Stage → Stage) : State :=
  s.modFn fn (fun f => { f with stages := storeSet {} f.stages slot (g (storeGet {} f.stages slot)) })

/-- The records of a stage; empty where the sections lack them. -/
def State.stageRecOf (s : State) (fn slot : Nat) : List Byte := ((s.fnState fn).stageRec slot).getD []

/-- The SHOAL record of a stage. -/
def State.shoalRecOf (s : State) (fn slot : Nat) : List Byte := ((s.fnState fn).shoalRec slot).getD []

/-- Bytes of a ring in use from RETIRE to TAIL, skipped tails included. -/
def ringUse (g : Stage) (ring : Nat) : Nat :=
  if g.frames.isEmpty then 0 else if g.retire < g.tail then g.tail - g.retire else ring - g.retire + g.tail

/-- The stage registers show the shoal's pointers and use (R216). -/
def State.shoalStat (s : State) (fn slot : Nat) : State :=
  let g := s.stage fn slot
  let r := s.shoalRecOf fn slot
  let s := (s.setFld .MEM_SHOAL_PTR_RETIRE fn slot (g.retire / 65536)).setFld .MEM_SHOAL_PTR_TAIL fn slot (g.tail / 65536)
  let s := s.setFld .MEM_PIPE_STAT_FRAMES fn slot g.frames.length
  s.setFld .MEM_SHOAL_USE_HWM_PAGES fn slot (max (s.fld .MEM_SHOAL_USE_HWM_PAGES fn slot) (ringUse g (shoalRingBytes r) / 65536))

/-- MEM_SHOAL_CUR shows the frame being pushed or popped. -/
def State.shoalCur (s : State) (fn slot start top : Nat) : State :=
  (s.setFld .MEM_SHOAL_CUR_START fn slot (start / 65536)).setFld .MEM_SHOAL_CUR_TOP_WORDS fn slot (top / 32)

/-- Open a frame before a forward phase (R204.1); a feed record raises TOP to its length rounded up (R209). -/
def State.shoalOpen (s : State) (fn slot : Nat) : State :=
  let r := s.shoalRecOf fn slot
  let g := s.stage fn slot
  let start := if shoalFrameMax r ≤ shoalRingBytes r - g.tail then g.tail else 0
  let limit := min (shoalFrameMax r) (shoalRingBytes r - start)
  let limit := if g.frames ≠ [] ∧ start ≤ g.retire then min limit (g.retire - start) else limit
  let p := s.stageRecOf fn slot
  let top := if stageFeed p then (stageFeedBytes p + 31) / 32 * 32 else 0
  (s.modStage fn slot (fun g => { g with start := start, limit := limit, top := top })).shoalCur fn slot start top

/-- Close a frame when its forward phase is done (R204.2). -/
def State.shoalClose (s : State) (fn slot m : Nat) : State :=
  (s.modStage fn slot (fun g =>
    let tail := g.start + pageUp g.top
    { g with tail := tail, frames := g.frames ++ [{ start := g.start, top := g.top, mb := m }],
             retire := if g.frames.isEmpty then g.start else g.retire })).shoalStat fn slot

/-- Retire the oldest frame when its backward phase is done (R204.3). -/
def State.shoalRetire (s : State) (fn slot : Nat) : State :=
  (s.modStage fn slot (fun g =>
    let rest := g.frames.tail
    { g with frames := rest, retire := (rest.head?.map (·.start)).getD g.tail })).shoalStat fn slot

/-- Reset a shoal when a step ends (R204.4). -/
def State.shoalReset (s : State) (fn slot : Nat) : State :=
  (s.modStage fn slot (fun g => { g with frames := [], tail := 0, retire := 0, start := 0, limit := 0, top := 0, replayTop := 0 })
    ).shoalStat fn slot

/-- The one-forward-one-backward schedule (R197), as kind and micro-batch. -/
def schedule (n warmup : Nat) (recompute : Bool) : List (Nat × Nat) :=
  let w := min warmup n
  (List.range w).map (fun m => (0, m)) ++
  (List.range n).flatMap (fun i =>
    (if recompute then [(2, i)] else []) ++ [(1, i)] ++ (if i + w < n then [(0, i + w)] else []))

/-- The address of a stage's feed record for micro-batch `m` (R387). -/
def State.feedAddr (s : State) (fn slot m : Nat) (v : StepSvc) : Nat :=
  let f := s.fnState fn
  let o := ((f.stageSlots.filter (· < slot)).map (fun k => let p := s.stageRecOf fn k; if stageFeed p then stageFeedBytes p else 0)).sum
  bytesAt v.cb 8 8 + ((v.t - v.step0) * v.n + m) * bytesAt v.cb 0x10 4 + o

/-- The copy of a feed record begins; one in host memory is asked for (R209, R312, R387). -/
def State.feedBegins (s : State) (fn slot m : Nat) : State :=
  let p := s.stageRecOf fn slot
  let s := s.modStage fn slot (fun g => { g with feeding := stageFeed p, fed := false })
  match (s.fnState fn).step with
  | some v =>
    if stageFeed p = true ∧ bit v.flags 0 = true then
      (s.hostRead fn (stageHome p) (s.feedAddr fn slot m v) (stageFeedBytes p)).modFn fn (fun f =>
        { f with step := f.step.map (fun v => { v with asked := true }) })
    else s
  | none => s

/-- Between phases: the frame of a forward phase that comes next is opened, and its feed copy begins (R204, R209, R387). -/
def State.phaseNext (s : State) (fn slot : Nat) : State :=
  match (s.stage fn slot).todo with
  | [] => s.setFld .MEM_PIPE_STAT_PHASE fn slot 0
  | (k, m) :: _ =>
    let s := s.setFld .MEM_PIPE_STAT_PHASE fn slot 4
    if k = 0 then (s.shoalOpen fn slot).feedBegins fn slot m else s

/-- The home island's cycles that a stage has spent in the running phase, or between phases of its step, beyond what
MEM_PIPE_BUSY holds (R216). -/
def State.stageBusy (s : State) (fn slot : Nat) : Nat :=
  let g := s.stage fn slot
  g.busyCycles + (if g.running.isSome then s.count (stageHome (s.stageRecOf fn slot)) - g.opened else 0)
def State.stageWait (s : State) (fn slot : Nat) : Nat :=
  let g := s.stage fn slot
  g.waitCycles + (if g.running.isNone && !g.todo.isEmpty then s.count (stageHome (s.stageRecOf fn slot)) - g.ended else 0)

/-- MEM_PIPE_BUSY takes those cycles; what is left of a thousand stays. The phase, or the wait, counts from now on (R216). -/
def State.stageCounts (s : State) (fn slot : Nat) : State :=
  let busy := s.stageBusy fn slot
  let wait := s.stageWait fn slot
  let now := s.count (stageHome (s.stageRecOf fn slot))
  let s := (s.satFld .MEM_PIPE_BUSY_BUSY_KCYC fn slot (busy / 1000)).satFld .MEM_PIPE_BUSY_WAIT_KCYC fn slot (wait / 1000)
  s.modStage fn slot (fun g => { g with opened := now, ended := now, busyCycles := busy % 1000, waitCycles := wait % 1000 })

/-- A halt notice or a copy-idle report of a phase is accepted at the stage's home island now (R193, R196). -/
def State.phaseHeard (s : State) (fn slot : Nat) : State :=
  let now := s.count (stageHome (s.stageRecOf fn slot))
  s.modStage fn slot (fun g => { g with heard := now })

/-- The copy engines of an islet have gone idle: it reports so to the home island of the stage whose phase it runs
(R193, R196). -/
def State.copyIdles (s : State) (i : Nat) : State :=
  match (s.islet i).task with
  | some (.phase fn slot) =>
    if (s.islet i).copyIdle then
      s.sendPacket { src := i, dst := 384 + stageHome (s.stageRecOf fn slot), kind := .copyIdle fn slot }
    else s
  | _ => s

/-- A packet belongs to the running phase of a stage. -/
def Packet.ofPhase (p : Packet) (fn slot : Nat) : Bool :=
  match p.kind with
  | .halt (.phase f k) => f == fn && k == slot
  | .phaseStart f k _ _ => f == fn && k == slot
  | .copyIdle f k => f == fn && k == slot
  | _ => false

/-- Every islet of a stage is stopped as ISL_CTL.STOP stops it, one whose copy engines run on after its HALT too; starts, halt
notices and reports of the phase on their way count no more (R196, R207). -/
def State.stopPhase (s : State) (fn slot : Nat) : State :=
  let s := (stageIslets (s.stageRecOf fn slot)).foldl (fun s i => s.stopIslet i causeStopped) s
  { s with packets := s.packets.filter (fun p => !p.ofPhase fn slot) }

/-- A stage's step ends: its islets are stopped where a phase runs, its cycles are counted, its shoal is reset (R196, R204,
R216). -/
def State.stageEnd (s : State) (fn slot : Nat) (st : Status) : State :=
  let run := (s.stage fn slot).running.isSome
  let s := s.stageCounts fn slot
  let s := if run then s.stopPhase fn slot else s
  let s := s.modStage fn slot (fun g => { g with todo := [], running := none, halted := [], feeding := false, fed := false })
  let s := (s.setFld .MEM_PIPE_STAT_PHASE fn slot (if run then 5 else 0)).setFld .MEM_PIPE_STAT_LAST_STATUS fn slot (statusCode st)
  s.shoalReset fn slot

/-- The stages of a function end their step. -/
def State.stagesEnd (s : State) (fn : Nat) (st : Status) : State :=
  (s.fnState fn).stageSlots.foldl (fun s slot => s.stageEnd fn slot st) s

/-! ## The step service -/

/-- Change the step service of a function. -/
def State.modStep (s : State) (fn : Nat) (g : StepSvc → StepSvc) : State :=
  s.modFn fn (fun f => { f with step := f.step.map g })

/-- SVC_STEP_STAT and SVC_STEP_CUR show the service. -/
def State.stepStat (s : State) (fn : Nat) : State :=
  match (s.fnState fn).step with
  | none => s.setFld .SVC_STEP_STAT_STATE fn 0 0
  | some v =>
    let st := match v.point with
      | .ending _ => 3
      | _ => if v.paused then 2 else 1
    let s := (s.setFld .SVC_STEP_STAT_STATE fn 0 st).setFld .SVC_STEP_STAT_ATTEMPT fn 0 v.attempt
    (s.setFld .SVC_STEP_STAT_CONSUMED fn 0 v.consumed).setFld .SVC_STEP_CUR_STEP fn 0 v.t

/-- The stage of lowest slot, whose home island times a step (R390). -/
def State.firstHome (s : State) (fn : Nat) : Nat :=
  match (s.fnState fn).stageSlots with
  | [] => 0
  | slot :: _ => stageHome (s.stageRecOf fn slot)

/-- The step record of an attempt that ends now (R390). -/
def State.stepRecord (s : State) (fn : Nat) (v : StepSvc) (outcome : Nat) (st : Status) (t : Ticket) (scale : Nat) : StepRec :=
  let jobs := s.jobsOf fn
  let x := jobs.head?.getD 0
  let bad := jobs.find? (fun x => (s.job x).noted)
  { step := v.t, attempt := v.attempt, outcome := outcome, status := st,
    scale := if jobs.isEmpty then 0 else if scale = 0 then s.fld .RED_JOB_SCALE_LOSS_SCALE x else scale,
    norm := t.norm, update := t.update,
    nfIndex := (bad.map (fun x => s.fld .RED_JOB_NF_NF_INDEX x)).getD 0,
    nfAddr := (bad.map (fun x => s.fld .RED_JOB_NF_NF_ADDR x)).getD 0,
    kcyc := (v.opened.map (fun o => (s.count (s.firstHome fn) - o) / 1000)).getD 0 }

/-- The service's attempt ends with a record, and the service ends with a status once its records are written. -/
def State.stepEnding (s : State) (fn : Nat) (r : StepRec) (st : Status) : State :=
  let s := s.setFld .SVC_STEP_STAT_LAST_STATUS fn 0 (statusCode r.status)
  (s.modStep fn (fun v => { v with recs := v.recs ++ [r], point := .ending st })).stepStat fn

/-- Send STEP_ABORT to every device of the step groups of a function's jobs whose step has no applied result (R343). -/
def State.sendAborts (s : State) (fn : Nat) (st : Status) : State :=
  let own := s.fld .JL_CHAIN_ADDR
  let groups := ((s.jobsOf fn).filter (fun x => !(s.job x).applied)).map (fun x =>
    (jobStepGroup (s.job x).recd, (s.job x).peers, (s.reg .RED_JOB_STEP x).toNat, s.fld .RED_JOB_STAT_ATTEMPT x))
  groups.eraseDups.foldl (fun s g =>
    let body := leBytes 1 g.1 ++ leBytes 1 (statusCode st) ++ leBytes 1 g.2.2.2 ++ leBytes 5 0 ++ leBytes 8 g.2.2.1
    (g.2.1.filter (fun p => p.1 ≠ own)).foldl (fun s p =>
      s.sendTo { ftype := 5, sub := 0x42, dst := p.1, dfn := p.2, sfn := fn, len := 1, vc := 3, payload := body }) s) s

/-- The step of a function ends everywhere on this device with a status (R343), unless a result has been applied: its
jobs stop, its stages end, the service ends. With `send`, the step groups are told. Log entry 32. -/
def State.abortStep (s : State) (fn : Nat) (st : Status) (send : Bool) : State :=
  match (s.fnState fn).step with
  | none => s
  | some v =>
    if v.point ≠ .running then s else
    let s := if send then s.sendAborts fn (if st = .shoalFull then .shoalFull else .aborted) else s
    let r := s.stepRecord fn v 6 st {} 0
    let s := (s.jobsOf fn).foldl (fun s x =>
      if (s.job x).applied then s else s.jobStop x 5 st) s
    (s.stagesEnd fn st).stepEnding fn r st

/-- An attempt starts: every job runs the step and attempt, with its loss scale written at LOSS_ADDR, and every stage
its schedule (R324, R341, R387). With a job STOPPED the attempt ends at once. Log entry 32. -/
def State.attemptStart (s : State) (fn : Nat) : State :=
  match (s.fnState fn).step with
  | none => s
  | some v =>
    match (s.jobsOf fn).find? (fun x => s.jobState x == jobStopped) with
    | some x =>
      let st := statusOf (s.fld .RED_JOB_STAT_LAST_STATUS x)
      s.stepEnding fn (s.stepRecord fn v 5 st {} 0) st
    | none =>
      let s := (s.modStep fn (fun v => { v with point := .running, opened := none, paused := false })).stepStat fn
      let s := s.modOpt fn (fun o => { o with commits := [], early := none })
      let s := (s.jobsOf fn).foldl (fun s x =>
        let j := s.job x
        let s := s.modJob x (fun j => { j with run := [], ports := [], vote := none, voted := false, applied := false, action := 0,
                                               lost := false, noted := false, scale := s.fld .RED_JOB_SCALE_LOSS_SCALE x })
        let s := (s.setFld .RED_JOB_STAT_STATE x 0 jobRunning).setFld .RED_JOB_STAT_ATTEMPT x 0 v.attempt
        let s := (s.setReg .RED_JOB_STEP x 0 (BitVec.ofNat 64 v.t)).jobStat x
        if jobLossAddr j.recd = 2 ^ 64 - 1 then s
        else (s.devWrite .islet fn (jobLossAddr j.recd) (leBytes 4 (s.fld .RED_JOB_SCALE_LOSS_SCALE x))).1) s
      (s.fnState fn).stageSlots.foldl (fun s slot =>
        let p := s.stageRecOf fn slot
        let s := s.modStage fn slot (fun g => { g with todo := schedule v.n (stageWarmup p) (stageRecompute p), running := none,
                                                       ended := s.count (stageHome p) })
        s.phaseNext fn slot) s

/-! ## The optimiser stops -/

/-- A work window and lagoon buffers that an update leaves unspecified (R361; log entry 8). -/
def State.freeWindow (s : State) (i off : Nat) : State :=
  let free (base : Nat) (k : Nat) : Byte := BitVec.ofNat 8 (Config.freeNat (base + k))
  let s' := s.modIslet i (fun x => { x with
    sp := memWrite x.sp off ((List.range 0x40000).map (free s.freeCtr))
    vx := { x.vx with lagoon := memWrite x.vx.lagoon 0 ((List.range 0x40000).map (free (s.freeCtr + 0x40000))) } })
  { s' with freeCtr := s.freeCtr + 0x80000 }

/-- The updates that run are interrupted where they stand; their windows are unspecified, their shards pending and their islets free
(R359, R361, R362). Log entry 40. -/
def State.optInterrupt (s : State) (fn : Nat) : State :=
  let f := s.fnState fn
  let s := (f.optim.shards.filter (fun e => e.2 == 2)).foldl (fun s e =>
    match f.shardRec e.1 with
    | some r =>
      let s := match f.optim.ticket with
        | some t => s.shardCut fn r t
        | none => s
      (s.freeWindow (shardIslet r) (shardWindow r)).modOpt fn (fun o => { o with shards := storeSet 0 o.shards e.1 1 })
    | none => s) s
  s.islets.foldl (fun s e => match e.2.task with
    | some (.update f _) => if f = fn then s.modIslet e.1 (fun x => { x with task := none }) else s
    | _ => s) s

/-- A shard is TORN. -/
def State.optHasTorn (s : State) (fn : Nat) : Bool := (s.fnState fn).optim.shards.any (fun e => e.2 == 3)

/-- LAST_STATUS takes a status; while a shard is TORN it reads TORN (R364). -/
def State.optLast (s : State) (fn : Nat) (st : Status) : State :=
  s.setFld .OPT_STAT_LAST_STATUS fn 0 (statusCode (if s.optHasTorn fn then .torn else st))

/-- The optimiser enters STOPPED with a status: its updates are interrupted, and a step service ends with the status: at
once, its attempt too where one runs (R353, R362, R366, R388). -/
def State.optStop (s : State) (fn : Nat) (st : Status) : State :=
  let o := (s.fnState fn).optim
  let early := o.undecided || (s.optState fn == optNorm && st != .late)
  let s := ((s.optInterrupt fn).setFld .OPT_STAT_STATE fn 0 optStopped).optLast fn st
  let s := s.modOpt fn (fun o => { o with recovering := false, adopting := none, broadcast := none, released := false, commits := [],
                                          digest := none, early := none, waits := 0, undecided := early })
  let s := s.fnEvent fn 4 .OPT_EVT_STOP_EVT fn
  match (s.fnState fn).step with
  | none => s
  | some v =>
    match v.point with
    | .committed => s.stepEnding fn (s.stepRecord fn v 5 st (o.ticket.getD {}) o.scale) st
    | .recovering => (s.modStep fn (fun v => { v with point := .ending st })).stepStat fn
    | .running =>
      let r := s.stepRecord fn v 5 st {} 0
      let s := (s.jobsOf fn).foldl (fun s x => if (s.job x).applied then s else s.jobStop x 5 st) s
      (s.stagesEnd fn st).stepEnding fn r st
    | .between => (s.modStep fn (fun v => { v with point := .ending st })).stepStat fn
    | .ending _ => s

/-! ## Queues (R380) -/

/-- States of a queue (R380). -/
def queueDisabled : Nat := 0
def queueActive : Nat := 1
def queueDraining : Nat := 2
def queueError : Nat := 3

/-- A queue enters ERROR, one that drains too (R380). Log entry 34. -/
def State.queueFails (s : State) (fn q : Nat) (st : Status) : State :=
  let s := if s.fld .SVC_Q_STATE_STATE fn q = queueDisabled then s else s.setFld .SVC_Q_STATE_STATE fn q queueError
  (s.setFld .SVC_Q_STATE_ERR_STATUS fn q (statusCode st)).fnEvent fn 6 .SVC_EVT_QUEUE_ERR_EVT fn

/-! ## Entries and launches -/

/-- The entry that a command may launch: the function has a base image, one record carries the ENTRY_ID, its masks name
configured atolls and stacks only, and its KIND is one the command serves (R73.1). -/
def State.entryFor (s : State) (fn id : Nat) (kind : Nat) : Option (List Byte) :=
  match (s.fnState fn).entries.find? (fun e => entryId e == id) with
  | none => none
  | some e =>
    let atolls := s.fld .IMG_CFG_STATE_ATOLLS_LOADED fn
    let loaded := s.fld .IMG_CFG_STATE_STACKS_LOADED fn
    if s.fld .IMG_CFG_STATE_BASE fn = 1 ∧ entryAtolls e ≠ 0 ∧ (setBits (entryAtolls e) 24).all (bit atolls) = true ∧
        (setBits (entryStacks e) 8).all (bit loaded) = true ∧ entryKind e = kind then some e
    else none

/-- Two installed records carry one ENTRY_ID, a parameter block passes 2 MiB, or DONE_RULE is reserved (R49, R72, R73). Log
entry 31. -/
def State.entryUnsafe (s : State) (fn : Nat) (e : List Byte) : Bool :=
  1 < ((s.fnState fn).entries.filter (fun x => entryId x == entryId e)).length ||
  decide (0x200000 < entryParamOffset e + entryParamLen e) || decide (1 < entryDoneRule e)

/-- A launch is taken: its parameters are to be read. -/
def State.launchTake (s : State) (l : Launch) : State × Nat :=
  ({ s with launches := storeSet {} s.launches s.nextLaunch l, nextLaunch := s.nextLaunch + 1 }, s.nextLaunch)

/-! ## The generation service (R391-R394) -/

def gSlotState (r : List Byte) : Nat := bytesAt r 0 1
def gSlotStop (r : List Byte) : Nat := bytesAt r 4 4
def gSlotMaxNew (r : List Byte) : Nat := bytesAt r 0x14 4
def gSlotOut (r : List Byte) : Nat := bytesAt r 0x18 8
def gSlotCount (r : List Byte) : Nat := bytesAt r 0x20 4

/-- A slot with some fields replaced: state, finish, count, status. Log entry 33. -/
def gSlotWith (r : List Byte) (st fin count status : Nat) : List Byte :=
  leBytes 1 st ++ leBytes 1 fin ++ ((r.drop 2).take 0x1E) ++ leBytes 4 count ++ leBytes 1 status ++ (r.drop 0x25).take 0x1B

/-- Change the generation service. -/
def State.modGen (s : State) (fn : Nat) (g : GenSvc → GenSvc) : State := s.modFn fn (fun f => { f with gen := f.gen.map g })

/-- Tables and outputs lie in host memory (GFLAGS[0]); each boundary raises an event (GFLAGS[1]). -/
def GenSvc.host (g : GenSvc) : Bool := bit (bytesAt g.ops 0x12 1) 0
def GenSvc.tokenIrq (g : GenSvc) : Bool := bit (bytesAt g.ops 0x12 1) 1

/-- The service writes bytes of its table or outputs; a host that is not reached ends it LINK_DOWN (R310). -/
def State.genWrite (s : State) (fn : Nat) (g : GenSvc) (addr : Nat) (bs : List Byte) : State :=
  if g.host then
    let s := s.hostWrite fn (s.commandDie fn) 0 addr bs
    if s.hostUp then s else s.modGen fn (fun g => { g with bad := some (g.bad.getD .linkDown) })
  else (s.devWrite .islet fn addr bs).1

/-- An address of the host is one that the service writes: in its slot table, or in a slot's outputs (R392). -/
def GenSvc.writes (g : GenSvc) (addr : Nat) : Bool :=
  g.host && ((decide (bytesAt g.ops 0x18 8 ≤ addr) && decide (addr < bytesAt g.ops 0x18 8 + 64 * bytesAt g.ops 0x11 1)) ||
    g.slots.any (fun r => decide (gSlotOut r ≤ addr) && decide (addr < gSlotOut r + 4 * gSlotMaxNew r)))

/-- The address of a slot in the table. -/
def GenSvc.slotAddr (g : GenSvc) (k : Nat) : Nat := bytesAt g.ops 0x18 8 + 64 * k

/-- Running slots, by index. -/
def GenSvc.running (g : GenSvc) : List Nat := (List.range g.slots.length).filter (fun k => gSlotState (g.slots.getD k []) == 2)

/-- SVC_GEN_STAT shows the service. -/
def State.genStat (s : State) (fn : Nat) : State :=
  match (s.fnState fn).gen with
  | none => (s.setFld .SVC_GEN_STAT_STATE fn 0 0).setFld .SVC_GEN_STAT_RUNNING fn 0 0
  | some g =>
    let s := (s.setFld .SVC_GEN_STAT_STATE fn 0 (if g.paused then 2 else 1)).setFld .SVC_GEN_STAT_RUNNING fn 0 g.running.length
    s.setFld .SVC_GEN_STAT_BOUNDARIES fn 0 (min g.boundary (2 ^ 32 - 1))

/-- What a SERVICE_CTL that waits completes with when its service ends: OK where it has stopped it, RESET_IN_PROGRESS in a
shut-down, else ABORTED (R381). Log entry 33. -/
def ctlStatus (st : Status) (took : Bool) : Status := if took then .ok else if st = .resetInProgress then st else .aborted

/-- The service ends: running slots are written with FINISH 3 on a stop, 4 and the status otherwise, and its command completes
with the boundaries and the tokens (R394). SERVICE_CTL commands that wait complete. Log entry 33. -/
def State.genEnd (s : State) (fn : Nat) (st : Status) (stop : Bool) : State :=
  match (s.fnState fn).gen with
  | none => s
  | some g =>
    let s := g.running.foldl (fun s k =>
      let r := g.slots.getD k []
      let r := gSlotWith r 3 (if stop then 3 else 4) (gSlotCount r) (statusCode st)
      (s.genWrite fn g (g.slotAddr k + 0x20) (r.drop 0x20)).genWrite fn g (g.slotAddr k) (r.take 0x20)) s
    let s := g.ctl.foldl (fun s c => s.completeCommand c.1 (ctlStatus st (stop && c.2 == 2)) 0 (leBytes 16 0)) s
    let s := s.completeCommand g.ref st (g.boundary % 2 ^ 32) (leBytes 8 g.tokens ++ leBytes 8 0)
    let s := (s.modFn fn (fun f => { f with gen := none })).setFld .SVC_GEN_STAT_LAST_STATUS fn 0 (statusCode st)
    (s.genStat fn).fnEvent fn 6 .SVC_EVT_GEN_END_EVT fn

/-- A SERVICE_CTL that waits takes effect at a token boundary (R383): stop ends the service, pause holds it. Log entry 33. -/
def State.genBoundary (s : State) (fn : Nat) : State :=
  match (s.fnState fn).gen with
  | none => s
  | some g =>
    if g.ctl.any (fun c => c.2 == 2) then s.genEnd fn .ok true
    else if g.ctl.any (fun c => c.2 == 0) then
      let s := g.ctl.foldl (fun s c => s.completeCommand c.1 .ok 0 (leBytes 16 0)) s
      (s.modGen fn (fun g => { g with ctl := [], paused := true })).genStat fn
    else s

/-- The tokens of a boundary: for each running slot the token, then its count, then its end where it has one (R392 steps 4
and 5). The first status that is not OK of a read of SAMPLE_ADDR is answered. Log entry 33. -/
def State.genTokens (s : State) (fn : Nat) (g : GenSvc) : State × Status :=
  g.running.foldl (fun (acc : State × Status) k =>
    if acc.2 ≠ .ok then acc else
    let r := g.slots.getD k []
    let (s, a) := acc.1.devRead .islet fn (bytesAt g.ops 0x28 8 + 4 * k) 4
    if a.status ≠ .ok then (s, a.status) else
    let n := gSlotCount r + 1
    let s := s.genWrite fn g (gSlotOut r + 4 * gSlotCount r) (a.data.take 4)
    let stop := leNat (a.data.take 4) == gSlotStop r && gSlotStop r != 0xFFFFFFFF
    let fin := if stop then 1 else if gSlotMaxNew r ≤ n then 2 else 0
    let r := gSlotWith r (if fin = 0 then 2 else 3) fin n 0
    let s := s.genWrite fn g (g.slotAddr k + 0x20) (r.drop 0x20)
    let s := if fin = 0 then s else s.genWrite fn g (g.slotAddr k) (r.take 0x20)
    let s := (s.modGen fn (fun g => { g with slots := g.slots.set k r, tokens := g.tokens + 1 })).addFld .SVC_GEN_TOKENS_TOKENS fn 0 1
    (s, .ok)) (s, .ok)

/-- A launch of the service: an entry of a KIND, with its token word (R393). An entry that step 1 of R73 refuses ends the
service ABORTED. -/
def State.genLaunch (s : State) (fn id kind : Nat) (fresh cont : Nat) : State :=
  match (s.fnState fn).gen with
  | none => s
  | some g =>
    match s.entryFor fn id kind with
    | none => s.modGen fn (fun g => { g with bad := some .aborted })
    | some e =>
      let word := leBytes 8 g.boundary ++ leBytes 8 fresh ++ leBytes 8 cont ++ leBytes 40 0
      let (s, lid) := s.launchTake { fn := fn, entry := e, client := .generation (kind == 4), given := word,
                                     addr := bytesAt g.ops 0x20 8 + 0x1000 * (kind - 2) }
      s.modGen fn (fun g => { g with waiting := g.waiting ++ [lid] })

/-- The service goes on once its launches have ended: the sampling launch after prefill and decode; the tokens after
sampling (R392, R394). Log entry 33. -/
def State.genAdvance (s : State) (fn : Nat) : State :=
  match (s.fnState fn).gen with
  | none => s
  | some g =>
    if g.waiting ≠ [] then s
    else match g.bad, g.point with
      | some st, _ => s.genEnd fn st false
      | none, .boundary => s
      | none, .entries =>
        let fresh := g.newSlots
        let s := (s.modGen fn (fun g => { g with point := .sampling })).genLaunch fn (bytesAt g.ops 0xE 2) 4 fresh g.contSlots
        if ((s.fnState fn).gen.map (·.bad)).join.isSome then s.genEnd fn .aborted false else s
      | none, .sampling =>
        let (s, st) := s.genTokens fn g
        if st ≠ .ok then s.genEnd fn st false else
        let s := s.modGen fn (fun g => { g with point := .boundary, boundary := g.boundary + 1 })
        let s := if g.tokenIrq then s.fnEvent fn 6 .SVC_EVT_GEN_TOKEN_EVT fn else s
        (s.genStat fn).genBoundary fn

/-! ## Launches -/

/-- Change a launch that is in progress. -/
def State.modLaunch (s : State) (lid : Nat) (g : Launch → Launch) : State :=
  { s with launches := s.launches.map (fun e => if e.1 = lid then (lid, g e.2) else e) }

/-- A launch of a number is in progress. -/
def State.launchOpen (s : State) (lid : Nat) : Bool := s.launches.any (fun e => e.1 == lid)

/-- The islets of a launch. -/
def launchIslets (l : Launch) : List Nat := isletsOf (entryAtolls l.entry)

/-- An islet still runs, or waits, for a launch. -/
def State.runsFor (s : State) (lid i : Nat) : Bool := s.isletActive i && (s.islet i).task == some (.launch lid)

/-- The launches that have ended while islets of their ATOLL_MASK run on (DONE_RULE 1), once this one ends too. -/
def State.pastWith (s : State) (lid : Nat) (l : Launch) : Store Nat :=
  let keep := s.pastLaunches.filter (fun e => (isletsOf e.2).any (s.runsFor e.1))
  if (launchIslets l).any (s.runsFor lid) then storeSet 0 keep lid (entryAtolls l.entry) else keep

/-- A launch ends with a status: its command completes with ENTRY_ID and the lead island's cycles since its start, or
the generation service takes note (R73, R74, R383, R394). A plan of it that collided makes OK into COLLISION (R93). -/
def State.launchEnd (s : State) (lid : Nat) (st : Status) : State :=
  if s.launchOpen lid = false then s else
  let l := storeGet {} s.launches lid
  let st := if st = .ok ∧ l.collided then .collision else st
  let lead := leadIsland (entryAtolls l.entry)
  let s := { s with launches := storeErase s.launches lid, pastLaunches := s.pastWith lid l }
  match l.client with
  | .command ref =>
    let cycles := if l.started then s.count lead - l.opened else 0
    s.completeCommand ref st (entryId l.entry) (leBytes 8 cycles ++ leBytes 8 0)
  | .generation _ =>
    (s.modGen l.fn (fun g =>
      { g with waiting := g.waiting.erase lid, bad := if st = .ok ∨ g.bad.isSome then g.bad else some st })).genAdvance l.fn

/-- The islets of a launch that a stop of it reaches: those of its ATOLL_MASK; of one that has completed already, those that still
run for it. -/
def State.launchMembers (s : State) (lid : Nat) : List Nat :=
  if s.launchOpen lid then launchIslets (storeGet {} s.launches lid)
  else (isletsOf (storeGet 0 s.pastLaunches lid)).filter (s.runsFor lid)

/-- A launch is stopped: every islet of its ATOLL_MASK that still runs or waits stops, and it ends with a status
(R74, R87.3). -/
def State.launchStop (s : State) (lid : Nat) (st : Status) : State := (s.stopIslets (s.launchMembers lid)).launchEnd lid st

/-- The work of an islet that has faulted or been stopped ends: the rest of its launch stops and it completes; a step's
stages stop and the step aborts; an update is interrupted (R87.3, R362, R388). -/
def State.taskEnd (s : State) (t : Option Task) (st : Status) : State :=
  match t with
  | none => s
  | some (.launch lid) => s.launchStop lid st
  | some (.phase fn _) => s.abortStep fn st true
  | some (.update fn _) => s.optStop fn st

/-- An islet faults: its sequencer and engines stop with a cause, and its work ends (R87). -/
def State.isletFaults (s : State) (i cause : Nat) (st : Status) : State :=
  let t := (s.islet i).task
  let s := s.freeUnfinished i
  let s := (s.setFld .ISL_STAT_SEQ_STATE i 0 seqFault).setFld .ISL_STAT_FAULT_CAUSE i 0 cause
  let s := s.modIslet i Islet.stopped
  let s := (((s.copyStat i 0).copyStat i 1).queueStat i).setFld .VX_STAT_BUSY i 0 0
  s.taskEnd t st

end Sys2Proof.Machine
end

