-- ==== Sys2Proof/Machine/Shoal.lean ====
section
/-! DEFINITION. Training phases and shoal windows (R193-R210, R387). -/

namespace Sys2Proof.Machine

/-- Size of a window, and of the windows of a slot (R203). -/
def windowBytes : Nat := 0x1000000000

/-- The stage slot, whether the pop window, and the offset, of an address in the windows' range. -/
def windowOf (addr : Nat) : Nat × Bool × Nat :=
  let a := addr - reservedBase
  (a / (2 * windowBytes), decide (windowBytes ≤ a % (2 * windowBytes)), a % windowBytes)

/-- An address lies in the reserved range (R231). -/
def isReserved (addr : Nat) : Bool := reservedBase ≤ addr && addr < 2 ^ 52

/-- Count a stray (R206). Log entry 19. -/
def State.stray (s : State) (fn slot : Nat) : State := s.satFld .MEM_SHOAL_USE_STRAYS fn slot 1

/-- What a window maps to in the running phase (R205): device address of its start, limit of writes, TOP, whether the
replay area; none where it is unmapped. -/
def State.windowMap (s : State) (fn slot : Nat) (pop : Bool) : Option (Nat × Nat × Nat × Bool) :=
  let g := s.stage fn slot
  let r := s.shoalRecOf fn slot
  let frame (m : Nat) : Option (Nat × Nat × Nat × Bool) :=
    (g.frames.find? (fun f => f.mb == m)).map (fun f => (shoalRingBase r + f.start, f.top, f.top, false))
  match g.running, pop with
  | some (0, _), false => some (shoalRingBase r + g.start, g.limit, g.top, false)
  | some (2, _), false => some (shoalReplayBase r, shoalReplayBytes r, g.replayTop, true)
  | some (2, m), true => frame m
  | some (1, m), true =>
    if stageRecompute (s.stageRecOf fn slot) then some (shoalReplayBase r, g.replayTop, g.replayTop, true) else frame m
  | _, _ => none

/-- A push write meets the limit: the stage is full, its islets stop, the step ends SHOAL_FULL (R207). -/
def State.shoalOverflow (s : State) (fn slot off : Nat) (replay : Bool) : State :=
  let s := (s.setFld .MEM_SHOAL_ERR_FAULT_OFFSET fn slot off).setFld .MEM_SHOAL_ERR_FULL fn slot 1
  let s := if replay then s.setFld .MEM_SHOAL_ERR_REPLAY fn slot 1 else s
  s.abortStep fn .shoalFull true

/-- A write through a window (R206, R207). -/
def State.windowWrite (s : State) (src : Source) (fn slot : Nat) (pop : Bool) (off : Nat) (bs : List Byte)
    (die : Option Nat := none) : State × Status :=
  match s.windowMap fn slot pop with
  | none => (s.stray fn slot, .ok)
  | some (base, limit, top, replay) =>
    if pop then
      if off + bs.length ≤ top then s.devWrite src fn (base + off) bs die else (s.stray fn slot, .ok)
    else if limit < off + bs.length then (s.shoalOverflow fn slot off replay, .ok)
    else
      let (s, st) := s.devWrite src fn (base + off) bs die
      let top := max top (off + bs.length)
      if replay then (s.modStage fn slot (fun g => { g with replayTop := top }), st)
      else ((s.modStage fn slot (fun g => { g with top := top })).shoalCur fn slot (s.stage fn slot).start top, st)

/-- A read through a window (R206). -/
def State.windowRead (s : State) (src : Source) (fn slot : Nat) (pop : Bool) (off len : Nat) (die : Option Nat := none) :
    State × Answer :=
  match s.windowMap fn slot pop with
  | none => (s.stray fn slot, { data := List.replicate len 0 })
  | some (base, _, top, _) =>
    let n := min len (top - off)
    if n = len then s.devRead src fn (base + off) len die
    else
      let s := s.stray fn slot
      if n = 0 then (s, { data := List.replicate len 0 })
      else
        let (s, a) := s.devRead src fn (base + off) n die
        (s, { a with data := if a.status = .ok then a.data ++ List.replicate (len - n) 0 else [] })

/-- The device range that a window access reaches, if any. -/
def State.windowRange (s : State) (fn addr : Nat) : Nat :=
  let (slot, pop, off) := windowOf addr
  match s.windowMap fn slot pop with
  | some (base, _, _, _) => base + off
  | none => addr

/-- A write to a range, through the windows where it lies in them, is one that R346, R350 or R357 forbids. Log entry 28. -/
def State.writeForbidden (s : State) (fn : Nat) (image : Bool) (addr len : Nat) : Bool :=
  s.optForbids fn image (if isReserved addr then s.windowRange fn addr else addr) len

/-- A unit of the device reads device memory at an address, through the windows where it lies in them; a read of an issue
window is unmapped (R257), any other address of the reserved range above the windows completes ABORTED. Log entry 19. -/
def State.unitRead (s : State) (src : Source) (fn addr len : Nat) (die : Option Nat := none) : State × Answer :=
  if isReserved addr then
    let (slot, pop, off) := windowOf addr
    if slot < 64 then s.windowRead src fn slot pop off len die
    else if (issueWindow addr).isSome then (s.unmapped fn addr, { status := .aborted })
    else (s, { status := .aborted })
  else s.devRead src fn addr len die

/-- A unit of the device writes device memory at an address, likewise. Log entry 19. -/
def State.unitWrite (s : State) (src : Source) (fn addr : Nat) (bs : List Byte) (die : Option Nat := none) : State × Status :=
  if isReserved addr then
    let (slot, pop, off) := windowOf addr
    if slot < 64 then s.windowWrite src fn slot pop off bs die
    else
      let (s, st) := s.issueWrite { fn := fn, src := src, die := die, addr := addr, len := bs.length, wr := some bs }
      (s, st.getD .ok)
  else s.devWrite src fn addr bs die

/-- Whether an access of a unit is served at once; a write starts the promotions it needs, and waits where a reef queue is full
(R258). Log entry 19. -/
def State.unitReady (s : State) (fn addr len : Nat) (write : Bool) : State × Bool :=
  match issueWindow addr with
  | some st => (s, !write || !s.issueOpen fn st || s.issueRoom st)
  | none =>
  let a := if isReserved addr then s.windowRange fn addr else addr
  if write then s.prepareWrite fn a len else (s, s.rangeReady fn a len)

/-- A read or write through a window of a function (R203-R207). A write that R346, R350 or R357 forbids is unpredictable within the
partition. -/
def execShoalWindowAccess (fn addr len : Nat) (wr : Option (List Byte)) (upset : Nat) (s : State) : Result :=
  if s.fnLive fn = true ∧ isReserved addr = true then
    let n := match wr with
      | some bs => bs.length
      | none => len
    if wr.isSome = true ∧ s.writeForbidden fn true addr n = true then .fault (.unpredictable fn) else
    let (s, ready) := s.unitReady fn addr n wr.isSome
    if !ready then ok s else
    let s := match s.pageAt fn (s.windowRange fn addr) with
      | some pg => s.addUpset pg.frame (frameByte pg.frame (s.windowRange fn addr % 65536)) upset
      | none => s
    match wr with
    | some bs =>
      let (s, st) := s.unitWrite .islet fn addr bs
      ok { s with served := [{ access := { fn := fn, addr := addr, len := n, wr := wr }, answer := { status := st } }] }
    | none =>
      let (s, a) := s.unitRead .islet fn addr len
      ok { s with served := [{ access := { fn := fn, addr := addr, len := n }, answer := a }] }
  else ok s

/-! ## Phases -/

/-- The phase word (R194). -/
def phaseWord (v : StepSvc) (k m : Nat) : List Byte :=
  leBytes 8 v.t ++ leBytes 4 m ++ leBytes 1 k ++ leBytes 1 (natOf (m == 0) + 2 * natOf (m + 1 == v.n)) ++ leBytes 2 0 ++
    leBytes 4 v.n ++ leBytes 12 0

/-- The forward phase of micro-batch 0 may start: every shard of the stage shows COPY_VALID and the step of OPT_STEP in
its commit word (R361). -/
def State.shardsCurrent (s : State) (fn slot : Nat) : Bool :=
  ((s.fnState fn).shardRecs.filter (fun r => shardStage r == slot)).all (fun r =>
    let w := s.peek fn (shardBase r) 32
    bit (bytesAt w 9 1) 0 && bytesAt w 0 8 == (s.reg .OPT_STEP fn).toNat)

/-- The next phase of a stage waits: an islet of it is busy, or its feed record has not come. -/
def State.phaseWaits (s : State) (fn slot k : Nat) : Bool :=
  let p := s.stageRecOf fn slot
  (stageIslets p).any (fun i => s.isletActive i || (match (s.islet i).task with | some (.update _ _) => true | _ => false)) ||
    (k == 0 && stageFeed p && !(s.stage fn slot).fed)

/-- An islet of a stage starts a phase: its phase word is there, it runs from the phase's entry-vector slot; one that an unused slot
halts at once sends its halt notice (R104, R194, R195). -/
def State.phaseIslet (s : State) (fn slot k m : Nat) (v : StepSvc) (i : Nat) : State :=
  let p := s.stageRecOf fn slot
  let s := s.spWrite i (pipePhaseOffset (s.fnState fn).pipeHeader) (phaseWord v k m)
  let (s, halted) := s.startIslet i (stageSlotOf p k) (.phase fn slot)
  if halted then s.sendPacket { src := i, dst := 384 + stageHome p, kind := .halt (.phase fn slot) } else s

/-- A start of a phase reaches an islet on another die than the home island's (R192). -/
def State.phaseArrives (s : State) (fn slot k m i : Nat) : State :=
  match (s.fnState fn).step with
  | some v => s.phaseIslet fn slot k m v i
  | none => s

/-- Phase `k` of micro-batch `m` runs: counts, phase word, pop frame, every islet of the home die at the entry-vector slot;
starts to the islets of other dies travel in TC1, the phase word with them (R192-R195; log entry 31). -/
def State.phaseBegins (s : State) (fn slot k m : Nat) (rest : List (Nat × Nat)) (v : StepSvc) : State :=
  let g := s.stage fn slot
  let p := s.stageRecOf fn slot
  let home := stageHome p
  let s := s.stageCounts fn slot
  let s := s.modStage fn slot (fun g => { g with todo := rest, running := some (k, m), heard := s.count home,
                                                 halted := [], fed := false, replayTop := if k = 2 then 0 else g.replayTop })
  let s := (s.setFld .MEM_PIPE_STAT_PHASE fn slot (k + 1)).setFld .MEM_PIPE_STAT_MICRO_BATCH fn slot m
  let s := match g.frames.find? (fun f => f.mb == m) with
    | some f => if k = 0 then s else s.shoalCur fn slot f.start f.top
    | none => s
  let s := if v.opened.isNone then s.modStep fn (fun v => { v with opened := some (s.count (s.firstHome fn)) }) else s
  (stageIslets p).foldl (fun s i =>
    if islDie i = home then s.phaseIslet fn slot k m v i
    else s.sendPacket { src := 384 + home, dst := i, kind := .phaseStart fn slot k m }) s

/-- A gang of an islet of the stage lies wholly within it (R190). -/
def State.gangsWithin (s : State) (fn slot : Nat) : Bool :=
  let is := stageIslets (s.stageRecOf fn slot)
  is.all (fun i => (s.gangIslets i).all is.contains)

/-- The pipeline of a function keeps R190, R202 and R215. Log entry 28. -/
def State.pipeSound (s : State) (fn : Nat) : Bool :=
  (s.fnState fn).pipeLegal && (s.fnState fn).stageSlots.all (s.gangsWithin fn)

/-- The home island starts the next phase of a stage (R193, R195, R361): phase word, pop frame, every islet of the stage
at the phase's entry-vector slot. Stages that overlap, a gang across two, overlapping rings and malformed PIPE or SHOAL
sections are unpredictable within the partition (R190, R202, R215). -/
def execPhaseStart (fn slot : Nat) (s : State) : Result :=
  match (s.fnState fn).step, (s.stage fn slot).todo with
  | some v, (k, m) :: rest =>
    if v.point ≠ .running ∨ (s.stage fn slot).running ≠ none ∨ s.phaseWaits fn slot k = true ∨
        (k = 0 ∧ m = 0 ∧ s.shardsCurrent fn slot = false) then ok s
    else if s.pipeSound fn = false ∨ (stageIslets (s.stageRecOf fn slot)).any (fun i => (s.islet i).malformed) = true then
      .fault (.unpredictable fn)
    else ok (s.phaseBegins fn slot k m rest v)
  | _, _ => ok s

/-- The buckets that a stage's last backward phase fills (R201, R324). -/
def State.bucketsFull (s : State) (fn slot : Nat) : State :=
  (s.jobsOf fn).foldl (fun s x => s.modJob x (fun j =>
    { j with run := (j.buckets.filter (fun e => bucketStage e.2 == slot)).foldl (fun r e =>
        storeSet {} r e.1 { storeGet {} r e.1 with full := true }) j.run })) s

/-- The close of a phase's window (R196). -/
def phaseClose (p : List Byte) (opened : Nat) : Nat := opened + 1000 * stageTimeout p

/-- A phase ends: its counts, the shoal frame closed after FORWARD or retired after BACKWARD, the buckets full after the last
BACKWARD, the next phase (R193, R195, R200). -/
def State.phaseEnds (s : State) (fn slot k m : Nat) (v : StepSvc) : State :=
  let s := (s.stageCounts fn slot).modStage fn slot (fun g => { g with running := none, halted := [] })
  let s := if k = 0 then s.shoalClose fn slot m else if k = 1 then s.shoalRetire fn slot else s
  let s := if k = 1 ∧ m + 1 = v.n then s.bucketsFull fn slot else s
  s.phaseNext fn slot

/-- The running phase of a stage is done: every islet has halted, both copy engines of each are idle, and the home island
has heard so, no report being on its way, by the close of the phase's window (R193, R196). -/
def State.phaseIsDone (s : State) (fn slot : Nat) : Bool :=
  let g := s.stage fn slot
  let p := s.stageRecOf fn slot
  (stageIslets p).all (fun i => g.halted.contains i && (s.islet i).copyIdle &&
      !s.packets.any (fun q => q.src == i && q.kind == .copyIdle fn slot)) &&
    (stageTimeout p == 0 || decide (g.heard ≤ phaseClose p g.opened))

/-- A phase is done (R193, R195, R196). -/
def execPhaseDone (fn slot : Nat) (s : State) : Result :=
  match (s.fnState fn).step, (s.stage fn slot).running with
  | some v, some (k, m) => if s.phaseIsDone fn slot = false then ok s else ok (s.phaseEnds fn slot k m v)
  | _, _ => ok s

/-- A phase's window closes before the phase is done: the stage stops and the step ends ABORTED everywhere; a phase done by
the close goes on (R196). -/
def execPhaseTimeout (fn slot : Nat) (s : State) : Result :=
  let g := s.stage fn slot
  let p := s.stageRecOf fn slot
  match g.running with
  | none => ok s
  | some _ =>
    if stageTimeout p = 0 ∨ s.phaseIsDone fn slot = true then ok s
    else ok ((s.reachCount (stageHome p) (phaseClose p g.opened)).abortStep fn .aborted true)

/-- A feed record's copy completes into the frame opened for its micro-batch, or fails and ends the service (R209, R387,
R388). A host record is the answer's data. Nothing at or beyond the frame's limit is written: a record that passes it is a
shoal overflow at the limit (R207; DESIGN CHOICE, log entry 64). -/
def execFeedCopyDone (fn slot : Nat) (ans : Answer) (s : State) : Result :=
  let g := s.stage fn slot
  let p := s.stageRecOf fn slot
  match (s.fnState fn).step, g.todo with
  | some v, (0, m) :: _ =>
    if g.feeding = false ∨ v.point ≠ .running then ok s
    else if s.pipeSound fn = false then .fault (.unpredictable fn)
    else if g.limit < stageFeedBytes p then ok (s.shoalOverflow fn slot g.limit false)
    else
    let len := stageFeedBytes p
    let dst := shoalRingBase (s.shoalRecOf fn slot) + g.start
    let (s, ready) := s.prepareWrite fn dst len
    let src := s.feedAddr fn slot m v
    let host := bit v.flags 0
    if ready = false ∨ (if host then s.hostReady fn src len ans else s.rangeReady fn src len) = false then ok s
    else if s.optForbids fn true dst len = true then .fault (.unpredictable fn)
    else
    let (s, a) : State × Answer := if host then s.hostAnswer fn src len ans else s.devRead .islet fn src len
    let (s, st) : State × Status := if a.status = .ok then s.devWrite .islet fn dst (a.data.take len) else (s, a.status)
    if st = .ok then ok (s.modStage fn slot (fun g => { g with feeding := false, fed := true }))
    else ok (((s.abortStep fn .aborted true).modStep fn (fun v => { v with point := .ending st })).stepStat fn)
  | _, _ => ok s

end Sys2Proof.Machine
end

