-- ==== Sys2Proof/Machine/Launch.lean ====
section
/-! DEFINITION. Launches, control packets, islet stops, resets and faults (R72-R74, R87, R97, R100, R448). -/

namespace Sys2Proof.Machine

/-- An islet of a launch starts; one that its unused slot halts at once sends its halt notice. -/
def State.launchIslet (s : State) (lid i : Nat) (l : Launch) : State :=
  let (s, halted) := s.startIslet i (entrySlot l.entry) (.launch lid)
  if halted then s.sendPacket { src := i, dst := 384 + leadIsland (entryAtolls l.entry), kind := .halt (.launch lid) } else s

/-- A launch of the generation service. -/
def Launch.forService (l : Launch) : Bool := match l.client with
  | .generation _ => true
  | .command _ => false

/-- The islets of a launch take its parameter block; those of the lead die start, starts to other dies travel in TC1 (R73).
Log entry 31. -/
def State.launchStarts (s : State) (lid : Nat) (l : Launch) (data : List Byte) : State :=
  let block := (l.given ++ data).take (entryParamLen l.entry)
  let is := launchIslets l
  let lead := leadIsland (entryAtolls l.entry)
  let s := s.modLaunch lid (fun l => { l with started := true, opened := s.count lead,
                                              starting := is.filter (fun i => islDie i ≠ lead) })
  let s := match l.client with
    | .command ref => s.startCommand ref
    | .generation _ => s
  is.foldl (fun s i =>
    let s := (s.spWrite i (entryParamOffset l.entry) block).straitOffer lead (islDie i) 0 (unitsOf block.length)
    if islDie i = lead then s.launchIslet lid i l else s.straitOffer lead (islDie i) 1 1) s

/-- A command's launch may start: its completion ring has room (R379). -/
def State.launchRoom (s : State) (l : Launch) : Bool := match l.client with
  | .command ref => s.ringRoom ref.fn ref.q
  | .generation _ => true

/-- The parameter block of a launch has been read: it is written to every islet of ATOLL_MASK and the islets of the lead
die start; starts to other dies travel in TC1. A read that failed ends the launch (R73). A host block is the answer's
data. While its queue's completion ring is full it does not start (R379). Log entry 31. -/
def execLaunchParamsRead (lid : Nat) (ans : Answer) (s : State) : Result :=
  let l := storeGet {} s.launches lid
  if s.launchOpen lid = false ∨ l.started ∨ s.launchRoom l = false then ok s
  else if 2 < l.source ∨ s.entryUnsafe l.fn l.entry ∨ (l.forService = true ∧ entryParamLen l.entry < 64) then .fault (.unpredictable l.fn)
  else
    let n := entryParamLen l.entry - l.given.length
    if (l.source = 0 ∧ s.rangeReady l.fn l.addr n = false) ∨ (l.source = 1 ∧ 0 < n ∧ s.hostReady l.fn l.addr n ans = false) then ok s else
    let (s, a) : State × Answer :=
      if l.source = 2 ∨ n = 0 then (s, {})
      else if l.source = 1 then s.hostAnswer l.fn l.addr n ans
      else s.unitRead .islet l.fn l.addr n
    if a.status ≠ .ok then ok (s.launchEnd lid a.status)
    else
      if (launchIslets l).any (fun i => s.isletActive i || (s.islet i).malformed) then .fault (.unpredictable l.fn) else ok (s.launchStarts lid l a.data)

/-- A start travelling in TC1 reaches an islet on another die (R73.3). -/
def execIsletStartArrive (lid islet : Nat) (s : State) : Result :=
  let l := storeGet {} s.launches lid
  if l.starting.contains islet ∧ s.wayOpen (leadIsland (entryAtolls l.entry)) (islDie islet) = true then
    ok ((s.modLaunch lid (fun l => { l with starting := l.starting.erase islet })).launchIslet lid islet l)
  else ok s

/-- The close of a launch's deadline window (R74). -/
def launchClose (l : Launch) : Nat := l.opened + 1000 * entryTimeout l.entry

/-- The deadline of a launch closes without its DONE_RULE: its islets stop and it completes ABORTED (R74). -/
def execLaunchTimeout (lid : Nat) (s : State) : Result :=
  let l := storeGet {} s.launches lid
  if s.launchOpen lid = true ∧ l.started = true ∧ entryTimeout l.entry ≠ 0 then
    ok ((s.reachCount (leadIsland (entryAtolls l.entry)) (launchClose l)).launchStop lid .aborted)
  else ok s

/-- The halts a launch needs (DONE_RULE, R72). A launch with a reserved DONE_RULE never starts: it is unpredictable (R13, R49;
`State.entryUnsafe`). Log entry 28. -/
def launchDone (l : Launch) : Bool :=
  let is := launchIslets l
  if entryDoneRule l.entry = 1 then is.head?.all l.halted.contains else is.all l.halted.contains

/-- A halt notice is accepted at the lead island of a launch: with DONE_RULE met by the close count, the launch completes
(R74). -/
def State.launchHalted (s : State) (lid i : Nat) : State :=
  if s.launchOpen lid = false then s else
  let s := s.modLaunch lid (fun l => { l with halted := l.halted ++ [i] })
  let l := storeGet {} s.launches lid
  let inTime := entryTimeout l.entry == 0 || s.inWindow (leadIsland (entryAtolls l.entry)) (launchClose l)
  if launchDone l ∧ inTime then s.launchEnd lid .ok else s

/-- The tokens that the service's sampling launch gives land where R346, R350 or R357 forbids a write. -/
def State.tokensForbidden (s : State) (fn : Nat) : Bool := (s.fnState fn).gen.any (fun g => !g.host && g.bad.isNone &&
  g.running.any (fun k => s.optForbids fn true (gSlotOut (g.slots.getD k []) + 4 * gSlotCount (g.slots.getD k [])) 4))

/-- A halt notice of a launch is accepted; where it ends a sampling launch, the tokens are written. -/
def State.launchHears (s : State) (lid i : Nat) : Result :=
  let l := storeGet {} s.launches lid
  let t := s.launchHalted lid i
  if s.launchOpen lid = true ∧ t.launchOpen lid = false ∧ l.client = .generation true ∧ s.tokensForbidden l.fn = true then
    .fault (.unpredictable l.fn)
  else ok t

/-- The first control packet from an islet to a destination arrives (R97, R100, R192, R193, R196). -/
def execControlPacketArrive (src dst : Nat) (s : State) : Result :=
  match s.packets.find? (fun p => p.src == src && p.dst == dst) with
  | none => ok s
  | some p =>
    if s.wayOpen (packetDie src) (packetDie dst) = false then ok s else
    let s := { s with packets := s.packets.erase p }
    match p.kind with
    | .flagSet f => ok (s.setFlags dst (2 ^ f))
    | .release c n => ok (s.modIslet dst (fun x => { x with creditsIn := storeSet 0 x.creditsIn c (storeGet 0 x.creditsIn c + n) }))
    | .halt (.launch lid) => s.launchHears lid src
    | .halt (.phase fn slot) => ok ((s.modStage fn slot (fun g => { g with halted := g.halted ++ [src] })).phaseHeard fn slot)
    | .halt (.update _ _) => ok s
    | .phaseStart fn slot k m => ok (s.phaseArrives fn slot k m dst)
    | .copyIdle fn slot => ok (s.phaseHeard fn slot)

/-- An islet reset (R448): stopped, queues, flags, cause and credit waits cleared, the sequencer IDLE. -/
def State.isletResets (s : State) (i : Nat) : State :=
  let t := (s.islet i).task
  let s := (s.stopIslet i causeStopped).taskEnd t .aborted
  let s := (s.setFld .ISL_STAT_SEQ_STATE i 0 seqIdle).setFld .ISL_STAT_FAULT_CAUSE i 0 0
  s.setFld .ISL_STAT_FLAGS i 0 0

/-- A write of ISL_CTL by the function that holds the islet: STOP stops the islet and its launch completes ABORTED
(R87.3); RESET resets it (R448). Log entry 17. -/
def State.writeIslCtl (s : State) (fn i : Nat) (w : Word) : State :=
  if s.fnLive fn ∧ i < 384 ∧ s.isletFn i = fn then
    let s := if bit w.toNat 0 then
        let t := (s.islet i).task
        (s.stopIslet i causeStopped).taskEnd t .aborted
      else s
    if bit w.toNat 1 then s.isletResets i else s
  else s

/-- A write of ISL_CTL.STOP (R87). -/
def execIslStop (fn islet : Nat) (w : Word) (s : State) : Result := ok (s.writeIslCtl fn islet w)

/-- A write of ISL_CTL.RESET (R448). -/
def execIsletReset (fn islet : Nat) (w : Word) (s : State) : Result := ok (s.writeIslCtl fn islet w)

/-- Where an uncorrectable read of an islet is located: bank, word and syndrome of the scratchpad, or place and index of the
matrix array or the vector unit (R87, R129, R186). Log entry 23. -/
def State.isletErr (s : State) (islet cause place index syn : Nat) : State :=
  match cause with
  | 1 => (((s.setFld .ISL_SP_ERR_BANK islet 0 place).setFld .ISL_SP_ERR_WORD islet 0 index
           ).setFld .ISL_SP_ERR_SYNDROME islet 0 syn).satFld .ISL_SP_ERR_UNCORR islet 0 1
  | 5 => ((s.setFld .MX_ERR_WHERE islet 0 place).setFld .MX_ERR_INDEX islet 0 index).satFld .MX_ERR_UNCORR islet 0 1
  | 6 => ((s.setFld .VX_ERR_WHERE islet 0 place).setFld .VX_ERR_INDEX islet 0 index).satFld .VX_ERR_UNCORR islet 0 1
  | _ => s

/-- The payload of the journal record of an islet fault: the fields of R87, in the size of R227 (log entry 23). -/
def State.isletRecord (s : State) (islet cause place index syn : Nat) : List Byte :=
  leBytes 1 0 ++ leBytes 1 0 ++ leBytes 1 (s.isletFn islet) ++ leBytes 1 0xFF ++ leBytes 2 islet ++
    leBytes 1 cause ++ leBytes 1 place ++ leBytes 4 index ++ leBytes 1 syn ++ leBytes 11 0 ++
    leBytes 6 (s.count (islDie islet)) ++ leBytes 1 (islDie islet) ++ leBytes 1 0

/-- An uncorrectable read on an islet that runs or has work: cause 1 latches bank, word and syndrome in ISL_SP_ERR, 5 and
6 locate the fault in MX_ERR and VX_ERR, 2 is a configuration fetch; the islet faults and its work ends
UNCORRECTABLE_MEM (R87, R104, R129, R186). The syndrome is a free non-zero value (R86). Log entry 23. -/
def execIsletFault (islet cause place index : Nat) (s : State) : Result :=
  if ¬ islet < 384 ∨ (s.isletActive islet = false ∧ (s.islet islet).task = none) ∨
      ¬ (cause = 1 ∨ cause = 2 ∨ cause = 5 ∨ cause = 6) then ok s
  else
    let syn := 1 + s.free % 255
    let s := s.drawn.isletErr islet cause place index syn
    let s := s.straitOffer (islDie islet) 16 3 (unitsOf 32)
    ok ((s.journal 0x50 (s.isletRecord islet cause place index syn)).isletFaults islet cause .uncorrectableMem)

end Sys2Proof.Machine
end

