-- ==== Sys2Proof/Machine/Copy.lean ====
section
/-! DEFINITION. Copy engines (R89-R94). -/

namespace Sys2Proof.Machine

/-- The plan of a plan index of an islet. -/
def State.planAt (s : State) (i n : Nat) : Option Plan :=
  match (s.islet i).plans.find? (fun e => e.1 == n) with
  | some (_, r) => some (planOf r)
  | none => none

/-- Change the run of an engine. -/
def State.modCopy (s : State) (i e : Nat) (g : CopyRun → CopyRun) : State :=
  s.modIslet i (fun x => let v := x.engine e; x.setEngine e { v with run := v.run.map g })

/-- Words a plan has out at once: up to 64 memory reads; a scratchpad move goes word by word (R90, R91). -/
def planWindow (p : Plan) : Nat := if p.kind = 0 then 64 else if p.kind = 2 then 1 else 0

/-- A plan runs on an engine with its first `k` words out. -/
def State.planRuns (s : State) (i e n flag k : Nat) : State :=
  (s.modIslet i (fun x =>
    let v := x.engine e
    x.setEngine e { v with run := some { plan := n, flag := flag, next := k, out := List.range k } })).copyStat i e

/-- A plan starts on an engine: its first words are out. Log entry 22. -/
def State.planStart (s : State) (i e n flag : Nat) : Result :=
  match s.planAt i n with
  | none => .fault (.unpredictable (s.isletFn i))
  | some p =>
    if p.legal = false then .fault (.unpredictable (s.isletFn i))
    else ok (s.planRuns i e n flag (min (planWindow p) p.words))

/-- An idle engine starts its next queued plan (R89); a plan outside the limits of R94, or one no record wrote, is
unpredictable within the partition. `corrected` scratchpad reads of it meet a single-bit error (R86). Log entry 22. -/
def execCopyPlanStart (islet eng corrected : Nat) (s : State) : Result :=
  if ¬ islet < 384 ∨ ¬ eng < 2 then ok s else
  let v := (s.islet islet).engine eng
  match v.run, v.queue with
  | none, (n, flag) :: rest =>
    let s := (s.modIslet islet (fun x => x.setEngine eng { v with queue := rest })).spCorrected islet corrected
    s.planStart islet eng n flag
  | _, _ => ok s

/-- A plan ends its islet's launch with a memory status (R93): the islet faults with cause COPY. LAST_STATUS takes the status;
DONE counts completed plans and stays, the spec not saying whether a plan so ended is one (DESIGN CHOICE, log entry 63). -/
def State.planFails (s : State) (i e : Nat) (st : Status) : State :=
  let s := s.setFld .ISL_COPY_STAT_LAST_STATUS i e (statusCode st)
  s.isletFaults i 3 st

/-- Word `k` of a plan is written to the scratchpad through port B; the next word goes out. -/
def State.planWord (s : State) (i e k : Nat) (p : Plan) (base : Nat) (data : List Byte) (losses : Nat) : State :=
  let s := s.modCopy i e (fun r =>
    let out := r.out.erase k
    if r.next < p.words then { r with out := out ++ [r.next], next := r.next + 1 } else { r with out := out })
  s.portBWrite i { off := (p.spAt base k).toNat, data := data, writer := .engine e } losses

/-- The oldest outstanding word of a plan comes back: read from device memory, or from the scratchpad for a scratchpad move, and
written to the scratchpad in the plan's loop order, behind an earlier write of the engine to that bank that waits; a bad status
ends the launch (R84, R90, R91, R93). -/
def execCopyReadReturn (islet eng k upset losses : Nat) (s : State) : Result :=
  match ((s.islet islet).engine eng).run with
  | none => ok s
  | some r =>
    match s.planAt islet r.plan with
    | none => ok s
    | some p =>
      let bank := spBank (p.spAt (if p.kind = 2 then p.spOff2 else p.spOff) k).toNat
      if r.out.head? ≠ some k ∨ (s.islet islet).portB.any (fun w => w.writer == .engine eng && spBank w.off == bank) = true then ok s
      else if p.kind = 2 then
        ok (s.planWord islet eng k p p.spOff2 (s.spRead islet (p.spAt p.spOff k).toNat 32) losses)
      else
        let fn := s.isletFn islet
        let addr := p.memAt k
        let (_, ready) := s.unitReady fn addr 32 false
        if !ready then ok s else
        let a := if isReserved addr then s.windowRange fn addr else addr
        let s := match s.pageAt fn a with
          | some pg => s.addUpset pg.frame (frameByte pg.frame (a % 65536)) upset
          | none => s
        let (s, a) := s.unitRead .islet fn addr 32 (some (islDie islet))
        if a.status = .ok then ok (s.planWord islet eng k p p.spOff a.data losses)
        else ok (s.planFails islet eng a.status)

/-- A plan's memory writes from its next word on, in plan order, until one must wait or does not answer OK (R91): the status, and
whether all have been taken. -/
def State.planWrites (s : State) (i e : Nat) (p : Plan) (next : Nat) : State × Status × Bool :=
  let fn := s.isletFn i
  ((List.range p.words).drop next).foldl (fun acc k =>
    let (s, st, going) := acc
    if st ≠ .ok ∨ going = false ∨ (s.islet i).task = none then acc
    else match s.unitReady fn (p.memAt k) 32 true with
      | (s, false) => (s, .ok, false)
      | (s, true) =>
        let (s, st) := s.unitWrite .islet fn (p.memAt k) (s.spRead i (p.spAt p.spOff k).toNat 32) (some (islDie i))
        (s.modCopy i e (fun r => { r with next := k + 1 }), st, true)) (s, .ok, true)

/-- A plan that writes memory has a word before it that R346, R350 or R357 forbids. -/
def State.planForbidden (s : State) (i : Nat) (p : Plan) (next : Nat) : Bool :=
  p.kind == 1 && ((List.range p.words).drop next).any (fun k => s.writeForbidden (s.isletFn i) true (p.memAt k) 32)

/-- What ends with a plan: DONE and LAST_STATUS, a COLLISION carried into its launch (R92, R93). -/
def State.planDone (s : State) (islet eng : Nat) (r : CopyRun) : State :=
  let s := (s.addFld .ISL_COPY_STAT_DONE islet eng 1).setFld .ISL_COPY_STAT_LAST_STATUS islet eng (statusCode r.status)
  match r.status, (s.islet islet).task with
  | .collision, some (.launch lid) => s.modLaunch lid (fun l => { l with collided := true })
  | _, _ => s

/-- A plan without a chain leaves its engine idle and sets its event flag (R92). -/
def State.planLast (s : State) (islet eng flag : Nat) : State :=
  let s := s.modIslet islet (fun x => let v := x.engine eng; x.setEngine eng { v with run := none })
  ((s.setFlags islet (2 ^ flag)).copyStat islet eng).copyIdles islet

/-- A plan whose last write has taken effect completes (R92); one that writes memory goes on from the first word that had to wait:
DONE and LAST_STATUS, then the chained plan, or the event flag of the COPY. A memory status other than OK ends the launch;
COLLISION is carried into it (R93). Scratchpad reads of the chained plan meet a single-bit error `corrected` times (R86). A write
that R346, R350 or R357 forbids is unpredictable within the partition. -/
def execCopyPlanComplete (islet : Nat) (ends : Corrected) (s : State) : Result :=
  match ends with
  | ⟨eng, corrected⟩ =>
  match ((s.islet islet).engine eng).run with
  | none => ok s
  | some r =>
    match s.planAt islet r.plan with
    | none => ok s
    | some p =>
      let busy := !r.out.isEmpty || (s.islet islet).portB.any (fun w => w.writer == .engine eng)
      if busy = true ∨ (p.kind ≠ 1 ∧ r.next < p.words) then ok s
      else if s.planForbidden islet p r.next = true then .fault (.unpredictable (s.isletFn islet))
      else
      let (s, st, all) := if p.kind = 1 then s.planWrites islet eng p r.next else (s, .ok, true)
      if ((s.islet islet).engine eng).run = none ∨ all = false then ok s
      else if st ≠ .ok then ok (s.planFails islet eng st)
      else
        let s := s.planDone islet eng r
        if p.chain then (s.spCorrected islet corrected).planStart islet eng p.next r.flag else ok (s.planLast islet eng r.flag)

end Sys2Proof.Machine
end

