-- ==== Sys2Proof/Machine/Gates.lean ====
section
/-! DEFINITION. Package-wide actions: the epoch a die holds, and how an action is issued (R437-R441). -/

namespace Sys2Proof.Machine

/-- The epoch last distributed to the controllers of a die; 0 where none is held (R440). -/
def State.heldEpoch (s : State) (die : Nat) : Nat := storeGet 0 s.lead.dieEpoch die

/-- The half of a die: west for dies 2 and 3 (R19). -/
def dieWest (die : Nat) : Bool := decide (2 ≤ die)

/-- The class in which an action travels: a step commit in TC1, the others in TC2 (R28). -/
def actionClass : ActionKind → Nat
  | .commit _ => 1
  | _ => 2

/-- An issuer sends a word of an action to the gates of some dies. Log entry 62. -/
def State.toGates (s : State) (kind : ActionKind) (src : Nat) (dies : List Nat) : State :=
  dies.foldl (fun s d => s.straitOffer src d (actionClass kind) 1) s

/-- Issue an action with an epoch: it is sent to the gate of every die it addresses (R441). -/
def State.issueAction (s : State) (kind : ActionKind) (src epoch : Nat) (dies : List Nat) : State × Nat :=
  (({ s with actions := storeSet {} s.actions s.nextAction { kind := kind, src := src, epoch := epoch, dies := dies },
             nextAction := s.nextAction + 1 } : State).toGates kind src dies, s.nextAction)

/-- An action. -/
def State.action (s : State) (a : Nat) : Option Action := (s.actions.find? (fun e => e.1 == a)).map Prod.snd

/-- Change an action. -/
def State.modAction (s : State) (a : Nat) (f : Action → Action) : State :=
  { s with actions := s.actions.map (fun e => if e.1 = a then (a, f e.2) else e) }

/-- Forget an action. -/
def State.dropAction (s : State) (a : Nat) : State := { s with actions := storeErase s.actions a }

/-- The action of a rotation ends. Log entry 47. -/
def State.rotationEnds (s : State) (f : Nat) : State :=
  let acts := (s.actions.filter (fun e => e.2.kind == .rotate f)).map Prod.fst
  acts.foldl (fun s n => s.dropAction n) { s with rotations := storeSet 0 s.rotations f 0 }

end Sys2Proof.Machine
end

