-- ==== Sys2Proof/Machine/ReefOps.lean ====
section
/-! DEFINITION. Reef commands: issue, admission, start and end of operations (R257-R273). -/

namespace Sys2Proof.Machine

/-- The completion record goes to COMPL_ADDR. -/
def State.reefStore (s : State) (fn : Nat) (r record : List Byte) : State :=
  if isReserved (reqCompl r) then (s.unitWrite .reef fn (reqCompl r) record).1
  else s.takeAccess { fn := fn, src := .reef, addr := reqCompl r, len := 32, wr := some record } 0

/-- The packet of a held record waits with it. -/
def State.notifyWithHeld (s : State) (n : Nat × Nat × Nat) : State :=
  { s with held := s.held.mapIdx (fun k a => if k + 1 = s.held.length then { a with notify := some n } else a) }

/-- A request or operation ends: its record at COMPL_ADDR where asked for and in REEF_LAST, its events, and its packet once the
record has been accepted (R262). A record that its error of R268 makes unpredictable is given as it stands. Log entry 38. -/
def State.reefEnd (s : State) (fn st : Nat) (r record : List Byte) (bad : Bool) : State :=
  let t := if bit (reqFlags r) 0 then s.reefStore fn r record else s
  let t' := t.reefReport fn st record bad
  if bit (reqFlags r) 1 = false then t'
  else if s.held.length < t.held.length then t'.notifyWithHeld (st, reqIslet r, reqFlag r)
  else t'.reefNotify fn st (reqIslet r) (reqFlag r)

/-- A request ends with nothing written: RESULT 2. -/
def State.reefRefuse (s : State) (fn st : Nat) (r : List Byte) (status : Status) : State :=
  s.reefEnd fn st r (reefRecord r status 0 2 0xFF st 0 ((s.reef st).seq + 1)) true

/-- A write to the issue windows: taken, with its status, or held at a full queue (R257, R258). -/
def execReefWindowWrite (fn addr : Nat) (data : List Byte) (s : State) : Result :=
  if (issueWindow addr).isSome = true ∧ s.fnLive fn = true ∧ data ≠ [] then
    let a : Access := { fn := fn, addr := addr, len := data.length, wr := some data }
    match s.unserved.issueWrite a with
    | (s, none) => ok s
    | (s, some st) => ok (s.accessEnds a { status := st })
  else ok s

/-- The queued requests end ABORTED; writes held at the window come in behind them (R258, R273). -/
def State.reefCancelQueue (s : State) (st : Nat) : State :=
  let gone := (s.reef st).queue
  let s := s.modReef st (fun x => { x with queue := [] })
  (gone.foldl (fun s e => s.reefRefuse e.1 st e.2 .aborted) s).retryIssues

/-- A write of REEF_ISSUE: GO queues the request of REEF_REQ0-3, or finds the queue full; CANCEL ends the queued requests. A
write with both acts on GO first (R257, R258, R273). Log entry 17. -/
def State.writeReefIssue (s : State) (fn st : Nat) (w : Word) : State :=
  if s.fnLive fn = true ∧ st < 8 ∧ bit (s.stacksOf fn) st = true ∧ partReef s.pkg.part = true then
    let s := if bit w.toNat 0 then
        if 64 ≤ (s.reef st).queue.length then s.fnEvent fn 2 .REEF_EVT_REJ_FULL st
        else s.reefPush fn st ((List.range 4).flatMap (fun j => leBytes 8 (s.reg .REEF_REQ st j).toNat))
      else s
    if bit w.toNat 1 then s.reefCancelQueue st else s
  else s

/-- A request's record lands where R346, R350 or R357 forbids a write. -/
def State.complForbidden (s : State) (fn : Nat) (r : List Byte) : Bool := bit (reqFlags r) 0 && s.writeForbidden fn true (reqCompl r) 32

/-- A write of REEF_ISSUE, or, where CANCEL ends a request whose record lands where no write may, results that are unpredictable
within the partition (R346, R350, R357). -/
def State.reefIssue (s : State) (fn st : Nat) (w : Word) : Result :=
  if s.fnLive fn = true ∧ bit w.toNat 1 = true ∧ (s.reef st).queue.any (fun e => s.complForbidden e.1 e.2) = true then .fault (.unpredictable fn)
  else ok (s.unserved.writeReefIssue fn st w)

/-- A write of REEF_ISSUE.GO (R258). -/
def execReefGo (fn stack : Nat) (w : Word) (s : State) : Result := s.reefIssue fn stack w

/-- A write of REEF_ISSUE.CANCEL (R273). -/
def execReefCancel (fn stack : Nat) (w : Word) (s : State) : Result := s.reefIssue fn stack w

/-- A reserved FLAGS bit, VECS outside 1-4, or a DESC_INDEX that names no loaded descriptor (R259). Log entry 38. -/
def State.reefRefused (s : State) (st : Nat) (r : List Byte) : Bool :=
  s.fld .REEF_STACK_STAT_LOADED st == 0 || (s.reef st).descs.all (fun e => e.1 != reqDesc r) || reqVecs r == 0 ||
  decide (4 < reqVecs r) || decide (4 ≤ reqFlags r)

/-- A request's record or results land where R346, R350 or R357 forbids a write. -/
def State.reefForbidden (s : State) (fn : Nat) (d r : List Byte) : Bool :=
  s.complForbidden fn r ||
  (reefMembers d).any (fun p => (reefSectors d r p .results).any (fun x => s.optForbids fn true (reefAddr d .results p x) 32))

/-- The request at the head of a stack's queue is admitted, or ends ABORTED or QUOTA (R259). Log entry 38. -/
def execReefAdmit (stack : Nat) (s : State) : Result :=
  let x := s.reef stack
  match x.queue with
  | [] => ok s
  | (fn, r) :: rest =>
    let s := s.unserved
    let pop := s.modReef stack (fun x => { x with queue := rest })
    if s.complForbidden fn r = true then .fault (.unpredictable fn)
    else if s.reefRefused stack r then ok (pop.reefRefuse fn stack r .aborted).retryIssues
    else
      let d := storeGet [] x.descs (reqDesc r)
      if reefLegal d r = false ∨ s.reefForbidden fn d r = true then .fault (.unpredictable fn)
      else
        let g := reefMembers d
        let limit := s.fld .REEF_STACK_STAT_LIMIT stack
        let taken := x.ops.flatMap (fun o => reefMembers o.desc)
        if limit < g.length ∨ 18000 < reefAdmissible (s.fld .REEF_CAUSE_FUSED stack) d r then
          ok ((pop.satFld .REEF_OPS_QUOTA_REFUSED stack 0 1).reefRefuse fn stack r .quota).retryIssues
        else if g.any taken.contains ∨ limit < taken.length + g.length then ok s
        else ok (pop.modReef stack (fun x => { x with
          ops := x.ops ++ [{ id := x.nextOp, fn := fn, req := r, desc := d }], nextOp := x.nextOp + 1 })).retryIssues

/-- The touched pages of an operation: member, region, local page offset. -/
def reefTouched (o : ReefOp) : List (Nat × ReefRegion × Nat) :=
  (reefMembers o.desc).flatMap (fun p => [ReefRegion.weights, .inputs, .results].flatMap (fun g =>
    (reefPages o.desc o.req p g).map (fun x => (p, g, x))))

/-- A touched page keeps its operation from starting (R261). -/
def State.reefBadPage (s : State) (st : Nat) (o : ReefOp) (t : Nat × ReefRegion × Nat) : Bool :=
  let (p, g, x) := t
  match s.reefPage o g p x with
  | none => true
  | some pg =>
    (match pg.frame with
     | .channel st' pc _ => st' != st || pc != p
     | _ => true) ||
    (g == .results && ((s.segmentAt o.fn (reefAddr o.desc g p x)).map Segment.frozen).getD true)

/-- The rows that hold the touched bytes of the operation in some regions. -/
def State.reefRows (s : State) (o : ReefOp) (gs : List ReefRegion) : List Nat :=
  ((reefMembers o.desc).flatMap (fun p => gs.flatMap (fun g =>
    (reefSectors o.desc o.req p g).map (fun x => s.reefPhys o g p x / 1024)))).eraseDups

/-- An operation starts: its leases, its count, its members' LEASED bits (R261, R265). -/
def State.reefStarts (s : State) (stack k : Nat) (o : ReefOp) : State :=
  let lease : Lease := { op := k, readRows := s.reefRows o [.weights, .inputs], resultRows := s.reefRows o [.results] }
  let s := { s with leases := storeSet [] s.leases stack (s.leasesOf stack ++ [lease]) }
  let now := s.count (4 + stack)
  let s := s.modReef stack (fun x => { x with
    ops := x.ops.map (fun y => if y.id = k then { y with started := true, opened := now } else y) })
  (reefMembers o.desc).foldl (fun s p =>
    (s.setFld .REEF_UNIT_STAT_LEASED stack p 1).addFld .REEF_UNIT_STAT_OPS stack p 1) s

/-- Every page of an admitted operation is resolved: it starts with its leases once the units computing leave it room under the
limit of that moment, or ends ABORTED (R261, R263, R265). Log entry 38. -/
def execReefOpStart (stack k : Nat) (s : State) : Result :=
  match (s.reef stack).ops.find? (fun o => o.id == k && !o.started) with
  | none => ok s
  | some o =>
    let touched := reefTouched o
    if touched.any (fun t => (s.reefPage o t.2.1 t.1 t.2.2).any (·.moving)) then ok s else
    let s := s.unserved
    if touched.any (s.reefBadPage stack o) then ok ((s.reefRelease stack o).reefRefuse o.fn stack o.req .aborted)
    else if s.fld .REEF_STACK_STAT_LIMIT stack < s.fld .REEF_STACK_STAT_COMPUTING stack + (reefMembers o.desc).length then ok s
    else ok (s.reefStarts stack k o)

/-- A unit decodes the weight and input sectors it reads: corrections counted and recorded, a miscorrection not, and the
pseudo-channel of the first uncorrectable one, by rank (R221, R271, R272). Log entry 38. -/
def State.reefDecode (s : State) (st : Nat) (o : ReefOp) : State × Option Nat :=
  (reefMembers o.desc).foldl (fun acc p => [ReefRegion.weights, .inputs].foldl (fun acc g =>
    (reefSectors o.desc o.req p g).foldl (fun (acc : State × Option Nat) x =>
      let (s, bad) := acc
      let phys := s.reefPhys o g p x
      let e := (s.unitErrors phys).length
      if e = 0 ∨ bad.isSome then acc else
      match s.reefPage o g p x with
      | none => acc
      | some pg =>
        let (s, good) := s.decodeUnit .reef o.fn pg.frame phys (some (reefAddr o.desc g p x))
        if good then (if e ≤ 2 then s.satFld .REEF_ECC_CORRECTED st 0 1 else s, none) else (s.satFld .REEF_ECC_UNCORR st 0 1, some p)) acc) acc) (s, none)

/-- The cycles an operation reports and its stack's count: at least T_nom, at most 20 µs (R260; log entry 3). -/
def State.reefCycles (s : State) (st : Nat) (o : ReefOp) (cycles : Nat) : State × Nat :=
  let n := min 20000 (max (reefNominal (s.fld .REEF_CAUSE_FUSED st) o.desc o.req) cycles)
  let n := max n (min 20000 (s.count (4 + st) - o.opened))
  (s.setCount (4 + st) (max (s.count (4 + st)) (o.opened + n)), n)

/-- A running operation stops on an uncorrectable sector of a member; the flags met until then are unspecified (R272; log
entry 8). -/
def State.reefFail (s : State) (st : Nat) (o : ReefOp) (pc : Nat) : State :=
  let n := s.count (4 + st) - o.opened
  let flags := s.free % 256
  ((s.drawn.reefFreeResults o).reefRelease st o).reefEnd o.fn st o.req
    (reefRecord o.req .uncorrectableMem flags 1 pc st n ((s.reef st).seq + 1)) true

/-- Write a chain's output vectors, zero beyond the values, in whole sectors with fresh codewords (R252, R270). -/
def State.reefWrite (s : State) (o : ReefOp) (p : Nat) (vecs : List (List Byte)) : State :=
  vecs.zipIdx.foldl (fun s e =>
    let base := reefOut o.desc o.req + e.2 * reefOutStride o.desc
    (List.range (sectorUp e.1.length / 32)).foldl (fun s k =>
      let bs := (e.1.drop (32 * k)).take 32
      let x := base + 32 * k
      match s.reefPage o .results p x with
      | none => s
      | some pg =>
        let s := s.trackWrite o.fn (reefAddr o.desc .results p x)
        (s.setErrors (frameByte pg.frame (x % 65536)) []).putFrame pg.frame (x % 65536)
          (bs ++ List.replicate (32 - bs.length) 0)) s) s

/-- What an operation writes: the last member of each chain, its output vectors, and the flags of all (R253, R255). Weights
of an MX format under orientation 1 give unspecified results and flags (R252; log entry 8). -/
def State.reefResults (s : State) (o : ReefOp) : State × Nat :=
  if reefOrient o.desc = 1 ∧ fmtIsMx (reefFmt o.desc) then
    let s := s.reefFreeResults o
    (s.drawn, s.free % 256)
  else
    (reefChains o.desc).foldl (fun acc c =>
      let slices := c.map (s.reefSlice o)
      let vecs := (List.range (reqVecs o.req)).map (reefVector o.desc o.req slices)
      (acc.1.reefWrite o (c.getLast?.getD 0) (vecs.map Prod.fst), acc.2 ||| orFlags vecs)) (s, 0)

/-- What an operation leaves at its end: its results, flags and record, or free ones where a write has spoiled its lease; a member's
uncorrectable sector fails it (R253, R262, R268, R272). -/
def State.reefFinish (s : State) (stack k cycles : Nat) (o : ReefOp) : State :=
  let spoiled := (s.leasesOf stack).any (fun l => l.op == k && l.spoiled)
  let (s, bad) := s.reefDecode stack o
  match bad with
  | some pc => (s.reefFail stack o pc).retryHeld
  | none =>
    let (s, n) := s.reefCycles stack o cycles
    if spoiled then
      let s := (s.reefFreeResults o).reefRelease stack o
      let record := (List.range 32).map (fun i => BitVec.ofNat 8 (Config.freeNat (s.freeCtr + i)))
      let s := { s with freeCtr := s.freeCtr + 32 }
      (s.reefEnd o.fn stack o.req record (bytesAt record 0 1 != 0)).retryHeld
    else
      let (s, flags) := s.reefResults o
      let s := s.reefRelease stack o
      (s.reefEnd o.fn stack o.req (reefRecord o.req .ok flags 0 0xFF stack n ((s.reef stack).seq + 1)) false).retryHeld

/-- A running operation ends: results, record, packet, held accesses (R253, R262, R267). A write into its leased rows has
made results, flags and record unspecified (R268; log entry 8). -/
def execReefOpEnd (stack k cycles : Nat) (s : State) : Result :=
  match (s.reef stack).ops.find? (fun o => o.id == k && o.started) with
  | none => ok s
  | some o =>
    if s.reefForbidden o.fn o.desc o.req = true then .fault (.unpredictable o.fn)
    else ok (s.unserved.reefFinish stack k cycles o)

/-- The sector of a member that is uncorrectable: the first beyond the code, or its first weight sector, which has gone bad; the
operation fails (R272). -/
def State.reefBadSector (s : State) (stack pc : Nat) (o : ReefOp) : State :=
  let secs := [ReefRegion.weights, .inputs].flatMap (fun g => (reefSectors o.desc o.req pc g).map (fun x => (g, x)))
  let isBad (t : ReefRegion × Nat) : Bool := 2 < (s.unitErrors (s.reefPhys o t.1 pc t.2)).length
  let t := ((secs.find? isBad).orElse (fun _ => secs.head?)).getD (.weights, 0)
  match s.reefPage o t.1 pc t.2 with
  | none => s
  | some pg =>
    let phys := frameByte pg.frame (t.2 % 65536)
    let s := if isBad t then s else s.addUpset pg.frame phys 3
    let s := s.uncorrectableRead .reef o.fn phys (some (reefAddr o.desc t.1 pc t.2))
    ((s.satFld .REEF_ECC_UNCORR stack 0 1).reefFail stack o pc).retryHeld

/-- A member reads an uncorrectable sector: the first of its sectors beyond the code, or, where none is known to be, its
first weight sector, which has gone bad (R272). -/
def execReefUncorrectable (stack k pc : Nat) (s : State) : Result :=
  match (s.reef stack).ops.find? (fun o => o.id == k && o.started) with
  | none => ok s
  | some o =>
    if (reefMembers o.desc).contains pc = false then ok s
    else if s.complForbidden o.fn o.req = true then .fault (.unpredictable o.fn) else
    ok (s.unserved.reefBadSector stack pc o)

end Sys2Proof.Machine
end

