-- ==== Sys2Proof/Machine/Image.lean ====
section
/-! DEFINITION. The fabric image: its header and section table, the load checks, and what WRITE installs from each
section (R41-R50, R58, R94, R99, R104, R146, R188, R213, R274, R344, R370). -/

namespace Sys2Proof.Machine

/-! ## Header and section table (R42-R46) -/

def imgLength (h : List Byte) : Nat := bytesAt h 8 8
def imgReqCap (h : List Byte) : Nat := bytesAt h 0x10 8
def imgParts (h : List Byte) : Nat := bytesAt h 0x18 2
def imgSections (h : List Byte) : Nat := bytesAt h 0x1C 2
def imgAtolls (h : List Byte) : Nat := bytesAt h 0x20 8
def imgJl (h : List Byte) : Nat := bytesAt h 0x28 8
def imgStacks (h : List Byte) : Nat := bytesAt h 0x30 1
def imgJobCtx (h : List Byte) : Nat := bytesAt h 0x31 1
def imgId (h : List Byte) : Nat := bytesAt h 0x38 8

/-- A section table entry (R44). -/
structure Section where
  type : Nat
  target : Nat
  count : Nat
  offset : Nat
  length : Nat
  deriving DecidableEq, Repr

/-- The section table. -/
def imgTable (h : List Byte) : List Section :=
  (List.range (imgSections h)).map (fun i =>
    let e := h.drop (0x80 + 24 * i)
    { type := bytesAt e 0 1, target := bytesAt e 1 1, count := bytesAt e 4 4, offset := bytesAt e 8 8, length := bytesAt e 0x10 8 })

/-- A target is an atoll, a stack, or the partition. -/
def Section.atoll (e : Section) : Bool := decide (e.target < 24)
def Section.stack (e : Section) : Bool := decide (0x20 ≤ e.target) && decide (e.target < 0x28)
def Section.wide (e : Section) : Bool := e.target == 0xFF

/-- The type is one of R45. -/
def Section.known (e : Section) : Bool := decide (1 ≤ e.type) && decide (e.type ≤ 0xB)

/-- The types that target atolls. -/
def Section.atollType (e : Section) : Bool := decide (1 ≤ e.type) && decide (e.type ≤ 5)

/-- A known type has a target of its kind (R45). -/
def Section.kindOk (e : Section) : Bool :=
  if e.atollType then e.atoll else if e.type = 8 then e.stack else if e.known then e.wide else true

/-- Check 4 of R47 holds. -/
def tableOk (h : List Byte) (atollLoad : Bool) : Bool :=
  let n := imgSections h
  let es := imgTable h
  let mapped (e : Section) : Bool :=
    if e.atoll then bit (imgAtolls h) e.target else if e.stack then bit (imgStacks h) (e.target - 0x20) else true
  if n = 0 ∨ 160 < n then false else
  es.all (fun e => (e.atoll || e.stack || e.wide) && decide (4096 ≤ e.offset) && e.offset % 4096 == 0 && decide (0 < e.length) &&
    decide (e.offset + e.length ≤ imgLength h) && e.kindOk && mapped e) &&
  allPairs (fun a b => (decide (a.offset + a.length ≤ b.offset) || decide (b.offset + b.length ≤ a.offset)) &&
    !(a.known && a.type == b.type && a.target == b.target)) es &&
  decide (imgAtolls h < 2 ^ 24) && decide (imgJl h < 2 ^ 24) &&
  (atollLoad || (imgAtolls h != 0 && es.any (fun e => e.type == 0xB)))

/-- The lengths of the sections that pass a test. -/
def sectionBytes (h : List Byte) (p : Section → Bool) : Nat := (((imgTable h).filter p).map Section.length).sum

/-- Every limit of R46 is met. -/
def limitsOk (h : List Byte) : Bool :=
  (List.range 24).all (fun a => decide (sectionBytes h (fun e => e.atollType && e.target == a) ≤ 0xA00000)) &&
  (List.range 8).all (fun k => decide (sectionBytes h (fun e => e.type == 8 && e.target == 0x20 + k) ≤ 0x400000)) &&
  decide (sectionBytes h Section.wide ≤ 0x1000000)

/-- A source range lies in the device address range of a function, or in its host window (R47, R231). -/
def sourceOk (host : Bool) (addr len : Nat) : Bool := decide (addr + len ≤ (if host then 2 ^ 64 else 2 ^ 52))

/-- A bit set in the first mask is set in the second. -/
def maskWithin (a b : Nat) : Bool := a &&& b == a

/-- The checks of R47 on a fetched header, in order: the first that fails gives CAUSE and status. -/
def State.loadCheck (s : State) (fn : Nat) (h : List Byte) : Option (Nat × Status) :=
  let l := (s.fnState fn).load
  let busy := s.launches.any (fun e => e.2.fn == fn) || (s.fnState fn).step.isSome || (s.fnState fn).gen.isSome
  let len := imgLength h
  let granted := maskWithin (imgAtolls h) (s.atollsOf fn) && maskWithin (imgStacks h) (s.stacksOf fn) &&
    maskWithin (imgJl h) (s.portsOf fn) && decide (imgJobCtx h ≤ popCount (s.fld .SEC_GRANT_RES_JOB_CTX fn) 32)
  if bytesAt h 0 4 ≠ 0x49465654 then some (1, .aborted)
  else if bytesAt h 4 2 ≠ 1 ∨ bytesAt h 0x1A 2 ≠ 0 then some (2, .aborted)
  else if len = 0 ∨ len % 4096 ≠ 0 ∨ 0x10000000 < len ∨ sourceOk l.host l.src len = false then some (3, .aborted)
  else if tableOk h l.atoll = false then some (4, .aborted)
  else if maskWithin (imgReqCap h) (partCapMask s.pkg.part) = false ∨
      (partReef s.pkg.part = false ∧ (imgTable h).any Section.stack = true) ∨ maskWithin (imgJl h) (partJl s.pkg.part) = false then
    some (5, .missingUnit)
  else if bit (imgParts h) (partCode s.pkg.part - 1) = false then some (6, .aborted)
  else if granted = false then some (7, .aborted)
  else if limitsOk h = false then some (8, .aborted)
  else if l.atoll ∧ (l.sel = 0 ∨ maskWithin l.sel (imgAtolls h) = false) then some (9, .aborted)
  else if l.atoll ∧ s.fld .IMG_CFG_STATE_BASE fn = 0 then some (0xA, .aborted)
  else if l.atoll = false ∧ l.force = false ∧ busy = true then some (0xB, .aborted)
  else none

/-! ## What WRITE installs -/

/-- The bytes of a section. -/
def Section.bytes (e : Section) (img : List Byte) : List Byte := (img.drop e.offset).take e.length

/-- The records of a section of fixed-size records: no more than RECORD_COUNT, no more than it holds. -/
def fixedRecords (size : Nat) (e : Section) (img : List Byte) : List (List Byte) :=
  let b := e.bytes img
  (List.range (min e.count (e.length / size))).map (fun i => (b.drop (size * i)).take size)

/-- The records of a section whose records each say their size. -/
def sizedRecords (size : List Byte → Nat) : Nat → List Byte → List (List Byte)
  | 0, _ => []
  | fuel + 1, bs =>
    if bs = [] ∨ size bs = 0 then [] else bs.take (size bs) :: sizedRecords size fuel (bs.drop (size bs))

/-- The bytes an ISLET record takes, to its 256-byte boundary (R104). -/
def isletRecSize (r : List Byte) : Nat := (0x100 + 8 * bytesAt r 4 4 + bytesAt r 0x90 4 + 255) / 256 * 256

/-- The bytes a RED record takes (R344), and an OPT record (R370). -/
def redRecSize (r : List Byte) : Nat := match bytesAt r 0 1 with
  | 0 => 64
  | 3 => 32
  | _ => 512
def optRecSize (r : List Byte) : Nat := if bytesAt r 0 1 = 2 then (8 + 4 * bytesAt r 2 2 + 31) / 32 * 32 else 128

/-- A record of an atoll's section is malformed: what its islets run is unpredictable (R49). Log entry 28. -/
def State.recordBad (s : State) (atoll : Nat) : State :=
  (List.range 16).foldl (fun s p => s.modIslet (16 * atoll + p) (fun x => { x with malformed := true })) s

/-- A record of an islet of an atoll by its position; a position above 15 names none (R49). -/
def State.installAt (s : State) (atoll pos : Nat) (f : Islet → Islet) : State :=
  if pos < 16 then s.modIslet (16 * atoll + pos) f else s.recordBad atoll

/-- Install an ISLET record: program, entry vector, initial flags, initial data (R104). -/
def State.installIslet (s : State) (atoll : Nat) (r : List Byte) : State :=
  let words := bytesAt r 4 4
  let prog : Store Word := (List.range (min words 8192)).foldl (fun p i => storeSet 0 p i (BitVec.ofNat 64 (bytesAt r (0x100 + 8 * i) 8))) []
  let vec : Store Nat := (List.range 64).foldl (fun p i => storeSet 0xFFFF p i (bytesAt r (8 + 2 * i) 2)) []
  let data := (r.drop (0x100 + 8 * words)).take (bytesAt r 0x90 4)
  s.installAt atoll (bytesAt r 0 1) (fun x =>
    { x with prog := prog, entryVec := vec, initFlags := bytesAt r 0x88 4, sp := memWrite x.sp (bytesAt r 0x8C 4) data })

/-- Install a CHAN record: a segment, a send end or a receive end (R99). -/
def State.installChan (s : State) (atoll : Nat) (r : List Byte) : State :=
  let f (off : Nat) : Nat := bytesAt r off 1
  if 2 < f 1 then s.recordBad atoll else
  s.installAt atoll (f 0) (fun x => match f 1 with
    | 0 => { x with segs := x.segs ++ [{ peer := bytesAt r 0x10 2, inPort := f 2, inId := f 3, outPort := f 4, outId := f 5 }] }
    | 1 => { x with sends := storeSet {} x.sends (f 5) { port := f 4, peer := bytesAt r 0x10 2, credits := bytesAt r 0xC 4 / 32 } }
    | 2 => { x with recvs := storeSet {} x.recvs (f 3)
                              { port := f 2, peer := bytesAt r 0x10 2, ringOff := bytesAt r 8 4, ringBytes := bytesAt r 0xC 4 } }
    | _ => x)

/-- Install a COPY record in the plan table, and count it (R94). -/
def State.installPlan (s : State) (atoll : Nat) (r : List Byte) : State :=
  let t := s.installAt atoll (bytesAt r 0 1) (fun x => { x with plans := storeSet [] x.plans (bytesAt r 2 2) r })
  if bytesAt r 0 1 < 16 then t.addFld .ISL_PLAN_FREE_LOADED (16 * atoll + bytesAt r 0 1) 0 1 else t

/-- MX_CFG shows an islet's gang. -/
def State.gangStat (s : State) (i : Nat) : State :=
  let g := s.gangOf i
  let s := (s.setFld .MX_CFG_LEAD_POS i 0 (4 * gangRow0 g + gangCol0 g)).setFld .MX_CFG_GANG_ROW i 0 (s.gangRow i)
  let s := ((s.setFld .MX_CFG_GANG_COL i 0 (s.gangCol i)).setFld .MX_CFG_GR_M1 i 0 (gangRows g - 1)).setFld .MX_CFG_GC_M1 i 0 (gangCols g - 1)
  ((s.setFld .MX_CFG_GANG_ID i 0 (gangId g)).setFld .MX_CFG_SHAPE i 0 (gangShape g)).setFld .MX_CFG_ORG i 0 (gangOrg g)

/-- The gangs of an atoll's islets break R146: operations of these islets are unpredictable. -/
def State.gangsBad (s : State) (is : List Nat) : State :=
  is.foldl (fun s i => s.modIslet i (fun x => { x with mx := { x.mx with gangBad := true } })) s

/-- Install a gang record at every member. A record outside R146's limits, reserved bytes included, makes every gang of its atoll
unpredictable; one that shares an islet with an earlier gang makes both so. Log entry 28. -/
def State.installGang (s : State) (atoll : Nat) (r : List Byte) : State :=
  let g := r.take 8
  if gangLegal g ∧ (r.drop 8).all (· == 0) = true then
    let is := (gangPositions g).map (· + 16 * atoll)
    let bad := ((is.filter (fun i => !(s.islet i).mx.gang.isEmpty)).flatMap s.gangIslets).eraseDups
    let s := if bad.isEmpty then s else s.gangsBad (bad ++ is)
    is.foldl (fun s i => s.modIslet i (fun x => { x with mx := { x.mx with gang := g } })) s
  else s.gangsBad ((List.range 16).map (· + 16 * atoll))

/-- Install an MXCFG record: a gang's, or a descriptor (R146, R147). -/
def State.installMx (s : State) (atoll : Nat) (r : List Byte) : State :=
  match bytesAt r 0 1 with
  | 0 => s.installGang atoll r
  | 1 => s.installAt atoll (bytesAt r 1 1) (fun x =>
      { x with mx := { x.mx with descs := storeSet [] x.mx.descs (bytesAt r 2 2) r } })
  | _ => s.recordBad atoll

/-- Install a VXPROG record, and count it (R188). -/
def State.installVx (s : State) (atoll : Nat) (r : List Byte) : State :=
  let t := s.installAt atoll (bytesAt r 0 1) (fun x => { x with vx := { x.vx with progs := storeSet [] x.vx.progs (bytesAt r 2 2) r } })
  if bytesAt r 0 1 < 16 then t.addFld .VX_LOADED_PROGS (16 * atoll + bytesAt r 0 1) 0 1 else t

/-- Write the atoll sections of an atoll: its islets lose what they held and take what the image gives them (R58). -/
def State.installAtoll (s : State) (h img : List Byte) (atoll : Nat) (holds : Bool) : State :=
  let is := (List.range 16).map (fun p => 16 * atoll + p)
  let s := is.foldl (fun s i => s.unconfigureIslet i) s
  if holds then
    let s := ((imgTable h).filter (fun e => e.atollType && e.target == atoll)).foldl (fun s e => match e.type with
      | 1 => (sizedRecords isletRecSize (min e.count 16) (e.bytes img)).foldl (fun s r => s.installIslet atoll r) s
      | 2 => (fixedRecords 32 e img).foldl (fun s r => s.installChan atoll r) s
      | 3 => (fixedRecords 64 e img).foldl (fun s r => s.installPlan atoll r) s
      | 4 => (fixedRecords 64 e img).foldl (fun s r => s.installMx atoll r) s
      | _ => (fixedRecords 256 e img).foldl (fun s r => s.installVx atoll r) s) s
    is.foldl (fun s i => s.gangStat i) s
  else s

/-- A stack's reef descriptor table after a whole-image load: the image's, or none (R58, R274). -/
def State.installStack (s : State) (h img : List Byte) (st : Nat) (holds : Bool) : State :=
  let recs := match (imgTable h).find? (fun e => e.type == 8 && e.target == 0x20 + st) with
    | some e => if holds then (fixedRecords 64 e img).take 4096 else []
    | none => []
  let table : Store (List Byte) := recs.foldl (fun t r => storeSet [] t (bytesAt r 0 2) r) []
  let s := s.modReef st (fun x => { x with descs := table })
  if partReef s.pkg.part then
    (s.setFld .REEF_LOADED_DESCS st 0 recs.length).setFld .REEF_STACK_STAT_LOADED st 0 (natOf holds)
  else s

/-- The records of a partition-wide section. -/
def wideRecords (h img : List Byte) (type : Nat) : List (List Byte) :=
  match (imgTable h).find? (fun e => e.type == type) with
  | none => []
  | some e => match type with
    | 9 => sizedRecords redRecSize e.count (e.bytes img)
    | 0xA => sizedRecords optRecSize e.count (e.bytes img)
    | _ => fixedRecords 64 e img

/-- The physical job contexts of a function, in order (R322). -/
def State.ctxsOf (s : State) (fn : Nat) : List Nat := setBits (s.fld .SEC_GRANT_RES_JOB_CTX fn) 32

/-- Chain address and function pairs of a rank table or step group. -/
def memberList (r : List Byte) (n : Nat) : List (Nat × Nat) := (List.range n).map (fun i => (bytesAt r (8 + 2 * i) 1, bytesAt r (9 + 2 * i) 1))

/-- Clear a job context: no job, UNLOADED (R58). -/
def State.clearCtx (s : State) (x : Nat) : State :=
  (({ s with jobs := storeErase s.jobs x }.setReg .RED_JOB_STAT x 0 0).setReg .RED_JOB_STEP x 0 0).setReg .RED_JOB_SCALE x 0 0

/-- Install the jobs of a RED section: each in its context, IDLE, at its initial loss scale (R340, R344). -/
def State.installRed (s : State) (fn : Nat) (recs : List (List Byte)) : State :=
  let ctxs := s.ctxsOf fn
  let s := ctxs.foldl (fun s x => s.clearCtx x) s
  (recs.filter (fun r => bytesAt r 0 1 == 0)).foldl (fun s r =>
    match ctxs[jobCtx r]? with
    | none => s
    | some x =>
      let ranks := match recs.find? (fun t => bytesAt t 0 1 == 1 && bytesAt t 1 1 == jobId r) with
        | some t => memberList t (jobGroup r)
        | none => []
      let peers := match recs.find? (fun t => bytesAt t 0 1 == 2 && bytesAt t 1 1 == jobStepGroup r) with
        | some t => memberList t (bytesAt t 2 2)
        | none => []
      let buckets : Store (List Byte) :=
        (recs.filter (fun t => bytesAt t 0 1 == 3 && bytesAt t 1 1 == jobId r)).foldl (fun b t => storeSet [] b (bytesAt t 2 2) t) []
      let s := { s with jobs := storeSet {} s.jobs x { fn := fn, recd := r, ranks := ranks, peers := peers, buckets := buckets } }
      let s := ((s.setFld .RED_JOB_STAT_JOB_ID x 0 (jobId r)).setFld .RED_JOB_STAT_RANK x 0 (jobRank r)).setFld .RED_JOB_STAT_GROUP x 0 (jobGroup r)
      let s := (s.setFld .RED_JOB_STAT_TOPO x 0 (natOf (jobTree r))).setFld .RED_JOB_STAT_STATE x 0 jobIdle
      s.setFld .RED_JOB_SCALE_LOSS_SCALE x 0 (jobLossInit r)) s

/-- Install the partition-wide tables of a whole image (R58, R59, R72, R213, R214, R344, R369, R370). -/
def State.installWide (s : State) (fn : Nat) (h img : List Byte) : State :=
  let opt := wideRecords h img 0xA
  let s := s.modFn fn (fun f => { f with
    entries := (wideRecords h img 0xB).take 4096, pipe := wideRecords h img 6, shoal := wideRecords h img 7,
    red := wideRecords h img 9, opt := opt, stages := [], optim := {} })
  let s := (List.range 64).foldl (fun s k =>
    ((s.setReg .MEM_PIPE_STAT fn k 0).setReg .MEM_SHOAL_PTR fn k 0).setReg .MEM_SHOAL_CUR fn k 0) s
  let s := ((s.setFld .OPT_STAT_STATE fn 0 optUnloaded).setFld .OPT_STAT_PENDING fn 0 0).setFld .OPT_STAT_TORN fn 0 0
  let s := s.setFld .OPT_STAT_SHARDS fn 0 (opt.filter (fun r => bytesAt r 0 1 == 1)).length
  s.installRed fn (s.fnState fn).red

end Sys2Proof.Machine
end

