-- ==== Sys2Proof/Machine/Migration.lean ====
section
/-! DEFINITION. Memory commands: accesses, refresh, scrub, repair, mainland ports, the migration engine, page lookups
(R219-R246). -/

namespace Sys2Proof.Machine

/-! ## Accesses, refresh, scrub, repair -/

/-- A frame's stack is in a stack reset (R449). -/
def State.frameResetting (s : State) (f : Frame) : Bool := !f.isBoard && s.fld .MEM_STACK_STAT_STATE f.stack == 2

/-- The migration engine cannot reach a frame: a strait on the way has FAILED, or its stack is in reset (R36, R449). -/
def State.frameCut (s : State) (f : Frame) : Bool := s.routeFailed 17 (frameIsland f) || s.frameResetting f

/-- An access within one page below the reserved range reaches translation and its controller (R219, R221, R222, R232, R233); one
of an islet comes from isle die `die`. A write that R346, R350 or R357 forbids is unpredictable within the partition. -/
def execMemoryAccess (fn : Nat) (req : Requester) (addr len : Nat) (wr : Option (List Byte)) (upset : Nat) (s : State) : Result :=
  match req with
  | ⟨src, die⟩ =>
  let n := match wr with
    | some bs => bs.length
    | none => len
  if s.fnLive fn = true ∧ 0 < n ∧ addr % 65536 + n ≤ 65536 ∧ (addr < reservedBase ∨ 2 ^ 52 ≤ addr) then
    if wr.isSome = true ∧ s.optForbids fn (src != .host) addr n = true then .fault (.unpredictable fn)
    else ok (s.unserved.takeAccess { fn := fn, src := src, die := some die, addr := addr, len := n, wr := wr } upset)
  else ok s

/-- A bank of a pseudo-channel is refreshed ahead of other accesses: time only (R223, R269). -/
def execHbmRefresh (_stack _pc _bank : Nat) (s : State) : Result := ok s

/-- The mainland controller refreshes, or issues a refresh management command: time only (R228). -/
def execMainlandRefresh (_port : Nat) (_rfm : Bool) (s : State) : Result := ok s

/-- The offset of a physical key in a frame. -/
def frameOffset (f : Frame) (phys : Nat) : Option Nat :=
  let col := phys % 1024
  let pc := phys / 1024 / 2 ^ 21 % 64
  match f with
  | .spread st row => if phys / 1024 = rowKey st pc row then some ((col / 32 * 64 + pc) * 32 + phys % 32) else none
  | .channel st p rows =>
    match rows.findIdx? (fun r => rowKey st p r == phys / 1024) with
    | some k => some (k * 1024 + col)
    | none => none
  | .board p fr =>
    let lo := boardBase + p * 2 ^ 37 + fr * 65536
    if lo ≤ phys ∧ phys < lo + 65536 then some (phys - lo) else none

/-- The function, device address of the page, and frame that hold a physical key. -/
def State.ownerOfPhys (s : State) (phys : Nat) : Option (Nat × Nat × Frame) :=
  s.fns.findSome? (fun e => e.2.segs.findSome? (fun g => g.pages.zipIdx.findSome? (fun p =>
    (frameOffset p.1.frame phys).map (fun _ => (e.1, g.base + 65536 * p.2, p.1.frame)))))

/-- The patrol scrub reads one sector or unit: its errors are recorded, a corrected one is rewritten (R224); a reef unit at work
in the pseudo-channel yields (R266). -/
def State.scrubUnit (s : State) (key upset : Nat) : State :=
  let hbm := key < boardBase
  let key := if hbm then key / 32 * 32 else key / 64 * 64
  let (fn, addr, f) : Nat × Option Nat × Frame := match s.ownerOfPhys key with
    | some (fn, base, f) => (fn, (frameOffset f key).map (base + ·), f)
    | none => (0, none, if hbm then .spread (key / 1024 / 2 ^ 21 / 64) 0 else .board 0 0)
  let s := if hbm then s.yieldsAt (key / 1024 / 2 ^ 21 / 64) [key / 1024 / 2 ^ 21 % 64] else s
  let (s, good) := (s.addUpset f key upset).decodeUnit .scrub fn f key addr
  if good then s.setErrors key [] else s

/-- The patrol scrub reads the sector or unit at a physical key: a corrected one is rewritten, an uncorrectable one is
recorded and left; leased rows, unpopulated and DOWN ports are passed over (R224, R269). -/
def execPatrolScrub (key upset : Nat) (s : State) : Result :=
  let hbm := key < boardBase
  let stack := key / 1024 / 2 ^ 21 / 64
  let leased := hbm && (s.leasesOf stack).any (fun l => l.readRows.contains (key / 1024) || l.resultRows.contains (key / 1024))
  let there := if hbm then decide (stack < 8) && s.fld .MEM_STACK_STAT_STATE stack == 1
    else s.mlUp ((key - boardBase) / 2 ^ 37) && !(storeGet {} s.mlPorts ((key - boardBase) / 2 ^ 37)).lost
  if s.fld .MEM_SCRUB_CFG_SCRUB_PERIOD = 0 ∨ leased = true ∨ there = false then ok s
  else ok (s.scrubUnit key upset)

/-- A page's data moves to a spare frame, its entry names it, and its old frame is free; where a sector of it proves uncorrectable
the page stays (R225, R226). -/
def State.relocatePage (s : State) (fn page : Nat) (f t : Frame) : State :=
  let base := page / 65536 * 65536
  let (s, good) := s.readWhole .migration fn f (some base)
  if !good then s else
  let s := (s.copyFrame f t).modPage fn page (fun e => { e with frame := t })
  let s := s.memRecord fn true (s.errorRecord 5 .migration fn 0 (frameByte f 0) (some base))
  (s.freeFrame fn { frame := f }).spareStat f.stack

/-- The migration engine moves a page off a degraded row: its data is in spare rows of its layout, and its entry names
them. A page with an uncorrectable sector, a MOVING or a leased page stays; with no spare rows nothing moves (R225,
R226, R269). -/
def execPageRelocate (fn page : Nat) (s : State) : Result :=
  match s.pageAt fn page with
  | none => ok s
  | some pg =>
    let f := pg.frame
    if pg.moving = true ∨ f.isBoard = true ∨ s.frameResetting f = true ∨ (frameRows f).all (fun k => !s.repairs.contains k) = true ∨
        s.frameUncorrectable f = true ∨ s.frameLeased f = true then ok s
    else match s.takeSpare f with
    | none => ok s
    | some t => ok (s.relocatePage fn page f t)

/-- A populated port loses training and retrains (R230). Log entry 36. -/
def execMainlandPortTrainingLoss (port : Nat) (s : State) : Result :=
  if s.mlUp port = true then
    ok { s with mlPorts := storeSet {} s.mlPorts port { storeGet {} s.mlPorts port with lost := true } }
  else ok s

/-- A port that lost training has it back within 1 ms and carries on (R230). -/
def execMainlandPortRetrained (port : Nat) (s : State) : Result :=
  let p := storeGet {} s.mlPorts port
  if p.lost = true then ok { s with mlPorts := storeSet {} s.mlPorts port { p with lost := false }, served := [] }.retryHeld
  else ok s

/-- A port that lost training has not regained it within 1 ms: DOWN until the next package reset (R230). -/
def execMainlandPortDown (port : Nat) (s : State) : Result :=
  let p := storeGet {} s.mlPorts port
  if p.lost = true then
    let s := { s with mlPorts := storeSet {} s.mlPorts port { p with lost := false }, served := [] }
    ok (s.setFld .MEM_ML_PORT_STAT_STATE port 0 2).retryHeld
  else ok s

/-! ## Migration requests -/

/-- MEM_MIG_STAT shows the queue and the running request; MEM_ERR_COUNT the segments. -/
def State.migStat (s : State) (fn : Nat) : State :=
  let f := s.fnState fn
  ((s.setFld .MEM_MIG_STAT_QUEUED fn 0 f.mig.queue.length).setFld .MEM_MIG_STAT_BUSY fn 0 (natOf f.mig.run.isSome)
    ).setFld .MEM_ERR_COUNT_SEGMENTS fn 0 f.segs.length

/-- Change the migration side of a function. -/
def State.modMig (s : State) (fn : Nat) (g : Mig → Mig) : State := s.modFn fn (fun f => { f with mig := g f.mig })

/-- Change the running request of a function. -/
def State.modRun (s : State) (fn : Nat) (g : MigRun → MigRun) : State :=
  s.modMig fn (fun m => { m with run := m.run.map g })

/-- Queue a request. -/
def State.migQueue (s : State) (fn : Nat) (r : MigReq) : State :=
  (s.modMig fn (fun m => { m with queue := m.queue ++ [r] })).migStat fn

/-- Checkpoint requests enter the queue as it has room. -/
def State.migFeed (s : State) (fn : Nat) : State :=
  let f := s.fnState fn
  let n := 64 - f.mig.queue.length
  (s.modFn fn (fun f => { f with ckptReqs := f.ckptReqs.drop n, mig := { f.mig with queue := f.mig.queue ++ f.ckptReqs.take n } })
    ).migStat fn

/-- A request ends: MEM_MIG_STAT, MEM_MIG_DONE, MIG_EVT, and the command or checkpoint it came from (R243, R383, R389). -/
def State.migEnd (s : State) (fn : Nat) (r : MigReq) (st : Status) (done skipped : Nat) : State :=
  let s := (s.addFld .MEM_MIG_STAT_SEQ fn 0 1).setFld .MEM_MIG_STAT_STATUS fn 0 (statusCode st)
  let s := (s.setFld .MEM_MIG_DONE_DONE_PAGES fn 0 done).setFld .MEM_MIG_DONE_SKIPPED fn 0 skipped
  let s := match r.source with
    | .window => s
    | .command ref => s.completeCommand ref st 0 (leBytes 4 done ++ leBytes 4 skipped ++ leBytes 8 r.w1)
    | .checkpoint true => s.modFn fn (fun f => { f with ckptEnded := f.ckptEnded ++ [st] })
    | .checkpoint false => s
  (s.migFeed fn).fnEvent fn 1 .MEM_EVT_MIG_EVT fn

/-- The attributes of the segment that a MAP, COPY or INGEST creates (R237). -/
def State.migSegment (s : State) (fn : Nat) (r : MigReq) : Segment :=
  { base := r.w3, channelLocal := migLocal r, stackSet := if migStacks r = 0 then s.stacksOf fn else migStacks r,
    pcFirst := migPcFirst r, pcCount := migPcCount r, frozen := migFrozen r }

/-- The frames that the pages of a new segment take in turn, as many as are free, and the last port used (R239). -/
def State.allocFrames (s : State) (fn : Nat) (g : Segment) (tier n : Nat) : List Frame × Option Nat :=
  if tier = 1 then
    (List.range n).foldl (fun acc _ =>
      match s.takeBoard acc.1 fn acc.2 with
      | some (.board p f) => (acc.1 ++ [.board p f], some p)
      | _ => acc) ([], (s.fnState fn).mig.lastPort)
  else
    (((List.range n).foldl (fun (acc : List Frame × Option Nat) i =>
      match s.takeHbm acc.1 g i acc.2 with
      | some f => (acc.1 ++ [f], some f.stack)
      | none => acc) ([], none)).1, (s.fnState fn).mig.lastPort)

/-- The check of R238: the status with which a request is refused. Log entry 36. -/
def State.migCheck (s : State) (fn : Nat) (r : MigReq) : Option Status :=
  let pages := migPages r
  let badAddr (a : Nat) : Bool := a % 65536 != 0 || decide (2 ^ 52 ≤ a) || decide (reservedBase < a + pages * 65536)
  let segs := (s.fnState fn).segs
  let creates := migOp r == 0 || migOp r == 4 || migOp r == 5
  if migOp r > 5 ∨ pages = 0 ∨ badAddr r.w3 = true then some .aborted
  else if migOp r = 4 ∧ badAddr r.w2 = true then some .aborted
  else if migOp r = 5 ∧ r.w2 % 32 ≠ 0 then some .aborted
  else if migManifest r = true ∧ migOp r ≠ 4 then some .aborted
  else if migOp r = 1 ∧ segs.all (fun g => g.base != r.w3 || g.pages.length != pages) = true then some .aborted
  else if (migOp r = 2 ∨ migOp r = 3) ∧ s.mappedRange fn r.w3 pages = false then some .aborted
  else if migOp r = 4 ∧ s.mappedRange fn r.w2 pages = false then some .aborted
  else if creates = true ∧ segs.any (fun g => decide (g.base < r.w3 + pages * 65536) && decide (r.w3 < g.base + g.pages.length * 65536)) = true
    then some .aborted
  else if creates = true ∧ ((setBits (migStacks r) 8).any (fun st => !bit (s.stacksOf fn) st) = true ∨
      (migLocal r = true ∧ (popCount (migStacks r) 8 ≠ 1 ∨ migPcCount r = 0)) ∨ migPcFirst r + migPcCount r > 64 ∨
      (migLocal r = false ∧ (migPcFirst r ≠ 0 ∨ migPcCount r ≠ 0))) then some .aborted
  else if creates = true ∧ (1024 ≤ segs.length ∨ (migTier r = 1 ∧ s.rangesOf fn = []) ∨
      (s.allocFrames fn (s.migSegment fn r) (migTier r) pages).1.length < pages) then some .quota
  else if creates = true ∧ (s.allocFrames fn (s.migSegment fn r) (migTier r) pages).1.any s.frameResetting = true then some .aborted
  else none

/-- The first waiting request of a function starts if its operation is `op`: it is checked in full. -/
def State.migStart (s : State) (fn op : Nat) : Option (State × MigRun) :=
  let m := (s.fnState fn).mig
  match m.run, m.queue with
  | none, r :: rest =>
    if migOp r = op then
      let run : MigRun := { req := r, slot := s.currentSlot fn, status := s.migCheck fn r }
      some ((s.modMig fn (fun m => { m with queue := rest, run := some run, cancel := false })).migStat fn, run)
    else none
  | _, _ => none

/-- Create a request's segment of zero-filled frames; mainland frames are named under the request's slot. -/
def State.createSegment (s : State) (fn : Nat) (r : MigReq) (slot : Nat) : State :=
  let g := s.migSegment fn r
  let (fs, last) := s.allocFrames fn g (migTier r) (migPages r)
  let pages := fs.map (fun f => ({ frame := f, slot := if f.isBoard then slot else 0 } : Page))
  let s := s.modFn fn (fun f => { f with segs := f.segs ++ [{ g with pages := pages }], mig := { f.mig with lastPort := last } })
  let s := fs.foldl (fun s f =>
    let s := (s.noteYields f 0 65536).zeroFrame f
    if f.isBoard then s.slotAdd fn slot else s) s
  s.migStat fn

/-- Remove the segment at a base and free its frames. -/
def State.removeSegment (s : State) (fn base : Nat) : State :=
  match (s.fnState fn).segs.find? (fun g => g.base == base) with
  | none => s
  | some g =>
    let s := s.modFn fn (fun f => { f with segs := f.segs.filter (fun x => x.base ≠ base) })
    (g.pages.foldl (fun s p => s.freeFrame fn p) s).migStat fn

/-- A MAP creates its segment; each mainland page counts as written under its slot (R237, R243). -/
def State.mapSegment (s : State) (fn : Nat) (run : MigRun) : State :=
  let s := s.createSegment fn run.req run.slot
  let s := if migTier run.req = 1 then (List.range (migPages run.req)).foldl (fun s _ => s.slotWritten fn run.slot) s else s
  s.modRun fn (fun m => { m with status := some .ok, done := migPages run.req })

/-- A MAP request is checked and done: a segment of zero-filled frames (R237). -/
def execMigMap (fn : Nat) (s : State) : Result :=
  match s.migStart fn 0 with
  | none => ok s
  | some (s, run) =>
    if run.status = none then ok (s.mapSegment fn run) else ok s

/-- An UNMAP request is checked and done, once no page of its segment is MOVING or leased: the segment goes and its
frames are free (R234, R237). -/
def execMigUnmap (fn : Nat) (s : State) : Result :=
  match s.migStart fn 1 with
  | none => ok s
  | some (s', run) =>
    if run.status = none then
      match (s.fnState fn).segs.find? (fun g => g.base == run.req.w3) with
      | none => ok s'
      | some g =>
        if g.pages.any (fun p => p.moving || s.frameLeased p.frame) then ok s
        else ok ((s'.removeSegment fn run.req.w3).modRun fn (fun m => { m with status := some .ok, done := migPages run.req }))
    else ok s'

/-- A PROMOTE request is checked and starts (R237). -/
def execMigPromote (fn : Nat) (s : State) : Result := ok (((s.migStart fn 2).map Prod.fst).getD s)

/-- A DEMOTE request is checked and starts (R237). -/
def execMigDemote (fn : Nat) (s : State) : Result := ok (((s.migStart fn 3).map Prod.fst).getD s)

/-- A COPY or INGEST that passes its check creates its segment. -/
def State.migCreate (s : State) (fn op : Nat) : State :=
  match s.migStart fn op with
  | none => s
  | some (s, run) => if run.status = none then (s.createSegment fn run.req run.slot).modRun fn (fun m => { m with made := true }) else s

/-- A COPY request is checked and creates its segment (R237). -/
def execMigCopy (fn : Nat) (s : State) : Result := ok (s.migCreate fn 4)

/-- The migration engine asks the host for page `i` of an INGEST, in reads split at 4 KiB boundaries (R237, R238, R312). -/
def State.ingestAsk (s : State) (fn : Nat) (r : MigReq) (i : Nat) : State :=
  if i < migPages r then s.hostRead fn 17 (r.w2 + 65536 * i) 65536 else s

/-- An INGEST request is checked, creates its segment and begins to read its first page from the host (R237). -/
def execMigIngest (fn : Nat) (s : State) : Result :=
  let t := s.migCreate fn 5
  match (s.fnState fn).mig.run, (t.fnState fn).mig.run with
  | none, some r => ok (if r.made then t.ingestAsk fn r.req 0 else t)
  | _, _ => ok t

/-- GO queues the request held in MEM_MIG_REQ0-3; CANCEL aborts the waiting requests and ends the running one at its
next page boundary. A write with both bits acts on GO first (R238, R244). Log entry 17. -/
def State.writeMigCtl (s : State) (fn : Nat) (w : Word) : State :=
  let s :=
    if bit w.toNat 0 then
      if 64 ≤ (s.fnState fn).mig.queue.length then s.fnEvent fn 1 .MEM_EVT_REJ_FULL fn
      else
        let word (j : Nat) : Nat := (s.reg .MEM_MIG_REQ fn j).toNat
        s.migQueue fn { w0 := word 0, w1 := word 1, w2 := word 2, w3 := word 3, source := .window }
    else s
  if bit w.toNat 1 then
    let waiting := (s.fnState fn).mig.queue
    let s := (s.modMig fn (fun m => { m with queue := [], cancel := m.run.isSome })).migStat fn
    waiting.foldl (fun s r => s.migEnd fn r .aborted 0 0) s
  else s

/-- A write of MEM_MIG_CTL.GO (R238). -/
def execMigGo (fn : Nat) (w : Word) (s : State) : Result := if s.fnLive fn then ok (s.writeMigCtl fn w) else ok s

/-- A write of MEM_MIG_CTL.CANCEL (R244). -/
def execMigCancel (fn : Nat) (w : Word) (s : State) : Result := if s.fnLive fn then ok (s.writeMigCtl fn w) else ok s

/-! ## Pages in progress -/

/-- A port's page in progress. -/
def State.mlPort (s : State) (p : Nat) : MlPort := storeGet {} s.mlPorts p

/-- Change a port. -/
def State.modPort (s : State) (p : Nat) (g : MlPort → MlPort) : State :=
  { s with mlPorts := storeSet {} s.mlPorts p (g (s.mlPort p)) }

/-- A port's page has finished: the next promotion queued behind it is in progress (R241, R243). Log entry 14. -/
def State.portNext (s : State) (p : Nat) : State :=
  s.modPort p (fun m => { m with current := m.promos.head?, promos := m.promos.tail })

/-- The port of a board frame. -/
def Frame.port? : Frame → Option Nat
  | .board p _ => some p
  | _ => none

/-- The mainland ports that the next page of a function's running request uses. -/
def State.migPorts (s : State) (fn : Nat) : List Nat :=
  let m := (s.fnState fn).mig
  match m.run with
  | none => []
  | some r =>
    if r.status.isSome ∨ m.cancel ∨ migPages r.req ≤ r.next then [] else
    let dst := s.pageAt fn (r.req.w3 + 65536 * r.next)
    let ofPage (p : Option Page) : List Nat := (p.bind (fun p => p.frame.port?)).toList
    match migOp r.req with
    | 3 =>
      match dst with
      | some pg => if pg.frame.isBoard then [] else
        ((s.takeBoard [] fn m.lastPort).bind (fun f => f.port?)).toList
      | none => []
    | 4 => (ofPage (s.pageAt fn (r.req.w2 + 65536 * r.next)) ++ ofPage dst).eraseDups
    | _ => ofPage dst

/-- It is a function's turn on a port: no function that comes sooner after the one served last has a page for it
(R238). -/
def State.migTurn (s : State) (fn p : Nat) : Bool :=
  let dist (g : Nat) : Nat := (g + 16 - (s.mlPort p).lastFn - 1) % 8
  ((List.range 9).drop 1).all (fun g => g == fn || !(s.migPorts g).contains p || decide (dist fn < dist g))

/-- A page lies in a loaded shoal ring or replay area (R202). -/
def State.shoalPage (s : State) (fn addr : Nat) : Bool :=
  (s.fnState fn).shoal.any (fun r =>
    let hits (base len : Nat) : Bool := decide (base < addr + 65536) && decide (addr < base + len)
    hits (shoalRingBase r) (shoalRingBytes r) || hits (shoalReplayBase r) (shoalReplayBytes r))

/-- A page of the running request is settled: moved, already there (`done`), or passed over. -/
def State.pageSettled (s : State) (fn : Nat) (skip : Bool) : State :=
  s.modRun fn (fun m => if skip then { m with skipped := m.skipped + 1 } else { m with done := m.done + 1 })

/-- The running request goes on to its next page. -/
def State.pageTaken (s : State) (fn : Nat) : State := s.modRun fn (fun m => { m with next := m.next + 1 })

/-- The running request stops with a status. -/
def State.migStop (s : State) (fn : Nat) (st : Status) : State :=
  s.modRun fn (fun m => { m with status := some (m.status.getD st) })

/-- One page of a DEMOTE starts: its mainland frame is taken (R240 step 1). -/
def State.demoteStart (s : State) (fn addr : Nat) : State :=
  match s.pageAt fn addr with
  | none => s
  | some pg =>
    if s.shoalPage fn addr then (s.pageSettled fn true).pageTaken fn
    else if pg.frame.isBoard then (s.pageSettled fn false).pageTaken fn
    else if s.frameCut pg.frame then s.migStop fn .aborted
    else match s.takeBoard [] fn (s.fnState fn).mig.lastPort with
    | some (.board p f) =>
      let slot := (((s.fnState fn).mig.run).map (·.slot)).getD 0
      let mv : PageMove := { fn := fn, addr := addr, kind := .demote, target := .board p f, byRequest := true }
      let s := s.modPort p (fun m => { m with current := some mv, lastFn := fn })
      let s := (s.slotAdd fn slot).modMig fn (fun m => { m with lastPort := some p })
      s.pageTaken fn
    | _ => s.migStop fn .quota

/-- One page of a PROMOTE starts (R241 steps 1-2). -/
def State.promoteStart (s : State) (fn addr : Nat) (run : MigRun) : State :=
  match s.pageAt fn addr with
  | none => s
  | some pg =>
    match pg.frame with
    | .board p _ =>
      match (s.segmentAt fn addr).bind (fun g => s.takeHbm [] g run.moved run.lastStack) with
      | none => s.migStop fn .quota
      | some t =>
        if s.frameResetting t then s.migStop fn .aborted
        else
          let s := (s.startPromotion fn addr true t).modPort p (fun m => { m with lastFn := fn })
          (s.modRun fn (fun m => { m with moved := m.moved + 1, lastStack := some t.stack })).pageTaken fn
    | _ => (s.pageSettled fn false).pageTaken fn

/-- One page of a COPY moves whole; a DOWN port on either side ends it with a record (R230, R237, R242). -/
def State.copyPage (s : State) (fn : Nat) (run : MigRun) (upset : Nat) : State :=
  let i := run.next
  let srcAddr := run.req.w2 + 65536 * i
  match s.pageAt fn srcAddr, s.pageAt fn (run.req.w3 + 65536 * i) with
  | some a, some b =>
    if s.frameCut a.frame ∨ s.frameCut b.frame then s.migStop fn .aborted
    else match a.frame.port? with
    | some p =>
      if s.mlUp p = false then (s.portDownRecord .migration fn srcAddr (frameByte a.frame 0)).migStop fn .uncorrectableMem
      else move s a b srcAddr
    | none => move s a b srcAddr
  | _, _ => s
where
  /-- Read the source frame, write the target frame. -/
  move (s : State) (a b : Page) (srcAddr : Nat) : State :=
    let (s, good) := (s.addUpset a.frame (frameByte a.frame 0) upset).readWhole .migration fn a.frame (some srcAddr)
    if !good then s.migStop fn .uncorrectableMem
    else match b.frame.port? with
    | some p => if s.mlUp p then done ((s.copyFrame a.frame b.frame).slotWritten fn b.slot) b
        else (s.portDownRecord .migration fn (run.req.w3 + 65536 * run.next) (frameByte b.frame 0)).migStop fn .uncorrectableMem
    | none => done ((s.spoilFrame b.frame).copyFrame a.frame b.frame) b
  /-- The page is done, its digest taken for a manifest. -/
  done (s : State) (b : Page) : State :=
    let s := if migManifest run.req then
        let d := shake256 32 (s.frameBytes b.frame 0 65536)
        s.modRun fn (fun m => { m with digests := m.digests ++ d })
      else s
    (s.pageSettled fn false).pageTaken fn

/-- The island of the chain port toward the adapter. -/
def State.adapterCape (s : State) : Nat := 12 + s.adapterPort / 6

/-- One page of an INGEST has been read from host memory and is written whole; the next is asked for. A lost chain port ends it
LINK_DOWN, a strait FAILED between the adapter's cape and the mainland island ABORTED (R237, R242). -/
def State.ingestPage (s : State) (fn : Nat) (run : MigRun) (ans : Answer) : State :=
  match s.pageAt fn (run.req.w3 + 65536 * run.next) with
  | none => s
  | some b =>
    let (s, ans) := s.hostAnswer fn (run.req.w2 + 65536 * run.next) 65536 ans
    if s.routeFailed s.adapterCape 17 ∨ s.frameCut b.frame then s.migStop fn .aborted
    else if s.portUp s.adapterPort = false then s.migStop fn .linkDown
    else if ans.status ≠ .ok then s.migStop fn ans.status
    else if b.frame.isBoard = true ∧ s.mlUp (b.frame.port?.getD 0) = false then
      (s.portDownRecord .migration fn (run.req.w3 + 65536 * run.next) (frameByte b.frame 0)).migStop fn .uncorrectableMem
    else
      let s := s.straitOffer 17 (frameIsland b.frame) 0 (unitsOf 65536)
      let s := (s.noteYields b.frame 0 65536).spoilFrame b.frame
      let s := (s.zeroFrame b.frame).putFrame b.frame 0 (ans.data.take 65536)
      let s := if b.frame.isBoard then s.slotWritten fn b.slot else s
      ((s.pageSettled fn false).pageTaken fn).ingestAsk fn run.req (run.next + 1)

/-- A page that is MOVING, or holds result rows of a running reef operation, keeps a migration waiting (R237, R267).
Log entry 36. -/
def State.pageHeld (s : State) (fn a : Nat) : Bool :=
  (s.pageAt fn a).any (fun pg => pg.moving ||
    (!pg.frame.isBoard && (s.leasesOf pg.frame.stack).any (fun l => (frameRows pg.frame).any l.resultRows.contains)))

/-- The next page of a function's running request starts: its ports are free and it is the function's turn on them
(R238, R243); a source or target page that is MOVING, or holds result rows of a running reef operation, waits (R237,
R267), and so does one whose data the host has not answered yet (R312). -/
def execMigPageStart (fn upset : Nat) (ans : Answer) (s : State) : Result :=
  let m := (s.fnState fn).mig
  match m.run with
  | none => ok s
  | some run =>
    if run.status.isSome ∨ m.cancel ∨ migPages run.req ≤ run.next then ok s else
    let ports := s.migPorts fn
    let free := ports.all (fun p => (s.mlPort p).current.isNone && !(s.mlPort p).lost && s.migTurn fn p)
    let addr := run.req.w3 + 65536 * run.next
    if free = false ∨ (migOp run.req ≠ 5 ∧ s.pageHeld fn (if migOp run.req = 4 then run.req.w2 + 65536 * run.next else addr) = true) ∨
        (migOp run.req = 5 ∧ s.hostReady fn (run.req.w2 + 65536 * run.next) 65536 ans = false) then ok s
    else if 4 ≤ migOp run.req ∧ s.optForbids fn (migOp run.req == 4) addr 65536 = true then .fault (.unpredictable fn)
    else
      let mark (t : State) : State := ports.foldl (fun t p => t.modPort p (fun m => { m with lastFn := fn })) t
      match migOp run.req with
      | 2 => ok (s.promoteStart fn addr run)
      | 3 => ok (s.demoteStart fn addr)
      | 4 => ok (mark (s.copyPage fn run upset))
      | 5 => ok (mark (s.ingestPage fn run ans))
      | _ => ok s

/-- A demotion is given up: the page stays HBM and its mainland frame is free. Log entry 36. -/
def State.demoteAbandon (s : State) (port : Nat) (m : PageMove) (slot : Nat) (stop : Option Status) : State :=
  let s := ((s.portNext port).slotSub m.fn slot).frameLeft m.target
  match stop with
  | none => s.pageSettled m.fn true
  | some st => s.migStop m.fn st

/-- A demoted page is MAINLAND in its target frame, and its HBM frame is free (R240). -/
def State.demotePage (s : State) (port slot : Nat) (m : PageMove) (pg : Page) : State :=
  let s := (s.copyFrame pg.frame m.target).slotWritten m.fn slot
  let s := s.modPage m.fn m.addr (fun _ => { frame := m.target, slot := slot, moving := false })
  ((s.portNext port).freeFrame m.fn pg).pageSettled m.fn false

/-- A demoted page's data is in its mainland frame: unless a write was tracked the page is MAINLAND under the request's
slot and its HBM frame is free; a leased page waits (R240, R269). -/
def execDemotePageCopied (port upset : Nat) (s : State) : Result :=
  match (s.mlPort port).current with
  | none => ok s
  | some m =>
    if m.kind ≠ .demote ∨ (s.mlPort port).lost = true then ok s else
    match s.pageAt m.fn m.addr with
    | none => ok s
    | some pg =>
      let slot := (((s.fnState m.fn).mig.run).map (·.slot)).getD 0
      if m.tracked then ok (s.demoteAbandon port m slot none)
      else if s.mlUp port = false then
        ok ((s.portDownRecord .migration m.fn m.addr (frameByte m.target 0)).demoteAbandon port m slot (some .uncorrectableMem))
      else if s.frameLeased pg.frame then ok s
      else
        let (s, good) := (s.addUpset pg.frame (frameByte pg.frame 0) upset).readWhole .migration m.fn pg.frame (some m.addr)
        if !good then ok (s.demoteAbandon port m slot (some .uncorrectableMem))
        else ok (s.demotePage port slot m pg)

/-- A promotion fails: the page stays MAINLAND, held writes to it complete with the status, held reads are served from
the port (R241). -/
def State.promoteFail (s : State) (port : Nat) (m : PageMove) (st : Status) : State :=
  let s := ((s.portNext port).modPage m.fn m.addr (fun e => { e with moving := false })).frameLeft m.target
  let s := s.dropHeld (fun a => a.fn == m.fn && a.addr / 65536 == m.addr / 65536 && a.wr.isSome) st
  let s := if m.byRequest then s.migStop m.fn st else s
  s.retryHeld

/-- A promoted page is HBM in its target frame, its mainland frame is free, and the held accesses go on (R241). -/
def State.promotePage (s : State) (port : Nat) (m : PageMove) (pg : Page) : State :=
  let s := (s.copyFrame pg.frame m.target).modPage m.fn m.addr (fun _ => { frame := m.target, slot := 0, moving := false })
  let s := (s.portNext port).freeFrame m.fn pg
  (if m.byRequest then s.pageSettled m.fn false else s).retryHeld

/-- A promoted page's data is in its HBM frame: the page is HBM, its mainland frame is free, and the held accesses are
served in arrival order (R241 steps 4-5). -/
def execPromotePageDone (port upset : Nat) (s : State) : Result :=
  match (s.mlPort port).current with
  | none => ok s
  | some m =>
    if m.kind ≠ .promote ∨ (s.mlPort port).lost = true then ok s else
    match s.pageAt m.fn m.addr with
    | none => ok s
    | some pg =>
      let s := s.unserved
      if s.mlUp port = false then
        ok ((s.portDownRecord .migration m.fn m.addr (frameByte pg.frame 0)).promoteFail port m .uncorrectableMem)
      else
        let (s, good) := (s.addUpset pg.frame (frameByte pg.frame 0) upset).readWhole .migration m.fn pg.frame (some m.addr)
        if !good then ok (s.promoteFail port m .uncorrectableMem)
        else ok (s.promotePage port m pg)

/-- A page of a function's running request is in progress on some port. -/
def State.migMoving (s : State) (fn : Nat) : Bool :=
  s.mlPorts.any (fun e => (e.2.current.toList ++ e.2.promos).any (fun m => m.byRequest && m.fn == fn))

/-- The manifest record of a snapshot (R245). -/
def manifestPayload (fn : Nat) (m : MigRun) : List Byte :=
  leBytes 1 fn ++ leBytes 1 m.slot ++ leBytes 6 0 ++ leBytes 8 m.req.w1 ++ leBytes 8 m.req.w2 ++ leBytes 8 m.req.w3 ++
    leBytes 8 (migPages m.req) ++ leBytes 8 0 ++ shake256 32 m.digests ++ leBytes 16 0

/-- A COPY with MANIFEST that has succeeded asks the journal for its manifest record; from then on its status stands (R245). -/
def State.manifestAsk (s : State) (fn : Nat) (r : MigRun) : State :=
  let q := (s.reg .HBR_JNL_SEQ).toNat
  (s.journal 0x40 (manifestPayload fn r)).modRun fn (fun m => { m with status := some .ok, manifest := some q })

/-- The manifest record of a request still waits to be committed to the journal. Log entry 36. -/
def State.manifestWaits (s : State) (r : MigRun) : Bool := r.manifest.any (fun q => s.jqueue.any (fun x => x.seq == q))

/-- A running request ends with a status: a failed COPY or INGEST leaves no segment, and an INGEST's host reads are forgotten (R238,
R244). Log entry 36. -/
def State.migFinish (s : State) (fn : Nat) (r : MigRun) (st : Status) : State :=
  let whole := migOp r.req == 4 || migOp r.req == 5
  let made := whole && r.made
  let s := if made ∧ st ≠ .ok then s.removeSegment fn r.req.w3 else s
  let s := if migOp r.req = 5 then (s.hostAnswer fn r.req.w2 (65536 * migPages r.req) {}).1 else s
  let s := (s.modMig fn (fun m => { m with run := none, cancel := false })).migStat fn
  s.migEnd fn r.req st (if whole && st != .ok then 0 else r.done) r.skipped

/-- The segment that a failed COPY or INGEST leaves behind has a page that is MOVING or leased: it cannot go yet (R234,
R237). Log entry 36. -/
def State.endWaits (s : State) (fn : Nat) (r : MigRun) (st : Status) : Bool :=
  (migOp r.req == 4 || migOp r.req == 5) && r.made && st != .ok &&
    ((s.fnState fn).segs.find? (fun g => g.base == r.req.w3)).any (fun g => g.pages.any (fun p => p.moving || s.frameLeased p.frame))

/-- A running request with no page in progress ends once its status is settled, its pages are done, or a cancel has
reached a page boundary; one with a reserved OP ends ABORTED. A failed COPY or INGEST leaves no segment; a COPY with
MANIFEST ends once its manifest is committed to the journal (R237, R238, R243-R246). -/
def execMigRequestComplete (fn : Nat) (s : State) : Result :=
  let m := (s.fnState fn).mig
  match m.run, m.queue with
  | some r, _ =>
    if s.migMoving fn then ok s else
    let st : Option Status := match r.status with
      | some st => some st
      | none => if migPages r.req ≤ r.next then some .ok else if m.cancel then some .aborted else none
    match st with
    | none => ok s
    | some st =>
      if s.endWaits fn r st ∨ s.manifestWaits r then ok s
      else if st = .ok ∧ migManifest r.req = true ∧ r.manifest = none then ok (s.manifestAsk fn r)
      else ok (s.migFinish fn r st)
  | none, r :: rest =>
    if 5 < migOp r then
      ok (((s.modMig fn (fun m => { m with queue := rest })).migStat fn).migEnd fn r .aborted 0 0)
    else ok s
  | none, [] => ok s

/-! ## Page lookups (R232) -/

/-- A write of MEM_XLATE_ADDR starts a page lookup. -/
def execXlateLookup (fn : Nat) (w : Word) (s : State) : Result :=
  if s.fnLive fn then
    ok (((s.writeReg .MEM_XLATE_ADDR fn 0 w).setReg .MEM_XLATE_RES fn 0 0).modFn fn (fun f => { f with xlating := true }))
  else ok s

/-- The lookup's result goes into MEM_XLATE_RES (R203). -/
def State.lookupAnswer (s : State) (fn : Nat) : State :=
  let addr := s.fld .MEM_XLATE_ADDR_PAGE fn * 65536
  let s := (s.modFn fn (fun f => { f with xlating := false })).setFld .MEM_XLATE_RES_DONE fn 0 1
  match s.segmentAt fn addr, s.pageAt fn addr with
  | some g, some pg =>
    let s := (s.setFld .MEM_XLATE_RES_FROZEN fn 0 (natOf g.frozen)).setFld .MEM_XLATE_RES_LAYOUT fn 0 (natOf g.channelLocal)
    let s := s.setFld .MEM_XLATE_RES_SEG_BASE fn 0 (g.base / 65536)
    if pg.moving then s.setFld .MEM_XLATE_RES_STATE fn 0 3 else
    match pg.frame with
    | .spread st _ => (s.setFld .MEM_XLATE_RES_STATE fn 0 1).setFld .MEM_XLATE_RES_STACK fn 0 st
    | .channel st pc _ =>
      ((s.setFld .MEM_XLATE_RES_STATE fn 0 1).setFld .MEM_XLATE_RES_STACK fn 0 st).setFld .MEM_XLATE_RES_PC fn 0 pc
    | .board p _ =>
      ((s.setFld .MEM_XLATE_RES_STATE fn 0 2).setFld .MEM_XLATE_RES_PORT fn 0 p).setFld .MEM_XLATE_RES_KEY_SLOT fn 0 pg.slot
  | _, _ => s

/-- XLATE_LOOKUP_DONE: the walk that XLATE_LOOKUP began answers. -/
def execXlateLookupDone (fn : Nat) (s : State) : Result :=
  if (s.fnState fn).xlating = false then ok s else ok (s.lookupAnswer fn)

end Sys2Proof.Machine
end

