-- ==== Sys2Proof/Machine/StepNext.lean ====
section
/-! DEFINITION. How a step ends on a reduction job, and what the step service does next (R340, R341, R387-R390). -/

namespace Sys2Proof.Machine

/-! ## Vote actions on a job (R340, R341) -/

/-- The loss scale halved or doubled. -/
def scaleHalf (x : Nat) : Nat := (fp32Mul x 0x3F000000).1
def scaleDouble (x : Nat) : Nat := (fp32Mul x 0x40000000).1

/-- One FP32 value is below another. -/
def fp32Below (a b : Nat) : Bool := cmpNum (fmtFp32.decode a) (fmtFp32.decode b) == -1

/-- The action that a combined status gives on a job, with the loss scale of the next attempt and the stop cause: 0 COMMIT,
1 REPEAT, 2 SKIP, 3 STOP (R340). `repeats` is POLICY. A REPEAT that becomes STOP keeps the scale of its row. -/
def State.jobDecide (s : State) (x : Nat) (st : Status) (repeats : Bool) : Nat × Nat × Nat :=
  let r := (s.job x).recd
  let scale := s.fld .RED_JOB_SCALE_LOSS_SCALE x
  let atLimit := jobRepeatLimit r ≤ s.fld .RED_JOB_SCALE_NOT_COMMITTED x + 1
  match st with
  | .ok =>
    if jobGrow r ≠ 0 ∧ jobGrow r ≤ s.fld .RED_JOB_SCALE_OK_RUN x + 1 then
      let d := scaleDouble scale
      (0, if fp32Below (jobScaleMax r) d then (if fp32Below (jobScaleMax r) scale then scale else jobScaleMax r) else d, 0)
    else (0, scale, 0)
  | .nonfinite =>
    if repeats then
      if fp32Below (scaleHalf scale) 0x3F800000 then (3, scaleHalf scale, 4)
      else if atLimit then (3, scaleHalf scale, 1) else (1, scaleHalf scale, 0)
    else if atLimit then (3, scale, 1) else (2, scale, 0)
  | .late => if atLimit then (3, scale, 1) else (1, scale, 0)
  | _ => (3, scale, 3)

/-- The stop cause that a received STOP has on this member. -/
def State.jobStopCause (s : State) (x : Nat) (st : Status) : Nat :=
  (s.jobDecide x st (jobRepeats (s.job x).recd)).2.2

/-- A job applies an action: its counts, its loss scale, its state; buckets are kept only by a COMMIT (R341). Log entry 32. -/
def State.jobApply (s : State) (x action scale cause : Nat) (st : Status) : State :=
  let fn := (s.job x).fn
  let old := s.fld .RED_JOB_SCALE_LOSS_SCALE x
  let s := s.modJob x (fun j => { j with applied := true, action := action, vote := none, run := if action = 0 then j.run else [] })
  let s := match action with
    | 0 => s.satFld .RED_JOB_COUNT_COMMITS x 0 1
    | 1 => s.satFld .RED_JOB_COUNT_REPEATS x 0 1
    | 2 => s.satFld .RED_JOB_COUNT_SKIPS x 0 1
    | _ => s
  let s := if action = 0 then s.setFld .RED_JOB_SCALE_NOT_COMMITTED x 0 0 else s.satFld .RED_JOB_SCALE_NOT_COMMITTED x 0 1
  let s := if action = 0 ∧ scale = old then s.satFld .RED_JOB_SCALE_OK_RUN x 0 1 else s.setFld .RED_JOB_SCALE_OK_RUN x 0 0
  let s := (s.setFld .RED_JOB_SCALE_LOSS_SCALE x 0 scale).setFld .RED_JOB_STAT_LAST_STATUS x 0 (statusCode st)
  let s := if action = 3 then
      ((s.setFld .RED_JOB_STAT_STATE x 0 jobStopped).setFld .RED_JOB_STAT_STOP_CAUSE x 0 cause).fnEvent fn 3 .RED_EVT_STOP_EVT fn
    else s.setFld .RED_JOB_STAT_STATE x 0 jobIdle
  (s.jobStat x).fnEvent fn 3 .RED_EVT_STEP_EVT fn

/-! ## The service goes on -/

/-- Take a checkpoint of the committed step: for each entry of the list, an UNMAP of what lies at its destination and a
COPY; the requests enter the queue as it has room. Answers the number of COPYs (R389). -/
def State.checkpointStart (s : State) (fn : Nat) (v : StepSvc) : State × Nat :=
  let n := bytesAt v.cb 0x21 1
  let (s, a) := s.devRead .islet fn (bytesAt v.cb 0x28 8) (32 * n)
  if a.status ≠ .ok then (s, 0) else
  let reqs := (List.range n).flatMap (fun i =>
    let e := a.data.drop (32 * i)
    let dst := bytesAt e (0x10 + 8 * (v.ckptNo % 2)) 8
    let old := ((s.fnState fn).segs.find? (fun g => g.base == dst)).map (fun g =>
      ({ w0 := 1 + g.pages.length * 2 ^ 32, w1 := v.t, w3 := dst, source := .checkpoint false } : MigReq))
    old.toList ++ [({ w0 := 4 + 2 ^ 4 + 2 ^ 6 + 2 ^ 7 + bytesAt e 8 4 * 2 ^ 32, w1 := v.t, w2 := bytesAt e 0 8, w3 := dst,
                       source := .checkpoint true } : MigReq)])
  let s := s.modStep fn (fun v => { v with ckptNo := v.ckptNo + 1 })
  ((s.modFn fn (fun f => { f with ckptReqs := f.ckptReqs ++ reqs })).migFeed fn, n)

/-- An attempt ends with an outcome: its record waits to be written, and the service goes on with the same step number or
the next, or ends once it has consumed STEPS. With a checkpoint started, the next attempt does not wait for the record
(R388-R390). Log entry 32. -/
def State.stepNext (s : State) (fn outcome : Nat) (st : Status) (t : Ticket) (scale : Nat) (consume : Bool) : State :=
  match (s.fnState fn).step with
  | none => s
  | some v =>
    let every := bytesAt v.cb 0x14 4
    let due := outcome ≤ 2 && every != 0 && (v.t - v.step0 + 1) % max 1 every == 0
    let r := s.stepRecord fn v outcome st t scale
    let (s, n) := if due then s.checkpointStart fn v else (s, 0)
    let r := { r with ckpts := n, ckptStatus := if n = 0 then 0xFF else 0 }
    let consumed := v.consumed + natOf consume
    let ends := consume && consumed == v.steps
    let s := s.setFld .SVC_STEP_STAT_LAST_STATUS fn 0 (statusCode st)
    let s := s.modStep fn (fun v => { v with
      recs := v.recs ++ [r], consumed := consumed, repeats := v.repeats + natOf (!consume),
      t := if consume && !ends then v.t + 1 else v.t, attempt := if consume then 0 else (v.attempt + 1) % 16,
      point := if ends then .ending .ok else .between })
    let s := s.stepStat fn
    if n ≠ 0 ∧ ends = false ∧ v.ctl = [] ∧ v.held = false then s.attemptStart fn else s

/-- The step of a function ends without an update: SKIP or REPEAT, or STOP with a status (R388). Log entry 32. -/
def State.stepEndsAs (s : State) (fn action outcome : Nat) (st : Status) (scale : Nat) : State :=
  let s := s.stagesEnd fn st
  match (s.fnState fn).step with
  | none => s
  | some v =>
    match action with
    | 1 => s.stepNext fn outcome st {} scale false
    | 2 => s.stepNext fn outcome st {} scale true
    | _ => s.stepEnding fn (s.stepRecord fn v outcome st {} scale) st

/-- Once every job of a function has applied an action, the service takes the worst: STOP, REPEAT, SKIP; with COMMIT on all, the
second part says that the optimiser takes the step on (R341, R387). A norm decision FAIL has its own outcome (R354). Log entry 32.
-/
def State.jobsApplied (s : State) (fn : Nat) : State × Bool :=
  let xs := s.jobsOf fn
  match (s.fnState fn).step with
  | none => (s, false)
  | some v =>
    if v.point ≠ .running ∨ xs.any (fun x => !(s.job x).applied) then (s, false) else
    let worst := [3, 1, 2].find? (fun a => xs.any (fun x => (s.job x).action == a))
    match worst with
    | none =>
      let s := s.stagesEnd fn .ok
      ((s.modStep fn (fun v => { v with point := .committed })).stepStat fn, true)
    | some a =>
      let x := (xs.find? (fun x => (s.job x).action == a)).getD 0
      let st := statusOf (s.fld .RED_JOB_STAT_LAST_STATUS x)
      let failed := (s.fnState fn).optim.early.any (fun t => t.action == 3)
      (s.stepEndsAs fn a (if failed then 7 else if a = 1 then 3 else if a = 2 then 4 else 5) st (s.job x).scale, false)

end Sys2Proof.Machine
end

