-- ==== Sys2Proof/Machine/Optimiser.lean ====
section
/-! DEFINITION. The optimiser: norm sequence, decision and ticket, shard updates, recovery, digests, adoption
(R346-R371). -/

namespace Sys2Proof.Machine

/-- The configuration record, the optimiser, the norm island of a function. -/
def State.optCfg (s : State) (fn : Nat) : List Byte := (s.fnState fn).optCfg
def State.opt (s : State) (fn : Nat) : Opt := (s.fnState fn).optim
def State.normIsland (s : State) (fn : Nat) : Nat := islDie (optNormIslet (s.optCfg fn))

/-- The contexts of the jobs an optimiser serves, in JOB_IDS order. -/
def State.optJobs (s : State) (fn : Nat) : List Nat :=
  (optJobIds (s.optCfg fn)).filterMap (fun id => (s.jobsOf fn).find? (fun x => jobId (s.job x).recd == id))

/-- OPT_STAT shows the shards. -/
def State.optStat (s : State) (fn : Nat) : State :=
  let sh := (s.opt fn).shards
  (s.setFld .OPT_STAT_PENDING fn 0 (sh.filter (fun e => e.2 == 1 || e.2 == 2)).length).setFld .OPT_STAT_TORN fn 0
    (sh.filter (fun e => e.2 == 3)).length

/-- A shard's state: 0 current, 1 pending, 2 updating, 3 TORN, 4 uncorrectable. -/
def State.shardState (s : State) (fn i : Nat) : Nat := storeGet 0 (s.opt fn).shards i

/-- Set a shard's state. -/
def State.setShard (s : State) (fn i v : Nat) : State :=
  (s.modOpt fn (fun o => { o with shards := storeSet 0 o.shards i v })).optStat fn

/-- The shards of a function, by index. -/
def State.shardList (s : State) (fn : Nat) : List (List Byte) :=
  (List.range (optShards (s.optCfg fn))).filterMap (s.fnState fn).shardRec

/-- A WRITE flit of a function to another device's memory, from its command die to the cape of the port toward it (R28, R353,
R366). -/
def State.peerWrite (s : State) (fn dst dfn addr : Nat) (bs : List Byte) : State :=
  (chunksOf 512 bs.length bs).zipIdx.foldl (fun s c =>
    let s := if s.wayUp dst then s.straitOffer (s.commandDie fn) (capeIsland (s.routeOf dst)) 0 (unitsOf c.1.length) else s
    s.sendTo { ftype := 1, dst := dst, dfn := dfn, sfn := fn, addr := addr + 512 * c.2, len := (c.1.length + 31) / 32,
               vc := 0, payload := c.1 }) s

/-- The chain address and the function of norm peer `q` (R353). -/
def State.optPeer (s : State) (fn q : Nat) : Nat × Nat :=
  let peers := ((s.fnState fn).opt.find? (fun r => bytesAt r 0 1 == 2)).getD []
  (bytesAt peers (8 + 4 * q) 1, bytesAt peers (9 + 4 * q) 1)

/-- The chain addresses of the other norm peers. -/
def State.optPeers (s : State) (fn : Nat) : List Nat :=
  let c := s.optCfg fn
  ((List.range (optQ c)).filter (fun q => q ≠ optMyPos c)).map (fun q => (s.optPeer fn q).1)

/-! ## Norm sequence (R351-R355) -/

/-- A norm entry (R353). -/
def normEntry (step attempt p : Nat) : List Byte := leBytes 8 step ++ leBytes 1 attempt ++ leBytes 7 0 ++ leBytes 8 p ++ leBytes 8 0

/-- The local partial P, and the loss scale (R352). -/
def State.normLocal (s : State) (fn : Nat) : Nat × Nat :=
  let recs := (s.optJobs fn).flatMap (fun x =>
    let j := s.job x
    (List.range (jobBuckets j.recd)).map (fun b => (storeGet {} j.run b).result))
  (recs.foldl (fun p r => (fp64Add p (bytesAt r 8 8)).1) 0, (recs.head?.map (fun r => bytesAt r 0x1C 4)).getD 0)

/-- The entry of a position stands in memory with the step and attempt that run (R353). Log entry 40. -/
def State.normEntryIs (s : State) (fn q : Nat) : Bool :=
  let e := s.peek fn (optNormIn (s.optCfg fn) + 32 * q) 16
  bytesAt e 0 8 == (s.opt fn).step && bytesAt e 8 1 == (s.opt fn).attempt

/-- The norm window opens: the entries that stand in memory already are present (R353; DESIGN CHOICE, log entry 40). -/
def State.normOpen (s : State) (fn : Nat) : State :=
  s.modOpt fn (fun o => { o with normOpened := s.count (s.normIsland fn),
                                 entries := (List.range (optQ (s.optCfg fn))).filter (s.normEntryIs fn) })

/-- Every norm entry of the step is present (R353). Log entry 40. -/
def State.normPresent (s : State) (fn : Nat) : Bool := (List.range (optQ (s.optCfg fn))).all (s.opt fn).entries.contains

/-- The optimiser takes a committed step: its norm entry is written here and at every norm peer, its window opens (R351 step 2,
R353). -/
def State.normStart (s : State) (fn : Nat) : State :=
  let c := s.optCfg fn
  let (p, scale) := s.normLocal fn
  let x := (s.optJobs fn).head?.getD 0
  let step := (s.reg .RED_JOB_STEP x).toNat
  let attempt := s.fld .RED_JOB_STAT_ATTEMPT x
  let s := s.modOpt fn (fun o => { o with commits := [], step := step, attempt := attempt, scale := scale, ticket := none,
                                          undecided := false, waits := 0, retains := true, ending := false })
  let s := s.setFld .OPT_STAT_STATE fn 0 optNorm
  let e := normEntry step attempt p
  let off := 32 * optMyPos c
  let s := ((s.devWrite .islet fn (optNormIn c + off) e).1).normOpen fn
  let s := ((List.range (optQ c)).filter (fun q => q ≠ optMyPos c)).foldl (fun s q =>
    s.peerWrite fn (s.optPeer fn q).1 (s.optPeer fn q).2 (optNormIn c + off) e) s
  if (s.optPeers fn).all s.wayUp then s else s.optStop fn .linkDown

/-- A listed job's COMMIT of the step is applied. Once it is on every listed job, the sequence starts (R351); an optimiser that is
STOPPED or UNLOADED runs none. -/
def State.optCommitted (s : State) (fn x : Nat) : State :=
  let s := s.modOpt fn (fun o => { o with commits := (o.commits ++ [x]).eraseDups })
  if (s.optJobs fn).all (s.opt fn).commits.contains ∧ s.optState fn ≠ optStopped ∧ s.optState fn ≠ optUnloaded then s.normStart fn else s

/-- Every job of the function has applied COMMIT: the step waits for its optimiser. One that is STOPPED or UNLOADED ends the
service with its status; one that has decided and updated already lets it go on (R351, R387). -/
def State.stepTakes (s : State) (fn : Nat) : State :=
  match (s.fnState fn).step with
  | none => s
  | some v =>
    if s.optState fn = optStopped ∨ s.optState fn = optUnloaded then
      let st := if s.optState fn = optUnloaded then .aborted else statusOf (s.fld .OPT_STAT_LAST_STATUS fn)
      s.stepEnding fn (s.stepRecord fn v 5 st {} (s.job ((s.optJobs fn).headD 0)).scale) st
    else match (s.opt fn).early with
      | some t => (s.modOpt fn (fun o => { o with early := none })).stepNext fn t.action .ok t (s.opt fn).scale true
      | none => s

/-! ## The end of a step (R351 step 6, R365) -/

/-- The replicas of the first job, and this member's rank. -/
def State.optRing (s : State) (fn : Nat) : List (Nat × Nat) × Nat :=
  let x := (s.optJobs fn).head?.getD 0
  ((s.job x).ranks, jobRank (s.job x).recd)

/-- The chain address of the rank to which digests go (R366). -/
def State.digestNext (s : State) (fn : Nat) : Nat :=
  let (ranks, me) := s.optRing fn
  (ranks.getD ((me + 1) % max 1 ranks.length) (0, 0)).1

/-- A step's shards are all current: OPT_STEP, and where the step's sequence ends so its event, and the digest where it is due (a
recovery that finds nothing to do ends none: R351 step 6, R363); and the service goes on, once every job of the function has
applied its action. Log entry 40. -/
def State.optDone (s : State) (fn : Nat) (t : Ticket) : State :=
  let every := optDigestEvery (s.optCfg fn)
  let recovering := (s.opt fn).recovering
  let fresh := (s.opt fn).ending
  let due := fresh && every != 0 && t.update % max 1 every == 0 && decide (t.action ≤ 1)
  let s := s.setReg .OPT_STEP fn 0 (BitVec.ofNat 64 t.step)
  let s := s.setFld .OPT_STAT_LAST_STATUS fn 0 0
  let s := s.modOpt fn (fun o => { o with
    broadcast := none, released := false, recovering := false, undecided := false, retains := false, ending := false,
    lastGen := if t.action ≤ 1 then t.update else o.lastGen,
    digest := if due then some { step := t.step, update := t.update, waiting := (s.shardList fn).map shardIndex } else o.digest })
  let s := (s.setFld .OPT_STAT_STATE fn 0 (if due then optDigest else optIdle)).optStat fn
  let s := if !fresh then s else match t.action with
    | 1 => (s.setFld .OPT_EVT_CLIP_EVT fn 0 1).fnEvent fn 4 .OPT_EVT_APPLIED_EVT fn
    | 2 => s.fnEvent fn 4 .OPT_EVT_REJECT_EVT fn
    | _ => s.fnEvent fn 4 .OPT_EVT_APPLIED_EVT fn
  match (s.fnState fn).step with
  | none => s
  | some v =>
    match v.point with
    | .committed => s.stepNext fn t.action .ok t (s.opt fn).scale true
    | .recovering => if recovering then s.attemptStart fn else s
    | .running => s.modOpt fn (fun o => { o with early := some t })
    | _ => s

/-- The commit word of a shard, read; none where the read fails. -/
def State.readCommit (s : State) (fn : Nat) (r : List Byte) : State × Option CommitWord :=
  let (s, a) := s.devRead .islet fn (shardBase r) 32
  (s, if a.status = .ok then some (commitOf a.data) else none)

/-- Write a commit word as one sector: the state after, and the status. -/
def State.writeCommit (s : State) (fn : Nat) (r : List Byte) (w : CommitWord) : State × Status :=
  s.devWrite .islet fn (shardBase r) w.bytes

/-- REJECT: advance the commit word of every shard that is not current, in index order (R354): the first status that is not OK of a
read or a write. Log entry 40. -/
def State.rejectShards (s : State) (fn : Nat) (t : Ticket) : State × Status :=
  (s.shardList fn).foldl (fun acc r =>
    if acc.2 ≠ .ok then acc else
    let (s, w) := acc.1.readCommit fn r
    match w with
    | some w => if w.inPlaceOpen then (s, .ok) else s.writeCommit fn r { w with step := t.step }
    | none => (s, .uncorrectableMem)) (s, .ok)

/-- Shard updates start once released: at once where the shards lie on one isle die, else by the step commit broadcast, which
the norm island's die issues while it holds an epoch and reaches the harbour (R356, R440, R442). Log entry 40. -/
def State.optRelease (s : State) (fn : Nat) : State :=
  let dies := ((s.shardList fn).map (fun r => islDie (shardIslet r))).eraseDups
  if dies.length ≤ 1 then s.modOpt fn (fun o => { o with released := true })
  else
    let die := s.normIsland fn
    if s.heldEpoch die = 0 ∨ s.straitState (18 + die) = 3 then s
    else
      let (s, a) := s.issueAction (.commit fn) die (s.heldEpoch die) dies
      s.modOpt fn (fun o => { o with broadcast := some a })

/-- Shards are updated: by a step, or by a recovery, which a TORN shard leaves STOPPED (R363, R364). -/
def State.optUpdates (s : State) (fn : Nat) : Bool :=
  s.optState fn == optUpdating || s.optState fn == optRecovering || (s.optState fn == optStopped && (s.opt fn).recovering)

/-- An optimiser waits for the token to broadcast a step commit. -/
def State.optWaits (s : State) (fn : Nat) : Bool :=
  let o := s.opt fn
  s.optUpdates fn && o.broadcast.isNone && !o.released && o.adopting.isNone && o.waits == 0

/-- The address of the learning rate of update `u` (R354). -/
def lrAt (c : List Byte) (u : Nat) : Nat := bytesAt c 0x30 8 + 4 * min (u - 1) (bytesAt c 0x2C 4 - 1)

/-- FAIL: the first job's POLICY for NONFINITE, applied to every job, its scale that of the row of R340 (R354, R388). -/
def State.optFail (s : State) (fn : Nat) : State :=
  let xs := s.optJobs fn
  let x := xs.head?.getD 0
  let scale := (s.opt fn).scale
  let policy := jobRepeats (s.job x).recd
  let (act, _, cause) := s.jobDecide x .nonfinite policy
  let s := xs.foldl (fun s y =>
    let sc := s.fld .RED_JOB_SCALE_LOSS_SCALE y
    s.jobApply y act (if policy then scaleHalf sc else sc) cause .nonfinite) s
  let recovering := (s.opt fn).recovering
  let s := (s.setFld .OPT_STAT_STATE fn 0 optIdle).modOpt fn (fun o => { o with retains := false, recovering := false, ending := false })
  match (s.fnState fn).step with
  | some v => match v.point with
    | .committed => s.stepEndsAs fn act 7 .nonfinite scale
    | .recovering => if recovering then s.attemptStart fn else s
    | .running => s.modOpt fn (fun o => { o with early := some { action := 3 } })
    | _ => s
  | none => s

/-- The learning rate of update `u`, which APPLY and CLIP alone read (R354). -/
def State.readLr (s : State) (fn u : Nat) (live : Bool) : State × Answer :=
  if live then s.devRead .islet fn (lrAt (s.optCfg fn) u) 4 else (s, {})

/-- What the decision reads does not wait, and the ticket, and the commit words that a REJECT advances, can be written: the second
part, with the state after (R232, R241). -/
def State.normRoom (s : State) (fn : Nat) : State × Bool :=
  let c := s.optCfg fn
  let writes := optTicketAddr c :: (if optPolicy c = 2 then (s.shardList fn).map shardBase else [])
  let (s, room) := writes.foldl (fun (acc : State × Bool) a =>
    let (s, b) := acc.1.prepareWrite fn a 32
    (s, acc.2 && b)) (s, true)
  (s, room && s.rangeReady fn (optNormIn c) (32 * optQ c) && s.rangeReady fn (lrAt c ((s.opt fn).lastGen + 1)) 4)

/-- The decision is formed and the ticket written before any shard is touched (R354, R355). Log entry 40. -/
def State.normDecision (s : State) (fn : Nat) : State :=
  let c := s.optCfg fn
  let o := s.opt fn
  let (s, a) := s.devRead .islet fn (optNormIn c) (32 * optQ c)
  let u := o.lastGen + 1
  if a.status ≠ .ok then s.optStop fn a.status
  else
    let sum := (List.range (optQ c)).foldl (fun p q => (fp64Add p (bytesAt a.data (32 * q + 16) 8)).1) 0
    let (act, norm, k) := normDecide sum o.scale (bytesAt c 0x28 4) (bytesAt c 0x20 8) (optPolicy c)
    let live := decide (act ≤ 1)
    let (s, lr) := s.readLr fn u live
    if lr.status ≠ .ok then s.optStop fn lr.status else
    let t : Ticket := { step := o.step, update := if live then u else o.lastGen, action := act, norm := norm,
                        k := if live then k else 0, lr := if live then leNat lr.data else 0,
                        c1 := if live then biasScale (bytesAt c 0x10 4) u else 0,
                        c2 := if live then biasScale (bytesAt c 0x14 4) u else 0 }
    let (s, st) := s.devWrite .islet fn (optTicketAddr c) (ticketBytes t)
    if st ≠ .ok then s.optStop fn st else
    let s := s.modOpt fn (fun o => { o with ticket := some t, undecided := false, waits := 0, ending := true })
    let s := (s.setFld .OPT_UPDATES_UPDATE_NO fn 0 t.update).setReg .OPT_NORM fn 0 (BitVec.ofNat 64 norm)
    let s := (s.setFld .OPT_SCALE_K fn 0 t.k).setFld .OPT_SCALE_LR fn 0 t.lr
    let s := s.setFld .OPT_STAT_LAST_STATUS fn 0 (if act = 3 then statusCode .nonfinite else 0)
    match act with
    | 3 => s.optFail fn
    | 2 =>
      match (s.satFld .OPT_UPDATES_REJECTED fn 0 1).rejectShards fn t with
      | (s, .ok) => s.optDone fn t
      | (s, st) => s.optStop fn st
    | _ =>
      let s := if act = 1 then s.satFld .OPT_UPDATES_CLIPPED fn 0 1 else s
      let s := s.modOpt fn (fun o => { o with shards := (s.shardList fn).foldl (fun st r => storeSet 0 st (shardIndex r) 1) [] })
      ((s.setFld .OPT_STAT_STATE fn 0 optUpdating).setFld .OPT_STAT_FLAGS fn 0 0).optStat fn |>.optRelease fn

/-- The close of the norm window. -/
def State.normClose (s : State) (fn : Nat) : Nat := (s.opt fn).normOpened + 1000 * optNormKcyc (s.optCfg fn)

/-- The decision is formed once what it reads and writes has room; until then it waits for its pages, and a later entry's notice
finds them there. Log entry 40. -/
def State.normDecides (s : State) (fn : Nat) : State :=
  match s.normRoom fn with
  | (s, true) => s.normDecision fn
  | (s, false) => s.modOpt fn (fun o => { o with waits := 3 })

/-- The notice of a norm entry is accepted: inside the window an entry of the step counts as present from now on (R353). -/
def State.normNotice (s : State) (fn q : Nat) : State :=
  if s.normEntryIs fn q = true ∧ s.inWindow (s.normIsland fn) (s.normClose fn) = true then
    s.modOpt fn (fun o => { o with entries := (o.entries ++ [q]).eraseDups })
  else s

/-- A norm entry has been accepted: with all entries of the step present, each inside the window, the decision is formed (R353,
R354). -/
def execNormEntryAccepted (fn q : Nat) (s : State) : Result :=
  if s.optState fn = optNorm ∧ q < optQ (s.optCfg fn) then
    let s := s.normNotice fn q
    ok (if s.normPresent fn then s.normDecides fn else s)
  else ok s

/-- The norm window closes with an entry missing, or accepted too late: the optimiser enters STOPPED with LATE (R353). -/
def execNormTimeout (fn : Nat) (s : State) : Result :=
  if s.optState fn = optNorm ∧ s.normPresent fn = false then
    ok ((s.reachCount (s.normIsland fn) (s.normClose fn)).optStop fn .late)
  else ok s

/-! ## Shard updates (R358-R361) -/

/-- A shard may start: it is pending and its islet's first, updates are released, the islet is free of phases and updates, no
running COPY request reads the shard, its digest read is complete (R360, R361). -/
def State.shardMayStart (s : State) (fn : Nat) (r : List Byte) : Bool :=
  let f := s.fnState fn
  let c := f.optCfg
  let i := shardIslet r
  let lo := shardBase r
  let hi := shardSlot c r (if shardInPlace r then 1 else 2) 0
  s.optUpdates fn && f.optim.released && s.shardState fn (shardIndex r) == 1 &&
  (s.shardList fn).all (fun x => shardIslet x != i || decide (shardIndex r ≤ shardIndex x) || s.shardState fn (shardIndex x) != 1) &&
  !s.isletActive i && (s.islet i).task.isNone && (s.islet i).allDone &&
  f.stageSlots.all (fun k => (s.stage fn k).running.isNone || !(stageIslets (s.stageRecOf fn k)).contains i) &&
  (match f.mig.run with
   | some m => migOp m.req != 4 || m.status.isSome || decide (m.req.w2 + migPages m.req * 65536 ≤ lo) || decide (hi ≤ m.req.w2)
   | none => true) &&
  (match f.optim.digest with
   | some d => !d.waiting.contains (shardIndex r)
   | none => true)

/-- A shard whose read or write fails stops the optimiser; with an uncorrectable read its state says so. -/
def State.shardFails (s : State) (fn i : Nat) (st : Status) : State :=
  (s.setShard fn i (if st = .uncorrectableMem then 4 else 1)).optStop fn st

/-- A shard's update has begun: its commit word says that its copies are not valid, and its islet works for it (R359, R361). -/
def State.shardBegins (s : State) (fn shard : Nat) (r : List Byte) (w : CommitWord) : State :=
  match s.writeCommit fn r { w with copyValid := false, inPlaceOpen := w.inPlaceOpen || shardInPlace r } with
  | (s, .ok) => (s.modIslet (shardIslet r) (fun x => { x with task := some (.update fn shard) })).setShard fn shard 2
  | (s, st) => s.shardFails fn shard st

/-- All shards of the ticket are current. -/
def State.optAllCurrent (s : State) (fn : Nat) : Bool := (s.opt fn).shards.isEmpty

/-- A shard is current. With the last one the step ends; with TORN shards only left, the recovery does (R363, R364). -/
def State.shardCurrent (s : State) (fn shard : Nat) (t : Ticket) : State :=
  let s := s.setShard fn shard 0
  if s.optAllCurrent fn then s.optDone fn t
  else if (s.opt fn).shards.all (fun e => e.2 == 3) then s.modOpt fn (fun o => { o with recovering := false, broadcast := none, released := false })
  else s

/-- A shard's new slot and copies are written tile by tile, and then, every write accepted, the slot named by its commit word; its
window is free. A failing read or write stops the optimiser: what the tiles have written so far stands (R357-R361). Log entry 40. -/
def State.shardCommits (s : State) (fn shard : Nat) (r : List Byte) (t : Ticket) (w : CommitWord) (slot : Nat) : State :=
  let c := s.optCfg fn
  let target := targetSlot r slot
  let (s, _, f, st) := s.shardTiles fn c r t slot target (shardTileCount r)
  let done (s : State) : State :=
    ((s.optFlags fn f).freeWindow (shardIslet r) (shardWindow r)).modIslet (shardIslet r) (fun x => { x with task := none })
  if st ≠ .ok then (done s).shardFails fn shard st
  else
    match s.writeCommit fn r { w with step := t.step, slot := if shardInPlace r then w.slot else target, gen := t.update,
                                      copyValid := true, inPlaceOpen := if shardInPlace r then false else w.inPlaceOpen } with
    | (s, .ok) => (done s).shardCurrent fn shard t
    | (s, st) => (done s).shardFails fn shard st

/-- The writes of a shard's commit have room, and its reads do not wait (R237, R241): the second part, with the state after. -/
def State.shardRoom (s : State) (fn : Nat) (r : List Byte) (slot : Nat) : State × Bool :=
  let c := s.optCfg fn
  let reads := (shardGrad r, 4 * shardN r) :: (List.range (1 + optMoments c)).map (fun i => (shardSlot c r slot i, 4 * shardN r))
  let room := ((shardBase r, 32) :: shardTargets c r slot).foldl (fun (acc : State × Bool) x =>
    let (s, b) := acc.1.prepareWrite fn x.1 x.2
    (s, acc.2 && b)) (s, true)
  if reads.all (fun x => s.rangeReady fn x.1 x.2) then room else (room.1, false)

/-- Every tile of a shard's update has been written, and its commit word names the new slot (R358, R359). The last shard ends
the step. -/
def execShardCommit (fn shard : Nat) (s : State) : Result :=
  match (s.fnState fn).shardRec shard, (s.opt fn).ticket with
  | some r, some t =>
    if s.shardState fn shard ≠ 2 then ok s else
    let slot := s.shardCurSlot fn r
    let (s', ready) := s.shardRoom fn r slot
    if !ready then ok s' else
    match s'.readCommit fn r with
    | (s, some w) => ok (s.shardCommits fn shard r t w slot)
    | (s, none) => ok (s.shardFails fn shard .uncorrectableMem)
  | _, _ => ok s

/-! ## Recovery (R363, R364) -/

/-- A TORN shard stops the optimiser (R364). Log entry 40. -/
def State.optTorn (s : State) (fn : Nat) : State := (s.fnEvent fn 4 .OPT_EVT_TORN_EVT fn).optStop fn .torn

/-- The optimiser stops with a status; a shard that has become TORN makes it TORN, with its event (R364). -/
def State.optStopTorn (s : State) (fn : Nat) (st : Status) : State := if s.optHasTorn fn then s.optTorn fn else s.optStop fn st

/-- Recovery or adoption works: RECOVERING, or STOPPED while a shard is TORN (R364). -/
def State.optShowsWork (s : State) (fn : Nat) : State :=
  if s.optHasTorn fn then (s.setFld .OPT_STAT_STATE fn 0 optStopped).optLast fn .torn else s.setFld .OPT_STAT_STATE fn 0 optRecovering

/-- The shards whose commit words a recovery advances, its ticket being of action REJECT (R363). -/
def State.optAdvances (s : State) (fn : Nat) : List (List Byte) :=
  let t := ticketOf (s.peek fn (optTicketAddr (s.optCfg fn)) 32)
  (s.shardList fn).filter (fun r =>
    let w := commitOf (s.peek fn (shardBase r) 32)
    t.action == 2 && s.shardState fn (shardIndex r) != 3 && !w.inPlaceOpen && !(w.step == t.step && w.copyValid))

/-- What a recovery reads does not wait, and what it advances can be written: the second part, with the state after (R232,
R241). -/
def State.optRoom (s : State) (fn : Nat) : State × Bool :=
  let (s, room) := (s.optAdvances fn).foldl (fun (acc : State × Bool) r =>
    let (s, b) := acc.1.prepareWrite fn (shardBase r) 32
    (s, acc.2 && b)) (s, true)
  (s, room && s.rangeReady fn (optTicketAddr (s.optCfg fn)) 32 && (s.shardList fn).all (fun r => s.rangeReady fn (shardBase r) 32))

/-- Recovery visits one shard: a TORN one stays so; a current one is so; an update left open in place makes it TORN; REJECT advances
its commit word; else it is pending. The status of a failing read or write (R363, R364). -/
def State.optVisit (s : State) (fn : Nat) (t : Ticket) (r : List Byte) : State × Status :=
  let i := shardIndex r
  if s.shardState fn i = 3 then (s, .ok) else
  match s.readCommit fn r with
  | (s, none) => (s.setShard fn i 4, .uncorrectableMem)
  | (s, some w) =>
    if w.step = t.step ∧ w.copyValid then (s.setShard fn i 0, .ok)
    else if w.inPlaceOpen then (s.setShard fn i 3, .ok)
    else if t.action = 2 then
      match s.writeCommit fn r { w with step := t.step } with
      | (s, .ok) => (s.setShard fn i 0, .ok)
      | (s, st) => (s.setShard fn i 1, st)
    else (s.setShard fn i 1, .ok)

/-- A recovery that has visited its shards: all current, the step is done; with a TORN one the optimiser is STOPPED, and what is
pending is updated all the same (R363, R364). Log entry 40. -/
def State.optVisited (s : State) (fn : Nat) (t : Ticket) : State :=
  if s.optAllCurrent fn then s.optDone fn t
  else if s.optHasTorn fn then
    let s := s.optTorn fn
    if (s.opt fn).shards.any (fun e => e.2 == 1) then (s.modOpt fn (fun o => { o with recovering := true })).optRelease fn else s
  else s.optRelease fn

/-- Recovery against the ticket in memory: FAIL touches no shard; else shards are visited in index order (R363). -/
def State.optRecovers (s : State) (fn : Nat) : State :=
  let (s, a) := s.devRead .islet fn (optTicketAddr (s.optCfg fn)) 32
  if a.status ≠ .ok then s.optStop fn a.status else
  let t := ticketOf a.data
  let t := match (s.opt fn).ticket with
    | some o => if o.step = t.step then { t with norm := o.norm } else t
    | none => t
  let s := s.modOpt fn (fun o => { o with ticket := some t, recovering := true, undecided := false, waits := 0 })
  if t.action = 3 then
    let s := s.modOpt fn (fun o => { o with recovering := false, retains := false })
    let s := if s.optHasTorn fn then s.setFld .OPT_STAT_STATE fn 0 optStopped
      else (s.setFld .OPT_STAT_STATE fn 0 optIdle).optLast fn .nonfinite
    match (s.fnState fn).step with
    | some v =>
      if v.point ≠ .recovering then s
      else if s.optHasTorn fn then (s.modStep fn (fun v => { v with point := .ending .torn })).stepStat fn
      else s.attemptStart fn
    | none => s
  else
    let (s, st) := (s.shardList fn).foldl (fun (acc : State × Status) r =>
      if acc.2 ≠ .ok then acc else acc.1.optVisit fn t r) (s, .ok)
    if st ≠ .ok then s.optStopTorn fn st else s.optVisited fn t

/-- Recovery begins: what an earlier one still updated is interrupted; it runs once the pages it reads do not move (R232, R363). Log
entry 40. -/
def State.optRecover (s : State) (fn : Nat) : State :=
  let s := (s.optInterrupt fn).modOpt fn (fun o => { o with recovering := true, broadcast := none, released := false, adopting := none, waits := 1 })
  let s := s.optShowsWork fn
  match s.optRoom fn with
  | (s, true) => s.optRecovers fn
  | (s, false) => s

/-- Recovery of a step that was interrupted before its ticket: the decision is formed again from the retained result records and the
NORM_IN entries, in a window that opens anew; of any other, from the ticket (R362, R363). Log entry 40. -/
def State.optResumes (s : State) (fn : Nat) : State :=
  if (s.opt fn).undecided then
    let s := (s.modOpt fn (fun o => { o with undecided := false, recovering := true, waits := 0 })).normOpen fn
    let s := s.setFld .OPT_STAT_STATE fn 0 optNorm
    if s.normPresent fn then s.normDecides fn else s
  else s.optRecover fn

/-- A shard's update starts with the first commit-word write (R359, R361); a recovery that waited for pages goes on first. Records
that break R370 are unpredictable within the partition. -/
def execShardUpdateStart (fn shard : Nat) (s : State) : Result :=
  match (s.fnState fn).shardRec shard with
  | none => ok s
  | some r =>
    if (s.opt fn).waits = 1 then
      match s.optRoom fn with
      | (s, true) => ok (s.optRecovers fn)
      | (s, false) => ok s
    else if s.shardMayStart fn r = false then ok s
    else if (s.fnState fn).optLegal = false then .fault (.unpredictable fn)
    else
      match s.prepareWrite fn (shardBase r) 32 with
      | (s, false) => ok s
      | (s, true) =>
        match s.readCommit fn r with
        | (s, none) => ok (s.shardFails fn shard .uncorrectableMem)
        | (s, some w) => ok (s.shardBegins fn shard r w)

/-! ## Adoption (R368, R369) -/

/-- The commit words of all shards, read. -/
def State.commitWords (s : State) (fn : Nat) : State × List (Nat × Option CommitWord) :=
  (s.shardList fn).foldl (fun acc r =>
    let (s, w) := acc.1.readCommit fn r
    (s, acc.2 ++ [(shardIndex r, w)])) (s, [])

/-- ADOPT reads every commit word: refused where STEP or GEN differ; else shards with an open in-place update are TORN and
copies not valid are to be regenerated (R368). -/
def State.adoptNow (s : State) (fn : Nat) : State :=
  let (s, ws) := (s.modOpt fn (fun o => { o with waits := 0 })).commitWords fn
  let words := ws.filterMap Prod.snd
  let first := words.head?.getD {}
  if words.length < ws.length then s.optLast fn .uncorrectableMem
  else if words.any (fun w => w.step != first.step || w.gen != first.gen) then s.optLast fn .aborted
  else
    let torn := ws.filter (fun e => e.2.any (·.inPlaceOpen))
    let stale := ws.filter (fun e => e.2.any (fun w => !w.copyValid))
    let s := (s.optInterrupt fn).modOpt fn (fun o =>
      { o with shards := torn.foldl (fun st e => storeSet 0 st e.1 3) [], adopting := some (stale.map Prod.fst), undecided := false,
               recovering := false, broadcast := none, released := false })
    (s.optShowsWork fn).optStat fn

/-- ADOPT begins, or waits for header pages that move (R232). Log entry 40. -/
def State.adoptStarts (s : State) (fn : Nat) : State :=
  if (s.shardList fn).all (fun r => s.rangeReady fn (shardBase r) 32) then s.adoptNow fn
  else s.modOpt fn (fun o => { o with waits := 2 })

/-- A write of OPT_CTL adopts: ADOPT in UNLOADED, IDLE or STOPPED (R368). -/
def State.optAdopts (s : State) (fn : Nat) (w : Word) : Bool :=
  s.fnLive fn && !(s.optCfg fn).isEmpty && bit w.toNat 1 && s.optRests fn

/-- RECOVER: a sequence that has no ticket yet is as interrupted before it, its decision formed again; any other work is taken up
from the ticket (R362, R363; DESIGN CHOICE, log entry 40). -/
def State.optRecoverNow (s : State) (fn : Nat) : State :=
  let before := s.optState fn == optNorm
  (s.modOpt fn (fun o => { o with undecided := o.undecided || before })).optResumes fn

/-- A write of OPT_CTL: RECOVER but in UNLOADED, ADOPT in UNLOADED, IDLE or STOPPED. A write with both acts on ADOPT; an ADOPT at
work goes on (R363, R368, R369). Log entries 17 and 40. -/
def State.writeOptCtl (s : State) (fn : Nat) (w : Word) : State :=
  if s.optAdopts fn w then s.adoptStarts fn
  else if s.fnLive fn ∧ (s.optCfg fn).isEmpty = false ∧ bit w.toNat 1 = false ∧ bit w.toNat 0 = true ∧ (s.opt fn).waits ≠ 2 ∧
      (s.opt fn).adopting = none ∧ s.optState fn ≠ optUnloaded then s.optRecoverNow fn
  else s

/-- A compute copy of a shard is not what regeneration from its named slot writes (R347). -/
def State.copyStale (s : State) (fn : Nat) (r : List Byte) (w : CommitWord) : Bool :=
  (shardCopies r).any (fun e =>
    let d := e.2
    let ws := words32 (s.peek fn (shardSlot (s.optCfg fn) r w.slot 0) (4 * shardN r))
    let (bs, sc, _) := copyOf (copyFmt d) (copyRnd d) (copySat d) (copyAxis d) (copyRowLen d) (copyDraw r e.1 w.gen) ws
    s.peek fn (copyAddr d) bs.length != bs || s.peek fn (copyScaleAddr d) sc.length != sc)

/-- ADOPT is unpredictable within the partition: the records break R370, or a copy marked valid is not what regeneration wrote
(R368). Log entry 28. -/
def State.adoptBroken (s : State) (fn : Nat) : Bool :=
  !(s.fnState fn).optLegal ||
  (let ws := (s.shardList fn).map (fun r => (r, commitOf (s.peek fn (shardBase r) 32)))
   let first := (ws.head?.map Prod.snd).getD {}
   ws.all (fun e => e.2.step == first.step && e.2.gen == first.gen) && ws.any (fun e => e.2.copyValid && s.copyStale fn e.1 e.2))

/-- What a write of OPT_CTL comes to. -/
def State.optCtlResult (s : State) (fn : Nat) (w : Word) : Result :=
  if s.optAdopts fn w && s.adoptBroken fn then .fault (.unpredictable fn) else ok (s.writeOptCtl fn w)

/-- A write of OPT_CTL.RECOVER (R363). -/
def execOptRecover (fn : Nat) (w : Word) (s : State) : Result := s.optCtlResult fn w

/-- A write of OPT_CTL.ADOPT (R368). -/
def execOptAdopt (fn : Nat) (w : Word) (s : State) : Result := s.optCtlResult fn w

/-- The copies that ADOPT has to regenerate: room for the writes, and the state after it; what it reads does not wait (R232,
R368). -/
def State.adoptRoom (s : State) (fn : Nat) (recs : List (List Byte)) : State × Bool :=
  let (s, room) := recs.foldl (fun (acc : State × Bool) r =>
    let targets := (shardBase r, 32) :: (shardCopies r).flatMap (fun e =>
      [(copyAddr e.2, copyBytes r e.2), (copyScaleAddr e.2, copyScales r e.2)])
    targets.foldl (fun (acc : State × Bool) x =>
      let (s, b) := acc.1.prepareWrite fn x.1 x.2
      (s, acc.2 && b)) acc) (s.prepareWrite fn (optTicketAddr (s.optCfg fn)) 32)
  (s, room && recs.all (fun r => s.rangeReady fn (shardSlot (s.optCfg fn) r (s.shardCurSlot fn r) 0) (4 * shardN r)))

/-- ADOPT regenerates the copies of the shards listed, and marks them valid (R368, R369). -/
def State.adoptCopies (s : State) (fn : Nat) (recs : List (List Byte)) : State × Status :=
  recs.foldl (fun (acc : State × Status) r =>
    if acc.2 ≠ .ok then acc else
    match acc.1.readCommit fn r with
    | (s, none) => (s, .uncorrectableMem)
    | (s, some w) =>
      let (s, a) := s.devRead .islet fn (shardSlot (s.optCfg fn) r w.slot 0) (4 * shardN r)
      if a.status ≠ .ok then (s, a.status)
      else match s.regenerate fn r w.gen (words32 a.data) with
        | (s, _, .ok) => s.writeCommit fn r { w with copyValid := true }
        | (s, _, st) => (s, st)) (s, .ok)

/-- The state of an optimiser that has adopted its shards: a ticket of action REJECT, OPT_STEP and UPDATE_NO of the first commit
word, IDLE or STOPPED with TORN (R368, R369). Log entry 40. -/
def State.adopted (s : State) (fn : Nat) : State :=
  let first := ((s.shardList fn).head?.map (fun r => commitOf (s.peek fn (shardBase r) 32))).getD {}
  let t : Ticket := { step := first.step, update := first.gen, action := 2 }
  match s.devWrite .islet fn (optTicketAddr (s.optCfg fn)) (ticketBytes t) with
  | (s, .ok) =>
    let s := s.modOpt fn (fun o => { o with adopting := none, ticket := some t, lastGen := first.gen, commits := [], digest := none,
                                            retains := false, ending := false })
    let s := (s.setReg .OPT_STEP fn 0 (BitVec.ofNat 64 t.step)).setFld .OPT_UPDATES_UPDATE_NO fn 0 t.update
    let s := (s.setFld .OPT_SCALE_K fn 0 0).setFld .OPT_SCALE_LR fn 0 0
    if s.optHasTorn fn then s.optTorn fn
    else (s.setFld .OPT_STAT_STATE fn 0 optIdle).setFld .OPT_STAT_LAST_STATUS fn 0 0
  | (s, st) => (s.modOpt fn (fun o => { o with adopting := none })).optStopTorn fn st

/-- ADOPT's regeneration finishes: copies valid, ticket of action REJECT written, OPT_STEP adopted, IDLE or STOPPED with TORN
(R368, R369). An ADOPT that waited for header pages begins first. -/
def execAdoptRegenerationDone (fn : Nat) (s : State) : Result :=
  match (s.opt fn).adopting with
  | none =>
    if (s.opt fn).waits ≠ 2 then ok s
    else if s.adoptBroken fn then .fault (.unpredictable fn)
    else ok (s.adoptStarts fn)
  | some stale =>
    let recs := (s.shardList fn).filter (fun r => stale.contains (shardIndex r))
    match s.adoptRoom fn recs with
    | (s, false) => ok s
    | (s, true) =>
      match s.adoptCopies fn recs with
      | (s, .ok) => ok (s.adopted fn)
      | (s, st) => ok ((s.modOpt fn (fun o => { o with adopting := none })).optStopTorn fn st)

/-! ## Replica digests (R365, R366) -/

/-- A digest record. -/
def digestRecord (step update round verdict first : Nat) (digest : List Byte) : List Byte :=
  leBytes 8 step ++ leBytes 4 update ++ leBytes 1 round ++ leBytes 1 verdict ++ leBytes 1 first ++ leBytes 17 0 ++
    (digest ++ List.replicate 64 0).take 64 ++ leBytes 32 0

/-- Send a digest record to the next rank. -/
def State.digestSend (s : State) (fn round verdict first : Nat) (d : DigestRun) (digest : List Byte) : State :=
  let (ranks, me) := s.optRing fn
  let next := ranks.getD ((me + 1) % max 1 ranks.length) (0, 0)
  if s.wayUp next.1 = false then s.optStop fn .linkDown else
  s.peerWrite fn next.1 next.2 (optDigestIn (s.optCfg fn) + 128 * (round - 1)) (digestRecord d.step d.update round verdict first digest)

/-- The comparison of a digest ends: with a match the optimiser is IDLE again; a mismatch stops it with DIVERGED. -/
def State.digestEnd (s : State) (fn verdict first : Nat) (d : DigestRun) : State :=
  let s := s.modOpt fn (fun o => { o with digest := none })
  if verdict = 1 then
    let s := (s.setFld .OPT_DIVERGE_FIRST_RANK fn 0 first).setFld .OPT_DIVERGE_STEP fn 0 d.step
    (s.fnEvent fn 4 .OPT_EVT_DIVERGED_EVT fn).optStop fn .diverged
  else if s.optState fn = optDigest then s.setFld .OPT_STAT_STATE fn 0 optIdle
  else s

/-- The close of the digest window. -/
def State.digestClose (s : State) (fn : Nat) (d : DigestRun) : Nat := d.opened + 1000 * optDigestKcyc (s.optCfg fn)

/-- Handle the record of a round that stands in DIGEST_IN, if it is of the step and its window is open. -/
def State.digestRound (s : State) (fn round : Nat) : State :=
  match (s.opt fn).digest with
  | none => s
  | some d =>
    match d.own with
    | none => s
    | some own =>
      let (ranks, me) := s.optRing fn
      let n := ranks.length
      let r := s.peek fn (optDigestIn (s.optCfg fn) + 128 * (round - 1)) 128
      let carried := (r.drop 0x20).take 64
      let verdict := bytesAt r 0xD 1
      let first := bytesAt r 0xE 1
      if bytesAt r 0 8 ≠ d.step ∨ bytesAt r 8 4 ≠ d.update ∨ bytesAt r 0xC 1 ≠ round ∨
          s.inWindow (s.normIsland fn) (s.digestClose fn d) = false ∨ n < 2 then s
      else if round = 1 then
        if me = 0 then (s.digestSend fn 2 verdict first d carried).digestEnd fn verdict first d
        else if verdict = 0 ∧ carried ≠ own then s.digestSend fn 1 1 me d carried
        else s.digestSend fn 1 verdict first d carried
      else if me = 0 then s
      else
        let s := if me + 1 = n then s else s.digestSend fn 2 verdict first d carried
        s.digestEnd fn verdict first d

/-- The device digest is formed from the last of its reads: its window opens, and rank 0 begins round 1 (R365, R366). -/
def State.digestFormed (s : State) (fn : Nat) (d : DigestRun) : State :=
  let own := shake256 64 (d.got.flatMap Prod.snd)
  let d := { d with own := some own, opened := s.count (s.normIsland fn) }
  let s := s.modOpt fn (fun o => { o with digest := some d })
  let s := (List.range 8).foldl (fun s j => s.setReg .OPT_DIGEST fn j (BitVec.ofNat 64 (bytesAt own (8 * j) 8))) s
  let (ranks, me) := s.optRing fn
  if ranks.length < 2 then s.digestEnd fn 0 0 d
  else if me = 0 then s.digestSend fn 1 0 0 d own
  else s.digestRound fn 1

/-- A shard's master has been read for the digest. With the last read the device digest is formed, its window opens, and rank 0
begins round 1; a record that came earlier is handled now (R365, R366). -/
def execShardDigestReadDone (fn shard : Nat) (s : State) : Result :=
  match (s.opt fn).digest, (s.fnState fn).shardRec shard with
  | some d, some r =>
    if d.waiting.contains shard = false then ok s else
    let a0 := shardSlot (s.optCfg fn) r (s.shardCurSlot fn r) 0
    if s.rangeReady fn a0 (4 * shardN r) = false then ok s else
    let (s, a) := s.devRead .islet fn a0 (4 * shardN r)
    if a.status ≠ .ok then ok (s.optStop fn a.status) else
    let d := { d with waiting := d.waiting.erase shard, got := storeSet [] d.got shard (shake256 64 a.data) }
    if d.waiting ≠ [] then ok (s.modOpt fn (fun o => { o with digest := some d }))
    else ok (s.digestFormed fn d)
  | _, _ => ok s

/-- A digest record is accepted in DIGEST_IN (R366). -/
def execDigestRecordAccepted (fn round : Nat) (s : State) : Result :=
  if round = 1 ∨ round = 2 then ok (s.digestRound fn round) else ok s

/-- The digest window closes with a record missing: the optimiser stops with LATE (R366). -/
def execDigestTimeout (fn : Nat) (s : State) : Result :=
  match (s.opt fn).digest with
  | some d =>
    if d.own.isSome then ok ((s.reachCount (s.normIsland fn) (s.digestClose fn d)).optStop fn .late) else ok s
  | none => ok s

end Sys2Proof.Machine
end

