-- ==== Sys2Proof/Machine/Load.lean ====
section
/-! DEFINITION. Loads: their states, their targets, the work they wait for or abort, and how they end (R47-R75). -/

namespace Sys2Proof.Machine

/-! ## Load states (R51) -/

def loadIdle : Nat := 0
def loadCheckState : Nat := 1
def loadStage : Nat := 2
def loadWaitIdle : Nat := 3
def loadQuiesce : Nat := 4
def loadWrite : Nat := 5
def loadActivate : Nat := 6
def loadDone : Nat := 7
def loadRefused : Nat := 8
def loadFailed : Nat := 9

/-- The state of a function's loader. -/
def State.loadState (s : State) (fn : Nat) : Nat := s.fld .IMG_LOAD_STAT_STATE fn

/-- A load is between CHECK and ACTIVATE. -/
def State.loading (s : State) (fn : Nat) : Bool := s.fld .IMG_LOAD_STAT_BUSY fn == 1

/-- The load last started. -/
def State.load (s : State) (fn : Nat) : Load := (s.fnState fn).load

/-- Change the load. -/
def State.modLoad (s : State) (fn : Nat) (g : Load → Load) : State := s.modFn fn (fun f => { f with load := g f.load })

/-- The load enters a state. -/
def State.enterLoad (s : State) (fn st : Nat) : State := s.setFld .IMG_LOAD_STAT_STATE fn 0 st

/-- The target atolls of a load, as a mask (R57). Log entry 30. -/
def State.loadAtolls (s : State) (fn : Nat) : Nat := if (s.load fn).atoll then (s.load fn).sel else s.atollsOf fn

/-- The target stacks of a load, as a mask (R57). -/
def State.loadStacks (s : State) (fn : Nat) : Nat := if (s.load fn).atoll then 0 else s.stacksOf fn

/-- The isle dies that a load's targets span: a stack counts on the die that carries its controllers (R63). -/
def State.loadDies (s : State) (fn : Nat) : List Nat :=
  ((setBits (s.loadAtolls fn) 24).map (· / 6) ++ (setBits (s.loadStacks fn) 8).map (· / 2)).eraseDups

/-- The atolls that training with an entry uses: those of the entry, the stages and the shard updates. -/
def State.trainAtolls (s : State) (fn : Nat) (entry : List Byte) : List Nat :=
  setBits (entryAtolls entry) 24 ++
  (s.fnState fn).stageSlots.flatMap (fun slot => (stageIslets (s.stageRecOf fn slot)).map islAtoll) ++
  (s.shardList fn).map (fun r => islAtoll (shardIslet r))

/-- Every atoll that training with an entry uses has a configuration (R68). -/
def State.trainLoaded (s : State) (fn : Nat) (entry : List Byte) : Bool :=
  (s.trainAtolls fn entry).all (bit (s.fld .IMG_CFG_STATE_ATOLLS_LOADED fn))

/-- The atolls that a step service uses. -/
def State.stepAtolls (s : State) (fn : Nat) : List Nat :=
  match (s.fnState fn).step with
  | none => []
  | some v => s.trainAtolls fn v.entry

/-- The atolls of an installed entry; none where no record carries the ENTRY_ID. -/
def State.idAtolls (s : State) (fn id : Nat) : List Nat :=
  match (s.fnState fn).entries.find? (fun e => entryId e == id) with
  | some e => setBits (entryAtolls e) 24
  | none => []

/-- The atolls that generation with GENERATE operands uses: those of its entries. -/
def State.entriesAtolls (s : State) (fn : Nat) (ops : List Byte) : List Nat :=
  [8, 0xA, 0xC, 0xE].flatMap (fun off => s.idAtolls fn (bytesAt ops off 2))

/-- The atolls that a generation service uses. -/
def State.genAtolls (s : State) (fn : Nat) : List Nat :=
  match (s.fnState fn).gen with
  | none => []
  | some g => s.entriesAtolls fn g.ops

/-- A list of atolls meets a mask. -/
def meetsMask (as : List Nat) (mask : Nat) : Bool := as.any (bit mask)

/-- A step is in progress (R54). Log entry 30. -/
def StepSvc.busy (v : StepSvc) : Bool := v.point == .running || v.point == .committed || v.point == .recovering

/-- The aborts of R56 are done: with FORCE, the step service that they end has completed (R55, R56). -/
def State.loadAborted (s : State) (fn : Nat) : Bool :=
  let l := s.load fn
  !l.force || (s.fnState fn).step.isNone || (l.atoll && !meetsMask (s.stepAtolls fn) (s.loadAtolls fn))

/-- Every target atoll is idle, and with FORCE the aborts are done (R54, R55). Log entry 30. -/
def State.loadTargetsIdle (s : State) (fn : Nat) : Bool :=
  let mask := s.loadAtolls fn
  s.loadAborted fn &&
  !s.launches.any (fun e => e.2.fn == fn && meetsMask (setBits (entryAtolls e.2.entry) 24) mask) &&
  !((s.fnState fn).step.any StepSvc.busy && meetsMask (s.stepAtolls fn) mask) &&
  !((s.fnState fn).gen.any (fun g => g.point != .boundary) && meetsMask (s.genAtolls fn) mask)

/-! ## Services end or hold -/

/-- A generation service ends with a status, its launches stopped. -/
def State.genKill (s : State) (fn : Nat) (st : Status) : State :=
  match (s.fnState fn).gen with
  | none => s
  | some g =>
    let s := s.modGen fn (fun g => { g with bad := some (g.bad.getD st) })
    (g.waiting.foldl (fun s lid => s.launchStop lid st) s).genEnd fn st false

/-- The step service has ended: its SERVICE_CTL commands and its own complete (R390). -/
def State.stepFinish (s : State) (fn : Nat) (st : Status) (stop : Bool) : State :=
  match (s.fnState fn).step with
  | none => s
  | some v =>
    let s := v.ctl.foldl (fun s c => s.completeCommand c.1 (ctlStatus st (stop && c.2 == 2)) 0 (leBytes 16 0)) s
    let s := s.completeCommand v.ref st v.lastOutcome (leBytes 8 v.lastStep ++ leBytes 4 v.consumed ++ leBytes 4 v.repeats)
    let s := (s.modFn fn (fun f => { f with step := none })).stepStat fn
    s.fnEvent fn 6 .SVC_EVT_STEP_END_EVT fn

/-- A step boundary: a stop ends the service, a pause holds it, a load holds it; else the next attempt
starts, unless an atoll it needs has lost its configuration (R54, R68, R383, R390). -/
def State.stepBoundary (s : State) (fn : Nat) : State :=
  match (s.fnState fn).step with
  | none => s
  | some v =>
    match v.point with
    | .ending st => if v.recs = [] then s.stepFinish fn st false else s
    | .between =>
      if v.recs ≠ [] then s
      else if v.ctl.any (fun c => c.2 == 2) then s.stepFinish fn .ok true
      else if v.ctl ≠ [] then
        let s := v.ctl.foldl (fun s c => s.completeCommand c.1 .ok 0 (leBytes 16 0)) s
        (s.modStep fn (fun v => { v with ctl := [], paused := true })).stepStat fn
      else if v.paused ∨ v.held then s
      else match s.entryFor fn (entryId v.entry) 1 with
        | some _ => if s.trainLoaded fn v.entry then s.attemptStart fn else s.stepFinish fn .aborted false
        | none => s.stepFinish fn .aborted false
    | _ => s

/-- A step service ends with a status: a step that runs is aborted, with step aborts sent; one past its vote is interrupted
in the optimiser; one between steps, with no record to write, completes at once (R56, R374, R388, R402). -/
def State.stepKill (s : State) (fn : Nat) (st : Status) : State :=
  match (s.fnState fn).step with
  | none => s
  | some v =>
    match v.point with
    | .running => s.abortStep fn st true
    | .committed => s.optStop fn st
    | .recovering => s.optStop fn st
    | .between => (((s.modStep fn (fun v => { v with point := .ending st })).stepStat fn).stepBoundary fn)
    | .ending _ => s.stepBoundary fn

/-- Services that end with others' work: the status they end with, whatever had happened to them before (R374, R381). -/
def State.servicesDoomed (s : State) (fn : Nat) (st : Status) : State :=
  (s.modGen fn (fun g => { g with bad := some st })).modStep fn (fun v => { v with point := match v.point with
    | .ending _ => .ending st
    | p => p })

/-- A step service that a load held goes on (R54). -/
def State.stepResume (s : State) (fn : Nat) : State := (s.modStep fn (fun v => { v with held := false })).stepBoundary fn

/-- On entry to WAIT_IDLE: with FORCE the work on the targets is aborted (R56); services that use them hold at their next
boundary (R54). Log entry 30. -/
def State.loadHolds (s : State) (fn : Nat) : State :=
  let l := s.load fn
  let mask := s.loadAtolls fn
  let step := meetsMask (s.stepAtolls fn) mask || !l.atoll
  let gen := meetsMask (s.genAtolls fn) mask || !l.atoll
  if l.force then
    let lids := (s.launches.filter (fun e => e.2.fn == fn && meetsMask (setBits (entryAtolls e.2.entry) 24) mask)).map Prod.fst
    let s := if step then s.stepKill fn .aborted else s
    let s := if gen then s.genKill fn .aborted else s
    lids.foldl (fun s lid => s.launchStop lid .aborted) s
  else
    let s := if step then s.modStep fn (fun v => { v with held := true }) else s
    if gen then s.modGen fn (fun g => { g with held := true }) else s

/-! ## The end of a load -/

/-- The targets of a load are cleared, and a whole image's channel units on the straits are discarded (R57.3, R57.4). -/
def State.loadClears (s : State) (fn : Nat) : State :=
  let s := (isletsOf (s.loadAtolls fn)).foldl (fun s i => s.clearIslet i) s
  if (s.load fn).atoll then s else s.dropCargo fn

/-- The targets of a load are cleared islets without configuration, and a whole image loses its base (R68, R483). Log entry 30. -/
def State.loadUnload (s : State) (fn : Nat) : State :=
  let whole := !(s.load fn).atoll
  let atolls := setBits (s.loadAtolls fn) 24
  let s := s.loadClears fn
  let s := atolls.foldl (fun s a => s.installAtoll [] [] a false) s
  let s := (setBits (s.loadStacks fn) 8).foldl (fun s k => s.installStack [] [] k false) s
  let s := s.setFld .IMG_CFG_STATE_ATOLLS_LOADED fn 0
    (maskOf ((setBits (s.fld .IMG_CFG_STATE_ATOLLS_LOADED fn) 24).filter (fun a => !atolls.contains a)))
  if whole then
    ((s.setFld .IMG_CFG_STATE_STACKS_LOADED fn 0 0).setFld .IMG_CFG_STATE_BASE fn 0 0).installWide fn [] []
  else s

/-- A load ends in DONE, REFUSED or FAILED with a CAUSE and a status (R51, R59, R65-R68): its command completes, what it held
goes on, its action and its place at the staging engine are given up. Log entry 30. -/
def State.loadEnd (s : State) (fn st cause : Nat) (status : Status) : State :=
  let l := s.load fn
  let s := if st = loadFailed then s.loadUnload fn else s
  let s := if st = loadDone then s.addFld .IMG_LOAD_STAT_LOAD_SEQ fn 0 1 else s
  let s := ((s.enterLoad fn st).setFld .IMG_LOAD_STAT_BUSY fn 0 0).setFld .IMG_LOAD_STAT_CAUSE fn 0 cause
  let s := s.setFld .IMG_LOAD_STAT_STATUS fn 0 (statusCode status)
  let s := s.setFld .IMG_LOAD_TIME_CYCLES fn 0 (min (s.count 16 - l.opened) (2 ^ 32 - 1))
  let s := match l.gate with
    | some a => s.dropAction a
    | none => s
  let s := if s.staging.head? = some fn then { s with stagingBusy := false } else s
  let s := { s with staging := s.staging.filter (· ≠ fn) }
  let s := s.modLoad fn (fun l => { l with cmd := none, gate := none, staged := [] })
  let s := s.fnEvent fn 0 (if st = loadDone then .IMG_EVT_DONE_EVT else .IMG_EVT_END_BAD_EVT) fn
  let s := match l.cmd with
    | some r => s.completeCommand r status cause (leBytes 4 (s.fld .IMG_LOAD_STAT_LOAD_SEQ fn) ++ leBytes 12 0)
    | none => s
  (s.stepResume fn).modGen fn (fun g => { g with held := false })

/-! ## Start and cancel -/

/-- A load starts: the fields are latched and it enters CHECK; with its first 4 KiB outside the source's range it ends as
check 3 (R47, R75). -/
def State.loadBegin (s : State) (fn src : Nat) (host : Bool) (sel : Nat) (force atoll : Bool) (cmd : Option CmdRef) : State :=
  let s := s.modLoad fn (fun _ => { src := src, host := host, sel := sel, force := force, atoll := atoll, cmd := cmd, opened := s.count 16 })
  let s := (s.enterLoad fn loadCheckState).setFld .IMG_LOAD_STAT_BUSY fn 0 1
  let s := match cmd with
    | some r => s.startCommand r
    | none => s
  if sourceOk host src 4096 = false then s.loadEnd fn loadRefused 3 .aborted
  else if host then s.hostRead fn 16 src 4096
  else s

/-- A write of IMG_LOAD_CTL: CANCEL acts on a load before QUIESCE, START begins one, or finds one in progress. A write with
both acts on CANCEL first (R65, R66, R75). Log entry 17. -/
def State.writeLoadCtl (s : State) (fn : Nat) (w : Word) : State :=
  if s.fnLive fn then
    let s := s.writeReg .IMG_LOAD_CTL fn 0 w
    let s := if bit w.toNat 1 ∧ s.loading fn ∧ s.loadState fn ≤ loadWaitIdle then s.loadEnd fn loadRefused 0xC .aborted else s
    if bit w.toNat 0 = false then s
    else if s.loading fn then s.fnEvent fn 0 .IMG_EVT_REJ_BUSY fn
    else s.loadBegin fn (4096 * s.fld .IMG_SRC_ADDR_ADDR fn) (s.fld .IMG_LOAD_CTL_SRC fn == 1) (s.fld .IMG_ATOLL_SEL_SEL fn)
      (s.fld .IMG_LOAD_CTL_FORCE fn == 1) (s.fld .IMG_LOAD_CTL_MODE fn == 1) none
  else s

/-- A write of IMG_LOAD_CTL.START (R47, R66). -/
def execLoadStart (fn : Nat) (w : Word) (s : State) : Result := ok (s.writeLoadCtl fn w)

/-- A write of IMG_LOAD_CTL.CANCEL (R65). -/
def execLoadCancel (fn : Nat) (w : Word) (s : State) : Result := ok (s.writeLoadCtl fn w)

/-- A LOAD command starts its load with its operands (R383). -/
def State.loadCommand (s : State) (r : CmdRef) (c : Command) : State :=
  let mode := bytesAt c.bytes 0x18 1
  s.loadBegin r.fn (bytesAt c.bytes 8 8 / 4096 * 4096) (bit mode 2) (bytesAt c.bytes 0x10 8 % 2 ^ 24) (bit mode 1) (bit mode 0) (some r)

/-- A load command that waits reaches the loader (R66). -/
def execLoadQueuedStart (fn : Nat) (s : State) : Result :=
  if s.fnLive fn = false ∨ s.loading fn then ok s else
  match (s.fnState fn).loadsWaiting with
  | [] => ok s
  | r :: rest =>
    let s := s.modFn fn (fun f => { f with loadsWaiting := rest })
    match s.command r with
    | none => ok s
    | some c => if s.ringRoom fn r.q then ok (s.loadCommand r c) else ok (s.modFn fn (fun f => { f with loadsWaiting := r :: rest }))

/-! ## CHECK and STAGE -/

/-- An engine's read of the source: of device memory, or from the host. -/
def State.sourceRead (s : State) (fn addr len : Nat) (host : Bool) (ans : Answer) : State × Answer :=
  if host then s.hostAnswer fn addr len ans else s.devRead .staging fn addr len

/-- The source can be read now, and a host's answer has the length asked for. -/
def State.sourceReady (s : State) (fn addr len : Nat) (host : Bool) (ans : Answer) : Bool :=
  if host then s.hostReady fn addr len ans
  else s.rangeReady fn addr len

/-- A header that passes is kept; the load is in STAGE, behind those that the staging engine has (R53). -/
def State.headerPasses (s : State) (fn : Nat) (header : List Byte) : State :=
  let s := (s.modLoad fn (fun l => { l with header := header })).enterLoad fn loadStage
  { s with staging := s.staging ++ [fn] }

/-- The header and section table have been fetched: the checks of R47 decide between STAGE and REFUSED. -/
def execLoadHeaderFetched (fn : Nat) (ans : Answer) (s : State) : Result :=
  let l := s.load fn
  if s.fnLive fn = false ∨ s.loadState fn ≠ loadCheckState ∨ s.sourceReady fn l.src 4096 l.host ans = false then ok s else
  let (s, a) := s.sourceRead fn l.src 4096 l.host ans
  if a.status ≠ .ok then ok (s.loadEnd fn loadRefused 0xD a.status) else
  match s.loadCheck fn a.data with
  | some (cause, st) => ok (s.loadEnd fn loadRefused cause st)
  | none => ok (s.headerPasses fn a.data)

/-- The staging engine takes the load at the head of its queue (R53). -/
def execLoadStageStart (fn : Nat) (s : State) : Result :=
  let l := s.load fn
  if s.staging.head? = some fn ∧ s.stagingBusy = false ∧ s.loadState fn = loadStage then
    let s := { s with stagingBusy := true }
    ok (if l.host then s.hostRead fn 16 l.src (imgLength l.header) else s)
  else ok s

/-- The image has been staged and digested; the load enters WAIT_IDLE (R52, R54, R56). -/
def execLoadStageDone (fn : Nat) (ans : Answer) (s : State) : Result :=
  let l := s.load fn
  let n := imgLength l.header
  if s.staging.head? ≠ some fn ∨ s.stagingBusy = false ∨ s.loadState fn ≠ loadStage ∨ s.sourceReady fn l.src n l.host ans = false then ok s else
  let (s, a) := s.sourceRead fn l.src n l.host ans
  if a.status ≠ .ok then ok (s.loadEnd fn loadRefused 0xD a.status) else
  let s := { s with staging := s.staging.tail, stagingBusy := false }
  let s := s.modLoad fn (fun l => { l with staged := a.data, digest := shake256 64 a.data })
  ok ((s.enterLoad fn loadWaitIdle).loadHolds fn)

/-- Statuses that a fault of a load has (R67). -/
def loadFaultStatus (st : Status) : Bool := st == .uncorrectableMem || st == .linkDown || st == .aborted

/-- A fault in CHECK or STAGE ends a load REFUSED, one from QUIESCE on FAILED (R67, R68). Log entry 30. -/
def State.loadFault (s : State) (fn : Nat) (st : Status) : State :=
  let k := s.loadState fn
  if s.loading fn = false ∨ k = loadWaitIdle then s
  else s.loadEnd fn (if k < loadQuiesce then loadRefused else loadFailed) 0xD st

def execLoadFault (fn : Nat) (st : Status) (s : State) : Result := if loadFaultStatus st then ok (s.loadFault fn st) else ok s

/-! ## QUIESCE, WRITE, ACTIVATE -/

/-- The load enters QUIESCE: sequencers and engines of its targets' islets stop, their work ends, and a whole image's queued reef
requests are ended (R57). -/
def State.enterQuiesce (s : State) (fn : Nat) : State :=
  let s := s.enterLoad fn loadQuiesce
  let is := isletsOf (s.loadAtolls fn)
  let s := is.foldl (fun s i => match (s.islet i).task with
    | some (.update f k) => s.taskEnd (some (.update f k)) .aborted
    | _ => s) s
  let s := is.foldl (fun s i => s.stopIslet i causeStopped) s
  (setBits (s.loadStacks fn) 8).foldl (fun s k => if partReef s.pkg.part then s.reefCancelQueue k else s) s

/-- WAIT_IDLE ends once the targets are idle; a cross-die load then presents its epoch, while its die reaches the harbour and
holds one (R54, R55, R63, R64, R440, R442). -/
def execLoadWaitIdleExit (fn : Nat) (s : State) : Result :=
  if s.loading fn = false ∨ s.loadState fn ≠ loadWaitIdle ∨ s.loadTargetsIdle fn = false ∨ (s.load fn).gate.isSome then ok s else
  let dies := s.loadDies fn
  let die := s.commandDie fn
  if dies.length ≤ 1 then ok (s.enterQuiesce fn)
  else if s.straitState (18 + die) = 3 ∨ s.heldEpoch die = 0 then ok s
  else
    let (s, a) := s.issueAction (.load fn) die (s.heldEpoch die) dies
    ok (s.modLoad fn (fun l => { l with gate := some a }))

/-- A gate that a load's action has passed holds its epoch no longer: it refuses the rest of the load (R64, R442).
Log entry 30. -/
def State.loadStale (s : State) (fn : Nat) : Bool :=
  match (s.load fn).gate.bind s.action with
  | some a => a.dies.any (fun d => storeGet 0 s.lead.gateEpoch d != a.epoch)
  | none => false

/-- The targets have been drained: their memories are cleared, and the load enters WRITE once no reef operation of it runs
(R57, R64). -/
def execLoadQuiesceDone (fn : Nat) (s : State) : Result :=
  if s.loading fn = false ∨ s.loadState fn ≠ loadQuiesce then ok s
  else if (setBits (s.loadStacks fn) 8).any (fun k => (s.reef k).ops.any (fun o => o.fn == fn)) then ok s
  else if s.loadStale fn then ok (s.loadEnd fn loadFailed 0xE .leadLost)
  else ok ((s.loadClears fn).enterLoad fn loadWrite)

/-- The header of the staged copy: WRITE reads nothing else of the image (R52). -/
def Load.stagedHeader (l : Load) : List Byte := l.staged.take 4096

/-- The configuration is written from the staged copy (R52, R58). -/
def State.loadInstall (s : State) (fn : Nat) : State :=
  let l := s.load fn
  let h := l.stagedHeader
  let s := (setBits (s.loadAtolls fn) 24).foldl (fun s a => s.installAtoll h l.staged a (bit (imgAtolls h) a)) s
  if l.atoll then s
  else ((setBits (s.loadStacks fn) 8).foldl (fun s k => s.installStack h l.staged k (bit (imgStacks h) k)) s).installWide fn h l.staged

/-! ## Function records (R424, R427) -/

/-- The image measurement M of a function (R71). -/
def State.meas (s : State) (fn : Nat) : List Byte := (List.range 8).flatMap (fun j => leBytes 8 (s.reg .IMG_MEAS fn j).toNat)

/-- The bytes of the grant registers, in the order of their offsets (R398, R424). -/
def State.grantBytes (s : State) (fn : Nat) : List Byte :=
  leBytes 8 (s.reg .SEC_GRANT_ATOLLS fn).toNat ++ leBytes 8 (s.reg .SEC_GRANT_RES fn).toNat ++
  leBytes 8 (s.reg .SEC_GRANT_PORTS fn).toNat ++
  (List.range 32).flatMap (fun j => leBytes 8 (s.reg .SEC_GRANT_ML fn j).toNat)

/-- A function's record: while it shuts down, RESETTING with what stood at acceptance. -/
def State.functionRecord (s : State) (fn : Nat) : List Byte :=
  let r := storeGet {} s.records fn
  let st := if r.resetting then 2 else if s.fnEnabled fn then 1 else 0
  leBytes 1 st ++ leBytes 1 fn ++ leBytes 6 0 ++ leBytes 8 r.seq ++ (if r.resetting then r.meas else s.meas fn) ++
    (if r.resetting then r.grant else shake256 64 (s.grantBytes fn))

/-- A function's record has changed: SEQ rises and the record is journaled (R424, R456). -/
def State.recordChange (s : State) (fn : Nat) : State :=
  let r := storeGet {} s.records fn
  let s := { s with records := storeSet {} s.records fn { r with seq := (r.seq + 1) % 2 ^ 64 } }
  let s := s.setFld .SEC_GRANT_CTL_SEQ fn 0 (r.seq + 1)
  s.journal 0x70 (s.functionRecord fn)

/-- Write 64 bytes to a row of eight registers. -/
def State.setDigest (s : State) (r : Reg) (fn : Nat) (bs : List Byte) : State :=
  (List.range 8).foldl (fun s j => s.setReg r fn j (BitVec.ofNat 64 (bytesAt bs (8 * j) 8))) s

/-- ACTIVATE: the targets' configuration becomes current, the digest registers and the measurement take the image (R59, R71). -/
def State.loadActivates (s : State) (fn : Nat) : State :=
  let l := s.load fn
  let h := l.stagedHeader
  let atolls := setBits (s.loadAtolls fn) 24
  let s := s.setFld .IMG_CFG_STATE_ATOLLS_LOADED fn 0
    (maskOf (((setBits (s.fld .IMG_CFG_STATE_ATOLLS_LOADED fn) 24).filter (fun a => !atolls.contains a)) ++
      atolls.filter (bit (imgAtolls h))))
  let s := if l.atoll then s else
    let s := (s.setFld .IMG_CFG_STATE_STACKS_LOADED fn 0 (imgStacks h &&& s.stacksOf fn)).setFld .IMG_CFG_STATE_BASE fn 0 1
    (s.setReg .IMG_BOUNDARY_DROP fn 0 0).setReg .IMG_ACTIVE_ID fn 0 (BitVec.ofNat 64 (imgId h))
  let m := if l.atoll then shake256 64 (s.meas fn ++ leBytes 8 l.sel ++ l.digest) else l.digest
  (s.setDigest .IMG_DIGEST fn l.digest).setDigest .IMG_MEAS fn m

/-- The configuration has been written: it is switched in, the record changes and the load ends DONE; what was held goes on
(R58, R59). -/
def execLoadWriteDone (fn : Nat) (s : State) : Result :=
  if s.loading fn = false ∨ s.loadState fn ≠ loadWrite then ok s
  else if s.loadStale fn then ok (s.loadEnd fn loadFailed 0xE .leadLost)
  else
    let s := ((s.loadInstall fn).enterLoad fn loadActivate).loadActivates fn
    ok ((s.recordChange fn).loadEnd fn loadDone 0 .ok)

end Sys2Proof.Machine
end

