-- ==== Sys2Proof/Machine/Reduction.lean ====
section
/-! DEFINITION. Gradient reduction: buckets, the order of additions, trailers, completion, deadlines, the step vote
(R319-R345). -/

namespace Sys2Proof.Machine

/-! ## Members and geometry (R322, R324, R326, R327) -/

def Job.n (j : Job) : Nat := jobGroup j.recd
def Job.rank (j : Job) : Nat := jobRank j.recd
def Job.tree (j : Job) : Bool := jobTree j.recd

/-- The owner cape's island (R336). -/
def jobIsland (j : Job) : Nat := 12 + jobOwner j.recd / 6

/-- The record of a bucket, its flits, the state of its segment. -/
def Job.bucketRec (j : Job) (b : Nat) : List Byte := storeGet [] j.buckets b
def Job.flits (j : Job) (b : Nat) : Nat := 128 * bucketPages (j.bucketRec b)
def Job.bucket (j : Job) (b : Nat) : Bucket := storeGet {} j.run b
def Bucket.seg (b : Bucket) (k : Nat) : SegState := storeGet {} b.segs k

/-- The first flit of segment `k` of a bucket. -/
def Job.segStart (j : Job) (b k : Nat) : Nat := if j.tree then k * j.flits b else k * j.flits b / max 1 j.n

/-- The segments of a bucket. -/
def Job.segments (j : Job) : Nat := if j.tree then 1 else j.n

/-- Flits in a segment. -/
def Job.segFlits (j : Job) (b k : Nat) : Nat := j.segStart b (k + 1) - j.segStart b k

/-- The next rank; the children and the parent of a rank. -/
def Job.next (j : Job) : Nat := (j.rank + 1) % max 1 j.n
def Job.children (j : Job) : List Nat := [2 * j.rank + 1, 2 * j.rank + 2].filter (· < j.n)
def Job.parent (j : Job) : Nat := (j.rank - 1) / 2

/-- How far segment `k` has come at this rank of a ring. -/
def Job.hop (j : Job) (k : Nat) : Nat := (j.rank + j.n - k % max 1 j.n) % max 1 j.n

/-- Change a bucket. -/
def State.modBucket (s : State) (x b : Nat) (g : Bucket → Bucket) : State :=
  s.modJob x (fun j => { j with run := storeSet {} j.run b (g (j.bucket b)) })

/-- Change a segment of a bucket. -/
def State.modSeg (s : State) (x b k : Nat) (g : SegState → SegState) : State :=
  s.modBucket x b (fun c => { c with segs := storeSet {} c.segs k (g (c.seg k)) })

/-! ## Flits (R330) -/

/-- The ADDR of a REDUCE flit. -/
def reduceAddr (step attempt bucket segment flit : Nat) : Nat :=
  step % 2 ^ 20 * 2 ^ 44 + attempt % 16 * 2 ^ 40 + bucket * 2 ^ 28 + segment * 2 ^ 20 + flit

def addrStep (a : Nat) : Nat := bits a 44 20
def addrAttempt (a : Nat) : Nat := bits a 40 4
def addrBucket (a : Nat) : Nat := bits a 28 12
def addrSegment (a : Nat) : Nat := bits a 20 8
def addrFlit (a : Nat) : Nat := bits a 0 20

/-- Send a REDUCE flit of a job to a rank. -/
def State.reduceSend (s : State) (x rank sub b k f : Nat) (payload : List Byte) : State :=
  let j := s.job x
  let (dst, dfn) := j.ranks.getD rank (0, 0)
  let p := s.routeOf dst
  let s := if p < 24 then s.modJob x (fun j => { j with ports := (j.ports ++ [p]).eraseDups }) else s
  s.sendTo { ftype := 4, sub := sub, dst := dst, dfn := dfn, sfn := j.fn, tag := jobId j.recd, vc := 2,
             len := (payload.length + 31) / 32, payload := payload,
             addr := reduceAddr (s.reg .RED_JOB_STEP x).toNat (s.fld .RED_JOB_STAT_ATTEMPT x) b k f }

/-- A trailer (R331). -/
def trailer (reason addr index sumsq elems : Nat) : List Byte :=
  leBytes 1 reason ++ leBytes 1 addr ++ leBytes 2 0 ++ leBytes 4 index ++ leBytes 8 sumsq ++ leBytes 4 elems ++ leBytes 12 0

/-! ## Adding (R320, R332, R333) -/

/-- The sum of two FP32 values, as an adder forms it. -/
def linkAdd (a b : Nat) : Nat := (fp32Add a b).1

/-- A value is not finite. -/
def notFinite (x : Nat) : Bool := !(fmtFp32.decode x).isFinite

/-- The lower of an index and one noted before. -/
def noteLowest (old : Option Nat) (new : Option Nat) : Option Nat :=
  match old, new with
  | none, n => n
  | o, none => o
  | some a, some b => some (min a b)

/-- The lowest index, from `base`, at which values are not finite. -/
def firstBad (base : Nat) (xs : List Nat) : Option Nat := (xs.findIdx? notFinite).map (base + ·)

/-- Add the squares of values to an FP64 sum, in order (R333). -/
def addSquares (sum : Nat) (xs : List Nat) : Nat :=
  xs.foldl (fun q x => (fp64Add q (fp64Mul (fp64Of x) (fp64Of x)).1).1) sum

/-- The local operands of a flit of a bucket, read by the owner cape (R28), +0 where the read fails; whether it failed.
Log entry 39. -/
def State.localFlit (s : State) (x b flit : Nat) : State × List Nat × Bool :=
  let j := s.job x
  let (s, a) := s.devRead .islet j.fn (bucketBase (j.bucketRec b) + 512 * flit) 512 (some (jobIsland j))
  if a.status = .ok then (s, words32 a.data, false) else (s, List.replicate 128 0, true)

/-- The lower of two events by index, with the address that goes with it. -/
def lowestFrom (old new : Option (Nat × Nat)) : Option (Nat × Nat) :=
  match old, new with
  | none, n => n
  | o, none => o
  | some a, some b => if b.1 < a.1 then some b else some a

/-- Note the events of a flit whose first element is `e`: arriving operands from `src`, local operands, sums. -/
def State.noteEvents (s : State) (x b k e src : Nat) (inc loc sums : List Nat) (failed : Bool) : State :=
  s.modSeg x b k (fun g =>
    { g with inBad := lowestFrom g.inBad ((firstBad e inc).map (fun i => (i, src))),
             readBad := noteLowest g.readBad (if failed then some e else none),
             ownBad := noteLowest g.ownBad (firstBad e loc),
             sumBad := noteLowest g.sumBad (firstBad e sums) })

/-- The trailer a segment leaves this device with, after incoming trailers in order (R332). Log entry 39. -/
def State.outTrailer (s : State) (x b k : Nat) (incoming : List (List Byte)) (sumsq : Nat) : List Byte :=
  let j := s.job x
  let g := (j.bucket b).seg k
  let own := s.fld .JL_CHAIN_ADDR
  let elems := 128 * j.segFlits b k
  match incoming.find? (fun t => bytesAt t 0 1 != 0), g.inBad, g.readBad, g.ownBad, g.sumBad with
  | some t, _, _, _, _ => trailer (bytesAt t 0 1) (bytesAt t 1 1) (bytesAt t 4 4) sumsq elems
  | none, some (i, src), _, _, _ => trailer 1 src i sumsq elems
  | none, none, some i, _, _ => trailer 3 own i sumsq elems
  | none, none, none, some i, _ => trailer 1 own i sumsq elems
  | none, none, none, none, some i => trailer 2 own i sumsq elems
  | none, none, none, none, none => trailer 0 0 0 sumsq elems

/-- Write final sums into the bucket. -/
def State.bucketPut (s : State) (x b flit : Nat) (vals : List Nat) : State :=
  let j := s.job x
  (s.devWrite .islet j.fn (bucketBase (j.bucketRec b) + 512 * flit) (bytes32 vals) (some (jobIsland j))).1

/-- Form the sum of squares of a flit of final sums. -/
def State.squares (s : State) (x b k : Nat) (vals : List Nat) : State :=
  s.modSeg x b k (fun g => { g with sumsq := addSquares g.sumsq vals })

/-- Keep a segment's final trailer. Log entry 39. -/
def State.keepTrailer (s : State) (x b k : Nat) (t : List Byte) : State := s.modSeg x b k (fun g => { g with trailer := some t })

/-! ## Starting a bucket (R325-R328) -/

/-- Send a segment's own contributions: data flits in order, then the END flit. -/
def State.sendOwn (s : State) (x b k rank sub : Nat) : State :=
  let j := s.job x
  let s := (List.range (j.segFlits b k)).foldl (fun s f =>
    let flit := j.segStart b k + f
    let (s, loc, failed) := s.localFlit x b flit
    let s := s.noteEvents x b k (128 * flit) 0 [] loc [] failed
    s.reduceSend x rank sub b k f (bytes32 loc)) s
  s.reduceSend x rank (sub + 1) b k 0 (s.outTrailer x b k [] 0)

/-- A single member reads its bucket once, for its sum of squares and its trailer (R328). -/
def State.readSingle (s : State) (x b : Nat) : State :=
  let j := s.job x
  let s := (List.range (j.flits b)).foldl (fun s f =>
    let (s, loc, failed) := s.localFlit x b f
    (s.noteEvents x b 0 (128 * f) 0 [] loc [] failed).squares x b 0 loc) s
  s.keepTrailer x b 0 (s.outTrailer x b 0 [] (((s.job x).bucket b).seg 0).sumsq)

/-! ## Records, resolution and the vote (R334-R342) -/

/-- A bucket result record (R334). -/
def State.bucketRecord (s : State) (x b : Nat) (st : Status) (t : List Byte) (sumsq : Nat) : List Byte :=
  leBytes 1 (statusCode st) ++ leBytes 1 (bytesAt t 0 1) ++ leBytes 1 (bytesAt t 1 1) ++
  leBytes 1 (s.fld .RED_JOB_STAT_ATTEMPT x) ++ leBytes 4 (bytesAt t 4 4) ++ leBytes 8 sumsq ++
  leBytes 8 (s.reg .RED_JOB_STEP x).toNat ++ leBytes 2 b ++ leBytes 2 0 ++ leBytes 4 (s.fld .RED_JOB_SCALE_LOSS_SCALE x)

/-- A bucket ends with a record; one with a REASON shows in RED_JOB_NF, a bad status raises NF_EVT. -/
def State.bucketEnd (s : State) (x b : Nat) (st : Status) (t : List Byte) (sumsq : Nat) : State :=
  let j := s.job x
  let r := s.bucketRecord x b st t sumsq
  let s := (s.devWrite .islet j.fn (bucketResultAddr (j.bucketRec b)) r (some (jobIsland j))).1
  let s := s.modBucket x b (fun c => { c with status := st, result := r })
  let s := if bytesAt t 0 1 = 0 then s else
    ((s.setFld .RED_JOB_NF_NF_ADDR x 0 (bytesAt t 1 1)).setFld .RED_JOB_NF_REASON x 0 (bytesAt t 0 1)).setFld .RED_JOB_NF_BUCKET x 0 b
      |>.setFld .RED_JOB_NF_NF_INDEX x 0 (bytesAt t 4 4) |>.modJob x (fun j => { j with noted := true })
  if st = .nonfinite ∨ st = .uncorrectableMem then s.fnEvent j.fn 3 .RED_EVT_NF_EVT j.fn else s

/-- Every bucket of a job is complete or LATE (R339). -/
def State.jobResolved (s : State) (x : Nat) : Bool :=
  let j := s.job x
  (List.range (jobBuckets j.recd)).all (fun b => (j.bucket b).complete || (j.bucket b).late)

/-- The severity of a status in a vote (R339). -/
def voteRank : Status → Nat
  | .ok => 0
  | .nonfinite => 1
  | .late => 2
  | _ => 3

/-- The worse of two statuses. -/
def worseVote (a b : Status) : Status := if voteRank a < voteRank b then b else a

/-- A member's local status. -/
def State.localVote (s : State) (x : Nat) : Status := (s.job x).run.foldl (fun st e => worseVote st e.2.status) .ok

/-- Send a vote message to a rank (R338). -/
def State.voteSend (s : State) (x rank sub : Nat) (st : Status) (action scale : Nat) : State :=
  let j := s.job x
  let (dst, dfn) := j.ranks.getD rank (0, 0)
  let body := leBytes 1 (jobId j.recd) ++ leBytes 1 (statusCode st) ++ leBytes 1 (s.fld .RED_JOB_STAT_ATTEMPT x) ++ leBytes 1 action ++
    leBytes 4 scale ++ leBytes 8 (s.reg .RED_JOB_STEP x).toNat
  s.sendTo { ftype := 5, sub := sub, dst := dst, dfn := dfn, sfn := j.fn, vc := 3, len := 1, payload := body }

/-- A member applies the vote's action: a COMMIT of a job the optimiser serves goes to it, and once every job of the function has
applied its action the step service goes on (R341, R351, R387). -/
def State.voteApply (s : State) (x action scale cause : Nat) (st : Status) : State :=
  let fn := (s.job x).fn
  let s := s.jobApply x action scale cause st
  let s := if action = 0 ∧ (s.optJobs fn).contains x = true then s.optCommitted fn x else s
  match s.jobsApplied fn with
  | (s, true) => s.stepTakes fn
  | (s, false) => s

/-- Rank 0 decides from the combined status, applies the action and sends the result (R339 step 3, R340). -/
def State.voteDecide (s : State) (x : Nat) (st : Status) : State :=
  let j := s.job x
  let (action, scale, cause) := s.jobDecide x st (jobRepeats j.recd)
  let s := if 2 ≤ j.n then s.voteSend x 1 0x41 st action scale else s
  s.voteApply x action scale cause st

/-- A resolved member acts on the vote: rank 0 starts it, another combines and forwards one that waits (R339). -/
def State.voteStep (s : State) (x : Nat) : State :=
  let j := s.job x
  let own := s.localVote x
  if j.rank = 0 then
    if j.voted then s
    else
      let s := s.modJob x (fun j => { j with voted := true })
      if j.n ≤ 1 then s.voteDecide x own else s.voteSend x 1 0x40 own 0 0
  else match j.vote with
    | some v =>
      if j.voted then s
      else (s.modJob x (fun j => { j with voted := true })).voteSend x j.next 0x40 (worseVote (statusOf v) own) 0 0
    | none => s

/-- A job whose buckets are all complete or LATE resolves: its vote window opens (R339, R342). -/
def State.jobResolve (s : State) (x : Nat) : State :=
  if s.jobState x = jobRunning ∧ s.jobResolved x = true then
    let s := s.modJob x (fun j => { j with voteOpened := s.count (jobIsland j) })
    (s.setFld .RED_JOB_STAT_STATE x 0 jobVoting).voteStep x
  else s

/-- A bucket becomes LATE: its record is written and counted (R336, R337). -/
def State.bucketLate (s : State) (x b : Nat) : State :=
  let j := s.job x
  let s := s.modBucket x b (fun c => { c with late := true })
  let s := s.bucketEnd x b .late (trailer 0 0 0 0 0) 0
  let s := (s.satFld .RED_JOB_LATE_LATE_BUCKETS x 0 1).setFld .RED_JOB_LATE_LAST_BUCKET x 0 b
  (s.fnEvent j.fn 3 .RED_EVT_LATE_EVT j.fn).jobResolve x

/-- A REDUCE flit is of a job's current step and attempt. -/
def State.flitCurrent (s : State) (x : Nat) (f : Flit) : Bool :=
  let j := s.job x
  f.ftype == 4 && f.dfn == j.fn && f.tag == jobId j.recd && j.ranks.contains (f.src, f.sfn) &&
    addrStep f.addr == (s.reg .RED_JOB_STEP x).toNat % 2 ^ 20 && addrAttempt f.addr == s.fld .RED_JOB_STAT_ATTEMPT x

/-- A port that held flits `hold` carries a job: its owner port, or one over which a flit of the attempt went or came, taken or
held. -/
def State.portCarries (s : State) (p x : Nat) (hold : List Flit) : Bool :=
  jobOwner (s.job x).recd == p || (s.job x).ports.contains p || hold.any (s.flitCurrent x)

/-- A port goes DOWN, with the flits that it held: started buckets of the attempts it carried that are not complete become LATE
(R337). -/
def State.portLate (s : State) (p : Nat) (hold : List Flit) : State :=
  (s.jobs.map Prod.fst).foldl (fun s x =>
    let j := s.job x
    if s.jobState x = jobRunning ∧ s.portCarries p x hold = true then
      let s := s.modJob x (fun j => { j with lost := true })
      (List.range (jobBuckets j.recd)).foldl (fun s b =>
        let c := (s.job x).bucket b
        if c.started && !c.complete && !c.late then s.bucketLate x b else s) s
    else s) s

/-- A bucket's window opens and this member's own contributions are sent (R325-R328). -/
def State.bucketBegins (s : State) (ctx b : Nat) : State :=
  let j := s.job ctx
  let s := s.modBucket ctx b (fun c => { c with started := true, opened := s.count (jobIsland j), lastIn := s.count (jobIsland j) })
  let s := s.jobStat ctx
  let s := if j.n ≤ 1 then s.readSingle ctx b
    else if j.tree then (if j.children.isEmpty then s.sendOwn ctx b 0 j.parent 5 else s)
    else s.sendOwn ctx b j.rank j.next 1
  if j.lost then s.bucketLate ctx b else s

/-- A bucket starts, in index order (R325): its window opens, and this member's own contributions are sent (R326-R328). It waits
while a reef operation holds result rows in the bucket, whose reads wait (R267; DESIGN CHOICE, log entry 39). -/
def execBucketStart (ctx b : Nat) (s : State) : Result :=
  let j := s.job ctx
  let c := j.bucket b
  let outstanding := (j.run.filter (fun e => e.2.started && !e.2.complete)).length
  if s.jobState ctx ≠ jobRunning ∨ ¬ b < jobBuckets j.recd ∨ c.full = false ∨ c.started = true ∨
      (b ≠ 0 ∧ (j.bucket (b - 1)).started = false) ∨ 64 ≤ outstanding ∨
      s.rowsLeased j.fn (bucketBase (j.bucketRec b)) (65536 * bucketPages (j.bucketRec b)) = true then ok s
  else ok (s.bucketBegins ctx b)

/-- The trailers of a bucket's segments, where all are known. -/
def State.bucketTrailers (s : State) (x b : Nat) : Option (List (List Byte)) :=
  let c := (s.job x).bucket b
  let ts := (List.range (s.job x).segments).filterMap (fun k => (c.seg k).trailer)
  if ts.length = (s.job x).segments then some ts else none

/-- Flits of a bucket that wait to be sent. -/
def State.bucketUnsent (s : State) (x b : Nat) : Bool :=
  let j := s.job x
  s.egress.any (fun e => e.2.any (fun f => f.ftype == 4 && f.sfn == j.fn && f.tag == jobId j.recd &&
    f.src == s.fld .JL_CHAIN_ADDR && addrBucket f.addr == b && addrStep f.addr == (s.reg .RED_JOB_STEP x).toNat % 2 ^ 20 &&
    addrAttempt f.addr == s.fld .RED_JOB_STAT_ATTEMPT x))

/-- The close of a bucket's deadline window (R336). -/
def bucketClose (j : Job) (c : Bucket) : Nat := c.opened + 1000 * jobDeadline j.recd

/-- A bucket that is not late ends: its status from its trailers and its own reads, its result record, and the job goes on (R334,
R336). -/
def State.bucketDone (s : State) (ctx b : Nat) (ts : List (List Byte)) : State :=
  let c := (s.job ctx).bucket b
  let bad := (ts.find? (fun t => bytesAt t 0 1 != 0)).getD (trailer 0 0 0 0 0)
  let localFail := c.segs.any (fun e => e.2.readBad.isSome)
  let st : Status := if localFail ∨ ts.any (fun t => bytesAt t 0 1 == 3) then .uncorrectableMem
    else if ts.any (fun t => bytesAt t 0 1 != 0) then .nonfinite else .ok
  let sumsq := ts.foldl (fun q t => (fp64Add q (bytesAt t 8 8)).1) 0
  let s := s.modBucket ctx b (fun c => { c with complete := true })
  ((s.bucketEnd ctx b st bad sumsq).jobStat ctx).jobResolve ctx

/-- A held write to a bucket keeps it from being complete. -/
def State.bucketHeld (s : State) (ctx b : Nat) : Bool :=
  let j := s.job ctx
  let base := bucketBase (j.bucketRec b)
  s.held.any (fun a => a.fn == j.fn && a.wr.isSome && decide (base ≤ a.addr) &&
    decide (a.addr < base + 65536 * bucketPages (j.bucketRec b)))

/-- A bucket is complete, its last needed flit having come inside its window: its result record is written (R334, R336). One that
is LATE completes without a record. -/
def execBucketComplete (ctx b : Nat) (s : State) : Result :=
  let j := s.job ctx
  let c := j.bucket b
  match s.bucketTrailers ctx b with
  | none => ok s
  | some ts =>
    if c.started = false ∨ c.complete = true ∨ s.bucketUnsent ctx b = true ∨ s.bucketHeld ctx b = true then ok s
    else if c.late then ok ((s.modBucket ctx b (fun c => { c with complete := true })).jobStat ctx)
    else if jobDeadline j.recd ≠ 0 ∧ bucketClose j c < c.lastIn then ok s
    else ok (s.bucketDone ctx b ts)

/-- Every flit that a bucket needs has come, the last by the close of its window (R336). -/
def State.bucketInTime (s : State) (ctx b : Nat) : Bool :=
  (s.bucketTrailers ctx b).isSome && decide (((s.job ctx).bucket b).lastIn ≤ bucketClose (s.job ctx) ((s.job ctx).bucket b))

/-- A bucket's window closes with a flit missing: LATE (R336). -/
def execBucketDeadline (ctx b : Nat) (s : State) : Result :=
  let j := s.job ctx
  let c := j.bucket b
  if s.jobState ctx = jobRunning ∧ c.started = true ∧ c.complete = false ∧ c.late = false ∧ jobDeadline j.recd ≠ 0 ∧
      s.bucketInTime ctx b = false then
    ok ((s.reachCount (jobIsland j) (bucketClose j c)).bucketLate ctx b)
  else ok s

/-- No VOTE_RESULT has been applied by the close of the vote window: STOPPED with LATE, cause 2 (R342). -/
def execVoteTimeout (ctx : Nat) (s : State) : Result :=
  let j := s.job ctx
  if s.jobState ctx = jobVoting ∧ j.applied = false then
    let s := s.reachCount (jobIsland j) (j.voteOpened + 1000 * jobVote j.recd)
    ok (s.voteApply ctx 3 (s.fld .RED_JOB_SCALE_LOSS_SCALE ctx) 2 .late)
  else ok s

/-! ## REDUCE flits (R323, R326, R327, R332) -/

/-- What becomes of a REDUCE flit that is delivered. -/
inductive ReduceFate where
  | stale | fence | held
  | take (ctx : Nat)
  deriving DecidableEq, Repr

/-- A step and attempt are later than a job's, modulo the fields' widths. -/
def isLater (step attempt curStep curAttempt : Nat) : Bool :=
  let d := (step + 2 ^ 20 - curStep % 2 ^ 20) % 2 ^ 20
  let a := (attempt + 16 - curAttempt) % 16
  (d != 0 && decide (d < 2 ^ 19)) || (d == 0 && a != 0 && decide (a ≤ 7))

/-- A flit comes from the right child of a tree's node. -/
def Job.fromRight (j : Job) (f : Flit) : Bool :=
  j.ranks.getD (2 * j.rank + 2) (0, 0) == (f.src, f.sfn) && decide (2 * j.rank + 2 < j.n)

/-- The local operand that a flit meets lies in result rows of a running reef operation: its read waits, and the flit with it (R267;
DESIGN CHOICE, log entry 39). -/
def State.operandLeased (s : State) (x : Nat) (f : Flit) : Bool :=
  let j := s.job x
  let b := addrBucket f.addr
  let base := bucketBase (j.bucketRec b)
  match f.sub with
  | 1 => s.rowsLeased j.fn (base + 512 * (j.segStart b (addrSegment f.addr) + addrFlit f.addr)) 512
  | 5 => s.rowsLeased j.fn ((if j.fromRight f then jobStaging j.recd else base) + 512 * addrFlit f.addr) 512
  | _ => false

/-- Judge a REDUCE flit (R323, R330). A right child's flit of a tree waits until its flit is staged (R327), and one whose local
operand must wait waits with it (R267). Log entry 39. -/
def State.reduceJudge (s : State) (f : Flit) : ReduceFate :=
  if f.sub = 0 ∨ 8 < f.sub then .stale else
  match (s.jobsOf f.dfn).find? (fun x => jobId (s.job x).recd == f.tag) with
  | none => .stale
  | some x =>
    let j := s.job x
    let step := addrStep f.addr
    let attempt := addrAttempt f.addr
    let cs := (s.reg .RED_JOB_STEP x).toNat % 2 ^ 20
    let ca := s.fld .RED_JOB_STAT_ATTEMPT x
    let b := addrBucket f.addr
    if !j.ranks.contains (f.src, f.sfn) then .fence
    else if isLater step attempt cs ca then .held
    else if step ≠ cs ∨ attempt ≠ ca then .stale
    else if j.applied then .stale
    else if (j.bucket b).started = false then .held
    else if j.tree && f.sub == 5 && j.fromRight f && decide (((j.bucket b).seg 0).staged ≤ addrFlit f.addr) then .held
    else if s.operandLeased x f then .held
    else .take x

/-- A ring's partial sums arrive: added, and sent on; the last rank writes the sums and sends them round (R326). -/
def State.takeRs (s : State) (x : Nat) (f : Flit) : State :=
  let j := s.job x
  let b := addrBucket f.addr
  let k := addrSegment f.addr
  let flit := j.segStart b k + addrFlit f.addr
  let inc := words32 f.payload
  let (s, loc, failed) := s.localFlit x b flit
  let sums := (inc.zip loc).map (fun e => linkAdd e.1 e.2)
  let s := s.noteEvents x b k (128 * flit) f.src inc loc sums failed
  if j.hop k + 1 = j.n then
    ((s.bucketPut x b flit sums).squares x b k sums).reduceSend x j.next 3 b k (addrFlit f.addr) (bytes32 sums)
  else s.reduceSend x j.next 1 b k (addrFlit f.addr) (bytes32 sums)

/-- A ring segment's END flit arrives (R332, R333). -/
def State.takeRsEnd (s : State) (x : Nat) (f : Flit) : State :=
  let j := s.job x
  let b := addrBucket f.addr
  let k := addrSegment f.addr
  if j.hop k + 1 = j.n then
    let t := s.outTrailer x b k [f.payload] ((j.bucket b).seg k).sumsq
    (s.keepTrailer x b k t).reduceSend x j.next 4 b k 0 t
  else s.reduceSend x j.next 2 b k 0 (s.outTrailer x b k [f.payload] 0)

/-- Final sums of a ring arrive: written, and sent on short of the rank that formed them (R326 step 4). -/
def State.takeAg (s : State) (x : Nat) (f : Flit) : State :=
  let j := s.job x
  let b := addrBucket f.addr
  let k := addrSegment f.addr
  let s := s.bucketPut x b (j.segStart b k + addrFlit f.addr) (words32 f.payload)
  if j.hop k + 2 = j.n then s else s.reduceSend x j.next 3 b k (addrFlit f.addr) f.payload

/-- The final trailer of a ring segment arrives. -/
def State.takeAgEnd (s : State) (x : Nat) (f : Flit) : State :=
  let j := s.job x
  let b := addrBucket f.addr
  let k := addrSegment f.addr
  let s := s.keepTrailer x b k f.payload
  if j.hop k + 2 = j.n then s else s.reduceSend x j.next 4 b k 0 f.payload

/-- A tree node has formed a flit of its result: sent up, or at rank 0 written and sent down (R327 steps 3, 4). -/
def State.treeResult (s : State) (x b flit : Nat) (vals : List Nat) : State :=
  let j := s.job x
  if j.rank = 0 then
    let s := (s.bucketPut x b flit vals).squares x b 0 vals
    j.children.foldl (fun s c => s.reduceSend x c 7 b 0 flit (bytes32 vals)) s
  else s.reduceSend x j.parent 5 b 0 flit (bytes32 vals)

/-- A child's flit arrives at its parent in a tree (R327 step 2). Outstanding buckets share the staging region, which is as large as
one bucket; a sum depends on the contributions alone (R329), so the value staged for a bucket is the one that its right child
meets, whatever another bucket stages in the meantime (DEDUCED, log entry 39). -/
def State.takeUp (s : State) (x : Nat) (f : Flit) : State :=
  let j := s.job x
  let b := addrBucket f.addr
  let flit := addrFlit f.addr
  let inc := words32 f.payload
  let slot := jobStaging j.recd + 512 * flit
  if j.fromRight f then
    let (s, a) := s.devRead .islet j.fn slot 512 (some (jobIsland j))
    let part := if a.status = .ok then storeGet (words32 a.data) ((j.bucket b).seg 0).stagedVals flit else List.replicate 128 0
    let sums := (part.zip inc).map (fun e => linkAdd e.1 e.2)
    let s := s.noteEvents x b 0 (128 * flit) f.src inc [] sums (a.status != .ok)
    let s := s.modSeg x b 0 (fun g => { g with stagedVals := storeErase g.stagedVals flit })
    s.treeResult x b flit sums
  else
    let (s, loc, failed) := s.localFlit x b flit
    let sums := (loc.zip inc).map (fun e => linkAdd e.1 e.2)
    let s := s.noteEvents x b 0 (128 * flit) f.src inc loc sums failed
    if 2 ≤ j.children.length then
      let s := (s.devWrite .islet j.fn slot (bytes32 sums) (some (jobIsland j))).1
      s.modSeg x b 0 (fun g => { g with staged := flit + 1, stagedVals := storeInsert flit sums (storeErase g.stagedVals flit) })
    else s.treeResult x b flit sums

/-- A child's contribution ends; with every child's, the node's trailer goes on (R332, R333). -/
def State.takeUpEnd (s : State) (x : Nat) (f : Flit) : State :=
  let j := s.job x
  let b := addrBucket f.addr
  let s := s.modSeg x b 0 (fun g => if j.fromRight f then { g with rightEnd := some f.payload } else { g with leftEnd := some f.payload })
  let g := ((s.job x).bucket b).seg 0
  let ends := g.leftEnd.toList ++ g.rightEnd.toList
  if ends.length < j.children.length then s
  else if j.rank = 0 then
    let t := s.outTrailer x b 0 ends g.sumsq
    j.children.foldl (fun s c => s.reduceSend x c 8 b 0 0 t) (s.keepTrailer x b 0 t)
  else s.reduceSend x j.parent 6 b 0 0 (s.outTrailer x b 0 ends 0)

/-- Final sums come down a tree (R327 step 4). -/
def State.takeDown (s : State) (x : Nat) (f : Flit) : State :=
  let j := s.job x
  let b := addrBucket f.addr
  let s := s.bucketPut x b (addrFlit f.addr) (words32 f.payload)
  j.children.foldl (fun s c => s.reduceSend x c 7 b 0 (addrFlit f.addr) f.payload) s

/-- The final trailer comes down a tree. -/
def State.takeDownEnd (s : State) (x : Nat) (f : Flit) : State :=
  let j := s.job x
  let b := addrBucket f.addr
  j.children.foldl (fun s c => s.reduceSend x c 8 b 0 0 f.payload) (s.keepTrailer x b 0 f.payload)

/-- The owner cape's count now, for a flit of a job; the count of the port's own cape where there is no such job (R336). -/
def State.verifyCount (s : State) (p : Nat) (f : Flit) : Nat :=
  match (s.jobsOf f.dfn).find? (fun x => jobId (s.job x).recd == f.tag) with
  | some x => s.count (jobIsland (s.job x))
  | none => s.count (capeIsland p)

/-- A REDUCE flit is taken by its job at a port: its bucket has come further, by the owner cape's count `seen` at which the flit
verified (R336). Log entry 39. -/
def State.reduceTake (s : State) (p x seen : Nat) (f : Flit) : State :=
  let s := s.modJob x (fun j => { j with ports := (j.ports ++ [p]).eraseDups })
  let s := s.modBucket x (addrBucket f.addr) (fun c => { c with lastIn := max c.lastIn seen })
  let s := if f.sub % 2 = 1 then s.addFld .RED_JOB_FLITS_FLITS x 0 1 else s
  match f.sub with
  | 1 => s.takeRs x f
  | 2 => s.takeRsEnd x f
  | 3 => s.takeAg x f
  | 4 => s.takeAgEnd x f
  | 5 => s.takeUp x f
  | 6 => s.takeUpEnd x f
  | 7 => s.takeDown x f
  | 8 => s.takeDownEnd x f
  | _ => s

/-- A REDUCE flit that verified at the count `seen` is delivered at a port: taken or discarded; the second part says that it is held
(R323). -/
def State.reduceDeliver (s : State) (p seen : Nat) (f : Flit) : State × Bool :=
  match s.reduceJudge f with
  | .stale => (s.satFld .RED_DROPS_STALE f.dfn 0 1, false)
  | .fence => (s.satFld .RED_DROPS_FENCE f.dfn 0 1, false)
  | .held => (s, true)
  | .take x => (s.reduceTake p x seen f, false)

/-! ## Reduction messages (R338-R343) -/

/-- The job a vote message is for: of its function, job ID, step and attempt, from a member. -/
def State.voteJob (s : State) (f : Flit) : Option Nat :=
  (s.jobsOf f.dfn).find? (fun x =>
    let j := s.job x
    jobId j.recd == bytesAt f.payload 0 1 && j.ranks.contains (f.src, f.sfn) && !j.applied &&
    s.fld .RED_JOB_STAT_ATTEMPT x == bytesAt f.payload 2 1 && (s.reg .RED_JOB_STEP x).toNat == bytesAt f.payload 8 8 &&
    (s.jobState x == jobRunning || s.jobState x == jobVoting))

/-- The vote window of a member that has resolved is open (R342). -/
def State.voteOpen (s : State) (x : Nat) : Bool :=
  s.jobState x != jobVoting || s.inWindow (jobIsland (s.job x)) ((s.job x).voteOpened + 1000 * jobVote (s.job x).recd)

/-- A VOTE arrives: rank 0 decides, another rank combines it once it has resolved (R339), inside its window (R342). -/
def State.takeVote (s : State) (f : Flit) : State :=
  match s.voteJob f with
  | none => s
  | some x =>
    let st := bytesAt f.payload 1 1
    if s.voteOpen x = false then s
    else if (s.job x).rank = 0 then (if (s.job x).voted then s.voteDecide x (statusOf st) else s)
    else
      let s := s.modJob x (fun j => { j with vote := some st })
      if s.jobState x = jobVoting then s.voteStep x else s

/-- A VOTE_RESULT arrives: applied, and forwarded short of the last rank (R339 step 4, R341, R342). -/
def State.takeResult (s : State) (f : Flit) : State :=
  match s.voteJob f with
  | none => s
  | some x =>
    let j := s.job x
    let st := statusOf (bytesAt f.payload 1 1)
    let action := bytesAt f.payload 3 1
    let scale := bytesAt f.payload 4 4
    if s.voteOpen x = false then s else
    let s := if j.rank + 1 = j.n then s else s.voteSend x j.next 0x41 st action scale
    s.voteApply x (min action 3) scale (s.jobStopCause x st) st

/-- A STEP_ABORT arrives: the step ends without a vote, unless its result is applied (R343). -/
def State.takeAbort (s : State) (f : Flit) : State :=
  let g := bytesAt f.payload 0 1
  let hit := (s.jobsOf f.dfn).any (fun x =>
    let j := s.job x
    jobStepGroup j.recd == g && !j.applied && s.fld .RED_JOB_STAT_ATTEMPT x == bytesAt f.payload 2 1 &&
    (s.reg .RED_JOB_STEP x).toNat == bytesAt f.payload 8 8 && j.peers.contains (f.src, f.sfn))
  if hit then s.abortStep f.dfn (if bytesAt f.payload 1 1 = 10 then .shoalFull else .aborted) false else s

/-- A reduction message is delivered. -/
def State.reductionMessage (s : State) (f : Flit) : State :=
  match f.sub with
  | 0x40 => s.takeVote f
  | 0x41 => s.takeResult f
  | 0x42 => s.takeAbort f
  | _ => s

/-- A write of RED_JOB_CTL by the function that holds the context: ABORT_STEP ends the step everywhere; RESUME in STOPPED
returns the job to IDLE. A write with both acts on ABORT_STEP first (R341, R343). Log entry 39. -/
def State.writeJobCtl (s : State) (fn x : Nat) (w : Word) : State :=
  if s.fnLive fn = true ∧ (s.job x).fn = fn then
    let s := if bit w.toNat 0 then s.abortStep fn .aborted true else s
    if bit w.toNat 1 ∧ s.jobState x = jobStopped then
      (s.setFld .RED_JOB_STAT_STATE x 0 jobIdle).setFld .RED_JOB_STAT_STOP_CAUSE x 0 0
    else s
  else s

/-- A write of RED_JOB_CTL.RESUME (R341). -/
def execRedResume (fn ctx : Nat) (w : Word) (s : State) : Result := ok (s.writeJobCtl fn ctx w)

/-- A write of RED_JOB_CTL.ABORT_STEP (R343). -/
def execRedAbortStep (fn ctx : Nat) (w : Word) (s : State) : Result := ok (s.writeJobCtl fn ctx w)

end Sys2Proof.Machine
end

