-- ==== Sys2Proof/Machine/LinkPort.lean ====
section
/-! DEFINITION. A Jumel port: its events, going DOWN, sequence, acknowledgement, credit and replay, sending, routing
(R276-R318). -/

namespace Sys2Proof.Machine

/-! ## Access -/

/-- A port's link record. -/
def State.link (s : State) (p : Nat) : LinkPort := storeGet {} s.ports p

/-- Change a port's link record. -/
def State.modLink (s : State) (p : Nat) (f : LinkPort → LinkPort) : State :=
  { s with ports := storeSet {} s.ports p (f (s.link p)) }

/-- States of a port (R295). -/
def portDisabled : Nat := 0
def portTraining : Nat := 1
def portKeying : Nat := 2
def portIsUp : Nat := 3
def portIsDown : Nat := 4

/-- The state of a port. -/
def State.portState (s : State) (p : Nat) : Nat := s.fld .JL_PORT_STAT_STATE p

/-- A port is present (R3, R276). -/
def State.portPresent (s : State) (p : Nat) : Bool := decide (p < 24) && bit (partJl s.pkg.part) p

/-- The count of the cape island of a port. -/
def State.capeCount (s : State) (p : Nat) : Nat := s.count (capeIsland p)

/-- Enter a state: windows that open at entry open now (R297, R315). -/
def State.enterPort (s : State) (p st : Nat) : State :=
  (s.modLink p (fun l => { l with entered := s.capeCount p })).setFld .JL_PORT_STAT_STATE p 0 st

/-- The number `a - b` of sequence numbers (R293). -/
def seqDist (a b : Nat) : Nat := (a + 2 ^ 20 - b % 2 ^ 20) % 2 ^ 20

/-- The oldest SEQ not acknowledged. -/
def LinkPort.oldest (l : LinkPort) : Nat :=
  match l.retained with
  | (q, _) :: _ => q
  | [] => l.txSeq

/-- Change the `k`-th of a list of counts. -/
def bumpAt (k n : Nat) (xs : List Nat) (m : Nat) : List Nat := xs.mapIdx (fun i x => if i = k then (x + n) % m else x)

/-! ## Events (R318) -/

/-- Set a bit of JL_PORT_EVT: function 0's management event, and the holder's link event. -/
def State.portEvent (s : State) (p : Nat) (f : Fld) : State :=
  let fresh := s.fld f p == 0
  let s := (s.setFld f p 0 1).hbrEvent .HBR_EVT_PORT
  let h := s.ownerOfPort p
  if fresh && h != 0 then s.fnEvent h 5 .JL_FN_EVT_PORT_EVT h else s

/-! ## Header (R284) and UNREACHABLE (R310) -/

/-- The header of a flit as its 16 bytes. -/
def headerBytes (f : Flit) : List Byte :=
  leBytes 16 (f.ftype % 256 + f.sub % 256 * 2 ^ 8 + f.ttl % 256 * 2 ^ 16 + f.dst % 256 * 2 ^ 24 + f.src % 256 * 2 ^ 32 +
    f.dfn % 16 * 2 ^ 40 + f.sfn % 16 * 2 ^ 44 + f.tag % 256 * 2 ^ 48 + f.len % 32 * 2 ^ 56 + f.vc % 4 * 2 ^ 61 +
    f.addr % 2 ^ 64 * 2 ^ 64)

/-- The queues of a function whose completion ring in host memory holds an address. -/
def State.ringsAt (s : State) (fn addr : Nat) : List Nat :=
  (List.range 64).filter (fun q => s.fld .SVC_Q_CFG_CPL_HOST fn q == 1 && s.fld .SVC_Q_STATE_STATE fn q != queueDisabled &&
    decide (4096 * s.fld .SVC_Q_CPL_BASE_ADDR fn q ≤ addr) &&
    decide (addr < 4096 * s.fld .SVC_Q_CPL_BASE_ADDR fn q + 32 * 2 ^ s.fld .SVC_Q_CFG_SIZE fn q))

/-- The generation service of a function has lost the host: at a boundary it ends at once, else once its launches have. -/
def State.genLost (s : State) (fn : Nat) (g : GenSvc) : State :=
  if g.point = .boundary then s.genEnd fn .linkDown false
  else s.modGen fn (fun g => { g with bad := some (g.bad.getD .linkDown) })

/-- The optimiser exchanges norms or digests with a destination: it stops LINK_DOWN. Log entry 45. -/
def State.peerLost (s : State) (fn dst : Nat) : State :=
  if (s.optState fn = optNorm ∧ (s.optPeers fn).contains dst) ∨ (s.optState fn = optDigest ∧ s.digestNext fn = dst) then
    s.optStop fn .linkDown
  else s

/-- The operation whose own WRITE is lost ends LINK_DOWN (R316 step 4): a completion record with its queue (R380), a generation
service that wrote its table or outputs, the optimiser. Log entry 45. -/
def State.writeLost (s : State) (fn dst addr : Nat) : State :=
  if fn = 0 then s
  else if dst = 0 then
    let s := (s.ringsAt fn addr).foldl (fun s q => s.queueFails fn q .linkDown) s
    match (s.fnState fn).gen with
    | some g => if g.writes addr then s.genLost fn g else s
    | none => s
  else s.peerLost fn dst

/-- A launch has asked the host for its parameters. -/
def Launch.fromHost (l : Launch) (fn : Nat) : Bool := l.fn == fn && l.source == 1 && decide (l.given.length < entryParamLen l.entry)

/-- A load in progress that reads the host loses it (R67, R310). -/
def State.hostLoadLost (s : State) (fn : Nat) : State :=
  if s.loading fn = true ∧ (s.load fn).host = true then
    s.loadEnd fn (if s.loadState fn < loadQuiesce then loadRefused else loadFailed) 0xD .linkDown
  else s

/-- Every operation of a function still in progress that sent flits to the host ends LINK_DOWN (R310 step 3): loads from host
memory, an INGEST, a step service that takes its feed from the host, launches with parameters in host memory, a generation service
that works there. Log entry 45. -/
def State.hostOpsLost (s : State) (fn : Nat) : State :=
  let s := s.hostLoadLost fn
  let s := if (s.fnState fn).mig.run.any (fun r => migOp r.req == 5) then s.migStop fn .linkDown else s
  let s := if (s.fnState fn).step.any (fun v => v.asked) then s.stepKill fn .linkDown else s
  let lids := (s.launches.filter (fun e => e.2.fromHost fn)).map Prod.fst
  let s := lids.foldl (fun s lid =>
    if (storeGet {} s.launches lid).started then s.launchStop lid .linkDown else s.launchEnd lid .linkDown) s
  match (s.fnState fn).gen with
  | some g => if g.host then s.genLost fn g else s
  | none => s

/-- Operations of a function that sent flits to a destination end LINK_DOWN (R310 step 3); its reads there have. Log entry 45. -/
def State.opsLost (s : State) (fn dst : Nat) : State :=
  if fn = 0 then s else if dst = 0 then s.hostOpsLost fn else s.peerLost fn dst

/-- A flit of the device's own is lost: its function is told, and its operations to that destination end (R310). -/
def State.ownLost (s : State) (f : Flit) (reason : Nat) : State :=
  let s := s.latchUnreach f.sfn f.dst f.addr reason
  let s := if f.sfn = 0 then s else s.fireEvent f.sfn 5
  let s := if f.ftype = 1 then s.writeLost f.sfn f.dst f.addr else s
  s.opsLost f.sfn f.dst

/-- Send UNREACHABLE for a discarded flit to its source, or tell this device's own function (R310). Reasons: 1 port DOWN,
2 DROP entry, 3 TTL, 4 stall, 5 fence. An unaddressed device sends none (R307). Log entry 41. -/
def State.unreach (s : State) (f : Flit) (reason : Nat) : State :=
  if flitAnswered f = false ∨ s.fld .JL_CHAIN_ADDR_VALID = 0 then s
  else if f.src = s.fld .JL_CHAIN_ADDR then s.ownLost f reason
  else s.sendTo { ftype := 5, sub := 2, dst := f.src, dfn := f.sfn, sfn := 0, vc := 1, len := 1,
                  payload := headerBytes f ++ leBytes 1 reason }

/-- Discard a flit that cannot be forwarded (R308). -/
def State.dropRoute (s : State) (f : Flit) (reason : Nat) : State := (s.satFld .JL_DROPS_ROUTE 0 0 1).unreach f reason

/-- Discard a flit that may not be delivered (R309). -/
def State.dropFence (s : State) (f : Flit) : State := (s.satFld .JL_DROPS_FENCE 0 0 1).unreach f 5

/-! ## Going DOWN (R307, R316) -/

/-- Flits that a port holds: retained, queued and buffered. -/
def State.portFlits (s : State) (p : Nat) : List Flit :=
  (s.link p).retained.map Prod.snd ++ (List.range 4).flatMap (s.egressOf p) ++ (s.link p).heldFlits.map Prod.snd

/-- The session of a port ends: keys, flits and counters go; training state and the last session number stay (R300). -/
def LinkPort.ended (l : LinkPort) : LinkPort :=
  { session := l.session, entered := l.entered, fecFrom := l.fecFrom, spareTx := l.spareTx, spareRx := l.spareRx }

/-- The adapter-side chain port is lost: ADAPTER_PORT switches to the other where that is UP, and a device with an address sends
BREAK (R307). Log entry 43. -/
def State.adapterSwitch (s : State) (p : Nat) : State :=
  if p = s.adapterPort ∧ p < 2 ∧ s.portUp (1 - p) = true then
    let s := s.setFld .JL_CHAIN_ADAPTER_PORT 0 0 (1 - p)
    if s.fld .JL_CHAIN_ADDR_VALID = 0 then s else
    s.sendAdapter { ftype := 5, sub := 0x0B, vc := 3, len := 1, payload := leBytes 1 (s.fld .JL_CHAIN_ADDR) ++ leBytes 1 p }
  else s

/-- Flits on the straits that satisfy `bad` (the strait they are on first) are taken off them: their units carry nothing. -/
def State.takeTransits (s : State) (bad : Nat → Transit → Bool) : State × List Transit :=
  let hit (n : Nat) (u : StraitUnit) : Bool := u.transit.any (bad n)
  ({ s with lanes := s.lanes.map (fun e => (e.1, e.2.mapUnits (fun u => if hit (e.1 / 8) u then { u with transit := none } else u))) },
   s.lanes.flatMap (fun e => (e.2.units.filter (hit (e.1 / 8))).filterMap (·.transit)))

/-- A port loses its session (R316 steps 2 to 6): its flits are discarded, those it received and that stand in the straits with
them. Log entry 44. -/
def State.portDrop (s : State) (p : Nat) : State :=
  let own := s.fld .JL_CHAIN_ADDR
  let (s, moving) := s.takeTransits (fun _ t => t.src == p)
  let gone := s.portFlits p ++ moving.map (·.flit)
  let hold := (s.link p).heldFlits.map Prod.snd
  let s := s.modLink p LinkPort.ended
  let s := { s with egress := storeEraseRange s.egress (4 * p) 4, heads := storeEraseRange s.heads (4 * p) 4 }
  let s := ((s.setFld .JL_PORT_STAT_REKEYING p 0 0).setFld .JL_PORT_STAT_KEY_PHASE p 0 0).setFld .JL_PORT_TXC_TXC p 0 0
  let s := s.failReads (fun k r => (r.opened.isSome && r.port == p) ||
    gone.any (fun f => f.ftype == 2 && f.src == own && 256 * f.sfn + f.tag == k))
  let s := s.adapterSwitch p
  let s := (gone.filter (fun f => f.src == own && f.ftype == 1)).foldl (fun s f => s.writeLost f.sfn f.dst f.addr) s
  let s := (gone.filter (fun f => f.src != own)).foldl (fun s f => s.unreach f 1) s
  s.portLate p hold

/-- A port goes DOWN with a cause (R316); the journal takes a LINK_FAIL record (R289, R456). Log entry 41. -/
def State.portDown (s : State) (p cause : Nat) : State :=
  let s := (s.setFld .JL_PORT_STAT_DOWN_CAUSE p 0 cause).satFld .JL_PORT_ERR2_DOWN_COUNT p 0 1
  let s := (s.enterPort p portIsDown).portDrop p
  (s.portEvent p .JL_PORT_EVT_DOWN_EVT).journal 0x53 (leBytes 1 p ++ leBytes 1 cause)

/-! ## Acknowledgement, credit and replay (R291, R293, R294) -/

/-- A switch-over of a lane runs at a port (R282). -/
def State.swapping (s : State) (p : Nat) : Bool :=
  (s.link p).swap.isSome || decide (s.capeCount p < (s.link p).txSwapUntil)

/-- Start a replay run; with REPLAY_LIMIT runs made since ACK last advanced the port goes DOWN (R293, R294). Log entry 41. -/
def State.replay (s : State) (p : Nat) : State :=
  let l := s.link p
  if l.retained.isEmpty then s
  else
    let counts := !s.swapping p
    if counts ∧ max 1 (s.fld .JL_PORT_CFG_REPLAY_LIMIT p) ≤ l.runs then s.portDown p 3
    else
      (s.modLink p (fun l => { l with resend := l.retained.length, acked := s.capeCount p,
                                      runs := if counts then l.runs + 1 else l.runs })).satFld .JL_PORT_ERR2_REPLAYS p 0 1

/-- A rekey ends once both directions have switched (R302). -/
def State.rekeyDone (s : State) (p : Nat) : State :=
  let l := s.link p
  let tx := s.fld .JL_PORT_STAT_KEY_PHASE p == 1
  if s.fld .JL_PORT_STAT_REKEYING p = 1 ∧ tx ≠ l.rekeyFromTx ∧ l.rxPhase ≠ l.rekeyFrom ∧ l.txSwitch = none then
    let s := s.modLink p (fun l =>
      { l with session := l.session + 1, digestT := l.newT, newT := [], ownShare := [], peerShare := [], accepted := false })
    (s.setFld .JL_PORT_STAT_REKEYING p 0 0).setFld .JL_PORT_STAT_SESSION p 0 (s.link p).session
  else s

/-- The transmit direction's old key is destroyed when ACK reaches S (R302 step 5). -/
def State.txSettle (s : State) (p : Nat) : State :=
  let l := s.link p
  match l.txSwitch with
  | none => s
  | some q =>
    if seqDist l.oldest q < 2 ^ 19 then
      ((s.modLink p (fun l => { l with txSwitch := none, oldTxc := none })).portEvent p .JL_PORT_EVT_REKEY_EVT).rekeyDone p
    else s

/-- Take the ACK of a verified flit. -/
def State.takeAck (s : State) (p ack : Nat) : State :=
  let l := s.link p
  let d := seqDist ack l.oldest
  if 0 < d ∧ d ≤ l.retained.length then
    (s.modLink p (fun l => { l with retained := l.retained.drop d, resend := min l.resend (l.retained.length - d),
                                    acked := s.capeCount p, runs := 0 })).txSettle p
  else s

/-- Take the credits of a verified flit (R291). -/
def State.takeCredits (s : State) (p : Nat) (cr : List Nat) : State :=
  s.modLink p (fun l =>
    { l with credits := l.credits.mapIdx (fun i c => c + (cr.getD i 0 + 512 - l.crTaken.getD i 0 % 512) % 512),
             crTaken := (List.range 4).map (fun i => cr.getD i 0 % 512) })

/-- A slot of a receive buffer is freed (R290). -/
def State.freeSlot (s : State) (p vc : Nat) : State := s.modLink p (fun l => { l with freed := bumpAt vc 1 l.freed 512 })

/-- A flit is lost or out of order: it is discarded, as is every later sequenced flit until the expected SEQ arrives, and the next
outgoing flit carries NAK (R293). Log entry 41. -/
def State.lostFlit (s : State) (p : Nat) : State := s.modLink p (fun l => { l with discarding := true, nak := true })

/-- A sequenced flit arrives whose SEQ is not the one expected: the first of a run asks for a replay, the others are discarded with
it (R293). Log entry 41. -/
def State.outOfOrder (s : State) (p : Nat) : State := if (s.link p).discarding then s else s.lostFlit p

/-- A flit passes its CRC and fails its tag (R289). -/
def State.authFail (s : State) (p : Nat) : State :=
  ((s.satFld .JL_PORT_ERR2_AUTH_FAIL p 0 1).portEvent p .JL_PORT_EVT_AUTH_EVT).portDown p 4

/-- The receive key of a phase is live (R302 step 4): the current one, or in a rekey the new one once installed. -/
def State.phaseLive (s : State) (p : Nat) (ph : Bool) : Bool :=
  let l := s.link p
  ph == l.rxPhase || (s.fld .JL_PORT_STAT_REKEYING p == 1 && l.accepted && l.rxPhase == l.rekeyFrom)

/-- Count corrected symbols of a port (JL_PORT_ERR). Log entry 41. -/
def State.fecCorr (s : State) (p n : Nat) : State := if n = 0 then s else s.satFld .JL_PORT_ERR_FEC_CORR p 0 n

/-- The close of a rekey's window (R303, R315). -/
def LinkPort.rekeyClose (l : LinkPort) : Nat := l.rekeyOpened + 160000000

/-- The head of a virtual channel changes, or the queue behind it. -/
def State.setEgress (s : State) (p vc : Nat) (q : List Flit) : State :=
  let opened := if q.isEmpty then 0 else if q.head? = (s.egressOf p vc).head? then storeGet 0 s.heads (4 * p + vc) else s.capeCount p
  { s with egress := storeSet [] s.egress (4 * p + vc) q, heads := storeSet 0 s.heads (4 * p + vc) opened }

/-- A rekey is abandoned: its shares go, a REKEY_SWITCH not yet sent with them, and it starts again 10 ms later (R303). A
direction that has switched stays under its new key, its old one being destroyed; the other stays under its old key. Log entry 42.
-/
def State.rekeyAbandon (s : State) (p : Nat) : State :=
  let s := s.modLink p (fun l => { l with newT := [], ownShare := [], peerShare := [], accepted := false,
                                          rekeyAgain := some (s.capeCount p) })
  (s.setEgress p 3 ((s.egressOf p 3).filter (fun f => !(f.ftype == 6 && f.sub == 6)))).setFld .JL_PORT_STAT_REKEYING p 0 0

/-- What the windows of a port that have closed before a flit verifies, or leaves, have done: a rekey abandoned, DOWN for want of a
verified flit, a replay of what is not acknowledged (R303, R315). Log entry 41. -/
def State.windowsClosed (s : State) (p : Nat) : State :=
  let s := if s.fld .JL_PORT_STAT_REKEYING p = 1 ∧ s.inWindow (capeIsland p) (s.link p).rekeyClose = false then s.rekeyAbandon p else s
  let l := s.link p
  if s.inWindow (capeIsland p) (l.verified + 16000) = false then s.portDown p 7
  else if l.retained.isEmpty = false ∧
      s.inWindow (capeIsland p) (l.acked + max 1 (s.fld .JL_PORT_CFG_REPLAY_TIMEOUT p)) = false then s.replay p
  else s

/-- A flit reaches a port UP, past FEC and CRC (R289 steps 3 to 5). The second part says that a sequenced flit is accepted.
Log entries 12 and 42. -/
def State.linkIn (s : State) (p : Nat) (rx : RxFlit) : State × Bool :=
  let s := (s.fecCorr p rx.corrected).windowsClosed p
  if s.portState p ≠ portIsUp then (s, false)
  else if !rx.tagOk then (s.authFail p, false)
  else if !s.phaseLive p rx.link.keyPhase then (s, false)
  else
    let s := s.modLink p (fun l => { l with verified := s.capeCount p, rxTxc := rx.link.txc })
    let s := (s.takeCredits p rx.link.cr).takeAck p rx.link.ack
    let s := if rx.link.nak then s.replay p else s
    if s.portState p ≠ portIsUp ∨ rx.flit.ftype = 0 then (s, false)
    else if rx.link.seq = (s.link p).rxSeq ∧ rx.link.keyPhase = (s.link p).rxPhase then
      ((s.modLink p (fun l => { l with rxSeq := (l.rxSeq + 1) % 2 ^ 20, discarding := false })).addFld .JL_PORT_RX_FLITS_FLITS p 0 1, true)
    else (s.outOfOrder p, false)

/-! ## Sending (R288, R290, R293, R302) -/

/-- The greatest TXC a key may reach before new flits stop (R303). -/
def txcLimit : Nat := 2 ^ 48 - 2 ^ 24

/-- The link word of a flit that leaves: key phase and TXC of its key, NAK, credits returned, ACK, SEQ (R286). -/
def LinkPort.word (l : LinkPort) (phase : Bool) (txc seq : Nat) : LinkWord :=
  { keyPhase := phase, nak := l.nak, cr := l.freed.map (· % 512), ack := l.rxSeq, seq := seq, txc := txc }

/-- Any flit leaves under the current key with its link word: TXC rises (R286, R288). -/
def State.sentFlit (s : State) (p : Nat) (f : Flit) (seq : Nat) : State :=
  let phase := s.fld .JL_PORT_STAT_KEY_PHASE p == 1
  let txc := s.fld .JL_PORT_TXC_TXC p
  (s.modLink p (fun l => { l with sent := some (f, l.word phase txc seq), nak := false })).addFld .JL_PORT_TXC_TXC p 0 1

/-- An IDLE flit leaves: 512 zero bytes, the next SEQ to be assigned (R285, R286). -/
def State.sentIdle (s : State) (p : Nat) : State := s.sentFlit p { payload := List.replicate 512 0 } (s.link p).txSeq

/-- Resend the next retained flit of a replay (R293), under the old key before S (R302 step 3). -/
def State.resendFlit (s : State) (p : Nat) : State :=
  let l := s.link p
  let (q, f) := (l.retained.drop (l.retained.length - l.resend)).headD (0, {})
  let s := s.modLink p (fun l => { l with resend := l.resend - 1 })
  match l.txSwitch, l.oldTxc with
  | some sw, some t =>
    if 2 ^ 19 ≤ seqDist q sw then
      let old := s.fld .JL_PORT_STAT_KEY_PHASE p == 0
      s.modLink p (fun l => { l with sent := some (f, l.word old t q), nak := false, oldTxc := some (t + 1) })
    else s.sentFlit p f q
  | _, _ => s.sentFlit p f q

/-- The head of an egress queue leaves it. -/
def State.popEgress (s : State) (p vc : Nat) : State :=
  let rest := (s.egressOf p vc).drop 1
  { s with egress := storeSet [] s.egress (4 * p + vc) rest,
           heads := storeSet 0 s.heads (4 * p + vc) (if rest.isEmpty then 0 else s.capeCount p) }

/-- The close of the stall window of a queue's head (R311, R315). -/
def State.stallClose (s : State) (p vc : Nat) : Nat := storeGet 0 s.heads (4 * p + vc) + 1600 * max 1 (s.fld .JL_DEV_CFG_FLIT_STALL_US)

/-- The head of an egress queue has stalled past its window: it is discarded, and its source told (R311, R315). -/
def State.dropStalled (s : State) (p vc : Nat) : State :=
  match s.egressOf p vc with
  | f :: _ => if s.inWindow (capeIsland p) (s.stallClose p vc) then s else (s.popEgress p vc).dropRoute f 4
  | [] => s

/-- A read's READ_REQ leaves the port: its window opens (R315). -/
def State.readLeaves (s : State) (p : Nat) (f : Flit) : State :=
  if f.ftype = 2 ∧ f.src = s.fld .JL_CHAIN_ADDR then
    { s with reads := s.reads.map (fun e => if e.1 = 256 * f.sfn + f.tag ∧ e.2.opened = none then
                                     (e.1, { e.2 with opened := some (s.capeCount p), port := p }) else e) }
  else s

/-- REKEY_SWITCH has been sent: the transmit direction switches keys after it (R302 steps 1, 2). -/
def State.switchTx (s : State) (p : Nat) : State :=
  let t := s.fld .JL_PORT_TXC_TXC p
  let s := s.modLink p (fun l => { l with txSwitch := some l.txSeq, oldTxc := some t })
  (s.setFld .JL_PORT_STAT_KEY_PHASE p 0 (1 - s.fld .JL_PORT_STAT_KEY_PHASE p)).setFld .JL_PORT_TXC_TXC p 0 0

/-- Send a new sequenced flit; a REKEY_SWITCH switches the direction while its rekey runs (R302, R303). Log entry 41. -/
def State.sendNew (s : State) (p : Nat) (f : Flit) : State :=
  let l := s.link p
  let s := s.popEgress p f.vc
  let s := s.modLink p (fun l =>
    { l with retained := l.retained ++ [(l.txSeq, f)], txSeq := (l.txSeq + 1) % 2 ^ 20,
             credits := l.credits.mapIdx (fun i c => if i = f.vc then c - 1 else c),
             acked := if l.retained.isEmpty then s.capeCount p else l.acked })
  let s := ((s.sentFlit p f l.txSeq).addFld .JL_PORT_TX_FLITS_FLITS p 0 1).readLeaves p f
  if f.ftype = 6 ∧ f.sub = 6 ∧ l.txSwitch = none ∧ s.fld .JL_PORT_STAT_REKEYING p = 1 then s.switchTx p else s

/-- A flit fails its CRC, or lies in an uncorrectable codeword (R278, R289, R293). -/
def execFlitCorrupt (p : Nat) (bad : BadFlit) (s : State) : Result :=
  match bad with
  | ⟨uncorr, corrected⟩ =>
  if s.portState p = portKeying ∨ s.portState p = portIsUp then
    let s := (s.fecCorr p corrected).satFld (if uncorr then .JL_PORT_ERR_FEC_UNCORR else .JL_PORT_ERR_CRC_FAIL) p 0 1
    ok (if s.portState p = portIsUp then s.lostFlit p else s)
  else ok s

/-- REPLAY_TIMEOUT closes with flits unacknowledged (R293, R315). -/
def execReplayTimeout (p : Nat) (s : State) : Result :=
  if s.portState p = portIsUp ∧ (s.link p).retained ≠ [] then
    ok ((s.reachCount (capeIsland p) ((s.link p).acked + max 1 (s.fld .JL_PORT_CFG_REPLAY_TIMEOUT p))).replay p)
  else ok s

/-- No flit has verified for 10 µs (R297, R315). -/
def execLivenessTimeout (p : Nat) (s : State) : Result :=
  if s.portState p = portIsUp then
    ok ((s.reachCount (capeIsland p) ((s.link p).verified + 16000)).portDown p 7)
  else ok s

/-- A key reaches 2^48 - 2^24 flits without a switch-over (R303). -/
def execCounterLimit (p : Nat) (s : State) : Result :=
  if s.portState p = portIsUp ∧ txcLimit ≤ s.fld .JL_PORT_TXC_TXC p then ok (s.portDown p 6) else ok s

/-! ## Routing (R285, R308, R309) -/

/-- The strait class of a virtual channel (R290). -/
def vcClass (vc : Nat) : Nat := if vc = 3 then 1 else 0

/-- Forward a flit that arrived on a port over another (R308). Between capes it crosses the straits in the class of its channel
(R290): its 576 bytes are nine units, and it arrives with the last; a FAILED strait on its way discards it. Log entries 43 and
62. -/
def State.forward (s : State) (p : Nat) (f : Flit) (q : Nat) : State :=
  if f.ttl = 0 then s.dropRoute f 3
  else if 24 ≤ q then s.dropRoute f 2
  else if s.portUp q = false then s.dropRoute f 1
  else if capeIsland p = capeIsland q then s.queueFlit q { f with ttl := f.ttl - 1 }
  else if s.routeFailed (capeIsland p) (capeIsland q) then s.dropRoute f 1
  else
    let s := s.straitPut (capeIsland p) (vcClass f.vc) { dst := capeIsland q } 8
    s.straitPut (capeIsland p) (vcClass f.vc) { dst := capeIsland q, transit := some { src := p, dst := q, flit := f } } 1

/-- A flit that crosses the straits has arrived at the cape of its outgoing port: it enters that port's queue, and leaves the
receive buffer it came in by (R290). -/
def State.transitArrives (s : State) (t : Transit) : State :=
  let s := if s.portUp t.dst then s.queueFlit t.dst { t.flit with ttl := t.flit.ttl - 1 } else s.dropRoute t.flit 1
  s.freeSlot t.src t.flit.vc

/-- A flit is an access of a control window (R285, R314). -/
def windowFlit (f : Flit) : Bool := (f.ftype == 1 || f.ftype == 2) && f.sub == 1

/-- A flit addressed to this device may be delivered (R309, R400, R403 step 4, R405); a control window is reached over a chain port
only (R484). -/
def State.mayDeliver (s : State) (p : Nat) (f : Flit) : Bool :=
  if p < 2 then s.fnLive f.dfn || (f.dfn == 0 && f.src == 0)
  else let h := s.ownerOfPort p; h != 0 && f.dfn == h && s.fnEnabled h && !windowFlit f

/-- Where a flit goes: to this device, onward, or nowhere. -/
inductive FlitRoute where
  | here | onward (port : Nat) | spread
  deriving DecidableEq, Repr

/-- The route of a flit (R308): an entry that names LOCAL delivers here. An unaddressed device takes part in link sessions and
CLAIMs only (R307). Log entry 43. -/
def State.routeFlit (s : State) (f : Flit) : FlitRoute :=
  if s.fld .JL_CHAIN_ADDR_VALID = 0 then .onward 0x1F
  else if f.dst = 0xFF then .spread
  else if f.dst = s.fld .JL_CHAIN_ADDR ∨ s.routeOf f.dst = 0x1E then .here
  else .onward (s.routeOf f.dst)

/-- Route a flit that a port has accepted: deliver it here by `act` where the fence allows, forward it, or discard it. -/
def State.routeIn (s : State) (p : Nat) (f : Flit) (act : State → State) : State :=
  match s.routeFlit f with
  | .here => if s.mayDeliver p f then act s else s.dropFence f
  | .onward q => s.forward p f q
  | .spread =>
    if f.ftype ≠ 5 then s.dropRoute f 2
    else
      let s := if s.mayDeliver p f then act s else s.dropFence f
      if p < 2 ∧ s.portUp (1 - p) = true ∧ 0 < f.ttl then s.queueFlit (1 - p) { f with ttl := f.ttl - 1 } else s

/-- A flit accepted at a port crosses the straits to another cape: it holds its slot until it arrives there (R290, R308). -/
def State.transits (s : State) (p : Nat) (f : Flit) : Bool :=
  match s.routeFlit f with
  | .onward q => f.ttl != 0 && decide (q < 24) && s.portUp q && capeIsland p != capeIsland q &&
      !s.routeFailed (capeIsland p) (capeIsland q)
  | _ => false

/-- The slot of a flit that has been handled is free, unless the flit crosses the straits. -/
def State.slotAfter (s : State) (p : Nat) (f : Flit) (moving : Bool) : State := if moving then s else s.freeSlot p f.vc

/-- A routed flit of a kind arrives at a port: accepted, handled, its slot freed. A port that is not UP takes none, and an
operand of another kind is no such arrival. -/
def State.arrive (s : State) (p : Nat) (rx : RxFlit) (kind : Bool) (act : State → State) : State :=
  if kind = false ∨ s.portPresent p = false ∨ s.portState p ≠ portIsUp then s
  else match s.linkIn p rx with
    | (s, false) => s
    | (s, true) => (s.routeIn p rx.flit act).slotAfter p rx.flit (s.transits p rx.flit)

/-- A MESSAGE of a subtype. -/
def isMessage (rx : RxFlit) (sub : Nat) : Bool := rx.flit.ftype == 5 && rx.flit.sub == sub

/-- A verified IDLE flit: its acknowledgement and credits are taken (R286). -/
def execIdle (p : Nat) (rx : RxFlit) (s : State) : Result :=
  if rx.flit.ftype = 0 ∧ s.portPresent p = true ∧ s.portState p = portIsUp then ok (s.linkIn p rx).1 else ok s

/-- MESSAGE subtypes that R285 defines. -/
def definedMessage (sub : Nat) : Bool :=
  sub == 1 || sub == 2 || (decide (8 ≤ sub) && decide (sub ≤ 0xB)) || (decide (0x40 ≤ sub) && decide (sub ≤ 0x42))

/-- An INTERRUPT message travels toward the adapter; a device takes none (R313). -/
def execInterrupt (p : Nat) (rx : RxFlit) (s : State) : Result := ok (s.arrive p rx (isMessage rx 1) id)

/-- CLAIM_ACK, CLAIM_END, PROBE_ACK and BREAK travel to the adapter, which consumes them (R313). -/
def execClaimAck (p : Nat) (rx : RxFlit) (s : State) : Result := ok (s.arrive p rx (isMessage rx 8) id)
def execClaimEnd (p : Nat) (rx : RxFlit) (s : State) : Result := ok (s.arrive p rx (isMessage rx 9) id)
def execProbeAck (p : Nat) (rx : RxFlit) (s : State) : Result := ok (s.arrive p rx (isMessage rx 0xA) id)
def execBrk (p : Nat) (rx : RxFlit) (s : State) : Result := ok (s.arrive p rx (isMessage rx 0xB) id)

/-- An UNREACHABLE for a function of this device: latched, its event raised, its reads to that destination ended (R310).
Log entry 45. -/
def State.takeUnreachable (s : State) (f : Flit) : State :=
  let h := bytesAt f.payload 0 16
  let fn := f.dfn
  s.ownLost { ftype := bits h 0 8, sub := bits h 8 8, dst := bits h 24 8, sfn := fn, addr := bits h 64 64 } (bytesAt f.payload 16 1)

/-- An UNREACHABLE message arrives (R310). -/
def execUnreachable (p : Nat) (rx : RxFlit) (s : State) : Result :=
  ok (s.arrive p rx (isMessage rx 2) (fun s => s.takeUnreachable rx.flit))

/-- A flit at the head of an egress queue stalls: discarded, and its source told (R311, R315). -/
def execFlitStall (p vc : Nat) (s : State) : Result :=
  match s.portState p == portIsUp, s.egressOf p vc with
  | true, f :: _ =>
    if vc < 4 then
      let s := s.reachCount (capeIsland p) (s.stallClose p vc)
      ok ((s.popEgress p vc).dropRoute f 4)
    else ok s
  | _, _ => ok s

/-! ## Reads of the host (R312, R315) -/

/-- The close of a read's window (R315). -/
def State.readClose (s : State) (opened : Nat) : Nat := opened + 1600 * max 1 (s.fld .JL_DEV_CFG_READ_TIMEOUT_US)

/-- A READ_RSP for a read of this device's, inside its window: the read is answered, its tag is free, and ranges that wait are asked
for (R312, R315). Log entry 26. -/
def State.takeReadRsp (s : State) (f : Flit) : State :=
  match s.reads.find? (fun e => e.1 == 256 * f.dfn + f.tag) with
  | none => s
  | some (k, r) =>
    if r.dst ≠ f.src ∨ r.opened.any (fun c => !s.inWindow (capeIsland r.port) (s.readClose c)) = true then s else
    let r : ReadReq := { r with done := some (statusOf f.sub), data := f.payload.take r.len }
    let s := s.straitOffer (capeIsland r.port) r.home 0 (unitsOf r.data.length)
    State.issueReads 256 { s with reads := storeErase s.reads k, readData := s.readData ++ [(f.dfn, r)] }

/-- A READ_RSP arrives (R312). -/
def execReadRsp (p : Nat) (rx : RxFlit) (s : State) : Result :=
  ok (s.arrive p rx (rx.flit.ftype == 3) (fun s => s.takeReadRsp rx.flit))

/-- A read exceeds READ_TIMEOUT (R315). -/
def execReadTimeout (fn tag : Nat) (s : State) : Result :=
  match s.reads.find? (fun e => e.1 == 256 * fn + tag) with
  | some (k, r) =>
    match r.opened, r.done with
    | some c, none =>
      let s := s.reachCount (capeIsland r.port) (s.readClose c)
      ok (State.issueReads 256 (s.failReads (fun j _ => j == k)))
    | _, _ => ok s
  | none => ok s

/-! ## Reduction traffic (R321, R323, R338) -/

/-- A REDUCE flit at the head of a port's VC2, verified at the count `seen`: routed, or left there; the second part says that it
stays (R323). Log entry 39. -/
def State.reduceHead (s : State) (p seen : Nat) (f : Flit) : State × Bool :=
  match s.routeFlit f with
  | .here => if s.mayDeliver p f then s.reduceDeliver p seen f else (s.dropFence f, false)
  | .onward q => (s.forward p f q, false)
  | .spread => (s.dropRoute f 2, false)

/-- Judge the flits of a port's VC2 in order, up to one that stays. Log entry 39. -/
def State.releaseHeld (s : State) (p : Nat) : State :=
  let go := (s.link p).heldFlits.foldl (fun (acc : State × List (Nat × Flit)) f =>
    match acc.2 with
    | _ :: _ => (acc.1, acc.2 ++ [f])
    | [] =>
      match acc.1.reduceHead p f.1 f.2 with
      | (s, true) => (s, [f])
      | (s, false) => (s.slotAfter p f.2 (acc.1.transits p f.2), [])) (s, [])
  go.1.modLink p (fun l => { l with heldFlits := go.2 })

/-- A REDUCE flit arrives: it joins VC2 behind any that stay, and the channel is judged (R323). -/
def State.arriveReduce (s : State) (p : Nat) (rx : RxFlit) (sub : Nat) : State :=
  if rx.flit.ftype ≠ 4 ∨ rx.flit.sub ≠ sub ∨ s.portPresent p = false ∨ s.portState p ≠ portIsUp then s
  else match s.linkIn p rx with
    | (s, false) => s
    | (s, true) => (s.modLink p (fun l => { l with heldFlits := l.heldFlits ++ [(s.verifyCount p rx.flit, rx.flit)] })).releaseHeld p

def execRs (p : Nat) (rx : RxFlit) (s : State) : Result := ok (s.arriveReduce p rx 1)
def execRsEnd (p : Nat) (rx : RxFlit) (s : State) : Result := ok (s.arriveReduce p rx 2)
def execAg (p : Nat) (rx : RxFlit) (s : State) : Result := ok (s.arriveReduce p rx 3)
def execAgEnd (p : Nat) (rx : RxFlit) (s : State) : Result := ok (s.arriveReduce p rx 4)
def execUp (p : Nat) (rx : RxFlit) (s : State) : Result := ok (s.arriveReduce p rx 5)
def execUpEnd (p : Nat) (rx : RxFlit) (s : State) : Result := ok (s.arriveReduce p rx 6)
def execDown (p : Nat) (rx : RxFlit) (s : State) : Result := ok (s.arriveReduce p rx 7)
def execDownEnd (p : Nat) (rx : RxFlit) (s : State) : Result := ok (s.arriveReduce p rx 8)

/-- A verified flit of a reserved type, or a MESSAGE of a reserved subtype: discarded and counted (R285). A REDUCE flit of a
reserved SUB is one for the function's stale count (R330): it arrives as those of the defined ones do. -/
def execFlitReservedType (p : Nat) (rx : RxFlit) (s : State) : Result :=
  let reserved := decide (7 ≤ rx.flit.ftype) || (rx.flit.ftype == 5 && !definedMessage rx.flit.sub)
  if rx.flit.ftype = 4 ∧ (rx.flit.sub = 0 ∨ 8 < rx.flit.sub) then ok (s.arriveReduce p rx rx.flit.sub)
  else if reserved = true ∧ s.portPresent p = true ∧ s.portState p = portIsUp then
    match s.linkIn p rx with
    | (s, false) => ok s
    | (s, true) => ok ((s.satFld .JL_DROPS_ROUTE 0 0 1).freeSlot p rx.flit.vc)
  else ok s

/-- Held flits are judged again once the job moves on (R323). -/
def execHeldFlitRelease (p : Nat) (s : State) : Result :=
  if s.portState p = portIsUp then ok (s.releaseHeld p) else ok s

/-- Reduction messages (R338): VOTE, VOTE_RESULT, STEP_ABORT. -/
def execVote (p : Nat) (rx : RxFlit) (s : State) : Result :=
  ok (s.arrive p rx (isMessage rx 0x40) (fun s => s.reductionMessage rx.flit))
def execVoteResult (p : Nat) (rx : RxFlit) (s : State) : Result :=
  ok (s.arrive p rx (isMessage rx 0x41) (fun s => s.reductionMessage rx.flit))
def execStepAbort (p : Nat) (rx : RxFlit) (s : State) : Result :=
  ok (s.arrive p rx (isMessage rx 0x42) (fun s => s.reductionMessage rx.flit))

end Sys2Proof.Machine
end

