-- ==== Sys2Proof/Machine/LinkKey.lean ====
section
/-! DEFINITION. Link sessions: bring-up, the key exchange, rekey; lane sparing; the chain (R276-R307, R317). -/

namespace Sys2Proof.Machine

/-! ## Link control messages (R298) -/

/-- A payload as its 512 bytes. -/
def pad512 (bs : List Byte) : List Byte := (bs ++ List.replicate 512 0).take 512

/-- A LINK_CTRL flit of a port. -/
def linkCtrl (sub : Nat) (payload : List Byte) : Flit :=
  { ftype := 6, sub := sub, vc := 3, len := (payload.length + 31) / 32, payload := payload }

/-- A LINK_CTRL operand of a subtype. -/
def isCtrl (rx : RxFlit) (sub : Nat) : Bool := rx.flit.ftype == 6 && rx.flit.sub == sub

/-- Queue a LINK_CTRL flit on VC3. -/
def State.sendCtrl (s : State) (p : Nat) (f : Flit) : State := s.queueFlit p f

/-- Send messages of KEYING: they stay unanswered until the peer's message that follows them comes (R298). Log entry 42. -/
def State.sendKeying (s : State) (p : Nat) (fs : List Flit) : State :=
  fs.foldl (fun s f => s.sendCtrl p f) (s.modLink p (fun l => { l with unanswered := l.unanswered ++ fs }))

/-- A message of the peer in KEYING answers own messages of lower subtypes: HELLO is answered by KEY_SHARE, that by CERT, CERT by
KEY_AUTH, KEY_AUTH by KEY_DONE (R298). Log entry 42. -/
def LinkPort.answered (l : LinkPort) (sub : Nat) : LinkPort :=
  if sub < 6 then { l with unanswered := l.unanswered.filter (fun f => decide (sub ≤ f.sub)) } else l

/-- A flit is unprotected as R298 lays down: TXC 0, KEY_PHASE 0, its tag field zero. -/
def unprotected (rx : RxFlit) : Bool := rx.link.txc == 0 && !rx.link.keyPhase && rx.tagOk

/-- The deterministic random bit generator works (R409). Log entry 48. -/
def State.drbgOk (s : State) : Bool := s.fld .SEC_DEV_STAT_DRBG != 2

/-- Free bytes: random values, signatures. Log entry 48. -/
def State.drawBytes (s : State) (n : Nat) : State × List Byte :=
  ({ s with freeCtr := s.freeCtr + n }, (List.range n).map (fun k => BitVec.ofNat 8 (Config.freeNat (s.freeCtr + k))))

/-- The DRBG reseeds from the entropy source: SEC_DRBG.RESEEDS (R408). Log entry 48. -/
def State.drbgReseeds (s : State) : State := { s with drbgCount := 0 }.satFld .SEC_DRBG_RESEEDS 0 0 1

/-- A generate request: the DRBG has reseeded after every 2^20 of them (R408). Log entry 48. -/
def State.generates (s : State) : State :=
  let s := if 2 ^ 20 ≤ s.drbgCount then s.drbgReseeds else s
  { s with drbgCount := s.drbgCount + 1 }

/-- Own HELLO. -/
def State.ownHelloOf (s : State) (p : Nat) : List Byte :=
  leBytes 1 p ++ leBytes 1 (s.fld .JL_CHAIN_ADDR_VALID) ++ leBytes 1 (s.fld .JL_CHAIN_ADDR) ++ leBytes 1 (partCode s.pkg.part) ++
    leBytes 4 0 ++ leBytes 8 (s.link p).session

/-- A port enters KEYING and sends HELLO (R296 step 3). Log entry 42. -/
def State.enterKeying (s : State) (p : Nat) : State :=
  let s := s.enterPort p portKeying
  let h := s.ownHelloOf p
  (s.modLink p (fun l => { l with ownHello := pad512 h })).sendKeying p [linkCtrl 1 h]

/-- Form and send a KEY_SHARE for a session number: X448 public key, random, number. -/
def State.sendShare (s : State) (p session : Nat) (keying : Bool) : State :=
  if s.drbgOk then
    let (s, r) := s.drawBytes 88
    let body := r ++ leBytes 8 session
    let s := (s.modLink p (fun l => { l with ownShare := pad512 body })).generates
    if keying then s.sendKeying p [linkCtrl 2 body] else s.sendCtrl p (linkCtrl 2 body)
  else s

/-- The device's certificate chain as CERT payloads. -/
def ownCerts : List (List Byte) :=
  let cs := chunksOf 496 (deviceChain.length + 1) deviceChain
  cs.zipIdx.map (fun c => leBytes 2 c.2 ++ leBytes 2 cs.length ++ leBytes 2 c.1.length ++ leBytes 10 0 ++ c.1)

/-- This end is end A: its public key is the smaller (R298). -/
def LinkPort.isA (l : LinkPort) : Bool := leNat (l.ownShare.take 56) < leNat (l.peerShare.take 56)

/-- The terms of both ends in the order A, B. -/
def LinkPort.inOrder (l : LinkPort) (own peer : List Byte) : List Byte := if l.isA then own ++ peer else peer ++ own

/-- The peer's CERT payloads in order. -/
def LinkPort.peerCerts (l : LinkPort) : List Byte := l.certs.flatMap Prod.snd

/-- The peer's chain, DER. -/
def LinkPort.peerChain (l : LinkPort) : List Byte := l.certs.flatMap (fun e => (e.2.drop 16).take (bytesAt e.2 4 2))

/-- T of a session (R298). -/
def LinkPort.sessionT (l : LinkPort) : List Byte :=
  shake256 64 (l.inOrder l.ownHello l.peerHello ++ l.inOrder l.ownShare l.peerShare ++ l.inOrder (ownCerts.flatMap pad512) l.peerCerts)

/-- T of a rekey (R301). -/
def LinkPort.rekeyT (l : LinkPort) : List Byte := shake256 64 (l.digestT ++ l.inOrder l.ownShare l.peerShare)

/-- A KEY_AUTH signature verifies over T with context "TVJL" (R298). -/
def authVerifies (key t sig : List Byte) : Bool := Config.ed448Verify key (asciiBytes "TVJL") t sig

/-- The session number of the exchange that runs at a port. -/
def LinkPort.nextSession (l : LinkPort) : Nat := max (bytesAt l.ownHello 8 8) (bytesAt l.peerHello 8 8) + 1

/-- The window of KEYING, or of a rekey, is open (R315). -/
def State.keyingOpen (s : State) (p : Nat) : Bool := s.inWindow (capeIsland p) ((s.link p).entered + 160000000)
def State.rekeyOpen (s : State) (p : Nat) : Bool :=
  s.fld .JL_PORT_STAT_REKEYING p == 1 && s.inWindow (capeIsland p) (s.link p).rekeyClose

/-- A LINK_CTRL flit arrives: in KEYING, unprotected and inside the window, `keying` handles it (R295, R298, R315); UP, sequenced,
`up` handles it once accepted. -/
def State.arriveCtrl (s : State) (p : Nat) (rx : RxFlit) (sub : Nat) (keying up : State → State) : State :=
  if isCtrl rx sub = false ∨ s.portPresent p = false then s
  else if s.portState p = portKeying then
    let s := s.fecCorr p rx.corrected
    if unprotected rx = true ∧ s.keyingOpen p = true then keying (s.modLink p (fun l => l.answered sub)) else s
  else if s.portState p = portIsUp then
    match s.linkIn p rx with
    | (s, false) => s
    | (s, true) => (up s).freeSlot p 3
  else s

/-! ## Bring-up (R295-R299) -/

/-- Training starts (R295); after a thermal trip the cape's PLL is stopped (R484). -/
def State.startTraining (s : State) (p : Nat) : State := if s.pins.tripped then s else s.enterPort p portTraining

/-- Training has assigned eight lanes and locked FEC within 51 ms: KEYING (R276, R296, R297). -/
def execTrainingDone (p txSpare rxSpare : Nat) (s : State) : Result :=
  if s.portState p = portTraining ∧ s.portPresent p = true ∧ txSpare < 9 ∧ rxSpare < 9 ∧
      s.inWindow (capeIsland p) ((s.link p).entered + 81600000) = true then
    let s := s.modLink p (fun l => { l with spareTx := txSpare, spareRx := rxSpare, fecFrom := s.capeCount p })
    ok (((s.setFld .JL_PORT_STAT_SPARE_TX p 0 0xF).setFld .JL_PORT_STAT_SPARE_RX p 0 0xF).enterKeying p)
  else ok s

/-- Training has not ended within 51 ms (R297). -/
def execTrainTimeout (p : Nat) (s : State) : Result :=
  if s.portState p = portTraining then
    ok ((s.reachCount (capeIsland p) ((s.link p).entered + 81600000)).portDown p 1)
  else ok s

/-- 10 ms after DOWN, with AUTO_RETRY: training again (R295). -/
def execPortRetry (p : Nat) (s : State) : Result :=
  if s.portState p = portIsDown ∧ s.fld .JL_PORT_CTL_AUTO_RETRY p = 1 ∧ s.fld .JL_PORT_CTL_ENABLE p = 1 then
    ok ((s.reachCount (capeIsland p) ((s.link p).entered + 15999999)).startTraining p)
  else ok s

/-- The peer's HELLO: what it says of itself, and the session number to come; KEY_SHARE answers it (R298). -/
def State.takeHello (s : State) (p : Nat) (f : Flit) : State :=
  if (s.link p).peerHello ≠ [] then s
  else
    let b := f.payload
    let s := s.modLink p (fun l => { l with peerHello := pad512 b })
    let s := (s.setFld .JL_PORT_STAT_PEER_PORT p 0 (bytesAt b 0 1)).setFld .JL_PORT_STAT_PEER_ADDR_VALID p 0 (bytesAt b 1 1)
    let s := s.setFld .JL_PORT_STAT_PEER_ADDR p 0 (bytesAt b 2 1)
    s.sendShare p (s.link p).nextSession true

/-- HELLO arrives (R298); in session it has no meaning. -/
def execHello (p : Nat) (rx : RxFlit) (s : State) : Result := ok (s.arriveCtrl p rx 1 (fun s => s.takeHello p rx.flit) id)

/-- A rekey starts: this end sends its KEY_SHARE (R301). -/
def State.startRekey (s : State) (p : Nat) : State :=
  if s.portState p = portIsUp ∧ s.fld .JL_PORT_STAT_REKEYING p = 0 then
    let tx := s.fld .JL_PORT_STAT_KEY_PHASE p == 1
    let s := s.modLink p (fun l => { l with rekeyFrom := l.rxPhase, rekeyFromTx := tx, rekeyOpened := s.capeCount p, rekeyAgain := none,
                                            newT := [], ownShare := [], peerShare := [], accepted := false })
    (s.setFld .JL_PORT_STAT_REKEYING p 0 1).sendShare p ((s.link p).session + 1) false
  else s

/-- Both shares of an exchange are known: KEY_AUTH signs its T. -/
def State.sendAuth (s : State) (p : Nat) (t : List Byte) (keying : Bool) : State :=
  let (s, sig) := s.drawBytes 114
  if keying then (s.modLink p (fun l => { l with digestT := t })).sendKeying p [linkCtrl 4 sig]
  else (s.modLink p (fun l => { l with newT := t })).sendCtrl p (linkCtrl 4 sig)

/-- The peer's share in KEYING: the certificate chain answers it (R298). -/
def State.takeShare (s : State) (p : Nat) (f : Flit) : State :=
  let l := s.link p
  if l.ownShare = [] ∨ l.peerShare ≠ [] ∨ bytesAt f.payload 88 8 ≠ l.nextSession then s
  else (s.modLink p (fun l => { l with peerShare := pad512 f.payload })).sendKeying p (ownCerts.map (linkCtrl 3))

/-- The peer's share in a rekey: an end that has not sent its own answers with it; KEY_AUTH follows (R301). -/
def State.takeRekeyShare (s : State) (p : Nat) (f : Flit) : State :=
  let s := s.startRekey p
  let l := s.link p
  if l.ownShare = [] ∨ l.peerShare ≠ [] ∨ bytesAt f.payload 88 8 ≠ l.session + 1 then s
  else
    let s := s.modLink p (fun l => { l with peerShare := pad512 f.payload })
    s.sendAuth p (s.link p).rekeyT false

/-- KEY_SHARE arrives (R298, R301). -/
def execKeyShare (p : Nat) (rx : RxFlit) (s : State) : Result :=
  ok (s.arriveCtrl p rx 2 (fun s => s.takeShare p rx.flit) (fun s => s.takeRekeyShare p rx.flit))

/-- A chunk of the peer's chain; with the last one T is known and KEY_AUTH goes out (R298). -/
def State.takeCert (s : State) (p : Nat) (f : Flit) : State :=
  let l := s.link p
  let b := pad512 f.payload
  let i := bytesAt b 0 2
  let n := bytesAt b 2 2
  if l.peerShare = [] ∨ l.digestT ≠ [] ∨ n ≤ i ∨ (l.certCount ≠ 0 ∧ l.certCount ≠ n) then s
  else
    let s := s.modLink p (fun l => { l with certs := storeSet [] l.certs i b, certCount := n })
    let l := s.link p
    if l.certs.length = l.certCount then s.sendAuth p l.sessionT true else s

/-- CERT arrives (R298); in session it has no meaning. -/
def execCert (p : Nat) (rx : RxFlit) (s : State) : Result := ok (s.arriveCtrl p rx 3 (fun s => s.takeCert p rx.flit) id)

/-- The pin of a port (R299). -/
def State.pinOf (s : State) (p : Nat) : List Byte :=
  (List.range 8).flatMap (fun j => leBytes 8 (s.reg .JL_PORT_PIN p j).toNat)

/-- The peer is accepted (R299): its chain ends at the vendor root, its signature verifies, its key meets the pin. -/
def State.peerAccepted (s : State) (p : Nat) (chain key t sig : List Byte) : Bool :=
  let pin := s.pinOf p
  !s.pkg.rootBlank && chainValid chain Config.rootDigest && authVerifies key t sig && (leNat pin == 0 || shake256 64 key == pin)

/-- The peer's identity fails: DOWN with cause AUTH (R299). -/
def State.identityFail (s : State) (p : Nat) : State := (s.portEvent p .JL_PORT_EVT_AUTH_EVT).portDown p 4

/-- The peer's signature in KEYING: accepted, the receive key is installed and KEY_DONE goes out; else DOWN (R298, R299). -/
def State.takeAuth (s : State) (p : Nat) (f : Flit) : State :=
  let l := s.link p
  if l.digestT = [] ∨ l.accepted = true then s
  else
    let key := chainLeafKey l.peerChain
    if s.peerAccepted p l.peerChain key l.digestT (f.payload.take 114) then
      let s := (shake256 64 key).zipIdx.foldl (fun s e =>
        let j := e.2 / 8
        s.setReg .JL_PORT_PEER p j (BitVec.ofNat 64 (putBits (s.reg .JL_PORT_PEER p j).toNat (8 * (e.2 % 8)) 8 e.1.toNat))) s
      (s.modLink p (fun l => { l with accepted := true, leafKey := key })).sendKeying p [linkCtrl 5 (leBytes 8 l.nextSession)]
    else s.identityFail p

/-- The peer's signature in a rekey (R301). -/
def State.takeRekeyAuth (s : State) (p : Nat) (f : Flit) : State :=
  let l := s.link p
  if l.newT = [] ∨ l.accepted = true then s
  else if authVerifies l.leafKey l.newT (f.payload.take 114) then
    (s.modLink p (fun l => { l with accepted := true })).sendCtrl p (linkCtrl 5 (leBytes 8 (l.session + 1)))
  else s.identityFail p

/-- KEY_AUTH arrives (R299). -/
def execKeyAuth (p : Nat) (rx : RxFlit) (s : State) : Result :=
  ok (s.arriveCtrl p rx 4 (fun s => s.takeAuth p rx.flit) (fun s => s.takeRekeyAuth p rx.flit))

/-! ## The chain's CLAIM (R305, R306) -/

/-- Send a LINK_CTRL CLAIM out of a port. -/
def State.sendClaim (s : State) (p addr epoch : Nat) : State :=
  s.sendCtrl p (linkCtrl 0x10 (leBytes 1 addr ++ leBytes 1 0 ++ leBytes 2 epoch))

/-- The device's address and epoch. -/
def State.chainAddr (s : State) : Nat := s.fld .JL_CHAIN_ADDR
def State.chainEpoch (s : State) : Nat := s.fld .JL_CHAIN_EPOCH

/-- Report the last address taken (R305 step 4). Log entry 43. -/
def State.sendClaimEnd (s : State) : State :=
  s.sendAdapter { ftype := 5, sub := 9, vc := 3, len := 1,
                  payload := leBytes 1 s.chainAddr ++ leBytes 1 0 ++ leBytes 2 s.chainEpoch }

/-- Offer the next address out of the other chain port, or wait for that port (R305 steps 2 to 4). The last address ends the
chain at once. Log entry 43. -/
def State.claimOn (s : State) (other : Nat) : State :=
  if s.chainAddr = 0xFA then s.sendClaimEnd
  else if s.portUp other then s.sendClaim other (s.chainAddr + 1) s.chainEpoch
  else { s with claimWait := some (s.count 12) }

/-- A CLAIM_ACK to the adapter (R285). -/
def State.sendClaimAck (s : State) (epoch : Nat) (refused : Bool) : State :=
  let digest := (List.range 8).flatMap (fun j => leBytes 8 (s.reg .SEC_DEV_ID 0 j).toNat)
  s.sendAdapter { ftype := 5, sub := 8, vc := 3, len := 3,
                  payload := leBytes 1 s.chainAddr ++ leBytes 1 (natOf refused) ++ leBytes 2 epoch ++ leBytes 2 (partCode s.pkg.part) ++
                    leBytes 2 0 ++ digest }

/-- The default routes of an accepted CLAIM (R308). -/
def State.claimRoutes (s : State) (p : Nat) : State :=
  ((List.range 0xFB).drop 1).foldl (fun s d => s.setFld .JL_ROUTE_PORT d 0 (if d ≤ s.chainAddr then p else 1 - p)) s

/-- A CLAIM on a chain port (R306). Log entry 43. -/
def State.takeClaim (s : State) (p : Nat) (f : Flit) : State :=
  let addr := bytesAt f.payload 0 1
  let epoch := bytesAt f.payload 2 2
  if 2 ≤ p ∨ epoch = 0 ∨ epoch = s.chainEpoch ∨ addr = 0 ∨ 0xFB ≤ addr then s
  else if ((List.range 9).drop 1).any (fun g => s.fld .SEC_GRANT_CTL_STATE g != 0) then s.sendClaimAck epoch true
  else
    let s := ((s.setFld .JL_CHAIN_ADDR 0 0 addr).setFld .JL_CHAIN_ADDR_VALID 0 0 1).setFld .JL_CHAIN_EPOCH 0 0 epoch
    let s := ({ s with claimWait := none }.setFld .JL_CHAIN_ADAPTER_PORT 0 0 p).claimRoutes p
    (s.sendClaimAck epoch false).claimOn (1 - p)

/-- CLAIM arrives (R306). -/
def execClaim (p : Nat) (rx : RxFlit) (s : State) : Result := ok (s.arriveCtrl p rx 0x10 id (fun s => s.takeClaim p rx.flit))

/-- The other chain port is not UP within CLAIM_WAIT (R305 step 4, R315). -/
def execClaimWait (s : State) : Result :=
  match s.claimWait with
  | none => ok s
  | some c =>
    let s := s.reachCount 12 (c + 1600000 * max 1 (s.fld .JL_DEV_CFG_CLAIM_WAIT_MS))
    ok ({ s with claimWait := none }.sendClaimEnd)

/-- A PROBE of the device's epoch (R307). -/
def State.takeProbe (s : State) (p : Nat) (f : Flit) : State :=
  let epoch := bytesAt f.payload 2 2
  if 2 ≤ p ∨ epoch = 0 ∨ epoch ≠ s.chainEpoch then s
  else
    let s := s.setFld .JL_CHAIN_ADAPTER_PORT 0 0 p
    let s := s.sendAdapter { ftype := 5, sub := 0xA, vc := 3, len := 1,
                             payload := leBytes 1 s.chainAddr ++ leBytes 1 p ++ leBytes 2 epoch }
    if s.portUp (1 - p) then s.sendCtrl (1 - p) (linkCtrl 0x11 (leBytes 2 0 ++ leBytes 2 epoch)) else s

/-- PROBE arrives (R307). -/
def execProbe (p : Nat) (rx : RxFlit) (s : State) : Result := ok (s.arriveCtrl p rx 0x11 id (fun s => s.takeProbe p rx.flit))

/-! ## UP, rekey (R296, R301-R303) -/

/-- A port that has come UP while CLAIM_END is awaited is sent CLAIM, within the window for it (R305). -/
def State.claimWaiting (s : State) (p : Nat) : State :=
  match s.claimWait with
  | some c =>
    if p < 2 ∧ p ≠ s.adapterPort ∧ s.inWindow 12 (c + 1600000 * max 1 (s.fld .JL_DEV_CFG_CLAIM_WAIT_MS)) = true then
      { s with claimWait := none }.claimOn p
    else s
  | none => s

/-- The LANE_SWAP and LANE_SWAP_ACK messages in a queue: they go on when the port comes UP, other messages of KEYING do not. -/
def swapsOf (q : List Flit) : List Flit := q.filter (fun f => f.ftype == 6 && (f.sub == 7 || f.sub == 8))

/-- A port reaches UP (R296 step 4): SEQ and ACK 0, credits full; a switch-over of a lane goes on (R282). A CLAIM that waits for it
goes out (R305). Log entry 42. -/
def State.portUpNow (s : State) (p : Nat) : State :=
  let s := s.enterPort p portIsUp
  let swaps := swapsOf (s.egressOf p 3)
  let s := { s with egress := storeEraseRange s.egress (4 * p) 4, heads := storeEraseRange s.heads (4 * p) 4 }
  let s := swaps.foldl (fun s f => s.queueFlit p f) s
  let s := s.modLink p (fun l =>
    { entered := l.entered, fecFrom := l.fecFrom, spareTx := l.spareTx, spareRx := l.spareRx, session := l.nextSession,
      digestT := l.digestT, leafKey := l.leafKey, verified := s.capeCount p, acked := s.capeCount p, sent := l.sent,
      swap := l.swap, swapAt := l.swapAt, txSwapUntil := l.txSwapUntil })
  ((s.setFld .JL_PORT_STAT_SESSION p 0 (s.link p).session).portEvent p .JL_PORT_EVT_UP_EVT).claimWaiting p

/-- The port goes UP once its KEY_DONE has been sent and the peer's has come (R296 step 3, R298). -/
def LinkPort.keyed (l : LinkPort) : Bool := l.accepted && l.doneSent && l.doneSeen

/-- In KEYING the head of VC3 goes out unprotected, TXC and key phase 0 (R298). -/
def State.sendKeyingFlit (s : State) (p : Nat) : State :=
  match s.egressOf p 3 with
  | [] => s
  | f :: _ => (s.popEgress p 3).modLink p (fun l => { l with sent := some (f, {}), doneSent := l.doneSent || f.sub == 5 })

/-- A port that is UP sends: a replay's next flit first, else the head of a virtual channel that holds a credit and finds room in
retention, else an IDLE flit (R290, R293). -/
def State.sendUp (s : State) (p vc : Nat) : State :=
  let l := s.link p
  if s.portState p ≠ portIsUp then s
  else if 0 < l.resend then s.resendFlit p
  else match s.egressOf p vc with
    | f :: _ =>
      if 0 < l.credits.getD vc 0 ∧ l.retained.length < 1024 ∧ s.fld .JL_PORT_TXC_TXC p < txcLimit then s.sendNew p f
      else s.sentIdle p
    | [] => s.sentIdle p

/-- A port sends a flit; the windows of the port that have closed act first: KEYING, a rekey, liveness, the acknowledgement, the
stall of the head (R315, R445). Log entry 41. -/
def execFlitSend (p vc : Nat) (s : State) : Result :=
  if s.portState p = portKeying ∧ vc = 3 then
    if s.keyingOpen p = false then ok (s.portDown p 5) else
    let s := s.sendKeyingFlit p
    ok (if (s.link p).keyed then s.portUpNow p else s)
  else if s.portState p ≠ portIsUp ∨ 4 ≤ vc then ok s
  else ok (((s.windowsClosed p).dropStalled p vc).sendUp p vc)

/-- KEY_DONE arrives: in KEYING the port is UP once its own has been sent too (R296, R298); in a rekey REKEY_SWITCH goes out
(R302). -/
def execKeyDone (p : Nat) (rx : RxFlit) (s : State) : Result :=
  let n := bytesAt rx.flit.payload 0 8
  ok (s.arriveCtrl p rx 5
    (fun s =>
      if n ≠ (s.link p).nextSession then s else
      let s := s.modLink p (fun l => { l with doneSeen := true })
      if (s.link p).keyed then s.portUpNow p else s)
    (fun s =>
      let l := s.link p
      let tx := s.fld .JL_PORT_STAT_KEY_PHASE p == 1
      if s.rekeyOpen p = true ∧ l.newT ≠ [] ∧ n = l.session + 1 ∧ tx = l.rekeyFromTx then
        s.sendCtrl p (linkCtrl 6 (leBytes 8 n))
      else s))

/-- REKEY_SWITCH arrives: the receive direction switches at S, and its old key is destroyed, since ACK has reached S (R302).
Log entry 42. -/
def execRekeySwitch (p : Nat) (rx : RxFlit) (s : State) : Result :=
  ok (s.arriveCtrl p rx 6 id (fun s =>
    let l := s.link p
    if s.rekeyOpen p = true ∧ l.accepted ∧ l.rxPhase = l.rekeyFrom ∧ bytesAt rx.flit.payload 0 8 = l.session + 1 then
      ((s.modLink p (fun l => { l with rxPhase := !l.rxPhase, rxTxc := 0 })).portEvent p .JL_PORT_EVT_REKEY_EVT).rekeyDone p
    else s))

/-- The TXC of a direction's current key reaches REKEY_AT × 2^32 (R301). -/
def execRekeyThreshold (p : Nat) (s : State) : Result :=
  let limit := s.fld .JL_PORT_CFG_REKEY_AT p * 2 ^ 32
  if limit ≠ 0 ∧ (limit ≤ s.fld .JL_PORT_TXC_TXC p ∨ limit ≤ (s.link p).rxTxc) then ok (s.startRekey p) else ok s

/-- A rekey has not finished within 100 ms: abandoned, and started again 10 ms later (R303). Log entry 42. -/
def execRekeyTimeout (p : Nat) (s : State) : Result :=
  if s.portState p = portIsUp ∧ s.fld .JL_PORT_STAT_REKEYING p = 1 then
    ok ((s.reachCount (capeIsland p) (s.link p).rekeyClose).rekeyAbandon p)
  else ok s

/-- 10 ms after a rekey was abandoned it starts again (R303). -/
def execRekeyRetry (p : Nat) (s : State) : Result :=
  match (s.link p).rekeyAgain with
  | some c => ok ((s.reachCount (capeIsland p) (c + 15999999)).startRekey p)
  | none => ok s

/-- KEYING has not finished within 100 ms (R315). -/
def execKeyingTimeout (p : Nat) (s : State) : Result :=
  if s.portState p = portKeying then
    ok ((s.reachCount (capeIsland p) ((s.link p).entered + 160000000)).portDown p 5)
  else ok s

/-- Unanswered messages of KEYING are repeated (R298). -/
def execKeyingResend (p : Nat) (s : State) : Result :=
  if s.portState p = portKeying then ok ((s.link p).unanswered.foldl (fun s f => s.sendCtrl p f) s) else ok s

/-! ## Lanes (R280-R282, R297) -/

/-- A receive lane has failed: it has lost signal or clock lock, or more than LANE_THRESH × 1,024 of its symbols were corrected
within 2^20 codewords (R280). -/
def State.laneFails (s : State) (p : Nat) (lost : Bool) (symbols : Nat) : Bool :=
  lost || decide (1024 * max 1 (s.fld .JL_PORT_CFG_LANE_THRESH p) < symbols)

/-- A receive lane loses lock, or has had symbols corrected: where it fails by R280, LANE_SWAP goes to the peer; with the spare in
use the port goes DOWN (R281, R282). Log entry 12. -/
def execLaneFail (p : Nat) (fault : LaneFault) (s : State) : Result :=
  match fault with
  | ⟨lane, lost, symbols⟩ =>
  if (s.portState p = portKeying ∨ s.portState p = portIsUp) ∧ lane < 8 ∧ s.laneFails p lost symbols = true then
    match (s.link p).swap with
    | some (k, _) => ok (if k = lane then s else s.portDown p 2)
    | none =>
      if s.fld .JL_PORT_STAT_SPARE_RX p ≠ 0xF then ok (s.portDown p 2)
      else ok ((s.modLink p (fun l => { l with swap := some (lane, s.capeCount p) })).sendCtrl p (linkCtrl 7 (leBytes 1 lane)))
  else ok s

/-- The codewords a port has transmitted: one each 8.5 cycles of its cape since training ended (R279, R281). Log entry 42. -/
def State.txCodewords (s : State) (p : Nat) : Nat := (s.capeCount p - (s.link p).fecFrom) * 2 / 17

/-- The peer asks for its failed lane on the spare: the answer names the codeword N, 512 past the current one (R281 step 3).
Log entry 42. -/
def State.takeSwap (s : State) (p : Nat) (f : Flit) : State :=
  let lane := bytesAt f.payload 0 1
  let n := s.txCodewords p + 512
  let s := (s.modLink p (fun l => { l with txSwapUntil := s.capeCount p + 4352 })).setFld .JL_PORT_STAT_SPARE_TX p 0 lane
  s.sendCtrl p (linkCtrl 8 (leBytes 1 lane ++ leBytes 7 0 ++ leBytes 8 n))

/-- LANE_SWAP arrives (R281). -/
def execLaneSwap (p : Nat) (rx : RxFlit) (s : State) : Result :=
  ok (s.arriveCtrl p rx 7 (fun s => s.takeSwap p rx.flit) (fun s => s.takeSwap p rx.flit))

/-- The answer to LANE_SWAP: N is known (R281 step 4). -/
def State.takeSwapAck (s : State) (p : Nat) (f : Flit) : State :=
  match (s.link p).swap with
  | some (k, _) =>
    if k = bytesAt f.payload 0 1 then s.modLink p (fun l => { l with swapAt := some (bytesAt f.payload 8 8) }) else s
  | none => s

/-- LANE_SWAP_ACK arrives (R281). -/
def execLaneSwapAck (p : Nat) (rx : RxFlit) (s : State) : Result :=
  ok (s.arriveCtrl p rx 8 (fun s => s.takeSwapAck p rx.flit) (fun s => s.takeSwapAck p rx.flit))

/-- Codeword N arrives: the lane is taken from the spare (R281 step 4). Log entry 42. -/
def execLaneSwitchOver (p : Nat) (s : State) : Result :=
  match (s.link p).swap, (s.link p).swapAt with
  | some (k, c), some _ =>
    if s.inWindow (capeIsland p) (c + 16000) then
      let s := s.modLink p (fun l => { l with swap := none, swapAt := none })
      ok (((s.setFld .JL_PORT_STAT_SPARE_RX p 0 k).addFld .JL_PORT_ERR2_LANE_SWAPS p 0 1).portEvent p .JL_PORT_EVT_LANE_EVT)
    else ok s
  | _, _ => ok s

/-- A switch-over has not finished within 10 µs (R282). -/
def execLaneSwapTimeout (p : Nat) (s : State) : Result :=
  match (s.link p).swap with
  | some (_, c) => ok ((s.reachCount (capeIsland p) (c + 16000)).portDown p 2)
  | none => ok s

/-- Two or more receive lanes lose lock in one codeword: DOWN with cause PEER (R297). -/
def execPeerLoss (p : Nat) (s : State) : Result :=
  if s.portState p = portKeying ∨ s.portState p = portIsUp then ok (s.portDown p 9) else ok s

/-! ## JL_PORT_CTL and JL_ROUTE (R308, R317, R318) -/

/-- A port reset (R317): DOWN with cause RESET under R316, then training where the port is enabled; else it is DISABLED again.
Log entry 44. -/
def State.portResetNow (s : State) (p : Nat) : State :=
  let s := s.portDown p 8
  if s.fld .JL_PORT_CTL_ENABLE p = 1 then s.startTraining p else s.enterPort p portDisabled

/-- Every port that is not DISABLED or DOWN goes DOWN with cause RESET, as a package reset brings it down: all at once, so that no
chain port is there to take ADAPTER_PORT over (R307, R317). Log entry 44. -/
def State.portsReset (s : State) : State :=
  let ps := (List.range 24).filter (fun p => s.portState p != portDisabled && s.portState p != portIsDown)
  let s := ps.foldl (fun s p => s.enterPort p portIsDown) s
  ps.foldl (fun s p => s.portDown p 8) s

/-- Every port that is not DISABLED stops as the PLLs of the capes do: DOWN, its session gone (R484). Log entry 51. -/
def State.portsStop (s : State) : State :=
  let ps := (List.range 24).filter (fun p => s.portState p != portDisabled)
  let s := ps.foldl (fun s p => s.enterPort p portIsDown) s
  ps.foldl (fun s p => s.portDrop p) s

/-- A write of JL_PORT_CTL by function 0: ENABLE and AUTO_RETRY first, then RESET, then REKEY. A port that is disabled loses
its session as R316 lays down and idles. Log entries 17 and 44. -/
def State.writePortCtl (s : State) (fn p : Nat) (w : Word) : State :=
  if fn ≠ 0 ∨ s.portPresent p = false ∨ s.ready = false then s
  else
    let was := s.fld .JL_PORT_CTL_ENABLE p
    let s := s.writeReg .JL_PORT_CTL p 0 w
    let now := s.fld .JL_PORT_CTL_ENABLE p
    let s := if was = 1 ∧ now = 0 then (s.enterPort p portDisabled).portDrop p
      else if now = 1 ∧ s.portState p = portDisabled then s.startTraining p else s
    let s := if bit w.toNat 2 then s.portResetNow p else s
    if bit w.toNat 3 then s.startRekey p else s

/-- A write of JL_PORT_CTL.ENABLE (R296). -/
def execPortEnable (fn p : Nat) (w : Word) (s : State) : Result := ok (s.writePortCtl fn p w)

/-- A write of JL_PORT_CTL.RESET (R317). -/
def execPortReset (fn p : Nat) (w : Word) (s : State) : Result := ok (s.writePortCtl fn p w)

/-- A write of JL_PORT_CTL.REKEY (R301). -/
def execPortRekey (fn p : Nat) (w : Word) (s : State) : Result := ok (s.writePortCtl fn p w)

/-- A write of a routing entry by function 0: entries 0x01-0xFA but the device's own (R308, R311). -/
def State.writeRoute (s : State) (fn d : Nat) (w : Word) : State :=
  if fn = 0 ∧ s.ready = true ∧ 0 < d ∧ d < 0xFB ∧ ¬ (s.fld .JL_CHAIN_ADDR_VALID = 1 ∧ d = s.chainAddr) then s.writeReg .JL_ROUTE d 0 w else s

/-- A write of JL_ROUTE (R311). -/
def execRouteWrite (fn d : Nat) (w : Word) (s : State) : Result := ok (s.writeRoute fn d w)

end Sys2Proof.Machine
end

