-- ==== Sys2Proof/Machine/Services.lean ====
section
/-! DEFINITION. Queues, commands, completions, the step service and the generation service as their commands and boundaries
move them (R372-R395). -/

namespace Sys2Proof.Machine

/-! ## Descriptors (R382) -/

def Command.opcode (c : Command) : Nat := bytesAt c.bytes 0 1
def Command.fence (c : Command) : Bool := bit (bytesAt c.bytes 1 1) 0
def Command.arg (c : Command) (off n : Nat) : Nat := bytesAt c.bytes off n

/-- The completion statuses with their DETAIL and RESULT: DETAIL and 16 bytes of a command that ends without having started.
Log entry 34. -/
def Command.unstarted (c : Command) : Nat × List Byte :=
  match c.opcode with
  | 2 => (c.arg 8 2, leBytes 16 0)
  | 3 => (6, leBytes 8 (c.arg 0x10 8) ++ leBytes 8 0)
  | _ => (0, leBytes 16 0)

/-- A LAUNCH command that has not started never starts (R380). -/
def State.launchForget (s : State) (r : CmdRef) : State :=
  { s with launches := s.launches.filter (fun e => e.2.started || e.2.client != .command r) }

/-- A command ends with a status and nothing done. -/
def State.refuseCommand (s : State) (r : CmdRef) (st : Status) : State :=
  match s.command r with
  | none => s
  | some c => (s.launchForget r).completeCommand r st c.unstarted.1 c.unstarted.2

/-! ## Which command starts (R378, R379) -/

/-- The command of a queue that may start next: its first command not started, with FENCE only once those before it have
completed, while the completion ring has room and the command die's cluster runs. -/
def State.nextCommand (s : State) (fn q : Nat) : Option (CmdRef × Command) :=
  let st := s.fld .SVC_Q_STATE_STATE fn q
  if s.fnLive fn ∧ q < 64 ∧ (st = queueActive ∨ st = queueError) ∧ s.ringRoom fn q ∧ s.restarting.contains (s.commandDie fn) = false then
    let cmds := (s.queue fn q).cmds
    match cmds.find? (fun c => !c.started) with
    | none => none
    | some c => if c.fence ∧ cmds.head? ≠ some c then none else some ({ fn := fn, q := q, index := c.index }, c)
  else none

/-- Serve a command of an opcode; a reserved opcode is unpredictable within the partition (R384). -/
def State.withCommand (s : State) (fn q op : Nat) (f : CmdRef → Command → Result) : Result :=
  match s.nextCommand fn q with
  | none => ok s
  | some (r, c) => if 6 < c.opcode then .fault (.unpredictable fn) else if c.opcode = op then f r c else ok s

/-- A load holds launches and services: a whole-image load all of them from the end of CHECK, an atoll load those that need a
target atoll from WAIT_IDLE (R54, R55). -/
def State.loadBars (s : State) (fn : Nat) (atolls : List Nat) : Bool :=
  s.loading fn &&
  (if (s.load fn).atoll then decide (loadWaitIdle ≤ s.loadState fn) && meetsMask atolls (s.load fn).sel
   else decide (loadStage ≤ s.loadState fn))

/-- Whether a launch or service command may start now; one that is held waits its turn among those held, in the order in
which they were accepted (R54, R59). -/
def State.mayStart (s : State) (r : CmdRef) (atolls : List Nat) : State × Bool :=
  let f := s.fnState r.fn
  if s.loadBars r.fn atolls then
    (if f.heldCmds.contains r then s else s.modFn r.fn (fun f => { f with heldCmds := f.heldCmds ++ [r] }), false)
  else match f.heldCmds with
    | [] => (s, true)
    | h :: rest =>
      if h = r then (s.modFn r.fn (fun f => { f with heldCmds := rest }), true)
      else (s, !rest.contains r)

/-! ## Short commands -/

/-- NOP completes OK at its start (R383). -/
def execCmdNop (fn q : Nat) (s : State) : Result :=
  s.withCommand fn q 0 (fun r _ => ok (s.completeCommand r .ok 0 (leBytes 16 0)))

/-- LOAD reaches the loader: it starts its load, or waits behind others (R66, R383). -/
def execCmdLoad (fn q : Nat) (s : State) : Result :=
  s.withCommand fn q 1 (fun r c =>
    let w := (s.fnState fn).loadsWaiting
    if s.loading fn = false ∧ w = [] then ok (s.loadCommand r c)
    else if w.contains r then ok s
    else ok (s.modFn fn (fun f => { f with loadsWaiting := w ++ [r] })))

/-- A LAUNCH command's launch is taken, and its parameter block asked for where that is in host memory (R73). -/
def State.launchCommand (s : State) (fn : Nat) (r : CmdRef) (c : Command) (e : List Byte) : State :=
  let source := c.arg 0xA 1
  let given := if source = 2 then ((c.bytes.drop 0x20).take 32).take (entryParamLen e) else []
  let (s, _) := s.launchTake { fn := fn, entry := e, client := .command r, given := given, source := source, addr := c.arg 0x10 8 }
  if source = 1 then s.hostRead fn (s.commandDie fn) (c.arg 0x10 8) (entryParamLen e) else s

/-- LAUNCH resolves its entry, and its parameters are to be read; step 1 of R73 refuses it with ABORTED. -/
def execCmdLaunch (fn q : Nat) (s : State) : Result :=
  s.withCommand fn q 2 (fun r c =>
    if s.launches.any (fun e => e.2.client == .command r) then ok s else
    match s.mayStart r (s.idAtolls fn (c.arg 8 2)) with
    | (s, false) => ok s
    | (s, true) =>
      match s.entryFor fn (c.arg 8 2) 0 with
      | none => ok (s.refuseCommand r .aborted)
      | some e => ok (s.launchCommand fn r c e))

/-- MIGRATE enters its request into the migration queue, and waits while that is full (R238, R383). -/
def execCmdMigrate (fn q : Nat) (s : State) : Result :=
  s.withCommand fn q 5 (fun r c =>
    if 64 ≤ (s.fnState fn).mig.queue.length then ok s
    else ok ((s.startCommand r).migQueue fn { w0 := c.arg 8 8, w1 := c.arg 0x10 8, w2 := c.arg 0x18 8, w3 := c.arg 0x20 8,
                                              source := .command r }))

/-! ## The step service (R386-R390) -/

/-- The cases in which a STEP completes ABORTED at once (R68, R386, R369). -/
def State.stepRefused (s : State) (fn id : Nat) : Bool :=
  let f := s.fnState fn
  s.fld .IMG_CFG_STATE_BASE fn == 0 || f.pipe.isEmpty || f.opt.isEmpty || (s.entryFor fn id 1).isNone || s.optState fn == optUnloaded ||
    !s.trainLoaded fn ((s.entryFor fn id 1).getD [])

/-- A STEP that runs no step: the service has ended, which its registers and STEP_END_EVT show; no attempt has given LAST_STATUS one
(R386). Log entry 34. -/
def State.stepRefuse (s : State) (fn : Nat) (r : CmdRef) (c : Command) (st : Status) : State :=
  let s := ((s.refuseCommand r st).setFld .SVC_STEP_STAT_CONSUMED fn 0 0).setFld .SVC_STEP_STAT_ATTEMPT fn 0 0
  (s.setFld .SVC_STEP_CUR_STEP fn 0 (c.arg 0x10 8)).fnEvent fn 6 .SVC_EVT_STEP_END_EVT fn

/-- The step service begins: the islets of its entry take the parameter block, and recovery runs (R386, R387). Log entry 32. -/
def State.stepBegins (s : State) (fn : Nat) (r : CmdRef) (c : Command) (e cb params : List Byte) : State :=
  let s := (isletsOf (entryAtolls e)).foldl (fun s i =>
    (s.spWrite i (entryParamOffset e) params).straitOffer (s.commandDie fn) (islDie i) 0 (unitsOf params.length)) s
  let n := if c.arg 0xA 2 = 0 then pipeNDefault (s.fnState fn).pipeHeader else c.arg 0xA 2
  let v : StepSvc := { ref := r, entry := e, n := n, steps := c.arg 0xC 4, step0 := c.arg 0x10 8, flags := c.arg 0x20 1,
                       cb := cb, point := .recovering, t := c.arg 0x10 8, lastStep := c.arg 0x10 8 }
  let s := (s.startCommand r).modFn fn (fun f => { f with step := some v, ckptReqs := [], ckptEnded := [] })
  (s.stepStat fn).optResumes fn

/-- A control block keeps R386's ranges. Log entry 28. -/
def stepBlockLegal (cb : List Byte) : Bool :=
  bytesAt cb 0x18 8 % 64 == 0 && decide (4 ≤ bytesAt cb 0x20 1 ∧ bytesAt cb 0x20 1 ≤ 16) && decide (bytesAt cb 0x21 1 ≤ 16) &&
  bytesAt cb 0x22 6 == 0 && bytesAt cb 0x30 16 == 0

/-- STEP starts the service: it reads its control block, copies the parameter block to the islets of ATOLL_MASK, and recovery
runs (R386, R387). Operands outside their ranges are unpredictable within the partition (R384). -/
def execCmdStep (fn q : Nat) (s : State) : Result :=
  s.withCommand fn q 3 (fun r c =>
    let id := c.arg 8 2
    if (s.fnState fn).step.isSome then ok s else
    match s.mayStart r (s.trainAtolls fn (((s.fnState fn).entries.find? (fun e => entryId e == id)).getD [])) with
    | (s, false) => ok s
    | (s, true) =>
      if s.stepRefused fn id then ok (s.stepRefuse fn r c .aborted)
      else if (s.optState fn ≠ optIdle ∧ s.optState fn ≠ optStopped) ∨ (s.opt fn).waits ≠ 0 then ok s
      else if c.arg 0xC 4 = 0 ∨ c.arg 0x18 8 % 32 ≠ 0 ∨ 4 ≤ c.arg 0x20 1 then .fault (.unpredictable fn)
      else
        let e := (s.entryFor fn id 1).getD []
        if s.entryUnsafe fn e then .fault (.unpredictable fn)
        else if s.rangeReady fn (c.arg 0x18 8) 64 = false then ok s else
        let (s, a) := s.devRead .islet fn (c.arg 0x18 8) 64
        if a.status ≠ .ok then ok (s.stepRefuse fn r c a.status)
        else if stepBlockLegal a.data = false then .fault (.unpredictable fn)
        else if s.rangeReady fn (bytesAt a.data 0 8) (entryParamLen e) = false then ok s else
        let (s, b) := s.devRead .islet fn (bytesAt a.data 0 8) (entryParamLen e)
        if b.status ≠ .ok then ok (s.stepRefuse fn r c b.status) else
        ok (s.stepBegins fn r c e a.data b.data))

/-- The bytes of a step record (R390). -/
def stepRecBytes (r : StepRec) (ckpt seq : Nat) : List Byte :=
  leBytes 8 r.step ++ leBytes 1 r.attempt ++ leBytes 1 r.outcome ++ leBytes 1 (statusCode r.status) ++ leBytes 1 ckpt ++
  leBytes 4 r.scale ++ leBytes 8 r.norm ++ leBytes 4 r.update ++ leBytes 4 r.nfIndex ++
  (leBytes 1 r.nfAddr ++ leBytes 3 0 ++ leBytes 4 r.kcyc ++ leBytes 8 seq ++ leBytes 16 0)

/-- The step record is written, its head last, and told; the service goes on at its boundary (R390). -/
def State.stepRecorded (s : State) (fn : Nat) (v : StepSvc) (r : StepRec) (rest : List StepRec) : State :=
  let addr := bytesAt v.cb 0x18 8 + 64 * (v.seq % 2 ^ bytesAt v.cb 0x20 1)
  let ended := (s.fnState fn).ckptEnded
  let ckpt := if r.ckpts = 0 then r.ckptStatus else ((ended.take r.ckpts).map statusCode).foldl max 0
  let bs := stepRecBytes r ckpt (v.seq + 1)
  let s := (s.devWrite .islet fn (addr + 0x20) (bs.drop 0x20)).1
  let s := (s.devWrite .islet fn addr (bs.take 0x20)).1
  let s := s.modFn fn (fun f => { f with ckptEnded := ended.drop r.ckpts })
  let s := s.modStep fn (fun v => { v with recs := rest, seq := v.seq + 1, lastOutcome := r.outcome, lastStep := r.step })
  let s := if bit v.flags 1 then s.fnEvent fn 6 .SVC_EVT_STEP_REC_EVT fn else s
  s.stepBoundary fn

/-- The first step record that waits is written once its checkpoint has ended, and the service is at a boundary; a service that
has ended and written its records completes (R390). -/
def execStepRecordWrite (fn : Nat) (s : State) : Result :=
  if s.fnLive fn = false ∨ s.restarting.contains (s.commandDie fn) then ok s else
  match (s.fnState fn).step with
  | none => ok s
  | some v =>
    match v.recs with
    | [] => match v.point with
      | .ending _ => ok (s.stepBoundary fn)
      | _ => ok s
    | r :: rest =>
      let addr := bytesAt v.cb 0x18 8 + 64 * (v.seq % 2 ^ bytesAt v.cb 0x20 1)
      let ended := (s.fnState fn).ckptEnded
      if ended.length < r.ckpts then ok s else
      if s.optForbids fn true addr 64 = true then .fault (.unpredictable fn) else
      let (s, ready) := s.prepareWrite fn addr 64
      if ready = false then ok s else
      ok (s.stepRecorded fn v r rest)

/-! ## The generation service (R391-R394) -/

/-- The bytes of the slot table. -/
def GenSvc.tableBytes (g : GenSvc) : Nat := 64 * bytesAt g.ops 0x11 1

/-- A generation service whose slot table lies in host memory asks for it, once a boundary (R312, R392). -/
def State.genAsk (s : State) (fn : Nat) (g : GenSvc) : State :=
  if g.host ∧ ¬ g.asked then
    (s.hostRead fn (s.commandDie fn) (bytesAt g.ops 0x18 8) g.tableBytes).modGen fn (fun g => { g with asked := true })
  else s

/-- A token boundary begins: the slot table is read, submitted slots run, and prefill and decode are launched (R392 steps 1 and
2). With no slot running or submitted the service reads again later. -/
def State.genOpen (s : State) (fn : Nat) (ans : Answer) : State :=
  match (s.fnState fn).gen with
  | none => s
  | some g =>
    let addr := bytesAt g.ops 0x18 8
    if g.point ≠ .boundary ∨ g.paused ∨ g.held then s else
    let s := s.genAsk fn g
    if (if g.host then s.hostReady fn addr g.tableBytes ans else s.rangeReady fn addr g.tableBytes) = false then s else
    let s := s.modGen fn (fun g => { g with asked := false })
    let (s, a) := if g.host then s.hostAnswer fn addr g.tableBytes ans else s.devRead .islet fn addr g.tableBytes
    if a.status ≠ .ok then s.genEnd fn a.status false else
    let slots := (List.range (bytesAt g.ops 0x11 1)).map (fun k => (a.data.drop (64 * k)).take 64)
    let pick (st : Nat) : List Nat := (List.range slots.length).filter (fun k => gSlotState (slots.getD k []) == st)
    let fresh := pick 1
    let cont := pick 2
    let slots := slots.map (fun r => if gSlotState r = 1 then gSlotWith r 2 0 (gSlotCount r) (bytesAt r 0x24 1) else r)
    let s := fresh.foldl (fun s k => s.genWrite fn g (g.slotAddr k) ((slots.getD k []).take 0x20)) s
    let s := (s.modGen fn (fun g => { g with slots := slots, newSlots := maskOf fresh, contSlots := maskOf cont })).genStat fn
    if fresh = [] ∧ cont = [] then s else
    let s := s.modGen fn (fun g => { g with point := .entries })
    let decode := bytesAt g.ops (if partReef s.pkg.part then 0xA else 0xC) 2
    let s := if fresh = [] then s else s.genLaunch fn (bytesAt g.ops 8 2) 2 (maskOf fresh) (maskOf cont)
    let s := if cont = [] then s else s.genLaunch fn decode 3 (maskOf fresh) (maskOf cont)
    match (s.fnState fn).gen.bind (·.bad) with
    | some st => s.genKill fn st
    | none => s

/-- The entries that a generation service has started at a boundary, as a state `t` shows them, name slots in device memory where
the optimiser of `s` forbids writes (R346, R350, R357). Log entry 28. -/
def State.slotsForbidden (s t : State) (fn : Nat) : Bool := match (t.fnState fn).gen with
  | none => false
  | some g => g.host == false && g.point == .entries && g.running.any (fun k => s.optForbids fn true (g.slotAddr k) 64)

/-- A token boundary, whose service writes the table's entries of the slots that run from it on: a table in a compute copy, a
shard's header or slots at work, or a retained gradient gives unpredictable results (R346, R350, R357). -/
def State.genBoundaryOpen (s : State) (fn : Nat) (ans : Answer) : Result :=
  let t := s.genOpen fn ans
  if s.slotsForbidden t fn = true then .fault (.unpredictable fn) else ok t

/-- The generation service begins with its first boundary (R391). -/
def State.genBegins (s : State) (fn : Nat) (r : CmdRef) (c : Command) (ans : Answer) : Result :=
  let s := (s.startCommand r).modFn fn (fun f => { f with gen := some { ref := r, ops := c.bytes } })
  (s.genStat fn).genBoundaryOpen fn ans

/-- GENERATE starts the service and its first boundary; with DECODE = 1 and no reef units it completes MISSING_UNIT (R384,
R391). The answer is the slot table, where that is in host memory. -/
def execCmdGenerate (fn q : Nat) (ans : Answer) (s : State) : Result :=
  s.withCommand fn q 4 (fun r c =>
    if (s.fnState fn).gen.isSome then ok s else
    match s.mayStart r (s.entriesAtolls fn c.bytes) with
    | (s, false) => ok s
    | (s, true) =>
      let decode := c.arg 0x10 1
      let slots := c.arg 0x11 1
      if decode = 1 ∧ partReef s.pkg.part = false then ok (s.refuseCommand r .missingUnit)
      else if 1 < decode ∨ slots = 0 ∨ 64 < slots ∨ c.arg 0x18 8 % 64 ≠ 0 ∨ 4 ≤ c.arg 0x12 1 then .fault (.unpredictable fn)
      else s.genBegins fn r c ans)

/-- The generation service reads its slot table again, 10 µs after one with nothing to run, or at its next boundary (R392).
Log entry 33. -/
def execGenPoll (fn : Nat) (ans : Answer) (s : State) : Result :=
  if s.fnLive fn ∧ s.restarting.contains (s.commandDie fn) = false then s.genBoundaryOpen fn ans else ok s

/-! ## SERVICE_CTL (R383) -/

/-- SERVICE_CTL on a service: ABORTED at once where the target does not run; a resume takes effect at once, a pause or stop at the
service's next boundary, at once where it stands at one. During a load it acts as at any other time: R55 makes launch and service
commands wait, which the model reads as those that start work (DESIGN CHOICE, log entry 34). -/
def State.serviceCtl (s : State) (fn q action : Nat) : Result :=
  s.withCommand fn q 6 (fun r c =>
    let target := c.arg 8 1
    if 1 < target ∨ 2 < c.arg 9 1 then .fault (.unpredictable fn)
    else if c.arg 9 1 ≠ action then ok s
    else
      let f := s.fnState fn
      if (if target = 0 then f.step.isNone else f.gen.isNone) then ok (s.refuseCommand r .aborted)
      else
        let s := s.startCommand r
        match target, action with
        | 0, 1 => ok (((s.completeCommand r .ok 0 (leBytes 16 0)).modStep fn (fun v => { v with paused := false })).stepStat fn |>.stepBoundary fn)
        | 0, _ => ok ((s.modStep fn (fun v => { v with ctl := v.ctl ++ [(r, action)] })).stepBoundary fn)
        | _, 1 => ok (((s.completeCommand r .ok 0 (leBytes 16 0)).modGen fn (fun g => { g with paused := false })).genStat fn)
        | _, _ =>
          let s := s.modGen fn (fun g => { g with ctl := g.ctl ++ [(r, action)] })
          if (f.gen.any (fun g => g.point == .boundary)) then ok (s.genBoundary fn) else ok s)

/-- SERVICE_CTL pause. -/
def execServicePause (fn q : Nat) (s : State) : Result := s.serviceCtl fn q 0

/-- SERVICE_CTL resume. -/
def execServiceResume (fn q : Nat) (s : State) : Result := s.serviceCtl fn q 1

/-- SERVICE_CTL stop. -/
def execServiceStop (fn q : Nat) (s : State) : Result := s.serviceCtl fn q 2

/-! ## Rings (R376-R380) -/

/-- The commands of a queue that have been fetched and not started. -/
def State.unstartedOf (s : State) (fn q : Nat) : List CmdRef :=
  ((s.queue fn q).cmds.filter (fun c => !c.started)).map (fun c => { fn := fn, q := q, index := c.index })

/-- The address of a descriptor. -/
def State.descAddr (s : State) (fn q i : Nat) : Nat :=
  4096 * s.fld .SVC_Q_CMD_BASE_ADDR fn q + 64 * (i % 2 ^ s.fld .SVC_Q_CFG_SIZE fn q)

/-- One more descriptor may be fetched: the tail has not been reached, and fewer than 8 lie ahead of the oldest command not
started (R377). -/
def State.fetchRoom (s : State) (fn q : Nat) : Bool :=
  let v := s.queue fn q
  s.fld .SVC_Q_STATE_STATE fn q == queueActive &&
  (s.fld .SVC_Q_STAT_HEAD fn q + v.fetching) % 2 ^ 32 != s.fld .SVC_Q_DB_TAIL fn q &&
  decide ((s.unstartedOf fn q).length + v.fetching < 8)

/-- Fetches of a command ring in host memory are sent out as far as there is room. -/
def State.fetchMore : Nat → State → Nat → Nat → State
  | 0, s, _, _ => s
  | fuel + 1, s, fn, q =>
    if s.fetchRoom fn q ∧ s.fld .SVC_Q_CFG_CMD_HOST fn q = 1 ∧ s.restarting.contains (s.commandDie fn) = false then
      let i := (s.fld .SVC_Q_STAT_HEAD fn q + (s.queue fn q).fetching) % 2 ^ 32
      let s := s.setQueue fn q { s.queue fn q with fetching := (s.queue fn q).fetching + 1 }
      State.fetchMore fuel (s.hostRead fn (s.commandDie fn) (s.descAddr fn q i) 64) fn q
    else s

/-- A write of SVC_Q_DB: descriptors up to the new tail are to be fetched; a tail more than 2^SIZE beyond HEAD is unpredictable
within the partition (R377). Log entry 34. -/
def execQueueDoorbell (fn q : Nat) (w : Word) (s : State) : Result :=
  if s.fnLive fn ∧ q < 64 then
    let s := (s.writeReg .SVC_Q_DB fn q w).straitOffer (capeIsland s.adapterPort) (s.commandDie fn) 1 1
    if s.fld .SVC_Q_STATE_STATE fn q = queueActive ∧
        2 ^ s.fld .SVC_Q_CFG_SIZE fn q < (s.fld .SVC_Q_DB_TAIL fn q + 2 ^ 32 - s.fld .SVC_Q_STAT_HEAD fn q) % 2 ^ 32 then
      .fault (.unpredictable fn)
    else ok (State.fetchMore 8 s fn q)
  else ok s

/-- A queue has a descriptor that can be taken now: one of a ring in host memory that has come. -/
def State.fetchReady (s : State) (fn q : Nat) : Bool :=
  let addr := s.descAddr fn q (s.fld .SVC_Q_STAT_HEAD fn q)
  s.fetchRoom fn q &&
  (if s.fld .SVC_Q_CFG_CMD_HOST fn q = 1 then s.hostReady fn addr 64 {} else s.rangeReady fn addr 64)

/-- A queue's turn to be served, one descriptor each: no queue between the one served last and it has a descriptor that can be taken
(R378). Log entry 14. -/
def State.fetchTurn (s : State) (fn q : Nat) : Bool :=
  ((inTurn (s.fnState fn).served 64).takeWhile (· != q)).all (fun k => !s.fetchReady fn k)

/-- A fetched descriptor joins its queue, which has been served, HEAD rises, and more are fetched (R377, R378). -/
def State.joinsQueue (s : State) (fn q head : Nat) (data : List Byte) : State :=
  let v := s.queue fn q
  let s := s.modFn fn (fun f => { f with served := q })
  let s := (s.setQueue fn q { v with cmds := v.cmds ++ [{ index := head, bytes := data.take 64 }] }).addFld .SVC_Q_STAT_HEAD fn q 1
  State.fetchMore 8 s fn q

/-- A descriptor has been fetched: its command joins the queue in ring order; a fetch that failed puts the queue in ERROR (R377,
R380). -/
def execDescriptorFetched (fn q : Nat) (ans : Answer) (s : State) : Result :=
  let v := s.queue fn q
  let head := s.fld .SVC_Q_STAT_HEAD fn q
  let host := s.fld .SVC_Q_CFG_CMD_HOST fn q = 1
  if (if host then s.hostReady fn (s.descAddr fn q head) 64 ans else s.rangeReady fn (s.descAddr fn q head) 64) = false ∨
      s.fetchTurn fn q = false then ok s else
  let s := if v.fetching = 0 then s else s.setQueue fn q { v with fetching := v.fetching - 1 }
  if s.fnLive fn = false ∨ ¬ q < 64 ∨ s.fetchRoom fn q = false ∨ s.restarting.contains (s.commandDie fn) then ok s else
  let (s, a) := if host then s.hostAnswer fn (s.descAddr fn q head) 64 ans else s.devRead .islet fn (s.descAddr fn q head) 64
  if a.status ≠ .ok then ok (s.queueFails fn q a.status) else
  ok (s.joinsQueue fn q head a.data)

/-- The bytes of a completion record (R382). -/
def completionBytes (q phase : Nat) (c : Completion) : List Byte :=
  leBytes 1 (statusCode c.status) ++ leBytes 1 c.opcode ++ leBytes 1 q ++ leBytes 1 phase ++ leBytes 4 c.tag ++
  leBytes 4 c.detail ++ leBytes 4 c.index ++ (c.result ++ leBytes 16 0).take 16

/-- The address of the next completion record, and its PHASE bit (R376, R379). -/
def State.completionAddr (s : State) (fn q : Nat) : Nat × Nat :=
  let size := 2 ^ s.fld .SVC_Q_CFG_SIZE fn q
  let tail := s.fld .SVC_Q_STAT_CPL_TAIL fn q
  (4096 * s.fld .SVC_Q_CPL_BASE_ADDR fn q + 32 * (tail % size), 1 - tail / size % 2)

/-- A record has been written: CPL_TAIL rises, and its interrupt follows (R379). Log entry 34. -/
def State.recordWritten (s : State) (fn q : Nat) (c : Completion) : State :=
  let s := s.addFld .SVC_Q_STAT_CPL_TAIL fn q 1
  let s := if c.irq then s.interrupt fn (s.fld .SVC_Q_CFG_VECTOR fn q) else s
  s.queueDrained fn q

/-- A completion record is written while the ring has room, and its interrupt follows; a write that fails puts the queue in ERROR
and the record is lost (R379, R380). The status is that of the path to a ring in host memory. -/
def execCompletionWrite (fn q : Nat) (st : Status) (s : State) : Result :=
  match (s.queue fn q).cpls with
  | [] => ok s
  | c :: rest =>
    let (addr, phase) := s.completionAddr fn q
    let host := s.fld .SVC_Q_CFG_CPL_HOST fn q == 1
    if s.fnLive fn = false ∨ s.ringRoom fn q = false ∨ s.restarting.contains (s.commandDie fn) then ok s else
    if host = false ∧ s.optForbids fn true addr 32 = true then .fault (.unpredictable fn) else
    let (s, ready) := if host then (s, true) else s.prepareWrite fn addr 32
    if ready = false then ok s else
    let s := s.setQueue fn q { s.queue fn q with cpls := rest }
    let bs := completionBytes q phase c
    let (s, st) := if host then
        (if s.hostUp then (if st = .ok then (s.hostWrite fn (s.commandDie fn) 1 addr bs, Status.ok) else (s, Status.linkDown)) else (s, Status.linkDown))
      else s.devWrite .islet fn addr bs
    if st ≠ .ok then ok ((s.queueFails fn q st).queueDrained fn q) else
    ok (s.recordWritten fn q c)

/-- A write of SVC_Q_CPL_DB returns completion ring space (R379). -/
def execCompletionDoorbell (fn q : Nat) (w : Word) (s : State) : Result :=
  if s.fnLive fn ∧ q < 64 then
    ok ((s.writeReg .SVC_Q_CPL_DB fn q w).straitOffer (capeIsland s.adapterPort) (s.commandDie fn) 1 1)
  else ok s

/-- A write of SVC_Q_CFG: in DISABLED every field is written, and ENABLE zeroes the indices and makes the queue ACTIVE; in any
other state only ENABLE is, and clearing it completes the commands not started with ABORTED (R380). Log entry 34. -/
def State.writeQCfg (s : State) (fn q : Nat) (w : Word) : State :=
  if s.fnLive fn = false ∨ ¬ q < 64 then s else
  let st := s.fld .SVC_Q_STATE_STATE fn q
  if st = queueDisabled then
    let s := s.writeReg .SVC_Q_CFG fn q w
    if s.fld .SVC_Q_CFG_ENABLE fn q = 1 then
      let s := ((s.setReg .SVC_Q_STAT fn q 0).setReg .SVC_Q_DB fn q 0).setReg .SVC_Q_CPL_DB fn q 0
      ((s.setQueue fn q {}).setFld .SVC_Q_STATE_STATE fn q queueActive).setFld .SVC_Q_STATE_ERR_STATUS fn q 0
    else s
  else if bit w.toNat 0 ∨ st = queueDraining then s
  else
    let s := (s.setFld .SVC_Q_CFG_ENABLE fn q 0).setFld .SVC_Q_STATE_STATE fn q queueDraining
    let s := s.setQueue fn q { s.queue fn q with fetching := 0 }
    ((s.unstartedOf fn q).foldl (fun s r => s.refuseCommand r .aborted) s).queueDrained fn q

/-- A write of SVC_Q_CFG that sets ENABLE (R380). -/
def execQueueEnable (fn q : Nat) (w : Word) (s : State) : Result := ok (s.writeQCfg fn q w)

/-- A write of SVC_Q_CFG that clears ENABLE (R380). -/
def execQueueDisable (fn q : Nat) (w : Word) (s : State) : Result := ok (s.writeQCfg fn q w)

/-! ## Event routes (R395) -/

/-- A write of SVC_EVT_ROUTE: EN of sources 7-15 reads zero; EN arms the source, EN zero leaves it disarmed. -/
def State.writeEvtRoute (s : State) (fn k : Nat) (w : Word) : State :=
  if s.fnLive fn = false ∨ ¬ k < 16 then s else
  let s := s.writeReg .SVC_EVT_ROUTE fn k w
  if 7 ≤ k then s.setFld .SVC_EVT_ROUTE_EN fn k 0
  else (s.setArmed fn k false).armEvent fn k

/-- A write of SVC_EVT_ROUTE (R395). -/
def execEventRouteWrite (fn k : Nat) (w : Word) (s : State) : Result := ok (s.writeEvtRoute fn k w)

end Sys2Proof.Machine
end

