-- ==== Sys2Proof/Machine/Lead.lean ====
section
/-! DEFINITION. The lead arbiter, half leaders, strait gates and package-wide actions (R436-R442), and controller restarts
(R374). -/

namespace Sys2Proof.Machine

/-! ## Half leaders (R436) -/

/-- The leading die of a half; 4 where it has none. -/
def Lead.leader (l : Lead) (west : Bool) : Nat := if west then l.westLeader else l.eastLeader

/-- The dies of a half. -/
def halfDies (west : Bool) : List Nat := if west then [2, 3] else [0, 1]

/-- Change the arbiter's side. -/
def State.modLead (s : State) (f : Lead → Lead) : State := { s with lead := f s.lead }

/-- A half has a leader, or none: HBR_LEAD keeps the die of the last one. -/
def State.setLeader (s : State) (west : Bool) (die : Nat) : State :=
  let s := s.modLead (fun l => if west then { l with westLeader := die } else { l with eastLeader := die })
  let none := natOf (decide (4 ≤ die))
  if west then
    let s := s.setFld .HBR_LEAD_WEST_NONE 0 0 none
    if die < 4 then s.setFld .HBR_LEAD_WEST_LEADER 0 0 die else s
  else
    let s := s.setFld .HBR_LEAD_EAST_NONE 0 0 none
    if die < 4 then s.setFld .HBR_LEAD_EAST_LEADER 0 0 die else s

/-- A die holds an epoch; 0 for none. -/
def State.setDieEpoch (s : State) (die e : Nat) : State := s.modLead (fun l => { l with dieEpoch := storeSet 0 l.dieEpoch die e })

/-- A half leader distributes an epoch to the controllers of both dies of its half; a cluster that restarts takes none (R440). -/
def State.distribute (s : State) (west : Bool) (e : Nat) : State :=
  (halfDies west).foldl (fun s d =>
    let s := s.straitOffer (s.lead.leader west) d 2 1
    if s.restarting.contains d then s else s.setDieEpoch d e) s

/-- The token becomes FREE. -/
def State.leadFree (s : State) : State :=
  (s.modLead (fun l => { l with holder := none, asked := false })).setFld .HBR_LEAD_HOLDER 0 0 0

/-- The arbiter revokes the holder: told to the half's leader, which withdraws the epoch, if it has one (R439, R440). -/
def State.leadRevoke (s : State) : State :=
  match s.lead.holder with
  | none => s
  | some west =>
    let s := (s.leadFree).satFld .HBR_LEAD_REVOKES 0 0 1
    let s := if s.lead.leader west < 4 then s.distribute west 0 else s
    s.hbrEvent .HBR_EVT_LEAD

/-- A die can no longer lead its half: the half has no leader, and loses the token where it holds it (R436, R439). -/
def State.leaderLost (s : State) (die : Nat) : State :=
  let west := dieWest die
  if s.lead.leader west = die then
    let s := s.setLeader west 4
    if s.lead.holder = some west then s.leadRevoke else s
  else s

/-- A die may lead: its cluster does not restart, and its harbour strait has not FAILED. -/
def State.mayLead (s : State) (die : Nat) : Bool := !s.restarting.contains die && s.straitState (18 + die) != 3

/-- A cluster takes the lead of its half: the other cluster than the last leader where it may, else that one (R436). It
discards the epoch it holds. Log entry 49. -/
def execLeaderTakeover (west : Bool) (s : State) : Result :=
  if s.lead.leader west < 4 then ok s else
  let last := if west then s.fld .HBR_LEAD_WEST_LEADER else s.fld .HBR_LEAD_EAST_LEADER
  let order := (halfDies west).filter (· ≠ last) ++ [last]
  match order.find? s.mayLead with
  | none => ok s
  | some d => ok ((s.setLeader west d).setDieEpoch d 0)

/-! ## The arbiter (R438-R440) -/

/-- A rotation that waits presents its action while the half of its function's command die holds the token (R437).
Log entry 47. -/
def State.rotateIssue (s : State) (fn : Nat) : State :=
  if storeGet 0 s.rotations fn = 1 ∧ s.lead.holder = some (dieWest (s.commandDie fn)) then
    let dies := ((setBits (s.atollsOf fn) 24).map (· / 6)).eraseDups
    let dies := if dies = [] then [s.commandDie fn] else dies
    let (s, _) := s.issueAction (.rotate fn) 16 (s.fld .HBR_LEAD_EPOCH) dies
    { s with rotations := storeSet 0 s.rotations fn 2 }
  else s

/-- What has waited for the token goes on: step commit broadcasts of the half's dies, and rotations (R437, R442).
Log entry 49. -/
def State.leadResume (s : State) (west : Bool) : State :=
  [1, 2, 3, 4, 5, 6, 7, 8].foldl (fun s fn =>
    let s := if s.optWaits fn ∧ dieWest (s.normIsland fn) = west then s.optRelease fn else s
    s.rotateIssue fn) s

/-- A half leader requests the token: the holder is answered with the current epoch; of another half the holder is asked to
release (R438). -/
def execLeadRequest (west : Bool) (s : State) : Result :=
  let die := s.lead.leader west
  if 4 ≤ die ∨ s.straitCarries (18 + die) = false then ok s else
  let s := s.straitOffer die 16 2 1
  match s.lead.holder with
  | some h =>
    if h = west then ok (((s.straitOffer 16 die 2 1).distribute west (s.fld .HBR_LEAD_EPOCH)).leadResume west)
    else
      let s := s.modLead (fun l => { l with wants := if l.wants.contains west then l.wants else l.wants ++ [west] })
      ok (if s.lead.asked then s else s.modLead (fun l => { l with asked := true, askedAt := s.count 16 }))
  | none => ok (s.modLead (fun l => { l with wants := if l.wants.contains west then l.wants else l.wants ++ [west] }))

/-- The half on whose behalf an action runs: its issuer's, or that of the rotating function's command die (R437). -/
def State.actionHalf (s : State) (a : Action) : Bool :=
  match a.kind with
  | .rotate fn => dieWest (s.commandDie fn)
  | .power west _ => west
  | _ => dieWest a.src

/-- The holder, asked to, releases the token once none of its package-wide actions is in progress, and withdraws the epoch (R438,
R440). Log entry 49. -/
def execLeadRelease (s : State) : Result :=
  match s.lead.holder with
  | none => ok s
  | some west =>
    if s.lead.asked = false ∨ s.actions.any (fun e => s.actionHalf e.2 == west) = true ∨ 4 ≤ s.lead.leader west then ok s
    else ok ((s.straitOffer (s.lead.leader west) 16 2 1).leadFree.distribute west 0)

/-- The holder has not released within LEAD_HOLD_MS of being asked, and is revoked (R439). -/
def execLeadHoldTimeout (s : State) : Result :=
  if s.lead.holder.isSome ∧ s.lead.asked then
    ok ((s.reachCount 16 (s.lead.askedAt + 1000000 * max 1 (s.fld .HBR_GOV_CFG_LEAD_HOLD_MS))).leadRevoke)
  else ok s

/-- The gates that the arbiter can reach. -/
def State.reachedGates (s : State) : List Nat := [0, 1, 2, 3].filter (fun d => s.straitCarries (18 + d))

/-- A gate that the arbiter can reach holds an accepted action. Log entry 49. -/
def State.gatesHold (s : State) : Bool := s.actions.any (fun e => s.reachedGates.any (fun d => e.2.holding.any (fun h => h.1 == d)))

/-- The first part of a grant: the epoch advances past 0 and is written to the gates that can be reached (R438).
Log entry 49. -/
def State.grantBegins (s : State) (west : Bool) : State :=
  let e := if s.fld .HBR_LEAD_EPOCH = 0xFFFF then 1 else s.fld .HBR_LEAD_EPOCH + 1
  let gates := s.reachedGates
  let s := s.modLead (fun l => { l with granting := some (west, s.count 16),
                                        gateEpoch := gates.foldl (fun g d => storeSet 0 g d e) l.gateEpoch })
  gates.foldl (fun s d => s.straitOffer 16 d 2 1) (s.setFld .HBR_LEAD_EPOCH 0 0 e)

/-- The rest of a grant: the half's leader has the token and the epoch, and what waited for them goes on (R438, R440). Log
entry 49. -/
def State.leadGranted (s : State) (west : Bool) : State :=
  let rest := s.lead.wants.erase west
  let s := s.modLead (fun l => { l with holder := some west, granting := none, wants := rest, asked := rest ≠ [], askedAt := s.count 16 })
  let s := (s.setFld .HBR_LEAD_HOLDER 0 0 (if west then 2 else 1)).straitOffer 16 (s.lead.leader west) 2 1
  (s.distribute west (s.fld .HBR_LEAD_EPOCH)).leadResume west

/-- A half that has no leader any more asks for nothing. -/
def State.grantDropped (s : State) (west : Bool) : State :=
  s.modLead (fun l => { l with granting := none, wants := l.wants.erase west })

/-- The FREE token is granted to a half that requests it: the epoch advances past 0 and is written to every gate that can be
reached; the leader has it as soon as none of those gates holds an action. Where one does, the grant waits for it, at most 20 µs:
a second event of this name ends the wait (R438, R440). Log entry 49. -/
def execLeadGrant (s : State) : Result :=
  match s.lead.holder, s.lead.granting, s.lead.wants with
  | none, none, west :: _ =>
    if 4 ≤ s.lead.leader west then ok (s.grantDropped west)
    else
      let s := s.grantBegins west
      ok (if s.gatesHold then s else s.leadGranted west)
  | none, some (west, c), _ =>
    if 4 ≤ s.lead.leader west then ok (s.grantDropped west)
    else ok ((if s.gatesHold then s.reachCount 16 (c + 20000) else s).leadGranted west)
  | _, _, _ => ok s

/-! ## Gates (R441) -/

/-- An action has been refused or dropped: HBR_LEAD counts it once, and its issuer and requester end with LEAD_LOST; a rotation
waits for the token again (R64, R356, R437, R441). -/
def State.actionLost (s : State) (n : Nat) (a : Action) : State :=
  let s := if a.refused then s else s.satFld .HBR_LEAD_REFUSALS 0 0 1
  let s := s.modAction n (fun a => { a with refused := true, phase := 2 })
  match a.kind with
  | .load fn =>
    let s := s.modLoad fn (fun l => { l with gate := none })
    if s.loading fn ∧ s.loadState fn = loadWaitIdle then s.loadEnd fn loadRefused 0xE .leadLost else s
  | .commit fn => (s.modOpt fn (fun o => { o with broadcast := none })).optStop fn .leadLost
  | .power _ _ => s
  | .rotate fn => { s with rotations := storeSet 0 s.rotations fn (if storeGet 0 s.rotations fn = 0 then 0 else 1) }

/-- An action that no gate holds any more is forgotten. Log entry 49. -/
def State.actionGone (s : State) (n : Nat) : State :=
  match s.action n with
  | some a => if a.holding = [] then s.dropAction n else s
  | none => s

/-- An action reaches the gate of a die: held where the epochs are equal, else refused. -/
def execGateActionArrive (act gate : Nat) (s : State) : Result :=
  match s.action act with
  | none => ok s
  | some a =>
    if a.phase ≠ 0 ∨ a.dies.contains gate = false ∨ a.answered.contains gate ∨ s.wayOpen a.src gate = false then ok s
    else
    let s := s.straitOffer gate a.src (actionClass a.kind) 1
    if storeGet 0 s.lead.gateEpoch gate = a.epoch ∧ a.epoch ≠ 0 then
      ok (s.modAction act (fun a => { a with answered := a.answered ++ [gate], holding := storeSet 0 a.holding gate (s.count 16 + 1) }))
    else
      let s := if a.refused then s else s.satFld .HBR_LEAD_REFUSALS 0 0 1
      ok (s.modAction act (fun a => { a with answered := a.answered ++ [gate], refused := true }))

/-- The issuer has its answers: on any refusal it sends DROP and the action is lost; with every acknowledgement it sends GO. -/
def execGateResponse (act : Nat) (s : State) : Result :=
  match s.action act with
  | none => ok s
  | some a =>
    if a.phase ≠ 0 then ok s
    else if a.refused then ok (((s.toGates a.kind a.src (a.holding.map Prod.fst)).actionLost act a).actionGone act)
    else if a.dies.all a.answered.contains then ok ((s.toGates a.kind a.src a.dies).modAction act (fun a => { a with phase := 1 }))
    else ok s

/-- Every gate has released an action: it takes effect on its dies. A load enters QUIESCE and keeps the action to its end; the
updates of a step commit may start; a half's power change goes to the governor; a rotation's key may be loaded. -/
def State.actionTakes (s : State) (n : Nat) (a : Action) : State :=
  match a.kind with
  | .load fn => if s.loading fn ∧ s.loadState fn = loadWaitIdle then s.enterQuiesce fn else s.dropAction n
  | .commit fn => (s.modOpt fn (fun o => { o with released := o.broadcast == some n })).dropAction n
  | .power _ _ => s
  | .rotate fn => { s with rotations := storeSet 0 s.rotations fn (if storeGet 0 s.rotations fn = 0 then 0 else 3) }

/-- The close of the 20 µs in which a gate that holds an action waits for GO or DROP. -/
def gateClose (since : Nat) : Nat := since - 1 + 20000

/-- A gate that holds an action drops it: without GO or DROP for 20 µs of the harbour's count the action is lost.
Log entry 49. -/
def execGateTimeout (act gate : Nat) (s : State) : Result :=
  match s.action act with
  | none => ok s
  | some a =>
    match a.holding.find? (fun h => h.1 == gate) with
    | none => ok s
    | some h =>
      let s := s.reachCount 16 (gateClose h.2)
      let s := s.modAction act (fun a => { a with holding := storeErase a.holding gate })
      ok ((if a.phase = 2 then s else s.actionLost act a).actionGone act)

/-- A gate drops the action it holds, on the issuer's DROP. -/
def execGateDrop (act gate : Nat) (s : State) : Result :=
  match s.action act with
  | none => ok s
  | some a =>
    if a.phase = 2 ∧ s.wayOpen a.src gate = true then ok ((s.modAction act (fun a => { a with holding := storeErase a.holding gate })).actionGone act) else ok s

/-! ## Controller restarts (R374) -/

/-- The functions whose command die is a die. -/
def State.homedOn (s : State) (die : Nat) : List Nat := [1, 2, 3, 4, 5, 6, 7, 8].filter (fun f => s.fnEnabled f && s.commandDie f == die)

/-- Functions with a stage that has an islet on a die. -/
def State.stagedOn (s : State) (die : Nat) : List Nat :=
  [1, 2, 3, 4, 5, 6, 7, 8].filter (fun f => s.fnEnabled f &&
    (s.fnState f).stageSlots.any (fun k => (stageIslets (s.stageRecOf f k)).any (fun i => islDie i == die)))

/-- A load ends with a fault wherever it stands: REFUSED before QUIESCE, FAILED from it on. Log entry 35. -/
def State.loadFaults (s : State) (fn : Nat) (st : Status) : State :=
  if s.loading fn then s.loadEnd fn (if s.loadState fn < loadQuiesce then loadRefused else loadFailed) 0xD st else s

/-- Every fetched command of a function that has not completed ends with a status. Log entry 35. -/
def State.commandsEnd (s : State) (fn : Nat) (st : Status) : State :=
  (List.range 64).foldl (fun s q =>
    (s.queue fn q).cmds.foldl (fun s c => s.refuseCommand { fn := fn, q := q, index := c.index } st) s) s

/-- The migration requests of a function run on with no command to complete: MEM_MIG_STAT alone reports them (R374). -/
def State.migForget (s : State) (f : Nat) : State :=
  let free (r : MigReq) : MigReq := match r.source with
    | .command _ => { r with source := .window }
    | _ => r
  s.modFn f (fun x => { x with mig := { x.mig with queue := x.mig.queue.map free, run := x.mig.run.map (fun m => { m with req := free m.req }) } })

/-- The work that a restarting cluster ends (R374 steps 1 and 2). Log entry 35. -/
def State.clusterStops (s : State) (die : Nat) : State :=
  let homed := s.homedOn die
  let staged := s.stagedOn die
  let both := (homed ++ staged).eraseDups
  let s := both.foldl (fun s f => s.servicesDoomed f .aborted) s
  let s := ((List.range 96).map (· + 96 * die)).foldl (fun s i =>
    let t := (s.islet i).task
    if s.isletActive i ∨ t.isSome then (s.stopIslet i causeStopped).taskEnd t .aborted else s) s
  let lids := (s.launches.filter (fun e => homed.contains e.2.fn ||
    (setBits (entryAtolls e.2.entry) 24).any (fun a => a / 6 == die))).map Prod.fst
  let s := lids.foldl (fun s lid => s.launchStop lid .aborted) s
  let s := both.foldl (fun s f => (s.stepKill f .aborted).genKill f .aborted) s
  let s := homed.foldl (fun s f => s.stepFinish f .aborted false) s
  let s := [1, 2, 3, 4, 5, 6, 7, 8].foldl (fun s f =>
    if both.contains f || (s.loading f && (s.loadDies f).contains die) then s.loadFaults f .aborted else s) s
  homed.foldl (fun s f => (s.commandsEnd f .aborted).migForget f) s

/-- A core of a cluster writes its harbour watchdog. Log entry 58. -/
def execControllerWatchdogWrite (die core : Nat) (s : State) : Result :=
  if die < 4 ∧ core < 4 then ok { s with watchdogs := storeSet 0 s.watchdogs (4 * die + core) (s.count 16) } else ok s

/-- A cluster's controllers restart: what they held stops, its epoch goes, the restart is journaled and told (R374).
Log entry 35. -/
def State.clusterRestarts (s : State) (die : Nat) : State :=
  let s := s.clusterStops die
  let s := { s with restarting := s.restarting ++ [die] }
  let s := (s.setFld .SVC_CTRL_STAT_RESTARTING die 0 1).satFld .SVC_CTRL_STAT_RESTARTS die 0 1
  let s := (s.setDieEpoch die 0).leaderLost die
  let s := s.journal 0x55 (leBytes 1 die)
  let s := s.hbrEvent .HBR_EVT_CTRL_RESTART
  [1, 2, 3, 4, 5, 6, 7, 8].foldl (fun s f =>
    if s.fnEnabled f ∧ (setBits (s.atollsOf f) 24).any (fun a => a / 6 == die) = true then s.fnEvent f 6 .SVC_EVT_CTRL_RESTART_EVT f else s) s

/-- A watchdog of a cluster has stayed unwritten for 8 ms: its controllers restart (R374). Log entry 58. -/
def execControllerRestart (die : Nat) (s : State) : Result :=
  if ¬ die < 4 ∨ s.restarting.contains die then ok s else
  let last := (List.range 4).map (fun c => storeGet 0 s.watchdogs (4 * die + c))
  let s := s.reachCount 16 (last.foldl min (last.headD 0) + 8000000)
  ok (s.clusterRestarts die)

/-- The cluster's firmware has been reloaded and it resumes (R374 step 3). -/
def execControllerRestartDone (die : Nat) (s : State) : Result :=
  if s.restarting.contains die then
    let s := { s with restarting := s.restarting.erase die,
                      watchdogs := (List.range 4).foldl (fun w c => storeSet 0 w (4 * die + c) (s.count 16)) s.watchdogs }
    ok (s.setFld .SVC_CTRL_STAT_RESTARTING die 0 0)
  else ok s

end Sys2Proof.Machine
end

