-- ==== Sys2Proof/Machine/Matrix.lean ====
section
/-! DEFINITION. The matrix array's commands (R106-R147, R485). -/

namespace Sys2Proof.Machine

/-- The target of an operation: a quadrant in quadrant organisation, else the whole array (R117). -/
def mxTarget (g d : List Byte) : Nat := if gangOrg g = 1 then descQuad d else 0

/-- The descriptor of the operation at the head of an islet's MX queue. -/
def State.mxHead (s : State) (i : Nat) : List Byte :=
  match (s.islet i).mx.queue with
  | [] => []
  | op :: _ => (s.islet i).desc op.desc

/-- Some member of a gang runs a COMBINE. -/
def State.gangCombines (s : State) (is : List Nat) : Bool := is.any (fun i => (s.islet i).mx.combine.isSome)

/-- The lead islet of an islet's gang. -/
def State.gangLead (s : State) (i : Nat) : Nat := ((s.gangIslets i).head?).getD i

/-- Change the matrix array of an islet. -/
def State.modMx (s : State) (i : Nat) (f : Matrix → Matrix) : State := s.modIslet i (fun x => { x with mx := f x.mx })

/-- An array with an operation in flight counts its cycles from now; one whose last operation has ended counts them up to
now (MX_BUSY). -/
def State.mxBusy (s : State) (i : Nat) : State :=
  let m := (s.islet i).mx
  let flying := !(m.loads.isEmpty && m.tiles.all (·.2.isEmpty) && m.combine.isNone)
  let now := s.count (islDie i)
  match m.busyFrom, flying with
  | none, true => s.modMx i (fun m => { m with busyFrom := some now })
  | some c, false => (s.modMx i (fun m => { m with busyFrom := none })).addFld .MX_BUSY_CYCLES i 0 (now - c)
  | _, _ => s

/-- The head operation leaves the MX queue of every member of a gang, each with its own descriptor. -/
def State.popGang (s : State) (lead : Nat) (f : Matrix → MxOp → Matrix) : State :=
  let now := s.count (islDie lead)
  let s := (s.gangIslets lead).foldl (fun s i =>
    match (s.islet i).mx.queue with
    | [] => s
    | op :: rest => ((s.modMx i (fun m => f { m with queue := rest } { op with since := now })).queueStat i).mxBusy i) s
  s.modMx lead (fun m => { m with assembled := false, swapped := false })

/-- The descriptors of a gang's heads keep R117: one OP, and for TILE one M, one pair of formats, one CTRL and one mask. -/
def State.headsAgree (s : State) (is : List Nat) : Bool :=
  match is with
  | [] => true
  | l :: _ =>
    let d := s.mxHead l
    is.all (fun i =>
      let e := s.mxHead i
      descOp e == descOp d && (descOp d != 1 ||
        (descM e == descM d && bytesAt e 6 1 == bytesAt d 6 1 && bytesAt e 5 1 == bytesAt d 5 1 &&
         liveRows (s.islet i).sp e == liveRows (s.islet l).sp d)))

/-- A descriptor exists and keeps the limits of its OP, in its member's role; its gang shares no islet with another; slice
mode is on the part (R1, R108, R116, R146, R147). -/
def State.headLegal (s : State) (i : Nat) : Bool :=
  let g := s.gangOf i
  let d := s.mxHead i
  !d.isEmpty && gangLegal g && !(s.islet i).mx.gangBad && flagOffLegal d && descZeros d &&
  (partSlice s.pkg.part || (descFmt d != 0xE && descOp d != 2)) && (match descOp d with
    | 0 => loadLegal g d && loadExps (s.islet i).sp g d
    | 1 => tileLegal g d (s.gangCol i == 0) (s.gangRow i + 1 == gangRows g) && (s.gangCol i != 0 || tileExps (s.islet i).sp d)
    | 2 => s.gangRow i + 1 != gangRows g || (combineLegal g d && combineExps (s.islet i).sp g d)
    | _ => false)

/-- The members of a gang that are powered down ask for an islet wake-up (R132). -/
def State.gangWakes (s : State) (gated : List Nat) : State :=
  gated.foldl (fun s i => s.modMx i (fun m => { m with waking := some (m.waking.getD (s.count (islDie i))) })) s

/-- Every member of the gang of `islet` has issued its next MX instruction: the gang operation is assembled (R117). On an
array that is powered down it first asks for an islet wake-up (R132). A missing or illegal descriptor, and members that
disagree, are unpredictable within the partition (R108, R117, R146, R147). Log entry 22. -/
def execGangOpStart (islet : Nat) (s : State) : Result :=
  let is := s.gangIslets islet
  let lead := s.gangLead islet
  if ¬ islet < 384 ∨ (s.islet lead).mx.assembled ∨ is.any (fun i => (s.islet i).mx.queue.isEmpty) then ok s
  else
    let gated := is.filter (fun i => s.fld .MX_STAT_GATED i == 1)
    let ns := is.map (fun i => ((s.islet i).mx.queue.head?).map (·.n))
    if is.all s.headLegal = false ∨ s.headsAgree is = false ∨ 1 < ns.eraseDups.length then .fault (.unpredictable (s.isletFn islet))
    else if gated.isEmpty then ok (s.modMx lead (fun m => { m with assembled := true }))
    else ok (s.gangWakes gated)

/-- The assembled operation at the head is of an OP, and no member runs a COMBINE (R142). -/
def State.headReady (s : State) (lead op : Nat) : Bool :=
  (s.islet lead).mx.assembled && descOp (s.mxHead lead) == op && !s.gangCombines (s.gangIslets lead)

/-- Set the state of a target's shadow set in every member. -/
def State.setShadow (s : State) (i t : Nat) (v : StatSet) : State :=
  (s.modMx i (fun m => { m with shadow := storeSet {} m.shadow t v })).queueStat i

/-- A gang's LOAD leaves the queue for its target, whose shadow set is LOADING in every member (R122). -/
def State.gangLoads (s : State) (lead t : Nat) : State :=
  let s := s.popGang lead (fun m op => { m with loads := storeSet {} m.loads t op })
  (s.gangIslets lead).foldl (fun s i => s.setShadow i t { storeGet {} (s.islet i).mx.shadow t with state := 1 }) s

/-- The gang's LOAD at the head dispatches: earlier swaps on its target are made, since it is the head; earlier loads to it
have completed (R122). Its shadow set is LOADING. -/
def execMxLoadDispatch (islet : Nat) (s : State) : Result :=
  let lead := s.gangLead islet
  let t := mxTarget (s.gangOf lead) (s.mxHead lead)
  if ¬ islet < 384 ∨ s.headReady lead 0 = false ∨ ((s.islet lead).mx.loads.any (fun e => e.1 == t)) then ok s
  else ok (s.gangLoads lead t)

/-- What every member of a gang does when an operation completes (R112, R117): flags, flag word, event flag, counts. -/
def State.mxDone (s : State) (i : Nat) (op : MxOp) (flags : Nat) : State :=
  let d := (s.islet i).desc op.desc
  let s := s.setFld .MX_FLAGS_LAST i 0 flags
  let s := s.setFld .MX_FLAGS_STICKY i 0 (s.fld .MX_FLAGS_STICKY i ||| flags)
  let s := if descFlagOff d = noOffset then s else s.spWrite i (descFlagOff d) (leBytes 32 flags)
  ((s.addFld .MX_STAT_OPS_DONE i 0 1).mxBusy i).setFlags i (2 ^ op.flag)

/-- The scratchpad ranges an operation writes at an islet: outputs where the islet's row ends its gang, and the flag word. -/
def State.mxRanges (s : State) (i : Nat) (op : MxOp) : List (Nat × Nat) :=
  let x := s.islet i
  let g := s.gangOf i
  let d := x.desc op.desc
  (if s.gangRow i + 1 = gangRows g ∧ descOp d = 1 then (tileTouches x.sp g d op.set.slice).2
   else if s.gangRow i + 1 = gangRows g ∧ descOp d = 2 then combineTouches g d else []) ++
  (if descFlagOff d = noOffset then [] else [(descFlagOff d, 32)])

/-- Before an operation writes the scratchpad under a running chain, the bytes it replaces are kept: the chain may have read
them (R183). -/
def State.mxKeeps (s : State) (i : Nat) (op : MxOp) : State :=
  if (s.islet i).vx.run.isSome then
    let old := (s.mxRanges i op).map (fun r => (r.1, s.spRead i r.1 r.2))
    s.modIslet i (fun x => { x with vx := { x.vx with past := x.vx.past ++ old } })
  else s

/-- The island's count passes the cycles an operation takes at least (log entry 3). -/
def State.passCycles (s : State) (i : Nat) (op : MxOp) (n : Nat) : State :=
  s.setCount (islDie i) (max (s.count (islDie i)) (op.since + n))

/-- The LOAD running on a target fills the shadow set of every member (R119-R122, R135, R137). -/
def State.gangLoaded (s : State) (lead quad : Nat) : State :=
  let results := (s.gangIslets lead).map (fun i =>
    let x := s.islet i
    let op := storeGet {} x.mx.loads quad
    (i, op, loadSet x.sp (s.gangOf i) (x.desc op.desc)))
  let flags := results.foldl (fun f r => f ||| r.2.2.2) 0
  results.foldl (fun s r =>
    let (i, op, v) := r
    let s := (s.mxKeeps i op).passCycles i op ((loadBytes (s.gangOf i) ((s.islet i).desc op.desc) + 511) / 512)
    ((s.modMx i (fun m => { m with loads := m.loads.filter (fun e => e.1 ≠ quad) })).setShadow i quad v.1).mxDone i op flags) s

/-- Scratchpad reads of a gang operation that met a single-bit error, as islet and number: each member counts its own (R86).
Log entry 23. -/
def State.gangReads (s : State) (is : List Nat) (corrected : List (Nat × Nat)) : State :=
  corrected.foldl (fun s e => if is.contains e.1 then s.satFld .ISL_SP_ERR_CORRECTED e.1 0 e.2 else s) s

/-- Accumulator reads of a gang operation that met a single-bit error: every member reports those of the whole gang (R124, the MX
sub-block). Log entry 23. -/
def State.gangAccReads (s : State) (is : List Nat) (corrected : Nat) : State :=
  is.foldl (fun s i => s.satFld .MX_ERR_CORRECTED i 0 corrected) s

/-- The LOAD running on a target completes: the shadow set of every member is VALID (R119-R122, R135, R137). `corrected`
scratchpad reads of its members met a single-bit error. -/
def execMxLoadComplete (islet quad : Nat) (corrected : List (Nat × Nat)) (s : State) : Result :=
  let lead := s.gangLead islet
  let is := s.gangIslets lead
  if ¬ islet < 384 ∨ is.any (fun i => !((s.islet i).mx.loads.any (fun e => e.1 == quad))) then ok s
  else ok ((s.gangLoaded lead quad).gangReads is corrected)

/-- The active and shadow sets of a target are exchanged in every member of a gang (R122, R123). -/
def State.gangSwaps (s : State) (lead t : Nat) : State :=
  let s := (s.gangIslets lead).foldl (fun s i =>
    ((s.modMx i (fun m => { m with active := storeSet {} m.active t (storeGet {} m.shadow t)
                                   shadow := storeSet {} m.shadow t (storeGet {} m.active t) })).queueStat i).satFld
      .MX_SWAPS_SWAPS i 0 1) s
  s.modMx lead (fun m => { m with swapped := true })

/-- The lead islet issues the swap token of the TILE at the head: every earlier LOAD of every member has completed. The
active and shadow sets of its target are exchanged in every cell of the gang (R122, R123). Swapping in a set that is not
VALID is unpredictable within the partition. -/
def execMxSwap (islet : Nat) (s : State) : Result :=
  let lead := s.gangLead islet
  let is := s.gangIslets lead
  let d := s.mxHead lead
  let t := mxTarget (s.gangOf lead) d
  if ¬ islet < 384 ∨ s.headReady lead 1 = false ∨ descSwap d = false ∨ (s.islet lead).mx.swapped ∨
      is.any (fun i => !(s.islet i).mx.loads.isEmpty) then ok s
  else if is.any (fun i => (storeGet ({} : StatSet) (s.islet i).mx.shadow t).state != 2) then
    .fault (.unpredictable (s.isletFn islet))
  else ok (s.gangSwaps lead t)

/-- A member's stationary set and descriptor meet: class, kind, and where its row holds the entries the slice pair, whose entries
lie in the accumulator (R108, R116, R139). A TILE that does not swap and meets an active set that no LOAD has filled has no format
to meet: R128 leaves the set EMPTY, and R123 calls only swapping one in unpredictable (DESIGN CHOICE, log entry 25). -/
def tileMeets (ends : Bool) (g d : List Byte) (v : StatSet) : Bool :=
  descM d == 0 || (v.state == 2 && fmtMeets v.fmt (descFmt d) &&
    (!ends || descFmt d != 0xE || (decide (v.slice + descSliceIdx d ≤ descSlices d + 1) &&
      decide (accEntry d (gangW g) v.slice (descM d - 1) (gangW g - 1) < 65536))))

/-- The TILE at the head starts, swapped if it asks for that: it leaves the queue and its rows enter, with the stationary
set it meets (R123). A stationary set that its formats do not meet is unpredictable within the partition (R108, R139). -/
def execMxTileStart (islet : Nat) (s : State) : Result :=
  let lead := s.gangLead islet
  let is := s.gangIslets lead
  let d := s.mxHead lead
  let t := mxTarget (s.gangOf lead) d
  if ¬ islet < 384 ∨ s.headReady lead 1 = false ∨ (descSwap d && !(s.islet lead).mx.swapped) then ok s
  else if is.any (fun i => !tileMeets (s.gangRow i + 1 == gangRows (s.gangOf i)) (s.gangOf i) (s.mxHead i) (storeGet {} (s.islet i).mx.active t)) then
    .fault (.unpredictable (s.isletFn islet))
  else
    ok (s.popGang lead (fun m op =>
      { m with tiles := storeSet [] m.tiles t (storeGet [] m.tiles t ++ [{ op with set := storeGet {} m.active t }]) }))

/-- The oldest TILE in flight on a target of an islet. Log entry 20. -/
def State.tileOf (s : State) (i t : Nat) : Option MxOp := (storeGet [] (s.islet i).mx.tiles t).head?

/-- Two TILEs share accumulator entries, or the slice cache (R125, R138). -/
def tilesShare (g d e : List Byte) : Bool :=
  let span (x : List Byte) : Nat := descM x * gangW g * (if descFmt x = 0xE then slicePairs (descSlices x) else 1)
  (descFmt d == 0xE && descFmt e == 0xE) ||
    (decide (descAccBase d < descAccBase e + span e) && decide (descAccBase e < descAccBase d + span d))

/-- A TILE waits for one issued before it on another quadrant with which it shares entries or the slice cache: shared
entries are updated in the order of issue (R110, R117, R125). Log entry 20. -/
def State.tileWaits (s : State) (i t : Nat) : Bool :=
  let x := s.islet i
  match s.tileOf i t with
  | none => false
  | some op => x.mx.tiles.any (fun e => e.1 != t &&
      e.2.any (fun o => decide (o.n < op.n) && tilesShare (s.gangOf i) (x.desc op.desc) (x.desc o.desc)))

/-- A filling TILE's rows go into the slice cache of each member of gang column 0; a cache-fed one needs a fill that
covers it (R138). The flag set is that of the cutting. -/
def State.fillSlices (s : State) (i : Nat) (d : List Byte) : State × Nat × Bool :=
  if descFmt d ≠ 0xE ∨ descM d = 0 then (s, 0, true)
  else
    let x := s.islet i
    if descSrc d = noOffset then
      (s, 0, x.mx.cacheFilled && descM d ≤ x.mx.cacheRows && descSlices d == x.mx.cacheSlices)
    else
      let c := s.freeCtr
      let (v, f) := fillCache x.sp (s.gangOf i) d (fun k => Config.freeNat (c + k))
      let s := s.modMx i (fun m => { m with cache := v, cacheRows := descM d, cacheSlices := descSlices d, cacheFilled := true })
      ({ s with freeCtr := c + 32768 }, f, true)

/-- A TILE ends: accumulators, outputs, flags and counts over its whole gang (R109-R112, R116, R124-R126). The corrected
accumulator reads count at every member. Log entry 23. -/
def State.gangTileOut (s : State) (lead quad cut stalls : Nat) (spCorrected : List (Nat × Nat)) (mxCorrected : Nat) : State :=
  let is := s.gangIslets lead
  let g := s.gangOf lead
  let op := (s.tileOf lead quad).getD {}
  let descOf (i : Nat) : List Byte := (s.islet i).desc ((s.tileOf i quad).getD {}).desc
  let d := descOf lead
  let mems := is.map (fun i =>
    ({ desc := descOf i, set := ((s.tileOf i quad).getD {}).set, sp := (s.islet i).sp, cache := (s.islet i).mx.cache } : TileMember))
  let ends := is.filter (fun i => s.gangRow i + 1 == gangRows g)
  let results := if descM d = 0 then [] else ends.map (fun i => (i, tileEnd g mems (s.gangCol i) (s.islet i).mx.acc))
  let flags := results.foldl (fun f r => f ||| r.2.2.2) cut
  let sp0 := (s.islet lead).sp
  let skipped := rowGroups d - (fedGroups sp0 d).length
  let cycles := tileCycles g sp0 d
  let s := is.foldl (fun s i => s.mxKeeps i ((s.tileOf i quad).getD {})) s
  let s := results.foldl (fun s r => s.modIslet r.1 (fun x => { x with sp := r.2.2.1, mx := { x.mx with acc := r.2.1 } })) s
  let s := is.foldl (fun s i =>
    let op := (s.tileOf i quad).getD {}
    let s := s.passCycles i op cycles
    let s := s.modMx i (fun m => { m with tiles := storeSet [] m.tiles quad (storeGet [] m.tiles quad).tail })
    ((s.satFld .MX_SWAPS_SKIPPED_GROUPS i 0 skipped).satFld .MX_STALLS_BANK_STALLS i 0 stalls).mxDone i op flags) s
  let s := s.passCycles lead op cycles
  (s.gangReads is spCorrected).gangAccReads is mxCorrected

/-- The first column of a gang takes the slices its TILE needs into the caches: flags of the cut, and whether all is there. -/
def State.gangFill (s : State) (islet quad : Nat) : State × Nat × Bool :=
  ((s.gangIslets (s.gangLead islet)).filter (fun i => s.gangCol i == 0)).foldl (fun (a : State × Nat × Bool) i =>
    let (s, f, okay) := a.1.fillSlices i ((a.1.islet i).desc ((a.1.tileOf i quad).getD {}).desc)
    (s, a.2.1 ||| f, a.2.2 && okay)) (s, 0, true)

/-- The oldest TILE in flight on a target completes: accumulators, outputs and flags of the whole gang (R109-R112, R116,
R118, R124-R126, R134, R138-R140). `stalls` cycles were added by R131; `spCorrected` and `mxCorrected` reads met a
single-bit error. Log entry 20. -/
def execMxTileComplete (islet quad stalls : Nat) (spCorrected : List (Nat × Nat)) (mxCorrected : Nat) (s : State) : Result :=
  let lead := s.gangLead islet
  if ¬ islet < 384 ∨ (s.tileOf lead quad).isNone ∨ (s.gangIslets lead).any (fun i => (s.tileOf i quad).isNone) ∨
      s.tileWaits lead quad then ok s
  else
    match s.gangFill islet quad with
    | (_, _, false) => .fault (.unpredictable (s.isletFn islet))
    | (s, cut, true) => ok (s.gangTileOut lead quad cut stalls spCorrected mxCorrected)

/-- A COMBINE leaves the queue; the chains that wait for it count the cycles from now (R181). -/
def State.gangCombine (s : State) (lead : Nat) (ends : List Nat) : State :=
  ends.foldl (fun s i => s.modIslet i (fun x =>
    if x.vx.queue.isEmpty then x else { x with vx := { x.vx with waitFrom := some (s.count (islDie i)) } }))
    (s.popGang lead (fun m op => { m with combine := some op }))

/-- The islets of the last row of a gang. -/
def State.gangEnds (s : State) (lead : Nat) : List Nat :=
  (s.gangIslets lead).filter (fun i => s.gangRow i + 1 == gangRows (s.gangOf lead))

/-- The COMBINE at the head starts once every earlier operation of every member, and the running chain of each, has
completed; chains that wait for it count the cycles (R142, R181). -/
def execMxCombineStart (islet : Nat) (s : State) : Result :=
  let lead := s.gangLead islet
  if ¬ islet < 384 ∨ s.headReady lead 2 = false ∨
      (s.gangIslets lead).any (fun i => !((s.islet i).mx.loads.isEmpty && (s.islet i).mx.tiles.all (·.2.isEmpty))) ∨
      (s.gangEnds lead).any (fun i => (s.islet i).vx.run.isSome) then ok s
  else ok (s.gangCombine lead (s.gangEnds lead))

/-- Partials or final FP64 results of a COMBINE on every islet of the last gang row; every member is done (R139-R142). -/
def State.gangCombined (s : State) (lead : Nat) : State :=
  let is := s.gangIslets lead
  let g := s.gangOf lead
  let ends := s.gangEnds lead
  let opOf (i : Nat) : MxOp := ((s.islet i).mx.combine).getD {}
  let results := ends.map (fun i =>
    let x := s.islet i
    (i, combineWrites x.sp x.mx.acc g (x.desc (opOf i).desc) (s.gangCol i)))
  let flags := results.foldl (fun f r => f ||| r.2.2) 0
  let s := is.foldl (fun s i => s.mxKeeps i (opOf i)) s
  let s := results.foldl (fun s r => s.modIslet r.1 (fun x => { x with sp := r.2.1 })) s
  is.foldl (fun s i =>
    let op := opOf i
    let s := if ends.contains i then s.passCycles i op (combineCycles g ((s.islet i).desc op.desc)) else s
    let s := match (s.islet i).vx.waitFrom with
      | some c => (s.satFld .VX_STALLS_COMBINE_WAITS i 0 (s.count (islDie i) - c)).modIslet i (fun x =>
          { x with vx := { x.vx with waitFrom := none } })
      | none => s
    (s.modMx i (fun m => { m with combine := none })).mxDone i op flags) s

/-- The running COMBINE completes: partials or final FP64 results on every islet of the last gang row (R139-R142). -/
def execMxCombineComplete (islet : Nat) (spCorrected : List (Nat × Nat)) (mxCorrected : Nat) (s : State) : Result :=
  let lead := s.gangLead islet
  let is := s.gangIslets lead
  if ¬ islet < 384 ∨ (s.gangIslets lead).any (fun i => (s.islet i).mx.combine.isNone) then ok s
  else ok (((s.gangCombined lead).gangReads is spCorrected).gangAccReads is mxCorrected)

/-- What the operations in flight of an islet's gang would write into its scratchpad: offset and bytes, in the order in which
they would complete (R183). -/
def State.mxAhead (s : State) (islet : Nat) : List (Nat × List Byte) :=
  let lead := s.gangLead islet
  let m := (s.islet islet).mx
  let loads := m.loads.map (fun e => (e.2, fun s => execMxLoadComplete lead e.1 [] s))
  let tiles := m.tiles.flatMap (fun e => e.2.map (fun op => (op, fun s => execMxTileComplete lead e.1 0 [] 0 s)))
  let combine := m.combine.toList.map (fun op => (op, fun s => execMxCombineComplete lead [] 0 s))
  let ops := (loads ++ tiles ++ combine).foldr (fun o l =>
    l.takeWhile (fun e => decide (e.1.n < o.1.n)) ++ o :: l.dropWhile (fun e => decide (e.1.n < o.1.n))) []
  (ops.foldl (fun (a : State × List (Nat × List Byte)) op =>
    match op.2 a.1 with
    | .next t => (t, a.2 ++ (a.1.mxRanges islet op.1).map (fun r => (r.1, t.spRead islet r.1 r.2)))
    | _ => a) (s, [])).2

/-- An array with nothing queued or running, idle for IDLE_GATE cycles, powers down; an IDLE_GATE of 0 never does (R132). -/
def execMxIdleGate (islet : Nat) (s : State) : Result :=
  if islet < 384 ∧ (s.islet islet).mx.idle = true ∧ s.fld .MX_GATE_CFG_IDLE_GATE islet ≠ 0 then
    ok (s.setFld .MX_STAT_GATED islet 0 1)
  else ok s

/-- A woken array powers up, and its waiting cycles are counted (R132, R432). -/
def State.mxWoken (s : State) (i : Nat) : State :=
  let s := match (s.islet i).mx.waking with
    | some c => s.satFld .MX_STALLS_WAKE_WAITS i 0 (s.count (islDie i) - c)
    | none => s
  (s.modMx i (fun m => { m with waking := none })).setFld .MX_STAT_GATED i 0 0

end Sys2Proof.Machine
end

