-- ==== Sys2Proof/Machine/Governor.lean ====
section
/-! DEFINITION. The power governor: wake-ups, DVFS points, reef limits, thermal capping; PLL relocks; the release of package-wide
actions at the gates (R22, R23, R264, R431-R435, R441, R468, R476). -/

namespace Sys2Proof.Machine

/-! ## Budgets (R431, R432) -/

/-- SLEW_BUDGET; values below 40 act as 40. -/
def State.slewBudget (s : State) : Nat := max 40 (s.fld .HBR_GOV_CFG_SLEW_BUDGET)

/-- WAKE_PER_WIN; 0 acts as 1. -/
def State.wakesPerWindow (s : State) : Nat := max 1 (s.fld .HBR_GOV_CFG_WAKE_PER_WIN)

/-- REEF_MAX: 32 to 48, the next lower multiple of 8. -/
def State.reefMax (s : State) : Nat := min 48 (max 32 (s.fld .HBR_GOV_CFG_REEF_MAX / 8 * 8))

/-- POINT_MAX of a die; values above 14 act as 14. -/
def State.pointMax (s : State) (die : Nat) : Nat := min 14 (s.fld .HBR_GOV_POINT_POINT_MAX die)

/-- The DVFS point of an isle island. -/
def State.point (s : State) (die : Nat) : Nat := s.fld .STR_ISLAND_CLK_POINT die

/-- Change the governor. -/
def State.modGov (s : State) (f : Gov → Gov) : State := { s with gov := f s.gov }

/-- The window that a count of island 16 belongs to: window w has the counts 4,000 w + 1 to 4,000 (w + 1). -/
def govWindow (count : Nat) : Nat := (count - 1) / 4000

/-- Wake-ups that a die has been granted in the current window. -/
def State.wakesGranted (s : State) (die : Nat) : Nat := if govWindow (s.count 16) = s.gov.window then storeGet 0 s.gov.wakes die else 0

/-- The charges in force on a die: each through the count it ends at. Log entry 50. -/
def State.chargeSum (s : State) (die : Nat) : Nat :=
  ((s.gov.charges.filter (fun c => c.1 == die && decide (s.count 16 ≤ c.2.2))).map (fun c => c.2.1)).sum

/-- Add a charge to a die from now for some counts. -/
def State.charge (s : State) (die amount counts : Nat) : State :=
  s.modGov (fun g => { g with charges := g.charges ++ [(die, amount, s.count 16 + counts)] })

/-! ## Reef limits (R264, R433) -/

/-- The stacks of a half. -/
def halfStacks (west : Bool) : List Nat := if west then [4, 5, 6, 7] else [0, 1, 2, 3]

/-- A raise of a die's point is queued or in progress. -/
def State.raiseWaits (s : State) (die : Nat) : Bool :=
  (storeGet [] s.gov.queues die).any (fun r => match r with
    | .raise _ => true
    | .wake _ => false) ||
  decide (s.point die < (storeGet (0, 0) s.gov.changes die).1)

/-- Set the limit of the stacks of a half. -/
def State.setLimits (s : State) (west : Bool) (n : Nat) : State := (halfStacks west).foldl (fun s k => s.setFld .REEF_STACK_STAT_LIMIT k 0 n) s

/-- The governor's step of 8 units on each stack of a half, with both isle islands at point 0 and no raise waiting. -/
def State.limitRaise (s : State) (west : Bool) : State :=
  if partReef s.pkg.part = true ∧ (halfDies west).all (fun d => s.point d == 0 && !s.raiseWaits d) = true then
    (halfStacks west).foldl (fun s k =>
      let n := s.fld .REEF_STACK_STAT_LIMIT k
      if n < s.reefMax then s.setFld .REEF_STACK_STAT_LIMIT k 0 (min (n + 8) s.reefMax) else s) s
  else s

/-- Before a half's point raise its stacks' limits go back to 32; the second part says that no more than 32 units compute in any
of them. Log entry 38. -/
def State.limitDrop (s : State) (west : Bool) : State × Bool :=
  if partReef s.pkg.part = false then (s, true) else
  let s := s.setLimits west 32
  (s, (halfStacks west).all (fun k => decide (s.fld .REEF_STACK_STAT_COMPUTING k ≤ 32)))

/-! ## DVFS changes (R23, R434, R468) -/

/-- A die's DVFS change is in progress: target point and phase. -/
def State.dvfsChange (s : State) (die : Nat) : Option (Nat × Nat) := (s.gov.changes.find? (fun e => e.1 == die)).map Prod.snd

/-- Drive a DVFS code on ISLE_PT. -/
def State.driveCode (s : State) (die p : Nat) : State := { s with pins := { s.pins with codes := storeSet 0 s.pins.codes die p } }

/-- A change of a die's point: its phase. -/
def State.setChange (s : State) (die p phase : Nat) : State := s.modGov (fun g => { g with changes := storeSet (0, 0) g.changes die (p, phase) })

/-- The island's PLL relocks: its strait sides stop handshaking (R23). -/
def State.relock (s : State) (die p : Nat) : State := (s.setFld .STR_ISLAND_CLK_RELOCK die 0 1).setChange die p 2

/-- The point that an island has once every change granted to it is done. Log entry 50. -/
def State.aimPoint (s : State) (die : Nat) : Nat :=
  let q := storeGet 15 s.gov.lowerNext die
  if q ≠ 15 then q else
  match s.dvfsChange die with
  | some (p, _) => p
  | none => s.point die

/-- A lowering is granted at once: the island relocks first; behind a change in progress it follows when that is done (R434, R468).
Log entry 50. -/
def State.lower (s : State) (die p : Nat) : State :=
  if s.aimPoint die ≤ p then s
  else if (s.dvfsChange die).isSome then s.modGov (fun g => { g with lowerNext := storeSet 15 g.lowerNext die p })
  else s.relock die p

/-- A raise of the half is in progress. -/
def State.halfRaises (s : State) (west : Bool) : Bool :=
  (halfDies west).any (fun d => match s.dvfsChange d with
    | some (p, _) => decide (s.point d < p)
    | none => false)

/-! ## The queues (R432) -/

/-- Grant the head of a die's queue while it can be granted. Log entry 50. -/
def State.govServe : Nat → State → Nat → State
  | 0, s, _ => s
  | fuel + 1, s, die =>
    let q := storeGet [] s.gov.queues die
    let pop (s : State) : State := (s.modGov (fun g => { g with queues := storeSet [] g.queues die q.tail })).govStat
    match q with
    | [] => s
    | .wake i :: _ =>
      if s.chargeSum die + 6 ≤ s.slewBudget ∧ s.wakesGranted die < s.wakesPerWindow then
        let w := govWindow (s.count 16)
        let wakes := if w = s.gov.window then s.gov.wakes else []
        let s := (pop s).modGov (fun g => { g with window := w, wakes := storeSet 0 wakes die (storeGet 0 wakes die + 1) })
        let s := ((s.charge die 6 750).addFld .HBR_GOV_STAT_GRANTS 0 0 1).mxWoken i
        State.govServe fuel s die
      else s
    | .raise p :: _ =>
      if s.fld .HBR_GOV_POINT_CAP die < p ∨ s.pointMax die < p then State.govServe fuel (pop s) die
      else if (s.dvfsChange die).isSome then s
      else if p ≤ s.point die then State.govServe fuel (pop s) die
      else if s.halfRaises (dieWest die) = true ∨ s.slewBudget < s.chargeSum die + 40 ∨ s.wakesPerWindow ≤ s.wakesGranted die then s
      else
        match s.limitDrop (dieWest die) with
        | (s, false) => s
        | (s, true) =>
          let s := ((pop s).charge die 40 20000).setChange die p 1
          State.govServe fuel (s.driveCode die p) die

/-- Examine a die's queue. Log entry 50. -/
def State.govExamine (s : State) (die : Nat) : State := State.govServe ((storeGet [] s.gov.queues die).length + 1) s die

/-- A request joins its die's queue, behind those accepted before it. Log entry 50. -/
def State.govPush (s : State) (die : Nat) (r : GovReq) : State :=
  ((s.modGov (fun g => { g with queues := storeSet [] g.queues die (storeGet [] g.queues die ++ [r]) })).govStat).govExamine die

/-- An islet's wake-up request is granted, or queued (R132, R432). -/
def execWakeRequest (islet : Nat) (s : State) : Result :=
  if islet < 384 ∧ (s.islet islet).mx.waking.isSome ∧ (storeGet [] s.gov.queues (islDie islet)).contains (.wake islet) = false ∧
      s.wayOpen (islDie islet) 16 = true then
    ok ((s.straitOffer (islDie islet) 16 2 1).govPush (islDie islet) (.wake islet))
  else ok s

/-- A die's controllers request a point: refused above POINT_MAX or CAP; a lowering is granted at once, a raise is queued (R434).
What the request is goes by the point that the changes granted before lead to. Log entry 50. -/
def State.dvfsRequest (s : State) (die point : Nat) : State :=
  if s.pointMax die < point ∨ s.fld .HBR_GOV_POINT_CAP die < point ∨ point = s.aimPoint die then s
  else if point < s.aimPoint die then s.lower die point
  else s.govPush die (.raise point)

/-- A DVFS request: of one isle island's controllers (dies 0-3), or, as 4 and 5, of the leader of the east and west half for both
its islands, a package-wide action (R434, R437). A die without its harbour reaches neither the governor nor a gate (R37, R442).
Log entry 49. -/
def execDvfsRequest (die point : Nat) (s : State) : Result :=
  if 14 < point ∨ s.pins.tripped = true then ok s
  else if die < 4 then
    (if s.restarting.contains die ∨ s.wayOpen die 16 = false then ok s else ok ((s.straitOffer die 16 2 1).dvfsRequest die point))
  else if die < 6 then
    let west := die = 5
    let l := s.lead.leader west
    if 4 ≤ l ∨ s.heldEpoch l = 0 ∨ s.wayOpen l 16 = false then ok s
    else ok (s.issueAction (.power west point) l (s.heldEpoch l) (halfDies west)).1
  else ok s

/-- An admission window opens: queued requests are examined, and the reef limits of a half whose conditions hold rise a step (R431,
R433). Log entry 50. -/
def execGovWindowStart (s : State) : Result :=
  if s.pins.tripped then ok s else
  let now := govWindow (s.count 16)
  let s := if s.gov.window < now then s else s.setCount 16 (max (s.count 16) (4000 * (s.gov.window + 1) + 1))
  let s := s.modGov (fun g => { g with window := govWindow (s.count 16), wakes := [] })
  let s := [0, 1, 2, 3].foldl (fun s d => s.govExamine d) s
  ok ((s.limitRaise false).limitRaise true)

/-- The first charge of a die to end has ended: the die's queue is examined (R432). -/
def execChargeEnd (die : Nat) (s : State) : Result :=
  match (s.gov.charges.filter (fun c => c.1 == die)).map (fun c => c.2.2) with
  | [] => ok s
  | e :: rest =>
    let last := rest.foldl min e
    let s := s.reachCount 16 last
    let s := s.modGov (fun g => { g with charges := g.charges.filter (fun c => !(c.1 == die && decide (c.2.2 ≤ last))) })
    ok (s.govExamine die)

/-- A write of HBR_GOV_CFG: a lowered REEF_MAX lowers the limits above it at once (R264). -/
def State.writeGovCfg (s : State) (fn : Nat) (w : Word) : State :=
  if fn ≠ 0 ∨ s.ready = false then s else
  let s := s.writeReg .HBR_GOV_CFG 0 0 w
  if partReef s.pkg.part then
    (List.range 8).foldl (fun s k => s.setFld .REEF_STACK_STAT_LIMIT k 0 (min (s.fld .REEF_STACK_STAT_LIMIT k) s.reefMax)) s
  else s

/-- A write of HBR_GOV_CFG (R264). -/
def execGovCfgWrite (fn : Nat) (w : Word) (s : State) : Result := ok (s.writeGovCfg fn w)

/-- 5 µs after the code of a raise was driven, the island relocks at the higher clock (R468). -/
def execDvfsVoltageSettled (die : Nat) (s : State) : Result :=
  match s.dvfsChange die with
  | some (p, 1) => ok (s.relock die p)
  | _ => ok s

/-- A lowering that waited for the change before it starts. -/
def State.lowersNext (s : State) (die : Nat) : State :=
  let q := storeGet 15 s.gov.lowerNext die
  let s := s.modGov (fun g => { g with lowerNext := storeSet 15 g.lowerNext die 15 })
  if q < s.point die then s.relock die q else s

/-- An island's PLL has relocked: its point and clock are those of the change, and its strait sides handshake again, so that an
isle die takes what stands there; the code of a lowering is driven now; a lowering granted meanwhile follows (R23, R434, R435,
R468). -/
def execPllRelockDone (island : Nat) (s : State) : Result :=
  if s.relocking island = false then ok s else
  let s := s.setFld .STR_ISLAND_CLK_RELOCK island 0 0
  match s.dvfsChange island with
  | some (p, 2) =>
    let s := s.modGov (fun g => { g with changes := storeErase g.changes island })
    let s := ((s.setFld .STR_ISLAND_CLK_POINT island 0 p).setFld .STR_ISLAND_CLK_FREQ_MHZ island 0 (600 + 50 * p)).driveCode island p
    (s.lowersNext island).dieTakes island
  | _ => s.dieTakes island

/-! ## Temperatures (R435, R476) -/

/-- A thermal trip: THERMTRIP_N goes low and the PLLs of every island but 16 stop, so the ports are DOWN (R476, R484). Log
entry 51. -/
def State.thermalTrip (s : State) : State :=
  let t := s.portsStop
  { t with pins := { t.pins with tripped := true } }

/-- A die's temperature against THROTTLE_C: an episode of capping begins, or turns to raising CAP (R435). -/
def State.capCheck (s : State) (die : Nat) : State :=
  let t := s.fld .HBR_TEMP_TEMP_C die
  let limit := s.fld .HBR_GOV_POINT_THROTTLE_C die
  let mode := storeGet 0 s.gov.capMode die
  let set (m : Nat) : State := s.modGov (fun g => { g with capMode := storeSet 0 g.capMode die m, capAt := storeSet 0 g.capAt die (s.count 16) })
  if limit ≤ t ∧ (mode = 0 ∨ mode = 3) then set 1
  else if t + 5 < limit ∧ (mode = 1 ∨ mode = 2) then set 3
  else s

/-- The refresh interval of a stack at a DRAM temperature: 0 32 ms, 1 16 ms, 2 8 ms (R223). Log entry 50. -/
def refreshRate (t : Nat) : Nat := if t ≤ 85 then 0 else if t ≤ 95 then 1 else 2

/-- The sensors of that many islands report in TC3 (R28, R476). Log entry 62. -/
def State.tempTraffic (s : State) (n : Nat) : State := (List.range (min 18 n)).foldl (fun s i => s.straitOffer i 16 3 1) s

/-- HBR_TEMP shows each island's temperature, and the highest since reset (R435). -/
def State.writeTemps (s : State) (temps : List Nat) : State :=
  temps.zipIdx.foldl (fun s t =>
    if t.2 < 18 then
      (s.setFld .HBR_TEMP_TEMP_C t.2 0 (min 255 t.1)).setFld .HBR_TEMP_MAX_C t.2 0 (max (s.fld .HBR_TEMP_MAX_C t.2) (min 255 t.1))
    else s) s

/-- MEM_STACK_STAT shows each stack's DRAM temperature and the refresh rate it asks for (R223, R247). -/
def State.writeDram (s : State) (dram : List Nat) : State :=
  dram.zipIdx.foldl (fun s t =>
    if t.2 < 8 then (s.setFld .MEM_STACK_STAT_TEMP_C t.2 0 (min 255 t.1)).setFld .MEM_STACK_STAT_REFRESH t.2 0 (refreshRate t.1) else s) s

/-- The event of a numeric sensor whose reading has crossed its threshold: above is upper warning (8), else normal (1), in the
numbers of DSP0248. Log entries 27 and 52. -/
def sensorEvent (id limit old now : Nat) : List (List Byte) :=
  let st (x : Nat) : Nat := if limit ≤ x then 8 else 1
  if st old = st now then []
  else [leBytes 2 id ++ leBytes 1 2 ++ leBytes 1 (st now) ++ leBytes 1 (st old) ++ leBytes 1 0 ++ leBytes 1 now]

/-- The sensors whose readings have crossed a threshold send a PLDM event message each (R462): an isle die's THROTTLE_C, for the
other islands the trip of R476; for DRAM the temperature above which its refresh is shorter (R223). Log entry 52. -/
def State.crossings (s old : State) : State :=
  let limit (i : Nat) : Nat := if i < 4 then s.fld .HBR_GOV_POINT_THROTTLE_C i else 125
  let temps := (List.range 18).flatMap (fun i => sensorEvent (1 + i) (limit i) (old.fld .HBR_TEMP_TEMP_C i) (s.fld .HBR_TEMP_TEMP_C i))
  let drams := (List.range 8).flatMap (fun k =>
    sensorEvent (19 + k) 86 (old.fld .MEM_STACK_STAT_TEMP_C k) (s.fld .MEM_STACK_STAT_TEMP_C k))
  (temps ++ drams).foldl (fun s e => s.pldmSend 0 e) s

/-- The temperatures of the 18 islands and the 8 stacks' DRAM are sampled and sent to the harbour in TC3 (R28, R435, R476). Log
entries 12, 50 and 62. -/
def execTempSample (temps dram : List Nat) (s : State) : Result :=
  if s.pins.tripped then ok s else
  let old := s
  let s := (((s.tempTraffic temps.length).writeTemps temps).writeDram dram).crossings old
  if (temps.take 18).any (fun t => decide (125 ≤ t)) ∨ (dram.take 8).any (fun t => decide (110 ≤ t)) then ok s.thermalTrip
  else ok ([0, 1, 2, 3].foldl (fun s d => s.capCheck d) s)

/-- A step of a die's thermal cap: down by one point every 1 ms, the first of an episode raising HBR_EVT.THERMAL, the island
lowered to CAP where it stands above; up by one every 10 ms, to POINT_MAX (R435). -/
def execThermalCapStep (die : Nat) (s : State) : Result :=
  let mode := storeGet 0 s.gov.capMode die
  let at_ := storeGet 0 s.gov.capAt die
  let cap := s.fld .HBR_GOV_POINT_CAP die
  if ¬ die < 4 ∨ mode = 0 ∨ s.pins.tripped = true then ok s
  else
    let s := s.reachCount 16 (at_ + (if mode = 3 then 10000000 else 1000000))
    let s := s.modGov (fun g => { g with capAt := storeSet 0 g.capAt die (s.count 16) })
    if mode = 3 then
      let top := s.pointMax die
      let s := if cap < top then s.setFld .HBR_GOV_POINT_CAP die 0 (cap + 1) else s
      ok (if top ≤ cap + 1 then s.modGov (fun g => { g with capMode := storeSet 0 g.capMode die 0 }) else s)
    else
      let s := s.setFld .HBR_GOV_POINT_CAP die 0 (cap - 1)
      let s := s.modGov (fun g => { g with capMode := storeSet 0 g.capMode die 2 })
      let s := if mode = 1 then
          let s := s.journal 0x56 (leBytes 1 die ++ leBytes 1 (s.fld .HBR_TEMP_TEMP_C die) ++ leBytes 1 (cap - 1))
          s.hbrEvent .HBR_EVT_THERMAL
        else s
      ok (s.lower die (cap - 1))

/-! ## The release of an action (R441) -/

/-- Every gate has released an action: it takes effect on its dies; a half's power change goes to the governor. -/
def State.actionReleased (s : State) (n : Nat) (a : Action) : State :=
  match a.kind with
  | .power west point => ((halfDies west).foldl (fun s d => s.dvfsRequest d point) s).dropAction n
  | _ => s.actionTakes n a

/-- A gate releases the action it holds to its die, on the issuer's GO, inside its 20 µs (R441, R445). -/
def execGateGo (act gate : Nat) (s : State) : Result :=
  match s.action act with
  | none => ok s
  | some a =>
    if a.phase ≠ 1 ∨ a.holding.any (fun h => h.1 == gate && s.inWindow 16 (gateClose h.2)) = false ∨ s.wayOpen a.src gate = false then ok s
    else
      let s := s.modAction act (fun a => { a with holding := storeErase a.holding gate })
      let rest := storeErase a.holding gate
      ok (if rest = [] then s.actionReleased act a else s)

end Sys2Proof.Machine
end

