-- ==== Sys2Proof/Machine/Journal.lean ====
section
/-! DEFINITION. The journal store: records, commits, compaction, replay (R455-R460). -/

namespace Sys2Proof.Machine

/-- The bytes that a record takes: header, payload, padding, check (R456). -/
def recordBytes (r : JournalRecord) : Nat := 16 + (r.payload.length + 15) / 16 * 16 + 16

/-- A record as it stands in a segment: header, payload, padding, and the check over all of them (R456). A record whose check fails
is torn (R459). -/
def JournalRecord.bytes (r : JournalRecord) : List Byte :=
  let body := leBytes 8 r.seq ++ leBytes 2 r.type ++ leBytes 2 0 ++ leBytes 4 r.payload.length ++ r.payload ++
    List.replicate ((r.payload.length + 15) / 16 * 16 - r.payload.length) 0
  body ++ shake256 16 body

/-- The bytes of a segment, and of its first page (R455). -/
def segmentBytes : Nat := 4194304
def segmentHead : Nat := 4096

/-- Where segment `i` stands: its die, and the first of its 16 blocks (R455). -/
def segmentPlace (i : Nat) : Nat × Nat := (i % 2, 1024 + 16 * (i / 2))

/-- The first page of a segment: its number, its erase count and the SEQ of its first record (R455). Log entry 53. -/
def JnlSegment.head (g : JnlSegment) (i : Nat) : List Byte := leBytes 8 i ++ leBytes 8 g.erases ++ leBytes 8 g.first

/-- A segment of the log. -/
def Journal.segment (j : Journal) (i : Nat) : JnlSegment := storeGet {} j.segments i

/-- Change a segment. -/
def Journal.setSegment (j : Journal) (i : Nat) (g : JnlSegment) : Journal := { j with segments := storeSet {} j.segments i g }

/-- Free segments among the 384 (HBR_JNL_STAT.FREE). -/
def Journal.free (j : Journal) : Nat := ((List.range 384).filter (fun i => (j.segment i).kind == .free)).length

/-- The next free segment, going round from the current one. Log entry 53. -/
def Journal.nextFree (j : Journal) : Option Nat :=
  ((List.range 384).map (fun k => (j.current + 1 + k) % 384)).find? (fun i => (j.segment i).kind == .free)

/-- A free segment is opened for records from a SEQ on. -/
def Journal.opened (j : Journal) (i : Nat) (kind : SegmentKind) (seq : Nat) : Journal :=
  j.setSegment i { j.segment i with kind := kind, first := seq, used := segmentHead }

/-- HBR_JNL_STAT shows the log written since the base, and the free segments. -/
def State.jnlStat (s : State) : State :=
  (s.setFld .HBR_JNL_STAT_SINCE_BASE_KIB 0 0 (min (s.jnl.since / 4096) 32767)).setFld .HBR_JNL_STAT_FREE 0 0 s.jnl.free

/-- Change the journal store. -/
def State.modJnl (s : State) (f : Journal → Journal) : State := { s with jnl := f s.jnl }

/-- The log goes on in the next free segment, whose first record has a SEQ; none where no segment is free. -/
def State.nextSegment (s : State) (seq : Nat) : Option State :=
  match s.jnl.nextFree with
  | none => none
  | some i => some ((s.modJnl (fun j => { j.opened i .log seq with current := i })).jnlStat)

/-- A compaction starts unless one runs (R458 step 1). -/
def State.startCompaction (s : State) : State :=
  if s.fld .HBR_JNL_STAT_COMPACTING = 1 then s else
  let q := (s.reg .HBR_JNL_SEQ).toNat
  let s := (s.setFld .HBR_JNL_STAT_COMPACTING 0 0 1).modJnl (fun j => { j with begun := some q, sinceBegin := 0 })
  s.journal 1 (leBytes 8 q)

/-- A committed FW_STAGED record puts its image into its slot (R451, R452). Log entry 55. -/
def State.fwCommits (s : State) (r : JournalRecord) : State :=
  match s.fw.coming.find? (fun e => e.1 == r.seq) with
  | none => s
  | some (_, x) =>
    { s with fw := { s.fw with coming := storeErase s.fw.coming r.seq
                               images := storeInsert x.slot x.bytes s.fw.images
                               meas := storeInsert x.slot (shake256 64 x.bytes) s.fw.meas
                               svns := storeInsert x.slot (bytesAt x.bytes 5 1) s.fw.svns } }

/-- A record that has found room in the current segment joins the committed log (R456, R457). -/
def Journal.append (j : Journal) (r : JournalRecord) : Journal :=
  let n := recordBytes r
  let g := j.segment j.current
  let j := j.setSegment j.current { g with used := g.used + n }
  { j with log := j.log ++ [r], since := j.since + n, sinceBegin := j.sinceBegin + (if j.begun.isSome then n else 0),
           begunIn := if r.type = 1 then j.current else j.begunIn }

/-- A record joins the committed log. It never crosses a segment (R456, R457). Log entry 53. -/
def State.appendRecord (s : State) (r : JournalRecord) : Option State :=
  match (if (s.jnl.segment s.jnl.current).used + recordBytes r ≤ segmentBytes then some s else s.nextSegment r.seq) with
  | none => none
  | some s =>
    let s := ((s.modJnl (fun j => j.append r)).jnlStat).fwCommits r
    some (if 25165824 ≤ s.jnl.since then s.startCompaction else s)

/-- The first waiting record is committed; it waits while no segment is free. After a thermal trip nothing is committed (R476).
Log entry 53. -/
def State.commitNext (s : State) : State :=
  match s.jqueue with
  | [] => s
  | r :: rest => if s.pins.tripped then s else (({ s with jqueue := rest } : State).appendRecord r).getD s

/-- Every waiting record is committed, in order of SEQ. -/
def State.commitAll (s : State) : State := s.jqueue.foldl (fun s _ => s.commitNext) s

/-- A block fails to program: its segment is retired and counted, what it holds stays readable, and the log goes on in the next free
segment (R455). Log entry 53. -/
def State.retireSegment (s : State) : State :=
  let old := s.jnl.current
  match s.nextSegment (s.reg .HBR_JNL_SEQ).toNat with
  | none => s
  | some s =>
    let s := s.modJnl (fun j => j.setSegment old { j.segment old with kind := .retired })
    (s.satFld .HBR_JNL_STAT_RETIRED 0 0 1).hbrEvent .HBR_EVT_JOURNAL

/-- A record's last page is programmed (R457). With a failing block, its segment is retired first. After a thermal trip nothing
is committed (R476). -/
def execJournalCommit (badBlock : Bool) (s : State) : Result :=
  if s.jqueue = [] ∨ s.pins.tripped = true ∨ s.heldInReset = true then ok s else ok ((if badBlock then s.retireSegment else s).commitNext)

/-- A write of HBR_JNL_CTL by function 0 (R458). -/
def State.writeJnlCtl (s : State) (fn : Nat) (w : Word) : State :=
  if fn = 0 ∧ s.fld .HBR_STAT_STATE = 1 ∧ bit w.toNat 0 then s.startCompaction else s

/-- A write of HBR_JNL_CTL.COMPACT (R458). -/
def execJournalCompact (fn : Nat) (w : Word) (s : State) : Result := ok (s.writeJnlCtl fn w)

/-- What a record is about: records of one subject supersede each other (R460). Log entry 53. -/
def JournalRecord.subject (r : JournalRecord) : Nat × List Byte :=
  (r.type, match r.type with
    | 0x20 => r.payload.take 1
    | 0x21 => r.payload.take 1
    | 0x51 => r.payload.drop 1
    | 0x52 => r.payload.take 1
    | 0x53 => r.payload.take 1
    | 0x55 => r.payload.take 1
    | 0x56 => r.payload.take 1
    | 0x60 => r.payload.take 1
    | _ => [])

/-- How many records of a type the base keeps; types without a number keep the latest of each subject (R460). -/
def baseKeeps : Nat → Option Nat
  | 0x50 => some 1048576
  | 0x40 => some 16384
  | 0x70 => some 65536
  | _ => none

/-- Firmware state that records tell, as staged mask, components active in slot B, last trial, trial without an outcome
(R451-R454). -/
structure FwReplay where
  staged : Nat := 0
  activeB : Nat := 0
  last : Nat := 0
  trial : Nat := 0
  deriving DecidableEq, Repr

/-- A record's part in the firmware state. The firmware item of a base, of type 3, carries all of it. -/
def FwReplay.take (f : FwReplay) (r : JournalRecord) : FwReplay :=
  let m := bytesAt r.payload 0 1
  match r.type with
  | 3 => { staged := m, activeB := bytesAt r.payload 1 1, last := bytesAt r.payload 2 1, trial := bytesAt r.payload 3 1 }
  | 0x30 => { f with staged := f.staged ||| m }
  | 0x31 => { staged := 0, activeB := f.activeB ^^^ m, last := 1, trial := 0 }
  | 0x32 => { f with staged := 0, last := 2, trial := 0 }
  | 0x33 => { f with staged := 0 }
  | 0x34 => { f with trial := m }
  | _ => f

/-- A BASE_DATA record holds one live item: SEQ, type and payload of the record that it stands for (R456, R458). Log entry 53. -/
def JournalRecord.inBase (r : JournalRecord) (seq : Nat) : JournalRecord :=
  { seq := seq, type := 3, payload := leBytes 8 r.seq ++ leBytes 2 r.type ++ r.payload }

/-- What a record of the log tells: a BASE_DATA record its item, any other itself. -/
def JournalRecord.item (r : JournalRecord) : JournalRecord :=
  if r.type = 3 then { seq := bytesAt r.payload 0 8, type := bytesAt r.payload 8 2, payload := r.payload.drop 10 } else r

/-- The items of the committed log, in the order in which a replay meets them. -/
def Journal.items (j : Journal) : List JournalRecord := j.log.map JournalRecord.item

/-- The firmware state that a replay finds (R459). -/
def Journal.fw (j : Journal) : FwReplay := j.items.foldl FwReplay.take {}

/-- The firmware state as an item of a base. -/
def FwReplay.toItem (f : FwReplay) (seq : Nat) : JournalRecord :=
  { seq := seq, type := 3, payload := leBytes 1 f.staged ++ leBytes 1 f.activeB ++ leBytes 1 f.last ++ leBytes 1 f.trial }

/-- The newest `n` records of a type. -/
def newest (n : Nat) (rs : List JournalRecord) : List JournalRecord := rs.drop (rs.length - n)

/-- The items that a base keeps of those before it; firmware records fold into one (R458, R460). Log entry 53. -/
def baseItems (rs : List JournalRecord) : List JournalRecord :=
  rs.filter (fun r =>
    match baseKeeps r.type with
    | some n => (newest n (rs.filter (fun x => x.type == r.type))).contains r
    | none => !(decide (r.type ≤ 3) || (decide (0x30 ≤ r.type) && decide (r.type ≤ 0x34))) &&
        !rs.any (fun x => x.subject == r.subject && decide (r.seq < x.seq)))

/-- A record of a base is written: into the base's last segment, or a free one; the base's segments are kept in order. -/
def Journal.putBase (j : Journal) (segs : List Nat) (r : JournalRecord) : Option (Journal × List Nat) :=
  let n := recordBytes r
  let last := segs.getLastD 384
  let g := j.segment last
  if segs ≠ [] ∧ g.used + n ≤ segmentBytes then some (j.setSegment last { g with used := g.used + n }, segs)
  else match j.nextFree with
    | none => none
    | some i =>
      let j := j.opened i .base r.seq
      some (j.setSegment i { j.segment i with used := segmentHead + n }, segs ++ [i])

/-- The records of a base are written, each into a segment; none where no segment is free (R458 step 2). -/
def Journal.putAll : Journal → List Nat → List JournalRecord → Option (Journal × List Nat)
  | j, segs, [] => some (j, segs)
  | j, segs, r :: rest =>
    match j.putBase segs r with
    | none => none
    | some (j, segs) => Journal.putAll j segs rest

/-- A segment is erased: its count rises, and it is free, or retired where a block of it fails to erase or it was retired before.
Log entry 53. -/
def JnlSegment.erased (g : JnlSegment) (fails : Bool) : JnlSegment :=
  { kind := if fails || g.kind == .retired then .retired else .free, erases := g.erases + 1 }

/-- The segments that a new base makes useless: those written before the first log segment after it, but for its own (R458 step 4).
Log entry 53. -/
def Journal.useless (j : Journal) (segs : List Nat) : List Nat :=
  (List.range 384).filter (fun i =>
    let g := j.segment i
    g.kind != .free && g.used != 0 && !segs.contains i && i != j.begunIn && decide (g.first < (j.segment j.begunIn).first))

/-- The base of a compaction whose BASE_BEGIN has a SEQ: the items before it that are kept, and the firmware state, as BASE_DATA
records from NEXT_SEQ on (R458 step 2). Log entry 53. -/
def State.baseRecords (s : State) (q : Nat) : List JournalRecord :=
  let before := (s.jnl.log.filter (fun r => decide (r.seq < q))).map JournalRecord.item
  let fw := before.foldl FwReplay.take ({} : FwReplay)
  (baseItems before ++ [fw.toItem q]).zipIdx.map (fun e => e.1.inBase ((s.reg .HBR_JNL_SEQ).toNat + e.2))

/-- Items before a base that it does not keep, of the types that keep a number of them (R460). -/
def State.baseDropped (s : State) (q : Nat) : Nat :=
  let before := (s.jnl.log.filter (fun r => decide (r.seq < q))).map JournalRecord.item
  let kept := baseItems before
  (before.filter (fun r => (baseKeeps r.type).isSome && !kept.contains r)).length

/-- A base stands in its segments: the log is the base and what came after BASE_BEGIN; BASE_COMMIT, with the base's first and last
segment and the first log segment after it, is committed (R456, R458 step 3). -/
def State.baseCommits (s : State) (q : Nat) (j : Journal) (segs : List Nat) (base : List JournalRecord) : State :=
  let s := (s.modJnl (fun _ => { j with log := base ++ j.log.filter (fun r => decide (q ≤ r.seq)), begun := none, since := j.sinceBegin,
                                        sinceBegin := 0 })).addFld .HBR_JNL_SEQ_NEXT_SEQ 0 0 base.length
  let s := s.setFld .HBR_JNL_STAT_COMPACTING 0 0 0
  (s.journal 2 (leBytes 2 (segs.headD 0) ++ leBytes 2 (segs.getLastD 0) ++ leBytes 2 s.jnl.begunIn)).commitAll

/-- The segments before the base's first log segment are erased; in which of them a block fails is a free value (R455, R458 step
4; log entry 53). -/
def State.baseFrees (s : State) (segs : List Nat) : State :=
  let gone := s.jnl.useless segs
  let fails (i : Nat) : Bool := bit s.free i
  let bad := (gone.filter (fun i => fails i && (s.jnl.segment i).kind != .retired)).length
  let s := s.drawn.modJnl (fun j => gone.foldl (fun j i => j.setSegment i ((j.segment i).erased (fails i))) j)
  (if bad = 0 then s else (s.satFld .HBR_JNL_STAT_RETIRED 0 0 bad).hbrEvent .HBR_EVT_JOURNAL).jnlStat

/-- A compaction ends: what waits is committed, the base is written, BASE_COMMIT follows, old segments are free; it waits while no
segment is free for the base (R458, R460). Log entry 53. -/
def State.compacted (s : State) (q : Nat) : State :=
  let s := s.commitAll
  let base := s.baseRecords q
  match s.jnl.putAll [] base with
  | none => s
  | some (j, segs) =>
    let dropped := s.baseDropped q
    let s := (s.baseCommits q j segs base).baseFrees segs
    if dropped = 0 then s else (s.satFld .HBR_JNL_STAT_DROPPED 0 0 dropped).hbrEvent .HBR_EVT_JOURNAL

/-- The base is written and its BASE_COMMIT committed: old segments are free (R458, R460). After a thermal trip nothing is committed
(R476). -/
def execJournalCompactionDone (s : State) : Result :=
  match s.jnl.begun with
  | none => ok s
  | some q =>
    if s.pins.tripped = true ∨ s.heldInReset = true ∨ s.jqueue.any (fun r => decide (r.seq ≤ q)) then ok s else
    ok (s.compacted q)

/-- A record is journaled and committed at once, as boot and shut-down wait for it. -/
def State.journalNow (s : State) (type : Nat) (payload : List Byte) : State := (s.journal type payload).commitAll

/-- Replay at a boot: what was not committed is gone, the torn tail of a record half programmed is discarded, the log goes on
in a fresh segment and a compaction that had no commit is forgotten (R452, R458, R459). Whether a tail was torn is left open
where a record waited (log entry 8). -/
def State.replayJournal (s : State) : State :=
  let torn := if s.jqueue = [] then 0 else s.free % 2
  let s := if s.jqueue = [] then s else s.drawn
  let next := (s.jnl.log.map (fun r => r.seq + 1)).foldl max 0
  let s := ({ s with jqueue := [] } : State).modJnl (fun j => { j with begun := none, sinceBegin := 0 })
  let s := (s.setReg .HBR_JNL_SEQ 0 0 (BitVec.ofNat 64 next)).setFld .HBR_JNL_STAT_TORN 0 0 torn
  let s := s.setFld .HBR_JNL_STAT_COMPACTING 0 0 0
  (s.nextSegment next).getD s

end Sys2Proof.Machine
end

