-- ==== Sys2Proof/Machine/Place.lean ====
section
/-! DEFINITION. Which register stands at an offset of the control window. -/

namespace Sys2Proof.Machine

/-- The indices that an offset has in a register's place. -/
def RegPlace.index (p : RegPlace) (off : Nat) : Option (Nat × Nat) :=
  if off < p.base then none else
  let d := off - p.base
  let a := if p.strideA = 0 then 0 else d / p.strideA
  let d := if p.strideA = 0 then d else d % p.strideA
  let b := if p.strideB = 0 then 0 else d / p.strideB
  let d := if p.strideB = 0 then d else d % p.strideB
  if a < p.countA ∧ b < p.countB ∧ d = 0 then some (a, b) else none

/-- The register at an offset, with its indices; none where the offset is reserved. Slot 0 of the management slots is
reserved: functions 1-8 have one. -/
def regAt (off : Nat) : Option (Reg × Nat × Nat) :=
  Reg.all.findSome? (fun r => (r.place.index off).bind (fun i =>
    if r.place.base / 4096 = 0x901 ∧ i.1 = 0 then none else some (r, i.1, i.2)))

/-- Registers that a function has for itself. -/
def fnRegs : List Reg := Reg.all.filter (fun r => r.place.perFn)

/-- Registers of islets, of the reef units of stacks, and of job contexts. -/
def isletRegs : List Reg := Reg.all.filter (fun r => decide (0x100000 ≤ r.place.base) && decide (r.place.base < 0x400000))
def reefRegs : List Reg := Reg.all.filter (fun r => decide (0x500000 ≤ r.place.base) && decide (r.place.base < 0x600000))
def jobRegs : List Reg := Reg.all.filter (fun r => decide (0x701000 ≤ r.place.base) && decide (r.place.base < 0x780000))

end Sys2Proof.Machine
end

