-- ==== Sys2Proof/Machine/StraitFail.lean ====
section
/-! DEFINITION. Straits that fail, and the arrival of a strait unit (R27, R34-R38, R442). -/

namespace Sys2Proof.Machine

/-- The way between two islands leads over a strait. Log entry 18. -/
def wayHas (n a b : Nat) : Bool := (islandRoute a b).contains n

/-- The islands that a function's work moves data between: its islets' dies, its stacks, the capes of its ports. -/
def State.workIslands (s : State) (fn : Nat) : List Nat :=
  ((setBits (s.atollsOf fn) 24).map (· / 6) ++ (setBits (s.stacksOf fn) 8).map (4 + ·) ++ (setBits (s.portsOf fn) 24).map capeIsland).eraseDups

/-- A function's data is routed over a strait. Log entry 18. -/
def State.workUses (s : State) (fn n : Nat) : Bool :=
  let is := s.workIslands fn
  is.any (fun a => is.any (fun b => wayHas n a b))

/-- A launch's islets, parameters and halts are routed over a strait. Log entry 18. -/
def launchUses (l : Launch) (n : Nat) : Bool :=
  let dies := ((setBits (entryAtolls l.entry) 24).map (· / 6)).eraseDups
  dies.any (fun a => dies.any (fun b => wayHas n a b))

/-- The words of a plan that are on their way: reads outstanding; of a plan that writes memory, those not yet taken (R91). -/
def planWays (p : Plan) (r : CopyRun) : List Nat := if p.kind = 1 then (List.range p.words).drop r.next else r.out

/-- A plan of an islet moves data of device memory over a strait: it ends, and its islet's launch with it (R36). -/
def State.planStrait (s : State) (i e n : Nat) : State :=
  let x := s.islet i
  match (x.engine e).run with
  | none => s
  | some r =>
    match s.planAt i r.plan with
    | none => s
    | some p =>
      let crosses := (planWays p r).any (fun k => match s.pageAt (s.isletFn i) (p.memAt k) with
        | some pg => wayHas n (islDie i) (frameIsland pg.frame)
        | none => false)
      if p.kind ≠ 2 ∧ crosses then s.planFails i e .aborted else s

/-- An optimiser decides, updates or recovers (R362). -/
def State.optWorks (s : State) (fn : Nat) : Bool :=
  [optNorm, optUpdating, optRecovering].contains (s.optState fn) || (s.fnState fn).optim.recovering || (s.fnState fn).optim.adopting.isSome

/-- A load reads its source over a strait: from the stacks or the mainland that hold it, or from the adapter's cape (R47, R52,
R67). -/
def State.sourceUses (s : State) (fn n : Nat) : Bool :=
  let l := s.load fn
  let check := s.loadState fn == loadCheckState
  let stage := s.loadState fn == loadStage && s.staging.head? == some fn && s.stagingBusy
  let len := if check then 4096 else imgLength l.header
  (check || stage) &&
  (if l.host then wayHas n 16 (capeIsland s.adapterPort)
   else (pagePieces (len / 65536 + 2) l.src len).any (fun p => (s.pageAt fn p.1).any (fun pg => (memWay 16 (frameIsland pg.frame)).contains n)))

/-- A rotation whose action is under way has a word for a die on a harbour strait, or its key goes over strait 34 (R36, R413). Log
entry 47. -/
def State.rotationUses (s : State) (fn n : Nat) : Bool :=
  match storeGet 0 s.rotations fn with
  | 2 => s.actions.any (fun e => e.2.kind == .rotate fn && e.2.dies.any (fun d => n == harbourStrait d))
  | 3 => n == harbourStrait 17
  | _ => false

/-- The islets that sent channel units which stand in a strait, or have it before them (R36). -/
def State.cargoSenders (s : State) (n : Nat) : List Nat :=
  (s.lanes.flatMap (fun e =>
    let m := e.1 / 8
    (e.2.units.filter (fun u => m == n || wayHas n (straitWriter m (e.1 / 4 % 2 == 1)) u.dst)).filterMap
      (fun u => u.cargo.map (fun c => c.unit.src)))).eraseDups

/-- A strait enters FAILED: its bit, its event and record; every operation routed over it ends ABORTED, a training step or a
recovery that loses it is interrupted; flits that have it before them are discarded; a harbour strait takes its die's gate and
lead away (R36, R37, R436, R442). Log entries 18 and 62. -/
def State.straitFail (s : State) (n : Nat) : State :=
  let s := s.setFld .STR_STAT_STATE n 0 3
  let s := (s.setFld .STR_FAIL_MAP_FAILED 0 0 (putBit (s.fld .STR_FAIL_MAP_FAILED) n true)).setFld .STR_EVT_FAIL_EVT 0 0 1
  let s := s.hbrEvent .HBR_EVT_STRAIT
  let s := s.journal 0x52 (leBytes 1 n ++ leBytes 2 (s.fld .STR_ERR_LAST_SYNDROME n))
  let s := if 18 ≤ n ∧ n < 22 then
      (s.modLead (fun l => { l with gateEpoch := storeSet 0 l.gateEpoch (n - 18) 0 })).leaderLost (n - 18)
    else s
  let s := [1, 2, 3, 4, 5, 6, 7, 8].foldl (fun s fn =>
    let s := if (s.fnState fn).step.isSome ∧ s.workUses fn n then s.stepKill fn .aborted else s
    let s := if (s.fnState fn).step.isNone ∧ s.optWorks fn = true ∧ s.workUses fn n then s.optStop fn .aborted else s
    let mig := (s.fnState fn).mig.run.isSome && (setBits (s.stacksOf fn) 8).any (fun k => wayHas n 17 (4 + k))
    let ingest := (s.fnState fn).mig.run.any (fun (r : MigRun) => migOp r.req == 5) && wayHas n s.adapterCape 17
    let s : State := if mig || ingest then s.migStop fn .aborted else s
    let k := s.loadState fn
    let source := s.sourceUses fn n
    let target := decide (loadQuiesce ≤ k) && ((s.loadDies fn).any (fun d => wayHas n 16 d) ||
      (s.loadDies fn).any (fun a => (s.loadDies fn).any (fun b => wayHas n a b)))
    let s := if s.loading fn ∧ (source ∨ target) then s.loadFault fn .aborted else s
    if s.rotationUses fn n then (s.rotationEnds fn).setFld .SEC_KEY_STAT_LAST_STATUS fn 0 (statusCode .aborted) else s) s
  let lids := (s.launches.filter (fun e => launchUses e.2 n)).map Prod.fst
  let s := lids.foldl (fun s lid => s.launchStop lid .aborted) s
  let s := s.islets.foldl (fun s e => (s.planStrait e.1 0 n).planStrait e.1 1 n) s
  let s := (s.cargoSenders n).foldl (fun s i => s.taskEnd (s.islet i).task .aborted) s
  let s := s.endReads .aborted (fun _ r => wayHas n r.home (capeIsland r.port))
  let s := s.endWaiting .aborted (fun r => wayHas n r.home (capeIsland s.adapterPort))
  let (s, gone) := s.takeTransits (fun m t => (((islandRoute (capeIsland t.src) (capeIsland t.dst)).dropWhile (· != m)).contains n))
  let s := gone.foldl (fun s t => (s.dropRoute t.flit 1).freeSlot t.src t.flit.vc) s
  s.dropHeld (fun a => match s.pageAt a.fn a.addr with
    | some pg => (memWay (s.sourceIsland a) (frameIsland pg.frame)).contains n
    | none => false) .aborted

/-- A cape takes the consumable units at the head of a reader queue, and the flits they complete (R290, R308). -/
def State.capeTakes (s : State) (n : Nat) (ba : Bool) (cls : Nat) : State :=
  let i := straitReader n ba
  if ¬ (12 ≤ i ∧ i < 16) then s else
  let l := s.lane n ba cls
  let s := (s.setLane n ba cls { l with reader := [] }).straitFull n
  (l.reader.filterMap (·.transit)).foldl (fun s t => s.transitArrives t) s

/-- A unit reaches the reader side: it is consumable once its check passes, and an isle die or a cape takes what it can; a first
failure starts a retry, a resent unit that fails again fails the strait (R27, R34, R35). -/
def execStraitUnitArrive (n : Nat) (ba : Bool) (cls : Nat) (crcOk : Bool) (syndrome : Nat) (s : State) : Result :=
  let l := s.lane n ba cls
  if ¬ n < 35 ∨ ¬ cls < 4 ∨ s.straitCarries n = false ∨ s.straitRuns n = false ∨ l.flight = [] then ok s
  else if crcOk then ((s.straitPass n ba cls).capeTakes n ba cls).dieTakes (straitReader n ba)
  else if l.retry then ok ((s.setFld .STR_ERR_LAST_SYNDROME n 0 syndrome).straitFail n)
  else ok (s.straitRetry n ba cls syndrome)

/-- The stack whose island is an end of a strait. -/
def stackOfStrait (n : Nat) : Option Nat :=
  if 4 ≤ n ∧ n < 12 then some (n - 4) else if 22 ≤ n ∧ n < 30 then some (n - 22) else none

/-- A side of a strait has made no handshake progress for 100 µs of stall time, none of it while an end island relocks or a reset
clears it: the strait fails (R35). -/
def execStraitStallTimeout (n : Nat) (_ba : Bool) (s : State) : Result :=
  if ¬ n < 35 ∨ s.straitState n = 3 ∨ s.straitRuns n = false ∨ s.heldInReset = true ∨
      (stackOfStrait n).any (bit (s.fld .HBR_RESET_STAT_STACK_BUSY)) = true then ok s
  else ok (s.straitFail n)

end Sys2Proof.Machine
end

