-- ==== Sys2Proof/Machine/Partition.lean ====
section
/-! DEFINITION. Partitions: grants, enable, shut-down and function reset, key rotation and its sweep, the random bit generator
(R396-R415). -/

namespace Sys2Proof.Machine

/-- Function states (R400). -/
def fnDisabled : Nat := 0
def fnEnabling : Nat := 1
def fnEnabledState : Nat := 2
def fnDraining : Nat := 3

/-- The state of a function. -/
def State.fnStateOf (s : State) (f : Nat) : Nat := s.fld .SEC_GRANT_CTL_STATE f

/-- A function that a management slot names. -/
def isFn (f : Nat) : Bool := decide (1 ≤ f) && decide (f ≤ 8)

/-! ## Enable (R401) -/

/-- A granted unit is absent: an absent or a chain port, or a mainland range that does not lie on an UP port below its capacity. -/
def State.grantAbsent (s : State) (f : Nat) : Bool :=
  (setBits (s.portsOf f) 24).any (fun p => decide (p < 2) || !bit (partJl s.pkg.part) p) ||
  (s.rangesOf f).any (fun r => !s.mlUp (r / 128) || decide (s.fld .MEM_ML_PORT_STAT_CAP_GIB (r / 128) ≤ r % 128))

/-- A granted unit is granted to another function that is not DISABLED. -/
def State.grantOverlap (s : State) (f : Nat) : Bool :=
  [1, 2, 3, 4, 5, 6, 7, 8].any (fun g => g != f && s.fnStateOf g != fnDisabled &&
    ((s.reg .SEC_GRANT_ATOLLS f &&& s.reg .SEC_GRANT_ATOLLS g != 0) || (s.reg .SEC_GRANT_RES f &&& s.reg .SEC_GRANT_RES g != 0) ||
     (s.reg .SEC_GRANT_PORTS f &&& s.reg .SEC_GRANT_PORTS g != 0) ||
     (List.range 32).any (fun j => s.reg .SEC_GRANT_ML f j &&& s.reg .SEC_GRANT_ML g j != 0)))

/-- No unit is granted. -/
def State.grantEmpty (s : State) (f : Nat) : Bool :=
  s.reg .SEC_GRANT_ATOLLS f == 0 && s.reg .SEC_GRANT_RES f == 0 && s.reg .SEC_GRANT_PORTS f == 0 &&
  (List.range 32).all (fun j => s.reg .SEC_GRANT_ML f j == 0)

/-- GRANT_ERR of the first check that fails; 0 where all pass. -/
def State.grantCheck (s : State) (f : Nat) : Nat :=
  if s.fld .SEC_DEV_STAT_DRBG = 2 then 4
  else if s.grantAbsent f then 1
  else if s.grantOverlap f then 2
  else if s.grantEmpty f then 3
  else 0

/-- ENABLE = 1 meets a DISABLED function: the checks decide between ENABLING and DISABLED. -/
def State.grantEnable (s : State) (f : Nat) : State :=
  let err := s.grantCheck f
  let s := s.setFld .SEC_GRANT_CTL_GRANT_ERR f 0 err
  if err = 0 then (s.setFld .SEC_GRANT_CTL_ENABLE f 0 1).setFld .SEC_GRANT_CTL_STATE f 0 fnEnabling
  else s.setFld .SEC_GRANT_CTL_ENABLE f 0 0

/-! ## Shut-down, steps 1 and 2 (R381, R403) -/

/-- Requests of the migration engine end; pages in progress are dropped, and their frames given back (R225). -/
def State.migReset (s : State) (f : Nat) : State :=
  let m := (s.fnState f).mig
  let s := s.modFn f (fun x => { x with ckptReqs := [], mig := {} })
  let s := (m.run.toList).foldl (fun s r => s.migEnd f r.req .resetInProgress r.done r.skipped) (s.migStat f)
  let s := m.queue.foldl (fun s r => s.migEnd f r .resetInProgress 0 0) s
  (List.range 16).foldl (fun s p =>
    let gone := ((s.mlPort p).current.toList ++ (s.mlPort p).promos).filter (fun x => x.fn == f && x.kind != .sweep)
    let s := s.modPort p (fun m => { m with promos := m.promos.filter (fun x => x.fn ≠ f) })
    let s := if ((s.mlPort p).current.any (fun x => x.fn == f)) = true then s.portNext p else s
    gone.foldl (fun s x => s.frameLeft x.target) s) s

/-- Records that wait are written to completion rings in host memory, without interrupt; one that finds its ring full is lost
(R381). -/
def State.shutRecords (s : State) (f : Nat) : State :=
  (List.range 64).foldl (fun s q =>
    (s.queue f q).cpls.foldl (fun s c =>
      if s.fld .SVC_Q_CFG_CPL_HOST f q = 1 ∧ s.ringRoom f q = true ∧ s.hostUp = true then
        let (addr, phase) := s.completionAddr f q
        (s.hostWrite f (s.commandDie f) 1 addr (completionBytes q phase c)).addFld .SVC_Q_STAT_CPL_TAIL f q 1
      else s) s) s

/-- The work of a function ends (R403 step 2): islets stop, launches, services, loads, commands, migration requests and reef work
end with RESET_IN_PROGRESS, step aborts are sent (step 3), and records go to the host. Log entry 46. -/
def State.stopWork (s : State) (f : Nat) : State :=
  let s := s.servicesDoomed f .resetInProgress
  let lids := (s.launches.filter (fun e => e.2.fn == f)).map Prod.fst
  let s := lids.foldl (fun s lid => s.launchStop lid .resetInProgress) s
  let s := ((s.stepKill f .resetInProgress).genKill f .resetInProgress).stepFinish f .resetInProgress false
  let s := (isletsOf (s.atollsOf f)).foldl (fun s i =>
    let t := (s.islet i).task
    if s.isletActive i ∨ t.isSome then (s.stopIslet i causeStopped).taskEnd t .resetInProgress else s) s
  let s := if s.loading f then
      s.loadEnd f (if s.loadState f < loadQuiesce then loadRefused else loadFailed) 0xF .resetInProgress
    else s
  let s := s.migReset f
  let s := if partReef s.pkg.part then (setBits (s.stacksOf f) 8).foldl (fun s k => s.reefReset f k) s else s
  (s.commandsEnd f .resetInProgress).shutRecords f

/-- A shut-down is accepted (R402, R403, R424, R427): DRAINING, the record RESETTING with the measurements that stand, and the
function's work ends. Causes: 0 ENABLE = 0, 1 RESET by function 0, 2 RESET by the function. Log entry 46. -/
def State.shutdown (s : State) (f cause : Nat) : State :=
  let r := storeGet {} s.records f
  let s := { s with drains := storeSet {} s.drains f { opened := s.count 16, cause := cause },
                    records := storeSet {} s.records f { r with resetting := true, meas := s.meas f, grant := shake256 64 (s.grantBytes f) } }
  let s := (s.setFld .SEC_GRANT_CTL_STATE f 0 fnDraining).recordChange f
  let s := s.setFld .SEC_GRANT_CTL_RE_ENABLE_PENDING f 0 (s.fld .SEC_GRANT_CTL_ENABLE f)
  s.stopWork f

/-! ## SEC_GRANT_CTL (R401-R404) -/

/-- A write of SEC_GRANT_CTL by function 0. While ENABLING, ENABLE = 0 and RESET are held; while DRAINING, ENABLE is what step 8
will find. -/
def State.writeGrantCtl (s : State) (fn f : Nat) (w : Word) : State :=
  if fn ≠ 0 ∨ isFn f = false ∨ s.ready = false then s else
  let en := bit w.toNat 0
  let rst := bit w.toNat 1
  let st := s.fnStateOf f
  let s := s.setFld .SEC_GRANT_CTL_ENABLE f 0 (natOf en)
  if st = fnDisabled then (if en then s.grantEnable f else s)
  else if st = fnEnabling then
    if !en then { s with enablePend := storeSet 0 s.enablePend f 1 }
    else if rst then { s with enablePend := storeSet 0 s.enablePend f 2 }
    else s
  else if st = fnEnabledState then
    if !en then s.shutdown f 0
    else if rst then s.shutdown f 1
    else s
  else s.setFld .SEC_GRANT_CTL_RE_ENABLE_PENDING f 0 (natOf en)

/-- A write of SEC_GRANT_CTL that sets ENABLE (R401). -/
def execFunctionEnable (fn f : Nat) (w : Word) (s : State) : Result := ok (s.writeGrantCtl fn f w)

/-- A write of SEC_GRANT_CTL that clears ENABLE (R402, R404). -/
def execFunctionDisable (fn f : Nat) (w : Word) (s : State) : Result := ok (s.writeGrantCtl fn f w)

/-- A write of SEC_GRANT_CTL.RESET (R402). -/
def execGrantCtlReset (fn f : Nat) (w : Word) (s : State) : Result := ok (s.writeGrantCtl fn f w)

/-- A write of SEC_FN_CTL by the function: RESET starts its own function reset (R402). -/
def State.writeFnCtl (s : State) (fn : Nat) (w : Word) : State :=
  if s.fnLive fn ∧ bit w.toNat 0 then s.shutdown fn 2 else s

/-- A write of SEC_FN_CTL.RESET (R402). -/
def execFnCtlReset (fn : Nat) (w : Word) (s : State) : Result := ok (s.writeFnCtl fn w)

/-- The window fields that belong to a function, and those of its islets, stacks and contexts, return to their reset values (R15,
R403 step 7); the compute limits of its stacks are the governor's and stay (R264; DESIGN CHOICE, log entry 46). -/
def State.clearWindow (s : State) (f : Nat) : State :=
  let codes (rs : List Reg) : List Nat := rs.map Reg.code
  let own := codes fnRegs
  let isl := codes isletRegs
  let reef := codes reefRegs
  let job := codes jobRegs
  let atolls := s.atollsOf f
  let granted := s.stacksOf f
  let ctxs := s.fld .SEC_GRANT_RES_JOB_CTX f
  let limit (k : Nat) : Nat := s.fld .REEF_STACK_STAT_LIMIT k
  let t := s.clearRegs (fun c a => (own.contains c && a == f) || (isl.contains c && bit atolls (islAtoll a)) ||
    (reef.contains c && bit granted a) || (job.contains c && bit ctxs a))
  (setBits granted 8).foldl (fun t k => t.setFld .REEF_STACK_STAT_LIMIT k 0 (limit k)) t

/-- Slot 0 is CURRENT under a fresh key, the window stands at its reset values, the record is ACTIVE, the function ENABLED (R401).
Log entry 46. -/
def State.enables (s : State) (f : Nat) : State :=
  let s := (s.clearWindow f).generates
  (s.setFld .SEC_GRANT_CTL_STATE f 0 fnEnabledState).recordChange f

/-- The enable sequence has run (R401): slot 0 CURRENT under a fresh key, the window at its reset values, the record ACTIVE with
M = 0, ENABLED; a request held meanwhile takes effect. Log entry 46. -/
def execEnableComplete (f : Nat) (s : State) : Result :=
  if isFn f = false ∨ s.fnStateOf f ≠ fnEnabling then ok s else
  let s := s.enables f
  match storeGet 0 s.enablePend f with
  | 1 => ok ({ s with enablePend := storeSet 0 s.enablePend f 0 }.shutdown f 0)
  | 2 => ok ({ s with enablePend := storeSet 0 s.enablePend f 0 }.shutdown f 1)
  | _ => ok s

/-! ## Shut-down, steps 3 to 8 (R403) -/

/-- A stack's memory reads 0, its spare area too, with its configuration away (R403). Log entry 46. -/
def State.clearStack (s : State) (k : Nat) : State :=
  { s with mem := storeEraseRange s.mem (rowKey k 0 0 * 1024) (64 * 2 ^ 31),
           bad := storeEraseRange s.bad (rowKey k 0 0 * 32) (64 * 2 ^ 26),
           reefs := storeErase s.reefs k, leases := storeErase s.leases k }

/-- The memory and configuration of a function's units are cleared (R403 steps 5 and 6): stacks with their spare areas, islets,
reef units. Frames return to their pools, one with a degraded row or an uncorrectable unit withdrawn (R226); mainland frames are
returned unwritten. Log entry 46. -/
def State.clearUnits (s : State) (f : Nat) : State :=
  let pages := (s.fnState f).segs.flatMap Segment.pages
  let s := pages.foldl (fun s p => s.frameLeft p.frame) (s.modFn f (fun x => { x with segs := [] }))
  let s := (setBits (s.stacksOf f) 8).foldl (fun s k => (s.clearStack k).spareStat k) s
  let atolls := s.atollsOf f
  let mine (i : Nat) : Bool := decide (i < 384) && bit atolls (islAtoll i)
  { s with islets := s.islets.filter (fun e => !mine e.1), packets := s.packets.filter (fun p => !mine p.src && !mine p.dst) }

/-- What the device holds for a function is dropped: map, accesses, queues, services, jobs, reads, rotation. Log entry 46. -/
def State.dropFunction (s : State) (f : Nat) : State :=
  let acts := (s.actions.filter (fun e => e.2.kind == .rotate f || e.2.kind == .load f || e.2.kind == .commit f)).map Prod.fst
  let s := acts.foldl (fun s n => s.dropAction n) s
  { s with fns := storeErase s.fns f, queues := storeEraseRange s.queues (64 * f) 64, armed := storeEraseRange s.armed (16 * f) 16,
           held := s.held.filter (fun a => a.fn ≠ f), reads := s.reads.filter (fun e => e.1 / 256 ≠ f), readData := s.readData.filter (fun e => e.1 ≠ f),
           readsWaiting := s.readsWaiting.filter (fun r => r.1 ≠ f), jobs := s.jobs.filter (fun e => e.2.fn ≠ f),
           launches := s.launches.filter (fun e => e.2.fn ≠ f),
           pastLaunches := s.pastLaunches.filter (fun e => (setBits e.2 24).any (bit (s.atollsOf f)) == false), rotations := storeErase s.rotations f,
           sweepBad := s.sweepBad.filter (fun e => e.1 ≠ f), drains := storeErase s.drains f }

/-- A STEP_ABORT of the function still waits at a granted port that is UP (R403 step 3). Log entry 46. -/
def State.abortsWait (s : State) (f : Nat) : Bool :=
  (setBits (s.portsOf f) 24).any (fun p => s.portUp p && (s.egressOf p 3).any (fun x => x.ftype == 5 && x.sub == 0x42 && x.sfn == f))

/-- Ports are reset, keys and map destroyed, units cleared, the window stands at its reset values, the record is DISABLED, the
shut-down journaled and committed (R403, R404, R427). Log entry 46. -/
def State.shutsDown (s : State) (f : Nat) : State :=
  let d : Drain := storeGet {} s.drains f
  let us := min ((s.count 16 - d.opened) / 1000) (2 ^ 32 - 1)
  let s := (setBits (s.portsOf f) 24).foldl (fun s p => s.portResetNow p) s
  let s := (((s.dropCargo f).clearUnits f).clearWindow f).dropFunction f
  let s := s.setFld .SEC_FN_TIME_LAST_SHUTDOWN_US f 0 us
  let r := storeGet {} s.records f
  let s := { s with records := storeSet {} s.records f { seq := r.seq } }
  let s := ((s.setFld .SEC_GRANT_CTL_STATE f 0 fnDisabled).setFld .SEC_GRANT_CTL_RE_ENABLE_PENDING f 0 0).recordChange f
  s.journalNow 0x60 (leBytes 1 f ++ leBytes 1 d.cause ++ leBytes 4 us)

/-- The shut-down has run to its step 8: ports reset, keys and map destroyed, units cleared, the window at its reset values, the
record DISABLED with M = 0, the shut-down journaled and committed; with ENABLE = 1 the enable starts on the same grant (R403,
R404, R427). -/
def execShutdownComplete (f : Nat) (s : State) : Result :=
  if isFn f = false ∨ s.fnStateOf f ≠ fnDraining ∨ s.abortsWait f = true then ok s else
  let s := s.shutsDown f
  if s.fld .SEC_GRANT_CTL_ENABLE f = 1 then ok (s.grantEnable f) else ok s

/-! ## Grant registers (R398) -/

/-- A write of a grant register by function 0: only while the function is DISABLED. -/
def State.writeGrant (s : State) (fn : Nat) (r : Reg) (f j : Nat) (w : Word) : State :=
  if fn = 0 ∧ isFn f ∧ s.ready ∧ s.fnStateOf f = fnDisabled then s.writeReg r f j w else s

/-- A write of the grant register at an offset of the control window. -/
def execGrantWrite (fn off : Nat) (w : Word) (s : State) : Result :=
  match regAt off with
  | some (.SEC_GRANT_ATOLLS, f, j) => ok (s.writeGrant fn .SEC_GRANT_ATOLLS f j w)
  | some (.SEC_GRANT_RES, f, j) => ok (s.writeGrant fn .SEC_GRANT_RES f j w)
  | some (.SEC_GRANT_PORTS, f, j) => ok (s.writeGrant fn .SEC_GRANT_PORTS f j w)
  | some (.SEC_GRANT_ML, f, j) => ok (s.writeGrant fn .SEC_GRANT_ML f j w)
  | _ => ok s

/-! ## Key rotation (R413-R415) -/

/-- A write of SEC_KEY_CTL: ROTATE is accepted where the other slot is EMPTY and the DRBG works, and waits for the token of the
command die's half (R413, R437). Log entry 47. -/
def State.writeKeyCtl (s : State) (fn : Nat) (w : Word) : State :=
  if s.fnLive fn = false ∨ bit w.toNat 0 = false then s else
  let other := 1 - s.currentSlot fn
  if s.fld (slotState other) fn ≠ 0 ∨ storeGet 0 s.rotations fn ≠ 0 then
    s.setFld .SEC_KEY_STAT_LAST_STATUS fn 0 (statusCode .keySlotBusy)
  else if s.fld .SEC_DEV_STAT_DRBG = 2 then s.setFld .SEC_KEY_STAT_LAST_STATUS fn 0 (statusCode .aborted)
  else ({ s with rotations := storeSet 0 s.rotations fn 1 }).rotateIssue fn

/-- A write of SEC_KEY_CTL.ROTATE (R413). -/
def execKeyRotate (fn : Nat) (w : Word) (s : State) : Result := ok (s.writeKeyCtl fn w)

/-- The other slot is CURRENT under a fresh key, the old one RETIRING, or EMPTY at once where it holds no page (R413).
Log entry 47. -/
def State.rotates (s : State) (f : Nat) : State :=
  let old := s.currentSlot f
  let s := { s.generates with sweepBad := s.sweepBad.filter (fun e => e.1 ≠ f) }
  let s := (s.setFld (slotState (1 - old)) f 0 1).setFld (slotState old) f 0 2
  let s := (s.setFld .SEC_KEY_STAT_CURRENT f 0 (1 - old)).setFld .SEC_KEY_STAT_LAST_STATUS f 0 0
  let s := (s.modFn f (fun x => { x with keyWritten := 0 })).setFld .SEC_KEY_WRITTEN_MIB f 0 0
  s.slotRetire f old

/-- The next page of a function on a port that the sweep takes: named under the RETIRING slot, not MOVING, not passed over as
unreadable (R414, R415). Log entry 47. -/
def State.sweepNext (s : State) (f port : Nat) : Option (Nat × Page) :=
  let old := 1 - s.currentSlot f
  if s.fld (slotState old) f ≠ 2 then none else
  (s.fnState f).segs.findSome? (fun g => g.pages.zipIdx.findSome? (fun e =>
    let addr := g.base + 65536 * e.2
    if e.1.frame.port? = some port ∧ e.1.slot = old ∧ e.1.moving = false ∧ (s.sweepBad.contains (f, addr)) = false then some (addr, e.1) else none))

/-- A page that the sweep cannot read stays under the old slot: counted, recorded, passed over from now on (R415).
Log entry 47. -/
def State.sweepFails (s : State) (f addr : Nat) : State :=
  { s with sweepBad := s.sweepBad ++ [(f, addr)] }.satFld .SEC_KEY_STAT_SWEEP_ERR f 0 1

/-- The new key is loaded (R413 steps 2, 3): the other slot is CURRENT, the old one RETIRING, or EMPTY at once where it holds no
page. A DRBG that has failed meanwhile ends the rotation ABORTED (R409). -/
def execRotationKeyLoaded (f : Nat) (s : State) : Result :=
  if isFn f = false ∨ storeGet 0 s.rotations f ≠ 3 then ok s else
  let s := s.rotationEnds f
  if s.fld .SEC_DEV_STAT_DRBG = 2 then ok (s.setFld .SEC_KEY_STAT_LAST_STATUS f 0 (statusCode .aborted)) else
  ok (s.rotates f)

/-- The sweep takes its next page of a function on a port: MOVING, read and decrypted under the old slot (R414 steps 1, 2). -/
def execSweepPageStart (f port upset : Nat) (s : State) : Result :=
  let m := s.mlPort port
  if isFn f = false ∨ m.current.isSome = true ∨ m.lost = true then ok s else
  match s.sweepNext f port with
  | none => ok s
  | some (addr, pg) =>
    if s.mlUp port = false then ok ((s.portDownRecord .migration f addr (frameByte pg.frame 0)).sweepFails f addr) else
    let (s, good) := (s.addUpset pg.frame (frameByte pg.frame 0) upset).readWhole .migration f pg.frame (some addr)
    if !good then ok (s.sweepFails f addr) else
    let mv : PageMove := { fn := f, addr := addr, kind := .sweep, target := pg.frame }
    ok ((s.modPort port (fun m => { m with current := some mv })).modPage f addr (fun e => { e with moving := true }))

/-- A swept page is in place under the new slot; the accesses held meanwhile are served (R414). -/
def State.sweepPuts (s : State) (f : Nat) (mv : PageMove) (pg : Page) : State :=
  let new := s.currentSlot f
  let s := (s.copyFrame pg.frame pg.frame).modPage f mv.addr (fun e => { e with moving := false, slot := new })
  let s := ((s.slotAdd f new).slotWritten f new).slotSub f pg.slot
  s.retryHeld

/-- A swept page is back in place under the new slot; the accesses held meanwhile are served in arrival order (R414 steps 3 to 5).
With the last one the old slot is EMPTY (R413 step 5). -/
def execSweepPageDone (f port : Nat) (s : State) : Result :=
  let m := s.mlPort port
  match m.current with
  | none => ok s
  | some mv =>
    if mv.kind ≠ .sweep ∨ mv.fn ≠ f ∨ m.lost = true then ok s else
    match s.pageAt f mv.addr with
    | none => ok s
    | some pg =>
      let s := s.unserved.portNext port
      if s.mlUp port = false then
        ok (((s.portDownRecord .migration f mv.addr (frameByte pg.frame 0)).modPage f mv.addr (fun e => { e with moving := false })).sweepFails f mv.addr).retryHeld
      else
        ok (s.sweepPuts f mv pg)

/-! ## The random bit generator (R408, R409) -/

/-- The DRBG is in ERROR, the failure is journaled, and ports in KEYING go DOWN (R409). Log entry 42. -/
def State.drbgFails (s : State) (test : Nat) : State :=
  let s := (s.setFld .SEC_DEV_STAT_DRBG 0 0 2).satFld .SEC_DRBG_HEALTH_FAILS 0 0 1
  let s := s.journal 0x54 (leBytes 1 test ++ leBytes 4 (s.fld .SEC_DRBG_HEALTH_FAILS))
  (List.range 24).foldl (fun s p => if s.portState p = portKeying then s.portDown p 5 else s) s

/-- A health test or the self-test fails: the DRBG is in ERROR, the failure is journaled, and ports in KEYING go DOWN.
Log entry 48. -/
def execDrbgHealthFail (test : Nat) (s : State) : Result :=
  if s.heldInReset then ok s else
  ok (s.drbgFails test)

/-- 2^20 generate requests have been made, with those that the model does not see: the DRBG is seeded again from the entropy source
(R408). Log entry 48. -/
def execDrbgReseed (s : State) : Result :=
  if s.fld .SEC_DEV_STAT_DRBG = 1 then ok ({ s with drbgCount := max s.drbgCount (2 ^ 20) } : State).drbgReseeds else ok s

end Sys2Proof.Machine
end

