-- ==== Sys2Proof/Machine/Harbour.lean ====
section
/-! DEFINITION. The harbour: watchdogs, the management event, counter snapshots, package and stack resets, boot, firmware update
(R416-R419, R426, R429, R430, R444, R447-R454). -/

namespace Sys2Proof.Machine

/-! ## The management event (R430) -/

/-- A write of HBR_EVT by function 0: bits written 1 are cleared, and a write that clears one arms the source again. -/
def State.writeHbrEvt (s : State) (fn : Nat) (w : Word) : State :=
  if fn ≠ 0 ∨ s.ready = false then s else
  let cleared := s.reg .HBR_EVT &&& w &&& 0xFF
  let s := s.writeReg .HBR_EVT 0 0 w
  if cleared = 0 then s else s.armHbr

/-- An RW1C write of HBR_EVT (R430). -/
def execHbrEvtClear (fn : Nat) (w : Word) (s : State) : Result := ok (s.writeHbrEvt fn w)

/-- A write of HBR_EVT_ROUTE by function 0: EN arms the source, EN zero leaves it disarmed. -/
def State.writeHbrRoute (s : State) (fn : Nat) (w : Word) : State :=
  if fn ≠ 0 ∨ s.ready = false then s else ({ s.writeReg .HBR_EVT_ROUTE 0 0 w with hbrArmed := false } : State).armHbr

/-- A write of HBR_EVT_ROUTE (R430). -/
def execHbrEvtRouteWrite (fn : Nat) (w : Word) (s : State) : Result := ok (s.writeHbrRoute fn w)

/-! ## Counter snapshots (R444) -/

/-- A write of HBR_SNAP_ISSUE by function 0: GO records island 16's count and sends a unit in TC2 on every harbour strait that
carries. Log entry 54. -/
def State.writeSnap (s : State) (fn : Nat) (w : Word) : State :=
  if fn ≠ 0 ∨ s.ready = false ∨ bit w.toNat 0 = false then s else
  let sent := (List.range 18).filter (fun i => decide (i ≠ 16) && s.straitCarries (harbourStrait i))
  let h := s.count 16
  let s := (s.setFld .HBR_SNAP_ISSUE_HBR_COUNT 0 0 (h / 2)).addFld .HBR_SNAP_CTL_SNAP_SEQ 0 0 1
  let s := (s.setFld .HBR_SNAP_CTL_VALID 0 0 (2 ^ 16)).setFld .HBR_SNAP_CNT_COUNT 16 0 h
  sent.foldl (fun s i => s.straitOffer 16 i 2 1) { s with snapSent := sent }

/-- A write of HBR_SNAP_ISSUE.GO (R444). -/
def execSnapshotGo (fn : Nat) (w : Word) (s : State) : Result := ok (s.writeSnap fn w)

/-- An island accepts the snapshot unit that was sent to it out of its strait: its count is recorded and valid (R444). -/
def execSnapshotUnitAccept (island : Nat) (s : State) : Result :=
  if s.snapSent.contains island = false ∨ s.wayOpen 16 island = false then ok s
  else
    let s := { s with snapSent := s.snapSent.filter (· ≠ island) }
    ok ((s.setFld .HBR_SNAP_CTL_VALID 0 0 (putBit (s.fld .HBR_SNAP_CTL_VALID) island true)).setFld .HBR_SNAP_CNT_COUNT island 0
      (s.count island))

/-! ## Package resets (R447, R450, R453, R454) -/

/-- A field's value carried into another state. -/
def State.carry (s : State) (t : State) (f : Fld) (a : Nat) : State := s.setFld f a 0 (t.fld f a)

/-- What a package reset does not clear: fuses, the committed journal, rows queued in it, pins, the boundary cells (R15, R406,
R447). -/
def State.resetKept (s : State) (warm : Bool) : State :=
  { pkg := s.pkg, svn := s.svn, jnl := s.jnl, jqueue := s.jqueue, fw := { images := s.fw.images, meas := s.fw.meas, svns := s.fw.svns },
    repairs := s.repairs.filter (fun k => s.jnl.items.any (fun r => r.type == 0x51 && r.payload == leBytes 1 0 ++ leBytes 8 k)),
    unrepairable := s.unrepairable, pins := { resetN := s.pins.resetN, pwrGoodN := s.pins.pwrGoodN, testEn := s.pins.testEn,
                                              tripped := warm && s.pins.tripped },
    jtag := s.jtag, mctp := { i3cStrap := s.mctp.i3cStrap }, freeCtr := s.freeCtr, ticks := s.ticks, pending := s.pending,
    records := if warm then s.records.map (fun e => (e.1, ({ seq := e.2.seq } : FnRecord))) else [] }

/-- The package with everything a reset clears at its reset value. Fuses, the committed journal, firmware slots, rows queued in
the journal, pins and the boundary cells stay; after a warm reset also the chain address (R306) and what counts since cold reset
(R15, R406, R447). Log entry 43. -/
def State.resetBase (s : State) (warm : Bool) : State :=
  let t := ((s.resetKept warm).setReg .HBR_JNL_STAT 0 0 (s.reg .HBR_JNL_STAT)).setFld .HBR_JNL_STAT_DROPPED 0 0 0
  let t := (t.setReg .HBR_JNL_SEQ 0 0 (s.reg .HBR_JNL_SEQ)).carry s .HBR_FW_STAT_LAST_TRIAL 0
  if warm then
    let t := t.setReg .JL_CHAIN 0 0 (s.reg .JL_CHAIN)
    let t := (t.carry s .HBR_RESET_STAT_WARM_COUNT 0).carry s .SEC_DRBG_HEALTH_FAILS 0
    [1, 2, 3, 4, 5, 6, 7, 8].foldl (fun t f => t.carry s .SEC_GRANT_CTL_SEQ f) t
  else t

/-- SVN intents without their commit, by component (R419). -/
def Journal.intents (j : Journal) : Store Nat :=
  j.items.foldl (fun m r =>
    if r.type = 0x20 then storeInsert (bytesAt r.payload 0 1) (bytesAt r.payload 1 1) (storeErase m (bytesAt r.payload 0 1))
    else if r.type = 0x21 then storeErase m (bytesAt r.payload 0 1) else m) []

/-- A component's anti-rollback counter rises to a value: intent, fuses, commit (R419). -/
def State.raiseSvn (s : State) (k v : Nat) : State :=
  if v ≤ storeGet 0 s.svn k then s else
  let s := s.journalNow 0x20 (leBytes 1 k ++ leBytes 1 v)
  let s := { s with svn := storeSet 0 s.svn k v }
  s.journalNow 0x21 (leBytes 1 k ++ leBytes 1 v)

/-- The firmware measurement of the image in a slot: of the one that the factory put there, or of the one staged last (R418,
R423). -/
def State.slotMeas (s : State) (slot : Nat) : List Byte :=
  let m := storeGet [] s.fw.meas slot
  if m = [] then Config.factoryMeas slot else m

/-- The measurement of the staged image of a component: that of an image on its way into the inactive slot, or of the one there. -/
def State.stagedMeas (s : State) (k : Nat) : List Byte :=
  let slot := 2 * k + (1 - natOf (bit (s.fld .HBR_STAT_ACTIVE_B) k))
  match (s.fw.coming.filter (fun e => e.2.slot == slot)).getLast? with
  | some (_, x) => shake256 64 x.bytes
  | none => s.slotMeas slot

/-- The payload of a firmware record: a mask of components and the measurements of their images, in slot B where `activeB` has
their bit (R456). -/
def State.fwPayload (s : State) (mask activeB : Nat) : List Byte :=
  leBytes 1 mask ++ (setBits mask 4).flatMap (fun k => s.slotMeas (2 * k + natOf (bit activeB k)))

/-- SEC_SVN: the anti-rollback counter of each component, in a byte each (R419, R428). -/
def State.svnWord (s : State) : Nat := leNat ([0, 1, 2, 3].flatMap (fun k => leBytes 1 (storeGet 0 s.svn k)))

/-- Which components are staged: HBR_FW_STAT.STAGED and SEC_DEV_STAT.UPDATE_STAGED (R426). -/
def State.setStaged (s : State) (mask : Nat) : State :=
  (s.setFld .HBR_FW_STAT_STAGED 0 0 mask).setFld .SEC_DEV_STAT_UPDATE_STAGED 0 0 (natOf (mask % 16 != 0))

/-- Steps 1 to 3 of the boot (R450): the journal is replayed, interrupted SVN intents are completed, and the slots are chosen: a
trial that has no outcome has failed; staged components are tried (R453, R454). Log entry 54. -/
def State.bootStart (s : State) (cause : Nat) : State :=
  let s := (s.replayJournal).setFld .HBR_RESET_STAT_CAUSE 0 0 cause
  let s := s.jnl.intents.foldl (fun s e =>
    let s := { s with svn := storeSet 0 s.svn e.1 (max e.2 (storeGet 0 s.svn e.1)) }
    s.journalNow 0x21 (leBytes 1 e.1 ++ leBytes 1 e.2)) s
  let f := s.jnl.fw
  let s := (s.setStaged f.staged).setFld .HBR_STAT_ACTIVE_B 0 0 f.activeB
  let s := s.setFld .HBR_FW_STAT_LAST_TRIAL 0 0 f.last
  if f.trial ≠ 0 then
    ((s.setStaged 0).setFld .HBR_FW_STAT_LAST_TRIAL 0 0 2).journalNow 0x32 (s.fwPayload f.trial (f.activeB ^^^ f.trial)) |>.hbrEvent .HBR_EVT_FW
  else if f.staged ≠ 0 then
    let s := s.journalNow 0x34 (s.fwPayload f.staged (f.activeB ^^^ f.staged))
    ({ s with fw := { s.fw with trial := f.staged } }).setFld .HBR_STAT_ACTIVE_B 0 0 (f.activeB ^^^ f.staged)
  else s

/-- A package warm reset starts, unless a thermal trip has stopped the device (R317, R406, R424, R447, R476): every port goes
DOWN, WARM_COUNT and the SEQ of every function record rise. Log entry 54. -/
def State.warmReset (s : State) (cause : Nat) : State :=
  if s.pins.tripped then s else
  let s := ((s.portsReset.resetBase true).satFld .HBR_RESET_STAT_WARM_COUNT 0 0 1).bootStart cause
  [1, 2, 3, 4, 5, 6, 7, 8].foldl (fun s f => s.recordChange f) s

/-- A harbour core has not written its watchdog for 8 ms (R429, R447). Log entry 58. -/
def execHarbourWatchdog (s : State) : Result :=
  if s.heldInReset then ok s else
  let last := min (storeGet 0 s.watchdogs 16) (storeGet 0 s.watchdogs 17)
  ok ((s.reachCount 16 (last + 8000000)).warmReset 3)

/-- A management core writes its watchdog (R429). Log entry 58. -/
def execHarbourWatchdogWrite (core : Nat) (s : State) : Result :=
  if core < 2 ∧ s.heldInReset = false then ok { s with watchdogs := storeSet 0 s.watchdogs (16 + core) (s.count 16) } else ok s

/-- READY has not been reached 3 s after the release (R477). Log entry 11. -/
def execReadyTimeout (s : State) : Result :=
  if s.fld .HBR_STAT_STATE = 1 ∨ s.heldInReset then ok s
  else let s := s.reachCount 16 3000000000; ok { s with pins := { s.pins with readyLate := true } }

/-- A trial boot has failed: FW_FALLBACK, the staged bits cleared, and a warm reset from the active slots (R453).
Log entry 55. -/
def State.trialFails (s : State) : State :=
  ((s.journalNow 0x32 (s.fwPayload s.fw.trial (s.fld .HBR_STAT_ACTIVE_B))).warmReset 4).hbrEvent .HBR_EVT_FW

/-- A trial has not reached READY 2 s after the reset (R453). Log entry 11. -/
def execTrialTimeout (s : State) : Result :=
  if s.fw.trial = 0 ∨ s.ready ∨ s.heldInReset ∨ s.pins.tripped then ok s else ok (s.reachCount 16 2000000000).trialFails

/-! ## Stack resets (R38, R449) -/

/-- A frame lies in a stack. -/
def Frame.inStack (f : Frame) (k : Nat) : Bool := !f.isBoard && f.stack == k

/-- Some page of a range lies in a stack. -/
def State.rangeInStack (s : State) (fn addr pages k : Nat) : Bool :=
  (List.range pages).any (fun i => match s.pageAt fn (addr + 65536 * i) with
    | some pg => pg.frame.inStack k
    | none => false)

/-- The running migration request of a function touches a stack. -/
def State.migTouches (s : State) (fn k : Nat) : Bool :=
  match (s.fnState fn).mig.run with
  | none => false
  | some r => s.rangeInStack fn r.req.w3 (migPages r.req) k || (migOp r.req == 4 && s.rangeInStack fn r.req.w2 (migPages r.req) k)

/-- A page in progress on a port whose source or target frame lies in a stack is given up: a demotion leaves the page HBM, a
promotion leaves it MAINLAND and its held writes end ABORTED. Log entry 54. -/
def State.cutMoves (s : State) (k : Nat) : State :=
  (List.range 16).foldl (fun s p =>
    match (s.mlPort p).current with
    | none => s
    | some m =>
      match m.kind, s.pageAt m.fn m.addr with
      | .demote, some pg =>
        if pg.frame.inStack k then s.demoteAbandon p m ((((s.fnState m.fn).mig.run).map (·.slot)).getD 0) (some .aborted) else s
      | .promote, _ => if m.target.inStack k then s.promoteFail p m .aborted else s
      | _, _ => s) s

/-- A plan of an islet has words of a stack on their way: it ends ABORTED, its islet's launch with it (R449). -/
def State.planStack (s : State) (i e k : Nat) : State :=
  match ((s.islet i).engine e).run with
  | none => s
  | some r =>
    match s.planAt i r.plan with
    | none => s
    | some p =>
      let meets := (planWays p r).any (fun w => (s.pageAt (s.isletFn i) (p.memAt w)).any (fun pg => pg.frame.inStack k))
      if p.kind ≠ 2 ∧ meets then s.planFails i e .aborted else s

/-- A load's source read that is in flight to a stack (R449). -/
def State.sourceInStack (s : State) (fn k : Nat) : Bool :=
  let l := s.load fn
  let check := s.loadState fn == loadCheckState
  let stage := s.loadState fn == loadStage && s.staging.head? == some fn && s.stagingBusy
  (check || stage) && !l.host && (pagePieces ((if check then 4096 else imgLength l.header) / 65536 + 2) l.src
    (if check then 4096 else imgLength l.header)).any (fun p => (s.pageAt fn p.1).any (fun pg => pg.frame.inStack k))

/-- A stack reset starts (R449): accesses and migration requests that touch the stack end ABORTED, reef work ends
RESET_IN_PROGRESS, the descriptor table is lost where the part has reef units (R273). One already running is left alone. Both
straits of the stack's island return to DOWN; a FAILED harbour strait waits for a package reset (R35, R38). Log entry 54. -/
def State.stackReset (s : State) (k : Nat) : State :=
  let busy := s.fld .HBR_RESET_STAT_STACK_BUSY
  if bit busy k then s else
  let s := s.unserved
  let s := (s.setFld .HBR_RESET_STAT_STACK_BUSY 0 0 (putBit busy k true)).setFld .MEM_STACK_STAT_STATE k 0 2
  let s := s.straitDown (4 + k)
  let s := if s.straitState (22 + k) = 3 then s else s.straitDown (22 + k)
  let fns := [1, 2, 3, 4, 5, 6, 7, 8]
  let s := fns.foldl (fun s f => if s.migTouches f k then s.migStop f .aborted else s) s
  let s := s.cutMoves k
  let s := s.islets.foldl (fun s e => (s.planStack e.1 0 k).planStack e.1 1 k) s
  let s := fns.foldl (fun s f => if s.loading f = true ∧ s.sourceInStack f k = true then s.loadFault f .aborted else s) s
  let s := s.dropHeld (fun a => match s.pageAt a.fn a.addr with
    | some pg => pg.frame.inStack k
    | none => false) .aborted
  if partReef s.pkg.part = false then s else
  let s := fns.foldl (fun s f => s.reefReset f k) s
  let s := s.modReef k (fun x => { x with descs := [] })
  let s := (s.setFld .REEF_LOADED_DESCS k 0 0).setFld .REEF_STACK_STAT_LOADED k 0 0
  fns.foldl (fun s f => if bit (s.stacksOf f) k then
      s.setFld .IMG_CFG_STATE_STACKS_LOADED f 0 (putBit (s.fld .IMG_CFG_STATE_STACKS_LOADED f) k false) else s) s

/-- A write of HBR_RESET_CTL by function 0: WARM resets the package, STACK_GO the stack that STACK names. Log entry 17. -/
def State.writeResetCtl (s : State) (fn : Nat) (w : Word) : State :=
  if fn ≠ 0 ∨ s.ready = false then s else
  let s := s.writeReg .HBR_RESET_CTL 0 0 w
  if bit w.toNat 0 then s.warmReset 2
  else if bit w.toNat 1 then s.stackReset (s.fld .HBR_RESET_CTL_STACK)
  else s

/-- A write of HBR_RESET_CTL.WARM (R447). -/
def execWarmReset (fn : Nat) (w : Word) (s : State) : Result := ok (s.writeResetCtl fn w)

/-- A write of HBR_RESET_CTL.STACK_GO (R449). -/
def execStackReset (fn : Nat) (w : Word) (s : State) : Result := ok (s.writeResetCtl fn w)

/-- The interface of a stack in reset is trained again: the stack is UP, and its straits come UP unless one has FAILED (R38, R449
step 7). -/
def execStackResetDone (stack : Nat) (s : State) : Result :=
  let busy := s.fld .HBR_RESET_STAT_STACK_BUSY
  if stack < 8 ∧ bit busy stack = true then
    let s := (s.setFld .HBR_RESET_STAT_STACK_BUSY 0 0 (putBit busy stack false)).setFld .MEM_STACK_STAT_STATE stack 0 1
    ok ((s.straitUp (4 + stack)).straitUp (22 + stack))
  else ok s

/-! ## Boot (R450) -/

/-- The clock at which an island runs after its PLL locks, in MHz: isle islands at point 0 (R20, R22, R450). Log entry 11. -/
def bootClock (i : Nat) : Nat :=
  if i < 4 then 600 else if i < 12 then 1000 else if i < 16 then 1600 else if i = 16 then 1000 else 1200

/-- Queued row repairs are applied, of stacks and of mainland packages, with a journal and an error record each (R226-R228).
Whether a bank has a spare row left is not the model's to know (log entry 8); a row without one keeps its frame withdrawn for
good. The records name the patrol scrub as their source (DESIGN CHOICE, log entry 37). -/
def State.bootRepairs (s : State) : State :=
  let s := s.repairs.foldl (fun s k =>
    let good := s.free % 2 == 1
    let s := s.drawn.journal 0x51 (leBytes 1 (if good then 1 else 2) ++ leBytes 8 k)
    let s := s.memRecord 0 false (s.errorRecord (if good then 7 else 8) .scrub 0 0 (k * 1024) none)
    if good then s else { s with unrepairable := (s.unrepairable ++ [k]).eraseDups }) s
  let s := { s with repairs := [] }
  let s := { s with withdrawn := (s.unrepairable.flatMap rowFrame).eraseDups }
  (List.range 8).foldl State.rowsStat s

/-- A mainland port after a package reset: ABSENT without a package, DOWN where it fails, else UP (R228, R230). Log entry 54. -/
def State.bootPort (s : State) (p cap : Nat) (bad : Bool) : State :=
  let there := bit (partMl s.pkg.part) p && (cap == 16 || cap == 32 || cap == 64 || cap == 128)
  let s := s.setFld .MEM_ML_PORT_STAT_CAP_GIB p 0 (if there then cap else 0)
  s.setFld .MEM_ML_PORT_STAT_STATE p 0 (if there then (if bad then 2 else 1) else 0)

/-- The staged image: component, SVN and length of its header. -/
def fwComponent (img : List Byte) : Nat := bytesAt img 4 1
def fwSvn (img : List Byte) : Nat := bytesAt img 5 1
def fwLength (img : List Byte) : Nat := bytesAt img 8 8

/-- The checks of R418, in order. Log entry 55. -/
def State.fwAccepted (s : State) (img : List Byte) : Bool :=
  let chain := (img.drop 0x100).take (bytesAt img 0x18 4)
  let certs := (chainCerts chain).length
  let magic := leNat (asciiBytes "TVFW")
  bytesAt img 0 4 == magic && bytesAt img 6 2 == 1 && decide (fwComponent img < 4) &&
  fwLength img % 4096 == 0 && decide (4096 ≤ fwLength img) && decide (fwLength img ≤ 67108864) && decide (fwLength img ≤ img.length) &&
  decide (bytesAt img 0x18 4 ≤ 3840) && !s.pkg.rootBlank && (certs == 2 || certs == 3) && chainValid chain Config.rootDigest &&
  Config.ed448Verify (chainLeafKey chain) (asciiBytes "TVFW") (img.take 0x60) ((img.drop 0x60).take 114) &&
  ((img.drop 0x20).take 64 == shake256 64 ((img.take (fwLength img)).drop 0x1000)) &&
  decide (storeGet 0 s.svn (fwComponent img) ≤ fwSvn img)

/-- The image of a component's slot that boots passes the checks of R418; of the image that the factory put there only the SVN is
known, and the rest is taken to pass (log entry 55). A package without a root digest accepts none (R416). -/
def State.bootAccepts (s : State) (k : Nat) : Bool :=
  let slot := 2 * k + natOf (bit (s.fld .HBR_STAT_ACTIVE_B) k)
  match s.fw.images.find? (fun e => e.1 == slot) with
  | some (_, img) => s.fwAccepted img && fwComponent img == k
  | none => !s.pkg.rootBlank && decide (storeGet 0 s.svn k ≤ storeGet 0 s.fw.svns slot)

/-- A staged image fails R418 at boot (R453). Log entry 55. -/
def State.trialRefused (s : State) : Bool := (setBits s.fw.trial 4).any (fun k => !s.bootAccepts k)

/-- An image that is not on trial fails R418: the component is never released, and the boot does not end (R416). -/
def State.bootRefused (s : State) : Bool := [0, 1, 2, 3].any (fun k => !bit s.fw.trial k && !s.bootAccepts k)

/-- A trial that reaches READY is activated: counters rise, the staged bits are cleared (R419, R453). Log entry 55. -/
def State.activateTrial (s : State) : State :=
  if s.fw.trial = 0 then s else
  let m := s.fw.trial
  let s := s.journalNow 0x31 (s.fwPayload m (s.fld .HBR_STAT_ACTIVE_B))
  let s := (setBits m 4).foldl (fun s k => s.raiseSvn k (storeGet 0 s.fw.svns (2 * k + natOf (bit (s.fld .HBR_STAT_ACTIVE_B) k)))) s
  let s := { s with fw := { s.fw with trial := 0 } }
  ((s.setStaged 0).setFld .HBR_FW_STAT_LAST_TRIAL 0 0 1).hbrEvent .HBR_EVT_FW

/-- All device memory is filled with zero (R235). Log entry 6. -/
def State.zeroFill (s : State) : State := { s with mem := [], bad := [], rowErrs := [] }

/-- Step 9 of the boot: the capes run, and the enabled ports that are DISABLED begin training (R450, R484). -/
def State.bootPorts (s : State) : State :=
  let s := [12, 13, 14, 15].foldl (fun s i => s.setFld .STR_ISLAND_CLK_FREQ_MHZ i 0 (bootClock i)) s
  (List.range 24).foldl (fun s p =>
    if s.portPresent p ∧ s.fld .JL_PORT_CTL_ENABLE p = 1 ∧ s.portState p = portDisabled then s.startTraining p else s) s

/-- The mandatory data byte of the in-band interrupt that the device signals while MCTP packets wait for I3C, as DSP0233 numbers
it; none where none waits or it has no address (R478). Log entries 27 and 52. -/
def State.ibi (s : State) : Option Nat := if s.mctp.i3c.isSome && s.mctpOut.any (fun e => e.1 == 0) then some 0xAE else none

/-- The controller that an in-band interrupt has called reads the first packet that waits. Log entry 52. -/
def State.i3cReads (s : State) : State :=
  if s.ibi.isSome then { s with mctpOut := s.mctpOut.eraseP (fun e => e.1 == 0) } else s

/-- A tick with nothing commanded: the islands that run count on, the I3C controller reads a packet, and a boot under way comes to
its step 9 before READY (R450, R484). Log entries 2, 52 and 54. -/
def State.idles (s : State) : State :=
  let s := s.idleTick.i3cReads
  if s.ready ∨ s.heldInReset ∨ s.pins.tripped ∨ s.trialRefused ∨ s.bootRefused then s else s.bootPorts

/-- Steps 2 to 10 of the boot: DRBG, islands, straits, stacks, mainland ports, memory, Jumel ports, READY (R450).
Log entry 54. -/
def State.boots (s : State) (mlCaps mlBad : List Nat) : State :=
  let s := if s.fld .SEC_DEV_STAT_DRBG = 2 then s else { s with drbgCount := 0 }.setFld .SEC_DEV_STAT_DRBG 0 0 1
  let s := (List.range 35).foldl (fun s n => s.straitUp n) s
  let s := (List.range 18).foldl (fun s i => s.setFld .STR_ISLAND_CLK_FREQ_MHZ i 0 (bootClock i)) s
  let s := (List.range 8).foldl (fun s k => s.setFld .MEM_STACK_STAT_STATE k 0 1) s
  let s := s.bootRepairs
  let s := (List.range 16).foldl (fun s p => s.bootPort p (mlCaps.getD p 0) (mlBad.contains p)) s
  let s := s.zeroFill
  let s := { s with watchdogs := (List.range 18).foldl (fun w c => storeSet 0 w c (s.count 16)) [] }
  let s := s.bootPorts
  let s := s.activateTrial
  let s := s.journal 0x80 (leBytes 1 (s.fld .HBR_RESET_STAT_CAUSE) ++ leBytes 1 (s.fld .HBR_STAT_ACTIVE_B))
  s.setFld .HBR_STAT_STATE 0 0 1

/-- The boot ends (R450 steps 2 to 10): DRBG instantiated, islands locked and straits UP, stacks trained and repaired, mainland
ports trained with the capacities found, memory zero-filled (R235), enabled Jumel ports in training, READY. Firmware is verified
first (R416); a trial whose image fails, or that comes later than 2 s, falls back (R453). -/
def execBootReady (mlCaps mlBad : List Nat) (s : State) : Result :=
  if s.ready ∨ s.heldInReset ∨ s.pins.tripped ∨ s.bootRefused then ok s
  else if s.trialRefused ∨ (s.fw.trial ≠ 0 ∧ s.inWindow 16 2000000000 = false) then ok s.trialFails else
  ok (s.boots mlCaps mlBad)

/-! ## Firmware update (R417, R418, R451, R452) -/

/-- A stage at the head of the staging engine's queue asks for the image's header (R451). Log entry 55. -/
def State.fwAsks (s : State) : State :=
  match s.fw.staging with
  | some addr =>
    if s.staging.head? = some 9 ∧ s.fw.asked = false then
      { s with fw := { s.fw with asked := true } }.hostRead 0 16 addr 4096
    else s
  | none => s

/-- A stage of the image at a host address starts, or finds one running (R451). -/
def State.stageFw (s : State) (addr : Nat) : State :=
  if s.fld .HBR_FW_STAT_BUSY = 1 then s.setFld .HBR_FW_STAT_REJ_BUSY 0 0 1
  else
    let s := { s with staging := s.staging ++ [9], fw := { s.fw with staging := some addr, asked := false, head := [] } }
    (s.setFld .HBR_FW_STAT_BUSY 0 0 1).fwAsks

/-- CANCEL clears every staged bit (R452). -/
def State.cancelFw (s : State) : State :=
  let m := putBit (s.fld .HBR_FW_STAT_STAGED) (s.fw.restaged.getD 4) true % 16
  let meas := (setBits m 4).flatMap s.stagedMeas
  (({ s with fw := { s.fw with restaged := none } }.setStaged 0).journal 0x33 (leBytes 1 m ++ meas)).hbrEvent .HBR_EVT_FW

/-- A write of HBR_FW_CTL by function 0; one with both bits acts on CANCEL first. Log entry 17. -/
def State.writeFwCtl (s : State) (fn : Nat) (w : Word) : State :=
  if fn ≠ 0 ∨ s.ready = false then s else
  let s := if bit w.toNat 1 then s.cancelFw else s
  if bit w.toNat 0 then s.stageFw (4096 * s.fld .HBR_FW_SRC_ADDR) else s

/-- A write of HBR_FW_CTL.STAGE (R451). -/
def execFwStage (fn : Nat) (w : Word) (s : State) : Result := ok (s.writeFwCtl fn w)

/-- A write of HBR_FW_CTL.CANCEL (R452). -/
def execFwCancel (fn : Nat) (w : Word) (s : State) : Result := ok (s.writeFwCtl fn w)

/-- An image is staged: FW_STAGED is journaled, with whose commit it stands in its component's inactive slot (R417, R451, R452). Log
entry 55. -/
def State.fwStaged (s : State) (img : List Byte) : State :=
  let k := fwComponent img
  let x : FwImage := { slot := 2 * k + (1 - natOf (bit (s.fld .HBR_STAT_ACTIVE_B) k)), bytes := img.take (fwLength img) }
  let s := { s with fw := { s.fw with coming := storeInsert (s.reg .HBR_JNL_SEQ).toNat x s.fw.coming } }
  let s := s.journal 0x30 (leBytes 1 (2 ^ k) ++ shake256 64 x.bytes)
  let s := s.setStaged (putBit (s.fld .HBR_FW_STAT_STAGED) k true)
  s.setFld .HBR_FW_STAT_LAST_STATUS 0 0 0

/-- A component that the image being read will replace is not staged until that image passes (R451). Log entry 55. -/
def State.fwRestages (s : State) (head : List Byte) : State :=
  let k := fwComponent head
  if k < 4 ∧ bit (s.fld .HBR_FW_STAT_STAGED) k = true then
    { s with fw := { s.fw with restaged := some k } }.setStaged (putBit (s.fld .HBR_FW_STAT_STAGED) k false)
  else s

/-- A stage has failed: what it would have replaced is staged as before (R451). -/
def State.fwUnchanged (s : State) (k : Option Nat) : State :=
  match k with
  | some k => s.setStaged (putBit (s.fld .HBR_FW_STAT_STAGED) k true)
  | none => s

/-- The stage at the head of the staging engine's queue leaves it: not busy, HBR_EVT.FW set (R451). -/
def State.fwStageEnds (s : State) : State :=
  (({ s with staging := s.staging.tail, fw := { s.fw with staging := none, asked := false, head := [], restaged := none } } : State).setFld .HBR_FW_STAT_BUSY 0 0 0).hbrEvent .HBR_EVT_FW

/-- A stage whose image has been read, or could not be: an image that passes every check is in its component's inactive slot and
staged; else the stage ends with a status and nothing changes (R451). -/
def State.fwRead (s : State) (ans : Answer) : State :=
  let old := s.fw.restaged
  let s := s.fwStageEnds
  if ans.status ≠ .ok then
    let st := if ans.status = .uncorrectableMem ∨ ans.status = .linkDown then ans.status else .aborted
    (s.fwUnchanged old).setFld .HBR_FW_STAT_LAST_STATUS 0 0 (statusCode st)
  else if s.fwAccepted ans.data = false then (s.fwUnchanged old).setFld .HBR_FW_STAT_LAST_STATUS 0 0 (statusCode .aborted)
  else s.fwStaged ans.data

/-- What the staging engine reads next of an image: its header, then the rest. -/
def State.fwRange (s : State) : Nat × Nat :=
  let addr := s.fw.staging.getD 0
  if s.fw.head.isEmpty then (addr, 4096) else (addr + 4096, fwLength s.fw.head - 4096)

/-- The stage at the head of the staging engine's queue has read what it asked the host for (R312, R451): the header, after which
the rest of the image is asked for, or the rest. An answer that holds the whole image ends the stage at once. A header without
a length within its limits fails the first check. Log entry 55. -/
def execFwStageDone (ans : Answer) (s : State) : Result :=
  if s.staging.head? ≠ some 9 ∨ s.stagingBusy then ok s else
  let s := s.fwAsks
  let r := s.fwRange
  let whole := s.fw.head.isEmpty && ans.status == .ok && decide (4096 < ans.data.length) && fwLength ans.data == ans.data.length
  if whole then ok ((s.hostAnswer 0 r.1 r.2 ans).1.fwRead ans)
  else if s.hostReady 0 r.1 r.2 ans = false then ok s
  else
    let (s, a) := s.hostAnswer 0 r.1 r.2 ans
    let n := fwLength a.data
    if a.status ≠ .ok then ok (s.fwRead a)
    else if s.fw.head.isEmpty = false then ok (s.fwRead { a with data := s.fw.head ++ a.data })
    else if n ≤ 4096 ∨ 67108864 < n then ok (s.fwRead a)
    else ok (({ s with fw := { s.fw with head := a.data } }.fwRestages a.data).hostRead 0 16 (r.1 + 4096) (n - 4096))

end Sys2Proof.Machine
end

