-- ==== Sys2Proof/Machine/Mctp.lean ====
section
/-! DEFINITION. The management endpoint: the adapter mailbox, MCTP control messages, PLDM (R461, R462). The message layouts are those
of the DMTF documents that the spec names; it does not restate them (log entry 27). -/

namespace Sys2Proof.Machine

/-! ## Mailbox (R461) -/

/-- A packet arrives on a binding: 4 header bytes, then payload. One for another endpoint, of another version, or that continues no
message is dropped. A message is kept with its source, its tag byte and whether it is whole. -/
def State.mctpPacket (s : State) (bind : Nat) (pkt : List Byte) : State :=
  let b (k : Nat) : Nat := bytesAt pkt k 1
  let own := storeGet 0 s.mctp.eids bind
  if pkt.length < 4 ∨ b 0 % 16 ≠ 1 ∨ (b 1 ≠ 0 ∧ b 1 ≠ 0xFF ∧ b 1 ≠ own) then s else
  let old := storeGet [] s.mctp.incoming bind
  let whole := leBytes 1 (natOf (bit (b 3) 6))
  let head := leBytes 1 (b 2) ++ leBytes 1 (b 3 % 16)
  let msg := if bit (b 3) 7 then head ++ whole ++ pkt.drop 4
    else if old.take 2 = head ∧ (old.drop 2).take 1 = [0] then head ++ whole ++ old.drop 3 ++ pkt.drop 4
    else old
  { s with mctp := { s.mctp with incoming := storeSet [] s.mctp.incoming bind msg } }

/-- A whole message waits on a binding. -/
def State.messageWaits (s : State) (bind : Nat) : Bool := ((storeGet [] s.mctp.incoming bind).drop 2).take 1 == [1]

/-! ## Serving a message -/

/-- A request as the commands give it: source endpoint, tag byte, message. -/
def reqMsg (req : List Byte) : List Byte := req.drop 2

/-- The harbour takes a request: over I3C, once the device has a dynamic address (R478); from the mailbox, the message that waits
there, whose buffer is free again. -/
def State.mctpTake (s : State) (bind : Nat) (req : List Byte) : Option State :=
  if s.heldInReset ∨ s.pins.tripped ∨ req.length < 3 then none
  else if bind = 0 then (if s.mctp.i3c.isSome then some s else none)
  else if bind = 1 then
    let m := storeGet [] s.mctp.incoming 1
    if s.messageWaits 1 ∧ m.take 2 ++ m.drop 3 = req then
      some (({ s with mctp := { s.mctp with incoming := storeErase s.mctp.incoming 1 } } : State).setFld .HBR_MCTP_CTL_IN_FREE 0 0 1)
    else none
  else none

/-- Answer a request that `kind` recognises: `f` gives the response. Log entry 27. -/
def State.mctpServe (s : State) (bind : Nat) (req : List Byte) (kind : List Byte → Bool) (f : State → List Byte → State × List Byte) : Result :=
  if kind (reqMsg req) = false then ok s else
  match s.mctpTake bind req with
  | none => ok s
  | some s =>
    let (s, resp) := f s (reqMsg req)
    ok (s.mctpSend bind (bytesAt req 0 1) false (bytesAt req 1 1 % 8) resp)

/-! ## Control messages (R461) -/

/-- A control request with a command code. -/
def isControl (cmd : Nat) (m : List Byte) : Bool := bytesAt m 0 1 % 128 == 0 && bit (bytesAt m 1 1) 7 && bytesAt m 2 1 == cmd

/-- A control response: completion code and data. Log entry 27. -/
def controlRsp (m : List Byte) (cc : Nat) (data : List Byte) : List Byte :=
  leBytes 1 0 ++ leBytes 1 (bytesAt m 1 1 % 32) ++ (m.drop 2).take 1 ++ leBytes 1 cc ++ data

/-- The binding's bus owner assigns its endpoint ID. -/
def execSetEndpointId (bind : Nat) (req : List Byte) (s : State) : Result :=
  s.mctpServe bind req (isControl 1) (fun s m =>
    let op := bytesAt m 3 1 % 4
    let eid := bytesAt m 4 1
    if op ≤ 1 ∧ (eid = 0 ∨ eid = 0xFF) then (s, controlRsp m 2 [])
    else
      let s := if op ≤ 1 then
          { s with mctp := { s.mctp with eids := storeSet 0 s.mctp.eids bind eid, owners := storeSet 0 s.mctp.owners bind (bytesAt req 0 1) } }
        else s
      (s, controlRsp m 0 (leBytes 1 0 ++ leBytes 1 (storeGet 0 s.mctp.eids bind) ++ leBytes 1 0)))

/-- The binding's endpoint ID. -/
def execGetEndpointId (bind : Nat) (req : List Byte) (s : State) : Result :=
  s.mctpServe bind req (isControl 2) (fun s m => (s, controlRsp m 0 (leBytes 1 (storeGet 0 s.mctp.eids bind) ++ leBytes 1 0 ++ leBytes 1 0)))

/-- The version of the base (1.3), of control, PLDM or SPDM messages over MCTP. -/
def execGetMctpVersionSupport (bind : Nat) (req : List Byte) (s : State) : Result :=
  s.mctpServe bind req (isControl 4) (fun s m =>
    let t := bytesAt m 3 1
    let entry (minor : Nat) : List Byte := leBytes 1 1 ++ leBytes 1 0xF1 ++ leBytes 1 minor ++ leBytes 1 0xF0 ++ leBytes 1 0
    if t = 0xFF ∨ t = 0 then (s, controlRsp m 0 (entry 0xF3))
    else if t = 1 ∨ t = 5 then (s, controlRsp m 0 (entry 0xF0))
    else (s, controlRsp m 0x80 []))

/-- The message types: control, PLDM, SPDM. -/
def execGetMessageTypeSupport (bind : Nat) (req : List Byte) (s : State) : Result :=
  s.mctpServe bind req (isControl 5) (fun s m => (s, controlRsp m 0 (leBytes 1 3 ++ leBytes 1 0 ++ leBytes 1 1 ++ leBytes 1 5)))

/-! ## PLDM (R462) -/

/-- A PLDM request. -/
def isPldmReq (m : List Byte) : Bool := bytesAt m 0 1 % 128 == 1 && bit (bytesAt m 1 1) 7

/-- A PLDM request of a type and command. -/
def isPldm (type cmd : Nat) (m : List Byte) : Bool := isPldmReq m && bytesAt m 2 1 % 64 == type && bytesAt m 3 1 == cmd

/-- A PLDM response: completion code and data. Log entry 27. -/
def pldmRsp (m : List Byte) (cc : Nat) (data : List Byte) : List Byte :=
  leBytes 1 1 ++ leBytes 1 (bytesAt m 1 1 % 32) ++ (m.drop 2).take 2 ++ leBytes 1 cc ++ data

/-- Serve a PLDM request: not ready while BOOTING (R450). Log entry 27. -/
def State.pldmServe (s : State) (bind : Nat) (req : List Byte) (type cmd : Nat) (f : State → List Byte → State × Nat × List Byte) : Result :=
  s.mctpServe bind req (isPldm type cmd) (fun s m =>
    if s.ready = false then (s, pldmRsp m 4 []) else
    let (s, cc, data) := f s m
    (s, pldmRsp m cc data))

/-- The arguments of a PLDM request. -/
def pldmArg (m : List Byte) (off n : Nat) : Nat := bytesAt m (4 + off) n

/-- GetTID. -/
def execGetTid (bind : Nat) (req : List Byte) (s : State) : Result :=
  s.pldmServe bind req 0 2 (fun s _ => (s, 0, leBytes 1 s.mctp.tid))

/-- SetTID. -/
def execSetTid (bind : Nat) (req : List Byte) (s : State) : Result :=
  s.pldmServe bind req 0 1 (fun s m =>
    let t := pldmArg m 0 1
    if t = 0 ∨ t = 0xFF then (s, 2, []) else ({ s with mctp := { s.mctp with tid := t } }, 0, []))

/-- CRC-32 of bytes, as PLDM transfers carry it. -/
def crcBit (c : Nat) : Nat := if c % 2 = 1 then c / 2 ^^^ 0xEDB88320 else c / 2
def crc32 (bs : List Byte) : Nat :=
  (bs.foldl (fun c b => crcBit (crcBit (crcBit (crcBit (crcBit (crcBit (crcBit (crcBit (c ^^^ b.toNat))))))))) 0xFFFFFFFF) ^^^ 0xFFFFFFFF

/-- The PLDM types supported. -/
def pldmTypes : List Nat := [0, 2, 5]

/-- GetPLDMVersion: which version of a type's document is implemented is left open (log entry 8). -/
def execGetPldmVersion (bind : Nat) (req : List Byte) (s : State) : Result :=
  s.pldmServe bind req 0 3 (fun s m =>
    if pldmTypes.contains (pldmArg m 5 1) = false then (s, 0x83, [])
    else
      let (s, v) := s.drawBytes 4
      (s, 0, leBytes 4 0 ++ leBytes 1 5 ++ v ++ leBytes 4 (crc32 v)))

/-- GetPLDMTypes. -/
def execGetPldmTypes (bind : Nat) (req : List Byte) (s : State) : Result :=
  s.pldmServe bind req 0 4 (fun s _ => (s, 0, leBytes 8 (maskOf pldmTypes)))

/-- The commands of types 0 and 2. -/
def pldmCommands : Nat → List Nat
  | 0 => [1, 2, 3, 4, 5]
  | 2 => [0x11, 0x21, 0x50, 0x51]
  | _ => []

/-- Requests of a firmware update (DSP0267). Log entry 27. -/
def pldmUpdateCommands : List Nat := [1, 2, 0x10, 0x13, 0x14, 0x1A, 0x1B, 0x1C, 0x1D]

/-- GetPLDMCommands: the commands of a type. -/
def execGetPldmCommands (bind : Nat) (req : List Byte) (s : State) : Result :=
  s.pldmServe bind req 0 5 (fun s m =>
    let t := pldmArg m 0 1
    if pldmTypes.contains t = false then (s, 0x83, [])
    else (s, 0, leBytes 32 (maskOf (if t = 5 then pldmUpdateCommands else pldmCommands t))))

/-! ## Sensors -/

/-- The numeric sensors, numbered from 1 in the order of the sensor table: 18 islands, 8 stacks, 4 isle rails, the package, 4 isle
points with CAP. Log entry 27. -/
def numericSensors : Nat := 35

/-- The state sensors, numbered on: 35 straits, 24 Jumel ports, 8 functions. Log entry 27. -/
def stateSensors : Nat := 67

/-- The reading of a numeric sensor; what a power sensor reads is left open (log entry 8). -/
def State.numericReading (s : State) (id : Nat) : State × Nat :=
  let k := id - 1
  if k < 18 then (s, s.fld .HBR_TEMP_TEMP_C k)
  else if k < 26 then (s, s.fld .MEM_STACK_STAT_TEMP_C (k - 18))
  else if k < 31 then (s.drawn, s.free % 2 ^ 16)
  else (s, s.fld .STR_ISLAND_CLK_POINT (k - 31) + 256 * s.fld .HBR_GOV_POINT_CAP (k - 31))

/-- The reading of a state sensor. -/
def State.stateReading (s : State) (id : Nat) : Nat :=
  let k := id - 1 - numericSensors
  if k < 35 then s.straitState k
  else if k < 59 then s.fld .JL_PORT_STAT_STATE (k - 35)
  else s.fnStateOf (k - 58)

/-- GetPDRRepositoryInfo: one record a sensor; times and sizes are left open (log entry 8). -/
def execGetPdrRepositoryInfo (bind : Nat) (req : List Byte) (s : State) : Result :=
  s.pldmServe bind req 2 0x50 (fun s _ =>
    let (s, t) := s.drawBytes 26
    let (s, z) := s.drawBytes 9
    (s, 0, leBytes 1 0 ++ t ++ leBytes 4 (numericSensors + stateSensors) ++ z))

/-- GetPDR: the record of a sensor: its header and number; the rest is left open (log entry 8). -/
def execGetPdr (bind : Nat) (req : List Byte) (s : State) : Result :=
  s.pldmServe bind req 2 0x51 (fun s m =>
    let h := max 1 (pldmArg m 0 4)
    if numericSensors + stateSensors < h then (s, 0x82, [])
    else
      let n := s.free % 64
      let (s, tail) := s.drawn.drawBytes n
      let body := leBytes 2 0 ++ leBytes 2 h ++ tail
      let recd := leBytes 4 h ++ leBytes 1 1 ++ leBytes 1 (if h ≤ numericSensors then 2 else 4) ++ leBytes 2 0 ++ leBytes 2 body.length ++ body
      (s, 0, leBytes 4 (if h = numericSensors + stateSensors then 0 else h + 1) ++ leBytes 4 0 ++ leBytes 1 5 ++ leBytes 2 recd.length ++ recd))

/-- GetSensorReading: a 16-bit reading of a numeric sensor. -/
def execGetSensorReading (bind : Nat) (req : List Byte) (s : State) : Result :=
  s.pldmServe bind req 2 0x11 (fun s m =>
    let id := pldmArg m 0 2
    if id = 0 ∨ numericSensors < id then (s, 0x80, [])
    else
      let (s, v) := s.numericReading id
      (s, 0, leBytes 1 2 ++ leBytes 1 0 ++ leBytes 1 0 ++ leBytes 1 1 ++ leBytes 1 1 ++ leBytes 1 1 ++ leBytes 2 v))

/-- GetStateSensorReadings: the state of a state sensor; the one before it is left open (log entry 8). -/
def execGetStateSensorReadings (bind : Nat) (req : List Byte) (s : State) : Result :=
  s.pldmServe bind req 2 0x21 (fun s m =>
    let id := pldmArg m 0 2
    if id ≤ numericSensors ∨ numericSensors + stateSensors < id then (s, 0x80, [])
    else
      let (s, p) := s.drawBytes 1
      let v := leBytes 1 (s.stateReading id)
      (s, 0, leBytes 1 1 ++ leBytes 1 0 ++ v ++ p ++ v))

/-- A PLDM request that the device supports. -/
def pldmSupported (m : List Byte) : Bool :=
  let t := bytesAt m 2 1 % 64
  (if t = 5 then pldmUpdateCommands else pldmCommands t).contains (bytesAt m 3 1)

/-- Any other PLDM request is answered as an unsupported command; not ready while BOOTING, a request of type 5 too (R450). -/
def execPldmUnsupported (bind : Nat) (req : List Byte) (s : State) : Result :=
  s.mctpServe bind req (fun m => isPldmReq m && (!pldmSupported m || (bytesAt m 2 1 % 64 == 5 && !s.ready)))
    (fun s m => (s, pldmRsp m (if s.ready then 5 else 4) []))

/-- The request of type 5 that waits in the mailbox. -/
def State.updateRequest (s : State) : Option (List Byte) :=
  let m := storeGet [] s.mctp.incoming 1
  if s.messageWaits 1 ∧ isPldmReq (m.drop 3) = true ∧ bytesAt m 5 1 % 64 = 5 ∧ pldmSupported (m.drop 3) = true then some (m.take 2 ++ m.drop 3) else none

/-- Answer the request of a firmware update that waits in the mailbox: SUCCESS, with data that DSP0267 lays out and the model leaves
open (log entries 8 and 27). -/
def State.updateAnswer (s : State) (req : List Byte) : State :=
  match s.mctpTake 1 req with
  | none => s
  | some s =>
    let n := s.free % 64
    let (s, data) := s.drawn.drawBytes n
    s.mctpSend 1 (bytesAt req 0 1) false (bytesAt req 1 1 % 8) (pldmRsp (reqMsg req) 0 data)

/-- A step of a PLDM firmware update (R451, R462): a request of it that waits in the mailbox is answered; UpdateComponent, or an
exchange whose requests the model does not see, stages its component from a host address as HBR_FW_CTL.STAGE does. Log entry 27. -/
def execPldmFirmwareUpdate (bind src : Nat) (s : State) : Result :=
  if s.ready = false ∨ ¬ (bind = 1 ∨ (bind = 0 ∧ s.mctp.i3c.isSome = true)) then ok s else
  match (if bind = 1 then s.updateRequest else none) with
  | some req =>
    let s := s.updateAnswer req
    ok (if bytesAt (reqMsg req) 3 1 = 0x14 then s.stageFw (src / 4096 * 4096) else s)
  | none => ok (s.stageFw (src / 4096 * 4096))

/-! ## The mailbox register (R461) -/

/-- A request that some command answers. -/
def mctpKnown (m : List Byte) : Bool :=
  [1, 2, 4, 5].any (fun c => isControl c m) || isPldmReq m || (bytesAt m 0 1 % 128 == 5 && bit (bytesAt m 2 1) 7)

/-- A whole message stands in the mailbox: a request is taken when it is served; any other is taken at once, a control request
that is not supported with the answer that DSP0236 gives it. Log entry 27. -/
def State.mailboxTakes (s : State) : State :=
  let m := storeGet [] s.mctp.incoming 1
  let msg := m.drop 3
  if mctpKnown msg then s.setFld .HBR_MCTP_CTL_IN_FREE 0 0 0
  else
    let t : State := { s with mctp := { s.mctp with incoming := storeErase s.mctp.incoming 1 } }
    if bytesAt msg 0 1 % 128 = 0 ∧ bit (bytesAt msg 1 1) 7 = true then t.mctpSend 1 (bytesAt m 0 1) false (bytesAt m 1 1 % 8) (controlRsp msg 5 [])
    else t

/-- A write of HBR_MCTP_CTL by function 0: OUT_ACK frees the outgoing packet and lets the next in; IN_GO takes the packet of
HBR_MCTP_IN while IN_FREE is 1, and IN_FREE returns once it has been taken: with the last packet of a message, when that is
served. -/
def State.writeMctpCtl (s : State) (fn : Nat) (w : Word) : State :=
  if fn ≠ 0 ∨ s.ready = false then s else
  let s := s.writeReg .HBR_MCTP_CTL 0 0 w
  let s := if bit w.toNat 25 then ((s.setFld .HBR_MCTP_CTL_OUT_VALID 0 0 0).setFld .HBR_MCTP_CTL_OUT_LEN 0 0 0).mailboxFill else s
  if bit w.toNat 0 ∧ s.fld .HBR_MCTP_CTL_IN_FREE = 1 then
    let n := s.fld .HBR_MCTP_CTL_IN_LEN
    let pkt := ((List.range 16).flatMap (fun j => leBytes 8 (s.reg .HBR_MCTP_IN 0 j).toNat)).take n
    let s := s.mctpPacket 1 pkt
    if s.messageWaits 1 then s.mailboxTakes else s
  else s

/-- A write of HBR_MCTP_CTL.IN_GO (R461). -/
def execMctpInGo (fn : Nat) (w : Word) (s : State) : Result := ok (s.writeMctpCtl fn w)

/-- A write of HBR_MCTP_CTL.OUT_ACK (R461). -/
def execMctpOutAck (fn : Nat) (w : Word) (s : State) : Result := ok (s.writeMctpCtl fn w)

end Sys2Proof.Machine
end

