-- ==== Sys2Proof/Machine/Pins.lean ====
section
/-! DEFINITION. Pins: reset and fault signals, REFCLK and power, I3C addresses, the JTAG port (R464-R480). -/

namespace Sys2Proof.Machine

/-! ## Reset signals (R447, R466, R475) -/

/-- An input that holds a package cold reset is asserted: every port goes DOWN (R317), the cold reset starts, or starts again. Log
entries 51 and 54. -/
def State.coldAssert (s : State) (pins : Pins) : State :=
  let t := s.portsReset.resetBase false
  { t with pins := { t.pins with resetN := pins.resetN, pwrGoodN := pins.pwrGoodN, testEn := pins.testEn } }

/-- An input that held a package cold reset is released: the boot starts with the last one, which names the cause, or the lowest
code among those released in one sampling cycle, which are those of one tick (R475). A thermal trip while the device was held lets
nothing start (R476). Log entry 54. -/
def State.coldRelease (s : State) (pins : Pins) (cause : Nat) : State :=
  let low := match s.pins.released with
    | some (t, c) => if t = s.ticks then min c cause else cause
    | none => cause
  let s := { s with pins := { pins with released := some (s.ticks, low) } }
  if s.heldInReset ∨ s.pins.tripped then s else s.bootStart low

/-- RESET_N goes low. -/
def execResetNAssert (s : State) : Result := if s.pins.resetN then ok (s.coldAssert { s.pins with resetN := false }) else ok s

/-- RESET_N goes high. -/
def execResetNRelease (s : State) : Result := if s.pins.resetN then ok s else ok (s.coldRelease { s.pins with resetN := true } 0)

/-- PWR_GOOD_N goes high. -/
def execPwrGoodNAssert (s : State) : Result := if s.pins.pwrGoodN then ok s else ok (s.coldAssert { s.pins with pwrGoodN := true })

/-- PWR_GOOD_N goes low. -/
def execPwrGoodNRelease (s : State) : Result := if s.pins.pwrGoodN then ok (s.coldRelease { s.pins with pwrGoodN := false } 1) else ok s

/-- TEST_EN goes high. -/
def execTestEnAssert (s : State) : Result := if s.pins.testEn then ok s else ok (s.coldAssert { s.pins with testEn := true })

/-- TEST_EN goes low. -/
def execTestEnRelease (s : State) : Result := if s.pins.testEn then ok (s.coldRelease { s.pins with testEn := false } 5) else ok s

/-- REFCLK stops or leaves its range: with PWR_GOOD_N low the results are unpredictable for the whole device; with it high the
package is held in cold reset (R474). Log entries 28 and 60. -/
def execRefclkFault (s : State) : Result := if s.pins.pwrGoodN then ok s else .fault .refclkLost

/-- Test-Logic-Reset of IEEE 1149.1, which TRST_N low or no power gives: IDCODE is loaded, and the device drives its lands (R479,
R480). Log entry 7. -/
def testLogicReset : Jtag := {}

/-- Power is lost without warning: the committed journal, the firmware slots and the fuses remain (R455, R472); the inputs stand at
their internal pulls (R475). What of the journal's queue was being programmed is torn at the next boot (R459). Log entry 54. -/
def execPowerLoss (s : State) : Result :=
  let t := s.resetBase false
  ok { t with pins := {}, jtag := testLogicReset }

/-- THERMTRIP_N is driven low (R476). Log entry 51. -/
def State.thermTripN (s : State) : Bool := !s.pins.tripped

/-- FAULT_N is driven low while a cause stands (R477). -/
def State.faultN (s : State) : Bool :=
  !(s.pins.readyLate || s.fld .STR_FAIL_MAP_FAILED != 0 || s.fld .SEC_DEV_STAT_DRBG == 2 || s.pins.tripped)

/-- The code on ISLE_PT of a die: point 0 while the device is held in reset or boots (R468). -/
def State.isleCode (s : State) (die : Nat) : Nat := storeGet 0 s.pins.codes die

/-! ## I3C (R478) -/

/-- ENTDAA gives the device a dynamic address, unless it has one. The bus is reachable once the boot ROM has started. -/
def execEntdaa (addr : Nat) (s : State) : Result :=
  if s.heldInReset = false ∧ s.mctp.i3c = none ∧ addr < 128 then ok { s with mctp := { s.mctp with i3c := some addr } } else ok s

/-- SETDASA gives it one through its static address 0x48 + I3C_ADDR. -/
def execSetdasa (static addr : Nat) (s : State) : Result :=
  if s.heldInReset = false ∧ s.mctp.i3c = none ∧ addr < 128 ∧ static = 0x48 + s.mctp.i3cStrap % 4 then
    ok { s with mctp := { s.mctp with i3c := some addr } }
  else ok s

/-! ## JTAG (R479, R480) -/

/-- The instructions that take effect only while RESET_N is low. -/
def JtagOp.needsReset : JtagOp → Bool
  | .extest => true
  | .clamp => true
  | .highz => true
  | .extestPulse => true
  | .extestTrain => true
  | _ => false

/-- The instruction as which the port acts: those that need RESET_N low act as BYPASS at any other time. Log entry 7. -/
def State.jtagActs (s : State) : JtagOp := if s.jtag.op.needsReset && s.pins.resetN then .bypass else s.jtag.op

/-- Load an instruction. Log entry 7. -/
def State.jtagLoad (s : State) (op : JtagOp) : State := { s with jtag := { s.jtag with op := op } }

/-- IDCODE (R479): stepping, part number, manufacturer, 1. Log entry 7. -/
def State.idcodeWord (s : State) : Nat := s.pkg.stepping % 16 * 2 ^ 28 + 0x0B0F * 2 ^ 12 + 0x0FA * 2 + 1

/-- The register between TDI and TDO, as it is captured: one bit 0 for BYPASS, IDCODE, or the lands at the boundary cells. Log
entry 7. -/
def State.jtagCapture (s : State) : List Bool :=
  match s.jtagActs with
  | .bypass => [false]
  | .clamp => [false]
  | .highz => [false]
  | .idcode => (List.range 32).map (bit s.idcodeWord)
  | _ => s.jtag.captured

/-- What drives the output lands: the device, the boundary cells, or nothing (HIGHZ). -/
inductive LandDrive where
  | device
  | cells (v : List Bool)
  | released
  deriving DecidableEq, Repr

/-- What drives the output lands (R480). Log entry 7. -/
def State.jtagDrives (s : State) : LandDrive :=
  match s.jtagActs with
  | .extest => .cells s.jtag.cells
  | .clamp => .cells s.jtag.cells
  | .extestPulse => .cells s.jtag.cells
  | .extestTrain => .cells s.jtag.cells
  | .highz => .released
  | _ => .device

/-- EXTEST, EXTEST_PULSE or EXTEST_TRAIN is loaded: while it acts, the scan captures the lands, whose values the board gives:
free, one a cell; values shifted in come with SAMPLE/PRELOAD. Log entry 7. -/
def State.jtagExtest (s : State) (op : JtagOp) : State :=
  let s := s.jtagLoad op
  if s.jtagActs = .bypass then s else
  let lands := (List.range (max s.jtag.cells.length s.jtag.captured.length)).map (bit s.free)
  { s.drawn with jtag := { s.jtag with captured := lands } }

def execBypass (s : State) : Result := ok (s.jtagLoad .bypass)
def execIdcode (s : State) : Result := ok (s.jtagLoad .idcode)

/-- SAMPLE/PRELOAD captures the lands, and loads the boundary cells where a value is shifted in. -/
def execSamplePreload (preload : Option (List Bool)) (captured : List Bool) (s : State) : Result :=
  ok { s with jtag := { op := .samplePreload, cells := preload.getD s.jtag.cells, captured := captured } }

def execExtest (s : State) : Result := ok (s.jtagExtest .extest)
def execClamp (s : State) : Result := ok (s.jtagLoad .clamp)
def execHighz (s : State) : Result := ok (s.jtagLoad .highz)
def execExtestPulse (s : State) : Result := ok (s.jtagExtest .extestPulse)
def execExtestTrain (s : State) : Result := ok (s.jtagExtest .extestTrain)

end Sys2Proof.Machine
end

