-- ==== Sys2Proof/Machine/Trust.lean ====
section
/-! DEFINITION. The SPDM responder and its measurement blocks (R420-R427). The message layouts are those of DSP0274, which the spec
names and does not restate (log entry 27). -/

namespace Sys2Proof.Machine

/-! ## Messages -/

/-- An SPDM request of a code. -/
def isSpdm (code : Nat) (m : List Byte) : Bool := bytesAt m 0 1 % 128 == 5 && bytesAt m 2 1 == code

/-- The SPDM request codes that the device serves (R422). -/
def spdmCodes : List Nat := [0x84, 0xE1, 0xE3, 0x81, 0x82, 0x83, 0xE0]

/-- An SPDM message: version, code, two parameters, the rest. Log entry 27. -/
def spdmMsg (ver code p1 p2 : Nat) (data : List Byte) : List Byte :=
  leBytes 1 5 ++ leBytes 1 ver ++ leBytes 1 code ++ leBytes 1 p1 ++ leBytes 1 p2 ++ data

/-- ERROR with a code and its data byte: 1 invalid request, 4 unexpected request, 7 unsupported request. -/
def spdmError (code data : Nat) : List Byte := spdmMsg 0x13 0x7F code data []

/-- ERROR ResponseNotReady, with which requests are answered while BOOTING (R450); its waiting times are left open (log entry 8). -/
def State.spdmNotReady (s : State) (m : List Byte) : State × List Byte :=
  let (s, x) := s.drawBytes 3
  (s, spdmMsg 0x13 0x7F 0x42 0 (x.take 1 ++ (m.drop 2).take 1 ++ x.drop 1))

/-- Serve an SPDM request: not ready while BOOTING; of version 1.3, but for GET_VERSION, else unsupported (R422); and only after the
requests that come before it in the exchange: `need` of 1 GET_VERSION, 2 GET_CAPABILITIES, 4 NEGOTIATE_ALGORITHMS. Log entry 27. -/
def State.spdmServe (s : State) (bind : Nat) (req : List Byte) (code need done : Nat) (f : State → List Byte → State × List Byte) : Result :=
  s.mctpServe bind req (isSpdm code) (fun s m =>
    let seen := storeGet 0 s.mctp.spdm bind
    if s.ready = false then s.spdmNotReady m
    else if bytesAt m 1 1 ≠ 0x13 ∧ code ≠ 0x84 then (s, spdmError 7 code)
    else if seen &&& need ≠ need then (s, spdmError 4 0)
    else
      let s := if done = 0 then s else
        { s with mctp := { s.mctp with spdm := storeSet 0 s.mctp.spdm bind ((if done = 1 then 0 else seen) ||| done) } }
      f s m)

/-- GET_VERSION: 1.3 only. -/
def execGetVersion (bind : Nat) (req : List Byte) (s : State) : Result :=
  s.spdmServe bind req 0x84 0 1 (fun s _ => (s, spdmMsg 0x10 4 0 0 (leBytes 1 0 ++ leBytes 1 1 ++ leBytes 2 0x1300)))

/-- GET_CAPABILITIES: CERT_CAP, CHAL_CAP, MEAS_CAP with signatures; times and sizes are left open (log entry 8). -/
def execGetCapabilities (bind : Nat) (req : List Byte) (s : State) : Result :=
  s.spdmServe bind req 0xE1 1 2 (fun s _ =>
    let (s, x) := s.drawBytes 9
    (s, spdmMsg 0x13 0x61 0 0 (leBytes 1 0 ++ x.take 1 ++ leBytes 2 0 ++ leBytes 4 0x16 ++ x.drop 1)))

/-- NEGOTIATE_ALGORITHMS: Ed448, SHA3-512, measurements as raw bit streams, as far as the requester offers them. -/
def execNegotiateAlgorithms (bind : Nat) (req : List Byte) (s : State) : Result :=
  s.spdmServe bind req 0xE3 3 4 (fun s m =>
    (s, spdmMsg 0x13 0x63 0 0 (leBytes 2 36 ++ leBytes 1 (bytesAt m 7 1 % 2) ++ leBytes 1 0 ++ leBytes 4 1 ++ leBytes 4 (bytesAt m 9 4 &&& 0x800) ++
      leBytes 4 (bytesAt m 13 4 &&& 0x20) ++ leBytes 16 0)))

/-- The chain of R420 as SPDM carries it in slot 0: its length, the root's hash, the certificates (R422). Log entries 15 and 27. -/
def spdmChain : List Byte :=
  leBytes 2 (4 + 64 + deviceChain.length) ++ leBytes 2 0 ++ sha3of512 (Config.deviceCert 2) ++ deviceChain

/-- The digest of the certificate chain. -/
def chainDigest : List Byte := sha3of512 spdmChain

/-- GET_DIGESTS: slot 0. -/
def execGetDigests (bind : Nat) (req : List Byte) (s : State) : Result :=
  s.spdmServe bind req 0x81 7 0 (fun s _ => (s, spdmMsg 0x13 1 1 1 chainDigest))

/-- GET_CERTIFICATE: a portion of the chain of slot 0, the only one (R422). -/
def execGetCertificate (bind : Nat) (req : List Byte) (s : State) : Result :=
  s.spdmServe bind req 0x82 7 0 (fun s m =>
    let off := bytesAt m 5 2
    let n := spdmChain.length
    if bytesAt m 3 1 % 16 ≠ 0 then (s, spdmError 7 0x82)
    else if n ≤ off then (s, spdmError 1 0)
    else
      let part := (spdmChain.drop off).take (bytesAt m 7 2)
      (s, spdmMsg 0x13 2 0 0 (leBytes 2 part.length ++ leBytes 2 (n - off - part.length) ++ part)))

/-! ## Measurements (R423-R427) -/

/-- The firmware measurement of the running image of a component. -/
def State.runningMeas (s : State) (k : Nat) : List Byte := s.slotMeas (2 * k + natOf (bit (s.fld .HBR_STAT_ACTIVE_B) k))

/-- The update record (R426). -/
def State.updateRecord (s : State) : List Byte :=
  let mask := s.fld .HBR_FW_STAT_STAGED
  leBytes 1 mask ++ leBytes 7 0 ++ [0, 1, 2, 3].flatMap (fun k =>
    if bit mask k then s.stagedMeas k else leBytes 64 0)

/-- The indices of the measurement blocks. -/
def measIndices : List Nat := [1, 2, 3, 4, 5, 6, 7, 8, 0x11, 0x12, 0x13, 0x14, 0x15, 0x16, 0x17, 0x18]

/-- The content of a block. -/
def State.measContent (s : State) (i : Nat) : List Byte :=
  if i = 1 then s.pkg.bootRom
  else if i ≤ 5 then s.runningMeas (i - 2)
  else if i = 6 then shake256 64 (leBytes 8 s.svnWord ++ Config.rootDigest)
  else if i = 7 then shake256 64 ([1, 2, 3, 4, 5, 6, 7, 8].flatMap s.grantBytes)
  else if i = 8 then s.updateRecord
  else s.functionRecord (i - 0x10)

/-- The DMTF type of a block's value, a raw bit stream: ROM, firmware, configurations. -/
def measType (i : Nat) : Nat := if i = 1 then 0x80 else if i ≤ 5 then 0x81 else if i = 6 then 0x82 else 0x83

/-- A block. -/
def State.measBlock (s : State) (i : Nat) : List Byte :=
  let v := s.measContent i
  leBytes 1 i ++ leBytes 1 1 ++ leBytes 2 (v.length + 3) ++ leBytes 1 (measType i) ++ leBytes 2 v.length ++ v

/-- GET_MEASUREMENTS: the number of blocks, one block, or all, taken at one count (R425); the manifest of index 0xFD and a slot
other than 0 are unsupported (R422). The answer goes with a fresh nonce and, asked for, a signature by the identity key; both are
free values (R421; log entry 8). -/
def execGetMeasurements (bind : Nat) (req : List Byte) (s : State) : Result :=
  s.spdmServe bind req 0xE0 7 0 (fun s m =>
    let op := bytesAt m 4 1
    let signed := bit (bytesAt m 3 1) 0
    let ctx := if signed then (m.drop 38).take 8 else (m.drop 5).take 8
    if op = 0xFD ∨ (signed = true ∧ bytesAt m 37 1 % 16 ≠ 0) then (s, spdmError 7 0xE0)
    else if op ≠ 0 ∧ op ≠ 0xFF ∧ measIndices.contains op = false then (s, spdmError 1 0)
    else
      let is := if op = 0 then [] else if op = 0xFF then measIndices else [op]
      let recd := is.flatMap s.measBlock
      let (s, nonce) := s.drawBytes 32
      let (s, sig) := s.drawBytes (if signed then 114 else 0)
      (s, spdmMsg 0x13 0x60 (if op = 0 then measIndices.length else 0) 0
        (leBytes 1 is.length ++ leBytes 3 recd.length ++ recd ++ nonce ++ leBytes 2 0 ++ ctx ++ sig)))

/-- CHALLENGE: the chain's digest, a nonce, the summary of the measurements asked for, a signature by the identity key. Nonce and
signature are free values, and so is a summary of the trusted part alone, which the spec does not delimit (log entry 8). -/
def execChallenge (bind : Nat) (req : List Byte) (s : State) : Result :=
  s.spdmServe bind req 0x83 7 0 (fun s m =>
    let kind := bytesAt m 4 1
    if bytesAt m 3 1 % 16 ≠ 0 then (s, spdmError 7 0x83)
    else
      let (s, nonce) := s.drawBytes 32
      let (s, tcb) := s.drawBytes (if kind = 1 then 64 else 0)
      let sum := if kind = 0xFF then sha3of512 (measIndices.flatMap s.measBlock) else tcb
      let (s, sig) := s.drawBytes 114
      (s, spdmMsg 0x13 3 0 1 (chainDigest ++ nonce ++ sum ++ leBytes 2 0 ++ (m.drop 37).take 8 ++ sig)))

/-- Any other SPDM request is answered with UnsupportedRequest (R422); not ready while BOOTING. -/
def execSpdmUnsupported (bind : Nat) (req : List Byte) (s : State) : Result :=
  s.mctpServe bind req (fun m => bytesAt m 0 1 % 128 == 5 && bit (bytesAt m 2 1) 7 && !spdmCodes.contains (bytesAt m 2 1)) (fun s m =>
    if s.ready then (s, spdmError 7 (bytesAt m 2 1)) else s.spdmNotReady m)

end Sys2Proof.Machine
end

