-- ==== Sys2Proof/Machine/Vector.lean ====
section
/-! DEFINITION. The vector engine's commands (R180-R187). -/

namespace Sys2Proof.Machine

/-- The pieces of a range within one 32-byte word each. -/
def wordPieces (e : Nat × List Byte) : List (Nat × List Byte) :=
  if e.2.isEmpty then [] else
  (List.range ((e.1 + e.2.length - 1) / 32 - e.1 / 32 + 1)).map (fun k =>
    let lo := max e.1 (32 * (e.1 / 32 + k))
    (lo, (e.2.drop (lo - e.1)).take (32 * (e.1 / 32 + k + 1) - lo)))

/-- What the chain may read otherwise than the scratchpad holds it: the words that unfinished matrix operations write, new,
and those that operations have written since the chain started, old (R183). -/
def State.vxOthers (s : State) (islet : Nat) : List (Nat × List Byte) :=
  (s.mxAhead islet ++ (s.islet islet).vx.past.reverse).flatMap wordPieces

/-- The scratchpad as the running chain reads it: each such word is the old one or the new one, as a free choice says. -/
def State.vxSeen (s : State) (islet : Nat) : Memory :=
  (s.vxOthers islet).zipIdx.foldl (fun m e =>
    if Config.freeNat (s.freeCtr + e.2) % 2 = 1 then memWrite m e.1.1 e.1.2 else m) (s.islet islet).sp

/-- The row lengths a chain takes as it starts: each length word old or new where an unfinished matrix operation writes it (R172,
R183). -/
def State.rowLengths (s : State) (islet n : Nat) : State × List Nat :=
  match s.vxProgram islet n with
  | none => (s, [])
  | some p =>
    if p.lenSrc = 1 then
      let sp := s.vxSeen islet
      ({ s with freeCtr := s.freeCtr + (s.vxOthers islet).length }, (List.range p.rows).map (fun r => memNat sp (p.lenOff + 8 * r) 4))
    else (s, [])

/-- A chain runs: its program, the count it began at and the row lengths it takes now, with what waits behind it (R172,
R181). Log entry 20. -/
def State.chainRuns (s : State) (islet n flag : Nat) (rest : List (Nat × Nat)) : State :=
  let (s, lens) := s.rowLengths islet n
  let s := s.modIslet islet (fun x => { x with vx := { x.vx with
    queue := rest, run := some (n, flag), started := s.count (islDie islet), waitFrom := none, lens := lens, past := [] } })
  ((s.setFld .VX_STAT_PROG islet 0 n).setFld .VX_STAT_BUSY islet 0 1).queueStat islet

/-- The head of an islet's VX queue starts: none runs, and no COMBINE does (R181). A program that is missing or breaks the
chapter's limits is unpredictable within the partition (R49, R155, R188). Log entry 22. -/
def execVxChainStart (islet : Nat) (s : State) : Result :=
  let x := s.islet islet
  match x.vx.queue with
  | [] => ok s
  | (n, flag) :: rest =>
    if ¬ islet < 384 ∨ x.vx.run.isSome ∨ (x.mx.combine.isSome && s.gangRow islet + 1 == gangRows (s.gangOf islet)) then ok s
    else match s.vxProgram islet n with
      | none => .fault (.unpredictable (s.isletFn islet))
      | some p =>
        if n < 512 ∧ p.legal (isLagoon islet) = true ∧ p.sideLegal = true then
          ok (s.chainRuns islet n flag rest)
        else .fault (.unpredictable (s.isletFn islet))

/-- What the running chain of an islet works on, matrix operations beside it (R183). -/
def State.chainCtx (s : State) (islet : Nat) (p : VProg) : VCtx := { s.vxCtx islet p with sp := s.vxSeen islet }

/-- The free code of a register element that another element of the chain writes: R184 leaves registers out, so the value
read is a free value, of the program and its operands alone (R185; log entry 24). -/
def vxFree (prog : List Byte) (x : VCtx) : FreeCode :=
  let ws := x.written noFree
  let codes := x.operandCodes
  fun i r c d =>
    let t := x.prog.inS i
    let q := (x.place t r c, r, d)
    if t.src = 2 ∧ clashes ws q = true then
      some (Config.chainRead prog codes ((i * 2 ^ 16 + r) * 2 ^ 16 + c) % 2 ^ fmtBits t.fmt)
    else none

/-- The record of the running chain's program. -/
def Islet.chainRecord (x : Islet) : List Byte :=
  match x.vx.run with
  | none => []
  | some (n, _) => storeGet [] x.vx.progs n

/-- The rows of a chain have run: outputs, reductions, count and flags are written, the event flag set (R158-R183). A
FLAG_OFFSET that is no multiple of 32, for which R180 and R188 give no rule, is written byte by byte where it lies (DESIGN
CHOICE, log entry 64). -/
def State.chainEnds (s : State) (islet flag : Nat) (p : VProg) (stalls spCorrected vxCorrected : Nat) : State :=
  let x := s.chainCtx islet p
  let o := (List.range p.rows).foldl (x.runRow (vxFree (s.islet islet).chainRecord x))
    { sp := (s.islet islet).sp, vregs := x.vregs, lagoon := x.lagoon, flags := 0, count := 0 }
  let sp := if p.flagOff = 0xFFFFFFFF then o.sp
    else memWrite o.sp p.flagOff (leBytes 4 o.flags ++ leBytes 4 (o.count % 2 ^ 32) ++ leBytes 24 0)
  let T := x.cycles + stalls
  let die := islDie islet
  let s := { s with freeCtr := s.freeCtr + (s.vxOthers islet).length }
  let s := s.setCount die (max (s.count die) ((s.islet islet).vx.started + T))
  let s := s.modIslet islet (fun i => { i with sp := sp, vx := { i.vx with
    vregs := o.vregs, lagoon := o.lagoon, run := none, past := [] } })
  let s := (s.addFld .VX_BUSY_CYCLES islet 0 T).satFld .VX_STALLS_BANK_STALLS islet 0 stalls
  let s := (s.satFld .ISL_SP_ERR_CORRECTED islet 0 spCorrected).satFld .VX_ERR_CORRECTED islet 0 vxCorrected
  let s := s.setFld .VX_FLAGS_LAST islet 0 o.flags
  let s := s.setFld .VX_FLAGS_STICKY islet 0 (s.fld .VX_FLAGS_STICKY islet ||| o.flags)
  let s := if p.mode = 0 then s else s.setFld .VX_COUNT_TRUE_COUNT islet 0 (o.count % 2 ^ 32)
  let s := (s.addFld .VX_STAT_CHAINS_DONE islet 0 1).setFld .VX_STAT_BUSY islet 0 0
  s.setFlags islet (2 ^ flag)

/-- The running chain of an islet completes: its outputs, reductions, counts and flags are written, its event flag set
(R158-R183). Overlapping streams and addresses beyond 2 MiB are unpredictable within the partition (R184, R189). `stalls`
beats met the matrix array at port A; `spCorrected` and `vxCorrected` reads met a single-bit error. Log entries 20 and 24. -/
def execVxChainComplete (islet stalls spCorrected vxCorrected : Nat) (s : State) : Result :=
  match (s.islet islet).vx.run with
  | none => ok s
  | some (n, flag) =>
    match s.vxProgram islet n with
    | none => .fault (.unpredictable (s.isletFn islet))
    | some p =>
      if (s.chainCtx islet p).sound = false then .fault (.unpredictable (s.isletFn islet))
      else ok (s.chainEnds islet flag p stalls spCorrected vxCorrected)

end Sys2Proof.Machine
end

