-- ==== Sys2Proof/Machine/Window.lean ====
section
/-! DEFINITION. The control window (R7, R14-R16, R40, R105, R216, R247, R275, R314, R318, R345, R371, R376, R395, R428, R463, R484):
who sees which register, what a read gives and what a write does; and WRITE and READ_REQ flits delivered to the device. -/

namespace Sys2Proof.Machine
open Sys2Proof

/-! ## Blocks and visibility -/

/-- The registers of straits, Jumel ports and their device-wide registers, memory device-wide, and harbour: only function 0 writes
them (R40, R247, R318, R463). -/
def managedReg (r : Reg) : Bool :=
  let b := r.place.base
  (decide (0x10000 ≤ b) && decide (b < 0x20000)) || (decide (0x400100 ≤ b) && decide (b < 0x400400)) ||
  (decide (0x600000 ≤ b) && decide (b < 0x700000) && !r.place.perFn) || decide (0x901000 ≤ b)

/-- The first index of a register as a function's window shows it: its own number for a register each function has. -/
def ownIndex (r : Reg) (fn a : Nat) : Nat := if r.place.perFn then fn else a

/-- What a function's window shows; every other register reads as zero there and ignores writes. -/
def State.shows (s : State) (fn : Nat) (r : Reg) (a b : Nat) : Bool :=
  let p := r.place.base
  if p < 0x20000 then true
  else if p < 0x30000 then fn != 0
  else if p < 0x400000 then fn != 0 && s.isletFn a == fn
  else if p < 0x400100 then fn != 0
  else if p < 0x400200 then true
  else if p < 0x400300 then fn == 0 || bit (s.stacksOf fn) a
  else if p < 0x4F0000 then bit (partMl s.pkg.part) a && (fn == 0 || (s.boardPorts fn).contains a)
  else if p < 0x500000 then fn != 0 && ((s.fnState fn).stageRec b).isSome
  else if p < 0x600000 then partReef s.pkg.part && (fn == 0 || bit (s.stacksOf fn) a)
  else if p < 0x618000 then s.portPresent a && (fn == 0 || bit (s.portsOf fn) a)
  else if p < 0x700000 then
    match r with
    | .JL_CHAIN => true
    | .JL_UNREACH => true
    | .JL_FN_EVT => fn != 0
    | _ => fn == 0
  else if p < 0x780000 then
    match r with
    | .RED_CTX_MAP => true
    | .RED_EVT => fn != 0
    | .RED_DROPS => fn != 0
    | _ => fn == 0 || bit (s.fld .SEC_GRANT_RES_JOB_CTX fn) a
  else if p < 0x900000 then fn != 0
  else if p < 0x900800 then fn != 0
  else if p < 0x901000 then true
  else fn == 0

/-- A window is served: function 0's, and those of enabled functions (R309, R314, R400). -/
def State.windowOpen (s : State) (fn : Nat) : Bool := s.ready && (fn == 0 || s.fnLive fn)

/-! ## Reading -/

/-- Functions with a state, as a mask. -/
def State.fnMask (s : State) (st : Nat) : Nat := maskOf ([1, 2, 3, 4, 5, 6, 7, 8].filter (fun f => s.fnStateOf f == st))

/-- HBM frames granted to a function, withdrawn frames excluded (MEM_CAP). Log entry 37. -/
def State.hbmFrames (s : State) (fn : Nat) : Nat :=
  ((setBits (s.stacksOf fn) 8).map (fun st => partRows s.pkg.part - s.framesWithdrawn st)).sum

/-- Physical contexts granted to a function; for function 0, to any (RED_CTX_MAP). -/
def State.ctxMap (s : State) (fn : Nat) : Nat :=
  if fn = 0 then [1, 2, 3, 4, 5, 6, 7, 8].foldl (fun m f => m ||| s.fld .SEC_GRANT_RES_JOB_CTX f) 0 else s.fld .SEC_GRANT_RES_JOB_CTX fn

/-- OPT_SHARD_STAT for the shard that OPT_SHARD_SEL names: from its commit word, its record and its state. -/
def State.shardStat (s : State) (fn : Nat) : Nat :=
  let i := s.fld .OPT_SHARD_SEL_INDEX fn
  match (s.fnState fn).shardRec i with
  | none => 0xFFFFFFFF * 2 ^ 32
  | some r =>
    let w := s.peek fn (shardBase r) 32
    bytesAt w 0 4 * 2 ^ 32 + shardIslet r % 512 * 2 ^ 23 + storeGet 0 (s.opt fn).shards i % 16 * 16 + natOf (shardInPlace r) * 4 +
      natOf (bit (bytesAt w 9 1) 0) * 2 + bytesAt w 8 1 % 2

/-- What a read of a register is made of where it is more than the register's own word: tables, counts and states that the window
shows through it. -/
def State.shownOf (s : State) (fn : Nat) (r : Reg) (a b : Nat) : Option Nat :=
  match r with
  | .MEM_CAP => some (s.stacksOf fn % 256 * 2 ^ 56 + (s.rangesOf fn).length * 2 ^ 32 + s.hbmFrames fn)
  | .MEM_POOL => some (s.boardFree fn * 2 ^ 32 + s.hbmFree fn)
  | .MEM_ERR_COUNT => some (putBits (s.reg .MEM_ERR_COUNT fn).toNat 0 11 (s.fnState fn).segs.length)
  | .RED_CTX_MAP => some (s.ctxMap fn)
  | .OPT_SHARD_STAT => some (s.shardStat fn)
  | .SVC_INFO => some (s.commandDie fn * 2 ^ 16 + 0x40)
  | .SEC_SVN => some s.svnWord
  | .SEC_FN_ID => some fn
  | .SEC_DEV_STAT => some (putBits (putBits (s.reg .SEC_DEV_STAT).toNat 16 8 (s.fnMask fnEnabledState)) 24 8 (s.fnMask fnDraining))
  | .JL_ROUTE => some (s.routeOf a)
  | .MX_BUSY => some ((s.reg .MX_BUSY a b).toNat + (match (s.islet a).mx.busyFrom with
      | some c => s.count (islDie a) - c
      | none => 0))
  | .MEM_PIPE_BUSY => some (
      min (2 ^ 32 - 1) (s.fld .MEM_PIPE_BUSY_WAIT_KCYC fn b + s.stageWait fn b / 1000) +
      2 ^ 32 * min (2 ^ 32 - 1) (s.fld .MEM_PIPE_BUSY_BUSY_KCYC fn b + s.stageBusy fn b / 1000))
  | _ => none

/-- The word of a register in a function's window: the register's own, or what the state makes it, in the fields its table gives it
(R16: the rest reads as zero). -/
def State.windowWord (s : State) (fn : Nat) (r : Reg) (a b : Nat) : Word :=
  match s.shownOf fn r a b with
  | some n => BitVec.ofNat 64 (n &&& fieldMask r)
  | none => s.reg r a b

/-- A read of the register at an offset of a function's window; reserved offsets and what the window does not show read as
zero (R16). -/
def State.readRegister (s : State) (fn off : Nat) : Word :=
  match regAt off with
  | none => 0
  | some (r, i, b) =>
    let a := ownIndex r fn i
    if s.shows fn r a b then s.windowWord fn r a b else 0

/-! ## Writing -/

/-- The event source whose event register this is (R395). -/
def eventSource : Reg → Option Nat
  | .IMG_EVT => some 0
  | .MEM_EVT => some 1
  | .REEF_EVT => some 2
  | .RED_EVT => some 3
  | .OPT_EVT => some 4
  | .JL_FN_EVT => some 5
  | .SVC_EVT => some 6
  | _ => none

/-- A write of an event register: the bits written 1 are cleared, and where one was set the source is armed again (R395). -/
def State.clearEvents (s : State) (fn k : Nat) (r : Reg) (a b : Nat) (w : Word) : State :=
  let cleared := s.reg r a b &&& w &&& BitVec.ofNat 64 (accessMask r .RW1C)
  let s := s.writeReg r a b w
  if cleared = 0 then s else s.armEvent fn k

/-- A write of a register with no behaviour of its own, by the access types of its fields (R14). Log entry 16. -/
def State.plainWrite (s : State) (fn : Nat) (r : Reg) (a b : Nat) (w : Word) : State :=
  if managedReg r = (fn == 0) then s.writeReg r a b w else s

/-- A write of a register that the window shows: its behaviour where it has one. Log entry 16. -/
def State.windowWrites (s : State) (fn : Nat) (r : Reg) (a b : Nat) (w : Word) : Result :=
  match r with
  | .IMG_LOAD_CTL => ok (s.writeLoadCtl fn w)
  | .ISL_CTL => ok (s.writeIslCtl fn a w)
  | .MEM_MIG_CTL => ok (s.writeMigCtl fn w)
  | .MEM_XLATE_ADDR => execXlateLookup fn w s
  | .REEF_ISSUE => s.reefIssue fn a w
  | .JL_PORT_CTL => ok (s.writePortCtl fn a w)
  | .JL_ROUTE => ok (s.writeRoute fn a w)
  | .RED_JOB_CTL => ok (s.writeJobCtl fn a w)
  | .OPT_CTL => s.optCtlResult fn w
  | .SVC_EVT_ROUTE => ok (s.writeEvtRoute fn b w)
  | .SVC_Q_CMD_BASE => ok (if s.fld .SVC_Q_STATE_STATE a b = queueDisabled then s.writeReg r a b w else s)
  | .SVC_Q_CPL_BASE => ok (if s.fld .SVC_Q_STATE_STATE a b = queueDisabled then s.writeReg r a b w else s)
  | .SVC_Q_CFG => ok (s.writeQCfg fn b w)
  | .SVC_Q_DB => execQueueDoorbell fn b w s
  | .SVC_Q_CPL_DB => execCompletionDoorbell fn b w s
  | .SEC_FN_CTL => ok (s.writeFnCtl fn w)
  | .SEC_KEY_CTL => ok (s.writeKeyCtl fn w)
  | .SEC_GRANT_CTL => ok (s.writeGrantCtl fn a w)
  | .SEC_GRANT_ATOLLS => ok (s.writeGrant fn r a b w)
  | .SEC_GRANT_RES => ok (s.writeGrant fn r a b w)
  | .SEC_GRANT_PORTS => ok (s.writeGrant fn r a b w)
  | .SEC_GRANT_ML => ok (s.writeGrant fn r a b w)
  | .HBR_EVT => ok (s.writeHbrEvt fn w)
  | .HBR_EVT_ROUTE => ok (s.writeHbrRoute fn w)
  | .HBR_RESET_CTL => ok (s.writeResetCtl fn w)
  | .HBR_GOV_CFG => ok (s.writeGovCfg fn w)
  | .HBR_SNAP_ISSUE => ok (s.writeSnap fn w)
  | .HBR_JNL_CTL => ok (s.writeJnlCtl fn w)
  | .HBR_FW_CTL => ok (s.writeFwCtl fn w)
  | .HBR_MCTP_CTL => ok (s.writeMctpCtl fn w)
  | _ => match eventSource r with
    | some k => ok (if fn = 0 then s else s.clearEvents fn k r a b w)
    | none => ok (s.plainWrite fn r a b w)

/-- A write at an offset of a function's window. Log entry 16. -/
def State.writeRegister (s : State) (fn off : Nat) (w : Word) : Result :=
  match regAt off with
  | none => ok s
  | some (r, i, b) =>
    let a := ownIndex r fn i
    if s.windowOpen fn = true ∧ s.shows fn r a b = true then s.windowWrites fn r a b w else ok s

/-- A write of a register (R14). Log entry 16. -/
def execRegisterWrite (fn off : Nat) (w : Word) (s : State) : Result := s.writeRegister fn off w

/-- A write of the event register of one of a function's sources (R395). -/
def execEventBitClear (fn off : Nat) (w : Word) (s : State) : Result :=
  match (regAt off).bind (fun x => eventSource x.1) with
  | none => ok s
  | some _ => s.writeRegister fn off w

/-! ## WRITE and READ_REQ flits (R309, R314, R484) -/

/-- The answer that a READ_REQ asks for. -/
def replyOf (f : Flit) : LinkReply := { dst := f.src, dfn := f.sfn, sfn := f.dfn, tag := f.tag }

/-- Answer a READ_REQ. Log entry 26. -/
def State.answerRead (s : State) (f : Flit) (ans : Answer) : State :=
  s.answerLink { fn := f.dfn, src := .host, addr := f.addr, len := f.len * 32, reply := some (replyOf f) } ans

/-- Before READY only function 0's PKG registers and HBR_STAT are read (R484). Log entry 26. -/
def earlyRead (fn off : Nat) : Bool := fn == 0 && (decide (off < 0x18) || off == 0xA00000)

/-- A READ_REQ of a control window: one aligned 8-byte register. -/
def State.readWindow (s : State) (f : Flit) : State :=
  if f.len = 1 ∧ f.addr % 8 = 0 ∧ (s.windowOpen f.dfn = true ∨ earlyRead f.dfn f.addr = true) then
    s.answerRead f { status := .ok, data := leBytes 32 (s.readRegister f.dfn f.addr).toNat }
  else s.answerRead f { status := .aborted }

/-- A WRITE of a control window: one aligned 8-byte register; any other is discarded. Log entry 16. -/
def State.writeWindow (s : State) (f : Flit) : Result :=
  if f.len = 1 ∧ f.addr % 8 = 0 then s.writeRegister f.dfn f.addr (BitVec.ofNat 64 (bytesAt f.payload 0 8)) else ok s

/-- A WRITE of device memory: by pages, or through a window of the reserved range. -/
def State.writeMemory (s : State) (f : Flit) : State :=
  let bs := f.payload.take (32 * f.len)
  let s := s.unserved
  if isReserved f.addr then (s.unitWrite .host f.dfn f.addr bs).1
  else (pagePieces 2 f.addr bs.length).foldl (fun s p =>
    s.takeAccess { fn := f.dfn, src := .host, addr := p.1, len := p.2, wr := some ((bs.drop (p.1 - f.addr)).take p.2) } 0) s

/-- A READ_REQ of device memory. A read that crosses into a page where it must wait is answered in two parts (DESIGN CHOICE, log
entry 26). -/
def State.readMemory (s : State) (f : Flit) : State :=
  let n := 32 * f.len
  let s := s.unserved
  if n = 0 then s.answerRead f {}
  else if isReserved f.addr then
    if (s.unitReady f.dfn f.addr n false).2 then
      let (s, ans) := s.unitRead .host f.dfn f.addr n
      s.answerRead f ans
    else (pagePieces 2 (s.windowRange f.dfn f.addr) n).foldl (fun s p =>
      s.takeAccess { fn := f.dfn, src := .host, addr := p.1, len := p.2, reply := some (replyOf f) } 0) s
  else if f.addr / 65536 = (f.addr + n - 1) / 65536 ∨ s.rangeReady f.dfn f.addr n = false then
    (pagePieces 2 f.addr n).foldl (fun s p =>
      s.takeAccess { fn := f.dfn, src := .host, addr := p.1, len := p.2, reply := some (replyOf f) } 0) s
  else
    let (s, ans) := s.devRead .host f.dfn f.addr n
    s.answerRead f ans

/-- A delivered WRITE; a reserved SUB is discarded and counted (R285). One that R350 or R357 forbids is unpredictable within the
partition. -/
def State.deliverWrite (s : State) (f : Flit) : Result :=
  if f.sub = 0 then
    if s.writeForbidden f.dfn false f.addr (32 * f.len) = true then .fault (.unpredictable f.dfn) else ok (s.writeMemory f)
  else if f.sub = 1 then s.writeWindow f
  else ok (s.satFld .JL_DROPS_ROUTE 0 0 1)

/-- A delivered READ_REQ, likewise. -/
def State.deliverRead (s : State) (f : Flit) : State :=
  if f.sub = 0 then s.readMemory f else if f.sub = 1 then s.readWindow f else s.satFld .JL_DROPS_ROUTE 0 0 1

/-- A verified WRITE flit (R309). -/
def execWrite (p : Nat) (rx : RxFlit) (s : State) : Result :=
  let f := rx.flit
  let t := s.linkIn p rx
  if f.ftype = 1 ∧ s.portPresent p = true ∧ s.portState p = portIsUp ∧ t.2 = true ∧ t.1.routeFlit f = .here ∧
      t.1.mayDeliver p f = true then
    match t.1.deliverWrite f with
    | .next u => ok (u.freeSlot p f.vc)
    | o => o
  else ok (s.arrive p rx (f.ftype == 1) id)

/-- A verified READ_REQ flit (R309). -/
def execReadReq (p : Nat) (rx : RxFlit) (s : State) : Result :=
  ok (s.arrive p rx (rx.flit.ftype == 2) (fun s => s.deliverRead rx.flit))

end Sys2Proof.Machine
end

