-- ==== Sys2Proof/Machine/Dispatch.lean ====
section
/-! DEFINITION. One arm per command: a direct call of its meaning. -/

namespace Sys2Proof.Machine
open Sys2Proof

def exec (i : Instr) (s : State) : Host.Outcome State Fault Refusal :=
  match i with
  | .straitUnitSend n ba => Sys2Proof.Machine.execStraitUnitSend n ba s
  | .straitUnitArrive n ba cls crcOk syndrome => Sys2Proof.Machine.execStraitUnitArrive n ba cls crcOk syndrome s
  | .straitStallTimeout n ba => Sys2Proof.Machine.execStraitStallTimeout n ba s
  | .straitCrossbarForward die out cls => Sys2Proof.Machine.execStraitCrossbarForward die out cls s
  | .pllRelockDone island => Sys2Proof.Machine.execPllRelockDone island s
  | .loadStart fn w => Sys2Proof.Machine.execLoadStart fn w s
  | .loadQueuedStart fn => Sys2Proof.Machine.execLoadQueuedStart fn s
  | .loadCancel fn w => Sys2Proof.Machine.execLoadCancel fn w s
  | .loadHeaderFetched fn ans => Sys2Proof.Machine.execLoadHeaderFetched fn ans s
  | .loadStageStart fn => Sys2Proof.Machine.execLoadStageStart fn s
  | .loadStageDone fn ans => Sys2Proof.Machine.execLoadStageDone fn ans s
  | .loadFault fn st => Sys2Proof.Machine.execLoadFault fn st s
  | .loadWaitIdleExit fn => Sys2Proof.Machine.execLoadWaitIdleExit fn s
  | .loadQuiesceDone fn => Sys2Proof.Machine.execLoadQuiesceDone fn s
  | .loadWriteDone fn => Sys2Proof.Machine.execLoadWriteDone fn s
  | .launchParamsRead lid ans => Sys2Proof.Machine.execLaunchParamsRead lid ans s
  | .isletStartArrive lid islet => Sys2Proof.Machine.execIsletStartArrive lid islet s
  | .launchTimeout lid => Sys2Proof.Machine.execLaunchTimeout lid s
  | .collisionForcedGrant islet bank => Sys2Proof.Machine.execCollisionForcedGrant islet bank s
  | .isletFault islet cause place index => Sys2Proof.Machine.execIsletFault islet cause place index s
  | .islStop fn islet w => Sys2Proof.Machine.execIslStop fn islet w s
  | .isletReset fn islet w => Sys2Proof.Machine.execIsletReset fn islet w s
  | .copyPlanStart islet eng corrected => Sys2Proof.Machine.execCopyPlanStart islet eng corrected s
  | .copyReadReturn islet eng k upset losses => Sys2Proof.Machine.execCopyReadReturn islet eng k upset losses s
  | .copyPlanComplete islet eng => Sys2Proof.Machine.execCopyPlanComplete islet eng s
  | .seqNop islet => Sys2Proof.Machine.execSeqNop islet s
  | .seqMx islet => Sys2Proof.Machine.execSeqMx islet s
  | .seqVx islet => Sys2Proof.Machine.execSeqVx islet s
  | .seqCopy islet => Sys2Proof.Machine.execSeqCopy islet s
  | .seqSend islet => Sys2Proof.Machine.execSeqSend islet s
  | .seqRecv islet => Sys2Proof.Machine.execSeqRecv islet s
  | .seqWait islet => Sys2Proof.Machine.execSeqWait islet s
  | .seqSetf islet => Sys2Proof.Machine.execSeqSetf islet s
  | .seqClrf islet => Sys2Proof.Machine.execSeqClrf islet s
  | .seqSignal islet => Sys2Proof.Machine.execSeqSignal islet s
  | .seqLdcnt islet => Sys2Proof.Machine.execSeqLdcnt islet s
  | .seqLoop islet => Sys2Proof.Machine.execSeqLoop islet s
  | .seqJump islet => Sys2Proof.Machine.execSeqJump islet s
  | .seqFence islet => Sys2Proof.Machine.execSeqFence islet s
  | .seqHalt islet => Sys2Proof.Machine.execSeqHalt islet s
  | .seqStallRelease islet => Sys2Proof.Machine.execSeqStallRelease islet s
  | .channelUnitHop islet port => Sys2Proof.Machine.execChannelUnitHop islet port s
  | .channelUnitReceive islet chan losses => Sys2Proof.Machine.execChannelUnitReceive islet chan losses s
  | .channelCreditReturn islet chan => Sys2Proof.Machine.execChannelCreditReturn islet chan s
  | .controlPacketArrive src dst => Sys2Proof.Machine.execControlPacketArrive src dst s
  | .gangOpStart islet => Sys2Proof.Machine.execGangOpStart islet s
  | .mxLoadDispatch islet => Sys2Proof.Machine.execMxLoadDispatch islet s
  | .mxLoadComplete islet quad corrected => Sys2Proof.Machine.execMxLoadComplete islet quad corrected s
  | .mxSwap islet => Sys2Proof.Machine.execMxSwap islet s
  | .mxTileStart islet => Sys2Proof.Machine.execMxTileStart islet s
  | .mxTileComplete islet quad stalls spCorrected mxCorrected => Sys2Proof.Machine.execMxTileComplete islet quad stalls spCorrected mxCorrected s
  | .mxCombineStart islet => Sys2Proof.Machine.execMxCombineStart islet s
  | .mxCombineComplete islet spCorrected mxCorrected => Sys2Proof.Machine.execMxCombineComplete islet spCorrected mxCorrected s
  | .mxIdleGate islet => Sys2Proof.Machine.execMxIdleGate islet s
  | .vxChainStart islet => Sys2Proof.Machine.execVxChainStart islet s
  | .vxChainComplete islet stalls spCorrected vxCorrected => Sys2Proof.Machine.execVxChainComplete islet stalls spCorrected vxCorrected s
  | .phaseStart fn slot => Sys2Proof.Machine.execPhaseStart fn slot s
  | .phaseDone fn slot => Sys2Proof.Machine.execPhaseDone fn slot s
  | .phaseTimeout fn slot => Sys2Proof.Machine.execPhaseTimeout fn slot s
  | .shoalWindowAccess fn addr len wr upset => Sys2Proof.Machine.execShoalWindowAccess fn addr len wr upset s
  | .feedCopyDone fn slot ans => Sys2Proof.Machine.execFeedCopyDone fn slot ans s
  | .memoryAccess fn src addr len wr upset => Sys2Proof.Machine.execMemoryAccess fn src addr len wr upset s
  | .hbmRefresh stack pc bank => Sys2Proof.Machine.execHbmRefresh stack pc bank s
  | .patrolScrub key upset => Sys2Proof.Machine.execPatrolScrub key upset s
  | .pageRelocate fn page => Sys2Proof.Machine.execPageRelocate fn page s
  | .mainlandPortDown port => Sys2Proof.Machine.execMainlandPortDown port s
  | .migGo fn w => Sys2Proof.Machine.execMigGo fn w s
  | .migMap fn => Sys2Proof.Machine.execMigMap fn s
  | .migUnmap fn => Sys2Proof.Machine.execMigUnmap fn s
  | .migPromote fn => Sys2Proof.Machine.execMigPromote fn s
  | .migDemote fn => Sys2Proof.Machine.execMigDemote fn s
  | .migCopy fn => Sys2Proof.Machine.execMigCopy fn s
  | .migIngest fn => Sys2Proof.Machine.execMigIngest fn s
  | .migPageStart fn upset ans => Sys2Proof.Machine.execMigPageStart fn upset ans s
  | .demotePageCopied port upset => Sys2Proof.Machine.execDemotePageCopied port upset s
  | .promotePageDone port upset => Sys2Proof.Machine.execPromotePageDone port upset s
  | .migRequestComplete fn => Sys2Proof.Machine.execMigRequestComplete fn s
  | .migCancel fn w => Sys2Proof.Machine.execMigCancel fn w s
  | .xlateLookup fn w => Sys2Proof.Machine.execXlateLookup fn w s
  | .xlateLookupDone fn => Sys2Proof.Machine.execXlateLookupDone fn s
  | .reefWindowWrite fn addr data => Sys2Proof.Machine.execReefWindowWrite fn addr data s
  | .reefGo fn stack w => Sys2Proof.Machine.execReefGo fn stack w s
  | .reefCancel fn stack w => Sys2Proof.Machine.execReefCancel fn stack w s
  | .reefAdmit stack => Sys2Proof.Machine.execReefAdmit stack s
  | .reefOpStart stack k => Sys2Proof.Machine.execReefOpStart stack k s
  | .reefOpEnd stack k cycles => Sys2Proof.Machine.execReefOpEnd stack k cycles s
  | .reefUncorrectable stack k pc => Sys2Proof.Machine.execReefUncorrectable stack k pc s
  | .laneFail p lane => Sys2Proof.Machine.execLaneFail p lane s
  | .laneSwitchOver p => Sys2Proof.Machine.execLaneSwitchOver p s
  | .laneSwapTimeout p => Sys2Proof.Machine.execLaneSwapTimeout p s
  | .flitSend p vc => Sys2Proof.Machine.execFlitSend p vc s
  | .flitCorrupt p uncorr => Sys2Proof.Machine.execFlitCorrupt p uncorr s
  | .flitReservedType p rx => Sys2Proof.Machine.execFlitReservedType p rx s
  | .idle p rx => Sys2Proof.Machine.execIdle p rx s
  | .write p rx => Sys2Proof.Machine.execWrite p rx s
  | .readReq p rx => Sys2Proof.Machine.execReadReq p rx s
  | .readRsp p rx => Sys2Proof.Machine.execReadRsp p rx s
  | .interrupt p rx => Sys2Proof.Machine.execInterrupt p rx s
  | .unreachable p rx => Sys2Proof.Machine.execUnreachable p rx s
  | .claim p rx => Sys2Proof.Machine.execClaim p rx s
  | .claimAck p rx => Sys2Proof.Machine.execClaimAck p rx s
  | .claimEnd p rx => Sys2Proof.Machine.execClaimEnd p rx s
  | .probe p rx => Sys2Proof.Machine.execProbe p rx s
  | .probeAck p rx => Sys2Proof.Machine.execProbeAck p rx s
  | .brk p rx => Sys2Proof.Machine.execBrk p rx s
  | .hello p rx => Sys2Proof.Machine.execHello p rx s
  | .keyShare p rx => Sys2Proof.Machine.execKeyShare p rx s
  | .cert p rx => Sys2Proof.Machine.execCert p rx s
  | .keyAuth p rx => Sys2Proof.Machine.execKeyAuth p rx s
  | .keyDone p rx => Sys2Proof.Machine.execKeyDone p rx s
  | .rekeySwitch p rx => Sys2Proof.Machine.execRekeySwitch p rx s
  | .laneSwap p rx => Sys2Proof.Machine.execLaneSwap p rx s
  | .laneSwapAck p rx => Sys2Proof.Machine.execLaneSwapAck p rx s
  | .rs p rx => Sys2Proof.Machine.execRs p rx s
  | .rsEnd p rx => Sys2Proof.Machine.execRsEnd p rx s
  | .ag p rx => Sys2Proof.Machine.execAg p rx s
  | .agEnd p rx => Sys2Proof.Machine.execAgEnd p rx s
  | .up p rx => Sys2Proof.Machine.execUp p rx s
  | .upEnd p rx => Sys2Proof.Machine.execUpEnd p rx s
  | .down p rx => Sys2Proof.Machine.execDown p rx s
  | .downEnd p rx => Sys2Proof.Machine.execDownEnd p rx s
  | .vote p rx => Sys2Proof.Machine.execVote p rx s
  | .voteResult p rx => Sys2Proof.Machine.execVoteResult p rx s
  | .stepAbort p rx => Sys2Proof.Machine.execStepAbort p rx s
  | .replayTimeout p => Sys2Proof.Machine.execReplayTimeout p s
  | .livenessTimeout p => Sys2Proof.Machine.execLivenessTimeout p s
  | .keyingTimeout p => Sys2Proof.Machine.execKeyingTimeout p s
  | .keyingResend p => Sys2Proof.Machine.execKeyingResend p s
  | .readTimeout fn tag => Sys2Proof.Machine.execReadTimeout fn tag s
  | .flitStall p vc => Sys2Proof.Machine.execFlitStall p vc s
  | .claimWait => Sys2Proof.Machine.execClaimWait s
  | .trainingDone p txSpare rxSpare => Sys2Proof.Machine.execTrainingDone p txSpare rxSpare s
  | .trainTimeout p => Sys2Proof.Machine.execTrainTimeout p s
  | .portRetry p => Sys2Proof.Machine.execPortRetry p s
  | .peerLoss p => Sys2Proof.Machine.execPeerLoss p s
  | .portEnable fn p w => Sys2Proof.Machine.execPortEnable fn p w s
  | .portReset fn p w => Sys2Proof.Machine.execPortReset fn p w s
  | .portRekey fn p w => Sys2Proof.Machine.execPortRekey fn p w s
  | .rekeyThreshold p => Sys2Proof.Machine.execRekeyThreshold p s
  | .counterLimit p => Sys2Proof.Machine.execCounterLimit p s
  | .rekeyTimeout p => Sys2Proof.Machine.execRekeyTimeout p s
  | .rekeyRetry p => Sys2Proof.Machine.execRekeyRetry p s
  | .routeWrite fn d w => Sys2Proof.Machine.execRouteWrite fn d w s
  | .bucketStart ctx b => Sys2Proof.Machine.execBucketStart ctx b s
  | .heldFlitRelease p => Sys2Proof.Machine.execHeldFlitRelease p s
  | .bucketComplete ctx b => Sys2Proof.Machine.execBucketComplete ctx b s
  | .bucketDeadline ctx b => Sys2Proof.Machine.execBucketDeadline ctx b s
  | .voteTimeout ctx => Sys2Proof.Machine.execVoteTimeout ctx s
  | .redResume fn ctx w => Sys2Proof.Machine.execRedResume fn ctx w s
  | .redAbortStep fn ctx w => Sys2Proof.Machine.execRedAbortStep fn ctx w s
  | .normEntryAccepted fn q => Sys2Proof.Machine.execNormEntryAccepted fn q s
  | .normTimeout fn => Sys2Proof.Machine.execNormTimeout fn s
  | .shardUpdateStart fn shard => Sys2Proof.Machine.execShardUpdateStart fn shard s
  | .shardCommit fn shard => Sys2Proof.Machine.execShardCommit fn shard s
  | .digestRecordAccepted fn round => Sys2Proof.Machine.execDigestRecordAccepted fn round s
  | .digestTimeout fn => Sys2Proof.Machine.execDigestTimeout fn s
  | .optRecover fn w => Sys2Proof.Machine.execOptRecover fn w s
  | .optAdopt fn w => Sys2Proof.Machine.execOptAdopt fn w s
  | .queueDoorbell fn q w => Sys2Proof.Machine.execQueueDoorbell fn q w s
  | .descriptorFetched fn q ans => Sys2Proof.Machine.execDescriptorFetched fn q ans s
  | .cmdNop fn q => Sys2Proof.Machine.execCmdNop fn q s
  | .cmdLoad fn q => Sys2Proof.Machine.execCmdLoad fn q s
  | .cmdLaunch fn q => Sys2Proof.Machine.execCmdLaunch fn q s
  | .cmdStep fn q => Sys2Proof.Machine.execCmdStep fn q s
  | .cmdGenerate fn q ans => Sys2Proof.Machine.execCmdGenerate fn q ans s
  | .cmdMigrate fn q => Sys2Proof.Machine.execCmdMigrate fn q s
  | .servicePause fn q => Sys2Proof.Machine.execServicePause fn q s
  | .serviceResume fn q => Sys2Proof.Machine.execServiceResume fn q s
  | .serviceStop fn q => Sys2Proof.Machine.execServiceStop fn q s
  | .completionWrite fn q st => Sys2Proof.Machine.execCompletionWrite fn q st s
  | .completionDoorbell fn q w => Sys2Proof.Machine.execCompletionDoorbell fn q w s
  | .queueEnable fn q w => Sys2Proof.Machine.execQueueEnable fn q w s
  | .queueDisable fn q w => Sys2Proof.Machine.execQueueDisable fn q w s
  | .controllerWatchdogWrite die core => Sys2Proof.Machine.execControllerWatchdogWrite die core s
  | .controllerRestart die => Sys2Proof.Machine.execControllerRestart die s
  | .controllerRestartDone die => Sys2Proof.Machine.execControllerRestartDone die s
  | .stepRecordWrite fn => Sys2Proof.Machine.execStepRecordWrite fn s
  | .genPoll fn ans => Sys2Proof.Machine.execGenPoll fn ans s
  | .eventBitClear fn off w => Sys2Proof.Machine.execEventBitClear fn off w s
  | .eventRouteWrite fn k w => Sys2Proof.Machine.execEventRouteWrite fn k w s
  | .registerWrite fn off w => Sys2Proof.Machine.execRegisterWrite fn off w s
  | .functionEnable fn f w => Sys2Proof.Machine.execFunctionEnable fn f w s
  | .enableComplete f => Sys2Proof.Machine.execEnableComplete f s
  | .functionDisable fn f w => Sys2Proof.Machine.execFunctionDisable fn f w s
  | .grantCtlReset fn f w => Sys2Proof.Machine.execGrantCtlReset fn f w s
  | .fnCtlReset fn w => Sys2Proof.Machine.execFnCtlReset fn w s
  | .shutdownComplete f => Sys2Proof.Machine.execShutdownComplete f s
  | .grantWrite fn off w => Sys2Proof.Machine.execGrantWrite fn off w s
  | .keyRotate fn w => Sys2Proof.Machine.execKeyRotate fn w s
  | .rotationKeyLoaded f => Sys2Proof.Machine.execRotationKeyLoaded f s
  | .sweepPageStart f port upset => Sys2Proof.Machine.execSweepPageStart f port upset s
  | .sweepPageDone f port => Sys2Proof.Machine.execSweepPageDone f port s
  | .drbgHealthFail test => Sys2Proof.Machine.execDrbgHealthFail test s
  | .drbgReseed => Sys2Proof.Machine.execDrbgReseed s
  | .getVersion bind req => Sys2Proof.Machine.execGetVersion bind req s
  | .getCapabilities bind req => Sys2Proof.Machine.execGetCapabilities bind req s
  | .negotiateAlgorithms bind req => Sys2Proof.Machine.execNegotiateAlgorithms bind req s
  | .getDigests bind req => Sys2Proof.Machine.execGetDigests bind req s
  | .getCertificate bind req => Sys2Proof.Machine.execGetCertificate bind req s
  | .challenge bind req => Sys2Proof.Machine.execChallenge bind req s
  | .getMeasurements bind req => Sys2Proof.Machine.execGetMeasurements bind req s
  | .spdmUnsupported bind req => Sys2Proof.Machine.execSpdmUnsupported bind req s
  | .harbourWatchdog => Sys2Proof.Machine.execHarbourWatchdog s
  | .hbrEvtClear fn w => Sys2Proof.Machine.execHbrEvtClear fn w s
  | .hbrEvtRouteWrite fn w => Sys2Proof.Machine.execHbrEvtRouteWrite fn w s
  | .wakeRequest islet => Sys2Proof.Machine.execWakeRequest islet s
  | .dvfsRequest die point => Sys2Proof.Machine.execDvfsRequest die point s
  | .govWindowStart => Sys2Proof.Machine.execGovWindowStart s
  | .chargeEnd die => Sys2Proof.Machine.execChargeEnd die s
  | .govCfgWrite fn w => Sys2Proof.Machine.execGovCfgWrite fn w s
  | .dvfsVoltageSettled die => Sys2Proof.Machine.execDvfsVoltageSettled die s
  | .tempSample temps dram => Sys2Proof.Machine.execTempSample temps dram s
  | .thermalCapStep die => Sys2Proof.Machine.execThermalCapStep die s
  | .leadRequest west => Sys2Proof.Machine.execLeadRequest west s
  | .leadRelease => Sys2Proof.Machine.execLeadRelease s
  | .leadGrant => Sys2Proof.Machine.execLeadGrant s
  | .leadHoldTimeout => Sys2Proof.Machine.execLeadHoldTimeout s
  | .leaderTakeover west => Sys2Proof.Machine.execLeaderTakeover west s
  | .gateActionArrive act gate => Sys2Proof.Machine.execGateActionArrive act gate s
  | .gateResponse act => Sys2Proof.Machine.execGateResponse act s
  | .gateGo act gate => Sys2Proof.Machine.execGateGo act gate s
  | .gateDrop act gate => Sys2Proof.Machine.execGateDrop act gate s
  | .gateTimeout act gate => Sys2Proof.Machine.execGateTimeout act gate s
  | .snapshotGo fn w => Sys2Proof.Machine.execSnapshotGo fn w s
  | .snapshotUnitAccept island => Sys2Proof.Machine.execSnapshotUnitAccept island s
  | .warmReset fn w => Sys2Proof.Machine.execWarmReset fn w s
  | .stackReset fn w => Sys2Proof.Machine.execStackReset fn w s
  | .stackResetDone stack => Sys2Proof.Machine.execStackResetDone stack s
  | .bootReady mlCaps mlBad => Sys2Proof.Machine.execBootReady mlCaps mlBad s
  | .readyTimeout => Sys2Proof.Machine.execReadyTimeout s
  | .trialTimeout => Sys2Proof.Machine.execTrialTimeout s
  | .fwStage fn w => Sys2Proof.Machine.execFwStage fn w s
  | .fwStageDone ans => Sys2Proof.Machine.execFwStageDone ans s
  | .fwCancel fn w => Sys2Proof.Machine.execFwCancel fn w s
  | .journalCommit badBlock => Sys2Proof.Machine.execJournalCommit badBlock s
  | .journalCompact fn w => Sys2Proof.Machine.execJournalCompact fn w s
  | .journalCompactionDone => Sys2Proof.Machine.execJournalCompactionDone s
  | .mctpInGo fn w => Sys2Proof.Machine.execMctpInGo fn w s
  | .mctpOutAck fn w => Sys2Proof.Machine.execMctpOutAck fn w s
  | .setEndpointId bind req => Sys2Proof.Machine.execSetEndpointId bind req s
  | .getEndpointId bind req => Sys2Proof.Machine.execGetEndpointId bind req s
  | .getMctpVersionSupport bind req => Sys2Proof.Machine.execGetMctpVersionSupport bind req s
  | .getMessageTypeSupport bind req => Sys2Proof.Machine.execGetMessageTypeSupport bind req s
  | .getTid bind req => Sys2Proof.Machine.execGetTid bind req s
  | .setTid bind req => Sys2Proof.Machine.execSetTid bind req s
  | .getPldmVersion bind req => Sys2Proof.Machine.execGetPldmVersion bind req s
  | .getPldmTypes bind req => Sys2Proof.Machine.execGetPldmTypes bind req s
  | .getPldmCommands bind req => Sys2Proof.Machine.execGetPldmCommands bind req s
  | .getPdrRepositoryInfo bind req => Sys2Proof.Machine.execGetPdrRepositoryInfo bind req s
  | .getPdr bind req => Sys2Proof.Machine.execGetPdr bind req s
  | .getSensorReading bind req => Sys2Proof.Machine.execGetSensorReading bind req s
  | .getStateSensorReadings bind req => Sys2Proof.Machine.execGetStateSensorReadings bind req s
  | .pldmFirmwareUpdate bind src => Sys2Proof.Machine.execPldmFirmwareUpdate bind src s
  | .pldmUnsupported bind req => Sys2Proof.Machine.execPldmUnsupported bind req s
  | .entdaa addr => Sys2Proof.Machine.execEntdaa addr s
  | .setdasa static addr => Sys2Proof.Machine.execSetdasa static addr s
  | .bypass => Sys2Proof.Machine.execBypass s
  | .idcode => Sys2Proof.Machine.execIdcode s
  | .samplePreload preload captured => Sys2Proof.Machine.execSamplePreload preload captured s
  | .extest => Sys2Proof.Machine.execExtest s
  | .clamp => Sys2Proof.Machine.execClamp s
  | .highz => Sys2Proof.Machine.execHighz s
  | .extestPulse => Sys2Proof.Machine.execExtestPulse s
  | .extestTrain => Sys2Proof.Machine.execExtestTrain s
  | .resetNAssert => Sys2Proof.Machine.execResetNAssert s
  | .resetNRelease => Sys2Proof.Machine.execResetNRelease s
  | .pwrGoodNAssert => Sys2Proof.Machine.execPwrGoodNAssert s
  | .pwrGoodNRelease => Sys2Proof.Machine.execPwrGoodNRelease s
  | .testEnAssert => Sys2Proof.Machine.execTestEnAssert s
  | .testEnRelease => Sys2Proof.Machine.execTestEnRelease s
  | .refclkFault => Sys2Proof.Machine.execRefclkFault s
  | .powerLoss => Sys2Proof.Machine.execPowerLoss s
  | .harbourWatchdogWrite core => Sys2Proof.Machine.execHarbourWatchdogWrite core s
  | .mainlandPortTrainingLoss port => Sys2Proof.Machine.execMainlandPortTrainingLoss port s
  | .mainlandPortRetrained port => Sys2Proof.Machine.execMainlandPortRetrained port s
  | .mainlandRefresh port rfm => Sys2Proof.Machine.execMainlandRefresh port rfm s
  | .shardDigestReadDone fn shard => Sys2Proof.Machine.execShardDigestReadDone fn shard s
  | .adoptRegenerationDone fn => Sys2Proof.Machine.execAdoptRegenerationDone fn s

end Sys2Proof.Machine
end

