-- ==== Sys2Proof/Safety.lean ====
section
/-! DEFINITION. What every step keeps: the invariants of the machine that claims are stated with. -/

namespace Sys2Proof.Machine
open Sys2Proof

/-- The registers that hold one value from reset on: they identify the part, its straits, islets and functions (R9, R25,
R26, R80, R256, R428). -/
def fixedReg : Reg → Bool
  | .PKG_IDENT | .PKG_CAP | .PKG_PORTS | .STR_COUNT | .STR_DESC | .ISL_IDENT | .REEF_CAUSE | .SEC_FN_ID | .SEC_DEV_ID => true
  | _ => false

/-- A word of a register has no bit outside the register's fields: its reserved fields are zero (R16). -/
def wordLegal (r : Reg) (w : Word) : Bool :=
  (List.range 64).all (fun i => !w.toNat.testBit i || r.fields.any (fun f => decide (f.lo ≤ i) && decide (i ≤ f.hi)))

/-- The register with a number. -/
def Reg.ofCode (n : Nat) : Reg := Reg.all.getD n .PKG_IDENT

/-- An entry of the register file: not of a fixed register, its reserved fields zero. -/
def entryLegal (e : Nat × Word) : Bool :=
  !fixedReg (Reg.ofCode (e.1 / 65536 / 65536)) && wordLegal (Reg.ofCode (e.1 / 65536 / 65536)) e.2

/-- A state whose memory and register file have their canonical form: memory addresses strictly rise and list no byte
that an unlisted address reads as; no register is listed twice, none that is fixed, and none with a reserved bit set
(R16). -/
structure Sound (s : State) : Prop where
  mem : Memory.wf s.mem = true
  regs : storeRising 0 s.regs = true
  fields : s.regs.all entryLegal = true

/-! ## What a command leaves unchanged -/

/-- The register blocks of the control window, by their place in it. -/
inductive Block where
  | pkg | str | img | isl | mem | pipe | reef | jl | red | opt | svc | sec | hbr
  deriving DecidableEq, Repr

/-- The block of a register. -/
def regBlock (r : Reg) : Block :=
  let b := r.place.base
  if b < 0x10000 then .pkg else if b < 0x20000 then .str else if b < 0x100000 then .img else if b < 0x400000 then .isl
  else if b < 0x4F0000 then .mem else if b < 0x500000 then .pipe else if b < 0x600000 then .reef
  else if b < 0x700000 then .jl else if b < 0x780000 then .red else if b < 0x800000 then .opt
  else if b < 0x900000 then .svc else if b < 0xA00000 then .sec else .hbr

/-- The parts of a state that frames speak of: the memory, the islets, what is held for functions, the optimisers in it, the
queues, jobs, reef units, Jumel ports and their egress, the lead token, gate actions, the governor, the straits' lanes, the pins,
the JTAG port, the MCTP endpoints, the journal store, the armed events, the watchdogs, the islands' counts, the ticks, and the
register blocks. -/
inductive Portion where
  | mem | islets | fns | optim | queues | jobs | reefs | ports | egress | lead | actions | gov | lanes | pins | jtag | mctp | jnl
  | armed | watchdogs | counts | ticks
  | block (b : Block)
  deriving DecidableEq, Repr

/-- A part is as it was: every byte of memory reads as before, every register of a block reads as before. -/
def same : Portion → State → State → Prop
  | .mem, s, t => ∀ a, memByte t.mem a = memByte s.mem a
  | .islets, s, t => t.islets = s.islets
  | .fns, s, t => t.fns = s.fns
  | .optim, s, t => ∀ fn, (t.fnState fn).optim = (s.fnState fn).optim
  | .queues, s, t => t.queues = s.queues
  | .jobs, s, t => t.jobs = s.jobs
  | .reefs, s, t => t.reefs = s.reefs
  | .ports, s, t => t.ports = s.ports
  | .egress, s, t => t.egress = s.egress ∧ t.heads = s.heads
  | .lead, s, t => t.lead = s.lead
  | .actions, s, t => t.actions = s.actions ∧ t.nextAction = s.nextAction
  | .gov, s, t => t.gov = s.gov
  | .lanes, s, t => t.lanes = s.lanes ∧ t.xturn = s.xturn
  | .pins, s, t => t.pins = s.pins
  | .jtag, s, t => t.jtag = s.jtag
  | .mctp, s, t => t.mctp = s.mctp ∧ t.mctpOut = s.mctpOut
  | .jnl, s, t => t.jnl = s.jnl
  | .armed, s, t => t.armed = s.armed ∧ t.hbrArmed = s.hbrArmed
  | .watchdogs, s, t => t.watchdogs = s.watchdogs
  | .counts, s, t => t.counts = s.counts
  | .ticks, s, t => t.ticks = s.ticks
  | .block k, s, t => ∀ r a b, regBlock r = k → t.reg r a b = s.reg r a b

end Sys2Proof.Machine
end

