-- ==== Sys2Proof/Frame.lean ====
section
/-! DEFINITION. What each command may change: the portions of the state that frames do not promise, and the chapter of the
specification a command belongs to. -/

namespace Sys2Proof.Machine
open Sys2Proof

/-- The chapters of the specification. -/
inductive Chapter where
  | scope | straits | image | islet | matrix | vector | passes | memory | reef | link | reduction | optimiser | services | trust
  | harbour | signals
  deriving DecidableEq, Repr

/-- The chapter whose rule a command follows. -/
def chapter : Instr → Chapter
  | .registerWrite .. => .scope
  | .straitUnitSend .. | .straitUnitArrive .. | .straitStallTimeout .. | .straitCrossbarForward .. | .pllRelockDone ..
    => .straits
  | .loadStart .. | .loadQueuedStart .. | .loadCancel .. | .loadHeaderFetched .. | .loadStageStart ..
    | .loadStageDone .. | .loadFault .. | .loadWaitIdleExit .. | .loadQuiesceDone .. | .loadWriteDone ..
    | .launchParamsRead .. | .isletStartArrive .. | .launchTimeout .. | .cmdLaunch .. => .image
  | .collisionForcedGrant .. | .isletFault .. | .islStop .. | .copyPlanStart .. | .copyReadReturn ..
    | .copyPlanComplete .. | .seqNop .. | .seqMx .. | .seqVx .. | .seqCopy .. | .seqSend .. | .seqRecv ..
    | .seqWait .. | .seqSetf .. | .seqClrf .. | .seqSignal .. | .seqLdcnt .. | .seqLoop .. | .seqJump ..
    | .seqFence .. | .seqHalt .. | .seqStallRelease .. | .channelUnitHop .. | .channelUnitReceive ..
    | .channelCreditReturn .. | .controlPacketArrive .. => .islet
  | .gangOpStart .. | .mxLoadDispatch .. | .mxLoadComplete .. | .mxSwap .. | .mxTileStart .. | .mxTileComplete ..
    | .mxCombineStart .. | .mxCombineComplete .. | .mxIdleGate .. => .matrix
  | .vxChainStart .. | .vxChainComplete .. => .vector
  | .phaseStart .. | .phaseDone .. | .phaseTimeout .. | .shoalWindowAccess .. => .passes
  | .memoryAccess .. | .hbmRefresh .. | .patrolScrub .. | .pageRelocate .. | .mainlandPortDown .. | .migGo ..
    | .migMap .. | .migUnmap .. | .migPromote .. | .migDemote .. | .migCopy .. | .migIngest .. | .migPageStart ..
    | .demotePageCopied .. | .promotePageDone .. | .migRequestComplete .. | .migCancel .. | .xlateLookup ..
    | .xlateLookupDone .. | .mainlandPortTrainingLoss .. | .mainlandPortRetrained .. | .mainlandRefresh .. => .memory
  | .reefWindowWrite .. | .reefGo .. | .reefCancel .. | .reefAdmit .. | .reefOpStart .. | .reefOpEnd ..
    | .reefUncorrectable .. | .govCfgWrite .. => .reef
  | .laneFail .. | .laneSwitchOver .. | .laneSwapTimeout .. | .flitSend .. | .flitCorrupt .. | .flitReservedType ..
    | .idle .. | .write .. | .readReq .. | .readRsp .. | .interrupt .. | .unreachable .. | .claim .. | .claimAck ..
    | .claimEnd .. | .probe .. | .probeAck .. | .brk .. | .hello .. | .keyShare .. | .cert .. | .keyAuth ..
    | .keyDone .. | .rekeySwitch .. | .laneSwap .. | .laneSwapAck .. | .replayTimeout .. | .livenessTimeout ..
    | .keyingTimeout .. | .keyingResend .. | .readTimeout .. | .flitStall .. | .claimWait | .trainingDone ..
    | .trainTimeout .. | .portRetry .. | .peerLoss .. | .portEnable .. | .portReset .. | .portRekey ..
    | .rekeyThreshold .. | .counterLimit .. | .rekeyTimeout .. | .rekeyRetry .. | .routeWrite .. => .link
  | .rs .. | .rsEnd .. | .ag .. | .agEnd .. | .up .. | .upEnd .. | .down .. | .downEnd .. | .vote .. | .voteResult ..
    | .stepAbort .. | .bucketStart .. | .heldFlitRelease .. | .bucketComplete .. | .bucketDeadline ..
    | .voteTimeout .. | .redResume .. | .redAbortStep .. => .reduction
  | .normEntryAccepted .. | .normTimeout .. | .shardUpdateStart .. | .shardCommit .. | .digestRecordAccepted ..
    | .digestTimeout .. | .optRecover .. | .optAdopt .. | .shardDigestReadDone .. | .adoptRegenerationDone ..
    => .optimiser
  | .feedCopyDone .. | .queueDoorbell .. | .descriptorFetched .. | .cmdNop .. | .cmdLoad .. | .cmdStep ..
    | .cmdGenerate .. | .cmdMigrate .. | .servicePause .. | .serviceResume .. | .serviceStop .. | .completionWrite ..
    | .completionDoorbell .. | .queueEnable .. | .queueDisable .. | .controllerWatchdogWrite ..
    | .controllerRestart .. | .controllerRestartDone .. | .stepRecordWrite .. | .genPoll .. | .eventBitClear ..
    | .eventRouteWrite .. => .services
  | .functionEnable .. | .enableComplete .. | .functionDisable .. | .grantCtlReset .. | .fnCtlReset ..
    | .shutdownComplete .. | .grantWrite .. | .keyRotate .. | .rotationKeyLoaded .. | .sweepPageStart ..
    | .sweepPageDone .. | .drbgHealthFail .. | .drbgReseed | .getVersion .. | .getCapabilities ..
    | .negotiateAlgorithms .. | .getDigests .. | .getCertificate .. | .challenge .. | .getMeasurements ..
    | .spdmUnsupported .. => .trust
  | .isletReset .. | .harbourWatchdog | .hbrEvtClear .. | .hbrEvtRouteWrite .. | .wakeRequest .. | .dvfsRequest ..
    | .govWindowStart | .chargeEnd .. | .tempSample .. | .thermalCapStep .. | .leadRequest .. | .leadRelease
    | .leadGrant | .leadHoldTimeout | .leaderTakeover .. | .gateActionArrive .. | .gateResponse .. | .gateGo ..
    | .gateDrop .. | .gateTimeout .. | .snapshotGo .. | .snapshotUnitAccept .. | .warmReset .. | .stackReset ..
    | .stackResetDone .. | .bootReady .. | .trialTimeout | .fwStage .. | .fwStageDone .. | .fwCancel ..
    | .journalCommit .. | .journalCompact .. | .journalCompactionDone | .mctpInGo .. | .mctpOutAck ..
    | .setEndpointId .. | .getEndpointId .. | .getMctpVersionSupport .. | .getMessageTypeSupport .. | .getTid ..
    | .setTid .. | .getPldmVersion .. | .getPldmTypes .. | .getPldmCommands .. | .getPdrRepositoryInfo .. | .getPdr ..
    | .getSensorReading .. | .getStateSensorReadings .. | .pldmFirmwareUpdate .. | .pldmUnsupported ..
    | .harbourWatchdogWrite .. => .harbour
  | .dvfsVoltageSettled .. | .readyTimeout | .entdaa .. | .setdasa .. | .bypass | .idcode | .samplePreload ..
    | .extest | .clamp | .highz | .extestPulse | .extestTrain | .resetNAssert | .resetNRelease | .pwrGoodNAssert
    | .pwrGoodNRelease | .testEnAssert | .testEnRelease | .refclkFault | .powerLoss => .signals

/-- The portions that a write of a register through a window may change, by what the window does with the register; an event
register arms its source again, and a plain register changes in its own block alone. -/
def regTouches : Reg → List Portion
  | .IMG_LOAD_CTL => [.mem, .islets, .fns, .optim, .queues, .jobs, .reefs, .egress, .actions, .lanes, .mctp, .armed,
    .block .img, .block .isl, .block .mem, .block .pipe, .block .reef, .block .jl, .block .red, .block .opt, .block
    .svc, .block .hbr]
  | .ISL_CTL => [.mem, .islets, .fns, .optim, .queues, .jobs, .egress, .gov, .lanes, .mctp, .armed, .block .isl,
    .block .mem, .block .pipe, .block .reef, .block .jl, .block .red, .block .opt, .block .svc, .block .hbr]
  | .MEM_MIG_CTL => [.fns, .queues, .egress, .armed, .block .mem, .block .jl, .block .svc]
  | .MEM_XLATE_ADDR => [.fns, .block .mem]
  | .REEF_ISSUE => [.mem, .islets, .fns, .queues, .jobs, .reefs, .egress, .gov, .lanes, .mctp, .armed, .block .img,
    .block .isl, .block .mem, .block .pipe, .block .reef, .block .jl, .block .red, .block .svc, .block .hbr]
  | .JL_PORT_CTL => [.mem, .islets, .fns, .optim, .queues, .jobs, .reefs, .ports, .egress, .actions, .gov, .lanes,
    .mctp, .armed, .block .img, .block .isl, .block .mem, .block .pipe, .block .reef, .block .jl, .block .red, .block
    .opt, .block .svc, .block .sec, .block .hbr]
  | .JL_ROUTE => [.block .jl]
  | .RED_JOB_CTL => [.islets, .fns, .queues, .jobs, .egress, .gov, .armed, .block .isl, .block .pipe, .block .jl,
    .block .red, .block .svc, .block .hbr]
  | .OPT_CTL => [.mem, .islets, .fns, .optim, .queues, .jobs, .egress, .actions, .gov, .lanes, .mctp, .armed, .block
    .isl, .block .mem, .block .pipe, .block .reef, .block .jl, .block .red, .block .opt, .block .svc, .block .hbr]
  | .SVC_EVT_ROUTE => [.egress, .armed, .block .jl, .block .svc]
  | .SVC_Q_CFG => [.fns, .queues, .block .svc]
  | .SVC_Q_DB => [.queues, .egress, .lanes, .armed, .block .jl, .block .svc]
  | .SVC_Q_CPL_DB => [.lanes, .block .svc]
  | .SEC_FN_CTL | .SEC_GRANT_CTL => [.mem, .islets, .fns, .optim, .queues, .jobs, .reefs, .egress, .actions, .gov,
    .lanes, .mctp, .armed, .block .img, .block .isl, .block .mem, .block .pipe, .block .reef, .block .jl, .block .red,
    .block .opt, .block .svc, .block .sec, .block .hbr]
  | .SEC_KEY_CTL => [.actions, .lanes, .block .sec]
  | .HBR_EVT | .HBR_EVT_ROUTE => [.egress, .armed, .block .jl, .block .hbr]
  | .HBR_RESET_CTL => [.mem, .islets, .fns, .optim, .queues, .jobs, .reefs, .ports, .egress, .lead, .actions, .gov,
    .lanes, .pins, .jtag, .mctp, .jnl, .armed, .watchdogs, .counts, .ticks, .block .str, .block .img, .block .isl,
    .block .mem, .block .pipe, .block .reef, .block .jl, .block .red, .block .opt, .block .svc, .block .sec, .block
    .hbr]
  | .HBR_GOV_CFG => [.block .reef, .block .hbr]
  | .HBR_SNAP_ISSUE => [.lanes, .block .hbr]
  | .HBR_JNL_CTL => [.egress, .mctp, .jnl, .armed, .block .jl, .block .hbr]
  | .HBR_FW_CTL => [.egress, .lanes, .mctp, .armed, .block .jl, .block .sec, .block .hbr]
  | .HBR_MCTP_CTL => [.egress, .mctp, .armed, .block .jl, .block .hbr]
  | r => match eventSource r with
    | some _ => [.egress, .armed, .block .jl, .block (regBlock r)]
    | none => [.block (regBlock r)]

/-- The portions that a write at an offset of a window may change. -/
def offsetTouches (off : Nat) : List Portion :=
  match regAt off with
  | none => []
  | some (r, _, _) => regTouches r

/-- The portions of the state that a command may change; every other portion stays as it was. A write through a window may change
what a write of the register at the offset may. -/
def touches : Instr → List Portion
  | .straitUnitSend .. => [.lanes, .block .str]
  | .straitUnitArrive .. | .straitStallTimeout .. => [.mem, .islets, .fns, .optim, .queues, .jobs, .reefs, .ports,
    .egress, .lead, .actions, .gov, .lanes, .mctp, .armed, .block .str, .block .img, .block .isl, .block .mem, .block
    .pipe, .block .reef, .block .jl, .block .red, .block .opt, .block .svc, .block .sec, .block .hbr]
  | .straitCrossbarForward .. | .channelUnitHop .. => [.islets, .lanes, .block .str, .block .img]
  | .pllRelockDone .. => [.islets, .gov, .lanes, .pins, .block .str, .block .img]
  | .loadStart .. | .loadQueuedStart .. | .loadCancel .. | .loadHeaderFetched .. | .loadFault .. | .loadQuiesceDone ..
    | .cmdLoad .. => [.mem, .islets, .fns, .optim, .queues, .jobs, .reefs, .egress, .actions, .lanes, .mctp, .armed,
    .block .img, .block .isl, .block .mem, .block .pipe, .block .reef, .block .jl, .block .red, .block .opt, .block
    .svc, .block .hbr]
  | .loadStageStart .. => [.egress, .lanes, .armed, .block .jl]
  | .loadStageDone .. | .loadWaitIdleExit .. | .gateResponse .. => [.mem, .islets, .fns, .optim, .queues, .jobs,
    .reefs, .egress, .actions, .gov, .lanes, .mctp, .armed, .block .img, .block .isl, .block .mem, .block .pipe,
    .block .reef, .block .jl, .block .red, .block .opt, .block .svc, .block .hbr]
  | .loadWriteDone .. => [.mem, .islets, .fns, .optim, .queues, .jobs, .reefs, .egress, .actions, .lanes, .mctp,
    .armed, .block .img, .block .isl, .block .mem, .block .pipe, .block .reef, .block .jl, .block .red, .block .opt,
    .block .svc, .block .sec, .block .hbr]
  | .launchParamsRead .. => [.mem, .islets, .fns, .queues, .egress, .lanes, .mctp, .armed, .block .isl, .block .mem,
    .block .pipe, .block .reef, .block .jl, .block .svc, .block .hbr]
  | .isletStartArrive .. => [.islets, .lanes, .block .isl]
  | .launchTimeout .. => [.mem, .islets, .fns, .queues, .egress, .gov, .lanes, .mctp, .armed, .counts, .block .isl,
    .block .mem, .block .reef, .block .jl, .block .svc, .block .hbr]
  | .collisionForcedGrant .. | .copyPlanStart .. | .channelUnitReceive .. | .mxLoadDispatch .. | .mxSwap ..
    | .mxTileStart .. | .mxCombineStart .. | .vxChainStart .. => [.islets, .block .isl]
  | .isletFault .. | .islStop .. | .isletReset .. | .copyReadReturn .. | .bucketStart .. | .bucketComplete ..
    | .shardCommit .. | .digestRecordAccepted .. | .shardDigestReadDone .. | .adoptRegenerationDone .. => [.mem,
    .islets, .fns, .optim, .queues, .jobs, .egress, .gov, .lanes, .mctp, .armed, .block .isl, .block .mem, .block
    .pipe, .block .reef, .block .jl, .block .red, .block .opt, .block .svc, .block .hbr]
  | .copyPlanComplete .. => [.mem, .islets, .fns, .optim, .queues, .jobs, .reefs, .egress, .gov, .lanes, .mctp,
    .armed, .block .isl, .block .mem, .block .pipe, .block .reef, .block .jl, .block .red, .block .opt, .block .svc,
    .block .hbr]
  | .seqNop .. | .seqMx .. | .seqVx .. | .seqCopy .. | .seqSend .. | .seqRecv .. | .seqWait .. | .seqSetf ..
    | .seqClrf .. | .seqSignal .. | .seqLdcnt .. | .seqLoop .. | .seqJump .. | .seqFence .. | .seqHalt ..
    | .seqStallRelease .. => [.islets, .lanes, .block .img, .block .isl]
  | .channelCreditReturn .. | .gangOpStart .. => [.islets]
  | .controlPacketArrive .. => [.mem, .islets, .fns, .queues, .egress, .lanes, .mctp, .armed, .block .isl, .block
    .mem, .block .reef, .block .jl, .block .svc, .block .hbr]
  | .mxLoadComplete .. | .mxTileComplete .. | .mxCombineComplete .. | .vxChainComplete .. => [.islets, .counts, .block
    .isl]
  | .mxIdleGate .. => [.block .isl]
  | .phaseStart .. => [.islets, .fns, .lanes, .block .isl, .block .pipe]
  | .phaseDone .. => [.fns, .jobs, .egress, .lanes, .armed, .block .pipe, .block .jl]
  | .phaseTimeout .. => [.islets, .fns, .queues, .jobs, .egress, .gov, .armed, .counts, .block .isl, .block .pipe,
    .block .jl, .block .red, .block .svc, .block .hbr]
  | .shoalWindowAccess .. => [.mem, .islets, .fns, .queues, .jobs, .reefs, .egress, .gov, .lanes, .mctp, .armed,
    .block .isl, .block .mem, .block .pipe, .block .reef, .block .jl, .block .red, .block .svc, .block .hbr]
  | .feedCopyDone .. => [.mem, .islets, .fns, .queues, .jobs, .egress, .gov, .lanes, .mctp, .armed, .block .isl,
    .block .mem, .block .pipe, .block .reef, .block .jl, .block .red, .block .svc, .block .hbr]
  | .memoryAccess .. | .mainlandPortDown .. | .mainlandPortRetrained .. => [.mem, .fns, .egress, .lanes, .mctp,
    .armed, .block .img, .block .mem, .block .reef, .block .jl, .block .hbr]
  | .hbmRefresh .. | .refclkFault | .mainlandPortTrainingLoss .. | .mainlandRefresh .. => []
  | .patrolScrub .. => [.mem, .egress, .lanes, .mctp, .armed, .block .mem, .block .reef, .block .jl, .block .hbr]
  | .pageRelocate .. | .migPageStart .. | .demotePageCopied .. => [.mem, .fns, .egress, .lanes, .mctp, .armed, .block
    .mem, .block .reef, .block .jl, .block .sec, .block .hbr]
  | .migGo .. | .migCancel .. => [.fns, .queues, .egress, .armed, .block .mem, .block .jl, .block .svc]
  | .migMap .. | .migCopy .. => [.mem, .fns, .block .mem, .block .reef, .block .sec]
  | .migUnmap .. => [.fns, .block .mem, .block .sec]
  | .migPromote .. | .migDemote .. | .xlateLookup .. | .xlateLookupDone .. => [.fns, .block .mem]
  | .migIngest .. => [.mem, .fns, .egress, .lanes, .armed, .block .mem, .block .reef, .block .jl, .block .sec]
  | .promotePageDone .. | .sweepPageDone .. => [.mem, .fns, .egress, .lanes, .mctp, .armed, .block .img, .block .mem,
    .block .reef, .block .jl, .block .sec, .block .hbr]
  | .migRequestComplete .. => [.fns, .queues, .egress, .lanes, .mctp, .armed, .block .mem, .block .jl, .block .svc,
    .block .sec, .block .hbr]
  | .reefWindowWrite .. => [.reefs, .egress, .lanes, .armed, .block .img, .block .mem, .block .reef, .block .jl]
  | .reefGo .. | .reefCancel .. | .reefAdmit .. | .reefOpStart .. | .reefUncorrectable .. => [.mem, .islets, .fns,
    .queues, .jobs, .reefs, .egress, .gov, .lanes, .mctp, .armed, .block .img, .block .isl, .block .mem, .block .pipe,
    .block .reef, .block .jl, .block .red, .block .svc, .block .hbr]
  | .reefOpEnd .. => [.mem, .islets, .fns, .queues, .jobs, .reefs, .egress, .gov, .lanes, .mctp, .armed, .counts,
    .block .img, .block .isl, .block .mem, .block .pipe, .block .reef, .block .jl, .block .red, .block .svc, .block
    .hbr]
  | .laneFail .. | .flitSend .. | .flitReservedType .. | .idle .. | .readReq .. | .readRsp .. | .interrupt ..
    | .unreachable .. | .claim .. | .claimAck .. | .claimEnd .. | .probe .. | .probeAck .. | .brk .. | .cert ..
    | .keyAuth .. | .keyDone .. | .rekeySwitch .. | .laneSwap .. | .laneSwapAck .. | .rs .. | .rsEnd .. | .ag ..
    | .agEnd .. | .up .. | .upEnd .. | .down .. | .downEnd .. | .vote .. | .voteResult .. | .stepAbort ..
    | .peerLoss .. | .counterLimit .. | .heldFlitRelease .. => [.mem, .islets, .fns, .optim, .queues, .jobs, .reefs,
    .ports, .egress, .actions, .gov, .lanes, .mctp, .armed, .block .img, .block .isl, .block .mem, .block .pipe,
    .block .reef, .block .jl, .block .red, .block .opt, .block .svc, .block .hbr]
  | .laneSwitchOver .. => [.ports, .egress, .mctp, .armed, .block .jl, .block .hbr]
  | .laneSwapTimeout .. | .replayTimeout .. | .livenessTimeout .. | .keyingTimeout .. | .trainTimeout .. => [.mem,
    .islets, .fns, .optim, .queues, .jobs, .reefs, .ports, .egress, .actions, .gov, .lanes, .mctp, .armed, .counts,
    .block .img, .block .isl, .block .mem, .block .pipe, .block .reef, .block .jl, .block .red, .block .opt, .block
    .svc, .block .hbr]
  | .flitCorrupt .. => [.ports, .block .jl]
  | .harbourWatchdog | .warmReset .. | .stackReset .. | .bootReady .. | .trialTimeout | .resetNAssert
    | .pwrGoodNAssert | .testEnAssert | .powerLoss => [.mem, .islets, .fns, .optim, .queues, .jobs, .reefs, .ports,
    .egress, .lead, .actions, .gov, .lanes, .pins, .jtag, .mctp, .jnl, .armed, .watchdogs, .counts, .ticks, .block
    .str, .block .img, .block .isl, .block .mem, .block .pipe, .block .reef, .block .jl, .block .red, .block .opt,
    .block .svc, .block .sec, .block .hbr]
  | .hello .. | .keyShare .. | .portEnable .. | .portReset .. | .portRekey .. | .drbgHealthFail .. => [.mem, .islets,
    .fns, .optim, .queues, .jobs, .reefs, .ports, .egress, .actions, .gov, .lanes, .mctp, .armed, .block .img, .block
    .isl, .block .mem, .block .pipe, .block .reef, .block .jl, .block .red, .block .opt, .block .svc, .block .sec,
    .block .hbr]
  | .keyingResend .. => [.egress]
  | .readTimeout .. => [.fns, .egress, .lanes, .armed, .counts, .block .jl]
  | .flitStall .. | .gateTimeout .. => [.mem, .islets, .fns, .optim, .queues, .jobs, .reefs, .egress, .actions, .gov,
    .lanes, .mctp, .armed, .counts, .block .img, .block .isl, .block .mem, .block .pipe, .block .reef, .block .jl,
    .block .red, .block .opt, .block .svc, .block .hbr]
  | .claimWait => [.egress, .armed, .counts, .block .jl]
  | .trainingDone .. => [.ports, .egress, .block .jl]
  | .portRetry .. => [.ports, .counts, .block .jl]
  | .rekeyThreshold .. => [.ports, .egress, .block .jl, .block .sec]
  | .rekeyTimeout .. => [.ports, .egress, .counts, .block .jl]
  | .rekeyRetry .. => [.ports, .egress, .counts, .block .jl, .block .sec]
  | .routeWrite .. => [.block .jl]
  | .bucketDeadline .. | .voteTimeout .. | .normTimeout .. | .digestTimeout .. => [.mem, .islets, .fns, .optim,
    .queues, .jobs, .egress, .gov, .lanes, .mctp, .armed, .counts, .block .isl, .block .mem, .block .pipe, .block
    .reef, .block .jl, .block .red, .block .opt, .block .svc, .block .hbr]
  | .redResume .. | .redAbortStep .. => [.islets, .fns, .queues, .jobs, .egress, .gov, .armed, .block .isl, .block
    .pipe, .block .jl, .block .red, .block .svc, .block .hbr]
  | .normEntryAccepted .. | .shardUpdateStart .. | .optRecover .. | .optAdopt .. | .cmdStep .. => [.mem, .islets,
    .fns, .optim, .queues, .jobs, .egress, .actions, .gov, .lanes, .mctp, .armed, .block .isl, .block .mem, .block
    .pipe, .block .reef, .block .jl, .block .red, .block .opt, .block .svc, .block .hbr]
  | .queueDoorbell .. => [.queues, .egress, .lanes, .armed, .block .jl, .block .svc]
  | .descriptorFetched .. | .completionWrite .. => [.mem, .fns, .queues, .egress, .lanes, .mctp, .armed, .block .mem,
    .block .reef, .block .jl, .block .svc, .block .hbr]
  | .cmdNop .. | .queueEnable .. | .queueDisable .. => [.fns, .queues, .block .svc]
  | .cmdLaunch .. => [.fns, .queues, .egress, .lanes, .armed, .block .jl, .block .svc]
  | .cmdGenerate .. | .genPoll .. => [.mem, .islets, .fns, .queues, .egress, .gov, .lanes, .mctp, .armed, .block .isl,
    .block .mem, .block .reef, .block .jl, .block .svc, .block .hbr]
  | .cmdMigrate .. => [.fns, .queues, .block .mem]
  | .servicePause .. | .serviceResume .. | .serviceStop .. | .stepRecordWrite .. => [.mem, .fns, .optim, .queues,
    .jobs, .egress, .lanes, .mctp, .armed, .block .mem, .block .pipe, .block .reef, .block .jl, .block .red, .block
    .svc, .block .hbr]
  | .completionDoorbell .. => [.lanes, .block .svc]
  | .controllerWatchdogWrite .. | .harbourWatchdogWrite .. => [.watchdogs]
  | .controllerRestart .. => [.mem, .islets, .fns, .optim, .queues, .jobs, .reefs, .egress, .lead, .actions, .gov,
    .lanes, .mctp, .armed, .counts, .block .img, .block .isl, .block .mem, .block .pipe, .block .reef, .block .jl,
    .block .red, .block .opt, .block .svc, .block .hbr]
  | .controllerRestartDone .. => [.watchdogs, .block .svc]
  | .eventRouteWrite .. => [.egress, .armed, .block .jl, .block .svc]
  | .functionEnable .. | .functionDisable .. | .grantCtlReset .. | .fnCtlReset .. => [.mem, .islets, .fns, .optim,
    .queues, .jobs, .reefs, .egress, .actions, .gov, .lanes, .mctp, .armed, .block .img, .block .isl, .block .mem,
    .block .pipe, .block .reef, .block .jl, .block .red, .block .opt, .block .svc, .block .sec, .block .hbr]
  | .enableComplete .. => [.mem, .islets, .fns, .optim, .queues, .jobs, .reefs, .egress, .actions, .gov, .lanes,
    .mctp, .armed, .block .str, .block .img, .block .isl, .block .mem, .block .pipe, .block .reef, .block .jl, .block
    .red, .block .opt, .block .svc, .block .sec, .block .hbr]
  | .shutdownComplete .. => [.mem, .islets, .fns, .optim, .queues, .jobs, .reefs, .ports, .egress, .actions, .gov,
    .lanes, .mctp, .jnl, .armed, .block .str, .block .img, .block .isl, .block .mem, .block .pipe, .block .reef,
    .block .jl, .block .red, .block .opt, .block .svc, .block .sec, .block .hbr]
  | .keyRotate .. => [.actions, .lanes, .block .sec]
  | .rotationKeyLoaded .. => [.fns, .actions, .block .sec]
  | .sweepPageStart .. => [.mem, .fns, .egress, .lanes, .mctp, .armed, .block .mem, .block .jl, .block .sec, .block
    .hbr]
  | .drbgReseed => [.block .sec]
  | .getVersion .. | .getCapabilities .. | .negotiateAlgorithms .. | .getDigests .. | .getCertificate ..
    | .challenge .. | .getMeasurements .. => [.fns, .egress, .mctp, .armed, .block .jl, .block .hbr]
  | .spdmUnsupported .. | .mctpInGo .. | .mctpOutAck .. | .setEndpointId .. | .getEndpointId ..
    | .getMctpVersionSupport .. | .getMessageTypeSupport .. | .getTid .. | .setTid .. | .getPldmVersion ..
    | .getPldmTypes .. | .getPldmCommands .. | .getPdrRepositoryInfo .. | .getPdr .. | .getSensorReading ..
    | .getStateSensorReadings .. | .pldmUnsupported .. => [.egress, .mctp, .armed, .block .jl, .block .hbr]
  | .hbrEvtClear .. | .hbrEvtRouteWrite .. => [.egress, .armed, .block .jl, .block .hbr]
  | .wakeRequest .. => [.islets, .gov, .lanes, .pins, .block .isl, .block .reef, .block .hbr]
  | .dvfsRequest .. => [.islets, .actions, .gov, .lanes, .pins, .block .str, .block .isl, .block .reef, .block .hbr]
  | .govWindowStart | .chargeEnd .. => [.islets, .gov, .pins, .counts, .block .isl, .block .reef, .block .hbr]
  | .govCfgWrite .. => [.block .reef, .block .hbr]
  | .dvfsVoltageSettled .. => [.gov, .block .str]
  | .tempSample .. => [.mem, .islets, .fns, .optim, .queues, .jobs, .reefs, .ports, .egress, .actions, .gov, .lanes,
    .pins, .mctp, .armed, .block .img, .block .isl, .block .mem, .block .pipe, .block .reef, .block .jl, .block .red,
    .block .opt, .block .svc, .block .hbr]
  | .thermalCapStep .. => [.egress, .gov, .mctp, .armed, .counts, .block .str, .block .jl, .block .hbr]
  | .leadRequest .. => [.fns, .optim, .lead, .actions, .lanes]
  | .leadRelease => [.lead, .lanes, .block .hbr]
  | .leadGrant => [.fns, .optim, .lead, .actions, .lanes, .counts, .block .hbr]
  | .leadHoldTimeout => [.egress, .lead, .lanes, .mctp, .armed, .counts, .block .jl, .block .hbr]
  | .leaderTakeover .. => [.lead, .block .hbr]
  | .gateActionArrive .. => [.actions, .lanes, .block .hbr]
  | .gateGo .. => [.mem, .islets, .fns, .optim, .queues, .jobs, .reefs, .egress, .actions, .gov, .lanes, .pins, .mctp,
    .armed, .block .str, .block .img, .block .isl, .block .mem, .block .pipe, .block .reef, .block .jl, .block .red,
    .block .opt, .block .svc, .block .hbr]
  | .gateDrop .. => [.actions]
  | .snapshotGo .. => [.lanes, .block .hbr]
  | .snapshotUnitAccept .. => [.block .hbr]
  | .stackResetDone .. => [.block .str, .block .mem, .block .hbr]
  | .readyTimeout => [.pins, .counts]
  | .fwStage .. | .fwStageDone .. | .fwCancel .. => [.egress, .lanes, .mctp, .armed, .block .jl, .block .sec, .block
    .hbr]
  | .journalCommit .. | .journalCompact .. | .journalCompactionDone => [.egress, .mctp, .jnl, .armed, .block .jl,
    .block .hbr]
  | .pldmFirmwareUpdate .. => [.egress, .lanes, .mctp, .armed, .block .jl, .block .hbr]
  | .entdaa .. | .setdasa .. => [.mctp]
  | .bypass | .idcode | .samplePreload .. | .extest | .clamp | .highz | .extestPulse | .extestTrain => [.jtag]
  | .resetNRelease | .pwrGoodNRelease | .testEnRelease => [.egress, .pins, .mctp, .jnl, .armed, .block .jl, .block
    .sec, .block .hbr]
  | .grantWrite .. => [.block .sec]
  | .registerWrite _ off _ => offsetTouches off
  | .eventBitClear _ off _ => offsetTouches off
  | .write _ rx => (if rx.flit.sub = 1 then offsetTouches rx.flit.addr else []) ++ [.mem, .islets, .fns, .optim,
    .queues, .jobs, .reefs, .ports, .egress, .actions, .gov, .lanes, .mctp, .armed, .block .img, .block .isl, .block
    .mem, .block .pipe, .block .reef, .block .jl, .block .red, .block .opt, .block .svc, .block .hbr]

end Sys2Proof.Machine
end

