-- ==== Sys2Proof/Certificates/Slice0/Obligations.lean ====
section
/-! DEFINITION. The statements about the block, for the provers. -/

open Sys2Proof Sys2Proof.Machine

/-- O1 (R27, R29, R32, R34, R35; derived). A strait sends, passes, retries, forwards and fails as its rules say.
STRAIT_UNIT_SEND of strait n: with the strait carrying units and running, the class chosen by the class order and the
starvation limit, where one can be sent, sends its first ready unit, and every other ready class has waited one cycle
more. STRAIT_UNIT_ARRIVE: a unit that passes its check leaves flight and is consumable; one that fails first starts a
retry, a resent one that fails again fails the strait. STRAIT_STALL_TIMEOUT fails the strait. STRAIT_CROSSBAR_FORWARD
moves the unit at the head of the first rival in turn to the outgoing strait. Each answers the next state named. That
units wait at their source and refill the writer queues, and that the islands at the reader take at once what is
theirs, is the model's choice (log entry 62, DESIGN CHOICE). -/
def Obligations.StraitCommandsComplete : Prop :=
  (∀ (n : Nat) (ba : Bool) (s : State), n < 35 → s.straitCarries n = true → s.straitRuns n = true → ∃ t, exec
    (.straitUnitSend n ba) s = .next t ∧ ∀ k, k < 4 → t.lane n ba k = (let r := s.straitRefill n ba; if r.nextClass n
    ba = some k then (r.lane n ba k).send else if (r.lane n ba k).isReady then
    { r.lane n ba k with waited := (r.lane n ba k).waited + 1 } else r.lane n ba k)) ∧
  (∀ (n cls syndrome : Nat) (ba : Bool) (t : State) (s : State), n < 35 → cls < 4 → s.straitCarries n = true →
    s.straitRuns n = true → (s.lane n ba cls).flight ≠ [] → (s.straitPass n ba cls).capeTakes n ba cls = t → (∀ e ∈
    dieLanes (straitReader n ba), t.laneTake e.1 (straitReader e.1 true == straitReader n ba) e.2 = none) → exec
    (.straitUnitArrive n ba cls true syndrome) s = .next t) ∧
  (∀ (n cls syndrome : Nat) (ba : Bool) (s : State), n < 35 → cls < 4 → s.straitCarries n = true → s.straitRuns n = true
    → (s.lane n ba cls).flight ≠ [] → exec (.straitUnitArrive n ba cls false syndrome) s = .next (if (s.lane n ba
    cls).retry then (s.setFld .STR_ERR_LAST_SYNDROME n 0 syndrome).straitFail n else s.straitRetry n ba cls syndrome)) ∧
  (∀ (n : Nat) (ba : Bool) (s : State), n < 35 → s.straitState n ≠ 3 → s.straitRuns n = true → s.heldInReset = false →
    (stackOfStrait n).any (bit (s.fld .HBR_RESET_STAT_STACK_BUSY)) = false → exec (.straitStallTimeout n ba) s = .next
    (s.straitFail n)) ∧
  (∀ (die out cls n : Nat) (u : StraitUnit) (rest : List StraitUnit) (ns : List Nat) (t : State) (s : State), die < 4 →
    out < 18 → cls < 4 → s.straitCarries out = true → s.relocking die = false → (s.lane out (leavesBA out die)
    cls).readyCount < 16 → (s.crossbarRivals die out cls).filter (fun n => storeGet 0 s.xturn (turnKey die out cls) ≤
    n) ++ s.crossbarRivals die out cls = n :: ns → (s.lane n (straitReader n true == die) cls).reader = u :: rest →
    s.crossbarMove die out cls n u rest = t → (∀ e ∈ dieLanes (die), t.laneTake e.1 (straitReader e.1 true == die) e.2
    = none) → exec (.straitCrossbarForward die out cls) s = .next t)

/-- O2 (R47, R52, R53, R54, R56, R57, R58, R59, R65, R66; derived). A load starts, is cancelled, checked, staged, holds,
quiesces, writes and ends as its rules say. For an enabled function: START begins a load with the latched fields, or
raises REJ_BUSY where one is in progress; CANCEL before QUIESCE ends it REFUSED; a waiting load command starts once no
load is in progress; the fetched header passes into STAGE or ends the load REFUSED with the check that failed; the
staging engine takes and ends the stage of the head of its queue; a fault ends the load; WAIT_IDLE, QUIESCE and WRITE
end as named. -/
def Obligations.LoadCommandsComplete : Prop :=
  (∀ (fn : Nat) (w : Word) (s : State), s.fnLive fn = true → bit w.toNat 1 = false → bit w.toNat 0 = true → exec
    (.loadStart fn w) s = .next (let s := s.writeReg .IMG_LOAD_CTL fn 0 w; if s.loading fn then s.fnEvent fn 0
    .IMG_EVT_REJ_BUSY fn else s.loadBegin fn (4096 * s.fld .IMG_SRC_ADDR_ADDR fn) (s.fld .IMG_LOAD_CTL_SRC fn == 1)
    (s.fld .IMG_ATOLL_SEL_SEL fn) (s.fld .IMG_LOAD_CTL_FORCE fn == 1) (s.fld .IMG_LOAD_CTL_MODE fn == 1) none)) ∧
  (∀ (fn : Nat) (w : Word) (s : State), s.fnLive fn = true → bit w.toNat 1 = true → bit w.toNat 0 = false → (s.writeReg
    .IMG_LOAD_CTL fn 0 w).loading fn = true → (s.writeReg .IMG_LOAD_CTL fn 0 w).loadState fn ≤ loadWaitIdle → exec
    (.loadCancel fn w) s = .next ((s.writeReg .IMG_LOAD_CTL fn 0 w).loadEnd fn loadRefused 0xC .aborted)) ∧
  (∀ (fn : Nat) (r : CmdRef) (rest : List CmdRef) (c : Command) (s : State), s.fnLive fn = true → s.loading fn = false →
    (s.fnState fn).loadsWaiting = r :: rest → (s.modFn fn (fun f => { f with loadsWaiting := rest })).command r = some
    c → (s.modFn fn (fun f => { f with loadsWaiting := rest })).ringRoom fn r.q = true → exec (.loadQueuedStart fn) s
    = .next ((s.modFn fn (fun f => { f with loadsWaiting := rest })).loadCommand r c)) ∧
  (∀ (fn : Nat) (ans : Answer) (t : State) (a : Answer) (s : State), s.fnLive fn = true → s.loadState fn =
    loadCheckState → s.sourceReady fn (s.load fn).src 4096 (s.load fn).host ans = true → s.sourceRead fn (s.load
    fn).src 4096 (s.load fn).host ans = (t, a) → a.status = .ok → exec (.loadHeaderFetched fn ans) s = .next (match
    t.loadCheck fn a.data with | some x => t.loadEnd fn loadRefused x.1 x.2 | none => t.headerPasses fn a.data)) ∧
  (∀ (fn : Nat) (ans : Answer) (t : State) (a : Answer) (s : State), s.fnLive fn = true → s.loadState fn =
    loadCheckState → s.sourceReady fn (s.load fn).src 4096 (s.load fn).host ans = true → s.sourceRead fn (s.load
    fn).src 4096 (s.load fn).host ans = (t, a) → a.status ≠ .ok → exec (.loadHeaderFetched fn ans) s = .next
    (t.loadEnd fn loadRefused 0xD a.status)) ∧
  (∀ (fn : Nat) (s : State), s.staging.head? = some fn → s.stagingBusy = false → s.loadState fn = loadStage → exec
    (.loadStageStart fn) s = .next (let t : State := { s with stagingBusy := true }; if (s.load fn).host then
    t.hostRead fn 16 (s.load fn).src (imgLength (s.load fn).header) else t)) ∧
  (∀ (fn : Nat) (ans : Answer) (t : State) (a : Answer) (s : State), s.staging.head? = some fn → s.stagingBusy = true →
    s.loadState fn = loadStage → s.sourceReady fn (s.load fn).src (imgLength (s.load fn).header) (s.load fn).host ans
    = true → s.sourceRead fn (s.load fn).src (imgLength (s.load fn).header) (s.load fn).host ans = (t, a) → a.status =
    .ok → exec (.loadStageDone fn ans) s = .next (((({ t with staging := t.staging.tail, stagingBusy := false } :
    State).modLoad fn (fun l => { l with staged := a.data, digest := shake256 64 a.data })).enterLoad fn
    loadWaitIdle).loadHolds fn)) ∧
  (∀ (fn : Nat) (st : Status) (s : State), loadFaultStatus st = true → s.loading fn = true → s.loadState fn ≠
    loadWaitIdle → exec (.loadFault fn st) s = .next (s.loadEnd fn (if s.loadState fn < loadQuiesce then loadRefused
    else loadFailed) 0xD st)) ∧
  (∀ (fn : Nat) (s : State), s.loading fn = true → s.loadState fn = loadWaitIdle → s.loadTargetsIdle fn = true → (s.load
    fn).gate = none → (s.loadDies fn).length ≤ 1 → exec (.loadWaitIdleExit fn) s = .next (s.enterQuiesce fn)) ∧
  (∀ (fn : Nat) (s : State), s.loading fn = true → s.loadState fn = loadWaitIdle → s.loadTargetsIdle fn = true → (s.load
    fn).gate = none → 1 < (s.loadDies fn).length → s.straitState (18 + s.commandDie fn) ≠ 3 → s.heldEpoch
    (s.commandDie fn) ≠ 0 → exec (.loadWaitIdleExit fn) s = .next ((s.issueAction (.load fn) (s.commandDie fn)
    (s.heldEpoch (s.commandDie fn)) (s.loadDies fn)).1.modLoad fn (fun l => { l with gate := some s.nextAction }))) ∧
  (∀ (fn : Nat) (s : State), s.loading fn = true → s.loadState fn = loadQuiesce → (setBits (s.loadStacks fn) 8).any (fun
    k => (s.reef k).ops.any (fun o => o.fn == fn)) = false → s.loadStale fn = false → exec (.loadQuiesceDone fn) s =
    .next ((s.loadClears fn).enterLoad fn loadWrite)) ∧
  (∀ (fn : Nat) (s : State), s.loading fn = true → s.loadState fn = loadWrite → s.loadStale fn = false → exec
    (.loadWriteDone fn) s = .next (((((s.loadInstall fn).enterLoad fn loadActivate).loadActivates fn).recordChange
    fn).loadEnd fn loadDone 0 .ok))

/-- O3 (R73, R74, R86, R87, R100, R103, R448; derived). A launch starts its islets and times out; an islet stops, resets
and faults; a control packet arrives. LAUNCH_PARAMS_READ with its parameters read and its islets idle writes the block
and starts the islets; ISLET_START_ARRIVE starts one islet on another die; LAUNCH_TIMEOUT ends the launch ABORTED
after its deadline; ISL_STOP and ISLET_RESET act on an islet of the writing function; ISLET_FAULT locates, journals
and ends (that the journal record has type 0x50, and how its payload is laid out, is the model's choice, log entry 23,
DEDUCED); CONTROL_PACKET_ARRIVE sets a flag, returns credits or takes a halt notice. -/
def Obligations.LaunchCommandsComplete : Prop :=
  (∀ (lid : Nat) (ans : Answer) (l : Launch) (s : State), storeGet {} s.launches lid = l → s.launchOpen lid = true →
    l.started = false → l.source = 2 → s.entryUnsafe l.fn l.entry = false → l.forService = false → (launchIslets
    l).any (fun i => s.isletActive i || (s.islet i).malformed) = false → s.launchRoom l = true → exec
    (.launchParamsRead lid ans) s = .next (s.launchStarts lid l [])) ∧
  (∀ (lid : Nat) (ans : Answer) (l : Launch) (u : State) (a : Answer) (s : State), storeGet {} s.launches lid = l →
    s.launchOpen lid = true → l.started = false → l.source = 1 → s.entryUnsafe l.fn l.entry = false → l.forService =
    false → entryParamLen l.entry - l.given.length ≠ 0 → s.hostReady l.fn l.addr (entryParamLen l.entry -
    l.given.length) ans = true → s.hostAnswer l.fn l.addr (entryParamLen l.entry - l.given.length) ans = (u, a) →
    a.status = .ok → (launchIslets l).any (fun i => u.isletActive i || (u.islet i).malformed) = false → s.launchRoom l
    = true → exec (.launchParamsRead lid ans) s = .next (u.launchStarts lid l a.data)) ∧
  (∀ (lid islet : Nat) (s : State), (storeGet {} s.launches lid).starting.contains islet = true → s.wayOpen (leadIsland
    (entryAtolls (storeGet {} s.launches lid).entry)) (islDie islet) = true → exec (.isletStartArrive lid islet) s =
    .next ((s.modLaunch lid (fun l => { l with starting := l.starting.erase islet })).launchIslet lid islet (storeGet
    {} s.launches lid))) ∧
  (∀ (lid : Nat) (s : State), s.launchOpen lid = true → (storeGet {} s.launches lid).started = true → entryTimeout
    (storeGet {} s.launches lid).entry ≠ 0 → exec (.launchTimeout lid) s = .next ((s.reachCount (leadIsland
    (entryAtolls (storeGet {} s.launches lid).entry)) (launchClose (storeGet {} s.launches lid))).launchStop lid
    .aborted)) ∧
  (∀ (fn islet : Nat) (w : Word) (s : State), s.fnLive fn = true → islet < 384 → s.isletFn islet = fn → bit w.toNat 0 =
    true → bit w.toNat 1 = false → exec (.islStop fn islet w) s = .next ((s.stopIslet islet causeStopped).taskEnd
    (s.islet islet).task .aborted)) ∧
  (∀ (fn islet : Nat) (w : Word) (s : State), s.fnLive fn = true → islet < 384 → s.isletFn islet = fn → bit w.toNat 0 =
    false → bit w.toNat 1 = true → exec (.isletReset fn islet w) s = .next (s.isletResets islet)) ∧
  (∀ (islet cause place index : Nat) (u : State) (s : State), islet < 384 → s.isletActive islet = true → (cause = 1 ∨
    cause = 2 ∨ cause = 5 ∨ cause = 6) → (s.drawn.isletErr islet cause place index (1 + s.free % 255)).straitOffer
    (islDie islet) 16 3 (unitsOf 32) = u → exec (.isletFault islet cause place index) s = .next ((u.journal 0x50
    (u.isletRecord islet cause place index (1 + s.free % 255))).isletFaults islet cause .uncorrectableMem)) ∧
  (∀ (src dst f : Nat) (p : Packet) (s : State), s.packets.find? (fun p => p.src == src && p.dst == dst) = some p →
    s.wayOpen (packetDie src) (packetDie dst) = true → p.kind = .flagSet f → exec (.controlPacketArrive src dst) s =
    .next (({ s with packets := s.packets.erase p } : State).setFlags dst (2 ^ f))) ∧
  (∀ (src dst c n : Nat) (p : Packet) (s : State), s.packets.find? (fun p => p.src == src && p.dst == dst) = some p →
    s.wayOpen (packetDie src) (packetDie dst) = true → p.kind = .release c n → exec (.controlPacketArrive src dst) s =
    .next (({ s with packets := s.packets.erase p } : State).modIslet dst (fun x =>
    { x with creditsIn := storeSet 0 x.creditsIn c (storeGet 0 x.creditsIn c + n) }))) ∧
  (∀ (src dst lid : Nat) (p : Packet) (s : State), s.packets.find? (fun p => p.src == src && p.dst == dst) = some p →
    s.wayOpen (packetDie src) (packetDie dst) = true → p.kind = .halt (.launch lid) → (storeGet {} s.launches
    lid).client ≠ .generation true → exec (.controlPacketArrive src dst) s = .next
    (({ s with packets := s.packets.erase p } : State).launchHalted lid src))

/-- O4 (R84, R85, R89, R90, R91, R92, R93, R96, R97; derived). Copy engines, port B and the mesh channels move words as
their rules say. COLLISION_FORCED_GRANT makes the waiting write and counts it; COPY_PLAN_START takes the next queued
plan of an idle engine; COPY_READ_RETURN of a scratchpad move writes its word; COPY_PLAN_COMPLETE without a chain
counts the plan, leaves the engine idle and sets the flag; CHANNEL_UNIT_HOP offers the choices of the port in turn;
CHANNEL_UNIT_RECEIVE writes the ring word, or leaves it waiting; CHANNEL_CREDIT_RETURN adds the credits. -/
def Obligations.CopyAndChannelCommandsComplete : Prop :=
  (∀ (islet bank c : Nat) (w : PortBWrite) (s : State), (s.islet islet).portB.find? (fun w => spBank w.off == bank) =
    some w → w.writer = .channel c → exec (.collisionForcedGrant islet bank) s = .next ((((s.modIslet islet (fun x =>
    { x with portB := x.portB.erase w })).spWrite islet w.off w.data).satFld .ISL_COLL_LIMIT_HITS islet 0
    1).unitReceived islet c)) ∧
  (∀ (islet bank e : Nat) (w : PortBWrite) (s : State), (s.islet islet).portB.find? (fun w => spBank w.off == bank) =
    some w → w.writer = .engine e → exec (.collisionForcedGrant islet bank) s = .next ((((s.modIslet islet (fun x =>
    { x with portB := x.portB.erase w })).spWrite islet w.off w.data).satFld .ISL_COLL_LIMIT_HITS islet 0 1).modIslet
    islet (fun x => x.setEngine e
    { x.engine e with run := (x.engine e).run.map (fun r => { r with status := if r.status = .ok then .collision else r.status }) }))) ∧
  (∀ (islet eng corrected n flag : Nat) (rest : List (Nat × Nat)) (p : Plan) (t : State) (s : State), islet < 384 → eng
    < 2 → ((s.islet islet).engine eng).run = none → ((s.islet islet).engine eng).queue = (n, flag) :: rest →
    (s.modIslet islet (fun x => x.setEngine eng { (s.islet islet).engine eng with queue := rest })).spCorrected islet
    corrected = t → t.planAt islet n = some p → p.legal = true → exec (.copyPlanStart islet eng corrected) s = .next
    (t.planRuns islet eng n flag (min (planWindow p) p.words))) ∧
  (∀ (islet eng k upset losses : Nat) (r : CopyRun) (p : Plan) (s : State), ((s.islet islet).engine eng).run = some r →
    s.planAt islet r.plan = some p → r.out.head? = some k → (s.islet islet).portB.any (fun w => w.writer == .engine
    eng && spBank w.off == spBank (p.spAt p.spOff2 k).toNat) = false → p.kind = 2 → exec (.copyReadReturn islet eng k
    upset losses) s = .next (s.planWord islet eng k p p.spOff2 (s.spRead islet (p.spAt p.spOff k).toNat 32) losses)) ∧
  (∀ (islet eng corrected : Nat) (r : CopyRun) (p : Plan) (s : State), ((s.islet islet).engine eng).run = some r →
    s.planAt islet r.plan = some p → r.out = [] → (s.islet islet).portB.any (fun w => w.writer == .engine eng) = false
    → p.kind ≠ 1 → p.words ≤ r.next → p.chain = false → exec (.copyPlanComplete islet ⟨eng, corrected⟩) s = .next
    ((s.planDone islet eng r).planLast islet eng r.flag)) ∧
  (∀ (islet eng corrected : Nat) (r : CopyRun) (p q : Plan) (t : State) (s : State), ((s.islet islet).engine eng).run =
    some r → s.planAt islet r.plan = some p → r.out = [] → (s.islet islet).portB.any (fun w => w.writer == .engine
    eng) = false → p.kind ≠ 1 → p.words ≤ r.next → p.chain = true → (s.planDone islet eng r).spCorrected islet
    corrected = t → t.planAt islet p.next = some q → q.legal = true → exec (.copyPlanComplete islet ⟨eng, corrected⟩)
    s = .next (t.planRuns islet eng p.next r.flag (min (planWindow q) q.words))) ∧
  (∀ (islet eng corrected : Nat) (r : CopyRun) (p : Plan) (t : State) (s : State), ((s.islet islet).engine eng).run =
    some r → s.planAt islet r.plan = some p → r.out = [] → (s.islet islet).portB.any (fun w => w.writer == .engine
    eng) = false → p.kind = 1 → p.chain = false → s.planForbidden islet p r.next = false → s.planWrites islet eng p
    r.next = (t, .ok, true) → ((t.islet islet).engine eng).run ≠ none → exec (.copyPlanComplete islet ⟨eng,
    corrected⟩) s = .next ((t.planDone islet eng r).planLast islet eng r.flag)) ∧
  (∀ (islet port id : Nat) (u : ChanUnit) (rest : List (Nat × ChanUnit)) (t : State) (s : State), islet < 384 → 0 < port
    → port < 6 → s.hopChoices islet port = (id, u) :: rest → (s.hopTaken islet port id).hopLink islet port id u =
    .moved t → (∀ e ∈ dieLanes (islDie islet), t.laneTake e.1 (straitReader e.1 true == islDie islet) e.2 = none) →
    exec (.channelUnitHop islet port) s = .next t) ∧
  (∀ (islet chan losses : Nat) (u : ChanUnit) (rest : List ChanUnit) (e : RecvEnd) (t : State) (s : State), storeGet {}
    (s.islet islet).recvs chan = e → e.arrived = u :: rest → (s.islet islet).portB.any (fun w => w.writer == .channel
    chan) = false → s.portBWrite islet { off := e.ringOff + e.wr, data := u.data, writer := .channel chan } losses = t
    → exec (.channelUnitReceive islet chan losses) s = .next (if s.portBWaits islet losses then t else t.unitReceived
    islet chan)) ∧
  (∀ (islet chan k : Nat) (e : SendEnd) (s : State), (s.islet islet).sends.find? (fun e => e.1 == chan) = some (k, e) →
    exec (.channelCreditReturn islet chan) s = .next (s.setIslet islet
    { s.islet islet with creditsIn := storeSet 0 (s.islet islet).creditsIn chan 0, sends := storeSet {} (s.islet islet).sends chan { e with credits := e.credits + storeGet 0 (s.islet islet).creditsIn chan } }))

/-- O5 (R97, R100, R101, R102, R103, R104; derived). A running sequencer issues the instruction at its program counter.
With the sequencer of an islet running and an instruction of the row at its program counter, each SEQ command answers
the state in which that instruction has acted: NOP goes on; MX, VX and COPY queue an operation or stall; SEND and RECV
move words and credits over a configured channel; WAIT passes or stalls; SETF, CLRF and LDCNT write flags or a counter
and go on; SIGNAL sends a flag packet; LOOP and JUMP set the program counter; FENCE waits; HALT halts and sends its
notice. SEQ_STALL_RELEASE tries a stalled instruction again. -/
def Obligations.SequencerIssues : Prop :=
  (∀ (islet : Nat) (s : State), islet < 384 → s.seqState islet = seqRunning → insOp (s.instruction islet) = 0 → exec
    (.seqNop islet) s = .next (s.seqNext islet)) ∧
  (∀ (islet : Nat) (s : State), islet < 384 → s.seqState islet = seqRunning → insOp (s.instruction islet) = 1 → exec
    (.seqMx islet) s = .next (s.insMx islet (s.instruction islet))) ∧
  (∀ (islet : Nat) (s : State), islet < 384 → s.seqState islet = seqRunning → insOp (s.instruction islet) = 2 → exec
    (.seqVx islet) s = .next (s.insVx islet (s.instruction islet))) ∧
  (∀ (islet : Nat) (s : State), islet < 384 → s.seqState islet = seqRunning → insOp (s.instruction islet) = 3 → exec
    (.seqCopy islet) s = .next (s.insCopy islet (s.instruction islet))) ∧
  (∀ (islet : Nat) (s : State), islet < 384 → s.seqState islet = seqRunning → insOp (s.instruction islet) = 6 → exec
    (.seqWait islet) s = .next (s.insWait islet (s.instruction islet))) ∧
  (∀ (islet : Nat) (s : State), islet < 384 → s.seqState islet = seqRunning → insOp (s.instruction islet) = 7 → exec
    (.seqSetf islet) s = .next ((s.setFlags islet (bits (s.instruction islet).toNat 0 32)).seqNext islet)) ∧
  (∀ (islet : Nat) (s : State), islet < 384 → s.seqState islet = seqRunning → insOp (s.instruction islet) = 8 → exec
    (.seqClrf islet) s = .next ((s.clearFlags islet (bits (s.instruction islet).toNat 0 32)).seqNext islet)) ∧
  (∀ (islet : Nat) (s : State), islet < 384 → s.seqState islet = seqRunning → insOp (s.instruction islet) = 9 → exec
    (.seqSignal islet) s = .next (s.insSignal islet (s.instruction islet))) ∧
  (∀ (islet : Nat) (s : State), islet < 384 → s.seqState islet = seqRunning → insOp (s.instruction islet) = 10 → exec
    (.seqLdcnt islet) s = .next ((s.setCounter islet (bits (s.instruction islet).toNat 0 2) (bits (s.instruction
    islet).toNat 24 32)).seqNext islet)) ∧
  (∀ (islet : Nat) (s : State), islet < 384 → s.seqState islet = seqRunning → insOp (s.instruction islet) = 11 → exec
    (.seqLoop islet) s = .next (s.insLoop islet (s.instruction islet))) ∧
  (∀ (islet : Nat) (s : State), islet < 384 → s.seqState islet = seqRunning → insOp (s.instruction islet) = 12 → exec
    (.seqJump islet) s = .next (s.seqAt islet (bits (s.instruction islet).toNat 32 13))) ∧
  (∀ (islet : Nat) (s : State), islet < 384 → s.seqState islet = seqRunning → insOp (s.instruction islet) = 13 → exec
    (.seqFence islet) s = .next (s.insFence islet)) ∧
  (∀ (islet : Nat) (s : State), islet < 384 → s.seqState islet = seqRunning → insOp (s.instruction islet) = 14 → exec
    (.seqHalt islet) s = .next (s.insHalt islet)) ∧
  (∀ (islet corrected k : Nat) (e : SendEnd) (s : State), islet < 384 → s.seqState islet = seqRunning → insOp
    (s.instruction islet) = 4 → (s.islet islet).sends.find? (fun e => e.1 == bits (s.instruction islet).toNat 0 5) =
    some (k, e) → ∃ t, exec (.seqSend ⟨islet, corrected⟩) s = .next (t.spCorrected islet corrected) ∧ s.insSend islet
    (s.instruction islet) = .next t) ∧
  (∀ (islet k : Nat) (e : RecvEnd) (s : State), islet < 384 → s.seqState islet = seqRunning → insOp (s.instruction
    islet) = 5 → (s.islet islet).recvs.find? (fun e => e.1 == bits (s.instruction islet).toNat 0 5) = some (k, e) → ∃
    t, exec (.seqRecv islet) s = .next t ∧ s.insRecv islet (s.instruction islet) = .next t) ∧
  (∀ (islet corrected k : Nat) (e : SendEnd) (s : State), islet < 384 → s.seqState islet = seqWaiting → insOp
    (s.instruction islet) = 4 → (s.islet islet).sends.find? (fun e => e.1 == bits (s.instruction islet).toNat 0 5) =
    some (k, e) → ∃ t, exec (.seqStallRelease ⟨islet, corrected⟩) s = .next (t.spCorrected islet corrected) ∧
    s.insSend islet (s.instruction islet) = .next t) ∧
  (∀ (islet corrected : Nat) (s : State), islet < 384 → s.seqState islet = seqWaiting → insOp (s.instruction islet) ≤ 14
    → insOp (s.instruction islet) ≠ 4 → insOp (s.instruction islet) ≠ 5 → ∃ t, exec (.seqStallRelease ⟨islet,
    corrected⟩) s = .next t ∧ s.runIns islet = .next t)

/-- O6 (R108, R117, R119, R122, R123, R126, R132, R139, R142; derived). Gang operations are assembled, dispatched,
swapped, run and completed as their rules say. With legal, agreeing heads GANG_OP_START assembles the operation, or
asks for wake-ups of gated arrays; MX_LOAD_DISPATCH, MX_LOAD_COMPLETE, MX_SWAP, MX_TILE_START, MX_TILE_COMPLETE,
MX_COMBINE_START and MX_COMBINE_COMPLETE answer the states of the gang operations named; MX_IDLE_GATE gates an idle
array. -/
def Obligations.MatrixCommandsComplete : Prop :=
  (∀ (islet : Nat) (s : State), islet < 384 → (s.islet (s.gangLead islet)).mx.assembled = false → (s.gangIslets
    islet).any (fun i => (s.islet i).mx.queue.isEmpty) = false → (s.gangIslets islet).all s.headLegal = true →
    s.headsAgree (s.gangIslets islet) = true → ((s.gangIslets islet).map (fun i => ((s.islet i).mx.queue.head?).map
    (·.n))).eraseDups.length ≤ 1 → exec (.gangOpStart islet) s = .next (if ((s.gangIslets islet).filter (fun i =>
    s.fld .MX_STAT_GATED i == 1)).isEmpty then s.modMx (s.gangLead islet) (fun m => { m with assembled := true }) else
    s.gangWakes ((s.gangIslets islet).filter (fun i => s.fld .MX_STAT_GATED i == 1)))) ∧
  (∀ (islet : Nat) (s : State), islet < 384 → s.headReady (s.gangLead islet) 0 = true → (s.islet (s.gangLead
    islet)).mx.loads.any (fun e => e.1 == (mxTarget (s.gangOf (s.gangLead islet)) (s.mxHead (s.gangLead islet)))) =
    false → exec (.mxLoadDispatch islet) s = .next (s.gangLoads (s.gangLead islet) (mxTarget (s.gangOf (s.gangLead
    islet)) (s.mxHead (s.gangLead islet))))) ∧
  (∀ (islet quad : Nat) (corrected : List (Nat × Nat)) (s : State), islet < 384 → (s.gangIslets (s.gangLead islet)).any
    (fun i => !((s.islet i).mx.loads.any (fun e => e.1 == quad))) = false → exec (.mxLoadComplete islet quad
    corrected) s = .next ((s.gangLoaded (s.gangLead islet) quad).gangReads (s.gangIslets (s.gangLead islet))
    corrected)) ∧
  (∀ (islet : Nat) (s : State), islet < 384 → s.headReady (s.gangLead islet) 1 = true → descSwap (s.mxHead (s.gangLead
    islet)) = true → (s.islet (s.gangLead islet)).mx.swapped = false → (s.gangIslets (s.gangLead islet)).any (fun i =>
    !(s.islet i).mx.loads.isEmpty) = false → (s.gangIslets (s.gangLead islet)).any (fun i => (storeGet ({} : StatSet)
    (s.islet i).mx.shadow (mxTarget (s.gangOf (s.gangLead islet)) (s.mxHead (s.gangLead islet)))).state != 2) = false
    → exec (.mxSwap islet) s = .next (s.gangSwaps (s.gangLead islet) (mxTarget (s.gangOf (s.gangLead islet)) (s.mxHead
    (s.gangLead islet))))) ∧
  (∀ (islet : Nat) (s : State), islet < 384 → s.headReady (s.gangLead islet) 1 = true → (descSwap (s.mxHead (s.gangLead
    islet)) && !(s.islet (s.gangLead islet)).mx.swapped) = false → (s.gangIslets (s.gangLead islet)).any (fun i =>
    !tileMeets (s.gangRow i + 1 == gangRows (s.gangOf i)) (s.gangOf i) (s.mxHead i) (storeGet {} (s.islet i).mx.active
    (mxTarget (s.gangOf (s.gangLead islet)) (s.mxHead (s.gangLead islet))))) = false → exec (.mxTileStart islet) s =
    .next (s.popGang (s.gangLead islet) (fun m op =>
    { m with tiles := storeSet [] m.tiles (mxTarget (s.gangOf (s.gangLead islet)) (s.mxHead (s.gangLead islet))) (storeGet [] m.tiles (mxTarget (s.gangOf (s.gangLead islet)) (s.mxHead (s.gangLead islet))) ++ [{ op with set := storeGet {} m.active (mxTarget (s.gangOf (s.gangLead islet)) (s.mxHead (s.gangLead islet))) }]) }))) ∧
  (∀ (islet quad stalls mxCorrected cut : Nat) (spCorrected : List (Nat × Nat)) (t : State) (s : State), islet < 384 →
    (s.tileOf (s.gangLead islet) quad).isNone = false → (s.gangIslets (s.gangLead islet)).any (fun i => (s.tileOf i
    quad).isNone) = false → s.tileWaits (s.gangLead islet) quad = false → s.gangFill islet quad = (t, cut, true) →
    exec (.mxTileComplete islet quad stalls spCorrected mxCorrected) s = .next (t.gangTileOut (s.gangLead islet) quad
    cut stalls spCorrected mxCorrected)) ∧
  (∀ (islet : Nat) (s : State), islet < 384 → s.headReady (s.gangLead islet) 2 = true → (s.gangIslets (s.gangLead
    islet)).any (fun i => !((s.islet i).mx.loads.isEmpty && (s.islet i).mx.tiles.all (·.2.isEmpty))) = false →
    (s.gangEnds (s.gangLead islet)).any (fun i => (s.islet i).vx.run.isSome) = false → exec (.mxCombineStart islet) s
    = .next (s.gangCombine (s.gangLead islet) (s.gangEnds (s.gangLead islet)))) ∧
  (∀ (islet mxCorrected : Nat) (spCorrected : List (Nat × Nat)) (s : State), islet < 384 → (s.gangIslets (s.gangLead
    islet)).any (fun i => (s.islet i).mx.combine.isNone) = false → exec (.mxCombineComplete islet spCorrected
    mxCorrected) s = .next (((s.gangCombined (s.gangLead islet)).gangReads (s.gangIslets (s.gangLead islet))
    spCorrected).gangAccReads (s.gangIslets (s.gangLead islet)) mxCorrected)) ∧
  (∀ (islet : Nat) (s : State), islet < 384 → (s.islet islet).mx.idle = true → s.fld .MX_GATE_CFG_IDLE_GATE islet ≠ 0 →
    exec (.mxIdleGate islet) s = .next (s.setFld .MX_STAT_GATED islet 0 1))

/-- O7 (R155, R181, R183, R184, R193, R195, R196, R209; derived). Chains start and complete; phases start, end and time
out; a feed copy completes. VX_CHAIN_START runs the head of the VX queue where its program keeps the limits;
VX_CHAIN_COMPLETE writes what a sound chain leaves; PHASE_START begins the next phase once nothing keeps it waiting,
PHASE_DONE ends it once every islet has halted, PHASE_TIMEOUT aborts the step; FEED_COPY_DONE puts the record in its
frame. -/
def Obligations.VectorAndPhaseCommandsComplete : Prop :=
  (∀ (islet n flag : Nat) (rest : List (Nat × Nat)) (p : VProg) (s : State), islet < 384 → (s.islet islet).vx.queue =
    (n, flag) :: rest → (s.islet islet).vx.run = none → (s.islet islet).mx.combine = none → s.vxProgram islet n = some
    p → n < 512 → p.legal (isLagoon islet) = true → p.sideLegal = true → exec (.vxChainStart islet) s = .next
    (s.chainRuns islet n flag rest)) ∧
  (∀ (islet stalls spCorrected vxCorrected n flag : Nat) (p : VProg) (s : State), (s.islet islet).vx.run = some (n,
    flag) → s.vxProgram islet n = some p → (s.chainCtx islet p).sound = true → exec (.vxChainComplete islet stalls
    spCorrected vxCorrected) s = .next (s.chainEnds islet flag p stalls spCorrected vxCorrected)) ∧
  (∀ (fn slot k m : Nat) (rest : List (Nat × Nat)) (v : StepSvc) (s : State), (s.fnState fn).step = some v → (s.stage fn
    slot).todo = (k, m) :: rest → v.point = .running → (s.stage fn slot).running = none → s.phaseWaits fn slot k =
    false → (k = 0 → m = 0 → s.shardsCurrent fn slot = true) → s.pipeSound fn = true → (stageIslets (s.stageRecOf fn
    slot)).any (fun i => (s.islet i).malformed) = false → exec (.phaseStart fn slot) s = .next (s.phaseBegins fn slot
    k m rest v)) ∧
  (∀ (fn slot k m : Nat) (v : StepSvc) (s : State), (s.fnState fn).step = some v → (s.stage fn slot).running = some (k,
    m) → (stageIslets (s.stageRecOf fn slot)).all (fun i => (s.stage fn slot).halted.contains i && (s.islet
    i).copyIdle && !s.packets.any (fun q => q.src == i && q.kind == .copyIdle fn slot)) = true → (stageTimeout
    (s.stageRecOf fn slot) = 0 ∨ (s.stage fn slot).heard ≤ phaseClose (s.stageRecOf fn slot) (s.stage fn slot).opened)
    → exec (.phaseDone fn slot) s = .next (s.phaseEnds fn slot k m v)) ∧
  (∀ (fn slot k m : Nat) (s : State), (s.stage fn slot).running = some (k, m) → stageTimeout (s.stageRecOf fn slot) ≠ 0
    → s.phaseIsDone fn slot = false → exec (.phaseTimeout fn slot) s = .next ((s.reachCount (stageHome (s.stageRecOf
    fn slot)) (phaseClose (s.stageRecOf fn slot) (s.stage fn slot).opened)).abortStep fn .aborted true)) ∧
  (∀ (fn slot m : Nat) (rest : List (Nat × Nat)) (v : StepSvc) (ans a : Answer) (t u w : State) (s : State), (s.fnState
    fn).step = some v → (s.stage fn slot).todo = (0, m) :: rest → (s.stage fn slot).feeding = true → v.point =
    .running → bit v.flags 0 = true → s.prepareWrite fn (shoalRingBase (s.shoalRecOf fn slot) + (s.stage fn
    slot).start) (stageFeedBytes (s.stageRecOf fn slot)) = (t, true) → ans.status = .ok → s.pipeSound fn = true → ¬
    (s.stage fn slot).limit < stageFeedBytes (s.stageRecOf fn slot) → t.hostReady fn (t.feedAddr fn slot m v)
    (stageFeedBytes (s.stageRecOf fn slot)) ans = true → t.optForbids fn true (shoalRingBase (s.shoalRecOf fn slot) +
    (s.stage fn slot).start) (stageFeedBytes (s.stageRecOf fn slot)) = false → t.hostAnswer fn (t.feedAddr fn slot m
    v) (stageFeedBytes (s.stageRecOf fn slot)) ans = (w, a) → a.status = .ok → w.devWrite .islet fn (shoalRingBase
    (s.shoalRecOf fn slot) + (s.stage fn slot).start) (a.data.take (stageFeedBytes (s.stageRecOf fn slot))) = (u, .ok)
    → exec (.feedCopyDone fn slot ans) s = .next (u.modStage fn slot (fun g =>
    { g with feeding := false, fed := true })))

/-- O8 (R203, R219, R223, R224, R225, R226, R228, R230; derived). Accesses, refresh, scrub, relocation and mainland port
events complete as their rules say. SHOAL_WINDOW_ACCESS through a window serves its read or write; MEMORY_ACCESS below
the reserved range is taken by its controller; HBM_REFRESH and MAINLAND_REFRESH cost time only: the whole state is
unchanged; PATROL_SCRUB reads one unit; PAGE_RELOCATE moves a page off a degraded row into spare rows; a mainland port
loses training, has it back, or is DOWN. -/
def Obligations.MemoryCommandsComplete : Prop :=
  (∀ (fn addr upset len : Nat) (bs : List Byte) (t u : State) (st : Status) (s : State), s.fnLive fn = true → isReserved
    addr = true → s.writeForbidden fn true addr bs.length = false → s.unitReady fn addr bs.length true = (t, true) →
    t.pageAt fn (t.windowRange fn addr) = none → t.unitWrite .islet fn addr bs = (u, st) → exec (.shoalWindowAccess fn
    addr len (some bs) upset) s = .next
    { u with served := [{ access := { fn := fn, addr := addr, len := bs.length, wr := some bs }, answer := { status := st } }] }) ∧
  (∀ (fn addr upset len : Nat) (a : Answer) (t u : State) (s : State), s.fnLive fn = true → isReserved addr = true →
    s.unitReady fn addr len false = (t, true) → t.pageAt fn (t.windowRange fn addr) = none → t.unitRead .islet fn addr
    len = (u, a) → exec (.shoalWindowAccess fn addr len none upset) s = .next
    { u with served := [{ access := { fn := fn, addr := addr, len := len }, answer := a }] }) ∧
  (∀ (fn addr len upset die : Nat) (src : Source) (s : State), s.fnLive fn = true → 0 < len → addr % 65536 + len ≤ 65536
    → addr < reservedBase → exec (.memoryAccess fn ⟨src, die⟩ addr len none upset) s = .next (s.unserved.takeAccess
    { fn := fn, src := src, die := some die, addr := addr, len := len, wr := none } upset)) ∧
  (∀ (fn addr len upset die : Nat) (src : Source) (bs : List Byte) (s : State), s.fnLive fn = true → 0 < bs.length →
    addr % 65536 + bs.length ≤ 65536 → addr < reservedBase → s.optForbids fn (src != .host) addr bs.length = false →
    exec (.memoryAccess fn ⟨src, die⟩ addr len (some bs) upset) s = .next (s.unserved.takeAccess
    { fn := fn, src := src, die := some die, addr := addr, len := bs.length, wr := some bs } upset)) ∧
  (∀ (stack pc bank : Nat) (s : State), exec (.hbmRefresh stack pc bank) s = .next s) ∧
  (∀ (port : Nat) (rfm : Bool) (s : State), exec (.mainlandRefresh port rfm) s = .next s) ∧
  (∀ (key upset : Nat) (s : State), key < boardBase → s.fld .MEM_SCRUB_CFG_SCRUB_PERIOD ≠ 0 → s.leasesOf (key / 1024 / 2
    ^ 21 / 64) = [] → key / 1024 / 2 ^ 21 / 64 < 8 → s.fld .MEM_STACK_STAT_STATE (key / 1024 / 2 ^ 21 / 64) = 1 → exec
    (.patrolScrub key upset) s = .next (s.scrubUnit key upset)) ∧
  (∀ (key upset : Nat) (s : State), boardBase ≤ key → s.fld .MEM_SCRUB_CFG_SCRUB_PERIOD ≠ 0 → s.mlUp ((key - boardBase)
    / 2 ^ 37) = true → (storeGet {} s.mlPorts ((key - boardBase) / 2 ^ 37)).lost = false → exec (.patrolScrub key
    upset) s = .next (s.scrubUnit key upset)) ∧
  (∀ (fn page : Nat) (pg : Page) (t : Frame) (s : State), s.pageAt fn page = some pg → pg.moving = false →
    pg.frame.isBoard = false → s.frameResetting pg.frame = false → (frameRows pg.frame).all (fun k =>
    !s.repairs.contains k) = false → s.frameUncorrectable pg.frame = false → s.frameLeased pg.frame = false →
    s.takeSpare pg.frame = some t → exec (.pageRelocate fn page) s = .next (s.relocatePage fn page pg.frame t)) ∧
  (∀ (port : Nat) (p : MlPort) (s : State), storeGet {} s.mlPorts port = p → p.lost = true → exec (.mainlandPortDown
    port) s = .next ((({ s with mlPorts := storeSet {} s.mlPorts port { p with lost := false }, served := [] } :
    State).setFld .MEM_ML_PORT_STAT_STATE port 0 2).retryHeld)) ∧
  (∀ (port : Nat) (s : State), s.mlUp port = true → exec (.mainlandPortTrainingLoss port) s = .next
    { s with mlPorts := storeSet {} s.mlPorts port { storeGet {} s.mlPorts port with lost := true } }) ∧
  (∀ (port : Nat) (p : MlPort) (s : State), storeGet {} s.mlPorts port = p → p.lost = true → exec
    (.mainlandPortRetrained port) s = .next
    (({ s with mlPorts := storeSet {} s.mlPorts port { p with lost := false }, served := [] } : State).retryHeld))

/-- O9 (R237, R238, R240, R241, R243, R244, R245; derived). Migration requests are queued, checked, run page by page, and
end. MIG_GO and MIG_CANCEL act on the queue of an enabled function; each request at the head of a queue is checked and
starts by its OP; MIG_PAGE_START moves the next page; DEMOTE_PAGE_COPIED and PROMOTE_PAGE_DONE settle it;
MIG_REQUEST_COMPLETE ends the request; XLATE_LOOKUP and XLATE_LOOKUP_DONE answer a page lookup. -/
def Obligations.MigrationCommandsComplete : Prop :=
  (∀ (fn : Nat) (w : Word) (s : State), s.fnLive fn = true → exec (.migGo fn w) s = .next (s.writeMigCtl fn w)) ∧
  (∀ (fn : Nat) (w : Word) (s : State), s.fnLive fn = true → exec (.migCancel fn w) s = .next (s.writeMigCtl fn w)) ∧
  (∀ (fn : Nat) (t : State) (run : MigRun) (s : State), s.migStart fn 0 = some (t, run) → run.status = none → exec
    (.migMap fn) s = .next (t.mapSegment fn run)) ∧
  (∀ (fn : Nat) (t : State) (run : MigRun) (g : Segment) (s : State), s.migStart fn 1 = some (t, run) → run.status =
    none → (s.fnState fn).segs.find? (fun x => x.base == run.req.w3) = some g → g.pages.any (fun p => p.moving ||
    s.frameLeased p.frame) = false → exec (.migUnmap fn) s = .next ((t.removeSegment fn run.req.w3).modRun fn (fun m
    => { m with status := some .ok, done := migPages run.req }))) ∧
  (∀ (fn : Nat) (t : State) (run : MigRun) (s : State), s.migStart fn 2 = some (t, run) → exec (.migPromote fn) s =
    .next t) ∧
  (∀ (fn : Nat) (t : State) (run : MigRun) (s : State), s.migStart fn 3 = some (t, run) → exec (.migDemote fn) s = .next
    t) ∧
  (∀ (fn : Nat) (t : State) (run : MigRun) (s : State), s.migStart fn 4 = some (t, run) → run.status = none → exec
    (.migCopy fn) s = .next ((t.createSegment fn run.req run.slot).modRun fn (fun m => { m with made := true }))) ∧
  (∀ (fn : Nat) (t u : State) (run r : MigRun) (s : State), (s.fnState fn).mig.run = none → s.migStart fn 5 = some (t,
    run) → run.status = none → (t.createSegment fn run.req run.slot).modRun fn (fun m => { m with made := true }) = u
    → (u.fnState fn).mig.run = some r → r.made = true → exec (.migIngest fn) s = .next (u.ingestAsk fn r.req 0)) ∧
  (∀ (fn upset : Nat) (ans : Answer) (run : MigRun) (s : State), (s.fnState fn).mig.run = some run → run.status = none →
    (s.fnState fn).mig.cancel = false → run.next < migPages run.req → (s.migPorts fn).all (fun p => (s.mlPort
    p).current.isNone && !(s.mlPort p).lost && s.migTurn fn p) = true → migOp run.req = 2 → s.pageHeld fn (run.req.w3
    + 65536 * run.next) = false → exec (.migPageStart fn upset ans) s = .next (s.promoteStart fn (run.req.w3 + 65536 *
    run.next) run)) ∧
  (∀ (fn upset : Nat) (ans : Answer) (run : MigRun) (s : State), (s.fnState fn).mig.run = some run → run.status = none →
    (s.fnState fn).mig.cancel = false → run.next < migPages run.req → (s.migPorts fn).all (fun p => (s.mlPort
    p).current.isNone && !(s.mlPort p).lost && s.migTurn fn p) = true → migOp run.req = 3 → s.pageHeld fn (run.req.w3
    + 65536 * run.next) = false → exec (.migPageStart fn upset ans) s = .next (s.demoteStart fn (run.req.w3 + 65536 *
    run.next))) ∧
  (∀ (fn upset : Nat) (ans : Answer) (run : MigRun) (s : State), (s.fnState fn).mig.run = some run → run.status = none →
    (s.fnState fn).mig.cancel = false → run.next < migPages run.req → (s.migPorts fn).all (fun p => (s.mlPort
    p).current.isNone && !(s.mlPort p).lost && s.migTurn fn p) = true → migOp run.req = 4 → s.pageHeld fn (run.req.w2
    + 65536 * run.next) = false → s.optForbids fn true (run.req.w3 + 65536 * run.next) 65536 = false → exec
    (.migPageStart fn upset ans) s = .next ((s.migPorts fn).foldl (fun t p => t.modPort p (fun m =>
    { m with lastFn := fn })) (s.copyPage fn run upset))) ∧
  (∀ (fn upset : Nat) (ans : Answer) (run : MigRun) (s : State), (s.fnState fn).mig.run = some run → run.status = none →
    (s.fnState fn).mig.cancel = false → run.next < migPages run.req → (s.migPorts fn).all (fun p => (s.mlPort
    p).current.isNone && !(s.mlPort p).lost && s.migTurn fn p) = true → migOp run.req = 5 → s.hostReady fn (run.req.w2
    + 65536 * run.next) 65536 ans = true → s.optForbids fn false (run.req.w3 + 65536 * run.next) 65536 = false → exec
    (.migPageStart fn upset ans) s = .next ((s.migPorts fn).foldl (fun t p => t.modPort p (fun m =>
    { m with lastFn := fn })) (s.ingestPage fn run ans))) ∧
  (∀ (port upset : Nat) (m : PageMove) (pg : Page) (t : State) (s : State), (s.mlPort port).current = some m → m.kind =
    .demote → (s.mlPort port).lost = false → s.pageAt m.fn m.addr = some pg → m.tracked = false → s.mlUp port = true →
    s.frameLeased pg.frame = false → (s.addUpset pg.frame (frameByte pg.frame 0) upset).readWhole .migration m.fn
    pg.frame (some m.addr) = (t, true) → exec (.demotePageCopied port upset) s = .next (t.demotePage port
    ((((s.fnState m.fn).mig.run).map (·.slot)).getD 0) m pg)) ∧
  (∀ (port upset : Nat) (m : PageMove) (pg : Page) (t : State) (s : State), (s.mlPort port).current = some m → m.kind =
    .promote → (s.mlPort port).lost = false → s.pageAt m.fn m.addr = some pg → s.unserved.mlUp port = true →
    ((s.unserved.addUpset pg.frame (frameByte pg.frame 0) upset).readWhole .migration m.fn pg.frame (some m.addr)) =
    (t, true) → exec (.promotePageDone port upset) s = .next (t.promotePage port m pg)) ∧
  (∀ (fn : Nat) (r : MigRun) (st : Status) (s : State), (s.fnState fn).mig.run = some r → s.migMoving fn = false →
    r.status = some st → s.endWaits fn r st = false → s.manifestWaits r = false → (st = .ok → migManifest r.req = true
    → r.manifest ≠ none) → exec (.migRequestComplete fn) s = .next (s.migFinish fn r st)) ∧
  (∀ (fn : Nat) (r : MigRun) (s : State), (s.fnState fn).mig.run = some r → s.migMoving fn = false → r.status = some .ok
    → s.endWaits fn r .ok = false → s.manifestWaits r = false → migManifest r.req = true → r.manifest = none → exec
    (.migRequestComplete fn) s = .next (s.manifestAsk fn r)) ∧
  (∀ (fn : Nat) (r : MigRun) (s : State), (s.fnState fn).mig.run = some r → s.migMoving fn = false → r.status = none →
    migPages r.req ≤ r.next → s.manifestWaits r = false → (migManifest r.req = true → r.manifest ≠ none) → exec
    (.migRequestComplete fn) s = .next (s.migFinish fn r .ok)) ∧
  (∀ (fn : Nat) (w : Word) (s : State), s.fnLive fn = true → exec (.xlateLookup fn w) s = .next (((s.writeReg
    .MEM_XLATE_ADDR fn 0 w).setReg .MEM_XLATE_RES fn 0 0).modFn fn (fun f => { f with xlating := true }))) ∧
  (∀ (fn : Nat) (s : State), (s.fnState fn).xlating = true → exec (.xlateLookupDone fn) s = .next (s.lookupAnswer fn))

/-- O10 (R253, R257, R258, R259, R261, R262, R265, R267, R268, R272, R273; derived). Reef requests are queued, admitted,
run and ended. A write to an issue window and REEF_GO queue requests, REEF_CANCEL cancels them; the request at the
head of a queue is admitted where it is not refused and its members are free; REEF_OP_START starts an operation whose
pages are in place with its leases; REEF_OP_END and REEF_UNCORRECTABLE end it. -/
def Obligations.ReefCommandsComplete : Prop :=
  (∀ (f ad st : Nat) (bs : List Byte) (a : Access) (t : State) (e : Status) (s : State), issueWindow ad = some st →
    s.fnLive f = true → bs ≠ [] → ({ fn := f, addr := ad, len := bs.length, wr := some bs } : Access) = a →
    s.unserved.issueWrite a = (t, some e) → exec (.reefWindowWrite f ad bs) s = .next (t.accessEnds a
    { status := e })) ∧
  (∀ (f ad st : Nat) (bs : List Byte) (t : State) (s : State), issueWindow ad = some st → s.fnLive f = true → bs ≠ [] →
    s.unserved.issueWrite { fn := f, addr := ad, len := bs.length, wr := some bs } = (t, none) → exec
    (.reefWindowWrite f ad bs) s = .next t) ∧
  (∀ (fn stack : Nat) (w : Word) (s : State), bit w.toNat 0 = true → (s.reef stack).queue.any (fun e => s.complForbidden
    e.1 e.2) = false → exec (.reefGo fn stack w) s = .next (s.unserved.writeReefIssue fn stack w)) ∧
  (∀ (fn stack : Nat) (w : Word) (s : State), bit w.toNat 1 = true → (s.reef stack).queue.any (fun e => s.complForbidden
    e.1 e.2) = false → exec (.reefCancel fn stack w) s = .next (s.unserved.writeReefIssue fn stack w)) ∧
  (∀ (stack fn : Nat) (r : List Byte) (rest : List (Nat × List Byte)) (x : ReefStack) (d : List Byte) (s : State),
    s.reef stack = x → x.queue = (fn, r) :: rest → s.unserved.reefRefused stack r = false → storeGet [] x.descs
    (reqDesc r) = d → reefLegal d r = true → (reefMembers d).length ≤ s.fld .REEF_STACK_STAT_LIMIT stack →
    reefAdmissible (s.fld .REEF_CAUSE_FUSED stack) d r ≤ 18000 → (reefMembers d).any (x.ops.flatMap (fun o =>
    reefMembers o.desc)).contains = false → (x.ops.flatMap (fun o => reefMembers o.desc)).length + (reefMembers
    d).length ≤ s.fld .REEF_STACK_STAT_LIMIT stack → s.unserved.reefForbidden fn d r = false → exec (.reefAdmit stack)
    s = .next ((s.unserved.modReef stack (fun x => { x with queue := rest })).modReef stack (fun x =>
    { x with ops := x.ops ++ [{ id := x.nextOp, fn := fn, req := r, desc := d }], nextOp := x.nextOp + 1 })).retryIssues) ∧
  (∀ (stack k : Nat) (o : ReefOp) (s : State), (s.reef stack).ops.find? (fun o => o.id == k && !o.started) = some o →
    (reefTouched o).any (fun t => (s.reefPage o t.2.1 t.1 t.2.2).any (·.moving)) = false → (reefTouched o).any
    (s.unserved.reefBadPage stack o) = false → s.fld .REEF_STACK_STAT_COMPUTING stack + (reefMembers o.desc).length ≤
    s.fld .REEF_STACK_STAT_LIMIT stack → exec (.reefOpStart stack k) s = .next (s.unserved.reefStarts stack k o)) ∧
  (∀ (stack k cycles : Nat) (o : ReefOp) (s : State), (s.reef stack).ops.find? (fun o => o.id == k && o.started) = some
    o → s.reefForbidden o.fn o.desc o.req = false → exec (.reefOpEnd stack k cycles) s = .next (s.unserved.reefFinish
    stack k cycles o)) ∧
  (∀ (stack k pc : Nat) (o : ReefOp) (s : State), (s.reef stack).ops.find? (fun o => o.id == k && o.started) = some o →
    (reefMembers o.desc).contains pc = true → s.complForbidden o.fn o.req = false → exec (.reefUncorrectable stack k
    pc) s = .next (s.unserved.reefBadSector stack pc o))

/-- O11 (R285, R286, R289, R308, R309, R310, R312, R313, R338; derived). An accepted flit is taken, routed and delivered,
and its buffer slot is freed once it has left. At a port that is present and UP, a verified flit of the kind of the
row that its link accepts (State.linkIn answers t and true) is routed by t, delivered here by the action of its kind
where the route and the fence say so, and its receive slot is freed unless the flit goes on over the straits to
another cape. A verified IDLE flit leaves the state of the link check. A flit of a reserved type, or a MESSAGE of a
reserved subtype, is discarded and counted in JL_DROPS.ROUTE. A WRITE delivered here goes on as its window or memory
write does. That a WRITE of SUB above 1 is discarded and counted in JL_DROPS.ROUTE (log entry 26, DEDUCED) and that a
window WRITE of another length, or whose address is not a multiple of 8, is discarded without a count (log entry 16)
are the model's choices. -/
def Obligations.FlitsArrive : Prop :=
  (∀ (p : Nat) (rx : RxFlit) (t : State) (s : State), (rx.flit.ftype == 2) = true → s.portPresent p = true → s.portState
    p = portIsUp → s.linkIn p rx = (t, true) → exec (.readReq p rx) s = .next ((t.routeIn p rx.flit (fun s =>
    s.deliverRead rx.flit)).slotAfter p rx.flit (t.transits p rx.flit))) ∧
  (∀ (p : Nat) (rx : RxFlit) (t : State) (s : State), (rx.flit.ftype == 3) = true → s.portPresent p = true → s.portState
    p = portIsUp → s.linkIn p rx = (t, true) → exec (.readRsp p rx) s = .next ((t.routeIn p rx.flit (fun s =>
    s.takeReadRsp rx.flit)).slotAfter p rx.flit (t.transits p rx.flit))) ∧
  (∀ (p : Nat) (rx : RxFlit) (t : State) (s : State), isMessage rx 1 = true → s.portPresent p = true → s.portState p =
    portIsUp → s.linkIn p rx = (t, true) → exec (.interrupt p rx) s = .next ((t.routeIn p rx.flit id).slotAfter p
    rx.flit (t.transits p rx.flit))) ∧
  (∀ (p : Nat) (rx : RxFlit) (t : State) (s : State), isMessage rx 2 = true → s.portPresent p = true → s.portState p =
    portIsUp → s.linkIn p rx = (t, true) → exec (.unreachable p rx) s = .next ((t.routeIn p rx.flit (fun s =>
    s.takeUnreachable rx.flit)).slotAfter p rx.flit (t.transits p rx.flit))) ∧
  (∀ (p : Nat) (rx : RxFlit) (t : State) (s : State), isMessage rx 8 = true → s.portPresent p = true → s.portState p =
    portIsUp → s.linkIn p rx = (t, true) → exec (.claimAck p rx) s = .next ((t.routeIn p rx.flit id).slotAfter p
    rx.flit (t.transits p rx.flit))) ∧
  (∀ (p : Nat) (rx : RxFlit) (t : State) (s : State), isMessage rx 9 = true → s.portPresent p = true → s.portState p =
    portIsUp → s.linkIn p rx = (t, true) → exec (.claimEnd p rx) s = .next ((t.routeIn p rx.flit id).slotAfter p
    rx.flit (t.transits p rx.flit))) ∧
  (∀ (p : Nat) (rx : RxFlit) (t : State) (s : State), isMessage rx 0xA = true → s.portPresent p = true → s.portState p =
    portIsUp → s.linkIn p rx = (t, true) → exec (.probeAck p rx) s = .next ((t.routeIn p rx.flit id).slotAfter p
    rx.flit (t.transits p rx.flit))) ∧
  (∀ (p : Nat) (rx : RxFlit) (t : State) (s : State), isMessage rx 0xB = true → s.portPresent p = true → s.portState p =
    portIsUp → s.linkIn p rx = (t, true) → exec (.brk p rx) s = .next ((t.routeIn p rx.flit id).slotAfter p rx.flit
    (t.transits p rx.flit))) ∧
  (∀ (p : Nat) (rx : RxFlit) (t : State) (s : State), isMessage rx 0x40 = true → s.portPresent p = true → s.portState p
    = portIsUp → s.linkIn p rx = (t, true) → exec (.vote p rx) s = .next ((t.routeIn p rx.flit (fun s =>
    s.reductionMessage rx.flit)).slotAfter p rx.flit (t.transits p rx.flit))) ∧
  (∀ (p : Nat) (rx : RxFlit) (t : State) (s : State), isMessage rx 0x41 = true → s.portPresent p = true → s.portState p
    = portIsUp → s.linkIn p rx = (t, true) → exec (.voteResult p rx) s = .next ((t.routeIn p rx.flit (fun s =>
    s.reductionMessage rx.flit)).slotAfter p rx.flit (t.transits p rx.flit))) ∧
  (∀ (p : Nat) (rx : RxFlit) (t : State) (s : State), isMessage rx 0x42 = true → s.portPresent p = true → s.portState p
    = portIsUp → s.linkIn p rx = (t, true) → exec (.stepAbort p rx) s = .next ((t.routeIn p rx.flit (fun s =>
    s.reductionMessage rx.flit)).slotAfter p rx.flit (t.transits p rx.flit))) ∧
  (∀ (p : Nat) (rx : RxFlit) (t : State) (s : State), rx.flit.ftype = 1 → rx.flit.sub = 0 → s.portPresent p = true →
    s.portState p = portIsUp → s.linkIn p rx = (t, true) → t.routeFlit rx.flit = .here → t.mayDeliver p rx.flit = true
    → t.writeForbidden rx.flit.dfn false rx.flit.addr (32 * rx.flit.len) = false → exec (.write p rx) s = .next
    ((t.writeMemory rx.flit).freeSlot p rx.flit.vc)) ∧
  (∀ (p : Nat) (rx : RxFlit) (t : State) (s : State), rx.flit.ftype = 1 → 1 < rx.flit.sub → s.portPresent p = true →
    s.portState p = portIsUp → s.linkIn p rx = (t, true) → t.routeFlit rx.flit = .here → t.mayDeliver p rx.flit = true
    → exec (.write p rx) s = .next ((t.satFld .JL_DROPS_ROUTE 0 0 1).freeSlot p rx.flit.vc)) ∧
  (∀ (p : Nat) (rx : RxFlit) (t : State) (s : State), rx.flit.ftype = 1 → rx.flit.sub = 1 → s.portPresent p = true →
    s.portState p = portIsUp → s.linkIn p rx = (t, true) → t.routeFlit rx.flit = .here → t.mayDeliver p rx.flit = true
    → (rx.flit.len ≠ 1 ∨ rx.flit.addr % 8 ≠ 0 ∨ regAt rx.flit.addr = none) → exec (.write p rx) s = .next (t.freeSlot
    p rx.flit.vc)) ∧
  (∀ (p i b : Nat) (rx : RxFlit) (r : Reg) (t : State) (s : State), rx.flit.ftype = 1 → rx.flit.sub = 1 → s.portPresent
    p = true → s.portState p = portIsUp → s.linkIn p rx = (t, true) → t.routeFlit rx.flit = .here → t.mayDeliver p
    rx.flit = true → rx.flit.len = 1 → rx.flit.addr % 8 = 0 → regAt rx.flit.addr = some (r, i, b) → t.windowOpen
    rx.flit.dfn = true → t.shows rx.flit.dfn r (ownIndex r rx.flit.dfn i) b = true → [Reg.MEM_XLATE_ADDR, .SVC_Q_DB,
    .SVC_Q_CPL_DB, .OPT_CTL, .REEF_ISSUE].contains r = false → ∃ u, t.windowWrites rx.flit.dfn r (ownIndex r
    rx.flit.dfn i) b (BitVec.ofNat 64 (bytesAt rx.flit.payload 0 8)) = .next u ∧ exec (.write p rx) s = .next
    (u.freeSlot p rx.flit.vc)) ∧
  (∀ (p i b : Nat) (rx : RxFlit) (t : State) (s : State), rx.flit.ftype = 1 → rx.flit.sub = 1 → s.portPresent p = true →
    s.portState p = portIsUp → s.linkIn p rx = (t, true) → t.routeFlit rx.flit = .here → t.mayDeliver p rx.flit = true
    → rx.flit.len = 1 → rx.flit.addr % 8 = 0 → regAt rx.flit.addr = some (.OPT_CTL, i, b) → t.windowOpen rx.flit.dfn =
    true → t.shows rx.flit.dfn .OPT_CTL (ownIndex .OPT_CTL rx.flit.dfn i) b = true → (t.optAdopts rx.flit.dfn
    (BitVec.ofNat 64 (bytesAt rx.flit.payload 0 8)) && t.adoptBroken rx.flit.dfn) = false → exec (.write p rx) s =
    .next ((t.writeOptCtl rx.flit.dfn (BitVec.ofNat 64 (bytesAt rx.flit.payload 0 8))).freeSlot p rx.flit.vc)) ∧
  (∀ (p i b : Nat) (rx : RxFlit) (t : State) (s : State), rx.flit.ftype = 1 → rx.flit.sub = 1 → s.portPresent p = true →
    s.portState p = portIsUp → s.linkIn p rx = (t, true) → t.routeFlit rx.flit = .here → t.mayDeliver p rx.flit = true
    → rx.flit.len = 1 → rx.flit.addr % 8 = 0 → regAt rx.flit.addr = some (.REEF_ISSUE, i, b) → t.windowOpen
    rx.flit.dfn = true → t.shows rx.flit.dfn .REEF_ISSUE i b = true → (t.reef i).queue.any (fun e => t.complForbidden
    e.1 e.2) = false → exec (.write p rx) s = .next ((t.unserved.writeReefIssue rx.flit.dfn i (BitVec.ofNat 64
    (bytesAt rx.flit.payload 0 8))).freeSlot p rx.flit.vc)) ∧
  (∀ (p : Nat) (rx : RxFlit) (t : State) (q : Nat) (s : State), rx.flit.ftype = 1 → s.portPresent p = true → s.portState
    p = portIsUp → s.linkIn p rx = (t, true) → t.routeFlit rx.flit = .onward q → exec (.write p rx) s = .next
    ((t.forward p rx.flit q).slotAfter p rx.flit (t.transits p rx.flit))) ∧
  (∀ (p : Nat) (rx : RxFlit) (t : State) (s : State), rx.flit.ftype = 1 → s.portPresent p = true → s.portState p =
    portIsUp → s.linkIn p rx = (t, true) → t.routeFlit rx.flit = .here → t.mayDeliver p rx.flit = false → exec (.write
    p rx) s = .next ((t.dropFence rx.flit).freeSlot p rx.flit.vc)) ∧
  (∀ (p : Nat) (rx : RxFlit) (s : State), rx.flit.ftype = 0 → s.portPresent p = true → s.portState p = portIsUp → exec
    (.idle p rx) s = .next (s.linkIn p rx).1) ∧
  (∀ (p : Nat) (rx : RxFlit) (t : State) (s : State), (7 ≤ rx.flit.ftype ∨ (rx.flit.ftype = 5 ∧ definedMessage
    rx.flit.sub = false)) → s.portPresent p = true → s.portState p = portIsUp → s.linkIn p rx = (t, true) → exec
    (.flitReservedType p rx) s = .next ((t.satFld .JL_DROPS_ROUTE 0 0 1).freeSlot p rx.flit.vc)) ∧
  (∀ (p : Nat) (rx : RxFlit) (s : State), rx.flit.ftype = 4 → (rx.flit.sub = 0 ∨ 8 < rx.flit.sub) → exec
    (.flitReservedType p rx) s = .next (s.arriveReduce p rx rx.flit.sub))

/-- O12 (R321, R323, R327, R328; derived). An accepted REDUCE flit joins its port's VC2 and the channel is judged. At a
port that is present and UP, a verified REDUCE flit of the row's SUB that the link accepts joins the flits held at the
port, which are then judged in order (State.releaseHeld); HELD_FLIT_RELEASE judges the held flits of a port UP again. -/
def Obligations.ReduceFlitsArrive : Prop :=
  (∀ (p : Nat) (rx : RxFlit) (t : State) (s : State), rx.flit.ftype = 4 → rx.flit.sub = 1 → s.portPresent p = true →
    s.portState p = portIsUp → s.linkIn p rx = (t, true) → exec (.rs p rx) s = .next ((t.modLink p (fun l =>
    { l with heldFlits := l.heldFlits ++ [(t.verifyCount p rx.flit, rx.flit)] })).releaseHeld p)) ∧
  (∀ (p : Nat) (rx : RxFlit) (t : State) (s : State), rx.flit.ftype = 4 → rx.flit.sub = 2 → s.portPresent p = true →
    s.portState p = portIsUp → s.linkIn p rx = (t, true) → exec (.rsEnd p rx) s = .next ((t.modLink p (fun l =>
    { l with heldFlits := l.heldFlits ++ [(t.verifyCount p rx.flit, rx.flit)] })).releaseHeld p)) ∧
  (∀ (p : Nat) (rx : RxFlit) (t : State) (s : State), rx.flit.ftype = 4 → rx.flit.sub = 3 → s.portPresent p = true →
    s.portState p = portIsUp → s.linkIn p rx = (t, true) → exec (.ag p rx) s = .next ((t.modLink p (fun l =>
    { l with heldFlits := l.heldFlits ++ [(t.verifyCount p rx.flit, rx.flit)] })).releaseHeld p)) ∧
  (∀ (p : Nat) (rx : RxFlit) (t : State) (s : State), rx.flit.ftype = 4 → rx.flit.sub = 4 → s.portPresent p = true →
    s.portState p = portIsUp → s.linkIn p rx = (t, true) → exec (.agEnd p rx) s = .next ((t.modLink p (fun l =>
    { l with heldFlits := l.heldFlits ++ [(t.verifyCount p rx.flit, rx.flit)] })).releaseHeld p)) ∧
  (∀ (p : Nat) (rx : RxFlit) (t : State) (s : State), rx.flit.ftype = 4 → rx.flit.sub = 5 → s.portPresent p = true →
    s.portState p = portIsUp → s.linkIn p rx = (t, true) → exec (.up p rx) s = .next ((t.modLink p (fun l =>
    { l with heldFlits := l.heldFlits ++ [(t.verifyCount p rx.flit, rx.flit)] })).releaseHeld p)) ∧
  (∀ (p : Nat) (rx : RxFlit) (t : State) (s : State), rx.flit.ftype = 4 → rx.flit.sub = 6 → s.portPresent p = true →
    s.portState p = portIsUp → s.linkIn p rx = (t, true) → exec (.upEnd p rx) s = .next ((t.modLink p (fun l =>
    { l with heldFlits := l.heldFlits ++ [(t.verifyCount p rx.flit, rx.flit)] })).releaseHeld p)) ∧
  (∀ (p : Nat) (rx : RxFlit) (t : State) (s : State), rx.flit.ftype = 4 → rx.flit.sub = 7 → s.portPresent p = true →
    s.portState p = portIsUp → s.linkIn p rx = (t, true) → exec (.down p rx) s = .next ((t.modLink p (fun l =>
    { l with heldFlits := l.heldFlits ++ [(t.verifyCount p rx.flit, rx.flit)] })).releaseHeld p)) ∧
  (∀ (p : Nat) (rx : RxFlit) (t : State) (s : State), rx.flit.ftype = 4 → rx.flit.sub = 8 → s.portPresent p = true →
    s.portState p = portIsUp → s.linkIn p rx = (t, true) → exec (.downEnd p rx) s = .next ((t.modLink p (fun l =>
    { l with heldFlits := l.heldFlits ++ [(t.verifyCount p rx.flit, rx.flit)] })).releaseHeld p)) ∧
  (∀ (p : Nat) (s : State), s.portState p = portIsUp → exec (.heldFlitRelease p) s = .next (s.releaseHeld p))

/-- O13 (R281, R298, R299, R301, R302, R306, R307; derived). A LINK_CTRL flit is handled unprotected in KEYING, and once
accepted when UP. At a port that is present, a LINK_CTRL flit of the row's SUB acts by its KEYING meaning where the
port is in KEYING; where the port is UP and the link accepts the flit (State.linkIn answers t and true) it acts by its
meaning in session on t, and a slot of VC3 is freed. Each row is stated in the states where it has a meaning. -/
def Obligations.ControlFlitsArrive : Prop :=
  (∀ (p : Nat) (rx : RxFlit) (t : State) (s : State), isCtrl rx 0x10 = true → s.portPresent p = true → s.portState p =
    portIsUp → s.linkIn p rx = (t, true) → exec (.claim p rx) s = .next ((t.takeClaim p rx.flit).freeSlot p 3)) ∧
  (∀ (p : Nat) (rx : RxFlit) (t : State) (s : State), isCtrl rx 0x11 = true → s.portPresent p = true → s.portState p =
    portIsUp → s.linkIn p rx = (t, true) → exec (.probe p rx) s = .next ((t.takeProbe p rx.flit).freeSlot p 3)) ∧
  (∀ (p : Nat) (rx : RxFlit) (u : State) (s : State), isCtrl rx 1 = true → s.portPresent p = true → s.portState p =
    portKeying → unprotected rx = true → (s.fecCorr p rx.corrected).keyingOpen p = true → (s.fecCorr p
    rx.corrected).modLink p (fun l => l.answered 1) = u → exec (.hello p rx) s = .next (u.takeHello p rx.flit)) ∧
  (∀ (p : Nat) (rx : RxFlit) (u : State) (s : State), isCtrl rx 2 = true → s.portPresent p = true → s.portState p =
    portKeying → unprotected rx = true → (s.fecCorr p rx.corrected).keyingOpen p = true → (s.fecCorr p
    rx.corrected).modLink p (fun l => l.answered 2) = u → exec (.keyShare p rx) s = .next (u.takeShare p rx.flit)) ∧
  (∀ (p : Nat) (rx : RxFlit) (t : State) (s : State), isCtrl rx 2 = true → s.portPresent p = true → s.portState p =
    portIsUp → s.linkIn p rx = (t, true) → exec (.keyShare p rx) s = .next ((t.takeRekeyShare p rx.flit).freeSlot p
    3)) ∧
  (∀ (p : Nat) (rx : RxFlit) (u : State) (s : State), isCtrl rx 3 = true → s.portPresent p = true → s.portState p =
    portKeying → unprotected rx = true → (s.fecCorr p rx.corrected).keyingOpen p = true → (s.fecCorr p
    rx.corrected).modLink p (fun l => l.answered 3) = u → exec (.cert p rx) s = .next (u.takeCert p rx.flit)) ∧
  (∀ (p : Nat) (rx : RxFlit) (u : State) (s : State), isCtrl rx 4 = true → s.portPresent p = true → s.portState p =
    portKeying → unprotected rx = true → (s.fecCorr p rx.corrected).keyingOpen p = true → (s.fecCorr p
    rx.corrected).modLink p (fun l => l.answered 4) = u → exec (.keyAuth p rx) s = .next (u.takeAuth p rx.flit)) ∧
  (∀ (p : Nat) (rx : RxFlit) (t : State) (s : State), isCtrl rx 4 = true → s.portPresent p = true → s.portState p =
    portIsUp → s.linkIn p rx = (t, true) → exec (.keyAuth p rx) s = .next ((t.takeRekeyAuth p rx.flit).freeSlot p 3)) ∧
  (∀ (p : Nat) (rx : RxFlit) (u v : State) (s : State), isCtrl rx 5 = true → s.portPresent p = true → s.portState p =
    portKeying → unprotected rx = true → (s.fecCorr p rx.corrected).keyingOpen p = true → (s.fecCorr p
    rx.corrected).modLink p (fun l => l.answered 5) = u → bytesAt rx.flit.payload 0 8 = (u.link p).nextSession →
    u.modLink p (fun l => { l with doneSeen := true }) = v → (v.link p).keyed = true → exec (.keyDone p rx) s = .next
    (v.portUpNow p)) ∧
  (∀ (p : Nat) (rx : RxFlit) (u v : State) (s : State), isCtrl rx 5 = true → s.portPresent p = true → s.portState p =
    portKeying → unprotected rx = true → (s.fecCorr p rx.corrected).keyingOpen p = true → (s.fecCorr p
    rx.corrected).modLink p (fun l => l.answered 5) = u → bytesAt rx.flit.payload 0 8 = (u.link p).nextSession →
    u.modLink p (fun l => { l with doneSeen := true }) = v → (v.link p).keyed = false → exec (.keyDone p rx) s = .next
    v) ∧
  (∀ (p : Nat) (rx : RxFlit) (t : State) (s : State), isCtrl rx 5 = true → s.portPresent p = true → s.portState p =
    portIsUp → s.linkIn p rx = (t, true) → t.rekeyOpen p = true → (t.link p).newT ≠ [] → bytesAt rx.flit.payload 0 8 =
    (t.link p).session + 1 → (t.fld .JL_PORT_STAT_KEY_PHASE p == 1) = (t.link p).rekeyFromTx → exec (.keyDone p rx) s
    = .next ((t.sendCtrl p (linkCtrl 6 (leBytes 8 ((t.link p).session + 1)))).freeSlot p 3)) ∧
  (∀ (p : Nat) (rx : RxFlit) (t : State) (s : State), isCtrl rx 6 = true → s.portPresent p = true → s.portState p =
    portIsUp → s.linkIn p rx = (t, true) → t.rekeyOpen p = true → (t.link p).accepted = true → (t.link p).rxPhase =
    (t.link p).rekeyFrom → bytesAt rx.flit.payload 0 8 = (t.link p).session + 1 → exec (.rekeySwitch p rx) s = .next
    ((((t.modLink p (fun l => { l with rxPhase := !l.rxPhase, rxTxc := 0 })).portEvent p
    .JL_PORT_EVT_REKEY_EVT).rekeyDone p).freeSlot p 3)) ∧
  (∀ (p : Nat) (rx : RxFlit) (u : State) (s : State), isCtrl rx 7 = true → s.portPresent p = true → s.portState p =
    portKeying → unprotected rx = true → (s.fecCorr p rx.corrected).keyingOpen p = true → (s.fecCorr p
    rx.corrected).modLink p (fun l => l.answered 7) = u → exec (.laneSwap p rx) s = .next (u.takeSwap p rx.flit)) ∧
  (∀ (p : Nat) (rx : RxFlit) (t : State) (s : State), isCtrl rx 7 = true → s.portPresent p = true → s.portState p =
    portIsUp → s.linkIn p rx = (t, true) → exec (.laneSwap p rx) s = .next ((t.takeSwap p rx.flit).freeSlot p 3)) ∧
  (∀ (p : Nat) (rx : RxFlit) (u : State) (s : State), isCtrl rx 8 = true → s.portPresent p = true → s.portState p =
    portKeying → unprotected rx = true → (s.fecCorr p rx.corrected).keyingOpen p = true → (s.fecCorr p
    rx.corrected).modLink p (fun l => l.answered 8) = u → exec (.laneSwapAck p rx) s = .next (u.takeSwapAck p
    rx.flit)) ∧
  (∀ (p : Nat) (rx : RxFlit) (t : State) (s : State), isCtrl rx 8 = true → s.portPresent p = true → s.portState p =
    portIsUp → s.linkIn p rx = (t, true) → exec (.laneSwapAck p rx) s = .next ((t.takeSwapAck p rx.flit).freeSlot p
    3))

/-- O14 (R281, R282, R288, R290, R293, R295, R296, R297, R303, R311, R315, R317; derived). Training, keying, lanes,
replay, time limits and register writes of a port act as their rules say. Each row about a Jumel port answers the
state named: a failed lane asks for a swap, or takes the port DOWN where the spare is used; a lane switch-over within
its window; a send of the next flit of a replay, of a new flit, or of an IDLE flit; a corrupt flit is counted and, UP,
starts the loss, as long as the count of corrected symbols leaves the port up; a send past the close of keying takes
the port DOWN, one past the close of a window of the port first ends what the window closed, and a stalled head is
dropped first (R445); training, retries and the time limits with their causes; rekeys and their limits; and the writes
of JL_PORT_CTL and JL_ROUTE. -/
def Obligations.PortEventsComplete : Prop :=
  (∀ (p lane symbols : Nat) (lost : Bool) (s : State), (s.portState p = portKeying ∨ s.portState p = portIsUp) → lane <
    8 → s.laneFails p lost symbols = true → (s.link p).swap = none → s.fld .JL_PORT_STAT_SPARE_RX p = 0xF → exec
    (.laneFail p ⟨lane, lost, symbols⟩) s = .next ((s.modLink p (fun l =>
    { l with swap := some (lane, s.capeCount p) })).sendCtrl p (linkCtrl 7 (leBytes 1 lane)))) ∧
  (∀ (p lane symbols : Nat) (lost : Bool) (s : State), (s.portState p = portKeying ∨ s.portState p = portIsUp) → lane <
    8 → s.laneFails p lost symbols = true → (s.link p).swap = none → s.fld .JL_PORT_STAT_SPARE_RX p ≠ 0xF → exec
    (.laneFail p ⟨lane, lost, symbols⟩) s = .next (s.portDown p 2)) ∧
  (∀ (p k c n : Nat) (s : State), (s.link p).swap = some (k, c) → (s.link p).swapAt = some n → s.inWindow (capeIsland p)
    (c + 16000) = true → exec (.laneSwitchOver p) s = .next ((((s.modLink p (fun l =>
    { l with swap := none, swapAt := none })).setFld .JL_PORT_STAT_SPARE_RX p 0 k).addFld .JL_PORT_ERR2_LANE_SWAPS p 0
    1).portEvent p .JL_PORT_EVT_LANE_EVT)) ∧
  (∀ (p k c : Nat) (s : State), (s.link p).swap = some (k, c) → exec (.laneSwapTimeout p) s = .next ((s.reachCount
    (capeIsland p) (c + 16000)).portDown p 2)) ∧
  (∀ (p : Nat) (t : State) (s : State), s.portState p = portKeying → s.keyingOpen p = true → s.sendKeyingFlit p = t →
    (t.link p).keyed = false → exec (.flitSend p 3) s = .next t) ∧
  (∀ (p : Nat) (t : State) (s : State), s.portState p = portKeying → s.keyingOpen p = true → s.sendKeyingFlit p = t →
    (t.link p).keyed = true → exec (.flitSend p 3) s = .next (t.portUpNow p)) ∧
  (∀ (p : Nat) (s : State), s.portState p = portKeying → s.keyingOpen p = false → exec (.flitSend p 3) s = .next
    (s.portDown p 5)) ∧
  (∀ (p vc : Nat) (t : State) (s : State), s.portState p = portIsUp → vc < 4 → (s.windowsClosed p).dropStalled p vc = t
    → t.portState p ≠ portIsUp → exec (.flitSend p vc) s = .next t) ∧
  (∀ (p vc : Nat) (t : State) (s : State), s.portState p = portIsUp → vc < 4 → (s.windowsClosed p).dropStalled p vc = t
    → t.portState p = portIsUp → 0 < (t.link p).resend → exec (.flitSend p vc) s = .next (t.resendFlit p)) ∧
  (∀ (p vc : Nat) (f : Flit) (rest : List Flit) (t : State) (s : State), s.portState p = portIsUp → vc < 4 →
    (s.windowsClosed p).dropStalled p vc = t → t.portState p = portIsUp → (t.link p).resend = 0 → t.egressOf p vc = f
    :: rest → 0 < (t.link p).credits.getD vc 0 → (t.link p).retained.length < 1024 → t.fld .JL_PORT_TXC_TXC p <
    txcLimit → exec (.flitSend p vc) s = .next (t.sendNew p f)) ∧
  (∀ (p vc : Nat) (t : State) (s : State), s.portState p = portIsUp → vc < 4 → (s.windowsClosed p).dropStalled p vc = t
    → t.portState p = portIsUp → (t.link p).resend = 0 → t.egressOf p vc = [] → exec (.flitSend p vc) s = .next
    (t.sentIdle p)) ∧
  (∀ (p corrected : Nat) (uncorr : Bool) (t : State) (s : State), s.portState p = portIsUp → (s.fecCorr p
    corrected).satFld (if uncorr then .JL_PORT_ERR_FEC_UNCORR else .JL_PORT_ERR_CRC_FAIL) p 0 1 = t → t.portState p =
    portIsUp → exec (.flitCorrupt p ⟨uncorr, corrected⟩) s = .next (t.lostFlit p)) ∧
  (∀ (p corrected : Nat) (uncorr : Bool) (t : State) (s : State), s.portState p = portKeying → (s.fecCorr p
    corrected).satFld (if uncorr then .JL_PORT_ERR_FEC_UNCORR else .JL_PORT_ERR_CRC_FAIL) p 0 1 = t → t.portState p =
    portKeying → exec (.flitCorrupt p ⟨uncorr, corrected⟩) s = .next t) ∧
  (∀ (p : Nat) (s : State), s.portState p = portIsUp → (s.link p).retained ≠ [] → exec (.replayTimeout p) s = .next
    ((s.reachCount (capeIsland p) ((s.link p).acked + max 1 (s.fld .JL_PORT_CFG_REPLAY_TIMEOUT p))).replay p)) ∧
  (∀ (p : Nat) (s : State), s.portState p = portIsUp → exec (.livenessTimeout p) s = .next ((s.reachCount (capeIsland p)
    ((s.link p).verified + 16000)).portDown p 7)) ∧
  (∀ (p : Nat) (s : State), s.portState p = portKeying → exec (.keyingTimeout p) s = .next ((s.reachCount (capeIsland p)
    ((s.link p).entered + 160000000)).portDown p 5)) ∧
  (∀ (p : Nat) (s : State), s.portState p = portKeying → exec (.keyingResend p) s = .next ((s.link p).unanswered.foldl
    (fun s f => s.sendCtrl p f) s)) ∧
  (∀ (fn tag k c : Nat) (r : ReadReq) (s : State), s.reads.find? (fun e => e.1 == 256 * fn + tag) = some (k, r) →
    r.opened = some c → r.done = none → exec (.readTimeout fn tag) s = .next (State.issueReads 256 ((s.reachCount
    (capeIsland r.port) (s.readClose c)).failReads (fun j _ => j == k)))) ∧
  (∀ (p vc : Nat) (f : Flit) (rest : List Flit) (s : State), s.portState p = portIsUp → vc < 4 → s.egressOf p vc = f ::
    rest → exec (.flitStall p vc) s = .next (((s.reachCount (capeIsland p) (storeGet 0 s.heads (4 * p + vc) + 1600 *
    max 1 (s.fld .JL_DEV_CFG_FLIT_STALL_US))).popEgress p vc).dropRoute f 4)) ∧
  (∀ (c : Nat) (s : State), s.claimWait = some c → exec .claimWait s = .next
    ({ s.reachCount 12 (c + 1600000 * max 1 (s.fld .JL_DEV_CFG_CLAIM_WAIT_MS)) with claimWait := none } :
    State).sendClaimEnd) ∧
  (∀ (p txSpare rxSpare : Nat) (s : State), s.portState p = portTraining → s.portPresent p = true → txSpare < 9 →
    rxSpare < 9 → s.inWindow (capeIsland p) ((s.link p).entered + 81600000) = true → exec (.trainingDone p txSpare
    rxSpare) s = .next ((((s.modLink p (fun l =>
    { l with spareTx := txSpare, spareRx := rxSpare, fecFrom := s.capeCount p })).setFld .JL_PORT_STAT_SPARE_TX p 0
    0xF).setFld .JL_PORT_STAT_SPARE_RX p 0 0xF).enterKeying p)) ∧
  (∀ (p : Nat) (s : State), s.portState p = portTraining → exec (.trainTimeout p) s = .next ((s.reachCount (capeIsland
    p) ((s.link p).entered + 81600000)).portDown p 1)) ∧
  (∀ (p : Nat) (s : State), s.portState p = portIsDown → s.fld .JL_PORT_CTL_AUTO_RETRY p = 1 → s.fld .JL_PORT_CTL_ENABLE
    p = 1 → exec (.portRetry p) s = .next ((s.reachCount (capeIsland p) ((s.link p).entered + 15999999)).startTraining
    p)) ∧
  (∀ (p : Nat) (s : State), (s.portState p = portKeying ∨ s.portState p = portIsUp) → exec (.peerLoss p) s = .next
    (s.portDown p 9)) ∧
  (∀ (fn p : Nat) (w : Word) (s : State), exec (.portEnable fn p w) s = .next (s.writePortCtl fn p w)) ∧
  (∀ (fn p : Nat) (w : Word) (s : State), exec (.portReset fn p w) s = .next (s.writePortCtl fn p w)) ∧
  (∀ (fn p : Nat) (w : Word) (s : State), exec (.portRekey fn p w) s = .next (s.writePortCtl fn p w)) ∧
  (∀ (p : Nat) (s : State), s.fld .JL_PORT_CFG_REKEY_AT p ≠ 0 → (s.fld .JL_PORT_CFG_REKEY_AT p * 2 ^ 32 ≤ s.fld
    .JL_PORT_TXC_TXC p ∨ s.fld .JL_PORT_CFG_REKEY_AT p * 2 ^ 32 ≤ (s.link p).rxTxc) → exec (.rekeyThreshold p) s =
    .next (s.startRekey p)) ∧
  (∀ (p : Nat) (s : State), s.portState p = portIsUp → txcLimit ≤ s.fld .JL_PORT_TXC_TXC p → exec (.counterLimit p) s =
    .next (s.portDown p 6)) ∧
  (∀ (p : Nat) (s : State), s.portState p = portIsUp → s.fld .JL_PORT_STAT_REKEYING p = 1 → exec (.rekeyTimeout p) s =
    .next ((s.reachCount (capeIsland p) ((s.link p).rekeyOpened + 160000000)).rekeyAbandon p)) ∧
  (∀ (p c : Nat) (s : State), (s.link p).rekeyAgain = some c → exec (.rekeyRetry p) s = .next ((s.reachCount (capeIsland
    p) (c + 15999999)).startRekey p)) ∧
  (∀ (fn d : Nat) (w : Word) (s : State), exec (.routeWrite fn d w) s = .next (s.writeRoute fn d w))

/-- O15 (R325, R334, R336, R341, R342, R343; derived). Buckets start, complete and close; votes close; RED_JOB_CTL acts.
BUCKET_START begins a full bucket in index order, with fewer than 64 outstanding; BUCKET_COMPLETE ends one on time
with its result record, or a LATE one without; BUCKET_DEADLINE marks it LATE; VOTE_TIMEOUT applies a stop with cause
2; RED_RESUME and RED_ABORT_STEP act as a write of RED_JOB_CTL does (that RESUME clears STOP_CAUSE with the state is
the model's choice, log entry 39, DESIGN CHOICE). -/
def Obligations.ReductionCommandsComplete : Prop :=
  (∀ (ctx b : Nat) (s : State), s.jobState ctx = jobRunning → b < jobBuckets (s.job ctx).recd → ((s.job ctx).bucket
    b).full = true → ((s.job ctx).bucket b).started = false → (b = 0 ∨ ((s.job ctx).bucket (b - 1)).started = true) →
    ((s.job ctx).run.filter (fun e => e.2.started && !e.2.complete)).length < 64 → s.rowsLeased (s.job ctx).fn
    (bucketBase ((s.job ctx).bucketRec b)) (65536 * bucketPages ((s.job ctx).bucketRec b)) = false → exec
    (.bucketStart ctx b) s = .next (s.bucketBegins ctx b)) ∧
  (∀ (ctx b : Nat) (ts : List (List Byte)) (s : State), s.bucketTrailers ctx b = some ts → ((s.job ctx).bucket
    b).started = true → ((s.job ctx).bucket b).complete = false → s.bucketUnsent ctx b = false → s.bucketHeld ctx b =
    false → ((s.job ctx).bucket b).late = false → (jobDeadline (s.job ctx).recd = 0 ∨ ((s.job ctx).bucket b).lastIn ≤
    bucketClose (s.job ctx) ((s.job ctx).bucket b)) → exec (.bucketComplete ctx b) s = .next (s.bucketDone ctx b ts)) ∧
  (∀ (ctx b : Nat) (ts : List (List Byte)) (s : State), s.bucketTrailers ctx b = some ts → ((s.job ctx).bucket
    b).started = true → ((s.job ctx).bucket b).complete = false → s.bucketUnsent ctx b = false → s.bucketHeld ctx b =
    false → ((s.job ctx).bucket b).late = true → exec (.bucketComplete ctx b) s = .next ((s.modBucket ctx b (fun c =>
    { c with complete := true })).jobStat ctx)) ∧
  (∀ (ctx b : Nat) (s : State), s.jobState ctx = jobRunning → ((s.job ctx).bucket b).started = true → ((s.job
    ctx).bucket b).complete = false → ((s.job ctx).bucket b).late = false → jobDeadline (s.job ctx).recd ≠ 0 →
    s.bucketInTime ctx b = false → exec (.bucketDeadline ctx b) s = .next ((s.reachCount (jobIsland (s.job ctx))
    (bucketClose (s.job ctx) ((s.job ctx).bucket b))).bucketLate ctx b)) ∧
  (∀ (ctx : Nat) (t : State) (s : State), s.jobState ctx = jobVoting → (s.job ctx).applied = false → t = s.reachCount
    (jobIsland (s.job ctx)) ((s.job ctx).voteOpened + 1000 * jobVote (s.job ctx).recd) → exec (.voteTimeout ctx) s =
    .next (t.voteApply ctx 3 (t.fld .RED_JOB_SCALE_LOSS_SCALE ctx) 2 .late)) ∧
  (∀ (fn ctx : Nat) (w : Word) (s : State), s.fnLive fn = true → (s.job ctx).fn = fn → bit w.toNat 0 = false → bit
    w.toNat 1 = true → s.jobState ctx = jobStopped → exec (.redResume fn ctx w) s = .next ((s.setFld
    .RED_JOB_STAT_STATE ctx 0 jobIdle).setFld .RED_JOB_STAT_STOP_CAUSE ctx 0 0)) ∧
  (∀ (fn ctx : Nat) (w : Word) (s : State), s.fnLive fn = true → (s.job ctx).fn = fn → bit w.toNat 0 = true → bit
    w.toNat 1 = false → exec (.redAbortStep fn ctx w) s = .next (s.abortStep fn .aborted true))

/-- O16 (R353, R358, R359, R361, R363, R365, R366, R368; derived). Norms, shard updates, digests, recovery and adoption
act as their rules say. The rows about the optimiser of a function answer the states named: the decision once every
norm entry is present, a stop with LATE at the close of a window, the begin and the commit of a shard update, a digest
round, the read of a shard for the digest, a write of OPT_CTL, and the end of ADOPT's regeneration. That a decision, a
recovery or an ADOPT whose pages are in motion waits ((opt fn).waits = 1, 2, 3) and goes on at the next command of the
row is the model's choice (log entry 40, DESIGN CHOICE). -/
def Obligations.OptimiserCommandsComplete : Prop :=
  (∀ (fn q : Nat) (s : State), s.optState fn = optNorm → q < optQ (s.optCfg fn) → (s.normNotice fn q).normPresent fn =
    true → exec (.normEntryAccepted fn q) s = .next ((s.normNotice fn q).normDecides fn)) ∧
  (∀ (fn q : Nat) (s : State), s.optState fn = optNorm → q < optQ (s.optCfg fn) → (s.normNotice fn q).normPresent fn =
    false → exec (.normEntryAccepted fn q) s = .next (s.normNotice fn q)) ∧
  (∀ (fn : Nat) (s : State), s.optState fn = optNorm → s.normPresent fn = false → exec (.normTimeout fn) s = .next
    ((s.reachCount (s.normIsland fn) (s.normClose fn)).optStop fn .late)) ∧
  (∀ (fn shard : Nat) (r : List Byte) (t u : State) (w : CommitWord) (s : State), (s.fnState fn).shardRec shard = some r
    → (s.opt fn).waits ≠ 1 → s.shardMayStart fn r = true → (s.fnState fn).optLegal = true → s.prepareWrite fn
    (shardBase r) 32 = (t, true) → t.readCommit fn r = (u, some w) → exec (.shardUpdateStart fn shard) s = .next
    (u.shardBegins fn shard r w)) ∧
  (∀ (fn shard : Nat) (r : List Byte) (t : State) (s : State), (s.fnState fn).shardRec shard = some r → (s.opt fn).waits
    = 1 → s.optRoom fn = (t, true) → exec (.shardUpdateStart fn shard) s = .next (t.optRecovers fn)) ∧
  (∀ (fn shard : Nat) (r : List Byte) (k : Ticket) (t u : State) (w : CommitWord) (s : State), (s.fnState fn).shardRec
    shard = some r → (s.opt fn).ticket = some k → s.shardState fn shard = 2 → s.shardRoom fn r (s.shardCurSlot fn r) =
    (t, true) → t.readCommit fn r = (u, some w) → exec (.shardCommit fn shard) s = .next (u.shardCommits fn shard r k
    w (s.shardCurSlot fn r))) ∧
  (∀ (fn round : Nat) (s : State), (round = 1 ∨ round = 2) → exec (.digestRecordAccepted fn round) s = .next
    (s.digestRound fn round)) ∧
  (∀ (fn : Nat) (d : DigestRun) (s : State), (s.opt fn).digest = some d → d.own.isSome = true → exec (.digestTimeout fn)
    s = .next ((s.reachCount (s.normIsland fn) (s.digestClose fn d)).optStop fn .late)) ∧
  (∀ (fn : Nat) (w : Word) (s : State), s.fnLive fn = true → (s.optCfg fn).isEmpty = false → bit w.toNat 1 = false → bit
    w.toNat 0 = true → (s.opt fn).waits ≠ 2 → (s.opt fn).adopting = none → s.optState fn ≠ optUnloaded → exec
    (.optRecover fn w) s = .next (s.optRecoverNow fn)) ∧
  (∀ (fn : Nat) (w : Word) (s : State), s.fnLive fn = true → (s.optCfg fn).isEmpty = false → bit w.toNat 1 = true →
    s.optRests fn = true → s.adoptBroken fn = false → exec (.optAdopt fn w) s = .next (s.adoptStarts fn)) ∧
  (∀ (fn shard : Nat) (d : DigestRun) (r : List Byte) (t : State) (a : Answer) (s : State), (s.opt fn).digest = some d →
    (s.fnState fn).shardRec shard = some r → d.waiting.contains shard = true → s.rangeReady fn (shardSlot (s.optCfg
    fn) r (s.shardCurSlot fn r) 0) (4 * shardN r) = true → s.devRead .islet fn (shardSlot (s.optCfg fn) r
    (s.shardCurSlot fn r) 0) (4 * shardN r) = (t, a) → a.status = .ok → d.waiting.erase shard ≠ [] → exec
    (.shardDigestReadDone fn shard) s = .next (t.modOpt fn (fun o =>
    { o with digest := some { d with waiting := d.waiting.erase shard, got := storeSet [] d.got shard (shake256 64 a.data) } }))) ∧
  (∀ (fn shard : Nat) (d : DigestRun) (r : List Byte) (t : State) (a : Answer) (s : State), (s.opt fn).digest = some d →
    (s.fnState fn).shardRec shard = some r → d.waiting.contains shard = true → s.rangeReady fn (shardSlot (s.optCfg
    fn) r (s.shardCurSlot fn r) 0) (4 * shardN r) = true → s.devRead .islet fn (shardSlot (s.optCfg fn) r
    (s.shardCurSlot fn r) 0) (4 * shardN r) = (t, a) → a.status = .ok → d.waiting.erase shard = [] → exec
    (.shardDigestReadDone fn shard) s = .next (t.digestFormed fn
    { d with waiting := d.waiting.erase shard, got := storeSet [] d.got shard (shake256 64 a.data) })) ∧
  (∀ (fn : Nat) (stale : List Nat) (t u : State) (s : State), (s.opt fn).adopting = some stale → s.adoptRoom fn
    ((s.shardList fn).filter (fun r => stale.contains (shardIndex r))) = (t, true) → t.adoptCopies fn ((s.shardList
    fn).filter (fun r => stale.contains (shardIndex r))) = (u, .ok) → exec (.adoptRegenerationDone fn) s = .next
    (u.adopted fn)) ∧
  (∀ (fn : Nat) (s : State), (s.opt fn).adopting = none → (s.opt fn).waits = 2 → s.adoptBroken fn = false → exec
    (.adoptRegenerationDone fn) s = .next (s.adoptStarts fn))

/-- O17 (R376, R377, R379, R380, R383, R384; derived). Rings are rung, fetched from, served and completed. For an enabled
function: SVC_Q_DB written with a tail within the ring fetches descriptors; a fetched descriptor joins its queue; a
command at the head of its queue starts by its opcode where it may start; a completion record is written where its
ring has room; SVC_Q_CPL_DB returns room; SVC_Q_CFG enables and disables; SERVICE_CTL of any action on a service that
does not run is refused with ABORTED, and on a running service acts as named (that a RESUME acts at once beside a
pause that has not taken effect is the model's choice, log entry 34, DESIGN CHOICE). -/
def Obligations.QueueCommandsComplete : Prop :=
  (∀ (fn q : Nat) (w : Word) (t : State) (s : State), s.fnLive fn = true → q < 64 → t = (s.writeReg .SVC_Q_DB fn q
    w).straitOffer (capeIsland s.adapterPort) (s.commandDie fn) 1 1 → (t.fld .SVC_Q_DB_TAIL fn q + 2 ^ 32 - t.fld
    .SVC_Q_STAT_HEAD fn q) % 2 ^ 32 ≤ 2 ^ t.fld .SVC_Q_CFG_SIZE fn q → exec (.queueDoorbell fn q w) s = .next
    (State.fetchMore 8 t fn q)) ∧
  (∀ (fn q : Nat) (ans : Answer) (t : State) (s : State), s.fnLive fn = true → q < 64 → t = (if (s.queue fn q).fetching
    = 0 then s else s.setQueue fn q { s.queue fn q with fetching := (s.queue fn q).fetching - 1 }) → t.fetchRoom fn q
    = true → t.fnLive fn = true → t.restarting.contains (t.commandDie fn) = false → s.fetchTurn fn q = true → s.fld
    .SVC_Q_CFG_CMD_HOST fn q = 1 → s.hostReady fn (s.descAddr fn q (s.fld .SVC_Q_STAT_HEAD fn q)) 64 ans = true →
    (t.hostAnswer fn (t.descAddr fn q (s.fld .SVC_Q_STAT_HEAD fn q)) 64 ans).2.status = .ok → exec (.descriptorFetched
    fn q ans) s = .next ((t.hostAnswer fn (t.descAddr fn q (s.fld .SVC_Q_STAT_HEAD fn q)) 64 ans).1.joinsQueue fn q
    (s.fld .SVC_Q_STAT_HEAD fn q) (t.hostAnswer fn (t.descAddr fn q (s.fld .SVC_Q_STAT_HEAD fn q)) 64 ans).2.data)) ∧
  (∀ (fn q : Nat) (ans : Answer) (t : State) (s : State), s.fnLive fn = true → q < 64 → t = (if (s.queue fn q).fetching
    = 0 then s else s.setQueue fn q { s.queue fn q with fetching := (s.queue fn q).fetching - 1 }) → t.fetchRoom fn q
    = true → t.fnLive fn = true → t.restarting.contains (t.commandDie fn) = false → s.fetchTurn fn q = true → s.fld
    .SVC_Q_CFG_CMD_HOST fn q = 0 → s.rangeReady fn (s.descAddr fn q (s.fld .SVC_Q_STAT_HEAD fn q)) 64 = true →
    (t.devRead .islet fn (t.descAddr fn q (s.fld .SVC_Q_STAT_HEAD fn q)) 64).2.status = .ok → exec (.descriptorFetched
    fn q ans) s = .next ((t.devRead .islet fn (t.descAddr fn q (s.fld .SVC_Q_STAT_HEAD fn q)) 64).1.joinsQueue fn q
    (s.fld .SVC_Q_STAT_HEAD fn q) (t.devRead .islet fn (t.descAddr fn q (s.fld .SVC_Q_STAT_HEAD fn q)) 64).2.data)) ∧
  (∀ (fn q : Nat) (r : CmdRef) (c : Command) (s : State), s.nextCommand fn q = some (r, c) → c.opcode = 0 → exec
    (.cmdNop fn q) s = .next (s.completeCommand r .ok 0 (leBytes 16 0))) ∧
  (∀ (fn q : Nat) (r : CmdRef) (c : Command) (s : State), s.nextCommand fn q = some (r, c) → c.opcode = 1 → s.loading fn
    = false → (s.fnState fn).loadsWaiting = [] → exec (.cmdLoad fn q) s = .next (s.loadCommand r c)) ∧
  (∀ (fn q : Nat) (r : CmdRef) (c : Command) (s : State), s.nextCommand fn q = some (r, c) → c.opcode = 1 → s.loading fn
    = true → (s.fnState fn).loadsWaiting = [] → exec (.cmdLoad fn q) s = .next (s.modFn fn (fun f =>
    { f with loadsWaiting := [r] }))) ∧
  (∀ (fn q : Nat) (r : CmdRef) (c : Command) (t : State) (e : List Byte) (s : State), s.nextCommand fn q = some (r, c) →
    c.opcode = 2 → s.launches.any (fun e => e.2.client == .command r) = false → s.mayStart r (s.idAtolls fn (c.arg 8
    2)) = (t, true) → t.entryFor fn (c.arg 8 2) 0 = some e → exec (.cmdLaunch fn q) s = .next (t.launchCommand fn r c
    e)) ∧
  (∀ (fn q : Nat) (r : CmdRef) (c : Command) (t u v : State) (a b : Answer) (e : List Byte) (s : State), s.nextCommand
    fn q = some (r, c) → c.opcode = 3 → (s.fnState fn).step = none → s.mayStart r (s.trainAtolls fn (((s.fnState
    fn).entries.find? (fun z => entryId z == c.arg 8 2)).getD [])) = (t, true) → t.stepRefused fn (c.arg 8 2) = false
    → (t.optState fn = optIdle ∨ t.optState fn = optStopped) → c.arg 0xC 4 ≠ 0 → c.arg 0x18 8 % 32 = 0 → e =
    (t.entryFor fn (c.arg 8 2) 1).getD [] → t.entryUnsafe fn e = false → t.rangeReady fn (c.arg 0x18 8) 64 = true →
    t.devRead .islet fn (c.arg 0x18 8) 64 = (u, a) → a.status = .ok → u.rangeReady fn (bytesAt a.data 0 8)
    (entryParamLen e) = true → u.devRead .islet fn (bytesAt a.data 0 8) (entryParamLen e) = (v, b) → b.status = .ok →
    (t.opt fn).waits = 0 → c.arg 0x20 1 < 4 → stepBlockLegal a.data = true → exec (.cmdStep fn q) s = .next
    (v.stepBegins fn r c e a.data b.data)) ∧
  (∀ (fn q : Nat) (r : CmdRef) (c : Command) (t u : State) (ans : Answer) (s : State), s.nextCommand fn q = some (r, c)
    → c.opcode = 4 → (s.fnState fn).gen = none → s.mayStart r (s.entriesAtolls fn c.bytes) = (t, true) → (c.arg 0x10 1
    = 0 ∨ (c.arg 0x10 1 = 1 ∧ partReef t.pkg.part = true)) → 0 < c.arg 0x11 1 → c.arg 0x11 1 ≤ 64 → c.arg 0x18 8 % 64
    = 0 → c.arg 0x12 1 < 4 → ((t.startCommand r).modFn fn (fun f =>
    { f with gen := some { ref := r, ops := c.bytes } })).genStat fn = u → u.slotsForbidden (u.genOpen fn ans) fn =
    false → exec (.cmdGenerate fn q ans) s = .next (u.genOpen fn ans)) ∧
  (∀ (fn q : Nat) (r : CmdRef) (c : Command) (s : State), s.nextCommand fn q = some (r, c) → c.opcode = 5 → (s.fnState
    fn).mig.queue.length < 64 → exec (.cmdMigrate fn q) s = .next ((s.startCommand r).migQueue fn
    { w0 := c.arg 8 8, w1 := c.arg 0x10 8, w2 := c.arg 0x18 8, w3 := c.arg 0x20 8, source := .command r })) ∧
  (∀ (fn q : Nat) (r : CmdRef) (c : Command) (v : StepSvc) (s : State), s.nextCommand fn q = some (r, c) → c.opcode = 6
    → c.arg 8 1 = 0 → c.arg 9 1 = 0 → (s.fnState fn).step = some v → exec (.servicePause fn q) s = .next
    (((s.startCommand r).modStep fn (fun v => { v with ctl := v.ctl ++ [(r, 0)] })).stepBoundary fn)) ∧
  (∀ (fn q : Nat) (r : CmdRef) (c : Command) (g : GenSvc) (s : State), s.nextCommand fn q = some (r, c) → c.opcode = 6 →
    c.arg 8 1 = 1 → c.arg 9 1 = 0 → (s.fnState fn).gen = some g → g.point ≠ .boundary → exec (.servicePause fn q) s =
    .next ((s.startCommand r).modGen fn (fun g => { g with ctl := g.ctl ++ [(r, 0)] }))) ∧
  (∀ (fn q : Nat) (r : CmdRef) (c : Command) (g : GenSvc) (s : State), s.nextCommand fn q = some (r, c) → c.opcode = 6 →
    c.arg 8 1 = 1 → c.arg 9 1 = 0 → (s.fnState fn).gen = some g → g.point = .boundary → exec (.servicePause fn q) s =
    .next (((s.startCommand r).modGen fn (fun g => { g with ctl := g.ctl ++ [(r, 0)] })).genBoundary fn)) ∧
  (∀ (fn q : Nat) (r : CmdRef) (c : Command) (v : StepSvc) (s : State), s.nextCommand fn q = some (r, c) → c.opcode = 6
    → c.arg 8 1 = 0 → c.arg 9 1 = 2 → (s.fnState fn).step = some v → exec (.serviceStop fn q) s = .next
    (((s.startCommand r).modStep fn (fun v => { v with ctl := v.ctl ++ [(r, 2)] })).stepBoundary fn)) ∧
  (∀ (fn q : Nat) (r : CmdRef) (c : Command) (g : GenSvc) (s : State), s.nextCommand fn q = some (r, c) → c.opcode = 6 →
    c.arg 8 1 = 1 → c.arg 9 1 = 2 → (s.fnState fn).gen = some g → g.point ≠ .boundary → exec (.serviceStop fn q) s =
    .next ((s.startCommand r).modGen fn (fun g => { g with ctl := g.ctl ++ [(r, 2)] }))) ∧
  (∀ (fn q : Nat) (r : CmdRef) (c : Command) (g : GenSvc) (s : State), s.nextCommand fn q = some (r, c) → c.opcode = 6 →
    c.arg 8 1 = 1 → c.arg 9 1 = 2 → (s.fnState fn).gen = some g → g.point = .boundary → exec (.serviceStop fn q) s =
    .next (((s.startCommand r).modGen fn (fun g => { g with ctl := g.ctl ++ [(r, 2)] })).genBoundary fn)) ∧
  (∀ (fn q : Nat) (r : CmdRef) (c : Command) (v : StepSvc) (s : State), s.nextCommand fn q = some (r, c) → c.opcode = 6
    → c.arg 8 1 = 0 → c.arg 9 1 = 1 → (s.fnState fn).step = some v → exec (.serviceResume fn q) s = .next
    (((((s.startCommand r).completeCommand r .ok 0 (leBytes 16 0)).modStep fn (fun v =>
    { v with paused := false })).stepStat fn).stepBoundary fn)) ∧
  (∀ (fn q : Nat) (r : CmdRef) (c : Command) (g : GenSvc) (s : State), s.nextCommand fn q = some (r, c) → c.opcode = 6 →
    c.arg 8 1 = 1 → c.arg 9 1 = 1 → (s.fnState fn).gen = some g → exec (.serviceResume fn q) s = .next
    ((((s.startCommand r).completeCommand r .ok 0 (leBytes 16 0)).modGen fn (fun g =>
    { g with paused := false })).genStat fn)) ∧
  (∀ (fn q addr phase : Nat) (st : Status) (c : Completion) (rest : List Completion) (t u : State) (s : State), (s.queue
    fn q).cpls = c :: rest → s.completionAddr fn q = (addr, phase) → s.fnLive fn = true → s.ringRoom fn q = true →
    s.restarting.contains (s.commandDie fn) = false → s.fld .SVC_Q_CFG_CPL_HOST fn q = 1 → t = s.setQueue fn q
    { s.queue fn q with cpls := rest } → t.hostUp = true → u = t.hostWrite fn (t.commandDie fn) 1 addr
    (completionBytes q phase c) → exec (.completionWrite fn q .ok) s = .next (u.recordWritten fn q c)) ∧
  (∀ (fn q addr phase : Nat) (st : Status) (c : Completion) (rest : List Completion) (t u v : State) (s : State),
    (s.queue fn q).cpls = c :: rest → s.completionAddr fn q = (addr, phase) → s.fnLive fn = true → s.ringRoom fn q =
    true → s.restarting.contains (s.commandDie fn) = false → s.fld .SVC_Q_CFG_CPL_HOST fn q = 0 → s.optForbids fn true
    addr 32 = false → s.prepareWrite fn addr 32 = (t, true) → u = t.setQueue fn q { t.queue fn q with cpls := rest } →
    u.devWrite .islet fn addr (completionBytes q phase c) = (v, .ok) → exec (.completionWrite fn q st) s = .next
    (v.recordWritten fn q c)) ∧
  (∀ (fn q : Nat) (w : Word) (s : State), s.fnLive fn = true → q < 64 → exec (.completionDoorbell fn q w) s = .next
    ((s.writeReg .SVC_Q_CPL_DB fn q w).straitOffer (capeIsland s.adapterPort) (s.commandDie fn) 1 1)) ∧
  (∀ (fn q : Nat) (w : Word) (t : State) (s : State), s.fnLive fn = true → q < 64 → s.fld .SVC_Q_STATE_STATE fn q =
    queueDisabled → t = s.writeReg .SVC_Q_CFG fn q w → t.fld .SVC_Q_CFG_ENABLE fn q = 1 → exec (.queueEnable fn q w) s
    = .next ((((((t.setReg .SVC_Q_STAT fn q 0).setReg .SVC_Q_DB fn q 0).setReg .SVC_Q_CPL_DB fn q 0).setQueue fn q
    {}).setFld .SVC_Q_STATE_STATE fn q queueActive).setFld .SVC_Q_STATE_ERR_STATUS fn q 0)) ∧
  (∀ (fn q : Nat) (w : Word) (t u : State) (s : State), s.fnLive fn = true → q < 64 → (s.fld .SVC_Q_STATE_STATE fn q =
    queueActive ∨ s.fld .SVC_Q_STATE_STATE fn q = queueError) → bit w.toNat 0 = false → t = (s.setFld
    .SVC_Q_CFG_ENABLE fn q 0).setFld .SVC_Q_STATE_STATE fn q queueDraining → u = t.setQueue fn q
    { t.queue fn q with fetching := 0 } → exec (.queueDisable fn q w) s = .next (((u.unstartedOf fn q).foldl (fun s r
    => s.refuseCommand r .aborted) u).queueDrained fn q)) ∧
  (∀ (fn q : Nat) (r : CmdRef) (c : Command) (s : State), s.nextCommand fn q = some (r, c) → c.opcode = 6 → c.arg 8 1 =
    0 → c.arg 9 1 = 0 → (s.fnState fn).step = none → exec (.servicePause fn q) s = .next (s.refuseCommand r .aborted)) ∧
  (∀ (fn q : Nat) (r : CmdRef) (c : Command) (s : State), s.nextCommand fn q = some (r, c) → c.opcode = 6 → c.arg 8 1 =
    1 → c.arg 9 1 = 0 → (s.fnState fn).gen = none → exec (.servicePause fn q) s = .next (s.refuseCommand r .aborted)) ∧
  (∀ (fn q : Nat) (r : CmdRef) (c : Command) (s : State), s.nextCommand fn q = some (r, c) → c.opcode = 6 → c.arg 8 1 =
    0 → c.arg 9 1 = 1 → (s.fnState fn).step = none → exec (.serviceResume fn q) s = .next (s.refuseCommand r
    .aborted)) ∧
  (∀ (fn q : Nat) (r : CmdRef) (c : Command) (s : State), s.nextCommand fn q = some (r, c) → c.opcode = 6 → c.arg 8 1 =
    1 → c.arg 9 1 = 1 → (s.fnState fn).gen = none → exec (.serviceResume fn q) s = .next (s.refuseCommand r .aborted)) ∧
  (∀ (fn q : Nat) (r : CmdRef) (c : Command) (s : State), s.nextCommand fn q = some (r, c) → c.opcode = 6 → c.arg 8 1 =
    0 → c.arg 9 1 = 2 → (s.fnState fn).step = none → exec (.serviceStop fn q) s = .next (s.refuseCommand r .aborted)) ∧
  (∀ (fn q : Nat) (r : CmdRef) (c : Command) (s : State), s.nextCommand fn q = some (r, c) → c.opcode = 6 → c.arg 8 1 =
    1 → c.arg 9 1 = 2 → (s.fnState fn).gen = none → exec (.serviceStop fn q) s = .next (s.refuseCommand r .aborted))

/-- O18 (R14, R374, R390, R392, R395; derived). Watchdogs, cluster restarts, step records, generation boundaries and event
registers act as their rules say. CONTROLLER_WATCHDOG_WRITE notes the count of island 16; CONTROLLER_RESTART restarts
a cluster 8 ms after its oldest watchdog write, and CONTROLLER_RESTART_DONE ends it; STEP_RECORD_WRITE writes the
first waiting record; GEN_POLL opens the next boundary; a write of an event register, of SVC_EVT_ROUTE and of any
register that an open window shows acts by that register's rules; a REGISTER_WRITE at the offset of MEM_XLATE_ADDR,
SVC_Q_DB, SVC_Q_CPL_DB or REEF_ISSUE is XLATE_LOOKUP, SVC_Q_DB, SVC_Q_CPL_DB or REEF_GO with the same word; a window
that is not open, or does not show the register, ignores the write. -/
def Obligations.ServiceEventsComplete : Prop :=
  (∀ (die core : Nat) (s : State), die < 4 → core < 4 → exec (.controllerWatchdogWrite die core) s = .next
    { s with watchdogs := storeSet 0 s.watchdogs (4 * die + core) (s.count 16) }) ∧
  (∀ (die a b c d : Nat) (s : State), die < 4 → s.restarting.contains die = false → (List.range 4).map (fun c =>
    storeGet 0 s.watchdogs (4 * die + c)) = [a, b, c, d] → exec (.controllerRestart die) s = .next ((s.reachCount 16
    (min (min (min (min a a) b) c) d + 8000000)).clusterRestarts die)) ∧
  (∀ (die : Nat) (s : State), s.restarting.contains die = true → exec (.controllerRestartDone die) s = .next
    (({ s with restarting := s.restarting.erase die, watchdogs := (List.range 4).foldl (fun w c => storeSet 0 w (4 * die + c) (s.count 16)) s.watchdogs }
    : State).setFld .SVC_CTRL_STAT_RESTARTING die 0 0)) ∧
  (∀ (fn : Nat) (v : StepSvc) (r : StepRec) (rest : List StepRec) (t : State) (s : State), s.fnLive fn = true →
    s.restarting.contains (s.commandDie fn) = false → (s.fnState fn).step = some v → v.recs = r :: rest → 4 ≤ bytesAt
    v.cb 0x20 1 → bytesAt v.cb 0x20 1 ≤ 16 → r.ckpts ≤ (s.fnState fn).ckptEnded.length → s.optForbids fn true (bytesAt
    v.cb 0x18 8 + 64 * (v.seq % 2 ^ bytesAt v.cb 0x20 1)) 64 = false → s.prepareWrite fn (bytesAt v.cb 0x18 8 + 64 *
    (v.seq % 2 ^ bytesAt v.cb 0x20 1)) 64 = (t, true) → exec (.stepRecordWrite fn) s = .next (t.stepRecorded fn v r
    rest)) ∧
  (∀ (fn : Nat) (ans : Answer) (s : State), s.fnLive fn = true → s.restarting.contains (s.commandDie fn) = false →
    s.slotsForbidden (s.genOpen fn ans) fn = false → exec (.genPoll fn ans) s = .next (s.genOpen fn ans)) ∧
  (∀ (fn k i b off : Nat) (w : Word) (r : Reg) (s : State), regAt off = some (r, i, b) → eventSource r = some k → fn ≠ 0
    → s.windowOpen fn = true → s.shows fn r (ownIndex r fn i) b = true → exec (.eventBitClear fn off w) s = .next
    (s.clearEvents fn k r (ownIndex r fn i) b w)) ∧
  (∀ (fn k : Nat) (w : Word) (s : State), s.fnLive fn = true → k < 7 → exec (.eventRouteWrite fn k w) s = .next
    ((((s.writeReg .SVC_EVT_ROUTE fn k w).setArmed fn k false)).armEvent fn k)) ∧
  (∀ (fn i b off : Nat) (w : Word) (r : Reg) (s : State), regAt off = some (r, i, b) → s.windowOpen fn = true → s.shows
    fn r (ownIndex r fn i) b = true → [Reg.MEM_XLATE_ADDR, .SVC_Q_DB, .SVC_Q_CPL_DB, .OPT_CTL, .REEF_ISSUE].contains r
    = false → ∃ t, exec (.registerWrite fn off w) s = .next t ∧ s.windowWrites fn r (ownIndex r fn i) b w = .next t) ∧
  (∀ (fn i b off : Nat) (w : Word) (s : State), regAt off = some (.OPT_CTL, i, b) → s.windowOpen fn = true → s.shows fn
    .OPT_CTL (ownIndex .OPT_CTL fn i) b = true → (s.optAdopts fn w && s.adoptBroken fn) = false → exec (.registerWrite
    fn off w) s = .next (s.writeOptCtl fn w)) ∧
  (∀ (fn i b off : Nat) (w : Word) (s : State), regAt off = some (.MEM_XLATE_ADDR, i, b) → s.windowOpen fn = true →
    s.shows fn .MEM_XLATE_ADDR (ownIndex .MEM_XLATE_ADDR fn i) b = true → exec (.registerWrite fn off w) s = exec
    (.xlateLookup fn w) s) ∧
  (∀ (fn i b off : Nat) (w : Word) (s : State), regAt off = some (.SVC_Q_DB, i, b) → s.windowOpen fn = true → s.shows fn
    .SVC_Q_DB (ownIndex .SVC_Q_DB fn i) b = true → exec (.registerWrite fn off w) s = exec (.queueDoorbell fn b w) s) ∧
  (∀ (fn i b off : Nat) (w : Word) (s : State), regAt off = some (.SVC_Q_CPL_DB, i, b) → s.windowOpen fn = true →
    s.shows fn .SVC_Q_CPL_DB (ownIndex .SVC_Q_CPL_DB fn i) b = true → exec (.registerWrite fn off w) s = exec
    (.completionDoorbell fn b w) s) ∧
  (∀ (fn i b off : Nat) (w : Word) (s : State), regAt off = some (.REEF_ISSUE, i, b) → s.windowOpen fn = true → s.shows
    fn .REEF_ISSUE (ownIndex .REEF_ISSUE fn i) b = true → exec (.registerWrite fn off w) s = exec (.reefGo fn i w) s) ∧
  (∀ (i b off : Nat) (w : Word) (r : Reg) (s : State), regAt off = some (r, i, b) → s.ready = true → [Reg.STR_ARB,
    .STR_EVT, .MEM_SCRUB_CFG, .JL_PORT_CFG, .JL_PORT_PIN].contains r = true → s.shows 0 r i b = true → exec
    (.registerWrite 0 off w) s = .next (s.setReg r i b (writtenWord r (s.reg r i b) w))) ∧
  (∀ (fn i b off : Nat) (w : Word) (r : Reg) (s : State), regAt off = some (r, i, b) → (s.windowOpen fn = false ∨
    s.shows fn r (ownIndex r fn i) b = false) → exec (.registerWrite fn off w) s = .next s)

/-- O19 (R398, R401, R402, R403, R404, R408, R413, R414; derived). Functions are granted, enabled, reset and shut down;
keys rotate; the DRBG fails and reseeds. Function 0, once READY, writes the grants of a DISABLED function, enables it,
disables or resets it; a function resets itself; ENABLE_COMPLETE and SHUTDOWN_COMPLETE end the sequences; KEY_ROTATE
begins a rotation where the other slot is EMPTY, or stores KEY_SLOT_BUSY; ROTATION_KEY_LOADED, SWEEP_PAGE_START and
SWEEP_PAGE_DONE carry it on; DRBG_HEALTH_FAIL and DRBG_RESEED act on the DRBG. -/
def Obligations.PartitionCommandsComplete : Prop :=
  (∀ (f : Nat) (w : Word) (s : State), isFn f = true → s.ready = true → bit w.toNat 0 = true → s.fnStateOf f =
    fnDisabled → exec (.functionEnable 0 f w) s = .next ((s.setFld .SEC_GRANT_CTL_ENABLE f 0 1).grantEnable f)) ∧
  (∀ (f : Nat) (w : Word) (s : State), isFn f = true → s.ready = true → bit w.toNat 0 = false → s.fnStateOf f =
    fnEnabledState → exec (.functionDisable 0 f w) s = .next ((s.setFld .SEC_GRANT_CTL_ENABLE f 0 0).shutdown f 0)) ∧
  (∀ (f : Nat) (w : Word) (s : State), isFn f = true → s.ready = true → bit w.toNat 0 = true → bit w.toNat 1 = true →
    s.fnStateOf f = fnEnabledState → exec (.grantCtlReset 0 f w) s = .next ((s.setFld .SEC_GRANT_CTL_ENABLE f 0
    1).shutdown f 1)) ∧
  (∀ (fn : Nat) (w : Word) (s : State), s.fnLive fn = true → bit w.toNat 0 = true → exec (.fnCtlReset fn w) s = .next
    (s.shutdown fn 2)) ∧
  (∀ (f : Nat) (s : State), isFn f = true → s.fnStateOf f = fnEnabling → storeGet 0 (s.enables f).enablePend f = 0 →
    exec (.enableComplete f) s = .next (s.enables f)) ∧
  (∀ (f : Nat) (s : State), isFn f = true → s.fnStateOf f = fnEnabling → storeGet 0 (s.enables f).enablePend f = 1 →
    exec (.enableComplete f) s = .next (({ s.enables f with enablePend := storeSet 0 (s.enables f).enablePend f 0 } :
    State).shutdown f 0)) ∧
  (∀ (f : Nat) (s : State), isFn f = true → s.fnStateOf f = fnEnabling → storeGet 0 (s.enables f).enablePend f = 2 →
    exec (.enableComplete f) s = .next (({ s.enables f with enablePend := storeSet 0 (s.enables f).enablePend f 0 } :
    State).shutdown f 1)) ∧
  (∀ (f : Nat) (s : State), isFn f = true → s.fnStateOf f = fnDraining → s.abortsWait f = false → exec
    (.shutdownComplete f) s = .next (if (s.shutsDown f).fld .SEC_GRANT_CTL_ENABLE f = 1 then (s.shutsDown
    f).grantEnable f else s.shutsDown f)) ∧
  (∀ (off f j : Nat) (w : Word) (s : State), regAt off = some (.SEC_GRANT_ATOLLS, f, j) → isFn f = true → s.ready = true
    → s.fnStateOf f = fnDisabled → exec (.grantWrite 0 off w) s = .next (s.writeReg .SEC_GRANT_ATOLLS f j w)) ∧
  (∀ (off f j : Nat) (w : Word) (s : State), regAt off = some (.SEC_GRANT_RES, f, j) → isFn f = true → s.ready = true →
    s.fnStateOf f = fnDisabled → exec (.grantWrite 0 off w) s = .next (s.writeReg .SEC_GRANT_RES f j w)) ∧
  (∀ (off f j : Nat) (w : Word) (s : State), regAt off = some (.SEC_GRANT_PORTS, f, j) → isFn f = true → s.ready = true
    → s.fnStateOf f = fnDisabled → exec (.grantWrite 0 off w) s = .next (s.writeReg .SEC_GRANT_PORTS f j w)) ∧
  (∀ (off f j : Nat) (w : Word) (s : State), regAt off = some (.SEC_GRANT_ML, f, j) → isFn f = true → s.ready = true →
    s.fnStateOf f = fnDisabled → exec (.grantWrite 0 off w) s = .next (s.writeReg .SEC_GRANT_ML f j w)) ∧
  (∀ (fn : Nat) (w : Word) (s : State), s.fnLive fn = true → bit w.toNat 0 = true → s.fld (slotState (1 - s.currentSlot
    fn)) fn = 0 → storeGet 0 s.rotations fn = 0 → s.fld .SEC_DEV_STAT_DRBG ≠ 2 → exec (.keyRotate fn w) s = .next
    (({ s with rotations := storeSet 0 s.rotations fn 1 } : State).rotateIssue fn)) ∧
  (∀ (fn : Nat) (w : Word) (s : State), s.fnLive fn = true → bit w.toNat 0 = true → s.fld (slotState (1 - s.currentSlot
    fn)) fn ≠ 0 → exec (.keyRotate fn w) s = .next (s.setFld .SEC_KEY_STAT_LAST_STATUS fn 0 (statusCode
    .keySlotBusy))) ∧
  (∀ (f : Nat) (s : State), isFn f = true → storeGet 0 s.rotations f = 3 → (s.rotationEnds f).fld .SEC_DEV_STAT_DRBG ≠ 2
    → exec (.rotationKeyLoaded f) s = .next ((s.rotationEnds f).rotates f)) ∧
  (∀ (f port upset addr : Nat) (pg : Page) (t : State) (s : State), isFn f = true → (s.mlPort port).current = none →
    (s.mlPort port).lost = false → s.sweepNext f port = some (addr, pg) → s.mlUp port = true → (s.addUpset pg.frame
    (frameByte pg.frame 0) upset).readWhole .migration f pg.frame (some addr) = (t, true) → exec (.sweepPageStart f
    port upset) s = .next ((t.modPort port (fun m =>
    { m with current := some { fn := f, addr := addr, kind := .sweep, target := pg.frame } })).modPage f addr (fun e
    => { e with moving := true }))) ∧
  (∀ (f port : Nat) (mv : PageMove) (pg : Page) (s : State), (s.mlPort port).current = some mv → mv.kind = .sweep →
    mv.fn = f → (s.mlPort port).lost = false → s.pageAt f mv.addr = some pg → (s.unserved.portNext port).mlUp port =
    true → exec (.sweepPageDone f port) s = .next ((s.unserved.portNext port).sweepPuts f mv pg)) ∧
  (∀ (test : Nat) (s : State), s.heldInReset = false → exec (.drbgHealthFail test) s = .next (s.drbgFails test)) ∧
  (∀ (s : State), s.fld .SEC_DEV_STAT_DRBG = 1 → exec .drbgReseed s = .next (({ s with drbgCount := 0 } : State).satFld
    .SEC_DRBG_RESEEDS 0 0 1))

/-- O20 (R23, R37, R431, R432, R433, R434, R435, R468, R476; derived). Every row about the governor completes: wake-ups,
points, budgets, caps, temperatures and PLLs. WAKE_REQUEST of a waking sub-array whose die reaches its harbour answers
the state with it in the die's queue. DVFS_REQUEST of a die answers the state with the point refused, granted at once
or queued; that of a half, the state with its leader's action issued. GOV_WINDOW_START answers, in every state, the
state with the window opened, the four queues examined and the reef limits raised. CHARGE_END, with a charge of the
die, answers the state with the first charge ended and the queue examined. GOV_CFG_WRITE answers, in every state, the
register written and the reef limits cut to it. DVFS_VOLTAGE_SETTLED with a raise whose voltage settles starts the
relock. PLL_RELOCK_DONE of a relocking island ends the relock, with the new point where a raise waited for it.
TEMP_SAMPLE answers, on any samples, the temperatures written and the caps judged, or the trip. THERMAL_CAP_STEP of a
die with a cap moving answers the cap a point lower, or higher. -/
def Obligations.GovernorCommandsComplete : Prop :=
  (∀ (islet : Nat) (s : State), islet < 384 → (s.islet islet).mx.waking.isSome = true → (storeGet [] s.gov.queues
    (islDie islet)).contains (.wake islet) = false → s.wayOpen (islDie islet) 16 = true → exec (.wakeRequest islet) s
    = .next ((s.straitOffer (islDie islet) 16 2 1).govPush (islDie islet) (.wake islet))) ∧
  (∀ (die point : Nat) (s : State), point ≤ 14 → die < 4 → s.restarting.contains die = false → s.wayOpen die 16 = true →
    s.pins.tripped = false → exec (.dvfsRequest die point) s = .next ((s.straitOffer die 16 2 1).dvfsRequest die
    point)) ∧
  (∀ (die point : Nat) (s : State), point ≤ 14 → 4 ≤ die → die < 6 → s.lead.leader (die == 5) < 4 → s.heldEpoch
    (s.lead.leader (die == 5)) ≠ 0 → s.wayOpen (s.lead.leader (die == 5)) 16 = true → s.pins.tripped = false → exec
    (.dvfsRequest die point) s = .next (s.issueAction (.power (die == 5) point) (s.lead.leader (die == 5))
    (s.heldEpoch (s.lead.leader (die == 5))) (halfDies (die == 5))).1) ∧
  (∀ (t u : State) (s : State), s.pins.tripped = false → t = (if s.gov.window < govWindow (s.count 16) then s else
    s.setCount 16 (max (s.count 16) (4000 * (s.gov.window + 1) + 1))) → u = t.modGov (fun g =>
    { g with window := govWindow (t.count 16), wakes := [] }) → exec .govWindowStart s = .next ((([0, 1, 2, 3].foldl
    (fun s d => s.govExamine d) u).limitRaise false).limitRaise true)) ∧
  (∀ (die e : Nat) (rest : List Nat) (t : State) (s : State), (s.gov.charges.filter (fun c => c.1 == die)).map (fun c =>
    c.2.2) = e :: rest → t = s.reachCount 16 (rest.foldl min e) → exec (.chargeEnd die) s = .next ((t.modGov (fun g =>
    { g with charges := g.charges.filter (fun c => !(c.1 == die && decide (c.2.2 ≤ rest.foldl min e))) })).govExamine
    die)) ∧
  (∀ (fn : Nat) (w : Word) (s : State), exec (.govCfgWrite fn w) s = .next (s.writeGovCfg fn w)) ∧
  (∀ (w : Word) (s : State), s.ready = true → partReef s.pkg.part = true → exec (.govCfgWrite 0 w) s = .next
    ((List.range 8).foldl (fun s k => s.setFld .REEF_STACK_STAT_LIMIT k 0 (min (s.fld .REEF_STACK_STAT_LIMIT k)
    s.reefMax)) (s.writeReg .HBR_GOV_CFG 0 0 w))) ∧
  (∀ (die p : Nat) (s : State), s.dvfsChange die = some (p, 1) → exec (.dvfsVoltageSettled die) s = .next (s.relock die
    p)) ∧
  (∀ (island p : Nat) (t : State) (s : State), s.relocking island = true → (s.setFld .STR_ISLAND_CLK_RELOCK island 0
    0).dvfsChange island = some (p, 2) → t = ((((((s.setFld .STR_ISLAND_CLK_RELOCK island 0 0).modGov (fun g =>
    { g with changes := storeErase g.changes island })).setFld .STR_ISLAND_CLK_POINT island 0 p).setFld
    .STR_ISLAND_CLK_FREQ_MHZ island 0 (600 + 50 * p)).driveCode island p).lowersNext island) → (∀ e ∈ dieLanes island,
    t.laneTake e.1 (straitReader e.1 true == island) e.2 = none) → exec (.pllRelockDone island) s = .next t) ∧
  (∀ (island : Nat) (t : State) (s : State), s.relocking island = true → t = s.setFld .STR_ISLAND_CLK_RELOCK island 0 0
    → t.dvfsChange island = none → (∀ e ∈ dieLanes island, t.laneTake e.1 (straitReader e.1 true == island) e.2 =
    none) → exec (.pllRelockDone island) s = .next t) ∧
  (∀ (temps dram : List Nat) (t : State) (s : State), s.pins.tripped = false → t = (((s.tempTraffic
    temps.length).writeTemps temps).writeDram dram).crossings s → (temps.take 18).any (fun t => decide (125 ≤ t)) =
    false → (dram.take 8).any (fun t => decide (110 ≤ t)) = false → exec (.tempSample temps dram) s = .next ([0, 1, 2,
    3].foldl (fun s d => s.capCheck d) t)) ∧
  (∀ (temps dram : List Nat) (s : State), s.pins.tripped = false → ((temps.take 18).any (fun t => decide (125 ≤ t)) =
    true ∨ (dram.take 8).any (fun t => decide (110 ≤ t)) = true) → ∃ u, exec (.tempSample temps dram) s = .next u ∧
    u.pins.tripped = true) ∧
  (∀ (die : Nat) (t u : State) (s : State), die < 4 → s.pins.tripped = false → storeGet 0 s.gov.capMode die = 3 → t =
    s.reachCount 16 (storeGet 0 s.gov.capAt die + 10000000) → u = t.modGov (fun g =>
    { g with capAt := storeSet 0 g.capAt die (t.count 16) }) → s.fld .HBR_GOV_POINT_CAP die + 1 < u.pointMax die →
    exec (.thermalCapStep die) s = .next (u.setFld .HBR_GOV_POINT_CAP die 0 (s.fld .HBR_GOV_POINT_CAP die + 1))) ∧
  (∀ (die : Nat) (t u : State) (s : State), die < 4 → s.pins.tripped = false → storeGet 0 s.gov.capMode die = 3 → t =
    s.reachCount 16 (storeGet 0 s.gov.capAt die + 10000000) → u = t.modGov (fun g =>
    { g with capAt := storeSet 0 g.capAt die (t.count 16) }) → s.fld .HBR_GOV_POINT_CAP die + 1 = u.pointMax die →
    exec (.thermalCapStep die) s = .next ((u.setFld .HBR_GOV_POINT_CAP die 0 (s.fld .HBR_GOV_POINT_CAP die +
    1)).modGov (fun g => { g with capMode := storeSet 0 g.capMode die 0 }))) ∧
  (∀ (die : Nat) (t u : State) (s : State), die < 4 → s.pins.tripped = false → storeGet 0 s.gov.capMode die = 2 → t =
    s.reachCount 16 (storeGet 0 s.gov.capAt die + 1000000) → u = ((t.modGov (fun g =>
    { g with capAt := storeSet 0 g.capAt die (t.count 16) })).setFld .HBR_GOV_POINT_CAP die 0 (s.fld
    .HBR_GOV_POINT_CAP die - 1)).modGov (fun g => { g with capMode := storeSet 0 g.capMode die 2 }) → exec
    (.thermalCapStep die) s = .next (u.lower die (s.fld .HBR_GOV_POINT_CAP die - 1))) ∧
  (∀ (die : Nat) (t u : State) (s : State), die < 4 → s.pins.tripped = false → storeGet 0 s.gov.capMode die = 1 → t =
    s.reachCount 16 (storeGet 0 s.gov.capAt die + 1000000) → u = ((t.modGov (fun g =>
    { g with capAt := storeSet 0 g.capAt die (t.count 16) })).setFld .HBR_GOV_POINT_CAP die 0 (s.fld
    .HBR_GOV_POINT_CAP die - 1)).modGov (fun g => { g with capMode := storeSet 0 g.capMode die 2 }) → ∃ v, v =
    (u.journal 0x56 (leBytes 1 die ++ leBytes 1 (u.fld .HBR_TEMP_TEMP_C die) ++ leBytes 1 (s.fld .HBR_GOV_POINT_CAP
    die - 1))).hbrEvent .HBR_EVT_THERMAL ∧ exec (.thermalCapStep die) s = .next (v.lower die (s.fld .HBR_GOV_POINT_CAP
    die - 1)))

/-- O21 (R436, R438, R439, R440, R441; derived). The lead token is asked for, granted, released and revoked; gates hold,
refuse, release and drop actions. Each row about the lead and the gates answers the state named: a request by a half
with a leader that can be reached, a release, a grant, a revocation, a takeover; an action reaching a gate with and
without its epoch, the issuer's answers, GO before the close of the gate's 20 µs (R445), DROP and the loss after it.
That a grant whose wait for the gates has begun is ended by a second LEAD_GRANT is the model's choice (log entry 49,
DESIGN CHOICE). -/
def Obligations.LeadAndGateCommandsComplete : Prop :=
  (∀ (west : Bool) (t : State) (s : State), s.lead.leader west < 4 → s.straitCarries (18 + s.lead.leader west) = true →
    t = s.straitOffer (s.lead.leader west) 16 2 1 → t.lead.holder = some west → exec (.leadRequest west) s = .next
    (((t.straitOffer 16 (s.lead.leader west) 2 1).distribute west (t.fld .HBR_LEAD_EPOCH)).leadResume west)) ∧
  (∀ (west : Bool) (t : State) (s : State), s.lead.leader west < 4 → s.straitCarries (18 + s.lead.leader west) = true →
    t = s.straitOffer (s.lead.leader west) 16 2 1 → t.lead.holder = none → t.lead.wants.contains west = false → exec
    (.leadRequest west) s = .next (t.modLead (fun l => { l with wants := l.wants ++ [west] }))) ∧
  (∀ (west : Bool) (t : State) (s : State), s.lead.leader west < 4 → s.straitCarries (18 + s.lead.leader west) = true →
    t = s.straitOffer (s.lead.leader west) 16 2 1 → t.lead.holder = some (!west) → t.lead.wants.contains west = false
    → t.lead.asked = false → exec (.leadRequest west) s = .next ((t.modLead (fun l =>
    { l with wants := l.wants ++ [west] })).modLead (fun l => { l with asked := true, askedAt := t.count 16 }))) ∧
  (∀ (west : Bool) (s : State), s.lead.holder = some west → s.lead.asked = true → s.actions.any (fun e => s.actionHalf
    e.2 == west) = false → s.lead.leader west < 4 → exec .leadRelease s = .next ((s.straitOffer (s.lead.leader west)
    16 2 1).leadFree.distribute west 0)) ∧
  (∀ (west : Bool) (rest : List Bool) (t : State) (s : State), s.lead.holder = none → s.lead.granting = none →
    s.lead.wants = west :: rest → s.lead.leader west < 4 → t = s.grantBegins west → t.gatesHold = false → exec
    .leadGrant s = .next (t.leadGranted west)) ∧
  (∀ (west : Bool) (rest : List Bool) (t : State) (s : State), s.lead.holder = none → s.lead.granting = none →
    s.lead.wants = west :: rest → s.lead.leader west < 4 → t = s.grantBegins west → t.gatesHold = true → exec
    .leadGrant s = .next t) ∧
  (∀ (west : Bool) (c : Nat) (s : State), s.lead.holder = none → s.lead.granting = some (west, c) → s.lead.leader west <
    4 → exec .leadGrant s = .next ((if s.gatesHold then s.reachCount 16 (c + 20000) else s).leadGranted west)) ∧
  (∀ (s : State), s.lead.holder.isSome = true → s.lead.asked = true → exec .leadHoldTimeout s = .next ((s.reachCount 16
    (s.lead.askedAt + 1000000 * max 1 (s.fld .HBR_GOV_CFG_LEAD_HOLD_MS))).leadRevoke)) ∧
  (∀ (west : Bool) (d : Nat) (s : State), 4 ≤ s.lead.leader west → ((halfDies west).filter (· ≠ if west then s.fld
    .HBR_LEAD_WEST_LEADER else s.fld .HBR_LEAD_EAST_LEADER) ++ [if west then s.fld .HBR_LEAD_WEST_LEADER else s.fld
    .HBR_LEAD_EAST_LEADER]).find? s.mayLead = some d → exec (.leaderTakeover west) s = .next ((s.setLeader west
    d).setDieEpoch d 0)) ∧
  (∀ (act gate : Nat) (a : Action) (t : State) (s : State), s.action act = some a → a.phase = 0 → a.dies.contains gate =
    true → a.answered.contains gate = false → s.wayOpen a.src gate = true → t = s.straitOffer gate a.src (actionClass
    a.kind) 1 → storeGet 0 t.lead.gateEpoch gate = a.epoch → a.epoch ≠ 0 → exec (.gateActionArrive act gate) s = .next
    (t.modAction act (fun a =>
    { a with answered := a.answered ++ [gate], holding := storeSet 0 a.holding gate (t.count 16 + 1) }))) ∧
  (∀ (act gate : Nat) (a : Action) (t : State) (s : State), s.action act = some a → a.phase = 0 → a.dies.contains gate =
    true → a.answered.contains gate = false → s.wayOpen a.src gate = true → t = s.straitOffer gate a.src (actionClass
    a.kind) 1 → (storeGet 0 t.lead.gateEpoch gate ≠ a.epoch ∨ a.epoch = 0) → a.refused = false → exec
    (.gateActionArrive act gate) s = .next ((t.satFld .HBR_LEAD_REFUSALS 0 0 1).modAction act (fun a =>
    { a with answered := a.answered ++ [gate], refused := true }))) ∧
  (∀ (act : Nat) (a : Action) (s : State), s.action act = some a → a.phase = 0 → a.refused = false → a.dies.all
    a.answered.contains = true → exec (.gateResponse act) s = .next ((s.toGates a.kind a.src a.dies).modAction act
    (fun a => { a with phase := 1 }))) ∧
  (∀ (act : Nat) (a : Action) (s : State), s.action act = some a → a.phase = 0 → a.refused = true → exec (.gateResponse
    act) s = .next (((s.toGates a.kind a.src (a.holding.map Prod.fst)).actionLost act a).actionGone act)) ∧
  (∀ (act gate : Nat) (a : Action) (s : State), s.action act = some a → a.phase = 1 → a.holding.any (fun h => h.1 ==
    gate && s.inWindow 16 (h.2 - 1 + 20000)) = true → s.wayOpen a.src gate = true → storeErase a.holding gate ≠ [] →
    exec (.gateGo act gate) s = .next (s.modAction act (fun a => { a with holding := storeErase a.holding gate }))) ∧
  (∀ (act gate : Nat) (a : Action) (s : State), s.action act = some a → a.phase = 1 → a.holding.any (fun h => h.1 ==
    gate && s.inWindow 16 (h.2 - 1 + 20000)) = true → s.wayOpen a.src gate = true → storeErase a.holding gate = [] →
    exec (.gateGo act gate) s = .next ((s.modAction act (fun a =>
    { a with holding := storeErase a.holding gate })).actionReleased act a)) ∧
  (∀ (act gate : Nat) (a : Action) (s : State), s.action act = some a → a.phase = 2 → s.wayOpen a.src gate = true → exec
    (.gateDrop act gate) s = .next ((s.modAction act (fun a =>
    { a with holding := storeErase a.holding gate })).actionGone act)) ∧
  (∀ (act gate g c : Nat) (a : Action) (t : State) (s : State), s.action act = some a → a.holding.find? (fun h => h.1 ==
    gate) = some (g, c) → t = (s.reachCount 16 (c - 1 + 20000)).modAction act (fun y =>
    { y with holding := storeErase y.holding gate }) → exec (.gateTimeout act gate) s = .next ((if a.phase = 2 then t
    else t.actionLost act a).actionGone act))

/-- O22 (R429, R430, R444, R447, R449, R450, R451, R452, R453, R457, R458, R477; derived). Watchdogs, events, snapshots,
resets, boots, firmware and the journal of the harbour act as their rules say. Each row about the management complex
answers the state named, under the conditions named: BOOT_READY boots where every image passes and a trial is within
its 2 s, and fails the trial otherwise. That FW_STAGE_DONE reads the header of 4,096 bytes first and the rest of the
image after it is the model's choice (log entry 55, DESIGN CHOICE). -/
def Obligations.HarbourCommandsComplete : Prop :=
  (∀ (core : Nat) (s : State), core < 2 → s.heldInReset = false → exec (.harbourWatchdogWrite core) s = .next
    { s with watchdogs := storeSet 0 s.watchdogs (16 + core) (s.count 16) }) ∧
  (∀ (s : State), s.heldInReset = false → exec .harbourWatchdog s = .next ((s.reachCount 16 (min (storeGet 0 s.watchdogs
    16) (storeGet 0 s.watchdogs 17) + 8000000)).warmReset 3)) ∧
  (∀ (fn : Nat) (w : Word) (s : State), exec (.hbrEvtClear fn w) s = .next (s.writeHbrEvt fn w)) ∧
  (∀ (fn : Nat) (w : Word) (s : State), exec (.hbrEvtRouteWrite fn w) s = .next (s.writeHbrRoute fn w)) ∧
  (∀ (fn : Nat) (w : Word) (s : State), exec (.snapshotGo fn w) s = .next (s.writeSnap fn w)) ∧
  (∀ (island : Nat) (s : State), s.snapSent.contains island = true → s.wayOpen 16 island = true → exec
    (.snapshotUnitAccept island) s = .next ((({ s with snapSent := s.snapSent.filter (· ≠ island) } : State).setFld
    .HBR_SNAP_CTL_VALID 0 0 (putBit (s.fld .HBR_SNAP_CTL_VALID) island true)).setFld .HBR_SNAP_CNT_COUNT island 0
    (s.count island))) ∧
  (∀ (fn : Nat) (w : Word) (s : State), exec (.warmReset fn w) s = .next (s.writeResetCtl fn w)) ∧
  (∀ (fn : Nat) (w : Word) (s : State), exec (.stackReset fn w) s = .next (s.writeResetCtl fn w)) ∧
  (∀ (stack : Nat) (s : State), stack < 8 → bit (s.fld .HBR_RESET_STAT_STACK_BUSY) stack = true → exec (.stackResetDone
    stack) s = .next ((((s.setFld .HBR_RESET_STAT_STACK_BUSY 0 0 (putBit (s.fld .HBR_RESET_STAT_STACK_BUSY) stack
    false)).setFld .MEM_STACK_STAT_STATE stack 0 1).straitUp (4 + stack)).straitUp (22 + stack))) ∧
  (∀ (mlCaps mlBad : List Nat) (s : State), s.ready = false → s.heldInReset = false → s.pins.tripped = false →
    s.bootRefused = false → s.trialRefused = false → (s.fw.trial = 0 ∨ s.inWindow 16 2000000000 = true) → exec
    (.bootReady mlCaps mlBad) s = .next (s.boots mlCaps mlBad)) ∧
  (∀ (mlCaps mlBad : List Nat) (s : State), s.ready = false → s.heldInReset = false → s.pins.tripped = false →
    s.bootRefused = false → (s.trialRefused = true ∨ (s.fw.trial ≠ 0 ∧ s.inWindow 16 2000000000 = false)) → exec
    (.bootReady mlCaps mlBad) s = .next s.trialFails) ∧
  (∀ (s : State), s.fld .HBR_STAT_STATE ≠ 1 → s.heldInReset = false → exec .readyTimeout s = .next
    { s.reachCount 16 3000000000 with pins := { (s.reachCount 16 3000000000).pins with readyLate := true } }) ∧
  (∀ (s : State), s.fw.trial ≠ 0 → s.ready = false → s.heldInReset = false → s.pins.tripped = false → exec .trialTimeout
    s = .next (s.reachCount 16 2000000000).trialFails) ∧
  (∀ (fn : Nat) (w : Word) (s : State), exec (.fwStage fn w) s = .next (s.writeFwCtl fn w)) ∧
  (∀ (fn : Nat) (w : Word) (s : State), exec (.fwCancel fn w) s = .next (s.writeFwCtl fn w)) ∧
  (∀ (ans a : Answer) (u v : State) (addr : Nat) (s : State), s.staging.head? = some 9 → s.stagingBusy = false → u =
    s.fwAsks → u.fwRange = (addr, 4096) → u.fw.head = [] → ans.status = .ok → ans.data.length = 4096 → u.hostReady 0
    addr 4096 ans = true → u.hostAnswer 0 addr 4096 ans = (v, a) → v.fw.head = [] → a.status = .ok → 4096 < fwLength
    a.data → fwLength a.data ≤ 67108864 → exec (.fwStageDone ans) s = .next
    ((({ v with fw := { v.fw with head := a.data } } : State).fwRestages a.data).hostRead 0 16 (addr + 4096) (fwLength
    a.data - 4096))) ∧
  (∀ (ans a : Answer) (u v : State) (addr n : Nat) (s : State), s.staging.head? = some 9 → s.stagingBusy = false → u =
    s.fwAsks → u.fwRange = (addr, n) → u.fw.head.isEmpty = false → u.hostReady 0 addr n ans = true → u.hostAnswer 0
    addr n ans = (v, a) → v.fw.head.isEmpty = false → a.status = .ok → exec (.fwStageDone ans) s = .next (v.fwRead
    { a with data := v.fw.head ++ a.data })) ∧
  (∀ (ans a : Answer) (u v : State) (addr n : Nat) (s : State), s.staging.head? = some 9 → s.stagingBusy = false → u =
    s.fwAsks → u.fwRange = (addr, n) → ans.status ≠ .ok → u.hostReady 0 addr n ans = true → u.hostAnswer 0 addr n ans
    = (v, a) → a.status ≠ .ok → exec (.fwStageDone ans) s = .next (v.fwRead a)) ∧
  (∀ (ans : Answer) (u : State) (addr : Nat) (s : State), s.staging.head? = some 9 → s.stagingBusy = false → u =
    s.fwAsks → u.fwRange = (addr, 4096) → u.fw.head = [] → ans.status = .ok → 4096 < ans.data.length → fwLength
    ans.data = ans.data.length → exec (.fwStageDone ans) s = .next ((u.hostAnswer 0 addr 4096 ans).1.fwRead ans)) ∧
  (∀ (badBlock : Bool) (s : State), s.jqueue ≠ [] → s.pins.tripped = false → s.heldInReset = false → exec
    (.journalCommit badBlock) s = .next (if badBlock then s.retireSegment else s).commitNext) ∧
  (∀ (fn : Nat) (w : Word) (s : State), exec (.journalCompact fn w) s = .next (s.writeJnlCtl fn w)) ∧
  (∀ (q : Nat) (s : State), s.jnl.begun = some q → s.pins.tripped = false → s.heldInReset = false → s.jqueue.any (fun r
    => decide (r.seq ≤ q)) = false → exec .journalCompactionDone s = .next (s.compacted q))

/-- O23 (R420, R421, R422, R423, R425; derived). SPDM requests taken in their order are answered. Each SPDM request of the
row, taken by the harbour (State.mctpTake answers t) when the package is READY and after the requests that come before
it in the exchange, is answered with the response named, as far as this row states it: version 1.3; capabilities; the
algorithms; the digest of the chain; a portion of the chain; the challenge and measurement responses with their nonce
and signature free values. A request of another version than 1.3, a slot other than 0 and an unsupported request are
answered with UnsupportedRequest. The message layouts are those of DSP0274 (log entry 27, the model's reading outside
the spec). -/
def Obligations.SpdmRequestsAnswered : Prop :=
  (∀ (bind : Nat) (req : List Byte) (t u : State) (s : State), isSpdm 0x84 (reqMsg req) = true → s.mctpTake bind req =
    some t → t.ready = true → u = { t with mctp := { t.mctp with spdm := storeSet 0 t.mctp.spdm bind (0 ||| 1) } } →
    exec (.getVersion bind req) s = .next (u.mctpSend bind (bytesAt req 0 1) false (bytesAt req 1 1 % 8) (spdmMsg 0x10
    4 0 0 (leBytes 1 0 ++ leBytes 1 1 ++ leBytes 2 0x1300)))) ∧
  (∀ (bind : Nat) (req : List Byte) (t u : State) (v : State) (x : List Byte) (s : State), isSpdm 0xE1 (reqMsg req) =
    true → s.mctpTake bind req = some t → t.ready = true → bytesAt (reqMsg req) 1 1 = 0x13 → storeGet 0 t.mctp.spdm
    bind &&& 1 = 1 → u =
    { t with mctp := { t.mctp with spdm := storeSet 0 t.mctp.spdm bind (storeGet 0 t.mctp.spdm bind ||| 2) } } →
    u.drawBytes 9 = (v, x) → exec (.getCapabilities bind req) s = .next (v.mctpSend bind (bytesAt req 0 1) false
    (bytesAt req 1 1 % 8) (spdmMsg 0x13 0x61 0 0 (leBytes 1 0 ++ x.take 1 ++ leBytes 2 0 ++ leBytes 4 0x16 ++ x.drop
    1)))) ∧
  (∀ (bind : Nat) (req : List Byte) (t u : State) (s : State), isSpdm 0xE3 (reqMsg req) = true → s.mctpTake bind req =
    some t → t.ready = true → bytesAt (reqMsg req) 1 1 = 0x13 → storeGet 0 t.mctp.spdm bind &&& 3 = 3 → u =
    { t with mctp := { t.mctp with spdm := storeSet 0 t.mctp.spdm bind (storeGet 0 t.mctp.spdm bind ||| 4) } } → exec
    (.negotiateAlgorithms bind req) s = .next (u.mctpSend bind (bytesAt req 0 1) false (bytesAt req 1 1 % 8) (spdmMsg
    0x13 0x63 0 0 (leBytes 2 36 ++ leBytes 1 (bytesAt (reqMsg req) 7 1 % 2) ++ leBytes 1 0 ++ leBytes 4 1 ++ leBytes 4
    (bytesAt (reqMsg req) 9 4 &&& 0x800) ++ leBytes 4 (bytesAt (reqMsg req) 13 4 &&& 0x20) ++ leBytes 16 0)))) ∧
  (∀ (bind : Nat) (req : List Byte) (t : State) (s : State), isSpdm 0x81 (reqMsg req) = true → s.mctpTake bind req =
    some t → t.ready = true → bytesAt (reqMsg req) 1 1 = 0x13 → storeGet 0 t.mctp.spdm bind &&& 7 = 7 → exec
    (.getDigests bind req) s = .next (t.mctpSend bind (bytesAt req 0 1) false (bytesAt req 1 1 % 8) (spdmMsg 0x13 1 1
    1 chainDigest))) ∧
  (∀ (bind : Nat) (req : List Byte) (t : State) (off : Nat) (part : List Byte) (s : State), isSpdm 0x82 (reqMsg req) =
    true → s.mctpTake bind req = some t → t.ready = true → bytesAt (reqMsg req) 1 1 = 0x13 → storeGet 0 t.mctp.spdm
    bind &&& 7 = 7 → bytesAt (reqMsg req) 3 1 % 16 = 0 → bytesAt (reqMsg req) 5 2 = off → part = (spdmChain.drop
    off).take (bytesAt (reqMsg req) 7 2) → exec (.getCertificate bind req) s = .next (t.mctpSend bind (bytesAt req 0
    1) false (bytesAt req 1 1 % 8) (if spdmChain.length ≤ off then spdmError 1 0 else spdmMsg 0x13 2 0 0 (leBytes 2
    part.length ++ leBytes 2 (spdmChain.length - off - part.length) ++ part)))) ∧
  (∀ (bind : Nat) (req : List Byte) (t : State) (s : State), isSpdm 0x82 (reqMsg req) = true → s.mctpTake bind req =
    some t → t.ready = true → bytesAt (reqMsg req) 1 1 = 0x13 → storeGet 0 t.mctp.spdm bind &&& 7 = 7 → bytesAt
    (reqMsg req) 3 1 % 16 ≠ 0 → exec (.getCertificate bind req) s = .next (t.mctpSend bind (bytesAt req 0 1) false
    (bytesAt req 1 1 % 8) (spdmError 7 0x82))) ∧
  (∀ (bind : Nat) (req : List Byte) (t : State) (u v w : State) (nonce tcb sig : List Byte) (s : State), isSpdm 0x83
    (reqMsg req) = true → s.mctpTake bind req = some t → t.ready = true → bytesAt (reqMsg req) 1 1 = 0x13 → storeGet 0
    t.mctp.spdm bind &&& 7 = 7 → bytesAt (reqMsg req) 3 1 % 16 = 0 → t.drawBytes 32 = (u, nonce) → u.drawBytes (if
    bytesAt (reqMsg req) 4 1 = 1 then 64 else 0) = (v, tcb) → v.drawBytes 114 = (w, sig) → exec (.challenge bind req)
    s = .next (w.mctpSend bind (bytesAt req 0 1) false (bytesAt req 1 1 % 8) (spdmMsg 0x13 3 0 1 (chainDigest ++ nonce
    ++ (if bytesAt (reqMsg req) 4 1 = 0xFF then sha3of512 (measIndices.flatMap v.measBlock) else tcb) ++ leBytes 2 0
    ++ ((reqMsg req).drop 37).take 8 ++ sig)))) ∧
  (∀ (bind : Nat) (req : List Byte) (t : State) (u v : State) (k : Nat) (nonce sig : List Byte) (s : State), isSpdm 0xE0
    (reqMsg req) = true → s.mctpTake bind req = some t → t.ready = true → bytesAt (reqMsg req) 1 1 = 0x13 → storeGet 0
    t.mctp.spdm bind &&& 7 = 7 → bytesAt (reqMsg req) 4 1 = k → k ≠ 0 → k ≠ 0xFF → k ≠ 0xFD → measIndices.contains k =
    true → bit (bytesAt (reqMsg req) 3 1) 0 = true → bytesAt (reqMsg req) 37 1 % 16 = 0 → t.drawBytes 32 = (u, nonce)
    → u.drawBytes 114 = (v, sig) → exec (.getMeasurements bind req) s = .next (v.mctpSend bind (bytesAt req 0 1) false
    (bytesAt req 1 1 % 8) (spdmMsg 0x13 0x60 0 0 (leBytes 1 1 ++ leBytes 3 (t.measBlock k).length ++ t.measBlock k ++
    nonce ++ leBytes 2 0 ++ ((reqMsg req).drop 38).take 8 ++ sig)))) ∧
  (∀ (bind : Nat) (req : List Byte) (t : State) (u v : State) (nonce sig : List Byte) (s : State), isSpdm 0xE0 (reqMsg
    req) = true → s.mctpTake bind req = some t → t.ready = true → bytesAt (reqMsg req) 1 1 = 0x13 → storeGet 0
    t.mctp.spdm bind &&& 7 = 7 → bytesAt (reqMsg req) 4 1 = 0 → bit (bytesAt (reqMsg req) 3 1) 0 = false → t.drawBytes
    32 = (u, nonce) → u.drawBytes 0 = (v, sig) → exec (.getMeasurements bind req) s = .next (v.mctpSend bind (bytesAt
    req 0 1) false (bytesAt req 1 1 % 8) (spdmMsg 0x13 0x60 measIndices.length 0 (leBytes 1 0 ++ leBytes 3 0 ++ nonce
    ++ leBytes 2 0 ++ ((reqMsg req).drop 5).take 8 ++ sig)))) ∧
  (∀ (bind : Nat) (req : List Byte) (t : State) (u v : State) (nonce sig : List Byte) (s : State), isSpdm 0xE0 (reqMsg
    req) = true → s.mctpTake bind req = some t → t.ready = true → bytesAt (reqMsg req) 1 1 = 0x13 → storeGet 0
    t.mctp.spdm bind &&& 7 = 7 → bytesAt (reqMsg req) 4 1 = 0xFF → bit (bytesAt (reqMsg req) 3 1) 0 = false →
    t.drawBytes 32 = (u, nonce) → u.drawBytes 0 = (v, sig) → exec (.getMeasurements bind req) s = .next (v.mctpSend
    bind (bytesAt req 0 1) false (bytesAt req 1 1 % 8) (spdmMsg 0x13 0x60 0 0 (leBytes 1 measIndices.length ++ leBytes
    3 (measIndices.flatMap t.measBlock).length ++ measIndices.flatMap t.measBlock ++ nonce ++ leBytes 2 0 ++ ((reqMsg
    req).drop 5).take 8 ++ sig)))) ∧
  (∀ (bind : Nat) (req : List Byte) (t : State) (s : State), isSpdm 0xE1 (reqMsg req) = true → s.mctpTake bind req =
    some t → t.ready = true → bytesAt (reqMsg req) 1 1 ≠ 0x13 → exec (.getCapabilities bind req) s = .next (t.mctpSend
    bind (bytesAt req 0 1) false (bytesAt req 1 1 % 8) (spdmError 7 0xE1))) ∧
  (∀ (bind : Nat) (req : List Byte) (t : State) (s : State), isSpdm 0xE3 (reqMsg req) = true → s.mctpTake bind req =
    some t → t.ready = true → bytesAt (reqMsg req) 1 1 ≠ 0x13 → exec (.negotiateAlgorithms bind req) s = .next
    (t.mctpSend bind (bytesAt req 0 1) false (bytesAt req 1 1 % 8) (spdmError 7 0xE3))) ∧
  (∀ (bind : Nat) (req : List Byte) (t : State) (s : State), isSpdm 0x81 (reqMsg req) = true → s.mctpTake bind req =
    some t → t.ready = true → bytesAt (reqMsg req) 1 1 ≠ 0x13 → exec (.getDigests bind req) s = .next (t.mctpSend bind
    (bytesAt req 0 1) false (bytesAt req 1 1 % 8) (spdmError 7 0x81))) ∧
  (∀ (bind : Nat) (req : List Byte) (t : State) (s : State), isSpdm 0x82 (reqMsg req) = true → s.mctpTake bind req =
    some t → t.ready = true → bytesAt (reqMsg req) 1 1 ≠ 0x13 → exec (.getCertificate bind req) s = .next (t.mctpSend
    bind (bytesAt req 0 1) false (bytesAt req 1 1 % 8) (spdmError 7 0x82))) ∧
  (∀ (bind : Nat) (req : List Byte) (t : State) (s : State), isSpdm 0x83 (reqMsg req) = true → s.mctpTake bind req =
    some t → t.ready = true → bytesAt (reqMsg req) 1 1 ≠ 0x13 → exec (.challenge bind req) s = .next (t.mctpSend bind
    (bytesAt req 0 1) false (bytesAt req 1 1 % 8) (spdmError 7 0x83))) ∧
  (∀ (bind : Nat) (req : List Byte) (t : State) (s : State), isSpdm 0xE0 (reqMsg req) = true → s.mctpTake bind req =
    some t → t.ready = true → bytesAt (reqMsg req) 1 1 ≠ 0x13 → exec (.getMeasurements bind req) s = .next (t.mctpSend
    bind (bytesAt req 0 1) false (bytesAt req 1 1 % 8) (spdmError 7 0xE0))) ∧
  (∀ (bind : Nat) (req : List Byte) (t : State) (s : State), bytesAt (reqMsg req) 0 1 % 128 = 5 → bit (bytesAt (reqMsg
    req) 2 1) 7 = true → spdmCodes.contains (bytesAt (reqMsg req) 2 1) = false → s.mctpTake bind req = some t →
    t.ready = true → exec (.spdmUnsupported bind req) s = .next (t.mctpSend bind (bytesAt req 0 1) false (bytesAt req
    1 1 % 8) (spdmError 7 (bytesAt (reqMsg req) 2 1))))

/-- O24 (R461, R462; derived). MCTP control and PLDM requests are answered; the mailbox is written. Each MCTP control
request and each PLDM request of the row, taken by the harbour (State.mctpTake answers t; PLDM once READY), is
answered with the response named; what the spec leaves open in a response is a free value. A PLDM firmware update
stages its component, after its request in the mailbox, if any, is answered; an unsupported PLDM request, READY or
not, and before READY one of type 5, gets the completion code named. A write of HBR_MCTP_CTL acts as its fields say.
The layouts are those of DSP0236, DSP0240, DSP0248 and DSP0267 (log entry 27, the model's reading outside the spec). -/
def Obligations.ControlAndPldmRequestsAnswered : Prop :=
  (∀ (bind : Nat) (req : List Byte) (t : State) (u : State) (s : State), isControl 1 (reqMsg req) = true → s.mctpTake
    bind req = some t → bytesAt (reqMsg req) 3 1 % 4 ≤ 1 → bytesAt (reqMsg req) 4 1 ≠ 0 → bytesAt (reqMsg req) 4 1 ≠
    0xFF → u =
    { t with mctp := { t.mctp with eids := storeSet 0 t.mctp.eids bind (bytesAt (reqMsg req) 4 1), owners := storeSet 0 t.mctp.owners bind (bytesAt req 0 1) } }
    → exec (.setEndpointId bind req) s = .next (u.mctpSend bind (bytesAt req 0 1) false (bytesAt req 1 1 % 8)
    (controlRsp (reqMsg req) 0 (leBytes 1 0 ++ leBytes 1 (storeGet 0 u.mctp.eids bind) ++ leBytes 1 0)))) ∧
  (∀ (bind : Nat) (req : List Byte) (t : State) (s : State), isControl 1 (reqMsg req) = true → s.mctpTake bind req =
    some t → bytesAt (reqMsg req) 3 1 % 4 ≤ 1 → (bytesAt (reqMsg req) 4 1 = 0 ∨ bytesAt (reqMsg req) 4 1 = 0xFF) →
    exec (.setEndpointId bind req) s = .next (t.mctpSend bind (bytesAt req 0 1) false (bytesAt req 1 1 % 8)
    (controlRsp (reqMsg req) 2 []))) ∧
  (∀ (bind : Nat) (req : List Byte) (t : State) (s : State), isControl 2 (reqMsg req) = true → s.mctpTake bind req =
    some t → exec (.getEndpointId bind req) s = .next (t.mctpSend bind (bytesAt req 0 1) false (bytesAt req 1 1 % 8)
    (controlRsp (reqMsg req) 0 (leBytes 1 (storeGet 0 t.mctp.eids bind) ++ leBytes 1 0 ++ leBytes 1 0)))) ∧
  (∀ (bind : Nat) (req : List Byte) (t : State) (s : State), isControl 4 (reqMsg req) = true → s.mctpTake bind req =
    some t → (bytesAt (reqMsg req) 3 1 = 0xFF ∨ bytesAt (reqMsg req) 3 1 = 0) → exec (.getMctpVersionSupport bind req)
    s = .next (t.mctpSend bind (bytesAt req 0 1) false (bytesAt req 1 1 % 8) (controlRsp (reqMsg req) 0 (leBytes 1 1
    ++ leBytes 1 0xF1 ++ leBytes 1 0xF3 ++ leBytes 1 0xF0 ++ leBytes 1 0)))) ∧
  (∀ (bind : Nat) (req : List Byte) (t : State) (s : State), isControl 4 (reqMsg req) = true → s.mctpTake bind req =
    some t → (bytesAt (reqMsg req) 3 1 = 1 ∨ bytesAt (reqMsg req) 3 1 = 5) → exec (.getMctpVersionSupport bind req) s
    = .next (t.mctpSend bind (bytesAt req 0 1) false (bytesAt req 1 1 % 8) (controlRsp (reqMsg req) 0 (leBytes 1 1 ++
    leBytes 1 0xF1 ++ leBytes 1 0xF0 ++ leBytes 1 0xF0 ++ leBytes 1 0)))) ∧
  (∀ (bind : Nat) (req : List Byte) (t : State) (s : State), isControl 5 (reqMsg req) = true → s.mctpTake bind req =
    some t → exec (.getMessageTypeSupport bind req) s = .next (t.mctpSend bind (bytesAt req 0 1) false (bytesAt req 1
    1 % 8) (controlRsp (reqMsg req) 0 (leBytes 1 3 ++ leBytes 1 0 ++ leBytes 1 1 ++ leBytes 1 5)))) ∧
  (∀ (bind : Nat) (req : List Byte) (t : State) (s : State), isPldm 0 2 (reqMsg req) = true → s.mctpTake bind req = some
    t → t.ready = true → exec (.getTid bind req) s = .next (t.mctpSend bind (bytesAt req 0 1) false (bytesAt req 1 1 %
    8) (pldmRsp (reqMsg req) 0 (leBytes 1 t.mctp.tid)))) ∧
  (∀ (bind : Nat) (req : List Byte) (t : State) (k : Nat) (u : State) (s : State), isPldm 0 1 (reqMsg req) = true →
    s.mctpTake bind req = some t → t.ready = true → pldmArg (reqMsg req) 0 1 = k → k ≠ 0 → k ≠ 0xFF → u =
    { t with mctp := { t.mctp with tid := k } } → exec (.setTid bind req) s = .next (u.mctpSend bind (bytesAt req 0 1)
    false (bytesAt req 1 1 % 8) (pldmRsp (reqMsg req) 0 []))) ∧
  (∀ (bind : Nat) (req : List Byte) (t : State) (s : State), isPldm 0 1 (reqMsg req) = true → s.mctpTake bind req = some
    t → t.ready = true → pldmArg (reqMsg req) 0 1 = 0xFF → exec (.setTid bind req) s = .next (t.mctpSend bind (bytesAt
    req 0 1) false (bytesAt req 1 1 % 8) (pldmRsp (reqMsg req) 2 []))) ∧
  (∀ (bind : Nat) (req : List Byte) (t : State) (u : State) (v : List Byte) (s : State), isPldm 0 3 (reqMsg req) = true
    → s.mctpTake bind req = some t → t.ready = true → pldmTypes.contains (pldmArg (reqMsg req) 5 1) = true →
    t.drawBytes 4 = (u, v) → exec (.getPldmVersion bind req) s = .next (u.mctpSend bind (bytesAt req 0 1) false
    (bytesAt req 1 1 % 8) (pldmRsp (reqMsg req) 0 (leBytes 4 0 ++ leBytes 1 5 ++ v ++ leBytes 4 (crc32 v))))) ∧
  (∀ (bind : Nat) (req : List Byte) (t : State) (s : State), isPldm 0 3 (reqMsg req) = true → s.mctpTake bind req = some
    t → t.ready = true → pldmTypes.contains (pldmArg (reqMsg req) 5 1) = false → exec (.getPldmVersion bind req) s =
    .next (t.mctpSend bind (bytesAt req 0 1) false (bytesAt req 1 1 % 8) (pldmRsp (reqMsg req) 0x83 []))) ∧
  (∀ (bind : Nat) (req : List Byte) (t : State) (s : State), isPldm 0 4 (reqMsg req) = true → s.mctpTake bind req = some
    t → t.ready = true → exec (.getPldmTypes bind req) s = .next (t.mctpSend bind (bytesAt req 0 1) false (bytesAt req
    1 1 % 8) (pldmRsp (reqMsg req) 0 (leBytes 8 (maskOf pldmTypes))))) ∧
  (∀ (bind : Nat) (req : List Byte) (t : State) (k : Nat) (s : State), isPldm 0 5 (reqMsg req) = true → s.mctpTake bind
    req = some t → t.ready = true → pldmArg (reqMsg req) 0 1 = k → (k = 0 ∨ k = 2) → exec (.getPldmCommands bind req)
    s = .next (t.mctpSend bind (bytesAt req 0 1) false (bytesAt req 1 1 % 8) (pldmRsp (reqMsg req) 0 (leBytes 32
    (maskOf (pldmCommands k)))))) ∧
  (∀ (bind : Nat) (req : List Byte) (t : State) (s : State), isPldm 0 5 (reqMsg req) = true → s.mctpTake bind req = some
    t → t.ready = true → pldmArg (reqMsg req) 0 1 = 5 → exec (.getPldmCommands bind req) s = .next (t.mctpSend bind
    (bytesAt req 0 1) false (bytesAt req 1 1 % 8) (pldmRsp (reqMsg req) 0 (leBytes 32 (maskOf pldmUpdateCommands))))) ∧
  (∀ (bind : Nat) (req : List Byte) (t : State) (u v : State) (x z : List Byte) (s : State), isPldm 2 0x50 (reqMsg req)
    = true → s.mctpTake bind req = some t → t.ready = true → t.drawBytes 26 = (u, x) → u.drawBytes 9 = (v, z) → exec
    (.getPdrRepositoryInfo bind req) s = .next (v.mctpSend bind (bytesAt req 0 1) false (bytesAt req 1 1 % 8) (pldmRsp
    (reqMsg req) 0 (leBytes 1 0 ++ x ++ leBytes 4 (numericSensors + stateSensors) ++ z)))) ∧
  (∀ (bind : Nat) (req : List Byte) (t : State) (s : State), isPldm 2 0x51 (reqMsg req) = true → s.mctpTake bind req =
    some t → t.ready = true → numericSensors + stateSensors < max 1 (pldmArg (reqMsg req) 0 4) → exec (.getPdr bind
    req) s = .next (t.mctpSend bind (bytesAt req 0 1) false (bytesAt req 1 1 % 8) (pldmRsp (reqMsg req) 0x82 []))) ∧
  (∀ (bind : Nat) (req : List Byte) (t : State) (h : Nat) (u : State) (tail body rec0 : List Byte) (s : State), isPldm 2
    0x51 (reqMsg req) = true → s.mctpTake bind req = some t → t.ready = true → h = max 1 (pldmArg (reqMsg req) 0 4) →
    h ≤ numericSensors + stateSensors → t.drawn.drawBytes (t.free % 64) = (u, tail) → body = leBytes 2 0 ++ leBytes 2
    h ++ tail → rec0 = leBytes 4 h ++ leBytes 1 1 ++ leBytes 1 (if h ≤ numericSensors then 2 else 4) ++ leBytes 2 0 ++
    leBytes 2 body.length ++ body → exec (.getPdr bind req) s = .next (u.mctpSend bind (bytesAt req 0 1) false
    (bytesAt req 1 1 % 8) (pldmRsp (reqMsg req) 0 (leBytes 4 (if h = numericSensors + stateSensors then 0 else h + 1)
    ++ leBytes 4 0 ++ leBytes 1 5 ++ leBytes 2 rec0.length ++ rec0)))) ∧
  (∀ (bind : Nat) (req : List Byte) (t : State) (u : State) (v : Nat) (s : State), isPldm 2 0x11 (reqMsg req) = true →
    s.mctpTake bind req = some t → t.ready = true → 0 < pldmArg (reqMsg req) 0 2 → pldmArg (reqMsg req) 0 2 ≤
    numericSensors → t.numericReading (pldmArg (reqMsg req) 0 2) = (u, v) → exec (.getSensorReading bind req) s =
    .next (u.mctpSend bind (bytesAt req 0 1) false (bytesAt req 1 1 % 8) (pldmRsp (reqMsg req) 0 (leBytes 1 2 ++
    leBytes 1 0 ++ leBytes 1 0 ++ leBytes 1 1 ++ leBytes 1 1 ++ leBytes 1 1 ++ leBytes 2 v)))) ∧
  (∀ (bind : Nat) (req : List Byte) (t : State) (s : State), isPldm 2 0x11 (reqMsg req) = true → s.mctpTake bind req =
    some t → t.ready = true → numericSensors < pldmArg (reqMsg req) 0 2 → exec (.getSensorReading bind req) s = .next
    (t.mctpSend bind (bytesAt req 0 1) false (bytesAt req 1 1 % 8) (pldmRsp (reqMsg req) 0x80 []))) ∧
  (∀ (bind : Nat) (req : List Byte) (t : State) (u : State) (x : List Byte) (s : State), isPldm 2 0x21 (reqMsg req) =
    true → s.mctpTake bind req = some t → t.ready = true → numericSensors < pldmArg (reqMsg req) 0 2 → pldmArg (reqMsg
    req) 0 2 ≤ numericSensors + stateSensors → t.drawBytes 1 = (u, x) → exec (.getStateSensorReadings bind req) s =
    .next (u.mctpSend bind (bytesAt req 0 1) false (bytesAt req 1 1 % 8) (pldmRsp (reqMsg req) 0 (leBytes 1 1 ++
    leBytes 1 0 ++ leBytes 1 (u.stateReading (pldmArg (reqMsg req) 0 2)) ++ x ++ leBytes 1 (u.stateReading (pldmArg
    (reqMsg req) 0 2)))))) ∧
  (∀ (bind src : Nat) (s : State), s.ready = true → (bind = 1 ∨ (bind = 0 ∧ s.mctp.i3c.isSome = true)) → (bind = 0 ∨
    s.updateRequest = none) → exec (.pldmFirmwareUpdate bind src) s = .next (s.stageFw (src / 4096 * 4096))) ∧
  (∀ (src : Nat) (req : List Byte) (s : State), s.ready = true → s.updateRequest = some req → exec (.pldmFirmwareUpdate
    1 src) s = .next (if bytesAt (reqMsg req) 3 1 = 0x14 then (s.updateAnswer req).stageFw (src / 4096 * 4096) else
    s.updateAnswer req)) ∧
  (∀ (bind : Nat) (req : List Byte) (t : State) (s : State), isPldmReq (reqMsg req) = true → pldmSupported (reqMsg req)
    = false → s.mctpTake bind req = some t → t.ready = true → exec (.pldmUnsupported bind req) s = .next (t.mctpSend
    bind (bytesAt req 0 1) false (bytesAt req 1 1 % 8) (pldmRsp (reqMsg req) 5 []))) ∧
  (∀ (bind : Nat) (req : List Byte) (t : State) (s : State), isPldmReq (reqMsg req) = true → (pldmSupported (reqMsg req)
    = false ∨ bytesAt (reqMsg req) 2 1 % 64 = 5) → s.mctpTake bind req = some t → s.ready = false → t.ready = false →
    exec (.pldmUnsupported bind req) s = .next (t.mctpSend bind (bytesAt req 0 1) false (bytesAt req 1 1 % 8) (pldmRsp
    (reqMsg req) 4 []))) ∧
  (∀ (fn : Nat) (w : Word) (s : State), exec (.mctpInGo fn w) s = .next (s.writeMctpCtl fn w)) ∧
  (∀ (fn : Nat) (w : Word) (s : State), exec (.mctpOutAck fn w) s = .next (s.writeMctpCtl fn w))

/-- O25 (R472, R473, R474, R475, R478, R479; derived). I3C addressing, JTAG instructions, reset pins and power act as
their rules say. ENTDAA and SETDASA give the device a dynamic address once; each JTAG instruction is loaded; RESET_N,
PWR_GOOD_N and TEST_EN start and end the cold reset they stand for; a REFCLK fault with PWR_GOOD_N high changes
nothing, since the package is held in cold reset; loss of power clears everything but what POWER_LOSS keeps and leaves
the pins at their pulls and the JTAG port reset (the pulls and the reset of the JTAG port are the model's choice, log
entries 54 and 7, PRESUMED). That EXTEST captures what the lands are driven to is log entry 7 too. -/
def Obligations.PinCommandsComplete : Prop :=
  (∀ (addr : Nat) (s : State), s.heldInReset = false → s.mctp.i3c = none → addr < 128 → exec (.entdaa addr) s = .next
    { s with mctp := { s.mctp with i3c := some addr } }) ∧
  (∀ (static addr : Nat) (s : State), s.heldInReset = false → s.mctp.i3c = none → addr < 128 → static = 0x48 +
    s.mctp.i3cStrap % 4 → exec (.setdasa static addr) s = .next { s with mctp := { s.mctp with i3c := some addr } }) ∧
  (∀ (s : State), exec .extest s = .next (s.jtagExtest .extest)) ∧
  (∀ (s : State), exec .extestPulse s = .next (s.jtagExtest .extestPulse)) ∧
  (∀ (s : State), exec .extestTrain s = .next (s.jtagExtest .extestTrain)) ∧
  (∀ (s : State), exec .bypass s = .next (s.jtagLoad .bypass)) ∧
  (∀ (s : State), exec .idcode s = .next (s.jtagLoad .idcode)) ∧
  (∀ (s : State), exec .clamp s = .next (s.jtagLoad .clamp)) ∧
  (∀ (s : State), exec .highz s = .next (s.jtagLoad .highz)) ∧
  (∀ (preload : Option (List Bool)) (captured : List Bool) (s : State), exec (.samplePreload preload captured) s = .next
    { s with jtag := { op := .samplePreload, cells := preload.getD s.jtag.cells, captured := captured } }) ∧
  (∀ (s : State), s.pins.resetN = true → exec .resetNAssert s = .next (s.coldAssert { s.pins with resetN := false })) ∧
  (∀ (s : State), s.pins.resetN = false → exec .resetNRelease s = .next (s.coldRelease { s.pins with resetN := true }
    0)) ∧
  (∀ (s : State), s.pins.pwrGoodN = false → exec .pwrGoodNAssert s = .next (s.coldAssert
    { s.pins with pwrGoodN := true })) ∧
  (∀ (s : State), s.pins.pwrGoodN = true → exec .pwrGoodNRelease s = .next (s.coldRelease
    { s.pins with pwrGoodN := false } 1)) ∧
  (∀ (s : State), s.pins.testEn = false → exec .testEnAssert s = .next (s.coldAssert { s.pins with testEn := true })) ∧
  (∀ (s : State), s.pins.testEn = true → exec .testEnRelease s = .next (s.coldRelease { s.pins with testEn := false }
    5)) ∧
  (∀ (s : State), s.pins.pwrGoodN = true → exec .refclkFault s = .next s) ∧
  (∀ (s : State), exec .powerLoss s = .next { s.resetBase false with pins := {}, jtag := {} })

/-- O26 (opcode_table.json; derived). A step runs the command at the front of the queue. Where a command c waits at the
front, the step is exec of c on the state with the rest of the queue (the row is modelled as a block: its step takes
the command at the front). -/
def Obligations.StepRunsTheFrontCommand : Prop :=
  ∀ (c : Instr) (rest : List Instr) (s : State), s.pending = c :: rest →
    Machine.step s = exec c { s with pending := rest }

/-- O27 (R21, R443, R450, R478, R484; derived). With no command waiting the block idles one tick. The model's choice (log
entries 2, 52 and 54): with an empty queue the step lets every island that runs count on, which changes nothing but
the island counters and the number of ticks; the I3C controller that the in-band interrupt has called reads the first
packet that waits for it (packets of other bindings stay as they are); and a boot under way (not READY, not held in
reset, no trip, its images not refused) comes to its step 9, which puts the Jumel ports in training. -/
def Obligations.EmptyQueueIdles : Prop :=
  ∀ (s : State), s.pending = [] →
    Machine.step s = .next s.idles ∧ { s.idleTick with counts := s.counts, ticks := s.ticks } = s ∧
    s.idles = (if s.ready = true ∨ s.heldInReset = true ∨ s.pins.tripped = true ∨ s.trialRefused = true ∨ s.bootRefused = true
        then s.idleTick.i3cReads
      else s.idleTick.i3cReads.bootPorts) ∧
    s.idleTick.i3cReads = (if s.ibi = none then s.idleTick
      else { s.idleTick with mctpOut := s.mctpOut.eraseP (fun e => e.1 == 0) })

/-- O28 (opcode_table.json; derived). No word spells a command. The command table gives no row any bits: every word
decodes to no command (opcode_table.json). That a state given such a word is then unchanged (withFetchWord is the
identity) is the model's choice (log entry 10). -/
def Obligations.NoWordSpellsACommand : Prop :=
  ∀ (n w : Nat) (s : State), Sys2Proof.decodeTableWord n w = none ∧ s.withFetchWord n w = s

/-- O29 (R15, R443, R447, R450; derived). The state after reset is sound. State.reset has memory and register file in
canonical form with no reserved bit set and no fixed register listed; every register reads its reset value, every
island counter 0, HBR_STAT BOOTING, the package is held in reset, no function is enabled, no command waits. (That
State.reset is the package held in reset with an empty queue is the model's choice, log entry 10. The byte 0 of memory
that nothing has written is the model's choice for board memory, log entry 6; it is not stated here.) -/
def Obligations.ResetIsSound : Prop :=
  Sound State.reset ∧ State.reset.pending = [] ∧ State.reset.heldInReset = true ∧
    (∀ r a b, State.reset.reg r a b = resetWord State.reset.pkg r a b) ∧ (∀ i, State.reset.count i = 0) ∧
    State.reset.fld .HBR_STAT_STATE = 0 ∧ (∀ fn, isFn fn = true → State.reset.fld .SEC_GRANT_CTL_ENABLE fn = 0)

/-- O30 (R14, R16, 95_what_each_step_holds.md; derived). Every step keeps memory and registers in their form. For every
sound state, also one no run reaches: where the step goes on, the new state is sound: memory addresses strictly rise
and none lists what an unlisted byte reads as, no register is listed twice, no register word has a reserved bit set
(R16), no fixed identification register is ever listed. The package is the same, and the queue is the old one without
its front. -/
def Obligations.EveryStepKeepsTheStateSound : Prop :=
  ∀ (s t : State), Sound s → Machine.step s = .next t → Sound t ∧ t.pkg = s.pkg ∧ t.pending = s.pending.tail

/-- O31 (R16; stated). Reserved fields read as zero. In every sound state (the form every step keeps, and reset has) a
read of any offset of any function's window has no bit set outside the fields that the table of the register there
gives it, whether the read shows the register's own word or one that the state makes up (MEM_CAP, MEM_POOL,
RED_CTX_MAP, OPT_SHARD_STAT, JL_ROUTE, SEC_DEV_STAT, MX_BUSY and the others); an offset with no register reads as
zero; and no register itself has a bit set outside its fields. (That software must write zero to reserved fields binds
software.) -/
def Obligations.ReservedFieldsReadZero : Prop :=
  ∀ (s : State), Sound s → (∀ fn off : Nat,
      (regAt off = none → s.readRegister fn off = 0) ∧
      (∀ (r : Reg) (a b i : Nat), regAt off = some (r, a, b) → (s.readRegister fn off).toNat.testBit i = true →
        ∃ f ∈ r.fields, f.lo ≤ i ∧ i ≤ f.hi)) ∧
    (∀ (r : Reg) (a b i : Nat), (s.reg r a b).toNat.testBit i = true → ∃ f ∈ r.fields, f.lo ≤ i ∧ i ≤ f.hi)

/-- O32 (R7, R9, R25, R26, R80, R256, R428; derived). Identification registers keep their values. In every sound state
PKG_IDENT, PKG_CAP, PKG_PORTS, STR_COUNT, STR_DESC, ISL_IDENT, REEF_CAUSE, SEC_FN_ID and SEC_DEV_ID read, in every
window that shows them, what they read at reset for the package (SEC_FN_ID the number of the function whose window it
is), and as zero in a window that does not; no software write of one of them changes any register. -/
def Obligations.IdentityRegistersHold : Prop :=
  ∀ (s : State), Sound s → (∀ (fn off : Nat) (r : Reg) (a b : Nat), regAt off = some (r, a, b) → fixedReg r = true →
      s.readRegister fn off = if s.shows fn r (ownIndex r fn a) b = true then resetWord s.pkg r (ownIndex r fn a) b else 0) ∧
    ∀ (r : Reg) (a b : Nat) (w : Word), fixedReg r = true →
      s.reg r a b = resetWord s.pkg r a b ∧ ∀ (q : Reg) (x y : Nat), (s.writeReg r a b w).reg q x y = s.reg q x y

/-- O33 (01_islands_and_straits.md; derived). What commands of chapter 01_islands_and_straits leave unchanged. For every
command of chapter 01_islands_and_straits and every sound state: where exec goes on, every portion of the state that
the table touches does not list for the command is as before: every byte of memory reads as before unless memory is
listed, every register of a block reads as before unless its block is listed, and so for islets, function state,
optimisers, queues, jobs, reef units, ports and their egress queues, lead token, gate actions, governor, strait lanes,
pins, JTAG port, MCTP and I3C state, journal store, armed events, watchdogs, island counters and ticks. (What is in no
portion is not promised: host reads, packets and launches in flight, held accesses, errors and repairs of memory,
firmware slots.) A write through a window lists what a write of the register at the offset may change. -/
def Obligations.StraitsCommandsFrame : Prop :=
  ∀ (c : Instr) (s t : State), chapter c = .straits → Sound s → exec c s = .next t →
    ∀ x : Portion, (touches c).contains x = false → same x s t

/-- O34 (02_fabric_image.md; derived). What commands of chapter 02_fabric_image leave unchanged. For every command of
chapter 02_fabric_image and every sound state: where exec goes on, every portion of the state that the table touches
does not list for the command is as before: every byte of memory reads as before unless memory is listed, every
register of a block reads as before unless its block is listed, and so for islets, function state, optimisers, queues,
jobs, reef units, ports and their egress queues, lead token, gate actions, governor, strait lanes, pins, JTAG port,
MCTP and I3C state, journal store, armed events, watchdogs, island counters and ticks. (What is in no portion is not
promised: host reads, packets and launches in flight, held accesses, errors and repairs of memory, firmware slots.) A
write through a window lists what a write of the register at the offset may change. -/
def Obligations.ImageCommandsFrame : Prop :=
  ∀ (c : Instr) (s t : State), chapter c = .image → Sound s → exec c s = .next t →
    ∀ x : Portion, (touches c).contains x = false → same x s t

/-- O35 (03_islets_and_atolls.md; derived). What commands of chapter 03_islets_and_atolls leave unchanged. For every
command of chapter 03_islets_and_atolls and every sound state: where exec goes on, every portion of the state that the
table touches does not list for the command is as before: every byte of memory reads as before unless memory is
listed, every register of a block reads as before unless its block is listed, and so for islets, function state,
optimisers, queues, jobs, reef units, ports and their egress queues, lead token, gate actions, governor, strait lanes,
pins, JTAG port, MCTP and I3C state, journal store, armed events, watchdogs, island counters and ticks. (What is in no
portion is not promised: host reads, packets and launches in flight, held accesses, errors and repairs of memory,
firmware slots.) A write through a window lists what a write of the register at the offset may change. -/
def Obligations.IsletCommandsFrame : Prop :=
  ∀ (c : Instr) (s t : State), chapter c = .islet → Sound s → exec c s = .next t →
    ∀ x : Portion, (touches c).contains x = false → same x s t

/-- O36 (04_matrix_array.md; derived). What commands of chapter 04_matrix_array leave unchanged. For every command of
chapter 04_matrix_array and every sound state: where exec goes on, every portion of the state that the table touches
does not list for the command is as before: every byte of memory reads as before unless memory is listed, every
register of a block reads as before unless its block is listed, and so for islets, function state, optimisers, queues,
jobs, reef units, ports and their egress queues, lead token, gate actions, governor, strait lanes, pins, JTAG port,
MCTP and I3C state, journal store, armed events, watchdogs, island counters and ticks. (What is in no portion is not
promised: host reads, packets and launches in flight, held accesses, errors and repairs of memory, firmware slots.) A
write through a window lists what a write of the register at the offset may change. -/
def Obligations.MatrixCommandsFrame : Prop :=
  ∀ (c : Instr) (s t : State), chapter c = .matrix → Sound s → exec c s = .next t →
    ∀ x : Portion, (touches c).contains x = false → same x s t

/-- O37 (05_vector_engine.md; derived). What commands of chapter 05_vector_engine leave unchanged. For every command of
chapter 05_vector_engine and every sound state: where exec goes on, every portion of the state that the table touches
does not list for the command is as before: every byte of memory reads as before unless memory is listed, every
register of a block reads as before unless its block is listed, and so for islets, function state, optimisers, queues,
jobs, reef units, ports and their egress queues, lead token, gate actions, governor, strait lanes, pins, JTAG port,
MCTP and I3C state, journal store, armed events, watchdogs, island counters and ticks. (What is in no portion is not
promised: host reads, packets and launches in flight, held accesses, errors and repairs of memory, firmware slots.) A
write through a window lists what a write of the register at the offset may change. -/
def Obligations.VectorCommandsFrame : Prop :=
  ∀ (c : Instr) (s t : State), chapter c = .vector → Sound s → exec c s = .next t →
    ∀ x : Portion, (touches c).contains x = false → same x s t

/-- O38 (06_training_passes.md; derived). What commands of chapter 06_training_passes leave unchanged. For every command
of chapter 06_training_passes and every sound state: where exec goes on, every portion of the state that the table
touches does not list for the command is as before: every byte of memory reads as before unless memory is listed,
every register of a block reads as before unless its block is listed, and so for islets, function state, optimisers,
queues, jobs, reef units, ports and their egress queues, lead token, gate actions, governor, strait lanes, pins, JTAG
port, MCTP and I3C state, journal store, armed events, watchdogs, island counters and ticks. (What is in no portion is
not promised: host reads, packets and launches in flight, held accesses, errors and repairs of memory, firmware
slots.) A write through a window lists what a write of the register at the offset may change. -/
def Obligations.PassCommandsFrame : Prop :=
  ∀ (c : Instr) (s t : State), chapter c = .passes → Sound s → exec c s = .next t →
    ∀ x : Portion, (touches c).contains x = false → same x s t

/-- O39 (07_memory_tiers.md; derived). What commands of chapter 07_memory_tiers leave unchanged. For every command of
chapter 07_memory_tiers and every sound state: where exec goes on, every portion of the state that the table touches
does not list for the command is as before: every byte of memory reads as before unless memory is listed, every
register of a block reads as before unless its block is listed, and so for islets, function state, optimisers, queues,
jobs, reef units, ports and their egress queues, lead token, gate actions, governor, strait lanes, pins, JTAG port,
MCTP and I3C state, journal store, armed events, watchdogs, island counters and ticks. (What is in no portion is not
promised: host reads, packets and launches in flight, held accesses, errors and repairs of memory, firmware slots.) A
write through a window lists what a write of the register at the offset may change. -/
def Obligations.MemoryCommandsFrame : Prop :=
  ∀ (c : Instr) (s t : State), chapter c = .memory → Sound s → exec c s = .next t →
    ∀ x : Portion, (touches c).contains x = false → same x s t

/-- O40 (08_reef_units.md; derived). What commands of chapter 08_reef_units leave unchanged. For every command of chapter
08_reef_units and every sound state: where exec goes on, every portion of the state that the table touches does not
list for the command is as before: every byte of memory reads as before unless memory is listed, every register of a
block reads as before unless its block is listed, and so for islets, function state, optimisers, queues, jobs, reef
units, ports and their egress queues, lead token, gate actions, governor, strait lanes, pins, JTAG port, MCTP and I3C
state, journal store, armed events, watchdogs, island counters and ticks. (What is in no portion is not promised: host
reads, packets and launches in flight, held accesses, errors and repairs of memory, firmware slots.) A write through a
window lists what a write of the register at the offset may change. -/
def Obligations.ReefCommandsFrame : Prop :=
  ∀ (c : Instr) (s t : State), chapter c = .reef → Sound s → exec c s = .next t →
    ∀ x : Portion, (touches c).contains x = false → same x s t

/-- O41 (09_jumel_link.md; derived). What commands of chapter 09_jumel_link leave unchanged. For every command of chapter
09_jumel_link and every sound state: where exec goes on, every portion of the state that the table touches does not
list for the command is as before: every byte of memory reads as before unless memory is listed, every register of a
block reads as before unless its block is listed, and so for islets, function state, optimisers, queues, jobs, reef
units, ports and their egress queues, lead token, gate actions, governor, strait lanes, pins, JTAG port, MCTP and I3C
state, journal store, armed events, watchdogs, island counters and ticks. (What is in no portion is not promised: host
reads, packets and launches in flight, held accesses, errors and repairs of memory, firmware slots.) A write through a
window lists what a write of the register at the offset may change. -/
def Obligations.LinkCommandsFrame : Prop :=
  ∀ (c : Instr) (s t : State), chapter c = .link → Sound s → exec c s = .next t →
    ∀ x : Portion, (touches c).contains x = false → same x s t

/-- O42 (10_gradient_reduction.md; derived). What commands of chapter 10_gradient_reduction leave unchanged. For every
command of chapter 10_gradient_reduction and every sound state: where exec goes on, every portion of the state that
the table touches does not list for the command is as before: every byte of memory reads as before unless memory is
listed, every register of a block reads as before unless its block is listed, and so for islets, function state,
optimisers, queues, jobs, reef units, ports and their egress queues, lead token, gate actions, governor, strait lanes,
pins, JTAG port, MCTP and I3C state, journal store, armed events, watchdogs, island counters and ticks. (What is in no
portion is not promised: host reads, packets and launches in flight, held accesses, errors and repairs of memory,
firmware slots.) A write through a window lists what a write of the register at the offset may change. -/
def Obligations.ReductionCommandsFrame : Prop :=
  ∀ (c : Instr) (s t : State), chapter c = .reduction → Sound s → exec c s = .next t →
    ∀ x : Portion, (touches c).contains x = false → same x s t

/-- O43 (11_optimizer_state.md; derived). What commands of chapter 11_optimizer_state leave unchanged. For every command
of chapter 11_optimizer_state and every sound state: where exec goes on, every portion of the state that the table
touches does not list for the command is as before: every byte of memory reads as before unless memory is listed,
every register of a block reads as before unless its block is listed, and so for islets, function state, optimisers,
queues, jobs, reef units, ports and their egress queues, lead token, gate actions, governor, strait lanes, pins, JTAG
port, MCTP and I3C state, journal store, armed events, watchdogs, island counters and ticks. (What is in no portion is
not promised: host reads, packets and launches in flight, held accesses, errors and repairs of memory, firmware
slots.) A write through a window lists what a write of the register at the offset may change. -/
def Obligations.OptimiserCommandsFrame : Prop :=
  ∀ (c : Instr) (s t : State), chapter c = .optimiser → Sound s → exec c s = .next t →
    ∀ x : Portion, (touches c).contains x = false → same x s t

/-- O44 (12_services_and_commands.md, 00_scope.md; derived). What commands of chapter 12_services_and_commands leave
unchanged. For every command of chapter 12_services_and_commands (and REGISTER_WRITE of 00_scope) and every sound
state: where exec goes on, every portion of the state that the table touches does not list for the command is as
before: every byte of memory reads as before unless memory is listed, every register of a block reads as before unless
its block is listed, and so for islets, function state, optimisers, queues, jobs, reef units, ports and their egress
queues, lead token, gate actions, governor, strait lanes, pins, JTAG port, MCTP and I3C state, journal store, armed
events, watchdogs, island counters and ticks. (What is in no portion is not promised: host reads, packets and launches
in flight, held accesses, errors and repairs of memory, firmware slots.) A write through a window lists what a write
of the register at the offset may change. -/
def Obligations.ServiceCommandsFrame : Prop :=
  ∀ (c : Instr) (s t : State), (chapter c = .services ∨ chapter c = .scope) → Sound s → exec c s = .next t →
    ∀ x : Portion, (touches c).contains x = false → same x s t

/-- O45 (13_partitions_and_trust.md; derived). What commands of chapter 13_partitions_and_trust leave unchanged. For every
command of chapter 13_partitions_and_trust and every sound state: where exec goes on, every portion of the state that
the table touches does not list for the command is as before: every byte of memory reads as before unless memory is
listed, every register of a block reads as before unless its block is listed, and so for islets, function state,
optimisers, queues, jobs, reef units, ports and their egress queues, lead token, gate actions, governor, strait lanes,
pins, JTAG port, MCTP and I3C state, journal store, armed events, watchdogs, island counters and ticks. (What is in no
portion is not promised: host reads, packets and launches in flight, held accesses, errors and repairs of memory,
firmware slots.) A write through a window lists what a write of the register at the offset may change. -/
def Obligations.PartitionCommandsFrame : Prop :=
  ∀ (c : Instr) (s t : State), chapter c = .trust → Sound s → exec c s = .next t →
    ∀ x : Portion, (touches c).contains x = false → same x s t

/-- O46 (14_harbour_management.md; derived). What commands of chapter 14_harbour_management leave unchanged. For every
command of chapter 14_harbour_management and every sound state: where exec goes on, every portion of the state that
the table touches does not list for the command is as before: every byte of memory reads as before unless memory is
listed, every register of a block reads as before unless its block is listed, and so for islets, function state,
optimisers, queues, jobs, reef units, ports and their egress queues, lead token, gate actions, governor, strait lanes,
pins, JTAG port, MCTP and I3C state, journal store, armed events, watchdogs, island counters and ticks. (What is in no
portion is not promised: host reads, packets and launches in flight, held accesses, errors and repairs of memory,
firmware slots.) A write through a window lists what a write of the register at the offset may change. -/
def Obligations.HarbourCommandsFrame : Prop :=
  ∀ (c : Instr) (s t : State), chapter c = .harbour → Sound s → exec c s = .next t →
    ∀ x : Portion, (touches c).contains x = false → same x s t

/-- O47 (15_signals_and_power.md; derived). What commands of chapter 15_signals_and_power leave unchanged. For every
command of chapter 15_signals_and_power and every sound state: where exec goes on, every portion of the state that the
table touches does not list for the command is as before: every byte of memory reads as before unless memory is
listed, every register of a block reads as before unless its block is listed, and so for islets, function state,
optimisers, queues, jobs, reef units, ports and their egress queues, lead token, gate actions, governor, strait lanes,
pins, JTAG port, MCTP and I3C state, journal store, armed events, watchdogs, island counters and ticks. (What is in no
portion is not promised: host reads, packets and launches in flight, held accesses, errors and repairs of memory,
firmware slots.) A write through a window lists what a write of the register at the offset may change. -/
def Obligations.PinCommandsFrame : Prop :=
  ∀ (c : Instr) (s t : State), chapter c = .signals → Sound s → exec c s = .next t →
    ∀ x : Portion, (touches c).contains x = false → same x s t

/-- O48 (R29, R30; derived). A strait sends the first class ready, starved classes ahead. In a writer cycle of a strait
that carries units and whose ends run, the units that wait at their source first come into the writer queues as far as
these have room: this refill is the model's choice (log entry 62, DESIGN CHOICE). Then a class with a unit ready and
room at the reader sends its first unit exactly where no other such class comes before it (R29): a class that has been
ready for STARVE_LIMIT cycles without being sent comes before one that has not, of two such classes the one that has
waited longer, and otherwise the order is TC2, TC1, TC3, TC0. A class that is ready and does not send has been ready
one cycle more (how the cycles are counted is the model's reading, log entry 18, DEDUCED); a class with nothing ready
is unchanged. By the table of STR_ARB a limit of 0 acts as 1. -/
def Obligations.StraitSendsInClassOrder : Prop :=
  ∀ (n : Nat) (ba : Bool) (s t : State), n < 35 → s.straitCarries n = true → s.straitRuns n = true →
    exec (.straitUnitSend n ba) s = .next t →
    let limit : Nat := max 1 (s.fld .STR_ARB_STARVE_LIMIT n)
    let q (d : Nat) : Lane := (s.lane n ba d).refill
    let can (d : Nat) : Bool := (q d).isReady && (q d).room
    let starved (d : Nat) : Bool := decide (limit ≤ (q d).waited)
    let rank (d : Nat) : Nat := [(2, 0), (1, 1), (3, 2), (0, 3)].lookup d |>.getD 4
    let wait (d : Nat) : Nat := if starved d then (q d).waited else 0
    let before (d e : Nat) : Bool := decide (wait e < wait d) || (decide (wait d = wait e) && decide (rank d < rank e))
    ∀ c, c < 4 → t.lane n ba c =
      (if can c && [0, 1, 2, 3].all (fun d => d == c || !can d || before c d) then (q c).send
       else if (q c).isReady then { q c with waited := (q c).waited + 1 }
       else q c)

/-- O49 (R30, R31, R34; derived). Units of a class and direction cross in the order written. The line of a class and
direction of a strait is its units in flight, then those in the writer queue, then those that wait at their source for
room in it, in order; that units wait at their source in a backlog, and that the reader's own island takes a unit from
its queue at once, is the model's choice (log entry 62, DESIGN CHOICE). A writer cycle (STRAIT_UNIT_SEND) leaves every
line and reader queue as they are, whichever class sends: it only takes units from ready to in flight. A unit that
fails its check for the first time (STRAIT_UNIT_ARRIVE) puts those in flight back before the ready ones: the line is
as it was (R34). A unit that passes is the front of the line: it leaves it and joins the end of the reader queue (or
is taken at once by the reader's own island), no other class or direction changes (R30), and only then does the island
at the reader take from the front of its queues. So neither of these two commands reorders a line, drops a unit of it
or hands over any but the first. -/
def Obligations.StraitKeepsUnitsInOrder : Prop :=
  let expand (q : List (StraitUnit × Nat)) : List StraitUnit := q.flatMap (fun u => List.replicate (u.2 + 1) u.1)
  let line (l : Lane) : List StraitUnit := l.flight ++ expand l.ready ++ expand l.backlog
  ∀ (n c : Nat) (ba : Bool) (s : State), n < 35 → c < 4 → s.straitCarries n = true → s.straitRuns n = true →
    (∃ t, exec (.straitUnitSend n ba) s = .next t ∧ ∀ (m d : Nat) (dir : Bool), m < 35 → d < 4 → line (t.lane m dir d) = line (s.lane m dir d) ∧
      (t.lane m dir d).reader = (s.lane m dir d).reader) ∧
    (∀ syn, (s.lane n ba c).flight ≠ [] → (s.lane n ba c).retry = false →
      ∃ t, exec (.straitUnitArrive n ba c false syn) s = .next t ∧ ∀ (m d : Nat) (dir : Bool), m < 35 → d < 4 → line (t.lane m dir d) = line (s.lane m dir d) ∧
        (t.lane m dir d).reader = (s.lane m dir d).reader) ∧
    (∀ syn u rest, (s.lane n ba c).flight = u :: rest →
      ∃ t : State, exec (.straitUnitArrive n ba c true syn) s = (t.capeTakes n ba c).dieTakes (straitReader n ba) ∧
        line (s.lane n ba c) = u :: line (t.lane n ba c) ∧
        ((t.lane n ba c).reader = (s.lane n ba c).reader ++ [u] ∨
          ((t.lane n ba c).reader = (s.lane n ba c).reader ∧ u.dst = straitReader n ba ∧ u.cargo = none ∧ u.transit = none)) ∧
        ∀ (m d : Nat) (dir : Bool), m < 35 → d < 4 → laneKey m dir d ≠ laneKey n ba c → t.lane m dir d = s.lane m dir d)

/-- O50 (R7; stated). Slots of absent units read as zero and ignore writes. In any state of a TVA-1024P or TVA-768 every
offset of the REEF block, and in any state of a part the whole slot of a Jumel port or of a mainland port that it
lacks, reads as zero in the window of every function, and a write there changes nothing. -/
def Obligations.AbsentUnitsReadZero : Prop :=
  ∀ (s : State) (fn off : Nat) (w : Word),
    ((s.pkg.part ≠ .tva1024 ∧ 0x500000 ≤ off ∧ off < 0x600000) ∨
      (∃ p, p < 24 ∧ bit (partJl s.pkg.part) p = false ∧ 0x600000 + 0x1000 * p ≤ off ∧ off < 0x601000 + 0x1000 * p) ∨
      (∃ p, p < 16 ∧ bit (partMl s.pkg.part) p = false ∧ 0x400300 + 0x10 * p ≤ off ∧ off < 0x400310 + 0x10 * p)) →
    s.readRegister fn off = 0 ∧ exec (.registerWrite fn off w) s = .next s

/-- O51 (R375, 12_services_and_commands.md; derived). The command die is the lowest that holds an atoll of the function,
and SVC_INFO shows it. The command die of a function holds one of its atolls and no lower die does, where it has any;
where it has none the command die is 0 (that atoll a of 24 stands on home die a / 6, and that a function without
atolls has die 0, is the model's choice, log entry 56). A read of SVC_INFO, offset 0x800000, in the window of a
function 1 to 8 gives 0x40 in bits 7-0 and the command die in bits 17-16, which is below 4, and no other bit. -/
def Obligations.CommandDieIsLowest : Prop :=
  ∀ (s : State) (fn : Nat), ((∀ a, a < 24 → bit (s.atollsOf fn) a = false) → s.commandDie fn = 0) ∧
    (∀ a, a < 24 → bit (s.atollsOf fn) a = true →
      s.commandDie fn ≤ a / 6 ∧ ∃ b, b < 24 ∧ bit (s.atollsOf fn) b = true ∧ s.commandDie fn = b / 6) ∧
    (fn ≠ 0 → s.commandDie fn < 4 ∧ s.readRegister fn 0x800000 = BitVec.ofNat 64 (s.commandDie fn * 2 ^ 16 + 0x40))

/-- O52 (R479, R480; derived). Boundary-scan instructions act only while RESET_N is low. Loading EXTEST, CLAMP, HIGHZ,
EXTEST_PULSE or EXTEST_TRAIN changes nothing of the state but the JTAG port, whose boundary cells stay, and the count
of free values. While RESET_N is low the port acts by the instruction; at any other time it acts as BYPASS and only
the instruction has changed. What the instructions do on the lands is the model's choice from IEEE 1149.1 (log entry
7, PRESUMED): BYPASS captures one bit 0 and the device drives the lands; EXTEST, EXTEST_PULSE, EXTEST_TRAIN and CLAMP
drive them from the boundary cells; HIGHZ releases them. -/
def Obligations.BoundaryScanActsOnlyInReset : Prop :=
  ∀ (s : State), ∀ c ∈ [(Instr.extest, JtagOp.extest), (.clamp, .clamp), (.highz, .highz), (.extestPulse, .extestPulse), (.extestTrain, .extestTrain)],
    ∃ t, exec c.1 s = .next t ∧ { t with jtag := s.jtag, freeCtr := s.freeCtr } = s ∧ t.jtag.op = c.2 ∧ t.jtag.cells = s.jtag.cells ∧
      (s.pins.resetN = false → t.jtagActs = c.2 ∧ t.jtagDrives = (if c.2 = .highz then .released else .cells s.jtag.cells)) ∧
      (s.pins.resetN = true → t = { s with jtag := { s.jtag with op := c.2 } } ∧ t.jtagActs = .bypass ∧ t.jtagCapture = [false] ∧
        t.jtagDrives = .device)

/-- O53 (R457, R458, R476; derived). Journal records are committed in the order of their requests. A commit of the journal
(in any state, with or without a failing block) either leaves the committed log as it is, or adds to its end exactly
the record at the front of the waiting records, which leaves them; nothing committed is lost or changed, no waiting
record is passed over, and records asked for meanwhile join behind. After a thermal trip nothing is committed (R476;
that the command then changes nothing is log entry 51, DEDUCED), nor with the package in reset, which is the model's
choice, as is where the records lie in the segments (log entry 53). (The record that a journal of 24 MiB or more asks
for itself, BASE_BEGIN, joins behind the others.) -/
def Obligations.JournalCommitsInOrder : Prop :=
  ∀ (s t : State) (bad : Bool), exec (.journalCommit bad) s = .next t →
    (t.jnl.log = s.jnl.log ∨ ∃ r rest, s.jqueue = r :: rest ∧ t.jnl.log = s.jnl.log ++ [r]) ∧
    (∃ more, s.jqueue ++ more = (t.jnl.log.drop s.jnl.log.length) ++ t.jqueue) ∧
    (s.pins.tripped = true ∨ s.heldInReset = true → t = s)

/-- O54 (R405, R406, R447; derived). A package warm reset ends every function and clears every grant. A write of
HBR_RESET_CTL with WARM by function 0 of a READY package, in any sound state: it goes on, and in the new state every
function is DISABLED with ENABLE 0 and every grant register zero; no islet, function, queue or job holds anything;
memory reads zero; registers of every block but SEC, HBR and JL read their reset values. That memory reads zero is the
model's choice (log entry 6, DESIGN CHOICE: the rules leave what HBM and board memory hold open), and so is that all
of the reset holds in the state after the command, although the boot goes on from there (log entry 54, DESIGN CHOICE). -/
def Obligations.PackageResetEndsEveryFunction : Prop :=
  ∀ (s : State) (w : Word), Sound s → s.ready = true → bit w.toNat 0 = true → ∃ t, exec (.warmReset 0 w) s = .next t ∧
    (∀ f, isFn f = true → t.fld .SEC_GRANT_CTL_ENABLE f = 0 ∧ t.fld .SEC_GRANT_CTL_STATE f = 0 ∧ ∀ j, t.reg .SEC_GRANT_ATOLLS f j = 0 ∧
      t.reg .SEC_GRANT_RES f j = 0 ∧ t.reg .SEC_GRANT_PORTS f j = 0 ∧ t.reg .SEC_GRANT_ML f j = 0) ∧
    t.islets = [] ∧ t.fns = [] ∧ t.queues = [] ∧ t.jobs = [] ∧ (∀ a, memByte t.mem a = 0) ∧
    (∀ r a b, regBlock r ≠ .sec → regBlock r ≠ .hbr → regBlock r ≠ .jl → t.reg r a b = resetWord s.pkg r a b)

/-- O55 (R438, R440; derived). A grant of the lead token advances the epoch past 0 and writes it to the gates. Where the
token is FREE, no grant is under way, and a half waits for the token and has a leader: the grant goes on, EPOCH is one
more, 0xFFFF becoming 1 and 0 never granted, and every gate whose harbour strait carries has the new epoch, every
other gate its old one (R438). Where such a gate holds an action the grant is under way, the token still FREE and the
epochs of the dies as before; where none does, HOLDER and the arbiter name the half and both dies of it that do not
restart have the new epoch. A second grant event ends the wait of a grant under way: HOLDER and the arbiter name the
half, its dies have the epoch, the gates keep theirs, and where a gate still held an action the count of island 16 is
past the 20 us that the wait takes at most. That the wait and its end are two events is the model's choice (log entry
49, DESIGN CHOICE). -/
def Obligations.GrantAdvancesTheEpoch : Prop :=
  let held (s : State) : Bool := s.actions.any (fun e => [0, 1, 2, 3].any (fun d => decide (d < 4) && s.straitCarries (18 + d) && e.2.holding.any (fun h => h.1 == d)))
  let granted (t : State) (west : Bool) (s : State) (e : Nat) : Prop := t.lead.holder = some west ∧ t.lead.granting = none ∧
    t.fld .HBR_LEAD_HOLDER = (if west then 2 else 1) ∧ ∀ d ∈ (if west then [2, 3] else [0, 1]), s.restarting.contains d = false → storeGet 0 t.lead.dieEpoch d = e
  (∀ (s : State) (west : Bool) (rest : List Bool), Sound s → s.lead.holder = none → s.lead.granting = none → s.lead.wants = west :: rest →
      s.lead.leader west < 4 →
    let new := if s.fld .HBR_LEAD_EPOCH = 0xFFFF then 1 else s.fld .HBR_LEAD_EPOCH + 1
    ∃ t, exec .leadGrant s = .next t ∧ t.fld .HBR_LEAD_EPOCH = new ∧ new ≠ 0 ∧
      (∀ d, d < 4 → storeGet 0 t.lead.gateEpoch d = if s.straitCarries (18 + d) = true then new else storeGet 0 s.lead.gateEpoch d) ∧
      if held s = true then t.lead.holder = none ∧ t.lead.granting = some (west, s.count 16) ∧ t.lead.dieEpoch = s.lead.dieEpoch
      else granted t west s new) ∧
  (∀ (s : State) (west : Bool) (c : Nat), Sound s → s.lead.holder = none → s.lead.granting = some (west, c) → s.lead.leader west < 4 →
    ∃ t, exec .leadGrant s = .next t ∧ t.fld .HBR_LEAD_EPOCH = s.fld .HBR_LEAD_EPOCH ∧ t.lead.gateEpoch = s.lead.gateEpoch ∧
      granted t west s (s.fld .HBR_LEAD_EPOCH) ∧ t.count 16 = (if held s = true then max (s.count 16) (c + 20001) % 2 ^ 64 else s.count 16))

/-- O56 (R313, R395; derived). Clearing an event bit arms its source, which interrupts at once where another is set. A
write of the event register of source k by its own function, in a window that shows it, that clears an event bit, with
EN of the source set: where no event bit of the source is left the source is armed and nothing is sent; where one is
left the source is disarmed and, with the chain port toward the adapter UP and the device addressed, one INTERRUPT
flit with the vector of the source and the number of the function waits last in VC0 of that port. -/
def Obligations.ArmedEventInterruptsOnce : Prop :=
  ∀ (s : State) (fn off k i b : Nat) (r : Reg) (w : Word), regAt off = some (r, i, b) → eventSource r = some k → fn ≠ 0 →
    s.windowOpen fn = true → s.shows fn r (ownIndex r fn i) b = true →
    s.reg r (ownIndex r fn i) b &&& w &&& BitVec.ofNat 64 (accessMask r .RW1C) ≠ 0 → s.fld .SVC_EVT_ROUTE_EN fn k = 1 →
    let cleared := s.writeReg r (ownIndex r fn i) b w
    ∃ t, exec (.eventBitClear fn off w) s = .next t ∧ (∀ q x y, t.reg q x y = cleared.reg q x y ∨ q = .JL_UNREACH ∨ q = .JL_FN_EVT ∨ q = .JL_DROPS) ∧
      if eventWord cleared fn k = 0 then t.isArmed fn k = true ∧ t.egress = s.egress
      else t.isArmed fn k = false ∧ (s.portUp s.adapterPort = true → s.fld .JL_CHAIN_ADDR_VALID = 1 →
        t.egressOf s.adapterPort 0 = s.egressOf s.adapterPort 0 ++
          [{ ftype := 5, sub := 1, dst := 0, src := s.fld .JL_CHAIN_ADDR, ttl := 255, sfn := fn, len := 1, vc := 0, payload := leBytes 2 (s.fld .SVC_EVT_ROUTE_VECTOR fn k) }])

/-- O57 (R219, R222, R232, R233; derived). Bytes stored through a page read back, and no other byte changes. A write by a
live function of bytes within one page that is in HBM, not moving, its segment not frozen, on a stack that is not in
reset, that no leased row touches and that both requesters reach, no unit touched having an error, where the optimiser
forbids no write (R346, R350, R357): it is served OK. Exactly the bytes that frameByte computes for the address in the
frame of the page are stored to: every other byte of memory reads as before. A read of the same bytes afterwards, from
any source that reaches the stack, is answered OK with the written bytes and changes no byte. -/
def Obligations.StoredBytesReadBack : Prop :=
  ∀ (s : State) (fn addr slot die die2 : Nat) (src src2 : Source) (bs : List Byte) (f : Frame) (g : Segment), s.fnLive fn = true → bs ≠ [] →
    addr % 65536 + bs.length ≤ 65536 → addr < reservedBase → s.segmentAt fn addr = some g → g.frozen = false →
    s.pageAt fn addr = some { frame := f, slot := slot, moving := false } → f.isBoard = false →
    (∀ a b, a < 65536 → b < 65536 → frameByte f a = frameByte f b → a = b) → s.leasesOf f.stack = [] →
    s.fld .MEM_STACK_STAT_STATE f.stack ≠ 2 →
    (∀ x ∈ [(src, die), (src2, die2)], s.memCut (s.sourceIsland { fn := fn, src := x.1, die := some x.2 }) (4 + f.stack) = false) →
    (∀ u ∈ unitOffsets f (addr % 65536) bs.length, storeGet [] s.bad (errKey (frameByte f u)) = []) →
    s.optForbids fn (src != .host) addr bs.length = false →
    ∃ t u, exec (.memoryAccess fn ⟨src, die⟩ addr bs.length (some bs) 0) s = .next t ∧
      t.served = [{ access := { fn := fn, src := src, die := some die, addr := addr, len := bs.length, wr := some bs }, answer := { status := .ok } }] ∧
      (∀ x, (∀ k, k < bs.length → x ≠ frameByte f (addr % 65536 + k)) → memByte t.mem x = memByte s.mem x) ∧
      exec (.memoryAccess fn ⟨src2, die2⟩ addr bs.length none 0) t = .next u ∧
      u.served = [{ access := { fn := fn, src := src2, die := some die2, addr := addr, len := bs.length }, answer := { status := .ok, data := bs } }] ∧
      u.mem = t.mem

/-- O58 (R9; stated). PKG_CAP and PKG_PORTS read as the table gives for each part. In every sound state a read of PKG_CAP
(offset 0x8) and of PKG_PORTS (offset 0x10) in the window of any function gives the two values of the table for the
part of the package. -/
def Obligations.CapabilityRegistersPerPart : Prop :=
  ∀ (s : State) (fn : Nat), Sound s →
    s.readRegister fn 0x8 = (match s.pkg.part with
      | .tva1024 => 0x0200018010080003#64 | .tva1024p => 0x0000018010080002#64 | .tva768 => 0x000001800C080000#64) ∧
    s.readRegister fn 0x10 = (match s.pkg.part with
      | .tva1024 => 0x0000FFFF00FFFFFF#64 | .tva1024p => 0x0000FFFF00FFFFFF#64 | .tva768 => 0x000000FF003CF3CF#64)

/-- O59 (R219, R240, R241, R242, R285, R309, R376, R379; derived). A stored completion record, a moved page and a
delivered WRITE reach the bytes of their pages only. Where memory holds no error (the errors of a unit that is decoded
may change its own bytes, R221) and the command finds none: COMPLETION_WRITE changes no byte of memory but those that
frameByte gives, in the frame of the page there, for the 32 bytes of the ring entry that CPL_TAIL names, and none at
all for a ring in host memory; a promotion from a port that is UP, a demotion that completes, and a page of a COPY,
change only bytes of the frame the page goes to (for a promotion, where no access waits to be served after it); and a
verified WRITE of device memory that the flit's route gives to this device, at an address below the windows, goes on,
and changes only the bytes that frameByte gives, in the frames of the pages there, for the bytes of the flit that its
LEN covers, beside what the link layer did before. Every other byte of memory reads as before. -/
def Obligations.StoresStayInTheirPages : Prop :=
  (∀ (s t : State) (fn q : Nat) (st : Status), Sound s → s.bad = [] → exec (.completionWrite fn q st) s = .next t →
      ∀ x, (∀ p ∈ pagePieces 2 (s.completionAddr fn q).1 32, ∀ pg, s.pageAt fn p.1 = some pg → ∀ k, k < p.2 →
        s.fld .SVC_Q_CFG_CPL_HOST fn q = 1 ∨ x ≠ frameByte pg.frame (p.1 % 65536 + k)) → memByte t.mem x = memByte s.mem x) ∧
  (∀ (s t : State) (port : Nat) (m : PageMove), Sound s → s.bad = [] → s.held = [] → (s.mlPort port).current = some m →
      s.mlUp port = true → (frameRows m.target).length ≤ 64 → exec (.promotePageDone port 0) s = .next t →
      ∀ x, (∀ k, k < 65536 → x ≠ frameByte m.target k) → memByte t.mem x = memByte s.mem x) ∧
  (∀ (s t : State) (port : Nat) (m : PageMove), Sound s → s.bad = [] → (s.mlPort port).current = some m →
      (frameRows m.target).length ≤ 64 → exec (.demotePageCopied port 0) s = .next t →
      ∀ x, (∀ k, k < 65536 → x ≠ frameByte m.target k) → memByte t.mem x = memByte s.mem x) ∧
  (∀ (s t : State) (fn : Nat) (ans : Answer) (run : MigRun) (pg : Page), Sound s → s.bad = [] → (s.fnState fn).mig.run = some run → migOp run.req = 4 →
      s.pageAt fn (run.req.w3 + 65536 * run.next) = some pg → (frameRows pg.frame).length ≤ 64 → exec (.migPageStart fn 0 ans) s = .next t →
      ∀ x, (∀ k, k < 65536 → x ≠ frameByte pg.frame k) → memByte t.mem x = memByte s.mem x) ∧
  (∀ (s : State) (port : Nat) (rx : RxFlit), rx.flit.ftype = 1 → rx.flit.sub = 0 → isReserved rx.flit.addr = false → s.portPresent port = true →
      s.portState port = portIsUp → (s.linkIn port rx).2 = true → (s.linkIn port rx).1.routeFlit rx.flit = .here →
      (s.linkIn port rx).1.mayDeliver port rx.flit = true → (s.linkIn port rx).1.bad = [] →
      (s.linkIn port rx).1.writeForbidden rx.flit.dfn false rx.flit.addr (32 * rx.flit.len) = false →
      ∃ t, exec (.write port rx) s = .next t ∧
        ∀ x, (∀ p ∈ pagePieces 2 rx.flit.addr (rx.flit.payload.take (32 * rx.flit.len)).length, ∀ pg,
          (s.linkIn port rx).1.pageAt rx.flit.dfn p.1 = some pg → ∀ k, k < p.2 → x ≠ frameByte pg.frame (p.1 % 65536 + k)) →
        memByte t.mem x = memByte (s.linkIn port rx).1.mem x)
end

