-- ==== Sys2Proof/Laws/Drain.lean ====
section
/-! SUPPORT. A die whose reader queues hold nothing it can take stays as it is. -/

namespace Sys2Proof.Machine

theorem State.laneDrain_none {s : State} {n : Nat} {ba : Bool} {cls : Nat} (h : s.laneTake n ba cls = none) (fuel : Nat) :
    State.laneDrain fuel s n ba cls = .next s := by
  cases fuel <;> simp [State.laneDrain, h, ok]

theorem State.dieDrain_none {s : State} {die : Nat} (l : List (Nat × Nat))
    (h : ∀ e ∈ l, s.laneTake e.1 (straitReader e.1 true == die) e.2 = none) : s.dieDrain die l = .next s := by
  induction l with
  | nil => rfl
  | cons e l ih =>
    have k := State.laneDrain_none (h e (List.mem_cons_self ..)) 16
    simp only [State.dieDrain, k]
    exact ih fun x hx => h x (List.mem_cons_of_mem _ hx)

theorem State.dieTakes_none {s : State} {die : Nat}
    (h : ∀ e ∈ dieLanes die, s.laneTake e.1 (straitReader e.1 true == die) e.2 = none) : s.dieTakes die = .next s := by
  unfold State.dieTakes
  split
  · exact State.dieDrain_none _ h
  · rfl

end Sys2Proof.Machine
end

