-- ==== Sys2Proof/Laws/Exec.lean ====
section
/-! SUPPORT. Which meaning the dispatch calls for each command: one lemma per command, so that no proof unfolds the
dispatch. -/

namespace Sys2Proof.Machine

@[simp] theorem exec_straitUnitSend {n ba} {s : State} :
    exec (.straitUnitSend n ba) s = execStraitUnitSend n ba s := rfl
@[simp] theorem exec_straitUnitArrive {n ba cls crcOk syndrome} {s : State} :
    exec (.straitUnitArrive n ba cls crcOk syndrome) s = execStraitUnitArrive n ba cls crcOk syndrome s := rfl
@[simp] theorem exec_straitStallTimeout {n ba} {s : State} :
    exec (.straitStallTimeout n ba) s = execStraitStallTimeout n ba s := rfl
@[simp] theorem exec_straitCrossbarForward {die out cls} {s : State} :
    exec (.straitCrossbarForward die out cls) s = execStraitCrossbarForward die out cls s := rfl
@[simp] theorem exec_pllRelockDone {island} {s : State} :
    exec (.pllRelockDone island) s = execPllRelockDone island s := rfl
@[simp] theorem exec_loadStart {fn w} {s : State} : exec (.loadStart fn w) s = execLoadStart fn w s := rfl
@[simp] theorem exec_loadQueuedStart {fn} {s : State} : exec (.loadQueuedStart fn) s = execLoadQueuedStart fn s := rfl
@[simp] theorem exec_loadCancel {fn w} {s : State} : exec (.loadCancel fn w) s = execLoadCancel fn w s := rfl
@[simp] theorem exec_loadHeaderFetched {fn ans} {s : State} :
    exec (.loadHeaderFetched fn ans) s = execLoadHeaderFetched fn ans s := rfl
@[simp] theorem exec_loadStageStart {fn} {s : State} : exec (.loadStageStart fn) s = execLoadStageStart fn s := rfl
@[simp] theorem exec_loadStageDone {fn ans} {s : State} :
    exec (.loadStageDone fn ans) s = execLoadStageDone fn ans s := rfl
@[simp] theorem exec_loadFault {fn st} {s : State} : exec (.loadFault fn st) s = execLoadFault fn st s := rfl
@[simp] theorem exec_loadWaitIdleExit {fn} {s : State} :
    exec (.loadWaitIdleExit fn) s = execLoadWaitIdleExit fn s := rfl
@[simp] theorem exec_loadQuiesceDone {fn} {s : State} : exec (.loadQuiesceDone fn) s = execLoadQuiesceDone fn s := rfl
@[simp] theorem exec_loadWriteDone {fn} {s : State} : exec (.loadWriteDone fn) s = execLoadWriteDone fn s := rfl
@[simp] theorem exec_launchParamsRead {lid ans} {s : State} :
    exec (.launchParamsRead lid ans) s = execLaunchParamsRead lid ans s := rfl
@[simp] theorem exec_isletStartArrive {lid islet} {s : State} :
    exec (.isletStartArrive lid islet) s = execIsletStartArrive lid islet s := rfl
@[simp] theorem exec_launchTimeout {lid} {s : State} : exec (.launchTimeout lid) s = execLaunchTimeout lid s := rfl
@[simp] theorem exec_collisionForcedGrant {islet bank} {s : State} :
    exec (.collisionForcedGrant islet bank) s = execCollisionForcedGrant islet bank s := rfl
@[simp] theorem exec_isletFault {islet cause place index} {s : State} :
    exec (.isletFault islet cause place index) s = execIsletFault islet cause place index s := rfl
@[simp] theorem exec_islStop {fn islet w} {s : State} : exec (.islStop fn islet w) s = execIslStop fn islet w s := rfl
@[simp] theorem exec_isletReset {fn islet w} {s : State} :
    exec (.isletReset fn islet w) s = execIsletReset fn islet w s := rfl
@[simp] theorem exec_copyPlanStart {islet eng corrected} {s : State} :
    exec (.copyPlanStart islet eng corrected) s = execCopyPlanStart islet eng corrected s := rfl
@[simp] theorem exec_copyReadReturn {islet eng k upset losses} {s : State} :
    exec (.copyReadReturn islet eng k upset losses) s = execCopyReadReturn islet eng k upset losses s := rfl
@[simp] theorem exec_copyPlanComplete {islet eng} {s : State} :
    exec (.copyPlanComplete islet eng) s = execCopyPlanComplete islet eng s := rfl
@[simp] theorem exec_seqNop {islet} {s : State} : exec (.seqNop islet) s = execSeqNop islet s := rfl
@[simp] theorem exec_seqMx {islet} {s : State} : exec (.seqMx islet) s = execSeqMx islet s := rfl
@[simp] theorem exec_seqVx {islet} {s : State} : exec (.seqVx islet) s = execSeqVx islet s := rfl
@[simp] theorem exec_seqCopy {islet} {s : State} : exec (.seqCopy islet) s = execSeqCopy islet s := rfl
@[simp] theorem exec_seqSend {islet} {s : State} : exec (.seqSend islet) s = execSeqSend islet s := rfl
@[simp] theorem exec_seqRecv {islet} {s : State} : exec (.seqRecv islet) s = execSeqRecv islet s := rfl
@[simp] theorem exec_seqWait {islet} {s : State} : exec (.seqWait islet) s = execSeqWait islet s := rfl
@[simp] theorem exec_seqSetf {islet} {s : State} : exec (.seqSetf islet) s = execSeqSetf islet s := rfl
@[simp] theorem exec_seqClrf {islet} {s : State} : exec (.seqClrf islet) s = execSeqClrf islet s := rfl
@[simp] theorem exec_seqSignal {islet} {s : State} : exec (.seqSignal islet) s = execSeqSignal islet s := rfl
@[simp] theorem exec_seqLdcnt {islet} {s : State} : exec (.seqLdcnt islet) s = execSeqLdcnt islet s := rfl
@[simp] theorem exec_seqLoop {islet} {s : State} : exec (.seqLoop islet) s = execSeqLoop islet s := rfl
@[simp] theorem exec_seqJump {islet} {s : State} : exec (.seqJump islet) s = execSeqJump islet s := rfl
@[simp] theorem exec_seqFence {islet} {s : State} : exec (.seqFence islet) s = execSeqFence islet s := rfl
@[simp] theorem exec_seqHalt {islet} {s : State} : exec (.seqHalt islet) s = execSeqHalt islet s := rfl
@[simp] theorem exec_seqStallRelease {islet} {s : State} :
    exec (.seqStallRelease islet) s = execSeqStallRelease islet s := rfl
@[simp] theorem exec_channelUnitHop {islet port} {s : State} :
    exec (.channelUnitHop islet port) s = execChannelUnitHop islet port s := rfl
@[simp] theorem exec_channelUnitReceive {islet chan losses} {s : State} :
    exec (.channelUnitReceive islet chan losses) s = execChannelUnitReceive islet chan losses s := rfl
@[simp] theorem exec_channelCreditReturn {islet chan} {s : State} :
    exec (.channelCreditReturn islet chan) s = execChannelCreditReturn islet chan s := rfl
@[simp] theorem exec_controlPacketArrive {src dst} {s : State} :
    exec (.controlPacketArrive src dst) s = execControlPacketArrive src dst s := rfl
@[simp] theorem exec_gangOpStart {islet} {s : State} : exec (.gangOpStart islet) s = execGangOpStart islet s := rfl
@[simp] theorem exec_mxLoadDispatch {islet} {s : State} :
    exec (.mxLoadDispatch islet) s = execMxLoadDispatch islet s := rfl
@[simp] theorem exec_mxLoadComplete {islet quad corrected} {s : State} :
    exec (.mxLoadComplete islet quad corrected) s = execMxLoadComplete islet quad corrected s := rfl
@[simp] theorem exec_mxSwap {islet} {s : State} : exec (.mxSwap islet) s = execMxSwap islet s := rfl
@[simp] theorem exec_mxTileStart {islet} {s : State} : exec (.mxTileStart islet) s = execMxTileStart islet s := rfl
@[simp] theorem exec_mxTileComplete {islet quad stalls spCorrected mxCorrected} {s : State} :
    exec (.mxTileComplete islet quad stalls spCorrected mxCorrected) s = execMxTileComplete islet quad stalls spCorrected mxCorrected s := rfl
@[simp] theorem exec_mxCombineStart {islet} {s : State} :
    exec (.mxCombineStart islet) s = execMxCombineStart islet s := rfl
@[simp] theorem exec_mxCombineComplete {islet spCorrected mxCorrected} {s : State} :
    exec (.mxCombineComplete islet spCorrected mxCorrected) s = execMxCombineComplete islet spCorrected mxCorrected s := rfl
@[simp] theorem exec_mxIdleGate {islet} {s : State} : exec (.mxIdleGate islet) s = execMxIdleGate islet s := rfl
@[simp] theorem exec_vxChainStart {islet} {s : State} : exec (.vxChainStart islet) s = execVxChainStart islet s := rfl
@[simp] theorem exec_vxChainComplete {islet stalls spCorrected vxCorrected} {s : State} :
    exec (.vxChainComplete islet stalls spCorrected vxCorrected) s = execVxChainComplete islet stalls spCorrected vxCorrected s := rfl
@[simp] theorem exec_phaseStart {fn slot} {s : State} : exec (.phaseStart fn slot) s = execPhaseStart fn slot s := rfl
@[simp] theorem exec_phaseDone {fn slot} {s : State} : exec (.phaseDone fn slot) s = execPhaseDone fn slot s := rfl
@[simp] theorem exec_phaseTimeout {fn slot} {s : State} :
    exec (.phaseTimeout fn slot) s = execPhaseTimeout fn slot s := rfl
@[simp] theorem exec_shoalWindowAccess {fn addr len wr upset} {s : State} :
    exec (.shoalWindowAccess fn addr len wr upset) s = execShoalWindowAccess fn addr len wr upset s := rfl
@[simp] theorem exec_feedCopyDone {fn slot ans} {s : State} :
    exec (.feedCopyDone fn slot ans) s = execFeedCopyDone fn slot ans s := rfl
@[simp] theorem exec_memoryAccess {fn src addr len wr upset} {s : State} :
    exec (.memoryAccess fn src addr len wr upset) s = execMemoryAccess fn src addr len wr upset s := rfl
@[simp] theorem exec_hbmRefresh {stack pc bank} {s : State} :
    exec (.hbmRefresh stack pc bank) s = execHbmRefresh stack pc bank s := rfl
@[simp] theorem exec_patrolScrub {key upset} {s : State} :
    exec (.patrolScrub key upset) s = execPatrolScrub key upset s := rfl
@[simp] theorem exec_pageRelocate {fn page} {s : State} :
    exec (.pageRelocate fn page) s = execPageRelocate fn page s := rfl
@[simp] theorem exec_mainlandPortDown {port} {s : State} :
    exec (.mainlandPortDown port) s = execMainlandPortDown port s := rfl
@[simp] theorem exec_migGo {fn w} {s : State} : exec (.migGo fn w) s = execMigGo fn w s := rfl
@[simp] theorem exec_migMap {fn} {s : State} : exec (.migMap fn) s = execMigMap fn s := rfl
@[simp] theorem exec_migUnmap {fn} {s : State} : exec (.migUnmap fn) s = execMigUnmap fn s := rfl
@[simp] theorem exec_migPromote {fn} {s : State} : exec (.migPromote fn) s = execMigPromote fn s := rfl
@[simp] theorem exec_migDemote {fn} {s : State} : exec (.migDemote fn) s = execMigDemote fn s := rfl
@[simp] theorem exec_migCopy {fn} {s : State} : exec (.migCopy fn) s = execMigCopy fn s := rfl
@[simp] theorem exec_migIngest {fn} {s : State} : exec (.migIngest fn) s = execMigIngest fn s := rfl
@[simp] theorem exec_migPageStart {fn upset ans} {s : State} :
    exec (.migPageStart fn upset ans) s = execMigPageStart fn upset ans s := rfl
@[simp] theorem exec_demotePageCopied {port upset} {s : State} :
    exec (.demotePageCopied port upset) s = execDemotePageCopied port upset s := rfl
@[simp] theorem exec_promotePageDone {port upset} {s : State} :
    exec (.promotePageDone port upset) s = execPromotePageDone port upset s := rfl
@[simp] theorem exec_migRequestComplete {fn} {s : State} :
    exec (.migRequestComplete fn) s = execMigRequestComplete fn s := rfl
@[simp] theorem exec_migCancel {fn w} {s : State} : exec (.migCancel fn w) s = execMigCancel fn w s := rfl
@[simp] theorem exec_xlateLookup {fn w} {s : State} : exec (.xlateLookup fn w) s = execXlateLookup fn w s := rfl
@[simp] theorem exec_xlateLookupDone {fn} {s : State} : exec (.xlateLookupDone fn) s = execXlateLookupDone fn s := rfl
@[simp] theorem exec_reefWindowWrite {fn addr data} {s : State} :
    exec (.reefWindowWrite fn addr data) s = execReefWindowWrite fn addr data s := rfl
@[simp] theorem exec_reefGo {fn stack w} {s : State} : exec (.reefGo fn stack w) s = execReefGo fn stack w s := rfl
@[simp] theorem exec_reefCancel {fn stack w} {s : State} :
    exec (.reefCancel fn stack w) s = execReefCancel fn stack w s := rfl
@[simp] theorem exec_reefAdmit {stack} {s : State} : exec (.reefAdmit stack) s = execReefAdmit stack s := rfl
@[simp] theorem exec_reefOpStart {stack k} {s : State} :
    exec (.reefOpStart stack k) s = execReefOpStart stack k s := rfl
@[simp] theorem exec_reefOpEnd {stack k cycles} {s : State} :
    exec (.reefOpEnd stack k cycles) s = execReefOpEnd stack k cycles s := rfl
@[simp] theorem exec_reefUncorrectable {stack k pc} {s : State} :
    exec (.reefUncorrectable stack k pc) s = execReefUncorrectable stack k pc s := rfl
@[simp] theorem exec_laneFail {p lane} {s : State} : exec (.laneFail p lane) s = execLaneFail p lane s := rfl
@[simp] theorem exec_laneSwitchOver {p} {s : State} : exec (.laneSwitchOver p) s = execLaneSwitchOver p s := rfl
@[simp] theorem exec_laneSwapTimeout {p} {s : State} : exec (.laneSwapTimeout p) s = execLaneSwapTimeout p s := rfl
@[simp] theorem exec_flitSend {p vc} {s : State} : exec (.flitSend p vc) s = execFlitSend p vc s := rfl
@[simp] theorem exec_flitCorrupt {p uncorr} {s : State} :
    exec (.flitCorrupt p uncorr) s = execFlitCorrupt p uncorr s := rfl
@[simp] theorem exec_flitReservedType {p rx} {s : State} :
    exec (.flitReservedType p rx) s = execFlitReservedType p rx s := rfl
@[simp] theorem exec_idle {p rx} {s : State} : exec (.idle p rx) s = execIdle p rx s := rfl
@[simp] theorem exec_write {p rx} {s : State} : exec (.write p rx) s = execWrite p rx s := rfl
@[simp] theorem exec_readReq {p rx} {s : State} : exec (.readReq p rx) s = execReadReq p rx s := rfl
@[simp] theorem exec_readRsp {p rx} {s : State} : exec (.readRsp p rx) s = execReadRsp p rx s := rfl
@[simp] theorem exec_interrupt {p rx} {s : State} : exec (.interrupt p rx) s = execInterrupt p rx s := rfl
@[simp] theorem exec_unreachable {p rx} {s : State} : exec (.unreachable p rx) s = execUnreachable p rx s := rfl
@[simp] theorem exec_claim {p rx} {s : State} : exec (.claim p rx) s = execClaim p rx s := rfl
@[simp] theorem exec_claimAck {p rx} {s : State} : exec (.claimAck p rx) s = execClaimAck p rx s := rfl
@[simp] theorem exec_claimEnd {p rx} {s : State} : exec (.claimEnd p rx) s = execClaimEnd p rx s := rfl
@[simp] theorem exec_probe {p rx} {s : State} : exec (.probe p rx) s = execProbe p rx s := rfl
@[simp] theorem exec_probeAck {p rx} {s : State} : exec (.probeAck p rx) s = execProbeAck p rx s := rfl
@[simp] theorem exec_brk {p rx} {s : State} : exec (.brk p rx) s = execBrk p rx s := rfl
@[simp] theorem exec_hello {p rx} {s : State} : exec (.hello p rx) s = execHello p rx s := rfl
@[simp] theorem exec_keyShare {p rx} {s : State} : exec (.keyShare p rx) s = execKeyShare p rx s := rfl
@[simp] theorem exec_cert {p rx} {s : State} : exec (.cert p rx) s = execCert p rx s := rfl
@[simp] theorem exec_keyAuth {p rx} {s : State} : exec (.keyAuth p rx) s = execKeyAuth p rx s := rfl
@[simp] theorem exec_keyDone {p rx} {s : State} : exec (.keyDone p rx) s = execKeyDone p rx s := rfl
@[simp] theorem exec_rekeySwitch {p rx} {s : State} : exec (.rekeySwitch p rx) s = execRekeySwitch p rx s := rfl
@[simp] theorem exec_laneSwap {p rx} {s : State} : exec (.laneSwap p rx) s = execLaneSwap p rx s := rfl
@[simp] theorem exec_laneSwapAck {p rx} {s : State} : exec (.laneSwapAck p rx) s = execLaneSwapAck p rx s := rfl
@[simp] theorem exec_rs {p rx} {s : State} : exec (.rs p rx) s = execRs p rx s := rfl
@[simp] theorem exec_rsEnd {p rx} {s : State} : exec (.rsEnd p rx) s = execRsEnd p rx s := rfl
@[simp] theorem exec_ag {p rx} {s : State} : exec (.ag p rx) s = execAg p rx s := rfl
@[simp] theorem exec_agEnd {p rx} {s : State} : exec (.agEnd p rx) s = execAgEnd p rx s := rfl
@[simp] theorem exec_up {p rx} {s : State} : exec (.up p rx) s = execUp p rx s := rfl
@[simp] theorem exec_upEnd {p rx} {s : State} : exec (.upEnd p rx) s = execUpEnd p rx s := rfl
@[simp] theorem exec_down {p rx} {s : State} : exec (.down p rx) s = execDown p rx s := rfl
@[simp] theorem exec_downEnd {p rx} {s : State} : exec (.downEnd p rx) s = execDownEnd p rx s := rfl
@[simp] theorem exec_vote {p rx} {s : State} : exec (.vote p rx) s = execVote p rx s := rfl
@[simp] theorem exec_voteResult {p rx} {s : State} : exec (.voteResult p rx) s = execVoteResult p rx s := rfl
@[simp] theorem exec_stepAbort {p rx} {s : State} : exec (.stepAbort p rx) s = execStepAbort p rx s := rfl
@[simp] theorem exec_replayTimeout {p} {s : State} : exec (.replayTimeout p) s = execReplayTimeout p s := rfl
@[simp] theorem exec_livenessTimeout {p} {s : State} : exec (.livenessTimeout p) s = execLivenessTimeout p s := rfl
@[simp] theorem exec_keyingTimeout {p} {s : State} : exec (.keyingTimeout p) s = execKeyingTimeout p s := rfl
@[simp] theorem exec_keyingResend {p} {s : State} : exec (.keyingResend p) s = execKeyingResend p s := rfl
@[simp] theorem exec_readTimeout {fn tag} {s : State} : exec (.readTimeout fn tag) s = execReadTimeout fn tag s := rfl
@[simp] theorem exec_flitStall {p vc} {s : State} : exec (.flitStall p vc) s = execFlitStall p vc s := rfl
@[simp] theorem exec_claimWait {s : State} : exec .claimWait s = execClaimWait s := rfl
@[simp] theorem exec_trainingDone {p txSpare rxSpare} {s : State} :
    exec (.trainingDone p txSpare rxSpare) s = execTrainingDone p txSpare rxSpare s := rfl
@[simp] theorem exec_trainTimeout {p} {s : State} : exec (.trainTimeout p) s = execTrainTimeout p s := rfl
@[simp] theorem exec_portRetry {p} {s : State} : exec (.portRetry p) s = execPortRetry p s := rfl
@[simp] theorem exec_peerLoss {p} {s : State} : exec (.peerLoss p) s = execPeerLoss p s := rfl
@[simp] theorem exec_portEnable {fn p w} {s : State} : exec (.portEnable fn p w) s = execPortEnable fn p w s := rfl
@[simp] theorem exec_portReset {fn p w} {s : State} : exec (.portReset fn p w) s = execPortReset fn p w s := rfl
@[simp] theorem exec_portRekey {fn p w} {s : State} : exec (.portRekey fn p w) s = execPortRekey fn p w s := rfl
@[simp] theorem exec_rekeyThreshold {p} {s : State} : exec (.rekeyThreshold p) s = execRekeyThreshold p s := rfl
@[simp] theorem exec_counterLimit {p} {s : State} : exec (.counterLimit p) s = execCounterLimit p s := rfl
@[simp] theorem exec_rekeyTimeout {p} {s : State} : exec (.rekeyTimeout p) s = execRekeyTimeout p s := rfl
@[simp] theorem exec_rekeyRetry {p} {s : State} : exec (.rekeyRetry p) s = execRekeyRetry p s := rfl
@[simp] theorem exec_routeWrite {fn d w} {s : State} : exec (.routeWrite fn d w) s = execRouteWrite fn d w s := rfl
@[simp] theorem exec_bucketStart {ctx b} {s : State} : exec (.bucketStart ctx b) s = execBucketStart ctx b s := rfl
@[simp] theorem exec_heldFlitRelease {p} {s : State} : exec (.heldFlitRelease p) s = execHeldFlitRelease p s := rfl
@[simp] theorem exec_bucketComplete {ctx b} {s : State} :
    exec (.bucketComplete ctx b) s = execBucketComplete ctx b s := rfl
@[simp] theorem exec_bucketDeadline {ctx b} {s : State} :
    exec (.bucketDeadline ctx b) s = execBucketDeadline ctx b s := rfl
@[simp] theorem exec_voteTimeout {ctx} {s : State} : exec (.voteTimeout ctx) s = execVoteTimeout ctx s := rfl
@[simp] theorem exec_redResume {fn ctx w} {s : State} : exec (.redResume fn ctx w) s = execRedResume fn ctx w s := rfl
@[simp] theorem exec_redAbortStep {fn ctx w} {s : State} :
    exec (.redAbortStep fn ctx w) s = execRedAbortStep fn ctx w s := rfl
@[simp] theorem exec_normEntryAccepted {fn q} {s : State} :
    exec (.normEntryAccepted fn q) s = execNormEntryAccepted fn q s := rfl
@[simp] theorem exec_normTimeout {fn} {s : State} : exec (.normTimeout fn) s = execNormTimeout fn s := rfl
@[simp] theorem exec_shardUpdateStart {fn shard} {s : State} :
    exec (.shardUpdateStart fn shard) s = execShardUpdateStart fn shard s := rfl
@[simp] theorem exec_shardCommit {fn shard} {s : State} :
    exec (.shardCommit fn shard) s = execShardCommit fn shard s := rfl
@[simp] theorem exec_digestRecordAccepted {fn round} {s : State} :
    exec (.digestRecordAccepted fn round) s = execDigestRecordAccepted fn round s := rfl
@[simp] theorem exec_digestTimeout {fn} {s : State} : exec (.digestTimeout fn) s = execDigestTimeout fn s := rfl
@[simp] theorem exec_optRecover {fn w} {s : State} : exec (.optRecover fn w) s = execOptRecover fn w s := rfl
@[simp] theorem exec_optAdopt {fn w} {s : State} : exec (.optAdopt fn w) s = execOptAdopt fn w s := rfl
@[simp] theorem exec_queueDoorbell {fn q w} {s : State} :
    exec (.queueDoorbell fn q w) s = execQueueDoorbell fn q w s := rfl
@[simp] theorem exec_descriptorFetched {fn q ans} {s : State} :
    exec (.descriptorFetched fn q ans) s = execDescriptorFetched fn q ans s := rfl
@[simp] theorem exec_cmdNop {fn q} {s : State} : exec (.cmdNop fn q) s = execCmdNop fn q s := rfl
@[simp] theorem exec_cmdLoad {fn q} {s : State} : exec (.cmdLoad fn q) s = execCmdLoad fn q s := rfl
@[simp] theorem exec_cmdLaunch {fn q} {s : State} : exec (.cmdLaunch fn q) s = execCmdLaunch fn q s := rfl
@[simp] theorem exec_cmdStep {fn q} {s : State} : exec (.cmdStep fn q) s = execCmdStep fn q s := rfl
@[simp] theorem exec_cmdGenerate {fn q ans} {s : State} :
    exec (.cmdGenerate fn q ans) s = execCmdGenerate fn q ans s := rfl
@[simp] theorem exec_cmdMigrate {fn q} {s : State} : exec (.cmdMigrate fn q) s = execCmdMigrate fn q s := rfl
@[simp] theorem exec_servicePause {fn q} {s : State} : exec (.servicePause fn q) s = execServicePause fn q s := rfl
@[simp] theorem exec_serviceResume {fn q} {s : State} : exec (.serviceResume fn q) s = execServiceResume fn q s := rfl
@[simp] theorem exec_serviceStop {fn q} {s : State} : exec (.serviceStop fn q) s = execServiceStop fn q s := rfl
@[simp] theorem exec_completionWrite {fn q st} {s : State} :
    exec (.completionWrite fn q st) s = execCompletionWrite fn q st s := rfl
@[simp] theorem exec_completionDoorbell {fn q w} {s : State} :
    exec (.completionDoorbell fn q w) s = execCompletionDoorbell fn q w s := rfl
@[simp] theorem exec_queueEnable {fn q w} {s : State} : exec (.queueEnable fn q w) s = execQueueEnable fn q w s := rfl
@[simp] theorem exec_queueDisable {fn q w} {s : State} :
    exec (.queueDisable fn q w) s = execQueueDisable fn q w s := rfl
@[simp] theorem exec_controllerWatchdogWrite {die core} {s : State} :
    exec (.controllerWatchdogWrite die core) s = execControllerWatchdogWrite die core s := rfl
@[simp] theorem exec_controllerRestart {die} {s : State} :
    exec (.controllerRestart die) s = execControllerRestart die s := rfl
@[simp] theorem exec_controllerRestartDone {die} {s : State} :
    exec (.controllerRestartDone die) s = execControllerRestartDone die s := rfl
@[simp] theorem exec_stepRecordWrite {fn} {s : State} : exec (.stepRecordWrite fn) s = execStepRecordWrite fn s := rfl
@[simp] theorem exec_genPoll {fn ans} {s : State} : exec (.genPoll fn ans) s = execGenPoll fn ans s := rfl
@[simp] theorem exec_eventBitClear {fn off w} {s : State} :
    exec (.eventBitClear fn off w) s = execEventBitClear fn off w s := rfl
@[simp] theorem exec_eventRouteWrite {fn k w} {s : State} :
    exec (.eventRouteWrite fn k w) s = execEventRouteWrite fn k w s := rfl
@[simp] theorem exec_registerWrite {fn off w} {s : State} :
    exec (.registerWrite fn off w) s = execRegisterWrite fn off w s := rfl
@[simp] theorem exec_functionEnable {fn f w} {s : State} :
    exec (.functionEnable fn f w) s = execFunctionEnable fn f w s := rfl
@[simp] theorem exec_enableComplete {f} {s : State} : exec (.enableComplete f) s = execEnableComplete f s := rfl
@[simp] theorem exec_functionDisable {fn f w} {s : State} :
    exec (.functionDisable fn f w) s = execFunctionDisable fn f w s := rfl
@[simp] theorem exec_grantCtlReset {fn f w} {s : State} :
    exec (.grantCtlReset fn f w) s = execGrantCtlReset fn f w s := rfl
@[simp] theorem exec_fnCtlReset {fn w} {s : State} : exec (.fnCtlReset fn w) s = execFnCtlReset fn w s := rfl
@[simp] theorem exec_shutdownComplete {f} {s : State} : exec (.shutdownComplete f) s = execShutdownComplete f s := rfl
@[simp] theorem exec_grantWrite {fn off w} {s : State} :
    exec (.grantWrite fn off w) s = execGrantWrite fn off w s := rfl
@[simp] theorem exec_keyRotate {fn w} {s : State} : exec (.keyRotate fn w) s = execKeyRotate fn w s := rfl
@[simp] theorem exec_rotationKeyLoaded {f} {s : State} :
    exec (.rotationKeyLoaded f) s = execRotationKeyLoaded f s := rfl
@[simp] theorem exec_sweepPageStart {f port upset} {s : State} :
    exec (.sweepPageStart f port upset) s = execSweepPageStart f port upset s := rfl
@[simp] theorem exec_sweepPageDone {f port} {s : State} :
    exec (.sweepPageDone f port) s = execSweepPageDone f port s := rfl
@[simp] theorem exec_drbgHealthFail {test} {s : State} :
    exec (.drbgHealthFail test) s = execDrbgHealthFail test s := rfl
@[simp] theorem exec_drbgReseed {s : State} : exec .drbgReseed s = execDrbgReseed s := rfl
@[simp] theorem exec_getVersion {bind req} {s : State} :
    exec (.getVersion bind req) s = execGetVersion bind req s := rfl
@[simp] theorem exec_getCapabilities {bind req} {s : State} :
    exec (.getCapabilities bind req) s = execGetCapabilities bind req s := rfl
@[simp] theorem exec_negotiateAlgorithms {bind req} {s : State} :
    exec (.negotiateAlgorithms bind req) s = execNegotiateAlgorithms bind req s := rfl
@[simp] theorem exec_getDigests {bind req} {s : State} :
    exec (.getDigests bind req) s = execGetDigests bind req s := rfl
@[simp] theorem exec_getCertificate {bind req} {s : State} :
    exec (.getCertificate bind req) s = execGetCertificate bind req s := rfl
@[simp] theorem exec_challenge {bind req} {s : State} : exec (.challenge bind req) s = execChallenge bind req s := rfl
@[simp] theorem exec_getMeasurements {bind req} {s : State} :
    exec (.getMeasurements bind req) s = execGetMeasurements bind req s := rfl
@[simp] theorem exec_spdmUnsupported {bind req} {s : State} :
    exec (.spdmUnsupported bind req) s = execSpdmUnsupported bind req s := rfl
@[simp] theorem exec_harbourWatchdog {s : State} : exec .harbourWatchdog s = execHarbourWatchdog s := rfl
@[simp] theorem exec_hbrEvtClear {fn w} {s : State} : exec (.hbrEvtClear fn w) s = execHbrEvtClear fn w s := rfl
@[simp] theorem exec_hbrEvtRouteWrite {fn w} {s : State} :
    exec (.hbrEvtRouteWrite fn w) s = execHbrEvtRouteWrite fn w s := rfl
@[simp] theorem exec_wakeRequest {islet} {s : State} : exec (.wakeRequest islet) s = execWakeRequest islet s := rfl
@[simp] theorem exec_dvfsRequest {die point} {s : State} :
    exec (.dvfsRequest die point) s = execDvfsRequest die point s := rfl
@[simp] theorem exec_govWindowStart {s : State} : exec .govWindowStart s = execGovWindowStart s := rfl
@[simp] theorem exec_chargeEnd {die} {s : State} : exec (.chargeEnd die) s = execChargeEnd die s := rfl
@[simp] theorem exec_govCfgWrite {fn w} {s : State} : exec (.govCfgWrite fn w) s = execGovCfgWrite fn w s := rfl
@[simp] theorem exec_dvfsVoltageSettled {die} {s : State} :
    exec (.dvfsVoltageSettled die) s = execDvfsVoltageSettled die s := rfl
@[simp] theorem exec_tempSample {temps dram} {s : State} :
    exec (.tempSample temps dram) s = execTempSample temps dram s := rfl
@[simp] theorem exec_thermalCapStep {die} {s : State} : exec (.thermalCapStep die) s = execThermalCapStep die s := rfl
@[simp] theorem exec_leadRequest {west} {s : State} : exec (.leadRequest west) s = execLeadRequest west s := rfl
@[simp] theorem exec_leadRelease {s : State} : exec .leadRelease s = execLeadRelease s := rfl
@[simp] theorem exec_leadGrant {s : State} : exec .leadGrant s = execLeadGrant s := rfl
@[simp] theorem exec_leadHoldTimeout {s : State} : exec .leadHoldTimeout s = execLeadHoldTimeout s := rfl
@[simp] theorem exec_leaderTakeover {west} {s : State} :
    exec (.leaderTakeover west) s = execLeaderTakeover west s := rfl
@[simp] theorem exec_gateActionArrive {act gate} {s : State} :
    exec (.gateActionArrive act gate) s = execGateActionArrive act gate s := rfl
@[simp] theorem exec_gateResponse {act} {s : State} : exec (.gateResponse act) s = execGateResponse act s := rfl
@[simp] theorem exec_gateGo {act gate} {s : State} : exec (.gateGo act gate) s = execGateGo act gate s := rfl
@[simp] theorem exec_gateDrop {act gate} {s : State} : exec (.gateDrop act gate) s = execGateDrop act gate s := rfl
@[simp] theorem exec_gateTimeout {act gate} {s : State} :
    exec (.gateTimeout act gate) s = execGateTimeout act gate s := rfl
@[simp] theorem exec_snapshotGo {fn w} {s : State} : exec (.snapshotGo fn w) s = execSnapshotGo fn w s := rfl
@[simp] theorem exec_snapshotUnitAccept {island} {s : State} :
    exec (.snapshotUnitAccept island) s = execSnapshotUnitAccept island s := rfl
@[simp] theorem exec_warmReset {fn w} {s : State} : exec (.warmReset fn w) s = execWarmReset fn w s := rfl
@[simp] theorem exec_stackReset {fn w} {s : State} : exec (.stackReset fn w) s = execStackReset fn w s := rfl
@[simp] theorem exec_stackResetDone {stack} {s : State} :
    exec (.stackResetDone stack) s = execStackResetDone stack s := rfl
@[simp] theorem exec_bootReady {mlCaps mlBad} {s : State} :
    exec (.bootReady mlCaps mlBad) s = execBootReady mlCaps mlBad s := rfl
@[simp] theorem exec_readyTimeout {s : State} : exec .readyTimeout s = execReadyTimeout s := rfl
@[simp] theorem exec_trialTimeout {s : State} : exec .trialTimeout s = execTrialTimeout s := rfl
@[simp] theorem exec_fwStage {fn w} {s : State} : exec (.fwStage fn w) s = execFwStage fn w s := rfl
@[simp] theorem exec_fwStageDone {ans} {s : State} : exec (.fwStageDone ans) s = execFwStageDone ans s := rfl
@[simp] theorem exec_fwCancel {fn w} {s : State} : exec (.fwCancel fn w) s = execFwCancel fn w s := rfl
@[simp] theorem exec_journalCommit {badBlock} {s : State} :
    exec (.journalCommit badBlock) s = execJournalCommit badBlock s := rfl
@[simp] theorem exec_journalCompact {fn w} {s : State} :
    exec (.journalCompact fn w) s = execJournalCompact fn w s := rfl
@[simp] theorem exec_journalCompactionDone {s : State} :
    exec .journalCompactionDone s = execJournalCompactionDone s := rfl
@[simp] theorem exec_mctpInGo {fn w} {s : State} : exec (.mctpInGo fn w) s = execMctpInGo fn w s := rfl
@[simp] theorem exec_mctpOutAck {fn w} {s : State} : exec (.mctpOutAck fn w) s = execMctpOutAck fn w s := rfl
@[simp] theorem exec_setEndpointId {bind req} {s : State} :
    exec (.setEndpointId bind req) s = execSetEndpointId bind req s := rfl
@[simp] theorem exec_getEndpointId {bind req} {s : State} :
    exec (.getEndpointId bind req) s = execGetEndpointId bind req s := rfl
@[simp] theorem exec_getMctpVersionSupport {bind req} {s : State} :
    exec (.getMctpVersionSupport bind req) s = execGetMctpVersionSupport bind req s := rfl
@[simp] theorem exec_getMessageTypeSupport {bind req} {s : State} :
    exec (.getMessageTypeSupport bind req) s = execGetMessageTypeSupport bind req s := rfl
@[simp] theorem exec_getTid {bind req} {s : State} : exec (.getTid bind req) s = execGetTid bind req s := rfl
@[simp] theorem exec_setTid {bind req} {s : State} : exec (.setTid bind req) s = execSetTid bind req s := rfl
@[simp] theorem exec_getPldmVersion {bind req} {s : State} :
    exec (.getPldmVersion bind req) s = execGetPldmVersion bind req s := rfl
@[simp] theorem exec_getPldmTypes {bind req} {s : State} :
    exec (.getPldmTypes bind req) s = execGetPldmTypes bind req s := rfl
@[simp] theorem exec_getPldmCommands {bind req} {s : State} :
    exec (.getPldmCommands bind req) s = execGetPldmCommands bind req s := rfl
@[simp] theorem exec_getPdrRepositoryInfo {bind req} {s : State} :
    exec (.getPdrRepositoryInfo bind req) s = execGetPdrRepositoryInfo bind req s := rfl
@[simp] theorem exec_getPdr {bind req} {s : State} : exec (.getPdr bind req) s = execGetPdr bind req s := rfl
@[simp] theorem exec_getSensorReading {bind req} {s : State} :
    exec (.getSensorReading bind req) s = execGetSensorReading bind req s := rfl
@[simp] theorem exec_getStateSensorReadings {bind req} {s : State} :
    exec (.getStateSensorReadings bind req) s = execGetStateSensorReadings bind req s := rfl
@[simp] theorem exec_pldmFirmwareUpdate {bind src} {s : State} :
    exec (.pldmFirmwareUpdate bind src) s = execPldmFirmwareUpdate bind src s := rfl
@[simp] theorem exec_pldmUnsupported {bind req} {s : State} :
    exec (.pldmUnsupported bind req) s = execPldmUnsupported bind req s := rfl
@[simp] theorem exec_entdaa {addr} {s : State} : exec (.entdaa addr) s = execEntdaa addr s := rfl
@[simp] theorem exec_setdasa {static addr} {s : State} :
    exec (.setdasa static addr) s = execSetdasa static addr s := rfl
@[simp] theorem exec_bypass {s : State} : exec .bypass s = execBypass s := rfl
@[simp] theorem exec_idcode {s : State} : exec .idcode s = execIdcode s := rfl
@[simp] theorem exec_samplePreload {preload captured} {s : State} :
    exec (.samplePreload preload captured) s = execSamplePreload preload captured s := rfl
@[simp] theorem exec_extest {s : State} : exec .extest s = execExtest s := rfl
@[simp] theorem exec_clamp {s : State} : exec .clamp s = execClamp s := rfl
@[simp] theorem exec_highz {s : State} : exec .highz s = execHighz s := rfl
@[simp] theorem exec_extestPulse {s : State} : exec .extestPulse s = execExtestPulse s := rfl
@[simp] theorem exec_extestTrain {s : State} : exec .extestTrain s = execExtestTrain s := rfl
@[simp] theorem exec_resetNAssert {s : State} : exec .resetNAssert s = execResetNAssert s := rfl
@[simp] theorem exec_resetNRelease {s : State} : exec .resetNRelease s = execResetNRelease s := rfl
@[simp] theorem exec_pwrGoodNAssert {s : State} : exec .pwrGoodNAssert s = execPwrGoodNAssert s := rfl
@[simp] theorem exec_pwrGoodNRelease {s : State} : exec .pwrGoodNRelease s = execPwrGoodNRelease s := rfl
@[simp] theorem exec_testEnAssert {s : State} : exec .testEnAssert s = execTestEnAssert s := rfl
@[simp] theorem exec_testEnRelease {s : State} : exec .testEnRelease s = execTestEnRelease s := rfl
@[simp] theorem exec_refclkFault {s : State} : exec .refclkFault s = execRefclkFault s := rfl
@[simp] theorem exec_powerLoss {s : State} : exec .powerLoss s = execPowerLoss s := rfl
@[simp] theorem exec_harbourWatchdogWrite {core} {s : State} :
    exec (.harbourWatchdogWrite core) s = execHarbourWatchdogWrite core s := rfl
@[simp] theorem exec_mainlandPortTrainingLoss {port} {s : State} :
    exec (.mainlandPortTrainingLoss port) s = execMainlandPortTrainingLoss port s := rfl
@[simp] theorem exec_mainlandPortRetrained {port} {s : State} :
    exec (.mainlandPortRetrained port) s = execMainlandPortRetrained port s := rfl
@[simp] theorem exec_mainlandRefresh {port rfm} {s : State} :
    exec (.mainlandRefresh port rfm) s = execMainlandRefresh port rfm s := rfl
@[simp] theorem exec_shardDigestReadDone {fn shard} {s : State} :
    exec (.shardDigestReadDone fn shard) s = execShardDigestReadDone fn shard s := rfl
@[simp] theorem exec_adoptRegenerationDone {fn} {s : State} :
    exec (.adoptRegenerationDone fn) s = execAdoptRegenerationDone fn s := rfl

end Sys2Proof.Machine
end

