-- ==== Sys2Proof/Laws/Store.lean ====
section
/-! SUPPORT. Laws of stores and memories: read after write, other keys unchanged, and the canonical form kept by every
operation. -/

namespace Sys2Proof.Machine

variable {α : Type}

@[simp] theorem storeGet_nil (d : α) (k : Nat) : storeGet d [] k = d := rfl

theorem storeGet_cons (d : α) (j : Nat) (v : α) (st : Store α) (k : Nat) :
    storeGet d ((j, v) :: st) k = if j = k then v else storeGet d st k := rfl

/-! ## Read after write -/

theorem storeGet_filter (d : α) (p : Nat → Bool) (st : Store α) (k : Nat) :
    storeGet d (st.filter (fun e => p e.1)) k = if p k then storeGet d st k else d := by
  induction st with
  | nil => simp
  | cons e st ih =>
    obtain ⟨j, v⟩ := e
    by_cases hp : p j = true
    · rw [List.filter_cons_of_pos (by simpa using hp), storeGet_cons, storeGet_cons, ih]
      by_cases hj : j = k
      · subst hj; simp [hp]
      · simp [hj]
    · rw [List.filter_cons_of_neg (by simpa using hp), storeGet_cons, ih]
      by_cases hj : j = k
      · subst hj; simp [hp]
      · simp [hj]

theorem storeGet_storeErase (d : α) (st : Store α) (k j : Nat) :
    storeGet d (storeErase st k) j = if j = k then d else storeGet d st j := by
  have h := storeGet_filter d (fun x => decide (x ≠ k)) st j
  simp only [storeErase]
  rw [h]
  by_cases h : j = k <;> simp [h]

theorem storeErase_ne (st : Store α) (k : Nat) : ∀ e ∈ storeErase st k, e.1 ≠ k := by
  intro e he
  simpa using (List.mem_filter.1 he).2

theorem storeGet_storeInsert (d : α) (k : Nat) (v : α) (st : Store α) (j : Nat) (h : ∀ e ∈ st, e.1 ≠ k) :
    storeGet d (storeInsert k v st) j = if j = k then v else storeGet d st j := by
  induction st with
  | nil => simp [storeInsert, storeGet_cons, eq_comm]
  | cons e st ih =>
    obtain ⟨i, w⟩ := e
    have hi : i ≠ k := h (i, w) (by simp)
    have ih := ih (fun e he => h e (by simp [he]))
    simp only [storeInsert]
    split
    · rw [storeGet_cons]
      by_cases hk : k = j
      · simp [hk]
      · simp [hk, Ne.symm hk]
    · rw [storeGet_cons, storeGet_cons, ih]
      by_cases hj : i = j
      · subst hj; simp [hi]
      · simp [hj]

/-! ## Rising keys -/

theorem storeRising_mono (lo lo' : Nat) (st : Store α) (h : lo' ≤ lo) (hs : storeRising lo st = true) :
    storeRising lo' st = true := by
  cases st with
  | nil => rfl
  | cons e st =>
    obtain ⟨k, v⟩ := e
    simp only [storeRising, Bool.and_eq_true, decide_eq_true_eq] at *
    exact ⟨by omega, hs.2⟩

theorem storeRising_filter (p : Nat × α → Bool) (lo : Nat) (st : Store α) (h : storeRising lo st = true) :
    storeRising lo (st.filter p) = true := by
  induction st generalizing lo with
  | nil => rfl
  | cons e st ih =>
    obtain ⟨k, v⟩ := e
    simp only [storeRising, Bool.and_eq_true, decide_eq_true_eq] at h
    by_cases hp : p (k, v) = true
    · rw [List.filter_cons_of_pos hp]
      simp only [storeRising, Bool.and_eq_true, decide_eq_true_eq]
      exact ⟨h.1, ih _ h.2⟩
    · rw [List.filter_cons_of_neg hp]
      exact storeRising_mono (k + 1) lo _ (by omega) (ih _ h.2)

theorem storeRising_storeInsert (lo k : Nat) (v : α) (st : Store α) (hk : lo ≤ k) (h : storeRising lo st = true)
    (hn : ∀ e ∈ st, e.1 ≠ k) : storeRising lo (storeInsert k v st) = true := by
  induction st generalizing lo with
  | nil => simp [storeInsert, storeRising, hk]
  | cons e st ih =>
    obtain ⟨j, w⟩ := e
    have hj : j ≠ k := hn (j, w) (by simp)
    simp only [storeRising, Bool.and_eq_true, decide_eq_true_eq] at h
    simp only [storeInsert]
    split
    · simp only [storeRising, Bool.and_eq_true, decide_eq_true_eq]
      exact ⟨hk, by omega, h.2⟩
    · simp only [storeRising, Bool.and_eq_true, decide_eq_true_eq]
      exact ⟨h.1, ih _ (by omega) h.2 (fun e he => hn e (by simp [he]))⟩

theorem mem_storeInsert (k : Nat) (v : α) (st : Store α) (e : Nat × α) (h : e ∈ storeInsert k v st) :
    e = (k, v) ∨ e ∈ st := by
  induction st with
  | nil => simpa [storeInsert] using h
  | cons x st ih =>
    obtain ⟨j, w⟩ := x
    simp only [storeInsert] at h
    split at h
    · simpa using h
    · rcases List.mem_cons.1 h with h | h
      · right; simp [h]
      · rcases ih h with h | h
        · left; exact h
        · right; simp [h]

variable [DecidableEq α]

/-- A store reads as written at the key written, and as before elsewhere. -/
theorem storeGet_storeSet (d : α) (st : Store α) (k : Nat) (v : α) (j : Nat) :
    storeGet d (storeSet d st k v) j = if j = k then v else storeGet d st j := by
  simp only [storeSet]
  split
  · rename_i h
    rw [storeGet_storeErase, h]
  · rw [storeGet_storeInsert _ _ _ _ _ (storeErase_ne st k), storeGet_storeErase]
    by_cases h : j = k <;> simp [h]

@[simp] theorem storeGet_storeSet_self (d : α) (st : Store α) (k : Nat) (v : α) :
    storeGet d (storeSet d st k v) k = v := by simp [storeGet_storeSet]

theorem storeGet_storeSet_ne (d : α) (st : Store α) (k j : Nat) (v : α) (h : j ≠ k) :
    storeGet d (storeSet d st k v) j = storeGet d st j := by simp [storeGet_storeSet, h]

/-- At another key a store reads as before, whatever an unlisted key is said to read as. -/
theorem storeGet_storeSet_other (d d' : α) (st : Store α) (k j : Nat) (v : α) (h : j ≠ k) :
    storeGet d' (storeSet d st k v) j = storeGet d' st j := by
  simp only [storeSet]
  split
  · rw [storeGet_storeErase, if_neg h]
  · rw [storeGet_storeInsert _ _ _ _ _ (storeErase_ne st k), storeGet_storeErase, if_neg h, if_neg h]

/-! ## The canonical form -/

/-- Filtering keeps the canonical form. -/
theorem storeWf_filter (d : Nat → α) (p : Nat × α → Bool) (st : Store α) (h : storeWf d st = true) :
    storeWf d (st.filter p) = true := by
  simp only [storeWf, Bool.and_eq_true, List.all_eq_true] at *
  exact ⟨storeRising_filter p 0 st h.1, fun e he => h.2 e (List.mem_filter.1 he).1⟩

/-- A write keeps the canonical form. -/
theorem storeWf_storeSet (d : Nat → α) (st : Store α) (k : Nat) (v : α) (h : storeWf d st = true) :
    storeWf d (storeSet (d k) st k v) = true := by
  have he : storeWf d (storeErase st k) = true := storeWf_filter d _ st h
  simp only [storeSet]
  split
  · exact he
  · rename_i hv
    simp only [storeWf, Bool.and_eq_true, List.all_eq_true] at *
    refine ⟨storeRising_storeInsert 0 k v _ (by omega) he.1 (storeErase_ne st k), ?_⟩
    intro e hm
    rcases mem_storeInsert k v _ e hm with rfl | hm
    · simpa using hv
    · exact he.2 e hm

/-! ## Memory -/

theorem memByte_memPut (m : Memory) (a : Nat) (b : Byte) (x : Nat) :
    memByte (memPut m a b) x = if x = a then b else memByte m x := by
  simp [memByte, memPut, storeGet_storeSet]

theorem Memory.wf_memPut (m : Memory) (a : Nat) (b : Byte) (h : Memory.wf m = true) : Memory.wf (memPut m a b) = true :=
  storeWf_storeSet (fun _ => 0) m a b h

theorem Memory.wf_memWrite (m : Memory) (a : Nat) (bs : List Byte) (h : Memory.wf m = true) :
    Memory.wf (memWrite m a bs) = true := by
  induction bs generalizing m a with
  | nil => exact h
  | cons b bs ih => exact ih _ _ (Memory.wf_memPut m a b h)

theorem Memory.wf_memClear (m : Memory) (a n : Nat) (h : Memory.wf m = true) : Memory.wf (memClear m a n) = true :=
  storeWf_filter (fun _ => 0) _ m h

theorem Memory.wf_foldl {β : Type} (f : Memory → β → Memory) (l : List β) (m : Memory)
    (hf : ∀ m b, Memory.wf m = true → Memory.wf (f m b) = true) (h : Memory.wf m = true) :
    Memory.wf (l.foldl f m) = true := by
  induction l generalizing m with
  | nil => exact h
  | cons b l ih => exact ih _ (hf m b h)

theorem Memory.wf_memCopy (source target : Memory) (src dst n : Nat) (h : Memory.wf target = true) :
    Memory.wf (memCopy source src target dst n) = true :=
  Memory.wf_foldl _ _ _ (fun m _ hm => Memory.wf_memPut m _ _ hm) (Memory.wf_memClear target dst n h)

/-- A byte outside the written bytes is as before; a written byte is the one written. -/
theorem memByte_memWrite (m : Memory) (a : Nat) (bs : List Byte) (x : Nat) :
    memByte (memWrite m a bs) x = if a ≤ x ∧ x < a + bs.length then bs.getD (x - a) 0 else memByte m x := by
  induction bs generalizing m a with
  | nil => simp [memWrite]
  | cons b bs ih =>
    rw [memWrite, ih, memByte_memPut]
    by_cases h1 : x = a
    · subst h1; simp
    · by_cases h2 : a ≤ x ∧ x < a + (b :: bs).length
      · have h3 : a + 1 ≤ x ∧ x < a + 1 + bs.length := by simp at h2; omega
        have h4 : x - a = (x - (a + 1)) + 1 := by omega
        rw [if_pos h3, if_pos h2, h4]; simp
      · have h3 : ¬ (a + 1 ≤ x ∧ x < a + 1 + bs.length) := by simp at h2; omega
        rw [if_neg h3, if_neg h2, if_neg h1]

theorem memByte_memWrite_outside (m : Memory) (a : Nat) (bs : List Byte) (x : Nat) (h : x < a ∨ a + bs.length ≤ x) :
    memByte (memWrite m a bs) x = memByte m x := by
  rw [memByte_memWrite, if_neg (by omega)]

theorem memByte_memClear (m : Memory) (a n x : Nat) :
    memByte (memClear m a n) x = if a ≤ x ∧ x < a + n then 0 else memByte m x := by
  have h := storeGet_filter (0 : Byte) (fun k => decide (k < a) || decide (a + n ≤ k)) m x
  simp only [memByte, memClear, storeEraseRange]
  rw [h]
  by_cases h1 : a ≤ x ∧ x < a + n
  · rw [if_pos h1, if_neg]; simp; omega
  · rw [if_neg h1, if_pos]; simp; omega

@[simp] theorem memRead_length (m : Memory) (a n : Nat) : (memRead m a n).length = n := by
  induction n generalizing a with
  | zero => rfl
  | succ n ih => simp [memRead, ih]

theorem memRead_memWrite_outside (m : Memory) (a : Nat) (bs : List Byte) (x n : Nat) (h : x + n ≤ a ∨ a + bs.length ≤ x) :
    memRead (memWrite m a bs) x n = memRead m x n := by
  induction n generalizing x with
  | zero => rfl
  | succ n ih =>
    rw [memRead, memRead, ih _ (by omega), memByte_memWrite_outside _ _ _ _ (by omega)]

theorem memRead_memWrite (m : Memory) (a : Nat) (bs : List Byte) : memRead (memWrite m a bs) a bs.length = bs := by
  induction bs generalizing m a with
  | nil => rfl
  | cons b bs ih =>
    simp only [List.length_cons, memWrite, memRead, ih]
    congr 1
    rw [memByte_memWrite_outside _ _ _ _ (by omega), memByte_memPut, if_pos rfl]

end Sys2Proof.Machine
end

