-- ==== Sys2Proof/Laws/Frames.lean ====
section
/-! SUPPORT. Bytes stored into a frame: where they stand, that they read back, and what stays. -/

namespace Sys2Proof.Machine

/-- The bytes of a frame lie at different places. -/
def frameApart (f : Frame) : Prop := ∀ a b, a < 65536 → b < 65536 → frameByte f a = frameByte f b → a = b

/-- A row in each pseudo-channel of a stack is such a frame. -/
theorem frameApart_spread (st row : Nat) : frameApart (.spread st row) := by
  intro a b ha hb h
  unfold frameByte rowKey at h
  dsimp only at h
  omega

/-- Bytes put one by one leave every other place as it is. -/
theorem putBytes_outside (g : Nat → Nat) (bs : List Byte) (n : Nat) (m : Memory) (x : Nat)
    (h : ∀ k, k < bs.length → x ≠ g (n + k)) :
    memByte ((bs.zipIdx n).foldl (fun m e => memPut m (g e.2) e.1) m) x = memByte m x := by
  induction bs generalizing n m with
  | nil => rfl
  | cons b bs ih =>
    rw [List.zipIdx_cons, List.foldl_cons, ih (n + 1) _ fun k hk => by
      have := h (k + 1) (by simp only [List.length_cons]; omega)
      rwa [show n + 1 + k = n + (k + 1) by omega], memByte_memPut, if_neg]
    exact h 0 (by simp)

/-- Bytes put one by one at different places read back. -/
theorem putBytes_inside (g : Nat → Nat) (bs : List Byte) (n : Nat) (m : Memory) (k : Nat) (hk : k < bs.length)
    (h : ∀ i j, i < bs.length → j < bs.length → g (n + i) = g (n + j) → i = j) :
    memByte ((bs.zipIdx n).foldl (fun m e => memPut m (g e.2) e.1) m) (g (n + k)) = bs[k] := by
  induction bs generalizing n m k with
  | nil => cases hk
  | cons b bs ih =>
    rw [List.zipIdx_cons, List.foldl_cons]
    cases k with
    | zero =>
      rw [putBytes_outside g bs (n + 1) _ _ fun k hk e => by
        have := h 0 (k + 1) (by simp) (by simp only [List.length_cons]; omega) (by rw [e]; congr 1; omega)
        omega]
      rw [memByte_memPut, if_pos (by rfl)]
      rfl
    | succ k =>
      have hk' : k < bs.length := by simpa using hk
      have := ih (n + 1) (memPut m (g n) b) k hk' fun i j hi hj e => by
        have := h (i + 1) (j + 1) (by simp only [List.length_cons]; omega) (by simp only [List.length_cons]; omega)
          (by rw [show n + (i + 1) = n + 1 + i by omega, show n + (j + 1) = n + 1 + j by omega]; exact e)
        omega
      rw [show n + (k + 1) = n + 1 + k by omega]
      simpa using this

/-- Bytes stored into a frame leave every other place as it is. -/
theorem State.putFrame_outside (s : State) (f : Frame) (off : Nat) (bs : List Byte) (x : Nat)
    (h : ∀ k, k < bs.length → x ≠ frameByte f (off + k)) : memByte (s.putFrame f off bs).mem x = memByte s.mem x :=
  putBytes_outside (fun k => frameByte f (off + k)) bs 0 s.mem x (by simpa using h)

/-- Bytes stored into a frame read back. -/
theorem State.putFrame_inside (s : State) (f : Frame) (off : Nat) (bs : List Byte) (k : Nat) (hk : k < bs.length)
    (hf : frameApart f) (ho : off + bs.length ≤ 65536) : memByte (s.putFrame f off bs).mem (frameByte f (off + k)) = bs[k] := by
  have := putBytes_inside (fun k => frameByte f (off + k)) bs 0 s.mem k hk (fun i j hi hj e => by
    have := hf (off + i) (off + j) (by omega) (by omega) (by simpa using e)
    omega)
  simp only [Nat.zero_add] at this
  exact this

theorem State.putFrame_eq (s : State) (f : Frame) (off : Nat) (bs : List Byte) :
    s.putFrame f off bs = { s with mem := (s.putFrame f off bs).mem } := rfl

/-- The effect of writing a frame's units where none has an error: the bytes go to their places, errors stay absent, nothing else
changes. -/
structure Wrote (f : Frame) (off : Nat) (bs : List Byte) (done : Nat → Bool) (s t : State) : Prop where
  rest : t = { s with mem := t.mem, bad := t.bad }
  clean : ∀ key, storeGet [] s.bad key = [] → storeGet [] t.bad key = []
  outside : ∀ x, (∀ k, k < bs.length → x ≠ frameByte f (off + k)) → memByte t.mem x = memByte s.mem x
  inside : ∀ k (h : k < bs.length), memByte t.mem (frameByte f (off + k)) = if done k then bs[k] else memByte s.mem (frameByte f (off + k))

/-- Units of a frame written in turn. -/
theorem State.writeUnits (s : State) (src : Source) (fn : Nat) (f : Frame) (off : Nat) (bs : List Byte) (pageAddr : Option Nat)
    (hf : frameApart f) (ho : off + bs.length ≤ 65536) (st : Status) (us : List Nat)
    (hu : ∀ u ∈ us, storeGet [] s.bad (errKey (frameByte f u)) = []) :
    ∃ t, us.foldl (fun acc u =>
      let (s, st) := acc
      let lo := max u off
      let hi := min (u + frameUnit f) (off + bs.length)
      let part := (bs.drop (lo - off)).take (hi - lo)
      let phys := frameByte f u
      if part.length = frameUnit f then
        ((s.setErrors phys []).putFrame f lo part, st)
      else
        let (s, good) := s.decodeUnit src fn f phys (pageAddr.map (· + u))
        if good then ((s.setErrors phys []).putFrame f lo part, st)
        else (s, .uncorrectableMem)) (s, st) = (t, st) ∧
      Wrote f off bs (fun k => us.any (fun u => decide (u ≤ off + k) && decide (off + k < u + frameUnit f))) s t := by
  induction us generalizing s with
  | nil => exact ⟨s, rfl, rfl, fun _ h => h, fun _ _ => rfl, fun _ _ => rfl⟩
  | cons u us ih =>
    rw [List.foldl_cons]
    dsimp only
    have e : s.decodeUnit src fn f (frameByte f u) (pageAddr.map (· + u)) = (s, true) := by
      simp only [State.decodeUnit, State.unitErrors, hu u (List.mem_cons_self ..), if_true]
    rw [e]
    simp only [if_true, ite_self]
    generalize hv : State.putFrame _ f (max u off) _ = v
    have k1 : v = { s with mem := v.mem, bad := v.bad } := by rw [← hv]; rfl
    have kb : v.bad = storeSet [] s.bad (errKey (frameByte f u)) [] := by rw [← hv]; rfl
    have k2 : ∀ key, storeGet [] s.bad key = [] → storeGet [] v.bad key = [] := by
      intro key hkey
      rw [kb, storeGet_storeSet]
      split
      · rfl
      · exact hkey
    obtain ⟨t, ht, w⟩ := ih v fun x hx => k2 _ (hu x (List.mem_cons_of_mem _ hx))
    have hlen : ((bs.drop (max u off - off)).take (min (u + frameUnit f) (off + bs.length) - max u off)).length =
        min (u + frameUnit f) (off + bs.length) - max u off := by
      rw [List.length_take, List.length_drop]
      omega
    refine ⟨t, ht, ?_, fun key h => w.clean key (k2 key h), fun x hx => ?_, fun k hk => ?_⟩
    · rw [w.rest, k1]
    · rw [w.outside x hx, ← hv]
      refine State.putFrame_outside _ _ _ _ _ fun k hk => ?_
      rw [hlen] at hk
      have := hx (max u off - off + k) (by omega)
      rwa [show off + (max u off - off + k) = max u off + k by omega] at this
    · rw [w.inside k hk, List.any_cons]
      by_cases hin : u ≤ off + k ∧ off + k < u + frameUnit f
      · have : memByte v.mem (frameByte f (off + k)) = bs[k] := by
          rw [← hv]
          have q := State.putFrame_inside (s.setErrors (frameByte f u) []) f (max u off)
            ((bs.drop (max u off - off)).take (min (u + frameUnit f) (off + bs.length) - max u off)) (off + k - max u off)
            (by rw [hlen]; omega) hf (by rw [hlen]; omega)
          rw [show max u off + (off + k - max u off) = off + k by omega] at q
          rw [q, List.getElem_take, List.getElem_drop]
          congr 1
          omega
        simp only [hin.1, hin.2, decide_true, Bool.true_and, Bool.true_or, if_true, this, ite_self]
      · have : memByte v.mem (frameByte f (off + k)) = memByte s.mem (frameByte f (off + k)) := by
          rw [← hv]
          refine State.putFrame_outside _ _ _ _ _ fun j hj e => hin ?_
          rw [hlen] at hj
          have := hf _ _ (by omega) (by omega) e
          omega
        have hd : (decide (u ≤ off + k) && decide (off + k < u + frameUnit f)) = false := by
          rw [Bool.and_eq_false_iff, decide_eq_false_iff_not, decide_eq_false_iff_not]; omega
        rw [hd, Bool.false_or, this]

/-- The units that an access touches cover its bytes. -/
theorem unitOffsets_cover (f : Frame) (off len k : Nat) (hk : k < len) :
    (unitOffsets f off len).any (fun u => decide (u ≤ off + k) && decide (off + k < u + frameUnit f)) = true := by
  have hU : frameUnit f = 32 ∨ frameUnit f = 64 := by cases f <;> simp [frameUnit]
  unfold unitOffsets
  dsimp only
  rw [if_neg (by omega), List.any_eq_true]
  refine ⟨(off / frameUnit f + ((off + k) / frameUnit f - off / frameUnit f)) * frameUnit f, List.mem_map.2 ⟨_, List.mem_range.2 ?_, rfl⟩, ?_⟩
  · rcases hU with h | h <;> rw [h] <;> omega
  · rw [Bool.and_eq_true, decide_eq_true_eq, decide_eq_true_eq]
    rcases hU with h | h <;> rw [h] <;> omega

/-- A write of bytes within a frame whose units have no error: they read back, every other place is as it was. -/
theorem State.writeFrame_good (s : State) (src : Source) (fn : Nat) (f : Frame) (off : Nat) (bs : List Byte) (pageAddr : Option Nat)
    (hf : frameApart f) (ho : off + bs.length ≤ 65536)
    (hu : ∀ u ∈ unitOffsets f off bs.length, storeGet [] s.bad (errKey (frameByte f u)) = []) :
    ∃ t, s.writeFrame src fn f off bs pageAddr = (t, .ok) ∧ Wrote f off bs (fun _ => true) s t := by
  obtain ⟨t, h, w⟩ := State.writeUnits s src fn f off bs pageAddr hf ho .ok (unitOffsets f off bs.length) hu
  refine ⟨t, h, w.rest, w.clean, w.outside, fun k hk => ?_⟩
  rw [w.inside k hk, unitOffsets_cover f off bs.length k hk]

/-- A read of bytes within a frame whose units have no error gives them, and changes nothing. -/
theorem State.readFrame_good (s : State) (src : Source) (fn : Nat) (f : Frame) (off len : Nat) (pageAddr : Option Nat)
    (hu : ∀ u ∈ unitOffsets f off len, storeGet [] s.bad (errKey (frameByte f u)) = []) :
    s.readFrame src fn f off len pageAddr = (s, { status := .ok, data := s.frameBytes f off len }) := by
  have k : ∀ us : List Nat, (∀ u ∈ us, storeGet [] s.bad (errKey (frameByte f u)) = []) →
      us.foldl (fun acc u =>
        let (s2, g) := acc.1.decodeUnit src fn f (frameByte f u) (pageAddr.map (· + u))
        (s2, acc.2 && g)) (s, true) = (s, true) := by
    intro us
    induction us with
    | nil => intro _; rfl
    | cons u us ih =>
      intro h
      rw [List.foldl_cons]
      have e : s.decodeUnit src fn f (frameByte f u) (pageAddr.map (· + u)) = (s, true) := by
        simp only [State.decodeUnit, State.unitErrors, h u (List.mem_cons_self ..), if_true]
      rw [e]
      exact ih fun x hx => h x (List.mem_cons_of_mem _ hx)
  unfold State.readFrame
  rw [k _ hu]
  rfl

end Sys2Proof.Machine
end

