-- ==== Sys2Proof/Laws/State.lean ====
section
/-! SUPPORT. What each named update of the state leaves unchanged, field by field and reader by reader, all by rfl. -/

namespace Sys2Proof.Machine

/-! ### setReg -/

@[simp] theorem State.setReg_pkg (s : State) (r : Reg) (a b : Nat) (w : Word) : (s.setReg r a b w).pkg = s.pkg := rfl
@[simp] theorem State.setReg_svn (s : State) (r : Reg) (a b : Nat) (w : Word) : (s.setReg r a b w).svn = s.svn := rfl
@[simp] theorem State.setReg_counts (s : State) (r : Reg) (a b : Nat) (w : Word) : (s.setReg r a b w).counts = s.counts := rfl
@[simp] theorem State.setReg_lanes (s : State) (r : Reg) (a b : Nat) (w : Word) : (s.setReg r a b w).lanes = s.lanes := rfl
@[simp] theorem State.setReg_xturn (s : State) (r : Reg) (a b : Nat) (w : Word) : (s.setReg r a b w).xturn = s.xturn := rfl
@[simp] theorem State.setReg_armed (s : State) (r : Reg) (a b : Nat) (w : Word) : (s.setReg r a b w).armed = s.armed := rfl
@[simp] theorem State.setReg_hbrArmed (s : State) (r : Reg) (a b : Nat) (w : Word) : (s.setReg r a b w).hbrArmed = s.hbrArmed := rfl
@[simp] theorem State.setReg_egress (s : State) (r : Reg) (a b : Nat) (w : Word) : (s.setReg r a b w).egress = s.egress := rfl
@[simp] theorem State.setReg_heads (s : State) (r : Reg) (a b : Nat) (w : Word) : (s.setReg r a b w).heads = s.heads := rfl
@[simp] theorem State.setReg_ports (s : State) (r : Reg) (a b : Nat) (w : Word) : (s.setReg r a b w).ports = s.ports := rfl
@[simp] theorem State.setReg_claimWait (s : State) (r : Reg) (a b : Nat) (w : Word) : (s.setReg r a b w).claimWait = s.claimWait := rfl
@[simp] theorem State.setReg_reads (s : State) (r : Reg) (a b : Nat) (w : Word) : (s.setReg r a b w).reads = s.reads := rfl
@[simp] theorem State.setReg_readsWaiting (s : State) (r : Reg) (a b : Nat) (w : Word) : (s.setReg r a b w).readsWaiting = s.readsWaiting := rfl
@[simp] theorem State.setReg_readData (s : State) (r : Reg) (a b : Nat) (w : Word) : (s.setReg r a b w).readData = s.readData := rfl
@[simp] theorem State.setReg_mem (s : State) (r : Reg) (a b : Nat) (w : Word) : (s.setReg r a b w).mem = s.mem := rfl
@[simp] theorem State.setReg_bad (s : State) (r : Reg) (a b : Nat) (w : Word) : (s.setReg r a b w).bad = s.bad := rfl
@[simp] theorem State.setReg_rowErrs (s : State) (r : Reg) (a b : Nat) (w : Word) : (s.setReg r a b w).rowErrs = s.rowErrs := rfl
@[simp] theorem State.setReg_repairs (s : State) (r : Reg) (a b : Nat) (w : Word) : (s.setReg r a b w).repairs = s.repairs := rfl
@[simp] theorem State.setReg_withdrawn (s : State) (r : Reg) (a b : Nat) (w : Word) : (s.setReg r a b w).withdrawn = s.withdrawn := rfl
@[simp] theorem State.setReg_unrepairable (s : State) (r : Reg) (a b : Nat) (w : Word) : (s.setReg r a b w).unrepairable = s.unrepairable := rfl
@[simp] theorem State.setReg_sweepBad (s : State) (r : Reg) (a b : Nat) (w : Word) : (s.setReg r a b w).sweepBad = s.sweepBad := rfl
@[simp] theorem State.setReg_fns (s : State) (r : Reg) (a b : Nat) (w : Word) : (s.setReg r a b w).fns = s.fns := rfl
@[simp] theorem State.setReg_queues (s : State) (r : Reg) (a b : Nat) (w : Word) : (s.setReg r a b w).queues = s.queues := rfl
@[simp] theorem State.setReg_islets (s : State) (r : Reg) (a b : Nat) (w : Word) : (s.setReg r a b w).islets = s.islets := rfl
@[simp] theorem State.setReg_packets (s : State) (r : Reg) (a b : Nat) (w : Word) : (s.setReg r a b w).packets = s.packets := rfl
@[simp] theorem State.setReg_launches (s : State) (r : Reg) (a b : Nat) (w : Word) : (s.setReg r a b w).launches = s.launches := rfl
@[simp] theorem State.setReg_nextLaunch (s : State) (r : Reg) (a b : Nat) (w : Word) : (s.setReg r a b w).nextLaunch = s.nextLaunch := rfl
@[simp] theorem State.setReg_pastLaunches (s : State) (r : Reg) (a b : Nat) (w : Word) : (s.setReg r a b w).pastLaunches = s.pastLaunches := rfl
@[simp] theorem State.setReg_staging (s : State) (r : Reg) (a b : Nat) (w : Word) : (s.setReg r a b w).staging = s.staging := rfl
@[simp] theorem State.setReg_stagingBusy (s : State) (r : Reg) (a b : Nat) (w : Word) : (s.setReg r a b w).stagingBusy = s.stagingBusy := rfl
@[simp] theorem State.setReg_mlPorts (s : State) (r : Reg) (a b : Nat) (w : Word) : (s.setReg r a b w).mlPorts = s.mlPorts := rfl
@[simp] theorem State.setReg_held (s : State) (r : Reg) (a b : Nat) (w : Word) : (s.setReg r a b w).held = s.held := rfl
@[simp] theorem State.setReg_served (s : State) (r : Reg) (a b : Nat) (w : Word) : (s.setReg r a b w).served = s.served := rfl
@[simp] theorem State.setReg_jobs (s : State) (r : Reg) (a b : Nat) (w : Word) : (s.setReg r a b w).jobs = s.jobs := rfl
@[simp] theorem State.setReg_lead (s : State) (r : Reg) (a b : Nat) (w : Word) : (s.setReg r a b w).lead = s.lead := rfl
@[simp] theorem State.setReg_actions (s : State) (r : Reg) (a b : Nat) (w : Word) : (s.setReg r a b w).actions = s.actions := rfl
@[simp] theorem State.setReg_nextAction (s : State) (r : Reg) (a b : Nat) (w : Word) : (s.setReg r a b w).nextAction = s.nextAction := rfl
@[simp] theorem State.setReg_snapSent (s : State) (r : Reg) (a b : Nat) (w : Word) : (s.setReg r a b w).snapSent = s.snapSent := rfl
@[simp] theorem State.setReg_restarting (s : State) (r : Reg) (a b : Nat) (w : Word) : (s.setReg r a b w).restarting = s.restarting := rfl
@[simp] theorem State.setReg_watchdogs (s : State) (r : Reg) (a b : Nat) (w : Word) : (s.setReg r a b w).watchdogs = s.watchdogs := rfl
@[simp] theorem State.setReg_records (s : State) (r : Reg) (a b : Nat) (w : Word) : (s.setReg r a b w).records = s.records := rfl
@[simp] theorem State.setReg_leases (s : State) (r : Reg) (a b : Nat) (w : Word) : (s.setReg r a b w).leases = s.leases := rfl
@[simp] theorem State.setReg_reefs (s : State) (r : Reg) (a b : Nat) (w : Word) : (s.setReg r a b w).reefs = s.reefs := rfl
@[simp] theorem State.setReg_jqueue (s : State) (r : Reg) (a b : Nat) (w : Word) : (s.setReg r a b w).jqueue = s.jqueue := rfl
@[simp] theorem State.setReg_mctpOut (s : State) (r : Reg) (a b : Nat) (w : Word) : (s.setReg r a b w).mctpOut = s.mctpOut := rfl
@[simp] theorem State.setReg_gov (s : State) (r : Reg) (a b : Nat) (w : Word) : (s.setReg r a b w).gov = s.gov := rfl
@[simp] theorem State.setReg_pins (s : State) (r : Reg) (a b : Nat) (w : Word) : (s.setReg r a b w).pins = s.pins := rfl
@[simp] theorem State.setReg_jtag (s : State) (r : Reg) (a b : Nat) (w : Word) : (s.setReg r a b w).jtag = s.jtag := rfl
@[simp] theorem State.setReg_mctp (s : State) (r : Reg) (a b : Nat) (w : Word) : (s.setReg r a b w).mctp = s.mctp := rfl
@[simp] theorem State.setReg_fw (s : State) (r : Reg) (a b : Nat) (w : Word) : (s.setReg r a b w).fw = s.fw := rfl
@[simp] theorem State.setReg_jnl (s : State) (r : Reg) (a b : Nat) (w : Word) : (s.setReg r a b w).jnl = s.jnl := rfl
@[simp] theorem State.setReg_drains (s : State) (r : Reg) (a b : Nat) (w : Word) : (s.setReg r a b w).drains = s.drains := rfl
@[simp] theorem State.setReg_enablePend (s : State) (r : Reg) (a b : Nat) (w : Word) : (s.setReg r a b w).enablePend = s.enablePend := rfl
@[simp] theorem State.setReg_rotations (s : State) (r : Reg) (a b : Nat) (w : Word) : (s.setReg r a b w).rotations = s.rotations := rfl
@[simp] theorem State.setReg_drbgCount (s : State) (r : Reg) (a b : Nat) (w : Word) : (s.setReg r a b w).drbgCount = s.drbgCount := rfl
@[simp] theorem State.setReg_freeCtr (s : State) (r : Reg) (a b : Nat) (w : Word) : (s.setReg r a b w).freeCtr = s.freeCtr := rfl
@[simp] theorem State.setReg_ticks (s : State) (r : Reg) (a b : Nat) (w : Word) : (s.setReg r a b w).ticks = s.ticks := rfl
@[simp] theorem State.setReg_pending (s : State) (r : Reg) (a b : Nat) (w : Word) : (s.setReg r a b w).pending = s.pending := rfl
@[simp] theorem State.setReg_count (s : State) (r : Reg) (a b : Nat) (w : Word) (i' : Nat) : (s.setReg r a b w).count i' = s.count i' := rfl
@[simp] theorem State.setReg_lane (s : State) (r : Reg) (a b : Nat) (w : Word) (n' : Nat) (ba' : Bool) (cls' : Nat) : (s.setReg r a b w).lane n' ba' cls' = s.lane n' ba' cls' := rfl
@[simp] theorem State.setReg_fnState (s : State) (r : Reg) (a b : Nat) (w : Word) (fn' : Nat) : (s.setReg r a b w).fnState fn' = s.fnState fn' := rfl
@[simp] theorem State.setReg_queue (s : State) (r : Reg) (a b : Nat) (w : Word) (fn' q' : Nat) : (s.setReg r a b w).queue fn' q' = s.queue fn' q' := rfl
@[simp] theorem State.setReg_islet (s : State) (r : Reg) (a b : Nat) (w : Word) (i' : Nat) : (s.setReg r a b w).islet i' = s.islet i' := rfl
@[simp] theorem State.setReg_link (s : State) (r : Reg) (a b : Nat) (w : Word) (p' : Nat) : (s.setReg r a b w).link p' = s.link p' := rfl
@[simp] theorem State.setReg_mlPort (s : State) (r : Reg) (a b : Nat) (w : Word) (p' : Nat) : (s.setReg r a b w).mlPort p' = s.mlPort p' := rfl
@[simp] theorem State.setReg_job (s : State) (r : Reg) (a b : Nat) (w : Word) (x' : Nat) : (s.setReg r a b w).job x' = s.job x' := rfl
@[simp] theorem State.setReg_isArmed (s : State) (r : Reg) (a b : Nat) (w : Word) (fn' k' : Nat) : (s.setReg r a b w).isArmed fn' k' = s.isArmed fn' k' := rfl

/-! ### setFld -/

@[simp] theorem State.setFld_pkg (s : State) (f : Fld) (a b v : Nat) : (s.setFld f a b v).pkg = s.pkg := rfl
@[simp] theorem State.setFld_svn (s : State) (f : Fld) (a b v : Nat) : (s.setFld f a b v).svn = s.svn := rfl
@[simp] theorem State.setFld_counts (s : State) (f : Fld) (a b v : Nat) : (s.setFld f a b v).counts = s.counts := rfl
@[simp] theorem State.setFld_lanes (s : State) (f : Fld) (a b v : Nat) : (s.setFld f a b v).lanes = s.lanes := rfl
@[simp] theorem State.setFld_xturn (s : State) (f : Fld) (a b v : Nat) : (s.setFld f a b v).xturn = s.xturn := rfl
@[simp] theorem State.setFld_armed (s : State) (f : Fld) (a b v : Nat) : (s.setFld f a b v).armed = s.armed := rfl
@[simp] theorem State.setFld_hbrArmed (s : State) (f : Fld) (a b v : Nat) : (s.setFld f a b v).hbrArmed = s.hbrArmed := rfl
@[simp] theorem State.setFld_egress (s : State) (f : Fld) (a b v : Nat) : (s.setFld f a b v).egress = s.egress := rfl
@[simp] theorem State.setFld_heads (s : State) (f : Fld) (a b v : Nat) : (s.setFld f a b v).heads = s.heads := rfl
@[simp] theorem State.setFld_ports (s : State) (f : Fld) (a b v : Nat) : (s.setFld f a b v).ports = s.ports := rfl
@[simp] theorem State.setFld_claimWait (s : State) (f : Fld) (a b v : Nat) : (s.setFld f a b v).claimWait = s.claimWait := rfl
@[simp] theorem State.setFld_reads (s : State) (f : Fld) (a b v : Nat) : (s.setFld f a b v).reads = s.reads := rfl
@[simp] theorem State.setFld_readsWaiting (s : State) (f : Fld) (a b v : Nat) : (s.setFld f a b v).readsWaiting = s.readsWaiting := rfl
@[simp] theorem State.setFld_readData (s : State) (f : Fld) (a b v : Nat) : (s.setFld f a b v).readData = s.readData := rfl
@[simp] theorem State.setFld_mem (s : State) (f : Fld) (a b v : Nat) : (s.setFld f a b v).mem = s.mem := rfl
@[simp] theorem State.setFld_bad (s : State) (f : Fld) (a b v : Nat) : (s.setFld f a b v).bad = s.bad := rfl
@[simp] theorem State.setFld_rowErrs (s : State) (f : Fld) (a b v : Nat) : (s.setFld f a b v).rowErrs = s.rowErrs := rfl
@[simp] theorem State.setFld_repairs (s : State) (f : Fld) (a b v : Nat) : (s.setFld f a b v).repairs = s.repairs := rfl
@[simp] theorem State.setFld_withdrawn (s : State) (f : Fld) (a b v : Nat) : (s.setFld f a b v).withdrawn = s.withdrawn := rfl
@[simp] theorem State.setFld_unrepairable (s : State) (f : Fld) (a b v : Nat) : (s.setFld f a b v).unrepairable = s.unrepairable := rfl
@[simp] theorem State.setFld_sweepBad (s : State) (f : Fld) (a b v : Nat) : (s.setFld f a b v).sweepBad = s.sweepBad := rfl
@[simp] theorem State.setFld_fns (s : State) (f : Fld) (a b v : Nat) : (s.setFld f a b v).fns = s.fns := rfl
@[simp] theorem State.setFld_queues (s : State) (f : Fld) (a b v : Nat) : (s.setFld f a b v).queues = s.queues := rfl
@[simp] theorem State.setFld_islets (s : State) (f : Fld) (a b v : Nat) : (s.setFld f a b v).islets = s.islets := rfl
@[simp] theorem State.setFld_packets (s : State) (f : Fld) (a b v : Nat) : (s.setFld f a b v).packets = s.packets := rfl
@[simp] theorem State.setFld_launches (s : State) (f : Fld) (a b v : Nat) : (s.setFld f a b v).launches = s.launches := rfl
@[simp] theorem State.setFld_nextLaunch (s : State) (f : Fld) (a b v : Nat) : (s.setFld f a b v).nextLaunch = s.nextLaunch := rfl
@[simp] theorem State.setFld_pastLaunches (s : State) (f : Fld) (a b v : Nat) : (s.setFld f a b v).pastLaunches = s.pastLaunches := rfl
@[simp] theorem State.setFld_staging (s : State) (f : Fld) (a b v : Nat) : (s.setFld f a b v).staging = s.staging := rfl
@[simp] theorem State.setFld_stagingBusy (s : State) (f : Fld) (a b v : Nat) : (s.setFld f a b v).stagingBusy = s.stagingBusy := rfl
@[simp] theorem State.setFld_mlPorts (s : State) (f : Fld) (a b v : Nat) : (s.setFld f a b v).mlPorts = s.mlPorts := rfl
@[simp] theorem State.setFld_held (s : State) (f : Fld) (a b v : Nat) : (s.setFld f a b v).held = s.held := rfl
@[simp] theorem State.setFld_served (s : State) (f : Fld) (a b v : Nat) : (s.setFld f a b v).served = s.served := rfl
@[simp] theorem State.setFld_jobs (s : State) (f : Fld) (a b v : Nat) : (s.setFld f a b v).jobs = s.jobs := rfl
@[simp] theorem State.setFld_lead (s : State) (f : Fld) (a b v : Nat) : (s.setFld f a b v).lead = s.lead := rfl
@[simp] theorem State.setFld_actions (s : State) (f : Fld) (a b v : Nat) : (s.setFld f a b v).actions = s.actions := rfl
@[simp] theorem State.setFld_nextAction (s : State) (f : Fld) (a b v : Nat) : (s.setFld f a b v).nextAction = s.nextAction := rfl
@[simp] theorem State.setFld_snapSent (s : State) (f : Fld) (a b v : Nat) : (s.setFld f a b v).snapSent = s.snapSent := rfl
@[simp] theorem State.setFld_restarting (s : State) (f : Fld) (a b v : Nat) : (s.setFld f a b v).restarting = s.restarting := rfl
@[simp] theorem State.setFld_watchdogs (s : State) (f : Fld) (a b v : Nat) : (s.setFld f a b v).watchdogs = s.watchdogs := rfl
@[simp] theorem State.setFld_records (s : State) (f : Fld) (a b v : Nat) : (s.setFld f a b v).records = s.records := rfl
@[simp] theorem State.setFld_leases (s : State) (f : Fld) (a b v : Nat) : (s.setFld f a b v).leases = s.leases := rfl
@[simp] theorem State.setFld_reefs (s : State) (f : Fld) (a b v : Nat) : (s.setFld f a b v).reefs = s.reefs := rfl
@[simp] theorem State.setFld_jqueue (s : State) (f : Fld) (a b v : Nat) : (s.setFld f a b v).jqueue = s.jqueue := rfl
@[simp] theorem State.setFld_mctpOut (s : State) (f : Fld) (a b v : Nat) : (s.setFld f a b v).mctpOut = s.mctpOut := rfl
@[simp] theorem State.setFld_gov (s : State) (f : Fld) (a b v : Nat) : (s.setFld f a b v).gov = s.gov := rfl
@[simp] theorem State.setFld_pins (s : State) (f : Fld) (a b v : Nat) : (s.setFld f a b v).pins = s.pins := rfl
@[simp] theorem State.setFld_jtag (s : State) (f : Fld) (a b v : Nat) : (s.setFld f a b v).jtag = s.jtag := rfl
@[simp] theorem State.setFld_mctp (s : State) (f : Fld) (a b v : Nat) : (s.setFld f a b v).mctp = s.mctp := rfl
@[simp] theorem State.setFld_fw (s : State) (f : Fld) (a b v : Nat) : (s.setFld f a b v).fw = s.fw := rfl
@[simp] theorem State.setFld_jnl (s : State) (f : Fld) (a b v : Nat) : (s.setFld f a b v).jnl = s.jnl := rfl
@[simp] theorem State.setFld_drains (s : State) (f : Fld) (a b v : Nat) : (s.setFld f a b v).drains = s.drains := rfl
@[simp] theorem State.setFld_enablePend (s : State) (f : Fld) (a b v : Nat) : (s.setFld f a b v).enablePend = s.enablePend := rfl
@[simp] theorem State.setFld_rotations (s : State) (f : Fld) (a b v : Nat) : (s.setFld f a b v).rotations = s.rotations := rfl
@[simp] theorem State.setFld_drbgCount (s : State) (f : Fld) (a b v : Nat) : (s.setFld f a b v).drbgCount = s.drbgCount := rfl
@[simp] theorem State.setFld_freeCtr (s : State) (f : Fld) (a b v : Nat) : (s.setFld f a b v).freeCtr = s.freeCtr := rfl
@[simp] theorem State.setFld_ticks (s : State) (f : Fld) (a b v : Nat) : (s.setFld f a b v).ticks = s.ticks := rfl
@[simp] theorem State.setFld_pending (s : State) (f : Fld) (a b v : Nat) : (s.setFld f a b v).pending = s.pending := rfl
@[simp] theorem State.setFld_count (s : State) (f : Fld) (a b v : Nat) (i' : Nat) : (s.setFld f a b v).count i' = s.count i' := rfl
@[simp] theorem State.setFld_lane (s : State) (f : Fld) (a b v : Nat) (n' : Nat) (ba' : Bool) (cls' : Nat) : (s.setFld f a b v).lane n' ba' cls' = s.lane n' ba' cls' := rfl
@[simp] theorem State.setFld_fnState (s : State) (f : Fld) (a b v : Nat) (fn' : Nat) : (s.setFld f a b v).fnState fn' = s.fnState fn' := rfl
@[simp] theorem State.setFld_queue (s : State) (f : Fld) (a b v : Nat) (fn' q' : Nat) : (s.setFld f a b v).queue fn' q' = s.queue fn' q' := rfl
@[simp] theorem State.setFld_islet (s : State) (f : Fld) (a b v : Nat) (i' : Nat) : (s.setFld f a b v).islet i' = s.islet i' := rfl
@[simp] theorem State.setFld_link (s : State) (f : Fld) (a b v : Nat) (p' : Nat) : (s.setFld f a b v).link p' = s.link p' := rfl
@[simp] theorem State.setFld_mlPort (s : State) (f : Fld) (a b v : Nat) (p' : Nat) : (s.setFld f a b v).mlPort p' = s.mlPort p' := rfl
@[simp] theorem State.setFld_job (s : State) (f : Fld) (a b v : Nat) (x' : Nat) : (s.setFld f a b v).job x' = s.job x' := rfl
@[simp] theorem State.setFld_isArmed (s : State) (f : Fld) (a b v : Nat) (fn' k' : Nat) : (s.setFld f a b v).isArmed fn' k' = s.isArmed fn' k' := rfl

/-! ### addFld -/

@[simp] theorem State.addFld_pkg (s : State) (f : Fld) (a b n : Nat) : (s.addFld f a b n).pkg = s.pkg := rfl
@[simp] theorem State.addFld_svn (s : State) (f : Fld) (a b n : Nat) : (s.addFld f a b n).svn = s.svn := rfl
@[simp] theorem State.addFld_counts (s : State) (f : Fld) (a b n : Nat) : (s.addFld f a b n).counts = s.counts := rfl
@[simp] theorem State.addFld_lanes (s : State) (f : Fld) (a b n : Nat) : (s.addFld f a b n).lanes = s.lanes := rfl
@[simp] theorem State.addFld_xturn (s : State) (f : Fld) (a b n : Nat) : (s.addFld f a b n).xturn = s.xturn := rfl
@[simp] theorem State.addFld_armed (s : State) (f : Fld) (a b n : Nat) : (s.addFld f a b n).armed = s.armed := rfl
@[simp] theorem State.addFld_hbrArmed (s : State) (f : Fld) (a b n : Nat) : (s.addFld f a b n).hbrArmed = s.hbrArmed := rfl
@[simp] theorem State.addFld_egress (s : State) (f : Fld) (a b n : Nat) : (s.addFld f a b n).egress = s.egress := rfl
@[simp] theorem State.addFld_heads (s : State) (f : Fld) (a b n : Nat) : (s.addFld f a b n).heads = s.heads := rfl
@[simp] theorem State.addFld_ports (s : State) (f : Fld) (a b n : Nat) : (s.addFld f a b n).ports = s.ports := rfl
@[simp] theorem State.addFld_claimWait (s : State) (f : Fld) (a b n : Nat) : (s.addFld f a b n).claimWait = s.claimWait := rfl
@[simp] theorem State.addFld_reads (s : State) (f : Fld) (a b n : Nat) : (s.addFld f a b n).reads = s.reads := rfl
@[simp] theorem State.addFld_readsWaiting (s : State) (f : Fld) (a b n : Nat) : (s.addFld f a b n).readsWaiting = s.readsWaiting := rfl
@[simp] theorem State.addFld_readData (s : State) (f : Fld) (a b n : Nat) : (s.addFld f a b n).readData = s.readData := rfl
@[simp] theorem State.addFld_mem (s : State) (f : Fld) (a b n : Nat) : (s.addFld f a b n).mem = s.mem := rfl
@[simp] theorem State.addFld_bad (s : State) (f : Fld) (a b n : Nat) : (s.addFld f a b n).bad = s.bad := rfl
@[simp] theorem State.addFld_rowErrs (s : State) (f : Fld) (a b n : Nat) : (s.addFld f a b n).rowErrs = s.rowErrs := rfl
@[simp] theorem State.addFld_repairs (s : State) (f : Fld) (a b n : Nat) : (s.addFld f a b n).repairs = s.repairs := rfl
@[simp] theorem State.addFld_withdrawn (s : State) (f : Fld) (a b n : Nat) : (s.addFld f a b n).withdrawn = s.withdrawn := rfl
@[simp] theorem State.addFld_unrepairable (s : State) (f : Fld) (a b n : Nat) : (s.addFld f a b n).unrepairable = s.unrepairable := rfl
@[simp] theorem State.addFld_sweepBad (s : State) (f : Fld) (a b n : Nat) : (s.addFld f a b n).sweepBad = s.sweepBad := rfl
@[simp] theorem State.addFld_fns (s : State) (f : Fld) (a b n : Nat) : (s.addFld f a b n).fns = s.fns := rfl
@[simp] theorem State.addFld_queues (s : State) (f : Fld) (a b n : Nat) : (s.addFld f a b n).queues = s.queues := rfl
@[simp] theorem State.addFld_islets (s : State) (f : Fld) (a b n : Nat) : (s.addFld f a b n).islets = s.islets := rfl
@[simp] theorem State.addFld_packets (s : State) (f : Fld) (a b n : Nat) : (s.addFld f a b n).packets = s.packets := rfl
@[simp] theorem State.addFld_launches (s : State) (f : Fld) (a b n : Nat) : (s.addFld f a b n).launches = s.launches := rfl
@[simp] theorem State.addFld_nextLaunch (s : State) (f : Fld) (a b n : Nat) : (s.addFld f a b n).nextLaunch = s.nextLaunch := rfl
@[simp] theorem State.addFld_pastLaunches (s : State) (f : Fld) (a b n : Nat) : (s.addFld f a b n).pastLaunches = s.pastLaunches := rfl
@[simp] theorem State.addFld_staging (s : State) (f : Fld) (a b n : Nat) : (s.addFld f a b n).staging = s.staging := rfl
@[simp] theorem State.addFld_stagingBusy (s : State) (f : Fld) (a b n : Nat) : (s.addFld f a b n).stagingBusy = s.stagingBusy := rfl
@[simp] theorem State.addFld_mlPorts (s : State) (f : Fld) (a b n : Nat) : (s.addFld f a b n).mlPorts = s.mlPorts := rfl
@[simp] theorem State.addFld_held (s : State) (f : Fld) (a b n : Nat) : (s.addFld f a b n).held = s.held := rfl
@[simp] theorem State.addFld_served (s : State) (f : Fld) (a b n : Nat) : (s.addFld f a b n).served = s.served := rfl
@[simp] theorem State.addFld_jobs (s : State) (f : Fld) (a b n : Nat) : (s.addFld f a b n).jobs = s.jobs := rfl
@[simp] theorem State.addFld_lead (s : State) (f : Fld) (a b n : Nat) : (s.addFld f a b n).lead = s.lead := rfl
@[simp] theorem State.addFld_actions (s : State) (f : Fld) (a b n : Nat) : (s.addFld f a b n).actions = s.actions := rfl
@[simp] theorem State.addFld_nextAction (s : State) (f : Fld) (a b n : Nat) : (s.addFld f a b n).nextAction = s.nextAction := rfl
@[simp] theorem State.addFld_snapSent (s : State) (f : Fld) (a b n : Nat) : (s.addFld f a b n).snapSent = s.snapSent := rfl
@[simp] theorem State.addFld_restarting (s : State) (f : Fld) (a b n : Nat) : (s.addFld f a b n).restarting = s.restarting := rfl
@[simp] theorem State.addFld_watchdogs (s : State) (f : Fld) (a b n : Nat) : (s.addFld f a b n).watchdogs = s.watchdogs := rfl
@[simp] theorem State.addFld_records (s : State) (f : Fld) (a b n : Nat) : (s.addFld f a b n).records = s.records := rfl
@[simp] theorem State.addFld_leases (s : State) (f : Fld) (a b n : Nat) : (s.addFld f a b n).leases = s.leases := rfl
@[simp] theorem State.addFld_reefs (s : State) (f : Fld) (a b n : Nat) : (s.addFld f a b n).reefs = s.reefs := rfl
@[simp] theorem State.addFld_jqueue (s : State) (f : Fld) (a b n : Nat) : (s.addFld f a b n).jqueue = s.jqueue := rfl
@[simp] theorem State.addFld_mctpOut (s : State) (f : Fld) (a b n : Nat) : (s.addFld f a b n).mctpOut = s.mctpOut := rfl
@[simp] theorem State.addFld_gov (s : State) (f : Fld) (a b n : Nat) : (s.addFld f a b n).gov = s.gov := rfl
@[simp] theorem State.addFld_pins (s : State) (f : Fld) (a b n : Nat) : (s.addFld f a b n).pins = s.pins := rfl
@[simp] theorem State.addFld_jtag (s : State) (f : Fld) (a b n : Nat) : (s.addFld f a b n).jtag = s.jtag := rfl
@[simp] theorem State.addFld_mctp (s : State) (f : Fld) (a b n : Nat) : (s.addFld f a b n).mctp = s.mctp := rfl
@[simp] theorem State.addFld_fw (s : State) (f : Fld) (a b n : Nat) : (s.addFld f a b n).fw = s.fw := rfl
@[simp] theorem State.addFld_jnl (s : State) (f : Fld) (a b n : Nat) : (s.addFld f a b n).jnl = s.jnl := rfl
@[simp] theorem State.addFld_drains (s : State) (f : Fld) (a b n : Nat) : (s.addFld f a b n).drains = s.drains := rfl
@[simp] theorem State.addFld_enablePend (s : State) (f : Fld) (a b n : Nat) : (s.addFld f a b n).enablePend = s.enablePend := rfl
@[simp] theorem State.addFld_rotations (s : State) (f : Fld) (a b n : Nat) : (s.addFld f a b n).rotations = s.rotations := rfl
@[simp] theorem State.addFld_drbgCount (s : State) (f : Fld) (a b n : Nat) : (s.addFld f a b n).drbgCount = s.drbgCount := rfl
@[simp] theorem State.addFld_freeCtr (s : State) (f : Fld) (a b n : Nat) : (s.addFld f a b n).freeCtr = s.freeCtr := rfl
@[simp] theorem State.addFld_ticks (s : State) (f : Fld) (a b n : Nat) : (s.addFld f a b n).ticks = s.ticks := rfl
@[simp] theorem State.addFld_pending (s : State) (f : Fld) (a b n : Nat) : (s.addFld f a b n).pending = s.pending := rfl
@[simp] theorem State.addFld_count (s : State) (f : Fld) (a b n : Nat) (i' : Nat) : (s.addFld f a b n).count i' = s.count i' := rfl
@[simp] theorem State.addFld_lane (s : State) (f : Fld) (a b n : Nat) (n' : Nat) (ba' : Bool) (cls' : Nat) : (s.addFld f a b n).lane n' ba' cls' = s.lane n' ba' cls' := rfl
@[simp] theorem State.addFld_fnState (s : State) (f : Fld) (a b n : Nat) (fn' : Nat) : (s.addFld f a b n).fnState fn' = s.fnState fn' := rfl
@[simp] theorem State.addFld_queue (s : State) (f : Fld) (a b n : Nat) (fn' q' : Nat) : (s.addFld f a b n).queue fn' q' = s.queue fn' q' := rfl
@[simp] theorem State.addFld_islet (s : State) (f : Fld) (a b n : Nat) (i' : Nat) : (s.addFld f a b n).islet i' = s.islet i' := rfl
@[simp] theorem State.addFld_link (s : State) (f : Fld) (a b n : Nat) (p' : Nat) : (s.addFld f a b n).link p' = s.link p' := rfl
@[simp] theorem State.addFld_mlPort (s : State) (f : Fld) (a b n : Nat) (p' : Nat) : (s.addFld f a b n).mlPort p' = s.mlPort p' := rfl
@[simp] theorem State.addFld_job (s : State) (f : Fld) (a b n : Nat) (x' : Nat) : (s.addFld f a b n).job x' = s.job x' := rfl
@[simp] theorem State.addFld_isArmed (s : State) (f : Fld) (a b n : Nat) (fn' k' : Nat) : (s.addFld f a b n).isArmed fn' k' = s.isArmed fn' k' := rfl

/-! ### satFld -/

@[simp] theorem State.satFld_pkg (s : State) (f : Fld) (a b n : Nat) : (s.satFld f a b n).pkg = s.pkg := rfl
@[simp] theorem State.satFld_svn (s : State) (f : Fld) (a b n : Nat) : (s.satFld f a b n).svn = s.svn := rfl
@[simp] theorem State.satFld_counts (s : State) (f : Fld) (a b n : Nat) : (s.satFld f a b n).counts = s.counts := rfl
@[simp] theorem State.satFld_lanes (s : State) (f : Fld) (a b n : Nat) : (s.satFld f a b n).lanes = s.lanes := rfl
@[simp] theorem State.satFld_xturn (s : State) (f : Fld) (a b n : Nat) : (s.satFld f a b n).xturn = s.xturn := rfl
@[simp] theorem State.satFld_armed (s : State) (f : Fld) (a b n : Nat) : (s.satFld f a b n).armed = s.armed := rfl
@[simp] theorem State.satFld_hbrArmed (s : State) (f : Fld) (a b n : Nat) : (s.satFld f a b n).hbrArmed = s.hbrArmed := rfl
@[simp] theorem State.satFld_egress (s : State) (f : Fld) (a b n : Nat) : (s.satFld f a b n).egress = s.egress := rfl
@[simp] theorem State.satFld_heads (s : State) (f : Fld) (a b n : Nat) : (s.satFld f a b n).heads = s.heads := rfl
@[simp] theorem State.satFld_ports (s : State) (f : Fld) (a b n : Nat) : (s.satFld f a b n).ports = s.ports := rfl
@[simp] theorem State.satFld_claimWait (s : State) (f : Fld) (a b n : Nat) : (s.satFld f a b n).claimWait = s.claimWait := rfl
@[simp] theorem State.satFld_reads (s : State) (f : Fld) (a b n : Nat) : (s.satFld f a b n).reads = s.reads := rfl
@[simp] theorem State.satFld_readsWaiting (s : State) (f : Fld) (a b n : Nat) : (s.satFld f a b n).readsWaiting = s.readsWaiting := rfl
@[simp] theorem State.satFld_readData (s : State) (f : Fld) (a b n : Nat) : (s.satFld f a b n).readData = s.readData := rfl
@[simp] theorem State.satFld_mem (s : State) (f : Fld) (a b n : Nat) : (s.satFld f a b n).mem = s.mem := rfl
@[simp] theorem State.satFld_bad (s : State) (f : Fld) (a b n : Nat) : (s.satFld f a b n).bad = s.bad := rfl
@[simp] theorem State.satFld_rowErrs (s : State) (f : Fld) (a b n : Nat) : (s.satFld f a b n).rowErrs = s.rowErrs := rfl
@[simp] theorem State.satFld_repairs (s : State) (f : Fld) (a b n : Nat) : (s.satFld f a b n).repairs = s.repairs := rfl
@[simp] theorem State.satFld_withdrawn (s : State) (f : Fld) (a b n : Nat) : (s.satFld f a b n).withdrawn = s.withdrawn := rfl
@[simp] theorem State.satFld_unrepairable (s : State) (f : Fld) (a b n : Nat) : (s.satFld f a b n).unrepairable = s.unrepairable := rfl
@[simp] theorem State.satFld_sweepBad (s : State) (f : Fld) (a b n : Nat) : (s.satFld f a b n).sweepBad = s.sweepBad := rfl
@[simp] theorem State.satFld_fns (s : State) (f : Fld) (a b n : Nat) : (s.satFld f a b n).fns = s.fns := rfl
@[simp] theorem State.satFld_queues (s : State) (f : Fld) (a b n : Nat) : (s.satFld f a b n).queues = s.queues := rfl
@[simp] theorem State.satFld_islets (s : State) (f : Fld) (a b n : Nat) : (s.satFld f a b n).islets = s.islets := rfl
@[simp] theorem State.satFld_packets (s : State) (f : Fld) (a b n : Nat) : (s.satFld f a b n).packets = s.packets := rfl
@[simp] theorem State.satFld_launches (s : State) (f : Fld) (a b n : Nat) : (s.satFld f a b n).launches = s.launches := rfl
@[simp] theorem State.satFld_nextLaunch (s : State) (f : Fld) (a b n : Nat) : (s.satFld f a b n).nextLaunch = s.nextLaunch := rfl
@[simp] theorem State.satFld_pastLaunches (s : State) (f : Fld) (a b n : Nat) : (s.satFld f a b n).pastLaunches = s.pastLaunches := rfl
@[simp] theorem State.satFld_staging (s : State) (f : Fld) (a b n : Nat) : (s.satFld f a b n).staging = s.staging := rfl
@[simp] theorem State.satFld_stagingBusy (s : State) (f : Fld) (a b n : Nat) : (s.satFld f a b n).stagingBusy = s.stagingBusy := rfl
@[simp] theorem State.satFld_mlPorts (s : State) (f : Fld) (a b n : Nat) : (s.satFld f a b n).mlPorts = s.mlPorts := rfl
@[simp] theorem State.satFld_held (s : State) (f : Fld) (a b n : Nat) : (s.satFld f a b n).held = s.held := rfl
@[simp] theorem State.satFld_served (s : State) (f : Fld) (a b n : Nat) : (s.satFld f a b n).served = s.served := rfl
@[simp] theorem State.satFld_jobs (s : State) (f : Fld) (a b n : Nat) : (s.satFld f a b n).jobs = s.jobs := rfl
@[simp] theorem State.satFld_lead (s : State) (f : Fld) (a b n : Nat) : (s.satFld f a b n).lead = s.lead := rfl
@[simp] theorem State.satFld_actions (s : State) (f : Fld) (a b n : Nat) : (s.satFld f a b n).actions = s.actions := rfl
@[simp] theorem State.satFld_nextAction (s : State) (f : Fld) (a b n : Nat) : (s.satFld f a b n).nextAction = s.nextAction := rfl
@[simp] theorem State.satFld_snapSent (s : State) (f : Fld) (a b n : Nat) : (s.satFld f a b n).snapSent = s.snapSent := rfl
@[simp] theorem State.satFld_restarting (s : State) (f : Fld) (a b n : Nat) : (s.satFld f a b n).restarting = s.restarting := rfl
@[simp] theorem State.satFld_watchdogs (s : State) (f : Fld) (a b n : Nat) : (s.satFld f a b n).watchdogs = s.watchdogs := rfl
@[simp] theorem State.satFld_records (s : State) (f : Fld) (a b n : Nat) : (s.satFld f a b n).records = s.records := rfl
@[simp] theorem State.satFld_leases (s : State) (f : Fld) (a b n : Nat) : (s.satFld f a b n).leases = s.leases := rfl
@[simp] theorem State.satFld_reefs (s : State) (f : Fld) (a b n : Nat) : (s.satFld f a b n).reefs = s.reefs := rfl
@[simp] theorem State.satFld_jqueue (s : State) (f : Fld) (a b n : Nat) : (s.satFld f a b n).jqueue = s.jqueue := rfl
@[simp] theorem State.satFld_mctpOut (s : State) (f : Fld) (a b n : Nat) : (s.satFld f a b n).mctpOut = s.mctpOut := rfl
@[simp] theorem State.satFld_gov (s : State) (f : Fld) (a b n : Nat) : (s.satFld f a b n).gov = s.gov := rfl
@[simp] theorem State.satFld_pins (s : State) (f : Fld) (a b n : Nat) : (s.satFld f a b n).pins = s.pins := rfl
@[simp] theorem State.satFld_jtag (s : State) (f : Fld) (a b n : Nat) : (s.satFld f a b n).jtag = s.jtag := rfl
@[simp] theorem State.satFld_mctp (s : State) (f : Fld) (a b n : Nat) : (s.satFld f a b n).mctp = s.mctp := rfl
@[simp] theorem State.satFld_fw (s : State) (f : Fld) (a b n : Nat) : (s.satFld f a b n).fw = s.fw := rfl
@[simp] theorem State.satFld_jnl (s : State) (f : Fld) (a b n : Nat) : (s.satFld f a b n).jnl = s.jnl := rfl
@[simp] theorem State.satFld_drains (s : State) (f : Fld) (a b n : Nat) : (s.satFld f a b n).drains = s.drains := rfl
@[simp] theorem State.satFld_enablePend (s : State) (f : Fld) (a b n : Nat) : (s.satFld f a b n).enablePend = s.enablePend := rfl
@[simp] theorem State.satFld_rotations (s : State) (f : Fld) (a b n : Nat) : (s.satFld f a b n).rotations = s.rotations := rfl
@[simp] theorem State.satFld_drbgCount (s : State) (f : Fld) (a b n : Nat) : (s.satFld f a b n).drbgCount = s.drbgCount := rfl
@[simp] theorem State.satFld_freeCtr (s : State) (f : Fld) (a b n : Nat) : (s.satFld f a b n).freeCtr = s.freeCtr := rfl
@[simp] theorem State.satFld_ticks (s : State) (f : Fld) (a b n : Nat) : (s.satFld f a b n).ticks = s.ticks := rfl
@[simp] theorem State.satFld_pending (s : State) (f : Fld) (a b n : Nat) : (s.satFld f a b n).pending = s.pending := rfl
@[simp] theorem State.satFld_count (s : State) (f : Fld) (a b n : Nat) (i' : Nat) : (s.satFld f a b n).count i' = s.count i' := rfl
@[simp] theorem State.satFld_lane (s : State) (f : Fld) (a b n : Nat) (n' : Nat) (ba' : Bool) (cls' : Nat) : (s.satFld f a b n).lane n' ba' cls' = s.lane n' ba' cls' := rfl
@[simp] theorem State.satFld_fnState (s : State) (f : Fld) (a b n : Nat) (fn' : Nat) : (s.satFld f a b n).fnState fn' = s.fnState fn' := rfl
@[simp] theorem State.satFld_queue (s : State) (f : Fld) (a b n : Nat) (fn' q' : Nat) : (s.satFld f a b n).queue fn' q' = s.queue fn' q' := rfl
@[simp] theorem State.satFld_islet (s : State) (f : Fld) (a b n : Nat) (i' : Nat) : (s.satFld f a b n).islet i' = s.islet i' := rfl
@[simp] theorem State.satFld_link (s : State) (f : Fld) (a b n : Nat) (p' : Nat) : (s.satFld f a b n).link p' = s.link p' := rfl
@[simp] theorem State.satFld_mlPort (s : State) (f : Fld) (a b n : Nat) (p' : Nat) : (s.satFld f a b n).mlPort p' = s.mlPort p' := rfl
@[simp] theorem State.satFld_job (s : State) (f : Fld) (a b n : Nat) (x' : Nat) : (s.satFld f a b n).job x' = s.job x' := rfl
@[simp] theorem State.satFld_isArmed (s : State) (f : Fld) (a b n : Nat) (fn' k' : Nat) : (s.satFld f a b n).isArmed fn' k' = s.isArmed fn' k' := rfl

/-! ### writeReg -/

@[simp] theorem State.writeReg_pkg (s : State) (r : Reg) (a b : Nat) (w : Word) : (s.writeReg r a b w).pkg = s.pkg := rfl
@[simp] theorem State.writeReg_svn (s : State) (r : Reg) (a b : Nat) (w : Word) : (s.writeReg r a b w).svn = s.svn := rfl
@[simp] theorem State.writeReg_counts (s : State) (r : Reg) (a b : Nat) (w : Word) : (s.writeReg r a b w).counts = s.counts := rfl
@[simp] theorem State.writeReg_lanes (s : State) (r : Reg) (a b : Nat) (w : Word) : (s.writeReg r a b w).lanes = s.lanes := rfl
@[simp] theorem State.writeReg_xturn (s : State) (r : Reg) (a b : Nat) (w : Word) : (s.writeReg r a b w).xturn = s.xturn := rfl
@[simp] theorem State.writeReg_armed (s : State) (r : Reg) (a b : Nat) (w : Word) : (s.writeReg r a b w).armed = s.armed := rfl
@[simp] theorem State.writeReg_hbrArmed (s : State) (r : Reg) (a b : Nat) (w : Word) : (s.writeReg r a b w).hbrArmed = s.hbrArmed := rfl
@[simp] theorem State.writeReg_egress (s : State) (r : Reg) (a b : Nat) (w : Word) : (s.writeReg r a b w).egress = s.egress := rfl
@[simp] theorem State.writeReg_heads (s : State) (r : Reg) (a b : Nat) (w : Word) : (s.writeReg r a b w).heads = s.heads := rfl
@[simp] theorem State.writeReg_ports (s : State) (r : Reg) (a b : Nat) (w : Word) : (s.writeReg r a b w).ports = s.ports := rfl
@[simp] theorem State.writeReg_claimWait (s : State) (r : Reg) (a b : Nat) (w : Word) : (s.writeReg r a b w).claimWait = s.claimWait := rfl
@[simp] theorem State.writeReg_reads (s : State) (r : Reg) (a b : Nat) (w : Word) : (s.writeReg r a b w).reads = s.reads := rfl
@[simp] theorem State.writeReg_readsWaiting (s : State) (r : Reg) (a b : Nat) (w : Word) : (s.writeReg r a b w).readsWaiting = s.readsWaiting := rfl
@[simp] theorem State.writeReg_readData (s : State) (r : Reg) (a b : Nat) (w : Word) : (s.writeReg r a b w).readData = s.readData := rfl
@[simp] theorem State.writeReg_mem (s : State) (r : Reg) (a b : Nat) (w : Word) : (s.writeReg r a b w).mem = s.mem := rfl
@[simp] theorem State.writeReg_bad (s : State) (r : Reg) (a b : Nat) (w : Word) : (s.writeReg r a b w).bad = s.bad := rfl
@[simp] theorem State.writeReg_rowErrs (s : State) (r : Reg) (a b : Nat) (w : Word) : (s.writeReg r a b w).rowErrs = s.rowErrs := rfl
@[simp] theorem State.writeReg_repairs (s : State) (r : Reg) (a b : Nat) (w : Word) : (s.writeReg r a b w).repairs = s.repairs := rfl
@[simp] theorem State.writeReg_withdrawn (s : State) (r : Reg) (a b : Nat) (w : Word) : (s.writeReg r a b w).withdrawn = s.withdrawn := rfl
@[simp] theorem State.writeReg_unrepairable (s : State) (r : Reg) (a b : Nat) (w : Word) : (s.writeReg r a b w).unrepairable = s.unrepairable := rfl
@[simp] theorem State.writeReg_sweepBad (s : State) (r : Reg) (a b : Nat) (w : Word) : (s.writeReg r a b w).sweepBad = s.sweepBad := rfl
@[simp] theorem State.writeReg_fns (s : State) (r : Reg) (a b : Nat) (w : Word) : (s.writeReg r a b w).fns = s.fns := rfl
@[simp] theorem State.writeReg_queues (s : State) (r : Reg) (a b : Nat) (w : Word) : (s.writeReg r a b w).queues = s.queues := rfl
@[simp] theorem State.writeReg_islets (s : State) (r : Reg) (a b : Nat) (w : Word) : (s.writeReg r a b w).islets = s.islets := rfl
@[simp] theorem State.writeReg_packets (s : State) (r : Reg) (a b : Nat) (w : Word) : (s.writeReg r a b w).packets = s.packets := rfl
@[simp] theorem State.writeReg_launches (s : State) (r : Reg) (a b : Nat) (w : Word) : (s.writeReg r a b w).launches = s.launches := rfl
@[simp] theorem State.writeReg_nextLaunch (s : State) (r : Reg) (a b : Nat) (w : Word) : (s.writeReg r a b w).nextLaunch = s.nextLaunch := rfl
@[simp] theorem State.writeReg_pastLaunches (s : State) (r : Reg) (a b : Nat) (w : Word) : (s.writeReg r a b w).pastLaunches = s.pastLaunches := rfl
@[simp] theorem State.writeReg_staging (s : State) (r : Reg) (a b : Nat) (w : Word) : (s.writeReg r a b w).staging = s.staging := rfl
@[simp] theorem State.writeReg_stagingBusy (s : State) (r : Reg) (a b : Nat) (w : Word) : (s.writeReg r a b w).stagingBusy = s.stagingBusy := rfl
@[simp] theorem State.writeReg_mlPorts (s : State) (r : Reg) (a b : Nat) (w : Word) : (s.writeReg r a b w).mlPorts = s.mlPorts := rfl
@[simp] theorem State.writeReg_held (s : State) (r : Reg) (a b : Nat) (w : Word) : (s.writeReg r a b w).held = s.held := rfl
@[simp] theorem State.writeReg_served (s : State) (r : Reg) (a b : Nat) (w : Word) : (s.writeReg r a b w).served = s.served := rfl
@[simp] theorem State.writeReg_jobs (s : State) (r : Reg) (a b : Nat) (w : Word) : (s.writeReg r a b w).jobs = s.jobs := rfl
@[simp] theorem State.writeReg_lead (s : State) (r : Reg) (a b : Nat) (w : Word) : (s.writeReg r a b w).lead = s.lead := rfl
@[simp] theorem State.writeReg_actions (s : State) (r : Reg) (a b : Nat) (w : Word) : (s.writeReg r a b w).actions = s.actions := rfl
@[simp] theorem State.writeReg_nextAction (s : State) (r : Reg) (a b : Nat) (w : Word) : (s.writeReg r a b w).nextAction = s.nextAction := rfl
@[simp] theorem State.writeReg_snapSent (s : State) (r : Reg) (a b : Nat) (w : Word) : (s.writeReg r a b w).snapSent = s.snapSent := rfl
@[simp] theorem State.writeReg_restarting (s : State) (r : Reg) (a b : Nat) (w : Word) : (s.writeReg r a b w).restarting = s.restarting := rfl
@[simp] theorem State.writeReg_watchdogs (s : State) (r : Reg) (a b : Nat) (w : Word) : (s.writeReg r a b w).watchdogs = s.watchdogs := rfl
@[simp] theorem State.writeReg_records (s : State) (r : Reg) (a b : Nat) (w : Word) : (s.writeReg r a b w).records = s.records := rfl
@[simp] theorem State.writeReg_leases (s : State) (r : Reg) (a b : Nat) (w : Word) : (s.writeReg r a b w).leases = s.leases := rfl
@[simp] theorem State.writeReg_reefs (s : State) (r : Reg) (a b : Nat) (w : Word) : (s.writeReg r a b w).reefs = s.reefs := rfl
@[simp] theorem State.writeReg_jqueue (s : State) (r : Reg) (a b : Nat) (w : Word) : (s.writeReg r a b w).jqueue = s.jqueue := rfl
@[simp] theorem State.writeReg_mctpOut (s : State) (r : Reg) (a b : Nat) (w : Word) : (s.writeReg r a b w).mctpOut = s.mctpOut := rfl
@[simp] theorem State.writeReg_gov (s : State) (r : Reg) (a b : Nat) (w : Word) : (s.writeReg r a b w).gov = s.gov := rfl
@[simp] theorem State.writeReg_pins (s : State) (r : Reg) (a b : Nat) (w : Word) : (s.writeReg r a b w).pins = s.pins := rfl
@[simp] theorem State.writeReg_jtag (s : State) (r : Reg) (a b : Nat) (w : Word) : (s.writeReg r a b w).jtag = s.jtag := rfl
@[simp] theorem State.writeReg_mctp (s : State) (r : Reg) (a b : Nat) (w : Word) : (s.writeReg r a b w).mctp = s.mctp := rfl
@[simp] theorem State.writeReg_fw (s : State) (r : Reg) (a b : Nat) (w : Word) : (s.writeReg r a b w).fw = s.fw := rfl
@[simp] theorem State.writeReg_jnl (s : State) (r : Reg) (a b : Nat) (w : Word) : (s.writeReg r a b w).jnl = s.jnl := rfl
@[simp] theorem State.writeReg_drains (s : State) (r : Reg) (a b : Nat) (w : Word) : (s.writeReg r a b w).drains = s.drains := rfl
@[simp] theorem State.writeReg_enablePend (s : State) (r : Reg) (a b : Nat) (w : Word) : (s.writeReg r a b w).enablePend = s.enablePend := rfl
@[simp] theorem State.writeReg_rotations (s : State) (r : Reg) (a b : Nat) (w : Word) : (s.writeReg r a b w).rotations = s.rotations := rfl
@[simp] theorem State.writeReg_drbgCount (s : State) (r : Reg) (a b : Nat) (w : Word) : (s.writeReg r a b w).drbgCount = s.drbgCount := rfl
@[simp] theorem State.writeReg_freeCtr (s : State) (r : Reg) (a b : Nat) (w : Word) : (s.writeReg r a b w).freeCtr = s.freeCtr := rfl
@[simp] theorem State.writeReg_ticks (s : State) (r : Reg) (a b : Nat) (w : Word) : (s.writeReg r a b w).ticks = s.ticks := rfl
@[simp] theorem State.writeReg_pending (s : State) (r : Reg) (a b : Nat) (w : Word) : (s.writeReg r a b w).pending = s.pending := rfl
@[simp] theorem State.writeReg_count (s : State) (r : Reg) (a b : Nat) (w : Word) (i' : Nat) : (s.writeReg r a b w).count i' = s.count i' := rfl
@[simp] theorem State.writeReg_lane (s : State) (r : Reg) (a b : Nat) (w : Word) (n' : Nat) (ba' : Bool) (cls' : Nat) : (s.writeReg r a b w).lane n' ba' cls' = s.lane n' ba' cls' := rfl
@[simp] theorem State.writeReg_fnState (s : State) (r : Reg) (a b : Nat) (w : Word) (fn' : Nat) : (s.writeReg r a b w).fnState fn' = s.fnState fn' := rfl
@[simp] theorem State.writeReg_queue (s : State) (r : Reg) (a b : Nat) (w : Word) (fn' q' : Nat) : (s.writeReg r a b w).queue fn' q' = s.queue fn' q' := rfl
@[simp] theorem State.writeReg_islet (s : State) (r : Reg) (a b : Nat) (w : Word) (i' : Nat) : (s.writeReg r a b w).islet i' = s.islet i' := rfl
@[simp] theorem State.writeReg_link (s : State) (r : Reg) (a b : Nat) (w : Word) (p' : Nat) : (s.writeReg r a b w).link p' = s.link p' := rfl
@[simp] theorem State.writeReg_mlPort (s : State) (r : Reg) (a b : Nat) (w : Word) (p' : Nat) : (s.writeReg r a b w).mlPort p' = s.mlPort p' := rfl
@[simp] theorem State.writeReg_job (s : State) (r : Reg) (a b : Nat) (w : Word) (x' : Nat) : (s.writeReg r a b w).job x' = s.job x' := rfl
@[simp] theorem State.writeReg_isArmed (s : State) (r : Reg) (a b : Nat) (w : Word) (fn' k' : Nat) : (s.writeReg r a b w).isArmed fn' k' = s.isArmed fn' k' := rfl

/-! ### clearRegs -/

@[simp] theorem State.clearRegs_pkg (s : State) (p : Nat → Nat → Bool) : (s.clearRegs p).pkg = s.pkg := rfl
@[simp] theorem State.clearRegs_svn (s : State) (p : Nat → Nat → Bool) : (s.clearRegs p).svn = s.svn := rfl
@[simp] theorem State.clearRegs_counts (s : State) (p : Nat → Nat → Bool) : (s.clearRegs p).counts = s.counts := rfl
@[simp] theorem State.clearRegs_lanes (s : State) (p : Nat → Nat → Bool) : (s.clearRegs p).lanes = s.lanes := rfl
@[simp] theorem State.clearRegs_xturn (s : State) (p : Nat → Nat → Bool) : (s.clearRegs p).xturn = s.xturn := rfl
@[simp] theorem State.clearRegs_armed (s : State) (p : Nat → Nat → Bool) : (s.clearRegs p).armed = s.armed := rfl
@[simp] theorem State.clearRegs_hbrArmed (s : State) (p : Nat → Nat → Bool) : (s.clearRegs p).hbrArmed = s.hbrArmed := rfl
@[simp] theorem State.clearRegs_egress (s : State) (p : Nat → Nat → Bool) : (s.clearRegs p).egress = s.egress := rfl
@[simp] theorem State.clearRegs_heads (s : State) (p : Nat → Nat → Bool) : (s.clearRegs p).heads = s.heads := rfl
@[simp] theorem State.clearRegs_ports (s : State) (p : Nat → Nat → Bool) : (s.clearRegs p).ports = s.ports := rfl
@[simp] theorem State.clearRegs_claimWait (s : State) (p : Nat → Nat → Bool) : (s.clearRegs p).claimWait = s.claimWait := rfl
@[simp] theorem State.clearRegs_reads (s : State) (p : Nat → Nat → Bool) : (s.clearRegs p).reads = s.reads := rfl
@[simp] theorem State.clearRegs_readsWaiting (s : State) (p : Nat → Nat → Bool) : (s.clearRegs p).readsWaiting = s.readsWaiting := rfl
@[simp] theorem State.clearRegs_readData (s : State) (p : Nat → Nat → Bool) : (s.clearRegs p).readData = s.readData := rfl
@[simp] theorem State.clearRegs_mem (s : State) (p : Nat → Nat → Bool) : (s.clearRegs p).mem = s.mem := rfl
@[simp] theorem State.clearRegs_bad (s : State) (p : Nat → Nat → Bool) : (s.clearRegs p).bad = s.bad := rfl
@[simp] theorem State.clearRegs_rowErrs (s : State) (p : Nat → Nat → Bool) : (s.clearRegs p).rowErrs = s.rowErrs := rfl
@[simp] theorem State.clearRegs_repairs (s : State) (p : Nat → Nat → Bool) : (s.clearRegs p).repairs = s.repairs := rfl
@[simp] theorem State.clearRegs_withdrawn (s : State) (p : Nat → Nat → Bool) : (s.clearRegs p).withdrawn = s.withdrawn := rfl
@[simp] theorem State.clearRegs_unrepairable (s : State) (p : Nat → Nat → Bool) : (s.clearRegs p).unrepairable = s.unrepairable := rfl
@[simp] theorem State.clearRegs_sweepBad (s : State) (p : Nat → Nat → Bool) : (s.clearRegs p).sweepBad = s.sweepBad := rfl
@[simp] theorem State.clearRegs_fns (s : State) (p : Nat → Nat → Bool) : (s.clearRegs p).fns = s.fns := rfl
@[simp] theorem State.clearRegs_queues (s : State) (p : Nat → Nat → Bool) : (s.clearRegs p).queues = s.queues := rfl
@[simp] theorem State.clearRegs_islets (s : State) (p : Nat → Nat → Bool) : (s.clearRegs p).islets = s.islets := rfl
@[simp] theorem State.clearRegs_packets (s : State) (p : Nat → Nat → Bool) : (s.clearRegs p).packets = s.packets := rfl
@[simp] theorem State.clearRegs_launches (s : State) (p : Nat → Nat → Bool) : (s.clearRegs p).launches = s.launches := rfl
@[simp] theorem State.clearRegs_nextLaunch (s : State) (p : Nat → Nat → Bool) : (s.clearRegs p).nextLaunch = s.nextLaunch := rfl
@[simp] theorem State.clearRegs_pastLaunches (s : State) (p : Nat → Nat → Bool) : (s.clearRegs p).pastLaunches = s.pastLaunches := rfl
@[simp] theorem State.clearRegs_staging (s : State) (p : Nat → Nat → Bool) : (s.clearRegs p).staging = s.staging := rfl
@[simp] theorem State.clearRegs_stagingBusy (s : State) (p : Nat → Nat → Bool) : (s.clearRegs p).stagingBusy = s.stagingBusy := rfl
@[simp] theorem State.clearRegs_mlPorts (s : State) (p : Nat → Nat → Bool) : (s.clearRegs p).mlPorts = s.mlPorts := rfl
@[simp] theorem State.clearRegs_held (s : State) (p : Nat → Nat → Bool) : (s.clearRegs p).held = s.held := rfl
@[simp] theorem State.clearRegs_served (s : State) (p : Nat → Nat → Bool) : (s.clearRegs p).served = s.served := rfl
@[simp] theorem State.clearRegs_jobs (s : State) (p : Nat → Nat → Bool) : (s.clearRegs p).jobs = s.jobs := rfl
@[simp] theorem State.clearRegs_lead (s : State) (p : Nat → Nat → Bool) : (s.clearRegs p).lead = s.lead := rfl
@[simp] theorem State.clearRegs_actions (s : State) (p : Nat → Nat → Bool) : (s.clearRegs p).actions = s.actions := rfl
@[simp] theorem State.clearRegs_nextAction (s : State) (p : Nat → Nat → Bool) : (s.clearRegs p).nextAction = s.nextAction := rfl
@[simp] theorem State.clearRegs_snapSent (s : State) (p : Nat → Nat → Bool) : (s.clearRegs p).snapSent = s.snapSent := rfl
@[simp] theorem State.clearRegs_restarting (s : State) (p : Nat → Nat → Bool) : (s.clearRegs p).restarting = s.restarting := rfl
@[simp] theorem State.clearRegs_watchdogs (s : State) (p : Nat → Nat → Bool) : (s.clearRegs p).watchdogs = s.watchdogs := rfl
@[simp] theorem State.clearRegs_records (s : State) (p : Nat → Nat → Bool) : (s.clearRegs p).records = s.records := rfl
@[simp] theorem State.clearRegs_leases (s : State) (p : Nat → Nat → Bool) : (s.clearRegs p).leases = s.leases := rfl
@[simp] theorem State.clearRegs_reefs (s : State) (p : Nat → Nat → Bool) : (s.clearRegs p).reefs = s.reefs := rfl
@[simp] theorem State.clearRegs_jqueue (s : State) (p : Nat → Nat → Bool) : (s.clearRegs p).jqueue = s.jqueue := rfl
@[simp] theorem State.clearRegs_mctpOut (s : State) (p : Nat → Nat → Bool) : (s.clearRegs p).mctpOut = s.mctpOut := rfl
@[simp] theorem State.clearRegs_gov (s : State) (p : Nat → Nat → Bool) : (s.clearRegs p).gov = s.gov := rfl
@[simp] theorem State.clearRegs_pins (s : State) (p : Nat → Nat → Bool) : (s.clearRegs p).pins = s.pins := rfl
@[simp] theorem State.clearRegs_jtag (s : State) (p : Nat → Nat → Bool) : (s.clearRegs p).jtag = s.jtag := rfl
@[simp] theorem State.clearRegs_mctp (s : State) (p : Nat → Nat → Bool) : (s.clearRegs p).mctp = s.mctp := rfl
@[simp] theorem State.clearRegs_fw (s : State) (p : Nat → Nat → Bool) : (s.clearRegs p).fw = s.fw := rfl
@[simp] theorem State.clearRegs_jnl (s : State) (p : Nat → Nat → Bool) : (s.clearRegs p).jnl = s.jnl := rfl
@[simp] theorem State.clearRegs_drains (s : State) (p : Nat → Nat → Bool) : (s.clearRegs p).drains = s.drains := rfl
@[simp] theorem State.clearRegs_enablePend (s : State) (p : Nat → Nat → Bool) : (s.clearRegs p).enablePend = s.enablePend := rfl
@[simp] theorem State.clearRegs_rotations (s : State) (p : Nat → Nat → Bool) : (s.clearRegs p).rotations = s.rotations := rfl
@[simp] theorem State.clearRegs_drbgCount (s : State) (p : Nat → Nat → Bool) : (s.clearRegs p).drbgCount = s.drbgCount := rfl
@[simp] theorem State.clearRegs_freeCtr (s : State) (p : Nat → Nat → Bool) : (s.clearRegs p).freeCtr = s.freeCtr := rfl
@[simp] theorem State.clearRegs_ticks (s : State) (p : Nat → Nat → Bool) : (s.clearRegs p).ticks = s.ticks := rfl
@[simp] theorem State.clearRegs_pending (s : State) (p : Nat → Nat → Bool) : (s.clearRegs p).pending = s.pending := rfl
@[simp] theorem State.clearRegs_count (s : State) (p : Nat → Nat → Bool) (i' : Nat) : (s.clearRegs p).count i' = s.count i' := rfl
@[simp] theorem State.clearRegs_lane (s : State) (p : Nat → Nat → Bool) (n' : Nat) (ba' : Bool) (cls' : Nat) : (s.clearRegs p).lane n' ba' cls' = s.lane n' ba' cls' := rfl
@[simp] theorem State.clearRegs_fnState (s : State) (p : Nat → Nat → Bool) (fn' : Nat) : (s.clearRegs p).fnState fn' = s.fnState fn' := rfl
@[simp] theorem State.clearRegs_queue (s : State) (p : Nat → Nat → Bool) (fn' q' : Nat) : (s.clearRegs p).queue fn' q' = s.queue fn' q' := rfl
@[simp] theorem State.clearRegs_islet (s : State) (p : Nat → Nat → Bool) (i' : Nat) : (s.clearRegs p).islet i' = s.islet i' := rfl
@[simp] theorem State.clearRegs_link (s : State) (p : Nat → Nat → Bool) (p' : Nat) : (s.clearRegs p).link p' = s.link p' := rfl
@[simp] theorem State.clearRegs_mlPort (s : State) (p : Nat → Nat → Bool) (p' : Nat) : (s.clearRegs p).mlPort p' = s.mlPort p' := rfl
@[simp] theorem State.clearRegs_job (s : State) (p : Nat → Nat → Bool) (x' : Nat) : (s.clearRegs p).job x' = s.job x' := rfl
@[simp] theorem State.clearRegs_isArmed (s : State) (p : Nat → Nat → Bool) (fn' k' : Nat) : (s.clearRegs p).isArmed fn' k' = s.isArmed fn' k' := rfl

/-! ### setCount -/

@[simp] theorem State.setCount_pkg (s : State) (i n : Nat) : (s.setCount i n).pkg = s.pkg := rfl
@[simp] theorem State.setCount_svn (s : State) (i n : Nat) : (s.setCount i n).svn = s.svn := rfl
@[simp] theorem State.setCount_regs (s : State) (i n : Nat) : (s.setCount i n).regs = s.regs := rfl
@[simp] theorem State.setCount_lanes (s : State) (i n : Nat) : (s.setCount i n).lanes = s.lanes := rfl
@[simp] theorem State.setCount_xturn (s : State) (i n : Nat) : (s.setCount i n).xturn = s.xturn := rfl
@[simp] theorem State.setCount_armed (s : State) (i n : Nat) : (s.setCount i n).armed = s.armed := rfl
@[simp] theorem State.setCount_hbrArmed (s : State) (i n : Nat) : (s.setCount i n).hbrArmed = s.hbrArmed := rfl
@[simp] theorem State.setCount_egress (s : State) (i n : Nat) : (s.setCount i n).egress = s.egress := rfl
@[simp] theorem State.setCount_heads (s : State) (i n : Nat) : (s.setCount i n).heads = s.heads := rfl
@[simp] theorem State.setCount_ports (s : State) (i n : Nat) : (s.setCount i n).ports = s.ports := rfl
@[simp] theorem State.setCount_claimWait (s : State) (i n : Nat) : (s.setCount i n).claimWait = s.claimWait := rfl
@[simp] theorem State.setCount_reads (s : State) (i n : Nat) : (s.setCount i n).reads = s.reads := rfl
@[simp] theorem State.setCount_readsWaiting (s : State) (i n : Nat) : (s.setCount i n).readsWaiting = s.readsWaiting := rfl
@[simp] theorem State.setCount_readData (s : State) (i n : Nat) : (s.setCount i n).readData = s.readData := rfl
@[simp] theorem State.setCount_mem (s : State) (i n : Nat) : (s.setCount i n).mem = s.mem := rfl
@[simp] theorem State.setCount_bad (s : State) (i n : Nat) : (s.setCount i n).bad = s.bad := rfl
@[simp] theorem State.setCount_rowErrs (s : State) (i n : Nat) : (s.setCount i n).rowErrs = s.rowErrs := rfl
@[simp] theorem State.setCount_repairs (s : State) (i n : Nat) : (s.setCount i n).repairs = s.repairs := rfl
@[simp] theorem State.setCount_withdrawn (s : State) (i n : Nat) : (s.setCount i n).withdrawn = s.withdrawn := rfl
@[simp] theorem State.setCount_unrepairable (s : State) (i n : Nat) : (s.setCount i n).unrepairable = s.unrepairable := rfl
@[simp] theorem State.setCount_sweepBad (s : State) (i n : Nat) : (s.setCount i n).sweepBad = s.sweepBad := rfl
@[simp] theorem State.setCount_fns (s : State) (i n : Nat) : (s.setCount i n).fns = s.fns := rfl
@[simp] theorem State.setCount_queues (s : State) (i n : Nat) : (s.setCount i n).queues = s.queues := rfl
@[simp] theorem State.setCount_islets (s : State) (i n : Nat) : (s.setCount i n).islets = s.islets := rfl
@[simp] theorem State.setCount_packets (s : State) (i n : Nat) : (s.setCount i n).packets = s.packets := rfl
@[simp] theorem State.setCount_launches (s : State) (i n : Nat) : (s.setCount i n).launches = s.launches := rfl
@[simp] theorem State.setCount_nextLaunch (s : State) (i n : Nat) : (s.setCount i n).nextLaunch = s.nextLaunch := rfl
@[simp] theorem State.setCount_pastLaunches (s : State) (i n : Nat) : (s.setCount i n).pastLaunches = s.pastLaunches := rfl
@[simp] theorem State.setCount_staging (s : State) (i n : Nat) : (s.setCount i n).staging = s.staging := rfl
@[simp] theorem State.setCount_stagingBusy (s : State) (i n : Nat) : (s.setCount i n).stagingBusy = s.stagingBusy := rfl
@[simp] theorem State.setCount_mlPorts (s : State) (i n : Nat) : (s.setCount i n).mlPorts = s.mlPorts := rfl
@[simp] theorem State.setCount_held (s : State) (i n : Nat) : (s.setCount i n).held = s.held := rfl
@[simp] theorem State.setCount_served (s : State) (i n : Nat) : (s.setCount i n).served = s.served := rfl
@[simp] theorem State.setCount_jobs (s : State) (i n : Nat) : (s.setCount i n).jobs = s.jobs := rfl
@[simp] theorem State.setCount_lead (s : State) (i n : Nat) : (s.setCount i n).lead = s.lead := rfl
@[simp] theorem State.setCount_actions (s : State) (i n : Nat) : (s.setCount i n).actions = s.actions := rfl
@[simp] theorem State.setCount_nextAction (s : State) (i n : Nat) : (s.setCount i n).nextAction = s.nextAction := rfl
@[simp] theorem State.setCount_snapSent (s : State) (i n : Nat) : (s.setCount i n).snapSent = s.snapSent := rfl
@[simp] theorem State.setCount_restarting (s : State) (i n : Nat) : (s.setCount i n).restarting = s.restarting := rfl
@[simp] theorem State.setCount_watchdogs (s : State) (i n : Nat) : (s.setCount i n).watchdogs = s.watchdogs := rfl
@[simp] theorem State.setCount_records (s : State) (i n : Nat) : (s.setCount i n).records = s.records := rfl
@[simp] theorem State.setCount_leases (s : State) (i n : Nat) : (s.setCount i n).leases = s.leases := rfl
@[simp] theorem State.setCount_reefs (s : State) (i n : Nat) : (s.setCount i n).reefs = s.reefs := rfl
@[simp] theorem State.setCount_jqueue (s : State) (i n : Nat) : (s.setCount i n).jqueue = s.jqueue := rfl
@[simp] theorem State.setCount_mctpOut (s : State) (i n : Nat) : (s.setCount i n).mctpOut = s.mctpOut := rfl
@[simp] theorem State.setCount_gov (s : State) (i n : Nat) : (s.setCount i n).gov = s.gov := rfl
@[simp] theorem State.setCount_pins (s : State) (i n : Nat) : (s.setCount i n).pins = s.pins := rfl
@[simp] theorem State.setCount_jtag (s : State) (i n : Nat) : (s.setCount i n).jtag = s.jtag := rfl
@[simp] theorem State.setCount_mctp (s : State) (i n : Nat) : (s.setCount i n).mctp = s.mctp := rfl
@[simp] theorem State.setCount_fw (s : State) (i n : Nat) : (s.setCount i n).fw = s.fw := rfl
@[simp] theorem State.setCount_jnl (s : State) (i n : Nat) : (s.setCount i n).jnl = s.jnl := rfl
@[simp] theorem State.setCount_drains (s : State) (i n : Nat) : (s.setCount i n).drains = s.drains := rfl
@[simp] theorem State.setCount_enablePend (s : State) (i n : Nat) : (s.setCount i n).enablePend = s.enablePend := rfl
@[simp] theorem State.setCount_rotations (s : State) (i n : Nat) : (s.setCount i n).rotations = s.rotations := rfl
@[simp] theorem State.setCount_drbgCount (s : State) (i n : Nat) : (s.setCount i n).drbgCount = s.drbgCount := rfl
@[simp] theorem State.setCount_freeCtr (s : State) (i n : Nat) : (s.setCount i n).freeCtr = s.freeCtr := rfl
@[simp] theorem State.setCount_ticks (s : State) (i n : Nat) : (s.setCount i n).ticks = s.ticks := rfl
@[simp] theorem State.setCount_pending (s : State) (i n : Nat) : (s.setCount i n).pending = s.pending := rfl
@[simp] theorem State.setCount_reg (s : State) (i n : Nat) (r' : Reg) (a' b' : Nat) : (s.setCount i n).reg r' a' b' = s.reg r' a' b' := rfl
@[simp] theorem State.setCount_fld (s : State) (i n : Nat) (g' : Fld) (a' b' : Nat) : (s.setCount i n).fld g' a' b' = s.fld g' a' b' := rfl
@[simp] theorem State.setCount_lane (s : State) (i n : Nat) (n' : Nat) (ba' : Bool) (cls' : Nat) : (s.setCount i n).lane n' ba' cls' = s.lane n' ba' cls' := rfl
@[simp] theorem State.setCount_fnState (s : State) (i n : Nat) (fn' : Nat) : (s.setCount i n).fnState fn' = s.fnState fn' := rfl
@[simp] theorem State.setCount_queue (s : State) (i n : Nat) (fn' q' : Nat) : (s.setCount i n).queue fn' q' = s.queue fn' q' := rfl
@[simp] theorem State.setCount_islet (s : State) (i n : Nat) (i' : Nat) : (s.setCount i n).islet i' = s.islet i' := rfl
@[simp] theorem State.setCount_link (s : State) (i n : Nat) (p' : Nat) : (s.setCount i n).link p' = s.link p' := rfl
@[simp] theorem State.setCount_mlPort (s : State) (i n : Nat) (p' : Nat) : (s.setCount i n).mlPort p' = s.mlPort p' := rfl
@[simp] theorem State.setCount_job (s : State) (i n : Nat) (x' : Nat) : (s.setCount i n).job x' = s.job x' := rfl
@[simp] theorem State.setCount_isArmed (s : State) (i n : Nat) (fn' k' : Nat) : (s.setCount i n).isArmed fn' k' = s.isArmed fn' k' := rfl

/-! ### reachCount -/

@[simp] theorem State.reachCount_pkg (s : State) (i c : Nat) : (s.reachCount i c).pkg = s.pkg := rfl
@[simp] theorem State.reachCount_svn (s : State) (i c : Nat) : (s.reachCount i c).svn = s.svn := rfl
@[simp] theorem State.reachCount_regs (s : State) (i c : Nat) : (s.reachCount i c).regs = s.regs := rfl
@[simp] theorem State.reachCount_lanes (s : State) (i c : Nat) : (s.reachCount i c).lanes = s.lanes := rfl
@[simp] theorem State.reachCount_xturn (s : State) (i c : Nat) : (s.reachCount i c).xturn = s.xturn := rfl
@[simp] theorem State.reachCount_armed (s : State) (i c : Nat) : (s.reachCount i c).armed = s.armed := rfl
@[simp] theorem State.reachCount_hbrArmed (s : State) (i c : Nat) : (s.reachCount i c).hbrArmed = s.hbrArmed := rfl
@[simp] theorem State.reachCount_egress (s : State) (i c : Nat) : (s.reachCount i c).egress = s.egress := rfl
@[simp] theorem State.reachCount_heads (s : State) (i c : Nat) : (s.reachCount i c).heads = s.heads := rfl
@[simp] theorem State.reachCount_ports (s : State) (i c : Nat) : (s.reachCount i c).ports = s.ports := rfl
@[simp] theorem State.reachCount_claimWait (s : State) (i c : Nat) : (s.reachCount i c).claimWait = s.claimWait := rfl
@[simp] theorem State.reachCount_reads (s : State) (i c : Nat) : (s.reachCount i c).reads = s.reads := rfl
@[simp] theorem State.reachCount_readsWaiting (s : State) (i c : Nat) : (s.reachCount i c).readsWaiting = s.readsWaiting := rfl
@[simp] theorem State.reachCount_readData (s : State) (i c : Nat) : (s.reachCount i c).readData = s.readData := rfl
@[simp] theorem State.reachCount_mem (s : State) (i c : Nat) : (s.reachCount i c).mem = s.mem := rfl
@[simp] theorem State.reachCount_bad (s : State) (i c : Nat) : (s.reachCount i c).bad = s.bad := rfl
@[simp] theorem State.reachCount_rowErrs (s : State) (i c : Nat) : (s.reachCount i c).rowErrs = s.rowErrs := rfl
@[simp] theorem State.reachCount_repairs (s : State) (i c : Nat) : (s.reachCount i c).repairs = s.repairs := rfl
@[simp] theorem State.reachCount_withdrawn (s : State) (i c : Nat) : (s.reachCount i c).withdrawn = s.withdrawn := rfl
@[simp] theorem State.reachCount_unrepairable (s : State) (i c : Nat) : (s.reachCount i c).unrepairable = s.unrepairable := rfl
@[simp] theorem State.reachCount_sweepBad (s : State) (i c : Nat) : (s.reachCount i c).sweepBad = s.sweepBad := rfl
@[simp] theorem State.reachCount_fns (s : State) (i c : Nat) : (s.reachCount i c).fns = s.fns := rfl
@[simp] theorem State.reachCount_queues (s : State) (i c : Nat) : (s.reachCount i c).queues = s.queues := rfl
@[simp] theorem State.reachCount_islets (s : State) (i c : Nat) : (s.reachCount i c).islets = s.islets := rfl
@[simp] theorem State.reachCount_packets (s : State) (i c : Nat) : (s.reachCount i c).packets = s.packets := rfl
@[simp] theorem State.reachCount_launches (s : State) (i c : Nat) : (s.reachCount i c).launches = s.launches := rfl
@[simp] theorem State.reachCount_nextLaunch (s : State) (i c : Nat) : (s.reachCount i c).nextLaunch = s.nextLaunch := rfl
@[simp] theorem State.reachCount_pastLaunches (s : State) (i c : Nat) : (s.reachCount i c).pastLaunches = s.pastLaunches := rfl
@[simp] theorem State.reachCount_staging (s : State) (i c : Nat) : (s.reachCount i c).staging = s.staging := rfl
@[simp] theorem State.reachCount_stagingBusy (s : State) (i c : Nat) : (s.reachCount i c).stagingBusy = s.stagingBusy := rfl
@[simp] theorem State.reachCount_mlPorts (s : State) (i c : Nat) : (s.reachCount i c).mlPorts = s.mlPorts := rfl
@[simp] theorem State.reachCount_held (s : State) (i c : Nat) : (s.reachCount i c).held = s.held := rfl
@[simp] theorem State.reachCount_served (s : State) (i c : Nat) : (s.reachCount i c).served = s.served := rfl
@[simp] theorem State.reachCount_jobs (s : State) (i c : Nat) : (s.reachCount i c).jobs = s.jobs := rfl
@[simp] theorem State.reachCount_lead (s : State) (i c : Nat) : (s.reachCount i c).lead = s.lead := rfl
@[simp] theorem State.reachCount_actions (s : State) (i c : Nat) : (s.reachCount i c).actions = s.actions := rfl
@[simp] theorem State.reachCount_nextAction (s : State) (i c : Nat) : (s.reachCount i c).nextAction = s.nextAction := rfl
@[simp] theorem State.reachCount_snapSent (s : State) (i c : Nat) : (s.reachCount i c).snapSent = s.snapSent := rfl
@[simp] theorem State.reachCount_restarting (s : State) (i c : Nat) : (s.reachCount i c).restarting = s.restarting := rfl
@[simp] theorem State.reachCount_watchdogs (s : State) (i c : Nat) : (s.reachCount i c).watchdogs = s.watchdogs := rfl
@[simp] theorem State.reachCount_records (s : State) (i c : Nat) : (s.reachCount i c).records = s.records := rfl
@[simp] theorem State.reachCount_leases (s : State) (i c : Nat) : (s.reachCount i c).leases = s.leases := rfl
@[simp] theorem State.reachCount_reefs (s : State) (i c : Nat) : (s.reachCount i c).reefs = s.reefs := rfl
@[simp] theorem State.reachCount_jqueue (s : State) (i c : Nat) : (s.reachCount i c).jqueue = s.jqueue := rfl
@[simp] theorem State.reachCount_mctpOut (s : State) (i c : Nat) : (s.reachCount i c).mctpOut = s.mctpOut := rfl
@[simp] theorem State.reachCount_gov (s : State) (i c : Nat) : (s.reachCount i c).gov = s.gov := rfl
@[simp] theorem State.reachCount_pins (s : State) (i c : Nat) : (s.reachCount i c).pins = s.pins := rfl
@[simp] theorem State.reachCount_jtag (s : State) (i c : Nat) : (s.reachCount i c).jtag = s.jtag := rfl
@[simp] theorem State.reachCount_mctp (s : State) (i c : Nat) : (s.reachCount i c).mctp = s.mctp := rfl
@[simp] theorem State.reachCount_fw (s : State) (i c : Nat) : (s.reachCount i c).fw = s.fw := rfl
@[simp] theorem State.reachCount_jnl (s : State) (i c : Nat) : (s.reachCount i c).jnl = s.jnl := rfl
@[simp] theorem State.reachCount_drains (s : State) (i c : Nat) : (s.reachCount i c).drains = s.drains := rfl
@[simp] theorem State.reachCount_enablePend (s : State) (i c : Nat) : (s.reachCount i c).enablePend = s.enablePend := rfl
@[simp] theorem State.reachCount_rotations (s : State) (i c : Nat) : (s.reachCount i c).rotations = s.rotations := rfl
@[simp] theorem State.reachCount_drbgCount (s : State) (i c : Nat) : (s.reachCount i c).drbgCount = s.drbgCount := rfl
@[simp] theorem State.reachCount_freeCtr (s : State) (i c : Nat) : (s.reachCount i c).freeCtr = s.freeCtr := rfl
@[simp] theorem State.reachCount_ticks (s : State) (i c : Nat) : (s.reachCount i c).ticks = s.ticks := rfl
@[simp] theorem State.reachCount_pending (s : State) (i c : Nat) : (s.reachCount i c).pending = s.pending := rfl
@[simp] theorem State.reachCount_reg (s : State) (i c : Nat) (r' : Reg) (a' b' : Nat) : (s.reachCount i c).reg r' a' b' = s.reg r' a' b' := rfl
@[simp] theorem State.reachCount_fld (s : State) (i c : Nat) (g' : Fld) (a' b' : Nat) : (s.reachCount i c).fld g' a' b' = s.fld g' a' b' := rfl
@[simp] theorem State.reachCount_lane (s : State) (i c : Nat) (n' : Nat) (ba' : Bool) (cls' : Nat) : (s.reachCount i c).lane n' ba' cls' = s.lane n' ba' cls' := rfl
@[simp] theorem State.reachCount_fnState (s : State) (i c : Nat) (fn' : Nat) : (s.reachCount i c).fnState fn' = s.fnState fn' := rfl
@[simp] theorem State.reachCount_queue (s : State) (i c : Nat) (fn' q' : Nat) : (s.reachCount i c).queue fn' q' = s.queue fn' q' := rfl
@[simp] theorem State.reachCount_islet (s : State) (i c : Nat) (i' : Nat) : (s.reachCount i c).islet i' = s.islet i' := rfl
@[simp] theorem State.reachCount_link (s : State) (i c : Nat) (p' : Nat) : (s.reachCount i c).link p' = s.link p' := rfl
@[simp] theorem State.reachCount_mlPort (s : State) (i c : Nat) (p' : Nat) : (s.reachCount i c).mlPort p' = s.mlPort p' := rfl
@[simp] theorem State.reachCount_job (s : State) (i c : Nat) (x' : Nat) : (s.reachCount i c).job x' = s.job x' := rfl
@[simp] theorem State.reachCount_isArmed (s : State) (i c : Nat) (fn' k' : Nat) : (s.reachCount i c).isArmed fn' k' = s.isArmed fn' k' := rfl

/-! ### drawn -/

@[simp] theorem State.drawn_pkg (s : State) : (s.drawn).pkg = s.pkg := rfl
@[simp] theorem State.drawn_svn (s : State) : (s.drawn).svn = s.svn := rfl
@[simp] theorem State.drawn_regs (s : State) : (s.drawn).regs = s.regs := rfl
@[simp] theorem State.drawn_counts (s : State) : (s.drawn).counts = s.counts := rfl
@[simp] theorem State.drawn_lanes (s : State) : (s.drawn).lanes = s.lanes := rfl
@[simp] theorem State.drawn_xturn (s : State) : (s.drawn).xturn = s.xturn := rfl
@[simp] theorem State.drawn_armed (s : State) : (s.drawn).armed = s.armed := rfl
@[simp] theorem State.drawn_hbrArmed (s : State) : (s.drawn).hbrArmed = s.hbrArmed := rfl
@[simp] theorem State.drawn_egress (s : State) : (s.drawn).egress = s.egress := rfl
@[simp] theorem State.drawn_heads (s : State) : (s.drawn).heads = s.heads := rfl
@[simp] theorem State.drawn_ports (s : State) : (s.drawn).ports = s.ports := rfl
@[simp] theorem State.drawn_claimWait (s : State) : (s.drawn).claimWait = s.claimWait := rfl
@[simp] theorem State.drawn_reads (s : State) : (s.drawn).reads = s.reads := rfl
@[simp] theorem State.drawn_readsWaiting (s : State) : (s.drawn).readsWaiting = s.readsWaiting := rfl
@[simp] theorem State.drawn_readData (s : State) : (s.drawn).readData = s.readData := rfl
@[simp] theorem State.drawn_mem (s : State) : (s.drawn).mem = s.mem := rfl
@[simp] theorem State.drawn_bad (s : State) : (s.drawn).bad = s.bad := rfl
@[simp] theorem State.drawn_rowErrs (s : State) : (s.drawn).rowErrs = s.rowErrs := rfl
@[simp] theorem State.drawn_repairs (s : State) : (s.drawn).repairs = s.repairs := rfl
@[simp] theorem State.drawn_withdrawn (s : State) : (s.drawn).withdrawn = s.withdrawn := rfl
@[simp] theorem State.drawn_unrepairable (s : State) : (s.drawn).unrepairable = s.unrepairable := rfl
@[simp] theorem State.drawn_sweepBad (s : State) : (s.drawn).sweepBad = s.sweepBad := rfl
@[simp] theorem State.drawn_fns (s : State) : (s.drawn).fns = s.fns := rfl
@[simp] theorem State.drawn_queues (s : State) : (s.drawn).queues = s.queues := rfl
@[simp] theorem State.drawn_islets (s : State) : (s.drawn).islets = s.islets := rfl
@[simp] theorem State.drawn_packets (s : State) : (s.drawn).packets = s.packets := rfl
@[simp] theorem State.drawn_launches (s : State) : (s.drawn).launches = s.launches := rfl
@[simp] theorem State.drawn_nextLaunch (s : State) : (s.drawn).nextLaunch = s.nextLaunch := rfl
@[simp] theorem State.drawn_pastLaunches (s : State) : (s.drawn).pastLaunches = s.pastLaunches := rfl
@[simp] theorem State.drawn_staging (s : State) : (s.drawn).staging = s.staging := rfl
@[simp] theorem State.drawn_stagingBusy (s : State) : (s.drawn).stagingBusy = s.stagingBusy := rfl
@[simp] theorem State.drawn_mlPorts (s : State) : (s.drawn).mlPorts = s.mlPorts := rfl
@[simp] theorem State.drawn_held (s : State) : (s.drawn).held = s.held := rfl
@[simp] theorem State.drawn_served (s : State) : (s.drawn).served = s.served := rfl
@[simp] theorem State.drawn_jobs (s : State) : (s.drawn).jobs = s.jobs := rfl
@[simp] theorem State.drawn_lead (s : State) : (s.drawn).lead = s.lead := rfl
@[simp] theorem State.drawn_actions (s : State) : (s.drawn).actions = s.actions := rfl
@[simp] theorem State.drawn_nextAction (s : State) : (s.drawn).nextAction = s.nextAction := rfl
@[simp] theorem State.drawn_snapSent (s : State) : (s.drawn).snapSent = s.snapSent := rfl
@[simp] theorem State.drawn_restarting (s : State) : (s.drawn).restarting = s.restarting := rfl
@[simp] theorem State.drawn_watchdogs (s : State) : (s.drawn).watchdogs = s.watchdogs := rfl
@[simp] theorem State.drawn_records (s : State) : (s.drawn).records = s.records := rfl
@[simp] theorem State.drawn_leases (s : State) : (s.drawn).leases = s.leases := rfl
@[simp] theorem State.drawn_reefs (s : State) : (s.drawn).reefs = s.reefs := rfl
@[simp] theorem State.drawn_jqueue (s : State) : (s.drawn).jqueue = s.jqueue := rfl
@[simp] theorem State.drawn_mctpOut (s : State) : (s.drawn).mctpOut = s.mctpOut := rfl
@[simp] theorem State.drawn_gov (s : State) : (s.drawn).gov = s.gov := rfl
@[simp] theorem State.drawn_pins (s : State) : (s.drawn).pins = s.pins := rfl
@[simp] theorem State.drawn_jtag (s : State) : (s.drawn).jtag = s.jtag := rfl
@[simp] theorem State.drawn_mctp (s : State) : (s.drawn).mctp = s.mctp := rfl
@[simp] theorem State.drawn_fw (s : State) : (s.drawn).fw = s.fw := rfl
@[simp] theorem State.drawn_jnl (s : State) : (s.drawn).jnl = s.jnl := rfl
@[simp] theorem State.drawn_drains (s : State) : (s.drawn).drains = s.drains := rfl
@[simp] theorem State.drawn_enablePend (s : State) : (s.drawn).enablePend = s.enablePend := rfl
@[simp] theorem State.drawn_rotations (s : State) : (s.drawn).rotations = s.rotations := rfl
@[simp] theorem State.drawn_drbgCount (s : State) : (s.drawn).drbgCount = s.drbgCount := rfl
@[simp] theorem State.drawn_ticks (s : State) : (s.drawn).ticks = s.ticks := rfl
@[simp] theorem State.drawn_pending (s : State) : (s.drawn).pending = s.pending := rfl
@[simp] theorem State.drawn_reg (s : State) (r' : Reg) (a' b' : Nat) : (s.drawn).reg r' a' b' = s.reg r' a' b' := rfl
@[simp] theorem State.drawn_fld (s : State) (g' : Fld) (a' b' : Nat) : (s.drawn).fld g' a' b' = s.fld g' a' b' := rfl
@[simp] theorem State.drawn_count (s : State) (i' : Nat) : (s.drawn).count i' = s.count i' := rfl
@[simp] theorem State.drawn_lane (s : State) (n' : Nat) (ba' : Bool) (cls' : Nat) : (s.drawn).lane n' ba' cls' = s.lane n' ba' cls' := rfl
@[simp] theorem State.drawn_fnState (s : State) (fn' : Nat) : (s.drawn).fnState fn' = s.fnState fn' := rfl
@[simp] theorem State.drawn_queue (s : State) (fn' q' : Nat) : (s.drawn).queue fn' q' = s.queue fn' q' := rfl
@[simp] theorem State.drawn_islet (s : State) (i' : Nat) : (s.drawn).islet i' = s.islet i' := rfl
@[simp] theorem State.drawn_link (s : State) (p' : Nat) : (s.drawn).link p' = s.link p' := rfl
@[simp] theorem State.drawn_mlPort (s : State) (p' : Nat) : (s.drawn).mlPort p' = s.mlPort p' := rfl
@[simp] theorem State.drawn_job (s : State) (x' : Nat) : (s.drawn).job x' = s.job x' := rfl
@[simp] theorem State.drawn_isArmed (s : State) (fn' k' : Nat) : (s.drawn).isArmed fn' k' = s.isArmed fn' k' := rfl

/-! ### setLane -/

@[simp] theorem State.setLane_pkg (s : State) (n : Nat) (ba : Bool) (cls : Nat) (l : Lane) : (s.setLane n ba cls l).pkg = s.pkg := rfl
@[simp] theorem State.setLane_svn (s : State) (n : Nat) (ba : Bool) (cls : Nat) (l : Lane) : (s.setLane n ba cls l).svn = s.svn := rfl
@[simp] theorem State.setLane_regs (s : State) (n : Nat) (ba : Bool) (cls : Nat) (l : Lane) : (s.setLane n ba cls l).regs = s.regs := rfl
@[simp] theorem State.setLane_counts (s : State) (n : Nat) (ba : Bool) (cls : Nat) (l : Lane) : (s.setLane n ba cls l).counts = s.counts := rfl
@[simp] theorem State.setLane_xturn (s : State) (n : Nat) (ba : Bool) (cls : Nat) (l : Lane) : (s.setLane n ba cls l).xturn = s.xturn := rfl
@[simp] theorem State.setLane_armed (s : State) (n : Nat) (ba : Bool) (cls : Nat) (l : Lane) : (s.setLane n ba cls l).armed = s.armed := rfl
@[simp] theorem State.setLane_hbrArmed (s : State) (n : Nat) (ba : Bool) (cls : Nat) (l : Lane) : (s.setLane n ba cls l).hbrArmed = s.hbrArmed := rfl
@[simp] theorem State.setLane_egress (s : State) (n : Nat) (ba : Bool) (cls : Nat) (l : Lane) : (s.setLane n ba cls l).egress = s.egress := rfl
@[simp] theorem State.setLane_heads (s : State) (n : Nat) (ba : Bool) (cls : Nat) (l : Lane) : (s.setLane n ba cls l).heads = s.heads := rfl
@[simp] theorem State.setLane_ports (s : State) (n : Nat) (ba : Bool) (cls : Nat) (l : Lane) : (s.setLane n ba cls l).ports = s.ports := rfl
@[simp] theorem State.setLane_claimWait (s : State) (n : Nat) (ba : Bool) (cls : Nat) (l : Lane) : (s.setLane n ba cls l).claimWait = s.claimWait := rfl
@[simp] theorem State.setLane_reads (s : State) (n : Nat) (ba : Bool) (cls : Nat) (l : Lane) : (s.setLane n ba cls l).reads = s.reads := rfl
@[simp] theorem State.setLane_readsWaiting (s : State) (n : Nat) (ba : Bool) (cls : Nat) (l : Lane) : (s.setLane n ba cls l).readsWaiting = s.readsWaiting := rfl
@[simp] theorem State.setLane_readData (s : State) (n : Nat) (ba : Bool) (cls : Nat) (l : Lane) : (s.setLane n ba cls l).readData = s.readData := rfl
@[simp] theorem State.setLane_mem (s : State) (n : Nat) (ba : Bool) (cls : Nat) (l : Lane) : (s.setLane n ba cls l).mem = s.mem := rfl
@[simp] theorem State.setLane_bad (s : State) (n : Nat) (ba : Bool) (cls : Nat) (l : Lane) : (s.setLane n ba cls l).bad = s.bad := rfl
@[simp] theorem State.setLane_rowErrs (s : State) (n : Nat) (ba : Bool) (cls : Nat) (l : Lane) : (s.setLane n ba cls l).rowErrs = s.rowErrs := rfl
@[simp] theorem State.setLane_repairs (s : State) (n : Nat) (ba : Bool) (cls : Nat) (l : Lane) : (s.setLane n ba cls l).repairs = s.repairs := rfl
@[simp] theorem State.setLane_withdrawn (s : State) (n : Nat) (ba : Bool) (cls : Nat) (l : Lane) : (s.setLane n ba cls l).withdrawn = s.withdrawn := rfl
@[simp] theorem State.setLane_unrepairable (s : State) (n : Nat) (ba : Bool) (cls : Nat) (l : Lane) : (s.setLane n ba cls l).unrepairable = s.unrepairable := rfl
@[simp] theorem State.setLane_sweepBad (s : State) (n : Nat) (ba : Bool) (cls : Nat) (l : Lane) : (s.setLane n ba cls l).sweepBad = s.sweepBad := rfl
@[simp] theorem State.setLane_fns (s : State) (n : Nat) (ba : Bool) (cls : Nat) (l : Lane) : (s.setLane n ba cls l).fns = s.fns := rfl
@[simp] theorem State.setLane_queues (s : State) (n : Nat) (ba : Bool) (cls : Nat) (l : Lane) : (s.setLane n ba cls l).queues = s.queues := rfl
@[simp] theorem State.setLane_islets (s : State) (n : Nat) (ba : Bool) (cls : Nat) (l : Lane) : (s.setLane n ba cls l).islets = s.islets := rfl
@[simp] theorem State.setLane_packets (s : State) (n : Nat) (ba : Bool) (cls : Nat) (l : Lane) : (s.setLane n ba cls l).packets = s.packets := rfl
@[simp] theorem State.setLane_launches (s : State) (n : Nat) (ba : Bool) (cls : Nat) (l : Lane) : (s.setLane n ba cls l).launches = s.launches := rfl
@[simp] theorem State.setLane_nextLaunch (s : State) (n : Nat) (ba : Bool) (cls : Nat) (l : Lane) : (s.setLane n ba cls l).nextLaunch = s.nextLaunch := rfl
@[simp] theorem State.setLane_pastLaunches (s : State) (n : Nat) (ba : Bool) (cls : Nat) (l : Lane) : (s.setLane n ba cls l).pastLaunches = s.pastLaunches := rfl
@[simp] theorem State.setLane_staging (s : State) (n : Nat) (ba : Bool) (cls : Nat) (l : Lane) : (s.setLane n ba cls l).staging = s.staging := rfl
@[simp] theorem State.setLane_stagingBusy (s : State) (n : Nat) (ba : Bool) (cls : Nat) (l : Lane) : (s.setLane n ba cls l).stagingBusy = s.stagingBusy := rfl
@[simp] theorem State.setLane_mlPorts (s : State) (n : Nat) (ba : Bool) (cls : Nat) (l : Lane) : (s.setLane n ba cls l).mlPorts = s.mlPorts := rfl
@[simp] theorem State.setLane_held (s : State) (n : Nat) (ba : Bool) (cls : Nat) (l : Lane) : (s.setLane n ba cls l).held = s.held := rfl
@[simp] theorem State.setLane_served (s : State) (n : Nat) (ba : Bool) (cls : Nat) (l : Lane) : (s.setLane n ba cls l).served = s.served := rfl
@[simp] theorem State.setLane_jobs (s : State) (n : Nat) (ba : Bool) (cls : Nat) (l : Lane) : (s.setLane n ba cls l).jobs = s.jobs := rfl
@[simp] theorem State.setLane_lead (s : State) (n : Nat) (ba : Bool) (cls : Nat) (l : Lane) : (s.setLane n ba cls l).lead = s.lead := rfl
@[simp] theorem State.setLane_actions (s : State) (n : Nat) (ba : Bool) (cls : Nat) (l : Lane) : (s.setLane n ba cls l).actions = s.actions := rfl
@[simp] theorem State.setLane_nextAction (s : State) (n : Nat) (ba : Bool) (cls : Nat) (l : Lane) : (s.setLane n ba cls l).nextAction = s.nextAction := rfl
@[simp] theorem State.setLane_snapSent (s : State) (n : Nat) (ba : Bool) (cls : Nat) (l : Lane) : (s.setLane n ba cls l).snapSent = s.snapSent := rfl
@[simp] theorem State.setLane_restarting (s : State) (n : Nat) (ba : Bool) (cls : Nat) (l : Lane) : (s.setLane n ba cls l).restarting = s.restarting := rfl
@[simp] theorem State.setLane_watchdogs (s : State) (n : Nat) (ba : Bool) (cls : Nat) (l : Lane) : (s.setLane n ba cls l).watchdogs = s.watchdogs := rfl
@[simp] theorem State.setLane_records (s : State) (n : Nat) (ba : Bool) (cls : Nat) (l : Lane) : (s.setLane n ba cls l).records = s.records := rfl
@[simp] theorem State.setLane_leases (s : State) (n : Nat) (ba : Bool) (cls : Nat) (l : Lane) : (s.setLane n ba cls l).leases = s.leases := rfl
@[simp] theorem State.setLane_reefs (s : State) (n : Nat) (ba : Bool) (cls : Nat) (l : Lane) : (s.setLane n ba cls l).reefs = s.reefs := rfl
@[simp] theorem State.setLane_jqueue (s : State) (n : Nat) (ba : Bool) (cls : Nat) (l : Lane) : (s.setLane n ba cls l).jqueue = s.jqueue := rfl
@[simp] theorem State.setLane_mctpOut (s : State) (n : Nat) (ba : Bool) (cls : Nat) (l : Lane) : (s.setLane n ba cls l).mctpOut = s.mctpOut := rfl
@[simp] theorem State.setLane_gov (s : State) (n : Nat) (ba : Bool) (cls : Nat) (l : Lane) : (s.setLane n ba cls l).gov = s.gov := rfl
@[simp] theorem State.setLane_pins (s : State) (n : Nat) (ba : Bool) (cls : Nat) (l : Lane) : (s.setLane n ba cls l).pins = s.pins := rfl
@[simp] theorem State.setLane_jtag (s : State) (n : Nat) (ba : Bool) (cls : Nat) (l : Lane) : (s.setLane n ba cls l).jtag = s.jtag := rfl
@[simp] theorem State.setLane_mctp (s : State) (n : Nat) (ba : Bool) (cls : Nat) (l : Lane) : (s.setLane n ba cls l).mctp = s.mctp := rfl
@[simp] theorem State.setLane_fw (s : State) (n : Nat) (ba : Bool) (cls : Nat) (l : Lane) : (s.setLane n ba cls l).fw = s.fw := rfl
@[simp] theorem State.setLane_jnl (s : State) (n : Nat) (ba : Bool) (cls : Nat) (l : Lane) : (s.setLane n ba cls l).jnl = s.jnl := rfl
@[simp] theorem State.setLane_drains (s : State) (n : Nat) (ba : Bool) (cls : Nat) (l : Lane) : (s.setLane n ba cls l).drains = s.drains := rfl
@[simp] theorem State.setLane_enablePend (s : State) (n : Nat) (ba : Bool) (cls : Nat) (l : Lane) : (s.setLane n ba cls l).enablePend = s.enablePend := rfl
@[simp] theorem State.setLane_rotations (s : State) (n : Nat) (ba : Bool) (cls : Nat) (l : Lane) : (s.setLane n ba cls l).rotations = s.rotations := rfl
@[simp] theorem State.setLane_drbgCount (s : State) (n : Nat) (ba : Bool) (cls : Nat) (l : Lane) : (s.setLane n ba cls l).drbgCount = s.drbgCount := rfl
@[simp] theorem State.setLane_freeCtr (s : State) (n : Nat) (ba : Bool) (cls : Nat) (l : Lane) : (s.setLane n ba cls l).freeCtr = s.freeCtr := rfl
@[simp] theorem State.setLane_ticks (s : State) (n : Nat) (ba : Bool) (cls : Nat) (l : Lane) : (s.setLane n ba cls l).ticks = s.ticks := rfl
@[simp] theorem State.setLane_pending (s : State) (n : Nat) (ba : Bool) (cls : Nat) (l : Lane) : (s.setLane n ba cls l).pending = s.pending := rfl
@[simp] theorem State.setLane_reg (s : State) (n : Nat) (ba : Bool) (cls : Nat) (l : Lane) (r' : Reg) (a' b' : Nat) : (s.setLane n ba cls l).reg r' a' b' = s.reg r' a' b' := rfl
@[simp] theorem State.setLane_fld (s : State) (n : Nat) (ba : Bool) (cls : Nat) (l : Lane) (g' : Fld) (a' b' : Nat) : (s.setLane n ba cls l).fld g' a' b' = s.fld g' a' b' := rfl
@[simp] theorem State.setLane_count (s : State) (n : Nat) (ba : Bool) (cls : Nat) (l : Lane) (i' : Nat) : (s.setLane n ba cls l).count i' = s.count i' := rfl
@[simp] theorem State.setLane_fnState (s : State) (n : Nat) (ba : Bool) (cls : Nat) (l : Lane) (fn' : Nat) : (s.setLane n ba cls l).fnState fn' = s.fnState fn' := rfl
@[simp] theorem State.setLane_queue (s : State) (n : Nat) (ba : Bool) (cls : Nat) (l : Lane) (fn' q' : Nat) : (s.setLane n ba cls l).queue fn' q' = s.queue fn' q' := rfl
@[simp] theorem State.setLane_islet (s : State) (n : Nat) (ba : Bool) (cls : Nat) (l : Lane) (i' : Nat) : (s.setLane n ba cls l).islet i' = s.islet i' := rfl
@[simp] theorem State.setLane_link (s : State) (n : Nat) (ba : Bool) (cls : Nat) (l : Lane) (p' : Nat) : (s.setLane n ba cls l).link p' = s.link p' := rfl
@[simp] theorem State.setLane_mlPort (s : State) (n : Nat) (ba : Bool) (cls : Nat) (l : Lane) (p' : Nat) : (s.setLane n ba cls l).mlPort p' = s.mlPort p' := rfl
@[simp] theorem State.setLane_job (s : State) (n : Nat) (ba : Bool) (cls : Nat) (l : Lane) (x' : Nat) : (s.setLane n ba cls l).job x' = s.job x' := rfl
@[simp] theorem State.setLane_isArmed (s : State) (n : Nat) (ba : Bool) (cls : Nat) (l : Lane) (fn' k' : Nat) : (s.setLane n ba cls l).isArmed fn' k' = s.isArmed fn' k' := rfl

/-! ### setArmed -/

@[simp] theorem State.setArmed_pkg (s : State) (fn k : Nat) (b : Bool) : (s.setArmed fn k b).pkg = s.pkg := rfl
@[simp] theorem State.setArmed_svn (s : State) (fn k : Nat) (b : Bool) : (s.setArmed fn k b).svn = s.svn := rfl
@[simp] theorem State.setArmed_regs (s : State) (fn k : Nat) (b : Bool) : (s.setArmed fn k b).regs = s.regs := rfl
@[simp] theorem State.setArmed_counts (s : State) (fn k : Nat) (b : Bool) : (s.setArmed fn k b).counts = s.counts := rfl
@[simp] theorem State.setArmed_lanes (s : State) (fn k : Nat) (b : Bool) : (s.setArmed fn k b).lanes = s.lanes := rfl
@[simp] theorem State.setArmed_xturn (s : State) (fn k : Nat) (b : Bool) : (s.setArmed fn k b).xturn = s.xturn := rfl
@[simp] theorem State.setArmed_hbrArmed (s : State) (fn k : Nat) (b : Bool) : (s.setArmed fn k b).hbrArmed = s.hbrArmed := rfl
@[simp] theorem State.setArmed_egress (s : State) (fn k : Nat) (b : Bool) : (s.setArmed fn k b).egress = s.egress := rfl
@[simp] theorem State.setArmed_heads (s : State) (fn k : Nat) (b : Bool) : (s.setArmed fn k b).heads = s.heads := rfl
@[simp] theorem State.setArmed_ports (s : State) (fn k : Nat) (b : Bool) : (s.setArmed fn k b).ports = s.ports := rfl
@[simp] theorem State.setArmed_claimWait (s : State) (fn k : Nat) (b : Bool) : (s.setArmed fn k b).claimWait = s.claimWait := rfl
@[simp] theorem State.setArmed_reads (s : State) (fn k : Nat) (b : Bool) : (s.setArmed fn k b).reads = s.reads := rfl
@[simp] theorem State.setArmed_readsWaiting (s : State) (fn k : Nat) (b : Bool) : (s.setArmed fn k b).readsWaiting = s.readsWaiting := rfl
@[simp] theorem State.setArmed_readData (s : State) (fn k : Nat) (b : Bool) : (s.setArmed fn k b).readData = s.readData := rfl
@[simp] theorem State.setArmed_mem (s : State) (fn k : Nat) (b : Bool) : (s.setArmed fn k b).mem = s.mem := rfl
@[simp] theorem State.setArmed_bad (s : State) (fn k : Nat) (b : Bool) : (s.setArmed fn k b).bad = s.bad := rfl
@[simp] theorem State.setArmed_rowErrs (s : State) (fn k : Nat) (b : Bool) : (s.setArmed fn k b).rowErrs = s.rowErrs := rfl
@[simp] theorem State.setArmed_repairs (s : State) (fn k : Nat) (b : Bool) : (s.setArmed fn k b).repairs = s.repairs := rfl
@[simp] theorem State.setArmed_withdrawn (s : State) (fn k : Nat) (b : Bool) : (s.setArmed fn k b).withdrawn = s.withdrawn := rfl
@[simp] theorem State.setArmed_unrepairable (s : State) (fn k : Nat) (b : Bool) : (s.setArmed fn k b).unrepairable = s.unrepairable := rfl
@[simp] theorem State.setArmed_sweepBad (s : State) (fn k : Nat) (b : Bool) : (s.setArmed fn k b).sweepBad = s.sweepBad := rfl
@[simp] theorem State.setArmed_fns (s : State) (fn k : Nat) (b : Bool) : (s.setArmed fn k b).fns = s.fns := rfl
@[simp] theorem State.setArmed_queues (s : State) (fn k : Nat) (b : Bool) : (s.setArmed fn k b).queues = s.queues := rfl
@[simp] theorem State.setArmed_islets (s : State) (fn k : Nat) (b : Bool) : (s.setArmed fn k b).islets = s.islets := rfl
@[simp] theorem State.setArmed_packets (s : State) (fn k : Nat) (b : Bool) : (s.setArmed fn k b).packets = s.packets := rfl
@[simp] theorem State.setArmed_launches (s : State) (fn k : Nat) (b : Bool) : (s.setArmed fn k b).launches = s.launches := rfl
@[simp] theorem State.setArmed_nextLaunch (s : State) (fn k : Nat) (b : Bool) : (s.setArmed fn k b).nextLaunch = s.nextLaunch := rfl
@[simp] theorem State.setArmed_pastLaunches (s : State) (fn k : Nat) (b : Bool) : (s.setArmed fn k b).pastLaunches = s.pastLaunches := rfl
@[simp] theorem State.setArmed_staging (s : State) (fn k : Nat) (b : Bool) : (s.setArmed fn k b).staging = s.staging := rfl
@[simp] theorem State.setArmed_stagingBusy (s : State) (fn k : Nat) (b : Bool) : (s.setArmed fn k b).stagingBusy = s.stagingBusy := rfl
@[simp] theorem State.setArmed_mlPorts (s : State) (fn k : Nat) (b : Bool) : (s.setArmed fn k b).mlPorts = s.mlPorts := rfl
@[simp] theorem State.setArmed_held (s : State) (fn k : Nat) (b : Bool) : (s.setArmed fn k b).held = s.held := rfl
@[simp] theorem State.setArmed_served (s : State) (fn k : Nat) (b : Bool) : (s.setArmed fn k b).served = s.served := rfl
@[simp] theorem State.setArmed_jobs (s : State) (fn k : Nat) (b : Bool) : (s.setArmed fn k b).jobs = s.jobs := rfl
@[simp] theorem State.setArmed_lead (s : State) (fn k : Nat) (b : Bool) : (s.setArmed fn k b).lead = s.lead := rfl
@[simp] theorem State.setArmed_actions (s : State) (fn k : Nat) (b : Bool) : (s.setArmed fn k b).actions = s.actions := rfl
@[simp] theorem State.setArmed_nextAction (s : State) (fn k : Nat) (b : Bool) : (s.setArmed fn k b).nextAction = s.nextAction := rfl
@[simp] theorem State.setArmed_snapSent (s : State) (fn k : Nat) (b : Bool) : (s.setArmed fn k b).snapSent = s.snapSent := rfl
@[simp] theorem State.setArmed_restarting (s : State) (fn k : Nat) (b : Bool) : (s.setArmed fn k b).restarting = s.restarting := rfl
@[simp] theorem State.setArmed_watchdogs (s : State) (fn k : Nat) (b : Bool) : (s.setArmed fn k b).watchdogs = s.watchdogs := rfl
@[simp] theorem State.setArmed_records (s : State) (fn k : Nat) (b : Bool) : (s.setArmed fn k b).records = s.records := rfl
@[simp] theorem State.setArmed_leases (s : State) (fn k : Nat) (b : Bool) : (s.setArmed fn k b).leases = s.leases := rfl
@[simp] theorem State.setArmed_reefs (s : State) (fn k : Nat) (b : Bool) : (s.setArmed fn k b).reefs = s.reefs := rfl
@[simp] theorem State.setArmed_jqueue (s : State) (fn k : Nat) (b : Bool) : (s.setArmed fn k b).jqueue = s.jqueue := rfl
@[simp] theorem State.setArmed_mctpOut (s : State) (fn k : Nat) (b : Bool) : (s.setArmed fn k b).mctpOut = s.mctpOut := rfl
@[simp] theorem State.setArmed_gov (s : State) (fn k : Nat) (b : Bool) : (s.setArmed fn k b).gov = s.gov := rfl
@[simp] theorem State.setArmed_pins (s : State) (fn k : Nat) (b : Bool) : (s.setArmed fn k b).pins = s.pins := rfl
@[simp] theorem State.setArmed_jtag (s : State) (fn k : Nat) (b : Bool) : (s.setArmed fn k b).jtag = s.jtag := rfl
@[simp] theorem State.setArmed_mctp (s : State) (fn k : Nat) (b : Bool) : (s.setArmed fn k b).mctp = s.mctp := rfl
@[simp] theorem State.setArmed_fw (s : State) (fn k : Nat) (b : Bool) : (s.setArmed fn k b).fw = s.fw := rfl
@[simp] theorem State.setArmed_jnl (s : State) (fn k : Nat) (b : Bool) : (s.setArmed fn k b).jnl = s.jnl := rfl
@[simp] theorem State.setArmed_drains (s : State) (fn k : Nat) (b : Bool) : (s.setArmed fn k b).drains = s.drains := rfl
@[simp] theorem State.setArmed_enablePend (s : State) (fn k : Nat) (b : Bool) : (s.setArmed fn k b).enablePend = s.enablePend := rfl
@[simp] theorem State.setArmed_rotations (s : State) (fn k : Nat) (b : Bool) : (s.setArmed fn k b).rotations = s.rotations := rfl
@[simp] theorem State.setArmed_drbgCount (s : State) (fn k : Nat) (b : Bool) : (s.setArmed fn k b).drbgCount = s.drbgCount := rfl
@[simp] theorem State.setArmed_freeCtr (s : State) (fn k : Nat) (b : Bool) : (s.setArmed fn k b).freeCtr = s.freeCtr := rfl
@[simp] theorem State.setArmed_ticks (s : State) (fn k : Nat) (b : Bool) : (s.setArmed fn k b).ticks = s.ticks := rfl
@[simp] theorem State.setArmed_pending (s : State) (fn k : Nat) (b : Bool) : (s.setArmed fn k b).pending = s.pending := rfl
@[simp] theorem State.setArmed_reg (s : State) (fn k : Nat) (b : Bool) (r' : Reg) (a' b' : Nat) : (s.setArmed fn k b).reg r' a' b' = s.reg r' a' b' := rfl
@[simp] theorem State.setArmed_fld (s : State) (fn k : Nat) (b : Bool) (g' : Fld) (a' b' : Nat) : (s.setArmed fn k b).fld g' a' b' = s.fld g' a' b' := rfl
@[simp] theorem State.setArmed_count (s : State) (fn k : Nat) (b : Bool) (i' : Nat) : (s.setArmed fn k b).count i' = s.count i' := rfl
@[simp] theorem State.setArmed_lane (s : State) (fn k : Nat) (b : Bool) (n' : Nat) (ba' : Bool) (cls' : Nat) : (s.setArmed fn k b).lane n' ba' cls' = s.lane n' ba' cls' := rfl
@[simp] theorem State.setArmed_fnState (s : State) (fn k : Nat) (b : Bool) (fn' : Nat) : (s.setArmed fn k b).fnState fn' = s.fnState fn' := rfl
@[simp] theorem State.setArmed_queue (s : State) (fn k : Nat) (b : Bool) (fn' q' : Nat) : (s.setArmed fn k b).queue fn' q' = s.queue fn' q' := rfl
@[simp] theorem State.setArmed_islet (s : State) (fn k : Nat) (b : Bool) (i' : Nat) : (s.setArmed fn k b).islet i' = s.islet i' := rfl
@[simp] theorem State.setArmed_link (s : State) (fn k : Nat) (b : Bool) (p' : Nat) : (s.setArmed fn k b).link p' = s.link p' := rfl
@[simp] theorem State.setArmed_mlPort (s : State) (fn k : Nat) (b : Bool) (p' : Nat) : (s.setArmed fn k b).mlPort p' = s.mlPort p' := rfl
@[simp] theorem State.setArmed_job (s : State) (fn k : Nat) (b : Bool) (x' : Nat) : (s.setArmed fn k b).job x' = s.job x' := rfl

/-! ### endReads -/

@[simp] theorem State.endReads_pkg (s : State) (st : Status) (p : Nat → ReadReq → Bool) : (s.endReads st p).pkg = s.pkg := rfl
@[simp] theorem State.endReads_svn (s : State) (st : Status) (p : Nat → ReadReq → Bool) : (s.endReads st p).svn = s.svn := rfl
@[simp] theorem State.endReads_regs (s : State) (st : Status) (p : Nat → ReadReq → Bool) : (s.endReads st p).regs = s.regs := rfl
@[simp] theorem State.endReads_counts (s : State) (st : Status) (p : Nat → ReadReq → Bool) : (s.endReads st p).counts = s.counts := rfl
@[simp] theorem State.endReads_lanes (s : State) (st : Status) (p : Nat → ReadReq → Bool) : (s.endReads st p).lanes = s.lanes := rfl
@[simp] theorem State.endReads_xturn (s : State) (st : Status) (p : Nat → ReadReq → Bool) : (s.endReads st p).xturn = s.xturn := rfl
@[simp] theorem State.endReads_armed (s : State) (st : Status) (p : Nat → ReadReq → Bool) : (s.endReads st p).armed = s.armed := rfl
@[simp] theorem State.endReads_hbrArmed (s : State) (st : Status) (p : Nat → ReadReq → Bool) : (s.endReads st p).hbrArmed = s.hbrArmed := rfl
@[simp] theorem State.endReads_egress (s : State) (st : Status) (p : Nat → ReadReq → Bool) : (s.endReads st p).egress = s.egress := rfl
@[simp] theorem State.endReads_heads (s : State) (st : Status) (p : Nat → ReadReq → Bool) : (s.endReads st p).heads = s.heads := rfl
@[simp] theorem State.endReads_ports (s : State) (st : Status) (p : Nat → ReadReq → Bool) : (s.endReads st p).ports = s.ports := rfl
@[simp] theorem State.endReads_claimWait (s : State) (st : Status) (p : Nat → ReadReq → Bool) : (s.endReads st p).claimWait = s.claimWait := rfl
@[simp] theorem State.endReads_readsWaiting (s : State) (st : Status) (p : Nat → ReadReq → Bool) : (s.endReads st p).readsWaiting = s.readsWaiting := rfl
@[simp] theorem State.endReads_mem (s : State) (st : Status) (p : Nat → ReadReq → Bool) : (s.endReads st p).mem = s.mem := rfl
@[simp] theorem State.endReads_bad (s : State) (st : Status) (p : Nat → ReadReq → Bool) : (s.endReads st p).bad = s.bad := rfl
@[simp] theorem State.endReads_rowErrs (s : State) (st : Status) (p : Nat → ReadReq → Bool) : (s.endReads st p).rowErrs = s.rowErrs := rfl
@[simp] theorem State.endReads_repairs (s : State) (st : Status) (p : Nat → ReadReq → Bool) : (s.endReads st p).repairs = s.repairs := rfl
@[simp] theorem State.endReads_withdrawn (s : State) (st : Status) (p : Nat → ReadReq → Bool) : (s.endReads st p).withdrawn = s.withdrawn := rfl
@[simp] theorem State.endReads_unrepairable (s : State) (st : Status) (p : Nat → ReadReq → Bool) : (s.endReads st p).unrepairable = s.unrepairable := rfl
@[simp] theorem State.endReads_sweepBad (s : State) (st : Status) (p : Nat → ReadReq → Bool) : (s.endReads st p).sweepBad = s.sweepBad := rfl
@[simp] theorem State.endReads_fns (s : State) (st : Status) (p : Nat → ReadReq → Bool) : (s.endReads st p).fns = s.fns := rfl
@[simp] theorem State.endReads_queues (s : State) (st : Status) (p : Nat → ReadReq → Bool) : (s.endReads st p).queues = s.queues := rfl
@[simp] theorem State.endReads_islets (s : State) (st : Status) (p : Nat → ReadReq → Bool) : (s.endReads st p).islets = s.islets := rfl
@[simp] theorem State.endReads_packets (s : State) (st : Status) (p : Nat → ReadReq → Bool) : (s.endReads st p).packets = s.packets := rfl
@[simp] theorem State.endReads_launches (s : State) (st : Status) (p : Nat → ReadReq → Bool) : (s.endReads st p).launches = s.launches := rfl
@[simp] theorem State.endReads_nextLaunch (s : State) (st : Status) (p : Nat → ReadReq → Bool) : (s.endReads st p).nextLaunch = s.nextLaunch := rfl
@[simp] theorem State.endReads_pastLaunches (s : State) (st : Status) (p : Nat → ReadReq → Bool) : (s.endReads st p).pastLaunches = s.pastLaunches := rfl
@[simp] theorem State.endReads_staging (s : State) (st : Status) (p : Nat → ReadReq → Bool) : (s.endReads st p).staging = s.staging := rfl
@[simp] theorem State.endReads_stagingBusy (s : State) (st : Status) (p : Nat → ReadReq → Bool) : (s.endReads st p).stagingBusy = s.stagingBusy := rfl
@[simp] theorem State.endReads_mlPorts (s : State) (st : Status) (p : Nat → ReadReq → Bool) : (s.endReads st p).mlPorts = s.mlPorts := rfl
@[simp] theorem State.endReads_held (s : State) (st : Status) (p : Nat → ReadReq → Bool) : (s.endReads st p).held = s.held := rfl
@[simp] theorem State.endReads_served (s : State) (st : Status) (p : Nat → ReadReq → Bool) : (s.endReads st p).served = s.served := rfl
@[simp] theorem State.endReads_jobs (s : State) (st : Status) (p : Nat → ReadReq → Bool) : (s.endReads st p).jobs = s.jobs := rfl
@[simp] theorem State.endReads_lead (s : State) (st : Status) (p : Nat → ReadReq → Bool) : (s.endReads st p).lead = s.lead := rfl
@[simp] theorem State.endReads_actions (s : State) (st : Status) (p : Nat → ReadReq → Bool) : (s.endReads st p).actions = s.actions := rfl
@[simp] theorem State.endReads_nextAction (s : State) (st : Status) (p : Nat → ReadReq → Bool) : (s.endReads st p).nextAction = s.nextAction := rfl
@[simp] theorem State.endReads_snapSent (s : State) (st : Status) (p : Nat → ReadReq → Bool) : (s.endReads st p).snapSent = s.snapSent := rfl
@[simp] theorem State.endReads_restarting (s : State) (st : Status) (p : Nat → ReadReq → Bool) : (s.endReads st p).restarting = s.restarting := rfl
@[simp] theorem State.endReads_watchdogs (s : State) (st : Status) (p : Nat → ReadReq → Bool) : (s.endReads st p).watchdogs = s.watchdogs := rfl
@[simp] theorem State.endReads_records (s : State) (st : Status) (p : Nat → ReadReq → Bool) : (s.endReads st p).records = s.records := rfl
@[simp] theorem State.endReads_leases (s : State) (st : Status) (p : Nat → ReadReq → Bool) : (s.endReads st p).leases = s.leases := rfl
@[simp] theorem State.endReads_reefs (s : State) (st : Status) (p : Nat → ReadReq → Bool) : (s.endReads st p).reefs = s.reefs := rfl
@[simp] theorem State.endReads_jqueue (s : State) (st : Status) (p : Nat → ReadReq → Bool) : (s.endReads st p).jqueue = s.jqueue := rfl
@[simp] theorem State.endReads_mctpOut (s : State) (st : Status) (p : Nat → ReadReq → Bool) : (s.endReads st p).mctpOut = s.mctpOut := rfl
@[simp] theorem State.endReads_gov (s : State) (st : Status) (p : Nat → ReadReq → Bool) : (s.endReads st p).gov = s.gov := rfl
@[simp] theorem State.endReads_pins (s : State) (st : Status) (p : Nat → ReadReq → Bool) : (s.endReads st p).pins = s.pins := rfl
@[simp] theorem State.endReads_jtag (s : State) (st : Status) (p : Nat → ReadReq → Bool) : (s.endReads st p).jtag = s.jtag := rfl
@[simp] theorem State.endReads_mctp (s : State) (st : Status) (p : Nat → ReadReq → Bool) : (s.endReads st p).mctp = s.mctp := rfl
@[simp] theorem State.endReads_fw (s : State) (st : Status) (p : Nat → ReadReq → Bool) : (s.endReads st p).fw = s.fw := rfl
@[simp] theorem State.endReads_jnl (s : State) (st : Status) (p : Nat → ReadReq → Bool) : (s.endReads st p).jnl = s.jnl := rfl
@[simp] theorem State.endReads_drains (s : State) (st : Status) (p : Nat → ReadReq → Bool) : (s.endReads st p).drains = s.drains := rfl
@[simp] theorem State.endReads_enablePend (s : State) (st : Status) (p : Nat → ReadReq → Bool) : (s.endReads st p).enablePend = s.enablePend := rfl
@[simp] theorem State.endReads_rotations (s : State) (st : Status) (p : Nat → ReadReq → Bool) : (s.endReads st p).rotations = s.rotations := rfl
@[simp] theorem State.endReads_drbgCount (s : State) (st : Status) (p : Nat → ReadReq → Bool) : (s.endReads st p).drbgCount = s.drbgCount := rfl
@[simp] theorem State.endReads_freeCtr (s : State) (st : Status) (p : Nat → ReadReq → Bool) : (s.endReads st p).freeCtr = s.freeCtr := rfl
@[simp] theorem State.endReads_ticks (s : State) (st : Status) (p : Nat → ReadReq → Bool) : (s.endReads st p).ticks = s.ticks := rfl
@[simp] theorem State.endReads_pending (s : State) (st : Status) (p : Nat → ReadReq → Bool) : (s.endReads st p).pending = s.pending := rfl
@[simp] theorem State.endReads_reg (s : State) (st : Status) (p : Nat → ReadReq → Bool) (r' : Reg) (a' b' : Nat) : (s.endReads st p).reg r' a' b' = s.reg r' a' b' := rfl
@[simp] theorem State.endReads_fld (s : State) (st : Status) (p : Nat → ReadReq → Bool) (g' : Fld) (a' b' : Nat) : (s.endReads st p).fld g' a' b' = s.fld g' a' b' := rfl
@[simp] theorem State.endReads_count (s : State) (st : Status) (p : Nat → ReadReq → Bool) (i' : Nat) : (s.endReads st p).count i' = s.count i' := rfl
@[simp] theorem State.endReads_lane (s : State) (st : Status) (p : Nat → ReadReq → Bool) (n' : Nat) (ba' : Bool) (cls' : Nat) : (s.endReads st p).lane n' ba' cls' = s.lane n' ba' cls' := rfl
@[simp] theorem State.endReads_fnState (s : State) (st : Status) (p : Nat → ReadReq → Bool) (fn' : Nat) : (s.endReads st p).fnState fn' = s.fnState fn' := rfl
@[simp] theorem State.endReads_queue (s : State) (st : Status) (p : Nat → ReadReq → Bool) (fn' q' : Nat) : (s.endReads st p).queue fn' q' = s.queue fn' q' := rfl
@[simp] theorem State.endReads_islet (s : State) (st : Status) (p : Nat → ReadReq → Bool) (i' : Nat) : (s.endReads st p).islet i' = s.islet i' := rfl
@[simp] theorem State.endReads_link (s : State) (st : Status) (p : Nat → ReadReq → Bool) (p' : Nat) : (s.endReads st p).link p' = s.link p' := rfl
@[simp] theorem State.endReads_mlPort (s : State) (st : Status) (p : Nat → ReadReq → Bool) (p' : Nat) : (s.endReads st p).mlPort p' = s.mlPort p' := rfl
@[simp] theorem State.endReads_job (s : State) (st : Status) (p : Nat → ReadReq → Bool) (x' : Nat) : (s.endReads st p).job x' = s.job x' := rfl
@[simp] theorem State.endReads_isArmed (s : State) (st : Status) (p : Nat → ReadReq → Bool) (fn' k' : Nat) : (s.endReads st p).isArmed fn' k' = s.isArmed fn' k' := rfl

/-! ### failReads -/

@[simp] theorem State.failReads_pkg (s : State) (p : Nat → ReadReq → Bool) : (s.failReads p).pkg = s.pkg := rfl
@[simp] theorem State.failReads_svn (s : State) (p : Nat → ReadReq → Bool) : (s.failReads p).svn = s.svn := rfl
@[simp] theorem State.failReads_regs (s : State) (p : Nat → ReadReq → Bool) : (s.failReads p).regs = s.regs := rfl
@[simp] theorem State.failReads_counts (s : State) (p : Nat → ReadReq → Bool) : (s.failReads p).counts = s.counts := rfl
@[simp] theorem State.failReads_lanes (s : State) (p : Nat → ReadReq → Bool) : (s.failReads p).lanes = s.lanes := rfl
@[simp] theorem State.failReads_xturn (s : State) (p : Nat → ReadReq → Bool) : (s.failReads p).xturn = s.xturn := rfl
@[simp] theorem State.failReads_armed (s : State) (p : Nat → ReadReq → Bool) : (s.failReads p).armed = s.armed := rfl
@[simp] theorem State.failReads_hbrArmed (s : State) (p : Nat → ReadReq → Bool) : (s.failReads p).hbrArmed = s.hbrArmed := rfl
@[simp] theorem State.failReads_egress (s : State) (p : Nat → ReadReq → Bool) : (s.failReads p).egress = s.egress := rfl
@[simp] theorem State.failReads_heads (s : State) (p : Nat → ReadReq → Bool) : (s.failReads p).heads = s.heads := rfl
@[simp] theorem State.failReads_ports (s : State) (p : Nat → ReadReq → Bool) : (s.failReads p).ports = s.ports := rfl
@[simp] theorem State.failReads_claimWait (s : State) (p : Nat → ReadReq → Bool) : (s.failReads p).claimWait = s.claimWait := rfl
@[simp] theorem State.failReads_readsWaiting (s : State) (p : Nat → ReadReq → Bool) : (s.failReads p).readsWaiting = s.readsWaiting := rfl
@[simp] theorem State.failReads_mem (s : State) (p : Nat → ReadReq → Bool) : (s.failReads p).mem = s.mem := rfl
@[simp] theorem State.failReads_bad (s : State) (p : Nat → ReadReq → Bool) : (s.failReads p).bad = s.bad := rfl
@[simp] theorem State.failReads_rowErrs (s : State) (p : Nat → ReadReq → Bool) : (s.failReads p).rowErrs = s.rowErrs := rfl
@[simp] theorem State.failReads_repairs (s : State) (p : Nat → ReadReq → Bool) : (s.failReads p).repairs = s.repairs := rfl
@[simp] theorem State.failReads_withdrawn (s : State) (p : Nat → ReadReq → Bool) : (s.failReads p).withdrawn = s.withdrawn := rfl
@[simp] theorem State.failReads_unrepairable (s : State) (p : Nat → ReadReq → Bool) : (s.failReads p).unrepairable = s.unrepairable := rfl
@[simp] theorem State.failReads_sweepBad (s : State) (p : Nat → ReadReq → Bool) : (s.failReads p).sweepBad = s.sweepBad := rfl
@[simp] theorem State.failReads_fns (s : State) (p : Nat → ReadReq → Bool) : (s.failReads p).fns = s.fns := rfl
@[simp] theorem State.failReads_queues (s : State) (p : Nat → ReadReq → Bool) : (s.failReads p).queues = s.queues := rfl
@[simp] theorem State.failReads_islets (s : State) (p : Nat → ReadReq → Bool) : (s.failReads p).islets = s.islets := rfl
@[simp] theorem State.failReads_packets (s : State) (p : Nat → ReadReq → Bool) : (s.failReads p).packets = s.packets := rfl
@[simp] theorem State.failReads_launches (s : State) (p : Nat → ReadReq → Bool) : (s.failReads p).launches = s.launches := rfl
@[simp] theorem State.failReads_nextLaunch (s : State) (p : Nat → ReadReq → Bool) : (s.failReads p).nextLaunch = s.nextLaunch := rfl
@[simp] theorem State.failReads_pastLaunches (s : State) (p : Nat → ReadReq → Bool) : (s.failReads p).pastLaunches = s.pastLaunches := rfl
@[simp] theorem State.failReads_staging (s : State) (p : Nat → ReadReq → Bool) : (s.failReads p).staging = s.staging := rfl
@[simp] theorem State.failReads_stagingBusy (s : State) (p : Nat → ReadReq → Bool) : (s.failReads p).stagingBusy = s.stagingBusy := rfl
@[simp] theorem State.failReads_mlPorts (s : State) (p : Nat → ReadReq → Bool) : (s.failReads p).mlPorts = s.mlPorts := rfl
@[simp] theorem State.failReads_held (s : State) (p : Nat → ReadReq → Bool) : (s.failReads p).held = s.held := rfl
@[simp] theorem State.failReads_served (s : State) (p : Nat → ReadReq → Bool) : (s.failReads p).served = s.served := rfl
@[simp] theorem State.failReads_jobs (s : State) (p : Nat → ReadReq → Bool) : (s.failReads p).jobs = s.jobs := rfl
@[simp] theorem State.failReads_lead (s : State) (p : Nat → ReadReq → Bool) : (s.failReads p).lead = s.lead := rfl
@[simp] theorem State.failReads_actions (s : State) (p : Nat → ReadReq → Bool) : (s.failReads p).actions = s.actions := rfl
@[simp] theorem State.failReads_nextAction (s : State) (p : Nat → ReadReq → Bool) : (s.failReads p).nextAction = s.nextAction := rfl
@[simp] theorem State.failReads_snapSent (s : State) (p : Nat → ReadReq → Bool) : (s.failReads p).snapSent = s.snapSent := rfl
@[simp] theorem State.failReads_restarting (s : State) (p : Nat → ReadReq → Bool) : (s.failReads p).restarting = s.restarting := rfl
@[simp] theorem State.failReads_watchdogs (s : State) (p : Nat → ReadReq → Bool) : (s.failReads p).watchdogs = s.watchdogs := rfl
@[simp] theorem State.failReads_records (s : State) (p : Nat → ReadReq → Bool) : (s.failReads p).records = s.records := rfl
@[simp] theorem State.failReads_leases (s : State) (p : Nat → ReadReq → Bool) : (s.failReads p).leases = s.leases := rfl
@[simp] theorem State.failReads_reefs (s : State) (p : Nat → ReadReq → Bool) : (s.failReads p).reefs = s.reefs := rfl
@[simp] theorem State.failReads_jqueue (s : State) (p : Nat → ReadReq → Bool) : (s.failReads p).jqueue = s.jqueue := rfl
@[simp] theorem State.failReads_mctpOut (s : State) (p : Nat → ReadReq → Bool) : (s.failReads p).mctpOut = s.mctpOut := rfl
@[simp] theorem State.failReads_gov (s : State) (p : Nat → ReadReq → Bool) : (s.failReads p).gov = s.gov := rfl
@[simp] theorem State.failReads_pins (s : State) (p : Nat → ReadReq → Bool) : (s.failReads p).pins = s.pins := rfl
@[simp] theorem State.failReads_jtag (s : State) (p : Nat → ReadReq → Bool) : (s.failReads p).jtag = s.jtag := rfl
@[simp] theorem State.failReads_mctp (s : State) (p : Nat → ReadReq → Bool) : (s.failReads p).mctp = s.mctp := rfl
@[simp] theorem State.failReads_fw (s : State) (p : Nat → ReadReq → Bool) : (s.failReads p).fw = s.fw := rfl
@[simp] theorem State.failReads_jnl (s : State) (p : Nat → ReadReq → Bool) : (s.failReads p).jnl = s.jnl := rfl
@[simp] theorem State.failReads_drains (s : State) (p : Nat → ReadReq → Bool) : (s.failReads p).drains = s.drains := rfl
@[simp] theorem State.failReads_enablePend (s : State) (p : Nat → ReadReq → Bool) : (s.failReads p).enablePend = s.enablePend := rfl
@[simp] theorem State.failReads_rotations (s : State) (p : Nat → ReadReq → Bool) : (s.failReads p).rotations = s.rotations := rfl
@[simp] theorem State.failReads_drbgCount (s : State) (p : Nat → ReadReq → Bool) : (s.failReads p).drbgCount = s.drbgCount := rfl
@[simp] theorem State.failReads_freeCtr (s : State) (p : Nat → ReadReq → Bool) : (s.failReads p).freeCtr = s.freeCtr := rfl
@[simp] theorem State.failReads_ticks (s : State) (p : Nat → ReadReq → Bool) : (s.failReads p).ticks = s.ticks := rfl
@[simp] theorem State.failReads_pending (s : State) (p : Nat → ReadReq → Bool) : (s.failReads p).pending = s.pending := rfl
@[simp] theorem State.failReads_reg (s : State) (p : Nat → ReadReq → Bool) (r' : Reg) (a' b' : Nat) : (s.failReads p).reg r' a' b' = s.reg r' a' b' := rfl
@[simp] theorem State.failReads_fld (s : State) (p : Nat → ReadReq → Bool) (g' : Fld) (a' b' : Nat) : (s.failReads p).fld g' a' b' = s.fld g' a' b' := rfl
@[simp] theorem State.failReads_count (s : State) (p : Nat → ReadReq → Bool) (i' : Nat) : (s.failReads p).count i' = s.count i' := rfl
@[simp] theorem State.failReads_lane (s : State) (p : Nat → ReadReq → Bool) (n' : Nat) (ba' : Bool) (cls' : Nat) : (s.failReads p).lane n' ba' cls' = s.lane n' ba' cls' := rfl
@[simp] theorem State.failReads_fnState (s : State) (p : Nat → ReadReq → Bool) (fn' : Nat) : (s.failReads p).fnState fn' = s.fnState fn' := rfl
@[simp] theorem State.failReads_queue (s : State) (p : Nat → ReadReq → Bool) (fn' q' : Nat) : (s.failReads p).queue fn' q' = s.queue fn' q' := rfl
@[simp] theorem State.failReads_islet (s : State) (p : Nat → ReadReq → Bool) (i' : Nat) : (s.failReads p).islet i' = s.islet i' := rfl
@[simp] theorem State.failReads_link (s : State) (p : Nat → ReadReq → Bool) (p' : Nat) : (s.failReads p).link p' = s.link p' := rfl
@[simp] theorem State.failReads_mlPort (s : State) (p : Nat → ReadReq → Bool) (p' : Nat) : (s.failReads p).mlPort p' = s.mlPort p' := rfl
@[simp] theorem State.failReads_job (s : State) (p : Nat → ReadReq → Bool) (x' : Nat) : (s.failReads p).job x' = s.job x' := rfl
@[simp] theorem State.failReads_isArmed (s : State) (p : Nat → ReadReq → Bool) (fn' k' : Nat) : (s.failReads p).isArmed fn' k' = s.isArmed fn' k' := rfl

/-! ### modFn -/

@[simp] theorem State.modFn_pkg (s : State) (fn : Nat) (f : FnState → FnState) : (s.modFn fn f).pkg = s.pkg := rfl
@[simp] theorem State.modFn_svn (s : State) (fn : Nat) (f : FnState → FnState) : (s.modFn fn f).svn = s.svn := rfl
@[simp] theorem State.modFn_regs (s : State) (fn : Nat) (f : FnState → FnState) : (s.modFn fn f).regs = s.regs := rfl
@[simp] theorem State.modFn_counts (s : State) (fn : Nat) (f : FnState → FnState) : (s.modFn fn f).counts = s.counts := rfl
@[simp] theorem State.modFn_lanes (s : State) (fn : Nat) (f : FnState → FnState) : (s.modFn fn f).lanes = s.lanes := rfl
@[simp] theorem State.modFn_xturn (s : State) (fn : Nat) (f : FnState → FnState) : (s.modFn fn f).xturn = s.xturn := rfl
@[simp] theorem State.modFn_armed (s : State) (fn : Nat) (f : FnState → FnState) : (s.modFn fn f).armed = s.armed := rfl
@[simp] theorem State.modFn_hbrArmed (s : State) (fn : Nat) (f : FnState → FnState) : (s.modFn fn f).hbrArmed = s.hbrArmed := rfl
@[simp] theorem State.modFn_egress (s : State) (fn : Nat) (f : FnState → FnState) : (s.modFn fn f).egress = s.egress := rfl
@[simp] theorem State.modFn_heads (s : State) (fn : Nat) (f : FnState → FnState) : (s.modFn fn f).heads = s.heads := rfl
@[simp] theorem State.modFn_ports (s : State) (fn : Nat) (f : FnState → FnState) : (s.modFn fn f).ports = s.ports := rfl
@[simp] theorem State.modFn_claimWait (s : State) (fn : Nat) (f : FnState → FnState) : (s.modFn fn f).claimWait = s.claimWait := rfl
@[simp] theorem State.modFn_reads (s : State) (fn : Nat) (f : FnState → FnState) : (s.modFn fn f).reads = s.reads := rfl
@[simp] theorem State.modFn_readsWaiting (s : State) (fn : Nat) (f : FnState → FnState) : (s.modFn fn f).readsWaiting = s.readsWaiting := rfl
@[simp] theorem State.modFn_readData (s : State) (fn : Nat) (f : FnState → FnState) : (s.modFn fn f).readData = s.readData := rfl
@[simp] theorem State.modFn_mem (s : State) (fn : Nat) (f : FnState → FnState) : (s.modFn fn f).mem = s.mem := rfl
@[simp] theorem State.modFn_bad (s : State) (fn : Nat) (f : FnState → FnState) : (s.modFn fn f).bad = s.bad := rfl
@[simp] theorem State.modFn_rowErrs (s : State) (fn : Nat) (f : FnState → FnState) : (s.modFn fn f).rowErrs = s.rowErrs := rfl
@[simp] theorem State.modFn_repairs (s : State) (fn : Nat) (f : FnState → FnState) : (s.modFn fn f).repairs = s.repairs := rfl
@[simp] theorem State.modFn_withdrawn (s : State) (fn : Nat) (f : FnState → FnState) : (s.modFn fn f).withdrawn = s.withdrawn := rfl
@[simp] theorem State.modFn_unrepairable (s : State) (fn : Nat) (f : FnState → FnState) : (s.modFn fn f).unrepairable = s.unrepairable := rfl
@[simp] theorem State.modFn_sweepBad (s : State) (fn : Nat) (f : FnState → FnState) : (s.modFn fn f).sweepBad = s.sweepBad := rfl
@[simp] theorem State.modFn_queues (s : State) (fn : Nat) (f : FnState → FnState) : (s.modFn fn f).queues = s.queues := rfl
@[simp] theorem State.modFn_islets (s : State) (fn : Nat) (f : FnState → FnState) : (s.modFn fn f).islets = s.islets := rfl
@[simp] theorem State.modFn_packets (s : State) (fn : Nat) (f : FnState → FnState) : (s.modFn fn f).packets = s.packets := rfl
@[simp] theorem State.modFn_launches (s : State) (fn : Nat) (f : FnState → FnState) : (s.modFn fn f).launches = s.launches := rfl
@[simp] theorem State.modFn_nextLaunch (s : State) (fn : Nat) (f : FnState → FnState) : (s.modFn fn f).nextLaunch = s.nextLaunch := rfl
@[simp] theorem State.modFn_pastLaunches (s : State) (fn : Nat) (f : FnState → FnState) : (s.modFn fn f).pastLaunches = s.pastLaunches := rfl
@[simp] theorem State.modFn_staging (s : State) (fn : Nat) (f : FnState → FnState) : (s.modFn fn f).staging = s.staging := rfl
@[simp] theorem State.modFn_stagingBusy (s : State) (fn : Nat) (f : FnState → FnState) : (s.modFn fn f).stagingBusy = s.stagingBusy := rfl
@[simp] theorem State.modFn_mlPorts (s : State) (fn : Nat) (f : FnState → FnState) : (s.modFn fn f).mlPorts = s.mlPorts := rfl
@[simp] theorem State.modFn_held (s : State) (fn : Nat) (f : FnState → FnState) : (s.modFn fn f).held = s.held := rfl
@[simp] theorem State.modFn_served (s : State) (fn : Nat) (f : FnState → FnState) : (s.modFn fn f).served = s.served := rfl
@[simp] theorem State.modFn_jobs (s : State) (fn : Nat) (f : FnState → FnState) : (s.modFn fn f).jobs = s.jobs := rfl
@[simp] theorem State.modFn_lead (s : State) (fn : Nat) (f : FnState → FnState) : (s.modFn fn f).lead = s.lead := rfl
@[simp] theorem State.modFn_actions (s : State) (fn : Nat) (f : FnState → FnState) : (s.modFn fn f).actions = s.actions := rfl
@[simp] theorem State.modFn_nextAction (s : State) (fn : Nat) (f : FnState → FnState) : (s.modFn fn f).nextAction = s.nextAction := rfl
@[simp] theorem State.modFn_snapSent (s : State) (fn : Nat) (f : FnState → FnState) : (s.modFn fn f).snapSent = s.snapSent := rfl
@[simp] theorem State.modFn_restarting (s : State) (fn : Nat) (f : FnState → FnState) : (s.modFn fn f).restarting = s.restarting := rfl
@[simp] theorem State.modFn_watchdogs (s : State) (fn : Nat) (f : FnState → FnState) : (s.modFn fn f).watchdogs = s.watchdogs := rfl
@[simp] theorem State.modFn_records (s : State) (fn : Nat) (f : FnState → FnState) : (s.modFn fn f).records = s.records := rfl
@[simp] theorem State.modFn_leases (s : State) (fn : Nat) (f : FnState → FnState) : (s.modFn fn f).leases = s.leases := rfl
@[simp] theorem State.modFn_reefs (s : State) (fn : Nat) (f : FnState → FnState) : (s.modFn fn f).reefs = s.reefs := rfl
@[simp] theorem State.modFn_jqueue (s : State) (fn : Nat) (f : FnState → FnState) : (s.modFn fn f).jqueue = s.jqueue := rfl
@[simp] theorem State.modFn_mctpOut (s : State) (fn : Nat) (f : FnState → FnState) : (s.modFn fn f).mctpOut = s.mctpOut := rfl
@[simp] theorem State.modFn_gov (s : State) (fn : Nat) (f : FnState → FnState) : (s.modFn fn f).gov = s.gov := rfl
@[simp] theorem State.modFn_pins (s : State) (fn : Nat) (f : FnState → FnState) : (s.modFn fn f).pins = s.pins := rfl
@[simp] theorem State.modFn_jtag (s : State) (fn : Nat) (f : FnState → FnState) : (s.modFn fn f).jtag = s.jtag := rfl
@[simp] theorem State.modFn_mctp (s : State) (fn : Nat) (f : FnState → FnState) : (s.modFn fn f).mctp = s.mctp := rfl
@[simp] theorem State.modFn_fw (s : State) (fn : Nat) (f : FnState → FnState) : (s.modFn fn f).fw = s.fw := rfl
@[simp] theorem State.modFn_jnl (s : State) (fn : Nat) (f : FnState → FnState) : (s.modFn fn f).jnl = s.jnl := rfl
@[simp] theorem State.modFn_drains (s : State) (fn : Nat) (f : FnState → FnState) : (s.modFn fn f).drains = s.drains := rfl
@[simp] theorem State.modFn_enablePend (s : State) (fn : Nat) (f : FnState → FnState) : (s.modFn fn f).enablePend = s.enablePend := rfl
@[simp] theorem State.modFn_rotations (s : State) (fn : Nat) (f : FnState → FnState) : (s.modFn fn f).rotations = s.rotations := rfl
@[simp] theorem State.modFn_drbgCount (s : State) (fn : Nat) (f : FnState → FnState) : (s.modFn fn f).drbgCount = s.drbgCount := rfl
@[simp] theorem State.modFn_freeCtr (s : State) (fn : Nat) (f : FnState → FnState) : (s.modFn fn f).freeCtr = s.freeCtr := rfl
@[simp] theorem State.modFn_ticks (s : State) (fn : Nat) (f : FnState → FnState) : (s.modFn fn f).ticks = s.ticks := rfl
@[simp] theorem State.modFn_pending (s : State) (fn : Nat) (f : FnState → FnState) : (s.modFn fn f).pending = s.pending := rfl
@[simp] theorem State.modFn_reg (s : State) (fn : Nat) (f : FnState → FnState) (r' : Reg) (a' b' : Nat) : (s.modFn fn f).reg r' a' b' = s.reg r' a' b' := rfl
@[simp] theorem State.modFn_fld (s : State) (fn : Nat) (f : FnState → FnState) (g' : Fld) (a' b' : Nat) : (s.modFn fn f).fld g' a' b' = s.fld g' a' b' := rfl
@[simp] theorem State.modFn_count (s : State) (fn : Nat) (f : FnState → FnState) (i' : Nat) : (s.modFn fn f).count i' = s.count i' := rfl
@[simp] theorem State.modFn_lane (s : State) (fn : Nat) (f : FnState → FnState) (n' : Nat) (ba' : Bool) (cls' : Nat) : (s.modFn fn f).lane n' ba' cls' = s.lane n' ba' cls' := rfl
@[simp] theorem State.modFn_queue (s : State) (fn : Nat) (f : FnState → FnState) (fn' q' : Nat) : (s.modFn fn f).queue fn' q' = s.queue fn' q' := rfl
@[simp] theorem State.modFn_islet (s : State) (fn : Nat) (f : FnState → FnState) (i' : Nat) : (s.modFn fn f).islet i' = s.islet i' := rfl
@[simp] theorem State.modFn_link (s : State) (fn : Nat) (f : FnState → FnState) (p' : Nat) : (s.modFn fn f).link p' = s.link p' := rfl
@[simp] theorem State.modFn_mlPort (s : State) (fn : Nat) (f : FnState → FnState) (p' : Nat) : (s.modFn fn f).mlPort p' = s.mlPort p' := rfl
@[simp] theorem State.modFn_job (s : State) (fn : Nat) (f : FnState → FnState) (x' : Nat) : (s.modFn fn f).job x' = s.job x' := rfl
@[simp] theorem State.modFn_isArmed (s : State) (fn : Nat) (f : FnState → FnState) (fn' k' : Nat) : (s.modFn fn f).isArmed fn' k' = s.isArmed fn' k' := rfl

/-! ### setQueue -/

@[simp] theorem State.setQueue_pkg (s : State) (fn q : Nat) (v : Queue) : (s.setQueue fn q v).pkg = s.pkg := rfl
@[simp] theorem State.setQueue_svn (s : State) (fn q : Nat) (v : Queue) : (s.setQueue fn q v).svn = s.svn := rfl
@[simp] theorem State.setQueue_regs (s : State) (fn q : Nat) (v : Queue) : (s.setQueue fn q v).regs = s.regs := rfl
@[simp] theorem State.setQueue_counts (s : State) (fn q : Nat) (v : Queue) : (s.setQueue fn q v).counts = s.counts := rfl
@[simp] theorem State.setQueue_lanes (s : State) (fn q : Nat) (v : Queue) : (s.setQueue fn q v).lanes = s.lanes := rfl
@[simp] theorem State.setQueue_xturn (s : State) (fn q : Nat) (v : Queue) : (s.setQueue fn q v).xturn = s.xturn := rfl
@[simp] theorem State.setQueue_armed (s : State) (fn q : Nat) (v : Queue) : (s.setQueue fn q v).armed = s.armed := rfl
@[simp] theorem State.setQueue_hbrArmed (s : State) (fn q : Nat) (v : Queue) : (s.setQueue fn q v).hbrArmed = s.hbrArmed := rfl
@[simp] theorem State.setQueue_egress (s : State) (fn q : Nat) (v : Queue) : (s.setQueue fn q v).egress = s.egress := rfl
@[simp] theorem State.setQueue_heads (s : State) (fn q : Nat) (v : Queue) : (s.setQueue fn q v).heads = s.heads := rfl
@[simp] theorem State.setQueue_ports (s : State) (fn q : Nat) (v : Queue) : (s.setQueue fn q v).ports = s.ports := rfl
@[simp] theorem State.setQueue_claimWait (s : State) (fn q : Nat) (v : Queue) : (s.setQueue fn q v).claimWait = s.claimWait := rfl
@[simp] theorem State.setQueue_reads (s : State) (fn q : Nat) (v : Queue) : (s.setQueue fn q v).reads = s.reads := rfl
@[simp] theorem State.setQueue_readsWaiting (s : State) (fn q : Nat) (v : Queue) : (s.setQueue fn q v).readsWaiting = s.readsWaiting := rfl
@[simp] theorem State.setQueue_readData (s : State) (fn q : Nat) (v : Queue) : (s.setQueue fn q v).readData = s.readData := rfl
@[simp] theorem State.setQueue_mem (s : State) (fn q : Nat) (v : Queue) : (s.setQueue fn q v).mem = s.mem := rfl
@[simp] theorem State.setQueue_bad (s : State) (fn q : Nat) (v : Queue) : (s.setQueue fn q v).bad = s.bad := rfl
@[simp] theorem State.setQueue_rowErrs (s : State) (fn q : Nat) (v : Queue) : (s.setQueue fn q v).rowErrs = s.rowErrs := rfl
@[simp] theorem State.setQueue_repairs (s : State) (fn q : Nat) (v : Queue) : (s.setQueue fn q v).repairs = s.repairs := rfl
@[simp] theorem State.setQueue_withdrawn (s : State) (fn q : Nat) (v : Queue) : (s.setQueue fn q v).withdrawn = s.withdrawn := rfl
@[simp] theorem State.setQueue_unrepairable (s : State) (fn q : Nat) (v : Queue) : (s.setQueue fn q v).unrepairable = s.unrepairable := rfl
@[simp] theorem State.setQueue_sweepBad (s : State) (fn q : Nat) (v : Queue) : (s.setQueue fn q v).sweepBad = s.sweepBad := rfl
@[simp] theorem State.setQueue_fns (s : State) (fn q : Nat) (v : Queue) : (s.setQueue fn q v).fns = s.fns := rfl
@[simp] theorem State.setQueue_islets (s : State) (fn q : Nat) (v : Queue) : (s.setQueue fn q v).islets = s.islets := rfl
@[simp] theorem State.setQueue_packets (s : State) (fn q : Nat) (v : Queue) : (s.setQueue fn q v).packets = s.packets := rfl
@[simp] theorem State.setQueue_launches (s : State) (fn q : Nat) (v : Queue) : (s.setQueue fn q v).launches = s.launches := rfl
@[simp] theorem State.setQueue_nextLaunch (s : State) (fn q : Nat) (v : Queue) : (s.setQueue fn q v).nextLaunch = s.nextLaunch := rfl
@[simp] theorem State.setQueue_pastLaunches (s : State) (fn q : Nat) (v : Queue) : (s.setQueue fn q v).pastLaunches = s.pastLaunches := rfl
@[simp] theorem State.setQueue_staging (s : State) (fn q : Nat) (v : Queue) : (s.setQueue fn q v).staging = s.staging := rfl
@[simp] theorem State.setQueue_stagingBusy (s : State) (fn q : Nat) (v : Queue) : (s.setQueue fn q v).stagingBusy = s.stagingBusy := rfl
@[simp] theorem State.setQueue_mlPorts (s : State) (fn q : Nat) (v : Queue) : (s.setQueue fn q v).mlPorts = s.mlPorts := rfl
@[simp] theorem State.setQueue_held (s : State) (fn q : Nat) (v : Queue) : (s.setQueue fn q v).held = s.held := rfl
@[simp] theorem State.setQueue_served (s : State) (fn q : Nat) (v : Queue) : (s.setQueue fn q v).served = s.served := rfl
@[simp] theorem State.setQueue_jobs (s : State) (fn q : Nat) (v : Queue) : (s.setQueue fn q v).jobs = s.jobs := rfl
@[simp] theorem State.setQueue_lead (s : State) (fn q : Nat) (v : Queue) : (s.setQueue fn q v).lead = s.lead := rfl
@[simp] theorem State.setQueue_actions (s : State) (fn q : Nat) (v : Queue) : (s.setQueue fn q v).actions = s.actions := rfl
@[simp] theorem State.setQueue_nextAction (s : State) (fn q : Nat) (v : Queue) : (s.setQueue fn q v).nextAction = s.nextAction := rfl
@[simp] theorem State.setQueue_snapSent (s : State) (fn q : Nat) (v : Queue) : (s.setQueue fn q v).snapSent = s.snapSent := rfl
@[simp] theorem State.setQueue_restarting (s : State) (fn q : Nat) (v : Queue) : (s.setQueue fn q v).restarting = s.restarting := rfl
@[simp] theorem State.setQueue_watchdogs (s : State) (fn q : Nat) (v : Queue) : (s.setQueue fn q v).watchdogs = s.watchdogs := rfl
@[simp] theorem State.setQueue_records (s : State) (fn q : Nat) (v : Queue) : (s.setQueue fn q v).records = s.records := rfl
@[simp] theorem State.setQueue_leases (s : State) (fn q : Nat) (v : Queue) : (s.setQueue fn q v).leases = s.leases := rfl
@[simp] theorem State.setQueue_reefs (s : State) (fn q : Nat) (v : Queue) : (s.setQueue fn q v).reefs = s.reefs := rfl
@[simp] theorem State.setQueue_jqueue (s : State) (fn q : Nat) (v : Queue) : (s.setQueue fn q v).jqueue = s.jqueue := rfl
@[simp] theorem State.setQueue_mctpOut (s : State) (fn q : Nat) (v : Queue) : (s.setQueue fn q v).mctpOut = s.mctpOut := rfl
@[simp] theorem State.setQueue_gov (s : State) (fn q : Nat) (v : Queue) : (s.setQueue fn q v).gov = s.gov := rfl
@[simp] theorem State.setQueue_pins (s : State) (fn q : Nat) (v : Queue) : (s.setQueue fn q v).pins = s.pins := rfl
@[simp] theorem State.setQueue_jtag (s : State) (fn q : Nat) (v : Queue) : (s.setQueue fn q v).jtag = s.jtag := rfl
@[simp] theorem State.setQueue_mctp (s : State) (fn q : Nat) (v : Queue) : (s.setQueue fn q v).mctp = s.mctp := rfl
@[simp] theorem State.setQueue_fw (s : State) (fn q : Nat) (v : Queue) : (s.setQueue fn q v).fw = s.fw := rfl
@[simp] theorem State.setQueue_jnl (s : State) (fn q : Nat) (v : Queue) : (s.setQueue fn q v).jnl = s.jnl := rfl
@[simp] theorem State.setQueue_drains (s : State) (fn q : Nat) (v : Queue) : (s.setQueue fn q v).drains = s.drains := rfl
@[simp] theorem State.setQueue_enablePend (s : State) (fn q : Nat) (v : Queue) : (s.setQueue fn q v).enablePend = s.enablePend := rfl
@[simp] theorem State.setQueue_rotations (s : State) (fn q : Nat) (v : Queue) : (s.setQueue fn q v).rotations = s.rotations := rfl
@[simp] theorem State.setQueue_drbgCount (s : State) (fn q : Nat) (v : Queue) : (s.setQueue fn q v).drbgCount = s.drbgCount := rfl
@[simp] theorem State.setQueue_freeCtr (s : State) (fn q : Nat) (v : Queue) : (s.setQueue fn q v).freeCtr = s.freeCtr := rfl
@[simp] theorem State.setQueue_ticks (s : State) (fn q : Nat) (v : Queue) : (s.setQueue fn q v).ticks = s.ticks := rfl
@[simp] theorem State.setQueue_pending (s : State) (fn q : Nat) (v : Queue) : (s.setQueue fn q v).pending = s.pending := rfl
@[simp] theorem State.setQueue_reg (s : State) (fn q : Nat) (v : Queue) (r' : Reg) (a' b' : Nat) : (s.setQueue fn q v).reg r' a' b' = s.reg r' a' b' := rfl
@[simp] theorem State.setQueue_fld (s : State) (fn q : Nat) (v : Queue) (g' : Fld) (a' b' : Nat) : (s.setQueue fn q v).fld g' a' b' = s.fld g' a' b' := rfl
@[simp] theorem State.setQueue_count (s : State) (fn q : Nat) (v : Queue) (i' : Nat) : (s.setQueue fn q v).count i' = s.count i' := rfl
@[simp] theorem State.setQueue_lane (s : State) (fn q : Nat) (v : Queue) (n' : Nat) (ba' : Bool) (cls' : Nat) : (s.setQueue fn q v).lane n' ba' cls' = s.lane n' ba' cls' := rfl
@[simp] theorem State.setQueue_fnState (s : State) (fn q : Nat) (v : Queue) (fn' : Nat) : (s.setQueue fn q v).fnState fn' = s.fnState fn' := rfl
@[simp] theorem State.setQueue_islet (s : State) (fn q : Nat) (v : Queue) (i' : Nat) : (s.setQueue fn q v).islet i' = s.islet i' := rfl
@[simp] theorem State.setQueue_link (s : State) (fn q : Nat) (v : Queue) (p' : Nat) : (s.setQueue fn q v).link p' = s.link p' := rfl
@[simp] theorem State.setQueue_mlPort (s : State) (fn q : Nat) (v : Queue) (p' : Nat) : (s.setQueue fn q v).mlPort p' = s.mlPort p' := rfl
@[simp] theorem State.setQueue_job (s : State) (fn q : Nat) (v : Queue) (x' : Nat) : (s.setQueue fn q v).job x' = s.job x' := rfl
@[simp] theorem State.setQueue_isArmed (s : State) (fn q : Nat) (v : Queue) (fn' k' : Nat) : (s.setQueue fn q v).isArmed fn' k' = s.isArmed fn' k' := rfl

/-! ### setIslet -/

@[simp] theorem State.setIslet_pkg (s : State) (i : Nat) (x : Islet) : (s.setIslet i x).pkg = s.pkg := rfl
@[simp] theorem State.setIslet_svn (s : State) (i : Nat) (x : Islet) : (s.setIslet i x).svn = s.svn := rfl
@[simp] theorem State.setIslet_regs (s : State) (i : Nat) (x : Islet) : (s.setIslet i x).regs = s.regs := rfl
@[simp] theorem State.setIslet_counts (s : State) (i : Nat) (x : Islet) : (s.setIslet i x).counts = s.counts := rfl
@[simp] theorem State.setIslet_lanes (s : State) (i : Nat) (x : Islet) : (s.setIslet i x).lanes = s.lanes := rfl
@[simp] theorem State.setIslet_xturn (s : State) (i : Nat) (x : Islet) : (s.setIslet i x).xturn = s.xturn := rfl
@[simp] theorem State.setIslet_armed (s : State) (i : Nat) (x : Islet) : (s.setIslet i x).armed = s.armed := rfl
@[simp] theorem State.setIslet_hbrArmed (s : State) (i : Nat) (x : Islet) : (s.setIslet i x).hbrArmed = s.hbrArmed := rfl
@[simp] theorem State.setIslet_egress (s : State) (i : Nat) (x : Islet) : (s.setIslet i x).egress = s.egress := rfl
@[simp] theorem State.setIslet_heads (s : State) (i : Nat) (x : Islet) : (s.setIslet i x).heads = s.heads := rfl
@[simp] theorem State.setIslet_ports (s : State) (i : Nat) (x : Islet) : (s.setIslet i x).ports = s.ports := rfl
@[simp] theorem State.setIslet_claimWait (s : State) (i : Nat) (x : Islet) : (s.setIslet i x).claimWait = s.claimWait := rfl
@[simp] theorem State.setIslet_reads (s : State) (i : Nat) (x : Islet) : (s.setIslet i x).reads = s.reads := rfl
@[simp] theorem State.setIslet_readsWaiting (s : State) (i : Nat) (x : Islet) : (s.setIslet i x).readsWaiting = s.readsWaiting := rfl
@[simp] theorem State.setIslet_readData (s : State) (i : Nat) (x : Islet) : (s.setIslet i x).readData = s.readData := rfl
@[simp] theorem State.setIslet_mem (s : State) (i : Nat) (x : Islet) : (s.setIslet i x).mem = s.mem := rfl
@[simp] theorem State.setIslet_bad (s : State) (i : Nat) (x : Islet) : (s.setIslet i x).bad = s.bad := rfl
@[simp] theorem State.setIslet_rowErrs (s : State) (i : Nat) (x : Islet) : (s.setIslet i x).rowErrs = s.rowErrs := rfl
@[simp] theorem State.setIslet_repairs (s : State) (i : Nat) (x : Islet) : (s.setIslet i x).repairs = s.repairs := rfl
@[simp] theorem State.setIslet_withdrawn (s : State) (i : Nat) (x : Islet) : (s.setIslet i x).withdrawn = s.withdrawn := rfl
@[simp] theorem State.setIslet_unrepairable (s : State) (i : Nat) (x : Islet) : (s.setIslet i x).unrepairable = s.unrepairable := rfl
@[simp] theorem State.setIslet_sweepBad (s : State) (i : Nat) (x : Islet) : (s.setIslet i x).sweepBad = s.sweepBad := rfl
@[simp] theorem State.setIslet_fns (s : State) (i : Nat) (x : Islet) : (s.setIslet i x).fns = s.fns := rfl
@[simp] theorem State.setIslet_queues (s : State) (i : Nat) (x : Islet) : (s.setIslet i x).queues = s.queues := rfl
@[simp] theorem State.setIslet_packets (s : State) (i : Nat) (x : Islet) : (s.setIslet i x).packets = s.packets := rfl
@[simp] theorem State.setIslet_launches (s : State) (i : Nat) (x : Islet) : (s.setIslet i x).launches = s.launches := rfl
@[simp] theorem State.setIslet_nextLaunch (s : State) (i : Nat) (x : Islet) : (s.setIslet i x).nextLaunch = s.nextLaunch := rfl
@[simp] theorem State.setIslet_pastLaunches (s : State) (i : Nat) (x : Islet) : (s.setIslet i x).pastLaunches = s.pastLaunches := rfl
@[simp] theorem State.setIslet_staging (s : State) (i : Nat) (x : Islet) : (s.setIslet i x).staging = s.staging := rfl
@[simp] theorem State.setIslet_stagingBusy (s : State) (i : Nat) (x : Islet) : (s.setIslet i x).stagingBusy = s.stagingBusy := rfl
@[simp] theorem State.setIslet_mlPorts (s : State) (i : Nat) (x : Islet) : (s.setIslet i x).mlPorts = s.mlPorts := rfl
@[simp] theorem State.setIslet_held (s : State) (i : Nat) (x : Islet) : (s.setIslet i x).held = s.held := rfl
@[simp] theorem State.setIslet_served (s : State) (i : Nat) (x : Islet) : (s.setIslet i x).served = s.served := rfl
@[simp] theorem State.setIslet_jobs (s : State) (i : Nat) (x : Islet) : (s.setIslet i x).jobs = s.jobs := rfl
@[simp] theorem State.setIslet_lead (s : State) (i : Nat) (x : Islet) : (s.setIslet i x).lead = s.lead := rfl
@[simp] theorem State.setIslet_actions (s : State) (i : Nat) (x : Islet) : (s.setIslet i x).actions = s.actions := rfl
@[simp] theorem State.setIslet_nextAction (s : State) (i : Nat) (x : Islet) : (s.setIslet i x).nextAction = s.nextAction := rfl
@[simp] theorem State.setIslet_snapSent (s : State) (i : Nat) (x : Islet) : (s.setIslet i x).snapSent = s.snapSent := rfl
@[simp] theorem State.setIslet_restarting (s : State) (i : Nat) (x : Islet) : (s.setIslet i x).restarting = s.restarting := rfl
@[simp] theorem State.setIslet_watchdogs (s : State) (i : Nat) (x : Islet) : (s.setIslet i x).watchdogs = s.watchdogs := rfl
@[simp] theorem State.setIslet_records (s : State) (i : Nat) (x : Islet) : (s.setIslet i x).records = s.records := rfl
@[simp] theorem State.setIslet_leases (s : State) (i : Nat) (x : Islet) : (s.setIslet i x).leases = s.leases := rfl
@[simp] theorem State.setIslet_reefs (s : State) (i : Nat) (x : Islet) : (s.setIslet i x).reefs = s.reefs := rfl
@[simp] theorem State.setIslet_jqueue (s : State) (i : Nat) (x : Islet) : (s.setIslet i x).jqueue = s.jqueue := rfl
@[simp] theorem State.setIslet_mctpOut (s : State) (i : Nat) (x : Islet) : (s.setIslet i x).mctpOut = s.mctpOut := rfl
@[simp] theorem State.setIslet_gov (s : State) (i : Nat) (x : Islet) : (s.setIslet i x).gov = s.gov := rfl
@[simp] theorem State.setIslet_pins (s : State) (i : Nat) (x : Islet) : (s.setIslet i x).pins = s.pins := rfl
@[simp] theorem State.setIslet_jtag (s : State) (i : Nat) (x : Islet) : (s.setIslet i x).jtag = s.jtag := rfl
@[simp] theorem State.setIslet_mctp (s : State) (i : Nat) (x : Islet) : (s.setIslet i x).mctp = s.mctp := rfl
@[simp] theorem State.setIslet_fw (s : State) (i : Nat) (x : Islet) : (s.setIslet i x).fw = s.fw := rfl
@[simp] theorem State.setIslet_jnl (s : State) (i : Nat) (x : Islet) : (s.setIslet i x).jnl = s.jnl := rfl
@[simp] theorem State.setIslet_drains (s : State) (i : Nat) (x : Islet) : (s.setIslet i x).drains = s.drains := rfl
@[simp] theorem State.setIslet_enablePend (s : State) (i : Nat) (x : Islet) : (s.setIslet i x).enablePend = s.enablePend := rfl
@[simp] theorem State.setIslet_rotations (s : State) (i : Nat) (x : Islet) : (s.setIslet i x).rotations = s.rotations := rfl
@[simp] theorem State.setIslet_drbgCount (s : State) (i : Nat) (x : Islet) : (s.setIslet i x).drbgCount = s.drbgCount := rfl
@[simp] theorem State.setIslet_freeCtr (s : State) (i : Nat) (x : Islet) : (s.setIslet i x).freeCtr = s.freeCtr := rfl
@[simp] theorem State.setIslet_ticks (s : State) (i : Nat) (x : Islet) : (s.setIslet i x).ticks = s.ticks := rfl
@[simp] theorem State.setIslet_pending (s : State) (i : Nat) (x : Islet) : (s.setIslet i x).pending = s.pending := rfl
@[simp] theorem State.setIslet_reg (s : State) (i : Nat) (x : Islet) (r' : Reg) (a' b' : Nat) : (s.setIslet i x).reg r' a' b' = s.reg r' a' b' := rfl
@[simp] theorem State.setIslet_fld (s : State) (i : Nat) (x : Islet) (g' : Fld) (a' b' : Nat) : (s.setIslet i x).fld g' a' b' = s.fld g' a' b' := rfl
@[simp] theorem State.setIslet_count (s : State) (i : Nat) (x : Islet) (i' : Nat) : (s.setIslet i x).count i' = s.count i' := rfl
@[simp] theorem State.setIslet_lane (s : State) (i : Nat) (x : Islet) (n' : Nat) (ba' : Bool) (cls' : Nat) : (s.setIslet i x).lane n' ba' cls' = s.lane n' ba' cls' := rfl
@[simp] theorem State.setIslet_fnState (s : State) (i : Nat) (x : Islet) (fn' : Nat) : (s.setIslet i x).fnState fn' = s.fnState fn' := rfl
@[simp] theorem State.setIslet_queue (s : State) (i : Nat) (x : Islet) (fn' q' : Nat) : (s.setIslet i x).queue fn' q' = s.queue fn' q' := rfl
@[simp] theorem State.setIslet_link (s : State) (i : Nat) (x : Islet) (p' : Nat) : (s.setIslet i x).link p' = s.link p' := rfl
@[simp] theorem State.setIslet_mlPort (s : State) (i : Nat) (x : Islet) (p' : Nat) : (s.setIslet i x).mlPort p' = s.mlPort p' := rfl
@[simp] theorem State.setIslet_job (s : State) (i : Nat) (x : Islet) (x' : Nat) : (s.setIslet i x).job x' = s.job x' := rfl
@[simp] theorem State.setIslet_isArmed (s : State) (i : Nat) (x : Islet) (fn' k' : Nat) : (s.setIslet i x).isArmed fn' k' = s.isArmed fn' k' := rfl

/-! ### modIslet -/

@[simp] theorem State.modIslet_pkg (s : State) (i : Nat) (f : Islet → Islet) : (s.modIslet i f).pkg = s.pkg := rfl
@[simp] theorem State.modIslet_svn (s : State) (i : Nat) (f : Islet → Islet) : (s.modIslet i f).svn = s.svn := rfl
@[simp] theorem State.modIslet_regs (s : State) (i : Nat) (f : Islet → Islet) : (s.modIslet i f).regs = s.regs := rfl
@[simp] theorem State.modIslet_counts (s : State) (i : Nat) (f : Islet → Islet) : (s.modIslet i f).counts = s.counts := rfl
@[simp] theorem State.modIslet_lanes (s : State) (i : Nat) (f : Islet → Islet) : (s.modIslet i f).lanes = s.lanes := rfl
@[simp] theorem State.modIslet_xturn (s : State) (i : Nat) (f : Islet → Islet) : (s.modIslet i f).xturn = s.xturn := rfl
@[simp] theorem State.modIslet_armed (s : State) (i : Nat) (f : Islet → Islet) : (s.modIslet i f).armed = s.armed := rfl
@[simp] theorem State.modIslet_hbrArmed (s : State) (i : Nat) (f : Islet → Islet) : (s.modIslet i f).hbrArmed = s.hbrArmed := rfl
@[simp] theorem State.modIslet_egress (s : State) (i : Nat) (f : Islet → Islet) : (s.modIslet i f).egress = s.egress := rfl
@[simp] theorem State.modIslet_heads (s : State) (i : Nat) (f : Islet → Islet) : (s.modIslet i f).heads = s.heads := rfl
@[simp] theorem State.modIslet_ports (s : State) (i : Nat) (f : Islet → Islet) : (s.modIslet i f).ports = s.ports := rfl
@[simp] theorem State.modIslet_claimWait (s : State) (i : Nat) (f : Islet → Islet) : (s.modIslet i f).claimWait = s.claimWait := rfl
@[simp] theorem State.modIslet_reads (s : State) (i : Nat) (f : Islet → Islet) : (s.modIslet i f).reads = s.reads := rfl
@[simp] theorem State.modIslet_readsWaiting (s : State) (i : Nat) (f : Islet → Islet) : (s.modIslet i f).readsWaiting = s.readsWaiting := rfl
@[simp] theorem State.modIslet_readData (s : State) (i : Nat) (f : Islet → Islet) : (s.modIslet i f).readData = s.readData := rfl
@[simp] theorem State.modIslet_mem (s : State) (i : Nat) (f : Islet → Islet) : (s.modIslet i f).mem = s.mem := rfl
@[simp] theorem State.modIslet_bad (s : State) (i : Nat) (f : Islet → Islet) : (s.modIslet i f).bad = s.bad := rfl
@[simp] theorem State.modIslet_rowErrs (s : State) (i : Nat) (f : Islet → Islet) : (s.modIslet i f).rowErrs = s.rowErrs := rfl
@[simp] theorem State.modIslet_repairs (s : State) (i : Nat) (f : Islet → Islet) : (s.modIslet i f).repairs = s.repairs := rfl
@[simp] theorem State.modIslet_withdrawn (s : State) (i : Nat) (f : Islet → Islet) : (s.modIslet i f).withdrawn = s.withdrawn := rfl
@[simp] theorem State.modIslet_unrepairable (s : State) (i : Nat) (f : Islet → Islet) : (s.modIslet i f).unrepairable = s.unrepairable := rfl
@[simp] theorem State.modIslet_sweepBad (s : State) (i : Nat) (f : Islet → Islet) : (s.modIslet i f).sweepBad = s.sweepBad := rfl
@[simp] theorem State.modIslet_fns (s : State) (i : Nat) (f : Islet → Islet) : (s.modIslet i f).fns = s.fns := rfl
@[simp] theorem State.modIslet_queues (s : State) (i : Nat) (f : Islet → Islet) : (s.modIslet i f).queues = s.queues := rfl
@[simp] theorem State.modIslet_packets (s : State) (i : Nat) (f : Islet → Islet) : (s.modIslet i f).packets = s.packets := rfl
@[simp] theorem State.modIslet_launches (s : State) (i : Nat) (f : Islet → Islet) : (s.modIslet i f).launches = s.launches := rfl
@[simp] theorem State.modIslet_nextLaunch (s : State) (i : Nat) (f : Islet → Islet) : (s.modIslet i f).nextLaunch = s.nextLaunch := rfl
@[simp] theorem State.modIslet_pastLaunches (s : State) (i : Nat) (f : Islet → Islet) : (s.modIslet i f).pastLaunches = s.pastLaunches := rfl
@[simp] theorem State.modIslet_staging (s : State) (i : Nat) (f : Islet → Islet) : (s.modIslet i f).staging = s.staging := rfl
@[simp] theorem State.modIslet_stagingBusy (s : State) (i : Nat) (f : Islet → Islet) : (s.modIslet i f).stagingBusy = s.stagingBusy := rfl
@[simp] theorem State.modIslet_mlPorts (s : State) (i : Nat) (f : Islet → Islet) : (s.modIslet i f).mlPorts = s.mlPorts := rfl
@[simp] theorem State.modIslet_held (s : State) (i : Nat) (f : Islet → Islet) : (s.modIslet i f).held = s.held := rfl
@[simp] theorem State.modIslet_served (s : State) (i : Nat) (f : Islet → Islet) : (s.modIslet i f).served = s.served := rfl
@[simp] theorem State.modIslet_jobs (s : State) (i : Nat) (f : Islet → Islet) : (s.modIslet i f).jobs = s.jobs := rfl
@[simp] theorem State.modIslet_lead (s : State) (i : Nat) (f : Islet → Islet) : (s.modIslet i f).lead = s.lead := rfl
@[simp] theorem State.modIslet_actions (s : State) (i : Nat) (f : Islet → Islet) : (s.modIslet i f).actions = s.actions := rfl
@[simp] theorem State.modIslet_nextAction (s : State) (i : Nat) (f : Islet → Islet) : (s.modIslet i f).nextAction = s.nextAction := rfl
@[simp] theorem State.modIslet_snapSent (s : State) (i : Nat) (f : Islet → Islet) : (s.modIslet i f).snapSent = s.snapSent := rfl
@[simp] theorem State.modIslet_restarting (s : State) (i : Nat) (f : Islet → Islet) : (s.modIslet i f).restarting = s.restarting := rfl
@[simp] theorem State.modIslet_watchdogs (s : State) (i : Nat) (f : Islet → Islet) : (s.modIslet i f).watchdogs = s.watchdogs := rfl
@[simp] theorem State.modIslet_records (s : State) (i : Nat) (f : Islet → Islet) : (s.modIslet i f).records = s.records := rfl
@[simp] theorem State.modIslet_leases (s : State) (i : Nat) (f : Islet → Islet) : (s.modIslet i f).leases = s.leases := rfl
@[simp] theorem State.modIslet_reefs (s : State) (i : Nat) (f : Islet → Islet) : (s.modIslet i f).reefs = s.reefs := rfl
@[simp] theorem State.modIslet_jqueue (s : State) (i : Nat) (f : Islet → Islet) : (s.modIslet i f).jqueue = s.jqueue := rfl
@[simp] theorem State.modIslet_mctpOut (s : State) (i : Nat) (f : Islet → Islet) : (s.modIslet i f).mctpOut = s.mctpOut := rfl
@[simp] theorem State.modIslet_gov (s : State) (i : Nat) (f : Islet → Islet) : (s.modIslet i f).gov = s.gov := rfl
@[simp] theorem State.modIslet_pins (s : State) (i : Nat) (f : Islet → Islet) : (s.modIslet i f).pins = s.pins := rfl
@[simp] theorem State.modIslet_jtag (s : State) (i : Nat) (f : Islet → Islet) : (s.modIslet i f).jtag = s.jtag := rfl
@[simp] theorem State.modIslet_mctp (s : State) (i : Nat) (f : Islet → Islet) : (s.modIslet i f).mctp = s.mctp := rfl
@[simp] theorem State.modIslet_fw (s : State) (i : Nat) (f : Islet → Islet) : (s.modIslet i f).fw = s.fw := rfl
@[simp] theorem State.modIslet_jnl (s : State) (i : Nat) (f : Islet → Islet) : (s.modIslet i f).jnl = s.jnl := rfl
@[simp] theorem State.modIslet_drains (s : State) (i : Nat) (f : Islet → Islet) : (s.modIslet i f).drains = s.drains := rfl
@[simp] theorem State.modIslet_enablePend (s : State) (i : Nat) (f : Islet → Islet) : (s.modIslet i f).enablePend = s.enablePend := rfl
@[simp] theorem State.modIslet_rotations (s : State) (i : Nat) (f : Islet → Islet) : (s.modIslet i f).rotations = s.rotations := rfl
@[simp] theorem State.modIslet_drbgCount (s : State) (i : Nat) (f : Islet → Islet) : (s.modIslet i f).drbgCount = s.drbgCount := rfl
@[simp] theorem State.modIslet_freeCtr (s : State) (i : Nat) (f : Islet → Islet) : (s.modIslet i f).freeCtr = s.freeCtr := rfl
@[simp] theorem State.modIslet_ticks (s : State) (i : Nat) (f : Islet → Islet) : (s.modIslet i f).ticks = s.ticks := rfl
@[simp] theorem State.modIslet_pending (s : State) (i : Nat) (f : Islet → Islet) : (s.modIslet i f).pending = s.pending := rfl
@[simp] theorem State.modIslet_reg (s : State) (i : Nat) (f : Islet → Islet) (r' : Reg) (a' b' : Nat) : (s.modIslet i f).reg r' a' b' = s.reg r' a' b' := rfl
@[simp] theorem State.modIslet_fld (s : State) (i : Nat) (f : Islet → Islet) (g' : Fld) (a' b' : Nat) : (s.modIslet i f).fld g' a' b' = s.fld g' a' b' := rfl
@[simp] theorem State.modIslet_count (s : State) (i : Nat) (f : Islet → Islet) (i' : Nat) : (s.modIslet i f).count i' = s.count i' := rfl
@[simp] theorem State.modIslet_lane (s : State) (i : Nat) (f : Islet → Islet) (n' : Nat) (ba' : Bool) (cls' : Nat) : (s.modIslet i f).lane n' ba' cls' = s.lane n' ba' cls' := rfl
@[simp] theorem State.modIslet_fnState (s : State) (i : Nat) (f : Islet → Islet) (fn' : Nat) : (s.modIslet i f).fnState fn' = s.fnState fn' := rfl
@[simp] theorem State.modIslet_queue (s : State) (i : Nat) (f : Islet → Islet) (fn' q' : Nat) : (s.modIslet i f).queue fn' q' = s.queue fn' q' := rfl
@[simp] theorem State.modIslet_link (s : State) (i : Nat) (f : Islet → Islet) (p' : Nat) : (s.modIslet i f).link p' = s.link p' := rfl
@[simp] theorem State.modIslet_mlPort (s : State) (i : Nat) (f : Islet → Islet) (p' : Nat) : (s.modIslet i f).mlPort p' = s.mlPort p' := rfl
@[simp] theorem State.modIslet_job (s : State) (i : Nat) (f : Islet → Islet) (x' : Nat) : (s.modIslet i f).job x' = s.job x' := rfl
@[simp] theorem State.modIslet_isArmed (s : State) (i : Nat) (f : Islet → Islet) (fn' k' : Nat) : (s.modIslet i f).isArmed fn' k' = s.isArmed fn' k' := rfl

/-! ### modMx -/

@[simp] theorem State.modMx_pkg (s : State) (i : Nat) (f : Matrix → Matrix) : (s.modMx i f).pkg = s.pkg := rfl
@[simp] theorem State.modMx_svn (s : State) (i : Nat) (f : Matrix → Matrix) : (s.modMx i f).svn = s.svn := rfl
@[simp] theorem State.modMx_regs (s : State) (i : Nat) (f : Matrix → Matrix) : (s.modMx i f).regs = s.regs := rfl
@[simp] theorem State.modMx_counts (s : State) (i : Nat) (f : Matrix → Matrix) : (s.modMx i f).counts = s.counts := rfl
@[simp] theorem State.modMx_lanes (s : State) (i : Nat) (f : Matrix → Matrix) : (s.modMx i f).lanes = s.lanes := rfl
@[simp] theorem State.modMx_xturn (s : State) (i : Nat) (f : Matrix → Matrix) : (s.modMx i f).xturn = s.xturn := rfl
@[simp] theorem State.modMx_armed (s : State) (i : Nat) (f : Matrix → Matrix) : (s.modMx i f).armed = s.armed := rfl
@[simp] theorem State.modMx_hbrArmed (s : State) (i : Nat) (f : Matrix → Matrix) : (s.modMx i f).hbrArmed = s.hbrArmed := rfl
@[simp] theorem State.modMx_egress (s : State) (i : Nat) (f : Matrix → Matrix) : (s.modMx i f).egress = s.egress := rfl
@[simp] theorem State.modMx_heads (s : State) (i : Nat) (f : Matrix → Matrix) : (s.modMx i f).heads = s.heads := rfl
@[simp] theorem State.modMx_ports (s : State) (i : Nat) (f : Matrix → Matrix) : (s.modMx i f).ports = s.ports := rfl
@[simp] theorem State.modMx_claimWait (s : State) (i : Nat) (f : Matrix → Matrix) : (s.modMx i f).claimWait = s.claimWait := rfl
@[simp] theorem State.modMx_reads (s : State) (i : Nat) (f : Matrix → Matrix) : (s.modMx i f).reads = s.reads := rfl
@[simp] theorem State.modMx_readsWaiting (s : State) (i : Nat) (f : Matrix → Matrix) : (s.modMx i f).readsWaiting = s.readsWaiting := rfl
@[simp] theorem State.modMx_readData (s : State) (i : Nat) (f : Matrix → Matrix) : (s.modMx i f).readData = s.readData := rfl
@[simp] theorem State.modMx_mem (s : State) (i : Nat) (f : Matrix → Matrix) : (s.modMx i f).mem = s.mem := rfl
@[simp] theorem State.modMx_bad (s : State) (i : Nat) (f : Matrix → Matrix) : (s.modMx i f).bad = s.bad := rfl
@[simp] theorem State.modMx_rowErrs (s : State) (i : Nat) (f : Matrix → Matrix) : (s.modMx i f).rowErrs = s.rowErrs := rfl
@[simp] theorem State.modMx_repairs (s : State) (i : Nat) (f : Matrix → Matrix) : (s.modMx i f).repairs = s.repairs := rfl
@[simp] theorem State.modMx_withdrawn (s : State) (i : Nat) (f : Matrix → Matrix) : (s.modMx i f).withdrawn = s.withdrawn := rfl
@[simp] theorem State.modMx_unrepairable (s : State) (i : Nat) (f : Matrix → Matrix) : (s.modMx i f).unrepairable = s.unrepairable := rfl
@[simp] theorem State.modMx_sweepBad (s : State) (i : Nat) (f : Matrix → Matrix) : (s.modMx i f).sweepBad = s.sweepBad := rfl
@[simp] theorem State.modMx_fns (s : State) (i : Nat) (f : Matrix → Matrix) : (s.modMx i f).fns = s.fns := rfl
@[simp] theorem State.modMx_queues (s : State) (i : Nat) (f : Matrix → Matrix) : (s.modMx i f).queues = s.queues := rfl
@[simp] theorem State.modMx_packets (s : State) (i : Nat) (f : Matrix → Matrix) : (s.modMx i f).packets = s.packets := rfl
@[simp] theorem State.modMx_launches (s : State) (i : Nat) (f : Matrix → Matrix) : (s.modMx i f).launches = s.launches := rfl
@[simp] theorem State.modMx_nextLaunch (s : State) (i : Nat) (f : Matrix → Matrix) : (s.modMx i f).nextLaunch = s.nextLaunch := rfl
@[simp] theorem State.modMx_pastLaunches (s : State) (i : Nat) (f : Matrix → Matrix) : (s.modMx i f).pastLaunches = s.pastLaunches := rfl
@[simp] theorem State.modMx_staging (s : State) (i : Nat) (f : Matrix → Matrix) : (s.modMx i f).staging = s.staging := rfl
@[simp] theorem State.modMx_stagingBusy (s : State) (i : Nat) (f : Matrix → Matrix) : (s.modMx i f).stagingBusy = s.stagingBusy := rfl
@[simp] theorem State.modMx_mlPorts (s : State) (i : Nat) (f : Matrix → Matrix) : (s.modMx i f).mlPorts = s.mlPorts := rfl
@[simp] theorem State.modMx_held (s : State) (i : Nat) (f : Matrix → Matrix) : (s.modMx i f).held = s.held := rfl
@[simp] theorem State.modMx_served (s : State) (i : Nat) (f : Matrix → Matrix) : (s.modMx i f).served = s.served := rfl
@[simp] theorem State.modMx_jobs (s : State) (i : Nat) (f : Matrix → Matrix) : (s.modMx i f).jobs = s.jobs := rfl
@[simp] theorem State.modMx_lead (s : State) (i : Nat) (f : Matrix → Matrix) : (s.modMx i f).lead = s.lead := rfl
@[simp] theorem State.modMx_actions (s : State) (i : Nat) (f : Matrix → Matrix) : (s.modMx i f).actions = s.actions := rfl
@[simp] theorem State.modMx_nextAction (s : State) (i : Nat) (f : Matrix → Matrix) : (s.modMx i f).nextAction = s.nextAction := rfl
@[simp] theorem State.modMx_snapSent (s : State) (i : Nat) (f : Matrix → Matrix) : (s.modMx i f).snapSent = s.snapSent := rfl
@[simp] theorem State.modMx_restarting (s : State) (i : Nat) (f : Matrix → Matrix) : (s.modMx i f).restarting = s.restarting := rfl
@[simp] theorem State.modMx_watchdogs (s : State) (i : Nat) (f : Matrix → Matrix) : (s.modMx i f).watchdogs = s.watchdogs := rfl
@[simp] theorem State.modMx_records (s : State) (i : Nat) (f : Matrix → Matrix) : (s.modMx i f).records = s.records := rfl
@[simp] theorem State.modMx_leases (s : State) (i : Nat) (f : Matrix → Matrix) : (s.modMx i f).leases = s.leases := rfl
@[simp] theorem State.modMx_reefs (s : State) (i : Nat) (f : Matrix → Matrix) : (s.modMx i f).reefs = s.reefs := rfl
@[simp] theorem State.modMx_jqueue (s : State) (i : Nat) (f : Matrix → Matrix) : (s.modMx i f).jqueue = s.jqueue := rfl
@[simp] theorem State.modMx_mctpOut (s : State) (i : Nat) (f : Matrix → Matrix) : (s.modMx i f).mctpOut = s.mctpOut := rfl
@[simp] theorem State.modMx_gov (s : State) (i : Nat) (f : Matrix → Matrix) : (s.modMx i f).gov = s.gov := rfl
@[simp] theorem State.modMx_pins (s : State) (i : Nat) (f : Matrix → Matrix) : (s.modMx i f).pins = s.pins := rfl
@[simp] theorem State.modMx_jtag (s : State) (i : Nat) (f : Matrix → Matrix) : (s.modMx i f).jtag = s.jtag := rfl
@[simp] theorem State.modMx_mctp (s : State) (i : Nat) (f : Matrix → Matrix) : (s.modMx i f).mctp = s.mctp := rfl
@[simp] theorem State.modMx_fw (s : State) (i : Nat) (f : Matrix → Matrix) : (s.modMx i f).fw = s.fw := rfl
@[simp] theorem State.modMx_jnl (s : State) (i : Nat) (f : Matrix → Matrix) : (s.modMx i f).jnl = s.jnl := rfl
@[simp] theorem State.modMx_drains (s : State) (i : Nat) (f : Matrix → Matrix) : (s.modMx i f).drains = s.drains := rfl
@[simp] theorem State.modMx_enablePend (s : State) (i : Nat) (f : Matrix → Matrix) : (s.modMx i f).enablePend = s.enablePend := rfl
@[simp] theorem State.modMx_rotations (s : State) (i : Nat) (f : Matrix → Matrix) : (s.modMx i f).rotations = s.rotations := rfl
@[simp] theorem State.modMx_drbgCount (s : State) (i : Nat) (f : Matrix → Matrix) : (s.modMx i f).drbgCount = s.drbgCount := rfl
@[simp] theorem State.modMx_freeCtr (s : State) (i : Nat) (f : Matrix → Matrix) : (s.modMx i f).freeCtr = s.freeCtr := rfl
@[simp] theorem State.modMx_ticks (s : State) (i : Nat) (f : Matrix → Matrix) : (s.modMx i f).ticks = s.ticks := rfl
@[simp] theorem State.modMx_pending (s : State) (i : Nat) (f : Matrix → Matrix) : (s.modMx i f).pending = s.pending := rfl
@[simp] theorem State.modMx_reg (s : State) (i : Nat) (f : Matrix → Matrix) (r' : Reg) (a' b' : Nat) : (s.modMx i f).reg r' a' b' = s.reg r' a' b' := rfl
@[simp] theorem State.modMx_fld (s : State) (i : Nat) (f : Matrix → Matrix) (g' : Fld) (a' b' : Nat) : (s.modMx i f).fld g' a' b' = s.fld g' a' b' := rfl
@[simp] theorem State.modMx_count (s : State) (i : Nat) (f : Matrix → Matrix) (i' : Nat) : (s.modMx i f).count i' = s.count i' := rfl
@[simp] theorem State.modMx_lane (s : State) (i : Nat) (f : Matrix → Matrix) (n' : Nat) (ba' : Bool) (cls' : Nat) : (s.modMx i f).lane n' ba' cls' = s.lane n' ba' cls' := rfl
@[simp] theorem State.modMx_fnState (s : State) (i : Nat) (f : Matrix → Matrix) (fn' : Nat) : (s.modMx i f).fnState fn' = s.fnState fn' := rfl
@[simp] theorem State.modMx_queue (s : State) (i : Nat) (f : Matrix → Matrix) (fn' q' : Nat) : (s.modMx i f).queue fn' q' = s.queue fn' q' := rfl
@[simp] theorem State.modMx_link (s : State) (i : Nat) (f : Matrix → Matrix) (p' : Nat) : (s.modMx i f).link p' = s.link p' := rfl
@[simp] theorem State.modMx_mlPort (s : State) (i : Nat) (f : Matrix → Matrix) (p' : Nat) : (s.modMx i f).mlPort p' = s.mlPort p' := rfl
@[simp] theorem State.modMx_job (s : State) (i : Nat) (f : Matrix → Matrix) (x' : Nat) : (s.modMx i f).job x' = s.job x' := rfl
@[simp] theorem State.modMx_isArmed (s : State) (i : Nat) (f : Matrix → Matrix) (fn' k' : Nat) : (s.modMx i f).isArmed fn' k' = s.isArmed fn' k' := rfl

/-! ### modLink -/

@[simp] theorem State.modLink_pkg (s : State) (p : Nat) (f : LinkPort → LinkPort) : (s.modLink p f).pkg = s.pkg := rfl
@[simp] theorem State.modLink_svn (s : State) (p : Nat) (f : LinkPort → LinkPort) : (s.modLink p f).svn = s.svn := rfl
@[simp] theorem State.modLink_regs (s : State) (p : Nat) (f : LinkPort → LinkPort) : (s.modLink p f).regs = s.regs := rfl
@[simp] theorem State.modLink_counts (s : State) (p : Nat) (f : LinkPort → LinkPort) : (s.modLink p f).counts = s.counts := rfl
@[simp] theorem State.modLink_lanes (s : State) (p : Nat) (f : LinkPort → LinkPort) : (s.modLink p f).lanes = s.lanes := rfl
@[simp] theorem State.modLink_xturn (s : State) (p : Nat) (f : LinkPort → LinkPort) : (s.modLink p f).xturn = s.xturn := rfl
@[simp] theorem State.modLink_armed (s : State) (p : Nat) (f : LinkPort → LinkPort) : (s.modLink p f).armed = s.armed := rfl
@[simp] theorem State.modLink_hbrArmed (s : State) (p : Nat) (f : LinkPort → LinkPort) : (s.modLink p f).hbrArmed = s.hbrArmed := rfl
@[simp] theorem State.modLink_egress (s : State) (p : Nat) (f : LinkPort → LinkPort) : (s.modLink p f).egress = s.egress := rfl
@[simp] theorem State.modLink_heads (s : State) (p : Nat) (f : LinkPort → LinkPort) : (s.modLink p f).heads = s.heads := rfl
@[simp] theorem State.modLink_claimWait (s : State) (p : Nat) (f : LinkPort → LinkPort) : (s.modLink p f).claimWait = s.claimWait := rfl
@[simp] theorem State.modLink_reads (s : State) (p : Nat) (f : LinkPort → LinkPort) : (s.modLink p f).reads = s.reads := rfl
@[simp] theorem State.modLink_readsWaiting (s : State) (p : Nat) (f : LinkPort → LinkPort) : (s.modLink p f).readsWaiting = s.readsWaiting := rfl
@[simp] theorem State.modLink_readData (s : State) (p : Nat) (f : LinkPort → LinkPort) : (s.modLink p f).readData = s.readData := rfl
@[simp] theorem State.modLink_mem (s : State) (p : Nat) (f : LinkPort → LinkPort) : (s.modLink p f).mem = s.mem := rfl
@[simp] theorem State.modLink_bad (s : State) (p : Nat) (f : LinkPort → LinkPort) : (s.modLink p f).bad = s.bad := rfl
@[simp] theorem State.modLink_rowErrs (s : State) (p : Nat) (f : LinkPort → LinkPort) : (s.modLink p f).rowErrs = s.rowErrs := rfl
@[simp] theorem State.modLink_repairs (s : State) (p : Nat) (f : LinkPort → LinkPort) : (s.modLink p f).repairs = s.repairs := rfl
@[simp] theorem State.modLink_withdrawn (s : State) (p : Nat) (f : LinkPort → LinkPort) : (s.modLink p f).withdrawn = s.withdrawn := rfl
@[simp] theorem State.modLink_unrepairable (s : State) (p : Nat) (f : LinkPort → LinkPort) : (s.modLink p f).unrepairable = s.unrepairable := rfl
@[simp] theorem State.modLink_sweepBad (s : State) (p : Nat) (f : LinkPort → LinkPort) : (s.modLink p f).sweepBad = s.sweepBad := rfl
@[simp] theorem State.modLink_fns (s : State) (p : Nat) (f : LinkPort → LinkPort) : (s.modLink p f).fns = s.fns := rfl
@[simp] theorem State.modLink_queues (s : State) (p : Nat) (f : LinkPort → LinkPort) : (s.modLink p f).queues = s.queues := rfl
@[simp] theorem State.modLink_islets (s : State) (p : Nat) (f : LinkPort → LinkPort) : (s.modLink p f).islets = s.islets := rfl
@[simp] theorem State.modLink_packets (s : State) (p : Nat) (f : LinkPort → LinkPort) : (s.modLink p f).packets = s.packets := rfl
@[simp] theorem State.modLink_launches (s : State) (p : Nat) (f : LinkPort → LinkPort) : (s.modLink p f).launches = s.launches := rfl
@[simp] theorem State.modLink_nextLaunch (s : State) (p : Nat) (f : LinkPort → LinkPort) : (s.modLink p f).nextLaunch = s.nextLaunch := rfl
@[simp] theorem State.modLink_pastLaunches (s : State) (p : Nat) (f : LinkPort → LinkPort) : (s.modLink p f).pastLaunches = s.pastLaunches := rfl
@[simp] theorem State.modLink_staging (s : State) (p : Nat) (f : LinkPort → LinkPort) : (s.modLink p f).staging = s.staging := rfl
@[simp] theorem State.modLink_stagingBusy (s : State) (p : Nat) (f : LinkPort → LinkPort) : (s.modLink p f).stagingBusy = s.stagingBusy := rfl
@[simp] theorem State.modLink_mlPorts (s : State) (p : Nat) (f : LinkPort → LinkPort) : (s.modLink p f).mlPorts = s.mlPorts := rfl
@[simp] theorem State.modLink_held (s : State) (p : Nat) (f : LinkPort → LinkPort) : (s.modLink p f).held = s.held := rfl
@[simp] theorem State.modLink_served (s : State) (p : Nat) (f : LinkPort → LinkPort) : (s.modLink p f).served = s.served := rfl
@[simp] theorem State.modLink_jobs (s : State) (p : Nat) (f : LinkPort → LinkPort) : (s.modLink p f).jobs = s.jobs := rfl
@[simp] theorem State.modLink_lead (s : State) (p : Nat) (f : LinkPort → LinkPort) : (s.modLink p f).lead = s.lead := rfl
@[simp] theorem State.modLink_actions (s : State) (p : Nat) (f : LinkPort → LinkPort) : (s.modLink p f).actions = s.actions := rfl
@[simp] theorem State.modLink_nextAction (s : State) (p : Nat) (f : LinkPort → LinkPort) : (s.modLink p f).nextAction = s.nextAction := rfl
@[simp] theorem State.modLink_snapSent (s : State) (p : Nat) (f : LinkPort → LinkPort) : (s.modLink p f).snapSent = s.snapSent := rfl
@[simp] theorem State.modLink_restarting (s : State) (p : Nat) (f : LinkPort → LinkPort) : (s.modLink p f).restarting = s.restarting := rfl
@[simp] theorem State.modLink_watchdogs (s : State) (p : Nat) (f : LinkPort → LinkPort) : (s.modLink p f).watchdogs = s.watchdogs := rfl
@[simp] theorem State.modLink_records (s : State) (p : Nat) (f : LinkPort → LinkPort) : (s.modLink p f).records = s.records := rfl
@[simp] theorem State.modLink_leases (s : State) (p : Nat) (f : LinkPort → LinkPort) : (s.modLink p f).leases = s.leases := rfl
@[simp] theorem State.modLink_reefs (s : State) (p : Nat) (f : LinkPort → LinkPort) : (s.modLink p f).reefs = s.reefs := rfl
@[simp] theorem State.modLink_jqueue (s : State) (p : Nat) (f : LinkPort → LinkPort) : (s.modLink p f).jqueue = s.jqueue := rfl
@[simp] theorem State.modLink_mctpOut (s : State) (p : Nat) (f : LinkPort → LinkPort) : (s.modLink p f).mctpOut = s.mctpOut := rfl
@[simp] theorem State.modLink_gov (s : State) (p : Nat) (f : LinkPort → LinkPort) : (s.modLink p f).gov = s.gov := rfl
@[simp] theorem State.modLink_pins (s : State) (p : Nat) (f : LinkPort → LinkPort) : (s.modLink p f).pins = s.pins := rfl
@[simp] theorem State.modLink_jtag (s : State) (p : Nat) (f : LinkPort → LinkPort) : (s.modLink p f).jtag = s.jtag := rfl
@[simp] theorem State.modLink_mctp (s : State) (p : Nat) (f : LinkPort → LinkPort) : (s.modLink p f).mctp = s.mctp := rfl
@[simp] theorem State.modLink_fw (s : State) (p : Nat) (f : LinkPort → LinkPort) : (s.modLink p f).fw = s.fw := rfl
@[simp] theorem State.modLink_jnl (s : State) (p : Nat) (f : LinkPort → LinkPort) : (s.modLink p f).jnl = s.jnl := rfl
@[simp] theorem State.modLink_drains (s : State) (p : Nat) (f : LinkPort → LinkPort) : (s.modLink p f).drains = s.drains := rfl
@[simp] theorem State.modLink_enablePend (s : State) (p : Nat) (f : LinkPort → LinkPort) : (s.modLink p f).enablePend = s.enablePend := rfl
@[simp] theorem State.modLink_rotations (s : State) (p : Nat) (f : LinkPort → LinkPort) : (s.modLink p f).rotations = s.rotations := rfl
@[simp] theorem State.modLink_drbgCount (s : State) (p : Nat) (f : LinkPort → LinkPort) : (s.modLink p f).drbgCount = s.drbgCount := rfl
@[simp] theorem State.modLink_freeCtr (s : State) (p : Nat) (f : LinkPort → LinkPort) : (s.modLink p f).freeCtr = s.freeCtr := rfl
@[simp] theorem State.modLink_ticks (s : State) (p : Nat) (f : LinkPort → LinkPort) : (s.modLink p f).ticks = s.ticks := rfl
@[simp] theorem State.modLink_pending (s : State) (p : Nat) (f : LinkPort → LinkPort) : (s.modLink p f).pending = s.pending := rfl
@[simp] theorem State.modLink_reg (s : State) (p : Nat) (f : LinkPort → LinkPort) (r' : Reg) (a' b' : Nat) : (s.modLink p f).reg r' a' b' = s.reg r' a' b' := rfl
@[simp] theorem State.modLink_fld (s : State) (p : Nat) (f : LinkPort → LinkPort) (g' : Fld) (a' b' : Nat) : (s.modLink p f).fld g' a' b' = s.fld g' a' b' := rfl
@[simp] theorem State.modLink_count (s : State) (p : Nat) (f : LinkPort → LinkPort) (i' : Nat) : (s.modLink p f).count i' = s.count i' := rfl
@[simp] theorem State.modLink_lane (s : State) (p : Nat) (f : LinkPort → LinkPort) (n' : Nat) (ba' : Bool) (cls' : Nat) : (s.modLink p f).lane n' ba' cls' = s.lane n' ba' cls' := rfl
@[simp] theorem State.modLink_fnState (s : State) (p : Nat) (f : LinkPort → LinkPort) (fn' : Nat) : (s.modLink p f).fnState fn' = s.fnState fn' := rfl
@[simp] theorem State.modLink_queue (s : State) (p : Nat) (f : LinkPort → LinkPort) (fn' q' : Nat) : (s.modLink p f).queue fn' q' = s.queue fn' q' := rfl
@[simp] theorem State.modLink_islet (s : State) (p : Nat) (f : LinkPort → LinkPort) (i' : Nat) : (s.modLink p f).islet i' = s.islet i' := rfl
@[simp] theorem State.modLink_mlPort (s : State) (p : Nat) (f : LinkPort → LinkPort) (p' : Nat) : (s.modLink p f).mlPort p' = s.mlPort p' := rfl
@[simp] theorem State.modLink_job (s : State) (p : Nat) (f : LinkPort → LinkPort) (x' : Nat) : (s.modLink p f).job x' = s.job x' := rfl
@[simp] theorem State.modLink_isArmed (s : State) (p : Nat) (f : LinkPort → LinkPort) (fn' k' : Nat) : (s.modLink p f).isArmed fn' k' = s.isArmed fn' k' := rfl

/-! ### modPort -/

@[simp] theorem State.modPort_pkg (s : State) (p : Nat) (g : MlPort → MlPort) : (s.modPort p g).pkg = s.pkg := rfl
@[simp] theorem State.modPort_svn (s : State) (p : Nat) (g : MlPort → MlPort) : (s.modPort p g).svn = s.svn := rfl
@[simp] theorem State.modPort_regs (s : State) (p : Nat) (g : MlPort → MlPort) : (s.modPort p g).regs = s.regs := rfl
@[simp] theorem State.modPort_counts (s : State) (p : Nat) (g : MlPort → MlPort) : (s.modPort p g).counts = s.counts := rfl
@[simp] theorem State.modPort_lanes (s : State) (p : Nat) (g : MlPort → MlPort) : (s.modPort p g).lanes = s.lanes := rfl
@[simp] theorem State.modPort_xturn (s : State) (p : Nat) (g : MlPort → MlPort) : (s.modPort p g).xturn = s.xturn := rfl
@[simp] theorem State.modPort_armed (s : State) (p : Nat) (g : MlPort → MlPort) : (s.modPort p g).armed = s.armed := rfl
@[simp] theorem State.modPort_hbrArmed (s : State) (p : Nat) (g : MlPort → MlPort) : (s.modPort p g).hbrArmed = s.hbrArmed := rfl
@[simp] theorem State.modPort_egress (s : State) (p : Nat) (g : MlPort → MlPort) : (s.modPort p g).egress = s.egress := rfl
@[simp] theorem State.modPort_heads (s : State) (p : Nat) (g : MlPort → MlPort) : (s.modPort p g).heads = s.heads := rfl
@[simp] theorem State.modPort_ports (s : State) (p : Nat) (g : MlPort → MlPort) : (s.modPort p g).ports = s.ports := rfl
@[simp] theorem State.modPort_claimWait (s : State) (p : Nat) (g : MlPort → MlPort) : (s.modPort p g).claimWait = s.claimWait := rfl
@[simp] theorem State.modPort_reads (s : State) (p : Nat) (g : MlPort → MlPort) : (s.modPort p g).reads = s.reads := rfl
@[simp] theorem State.modPort_readsWaiting (s : State) (p : Nat) (g : MlPort → MlPort) : (s.modPort p g).readsWaiting = s.readsWaiting := rfl
@[simp] theorem State.modPort_readData (s : State) (p : Nat) (g : MlPort → MlPort) : (s.modPort p g).readData = s.readData := rfl
@[simp] theorem State.modPort_mem (s : State) (p : Nat) (g : MlPort → MlPort) : (s.modPort p g).mem = s.mem := rfl
@[simp] theorem State.modPort_bad (s : State) (p : Nat) (g : MlPort → MlPort) : (s.modPort p g).bad = s.bad := rfl
@[simp] theorem State.modPort_rowErrs (s : State) (p : Nat) (g : MlPort → MlPort) : (s.modPort p g).rowErrs = s.rowErrs := rfl
@[simp] theorem State.modPort_repairs (s : State) (p : Nat) (g : MlPort → MlPort) : (s.modPort p g).repairs = s.repairs := rfl
@[simp] theorem State.modPort_withdrawn (s : State) (p : Nat) (g : MlPort → MlPort) : (s.modPort p g).withdrawn = s.withdrawn := rfl
@[simp] theorem State.modPort_unrepairable (s : State) (p : Nat) (g : MlPort → MlPort) : (s.modPort p g).unrepairable = s.unrepairable := rfl
@[simp] theorem State.modPort_sweepBad (s : State) (p : Nat) (g : MlPort → MlPort) : (s.modPort p g).sweepBad = s.sweepBad := rfl
@[simp] theorem State.modPort_fns (s : State) (p : Nat) (g : MlPort → MlPort) : (s.modPort p g).fns = s.fns := rfl
@[simp] theorem State.modPort_queues (s : State) (p : Nat) (g : MlPort → MlPort) : (s.modPort p g).queues = s.queues := rfl
@[simp] theorem State.modPort_islets (s : State) (p : Nat) (g : MlPort → MlPort) : (s.modPort p g).islets = s.islets := rfl
@[simp] theorem State.modPort_packets (s : State) (p : Nat) (g : MlPort → MlPort) : (s.modPort p g).packets = s.packets := rfl
@[simp] theorem State.modPort_launches (s : State) (p : Nat) (g : MlPort → MlPort) : (s.modPort p g).launches = s.launches := rfl
@[simp] theorem State.modPort_nextLaunch (s : State) (p : Nat) (g : MlPort → MlPort) : (s.modPort p g).nextLaunch = s.nextLaunch := rfl
@[simp] theorem State.modPort_pastLaunches (s : State) (p : Nat) (g : MlPort → MlPort) : (s.modPort p g).pastLaunches = s.pastLaunches := rfl
@[simp] theorem State.modPort_staging (s : State) (p : Nat) (g : MlPort → MlPort) : (s.modPort p g).staging = s.staging := rfl
@[simp] theorem State.modPort_stagingBusy (s : State) (p : Nat) (g : MlPort → MlPort) : (s.modPort p g).stagingBusy = s.stagingBusy := rfl
@[simp] theorem State.modPort_held (s : State) (p : Nat) (g : MlPort → MlPort) : (s.modPort p g).held = s.held := rfl
@[simp] theorem State.modPort_served (s : State) (p : Nat) (g : MlPort → MlPort) : (s.modPort p g).served = s.served := rfl
@[simp] theorem State.modPort_jobs (s : State) (p : Nat) (g : MlPort → MlPort) : (s.modPort p g).jobs = s.jobs := rfl
@[simp] theorem State.modPort_lead (s : State) (p : Nat) (g : MlPort → MlPort) : (s.modPort p g).lead = s.lead := rfl
@[simp] theorem State.modPort_actions (s : State) (p : Nat) (g : MlPort → MlPort) : (s.modPort p g).actions = s.actions := rfl
@[simp] theorem State.modPort_nextAction (s : State) (p : Nat) (g : MlPort → MlPort) : (s.modPort p g).nextAction = s.nextAction := rfl
@[simp] theorem State.modPort_snapSent (s : State) (p : Nat) (g : MlPort → MlPort) : (s.modPort p g).snapSent = s.snapSent := rfl
@[simp] theorem State.modPort_restarting (s : State) (p : Nat) (g : MlPort → MlPort) : (s.modPort p g).restarting = s.restarting := rfl
@[simp] theorem State.modPort_watchdogs (s : State) (p : Nat) (g : MlPort → MlPort) : (s.modPort p g).watchdogs = s.watchdogs := rfl
@[simp] theorem State.modPort_records (s : State) (p : Nat) (g : MlPort → MlPort) : (s.modPort p g).records = s.records := rfl
@[simp] theorem State.modPort_leases (s : State) (p : Nat) (g : MlPort → MlPort) : (s.modPort p g).leases = s.leases := rfl
@[simp] theorem State.modPort_reefs (s : State) (p : Nat) (g : MlPort → MlPort) : (s.modPort p g).reefs = s.reefs := rfl
@[simp] theorem State.modPort_jqueue (s : State) (p : Nat) (g : MlPort → MlPort) : (s.modPort p g).jqueue = s.jqueue := rfl
@[simp] theorem State.modPort_mctpOut (s : State) (p : Nat) (g : MlPort → MlPort) : (s.modPort p g).mctpOut = s.mctpOut := rfl
@[simp] theorem State.modPort_gov (s : State) (p : Nat) (g : MlPort → MlPort) : (s.modPort p g).gov = s.gov := rfl
@[simp] theorem State.modPort_pins (s : State) (p : Nat) (g : MlPort → MlPort) : (s.modPort p g).pins = s.pins := rfl
@[simp] theorem State.modPort_jtag (s : State) (p : Nat) (g : MlPort → MlPort) : (s.modPort p g).jtag = s.jtag := rfl
@[simp] theorem State.modPort_mctp (s : State) (p : Nat) (g : MlPort → MlPort) : (s.modPort p g).mctp = s.mctp := rfl
@[simp] theorem State.modPort_fw (s : State) (p : Nat) (g : MlPort → MlPort) : (s.modPort p g).fw = s.fw := rfl
@[simp] theorem State.modPort_jnl (s : State) (p : Nat) (g : MlPort → MlPort) : (s.modPort p g).jnl = s.jnl := rfl
@[simp] theorem State.modPort_drains (s : State) (p : Nat) (g : MlPort → MlPort) : (s.modPort p g).drains = s.drains := rfl
@[simp] theorem State.modPort_enablePend (s : State) (p : Nat) (g : MlPort → MlPort) : (s.modPort p g).enablePend = s.enablePend := rfl
@[simp] theorem State.modPort_rotations (s : State) (p : Nat) (g : MlPort → MlPort) : (s.modPort p g).rotations = s.rotations := rfl
@[simp] theorem State.modPort_drbgCount (s : State) (p : Nat) (g : MlPort → MlPort) : (s.modPort p g).drbgCount = s.drbgCount := rfl
@[simp] theorem State.modPort_freeCtr (s : State) (p : Nat) (g : MlPort → MlPort) : (s.modPort p g).freeCtr = s.freeCtr := rfl
@[simp] theorem State.modPort_ticks (s : State) (p : Nat) (g : MlPort → MlPort) : (s.modPort p g).ticks = s.ticks := rfl
@[simp] theorem State.modPort_pending (s : State) (p : Nat) (g : MlPort → MlPort) : (s.modPort p g).pending = s.pending := rfl
@[simp] theorem State.modPort_reg (s : State) (p : Nat) (g : MlPort → MlPort) (r' : Reg) (a' b' : Nat) : (s.modPort p g).reg r' a' b' = s.reg r' a' b' := rfl
@[simp] theorem State.modPort_fld (s : State) (p : Nat) (g : MlPort → MlPort) (g' : Fld) (a' b' : Nat) : (s.modPort p g).fld g' a' b' = s.fld g' a' b' := rfl
@[simp] theorem State.modPort_count (s : State) (p : Nat) (g : MlPort → MlPort) (i' : Nat) : (s.modPort p g).count i' = s.count i' := rfl
@[simp] theorem State.modPort_lane (s : State) (p : Nat) (g : MlPort → MlPort) (n' : Nat) (ba' : Bool) (cls' : Nat) : (s.modPort p g).lane n' ba' cls' = s.lane n' ba' cls' := rfl
@[simp] theorem State.modPort_fnState (s : State) (p : Nat) (g : MlPort → MlPort) (fn' : Nat) : (s.modPort p g).fnState fn' = s.fnState fn' := rfl
@[simp] theorem State.modPort_queue (s : State) (p : Nat) (g : MlPort → MlPort) (fn' q' : Nat) : (s.modPort p g).queue fn' q' = s.queue fn' q' := rfl
@[simp] theorem State.modPort_islet (s : State) (p : Nat) (g : MlPort → MlPort) (i' : Nat) : (s.modPort p g).islet i' = s.islet i' := rfl
@[simp] theorem State.modPort_link (s : State) (p : Nat) (g : MlPort → MlPort) (p' : Nat) : (s.modPort p g).link p' = s.link p' := rfl
@[simp] theorem State.modPort_job (s : State) (p : Nat) (g : MlPort → MlPort) (x' : Nat) : (s.modPort p g).job x' = s.job x' := rfl
@[simp] theorem State.modPort_isArmed (s : State) (p : Nat) (g : MlPort → MlPort) (fn' k' : Nat) : (s.modPort p g).isArmed fn' k' = s.isArmed fn' k' := rfl

/-! ### modMig -/

@[simp] theorem State.modMig_pkg (s : State) (fn : Nat) (g : Mig → Mig) : (s.modMig fn g).pkg = s.pkg := rfl
@[simp] theorem State.modMig_svn (s : State) (fn : Nat) (g : Mig → Mig) : (s.modMig fn g).svn = s.svn := rfl
@[simp] theorem State.modMig_regs (s : State) (fn : Nat) (g : Mig → Mig) : (s.modMig fn g).regs = s.regs := rfl
@[simp] theorem State.modMig_counts (s : State) (fn : Nat) (g : Mig → Mig) : (s.modMig fn g).counts = s.counts := rfl
@[simp] theorem State.modMig_lanes (s : State) (fn : Nat) (g : Mig → Mig) : (s.modMig fn g).lanes = s.lanes := rfl
@[simp] theorem State.modMig_xturn (s : State) (fn : Nat) (g : Mig → Mig) : (s.modMig fn g).xturn = s.xturn := rfl
@[simp] theorem State.modMig_armed (s : State) (fn : Nat) (g : Mig → Mig) : (s.modMig fn g).armed = s.armed := rfl
@[simp] theorem State.modMig_hbrArmed (s : State) (fn : Nat) (g : Mig → Mig) : (s.modMig fn g).hbrArmed = s.hbrArmed := rfl
@[simp] theorem State.modMig_egress (s : State) (fn : Nat) (g : Mig → Mig) : (s.modMig fn g).egress = s.egress := rfl
@[simp] theorem State.modMig_heads (s : State) (fn : Nat) (g : Mig → Mig) : (s.modMig fn g).heads = s.heads := rfl
@[simp] theorem State.modMig_ports (s : State) (fn : Nat) (g : Mig → Mig) : (s.modMig fn g).ports = s.ports := rfl
@[simp] theorem State.modMig_claimWait (s : State) (fn : Nat) (g : Mig → Mig) : (s.modMig fn g).claimWait = s.claimWait := rfl
@[simp] theorem State.modMig_reads (s : State) (fn : Nat) (g : Mig → Mig) : (s.modMig fn g).reads = s.reads := rfl
@[simp] theorem State.modMig_readsWaiting (s : State) (fn : Nat) (g : Mig → Mig) : (s.modMig fn g).readsWaiting = s.readsWaiting := rfl
@[simp] theorem State.modMig_readData (s : State) (fn : Nat) (g : Mig → Mig) : (s.modMig fn g).readData = s.readData := rfl
@[simp] theorem State.modMig_mem (s : State) (fn : Nat) (g : Mig → Mig) : (s.modMig fn g).mem = s.mem := rfl
@[simp] theorem State.modMig_bad (s : State) (fn : Nat) (g : Mig → Mig) : (s.modMig fn g).bad = s.bad := rfl
@[simp] theorem State.modMig_rowErrs (s : State) (fn : Nat) (g : Mig → Mig) : (s.modMig fn g).rowErrs = s.rowErrs := rfl
@[simp] theorem State.modMig_repairs (s : State) (fn : Nat) (g : Mig → Mig) : (s.modMig fn g).repairs = s.repairs := rfl
@[simp] theorem State.modMig_withdrawn (s : State) (fn : Nat) (g : Mig → Mig) : (s.modMig fn g).withdrawn = s.withdrawn := rfl
@[simp] theorem State.modMig_unrepairable (s : State) (fn : Nat) (g : Mig → Mig) : (s.modMig fn g).unrepairable = s.unrepairable := rfl
@[simp] theorem State.modMig_sweepBad (s : State) (fn : Nat) (g : Mig → Mig) : (s.modMig fn g).sweepBad = s.sweepBad := rfl
@[simp] theorem State.modMig_queues (s : State) (fn : Nat) (g : Mig → Mig) : (s.modMig fn g).queues = s.queues := rfl
@[simp] theorem State.modMig_islets (s : State) (fn : Nat) (g : Mig → Mig) : (s.modMig fn g).islets = s.islets := rfl
@[simp] theorem State.modMig_packets (s : State) (fn : Nat) (g : Mig → Mig) : (s.modMig fn g).packets = s.packets := rfl
@[simp] theorem State.modMig_launches (s : State) (fn : Nat) (g : Mig → Mig) : (s.modMig fn g).launches = s.launches := rfl
@[simp] theorem State.modMig_nextLaunch (s : State) (fn : Nat) (g : Mig → Mig) : (s.modMig fn g).nextLaunch = s.nextLaunch := rfl
@[simp] theorem State.modMig_pastLaunches (s : State) (fn : Nat) (g : Mig → Mig) : (s.modMig fn g).pastLaunches = s.pastLaunches := rfl
@[simp] theorem State.modMig_staging (s : State) (fn : Nat) (g : Mig → Mig) : (s.modMig fn g).staging = s.staging := rfl
@[simp] theorem State.modMig_stagingBusy (s : State) (fn : Nat) (g : Mig → Mig) : (s.modMig fn g).stagingBusy = s.stagingBusy := rfl
@[simp] theorem State.modMig_mlPorts (s : State) (fn : Nat) (g : Mig → Mig) : (s.modMig fn g).mlPorts = s.mlPorts := rfl
@[simp] theorem State.modMig_held (s : State) (fn : Nat) (g : Mig → Mig) : (s.modMig fn g).held = s.held := rfl
@[simp] theorem State.modMig_served (s : State) (fn : Nat) (g : Mig → Mig) : (s.modMig fn g).served = s.served := rfl
@[simp] theorem State.modMig_jobs (s : State) (fn : Nat) (g : Mig → Mig) : (s.modMig fn g).jobs = s.jobs := rfl
@[simp] theorem State.modMig_lead (s : State) (fn : Nat) (g : Mig → Mig) : (s.modMig fn g).lead = s.lead := rfl
@[simp] theorem State.modMig_actions (s : State) (fn : Nat) (g : Mig → Mig) : (s.modMig fn g).actions = s.actions := rfl
@[simp] theorem State.modMig_nextAction (s : State) (fn : Nat) (g : Mig → Mig) : (s.modMig fn g).nextAction = s.nextAction := rfl
@[simp] theorem State.modMig_snapSent (s : State) (fn : Nat) (g : Mig → Mig) : (s.modMig fn g).snapSent = s.snapSent := rfl
@[simp] theorem State.modMig_restarting (s : State) (fn : Nat) (g : Mig → Mig) : (s.modMig fn g).restarting = s.restarting := rfl
@[simp] theorem State.modMig_watchdogs (s : State) (fn : Nat) (g : Mig → Mig) : (s.modMig fn g).watchdogs = s.watchdogs := rfl
@[simp] theorem State.modMig_records (s : State) (fn : Nat) (g : Mig → Mig) : (s.modMig fn g).records = s.records := rfl
@[simp] theorem State.modMig_leases (s : State) (fn : Nat) (g : Mig → Mig) : (s.modMig fn g).leases = s.leases := rfl
@[simp] theorem State.modMig_reefs (s : State) (fn : Nat) (g : Mig → Mig) : (s.modMig fn g).reefs = s.reefs := rfl
@[simp] theorem State.modMig_jqueue (s : State) (fn : Nat) (g : Mig → Mig) : (s.modMig fn g).jqueue = s.jqueue := rfl
@[simp] theorem State.modMig_mctpOut (s : State) (fn : Nat) (g : Mig → Mig) : (s.modMig fn g).mctpOut = s.mctpOut := rfl
@[simp] theorem State.modMig_gov (s : State) (fn : Nat) (g : Mig → Mig) : (s.modMig fn g).gov = s.gov := rfl
@[simp] theorem State.modMig_pins (s : State) (fn : Nat) (g : Mig → Mig) : (s.modMig fn g).pins = s.pins := rfl
@[simp] theorem State.modMig_jtag (s : State) (fn : Nat) (g : Mig → Mig) : (s.modMig fn g).jtag = s.jtag := rfl
@[simp] theorem State.modMig_mctp (s : State) (fn : Nat) (g : Mig → Mig) : (s.modMig fn g).mctp = s.mctp := rfl
@[simp] theorem State.modMig_fw (s : State) (fn : Nat) (g : Mig → Mig) : (s.modMig fn g).fw = s.fw := rfl
@[simp] theorem State.modMig_jnl (s : State) (fn : Nat) (g : Mig → Mig) : (s.modMig fn g).jnl = s.jnl := rfl
@[simp] theorem State.modMig_drains (s : State) (fn : Nat) (g : Mig → Mig) : (s.modMig fn g).drains = s.drains := rfl
@[simp] theorem State.modMig_enablePend (s : State) (fn : Nat) (g : Mig → Mig) : (s.modMig fn g).enablePend = s.enablePend := rfl
@[simp] theorem State.modMig_rotations (s : State) (fn : Nat) (g : Mig → Mig) : (s.modMig fn g).rotations = s.rotations := rfl
@[simp] theorem State.modMig_drbgCount (s : State) (fn : Nat) (g : Mig → Mig) : (s.modMig fn g).drbgCount = s.drbgCount := rfl
@[simp] theorem State.modMig_freeCtr (s : State) (fn : Nat) (g : Mig → Mig) : (s.modMig fn g).freeCtr = s.freeCtr := rfl
@[simp] theorem State.modMig_ticks (s : State) (fn : Nat) (g : Mig → Mig) : (s.modMig fn g).ticks = s.ticks := rfl
@[simp] theorem State.modMig_pending (s : State) (fn : Nat) (g : Mig → Mig) : (s.modMig fn g).pending = s.pending := rfl
@[simp] theorem State.modMig_reg (s : State) (fn : Nat) (g : Mig → Mig) (r' : Reg) (a' b' : Nat) : (s.modMig fn g).reg r' a' b' = s.reg r' a' b' := rfl
@[simp] theorem State.modMig_fld (s : State) (fn : Nat) (g : Mig → Mig) (g' : Fld) (a' b' : Nat) : (s.modMig fn g).fld g' a' b' = s.fld g' a' b' := rfl
@[simp] theorem State.modMig_count (s : State) (fn : Nat) (g : Mig → Mig) (i' : Nat) : (s.modMig fn g).count i' = s.count i' := rfl
@[simp] theorem State.modMig_lane (s : State) (fn : Nat) (g : Mig → Mig) (n' : Nat) (ba' : Bool) (cls' : Nat) : (s.modMig fn g).lane n' ba' cls' = s.lane n' ba' cls' := rfl
@[simp] theorem State.modMig_queue (s : State) (fn : Nat) (g : Mig → Mig) (fn' q' : Nat) : (s.modMig fn g).queue fn' q' = s.queue fn' q' := rfl
@[simp] theorem State.modMig_islet (s : State) (fn : Nat) (g : Mig → Mig) (i' : Nat) : (s.modMig fn g).islet i' = s.islet i' := rfl
@[simp] theorem State.modMig_link (s : State) (fn : Nat) (g : Mig → Mig) (p' : Nat) : (s.modMig fn g).link p' = s.link p' := rfl
@[simp] theorem State.modMig_mlPort (s : State) (fn : Nat) (g : Mig → Mig) (p' : Nat) : (s.modMig fn g).mlPort p' = s.mlPort p' := rfl
@[simp] theorem State.modMig_job (s : State) (fn : Nat) (g : Mig → Mig) (x' : Nat) : (s.modMig fn g).job x' = s.job x' := rfl
@[simp] theorem State.modMig_isArmed (s : State) (fn : Nat) (g : Mig → Mig) (fn' k' : Nat) : (s.modMig fn g).isArmed fn' k' = s.isArmed fn' k' := rfl

/-! ### modLoad -/

@[simp] theorem State.modLoad_pkg (s : State) (fn : Nat) (g : Load → Load) : (s.modLoad fn g).pkg = s.pkg := rfl
@[simp] theorem State.modLoad_svn (s : State) (fn : Nat) (g : Load → Load) : (s.modLoad fn g).svn = s.svn := rfl
@[simp] theorem State.modLoad_regs (s : State) (fn : Nat) (g : Load → Load) : (s.modLoad fn g).regs = s.regs := rfl
@[simp] theorem State.modLoad_counts (s : State) (fn : Nat) (g : Load → Load) : (s.modLoad fn g).counts = s.counts := rfl
@[simp] theorem State.modLoad_lanes (s : State) (fn : Nat) (g : Load → Load) : (s.modLoad fn g).lanes = s.lanes := rfl
@[simp] theorem State.modLoad_xturn (s : State) (fn : Nat) (g : Load → Load) : (s.modLoad fn g).xturn = s.xturn := rfl
@[simp] theorem State.modLoad_armed (s : State) (fn : Nat) (g : Load → Load) : (s.modLoad fn g).armed = s.armed := rfl
@[simp] theorem State.modLoad_hbrArmed (s : State) (fn : Nat) (g : Load → Load) : (s.modLoad fn g).hbrArmed = s.hbrArmed := rfl
@[simp] theorem State.modLoad_egress (s : State) (fn : Nat) (g : Load → Load) : (s.modLoad fn g).egress = s.egress := rfl
@[simp] theorem State.modLoad_heads (s : State) (fn : Nat) (g : Load → Load) : (s.modLoad fn g).heads = s.heads := rfl
@[simp] theorem State.modLoad_ports (s : State) (fn : Nat) (g : Load → Load) : (s.modLoad fn g).ports = s.ports := rfl
@[simp] theorem State.modLoad_claimWait (s : State) (fn : Nat) (g : Load → Load) : (s.modLoad fn g).claimWait = s.claimWait := rfl
@[simp] theorem State.modLoad_reads (s : State) (fn : Nat) (g : Load → Load) : (s.modLoad fn g).reads = s.reads := rfl
@[simp] theorem State.modLoad_readsWaiting (s : State) (fn : Nat) (g : Load → Load) : (s.modLoad fn g).readsWaiting = s.readsWaiting := rfl
@[simp] theorem State.modLoad_readData (s : State) (fn : Nat) (g : Load → Load) : (s.modLoad fn g).readData = s.readData := rfl
@[simp] theorem State.modLoad_mem (s : State) (fn : Nat) (g : Load → Load) : (s.modLoad fn g).mem = s.mem := rfl
@[simp] theorem State.modLoad_bad (s : State) (fn : Nat) (g : Load → Load) : (s.modLoad fn g).bad = s.bad := rfl
@[simp] theorem State.modLoad_rowErrs (s : State) (fn : Nat) (g : Load → Load) : (s.modLoad fn g).rowErrs = s.rowErrs := rfl
@[simp] theorem State.modLoad_repairs (s : State) (fn : Nat) (g : Load → Load) : (s.modLoad fn g).repairs = s.repairs := rfl
@[simp] theorem State.modLoad_withdrawn (s : State) (fn : Nat) (g : Load → Load) : (s.modLoad fn g).withdrawn = s.withdrawn := rfl
@[simp] theorem State.modLoad_unrepairable (s : State) (fn : Nat) (g : Load → Load) : (s.modLoad fn g).unrepairable = s.unrepairable := rfl
@[simp] theorem State.modLoad_sweepBad (s : State) (fn : Nat) (g : Load → Load) : (s.modLoad fn g).sweepBad = s.sweepBad := rfl
@[simp] theorem State.modLoad_queues (s : State) (fn : Nat) (g : Load → Load) : (s.modLoad fn g).queues = s.queues := rfl
@[simp] theorem State.modLoad_islets (s : State) (fn : Nat) (g : Load → Load) : (s.modLoad fn g).islets = s.islets := rfl
@[simp] theorem State.modLoad_packets (s : State) (fn : Nat) (g : Load → Load) : (s.modLoad fn g).packets = s.packets := rfl
@[simp] theorem State.modLoad_launches (s : State) (fn : Nat) (g : Load → Load) : (s.modLoad fn g).launches = s.launches := rfl
@[simp] theorem State.modLoad_nextLaunch (s : State) (fn : Nat) (g : Load → Load) : (s.modLoad fn g).nextLaunch = s.nextLaunch := rfl
@[simp] theorem State.modLoad_pastLaunches (s : State) (fn : Nat) (g : Load → Load) : (s.modLoad fn g).pastLaunches = s.pastLaunches := rfl
@[simp] theorem State.modLoad_staging (s : State) (fn : Nat) (g : Load → Load) : (s.modLoad fn g).staging = s.staging := rfl
@[simp] theorem State.modLoad_stagingBusy (s : State) (fn : Nat) (g : Load → Load) : (s.modLoad fn g).stagingBusy = s.stagingBusy := rfl
@[simp] theorem State.modLoad_mlPorts (s : State) (fn : Nat) (g : Load → Load) : (s.modLoad fn g).mlPorts = s.mlPorts := rfl
@[simp] theorem State.modLoad_held (s : State) (fn : Nat) (g : Load → Load) : (s.modLoad fn g).held = s.held := rfl
@[simp] theorem State.modLoad_served (s : State) (fn : Nat) (g : Load → Load) : (s.modLoad fn g).served = s.served := rfl
@[simp] theorem State.modLoad_jobs (s : State) (fn : Nat) (g : Load → Load) : (s.modLoad fn g).jobs = s.jobs := rfl
@[simp] theorem State.modLoad_lead (s : State) (fn : Nat) (g : Load → Load) : (s.modLoad fn g).lead = s.lead := rfl
@[simp] theorem State.modLoad_actions (s : State) (fn : Nat) (g : Load → Load) : (s.modLoad fn g).actions = s.actions := rfl
@[simp] theorem State.modLoad_nextAction (s : State) (fn : Nat) (g : Load → Load) : (s.modLoad fn g).nextAction = s.nextAction := rfl
@[simp] theorem State.modLoad_snapSent (s : State) (fn : Nat) (g : Load → Load) : (s.modLoad fn g).snapSent = s.snapSent := rfl
@[simp] theorem State.modLoad_restarting (s : State) (fn : Nat) (g : Load → Load) : (s.modLoad fn g).restarting = s.restarting := rfl
@[simp] theorem State.modLoad_watchdogs (s : State) (fn : Nat) (g : Load → Load) : (s.modLoad fn g).watchdogs = s.watchdogs := rfl
@[simp] theorem State.modLoad_records (s : State) (fn : Nat) (g : Load → Load) : (s.modLoad fn g).records = s.records := rfl
@[simp] theorem State.modLoad_leases (s : State) (fn : Nat) (g : Load → Load) : (s.modLoad fn g).leases = s.leases := rfl
@[simp] theorem State.modLoad_reefs (s : State) (fn : Nat) (g : Load → Load) : (s.modLoad fn g).reefs = s.reefs := rfl
@[simp] theorem State.modLoad_jqueue (s : State) (fn : Nat) (g : Load → Load) : (s.modLoad fn g).jqueue = s.jqueue := rfl
@[simp] theorem State.modLoad_mctpOut (s : State) (fn : Nat) (g : Load → Load) : (s.modLoad fn g).mctpOut = s.mctpOut := rfl
@[simp] theorem State.modLoad_gov (s : State) (fn : Nat) (g : Load → Load) : (s.modLoad fn g).gov = s.gov := rfl
@[simp] theorem State.modLoad_pins (s : State) (fn : Nat) (g : Load → Load) : (s.modLoad fn g).pins = s.pins := rfl
@[simp] theorem State.modLoad_jtag (s : State) (fn : Nat) (g : Load → Load) : (s.modLoad fn g).jtag = s.jtag := rfl
@[simp] theorem State.modLoad_mctp (s : State) (fn : Nat) (g : Load → Load) : (s.modLoad fn g).mctp = s.mctp := rfl
@[simp] theorem State.modLoad_fw (s : State) (fn : Nat) (g : Load → Load) : (s.modLoad fn g).fw = s.fw := rfl
@[simp] theorem State.modLoad_jnl (s : State) (fn : Nat) (g : Load → Load) : (s.modLoad fn g).jnl = s.jnl := rfl
@[simp] theorem State.modLoad_drains (s : State) (fn : Nat) (g : Load → Load) : (s.modLoad fn g).drains = s.drains := rfl
@[simp] theorem State.modLoad_enablePend (s : State) (fn : Nat) (g : Load → Load) : (s.modLoad fn g).enablePend = s.enablePend := rfl
@[simp] theorem State.modLoad_rotations (s : State) (fn : Nat) (g : Load → Load) : (s.modLoad fn g).rotations = s.rotations := rfl
@[simp] theorem State.modLoad_drbgCount (s : State) (fn : Nat) (g : Load → Load) : (s.modLoad fn g).drbgCount = s.drbgCount := rfl
@[simp] theorem State.modLoad_freeCtr (s : State) (fn : Nat) (g : Load → Load) : (s.modLoad fn g).freeCtr = s.freeCtr := rfl
@[simp] theorem State.modLoad_ticks (s : State) (fn : Nat) (g : Load → Load) : (s.modLoad fn g).ticks = s.ticks := rfl
@[simp] theorem State.modLoad_pending (s : State) (fn : Nat) (g : Load → Load) : (s.modLoad fn g).pending = s.pending := rfl
@[simp] theorem State.modLoad_reg (s : State) (fn : Nat) (g : Load → Load) (r' : Reg) (a' b' : Nat) : (s.modLoad fn g).reg r' a' b' = s.reg r' a' b' := rfl
@[simp] theorem State.modLoad_fld (s : State) (fn : Nat) (g : Load → Load) (g' : Fld) (a' b' : Nat) : (s.modLoad fn g).fld g' a' b' = s.fld g' a' b' := rfl
@[simp] theorem State.modLoad_count (s : State) (fn : Nat) (g : Load → Load) (i' : Nat) : (s.modLoad fn g).count i' = s.count i' := rfl
@[simp] theorem State.modLoad_lane (s : State) (fn : Nat) (g : Load → Load) (n' : Nat) (ba' : Bool) (cls' : Nat) : (s.modLoad fn g).lane n' ba' cls' = s.lane n' ba' cls' := rfl
@[simp] theorem State.modLoad_queue (s : State) (fn : Nat) (g : Load → Load) (fn' q' : Nat) : (s.modLoad fn g).queue fn' q' = s.queue fn' q' := rfl
@[simp] theorem State.modLoad_islet (s : State) (fn : Nat) (g : Load → Load) (i' : Nat) : (s.modLoad fn g).islet i' = s.islet i' := rfl
@[simp] theorem State.modLoad_link (s : State) (fn : Nat) (g : Load → Load) (p' : Nat) : (s.modLoad fn g).link p' = s.link p' := rfl
@[simp] theorem State.modLoad_mlPort (s : State) (fn : Nat) (g : Load → Load) (p' : Nat) : (s.modLoad fn g).mlPort p' = s.mlPort p' := rfl
@[simp] theorem State.modLoad_job (s : State) (fn : Nat) (g : Load → Load) (x' : Nat) : (s.modLoad fn g).job x' = s.job x' := rfl
@[simp] theorem State.modLoad_isArmed (s : State) (fn : Nat) (g : Load → Load) (fn' k' : Nat) : (s.modLoad fn g).isArmed fn' k' = s.isArmed fn' k' := rfl

/-! ### modJob -/

@[simp] theorem State.modJob_pkg (s : State) (x : Nat) (g : Job → Job) : (s.modJob x g).pkg = s.pkg := rfl
@[simp] theorem State.modJob_svn (s : State) (x : Nat) (g : Job → Job) : (s.modJob x g).svn = s.svn := rfl
@[simp] theorem State.modJob_regs (s : State) (x : Nat) (g : Job → Job) : (s.modJob x g).regs = s.regs := rfl
@[simp] theorem State.modJob_counts (s : State) (x : Nat) (g : Job → Job) : (s.modJob x g).counts = s.counts := rfl
@[simp] theorem State.modJob_lanes (s : State) (x : Nat) (g : Job → Job) : (s.modJob x g).lanes = s.lanes := rfl
@[simp] theorem State.modJob_xturn (s : State) (x : Nat) (g : Job → Job) : (s.modJob x g).xturn = s.xturn := rfl
@[simp] theorem State.modJob_armed (s : State) (x : Nat) (g : Job → Job) : (s.modJob x g).armed = s.armed := rfl
@[simp] theorem State.modJob_hbrArmed (s : State) (x : Nat) (g : Job → Job) : (s.modJob x g).hbrArmed = s.hbrArmed := rfl
@[simp] theorem State.modJob_egress (s : State) (x : Nat) (g : Job → Job) : (s.modJob x g).egress = s.egress := rfl
@[simp] theorem State.modJob_heads (s : State) (x : Nat) (g : Job → Job) : (s.modJob x g).heads = s.heads := rfl
@[simp] theorem State.modJob_ports (s : State) (x : Nat) (g : Job → Job) : (s.modJob x g).ports = s.ports := rfl
@[simp] theorem State.modJob_claimWait (s : State) (x : Nat) (g : Job → Job) : (s.modJob x g).claimWait = s.claimWait := rfl
@[simp] theorem State.modJob_reads (s : State) (x : Nat) (g : Job → Job) : (s.modJob x g).reads = s.reads := rfl
@[simp] theorem State.modJob_readsWaiting (s : State) (x : Nat) (g : Job → Job) : (s.modJob x g).readsWaiting = s.readsWaiting := rfl
@[simp] theorem State.modJob_readData (s : State) (x : Nat) (g : Job → Job) : (s.modJob x g).readData = s.readData := rfl
@[simp] theorem State.modJob_mem (s : State) (x : Nat) (g : Job → Job) : (s.modJob x g).mem = s.mem := rfl
@[simp] theorem State.modJob_bad (s : State) (x : Nat) (g : Job → Job) : (s.modJob x g).bad = s.bad := rfl
@[simp] theorem State.modJob_rowErrs (s : State) (x : Nat) (g : Job → Job) : (s.modJob x g).rowErrs = s.rowErrs := rfl
@[simp] theorem State.modJob_repairs (s : State) (x : Nat) (g : Job → Job) : (s.modJob x g).repairs = s.repairs := rfl
@[simp] theorem State.modJob_withdrawn (s : State) (x : Nat) (g : Job → Job) : (s.modJob x g).withdrawn = s.withdrawn := rfl
@[simp] theorem State.modJob_unrepairable (s : State) (x : Nat) (g : Job → Job) : (s.modJob x g).unrepairable = s.unrepairable := rfl
@[simp] theorem State.modJob_sweepBad (s : State) (x : Nat) (g : Job → Job) : (s.modJob x g).sweepBad = s.sweepBad := rfl
@[simp] theorem State.modJob_fns (s : State) (x : Nat) (g : Job → Job) : (s.modJob x g).fns = s.fns := rfl
@[simp] theorem State.modJob_queues (s : State) (x : Nat) (g : Job → Job) : (s.modJob x g).queues = s.queues := rfl
@[simp] theorem State.modJob_islets (s : State) (x : Nat) (g : Job → Job) : (s.modJob x g).islets = s.islets := rfl
@[simp] theorem State.modJob_packets (s : State) (x : Nat) (g : Job → Job) : (s.modJob x g).packets = s.packets := rfl
@[simp] theorem State.modJob_launches (s : State) (x : Nat) (g : Job → Job) : (s.modJob x g).launches = s.launches := rfl
@[simp] theorem State.modJob_nextLaunch (s : State) (x : Nat) (g : Job → Job) : (s.modJob x g).nextLaunch = s.nextLaunch := rfl
@[simp] theorem State.modJob_pastLaunches (s : State) (x : Nat) (g : Job → Job) : (s.modJob x g).pastLaunches = s.pastLaunches := rfl
@[simp] theorem State.modJob_staging (s : State) (x : Nat) (g : Job → Job) : (s.modJob x g).staging = s.staging := rfl
@[simp] theorem State.modJob_stagingBusy (s : State) (x : Nat) (g : Job → Job) : (s.modJob x g).stagingBusy = s.stagingBusy := rfl
@[simp] theorem State.modJob_mlPorts (s : State) (x : Nat) (g : Job → Job) : (s.modJob x g).mlPorts = s.mlPorts := rfl
@[simp] theorem State.modJob_held (s : State) (x : Nat) (g : Job → Job) : (s.modJob x g).held = s.held := rfl
@[simp] theorem State.modJob_served (s : State) (x : Nat) (g : Job → Job) : (s.modJob x g).served = s.served := rfl
@[simp] theorem State.modJob_lead (s : State) (x : Nat) (g : Job → Job) : (s.modJob x g).lead = s.lead := rfl
@[simp] theorem State.modJob_actions (s : State) (x : Nat) (g : Job → Job) : (s.modJob x g).actions = s.actions := rfl
@[simp] theorem State.modJob_nextAction (s : State) (x : Nat) (g : Job → Job) : (s.modJob x g).nextAction = s.nextAction := rfl
@[simp] theorem State.modJob_snapSent (s : State) (x : Nat) (g : Job → Job) : (s.modJob x g).snapSent = s.snapSent := rfl
@[simp] theorem State.modJob_restarting (s : State) (x : Nat) (g : Job → Job) : (s.modJob x g).restarting = s.restarting := rfl
@[simp] theorem State.modJob_watchdogs (s : State) (x : Nat) (g : Job → Job) : (s.modJob x g).watchdogs = s.watchdogs := rfl
@[simp] theorem State.modJob_records (s : State) (x : Nat) (g : Job → Job) : (s.modJob x g).records = s.records := rfl
@[simp] theorem State.modJob_leases (s : State) (x : Nat) (g : Job → Job) : (s.modJob x g).leases = s.leases := rfl
@[simp] theorem State.modJob_reefs (s : State) (x : Nat) (g : Job → Job) : (s.modJob x g).reefs = s.reefs := rfl
@[simp] theorem State.modJob_jqueue (s : State) (x : Nat) (g : Job → Job) : (s.modJob x g).jqueue = s.jqueue := rfl
@[simp] theorem State.modJob_mctpOut (s : State) (x : Nat) (g : Job → Job) : (s.modJob x g).mctpOut = s.mctpOut := rfl
@[simp] theorem State.modJob_gov (s : State) (x : Nat) (g : Job → Job) : (s.modJob x g).gov = s.gov := rfl
@[simp] theorem State.modJob_pins (s : State) (x : Nat) (g : Job → Job) : (s.modJob x g).pins = s.pins := rfl
@[simp] theorem State.modJob_jtag (s : State) (x : Nat) (g : Job → Job) : (s.modJob x g).jtag = s.jtag := rfl
@[simp] theorem State.modJob_mctp (s : State) (x : Nat) (g : Job → Job) : (s.modJob x g).mctp = s.mctp := rfl
@[simp] theorem State.modJob_fw (s : State) (x : Nat) (g : Job → Job) : (s.modJob x g).fw = s.fw := rfl
@[simp] theorem State.modJob_jnl (s : State) (x : Nat) (g : Job → Job) : (s.modJob x g).jnl = s.jnl := rfl
@[simp] theorem State.modJob_drains (s : State) (x : Nat) (g : Job → Job) : (s.modJob x g).drains = s.drains := rfl
@[simp] theorem State.modJob_enablePend (s : State) (x : Nat) (g : Job → Job) : (s.modJob x g).enablePend = s.enablePend := rfl
@[simp] theorem State.modJob_rotations (s : State) (x : Nat) (g : Job → Job) : (s.modJob x g).rotations = s.rotations := rfl
@[simp] theorem State.modJob_drbgCount (s : State) (x : Nat) (g : Job → Job) : (s.modJob x g).drbgCount = s.drbgCount := rfl
@[simp] theorem State.modJob_freeCtr (s : State) (x : Nat) (g : Job → Job) : (s.modJob x g).freeCtr = s.freeCtr := rfl
@[simp] theorem State.modJob_ticks (s : State) (x : Nat) (g : Job → Job) : (s.modJob x g).ticks = s.ticks := rfl
@[simp] theorem State.modJob_pending (s : State) (x : Nat) (g : Job → Job) : (s.modJob x g).pending = s.pending := rfl
@[simp] theorem State.modJob_reg (s : State) (x : Nat) (g : Job → Job) (r' : Reg) (a' b' : Nat) : (s.modJob x g).reg r' a' b' = s.reg r' a' b' := rfl
@[simp] theorem State.modJob_fld (s : State) (x : Nat) (g : Job → Job) (g' : Fld) (a' b' : Nat) : (s.modJob x g).fld g' a' b' = s.fld g' a' b' := rfl
@[simp] theorem State.modJob_count (s : State) (x : Nat) (g : Job → Job) (i' : Nat) : (s.modJob x g).count i' = s.count i' := rfl
@[simp] theorem State.modJob_lane (s : State) (x : Nat) (g : Job → Job) (n' : Nat) (ba' : Bool) (cls' : Nat) : (s.modJob x g).lane n' ba' cls' = s.lane n' ba' cls' := rfl
@[simp] theorem State.modJob_fnState (s : State) (x : Nat) (g : Job → Job) (fn' : Nat) : (s.modJob x g).fnState fn' = s.fnState fn' := rfl
@[simp] theorem State.modJob_queue (s : State) (x : Nat) (g : Job → Job) (fn' q' : Nat) : (s.modJob x g).queue fn' q' = s.queue fn' q' := rfl
@[simp] theorem State.modJob_islet (s : State) (x : Nat) (g : Job → Job) (i' : Nat) : (s.modJob x g).islet i' = s.islet i' := rfl
@[simp] theorem State.modJob_link (s : State) (x : Nat) (g : Job → Job) (p' : Nat) : (s.modJob x g).link p' = s.link p' := rfl
@[simp] theorem State.modJob_mlPort (s : State) (x : Nat) (g : Job → Job) (p' : Nat) : (s.modJob x g).mlPort p' = s.mlPort p' := rfl
@[simp] theorem State.modJob_isArmed (s : State) (x : Nat) (g : Job → Job) (fn' k' : Nat) : (s.modJob x g).isArmed fn' k' = s.isArmed fn' k' := rfl

/-! ### modStage -/

@[simp] theorem State.modStage_pkg (s : State) (fn slot : Nat) (g : Stage → Stage) : (s.modStage fn slot g).pkg = s.pkg := rfl
@[simp] theorem State.modStage_svn (s : State) (fn slot : Nat) (g : Stage → Stage) : (s.modStage fn slot g).svn = s.svn := rfl
@[simp] theorem State.modStage_regs (s : State) (fn slot : Nat) (g : Stage → Stage) : (s.modStage fn slot g).regs = s.regs := rfl
@[simp] theorem State.modStage_counts (s : State) (fn slot : Nat) (g : Stage → Stage) : (s.modStage fn slot g).counts = s.counts := rfl
@[simp] theorem State.modStage_lanes (s : State) (fn slot : Nat) (g : Stage → Stage) : (s.modStage fn slot g).lanes = s.lanes := rfl
@[simp] theorem State.modStage_xturn (s : State) (fn slot : Nat) (g : Stage → Stage) : (s.modStage fn slot g).xturn = s.xturn := rfl
@[simp] theorem State.modStage_armed (s : State) (fn slot : Nat) (g : Stage → Stage) : (s.modStage fn slot g).armed = s.armed := rfl
@[simp] theorem State.modStage_hbrArmed (s : State) (fn slot : Nat) (g : Stage → Stage) : (s.modStage fn slot g).hbrArmed = s.hbrArmed := rfl
@[simp] theorem State.modStage_egress (s : State) (fn slot : Nat) (g : Stage → Stage) : (s.modStage fn slot g).egress = s.egress := rfl
@[simp] theorem State.modStage_heads (s : State) (fn slot : Nat) (g : Stage → Stage) : (s.modStage fn slot g).heads = s.heads := rfl
@[simp] theorem State.modStage_ports (s : State) (fn slot : Nat) (g : Stage → Stage) : (s.modStage fn slot g).ports = s.ports := rfl
@[simp] theorem State.modStage_claimWait (s : State) (fn slot : Nat) (g : Stage → Stage) : (s.modStage fn slot g).claimWait = s.claimWait := rfl
@[simp] theorem State.modStage_reads (s : State) (fn slot : Nat) (g : Stage → Stage) : (s.modStage fn slot g).reads = s.reads := rfl
@[simp] theorem State.modStage_readsWaiting (s : State) (fn slot : Nat) (g : Stage → Stage) : (s.modStage fn slot g).readsWaiting = s.readsWaiting := rfl
@[simp] theorem State.modStage_readData (s : State) (fn slot : Nat) (g : Stage → Stage) : (s.modStage fn slot g).readData = s.readData := rfl
@[simp] theorem State.modStage_mem (s : State) (fn slot : Nat) (g : Stage → Stage) : (s.modStage fn slot g).mem = s.mem := rfl
@[simp] theorem State.modStage_bad (s : State) (fn slot : Nat) (g : Stage → Stage) : (s.modStage fn slot g).bad = s.bad := rfl
@[simp] theorem State.modStage_rowErrs (s : State) (fn slot : Nat) (g : Stage → Stage) : (s.modStage fn slot g).rowErrs = s.rowErrs := rfl
@[simp] theorem State.modStage_repairs (s : State) (fn slot : Nat) (g : Stage → Stage) : (s.modStage fn slot g).repairs = s.repairs := rfl
@[simp] theorem State.modStage_withdrawn (s : State) (fn slot : Nat) (g : Stage → Stage) : (s.modStage fn slot g).withdrawn = s.withdrawn := rfl
@[simp] theorem State.modStage_unrepairable (s : State) (fn slot : Nat) (g : Stage → Stage) : (s.modStage fn slot g).unrepairable = s.unrepairable := rfl
@[simp] theorem State.modStage_sweepBad (s : State) (fn slot : Nat) (g : Stage → Stage) : (s.modStage fn slot g).sweepBad = s.sweepBad := rfl
@[simp] theorem State.modStage_queues (s : State) (fn slot : Nat) (g : Stage → Stage) : (s.modStage fn slot g).queues = s.queues := rfl
@[simp] theorem State.modStage_islets (s : State) (fn slot : Nat) (g : Stage → Stage) : (s.modStage fn slot g).islets = s.islets := rfl
@[simp] theorem State.modStage_packets (s : State) (fn slot : Nat) (g : Stage → Stage) : (s.modStage fn slot g).packets = s.packets := rfl
@[simp] theorem State.modStage_launches (s : State) (fn slot : Nat) (g : Stage → Stage) : (s.modStage fn slot g).launches = s.launches := rfl
@[simp] theorem State.modStage_nextLaunch (s : State) (fn slot : Nat) (g : Stage → Stage) : (s.modStage fn slot g).nextLaunch = s.nextLaunch := rfl
@[simp] theorem State.modStage_pastLaunches (s : State) (fn slot : Nat) (g : Stage → Stage) : (s.modStage fn slot g).pastLaunches = s.pastLaunches := rfl
@[simp] theorem State.modStage_staging (s : State) (fn slot : Nat) (g : Stage → Stage) : (s.modStage fn slot g).staging = s.staging := rfl
@[simp] theorem State.modStage_stagingBusy (s : State) (fn slot : Nat) (g : Stage → Stage) : (s.modStage fn slot g).stagingBusy = s.stagingBusy := rfl
@[simp] theorem State.modStage_mlPorts (s : State) (fn slot : Nat) (g : Stage → Stage) : (s.modStage fn slot g).mlPorts = s.mlPorts := rfl
@[simp] theorem State.modStage_held (s : State) (fn slot : Nat) (g : Stage → Stage) : (s.modStage fn slot g).held = s.held := rfl
@[simp] theorem State.modStage_served (s : State) (fn slot : Nat) (g : Stage → Stage) : (s.modStage fn slot g).served = s.served := rfl
@[simp] theorem State.modStage_jobs (s : State) (fn slot : Nat) (g : Stage → Stage) : (s.modStage fn slot g).jobs = s.jobs := rfl
@[simp] theorem State.modStage_lead (s : State) (fn slot : Nat) (g : Stage → Stage) : (s.modStage fn slot g).lead = s.lead := rfl
@[simp] theorem State.modStage_actions (s : State) (fn slot : Nat) (g : Stage → Stage) : (s.modStage fn slot g).actions = s.actions := rfl
@[simp] theorem State.modStage_nextAction (s : State) (fn slot : Nat) (g : Stage → Stage) : (s.modStage fn slot g).nextAction = s.nextAction := rfl
@[simp] theorem State.modStage_snapSent (s : State) (fn slot : Nat) (g : Stage → Stage) : (s.modStage fn slot g).snapSent = s.snapSent := rfl
@[simp] theorem State.modStage_restarting (s : State) (fn slot : Nat) (g : Stage → Stage) : (s.modStage fn slot g).restarting = s.restarting := rfl
@[simp] theorem State.modStage_watchdogs (s : State) (fn slot : Nat) (g : Stage → Stage) : (s.modStage fn slot g).watchdogs = s.watchdogs := rfl
@[simp] theorem State.modStage_records (s : State) (fn slot : Nat) (g : Stage → Stage) : (s.modStage fn slot g).records = s.records := rfl
@[simp] theorem State.modStage_leases (s : State) (fn slot : Nat) (g : Stage → Stage) : (s.modStage fn slot g).leases = s.leases := rfl
@[simp] theorem State.modStage_reefs (s : State) (fn slot : Nat) (g : Stage → Stage) : (s.modStage fn slot g).reefs = s.reefs := rfl
@[simp] theorem State.modStage_jqueue (s : State) (fn slot : Nat) (g : Stage → Stage) : (s.modStage fn slot g).jqueue = s.jqueue := rfl
@[simp] theorem State.modStage_mctpOut (s : State) (fn slot : Nat) (g : Stage → Stage) : (s.modStage fn slot g).mctpOut = s.mctpOut := rfl
@[simp] theorem State.modStage_gov (s : State) (fn slot : Nat) (g : Stage → Stage) : (s.modStage fn slot g).gov = s.gov := rfl
@[simp] theorem State.modStage_pins (s : State) (fn slot : Nat) (g : Stage → Stage) : (s.modStage fn slot g).pins = s.pins := rfl
@[simp] theorem State.modStage_jtag (s : State) (fn slot : Nat) (g : Stage → Stage) : (s.modStage fn slot g).jtag = s.jtag := rfl
@[simp] theorem State.modStage_mctp (s : State) (fn slot : Nat) (g : Stage → Stage) : (s.modStage fn slot g).mctp = s.mctp := rfl
@[simp] theorem State.modStage_fw (s : State) (fn slot : Nat) (g : Stage → Stage) : (s.modStage fn slot g).fw = s.fw := rfl
@[simp] theorem State.modStage_jnl (s : State) (fn slot : Nat) (g : Stage → Stage) : (s.modStage fn slot g).jnl = s.jnl := rfl
@[simp] theorem State.modStage_drains (s : State) (fn slot : Nat) (g : Stage → Stage) : (s.modStage fn slot g).drains = s.drains := rfl
@[simp] theorem State.modStage_enablePend (s : State) (fn slot : Nat) (g : Stage → Stage) : (s.modStage fn slot g).enablePend = s.enablePend := rfl
@[simp] theorem State.modStage_rotations (s : State) (fn slot : Nat) (g : Stage → Stage) : (s.modStage fn slot g).rotations = s.rotations := rfl
@[simp] theorem State.modStage_drbgCount (s : State) (fn slot : Nat) (g : Stage → Stage) : (s.modStage fn slot g).drbgCount = s.drbgCount := rfl
@[simp] theorem State.modStage_freeCtr (s : State) (fn slot : Nat) (g : Stage → Stage) : (s.modStage fn slot g).freeCtr = s.freeCtr := rfl
@[simp] theorem State.modStage_ticks (s : State) (fn slot : Nat) (g : Stage → Stage) : (s.modStage fn slot g).ticks = s.ticks := rfl
@[simp] theorem State.modStage_pending (s : State) (fn slot : Nat) (g : Stage → Stage) : (s.modStage fn slot g).pending = s.pending := rfl
@[simp] theorem State.modStage_reg (s : State) (fn slot : Nat) (g : Stage → Stage) (r' : Reg) (a' b' : Nat) : (s.modStage fn slot g).reg r' a' b' = s.reg r' a' b' := rfl
@[simp] theorem State.modStage_fld (s : State) (fn slot : Nat) (g : Stage → Stage) (g' : Fld) (a' b' : Nat) : (s.modStage fn slot g).fld g' a' b' = s.fld g' a' b' := rfl
@[simp] theorem State.modStage_count (s : State) (fn slot : Nat) (g : Stage → Stage) (i' : Nat) : (s.modStage fn slot g).count i' = s.count i' := rfl
@[simp] theorem State.modStage_lane (s : State) (fn slot : Nat) (g : Stage → Stage) (n' : Nat) (ba' : Bool) (cls' : Nat) : (s.modStage fn slot g).lane n' ba' cls' = s.lane n' ba' cls' := rfl
@[simp] theorem State.modStage_queue (s : State) (fn slot : Nat) (g : Stage → Stage) (fn' q' : Nat) : (s.modStage fn slot g).queue fn' q' = s.queue fn' q' := rfl
@[simp] theorem State.modStage_islet (s : State) (fn slot : Nat) (g : Stage → Stage) (i' : Nat) : (s.modStage fn slot g).islet i' = s.islet i' := rfl
@[simp] theorem State.modStage_link (s : State) (fn slot : Nat) (g : Stage → Stage) (p' : Nat) : (s.modStage fn slot g).link p' = s.link p' := rfl
@[simp] theorem State.modStage_mlPort (s : State) (fn slot : Nat) (g : Stage → Stage) (p' : Nat) : (s.modStage fn slot g).mlPort p' = s.mlPort p' := rfl
@[simp] theorem State.modStage_job (s : State) (fn slot : Nat) (g : Stage → Stage) (x' : Nat) : (s.modStage fn slot g).job x' = s.job x' := rfl
@[simp] theorem State.modStage_isArmed (s : State) (fn slot : Nat) (g : Stage → Stage) (fn' k' : Nat) : (s.modStage fn slot g).isArmed fn' k' = s.isArmed fn' k' := rfl

/-! ### modStep -/

@[simp] theorem State.modStep_pkg (s : State) (fn : Nat) (g : StepSvc → StepSvc) : (s.modStep fn g).pkg = s.pkg := rfl
@[simp] theorem State.modStep_svn (s : State) (fn : Nat) (g : StepSvc → StepSvc) : (s.modStep fn g).svn = s.svn := rfl
@[simp] theorem State.modStep_regs (s : State) (fn : Nat) (g : StepSvc → StepSvc) : (s.modStep fn g).regs = s.regs := rfl
@[simp] theorem State.modStep_counts (s : State) (fn : Nat) (g : StepSvc → StepSvc) : (s.modStep fn g).counts = s.counts := rfl
@[simp] theorem State.modStep_lanes (s : State) (fn : Nat) (g : StepSvc → StepSvc) : (s.modStep fn g).lanes = s.lanes := rfl
@[simp] theorem State.modStep_xturn (s : State) (fn : Nat) (g : StepSvc → StepSvc) : (s.modStep fn g).xturn = s.xturn := rfl
@[simp] theorem State.modStep_armed (s : State) (fn : Nat) (g : StepSvc → StepSvc) : (s.modStep fn g).armed = s.armed := rfl
@[simp] theorem State.modStep_hbrArmed (s : State) (fn : Nat) (g : StepSvc → StepSvc) : (s.modStep fn g).hbrArmed = s.hbrArmed := rfl
@[simp] theorem State.modStep_egress (s : State) (fn : Nat) (g : StepSvc → StepSvc) : (s.modStep fn g).egress = s.egress := rfl
@[simp] theorem State.modStep_heads (s : State) (fn : Nat) (g : StepSvc → StepSvc) : (s.modStep fn g).heads = s.heads := rfl
@[simp] theorem State.modStep_ports (s : State) (fn : Nat) (g : StepSvc → StepSvc) : (s.modStep fn g).ports = s.ports := rfl
@[simp] theorem State.modStep_claimWait (s : State) (fn : Nat) (g : StepSvc → StepSvc) : (s.modStep fn g).claimWait = s.claimWait := rfl
@[simp] theorem State.modStep_reads (s : State) (fn : Nat) (g : StepSvc → StepSvc) : (s.modStep fn g).reads = s.reads := rfl
@[simp] theorem State.modStep_readsWaiting (s : State) (fn : Nat) (g : StepSvc → StepSvc) : (s.modStep fn g).readsWaiting = s.readsWaiting := rfl
@[simp] theorem State.modStep_readData (s : State) (fn : Nat) (g : StepSvc → StepSvc) : (s.modStep fn g).readData = s.readData := rfl
@[simp] theorem State.modStep_mem (s : State) (fn : Nat) (g : StepSvc → StepSvc) : (s.modStep fn g).mem = s.mem := rfl
@[simp] theorem State.modStep_bad (s : State) (fn : Nat) (g : StepSvc → StepSvc) : (s.modStep fn g).bad = s.bad := rfl
@[simp] theorem State.modStep_rowErrs (s : State) (fn : Nat) (g : StepSvc → StepSvc) : (s.modStep fn g).rowErrs = s.rowErrs := rfl
@[simp] theorem State.modStep_repairs (s : State) (fn : Nat) (g : StepSvc → StepSvc) : (s.modStep fn g).repairs = s.repairs := rfl
@[simp] theorem State.modStep_withdrawn (s : State) (fn : Nat) (g : StepSvc → StepSvc) : (s.modStep fn g).withdrawn = s.withdrawn := rfl
@[simp] theorem State.modStep_unrepairable (s : State) (fn : Nat) (g : StepSvc → StepSvc) : (s.modStep fn g).unrepairable = s.unrepairable := rfl
@[simp] theorem State.modStep_sweepBad (s : State) (fn : Nat) (g : StepSvc → StepSvc) : (s.modStep fn g).sweepBad = s.sweepBad := rfl
@[simp] theorem State.modStep_queues (s : State) (fn : Nat) (g : StepSvc → StepSvc) : (s.modStep fn g).queues = s.queues := rfl
@[simp] theorem State.modStep_islets (s : State) (fn : Nat) (g : StepSvc → StepSvc) : (s.modStep fn g).islets = s.islets := rfl
@[simp] theorem State.modStep_packets (s : State) (fn : Nat) (g : StepSvc → StepSvc) : (s.modStep fn g).packets = s.packets := rfl
@[simp] theorem State.modStep_launches (s : State) (fn : Nat) (g : StepSvc → StepSvc) : (s.modStep fn g).launches = s.launches := rfl
@[simp] theorem State.modStep_nextLaunch (s : State) (fn : Nat) (g : StepSvc → StepSvc) : (s.modStep fn g).nextLaunch = s.nextLaunch := rfl
@[simp] theorem State.modStep_pastLaunches (s : State) (fn : Nat) (g : StepSvc → StepSvc) : (s.modStep fn g).pastLaunches = s.pastLaunches := rfl
@[simp] theorem State.modStep_staging (s : State) (fn : Nat) (g : StepSvc → StepSvc) : (s.modStep fn g).staging = s.staging := rfl
@[simp] theorem State.modStep_stagingBusy (s : State) (fn : Nat) (g : StepSvc → StepSvc) : (s.modStep fn g).stagingBusy = s.stagingBusy := rfl
@[simp] theorem State.modStep_mlPorts (s : State) (fn : Nat) (g : StepSvc → StepSvc) : (s.modStep fn g).mlPorts = s.mlPorts := rfl
@[simp] theorem State.modStep_held (s : State) (fn : Nat) (g : StepSvc → StepSvc) : (s.modStep fn g).held = s.held := rfl
@[simp] theorem State.modStep_served (s : State) (fn : Nat) (g : StepSvc → StepSvc) : (s.modStep fn g).served = s.served := rfl
@[simp] theorem State.modStep_jobs (s : State) (fn : Nat) (g : StepSvc → StepSvc) : (s.modStep fn g).jobs = s.jobs := rfl
@[simp] theorem State.modStep_lead (s : State) (fn : Nat) (g : StepSvc → StepSvc) : (s.modStep fn g).lead = s.lead := rfl
@[simp] theorem State.modStep_actions (s : State) (fn : Nat) (g : StepSvc → StepSvc) : (s.modStep fn g).actions = s.actions := rfl
@[simp] theorem State.modStep_nextAction (s : State) (fn : Nat) (g : StepSvc → StepSvc) : (s.modStep fn g).nextAction = s.nextAction := rfl
@[simp] theorem State.modStep_snapSent (s : State) (fn : Nat) (g : StepSvc → StepSvc) : (s.modStep fn g).snapSent = s.snapSent := rfl
@[simp] theorem State.modStep_restarting (s : State) (fn : Nat) (g : StepSvc → StepSvc) : (s.modStep fn g).restarting = s.restarting := rfl
@[simp] theorem State.modStep_watchdogs (s : State) (fn : Nat) (g : StepSvc → StepSvc) : (s.modStep fn g).watchdogs = s.watchdogs := rfl
@[simp] theorem State.modStep_records (s : State) (fn : Nat) (g : StepSvc → StepSvc) : (s.modStep fn g).records = s.records := rfl
@[simp] theorem State.modStep_leases (s : State) (fn : Nat) (g : StepSvc → StepSvc) : (s.modStep fn g).leases = s.leases := rfl
@[simp] theorem State.modStep_reefs (s : State) (fn : Nat) (g : StepSvc → StepSvc) : (s.modStep fn g).reefs = s.reefs := rfl
@[simp] theorem State.modStep_jqueue (s : State) (fn : Nat) (g : StepSvc → StepSvc) : (s.modStep fn g).jqueue = s.jqueue := rfl
@[simp] theorem State.modStep_mctpOut (s : State) (fn : Nat) (g : StepSvc → StepSvc) : (s.modStep fn g).mctpOut = s.mctpOut := rfl
@[simp] theorem State.modStep_gov (s : State) (fn : Nat) (g : StepSvc → StepSvc) : (s.modStep fn g).gov = s.gov := rfl
@[simp] theorem State.modStep_pins (s : State) (fn : Nat) (g : StepSvc → StepSvc) : (s.modStep fn g).pins = s.pins := rfl
@[simp] theorem State.modStep_jtag (s : State) (fn : Nat) (g : StepSvc → StepSvc) : (s.modStep fn g).jtag = s.jtag := rfl
@[simp] theorem State.modStep_mctp (s : State) (fn : Nat) (g : StepSvc → StepSvc) : (s.modStep fn g).mctp = s.mctp := rfl
@[simp] theorem State.modStep_fw (s : State) (fn : Nat) (g : StepSvc → StepSvc) : (s.modStep fn g).fw = s.fw := rfl
@[simp] theorem State.modStep_jnl (s : State) (fn : Nat) (g : StepSvc → StepSvc) : (s.modStep fn g).jnl = s.jnl := rfl
@[simp] theorem State.modStep_drains (s : State) (fn : Nat) (g : StepSvc → StepSvc) : (s.modStep fn g).drains = s.drains := rfl
@[simp] theorem State.modStep_enablePend (s : State) (fn : Nat) (g : StepSvc → StepSvc) : (s.modStep fn g).enablePend = s.enablePend := rfl
@[simp] theorem State.modStep_rotations (s : State) (fn : Nat) (g : StepSvc → StepSvc) : (s.modStep fn g).rotations = s.rotations := rfl
@[simp] theorem State.modStep_drbgCount (s : State) (fn : Nat) (g : StepSvc → StepSvc) : (s.modStep fn g).drbgCount = s.drbgCount := rfl
@[simp] theorem State.modStep_freeCtr (s : State) (fn : Nat) (g : StepSvc → StepSvc) : (s.modStep fn g).freeCtr = s.freeCtr := rfl
@[simp] theorem State.modStep_ticks (s : State) (fn : Nat) (g : StepSvc → StepSvc) : (s.modStep fn g).ticks = s.ticks := rfl
@[simp] theorem State.modStep_pending (s : State) (fn : Nat) (g : StepSvc → StepSvc) : (s.modStep fn g).pending = s.pending := rfl
@[simp] theorem State.modStep_reg (s : State) (fn : Nat) (g : StepSvc → StepSvc) (r' : Reg) (a' b' : Nat) : (s.modStep fn g).reg r' a' b' = s.reg r' a' b' := rfl
@[simp] theorem State.modStep_fld (s : State) (fn : Nat) (g : StepSvc → StepSvc) (g' : Fld) (a' b' : Nat) : (s.modStep fn g).fld g' a' b' = s.fld g' a' b' := rfl
@[simp] theorem State.modStep_count (s : State) (fn : Nat) (g : StepSvc → StepSvc) (i' : Nat) : (s.modStep fn g).count i' = s.count i' := rfl
@[simp] theorem State.modStep_lane (s : State) (fn : Nat) (g : StepSvc → StepSvc) (n' : Nat) (ba' : Bool) (cls' : Nat) : (s.modStep fn g).lane n' ba' cls' = s.lane n' ba' cls' := rfl
@[simp] theorem State.modStep_queue (s : State) (fn : Nat) (g : StepSvc → StepSvc) (fn' q' : Nat) : (s.modStep fn g).queue fn' q' = s.queue fn' q' := rfl
@[simp] theorem State.modStep_islet (s : State) (fn : Nat) (g : StepSvc → StepSvc) (i' : Nat) : (s.modStep fn g).islet i' = s.islet i' := rfl
@[simp] theorem State.modStep_link (s : State) (fn : Nat) (g : StepSvc → StepSvc) (p' : Nat) : (s.modStep fn g).link p' = s.link p' := rfl
@[simp] theorem State.modStep_mlPort (s : State) (fn : Nat) (g : StepSvc → StepSvc) (p' : Nat) : (s.modStep fn g).mlPort p' = s.mlPort p' := rfl
@[simp] theorem State.modStep_job (s : State) (fn : Nat) (g : StepSvc → StepSvc) (x' : Nat) : (s.modStep fn g).job x' = s.job x' := rfl
@[simp] theorem State.modStep_isArmed (s : State) (fn : Nat) (g : StepSvc → StepSvc) (fn' k' : Nat) : (s.modStep fn g).isArmed fn' k' = s.isArmed fn' k' := rfl

/-! ### modOpt -/

@[simp] theorem State.modOpt_pkg (s : State) (fn : Nat) (g : Opt → Opt) : (s.modOpt fn g).pkg = s.pkg := rfl
@[simp] theorem State.modOpt_svn (s : State) (fn : Nat) (g : Opt → Opt) : (s.modOpt fn g).svn = s.svn := rfl
@[simp] theorem State.modOpt_regs (s : State) (fn : Nat) (g : Opt → Opt) : (s.modOpt fn g).regs = s.regs := rfl
@[simp] theorem State.modOpt_counts (s : State) (fn : Nat) (g : Opt → Opt) : (s.modOpt fn g).counts = s.counts := rfl
@[simp] theorem State.modOpt_lanes (s : State) (fn : Nat) (g : Opt → Opt) : (s.modOpt fn g).lanes = s.lanes := rfl
@[simp] theorem State.modOpt_xturn (s : State) (fn : Nat) (g : Opt → Opt) : (s.modOpt fn g).xturn = s.xturn := rfl
@[simp] theorem State.modOpt_armed (s : State) (fn : Nat) (g : Opt → Opt) : (s.modOpt fn g).armed = s.armed := rfl
@[simp] theorem State.modOpt_hbrArmed (s : State) (fn : Nat) (g : Opt → Opt) : (s.modOpt fn g).hbrArmed = s.hbrArmed := rfl
@[simp] theorem State.modOpt_egress (s : State) (fn : Nat) (g : Opt → Opt) : (s.modOpt fn g).egress = s.egress := rfl
@[simp] theorem State.modOpt_heads (s : State) (fn : Nat) (g : Opt → Opt) : (s.modOpt fn g).heads = s.heads := rfl
@[simp] theorem State.modOpt_ports (s : State) (fn : Nat) (g : Opt → Opt) : (s.modOpt fn g).ports = s.ports := rfl
@[simp] theorem State.modOpt_claimWait (s : State) (fn : Nat) (g : Opt → Opt) : (s.modOpt fn g).claimWait = s.claimWait := rfl
@[simp] theorem State.modOpt_reads (s : State) (fn : Nat) (g : Opt → Opt) : (s.modOpt fn g).reads = s.reads := rfl
@[simp] theorem State.modOpt_readsWaiting (s : State) (fn : Nat) (g : Opt → Opt) : (s.modOpt fn g).readsWaiting = s.readsWaiting := rfl
@[simp] theorem State.modOpt_readData (s : State) (fn : Nat) (g : Opt → Opt) : (s.modOpt fn g).readData = s.readData := rfl
@[simp] theorem State.modOpt_mem (s : State) (fn : Nat) (g : Opt → Opt) : (s.modOpt fn g).mem = s.mem := rfl
@[simp] theorem State.modOpt_bad (s : State) (fn : Nat) (g : Opt → Opt) : (s.modOpt fn g).bad = s.bad := rfl
@[simp] theorem State.modOpt_rowErrs (s : State) (fn : Nat) (g : Opt → Opt) : (s.modOpt fn g).rowErrs = s.rowErrs := rfl
@[simp] theorem State.modOpt_repairs (s : State) (fn : Nat) (g : Opt → Opt) : (s.modOpt fn g).repairs = s.repairs := rfl
@[simp] theorem State.modOpt_withdrawn (s : State) (fn : Nat) (g : Opt → Opt) : (s.modOpt fn g).withdrawn = s.withdrawn := rfl
@[simp] theorem State.modOpt_unrepairable (s : State) (fn : Nat) (g : Opt → Opt) : (s.modOpt fn g).unrepairable = s.unrepairable := rfl
@[simp] theorem State.modOpt_sweepBad (s : State) (fn : Nat) (g : Opt → Opt) : (s.modOpt fn g).sweepBad = s.sweepBad := rfl
@[simp] theorem State.modOpt_queues (s : State) (fn : Nat) (g : Opt → Opt) : (s.modOpt fn g).queues = s.queues := rfl
@[simp] theorem State.modOpt_islets (s : State) (fn : Nat) (g : Opt → Opt) : (s.modOpt fn g).islets = s.islets := rfl
@[simp] theorem State.modOpt_packets (s : State) (fn : Nat) (g : Opt → Opt) : (s.modOpt fn g).packets = s.packets := rfl
@[simp] theorem State.modOpt_launches (s : State) (fn : Nat) (g : Opt → Opt) : (s.modOpt fn g).launches = s.launches := rfl
@[simp] theorem State.modOpt_nextLaunch (s : State) (fn : Nat) (g : Opt → Opt) : (s.modOpt fn g).nextLaunch = s.nextLaunch := rfl
@[simp] theorem State.modOpt_pastLaunches (s : State) (fn : Nat) (g : Opt → Opt) : (s.modOpt fn g).pastLaunches = s.pastLaunches := rfl
@[simp] theorem State.modOpt_staging (s : State) (fn : Nat) (g : Opt → Opt) : (s.modOpt fn g).staging = s.staging := rfl
@[simp] theorem State.modOpt_stagingBusy (s : State) (fn : Nat) (g : Opt → Opt) : (s.modOpt fn g).stagingBusy = s.stagingBusy := rfl
@[simp] theorem State.modOpt_mlPorts (s : State) (fn : Nat) (g : Opt → Opt) : (s.modOpt fn g).mlPorts = s.mlPorts := rfl
@[simp] theorem State.modOpt_held (s : State) (fn : Nat) (g : Opt → Opt) : (s.modOpt fn g).held = s.held := rfl
@[simp] theorem State.modOpt_served (s : State) (fn : Nat) (g : Opt → Opt) : (s.modOpt fn g).served = s.served := rfl
@[simp] theorem State.modOpt_jobs (s : State) (fn : Nat) (g : Opt → Opt) : (s.modOpt fn g).jobs = s.jobs := rfl
@[simp] theorem State.modOpt_lead (s : State) (fn : Nat) (g : Opt → Opt) : (s.modOpt fn g).lead = s.lead := rfl
@[simp] theorem State.modOpt_actions (s : State) (fn : Nat) (g : Opt → Opt) : (s.modOpt fn g).actions = s.actions := rfl
@[simp] theorem State.modOpt_nextAction (s : State) (fn : Nat) (g : Opt → Opt) : (s.modOpt fn g).nextAction = s.nextAction := rfl
@[simp] theorem State.modOpt_snapSent (s : State) (fn : Nat) (g : Opt → Opt) : (s.modOpt fn g).snapSent = s.snapSent := rfl
@[simp] theorem State.modOpt_restarting (s : State) (fn : Nat) (g : Opt → Opt) : (s.modOpt fn g).restarting = s.restarting := rfl
@[simp] theorem State.modOpt_watchdogs (s : State) (fn : Nat) (g : Opt → Opt) : (s.modOpt fn g).watchdogs = s.watchdogs := rfl
@[simp] theorem State.modOpt_records (s : State) (fn : Nat) (g : Opt → Opt) : (s.modOpt fn g).records = s.records := rfl
@[simp] theorem State.modOpt_leases (s : State) (fn : Nat) (g : Opt → Opt) : (s.modOpt fn g).leases = s.leases := rfl
@[simp] theorem State.modOpt_reefs (s : State) (fn : Nat) (g : Opt → Opt) : (s.modOpt fn g).reefs = s.reefs := rfl
@[simp] theorem State.modOpt_jqueue (s : State) (fn : Nat) (g : Opt → Opt) : (s.modOpt fn g).jqueue = s.jqueue := rfl
@[simp] theorem State.modOpt_mctpOut (s : State) (fn : Nat) (g : Opt → Opt) : (s.modOpt fn g).mctpOut = s.mctpOut := rfl
@[simp] theorem State.modOpt_gov (s : State) (fn : Nat) (g : Opt → Opt) : (s.modOpt fn g).gov = s.gov := rfl
@[simp] theorem State.modOpt_pins (s : State) (fn : Nat) (g : Opt → Opt) : (s.modOpt fn g).pins = s.pins := rfl
@[simp] theorem State.modOpt_jtag (s : State) (fn : Nat) (g : Opt → Opt) : (s.modOpt fn g).jtag = s.jtag := rfl
@[simp] theorem State.modOpt_mctp (s : State) (fn : Nat) (g : Opt → Opt) : (s.modOpt fn g).mctp = s.mctp := rfl
@[simp] theorem State.modOpt_fw (s : State) (fn : Nat) (g : Opt → Opt) : (s.modOpt fn g).fw = s.fw := rfl
@[simp] theorem State.modOpt_jnl (s : State) (fn : Nat) (g : Opt → Opt) : (s.modOpt fn g).jnl = s.jnl := rfl
@[simp] theorem State.modOpt_drains (s : State) (fn : Nat) (g : Opt → Opt) : (s.modOpt fn g).drains = s.drains := rfl
@[simp] theorem State.modOpt_enablePend (s : State) (fn : Nat) (g : Opt → Opt) : (s.modOpt fn g).enablePend = s.enablePend := rfl
@[simp] theorem State.modOpt_rotations (s : State) (fn : Nat) (g : Opt → Opt) : (s.modOpt fn g).rotations = s.rotations := rfl
@[simp] theorem State.modOpt_drbgCount (s : State) (fn : Nat) (g : Opt → Opt) : (s.modOpt fn g).drbgCount = s.drbgCount := rfl
@[simp] theorem State.modOpt_freeCtr (s : State) (fn : Nat) (g : Opt → Opt) : (s.modOpt fn g).freeCtr = s.freeCtr := rfl
@[simp] theorem State.modOpt_ticks (s : State) (fn : Nat) (g : Opt → Opt) : (s.modOpt fn g).ticks = s.ticks := rfl
@[simp] theorem State.modOpt_pending (s : State) (fn : Nat) (g : Opt → Opt) : (s.modOpt fn g).pending = s.pending := rfl
@[simp] theorem State.modOpt_reg (s : State) (fn : Nat) (g : Opt → Opt) (r' : Reg) (a' b' : Nat) : (s.modOpt fn g).reg r' a' b' = s.reg r' a' b' := rfl
@[simp] theorem State.modOpt_fld (s : State) (fn : Nat) (g : Opt → Opt) (g' : Fld) (a' b' : Nat) : (s.modOpt fn g).fld g' a' b' = s.fld g' a' b' := rfl
@[simp] theorem State.modOpt_count (s : State) (fn : Nat) (g : Opt → Opt) (i' : Nat) : (s.modOpt fn g).count i' = s.count i' := rfl
@[simp] theorem State.modOpt_lane (s : State) (fn : Nat) (g : Opt → Opt) (n' : Nat) (ba' : Bool) (cls' : Nat) : (s.modOpt fn g).lane n' ba' cls' = s.lane n' ba' cls' := rfl
@[simp] theorem State.modOpt_queue (s : State) (fn : Nat) (g : Opt → Opt) (fn' q' : Nat) : (s.modOpt fn g).queue fn' q' = s.queue fn' q' := rfl
@[simp] theorem State.modOpt_islet (s : State) (fn : Nat) (g : Opt → Opt) (i' : Nat) : (s.modOpt fn g).islet i' = s.islet i' := rfl
@[simp] theorem State.modOpt_link (s : State) (fn : Nat) (g : Opt → Opt) (p' : Nat) : (s.modOpt fn g).link p' = s.link p' := rfl
@[simp] theorem State.modOpt_mlPort (s : State) (fn : Nat) (g : Opt → Opt) (p' : Nat) : (s.modOpt fn g).mlPort p' = s.mlPort p' := rfl
@[simp] theorem State.modOpt_job (s : State) (fn : Nat) (g : Opt → Opt) (x' : Nat) : (s.modOpt fn g).job x' = s.job x' := rfl
@[simp] theorem State.modOpt_isArmed (s : State) (fn : Nat) (g : Opt → Opt) (fn' k' : Nat) : (s.modOpt fn g).isArmed fn' k' = s.isArmed fn' k' := rfl

/-! ### modGen -/

@[simp] theorem State.modGen_pkg (s : State) (fn : Nat) (g : GenSvc → GenSvc) : (s.modGen fn g).pkg = s.pkg := rfl
@[simp] theorem State.modGen_svn (s : State) (fn : Nat) (g : GenSvc → GenSvc) : (s.modGen fn g).svn = s.svn := rfl
@[simp] theorem State.modGen_regs (s : State) (fn : Nat) (g : GenSvc → GenSvc) : (s.modGen fn g).regs = s.regs := rfl
@[simp] theorem State.modGen_counts (s : State) (fn : Nat) (g : GenSvc → GenSvc) : (s.modGen fn g).counts = s.counts := rfl
@[simp] theorem State.modGen_lanes (s : State) (fn : Nat) (g : GenSvc → GenSvc) : (s.modGen fn g).lanes = s.lanes := rfl
@[simp] theorem State.modGen_xturn (s : State) (fn : Nat) (g : GenSvc → GenSvc) : (s.modGen fn g).xturn = s.xturn := rfl
@[simp] theorem State.modGen_armed (s : State) (fn : Nat) (g : GenSvc → GenSvc) : (s.modGen fn g).armed = s.armed := rfl
@[simp] theorem State.modGen_hbrArmed (s : State) (fn : Nat) (g : GenSvc → GenSvc) : (s.modGen fn g).hbrArmed = s.hbrArmed := rfl
@[simp] theorem State.modGen_egress (s : State) (fn : Nat) (g : GenSvc → GenSvc) : (s.modGen fn g).egress = s.egress := rfl
@[simp] theorem State.modGen_heads (s : State) (fn : Nat) (g : GenSvc → GenSvc) : (s.modGen fn g).heads = s.heads := rfl
@[simp] theorem State.modGen_ports (s : State) (fn : Nat) (g : GenSvc → GenSvc) : (s.modGen fn g).ports = s.ports := rfl
@[simp] theorem State.modGen_claimWait (s : State) (fn : Nat) (g : GenSvc → GenSvc) : (s.modGen fn g).claimWait = s.claimWait := rfl
@[simp] theorem State.modGen_reads (s : State) (fn : Nat) (g : GenSvc → GenSvc) : (s.modGen fn g).reads = s.reads := rfl
@[simp] theorem State.modGen_readsWaiting (s : State) (fn : Nat) (g : GenSvc → GenSvc) : (s.modGen fn g).readsWaiting = s.readsWaiting := rfl
@[simp] theorem State.modGen_readData (s : State) (fn : Nat) (g : GenSvc → GenSvc) : (s.modGen fn g).readData = s.readData := rfl
@[simp] theorem State.modGen_mem (s : State) (fn : Nat) (g : GenSvc → GenSvc) : (s.modGen fn g).mem = s.mem := rfl
@[simp] theorem State.modGen_bad (s : State) (fn : Nat) (g : GenSvc → GenSvc) : (s.modGen fn g).bad = s.bad := rfl
@[simp] theorem State.modGen_rowErrs (s : State) (fn : Nat) (g : GenSvc → GenSvc) : (s.modGen fn g).rowErrs = s.rowErrs := rfl
@[simp] theorem State.modGen_repairs (s : State) (fn : Nat) (g : GenSvc → GenSvc) : (s.modGen fn g).repairs = s.repairs := rfl
@[simp] theorem State.modGen_withdrawn (s : State) (fn : Nat) (g : GenSvc → GenSvc) : (s.modGen fn g).withdrawn = s.withdrawn := rfl
@[simp] theorem State.modGen_unrepairable (s : State) (fn : Nat) (g : GenSvc → GenSvc) : (s.modGen fn g).unrepairable = s.unrepairable := rfl
@[simp] theorem State.modGen_sweepBad (s : State) (fn : Nat) (g : GenSvc → GenSvc) : (s.modGen fn g).sweepBad = s.sweepBad := rfl
@[simp] theorem State.modGen_queues (s : State) (fn : Nat) (g : GenSvc → GenSvc) : (s.modGen fn g).queues = s.queues := rfl
@[simp] theorem State.modGen_islets (s : State) (fn : Nat) (g : GenSvc → GenSvc) : (s.modGen fn g).islets = s.islets := rfl
@[simp] theorem State.modGen_packets (s : State) (fn : Nat) (g : GenSvc → GenSvc) : (s.modGen fn g).packets = s.packets := rfl
@[simp] theorem State.modGen_launches (s : State) (fn : Nat) (g : GenSvc → GenSvc) : (s.modGen fn g).launches = s.launches := rfl
@[simp] theorem State.modGen_nextLaunch (s : State) (fn : Nat) (g : GenSvc → GenSvc) : (s.modGen fn g).nextLaunch = s.nextLaunch := rfl
@[simp] theorem State.modGen_pastLaunches (s : State) (fn : Nat) (g : GenSvc → GenSvc) : (s.modGen fn g).pastLaunches = s.pastLaunches := rfl
@[simp] theorem State.modGen_staging (s : State) (fn : Nat) (g : GenSvc → GenSvc) : (s.modGen fn g).staging = s.staging := rfl
@[simp] theorem State.modGen_stagingBusy (s : State) (fn : Nat) (g : GenSvc → GenSvc) : (s.modGen fn g).stagingBusy = s.stagingBusy := rfl
@[simp] theorem State.modGen_mlPorts (s : State) (fn : Nat) (g : GenSvc → GenSvc) : (s.modGen fn g).mlPorts = s.mlPorts := rfl
@[simp] theorem State.modGen_held (s : State) (fn : Nat) (g : GenSvc → GenSvc) : (s.modGen fn g).held = s.held := rfl
@[simp] theorem State.modGen_served (s : State) (fn : Nat) (g : GenSvc → GenSvc) : (s.modGen fn g).served = s.served := rfl
@[simp] theorem State.modGen_jobs (s : State) (fn : Nat) (g : GenSvc → GenSvc) : (s.modGen fn g).jobs = s.jobs := rfl
@[simp] theorem State.modGen_lead (s : State) (fn : Nat) (g : GenSvc → GenSvc) : (s.modGen fn g).lead = s.lead := rfl
@[simp] theorem State.modGen_actions (s : State) (fn : Nat) (g : GenSvc → GenSvc) : (s.modGen fn g).actions = s.actions := rfl
@[simp] theorem State.modGen_nextAction (s : State) (fn : Nat) (g : GenSvc → GenSvc) : (s.modGen fn g).nextAction = s.nextAction := rfl
@[simp] theorem State.modGen_snapSent (s : State) (fn : Nat) (g : GenSvc → GenSvc) : (s.modGen fn g).snapSent = s.snapSent := rfl
@[simp] theorem State.modGen_restarting (s : State) (fn : Nat) (g : GenSvc → GenSvc) : (s.modGen fn g).restarting = s.restarting := rfl
@[simp] theorem State.modGen_watchdogs (s : State) (fn : Nat) (g : GenSvc → GenSvc) : (s.modGen fn g).watchdogs = s.watchdogs := rfl
@[simp] theorem State.modGen_records (s : State) (fn : Nat) (g : GenSvc → GenSvc) : (s.modGen fn g).records = s.records := rfl
@[simp] theorem State.modGen_leases (s : State) (fn : Nat) (g : GenSvc → GenSvc) : (s.modGen fn g).leases = s.leases := rfl
@[simp] theorem State.modGen_reefs (s : State) (fn : Nat) (g : GenSvc → GenSvc) : (s.modGen fn g).reefs = s.reefs := rfl
@[simp] theorem State.modGen_jqueue (s : State) (fn : Nat) (g : GenSvc → GenSvc) : (s.modGen fn g).jqueue = s.jqueue := rfl
@[simp] theorem State.modGen_mctpOut (s : State) (fn : Nat) (g : GenSvc → GenSvc) : (s.modGen fn g).mctpOut = s.mctpOut := rfl
@[simp] theorem State.modGen_gov (s : State) (fn : Nat) (g : GenSvc → GenSvc) : (s.modGen fn g).gov = s.gov := rfl
@[simp] theorem State.modGen_pins (s : State) (fn : Nat) (g : GenSvc → GenSvc) : (s.modGen fn g).pins = s.pins := rfl
@[simp] theorem State.modGen_jtag (s : State) (fn : Nat) (g : GenSvc → GenSvc) : (s.modGen fn g).jtag = s.jtag := rfl
@[simp] theorem State.modGen_mctp (s : State) (fn : Nat) (g : GenSvc → GenSvc) : (s.modGen fn g).mctp = s.mctp := rfl
@[simp] theorem State.modGen_fw (s : State) (fn : Nat) (g : GenSvc → GenSvc) : (s.modGen fn g).fw = s.fw := rfl
@[simp] theorem State.modGen_jnl (s : State) (fn : Nat) (g : GenSvc → GenSvc) : (s.modGen fn g).jnl = s.jnl := rfl
@[simp] theorem State.modGen_drains (s : State) (fn : Nat) (g : GenSvc → GenSvc) : (s.modGen fn g).drains = s.drains := rfl
@[simp] theorem State.modGen_enablePend (s : State) (fn : Nat) (g : GenSvc → GenSvc) : (s.modGen fn g).enablePend = s.enablePend := rfl
@[simp] theorem State.modGen_rotations (s : State) (fn : Nat) (g : GenSvc → GenSvc) : (s.modGen fn g).rotations = s.rotations := rfl
@[simp] theorem State.modGen_drbgCount (s : State) (fn : Nat) (g : GenSvc → GenSvc) : (s.modGen fn g).drbgCount = s.drbgCount := rfl
@[simp] theorem State.modGen_freeCtr (s : State) (fn : Nat) (g : GenSvc → GenSvc) : (s.modGen fn g).freeCtr = s.freeCtr := rfl
@[simp] theorem State.modGen_ticks (s : State) (fn : Nat) (g : GenSvc → GenSvc) : (s.modGen fn g).ticks = s.ticks := rfl
@[simp] theorem State.modGen_pending (s : State) (fn : Nat) (g : GenSvc → GenSvc) : (s.modGen fn g).pending = s.pending := rfl
@[simp] theorem State.modGen_reg (s : State) (fn : Nat) (g : GenSvc → GenSvc) (r' : Reg) (a' b' : Nat) : (s.modGen fn g).reg r' a' b' = s.reg r' a' b' := rfl
@[simp] theorem State.modGen_fld (s : State) (fn : Nat) (g : GenSvc → GenSvc) (g' : Fld) (a' b' : Nat) : (s.modGen fn g).fld g' a' b' = s.fld g' a' b' := rfl
@[simp] theorem State.modGen_count (s : State) (fn : Nat) (g : GenSvc → GenSvc) (i' : Nat) : (s.modGen fn g).count i' = s.count i' := rfl
@[simp] theorem State.modGen_lane (s : State) (fn : Nat) (g : GenSvc → GenSvc) (n' : Nat) (ba' : Bool) (cls' : Nat) : (s.modGen fn g).lane n' ba' cls' = s.lane n' ba' cls' := rfl
@[simp] theorem State.modGen_queue (s : State) (fn : Nat) (g : GenSvc → GenSvc) (fn' q' : Nat) : (s.modGen fn g).queue fn' q' = s.queue fn' q' := rfl
@[simp] theorem State.modGen_islet (s : State) (fn : Nat) (g : GenSvc → GenSvc) (i' : Nat) : (s.modGen fn g).islet i' = s.islet i' := rfl
@[simp] theorem State.modGen_link (s : State) (fn : Nat) (g : GenSvc → GenSvc) (p' : Nat) : (s.modGen fn g).link p' = s.link p' := rfl
@[simp] theorem State.modGen_mlPort (s : State) (fn : Nat) (g : GenSvc → GenSvc) (p' : Nat) : (s.modGen fn g).mlPort p' = s.mlPort p' := rfl
@[simp] theorem State.modGen_job (s : State) (fn : Nat) (g : GenSvc → GenSvc) (x' : Nat) : (s.modGen fn g).job x' = s.job x' := rfl
@[simp] theorem State.modGen_isArmed (s : State) (fn : Nat) (g : GenSvc → GenSvc) (fn' k' : Nat) : (s.modGen fn g).isArmed fn' k' = s.isArmed fn' k' := rfl

/-! ### modGov -/

@[simp] theorem State.modGov_pkg (s : State) (f : Gov → Gov) : (s.modGov f).pkg = s.pkg := rfl
@[simp] theorem State.modGov_svn (s : State) (f : Gov → Gov) : (s.modGov f).svn = s.svn := rfl
@[simp] theorem State.modGov_regs (s : State) (f : Gov → Gov) : (s.modGov f).regs = s.regs := rfl
@[simp] theorem State.modGov_counts (s : State) (f : Gov → Gov) : (s.modGov f).counts = s.counts := rfl
@[simp] theorem State.modGov_lanes (s : State) (f : Gov → Gov) : (s.modGov f).lanes = s.lanes := rfl
@[simp] theorem State.modGov_xturn (s : State) (f : Gov → Gov) : (s.modGov f).xturn = s.xturn := rfl
@[simp] theorem State.modGov_armed (s : State) (f : Gov → Gov) : (s.modGov f).armed = s.armed := rfl
@[simp] theorem State.modGov_hbrArmed (s : State) (f : Gov → Gov) : (s.modGov f).hbrArmed = s.hbrArmed := rfl
@[simp] theorem State.modGov_egress (s : State) (f : Gov → Gov) : (s.modGov f).egress = s.egress := rfl
@[simp] theorem State.modGov_heads (s : State) (f : Gov → Gov) : (s.modGov f).heads = s.heads := rfl
@[simp] theorem State.modGov_ports (s : State) (f : Gov → Gov) : (s.modGov f).ports = s.ports := rfl
@[simp] theorem State.modGov_claimWait (s : State) (f : Gov → Gov) : (s.modGov f).claimWait = s.claimWait := rfl
@[simp] theorem State.modGov_reads (s : State) (f : Gov → Gov) : (s.modGov f).reads = s.reads := rfl
@[simp] theorem State.modGov_readsWaiting (s : State) (f : Gov → Gov) : (s.modGov f).readsWaiting = s.readsWaiting := rfl
@[simp] theorem State.modGov_readData (s : State) (f : Gov → Gov) : (s.modGov f).readData = s.readData := rfl
@[simp] theorem State.modGov_mem (s : State) (f : Gov → Gov) : (s.modGov f).mem = s.mem := rfl
@[simp] theorem State.modGov_bad (s : State) (f : Gov → Gov) : (s.modGov f).bad = s.bad := rfl
@[simp] theorem State.modGov_rowErrs (s : State) (f : Gov → Gov) : (s.modGov f).rowErrs = s.rowErrs := rfl
@[simp] theorem State.modGov_repairs (s : State) (f : Gov → Gov) : (s.modGov f).repairs = s.repairs := rfl
@[simp] theorem State.modGov_withdrawn (s : State) (f : Gov → Gov) : (s.modGov f).withdrawn = s.withdrawn := rfl
@[simp] theorem State.modGov_unrepairable (s : State) (f : Gov → Gov) : (s.modGov f).unrepairable = s.unrepairable := rfl
@[simp] theorem State.modGov_sweepBad (s : State) (f : Gov → Gov) : (s.modGov f).sweepBad = s.sweepBad := rfl
@[simp] theorem State.modGov_fns (s : State) (f : Gov → Gov) : (s.modGov f).fns = s.fns := rfl
@[simp] theorem State.modGov_queues (s : State) (f : Gov → Gov) : (s.modGov f).queues = s.queues := rfl
@[simp] theorem State.modGov_islets (s : State) (f : Gov → Gov) : (s.modGov f).islets = s.islets := rfl
@[simp] theorem State.modGov_packets (s : State) (f : Gov → Gov) : (s.modGov f).packets = s.packets := rfl
@[simp] theorem State.modGov_launches (s : State) (f : Gov → Gov) : (s.modGov f).launches = s.launches := rfl
@[simp] theorem State.modGov_nextLaunch (s : State) (f : Gov → Gov) : (s.modGov f).nextLaunch = s.nextLaunch := rfl
@[simp] theorem State.modGov_pastLaunches (s : State) (f : Gov → Gov) : (s.modGov f).pastLaunches = s.pastLaunches := rfl
@[simp] theorem State.modGov_staging (s : State) (f : Gov → Gov) : (s.modGov f).staging = s.staging := rfl
@[simp] theorem State.modGov_stagingBusy (s : State) (f : Gov → Gov) : (s.modGov f).stagingBusy = s.stagingBusy := rfl
@[simp] theorem State.modGov_mlPorts (s : State) (f : Gov → Gov) : (s.modGov f).mlPorts = s.mlPorts := rfl
@[simp] theorem State.modGov_held (s : State) (f : Gov → Gov) : (s.modGov f).held = s.held := rfl
@[simp] theorem State.modGov_served (s : State) (f : Gov → Gov) : (s.modGov f).served = s.served := rfl
@[simp] theorem State.modGov_jobs (s : State) (f : Gov → Gov) : (s.modGov f).jobs = s.jobs := rfl
@[simp] theorem State.modGov_lead (s : State) (f : Gov → Gov) : (s.modGov f).lead = s.lead := rfl
@[simp] theorem State.modGov_actions (s : State) (f : Gov → Gov) : (s.modGov f).actions = s.actions := rfl
@[simp] theorem State.modGov_nextAction (s : State) (f : Gov → Gov) : (s.modGov f).nextAction = s.nextAction := rfl
@[simp] theorem State.modGov_snapSent (s : State) (f : Gov → Gov) : (s.modGov f).snapSent = s.snapSent := rfl
@[simp] theorem State.modGov_restarting (s : State) (f : Gov → Gov) : (s.modGov f).restarting = s.restarting := rfl
@[simp] theorem State.modGov_watchdogs (s : State) (f : Gov → Gov) : (s.modGov f).watchdogs = s.watchdogs := rfl
@[simp] theorem State.modGov_records (s : State) (f : Gov → Gov) : (s.modGov f).records = s.records := rfl
@[simp] theorem State.modGov_leases (s : State) (f : Gov → Gov) : (s.modGov f).leases = s.leases := rfl
@[simp] theorem State.modGov_reefs (s : State) (f : Gov → Gov) : (s.modGov f).reefs = s.reefs := rfl
@[simp] theorem State.modGov_jqueue (s : State) (f : Gov → Gov) : (s.modGov f).jqueue = s.jqueue := rfl
@[simp] theorem State.modGov_mctpOut (s : State) (f : Gov → Gov) : (s.modGov f).mctpOut = s.mctpOut := rfl
@[simp] theorem State.modGov_pins (s : State) (f : Gov → Gov) : (s.modGov f).pins = s.pins := rfl
@[simp] theorem State.modGov_jtag (s : State) (f : Gov → Gov) : (s.modGov f).jtag = s.jtag := rfl
@[simp] theorem State.modGov_mctp (s : State) (f : Gov → Gov) : (s.modGov f).mctp = s.mctp := rfl
@[simp] theorem State.modGov_fw (s : State) (f : Gov → Gov) : (s.modGov f).fw = s.fw := rfl
@[simp] theorem State.modGov_jnl (s : State) (f : Gov → Gov) : (s.modGov f).jnl = s.jnl := rfl
@[simp] theorem State.modGov_drains (s : State) (f : Gov → Gov) : (s.modGov f).drains = s.drains := rfl
@[simp] theorem State.modGov_enablePend (s : State) (f : Gov → Gov) : (s.modGov f).enablePend = s.enablePend := rfl
@[simp] theorem State.modGov_rotations (s : State) (f : Gov → Gov) : (s.modGov f).rotations = s.rotations := rfl
@[simp] theorem State.modGov_drbgCount (s : State) (f : Gov → Gov) : (s.modGov f).drbgCount = s.drbgCount := rfl
@[simp] theorem State.modGov_freeCtr (s : State) (f : Gov → Gov) : (s.modGov f).freeCtr = s.freeCtr := rfl
@[simp] theorem State.modGov_ticks (s : State) (f : Gov → Gov) : (s.modGov f).ticks = s.ticks := rfl
@[simp] theorem State.modGov_pending (s : State) (f : Gov → Gov) : (s.modGov f).pending = s.pending := rfl
@[simp] theorem State.modGov_reg (s : State) (f : Gov → Gov) (r' : Reg) (a' b' : Nat) : (s.modGov f).reg r' a' b' = s.reg r' a' b' := rfl
@[simp] theorem State.modGov_fld (s : State) (f : Gov → Gov) (g' : Fld) (a' b' : Nat) : (s.modGov f).fld g' a' b' = s.fld g' a' b' := rfl
@[simp] theorem State.modGov_count (s : State) (f : Gov → Gov) (i' : Nat) : (s.modGov f).count i' = s.count i' := rfl
@[simp] theorem State.modGov_lane (s : State) (f : Gov → Gov) (n' : Nat) (ba' : Bool) (cls' : Nat) : (s.modGov f).lane n' ba' cls' = s.lane n' ba' cls' := rfl
@[simp] theorem State.modGov_fnState (s : State) (f : Gov → Gov) (fn' : Nat) : (s.modGov f).fnState fn' = s.fnState fn' := rfl
@[simp] theorem State.modGov_queue (s : State) (f : Gov → Gov) (fn' q' : Nat) : (s.modGov f).queue fn' q' = s.queue fn' q' := rfl
@[simp] theorem State.modGov_islet (s : State) (f : Gov → Gov) (i' : Nat) : (s.modGov f).islet i' = s.islet i' := rfl
@[simp] theorem State.modGov_link (s : State) (f : Gov → Gov) (p' : Nat) : (s.modGov f).link p' = s.link p' := rfl
@[simp] theorem State.modGov_mlPort (s : State) (f : Gov → Gov) (p' : Nat) : (s.modGov f).mlPort p' = s.mlPort p' := rfl
@[simp] theorem State.modGov_job (s : State) (f : Gov → Gov) (x' : Nat) : (s.modGov f).job x' = s.job x' := rfl
@[simp] theorem State.modGov_isArmed (s : State) (f : Gov → Gov) (fn' k' : Nat) : (s.modGov f).isArmed fn' k' = s.isArmed fn' k' := rfl

/-! ### modLead -/

@[simp] theorem State.modLead_pkg (s : State) (f : Lead → Lead) : (s.modLead f).pkg = s.pkg := rfl
@[simp] theorem State.modLead_svn (s : State) (f : Lead → Lead) : (s.modLead f).svn = s.svn := rfl
@[simp] theorem State.modLead_regs (s : State) (f : Lead → Lead) : (s.modLead f).regs = s.regs := rfl
@[simp] theorem State.modLead_counts (s : State) (f : Lead → Lead) : (s.modLead f).counts = s.counts := rfl
@[simp] theorem State.modLead_lanes (s : State) (f : Lead → Lead) : (s.modLead f).lanes = s.lanes := rfl
@[simp] theorem State.modLead_xturn (s : State) (f : Lead → Lead) : (s.modLead f).xturn = s.xturn := rfl
@[simp] theorem State.modLead_armed (s : State) (f : Lead → Lead) : (s.modLead f).armed = s.armed := rfl
@[simp] theorem State.modLead_hbrArmed (s : State) (f : Lead → Lead) : (s.modLead f).hbrArmed = s.hbrArmed := rfl
@[simp] theorem State.modLead_egress (s : State) (f : Lead → Lead) : (s.modLead f).egress = s.egress := rfl
@[simp] theorem State.modLead_heads (s : State) (f : Lead → Lead) : (s.modLead f).heads = s.heads := rfl
@[simp] theorem State.modLead_ports (s : State) (f : Lead → Lead) : (s.modLead f).ports = s.ports := rfl
@[simp] theorem State.modLead_claimWait (s : State) (f : Lead → Lead) : (s.modLead f).claimWait = s.claimWait := rfl
@[simp] theorem State.modLead_reads (s : State) (f : Lead → Lead) : (s.modLead f).reads = s.reads := rfl
@[simp] theorem State.modLead_readsWaiting (s : State) (f : Lead → Lead) : (s.modLead f).readsWaiting = s.readsWaiting := rfl
@[simp] theorem State.modLead_readData (s : State) (f : Lead → Lead) : (s.modLead f).readData = s.readData := rfl
@[simp] theorem State.modLead_mem (s : State) (f : Lead → Lead) : (s.modLead f).mem = s.mem := rfl
@[simp] theorem State.modLead_bad (s : State) (f : Lead → Lead) : (s.modLead f).bad = s.bad := rfl
@[simp] theorem State.modLead_rowErrs (s : State) (f : Lead → Lead) : (s.modLead f).rowErrs = s.rowErrs := rfl
@[simp] theorem State.modLead_repairs (s : State) (f : Lead → Lead) : (s.modLead f).repairs = s.repairs := rfl
@[simp] theorem State.modLead_withdrawn (s : State) (f : Lead → Lead) : (s.modLead f).withdrawn = s.withdrawn := rfl
@[simp] theorem State.modLead_unrepairable (s : State) (f : Lead → Lead) : (s.modLead f).unrepairable = s.unrepairable := rfl
@[simp] theorem State.modLead_sweepBad (s : State) (f : Lead → Lead) : (s.modLead f).sweepBad = s.sweepBad := rfl
@[simp] theorem State.modLead_fns (s : State) (f : Lead → Lead) : (s.modLead f).fns = s.fns := rfl
@[simp] theorem State.modLead_queues (s : State) (f : Lead → Lead) : (s.modLead f).queues = s.queues := rfl
@[simp] theorem State.modLead_islets (s : State) (f : Lead → Lead) : (s.modLead f).islets = s.islets := rfl
@[simp] theorem State.modLead_packets (s : State) (f : Lead → Lead) : (s.modLead f).packets = s.packets := rfl
@[simp] theorem State.modLead_launches (s : State) (f : Lead → Lead) : (s.modLead f).launches = s.launches := rfl
@[simp] theorem State.modLead_nextLaunch (s : State) (f : Lead → Lead) : (s.modLead f).nextLaunch = s.nextLaunch := rfl
@[simp] theorem State.modLead_pastLaunches (s : State) (f : Lead → Lead) : (s.modLead f).pastLaunches = s.pastLaunches := rfl
@[simp] theorem State.modLead_staging (s : State) (f : Lead → Lead) : (s.modLead f).staging = s.staging := rfl
@[simp] theorem State.modLead_stagingBusy (s : State) (f : Lead → Lead) : (s.modLead f).stagingBusy = s.stagingBusy := rfl
@[simp] theorem State.modLead_mlPorts (s : State) (f : Lead → Lead) : (s.modLead f).mlPorts = s.mlPorts := rfl
@[simp] theorem State.modLead_held (s : State) (f : Lead → Lead) : (s.modLead f).held = s.held := rfl
@[simp] theorem State.modLead_served (s : State) (f : Lead → Lead) : (s.modLead f).served = s.served := rfl
@[simp] theorem State.modLead_jobs (s : State) (f : Lead → Lead) : (s.modLead f).jobs = s.jobs := rfl
@[simp] theorem State.modLead_actions (s : State) (f : Lead → Lead) : (s.modLead f).actions = s.actions := rfl
@[simp] theorem State.modLead_nextAction (s : State) (f : Lead → Lead) : (s.modLead f).nextAction = s.nextAction := rfl
@[simp] theorem State.modLead_snapSent (s : State) (f : Lead → Lead) : (s.modLead f).snapSent = s.snapSent := rfl
@[simp] theorem State.modLead_restarting (s : State) (f : Lead → Lead) : (s.modLead f).restarting = s.restarting := rfl
@[simp] theorem State.modLead_watchdogs (s : State) (f : Lead → Lead) : (s.modLead f).watchdogs = s.watchdogs := rfl
@[simp] theorem State.modLead_records (s : State) (f : Lead → Lead) : (s.modLead f).records = s.records := rfl
@[simp] theorem State.modLead_leases (s : State) (f : Lead → Lead) : (s.modLead f).leases = s.leases := rfl
@[simp] theorem State.modLead_reefs (s : State) (f : Lead → Lead) : (s.modLead f).reefs = s.reefs := rfl
@[simp] theorem State.modLead_jqueue (s : State) (f : Lead → Lead) : (s.modLead f).jqueue = s.jqueue := rfl
@[simp] theorem State.modLead_mctpOut (s : State) (f : Lead → Lead) : (s.modLead f).mctpOut = s.mctpOut := rfl
@[simp] theorem State.modLead_gov (s : State) (f : Lead → Lead) : (s.modLead f).gov = s.gov := rfl
@[simp] theorem State.modLead_pins (s : State) (f : Lead → Lead) : (s.modLead f).pins = s.pins := rfl
@[simp] theorem State.modLead_jtag (s : State) (f : Lead → Lead) : (s.modLead f).jtag = s.jtag := rfl
@[simp] theorem State.modLead_mctp (s : State) (f : Lead → Lead) : (s.modLead f).mctp = s.mctp := rfl
@[simp] theorem State.modLead_fw (s : State) (f : Lead → Lead) : (s.modLead f).fw = s.fw := rfl
@[simp] theorem State.modLead_jnl (s : State) (f : Lead → Lead) : (s.modLead f).jnl = s.jnl := rfl
@[simp] theorem State.modLead_drains (s : State) (f : Lead → Lead) : (s.modLead f).drains = s.drains := rfl
@[simp] theorem State.modLead_enablePend (s : State) (f : Lead → Lead) : (s.modLead f).enablePend = s.enablePend := rfl
@[simp] theorem State.modLead_rotations (s : State) (f : Lead → Lead) : (s.modLead f).rotations = s.rotations := rfl
@[simp] theorem State.modLead_drbgCount (s : State) (f : Lead → Lead) : (s.modLead f).drbgCount = s.drbgCount := rfl
@[simp] theorem State.modLead_freeCtr (s : State) (f : Lead → Lead) : (s.modLead f).freeCtr = s.freeCtr := rfl
@[simp] theorem State.modLead_ticks (s : State) (f : Lead → Lead) : (s.modLead f).ticks = s.ticks := rfl
@[simp] theorem State.modLead_pending (s : State) (f : Lead → Lead) : (s.modLead f).pending = s.pending := rfl
@[simp] theorem State.modLead_reg (s : State) (f : Lead → Lead) (r' : Reg) (a' b' : Nat) : (s.modLead f).reg r' a' b' = s.reg r' a' b' := rfl
@[simp] theorem State.modLead_fld (s : State) (f : Lead → Lead) (g' : Fld) (a' b' : Nat) : (s.modLead f).fld g' a' b' = s.fld g' a' b' := rfl
@[simp] theorem State.modLead_count (s : State) (f : Lead → Lead) (i' : Nat) : (s.modLead f).count i' = s.count i' := rfl
@[simp] theorem State.modLead_lane (s : State) (f : Lead → Lead) (n' : Nat) (ba' : Bool) (cls' : Nat) : (s.modLead f).lane n' ba' cls' = s.lane n' ba' cls' := rfl
@[simp] theorem State.modLead_fnState (s : State) (f : Lead → Lead) (fn' : Nat) : (s.modLead f).fnState fn' = s.fnState fn' := rfl
@[simp] theorem State.modLead_queue (s : State) (f : Lead → Lead) (fn' q' : Nat) : (s.modLead f).queue fn' q' = s.queue fn' q' := rfl
@[simp] theorem State.modLead_islet (s : State) (f : Lead → Lead) (i' : Nat) : (s.modLead f).islet i' = s.islet i' := rfl
@[simp] theorem State.modLead_link (s : State) (f : Lead → Lead) (p' : Nat) : (s.modLead f).link p' = s.link p' := rfl
@[simp] theorem State.modLead_mlPort (s : State) (f : Lead → Lead) (p' : Nat) : (s.modLead f).mlPort p' = s.mlPort p' := rfl
@[simp] theorem State.modLead_job (s : State) (f : Lead → Lead) (x' : Nat) : (s.modLead f).job x' = s.job x' := rfl
@[simp] theorem State.modLead_isArmed (s : State) (f : Lead → Lead) (fn' k' : Nat) : (s.modLead f).isArmed fn' k' = s.isArmed fn' k' := rfl

/-! ### modJnl -/

@[simp] theorem State.modJnl_pkg (s : State) (f : Journal → Journal) : (s.modJnl f).pkg = s.pkg := rfl
@[simp] theorem State.modJnl_svn (s : State) (f : Journal → Journal) : (s.modJnl f).svn = s.svn := rfl
@[simp] theorem State.modJnl_regs (s : State) (f : Journal → Journal) : (s.modJnl f).regs = s.regs := rfl
@[simp] theorem State.modJnl_counts (s : State) (f : Journal → Journal) : (s.modJnl f).counts = s.counts := rfl
@[simp] theorem State.modJnl_lanes (s : State) (f : Journal → Journal) : (s.modJnl f).lanes = s.lanes := rfl
@[simp] theorem State.modJnl_xturn (s : State) (f : Journal → Journal) : (s.modJnl f).xturn = s.xturn := rfl
@[simp] theorem State.modJnl_armed (s : State) (f : Journal → Journal) : (s.modJnl f).armed = s.armed := rfl
@[simp] theorem State.modJnl_hbrArmed (s : State) (f : Journal → Journal) : (s.modJnl f).hbrArmed = s.hbrArmed := rfl
@[simp] theorem State.modJnl_egress (s : State) (f : Journal → Journal) : (s.modJnl f).egress = s.egress := rfl
@[simp] theorem State.modJnl_heads (s : State) (f : Journal → Journal) : (s.modJnl f).heads = s.heads := rfl
@[simp] theorem State.modJnl_ports (s : State) (f : Journal → Journal) : (s.modJnl f).ports = s.ports := rfl
@[simp] theorem State.modJnl_claimWait (s : State) (f : Journal → Journal) : (s.modJnl f).claimWait = s.claimWait := rfl
@[simp] theorem State.modJnl_reads (s : State) (f : Journal → Journal) : (s.modJnl f).reads = s.reads := rfl
@[simp] theorem State.modJnl_readsWaiting (s : State) (f : Journal → Journal) : (s.modJnl f).readsWaiting = s.readsWaiting := rfl
@[simp] theorem State.modJnl_readData (s : State) (f : Journal → Journal) : (s.modJnl f).readData = s.readData := rfl
@[simp] theorem State.modJnl_mem (s : State) (f : Journal → Journal) : (s.modJnl f).mem = s.mem := rfl
@[simp] theorem State.modJnl_bad (s : State) (f : Journal → Journal) : (s.modJnl f).bad = s.bad := rfl
@[simp] theorem State.modJnl_rowErrs (s : State) (f : Journal → Journal) : (s.modJnl f).rowErrs = s.rowErrs := rfl
@[simp] theorem State.modJnl_repairs (s : State) (f : Journal → Journal) : (s.modJnl f).repairs = s.repairs := rfl
@[simp] theorem State.modJnl_withdrawn (s : State) (f : Journal → Journal) : (s.modJnl f).withdrawn = s.withdrawn := rfl
@[simp] theorem State.modJnl_unrepairable (s : State) (f : Journal → Journal) : (s.modJnl f).unrepairable = s.unrepairable := rfl
@[simp] theorem State.modJnl_sweepBad (s : State) (f : Journal → Journal) : (s.modJnl f).sweepBad = s.sweepBad := rfl
@[simp] theorem State.modJnl_fns (s : State) (f : Journal → Journal) : (s.modJnl f).fns = s.fns := rfl
@[simp] theorem State.modJnl_queues (s : State) (f : Journal → Journal) : (s.modJnl f).queues = s.queues := rfl
@[simp] theorem State.modJnl_islets (s : State) (f : Journal → Journal) : (s.modJnl f).islets = s.islets := rfl
@[simp] theorem State.modJnl_packets (s : State) (f : Journal → Journal) : (s.modJnl f).packets = s.packets := rfl
@[simp] theorem State.modJnl_launches (s : State) (f : Journal → Journal) : (s.modJnl f).launches = s.launches := rfl
@[simp] theorem State.modJnl_nextLaunch (s : State) (f : Journal → Journal) : (s.modJnl f).nextLaunch = s.nextLaunch := rfl
@[simp] theorem State.modJnl_pastLaunches (s : State) (f : Journal → Journal) : (s.modJnl f).pastLaunches = s.pastLaunches := rfl
@[simp] theorem State.modJnl_staging (s : State) (f : Journal → Journal) : (s.modJnl f).staging = s.staging := rfl
@[simp] theorem State.modJnl_stagingBusy (s : State) (f : Journal → Journal) : (s.modJnl f).stagingBusy = s.stagingBusy := rfl
@[simp] theorem State.modJnl_mlPorts (s : State) (f : Journal → Journal) : (s.modJnl f).mlPorts = s.mlPorts := rfl
@[simp] theorem State.modJnl_held (s : State) (f : Journal → Journal) : (s.modJnl f).held = s.held := rfl
@[simp] theorem State.modJnl_served (s : State) (f : Journal → Journal) : (s.modJnl f).served = s.served := rfl
@[simp] theorem State.modJnl_jobs (s : State) (f : Journal → Journal) : (s.modJnl f).jobs = s.jobs := rfl
@[simp] theorem State.modJnl_lead (s : State) (f : Journal → Journal) : (s.modJnl f).lead = s.lead := rfl
@[simp] theorem State.modJnl_actions (s : State) (f : Journal → Journal) : (s.modJnl f).actions = s.actions := rfl
@[simp] theorem State.modJnl_nextAction (s : State) (f : Journal → Journal) : (s.modJnl f).nextAction = s.nextAction := rfl
@[simp] theorem State.modJnl_snapSent (s : State) (f : Journal → Journal) : (s.modJnl f).snapSent = s.snapSent := rfl
@[simp] theorem State.modJnl_restarting (s : State) (f : Journal → Journal) : (s.modJnl f).restarting = s.restarting := rfl
@[simp] theorem State.modJnl_watchdogs (s : State) (f : Journal → Journal) : (s.modJnl f).watchdogs = s.watchdogs := rfl
@[simp] theorem State.modJnl_records (s : State) (f : Journal → Journal) : (s.modJnl f).records = s.records := rfl
@[simp] theorem State.modJnl_leases (s : State) (f : Journal → Journal) : (s.modJnl f).leases = s.leases := rfl
@[simp] theorem State.modJnl_reefs (s : State) (f : Journal → Journal) : (s.modJnl f).reefs = s.reefs := rfl
@[simp] theorem State.modJnl_jqueue (s : State) (f : Journal → Journal) : (s.modJnl f).jqueue = s.jqueue := rfl
@[simp] theorem State.modJnl_mctpOut (s : State) (f : Journal → Journal) : (s.modJnl f).mctpOut = s.mctpOut := rfl
@[simp] theorem State.modJnl_gov (s : State) (f : Journal → Journal) : (s.modJnl f).gov = s.gov := rfl
@[simp] theorem State.modJnl_pins (s : State) (f : Journal → Journal) : (s.modJnl f).pins = s.pins := rfl
@[simp] theorem State.modJnl_jtag (s : State) (f : Journal → Journal) : (s.modJnl f).jtag = s.jtag := rfl
@[simp] theorem State.modJnl_mctp (s : State) (f : Journal → Journal) : (s.modJnl f).mctp = s.mctp := rfl
@[simp] theorem State.modJnl_fw (s : State) (f : Journal → Journal) : (s.modJnl f).fw = s.fw := rfl
@[simp] theorem State.modJnl_drains (s : State) (f : Journal → Journal) : (s.modJnl f).drains = s.drains := rfl
@[simp] theorem State.modJnl_enablePend (s : State) (f : Journal → Journal) : (s.modJnl f).enablePend = s.enablePend := rfl
@[simp] theorem State.modJnl_rotations (s : State) (f : Journal → Journal) : (s.modJnl f).rotations = s.rotations := rfl
@[simp] theorem State.modJnl_drbgCount (s : State) (f : Journal → Journal) : (s.modJnl f).drbgCount = s.drbgCount := rfl
@[simp] theorem State.modJnl_freeCtr (s : State) (f : Journal → Journal) : (s.modJnl f).freeCtr = s.freeCtr := rfl
@[simp] theorem State.modJnl_ticks (s : State) (f : Journal → Journal) : (s.modJnl f).ticks = s.ticks := rfl
@[simp] theorem State.modJnl_pending (s : State) (f : Journal → Journal) : (s.modJnl f).pending = s.pending := rfl
@[simp] theorem State.modJnl_reg (s : State) (f : Journal → Journal) (r' : Reg) (a' b' : Nat) : (s.modJnl f).reg r' a' b' = s.reg r' a' b' := rfl
@[simp] theorem State.modJnl_fld (s : State) (f : Journal → Journal) (g' : Fld) (a' b' : Nat) : (s.modJnl f).fld g' a' b' = s.fld g' a' b' := rfl
@[simp] theorem State.modJnl_count (s : State) (f : Journal → Journal) (i' : Nat) : (s.modJnl f).count i' = s.count i' := rfl
@[simp] theorem State.modJnl_lane (s : State) (f : Journal → Journal) (n' : Nat) (ba' : Bool) (cls' : Nat) : (s.modJnl f).lane n' ba' cls' = s.lane n' ba' cls' := rfl
@[simp] theorem State.modJnl_fnState (s : State) (f : Journal → Journal) (fn' : Nat) : (s.modJnl f).fnState fn' = s.fnState fn' := rfl
@[simp] theorem State.modJnl_queue (s : State) (f : Journal → Journal) (fn' q' : Nat) : (s.modJnl f).queue fn' q' = s.queue fn' q' := rfl
@[simp] theorem State.modJnl_islet (s : State) (f : Journal → Journal) (i' : Nat) : (s.modJnl f).islet i' = s.islet i' := rfl
@[simp] theorem State.modJnl_link (s : State) (f : Journal → Journal) (p' : Nat) : (s.modJnl f).link p' = s.link p' := rfl
@[simp] theorem State.modJnl_mlPort (s : State) (f : Journal → Journal) (p' : Nat) : (s.modJnl f).mlPort p' = s.mlPort p' := rfl
@[simp] theorem State.modJnl_job (s : State) (f : Journal → Journal) (x' : Nat) : (s.modJnl f).job x' = s.job x' := rfl
@[simp] theorem State.modJnl_isArmed (s : State) (f : Journal → Journal) (fn' k' : Nat) : (s.modJnl f).isArmed fn' k' = s.isArmed fn' k' := rfl

/-! ### modAction -/

@[simp] theorem State.modAction_pkg (s : State) (a : Nat) (f : Action → Action) : (s.modAction a f).pkg = s.pkg := rfl
@[simp] theorem State.modAction_svn (s : State) (a : Nat) (f : Action → Action) : (s.modAction a f).svn = s.svn := rfl
@[simp] theorem State.modAction_regs (s : State) (a : Nat) (f : Action → Action) : (s.modAction a f).regs = s.regs := rfl
@[simp] theorem State.modAction_counts (s : State) (a : Nat) (f : Action → Action) : (s.modAction a f).counts = s.counts := rfl
@[simp] theorem State.modAction_lanes (s : State) (a : Nat) (f : Action → Action) : (s.modAction a f).lanes = s.lanes := rfl
@[simp] theorem State.modAction_xturn (s : State) (a : Nat) (f : Action → Action) : (s.modAction a f).xturn = s.xturn := rfl
@[simp] theorem State.modAction_armed (s : State) (a : Nat) (f : Action → Action) : (s.modAction a f).armed = s.armed := rfl
@[simp] theorem State.modAction_hbrArmed (s : State) (a : Nat) (f : Action → Action) : (s.modAction a f).hbrArmed = s.hbrArmed := rfl
@[simp] theorem State.modAction_egress (s : State) (a : Nat) (f : Action → Action) : (s.modAction a f).egress = s.egress := rfl
@[simp] theorem State.modAction_heads (s : State) (a : Nat) (f : Action → Action) : (s.modAction a f).heads = s.heads := rfl
@[simp] theorem State.modAction_ports (s : State) (a : Nat) (f : Action → Action) : (s.modAction a f).ports = s.ports := rfl
@[simp] theorem State.modAction_claimWait (s : State) (a : Nat) (f : Action → Action) : (s.modAction a f).claimWait = s.claimWait := rfl
@[simp] theorem State.modAction_reads (s : State) (a : Nat) (f : Action → Action) : (s.modAction a f).reads = s.reads := rfl
@[simp] theorem State.modAction_readsWaiting (s : State) (a : Nat) (f : Action → Action) : (s.modAction a f).readsWaiting = s.readsWaiting := rfl
@[simp] theorem State.modAction_readData (s : State) (a : Nat) (f : Action → Action) : (s.modAction a f).readData = s.readData := rfl
@[simp] theorem State.modAction_mem (s : State) (a : Nat) (f : Action → Action) : (s.modAction a f).mem = s.mem := rfl
@[simp] theorem State.modAction_bad (s : State) (a : Nat) (f : Action → Action) : (s.modAction a f).bad = s.bad := rfl
@[simp] theorem State.modAction_rowErrs (s : State) (a : Nat) (f : Action → Action) : (s.modAction a f).rowErrs = s.rowErrs := rfl
@[simp] theorem State.modAction_repairs (s : State) (a : Nat) (f : Action → Action) : (s.modAction a f).repairs = s.repairs := rfl
@[simp] theorem State.modAction_withdrawn (s : State) (a : Nat) (f : Action → Action) : (s.modAction a f).withdrawn = s.withdrawn := rfl
@[simp] theorem State.modAction_unrepairable (s : State) (a : Nat) (f : Action → Action) : (s.modAction a f).unrepairable = s.unrepairable := rfl
@[simp] theorem State.modAction_sweepBad (s : State) (a : Nat) (f : Action → Action) : (s.modAction a f).sweepBad = s.sweepBad := rfl
@[simp] theorem State.modAction_fns (s : State) (a : Nat) (f : Action → Action) : (s.modAction a f).fns = s.fns := rfl
@[simp] theorem State.modAction_queues (s : State) (a : Nat) (f : Action → Action) : (s.modAction a f).queues = s.queues := rfl
@[simp] theorem State.modAction_islets (s : State) (a : Nat) (f : Action → Action) : (s.modAction a f).islets = s.islets := rfl
@[simp] theorem State.modAction_packets (s : State) (a : Nat) (f : Action → Action) : (s.modAction a f).packets = s.packets := rfl
@[simp] theorem State.modAction_launches (s : State) (a : Nat) (f : Action → Action) : (s.modAction a f).launches = s.launches := rfl
@[simp] theorem State.modAction_nextLaunch (s : State) (a : Nat) (f : Action → Action) : (s.modAction a f).nextLaunch = s.nextLaunch := rfl
@[simp] theorem State.modAction_pastLaunches (s : State) (a : Nat) (f : Action → Action) : (s.modAction a f).pastLaunches = s.pastLaunches := rfl
@[simp] theorem State.modAction_staging (s : State) (a : Nat) (f : Action → Action) : (s.modAction a f).staging = s.staging := rfl
@[simp] theorem State.modAction_stagingBusy (s : State) (a : Nat) (f : Action → Action) : (s.modAction a f).stagingBusy = s.stagingBusy := rfl
@[simp] theorem State.modAction_mlPorts (s : State) (a : Nat) (f : Action → Action) : (s.modAction a f).mlPorts = s.mlPorts := rfl
@[simp] theorem State.modAction_held (s : State) (a : Nat) (f : Action → Action) : (s.modAction a f).held = s.held := rfl
@[simp] theorem State.modAction_served (s : State) (a : Nat) (f : Action → Action) : (s.modAction a f).served = s.served := rfl
@[simp] theorem State.modAction_jobs (s : State) (a : Nat) (f : Action → Action) : (s.modAction a f).jobs = s.jobs := rfl
@[simp] theorem State.modAction_lead (s : State) (a : Nat) (f : Action → Action) : (s.modAction a f).lead = s.lead := rfl
@[simp] theorem State.modAction_nextAction (s : State) (a : Nat) (f : Action → Action) : (s.modAction a f).nextAction = s.nextAction := rfl
@[simp] theorem State.modAction_snapSent (s : State) (a : Nat) (f : Action → Action) : (s.modAction a f).snapSent = s.snapSent := rfl
@[simp] theorem State.modAction_restarting (s : State) (a : Nat) (f : Action → Action) : (s.modAction a f).restarting = s.restarting := rfl
@[simp] theorem State.modAction_watchdogs (s : State) (a : Nat) (f : Action → Action) : (s.modAction a f).watchdogs = s.watchdogs := rfl
@[simp] theorem State.modAction_records (s : State) (a : Nat) (f : Action → Action) : (s.modAction a f).records = s.records := rfl
@[simp] theorem State.modAction_leases (s : State) (a : Nat) (f : Action → Action) : (s.modAction a f).leases = s.leases := rfl
@[simp] theorem State.modAction_reefs (s : State) (a : Nat) (f : Action → Action) : (s.modAction a f).reefs = s.reefs := rfl
@[simp] theorem State.modAction_jqueue (s : State) (a : Nat) (f : Action → Action) : (s.modAction a f).jqueue = s.jqueue := rfl
@[simp] theorem State.modAction_mctpOut (s : State) (a : Nat) (f : Action → Action) : (s.modAction a f).mctpOut = s.mctpOut := rfl
@[simp] theorem State.modAction_gov (s : State) (a : Nat) (f : Action → Action) : (s.modAction a f).gov = s.gov := rfl
@[simp] theorem State.modAction_pins (s : State) (a : Nat) (f : Action → Action) : (s.modAction a f).pins = s.pins := rfl
@[simp] theorem State.modAction_jtag (s : State) (a : Nat) (f : Action → Action) : (s.modAction a f).jtag = s.jtag := rfl
@[simp] theorem State.modAction_mctp (s : State) (a : Nat) (f : Action → Action) : (s.modAction a f).mctp = s.mctp := rfl
@[simp] theorem State.modAction_fw (s : State) (a : Nat) (f : Action → Action) : (s.modAction a f).fw = s.fw := rfl
@[simp] theorem State.modAction_jnl (s : State) (a : Nat) (f : Action → Action) : (s.modAction a f).jnl = s.jnl := rfl
@[simp] theorem State.modAction_drains (s : State) (a : Nat) (f : Action → Action) : (s.modAction a f).drains = s.drains := rfl
@[simp] theorem State.modAction_enablePend (s : State) (a : Nat) (f : Action → Action) : (s.modAction a f).enablePend = s.enablePend := rfl
@[simp] theorem State.modAction_rotations (s : State) (a : Nat) (f : Action → Action) : (s.modAction a f).rotations = s.rotations := rfl
@[simp] theorem State.modAction_drbgCount (s : State) (a : Nat) (f : Action → Action) : (s.modAction a f).drbgCount = s.drbgCount := rfl
@[simp] theorem State.modAction_freeCtr (s : State) (a : Nat) (f : Action → Action) : (s.modAction a f).freeCtr = s.freeCtr := rfl
@[simp] theorem State.modAction_ticks (s : State) (a : Nat) (f : Action → Action) : (s.modAction a f).ticks = s.ticks := rfl
@[simp] theorem State.modAction_pending (s : State) (a : Nat) (f : Action → Action) : (s.modAction a f).pending = s.pending := rfl
@[simp] theorem State.modAction_reg (s : State) (a : Nat) (f : Action → Action) (r' : Reg) (a' b' : Nat) : (s.modAction a f).reg r' a' b' = s.reg r' a' b' := rfl
@[simp] theorem State.modAction_fld (s : State) (a : Nat) (f : Action → Action) (g' : Fld) (a' b' : Nat) : (s.modAction a f).fld g' a' b' = s.fld g' a' b' := rfl
@[simp] theorem State.modAction_count (s : State) (a : Nat) (f : Action → Action) (i' : Nat) : (s.modAction a f).count i' = s.count i' := rfl
@[simp] theorem State.modAction_lane (s : State) (a : Nat) (f : Action → Action) (n' : Nat) (ba' : Bool) (cls' : Nat) : (s.modAction a f).lane n' ba' cls' = s.lane n' ba' cls' := rfl
@[simp] theorem State.modAction_fnState (s : State) (a : Nat) (f : Action → Action) (fn' : Nat) : (s.modAction a f).fnState fn' = s.fnState fn' := rfl
@[simp] theorem State.modAction_queue (s : State) (a : Nat) (f : Action → Action) (fn' q' : Nat) : (s.modAction a f).queue fn' q' = s.queue fn' q' := rfl
@[simp] theorem State.modAction_islet (s : State) (a : Nat) (f : Action → Action) (i' : Nat) : (s.modAction a f).islet i' = s.islet i' := rfl
@[simp] theorem State.modAction_link (s : State) (a : Nat) (f : Action → Action) (p' : Nat) : (s.modAction a f).link p' = s.link p' := rfl
@[simp] theorem State.modAction_mlPort (s : State) (a : Nat) (f : Action → Action) (p' : Nat) : (s.modAction a f).mlPort p' = s.mlPort p' := rfl
@[simp] theorem State.modAction_job (s : State) (a : Nat) (f : Action → Action) (x' : Nat) : (s.modAction a f).job x' = s.job x' := rfl
@[simp] theorem State.modAction_isArmed (s : State) (a : Nat) (f : Action → Action) (fn' k' : Nat) : (s.modAction a f).isArmed fn' k' = s.isArmed fn' k' := rfl

/-! ### modLaunch -/

@[simp] theorem State.modLaunch_pkg (s : State) (lid : Nat) (g : Launch → Launch) : (s.modLaunch lid g).pkg = s.pkg := rfl
@[simp] theorem State.modLaunch_svn (s : State) (lid : Nat) (g : Launch → Launch) : (s.modLaunch lid g).svn = s.svn := rfl
@[simp] theorem State.modLaunch_regs (s : State) (lid : Nat) (g : Launch → Launch) : (s.modLaunch lid g).regs = s.regs := rfl
@[simp] theorem State.modLaunch_counts (s : State) (lid : Nat) (g : Launch → Launch) : (s.modLaunch lid g).counts = s.counts := rfl
@[simp] theorem State.modLaunch_lanes (s : State) (lid : Nat) (g : Launch → Launch) : (s.modLaunch lid g).lanes = s.lanes := rfl
@[simp] theorem State.modLaunch_xturn (s : State) (lid : Nat) (g : Launch → Launch) : (s.modLaunch lid g).xturn = s.xturn := rfl
@[simp] theorem State.modLaunch_armed (s : State) (lid : Nat) (g : Launch → Launch) : (s.modLaunch lid g).armed = s.armed := rfl
@[simp] theorem State.modLaunch_hbrArmed (s : State) (lid : Nat) (g : Launch → Launch) : (s.modLaunch lid g).hbrArmed = s.hbrArmed := rfl
@[simp] theorem State.modLaunch_egress (s : State) (lid : Nat) (g : Launch → Launch) : (s.modLaunch lid g).egress = s.egress := rfl
@[simp] theorem State.modLaunch_heads (s : State) (lid : Nat) (g : Launch → Launch) : (s.modLaunch lid g).heads = s.heads := rfl
@[simp] theorem State.modLaunch_ports (s : State) (lid : Nat) (g : Launch → Launch) : (s.modLaunch lid g).ports = s.ports := rfl
@[simp] theorem State.modLaunch_claimWait (s : State) (lid : Nat) (g : Launch → Launch) : (s.modLaunch lid g).claimWait = s.claimWait := rfl
@[simp] theorem State.modLaunch_reads (s : State) (lid : Nat) (g : Launch → Launch) : (s.modLaunch lid g).reads = s.reads := rfl
@[simp] theorem State.modLaunch_readsWaiting (s : State) (lid : Nat) (g : Launch → Launch) : (s.modLaunch lid g).readsWaiting = s.readsWaiting := rfl
@[simp] theorem State.modLaunch_readData (s : State) (lid : Nat) (g : Launch → Launch) : (s.modLaunch lid g).readData = s.readData := rfl
@[simp] theorem State.modLaunch_mem (s : State) (lid : Nat) (g : Launch → Launch) : (s.modLaunch lid g).mem = s.mem := rfl
@[simp] theorem State.modLaunch_bad (s : State) (lid : Nat) (g : Launch → Launch) : (s.modLaunch lid g).bad = s.bad := rfl
@[simp] theorem State.modLaunch_rowErrs (s : State) (lid : Nat) (g : Launch → Launch) : (s.modLaunch lid g).rowErrs = s.rowErrs := rfl
@[simp] theorem State.modLaunch_repairs (s : State) (lid : Nat) (g : Launch → Launch) : (s.modLaunch lid g).repairs = s.repairs := rfl
@[simp] theorem State.modLaunch_withdrawn (s : State) (lid : Nat) (g : Launch → Launch) : (s.modLaunch lid g).withdrawn = s.withdrawn := rfl
@[simp] theorem State.modLaunch_unrepairable (s : State) (lid : Nat) (g : Launch → Launch) : (s.modLaunch lid g).unrepairable = s.unrepairable := rfl
@[simp] theorem State.modLaunch_sweepBad (s : State) (lid : Nat) (g : Launch → Launch) : (s.modLaunch lid g).sweepBad = s.sweepBad := rfl
@[simp] theorem State.modLaunch_fns (s : State) (lid : Nat) (g : Launch → Launch) : (s.modLaunch lid g).fns = s.fns := rfl
@[simp] theorem State.modLaunch_queues (s : State) (lid : Nat) (g : Launch → Launch) : (s.modLaunch lid g).queues = s.queues := rfl
@[simp] theorem State.modLaunch_islets (s : State) (lid : Nat) (g : Launch → Launch) : (s.modLaunch lid g).islets = s.islets := rfl
@[simp] theorem State.modLaunch_packets (s : State) (lid : Nat) (g : Launch → Launch) : (s.modLaunch lid g).packets = s.packets := rfl
@[simp] theorem State.modLaunch_nextLaunch (s : State) (lid : Nat) (g : Launch → Launch) : (s.modLaunch lid g).nextLaunch = s.nextLaunch := rfl
@[simp] theorem State.modLaunch_pastLaunches (s : State) (lid : Nat) (g : Launch → Launch) : (s.modLaunch lid g).pastLaunches = s.pastLaunches := rfl
@[simp] theorem State.modLaunch_staging (s : State) (lid : Nat) (g : Launch → Launch) : (s.modLaunch lid g).staging = s.staging := rfl
@[simp] theorem State.modLaunch_stagingBusy (s : State) (lid : Nat) (g : Launch → Launch) : (s.modLaunch lid g).stagingBusy = s.stagingBusy := rfl
@[simp] theorem State.modLaunch_mlPorts (s : State) (lid : Nat) (g : Launch → Launch) : (s.modLaunch lid g).mlPorts = s.mlPorts := rfl
@[simp] theorem State.modLaunch_held (s : State) (lid : Nat) (g : Launch → Launch) : (s.modLaunch lid g).held = s.held := rfl
@[simp] theorem State.modLaunch_served (s : State) (lid : Nat) (g : Launch → Launch) : (s.modLaunch lid g).served = s.served := rfl
@[simp] theorem State.modLaunch_jobs (s : State) (lid : Nat) (g : Launch → Launch) : (s.modLaunch lid g).jobs = s.jobs := rfl
@[simp] theorem State.modLaunch_lead (s : State) (lid : Nat) (g : Launch → Launch) : (s.modLaunch lid g).lead = s.lead := rfl
@[simp] theorem State.modLaunch_actions (s : State) (lid : Nat) (g : Launch → Launch) : (s.modLaunch lid g).actions = s.actions := rfl
@[simp] theorem State.modLaunch_nextAction (s : State) (lid : Nat) (g : Launch → Launch) : (s.modLaunch lid g).nextAction = s.nextAction := rfl
@[simp] theorem State.modLaunch_snapSent (s : State) (lid : Nat) (g : Launch → Launch) : (s.modLaunch lid g).snapSent = s.snapSent := rfl
@[simp] theorem State.modLaunch_restarting (s : State) (lid : Nat) (g : Launch → Launch) : (s.modLaunch lid g).restarting = s.restarting := rfl
@[simp] theorem State.modLaunch_watchdogs (s : State) (lid : Nat) (g : Launch → Launch) : (s.modLaunch lid g).watchdogs = s.watchdogs := rfl
@[simp] theorem State.modLaunch_records (s : State) (lid : Nat) (g : Launch → Launch) : (s.modLaunch lid g).records = s.records := rfl
@[simp] theorem State.modLaunch_leases (s : State) (lid : Nat) (g : Launch → Launch) : (s.modLaunch lid g).leases = s.leases := rfl
@[simp] theorem State.modLaunch_reefs (s : State) (lid : Nat) (g : Launch → Launch) : (s.modLaunch lid g).reefs = s.reefs := rfl
@[simp] theorem State.modLaunch_jqueue (s : State) (lid : Nat) (g : Launch → Launch) : (s.modLaunch lid g).jqueue = s.jqueue := rfl
@[simp] theorem State.modLaunch_mctpOut (s : State) (lid : Nat) (g : Launch → Launch) : (s.modLaunch lid g).mctpOut = s.mctpOut := rfl
@[simp] theorem State.modLaunch_gov (s : State) (lid : Nat) (g : Launch → Launch) : (s.modLaunch lid g).gov = s.gov := rfl
@[simp] theorem State.modLaunch_pins (s : State) (lid : Nat) (g : Launch → Launch) : (s.modLaunch lid g).pins = s.pins := rfl
@[simp] theorem State.modLaunch_jtag (s : State) (lid : Nat) (g : Launch → Launch) : (s.modLaunch lid g).jtag = s.jtag := rfl
@[simp] theorem State.modLaunch_mctp (s : State) (lid : Nat) (g : Launch → Launch) : (s.modLaunch lid g).mctp = s.mctp := rfl
@[simp] theorem State.modLaunch_fw (s : State) (lid : Nat) (g : Launch → Launch) : (s.modLaunch lid g).fw = s.fw := rfl
@[simp] theorem State.modLaunch_jnl (s : State) (lid : Nat) (g : Launch → Launch) : (s.modLaunch lid g).jnl = s.jnl := rfl
@[simp] theorem State.modLaunch_drains (s : State) (lid : Nat) (g : Launch → Launch) : (s.modLaunch lid g).drains = s.drains := rfl
@[simp] theorem State.modLaunch_enablePend (s : State) (lid : Nat) (g : Launch → Launch) : (s.modLaunch lid g).enablePend = s.enablePend := rfl
@[simp] theorem State.modLaunch_rotations (s : State) (lid : Nat) (g : Launch → Launch) : (s.modLaunch lid g).rotations = s.rotations := rfl
@[simp] theorem State.modLaunch_drbgCount (s : State) (lid : Nat) (g : Launch → Launch) : (s.modLaunch lid g).drbgCount = s.drbgCount := rfl
@[simp] theorem State.modLaunch_freeCtr (s : State) (lid : Nat) (g : Launch → Launch) : (s.modLaunch lid g).freeCtr = s.freeCtr := rfl
@[simp] theorem State.modLaunch_ticks (s : State) (lid : Nat) (g : Launch → Launch) : (s.modLaunch lid g).ticks = s.ticks := rfl
@[simp] theorem State.modLaunch_pending (s : State) (lid : Nat) (g : Launch → Launch) : (s.modLaunch lid g).pending = s.pending := rfl
@[simp] theorem State.modLaunch_reg (s : State) (lid : Nat) (g : Launch → Launch) (r' : Reg) (a' b' : Nat) : (s.modLaunch lid g).reg r' a' b' = s.reg r' a' b' := rfl
@[simp] theorem State.modLaunch_fld (s : State) (lid : Nat) (g : Launch → Launch) (g' : Fld) (a' b' : Nat) : (s.modLaunch lid g).fld g' a' b' = s.fld g' a' b' := rfl
@[simp] theorem State.modLaunch_count (s : State) (lid : Nat) (g : Launch → Launch) (i' : Nat) : (s.modLaunch lid g).count i' = s.count i' := rfl
@[simp] theorem State.modLaunch_lane (s : State) (lid : Nat) (g : Launch → Launch) (n' : Nat) (ba' : Bool) (cls' : Nat) : (s.modLaunch lid g).lane n' ba' cls' = s.lane n' ba' cls' := rfl
@[simp] theorem State.modLaunch_fnState (s : State) (lid : Nat) (g : Launch → Launch) (fn' : Nat) : (s.modLaunch lid g).fnState fn' = s.fnState fn' := rfl
@[simp] theorem State.modLaunch_queue (s : State) (lid : Nat) (g : Launch → Launch) (fn' q' : Nat) : (s.modLaunch lid g).queue fn' q' = s.queue fn' q' := rfl
@[simp] theorem State.modLaunch_islet (s : State) (lid : Nat) (g : Launch → Launch) (i' : Nat) : (s.modLaunch lid g).islet i' = s.islet i' := rfl
@[simp] theorem State.modLaunch_link (s : State) (lid : Nat) (g : Launch → Launch) (p' : Nat) : (s.modLaunch lid g).link p' = s.link p' := rfl
@[simp] theorem State.modLaunch_mlPort (s : State) (lid : Nat) (g : Launch → Launch) (p' : Nat) : (s.modLaunch lid g).mlPort p' = s.mlPort p' := rfl
@[simp] theorem State.modLaunch_job (s : State) (lid : Nat) (g : Launch → Launch) (x' : Nat) : (s.modLaunch lid g).job x' = s.job x' := rfl
@[simp] theorem State.modLaunch_isArmed (s : State) (lid : Nat) (g : Launch → Launch) (fn' k' : Nat) : (s.modLaunch lid g).isArmed fn' k' = s.isArmed fn' k' := rfl

/-! ### noteServed -/

@[simp] theorem State.noteServed_pkg (s : State) (a : Access) (ans : Answer) : (s.noteServed a ans).pkg = s.pkg := rfl
@[simp] theorem State.noteServed_svn (s : State) (a : Access) (ans : Answer) : (s.noteServed a ans).svn = s.svn := rfl
@[simp] theorem State.noteServed_regs (s : State) (a : Access) (ans : Answer) : (s.noteServed a ans).regs = s.regs := rfl
@[simp] theorem State.noteServed_counts (s : State) (a : Access) (ans : Answer) : (s.noteServed a ans).counts = s.counts := rfl
@[simp] theorem State.noteServed_lanes (s : State) (a : Access) (ans : Answer) : (s.noteServed a ans).lanes = s.lanes := rfl
@[simp] theorem State.noteServed_xturn (s : State) (a : Access) (ans : Answer) : (s.noteServed a ans).xturn = s.xturn := rfl
@[simp] theorem State.noteServed_armed (s : State) (a : Access) (ans : Answer) : (s.noteServed a ans).armed = s.armed := rfl
@[simp] theorem State.noteServed_hbrArmed (s : State) (a : Access) (ans : Answer) : (s.noteServed a ans).hbrArmed = s.hbrArmed := rfl
@[simp] theorem State.noteServed_egress (s : State) (a : Access) (ans : Answer) : (s.noteServed a ans).egress = s.egress := rfl
@[simp] theorem State.noteServed_heads (s : State) (a : Access) (ans : Answer) : (s.noteServed a ans).heads = s.heads := rfl
@[simp] theorem State.noteServed_ports (s : State) (a : Access) (ans : Answer) : (s.noteServed a ans).ports = s.ports := rfl
@[simp] theorem State.noteServed_claimWait (s : State) (a : Access) (ans : Answer) : (s.noteServed a ans).claimWait = s.claimWait := rfl
@[simp] theorem State.noteServed_reads (s : State) (a : Access) (ans : Answer) : (s.noteServed a ans).reads = s.reads := rfl
@[simp] theorem State.noteServed_readsWaiting (s : State) (a : Access) (ans : Answer) : (s.noteServed a ans).readsWaiting = s.readsWaiting := rfl
@[simp] theorem State.noteServed_readData (s : State) (a : Access) (ans : Answer) : (s.noteServed a ans).readData = s.readData := rfl
@[simp] theorem State.noteServed_mem (s : State) (a : Access) (ans : Answer) : (s.noteServed a ans).mem = s.mem := rfl
@[simp] theorem State.noteServed_bad (s : State) (a : Access) (ans : Answer) : (s.noteServed a ans).bad = s.bad := rfl
@[simp] theorem State.noteServed_rowErrs (s : State) (a : Access) (ans : Answer) : (s.noteServed a ans).rowErrs = s.rowErrs := rfl
@[simp] theorem State.noteServed_repairs (s : State) (a : Access) (ans : Answer) : (s.noteServed a ans).repairs = s.repairs := rfl
@[simp] theorem State.noteServed_withdrawn (s : State) (a : Access) (ans : Answer) : (s.noteServed a ans).withdrawn = s.withdrawn := rfl
@[simp] theorem State.noteServed_unrepairable (s : State) (a : Access) (ans : Answer) : (s.noteServed a ans).unrepairable = s.unrepairable := rfl
@[simp] theorem State.noteServed_sweepBad (s : State) (a : Access) (ans : Answer) : (s.noteServed a ans).sweepBad = s.sweepBad := rfl
@[simp] theorem State.noteServed_fns (s : State) (a : Access) (ans : Answer) : (s.noteServed a ans).fns = s.fns := rfl
@[simp] theorem State.noteServed_queues (s : State) (a : Access) (ans : Answer) : (s.noteServed a ans).queues = s.queues := rfl
@[simp] theorem State.noteServed_islets (s : State) (a : Access) (ans : Answer) : (s.noteServed a ans).islets = s.islets := rfl
@[simp] theorem State.noteServed_packets (s : State) (a : Access) (ans : Answer) : (s.noteServed a ans).packets = s.packets := rfl
@[simp] theorem State.noteServed_launches (s : State) (a : Access) (ans : Answer) : (s.noteServed a ans).launches = s.launches := rfl
@[simp] theorem State.noteServed_nextLaunch (s : State) (a : Access) (ans : Answer) : (s.noteServed a ans).nextLaunch = s.nextLaunch := rfl
@[simp] theorem State.noteServed_pastLaunches (s : State) (a : Access) (ans : Answer) : (s.noteServed a ans).pastLaunches = s.pastLaunches := rfl
@[simp] theorem State.noteServed_staging (s : State) (a : Access) (ans : Answer) : (s.noteServed a ans).staging = s.staging := rfl
@[simp] theorem State.noteServed_stagingBusy (s : State) (a : Access) (ans : Answer) : (s.noteServed a ans).stagingBusy = s.stagingBusy := rfl
@[simp] theorem State.noteServed_mlPorts (s : State) (a : Access) (ans : Answer) : (s.noteServed a ans).mlPorts = s.mlPorts := rfl
@[simp] theorem State.noteServed_held (s : State) (a : Access) (ans : Answer) : (s.noteServed a ans).held = s.held := rfl
@[simp] theorem State.noteServed_jobs (s : State) (a : Access) (ans : Answer) : (s.noteServed a ans).jobs = s.jobs := rfl
@[simp] theorem State.noteServed_lead (s : State) (a : Access) (ans : Answer) : (s.noteServed a ans).lead = s.lead := rfl
@[simp] theorem State.noteServed_actions (s : State) (a : Access) (ans : Answer) : (s.noteServed a ans).actions = s.actions := rfl
@[simp] theorem State.noteServed_nextAction (s : State) (a : Access) (ans : Answer) : (s.noteServed a ans).nextAction = s.nextAction := rfl
@[simp] theorem State.noteServed_snapSent (s : State) (a : Access) (ans : Answer) : (s.noteServed a ans).snapSent = s.snapSent := rfl
@[simp] theorem State.noteServed_restarting (s : State) (a : Access) (ans : Answer) : (s.noteServed a ans).restarting = s.restarting := rfl
@[simp] theorem State.noteServed_watchdogs (s : State) (a : Access) (ans : Answer) : (s.noteServed a ans).watchdogs = s.watchdogs := rfl
@[simp] theorem State.noteServed_records (s : State) (a : Access) (ans : Answer) : (s.noteServed a ans).records = s.records := rfl
@[simp] theorem State.noteServed_leases (s : State) (a : Access) (ans : Answer) : (s.noteServed a ans).leases = s.leases := rfl
@[simp] theorem State.noteServed_reefs (s : State) (a : Access) (ans : Answer) : (s.noteServed a ans).reefs = s.reefs := rfl
@[simp] theorem State.noteServed_jqueue (s : State) (a : Access) (ans : Answer) : (s.noteServed a ans).jqueue = s.jqueue := rfl
@[simp] theorem State.noteServed_mctpOut (s : State) (a : Access) (ans : Answer) : (s.noteServed a ans).mctpOut = s.mctpOut := rfl
@[simp] theorem State.noteServed_gov (s : State) (a : Access) (ans : Answer) : (s.noteServed a ans).gov = s.gov := rfl
@[simp] theorem State.noteServed_pins (s : State) (a : Access) (ans : Answer) : (s.noteServed a ans).pins = s.pins := rfl
@[simp] theorem State.noteServed_jtag (s : State) (a : Access) (ans : Answer) : (s.noteServed a ans).jtag = s.jtag := rfl
@[simp] theorem State.noteServed_mctp (s : State) (a : Access) (ans : Answer) : (s.noteServed a ans).mctp = s.mctp := rfl
@[simp] theorem State.noteServed_fw (s : State) (a : Access) (ans : Answer) : (s.noteServed a ans).fw = s.fw := rfl
@[simp] theorem State.noteServed_jnl (s : State) (a : Access) (ans : Answer) : (s.noteServed a ans).jnl = s.jnl := rfl
@[simp] theorem State.noteServed_drains (s : State) (a : Access) (ans : Answer) : (s.noteServed a ans).drains = s.drains := rfl
@[simp] theorem State.noteServed_enablePend (s : State) (a : Access) (ans : Answer) : (s.noteServed a ans).enablePend = s.enablePend := rfl
@[simp] theorem State.noteServed_rotations (s : State) (a : Access) (ans : Answer) : (s.noteServed a ans).rotations = s.rotations := rfl
@[simp] theorem State.noteServed_drbgCount (s : State) (a : Access) (ans : Answer) : (s.noteServed a ans).drbgCount = s.drbgCount := rfl
@[simp] theorem State.noteServed_freeCtr (s : State) (a : Access) (ans : Answer) : (s.noteServed a ans).freeCtr = s.freeCtr := rfl
@[simp] theorem State.noteServed_ticks (s : State) (a : Access) (ans : Answer) : (s.noteServed a ans).ticks = s.ticks := rfl
@[simp] theorem State.noteServed_pending (s : State) (a : Access) (ans : Answer) : (s.noteServed a ans).pending = s.pending := rfl
@[simp] theorem State.noteServed_reg (s : State) (a : Access) (ans : Answer) (r' : Reg) (a' b' : Nat) : (s.noteServed a ans).reg r' a' b' = s.reg r' a' b' := rfl
@[simp] theorem State.noteServed_fld (s : State) (a : Access) (ans : Answer) (g' : Fld) (a' b' : Nat) : (s.noteServed a ans).fld g' a' b' = s.fld g' a' b' := rfl
@[simp] theorem State.noteServed_count (s : State) (a : Access) (ans : Answer) (i' : Nat) : (s.noteServed a ans).count i' = s.count i' := rfl
@[simp] theorem State.noteServed_lane (s : State) (a : Access) (ans : Answer) (n' : Nat) (ba' : Bool) (cls' : Nat) : (s.noteServed a ans).lane n' ba' cls' = s.lane n' ba' cls' := rfl
@[simp] theorem State.noteServed_fnState (s : State) (a : Access) (ans : Answer) (fn' : Nat) : (s.noteServed a ans).fnState fn' = s.fnState fn' := rfl
@[simp] theorem State.noteServed_queue (s : State) (a : Access) (ans : Answer) (fn' q' : Nat) : (s.noteServed a ans).queue fn' q' = s.queue fn' q' := rfl
@[simp] theorem State.noteServed_islet (s : State) (a : Access) (ans : Answer) (i' : Nat) : (s.noteServed a ans).islet i' = s.islet i' := rfl
@[simp] theorem State.noteServed_link (s : State) (a : Access) (ans : Answer) (p' : Nat) : (s.noteServed a ans).link p' = s.link p' := rfl
@[simp] theorem State.noteServed_mlPort (s : State) (a : Access) (ans : Answer) (p' : Nat) : (s.noteServed a ans).mlPort p' = s.mlPort p' := rfl
@[simp] theorem State.noteServed_job (s : State) (a : Access) (ans : Answer) (x' : Nat) : (s.noteServed a ans).job x' = s.job x' := rfl
@[simp] theorem State.noteServed_isArmed (s : State) (a : Access) (ans : Answer) (fn' k' : Nat) : (s.noteServed a ans).isArmed fn' k' = s.isArmed fn' k' := rfl

end Sys2Proof.Machine
end

