-- ==== Sys2Proof/Laws/Reg.lean ====
section
/-! SUPPORT. Laws of bit fields and registers: a field reads as written, other fields and registers are unchanged. -/

namespace Sys2Proof.Machine

/-! ## Bit fields -/

/-- A number cut at bits `lo` and `lo + n`. -/
theorem putBits_split (w lo n v : Nat) :
    putBits w lo n v = w / 2 ^ lo / 2 ^ n * 2 ^ n * 2 ^ lo + v % 2 ^ n * 2 ^ lo + w % 2 ^ lo ∧
    w = w / 2 ^ lo / 2 ^ n * 2 ^ n * 2 ^ lo + bits w lo n * 2 ^ lo + w % 2 ^ lo := by
  have h1 : w = w / 2 ^ lo * 2 ^ lo + w % 2 ^ lo := (Nat.div_add_mod' w (2 ^ lo)).symm
  have h2 : w / 2 ^ lo = w / 2 ^ lo / 2 ^ n * 2 ^ n + bits w lo n := (Nat.div_add_mod' (w / 2 ^ lo) (2 ^ n)).symm
  have h3 : w = w / 2 ^ lo / 2 ^ n * 2 ^ n * 2 ^ lo + bits w lo n * 2 ^ lo + w % 2 ^ lo := by
    rw [← Nat.add_mul, ← h2]; exact h1
  refine ⟨?_, h3⟩
  unfold putBits
  omega

/-- A number put together from parts below `2 ^ lo`, in the field, and above. -/
theorem bits_parts (h m l lo n : Nat) (hm : m < 2 ^ n) (hl : l < 2 ^ lo) :
    bits (h * 2 ^ n * 2 ^ lo + m * 2 ^ lo + l) lo n = m := by
  have e : h * 2 ^ n * 2 ^ lo + m * 2 ^ lo + l = l + (m + h * 2 ^ n) * 2 ^ lo := by ring
  unfold bits
  rw [e, Nat.add_mul_div_right _ _ (Nat.two_pow_pos lo), Nat.div_eq_of_lt hl, Nat.zero_add, Nat.add_mul_mod_self_right,
    Nat.mod_eq_of_lt hm]

theorem bits_lt (w lo n : Nat) : bits w lo n < 2 ^ n := Nat.mod_lt _ (Nat.two_pow_pos n)

/-- A field reads as written. -/
@[simp] theorem bits_putBits (w lo n v : Nat) : bits (putBits w lo n v) lo n = v % 2 ^ n := by
  rw [(putBits_split w lo n v).1]
  exact bits_parts _ _ _ _ _ (Nat.mod_lt _ (Nat.two_pow_pos n)) (Nat.mod_lt _ (Nat.two_pow_pos lo))

theorem testBit_bits (w lo n k : Nat) : (bits w lo n).testBit k = (decide (k < n) && w.testBit (lo + k)) := by
  unfold bits
  rw [Nat.testBit_mod_two_pow, Nat.testBit_div_two_pow, Nat.add_comm]

theorem testBit_putBits (w lo n v k : Nat) :
    (putBits w lo n v).testBit k = if lo ≤ k ∧ k < lo + n then v.testBit (k - lo) else w.testBit k := by
  have hp := (putBits_split w lo n v).1
  have hw := (putBits_split w lo n v).2
  have hl : w % 2 ^ lo < 2 ^ lo := Nat.mod_lt _ (Nat.two_pow_pos lo)
  have hv : v % 2 ^ n < 2 ^ n := Nat.mod_lt _ (Nat.two_pow_pos n)
  have e1 : putBits w lo n v = 2 ^ lo * (2 ^ n * (w / 2 ^ lo / 2 ^ n) + v % 2 ^ n) + w % 2 ^ lo := by rw [hp]; ring
  rw [e1]
  by_cases h1 : k < lo
  · rw [if_neg (by omega), Nat.testBit_two_pow_mul_add _ hl, if_pos h1, Nat.testBit_mod_two_pow]; simp [h1]
  · rw [Nat.testBit_two_pow_mul_add _ hl, if_neg h1, Nat.testBit_two_pow_mul_add _ hv]
    by_cases h2 : k - lo < n
    · rw [if_pos h2, if_pos (by omega), Nat.testBit_mod_two_pow]; simp [h2]
    · rw [if_neg h2, if_neg (by omega), Nat.testBit_div_two_pow, Nat.testBit_div_two_pow]
      congr 1; omega

/-- A field outside the bits written reads as before. -/
theorem bits_putBits_disjoint (w lo n v lo' n' : Nat) (h : lo + n ≤ lo' ∨ lo' + n' ≤ lo) :
    bits (putBits w lo n v) lo' n' = bits w lo' n' := by
  apply Nat.eq_of_testBit_eq
  intro k
  rw [testBit_bits, testBit_bits, testBit_putBits]
  by_cases hk : k < n'
  · rw [if_neg (by omega)]
  · simp [hk]

theorem putBits_lt (w lo n v m : Nat) (hw : w < 2 ^ m) (h : lo + n ≤ m) : putBits w lo n v < 2 ^ m := by
  apply Nat.lt_pow_two_of_testBit
  intro k hk
  rw [testBit_putBits, if_neg (by omega)]
  exact Nat.testBit_lt_two_pow (Nat.lt_of_lt_of_le hw (Nat.pow_le_pow_right (by omega) hk))

/-! ## Registers -/

theorem Reg.ofCode_code (r : Reg) : Reg.ofCode r.code = r := by cases r <;> rfl

theorem Reg.code_inj (r r' : Reg) (h : r.code = r'.code) : r = r' := by
  rw [← Reg.ofCode_code r, ← Reg.ofCode_code r', h]

theorem regKey_eq (r r' : Reg) (a b a' b' : Nat) :
    regKey r a b = regKey r' a' b' ↔ r = r' ∧ a % 65536 = a' % 65536 ∧ b % 65536 = b' % 65536 := by
  constructor
  · intro h
    unfold regKey at h
    refine ⟨Reg.code_inj r r' (by omega), by omega, by omega⟩
  · rintro ⟨rfl, h1, h2⟩
    unfold regKey
    rw [h1, h2]

/-- A register reads as written. -/
@[simp] theorem State.reg_setReg_self (s : State) (r : Reg) (a b : Nat) (w : Word) : (s.setReg r a b w).reg r a b = w := by
  simp [State.reg, State.setReg]

/-- Another register reads as before. -/
theorem State.reg_setReg_ne (s : State) (r r' : Reg) (a b a' b' : Nat) (w : Word) (h : r' ≠ r) :
    (s.setReg r a b w).reg r' a' b' = s.reg r' a' b' := by
  have hk : regKey r' a' b' ≠ regKey r a b := fun e => h ((regKey_eq r' r a' b' a b).1 e).1
  exact storeGet_storeSet_other _ _ _ _ _ _ hk

/-- A register of the same table at other indices reads as before. -/
theorem State.reg_setReg_index (s : State) (r : Reg) (a b a' b' : Nat) (w : Word)
    (h : a' % 65536 ≠ a % 65536 ∨ b' % 65536 ≠ b % 65536) : (s.setReg r a b w).reg r a' b' = s.reg r a' b' := by
  have hk : regKey r a' b' ≠ regKey r a b := fun e => by
    have := (regKey_eq r r a' b' a b).1 e
    omega
  exact storeGet_storeSet_other _ _ _ _ _ _ hk

/-! ## Fields -/

/-- The bits of a field lie in a word. -/
def Fld.fits (f : Fld) : Bool := decide (f.lo ≤ f.hi) && decide (f.hi < 64)

theorem State.fld_eq (s : State) (f : Fld) (a b : Nat) : s.fld f a b = bits (s.reg f.reg a b).toNat f.lo (f.hi - f.lo + 1) := rfl

theorem State.fld_lt (s : State) (f : Fld) (a b : Nat) : s.fld f a b < 2 ^ (f.hi - f.lo + 1) := bits_lt _ _ _

/-- The number that a register holds after a field has been set. -/
theorem State.reg_setFld (s : State) (f : Fld) (a b v : Nat) (h : f.fits = true) :
    ((s.setFld f a b v).reg f.reg a b).toNat = putBits (s.reg f.reg a b).toNat f.lo (f.hi - f.lo + 1) v := by
  simp only [Fld.fits, Bool.and_eq_true, decide_eq_true_eq] at h
  rw [State.setFld, State.reg_setReg_self, BitVec.toNat_ofNat, Nat.mod_eq_of_lt]
  exact putBits_lt _ _ _ _ _ (s.reg f.reg a b).isLt (by omega)

/-- A field reads as set, in its width. -/
theorem State.fld_setFld_self (s : State) (f : Fld) (a b v : Nat) (h : f.fits = true) :
    (s.setFld f a b v).fld f a b = v % 2 ^ (f.hi - f.lo + 1) := by
  rw [State.fld_eq, State.reg_setFld s f a b v h, bits_putBits]

/-- Another field of the register reads as before. -/
theorem State.fld_setFld_disjoint (s : State) (f g : Fld) (a b v : Nat) (h : f.fits = true) (hr : g.reg = f.reg)
    (hd : f.hi < g.lo ∨ g.hi < f.lo) (hg : g.fits = true) : (s.setFld f a b v).fld g a b = s.fld g a b := by
  simp only [Fld.fits, Bool.and_eq_true, decide_eq_true_eq] at hg
  have hf := h
  simp only [Fld.fits, Bool.and_eq_true, decide_eq_true_eq] at hf
  rw [State.fld_eq, State.fld_eq, hr, State.reg_setFld s f a b v h]
  exact bits_putBits_disjoint _ _ _ _ _ _ (by omega)

/-- A register of another table reads as before. -/
theorem State.reg_setFld_ne (s : State) (f : Fld) (r : Reg) (a b v a' b' : Nat) (h : r ≠ f.reg) :
    (s.setFld f a b v).reg r a' b' = s.reg r a' b' := State.reg_setReg_ne _ _ _ _ _ _ _ _ h

/-- A field of another table reads as before. -/
theorem State.fld_setFld_ne (s : State) (f g : Fld) (a b v a' b' : Nat) (h : g.reg ≠ f.reg) :
    (s.setFld f a b v).fld g a' b' = s.fld g a' b' := by
  rw [State.fld_eq, State.fld_eq, State.reg_setFld_ne _ _ _ _ _ _ _ _ h]

/-- A field of a register at other indices reads as before. -/
theorem State.fld_setFld_index (s : State) (f g : Fld) (a b v a' b' : Nat)
    (h : a' % 65536 ≠ a % 65536 ∨ b' % 65536 ≠ b % 65536) : (s.setFld f a b v).fld g a' b' = s.fld g a' b' := by
  by_cases hr : g.reg = f.reg
  · rw [State.fld_eq, State.fld_eq, hr]
    congr 2
    exact State.reg_setReg_index _ _ _ _ _ _ _ h
  · exact State.fld_setFld_ne _ _ _ _ _ _ _ _ hr

/-- A field of another table reads as before when a register is set. -/
theorem State.fld_setReg_ne (s : State) (r : Reg) (g : Fld) (a b a' b' : Nat) (w : Word) (h : g.reg ≠ r) :
    (s.setReg r a b w).fld g a' b' = s.fld g a' b' := by
  rw [State.fld_eq, State.fld_eq, State.reg_setReg_ne _ _ _ _ _ _ _ _ h]

/-- A field of the register set. -/
theorem State.fld_setReg_self (s : State) (r : Reg) (g : Fld) (a b : Nat) (w : Word) (h : g.reg = r) :
    (s.setReg r a b w).fld g a b = bits w.toNat g.lo (g.hi - g.lo + 1) := by
  rw [State.fld_eq, h, State.reg_setReg_self]

/-- Forgetting the accesses served touches no register. -/
@[simp] theorem State.reg_unserved (s : State) (r : Reg) (a b : Nat) : s.unserved.reg r a b = s.reg r a b := rfl

/-- Forgetting the accesses served touches no field. -/
@[simp] theorem State.fld_unserved (s : State) (f : Fld) (a b : Nat) : s.unserved.fld f a b = s.fld f a b := rfl

end Sys2Proof.Machine
end

