-- ==== Sys2Proof/Laws/Legal.lean ====
section
/-! SUPPORT. Reserved fields stay zero (R16): reset words, fields set, words written; fixed registers keep their reset words. -/

namespace Sys2Proof.Machine
open Sys2Proof

/-- A legal word, bit by bit. -/
theorem wordLegal_iff {r : Reg} {w : Word} : wordLegal r w = true ↔
    ∀ i, w.toNat.testBit i = true → r.fields.any (fun f => decide (f.lo ≤ i) && decide (i ≤ f.hi)) = true := by
  simp only [wordLegal, List.all_eq_true, List.mem_range, Bool.or_eq_true, Bool.not_eq_true']
  constructor
  · intro h i hi
    have hl : i < 64 := by
      rcases Nat.lt_or_ge i 64 with hl | hl
      · exact hl
      · rw [Nat.testBit_lt_two_pow (Nat.lt_of_lt_of_le w.isLt (Nat.pow_le_pow_right (by decide) hl))] at hi
        cases hi
    rcases h i hl with h | h
    · rw [hi] at h; cases h
    · exact h
  · intro h i _
    cases hi : w.toNat.testBit i with
    | false => exact .inl rfl
    | true => exact .inr (h i hi)

/-- The list of all registers lacks none. -/
theorem Reg.mem_all (r : Reg) : r ∈ Reg.all := by
  have h := Reg.ofCode_code r
  unfold Reg.ofCode at h
  rw [List.getD_eq_getElem?_getD] at h
  cases e : Reg.all[r.code]? with
  | none =>
    rw [e] at h
    rw [← h]
    exact List.mem_of_getElem? (i := 0) rfl
  | some q =>
    rw [e] at h
    rw [← h]
    exact List.mem_of_getElem? e

/-- The reset words of the other registers are closed numbers. -/
def plainReset (r : Reg) : Word := BitVec.ofNat 64 (r.fields.foldl (fun w f => w + f.reset * 2 ^ f.lo) 0)

/-- Table reset values lie in their fields. -/
theorem plainReset_legal (r : Reg) : wordLegal r (plainReset r) = true := by
  have h : Reg.all.all (fun r => wordLegal r (plainReset r)) = true := by decide +kernel
  exact List.all_eq_true.1 h r (Reg.mem_all r)

/-- A word whose bits from `lo` up to `hi + 1` are any, within a field, and whose others are a legal word's. -/
theorem wordLegal_field {r : Reg} {w : Word} {lo hi v : Nat} (hw : wordLegal r w = true)
    (hf : r.fields.any (fun f => decide (f.lo ≤ lo) && decide (hi ≤ f.hi)) = true) (hl : lo ≤ hi) :
    wordLegal r (BitVec.ofNat 64 (putBits w.toNat lo (hi - lo + 1) v)) = true := by
  rw [wordLegal_iff] at hw ⊢
  intro i hi'
  rw [BitVec.toNat_ofNat, Nat.testBit_mod_two_pow, Bool.and_eq_true, testBit_putBits] at hi'
  obtain ⟨-, hi'⟩ := hi'
  split at hi'
  · next hc =>
    rw [List.any_eq_true] at hf ⊢
    obtain ⟨f, hm, hf⟩ := hf
    refine ⟨f, hm, ?_⟩
    simp only [Bool.and_eq_true, decide_eq_true_eq] at hf ⊢
    omega
  · exact hw i hi'

/-- Numbers below a power of two, shifted into a field, make a legal word with a legal rest. -/
theorem wordLegal_land {r : Reg} {w : Word} (m : Nat) (hm : wordLegal r (BitVec.ofNat 64 m) = true)
    (h : w.toNat &&& (m % 2 ^ 64) = w.toNat) : wordLegal r w = true := by
  rw [wordLegal_iff] at hm ⊢
  intro i hi
  apply hm i
  rw [← h, Nat.testBit_and, Bool.and_eq_true] at hi
  rw [BitVec.toNat_ofNat]
  exact hi.2

/-- The words of STR_DESC (R25, R26). -/
theorem straitDesc_legal (a : Nat) : wordLegal .STR_DESC (resetWord {} .STR_DESC a 0) = true := by
  have hm : wordLegal .STR_DESC (BitVec.ofNat 64 0xFFFFFF00FFFFFFFF) = true := by decide +kernel
  refine wordLegal_land 0xFFFFFF00FFFFFFFF hm ?_
  rcases Nat.lt_or_ge a 35 with h | h
  · exact (by decide +kernel : ∀ a, a < 35 → (resetWord {} .STR_DESC a 0).toNat &&& (0xFFFFFF00FFFFFFFF % 2 ^ 64) =
      (resetWord {} .STR_DESC a 0).toNat) a h
  · have e : straitDesc a = straitDesc 34 := by unfold straitDesc; repeat' (first | rw [if_neg (by omega)])
    simp only [resetWord]
    rw [e]
    decide +kernel

/-- The bits of a number shifted up. -/
theorem natShift_legal {v n lo m i : Nat} (hv : v < 2 ^ n) (h : (v * 2 ^ lo % 2 ^ m).testBit i = true) : lo ≤ i ∧ i < lo + n := by
  rw [Nat.testBit_mod_two_pow, Bool.and_eq_true, ← Nat.shiftLeft_eq, Nat.testBit_shiftLeft, Bool.and_eq_true] at h
  refine ⟨of_decide_eq_true h.2.1, ?_⟩
  rcases Nat.lt_or_ge i (lo + n) with hi | hi
  · exact hi
  · have := h.2.2
    rw [Nat.testBit_lt_two_pow (Nat.lt_of_lt_of_le hv (Nat.pow_le_pow_right (by decide) (by omega)))] at this
    cases this

/-- The word of PKG_IDENT (R9). -/
theorem identWord_legal (p : Package) (a b : Nat) : wordLegal .PKG_IDENT (resetWord p .PKG_IDENT a b) = true := by
  have hm : wordLegal .PKG_IDENT (BitVec.ofNat 64 0xFFFFFFFFFFFFFF00) = true := by decide +kernel
  refine wordLegal_land 0xFFFFFFFFFFFFFF00 hm ?_
  have h : ∀ t ∈ [Part.tva1024, .tva1024p, .tva768], ∀ x, x < 256 →
      (BitVec.ofNat 64 (0x7D1A * 2 ^ 48 + 0x0B0F * 2 ^ 32 + (partCode t) * 2 ^ 16 + x * 256)).toNat &&& (0xFFFFFFFFFFFFFF00 % 2 ^ 64) =
      (BitVec.ofNat 64 (0x7D1A * 2 ^ 48 + 0x0B0F * 2 ^ 32 + (partCode t) * 2 ^ 16 + x * 256)).toNat := by decide +kernel
  simp only [resetWord]
  exact h p.part (by cases p.part <;> decide) _ (Nat.mod_lt _ (by decide))

/-- The word of PKG_CAP. -/
theorem capWord_legal (p : Package) (a b : Nat) : wordLegal .PKG_CAP (resetWord p .PKG_CAP a b) = true := by
  have h : ∀ t, wordLegal .PKG_CAP (BitVec.ofNat 64 (natOf (partReef t) * 0x200 * 2 ^ 48 + 0x180 * 2 ^ 32 + (partStackCap t) * 2 ^ 24
      + 8 * 2 ^ 16 + (partCapMask t))) = true := by intro t; cases t <;> decide +kernel
  simp only [resetWord]
  exact h p.part

/-- The word of PKG_PORTS (R3). -/
theorem portsWord_legal (p : Package) (a b : Nat) : wordLegal .PKG_PORTS (resetWord p .PKG_PORTS a b) = true := by
  have h : ∀ t, wordLegal .PKG_PORTS (BitVec.ofNat 64 ((partMl t) * 2 ^ 32 + (partJl t))) = true := by
    intro t; cases t <;> decide +kernel
  simp only [resetWord]
  exact h p.part

/-- The word of ISL_IDENT (R80). -/
theorem isletWord_legal (p : Package) (a b : Nat) : wordLegal .ISL_IDENT (resetWord p .ISL_IDENT a b) = true := by
  have hm : wordLegal .ISL_IDENT (BitVec.ofNat 64 0x1F1FF) = true := by decide +kernel
  refine wordLegal_land 0x1F1FF hm ?_
  have h : ∀ x, x < 512 → (BitVec.ofNat 64 (natOf (isLagoon (x % 16)) * 2 ^ 16 + (x % 16) * 2 ^ 12 + x)).toNat &&& (0x1F1FF % 2 ^ 64) =
      (BitVec.ofNat 64 (natOf (isLagoon (x % 16)) * 2 ^ 16 + (x % 16) * 2 ^ 12 + x)).toNat := by decide +kernel
  have e : isLagoon a = isLagoon (a % 512 % 16) := by
    unfold isLagoon
    rw [show a % 512 % 16 % 16 = a % 16 by omega]
  have e' : islPos a = a % 512 % 16 := by unfold islPos; omega
  simp only [resetWord, e, e']
  exact h _ (Nat.mod_lt _ (by decide))

/-- The bits of a word are below 64. -/
theorem word_testBit {w : Word} {i : Nat} (h : w.toNat.testBit i = true) : i < 64 := by
  rcases Nat.lt_or_ge i 64 with hl | hl
  · exact hl
  · rw [Nat.testBit_lt_two_pow (Nat.lt_of_lt_of_le w.isLt (Nat.pow_le_pow_right (by decide) hl))] at h
    cases h

/-- Every reset value has its reserved fields zero (R16). -/
theorem resetWord_legal (p : Package) (r : Reg) (a b : Nat) : wordLegal r (resetWord p r a b) = true := by
  by_cases h : resetWord p r a b = plainReset r
  · rw [h]; exact plainReset_legal r
  · cases r
    case PKG_IDENT => exact identWord_legal p a b
    case PKG_CAP => exact capWord_legal p a b
    case PKG_PORTS => exact portsWord_legal p a b
    case STR_DESC => exact straitDesc_legal a
    case STR_STAT =>
      rw [wordLegal_iff]
      intro i hi
      simp only [resetWord, BitVec.toNat_ofNat] at hi
      obtain ⟨h1, h2⟩ := natShift_legal (n := 16) (Nat.mod_lt _ (by decide)) hi
      simp only [Reg.fields, List.any_cons, Bool.or_eq_true, Bool.and_eq_true, decide_eq_true_eq]
      omega
    case ISL_IDENT => exact isletWord_legal p a b
    case REEF_CAUSE =>
      rw [wordLegal_iff]
      intro i hi
      simp only [resetWord, BitVec.toNat_ofNat] at hi
      rw [← Nat.mul_one (storeGet 0 p.fusedLinks a % 2 ^ 63), ← Nat.pow_zero 2] at hi
      obtain ⟨h1, h2⟩ := natShift_legal (n := 63) (Nat.mod_lt _ (by decide)) hi
      simp only [Reg.fields, List.any_cons, List.any_nil, Bool.or_eq_true, Bool.and_eq_true, decide_eq_true_eq]
      omega
    case HBR_JNL_STAT => simp only [resetWord]; decide +kernel
    case SEC_FN_ID =>
      have h : ∀ x, x < 16 → wordLegal .SEC_FN_ID (BitVec.ofNat 64 x) = true := by decide +kernel
      simp only [resetWord]
      exact h _ (Nat.mod_lt _ (by decide))
    case SEC_DEV_ID =>
      rw [wordLegal_iff]
      intro i hi
      have := word_testBit hi
      simp only [Reg.fields, List.any_cons, List.any_nil, Bool.or_eq_true, Bool.and_eq_true, decide_eq_true_eq]
      omega
    all_goals exact (h rfl).elim

/-- A word that a register that is not fixed may take. -/
def wordOk (r : Reg) (w : Word) : Bool := !fixedReg r && wordLegal r w

/-- A field of a register that is not fixed. -/
def Fld.legal (f : Fld) : Bool :=
  !fixedReg f.reg && decide (f.lo ≤ f.hi) && f.reg.fields.any (fun g => decide (g.lo ≤ f.lo) && decide (f.hi ≤ g.hi))

theorem fldOk {f : Fld} (h : f.legal = true) : f.legal = true := h

theorem fldIte {c : Prop} [Decidable c] {f g : Fld} (hf : f.legal = true) (hg : g.legal = true) :
    (if c then f else g).legal = true := by split <;> assumption

/-- Zero is legal everywhere. -/
theorem wordOk_zero {r : Reg} (h : fixedReg r = false) : wordOk r 0 = true := by
  simp only [wordOk, h, Bool.not_false, Bool.true_and, wordLegal_iff]
  intro i hi
  simp at hi

/-- A register that is one field of 64 bits. -/
def Reg.whole (r : Reg) : Bool := !fixedReg r && r.fields.any (fun f => decide (f.lo = 0) && decide (f.hi = 63))

/-- It takes any word. -/
theorem wordOk_whole {r : Reg} {w : Word} (h : r.whole = true) : wordOk r w = true := by
  simp only [Reg.whole, Bool.and_eq_true] at h
  simp only [wordOk, h.1, Bool.true_and, wordLegal_iff]
  intro i hi
  obtain ⟨f, hm, hf⟩ := List.any_eq_true.1 h.2
  simp only [Bool.and_eq_true, decide_eq_true_eq] at hf
  refine List.any_eq_true.2 ⟨f, hm, ?_⟩
  have := word_testBit hi
  simp only [Bool.and_eq_true, decide_eq_true_eq]
  omega

/-- A store reads its default, or an entry. -/
theorem storeGet_mem {α : Type} (d : α) (st : Store α) (k : Nat) : storeGet d st k = d ∨ (k, storeGet d st k) ∈ st := by
  induction st with
  | nil => exact .inl rfl
  | cons e st ih =>
    obtain ⟨j, v⟩ := e
    rw [storeGet_cons]
    split
    · next h => subst h; exact .inr (List.mem_cons_self ..)
    · rcases ih with h | h
      · exact .inl h
      · exact .inr (List.mem_cons_of_mem _ h)

/-- What every entry satisfies, every entry satisfies after a write that satisfies it. -/
theorem storeSet_all {α : Type} [DecidableEq α] {p : Nat × α → Bool} {d v : α} {st : Store α} {k : Nat} (h : st.all p = true)
    (hv : v = d ∨ p (k, v) = true) : (storeSet d st k v).all p = true := by
  have he : ∀ e ∈ storeErase st k, p e = true := fun e hm => List.all_eq_true.1 h e (List.mem_of_mem_filter hm)
  rw [List.all_eq_true]
  intro e hm
  unfold storeSet at hm
  split at hm
  · exact he e hm
  · next hd =>
    rcases hv with hv | hv
    · exact absurd hv hd
    · rcases mem_storeInsert _ _ _ _ hm with h1 | h1
      · rw [h1]; exact hv
      · exact he e h1

theorem regKey_code (r : Reg) (a b : Nat) : Reg.ofCode (regKey r a b / 65536 / 65536) = r := by
  rw [show regKey r a b / 65536 / 65536 = r.code by unfold regKey; omega]
  exact Reg.ofCode_code r

/-- A write of any store keeps its keys rising. -/
theorem storeRising_storeSet {α : Type} [DecidableEq α] {d : α} {st : Store α} {k : Nat} {v : α}
    (h : storeRising 0 st = true) : storeRising 0 (storeSet d st k v) = true := by
  have he : storeRising 0 (storeErase st k) = true := storeRising_filter _ 0 st h
  simp only [storeSet]
  split
  · exact he
  · exact storeRising_storeInsert 0 k v _ (by omega) he (storeErase_ne st k)

/-- Every register of a sound state reads with its reserved fields zero (R16). -/
theorem Sound.reg_legal {s : State} (h : Sound s) (r : Reg) (a b : Nat) : wordLegal r (s.reg r a b) = true := by
  rcases storeGet_mem (resetWord s.pkg r a b) s.regs (regKey r a b) with e | e
  · unfold State.reg; rw [e]; exact resetWord_legal _ _ _ _
  · have := List.all_eq_true.1 h.fields _ e
    simp only [entryLegal, regKey_code, Bool.and_eq_true] at this
    exact this.2

/-- A fixed register of a sound state reads its reset value. -/
theorem Sound.reg_fixed {s : State} (h : Sound s) (r : Reg) (a b : Nat) (hf : fixedReg r = true) :
    s.reg r a b = resetWord s.pkg r a b := by
  rcases storeGet_mem (resetWord s.pkg r a b) s.regs (regKey r a b) with e | e
  · exact e
  · have := List.all_eq_true.1 h.fields _ e
    simp only [entryLegal, regKey_code, Bool.and_eq_true, hf, Bool.not_true, Bool.false_eq_true, false_and] at this

/-- A word that a register already holds. -/
theorem Sound.wordOk_self {s : State} {r : Reg} {a b : Nat} (h : Sound s) (hf : fixedReg r = false) :
    wordOk r (s.reg r a b) = true := by
  simp only [wordOk, hf, Bool.not_false, Bool.true_and]
  exact h.reg_legal r a b

/-- A state stays sound when a legal word is set, or the reset word. -/
theorem Sound.setReg {s : State} {r : Reg} {a b : Nat} {w : Word} (h : Sound s)
    (hw : w = resetWord s.pkg r a b ∨ wordOk r w = true) : Sound (s.setReg r a b w) := by
  refine ⟨h.mem, storeRising_storeSet h.regs, storeSet_all h.fields ?_⟩
  rcases hw with hw | hw
  · exact .inl hw
  · refine .inr ?_
    simp only [entryLegal, regKey_code]
    exact hw

end Sys2Proof.Machine
end

