-- ==== Sys2Proof/Laws/Kept.lean ====
section
/-! SUPPORT. What a step keeps, and how it passes through updates, folds and outcomes: the package, the commands that wait, a
sound memory and register file, and the portions of the state that are held as they were. -/

namespace Sys2Proof.Machine
open Sys2Proof

/-- A sound state of the package `p` with the commands `q` waiting, which has the portions that `H` holds as the state `z`
has them. -/
structure Kept (p : Package) (q : List Instr) (H : Portion → Bool) (z s : State) : Prop where
  pkg : s.pkg = p
  pending : s.pending = q
  sound : Sound s
  same : ∀ x, H x = true → same x z s

/-- An outcome that goes on goes on in a kept state. -/
def Kept.Outcome (p : Package) (q : List Instr) (H : Portion → Bool) (z : State) (x : Host.Outcome State Fault Refusal) : Prop :=
  ∀ t, x = .next t → Kept p q H z t

variable {pk : Package} {wq : List Instr} {H : Portion → Bool} {z0 : State}

/-- What is not held of a list is not held of a shorter one. -/
theorem held_sub {l l' : List Portion} (h : ∀ x ∈ l, H x = false) (e : l'.all (fun x => l.contains x) = true) : ∀ x ∈ l', H x = false :=
  fun x hx => h x (List.contains_iff_mem.1 (List.all_eq_true.1 e x hx))

theorem held_one {l : List Portion} {x : Portion} (h : ∀ x ∈ l, H x = false) (e : l.contains x = true) : H x = false :=
  h x (List.contains_iff_mem.1 e)

theorem held_or {p q : Prop} {x : Portion} (h : p → q) (hx : H x = true) (c : p ∨ H x = false) : q := by
  rcases c with c | c
  · exact h c
  · rw [hx] at c; cases c

/-- An update of other fields, or of portions not held, keeps them. -/
theorem Kept.frame_iff
    {s : State} {svn : Store Nat} {counts : Store Nat} {lanes : Store Lane} {xturn : Store Nat} {armed : Store Nat}
    {hbrArmed : Bool} {egress : Store (List Flit)} {heads : Store Nat} {ports : Store LinkPort}
    {claimWait : Option Nat} {reads : Store ReadReq} {readsWaiting : List (Nat × ReadReq)}
    {readData : List (Nat × ReadReq)} {bad : Store (Store Nat)} {rowErrs : Store Nat} {repairs : List Nat}
    {withdrawn : List Nat} {unrepairable : List Nat} {sweepBad : List (Nat × Nat)} {fns : Store FnState}
    {queues : Store Queue} {islets : Store Islet} {packets : List Packet} {launches : Store Launch} {nextLaunch : Nat}
    {pastLaunches : Store Nat} {staging : List Nat} {stagingBusy : Bool} {mlPorts : Store MlPort} {held : List Access}
    {served : List Served} {jobs : Store Job} {lead : Lead} {actions : Store Action} {nextAction : Nat}
    {snapSent : List Nat} {restarting : List Nat} {watchdogs : Store Nat} {records : Store FnRecord}
    {leases : Store (List Lease)} {reefs : Store ReefStack} {jqueue : List JournalRecord}
    {mctpOut : List (Nat × List Byte)} {gov : Gov} {pins : Pins} {jtag : Jtag} {mctp : Mctp} {fw : Fw} {jnl : Journal}
    {drains : Store Drain} {enablePend : Store Nat} {rotations : Store Nat} {drbgCount : Nat} {freeCtr : Nat}
    {ticks : Nat}
    (cIslets : islets = s.islets ∨ H .islets = false) (cFns : fns = s.fns ∨ H .fns = false)
    (cOptim : fns = s.fns ∨ H .optim = false) (cQueues : queues = s.queues ∨ H .queues = false)
    (cJobs : jobs = s.jobs ∨ H .jobs = false) (cReefs : reefs = s.reefs ∨ H .reefs = false)
    (cPorts : ports = s.ports ∨ H .ports = false)
    (cEgress : (egress = s.egress ∧ heads = s.heads) ∨ H .egress = false) (cLead : lead = s.lead ∨ H .lead = false)
    (cActions : (actions = s.actions ∧ nextAction = s.nextAction) ∨ H .actions = false)
    (cGov : gov = s.gov ∨ H .gov = false) (cLanes : (lanes = s.lanes ∧ xturn = s.xturn) ∨ H .lanes = false)
    (cPins : pins = s.pins ∨ H .pins = false) (cJtag : jtag = s.jtag ∨ H .jtag = false)
    (cMctp : (mctp = s.mctp ∧ mctpOut = s.mctpOut) ∨ H .mctp = false) (cJnl : jnl = s.jnl ∨ H .jnl = false)
    (cArmed : (armed = s.armed ∧ hbrArmed = s.hbrArmed) ∨ H .armed = false)
    (cWatchdogs : watchdogs = s.watchdogs ∨ H .watchdogs = false) (cCounts : counts = s.counts ∨ H .counts = false)
    (cTicks : ticks = s.ticks ∨ H .ticks = false) :
    Kept pk wq H z0
    ⟨s.pkg, svn, s.regs, counts, lanes, xturn, armed, hbrArmed, egress, heads, ports, claimWait, reads, readsWaiting,
    readData, s.mem, bad, rowErrs, repairs, withdrawn, unrepairable, sweepBad, fns, queues, islets, packets, launches,
    nextLaunch, pastLaunches, staging, stagingBusy, mlPorts, held, served, jobs, lead, actions, nextAction, snapSent,
    restarting, watchdogs, records, leases, reefs, jqueue, mctpOut, gov, pins, jtag, mctp, fw, jnl, drains,
    enablePend, rotations, drbgCount, freeCtr, ticks, s.pending⟩ ↔
    Kept pk wq H z0 s := by
  constructor
  · intro h
    refine ⟨h.pkg, h.pending, ⟨h.sound.mem, h.sound.regs, h.sound.fields⟩, fun x hx => ?_⟩
    cases x with
    | mem => exact h.same .mem hx
    | block b => exact h.same (.block b) hx
    | islets => exact held_or (fun e => e.symm.trans (h.same .islets hx)) hx cIslets
    | fns => exact held_or (fun e => e.symm.trans (h.same .fns hx)) hx cFns
    | optim => exact held_or (fun e fn => by have k := h.same .optim hx fn; unfold State.fnState at k ⊢; rw [← e]; exact k) hx cOptim
    | queues => exact held_or (fun e => e.symm.trans (h.same .queues hx)) hx cQueues
    | jobs => exact held_or (fun e => e.symm.trans (h.same .jobs hx)) hx cJobs
    | reefs => exact held_or (fun e => e.symm.trans (h.same .reefs hx)) hx cReefs
    | ports => exact held_or (fun e => e.symm.trans (h.same .ports hx)) hx cPorts
    | egress => exact held_or (fun e => ⟨e.1.symm.trans (h.same .egress hx).1, e.2.symm.trans (h.same .egress hx).2⟩) hx cEgress
    | lead => exact held_or (fun e => e.symm.trans (h.same .lead hx)) hx cLead
    | actions => exact held_or (fun e => ⟨e.1.symm.trans (h.same .actions hx).1, e.2.symm.trans (h.same .actions hx).2⟩) hx cActions
    | gov => exact held_or (fun e => e.symm.trans (h.same .gov hx)) hx cGov
    | lanes => exact held_or (fun e => ⟨e.1.symm.trans (h.same .lanes hx).1, e.2.symm.trans (h.same .lanes hx).2⟩) hx cLanes
    | pins => exact held_or (fun e => e.symm.trans (h.same .pins hx)) hx cPins
    | jtag => exact held_or (fun e => e.symm.trans (h.same .jtag hx)) hx cJtag
    | mctp => exact held_or (fun e => ⟨e.1.symm.trans (h.same .mctp hx).1, e.2.symm.trans (h.same .mctp hx).2⟩) hx cMctp
    | jnl => exact held_or (fun e => e.symm.trans (h.same .jnl hx)) hx cJnl
    | armed => exact held_or (fun e => ⟨e.1.symm.trans (h.same .armed hx).1, e.2.symm.trans (h.same .armed hx).2⟩) hx cArmed
    | watchdogs => exact held_or (fun e => e.symm.trans (h.same .watchdogs hx)) hx cWatchdogs
    | counts => exact held_or (fun e => e.symm.trans (h.same .counts hx)) hx cCounts
    | ticks => exact held_or (fun e => e.symm.trans (h.same .ticks hx)) hx cTicks
  · intro h
    refine ⟨h.pkg, h.pending, ⟨h.sound.mem, h.sound.regs, h.sound.fields⟩, fun x hx => ?_⟩
    cases x with
    | mem => exact h.same .mem hx
    | block b => exact h.same (.block b) hx
    | islets => exact held_or (fun e => e.trans (h.same .islets hx)) hx cIslets
    | fns => exact held_or (fun e => e.trans (h.same .fns hx)) hx cFns
    | optim => exact held_or (fun e fn => by have k := h.same .optim hx fn; unfold State.fnState at k ⊢; rw [e]; exact k) hx cOptim
    | queues => exact held_or (fun e => e.trans (h.same .queues hx)) hx cQueues
    | jobs => exact held_or (fun e => e.trans (h.same .jobs hx)) hx cJobs
    | reefs => exact held_or (fun e => e.trans (h.same .reefs hx)) hx cReefs
    | ports => exact held_or (fun e => e.trans (h.same .ports hx)) hx cPorts
    | egress => exact held_or (fun e => ⟨e.1.trans (h.same .egress hx).1, e.2.trans (h.same .egress hx).2⟩) hx cEgress
    | lead => exact held_or (fun e => e.trans (h.same .lead hx)) hx cLead
    | actions => exact held_or (fun e => ⟨e.1.trans (h.same .actions hx).1, e.2.trans (h.same .actions hx).2⟩) hx cActions
    | gov => exact held_or (fun e => e.trans (h.same .gov hx)) hx cGov
    | lanes => exact held_or (fun e => ⟨e.1.trans (h.same .lanes hx).1, e.2.trans (h.same .lanes hx).2⟩) hx cLanes
    | pins => exact held_or (fun e => e.trans (h.same .pins hx)) hx cPins
    | jtag => exact held_or (fun e => e.trans (h.same .jtag hx)) hx cJtag
    | mctp => exact held_or (fun e => ⟨e.1.trans (h.same .mctp hx).1, e.2.trans (h.same .mctp hx).2⟩) hx cMctp
    | jnl => exact held_or (fun e => e.trans (h.same .jnl hx)) hx cJnl
    | armed => exact held_or (fun e => ⟨e.1.trans (h.same .armed hx).1, e.2.trans (h.same .armed hx).2⟩) hx cArmed
    | watchdogs => exact held_or (fun e => e.trans (h.same .watchdogs hx)) hx cWatchdogs
    | counts => exact held_or (fun e => e.trans (h.same .counts hx)) hx cCounts
    | ticks => exact held_or (fun e => e.trans (h.same .ticks hx)) hx cTicks

/-- A memory in canonical form, where memory is not held. -/
theorem Kept.memory {s : State} {m : Memory} (hm : H .mem = false) (h : Kept pk wq H z0 s) (hw : Memory.wf m = true) :
    Kept pk wq H z0 { s with mem := m } := by
  refine ⟨h.pkg, h.pending, ⟨hw, h.sound.regs, h.sound.fields⟩, fun x hx => ?_⟩
  cases x with
  | mem => rw [hm] at hx; cases hx
  | _ => exact h.same _ hx

/-- A memory in canonical form with its errors and leases, where memory is not held. -/
theorem Kept.memoryAnd {s : State} {m : Memory} {bad : Store (List (Nat × Nat))} {rowErrs : Store Nat} {reefs : Store ReefStack} {leases : Store (List Lease)}
    (hm : H .mem = false) (hr : reefs = s.reefs ∨ H .reefs = false) (hw : Memory.wf m = true) (h : Kept pk wq H z0 s) :
    Kept pk wq H z0 { s with mem := m, bad := bad, rowErrs := rowErrs, reefs := reefs, leases := leases } := by
  refine ⟨h.pkg, h.pending, ⟨hw, h.sound.regs, h.sound.fields⟩, fun x hx => ?_⟩
  cases x with
  | mem => rw [hm] at hx; cases hx
  | reefs => exact held_or (fun e => e.trans (h.same .reefs hx)) hx hr
  | _ => exact h.same _ hx

/-- The registers of the first block are fixed. -/
theorem pkgBlock_fixed {r : Reg} (h : regBlock r = .pkg) : fixedReg r = true := by
  have k : Reg.all.all (fun r => !(regBlock r == .pkg) || fixedReg r) = true := by decide +kernel
  have := List.all_eq_true.1 k r (Reg.mem_all r)
  rw [h] at this
  simpa using this

/-- A sound register file, where no other block is held. -/
theorem Kept.regs {s : State} {w : Store Word}
    (hH : ∀ x ∈ ([.block .str, .block .img, .block .isl, .block .mem, .block .pipe, .block .reef, .block .jl, .block .red, .block .opt,
      .block .svc, .block .sec, .block .hbr] : List Portion), H x = false)
    (h : Kept pk wq H z0 s) (hr : storeRising 0 w = true) (hf : w.all entryLegal = true) : Kept pk wq H z0 { s with regs := w } := by
  have hs : Sound { s with regs := w } := ⟨h.sound.mem, hr, hf⟩
  refine ⟨h.pkg, h.pending, hs, fun x hx => ?_⟩
  have no (hm : x ∈ ([.block .str, .block .img, .block .isl, .block .mem, .block .pipe, .block .reef, .block .jl, .block .red, .block .opt,
      .block .svc, .block .sec, .block .hbr] : List Portion)) : False := by rw [hH x hm] at hx; cases hx
  cases x with
  | block k =>
    cases k with
    | pkg =>
      intro r a b hk
      have := h.same _ hx r a b hk
      rw [← this, h.sound.reg_fixed r a b (pkgBlock_fixed hk), hs.reg_fixed r a b (pkgBlock_fixed hk)]
    | _ => exact (no (List.contains_iff_mem.1 rfl)).elim
  | _ => exact h.same _ hx

/-- A register set to a legal word, or to its reset word, where its block is not held. -/
theorem State.setReg_kept_or {s : State} {r : Reg} {a b : Nat} {w : Word} (hw : w = resetWord s.pkg r a b ∨ wordOk r w = true)
    (hb : H (.block (regBlock r)) = false) (h : Kept pk wq H z0 s) : Kept pk wq H z0 (s.setReg r a b w) := by
  refine ⟨h.pkg, h.pending, h.sound.setReg hw, fun x hx => ?_⟩
  cases x with
  | block k =>
    intro r' a' b' hr
    rw [State.reg_setReg_ne, h.same _ hx r' a' b' hr]
    intro e
    subst e
    rw [← hr, hb] at hx
    cases hx
  | _ => exact h.same _ hx

theorem fldIte_held {c : Prop} [Decidable c] {f g : Fld} (hf : H (.block (regBlock f.reg)) = false)
    (hg : H (.block (regBlock g.reg)) = false) : H (.block (regBlock (if c then f else g).reg)) = false := by split <;> assumption

theorem foldl_kept {α : Type} {f : State → α → State} {l : List α} {s : State} (h : Kept pk wq H z0 s)
    (hf : ∀ s x, Kept pk wq H z0 s → Kept pk wq H z0 (f s x)) : Kept pk wq H z0 (l.foldl f s) := by
  induction l generalizing s with
  | nil => exact h
  | cons x l ih => exact ih (hf s x h)

theorem foldlP_kept {α β : Type} {f : State × β → α → State × β} {l : List α} {y : State × β} (h : Kept pk wq H z0 y.1)
    (hf : ∀ y x, Kept pk wq H z0 y.1 → Kept pk wq H z0 (f y x).1) : Kept pk wq H z0 (l.foldl f y).1 := by
  induction l generalizing y with
  | nil => exact h
  | cons x l ih => exact ih (hf y x h)

theorem foldlP_kept' {α β : Type} {f : State × β → α → State × β} {l : List α} {y : State × β} {t : State} {z : β}
    (e : l.foldl f y = (t, z)) (h : Kept pk wq H z0 y.1) (hf : ∀ y x, Kept pk wq H z0 y.1 → Kept pk wq H z0 (f y x).1) : Kept pk wq H z0 t := by
  have k := foldlP_kept (l := l) h hf
  rw [e] at k; exact k

theorem Kept.next {s : State} (h : Kept pk wq H z0 s) : Kept.Outcome pk wq H z0 (.next s) := fun _ e => by cases e; exact h
theorem Kept.fault {f : Fault} : Kept.Outcome pk wq H z0 (.fault f) := fun _ e => by cases e
theorem Kept.refused {f : Refusal} : Kept.Outcome pk wq H z0 (.refused f) := fun _ e => by cases e

theorem Kept.out {x : Host.Outcome State Fault Refusal} {t : State} (h : Kept.Outcome pk wq H z0 x) (e : x = .next t) : Kept pk wq H z0 t := h t e

/-- An option that holds a state holds a kept one. -/
def KeptSome (pk : Package) (wq : List Instr) (H : Portion → Bool) (z0 : State) (o : Option State) : Prop := ∀ t, o = some t → Kept pk wq H z0 t

/-- An option that holds a state and more holds a kept one. -/
def KeptIn {α : Type} (pk : Package) (wq : List Instr) (H : Portion → Bool) (z0 : State) (o : Option (State × α)) : Prop := ∀ y, o = some y → Kept pk wq H z0 y.1

theorem KeptSome.none : KeptSome pk wq H z0 none := fun _ e => by cases e
theorem KeptSome.some {s : State} (h : Kept pk wq H z0 s) : KeptSome pk wq H z0 (some s) := fun _ e => by cases e; exact h
theorem id_kept {s : State} (h : Kept pk wq H z0 s) : Kept pk wq H z0 (id s) := h
theorem getD_kept {o : Option State} {s : State} (h : KeptSome pk wq H z0 o) (hs : Kept pk wq H z0 s) : Kept pk wq H z0 (o.getD s) := by
  cases o with
  | none => exact hs
  | some t => exact h t rfl
theorem mapFst_kept {α : Type} {o : Option (State × α)} (h : KeptIn pk wq H z0 o) : KeptSome pk wq H z0 (o.map Prod.fst) := by
  cases o with
  | none => intro t e; cases e
  | some y => intro t e; cases e; exact h y rfl

/-! A choice keeps them where both sides do. -/

theorem ite_kept {c : Prop} [Decidable c] {a b : State} (ha : Kept pk wq H z0 a) (hb : Kept pk wq H z0 b) :
    Kept pk wq H z0 (if c then a else b) := by split <;> assumption
theorem iteP_kept {c : Prop} [Decidable c] {α : Type} {a b : State × α} (ha : Kept pk wq H z0 a.1) (hb : Kept pk wq H z0 b.1) :
    Kept pk wq H z0 (if c then a else b).1 := by split <;> assumption
theorem iteO_kept {c : Prop} [Decidable c] {a b : Host.Outcome State Fault Refusal} (ha : Kept.Outcome pk wq H z0 a)
    (hb : Kept.Outcome pk wq H z0 b) : Kept.Outcome pk wq H z0 (if c then a else b) := by split <;> assumption
theorem iteS_kept {c : Prop} [Decidable c] {a b : Option State} (ha : KeptSome pk wq H z0 a) (hb : KeptSome pk wq H z0 b) :
    KeptSome pk wq H z0 (if c then a else b) := by split <;> assumption

theorem KeptIn.none {α : Type} : KeptIn (α := α) pk wq H z0 none := fun _ e => by cases e
theorem KeptIn.some {α : Type} {y : State × α} (h : Kept pk wq H z0 y.1) : KeptIn pk wq H z0 (some y) := fun _ e => by
  cases e; exact h

end Sys2Proof.Machine
end

