-- ==== Sys2Proof/Laws/KeptOps.lean ====
section
/-! SUPPORT. What the operations of Ops.lean keep. -/

namespace Sys2Proof.Machine
open Sys2Proof

variable {pk : Package} {wq : List Instr} {H : Portion → Bool} {z0 : State}

theorem State.unserved_kept {s : State} (hk0 : Kept pk wq H z0 s) : Kept pk wq H z0 (State.unserved s) := by
  unfold State.unserved
  repeat' (first
    | with_reducible assumption | simp only [Kept.frame_iff, and_self, true_or, or_true] | with_reducible intro _
    | dsimp only | split)

theorem State.setReg_kept {s : State} {r : Reg} {a b : Nat} {w : Word} (hw : wordOk r w = true)
    (hb : H (.block (regBlock r)) = false) (h : Kept pk wq H z0 s) : Kept pk wq H z0 (s.setReg r a b w) :=
  State.setReg_kept_or (.inr hw) hb h

theorem State.setFld_kept {s : State} {f : Fld} {a b v : Nat} (hf : f.legal = true)
    (hb : H (.block (regBlock f.reg)) = false)
    (h : Kept pk wq H z0 s) : Kept pk wq H z0 (s.setFld f a b v) := by
  simp only [Fld.legal, Bool.and_eq_true] at hf
  obtain ⟨⟨h1, h2⟩, h3⟩ := hf
  refine State.setReg_kept (r := f.reg) ?_ hb h
  simp only [wordOk, h1, Bool.true_and]
  exact wordLegal_field (h.sound.reg_legal f.reg a b) h3 (of_decide_eq_true h2)

theorem State.addFld_kept {s : State} {f : Fld} {a : Nat} {b : Nat} {n : Nat} (hff : f.legal = true)
    (hbf : H (.block (regBlock f.reg)) = false) (hk0 : Kept pk wq H z0 s) : Kept pk wq H z0 (State.addFld s f a b n)
    := by
  unfold State.addFld
  repeat' (first
    | with_reducible assumption | exact held_sub hH rfl | exact held_one hH rfl | exact fldOk rfl
    | with_reducible refine State.setFld_kept ?_ ?_ ?_ | with_reducible intro _ | dsimp only | split)

theorem State.satFld_kept {s : State} {f : Fld} {a : Nat} {b : Nat} {n : Nat} (hff : f.legal = true)
    (hbf : H (.block (regBlock f.reg)) = false) (hk0 : Kept pk wq H z0 s) : Kept pk wq H z0 (State.satFld s f a b n)
    := by
  unfold State.satFld
  repeat' (first
    | with_reducible assumption | exact held_sub hH rfl | exact held_one hH rfl | exact fldOk rfl
    | with_reducible refine State.setFld_kept ?_ ?_ ?_ | with_reducible intro _ | dsimp only | split)

theorem accessMask_fields (r : Reg) (acc : RegAccess) : wordLegal r (BitVec.ofNat 64 (accessMask r acc)) = true := by
  have h : Reg.all.all (fun r => [RegAccess.RO, .RW, .RW1C, .WO].all (fun a => wordLegal r (BitVec.ofNat 64 (accessMask r a)))) = true := by
    decide +kernel
  exact List.all_eq_true.1 (List.all_eq_true.1 h r (Reg.mem_all r)) acc (by cases acc <;> decide)

theorem writtenWord_legal {r : Reg} {old w : Word} (h : wordLegal r old = true) : wordLegal r (writtenWord r old w) =
    true := by
  have hm := accessMask_fields r .RW
  rw [wordLegal_iff] at h hm ⊢
  intro i hi
  simp only [writtenWord, BitVec.toNat_and, BitVec.toNat_or, Nat.testBit_and, Nat.testBit_or, Bool.and_eq_true, Bool.or_eq_true] at hi
  rcases hi.1 with hi | hi
  · exact h i hi.1
  · exact hm i hi.2

theorem writtenWord_fixed {r : Reg} {old w : Word} (h : fixedReg r = true) : writtenWord r old w = old := by
  have e : BitVec.ofNat 64 (accessMask r .RW) = 0 ∧ BitVec.ofNat 64 (accessMask r .RW1C) = 0 := by
    have k : Reg.all.all (fun r => !fixedReg r || (BitVec.ofNat 64 (accessMask r .RW) == 0 && BitVec.ofNat 64 (accessMask r .RW1C) == 0)) = true := by
      decide +kernel
    have := List.all_eq_true.1 k r (Reg.mem_all r)
    simpa [h] using this
  simp only [writtenWord, e.1, e.2]
  have h : ~~~(0 : Word) = BitVec.allOnes 64 := by decide
  have h0 (x : Word) : x &&& 0 = 0 := by ext; simp
  have h1 (x : Word) : x ||| 0 = x := by ext; simp
  rw [h0, h, h1, BitVec.and_allOnes, BitVec.and_allOnes]

theorem State.writeReg_kept {s : State} {r : Reg} {a b : Nat} {w : Word} (hb : H (.block (regBlock r)) = false)
    (h : Kept pk wq H z0 s) : Kept pk wq H z0 (s.writeReg r a b w) := by
  refine State.setReg_kept_or ?_ hb h
  cases hf : fixedReg r with
  | true => exact .inl (by rw [writtenWord_fixed hf, h.sound.reg_fixed r a b hf]) | false =>
    refine .inr ?_
    simp only [wordOk, hf, Bool.not_false, Bool.true_and]
    exact writtenWord_legal (h.sound.reg_legal r a b)

/-- A write of any register, where no block with registers that change is held. -/
theorem State.writeReg_any {s : State} {r : Reg} {a b : Nat} {w : Word}
    (hH : ∀ x ∈ ([.block .str, .block .img, .block .isl, .block .mem, .block .pipe, .block .reef, .block .jl, .block .red, .block .opt, .block .svc, .block .sec, .block .hbr] : List Portion), H x = false)
    (h : Kept pk wq H z0 s) :
    Kept pk wq H z0 (s.writeReg r a b w) := by
  have k : Kept pk wq (fun _ => false) z0 s := ⟨h.pkg, h.pending, h.sound, fun _ e => by cases e⟩
  have k := State.writeReg_kept (r := r) (a := a) (b := b) (w := w) rfl k
  exact Kept.regs hH h k.sound.regs k.sound.fields

theorem State.clearRegs_kept {s : State} {f : Nat → Nat → Bool}
    (hH : ∀ x ∈ ([.block .str, .block .img, .block .isl, .block .mem, .block .pipe, .block .reef, .block .jl, .block .red, .block .opt, .block .svc, .block .sec, .block .hbr] : List Portion), H x = false)
    (h : Kept pk wq H z0 s) :
    Kept pk wq H z0 (s.clearRegs f) :=
  Kept.regs hH h (storeRising_filter _ 0 _ h.sound.regs)
    (List.all_eq_true.2 (fun e hm => List.all_eq_true.1 h.sound.fields e (List.mem_of_mem_filter hm)))

theorem State.setCount_kept {s : State} {i : Nat} {n : Nat} (hH : ∀ x ∈ ([.counts] : List Portion), H x = false)
    (hk0 : Kept pk wq H z0 s) : Kept pk wq H z0 (State.setCount s i n) := by
  have hCounts : H .counts = false := held_one hH rfl
  unfold State.setCount
  repeat' (first
    | with_reducible assumption | simp only [Kept.frame_iff, hCounts, and_self, true_or, or_true]
    | with_reducible intro _ | dsimp only | split)

theorem State.idleTick_kept {s : State} (hH : ∀ x ∈ ([.counts, .ticks] : List Portion), H x = false)
    (hk0 : Kept pk wq H z0 s) : Kept pk wq H z0 (State.idleTick s) := by
  have hTicks : H .ticks = false := held_one hH rfl
  unfold State.idleTick
  repeat' (first
    | with_reducible assumption | exact held_sub hH rfl | exact held_one hH rfl | exact fldOk rfl
    | with_reducible refine State.setCount_kept ?_ ?_ | with_reducible refine foldl_kept ?_ ?_
    | with_reducible refine ite_kept ?_ ?_ | with_reducible refine iteP_kept ?_ ?_
    | with_reducible refine foldlP_kept ?_ ?_
    | with_reducible refine foldlP_kept' (by with_reducible assumption) ?_ ?_
    | simp only [Kept.frame_iff, hTicks, and_self, true_or, or_true] | with_reducible intro _ | dsimp only | split)

theorem State.reachCount_kept {s : State} {i : Nat} {c : Nat} (hH : ∀ x ∈ ([.counts] : List Portion), H x = false)
    (hk0 : Kept pk wq H z0 s) : Kept pk wq H z0 (State.reachCount s i c) := by
  unfold State.reachCount
  repeat' (first
    | with_reducible assumption | exact held_sub hH rfl | exact held_one hH rfl | exact fldOk rfl
    | with_reducible refine State.setCount_kept ?_ ?_ | with_reducible intro _ | dsimp only | split)

theorem State.drawn_kept {s : State} (hk0 : Kept pk wq H z0 s) : Kept pk wq H z0 (State.drawn s) := by
  unfold State.drawn
  repeat' (first
    | with_reducible assumption | simp only [Kept.frame_iff, and_self, true_or, or_true] | with_reducible intro _
    | dsimp only | split)

theorem State.setLane_kept {s : State} {n : Nat} {ba : Bool} {cls : Nat} {l : Lane}
    (hH : ∀ x ∈ ([.lanes] : List Portion), H x = false) (hk0 : Kept pk wq H z0 s) : Kept pk wq H z0
    (State.setLane s n ba cls l) := by
  have hLanes : H .lanes = false := held_one hH rfl
  unfold State.setLane
  repeat' (first
    | with_reducible assumption | simp only [Kept.frame_iff, hLanes, and_self, true_or, or_true]
    | with_reducible intro _ | dsimp only | split)

theorem State.straitPut_kept {s : State} {src : Nat} {cls : Nat} {u : StraitUnit} {k : Nat}
    (hH : ∀ x ∈ ([.lanes] : List Portion), H x = false) (hk0 : Kept pk wq H z0 s) : Kept pk wq H z0
    (State.straitPut s src cls u k) := by
  unfold State.straitPut
  repeat' (first
    | with_reducible assumption | exact held_sub hH rfl | exact held_one hH rfl | exact fldOk rfl
    | with_reducible refine State.setLane_kept ?_ ?_ | with_reducible refine ite_kept ?_ ?_ | with_reducible intro _
    | dsimp only | split)

theorem State.straitOffer_kept {s : State} {src : Nat} {dst : Nat} {cls : Nat} {units : Nat}
    (hH : ∀ x ∈ ([.lanes] : List Portion), H x = false) (hk0 : Kept pk wq H z0 s) : Kept pk wq H z0
    (State.straitOffer s src dst cls units) := by
  unfold State.straitOffer
  repeat' (first
    | with_reducible assumption | exact held_sub hH rfl | exact held_one hH rfl | exact fldOk rfl
    | with_reducible refine State.straitPut_kept ?_ ?_ | simp only [Kept.frame_iff, and_self, true_or, or_true]
    | with_reducible intro _ | dsimp only | split)

theorem State.queueFlit_kept {s : State} {p : Nat} {f : Flit} (hH : ∀ x ∈ ([.egress] : List Portion), H x = false)
    (hk0 : Kept pk wq H z0 s) : Kept pk wq H z0 (State.queueFlit s p f) := by
  have hEgress : H .egress = false := held_one hH rfl
  unfold State.queueFlit
  repeat' (first
    | with_reducible assumption | with_reducible refine ite_kept ?_ ?_
    | simp only [Kept.frame_iff, hEgress, and_self, true_or, or_true] | with_reducible intro _ | dsimp only | split)

theorem State.endReads_kept {s : State} {st : Status} {p : Nat → ReadReq → Bool} (hk0 : Kept pk wq H z0 s) : Kept pk
    wq H z0 (State.endReads s st p) := by
  unfold State.endReads
  repeat' (first
    | with_reducible assumption | with_reducible refine mapFst_kept ?_
    | simp only [Kept.frame_iff, and_self, true_or, or_true] | with_reducible intro _ | dsimp only | split)

theorem State.failReads_kept {s : State} {p : Nat → ReadReq → Bool} (hk0 : Kept pk wq H z0 s) : Kept pk wq H z0
    (State.failReads s p) := by
  unfold State.failReads
  repeat' (first
    | with_reducible assumption | with_reducible refine State.endReads_kept ?_ | with_reducible intro _ | dsimp only
    | split)

theorem State.latchUnreach_kept {s : State} {fn : Nat} {dst : Nat} {addr : Nat} {reason : Nat}
    (hH : ∀ x ∈ ([.block .jl] : List Portion), H x = false) (hk0 : Kept pk wq H z0 s) : Kept pk wq H z0
    (State.latchUnreach s fn dst addr reason) := by
  unfold State.latchUnreach
  repeat' (first
    | with_reducible assumption | exact held_sub hH rfl | exact held_one hH rfl | exact fldOk rfl
    | with_reducible refine State.setFld_kept ?_ ?_ ?_ | with_reducible refine State.failReads_kept ?_
    | with_reducible refine ite_kept ?_ ?_ | with_reducible intro _ | dsimp only | split)

theorem State.sendAdapter_kept {s : State} {f : Flit}
    (hH : ∀ x ∈ ([.egress, .armed, .block .jl] : List Portion), H x = false) (hk0 : Kept pk wq H z0 s) : Kept pk wq H
    z0 (State.sendAdapter s f) := by
  have hArmed : H .armed = false := held_one hH rfl
  unfold State.sendAdapter
  repeat' (first
    | with_reducible assumption | exact held_sub hH rfl | exact held_one hH rfl | exact fldOk rfl
    | with_reducible refine State.satFld_kept ?_ ?_ ?_ | with_reducible refine State.queueFlit_kept ?_ ?_
    | with_reducible refine State.latchUnreach_kept ?_ ?_ | with_reducible refine ite_kept ?_ ?_
    | simp only [Kept.frame_iff, hArmed, and_self, true_or, or_true] | with_reducible intro _ | dsimp only | split)

theorem State.interrupt_kept {s : State} {fn : Nat} {vector : Nat}
    (hH : ∀ x ∈ ([.egress, .armed, .block .jl] : List Portion), H x = false) (hk0 : Kept pk wq H z0 s) : Kept pk wq H
    z0 (State.interrupt s fn vector) := by
  unfold State.interrupt
  repeat' (first
    | with_reducible assumption | exact held_sub hH rfl | exact held_one hH rfl | exact fldOk rfl
    | with_reducible refine State.sendAdapter_kept ?_ ?_ | simp only [Kept.frame_iff, and_self, true_or, or_true]
    | with_reducible intro _ | dsimp only | split)

theorem State.hostWrite_kept {s : State} {fn : Nat} {home : Nat} {cls : Nat} {addr : Nat} {bs : List Byte}
    (hH : ∀ x ∈ ([.egress, .lanes, .armed, .block .jl] : List Portion), H x = false) (hk0 : Kept pk wq H z0 s) : Kept
    pk wq H z0 (State.hostWrite s fn home cls addr bs) := by
  unfold State.hostWrite
  repeat' (first
    | with_reducible assumption | exact held_sub hH rfl | exact held_one hH rfl | exact fldOk rfl
    | with_reducible refine State.straitOffer_kept ?_ ?_ | with_reducible refine State.sendAdapter_kept ?_ ?_
    | with_reducible refine foldl_kept ?_ ?_ | with_reducible refine iteP_kept ?_ ?_
    | with_reducible refine foldlP_kept ?_ ?_
    | with_reducible refine foldlP_kept' (by with_reducible assumption) ?_ ?_
    | simp only [Kept.frame_iff, and_self, true_or, or_true] | with_reducible intro _ | dsimp only | split)

theorem State.setArmed_kept {s : State} {fn : Nat} {k : Nat} {b : Bool}
    (hH : ∀ x ∈ ([.armed] : List Portion), H x = false) (hk0 : Kept pk wq H z0 s) : Kept pk wq H z0
    (State.setArmed s fn k b) := by
  have hArmed : H .armed = false := held_one hH rfl
  unfold State.setArmed
  repeat' (first
    | with_reducible assumption | simp only [Kept.frame_iff, hArmed, and_self, true_or, or_true]
    | with_reducible intro _ | dsimp only | split)

theorem State.fireEvent_kept {s : State} {fn : Nat} {k : Nat}
    (hH : ∀ x ∈ ([.egress, .armed, .block .jl] : List Portion), H x = false) (hk0 : Kept pk wq H z0 s) : Kept pk wq H
    z0 (State.fireEvent s fn k) := by
  unfold State.fireEvent
  repeat' (first
    | with_reducible assumption | exact held_sub hH rfl | exact held_one hH rfl | exact fldOk rfl
    | with_reducible refine State.interrupt_kept ?_ ?_ | with_reducible refine State.setArmed_kept ?_ ?_
    | with_reducible refine ite_kept ?_ ?_ | with_reducible intro _ | dsimp only | split)

theorem State.sendTo_kept {s : State} {f : Flit}
    (hH : ∀ x ∈ ([.egress, .armed, .block .jl] : List Portion), H x = false) (hk0 : Kept pk wq H z0 s) : Kept pk wq H
    z0 (State.sendTo s f) := by
  unfold State.sendTo
  repeat' (first
    | with_reducible assumption | exact held_sub hH rfl | exact held_one hH rfl | exact fldOk rfl
    | with_reducible refine State.satFld_kept ?_ ?_ ?_ | with_reducible refine State.queueFlit_kept ?_ ?_
    | with_reducible refine State.latchUnreach_kept ?_ ?_ | with_reducible refine State.sendAdapter_kept ?_ ?_
    | with_reducible refine State.fireEvent_kept ?_ ?_ | with_reducible refine ite_kept ?_ ?_
    | simp only [Kept.frame_iff, and_self, true_or, or_true] | with_reducible intro _ | dsimp only | split)

theorem State.armEvent_kept {s : State} {fn : Nat} {k : Nat}
    (hH : ∀ x ∈ ([.egress, .armed, .block .jl] : List Portion), H x = false) (hk0 : Kept pk wq H z0 s) : Kept pk wq H
    z0 (State.armEvent s fn k) := by
  unfold State.armEvent
  repeat' (first
    | with_reducible assumption | exact held_sub hH rfl | exact held_one hH rfl | exact fldOk rfl
    | with_reducible refine State.setArmed_kept ?_ ?_ | with_reducible refine State.fireEvent_kept ?_ ?_
    | with_reducible refine ite_kept ?_ ?_ | with_reducible intro _ | dsimp only | split)

theorem State.fnEvent_kept {s : State} {fn : Nat} {k : Nat} {f : Fld} {a : Nat} (hff : f.legal = true)
    (hbf : H (.block (regBlock f.reg)) = false)
    (hH : ∀ x ∈ ([.egress, .armed, .block .jl] : List Portion), H x = false) (hk0 : Kept pk wq H z0 s) : Kept pk wq H
    z0 (State.fnEvent s fn k f a) := by
  unfold State.fnEvent
  repeat' (first
    | with_reducible assumption | exact held_sub hH rfl | exact held_one hH rfl | exact fldOk rfl
    | with_reducible refine State.setFld_kept ?_ ?_ ?_ | with_reducible refine State.fireEvent_kept ?_ ?_
    | with_reducible intro _ | dsimp only | split)

theorem State.hbrInterrupt_kept {s : State} (hH : ∀ x ∈ ([.egress, .armed, .block .jl] : List Portion), H x = false)
    (hk0 : Kept pk wq H z0 s) : Kept pk wq H z0 (State.hbrInterrupt s) := by
  have hArmed : H .armed = false := held_one hH rfl
  unfold State.hbrInterrupt
  repeat' (first
    | with_reducible assumption | exact held_sub hH rfl | exact held_one hH rfl | exact fldOk rfl
    | with_reducible refine State.interrupt_kept ?_ ?_ | with_reducible refine ite_kept ?_ ?_
    | simp only [Kept.frame_iff, hArmed, and_self, true_or, or_true] | with_reducible intro _ | dsimp only | split)

theorem State.pldmQueued_kept {s : State} {cls : Nat} {data : List Byte}
    (hH : ∀ x ∈ ([.mctp] : List Portion), H x = false) (hk0 : Kept pk wq H z0 s) : Kept pk wq H z0
    (State.pldmQueued s cls data) := by
  have hMctp : H .mctp = false := held_one hH rfl
  unfold State.pldmQueued
  repeat' (first
    | with_reducible assumption | with_reducible refine foldl_kept ?_ ?_ | with_reducible refine ite_kept ?_ ?_
    | with_reducible refine iteP_kept ?_ ?_ | with_reducible refine foldlP_kept ?_ ?_
    | with_reducible refine foldlP_kept' (by with_reducible assumption) ?_ ?_
    | simp only [Kept.frame_iff, hMctp, and_self, true_or, or_true] | with_reducible intro _ | dsimp only | split)

theorem State.mailboxFill_kept {s : State}
    (hH : ∀ x ∈ ([.egress, .mctp, .armed, .block .jl, .block .hbr] : List Portion), H x = false)
    (hk0 : Kept pk wq H z0 s) : Kept pk wq H z0 (State.mailboxFill s) := by
  have hMctp : H .mctp = false := held_one hH rfl
  unfold State.mailboxFill
  repeat' (first
    | with_reducible assumption | exact held_sub hH rfl | exact held_one hH rfl | exact fldOk rfl
    | exact wordOk_zero rfl | exact wordOk_whole rfl | with_reducible refine State.setReg_kept ?_ ?_ ?_
    | with_reducible refine State.setFld_kept ?_ ?_ ?_ | with_reducible refine State.hbrInterrupt_kept ?_ ?_
    | with_reducible refine State.pldmQueued_kept ?_ ?_ | with_reducible refine foldl_kept ?_ ?_
    | with_reducible refine ite_kept ?_ ?_ | with_reducible refine iteP_kept ?_ ?_
    | with_reducible refine foldlP_kept ?_ ?_
    | with_reducible refine foldlP_kept' (by with_reducible assumption) ?_ ?_
    | simp only [Kept.frame_iff, hMctp, and_self, true_or, or_true] | with_reducible intro _ | dsimp only | split)

theorem State.mctpSend_kept {s : State} {bind : Nat} {dest : Nat} {owner : Bool} {tag : Nat} {msg : List Byte}
    (hH : ∀ x ∈ ([.egress, .mctp, .armed, .block .jl, .block .hbr] : List Portion), H x = false)
    (hk0 : Kept pk wq H z0 s) : Kept pk wq H z0 (State.mctpSend s bind dest owner tag msg) := by
  have hMctp : H .mctp = false := held_one hH rfl
  unfold State.mctpSend
  repeat' (first
    | with_reducible assumption | exact held_sub hH rfl | exact held_one hH rfl | exact fldOk rfl
    | with_reducible refine State.mailboxFill_kept ?_ ?_
    | simp only [Kept.frame_iff, hMctp, and_self, true_or, or_true] | with_reducible intro _ | dsimp only | split)

theorem State.pldmSend_kept {s : State} {cls : Nat} {data : List Byte}
    (hH : ∀ x ∈ ([.egress, .mctp, .armed, .block .jl, .block .hbr] : List Portion), H x = false)
    (hk0 : Kept pk wq H z0 s) : Kept pk wq H z0 (State.pldmSend s cls data) := by
  unfold State.pldmSend
  repeat' (first
    | with_reducible assumption | exact held_sub hH rfl | exact held_one hH rfl | exact fldOk rfl
    | with_reducible refine State.pldmQueued_kept ?_ ?_ | with_reducible refine State.mailboxFill_kept ?_ ?_
    | with_reducible intro _ | dsimp only | split)

theorem State.pldmEvent_kept {s : State}
    (hH : ∀ x ∈ ([.egress, .mctp, .armed, .block .jl, .block .hbr] : List Portion), H x = false)
    (hk0 : Kept pk wq H z0 s) : Kept pk wq H z0 (State.pldmEvent s) := by
  unfold State.pldmEvent
  repeat' (first
    | with_reducible assumption | exact held_sub hH rfl | exact held_one hH rfl | exact fldOk rfl
    | with_reducible refine State.pldmSend_kept ?_ ?_ | with_reducible intro _ | dsimp only | split)

theorem State.fireHbr_kept {s : State}
    (hH : ∀ x ∈ ([.egress, .mctp, .armed, .block .jl, .block .hbr] : List Portion), H x = false)
    (hk0 : Kept pk wq H z0 s) : Kept pk wq H z0 (State.fireHbr s) := by
  unfold State.fireHbr
  repeat' (first
    | with_reducible assumption | exact held_sub hH rfl | exact held_one hH rfl | exact fldOk rfl
    | with_reducible refine State.hbrInterrupt_kept ?_ ?_ | with_reducible refine State.pldmEvent_kept ?_ ?_
    | with_reducible intro _ | dsimp only | split)

theorem State.armHbr_kept {s : State} (hH : ∀ x ∈ ([.egress, .armed, .block .jl] : List Portion), H x = false)
    (hk0 : Kept pk wq H z0 s) : Kept pk wq H z0 (State.armHbr s) := by
  have hArmed : H .armed = false := held_one hH rfl
  unfold State.armHbr
  repeat' (first
    | with_reducible assumption | exact held_sub hH rfl | exact held_one hH rfl | exact fldOk rfl
    | with_reducible refine State.hbrInterrupt_kept ?_ ?_ | with_reducible refine ite_kept ?_ ?_
    | simp only [Kept.frame_iff, hArmed, and_self, true_or, or_true] | with_reducible intro _ | dsimp only | split)

theorem State.hbrEvent_kept {s : State} {f : Fld} (hff : f.legal = true) (hbf : H (.block (regBlock f.reg)) = false)
    (hH : ∀ x ∈ ([.egress, .mctp, .armed, .block .jl, .block .hbr] : List Portion), H x = false)
    (hk0 : Kept pk wq H z0 s) : Kept pk wq H z0 (State.hbrEvent s f) := by
  unfold State.hbrEvent
  repeat' (first
    | with_reducible assumption | exact held_sub hH rfl | exact held_one hH rfl | exact fldOk rfl
    | with_reducible refine State.setFld_kept ?_ ?_ ?_ | with_reducible refine State.fireHbr_kept ?_ ?_
    | with_reducible intro _ | dsimp only | split)

theorem State.journal_kept {s : State} {type : Nat} {payload : List Byte}
    (hH : ∀ x ∈ ([.egress, .mctp, .armed, .block .jl, .block .hbr] : List Portion), H x = false)
    (hk0 : Kept pk wq H z0 s) : Kept pk wq H z0 (State.journal s type payload) := by
  unfold State.journal
  repeat' (first
    | with_reducible assumption | exact held_sub hH rfl | exact held_one hH rfl | exact fldOk rfl
    | with_reducible refine State.addFld_kept ?_ ?_ ?_ | with_reducible refine State.satFld_kept ?_ ?_ ?_
    | with_reducible refine State.hbrEvent_kept ?_ ?_ ?_ ?_ | with_reducible refine ite_kept ?_ ?_
    | simp only [Kept.frame_iff, and_self, true_or, or_true] | with_reducible intro _ | dsimp only | split)

theorem State.modFn_kept {s : State} {fn : Nat} {f : FnState → FnState}
    (hf : (∀ x, (f x).optim = x.optim) ∨ H .optim = false)
    (hH : ∀ x ∈ ([.fns] : List Portion), H x = false) (h : Kept pk wq H z0 s) : Kept pk wq H z0 (s.modFn fn f) := by
  refine ⟨h.pkg, h.pending, ⟨h.sound.mem, h.sound.regs, h.sound.fields⟩, fun x hx => ?_⟩
  cases x with
  | fns => rw [held_one hH rfl] at hx; cases hx | optim =>
    refine held_or (fun e n => ?_) hx hf
    rw [← h.same .optim hx n]
    change (storeGet {} (storeSet {} s.fns fn (f (s.fnState fn))) n).optim = (storeGet {} s.fns n).optim
    rw [storeGet_storeSet]
    split
    · next k => rw [k, e]; rfl
    · rfl
  | _ => exact h.same _ hx

theorem State.setQueue_kept {s : State} {fn : Nat} {q : Nat} {v : Queue}
    (hH : ∀ x ∈ ([.queues] : List Portion), H x = false) (hk0 : Kept pk wq H z0 s) : Kept pk wq H z0
    (State.setQueue s fn q v) := by
  have hQueues : H .queues = false := held_one hH rfl
  unfold State.setQueue
  repeat' (first
    | with_reducible assumption | simp only [Kept.frame_iff, hQueues, and_self, true_or, or_true]
    | with_reducible intro _ | dsimp only | split)

theorem State.queueDrained_kept {s : State} {fn : Nat} {q : Nat}
    (hH : ∀ x ∈ ([.queues, .block .svc] : List Portion), H x = false) (hk0 : Kept pk wq H z0 s) : Kept pk wq H z0
    (State.queueDrained s fn q) := by
  unfold State.queueDrained
  repeat' (first
    | with_reducible assumption | exact held_sub hH rfl | exact held_one hH rfl | exact fldOk rfl
    | with_reducible refine State.setFld_kept ?_ ?_ ?_ | with_reducible refine State.setQueue_kept ?_ ?_
    | with_reducible refine ite_kept ?_ ?_ | with_reducible intro _ | dsimp only | split)

theorem State.completeCommand_kept {s : State} {r : CmdRef} {st : Status} {detail : Nat} {result : List Byte}
    (hH : ∀ x ∈ ([.fns, .queues, .block .svc] : List Portion), H x = false) (hk0 : Kept pk wq H z0 s) : Kept pk wq H
    z0 (State.completeCommand s r st detail result) := by
  unfold State.completeCommand
  repeat' (first
    | with_reducible assumption | exact held_sub hH rfl | exact held_one hH rfl | exact fldOk rfl
    | exact .inl (fun _ => rfl) | exact .inr (held_one hH rfl)
    | exact .inl (fun x => by dsimp only; repeat' split <;> rfl) | with_reducible refine State.modFn_kept ?_ ?_ ?_
    | with_reducible refine State.setQueue_kept ?_ ?_ | with_reducible refine State.queueDrained_kept ?_ ?_
    | with_reducible refine ite_kept ?_ ?_ | simp only [Kept.frame_iff, and_self, true_or, or_true]
    | with_reducible intro _ | dsimp only | split)

theorem State.startCommand_kept {s : State} {r : CmdRef} (hH : ∀ x ∈ ([.queues] : List Portion), H x = false)
    (hk0 : Kept pk wq H z0 s) : Kept pk wq H z0 (State.startCommand s r) := by
  unfold State.startCommand
  repeat' (first
    | with_reducible assumption | exact held_sub hH rfl | exact held_one hH rfl | exact fldOk rfl
    | with_reducible refine State.setQueue_kept ?_ ?_ | with_reducible refine mapFst_kept ?_
    | with_reducible refine ite_kept ?_ ?_ | simp only [Kept.frame_iff, and_self, true_or, or_true]
    | with_reducible intro _ | dsimp only | split)

theorem State.sendPacket_kept {s : State} {p : Packet} (hH : ∀ x ∈ ([.lanes] : List Portion), H x = false)
    (hk0 : Kept pk wq H z0 s) : Kept pk wq H z0 (State.sendPacket s p) := by
  unfold State.sendPacket
  repeat' (first
    | with_reducible assumption | exact held_sub hH rfl | exact held_one hH rfl | exact fldOk rfl
    | with_reducible refine State.straitOffer_kept ?_ ?_ | simp only [Kept.frame_iff, and_self, true_or, or_true]
    | with_reducible intro _ | dsimp only | split)

theorem State.boundaryDrop_kept {s : State} {fn : Nat} {n : Nat}
    (hH : ∀ x ∈ ([.block .img] : List Portion), H x = false) (hk0 : Kept pk wq H z0 s) : Kept pk wq H z0
    (State.boundaryDrop s fn n) := by
  unfold State.boundaryDrop
  repeat' (first
    | with_reducible assumption | exact held_sub hH rfl | exact held_one hH rfl | exact fldOk rfl
    | with_reducible refine State.satFld_kept ?_ ?_ ?_ | with_reducible intro _ | dsimp only | split)

end Sys2Proof.Machine
end

