-- ==== Sys2Proof/Laws/KeptMemory.lean ====
section
/-! SUPPORT. What the operations of Memory.lean keep. -/

namespace Sys2Proof.Machine
open Sys2Proof

variable {pk : Package} {wq : List Instr} {H : Portion → Bool} {z0 : State}

theorem slotPages_legal {slot : Nat} : (slotPages slot).legal = true := by unfold slotPages; split <;> rfl

theorem slotState_legal {slot : Nat} : (slotState slot).legal = true := by unfold slotState; split <;> rfl

theorem slotPages_held {slot : Nat} (h : H (.block .sec) = false) : H (.block (regBlock (slotPages slot).reg)) = false
    := by
  unfold slotPages; split <;> exact h

theorem slotState_held {slot : Nat} (h : H (.block .sec) = false) : H (.block (regBlock (slotState slot).reg)) = false
    := by
  unfold slotState; split <;> exact h

theorem State.modPage_kept {s : State} {fn : Nat} {addr : Nat} {f : Page → Page}
    (hH : ∀ x ∈ ([.fns] : List Portion), H x = false) (hk0 : Kept pk wq H z0 s) : Kept pk wq H z0
    (State.modPage s fn addr f) := by
  unfold State.modPage
  repeat' (first
    | with_reducible assumption | exact held_sub hH rfl | exact held_one hH rfl | exact fldOk rfl
    | exact .inl (fun _ => rfl) | exact .inr (held_one hH rfl)
    | exact .inl (fun x => by dsimp only; repeat' split <;> rfl) | with_reducible refine State.modFn_kept ?_ ?_ ?_
    | with_reducible refine mapFst_kept ?_ | with_reducible refine ite_kept ?_ ?_
    | simp only [Kept.frame_iff, and_self, true_or, or_true] | with_reducible intro _ | dsimp only | split)

theorem State.memRecord_kept {s : State} {fn : Nat} {mapped : Bool} {rec : List Byte}
    (hH : ∀ x ∈ ([.egress, .lanes, .mctp, .armed, .block .mem, .block .jl, .block .hbr] : List Portion), H x = false)
    (hk0 : Kept pk wq H z0 s) : Kept pk wq H z0 (State.memRecord s fn mapped rec) := by
  unfold State.memRecord
  repeat' (first
    | with_reducible assumption | exact held_sub hH rfl | exact held_one hH rfl | exact fldOk rfl
    | exact wordOk_zero rfl | exact wordOk_whole rfl | with_reducible refine State.setReg_kept ?_ ?_ ?_
    | with_reducible refine State.straitOffer_kept ?_ ?_ | with_reducible refine State.fnEvent_kept ?_ ?_ ?_ ?_
    | with_reducible refine State.journal_kept ?_ ?_ | with_reducible refine foldl_kept ?_ ?_
    | with_reducible refine ite_kept ?_ ?_ | with_reducible refine iteP_kept ?_ ?_
    | with_reducible refine foldlP_kept ?_ ?_
    | with_reducible refine foldlP_kept' (by with_reducible assumption) ?_ ?_ | with_reducible intro _ | dsimp only
    | split)

theorem State.spareStat_kept {s : State} {stack : Nat} (hH : ∀ x ∈ ([.block .mem] : List Portion), H x = false)
    (hk0 : Kept pk wq H z0 s) : Kept pk wq H z0 (State.spareStat s stack) := by
  unfold State.spareStat
  repeat' (first
    | with_reducible assumption | exact held_sub hH rfl | exact held_one hH rfl | exact fldOk rfl
    | with_reducible refine State.setFld_kept ?_ ?_ ?_ | with_reducible refine foldl_kept ?_ ?_
    | with_reducible refine mapFst_kept ?_ | with_reducible refine iteP_kept ?_ ?_
    | with_reducible refine foldlP_kept ?_ ?_
    | with_reducible refine foldlP_kept' (by with_reducible assumption) ?_ ?_ | with_reducible intro _ | dsimp only
    | split)

theorem State.withdrawnStat_kept {s : State} {stack : Nat} (hH : ∀ x ∈ ([.block .mem] : List Portion), H x = false)
    (hk0 : Kept pk wq H z0 s) : Kept pk wq H z0 (State.withdrawnStat s stack) := by
  unfold State.withdrawnStat
  repeat' (first
    | with_reducible assumption | exact held_sub hH rfl | exact held_one hH rfl | exact fldOk rfl
    | with_reducible refine State.setFld_kept ?_ ?_ ?_ | with_reducible intro _ | dsimp only | split)

theorem State.rowsStat_kept {s : State} {stack : Nat} (hH : ∀ x ∈ ([.block .mem] : List Portion), H x = false)
    (hk0 : Kept pk wq H z0 s) : Kept pk wq H z0 (State.rowsStat s stack) := by
  unfold State.rowsStat
  repeat' (first
    | with_reducible assumption | exact held_sub hH rfl | exact held_one hH rfl | exact fldOk rfl
    | with_reducible refine State.spareStat_kept ?_ ?_ | with_reducible refine State.withdrawnStat_kept ?_ ?_
    | with_reducible intro _ | dsimp only | split)

theorem State.withdraw_kept {s : State} {rows : List Nat} (hH : ∀ x ∈ ([.block .mem] : List Portion), H x = false)
    (hk0 : Kept pk wq H z0 s) : Kept pk wq H z0 (State.withdraw s rows) := by
  unfold State.withdraw
  repeat' (first
    | with_reducible assumption | exact held_sub hH rfl | exact held_one hH rfl | exact fldOk rfl
    | with_reducible refine State.rowsStat_kept ?_ ?_ | with_reducible refine foldl_kept ?_ ?_
    | with_reducible refine ite_kept ?_ ?_ | with_reducible refine iteP_kept ?_ ?_
    | with_reducible refine foldlP_kept ?_ ?_
    | with_reducible refine foldlP_kept' (by with_reducible assumption) ?_ ?_
    | simp only [Kept.frame_iff, and_self, true_or, or_true] | with_reducible intro _ | dsimp only | split)

theorem State.degradeRow_kept {s : State} {src : Source} {fn : Nat} {key : Nat} {devAddr : Option Nat}
    (hH : ∀ x ∈ ([.egress, .lanes, .mctp, .armed, .block .mem, .block .jl, .block .hbr] : List Portion), H x = false)
    (hk0 : Kept pk wq H z0 s) : Kept pk wq H z0 (State.degradeRow s src fn key devAddr) := by
  unfold State.degradeRow
  repeat' (first
    | with_reducible assumption | exact held_sub hH rfl | exact held_one hH rfl | exact fldOk rfl
    | with_reducible refine State.addFld_kept ?_ ?_ ?_ | with_reducible refine State.journal_kept ?_ ?_
    | with_reducible refine State.memRecord_kept ?_ ?_ | with_reducible refine State.withdraw_kept ?_ ?_
    | with_reducible refine ite_kept ?_ ?_ | simp only [Kept.frame_iff, and_self, true_or, or_true]
    | with_reducible intro _ | dsimp only | split)

theorem State.correctedRead_kept {s : State} {src : Source} {fn : Nat} {symbols : Nat} {phys : Nat}
    {devAddr : Option Nat}
    (hH : ∀ x ∈ ([.egress, .lanes, .mctp, .armed, .block .mem, .block .jl, .block .hbr] : List Portion), H x = false)
    (hk0 : Kept pk wq H z0 s) : Kept pk wq H z0 (State.correctedRead s src fn symbols phys devAddr) := by
  unfold State.correctedRead
  repeat' (first
    | with_reducible assumption | exact held_sub hH rfl | exact held_one hH rfl | exact fldOk rfl
    | with_reducible refine State.satFld_kept ?_ ?_ ?_ | with_reducible refine State.memRecord_kept ?_ ?_
    | with_reducible refine State.degradeRow_kept ?_ ?_ | with_reducible refine ite_kept ?_ ?_
    | simp only [Kept.frame_iff, and_self, true_or, or_true] | with_reducible intro _ | dsimp only | split)

theorem State.uncorrectableRead_kept {s : State} {src : Source} {fn : Nat} {phys : Nat} {devAddr : Option Nat}
    (hH : ∀ x ∈ ([.egress, .lanes, .mctp, .armed, .block .mem, .block .jl, .block .hbr] : List Portion), H x = false)
    (hk0 : Kept pk wq H z0 s) : Kept pk wq H z0 (State.uncorrectableRead s src fn phys devAddr) := by
  unfold State.uncorrectableRead
  repeat' (first
    | with_reducible assumption | exact held_sub hH rfl | exact held_one hH rfl | exact fldOk rfl
    | with_reducible refine State.satFld_kept ?_ ?_ ?_ | with_reducible refine State.memRecord_kept ?_ ?_
    | with_reducible refine State.degradeRow_kept ?_ ?_ | with_reducible refine ite_kept ?_ ?_
    | with_reducible intro _ | dsimp only | split)

theorem State.setErrors_kept {s : State} {phys : Nat} {es : Store Nat} (hk0 : Kept pk wq H z0 s) : Kept pk wq H z0
    (State.setErrors s phys es) := by
  unfold State.setErrors
  repeat' (first
    | with_reducible assumption | simp only [Kept.frame_iff, and_self, true_or, or_true] | with_reducible intro _
    | dsimp only | split)

theorem State.addUpset_kept {s : State} {f : Frame} {phys : Nat} {upset : Nat} (hk0 : Kept pk wq H z0 s) : Kept pk wq
    H z0 (State.addUpset s f phys upset) := by
  unfold State.addUpset
  repeat' (first
    | with_reducible assumption | with_reducible refine State.setErrors_kept ?_
    | with_reducible refine foldl_kept ?_ ?_ | with_reducible refine ite_kept ?_ ?_
    | with_reducible refine iteP_kept ?_ ?_ | with_reducible refine foldlP_kept ?_ ?_
    | with_reducible refine foldlP_kept' (by with_reducible assumption) ?_ ?_
    | simp only [Kept.frame_iff, and_self, true_or, or_true] | with_reducible intro _ | dsimp only | split)

theorem State.miscorrect_kept {s : State} {f : Frame} {phys : Nat} {es : List (Nat × Nat)}
    (hH : ∀ x ∈ ([.mem] : List Portion), H x = false)
    (h : Kept pk wq H z0 s) : Kept pk wq H z0 (s.miscorrect f phys es) := by
  have k := State.setErrors_kept (phys := phys) (es := []) h
  unfold State.miscorrect
  dsimp only
  split
  · have k' : Kept pk wq H z0 { s.setErrors phys [] with freeCtr := (s.setErrors phys []).freeCtr + 64 } :=
      ⟨k.pkg, k.pending, ⟨k.sound.mem, k.sound.regs, k.sound.fields⟩, fun x hx => by cases x <;> exact k.same _ hx⟩
    exact Kept.memory (held_one hH rfl) k' (Memory.wf_foldl _ _ _ (fun _ _ hm => Memory.wf_memPut _ _ _ hm) k.sound.mem)
  · exact Kept.memory (held_one hH rfl) k (Memory.wf_foldl _ _ _ (fun _ _ hm => Memory.wf_memPut _ _ _ hm) k.sound.mem)

theorem State.decodeUnit_kept {s : State} {src : Source} {fn : Nat} {f : Frame} {phys : Nat} {devAddr : Option Nat}
    (hH : ∀ x ∈ ([.mem, .egress, .lanes, .mctp, .armed, .block .mem, .block .jl, .block .hbr] : List Portion), H x = false)
    (hk0 : Kept pk wq H z0 s) : Kept pk wq H z0 (State.decodeUnit s src fn f phys devAddr).1 := by
  unfold State.decodeUnit
  repeat' (first
    | with_reducible assumption | exact held_sub hH rfl | exact held_one hH rfl | exact fldOk rfl
    | with_reducible refine State.correctedRead_kept ?_ ?_ | with_reducible refine State.uncorrectableRead_kept ?_ ?_
    | with_reducible refine State.miscorrect_kept ?_ ?_ | with_reducible refine ite_kept ?_ ?_
    | with_reducible refine iteP_kept ?_ ?_ | with_reducible intro _ | dsimp only | split)
theorem State.decodeUnit_kept' {s : State} {src : Source} {fn : Nat} {f : Frame} {phys : Nat} {devAddr : Option Nat}
    {t z} (e : State.decodeUnit s src fn f phys devAddr = (t, z))
    (hH : ∀ x ∈ ([.mem, .egress, .lanes, .mctp, .armed, .block .mem, .block .jl, .block .hbr] : List Portion), H x = false)
    (hk0 : Kept pk wq H z0 s) : Kept pk wq H z0 t := by
  have k : Kept pk wq H z0 (State.decodeUnit s src fn f phys devAddr).1 := State.decodeUnit_kept hH hk0
  rw [e] at k; exact k

theorem State.putFrame_kept {s : State} {f : Frame} {off : Nat} {bs : List Byte}
    (hH : ∀ x ∈ ([.mem] : List Portion), H x = false)
    (h : Kept pk wq H z0 s) : Kept pk wq H z0 (s.putFrame f off bs) :=
  Kept.memory (held_one hH rfl) h (Memory.wf_foldl _ _ _ (fun _ _ hm => Memory.wf_memPut _ _ _ hm) h.sound.mem)

theorem State.readFrame_kept {s : State} {src : Source} {fn : Nat} {f : Frame} {off : Nat} {len : Nat}
    {pageAddr : Option Nat}
    (hH : ∀ x ∈ ([.mem, .egress, .lanes, .mctp, .armed, .block .mem, .block .jl, .block .hbr] : List Portion), H x = false)
    (hk0 : Kept pk wq H z0 s) : Kept pk wq H z0 (State.readFrame s src fn f off len pageAddr).1 := by
  unfold State.readFrame
  repeat' (first
    | with_reducible assumption | exact held_sub hH rfl | exact held_one hH rfl | exact fldOk rfl
    | with_reducible refine State.decodeUnit_kept ?_ ?_ | with_reducible refine foldl_kept ?_ ?_
    | with_reducible refine mapFst_kept ?_ | with_reducible refine ite_kept ?_ ?_
    | with_reducible refine iteP_kept ?_ ?_ | with_reducible refine foldlP_kept ?_ ?_
    | with_reducible refine State.decodeUnit_kept' (by with_reducible assumption) ?_ ?_
    | with_reducible refine foldlP_kept' (by with_reducible assumption) ?_ ?_
    | simp only [Kept.frame_iff, and_self, true_or, or_true] | with_reducible intro _ | dsimp only | split)
theorem State.readFrame_kept' {s : State} {src : Source} {fn : Nat} {f : Frame} {off : Nat} {len : Nat}
    {pageAddr : Option Nat} {t z} (e : State.readFrame s src fn f off len pageAddr = (t, z))
    (hH : ∀ x ∈ ([.mem, .egress, .lanes, .mctp, .armed, .block .mem, .block .jl, .block .hbr] : List Portion), H x = false)
    (hk0 : Kept pk wq H z0 s) : Kept pk wq H z0 t := by
  have k : Kept pk wq H z0 (State.readFrame s src fn f off len pageAddr).1 := State.readFrame_kept hH hk0
  rw [e] at k; exact k

theorem State.writeFrame_kept {s : State} {src : Source} {fn : Nat} {f : Frame} {off : Nat} {bs : List Byte}
    {pageAddr : Option Nat}
    (hH : ∀ x ∈ ([.mem, .egress, .lanes, .mctp, .armed, .block .mem, .block .jl, .block .hbr] : List Portion), H x = false)
    (hk0 : Kept pk wq H z0 s) : Kept pk wq H z0 (State.writeFrame s src fn f off bs pageAddr).1 := by
  unfold State.writeFrame
  repeat' (first
    | with_reducible assumption | exact held_sub hH rfl | exact held_one hH rfl | exact fldOk rfl
    | with_reducible refine State.setErrors_kept ?_ | with_reducible refine State.decodeUnit_kept ?_ ?_
    | with_reducible refine State.putFrame_kept ?_ ?_ | with_reducible refine foldl_kept ?_ ?_
    | with_reducible refine mapFst_kept ?_ | with_reducible refine ite_kept ?_ ?_
    | with_reducible refine iteP_kept ?_ ?_ | with_reducible refine foldlP_kept ?_ ?_
    | with_reducible refine State.decodeUnit_kept' (by with_reducible assumption) ?_ ?_
    | with_reducible refine foldlP_kept' (by with_reducible assumption) ?_ ?_ | with_reducible intro _ | dsimp only
    | split)
theorem State.writeFrame_kept' {s : State} {src : Source} {fn : Nat} {f : Frame} {off : Nat} {bs : List Byte}
    {pageAddr : Option Nat} {t z} (e : State.writeFrame s src fn f off bs pageAddr = (t, z))
    (hH : ∀ x ∈ ([.mem, .egress, .lanes, .mctp, .armed, .block .mem, .block .jl, .block .hbr] : List Portion), H x = false)
    (hk0 : Kept pk wq H z0 s) : Kept pk wq H z0 t := by
  have k : Kept pk wq H z0 (State.writeFrame s src fn f off bs pageAddr).1 := State.writeFrame_kept hH hk0
  rw [e] at k; exact k

theorem State.zeroFrame_kept {s : State} {f : Frame} (hH : ∀ x ∈ ([.mem] : List Portion), H x = false)
    (h : Kept pk wq H z0 s) :
    Kept pk wq H z0 (s.zeroFrame f) := by
  unfold State.zeroFrame
  split <;>
    exact Kept.memoryAnd (rowErrs := s.rowErrs) (reefs := s.reefs) (leases := s.leases) (held_one hH rfl) (.inl rfl)
      (storeWf_filter (fun _ => 0) _ _ h.sound.mem) h

theorem State.yieldsAt_kept {s : State} {stack : Nat} {pcs : List Nat}
    (hH : ∀ x ∈ ([.block .reef] : List Portion), H x = false) (hk0 : Kept pk wq H z0 s) : Kept pk wq H z0
    (State.yieldsAt s stack pcs) := by
  unfold State.yieldsAt
  repeat' (first
    | with_reducible assumption | exact held_sub hH rfl | exact held_one hH rfl | exact fldOk rfl
    | with_reducible refine State.addFld_kept ?_ ?_ ?_ | with_reducible refine ite_kept ?_ ?_ | with_reducible intro _
    | dsimp only | split)

theorem State.noteYields_kept {s : State} {f : Frame} {off : Nat} {len : Nat}
    (hH : ∀ x ∈ ([.block .reef] : List Portion), H x = false) (hk0 : Kept pk wq H z0 s) : Kept pk wq H z0
    (State.noteYields s f off len) := by
  unfold State.noteYields
  repeat' (first
    | with_reducible assumption | exact held_sub hH rfl | exact held_one hH rfl | exact fldOk rfl
    | with_reducible refine State.yieldsAt_kept ?_ ?_ | with_reducible intro _ | dsimp only | split)

theorem State.spoilLeases_kept {s : State} {stack : Nat} {rows : List Nat} (hk0 : Kept pk wq H z0 s) : Kept pk wq H z0
    (State.spoilLeases s stack rows) := by
  unfold State.spoilLeases
  repeat' (first
    | with_reducible assumption | with_reducible refine mapFst_kept ?_ | with_reducible refine ite_kept ?_ ?_
    | simp only [Kept.frame_iff, and_self, true_or, or_true] | with_reducible intro _ | dsimp only | split)

theorem State.spoilFrame_kept {s : State} {f : Frame} (hk0 : Kept pk wq H z0 s) : Kept pk wq H z0
    (State.spoilFrame s f) := by
  unfold State.spoilFrame
  repeat' (first
    | with_reducible assumption | with_reducible refine State.spoilLeases_kept ?_
    | with_reducible refine ite_kept ?_ ?_ | with_reducible intro _ | dsimp only | split)

theorem State.copyFrame_kept {s : State} {src dst : Frame}
    (hH : ∀ x ∈ ([.mem, .lanes, .block .reef] : List Portion), H x = false) (h : Kept pk wq H z0 s) :
    Kept pk wq H z0 (s.copyFrame src dst) := by
  have k := State.zeroFrame_kept (f := dst) (held_sub hH rfl) (State.noteYields_kept (f := dst) (off := 0) (len := 65536) (held_sub hH rfl)
    (State.noteYields_kept (f := src) (off := 0) (len := 65536) (held_sub hH rfl) (State.straitOffer_kept (src := 17) (dst := frameIsland dst)
      (cls := 0) (units := unitsOf 65536) (held_sub hH rfl) (State.straitOffer_kept (src := frameIsland src) (dst := 17) (cls := 0)
      (units := unitsOf 65536) (held_sub hH rfl) h))))
  unfold State.copyFrame
  generalize List.range 65536 = l
  exact Kept.memory (held_one hH rfl) k (Memory.wf_foldl _ _ _ (fun _ _ hm => Memory.wf_memPut _ _ _ hm) k.sound.mem)

theorem State.readWhole_kept {s : State} {src : Source} {fn : Nat} {f : Frame} {pageAddr : Option Nat}
    (hH : ∀ x ∈ ([.mem, .egress, .lanes, .mctp, .armed, .block .mem, .block .jl, .block .hbr] : List Portion), H x = false)
    (hk0 : Kept pk wq H z0 s) : Kept pk wq H z0 (State.readWhole s src fn f pageAddr).1 := by
  unfold State.readWhole
  repeat' (first
    | with_reducible assumption | exact held_sub hH rfl | exact held_one hH rfl | exact fldOk rfl
    | with_reducible refine State.decodeUnit_kept ?_ ?_ | with_reducible refine foldl_kept ?_ ?_
    | with_reducible refine mapFst_kept ?_ | with_reducible refine ite_kept ?_ ?_
    | with_reducible refine iteP_kept ?_ ?_ | with_reducible refine foldlP_kept ?_ ?_
    | with_reducible refine State.decodeUnit_kept' (by with_reducible assumption) ?_ ?_
    | with_reducible refine foldlP_kept' (by with_reducible assumption) ?_ ?_ | with_reducible intro _ | dsimp only
    | split)
theorem State.readWhole_kept' {s : State} {src : Source} {fn : Nat} {f : Frame} {pageAddr : Option Nat} {t z}
    (e : State.readWhole s src fn f pageAddr = (t, z))
    (hH : ∀ x ∈ ([.mem, .egress, .lanes, .mctp, .armed, .block .mem, .block .jl, .block .hbr] : List Portion), H x = false)
    (hk0 : Kept pk wq H z0 s) : Kept pk wq H z0 t := by
  have k : Kept pk wq H z0 (State.readWhole s src fn f pageAddr).1 := State.readWhole_kept hH hk0
  rw [e] at k; exact k

theorem State.slotAdd_kept {s : State} {fn : Nat} {slot : Nat}
    (hH : ∀ x ∈ ([.block .sec] : List Portion), H x = false) (hk0 : Kept pk wq H z0 s) : Kept pk wq H z0
    (State.slotAdd s fn slot) := by
  unfold State.slotAdd
  repeat' (first
    | with_reducible assumption | exact held_sub hH rfl | exact held_one hH rfl | exact fldOk rfl
    | exact slotPages_legal | exact slotPages_held (held_one hH rfl)
    | with_reducible refine State.addFld_kept ?_ ?_ ?_ | with_reducible intro _ | dsimp only | split)

theorem State.slotRetire_kept {s : State} {fn : Nat} {slot : Nat}
    (hH : ∀ x ∈ ([.block .sec] : List Portion), H x = false) (hk0 : Kept pk wq H z0 s) : Kept pk wq H z0
    (State.slotRetire s fn slot) := by
  unfold State.slotRetire
  repeat' (first
    | with_reducible assumption | exact held_sub hH rfl | exact held_one hH rfl | exact fldOk rfl
    | exact slotPages_legal | exact slotPages_held (held_one hH rfl) | exact slotState_legal
    | exact slotState_held (held_one hH rfl) | with_reducible refine State.setFld_kept ?_ ?_ ?_
    | with_reducible refine ite_kept ?_ ?_ | with_reducible intro _ | dsimp only | split)

theorem State.slotSub_kept {s : State} {fn : Nat} {slot : Nat}
    (hH : ∀ x ∈ ([.block .sec] : List Portion), H x = false) (hk0 : Kept pk wq H z0 s) : Kept pk wq H z0
    (State.slotSub s fn slot) := by
  unfold State.slotSub
  repeat' (first
    | with_reducible assumption | exact held_sub hH rfl | exact held_one hH rfl | exact fldOk rfl
    | exact slotPages_legal | exact slotPages_held (held_one hH rfl)
    | with_reducible refine State.setFld_kept ?_ ?_ ?_ | with_reducible refine State.slotRetire_kept ?_ ?_
    | with_reducible intro _ | dsimp only | split)

theorem State.slotWritten_kept {s : State} {fn : Nat} {slot : Nat}
    (hH : ∀ x ∈ ([.fns, .block .sec] : List Portion), H x = false) (hk0 : Kept pk wq H z0 s) : Kept pk wq H z0
    (State.slotWritten s fn slot) := by
  unfold State.slotWritten
  repeat' (first
    | with_reducible assumption | exact held_sub hH rfl | exact held_one hH rfl | exact fldOk rfl
    | exact .inl (fun _ => rfl) | exact .inr (held_one hH rfl)
    | exact .inl (fun x => by dsimp only; repeat' split <;> rfl) | with_reducible refine State.setFld_kept ?_ ?_ ?_
    | with_reducible refine State.modFn_kept ?_ ?_ ?_ | with_reducible refine ite_kept ?_ ?_
    | simp only [Kept.frame_iff, and_self, true_or, or_true] | with_reducible intro _ | dsimp only | split)

theorem State.frameLeft_kept {s : State} {f : Frame} (hH : ∀ x ∈ ([.block .mem] : List Portion), H x = false)
    (hk0 : Kept pk wq H z0 s) : Kept pk wq H z0 (State.frameLeft s f) := by
  unfold State.frameLeft
  repeat' (first
    | with_reducible assumption | exact held_sub hH rfl | exact held_one hH rfl | exact fldOk rfl
    | with_reducible refine State.spareStat_kept ?_ ?_ | with_reducible refine State.withdraw_kept ?_ ?_
    | with_reducible refine ite_kept ?_ ?_ | with_reducible intro _ | dsimp only | split)

theorem State.freeFrame_kept {s : State} {fn : Nat} {pg : Page}
    (hH : ∀ x ∈ ([.block .mem, .block .sec] : List Portion), H x = false) (hk0 : Kept pk wq H z0 s) : Kept pk wq H z0
    (State.freeFrame s fn pg) := by
  unfold State.freeFrame
  repeat' (first
    | with_reducible assumption | exact held_sub hH rfl | exact held_one hH rfl | exact fldOk rfl
    | with_reducible refine State.slotSub_kept ?_ ?_ | with_reducible refine State.frameLeft_kept ?_ ?_
    | with_reducible refine ite_kept ?_ ?_ | with_reducible intro _ | dsimp only | split)

theorem State.unmapped_kept {s : State} {fn : Nat} {addr : Nat}
    (hH : ∀ x ∈ ([.egress, .armed, .block .mem, .block .jl] : List Portion), H x = false) (hk0 : Kept pk wq H z0 s) :
    Kept pk wq H z0 (State.unmapped s fn addr) := by
  unfold State.unmapped
  repeat' (first
    | with_reducible assumption | exact held_sub hH rfl | exact held_one hH rfl | exact fldOk rfl
    | with_reducible refine State.setFld_kept ?_ ?_ ?_ | with_reducible refine State.satFld_kept ?_ ?_ ?_
    | with_reducible refine State.fnEvent_kept ?_ ?_ ?_ ?_ | with_reducible refine ite_kept ?_ ?_
    | with_reducible intro _ | dsimp only | split)

theorem State.portDownRecord_kept {s : State} {src : Source} {fn : Nat} {addr : Nat} {phys : Nat}
    (hH : ∀ x ∈ ([.egress, .lanes, .mctp, .armed, .block .mem, .block .jl, .block .hbr] : List Portion), H x = false)
    (hk0 : Kept pk wq H z0 s) : Kept pk wq H z0 (State.portDownRecord s src fn addr phys) := by
  unfold State.portDownRecord
  repeat' (first
    | with_reducible assumption | exact held_sub hH rfl | exact held_one hH rfl | exact fldOk rfl
    | with_reducible refine State.memRecord_kept ?_ ?_ | with_reducible intro _ | dsimp only | split)

theorem State.modSegment_kept {s : State} {fn : Nat} {addr : Nat} {f : Segment → Segment}
    (hH : ∀ x ∈ ([.fns] : List Portion), H x = false) (hk0 : Kept pk wq H z0 s) : Kept pk wq H z0
    (State.modSegment s fn addr f) := by
  unfold State.modSegment
  repeat' (first
    | with_reducible assumption | exact held_sub hH rfl | exact held_one hH rfl | exact fldOk rfl
    | exact .inl (fun _ => rfl) | exact .inr (held_one hH rfl)
    | exact .inl (fun x => by dsimp only; repeat' split <;> rfl) | with_reducible refine State.modFn_kept ?_ ?_ ?_
    | with_reducible refine mapFst_kept ?_ | with_reducible refine ite_kept ?_ ?_
    | simp only [Kept.frame_iff, and_self, true_or, or_true] | with_reducible intro _ | dsimp only | split)

theorem State.startPromotion_kept {s : State} {fn : Nat} {addr : Nat} {byRequest : Bool} {f : Frame}
    (hH : ∀ x ∈ ([.fns] : List Portion), H x = false) (hk0 : Kept pk wq H z0 s) : Kept pk wq H z0
    (State.startPromotion s fn addr byRequest f) := by
  unfold State.startPromotion
  repeat' (first
    | with_reducible assumption | exact held_sub hH rfl | exact held_one hH rfl | exact fldOk rfl
    | with_reducible refine State.modPage_kept ?_ ?_ | with_reducible refine ite_kept ?_ ?_
    | simp only [Kept.frame_iff, and_self, true_or, or_true] | with_reducible intro _ | dsimp only | split)

theorem State.writePromotes_kept {s : State} {fn : Nat} {addr : Nat} {f : Frame}
    (hH : ∀ x ∈ ([.fns] : List Portion), H x = false) (hk0 : Kept pk wq H z0 s) : Kept pk wq H z0
    (State.writePromotes s fn addr f) := by
  unfold State.writePromotes
  repeat' (first
    | with_reducible assumption | exact held_sub hH rfl | exact held_one hH rfl | exact fldOk rfl
    | with_reducible refine State.modSegment_kept ?_ ?_ | with_reducible refine State.startPromotion_kept ?_ ?_
    | simp only [Kept.frame_iff, and_self, true_or, or_true] | with_reducible intro _ | dsimp only | split)

theorem State.trackWrite_kept {s : State} {fn : Nat} {addr : Nat} (hk0 : Kept pk wq H z0 s) : Kept pk wq H z0
    (State.trackWrite s fn addr) := by
  unfold State.trackWrite
  repeat' (first
    | with_reducible assumption | with_reducible refine mapFst_kept ?_ | with_reducible refine ite_kept ?_ ?_
    | simp only [Kept.frame_iff, and_self, true_or, or_true] | with_reducible intro _ | dsimp only | split)

theorem State.memAccess_kept {s : State} {a : Access} {upset : Nat}
    (hH : ∀ x ∈ ([.mem, .fns, .egress, .lanes, .mctp, .armed, .block .mem, .block .jl, .block .hbr] : List Portion), H x = false)
    (hk0 : Kept pk wq H z0 s) : Kept pk wq H z0 (State.memAccess s a upset).1 := by
  unfold State.memAccess
  repeat' (first
    | with_reducible assumption | exact held_sub hH rfl | exact held_one hH rfl | exact fldOk rfl
    | with_reducible refine State.addUpset_kept ?_ | with_reducible refine State.readFrame_kept ?_ ?_
    | with_reducible refine State.writeFrame_kept ?_ ?_ | with_reducible refine State.spoilLeases_kept ?_
    | with_reducible refine State.unmapped_kept ?_ ?_ | with_reducible refine State.portDownRecord_kept ?_ ?_
    | with_reducible refine State.writePromotes_kept ?_ ?_ | with_reducible refine State.trackWrite_kept ?_
    | with_reducible refine mapFst_kept ?_ | with_reducible refine ite_kept ?_ ?_
    | with_reducible refine iteP_kept ?_ ?_
    | with_reducible refine State.readFrame_kept' (by with_reducible assumption) ?_ ?_
    | with_reducible refine State.writeFrame_kept' (by with_reducible assumption) ?_ ?_
    | simp only [Kept.frame_iff, and_self, true_or, or_true] | with_reducible intro _ | dsimp only | split)
theorem State.memAccess_kept' {s : State} {a : Access} {upset : Nat} {t z} (e : State.memAccess s a upset = (t, z))
    (hH : ∀ x ∈ ([.mem, .fns, .egress, .lanes, .mctp, .armed, .block .mem, .block .jl, .block .hbr] : List Portion), H x = false)
    (hk0 : Kept pk wq H z0 s) : Kept pk wq H z0 t := by
  have k : Kept pk wq H z0 (State.memAccess s a upset).1 := State.memAccess_kept hH hk0
  rw [e] at k; exact k

theorem State.memTraffic_kept {s : State} {src : Nat} {mem : Nat} {write : Bool} {len : Nat}
    (hH : ∀ x ∈ ([.lanes] : List Portion), H x = false) (hk0 : Kept pk wq H z0 s) : Kept pk wq H z0
    (State.memTraffic s src mem write len) := by
  unfold State.memTraffic
  repeat' (first
    | with_reducible assumption | exact held_sub hH rfl | exact held_one hH rfl | exact fldOk rfl
    | with_reducible refine State.straitOffer_kept ?_ ?_ | with_reducible refine ite_kept ?_ ?_
    | with_reducible intro _ | dsimp only | split)

theorem State.memServe_kept {s : State} {a : Access} {upset : Nat}
    (hH : ∀ x ∈ ([.mem, .fns, .egress, .lanes, .mctp, .armed, .block .mem, .block .reef, .block .jl, .block .hbr] : List Portion), H x = false)
    (hk0 : Kept pk wq H z0 s) : Kept pk wq H z0 (State.memServe s a upset).1 := by
  unfold State.memServe
  repeat' (first
    | with_reducible assumption | exact held_sub hH rfl | exact held_one hH rfl | exact fldOk rfl
    | with_reducible refine State.noteYields_kept ?_ ?_ | with_reducible refine State.memAccess_kept ?_ ?_
    | with_reducible refine State.memTraffic_kept ?_ ?_ | with_reducible refine ite_kept ?_ ?_
    | with_reducible refine iteP_kept ?_ ?_
    | with_reducible refine State.memAccess_kept' (by with_reducible assumption) ?_ ?_ | with_reducible intro _
    | dsimp only | split)
theorem State.memServe_kept' {s : State} {a : Access} {upset : Nat} {t z} (e : State.memServe s a upset = (t, z))
    (hH : ∀ x ∈ ([.mem, .fns, .egress, .lanes, .mctp, .armed, .block .mem, .block .reef, .block .jl, .block .hbr] : List Portion), H x = false)
    (hk0 : Kept pk wq H z0 s) : Kept pk wq H z0 t := by
  have k : Kept pk wq H z0 (State.memServe s a upset).1 := State.memServe_kept hH hk0
  rw [e] at k; exact k

theorem State.answerLink_kept {s : State} {a : Access} {ans : Answer}
    (hH : ∀ x ∈ ([.egress, .armed, .block .jl] : List Portion), H x = false) (hk0 : Kept pk wq H z0 s) : Kept pk wq H
    z0 (State.answerLink s a ans) := by
  unfold State.answerLink
  repeat' (first
    | with_reducible assumption | exact held_sub hH rfl | exact held_one hH rfl | exact fldOk rfl
    | with_reducible refine State.sendAdapter_kept ?_ ?_ | with_reducible refine State.sendTo_kept ?_ ?_
    | with_reducible refine ite_kept ?_ ?_ | simp only [Kept.frame_iff, and_self, true_or, or_true]
    | with_reducible intro _ | dsimp only | split)

theorem State.noteServed_kept {s : State} {a : Access} {ans : Answer} (hk0 : Kept pk wq H z0 s) : Kept pk wq H z0
    (State.noteServed s a ans) := by
  unfold State.noteServed
  repeat' (first
    | with_reducible assumption | simp only [Kept.frame_iff, and_self, true_or, or_true] | with_reducible intro _
    | dsimp only | split)

theorem State.reefNotify_kept {s : State} {fn : Nat} {stack : Nat} {islet : Nat} {flag : Nat}
    (hH : ∀ x ∈ ([.lanes, .block .img] : List Portion), H x = false) (hk0 : Kept pk wq H z0 s) : Kept pk wq H z0
    (State.reefNotify s fn stack islet flag) := by
  unfold State.reefNotify
  repeat' (first
    | with_reducible assumption | exact held_sub hH rfl | exact held_one hH rfl | exact fldOk rfl
    | with_reducible refine State.sendPacket_kept ?_ ?_ | with_reducible refine State.boundaryDrop_kept ?_ ?_
    | with_reducible refine ite_kept ?_ ?_ | simp only [Kept.frame_iff, and_self, true_or, or_true]
    | with_reducible intro _ | dsimp only | split)

theorem State.accessEnds_kept {s : State} {a : Access} {ans : Answer}
    (hH : ∀ x ∈ ([.egress, .lanes, .armed, .block .img, .block .jl] : List Portion), H x = false)
    (hk0 : Kept pk wq H z0 s) : Kept pk wq H z0 (State.accessEnds s a ans) := by
  unfold State.accessEnds
  repeat' (first
    | with_reducible assumption | exact held_sub hH rfl | exact held_one hH rfl | exact fldOk rfl
    | with_reducible refine State.answerLink_kept ?_ ?_ | with_reducible refine State.noteServed_kept ?_
    | with_reducible refine State.reefNotify_kept ?_ ?_ | with_reducible intro _ | dsimp only | split)

theorem State.takeAccess_kept {s : State} {a : Access} {upset : Nat}
    (hH : ∀ x ∈ ([.mem, .fns, .egress, .lanes, .mctp, .armed, .block .img, .block .mem, .block .reef, .block .jl, .block .hbr] : List Portion), H x = false)
    (hk0 : Kept pk wq H z0 s) : Kept pk wq H z0 (State.takeAccess s a upset) := by
  unfold State.takeAccess
  repeat' (first
    | with_reducible assumption | exact held_sub hH rfl | exact held_one hH rfl | exact fldOk rfl
    | with_reducible refine State.memServe_kept ?_ ?_ | with_reducible refine State.accessEnds_kept ?_ ?_
    | with_reducible refine State.memServe_kept' (by with_reducible assumption) ?_ ?_ | with_reducible intro _
    | dsimp only | split)

theorem State.retryHeld_kept {s : State}
    (hH : ∀ x ∈ ([.mem, .fns, .egress, .lanes, .mctp, .armed, .block .img, .block .mem, .block .reef, .block .jl, .block .hbr] : List Portion), H x = false)
    (hk0 : Kept pk wq H z0 s) : Kept pk wq H z0 (State.retryHeld s) := by
  unfold State.retryHeld
  repeat' (first
    | with_reducible assumption | exact held_sub hH rfl | exact held_one hH rfl | exact fldOk rfl
    | with_reducible refine State.takeAccess_kept ?_ ?_ | with_reducible refine foldl_kept ?_ ?_
    | with_reducible refine iteP_kept ?_ ?_ | with_reducible refine foldlP_kept ?_ ?_
    | with_reducible refine foldlP_kept' (by with_reducible assumption) ?_ ?_
    | simp only [Kept.frame_iff, and_self, true_or, or_true] | with_reducible intro _ | dsimp only | split)

theorem State.dropHeld_kept {s : State} {p : Access → Bool} {st : Status}
    (hH : ∀ x ∈ ([.egress, .lanes, .armed, .block .img, .block .jl] : List Portion), H x = false)
    (hk0 : Kept pk wq H z0 s) : Kept pk wq H z0 (State.dropHeld s p st) := by
  unfold State.dropHeld
  repeat' (first
    | with_reducible assumption | exact held_sub hH rfl | exact held_one hH rfl | exact fldOk rfl
    | with_reducible refine State.accessEnds_kept ?_ ?_ | with_reducible refine foldl_kept ?_ ?_
    | with_reducible refine iteP_kept ?_ ?_ | with_reducible refine foldlP_kept ?_ ?_
    | with_reducible refine foldlP_kept' (by with_reducible assumption) ?_ ?_
    | simp only [Kept.frame_iff, and_self, true_or, or_true] | with_reducible intro _ | dsimp only | split)

theorem State.prepareWrite_kept {s : State} {fn : Nat} {addr : Nat} {len : Nat}
    (hH : ∀ x ∈ ([.mem, .fns, .egress, .lanes, .mctp, .armed, .block .mem, .block .jl, .block .hbr] : List Portion), H x = false)
    (hk0 : Kept pk wq H z0 s) : Kept pk wq H z0 (State.prepareWrite s fn addr len).1 := by
  unfold State.prepareWrite
  repeat' (first
    | with_reducible assumption | exact held_sub hH rfl | exact held_one hH rfl | exact fldOk rfl
    | with_reducible refine State.writeFrame_kept ?_ ?_ | with_reducible refine State.writePromotes_kept ?_ ?_
    | with_reducible refine foldl_kept ?_ ?_ | with_reducible refine ite_kept ?_ ?_
    | with_reducible refine iteP_kept ?_ ?_ | with_reducible refine foldlP_kept ?_ ?_
    | with_reducible refine State.writeFrame_kept' (by with_reducible assumption) ?_ ?_
    | with_reducible refine foldlP_kept' (by with_reducible assumption) ?_ ?_ | with_reducible intro _ | dsimp only
    | split)
theorem State.prepareWrite_kept' {s : State} {fn : Nat} {addr : Nat} {len : Nat} {t z}
    (e : State.prepareWrite s fn addr len = (t, z))
    (hH : ∀ x ∈ ([.mem, .fns, .egress, .lanes, .mctp, .armed, .block .mem, .block .jl, .block .hbr] : List Portion), H x = false)
    (hk0 : Kept pk wq H z0 s) : Kept pk wq H z0 t := by
  have k : Kept pk wq H z0 (State.prepareWrite s fn addr len).1 := State.prepareWrite_kept hH hk0
  rw [e] at k; exact k

theorem State.devPiece_kept {s : State} {a : Access}
    (hH : ∀ x ∈ ([.mem, .fns, .egress, .lanes, .mctp, .armed, .block .mem, .block .reef, .block .jl, .block .hbr] : List Portion), H x = false)
    (hk0 : Kept pk wq H z0 s) : Kept pk wq H z0 (State.devPiece s a).1 := by
  unfold State.devPiece
  repeat' (first
    | with_reducible assumption | exact held_sub hH rfl | exact held_one hH rfl | exact fldOk rfl
    | with_reducible refine State.readFrame_kept ?_ ?_ | with_reducible refine State.memServe_kept ?_ ?_
    | with_reducible refine iteP_kept ?_ ?_
    | with_reducible refine State.readFrame_kept' (by with_reducible assumption) ?_ ?_
    | with_reducible refine State.memServe_kept' (by with_reducible assumption) ?_ ?_
    | simp only [Kept.frame_iff, and_self, true_or, or_true] | with_reducible intro _ | dsimp only | split)
theorem State.devPiece_kept' {s : State} {a : Access} {t z} (e : State.devPiece s a = (t, z))
    (hH : ∀ x ∈ ([.mem, .fns, .egress, .lanes, .mctp, .armed, .block .mem, .block .reef, .block .jl, .block .hbr] : List Portion), H x = false)
    (hk0 : Kept pk wq H z0 s) : Kept pk wq H z0 t := by
  have k : Kept pk wq H z0 (State.devPiece s a).1 := State.devPiece_kept hH hk0
  rw [e] at k; exact k

theorem State.devRead_kept {s : State} {src : Source} {fn : Nat} {addr : Nat} {len : Nat} {die : Option Nat}
    (hH : ∀ x ∈ ([.mem, .fns, .egress, .lanes, .mctp, .armed, .block .mem, .block .reef, .block .jl, .block .hbr] : List Portion), H x = false)
    (hk0 : Kept pk wq H z0 s) : Kept pk wq H z0 (State.devRead s src fn addr len die).1 := by
  unfold State.devRead
  repeat' (first
    | with_reducible assumption | exact held_sub hH rfl | exact held_one hH rfl | exact fldOk rfl
    | with_reducible refine State.devPiece_kept ?_ ?_ | with_reducible refine foldl_kept ?_ ?_
    | with_reducible refine ite_kept ?_ ?_ | with_reducible refine iteP_kept ?_ ?_
    | with_reducible refine foldlP_kept ?_ ?_
    | with_reducible refine State.devPiece_kept' (by with_reducible assumption) ?_ ?_
    | with_reducible refine foldlP_kept' (by with_reducible assumption) ?_ ?_
    | simp only [Kept.frame_iff, and_self, true_or, or_true] | with_reducible intro _ | dsimp only | split)
theorem State.devRead_kept' {s : State} {src : Source} {fn : Nat} {addr : Nat} {len : Nat} {die : Option Nat} {t z}
    (e : State.devRead s src fn addr len die = (t, z))
    (hH : ∀ x ∈ ([.mem, .fns, .egress, .lanes, .mctp, .armed, .block .mem, .block .reef, .block .jl, .block .hbr] : List Portion), H x = false)
    (hk0 : Kept pk wq H z0 s) : Kept pk wq H z0 t := by
  have k : Kept pk wq H z0 (State.devRead s src fn addr len die).1 := State.devRead_kept hH hk0
  rw [e] at k; exact k

theorem State.devWrite_kept {s : State} {src : Source} {fn : Nat} {addr : Nat} {bs : List Byte} {die : Option Nat}
    (hH : ∀ x ∈ ([.mem, .fns, .egress, .lanes, .mctp, .armed, .block .mem, .block .reef, .block .jl, .block .hbr] : List Portion), H x = false)
    (hk0 : Kept pk wq H z0 s) : Kept pk wq H z0 (State.devWrite s src fn addr bs die).1 := by
  unfold State.devWrite
  repeat' (first
    | with_reducible assumption | exact held_sub hH rfl | exact held_one hH rfl | exact fldOk rfl
    | with_reducible refine State.devPiece_kept ?_ ?_ | with_reducible refine foldl_kept ?_ ?_
    | with_reducible refine ite_kept ?_ ?_ | with_reducible refine iteP_kept ?_ ?_
    | with_reducible refine foldlP_kept ?_ ?_
    | with_reducible refine State.devPiece_kept' (by with_reducible assumption) ?_ ?_
    | with_reducible refine foldlP_kept' (by with_reducible assumption) ?_ ?_
    | simp only [Kept.frame_iff, and_self, true_or, or_true] | with_reducible intro _ | dsimp only | split)
theorem State.devWrite_kept' {s : State} {src : Source} {fn : Nat} {addr : Nat} {bs : List Byte} {die : Option Nat}
    {t z} (e : State.devWrite s src fn addr bs die = (t, z))
    (hH : ∀ x ∈ ([.mem, .fns, .egress, .lanes, .mctp, .armed, .block .mem, .block .reef, .block .jl, .block .hbr] : List Portion), H x = false)
    (hk0 : Kept pk wq H z0 s) : Kept pk wq H z0 t := by
  have k : Kept pk wq H z0 (State.devWrite s src fn addr bs die).1 := State.devWrite_kept hH hk0
  rw [e] at k; exact k

end Sys2Proof.Machine
end

