-- ==== Sys2Proof/Laws/KeptIslet.lean ====
section
/-! SUPPORT. What the operations of Islet.lean keep. -/

namespace Sys2Proof.Machine
open Sys2Proof

variable {pk : Package} {wq : List Instr} {H : Portion → Bool} {z0 : State}

theorem State.setIslet_kept {s : State} {i : Nat} {x : Islet} (hH : ∀ x ∈ ([.islets] : List Portion), H x = false)
    (hk0 : Kept pk wq H z0 s) : Kept pk wq H z0 (State.setIslet s i x) := by
  have hIslets : H .islets = false := held_one hH rfl
  unfold State.setIslet
  repeat' (first
    | with_reducible assumption | simp only [Kept.frame_iff, hIslets, and_self, true_or, or_true]
    | with_reducible intro _ | dsimp only | split)

theorem State.modIslet_kept {s : State} {i : Nat} {f : Islet → Islet}
    (hH : ∀ x ∈ ([.islets] : List Portion), H x = false) (hk0 : Kept pk wq H z0 s) : Kept pk wq H z0
    (State.modIslet s i f) := by
  unfold State.modIslet
  repeat' (first
    | with_reducible assumption | exact held_sub hH rfl | exact held_one hH rfl | exact fldOk rfl
    | with_reducible refine State.setIslet_kept ?_ ?_ | with_reducible intro _ | dsimp only | split)

theorem State.setFlags_kept {s : State} {i : Nat} {mask : Nat}
    (hH : ∀ x ∈ ([.block .isl] : List Portion), H x = false) (hk0 : Kept pk wq H z0 s) : Kept pk wq H z0
    (State.setFlags s i mask) := by
  unfold State.setFlags
  repeat' (first
    | with_reducible assumption | exact held_sub hH rfl | exact held_one hH rfl | exact fldOk rfl
    | with_reducible refine State.setFld_kept ?_ ?_ ?_ | with_reducible intro _ | dsimp only | split)

theorem State.clearFlags_kept {s : State} {i : Nat} {mask : Nat}
    (hH : ∀ x ∈ ([.block .isl] : List Portion), H x = false) (hk0 : Kept pk wq H z0 s) : Kept pk wq H z0
    (State.clearFlags s i mask) := by
  unfold State.clearFlags
  repeat' (first
    | with_reducible assumption | exact held_sub hH rfl | exact held_one hH rfl | exact fldOk rfl
    | with_reducible refine State.setFld_kept ?_ ?_ ?_ | with_reducible intro _ | dsimp only | split)

theorem State.spWrite_kept {s : State} {i : Nat} {off : Nat} {bs : List Byte}
    (hH : ∀ x ∈ ([.islets] : List Portion), H x = false) (hk0 : Kept pk wq H z0 s) : Kept pk wq H z0
    (State.spWrite s i off bs) := by
  unfold State.spWrite
  repeat' (first
    | with_reducible assumption | exact held_sub hH rfl | exact held_one hH rfl | exact fldOk rfl
    | with_reducible refine State.modIslet_kept ?_ ?_ | simp only [Kept.frame_iff, and_self, true_or, or_true]
    | with_reducible intro _ | dsimp only | split)

theorem State.copyStat_kept {s : State} {i : Nat} {e : Nat} (hH : ∀ x ∈ ([.block .isl] : List Portion), H x = false)
    (hk0 : Kept pk wq H z0 s) : Kept pk wq H z0 (State.copyStat s i e) := by
  unfold State.copyStat
  repeat' (first
    | with_reducible assumption | exact held_sub hH rfl | exact held_one hH rfl | exact fldOk rfl
    | with_reducible refine State.setFld_kept ?_ ?_ ?_ | with_reducible intro _ | dsimp only | split)

theorem State.queueStat_kept {s : State} {i : Nat} (hH : ∀ x ∈ ([.block .isl] : List Portion), H x = false)
    (hk0 : Kept pk wq H z0 s) : Kept pk wq H z0 (State.queueStat s i) := by
  unfold State.queueStat
  repeat' (first
    | with_reducible assumption | exact held_sub hH rfl | exact held_one hH rfl | exact fldOk rfl
    | with_reducible refine State.setFld_kept ?_ ?_ ?_ | with_reducible intro _ | dsimp only | split)

theorem State.freeAcc_kept {s : State} {i : Nat} {ks : List Nat} (hH : ∀ x ∈ ([.islets] : List Portion), H x = false)
    (hk0 : Kept pk wq H z0 s) : Kept pk wq H z0 (State.freeAcc s i ks) := by
  unfold State.freeAcc
  repeat' (first
    | with_reducible assumption | exact held_sub hH rfl | exact held_one hH rfl | exact fldOk rfl
    | with_reducible refine State.modIslet_kept ?_ ?_ | with_reducible refine foldl_kept ?_ ?_
    | with_reducible refine iteP_kept ?_ ?_ | with_reducible refine foldlP_kept ?_ ?_
    | with_reducible refine foldlP_kept' (by with_reducible assumption) ?_ ?_
    | simp only [Kept.frame_iff, and_self, true_or, or_true] | with_reducible intro _ | dsimp only | split)

theorem State.freeBytes_kept {s : State} {i : Nat} {off : Nat} {n : Nat}
    (hH : ∀ x ∈ ([.islets] : List Portion), H x = false) (hk0 : Kept pk wq H z0 s) : Kept pk wq H z0
    (State.freeBytes s i off n) := by
  unfold State.freeBytes
  repeat' (first
    | with_reducible assumption | exact held_sub hH rfl | exact held_one hH rfl | exact fldOk rfl
    | with_reducible refine State.spWrite_kept ?_ ?_ | with_reducible refine mapFst_kept ?_
    | simp only [Kept.frame_iff, and_self, true_or, or_true] | with_reducible intro _ | dsimp only | split)

theorem State.freePlace_kept {s : State} {i : Nat} {p : Place} (hH : ∀ x ∈ ([.islets] : List Portion), H x = false)
    (hk0 : Kept pk wq H z0 s) : Kept pk wq H z0 (State.freePlace s i p) := by
  unfold State.freePlace
  repeat' (first
    | with_reducible assumption | exact held_sub hH rfl | exact held_one hH rfl | exact fldOk rfl
    | with_reducible refine State.drawn_kept ?_ | with_reducible refine State.modIslet_kept ?_ ?_
    | simp only [Kept.frame_iff, and_self, true_or, or_true] | with_reducible intro _ | dsimp only | split)

theorem State.freeGangOps_kept {s : State} {j : Nat} {ns : List Nat}
    (hH : ∀ x ∈ ([.islets] : List Portion), H x = false) (hk0 : Kept pk wq H z0 s) : Kept pk wq H z0
    (State.freeGangOps s j ns) := by
  unfold State.freeGangOps
  repeat' (first
    | with_reducible assumption | exact held_sub hH rfl | exact held_one hH rfl | exact fldOk rfl
    | with_reducible refine State.freeAcc_kept ?_ ?_ | with_reducible refine State.freeBytes_kept ?_ ?_
    | with_reducible refine foldl_kept ?_ ?_ | with_reducible refine ite_kept ?_ ?_
    | with_reducible refine iteP_kept ?_ ?_ | with_reducible refine foldlP_kept ?_ ?_
    | with_reducible refine foldlP_kept' (by with_reducible assumption) ?_ ?_ | with_reducible intro _ | dsimp only
    | split)

theorem State.freeUnfinished_kept {s : State} {i : Nat} (hH : ∀ x ∈ ([.islets] : List Portion), H x = false)
    (hk0 : Kept pk wq H z0 s) : Kept pk wq H z0 (State.freeUnfinished s i) := by
  unfold State.freeUnfinished
  repeat' (first
    | with_reducible assumption | exact held_sub hH rfl | exact held_one hH rfl | exact fldOk rfl
    | with_reducible refine State.freeBytes_kept ?_ ?_ | with_reducible refine State.freePlace_kept ?_ ?_
    | with_reducible refine State.freeGangOps_kept ?_ ?_ | with_reducible refine foldl_kept ?_ ?_
    | with_reducible refine mapFst_kept ?_ | with_reducible refine ite_kept ?_ ?_
    | with_reducible refine iteP_kept ?_ ?_ | with_reducible refine foldlP_kept ?_ ?_
    | with_reducible refine foldlP_kept' (by with_reducible assumption) ?_ ?_ | with_reducible intro _ | dsimp only
    | split)

theorem State.govStat_kept {s : State} (hH : ∀ x ∈ ([.block .hbr] : List Portion), H x = false)
    (hk0 : Kept pk wq H z0 s) : Kept pk wq H z0 (State.govStat s) := by
  unfold State.govStat
  repeat' (first
    | with_reducible assumption | exact held_sub hH rfl | exact held_one hH rfl | exact fldOk rfl
    | with_reducible refine State.setFld_kept ?_ ?_ ?_ | with_reducible intro _ | dsimp only | split)

theorem State.unqueueWake_kept {s : State} {i : Nat}
    (hH : ∀ x ∈ ([.queues, .gov, .block .hbr] : List Portion), H x = false) (hk0 : Kept pk wq H z0 s) : Kept pk wq H
    z0 (State.unqueueWake s i) := by
  have hQueues : H .queues = false := held_one hH rfl
  have hGov : H .gov = false := held_one hH rfl
  unfold State.unqueueWake
  repeat' (first
    | with_reducible assumption | exact held_sub hH rfl | exact held_one hH rfl | exact fldOk rfl
    | with_reducible refine State.govStat_kept ?_ ?_ | with_reducible refine ite_kept ?_ ?_
    | simp only [Kept.frame_iff, hQueues, hGov, and_self, true_or, or_true] | with_reducible intro _ | dsimp only
    | split)

theorem State.stopIslet_kept {s : State} {i : Nat} {cause : Nat}
    (hH : ∀ x ∈ ([.islets, .queues, .gov, .block .isl, .block .hbr] : List Portion), H x = false)
    (hk0 : Kept pk wq H z0 s) : Kept pk wq H z0 (State.stopIslet s i cause) := by
  unfold State.stopIslet
  repeat' (first
    | with_reducible assumption | exact held_sub hH rfl | exact held_one hH rfl | exact fldOk rfl
    | with_reducible refine State.setFld_kept ?_ ?_ ?_ | with_reducible refine State.modIslet_kept ?_ ?_
    | with_reducible refine State.copyStat_kept ?_ ?_ | with_reducible refine State.queueStat_kept ?_ ?_
    | with_reducible refine State.freeUnfinished_kept ?_ ?_ | with_reducible refine State.unqueueWake_kept ?_ ?_
    | with_reducible refine ite_kept ?_ ?_ | with_reducible intro _ | dsimp only | split)

theorem State.stopIslets_kept {s : State} {is : List Nat}
    (hH : ∀ x ∈ ([.islets, .queues, .gov, .block .isl, .block .hbr] : List Portion), H x = false)
    (hk0 : Kept pk wq H z0 s) : Kept pk wq H z0 (State.stopIslets s is) := by
  unfold State.stopIslets
  repeat' (first
    | with_reducible assumption | exact held_sub hH rfl | exact held_one hH rfl | exact fldOk rfl
    | with_reducible refine State.stopIslet_kept ?_ ?_ | with_reducible refine foldl_kept ?_ ?_
    | with_reducible refine ite_kept ?_ ?_ | with_reducible refine iteP_kept ?_ ?_
    | with_reducible refine foldlP_kept ?_ ?_
    | with_reducible refine foldlP_kept' (by with_reducible assumption) ?_ ?_ | with_reducible intro _ | dsimp only
    | split)

theorem State.startIslet_kept {s : State} {i : Nat} {slot : Nat} {task : Task}
    (hH : ∀ x ∈ ([.islets, .block .isl] : List Portion), H x = false) (hk0 : Kept pk wq H z0 s) : Kept pk wq H z0
    (State.startIslet s i slot task).1 := by
  unfold State.startIslet
  repeat' (first
    | with_reducible assumption | exact held_sub hH rfl | exact held_one hH rfl | exact fldOk rfl
    | with_reducible refine State.setFld_kept ?_ ?_ ?_ | with_reducible refine State.setIslet_kept ?_ ?_
    | with_reducible refine ite_kept ?_ ?_ | with_reducible refine iteP_kept ?_ ?_
    | simp only [Kept.frame_iff, and_self, true_or, or_true] | with_reducible intro _ | dsimp only | split)
theorem State.startIslet_kept' {s : State} {i : Nat} {slot : Nat} {task : Task} {t z}
    (e : State.startIslet s i slot task = (t, z)) (hH : ∀ x ∈ ([.islets, .block .isl] : List Portion), H x = false)
    (hk0 : Kept pk wq H z0 s) : Kept pk wq H z0 t := by
  have k : Kept pk wq H z0 (State.startIslet s i slot task).1 := State.startIslet_kept hH hk0
  rw [e] at k; exact k

theorem State.dropCargo_kept {s : State} {fn : Nat} (hH : ∀ x ∈ ([.lanes] : List Portion), H x = false)
    (hk0 : Kept pk wq H z0 s) : Kept pk wq H z0 (State.dropCargo s fn) := by
  have hLanes : H .lanes = false := held_one hH rfl
  unfold State.dropCargo
  repeat' (first
    | with_reducible assumption | with_reducible refine mapFst_kept ?_ | with_reducible refine ite_kept ?_ ?_
    | simp only [Kept.frame_iff, hLanes, and_self, true_or, or_true] | with_reducible intro _ | dsimp only | split)

theorem State.clearIslet_kept {s : State} {i : Nat} (hH : ∀ x ∈ ([.islets, .block .isl] : List Portion), H x = false)
    (hk0 : Kept pk wq H z0 s) : Kept pk wq H z0 (State.clearIslet s i) := by
  unfold State.clearIslet
  repeat' (first
    | with_reducible assumption | exact held_sub hH rfl | exact held_one hH rfl | exact fldOk rfl
    | with_reducible refine State.setFld_kept ?_ ?_ ?_ | with_reducible refine State.modIslet_kept ?_ ?_
    | with_reducible refine State.copyStat_kept ?_ ?_ | with_reducible refine State.queueStat_kept ?_ ?_
    | simp only [Kept.frame_iff, and_self, true_or, or_true] | with_reducible intro _ | dsimp only | split)

theorem State.unconfigureIslet_kept {s : State} {i : Nat}
    (hH : ∀ x ∈ ([.islets, .block .isl] : List Portion), H x = false) (hk0 : Kept pk wq H z0 s) : Kept pk wq H z0
    (State.unconfigureIslet s i) := by
  unfold State.unconfigureIslet
  repeat' (first
    | with_reducible assumption | exact held_sub hH rfl | exact held_one hH rfl | exact fldOk rfl
    | exact wordOk_zero rfl | exact wordOk_whole rfl | with_reducible refine State.setReg_kept ?_ ?_ ?_
    | with_reducible refine State.setFld_kept ?_ ?_ ?_ | with_reducible refine State.modIslet_kept ?_ ?_
    | simp only [Kept.frame_iff, and_self, true_or, or_true] | with_reducible intro _ | dsimp only | split)

end Sys2Proof.Machine
end

