-- ==== Sys2Proof/Laws/KeptStrait.lean ====
section
/-! SUPPORT. What the operations of Strait.lean keep. -/

namespace Sys2Proof.Machine
open Sys2Proof

variable {pk : Package} {wq : List Instr} {H : Portion → Bool} {z0 : State}

theorem State.straitFull_kept {s : State} {n : Nat} (hH : ∀ x ∈ ([.block .str] : List Portion), H x = false)
    (hk0 : Kept pk wq H z0 s) : Kept pk wq H z0 (State.straitFull s n) := by
  unfold State.straitFull
  repeat' (first
    | with_reducible assumption | exact held_sub hH rfl | exact held_one hH rfl | exact fldOk rfl
    | with_reducible refine State.setFld_kept ?_ ?_ ?_ | with_reducible intro _ | dsimp only | split)

theorem State.straitRefill_kept {s : State} {n : Nat} {ba : Bool} (hH : ∀ x ∈ ([.lanes] : List Portion), H x = false)
    (hk0 : Kept pk wq H z0 s) : Kept pk wq H z0 (State.straitRefill s n ba) := by
  unfold State.straitRefill
  repeat' (first
    | with_reducible assumption | exact held_sub hH rfl | exact held_one hH rfl | exact fldOk rfl
    | with_reducible refine State.setLane_kept ?_ ?_ | with_reducible refine foldl_kept ?_ ?_
    | with_reducible refine iteP_kept ?_ ?_ | with_reducible refine foldlP_kept ?_ ?_
    | with_reducible refine foldlP_kept' (by with_reducible assumption) ?_ ?_ | with_reducible intro _ | dsimp only
    | split)

theorem execStraitUnitSend_kept {n : Nat} {ba : Bool} {s : State}
    (hH : ∀ x ∈ ([.lanes, .block .str] : List Portion), H x = false) (hk0 : Kept pk wq H z0 s) : Kept.Outcome pk wq H
    z0 (execStraitUnitSend n ba s) := by
  unfold execStraitUnitSend
  repeat' (first
    | with_reducible assumption | exact held_sub hH rfl | exact held_one hH rfl | exact fldOk rfl
    | with_reducible refine State.setLane_kept ?_ ?_ | with_reducible refine State.straitFull_kept ?_ ?_
    | with_reducible refine State.straitRefill_kept ?_ ?_ | with_reducible refine foldl_kept ?_ ?_
    | with_reducible refine ite_kept ?_ ?_ | with_reducible refine iteP_kept ?_ ?_
    | with_reducible refine iteO_kept ?_ ?_ | with_reducible refine foldlP_kept ?_ ?_
    | with_reducible refine foldlP_kept' (by with_reducible assumption) ?_ ?_
    | simp only [Kept.frame_iff, and_self, true_or, or_true] | with_reducible refine Kept.next ?_
    | with_reducible intro _ | dsimp only | split)

theorem State.straitRetryState_kept {s : State} {n : Nat} (hH : ∀ x ∈ ([.block .str] : List Portion), H x = false)
    (hk0 : Kept pk wq H z0 s) : Kept pk wq H z0 (State.straitRetryState s n) := by
  unfold State.straitRetryState
  repeat' (first
    | with_reducible assumption | exact held_sub hH rfl | exact held_one hH rfl | exact fldOk rfl
    | with_reducible refine State.setFld_kept ?_ ?_ ?_ | with_reducible refine ite_kept ?_ ?_ | with_reducible intro _
    | dsimp only | split)

theorem State.straitRetry_kept {s : State} {n : Nat} {ba : Bool} {cls : Nat} {syndrome : Nat}
    (hH : ∀ x ∈ ([.lanes, .block .str] : List Portion), H x = false) (hk0 : Kept pk wq H z0 s) : Kept pk wq H z0
    (State.straitRetry s n ba cls syndrome) := by
  unfold State.straitRetry
  repeat' (first
    | with_reducible assumption | exact held_sub hH rfl | exact held_one hH rfl | exact fldOk rfl
    | with_reducible refine State.setFld_kept ?_ ?_ ?_ | with_reducible refine State.satFld_kept ?_ ?_ ?_
    | with_reducible refine State.setLane_kept ?_ ?_ | with_reducible refine State.straitFull_kept ?_ ?_
    | with_reducible refine State.straitRetryState_kept ?_ ?_ | with_reducible refine mapFst_kept ?_
    | simp only [Kept.frame_iff, and_self, true_or, or_true] | with_reducible intro _ | dsimp only | split)

theorem State.straitPass_kept {s : State} {n : Nat} {ba : Bool} {cls : Nat}
    (hH : ∀ x ∈ ([.lanes, .block .str] : List Portion), H x = false) (hk0 : Kept pk wq H z0 s) : Kept pk wq H z0
    (State.straitPass s n ba cls) := by
  unfold State.straitPass
  repeat' (first
    | with_reducible assumption | exact held_sub hH rfl | exact held_one hH rfl | exact fldOk rfl
    | with_reducible refine State.addFld_kept ?_ ?_ ?_ | with_reducible refine State.setLane_kept ?_ ?_
    | with_reducible refine State.straitFull_kept ?_ ?_ | with_reducible refine State.straitRetryState_kept ?_ ?_
    | with_reducible refine ite_kept ?_ ?_ | simp only [Kept.frame_iff, and_self, true_or, or_true]
    | with_reducible intro _ | dsimp only | split)

theorem State.crossbarMove_kept {s : State} {die : Nat} {out : Nat} {cls : Nat} {n : Nat} {u : StraitUnit}
    {rest : List StraitUnit} (hH : ∀ x ∈ ([.lanes, .block .str] : List Portion), H x = false)
    (hk0 : Kept pk wq H z0 s) : Kept pk wq H z0 (State.crossbarMove s die out cls n u rest) := by
  have hLanes : H .lanes = false := held_one hH rfl
  unfold State.crossbarMove
  repeat' (first
    | with_reducible assumption | exact held_sub hH rfl | exact held_one hH rfl | exact fldOk rfl
    | with_reducible refine State.setLane_kept ?_ ?_ | with_reducible refine State.straitFull_kept ?_ ?_
    | simp only [Kept.frame_iff, hLanes, and_self, true_or, or_true] | with_reducible intro _ | dsimp only | split)

theorem State.crossbarForward_kept {s : State} {die : Nat} {out : Nat} {cls : Nat}
    (hH : ∀ x ∈ ([.lanes, .block .str] : List Portion), H x = false) (hk0 : Kept pk wq H z0 s) : Kept pk wq H z0
    (State.crossbarForward s die out cls) := by
  unfold State.crossbarForward
  repeat' (first
    | with_reducible assumption | exact held_sub hH rfl | exact held_one hH rfl | exact fldOk rfl
    | with_reducible refine State.crossbarMove_kept ?_ ?_ | with_reducible refine ite_kept ?_ ?_
    | with_reducible intro _ | dsimp only | split)

theorem State.straitDown_kept {s : State} {n : Nat} (hH : ∀ x ∈ ([.lanes, .block .str] : List Portion), H x = false)
    (hk0 : Kept pk wq H z0 s) : Kept pk wq H z0 (State.straitDown s n) := by
  have hLanes : H .lanes = false := held_one hH rfl
  unfold State.straitDown
  repeat' (first
    | with_reducible assumption | exact held_sub hH rfl | exact held_one hH rfl | exact fldOk rfl
    | with_reducible refine State.setFld_kept ?_ ?_ ?_ | with_reducible refine State.straitFull_kept ?_ ?_
    | simp only [Kept.frame_iff, hLanes, and_self, true_or, or_true] | with_reducible intro _ | dsimp only | split)

theorem State.straitUp_kept {s : State} {n : Nat} (hH : ∀ x ∈ ([.block .str] : List Portion), H x = false)
    (hk0 : Kept pk wq H z0 s) : Kept pk wq H z0 (State.straitUp s n) := by
  unfold State.straitUp
  repeat' (first
    | with_reducible assumption | exact held_sub hH rfl | exact held_one hH rfl | exact fldOk rfl
    | with_reducible refine State.setFld_kept ?_ ?_ ?_ | with_reducible refine ite_kept ?_ ?_ | with_reducible intro _
    | dsimp only | split)

end Sys2Proof.Machine
end

