-- ==== Sys2Proof/Laws/KeptChannel.lean ====
section
/-! SUPPORT. What the operations of Channel.lean keep. -/

namespace Sys2Proof.Machine
open Sys2Proof

variable {pk : Package} {wq : List Instr} {H : Portion → Bool} {z0 : State}

theorem State.unitToEnd_kept {s : State} {j : Nat} {c : Nat} {e : RecvEnd} {u : ChanUnit}
    (hH : ∀ x ∈ ([.islets] : List Portion), H x = false) (hk0 : Kept pk wq H z0 s) : KeptSome pk wq H z0
    (State.unitToEnd s j c e u) := by
  unfold State.unitToEnd
  repeat' (first
    | with_reducible assumption | exact held_sub hH rfl | exact held_one hH rfl | exact fldOk rfl
    | with_reducible refine State.modIslet_kept ?_ ?_ | with_reducible refine ite_kept ?_ ?_
    | with_reducible refine iteS_kept ?_ ?_ | simp only [Kept.frame_iff, and_self, true_or, or_true]
    | with_reducible exact KeptSome.none | with_reducible refine KeptSome.some ?_
    | with_reducible refine KeptIn.some ?_ | with_reducible exact KeptIn.none | with_reducible intro _ | dsimp only
    | split)
theorem State.unitToEnd_kept' {s : State} {j : Nat} {c : Nat} {e : RecvEnd} {u : ChanUnit} {t}
    (e1 : State.unitToEnd s j c e u = some t) (hH : ∀ x ∈ ([.islets] : List Portion), H x = false)
    (hk0 : Kept pk wq H z0 s) : Kept pk wq H z0 t :=
  State.unitToEnd_kept hH hk0 _ e1

theorem State.unitToPort_kept {s : State} {j : Nat} {port : Nat} {id : Nat} {u : ChanUnit}
    (hH : ∀ x ∈ ([.islets] : List Portion), H x = false) (hk0 : Kept pk wq H z0 s) : KeptSome pk wq H z0
    (State.unitToPort s j port id u) := by
  unfold State.unitToPort
  repeat' (first
    | with_reducible assumption | exact held_sub hH rfl | exact held_one hH rfl | exact fldOk rfl
    | with_reducible refine State.modIslet_kept ?_ ?_ | with_reducible refine id_kept ?_
    | with_reducible refine ite_kept ?_ ?_ | with_reducible refine iteS_kept ?_ ?_
    | simp only [Kept.frame_iff, and_self, true_or, or_true] | with_reducible exact KeptSome.none
    | with_reducible refine KeptSome.some ?_ | with_reducible refine KeptIn.some ?_ | with_reducible exact KeptIn.none
    | with_reducible intro _ | dsimp only | split)
theorem State.unitToPort_kept' {s : State} {j : Nat} {port : Nat} {id : Nat} {u : ChanUnit} {t}
    (e : State.unitToPort s j port id u = some t) (hH : ∀ x ∈ ([.islets] : List Portion), H x = false)
    (hk0 : Kept pk wq H z0 s) : Kept pk wq H z0 t :=
  State.unitToPort_kept hH hk0 _ e

/-- The state in which a unit has arrived is kept. -/
theorem State.unitArrive_kept {s t : State} {j port id : Nat} {u : ChanUnit}
    (hH : ∀ x ∈ ([.islets] : List Portion), H x = false)
    (h : Kept pk wq H z0 s)
    (e : State.unitArrive s j port id u = some (some t)) : Kept pk wq H z0 t := by
  unfold State.unitArrive at e
  dsimp only at e
  split at e
  · split at e
    · obtain ⟨x, -, hx⟩ := Option.map_eq_some_iff.1 e
      exact State.unitToEnd_kept (held_sub hH rfl) h _ hx
    · split at e
      · exact State.unitToPort_kept (held_sub hH rfl) h _ (Option.some.inj e)
      · cases e
  · obtain ⟨x, -, hx⟩ := Option.map_eq_some_iff.1 e
    exact State.unitToEnd_kept (held_sub hH rfl) h _ hx

theorem State.hopTo_kept {s t : State} {j port id : Nat} {u : ChanUnit}
    (hH : ∀ x ∈ ([.islets] : List Portion), H x = false)
    (h : Kept pk wq H z0 s)
    (e : State.hopTo s j port id u = .moved t) : Kept pk wq H z0 t := by
  unfold State.hopTo at e
  split at e
  · cases e
  · split at e
    · next e' => cases e; exact State.unitArrive_kept (held_sub hH rfl) h e'
    · cases e
    · cases e

theorem State.hopLink_kept {s t : State} {i port id : Nat} {u : ChanUnit}
    (hH : ∀ x ∈ ([.islets, .lanes, .block .img] : List Portion), H x = false)
    (h : Kept pk wq H z0 s)
    (e : State.hopLink s i port id u = .moved t) : Kept pk wq H z0 t := by
  unfold State.hopLink at e
  dsimp only at e
  split at e
  · split at e
    · cases e
    · split at e
      · cases e; exact State.boundaryDrop_kept (held_sub hH rfl) h
      · split at e
        · exact State.hopTo_kept (held_sub hH rfl) h e
        · split at e
          · cases e
          · cases e; exact State.straitPut_kept (held_sub hH rfl) h
  · split at e
    · cases e; exact State.boundaryDrop_kept (held_sub hH rfl) h
    · split at e
      · cases e; exact State.boundaryDrop_kept (held_sub hH rfl) h
      · exact State.hopTo_kept (held_sub hH rfl) h e

theorem State.hopOut_kept {s t : State} {i c : Nat} {e : SendEnd} {u : ChanUnit}
    (hH : ∀ x ∈ ([.islets] : List Portion), H x = false)
    (h : Kept pk wq H z0 s)
    (e' : State.hopOut s i c e u = .moved t) : Kept pk wq H z0 t := by
  unfold State.hopOut at e'
  split at e'
  · exact State.hopTo_kept (held_sub hH rfl) h e'
  · split at e'
    · cases e'
    · split at e'
      · next k => cases e'; exact State.unitToPort_kept (held_sub hH rfl) h _ k
      · cases e'

theorem State.hopTaken_kept {s : State} {i : Nat} {port : Nat} {id : Nat}
    (hH : ∀ x ∈ ([.islets] : List Portion), H x = false) (hk0 : Kept pk wq H z0 s) : Kept pk wq H z0
    (State.hopTaken s i port id) := by
  unfold State.hopTaken
  repeat' (first
    | with_reducible assumption | exact held_sub hH rfl | exact held_one hH rfl | exact fldOk rfl
    | with_reducible refine State.modIslet_kept ?_ ?_ | with_reducible refine id_kept ?_
    | with_reducible refine ite_kept ?_ ?_ | simp only [Kept.frame_iff, and_self, true_or, or_true]
    | with_reducible intro _ | dsimp only | split)

theorem State.laneTake_kept {s t : State} {n : Nat} {ba : Bool} {cls : Nat}
    (hH : ∀ x ∈ ([.islets, .lanes, .block .str, .block .img] : List Portion), H x = false)
    (h : Kept pk wq H z0 s)
    (e : State.laneTake s n ba cls = some (.next t)) : Kept pk wq H z0 t := by
  have k (rest : List StraitUnit) := State.straitFull_kept (held_sub hH rfl) (n := n) (State.setLane_kept (held_sub hH rfl) (n := n) (ba := ba) (cls := cls)
    (l := { s.lane n ba cls with reader := rest }) h)
  unfold State.laneTake at e
  dsimp only at e
  split at e
  · cases e
  · split at e
    · cases e
    · split at e
      · cases e; exact k _
      · split at e
        · cases e; exact State.boundaryDrop_kept (held_sub hH rfl) (k _)
        · split at e
          · next e' => cases e; exact State.hopTo_kept (held_sub hH rfl) (k _) e'
          · cases e
          · cases e

theorem State.laneDrain_kept {fuel : Nat} {s : State} {n : Nat} {ba : Bool} {cls : Nat}
    (hH : ∀ x ∈ ([.islets, .lanes, .block .str, .block .img] : List Portion), H x = false)
    (h : Kept pk wq H z0 s) :
    Kept.Outcome pk wq H z0 (State.laneDrain fuel s n ba cls) := by
  induction fuel generalizing s with
  | zero => exact Kept.next h | succ fuel ih =>
    rw [State.laneDrain]
    split
    · next e => exact ih (State.laneTake_kept (held_sub hH rfl) h e)
    · next e => exact fun t k => State.laneTake_kept (held_sub hH rfl) h (e.trans (congrArg some k))
    · exact Kept.next h

theorem State.dieDrain_kept {s : State} {die : Nat} {l : List (Nat × Nat)}
    (hH : ∀ x ∈ ([.islets, .lanes, .block .str, .block .img] : List Portion), H x = false)
    (h : Kept pk wq H z0 s) :
    Kept.Outcome pk wq H z0 (State.dieDrain s die l) := by
  induction l generalizing s with
  | nil => exact Kept.next h | cons y l ih =>
    rw [State.dieDrain]
    split
    · next e => exact ih (Kept.out (State.laneDrain_kept (held_sub hH rfl) h) e)
    · exact State.laneDrain_kept (held_sub hH rfl) h

theorem State.dieTakes_kept {s : State} {die : Nat}
    (hH : ∀ x ∈ ([.islets, .lanes, .block .str, .block .img] : List Portion), H x = false) (hk0 : Kept pk wq H z0 s) :
    Kept.Outcome pk wq H z0 (State.dieTakes s die) := by
  unfold State.dieTakes
  repeat' (first
    | with_reducible assumption | exact held_sub hH rfl | exact held_one hH rfl | exact fldOk rfl
    | with_reducible refine State.dieDrain_kept ?_ ?_ | with_reducible refine ite_kept ?_ ?_
    | with_reducible refine iteO_kept ?_ ?_
    | with_reducible refine Kept.out (State.dieDrain_kept ?_ ?_) (by with_reducible assumption)
    | with_reducible refine Kept.next ?_ | with_reducible intro _ | dsimp only | split)

theorem execStraitCrossbarForward_kept {die : Nat} {out : Nat} {cls : Nat} {s : State}
    (hH : ∀ x ∈ ([.islets, .lanes, .block .str, .block .img] : List Portion), H x = false) (hk0 : Kept pk wq H z0 s) :
    Kept.Outcome pk wq H z0 (execStraitCrossbarForward die out cls s) := by
  unfold execStraitCrossbarForward
  repeat' (first
    | with_reducible assumption | exact held_sub hH rfl | exact held_one hH rfl | exact fldOk rfl
    | with_reducible refine State.crossbarForward_kept ?_ ?_ | with_reducible refine State.dieTakes_kept ?_ ?_
    | with_reducible refine iteO_kept ?_ ?_
    | with_reducible refine Kept.out (State.dieTakes_kept ?_ ?_) (by with_reducible assumption)
    | with_reducible refine Kept.next ?_ | with_reducible intro _ | dsimp only | split)

theorem State.hopFirst_kept {s : State} {i port : Nat} {l : List (Nat × ChanUnit)}
    (hH : ∀ x ∈ ([.islets, .lanes, .block .str, .block .img] : List Portion), H x = false)
    (h : Kept pk wq H z0 s) :
    Kept.Outcome pk wq H z0 (State.hopFirst s i port l) := by
  induction l with
  | nil => exact Kept.next h | cons y l ih =>
    rw [State.hopFirst]
    split
    · next e =>
      split at e
      · exact State.dieTakes_kept (held_sub hH rfl) (State.hopOut_kept (held_sub hH rfl) (State.hopTaken_kept (held_sub hH rfl) h) e)
      · exact State.dieTakes_kept (held_sub hH rfl) (State.hopLink_kept (held_sub hH rfl) (State.hopTaken_kept (held_sub hH rfl) h) e)
    · exact ih
    · exact Kept.fault

theorem execChannelUnitHop_kept {islet : Nat} {port : Nat} {s : State}
    (hH : ∀ x ∈ ([.islets, .lanes, .block .str, .block .img] : List Portion), H x = false) (hk0 : Kept pk wq H z0 s) :
    Kept.Outcome pk wq H z0 (execChannelUnitHop islet port s) := by
  unfold execChannelUnitHop
  repeat' (first
    | with_reducible assumption | exact held_sub hH rfl | exact held_one hH rfl | exact fldOk rfl
    | with_reducible refine State.hopFirst_kept ?_ ?_ | with_reducible refine ite_kept ?_ ?_
    | with_reducible refine iteO_kept ?_ ?_
    | with_reducible refine Kept.out (State.hopFirst_kept ?_ ?_) (by with_reducible assumption)
    | with_reducible refine Kept.next ?_ | with_reducible intro _ | dsimp only | split)

theorem State.portBWrite_kept {s : State} {i : Nat} {w : PortBWrite} {losses : Nat}
    (hH : ∀ x ∈ ([.islets, .block .isl] : List Portion), H x = false) (hk0 : Kept pk wq H z0 s) : Kept pk wq H z0
    (State.portBWrite s i w losses) := by
  unfold State.portBWrite
  repeat' (first
    | with_reducible assumption | exact held_sub hH rfl | exact held_one hH rfl | exact fldOk rfl
    | with_reducible refine State.satFld_kept ?_ ?_ ?_ | with_reducible refine State.modIslet_kept ?_ ?_
    | with_reducible refine State.spWrite_kept ?_ ?_ | with_reducible refine ite_kept ?_ ?_
    | simp only [Kept.frame_iff, and_self, true_or, or_true] | with_reducible intro _ | dsimp only | split)

theorem State.unitReceived_kept {s : State} {i : Nat} {c : Nat}
    (hH : ∀ x ∈ ([.islets, .block .isl] : List Portion), H x = false) (hk0 : Kept pk wq H z0 s) : Kept pk wq H z0
    (State.unitReceived s i c) := by
  unfold State.unitReceived
  repeat' (first
    | with_reducible assumption | exact held_sub hH rfl | exact held_one hH rfl | exact fldOk rfl
    | with_reducible refine State.addFld_kept ?_ ?_ ?_ | with_reducible refine State.setIslet_kept ?_ ?_
    | simp only [Kept.frame_iff, and_self, true_or, or_true] | with_reducible intro _ | dsimp only | split)

theorem execChannelUnitReceive_kept {islet chan losses : Nat} {s : State}
    (hH : ∀ x ∈ ([.islets, .block .isl] : List Portion), H x = false)
    (h : Kept pk wq H z0 s) :
    Kept.Outcome pk wq H z0 (execChannelUnitReceive islet chan losses s) := by
  unfold execChannelUnitReceive
  dsimp only
  split
  · exact Kept.next h
  · refine iteO_kept (Kept.next h) ?_
    exact Kept.next (ite_kept (State.portBWrite_kept (held_sub hH rfl) h) (State.unitReceived_kept (held_sub hH rfl) (State.portBWrite_kept (held_sub hH rfl) h)))

theorem execChannelCreditReturn_kept {islet : Nat} {chan : Nat} {s : State}
    (hH : ∀ x ∈ ([.islets] : List Portion), H x = false) (hk0 : Kept pk wq H z0 s) : Kept.Outcome pk wq H z0
    (execChannelCreditReturn islet chan s) := by
  unfold execChannelCreditReturn
  repeat' (first
    | with_reducible assumption | exact held_sub hH rfl | exact held_one hH rfl | exact fldOk rfl
    | with_reducible refine State.setIslet_kept ?_ ?_ | with_reducible refine iteO_kept ?_ ?_
    | simp only [Kept.frame_iff, and_self, true_or, or_true] | with_reducible refine Kept.next ?_
    | with_reducible intro _ | dsimp only | split)

theorem execCollisionForcedGrant_kept {islet : Nat} {bank : Nat} {s : State}
    (hH : ∀ x ∈ ([.islets, .block .isl] : List Portion), H x = false) (hk0 : Kept pk wq H z0 s) : Kept.Outcome pk wq H
    z0 (execCollisionForcedGrant islet bank s) := by
  unfold execCollisionForcedGrant
  repeat' (first
    | with_reducible assumption | exact held_sub hH rfl | exact held_one hH rfl | exact fldOk rfl
    | with_reducible refine State.satFld_kept ?_ ?_ ?_ | with_reducible refine State.modIslet_kept ?_ ?_
    | with_reducible refine State.spWrite_kept ?_ ?_ | with_reducible refine State.unitReceived_kept ?_ ?_
    | with_reducible refine mapFst_kept ?_ | with_reducible refine ite_kept ?_ ?_
    | with_reducible refine iteO_kept ?_ ?_ | simp only [Kept.frame_iff, and_self, true_or, or_true]
    | with_reducible refine Kept.next ?_ | with_reducible intro _ | dsimp only | split)

end Sys2Proof.Machine
end

