-- ==== Sys2Proof/Laws/KeptSequencer.lean ====
section
/-! SUPPORT. What the operations of Sequencer.lean keep. -/

namespace Sys2Proof.Machine
open Sys2Proof

variable {pk : Package} {wq : List Instr} {H : Portion → Bool} {z0 : State}

theorem State.seqAt_kept {s : State} {i : Nat} {pc : Nat} (hH : ∀ x ∈ ([.block .isl] : List Portion), H x = false)
    (hk0 : Kept pk wq H z0 s) : Kept pk wq H z0 (State.seqAt s i pc) := by
  unfold State.seqAt
  repeat' (first
    | with_reducible assumption | exact held_sub hH rfl | exact held_one hH rfl | exact fldOk rfl
    | with_reducible refine State.setFld_kept ?_ ?_ ?_ | with_reducible intro _ | dsimp only | split)

theorem State.seqNext_kept {s : State} {i : Nat} (hH : ∀ x ∈ ([.block .isl] : List Portion), H x = false)
    (hk0 : Kept pk wq H z0 s) : Kept pk wq H z0 (State.seqNext s i) := by
  unfold State.seqNext
  repeat' (first
    | with_reducible assumption | exact held_sub hH rfl | exact held_one hH rfl | exact fldOk rfl
    | with_reducible refine State.seqAt_kept ?_ ?_ | with_reducible intro _ | dsimp only | split)

theorem State.seqStall_kept {s : State} {i : Nat} (hH : ∀ x ∈ ([.block .isl] : List Portion), H x = false)
    (hk0 : Kept pk wq H z0 s) : Kept pk wq H z0 (State.seqStall s i) := by
  unfold State.seqStall
  repeat' (first
    | with_reducible assumption | exact held_sub hH rfl | exact held_one hH rfl | exact fldOk rfl
    | with_reducible refine State.setFld_kept ?_ ?_ ?_ | with_reducible intro _ | dsimp only | split)

theorem State.insMx_kept {s : State} {i : Nat} {w : Word}
    (hH : ∀ x ∈ ([.islets, .block .isl] : List Portion), H x = false) (hk0 : Kept pk wq H z0 s) : Kept pk wq H z0
    (State.insMx s i w) := by
  unfold State.insMx
  repeat' (first
    | with_reducible assumption | exact held_sub hH rfl | exact held_one hH rfl | exact fldOk rfl
    | with_reducible refine State.modIslet_kept ?_ ?_ | with_reducible refine State.queueStat_kept ?_ ?_
    | with_reducible refine State.seqNext_kept ?_ ?_ | with_reducible refine State.seqStall_kept ?_ ?_
    | with_reducible refine ite_kept ?_ ?_ | simp only [Kept.frame_iff, and_self, true_or, or_true]
    | with_reducible intro _ | dsimp only | split)

theorem State.insVx_kept {s : State} {i : Nat} {w : Word}
    (hH : ∀ x ∈ ([.islets, .block .isl] : List Portion), H x = false) (hk0 : Kept pk wq H z0 s) : Kept pk wq H z0
    (State.insVx s i w) := by
  unfold State.insVx
  repeat' (first
    | with_reducible assumption | exact held_sub hH rfl | exact held_one hH rfl | exact fldOk rfl
    | with_reducible refine State.modIslet_kept ?_ ?_ | with_reducible refine State.queueStat_kept ?_ ?_
    | with_reducible refine State.seqNext_kept ?_ ?_ | with_reducible refine State.seqStall_kept ?_ ?_
    | with_reducible refine ite_kept ?_ ?_ | simp only [Kept.frame_iff, and_self, true_or, or_true]
    | with_reducible intro _ | dsimp only | split)

theorem State.insCopy_kept {s : State} {i : Nat} {w : Word}
    (hH : ∀ x ∈ ([.islets, .block .isl] : List Portion), H x = false) (hk0 : Kept pk wq H z0 s) : Kept pk wq H z0
    (State.insCopy s i w) := by
  unfold State.insCopy
  repeat' (first
    | with_reducible assumption | exact held_sub hH rfl | exact held_one hH rfl | exact fldOk rfl
    | with_reducible refine State.modIslet_kept ?_ ?_ | with_reducible refine State.copyStat_kept ?_ ?_
    | with_reducible refine State.seqNext_kept ?_ ?_ | with_reducible refine State.seqStall_kept ?_ ?_
    | with_reducible refine ite_kept ?_ ?_ | simp only [Kept.frame_iff, and_self, true_or, or_true]
    | with_reducible intro _ | dsimp only | split)

theorem State.insSend_kept {s : State} {i : Nat} {w : Word}
    (hH : ∀ x ∈ ([.islets, .block .isl] : List Portion), H x = false) (hk0 : Kept pk wq H z0 s) : Kept.Outcome pk wq H
    z0 (State.insSend s i w) := by
  unfold State.insSend
  repeat' (first
    | with_reducible assumption | exact held_sub hH rfl | exact held_one hH rfl | exact fldOk rfl
    | with_reducible refine State.addFld_kept ?_ ?_ ?_ | with_reducible refine State.setIslet_kept ?_ ?_
    | with_reducible refine State.seqNext_kept ?_ ?_ | with_reducible refine State.seqStall_kept ?_ ?_
    | with_reducible refine mapFst_kept ?_ | with_reducible refine ite_kept ?_ ?_
    | with_reducible refine iteO_kept ?_ ?_ | simp only [Kept.frame_iff, and_self, true_or, or_true]
    | with_reducible refine Kept.next ?_ | with_reducible exact Kept.fault | with_reducible intro _ | dsimp only
    | split)

theorem State.insRecv_kept {s : State} {i : Nat} {w : Word}
    (hH : ∀ x ∈ ([.islets, .lanes, .block .isl] : List Portion), H x = false) (hk0 : Kept pk wq H z0 s) : Kept.Outcome
    pk wq H z0 (State.insRecv s i w) := by
  unfold State.insRecv
  repeat' (first
    | with_reducible assumption | exact held_sub hH rfl | exact held_one hH rfl | exact fldOk rfl
    | with_reducible refine State.sendPacket_kept ?_ ?_ | with_reducible refine State.setIslet_kept ?_ ?_
    | with_reducible refine State.seqNext_kept ?_ ?_ | with_reducible refine State.seqStall_kept ?_ ?_
    | with_reducible refine foldl_kept ?_ ?_ | with_reducible refine ite_kept ?_ ?_
    | with_reducible refine iteP_kept ?_ ?_ | with_reducible refine iteO_kept ?_ ?_
    | with_reducible refine foldlP_kept ?_ ?_
    | with_reducible refine foldlP_kept' (by with_reducible assumption) ?_ ?_
    | simp only [Kept.frame_iff, and_self, true_or, or_true] | with_reducible refine Kept.next ?_
    | with_reducible exact Kept.fault | with_reducible intro _ | dsimp only | split)

theorem State.insWait_kept {s : State} {i : Nat} {w : Word} (hH : ∀ x ∈ ([.block .isl] : List Portion), H x = false)
    (hk0 : Kept pk wq H z0 s) : Kept pk wq H z0 (State.insWait s i w) := by
  unfold State.insWait
  repeat' (first
    | with_reducible assumption | exact held_sub hH rfl | exact held_one hH rfl | exact fldOk rfl
    | with_reducible refine State.clearFlags_kept ?_ ?_ | with_reducible refine State.seqNext_kept ?_ ?_
    | with_reducible refine State.seqStall_kept ?_ ?_ | with_reducible refine ite_kept ?_ ?_ | with_reducible intro _
    | dsimp only | split)

theorem State.insSignal_kept {s : State} {i : Nat} {w : Word}
    (hH : ∀ x ∈ ([.lanes, .block .img, .block .isl] : List Portion), H x = false) (hk0 : Kept pk wq H z0 s) : Kept pk
    wq H z0 (State.insSignal s i w) := by
  unfold State.insSignal
  repeat' (first
    | with_reducible assumption | exact held_sub hH rfl | exact held_one hH rfl | exact fldOk rfl
    | with_reducible refine State.sendPacket_kept ?_ ?_ | with_reducible refine State.boundaryDrop_kept ?_ ?_
    | with_reducible refine State.seqNext_kept ?_ ?_ | with_reducible refine ite_kept ?_ ?_
    | simp only [Kept.frame_iff, and_self, true_or, or_true] | with_reducible intro _ | dsimp only | split)

theorem State.setCounter_kept {s : State} {i : Nat} {c : Nat} {v : Nat}
    (hH : ∀ x ∈ ([.islets] : List Portion), H x = false) (hk0 : Kept pk wq H z0 s) : Kept pk wq H z0
    (State.setCounter s i c v) := by
  unfold State.setCounter
  repeat' (first
    | with_reducible assumption | exact held_sub hH rfl | exact held_one hH rfl | exact fldOk rfl
    | with_reducible refine State.modIslet_kept ?_ ?_ | simp only [Kept.frame_iff, and_self, true_or, or_true]
    | with_reducible intro _ | dsimp only | split)

theorem State.insLoop_kept {s : State} {i : Nat} {w : Word}
    (hH : ∀ x ∈ ([.islets, .block .isl] : List Portion), H x = false) (hk0 : Kept pk wq H z0 s) : Kept pk wq H z0
    (State.insLoop s i w) := by
  unfold State.insLoop
  repeat' (first
    | with_reducible assumption | exact held_sub hH rfl | exact held_one hH rfl | exact fldOk rfl
    | with_reducible refine State.seqAt_kept ?_ ?_ | with_reducible refine State.seqNext_kept ?_ ?_
    | with_reducible refine State.setCounter_kept ?_ ?_ | with_reducible refine ite_kept ?_ ?_
    | with_reducible intro _ | dsimp only | split)

theorem State.insFence_kept {s : State} {i : Nat} (hH : ∀ x ∈ ([.block .isl] : List Portion), H x = false)
    (hk0 : Kept pk wq H z0 s) : Kept pk wq H z0 (State.insFence s i) := by
  unfold State.insFence
  repeat' (first
    | with_reducible assumption | exact held_sub hH rfl | exact held_one hH rfl | exact fldOk rfl
    | with_reducible refine State.seqNext_kept ?_ ?_ | with_reducible refine State.seqStall_kept ?_ ?_
    | with_reducible refine ite_kept ?_ ?_ | with_reducible intro _ | dsimp only | split)

theorem State.insHalt_kept {s : State} {i : Nat} (hH : ∀ x ∈ ([.lanes, .block .isl] : List Portion), H x = false)
    (hk0 : Kept pk wq H z0 s) : Kept pk wq H z0 (State.insHalt s i) := by
  unfold State.insHalt
  repeat' (first
    | with_reducible assumption | exact held_sub hH rfl | exact held_one hH rfl | exact fldOk rfl
    | with_reducible refine State.setFld_kept ?_ ?_ ?_ | with_reducible refine State.sendPacket_kept ?_ ?_
    | simp only [Kept.frame_iff, and_self, true_or, or_true] | with_reducible intro _ | dsimp only | split)

theorem State.runIns_kept {s : State} {i : Nat}
    (hH : ∀ x ∈ ([.islets, .lanes, .block .img, .block .isl] : List Portion), H x = false) (hk0 : Kept pk wq H z0 s) :
    Kept.Outcome pk wq H z0 (State.runIns s i) := by
  unfold State.runIns
  repeat' (first
    | with_reducible assumption | exact held_sub hH rfl | exact held_one hH rfl | exact fldOk rfl
    | with_reducible refine State.setFlags_kept ?_ ?_ | with_reducible refine State.clearFlags_kept ?_ ?_
    | with_reducible refine State.seqAt_kept ?_ ?_ | with_reducible refine State.seqNext_kept ?_ ?_
    | with_reducible refine State.insMx_kept ?_ ?_ | with_reducible refine State.insVx_kept ?_ ?_
    | with_reducible refine State.insCopy_kept ?_ ?_ | with_reducible refine State.insSend_kept ?_ ?_
    | with_reducible refine State.insRecv_kept ?_ ?_ | with_reducible refine State.insWait_kept ?_ ?_
    | with_reducible refine State.insSignal_kept ?_ ?_ | with_reducible refine State.setCounter_kept ?_ ?_
    | with_reducible refine State.insLoop_kept ?_ ?_ | with_reducible refine State.insFence_kept ?_ ?_
    | with_reducible refine State.insHalt_kept ?_ ?_ | with_reducible refine iteO_kept ?_ ?_
    | with_reducible refine Kept.out (State.insSend_kept ?_ ?_) (by with_reducible assumption)
    | with_reducible refine Kept.out (State.insRecv_kept ?_ ?_) (by with_reducible assumption)
    | with_reducible refine Kept.next ?_ | with_reducible exact Kept.fault | with_reducible intro _ | dsimp only
    | split)

theorem State.issue_kept {s : State} {i : Nat} {op : Nat}
    (hH : ∀ x ∈ ([.islets, .lanes, .block .img, .block .isl] : List Portion), H x = false) (hk0 : Kept pk wq H z0 s) :
    Kept.Outcome pk wq H z0 (State.issue s i op) := by
  unfold State.issue
  repeat' (first
    | with_reducible assumption | exact held_sub hH rfl | exact held_one hH rfl | exact fldOk rfl
    | with_reducible refine State.runIns_kept ?_ ?_ | with_reducible refine ite_kept ?_ ?_
    | with_reducible refine iteO_kept ?_ ?_
    | with_reducible refine Kept.out (State.runIns_kept ?_ ?_) (by with_reducible assumption)
    | with_reducible refine Kept.next ?_ | with_reducible intro _ | dsimp only | split)

theorem execSeqNop_kept {islet : Nat} {s : State}
    (hH : ∀ x ∈ ([.islets, .lanes, .block .img, .block .isl] : List Portion), H x = false) (hk0 : Kept pk wq H z0 s) :
    Kept.Outcome pk wq H z0 (execSeqNop islet s) := by
  unfold execSeqNop
  repeat' (first
    | with_reducible assumption | exact held_sub hH rfl | exact held_one hH rfl | exact fldOk rfl
    | with_reducible refine State.issue_kept ?_ ?_ | with_reducible refine iteO_kept ?_ ?_
    | with_reducible refine Kept.out (State.issue_kept ?_ ?_) (by with_reducible assumption)
    | with_reducible refine Kept.next ?_ | with_reducible intro _ | dsimp only | split)

theorem execSeqMx_kept {islet : Nat} {s : State}
    (hH : ∀ x ∈ ([.islets, .lanes, .block .img, .block .isl] : List Portion), H x = false) (hk0 : Kept pk wq H z0 s) :
    Kept.Outcome pk wq H z0 (execSeqMx islet s) := by
  unfold execSeqMx
  repeat' (first
    | with_reducible assumption | exact held_sub hH rfl | exact held_one hH rfl | exact fldOk rfl
    | with_reducible refine State.issue_kept ?_ ?_ | with_reducible refine iteO_kept ?_ ?_
    | with_reducible refine Kept.out (State.issue_kept ?_ ?_) (by with_reducible assumption)
    | with_reducible refine Kept.next ?_ | with_reducible intro _ | dsimp only | split)

theorem execSeqVx_kept {islet : Nat} {s : State}
    (hH : ∀ x ∈ ([.islets, .lanes, .block .img, .block .isl] : List Portion), H x = false) (hk0 : Kept pk wq H z0 s) :
    Kept.Outcome pk wq H z0 (execSeqVx islet s) := by
  unfold execSeqVx
  repeat' (first
    | with_reducible assumption | exact held_sub hH rfl | exact held_one hH rfl | exact fldOk rfl
    | with_reducible refine State.issue_kept ?_ ?_ | with_reducible refine iteO_kept ?_ ?_
    | with_reducible refine Kept.out (State.issue_kept ?_ ?_) (by with_reducible assumption)
    | with_reducible refine Kept.next ?_ | with_reducible intro _ | dsimp only | split)

theorem execSeqCopy_kept {islet : Nat} {s : State}
    (hH : ∀ x ∈ ([.islets, .lanes, .block .img, .block .isl] : List Portion), H x = false) (hk0 : Kept pk wq H z0 s) :
    Kept.Outcome pk wq H z0 (execSeqCopy islet s) := by
  unfold execSeqCopy
  repeat' (first
    | with_reducible assumption | exact held_sub hH rfl | exact held_one hH rfl | exact fldOk rfl
    | with_reducible refine State.issue_kept ?_ ?_ | with_reducible refine iteO_kept ?_ ?_
    | with_reducible refine Kept.out (State.issue_kept ?_ ?_) (by with_reducible assumption)
    | with_reducible refine Kept.next ?_ | with_reducible intro _ | dsimp only | split)

theorem State.spCorrected_kept {s : State} {i : Nat} {corrected : Nat}
    (hH : ∀ x ∈ ([.block .isl] : List Portion), H x = false) (hk0 : Kept pk wq H z0 s) : Kept pk wq H z0
    (State.spCorrected s i corrected) := by
  unfold State.spCorrected
  repeat' (first
    | with_reducible assumption | exact held_sub hH rfl | exact held_one hH rfl | exact fldOk rfl
    | with_reducible refine State.satFld_kept ?_ ?_ ?_ | with_reducible intro _ | dsimp only | split)

theorem execSeqSend_kept {send : Corrected} {s : State}
    (hH : ∀ x ∈ ([.islets, .lanes, .block .img, .block .isl] : List Portion), H x = false) (hk0 : Kept pk wq H z0 s) :
    Kept.Outcome pk wq H z0 (execSeqSend send s) := by
  unfold execSeqSend
  repeat' (first
    | with_reducible assumption | exact held_sub hH rfl | exact held_one hH rfl | exact fldOk rfl
    | with_reducible refine State.issue_kept ?_ ?_ | with_reducible refine State.spCorrected_kept ?_ ?_
    | with_reducible refine ite_kept ?_ ?_ | with_reducible refine iteO_kept ?_ ?_
    | with_reducible refine Kept.out (State.issue_kept ?_ ?_) (by with_reducible assumption)
    | with_reducible refine Kept.next ?_ | with_reducible intro _ | dsimp only | split)

theorem execSeqRecv_kept {islet : Nat} {s : State}
    (hH : ∀ x ∈ ([.islets, .lanes, .block .img, .block .isl] : List Portion), H x = false) (hk0 : Kept pk wq H z0 s) :
    Kept.Outcome pk wq H z0 (execSeqRecv islet s) := by
  unfold execSeqRecv
  repeat' (first
    | with_reducible assumption | exact held_sub hH rfl | exact held_one hH rfl | exact fldOk rfl
    | with_reducible refine State.issue_kept ?_ ?_ | with_reducible refine iteO_kept ?_ ?_
    | with_reducible refine Kept.out (State.issue_kept ?_ ?_) (by with_reducible assumption)
    | with_reducible refine Kept.next ?_ | with_reducible intro _ | dsimp only | split)

theorem execSeqWait_kept {islet : Nat} {s : State}
    (hH : ∀ x ∈ ([.islets, .lanes, .block .img, .block .isl] : List Portion), H x = false) (hk0 : Kept pk wq H z0 s) :
    Kept.Outcome pk wq H z0 (execSeqWait islet s) := by
  unfold execSeqWait
  repeat' (first
    | with_reducible assumption | exact held_sub hH rfl | exact held_one hH rfl | exact fldOk rfl
    | with_reducible refine State.issue_kept ?_ ?_ | with_reducible refine iteO_kept ?_ ?_
    | with_reducible refine Kept.out (State.issue_kept ?_ ?_) (by with_reducible assumption)
    | with_reducible refine Kept.next ?_ | with_reducible intro _ | dsimp only | split)

theorem execSeqSetf_kept {islet : Nat} {s : State}
    (hH : ∀ x ∈ ([.islets, .lanes, .block .img, .block .isl] : List Portion), H x = false) (hk0 : Kept pk wq H z0 s) :
    Kept.Outcome pk wq H z0 (execSeqSetf islet s) := by
  unfold execSeqSetf
  repeat' (first
    | with_reducible assumption | exact held_sub hH rfl | exact held_one hH rfl | exact fldOk rfl
    | with_reducible refine State.issue_kept ?_ ?_ | with_reducible refine iteO_kept ?_ ?_
    | with_reducible refine Kept.out (State.issue_kept ?_ ?_) (by with_reducible assumption)
    | with_reducible refine Kept.next ?_ | with_reducible intro _ | dsimp only | split)

theorem execSeqClrf_kept {islet : Nat} {s : State}
    (hH : ∀ x ∈ ([.islets, .lanes, .block .img, .block .isl] : List Portion), H x = false) (hk0 : Kept pk wq H z0 s) :
    Kept.Outcome pk wq H z0 (execSeqClrf islet s) := by
  unfold execSeqClrf
  repeat' (first
    | with_reducible assumption | exact held_sub hH rfl | exact held_one hH rfl | exact fldOk rfl
    | with_reducible refine State.issue_kept ?_ ?_ | with_reducible refine iteO_kept ?_ ?_
    | with_reducible refine Kept.out (State.issue_kept ?_ ?_) (by with_reducible assumption)
    | with_reducible refine Kept.next ?_ | with_reducible intro _ | dsimp only | split)

theorem execSeqSignal_kept {islet : Nat} {s : State}
    (hH : ∀ x ∈ ([.islets, .lanes, .block .img, .block .isl] : List Portion), H x = false) (hk0 : Kept pk wq H z0 s) :
    Kept.Outcome pk wq H z0 (execSeqSignal islet s) := by
  unfold execSeqSignal
  repeat' (first
    | with_reducible assumption | exact held_sub hH rfl | exact held_one hH rfl | exact fldOk rfl
    | with_reducible refine State.issue_kept ?_ ?_ | with_reducible refine iteO_kept ?_ ?_
    | with_reducible refine Kept.out (State.issue_kept ?_ ?_) (by with_reducible assumption)
    | with_reducible refine Kept.next ?_ | with_reducible intro _ | dsimp only | split)

theorem execSeqLdcnt_kept {islet : Nat} {s : State}
    (hH : ∀ x ∈ ([.islets, .lanes, .block .img, .block .isl] : List Portion), H x = false) (hk0 : Kept pk wq H z0 s) :
    Kept.Outcome pk wq H z0 (execSeqLdcnt islet s) := by
  unfold execSeqLdcnt
  repeat' (first
    | with_reducible assumption | exact held_sub hH rfl | exact held_one hH rfl | exact fldOk rfl
    | with_reducible refine State.issue_kept ?_ ?_ | with_reducible refine iteO_kept ?_ ?_
    | with_reducible refine Kept.out (State.issue_kept ?_ ?_) (by with_reducible assumption)
    | with_reducible refine Kept.next ?_ | with_reducible intro _ | dsimp only | split)

theorem execSeqLoop_kept {islet : Nat} {s : State}
    (hH : ∀ x ∈ ([.islets, .lanes, .block .img, .block .isl] : List Portion), H x = false) (hk0 : Kept pk wq H z0 s) :
    Kept.Outcome pk wq H z0 (execSeqLoop islet s) := by
  unfold execSeqLoop
  repeat' (first
    | with_reducible assumption | exact held_sub hH rfl | exact held_one hH rfl | exact fldOk rfl
    | with_reducible refine State.issue_kept ?_ ?_ | with_reducible refine iteO_kept ?_ ?_
    | with_reducible refine Kept.out (State.issue_kept ?_ ?_) (by with_reducible assumption)
    | with_reducible refine Kept.next ?_ | with_reducible intro _ | dsimp only | split)

theorem execSeqJump_kept {islet : Nat} {s : State}
    (hH : ∀ x ∈ ([.islets, .lanes, .block .img, .block .isl] : List Portion), H x = false) (hk0 : Kept pk wq H z0 s) :
    Kept.Outcome pk wq H z0 (execSeqJump islet s) := by
  unfold execSeqJump
  repeat' (first
    | with_reducible assumption | exact held_sub hH rfl | exact held_one hH rfl | exact fldOk rfl
    | with_reducible refine State.issue_kept ?_ ?_ | with_reducible refine iteO_kept ?_ ?_
    | with_reducible refine Kept.out (State.issue_kept ?_ ?_) (by with_reducible assumption)
    | with_reducible refine Kept.next ?_ | with_reducible intro _ | dsimp only | split)

theorem execSeqFence_kept {islet : Nat} {s : State}
    (hH : ∀ x ∈ ([.islets, .lanes, .block .img, .block .isl] : List Portion), H x = false) (hk0 : Kept pk wq H z0 s) :
    Kept.Outcome pk wq H z0 (execSeqFence islet s) := by
  unfold execSeqFence
  repeat' (first
    | with_reducible assumption | exact held_sub hH rfl | exact held_one hH rfl | exact fldOk rfl
    | with_reducible refine State.issue_kept ?_ ?_ | with_reducible refine iteO_kept ?_ ?_
    | with_reducible refine Kept.out (State.issue_kept ?_ ?_) (by with_reducible assumption)
    | with_reducible refine Kept.next ?_ | with_reducible intro _ | dsimp only | split)

theorem execSeqHalt_kept {islet : Nat} {s : State}
    (hH : ∀ x ∈ ([.islets, .lanes, .block .img, .block .isl] : List Portion), H x = false) (hk0 : Kept pk wq H z0 s) :
    Kept.Outcome pk wq H z0 (execSeqHalt islet s) := by
  unfold execSeqHalt
  repeat' (first
    | with_reducible assumption | exact held_sub hH rfl | exact held_one hH rfl | exact fldOk rfl
    | with_reducible refine State.issue_kept ?_ ?_ | with_reducible refine iteO_kept ?_ ?_
    | with_reducible refine Kept.out (State.issue_kept ?_ ?_) (by with_reducible assumption)
    | with_reducible refine Kept.next ?_ | with_reducible intro _ | dsimp only | split)

theorem execSeqStallRelease_kept {stalled : Corrected} {s : State}
    (hH : ∀ x ∈ ([.islets, .lanes, .block .img, .block .isl] : List Portion), H x = false) (hk0 : Kept pk wq H z0 s) :
    Kept.Outcome pk wq H z0 (execSeqStallRelease stalled s) := by
  unfold execSeqStallRelease
  repeat' (first
    | with_reducible assumption | exact held_sub hH rfl | exact held_one hH rfl | exact fldOk rfl
    | with_reducible refine State.runIns_kept ?_ ?_ | with_reducible refine State.spCorrected_kept ?_ ?_
    | with_reducible refine ite_kept ?_ ?_ | with_reducible refine iteO_kept ?_ ?_
    | with_reducible refine Kept.out (State.runIns_kept ?_ ?_) (by with_reducible assumption)
    | with_reducible refine Kept.next ?_ | with_reducible intro _ | dsimp only | split)

end Sys2Proof.Machine
end

