-- ==== Sys2Proof/Laws/KeptReef.lean ====
section
/-! SUPPORT. What the operations of Reef.lean keep. -/

namespace Sys2Proof.Machine
open Sys2Proof

variable {pk : Package} {wq : List Instr} {H : Portion → Bool} {z0 : State}

theorem State.reefStat_kept {s : State} {st : Nat} (hH : ∀ x ∈ ([.block .reef] : List Portion), H x = false)
    (hk0 : Kept pk wq H z0 s) : Kept pk wq H z0 (State.reefStat s st) := by
  unfold State.reefStat
  repeat' (first
    | with_reducible assumption | exact held_sub hH rfl | exact held_one hH rfl | exact fldOk rfl
    | with_reducible refine State.setFld_kept ?_ ?_ ?_ | with_reducible refine mapFst_kept ?_ | with_reducible intro _
    | dsimp only | split)

theorem State.modReef_kept {s : State} {st : Nat} {f : ReefStack → ReefStack}
    (hH : ∀ x ∈ ([.reefs, .block .reef] : List Portion), H x = false) (hk0 : Kept pk wq H z0 s) : Kept pk wq H z0
    (State.modReef s st f) := by
  have hReefs : H .reefs = false := held_one hH rfl
  unfold State.modReef
  repeat' (first
    | with_reducible assumption | exact held_sub hH rfl | exact held_one hH rfl | exact fldOk rfl
    | with_reducible refine State.reefStat_kept ?_ ?_ | simp only [Kept.frame_iff, hReefs, and_self, true_or, or_true]
    | with_reducible intro _ | dsimp only | split)

theorem State.reefPush_kept {s : State} {fn : Nat} {st : Nat} {r : List Byte}
    (hH : ∀ x ∈ ([.reefs, .block .reef] : List Portion), H x = false) (hk0 : Kept pk wq H z0 s) : Kept pk wq H z0
    (State.reefPush s fn st r) := by
  unfold State.reefPush
  repeat' (first
    | with_reducible assumption | exact held_sub hH rfl | exact held_one hH rfl | exact fldOk rfl
    | with_reducible refine State.modReef_kept ?_ ?_ | simp only [Kept.frame_iff, and_self, true_or, or_true]
    | with_reducible intro _ | dsimp only | split)

theorem State.issueTake_kept {n : Nat} {s : State} {a : Access}
    (hH : ∀ x ∈ ([.reefs, .egress, .armed, .block .mem, .block .reef, .block .jl] : List Portion), H x = false)
    (h : Kept pk wq H z0 s) : Kept pk wq H z0 (State.issueTake n s a).1 := by
  induction n generalizing s a with
  | zero => exact h | succ n ih =>
    rw [State.issueTake]
    dsimp only
    refine iteP_kept h ?_
    split
    · exact h
    · refine iteP_kept (ih (State.unmapped_kept (held_sub hH rfl) h)) (iteP_kept (ih h) (iteP_kept (ih (State.fnEvent_kept (fldOk rfl) (held_one hH rfl) (held_sub hH rfl) h)) (iteP_kept ?_ (ih (State.reefPush_kept (held_sub hH rfl) h)))))
      simp only [Kept.frame_iff, and_self, true_or, or_true]
      exact h

theorem State.issueWrite_kept {s : State} {a : Access}
    (hH : ∀ x ∈ ([.reefs, .egress, .armed, .block .mem, .block .reef, .block .jl] : List Portion), H x = false)
    (hk0 : Kept pk wq H z0 s) : Kept pk wq H z0 (State.issueWrite s a).1 := by
  unfold State.issueWrite
  repeat' (first
    | with_reducible assumption | exact held_sub hH rfl | exact held_one hH rfl | exact fldOk rfl
    | with_reducible refine State.issueTake_kept ?_ ?_ | with_reducible refine iteP_kept ?_ ?_
    | with_reducible refine State.issueTake_kept' (by with_reducible assumption) ?_ ?_ | with_reducible intro _
    | dsimp only | split)
theorem State.issueWrite_kept' {s : State} {a : Access} {t z} (e : State.issueWrite s a = (t, z))
    (hH : ∀ x ∈ ([.reefs, .egress, .armed, .block .mem, .block .reef, .block .jl] : List Portion), H x = false)
    (hk0 : Kept pk wq H z0 s) : Kept pk wq H z0 t := by
  have k : Kept pk wq H z0 (State.issueWrite s a).1 := State.issueWrite_kept hH hk0
  rw [e] at k; exact k

theorem State.retryIssues_kept {s : State}
    (hH : ∀ x ∈ ([.reefs, .egress, .lanes, .armed, .block .img, .block .mem, .block .reef, .block .jl] : List Portion), H x = false)
    (hk0 : Kept pk wq H z0 s) : Kept pk wq H z0 (State.retryIssues s) := by
  unfold State.retryIssues
  repeat' (first
    | with_reducible assumption | exact held_sub hH rfl | exact held_one hH rfl | exact fldOk rfl
    | with_reducible refine State.accessEnds_kept ?_ ?_ | with_reducible refine State.issueWrite_kept ?_ ?_
    | with_reducible refine foldl_kept ?_ ?_ | with_reducible refine iteP_kept ?_ ?_
    | with_reducible refine foldlP_kept ?_ ?_
    | with_reducible refine State.issueWrite_kept' (by with_reducible assumption) ?_ ?_
    | with_reducible refine foldlP_kept' (by with_reducible assumption) ?_ ?_
    | simp only [Kept.frame_iff, and_self, true_or, or_true] | with_reducible intro _ | dsimp only | split)

theorem State.reefLast_kept {s : State} {st : Nat} {record : List Byte}
    (hH : ∀ x ∈ ([.reefs, .block .reef] : List Portion), H x = false) (hk0 : Kept pk wq H z0 s) : Kept pk wq H z0
    (State.reefLast s st record) := by
  unfold State.reefLast
  repeat' (first
    | with_reducible assumption | exact held_sub hH rfl | exact held_one hH rfl | exact fldOk rfl
    | exact wordOk_zero rfl | exact wordOk_whole rfl | with_reducible refine State.setReg_kept ?_ ?_ ?_
    | with_reducible refine State.addFld_kept ?_ ?_ ?_ | with_reducible refine State.modReef_kept ?_ ?_
    | with_reducible refine foldl_kept ?_ ?_ | with_reducible refine iteP_kept ?_ ?_
    | with_reducible refine foldlP_kept ?_ ?_
    | with_reducible refine foldlP_kept' (by with_reducible assumption) ?_ ?_
    | simp only [Kept.frame_iff, and_self, true_or, or_true] | with_reducible intro _ | dsimp only | split)

theorem State.reefReport_kept {s : State} {fn : Nat} {st : Nat} {record : List Byte} {bad : Bool}
    (hH : ∀ x ∈ ([.reefs, .egress, .armed, .block .reef, .block .jl] : List Portion), H x = false)
    (hk0 : Kept pk wq H z0 s) : Kept pk wq H z0 (State.reefReport s fn st record bad) := by
  unfold State.reefReport
  repeat' (first
    | with_reducible assumption | exact held_sub hH rfl | exact held_one hH rfl | exact fldOk rfl
    | with_reducible refine State.fnEvent_kept ?_ ?_ ?_ ?_ | with_reducible refine State.reefLast_kept ?_ ?_
    | with_reducible refine ite_kept ?_ ?_ | with_reducible intro _ | dsimp only | split)

theorem State.reefDropQueue_kept {s : State} {fn : Nat} {st : Nat} {status : Status}
    (hH : ∀ x ∈ ([.reefs, .egress, .lanes, .armed, .block .img, .block .reef, .block .jl] : List Portion), H x = false)
    (hk0 : Kept pk wq H z0 s) : Kept pk wq H z0 (State.reefDropQueue s fn st status) := by
  unfold State.reefDropQueue
  repeat' (first
    | with_reducible assumption | exact held_sub hH rfl | exact held_one hH rfl | exact fldOk rfl
    | with_reducible refine State.dropHeld_kept ?_ ?_ | with_reducible refine State.modReef_kept ?_ ?_
    | with_reducible refine State.reefReport_kept ?_ ?_ | with_reducible refine foldl_kept ?_ ?_
    | with_reducible refine iteP_kept ?_ ?_ | with_reducible refine foldlP_kept ?_ ?_
    | with_reducible refine foldlP_kept' (by with_reducible assumption) ?_ ?_
    | simp only [Kept.frame_iff, and_self, true_or, or_true] | with_reducible intro _ | dsimp only | split)

theorem State.reefFreeResults_kept {s : State} {o : ReefOp} (hH : ∀ x ∈ ([.mem] : List Portion), H x = false)
    (hk0 : Kept pk wq H z0 s) : Kept pk wq H z0 (State.reefFreeResults s o) := by
  unfold State.reefFreeResults
  repeat' (first
    | with_reducible assumption | exact held_sub hH rfl | exact held_one hH rfl | exact fldOk rfl
    | with_reducible refine State.setErrors_kept ?_ | with_reducible refine State.putFrame_kept ?_ ?_
    | with_reducible refine State.trackWrite_kept ?_ | with_reducible refine foldl_kept ?_ ?_
    | with_reducible refine mapFst_kept ?_ | with_reducible refine iteP_kept ?_ ?_
    | with_reducible refine foldlP_kept ?_ ?_
    | with_reducible refine foldlP_kept' (by with_reducible assumption) ?_ ?_
    | simp only [Kept.frame_iff, and_self, true_or, or_true] | with_reducible intro _ | dsimp only | split)

theorem State.reefRelease_kept {s : State} {st : Nat} {o : ReefOp}
    (hH : ∀ x ∈ ([.reefs, .block .reef] : List Portion), H x = false) (hk0 : Kept pk wq H z0 s) : Kept pk wq H z0
    (State.reefRelease s st o) := by
  unfold State.reefRelease
  repeat' (first
    | with_reducible assumption | exact held_sub hH rfl | exact held_one hH rfl | exact fldOk rfl
    | with_reducible refine State.setFld_kept ?_ ?_ ?_ | with_reducible refine State.modReef_kept ?_ ?_
    | with_reducible refine foldl_kept ?_ ?_ | with_reducible refine id_kept ?_ | with_reducible refine ite_kept ?_ ?_
    | with_reducible refine iteP_kept ?_ ?_ | with_reducible refine foldlP_kept ?_ ?_
    | with_reducible refine foldlP_kept' (by with_reducible assumption) ?_ ?_
    | simp only [Kept.frame_iff, and_self, true_or, or_true] | with_reducible intro _ | dsimp only | split)

theorem State.reefReset_kept {s : State} {fn : Nat} {st : Nat}
    (hH : ∀ x ∈ ([.mem, .reefs, .egress, .lanes, .armed, .block .img, .block .reef, .block .jl] : List Portion), H x = false)
    (hk0 : Kept pk wq H z0 s) : Kept pk wq H z0 (State.reefReset s fn st) := by
  unfold State.reefReset
  repeat' (first
    | with_reducible assumption | exact held_sub hH rfl | exact held_one hH rfl | exact fldOk rfl
    | with_reducible refine State.drawn_kept ?_ | with_reducible refine State.reefReport_kept ?_ ?_
    | with_reducible refine State.reefDropQueue_kept ?_ ?_ | with_reducible refine State.reefFreeResults_kept ?_ ?_
    | with_reducible refine State.reefRelease_kept ?_ ?_ | with_reducible refine foldl_kept ?_ ?_
    | with_reducible refine ite_kept ?_ ?_ | with_reducible refine iteP_kept ?_ ?_
    | with_reducible refine foldlP_kept ?_ ?_
    | with_reducible refine foldlP_kept' (by with_reducible assumption) ?_ ?_ | with_reducible intro _ | dsimp only
    | split)

end Sys2Proof.Machine
end

