-- ==== Sys2Proof/Laws/KeptHostRead.lean ====
section
/-! SUPPORT. What the operations of HostRead.lean keep. -/

namespace Sys2Proof.Machine
open Sys2Proof

variable {pk : Package} {wq : List Instr} {H : Portion → Bool} {z0 : State}

theorem State.issueReads_kept {n : Nat} {s : State}
    (hH : ∀ x ∈ ([.egress, .lanes, .armed, .block .jl] : List Portion), H x = false)
    (h : Kept pk wq H z0 s) : Kept pk wq H z0 (State.issueReads n s) := by
  induction n generalizing s with
  | zero => exact h | succ n ih =>
    rw [State.issueReads]
    repeat' (first
      | with_reducible assumption | with_reducible refine ih ?_
      | with_reducible refine State.sendAdapter_kept (held_sub hH rfl) ?_
      | with_reducible refine State.straitOffer_kept (held_sub hH rfl) ?_ | with_reducible refine foldl_kept ?_ ?_
      | with_reducible refine getD_kept ?_ ?_ | with_reducible refine ite_kept ?_ ?_
      | with_reducible refine iteP_kept ?_ ?_ | with_reducible refine iteO_kept ?_ ?_
      | simp only [Kept.frame_iff, and_self, true_or, or_true] | with_reducible refine Kept.next ?_
      | with_reducible exact Kept.fault | with_reducible exact Kept.refused | with_reducible intro _ | dsimp only
      | split)

theorem State.hostRead_kept {s : State} {fn : Nat} {home : Nat} {addr : Nat} {len : Nat}
    (hH : ∀ x ∈ ([.egress, .lanes, .armed, .block .jl] : List Portion), H x = false) (hk0 : Kept pk wq H z0 s) : Kept
    pk wq H z0 (State.hostRead s fn home addr len) := by
  unfold State.hostRead
  repeat' (first
    | with_reducible assumption | exact held_sub hH rfl | exact held_one hH rfl | exact fldOk rfl
    | with_reducible refine State.issueReads_kept ?_ ?_ | with_reducible refine ite_kept ?_ ?_
    | simp only [Kept.frame_iff, and_self, true_or, or_true] | with_reducible intro _ | dsimp only | split)

theorem State.endWaiting_kept {s : State} {st : Status} {p : ReadReq → Bool} (hk0 : Kept pk wq H z0 s) : Kept pk wq H
    z0 (State.endWaiting s st p) := by
  unfold State.endWaiting
  repeat' (first
    | with_reducible assumption | with_reducible refine mapFst_kept ?_
    | simp only [Kept.frame_iff, and_self, true_or, or_true] | with_reducible intro _ | dsimp only | split)

theorem State.hostAnswer_kept {s : State} {fn : Nat} {addr : Nat} {len : Nat} {ans : Answer}
    (hH : ∀ x ∈ ([.egress, .lanes, .armed, .block .jl] : List Portion), H x = false) (hk0 : Kept pk wq H z0 s) : Kept
    pk wq H z0 (State.hostAnswer s fn addr len ans).1 := by
  unfold State.hostAnswer
  repeat' (first
    | with_reducible assumption | exact held_sub hH rfl | exact held_one hH rfl | exact fldOk rfl
    | with_reducible refine State.issueReads_kept ?_ ?_ | with_reducible refine foldl_kept ?_ ?_
    | with_reducible refine ite_kept ?_ ?_ | with_reducible refine iteP_kept ?_ ?_
    | with_reducible refine foldlP_kept ?_ ?_
    | with_reducible refine foldlP_kept' (by with_reducible assumption) ?_ ?_
    | simp only [Kept.frame_iff, and_self, true_or, or_true] | with_reducible intro _ | dsimp only | split)
theorem State.hostAnswer_kept' {s : State} {fn : Nat} {addr : Nat} {len : Nat} {ans : Answer} {t z}
    (e : State.hostAnswer s fn addr len ans = (t, z))
    (hH : ∀ x ∈ ([.egress, .lanes, .armed, .block .jl] : List Portion), H x = false) (hk0 : Kept pk wq H z0 s) : Kept
    pk wq H z0 t := by
  have k : Kept pk wq H z0 (State.hostAnswer s fn addr len ans).1 := State.hostAnswer_kept hH hk0
  rw [e] at k; exact k

end Sys2Proof.Machine
end

