-- ==== Sys2Proof/Laws/KeptOptRecord.lean ====
section
/-! SUPPORT. What the operations of OptRecord.lean keep. -/

namespace Sys2Proof.Machine
open Sys2Proof

variable {pk : Package} {wq : List Instr} {H : Portion → Bool} {z0 : State}

theorem State.modOpt_kept {s : State} {fn : Nat} {g : Opt → Opt}
    (hH : ∀ x ∈ ([.fns, .optim] : List Portion), H x = false) (hk0 : Kept pk wq H z0 s) : Kept pk wq H z0
    (State.modOpt s fn g) := by
  unfold State.modOpt
  repeat' (first
    | with_reducible assumption | exact held_sub hH rfl | exact held_one hH rfl | exact fldOk rfl
    | exact .inl (fun _ => rfl) | exact .inr (held_one hH rfl)
    | exact .inl (fun x => by dsimp only; repeat' split <;> rfl) | with_reducible refine State.modFn_kept ?_ ?_ ?_
    | simp only [Kept.frame_iff, and_self, true_or, or_true] | with_reducible intro _ | dsimp only | split)

end Sys2Proof.Machine
end

