-- ==== Sys2Proof/Laws/KeptShardTile.lean ====
section
/-! SUPPORT. What the operations of ShardTile.lean keep. -/

namespace Sys2Proof.Machine
open Sys2Proof

variable {pk : Package} {wq : List Instr} {H : Portion → Bool} {z0 : State}

theorem State.tileCopies_kept {s : State} {fn : Nat} {r : List Byte} {update : Nat} {ws : List Nat} {k : Nat}
    (hH : ∀ x ∈ ([.mem, .fns, .egress, .lanes, .mctp, .armed, .block .mem, .block .reef, .block .jl, .block .hbr] : List Portion), H x = false)
    (hk0 : Kept pk wq H z0 s) : Kept pk wq H z0 (State.tileCopies s fn r update ws k).1 := by
  unfold State.tileCopies
  repeat' (first
    | with_reducible assumption | exact held_sub hH rfl | exact held_one hH rfl | exact fldOk rfl
    | with_reducible refine State.devWrite_kept ?_ ?_ | with_reducible refine foldl_kept ?_ ?_
    | with_reducible refine ite_kept ?_ ?_ | with_reducible refine iteP_kept ?_ ?_
    | with_reducible refine foldlP_kept ?_ ?_
    | with_reducible refine State.devWrite_kept' (by with_reducible assumption) ?_ ?_
    | with_reducible refine foldlP_kept' (by with_reducible assumption) ?_ ?_ | with_reducible intro _ | dsimp only
    | split)
theorem State.tileCopies_kept' {s : State} {fn : Nat} {r : List Byte} {update : Nat} {ws : List Nat} {k : Nat} {t z}
    (e : State.tileCopies s fn r update ws k = (t, z))
    (hH : ∀ x ∈ ([.mem, .fns, .egress, .lanes, .mctp, .armed, .block .mem, .block .reef, .block .jl, .block .hbr] : List Portion), H x = false)
    (hk0 : Kept pk wq H z0 s) : Kept pk wq H z0 t := by
  have k : Kept pk wq H z0 (State.tileCopies s fn r update ws k).1 := State.tileCopies_kept hH hk0
  rw [e] at k; exact k

theorem State.regenerate_kept {s : State} {fn : Nat} {r : List Byte} {update : Nat} {ws : List Nat}
    (hH : ∀ x ∈ ([.mem, .fns, .egress, .lanes, .mctp, .armed, .block .mem, .block .reef, .block .jl, .block .hbr] : List Portion), H x = false)
    (hk0 : Kept pk wq H z0 s) : Kept pk wq H z0 (State.regenerate s fn r update ws).1 := by
  unfold State.regenerate
  repeat' (first
    | with_reducible assumption | exact held_sub hH rfl | exact held_one hH rfl | exact fldOk rfl
    | with_reducible refine State.tileCopies_kept ?_ ?_ | with_reducible refine foldl_kept ?_ ?_
    | with_reducible refine ite_kept ?_ ?_ | with_reducible refine iteP_kept ?_ ?_
    | with_reducible refine foldlP_kept ?_ ?_
    | with_reducible refine State.tileCopies_kept' (by with_reducible assumption) ?_ ?_
    | with_reducible refine foldlP_kept' (by with_reducible assumption) ?_ ?_ | with_reducible intro _ | dsimp only
    | split)
theorem State.regenerate_kept' {s : State} {fn : Nat} {r : List Byte} {update : Nat} {ws : List Nat} {t z}
    (e : State.regenerate s fn r update ws = (t, z))
    (hH : ∀ x ∈ ([.mem, .fns, .egress, .lanes, .mctp, .armed, .block .mem, .block .reef, .block .jl, .block .hbr] : List Portion), H x = false)
    (hk0 : Kept pk wq H z0 s) : Kept pk wq H z0 t := by
  have k : Kept pk wq H z0 (State.regenerate s fn r update ws).1 := State.regenerate_kept hH hk0
  rw [e] at k; exact k

theorem State.tileReads_kept {s : State} {fn : Nat} {c : List Byte} {r : List Byte} {slot : Nat} {off : Nat}
    (hH : ∀ x ∈ ([.mem, .fns, .egress, .lanes, .mctp, .armed, .block .mem, .block .reef, .block .jl, .block .hbr] : List Portion), H x = false)
    (hk0 : Kept pk wq H z0 s) : Kept pk wq H z0 (State.tileReads s fn c r slot off).1 := by
  unfold State.tileReads
  repeat' (first
    | with_reducible assumption | exact held_sub hH rfl | exact held_one hH rfl | exact fldOk rfl
    | with_reducible refine State.devRead_kept ?_ ?_ | with_reducible refine foldl_kept ?_ ?_
    | with_reducible refine mapFst_kept ?_ | with_reducible refine iteP_kept ?_ ?_
    | with_reducible refine foldlP_kept ?_ ?_
    | with_reducible refine State.devRead_kept' (by with_reducible assumption) ?_ ?_
    | with_reducible refine foldlP_kept' (by with_reducible assumption) ?_ ?_ | with_reducible intro _ | dsimp only
    | split)
theorem State.tileReads_kept' {s : State} {fn : Nat} {c : List Byte} {r : List Byte} {slot : Nat} {off : Nat} {t z}
    (e : State.tileReads s fn c r slot off = (t, z))
    (hH : ∀ x ∈ ([.mem, .fns, .egress, .lanes, .mctp, .armed, .block .mem, .block .reef, .block .jl, .block .hbr] : List Portion), H x = false)
    (hk0 : Kept pk wq H z0 s) : Kept pk wq H z0 t := by
  have k : Kept pk wq H z0 (State.tileReads s fn c r slot off).1 := State.tileReads_kept hH hk0
  rw [e] at k; exact k

theorem State.tileWrites_kept {s : State} {fn : Nat} {c : List Byte} {r : List Byte} {target : Nat} {off : Nat}
    {arrays : List (Nat × List Nat)}
    (hH : ∀ x ∈ ([.mem, .fns, .egress, .lanes, .mctp, .armed, .block .mem, .block .reef, .block .jl, .block .hbr] : List Portion), H x = false)
    (hk0 : Kept pk wq H z0 s) : Kept pk wq H z0 (State.tileWrites s fn c r target off arrays).1 := by
  unfold State.tileWrites
  repeat' (first
    | with_reducible assumption | exact held_sub hH rfl | exact held_one hH rfl | exact fldOk rfl
    | with_reducible refine State.devWrite_kept ?_ ?_ | with_reducible refine foldl_kept ?_ ?_
    | with_reducible refine ite_kept ?_ ?_ | with_reducible refine iteP_kept ?_ ?_
    | with_reducible refine foldlP_kept ?_ ?_
    | with_reducible refine State.devWrite_kept' (by with_reducible assumption) ?_ ?_
    | with_reducible refine foldlP_kept' (by with_reducible assumption) ?_ ?_ | with_reducible intro _ | dsimp only
    | split)
theorem State.tileWrites_kept' {s : State} {fn : Nat} {c : List Byte} {r : List Byte} {target : Nat} {off : Nat}
    {arrays : List (Nat × List Nat)} {t z} (e : State.tileWrites s fn c r target off arrays = (t, z))
    (hH : ∀ x ∈ ([.mem, .fns, .egress, .lanes, .mctp, .armed, .block .mem, .block .reef, .block .jl, .block .hbr] : List Portion), H x = false)
    (hk0 : Kept pk wq H z0 s) : Kept pk wq H z0 t := by
  have k : Kept pk wq H z0 (State.tileWrites s fn c r target off arrays).1 := State.tileWrites_kept hH hk0
  rw [e] at k; exact k

theorem State.shardTile_kept {s : State} {fn : Nat} {c : List Byte} {r : List Byte} {t : Ticket} {slot : Nat}
    {target : Nat} {ws : List Nat} {k : Nat}
    (hH : ∀ x ∈ ([.mem, .fns, .egress, .lanes, .mctp, .armed, .block .mem, .block .reef, .block .jl, .block .hbr] : List Portion), H x = false)
    (hk0 : Kept pk wq H z0 s) : Kept pk wq H z0 (State.shardTile s fn c r t slot target ws k).1 := by
  unfold State.shardTile
  repeat' (first
    | with_reducible assumption | exact held_sub hH rfl | exact held_one hH rfl | exact fldOk rfl
    | with_reducible refine State.tileCopies_kept ?_ ?_ | with_reducible refine State.tileReads_kept ?_ ?_
    | with_reducible refine State.tileWrites_kept ?_ ?_ | with_reducible refine getD_kept ?_ ?_
    | with_reducible refine mapFst_kept ?_ | with_reducible refine iteP_kept ?_ ?_
    | with_reducible refine State.tileCopies_kept' (by with_reducible assumption) ?_ ?_
    | with_reducible refine State.tileReads_kept' (by with_reducible assumption) ?_ ?_
    | with_reducible refine State.tileWrites_kept' (by with_reducible assumption) ?_ ?_ | with_reducible intro _
    | dsimp only | split)
theorem State.shardTile_kept' {s : State} {fn : Nat} {c : List Byte} {r : List Byte} {t : Ticket} {slot : Nat}
    {target : Nat} {ws : List Nat} {k : Nat} {u z} (e : State.shardTile s fn c r t slot target ws k = (u, z))
    (hH : ∀ x ∈ ([.mem, .fns, .egress, .lanes, .mctp, .armed, .block .mem, .block .reef, .block .jl, .block .hbr] : List Portion), H x = false)
    (hk0 : Kept pk wq H z0 s) : Kept pk wq H z0 u := by
  have k : Kept pk wq H z0 (State.shardTile s fn c r t slot target ws k).1 := State.shardTile_kept hH hk0
  rw [e] at k; exact k

theorem State.shardTiles_kept {s : State} {fn : Nat} {c : List Byte} {r : List Byte} {t : Ticket} {slot : Nat}
    {target : Nat} {n : Nat}
    (hH : ∀ x ∈ ([.mem, .fns, .egress, .lanes, .mctp, .armed, .block .mem, .block .reef, .block .jl, .block .hbr] : List Portion), H x = false)
    (hk0 : Kept pk wq H z0 s) : Kept pk wq H z0 (State.shardTiles s fn c r t slot target n).1 := by
  unfold State.shardTiles
  repeat' (first
    | with_reducible assumption | exact held_sub hH rfl | exact held_one hH rfl | exact fldOk rfl
    | with_reducible refine State.shardTile_kept ?_ ?_ | with_reducible refine foldl_kept ?_ ?_
    | with_reducible refine ite_kept ?_ ?_ | with_reducible refine iteP_kept ?_ ?_
    | with_reducible refine foldlP_kept ?_ ?_
    | with_reducible refine State.shardTile_kept' (by with_reducible assumption) ?_ ?_
    | with_reducible refine foldlP_kept' (by with_reducible assumption) ?_ ?_ | with_reducible intro _ | dsimp only
    | split)
theorem State.shardTiles_kept' {s : State} {fn : Nat} {c : List Byte} {r : List Byte} {t : Ticket} {slot : Nat}
    {target : Nat} {n : Nat} {u z} (e : State.shardTiles s fn c r t slot target n = (u, z))
    (hH : ∀ x ∈ ([.mem, .fns, .egress, .lanes, .mctp, .armed, .block .mem, .block .reef, .block .jl, .block .hbr] : List Portion), H x = false)
    (hk0 : Kept pk wq H z0 s) : Kept pk wq H z0 u := by
  have k : Kept pk wq H z0 (State.shardTiles s fn c r t slot target n).1 := State.shardTiles_kept hH hk0
  rw [e] at k; exact k

theorem State.freeRange_kept {s : State} {fn : Nat} {addr : Nat} {len : Nat}
    (hH : ∀ x ∈ ([.mem] : List Portion), H x = false) (hk0 : Kept pk wq H z0 s) : Kept pk wq H z0
    (State.freeRange s fn addr len) := by
  unfold State.freeRange
  repeat' (first
    | with_reducible assumption | exact held_sub hH rfl | exact held_one hH rfl | exact fldOk rfl
    | with_reducible refine State.setErrors_kept ?_ | with_reducible refine State.putFrame_kept ?_ ?_
    | with_reducible refine foldl_kept ?_ ?_ | with_reducible refine iteP_kept ?_ ?_
    | with_reducible refine foldlP_kept ?_ ?_
    | with_reducible refine foldlP_kept' (by with_reducible assumption) ?_ ?_
    | simp only [Kept.frame_iff, and_self, true_or, or_true] | with_reducible intro _ | dsimp only | split)

theorem State.optFlags_kept {s : State} {fn : Nat} {f : Nat} (hH : ∀ x ∈ ([.block .opt] : List Portion), H x = false)
    (hk0 : Kept pk wq H z0 s) : Kept pk wq H z0 (State.optFlags s fn f) := by
  unfold State.optFlags
  repeat' (first
    | with_reducible assumption | exact held_sub hH rfl | exact held_one hH rfl | exact fldOk rfl
    | with_reducible refine State.setFld_kept ?_ ?_ ?_ | with_reducible intro _ | dsimp only | split)

theorem State.shardCut_kept {s : State} {fn : Nat} {r : List Byte} {t : Ticket}
    (hH : ∀ x ∈ ([.mem, .fns, .egress, .lanes, .mctp, .armed, .block .mem, .block .reef, .block .jl, .block .opt, .block .hbr] : List Portion), H x = false)
    (hk0 : Kept pk wq H z0 s) : Kept pk wq H z0 (State.shardCut s fn r t) := by
  unfold State.shardCut
  repeat' (first
    | with_reducible assumption | exact held_sub hH rfl | exact held_one hH rfl | exact fldOk rfl
    | with_reducible refine State.drawn_kept ?_ | with_reducible refine State.shardTiles_kept ?_ ?_
    | with_reducible refine State.freeRange_kept ?_ ?_ | with_reducible refine State.optFlags_kept ?_ ?_
    | with_reducible refine foldl_kept ?_ ?_ | with_reducible refine ite_kept ?_ ?_
    | with_reducible refine iteP_kept ?_ ?_ | with_reducible refine foldlP_kept ?_ ?_
    | with_reducible refine State.shardTiles_kept' (by with_reducible assumption) ?_ ?_
    | with_reducible refine foldlP_kept' (by with_reducible assumption) ?_ ?_ | with_reducible intro _ | dsimp only
    | split)

end Sys2Proof.Machine
end

