-- ==== Sys2Proof/Laws/KeptStepControl.lean ====
section
/-! SUPPORT. What the operations of StepControl.lean keep. -/

namespace Sys2Proof.Machine
open Sys2Proof

variable {pk : Package} {wq : List Instr} {H : Portion → Bool} {z0 : State}

theorem State.modJob_kept {s : State} {x : Nat} {g : Job → Job} (hH : ∀ x ∈ ([.jobs] : List Portion), H x = false)
    (hk0 : Kept pk wq H z0 s) : Kept pk wq H z0 (State.modJob s x g) := by
  have hJobs : H .jobs = false := held_one hH rfl
  unfold State.modJob
  repeat' (first
    | with_reducible assumption | simp only [Kept.frame_iff, hJobs, and_self, true_or, or_true]
    | with_reducible intro _ | dsimp only | split)

theorem State.jobStat_kept {s : State} {x : Nat} (hH : ∀ x ∈ ([.block .red] : List Portion), H x = false)
    (hk0 : Kept pk wq H z0 s) : Kept pk wq H z0 (State.jobStat s x) := by
  unfold State.jobStat
  repeat' (first
    | with_reducible assumption | exact held_sub hH rfl | exact held_one hH rfl | exact fldOk rfl
    | with_reducible refine State.setFld_kept ?_ ?_ ?_ | with_reducible intro _ | dsimp only | split)

theorem State.jobStop_kept {s : State} {x : Nat} {cause : Nat} {st : Status}
    (hH : ∀ x ∈ ([.jobs, .egress, .armed, .block .jl, .block .red] : List Portion), H x = false)
    (hk0 : Kept pk wq H z0 s) : Kept pk wq H z0 (State.jobStop s x cause st) := by
  unfold State.jobStop
  repeat' (first
    | with_reducible assumption | exact held_sub hH rfl | exact held_one hH rfl | exact fldOk rfl
    | with_reducible refine State.setFld_kept ?_ ?_ ?_ | with_reducible refine State.fnEvent_kept ?_ ?_ ?_ ?_
    | with_reducible refine State.modJob_kept ?_ ?_ | with_reducible refine State.jobStat_kept ?_ ?_
    | simp only [Kept.frame_iff, and_self, true_or, or_true] | with_reducible intro _ | dsimp only | split)

theorem State.modStage_kept {s : State} {fn : Nat} {slot : Nat} {g : Stage → Stage}
    (hH : ∀ x ∈ ([.fns] : List Portion), H x = false) (hk0 : Kept pk wq H z0 s) : Kept pk wq H z0
    (State.modStage s fn slot g) := by
  unfold State.modStage
  repeat' (first
    | with_reducible assumption | exact held_sub hH rfl | exact held_one hH rfl | exact fldOk rfl
    | exact .inl (fun _ => rfl) | exact .inr (held_one hH rfl)
    | exact .inl (fun x => by dsimp only; repeat' split <;> rfl) | with_reducible refine State.modFn_kept ?_ ?_ ?_
    | simp only [Kept.frame_iff, and_self, true_or, or_true] | with_reducible intro _ | dsimp only | split)

theorem State.shoalStat_kept {s : State} {fn : Nat} {slot : Nat}
    (hH : ∀ x ∈ ([.block .pipe] : List Portion), H x = false) (hk0 : Kept pk wq H z0 s) : Kept pk wq H z0
    (State.shoalStat s fn slot) := by
  unfold State.shoalStat
  repeat' (first
    | with_reducible assumption | exact held_sub hH rfl | exact held_one hH rfl | exact fldOk rfl
    | with_reducible refine State.setFld_kept ?_ ?_ ?_ | with_reducible intro _ | dsimp only | split)

theorem State.shoalCur_kept {s : State} {fn : Nat} {slot : Nat} {start : Nat} {top : Nat}
    (hH : ∀ x ∈ ([.block .pipe] : List Portion), H x = false) (hk0 : Kept pk wq H z0 s) : Kept pk wq H z0
    (State.shoalCur s fn slot start top) := by
  unfold State.shoalCur
  repeat' (first
    | with_reducible assumption | exact held_sub hH rfl | exact held_one hH rfl | exact fldOk rfl
    | with_reducible refine State.setFld_kept ?_ ?_ ?_ | with_reducible intro _ | dsimp only | split)

theorem State.shoalOpen_kept {s : State} {fn : Nat} {slot : Nat}
    (hH : ∀ x ∈ ([.fns, .block .pipe] : List Portion), H x = false) (hk0 : Kept pk wq H z0 s) : Kept pk wq H z0
    (State.shoalOpen s fn slot) := by
  unfold State.shoalOpen
  repeat' (first
    | with_reducible assumption | exact held_sub hH rfl | exact held_one hH rfl | exact fldOk rfl
    | with_reducible refine State.modStage_kept ?_ ?_ | with_reducible refine State.shoalCur_kept ?_ ?_
    | with_reducible refine ite_kept ?_ ?_ | simp only [Kept.frame_iff, and_self, true_or, or_true]
    | with_reducible intro _ | dsimp only | split)

theorem State.shoalClose_kept {s : State} {fn : Nat} {slot : Nat} {m : Nat}
    (hH : ∀ x ∈ ([.fns, .block .pipe] : List Portion), H x = false) (hk0 : Kept pk wq H z0 s) : Kept pk wq H z0
    (State.shoalClose s fn slot m) := by
  unfold State.shoalClose
  repeat' (first
    | with_reducible assumption | exact held_sub hH rfl | exact held_one hH rfl | exact fldOk rfl
    | with_reducible refine State.modStage_kept ?_ ?_ | with_reducible refine State.shoalStat_kept ?_ ?_
    | with_reducible refine ite_kept ?_ ?_ | simp only [Kept.frame_iff, and_self, true_or, or_true]
    | with_reducible intro _ | dsimp only | split)

theorem State.shoalRetire_kept {s : State} {fn : Nat} {slot : Nat}
    (hH : ∀ x ∈ ([.fns, .block .pipe] : List Portion), H x = false) (hk0 : Kept pk wq H z0 s) : Kept pk wq H z0
    (State.shoalRetire s fn slot) := by
  unfold State.shoalRetire
  repeat' (first
    | with_reducible assumption | exact held_sub hH rfl | exact held_one hH rfl | exact fldOk rfl
    | with_reducible refine State.modStage_kept ?_ ?_ | with_reducible refine State.shoalStat_kept ?_ ?_
    | with_reducible refine getD_kept ?_ ?_ | with_reducible refine mapFst_kept ?_
    | simp only [Kept.frame_iff, and_self, true_or, or_true] | with_reducible intro _ | dsimp only | split)

theorem State.shoalReset_kept {s : State} {fn : Nat} {slot : Nat}
    (hH : ∀ x ∈ ([.fns, .block .pipe] : List Portion), H x = false) (hk0 : Kept pk wq H z0 s) : Kept pk wq H z0
    (State.shoalReset s fn slot) := by
  unfold State.shoalReset
  repeat' (first
    | with_reducible assumption | exact held_sub hH rfl | exact held_one hH rfl | exact fldOk rfl
    | with_reducible refine State.modStage_kept ?_ ?_ | with_reducible refine State.shoalStat_kept ?_ ?_
    | simp only [Kept.frame_iff, and_self, true_or, or_true] | with_reducible intro _ | dsimp only | split)

theorem State.feedBegins_kept {s : State} {fn : Nat} {slot : Nat} {m : Nat}
    (hH : ∀ x ∈ ([.fns, .egress, .lanes, .armed, .block .jl] : List Portion), H x = false) (hk0 : Kept pk wq H z0 s) :
    Kept pk wq H z0 (State.feedBegins s fn slot m) := by
  unfold State.feedBegins
  repeat' (first
    | with_reducible assumption | exact held_sub hH rfl | exact held_one hH rfl | exact fldOk rfl
    | exact .inl (fun _ => rfl) | exact .inr (held_one hH rfl)
    | exact .inl (fun x => by dsimp only; repeat' split <;> rfl) | with_reducible refine State.modFn_kept ?_ ?_ ?_
    | with_reducible refine State.hostRead_kept ?_ ?_ | with_reducible refine State.modStage_kept ?_ ?_
    | with_reducible refine mapFst_kept ?_ | with_reducible refine ite_kept ?_ ?_
    | simp only [Kept.frame_iff, and_self, true_or, or_true] | with_reducible intro _ | dsimp only | split)

theorem State.phaseNext_kept {s : State} {fn : Nat} {slot : Nat}
    (hH : ∀ x ∈ ([.fns, .egress, .lanes, .armed, .block .pipe, .block .jl] : List Portion), H x = false)
    (hk0 : Kept pk wq H z0 s) : Kept pk wq H z0 (State.phaseNext s fn slot) := by
  unfold State.phaseNext
  repeat' (first
    | with_reducible assumption | exact held_sub hH rfl | exact held_one hH rfl | exact fldOk rfl
    | with_reducible refine State.setFld_kept ?_ ?_ ?_ | with_reducible refine State.shoalOpen_kept ?_ ?_
    | with_reducible refine State.feedBegins_kept ?_ ?_ | with_reducible refine ite_kept ?_ ?_
    | with_reducible intro _ | dsimp only | split)

theorem State.stageCounts_kept {s : State} {fn : Nat} {slot : Nat}
    (hH : ∀ x ∈ ([.fns, .block .pipe] : List Portion), H x = false) (hk0 : Kept pk wq H z0 s) : Kept pk wq H z0
    (State.stageCounts s fn slot) := by
  unfold State.stageCounts
  repeat' (first
    | with_reducible assumption | exact held_sub hH rfl | exact held_one hH rfl | exact fldOk rfl
    | with_reducible refine State.satFld_kept ?_ ?_ ?_ | with_reducible refine State.modStage_kept ?_ ?_
    | simp only [Kept.frame_iff, and_self, true_or, or_true] | with_reducible intro _ | dsimp only | split)

theorem State.phaseHeard_kept {s : State} {fn : Nat} {slot : Nat} (hH : ∀ x ∈ ([.fns] : List Portion), H x = false)
    (hk0 : Kept pk wq H z0 s) : Kept pk wq H z0 (State.phaseHeard s fn slot) := by
  unfold State.phaseHeard
  repeat' (first
    | with_reducible assumption | exact held_sub hH rfl | exact held_one hH rfl | exact fldOk rfl
    | with_reducible refine State.modStage_kept ?_ ?_ | simp only [Kept.frame_iff, and_self, true_or, or_true]
    | with_reducible intro _ | dsimp only | split)

theorem State.copyIdles_kept {s : State} {i : Nat} (hH : ∀ x ∈ ([.lanes] : List Portion), H x = false)
    (hk0 : Kept pk wq H z0 s) : Kept pk wq H z0 (State.copyIdles s i) := by
  unfold State.copyIdles
  repeat' (first
    | with_reducible assumption | exact held_sub hH rfl | exact held_one hH rfl | exact fldOk rfl
    | with_reducible refine State.sendPacket_kept ?_ ?_ | with_reducible refine ite_kept ?_ ?_
    | simp only [Kept.frame_iff, and_self, true_or, or_true] | with_reducible intro _ | dsimp only | split)

theorem State.stopPhase_kept {s : State} {fn : Nat} {slot : Nat}
    (hH : ∀ x ∈ ([.islets, .queues, .gov, .block .isl, .block .hbr] : List Portion), H x = false)
    (hk0 : Kept pk wq H z0 s) : Kept pk wq H z0 (State.stopPhase s fn slot) := by
  unfold State.stopPhase
  repeat' (first
    | with_reducible assumption | exact held_sub hH rfl | exact held_one hH rfl | exact fldOk rfl
    | with_reducible refine State.stopIslet_kept ?_ ?_ | with_reducible refine foldl_kept ?_ ?_
    | with_reducible refine iteP_kept ?_ ?_ | with_reducible refine foldlP_kept ?_ ?_
    | with_reducible refine foldlP_kept' (by with_reducible assumption) ?_ ?_
    | simp only [Kept.frame_iff, and_self, true_or, or_true] | with_reducible intro _ | dsimp only | split)

theorem State.stageEnd_kept {s : State} {fn : Nat} {slot : Nat} {st : Status}
    (hH : ∀ x ∈ ([.islets, .fns, .queues, .gov, .block .isl, .block .pipe, .block .hbr] : List Portion), H x = false)
    (hk0 : Kept pk wq H z0 s) : Kept pk wq H z0 (State.stageEnd s fn slot st) := by
  unfold State.stageEnd
  repeat' (first
    | with_reducible assumption | exact held_sub hH rfl | exact held_one hH rfl | exact fldOk rfl
    | with_reducible refine State.setFld_kept ?_ ?_ ?_ | with_reducible refine State.modStage_kept ?_ ?_
    | with_reducible refine State.shoalReset_kept ?_ ?_ | with_reducible refine State.stageCounts_kept ?_ ?_
    | with_reducible refine State.stopPhase_kept ?_ ?_ | with_reducible refine ite_kept ?_ ?_
    | simp only [Kept.frame_iff, and_self, true_or, or_true] | with_reducible intro _ | dsimp only | split)

theorem State.stagesEnd_kept {s : State} {fn : Nat} {st : Status}
    (hH : ∀ x ∈ ([.islets, .fns, .queues, .gov, .block .isl, .block .pipe, .block .hbr] : List Portion), H x = false)
    (hk0 : Kept pk wq H z0 s) : Kept pk wq H z0 (State.stagesEnd s fn st) := by
  unfold State.stagesEnd
  repeat' (first
    | with_reducible assumption | exact held_sub hH rfl | exact held_one hH rfl | exact fldOk rfl
    | with_reducible refine State.stageEnd_kept ?_ ?_ | with_reducible refine foldl_kept ?_ ?_
    | with_reducible refine iteP_kept ?_ ?_ | with_reducible refine foldlP_kept ?_ ?_
    | with_reducible refine foldlP_kept' (by with_reducible assumption) ?_ ?_ | with_reducible intro _ | dsimp only
    | split)

theorem State.modStep_kept {s : State} {fn : Nat} {g : StepSvc → StepSvc}
    (hH : ∀ x ∈ ([.fns] : List Portion), H x = false) (hk0 : Kept pk wq H z0 s) : Kept pk wq H z0
    (State.modStep s fn g) := by
  unfold State.modStep
  repeat' (first
    | with_reducible assumption | exact held_sub hH rfl | exact held_one hH rfl | exact fldOk rfl
    | exact .inl (fun _ => rfl) | exact .inr (held_one hH rfl)
    | exact .inl (fun x => by dsimp only; repeat' split <;> rfl) | with_reducible refine State.modFn_kept ?_ ?_ ?_
    | with_reducible refine mapFst_kept ?_ | simp only [Kept.frame_iff, and_self, true_or, or_true]
    | with_reducible intro _ | dsimp only | split)

theorem State.stepStat_kept {s : State} {fn : Nat} (hH : ∀ x ∈ ([.block .svc] : List Portion), H x = false)
    (hk0 : Kept pk wq H z0 s) : Kept pk wq H z0 (State.stepStat s fn) := by
  unfold State.stepStat
  repeat' (first
    | with_reducible assumption | exact held_sub hH rfl | exact held_one hH rfl | exact fldOk rfl
    | with_reducible refine State.setFld_kept ?_ ?_ ?_ | with_reducible refine ite_kept ?_ ?_ | with_reducible intro _
    | dsimp only | split)

theorem State.stepEnding_kept {s : State} {fn : Nat} {r : StepRec} {st : Status}
    (hH : ∀ x ∈ ([.fns, .block .svc] : List Portion), H x = false) (hk0 : Kept pk wq H z0 s) : Kept pk wq H z0
    (State.stepEnding s fn r st) := by
  unfold State.stepEnding
  repeat' (first
    | with_reducible assumption | exact held_sub hH rfl | exact held_one hH rfl | exact fldOk rfl
    | with_reducible refine State.setFld_kept ?_ ?_ ?_ | with_reducible refine State.modStep_kept ?_ ?_
    | with_reducible refine State.stepStat_kept ?_ ?_ | simp only [Kept.frame_iff, and_self, true_or, or_true]
    | with_reducible intro _ | dsimp only | split)

theorem State.sendAborts_kept {s : State} {fn : Nat} {st : Status}
    (hH : ∀ x ∈ ([.egress, .armed, .block .jl] : List Portion), H x = false) (hk0 : Kept pk wq H z0 s) : Kept pk wq H
    z0 (State.sendAborts s fn st) := by
  unfold State.sendAborts
  repeat' (first
    | with_reducible assumption | exact held_sub hH rfl | exact held_one hH rfl | exact fldOk rfl
    | with_reducible refine State.sendTo_kept ?_ ?_ | with_reducible refine foldl_kept ?_ ?_
    | with_reducible refine mapFst_kept ?_ | with_reducible refine iteP_kept ?_ ?_
    | with_reducible refine foldlP_kept ?_ ?_
    | with_reducible refine foldlP_kept' (by with_reducible assumption) ?_ ?_
    | simp only [Kept.frame_iff, and_self, true_or, or_true] | with_reducible intro _ | dsimp only | split)

theorem State.abortStep_kept {s : State} {fn : Nat} {st : Status} {send : Bool}
    (hH : ∀ x ∈ ([.islets, .fns, .queues, .jobs, .egress, .gov, .armed, .block .isl, .block .pipe, .block .jl, .block .red, .block .svc, .block .hbr] : List Portion), H x = false)
    (hk0 : Kept pk wq H z0 s) : Kept pk wq H z0 (State.abortStep s fn st send) := by
  unfold State.abortStep
  repeat' (first
    | with_reducible assumption | exact held_sub hH rfl | exact held_one hH rfl | exact fldOk rfl
    | with_reducible refine State.jobStop_kept ?_ ?_ | with_reducible refine State.stagesEnd_kept ?_ ?_
    | with_reducible refine State.stepEnding_kept ?_ ?_ | with_reducible refine State.sendAborts_kept ?_ ?_
    | with_reducible refine foldl_kept ?_ ?_ | with_reducible refine ite_kept ?_ ?_
    | with_reducible refine iteP_kept ?_ ?_ | with_reducible refine foldlP_kept ?_ ?_
    | with_reducible refine foldlP_kept' (by with_reducible assumption) ?_ ?_ | with_reducible intro _ | dsimp only
    | split)

theorem State.attemptStart_kept {s : State} {fn : Nat}
    (hH : ∀ x ∈ ([.mem, .fns, .optim, .jobs, .egress, .lanes, .mctp, .armed, .block .mem, .block .pipe, .block .reef, .block .jl, .block .red, .block .svc, .block .hbr] : List Portion), H x = false)
    (hk0 : Kept pk wq H z0 s) : Kept pk wq H z0 (State.attemptStart s fn) := by
  unfold State.attemptStart
  repeat' (first
    | with_reducible assumption | exact held_sub hH rfl | exact held_one hH rfl | exact fldOk rfl
    | exact wordOk_zero rfl | exact wordOk_whole rfl | with_reducible refine State.setReg_kept ?_ ?_ ?_
    | with_reducible refine State.setFld_kept ?_ ?_ ?_ | with_reducible refine State.devWrite_kept ?_ ?_
    | with_reducible refine State.modOpt_kept ?_ ?_ | with_reducible refine State.modJob_kept ?_ ?_
    | with_reducible refine State.jobStat_kept ?_ ?_ | with_reducible refine State.modStage_kept ?_ ?_
    | with_reducible refine State.phaseNext_kept ?_ ?_ | with_reducible refine State.modStep_kept ?_ ?_
    | with_reducible refine State.stepStat_kept ?_ ?_ | with_reducible refine State.stepEnding_kept ?_ ?_
    | with_reducible refine foldl_kept ?_ ?_ | with_reducible refine ite_kept ?_ ?_
    | with_reducible refine iteP_kept ?_ ?_ | with_reducible refine foldlP_kept ?_ ?_
    | with_reducible refine State.devWrite_kept' (by with_reducible assumption) ?_ ?_
    | with_reducible refine foldlP_kept' (by with_reducible assumption) ?_ ?_
    | simp only [Kept.frame_iff, and_self, true_or, or_true] | with_reducible intro _ | dsimp only | split)

theorem State.freeWindow_kept {s : State} {i : Nat} {off : Nat} (hH : ∀ x ∈ ([.islets] : List Portion), H x = false)
    (hk0 : Kept pk wq H z0 s) : Kept pk wq H z0 (State.freeWindow s i off) := by
  unfold State.freeWindow
  repeat' (first
    | with_reducible assumption | exact held_sub hH rfl | exact held_one hH rfl | exact fldOk rfl
    | with_reducible refine State.modIslet_kept ?_ ?_ | with_reducible refine mapFst_kept ?_
    | simp only [Kept.frame_iff, and_self, true_or, or_true] | with_reducible intro _ | dsimp only | split)

theorem State.optInterrupt_kept {s : State} {fn : Nat}
    (hH : ∀ x ∈ ([.mem, .islets, .fns, .optim, .egress, .lanes, .mctp, .armed, .block .mem, .block .reef, .block .jl, .block .opt, .block .hbr] : List Portion), H x = false)
    (hk0 : Kept pk wq H z0 s) : Kept pk wq H z0 (State.optInterrupt s fn) := by
  unfold State.optInterrupt
  repeat' (first
    | with_reducible assumption | exact held_sub hH rfl | exact held_one hH rfl | exact fldOk rfl
    | with_reducible refine State.modIslet_kept ?_ ?_ | with_reducible refine State.modOpt_kept ?_ ?_
    | with_reducible refine State.shardCut_kept ?_ ?_ | with_reducible refine State.freeWindow_kept ?_ ?_
    | with_reducible refine foldl_kept ?_ ?_ | with_reducible refine ite_kept ?_ ?_
    | with_reducible refine iteP_kept ?_ ?_ | with_reducible refine foldlP_kept ?_ ?_
    | with_reducible refine foldlP_kept' (by with_reducible assumption) ?_ ?_
    | simp only [Kept.frame_iff, and_self, true_or, or_true] | with_reducible intro _ | dsimp only | split)

theorem State.optLast_kept {s : State} {fn : Nat} {st : Status}
    (hH : ∀ x ∈ ([.block .opt] : List Portion), H x = false) (hk0 : Kept pk wq H z0 s) : Kept pk wq H z0
    (State.optLast s fn st) := by
  unfold State.optLast
  repeat' (first
    | with_reducible assumption | exact held_sub hH rfl | exact held_one hH rfl | exact fldOk rfl
    | with_reducible refine State.setFld_kept ?_ ?_ ?_ | with_reducible refine ite_kept ?_ ?_ | with_reducible intro _
    | dsimp only | split)

theorem State.optStop_kept {s : State} {fn : Nat} {st : Status}
    (hH : ∀ x ∈ ([.mem, .islets, .fns, .optim, .queues, .jobs, .egress, .gov, .lanes, .mctp, .armed, .block .isl, .block .mem, .block .pipe, .block .reef, .block .jl, .block .red, .block .opt, .block .svc, .block .hbr] : List Portion), H x = false)
    (hk0 : Kept pk wq H z0 s) : Kept pk wq H z0 (State.optStop s fn st) := by
  unfold State.optStop
  repeat' (first
    | with_reducible assumption | exact held_sub hH rfl | exact held_one hH rfl | exact fldOk rfl
    | with_reducible refine State.setFld_kept ?_ ?_ ?_ | with_reducible refine State.fnEvent_kept ?_ ?_ ?_ ?_
    | with_reducible refine State.modOpt_kept ?_ ?_ | with_reducible refine State.jobStop_kept ?_ ?_
    | with_reducible refine State.stagesEnd_kept ?_ ?_ | with_reducible refine State.modStep_kept ?_ ?_
    | with_reducible refine State.stepStat_kept ?_ ?_ | with_reducible refine State.stepEnding_kept ?_ ?_
    | with_reducible refine State.optInterrupt_kept ?_ ?_ | with_reducible refine State.optLast_kept ?_ ?_
    | with_reducible refine foldl_kept ?_ ?_ | with_reducible refine getD_kept ?_ ?_
    | with_reducible refine ite_kept ?_ ?_ | with_reducible refine iteP_kept ?_ ?_
    | with_reducible refine foldlP_kept ?_ ?_
    | with_reducible refine foldlP_kept' (by with_reducible assumption) ?_ ?_
    | simp only [Kept.frame_iff, and_self, true_or, or_true] | with_reducible intro _ | dsimp only | split)

theorem State.queueFails_kept {s : State} {fn : Nat} {q : Nat} {st : Status}
    (hH : ∀ x ∈ ([.egress, .armed, .block .jl, .block .svc] : List Portion), H x = false) (hk0 : Kept pk wq H z0 s) :
    Kept pk wq H z0 (State.queueFails s fn q st) := by
  unfold State.queueFails
  repeat' (first
    | with_reducible assumption | exact held_sub hH rfl | exact held_one hH rfl | exact fldOk rfl
    | with_reducible refine State.setFld_kept ?_ ?_ ?_ | with_reducible refine State.fnEvent_kept ?_ ?_ ?_ ?_
    | with_reducible refine ite_kept ?_ ?_ | with_reducible intro _ | dsimp only | split)

theorem State.launchTake_kept {s : State} {l : Launch} (hk0 : Kept pk wq H z0 s) : Kept pk wq H z0
    (State.launchTake s l).1 := by
  unfold State.launchTake
  repeat' (first
    | with_reducible assumption | with_reducible refine iteP_kept ?_ ?_
    | simp only [Kept.frame_iff, and_self, true_or, or_true] | with_reducible intro _ | dsimp only | split)
theorem State.launchTake_kept' {s : State} {l : Launch} {t z} (e : State.launchTake s l = (t, z))
    (hk0 : Kept pk wq H z0 s) : Kept pk wq H z0 t := by
  have k : Kept pk wq H z0 (State.launchTake s l).1 := State.launchTake_kept hk0
  rw [e] at k; exact k

theorem State.modGen_kept {s : State} {fn : Nat} {g : GenSvc → GenSvc}
    (hH : ∀ x ∈ ([.fns] : List Portion), H x = false) (hk0 : Kept pk wq H z0 s) : Kept pk wq H z0
    (State.modGen s fn g) := by
  unfold State.modGen
  repeat' (first
    | with_reducible assumption | exact held_sub hH rfl | exact held_one hH rfl | exact fldOk rfl
    | exact .inl (fun _ => rfl) | exact .inr (held_one hH rfl)
    | exact .inl (fun x => by dsimp only; repeat' split <;> rfl) | with_reducible refine State.modFn_kept ?_ ?_ ?_
    | with_reducible refine mapFst_kept ?_ | simp only [Kept.frame_iff, and_self, true_or, or_true]
    | with_reducible intro _ | dsimp only | split)

theorem State.genWrite_kept {s : State} {fn : Nat} {g : GenSvc} {addr : Nat} {bs : List Byte}
    (hH : ∀ x ∈ ([.mem, .fns, .egress, .lanes, .mctp, .armed, .block .mem, .block .reef, .block .jl, .block .hbr] : List Portion), H x = false)
    (hk0 : Kept pk wq H z0 s) : Kept pk wq H z0 (State.genWrite s fn g addr bs) := by
  unfold State.genWrite
  repeat' (first
    | with_reducible assumption | exact held_sub hH rfl | exact held_one hH rfl | exact fldOk rfl
    | with_reducible refine State.hostWrite_kept ?_ ?_ | with_reducible refine State.devWrite_kept ?_ ?_
    | with_reducible refine State.modGen_kept ?_ ?_ | with_reducible refine getD_kept ?_ ?_
    | with_reducible refine ite_kept ?_ ?_
    | with_reducible refine State.devWrite_kept' (by with_reducible assumption) ?_ ?_
    | simp only [Kept.frame_iff, and_self, true_or, or_true] | with_reducible intro _ | dsimp only | split)

theorem State.genStat_kept {s : State} {fn : Nat} (hH : ∀ x ∈ ([.block .svc] : List Portion), H x = false)
    (hk0 : Kept pk wq H z0 s) : Kept pk wq H z0 (State.genStat s fn) := by
  unfold State.genStat
  repeat' (first
    | with_reducible assumption | exact held_sub hH rfl | exact held_one hH rfl | exact fldOk rfl
    | with_reducible refine State.setFld_kept ?_ ?_ ?_ | with_reducible refine ite_kept ?_ ?_ | with_reducible intro _
    | dsimp only | split)

theorem State.genEnd_kept {s : State} {fn : Nat} {st : Status} {stop : Bool}
    (hH : ∀ x ∈ ([.mem, .fns, .queues, .egress, .lanes, .mctp, .armed, .block .mem, .block .reef, .block .jl, .block .svc, .block .hbr] : List Portion), H x = false)
    (hk0 : Kept pk wq H z0 s) : Kept pk wq H z0 (State.genEnd s fn st stop) := by
  unfold State.genEnd
  repeat' (first
    | with_reducible assumption | exact held_sub hH rfl | exact held_one hH rfl | exact fldOk rfl
    | exact .inl (fun _ => rfl) | exact .inr (held_one hH rfl)
    | exact .inl (fun x => by dsimp only; repeat' split <;> rfl) | with_reducible refine State.setFld_kept ?_ ?_ ?_
    | with_reducible refine State.fnEvent_kept ?_ ?_ ?_ ?_ | with_reducible refine State.modFn_kept ?_ ?_ ?_
    | with_reducible refine State.completeCommand_kept ?_ ?_ | with_reducible refine State.genWrite_kept ?_ ?_
    | with_reducible refine State.genStat_kept ?_ ?_ | with_reducible refine foldl_kept ?_ ?_
    | with_reducible refine getD_kept ?_ ?_ | with_reducible refine ite_kept ?_ ?_
    | with_reducible refine iteP_kept ?_ ?_ | with_reducible refine foldlP_kept ?_ ?_
    | with_reducible refine foldlP_kept' (by with_reducible assumption) ?_ ?_
    | simp only [Kept.frame_iff, and_self, true_or, or_true] | with_reducible intro _ | dsimp only | split)

theorem State.genBoundary_kept {s : State} {fn : Nat}
    (hH : ∀ x ∈ ([.mem, .fns, .queues, .egress, .lanes, .mctp, .armed, .block .mem, .block .reef, .block .jl, .block .svc, .block .hbr] : List Portion), H x = false)
    (hk0 : Kept pk wq H z0 s) : Kept pk wq H z0 (State.genBoundary s fn) := by
  unfold State.genBoundary
  repeat' (first
    | with_reducible assumption | exact held_sub hH rfl | exact held_one hH rfl | exact fldOk rfl
    | with_reducible refine State.completeCommand_kept ?_ ?_ | with_reducible refine State.modGen_kept ?_ ?_
    | with_reducible refine State.genStat_kept ?_ ?_ | with_reducible refine State.genEnd_kept ?_ ?_
    | with_reducible refine foldl_kept ?_ ?_ | with_reducible refine ite_kept ?_ ?_
    | with_reducible refine iteP_kept ?_ ?_ | with_reducible refine foldlP_kept ?_ ?_
    | with_reducible refine foldlP_kept' (by with_reducible assumption) ?_ ?_
    | simp only [Kept.frame_iff, and_self, true_or, or_true] | with_reducible intro _ | dsimp only | split)

theorem State.genTokens_kept {s : State} {fn : Nat} {g : GenSvc}
    (hH : ∀ x ∈ ([.mem, .fns, .egress, .lanes, .mctp, .armed, .block .mem, .block .reef, .block .jl, .block .svc, .block .hbr] : List Portion), H x = false)
    (hk0 : Kept pk wq H z0 s) : Kept pk wq H z0 (State.genTokens s fn g).1 := by
  unfold State.genTokens
  repeat' (first
    | with_reducible assumption | exact held_sub hH rfl | exact held_one hH rfl | exact fldOk rfl
    | with_reducible refine State.addFld_kept ?_ ?_ ?_ | with_reducible refine State.devRead_kept ?_ ?_
    | with_reducible refine State.modGen_kept ?_ ?_ | with_reducible refine State.genWrite_kept ?_ ?_
    | with_reducible refine foldl_kept ?_ ?_ | with_reducible refine getD_kept ?_ ?_
    | with_reducible refine ite_kept ?_ ?_ | with_reducible refine iteP_kept ?_ ?_
    | with_reducible refine foldlP_kept ?_ ?_
    | with_reducible refine State.devRead_kept' (by with_reducible assumption) ?_ ?_
    | with_reducible refine foldlP_kept' (by with_reducible assumption) ?_ ?_
    | simp only [Kept.frame_iff, and_self, true_or, or_true] | with_reducible intro _ | dsimp only | split)
theorem State.genTokens_kept' {s : State} {fn : Nat} {g : GenSvc} {t z} (e : State.genTokens s fn g = (t, z))
    (hH : ∀ x ∈ ([.mem, .fns, .egress, .lanes, .mctp, .armed, .block .mem, .block .reef, .block .jl, .block .svc, .block .hbr] : List Portion), H x = false)
    (hk0 : Kept pk wq H z0 s) : Kept pk wq H z0 t := by
  have k : Kept pk wq H z0 (State.genTokens s fn g).1 := State.genTokens_kept hH hk0
  rw [e] at k; exact k

theorem State.genLaunch_kept {s : State} {fn : Nat} {id : Nat} {kind : Nat} {fresh : Nat} {cont : Nat}
    (hH : ∀ x ∈ ([.fns] : List Portion), H x = false) (hk0 : Kept pk wq H z0 s) : Kept pk wq H z0
    (State.genLaunch s fn id kind fresh cont) := by
  unfold State.genLaunch
  repeat' (first
    | with_reducible assumption | exact held_sub hH rfl | exact held_one hH rfl | exact fldOk rfl
    | with_reducible refine State.launchTake_kept ?_ | with_reducible refine State.modGen_kept ?_ ?_
    | with_reducible refine id_kept ?_
    | with_reducible refine State.launchTake_kept' (by with_reducible assumption) ?_
    | simp only [Kept.frame_iff, and_self, true_or, or_true] | with_reducible intro _ | dsimp only | split)

theorem State.genAdvance_kept {s : State} {fn : Nat}
    (hH : ∀ x ∈ ([.mem, .fns, .queues, .egress, .lanes, .mctp, .armed, .block .mem, .block .reef, .block .jl, .block .svc, .block .hbr] : List Portion), H x = false)
    (hk0 : Kept pk wq H z0 s) : Kept pk wq H z0 (State.genAdvance s fn) := by
  unfold State.genAdvance
  repeat' (first
    | with_reducible assumption | exact held_sub hH rfl | exact held_one hH rfl | exact fldOk rfl
    | with_reducible refine State.fnEvent_kept ?_ ?_ ?_ ?_ | with_reducible refine State.modGen_kept ?_ ?_
    | with_reducible refine State.genStat_kept ?_ ?_ | with_reducible refine State.genEnd_kept ?_ ?_
    | with_reducible refine State.genBoundary_kept ?_ ?_ | with_reducible refine State.genTokens_kept ?_ ?_
    | with_reducible refine State.genLaunch_kept ?_ ?_ | with_reducible refine mapFst_kept ?_
    | with_reducible refine ite_kept ?_ ?_
    | with_reducible refine State.genTokens_kept' (by with_reducible assumption) ?_ ?_
    | simp only [Kept.frame_iff, and_self, true_or, or_true] | with_reducible intro _ | dsimp only | split)

theorem State.modLaunch_kept {s : State} {lid : Nat} {g : Launch → Launch} (hk0 : Kept pk wq H z0 s) : Kept pk wq H z0
    (State.modLaunch s lid g) := by
  unfold State.modLaunch
  repeat' (first
    | with_reducible assumption | with_reducible refine mapFst_kept ?_ | with_reducible refine ite_kept ?_ ?_
    | simp only [Kept.frame_iff, and_self, true_or, or_true] | with_reducible intro _ | dsimp only | split)

theorem State.launchEnd_kept {s : State} {lid : Nat} {st : Status}
    (hH : ∀ x ∈ ([.mem, .fns, .queues, .egress, .lanes, .mctp, .armed, .block .mem, .block .reef, .block .jl, .block .svc, .block .hbr] : List Portion), H x = false)
    (hk0 : Kept pk wq H z0 s) : Kept pk wq H z0 (State.launchEnd s lid st) := by
  unfold State.launchEnd
  repeat' (first
    | with_reducible assumption | exact held_sub hH rfl | exact held_one hH rfl | exact fldOk rfl
    | with_reducible refine State.completeCommand_kept ?_ ?_ | with_reducible refine State.modGen_kept ?_ ?_
    | with_reducible refine State.genAdvance_kept ?_ ?_ | with_reducible refine ite_kept ?_ ?_
    | simp only [Kept.frame_iff, and_self, true_or, or_true] | with_reducible intro _ | dsimp only | split)

theorem State.launchStop_kept {s : State} {lid : Nat} {st : Status}
    (hH : ∀ x ∈ ([.mem, .islets, .fns, .queues, .egress, .gov, .lanes, .mctp, .armed, .block .isl, .block .mem, .block .reef, .block .jl, .block .svc, .block .hbr] : List Portion), H x = false)
    (hk0 : Kept pk wq H z0 s) : Kept pk wq H z0 (State.launchStop s lid st) := by
  unfold State.launchStop
  repeat' (first
    | with_reducible assumption | exact held_sub hH rfl | exact held_one hH rfl | exact fldOk rfl
    | with_reducible refine State.stopIslets_kept ?_ ?_ | with_reducible refine State.launchEnd_kept ?_ ?_
    | with_reducible intro _ | dsimp only | split)

theorem State.taskEnd_kept {s : State} {t : Option Task} {st : Status}
    (hH : ∀ x ∈ ([.mem, .islets, .fns, .optim, .queues, .jobs, .egress, .gov, .lanes, .mctp, .armed, .block .isl, .block .mem, .block .pipe, .block .reef, .block .jl, .block .red, .block .opt, .block .svc, .block .hbr] : List Portion), H x = false)
    (hk0 : Kept pk wq H z0 s) : Kept pk wq H z0 (State.taskEnd s t st) := by
  unfold State.taskEnd
  repeat' (first
    | with_reducible assumption | exact held_sub hH rfl | exact held_one hH rfl | exact fldOk rfl
    | with_reducible refine State.abortStep_kept ?_ ?_ | with_reducible refine State.optStop_kept ?_ ?_
    | with_reducible refine State.launchStop_kept ?_ ?_ | with_reducible intro _ | dsimp only | split)

theorem State.isletFaults_kept {s : State} {i : Nat} {cause : Nat} {st : Status}
    (hH : ∀ x ∈ ([.mem, .islets, .fns, .optim, .queues, .jobs, .egress, .gov, .lanes, .mctp, .armed, .block .isl, .block .mem, .block .pipe, .block .reef, .block .jl, .block .red, .block .opt, .block .svc, .block .hbr] : List Portion), H x = false)
    (hk0 : Kept pk wq H z0 s) : Kept pk wq H z0 (State.isletFaults s i cause st) := by
  unfold State.isletFaults
  repeat' (first
    | with_reducible assumption | exact held_sub hH rfl | exact held_one hH rfl | exact fldOk rfl
    | with_reducible refine State.setFld_kept ?_ ?_ ?_ | with_reducible refine State.modIslet_kept ?_ ?_
    | with_reducible refine State.copyStat_kept ?_ ?_ | with_reducible refine State.queueStat_kept ?_ ?_
    | with_reducible refine State.freeUnfinished_kept ?_ ?_ | with_reducible refine State.taskEnd_kept ?_ ?_
    | with_reducible intro _ | dsimp only | split)

end Sys2Proof.Machine
end

