-- ==== Sys2Proof/Laws/KeptShoal.lean ====
section
/-! SUPPORT. What the operations of Shoal.lean keep. -/

namespace Sys2Proof.Machine
open Sys2Proof

variable {pk : Package} {wq : List Instr} {H : Portion → Bool} {z0 : State}

theorem State.stray_kept {s : State} {fn : Nat} {slot : Nat} (hH : ∀ x ∈ ([.block .pipe] : List Portion), H x = false)
    (hk0 : Kept pk wq H z0 s) : Kept pk wq H z0 (State.stray s fn slot) := by
  unfold State.stray
  repeat' (first
    | with_reducible assumption | exact held_sub hH rfl | exact held_one hH rfl | exact fldOk rfl
    | with_reducible refine State.satFld_kept ?_ ?_ ?_ | with_reducible intro _ | dsimp only | split)

theorem State.shoalOverflow_kept {s : State} {fn : Nat} {slot : Nat} {off : Nat} {replay : Bool}
    (hH : ∀ x ∈ ([.islets, .fns, .queues, .jobs, .egress, .gov, .armed, .block .isl, .block .pipe, .block .jl, .block .red, .block .svc, .block .hbr] : List Portion), H x = false)
    (hk0 : Kept pk wq H z0 s) : Kept pk wq H z0 (State.shoalOverflow s fn slot off replay) := by
  unfold State.shoalOverflow
  repeat' (first
    | with_reducible assumption | exact held_sub hH rfl | exact held_one hH rfl | exact fldOk rfl
    | with_reducible refine State.setFld_kept ?_ ?_ ?_ | with_reducible refine State.abortStep_kept ?_ ?_
    | with_reducible refine ite_kept ?_ ?_ | with_reducible intro _ | dsimp only | split)

theorem State.windowWrite_kept {s : State} {src : Source} {fn : Nat} {slot : Nat} {pop : Bool} {off : Nat}
    {bs : List Byte} {die : Option Nat}
    (hH : ∀ x ∈ ([.mem, .islets, .fns, .queues, .jobs, .egress, .gov, .lanes, .mctp, .armed, .block .isl, .block .mem, .block .pipe, .block .reef, .block .jl, .block .red, .block .svc, .block .hbr] : List Portion), H x = false)
    (hk0 : Kept pk wq H z0 s) : Kept pk wq H z0 (State.windowWrite s src fn slot pop off bs die).1 := by
  unfold State.windowWrite
  repeat' (first
    | with_reducible assumption | exact held_sub hH rfl | exact held_one hH rfl | exact fldOk rfl
    | with_reducible refine State.devWrite_kept ?_ ?_ | with_reducible refine State.modStage_kept ?_ ?_
    | with_reducible refine State.shoalCur_kept ?_ ?_ | with_reducible refine State.stray_kept ?_ ?_
    | with_reducible refine State.shoalOverflow_kept ?_ ?_ | with_reducible refine ite_kept ?_ ?_
    | with_reducible refine iteP_kept ?_ ?_
    | with_reducible refine State.devWrite_kept' (by with_reducible assumption) ?_ ?_
    | simp only [Kept.frame_iff, and_self, true_or, or_true] | with_reducible intro _ | dsimp only | split)
theorem State.windowWrite_kept' {s : State} {src : Source} {fn : Nat} {slot : Nat} {pop : Bool} {off : Nat}
    {bs : List Byte} {die : Option Nat} {t z} (e : State.windowWrite s src fn slot pop off bs die = (t, z))
    (hH : ∀ x ∈ ([.mem, .islets, .fns, .queues, .jobs, .egress, .gov, .lanes, .mctp, .armed, .block .isl, .block .mem, .block .pipe, .block .reef, .block .jl, .block .red, .block .svc, .block .hbr] : List Portion), H x = false)
    (hk0 : Kept pk wq H z0 s) : Kept pk wq H z0 t := by
  have k : Kept pk wq H z0 (State.windowWrite s src fn slot pop off bs die).1 := State.windowWrite_kept hH hk0
  rw [e] at k; exact k

theorem State.windowRead_kept {s : State} {src : Source} {fn : Nat} {slot : Nat} {pop : Bool} {off : Nat} {len : Nat}
    {die : Option Nat}
    (hH : ∀ x ∈ ([.mem, .fns, .egress, .lanes, .mctp, .armed, .block .mem, .block .pipe, .block .reef, .block .jl, .block .hbr] : List Portion), H x = false)
    (hk0 : Kept pk wq H z0 s) : Kept pk wq H z0 (State.windowRead s src fn slot pop off len die).1 := by
  unfold State.windowRead
  repeat' (first
    | with_reducible assumption | exact held_sub hH rfl | exact held_one hH rfl | exact fldOk rfl
    | with_reducible refine State.devRead_kept ?_ ?_ | with_reducible refine State.stray_kept ?_ ?_
    | with_reducible refine ite_kept ?_ ?_ | with_reducible refine iteP_kept ?_ ?_
    | with_reducible refine State.devRead_kept' (by with_reducible assumption) ?_ ?_
    | simp only [Kept.frame_iff, and_self, true_or, or_true] | with_reducible intro _ | dsimp only | split)
theorem State.windowRead_kept' {s : State} {src : Source} {fn : Nat} {slot : Nat} {pop : Bool} {off : Nat} {len : Nat}
    {die : Option Nat} {t z} (e : State.windowRead s src fn slot pop off len die = (t, z))
    (hH : ∀ x ∈ ([.mem, .fns, .egress, .lanes, .mctp, .armed, .block .mem, .block .pipe, .block .reef, .block .jl, .block .hbr] : List Portion), H x = false)
    (hk0 : Kept pk wq H z0 s) : Kept pk wq H z0 t := by
  have k : Kept pk wq H z0 (State.windowRead s src fn slot pop off len die).1 := State.windowRead_kept hH hk0
  rw [e] at k; exact k

theorem State.unitRead_kept {s : State} {src : Source} {fn : Nat} {addr : Nat} {len : Nat} {die : Option Nat}
    (hH : ∀ x ∈ ([.mem, .fns, .egress, .lanes, .mctp, .armed, .block .mem, .block .pipe, .block .reef, .block .jl, .block .hbr] : List Portion), H x = false)
    (hk0 : Kept pk wq H z0 s) : Kept pk wq H z0 (State.unitRead s src fn addr len die).1 := by
  unfold State.unitRead
  repeat' (first
    | with_reducible assumption | exact held_sub hH rfl | exact held_one hH rfl | exact fldOk rfl
    | with_reducible refine State.unmapped_kept ?_ ?_ | with_reducible refine State.devRead_kept ?_ ?_
    | with_reducible refine State.windowRead_kept ?_ ?_ | with_reducible refine ite_kept ?_ ?_
    | with_reducible refine iteP_kept ?_ ?_
    | with_reducible refine State.devRead_kept' (by with_reducible assumption) ?_ ?_
    | with_reducible refine State.windowRead_kept' (by with_reducible assumption) ?_ ?_
    | simp only [Kept.frame_iff, and_self, true_or, or_true] | with_reducible intro _ | dsimp only | split)
theorem State.unitRead_kept' {s : State} {src : Source} {fn : Nat} {addr : Nat} {len : Nat} {die : Option Nat} {t z}
    (e : State.unitRead s src fn addr len die = (t, z))
    (hH : ∀ x ∈ ([.mem, .fns, .egress, .lanes, .mctp, .armed, .block .mem, .block .pipe, .block .reef, .block .jl, .block .hbr] : List Portion), H x = false)
    (hk0 : Kept pk wq H z0 s) : Kept pk wq H z0 t := by
  have k : Kept pk wq H z0 (State.unitRead s src fn addr len die).1 := State.unitRead_kept hH hk0
  rw [e] at k; exact k

theorem State.unitWrite_kept {s : State} {src : Source} {fn : Nat} {addr : Nat} {bs : List Byte} {die : Option Nat}
    (hH : ∀ x ∈ ([.mem, .islets, .fns, .queues, .jobs, .reefs, .egress, .gov, .lanes, .mctp, .armed, .block .isl, .block .mem, .block .pipe, .block .reef, .block .jl, .block .red, .block .svc, .block .hbr] : List Portion), H x = false)
    (hk0 : Kept pk wq H z0 s) : Kept pk wq H z0 (State.unitWrite s src fn addr bs die).1 := by
  unfold State.unitWrite
  repeat' (first
    | with_reducible assumption | exact held_sub hH rfl | exact held_one hH rfl | exact fldOk rfl
    | with_reducible refine State.devWrite_kept ?_ ?_ | with_reducible refine State.issueWrite_kept ?_ ?_
    | with_reducible refine State.windowWrite_kept ?_ ?_ | with_reducible refine getD_kept ?_ ?_
    | with_reducible refine ite_kept ?_ ?_ | with_reducible refine iteP_kept ?_ ?_
    | with_reducible refine State.devWrite_kept' (by with_reducible assumption) ?_ ?_
    | with_reducible refine State.issueWrite_kept' (by with_reducible assumption) ?_ ?_
    | with_reducible refine State.windowWrite_kept' (by with_reducible assumption) ?_ ?_
    | simp only [Kept.frame_iff, and_self, true_or, or_true] | with_reducible intro _ | dsimp only | split)
theorem State.unitWrite_kept' {s : State} {src : Source} {fn : Nat} {addr : Nat} {bs : List Byte} {die : Option Nat}
    {t z} (e : State.unitWrite s src fn addr bs die = (t, z))
    (hH : ∀ x ∈ ([.mem, .islets, .fns, .queues, .jobs, .reefs, .egress, .gov, .lanes, .mctp, .armed, .block .isl, .block .mem, .block .pipe, .block .reef, .block .jl, .block .red, .block .svc, .block .hbr] : List Portion), H x = false)
    (hk0 : Kept pk wq H z0 s) : Kept pk wq H z0 t := by
  have k : Kept pk wq H z0 (State.unitWrite s src fn addr bs die).1 := State.unitWrite_kept hH hk0
  rw [e] at k; exact k

theorem State.unitReady_kept {s : State} {fn : Nat} {addr : Nat} {len : Nat} {write : Bool}
    (hH : ∀ x ∈ ([.mem, .fns, .egress, .lanes, .mctp, .armed, .block .mem, .block .jl, .block .hbr] : List Portion), H x = false)
    (hk0 : Kept pk wq H z0 s) : Kept pk wq H z0 (State.unitReady s fn addr len write).1 := by
  unfold State.unitReady
  repeat' (first
    | with_reducible assumption | exact held_sub hH rfl | exact held_one hH rfl | exact fldOk rfl
    | with_reducible refine State.prepareWrite_kept ?_ ?_ | with_reducible refine ite_kept ?_ ?_
    | with_reducible refine iteP_kept ?_ ?_
    | with_reducible refine State.prepareWrite_kept' (by with_reducible assumption) ?_ ?_ | with_reducible intro _
    | dsimp only | split)
theorem State.unitReady_kept' {s : State} {fn : Nat} {addr : Nat} {len : Nat} {write : Bool} {t z}
    (e : State.unitReady s fn addr len write = (t, z))
    (hH : ∀ x ∈ ([.mem, .fns, .egress, .lanes, .mctp, .armed, .block .mem, .block .jl, .block .hbr] : List Portion), H x = false)
    (hk0 : Kept pk wq H z0 s) : Kept pk wq H z0 t := by
  have k : Kept pk wq H z0 (State.unitReady s fn addr len write).1 := State.unitReady_kept hH hk0
  rw [e] at k; exact k

theorem execShoalWindowAccess_kept {fn : Nat} {addr : Nat} {len : Nat} {wr : Option (List Byte)} {upset : Nat}
    {s : State}
    (hH : ∀ x ∈ ([.mem, .islets, .fns, .queues, .jobs, .reefs, .egress, .gov, .lanes, .mctp, .armed, .block .isl, .block .mem, .block .pipe, .block .reef, .block .jl, .block .red, .block .svc, .block .hbr] : List Portion), H x = false)
    (hk0 : Kept pk wq H z0 s) : Kept.Outcome pk wq H z0 (execShoalWindowAccess fn addr len wr upset s) := by
  unfold execShoalWindowAccess
  repeat' (first
    | with_reducible assumption | exact held_sub hH rfl | exact held_one hH rfl | exact fldOk rfl
    | with_reducible refine State.addUpset_kept ?_ | with_reducible refine State.unitRead_kept ?_ ?_
    | with_reducible refine State.unitWrite_kept ?_ ?_ | with_reducible refine State.unitReady_kept ?_ ?_
    | with_reducible refine ite_kept ?_ ?_ | with_reducible refine iteO_kept ?_ ?_
    | with_reducible refine State.unitRead_kept' (by with_reducible assumption) ?_ ?_
    | with_reducible refine State.unitWrite_kept' (by with_reducible assumption) ?_ ?_
    | with_reducible refine State.unitReady_kept' (by with_reducible assumption) ?_ ?_
    | simp only [Kept.frame_iff, and_self, true_or, or_true] | with_reducible refine Kept.next ?_
    | with_reducible exact Kept.fault | with_reducible intro _ | dsimp only | split)

theorem State.phaseIslet_kept {s : State} {fn : Nat} {slot : Nat} {k : Nat} {m : Nat} {v : StepSvc} {i : Nat}
    (hH : ∀ x ∈ ([.islets, .lanes, .block .isl] : List Portion), H x = false) (hk0 : Kept pk wq H z0 s) : Kept pk wq H
    z0 (State.phaseIslet s fn slot k m v i) := by
  unfold State.phaseIslet
  repeat' (first
    | with_reducible assumption | exact held_sub hH rfl | exact held_one hH rfl | exact fldOk rfl
    | with_reducible refine State.sendPacket_kept ?_ ?_ | with_reducible refine State.spWrite_kept ?_ ?_
    | with_reducible refine State.startIslet_kept ?_ ?_ | with_reducible refine ite_kept ?_ ?_
    | with_reducible refine State.startIslet_kept' (by with_reducible assumption) ?_ ?_
    | simp only [Kept.frame_iff, and_self, true_or, or_true] | with_reducible intro _ | dsimp only | split)

theorem State.phaseArrives_kept {s : State} {fn : Nat} {slot : Nat} {k : Nat} {m : Nat} {i : Nat}
    (hH : ∀ x ∈ ([.islets, .lanes, .block .isl] : List Portion), H x = false) (hk0 : Kept pk wq H z0 s) : Kept pk wq H
    z0 (State.phaseArrives s fn slot k m i) := by
  unfold State.phaseArrives
  repeat' (first
    | with_reducible assumption | exact held_sub hH rfl | exact held_one hH rfl | exact fldOk rfl
    | with_reducible refine State.phaseIslet_kept ?_ ?_ | with_reducible intro _ | dsimp only | split)

theorem State.phaseBegins_kept {s : State} {fn : Nat} {slot : Nat} {k : Nat} {m : Nat} {rest : List (Nat × Nat)}
    {v : StepSvc} (hH : ∀ x ∈ ([.islets, .fns, .lanes, .block .isl, .block .pipe] : List Portion), H x = false)
    (hk0 : Kept pk wq H z0 s) : Kept pk wq H z0 (State.phaseBegins s fn slot k m rest v) := by
  unfold State.phaseBegins
  repeat' (first
    | with_reducible assumption | exact held_sub hH rfl | exact held_one hH rfl | exact fldOk rfl
    | with_reducible refine State.setFld_kept ?_ ?_ ?_ | with_reducible refine State.sendPacket_kept ?_ ?_
    | with_reducible refine State.modStage_kept ?_ ?_ | with_reducible refine State.shoalCur_kept ?_ ?_
    | with_reducible refine State.stageCounts_kept ?_ ?_ | with_reducible refine State.modStep_kept ?_ ?_
    | with_reducible refine State.phaseIslet_kept ?_ ?_ | with_reducible refine foldl_kept ?_ ?_
    | with_reducible refine ite_kept ?_ ?_ | with_reducible refine iteP_kept ?_ ?_
    | with_reducible refine foldlP_kept ?_ ?_
    | with_reducible refine foldlP_kept' (by with_reducible assumption) ?_ ?_
    | simp only [Kept.frame_iff, and_self, true_or, or_true] | with_reducible intro _ | dsimp only | split)

theorem execPhaseStart_kept {fn : Nat} {slot : Nat} {s : State}
    (hH : ∀ x ∈ ([.islets, .fns, .lanes, .block .isl, .block .pipe] : List Portion), H x = false)
    (hk0 : Kept pk wq H z0 s) : Kept.Outcome pk wq H z0 (execPhaseStart fn slot s) := by
  unfold execPhaseStart
  repeat' (first
    | with_reducible assumption | exact held_sub hH rfl | exact held_one hH rfl | exact fldOk rfl
    | with_reducible refine State.phaseBegins_kept ?_ ?_ | with_reducible refine ite_kept ?_ ?_
    | with_reducible refine iteO_kept ?_ ?_ | with_reducible refine Kept.next ?_ | with_reducible exact Kept.fault
    | with_reducible intro _ | dsimp only | split)

theorem State.bucketsFull_kept {s : State} {fn : Nat} {slot : Nat} (hH : ∀ x ∈ ([.jobs] : List Portion), H x = false)
    (hk0 : Kept pk wq H z0 s) : Kept pk wq H z0 (State.bucketsFull s fn slot) := by
  unfold State.bucketsFull
  repeat' (first
    | with_reducible assumption | exact held_sub hH rfl | exact held_one hH rfl | exact fldOk rfl
    | with_reducible refine State.modJob_kept ?_ ?_ | with_reducible refine foldl_kept ?_ ?_
    | with_reducible refine iteP_kept ?_ ?_ | with_reducible refine foldlP_kept ?_ ?_
    | with_reducible refine foldlP_kept' (by with_reducible assumption) ?_ ?_
    | simp only [Kept.frame_iff, and_self, true_or, or_true] | with_reducible intro _ | dsimp only | split)

theorem State.phaseEnds_kept {s : State} {fn : Nat} {slot : Nat} {k : Nat} {m : Nat} {v : StepSvc}
    (hH : ∀ x ∈ ([.fns, .jobs, .egress, .lanes, .armed, .block .pipe, .block .jl] : List Portion), H x = false)
    (hk0 : Kept pk wq H z0 s) : Kept pk wq H z0 (State.phaseEnds s fn slot k m v) := by
  unfold State.phaseEnds
  repeat' (first
    | with_reducible assumption | exact held_sub hH rfl | exact held_one hH rfl | exact fldOk rfl
    | with_reducible refine State.modStage_kept ?_ ?_ | with_reducible refine State.shoalClose_kept ?_ ?_
    | with_reducible refine State.shoalRetire_kept ?_ ?_ | with_reducible refine State.phaseNext_kept ?_ ?_
    | with_reducible refine State.stageCounts_kept ?_ ?_ | with_reducible refine State.bucketsFull_kept ?_ ?_
    | with_reducible refine ite_kept ?_ ?_ | simp only [Kept.frame_iff, and_self, true_or, or_true]
    | with_reducible intro _ | dsimp only | split)

theorem execPhaseDone_kept {fn : Nat} {slot : Nat} {s : State}
    (hH : ∀ x ∈ ([.fns, .jobs, .egress, .lanes, .armed, .block .pipe, .block .jl] : List Portion), H x = false)
    (hk0 : Kept pk wq H z0 s) : Kept.Outcome pk wq H z0 (execPhaseDone fn slot s) := by
  unfold execPhaseDone
  repeat' (first
    | with_reducible assumption | exact held_sub hH rfl | exact held_one hH rfl | exact fldOk rfl
    | with_reducible refine State.phaseEnds_kept ?_ ?_ | with_reducible refine ite_kept ?_ ?_
    | with_reducible refine iteO_kept ?_ ?_ | with_reducible refine Kept.next ?_ | with_reducible intro _ | dsimp only
    | split)

theorem execPhaseTimeout_kept {fn : Nat} {slot : Nat} {s : State}
    (hH : ∀ x ∈ ([.islets, .fns, .queues, .jobs, .egress, .gov, .armed, .counts, .block .isl, .block .pipe, .block .jl, .block .red, .block .svc, .block .hbr] : List Portion), H x = false)
    (hk0 : Kept pk wq H z0 s) : Kept.Outcome pk wq H z0 (execPhaseTimeout fn slot s) := by
  unfold execPhaseTimeout
  repeat' (first
    | with_reducible assumption | exact held_sub hH rfl | exact held_one hH rfl | exact fldOk rfl
    | with_reducible refine State.reachCount_kept ?_ ?_ | with_reducible refine State.abortStep_kept ?_ ?_
    | with_reducible refine ite_kept ?_ ?_ | with_reducible refine iteO_kept ?_ ?_
    | with_reducible refine Kept.next ?_ | with_reducible intro _ | dsimp only | split)

theorem execFeedCopyDone_kept {fn : Nat} {slot : Nat} {ans : Answer} {s : State}
    (hH : ∀ x ∈ ([.mem, .islets, .fns, .queues, .jobs, .egress, .gov, .lanes, .mctp, .armed, .block .isl, .block .mem, .block .pipe, .block .reef, .block .jl, .block .red, .block .svc, .block .hbr] : List Portion), H x = false)
    (hk0 : Kept pk wq H z0 s) : Kept.Outcome pk wq H z0 (execFeedCopyDone fn slot ans s) := by
  unfold execFeedCopyDone
  repeat' (first
    | with_reducible assumption | exact held_sub hH rfl | exact held_one hH rfl | exact fldOk rfl
    | with_reducible refine State.prepareWrite_kept ?_ ?_ | with_reducible refine State.devRead_kept ?_ ?_
    | with_reducible refine State.devWrite_kept ?_ ?_ | with_reducible refine State.hostAnswer_kept ?_ ?_
    | with_reducible refine State.modStage_kept ?_ ?_ | with_reducible refine State.modStep_kept ?_ ?_
    | with_reducible refine State.stepStat_kept ?_ ?_ | with_reducible refine State.abortStep_kept ?_ ?_
    | with_reducible refine State.shoalOverflow_kept ?_ ?_ | with_reducible refine ite_kept ?_ ?_
    | with_reducible refine iteO_kept ?_ ?_
    | with_reducible refine State.prepareWrite_kept' (by with_reducible assumption) ?_ ?_
    | with_reducible refine State.devRead_kept' (by with_reducible assumption) ?_ ?_
    | with_reducible refine State.devWrite_kept' (by with_reducible assumption) ?_ ?_
    | with_reducible refine State.hostAnswer_kept' (by with_reducible assumption) ?_ ?_
    | simp only [Kept.frame_iff, and_self, true_or, or_true] | with_reducible refine Kept.next ?_
    | with_reducible exact Kept.fault | with_reducible intro _ | dsimp only | split)

end Sys2Proof.Machine
end

