-- ==== Sys2Proof/Laws/KeptLaunch.lean ====
section
/-! SUPPORT. What the operations of Launch.lean keep. -/

namespace Sys2Proof.Machine
open Sys2Proof

variable {pk : Package} {wq : List Instr} {H : Portion → Bool} {z0 : State}

theorem State.launchIslet_kept {s : State} {lid : Nat} {i : Nat} {l : Launch}
    (hH : ∀ x ∈ ([.islets, .lanes, .block .isl] : List Portion), H x = false) (hk0 : Kept pk wq H z0 s) : Kept pk wq H
    z0 (State.launchIslet s lid i l) := by
  unfold State.launchIslet
  repeat' (first
    | with_reducible assumption | exact held_sub hH rfl | exact held_one hH rfl | exact fldOk rfl
    | with_reducible refine State.sendPacket_kept ?_ ?_ | with_reducible refine State.startIslet_kept ?_ ?_
    | with_reducible refine ite_kept ?_ ?_
    | with_reducible refine State.startIslet_kept' (by with_reducible assumption) ?_ ?_
    | simp only [Kept.frame_iff, and_self, true_or, or_true] | with_reducible intro _ | dsimp only | split)

theorem State.launchStarts_kept {s : State} {lid : Nat} {l : Launch} {data : List Byte}
    (hH : ∀ x ∈ ([.islets, .queues, .lanes, .block .isl] : List Portion), H x = false) (hk0 : Kept pk wq H z0 s) :
    Kept pk wq H z0 (State.launchStarts s lid l data) := by
  unfold State.launchStarts
  repeat' (first
    | with_reducible assumption | exact held_sub hH rfl | exact held_one hH rfl | exact fldOk rfl
    | with_reducible refine State.straitOffer_kept ?_ ?_ | with_reducible refine State.startCommand_kept ?_ ?_
    | with_reducible refine State.spWrite_kept ?_ ?_ | with_reducible refine State.modLaunch_kept ?_
    | with_reducible refine State.launchIslet_kept ?_ ?_ | with_reducible refine foldl_kept ?_ ?_
    | with_reducible refine ite_kept ?_ ?_ | with_reducible refine iteP_kept ?_ ?_
    | with_reducible refine foldlP_kept ?_ ?_
    | with_reducible refine foldlP_kept' (by with_reducible assumption) ?_ ?_
    | simp only [Kept.frame_iff, and_self, true_or, or_true] | with_reducible intro _ | dsimp only | split)

theorem execLaunchParamsRead_kept {lid : Nat} {ans : Answer} {s : State}
    (hH : ∀ x ∈ ([.mem, .islets, .fns, .queues, .egress, .lanes, .mctp, .armed, .block .isl, .block .mem, .block .pipe, .block .reef, .block .jl, .block .svc, .block .hbr] : List Portion), H x = false)
    (hk0 : Kept pk wq H z0 s) : Kept.Outcome pk wq H z0 (execLaunchParamsRead lid ans s) := by
  unfold execLaunchParamsRead
  repeat' (first
    | with_reducible assumption | exact held_sub hH rfl | exact held_one hH rfl | exact fldOk rfl
    | with_reducible refine State.hostAnswer_kept ?_ ?_ | with_reducible refine State.launchEnd_kept ?_ ?_
    | with_reducible refine State.unitRead_kept ?_ ?_ | with_reducible refine State.launchStarts_kept ?_ ?_
    | with_reducible refine ite_kept ?_ ?_ | with_reducible refine iteO_kept ?_ ?_
    | with_reducible refine State.hostAnswer_kept' (by with_reducible assumption) ?_ ?_
    | with_reducible refine State.unitRead_kept' (by with_reducible assumption) ?_ ?_
    | with_reducible refine Kept.next ?_ | with_reducible exact Kept.fault | with_reducible intro _ | dsimp only
    | split)

theorem execIsletStartArrive_kept {lid : Nat} {islet : Nat} {s : State}
    (hH : ∀ x ∈ ([.islets, .lanes, .block .isl] : List Portion), H x = false) (hk0 : Kept pk wq H z0 s) : Kept.Outcome
    pk wq H z0 (execIsletStartArrive lid islet s) := by
  unfold execIsletStartArrive
  repeat' (first
    | with_reducible assumption | exact held_sub hH rfl | exact held_one hH rfl | exact fldOk rfl
    | with_reducible refine State.modLaunch_kept ?_ | with_reducible refine State.launchIslet_kept ?_ ?_
    | with_reducible refine ite_kept ?_ ?_ | with_reducible refine iteO_kept ?_ ?_
    | simp only [Kept.frame_iff, and_self, true_or, or_true] | with_reducible refine Kept.next ?_
    | with_reducible intro _ | dsimp only | split)

theorem execLaunchTimeout_kept {lid : Nat} {s : State}
    (hH : ∀ x ∈ ([.mem, .islets, .fns, .queues, .egress, .gov, .lanes, .mctp, .armed, .counts, .block .isl, .block .mem, .block .reef, .block .jl, .block .svc, .block .hbr] : List Portion), H x = false)
    (hk0 : Kept pk wq H z0 s) : Kept.Outcome pk wq H z0 (execLaunchTimeout lid s) := by
  unfold execLaunchTimeout
  repeat' (first
    | with_reducible assumption | exact held_sub hH rfl | exact held_one hH rfl | exact fldOk rfl
    | with_reducible refine State.reachCount_kept ?_ ?_ | with_reducible refine State.launchStop_kept ?_ ?_
    | with_reducible refine ite_kept ?_ ?_ | with_reducible refine iteO_kept ?_ ?_
    | with_reducible refine Kept.next ?_ | with_reducible intro _ | dsimp only | split)

theorem State.launchHalted_kept {s : State} {lid : Nat} {i : Nat}
    (hH : ∀ x ∈ ([.mem, .fns, .queues, .egress, .lanes, .mctp, .armed, .block .mem, .block .reef, .block .jl, .block .svc, .block .hbr] : List Portion), H x = false)
    (hk0 : Kept pk wq H z0 s) : Kept pk wq H z0 (State.launchHalted s lid i) := by
  unfold State.launchHalted
  repeat' (first
    | with_reducible assumption | exact held_sub hH rfl | exact held_one hH rfl | exact fldOk rfl
    | with_reducible refine State.modLaunch_kept ?_ | with_reducible refine State.launchEnd_kept ?_ ?_
    | with_reducible refine ite_kept ?_ ?_ | simp only [Kept.frame_iff, and_self, true_or, or_true]
    | with_reducible intro _ | dsimp only | split)

theorem State.launchHears_kept {s : State} {lid : Nat} {i : Nat}
    (hH : ∀ x ∈ ([.mem, .fns, .queues, .egress, .lanes, .mctp, .armed, .block .mem, .block .reef, .block .jl, .block .svc, .block .hbr] : List Portion), H x = false)
    (hk0 : Kept pk wq H z0 s) : Kept.Outcome pk wq H z0 (State.launchHears s lid i) := by
  unfold State.launchHears
  repeat' (first
    | with_reducible assumption | exact held_sub hH rfl | exact held_one hH rfl | exact fldOk rfl
    | with_reducible refine State.launchHalted_kept ?_ ?_ | with_reducible refine ite_kept ?_ ?_
    | with_reducible refine iteO_kept ?_ ?_ | with_reducible refine Kept.next ?_ | with_reducible exact Kept.fault
    | with_reducible intro _ | dsimp only | split)

theorem execControlPacketArrive_kept {src : Nat} {dst : Nat} {s : State}
    (hH : ∀ x ∈ ([.mem, .islets, .fns, .queues, .egress, .lanes, .mctp, .armed, .block .isl, .block .mem, .block .reef, .block .jl, .block .svc, .block .hbr] : List Portion), H x = false)
    (hk0 : Kept pk wq H z0 s) : Kept.Outcome pk wq H z0 (execControlPacketArrive src dst s) := by
  unfold execControlPacketArrive
  repeat' (first
    | with_reducible assumption | exact held_sub hH rfl | exact held_one hH rfl | exact fldOk rfl
    | with_reducible refine State.modIslet_kept ?_ ?_ | with_reducible refine State.setFlags_kept ?_ ?_
    | with_reducible refine State.modStage_kept ?_ ?_ | with_reducible refine State.phaseHeard_kept ?_ ?_
    | with_reducible refine State.phaseArrives_kept ?_ ?_ | with_reducible refine State.launchHears_kept ?_ ?_
    | with_reducible refine ite_kept ?_ ?_ | with_reducible refine iteO_kept ?_ ?_
    | with_reducible refine Kept.out (State.launchHears_kept ?_ ?_) (by with_reducible assumption)
    | simp only [Kept.frame_iff, and_self, true_or, or_true] | with_reducible refine Kept.next ?_
    | with_reducible intro _ | dsimp only | split)

theorem State.isletResets_kept {s : State} {i : Nat}
    (hH : ∀ x ∈ ([.mem, .islets, .fns, .optim, .queues, .jobs, .egress, .gov, .lanes, .mctp, .armed, .block .isl, .block .mem, .block .pipe, .block .reef, .block .jl, .block .red, .block .opt, .block .svc, .block .hbr] : List Portion), H x = false)
    (hk0 : Kept pk wq H z0 s) : Kept pk wq H z0 (State.isletResets s i) := by
  unfold State.isletResets
  repeat' (first
    | with_reducible assumption | exact held_sub hH rfl | exact held_one hH rfl | exact fldOk rfl
    | with_reducible refine State.setFld_kept ?_ ?_ ?_ | with_reducible refine State.stopIslet_kept ?_ ?_
    | with_reducible refine State.taskEnd_kept ?_ ?_ | with_reducible intro _ | dsimp only | split)

theorem State.writeIslCtl_kept {s : State} {fn : Nat} {i : Nat} {w : Word}
    (hH : ∀ x ∈ ([.mem, .islets, .fns, .optim, .queues, .jobs, .egress, .gov, .lanes, .mctp, .armed, .block .isl, .block .mem, .block .pipe, .block .reef, .block .jl, .block .red, .block .opt, .block .svc, .block .hbr] : List Portion), H x = false)
    (hk0 : Kept pk wq H z0 s) : Kept pk wq H z0 (State.writeIslCtl s fn i w) := by
  unfold State.writeIslCtl
  repeat' (first
    | with_reducible assumption | exact held_sub hH rfl | exact held_one hH rfl | exact fldOk rfl
    | with_reducible refine State.stopIslet_kept ?_ ?_ | with_reducible refine State.taskEnd_kept ?_ ?_
    | with_reducible refine State.isletResets_kept ?_ ?_ | with_reducible refine ite_kept ?_ ?_
    | with_reducible intro _ | dsimp only | split)

theorem execIslStop_kept {fn : Nat} {islet : Nat} {w : Word} {s : State}
    (hH : ∀ x ∈ ([.mem, .islets, .fns, .optim, .queues, .jobs, .egress, .gov, .lanes, .mctp, .armed, .block .isl, .block .mem, .block .pipe, .block .reef, .block .jl, .block .red, .block .opt, .block .svc, .block .hbr] : List Portion), H x = false)
    (hk0 : Kept pk wq H z0 s) : Kept.Outcome pk wq H z0 (execIslStop fn islet w s) := by
  unfold execIslStop
  repeat' (first
    | with_reducible assumption | exact held_sub hH rfl | exact held_one hH rfl | exact fldOk rfl
    | with_reducible refine State.writeIslCtl_kept ?_ ?_ | with_reducible refine iteO_kept ?_ ?_
    | with_reducible refine Kept.next ?_ | with_reducible intro _ | dsimp only | split)

theorem execIsletReset_kept {fn : Nat} {islet : Nat} {w : Word} {s : State}
    (hH : ∀ x ∈ ([.mem, .islets, .fns, .optim, .queues, .jobs, .egress, .gov, .lanes, .mctp, .armed, .block .isl, .block .mem, .block .pipe, .block .reef, .block .jl, .block .red, .block .opt, .block .svc, .block .hbr] : List Portion), H x = false)
    (hk0 : Kept pk wq H z0 s) : Kept.Outcome pk wq H z0 (execIsletReset fn islet w s) := by
  unfold execIsletReset
  repeat' (first
    | with_reducible assumption | exact held_sub hH rfl | exact held_one hH rfl | exact fldOk rfl
    | with_reducible refine State.writeIslCtl_kept ?_ ?_ | with_reducible refine iteO_kept ?_ ?_
    | with_reducible refine Kept.next ?_ | with_reducible intro _ | dsimp only | split)

theorem State.isletErr_kept {s : State} {islet : Nat} {cause : Nat} {place : Nat} {index : Nat} {syn : Nat}
    (hH : ∀ x ∈ ([.block .isl] : List Portion), H x = false) (hk0 : Kept pk wq H z0 s) : Kept pk wq H z0
    (State.isletErr s islet cause place index syn) := by
  unfold State.isletErr
  repeat' (first
    | with_reducible assumption | exact held_sub hH rfl | exact held_one hH rfl | exact fldOk rfl
    | with_reducible refine State.setFld_kept ?_ ?_ ?_ | with_reducible refine State.satFld_kept ?_ ?_ ?_
    | with_reducible intro _ | dsimp only | split)

theorem execIsletFault_kept {islet : Nat} {cause : Nat} {place : Nat} {index : Nat} {s : State}
    (hH : ∀ x ∈ ([.mem, .islets, .fns, .optim, .queues, .jobs, .egress, .gov, .lanes, .mctp, .armed, .block .isl, .block .mem, .block .pipe, .block .reef, .block .jl, .block .red, .block .opt, .block .svc, .block .hbr] : List Portion), H x = false)
    (hk0 : Kept pk wq H z0 s) : Kept.Outcome pk wq H z0 (execIsletFault islet cause place index s) := by
  unfold execIsletFault
  repeat' (first
    | with_reducible assumption | exact held_sub hH rfl | exact held_one hH rfl | exact fldOk rfl
    | with_reducible refine State.drawn_kept ?_ | with_reducible refine State.straitOffer_kept ?_ ?_
    | with_reducible refine State.journal_kept ?_ ?_ | with_reducible refine State.isletFaults_kept ?_ ?_
    | with_reducible refine State.isletErr_kept ?_ ?_ | with_reducible refine ite_kept ?_ ?_
    | with_reducible refine iteO_kept ?_ ?_ | with_reducible refine Kept.next ?_ | with_reducible intro _ | dsimp only
    | split)

end Sys2Proof.Machine
end

