-- ==== Sys2Proof/Laws/KeptCopy.lean ====
section
/-! SUPPORT. What the operations of Copy.lean keep. -/

namespace Sys2Proof.Machine
open Sys2Proof

variable {pk : Package} {wq : List Instr} {H : Portion → Bool} {z0 : State}

theorem State.modCopy_kept {s : State} {i : Nat} {e : Nat} {g : CopyRun → CopyRun}
    (hH : ∀ x ∈ ([.islets] : List Portion), H x = false) (hk0 : Kept pk wq H z0 s) : Kept pk wq H z0
    (State.modCopy s i e g) := by
  unfold State.modCopy
  repeat' (first
    | with_reducible assumption | exact held_sub hH rfl | exact held_one hH rfl | exact fldOk rfl
    | with_reducible refine State.modIslet_kept ?_ ?_ | with_reducible refine mapFst_kept ?_
    | simp only [Kept.frame_iff, and_self, true_or, or_true] | with_reducible intro _ | dsimp only | split)

theorem State.planRuns_kept {s : State} {i : Nat} {e : Nat} {n : Nat} {flag : Nat} {k : Nat}
    (hH : ∀ x ∈ ([.islets, .block .isl] : List Portion), H x = false) (hk0 : Kept pk wq H z0 s) : Kept pk wq H z0
    (State.planRuns s i e n flag k) := by
  unfold State.planRuns
  repeat' (first
    | with_reducible assumption | exact held_sub hH rfl | exact held_one hH rfl | exact fldOk rfl
    | with_reducible refine State.modIslet_kept ?_ ?_ | with_reducible refine State.copyStat_kept ?_ ?_
    | simp only [Kept.frame_iff, and_self, true_or, or_true] | with_reducible intro _ | dsimp only | split)

theorem State.planStart_kept {s : State} {i : Nat} {e : Nat} {n : Nat} {flag : Nat}
    (hH : ∀ x ∈ ([.islets, .block .isl] : List Portion), H x = false) (hk0 : Kept pk wq H z0 s) : Kept.Outcome pk wq H
    z0 (State.planStart s i e n flag) := by
  unfold State.planStart
  repeat' (first
    | with_reducible assumption | exact held_sub hH rfl | exact held_one hH rfl | exact fldOk rfl
    | with_reducible refine State.planRuns_kept ?_ ?_ | with_reducible refine ite_kept ?_ ?_
    | with_reducible refine iteO_kept ?_ ?_ | with_reducible refine Kept.next ?_ | with_reducible exact Kept.fault
    | with_reducible intro _ | dsimp only | split)

theorem execCopyPlanStart_kept {islet : Nat} {eng : Nat} {corrected : Nat} {s : State}
    (hH : ∀ x ∈ ([.islets, .block .isl] : List Portion), H x = false) (hk0 : Kept pk wq H z0 s) : Kept.Outcome pk wq H
    z0 (execCopyPlanStart islet eng corrected s) := by
  unfold execCopyPlanStart
  repeat' (first
    | with_reducible assumption | exact held_sub hH rfl | exact held_one hH rfl | exact fldOk rfl
    | with_reducible refine State.modIslet_kept ?_ ?_ | with_reducible refine State.spCorrected_kept ?_ ?_
    | with_reducible refine State.planStart_kept ?_ ?_ | with_reducible refine ite_kept ?_ ?_
    | with_reducible refine iteO_kept ?_ ?_
    | with_reducible refine Kept.out (State.planStart_kept ?_ ?_) (by with_reducible assumption)
    | simp only [Kept.frame_iff, and_self, true_or, or_true] | with_reducible refine Kept.next ?_
    | with_reducible intro _ | dsimp only | split)

theorem State.planFails_kept {s : State} {i : Nat} {e : Nat} {st : Status}
    (hH : ∀ x ∈ ([.mem, .islets, .fns, .optim, .queues, .jobs, .egress, .gov, .lanes, .mctp, .armed, .block .isl, .block .mem, .block .pipe, .block .reef, .block .jl, .block .red, .block .opt, .block .svc, .block .hbr] : List Portion), H x = false)
    (hk0 : Kept pk wq H z0 s) : Kept pk wq H z0 (State.planFails s i e st) := by
  unfold State.planFails
  repeat' (first
    | with_reducible assumption | exact held_sub hH rfl | exact held_one hH rfl | exact fldOk rfl
    | with_reducible refine State.setFld_kept ?_ ?_ ?_ | with_reducible refine State.isletFaults_kept ?_ ?_
    | with_reducible intro _ | dsimp only | split)

theorem State.planWord_kept {s : State} {i : Nat} {e : Nat} {k : Nat} {p : Plan} {base : Nat} {data : List Byte}
    {losses : Nat} (hH : ∀ x ∈ ([.islets, .block .isl] : List Portion), H x = false) (hk0 : Kept pk wq H z0 s) : Kept
    pk wq H z0 (State.planWord s i e k p base data losses) := by
  unfold State.planWord
  repeat' (first
    | with_reducible assumption | exact held_sub hH rfl | exact held_one hH rfl | exact fldOk rfl
    | with_reducible refine State.portBWrite_kept ?_ ?_ | with_reducible refine State.modCopy_kept ?_ ?_
    | with_reducible refine ite_kept ?_ ?_ | simp only [Kept.frame_iff, and_self, true_or, or_true]
    | with_reducible intro _ | dsimp only | split)

theorem execCopyReadReturn_kept {islet : Nat} {eng : Nat} {k : Nat} {upset : Nat} {losses : Nat} {s : State}
    (hH : ∀ x ∈ ([.mem, .islets, .fns, .optim, .queues, .jobs, .egress, .gov, .lanes, .mctp, .armed, .block .isl, .block .mem, .block .pipe, .block .reef, .block .jl, .block .red, .block .opt, .block .svc, .block .hbr] : List Portion), H x = false)
    (hk0 : Kept pk wq H z0 s) : Kept.Outcome pk wq H z0 (execCopyReadReturn islet eng k upset losses s) := by
  unfold execCopyReadReturn
  repeat' (first
    | with_reducible assumption | exact held_sub hH rfl | exact held_one hH rfl | exact fldOk rfl
    | with_reducible refine State.addUpset_kept ?_ | with_reducible refine State.unitRead_kept ?_ ?_
    | with_reducible refine State.unitReady_kept ?_ ?_ | with_reducible refine State.planFails_kept ?_ ?_
    | with_reducible refine State.planWord_kept ?_ ?_ | with_reducible refine ite_kept ?_ ?_
    | with_reducible refine iteO_kept ?_ ?_
    | with_reducible refine State.unitRead_kept' (by with_reducible assumption) ?_ ?_
    | with_reducible refine State.unitReady_kept' (by with_reducible assumption) ?_ ?_
    | with_reducible refine Kept.next ?_ | with_reducible intro _ | dsimp only | split)

theorem State.planWrites_kept {s : State} {i : Nat} {e : Nat} {p : Plan} {next : Nat}
    (hH : ∀ x ∈ ([.mem, .islets, .fns, .queues, .jobs, .reefs, .egress, .gov, .lanes, .mctp, .armed, .block .isl, .block .mem, .block .pipe, .block .reef, .block .jl, .block .red, .block .svc, .block .hbr] : List Portion), H x = false)
    (hk0 : Kept pk wq H z0 s) : Kept pk wq H z0 (State.planWrites s i e p next).1 := by
  unfold State.planWrites
  repeat' (first
    | with_reducible assumption | exact held_sub hH rfl | exact held_one hH rfl | exact fldOk rfl
    | with_reducible refine State.unitWrite_kept ?_ ?_ | with_reducible refine State.unitReady_kept ?_ ?_
    | with_reducible refine State.modCopy_kept ?_ ?_ | with_reducible refine foldl_kept ?_ ?_
    | with_reducible refine ite_kept ?_ ?_ | with_reducible refine iteP_kept ?_ ?_
    | with_reducible refine foldlP_kept ?_ ?_
    | with_reducible refine State.unitWrite_kept' (by with_reducible assumption) ?_ ?_
    | with_reducible refine State.unitReady_kept' (by with_reducible assumption) ?_ ?_
    | with_reducible refine foldlP_kept' (by with_reducible assumption) ?_ ?_
    | simp only [Kept.frame_iff, and_self, true_or, or_true] | with_reducible intro _ | dsimp only | split)
theorem State.planWrites_kept' {s : State} {i : Nat} {e : Nat} {p : Plan} {next : Nat} {t z}
    (e1 : State.planWrites s i e p next = (t, z))
    (hH : ∀ x ∈ ([.mem, .islets, .fns, .queues, .jobs, .reefs, .egress, .gov, .lanes, .mctp, .armed, .block .isl, .block .mem, .block .pipe, .block .reef, .block .jl, .block .red, .block .svc, .block .hbr] : List Portion), H x = false)
    (hk0 : Kept pk wq H z0 s) : Kept pk wq H z0 t := by
  have k : Kept pk wq H z0 (State.planWrites s i e p next).1 := State.planWrites_kept hH hk0
  rw [e1] at k; exact k

theorem State.planDone_kept {s : State} {islet : Nat} {eng : Nat} {r : CopyRun}
    (hH : ∀ x ∈ ([.block .isl] : List Portion), H x = false) (hk0 : Kept pk wq H z0 s) : Kept pk wq H z0
    (State.planDone s islet eng r) := by
  unfold State.planDone
  repeat' (first
    | with_reducible assumption | exact held_sub hH rfl | exact held_one hH rfl | exact fldOk rfl
    | with_reducible refine State.setFld_kept ?_ ?_ ?_ | with_reducible refine State.addFld_kept ?_ ?_ ?_
    | with_reducible refine State.modLaunch_kept ?_ | simp only [Kept.frame_iff, and_self, true_or, or_true]
    | with_reducible intro _ | dsimp only | split)

theorem State.planLast_kept {s : State} {islet : Nat} {eng : Nat} {flag : Nat}
    (hH : ∀ x ∈ ([.islets, .lanes, .block .isl] : List Portion), H x = false) (hk0 : Kept pk wq H z0 s) : Kept pk wq H
    z0 (State.planLast s islet eng flag) := by
  unfold State.planLast
  repeat' (first
    | with_reducible assumption | exact held_sub hH rfl | exact held_one hH rfl | exact fldOk rfl
    | with_reducible refine State.modIslet_kept ?_ ?_ | with_reducible refine State.setFlags_kept ?_ ?_
    | with_reducible refine State.copyStat_kept ?_ ?_ | with_reducible refine State.copyIdles_kept ?_ ?_
    | simp only [Kept.frame_iff, and_self, true_or, or_true] | with_reducible intro _ | dsimp only | split)

theorem execCopyPlanComplete_kept {islet : Nat} {ends : Corrected} {s : State}
    (hH : ∀ x ∈ ([.mem, .islets, .fns, .optim, .queues, .jobs, .reefs, .egress, .gov, .lanes, .mctp, .armed, .block .isl, .block .mem, .block .pipe, .block .reef, .block .jl, .block .red, .block .opt, .block .svc, .block .hbr] : List Portion), H x = false)
    (hk0 : Kept pk wq H z0 s) : Kept.Outcome pk wq H z0 (execCopyPlanComplete islet ends s) := by
  unfold execCopyPlanComplete
  repeat' (first
    | with_reducible assumption | exact held_sub hH rfl | exact held_one hH rfl | exact fldOk rfl
    | with_reducible refine State.spCorrected_kept ?_ ?_ | with_reducible refine State.planStart_kept ?_ ?_
    | with_reducible refine State.planFails_kept ?_ ?_ | with_reducible refine State.planWrites_kept ?_ ?_
    | with_reducible refine State.planDone_kept ?_ ?_ | with_reducible refine State.planLast_kept ?_ ?_
    | with_reducible refine ite_kept ?_ ?_ | with_reducible refine iteO_kept ?_ ?_
    | with_reducible refine Kept.out (State.planStart_kept ?_ ?_) (by with_reducible assumption)
    | with_reducible refine State.planWrites_kept' (by with_reducible assumption) ?_ ?_
    | with_reducible refine Kept.next ?_ | with_reducible exact Kept.fault | with_reducible intro _ | dsimp only
    | split)

end Sys2Proof.Machine
end

