-- ==== Sys2Proof/Laws/KeptGates.lean ====
section
/-! SUPPORT. What the operations of Gates.lean keep. -/

namespace Sys2Proof.Machine
open Sys2Proof

variable {pk : Package} {wq : List Instr} {H : Portion → Bool} {z0 : State}

theorem State.toGates_kept {s : State} {kind : ActionKind} {src : Nat} {dies : List Nat}
    (hH : ∀ x ∈ ([.lanes] : List Portion), H x = false) (hk0 : Kept pk wq H z0 s) : Kept pk wq H z0
    (State.toGates s kind src dies) := by
  unfold State.toGates
  repeat' (first
    | with_reducible assumption | exact held_sub hH rfl | exact held_one hH rfl | exact fldOk rfl
    | with_reducible refine State.straitOffer_kept ?_ ?_ | with_reducible refine foldl_kept ?_ ?_
    | with_reducible refine iteP_kept ?_ ?_ | with_reducible refine foldlP_kept ?_ ?_
    | with_reducible refine foldlP_kept' (by with_reducible assumption) ?_ ?_ | with_reducible intro _ | dsimp only
    | split)

theorem State.issueAction_kept {s : State} {kind : ActionKind} {src : Nat} {epoch : Nat} {dies : List Nat}
    (hH : ∀ x ∈ ([.actions, .lanes] : List Portion), H x = false) (hk0 : Kept pk wq H z0 s) : Kept pk wq H z0
    (State.issueAction s kind src epoch dies).1 := by
  have hActions : H .actions = false := held_one hH rfl
  unfold State.issueAction
  repeat' (first
    | with_reducible assumption | exact held_sub hH rfl | exact held_one hH rfl | exact fldOk rfl
    | with_reducible refine State.toGates_kept ?_ ?_ | with_reducible refine iteP_kept ?_ ?_
    | simp only [Kept.frame_iff, hActions, and_self, true_or, or_true] | with_reducible intro _ | dsimp only | split)
theorem State.issueAction_kept' {s : State} {kind : ActionKind} {src : Nat} {epoch : Nat} {dies : List Nat} {t z}
    (e : State.issueAction s kind src epoch dies = (t, z))
    (hH : ∀ x ∈ ([.actions, .lanes] : List Portion), H x = false) (hk0 : Kept pk wq H z0 s) : Kept pk wq H z0 t := by
  have k : Kept pk wq H z0 (State.issueAction s kind src epoch dies).1 := State.issueAction_kept hH hk0
  rw [e] at k; exact k

theorem State.modAction_kept {s : State} {a : Nat} {f : Action → Action}
    (hH : ∀ x ∈ ([.actions] : List Portion), H x = false) (hk0 : Kept pk wq H z0 s) : Kept pk wq H z0
    (State.modAction s a f) := by
  have hActions : H .actions = false := held_one hH rfl
  unfold State.modAction
  repeat' (first
    | with_reducible assumption | with_reducible refine mapFst_kept ?_ | with_reducible refine ite_kept ?_ ?_
    | simp only [Kept.frame_iff, hActions, and_self, true_or, or_true] | with_reducible intro _ | dsimp only | split)

theorem State.dropAction_kept {s : State} {a : Nat} (hH : ∀ x ∈ ([.actions] : List Portion), H x = false)
    (hk0 : Kept pk wq H z0 s) : Kept pk wq H z0 (State.dropAction s a) := by
  have hActions : H .actions = false := held_one hH rfl
  unfold State.dropAction
  repeat' (first
    | with_reducible assumption | simp only [Kept.frame_iff, hActions, and_self, true_or, or_true]
    | with_reducible intro _ | dsimp only | split)

theorem State.rotationEnds_kept {s : State} {f : Nat} (hH : ∀ x ∈ ([.actions] : List Portion), H x = false)
    (hk0 : Kept pk wq H z0 s) : Kept pk wq H z0 (State.rotationEnds s f) := by
  unfold State.rotationEnds
  repeat' (first
    | with_reducible assumption | exact held_sub hH rfl | exact held_one hH rfl | exact fldOk rfl
    | with_reducible refine State.dropAction_kept ?_ ?_ | with_reducible refine foldl_kept ?_ ?_
    | with_reducible refine mapFst_kept ?_ | with_reducible refine iteP_kept ?_ ?_
    | with_reducible refine foldlP_kept ?_ ?_
    | with_reducible refine foldlP_kept' (by with_reducible assumption) ?_ ?_
    | simp only [Kept.frame_iff, and_self, true_or, or_true] | with_reducible intro _ | dsimp only | split)

end Sys2Proof.Machine
end

