-- ==== Sys2Proof/Laws/KeptReefOps.lean ====
section
/-! SUPPORT. What the operations of ReefOps.lean keep. -/

namespace Sys2Proof.Machine
open Sys2Proof

variable {pk : Package} {wq : List Instr} {H : Portion → Bool} {z0 : State}

theorem State.reefStore_kept {s : State} {fn : Nat} {r : List Byte} {record : List Byte}
    (hH : ∀ x ∈ ([.mem, .islets, .fns, .queues, .jobs, .reefs, .egress, .gov, .lanes, .mctp, .armed, .block .img, .block .isl, .block .mem, .block .pipe, .block .reef, .block .jl, .block .red, .block .svc, .block .hbr] : List Portion), H x = false)
    (hk0 : Kept pk wq H z0 s) : Kept pk wq H z0 (State.reefStore s fn r record) := by
  unfold State.reefStore
  repeat' (first
    | with_reducible assumption | exact held_sub hH rfl | exact held_one hH rfl | exact fldOk rfl
    | with_reducible refine State.takeAccess_kept ?_ ?_ | with_reducible refine State.unitWrite_kept ?_ ?_
    | with_reducible refine ite_kept ?_ ?_
    | with_reducible refine State.unitWrite_kept' (by with_reducible assumption) ?_ ?_
    | simp only [Kept.frame_iff, and_self, true_or, or_true] | with_reducible intro _ | dsimp only | split)

theorem State.notifyWithHeld_kept {s : State} {n : Nat × Nat × Nat} (hk0 : Kept pk wq H z0 s) : Kept pk wq H z0
    (State.notifyWithHeld s n) := by
  unfold State.notifyWithHeld
  repeat' (first
    | with_reducible assumption | with_reducible refine mapFst_kept ?_ | with_reducible refine ite_kept ?_ ?_
    | simp only [Kept.frame_iff, and_self, true_or, or_true] | with_reducible intro _ | dsimp only | split)

theorem State.reefEnd_kept {s : State} {fn : Nat} {st : Nat} {r : List Byte} {record : List Byte} {bad : Bool}
    (hH : ∀ x ∈ ([.mem, .islets, .fns, .queues, .jobs, .reefs, .egress, .gov, .lanes, .mctp, .armed, .block .img, .block .isl, .block .mem, .block .pipe, .block .reef, .block .jl, .block .red, .block .svc, .block .hbr] : List Portion), H x = false)
    (hk0 : Kept pk wq H z0 s) : Kept pk wq H z0 (State.reefEnd s fn st r record bad) := by
  unfold State.reefEnd
  repeat' (first
    | with_reducible assumption | exact held_sub hH rfl | exact held_one hH rfl | exact fldOk rfl
    | with_reducible refine State.reefNotify_kept ?_ ?_ | with_reducible refine State.reefReport_kept ?_ ?_
    | with_reducible refine State.reefStore_kept ?_ ?_ | with_reducible refine State.notifyWithHeld_kept ?_
    | with_reducible refine ite_kept ?_ ?_ | with_reducible intro _ | dsimp only | split)

theorem State.reefRefuse_kept {s : State} {fn : Nat} {st : Nat} {r : List Byte} {status : Status}
    (hH : ∀ x ∈ ([.mem, .islets, .fns, .queues, .jobs, .reefs, .egress, .gov, .lanes, .mctp, .armed, .block .img, .block .isl, .block .mem, .block .pipe, .block .reef, .block .jl, .block .red, .block .svc, .block .hbr] : List Portion), H x = false)
    (hk0 : Kept pk wq H z0 s) : Kept pk wq H z0 (State.reefRefuse s fn st r status) := by
  unfold State.reefRefuse
  repeat' (first
    | with_reducible assumption | exact held_sub hH rfl | exact held_one hH rfl | exact fldOk rfl
    | with_reducible refine State.reefEnd_kept ?_ ?_ | with_reducible intro _ | dsimp only | split)

theorem execReefWindowWrite_kept {fn : Nat} {addr : Nat} {data : List Byte} {s : State}
    (hH : ∀ x ∈ ([.reefs, .egress, .lanes, .armed, .block .img, .block .mem, .block .reef, .block .jl] : List Portion), H x = false)
    (hk0 : Kept pk wq H z0 s) : Kept.Outcome pk wq H z0 (execReefWindowWrite fn addr data s) := by
  unfold execReefWindowWrite
  repeat' (first
    | with_reducible assumption | exact held_sub hH rfl | exact held_one hH rfl | exact fldOk rfl
    | with_reducible refine State.unserved_kept ?_ | with_reducible refine State.accessEnds_kept ?_ ?_
    | with_reducible refine State.issueWrite_kept ?_ ?_ | with_reducible refine ite_kept ?_ ?_
    | with_reducible refine iteO_kept ?_ ?_
    | with_reducible refine State.issueWrite_kept' (by with_reducible assumption) ?_ ?_
    | simp only [Kept.frame_iff, and_self, true_or, or_true] | with_reducible refine Kept.next ?_
    | with_reducible intro _ | dsimp only | split)

theorem State.reefCancelQueue_kept {s : State} {st : Nat}
    (hH : ∀ x ∈ ([.mem, .islets, .fns, .queues, .jobs, .reefs, .egress, .gov, .lanes, .mctp, .armed, .block .img, .block .isl, .block .mem, .block .pipe, .block .reef, .block .jl, .block .red, .block .svc, .block .hbr] : List Portion), H x = false)
    (hk0 : Kept pk wq H z0 s) : Kept pk wq H z0 (State.reefCancelQueue s st) := by
  unfold State.reefCancelQueue
  repeat' (first
    | with_reducible assumption | exact held_sub hH rfl | exact held_one hH rfl | exact fldOk rfl
    | with_reducible refine State.modReef_kept ?_ ?_ | with_reducible refine State.retryIssues_kept ?_ ?_
    | with_reducible refine State.reefRefuse_kept ?_ ?_ | with_reducible refine foldl_kept ?_ ?_
    | with_reducible refine iteP_kept ?_ ?_ | with_reducible refine foldlP_kept ?_ ?_
    | with_reducible refine foldlP_kept' (by with_reducible assumption) ?_ ?_
    | simp only [Kept.frame_iff, and_self, true_or, or_true] | with_reducible intro _ | dsimp only | split)

theorem State.writeReefIssue_kept {s : State} {fn : Nat} {st : Nat} {w : Word}
    (hH : ∀ x ∈ ([.mem, .islets, .fns, .queues, .jobs, .reefs, .egress, .gov, .lanes, .mctp, .armed, .block .img, .block .isl, .block .mem, .block .pipe, .block .reef, .block .jl, .block .red, .block .svc, .block .hbr] : List Portion), H x = false)
    (hk0 : Kept pk wq H z0 s) : Kept pk wq H z0 (State.writeReefIssue s fn st w) := by
  unfold State.writeReefIssue
  repeat' (first
    | with_reducible assumption | exact held_sub hH rfl | exact held_one hH rfl | exact fldOk rfl
    | with_reducible refine State.fnEvent_kept ?_ ?_ ?_ ?_ | with_reducible refine State.reefPush_kept ?_ ?_
    | with_reducible refine State.reefCancelQueue_kept ?_ ?_ | with_reducible refine ite_kept ?_ ?_
    | with_reducible intro _ | dsimp only | split)

theorem State.reefIssue_kept {s : State} {fn : Nat} {st : Nat} {w : Word}
    (hH : ∀ x ∈ ([.mem, .islets, .fns, .queues, .jobs, .reefs, .egress, .gov, .lanes, .mctp, .armed, .block .img, .block .isl, .block .mem, .block .pipe, .block .reef, .block .jl, .block .red, .block .svc, .block .hbr] : List Portion), H x = false)
    (hk0 : Kept pk wq H z0 s) : Kept.Outcome pk wq H z0 (State.reefIssue s fn st w) := by
  unfold State.reefIssue
  repeat' (first
    | with_reducible assumption | exact held_sub hH rfl | exact held_one hH rfl | exact fldOk rfl
    | with_reducible refine State.unserved_kept ?_ | with_reducible refine State.writeReefIssue_kept ?_ ?_
    | with_reducible refine ite_kept ?_ ?_ | with_reducible refine iteO_kept ?_ ?_
    | with_reducible refine Kept.next ?_ | with_reducible exact Kept.fault | with_reducible intro _ | dsimp only
    | split)

theorem execReefGo_kept {fn : Nat} {stack : Nat} {w : Word} {s : State}
    (hH : ∀ x ∈ ([.mem, .islets, .fns, .queues, .jobs, .reefs, .egress, .gov, .lanes, .mctp, .armed, .block .img, .block .isl, .block .mem, .block .pipe, .block .reef, .block .jl, .block .red, .block .svc, .block .hbr] : List Portion), H x = false)
    (hk0 : Kept pk wq H z0 s) : Kept.Outcome pk wq H z0 (execReefGo fn stack w s) := by
  unfold execReefGo
  repeat' (first
    | with_reducible assumption | exact held_sub hH rfl | exact held_one hH rfl | exact fldOk rfl
    | with_reducible refine State.reefIssue_kept ?_ ?_ | with_reducible refine iteO_kept ?_ ?_
    | with_reducible refine Kept.out (State.reefIssue_kept ?_ ?_) (by with_reducible assumption)
    | with_reducible refine Kept.next ?_ | with_reducible intro _ | dsimp only | split)

theorem execReefCancel_kept {fn : Nat} {stack : Nat} {w : Word} {s : State}
    (hH : ∀ x ∈ ([.mem, .islets, .fns, .queues, .jobs, .reefs, .egress, .gov, .lanes, .mctp, .armed, .block .img, .block .isl, .block .mem, .block .pipe, .block .reef, .block .jl, .block .red, .block .svc, .block .hbr] : List Portion), H x = false)
    (hk0 : Kept pk wq H z0 s) : Kept.Outcome pk wq H z0 (execReefCancel fn stack w s) := by
  unfold execReefCancel
  repeat' (first
    | with_reducible assumption | exact held_sub hH rfl | exact held_one hH rfl | exact fldOk rfl
    | with_reducible refine State.reefIssue_kept ?_ ?_ | with_reducible refine iteO_kept ?_ ?_
    | with_reducible refine Kept.out (State.reefIssue_kept ?_ ?_) (by with_reducible assumption)
    | with_reducible refine Kept.next ?_ | with_reducible intro _ | dsimp only | split)

theorem execReefAdmit_kept {stack : Nat} {s : State}
    (hH : ∀ x ∈ ([.mem, .islets, .fns, .queues, .jobs, .reefs, .egress, .gov, .lanes, .mctp, .armed, .block .img, .block .isl, .block .mem, .block .pipe, .block .reef, .block .jl, .block .red, .block .svc, .block .hbr] : List Portion), H x = false)
    (hk0 : Kept pk wq H z0 s) : Kept.Outcome pk wq H z0 (execReefAdmit stack s) := by
  unfold execReefAdmit
  repeat' (first
    | with_reducible assumption | exact held_sub hH rfl | exact held_one hH rfl | exact fldOk rfl
    | with_reducible refine State.unserved_kept ?_ | with_reducible refine State.satFld_kept ?_ ?_ ?_
    | with_reducible refine State.modReef_kept ?_ ?_ | with_reducible refine State.retryIssues_kept ?_ ?_
    | with_reducible refine State.reefRefuse_kept ?_ ?_ | with_reducible refine id_kept ?_
    | with_reducible refine ite_kept ?_ ?_ | with_reducible refine iteO_kept ?_ ?_
    | simp only [Kept.frame_iff, and_self, true_or, or_true] | with_reducible refine Kept.next ?_
    | with_reducible exact Kept.fault | with_reducible intro _ | dsimp only | split)

theorem State.reefStarts_kept {s : State} {stack : Nat} {k : Nat} {o : ReefOp}
    (hH : ∀ x ∈ ([.reefs, .block .reef] : List Portion), H x = false) (hk0 : Kept pk wq H z0 s) : Kept pk wq H z0
    (State.reefStarts s stack k o) := by
  unfold State.reefStarts
  repeat' (first
    | with_reducible assumption | exact held_sub hH rfl | exact held_one hH rfl | exact fldOk rfl
    | with_reducible refine State.setFld_kept ?_ ?_ ?_ | with_reducible refine State.addFld_kept ?_ ?_ ?_
    | with_reducible refine State.modReef_kept ?_ ?_ | with_reducible refine foldl_kept ?_ ?_
    | with_reducible refine mapFst_kept ?_ | with_reducible refine id_kept ?_ | with_reducible refine ite_kept ?_ ?_
    | with_reducible refine iteP_kept ?_ ?_ | with_reducible refine foldlP_kept ?_ ?_
    | with_reducible refine foldlP_kept' (by with_reducible assumption) ?_ ?_
    | simp only [Kept.frame_iff, and_self, true_or, or_true] | with_reducible intro _ | dsimp only | split)

theorem execReefOpStart_kept {stack : Nat} {k : Nat} {s : State}
    (hH : ∀ x ∈ ([.mem, .islets, .fns, .queues, .jobs, .reefs, .egress, .gov, .lanes, .mctp, .armed, .block .img, .block .isl, .block .mem, .block .pipe, .block .reef, .block .jl, .block .red, .block .svc, .block .hbr] : List Portion), H x = false)
    (hk0 : Kept pk wq H z0 s) : Kept.Outcome pk wq H z0 (execReefOpStart stack k s) := by
  unfold execReefOpStart
  repeat' (first
    | with_reducible assumption | exact held_sub hH rfl | exact held_one hH rfl | exact fldOk rfl
    | with_reducible refine State.unserved_kept ?_ | with_reducible refine State.reefRelease_kept ?_ ?_
    | with_reducible refine State.reefRefuse_kept ?_ ?_ | with_reducible refine State.reefStarts_kept ?_ ?_
    | with_reducible refine id_kept ?_ | with_reducible refine ite_kept ?_ ?_ | with_reducible refine iteO_kept ?_ ?_
    | with_reducible refine Kept.next ?_ | with_reducible intro _ | dsimp only | split)

theorem State.reefDecode_kept {s : State} {st : Nat} {o : ReefOp}
    (hH : ∀ x ∈ ([.mem, .egress, .lanes, .mctp, .armed, .block .mem, .block .reef, .block .jl, .block .hbr] : List Portion), H x = false)
    (hk0 : Kept pk wq H z0 s) : Kept pk wq H z0 (State.reefDecode s st o).1 := by
  unfold State.reefDecode
  repeat' (first
    | with_reducible assumption | exact held_sub hH rfl | exact held_one hH rfl | exact fldOk rfl
    | with_reducible refine State.satFld_kept ?_ ?_ ?_ | with_reducible refine State.decodeUnit_kept ?_ ?_
    | with_reducible refine foldl_kept ?_ ?_ | with_reducible refine ite_kept ?_ ?_
    | with_reducible refine iteP_kept ?_ ?_ | with_reducible refine foldlP_kept ?_ ?_
    | with_reducible refine State.decodeUnit_kept' (by with_reducible assumption) ?_ ?_
    | with_reducible refine foldlP_kept' (by with_reducible assumption) ?_ ?_ | with_reducible intro _ | dsimp only
    | split)
theorem State.reefDecode_kept' {s : State} {st : Nat} {o : ReefOp} {t z} (e : State.reefDecode s st o = (t, z))
    (hH : ∀ x ∈ ([.mem, .egress, .lanes, .mctp, .armed, .block .mem, .block .reef, .block .jl, .block .hbr] : List Portion), H x = false)
    (hk0 : Kept pk wq H z0 s) : Kept pk wq H z0 t := by
  have k : Kept pk wq H z0 (State.reefDecode s st o).1 := State.reefDecode_kept hH hk0
  rw [e] at k; exact k

theorem State.reefCycles_kept {s : State} {st : Nat} {o : ReefOp} {cycles : Nat}
    (hH : ∀ x ∈ ([.counts] : List Portion), H x = false) (hk0 : Kept pk wq H z0 s) : Kept pk wq H z0
    (State.reefCycles s st o cycles).1 := by
  unfold State.reefCycles
  repeat' (first
    | with_reducible assumption | exact held_sub hH rfl | exact held_one hH rfl | exact fldOk rfl
    | with_reducible refine State.setCount_kept ?_ ?_ | with_reducible refine iteP_kept ?_ ?_ | with_reducible intro _
    | dsimp only | split)
theorem State.reefCycles_kept' {s : State} {st : Nat} {o : ReefOp} {cycles : Nat} {t z}
    (e : State.reefCycles s st o cycles = (t, z)) (hH : ∀ x ∈ ([.counts] : List Portion), H x = false)
    (hk0 : Kept pk wq H z0 s) : Kept pk wq H z0 t := by
  have k : Kept pk wq H z0 (State.reefCycles s st o cycles).1 := State.reefCycles_kept hH hk0
  rw [e] at k; exact k

theorem State.reefFail_kept {s : State} {st : Nat} {o : ReefOp} {pc : Nat}
    (hH : ∀ x ∈ ([.mem, .islets, .fns, .queues, .jobs, .reefs, .egress, .gov, .lanes, .mctp, .armed, .block .img, .block .isl, .block .mem, .block .pipe, .block .reef, .block .jl, .block .red, .block .svc, .block .hbr] : List Portion), H x = false)
    (hk0 : Kept pk wq H z0 s) : Kept pk wq H z0 (State.reefFail s st o pc) := by
  unfold State.reefFail
  repeat' (first
    | with_reducible assumption | exact held_sub hH rfl | exact held_one hH rfl | exact fldOk rfl
    | with_reducible refine State.drawn_kept ?_ | with_reducible refine State.reefFreeResults_kept ?_ ?_
    | with_reducible refine State.reefRelease_kept ?_ ?_ | with_reducible refine State.reefEnd_kept ?_ ?_
    | with_reducible intro _ | dsimp only | split)

theorem State.reefWrite_kept {s : State} {o : ReefOp} {p : Nat} {vecs : List (List Byte)}
    (hH : ∀ x ∈ ([.mem] : List Portion), H x = false) (hk0 : Kept pk wq H z0 s) : Kept pk wq H z0
    (State.reefWrite s o p vecs) := by
  unfold State.reefWrite
  repeat' (first
    | with_reducible assumption | exact held_sub hH rfl | exact held_one hH rfl | exact fldOk rfl
    | with_reducible refine State.setErrors_kept ?_ | with_reducible refine State.putFrame_kept ?_ ?_
    | with_reducible refine State.trackWrite_kept ?_ | with_reducible refine foldl_kept ?_ ?_
    | with_reducible refine iteP_kept ?_ ?_ | with_reducible refine foldlP_kept ?_ ?_
    | with_reducible refine foldlP_kept' (by with_reducible assumption) ?_ ?_ | with_reducible intro _ | dsimp only
    | split)

theorem State.reefResults_kept {s : State} {o : ReefOp} (hH : ∀ x ∈ ([.mem] : List Portion), H x = false)
    (hk0 : Kept pk wq H z0 s) : Kept pk wq H z0 (State.reefResults s o).1 := by
  unfold State.reefResults
  repeat' (first
    | with_reducible assumption | exact held_sub hH rfl | exact held_one hH rfl | exact fldOk rfl
    | with_reducible refine State.drawn_kept ?_ | with_reducible refine State.reefFreeResults_kept ?_ ?_
    | with_reducible refine State.reefWrite_kept ?_ ?_ | with_reducible refine foldl_kept ?_ ?_
    | with_reducible refine getD_kept ?_ ?_ | with_reducible refine mapFst_kept ?_
    | with_reducible refine ite_kept ?_ ?_ | with_reducible refine iteP_kept ?_ ?_
    | with_reducible refine foldlP_kept ?_ ?_
    | with_reducible refine foldlP_kept' (by with_reducible assumption) ?_ ?_ | with_reducible intro _ | dsimp only
    | split)
theorem State.reefResults_kept' {s : State} {o : ReefOp} {t z} (e : State.reefResults s o = (t, z))
    (hH : ∀ x ∈ ([.mem] : List Portion), H x = false) (hk0 : Kept pk wq H z0 s) : Kept pk wq H z0 t := by
  have k : Kept pk wq H z0 (State.reefResults s o).1 := State.reefResults_kept hH hk0
  rw [e] at k; exact k

theorem State.reefFinish_kept {s : State} {stack : Nat} {k : Nat} {cycles : Nat} {o : ReefOp}
    (hH : ∀ x ∈ ([.mem, .islets, .fns, .queues, .jobs, .reefs, .egress, .gov, .lanes, .mctp, .armed, .counts, .block .img, .block .isl, .block .mem, .block .pipe, .block .reef, .block .jl, .block .red, .block .svc, .block .hbr] : List Portion), H x = false)
    (hk0 : Kept pk wq H z0 s) : Kept pk wq H z0 (State.reefFinish s stack k cycles o) := by
  unfold State.reefFinish
  repeat' (first
    | with_reducible assumption | exact held_sub hH rfl | exact held_one hH rfl | exact fldOk rfl
    | with_reducible refine State.retryHeld_kept ?_ ?_ | with_reducible refine State.reefFreeResults_kept ?_ ?_
    | with_reducible refine State.reefRelease_kept ?_ ?_ | with_reducible refine State.reefEnd_kept ?_ ?_
    | with_reducible refine State.reefDecode_kept ?_ ?_ | with_reducible refine State.reefCycles_kept ?_ ?_
    | with_reducible refine State.reefFail_kept ?_ ?_ | with_reducible refine State.reefResults_kept ?_ ?_
    | with_reducible refine mapFst_kept ?_ | with_reducible refine ite_kept ?_ ?_
    | with_reducible refine State.reefDecode_kept' (by with_reducible assumption) ?_ ?_
    | with_reducible refine State.reefCycles_kept' (by with_reducible assumption) ?_ ?_
    | with_reducible refine State.reefResults_kept' (by with_reducible assumption) ?_ ?_
    | simp only [Kept.frame_iff, and_self, true_or, or_true] | with_reducible intro _ | dsimp only | split)

theorem execReefOpEnd_kept {stack : Nat} {k : Nat} {cycles : Nat} {s : State}
    (hH : ∀ x ∈ ([.mem, .islets, .fns, .queues, .jobs, .reefs, .egress, .gov, .lanes, .mctp, .armed, .counts, .block .img, .block .isl, .block .mem, .block .pipe, .block .reef, .block .jl, .block .red, .block .svc, .block .hbr] : List Portion), H x = false)
    (hk0 : Kept pk wq H z0 s) : Kept.Outcome pk wq H z0 (execReefOpEnd stack k cycles s) := by
  unfold execReefOpEnd
  repeat' (first
    | with_reducible assumption | exact held_sub hH rfl | exact held_one hH rfl | exact fldOk rfl
    | with_reducible refine State.unserved_kept ?_ | with_reducible refine State.reefFinish_kept ?_ ?_
    | with_reducible refine id_kept ?_ | with_reducible refine ite_kept ?_ ?_ | with_reducible refine iteO_kept ?_ ?_
    | with_reducible refine Kept.next ?_ | with_reducible exact Kept.fault | with_reducible intro _ | dsimp only
    | split)

theorem State.reefBadSector_kept {s : State} {stack : Nat} {pc : Nat} {o : ReefOp}
    (hH : ∀ x ∈ ([.mem, .islets, .fns, .queues, .jobs, .reefs, .egress, .gov, .lanes, .mctp, .armed, .block .img, .block .isl, .block .mem, .block .pipe, .block .reef, .block .jl, .block .red, .block .svc, .block .hbr] : List Portion), H x = false)
    (hk0 : Kept pk wq H z0 s) : Kept pk wq H z0 (State.reefBadSector s stack pc o) := by
  unfold State.reefBadSector
  repeat' (first
    | with_reducible assumption | exact held_sub hH rfl | exact held_one hH rfl | exact fldOk rfl
    | with_reducible refine State.satFld_kept ?_ ?_ ?_ | with_reducible refine State.uncorrectableRead_kept ?_ ?_
    | with_reducible refine State.addUpset_kept ?_ | with_reducible refine State.retryHeld_kept ?_ ?_
    | with_reducible refine State.reefFail_kept ?_ ?_ | with_reducible refine getD_kept ?_ ?_
    | with_reducible refine mapFst_kept ?_ | with_reducible refine ite_kept ?_ ?_ | with_reducible intro _
    | dsimp only | split)

theorem execReefUncorrectable_kept {stack : Nat} {k : Nat} {pc : Nat} {s : State}
    (hH : ∀ x ∈ ([.mem, .islets, .fns, .queues, .jobs, .reefs, .egress, .gov, .lanes, .mctp, .armed, .block .img, .block .isl, .block .mem, .block .pipe, .block .reef, .block .jl, .block .red, .block .svc, .block .hbr] : List Portion), H x = false)
    (hk0 : Kept pk wq H z0 s) : Kept.Outcome pk wq H z0 (execReefUncorrectable stack k pc s) := by
  unfold execReefUncorrectable
  repeat' (first
    | with_reducible assumption | exact held_sub hH rfl | exact held_one hH rfl | exact fldOk rfl
    | with_reducible refine State.unserved_kept ?_ | with_reducible refine State.reefBadSector_kept ?_ ?_
    | with_reducible refine id_kept ?_ | with_reducible refine ite_kept ?_ ?_ | with_reducible refine iteO_kept ?_ ?_
    | with_reducible refine Kept.next ?_ | with_reducible exact Kept.fault | with_reducible intro _ | dsimp only
    | split)

end Sys2Proof.Machine
end

