-- ==== Sys2Proof/Laws/KeptImage.lean ====
section
/-! SUPPORT. What the operations of Image.lean keep. -/

namespace Sys2Proof.Machine
open Sys2Proof

variable {pk : Package} {wq : List Instr} {H : Portion → Bool} {z0 : State}

theorem State.recordBad_kept {s : State} {atoll : Nat} (hH : ∀ x ∈ ([.islets] : List Portion), H x = false)
    (hk0 : Kept pk wq H z0 s) : Kept pk wq H z0 (State.recordBad s atoll) := by
  unfold State.recordBad
  repeat' (first
    | with_reducible assumption | exact held_sub hH rfl | exact held_one hH rfl | exact fldOk rfl
    | with_reducible refine State.modIslet_kept ?_ ?_ | with_reducible refine foldl_kept ?_ ?_
    | with_reducible refine iteP_kept ?_ ?_ | with_reducible refine foldlP_kept ?_ ?_
    | with_reducible refine foldlP_kept' (by with_reducible assumption) ?_ ?_
    | simp only [Kept.frame_iff, and_self, true_or, or_true] | with_reducible intro _ | dsimp only | split)

theorem State.installAt_kept {s : State} {atoll : Nat} {pos : Nat} {f : Islet → Islet}
    (hH : ∀ x ∈ ([.islets] : List Portion), H x = false) (hk0 : Kept pk wq H z0 s) : Kept pk wq H z0
    (State.installAt s atoll pos f) := by
  unfold State.installAt
  repeat' (first
    | with_reducible assumption | exact held_sub hH rfl | exact held_one hH rfl | exact fldOk rfl
    | with_reducible refine State.modIslet_kept ?_ ?_ | with_reducible refine State.recordBad_kept ?_ ?_
    | with_reducible refine ite_kept ?_ ?_ | with_reducible intro _ | dsimp only | split)

theorem State.installIslet_kept {s : State} {atoll : Nat} {r : List Byte}
    (hH : ∀ x ∈ ([.islets] : List Portion), H x = false) (hk0 : Kept pk wq H z0 s) : Kept pk wq H z0
    (State.installIslet s atoll r) := by
  unfold State.installIslet
  repeat' (first
    | with_reducible assumption | exact held_sub hH rfl | exact held_one hH rfl | exact fldOk rfl
    | with_reducible refine State.installAt_kept ?_ ?_ | with_reducible refine foldl_kept ?_ ?_
    | with_reducible refine iteP_kept ?_ ?_ | with_reducible refine foldlP_kept ?_ ?_
    | with_reducible refine foldlP_kept' (by with_reducible assumption) ?_ ?_
    | simp only [Kept.frame_iff, and_self, true_or, or_true] | with_reducible intro _ | dsimp only | split)

theorem State.installChan_kept {s : State} {atoll : Nat} {r : List Byte}
    (hH : ∀ x ∈ ([.islets] : List Portion), H x = false) (hk0 : Kept pk wq H z0 s) : Kept pk wq H z0
    (State.installChan s atoll r) := by
  unfold State.installChan
  repeat' (first
    | with_reducible assumption | exact held_sub hH rfl | exact held_one hH rfl | exact fldOk rfl
    | with_reducible refine State.recordBad_kept ?_ ?_ | with_reducible refine State.installAt_kept ?_ ?_
    | with_reducible refine ite_kept ?_ ?_ | simp only [Kept.frame_iff, and_self, true_or, or_true]
    | with_reducible intro _ | dsimp only | split)

theorem State.installPlan_kept {s : State} {atoll : Nat} {r : List Byte}
    (hH : ∀ x ∈ ([.islets, .block .isl] : List Portion), H x = false) (hk0 : Kept pk wq H z0 s) : Kept pk wq H z0
    (State.installPlan s atoll r) := by
  unfold State.installPlan
  repeat' (first
    | with_reducible assumption | exact held_sub hH rfl | exact held_one hH rfl | exact fldOk rfl
    | with_reducible refine State.addFld_kept ?_ ?_ ?_ | with_reducible refine State.installAt_kept ?_ ?_
    | with_reducible refine ite_kept ?_ ?_ | simp only [Kept.frame_iff, and_self, true_or, or_true]
    | with_reducible intro _ | dsimp only | split)

theorem State.gangStat_kept {s : State} {i : Nat} (hH : ∀ x ∈ ([.block .isl] : List Portion), H x = false)
    (hk0 : Kept pk wq H z0 s) : Kept pk wq H z0 (State.gangStat s i) := by
  unfold State.gangStat
  repeat' (first
    | with_reducible assumption | exact held_sub hH rfl | exact held_one hH rfl | exact fldOk rfl
    | with_reducible refine State.setFld_kept ?_ ?_ ?_ | with_reducible intro _ | dsimp only | split)

theorem State.gangsBad_kept {s : State} {is : List Nat} (hH : ∀ x ∈ ([.islets] : List Portion), H x = false)
    (hk0 : Kept pk wq H z0 s) : Kept pk wq H z0 (State.gangsBad s is) := by
  unfold State.gangsBad
  repeat' (first
    | with_reducible assumption | exact held_sub hH rfl | exact held_one hH rfl | exact fldOk rfl
    | with_reducible refine State.modIslet_kept ?_ ?_ | with_reducible refine foldl_kept ?_ ?_
    | with_reducible refine iteP_kept ?_ ?_ | with_reducible refine foldlP_kept ?_ ?_
    | with_reducible refine foldlP_kept' (by with_reducible assumption) ?_ ?_
    | simp only [Kept.frame_iff, and_self, true_or, or_true] | with_reducible intro _ | dsimp only | split)

theorem State.installGang_kept {s : State} {atoll : Nat} {r : List Byte}
    (hH : ∀ x ∈ ([.islets] : List Portion), H x = false) (hk0 : Kept pk wq H z0 s) : Kept pk wq H z0
    (State.installGang s atoll r) := by
  unfold State.installGang
  repeat' (first
    | with_reducible assumption | exact held_sub hH rfl | exact held_one hH rfl | exact fldOk rfl
    | with_reducible refine State.modIslet_kept ?_ ?_ | with_reducible refine State.gangsBad_kept ?_ ?_
    | with_reducible refine foldl_kept ?_ ?_ | with_reducible refine mapFst_kept ?_
    | with_reducible refine ite_kept ?_ ?_ | with_reducible refine iteP_kept ?_ ?_
    | with_reducible refine foldlP_kept ?_ ?_
    | with_reducible refine foldlP_kept' (by with_reducible assumption) ?_ ?_
    | simp only [Kept.frame_iff, and_self, true_or, or_true] | with_reducible intro _ | dsimp only | split)

theorem State.installMx_kept {s : State} {atoll : Nat} {r : List Byte}
    (hH : ∀ x ∈ ([.islets] : List Portion), H x = false) (hk0 : Kept pk wq H z0 s) : Kept pk wq H z0
    (State.installMx s atoll r) := by
  unfold State.installMx
  repeat' (first
    | with_reducible assumption | exact held_sub hH rfl | exact held_one hH rfl | exact fldOk rfl
    | with_reducible refine State.recordBad_kept ?_ ?_ | with_reducible refine State.installAt_kept ?_ ?_
    | with_reducible refine State.installGang_kept ?_ ?_ | simp only [Kept.frame_iff, and_self, true_or, or_true]
    | with_reducible intro _ | dsimp only | split)

theorem State.installVx_kept {s : State} {atoll : Nat} {r : List Byte}
    (hH : ∀ x ∈ ([.islets, .block .isl] : List Portion), H x = false) (hk0 : Kept pk wq H z0 s) : Kept pk wq H z0
    (State.installVx s atoll r) := by
  unfold State.installVx
  repeat' (first
    | with_reducible assumption | exact held_sub hH rfl | exact held_one hH rfl | exact fldOk rfl
    | with_reducible refine State.addFld_kept ?_ ?_ ?_ | with_reducible refine State.installAt_kept ?_ ?_
    | with_reducible refine ite_kept ?_ ?_ | simp only [Kept.frame_iff, and_self, true_or, or_true]
    | with_reducible intro _ | dsimp only | split)

theorem State.installAtoll_kept {s : State} {h : List Byte} {img : List Byte} {atoll : Nat} {holds : Bool}
    (hH : ∀ x ∈ ([.islets, .block .isl] : List Portion), H x = false) (hk0 : Kept pk wq H z0 s) : Kept pk wq H z0
    (State.installAtoll s h img atoll holds) := by
  unfold State.installAtoll
  repeat' (first
    | with_reducible assumption | exact held_sub hH rfl | exact held_one hH rfl | exact fldOk rfl
    | with_reducible refine State.unconfigureIslet_kept ?_ ?_ | with_reducible refine State.installIslet_kept ?_ ?_
    | with_reducible refine State.installChan_kept ?_ ?_ | with_reducible refine State.installPlan_kept ?_ ?_
    | with_reducible refine State.gangStat_kept ?_ ?_ | with_reducible refine State.installMx_kept ?_ ?_
    | with_reducible refine State.installVx_kept ?_ ?_ | with_reducible refine foldl_kept ?_ ?_
    | with_reducible refine mapFst_kept ?_ | with_reducible refine ite_kept ?_ ?_
    | with_reducible refine iteP_kept ?_ ?_ | with_reducible refine foldlP_kept ?_ ?_
    | with_reducible refine foldlP_kept' (by with_reducible assumption) ?_ ?_ | with_reducible intro _ | dsimp only
    | split)

theorem State.installStack_kept {s : State} {h : List Byte} {img : List Byte} {st : Nat} {holds : Bool}
    (hH : ∀ x ∈ ([.reefs, .block .reef] : List Portion), H x = false) (hk0 : Kept pk wq H z0 s) : Kept pk wq H z0
    (State.installStack s h img st holds) := by
  unfold State.installStack
  repeat' (first
    | with_reducible assumption | exact held_sub hH rfl | exact held_one hH rfl | exact fldOk rfl
    | with_reducible refine State.setFld_kept ?_ ?_ ?_ | with_reducible refine State.modReef_kept ?_ ?_
    | with_reducible refine foldl_kept ?_ ?_ | with_reducible refine ite_kept ?_ ?_
    | with_reducible refine iteP_kept ?_ ?_ | with_reducible refine foldlP_kept ?_ ?_
    | with_reducible refine foldlP_kept' (by with_reducible assumption) ?_ ?_
    | simp only [Kept.frame_iff, and_self, true_or, or_true] | with_reducible intro _ | dsimp only | split)

theorem State.clearCtx_kept {s : State} {x : Nat} (hH : ∀ x ∈ ([.jobs, .block .red] : List Portion), H x = false)
    (hk0 : Kept pk wq H z0 s) : Kept pk wq H z0 (State.clearCtx s x) := by
  have hJobs : H .jobs = false := held_one hH rfl
  unfold State.clearCtx
  repeat' (first
    | with_reducible assumption | exact held_sub hH rfl | exact held_one hH rfl | exact fldOk rfl
    | exact wordOk_zero rfl | exact wordOk_whole rfl | with_reducible refine State.setReg_kept ?_ ?_ ?_
    | simp only [Kept.frame_iff, hJobs, and_self, true_or, or_true] | with_reducible intro _ | dsimp only | split)

theorem State.installRed_kept {s : State} {fn : Nat} {recs : List (List Byte)}
    (hH : ∀ x ∈ ([.jobs, .block .red] : List Portion), H x = false) (hk0 : Kept pk wq H z0 s) : Kept pk wq H z0
    (State.installRed s fn recs) := by
  have hJobs : H .jobs = false := held_one hH rfl
  unfold State.installRed
  repeat' (first
    | with_reducible assumption | exact held_sub hH rfl | exact held_one hH rfl | exact fldOk rfl
    | with_reducible refine State.setFld_kept ?_ ?_ ?_ | with_reducible refine State.clearCtx_kept ?_ ?_
    | with_reducible refine foldl_kept ?_ ?_ | with_reducible refine iteP_kept ?_ ?_
    | with_reducible refine foldlP_kept ?_ ?_
    | with_reducible refine foldlP_kept' (by with_reducible assumption) ?_ ?_
    | simp only [Kept.frame_iff, hJobs, and_self, true_or, or_true] | with_reducible intro _ | dsimp only | split)

theorem State.installWide_kept {s : State} {fn : Nat} {h : List Byte} {img : List Byte}
    (hH : ∀ x ∈ ([.fns, .optim, .jobs, .block .pipe, .block .red, .block .opt] : List Portion), H x = false)
    (hk0 : Kept pk wq H z0 s) : Kept pk wq H z0 (State.installWide s fn h img) := by
  unfold State.installWide
  repeat' (first
    | with_reducible assumption | exact held_sub hH rfl | exact held_one hH rfl | exact fldOk rfl
    | exact .inl (fun _ => rfl) | exact .inr (held_one hH rfl)
    | exact .inl (fun x => by dsimp only; repeat' split <;> rfl) | exact wordOk_zero rfl | exact wordOk_whole rfl
    | with_reducible refine State.setReg_kept ?_ ?_ ?_ | with_reducible refine State.setFld_kept ?_ ?_ ?_
    | with_reducible refine State.modFn_kept ?_ ?_ ?_ | with_reducible refine State.installRed_kept ?_ ?_
    | with_reducible refine foldl_kept ?_ ?_ | with_reducible refine iteP_kept ?_ ?_
    | with_reducible refine foldlP_kept ?_ ?_
    | with_reducible refine foldlP_kept' (by with_reducible assumption) ?_ ?_
    | simp only [Kept.frame_iff, and_self, true_or, or_true] | with_reducible intro _ | dsimp only | split)

end Sys2Proof.Machine
end

