-- ==== Sys2Proof/Laws/KeptMigration.lean ====
section
/-! SUPPORT. What the operations of Migration.lean keep. -/

namespace Sys2Proof.Machine
open Sys2Proof

variable {pk : Package} {wq : List Instr} {H : Portion → Bool} {z0 : State}

theorem execMemoryAccess_kept {fn : Nat} {req : Requester} {addr : Nat} {len : Nat} {wr : Option (List Byte)}
    {upset : Nat} {s : State}
    (hH : ∀ x ∈ ([.mem, .fns, .egress, .lanes, .mctp, .armed, .block .img, .block .mem, .block .reef, .block .jl, .block .hbr] : List Portion), H x = false)
    (hk0 : Kept pk wq H z0 s) : Kept.Outcome pk wq H z0 (execMemoryAccess fn req addr len wr upset s) := by
  unfold execMemoryAccess
  repeat' (first
    | with_reducible assumption | exact held_sub hH rfl | exact held_one hH rfl | exact fldOk rfl
    | with_reducible refine State.unserved_kept ?_ | with_reducible refine State.takeAccess_kept ?_ ?_
    | with_reducible refine ite_kept ?_ ?_ | with_reducible refine iteO_kept ?_ ?_
    | simp only [Kept.frame_iff, and_self, true_or, or_true] | with_reducible refine Kept.next ?_
    | with_reducible exact Kept.fault | with_reducible intro _ | dsimp only | split)

theorem execHbmRefresh_kept (_stack : Nat) (_pc : Nat) (_bank : Nat) {s : State} (hk0 : Kept pk wq H z0 s) :
    Kept.Outcome pk wq H z0 (execHbmRefresh _stack _pc _bank s) := by
  unfold execHbmRefresh
  repeat' (first
    | with_reducible assumption | with_reducible refine iteO_kept ?_ ?_ | with_reducible refine Kept.next ?_
    | with_reducible intro _ | dsimp only | split)

theorem execMainlandRefresh_kept (_port : Nat) (_rfm : Bool) {s : State} (hk0 : Kept pk wq H z0 s) : Kept.Outcome pk
    wq H z0 (execMainlandRefresh _port _rfm s) := by
  unfold execMainlandRefresh
  repeat' (first
    | with_reducible assumption | with_reducible refine iteO_kept ?_ ?_ | with_reducible refine Kept.next ?_
    | with_reducible intro _ | dsimp only | split)

theorem State.scrubUnit_kept {s : State} {key : Nat} {upset : Nat}
    (hH : ∀ x ∈ ([.mem, .egress, .lanes, .mctp, .armed, .block .mem, .block .reef, .block .jl, .block .hbr] : List Portion), H x = false)
    (hk0 : Kept pk wq H z0 s) : Kept pk wq H z0 (State.scrubUnit s key upset) := by
  unfold State.scrubUnit
  repeat' (first
    | with_reducible assumption | exact held_sub hH rfl | exact held_one hH rfl | exact fldOk rfl
    | with_reducible refine State.setErrors_kept ?_ | with_reducible refine State.addUpset_kept ?_
    | with_reducible refine State.decodeUnit_kept ?_ ?_ | with_reducible refine State.yieldsAt_kept ?_ ?_
    | with_reducible refine mapFst_kept ?_ | with_reducible refine ite_kept ?_ ?_
    | with_reducible refine State.decodeUnit_kept' (by with_reducible assumption) ?_ ?_ | with_reducible intro _
    | dsimp only | split)

theorem execPatrolScrub_kept {key : Nat} {upset : Nat} {s : State}
    (hH : ∀ x ∈ ([.mem, .egress, .lanes, .mctp, .armed, .block .mem, .block .reef, .block .jl, .block .hbr] : List Portion), H x = false)
    (hk0 : Kept pk wq H z0 s) : Kept.Outcome pk wq H z0 (execPatrolScrub key upset s) := by
  unfold execPatrolScrub
  repeat' (first
    | with_reducible assumption | exact held_sub hH rfl | exact held_one hH rfl | exact fldOk rfl
    | with_reducible refine State.scrubUnit_kept ?_ ?_ | with_reducible refine ite_kept ?_ ?_
    | with_reducible refine iteO_kept ?_ ?_ | with_reducible refine Kept.next ?_ | with_reducible intro _ | dsimp only
    | split)

theorem State.relocatePage_kept {s : State} {fn : Nat} {page : Nat} {f : Frame} {t : Frame}
    (hH : ∀ x ∈ ([.mem, .fns, .egress, .lanes, .mctp, .armed, .block .mem, .block .reef, .block .jl, .block .sec, .block .hbr] : List Portion), H x = false)
    (hk0 : Kept pk wq H z0 s) : Kept pk wq H z0 (State.relocatePage s fn page f t) := by
  unfold State.relocatePage
  repeat' (first
    | with_reducible assumption | exact held_sub hH rfl | exact held_one hH rfl | exact fldOk rfl
    | with_reducible refine State.modPage_kept ?_ ?_ | with_reducible refine State.memRecord_kept ?_ ?_
    | with_reducible refine State.spareStat_kept ?_ ?_ | with_reducible refine State.copyFrame_kept ?_ ?_
    | with_reducible refine State.readWhole_kept ?_ ?_ | with_reducible refine State.freeFrame_kept ?_ ?_
    | with_reducible refine ite_kept ?_ ?_
    | with_reducible refine State.readWhole_kept' (by with_reducible assumption) ?_ ?_
    | simp only [Kept.frame_iff, and_self, true_or, or_true] | with_reducible intro _ | dsimp only | split)

theorem execPageRelocate_kept {fn : Nat} {page : Nat} {s : State}
    (hH : ∀ x ∈ ([.mem, .fns, .egress, .lanes, .mctp, .armed, .block .mem, .block .reef, .block .jl, .block .sec, .block .hbr] : List Portion), H x = false)
    (hk0 : Kept pk wq H z0 s) : Kept.Outcome pk wq H z0 (execPageRelocate fn page s) := by
  unfold execPageRelocate
  repeat' (first
    | with_reducible assumption | exact held_sub hH rfl | exact held_one hH rfl | exact fldOk rfl
    | with_reducible refine State.relocatePage_kept ?_ ?_ | with_reducible refine ite_kept ?_ ?_
    | with_reducible refine iteO_kept ?_ ?_ | with_reducible refine Kept.next ?_ | with_reducible intro _ | dsimp only
    | split)

theorem execMainlandPortTrainingLoss_kept {port : Nat} {s : State} (hk0 : Kept pk wq H z0 s) : Kept.Outcome pk wq H z0
    (execMainlandPortTrainingLoss port s) := by
  unfold execMainlandPortTrainingLoss
  repeat' (first
    | with_reducible assumption | with_reducible refine ite_kept ?_ ?_ | with_reducible refine iteO_kept ?_ ?_
    | simp only [Kept.frame_iff, and_self, true_or, or_true] | with_reducible refine Kept.next ?_
    | with_reducible intro _ | dsimp only | split)

theorem execMainlandPortRetrained_kept {port : Nat} {s : State}
    (hH : ∀ x ∈ ([.mem, .fns, .egress, .lanes, .mctp, .armed, .block .img, .block .mem, .block .reef, .block .jl, .block .hbr] : List Portion), H x = false)
    (hk0 : Kept pk wq H z0 s) : Kept.Outcome pk wq H z0 (execMainlandPortRetrained port s) := by
  unfold execMainlandPortRetrained
  repeat' (first
    | with_reducible assumption | exact held_sub hH rfl | exact held_one hH rfl | exact fldOk rfl
    | with_reducible refine State.retryHeld_kept ?_ ?_ | with_reducible refine ite_kept ?_ ?_
    | with_reducible refine iteO_kept ?_ ?_ | simp only [Kept.frame_iff, and_self, true_or, or_true]
    | with_reducible refine Kept.next ?_ | with_reducible intro _ | dsimp only | split)

theorem execMainlandPortDown_kept {port : Nat} {s : State}
    (hH : ∀ x ∈ ([.mem, .fns, .egress, .lanes, .mctp, .armed, .block .img, .block .mem, .block .reef, .block .jl, .block .hbr] : List Portion), H x = false)
    (hk0 : Kept pk wq H z0 s) : Kept.Outcome pk wq H z0 (execMainlandPortDown port s) := by
  unfold execMainlandPortDown
  repeat' (first
    | with_reducible assumption | exact held_sub hH rfl | exact held_one hH rfl | exact fldOk rfl
    | with_reducible refine State.setFld_kept ?_ ?_ ?_ | with_reducible refine State.retryHeld_kept ?_ ?_
    | with_reducible refine ite_kept ?_ ?_ | with_reducible refine iteO_kept ?_ ?_
    | simp only [Kept.frame_iff, and_self, true_or, or_true] | with_reducible refine Kept.next ?_
    | with_reducible intro _ | dsimp only | split)

theorem State.migStat_kept {s : State} {fn : Nat} (hH : ∀ x ∈ ([.block .mem] : List Portion), H x = false)
    (hk0 : Kept pk wq H z0 s) : Kept pk wq H z0 (State.migStat s fn) := by
  unfold State.migStat
  repeat' (first
    | with_reducible assumption | exact held_sub hH rfl | exact held_one hH rfl | exact fldOk rfl
    | with_reducible refine State.setFld_kept ?_ ?_ ?_ | with_reducible intro _ | dsimp only | split)

theorem State.modMig_kept {s : State} {fn : Nat} {g : Mig → Mig} (hH : ∀ x ∈ ([.fns] : List Portion), H x = false)
    (hk0 : Kept pk wq H z0 s) : Kept pk wq H z0 (State.modMig s fn g) := by
  unfold State.modMig
  repeat' (first
    | with_reducible assumption | exact held_sub hH rfl | exact held_one hH rfl | exact fldOk rfl
    | exact .inl (fun _ => rfl) | exact .inr (held_one hH rfl)
    | exact .inl (fun x => by dsimp only; repeat' split <;> rfl) | with_reducible refine State.modFn_kept ?_ ?_ ?_
    | simp only [Kept.frame_iff, and_self, true_or, or_true] | with_reducible intro _ | dsimp only | split)

theorem State.modRun_kept {s : State} {fn : Nat} {g : MigRun → MigRun}
    (hH : ∀ x ∈ ([.fns] : List Portion), H x = false) (hk0 : Kept pk wq H z0 s) : Kept pk wq H z0
    (State.modRun s fn g) := by
  unfold State.modRun
  repeat' (first
    | with_reducible assumption | exact held_sub hH rfl | exact held_one hH rfl | exact fldOk rfl
    | with_reducible refine State.modMig_kept ?_ ?_ | with_reducible refine mapFst_kept ?_
    | simp only [Kept.frame_iff, and_self, true_or, or_true] | with_reducible intro _ | dsimp only | split)

theorem State.migQueue_kept {s : State} {fn : Nat} {r : MigReq}
    (hH : ∀ x ∈ ([.fns, .block .mem] : List Portion), H x = false) (hk0 : Kept pk wq H z0 s) : Kept pk wq H z0
    (State.migQueue s fn r) := by
  unfold State.migQueue
  repeat' (first
    | with_reducible assumption | exact held_sub hH rfl | exact held_one hH rfl | exact fldOk rfl
    | with_reducible refine State.migStat_kept ?_ ?_ | with_reducible refine State.modMig_kept ?_ ?_
    | simp only [Kept.frame_iff, and_self, true_or, or_true] | with_reducible intro _ | dsimp only | split)

theorem State.migFeed_kept {s : State} {fn : Nat} (hH : ∀ x ∈ ([.fns, .block .mem] : List Portion), H x = false)
    (hk0 : Kept pk wq H z0 s) : Kept pk wq H z0 (State.migFeed s fn) := by
  unfold State.migFeed
  repeat' (first
    | with_reducible assumption | exact held_sub hH rfl | exact held_one hH rfl | exact fldOk rfl
    | exact .inl (fun _ => rfl) | exact .inr (held_one hH rfl)
    | exact .inl (fun x => by dsimp only; repeat' split <;> rfl) | with_reducible refine State.modFn_kept ?_ ?_ ?_
    | with_reducible refine State.migStat_kept ?_ ?_ | simp only [Kept.frame_iff, and_self, true_or, or_true]
    | with_reducible intro _ | dsimp only | split)

theorem State.migEnd_kept {s : State} {fn : Nat} {r : MigReq} {st : Status} {done : Nat} {skipped : Nat}
    (hH : ∀ x ∈ ([.fns, .queues, .egress, .armed, .block .mem, .block .jl, .block .svc] : List Portion), H x = false)
    (hk0 : Kept pk wq H z0 s) : Kept pk wq H z0 (State.migEnd s fn r st done skipped) := by
  unfold State.migEnd
  repeat' (first
    | with_reducible assumption | exact held_sub hH rfl | exact held_one hH rfl | exact fldOk rfl
    | exact .inl (fun _ => rfl) | exact .inr (held_one hH rfl)
    | exact .inl (fun x => by dsimp only; repeat' split <;> rfl) | with_reducible refine State.setFld_kept ?_ ?_ ?_
    | with_reducible refine State.addFld_kept ?_ ?_ ?_ | with_reducible refine State.fnEvent_kept ?_ ?_ ?_ ?_
    | with_reducible refine State.modFn_kept ?_ ?_ ?_ | with_reducible refine State.completeCommand_kept ?_ ?_
    | with_reducible refine State.migFeed_kept ?_ ?_ | simp only [Kept.frame_iff, and_self, true_or, or_true]
    | with_reducible intro _ | dsimp only | split)

theorem State.migStart_kept {s : State} {fn : Nat} {op : Nat}
    (hH : ∀ x ∈ ([.fns, .block .mem] : List Portion), H x = false) (hk0 : Kept pk wq H z0 s) : KeptIn pk wq H z0
    (State.migStart s fn op) := by
  unfold State.migStart
  repeat' (first
    | with_reducible assumption | exact held_sub hH rfl | exact held_one hH rfl | exact fldOk rfl
    | with_reducible refine State.migStat_kept ?_ ?_ | with_reducible refine State.modMig_kept ?_ ?_
    | with_reducible refine ite_kept ?_ ?_ | simp only [Kept.frame_iff, and_self, true_or, or_true]
    | with_reducible exact KeptSome.none | with_reducible refine KeptSome.some ?_
    | with_reducible refine KeptIn.some ?_ | with_reducible exact KeptIn.none | with_reducible intro _ | dsimp only
    | split)
theorem State.migStart_kept' {s : State} {fn : Nat} {op : Nat} {t z} (e : State.migStart s fn op = some (t, z))
    (hH : ∀ x ∈ ([.fns, .block .mem] : List Portion), H x = false) (hk0 : Kept pk wq H z0 s) : Kept pk wq H z0 t :=
  State.migStart_kept hH hk0 _ e

theorem State.createSegment_kept {s : State} {fn : Nat} {r : MigReq} {slot : Nat}
    (hH : ∀ x ∈ ([.mem, .fns, .block .mem, .block .reef, .block .sec] : List Portion), H x = false)
    (hk0 : Kept pk wq H z0 s) : Kept pk wq H z0 (State.createSegment s fn r slot) := by
  unfold State.createSegment
  repeat' (first
    | with_reducible assumption | exact held_sub hH rfl | exact held_one hH rfl | exact fldOk rfl
    | exact .inl (fun _ => rfl) | exact .inr (held_one hH rfl)
    | exact .inl (fun x => by dsimp only; repeat' split <;> rfl) | with_reducible refine State.modFn_kept ?_ ?_ ?_
    | with_reducible refine State.zeroFrame_kept ?_ ?_ | with_reducible refine State.noteYields_kept ?_ ?_
    | with_reducible refine State.slotAdd_kept ?_ ?_ | with_reducible refine State.migStat_kept ?_ ?_
    | with_reducible refine foldl_kept ?_ ?_ | with_reducible refine mapFst_kept ?_
    | with_reducible refine ite_kept ?_ ?_ | with_reducible refine iteP_kept ?_ ?_
    | with_reducible refine foldlP_kept ?_ ?_
    | with_reducible refine foldlP_kept' (by with_reducible assumption) ?_ ?_
    | simp only [Kept.frame_iff, and_self, true_or, or_true] | with_reducible intro _ | dsimp only | split)

theorem State.removeSegment_kept {s : State} {fn : Nat} {base : Nat}
    (hH : ∀ x ∈ ([.fns, .block .mem, .block .sec] : List Portion), H x = false) (hk0 : Kept pk wq H z0 s) : Kept pk wq
    H z0 (State.removeSegment s fn base) := by
  unfold State.removeSegment
  repeat' (first
    | with_reducible assumption | exact held_sub hH rfl | exact held_one hH rfl | exact fldOk rfl
    | exact .inl (fun _ => rfl) | exact .inr (held_one hH rfl)
    | exact .inl (fun x => by dsimp only; repeat' split <;> rfl) | with_reducible refine State.modFn_kept ?_ ?_ ?_
    | with_reducible refine State.freeFrame_kept ?_ ?_ | with_reducible refine State.migStat_kept ?_ ?_
    | with_reducible refine foldl_kept ?_ ?_ | with_reducible refine iteP_kept ?_ ?_
    | with_reducible refine foldlP_kept ?_ ?_
    | with_reducible refine foldlP_kept' (by with_reducible assumption) ?_ ?_
    | simp only [Kept.frame_iff, and_self, true_or, or_true] | with_reducible intro _ | dsimp only | split)

theorem State.mapSegment_kept {s : State} {fn : Nat} {run : MigRun}
    (hH : ∀ x ∈ ([.mem, .fns, .block .mem, .block .reef, .block .sec] : List Portion), H x = false)
    (hk0 : Kept pk wq H z0 s) : Kept pk wq H z0 (State.mapSegment s fn run) := by
  unfold State.mapSegment
  repeat' (first
    | with_reducible assumption | exact held_sub hH rfl | exact held_one hH rfl | exact fldOk rfl
    | with_reducible refine State.slotWritten_kept ?_ ?_ | with_reducible refine State.modRun_kept ?_ ?_
    | with_reducible refine State.createSegment_kept ?_ ?_ | with_reducible refine foldl_kept ?_ ?_
    | with_reducible refine ite_kept ?_ ?_ | with_reducible refine iteP_kept ?_ ?_
    | with_reducible refine foldlP_kept ?_ ?_
    | with_reducible refine foldlP_kept' (by with_reducible assumption) ?_ ?_
    | simp only [Kept.frame_iff, and_self, true_or, or_true] | with_reducible intro _ | dsimp only | split)

theorem execMigMap_kept {fn : Nat} {s : State}
    (hH : ∀ x ∈ ([.mem, .fns, .block .mem, .block .reef, .block .sec] : List Portion), H x = false)
    (hk0 : Kept pk wq H z0 s) : Kept.Outcome pk wq H z0 (execMigMap fn s) := by
  unfold execMigMap
  repeat' (first
    | with_reducible assumption | exact held_sub hH rfl | exact held_one hH rfl | exact fldOk rfl
    | with_reducible refine State.migStart_kept ?_ ?_ | with_reducible refine State.mapSegment_kept ?_ ?_
    | with_reducible refine mapFst_kept ?_ | with_reducible refine ite_kept ?_ ?_
    | with_reducible refine iteO_kept ?_ ?_
    | with_reducible refine State.migStart_kept' (by with_reducible assumption) ?_ ?_
    | with_reducible refine Kept.next ?_ | with_reducible intro _ | dsimp only | split)

theorem execMigUnmap_kept {fn : Nat} {s : State}
    (hH : ∀ x ∈ ([.fns, .block .mem, .block .sec] : List Portion), H x = false) (hk0 : Kept pk wq H z0 s) :
    Kept.Outcome pk wq H z0 (execMigUnmap fn s) := by
  unfold execMigUnmap
  repeat' (first
    | with_reducible assumption | exact held_sub hH rfl | exact held_one hH rfl | exact fldOk rfl
    | with_reducible refine State.modRun_kept ?_ ?_ | with_reducible refine State.migStart_kept ?_ ?_
    | with_reducible refine State.removeSegment_kept ?_ ?_ | with_reducible refine ite_kept ?_ ?_
    | with_reducible refine iteO_kept ?_ ?_
    | with_reducible refine State.migStart_kept' (by with_reducible assumption) ?_ ?_
    | simp only [Kept.frame_iff, and_self, true_or, or_true] | with_reducible refine Kept.next ?_
    | with_reducible intro _ | dsimp only | split)

theorem execMigPromote_kept {fn : Nat} {s : State} (hH : ∀ x ∈ ([.fns, .block .mem] : List Portion), H x = false)
    (hk0 : Kept pk wq H z0 s) : Kept.Outcome pk wq H z0 (execMigPromote fn s) := by
  unfold execMigPromote
  repeat' (first
    | with_reducible assumption | exact held_sub hH rfl | exact held_one hH rfl | exact fldOk rfl
    | with_reducible refine State.migStart_kept ?_ ?_ | with_reducible refine getD_kept ?_ ?_
    | with_reducible refine mapFst_kept ?_ | with_reducible refine iteO_kept ?_ ?_
    | with_reducible refine State.migStart_kept' (by with_reducible assumption) ?_ ?_
    | with_reducible refine Kept.next ?_ | with_reducible intro _ | dsimp only | split)

theorem execMigDemote_kept {fn : Nat} {s : State} (hH : ∀ x ∈ ([.fns, .block .mem] : List Portion), H x = false)
    (hk0 : Kept pk wq H z0 s) : Kept.Outcome pk wq H z0 (execMigDemote fn s) := by
  unfold execMigDemote
  repeat' (first
    | with_reducible assumption | exact held_sub hH rfl | exact held_one hH rfl | exact fldOk rfl
    | with_reducible refine State.migStart_kept ?_ ?_ | with_reducible refine getD_kept ?_ ?_
    | with_reducible refine mapFst_kept ?_ | with_reducible refine iteO_kept ?_ ?_
    | with_reducible refine State.migStart_kept' (by with_reducible assumption) ?_ ?_
    | with_reducible refine Kept.next ?_ | with_reducible intro _ | dsimp only | split)

theorem State.migCreate_kept {s : State} {fn : Nat} {op : Nat}
    (hH : ∀ x ∈ ([.mem, .fns, .block .mem, .block .reef, .block .sec] : List Portion), H x = false)
    (hk0 : Kept pk wq H z0 s) : Kept pk wq H z0 (State.migCreate s fn op) := by
  unfold State.migCreate
  repeat' (first
    | with_reducible assumption | exact held_sub hH rfl | exact held_one hH rfl | exact fldOk rfl
    | with_reducible refine State.modRun_kept ?_ ?_ | with_reducible refine State.migStart_kept ?_ ?_
    | with_reducible refine State.createSegment_kept ?_ ?_ | with_reducible refine ite_kept ?_ ?_
    | with_reducible refine State.migStart_kept' (by with_reducible assumption) ?_ ?_
    | simp only [Kept.frame_iff, and_self, true_or, or_true] | with_reducible intro _ | dsimp only | split)

theorem execMigCopy_kept {fn : Nat} {s : State}
    (hH : ∀ x ∈ ([.mem, .fns, .block .mem, .block .reef, .block .sec] : List Portion), H x = false)
    (hk0 : Kept pk wq H z0 s) : Kept.Outcome pk wq H z0 (execMigCopy fn s) := by
  unfold execMigCopy
  repeat' (first
    | with_reducible assumption | exact held_sub hH rfl | exact held_one hH rfl | exact fldOk rfl
    | with_reducible refine State.migCreate_kept ?_ ?_ | with_reducible refine iteO_kept ?_ ?_
    | with_reducible refine Kept.next ?_ | with_reducible intro _ | dsimp only | split)

theorem State.ingestAsk_kept {s : State} {fn : Nat} {r : MigReq} {i : Nat}
    (hH : ∀ x ∈ ([.egress, .lanes, .armed, .block .jl] : List Portion), H x = false) (hk0 : Kept pk wq H z0 s) : Kept
    pk wq H z0 (State.ingestAsk s fn r i) := by
  unfold State.ingestAsk
  repeat' (first
    | with_reducible assumption | exact held_sub hH rfl | exact held_one hH rfl | exact fldOk rfl
    | with_reducible refine State.hostRead_kept ?_ ?_ | with_reducible refine ite_kept ?_ ?_ | with_reducible intro _
    | dsimp only | split)

theorem execMigIngest_kept {fn : Nat} {s : State}
    (hH : ∀ x ∈ ([.mem, .fns, .egress, .lanes, .armed, .block .mem, .block .reef, .block .jl, .block .sec] : List Portion), H x = false)
    (hk0 : Kept pk wq H z0 s) : Kept.Outcome pk wq H z0 (execMigIngest fn s) := by
  unfold execMigIngest
  repeat' (first
    | with_reducible assumption | exact held_sub hH rfl | exact held_one hH rfl | exact fldOk rfl
    | with_reducible refine State.migCreate_kept ?_ ?_ | with_reducible refine State.ingestAsk_kept ?_ ?_
    | with_reducible refine ite_kept ?_ ?_ | with_reducible refine iteO_kept ?_ ?_
    | with_reducible refine Kept.next ?_ | with_reducible intro _ | dsimp only | split)

theorem State.writeMigCtl_kept {s : State} {fn : Nat} {w : Word}
    (hH : ∀ x ∈ ([.fns, .queues, .egress, .armed, .block .mem, .block .jl, .block .svc] : List Portion), H x = false)
    (hk0 : Kept pk wq H z0 s) : Kept pk wq H z0 (State.writeMigCtl s fn w) := by
  unfold State.writeMigCtl
  repeat' (first
    | with_reducible assumption | exact held_sub hH rfl | exact held_one hH rfl | exact fldOk rfl
    | with_reducible refine State.fnEvent_kept ?_ ?_ ?_ ?_ | with_reducible refine State.migStat_kept ?_ ?_
    | with_reducible refine State.modMig_kept ?_ ?_ | with_reducible refine State.migQueue_kept ?_ ?_
    | with_reducible refine State.migEnd_kept ?_ ?_ | with_reducible refine foldl_kept ?_ ?_
    | with_reducible refine ite_kept ?_ ?_ | with_reducible refine iteP_kept ?_ ?_
    | with_reducible refine foldlP_kept ?_ ?_
    | with_reducible refine foldlP_kept' (by with_reducible assumption) ?_ ?_
    | simp only [Kept.frame_iff, and_self, true_or, or_true] | with_reducible intro _ | dsimp only | split)

theorem execMigGo_kept {fn : Nat} {w : Word} {s : State}
    (hH : ∀ x ∈ ([.fns, .queues, .egress, .armed, .block .mem, .block .jl, .block .svc] : List Portion), H x = false)
    (hk0 : Kept pk wq H z0 s) : Kept.Outcome pk wq H z0 (execMigGo fn w s) := by
  unfold execMigGo
  repeat' (first
    | with_reducible assumption | exact held_sub hH rfl | exact held_one hH rfl | exact fldOk rfl
    | with_reducible refine State.writeMigCtl_kept ?_ ?_ | with_reducible refine ite_kept ?_ ?_
    | with_reducible refine iteO_kept ?_ ?_ | with_reducible refine Kept.next ?_ | with_reducible intro _ | dsimp only
    | split)

theorem execMigCancel_kept {fn : Nat} {w : Word} {s : State}
    (hH : ∀ x ∈ ([.fns, .queues, .egress, .armed, .block .mem, .block .jl, .block .svc] : List Portion), H x = false)
    (hk0 : Kept pk wq H z0 s) : Kept.Outcome pk wq H z0 (execMigCancel fn w s) := by
  unfold execMigCancel
  repeat' (first
    | with_reducible assumption | exact held_sub hH rfl | exact held_one hH rfl | exact fldOk rfl
    | with_reducible refine State.writeMigCtl_kept ?_ ?_ | with_reducible refine ite_kept ?_ ?_
    | with_reducible refine iteO_kept ?_ ?_ | with_reducible refine Kept.next ?_ | with_reducible intro _ | dsimp only
    | split)

theorem State.modPort_kept {s : State} {p : Nat} {g : MlPort → MlPort} (hk0 : Kept pk wq H z0 s) : Kept pk wq H z0
    (State.modPort s p g) := by
  unfold State.modPort
  repeat' (first
    | with_reducible assumption | simp only [Kept.frame_iff, and_self, true_or, or_true] | with_reducible intro _
    | dsimp only | split)

theorem State.portNext_kept {s : State} {p : Nat} (hk0 : Kept pk wq H z0 s) : Kept pk wq H z0 (State.portNext s p) :=
    by
  unfold State.portNext
  repeat' (first
    | with_reducible assumption | with_reducible refine State.modPort_kept ?_
    | simp only [Kept.frame_iff, and_self, true_or, or_true] | with_reducible intro _ | dsimp only | split)

theorem State.pageSettled_kept {s : State} {fn : Nat} {skip : Bool} (hH : ∀ x ∈ ([.fns] : List Portion), H x = false)
    (hk0 : Kept pk wq H z0 s) : Kept pk wq H z0 (State.pageSettled s fn skip) := by
  unfold State.pageSettled
  repeat' (first
    | with_reducible assumption | exact held_sub hH rfl | exact held_one hH rfl | exact fldOk rfl
    | with_reducible refine State.modRun_kept ?_ ?_ | with_reducible refine ite_kept ?_ ?_
    | simp only [Kept.frame_iff, and_self, true_or, or_true] | with_reducible intro _ | dsimp only | split)

theorem State.pageTaken_kept {s : State} {fn : Nat} (hH : ∀ x ∈ ([.fns] : List Portion), H x = false)
    (hk0 : Kept pk wq H z0 s) : Kept pk wq H z0 (State.pageTaken s fn) := by
  unfold State.pageTaken
  repeat' (first
    | with_reducible assumption | exact held_sub hH rfl | exact held_one hH rfl | exact fldOk rfl
    | with_reducible refine State.modRun_kept ?_ ?_ | simp only [Kept.frame_iff, and_self, true_or, or_true]
    | with_reducible intro _ | dsimp only | split)

theorem State.migStop_kept {s : State} {fn : Nat} {st : Status} (hH : ∀ x ∈ ([.fns] : List Portion), H x = false)
    (hk0 : Kept pk wq H z0 s) : Kept pk wq H z0 (State.migStop s fn st) := by
  unfold State.migStop
  repeat' (first
    | with_reducible assumption | exact held_sub hH rfl | exact held_one hH rfl | exact fldOk rfl
    | with_reducible refine State.modRun_kept ?_ ?_ | with_reducible refine getD_kept ?_ ?_
    | simp only [Kept.frame_iff, and_self, true_or, or_true] | with_reducible intro _ | dsimp only | split)

theorem State.demoteStart_kept {s : State} {fn : Nat} {addr : Nat}
    (hH : ∀ x ∈ ([.fns, .block .sec] : List Portion), H x = false) (hk0 : Kept pk wq H z0 s) : Kept pk wq H z0
    (State.demoteStart s fn addr) := by
  unfold State.demoteStart
  repeat' (first
    | with_reducible assumption | exact held_sub hH rfl | exact held_one hH rfl | exact fldOk rfl
    | with_reducible refine State.slotAdd_kept ?_ ?_ | with_reducible refine State.modMig_kept ?_ ?_
    | with_reducible refine State.modPort_kept ?_ | with_reducible refine State.pageSettled_kept ?_ ?_
    | with_reducible refine State.pageTaken_kept ?_ ?_ | with_reducible refine State.migStop_kept ?_ ?_
    | with_reducible refine getD_kept ?_ ?_ | with_reducible refine mapFst_kept ?_
    | with_reducible refine ite_kept ?_ ?_ | simp only [Kept.frame_iff, and_self, true_or, or_true]
    | with_reducible intro _ | dsimp only | split)

theorem State.promoteStart_kept {s : State} {fn : Nat} {addr : Nat} {run : MigRun}
    (hH : ∀ x ∈ ([.fns] : List Portion), H x = false) (hk0 : Kept pk wq H z0 s) : Kept pk wq H z0
    (State.promoteStart s fn addr run) := by
  unfold State.promoteStart
  repeat' (first
    | with_reducible assumption | exact held_sub hH rfl | exact held_one hH rfl | exact fldOk rfl
    | with_reducible refine State.startPromotion_kept ?_ ?_ | with_reducible refine State.modRun_kept ?_ ?_
    | with_reducible refine State.modPort_kept ?_ | with_reducible refine State.pageSettled_kept ?_ ?_
    | with_reducible refine State.pageTaken_kept ?_ ?_ | with_reducible refine State.migStop_kept ?_ ?_
    | with_reducible refine ite_kept ?_ ?_ | simp only [Kept.frame_iff, and_self, true_or, or_true]
    | with_reducible intro _ | dsimp only | split)

theorem State.copyPage.done_kept {fn : Nat} {run : MigRun} {s : State} {b : Page}
    (hH : ∀ x ∈ ([.fns] : List Portion), H x = false)
    (h : Kept pk wq H z0 s) :
    Kept pk wq H z0 (State.copyPage.done fn run s b) := by
  unfold State.copyPage.done
  repeat' (first
    | with_reducible assumption | with_reducible refine State.modRun_kept (held_sub hH rfl) ?_
    | with_reducible refine State.pageSettled_kept (held_sub hH rfl) ?_
    | with_reducible refine State.pageTaken_kept (held_sub hH rfl) ?_ | with_reducible refine foldl_kept ?_ ?_
    | with_reducible refine getD_kept ?_ ?_ | with_reducible refine ite_kept ?_ ?_
    | with_reducible refine iteP_kept ?_ ?_ | with_reducible refine iteO_kept ?_ ?_
    | simp only [Kept.frame_iff, and_self, true_or, or_true] | with_reducible refine Kept.next ?_
    | with_reducible exact Kept.fault | with_reducible exact Kept.refused | with_reducible intro _ | dsimp only
    | split)

theorem State.copyPage.move_kept {fn : Nat} {run : MigRun} {upset : Nat} {s : State} {a b : Page} {srcAddr : Nat}
    (hH : ∀ x ∈ ([.mem, .fns, .egress, .lanes, .mctp, .armed, .block .mem, .block .reef, .block .jl, .block .sec, .block .hbr] : List Portion), H x = false)
    (h : Kept pk wq H z0 s) : Kept pk wq H z0 (State.copyPage.move fn run upset s a b srcAddr) := by
  unfold State.copyPage.move
  repeat' (first
    | with_reducible assumption | with_reducible refine State.addUpset_kept ?_
    | with_reducible refine State.migStop_kept (held_sub hH rfl) ?_
    | with_reducible refine State.copyPage.done_kept (held_sub hH rfl) ?_
    | with_reducible refine State.readWhole_kept (held_sub hH rfl) ?_
    | with_reducible refine State.copyFrame_kept (held_sub hH rfl) ?_
    | with_reducible refine State.slotWritten_kept (held_sub hH rfl) ?_
    | with_reducible refine State.portDownRecord_kept (held_sub hH rfl) ?_
    | with_reducible refine State.spoilFrame_kept ?_
    | with_reducible refine State.readWhole_kept' (by with_reducible assumption) (held_sub hH rfl) ?_
    | with_reducible refine foldl_kept ?_ ?_ | with_reducible refine getD_kept ?_ ?_
    | with_reducible refine ite_kept ?_ ?_ | with_reducible refine iteP_kept ?_ ?_
    | with_reducible refine iteO_kept ?_ ?_ | simp only [Kept.frame_iff, and_self, true_or, or_true]
    | with_reducible refine Kept.next ?_ | with_reducible exact Kept.fault | with_reducible exact Kept.refused
    | with_reducible intro _ | dsimp only | split)


theorem State.copyPage_kept {s : State} {fn : Nat} {run : MigRun} {upset : Nat}
    (hH : ∀ x ∈ ([.mem, .fns, .egress, .lanes, .mctp, .armed, .block .mem, .block .reef, .block .jl, .block .sec, .block .hbr] : List Portion), H x = false)
    (hk0 : Kept pk wq H z0 s) : Kept pk wq H z0 (State.copyPage s fn run upset) := by
  unfold State.copyPage
  repeat' (first
    | with_reducible assumption | exact held_sub hH rfl | exact held_one hH rfl | exact fldOk rfl
    | with_reducible refine State.portDownRecord_kept ?_ ?_ | with_reducible refine State.migStop_kept ?_ ?_
    | with_reducible refine State.copyPage.move_kept ?_ ?_ | with_reducible refine ite_kept ?_ ?_
    | with_reducible intro _ | dsimp only | split)

theorem State.ingestPage_kept {s : State} {fn : Nat} {run : MigRun} {ans : Answer}
    (hH : ∀ x ∈ ([.mem, .fns, .egress, .lanes, .mctp, .armed, .block .mem, .block .reef, .block .jl, .block .sec, .block .hbr] : List Portion), H x = false)
    (hk0 : Kept pk wq H z0 s) : Kept pk wq H z0 (State.ingestPage s fn run ans) := by
  unfold State.ingestPage
  repeat' (first
    | with_reducible assumption | exact held_sub hH rfl | exact held_one hH rfl | exact fldOk rfl
    | with_reducible refine State.straitOffer_kept ?_ ?_ | with_reducible refine State.putFrame_kept ?_ ?_
    | with_reducible refine State.zeroFrame_kept ?_ ?_ | with_reducible refine State.noteYields_kept ?_ ?_
    | with_reducible refine State.spoilFrame_kept ?_ | with_reducible refine State.slotWritten_kept ?_ ?_
    | with_reducible refine State.portDownRecord_kept ?_ ?_ | with_reducible refine State.hostAnswer_kept ?_ ?_
    | with_reducible refine State.ingestAsk_kept ?_ ?_ | with_reducible refine State.pageSettled_kept ?_ ?_
    | with_reducible refine State.pageTaken_kept ?_ ?_ | with_reducible refine State.migStop_kept ?_ ?_
    | with_reducible refine getD_kept ?_ ?_ | with_reducible refine ite_kept ?_ ?_
    | with_reducible refine State.hostAnswer_kept' (by with_reducible assumption) ?_ ?_ | with_reducible intro _
    | dsimp only | split)

theorem execMigPageStart_kept {fn : Nat} {upset : Nat} {ans : Answer} {s : State}
    (hH : ∀ x ∈ ([.mem, .fns, .egress, .lanes, .mctp, .armed, .block .mem, .block .reef, .block .jl, .block .sec, .block .hbr] : List Portion), H x = false)
    (hk0 : Kept pk wq H z0 s) : Kept.Outcome pk wq H z0 (execMigPageStart fn upset ans s) := by
  unfold execMigPageStart
  repeat' (first
    | with_reducible assumption | exact held_sub hH rfl | exact held_one hH rfl | exact fldOk rfl
    | with_reducible refine State.modPort_kept ?_ | with_reducible refine State.demoteStart_kept ?_ ?_
    | with_reducible refine State.promoteStart_kept ?_ ?_ | with_reducible refine State.copyPage_kept ?_ ?_
    | with_reducible refine State.ingestPage_kept ?_ ?_ | with_reducible refine foldl_kept ?_ ?_
    | with_reducible refine ite_kept ?_ ?_ | with_reducible refine iteP_kept ?_ ?_
    | with_reducible refine iteO_kept ?_ ?_ | with_reducible refine foldlP_kept ?_ ?_
    | with_reducible refine foldlP_kept' (by with_reducible assumption) ?_ ?_
    | simp only [Kept.frame_iff, and_self, true_or, or_true] | with_reducible refine Kept.next ?_
    | with_reducible exact Kept.fault | with_reducible intro _ | dsimp only | split)

theorem State.demoteAbandon_kept {s : State} {port : Nat} {m : PageMove} {slot : Nat} {stop : Option Status}
    (hH : ∀ x ∈ ([.fns, .block .mem, .block .sec] : List Portion), H x = false) (hk0 : Kept pk wq H z0 s) : Kept pk wq
    H z0 (State.demoteAbandon s port m slot stop) := by
  unfold State.demoteAbandon
  repeat' (first
    | with_reducible assumption | exact held_sub hH rfl | exact held_one hH rfl | exact fldOk rfl
    | with_reducible refine State.slotSub_kept ?_ ?_ | with_reducible refine State.frameLeft_kept ?_ ?_
    | with_reducible refine State.portNext_kept ?_ | with_reducible refine State.pageSettled_kept ?_ ?_
    | with_reducible refine State.migStop_kept ?_ ?_ | with_reducible intro _ | dsimp only | split)

theorem State.demotePage_kept {s : State} {port : Nat} {slot : Nat} {m : PageMove} {pg : Page}
    (hH : ∀ x ∈ ([.mem, .fns, .lanes, .block .mem, .block .reef, .block .sec] : List Portion), H x = false)
    (hk0 : Kept pk wq H z0 s) : Kept pk wq H z0 (State.demotePage s port slot m pg) := by
  unfold State.demotePage
  repeat' (first
    | with_reducible assumption | exact held_sub hH rfl | exact held_one hH rfl | exact fldOk rfl
    | with_reducible refine State.modPage_kept ?_ ?_ | with_reducible refine State.copyFrame_kept ?_ ?_
    | with_reducible refine State.slotWritten_kept ?_ ?_ | with_reducible refine State.freeFrame_kept ?_ ?_
    | with_reducible refine State.portNext_kept ?_ | with_reducible refine State.pageSettled_kept ?_ ?_
    | simp only [Kept.frame_iff, and_self, true_or, or_true] | with_reducible intro _ | dsimp only | split)

theorem execDemotePageCopied_kept {port : Nat} {upset : Nat} {s : State}
    (hH : ∀ x ∈ ([.mem, .fns, .egress, .lanes, .mctp, .armed, .block .mem, .block .reef, .block .jl, .block .sec, .block .hbr] : List Portion), H x = false)
    (hk0 : Kept pk wq H z0 s) : Kept.Outcome pk wq H z0 (execDemotePageCopied port upset s) := by
  unfold execDemotePageCopied
  repeat' (first
    | with_reducible assumption | exact held_sub hH rfl | exact held_one hH rfl | exact fldOk rfl
    | with_reducible refine State.addUpset_kept ?_ | with_reducible refine State.readWhole_kept ?_ ?_
    | with_reducible refine State.portDownRecord_kept ?_ ?_ | with_reducible refine State.demoteAbandon_kept ?_ ?_
    | with_reducible refine State.demotePage_kept ?_ ?_ | with_reducible refine getD_kept ?_ ?_
    | with_reducible refine mapFst_kept ?_ | with_reducible refine ite_kept ?_ ?_
    | with_reducible refine iteO_kept ?_ ?_
    | with_reducible refine State.readWhole_kept' (by with_reducible assumption) ?_ ?_
    | with_reducible refine Kept.next ?_ | with_reducible intro _ | dsimp only | split)

theorem State.promoteFail_kept {s : State} {port : Nat} {m : PageMove} {st : Status}
    (hH : ∀ x ∈ ([.mem, .fns, .egress, .lanes, .mctp, .armed, .block .img, .block .mem, .block .reef, .block .jl, .block .hbr] : List Portion), H x = false)
    (hk0 : Kept pk wq H z0 s) : Kept pk wq H z0 (State.promoteFail s port m st) := by
  unfold State.promoteFail
  repeat' (first
    | with_reducible assumption | exact held_sub hH rfl | exact held_one hH rfl | exact fldOk rfl
    | with_reducible refine State.modPage_kept ?_ ?_ | with_reducible refine State.frameLeft_kept ?_ ?_
    | with_reducible refine State.retryHeld_kept ?_ ?_ | with_reducible refine State.dropHeld_kept ?_ ?_
    | with_reducible refine State.portNext_kept ?_ | with_reducible refine State.migStop_kept ?_ ?_
    | with_reducible refine ite_kept ?_ ?_ | simp only [Kept.frame_iff, and_self, true_or, or_true]
    | with_reducible intro _ | dsimp only | split)

theorem State.promotePage_kept {s : State} {port : Nat} {m : PageMove} {pg : Page}
    (hH : ∀ x ∈ ([.mem, .fns, .egress, .lanes, .mctp, .armed, .block .img, .block .mem, .block .reef, .block .jl, .block .sec, .block .hbr] : List Portion), H x = false)
    (hk0 : Kept pk wq H z0 s) : Kept pk wq H z0 (State.promotePage s port m pg) := by
  unfold State.promotePage
  repeat' (first
    | with_reducible assumption | exact held_sub hH rfl | exact held_one hH rfl | exact fldOk rfl
    | with_reducible refine State.modPage_kept ?_ ?_ | with_reducible refine State.copyFrame_kept ?_ ?_
    | with_reducible refine State.freeFrame_kept ?_ ?_ | with_reducible refine State.retryHeld_kept ?_ ?_
    | with_reducible refine State.portNext_kept ?_ | with_reducible refine State.pageSettled_kept ?_ ?_
    | with_reducible refine ite_kept ?_ ?_ | simp only [Kept.frame_iff, and_self, true_or, or_true]
    | with_reducible intro _ | dsimp only | split)

theorem execPromotePageDone_kept {port : Nat} {upset : Nat} {s : State}
    (hH : ∀ x ∈ ([.mem, .fns, .egress, .lanes, .mctp, .armed, .block .img, .block .mem, .block .reef, .block .jl, .block .sec, .block .hbr] : List Portion), H x = false)
    (hk0 : Kept pk wq H z0 s) : Kept.Outcome pk wq H z0 (execPromotePageDone port upset s) := by
  unfold execPromotePageDone
  repeat' (first
    | with_reducible assumption | exact held_sub hH rfl | exact held_one hH rfl | exact fldOk rfl
    | with_reducible refine State.unserved_kept ?_ | with_reducible refine State.addUpset_kept ?_
    | with_reducible refine State.readWhole_kept ?_ ?_ | with_reducible refine State.portDownRecord_kept ?_ ?_
    | with_reducible refine State.promoteFail_kept ?_ ?_ | with_reducible refine State.promotePage_kept ?_ ?_
    | with_reducible refine ite_kept ?_ ?_ | with_reducible refine iteO_kept ?_ ?_
    | with_reducible refine State.readWhole_kept' (by with_reducible assumption) ?_ ?_
    | with_reducible refine Kept.next ?_ | with_reducible intro _ | dsimp only | split)

theorem State.manifestAsk_kept {s : State} {fn : Nat} {r : MigRun}
    (hH : ∀ x ∈ ([.fns, .egress, .mctp, .armed, .block .jl, .block .hbr] : List Portion), H x = false)
    (hk0 : Kept pk wq H z0 s) : Kept pk wq H z0 (State.manifestAsk s fn r) := by
  unfold State.manifestAsk
  repeat' (first
    | with_reducible assumption | exact held_sub hH rfl | exact held_one hH rfl | exact fldOk rfl
    | with_reducible refine State.journal_kept ?_ ?_ | with_reducible refine State.modRun_kept ?_ ?_
    | simp only [Kept.frame_iff, and_self, true_or, or_true] | with_reducible intro _ | dsimp only | split)

theorem State.migFinish_kept {s : State} {fn : Nat} {r : MigRun} {st : Status}
    (hH : ∀ x ∈ ([.fns, .queues, .egress, .lanes, .armed, .block .mem, .block .jl, .block .svc, .block .sec] : List Portion), H x = false)
    (hk0 : Kept pk wq H z0 s) : Kept pk wq H z0 (State.migFinish s fn r st) := by
  unfold State.migFinish
  repeat' (first
    | with_reducible assumption | exact held_sub hH rfl | exact held_one hH rfl | exact fldOk rfl
    | with_reducible refine State.hostAnswer_kept ?_ ?_ | with_reducible refine State.migStat_kept ?_ ?_
    | with_reducible refine State.modMig_kept ?_ ?_ | with_reducible refine State.migEnd_kept ?_ ?_
    | with_reducible refine State.removeSegment_kept ?_ ?_ | with_reducible refine State.copyPage.done_kept ?_ ?_
    | with_reducible refine ite_kept ?_ ?_
    | with_reducible refine State.hostAnswer_kept' (by with_reducible assumption) ?_ ?_
    | simp only [Kept.frame_iff, and_self, true_or, or_true] | with_reducible intro _ | dsimp only | split)

theorem execMigRequestComplete_kept {fn : Nat} {s : State}
    (hH : ∀ x ∈ ([.fns, .queues, .egress, .lanes, .mctp, .armed, .block .mem, .block .jl, .block .svc, .block .sec, .block .hbr] : List Portion), H x = false)
    (hk0 : Kept pk wq H z0 s) : Kept.Outcome pk wq H z0 (execMigRequestComplete fn s) := by
  unfold execMigRequestComplete
  repeat' (first
    | with_reducible assumption | exact held_sub hH rfl | exact held_one hH rfl | exact fldOk rfl
    | with_reducible refine State.migStat_kept ?_ ?_ | with_reducible refine State.modMig_kept ?_ ?_
    | with_reducible refine State.migEnd_kept ?_ ?_ | with_reducible refine State.manifestAsk_kept ?_ ?_
    | with_reducible refine State.migFinish_kept ?_ ?_ | with_reducible refine ite_kept ?_ ?_
    | with_reducible refine iteO_kept ?_ ?_ | simp only [Kept.frame_iff, and_self, true_or, or_true]
    | with_reducible refine Kept.next ?_ | with_reducible intro _ | dsimp only | split)

theorem execXlateLookup_kept {fn : Nat} {w : Word} {s : State}
    (hH : ∀ x ∈ ([.fns, .block .mem] : List Portion), H x = false) (hk0 : Kept pk wq H z0 s) : Kept.Outcome pk wq H z0
    (execXlateLookup fn w s) := by
  unfold execXlateLookup
  repeat' (first
    | with_reducible assumption | exact held_sub hH rfl | exact held_one hH rfl | exact fldOk rfl
    | exact .inl (fun _ => rfl) | exact .inr (held_one hH rfl)
    | exact .inl (fun x => by dsimp only; repeat' split <;> rfl) | exact wordOk_zero rfl | exact wordOk_whole rfl
    | with_reducible refine State.setReg_kept ?_ ?_ ?_ | with_reducible refine State.writeReg_kept ?_ ?_
    | with_reducible refine State.modFn_kept ?_ ?_ ?_ | with_reducible refine ite_kept ?_ ?_
    | with_reducible refine iteO_kept ?_ ?_ | simp only [Kept.frame_iff, and_self, true_or, or_true]
    | with_reducible refine Kept.next ?_ | with_reducible intro _ | dsimp only | split)

theorem State.lookupAnswer_kept {s : State} {fn : Nat} (hH : ∀ x ∈ ([.fns, .block .mem] : List Portion), H x = false)
    (hk0 : Kept pk wq H z0 s) : Kept pk wq H z0 (State.lookupAnswer s fn) := by
  unfold State.lookupAnswer
  repeat' (first
    | with_reducible assumption | exact held_sub hH rfl | exact held_one hH rfl | exact fldOk rfl
    | exact .inl (fun _ => rfl) | exact .inr (held_one hH rfl)
    | exact .inl (fun x => by dsimp only; repeat' split <;> rfl) | with_reducible refine State.setFld_kept ?_ ?_ ?_
    | with_reducible refine State.modFn_kept ?_ ?_ ?_ | with_reducible refine ite_kept ?_ ?_
    | simp only [Kept.frame_iff, and_self, true_or, or_true] | with_reducible intro _ | dsimp only | split)

theorem execXlateLookupDone_kept {fn : Nat} {s : State} (hH : ∀ x ∈ ([.fns, .block .mem] : List Portion), H x = false)
    (hk0 : Kept pk wq H z0 s) : Kept.Outcome pk wq H z0 (execXlateLookupDone fn s) := by
  unfold execXlateLookupDone
  repeat' (first
    | with_reducible assumption | exact held_sub hH rfl | exact held_one hH rfl | exact fldOk rfl
    | with_reducible refine State.lookupAnswer_kept ?_ ?_ | with_reducible refine ite_kept ?_ ?_
    | with_reducible refine iteO_kept ?_ ?_ | with_reducible refine Kept.next ?_ | with_reducible intro _ | dsimp only
    | split)

end Sys2Proof.Machine
end

