-- ==== Sys2Proof/Laws/KeptStepNext.lean ====
section
/-! SUPPORT. What the operations of StepNext.lean keep. -/

namespace Sys2Proof.Machine
open Sys2Proof

variable {pk : Package} {wq : List Instr} {H : Portion → Bool} {z0 : State}

theorem State.jobApply_kept {s : State} {x : Nat} {action : Nat} {scale : Nat} {cause : Nat} {st : Status}
    (hH : ∀ x ∈ ([.jobs, .egress, .armed, .block .jl, .block .red] : List Portion), H x = false)
    (hk0 : Kept pk wq H z0 s) : Kept pk wq H z0 (State.jobApply s x action scale cause st) := by
  unfold State.jobApply
  repeat' (first
    | with_reducible assumption | exact held_sub hH rfl | exact held_one hH rfl | exact fldOk rfl
    | with_reducible refine State.setFld_kept ?_ ?_ ?_ | with_reducible refine State.satFld_kept ?_ ?_ ?_
    | with_reducible refine State.fnEvent_kept ?_ ?_ ?_ ?_ | with_reducible refine State.modJob_kept ?_ ?_
    | with_reducible refine State.jobStat_kept ?_ ?_ | with_reducible refine ite_kept ?_ ?_
    | simp only [Kept.frame_iff, and_self, true_or, or_true] | with_reducible intro _ | dsimp only | split)

theorem State.checkpointStart_kept {s : State} {fn : Nat} {v : StepSvc}
    (hH : ∀ x ∈ ([.mem, .fns, .egress, .lanes, .mctp, .armed, .block .mem, .block .reef, .block .jl, .block .hbr] : List Portion), H x = false)
    (hk0 : Kept pk wq H z0 s) : Kept pk wq H z0 (State.checkpointStart s fn v).1 := by
  unfold State.checkpointStart
  repeat' (first
    | with_reducible assumption | exact held_sub hH rfl | exact held_one hH rfl | exact fldOk rfl
    | exact .inl (fun _ => rfl) | exact .inr (held_one hH rfl)
    | exact .inl (fun x => by dsimp only; repeat' split <;> rfl) | with_reducible refine State.modFn_kept ?_ ?_ ?_
    | with_reducible refine State.devRead_kept ?_ ?_ | with_reducible refine State.modStep_kept ?_ ?_
    | with_reducible refine State.migFeed_kept ?_ ?_ | with_reducible refine mapFst_kept ?_
    | with_reducible refine ite_kept ?_ ?_ | with_reducible refine iteP_kept ?_ ?_
    | with_reducible refine State.devRead_kept' (by with_reducible assumption) ?_ ?_
    | simp only [Kept.frame_iff, and_self, true_or, or_true] | with_reducible intro _ | dsimp only | split)
theorem State.checkpointStart_kept' {s : State} {fn : Nat} {v : StepSvc} {t z}
    (e : State.checkpointStart s fn v = (t, z))
    (hH : ∀ x ∈ ([.mem, .fns, .egress, .lanes, .mctp, .armed, .block .mem, .block .reef, .block .jl, .block .hbr] : List Portion), H x = false)
    (hk0 : Kept pk wq H z0 s) : Kept pk wq H z0 t := by
  have k : Kept pk wq H z0 (State.checkpointStart s fn v).1 := State.checkpointStart_kept hH hk0
  rw [e] at k; exact k

theorem State.stepNext_kept {s : State} {fn : Nat} {outcome : Nat} {st : Status} {t : Ticket} {scale : Nat}
    {consume : Bool}
    (hH : ∀ x ∈ ([.mem, .fns, .optim, .jobs, .egress, .lanes, .mctp, .armed, .block .mem, .block .pipe, .block .reef, .block .jl, .block .red, .block .svc, .block .hbr] : List Portion), H x = false)
    (hk0 : Kept pk wq H z0 s) : Kept pk wq H z0 (State.stepNext s fn outcome st t scale consume) := by
  unfold State.stepNext
  repeat' (first
    | with_reducible assumption | exact held_sub hH rfl | exact held_one hH rfl | exact fldOk rfl
    | with_reducible refine State.setFld_kept ?_ ?_ ?_ | with_reducible refine State.modStep_kept ?_ ?_
    | with_reducible refine State.stepStat_kept ?_ ?_ | with_reducible refine State.attemptStart_kept ?_ ?_
    | with_reducible refine State.checkpointStart_kept ?_ ?_ | with_reducible refine ite_kept ?_ ?_
    | with_reducible refine State.checkpointStart_kept' (by with_reducible assumption) ?_ ?_
    | simp only [Kept.frame_iff, and_self, true_or, or_true] | with_reducible intro _ | dsimp only | split)

theorem State.stepEndsAs_kept {s : State} {fn : Nat} {action : Nat} {outcome : Nat} {st : Status} {scale : Nat}
    (hH : ∀ x ∈ ([.mem, .islets, .fns, .optim, .queues, .jobs, .egress, .gov, .lanes, .mctp, .armed, .block .isl, .block .mem, .block .pipe, .block .reef, .block .jl, .block .red, .block .svc, .block .hbr] : List Portion), H x = false)
    (hk0 : Kept pk wq H z0 s) : Kept pk wq H z0 (State.stepEndsAs s fn action outcome st scale) := by
  unfold State.stepEndsAs
  repeat' (first
    | with_reducible assumption | exact held_sub hH rfl | exact held_one hH rfl | exact fldOk rfl
    | with_reducible refine State.stagesEnd_kept ?_ ?_ | with_reducible refine State.stepEnding_kept ?_ ?_
    | with_reducible refine State.stepNext_kept ?_ ?_ | with_reducible intro _ | dsimp only | split)

theorem State.jobsApplied_kept {s : State} {fn : Nat}
    (hH : ∀ x ∈ ([.mem, .islets, .fns, .optim, .queues, .jobs, .egress, .gov, .lanes, .mctp, .armed, .block .isl, .block .mem, .block .pipe, .block .reef, .block .jl, .block .red, .block .svc, .block .hbr] : List Portion), H x = false)
    (hk0 : Kept pk wq H z0 s) : Kept pk wq H z0 (State.jobsApplied s fn).1 := by
  unfold State.jobsApplied
  repeat' (first
    | with_reducible assumption | exact held_sub hH rfl | exact held_one hH rfl | exact fldOk rfl
    | with_reducible refine State.stagesEnd_kept ?_ ?_ | with_reducible refine State.modStep_kept ?_ ?_
    | with_reducible refine State.stepStat_kept ?_ ?_ | with_reducible refine State.stepEndsAs_kept ?_ ?_
    | with_reducible refine getD_kept ?_ ?_ | with_reducible refine ite_kept ?_ ?_
    | with_reducible refine iteP_kept ?_ ?_ | simp only [Kept.frame_iff, and_self, true_or, or_true]
    | with_reducible intro _ | dsimp only | split)
theorem State.jobsApplied_kept' {s : State} {fn : Nat} {t z} (e : State.jobsApplied s fn = (t, z))
    (hH : ∀ x ∈ ([.mem, .islets, .fns, .optim, .queues, .jobs, .egress, .gov, .lanes, .mctp, .armed, .block .isl, .block .mem, .block .pipe, .block .reef, .block .jl, .block .red, .block .svc, .block .hbr] : List Portion), H x = false)
    (hk0 : Kept pk wq H z0 s) : Kept pk wq H z0 t := by
  have k : Kept pk wq H z0 (State.jobsApplied s fn).1 := State.jobsApplied_kept hH hk0
  rw [e] at k; exact k

end Sys2Proof.Machine
end

