-- ==== Sys2Proof/Laws/KeptOptimiser.lean ====
section
/-! SUPPORT. What the operations of Optimiser.lean keep. -/

namespace Sys2Proof.Machine
open Sys2Proof

variable {pk : Package} {wq : List Instr} {H : Portion → Bool} {z0 : State}

theorem State.optStat_kept {s : State} {fn : Nat} (hH : ∀ x ∈ ([.block .opt] : List Portion), H x = false)
    (hk0 : Kept pk wq H z0 s) : Kept pk wq H z0 (State.optStat s fn) := by
  unfold State.optStat
  repeat' (first
    | with_reducible assumption | exact held_sub hH rfl | exact held_one hH rfl | exact fldOk rfl
    | with_reducible refine State.setFld_kept ?_ ?_ ?_ | with_reducible intro _ | dsimp only | split)

theorem State.setShard_kept {s : State} {fn : Nat} {i : Nat} {v : Nat}
    (hH : ∀ x ∈ ([.fns, .optim, .block .opt] : List Portion), H x = false) (hk0 : Kept pk wq H z0 s) : Kept pk wq H z0
    (State.setShard s fn i v) := by
  unfold State.setShard
  repeat' (first
    | with_reducible assumption | exact held_sub hH rfl | exact held_one hH rfl | exact fldOk rfl
    | with_reducible refine State.modOpt_kept ?_ ?_ | with_reducible refine State.optStat_kept ?_ ?_
    | simp only [Kept.frame_iff, and_self, true_or, or_true] | with_reducible intro _ | dsimp only | split)

theorem State.peerWrite_kept {s : State} {fn : Nat} {dst : Nat} {dfn : Nat} {addr : Nat} {bs : List Byte}
    (hH : ∀ x ∈ ([.egress, .lanes, .armed, .block .jl] : List Portion), H x = false) (hk0 : Kept pk wq H z0 s) : Kept
    pk wq H z0 (State.peerWrite s fn dst dfn addr bs) := by
  unfold State.peerWrite
  repeat' (first
    | with_reducible assumption | exact held_sub hH rfl | exact held_one hH rfl | exact fldOk rfl
    | with_reducible refine State.straitOffer_kept ?_ ?_ | with_reducible refine State.sendTo_kept ?_ ?_
    | with_reducible refine foldl_kept ?_ ?_ | with_reducible refine ite_kept ?_ ?_
    | with_reducible refine iteP_kept ?_ ?_ | with_reducible refine foldlP_kept ?_ ?_
    | with_reducible refine foldlP_kept' (by with_reducible assumption) ?_ ?_
    | simp only [Kept.frame_iff, and_self, true_or, or_true] | with_reducible intro _ | dsimp only | split)

theorem State.normOpen_kept {s : State} {fn : Nat} (hH : ∀ x ∈ ([.fns, .optim] : List Portion), H x = false)
    (hk0 : Kept pk wq H z0 s) : Kept pk wq H z0 (State.normOpen s fn) := by
  unfold State.normOpen
  repeat' (first
    | with_reducible assumption | exact held_sub hH rfl | exact held_one hH rfl | exact fldOk rfl
    | with_reducible refine State.modOpt_kept ?_ ?_ | simp only [Kept.frame_iff, and_self, true_or, or_true]
    | with_reducible intro _ | dsimp only | split)

theorem State.normStart_kept {s : State} {fn : Nat}
    (hH : ∀ x ∈ ([.mem, .islets, .fns, .optim, .queues, .jobs, .egress, .gov, .lanes, .mctp, .armed, .block .isl, .block .mem, .block .pipe, .block .reef, .block .jl, .block .red, .block .opt, .block .svc, .block .hbr] : List Portion), H x = false)
    (hk0 : Kept pk wq H z0 s) : Kept pk wq H z0 (State.normStart s fn) := by
  unfold State.normStart
  repeat' (first
    | with_reducible assumption | exact held_sub hH rfl | exact held_one hH rfl | exact fldOk rfl
    | with_reducible refine State.setFld_kept ?_ ?_ ?_ | with_reducible refine State.devWrite_kept ?_ ?_
    | with_reducible refine State.modOpt_kept ?_ ?_ | with_reducible refine State.optStop_kept ?_ ?_
    | with_reducible refine State.peerWrite_kept ?_ ?_ | with_reducible refine State.normOpen_kept ?_ ?_
    | with_reducible refine foldl_kept ?_ ?_ | with_reducible refine getD_kept ?_ ?_
    | with_reducible refine ite_kept ?_ ?_ | with_reducible refine iteP_kept ?_ ?_
    | with_reducible refine foldlP_kept ?_ ?_
    | with_reducible refine State.devWrite_kept' (by with_reducible assumption) ?_ ?_
    | with_reducible refine foldlP_kept' (by with_reducible assumption) ?_ ?_
    | simp only [Kept.frame_iff, and_self, true_or, or_true] | with_reducible intro _ | dsimp only | split)

theorem State.optCommitted_kept {s : State} {fn : Nat} {x : Nat}
    (hH : ∀ x ∈ ([.mem, .islets, .fns, .optim, .queues, .jobs, .egress, .gov, .lanes, .mctp, .armed, .block .isl, .block .mem, .block .pipe, .block .reef, .block .jl, .block .red, .block .opt, .block .svc, .block .hbr] : List Portion), H x = false)
    (hk0 : Kept pk wq H z0 s) : Kept pk wq H z0 (State.optCommitted s fn x) := by
  unfold State.optCommitted
  repeat' (first
    | with_reducible assumption | exact held_sub hH rfl | exact held_one hH rfl | exact fldOk rfl
    | with_reducible refine State.modOpt_kept ?_ ?_ | with_reducible refine State.normStart_kept ?_ ?_
    | with_reducible refine ite_kept ?_ ?_ | simp only [Kept.frame_iff, and_self, true_or, or_true]
    | with_reducible intro _ | dsimp only | split)

theorem State.stepTakes_kept {s : State} {fn : Nat}
    (hH : ∀ x ∈ ([.mem, .fns, .optim, .jobs, .egress, .lanes, .mctp, .armed, .block .mem, .block .pipe, .block .reef, .block .jl, .block .red, .block .svc, .block .hbr] : List Portion), H x = false)
    (hk0 : Kept pk wq H z0 s) : Kept pk wq H z0 (State.stepTakes s fn) := by
  unfold State.stepTakes
  repeat' (first
    | with_reducible assumption | exact held_sub hH rfl | exact held_one hH rfl | exact fldOk rfl
    | with_reducible refine State.modOpt_kept ?_ ?_ | with_reducible refine State.stepEnding_kept ?_ ?_
    | with_reducible refine State.stepNext_kept ?_ ?_ | with_reducible refine ite_kept ?_ ?_
    | simp only [Kept.frame_iff, and_self, true_or, or_true] | with_reducible intro _ | dsimp only | split)

theorem State.optDone_kept {s : State} {fn : Nat} {t : Ticket}
    (hH : ∀ x ∈ ([.mem, .fns, .optim, .jobs, .egress, .lanes, .mctp, .armed, .block .mem, .block .pipe, .block .reef, .block .jl, .block .red, .block .opt, .block .svc, .block .hbr] : List Portion), H x = false)
    (hk0 : Kept pk wq H z0 s) : Kept pk wq H z0 (State.optDone s fn t) := by
  unfold State.optDone
  repeat' (first
    | with_reducible assumption | exact held_sub hH rfl | exact held_one hH rfl | exact fldOk rfl
    | exact wordOk_zero rfl | exact wordOk_whole rfl | with_reducible refine State.setReg_kept ?_ ?_ ?_
    | with_reducible refine State.setFld_kept ?_ ?_ ?_ | with_reducible refine State.fnEvent_kept ?_ ?_ ?_ ?_
    | with_reducible refine State.modOpt_kept ?_ ?_ | with_reducible refine State.attemptStart_kept ?_ ?_
    | with_reducible refine State.stepNext_kept ?_ ?_ | with_reducible refine State.optStat_kept ?_ ?_
    | with_reducible refine mapFst_kept ?_ | with_reducible refine ite_kept ?_ ?_
    | simp only [Kept.frame_iff, and_self, true_or, or_true] | with_reducible intro _ | dsimp only | split)

theorem State.readCommit_kept {s : State} {fn : Nat} {r : List Byte}
    (hH : ∀ x ∈ ([.mem, .fns, .egress, .lanes, .mctp, .armed, .block .mem, .block .reef, .block .jl, .block .hbr] : List Portion), H x = false)
    (hk0 : Kept pk wq H z0 s) : Kept pk wq H z0 (State.readCommit s fn r).1 := by
  unfold State.readCommit
  repeat' (first
    | with_reducible assumption | exact held_sub hH rfl | exact held_one hH rfl | exact fldOk rfl
    | with_reducible refine State.devRead_kept ?_ ?_ | with_reducible refine ite_kept ?_ ?_
    | with_reducible refine iteP_kept ?_ ?_
    | with_reducible refine State.devRead_kept' (by with_reducible assumption) ?_ ?_ | with_reducible intro _
    | dsimp only | split)
theorem State.readCommit_kept' {s : State} {fn : Nat} {r : List Byte} {t z} (e : State.readCommit s fn r = (t, z))
    (hH : ∀ x ∈ ([.mem, .fns, .egress, .lanes, .mctp, .armed, .block .mem, .block .reef, .block .jl, .block .hbr] : List Portion), H x = false)
    (hk0 : Kept pk wq H z0 s) : Kept pk wq H z0 t := by
  have k : Kept pk wq H z0 (State.readCommit s fn r).1 := State.readCommit_kept hH hk0
  rw [e] at k; exact k

theorem State.writeCommit_kept {s : State} {fn : Nat} {r : List Byte} {w : CommitWord}
    (hH : ∀ x ∈ ([.mem, .fns, .egress, .lanes, .mctp, .armed, .block .mem, .block .reef, .block .jl, .block .hbr] : List Portion), H x = false)
    (hk0 : Kept pk wq H z0 s) : Kept pk wq H z0 (State.writeCommit s fn r w).1 := by
  unfold State.writeCommit
  repeat' (first
    | with_reducible assumption | exact held_sub hH rfl | exact held_one hH rfl | exact fldOk rfl
    | with_reducible refine State.devWrite_kept ?_ ?_ | with_reducible refine iteP_kept ?_ ?_
    | with_reducible refine State.devWrite_kept' (by with_reducible assumption) ?_ ?_ | with_reducible intro _
    | dsimp only | split)
theorem State.writeCommit_kept' {s : State} {fn : Nat} {r : List Byte} {w : CommitWord} {t z}
    (e : State.writeCommit s fn r w = (t, z))
    (hH : ∀ x ∈ ([.mem, .fns, .egress, .lanes, .mctp, .armed, .block .mem, .block .reef, .block .jl, .block .hbr] : List Portion), H x = false)
    (hk0 : Kept pk wq H z0 s) : Kept pk wq H z0 t := by
  have k : Kept pk wq H z0 (State.writeCommit s fn r w).1 := State.writeCommit_kept hH hk0
  rw [e] at k; exact k

theorem State.rejectShards_kept {s : State} {fn : Nat} {t : Ticket}
    (hH : ∀ x ∈ ([.mem, .fns, .egress, .lanes, .mctp, .armed, .block .mem, .block .reef, .block .jl, .block .hbr] : List Portion), H x = false)
    (hk0 : Kept pk wq H z0 s) : Kept pk wq H z0 (State.rejectShards s fn t).1 := by
  unfold State.rejectShards
  repeat' (first
    | with_reducible assumption | exact held_sub hH rfl | exact held_one hH rfl | exact fldOk rfl
    | with_reducible refine State.readCommit_kept ?_ ?_ | with_reducible refine State.writeCommit_kept ?_ ?_
    | with_reducible refine foldl_kept ?_ ?_ | with_reducible refine ite_kept ?_ ?_
    | with_reducible refine iteP_kept ?_ ?_ | with_reducible refine foldlP_kept ?_ ?_
    | with_reducible refine State.readCommit_kept' (by with_reducible assumption) ?_ ?_
    | with_reducible refine State.writeCommit_kept' (by with_reducible assumption) ?_ ?_
    | with_reducible refine foldlP_kept' (by with_reducible assumption) ?_ ?_
    | simp only [Kept.frame_iff, and_self, true_or, or_true] | with_reducible intro _ | dsimp only | split)
theorem State.rejectShards_kept' {s : State} {fn : Nat} {t : Ticket} {u z} (e : State.rejectShards s fn t = (u, z))
    (hH : ∀ x ∈ ([.mem, .fns, .egress, .lanes, .mctp, .armed, .block .mem, .block .reef, .block .jl, .block .hbr] : List Portion), H x = false)
    (hk0 : Kept pk wq H z0 s) : Kept pk wq H z0 u := by
  have k : Kept pk wq H z0 (State.rejectShards s fn t).1 := State.rejectShards_kept hH hk0
  rw [e] at k; exact k

theorem State.optRelease_kept {s : State} {fn : Nat}
    (hH : ∀ x ∈ ([.fns, .optim, .actions, .lanes] : List Portion), H x = false) (hk0 : Kept pk wq H z0 s) : Kept pk wq
    H z0 (State.optRelease s fn) := by
  unfold State.optRelease
  repeat' (first
    | with_reducible assumption | exact held_sub hH rfl | exact held_one hH rfl | exact fldOk rfl
    | with_reducible refine State.modOpt_kept ?_ ?_ | with_reducible refine State.issueAction_kept ?_ ?_
    | with_reducible refine mapFst_kept ?_ | with_reducible refine ite_kept ?_ ?_
    | with_reducible refine State.issueAction_kept' (by with_reducible assumption) ?_ ?_
    | simp only [Kept.frame_iff, and_self, true_or, or_true] | with_reducible intro _ | dsimp only | split)

theorem State.optFail_kept {s : State} {fn : Nat}
    (hH : ∀ x ∈ ([.mem, .islets, .fns, .optim, .queues, .jobs, .egress, .gov, .lanes, .mctp, .armed, .block .isl, .block .mem, .block .pipe, .block .reef, .block .jl, .block .red, .block .opt, .block .svc, .block .hbr] : List Portion), H x = false)
    (hk0 : Kept pk wq H z0 s) : Kept pk wq H z0 (State.optFail s fn) := by
  unfold State.optFail
  repeat' (first
    | with_reducible assumption | exact held_sub hH rfl | exact held_one hH rfl | exact fldOk rfl
    | with_reducible refine State.setFld_kept ?_ ?_ ?_ | with_reducible refine State.modOpt_kept ?_ ?_
    | with_reducible refine State.attemptStart_kept ?_ ?_ | with_reducible refine State.jobApply_kept ?_ ?_
    | with_reducible refine State.stepEndsAs_kept ?_ ?_ | with_reducible refine foldl_kept ?_ ?_
    | with_reducible refine getD_kept ?_ ?_ | with_reducible refine ite_kept ?_ ?_
    | with_reducible refine iteP_kept ?_ ?_ | with_reducible refine foldlP_kept ?_ ?_
    | with_reducible refine foldlP_kept' (by with_reducible assumption) ?_ ?_
    | simp only [Kept.frame_iff, and_self, true_or, or_true] | with_reducible intro _ | dsimp only | split)

theorem State.readLr_kept {s : State} {fn : Nat} {u : Nat} {live : Bool}
    (hH : ∀ x ∈ ([.mem, .fns, .egress, .lanes, .mctp, .armed, .block .mem, .block .reef, .block .jl, .block .hbr] : List Portion), H x = false)
    (hk0 : Kept pk wq H z0 s) : Kept pk wq H z0 (State.readLr s fn u live).1 := by
  unfold State.readLr
  repeat' (first
    | with_reducible assumption | exact held_sub hH rfl | exact held_one hH rfl | exact fldOk rfl
    | with_reducible refine State.devRead_kept ?_ ?_ | with_reducible refine ite_kept ?_ ?_
    | with_reducible refine iteP_kept ?_ ?_
    | with_reducible refine State.devRead_kept' (by with_reducible assumption) ?_ ?_ | with_reducible intro _
    | dsimp only | split)
theorem State.readLr_kept' {s : State} {fn : Nat} {u : Nat} {live : Bool} {t z}
    (e : State.readLr s fn u live = (t, z))
    (hH : ∀ x ∈ ([.mem, .fns, .egress, .lanes, .mctp, .armed, .block .mem, .block .reef, .block .jl, .block .hbr] : List Portion), H x = false)
    (hk0 : Kept pk wq H z0 s) : Kept pk wq H z0 t := by
  have k : Kept pk wq H z0 (State.readLr s fn u live).1 := State.readLr_kept hH hk0
  rw [e] at k; exact k

theorem State.normRoom_kept {s : State} {fn : Nat}
    (hH : ∀ x ∈ ([.mem, .fns, .egress, .lanes, .mctp, .armed, .block .mem, .block .jl, .block .hbr] : List Portion), H x = false)
    (hk0 : Kept pk wq H z0 s) : Kept pk wq H z0 (State.normRoom s fn).1 := by
  unfold State.normRoom
  repeat' (first
    | with_reducible assumption | exact held_sub hH rfl | exact held_one hH rfl | exact fldOk rfl
    | with_reducible refine State.prepareWrite_kept ?_ ?_ | with_reducible refine foldl_kept ?_ ?_
    | with_reducible refine mapFst_kept ?_ | with_reducible refine ite_kept ?_ ?_
    | with_reducible refine iteP_kept ?_ ?_ | with_reducible refine foldlP_kept ?_ ?_
    | with_reducible refine State.prepareWrite_kept' (by with_reducible assumption) ?_ ?_
    | with_reducible refine foldlP_kept' (by with_reducible assumption) ?_ ?_ | with_reducible intro _ | dsimp only
    | split)
theorem State.normRoom_kept' {s : State} {fn : Nat} {t z} (e : State.normRoom s fn = (t, z))
    (hH : ∀ x ∈ ([.mem, .fns, .egress, .lanes, .mctp, .armed, .block .mem, .block .jl, .block .hbr] : List Portion), H x = false)
    (hk0 : Kept pk wq H z0 s) : Kept pk wq H z0 t := by
  have k : Kept pk wq H z0 (State.normRoom s fn).1 := State.normRoom_kept hH hk0
  rw [e] at k; exact k

theorem State.normDecision_kept {s : State} {fn : Nat}
    (hH : ∀ x ∈ ([.mem, .islets, .fns, .optim, .queues, .jobs, .egress, .actions, .gov, .lanes, .mctp, .armed, .block .isl, .block .mem, .block .pipe, .block .reef, .block .jl, .block .red, .block .opt, .block .svc, .block .hbr] : List Portion), H x = false)
    (hk0 : Kept pk wq H z0 s) : Kept pk wq H z0 (State.normDecision s fn) := by
  unfold State.normDecision
  repeat' (first
    | with_reducible assumption | exact held_sub hH rfl | exact held_one hH rfl | exact fldOk rfl
    | exact wordOk_zero rfl | exact wordOk_whole rfl | with_reducible refine State.setReg_kept ?_ ?_ ?_
    | with_reducible refine State.setFld_kept ?_ ?_ ?_ | with_reducible refine State.satFld_kept ?_ ?_ ?_
    | with_reducible refine State.devRead_kept ?_ ?_ | with_reducible refine State.devWrite_kept ?_ ?_
    | with_reducible refine State.modOpt_kept ?_ ?_ | with_reducible refine State.optStop_kept ?_ ?_
    | with_reducible refine State.optStat_kept ?_ ?_ | with_reducible refine State.optDone_kept ?_ ?_
    | with_reducible refine State.rejectShards_kept ?_ ?_ | with_reducible refine State.optRelease_kept ?_ ?_
    | with_reducible refine State.optFail_kept ?_ ?_ | with_reducible refine State.readLr_kept ?_ ?_
    | with_reducible refine foldl_kept ?_ ?_ | with_reducible refine ite_kept ?_ ?_
    | with_reducible refine iteP_kept ?_ ?_ | with_reducible refine foldlP_kept ?_ ?_
    | with_reducible refine State.devRead_kept' (by with_reducible assumption) ?_ ?_
    | with_reducible refine State.devWrite_kept' (by with_reducible assumption) ?_ ?_
    | with_reducible refine State.rejectShards_kept' (by with_reducible assumption) ?_ ?_
    | with_reducible refine State.readLr_kept' (by with_reducible assumption) ?_ ?_
    | with_reducible refine foldlP_kept' (by with_reducible assumption) ?_ ?_
    | simp only [Kept.frame_iff, and_self, true_or, or_true] | with_reducible intro _ | dsimp only | split)

theorem State.normDecides_kept {s : State} {fn : Nat}
    (hH : ∀ x ∈ ([.mem, .islets, .fns, .optim, .queues, .jobs, .egress, .actions, .gov, .lanes, .mctp, .armed, .block .isl, .block .mem, .block .pipe, .block .reef, .block .jl, .block .red, .block .opt, .block .svc, .block .hbr] : List Portion), H x = false)
    (hk0 : Kept pk wq H z0 s) : Kept pk wq H z0 (State.normDecides s fn) := by
  unfold State.normDecides
  repeat' (first
    | with_reducible assumption | exact held_sub hH rfl | exact held_one hH rfl | exact fldOk rfl
    | with_reducible refine State.modOpt_kept ?_ ?_ | with_reducible refine State.normRoom_kept ?_ ?_
    | with_reducible refine State.normDecision_kept ?_ ?_
    | with_reducible refine State.normRoom_kept' (by with_reducible assumption) ?_ ?_
    | simp only [Kept.frame_iff, and_self, true_or, or_true] | with_reducible intro _ | dsimp only | split)

theorem State.normNotice_kept {s : State} {fn : Nat} {q : Nat}
    (hH : ∀ x ∈ ([.fns, .optim] : List Portion), H x = false) (hk0 : Kept pk wq H z0 s) : Kept pk wq H z0
    (State.normNotice s fn q) := by
  unfold State.normNotice
  repeat' (first
    | with_reducible assumption | exact held_sub hH rfl | exact held_one hH rfl | exact fldOk rfl
    | with_reducible refine State.modOpt_kept ?_ ?_ | with_reducible refine ite_kept ?_ ?_
    | simp only [Kept.frame_iff, and_self, true_or, or_true] | with_reducible intro _ | dsimp only | split)

theorem execNormEntryAccepted_kept {fn : Nat} {q : Nat} {s : State}
    (hH : ∀ x ∈ ([.mem, .islets, .fns, .optim, .queues, .jobs, .egress, .actions, .gov, .lanes, .mctp, .armed, .block .isl, .block .mem, .block .pipe, .block .reef, .block .jl, .block .red, .block .opt, .block .svc, .block .hbr] : List Portion), H x = false)
    (hk0 : Kept pk wq H z0 s) : Kept.Outcome pk wq H z0 (execNormEntryAccepted fn q s) := by
  unfold execNormEntryAccepted
  repeat' (first
    | with_reducible assumption | exact held_sub hH rfl | exact held_one hH rfl | exact fldOk rfl
    | with_reducible refine State.normDecides_kept ?_ ?_ | with_reducible refine State.normNotice_kept ?_ ?_
    | with_reducible refine ite_kept ?_ ?_ | with_reducible refine iteO_kept ?_ ?_
    | with_reducible refine Kept.next ?_ | with_reducible intro _ | dsimp only | split)

theorem execNormTimeout_kept {fn : Nat} {s : State}
    (hH : ∀ x ∈ ([.mem, .islets, .fns, .optim, .queues, .jobs, .egress, .gov, .lanes, .mctp, .armed, .counts, .block .isl, .block .mem, .block .pipe, .block .reef, .block .jl, .block .red, .block .opt, .block .svc, .block .hbr] : List Portion), H x = false)
    (hk0 : Kept pk wq H z0 s) : Kept.Outcome pk wq H z0 (execNormTimeout fn s) := by
  unfold execNormTimeout
  repeat' (first
    | with_reducible assumption | exact held_sub hH rfl | exact held_one hH rfl | exact fldOk rfl
    | with_reducible refine State.reachCount_kept ?_ ?_ | with_reducible refine State.optStop_kept ?_ ?_
    | with_reducible refine ite_kept ?_ ?_ | with_reducible refine iteO_kept ?_ ?_
    | with_reducible refine Kept.next ?_ | with_reducible intro _ | dsimp only | split)

theorem State.shardFails_kept {s : State} {fn : Nat} {i : Nat} {st : Status}
    (hH : ∀ x ∈ ([.mem, .islets, .fns, .optim, .queues, .jobs, .egress, .gov, .lanes, .mctp, .armed, .block .isl, .block .mem, .block .pipe, .block .reef, .block .jl, .block .red, .block .opt, .block .svc, .block .hbr] : List Portion), H x = false)
    (hk0 : Kept pk wq H z0 s) : Kept pk wq H z0 (State.shardFails s fn i st) := by
  unfold State.shardFails
  repeat' (first
    | with_reducible assumption | exact held_sub hH rfl | exact held_one hH rfl | exact fldOk rfl
    | with_reducible refine State.optStop_kept ?_ ?_ | with_reducible refine State.setShard_kept ?_ ?_
    | with_reducible refine ite_kept ?_ ?_ | with_reducible intro _ | dsimp only | split)

theorem State.shardBegins_kept {s : State} {fn : Nat} {shard : Nat} {r : List Byte} {w : CommitWord}
    (hH : ∀ x ∈ ([.mem, .islets, .fns, .optim, .queues, .jobs, .egress, .gov, .lanes, .mctp, .armed, .block .isl, .block .mem, .block .pipe, .block .reef, .block .jl, .block .red, .block .opt, .block .svc, .block .hbr] : List Portion), H x = false)
    (hk0 : Kept pk wq H z0 s) : Kept pk wq H z0 (State.shardBegins s fn shard r w) := by
  unfold State.shardBegins
  repeat' (first
    | with_reducible assumption | exact held_sub hH rfl | exact held_one hH rfl | exact fldOk rfl
    | with_reducible refine State.modIslet_kept ?_ ?_ | with_reducible refine State.setShard_kept ?_ ?_
    | with_reducible refine State.writeCommit_kept ?_ ?_ | with_reducible refine State.shardFails_kept ?_ ?_
    | with_reducible refine State.writeCommit_kept' (by with_reducible assumption) ?_ ?_
    | simp only [Kept.frame_iff, and_self, true_or, or_true] | with_reducible intro _ | dsimp only | split)

theorem State.shardCurrent_kept {s : State} {fn : Nat} {shard : Nat} {t : Ticket}
    (hH : ∀ x ∈ ([.mem, .fns, .optim, .jobs, .egress, .lanes, .mctp, .armed, .block .mem, .block .pipe, .block .reef, .block .jl, .block .red, .block .opt, .block .svc, .block .hbr] : List Portion), H x = false)
    (hk0 : Kept pk wq H z0 s) : Kept pk wq H z0 (State.shardCurrent s fn shard t) := by
  unfold State.shardCurrent
  repeat' (first
    | with_reducible assumption | exact held_sub hH rfl | exact held_one hH rfl | exact fldOk rfl
    | with_reducible refine State.modOpt_kept ?_ ?_ | with_reducible refine State.setShard_kept ?_ ?_
    | with_reducible refine State.optDone_kept ?_ ?_ | with_reducible refine ite_kept ?_ ?_
    | simp only [Kept.frame_iff, and_self, true_or, or_true] | with_reducible intro _ | dsimp only | split)

theorem State.shardCommits_kept {s : State} {fn : Nat} {shard : Nat} {r : List Byte} {t : Ticket} {w : CommitWord}
    {slot : Nat}
    (hH : ∀ x ∈ ([.mem, .islets, .fns, .optim, .queues, .jobs, .egress, .gov, .lanes, .mctp, .armed, .block .isl, .block .mem, .block .pipe, .block .reef, .block .jl, .block .red, .block .opt, .block .svc, .block .hbr] : List Portion), H x = false)
    (hk0 : Kept pk wq H z0 s) : Kept pk wq H z0 (State.shardCommits s fn shard r t w slot) := by
  unfold State.shardCommits
  repeat' (first
    | with_reducible assumption | exact held_sub hH rfl | exact held_one hH rfl | exact fldOk rfl
    | with_reducible refine State.modIslet_kept ?_ ?_ | with_reducible refine State.shardTiles_kept ?_ ?_
    | with_reducible refine State.optFlags_kept ?_ ?_ | with_reducible refine State.freeWindow_kept ?_ ?_
    | with_reducible refine State.copyPage.done_kept ?_ ?_ | with_reducible refine State.writeCommit_kept ?_ ?_
    | with_reducible refine State.shardFails_kept ?_ ?_ | with_reducible refine State.shardCurrent_kept ?_ ?_
    | with_reducible refine ite_kept ?_ ?_
    | with_reducible refine State.shardTiles_kept' (by with_reducible assumption) ?_ ?_
    | with_reducible refine State.writeCommit_kept' (by with_reducible assumption) ?_ ?_
    | simp only [Kept.frame_iff, and_self, true_or, or_true] | with_reducible intro _ | dsimp only | split)

theorem State.shardRoom_kept {s : State} {fn : Nat} {r : List Byte} {slot : Nat}
    (hH : ∀ x ∈ ([.mem, .fns, .egress, .lanes, .mctp, .armed, .block .mem, .block .jl, .block .hbr] : List Portion), H x = false)
    (hk0 : Kept pk wq H z0 s) : Kept pk wq H z0 (State.shardRoom s fn r slot).1 := by
  unfold State.shardRoom
  repeat' (first
    | with_reducible assumption | exact held_sub hH rfl | exact held_one hH rfl | exact fldOk rfl
    | with_reducible refine State.prepareWrite_kept ?_ ?_ | with_reducible refine foldl_kept ?_ ?_
    | with_reducible refine mapFst_kept ?_ | with_reducible refine ite_kept ?_ ?_
    | with_reducible refine iteP_kept ?_ ?_ | with_reducible refine foldlP_kept ?_ ?_
    | with_reducible refine State.prepareWrite_kept' (by with_reducible assumption) ?_ ?_
    | with_reducible refine foldlP_kept' (by with_reducible assumption) ?_ ?_ | with_reducible intro _ | dsimp only
    | split)
theorem State.shardRoom_kept' {s : State} {fn : Nat} {r : List Byte} {slot : Nat} {t z}
    (e : State.shardRoom s fn r slot = (t, z))
    (hH : ∀ x ∈ ([.mem, .fns, .egress, .lanes, .mctp, .armed, .block .mem, .block .jl, .block .hbr] : List Portion), H x = false)
    (hk0 : Kept pk wq H z0 s) : Kept pk wq H z0 t := by
  have k : Kept pk wq H z0 (State.shardRoom s fn r slot).1 := State.shardRoom_kept hH hk0
  rw [e] at k; exact k

theorem execShardCommit_kept {fn : Nat} {shard : Nat} {s : State}
    (hH : ∀ x ∈ ([.mem, .islets, .fns, .optim, .queues, .jobs, .egress, .gov, .lanes, .mctp, .armed, .block .isl, .block .mem, .block .pipe, .block .reef, .block .jl, .block .red, .block .opt, .block .svc, .block .hbr] : List Portion), H x = false)
    (hk0 : Kept pk wq H z0 s) : Kept.Outcome pk wq H z0 (execShardCommit fn shard s) := by
  unfold execShardCommit
  repeat' (first
    | with_reducible assumption | exact held_sub hH rfl | exact held_one hH rfl | exact fldOk rfl
    | with_reducible refine State.readCommit_kept ?_ ?_ | with_reducible refine State.shardFails_kept ?_ ?_
    | with_reducible refine State.shardCommits_kept ?_ ?_ | with_reducible refine State.shardRoom_kept ?_ ?_
    | with_reducible refine ite_kept ?_ ?_ | with_reducible refine iteO_kept ?_ ?_
    | with_reducible refine State.readCommit_kept' (by with_reducible assumption) ?_ ?_
    | with_reducible refine State.shardRoom_kept' (by with_reducible assumption) ?_ ?_
    | with_reducible refine Kept.next ?_ | with_reducible intro _ | dsimp only | split)

theorem State.optTorn_kept {s : State} {fn : Nat}
    (hH : ∀ x ∈ ([.mem, .islets, .fns, .optim, .queues, .jobs, .egress, .gov, .lanes, .mctp, .armed, .block .isl, .block .mem, .block .pipe, .block .reef, .block .jl, .block .red, .block .opt, .block .svc, .block .hbr] : List Portion), H x = false)
    (hk0 : Kept pk wq H z0 s) : Kept pk wq H z0 (State.optTorn s fn) := by
  unfold State.optTorn
  repeat' (first
    | with_reducible assumption | exact held_sub hH rfl | exact held_one hH rfl | exact fldOk rfl
    | with_reducible refine State.fnEvent_kept ?_ ?_ ?_ ?_ | with_reducible refine State.optStop_kept ?_ ?_
    | with_reducible intro _ | dsimp only | split)

theorem State.optStopTorn_kept {s : State} {fn : Nat} {st : Status}
    (hH : ∀ x ∈ ([.mem, .islets, .fns, .optim, .queues, .jobs, .egress, .gov, .lanes, .mctp, .armed, .block .isl, .block .mem, .block .pipe, .block .reef, .block .jl, .block .red, .block .opt, .block .svc, .block .hbr] : List Portion), H x = false)
    (hk0 : Kept pk wq H z0 s) : Kept pk wq H z0 (State.optStopTorn s fn st) := by
  unfold State.optStopTorn
  repeat' (first
    | with_reducible assumption | exact held_sub hH rfl | exact held_one hH rfl | exact fldOk rfl
    | with_reducible refine State.optStop_kept ?_ ?_ | with_reducible refine State.optTorn_kept ?_ ?_
    | with_reducible refine ite_kept ?_ ?_ | with_reducible intro _ | dsimp only | split)

theorem State.optShowsWork_kept {s : State} {fn : Nat} (hH : ∀ x ∈ ([.block .opt] : List Portion), H x = false)
    (hk0 : Kept pk wq H z0 s) : Kept pk wq H z0 (State.optShowsWork s fn) := by
  unfold State.optShowsWork
  repeat' (first
    | with_reducible assumption | exact held_sub hH rfl | exact held_one hH rfl | exact fldOk rfl
    | with_reducible refine State.setFld_kept ?_ ?_ ?_ | with_reducible refine State.optLast_kept ?_ ?_
    | with_reducible refine ite_kept ?_ ?_ | with_reducible intro _ | dsimp only | split)

theorem State.optRoom_kept {s : State} {fn : Nat}
    (hH : ∀ x ∈ ([.mem, .fns, .egress, .lanes, .mctp, .armed, .block .mem, .block .jl, .block .hbr] : List Portion), H x = false)
    (hk0 : Kept pk wq H z0 s) : Kept pk wq H z0 (State.optRoom s fn).1 := by
  unfold State.optRoom
  repeat' (first
    | with_reducible assumption | exact held_sub hH rfl | exact held_one hH rfl | exact fldOk rfl
    | with_reducible refine State.prepareWrite_kept ?_ ?_ | with_reducible refine foldl_kept ?_ ?_
    | with_reducible refine iteP_kept ?_ ?_ | with_reducible refine foldlP_kept ?_ ?_
    | with_reducible refine State.prepareWrite_kept' (by with_reducible assumption) ?_ ?_
    | with_reducible refine foldlP_kept' (by with_reducible assumption) ?_ ?_ | with_reducible intro _ | dsimp only
    | split)
theorem State.optRoom_kept' {s : State} {fn : Nat} {t z} (e : State.optRoom s fn = (t, z))
    (hH : ∀ x ∈ ([.mem, .fns, .egress, .lanes, .mctp, .armed, .block .mem, .block .jl, .block .hbr] : List Portion), H x = false)
    (hk0 : Kept pk wq H z0 s) : Kept pk wq H z0 t := by
  have k : Kept pk wq H z0 (State.optRoom s fn).1 := State.optRoom_kept hH hk0
  rw [e] at k; exact k

theorem State.optVisit_kept {s : State} {fn : Nat} {t : Ticket} {r : List Byte}
    (hH : ∀ x ∈ ([.mem, .fns, .optim, .egress, .lanes, .mctp, .armed, .block .mem, .block .reef, .block .jl, .block .opt, .block .hbr] : List Portion), H x = false)
    (hk0 : Kept pk wq H z0 s) : Kept pk wq H z0 (State.optVisit s fn t r).1 := by
  unfold State.optVisit
  repeat' (first
    | with_reducible assumption | exact held_sub hH rfl | exact held_one hH rfl | exact fldOk rfl
    | with_reducible refine State.setShard_kept ?_ ?_ | with_reducible refine State.readCommit_kept ?_ ?_
    | with_reducible refine State.writeCommit_kept ?_ ?_ | with_reducible refine ite_kept ?_ ?_
    | with_reducible refine iteP_kept ?_ ?_
    | with_reducible refine State.readCommit_kept' (by with_reducible assumption) ?_ ?_
    | with_reducible refine State.writeCommit_kept' (by with_reducible assumption) ?_ ?_
    | simp only [Kept.frame_iff, and_self, true_or, or_true] | with_reducible intro _ | dsimp only | split)
theorem State.optVisit_kept' {s : State} {fn : Nat} {t : Ticket} {r : List Byte} {u z}
    (e : State.optVisit s fn t r = (u, z))
    (hH : ∀ x ∈ ([.mem, .fns, .optim, .egress, .lanes, .mctp, .armed, .block .mem, .block .reef, .block .jl, .block .opt, .block .hbr] : List Portion), H x = false)
    (hk0 : Kept pk wq H z0 s) : Kept pk wq H z0 u := by
  have k : Kept pk wq H z0 (State.optVisit s fn t r).1 := State.optVisit_kept hH hk0
  rw [e] at k; exact k

theorem State.optVisited_kept {s : State} {fn : Nat} {t : Ticket}
    (hH : ∀ x ∈ ([.mem, .islets, .fns, .optim, .queues, .jobs, .egress, .actions, .gov, .lanes, .mctp, .armed, .block .isl, .block .mem, .block .pipe, .block .reef, .block .jl, .block .red, .block .opt, .block .svc, .block .hbr] : List Portion), H x = false)
    (hk0 : Kept pk wq H z0 s) : Kept pk wq H z0 (State.optVisited s fn t) := by
  unfold State.optVisited
  repeat' (first
    | with_reducible assumption | exact held_sub hH rfl | exact held_one hH rfl | exact fldOk rfl
    | with_reducible refine State.modOpt_kept ?_ ?_ | with_reducible refine State.optDone_kept ?_ ?_
    | with_reducible refine State.optRelease_kept ?_ ?_ | with_reducible refine State.optTorn_kept ?_ ?_
    | with_reducible refine ite_kept ?_ ?_ | simp only [Kept.frame_iff, and_self, true_or, or_true]
    | with_reducible intro _ | dsimp only | split)

theorem State.optRecovers_kept {s : State} {fn : Nat}
    (hH : ∀ x ∈ ([.mem, .islets, .fns, .optim, .queues, .jobs, .egress, .actions, .gov, .lanes, .mctp, .armed, .block .isl, .block .mem, .block .pipe, .block .reef, .block .jl, .block .red, .block .opt, .block .svc, .block .hbr] : List Portion), H x = false)
    (hk0 : Kept pk wq H z0 s) : Kept pk wq H z0 (State.optRecovers s fn) := by
  unfold State.optRecovers
  repeat' (first
    | with_reducible assumption | exact held_sub hH rfl | exact held_one hH rfl | exact fldOk rfl
    | with_reducible refine State.setFld_kept ?_ ?_ ?_ | with_reducible refine State.devRead_kept ?_ ?_
    | with_reducible refine State.modOpt_kept ?_ ?_ | with_reducible refine State.modStep_kept ?_ ?_
    | with_reducible refine State.stepStat_kept ?_ ?_ | with_reducible refine State.attemptStart_kept ?_ ?_
    | with_reducible refine State.optLast_kept ?_ ?_ | with_reducible refine State.optStop_kept ?_ ?_
    | with_reducible refine State.optStopTorn_kept ?_ ?_ | with_reducible refine State.optVisit_kept ?_ ?_
    | with_reducible refine State.optVisited_kept ?_ ?_ | with_reducible refine foldl_kept ?_ ?_
    | with_reducible refine ite_kept ?_ ?_ | with_reducible refine iteP_kept ?_ ?_
    | with_reducible refine foldlP_kept ?_ ?_
    | with_reducible refine State.devRead_kept' (by with_reducible assumption) ?_ ?_
    | with_reducible refine State.optVisit_kept' (by with_reducible assumption) ?_ ?_
    | with_reducible refine foldlP_kept' (by with_reducible assumption) ?_ ?_
    | simp only [Kept.frame_iff, and_self, true_or, or_true] | with_reducible intro _ | dsimp only | split)

theorem State.optRecover_kept {s : State} {fn : Nat}
    (hH : ∀ x ∈ ([.mem, .islets, .fns, .optim, .queues, .jobs, .egress, .actions, .gov, .lanes, .mctp, .armed, .block .isl, .block .mem, .block .pipe, .block .reef, .block .jl, .block .red, .block .opt, .block .svc, .block .hbr] : List Portion), H x = false)
    (hk0 : Kept pk wq H z0 s) : Kept pk wq H z0 (State.optRecover s fn) := by
  unfold State.optRecover
  repeat' (first
    | with_reducible assumption | exact held_sub hH rfl | exact held_one hH rfl | exact fldOk rfl
    | with_reducible refine State.modOpt_kept ?_ ?_ | with_reducible refine State.optInterrupt_kept ?_ ?_
    | with_reducible refine State.optShowsWork_kept ?_ ?_ | with_reducible refine State.optRoom_kept ?_ ?_
    | with_reducible refine State.optRecovers_kept ?_ ?_
    | with_reducible refine State.optRoom_kept' (by with_reducible assumption) ?_ ?_
    | simp only [Kept.frame_iff, and_self, true_or, or_true] | with_reducible intro _ | dsimp only | split)

theorem State.optResumes_kept {s : State} {fn : Nat}
    (hH : ∀ x ∈ ([.mem, .islets, .fns, .optim, .queues, .jobs, .egress, .actions, .gov, .lanes, .mctp, .armed, .block .isl, .block .mem, .block .pipe, .block .reef, .block .jl, .block .red, .block .opt, .block .svc, .block .hbr] : List Portion), H x = false)
    (hk0 : Kept pk wq H z0 s) : Kept pk wq H z0 (State.optResumes s fn) := by
  unfold State.optResumes
  repeat' (first
    | with_reducible assumption | exact held_sub hH rfl | exact held_one hH rfl | exact fldOk rfl
    | with_reducible refine State.setFld_kept ?_ ?_ ?_ | with_reducible refine State.modOpt_kept ?_ ?_
    | with_reducible refine State.normOpen_kept ?_ ?_ | with_reducible refine State.normDecides_kept ?_ ?_
    | with_reducible refine State.optRecover_kept ?_ ?_ | with_reducible refine ite_kept ?_ ?_
    | simp only [Kept.frame_iff, and_self, true_or, or_true] | with_reducible intro _ | dsimp only | split)

theorem execShardUpdateStart_kept {fn : Nat} {shard : Nat} {s : State}
    (hH : ∀ x ∈ ([.mem, .islets, .fns, .optim, .queues, .jobs, .egress, .actions, .gov, .lanes, .mctp, .armed, .block .isl, .block .mem, .block .pipe, .block .reef, .block .jl, .block .red, .block .opt, .block .svc, .block .hbr] : List Portion), H x = false)
    (hk0 : Kept pk wq H z0 s) : Kept.Outcome pk wq H z0 (execShardUpdateStart fn shard s) := by
  unfold execShardUpdateStart
  repeat' (first
    | with_reducible assumption | exact held_sub hH rfl | exact held_one hH rfl | exact fldOk rfl
    | with_reducible refine State.prepareWrite_kept ?_ ?_ | with_reducible refine State.readCommit_kept ?_ ?_
    | with_reducible refine State.shardFails_kept ?_ ?_ | with_reducible refine State.shardBegins_kept ?_ ?_
    | with_reducible refine State.optRoom_kept ?_ ?_ | with_reducible refine State.optRecovers_kept ?_ ?_
    | with_reducible refine ite_kept ?_ ?_ | with_reducible refine iteO_kept ?_ ?_
    | with_reducible refine State.prepareWrite_kept' (by with_reducible assumption) ?_ ?_
    | with_reducible refine State.readCommit_kept' (by with_reducible assumption) ?_ ?_
    | with_reducible refine State.optRoom_kept' (by with_reducible assumption) ?_ ?_
    | with_reducible refine Kept.next ?_ | with_reducible exact Kept.fault | with_reducible intro _ | dsimp only
    | split)

theorem State.commitWords_kept {s : State} {fn : Nat}
    (hH : ∀ x ∈ ([.mem, .fns, .egress, .lanes, .mctp, .armed, .block .mem, .block .reef, .block .jl, .block .hbr] : List Portion), H x = false)
    (hk0 : Kept pk wq H z0 s) : Kept pk wq H z0 (State.commitWords s fn).1 := by
  unfold State.commitWords
  repeat' (first
    | with_reducible assumption | exact held_sub hH rfl | exact held_one hH rfl | exact fldOk rfl
    | with_reducible refine State.readCommit_kept ?_ ?_ | with_reducible refine foldl_kept ?_ ?_
    | with_reducible refine iteP_kept ?_ ?_ | with_reducible refine foldlP_kept ?_ ?_
    | with_reducible refine State.readCommit_kept' (by with_reducible assumption) ?_ ?_
    | with_reducible refine foldlP_kept' (by with_reducible assumption) ?_ ?_ | with_reducible intro _ | dsimp only
    | split)
theorem State.commitWords_kept' {s : State} {fn : Nat} {t z} (e : State.commitWords s fn = (t, z))
    (hH : ∀ x ∈ ([.mem, .fns, .egress, .lanes, .mctp, .armed, .block .mem, .block .reef, .block .jl, .block .hbr] : List Portion), H x = false)
    (hk0 : Kept pk wq H z0 s) : Kept pk wq H z0 t := by
  have k : Kept pk wq H z0 (State.commitWords s fn).1 := State.commitWords_kept hH hk0
  rw [e] at k; exact k

theorem State.adoptNow_kept {s : State} {fn : Nat}
    (hH : ∀ x ∈ ([.mem, .islets, .fns, .optim, .egress, .lanes, .mctp, .armed, .block .mem, .block .reef, .block .jl, .block .opt, .block .hbr] : List Portion), H x = false)
    (hk0 : Kept pk wq H z0 s) : Kept pk wq H z0 (State.adoptNow s fn) := by
  unfold State.adoptNow
  repeat' (first
    | with_reducible assumption | exact held_sub hH rfl | exact held_one hH rfl | exact fldOk rfl
    | with_reducible refine State.modOpt_kept ?_ ?_ | with_reducible refine State.optInterrupt_kept ?_ ?_
    | with_reducible refine State.optLast_kept ?_ ?_ | with_reducible refine State.optStat_kept ?_ ?_
    | with_reducible refine State.optShowsWork_kept ?_ ?_ | with_reducible refine State.commitWords_kept ?_ ?_
    | with_reducible refine foldl_kept ?_ ?_ | with_reducible refine getD_kept ?_ ?_
    | with_reducible refine mapFst_kept ?_ | with_reducible refine ite_kept ?_ ?_
    | with_reducible refine iteP_kept ?_ ?_ | with_reducible refine foldlP_kept ?_ ?_
    | with_reducible refine State.commitWords_kept' (by with_reducible assumption) ?_ ?_
    | with_reducible refine foldlP_kept' (by with_reducible assumption) ?_ ?_
    | simp only [Kept.frame_iff, and_self, true_or, or_true] | with_reducible intro _ | dsimp only | split)

theorem State.adoptStarts_kept {s : State} {fn : Nat}
    (hH : ∀ x ∈ ([.mem, .islets, .fns, .optim, .egress, .lanes, .mctp, .armed, .block .mem, .block .reef, .block .jl, .block .opt, .block .hbr] : List Portion), H x = false)
    (hk0 : Kept pk wq H z0 s) : Kept pk wq H z0 (State.adoptStarts s fn) := by
  unfold State.adoptStarts
  repeat' (first
    | with_reducible assumption | exact held_sub hH rfl | exact held_one hH rfl | exact fldOk rfl
    | with_reducible refine State.modOpt_kept ?_ ?_ | with_reducible refine State.adoptNow_kept ?_ ?_
    | with_reducible refine ite_kept ?_ ?_ | simp only [Kept.frame_iff, and_self, true_or, or_true]
    | with_reducible intro _ | dsimp only | split)

theorem State.optRecoverNow_kept {s : State} {fn : Nat}
    (hH : ∀ x ∈ ([.mem, .islets, .fns, .optim, .queues, .jobs, .egress, .actions, .gov, .lanes, .mctp, .armed, .block .isl, .block .mem, .block .pipe, .block .reef, .block .jl, .block .red, .block .opt, .block .svc, .block .hbr] : List Portion), H x = false)
    (hk0 : Kept pk wq H z0 s) : Kept pk wq H z0 (State.optRecoverNow s fn) := by
  unfold State.optRecoverNow
  repeat' (first
    | with_reducible assumption | exact held_sub hH rfl | exact held_one hH rfl | exact fldOk rfl
    | with_reducible refine State.modOpt_kept ?_ ?_ | with_reducible refine State.optResumes_kept ?_ ?_
    | simp only [Kept.frame_iff, and_self, true_or, or_true] | with_reducible intro _ | dsimp only | split)

theorem State.writeOptCtl_kept {s : State} {fn : Nat} {w : Word}
    (hH : ∀ x ∈ ([.mem, .islets, .fns, .optim, .queues, .jobs, .egress, .actions, .gov, .lanes, .mctp, .armed, .block .isl, .block .mem, .block .pipe, .block .reef, .block .jl, .block .red, .block .opt, .block .svc, .block .hbr] : List Portion), H x = false)
    (hk0 : Kept pk wq H z0 s) : Kept pk wq H z0 (State.writeOptCtl s fn w) := by
  unfold State.writeOptCtl
  repeat' (first
    | with_reducible assumption | exact held_sub hH rfl | exact held_one hH rfl | exact fldOk rfl
    | with_reducible refine State.adoptStarts_kept ?_ ?_ | with_reducible refine State.optRecoverNow_kept ?_ ?_
    | with_reducible refine ite_kept ?_ ?_ | with_reducible intro _ | dsimp only | split)

theorem State.optCtlResult_kept {s : State} {fn : Nat} {w : Word}
    (hH : ∀ x ∈ ([.mem, .islets, .fns, .optim, .queues, .jobs, .egress, .actions, .gov, .lanes, .mctp, .armed, .block .isl, .block .mem, .block .pipe, .block .reef, .block .jl, .block .red, .block .opt, .block .svc, .block .hbr] : List Portion), H x = false)
    (hk0 : Kept pk wq H z0 s) : Kept.Outcome pk wq H z0 (State.optCtlResult s fn w) := by
  unfold State.optCtlResult
  repeat' (first
    | with_reducible assumption | exact held_sub hH rfl | exact held_one hH rfl | exact fldOk rfl
    | with_reducible refine State.writeOptCtl_kept ?_ ?_ | with_reducible refine ite_kept ?_ ?_
    | with_reducible refine iteO_kept ?_ ?_ | with_reducible refine Kept.next ?_ | with_reducible exact Kept.fault
    | with_reducible intro _ | dsimp only | split)

theorem execOptRecover_kept {fn : Nat} {w : Word} {s : State}
    (hH : ∀ x ∈ ([.mem, .islets, .fns, .optim, .queues, .jobs, .egress, .actions, .gov, .lanes, .mctp, .armed, .block .isl, .block .mem, .block .pipe, .block .reef, .block .jl, .block .red, .block .opt, .block .svc, .block .hbr] : List Portion), H x = false)
    (hk0 : Kept pk wq H z0 s) : Kept.Outcome pk wq H z0 (execOptRecover fn w s) := by
  unfold execOptRecover
  repeat' (first
    | with_reducible assumption | exact held_sub hH rfl | exact held_one hH rfl | exact fldOk rfl
    | with_reducible refine State.optCtlResult_kept ?_ ?_ | with_reducible refine iteO_kept ?_ ?_
    | with_reducible refine Kept.out (State.optCtlResult_kept ?_ ?_) (by with_reducible assumption)
    | with_reducible refine Kept.next ?_ | with_reducible intro _ | dsimp only | split)

theorem execOptAdopt_kept {fn : Nat} {w : Word} {s : State}
    (hH : ∀ x ∈ ([.mem, .islets, .fns, .optim, .queues, .jobs, .egress, .actions, .gov, .lanes, .mctp, .armed, .block .isl, .block .mem, .block .pipe, .block .reef, .block .jl, .block .red, .block .opt, .block .svc, .block .hbr] : List Portion), H x = false)
    (hk0 : Kept pk wq H z0 s) : Kept.Outcome pk wq H z0 (execOptAdopt fn w s) := by
  unfold execOptAdopt
  repeat' (first
    | with_reducible assumption | exact held_sub hH rfl | exact held_one hH rfl | exact fldOk rfl
    | with_reducible refine State.optCtlResult_kept ?_ ?_ | with_reducible refine iteO_kept ?_ ?_
    | with_reducible refine Kept.out (State.optCtlResult_kept ?_ ?_) (by with_reducible assumption)
    | with_reducible refine Kept.next ?_ | with_reducible intro _ | dsimp only | split)

theorem State.adoptRoom_kept {s : State} {fn : Nat} {recs : List (List Byte)}
    (hH : ∀ x ∈ ([.mem, .fns, .egress, .lanes, .mctp, .armed, .block .mem, .block .jl, .block .hbr] : List Portion), H x = false)
    (hk0 : Kept pk wq H z0 s) : Kept pk wq H z0 (State.adoptRoom s fn recs).1 := by
  unfold State.adoptRoom
  repeat' (first
    | with_reducible assumption | exact held_sub hH rfl | exact held_one hH rfl | exact fldOk rfl
    | with_reducible refine State.prepareWrite_kept ?_ ?_ | with_reducible refine foldl_kept ?_ ?_
    | with_reducible refine iteP_kept ?_ ?_ | with_reducible refine foldlP_kept ?_ ?_
    | with_reducible refine State.prepareWrite_kept' (by with_reducible assumption) ?_ ?_
    | with_reducible refine foldlP_kept' (by with_reducible assumption) ?_ ?_ | with_reducible intro _ | dsimp only
    | split)
theorem State.adoptRoom_kept' {s : State} {fn : Nat} {recs : List (List Byte)} {t z}
    (e : State.adoptRoom s fn recs = (t, z))
    (hH : ∀ x ∈ ([.mem, .fns, .egress, .lanes, .mctp, .armed, .block .mem, .block .jl, .block .hbr] : List Portion), H x = false)
    (hk0 : Kept pk wq H z0 s) : Kept pk wq H z0 t := by
  have k : Kept pk wq H z0 (State.adoptRoom s fn recs).1 := State.adoptRoom_kept hH hk0
  rw [e] at k; exact k

theorem State.adoptCopies_kept {s : State} {fn : Nat} {recs : List (List Byte)}
    (hH : ∀ x ∈ ([.mem, .fns, .egress, .lanes, .mctp, .armed, .block .mem, .block .reef, .block .jl, .block .hbr] : List Portion), H x = false)
    (hk0 : Kept pk wq H z0 s) : Kept pk wq H z0 (State.adoptCopies s fn recs).1 := by
  unfold State.adoptCopies
  repeat' (first
    | with_reducible assumption | exact held_sub hH rfl | exact held_one hH rfl | exact fldOk rfl
    | with_reducible refine State.devRead_kept ?_ ?_ | with_reducible refine State.regenerate_kept ?_ ?_
    | with_reducible refine State.readCommit_kept ?_ ?_ | with_reducible refine State.writeCommit_kept ?_ ?_
    | with_reducible refine foldl_kept ?_ ?_ | with_reducible refine ite_kept ?_ ?_
    | with_reducible refine iteP_kept ?_ ?_ | with_reducible refine foldlP_kept ?_ ?_
    | with_reducible refine State.devRead_kept' (by with_reducible assumption) ?_ ?_
    | with_reducible refine State.regenerate_kept' (by with_reducible assumption) ?_ ?_
    | with_reducible refine State.readCommit_kept' (by with_reducible assumption) ?_ ?_
    | with_reducible refine State.writeCommit_kept' (by with_reducible assumption) ?_ ?_
    | with_reducible refine foldlP_kept' (by with_reducible assumption) ?_ ?_
    | simp only [Kept.frame_iff, and_self, true_or, or_true] | with_reducible intro _ | dsimp only | split)
theorem State.adoptCopies_kept' {s : State} {fn : Nat} {recs : List (List Byte)} {t z}
    (e : State.adoptCopies s fn recs = (t, z))
    (hH : ∀ x ∈ ([.mem, .fns, .egress, .lanes, .mctp, .armed, .block .mem, .block .reef, .block .jl, .block .hbr] : List Portion), H x = false)
    (hk0 : Kept pk wq H z0 s) : Kept pk wq H z0 t := by
  have k : Kept pk wq H z0 (State.adoptCopies s fn recs).1 := State.adoptCopies_kept hH hk0
  rw [e] at k; exact k

theorem State.adopted_kept {s : State} {fn : Nat}
    (hH : ∀ x ∈ ([.mem, .islets, .fns, .optim, .queues, .jobs, .egress, .gov, .lanes, .mctp, .armed, .block .isl, .block .mem, .block .pipe, .block .reef, .block .jl, .block .red, .block .opt, .block .svc, .block .hbr] : List Portion), H x = false)
    (hk0 : Kept pk wq H z0 s) : Kept pk wq H z0 (State.adopted s fn) := by
  unfold State.adopted
  repeat' (first
    | with_reducible assumption | exact held_sub hH rfl | exact held_one hH rfl | exact fldOk rfl
    | exact wordOk_zero rfl | exact wordOk_whole rfl | with_reducible refine State.setReg_kept ?_ ?_ ?_
    | with_reducible refine State.setFld_kept ?_ ?_ ?_ | with_reducible refine State.devWrite_kept ?_ ?_
    | with_reducible refine State.modOpt_kept ?_ ?_ | with_reducible refine State.optTorn_kept ?_ ?_
    | with_reducible refine State.optStopTorn_kept ?_ ?_ | with_reducible refine getD_kept ?_ ?_
    | with_reducible refine mapFst_kept ?_ | with_reducible refine ite_kept ?_ ?_
    | with_reducible refine State.devWrite_kept' (by with_reducible assumption) ?_ ?_
    | simp only [Kept.frame_iff, and_self, true_or, or_true] | with_reducible intro _ | dsimp only | split)

theorem execAdoptRegenerationDone_kept {fn : Nat} {s : State}
    (hH : ∀ x ∈ ([.mem, .islets, .fns, .optim, .queues, .jobs, .egress, .gov, .lanes, .mctp, .armed, .block .isl, .block .mem, .block .pipe, .block .reef, .block .jl, .block .red, .block .opt, .block .svc, .block .hbr] : List Portion), H x = false)
    (hk0 : Kept pk wq H z0 s) : Kept.Outcome pk wq H z0 (execAdoptRegenerationDone fn s) := by
  unfold execAdoptRegenerationDone
  repeat' (first
    | with_reducible assumption | exact held_sub hH rfl | exact held_one hH rfl | exact fldOk rfl
    | with_reducible refine State.modOpt_kept ?_ ?_ | with_reducible refine State.optStopTorn_kept ?_ ?_
    | with_reducible refine State.adoptStarts_kept ?_ ?_ | with_reducible refine State.adoptRoom_kept ?_ ?_
    | with_reducible refine State.adoptCopies_kept ?_ ?_ | with_reducible refine State.adopted_kept ?_ ?_
    | with_reducible refine ite_kept ?_ ?_ | with_reducible refine iteO_kept ?_ ?_
    | with_reducible refine State.adoptRoom_kept' (by with_reducible assumption) ?_ ?_
    | with_reducible refine State.adoptCopies_kept' (by with_reducible assumption) ?_ ?_
    | simp only [Kept.frame_iff, and_self, true_or, or_true] | with_reducible refine Kept.next ?_
    | with_reducible exact Kept.fault | with_reducible intro _ | dsimp only | split)

theorem State.digestSend_kept {s : State} {fn : Nat} {round : Nat} {verdict : Nat} {first : Nat} {d : DigestRun}
    {digest : List Byte}
    (hH : ∀ x ∈ ([.mem, .islets, .fns, .optim, .queues, .jobs, .egress, .gov, .lanes, .mctp, .armed, .block .isl, .block .mem, .block .pipe, .block .reef, .block .jl, .block .red, .block .opt, .block .svc, .block .hbr] : List Portion), H x = false)
    (hk0 : Kept pk wq H z0 s) : Kept pk wq H z0 (State.digestSend s fn round verdict first d digest) := by
  unfold State.digestSend
  repeat' (first
    | with_reducible assumption | exact held_sub hH rfl | exact held_one hH rfl | exact fldOk rfl
    | with_reducible refine State.optStop_kept ?_ ?_ | with_reducible refine State.peerWrite_kept ?_ ?_
    | with_reducible refine getD_kept ?_ ?_ | with_reducible refine ite_kept ?_ ?_ | with_reducible intro _
    | dsimp only | split)

theorem State.digestEnd_kept {s : State} {fn : Nat} {verdict : Nat} {first : Nat} {d : DigestRun}
    (hH : ∀ x ∈ ([.mem, .islets, .fns, .optim, .queues, .jobs, .egress, .gov, .lanes, .mctp, .armed, .block .isl, .block .mem, .block .pipe, .block .reef, .block .jl, .block .red, .block .opt, .block .svc, .block .hbr] : List Portion), H x = false)
    (hk0 : Kept pk wq H z0 s) : Kept pk wq H z0 (State.digestEnd s fn verdict first d) := by
  unfold State.digestEnd
  repeat' (first
    | with_reducible assumption | exact held_sub hH rfl | exact held_one hH rfl | exact fldOk rfl
    | with_reducible refine State.setFld_kept ?_ ?_ ?_ | with_reducible refine State.fnEvent_kept ?_ ?_ ?_ ?_
    | with_reducible refine State.modOpt_kept ?_ ?_ | with_reducible refine State.optStop_kept ?_ ?_
    | with_reducible refine ite_kept ?_ ?_ | simp only [Kept.frame_iff, and_self, true_or, or_true]
    | with_reducible intro _ | dsimp only | split)

theorem State.digestRound_kept {s : State} {fn : Nat} {round : Nat}
    (hH : ∀ x ∈ ([.mem, .islets, .fns, .optim, .queues, .jobs, .egress, .gov, .lanes, .mctp, .armed, .block .isl, .block .mem, .block .pipe, .block .reef, .block .jl, .block .red, .block .opt, .block .svc, .block .hbr] : List Portion), H x = false)
    (hk0 : Kept pk wq H z0 s) : Kept pk wq H z0 (State.digestRound s fn round) := by
  unfold State.digestRound
  repeat' (first
    | with_reducible assumption | exact held_sub hH rfl | exact held_one hH rfl | exact fldOk rfl
    | with_reducible refine State.digestSend_kept ?_ ?_ | with_reducible refine State.digestEnd_kept ?_ ?_
    | with_reducible refine ite_kept ?_ ?_ | with_reducible intro _ | dsimp only | split)

theorem State.digestFormed_kept {s : State} {fn : Nat} {d : DigestRun}
    (hH : ∀ x ∈ ([.mem, .islets, .fns, .optim, .queues, .jobs, .egress, .gov, .lanes, .mctp, .armed, .block .isl, .block .mem, .block .pipe, .block .reef, .block .jl, .block .red, .block .opt, .block .svc, .block .hbr] : List Portion), H x = false)
    (hk0 : Kept pk wq H z0 s) : Kept pk wq H z0 (State.digestFormed s fn d) := by
  unfold State.digestFormed
  repeat' (first
    | with_reducible assumption | exact held_sub hH rfl | exact held_one hH rfl | exact fldOk rfl
    | exact wordOk_zero rfl | exact wordOk_whole rfl | with_reducible refine State.setReg_kept ?_ ?_ ?_
    | with_reducible refine State.modOpt_kept ?_ ?_ | with_reducible refine State.digestSend_kept ?_ ?_
    | with_reducible refine State.digestEnd_kept ?_ ?_ | with_reducible refine State.digestRound_kept ?_ ?_
    | with_reducible refine foldl_kept ?_ ?_ | with_reducible refine ite_kept ?_ ?_
    | with_reducible refine iteP_kept ?_ ?_ | with_reducible refine foldlP_kept ?_ ?_
    | with_reducible refine foldlP_kept' (by with_reducible assumption) ?_ ?_
    | simp only [Kept.frame_iff, and_self, true_or, or_true] | with_reducible intro _ | dsimp only | split)

theorem execShardDigestReadDone_kept {fn : Nat} {shard : Nat} {s : State}
    (hH : ∀ x ∈ ([.mem, .islets, .fns, .optim, .queues, .jobs, .egress, .gov, .lanes, .mctp, .armed, .block .isl, .block .mem, .block .pipe, .block .reef, .block .jl, .block .red, .block .opt, .block .svc, .block .hbr] : List Portion), H x = false)
    (hk0 : Kept pk wq H z0 s) : Kept.Outcome pk wq H z0 (execShardDigestReadDone fn shard s) := by
  unfold execShardDigestReadDone
  repeat' (first
    | with_reducible assumption | exact held_sub hH rfl | exact held_one hH rfl | exact fldOk rfl
    | with_reducible refine State.devRead_kept ?_ ?_ | with_reducible refine State.modOpt_kept ?_ ?_
    | with_reducible refine State.optStop_kept ?_ ?_ | with_reducible refine State.digestFormed_kept ?_ ?_
    | with_reducible refine ite_kept ?_ ?_ | with_reducible refine iteO_kept ?_ ?_
    | with_reducible refine State.devRead_kept' (by with_reducible assumption) ?_ ?_
    | simp only [Kept.frame_iff, and_self, true_or, or_true] | with_reducible refine Kept.next ?_
    | with_reducible intro _ | dsimp only | split)

theorem execDigestRecordAccepted_kept {fn : Nat} {round : Nat} {s : State}
    (hH : ∀ x ∈ ([.mem, .islets, .fns, .optim, .queues, .jobs, .egress, .gov, .lanes, .mctp, .armed, .block .isl, .block .mem, .block .pipe, .block .reef, .block .jl, .block .red, .block .opt, .block .svc, .block .hbr] : List Portion), H x = false)
    (hk0 : Kept pk wq H z0 s) : Kept.Outcome pk wq H z0 (execDigestRecordAccepted fn round s) := by
  unfold execDigestRecordAccepted
  repeat' (first
    | with_reducible assumption | exact held_sub hH rfl | exact held_one hH rfl | exact fldOk rfl
    | with_reducible refine State.digestRound_kept ?_ ?_ | with_reducible refine ite_kept ?_ ?_
    | with_reducible refine iteO_kept ?_ ?_ | with_reducible refine Kept.next ?_ | with_reducible intro _ | dsimp only
    | split)

theorem execDigestTimeout_kept {fn : Nat} {s : State}
    (hH : ∀ x ∈ ([.mem, .islets, .fns, .optim, .queues, .jobs, .egress, .gov, .lanes, .mctp, .armed, .counts, .block .isl, .block .mem, .block .pipe, .block .reef, .block .jl, .block .red, .block .opt, .block .svc, .block .hbr] : List Portion), H x = false)
    (hk0 : Kept pk wq H z0 s) : Kept.Outcome pk wq H z0 (execDigestTimeout fn s) := by
  unfold execDigestTimeout
  repeat' (first
    | with_reducible assumption | exact held_sub hH rfl | exact held_one hH rfl | exact fldOk rfl
    | with_reducible refine State.reachCount_kept ?_ ?_ | with_reducible refine State.optStop_kept ?_ ?_
    | with_reducible refine ite_kept ?_ ?_ | with_reducible refine iteO_kept ?_ ?_
    | with_reducible refine Kept.next ?_ | with_reducible intro _ | dsimp only | split)

end Sys2Proof.Machine
end

