-- ==== Sys2Proof/Laws/KeptLoad.lean ====
section
/-! SUPPORT. What the operations of Load.lean keep. -/

namespace Sys2Proof.Machine
open Sys2Proof

variable {pk : Package} {wq : List Instr} {H : Portion → Bool} {z0 : State}

theorem State.modLoad_kept {s : State} {fn : Nat} {g : Load → Load} (hH : ∀ x ∈ ([.fns] : List Portion), H x = false)
    (hk0 : Kept pk wq H z0 s) : Kept pk wq H z0 (State.modLoad s fn g) := by
  unfold State.modLoad
  repeat' (first
    | with_reducible assumption | exact held_sub hH rfl | exact held_one hH rfl | exact fldOk rfl
    | exact .inl (fun _ => rfl) | exact .inr (held_one hH rfl)
    | exact .inl (fun x => by dsimp only; repeat' split <;> rfl) | with_reducible refine State.modFn_kept ?_ ?_ ?_
    | simp only [Kept.frame_iff, and_self, true_or, or_true] | with_reducible intro _ | dsimp only | split)

theorem State.enterLoad_kept {s : State} {fn : Nat} {st : Nat}
    (hH : ∀ x ∈ ([.block .img] : List Portion), H x = false) (hk0 : Kept pk wq H z0 s) : Kept pk wq H z0
    (State.enterLoad s fn st) := by
  unfold State.enterLoad
  repeat' (first
    | with_reducible assumption | exact held_sub hH rfl | exact held_one hH rfl | exact fldOk rfl
    | with_reducible refine State.setFld_kept ?_ ?_ ?_ | with_reducible intro _ | dsimp only | split)

theorem State.genKill_kept {s : State} {fn : Nat} {st : Status}
    (hH : ∀ x ∈ ([.mem, .islets, .fns, .queues, .egress, .gov, .lanes, .mctp, .armed, .block .isl, .block .mem, .block .reef, .block .jl, .block .svc, .block .hbr] : List Portion), H x = false)
    (hk0 : Kept pk wq H z0 s) : Kept pk wq H z0 (State.genKill s fn st) := by
  unfold State.genKill
  repeat' (first
    | with_reducible assumption | exact held_sub hH rfl | exact held_one hH rfl | exact fldOk rfl
    | with_reducible refine State.modGen_kept ?_ ?_ | with_reducible refine State.genEnd_kept ?_ ?_
    | with_reducible refine State.launchStop_kept ?_ ?_ | with_reducible refine foldl_kept ?_ ?_
    | with_reducible refine getD_kept ?_ ?_ | with_reducible refine iteP_kept ?_ ?_
    | with_reducible refine foldlP_kept ?_ ?_
    | with_reducible refine foldlP_kept' (by with_reducible assumption) ?_ ?_
    | simp only [Kept.frame_iff, and_self, true_or, or_true] | with_reducible intro _ | dsimp only | split)

theorem State.stepFinish_kept {s : State} {fn : Nat} {st : Status} {stop : Bool}
    (hH : ∀ x ∈ ([.fns, .queues, .egress, .armed, .block .jl, .block .svc] : List Portion), H x = false)
    (hk0 : Kept pk wq H z0 s) : Kept pk wq H z0 (State.stepFinish s fn st stop) := by
  unfold State.stepFinish
  repeat' (first
    | with_reducible assumption | exact held_sub hH rfl | exact held_one hH rfl | exact fldOk rfl
    | exact .inl (fun _ => rfl) | exact .inr (held_one hH rfl)
    | exact .inl (fun x => by dsimp only; repeat' split <;> rfl)
    | with_reducible refine State.fnEvent_kept ?_ ?_ ?_ ?_ | with_reducible refine State.modFn_kept ?_ ?_ ?_
    | with_reducible refine State.completeCommand_kept ?_ ?_ | with_reducible refine State.stepStat_kept ?_ ?_
    | with_reducible refine foldl_kept ?_ ?_ | with_reducible refine iteP_kept ?_ ?_
    | with_reducible refine foldlP_kept ?_ ?_
    | with_reducible refine foldlP_kept' (by with_reducible assumption) ?_ ?_
    | simp only [Kept.frame_iff, and_self, true_or, or_true] | with_reducible intro _ | dsimp only | split)

theorem State.stepBoundary_kept {s : State} {fn : Nat}
    (hH : ∀ x ∈ ([.mem, .fns, .optim, .queues, .jobs, .egress, .lanes, .mctp, .armed, .block .mem, .block .pipe, .block .reef, .block .jl, .block .red, .block .svc, .block .hbr] : List Portion), H x = false)
    (hk0 : Kept pk wq H z0 s) : Kept pk wq H z0 (State.stepBoundary s fn) := by
  unfold State.stepBoundary
  repeat' (first
    | with_reducible assumption | exact held_sub hH rfl | exact held_one hH rfl | exact fldOk rfl
    | with_reducible refine State.completeCommand_kept ?_ ?_ | with_reducible refine State.modStep_kept ?_ ?_
    | with_reducible refine State.stepStat_kept ?_ ?_ | with_reducible refine State.attemptStart_kept ?_ ?_
    | with_reducible refine State.stepFinish_kept ?_ ?_ | with_reducible refine foldl_kept ?_ ?_
    | with_reducible refine ite_kept ?_ ?_ | with_reducible refine iteP_kept ?_ ?_
    | with_reducible refine foldlP_kept ?_ ?_
    | with_reducible refine foldlP_kept' (by with_reducible assumption) ?_ ?_
    | simp only [Kept.frame_iff, and_self, true_or, or_true] | with_reducible intro _ | dsimp only | split)

theorem State.stepKill_kept {s : State} {fn : Nat} {st : Status}
    (hH : ∀ x ∈ ([.mem, .islets, .fns, .optim, .queues, .jobs, .egress, .gov, .lanes, .mctp, .armed, .block .isl, .block .mem, .block .pipe, .block .reef, .block .jl, .block .red, .block .opt, .block .svc, .block .hbr] : List Portion), H x = false)
    (hk0 : Kept pk wq H z0 s) : Kept pk wq H z0 (State.stepKill s fn st) := by
  unfold State.stepKill
  repeat' (first
    | with_reducible assumption | exact held_sub hH rfl | exact held_one hH rfl | exact fldOk rfl
    | with_reducible refine State.modStep_kept ?_ ?_ | with_reducible refine State.stepStat_kept ?_ ?_
    | with_reducible refine State.abortStep_kept ?_ ?_ | with_reducible refine State.optStop_kept ?_ ?_
    | with_reducible refine State.stepBoundary_kept ?_ ?_ | simp only [Kept.frame_iff, and_self, true_or, or_true]
    | with_reducible intro _ | dsimp only | split)

theorem State.servicesDoomed_kept {s : State} {fn : Nat} {st : Status}
    (hH : ∀ x ∈ ([.fns] : List Portion), H x = false) (hk0 : Kept pk wq H z0 s) : Kept pk wq H z0
    (State.servicesDoomed s fn st) := by
  unfold State.servicesDoomed
  repeat' (first
    | with_reducible assumption | exact held_sub hH rfl | exact held_one hH rfl | exact fldOk rfl
    | with_reducible refine State.modStep_kept ?_ ?_ | with_reducible refine State.modGen_kept ?_ ?_
    | simp only [Kept.frame_iff, and_self, true_or, or_true] | with_reducible intro _ | dsimp only | split)

theorem State.stepResume_kept {s : State} {fn : Nat}
    (hH : ∀ x ∈ ([.mem, .fns, .optim, .queues, .jobs, .egress, .lanes, .mctp, .armed, .block .mem, .block .pipe, .block .reef, .block .jl, .block .red, .block .svc, .block .hbr] : List Portion), H x = false)
    (hk0 : Kept pk wq H z0 s) : Kept pk wq H z0 (State.stepResume s fn) := by
  unfold State.stepResume
  repeat' (first
    | with_reducible assumption | exact held_sub hH rfl | exact held_one hH rfl | exact fldOk rfl
    | with_reducible refine State.modStep_kept ?_ ?_ | with_reducible refine State.stepBoundary_kept ?_ ?_
    | simp only [Kept.frame_iff, and_self, true_or, or_true] | with_reducible intro _ | dsimp only | split)

theorem State.loadHolds_kept {s : State} {fn : Nat}
    (hH : ∀ x ∈ ([.mem, .islets, .fns, .optim, .queues, .jobs, .egress, .gov, .lanes, .mctp, .armed, .block .isl, .block .mem, .block .pipe, .block .reef, .block .jl, .block .red, .block .opt, .block .svc, .block .hbr] : List Portion), H x = false)
    (hk0 : Kept pk wq H z0 s) : Kept pk wq H z0 (State.loadHolds s fn) := by
  unfold State.loadHolds
  repeat' (first
    | with_reducible assumption | exact held_sub hH rfl | exact held_one hH rfl | exact fldOk rfl
    | with_reducible refine State.modStep_kept ?_ ?_ | with_reducible refine State.modGen_kept ?_ ?_
    | with_reducible refine State.launchStop_kept ?_ ?_ | with_reducible refine State.genKill_kept ?_ ?_
    | with_reducible refine State.stepKill_kept ?_ ?_ | with_reducible refine foldl_kept ?_ ?_
    | with_reducible refine mapFst_kept ?_ | with_reducible refine ite_kept ?_ ?_
    | with_reducible refine iteP_kept ?_ ?_ | with_reducible refine foldlP_kept ?_ ?_
    | with_reducible refine foldlP_kept' (by with_reducible assumption) ?_ ?_
    | simp only [Kept.frame_iff, and_self, true_or, or_true] | with_reducible intro _ | dsimp only | split)

theorem State.loadClears_kept {s : State} {fn : Nat}
    (hH : ∀ x ∈ ([.islets, .lanes, .block .isl] : List Portion), H x = false) (hk0 : Kept pk wq H z0 s) : Kept pk wq H
    z0 (State.loadClears s fn) := by
  unfold State.loadClears
  repeat' (first
    | with_reducible assumption | exact held_sub hH rfl | exact held_one hH rfl | exact fldOk rfl
    | with_reducible refine State.dropCargo_kept ?_ ?_ | with_reducible refine State.clearIslet_kept ?_ ?_
    | with_reducible refine foldl_kept ?_ ?_ | with_reducible refine ite_kept ?_ ?_
    | with_reducible refine iteP_kept ?_ ?_ | with_reducible refine foldlP_kept ?_ ?_
    | with_reducible refine foldlP_kept' (by with_reducible assumption) ?_ ?_ | with_reducible intro _ | dsimp only
    | split)

theorem State.loadUnload_kept {s : State} {fn : Nat}
    (hH : ∀ x ∈ ([.islets, .fns, .optim, .jobs, .reefs, .lanes, .block .img, .block .isl, .block .pipe, .block .reef, .block .red, .block .opt] : List Portion), H x = false)
    (hk0 : Kept pk wq H z0 s) : Kept pk wq H z0 (State.loadUnload s fn) := by
  unfold State.loadUnload
  repeat' (first
    | with_reducible assumption | exact held_sub hH rfl | exact held_one hH rfl | exact fldOk rfl
    | with_reducible refine State.setFld_kept ?_ ?_ ?_ | with_reducible refine State.installAtoll_kept ?_ ?_
    | with_reducible refine State.installStack_kept ?_ ?_ | with_reducible refine State.installWide_kept ?_ ?_
    | with_reducible refine State.loadClears_kept ?_ ?_ | with_reducible refine foldl_kept ?_ ?_
    | with_reducible refine ite_kept ?_ ?_ | with_reducible refine iteP_kept ?_ ?_
    | with_reducible refine foldlP_kept ?_ ?_
    | with_reducible refine foldlP_kept' (by with_reducible assumption) ?_ ?_ | with_reducible intro _ | dsimp only
    | split)

theorem State.loadEnd_kept {s : State} {fn : Nat} {st : Nat} {cause : Nat} {status : Status}
    (hH : ∀ x ∈ ([.mem, .islets, .fns, .optim, .queues, .jobs, .reefs, .egress, .actions, .lanes, .mctp, .armed, .block .img, .block .isl, .block .mem, .block .pipe, .block .reef, .block .jl, .block .red, .block .opt, .block .svc, .block .hbr] : List Portion), H x = false)
    (hk0 : Kept pk wq H z0 s) : Kept pk wq H z0 (State.loadEnd s fn st cause status) := by
  unfold State.loadEnd
  repeat' (first
    | with_reducible assumption | exact held_sub hH rfl | exact held_one hH rfl | exact fldOk rfl
    | with_reducible refine State.setFld_kept ?_ ?_ ?_ | with_reducible refine State.addFld_kept ?_ ?_ ?_
    | with_reducible refine State.fnEvent_kept ?_ ?_ ?_ ?_ | with_reducible refine State.completeCommand_kept ?_ ?_
    | with_reducible refine State.modGen_kept ?_ ?_ | with_reducible refine State.dropAction_kept ?_ ?_
    | with_reducible refine State.modLoad_kept ?_ ?_ | with_reducible refine State.enterLoad_kept ?_ ?_
    | with_reducible refine State.stepResume_kept ?_ ?_ | with_reducible refine State.loadUnload_kept ?_ ?_
    | with_reducible refine ite_kept ?_ ?_ | simp only [Kept.frame_iff, and_self, true_or, or_true]
    | with_reducible intro _ | dsimp only | split)

theorem State.loadBegin_kept {s : State} {fn : Nat} {src : Nat} {host : Bool} {sel : Nat} {force : Bool}
    {atoll : Bool} {cmd : Option CmdRef}
    (hH : ∀ x ∈ ([.mem, .islets, .fns, .optim, .queues, .jobs, .reefs, .egress, .actions, .lanes, .mctp, .armed, .block .img, .block .isl, .block .mem, .block .pipe, .block .reef, .block .jl, .block .red, .block .opt, .block .svc, .block .hbr] : List Portion), H x = false)
    (hk0 : Kept pk wq H z0 s) : Kept pk wq H z0 (State.loadBegin s fn src host sel force atoll cmd) := by
  unfold State.loadBegin
  repeat' (first
    | with_reducible assumption | exact held_sub hH rfl | exact held_one hH rfl | exact fldOk rfl
    | with_reducible refine State.setFld_kept ?_ ?_ ?_ | with_reducible refine State.startCommand_kept ?_ ?_
    | with_reducible refine State.hostRead_kept ?_ ?_ | with_reducible refine State.modLoad_kept ?_ ?_
    | with_reducible refine State.enterLoad_kept ?_ ?_ | with_reducible refine State.loadEnd_kept ?_ ?_
    | with_reducible refine ite_kept ?_ ?_ | simp only [Kept.frame_iff, and_self, true_or, or_true]
    | with_reducible intro _ | dsimp only | split)

theorem State.writeLoadCtl_kept {s : State} {fn : Nat} {w : Word}
    (hH : ∀ x ∈ ([.mem, .islets, .fns, .optim, .queues, .jobs, .reefs, .egress, .actions, .lanes, .mctp, .armed, .block .img, .block .isl, .block .mem, .block .pipe, .block .reef, .block .jl, .block .red, .block .opt, .block .svc, .block .hbr] : List Portion), H x = false)
    (hk0 : Kept pk wq H z0 s) : Kept pk wq H z0 (State.writeLoadCtl s fn w) := by
  unfold State.writeLoadCtl
  repeat' (first
    | with_reducible assumption | exact held_sub hH rfl | exact held_one hH rfl | exact fldOk rfl
    | with_reducible refine State.writeReg_kept ?_ ?_ | with_reducible refine State.fnEvent_kept ?_ ?_ ?_ ?_
    | with_reducible refine State.loadEnd_kept ?_ ?_ | with_reducible refine State.loadBegin_kept ?_ ?_
    | with_reducible refine ite_kept ?_ ?_ | with_reducible intro _ | dsimp only | split)

theorem execLoadStart_kept {fn : Nat} {w : Word} {s : State}
    (hH : ∀ x ∈ ([.mem, .islets, .fns, .optim, .queues, .jobs, .reefs, .egress, .actions, .lanes, .mctp, .armed, .block .img, .block .isl, .block .mem, .block .pipe, .block .reef, .block .jl, .block .red, .block .opt, .block .svc, .block .hbr] : List Portion), H x = false)
    (hk0 : Kept pk wq H z0 s) : Kept.Outcome pk wq H z0 (execLoadStart fn w s) := by
  unfold execLoadStart
  repeat' (first
    | with_reducible assumption | exact held_sub hH rfl | exact held_one hH rfl | exact fldOk rfl
    | with_reducible refine State.writeLoadCtl_kept ?_ ?_ | with_reducible refine iteO_kept ?_ ?_
    | with_reducible refine Kept.next ?_ | with_reducible intro _ | dsimp only | split)

theorem execLoadCancel_kept {fn : Nat} {w : Word} {s : State}
    (hH : ∀ x ∈ ([.mem, .islets, .fns, .optim, .queues, .jobs, .reefs, .egress, .actions, .lanes, .mctp, .armed, .block .img, .block .isl, .block .mem, .block .pipe, .block .reef, .block .jl, .block .red, .block .opt, .block .svc, .block .hbr] : List Portion), H x = false)
    (hk0 : Kept pk wq H z0 s) : Kept.Outcome pk wq H z0 (execLoadCancel fn w s) := by
  unfold execLoadCancel
  repeat' (first
    | with_reducible assumption | exact held_sub hH rfl | exact held_one hH rfl | exact fldOk rfl
    | with_reducible refine State.writeLoadCtl_kept ?_ ?_ | with_reducible refine iteO_kept ?_ ?_
    | with_reducible refine Kept.next ?_ | with_reducible intro _ | dsimp only | split)

theorem State.loadCommand_kept {s : State} {r : CmdRef} {c : Command}
    (hH : ∀ x ∈ ([.mem, .islets, .fns, .optim, .queues, .jobs, .reefs, .egress, .actions, .lanes, .mctp, .armed, .block .img, .block .isl, .block .mem, .block .pipe, .block .reef, .block .jl, .block .red, .block .opt, .block .svc, .block .hbr] : List Portion), H x = false)
    (hk0 : Kept pk wq H z0 s) : Kept pk wq H z0 (State.loadCommand s r c) := by
  unfold State.loadCommand
  repeat' (first
    | with_reducible assumption | exact held_sub hH rfl | exact held_one hH rfl | exact fldOk rfl
    | with_reducible refine State.loadBegin_kept ?_ ?_ | with_reducible intro _ | dsimp only | split)

theorem execLoadQueuedStart_kept {fn : Nat} {s : State}
    (hH : ∀ x ∈ ([.mem, .islets, .fns, .optim, .queues, .jobs, .reefs, .egress, .actions, .lanes, .mctp, .armed, .block .img, .block .isl, .block .mem, .block .pipe, .block .reef, .block .jl, .block .red, .block .opt, .block .svc, .block .hbr] : List Portion), H x = false)
    (hk0 : Kept pk wq H z0 s) : Kept.Outcome pk wq H z0 (execLoadQueuedStart fn s) := by
  unfold execLoadQueuedStart
  repeat' (first
    | with_reducible assumption | exact held_sub hH rfl | exact held_one hH rfl | exact fldOk rfl
    | exact .inl (fun _ => rfl) | exact .inr (held_one hH rfl)
    | exact .inl (fun x => by dsimp only; repeat' split <;> rfl) | with_reducible refine State.modFn_kept ?_ ?_ ?_
    | with_reducible refine State.loadCommand_kept ?_ ?_ | with_reducible refine ite_kept ?_ ?_
    | with_reducible refine iteO_kept ?_ ?_ | simp only [Kept.frame_iff, and_self, true_or, or_true]
    | with_reducible refine Kept.next ?_ | with_reducible intro _ | dsimp only | split)

theorem State.sourceRead_kept {s : State} {fn : Nat} {addr : Nat} {len : Nat} {host : Bool} {ans : Answer}
    (hH : ∀ x ∈ ([.mem, .fns, .egress, .lanes, .mctp, .armed, .block .mem, .block .reef, .block .jl, .block .hbr] : List Portion), H x = false)
    (hk0 : Kept pk wq H z0 s) : Kept pk wq H z0 (State.sourceRead s fn addr len host ans).1 := by
  unfold State.sourceRead
  repeat' (first
    | with_reducible assumption | exact held_sub hH rfl | exact held_one hH rfl | exact fldOk rfl
    | with_reducible refine State.devRead_kept ?_ ?_ | with_reducible refine State.hostAnswer_kept ?_ ?_
    | with_reducible refine ite_kept ?_ ?_ | with_reducible refine iteP_kept ?_ ?_
    | with_reducible refine State.devRead_kept' (by with_reducible assumption) ?_ ?_
    | with_reducible refine State.hostAnswer_kept' (by with_reducible assumption) ?_ ?_ | with_reducible intro _
    | dsimp only | split)
theorem State.sourceRead_kept' {s : State} {fn : Nat} {addr : Nat} {len : Nat} {host : Bool} {ans : Answer} {t z}
    (e : State.sourceRead s fn addr len host ans = (t, z))
    (hH : ∀ x ∈ ([.mem, .fns, .egress, .lanes, .mctp, .armed, .block .mem, .block .reef, .block .jl, .block .hbr] : List Portion), H x = false)
    (hk0 : Kept pk wq H z0 s) : Kept pk wq H z0 t := by
  have k : Kept pk wq H z0 (State.sourceRead s fn addr len host ans).1 := State.sourceRead_kept hH hk0
  rw [e] at k; exact k

theorem State.headerPasses_kept {s : State} {fn : Nat} {header : List Byte}
    (hH : ∀ x ∈ ([.fns, .block .img] : List Portion), H x = false) (hk0 : Kept pk wq H z0 s) : Kept pk wq H z0
    (State.headerPasses s fn header) := by
  unfold State.headerPasses
  repeat' (first
    | with_reducible assumption | exact held_sub hH rfl | exact held_one hH rfl | exact fldOk rfl
    | with_reducible refine State.modLoad_kept ?_ ?_ | with_reducible refine State.enterLoad_kept ?_ ?_
    | simp only [Kept.frame_iff, and_self, true_or, or_true] | with_reducible intro _ | dsimp only | split)

theorem execLoadHeaderFetched_kept {fn : Nat} {ans : Answer} {s : State}
    (hH : ∀ x ∈ ([.mem, .islets, .fns, .optim, .queues, .jobs, .reefs, .egress, .actions, .lanes, .mctp, .armed, .block .img, .block .isl, .block .mem, .block .pipe, .block .reef, .block .jl, .block .red, .block .opt, .block .svc, .block .hbr] : List Portion), H x = false)
    (hk0 : Kept pk wq H z0 s) : Kept.Outcome pk wq H z0 (execLoadHeaderFetched fn ans s) := by
  unfold execLoadHeaderFetched
  repeat' (first
    | with_reducible assumption | exact held_sub hH rfl | exact held_one hH rfl | exact fldOk rfl
    | with_reducible refine State.loadEnd_kept ?_ ?_ | with_reducible refine State.sourceRead_kept ?_ ?_
    | with_reducible refine State.headerPasses_kept ?_ ?_ | with_reducible refine ite_kept ?_ ?_
    | with_reducible refine iteO_kept ?_ ?_
    | with_reducible refine State.sourceRead_kept' (by with_reducible assumption) ?_ ?_
    | with_reducible refine Kept.next ?_ | with_reducible intro _ | dsimp only | split)

theorem execLoadStageStart_kept {fn : Nat} {s : State}
    (hH : ∀ x ∈ ([.egress, .lanes, .armed, .block .jl] : List Portion), H x = false) (hk0 : Kept pk wq H z0 s) :
    Kept.Outcome pk wq H z0 (execLoadStageStart fn s) := by
  unfold execLoadStageStart
  repeat' (first
    | with_reducible assumption | exact held_sub hH rfl | exact held_one hH rfl | exact fldOk rfl
    | with_reducible refine State.hostRead_kept ?_ ?_ | with_reducible refine ite_kept ?_ ?_
    | with_reducible refine iteO_kept ?_ ?_ | simp only [Kept.frame_iff, and_self, true_or, or_true]
    | with_reducible refine Kept.next ?_ | with_reducible intro _ | dsimp only | split)

theorem execLoadStageDone_kept {fn : Nat} {ans : Answer} {s : State}
    (hH : ∀ x ∈ ([.mem, .islets, .fns, .optim, .queues, .jobs, .reefs, .egress, .actions, .gov, .lanes, .mctp, .armed, .block .img, .block .isl, .block .mem, .block .pipe, .block .reef, .block .jl, .block .red, .block .opt, .block .svc, .block .hbr] : List Portion), H x = false)
    (hk0 : Kept pk wq H z0 s) : Kept.Outcome pk wq H z0 (execLoadStageDone fn ans s) := by
  unfold execLoadStageDone
  repeat' (first
    | with_reducible assumption | exact held_sub hH rfl | exact held_one hH rfl | exact fldOk rfl
    | with_reducible refine State.modLoad_kept ?_ ?_ | with_reducible refine State.enterLoad_kept ?_ ?_
    | with_reducible refine State.loadHolds_kept ?_ ?_ | with_reducible refine State.loadEnd_kept ?_ ?_
    | with_reducible refine State.sourceRead_kept ?_ ?_ | with_reducible refine ite_kept ?_ ?_
    | with_reducible refine iteO_kept ?_ ?_
    | with_reducible refine State.sourceRead_kept' (by with_reducible assumption) ?_ ?_
    | simp only [Kept.frame_iff, and_self, true_or, or_true] | with_reducible refine Kept.next ?_
    | with_reducible intro _ | dsimp only | split)

theorem State.loadFault_kept {s : State} {fn : Nat} {st : Status}
    (hH : ∀ x ∈ ([.mem, .islets, .fns, .optim, .queues, .jobs, .reefs, .egress, .actions, .lanes, .mctp, .armed, .block .img, .block .isl, .block .mem, .block .pipe, .block .reef, .block .jl, .block .red, .block .opt, .block .svc, .block .hbr] : List Portion), H x = false)
    (hk0 : Kept pk wq H z0 s) : Kept pk wq H z0 (State.loadFault s fn st) := by
  unfold State.loadFault
  repeat' (first
    | with_reducible assumption | exact held_sub hH rfl | exact held_one hH rfl | exact fldOk rfl
    | with_reducible refine State.loadEnd_kept ?_ ?_ | with_reducible refine ite_kept ?_ ?_ | with_reducible intro _
    | dsimp only | split)

theorem execLoadFault_kept {fn : Nat} {st : Status} {s : State}
    (hH : ∀ x ∈ ([.mem, .islets, .fns, .optim, .queues, .jobs, .reefs, .egress, .actions, .lanes, .mctp, .armed, .block .img, .block .isl, .block .mem, .block .pipe, .block .reef, .block .jl, .block .red, .block .opt, .block .svc, .block .hbr] : List Portion), H x = false)
    (hk0 : Kept pk wq H z0 s) : Kept.Outcome pk wq H z0 (execLoadFault fn st s) := by
  unfold execLoadFault
  repeat' (first
    | with_reducible assumption | exact held_sub hH rfl | exact held_one hH rfl | exact fldOk rfl
    | with_reducible refine State.loadFault_kept ?_ ?_ | with_reducible refine ite_kept ?_ ?_
    | with_reducible refine iteO_kept ?_ ?_ | with_reducible refine Kept.next ?_ | with_reducible intro _ | dsimp only
    | split)

theorem State.enterQuiesce_kept {s : State} {fn : Nat}
    (hH : ∀ x ∈ ([.mem, .islets, .fns, .optim, .queues, .jobs, .reefs, .egress, .gov, .lanes, .mctp, .armed, .block .img, .block .isl, .block .mem, .block .pipe, .block .reef, .block .jl, .block .red, .block .opt, .block .svc, .block .hbr] : List Portion), H x = false)
    (hk0 : Kept pk wq H z0 s) : Kept pk wq H z0 (State.enterQuiesce s fn) := by
  unfold State.enterQuiesce
  repeat' (first
    | with_reducible assumption | exact held_sub hH rfl | exact held_one hH rfl | exact fldOk rfl
    | with_reducible refine State.stopIslet_kept ?_ ?_ | with_reducible refine State.taskEnd_kept ?_ ?_
    | with_reducible refine State.reefCancelQueue_kept ?_ ?_ | with_reducible refine State.enterLoad_kept ?_ ?_
    | with_reducible refine foldl_kept ?_ ?_ | with_reducible refine ite_kept ?_ ?_
    | with_reducible refine iteP_kept ?_ ?_ | with_reducible refine foldlP_kept ?_ ?_
    | with_reducible refine foldlP_kept' (by with_reducible assumption) ?_ ?_ | with_reducible intro _ | dsimp only
    | split)

theorem execLoadWaitIdleExit_kept {fn : Nat} {s : State}
    (hH : ∀ x ∈ ([.mem, .islets, .fns, .optim, .queues, .jobs, .reefs, .egress, .actions, .gov, .lanes, .mctp, .armed, .block .img, .block .isl, .block .mem, .block .pipe, .block .reef, .block .jl, .block .red, .block .opt, .block .svc, .block .hbr] : List Portion), H x = false)
    (hk0 : Kept pk wq H z0 s) : Kept.Outcome pk wq H z0 (execLoadWaitIdleExit fn s) := by
  unfold execLoadWaitIdleExit
  repeat' (first
    | with_reducible assumption | exact held_sub hH rfl | exact held_one hH rfl | exact fldOk rfl
    | with_reducible refine State.issueAction_kept ?_ ?_ | with_reducible refine State.modLoad_kept ?_ ?_
    | with_reducible refine State.enterQuiesce_kept ?_ ?_ | with_reducible refine ite_kept ?_ ?_
    | with_reducible refine iteO_kept ?_ ?_
    | with_reducible refine State.issueAction_kept' (by with_reducible assumption) ?_ ?_
    | simp only [Kept.frame_iff, and_self, true_or, or_true] | with_reducible refine Kept.next ?_
    | with_reducible intro _ | dsimp only | split)

theorem execLoadQuiesceDone_kept {fn : Nat} {s : State}
    (hH : ∀ x ∈ ([.mem, .islets, .fns, .optim, .queues, .jobs, .reefs, .egress, .actions, .lanes, .mctp, .armed, .block .img, .block .isl, .block .mem, .block .pipe, .block .reef, .block .jl, .block .red, .block .opt, .block .svc, .block .hbr] : List Portion), H x = false)
    (hk0 : Kept pk wq H z0 s) : Kept.Outcome pk wq H z0 (execLoadQuiesceDone fn s) := by
  unfold execLoadQuiesceDone
  repeat' (first
    | with_reducible assumption | exact held_sub hH rfl | exact held_one hH rfl | exact fldOk rfl
    | with_reducible refine State.enterLoad_kept ?_ ?_ | with_reducible refine State.loadClears_kept ?_ ?_
    | with_reducible refine State.loadEnd_kept ?_ ?_ | with_reducible refine ite_kept ?_ ?_
    | with_reducible refine iteO_kept ?_ ?_ | with_reducible refine Kept.next ?_ | with_reducible intro _ | dsimp only
    | split)

theorem State.loadInstall_kept {s : State} {fn : Nat}
    (hH : ∀ x ∈ ([.islets, .fns, .optim, .jobs, .reefs, .block .isl, .block .pipe, .block .reef, .block .red, .block .opt] : List Portion), H x = false)
    (hk0 : Kept pk wq H z0 s) : Kept pk wq H z0 (State.loadInstall s fn) := by
  unfold State.loadInstall
  repeat' (first
    | with_reducible assumption | exact held_sub hH rfl | exact held_one hH rfl | exact fldOk rfl
    | with_reducible refine State.installAtoll_kept ?_ ?_ | with_reducible refine State.installStack_kept ?_ ?_
    | with_reducible refine State.installWide_kept ?_ ?_ | with_reducible refine foldl_kept ?_ ?_
    | with_reducible refine ite_kept ?_ ?_ | with_reducible refine iteP_kept ?_ ?_
    | with_reducible refine foldlP_kept ?_ ?_
    | with_reducible refine foldlP_kept' (by with_reducible assumption) ?_ ?_ | with_reducible intro _ | dsimp only
    | split)

theorem State.recordChange_kept {s : State} {fn : Nat}
    (hH : ∀ x ∈ ([.egress, .mctp, .armed, .block .jl, .block .sec, .block .hbr] : List Portion), H x = false)
    (hk0 : Kept pk wq H z0 s) : Kept pk wq H z0 (State.recordChange s fn) := by
  unfold State.recordChange
  repeat' (first
    | with_reducible assumption | exact held_sub hH rfl | exact held_one hH rfl | exact fldOk rfl
    | with_reducible refine State.setFld_kept ?_ ?_ ?_ | with_reducible refine State.journal_kept ?_ ?_
    | simp only [Kept.frame_iff, and_self, true_or, or_true] | with_reducible intro _ | dsimp only | split)

theorem State.setDigest_kept {s : State} {r : Reg} {fn : Nat} {bs : List Byte} (hr : r.whole = true)
    (hb : H (.block (regBlock r)) = false) (h : Kept pk wq H z0 s) : Kept pk wq H z0 (s.setDigest r fn bs) := by
  unfold State.setDigest
  exact foldl_kept h (fun _ _ h => State.setReg_kept (wordOk_whole hr) hb h)

theorem State.loadActivates_kept {s : State} {fn : Nat} (hH : ∀ x ∈ ([.block .img] : List Portion), H x = false)
    (hk0 : Kept pk wq H z0 s) : Kept pk wq H z0 (State.loadActivates s fn) := by
  unfold State.loadActivates
  repeat' (first
    | with_reducible assumption | exact held_sub hH rfl | exact held_one hH rfl | exact fldOk rfl
    | exact wordOk_zero rfl | exact wordOk_whole rfl | with_reducible refine State.setReg_kept ?_ ?_ ?_
    | with_reducible refine State.setFld_kept ?_ ?_ ?_ | with_reducible refine State.setDigest_kept ?_ ?_ ?_
    | with_reducible refine ite_kept ?_ ?_ | with_reducible intro _ | dsimp only | split)

theorem execLoadWriteDone_kept {fn : Nat} {s : State}
    (hH : ∀ x ∈ ([.mem, .islets, .fns, .optim, .queues, .jobs, .reefs, .egress, .actions, .lanes, .mctp, .armed, .block .img, .block .isl, .block .mem, .block .pipe, .block .reef, .block .jl, .block .red, .block .opt, .block .svc, .block .sec, .block .hbr] : List Portion), H x = false)
    (hk0 : Kept pk wq H z0 s) : Kept.Outcome pk wq H z0 (execLoadWriteDone fn s) := by
  unfold execLoadWriteDone
  repeat' (first
    | with_reducible assumption | exact held_sub hH rfl | exact held_one hH rfl | exact fldOk rfl
    | with_reducible refine State.enterLoad_kept ?_ ?_ | with_reducible refine State.loadEnd_kept ?_ ?_
    | with_reducible refine State.loadInstall_kept ?_ ?_ | with_reducible refine State.recordChange_kept ?_ ?_
    | with_reducible refine State.loadActivates_kept ?_ ?_ | with_reducible refine ite_kept ?_ ?_
    | with_reducible refine iteO_kept ?_ ?_ | with_reducible refine Kept.next ?_ | with_reducible intro _ | dsimp only
    | split)

end Sys2Proof.Machine
end

