-- ==== Sys2Proof/Laws/KeptReduction.lean ====
section
/-! SUPPORT. What the operations of Reduction.lean keep. -/

namespace Sys2Proof.Machine
open Sys2Proof

variable {pk : Package} {wq : List Instr} {H : Portion → Bool} {z0 : State}

theorem State.modBucket_kept {s : State} {x : Nat} {b : Nat} {g : Bucket → Bucket}
    (hH : ∀ x ∈ ([.jobs] : List Portion), H x = false) (hk0 : Kept pk wq H z0 s) : Kept pk wq H z0
    (State.modBucket s x b g) := by
  unfold State.modBucket
  repeat' (first
    | with_reducible assumption | exact held_sub hH rfl | exact held_one hH rfl | exact fldOk rfl
    | with_reducible refine State.modJob_kept ?_ ?_ | simp only [Kept.frame_iff, and_self, true_or, or_true]
    | with_reducible intro _ | dsimp only | split)

theorem State.modSeg_kept {s : State} {x : Nat} {b : Nat} {k : Nat} {g : SegState → SegState}
    (hH : ∀ x ∈ ([.jobs] : List Portion), H x = false) (hk0 : Kept pk wq H z0 s) : Kept pk wq H z0
    (State.modSeg s x b k g) := by
  unfold State.modSeg
  repeat' (first
    | with_reducible assumption | exact held_sub hH rfl | exact held_one hH rfl | exact fldOk rfl
    | with_reducible refine State.modBucket_kept ?_ ?_ | simp only [Kept.frame_iff, and_self, true_or, or_true]
    | with_reducible intro _ | dsimp only | split)

theorem State.reduceSend_kept {s : State} {x : Nat} {rank : Nat} {sub : Nat} {b : Nat} {k : Nat} {f : Nat}
    {payload : List Byte} (hH : ∀ x ∈ ([.jobs, .egress, .armed, .block .jl] : List Portion), H x = false)
    (hk0 : Kept pk wq H z0 s) : Kept pk wq H z0 (State.reduceSend s x rank sub b k f payload) := by
  unfold State.reduceSend
  repeat' (first
    | with_reducible assumption | exact held_sub hH rfl | exact held_one hH rfl | exact fldOk rfl
    | with_reducible refine State.sendTo_kept ?_ ?_ | with_reducible refine State.modJob_kept ?_ ?_
    | with_reducible refine getD_kept ?_ ?_ | with_reducible refine ite_kept ?_ ?_
    | simp only [Kept.frame_iff, and_self, true_or, or_true] | with_reducible intro _ | dsimp only | split)

theorem State.localFlit_kept {s : State} {x : Nat} {b : Nat} {flit : Nat}
    (hH : ∀ x ∈ ([.mem, .fns, .egress, .lanes, .mctp, .armed, .block .mem, .block .reef, .block .jl, .block .hbr] : List Portion), H x = false)
    (hk0 : Kept pk wq H z0 s) : Kept pk wq H z0 (State.localFlit s x b flit).1 := by
  unfold State.localFlit
  repeat' (first
    | with_reducible assumption | exact held_sub hH rfl | exact held_one hH rfl | exact fldOk rfl
    | with_reducible refine State.devRead_kept ?_ ?_ | with_reducible refine ite_kept ?_ ?_
    | with_reducible refine iteP_kept ?_ ?_
    | with_reducible refine State.devRead_kept' (by with_reducible assumption) ?_ ?_ | with_reducible intro _
    | dsimp only | split)
theorem State.localFlit_kept' {s : State} {x : Nat} {b : Nat} {flit : Nat} {t z}
    (e : State.localFlit s x b flit = (t, z))
    (hH : ∀ x ∈ ([.mem, .fns, .egress, .lanes, .mctp, .armed, .block .mem, .block .reef, .block .jl, .block .hbr] : List Portion), H x = false)
    (hk0 : Kept pk wq H z0 s) : Kept pk wq H z0 t := by
  have k : Kept pk wq H z0 (State.localFlit s x b flit).1 := State.localFlit_kept hH hk0
  rw [e] at k; exact k

theorem State.noteEvents_kept {s : State} {x : Nat} {b : Nat} {k : Nat} {e : Nat} {src : Nat} {inc : List Nat}
    {loc : List Nat} {sums : List Nat} {failed : Bool} (hH : ∀ x ∈ ([.jobs] : List Portion), H x = false)
    (hk0 : Kept pk wq H z0 s) : Kept pk wq H z0 (State.noteEvents s x b k e src inc loc sums failed) := by
  unfold State.noteEvents
  repeat' (first
    | with_reducible assumption | exact held_sub hH rfl | exact held_one hH rfl | exact fldOk rfl
    | with_reducible refine State.modSeg_kept ?_ ?_ | with_reducible refine mapFst_kept ?_
    | with_reducible refine ite_kept ?_ ?_ | simp only [Kept.frame_iff, and_self, true_or, or_true]
    | with_reducible intro _ | dsimp only | split)

theorem State.bucketPut_kept {s : State} {x : Nat} {b : Nat} {flit : Nat} {vals : List Nat}
    (hH : ∀ x ∈ ([.mem, .fns, .egress, .lanes, .mctp, .armed, .block .mem, .block .reef, .block .jl, .block .hbr] : List Portion), H x = false)
    (hk0 : Kept pk wq H z0 s) : Kept pk wq H z0 (State.bucketPut s x b flit vals) := by
  unfold State.bucketPut
  repeat' (first
    | with_reducible assumption | exact held_sub hH rfl | exact held_one hH rfl | exact fldOk rfl
    | with_reducible refine State.devWrite_kept ?_ ?_
    | with_reducible refine State.devWrite_kept' (by with_reducible assumption) ?_ ?_ | with_reducible intro _
    | dsimp only | split)

theorem State.squares_kept {s : State} {x : Nat} {b : Nat} {k : Nat} {vals : List Nat}
    (hH : ∀ x ∈ ([.jobs] : List Portion), H x = false) (hk0 : Kept pk wq H z0 s) : Kept pk wq H z0
    (State.squares s x b k vals) := by
  unfold State.squares
  repeat' (first
    | with_reducible assumption | exact held_sub hH rfl | exact held_one hH rfl | exact fldOk rfl
    | with_reducible refine State.modSeg_kept ?_ ?_ | simp only [Kept.frame_iff, and_self, true_or, or_true]
    | with_reducible intro _ | dsimp only | split)

theorem State.keepTrailer_kept {s : State} {x : Nat} {b : Nat} {k : Nat} {t : List Byte}
    (hH : ∀ x ∈ ([.jobs] : List Portion), H x = false) (hk0 : Kept pk wq H z0 s) : Kept pk wq H z0
    (State.keepTrailer s x b k t) := by
  unfold State.keepTrailer
  repeat' (first
    | with_reducible assumption | exact held_sub hH rfl | exact held_one hH rfl | exact fldOk rfl
    | with_reducible refine State.modSeg_kept ?_ ?_ | simp only [Kept.frame_iff, and_self, true_or, or_true]
    | with_reducible intro _ | dsimp only | split)

theorem State.sendOwn_kept {s : State} {x : Nat} {b : Nat} {k : Nat} {rank : Nat} {sub : Nat}
    (hH : ∀ x ∈ ([.mem, .fns, .jobs, .egress, .lanes, .mctp, .armed, .block .mem, .block .reef, .block .jl, .block .hbr] : List Portion), H x = false)
    (hk0 : Kept pk wq H z0 s) : Kept pk wq H z0 (State.sendOwn s x b k rank sub) := by
  unfold State.sendOwn
  repeat' (first
    | with_reducible assumption | exact held_sub hH rfl | exact held_one hH rfl | exact fldOk rfl
    | with_reducible refine State.reduceSend_kept ?_ ?_ | with_reducible refine State.localFlit_kept ?_ ?_
    | with_reducible refine State.noteEvents_kept ?_ ?_ | with_reducible refine foldl_kept ?_ ?_
    | with_reducible refine iteP_kept ?_ ?_ | with_reducible refine foldlP_kept ?_ ?_
    | with_reducible refine State.localFlit_kept' (by with_reducible assumption) ?_ ?_
    | with_reducible refine foldlP_kept' (by with_reducible assumption) ?_ ?_ | with_reducible intro _ | dsimp only
    | split)

theorem State.readSingle_kept {s : State} {x : Nat} {b : Nat}
    (hH : ∀ x ∈ ([.mem, .fns, .jobs, .egress, .lanes, .mctp, .armed, .block .mem, .block .reef, .block .jl, .block .hbr] : List Portion), H x = false)
    (hk0 : Kept pk wq H z0 s) : Kept pk wq H z0 (State.readSingle s x b) := by
  unfold State.readSingle
  repeat' (first
    | with_reducible assumption | exact held_sub hH rfl | exact held_one hH rfl | exact fldOk rfl
    | with_reducible refine State.localFlit_kept ?_ ?_ | with_reducible refine State.noteEvents_kept ?_ ?_
    | with_reducible refine State.squares_kept ?_ ?_ | with_reducible refine State.keepTrailer_kept ?_ ?_
    | with_reducible refine foldl_kept ?_ ?_ | with_reducible refine iteP_kept ?_ ?_
    | with_reducible refine foldlP_kept ?_ ?_
    | with_reducible refine State.localFlit_kept' (by with_reducible assumption) ?_ ?_
    | with_reducible refine foldlP_kept' (by with_reducible assumption) ?_ ?_ | with_reducible intro _ | dsimp only
    | split)

theorem State.bucketEnd_kept {s : State} {x : Nat} {b : Nat} {st : Status} {t : List Byte} {sumsq : Nat}
    (hH : ∀ x ∈ ([.mem, .fns, .jobs, .egress, .lanes, .mctp, .armed, .block .mem, .block .reef, .block .jl, .block .red, .block .hbr] : List Portion), H x = false)
    (hk0 : Kept pk wq H z0 s) : Kept pk wq H z0 (State.bucketEnd s x b st t sumsq) := by
  unfold State.bucketEnd
  repeat' (first
    | with_reducible assumption | exact held_sub hH rfl | exact held_one hH rfl | exact fldOk rfl
    | with_reducible refine State.setFld_kept ?_ ?_ ?_ | with_reducible refine State.fnEvent_kept ?_ ?_ ?_ ?_
    | with_reducible refine State.devWrite_kept ?_ ?_ | with_reducible refine State.modJob_kept ?_ ?_
    | with_reducible refine State.modBucket_kept ?_ ?_ | with_reducible refine ite_kept ?_ ?_
    | with_reducible refine State.devWrite_kept' (by with_reducible assumption) ?_ ?_
    | simp only [Kept.frame_iff, and_self, true_or, or_true] | with_reducible intro _ | dsimp only | split)

theorem State.voteSend_kept {s : State} {x : Nat} {rank : Nat} {sub : Nat} {st : Status} {action : Nat} {scale : Nat}
    (hH : ∀ x ∈ ([.egress, .armed, .block .jl] : List Portion), H x = false) (hk0 : Kept pk wq H z0 s) : Kept pk wq H
    z0 (State.voteSend s x rank sub st action scale) := by
  unfold State.voteSend
  repeat' (first
    | with_reducible assumption | exact held_sub hH rfl | exact held_one hH rfl | exact fldOk rfl
    | with_reducible refine State.sendTo_kept ?_ ?_ | with_reducible refine getD_kept ?_ ?_
    | simp only [Kept.frame_iff, and_self, true_or, or_true] | with_reducible intro _ | dsimp only | split)

theorem State.voteApply_kept {s : State} {x : Nat} {action : Nat} {scale : Nat} {cause : Nat} {st : Status}
    (hH : ∀ x ∈ ([.mem, .islets, .fns, .optim, .queues, .jobs, .egress, .gov, .lanes, .mctp, .armed, .block .isl, .block .mem, .block .pipe, .block .reef, .block .jl, .block .red, .block .opt, .block .svc, .block .hbr] : List Portion), H x = false)
    (hk0 : Kept pk wq H z0 s) : Kept pk wq H z0 (State.voteApply s x action scale cause st) := by
  unfold State.voteApply
  repeat' (first
    | with_reducible assumption | exact held_sub hH rfl | exact held_one hH rfl | exact fldOk rfl
    | with_reducible refine State.jobApply_kept ?_ ?_ | with_reducible refine State.jobsApplied_kept ?_ ?_
    | with_reducible refine State.optCommitted_kept ?_ ?_ | with_reducible refine State.stepTakes_kept ?_ ?_
    | with_reducible refine ite_kept ?_ ?_
    | with_reducible refine State.jobsApplied_kept' (by with_reducible assumption) ?_ ?_ | with_reducible intro _
    | dsimp only | split)

theorem State.voteDecide_kept {s : State} {x : Nat} {st : Status}
    (hH : ∀ x ∈ ([.mem, .islets, .fns, .optim, .queues, .jobs, .egress, .gov, .lanes, .mctp, .armed, .block .isl, .block .mem, .block .pipe, .block .reef, .block .jl, .block .red, .block .opt, .block .svc, .block .hbr] : List Portion), H x = false)
    (hk0 : Kept pk wq H z0 s) : Kept pk wq H z0 (State.voteDecide s x st) := by
  unfold State.voteDecide
  repeat' (first
    | with_reducible assumption | exact held_sub hH rfl | exact held_one hH rfl | exact fldOk rfl
    | with_reducible refine State.voteSend_kept ?_ ?_ | with_reducible refine State.voteApply_kept ?_ ?_
    | with_reducible refine ite_kept ?_ ?_ | with_reducible intro _ | dsimp only | split)

theorem State.voteStep_kept {s : State} {x : Nat}
    (hH : ∀ x ∈ ([.mem, .islets, .fns, .optim, .queues, .jobs, .egress, .gov, .lanes, .mctp, .armed, .block .isl, .block .mem, .block .pipe, .block .reef, .block .jl, .block .red, .block .opt, .block .svc, .block .hbr] : List Portion), H x = false)
    (hk0 : Kept pk wq H z0 s) : Kept pk wq H z0 (State.voteStep s x) := by
  unfold State.voteStep
  repeat' (first
    | with_reducible assumption | exact held_sub hH rfl | exact held_one hH rfl | exact fldOk rfl
    | with_reducible refine State.modJob_kept ?_ ?_ | with_reducible refine State.voteSend_kept ?_ ?_
    | with_reducible refine State.voteDecide_kept ?_ ?_ | with_reducible refine ite_kept ?_ ?_
    | simp only [Kept.frame_iff, and_self, true_or, or_true] | with_reducible intro _ | dsimp only | split)

theorem State.jobResolve_kept {s : State} {x : Nat}
    (hH : ∀ x ∈ ([.mem, .islets, .fns, .optim, .queues, .jobs, .egress, .gov, .lanes, .mctp, .armed, .block .isl, .block .mem, .block .pipe, .block .reef, .block .jl, .block .red, .block .opt, .block .svc, .block .hbr] : List Portion), H x = false)
    (hk0 : Kept pk wq H z0 s) : Kept pk wq H z0 (State.jobResolve s x) := by
  unfold State.jobResolve
  repeat' (first
    | with_reducible assumption | exact held_sub hH rfl | exact held_one hH rfl | exact fldOk rfl
    | with_reducible refine State.setFld_kept ?_ ?_ ?_ | with_reducible refine State.modJob_kept ?_ ?_
    | with_reducible refine State.voteStep_kept ?_ ?_ | with_reducible refine ite_kept ?_ ?_
    | simp only [Kept.frame_iff, and_self, true_or, or_true] | with_reducible intro _ | dsimp only | split)

theorem State.bucketLate_kept {s : State} {x : Nat} {b : Nat}
    (hH : ∀ x ∈ ([.mem, .islets, .fns, .optim, .queues, .jobs, .egress, .gov, .lanes, .mctp, .armed, .block .isl, .block .mem, .block .pipe, .block .reef, .block .jl, .block .red, .block .opt, .block .svc, .block .hbr] : List Portion), H x = false)
    (hk0 : Kept pk wq H z0 s) : Kept pk wq H z0 (State.bucketLate s x b) := by
  unfold State.bucketLate
  repeat' (first
    | with_reducible assumption | exact held_sub hH rfl | exact held_one hH rfl | exact fldOk rfl
    | with_reducible refine State.setFld_kept ?_ ?_ ?_ | with_reducible refine State.satFld_kept ?_ ?_ ?_
    | with_reducible refine State.fnEvent_kept ?_ ?_ ?_ ?_ | with_reducible refine State.modBucket_kept ?_ ?_
    | with_reducible refine State.bucketEnd_kept ?_ ?_ | with_reducible refine State.jobResolve_kept ?_ ?_
    | simp only [Kept.frame_iff, and_self, true_or, or_true] | with_reducible intro _ | dsimp only | split)

theorem State.portLate_kept {s : State} {p : Nat} {hold : List Flit}
    (hH : ∀ x ∈ ([.mem, .islets, .fns, .optim, .queues, .jobs, .egress, .gov, .lanes, .mctp, .armed, .block .isl, .block .mem, .block .pipe, .block .reef, .block .jl, .block .red, .block .opt, .block .svc, .block .hbr] : List Portion), H x = false)
    (hk0 : Kept pk wq H z0 s) : Kept pk wq H z0 (State.portLate s p hold) := by
  unfold State.portLate
  repeat' (first
    | with_reducible assumption | exact held_sub hH rfl | exact held_one hH rfl | exact fldOk rfl
    | with_reducible refine State.modJob_kept ?_ ?_ | with_reducible refine State.bucketLate_kept ?_ ?_
    | with_reducible refine foldl_kept ?_ ?_ | with_reducible refine mapFst_kept ?_
    | with_reducible refine ite_kept ?_ ?_ | with_reducible refine iteP_kept ?_ ?_
    | with_reducible refine foldlP_kept ?_ ?_
    | with_reducible refine foldlP_kept' (by with_reducible assumption) ?_ ?_
    | simp only [Kept.frame_iff, and_self, true_or, or_true] | with_reducible intro _ | dsimp only | split)

theorem State.bucketBegins_kept {s : State} {ctx : Nat} {b : Nat}
    (hH : ∀ x ∈ ([.mem, .islets, .fns, .optim, .queues, .jobs, .egress, .gov, .lanes, .mctp, .armed, .block .isl, .block .mem, .block .pipe, .block .reef, .block .jl, .block .red, .block .opt, .block .svc, .block .hbr] : List Portion), H x = false)
    (hk0 : Kept pk wq H z0 s) : Kept pk wq H z0 (State.bucketBegins s ctx b) := by
  unfold State.bucketBegins
  repeat' (first
    | with_reducible assumption | exact held_sub hH rfl | exact held_one hH rfl | exact fldOk rfl
    | with_reducible refine State.jobStat_kept ?_ ?_ | with_reducible refine State.modBucket_kept ?_ ?_
    | with_reducible refine State.sendOwn_kept ?_ ?_ | with_reducible refine State.readSingle_kept ?_ ?_
    | with_reducible refine State.bucketLate_kept ?_ ?_ | with_reducible refine ite_kept ?_ ?_
    | simp only [Kept.frame_iff, and_self, true_or, or_true] | with_reducible intro _ | dsimp only | split)

theorem execBucketStart_kept {ctx : Nat} {b : Nat} {s : State}
    (hH : ∀ x ∈ ([.mem, .islets, .fns, .optim, .queues, .jobs, .egress, .gov, .lanes, .mctp, .armed, .block .isl, .block .mem, .block .pipe, .block .reef, .block .jl, .block .red, .block .opt, .block .svc, .block .hbr] : List Portion), H x = false)
    (hk0 : Kept pk wq H z0 s) : Kept.Outcome pk wq H z0 (execBucketStart ctx b s) := by
  unfold execBucketStart
  repeat' (first
    | with_reducible assumption | exact held_sub hH rfl | exact held_one hH rfl | exact fldOk rfl
    | with_reducible refine State.bucketBegins_kept ?_ ?_ | with_reducible refine ite_kept ?_ ?_
    | with_reducible refine iteO_kept ?_ ?_ | with_reducible refine Kept.next ?_ | with_reducible intro _ | dsimp only
    | split)

theorem State.bucketDone_kept {s : State} {ctx : Nat} {b : Nat} {ts : List (List Byte)}
    (hH : ∀ x ∈ ([.mem, .islets, .fns, .optim, .queues, .jobs, .egress, .gov, .lanes, .mctp, .armed, .block .isl, .block .mem, .block .pipe, .block .reef, .block .jl, .block .red, .block .opt, .block .svc, .block .hbr] : List Portion), H x = false)
    (hk0 : Kept pk wq H z0 s) : Kept pk wq H z0 (State.bucketDone s ctx b ts) := by
  unfold State.bucketDone
  repeat' (first
    | with_reducible assumption | exact held_sub hH rfl | exact held_one hH rfl | exact fldOk rfl
    | with_reducible refine State.jobStat_kept ?_ ?_ | with_reducible refine State.modBucket_kept ?_ ?_
    | with_reducible refine State.bucketEnd_kept ?_ ?_ | with_reducible refine State.jobResolve_kept ?_ ?_
    | with_reducible refine foldl_kept ?_ ?_ | with_reducible refine getD_kept ?_ ?_
    | with_reducible refine ite_kept ?_ ?_ | with_reducible refine iteP_kept ?_ ?_
    | with_reducible refine foldlP_kept ?_ ?_
    | with_reducible refine foldlP_kept' (by with_reducible assumption) ?_ ?_
    | simp only [Kept.frame_iff, and_self, true_or, or_true] | with_reducible intro _ | dsimp only | split)

theorem execBucketComplete_kept {ctx : Nat} {b : Nat} {s : State}
    (hH : ∀ x ∈ ([.mem, .islets, .fns, .optim, .queues, .jobs, .egress, .gov, .lanes, .mctp, .armed, .block .isl, .block .mem, .block .pipe, .block .reef, .block .jl, .block .red, .block .opt, .block .svc, .block .hbr] : List Portion), H x = false)
    (hk0 : Kept pk wq H z0 s) : Kept.Outcome pk wq H z0 (execBucketComplete ctx b s) := by
  unfold execBucketComplete
  repeat' (first
    | with_reducible assumption | exact held_sub hH rfl | exact held_one hH rfl | exact fldOk rfl
    | with_reducible refine State.jobStat_kept ?_ ?_ | with_reducible refine State.modBucket_kept ?_ ?_
    | with_reducible refine State.bucketDone_kept ?_ ?_ | with_reducible refine ite_kept ?_ ?_
    | with_reducible refine iteO_kept ?_ ?_ | simp only [Kept.frame_iff, and_self, true_or, or_true]
    | with_reducible refine Kept.next ?_ | with_reducible intro _ | dsimp only | split)

theorem execBucketDeadline_kept {ctx : Nat} {b : Nat} {s : State}
    (hH : ∀ x ∈ ([.mem, .islets, .fns, .optim, .queues, .jobs, .egress, .gov, .lanes, .mctp, .armed, .counts, .block .isl, .block .mem, .block .pipe, .block .reef, .block .jl, .block .red, .block .opt, .block .svc, .block .hbr] : List Portion), H x = false)
    (hk0 : Kept pk wq H z0 s) : Kept.Outcome pk wq H z0 (execBucketDeadline ctx b s) := by
  unfold execBucketDeadline
  repeat' (first
    | with_reducible assumption | exact held_sub hH rfl | exact held_one hH rfl | exact fldOk rfl
    | with_reducible refine State.reachCount_kept ?_ ?_ | with_reducible refine State.bucketLate_kept ?_ ?_
    | with_reducible refine ite_kept ?_ ?_ | with_reducible refine iteO_kept ?_ ?_
    | with_reducible refine Kept.next ?_ | with_reducible intro _ | dsimp only | split)

theorem execVoteTimeout_kept {ctx : Nat} {s : State}
    (hH : ∀ x ∈ ([.mem, .islets, .fns, .optim, .queues, .jobs, .egress, .gov, .lanes, .mctp, .armed, .counts, .block .isl, .block .mem, .block .pipe, .block .reef, .block .jl, .block .red, .block .opt, .block .svc, .block .hbr] : List Portion), H x = false)
    (hk0 : Kept pk wq H z0 s) : Kept.Outcome pk wq H z0 (execVoteTimeout ctx s) := by
  unfold execVoteTimeout
  repeat' (first
    | with_reducible assumption | exact held_sub hH rfl | exact held_one hH rfl | exact fldOk rfl
    | with_reducible refine State.reachCount_kept ?_ ?_ | with_reducible refine State.voteApply_kept ?_ ?_
    | with_reducible refine ite_kept ?_ ?_ | with_reducible refine iteO_kept ?_ ?_
    | with_reducible refine Kept.next ?_ | with_reducible intro _ | dsimp only | split)

theorem State.takeRs_kept {s : State} {x : Nat} {f : Flit}
    (hH : ∀ x ∈ ([.mem, .fns, .jobs, .egress, .lanes, .mctp, .armed, .block .mem, .block .reef, .block .jl, .block .hbr] : List Portion), H x = false)
    (hk0 : Kept pk wq H z0 s) : Kept pk wq H z0 (State.takeRs s x f) := by
  unfold State.takeRs
  repeat' (first
    | with_reducible assumption | exact held_sub hH rfl | exact held_one hH rfl | exact fldOk rfl
    | with_reducible refine State.reduceSend_kept ?_ ?_ | with_reducible refine State.localFlit_kept ?_ ?_
    | with_reducible refine State.noteEvents_kept ?_ ?_ | with_reducible refine State.bucketPut_kept ?_ ?_
    | with_reducible refine State.squares_kept ?_ ?_ | with_reducible refine mapFst_kept ?_
    | with_reducible refine ite_kept ?_ ?_
    | with_reducible refine State.localFlit_kept' (by with_reducible assumption) ?_ ?_ | with_reducible intro _
    | dsimp only | split)

theorem State.takeRsEnd_kept {s : State} {x : Nat} {f : Flit}
    (hH : ∀ x ∈ ([.jobs, .egress, .armed, .block .jl] : List Portion), H x = false) (hk0 : Kept pk wq H z0 s) : Kept
    pk wq H z0 (State.takeRsEnd s x f) := by
  unfold State.takeRsEnd
  repeat' (first
    | with_reducible assumption | exact held_sub hH rfl | exact held_one hH rfl | exact fldOk rfl
    | with_reducible refine State.reduceSend_kept ?_ ?_ | with_reducible refine State.keepTrailer_kept ?_ ?_
    | with_reducible refine ite_kept ?_ ?_ | with_reducible intro _ | dsimp only | split)

theorem State.takeAg_kept {s : State} {x : Nat} {f : Flit}
    (hH : ∀ x ∈ ([.mem, .fns, .jobs, .egress, .lanes, .mctp, .armed, .block .mem, .block .reef, .block .jl, .block .hbr] : List Portion), H x = false)
    (hk0 : Kept pk wq H z0 s) : Kept pk wq H z0 (State.takeAg s x f) := by
  unfold State.takeAg
  repeat' (first
    | with_reducible assumption | exact held_sub hH rfl | exact held_one hH rfl | exact fldOk rfl
    | with_reducible refine State.reduceSend_kept ?_ ?_ | with_reducible refine State.bucketPut_kept ?_ ?_
    | with_reducible refine ite_kept ?_ ?_ | with_reducible intro _ | dsimp only | split)

theorem State.takeAgEnd_kept {s : State} {x : Nat} {f : Flit}
    (hH : ∀ x ∈ ([.jobs, .egress, .armed, .block .jl] : List Portion), H x = false) (hk0 : Kept pk wq H z0 s) : Kept
    pk wq H z0 (State.takeAgEnd s x f) := by
  unfold State.takeAgEnd
  repeat' (first
    | with_reducible assumption | exact held_sub hH rfl | exact held_one hH rfl | exact fldOk rfl
    | with_reducible refine State.reduceSend_kept ?_ ?_ | with_reducible refine State.keepTrailer_kept ?_ ?_
    | with_reducible refine ite_kept ?_ ?_ | with_reducible intro _ | dsimp only | split)

theorem State.treeResult_kept {s : State} {x : Nat} {b : Nat} {flit : Nat} {vals : List Nat}
    (hH : ∀ x ∈ ([.mem, .fns, .jobs, .egress, .lanes, .mctp, .armed, .block .mem, .block .reef, .block .jl, .block .hbr] : List Portion), H x = false)
    (hk0 : Kept pk wq H z0 s) : Kept pk wq H z0 (State.treeResult s x b flit vals) := by
  unfold State.treeResult
  repeat' (first
    | with_reducible assumption | exact held_sub hH rfl | exact held_one hH rfl | exact fldOk rfl
    | with_reducible refine State.reduceSend_kept ?_ ?_ | with_reducible refine State.bucketPut_kept ?_ ?_
    | with_reducible refine State.squares_kept ?_ ?_ | with_reducible refine foldl_kept ?_ ?_
    | with_reducible refine ite_kept ?_ ?_ | with_reducible refine iteP_kept ?_ ?_
    | with_reducible refine foldlP_kept ?_ ?_
    | with_reducible refine foldlP_kept' (by with_reducible assumption) ?_ ?_ | with_reducible intro _ | dsimp only
    | split)

theorem State.takeUp_kept {s : State} {x : Nat} {f : Flit}
    (hH : ∀ x ∈ ([.mem, .fns, .jobs, .egress, .lanes, .mctp, .armed, .block .mem, .block .reef, .block .jl, .block .hbr] : List Portion), H x = false)
    (hk0 : Kept pk wq H z0 s) : Kept pk wq H z0 (State.takeUp s x f) := by
  unfold State.takeUp
  repeat' (first
    | with_reducible assumption | exact held_sub hH rfl | exact held_one hH rfl | exact fldOk rfl
    | with_reducible refine State.devRead_kept ?_ ?_ | with_reducible refine State.devWrite_kept ?_ ?_
    | with_reducible refine State.modSeg_kept ?_ ?_ | with_reducible refine State.localFlit_kept ?_ ?_
    | with_reducible refine State.noteEvents_kept ?_ ?_ | with_reducible refine State.treeResult_kept ?_ ?_
    | with_reducible refine mapFst_kept ?_ | with_reducible refine ite_kept ?_ ?_
    | with_reducible refine State.devRead_kept' (by with_reducible assumption) ?_ ?_
    | with_reducible refine State.devWrite_kept' (by with_reducible assumption) ?_ ?_
    | with_reducible refine State.localFlit_kept' (by with_reducible assumption) ?_ ?_
    | simp only [Kept.frame_iff, and_self, true_or, or_true] | with_reducible intro _ | dsimp only | split)

theorem State.takeUpEnd_kept {s : State} {x : Nat} {f : Flit}
    (hH : ∀ x ∈ ([.jobs, .egress, .armed, .block .jl] : List Portion), H x = false) (hk0 : Kept pk wq H z0 s) : Kept
    pk wq H z0 (State.takeUpEnd s x f) := by
  unfold State.takeUpEnd
  repeat' (first
    | with_reducible assumption | exact held_sub hH rfl | exact held_one hH rfl | exact fldOk rfl
    | with_reducible refine State.modSeg_kept ?_ ?_ | with_reducible refine State.reduceSend_kept ?_ ?_
    | with_reducible refine State.keepTrailer_kept ?_ ?_ | with_reducible refine foldl_kept ?_ ?_
    | with_reducible refine ite_kept ?_ ?_ | with_reducible refine iteP_kept ?_ ?_
    | with_reducible refine foldlP_kept ?_ ?_
    | with_reducible refine foldlP_kept' (by with_reducible assumption) ?_ ?_
    | simp only [Kept.frame_iff, and_self, true_or, or_true] | with_reducible intro _ | dsimp only | split)

theorem State.takeDown_kept {s : State} {x : Nat} {f : Flit}
    (hH : ∀ x ∈ ([.mem, .fns, .jobs, .egress, .lanes, .mctp, .armed, .block .mem, .block .reef, .block .jl, .block .hbr] : List Portion), H x = false)
    (hk0 : Kept pk wq H z0 s) : Kept pk wq H z0 (State.takeDown s x f) := by
  unfold State.takeDown
  repeat' (first
    | with_reducible assumption | exact held_sub hH rfl | exact held_one hH rfl | exact fldOk rfl
    | with_reducible refine State.reduceSend_kept ?_ ?_ | with_reducible refine State.bucketPut_kept ?_ ?_
    | with_reducible refine foldl_kept ?_ ?_ | with_reducible refine iteP_kept ?_ ?_
    | with_reducible refine foldlP_kept ?_ ?_
    | with_reducible refine foldlP_kept' (by with_reducible assumption) ?_ ?_ | with_reducible intro _ | dsimp only
    | split)

theorem State.takeDownEnd_kept {s : State} {x : Nat} {f : Flit}
    (hH : ∀ x ∈ ([.jobs, .egress, .armed, .block .jl] : List Portion), H x = false) (hk0 : Kept pk wq H z0 s) : Kept
    pk wq H z0 (State.takeDownEnd s x f) := by
  unfold State.takeDownEnd
  repeat' (first
    | with_reducible assumption | exact held_sub hH rfl | exact held_one hH rfl | exact fldOk rfl
    | with_reducible refine State.reduceSend_kept ?_ ?_ | with_reducible refine State.keepTrailer_kept ?_ ?_
    | with_reducible refine foldl_kept ?_ ?_ | with_reducible refine iteP_kept ?_ ?_
    | with_reducible refine foldlP_kept ?_ ?_
    | with_reducible refine foldlP_kept' (by with_reducible assumption) ?_ ?_ | with_reducible intro _ | dsimp only
    | split)

theorem State.reduceTake_kept {s : State} {p : Nat} {x : Nat} {seen : Nat} {f : Flit}
    (hH : ∀ x ∈ ([.mem, .fns, .jobs, .egress, .lanes, .mctp, .armed, .block .mem, .block .reef, .block .jl, .block .red, .block .hbr] : List Portion), H x = false)
    (hk0 : Kept pk wq H z0 s) : Kept pk wq H z0 (State.reduceTake s p x seen f) := by
  unfold State.reduceTake
  repeat' (first
    | with_reducible assumption | exact held_sub hH rfl | exact held_one hH rfl | exact fldOk rfl
    | with_reducible refine State.addFld_kept ?_ ?_ ?_ | with_reducible refine State.modJob_kept ?_ ?_
    | with_reducible refine State.modBucket_kept ?_ ?_ | with_reducible refine State.takeRs_kept ?_ ?_
    | with_reducible refine State.takeRsEnd_kept ?_ ?_ | with_reducible refine State.takeAg_kept ?_ ?_
    | with_reducible refine State.takeAgEnd_kept ?_ ?_ | with_reducible refine State.takeUp_kept ?_ ?_
    | with_reducible refine State.takeUpEnd_kept ?_ ?_ | with_reducible refine State.takeDown_kept ?_ ?_
    | with_reducible refine State.takeDownEnd_kept ?_ ?_ | with_reducible refine ite_kept ?_ ?_
    | simp only [Kept.frame_iff, and_self, true_or, or_true] | with_reducible intro _ | dsimp only | split)

theorem State.reduceDeliver_kept {s : State} {p : Nat} {seen : Nat} {f : Flit}
    (hH : ∀ x ∈ ([.mem, .fns, .jobs, .egress, .lanes, .mctp, .armed, .block .mem, .block .reef, .block .jl, .block .red, .block .hbr] : List Portion), H x = false)
    (hk0 : Kept pk wq H z0 s) : Kept pk wq H z0 (State.reduceDeliver s p seen f).1 := by
  unfold State.reduceDeliver
  repeat' (first
    | with_reducible assumption | exact held_sub hH rfl | exact held_one hH rfl | exact fldOk rfl
    | with_reducible refine State.satFld_kept ?_ ?_ ?_ | with_reducible refine State.reduceTake_kept ?_ ?_
    | with_reducible refine iteP_kept ?_ ?_ | with_reducible intro _ | dsimp only | split)
theorem State.reduceDeliver_kept' {s : State} {p : Nat} {seen : Nat} {f : Flit} {t z}
    (e : State.reduceDeliver s p seen f = (t, z))
    (hH : ∀ x ∈ ([.mem, .fns, .jobs, .egress, .lanes, .mctp, .armed, .block .mem, .block .reef, .block .jl, .block .red, .block .hbr] : List Portion), H x = false)
    (hk0 : Kept pk wq H z0 s) : Kept pk wq H z0 t := by
  have k : Kept pk wq H z0 (State.reduceDeliver s p seen f).1 := State.reduceDeliver_kept hH hk0
  rw [e] at k; exact k

theorem State.takeVote_kept {s : State} {f : Flit}
    (hH : ∀ x ∈ ([.mem, .islets, .fns, .optim, .queues, .jobs, .egress, .gov, .lanes, .mctp, .armed, .block .isl, .block .mem, .block .pipe, .block .reef, .block .jl, .block .red, .block .opt, .block .svc, .block .hbr] : List Portion), H x = false)
    (hk0 : Kept pk wq H z0 s) : Kept pk wq H z0 (State.takeVote s f) := by
  unfold State.takeVote
  repeat' (first
    | with_reducible assumption | exact held_sub hH rfl | exact held_one hH rfl | exact fldOk rfl
    | with_reducible refine State.modJob_kept ?_ ?_ | with_reducible refine State.voteDecide_kept ?_ ?_
    | with_reducible refine State.voteStep_kept ?_ ?_ | with_reducible refine ite_kept ?_ ?_
    | simp only [Kept.frame_iff, and_self, true_or, or_true] | with_reducible intro _ | dsimp only | split)

theorem State.takeResult_kept {s : State} {f : Flit}
    (hH : ∀ x ∈ ([.mem, .islets, .fns, .optim, .queues, .jobs, .egress, .gov, .lanes, .mctp, .armed, .block .isl, .block .mem, .block .pipe, .block .reef, .block .jl, .block .red, .block .opt, .block .svc, .block .hbr] : List Portion), H x = false)
    (hk0 : Kept pk wq H z0 s) : Kept pk wq H z0 (State.takeResult s f) := by
  unfold State.takeResult
  repeat' (first
    | with_reducible assumption | exact held_sub hH rfl | exact held_one hH rfl | exact fldOk rfl
    | with_reducible refine State.voteSend_kept ?_ ?_ | with_reducible refine State.voteApply_kept ?_ ?_
    | with_reducible refine ite_kept ?_ ?_ | with_reducible intro _ | dsimp only | split)

theorem State.takeAbort_kept {s : State} {f : Flit}
    (hH : ∀ x ∈ ([.islets, .fns, .queues, .jobs, .egress, .gov, .armed, .block .isl, .block .pipe, .block .jl, .block .red, .block .svc, .block .hbr] : List Portion), H x = false)
    (hk0 : Kept pk wq H z0 s) : Kept pk wq H z0 (State.takeAbort s f) := by
  unfold State.takeAbort
  repeat' (first
    | with_reducible assumption | exact held_sub hH rfl | exact held_one hH rfl | exact fldOk rfl
    | with_reducible refine State.abortStep_kept ?_ ?_ | with_reducible refine ite_kept ?_ ?_ | with_reducible intro _
    | dsimp only | split)

theorem State.reductionMessage_kept {s : State} {f : Flit}
    (hH : ∀ x ∈ ([.mem, .islets, .fns, .optim, .queues, .jobs, .egress, .gov, .lanes, .mctp, .armed, .block .isl, .block .mem, .block .pipe, .block .reef, .block .jl, .block .red, .block .opt, .block .svc, .block .hbr] : List Portion), H x = false)
    (hk0 : Kept pk wq H z0 s) : Kept pk wq H z0 (State.reductionMessage s f) := by
  unfold State.reductionMessage
  repeat' (first
    | with_reducible assumption | exact held_sub hH rfl | exact held_one hH rfl | exact fldOk rfl
    | with_reducible refine State.takeVote_kept ?_ ?_ | with_reducible refine State.takeResult_kept ?_ ?_
    | with_reducible refine State.takeAbort_kept ?_ ?_ | with_reducible intro _ | dsimp only | split)

theorem State.writeJobCtl_kept {s : State} {fn : Nat} {x : Nat} {w : Word}
    (hH : ∀ x ∈ ([.islets, .fns, .queues, .jobs, .egress, .gov, .armed, .block .isl, .block .pipe, .block .jl, .block .red, .block .svc, .block .hbr] : List Portion), H x = false)
    (hk0 : Kept pk wq H z0 s) : Kept pk wq H z0 (State.writeJobCtl s fn x w) := by
  unfold State.writeJobCtl
  repeat' (first
    | with_reducible assumption | exact held_sub hH rfl | exact held_one hH rfl | exact fldOk rfl
    | with_reducible refine State.setFld_kept ?_ ?_ ?_ | with_reducible refine State.abortStep_kept ?_ ?_
    | with_reducible refine ite_kept ?_ ?_ | with_reducible intro _ | dsimp only | split)

theorem execRedResume_kept {fn : Nat} {ctx : Nat} {w : Word} {s : State}
    (hH : ∀ x ∈ ([.islets, .fns, .queues, .jobs, .egress, .gov, .armed, .block .isl, .block .pipe, .block .jl, .block .red, .block .svc, .block .hbr] : List Portion), H x = false)
    (hk0 : Kept pk wq H z0 s) : Kept.Outcome pk wq H z0 (execRedResume fn ctx w s) := by
  unfold execRedResume
  repeat' (first
    | with_reducible assumption | exact held_sub hH rfl | exact held_one hH rfl | exact fldOk rfl
    | with_reducible refine State.writeJobCtl_kept ?_ ?_ | with_reducible refine iteO_kept ?_ ?_
    | with_reducible refine Kept.next ?_ | with_reducible intro _ | dsimp only | split)

theorem execRedAbortStep_kept {fn : Nat} {ctx : Nat} {w : Word} {s : State}
    (hH : ∀ x ∈ ([.islets, .fns, .queues, .jobs, .egress, .gov, .armed, .block .isl, .block .pipe, .block .jl, .block .red, .block .svc, .block .hbr] : List Portion), H x = false)
    (hk0 : Kept pk wq H z0 s) : Kept.Outcome pk wq H z0 (execRedAbortStep fn ctx w s) := by
  unfold execRedAbortStep
  repeat' (first
    | with_reducible assumption | exact held_sub hH rfl | exact held_one hH rfl | exact fldOk rfl
    | with_reducible refine State.writeJobCtl_kept ?_ ?_ | with_reducible refine iteO_kept ?_ ?_
    | with_reducible refine Kept.next ?_ | with_reducible intro _ | dsimp only | split)

end Sys2Proof.Machine
end

