-- ==== Sys2Proof/Laws/KeptLinkPort.lean ====
section
/-! SUPPORT. What the operations of LinkPort.lean keep. -/

namespace Sys2Proof.Machine
open Sys2Proof

variable {pk : Package} {wq : List Instr} {H : Portion → Bool} {z0 : State}

theorem State.modLink_kept {s : State} {p : Nat} {f : LinkPort → LinkPort}
    (hH : ∀ x ∈ ([.ports] : List Portion), H x = false) (hk0 : Kept pk wq H z0 s) : Kept pk wq H z0
    (State.modLink s p f) := by
  have hPorts : H .ports = false := held_one hH rfl
  unfold State.modLink
  repeat' (first
    | with_reducible assumption | simp only [Kept.frame_iff, hPorts, and_self, true_or, or_true]
    | with_reducible intro _ | dsimp only | split)

theorem State.enterPort_kept {s : State} {p : Nat} {st : Nat}
    (hH : ∀ x ∈ ([.ports, .block .jl] : List Portion), H x = false) (hk0 : Kept pk wq H z0 s) : Kept pk wq H z0
    (State.enterPort s p st) := by
  unfold State.enterPort
  repeat' (first
    | with_reducible assumption | exact held_sub hH rfl | exact held_one hH rfl | exact fldOk rfl
    | with_reducible refine State.setFld_kept ?_ ?_ ?_ | with_reducible refine State.modLink_kept ?_ ?_
    | simp only [Kept.frame_iff, and_self, true_or, or_true] | with_reducible intro _ | dsimp only | split)

theorem State.portEvent_kept {s : State} {p : Nat} {f : Fld} (hff : f.legal = true)
    (hbf : H (.block (regBlock f.reg)) = false)
    (hH : ∀ x ∈ ([.egress, .mctp, .armed, .block .jl, .block .hbr] : List Portion), H x = false)
    (hk0 : Kept pk wq H z0 s) : Kept pk wq H z0 (State.portEvent s p f) := by
  unfold State.portEvent
  repeat' (first
    | with_reducible assumption | exact held_sub hH rfl | exact held_one hH rfl | exact fldOk rfl
    | with_reducible refine State.setFld_kept ?_ ?_ ?_ | with_reducible refine State.fnEvent_kept ?_ ?_ ?_ ?_
    | with_reducible refine State.hbrEvent_kept ?_ ?_ ?_ ?_ | with_reducible refine ite_kept ?_ ?_
    | with_reducible intro _ | dsimp only | split)

theorem State.genLost_kept {s : State} {fn : Nat} {g : GenSvc}
    (hH : ∀ x ∈ ([.mem, .fns, .queues, .egress, .lanes, .mctp, .armed, .block .mem, .block .reef, .block .jl, .block .svc, .block .hbr] : List Portion), H x = false)
    (hk0 : Kept pk wq H z0 s) : Kept pk wq H z0 (State.genLost s fn g) := by
  unfold State.genLost
  repeat' (first
    | with_reducible assumption | exact held_sub hH rfl | exact held_one hH rfl | exact fldOk rfl
    | with_reducible refine State.modGen_kept ?_ ?_ | with_reducible refine State.genEnd_kept ?_ ?_
    | with_reducible refine getD_kept ?_ ?_ | with_reducible refine ite_kept ?_ ?_
    | simp only [Kept.frame_iff, and_self, true_or, or_true] | with_reducible intro _ | dsimp only | split)

theorem State.peerLost_kept {s : State} {fn : Nat} {dst : Nat}
    (hH : ∀ x ∈ ([.mem, .islets, .fns, .optim, .queues, .jobs, .egress, .gov, .lanes, .mctp, .armed, .block .isl, .block .mem, .block .pipe, .block .reef, .block .jl, .block .red, .block .opt, .block .svc, .block .hbr] : List Portion), H x = false)
    (hk0 : Kept pk wq H z0 s) : Kept pk wq H z0 (State.peerLost s fn dst) := by
  unfold State.peerLost
  repeat' (first
    | with_reducible assumption | exact held_sub hH rfl | exact held_one hH rfl | exact fldOk rfl
    | with_reducible refine State.optStop_kept ?_ ?_ | with_reducible refine ite_kept ?_ ?_ | with_reducible intro _
    | dsimp only | split)

theorem State.writeLost_kept {s : State} {fn : Nat} {dst : Nat} {addr : Nat}
    (hH : ∀ x ∈ ([.mem, .islets, .fns, .optim, .queues, .jobs, .egress, .gov, .lanes, .mctp, .armed, .block .isl, .block .mem, .block .pipe, .block .reef, .block .jl, .block .red, .block .opt, .block .svc, .block .hbr] : List Portion), H x = false)
    (hk0 : Kept pk wq H z0 s) : Kept pk wq H z0 (State.writeLost s fn dst addr) := by
  unfold State.writeLost
  repeat' (first
    | with_reducible assumption | exact held_sub hH rfl | exact held_one hH rfl | exact fldOk rfl
    | with_reducible refine State.queueFails_kept ?_ ?_ | with_reducible refine State.genLost_kept ?_ ?_
    | with_reducible refine State.peerLost_kept ?_ ?_ | with_reducible refine foldl_kept ?_ ?_
    | with_reducible refine ite_kept ?_ ?_ | with_reducible refine iteP_kept ?_ ?_
    | with_reducible refine foldlP_kept ?_ ?_
    | with_reducible refine foldlP_kept' (by with_reducible assumption) ?_ ?_ | with_reducible intro _ | dsimp only
    | split)

theorem State.hostLoadLost_kept {s : State} {fn : Nat}
    (hH : ∀ x ∈ ([.mem, .islets, .fns, .optim, .queues, .jobs, .reefs, .egress, .actions, .lanes, .mctp, .armed, .block .img, .block .isl, .block .mem, .block .pipe, .block .reef, .block .jl, .block .red, .block .opt, .block .svc, .block .hbr] : List Portion), H x = false)
    (hk0 : Kept pk wq H z0 s) : Kept pk wq H z0 (State.hostLoadLost s fn) := by
  unfold State.hostLoadLost
  repeat' (first
    | with_reducible assumption | exact held_sub hH rfl | exact held_one hH rfl | exact fldOk rfl
    | with_reducible refine State.loadEnd_kept ?_ ?_ | with_reducible refine ite_kept ?_ ?_ | with_reducible intro _
    | dsimp only | split)

theorem State.hostOpsLost_kept {s : State} {fn : Nat}
    (hH : ∀ x ∈ ([.mem, .islets, .fns, .optim, .queues, .jobs, .reefs, .egress, .actions, .gov, .lanes, .mctp, .armed, .block .img, .block .isl, .block .mem, .block .pipe, .block .reef, .block .jl, .block .red, .block .opt, .block .svc, .block .hbr] : List Portion), H x = false)
    (hk0 : Kept pk wq H z0 s) : Kept pk wq H z0 (State.hostOpsLost s fn) := by
  unfold State.hostOpsLost
  repeat' (first
    | with_reducible assumption | exact held_sub hH rfl | exact held_one hH rfl | exact fldOk rfl
    | with_reducible refine State.launchEnd_kept ?_ ?_ | with_reducible refine State.launchStop_kept ?_ ?_
    | with_reducible refine State.migStop_kept ?_ ?_ | with_reducible refine State.stepKill_kept ?_ ?_
    | with_reducible refine State.genLost_kept ?_ ?_ | with_reducible refine State.hostLoadLost_kept ?_ ?_
    | with_reducible refine foldl_kept ?_ ?_ | with_reducible refine mapFst_kept ?_
    | with_reducible refine ite_kept ?_ ?_ | with_reducible refine iteP_kept ?_ ?_
    | with_reducible refine foldlP_kept ?_ ?_
    | with_reducible refine foldlP_kept' (by with_reducible assumption) ?_ ?_ | with_reducible intro _ | dsimp only
    | split)

theorem State.opsLost_kept {s : State} {fn : Nat} {dst : Nat}
    (hH : ∀ x ∈ ([.mem, .islets, .fns, .optim, .queues, .jobs, .reefs, .egress, .actions, .gov, .lanes, .mctp, .armed, .block .img, .block .isl, .block .mem, .block .pipe, .block .reef, .block .jl, .block .red, .block .opt, .block .svc, .block .hbr] : List Portion), H x = false)
    (hk0 : Kept pk wq H z0 s) : Kept pk wq H z0 (State.opsLost s fn dst) := by
  unfold State.opsLost
  repeat' (first
    | with_reducible assumption | exact held_sub hH rfl | exact held_one hH rfl | exact fldOk rfl
    | with_reducible refine State.peerLost_kept ?_ ?_ | with_reducible refine State.hostOpsLost_kept ?_ ?_
    | with_reducible refine ite_kept ?_ ?_ | with_reducible intro _ | dsimp only | split)

theorem State.ownLost_kept {s : State} {f : Flit} {reason : Nat}
    (hH : ∀ x ∈ ([.mem, .islets, .fns, .optim, .queues, .jobs, .reefs, .egress, .actions, .gov, .lanes, .mctp, .armed, .block .img, .block .isl, .block .mem, .block .pipe, .block .reef, .block .jl, .block .red, .block .opt, .block .svc, .block .hbr] : List Portion), H x = false)
    (hk0 : Kept pk wq H z0 s) : Kept pk wq H z0 (State.ownLost s f reason) := by
  unfold State.ownLost
  repeat' (first
    | with_reducible assumption | exact held_sub hH rfl | exact held_one hH rfl | exact fldOk rfl
    | with_reducible refine State.latchUnreach_kept ?_ ?_ | with_reducible refine State.fireEvent_kept ?_ ?_
    | with_reducible refine State.writeLost_kept ?_ ?_ | with_reducible refine State.opsLost_kept ?_ ?_
    | with_reducible refine ite_kept ?_ ?_ | with_reducible intro _ | dsimp only | split)

theorem State.unreach_kept {s : State} {f : Flit} {reason : Nat}
    (hH : ∀ x ∈ ([.mem, .islets, .fns, .optim, .queues, .jobs, .reefs, .egress, .actions, .gov, .lanes, .mctp, .armed, .block .img, .block .isl, .block .mem, .block .pipe, .block .reef, .block .jl, .block .red, .block .opt, .block .svc, .block .hbr] : List Portion), H x = false)
    (hk0 : Kept pk wq H z0 s) : Kept pk wq H z0 (State.unreach s f reason) := by
  unfold State.unreach
  repeat' (first
    | with_reducible assumption | exact held_sub hH rfl | exact held_one hH rfl | exact fldOk rfl
    | with_reducible refine State.sendTo_kept ?_ ?_ | with_reducible refine State.ownLost_kept ?_ ?_
    | with_reducible refine ite_kept ?_ ?_ | simp only [Kept.frame_iff, and_self, true_or, or_true]
    | with_reducible intro _ | dsimp only | split)

theorem State.dropRoute_kept {s : State} {f : Flit} {reason : Nat}
    (hH : ∀ x ∈ ([.mem, .islets, .fns, .optim, .queues, .jobs, .reefs, .egress, .actions, .gov, .lanes, .mctp, .armed, .block .img, .block .isl, .block .mem, .block .pipe, .block .reef, .block .jl, .block .red, .block .opt, .block .svc, .block .hbr] : List Portion), H x = false)
    (hk0 : Kept pk wq H z0 s) : Kept pk wq H z0 (State.dropRoute s f reason) := by
  unfold State.dropRoute
  repeat' (first
    | with_reducible assumption | exact held_sub hH rfl | exact held_one hH rfl | exact fldOk rfl
    | with_reducible refine State.satFld_kept ?_ ?_ ?_ | with_reducible refine State.unreach_kept ?_ ?_
    | with_reducible intro _ | dsimp only | split)

theorem State.dropFence_kept {s : State} {f : Flit}
    (hH : ∀ x ∈ ([.mem, .islets, .fns, .optim, .queues, .jobs, .reefs, .egress, .actions, .gov, .lanes, .mctp, .armed, .block .img, .block .isl, .block .mem, .block .pipe, .block .reef, .block .jl, .block .red, .block .opt, .block .svc, .block .hbr] : List Portion), H x = false)
    (hk0 : Kept pk wq H z0 s) : Kept pk wq H z0 (State.dropFence s f) := by
  unfold State.dropFence
  repeat' (first
    | with_reducible assumption | exact held_sub hH rfl | exact held_one hH rfl | exact fldOk rfl
    | with_reducible refine State.satFld_kept ?_ ?_ ?_ | with_reducible refine State.unreach_kept ?_ ?_
    | with_reducible intro _ | dsimp only | split)

theorem State.adapterSwitch_kept {s : State} {p : Nat}
    (hH : ∀ x ∈ ([.egress, .armed, .block .jl] : List Portion), H x = false) (hk0 : Kept pk wq H z0 s) : Kept pk wq H
    z0 (State.adapterSwitch s p) := by
  unfold State.adapterSwitch
  repeat' (first
    | with_reducible assumption | exact held_sub hH rfl | exact held_one hH rfl | exact fldOk rfl
    | with_reducible refine State.setFld_kept ?_ ?_ ?_ | with_reducible refine State.sendAdapter_kept ?_ ?_
    | with_reducible refine ite_kept ?_ ?_ | simp only [Kept.frame_iff, and_self, true_or, or_true]
    | with_reducible intro _ | dsimp only | split)

theorem State.takeTransits_kept {s : State} {bad : Nat → Transit → Bool}
    (hH : ∀ x ∈ ([.lanes] : List Portion), H x = false) (hk0 : Kept pk wq H z0 s) : Kept pk wq H z0
    (State.takeTransits s bad).1 := by
  have hLanes : H .lanes = false := held_one hH rfl
  unfold State.takeTransits
  repeat' (first
    | with_reducible assumption | with_reducible refine mapFst_kept ?_ | with_reducible refine ite_kept ?_ ?_
    | with_reducible refine iteP_kept ?_ ?_ | simp only [Kept.frame_iff, hLanes, and_self, true_or, or_true]
    | with_reducible intro _ | dsimp only | split)
theorem State.takeTransits_kept' {s : State} {bad : Nat → Transit → Bool} {t z}
    (e : State.takeTransits s bad = (t, z)) (hH : ∀ x ∈ ([.lanes] : List Portion), H x = false)
    (hk0 : Kept pk wq H z0 s) : Kept pk wq H z0 t := by
  have k : Kept pk wq H z0 (State.takeTransits s bad).1 := State.takeTransits_kept hH hk0
  rw [e] at k; exact k

theorem State.portDrop_kept {s : State} {p : Nat}
    (hH : ∀ x ∈ ([.mem, .islets, .fns, .optim, .queues, .jobs, .reefs, .ports, .egress, .actions, .gov, .lanes, .mctp, .armed, .block .img, .block .isl, .block .mem, .block .pipe, .block .reef, .block .jl, .block .red, .block .opt, .block .svc, .block .hbr] : List Portion), H x = false)
    (hk0 : Kept pk wq H z0 s) : Kept pk wq H z0 (State.portDrop s p) := by
  have hEgress : H .egress = false := held_one hH rfl
  unfold State.portDrop
  repeat' (first
    | with_reducible assumption | exact held_sub hH rfl | exact held_one hH rfl | exact fldOk rfl
    | with_reducible refine State.setFld_kept ?_ ?_ ?_ | with_reducible refine State.failReads_kept ?_
    | with_reducible refine State.portLate_kept ?_ ?_ | with_reducible refine State.modLink_kept ?_ ?_
    | with_reducible refine State.writeLost_kept ?_ ?_ | with_reducible refine State.unreach_kept ?_ ?_
    | with_reducible refine State.adapterSwitch_kept ?_ ?_ | with_reducible refine State.takeTransits_kept ?_ ?_
    | with_reducible refine foldl_kept ?_ ?_ | with_reducible refine mapFst_kept ?_
    | with_reducible refine iteP_kept ?_ ?_ | with_reducible refine foldlP_kept ?_ ?_
    | with_reducible refine State.takeTransits_kept' (by with_reducible assumption) ?_ ?_
    | with_reducible refine foldlP_kept' (by with_reducible assumption) ?_ ?_
    | simp only [Kept.frame_iff, hEgress, and_self, true_or, or_true] | with_reducible intro _ | dsimp only | split)

theorem State.portDown_kept {s : State} {p : Nat} {cause : Nat}
    (hH : ∀ x ∈ ([.mem, .islets, .fns, .optim, .queues, .jobs, .reefs, .ports, .egress, .actions, .gov, .lanes, .mctp, .armed, .block .img, .block .isl, .block .mem, .block .pipe, .block .reef, .block .jl, .block .red, .block .opt, .block .svc, .block .hbr] : List Portion), H x = false)
    (hk0 : Kept pk wq H z0 s) : Kept pk wq H z0 (State.portDown s p cause) := by
  unfold State.portDown
  repeat' (first
    | with_reducible assumption | exact held_sub hH rfl | exact held_one hH rfl | exact fldOk rfl
    | with_reducible refine State.setFld_kept ?_ ?_ ?_ | with_reducible refine State.satFld_kept ?_ ?_ ?_
    | with_reducible refine State.journal_kept ?_ ?_ | with_reducible refine State.enterPort_kept ?_ ?_
    | with_reducible refine State.portEvent_kept ?_ ?_ ?_ ?_ | with_reducible refine State.portDrop_kept ?_ ?_
    | with_reducible intro _ | dsimp only | split)

theorem State.replay_kept {s : State} {p : Nat}
    (hH : ∀ x ∈ ([.mem, .islets, .fns, .optim, .queues, .jobs, .reefs, .ports, .egress, .actions, .gov, .lanes, .mctp, .armed, .block .img, .block .isl, .block .mem, .block .pipe, .block .reef, .block .jl, .block .red, .block .opt, .block .svc, .block .hbr] : List Portion), H x = false)
    (hk0 : Kept pk wq H z0 s) : Kept pk wq H z0 (State.replay s p) := by
  unfold State.replay
  repeat' (first
    | with_reducible assumption | exact held_sub hH rfl | exact held_one hH rfl | exact fldOk rfl
    | with_reducible refine State.satFld_kept ?_ ?_ ?_ | with_reducible refine State.modLink_kept ?_ ?_
    | with_reducible refine State.portDown_kept ?_ ?_ | with_reducible refine ite_kept ?_ ?_
    | simp only [Kept.frame_iff, and_self, true_or, or_true] | with_reducible intro _ | dsimp only | split)

theorem State.rekeyDone_kept {s : State} {p : Nat} (hH : ∀ x ∈ ([.ports, .block .jl] : List Portion), H x = false)
    (hk0 : Kept pk wq H z0 s) : Kept pk wq H z0 (State.rekeyDone s p) := by
  unfold State.rekeyDone
  repeat' (first
    | with_reducible assumption | exact held_sub hH rfl | exact held_one hH rfl | exact fldOk rfl
    | with_reducible refine State.setFld_kept ?_ ?_ ?_ | with_reducible refine State.modLink_kept ?_ ?_
    | with_reducible refine ite_kept ?_ ?_ | simp only [Kept.frame_iff, and_self, true_or, or_true]
    | with_reducible intro _ | dsimp only | split)

theorem State.txSettle_kept {s : State} {p : Nat}
    (hH : ∀ x ∈ ([.ports, .egress, .mctp, .armed, .block .jl, .block .hbr] : List Portion), H x = false)
    (hk0 : Kept pk wq H z0 s) : Kept pk wq H z0 (State.txSettle s p) := by
  unfold State.txSettle
  repeat' (first
    | with_reducible assumption | exact held_sub hH rfl | exact held_one hH rfl | exact fldOk rfl
    | with_reducible refine State.modLink_kept ?_ ?_ | with_reducible refine State.portEvent_kept ?_ ?_ ?_ ?_
    | with_reducible refine State.rekeyDone_kept ?_ ?_ | with_reducible refine ite_kept ?_ ?_
    | simp only [Kept.frame_iff, and_self, true_or, or_true] | with_reducible intro _ | dsimp only | split)

theorem State.takeAck_kept {s : State} {p : Nat} {ack : Nat}
    (hH : ∀ x ∈ ([.ports, .egress, .mctp, .armed, .block .jl, .block .hbr] : List Portion), H x = false)
    (hk0 : Kept pk wq H z0 s) : Kept pk wq H z0 (State.takeAck s p ack) := by
  unfold State.takeAck
  repeat' (first
    | with_reducible assumption | exact held_sub hH rfl | exact held_one hH rfl | exact fldOk rfl
    | with_reducible refine State.modLink_kept ?_ ?_ | with_reducible refine State.txSettle_kept ?_ ?_
    | with_reducible refine ite_kept ?_ ?_ | simp only [Kept.frame_iff, and_self, true_or, or_true]
    | with_reducible intro _ | dsimp only | split)

theorem State.takeCredits_kept {s : State} {p : Nat} {cr : List Nat}
    (hH : ∀ x ∈ ([.ports] : List Portion), H x = false) (hk0 : Kept pk wq H z0 s) : Kept pk wq H z0
    (State.takeCredits s p cr) := by
  unfold State.takeCredits
  repeat' (first
    | with_reducible assumption | exact held_sub hH rfl | exact held_one hH rfl | exact fldOk rfl
    | with_reducible refine State.modLink_kept ?_ ?_ | with_reducible refine getD_kept ?_ ?_
    | with_reducible refine mapFst_kept ?_ | simp only [Kept.frame_iff, and_self, true_or, or_true]
    | with_reducible intro _ | dsimp only | split)

theorem State.freeSlot_kept {s : State} {p : Nat} {vc : Nat} (hH : ∀ x ∈ ([.ports] : List Portion), H x = false)
    (hk0 : Kept pk wq H z0 s) : Kept pk wq H z0 (State.freeSlot s p vc) := by
  unfold State.freeSlot
  repeat' (first
    | with_reducible assumption | exact held_sub hH rfl | exact held_one hH rfl | exact fldOk rfl
    | with_reducible refine State.modLink_kept ?_ ?_ | simp only [Kept.frame_iff, and_self, true_or, or_true]
    | with_reducible intro _ | dsimp only | split)

theorem State.lostFlit_kept {s : State} {p : Nat} (hH : ∀ x ∈ ([.ports] : List Portion), H x = false)
    (hk0 : Kept pk wq H z0 s) : Kept pk wq H z0 (State.lostFlit s p) := by
  unfold State.lostFlit
  repeat' (first
    | with_reducible assumption | exact held_sub hH rfl | exact held_one hH rfl | exact fldOk rfl
    | with_reducible refine State.modLink_kept ?_ ?_ | simp only [Kept.frame_iff, and_self, true_or, or_true]
    | with_reducible intro _ | dsimp only | split)

theorem State.outOfOrder_kept {s : State} {p : Nat} (hH : ∀ x ∈ ([.ports] : List Portion), H x = false)
    (hk0 : Kept pk wq H z0 s) : Kept pk wq H z0 (State.outOfOrder s p) := by
  unfold State.outOfOrder
  repeat' (first
    | with_reducible assumption | exact held_sub hH rfl | exact held_one hH rfl | exact fldOk rfl
    | with_reducible refine State.lostFlit_kept ?_ ?_ | with_reducible refine ite_kept ?_ ?_ | with_reducible intro _
    | dsimp only | split)

theorem State.authFail_kept {s : State} {p : Nat}
    (hH : ∀ x ∈ ([.mem, .islets, .fns, .optim, .queues, .jobs, .reefs, .ports, .egress, .actions, .gov, .lanes, .mctp, .armed, .block .img, .block .isl, .block .mem, .block .pipe, .block .reef, .block .jl, .block .red, .block .opt, .block .svc, .block .hbr] : List Portion), H x = false)
    (hk0 : Kept pk wq H z0 s) : Kept pk wq H z0 (State.authFail s p) := by
  unfold State.authFail
  repeat' (first
    | with_reducible assumption | exact held_sub hH rfl | exact held_one hH rfl | exact fldOk rfl
    | with_reducible refine State.satFld_kept ?_ ?_ ?_ | with_reducible refine State.portEvent_kept ?_ ?_ ?_ ?_
    | with_reducible refine State.portDown_kept ?_ ?_ | with_reducible intro _ | dsimp only | split)

theorem State.fecCorr_kept {s : State} {p : Nat} {n : Nat} (hH : ∀ x ∈ ([.block .jl] : List Portion), H x = false)
    (hk0 : Kept pk wq H z0 s) : Kept pk wq H z0 (State.fecCorr s p n) := by
  unfold State.fecCorr
  repeat' (first
    | with_reducible assumption | exact held_sub hH rfl | exact held_one hH rfl | exact fldOk rfl
    | with_reducible refine State.satFld_kept ?_ ?_ ?_ | with_reducible refine ite_kept ?_ ?_ | with_reducible intro _
    | dsimp only | split)

theorem State.setEgress_kept {s : State} {p : Nat} {vc : Nat} {q : List Flit}
    (hH : ∀ x ∈ ([.egress] : List Portion), H x = false) (hk0 : Kept pk wq H z0 s) : Kept pk wq H z0
    (State.setEgress s p vc q) := by
  have hEgress : H .egress = false := held_one hH rfl
  unfold State.setEgress
  repeat' (first
    | with_reducible assumption | with_reducible refine ite_kept ?_ ?_
    | simp only [Kept.frame_iff, hEgress, and_self, true_or, or_true] | with_reducible intro _ | dsimp only | split)

theorem State.rekeyAbandon_kept {s : State} {p : Nat}
    (hH : ∀ x ∈ ([.ports, .egress, .block .jl] : List Portion), H x = false) (hk0 : Kept pk wq H z0 s) : Kept pk wq H
    z0 (State.rekeyAbandon s p) := by
  unfold State.rekeyAbandon
  repeat' (first
    | with_reducible assumption | exact held_sub hH rfl | exact held_one hH rfl | exact fldOk rfl
    | with_reducible refine State.setFld_kept ?_ ?_ ?_ | with_reducible refine State.modLink_kept ?_ ?_
    | with_reducible refine State.setEgress_kept ?_ ?_ | simp only [Kept.frame_iff, and_self, true_or, or_true]
    | with_reducible intro _ | dsimp only | split)

theorem State.windowsClosed_kept {s : State} {p : Nat}
    (hH : ∀ x ∈ ([.mem, .islets, .fns, .optim, .queues, .jobs, .reefs, .ports, .egress, .actions, .gov, .lanes, .mctp, .armed, .block .img, .block .isl, .block .mem, .block .pipe, .block .reef, .block .jl, .block .red, .block .opt, .block .svc, .block .hbr] : List Portion), H x = false)
    (hk0 : Kept pk wq H z0 s) : Kept pk wq H z0 (State.windowsClosed s p) := by
  unfold State.windowsClosed
  repeat' (first
    | with_reducible assumption | exact held_sub hH rfl | exact held_one hH rfl | exact fldOk rfl
    | with_reducible refine State.portDown_kept ?_ ?_ | with_reducible refine State.replay_kept ?_ ?_
    | with_reducible refine State.rekeyAbandon_kept ?_ ?_ | with_reducible refine ite_kept ?_ ?_
    | with_reducible intro _ | dsimp only | split)

theorem State.linkIn_kept {s : State} {p : Nat} {rx : RxFlit}
    (hH : ∀ x ∈ ([.mem, .islets, .fns, .optim, .queues, .jobs, .reefs, .ports, .egress, .actions, .gov, .lanes, .mctp, .armed, .block .img, .block .isl, .block .mem, .block .pipe, .block .reef, .block .jl, .block .red, .block .opt, .block .svc, .block .hbr] : List Portion), H x = false)
    (hk0 : Kept pk wq H z0 s) : Kept pk wq H z0 (State.linkIn s p rx).1 := by
  unfold State.linkIn
  repeat' (first
    | with_reducible assumption | exact held_sub hH rfl | exact held_one hH rfl | exact fldOk rfl
    | with_reducible refine State.addFld_kept ?_ ?_ ?_ | with_reducible refine State.modLink_kept ?_ ?_
    | with_reducible refine State.replay_kept ?_ ?_ | with_reducible refine State.takeAck_kept ?_ ?_
    | with_reducible refine State.takeCredits_kept ?_ ?_ | with_reducible refine State.outOfOrder_kept ?_ ?_
    | with_reducible refine State.authFail_kept ?_ ?_ | with_reducible refine State.fecCorr_kept ?_ ?_
    | with_reducible refine State.windowsClosed_kept ?_ ?_ | with_reducible refine ite_kept ?_ ?_
    | with_reducible refine iteP_kept ?_ ?_ | simp only [Kept.frame_iff, and_self, true_or, or_true]
    | with_reducible intro _ | dsimp only | split)
theorem State.linkIn_kept' {s : State} {p : Nat} {rx : RxFlit} {t z} (e : State.linkIn s p rx = (t, z))
    (hH : ∀ x ∈ ([.mem, .islets, .fns, .optim, .queues, .jobs, .reefs, .ports, .egress, .actions, .gov, .lanes, .mctp, .armed, .block .img, .block .isl, .block .mem, .block .pipe, .block .reef, .block .jl, .block .red, .block .opt, .block .svc, .block .hbr] : List Portion), H x = false)
    (hk0 : Kept pk wq H z0 s) : Kept pk wq H z0 t := by
  have k : Kept pk wq H z0 (State.linkIn s p rx).1 := State.linkIn_kept hH hk0
  rw [e] at k; exact k

theorem State.sentFlit_kept {s : State} {p : Nat} {f : Flit} {seq : Nat}
    (hH : ∀ x ∈ ([.ports, .block .jl] : List Portion), H x = false) (hk0 : Kept pk wq H z0 s) : Kept pk wq H z0
    (State.sentFlit s p f seq) := by
  unfold State.sentFlit
  repeat' (first
    | with_reducible assumption | exact held_sub hH rfl | exact held_one hH rfl | exact fldOk rfl
    | with_reducible refine State.addFld_kept ?_ ?_ ?_ | with_reducible refine State.modLink_kept ?_ ?_
    | simp only [Kept.frame_iff, and_self, true_or, or_true] | with_reducible intro _ | dsimp only | split)

theorem State.sentIdle_kept {s : State} {p : Nat} (hH : ∀ x ∈ ([.ports, .block .jl] : List Portion), H x = false)
    (hk0 : Kept pk wq H z0 s) : Kept pk wq H z0 (State.sentIdle s p) := by
  unfold State.sentIdle
  repeat' (first
    | with_reducible assumption | exact held_sub hH rfl | exact held_one hH rfl | exact fldOk rfl
    | with_reducible refine State.sentFlit_kept ?_ ?_ | simp only [Kept.frame_iff, and_self, true_or, or_true]
    | with_reducible intro _ | dsimp only | split)

theorem State.resendFlit_kept {s : State} {p : Nat} (hH : ∀ x ∈ ([.ports, .block .jl] : List Portion), H x = false)
    (hk0 : Kept pk wq H z0 s) : Kept pk wq H z0 (State.resendFlit s p) := by
  unfold State.resendFlit
  repeat' (first
    | with_reducible assumption | exact held_sub hH rfl | exact held_one hH rfl | exact fldOk rfl
    | with_reducible refine State.modLink_kept ?_ ?_ | with_reducible refine State.sentFlit_kept ?_ ?_
    | with_reducible refine ite_kept ?_ ?_ | simp only [Kept.frame_iff, and_self, true_or, or_true]
    | with_reducible intro _ | dsimp only | split)

theorem State.popEgress_kept {s : State} {p : Nat} {vc : Nat} (hH : ∀ x ∈ ([.egress] : List Portion), H x = false)
    (hk0 : Kept pk wq H z0 s) : Kept pk wq H z0 (State.popEgress s p vc) := by
  have hEgress : H .egress = false := held_one hH rfl
  unfold State.popEgress
  repeat' (first
    | with_reducible assumption | with_reducible refine ite_kept ?_ ?_
    | simp only [Kept.frame_iff, hEgress, and_self, true_or, or_true] | with_reducible intro _ | dsimp only | split)

theorem State.dropStalled_kept {s : State} {p : Nat} {vc : Nat}
    (hH : ∀ x ∈ ([.mem, .islets, .fns, .optim, .queues, .jobs, .reefs, .egress, .actions, .gov, .lanes, .mctp, .armed, .block .img, .block .isl, .block .mem, .block .pipe, .block .reef, .block .jl, .block .red, .block .opt, .block .svc, .block .hbr] : List Portion), H x = false)
    (hk0 : Kept pk wq H z0 s) : Kept pk wq H z0 (State.dropStalled s p vc) := by
  unfold State.dropStalled
  repeat' (first
    | with_reducible assumption | exact held_sub hH rfl | exact held_one hH rfl | exact fldOk rfl
    | with_reducible refine State.dropRoute_kept ?_ ?_ | with_reducible refine State.popEgress_kept ?_ ?_
    | with_reducible refine ite_kept ?_ ?_ | with_reducible intro _ | dsimp only | split)

theorem State.readLeaves_kept {s : State} {p : Nat} {f : Flit} (hk0 : Kept pk wq H z0 s) : Kept pk wq H z0
    (State.readLeaves s p f) := by
  unfold State.readLeaves
  repeat' (first
    | with_reducible assumption | with_reducible refine mapFst_kept ?_ | with_reducible refine ite_kept ?_ ?_
    | simp only [Kept.frame_iff, and_self, true_or, or_true] | with_reducible intro _ | dsimp only | split)

theorem State.switchTx_kept {s : State} {p : Nat} (hH : ∀ x ∈ ([.ports, .block .jl] : List Portion), H x = false)
    (hk0 : Kept pk wq H z0 s) : Kept pk wq H z0 (State.switchTx s p) := by
  unfold State.switchTx
  repeat' (first
    | with_reducible assumption | exact held_sub hH rfl | exact held_one hH rfl | exact fldOk rfl
    | with_reducible refine State.setFld_kept ?_ ?_ ?_ | with_reducible refine State.modLink_kept ?_ ?_
    | simp only [Kept.frame_iff, and_self, true_or, or_true] | with_reducible intro _ | dsimp only | split)

theorem State.sendNew_kept {s : State} {p : Nat} {f : Flit}
    (hH : ∀ x ∈ ([.ports, .egress, .block .jl] : List Portion), H x = false) (hk0 : Kept pk wq H z0 s) : Kept pk wq H
    z0 (State.sendNew s p f) := by
  unfold State.sendNew
  repeat' (first
    | with_reducible assumption | exact held_sub hH rfl | exact held_one hH rfl | exact fldOk rfl
    | with_reducible refine State.addFld_kept ?_ ?_ ?_ | with_reducible refine State.modLink_kept ?_ ?_
    | with_reducible refine State.sentFlit_kept ?_ ?_ | with_reducible refine State.popEgress_kept ?_ ?_
    | with_reducible refine State.readLeaves_kept ?_ | with_reducible refine State.switchTx_kept ?_ ?_
    | with_reducible refine mapFst_kept ?_ | with_reducible refine ite_kept ?_ ?_
    | simp only [Kept.frame_iff, and_self, true_or, or_true] | with_reducible intro _ | dsimp only | split)

theorem execFlitCorrupt_kept {p : Nat} {bad : BadFlit} {s : State}
    (hH : ∀ x ∈ ([.ports, .block .jl] : List Portion), H x = false) (hk0 : Kept pk wq H z0 s) : Kept.Outcome pk wq H
    z0 (execFlitCorrupt p bad s) := by
  unfold execFlitCorrupt
  repeat' (first
    | with_reducible assumption | exact held_sub hH rfl | exact held_one hH rfl | exact fldOk rfl
    | exact fldIte rfl rfl | exact fldIte_held (held_one hH rfl) (held_one hH rfl)
    | with_reducible refine State.satFld_kept ?_ ?_ ?_ | with_reducible refine State.lostFlit_kept ?_ ?_
    | with_reducible refine State.fecCorr_kept ?_ ?_ | with_reducible refine ite_kept ?_ ?_
    | with_reducible refine iteO_kept ?_ ?_ | with_reducible refine Kept.next ?_ | with_reducible intro _ | dsimp only
    | split)

theorem execReplayTimeout_kept {p : Nat} {s : State}
    (hH : ∀ x ∈ ([.mem, .islets, .fns, .optim, .queues, .jobs, .reefs, .ports, .egress, .actions, .gov, .lanes, .mctp, .armed, .counts, .block .img, .block .isl, .block .mem, .block .pipe, .block .reef, .block .jl, .block .red, .block .opt, .block .svc, .block .hbr] : List Portion), H x = false)
    (hk0 : Kept pk wq H z0 s) : Kept.Outcome pk wq H z0 (execReplayTimeout p s) := by
  unfold execReplayTimeout
  repeat' (first
    | with_reducible assumption | exact held_sub hH rfl | exact held_one hH rfl | exact fldOk rfl
    | with_reducible refine State.reachCount_kept ?_ ?_ | with_reducible refine State.replay_kept ?_ ?_
    | with_reducible refine ite_kept ?_ ?_ | with_reducible refine iteO_kept ?_ ?_
    | with_reducible refine Kept.next ?_ | with_reducible intro _ | dsimp only | split)

theorem execLivenessTimeout_kept {p : Nat} {s : State}
    (hH : ∀ x ∈ ([.mem, .islets, .fns, .optim, .queues, .jobs, .reefs, .ports, .egress, .actions, .gov, .lanes, .mctp, .armed, .counts, .block .img, .block .isl, .block .mem, .block .pipe, .block .reef, .block .jl, .block .red, .block .opt, .block .svc, .block .hbr] : List Portion), H x = false)
    (hk0 : Kept pk wq H z0 s) : Kept.Outcome pk wq H z0 (execLivenessTimeout p s) := by
  unfold execLivenessTimeout
  repeat' (first
    | with_reducible assumption | exact held_sub hH rfl | exact held_one hH rfl | exact fldOk rfl
    | with_reducible refine State.reachCount_kept ?_ ?_ | with_reducible refine State.portDown_kept ?_ ?_
    | with_reducible refine ite_kept ?_ ?_ | with_reducible refine iteO_kept ?_ ?_
    | with_reducible refine Kept.next ?_ | with_reducible intro _ | dsimp only | split)

theorem execCounterLimit_kept {p : Nat} {s : State}
    (hH : ∀ x ∈ ([.mem, .islets, .fns, .optim, .queues, .jobs, .reefs, .ports, .egress, .actions, .gov, .lanes, .mctp, .armed, .block .img, .block .isl, .block .mem, .block .pipe, .block .reef, .block .jl, .block .red, .block .opt, .block .svc, .block .hbr] : List Portion), H x = false)
    (hk0 : Kept pk wq H z0 s) : Kept.Outcome pk wq H z0 (execCounterLimit p s) := by
  unfold execCounterLimit
  repeat' (first
    | with_reducible assumption | exact held_sub hH rfl | exact held_one hH rfl | exact fldOk rfl
    | with_reducible refine State.portDown_kept ?_ ?_ | with_reducible refine ite_kept ?_ ?_
    | with_reducible refine iteO_kept ?_ ?_ | with_reducible refine Kept.next ?_ | with_reducible intro _ | dsimp only
    | split)

theorem State.forward_kept {s : State} {p : Nat} {f : Flit} {q : Nat}
    (hH : ∀ x ∈ ([.mem, .islets, .fns, .optim, .queues, .jobs, .reefs, .egress, .actions, .gov, .lanes, .mctp, .armed, .block .img, .block .isl, .block .mem, .block .pipe, .block .reef, .block .jl, .block .red, .block .opt, .block .svc, .block .hbr] : List Portion), H x = false)
    (hk0 : Kept pk wq H z0 s) : Kept pk wq H z0 (State.forward s p f q) := by
  unfold State.forward
  repeat' (first
    | with_reducible assumption | exact held_sub hH rfl | exact held_one hH rfl | exact fldOk rfl
    | with_reducible refine State.straitPut_kept ?_ ?_ | with_reducible refine State.queueFlit_kept ?_ ?_
    | with_reducible refine State.dropRoute_kept ?_ ?_ | with_reducible refine ite_kept ?_ ?_
    | simp only [Kept.frame_iff, and_self, true_or, or_true] | with_reducible intro _ | dsimp only | split)

theorem State.transitArrives_kept {s : State} {t : Transit}
    (hH : ∀ x ∈ ([.mem, .islets, .fns, .optim, .queues, .jobs, .reefs, .ports, .egress, .actions, .gov, .lanes, .mctp, .armed, .block .img, .block .isl, .block .mem, .block .pipe, .block .reef, .block .jl, .block .red, .block .opt, .block .svc, .block .hbr] : List Portion), H x = false)
    (hk0 : Kept pk wq H z0 s) : Kept pk wq H z0 (State.transitArrives s t) := by
  unfold State.transitArrives
  repeat' (first
    | with_reducible assumption | exact held_sub hH rfl | exact held_one hH rfl | exact fldOk rfl
    | with_reducible refine State.queueFlit_kept ?_ ?_ | with_reducible refine State.dropRoute_kept ?_ ?_
    | with_reducible refine State.freeSlot_kept ?_ ?_ | with_reducible refine ite_kept ?_ ?_
    | simp only [Kept.frame_iff, and_self, true_or, or_true] | with_reducible intro _ | dsimp only | split)

theorem State.routeIn_kept {s : State} {p : Nat} {f : Flit} {act : State → State}
    (hH : ∀ x ∈ ([.mem, .islets, .fns, .optim, .queues, .jobs, .reefs, .egress, .actions, .gov, .lanes, .mctp, .armed, .block .img, .block .isl, .block .mem, .block .pipe, .block .reef, .block .jl, .block .red, .block .opt, .block .svc, .block .hbr] : List Portion), H x = false)
    (hk0 : Kept pk wq H z0 s) (hact : ∀ s0, Kept pk wq H z0 s0 → Kept pk wq H z0 (act s0)) : Kept pk wq H z0
    (State.routeIn s p f act) := by
  unfold State.routeIn
  repeat' (first
    | with_reducible assumption | exact held_sub hH rfl | exact held_one hH rfl | exact fldOk rfl
    | with_reducible refine State.queueFlit_kept ?_ ?_ | with_reducible refine State.dropRoute_kept ?_ ?_
    | with_reducible refine State.dropFence_kept ?_ ?_ | with_reducible refine State.forward_kept ?_ ?_
    | with_reducible apply hact | with_reducible refine ite_kept ?_ ?_
    | simp only [Kept.frame_iff, and_self, true_or, or_true] | with_reducible intro _ | dsimp only | split)

theorem State.slotAfter_kept {s : State} {p : Nat} {f : Flit} {moving : Bool}
    (hH : ∀ x ∈ ([.ports] : List Portion), H x = false) (hk0 : Kept pk wq H z0 s) : Kept pk wq H z0
    (State.slotAfter s p f moving) := by
  unfold State.slotAfter
  repeat' (first
    | with_reducible assumption | exact held_sub hH rfl | exact held_one hH rfl | exact fldOk rfl
    | with_reducible refine State.freeSlot_kept ?_ ?_ | with_reducible refine ite_kept ?_ ?_ | with_reducible intro _
    | dsimp only | split)

theorem State.arrive_kept {s : State} {p : Nat} {rx : RxFlit} {kind : Bool} {act : State → State}
    (hH : ∀ x ∈ ([.mem, .islets, .fns, .optim, .queues, .jobs, .reefs, .ports, .egress, .actions, .gov, .lanes, .mctp, .armed, .block .img, .block .isl, .block .mem, .block .pipe, .block .reef, .block .jl, .block .red, .block .opt, .block .svc, .block .hbr] : List Portion), H x = false)
    (hk0 : Kept pk wq H z0 s) (hact : ∀ s0, Kept pk wq H z0 s0 → Kept pk wq H z0 (act s0)) : Kept pk wq H z0
    (State.arrive s p rx kind act) := by
  unfold State.arrive
  repeat' (first
    | with_reducible assumption | exact held_sub hH rfl | exact held_one hH rfl | exact fldOk rfl
    | with_reducible refine State.linkIn_kept ?_ ?_ | with_reducible refine State.routeIn_kept ?_ ?_ ?_
    | with_reducible refine State.slotAfter_kept ?_ ?_ | with_reducible apply hact
    | with_reducible refine ite_kept ?_ ?_
    | with_reducible refine State.linkIn_kept' (by with_reducible assumption) ?_ ?_ | with_reducible intro _
    | dsimp only | split)

theorem execIdle_kept {p : Nat} {rx : RxFlit} {s : State}
    (hH : ∀ x ∈ ([.mem, .islets, .fns, .optim, .queues, .jobs, .reefs, .ports, .egress, .actions, .gov, .lanes, .mctp, .armed, .block .img, .block .isl, .block .mem, .block .pipe, .block .reef, .block .jl, .block .red, .block .opt, .block .svc, .block .hbr] : List Portion), H x = false)
    (hk0 : Kept pk wq H z0 s) : Kept.Outcome pk wq H z0 (execIdle p rx s) := by
  unfold execIdle
  repeat' (first
    | with_reducible assumption | exact held_sub hH rfl | exact held_one hH rfl | exact fldOk rfl
    | with_reducible refine State.linkIn_kept ?_ ?_ | with_reducible refine ite_kept ?_ ?_
    | with_reducible refine iteO_kept ?_ ?_
    | with_reducible refine State.linkIn_kept' (by with_reducible assumption) ?_ ?_
    | with_reducible refine Kept.next ?_ | with_reducible intro _ | dsimp only | split)

theorem execInterrupt_kept {p : Nat} {rx : RxFlit} {s : State}
    (hH : ∀ x ∈ ([.mem, .islets, .fns, .optim, .queues, .jobs, .reefs, .ports, .egress, .actions, .gov, .lanes, .mctp, .armed, .block .img, .block .isl, .block .mem, .block .pipe, .block .reef, .block .jl, .block .red, .block .opt, .block .svc, .block .hbr] : List Portion), H x = false)
    (hk0 : Kept pk wq H z0 s) : Kept.Outcome pk wq H z0 (execInterrupt p rx s) := by
  unfold execInterrupt
  repeat' (first
    | with_reducible assumption | exact held_sub hH rfl | exact held_one hH rfl | exact fldOk rfl
    | with_reducible refine State.arrive_kept ?_ ?_ ?_ | with_reducible refine id_kept ?_
    | with_reducible refine iteO_kept ?_ ?_ | with_reducible refine Kept.next ?_ | with_reducible intro _ | dsimp only
    | split)

theorem execClaimAck_kept {p : Nat} {rx : RxFlit} {s : State}
    (hH : ∀ x ∈ ([.mem, .islets, .fns, .optim, .queues, .jobs, .reefs, .ports, .egress, .actions, .gov, .lanes, .mctp, .armed, .block .img, .block .isl, .block .mem, .block .pipe, .block .reef, .block .jl, .block .red, .block .opt, .block .svc, .block .hbr] : List Portion), H x = false)
    (hk0 : Kept pk wq H z0 s) : Kept.Outcome pk wq H z0 (execClaimAck p rx s) := by
  unfold execClaimAck
  repeat' (first
    | with_reducible assumption | exact held_sub hH rfl | exact held_one hH rfl | exact fldOk rfl
    | with_reducible refine State.arrive_kept ?_ ?_ ?_ | with_reducible refine id_kept ?_
    | with_reducible refine iteO_kept ?_ ?_ | with_reducible refine Kept.next ?_ | with_reducible intro _ | dsimp only
    | split)

theorem execClaimEnd_kept {p : Nat} {rx : RxFlit} {s : State}
    (hH : ∀ x ∈ ([.mem, .islets, .fns, .optim, .queues, .jobs, .reefs, .ports, .egress, .actions, .gov, .lanes, .mctp, .armed, .block .img, .block .isl, .block .mem, .block .pipe, .block .reef, .block .jl, .block .red, .block .opt, .block .svc, .block .hbr] : List Portion), H x = false)
    (hk0 : Kept pk wq H z0 s) : Kept.Outcome pk wq H z0 (execClaimEnd p rx s) := by
  unfold execClaimEnd
  repeat' (first
    | with_reducible assumption | exact held_sub hH rfl | exact held_one hH rfl | exact fldOk rfl
    | with_reducible refine State.arrive_kept ?_ ?_ ?_ | with_reducible refine id_kept ?_
    | with_reducible refine iteO_kept ?_ ?_ | with_reducible refine Kept.next ?_ | with_reducible intro _ | dsimp only
    | split)

theorem execProbeAck_kept {p : Nat} {rx : RxFlit} {s : State}
    (hH : ∀ x ∈ ([.mem, .islets, .fns, .optim, .queues, .jobs, .reefs, .ports, .egress, .actions, .gov, .lanes, .mctp, .armed, .block .img, .block .isl, .block .mem, .block .pipe, .block .reef, .block .jl, .block .red, .block .opt, .block .svc, .block .hbr] : List Portion), H x = false)
    (hk0 : Kept pk wq H z0 s) : Kept.Outcome pk wq H z0 (execProbeAck p rx s) := by
  unfold execProbeAck
  repeat' (first
    | with_reducible assumption | exact held_sub hH rfl | exact held_one hH rfl | exact fldOk rfl
    | with_reducible refine State.arrive_kept ?_ ?_ ?_ | with_reducible refine id_kept ?_
    | with_reducible refine iteO_kept ?_ ?_ | with_reducible refine Kept.next ?_ | with_reducible intro _ | dsimp only
    | split)

theorem execBrk_kept {p : Nat} {rx : RxFlit} {s : State}
    (hH : ∀ x ∈ ([.mem, .islets, .fns, .optim, .queues, .jobs, .reefs, .ports, .egress, .actions, .gov, .lanes, .mctp, .armed, .block .img, .block .isl, .block .mem, .block .pipe, .block .reef, .block .jl, .block .red, .block .opt, .block .svc, .block .hbr] : List Portion), H x = false)
    (hk0 : Kept pk wq H z0 s) : Kept.Outcome pk wq H z0 (execBrk p rx s) := by
  unfold execBrk
  repeat' (first
    | with_reducible assumption | exact held_sub hH rfl | exact held_one hH rfl | exact fldOk rfl
    | with_reducible refine State.arrive_kept ?_ ?_ ?_ | with_reducible refine id_kept ?_
    | with_reducible refine iteO_kept ?_ ?_ | with_reducible refine Kept.next ?_ | with_reducible intro _ | dsimp only
    | split)

theorem State.takeUnreachable_kept {s : State} {f : Flit}
    (hH : ∀ x ∈ ([.mem, .islets, .fns, .optim, .queues, .jobs, .reefs, .egress, .actions, .gov, .lanes, .mctp, .armed, .block .img, .block .isl, .block .mem, .block .pipe, .block .reef, .block .jl, .block .red, .block .opt, .block .svc, .block .hbr] : List Portion), H x = false)
    (hk0 : Kept pk wq H z0 s) : Kept pk wq H z0 (State.takeUnreachable s f) := by
  unfold State.takeUnreachable
  repeat' (first
    | with_reducible assumption | exact held_sub hH rfl | exact held_one hH rfl | exact fldOk rfl
    | with_reducible refine State.ownLost_kept ?_ ?_ | simp only [Kept.frame_iff, and_self, true_or, or_true]
    | with_reducible intro _ | dsimp only | split)

theorem execUnreachable_kept {p : Nat} {rx : RxFlit} {s : State}
    (hH : ∀ x ∈ ([.mem, .islets, .fns, .optim, .queues, .jobs, .reefs, .ports, .egress, .actions, .gov, .lanes, .mctp, .armed, .block .img, .block .isl, .block .mem, .block .pipe, .block .reef, .block .jl, .block .red, .block .opt, .block .svc, .block .hbr] : List Portion), H x = false)
    (hk0 : Kept pk wq H z0 s) : Kept.Outcome pk wq H z0 (execUnreachable p rx s) := by
  unfold execUnreachable
  repeat' (first
    | with_reducible assumption | exact held_sub hH rfl | exact held_one hH rfl | exact fldOk rfl
    | with_reducible refine State.arrive_kept ?_ ?_ ?_ | with_reducible refine State.takeUnreachable_kept ?_ ?_
    | with_reducible refine iteO_kept ?_ ?_ | with_reducible refine Kept.next ?_ | with_reducible intro _ | dsimp only
    | split)

theorem execFlitStall_kept {p : Nat} {vc : Nat} {s : State}
    (hH : ∀ x ∈ ([.mem, .islets, .fns, .optim, .queues, .jobs, .reefs, .egress, .actions, .gov, .lanes, .mctp, .armed, .counts, .block .img, .block .isl, .block .mem, .block .pipe, .block .reef, .block .jl, .block .red, .block .opt, .block .svc, .block .hbr] : List Portion), H x = false)
    (hk0 : Kept pk wq H z0 s) : Kept.Outcome pk wq H z0 (execFlitStall p vc s) := by
  unfold execFlitStall
  repeat' (first
    | with_reducible assumption | exact held_sub hH rfl | exact held_one hH rfl | exact fldOk rfl
    | with_reducible refine State.reachCount_kept ?_ ?_ | with_reducible refine State.dropRoute_kept ?_ ?_
    | with_reducible refine State.popEgress_kept ?_ ?_ | with_reducible refine ite_kept ?_ ?_
    | with_reducible refine iteO_kept ?_ ?_ | with_reducible refine Kept.next ?_ | with_reducible intro _ | dsimp only
    | split)

theorem State.takeReadRsp_kept {s : State} {f : Flit}
    (hH : ∀ x ∈ ([.fns, .egress, .lanes, .armed, .block .jl] : List Portion), H x = false) (hk0 : Kept pk wq H z0 s) :
    Kept pk wq H z0 (State.takeReadRsp s f) := by
  unfold State.takeReadRsp
  repeat' (first
    | with_reducible assumption | exact held_sub hH rfl | exact held_one hH rfl | exact fldOk rfl
    | with_reducible refine State.straitOffer_kept ?_ ?_ | with_reducible refine State.issueReads_kept ?_ ?_
    | with_reducible refine State.copyPage.done_kept ?_ ?_ | with_reducible refine ite_kept ?_ ?_
    | simp only [Kept.frame_iff, and_self, true_or, or_true] | with_reducible intro _ | dsimp only | split)

theorem execReadRsp_kept {p : Nat} {rx : RxFlit} {s : State}
    (hH : ∀ x ∈ ([.mem, .islets, .fns, .optim, .queues, .jobs, .reefs, .ports, .egress, .actions, .gov, .lanes, .mctp, .armed, .block .img, .block .isl, .block .mem, .block .pipe, .block .reef, .block .jl, .block .red, .block .opt, .block .svc, .block .hbr] : List Portion), H x = false)
    (hk0 : Kept pk wq H z0 s) : Kept.Outcome pk wq H z0 (execReadRsp p rx s) := by
  unfold execReadRsp
  repeat' (first
    | with_reducible assumption | exact held_sub hH rfl | exact held_one hH rfl | exact fldOk rfl
    | with_reducible refine State.arrive_kept ?_ ?_ ?_ | with_reducible refine State.takeReadRsp_kept ?_ ?_
    | with_reducible refine iteO_kept ?_ ?_ | with_reducible refine Kept.next ?_ | with_reducible intro _ | dsimp only
    | split)

theorem execReadTimeout_kept {fn : Nat} {tag : Nat} {s : State}
    (hH : ∀ x ∈ ([.fns, .egress, .lanes, .armed, .counts, .block .jl] : List Portion), H x = false)
    (hk0 : Kept pk wq H z0 s) : Kept.Outcome pk wq H z0 (execReadTimeout fn tag s) := by
  unfold execReadTimeout
  repeat' (first
    | with_reducible assumption | exact held_sub hH rfl | exact held_one hH rfl | exact fldOk rfl
    | with_reducible refine State.reachCount_kept ?_ ?_ | with_reducible refine State.failReads_kept ?_
    | with_reducible refine State.issueReads_kept ?_ ?_ | with_reducible refine State.copyPage.done_kept ?_ ?_
    | with_reducible refine iteO_kept ?_ ?_ | with_reducible refine Kept.next ?_ | with_reducible intro _ | dsimp only
    | split)

theorem State.reduceHead_kept {s : State} {p : Nat} {seen : Nat} {f : Flit}
    (hH : ∀ x ∈ ([.mem, .islets, .fns, .optim, .queues, .jobs, .reefs, .egress, .actions, .gov, .lanes, .mctp, .armed, .block .img, .block .isl, .block .mem, .block .pipe, .block .reef, .block .jl, .block .red, .block .opt, .block .svc, .block .hbr] : List Portion), H x = false)
    (hk0 : Kept pk wq H z0 s) : Kept pk wq H z0 (State.reduceHead s p seen f).1 := by
  unfold State.reduceHead
  repeat' (first
    | with_reducible assumption | exact held_sub hH rfl | exact held_one hH rfl | exact fldOk rfl
    | with_reducible refine State.reduceDeliver_kept ?_ ?_ | with_reducible refine State.dropRoute_kept ?_ ?_
    | with_reducible refine State.dropFence_kept ?_ ?_ | with_reducible refine State.forward_kept ?_ ?_
    | with_reducible refine ite_kept ?_ ?_ | with_reducible refine iteP_kept ?_ ?_
    | with_reducible refine State.reduceDeliver_kept' (by with_reducible assumption) ?_ ?_ | with_reducible intro _
    | dsimp only | split)
theorem State.reduceHead_kept' {s : State} {p : Nat} {seen : Nat} {f : Flit} {t z}
    (e : State.reduceHead s p seen f = (t, z))
    (hH : ∀ x ∈ ([.mem, .islets, .fns, .optim, .queues, .jobs, .reefs, .egress, .actions, .gov, .lanes, .mctp, .armed, .block .img, .block .isl, .block .mem, .block .pipe, .block .reef, .block .jl, .block .red, .block .opt, .block .svc, .block .hbr] : List Portion), H x = false)
    (hk0 : Kept pk wq H z0 s) : Kept pk wq H z0 t := by
  have k : Kept pk wq H z0 (State.reduceHead s p seen f).1 := State.reduceHead_kept hH hk0
  rw [e] at k; exact k

theorem State.releaseHeld_kept {s : State} {p : Nat}
    (hH : ∀ x ∈ ([.mem, .islets, .fns, .optim, .queues, .jobs, .reefs, .ports, .egress, .actions, .gov, .lanes, .mctp, .armed, .block .img, .block .isl, .block .mem, .block .pipe, .block .reef, .block .jl, .block .red, .block .opt, .block .svc, .block .hbr] : List Portion), H x = false)
    (hk0 : Kept pk wq H z0 s) : Kept pk wq H z0 (State.releaseHeld s p) := by
  unfold State.releaseHeld
  repeat' (first
    | with_reducible assumption | exact held_sub hH rfl | exact held_one hH rfl | exact fldOk rfl
    | with_reducible refine State.modLink_kept ?_ ?_ | with_reducible refine State.slotAfter_kept ?_ ?_
    | with_reducible refine State.reduceHead_kept ?_ ?_ | with_reducible refine foldl_kept ?_ ?_
    | with_reducible refine iteP_kept ?_ ?_ | with_reducible refine foldlP_kept ?_ ?_
    | with_reducible refine State.reduceHead_kept' (by with_reducible assumption) ?_ ?_
    | with_reducible refine foldlP_kept' (by with_reducible assumption) ?_ ?_
    | simp only [Kept.frame_iff, and_self, true_or, or_true] | with_reducible intro _ | dsimp only | split)

theorem State.arriveReduce_kept {s : State} {p : Nat} {rx : RxFlit} {sub : Nat}
    (hH : ∀ x ∈ ([.mem, .islets, .fns, .optim, .queues, .jobs, .reefs, .ports, .egress, .actions, .gov, .lanes, .mctp, .armed, .block .img, .block .isl, .block .mem, .block .pipe, .block .reef, .block .jl, .block .red, .block .opt, .block .svc, .block .hbr] : List Portion), H x = false)
    (hk0 : Kept pk wq H z0 s) : Kept pk wq H z0 (State.arriveReduce s p rx sub) := by
  unfold State.arriveReduce
  repeat' (first
    | with_reducible assumption | exact held_sub hH rfl | exact held_one hH rfl | exact fldOk rfl
    | with_reducible refine State.modLink_kept ?_ ?_ | with_reducible refine State.linkIn_kept ?_ ?_
    | with_reducible refine State.releaseHeld_kept ?_ ?_ | with_reducible refine ite_kept ?_ ?_
    | with_reducible refine State.linkIn_kept' (by with_reducible assumption) ?_ ?_
    | simp only [Kept.frame_iff, and_self, true_or, or_true] | with_reducible intro _ | dsimp only | split)

theorem execRs_kept {p : Nat} {rx : RxFlit} {s : State}
    (hH : ∀ x ∈ ([.mem, .islets, .fns, .optim, .queues, .jobs, .reefs, .ports, .egress, .actions, .gov, .lanes, .mctp, .armed, .block .img, .block .isl, .block .mem, .block .pipe, .block .reef, .block .jl, .block .red, .block .opt, .block .svc, .block .hbr] : List Portion), H x = false)
    (hk0 : Kept pk wq H z0 s) : Kept.Outcome pk wq H z0 (execRs p rx s) := by
  unfold execRs
  repeat' (first
    | with_reducible assumption | exact held_sub hH rfl | exact held_one hH rfl | exact fldOk rfl
    | with_reducible refine State.arriveReduce_kept ?_ ?_ | with_reducible refine iteO_kept ?_ ?_
    | with_reducible refine Kept.next ?_ | with_reducible intro _ | dsimp only | split)

theorem execRsEnd_kept {p : Nat} {rx : RxFlit} {s : State}
    (hH : ∀ x ∈ ([.mem, .islets, .fns, .optim, .queues, .jobs, .reefs, .ports, .egress, .actions, .gov, .lanes, .mctp, .armed, .block .img, .block .isl, .block .mem, .block .pipe, .block .reef, .block .jl, .block .red, .block .opt, .block .svc, .block .hbr] : List Portion), H x = false)
    (hk0 : Kept pk wq H z0 s) : Kept.Outcome pk wq H z0 (execRsEnd p rx s) := by
  unfold execRsEnd
  repeat' (first
    | with_reducible assumption | exact held_sub hH rfl | exact held_one hH rfl | exact fldOk rfl
    | with_reducible refine State.arriveReduce_kept ?_ ?_ | with_reducible refine iteO_kept ?_ ?_
    | with_reducible refine Kept.next ?_ | with_reducible intro _ | dsimp only | split)

theorem execAg_kept {p : Nat} {rx : RxFlit} {s : State}
    (hH : ∀ x ∈ ([.mem, .islets, .fns, .optim, .queues, .jobs, .reefs, .ports, .egress, .actions, .gov, .lanes, .mctp, .armed, .block .img, .block .isl, .block .mem, .block .pipe, .block .reef, .block .jl, .block .red, .block .opt, .block .svc, .block .hbr] : List Portion), H x = false)
    (hk0 : Kept pk wq H z0 s) : Kept.Outcome pk wq H z0 (execAg p rx s) := by
  unfold execAg
  repeat' (first
    | with_reducible assumption | exact held_sub hH rfl | exact held_one hH rfl | exact fldOk rfl
    | with_reducible refine State.arriveReduce_kept ?_ ?_ | with_reducible refine iteO_kept ?_ ?_
    | with_reducible refine Kept.next ?_ | with_reducible intro _ | dsimp only | split)

theorem execAgEnd_kept {p : Nat} {rx : RxFlit} {s : State}
    (hH : ∀ x ∈ ([.mem, .islets, .fns, .optim, .queues, .jobs, .reefs, .ports, .egress, .actions, .gov, .lanes, .mctp, .armed, .block .img, .block .isl, .block .mem, .block .pipe, .block .reef, .block .jl, .block .red, .block .opt, .block .svc, .block .hbr] : List Portion), H x = false)
    (hk0 : Kept pk wq H z0 s) : Kept.Outcome pk wq H z0 (execAgEnd p rx s) := by
  unfold execAgEnd
  repeat' (first
    | with_reducible assumption | exact held_sub hH rfl | exact held_one hH rfl | exact fldOk rfl
    | with_reducible refine State.arriveReduce_kept ?_ ?_ | with_reducible refine iteO_kept ?_ ?_
    | with_reducible refine Kept.next ?_ | with_reducible intro _ | dsimp only | split)

theorem execUp_kept {p : Nat} {rx : RxFlit} {s : State}
    (hH : ∀ x ∈ ([.mem, .islets, .fns, .optim, .queues, .jobs, .reefs, .ports, .egress, .actions, .gov, .lanes, .mctp, .armed, .block .img, .block .isl, .block .mem, .block .pipe, .block .reef, .block .jl, .block .red, .block .opt, .block .svc, .block .hbr] : List Portion), H x = false)
    (hk0 : Kept pk wq H z0 s) : Kept.Outcome pk wq H z0 (execUp p rx s) := by
  unfold execUp
  repeat' (first
    | with_reducible assumption | exact held_sub hH rfl | exact held_one hH rfl | exact fldOk rfl
    | with_reducible refine State.arriveReduce_kept ?_ ?_ | with_reducible refine iteO_kept ?_ ?_
    | with_reducible refine Kept.next ?_ | with_reducible intro _ | dsimp only | split)

theorem execUpEnd_kept {p : Nat} {rx : RxFlit} {s : State}
    (hH : ∀ x ∈ ([.mem, .islets, .fns, .optim, .queues, .jobs, .reefs, .ports, .egress, .actions, .gov, .lanes, .mctp, .armed, .block .img, .block .isl, .block .mem, .block .pipe, .block .reef, .block .jl, .block .red, .block .opt, .block .svc, .block .hbr] : List Portion), H x = false)
    (hk0 : Kept pk wq H z0 s) : Kept.Outcome pk wq H z0 (execUpEnd p rx s) := by
  unfold execUpEnd
  repeat' (first
    | with_reducible assumption | exact held_sub hH rfl | exact held_one hH rfl | exact fldOk rfl
    | with_reducible refine State.arriveReduce_kept ?_ ?_ | with_reducible refine iteO_kept ?_ ?_
    | with_reducible refine Kept.next ?_ | with_reducible intro _ | dsimp only | split)

theorem execDown_kept {p : Nat} {rx : RxFlit} {s : State}
    (hH : ∀ x ∈ ([.mem, .islets, .fns, .optim, .queues, .jobs, .reefs, .ports, .egress, .actions, .gov, .lanes, .mctp, .armed, .block .img, .block .isl, .block .mem, .block .pipe, .block .reef, .block .jl, .block .red, .block .opt, .block .svc, .block .hbr] : List Portion), H x = false)
    (hk0 : Kept pk wq H z0 s) : Kept.Outcome pk wq H z0 (execDown p rx s) := by
  unfold execDown
  repeat' (first
    | with_reducible assumption | exact held_sub hH rfl | exact held_one hH rfl | exact fldOk rfl
    | with_reducible refine State.arriveReduce_kept ?_ ?_ | with_reducible refine iteO_kept ?_ ?_
    | with_reducible refine Kept.next ?_ | with_reducible intro _ | dsimp only | split)

theorem execDownEnd_kept {p : Nat} {rx : RxFlit} {s : State}
    (hH : ∀ x ∈ ([.mem, .islets, .fns, .optim, .queues, .jobs, .reefs, .ports, .egress, .actions, .gov, .lanes, .mctp, .armed, .block .img, .block .isl, .block .mem, .block .pipe, .block .reef, .block .jl, .block .red, .block .opt, .block .svc, .block .hbr] : List Portion), H x = false)
    (hk0 : Kept pk wq H z0 s) : Kept.Outcome pk wq H z0 (execDownEnd p rx s) := by
  unfold execDownEnd
  repeat' (first
    | with_reducible assumption | exact held_sub hH rfl | exact held_one hH rfl | exact fldOk rfl
    | with_reducible refine State.arriveReduce_kept ?_ ?_ | with_reducible refine iteO_kept ?_ ?_
    | with_reducible refine Kept.next ?_ | with_reducible intro _ | dsimp only | split)

theorem execFlitReservedType_kept {p : Nat} {rx : RxFlit} {s : State}
    (hH : ∀ x ∈ ([.mem, .islets, .fns, .optim, .queues, .jobs, .reefs, .ports, .egress, .actions, .gov, .lanes, .mctp, .armed, .block .img, .block .isl, .block .mem, .block .pipe, .block .reef, .block .jl, .block .red, .block .opt, .block .svc, .block .hbr] : List Portion), H x = false)
    (hk0 : Kept pk wq H z0 s) : Kept.Outcome pk wq H z0 (execFlitReservedType p rx s) := by
  unfold execFlitReservedType
  repeat' (first
    | with_reducible assumption | exact held_sub hH rfl | exact held_one hH rfl | exact fldOk rfl
    | with_reducible refine State.satFld_kept ?_ ?_ ?_ | with_reducible refine State.freeSlot_kept ?_ ?_
    | with_reducible refine State.linkIn_kept ?_ ?_ | with_reducible refine State.arriveReduce_kept ?_ ?_
    | with_reducible refine ite_kept ?_ ?_ | with_reducible refine iteO_kept ?_ ?_
    | with_reducible refine State.linkIn_kept' (by with_reducible assumption) ?_ ?_
    | with_reducible refine Kept.next ?_ | with_reducible intro _ | dsimp only | split)

theorem execHeldFlitRelease_kept {p : Nat} {s : State}
    (hH : ∀ x ∈ ([.mem, .islets, .fns, .optim, .queues, .jobs, .reefs, .ports, .egress, .actions, .gov, .lanes, .mctp, .armed, .block .img, .block .isl, .block .mem, .block .pipe, .block .reef, .block .jl, .block .red, .block .opt, .block .svc, .block .hbr] : List Portion), H x = false)
    (hk0 : Kept pk wq H z0 s) : Kept.Outcome pk wq H z0 (execHeldFlitRelease p s) := by
  unfold execHeldFlitRelease
  repeat' (first
    | with_reducible assumption | exact held_sub hH rfl | exact held_one hH rfl | exact fldOk rfl
    | with_reducible refine State.releaseHeld_kept ?_ ?_ | with_reducible refine ite_kept ?_ ?_
    | with_reducible refine iteO_kept ?_ ?_ | with_reducible refine Kept.next ?_ | with_reducible intro _ | dsimp only
    | split)

theorem execVote_kept {p : Nat} {rx : RxFlit} {s : State}
    (hH : ∀ x ∈ ([.mem, .islets, .fns, .optim, .queues, .jobs, .reefs, .ports, .egress, .actions, .gov, .lanes, .mctp, .armed, .block .img, .block .isl, .block .mem, .block .pipe, .block .reef, .block .jl, .block .red, .block .opt, .block .svc, .block .hbr] : List Portion), H x = false)
    (hk0 : Kept pk wq H z0 s) : Kept.Outcome pk wq H z0 (execVote p rx s) := by
  unfold execVote
  repeat' (first
    | with_reducible assumption | exact held_sub hH rfl | exact held_one hH rfl | exact fldOk rfl
    | with_reducible refine State.reductionMessage_kept ?_ ?_ | with_reducible refine State.arrive_kept ?_ ?_ ?_
    | with_reducible refine iteO_kept ?_ ?_ | with_reducible refine Kept.next ?_ | with_reducible intro _ | dsimp only
    | split)

theorem execVoteResult_kept {p : Nat} {rx : RxFlit} {s : State}
    (hH : ∀ x ∈ ([.mem, .islets, .fns, .optim, .queues, .jobs, .reefs, .ports, .egress, .actions, .gov, .lanes, .mctp, .armed, .block .img, .block .isl, .block .mem, .block .pipe, .block .reef, .block .jl, .block .red, .block .opt, .block .svc, .block .hbr] : List Portion), H x = false)
    (hk0 : Kept pk wq H z0 s) : Kept.Outcome pk wq H z0 (execVoteResult p rx s) := by
  unfold execVoteResult
  repeat' (first
    | with_reducible assumption | exact held_sub hH rfl | exact held_one hH rfl | exact fldOk rfl
    | with_reducible refine State.reductionMessage_kept ?_ ?_ | with_reducible refine State.arrive_kept ?_ ?_ ?_
    | with_reducible refine iteO_kept ?_ ?_ | with_reducible refine Kept.next ?_ | with_reducible intro _ | dsimp only
    | split)

theorem execStepAbort_kept {p : Nat} {rx : RxFlit} {s : State}
    (hH : ∀ x ∈ ([.mem, .islets, .fns, .optim, .queues, .jobs, .reefs, .ports, .egress, .actions, .gov, .lanes, .mctp, .armed, .block .img, .block .isl, .block .mem, .block .pipe, .block .reef, .block .jl, .block .red, .block .opt, .block .svc, .block .hbr] : List Portion), H x = false)
    (hk0 : Kept pk wq H z0 s) : Kept.Outcome pk wq H z0 (execStepAbort p rx s) := by
  unfold execStepAbort
  repeat' (first
    | with_reducible assumption | exact held_sub hH rfl | exact held_one hH rfl | exact fldOk rfl
    | with_reducible refine State.reductionMessage_kept ?_ ?_ | with_reducible refine State.arrive_kept ?_ ?_ ?_
    | with_reducible refine iteO_kept ?_ ?_ | with_reducible refine Kept.next ?_ | with_reducible intro _ | dsimp only
    | split)

end Sys2Proof.Machine
end

