-- ==== Sys2Proof/Laws/KeptLinkKey.lean ====
section
/-! SUPPORT. What the operations of LinkKey.lean keep. -/

namespace Sys2Proof.Machine
open Sys2Proof

variable {pk : Package} {wq : List Instr} {H : Portion → Bool} {z0 : State}

theorem State.sendCtrl_kept {s : State} {p : Nat} {f : Flit} (hH : ∀ x ∈ ([.egress] : List Portion), H x = false)
    (hk0 : Kept pk wq H z0 s) : Kept pk wq H z0 (State.sendCtrl s p f) := by
  unfold State.sendCtrl
  repeat' (first
    | with_reducible assumption | exact held_sub hH rfl | exact held_one hH rfl | exact fldOk rfl
    | with_reducible refine State.queueFlit_kept ?_ ?_ | with_reducible intro _ | dsimp only | split)

theorem State.sendKeying_kept {s : State} {p : Nat} {fs : List Flit}
    (hH : ∀ x ∈ ([.ports, .egress] : List Portion), H x = false) (hk0 : Kept pk wq H z0 s) : Kept pk wq H z0
    (State.sendKeying s p fs) := by
  unfold State.sendKeying
  repeat' (first
    | with_reducible assumption | exact held_sub hH rfl | exact held_one hH rfl | exact fldOk rfl
    | with_reducible refine State.modLink_kept ?_ ?_ | with_reducible refine State.sendCtrl_kept ?_ ?_
    | with_reducible refine foldl_kept ?_ ?_ | with_reducible refine iteP_kept ?_ ?_
    | with_reducible refine foldlP_kept ?_ ?_
    | with_reducible refine foldlP_kept' (by with_reducible assumption) ?_ ?_
    | simp only [Kept.frame_iff, and_self, true_or, or_true] | with_reducible intro _ | dsimp only | split)

theorem State.drawBytes_kept {s : State} {n : Nat} (hk0 : Kept pk wq H z0 s) : Kept pk wq H z0 (State.drawBytes s n).1
    := by
  unfold State.drawBytes
  repeat' (first
    | with_reducible assumption | with_reducible refine mapFst_kept ?_ | with_reducible refine iteP_kept ?_ ?_
    | simp only [Kept.frame_iff, and_self, true_or, or_true] | with_reducible intro _ | dsimp only | split)
theorem State.drawBytes_kept' {s : State} {n : Nat} {t z} (e : State.drawBytes s n = (t, z)) (hk0 : Kept pk wq H z0 s)
    : Kept pk wq H z0 t := by
  have k : Kept pk wq H z0 (State.drawBytes s n).1 := State.drawBytes_kept hk0
  rw [e] at k; exact k

theorem State.drbgReseeds_kept {s : State} (hH : ∀ x ∈ ([.block .sec] : List Portion), H x = false)
    (hk0 : Kept pk wq H z0 s) : Kept pk wq H z0 (State.drbgReseeds s) := by
  unfold State.drbgReseeds
  repeat' (first
    | with_reducible assumption | exact held_sub hH rfl | exact held_one hH rfl | exact fldOk rfl
    | with_reducible refine State.satFld_kept ?_ ?_ ?_ | simp only [Kept.frame_iff, and_self, true_or, or_true]
    | with_reducible intro _ | dsimp only | split)

theorem State.generates_kept {s : State} (hH : ∀ x ∈ ([.block .sec] : List Portion), H x = false)
    (hk0 : Kept pk wq H z0 s) : Kept pk wq H z0 (State.generates s) := by
  unfold State.generates
  repeat' (first
    | with_reducible assumption | exact held_sub hH rfl | exact held_one hH rfl | exact fldOk rfl
    | with_reducible refine State.drbgReseeds_kept ?_ ?_ | with_reducible refine ite_kept ?_ ?_
    | simp only [Kept.frame_iff, and_self, true_or, or_true] | with_reducible intro _ | dsimp only | split)

theorem State.enterKeying_kept {s : State} {p : Nat}
    (hH : ∀ x ∈ ([.ports, .egress, .block .jl] : List Portion), H x = false) (hk0 : Kept pk wq H z0 s) : Kept pk wq H
    z0 (State.enterKeying s p) := by
  unfold State.enterKeying
  repeat' (first
    | with_reducible assumption | exact held_sub hH rfl | exact held_one hH rfl | exact fldOk rfl
    | with_reducible refine State.modLink_kept ?_ ?_ | with_reducible refine State.enterPort_kept ?_ ?_
    | with_reducible refine State.sendKeying_kept ?_ ?_ | simp only [Kept.frame_iff, and_self, true_or, or_true]
    | with_reducible intro _ | dsimp only | split)

theorem State.sendShare_kept {s : State} {p : Nat} {session : Nat} {keying : Bool}
    (hH : ∀ x ∈ ([.ports, .egress, .block .sec] : List Portion), H x = false) (hk0 : Kept pk wq H z0 s) : Kept pk wq H
    z0 (State.sendShare s p session keying) := by
  unfold State.sendShare
  repeat' (first
    | with_reducible assumption | exact held_sub hH rfl | exact held_one hH rfl | exact fldOk rfl
    | with_reducible refine State.modLink_kept ?_ ?_ | with_reducible refine State.sendCtrl_kept ?_ ?_
    | with_reducible refine State.sendKeying_kept ?_ ?_ | with_reducible refine State.drawBytes_kept ?_
    | with_reducible refine State.generates_kept ?_ ?_ | with_reducible refine ite_kept ?_ ?_
    | with_reducible refine State.drawBytes_kept' (by with_reducible assumption) ?_
    | simp only [Kept.frame_iff, and_self, true_or, or_true] | with_reducible intro _ | dsimp only | split)

theorem State.arriveCtrl_kept {s : State} {p : Nat} {rx : RxFlit} {sub : Nat} {keying : State → State}
    {up : State → State}
    (hH : ∀ x ∈ ([.mem, .islets, .fns, .optim, .queues, .jobs, .reefs, .ports, .egress, .actions, .gov, .lanes, .mctp, .armed, .block .img, .block .isl, .block .mem, .block .pipe, .block .reef, .block .jl, .block .red, .block .opt, .block .svc, .block .hbr] : List Portion), H x = false)
    (hk0 : Kept pk wq H z0 s) (hkeying : ∀ s0, Kept pk wq H z0 s0 → Kept pk wq H z0 (keying s0))
    (hup : ∀ s0, Kept pk wq H z0 s0 → Kept pk wq H z0 (up s0)) : Kept pk wq H z0
    (State.arriveCtrl s p rx sub keying up) := by
  unfold State.arriveCtrl
  repeat' (first
    | with_reducible assumption | exact held_sub hH rfl | exact held_one hH rfl | exact fldOk rfl
    | with_reducible refine State.modLink_kept ?_ ?_ | with_reducible refine State.freeSlot_kept ?_ ?_
    | with_reducible refine State.fecCorr_kept ?_ ?_ | with_reducible refine State.linkIn_kept ?_ ?_
    | with_reducible apply hkeying | with_reducible apply hup | with_reducible refine ite_kept ?_ ?_
    | with_reducible refine State.linkIn_kept' (by with_reducible assumption) ?_ ?_ | with_reducible intro _
    | dsimp only | split)

theorem State.startTraining_kept {s : State} {p : Nat} (hH : ∀ x ∈ ([.ports, .block .jl] : List Portion), H x = false)
    (hk0 : Kept pk wq H z0 s) : Kept pk wq H z0 (State.startTraining s p) := by
  unfold State.startTraining
  repeat' (first
    | with_reducible assumption | exact held_sub hH rfl | exact held_one hH rfl | exact fldOk rfl
    | with_reducible refine State.enterPort_kept ?_ ?_ | with_reducible refine ite_kept ?_ ?_ | with_reducible intro _
    | dsimp only | split)

theorem execTrainingDone_kept {p : Nat} {txSpare : Nat} {rxSpare : Nat} {s : State}
    (hH : ∀ x ∈ ([.ports, .egress, .block .jl] : List Portion), H x = false) (hk0 : Kept pk wq H z0 s) : Kept.Outcome
    pk wq H z0 (execTrainingDone p txSpare rxSpare s) := by
  unfold execTrainingDone
  repeat' (first
    | with_reducible assumption | exact held_sub hH rfl | exact held_one hH rfl | exact fldOk rfl
    | with_reducible refine State.setFld_kept ?_ ?_ ?_ | with_reducible refine State.modLink_kept ?_ ?_
    | with_reducible refine State.enterKeying_kept ?_ ?_ | with_reducible refine ite_kept ?_ ?_
    | with_reducible refine iteO_kept ?_ ?_ | simp only [Kept.frame_iff, and_self, true_or, or_true]
    | with_reducible refine Kept.next ?_ | with_reducible intro _ | dsimp only | split)

theorem execTrainTimeout_kept {p : Nat} {s : State}
    (hH : ∀ x ∈ ([.mem, .islets, .fns, .optim, .queues, .jobs, .reefs, .ports, .egress, .actions, .gov, .lanes, .mctp, .armed, .counts, .block .img, .block .isl, .block .mem, .block .pipe, .block .reef, .block .jl, .block .red, .block .opt, .block .svc, .block .hbr] : List Portion), H x = false)
    (hk0 : Kept pk wq H z0 s) : Kept.Outcome pk wq H z0 (execTrainTimeout p s) := by
  unfold execTrainTimeout
  repeat' (first
    | with_reducible assumption | exact held_sub hH rfl | exact held_one hH rfl | exact fldOk rfl
    | with_reducible refine State.reachCount_kept ?_ ?_ | with_reducible refine State.portDown_kept ?_ ?_
    | with_reducible refine ite_kept ?_ ?_ | with_reducible refine iteO_kept ?_ ?_
    | with_reducible refine Kept.next ?_ | with_reducible intro _ | dsimp only | split)

theorem execPortRetry_kept {p : Nat} {s : State}
    (hH : ∀ x ∈ ([.ports, .counts, .block .jl] : List Portion), H x = false) (hk0 : Kept pk wq H z0 s) : Kept.Outcome
    pk wq H z0 (execPortRetry p s) := by
  unfold execPortRetry
  repeat' (first
    | with_reducible assumption | exact held_sub hH rfl | exact held_one hH rfl | exact fldOk rfl
    | with_reducible refine State.reachCount_kept ?_ ?_ | with_reducible refine State.startTraining_kept ?_ ?_
    | with_reducible refine ite_kept ?_ ?_ | with_reducible refine iteO_kept ?_ ?_
    | with_reducible refine Kept.next ?_ | with_reducible intro _ | dsimp only | split)

theorem State.takeHello_kept {s : State} {p : Nat} {f : Flit}
    (hH : ∀ x ∈ ([.ports, .egress, .block .jl, .block .sec] : List Portion), H x = false) (hk0 : Kept pk wq H z0 s) :
    Kept pk wq H z0 (State.takeHello s p f) := by
  unfold State.takeHello
  repeat' (first
    | with_reducible assumption | exact held_sub hH rfl | exact held_one hH rfl | exact fldOk rfl
    | with_reducible refine State.setFld_kept ?_ ?_ ?_ | with_reducible refine State.modLink_kept ?_ ?_
    | with_reducible refine State.sendShare_kept ?_ ?_ | with_reducible refine ite_kept ?_ ?_
    | simp only [Kept.frame_iff, and_self, true_or, or_true] | with_reducible intro _ | dsimp only | split)

theorem execHello_kept {p : Nat} {rx : RxFlit} {s : State}
    (hH : ∀ x ∈ ([.mem, .islets, .fns, .optim, .queues, .jobs, .reefs, .ports, .egress, .actions, .gov, .lanes, .mctp, .armed, .block .img, .block .isl, .block .mem, .block .pipe, .block .reef, .block .jl, .block .red, .block .opt, .block .svc, .block .sec, .block .hbr] : List Portion), H x = false)
    (hk0 : Kept pk wq H z0 s) : Kept.Outcome pk wq H z0 (execHello p rx s) := by
  unfold execHello
  repeat' (first
    | with_reducible assumption | exact held_sub hH rfl | exact held_one hH rfl | exact fldOk rfl
    | with_reducible refine State.arriveCtrl_kept ?_ ?_ ?_ ?_ | with_reducible refine State.takeHello_kept ?_ ?_
    | with_reducible refine id_kept ?_ | with_reducible refine iteO_kept ?_ ?_ | with_reducible refine Kept.next ?_
    | with_reducible intro _ | dsimp only | split)

theorem State.startRekey_kept {s : State} {p : Nat}
    (hH : ∀ x ∈ ([.ports, .egress, .block .jl, .block .sec] : List Portion), H x = false) (hk0 : Kept pk wq H z0 s) :
    Kept pk wq H z0 (State.startRekey s p) := by
  unfold State.startRekey
  repeat' (first
    | with_reducible assumption | exact held_sub hH rfl | exact held_one hH rfl | exact fldOk rfl
    | with_reducible refine State.setFld_kept ?_ ?_ ?_ | with_reducible refine State.modLink_kept ?_ ?_
    | with_reducible refine State.sendShare_kept ?_ ?_ | with_reducible refine ite_kept ?_ ?_
    | simp only [Kept.frame_iff, and_self, true_or, or_true] | with_reducible intro _ | dsimp only | split)

theorem State.sendAuth_kept {s : State} {p : Nat} {t : List Byte} {keying : Bool}
    (hH : ∀ x ∈ ([.ports, .egress] : List Portion), H x = false) (hk0 : Kept pk wq H z0 s) : Kept pk wq H z0
    (State.sendAuth s p t keying) := by
  unfold State.sendAuth
  repeat' (first
    | with_reducible assumption | exact held_sub hH rfl | exact held_one hH rfl | exact fldOk rfl
    | with_reducible refine State.modLink_kept ?_ ?_ | with_reducible refine State.sendCtrl_kept ?_ ?_
    | with_reducible refine State.sendKeying_kept ?_ ?_ | with_reducible refine State.drawBytes_kept ?_
    | with_reducible refine ite_kept ?_ ?_
    | with_reducible refine State.drawBytes_kept' (by with_reducible assumption) ?_
    | simp only [Kept.frame_iff, and_self, true_or, or_true] | with_reducible intro _ | dsimp only | split)

theorem State.takeShare_kept {s : State} {p : Nat} {f : Flit}
    (hH : ∀ x ∈ ([.ports, .egress] : List Portion), H x = false) (hk0 : Kept pk wq H z0 s) : Kept pk wq H z0
    (State.takeShare s p f) := by
  unfold State.takeShare
  repeat' (first
    | with_reducible assumption | exact held_sub hH rfl | exact held_one hH rfl | exact fldOk rfl
    | with_reducible refine State.modLink_kept ?_ ?_ | with_reducible refine State.sendKeying_kept ?_ ?_
    | with_reducible refine mapFst_kept ?_ | with_reducible refine ite_kept ?_ ?_
    | simp only [Kept.frame_iff, and_self, true_or, or_true] | with_reducible intro _ | dsimp only | split)

theorem State.takeRekeyShare_kept {s : State} {p : Nat} {f : Flit}
    (hH : ∀ x ∈ ([.ports, .egress, .block .jl, .block .sec] : List Portion), H x = false) (hk0 : Kept pk wq H z0 s) :
    Kept pk wq H z0 (State.takeRekeyShare s p f) := by
  unfold State.takeRekeyShare
  repeat' (first
    | with_reducible assumption | exact held_sub hH rfl | exact held_one hH rfl | exact fldOk rfl
    | with_reducible refine State.modLink_kept ?_ ?_ | with_reducible refine State.startRekey_kept ?_ ?_
    | with_reducible refine State.sendAuth_kept ?_ ?_ | with_reducible refine ite_kept ?_ ?_
    | simp only [Kept.frame_iff, and_self, true_or, or_true] | with_reducible intro _ | dsimp only | split)

theorem execKeyShare_kept {p : Nat} {rx : RxFlit} {s : State}
    (hH : ∀ x ∈ ([.mem, .islets, .fns, .optim, .queues, .jobs, .reefs, .ports, .egress, .actions, .gov, .lanes, .mctp, .armed, .block .img, .block .isl, .block .mem, .block .pipe, .block .reef, .block .jl, .block .red, .block .opt, .block .svc, .block .sec, .block .hbr] : List Portion), H x = false)
    (hk0 : Kept pk wq H z0 s) : Kept.Outcome pk wq H z0 (execKeyShare p rx s) := by
  unfold execKeyShare
  repeat' (first
    | with_reducible assumption | exact held_sub hH rfl | exact held_one hH rfl | exact fldOk rfl
    | with_reducible refine State.arriveCtrl_kept ?_ ?_ ?_ ?_ | with_reducible refine State.takeShare_kept ?_ ?_
    | with_reducible refine State.takeRekeyShare_kept ?_ ?_ | with_reducible refine iteO_kept ?_ ?_
    | with_reducible refine Kept.next ?_ | with_reducible intro _ | dsimp only | split)

theorem State.takeCert_kept {s : State} {p : Nat} {f : Flit}
    (hH : ∀ x ∈ ([.ports, .egress] : List Portion), H x = false) (hk0 : Kept pk wq H z0 s) : Kept pk wq H z0
    (State.takeCert s p f) := by
  unfold State.takeCert
  repeat' (first
    | with_reducible assumption | exact held_sub hH rfl | exact held_one hH rfl | exact fldOk rfl
    | with_reducible refine State.modLink_kept ?_ ?_ | with_reducible refine State.sendAuth_kept ?_ ?_
    | with_reducible refine ite_kept ?_ ?_ | simp only [Kept.frame_iff, and_self, true_or, or_true]
    | with_reducible intro _ | dsimp only | split)

theorem execCert_kept {p : Nat} {rx : RxFlit} {s : State}
    (hH : ∀ x ∈ ([.mem, .islets, .fns, .optim, .queues, .jobs, .reefs, .ports, .egress, .actions, .gov, .lanes, .mctp, .armed, .block .img, .block .isl, .block .mem, .block .pipe, .block .reef, .block .jl, .block .red, .block .opt, .block .svc, .block .hbr] : List Portion), H x = false)
    (hk0 : Kept pk wq H z0 s) : Kept.Outcome pk wq H z0 (execCert p rx s) := by
  unfold execCert
  repeat' (first
    | with_reducible assumption | exact held_sub hH rfl | exact held_one hH rfl | exact fldOk rfl
    | with_reducible refine State.arriveCtrl_kept ?_ ?_ ?_ ?_ | with_reducible refine State.takeCert_kept ?_ ?_
    | with_reducible refine id_kept ?_ | with_reducible refine iteO_kept ?_ ?_ | with_reducible refine Kept.next ?_
    | with_reducible intro _ | dsimp only | split)

theorem State.identityFail_kept {s : State} {p : Nat}
    (hH : ∀ x ∈ ([.mem, .islets, .fns, .optim, .queues, .jobs, .reefs, .ports, .egress, .actions, .gov, .lanes, .mctp, .armed, .block .img, .block .isl, .block .mem, .block .pipe, .block .reef, .block .jl, .block .red, .block .opt, .block .svc, .block .hbr] : List Portion), H x = false)
    (hk0 : Kept pk wq H z0 s) : Kept pk wq H z0 (State.identityFail s p) := by
  unfold State.identityFail
  repeat' (first
    | with_reducible assumption | exact held_sub hH rfl | exact held_one hH rfl | exact fldOk rfl
    | with_reducible refine State.portEvent_kept ?_ ?_ ?_ ?_ | with_reducible refine State.portDown_kept ?_ ?_
    | with_reducible intro _ | dsimp only | split)

theorem State.takeAuth_kept {s : State} {p : Nat} {f : Flit}
    (hH : ∀ x ∈ ([.mem, .islets, .fns, .optim, .queues, .jobs, .reefs, .ports, .egress, .actions, .gov, .lanes, .mctp, .armed, .block .img, .block .isl, .block .mem, .block .pipe, .block .reef, .block .jl, .block .red, .block .opt, .block .svc, .block .hbr] : List Portion), H x = false)
    (hk0 : Kept pk wq H z0 s) : Kept pk wq H z0 (State.takeAuth s p f) := by
  unfold State.takeAuth
  repeat' (first
    | with_reducible assumption | exact held_sub hH rfl | exact held_one hH rfl | exact fldOk rfl
    | exact wordOk_zero rfl | exact wordOk_whole rfl
    | exact Sound.wordOk_self (Kept.sound (by with_reducible assumption)) rfl
    | with_reducible refine State.setReg_kept ?_ ?_ ?_ | with_reducible refine State.modLink_kept ?_ ?_
    | with_reducible refine State.sendKeying_kept ?_ ?_ | with_reducible refine State.identityFail_kept ?_ ?_
    | with_reducible refine foldl_kept ?_ ?_ | with_reducible refine ite_kept ?_ ?_
    | with_reducible refine iteP_kept ?_ ?_ | with_reducible refine foldlP_kept ?_ ?_
    | with_reducible refine foldlP_kept' (by with_reducible assumption) ?_ ?_
    | simp only [Kept.frame_iff, and_self, true_or, or_true] | with_reducible intro _ | dsimp only | split)

theorem State.takeRekeyAuth_kept {s : State} {p : Nat} {f : Flit}
    (hH : ∀ x ∈ ([.mem, .islets, .fns, .optim, .queues, .jobs, .reefs, .ports, .egress, .actions, .gov, .lanes, .mctp, .armed, .block .img, .block .isl, .block .mem, .block .pipe, .block .reef, .block .jl, .block .red, .block .opt, .block .svc, .block .hbr] : List Portion), H x = false)
    (hk0 : Kept pk wq H z0 s) : Kept pk wq H z0 (State.takeRekeyAuth s p f) := by
  unfold State.takeRekeyAuth
  repeat' (first
    | with_reducible assumption | exact held_sub hH rfl | exact held_one hH rfl | exact fldOk rfl
    | with_reducible refine State.modLink_kept ?_ ?_ | with_reducible refine State.sendCtrl_kept ?_ ?_
    | with_reducible refine State.identityFail_kept ?_ ?_ | with_reducible refine ite_kept ?_ ?_
    | simp only [Kept.frame_iff, and_self, true_or, or_true] | with_reducible intro _ | dsimp only | split)

theorem execKeyAuth_kept {p : Nat} {rx : RxFlit} {s : State}
    (hH : ∀ x ∈ ([.mem, .islets, .fns, .optim, .queues, .jobs, .reefs, .ports, .egress, .actions, .gov, .lanes, .mctp, .armed, .block .img, .block .isl, .block .mem, .block .pipe, .block .reef, .block .jl, .block .red, .block .opt, .block .svc, .block .hbr] : List Portion), H x = false)
    (hk0 : Kept pk wq H z0 s) : Kept.Outcome pk wq H z0 (execKeyAuth p rx s) := by
  unfold execKeyAuth
  repeat' (first
    | with_reducible assumption | exact held_sub hH rfl | exact held_one hH rfl | exact fldOk rfl
    | with_reducible refine State.arriveCtrl_kept ?_ ?_ ?_ ?_ | with_reducible refine State.takeAuth_kept ?_ ?_
    | with_reducible refine State.takeRekeyAuth_kept ?_ ?_ | with_reducible refine iteO_kept ?_ ?_
    | with_reducible refine Kept.next ?_ | with_reducible intro _ | dsimp only | split)

theorem State.sendClaim_kept {s : State} {p : Nat} {addr : Nat} {epoch : Nat}
    (hH : ∀ x ∈ ([.egress] : List Portion), H x = false) (hk0 : Kept pk wq H z0 s) : Kept pk wq H z0
    (State.sendClaim s p addr epoch) := by
  unfold State.sendClaim
  repeat' (first
    | with_reducible assumption | exact held_sub hH rfl | exact held_one hH rfl | exact fldOk rfl
    | with_reducible refine State.sendCtrl_kept ?_ ?_ | with_reducible intro _ | dsimp only | split)

theorem State.sendClaimEnd_kept {s : State} (hH : ∀ x ∈ ([.egress, .armed, .block .jl] : List Portion), H x = false)
    (hk0 : Kept pk wq H z0 s) : Kept pk wq H z0 (State.sendClaimEnd s) := by
  unfold State.sendClaimEnd
  repeat' (first
    | with_reducible assumption | exact held_sub hH rfl | exact held_one hH rfl | exact fldOk rfl
    | with_reducible refine State.sendAdapter_kept ?_ ?_ | simp only [Kept.frame_iff, and_self, true_or, or_true]
    | with_reducible intro _ | dsimp only | split)

theorem State.claimOn_kept {s : State} {other : Nat}
    (hH : ∀ x ∈ ([.egress, .armed, .block .jl] : List Portion), H x = false) (hk0 : Kept pk wq H z0 s) : Kept pk wq H
    z0 (State.claimOn s other) := by
  unfold State.claimOn
  repeat' (first
    | with_reducible assumption | exact held_sub hH rfl | exact held_one hH rfl | exact fldOk rfl
    | with_reducible refine State.sendClaim_kept ?_ ?_ | with_reducible refine State.sendClaimEnd_kept ?_ ?_
    | with_reducible refine ite_kept ?_ ?_ | simp only [Kept.frame_iff, and_self, true_or, or_true]
    | with_reducible intro _ | dsimp only | split)

theorem State.sendClaimAck_kept {s : State} {epoch : Nat} {refused : Bool}
    (hH : ∀ x ∈ ([.egress, .armed, .block .jl] : List Portion), H x = false) (hk0 : Kept pk wq H z0 s) : Kept pk wq H
    z0 (State.sendClaimAck s epoch refused) := by
  unfold State.sendClaimAck
  repeat' (first
    | with_reducible assumption | exact held_sub hH rfl | exact held_one hH rfl | exact fldOk rfl
    | with_reducible refine State.sendAdapter_kept ?_ ?_ | simp only [Kept.frame_iff, and_self, true_or, or_true]
    | with_reducible intro _ | dsimp only | split)

theorem State.claimRoutes_kept {s : State} {p : Nat} (hH : ∀ x ∈ ([.block .jl] : List Portion), H x = false)
    (hk0 : Kept pk wq H z0 s) : Kept pk wq H z0 (State.claimRoutes s p) := by
  unfold State.claimRoutes
  repeat' (first
    | with_reducible assumption | exact held_sub hH rfl | exact held_one hH rfl | exact fldOk rfl
    | with_reducible refine State.setFld_kept ?_ ?_ ?_ | with_reducible refine foldl_kept ?_ ?_
    | with_reducible refine ite_kept ?_ ?_ | with_reducible refine iteP_kept ?_ ?_
    | with_reducible refine foldlP_kept ?_ ?_
    | with_reducible refine foldlP_kept' (by with_reducible assumption) ?_ ?_ | with_reducible intro _ | dsimp only
    | split)

theorem State.takeClaim_kept {s : State} {p : Nat} {f : Flit}
    (hH : ∀ x ∈ ([.egress, .armed, .block .jl] : List Portion), H x = false) (hk0 : Kept pk wq H z0 s) : Kept pk wq H
    z0 (State.takeClaim s p f) := by
  unfold State.takeClaim
  repeat' (first
    | with_reducible assumption | exact held_sub hH rfl | exact held_one hH rfl | exact fldOk rfl
    | with_reducible refine State.setFld_kept ?_ ?_ ?_ | with_reducible refine State.claimOn_kept ?_ ?_
    | with_reducible refine State.sendClaimAck_kept ?_ ?_ | with_reducible refine State.claimRoutes_kept ?_ ?_
    | with_reducible refine ite_kept ?_ ?_ | simp only [Kept.frame_iff, and_self, true_or, or_true]
    | with_reducible intro _ | dsimp only | split)

theorem execClaim_kept {p : Nat} {rx : RxFlit} {s : State}
    (hH : ∀ x ∈ ([.mem, .islets, .fns, .optim, .queues, .jobs, .reefs, .ports, .egress, .actions, .gov, .lanes, .mctp, .armed, .block .img, .block .isl, .block .mem, .block .pipe, .block .reef, .block .jl, .block .red, .block .opt, .block .svc, .block .hbr] : List Portion), H x = false)
    (hk0 : Kept pk wq H z0 s) : Kept.Outcome pk wq H z0 (execClaim p rx s) := by
  unfold execClaim
  repeat' (first
    | with_reducible assumption | exact held_sub hH rfl | exact held_one hH rfl | exact fldOk rfl
    | with_reducible refine State.arriveCtrl_kept ?_ ?_ ?_ ?_ | with_reducible refine State.takeClaim_kept ?_ ?_
    | with_reducible refine id_kept ?_ | with_reducible refine iteO_kept ?_ ?_ | with_reducible refine Kept.next ?_
    | with_reducible intro _ | dsimp only | split)

theorem execClaimWait_kept {s : State}
    (hH : ∀ x ∈ ([.egress, .armed, .counts, .block .jl] : List Portion), H x = false) (hk0 : Kept pk wq H z0 s) :
    Kept.Outcome pk wq H z0 (execClaimWait s) := by
  unfold execClaimWait
  repeat' (first
    | with_reducible assumption | exact held_sub hH rfl | exact held_one hH rfl | exact fldOk rfl
    | with_reducible refine State.reachCount_kept ?_ ?_ | with_reducible refine State.sendClaimEnd_kept ?_ ?_
    | with_reducible refine iteO_kept ?_ ?_ | simp only [Kept.frame_iff, and_self, true_or, or_true]
    | with_reducible refine Kept.next ?_ | with_reducible intro _ | dsimp only | split)

theorem State.takeProbe_kept {s : State} {p : Nat} {f : Flit}
    (hH : ∀ x ∈ ([.egress, .armed, .block .jl] : List Portion), H x = false) (hk0 : Kept pk wq H z0 s) : Kept pk wq H
    z0 (State.takeProbe s p f) := by
  unfold State.takeProbe
  repeat' (first
    | with_reducible assumption | exact held_sub hH rfl | exact held_one hH rfl | exact fldOk rfl
    | with_reducible refine State.setFld_kept ?_ ?_ ?_ | with_reducible refine State.sendAdapter_kept ?_ ?_
    | with_reducible refine State.sendCtrl_kept ?_ ?_ | with_reducible refine ite_kept ?_ ?_
    | simp only [Kept.frame_iff, and_self, true_or, or_true] | with_reducible intro _ | dsimp only | split)

theorem execProbe_kept {p : Nat} {rx : RxFlit} {s : State}
    (hH : ∀ x ∈ ([.mem, .islets, .fns, .optim, .queues, .jobs, .reefs, .ports, .egress, .actions, .gov, .lanes, .mctp, .armed, .block .img, .block .isl, .block .mem, .block .pipe, .block .reef, .block .jl, .block .red, .block .opt, .block .svc, .block .hbr] : List Portion), H x = false)
    (hk0 : Kept pk wq H z0 s) : Kept.Outcome pk wq H z0 (execProbe p rx s) := by
  unfold execProbe
  repeat' (first
    | with_reducible assumption | exact held_sub hH rfl | exact held_one hH rfl | exact fldOk rfl
    | with_reducible refine State.arriveCtrl_kept ?_ ?_ ?_ ?_ | with_reducible refine State.takeProbe_kept ?_ ?_
    | with_reducible refine id_kept ?_ | with_reducible refine iteO_kept ?_ ?_ | with_reducible refine Kept.next ?_
    | with_reducible intro _ | dsimp only | split)

theorem State.claimWaiting_kept {s : State} {p : Nat}
    (hH : ∀ x ∈ ([.egress, .armed, .block .jl] : List Portion), H x = false) (hk0 : Kept pk wq H z0 s) : Kept pk wq H
    z0 (State.claimWaiting s p) := by
  unfold State.claimWaiting
  repeat' (first
    | with_reducible assumption | exact held_sub hH rfl | exact held_one hH rfl | exact fldOk rfl
    | with_reducible refine State.claimOn_kept ?_ ?_ | with_reducible refine ite_kept ?_ ?_
    | simp only [Kept.frame_iff, and_self, true_or, or_true] | with_reducible intro _ | dsimp only | split)

theorem State.portUpNow_kept {s : State} {p : Nat}
    (hH : ∀ x ∈ ([.ports, .egress, .mctp, .armed, .block .jl, .block .hbr] : List Portion), H x = false)
    (hk0 : Kept pk wq H z0 s) : Kept pk wq H z0 (State.portUpNow s p) := by
  have hEgress : H .egress = false := held_one hH rfl
  unfold State.portUpNow
  repeat' (first
    | with_reducible assumption | exact held_sub hH rfl | exact held_one hH rfl | exact fldOk rfl
    | with_reducible refine State.setFld_kept ?_ ?_ ?_ | with_reducible refine State.queueFlit_kept ?_ ?_
    | with_reducible refine State.modLink_kept ?_ ?_ | with_reducible refine State.enterPort_kept ?_ ?_
    | with_reducible refine State.portEvent_kept ?_ ?_ ?_ ?_ | with_reducible refine State.claimWaiting_kept ?_ ?_
    | with_reducible refine foldl_kept ?_ ?_ | with_reducible refine iteP_kept ?_ ?_
    | with_reducible refine foldlP_kept ?_ ?_
    | with_reducible refine foldlP_kept' (by with_reducible assumption) ?_ ?_
    | simp only [Kept.frame_iff, hEgress, and_self, true_or, or_true] | with_reducible intro _ | dsimp only | split)

theorem State.sendKeyingFlit_kept {s : State} {p : Nat} (hH : ∀ x ∈ ([.ports, .egress] : List Portion), H x = false)
    (hk0 : Kept pk wq H z0 s) : Kept pk wq H z0 (State.sendKeyingFlit s p) := by
  unfold State.sendKeyingFlit
  repeat' (first
    | with_reducible assumption | exact held_sub hH rfl | exact held_one hH rfl | exact fldOk rfl
    | with_reducible refine State.modLink_kept ?_ ?_ | with_reducible refine State.popEgress_kept ?_ ?_
    | simp only [Kept.frame_iff, and_self, true_or, or_true] | with_reducible intro _ | dsimp only | split)

theorem State.sendUp_kept {s : State} {p : Nat} {vc : Nat}
    (hH : ∀ x ∈ ([.ports, .egress, .block .jl] : List Portion), H x = false) (hk0 : Kept pk wq H z0 s) : Kept pk wq H
    z0 (State.sendUp s p vc) := by
  unfold State.sendUp
  repeat' (first
    | with_reducible assumption | exact held_sub hH rfl | exact held_one hH rfl | exact fldOk rfl
    | with_reducible refine State.sentIdle_kept ?_ ?_ | with_reducible refine State.resendFlit_kept ?_ ?_
    | with_reducible refine State.sendNew_kept ?_ ?_ | with_reducible refine getD_kept ?_ ?_
    | with_reducible refine ite_kept ?_ ?_ | with_reducible intro _ | dsimp only | split)

theorem execFlitSend_kept {p : Nat} {vc : Nat} {s : State}
    (hH : ∀ x ∈ ([.mem, .islets, .fns, .optim, .queues, .jobs, .reefs, .ports, .egress, .actions, .gov, .lanes, .mctp, .armed, .block .img, .block .isl, .block .mem, .block .pipe, .block .reef, .block .jl, .block .red, .block .opt, .block .svc, .block .hbr] : List Portion), H x = false)
    (hk0 : Kept pk wq H z0 s) : Kept.Outcome pk wq H z0 (execFlitSend p vc s) := by
  unfold execFlitSend
  repeat' (first
    | with_reducible assumption | exact held_sub hH rfl | exact held_one hH rfl | exact fldOk rfl
    | with_reducible refine State.portDown_kept ?_ ?_ | with_reducible refine State.windowsClosed_kept ?_ ?_
    | with_reducible refine State.dropStalled_kept ?_ ?_ | with_reducible refine State.portUpNow_kept ?_ ?_
    | with_reducible refine State.sendKeyingFlit_kept ?_ ?_ | with_reducible refine State.sendUp_kept ?_ ?_
    | with_reducible refine ite_kept ?_ ?_ | with_reducible refine iteO_kept ?_ ?_
    | with_reducible refine Kept.next ?_ | with_reducible intro _ | dsimp only | split)

theorem execKeyDone_kept {p : Nat} {rx : RxFlit} {s : State}
    (hH : ∀ x ∈ ([.mem, .islets, .fns, .optim, .queues, .jobs, .reefs, .ports, .egress, .actions, .gov, .lanes, .mctp, .armed, .block .img, .block .isl, .block .mem, .block .pipe, .block .reef, .block .jl, .block .red, .block .opt, .block .svc, .block .hbr] : List Portion), H x = false)
    (hk0 : Kept pk wq H z0 s) : Kept.Outcome pk wq H z0 (execKeyDone p rx s) := by
  unfold execKeyDone
  repeat' (first
    | with_reducible assumption | exact held_sub hH rfl | exact held_one hH rfl | exact fldOk rfl
    | with_reducible refine State.modLink_kept ?_ ?_ | with_reducible refine State.sendCtrl_kept ?_ ?_
    | with_reducible refine State.arriveCtrl_kept ?_ ?_ ?_ ?_ | with_reducible refine State.portUpNow_kept ?_ ?_
    | with_reducible refine ite_kept ?_ ?_ | with_reducible refine iteO_kept ?_ ?_
    | simp only [Kept.frame_iff, and_self, true_or, or_true] | with_reducible refine Kept.next ?_
    | with_reducible intro _ | dsimp only | split)

theorem execRekeySwitch_kept {p : Nat} {rx : RxFlit} {s : State}
    (hH : ∀ x ∈ ([.mem, .islets, .fns, .optim, .queues, .jobs, .reefs, .ports, .egress, .actions, .gov, .lanes, .mctp, .armed, .block .img, .block .isl, .block .mem, .block .pipe, .block .reef, .block .jl, .block .red, .block .opt, .block .svc, .block .hbr] : List Portion), H x = false)
    (hk0 : Kept pk wq H z0 s) : Kept.Outcome pk wq H z0 (execRekeySwitch p rx s) := by
  unfold execRekeySwitch
  repeat' (first
    | with_reducible assumption | exact held_sub hH rfl | exact held_one hH rfl | exact fldOk rfl
    | with_reducible refine State.modLink_kept ?_ ?_ | with_reducible refine State.portEvent_kept ?_ ?_ ?_ ?_
    | with_reducible refine State.rekeyDone_kept ?_ ?_ | with_reducible refine State.arriveCtrl_kept ?_ ?_ ?_ ?_
    | with_reducible refine id_kept ?_ | with_reducible refine ite_kept ?_ ?_ | with_reducible refine iteO_kept ?_ ?_
    | simp only [Kept.frame_iff, and_self, true_or, or_true] | with_reducible refine Kept.next ?_
    | with_reducible intro _ | dsimp only | split)

theorem execRekeyThreshold_kept {p : Nat} {s : State}
    (hH : ∀ x ∈ ([.ports, .egress, .block .jl, .block .sec] : List Portion), H x = false) (hk0 : Kept pk wq H z0 s) :
    Kept.Outcome pk wq H z0 (execRekeyThreshold p s) := by
  unfold execRekeyThreshold
  repeat' (first
    | with_reducible assumption | exact held_sub hH rfl | exact held_one hH rfl | exact fldOk rfl
    | with_reducible refine State.startRekey_kept ?_ ?_ | with_reducible refine ite_kept ?_ ?_
    | with_reducible refine iteO_kept ?_ ?_ | with_reducible refine Kept.next ?_ | with_reducible intro _ | dsimp only
    | split)

theorem execRekeyTimeout_kept {p : Nat} {s : State}
    (hH : ∀ x ∈ ([.ports, .egress, .counts, .block .jl] : List Portion), H x = false) (hk0 : Kept pk wq H z0 s) :
    Kept.Outcome pk wq H z0 (execRekeyTimeout p s) := by
  unfold execRekeyTimeout
  repeat' (first
    | with_reducible assumption | exact held_sub hH rfl | exact held_one hH rfl | exact fldOk rfl
    | with_reducible refine State.reachCount_kept ?_ ?_ | with_reducible refine State.rekeyAbandon_kept ?_ ?_
    | with_reducible refine ite_kept ?_ ?_ | with_reducible refine iteO_kept ?_ ?_
    | with_reducible refine Kept.next ?_ | with_reducible intro _ | dsimp only | split)

theorem execRekeyRetry_kept {p : Nat} {s : State}
    (hH : ∀ x ∈ ([.ports, .egress, .counts, .block .jl, .block .sec] : List Portion), H x = false)
    (hk0 : Kept pk wq H z0 s) : Kept.Outcome pk wq H z0 (execRekeyRetry p s) := by
  unfold execRekeyRetry
  repeat' (first
    | with_reducible assumption | exact held_sub hH rfl | exact held_one hH rfl | exact fldOk rfl
    | with_reducible refine State.reachCount_kept ?_ ?_ | with_reducible refine State.startRekey_kept ?_ ?_
    | with_reducible refine iteO_kept ?_ ?_ | with_reducible refine Kept.next ?_ | with_reducible intro _ | dsimp only
    | split)

theorem execKeyingTimeout_kept {p : Nat} {s : State}
    (hH : ∀ x ∈ ([.mem, .islets, .fns, .optim, .queues, .jobs, .reefs, .ports, .egress, .actions, .gov, .lanes, .mctp, .armed, .counts, .block .img, .block .isl, .block .mem, .block .pipe, .block .reef, .block .jl, .block .red, .block .opt, .block .svc, .block .hbr] : List Portion), H x = false)
    (hk0 : Kept pk wq H z0 s) : Kept.Outcome pk wq H z0 (execKeyingTimeout p s) := by
  unfold execKeyingTimeout
  repeat' (first
    | with_reducible assumption | exact held_sub hH rfl | exact held_one hH rfl | exact fldOk rfl
    | with_reducible refine State.reachCount_kept ?_ ?_ | with_reducible refine State.portDown_kept ?_ ?_
    | with_reducible refine ite_kept ?_ ?_ | with_reducible refine iteO_kept ?_ ?_
    | with_reducible refine Kept.next ?_ | with_reducible intro _ | dsimp only | split)

theorem execKeyingResend_kept {p : Nat} {s : State} (hH : ∀ x ∈ ([.egress] : List Portion), H x = false)
    (hk0 : Kept pk wq H z0 s) : Kept.Outcome pk wq H z0 (execKeyingResend p s) := by
  unfold execKeyingResend
  repeat' (first
    | with_reducible assumption | exact held_sub hH rfl | exact held_one hH rfl | exact fldOk rfl
    | with_reducible refine State.sendCtrl_kept ?_ ?_ | with_reducible refine foldl_kept ?_ ?_
    | with_reducible refine ite_kept ?_ ?_ | with_reducible refine iteP_kept ?_ ?_
    | with_reducible refine iteO_kept ?_ ?_ | with_reducible refine foldlP_kept ?_ ?_
    | with_reducible refine foldlP_kept' (by with_reducible assumption) ?_ ?_ | with_reducible refine Kept.next ?_
    | with_reducible intro _ | dsimp only | split)

theorem execLaneFail_kept {p : Nat} {fault : LaneFault} {s : State}
    (hH : ∀ x ∈ ([.mem, .islets, .fns, .optim, .queues, .jobs, .reefs, .ports, .egress, .actions, .gov, .lanes, .mctp, .armed, .block .img, .block .isl, .block .mem, .block .pipe, .block .reef, .block .jl, .block .red, .block .opt, .block .svc, .block .hbr] : List Portion), H x = false)
    (hk0 : Kept pk wq H z0 s) : Kept.Outcome pk wq H z0 (execLaneFail p fault s) := by
  unfold execLaneFail
  repeat' (first
    | with_reducible assumption | exact held_sub hH rfl | exact held_one hH rfl | exact fldOk rfl
    | with_reducible refine State.modLink_kept ?_ ?_ | with_reducible refine State.portDown_kept ?_ ?_
    | with_reducible refine State.sendCtrl_kept ?_ ?_ | with_reducible refine ite_kept ?_ ?_
    | with_reducible refine iteO_kept ?_ ?_ | simp only [Kept.frame_iff, and_self, true_or, or_true]
    | with_reducible refine Kept.next ?_ | with_reducible exact Kept.fault | with_reducible intro _ | dsimp only
    | split)

theorem State.takeSwap_kept {s : State} {p : Nat} {f : Flit}
    (hH : ∀ x ∈ ([.ports, .egress, .block .jl] : List Portion), H x = false) (hk0 : Kept pk wq H z0 s) : Kept pk wq H
    z0 (State.takeSwap s p f) := by
  unfold State.takeSwap
  repeat' (first
    | with_reducible assumption | exact held_sub hH rfl | exact held_one hH rfl | exact fldOk rfl
    | with_reducible refine State.setFld_kept ?_ ?_ ?_ | with_reducible refine State.modLink_kept ?_ ?_
    | with_reducible refine State.sendCtrl_kept ?_ ?_ | simp only [Kept.frame_iff, and_self, true_or, or_true]
    | with_reducible intro _ | dsimp only | split)

theorem execLaneSwap_kept {p : Nat} {rx : RxFlit} {s : State}
    (hH : ∀ x ∈ ([.mem, .islets, .fns, .optim, .queues, .jobs, .reefs, .ports, .egress, .actions, .gov, .lanes, .mctp, .armed, .block .img, .block .isl, .block .mem, .block .pipe, .block .reef, .block .jl, .block .red, .block .opt, .block .svc, .block .hbr] : List Portion), H x = false)
    (hk0 : Kept pk wq H z0 s) : Kept.Outcome pk wq H z0 (execLaneSwap p rx s) := by
  unfold execLaneSwap
  repeat' (first
    | with_reducible assumption | exact held_sub hH rfl | exact held_one hH rfl | exact fldOk rfl
    | with_reducible refine State.arriveCtrl_kept ?_ ?_ ?_ ?_ | with_reducible refine State.takeSwap_kept ?_ ?_
    | with_reducible refine iteO_kept ?_ ?_ | with_reducible refine Kept.next ?_ | with_reducible intro _ | dsimp only
    | split)

theorem State.takeSwapAck_kept {s : State} {p : Nat} {f : Flit} (hH : ∀ x ∈ ([.ports] : List Portion), H x = false)
    (hk0 : Kept pk wq H z0 s) : Kept pk wq H z0 (State.takeSwapAck s p f) := by
  unfold State.takeSwapAck
  repeat' (first
    | with_reducible assumption | exact held_sub hH rfl | exact held_one hH rfl | exact fldOk rfl
    | with_reducible refine State.modLink_kept ?_ ?_ | with_reducible refine ite_kept ?_ ?_
    | simp only [Kept.frame_iff, and_self, true_or, or_true] | with_reducible intro _ | dsimp only | split)

theorem execLaneSwapAck_kept {p : Nat} {rx : RxFlit} {s : State}
    (hH : ∀ x ∈ ([.mem, .islets, .fns, .optim, .queues, .jobs, .reefs, .ports, .egress, .actions, .gov, .lanes, .mctp, .armed, .block .img, .block .isl, .block .mem, .block .pipe, .block .reef, .block .jl, .block .red, .block .opt, .block .svc, .block .hbr] : List Portion), H x = false)
    (hk0 : Kept pk wq H z0 s) : Kept.Outcome pk wq H z0 (execLaneSwapAck p rx s) := by
  unfold execLaneSwapAck
  repeat' (first
    | with_reducible assumption | exact held_sub hH rfl | exact held_one hH rfl | exact fldOk rfl
    | with_reducible refine State.arriveCtrl_kept ?_ ?_ ?_ ?_ | with_reducible refine State.takeSwapAck_kept ?_ ?_
    | with_reducible refine iteO_kept ?_ ?_ | with_reducible refine Kept.next ?_ | with_reducible intro _ | dsimp only
    | split)

theorem execLaneSwitchOver_kept {p : Nat} {s : State}
    (hH : ∀ x ∈ ([.ports, .egress, .mctp, .armed, .block .jl, .block .hbr] : List Portion), H x = false)
    (hk0 : Kept pk wq H z0 s) : Kept.Outcome pk wq H z0 (execLaneSwitchOver p s) := by
  unfold execLaneSwitchOver
  repeat' (first
    | with_reducible assumption | exact held_sub hH rfl | exact held_one hH rfl | exact fldOk rfl
    | with_reducible refine State.setFld_kept ?_ ?_ ?_ | with_reducible refine State.addFld_kept ?_ ?_ ?_
    | with_reducible refine State.modLink_kept ?_ ?_ | with_reducible refine State.portEvent_kept ?_ ?_ ?_ ?_
    | with_reducible refine ite_kept ?_ ?_ | with_reducible refine iteO_kept ?_ ?_
    | simp only [Kept.frame_iff, and_self, true_or, or_true] | with_reducible refine Kept.next ?_
    | with_reducible intro _ | dsimp only | split)

theorem execLaneSwapTimeout_kept {p : Nat} {s : State}
    (hH : ∀ x ∈ ([.mem, .islets, .fns, .optim, .queues, .jobs, .reefs, .ports, .egress, .actions, .gov, .lanes, .mctp, .armed, .counts, .block .img, .block .isl, .block .mem, .block .pipe, .block .reef, .block .jl, .block .red, .block .opt, .block .svc, .block .hbr] : List Portion), H x = false)
    (hk0 : Kept pk wq H z0 s) : Kept.Outcome pk wq H z0 (execLaneSwapTimeout p s) := by
  unfold execLaneSwapTimeout
  repeat' (first
    | with_reducible assumption | exact held_sub hH rfl | exact held_one hH rfl | exact fldOk rfl
    | with_reducible refine State.reachCount_kept ?_ ?_ | with_reducible refine State.portDown_kept ?_ ?_
    | with_reducible refine iteO_kept ?_ ?_ | with_reducible refine Kept.next ?_ | with_reducible intro _ | dsimp only
    | split)

theorem execPeerLoss_kept {p : Nat} {s : State}
    (hH : ∀ x ∈ ([.mem, .islets, .fns, .optim, .queues, .jobs, .reefs, .ports, .egress, .actions, .gov, .lanes, .mctp, .armed, .block .img, .block .isl, .block .mem, .block .pipe, .block .reef, .block .jl, .block .red, .block .opt, .block .svc, .block .hbr] : List Portion), H x = false)
    (hk0 : Kept pk wq H z0 s) : Kept.Outcome pk wq H z0 (execPeerLoss p s) := by
  unfold execPeerLoss
  repeat' (first
    | with_reducible assumption | exact held_sub hH rfl | exact held_one hH rfl | exact fldOk rfl
    | with_reducible refine State.portDown_kept ?_ ?_ | with_reducible refine ite_kept ?_ ?_
    | with_reducible refine iteO_kept ?_ ?_ | with_reducible refine Kept.next ?_ | with_reducible intro _ | dsimp only
    | split)

theorem State.portResetNow_kept {s : State} {p : Nat}
    (hH : ∀ x ∈ ([.mem, .islets, .fns, .optim, .queues, .jobs, .reefs, .ports, .egress, .actions, .gov, .lanes, .mctp, .armed, .block .img, .block .isl, .block .mem, .block .pipe, .block .reef, .block .jl, .block .red, .block .opt, .block .svc, .block .hbr] : List Portion), H x = false)
    (hk0 : Kept pk wq H z0 s) : Kept pk wq H z0 (State.portResetNow s p) := by
  unfold State.portResetNow
  repeat' (first
    | with_reducible assumption | exact held_sub hH rfl | exact held_one hH rfl | exact fldOk rfl
    | with_reducible refine State.enterPort_kept ?_ ?_ | with_reducible refine State.portDown_kept ?_ ?_
    | with_reducible refine State.startTraining_kept ?_ ?_ | with_reducible refine ite_kept ?_ ?_
    | with_reducible intro _ | dsimp only | split)

theorem State.portsReset_kept {s : State}
    (hH : ∀ x ∈ ([.mem, .islets, .fns, .optim, .queues, .jobs, .reefs, .ports, .egress, .actions, .gov, .lanes, .mctp, .armed, .block .img, .block .isl, .block .mem, .block .pipe, .block .reef, .block .jl, .block .red, .block .opt, .block .svc, .block .hbr] : List Portion), H x = false)
    (hk0 : Kept pk wq H z0 s) : Kept pk wq H z0 (State.portsReset s) := by
  unfold State.portsReset
  repeat' (first
    | with_reducible assumption | exact held_sub hH rfl | exact held_one hH rfl | exact fldOk rfl
    | with_reducible refine State.enterPort_kept ?_ ?_ | with_reducible refine State.portDown_kept ?_ ?_
    | with_reducible refine foldl_kept ?_ ?_ | with_reducible refine iteP_kept ?_ ?_
    | with_reducible refine foldlP_kept ?_ ?_
    | with_reducible refine foldlP_kept' (by with_reducible assumption) ?_ ?_ | with_reducible intro _ | dsimp only
    | split)

theorem State.portsStop_kept {s : State}
    (hH : ∀ x ∈ ([.mem, .islets, .fns, .optim, .queues, .jobs, .reefs, .ports, .egress, .actions, .gov, .lanes, .mctp, .armed, .block .img, .block .isl, .block .mem, .block .pipe, .block .reef, .block .jl, .block .red, .block .opt, .block .svc, .block .hbr] : List Portion), H x = false)
    (hk0 : Kept pk wq H z0 s) : Kept pk wq H z0 (State.portsStop s) := by
  unfold State.portsStop
  repeat' (first
    | with_reducible assumption | exact held_sub hH rfl | exact held_one hH rfl | exact fldOk rfl
    | with_reducible refine State.enterPort_kept ?_ ?_ | with_reducible refine State.portDrop_kept ?_ ?_
    | with_reducible refine foldl_kept ?_ ?_ | with_reducible refine iteP_kept ?_ ?_
    | with_reducible refine foldlP_kept ?_ ?_
    | with_reducible refine foldlP_kept' (by with_reducible assumption) ?_ ?_ | with_reducible intro _ | dsimp only
    | split)

theorem State.writePortCtl_kept {s : State} {fn : Nat} {p : Nat} {w : Word}
    (hH : ∀ x ∈ ([.mem, .islets, .fns, .optim, .queues, .jobs, .reefs, .ports, .egress, .actions, .gov, .lanes, .mctp, .armed, .block .img, .block .isl, .block .mem, .block .pipe, .block .reef, .block .jl, .block .red, .block .opt, .block .svc, .block .sec, .block .hbr] : List Portion), H x = false)
    (hk0 : Kept pk wq H z0 s) : Kept pk wq H z0 (State.writePortCtl s fn p w) := by
  unfold State.writePortCtl
  repeat' (first
    | with_reducible assumption | exact held_sub hH rfl | exact held_one hH rfl | exact fldOk rfl
    | with_reducible refine State.writeReg_kept ?_ ?_ | with_reducible refine State.enterPort_kept ?_ ?_
    | with_reducible refine State.portDrop_kept ?_ ?_ | with_reducible refine State.startTraining_kept ?_ ?_
    | with_reducible refine State.startRekey_kept ?_ ?_ | with_reducible refine State.portResetNow_kept ?_ ?_
    | with_reducible refine ite_kept ?_ ?_ | with_reducible intro _ | dsimp only | split)

theorem execPortEnable_kept {fn : Nat} {p : Nat} {w : Word} {s : State}
    (hH : ∀ x ∈ ([.mem, .islets, .fns, .optim, .queues, .jobs, .reefs, .ports, .egress, .actions, .gov, .lanes, .mctp, .armed, .block .img, .block .isl, .block .mem, .block .pipe, .block .reef, .block .jl, .block .red, .block .opt, .block .svc, .block .sec, .block .hbr] : List Portion), H x = false)
    (hk0 : Kept pk wq H z0 s) : Kept.Outcome pk wq H z0 (execPortEnable fn p w s) := by
  unfold execPortEnable
  repeat' (first
    | with_reducible assumption | exact held_sub hH rfl | exact held_one hH rfl | exact fldOk rfl
    | with_reducible refine State.writePortCtl_kept ?_ ?_ | with_reducible refine iteO_kept ?_ ?_
    | with_reducible refine Kept.next ?_ | with_reducible intro _ | dsimp only | split)

theorem execPortReset_kept {fn : Nat} {p : Nat} {w : Word} {s : State}
    (hH : ∀ x ∈ ([.mem, .islets, .fns, .optim, .queues, .jobs, .reefs, .ports, .egress, .actions, .gov, .lanes, .mctp, .armed, .block .img, .block .isl, .block .mem, .block .pipe, .block .reef, .block .jl, .block .red, .block .opt, .block .svc, .block .sec, .block .hbr] : List Portion), H x = false)
    (hk0 : Kept pk wq H z0 s) : Kept.Outcome pk wq H z0 (execPortReset fn p w s) := by
  unfold execPortReset
  repeat' (first
    | with_reducible assumption | exact held_sub hH rfl | exact held_one hH rfl | exact fldOk rfl
    | with_reducible refine State.writePortCtl_kept ?_ ?_ | with_reducible refine iteO_kept ?_ ?_
    | with_reducible refine Kept.next ?_ | with_reducible intro _ | dsimp only | split)

theorem execPortRekey_kept {fn : Nat} {p : Nat} {w : Word} {s : State}
    (hH : ∀ x ∈ ([.mem, .islets, .fns, .optim, .queues, .jobs, .reefs, .ports, .egress, .actions, .gov, .lanes, .mctp, .armed, .block .img, .block .isl, .block .mem, .block .pipe, .block .reef, .block .jl, .block .red, .block .opt, .block .svc, .block .sec, .block .hbr] : List Portion), H x = false)
    (hk0 : Kept pk wq H z0 s) : Kept.Outcome pk wq H z0 (execPortRekey fn p w s) := by
  unfold execPortRekey
  repeat' (first
    | with_reducible assumption | exact held_sub hH rfl | exact held_one hH rfl | exact fldOk rfl
    | with_reducible refine State.writePortCtl_kept ?_ ?_ | with_reducible refine iteO_kept ?_ ?_
    | with_reducible refine Kept.next ?_ | with_reducible intro _ | dsimp only | split)

theorem State.writeRoute_kept {s : State} {fn : Nat} {d : Nat} {w : Word}
    (hH : ∀ x ∈ ([.block .jl] : List Portion), H x = false) (hk0 : Kept pk wq H z0 s) : Kept pk wq H z0
    (State.writeRoute s fn d w) := by
  unfold State.writeRoute
  repeat' (first
    | with_reducible assumption | exact held_sub hH rfl | exact held_one hH rfl | exact fldOk rfl
    | with_reducible refine State.writeReg_kept ?_ ?_ | with_reducible refine ite_kept ?_ ?_ | with_reducible intro _
    | dsimp only | split)

theorem execRouteWrite_kept {fn : Nat} {d : Nat} {w : Word} {s : State}
    (hH : ∀ x ∈ ([.block .jl] : List Portion), H x = false) (hk0 : Kept pk wq H z0 s) : Kept.Outcome pk wq H z0
    (execRouteWrite fn d w s) := by
  unfold execRouteWrite
  repeat' (first
    | with_reducible assumption | exact held_sub hH rfl | exact held_one hH rfl | exact fldOk rfl
    | with_reducible refine State.writeRoute_kept ?_ ?_ | with_reducible refine iteO_kept ?_ ?_
    | with_reducible refine Kept.next ?_ | with_reducible intro _ | dsimp only | split)

end Sys2Proof.Machine
end

