-- ==== Sys2Proof/Laws/KeptServices.lean ====
section
/-! SUPPORT. What the operations of Services.lean keep. -/

namespace Sys2Proof.Machine
open Sys2Proof

variable {pk : Package} {wq : List Instr} {H : Portion → Bool} {z0 : State}

theorem State.launchForget_kept {s : State} {r : CmdRef} (hk0 : Kept pk wq H z0 s) : Kept pk wq H z0
    (State.launchForget s r) := by
  unfold State.launchForget
  repeat' (first
    | with_reducible assumption | simp only [Kept.frame_iff, and_self, true_or, or_true] | with_reducible intro _
    | dsimp only | split)

theorem State.refuseCommand_kept {s : State} {r : CmdRef} {st : Status}
    (hH : ∀ x ∈ ([.fns, .queues, .block .svc] : List Portion), H x = false) (hk0 : Kept pk wq H z0 s) : Kept pk wq H
    z0 (State.refuseCommand s r st) := by
  unfold State.refuseCommand
  repeat' (first
    | with_reducible assumption | exact held_sub hH rfl | exact held_one hH rfl | exact fldOk rfl
    | with_reducible refine State.completeCommand_kept ?_ ?_ | with_reducible refine State.launchForget_kept ?_
    | with_reducible intro _ | dsimp only | split)

theorem State.withCommand_kept {s : State} {fn : Nat} {q : Nat} {op : Nat} {f : CmdRef → Command → Result}
    (hk0 : Kept pk wq H z0 s) (hf : ∀ x0 x1, Kept.Outcome pk wq H z0 (f x0 x1)) : Kept.Outcome pk wq H z0
    (State.withCommand s fn q op f) := by
  unfold State.withCommand
  repeat' (first
    | with_reducible assumption | with_reducible apply hf | with_reducible refine ite_kept ?_ ?_
    | with_reducible refine iteO_kept ?_ ?_ | with_reducible refine Kept.next ?_ | with_reducible exact Kept.fault
    | with_reducible intro _ | dsimp only | split)

theorem State.mayStart_kept {s : State} {r : CmdRef} {atolls : List Nat}
    (hH : ∀ x ∈ ([.fns] : List Portion), H x = false) (hk0 : Kept pk wq H z0 s) : Kept pk wq H z0
    (State.mayStart s r atolls).1 := by
  unfold State.mayStart
  repeat' (first
    | with_reducible assumption | exact held_sub hH rfl | exact held_one hH rfl | exact fldOk rfl
    | exact .inl (fun _ => rfl) | exact .inr (held_one hH rfl)
    | exact .inl (fun x => by dsimp only; repeat' split <;> rfl) | with_reducible refine State.modFn_kept ?_ ?_ ?_
    | with_reducible refine ite_kept ?_ ?_ | with_reducible refine iteP_kept ?_ ?_
    | simp only [Kept.frame_iff, and_self, true_or, or_true] | with_reducible intro _ | dsimp only | split)
theorem State.mayStart_kept' {s : State} {r : CmdRef} {atolls : List Nat} {t z}
    (e : State.mayStart s r atolls = (t, z)) (hH : ∀ x ∈ ([.fns] : List Portion), H x = false)
    (hk0 : Kept pk wq H z0 s) : Kept pk wq H z0 t := by
  have k : Kept pk wq H z0 (State.mayStart s r atolls).1 := State.mayStart_kept hH hk0
  rw [e] at k; exact k

theorem execCmdNop_kept {fn : Nat} {q : Nat} {s : State}
    (hH : ∀ x ∈ ([.fns, .queues, .block .svc] : List Portion), H x = false) (hk0 : Kept pk wq H z0 s) : Kept.Outcome
    pk wq H z0 (execCmdNop fn q s) := by
  unfold execCmdNop
  repeat' (first
    | with_reducible assumption | exact held_sub hH rfl | exact held_one hH rfl | exact fldOk rfl
    | with_reducible refine State.completeCommand_kept ?_ ?_ | with_reducible refine State.withCommand_kept ?_ ?_
    | with_reducible refine iteO_kept ?_ ?_
    | with_reducible refine Kept.out (State.withCommand_kept ?_ ?_) (by with_reducible assumption)
    | with_reducible refine Kept.next ?_ | with_reducible intro _ | dsimp only | split)

theorem execCmdLoad_kept {fn : Nat} {q : Nat} {s : State}
    (hH : ∀ x ∈ ([.mem, .islets, .fns, .optim, .queues, .jobs, .reefs, .egress, .actions, .lanes, .mctp, .armed, .block .img, .block .isl, .block .mem, .block .pipe, .block .reef, .block .jl, .block .red, .block .opt, .block .svc, .block .hbr] : List Portion), H x = false)
    (hk0 : Kept pk wq H z0 s) : Kept.Outcome pk wq H z0 (execCmdLoad fn q s) := by
  unfold execCmdLoad
  repeat' (first
    | with_reducible assumption | exact held_sub hH rfl | exact held_one hH rfl | exact fldOk rfl
    | exact .inl (fun _ => rfl) | exact .inr (held_one hH rfl)
    | exact .inl (fun x => by dsimp only; repeat' split <;> rfl) | with_reducible refine State.modFn_kept ?_ ?_ ?_
    | with_reducible refine State.loadCommand_kept ?_ ?_ | with_reducible refine State.withCommand_kept ?_ ?_
    | with_reducible refine ite_kept ?_ ?_ | with_reducible refine iteO_kept ?_ ?_
    | with_reducible refine Kept.out (State.withCommand_kept ?_ ?_) (by with_reducible assumption)
    | simp only [Kept.frame_iff, and_self, true_or, or_true] | with_reducible refine Kept.next ?_
    | with_reducible intro _ | dsimp only | split)

theorem State.launchCommand_kept {s : State} {fn : Nat} {r : CmdRef} {c : Command} {e : List Byte}
    (hH : ∀ x ∈ ([.egress, .lanes, .armed, .block .jl] : List Portion), H x = false) (hk0 : Kept pk wq H z0 s) : Kept
    pk wq H z0 (State.launchCommand s fn r c e) := by
  unfold State.launchCommand
  repeat' (first
    | with_reducible assumption | exact held_sub hH rfl | exact held_one hH rfl | exact fldOk rfl
    | with_reducible refine State.hostRead_kept ?_ ?_ | with_reducible refine State.launchTake_kept ?_
    | with_reducible refine ite_kept ?_ ?_
    | with_reducible refine State.launchTake_kept' (by with_reducible assumption) ?_
    | simp only [Kept.frame_iff, and_self, true_or, or_true] | with_reducible intro _ | dsimp only | split)

theorem execCmdLaunch_kept {fn : Nat} {q : Nat} {s : State}
    (hH : ∀ x ∈ ([.fns, .queues, .egress, .lanes, .armed, .block .jl, .block .svc] : List Portion), H x = false)
    (hk0 : Kept pk wq H z0 s) : Kept.Outcome pk wq H z0 (execCmdLaunch fn q s) := by
  unfold execCmdLaunch
  repeat' (first
    | with_reducible assumption | exact held_sub hH rfl | exact held_one hH rfl | exact fldOk rfl
    | with_reducible refine State.refuseCommand_kept ?_ ?_ | with_reducible refine State.withCommand_kept ?_ ?_
    | with_reducible refine State.mayStart_kept ?_ ?_ | with_reducible refine State.launchCommand_kept ?_ ?_
    | with_reducible refine ite_kept ?_ ?_ | with_reducible refine iteO_kept ?_ ?_
    | with_reducible refine Kept.out (State.withCommand_kept ?_ ?_) (by with_reducible assumption)
    | with_reducible refine State.mayStart_kept' (by with_reducible assumption) ?_ ?_
    | with_reducible refine Kept.next ?_ | with_reducible intro _ | dsimp only | split)

theorem execCmdMigrate_kept {fn : Nat} {q : Nat} {s : State}
    (hH : ∀ x ∈ ([.fns, .queues, .block .mem] : List Portion), H x = false) (hk0 : Kept pk wq H z0 s) : Kept.Outcome
    pk wq H z0 (execCmdMigrate fn q s) := by
  unfold execCmdMigrate
  repeat' (first
    | with_reducible assumption | exact held_sub hH rfl | exact held_one hH rfl | exact fldOk rfl
    | with_reducible refine State.startCommand_kept ?_ ?_ | with_reducible refine State.migQueue_kept ?_ ?_
    | with_reducible refine State.withCommand_kept ?_ ?_ | with_reducible refine ite_kept ?_ ?_
    | with_reducible refine iteO_kept ?_ ?_
    | with_reducible refine Kept.out (State.withCommand_kept ?_ ?_) (by with_reducible assumption)
    | simp only [Kept.frame_iff, and_self, true_or, or_true] | with_reducible refine Kept.next ?_
    | with_reducible intro _ | dsimp only | split)

theorem State.stepRefuse_kept {s : State} {fn : Nat} {r : CmdRef} {c : Command} {st : Status}
    (hH : ∀ x ∈ ([.fns, .queues, .egress, .armed, .block .jl, .block .svc] : List Portion), H x = false)
    (hk0 : Kept pk wq H z0 s) : Kept pk wq H z0 (State.stepRefuse s fn r c st) := by
  unfold State.stepRefuse
  repeat' (first
    | with_reducible assumption | exact held_sub hH rfl | exact held_one hH rfl | exact fldOk rfl
    | with_reducible refine State.setFld_kept ?_ ?_ ?_ | with_reducible refine State.fnEvent_kept ?_ ?_ ?_ ?_
    | with_reducible refine State.refuseCommand_kept ?_ ?_ | with_reducible intro _ | dsimp only | split)

theorem State.stepBegins_kept {s : State} {fn : Nat} {r : CmdRef} {c : Command} {e : List Byte} {cb : List Byte}
    {params : List Byte}
    (hH : ∀ x ∈ ([.mem, .islets, .fns, .optim, .queues, .jobs, .egress, .actions, .gov, .lanes, .mctp, .armed, .block .isl, .block .mem, .block .pipe, .block .reef, .block .jl, .block .red, .block .opt, .block .svc, .block .hbr] : List Portion), H x = false)
    (hk0 : Kept pk wq H z0 s) : Kept pk wq H z0 (State.stepBegins s fn r c e cb params) := by
  unfold State.stepBegins
  repeat' (first
    | with_reducible assumption | exact held_sub hH rfl | exact held_one hH rfl | exact fldOk rfl
    | exact .inl (fun _ => rfl) | exact .inr (held_one hH rfl)
    | exact .inl (fun x => by dsimp only; repeat' split <;> rfl) | with_reducible refine State.straitOffer_kept ?_ ?_
    | with_reducible refine State.modFn_kept ?_ ?_ ?_ | with_reducible refine State.startCommand_kept ?_ ?_
    | with_reducible refine State.spWrite_kept ?_ ?_ | with_reducible refine State.stepStat_kept ?_ ?_
    | with_reducible refine State.optResumes_kept ?_ ?_ | with_reducible refine foldl_kept ?_ ?_
    | with_reducible refine ite_kept ?_ ?_ | with_reducible refine iteP_kept ?_ ?_
    | with_reducible refine foldlP_kept ?_ ?_
    | with_reducible refine foldlP_kept' (by with_reducible assumption) ?_ ?_
    | simp only [Kept.frame_iff, and_self, true_or, or_true] | with_reducible intro _ | dsimp only | split)

theorem execCmdStep_kept {fn : Nat} {q : Nat} {s : State}
    (hH : ∀ x ∈ ([.mem, .islets, .fns, .optim, .queues, .jobs, .egress, .actions, .gov, .lanes, .mctp, .armed, .block .isl, .block .mem, .block .pipe, .block .reef, .block .jl, .block .red, .block .opt, .block .svc, .block .hbr] : List Portion), H x = false)
    (hk0 : Kept pk wq H z0 s) : Kept.Outcome pk wq H z0 (execCmdStep fn q s) := by
  unfold execCmdStep
  repeat' (first
    | with_reducible assumption | exact held_sub hH rfl | exact held_one hH rfl | exact fldOk rfl
    | with_reducible refine State.devRead_kept ?_ ?_ | with_reducible refine State.withCommand_kept ?_ ?_
    | with_reducible refine State.mayStart_kept ?_ ?_ | with_reducible refine State.stepRefuse_kept ?_ ?_
    | with_reducible refine State.stepBegins_kept ?_ ?_ | with_reducible refine getD_kept ?_ ?_
    | with_reducible refine id_kept ?_ | with_reducible refine ite_kept ?_ ?_ | with_reducible refine iteO_kept ?_ ?_
    | with_reducible refine State.devRead_kept' (by with_reducible assumption) ?_ ?_
    | with_reducible refine Kept.out (State.withCommand_kept ?_ ?_) (by with_reducible assumption)
    | with_reducible refine State.mayStart_kept' (by with_reducible assumption) ?_ ?_
    | with_reducible refine Kept.next ?_ | with_reducible exact Kept.fault | with_reducible intro _ | dsimp only
    | split)

theorem State.stepRecorded_kept {s : State} {fn : Nat} {v : StepSvc} {r : StepRec} {rest : List StepRec}
    (hH : ∀ x ∈ ([.mem, .fns, .optim, .queues, .jobs, .egress, .lanes, .mctp, .armed, .block .mem, .block .pipe, .block .reef, .block .jl, .block .red, .block .svc, .block .hbr] : List Portion), H x = false)
    (hk0 : Kept pk wq H z0 s) : Kept pk wq H z0 (State.stepRecorded s fn v r rest) := by
  unfold State.stepRecorded
  repeat' (first
    | with_reducible assumption | exact held_sub hH rfl | exact held_one hH rfl | exact fldOk rfl
    | exact .inl (fun _ => rfl) | exact .inr (held_one hH rfl)
    | exact .inl (fun x => by dsimp only; repeat' split <;> rfl)
    | with_reducible refine State.fnEvent_kept ?_ ?_ ?_ ?_ | with_reducible refine State.modFn_kept ?_ ?_ ?_
    | with_reducible refine State.devWrite_kept ?_ ?_ | with_reducible refine State.modStep_kept ?_ ?_
    | with_reducible refine State.stepBoundary_kept ?_ ?_ | with_reducible refine foldl_kept ?_ ?_
    | with_reducible refine mapFst_kept ?_ | with_reducible refine ite_kept ?_ ?_
    | with_reducible refine iteP_kept ?_ ?_ | with_reducible refine foldlP_kept ?_ ?_
    | with_reducible refine State.devWrite_kept' (by with_reducible assumption) ?_ ?_
    | with_reducible refine foldlP_kept' (by with_reducible assumption) ?_ ?_
    | simp only [Kept.frame_iff, and_self, true_or, or_true] | with_reducible intro _ | dsimp only | split)

theorem execStepRecordWrite_kept {fn : Nat} {s : State}
    (hH : ∀ x ∈ ([.mem, .fns, .optim, .queues, .jobs, .egress, .lanes, .mctp, .armed, .block .mem, .block .pipe, .block .reef, .block .jl, .block .red, .block .svc, .block .hbr] : List Portion), H x = false)
    (hk0 : Kept pk wq H z0 s) : Kept.Outcome pk wq H z0 (execStepRecordWrite fn s) := by
  unfold execStepRecordWrite
  repeat' (first
    | with_reducible assumption | exact held_sub hH rfl | exact held_one hH rfl | exact fldOk rfl
    | with_reducible refine State.prepareWrite_kept ?_ ?_ | with_reducible refine State.stepBoundary_kept ?_ ?_
    | with_reducible refine State.stepRecorded_kept ?_ ?_ | with_reducible refine ite_kept ?_ ?_
    | with_reducible refine iteO_kept ?_ ?_
    | with_reducible refine State.prepareWrite_kept' (by with_reducible assumption) ?_ ?_
    | with_reducible refine Kept.next ?_ | with_reducible exact Kept.fault | with_reducible intro _ | dsimp only
    | split)

theorem State.genAsk_kept {s : State} {fn : Nat} {g : GenSvc}
    (hH : ∀ x ∈ ([.fns, .egress, .lanes, .armed, .block .jl] : List Portion), H x = false) (hk0 : Kept pk wq H z0 s) :
    Kept pk wq H z0 (State.genAsk s fn g) := by
  unfold State.genAsk
  repeat' (first
    | with_reducible assumption | exact held_sub hH rfl | exact held_one hH rfl | exact fldOk rfl
    | with_reducible refine State.hostRead_kept ?_ ?_ | with_reducible refine State.modGen_kept ?_ ?_
    | with_reducible refine ite_kept ?_ ?_ | simp only [Kept.frame_iff, and_self, true_or, or_true]
    | with_reducible intro _ | dsimp only | split)

theorem State.genOpen_kept {s : State} {fn : Nat} {ans : Answer}
    (hH : ∀ x ∈ ([.mem, .islets, .fns, .queues, .egress, .gov, .lanes, .mctp, .armed, .block .isl, .block .mem, .block .reef, .block .jl, .block .svc, .block .hbr] : List Portion), H x = false)
    (hk0 : Kept pk wq H z0 s) : Kept pk wq H z0 (State.genOpen s fn ans) := by
  unfold State.genOpen
  repeat' (first
    | with_reducible assumption | exact held_sub hH rfl | exact held_one hH rfl | exact fldOk rfl
    | with_reducible refine State.devRead_kept ?_ ?_ | with_reducible refine State.hostAnswer_kept ?_ ?_
    | with_reducible refine State.modGen_kept ?_ ?_ | with_reducible refine State.genWrite_kept ?_ ?_
    | with_reducible refine State.genStat_kept ?_ ?_ | with_reducible refine State.genEnd_kept ?_ ?_
    | with_reducible refine State.genLaunch_kept ?_ ?_ | with_reducible refine State.genKill_kept ?_ ?_
    | with_reducible refine State.genAsk_kept ?_ ?_ | with_reducible refine foldl_kept ?_ ?_
    | with_reducible refine getD_kept ?_ ?_ | with_reducible refine mapFst_kept ?_
    | with_reducible refine ite_kept ?_ ?_ | with_reducible refine iteP_kept ?_ ?_
    | with_reducible refine foldlP_kept ?_ ?_
    | with_reducible refine State.devRead_kept' (by with_reducible assumption) ?_ ?_
    | with_reducible refine State.hostAnswer_kept' (by with_reducible assumption) ?_ ?_
    | with_reducible refine foldlP_kept' (by with_reducible assumption) ?_ ?_
    | simp only [Kept.frame_iff, and_self, true_or, or_true] | with_reducible intro _ | dsimp only | split)

theorem State.genBoundaryOpen_kept {s : State} {fn : Nat} {ans : Answer}
    (hH : ∀ x ∈ ([.mem, .islets, .fns, .queues, .egress, .gov, .lanes, .mctp, .armed, .block .isl, .block .mem, .block .reef, .block .jl, .block .svc, .block .hbr] : List Portion), H x = false)
    (hk0 : Kept pk wq H z0 s) : Kept.Outcome pk wq H z0 (State.genBoundaryOpen s fn ans) := by
  unfold State.genBoundaryOpen
  repeat' (first
    | with_reducible assumption | exact held_sub hH rfl | exact held_one hH rfl | exact fldOk rfl
    | with_reducible refine State.genOpen_kept ?_ ?_ | with_reducible refine ite_kept ?_ ?_
    | with_reducible refine iteO_kept ?_ ?_ | with_reducible refine Kept.next ?_ | with_reducible exact Kept.fault
    | with_reducible intro _ | dsimp only | split)

theorem State.genBegins_kept {s : State} {fn : Nat} {r : CmdRef} {c : Command} {ans : Answer}
    (hH : ∀ x ∈ ([.mem, .islets, .fns, .queues, .egress, .gov, .lanes, .mctp, .armed, .block .isl, .block .mem, .block .reef, .block .jl, .block .svc, .block .hbr] : List Portion), H x = false)
    (hk0 : Kept pk wq H z0 s) : Kept.Outcome pk wq H z0 (State.genBegins s fn r c ans) := by
  unfold State.genBegins
  repeat' (first
    | with_reducible assumption | exact held_sub hH rfl | exact held_one hH rfl | exact fldOk rfl
    | exact .inl (fun _ => rfl) | exact .inr (held_one hH rfl)
    | exact .inl (fun x => by dsimp only; repeat' split <;> rfl) | with_reducible refine State.modFn_kept ?_ ?_ ?_
    | with_reducible refine State.startCommand_kept ?_ ?_ | with_reducible refine State.genStat_kept ?_ ?_
    | with_reducible refine State.genBoundaryOpen_kept ?_ ?_ | with_reducible refine iteO_kept ?_ ?_
    | with_reducible refine Kept.out (State.genBoundaryOpen_kept ?_ ?_) (by with_reducible assumption)
    | simp only [Kept.frame_iff, and_self, true_or, or_true] | with_reducible refine Kept.next ?_
    | with_reducible intro _ | dsimp only | split)

theorem execCmdGenerate_kept {fn : Nat} {q : Nat} {ans : Answer} {s : State}
    (hH : ∀ x ∈ ([.mem, .islets, .fns, .queues, .egress, .gov, .lanes, .mctp, .armed, .block .isl, .block .mem, .block .reef, .block .jl, .block .svc, .block .hbr] : List Portion), H x = false)
    (hk0 : Kept pk wq H z0 s) : Kept.Outcome pk wq H z0 (execCmdGenerate fn q ans s) := by
  unfold execCmdGenerate
  repeat' (first
    | with_reducible assumption | exact held_sub hH rfl | exact held_one hH rfl | exact fldOk rfl
    | with_reducible refine State.refuseCommand_kept ?_ ?_ | with_reducible refine State.withCommand_kept ?_ ?_
    | with_reducible refine State.mayStart_kept ?_ ?_ | with_reducible refine State.genBegins_kept ?_ ?_
    | with_reducible refine ite_kept ?_ ?_ | with_reducible refine iteO_kept ?_ ?_
    | with_reducible refine Kept.out (State.withCommand_kept ?_ ?_) (by with_reducible assumption)
    | with_reducible refine State.mayStart_kept' (by with_reducible assumption) ?_ ?_
    | with_reducible refine Kept.out (State.genBegins_kept ?_ ?_) (by with_reducible assumption)
    | with_reducible refine Kept.next ?_ | with_reducible exact Kept.fault | with_reducible intro _ | dsimp only
    | split)

theorem execGenPoll_kept {fn : Nat} {ans : Answer} {s : State}
    (hH : ∀ x ∈ ([.mem, .islets, .fns, .queues, .egress, .gov, .lanes, .mctp, .armed, .block .isl, .block .mem, .block .reef, .block .jl, .block .svc, .block .hbr] : List Portion), H x = false)
    (hk0 : Kept pk wq H z0 s) : Kept.Outcome pk wq H z0 (execGenPoll fn ans s) := by
  unfold execGenPoll
  repeat' (first
    | with_reducible assumption | exact held_sub hH rfl | exact held_one hH rfl | exact fldOk rfl
    | with_reducible refine State.genBoundaryOpen_kept ?_ ?_ | with_reducible refine ite_kept ?_ ?_
    | with_reducible refine iteO_kept ?_ ?_
    | with_reducible refine Kept.out (State.genBoundaryOpen_kept ?_ ?_) (by with_reducible assumption)
    | with_reducible refine Kept.next ?_ | with_reducible intro _ | dsimp only | split)

theorem State.serviceCtl_kept {s : State} {fn : Nat} {q : Nat} {action : Nat}
    (hH : ∀ x ∈ ([.mem, .fns, .optim, .queues, .jobs, .egress, .lanes, .mctp, .armed, .block .mem, .block .pipe, .block .reef, .block .jl, .block .red, .block .svc, .block .hbr] : List Portion), H x = false)
    (hk0 : Kept pk wq H z0 s) : Kept.Outcome pk wq H z0 (State.serviceCtl s fn q action) := by
  unfold State.serviceCtl
  repeat' (first
    | with_reducible assumption | exact held_sub hH rfl | exact held_one hH rfl | exact fldOk rfl
    | with_reducible refine State.completeCommand_kept ?_ ?_ | with_reducible refine State.startCommand_kept ?_ ?_
    | with_reducible refine State.modStep_kept ?_ ?_ | with_reducible refine State.stepStat_kept ?_ ?_
    | with_reducible refine State.modGen_kept ?_ ?_ | with_reducible refine State.genStat_kept ?_ ?_
    | with_reducible refine State.genBoundary_kept ?_ ?_ | with_reducible refine State.stepBoundary_kept ?_ ?_
    | with_reducible refine State.refuseCommand_kept ?_ ?_ | with_reducible refine State.withCommand_kept ?_ ?_
    | with_reducible refine ite_kept ?_ ?_ | with_reducible refine iteO_kept ?_ ?_
    | with_reducible refine Kept.out (State.withCommand_kept ?_ ?_) (by with_reducible assumption)
    | simp only [Kept.frame_iff, and_self, true_or, or_true] | with_reducible refine Kept.next ?_
    | with_reducible exact Kept.fault | with_reducible intro _ | dsimp only | split)

theorem execServicePause_kept {fn : Nat} {q : Nat} {s : State}
    (hH : ∀ x ∈ ([.mem, .fns, .optim, .queues, .jobs, .egress, .lanes, .mctp, .armed, .block .mem, .block .pipe, .block .reef, .block .jl, .block .red, .block .svc, .block .hbr] : List Portion), H x = false)
    (hk0 : Kept pk wq H z0 s) : Kept.Outcome pk wq H z0 (execServicePause fn q s) := by
  unfold execServicePause
  repeat' (first
    | with_reducible assumption | exact held_sub hH rfl | exact held_one hH rfl | exact fldOk rfl
    | with_reducible refine State.serviceCtl_kept ?_ ?_ | with_reducible refine iteO_kept ?_ ?_
    | with_reducible refine Kept.out (State.serviceCtl_kept ?_ ?_) (by with_reducible assumption)
    | with_reducible refine Kept.next ?_ | with_reducible intro _ | dsimp only | split)

theorem execServiceResume_kept {fn : Nat} {q : Nat} {s : State}
    (hH : ∀ x ∈ ([.mem, .fns, .optim, .queues, .jobs, .egress, .lanes, .mctp, .armed, .block .mem, .block .pipe, .block .reef, .block .jl, .block .red, .block .svc, .block .hbr] : List Portion), H x = false)
    (hk0 : Kept pk wq H z0 s) : Kept.Outcome pk wq H z0 (execServiceResume fn q s) := by
  unfold execServiceResume
  repeat' (first
    | with_reducible assumption | exact held_sub hH rfl | exact held_one hH rfl | exact fldOk rfl
    | with_reducible refine State.serviceCtl_kept ?_ ?_ | with_reducible refine iteO_kept ?_ ?_
    | with_reducible refine Kept.out (State.serviceCtl_kept ?_ ?_) (by with_reducible assumption)
    | with_reducible refine Kept.next ?_ | with_reducible intro _ | dsimp only | split)

theorem execServiceStop_kept {fn : Nat} {q : Nat} {s : State}
    (hH : ∀ x ∈ ([.mem, .fns, .optim, .queues, .jobs, .egress, .lanes, .mctp, .armed, .block .mem, .block .pipe, .block .reef, .block .jl, .block .red, .block .svc, .block .hbr] : List Portion), H x = false)
    (hk0 : Kept pk wq H z0 s) : Kept.Outcome pk wq H z0 (execServiceStop fn q s) := by
  unfold execServiceStop
  repeat' (first
    | with_reducible assumption | exact held_sub hH rfl | exact held_one hH rfl | exact fldOk rfl
    | with_reducible refine State.serviceCtl_kept ?_ ?_ | with_reducible refine iteO_kept ?_ ?_
    | with_reducible refine Kept.out (State.serviceCtl_kept ?_ ?_) (by with_reducible assumption)
    | with_reducible refine Kept.next ?_ | with_reducible intro _ | dsimp only | split)

theorem State.fetchMore_kept {n : Nat} {s : State} {fn k : Nat}
    (hH : ∀ x ∈ ([.queues, .egress, .lanes, .armed, .block .jl] : List Portion), H x = false)
    (h : Kept pk wq H z0 s) :
    Kept pk wq H z0 (State.fetchMore n s fn k) := by
  induction n generalizing s with
  | zero => exact h | succ n ih =>
    rw [State.fetchMore]
    repeat' (first
      | with_reducible assumption | with_reducible refine ih ?_
      | with_reducible refine State.hostRead_kept (held_sub hH rfl) ?_
      | with_reducible refine State.setQueue_kept (held_sub hH rfl) ?_ | with_reducible refine foldl_kept ?_ ?_
      | with_reducible refine getD_kept ?_ ?_ | with_reducible refine ite_kept ?_ ?_
      | with_reducible refine iteP_kept ?_ ?_ | with_reducible refine iteO_kept ?_ ?_
      | simp only [Kept.frame_iff, and_self, true_or, or_true] | with_reducible refine Kept.next ?_
      | with_reducible exact Kept.fault | with_reducible exact Kept.refused | with_reducible intro _ | dsimp only
      | split)

theorem execQueueDoorbell_kept {fn : Nat} {q : Nat} {w : Word} {s : State}
    (hH : ∀ x ∈ ([.queues, .egress, .lanes, .armed, .block .jl, .block .svc] : List Portion), H x = false)
    (hk0 : Kept pk wq H z0 s) : Kept.Outcome pk wq H z0 (execQueueDoorbell fn q w s) := by
  unfold execQueueDoorbell
  repeat' (first
    | with_reducible assumption | exact held_sub hH rfl | exact held_one hH rfl | exact fldOk rfl
    | with_reducible refine State.writeReg_kept ?_ ?_ | with_reducible refine State.straitOffer_kept ?_ ?_
    | with_reducible refine State.fetchMore_kept ?_ ?_ | with_reducible refine ite_kept ?_ ?_
    | with_reducible refine iteO_kept ?_ ?_ | with_reducible refine Kept.next ?_ | with_reducible exact Kept.fault
    | with_reducible intro _ | dsimp only | split)

theorem State.joinsQueue_kept {s : State} {fn : Nat} {q : Nat} {head : Nat} {data : List Byte}
    (hH : ∀ x ∈ ([.fns, .queues, .egress, .lanes, .armed, .block .jl, .block .svc] : List Portion), H x = false)
    (hk0 : Kept pk wq H z0 s) : Kept pk wq H z0 (State.joinsQueue s fn q head data) := by
  unfold State.joinsQueue
  repeat' (first
    | with_reducible assumption | exact held_sub hH rfl | exact held_one hH rfl | exact fldOk rfl
    | exact .inl (fun _ => rfl) | exact .inr (held_one hH rfl)
    | exact .inl (fun x => by dsimp only; repeat' split <;> rfl) | with_reducible refine State.addFld_kept ?_ ?_ ?_
    | with_reducible refine State.modFn_kept ?_ ?_ ?_ | with_reducible refine State.setQueue_kept ?_ ?_
    | with_reducible refine State.fetchMore_kept ?_ ?_ | simp only [Kept.frame_iff, and_self, true_or, or_true]
    | with_reducible intro _ | dsimp only | split)

theorem execDescriptorFetched_kept {fn : Nat} {q : Nat} {ans : Answer} {s : State}
    (hH : ∀ x ∈ ([.mem, .fns, .queues, .egress, .lanes, .mctp, .armed, .block .mem, .block .reef, .block .jl, .block .svc, .block .hbr] : List Portion), H x = false)
    (hk0 : Kept pk wq H z0 s) : Kept.Outcome pk wq H z0 (execDescriptorFetched fn q ans s) := by
  unfold execDescriptorFetched
  repeat' (first
    | with_reducible assumption | exact held_sub hH rfl | exact held_one hH rfl | exact fldOk rfl
    | with_reducible refine State.setQueue_kept ?_ ?_ | with_reducible refine State.devRead_kept ?_ ?_
    | with_reducible refine State.hostAnswer_kept ?_ ?_ | with_reducible refine State.queueFails_kept ?_ ?_
    | with_reducible refine State.joinsQueue_kept ?_ ?_ | with_reducible refine ite_kept ?_ ?_
    | with_reducible refine iteO_kept ?_ ?_
    | with_reducible refine State.devRead_kept' (by with_reducible assumption) ?_ ?_
    | with_reducible refine State.hostAnswer_kept' (by with_reducible assumption) ?_ ?_
    | simp only [Kept.frame_iff, and_self, true_or, or_true] | with_reducible refine Kept.next ?_
    | with_reducible intro _ | dsimp only | split)

theorem State.recordWritten_kept {s : State} {fn : Nat} {q : Nat} {c : Completion}
    (hH : ∀ x ∈ ([.queues, .egress, .armed, .block .jl, .block .svc] : List Portion), H x = false)
    (hk0 : Kept pk wq H z0 s) : Kept pk wq H z0 (State.recordWritten s fn q c) := by
  unfold State.recordWritten
  repeat' (first
    | with_reducible assumption | exact held_sub hH rfl | exact held_one hH rfl | exact fldOk rfl
    | with_reducible refine State.addFld_kept ?_ ?_ ?_ | with_reducible refine State.interrupt_kept ?_ ?_
    | with_reducible refine State.queueDrained_kept ?_ ?_ | with_reducible refine ite_kept ?_ ?_
    | with_reducible intro _ | dsimp only | split)

theorem execCompletionWrite_kept {fn : Nat} {q : Nat} {st : Status} {s : State}
    (hH : ∀ x ∈ ([.mem, .fns, .queues, .egress, .lanes, .mctp, .armed, .block .mem, .block .reef, .block .jl, .block .svc, .block .hbr] : List Portion), H x = false)
    (hk0 : Kept pk wq H z0 s) : Kept.Outcome pk wq H z0 (execCompletionWrite fn q st s) := by
  unfold execCompletionWrite
  repeat' (first
    | with_reducible assumption | exact held_sub hH rfl | exact held_one hH rfl | exact fldOk rfl
    | with_reducible refine State.hostWrite_kept ?_ ?_ | with_reducible refine State.setQueue_kept ?_ ?_
    | with_reducible refine State.queueDrained_kept ?_ ?_ | with_reducible refine State.prepareWrite_kept ?_ ?_
    | with_reducible refine State.devWrite_kept ?_ ?_ | with_reducible refine State.queueFails_kept ?_ ?_
    | with_reducible refine State.recordWritten_kept ?_ ?_ | with_reducible refine ite_kept ?_ ?_
    | with_reducible refine iteO_kept ?_ ?_
    | with_reducible refine State.prepareWrite_kept' (by with_reducible assumption) ?_ ?_
    | with_reducible refine State.devWrite_kept' (by with_reducible assumption) ?_ ?_
    | simp only [Kept.frame_iff, and_self, true_or, or_true] | with_reducible refine Kept.next ?_
    | with_reducible exact Kept.fault | with_reducible intro _ | dsimp only | split)

theorem execCompletionDoorbell_kept {fn : Nat} {q : Nat} {w : Word} {s : State}
    (hH : ∀ x ∈ ([.lanes, .block .svc] : List Portion), H x = false) (hk0 : Kept pk wq H z0 s) : Kept.Outcome pk wq H
    z0 (execCompletionDoorbell fn q w s) := by
  unfold execCompletionDoorbell
  repeat' (first
    | with_reducible assumption | exact held_sub hH rfl | exact held_one hH rfl | exact fldOk rfl
    | with_reducible refine State.writeReg_kept ?_ ?_ | with_reducible refine State.straitOffer_kept ?_ ?_
    | with_reducible refine ite_kept ?_ ?_ | with_reducible refine iteO_kept ?_ ?_
    | with_reducible refine Kept.next ?_ | with_reducible intro _ | dsimp only | split)

theorem State.writeQCfg_kept {s : State} {fn : Nat} {q : Nat} {w : Word}
    (hH : ∀ x ∈ ([.fns, .queues, .block .svc] : List Portion), H x = false) (hk0 : Kept pk wq H z0 s) : Kept pk wq H
    z0 (State.writeQCfg s fn q w) := by
  unfold State.writeQCfg
  repeat' (first
    | with_reducible assumption | exact held_sub hH rfl | exact held_one hH rfl | exact fldOk rfl
    | exact wordOk_zero rfl | exact wordOk_whole rfl | with_reducible refine State.setReg_kept ?_ ?_ ?_
    | with_reducible refine State.setFld_kept ?_ ?_ ?_ | with_reducible refine State.writeReg_kept ?_ ?_
    | with_reducible refine State.setQueue_kept ?_ ?_ | with_reducible refine State.queueDrained_kept ?_ ?_
    | with_reducible refine State.refuseCommand_kept ?_ ?_ | with_reducible refine foldl_kept ?_ ?_
    | with_reducible refine ite_kept ?_ ?_ | with_reducible refine iteP_kept ?_ ?_
    | with_reducible refine foldlP_kept ?_ ?_
    | with_reducible refine foldlP_kept' (by with_reducible assumption) ?_ ?_
    | simp only [Kept.frame_iff, and_self, true_or, or_true] | with_reducible intro _ | dsimp only | split)

theorem execQueueEnable_kept {fn : Nat} {q : Nat} {w : Word} {s : State}
    (hH : ∀ x ∈ ([.fns, .queues, .block .svc] : List Portion), H x = false) (hk0 : Kept pk wq H z0 s) : Kept.Outcome
    pk wq H z0 (execQueueEnable fn q w s) := by
  unfold execQueueEnable
  repeat' (first
    | with_reducible assumption | exact held_sub hH rfl | exact held_one hH rfl | exact fldOk rfl
    | with_reducible refine State.writeQCfg_kept ?_ ?_ | with_reducible refine iteO_kept ?_ ?_
    | with_reducible refine Kept.next ?_ | with_reducible intro _ | dsimp only | split)

theorem execQueueDisable_kept {fn : Nat} {q : Nat} {w : Word} {s : State}
    (hH : ∀ x ∈ ([.fns, .queues, .block .svc] : List Portion), H x = false) (hk0 : Kept pk wq H z0 s) : Kept.Outcome
    pk wq H z0 (execQueueDisable fn q w s) := by
  unfold execQueueDisable
  repeat' (first
    | with_reducible assumption | exact held_sub hH rfl | exact held_one hH rfl | exact fldOk rfl
    | with_reducible refine State.writeQCfg_kept ?_ ?_ | with_reducible refine iteO_kept ?_ ?_
    | with_reducible refine Kept.next ?_ | with_reducible intro _ | dsimp only | split)

theorem State.writeEvtRoute_kept {s : State} {fn : Nat} {k : Nat} {w : Word}
    (hH : ∀ x ∈ ([.egress, .armed, .block .jl, .block .svc] : List Portion), H x = false) (hk0 : Kept pk wq H z0 s) :
    Kept pk wq H z0 (State.writeEvtRoute s fn k w) := by
  unfold State.writeEvtRoute
  repeat' (first
    | with_reducible assumption | exact held_sub hH rfl | exact held_one hH rfl | exact fldOk rfl
    | with_reducible refine State.setFld_kept ?_ ?_ ?_ | with_reducible refine State.writeReg_kept ?_ ?_
    | with_reducible refine State.setArmed_kept ?_ ?_ | with_reducible refine State.armEvent_kept ?_ ?_
    | with_reducible refine ite_kept ?_ ?_ | with_reducible intro _ | dsimp only | split)

theorem execEventRouteWrite_kept {fn : Nat} {k : Nat} {w : Word} {s : State}
    (hH : ∀ x ∈ ([.egress, .armed, .block .jl, .block .svc] : List Portion), H x = false) (hk0 : Kept pk wq H z0 s) :
    Kept.Outcome pk wq H z0 (execEventRouteWrite fn k w s) := by
  unfold execEventRouteWrite
  repeat' (first
    | with_reducible assumption | exact held_sub hH rfl | exact held_one hH rfl | exact fldOk rfl
    | with_reducible refine State.writeEvtRoute_kept ?_ ?_ | with_reducible refine iteO_kept ?_ ?_
    | with_reducible refine Kept.next ?_ | with_reducible intro _ | dsimp only | split)

end Sys2Proof.Machine
end

