-- ==== Sys2Proof/Laws/KeptLead.lean ====
section
/-! SUPPORT. What the operations of Lead.lean keep. -/

namespace Sys2Proof.Machine
open Sys2Proof

variable {pk : Package} {wq : List Instr} {H : Portion → Bool} {z0 : State}

theorem State.modLead_kept {s : State} {f : Lead → Lead} (hH : ∀ x ∈ ([.lead] : List Portion), H x = false)
    (hk0 : Kept pk wq H z0 s) : Kept pk wq H z0 (State.modLead s f) := by
  have hLead : H .lead = false := held_one hH rfl
  unfold State.modLead
  repeat' (first
    | with_reducible assumption | simp only [Kept.frame_iff, hLead, and_self, true_or, or_true]
    | with_reducible intro _ | dsimp only | split)

theorem State.setLeader_kept {s : State} {west : Bool} {die : Nat}
    (hH : ∀ x ∈ ([.lead, .block .hbr] : List Portion), H x = false) (hk0 : Kept pk wq H z0 s) : Kept pk wq H z0
    (State.setLeader s west die) := by
  unfold State.setLeader
  repeat' (first
    | with_reducible assumption | exact held_sub hH rfl | exact held_one hH rfl | exact fldOk rfl
    | with_reducible refine State.setFld_kept ?_ ?_ ?_ | with_reducible refine State.modLead_kept ?_ ?_
    | with_reducible refine ite_kept ?_ ?_ | simp only [Kept.frame_iff, and_self, true_or, or_true]
    | with_reducible intro _ | dsimp only | split)

theorem State.setDieEpoch_kept {s : State} {die : Nat} {e : Nat} (hH : ∀ x ∈ ([.lead] : List Portion), H x = false)
    (hk0 : Kept pk wq H z0 s) : Kept pk wq H z0 (State.setDieEpoch s die e) := by
  unfold State.setDieEpoch
  repeat' (first
    | with_reducible assumption | exact held_sub hH rfl | exact held_one hH rfl | exact fldOk rfl
    | with_reducible refine State.modLead_kept ?_ ?_ | simp only [Kept.frame_iff, and_self, true_or, or_true]
    | with_reducible intro _ | dsimp only | split)

theorem State.distribute_kept {s : State} {west : Bool} {e : Nat}
    (hH : ∀ x ∈ ([.lead, .lanes] : List Portion), H x = false) (hk0 : Kept pk wq H z0 s) : Kept pk wq H z0
    (State.distribute s west e) := by
  unfold State.distribute
  repeat' (first
    | with_reducible assumption | exact held_sub hH rfl | exact held_one hH rfl | exact fldOk rfl
    | with_reducible refine State.straitOffer_kept ?_ ?_ | with_reducible refine State.setDieEpoch_kept ?_ ?_
    | with_reducible refine foldl_kept ?_ ?_ | with_reducible refine ite_kept ?_ ?_
    | with_reducible refine iteP_kept ?_ ?_ | with_reducible refine foldlP_kept ?_ ?_
    | with_reducible refine foldlP_kept' (by with_reducible assumption) ?_ ?_ | with_reducible intro _ | dsimp only
    | split)

theorem State.leadFree_kept {s : State} (hH : ∀ x ∈ ([.lead, .block .hbr] : List Portion), H x = false)
    (hk0 : Kept pk wq H z0 s) : Kept pk wq H z0 (State.leadFree s) := by
  unfold State.leadFree
  repeat' (first
    | with_reducible assumption | exact held_sub hH rfl | exact held_one hH rfl | exact fldOk rfl
    | with_reducible refine State.setFld_kept ?_ ?_ ?_ | with_reducible refine State.modLead_kept ?_ ?_
    | simp only [Kept.frame_iff, and_self, true_or, or_true] | with_reducible intro _ | dsimp only | split)

theorem State.leadRevoke_kept {s : State}
    (hH : ∀ x ∈ ([.egress, .lead, .lanes, .mctp, .armed, .block .jl, .block .hbr] : List Portion), H x = false)
    (hk0 : Kept pk wq H z0 s) : Kept pk wq H z0 (State.leadRevoke s) := by
  unfold State.leadRevoke
  repeat' (first
    | with_reducible assumption | exact held_sub hH rfl | exact held_one hH rfl | exact fldOk rfl
    | with_reducible refine State.satFld_kept ?_ ?_ ?_ | with_reducible refine State.hbrEvent_kept ?_ ?_ ?_ ?_
    | with_reducible refine State.distribute_kept ?_ ?_ | with_reducible refine State.leadFree_kept ?_ ?_
    | with_reducible refine ite_kept ?_ ?_ | with_reducible intro _ | dsimp only | split)

theorem State.leaderLost_kept {s : State} {die : Nat}
    (hH : ∀ x ∈ ([.egress, .lead, .lanes, .mctp, .armed, .block .jl, .block .hbr] : List Portion), H x = false)
    (hk0 : Kept pk wq H z0 s) : Kept pk wq H z0 (State.leaderLost s die) := by
  unfold State.leaderLost
  repeat' (first
    | with_reducible assumption | exact held_sub hH rfl | exact held_one hH rfl | exact fldOk rfl
    | with_reducible refine State.setLeader_kept ?_ ?_ | with_reducible refine State.leadRevoke_kept ?_ ?_
    | with_reducible refine ite_kept ?_ ?_ | with_reducible intro _ | dsimp only | split)

theorem execLeaderTakeover_kept {west : Bool} {s : State}
    (hH : ∀ x ∈ ([.lead, .block .hbr] : List Portion), H x = false) (hk0 : Kept pk wq H z0 s) : Kept.Outcome pk wq H
    z0 (execLeaderTakeover west s) := by
  unfold execLeaderTakeover
  repeat' (first
    | with_reducible assumption | exact held_sub hH rfl | exact held_one hH rfl | exact fldOk rfl
    | with_reducible refine State.setLeader_kept ?_ ?_ | with_reducible refine State.setDieEpoch_kept ?_ ?_
    | with_reducible refine ite_kept ?_ ?_ | with_reducible refine iteO_kept ?_ ?_
    | with_reducible refine Kept.next ?_ | with_reducible intro _ | dsimp only | split)

theorem State.rotateIssue_kept {s : State} {fn : Nat} (hH : ∀ x ∈ ([.actions, .lanes] : List Portion), H x = false)
    (hk0 : Kept pk wq H z0 s) : Kept pk wq H z0 (State.rotateIssue s fn) := by
  unfold State.rotateIssue
  repeat' (first
    | with_reducible assumption | exact held_sub hH rfl | exact held_one hH rfl | exact fldOk rfl
    | with_reducible refine State.issueAction_kept ?_ ?_ | with_reducible refine mapFst_kept ?_
    | with_reducible refine ite_kept ?_ ?_
    | with_reducible refine State.issueAction_kept' (by with_reducible assumption) ?_ ?_
    | simp only [Kept.frame_iff, and_self, true_or, or_true] | with_reducible intro _ | dsimp only | split)

theorem State.leadResume_kept {s : State} {west : Bool}
    (hH : ∀ x ∈ ([.fns, .optim, .actions, .lanes] : List Portion), H x = false) (hk0 : Kept pk wq H z0 s) : Kept pk wq
    H z0 (State.leadResume s west) := by
  unfold State.leadResume
  repeat' (first
    | with_reducible assumption | exact held_sub hH rfl | exact held_one hH rfl | exact fldOk rfl
    | with_reducible refine State.optRelease_kept ?_ ?_ | with_reducible refine State.rotateIssue_kept ?_ ?_
    | with_reducible refine foldl_kept ?_ ?_ | with_reducible refine ite_kept ?_ ?_
    | with_reducible refine iteP_kept ?_ ?_ | with_reducible refine foldlP_kept ?_ ?_
    | with_reducible refine foldlP_kept' (by with_reducible assumption) ?_ ?_ | with_reducible intro _ | dsimp only
    | split)

theorem execLeadRequest_kept {west : Bool} {s : State}
    (hH : ∀ x ∈ ([.fns, .optim, .lead, .actions, .lanes] : List Portion), H x = false) (hk0 : Kept pk wq H z0 s) :
    Kept.Outcome pk wq H z0 (execLeadRequest west s) := by
  unfold execLeadRequest
  repeat' (first
    | with_reducible assumption | exact held_sub hH rfl | exact held_one hH rfl | exact fldOk rfl
    | with_reducible refine State.straitOffer_kept ?_ ?_ | with_reducible refine State.modLead_kept ?_ ?_
    | with_reducible refine State.distribute_kept ?_ ?_ | with_reducible refine State.leadResume_kept ?_ ?_
    | with_reducible refine ite_kept ?_ ?_ | with_reducible refine iteO_kept ?_ ?_
    | simp only [Kept.frame_iff, and_self, true_or, or_true] | with_reducible refine Kept.next ?_
    | with_reducible intro _ | dsimp only | split)

theorem execLeadRelease_kept {s : State} (hH : ∀ x ∈ ([.lead, .lanes, .block .hbr] : List Portion), H x = false)
    (hk0 : Kept pk wq H z0 s) : Kept.Outcome pk wq H z0 (execLeadRelease s) := by
  unfold execLeadRelease
  repeat' (first
    | with_reducible assumption | exact held_sub hH rfl | exact held_one hH rfl | exact fldOk rfl
    | with_reducible refine State.straitOffer_kept ?_ ?_ | with_reducible refine State.distribute_kept ?_ ?_
    | with_reducible refine State.leadFree_kept ?_ ?_ | with_reducible refine ite_kept ?_ ?_
    | with_reducible refine iteO_kept ?_ ?_ | with_reducible refine Kept.next ?_ | with_reducible intro _ | dsimp only
    | split)

theorem execLeadHoldTimeout_kept {s : State}
    (hH : ∀ x ∈ ([.egress, .lead, .lanes, .mctp, .armed, .counts, .block .jl, .block .hbr] : List Portion), H x = false)
    (hk0 : Kept pk wq H z0 s) : Kept.Outcome pk wq H z0 (execLeadHoldTimeout s) := by
  unfold execLeadHoldTimeout
  repeat' (first
    | with_reducible assumption | exact held_sub hH rfl | exact held_one hH rfl | exact fldOk rfl
    | with_reducible refine State.reachCount_kept ?_ ?_ | with_reducible refine State.leadRevoke_kept ?_ ?_
    | with_reducible refine ite_kept ?_ ?_ | with_reducible refine iteO_kept ?_ ?_
    | with_reducible refine Kept.next ?_ | with_reducible intro _ | dsimp only | split)

theorem State.grantBegins_kept {s : State} {west : Bool}
    (hH : ∀ x ∈ ([.lead, .lanes, .block .hbr] : List Portion), H x = false) (hk0 : Kept pk wq H z0 s) : Kept pk wq H
    z0 (State.grantBegins s west) := by
  unfold State.grantBegins
  repeat' (first
    | with_reducible assumption | exact held_sub hH rfl | exact held_one hH rfl | exact fldOk rfl
    | with_reducible refine State.setFld_kept ?_ ?_ ?_ | with_reducible refine State.straitOffer_kept ?_ ?_
    | with_reducible refine State.modLead_kept ?_ ?_ | with_reducible refine foldl_kept ?_ ?_
    | with_reducible refine ite_kept ?_ ?_ | with_reducible refine iteP_kept ?_ ?_
    | with_reducible refine foldlP_kept ?_ ?_
    | with_reducible refine foldlP_kept' (by with_reducible assumption) ?_ ?_
    | simp only [Kept.frame_iff, and_self, true_or, or_true] | with_reducible intro _ | dsimp only | split)

theorem State.leadGranted_kept {s : State} {west : Bool}
    (hH : ∀ x ∈ ([.fns, .optim, .lead, .actions, .lanes, .block .hbr] : List Portion), H x = false)
    (hk0 : Kept pk wq H z0 s) : Kept pk wq H z0 (State.leadGranted s west) := by
  unfold State.leadGranted
  repeat' (first
    | with_reducible assumption | exact held_sub hH rfl | exact held_one hH rfl | exact fldOk rfl
    | with_reducible refine State.setFld_kept ?_ ?_ ?_ | with_reducible refine State.straitOffer_kept ?_ ?_
    | with_reducible refine State.modLead_kept ?_ ?_ | with_reducible refine State.distribute_kept ?_ ?_
    | with_reducible refine State.leadResume_kept ?_ ?_ | with_reducible refine ite_kept ?_ ?_
    | simp only [Kept.frame_iff, and_self, true_or, or_true] | with_reducible intro _ | dsimp only | split)

theorem State.grantDropped_kept {s : State} {west : Bool} (hH : ∀ x ∈ ([.lead] : List Portion), H x = false)
    (hk0 : Kept pk wq H z0 s) : Kept pk wq H z0 (State.grantDropped s west) := by
  unfold State.grantDropped
  repeat' (first
    | with_reducible assumption | exact held_sub hH rfl | exact held_one hH rfl | exact fldOk rfl
    | with_reducible refine State.modLead_kept ?_ ?_ | simp only [Kept.frame_iff, and_self, true_or, or_true]
    | with_reducible intro _ | dsimp only | split)

theorem execLeadGrant_kept {s : State}
    (hH : ∀ x ∈ ([.fns, .optim, .lead, .actions, .lanes, .counts, .block .hbr] : List Portion), H x = false)
    (hk0 : Kept pk wq H z0 s) : Kept.Outcome pk wq H z0 (execLeadGrant s) := by
  unfold execLeadGrant
  repeat' (first
    | with_reducible assumption | exact held_sub hH rfl | exact held_one hH rfl | exact fldOk rfl
    | with_reducible refine State.reachCount_kept ?_ ?_ | with_reducible refine State.grantBegins_kept ?_ ?_
    | with_reducible refine State.leadGranted_kept ?_ ?_ | with_reducible refine State.grantDropped_kept ?_ ?_
    | with_reducible refine ite_kept ?_ ?_ | with_reducible refine iteO_kept ?_ ?_
    | with_reducible refine Kept.next ?_ | with_reducible intro _ | dsimp only | split)

theorem State.actionLost_kept {s : State} {n : Nat} {a : Action}
    (hH : ∀ x ∈ ([.mem, .islets, .fns, .optim, .queues, .jobs, .reefs, .egress, .actions, .gov, .lanes, .mctp, .armed, .block .img, .block .isl, .block .mem, .block .pipe, .block .reef, .block .jl, .block .red, .block .opt, .block .svc, .block .hbr] : List Portion), H x = false)
    (hk0 : Kept pk wq H z0 s) : Kept pk wq H z0 (State.actionLost s n a) := by
  unfold State.actionLost
  repeat' (first
    | with_reducible assumption | exact held_sub hH rfl | exact held_one hH rfl | exact fldOk rfl
    | with_reducible refine State.satFld_kept ?_ ?_ ?_ | with_reducible refine State.modOpt_kept ?_ ?_
    | with_reducible refine State.optStop_kept ?_ ?_ | with_reducible refine State.modAction_kept ?_ ?_
    | with_reducible refine State.modLoad_kept ?_ ?_ | with_reducible refine State.loadEnd_kept ?_ ?_
    | with_reducible refine ite_kept ?_ ?_ | simp only [Kept.frame_iff, and_self, true_or, or_true]
    | with_reducible intro _ | dsimp only | split)

theorem State.actionGone_kept {s : State} {n : Nat} (hH : ∀ x ∈ ([.actions] : List Portion), H x = false)
    (hk0 : Kept pk wq H z0 s) : Kept pk wq H z0 (State.actionGone s n) := by
  unfold State.actionGone
  repeat' (first
    | with_reducible assumption | exact held_sub hH rfl | exact held_one hH rfl | exact fldOk rfl
    | with_reducible refine State.dropAction_kept ?_ ?_ | with_reducible refine ite_kept ?_ ?_
    | with_reducible intro _ | dsimp only | split)

theorem execGateActionArrive_kept {act : Nat} {gate : Nat} {s : State}
    (hH : ∀ x ∈ ([.actions, .lanes, .block .hbr] : List Portion), H x = false) (hk0 : Kept pk wq H z0 s) :
    Kept.Outcome pk wq H z0 (execGateActionArrive act gate s) := by
  unfold execGateActionArrive
  repeat' (first
    | with_reducible assumption | exact held_sub hH rfl | exact held_one hH rfl | exact fldOk rfl
    | with_reducible refine State.satFld_kept ?_ ?_ ?_ | with_reducible refine State.straitOffer_kept ?_ ?_
    | with_reducible refine State.modAction_kept ?_ ?_ | with_reducible refine ite_kept ?_ ?_
    | with_reducible refine iteO_kept ?_ ?_ | simp only [Kept.frame_iff, and_self, true_or, or_true]
    | with_reducible refine Kept.next ?_ | with_reducible exact Kept.refused | with_reducible intro _ | dsimp only
    | split)

theorem execGateResponse_kept {act : Nat} {s : State}
    (hH : ∀ x ∈ ([.mem, .islets, .fns, .optim, .queues, .jobs, .reefs, .egress, .actions, .gov, .lanes, .mctp, .armed, .block .img, .block .isl, .block .mem, .block .pipe, .block .reef, .block .jl, .block .red, .block .opt, .block .svc, .block .hbr] : List Portion), H x = false)
    (hk0 : Kept pk wq H z0 s) : Kept.Outcome pk wq H z0 (execGateResponse act s) := by
  unfold execGateResponse
  repeat' (first
    | with_reducible assumption | exact held_sub hH rfl | exact held_one hH rfl | exact fldOk rfl
    | with_reducible refine State.toGates_kept ?_ ?_ | with_reducible refine State.modAction_kept ?_ ?_
    | with_reducible refine State.actionLost_kept ?_ ?_ | with_reducible refine State.actionGone_kept ?_ ?_
    | with_reducible refine mapFst_kept ?_ | with_reducible refine ite_kept ?_ ?_
    | with_reducible refine iteO_kept ?_ ?_ | simp only [Kept.frame_iff, and_self, true_or, or_true]
    | with_reducible refine Kept.next ?_ | with_reducible exact Kept.refused | with_reducible intro _ | dsimp only
    | split)

theorem State.actionTakes_kept {s : State} {n : Nat} {a : Action}
    (hH : ∀ x ∈ ([.mem, .islets, .fns, .optim, .queues, .jobs, .reefs, .egress, .actions, .gov, .lanes, .mctp, .armed, .block .img, .block .isl, .block .mem, .block .pipe, .block .reef, .block .jl, .block .red, .block .opt, .block .svc, .block .hbr] : List Portion), H x = false)
    (hk0 : Kept pk wq H z0 s) : Kept pk wq H z0 (State.actionTakes s n a) := by
  unfold State.actionTakes
  repeat' (first
    | with_reducible assumption | exact held_sub hH rfl | exact held_one hH rfl | exact fldOk rfl
    | with_reducible refine State.modOpt_kept ?_ ?_ | with_reducible refine State.dropAction_kept ?_ ?_
    | with_reducible refine State.enterQuiesce_kept ?_ ?_ | with_reducible refine ite_kept ?_ ?_
    | simp only [Kept.frame_iff, and_self, true_or, or_true] | with_reducible intro _ | dsimp only | split)

theorem execGateTimeout_kept {act : Nat} {gate : Nat} {s : State}
    (hH : ∀ x ∈ ([.mem, .islets, .fns, .optim, .queues, .jobs, .reefs, .egress, .actions, .gov, .lanes, .mctp, .armed, .counts, .block .img, .block .isl, .block .mem, .block .pipe, .block .reef, .block .jl, .block .red, .block .opt, .block .svc, .block .hbr] : List Portion), H x = false)
    (hk0 : Kept pk wq H z0 s) : Kept.Outcome pk wq H z0 (execGateTimeout act gate s) := by
  unfold execGateTimeout
  repeat' (first
    | with_reducible assumption | exact held_sub hH rfl | exact held_one hH rfl | exact fldOk rfl
    | with_reducible refine State.reachCount_kept ?_ ?_ | with_reducible refine State.modAction_kept ?_ ?_
    | with_reducible refine State.actionLost_kept ?_ ?_ | with_reducible refine State.actionGone_kept ?_ ?_
    | with_reducible refine ite_kept ?_ ?_ | with_reducible refine iteO_kept ?_ ?_
    | simp only [Kept.frame_iff, and_self, true_or, or_true] | with_reducible refine Kept.next ?_
    | with_reducible intro _ | dsimp only | split)

theorem execGateDrop_kept {act : Nat} {gate : Nat} {s : State} (hH : ∀ x ∈ ([.actions] : List Portion), H x = false)
    (hk0 : Kept pk wq H z0 s) : Kept.Outcome pk wq H z0 (execGateDrop act gate s) := by
  unfold execGateDrop
  repeat' (first
    | with_reducible assumption | exact held_sub hH rfl | exact held_one hH rfl | exact fldOk rfl
    | with_reducible refine State.modAction_kept ?_ ?_ | with_reducible refine State.actionGone_kept ?_ ?_
    | with_reducible refine ite_kept ?_ ?_ | with_reducible refine iteO_kept ?_ ?_
    | simp only [Kept.frame_iff, and_self, true_or, or_true] | with_reducible refine Kept.next ?_
    | with_reducible intro _ | dsimp only | split)

theorem State.loadFaults_kept {s : State} {fn : Nat} {st : Status}
    (hH : ∀ x ∈ ([.mem, .islets, .fns, .optim, .queues, .jobs, .reefs, .egress, .actions, .lanes, .mctp, .armed, .block .img, .block .isl, .block .mem, .block .pipe, .block .reef, .block .jl, .block .red, .block .opt, .block .svc, .block .hbr] : List Portion), H x = false)
    (hk0 : Kept pk wq H z0 s) : Kept pk wq H z0 (State.loadFaults s fn st) := by
  unfold State.loadFaults
  repeat' (first
    | with_reducible assumption | exact held_sub hH rfl | exact held_one hH rfl | exact fldOk rfl
    | with_reducible refine State.loadEnd_kept ?_ ?_ | with_reducible refine ite_kept ?_ ?_ | with_reducible intro _
    | dsimp only | split)

theorem State.commandsEnd_kept {s : State} {fn : Nat} {st : Status}
    (hH : ∀ x ∈ ([.fns, .queues, .block .svc] : List Portion), H x = false) (hk0 : Kept pk wq H z0 s) : Kept pk wq H
    z0 (State.commandsEnd s fn st) := by
  unfold State.commandsEnd
  repeat' (first
    | with_reducible assumption | exact held_sub hH rfl | exact held_one hH rfl | exact fldOk rfl
    | with_reducible refine State.refuseCommand_kept ?_ ?_ | with_reducible refine foldl_kept ?_ ?_
    | with_reducible refine iteP_kept ?_ ?_ | with_reducible refine foldlP_kept ?_ ?_
    | with_reducible refine foldlP_kept' (by with_reducible assumption) ?_ ?_
    | simp only [Kept.frame_iff, and_self, true_or, or_true] | with_reducible intro _ | dsimp only | split)

theorem State.migForget_kept {s : State} {f : Nat} (hH : ∀ x ∈ ([.fns] : List Portion), H x = false)
    (hk0 : Kept pk wq H z0 s) : Kept pk wq H z0 (State.migForget s f) := by
  unfold State.migForget
  repeat' (first
    | with_reducible assumption | exact held_sub hH rfl | exact held_one hH rfl | exact fldOk rfl
    | exact .inl (fun _ => rfl) | exact .inr (held_one hH rfl)
    | exact .inl (fun x => by dsimp only; repeat' split <;> rfl) | with_reducible refine State.modFn_kept ?_ ?_ ?_
    | with_reducible refine mapFst_kept ?_ | simp only [Kept.frame_iff, and_self, true_or, or_true]
    | with_reducible intro _ | dsimp only | split)

theorem State.clusterStops_kept {s : State} {die : Nat}
    (hH : ∀ x ∈ ([.mem, .islets, .fns, .optim, .queues, .jobs, .reefs, .egress, .actions, .gov, .lanes, .mctp, .armed, .block .img, .block .isl, .block .mem, .block .pipe, .block .reef, .block .jl, .block .red, .block .opt, .block .svc, .block .hbr] : List Portion), H x = false)
    (hk0 : Kept pk wq H z0 s) : Kept pk wq H z0 (State.clusterStops s die) := by
  unfold State.clusterStops
  repeat' (first
    | with_reducible assumption | exact held_sub hH rfl | exact held_one hH rfl | exact fldOk rfl
    | with_reducible refine State.stopIslet_kept ?_ ?_ | with_reducible refine State.launchStop_kept ?_ ?_
    | with_reducible refine State.taskEnd_kept ?_ ?_ | with_reducible refine State.genKill_kept ?_ ?_
    | with_reducible refine State.stepFinish_kept ?_ ?_ | with_reducible refine State.stepKill_kept ?_ ?_
    | with_reducible refine State.servicesDoomed_kept ?_ ?_ | with_reducible refine State.loadFaults_kept ?_ ?_
    | with_reducible refine State.commandsEnd_kept ?_ ?_ | with_reducible refine State.migForget_kept ?_ ?_
    | with_reducible refine foldl_kept ?_ ?_ | with_reducible refine mapFst_kept ?_
    | with_reducible refine ite_kept ?_ ?_ | with_reducible refine iteP_kept ?_ ?_
    | with_reducible refine foldlP_kept ?_ ?_
    | with_reducible refine foldlP_kept' (by with_reducible assumption) ?_ ?_ | with_reducible intro _ | dsimp only
    | split)

theorem execControllerWatchdogWrite_kept {die : Nat} {core : Nat} {s : State}
    (hH : ∀ x ∈ ([.watchdogs] : List Portion), H x = false) (hk0 : Kept pk wq H z0 s) : Kept.Outcome pk wq H z0
    (execControllerWatchdogWrite die core s) := by
  have hWatchdogs : H .watchdogs = false := held_one hH rfl
  unfold execControllerWatchdogWrite
  repeat' (first
    | with_reducible assumption | with_reducible refine ite_kept ?_ ?_ | with_reducible refine iteO_kept ?_ ?_
    | simp only [Kept.frame_iff, hWatchdogs, and_self, true_or, or_true] | with_reducible refine Kept.next ?_
    | with_reducible intro _ | dsimp only | split)

theorem State.clusterRestarts_kept {s : State} {die : Nat}
    (hH : ∀ x ∈ ([.mem, .islets, .fns, .optim, .queues, .jobs, .reefs, .egress, .lead, .actions, .gov, .lanes, .mctp, .armed, .block .img, .block .isl, .block .mem, .block .pipe, .block .reef, .block .jl, .block .red, .block .opt, .block .svc, .block .hbr] : List Portion), H x = false)
    (hk0 : Kept pk wq H z0 s) : Kept pk wq H z0 (State.clusterRestarts s die) := by
  unfold State.clusterRestarts
  repeat' (first
    | with_reducible assumption | exact held_sub hH rfl | exact held_one hH rfl | exact fldOk rfl
    | with_reducible refine State.setFld_kept ?_ ?_ ?_ | with_reducible refine State.satFld_kept ?_ ?_ ?_
    | with_reducible refine State.fnEvent_kept ?_ ?_ ?_ ?_ | with_reducible refine State.hbrEvent_kept ?_ ?_ ?_ ?_
    | with_reducible refine State.journal_kept ?_ ?_ | with_reducible refine State.setDieEpoch_kept ?_ ?_
    | with_reducible refine State.leaderLost_kept ?_ ?_ | with_reducible refine State.clusterStops_kept ?_ ?_
    | with_reducible refine foldl_kept ?_ ?_ | with_reducible refine ite_kept ?_ ?_
    | with_reducible refine iteP_kept ?_ ?_ | with_reducible refine foldlP_kept ?_ ?_
    | with_reducible refine foldlP_kept' (by with_reducible assumption) ?_ ?_
    | simp only [Kept.frame_iff, and_self, true_or, or_true] | with_reducible intro _ | dsimp only | split)

theorem execControllerRestart_kept {die : Nat} {s : State}
    (hH : ∀ x ∈ ([.mem, .islets, .fns, .optim, .queues, .jobs, .reefs, .egress, .lead, .actions, .gov, .lanes, .mctp, .armed, .counts, .block .img, .block .isl, .block .mem, .block .pipe, .block .reef, .block .jl, .block .red, .block .opt, .block .svc, .block .hbr] : List Portion), H x = false)
    (hk0 : Kept pk wq H z0 s) : Kept.Outcome pk wq H z0 (execControllerRestart die s) := by
  unfold execControllerRestart
  repeat' (first
    | with_reducible assumption | exact held_sub hH rfl | exact held_one hH rfl | exact fldOk rfl
    | with_reducible refine State.reachCount_kept ?_ ?_ | with_reducible refine State.clusterRestarts_kept ?_ ?_
    | with_reducible refine foldl_kept ?_ ?_ | with_reducible refine mapFst_kept ?_
    | with_reducible refine ite_kept ?_ ?_ | with_reducible refine iteP_kept ?_ ?_
    | with_reducible refine iteO_kept ?_ ?_ | with_reducible refine foldlP_kept ?_ ?_
    | with_reducible refine foldlP_kept' (by with_reducible assumption) ?_ ?_ | with_reducible refine Kept.next ?_
    | with_reducible intro _ | dsimp only | split)

theorem execControllerRestartDone_kept {die : Nat} {s : State}
    (hH : ∀ x ∈ ([.watchdogs, .block .svc] : List Portion), H x = false) (hk0 : Kept pk wq H z0 s) : Kept.Outcome pk
    wq H z0 (execControllerRestartDone die s) := by
  have hWatchdogs : H .watchdogs = false := held_one hH rfl
  unfold execControllerRestartDone
  repeat' (first
    | with_reducible assumption | exact held_sub hH rfl | exact held_one hH rfl | exact fldOk rfl
    | with_reducible refine State.setFld_kept ?_ ?_ ?_ | with_reducible refine foldl_kept ?_ ?_
    | with_reducible refine ite_kept ?_ ?_ | with_reducible refine iteP_kept ?_ ?_
    | with_reducible refine iteO_kept ?_ ?_ | with_reducible refine foldlP_kept ?_ ?_
    | with_reducible refine foldlP_kept' (by with_reducible assumption) ?_ ?_
    | simp only [Kept.frame_iff, hWatchdogs, and_self, true_or, or_true] | with_reducible refine Kept.next ?_
    | with_reducible intro _ | dsimp only | split)

end Sys2Proof.Machine
end

