-- ==== Sys2Proof/Laws/KeptGovernor.lean ====
section
/-! SUPPORT. What the operations of Governor.lean keep. -/

namespace Sys2Proof.Machine
open Sys2Proof

variable {pk : Package} {wq : List Instr} {H : Portion → Bool} {z0 : State}

theorem State.modGov_kept {s : State} {f : Gov → Gov} (hH : ∀ x ∈ ([.gov] : List Portion), H x = false)
    (hk0 : Kept pk wq H z0 s) : Kept pk wq H z0 (State.modGov s f) := by
  have hGov : H .gov = false := held_one hH rfl
  unfold State.modGov
  repeat' (first
    | with_reducible assumption | simp only [Kept.frame_iff, hGov, and_self, true_or, or_true]
    | with_reducible intro _ | dsimp only | split)

theorem State.charge_kept {s : State} {die : Nat} {amount : Nat} {counts : Nat}
    (hH : ∀ x ∈ ([.gov] : List Portion), H x = false) (hk0 : Kept pk wq H z0 s) : Kept pk wq H z0
    (State.charge s die amount counts) := by
  unfold State.charge
  repeat' (first
    | with_reducible assumption | exact held_sub hH rfl | exact held_one hH rfl | exact fldOk rfl
    | with_reducible refine State.modGov_kept ?_ ?_ | simp only [Kept.frame_iff, and_self, true_or, or_true]
    | with_reducible intro _ | dsimp only | split)

theorem State.setLimits_kept {s : State} {west : Bool} {n : Nat}
    (hH : ∀ x ∈ ([.block .reef] : List Portion), H x = false) (hk0 : Kept pk wq H z0 s) : Kept pk wq H z0
    (State.setLimits s west n) := by
  unfold State.setLimits
  repeat' (first
    | with_reducible assumption | exact held_sub hH rfl | exact held_one hH rfl | exact fldOk rfl
    | with_reducible refine State.setFld_kept ?_ ?_ ?_ | with_reducible refine foldl_kept ?_ ?_
    | with_reducible refine iteP_kept ?_ ?_ | with_reducible refine foldlP_kept ?_ ?_
    | with_reducible refine foldlP_kept' (by with_reducible assumption) ?_ ?_ | with_reducible intro _ | dsimp only
    | split)

theorem State.limitRaise_kept {s : State} {west : Bool} (hH : ∀ x ∈ ([.block .reef] : List Portion), H x = false)
    (hk0 : Kept pk wq H z0 s) : Kept pk wq H z0 (State.limitRaise s west) := by
  unfold State.limitRaise
  repeat' (first
    | with_reducible assumption | exact held_sub hH rfl | exact held_one hH rfl | exact fldOk rfl
    | with_reducible refine State.setFld_kept ?_ ?_ ?_ | with_reducible refine foldl_kept ?_ ?_
    | with_reducible refine ite_kept ?_ ?_ | with_reducible refine iteP_kept ?_ ?_
    | with_reducible refine foldlP_kept ?_ ?_
    | with_reducible refine foldlP_kept' (by with_reducible assumption) ?_ ?_ | with_reducible intro _ | dsimp only
    | split)

theorem State.limitDrop_kept {s : State} {west : Bool} (hH : ∀ x ∈ ([.block .reef] : List Portion), H x = false)
    (hk0 : Kept pk wq H z0 s) : Kept pk wq H z0 (State.limitDrop s west).1 := by
  unfold State.limitDrop
  repeat' (first
    | with_reducible assumption | exact held_sub hH rfl | exact held_one hH rfl | exact fldOk rfl
    | with_reducible refine State.setLimits_kept ?_ ?_ | with_reducible refine ite_kept ?_ ?_
    | with_reducible refine iteP_kept ?_ ?_ | with_reducible intro _ | dsimp only | split)
theorem State.limitDrop_kept' {s : State} {west : Bool} {t z} (e : State.limitDrop s west = (t, z))
    (hH : ∀ x ∈ ([.block .reef] : List Portion), H x = false) (hk0 : Kept pk wq H z0 s) : Kept pk wq H z0 t := by
  have k : Kept pk wq H z0 (State.limitDrop s west).1 := State.limitDrop_kept hH hk0
  rw [e] at k; exact k

theorem State.driveCode_kept {s : State} {die : Nat} {p : Nat} (hH : ∀ x ∈ ([.pins] : List Portion), H x = false)
    (hk0 : Kept pk wq H z0 s) : Kept pk wq H z0 (State.driveCode s die p) := by
  have hPins : H .pins = false := held_one hH rfl
  unfold State.driveCode
  repeat' (first
    | with_reducible assumption | simp only [Kept.frame_iff, hPins, and_self, true_or, or_true]
    | with_reducible intro _ | dsimp only | split)

theorem State.setChange_kept {s : State} {die : Nat} {p : Nat} {phase : Nat}
    (hH : ∀ x ∈ ([.gov] : List Portion), H x = false) (hk0 : Kept pk wq H z0 s) : Kept pk wq H z0
    (State.setChange s die p phase) := by
  unfold State.setChange
  repeat' (first
    | with_reducible assumption | exact held_sub hH rfl | exact held_one hH rfl | exact fldOk rfl
    | with_reducible refine State.modGov_kept ?_ ?_ | simp only [Kept.frame_iff, and_self, true_or, or_true]
    | with_reducible intro _ | dsimp only | split)

theorem State.relock_kept {s : State} {die : Nat} {p : Nat}
    (hH : ∀ x ∈ ([.gov, .block .str] : List Portion), H x = false) (hk0 : Kept pk wq H z0 s) : Kept pk wq H z0
    (State.relock s die p) := by
  unfold State.relock
  repeat' (first
    | with_reducible assumption | exact held_sub hH rfl | exact held_one hH rfl | exact fldOk rfl
    | with_reducible refine State.setFld_kept ?_ ?_ ?_ | with_reducible refine State.setChange_kept ?_ ?_
    | with_reducible intro _ | dsimp only | split)

theorem State.lower_kept {s : State} {die : Nat} {p : Nat}
    (hH : ∀ x ∈ ([.gov, .block .str] : List Portion), H x = false) (hk0 : Kept pk wq H z0 s) : Kept pk wq H z0
    (State.lower s die p) := by
  unfold State.lower
  repeat' (first
    | with_reducible assumption | exact held_sub hH rfl | exact held_one hH rfl | exact fldOk rfl
    | with_reducible refine State.modGov_kept ?_ ?_ | with_reducible refine State.relock_kept ?_ ?_
    | with_reducible refine ite_kept ?_ ?_ | simp only [Kept.frame_iff, and_self, true_or, or_true]
    | with_reducible intro _ | dsimp only | split)

theorem State.govServe_kept {n : Nat} {s : State} {die : Nat}
    (hH : ∀ x ∈ ([.islets, .gov, .pins, .block .isl, .block .reef, .block .hbr] : List Portion), H x = false)
    (h : Kept pk wq H z0 s) :
    Kept pk wq H z0 (State.govServe n s die) := by
  induction n generalizing s with
  | zero => exact h | succ n ih =>
    rw [State.govServe]
    repeat' (first
      | with_reducible assumption | with_reducible refine ih ?_
      | with_reducible refine State.modGov_kept (held_sub hH rfl) ?_
      | with_reducible refine State.govStat_kept (held_sub hH rfl) ?_
      | with_reducible refine State.charge_kept (held_sub hH rfl) ?_
      | with_reducible refine State.addFld_kept (fldOk rfl) (held_one hH rfl) ?_
      | with_reducible refine State.mxWoken_kept (held_sub hH rfl) ?_
      | with_reducible refine State.setChange_kept (held_sub hH rfl) ?_
      | with_reducible refine State.driveCode_kept (held_sub hH rfl) ?_
      | with_reducible refine State.limitDrop_kept' (by with_reducible assumption) (held_sub hH rfl) ?_
      | with_reducible refine foldl_kept ?_ ?_ | with_reducible refine getD_kept ?_ ?_
      | with_reducible refine ite_kept ?_ ?_ | with_reducible refine iteP_kept ?_ ?_
      | with_reducible refine iteO_kept ?_ ?_ | simp only [Kept.frame_iff, and_self, true_or, or_true]
      | with_reducible refine Kept.next ?_ | with_reducible exact Kept.fault | with_reducible exact Kept.refused
      | with_reducible intro _ | dsimp only | split)

theorem State.govExamine_kept {s : State} {die : Nat}
    (hH : ∀ x ∈ ([.islets, .gov, .pins, .block .isl, .block .reef, .block .hbr] : List Portion), H x = false)
    (hk0 : Kept pk wq H z0 s) : Kept pk wq H z0 (State.govExamine s die) := by
  unfold State.govExamine
  repeat' (first
    | with_reducible assumption | exact held_sub hH rfl | exact held_one hH rfl | exact fldOk rfl
    | with_reducible refine State.govServe_kept ?_ ?_ | with_reducible intro _ | dsimp only | split)

theorem State.govPush_kept {s : State} {die : Nat} {r : GovReq}
    (hH : ∀ x ∈ ([.islets, .gov, .pins, .block .isl, .block .reef, .block .hbr] : List Portion), H x = false)
    (hk0 : Kept pk wq H z0 s) : Kept pk wq H z0 (State.govPush s die r) := by
  unfold State.govPush
  repeat' (first
    | with_reducible assumption | exact held_sub hH rfl | exact held_one hH rfl | exact fldOk rfl
    | with_reducible refine State.govStat_kept ?_ ?_ | with_reducible refine State.modGov_kept ?_ ?_
    | with_reducible refine State.govExamine_kept ?_ ?_ | simp only [Kept.frame_iff, and_self, true_or, or_true]
    | with_reducible intro _ | dsimp only | split)

theorem execWakeRequest_kept {islet : Nat} {s : State}
    (hH : ∀ x ∈ ([.islets, .gov, .lanes, .pins, .block .isl, .block .reef, .block .hbr] : List Portion), H x = false)
    (hk0 : Kept pk wq H z0 s) : Kept.Outcome pk wq H z0 (execWakeRequest islet s) := by
  unfold execWakeRequest
  repeat' (first
    | with_reducible assumption | exact held_sub hH rfl | exact held_one hH rfl | exact fldOk rfl
    | with_reducible refine State.straitOffer_kept ?_ ?_ | with_reducible refine State.govPush_kept ?_ ?_
    | with_reducible refine ite_kept ?_ ?_ | with_reducible refine iteO_kept ?_ ?_
    | with_reducible refine Kept.next ?_ | with_reducible intro _ | dsimp only | split)

theorem State.dvfsRequest_kept {s : State} {die : Nat} {point : Nat}
    (hH : ∀ x ∈ ([.islets, .gov, .pins, .block .str, .block .isl, .block .reef, .block .hbr] : List Portion), H x = false)
    (hk0 : Kept pk wq H z0 s) : Kept pk wq H z0 (State.dvfsRequest s die point) := by
  unfold State.dvfsRequest
  repeat' (first
    | with_reducible assumption | exact held_sub hH rfl | exact held_one hH rfl | exact fldOk rfl
    | with_reducible refine State.lower_kept ?_ ?_ | with_reducible refine State.govPush_kept ?_ ?_
    | with_reducible refine ite_kept ?_ ?_ | with_reducible intro _ | dsimp only | split)

theorem execDvfsRequest_kept {die : Nat} {point : Nat} {s : State}
    (hH : ∀ x ∈ ([.islets, .actions, .gov, .lanes, .pins, .block .str, .block .isl, .block .reef, .block .hbr] : List Portion), H x = false)
    (hk0 : Kept pk wq H z0 s) : Kept.Outcome pk wq H z0 (execDvfsRequest die point s) := by
  unfold execDvfsRequest
  repeat' (first
    | with_reducible assumption | exact held_sub hH rfl | exact held_one hH rfl | exact fldOk rfl
    | with_reducible refine State.straitOffer_kept ?_ ?_ | with_reducible refine State.issueAction_kept ?_ ?_
    | with_reducible refine State.dvfsRequest_kept ?_ ?_ | with_reducible refine ite_kept ?_ ?_
    | with_reducible refine iteO_kept ?_ ?_
    | with_reducible refine State.issueAction_kept' (by with_reducible assumption) ?_ ?_
    | with_reducible refine Kept.next ?_ | with_reducible intro _ | dsimp only | split)

theorem execGovWindowStart_kept {s : State}
    (hH : ∀ x ∈ ([.islets, .gov, .pins, .counts, .block .isl, .block .reef, .block .hbr] : List Portion), H x = false)
    (hk0 : Kept pk wq H z0 s) : Kept.Outcome pk wq H z0 (execGovWindowStart s) := by
  unfold execGovWindowStart
  repeat' (first
    | with_reducible assumption | exact held_sub hH rfl | exact held_one hH rfl | exact fldOk rfl
    | with_reducible refine State.setCount_kept ?_ ?_ | with_reducible refine State.modGov_kept ?_ ?_
    | with_reducible refine State.limitRaise_kept ?_ ?_ | with_reducible refine State.govExamine_kept ?_ ?_
    | with_reducible refine foldl_kept ?_ ?_ | with_reducible refine ite_kept ?_ ?_
    | with_reducible refine iteP_kept ?_ ?_ | with_reducible refine iteO_kept ?_ ?_
    | with_reducible refine foldlP_kept ?_ ?_
    | with_reducible refine foldlP_kept' (by with_reducible assumption) ?_ ?_
    | simp only [Kept.frame_iff, and_self, true_or, or_true] | with_reducible refine Kept.next ?_
    | with_reducible intro _ | dsimp only | split)

theorem execChargeEnd_kept {die : Nat} {s : State}
    (hH : ∀ x ∈ ([.islets, .gov, .pins, .counts, .block .isl, .block .reef, .block .hbr] : List Portion), H x = false)
    (hk0 : Kept pk wq H z0 s) : Kept.Outcome pk wq H z0 (execChargeEnd die s) := by
  unfold execChargeEnd
  repeat' (first
    | with_reducible assumption | exact held_sub hH rfl | exact held_one hH rfl | exact fldOk rfl
    | with_reducible refine State.reachCount_kept ?_ ?_ | with_reducible refine State.modGov_kept ?_ ?_
    | with_reducible refine State.govExamine_kept ?_ ?_ | with_reducible refine foldl_kept ?_ ?_
    | with_reducible refine mapFst_kept ?_ | with_reducible refine iteP_kept ?_ ?_
    | with_reducible refine iteO_kept ?_ ?_ | with_reducible refine foldlP_kept ?_ ?_
    | with_reducible refine foldlP_kept' (by with_reducible assumption) ?_ ?_
    | simp only [Kept.frame_iff, and_self, true_or, or_true] | with_reducible refine Kept.next ?_
    | with_reducible intro _ | dsimp only | split)

theorem State.writeGovCfg_kept {s : State} {fn : Nat} {w : Word}
    (hH : ∀ x ∈ ([.block .reef, .block .hbr] : List Portion), H x = false) (hk0 : Kept pk wq H z0 s) : Kept pk wq H z0
    (State.writeGovCfg s fn w) := by
  unfold State.writeGovCfg
  repeat' (first
    | with_reducible assumption | exact held_sub hH rfl | exact held_one hH rfl | exact fldOk rfl
    | with_reducible refine State.setFld_kept ?_ ?_ ?_ | with_reducible refine State.writeReg_kept ?_ ?_
    | with_reducible refine foldl_kept ?_ ?_ | with_reducible refine ite_kept ?_ ?_
    | with_reducible refine iteP_kept ?_ ?_ | with_reducible refine foldlP_kept ?_ ?_
    | with_reducible refine foldlP_kept' (by with_reducible assumption) ?_ ?_ | with_reducible intro _ | dsimp only
    | split)

theorem execGovCfgWrite_kept {fn : Nat} {w : Word} {s : State}
    (hH : ∀ x ∈ ([.block .reef, .block .hbr] : List Portion), H x = false) (hk0 : Kept pk wq H z0 s) : Kept.Outcome pk
    wq H z0 (execGovCfgWrite fn w s) := by
  unfold execGovCfgWrite
  repeat' (first
    | with_reducible assumption | exact held_sub hH rfl | exact held_one hH rfl | exact fldOk rfl
    | with_reducible refine State.writeGovCfg_kept ?_ ?_ | with_reducible refine iteO_kept ?_ ?_
    | with_reducible refine Kept.next ?_ | with_reducible intro _ | dsimp only | split)

theorem execDvfsVoltageSettled_kept {die : Nat} {s : State}
    (hH : ∀ x ∈ ([.gov, .block .str] : List Portion), H x = false) (hk0 : Kept pk wq H z0 s) : Kept.Outcome pk wq H z0
    (execDvfsVoltageSettled die s) := by
  unfold execDvfsVoltageSettled
  repeat' (first
    | with_reducible assumption | exact held_sub hH rfl | exact held_one hH rfl | exact fldOk rfl
    | with_reducible refine State.relock_kept ?_ ?_ | with_reducible refine iteO_kept ?_ ?_
    | with_reducible refine Kept.next ?_ | with_reducible intro _ | dsimp only | split)

theorem State.lowersNext_kept {s : State} {die : Nat} (hH : ∀ x ∈ ([.gov, .block .str] : List Portion), H x = false)
    (hk0 : Kept pk wq H z0 s) : Kept pk wq H z0 (State.lowersNext s die) := by
  unfold State.lowersNext
  repeat' (first
    | with_reducible assumption | exact held_sub hH rfl | exact held_one hH rfl | exact fldOk rfl
    | with_reducible refine State.modGov_kept ?_ ?_ | with_reducible refine State.relock_kept ?_ ?_
    | with_reducible refine ite_kept ?_ ?_ | simp only [Kept.frame_iff, and_self, true_or, or_true]
    | with_reducible intro _ | dsimp only | split)

theorem execPllRelockDone_kept {island : Nat} {s : State}
    (hH : ∀ x ∈ ([.islets, .gov, .lanes, .pins, .block .str, .block .img] : List Portion), H x = false)
    (hk0 : Kept pk wq H z0 s) : Kept.Outcome pk wq H z0 (execPllRelockDone island s) := by
  unfold execPllRelockDone
  repeat' (first
    | with_reducible assumption | exact held_sub hH rfl | exact held_one hH rfl | exact fldOk rfl
    | with_reducible refine State.setFld_kept ?_ ?_ ?_ | with_reducible refine State.dieTakes_kept ?_ ?_
    | with_reducible refine State.modGov_kept ?_ ?_ | with_reducible refine State.driveCode_kept ?_ ?_
    | with_reducible refine State.lowersNext_kept ?_ ?_ | with_reducible refine ite_kept ?_ ?_
    | with_reducible refine iteO_kept ?_ ?_
    | with_reducible refine Kept.out (State.dieTakes_kept ?_ ?_) (by with_reducible assumption)
    | simp only [Kept.frame_iff, and_self, true_or, or_true] | with_reducible refine Kept.next ?_
    | with_reducible intro _ | dsimp only | split)

theorem State.thermalTrip_kept {s : State}
    (hH : ∀ x ∈ ([.mem, .islets, .fns, .optim, .queues, .jobs, .reefs, .ports, .egress, .actions, .gov, .lanes, .pins, .mctp, .armed, .block .img, .block .isl, .block .mem, .block .pipe, .block .reef, .block .jl, .block .red, .block .opt, .block .svc, .block .hbr] : List Portion), H x = false)
    (hk0 : Kept pk wq H z0 s) : Kept pk wq H z0 (State.thermalTrip s) := by
  have hPins : H .pins = false := held_one hH rfl
  unfold State.thermalTrip
  repeat' (first
    | with_reducible assumption | exact held_sub hH rfl | exact held_one hH rfl | exact fldOk rfl
    | with_reducible refine State.portsStop_kept ?_ ?_ | simp only [Kept.frame_iff, hPins, and_self, true_or, or_true]
    | with_reducible intro _ | dsimp only | split)

theorem State.capCheck_kept {s : State} {die : Nat} (hH : ∀ x ∈ ([.gov] : List Portion), H x = false)
    (hk0 : Kept pk wq H z0 s) : Kept pk wq H z0 (State.capCheck s die) := by
  unfold State.capCheck
  repeat' (first
    | with_reducible assumption | exact held_sub hH rfl | exact held_one hH rfl | exact fldOk rfl
    | with_reducible refine State.modGov_kept ?_ ?_ | with_reducible refine ite_kept ?_ ?_
    | simp only [Kept.frame_iff, and_self, true_or, or_true] | with_reducible intro _ | dsimp only | split)

theorem State.tempTraffic_kept {s : State} {n : Nat} (hH : ∀ x ∈ ([.lanes] : List Portion), H x = false)
    (hk0 : Kept pk wq H z0 s) : Kept pk wq H z0 (State.tempTraffic s n) := by
  unfold State.tempTraffic
  repeat' (first
    | with_reducible assumption | exact held_sub hH rfl | exact held_one hH rfl | exact fldOk rfl
    | with_reducible refine State.straitOffer_kept ?_ ?_ | with_reducible refine foldl_kept ?_ ?_
    | with_reducible refine iteP_kept ?_ ?_ | with_reducible refine foldlP_kept ?_ ?_
    | with_reducible refine foldlP_kept' (by with_reducible assumption) ?_ ?_ | with_reducible intro _ | dsimp only
    | split)

theorem State.writeTemps_kept {s : State} {temps : List Nat} (hH : ∀ x ∈ ([.block .hbr] : List Portion), H x = false)
    (hk0 : Kept pk wq H z0 s) : Kept pk wq H z0 (State.writeTemps s temps) := by
  unfold State.writeTemps
  repeat' (first
    | with_reducible assumption | exact held_sub hH rfl | exact held_one hH rfl | exact fldOk rfl
    | with_reducible refine State.setFld_kept ?_ ?_ ?_ | with_reducible refine foldl_kept ?_ ?_
    | with_reducible refine ite_kept ?_ ?_ | with_reducible refine iteP_kept ?_ ?_
    | with_reducible refine foldlP_kept ?_ ?_
    | with_reducible refine foldlP_kept' (by with_reducible assumption) ?_ ?_ | with_reducible intro _ | dsimp only
    | split)

theorem State.writeDram_kept {s : State} {dram : List Nat} (hH : ∀ x ∈ ([.block .mem] : List Portion), H x = false)
    (hk0 : Kept pk wq H z0 s) : Kept pk wq H z0 (State.writeDram s dram) := by
  unfold State.writeDram
  repeat' (first
    | with_reducible assumption | exact held_sub hH rfl | exact held_one hH rfl | exact fldOk rfl
    | with_reducible refine State.setFld_kept ?_ ?_ ?_ | with_reducible refine foldl_kept ?_ ?_
    | with_reducible refine ite_kept ?_ ?_ | with_reducible refine iteP_kept ?_ ?_
    | with_reducible refine foldlP_kept ?_ ?_
    | with_reducible refine foldlP_kept' (by with_reducible assumption) ?_ ?_ | with_reducible intro _ | dsimp only
    | split)

theorem State.crossings_kept {s : State} {old : State}
    (hH : ∀ x ∈ ([.egress, .mctp, .armed, .block .jl, .block .hbr] : List Portion), H x = false)
    (hk0 : Kept pk wq H z0 s) : Kept pk wq H z0 (State.crossings s old) := by
  unfold State.crossings
  repeat' (first
    | with_reducible assumption | exact held_sub hH rfl | exact held_one hH rfl | exact fldOk rfl
    | with_reducible refine State.pldmSend_kept ?_ ?_ | with_reducible refine foldl_kept ?_ ?_
    | with_reducible refine ite_kept ?_ ?_ | with_reducible refine iteP_kept ?_ ?_
    | with_reducible refine foldlP_kept ?_ ?_
    | with_reducible refine foldlP_kept' (by with_reducible assumption) ?_ ?_ | with_reducible intro _ | dsimp only
    | split)

theorem execTempSample_kept {temps : List Nat} {dram : List Nat} {s : State}
    (hH : ∀ x ∈ ([.mem, .islets, .fns, .optim, .queues, .jobs, .reefs, .ports, .egress, .actions, .gov, .lanes, .pins, .mctp, .armed, .block .img, .block .isl, .block .mem, .block .pipe, .block .reef, .block .jl, .block .red, .block .opt, .block .svc, .block .hbr] : List Portion), H x = false)
    (hk0 : Kept pk wq H z0 s) : Kept.Outcome pk wq H z0 (execTempSample temps dram s) := by
  unfold execTempSample
  repeat' (first
    | with_reducible assumption | exact held_sub hH rfl | exact held_one hH rfl | exact fldOk rfl
    | with_reducible refine State.thermalTrip_kept ?_ ?_ | with_reducible refine State.capCheck_kept ?_ ?_
    | with_reducible refine State.tempTraffic_kept ?_ ?_ | with_reducible refine State.writeTemps_kept ?_ ?_
    | with_reducible refine State.writeDram_kept ?_ ?_ | with_reducible refine State.crossings_kept ?_ ?_
    | with_reducible refine foldl_kept ?_ ?_ | with_reducible refine ite_kept ?_ ?_
    | with_reducible refine iteP_kept ?_ ?_ | with_reducible refine iteO_kept ?_ ?_
    | with_reducible refine foldlP_kept ?_ ?_
    | with_reducible refine foldlP_kept' (by with_reducible assumption) ?_ ?_ | with_reducible refine Kept.next ?_
    | with_reducible intro _ | dsimp only | split)

theorem execThermalCapStep_kept {die : Nat} {s : State}
    (hH : ∀ x ∈ ([.egress, .gov, .mctp, .armed, .counts, .block .str, .block .jl, .block .hbr] : List Portion), H x = false)
    (hk0 : Kept pk wq H z0 s) : Kept.Outcome pk wq H z0 (execThermalCapStep die s) := by
  unfold execThermalCapStep
  repeat' (first
    | with_reducible assumption | exact held_sub hH rfl | exact held_one hH rfl | exact fldOk rfl
    | with_reducible refine State.setFld_kept ?_ ?_ ?_ | with_reducible refine State.reachCount_kept ?_ ?_
    | with_reducible refine State.hbrEvent_kept ?_ ?_ ?_ ?_ | with_reducible refine State.journal_kept ?_ ?_
    | with_reducible refine State.modGov_kept ?_ ?_ | with_reducible refine State.lower_kept ?_ ?_
    | with_reducible refine ite_kept ?_ ?_ | with_reducible refine iteO_kept ?_ ?_
    | simp only [Kept.frame_iff, and_self, true_or, or_true] | with_reducible refine Kept.next ?_
    | with_reducible intro _ | dsimp only | split)

theorem State.actionReleased_kept {s : State} {n : Nat} {a : Action}
    (hH : ∀ x ∈ ([.mem, .islets, .fns, .optim, .queues, .jobs, .reefs, .egress, .actions, .gov, .lanes, .pins, .mctp, .armed, .block .str, .block .img, .block .isl, .block .mem, .block .pipe, .block .reef, .block .jl, .block .red, .block .opt, .block .svc, .block .hbr] : List Portion), H x = false)
    (hk0 : Kept pk wq H z0 s) : Kept pk wq H z0 (State.actionReleased s n a) := by
  unfold State.actionReleased
  repeat' (first
    | with_reducible assumption | exact held_sub hH rfl | exact held_one hH rfl | exact fldOk rfl
    | with_reducible refine State.dropAction_kept ?_ ?_ | with_reducible refine State.actionTakes_kept ?_ ?_
    | with_reducible refine State.dvfsRequest_kept ?_ ?_ | with_reducible refine foldl_kept ?_ ?_
    | with_reducible refine iteP_kept ?_ ?_ | with_reducible refine foldlP_kept ?_ ?_
    | with_reducible refine foldlP_kept' (by with_reducible assumption) ?_ ?_ | with_reducible intro _ | dsimp only
    | split)

theorem execGateGo_kept {act : Nat} {gate : Nat} {s : State}
    (hH : ∀ x ∈ ([.mem, .islets, .fns, .optim, .queues, .jobs, .reefs, .egress, .actions, .gov, .lanes, .pins, .mctp, .armed, .block .str, .block .img, .block .isl, .block .mem, .block .pipe, .block .reef, .block .jl, .block .red, .block .opt, .block .svc, .block .hbr] : List Portion), H x = false)
    (hk0 : Kept pk wq H z0 s) : Kept.Outcome pk wq H z0 (execGateGo act gate s) := by
  unfold execGateGo
  repeat' (first
    | with_reducible assumption | exact held_sub hH rfl | exact held_one hH rfl | exact fldOk rfl
    | with_reducible refine State.modAction_kept ?_ ?_ | with_reducible refine State.actionReleased_kept ?_ ?_
    | with_reducible refine ite_kept ?_ ?_ | with_reducible refine iteO_kept ?_ ?_
    | simp only [Kept.frame_iff, and_self, true_or, or_true] | with_reducible refine Kept.next ?_
    | with_reducible intro _ | dsimp only | split)

end Sys2Proof.Machine
end

