-- ==== Sys2Proof/Laws/KeptJournal.lean ====
section
/-! SUPPORT. What the operations of Journal.lean keep. -/

namespace Sys2Proof.Machine
open Sys2Proof

variable {pk : Package} {wq : List Instr} {H : Portion → Bool} {z0 : State}

theorem State.jnlStat_kept {s : State} (hH : ∀ x ∈ ([.block .hbr] : List Portion), H x = false)
    (hk0 : Kept pk wq H z0 s) : Kept pk wq H z0 (State.jnlStat s) := by
  unfold State.jnlStat
  repeat' (first
    | with_reducible assumption | exact held_sub hH rfl | exact held_one hH rfl | exact fldOk rfl
    | with_reducible refine State.setFld_kept ?_ ?_ ?_ | with_reducible intro _ | dsimp only | split)

theorem State.modJnl_kept {s : State} {f : Journal → Journal} (hH : ∀ x ∈ ([.jnl] : List Portion), H x = false)
    (hk0 : Kept pk wq H z0 s) : Kept pk wq H z0 (State.modJnl s f) := by
  have hJnl : H .jnl = false := held_one hH rfl
  unfold State.modJnl
  repeat' (first
    | with_reducible assumption | simp only [Kept.frame_iff, hJnl, and_self, true_or, or_true]
    | with_reducible intro _ | dsimp only | split)

theorem State.nextSegment_kept {s : State} {seq : Nat} (hH : ∀ x ∈ ([.jnl, .block .hbr] : List Portion), H x = false)
    (hk0 : Kept pk wq H z0 s) : KeptSome pk wq H z0 (State.nextSegment s seq) := by
  unfold State.nextSegment
  repeat' (first
    | with_reducible assumption | exact held_sub hH rfl | exact held_one hH rfl | exact fldOk rfl
    | with_reducible refine State.jnlStat_kept ?_ ?_ | with_reducible refine State.modJnl_kept ?_ ?_
    | with_reducible refine iteS_kept ?_ ?_ | simp only [Kept.frame_iff, and_self, true_or, or_true]
    | with_reducible exact KeptSome.none | with_reducible refine KeptSome.some ?_
    | with_reducible refine KeptIn.some ?_ | with_reducible exact KeptIn.none | with_reducible intro _ | dsimp only
    | split)
theorem State.nextSegment_kept' {s : State} {seq : Nat} {t} (e : State.nextSegment s seq = some t)
    (hH : ∀ x ∈ ([.jnl, .block .hbr] : List Portion), H x = false) (hk0 : Kept pk wq H z0 s) : Kept pk wq H z0 t :=
  State.nextSegment_kept hH hk0 _ e

theorem State.startCompaction_kept {s : State}
    (hH : ∀ x ∈ ([.egress, .mctp, .jnl, .armed, .block .jl, .block .hbr] : List Portion), H x = false)
    (hk0 : Kept pk wq H z0 s) : Kept pk wq H z0 (State.startCompaction s) := by
  unfold State.startCompaction
  repeat' (first
    | with_reducible assumption | exact held_sub hH rfl | exact held_one hH rfl | exact fldOk rfl
    | with_reducible refine State.setFld_kept ?_ ?_ ?_ | with_reducible refine State.journal_kept ?_ ?_
    | with_reducible refine State.modJnl_kept ?_ ?_ | with_reducible refine ite_kept ?_ ?_
    | simp only [Kept.frame_iff, and_self, true_or, or_true] | with_reducible intro _ | dsimp only | split)

theorem State.fwCommits_kept {s : State} {r : JournalRecord} (hk0 : Kept pk wq H z0 s) : Kept pk wq H z0
    (State.fwCommits s r) := by
  unfold State.fwCommits
  repeat' (first
    | with_reducible assumption | simp only [Kept.frame_iff, and_self, true_or, or_true] | with_reducible intro _
    | dsimp only | split)

theorem State.appendRecord_kept {s : State} {r : JournalRecord}
    (hH : ∀ x ∈ ([.egress, .mctp, .jnl, .armed, .block .jl, .block .hbr] : List Portion), H x = false)
    (h : Kept pk wq H z0 s) :
    KeptSome pk wq H z0 (State.appendRecord s r) := by
  have k : KeptSome pk wq H z0 (if (s.jnl.segment s.jnl.current).used + recordBytes r ≤ segmentBytes then some s else s.nextSegment r.seq) :=
    iteS_kept (KeptSome.some h) (State.nextSegment_kept (held_sub hH rfl) h)
  unfold State.appendRecord
  dsimp only
  split
  · exact KeptSome.none
  · next e =>
    have k := k _ e
    refine KeptSome.some ?_
    repeat' (first
      | with_reducible assumption | with_reducible refine State.modJnl_kept (held_sub hH rfl) ?_
      | with_reducible refine State.jnlStat_kept (held_sub hH rfl) ?_
      | with_reducible refine State.startCompaction_kept (held_sub hH rfl) ?_
      | with_reducible refine State.fwCommits_kept ?_ | with_reducible refine foldl_kept ?_ ?_
      | with_reducible refine getD_kept ?_ ?_ | with_reducible refine ite_kept ?_ ?_
      | with_reducible refine iteP_kept ?_ ?_ | with_reducible refine iteO_kept ?_ ?_
      | simp only [Kept.frame_iff, and_self, true_or, or_true] | with_reducible refine Kept.next ?_
      | with_reducible exact Kept.fault | with_reducible exact Kept.refused | with_reducible intro _ | dsimp only
      | split)

theorem State.appendRecord_kept' {s : State} {r : JournalRecord} {t} (e : State.appendRecord s r = some t)
    (hH : ∀ x ∈ ([.egress, .mctp, .jnl, .armed, .block .jl, .block .hbr] : List Portion), H x = false)
    (h : Kept pk wq H z0 s) : Kept pk wq H z0 t := State.appendRecord_kept (held_sub hH rfl) h _ e

theorem State.commitNext_kept {s : State}
    (hH : ∀ x ∈ ([.egress, .mctp, .jnl, .armed, .block .jl, .block .hbr] : List Portion), H x = false)
    (hk0 : Kept pk wq H z0 s) : Kept pk wq H z0 (State.commitNext s) := by
  unfold State.commitNext
  repeat' (first
    | with_reducible assumption | exact held_sub hH rfl | exact held_one hH rfl | exact fldOk rfl
    | with_reducible refine State.appendRecord_kept ?_ ?_ | with_reducible refine getD_kept ?_ ?_
    | with_reducible refine ite_kept ?_ ?_
    | with_reducible refine State.appendRecord_kept' (by with_reducible assumption) ?_ ?_
    | simp only [Kept.frame_iff, and_self, true_or, or_true] | with_reducible intro _ | dsimp only | split)

theorem State.commitAll_kept {s : State}
    (hH : ∀ x ∈ ([.egress, .mctp, .jnl, .armed, .block .jl, .block .hbr] : List Portion), H x = false)
    (hk0 : Kept pk wq H z0 s) : Kept pk wq H z0 (State.commitAll s) := by
  unfold State.commitAll
  repeat' (first
    | with_reducible assumption | exact held_sub hH rfl | exact held_one hH rfl | exact fldOk rfl
    | with_reducible refine State.commitNext_kept ?_ ?_ | with_reducible refine foldl_kept ?_ ?_
    | with_reducible refine iteP_kept ?_ ?_ | with_reducible refine foldlP_kept ?_ ?_
    | with_reducible refine foldlP_kept' (by with_reducible assumption) ?_ ?_ | with_reducible intro _ | dsimp only
    | split)

theorem State.retireSegment_kept {s : State}
    (hH : ∀ x ∈ ([.egress, .mctp, .jnl, .armed, .block .jl, .block .hbr] : List Portion), H x = false)
    (hk0 : Kept pk wq H z0 s) : Kept pk wq H z0 (State.retireSegment s) := by
  unfold State.retireSegment
  repeat' (first
    | with_reducible assumption | exact held_sub hH rfl | exact held_one hH rfl | exact fldOk rfl
    | with_reducible refine State.satFld_kept ?_ ?_ ?_ | with_reducible refine State.hbrEvent_kept ?_ ?_ ?_ ?_
    | with_reducible refine State.modJnl_kept ?_ ?_ | with_reducible refine State.nextSegment_kept ?_ ?_
    | with_reducible refine State.nextSegment_kept' (by with_reducible assumption) ?_ ?_
    | simp only [Kept.frame_iff, and_self, true_or, or_true] | with_reducible intro _ | dsimp only | split)

theorem execJournalCommit_kept {badBlock : Bool} {s : State}
    (hH : ∀ x ∈ ([.egress, .mctp, .jnl, .armed, .block .jl, .block .hbr] : List Portion), H x = false)
    (hk0 : Kept pk wq H z0 s) : Kept.Outcome pk wq H z0 (execJournalCommit badBlock s) := by
  unfold execJournalCommit
  repeat' (first
    | with_reducible assumption | exact held_sub hH rfl | exact held_one hH rfl | exact fldOk rfl
    | with_reducible refine State.commitNext_kept ?_ ?_ | with_reducible refine State.retireSegment_kept ?_ ?_
    | with_reducible refine ite_kept ?_ ?_ | with_reducible refine iteO_kept ?_ ?_
    | with_reducible refine Kept.next ?_ | with_reducible intro _ | dsimp only | split)

theorem State.writeJnlCtl_kept {s : State} {fn : Nat} {w : Word}
    (hH : ∀ x ∈ ([.egress, .mctp, .jnl, .armed, .block .jl, .block .hbr] : List Portion), H x = false)
    (hk0 : Kept pk wq H z0 s) : Kept pk wq H z0 (State.writeJnlCtl s fn w) := by
  unfold State.writeJnlCtl
  repeat' (first
    | with_reducible assumption | exact held_sub hH rfl | exact held_one hH rfl | exact fldOk rfl
    | with_reducible refine State.startCompaction_kept ?_ ?_ | with_reducible refine ite_kept ?_ ?_
    | with_reducible intro _ | dsimp only | split)

theorem execJournalCompact_kept {fn : Nat} {w : Word} {s : State}
    (hH : ∀ x ∈ ([.egress, .mctp, .jnl, .armed, .block .jl, .block .hbr] : List Portion), H x = false)
    (hk0 : Kept pk wq H z0 s) : Kept.Outcome pk wq H z0 (execJournalCompact fn w s) := by
  unfold execJournalCompact
  repeat' (first
    | with_reducible assumption | exact held_sub hH rfl | exact held_one hH rfl | exact fldOk rfl
    | with_reducible refine State.writeJnlCtl_kept ?_ ?_ | with_reducible refine iteO_kept ?_ ?_
    | with_reducible refine Kept.next ?_ | with_reducible intro _ | dsimp only | split)

theorem State.baseCommits_kept {s : State} {q : Nat} {j : Journal} {segs : List Nat} {base : List JournalRecord}
    (hH : ∀ x ∈ ([.egress, .mctp, .jnl, .armed, .block .jl, .block .hbr] : List Portion), H x = false)
    (hk0 : Kept pk wq H z0 s) : Kept pk wq H z0 (State.baseCommits s q j segs base) := by
  unfold State.baseCommits
  repeat' (first
    | with_reducible assumption | exact held_sub hH rfl | exact held_one hH rfl | exact fldOk rfl
    | with_reducible refine State.setFld_kept ?_ ?_ ?_ | with_reducible refine State.addFld_kept ?_ ?_ ?_
    | with_reducible refine State.journal_kept ?_ ?_ | with_reducible refine State.modJnl_kept ?_ ?_
    | with_reducible refine State.commitAll_kept ?_ ?_ | simp only [Kept.frame_iff, and_self, true_or, or_true]
    | with_reducible intro _ | dsimp only | split)

theorem State.baseFrees_kept {s : State} {segs : List Nat}
    (hH : ∀ x ∈ ([.egress, .mctp, .jnl, .armed, .block .jl, .block .hbr] : List Portion), H x = false)
    (hk0 : Kept pk wq H z0 s) : Kept pk wq H z0 (State.baseFrees s segs) := by
  unfold State.baseFrees
  repeat' (first
    | with_reducible assumption | exact held_sub hH rfl | exact held_one hH rfl | exact fldOk rfl
    | with_reducible refine State.satFld_kept ?_ ?_ ?_ | with_reducible refine State.drawn_kept ?_
    | with_reducible refine State.hbrEvent_kept ?_ ?_ ?_ ?_ | with_reducible refine State.jnlStat_kept ?_ ?_
    | with_reducible refine State.modJnl_kept ?_ ?_ | with_reducible refine foldl_kept ?_ ?_
    | with_reducible refine ite_kept ?_ ?_ | with_reducible refine iteP_kept ?_ ?_
    | with_reducible refine foldlP_kept ?_ ?_
    | with_reducible refine foldlP_kept' (by with_reducible assumption) ?_ ?_ | with_reducible intro _ | dsimp only
    | split)

theorem State.compacted_kept {s : State} {q : Nat}
    (hH : ∀ x ∈ ([.egress, .mctp, .jnl, .armed, .block .jl, .block .hbr] : List Portion), H x = false)
    (hk0 : Kept pk wq H z0 s) : Kept pk wq H z0 (State.compacted s q) := by
  unfold State.compacted
  repeat' (first
    | with_reducible assumption | exact held_sub hH rfl | exact held_one hH rfl | exact fldOk rfl
    | with_reducible refine State.satFld_kept ?_ ?_ ?_ | with_reducible refine State.hbrEvent_kept ?_ ?_ ?_ ?_
    | with_reducible refine State.commitAll_kept ?_ ?_ | with_reducible refine State.baseCommits_kept ?_ ?_
    | with_reducible refine State.baseFrees_kept ?_ ?_ | with_reducible refine ite_kept ?_ ?_ | with_reducible intro _
    | dsimp only | split)

theorem execJournalCompactionDone_kept {s : State}
    (hH : ∀ x ∈ ([.egress, .mctp, .jnl, .armed, .block .jl, .block .hbr] : List Portion), H x = false)
    (hk0 : Kept pk wq H z0 s) : Kept.Outcome pk wq H z0 (execJournalCompactionDone s) := by
  unfold execJournalCompactionDone
  repeat' (first
    | with_reducible assumption | exact held_sub hH rfl | exact held_one hH rfl | exact fldOk rfl
    | with_reducible refine State.compacted_kept ?_ ?_ | with_reducible refine ite_kept ?_ ?_
    | with_reducible refine iteO_kept ?_ ?_ | with_reducible refine Kept.next ?_ | with_reducible intro _ | dsimp only
    | split)

theorem State.journalNow_kept {s : State} {type : Nat} {payload : List Byte}
    (hH : ∀ x ∈ ([.egress, .mctp, .jnl, .armed, .block .jl, .block .hbr] : List Portion), H x = false)
    (hk0 : Kept pk wq H z0 s) : Kept pk wq H z0 (State.journalNow s type payload) := by
  unfold State.journalNow
  repeat' (first
    | with_reducible assumption | exact held_sub hH rfl | exact held_one hH rfl | exact fldOk rfl
    | with_reducible refine State.journal_kept ?_ ?_ | with_reducible refine State.commitAll_kept ?_ ?_
    | with_reducible intro _ | dsimp only | split)

theorem State.replayJournal_kept {s : State} (hH : ∀ x ∈ ([.jnl, .block .hbr] : List Portion), H x = false)
    (hk0 : Kept pk wq H z0 s) : Kept pk wq H z0 (State.replayJournal s) := by
  unfold State.replayJournal
  repeat' (first
    | with_reducible assumption | exact held_sub hH rfl | exact held_one hH rfl | exact fldOk rfl
    | exact wordOk_zero rfl | exact wordOk_whole rfl | with_reducible refine State.setReg_kept ?_ ?_ ?_
    | with_reducible refine State.setFld_kept ?_ ?_ ?_ | with_reducible refine State.drawn_kept ?_
    | with_reducible refine State.modJnl_kept ?_ ?_ | with_reducible refine State.nextSegment_kept ?_ ?_
    | with_reducible refine foldl_kept ?_ ?_ | with_reducible refine getD_kept ?_ ?_
    | with_reducible refine mapFst_kept ?_ | with_reducible refine ite_kept ?_ ?_
    | with_reducible refine iteP_kept ?_ ?_ | with_reducible refine foldlP_kept ?_ ?_
    | with_reducible refine State.nextSegment_kept' (by with_reducible assumption) ?_ ?_
    | with_reducible refine foldlP_kept' (by with_reducible assumption) ?_ ?_
    | simp only [Kept.frame_iff, and_self, true_or, or_true] | with_reducible intro _ | dsimp only | split)

end Sys2Proof.Machine
end

