-- ==== Sys2Proof/Laws/KeptStraitFail.lean ====
section
/-! SUPPORT. What the operations of StraitFail.lean keep. -/

namespace Sys2Proof.Machine
open Sys2Proof

variable {pk : Package} {wq : List Instr} {H : Portion → Bool} {z0 : State}

theorem State.planStrait_kept {s : State} {i : Nat} {e : Nat} {n : Nat}
    (hH : ∀ x ∈ ([.mem, .islets, .fns, .optim, .queues, .jobs, .egress, .gov, .lanes, .mctp, .armed, .block .isl, .block .mem, .block .pipe, .block .reef, .block .jl, .block .red, .block .opt, .block .svc, .block .hbr] : List Portion), H x = false)
    (hk0 : Kept pk wq H z0 s) : Kept pk wq H z0 (State.planStrait s i e n) := by
  unfold State.planStrait
  repeat' (first
    | with_reducible assumption | exact held_sub hH rfl | exact held_one hH rfl | exact fldOk rfl
    | with_reducible refine State.planFails_kept ?_ ?_ | with_reducible refine ite_kept ?_ ?_ | with_reducible intro _
    | dsimp only | split)

theorem State.straitFail_kept {s : State} {n : Nat}
    (hH : ∀ x ∈ ([.mem, .islets, .fns, .optim, .queues, .jobs, .reefs, .ports, .egress, .lead, .actions, .gov, .lanes, .mctp, .armed, .block .str, .block .img, .block .isl, .block .mem, .block .pipe, .block .reef, .block .jl, .block .red, .block .opt, .block .svc, .block .sec, .block .hbr] : List Portion), H x = false)
    (hk0 : Kept pk wq H z0 s) : Kept pk wq H z0 (State.straitFail s n) := by
  unfold State.straitFail
  repeat' (first
    | with_reducible assumption | exact held_sub hH rfl | exact held_one hH rfl | exact fldOk rfl
    | with_reducible refine State.setFld_kept ?_ ?_ ?_ | with_reducible refine State.endReads_kept ?_
    | with_reducible refine State.hbrEvent_kept ?_ ?_ ?_ ?_ | with_reducible refine State.journal_kept ?_ ?_
    | with_reducible refine State.dropHeld_kept ?_ ?_ | with_reducible refine State.endWaiting_kept ?_
    | with_reducible refine State.optStop_kept ?_ ?_ | with_reducible refine State.launchStop_kept ?_ ?_
    | with_reducible refine State.taskEnd_kept ?_ ?_ | with_reducible refine State.rotationEnds_kept ?_ ?_
    | with_reducible refine State.migStop_kept ?_ ?_ | with_reducible refine State.stepKill_kept ?_ ?_
    | with_reducible refine State.loadFault_kept ?_ ?_ | with_reducible refine State.dropRoute_kept ?_ ?_
    | with_reducible refine State.takeTransits_kept ?_ ?_ | with_reducible refine State.freeSlot_kept ?_ ?_
    | with_reducible refine State.modLead_kept ?_ ?_ | with_reducible refine State.leaderLost_kept ?_ ?_
    | with_reducible refine State.planStrait_kept ?_ ?_ | with_reducible refine foldl_kept ?_ ?_
    | with_reducible refine mapFst_kept ?_ | with_reducible refine ite_kept ?_ ?_
    | with_reducible refine iteP_kept ?_ ?_ | with_reducible refine foldlP_kept ?_ ?_
    | with_reducible refine State.takeTransits_kept' (by with_reducible assumption) ?_ ?_
    | with_reducible refine foldlP_kept' (by with_reducible assumption) ?_ ?_
    | simp only [Kept.frame_iff, and_self, true_or, or_true] | with_reducible intro _ | dsimp only | split)

theorem State.capeTakes_kept {s : State} {n : Nat} {ba : Bool} {cls : Nat}
    (hH : ∀ x ∈ ([.mem, .islets, .fns, .optim, .queues, .jobs, .reefs, .ports, .egress, .actions, .gov, .lanes, .mctp, .armed, .block .str, .block .img, .block .isl, .block .mem, .block .pipe, .block .reef, .block .jl, .block .red, .block .opt, .block .svc, .block .hbr] : List Portion), H x = false)
    (hk0 : Kept pk wq H z0 s) : Kept pk wq H z0 (State.capeTakes s n ba cls) := by
  unfold State.capeTakes
  repeat' (first
    | with_reducible assumption | exact held_sub hH rfl | exact held_one hH rfl | exact fldOk rfl
    | with_reducible refine State.setLane_kept ?_ ?_ | with_reducible refine State.straitFull_kept ?_ ?_
    | with_reducible refine State.transitArrives_kept ?_ ?_ | with_reducible refine foldl_kept ?_ ?_
    | with_reducible refine ite_kept ?_ ?_ | with_reducible refine iteP_kept ?_ ?_
    | with_reducible refine foldlP_kept ?_ ?_
    | with_reducible refine foldlP_kept' (by with_reducible assumption) ?_ ?_
    | simp only [Kept.frame_iff, and_self, true_or, or_true] | with_reducible intro _ | dsimp only | split)

theorem execStraitUnitArrive_kept {n : Nat} {ba : Bool} {cls : Nat} {crcOk : Bool} {syndrome : Nat} {s : State}
    (hH : ∀ x ∈ ([.mem, .islets, .fns, .optim, .queues, .jobs, .reefs, .ports, .egress, .lead, .actions, .gov, .lanes, .mctp, .armed, .block .str, .block .img, .block .isl, .block .mem, .block .pipe, .block .reef, .block .jl, .block .red, .block .opt, .block .svc, .block .sec, .block .hbr] : List Portion), H x = false)
    (hk0 : Kept pk wq H z0 s) : Kept.Outcome pk wq H z0 (execStraitUnitArrive n ba cls crcOk syndrome s) := by
  unfold execStraitUnitArrive
  repeat' (first
    | with_reducible assumption | exact held_sub hH rfl | exact held_one hH rfl | exact fldOk rfl
    | with_reducible refine State.setFld_kept ?_ ?_ ?_ | with_reducible refine State.straitRetry_kept ?_ ?_
    | with_reducible refine State.straitPass_kept ?_ ?_ | with_reducible refine State.dieTakes_kept ?_ ?_
    | with_reducible refine State.straitFail_kept ?_ ?_ | with_reducible refine State.capeTakes_kept ?_ ?_
    | with_reducible refine ite_kept ?_ ?_ | with_reducible refine iteO_kept ?_ ?_
    | with_reducible refine Kept.out (State.dieTakes_kept ?_ ?_) (by with_reducible assumption)
    | with_reducible refine Kept.next ?_ | with_reducible intro _ | dsimp only | split)

theorem execStraitStallTimeout_kept {n : Nat} (_ba : Bool) {s : State}
    (hH : ∀ x ∈ ([.mem, .islets, .fns, .optim, .queues, .jobs, .reefs, .ports, .egress, .lead, .actions, .gov, .lanes, .mctp, .armed, .block .str, .block .img, .block .isl, .block .mem, .block .pipe, .block .reef, .block .jl, .block .red, .block .opt, .block .svc, .block .sec, .block .hbr] : List Portion), H x = false)
    (hk0 : Kept pk wq H z0 s) : Kept.Outcome pk wq H z0 (execStraitStallTimeout n _ba s) := by
  unfold execStraitStallTimeout
  repeat' (first
    | with_reducible assumption | exact held_sub hH rfl | exact held_one hH rfl | exact fldOk rfl
    | with_reducible refine State.straitFail_kept ?_ ?_ | with_reducible refine ite_kept ?_ ?_
    | with_reducible refine iteO_kept ?_ ?_ | with_reducible refine Kept.next ?_ | with_reducible intro _ | dsimp only
    | split)

end Sys2Proof.Machine
end

