-- ==== Sys2Proof/Laws/KeptHarbour.lean ====
section
/-! SUPPORT. What the operations of Harbour.lean keep. -/

namespace Sys2Proof.Machine
open Sys2Proof

variable {pk : Package} {wq : List Instr} {H : Portion → Bool} {z0 : State}

theorem State.writeHbrEvt_kept {s : State} {fn : Nat} {w : Word}
    (hH : ∀ x ∈ ([.egress, .armed, .block .jl, .block .hbr] : List Portion), H x = false) (hk0 : Kept pk wq H z0 s) :
    Kept pk wq H z0 (State.writeHbrEvt s fn w) := by
  unfold State.writeHbrEvt
  repeat' (first
    | with_reducible assumption | exact held_sub hH rfl | exact held_one hH rfl | exact fldOk rfl
    | with_reducible refine State.writeReg_kept ?_ ?_ | with_reducible refine State.armHbr_kept ?_ ?_
    | with_reducible refine ite_kept ?_ ?_ | with_reducible intro _ | dsimp only | split)

theorem execHbrEvtClear_kept {fn : Nat} {w : Word} {s : State}
    (hH : ∀ x ∈ ([.egress, .armed, .block .jl, .block .hbr] : List Portion), H x = false) (hk0 : Kept pk wq H z0 s) :
    Kept.Outcome pk wq H z0 (execHbrEvtClear fn w s) := by
  unfold execHbrEvtClear
  repeat' (first
    | with_reducible assumption | exact held_sub hH rfl | exact held_one hH rfl | exact fldOk rfl
    | with_reducible refine State.writeHbrEvt_kept ?_ ?_ | with_reducible refine iteO_kept ?_ ?_
    | with_reducible refine Kept.next ?_ | with_reducible intro _ | dsimp only | split)

theorem State.writeHbrRoute_kept {s : State} {fn : Nat} {w : Word}
    (hH : ∀ x ∈ ([.egress, .armed, .block .jl, .block .hbr] : List Portion), H x = false) (hk0 : Kept pk wq H z0 s) :
    Kept pk wq H z0 (State.writeHbrRoute s fn w) := by
  have hArmed : H .armed = false := held_one hH rfl
  unfold State.writeHbrRoute
  repeat' (first
    | with_reducible assumption | exact held_sub hH rfl | exact held_one hH rfl | exact fldOk rfl
    | with_reducible refine State.writeReg_kept ?_ ?_ | with_reducible refine State.armHbr_kept ?_ ?_
    | with_reducible refine ite_kept ?_ ?_ | simp only [Kept.frame_iff, hArmed, and_self, true_or, or_true]
    | with_reducible intro _ | dsimp only | split)

theorem execHbrEvtRouteWrite_kept {fn : Nat} {w : Word} {s : State}
    (hH : ∀ x ∈ ([.egress, .armed, .block .jl, .block .hbr] : List Portion), H x = false) (hk0 : Kept pk wq H z0 s) :
    Kept.Outcome pk wq H z0 (execHbrEvtRouteWrite fn w s) := by
  unfold execHbrEvtRouteWrite
  repeat' (first
    | with_reducible assumption | exact held_sub hH rfl | exact held_one hH rfl | exact fldOk rfl
    | with_reducible refine State.writeHbrRoute_kept ?_ ?_ | with_reducible refine iteO_kept ?_ ?_
    | with_reducible refine Kept.next ?_ | with_reducible intro _ | dsimp only | split)

theorem State.writeSnap_kept {s : State} {fn : Nat} {w : Word}
    (hH : ∀ x ∈ ([.lanes, .block .hbr] : List Portion), H x = false) (hk0 : Kept pk wq H z0 s) : Kept pk wq H z0
    (State.writeSnap s fn w) := by
  unfold State.writeSnap
  repeat' (first
    | with_reducible assumption | exact held_sub hH rfl | exact held_one hH rfl | exact fldOk rfl
    | with_reducible refine State.setFld_kept ?_ ?_ ?_ | with_reducible refine State.addFld_kept ?_ ?_ ?_
    | with_reducible refine State.straitOffer_kept ?_ ?_ | with_reducible refine foldl_kept ?_ ?_
    | with_reducible refine ite_kept ?_ ?_ | with_reducible refine iteP_kept ?_ ?_
    | with_reducible refine foldlP_kept ?_ ?_
    | with_reducible refine foldlP_kept' (by with_reducible assumption) ?_ ?_
    | simp only [Kept.frame_iff, and_self, true_or, or_true] | with_reducible intro _ | dsimp only | split)

theorem execSnapshotGo_kept {fn : Nat} {w : Word} {s : State}
    (hH : ∀ x ∈ ([.lanes, .block .hbr] : List Portion), H x = false) (hk0 : Kept pk wq H z0 s) : Kept.Outcome pk wq H
    z0 (execSnapshotGo fn w s) := by
  unfold execSnapshotGo
  repeat' (first
    | with_reducible assumption | exact held_sub hH rfl | exact held_one hH rfl | exact fldOk rfl
    | with_reducible refine State.writeSnap_kept ?_ ?_ | with_reducible refine iteO_kept ?_ ?_
    | with_reducible refine Kept.next ?_ | with_reducible intro _ | dsimp only | split)

theorem execSnapshotUnitAccept_kept {island : Nat} {s : State}
    (hH : ∀ x ∈ ([.block .hbr] : List Portion), H x = false) (hk0 : Kept pk wq H z0 s) : Kept.Outcome pk wq H z0
    (execSnapshotUnitAccept island s) := by
  unfold execSnapshotUnitAccept
  repeat' (first
    | with_reducible assumption | exact held_sub hH rfl | exact held_one hH rfl | exact fldOk rfl
    | with_reducible refine State.setFld_kept ?_ ?_ ?_ | with_reducible refine ite_kept ?_ ?_
    | with_reducible refine iteO_kept ?_ ?_ | simp only [Kept.frame_iff, and_self, true_or, or_true]
    | with_reducible refine Kept.next ?_ | with_reducible intro _ | dsimp only | split)

theorem State.carry_kept {s : State} {t : State} {f : Fld} {a : Nat} (hff : f.legal = true)
    (hbf : H (.block (regBlock f.reg)) = false) (hk0 : Kept pk wq H z0 s) : Kept pk wq H z0 (State.carry s t f a) :=
    by
  unfold State.carry
  repeat' (first
    | with_reducible assumption | exact held_sub hH rfl | exact held_one hH rfl | exact fldOk rfl
    | with_reducible refine State.setFld_kept ?_ ?_ ?_ | with_reducible intro _ | dsimp only | split)

theorem State.resetKept_kept {s : State} {warm : Bool}
    (hH : ∀ x ∈ ([.mem, .islets, .fns, .optim, .queues, .jobs, .reefs, .ports, .egress, .lead, .actions, .gov, .lanes, .pins, .jtag, .mctp, .jnl, .armed, .watchdogs, .counts, .ticks, .block .str, .block .img, .block .isl, .block .mem, .block .pipe, .block .reef, .block .jl, .block .red, .block .opt, .block .svc, .block .sec, .block .hbr] : List Portion), H x = false)
    (h : Kept pk wq H z0 s) :
    Kept pk wq H z0 (s.resetKept warm) := by
  refine ⟨h.pkg, h.pending, ⟨rfl, rfl, rfl⟩, fun x hx => ?_⟩
  have no (hm : x ∈ ([.mem, .islets, .fns, .optim, .queues, .jobs, .reefs, .ports, .egress, .lead, .actions, .gov, .lanes, .pins, .jtag, .mctp, .jnl, .armed, .watchdogs, .counts, .ticks, .block .str, .block .img, .block .isl, .block .mem, .block .pipe, .block .reef, .block .jl, .block .red, .block .opt, .block .svc, .block .sec, .block .hbr] : List Portion)) : False := by rw [hH x hm] at hx; cases hx
  cases x
  case block k =>
    cases k
    case pkg =>
      intro r a b hr
      have := h.same _ hx r a b hr
      rw [← this, h.sound.reg_fixed r a b (pkgBlock_fixed hr)]
      rfl
    all_goals exact (no (List.contains_iff_mem.1 rfl)).elim
  all_goals exact (no (List.contains_iff_mem.1 rfl)).elim

theorem State.resetBase_kept {s : State} {warm : Bool}
    (hH : ∀ x ∈ ([.mem, .islets, .fns, .optim, .queues, .jobs, .reefs, .ports, .egress, .lead, .actions, .gov, .lanes, .pins, .jtag, .mctp, .jnl, .armed, .watchdogs, .counts, .ticks, .block .str, .block .img, .block .isl, .block .mem, .block .pipe, .block .reef, .block .jl, .block .red, .block .opt, .block .svc, .block .sec, .block .hbr] : List Portion), H x = false)
    (hk0 : Kept pk wq H z0 s) : Kept pk wq H z0 (State.resetBase s warm) := by
  unfold State.resetBase
  repeat' (first
    | with_reducible assumption | exact held_sub hH rfl | exact held_one hH rfl | exact fldOk rfl
    | exact wordOk_zero rfl | exact wordOk_whole rfl
    | exact Sound.wordOk_self (Kept.sound (by with_reducible assumption)) rfl
    | with_reducible refine State.setReg_kept ?_ ?_ ?_ | with_reducible refine State.setFld_kept ?_ ?_ ?_
    | with_reducible refine State.carry_kept ?_ ?_ ?_ | with_reducible refine State.resetKept_kept ?_ ?_
    | with_reducible refine foldl_kept ?_ ?_ | with_reducible refine ite_kept ?_ ?_
    | with_reducible refine iteP_kept ?_ ?_ | with_reducible refine foldlP_kept ?_ ?_
    | with_reducible refine foldlP_kept' (by with_reducible assumption) ?_ ?_ | with_reducible intro _ | dsimp only
    | split)

theorem State.raiseSvn_kept {s : State} {k : Nat} {v : Nat}
    (hH : ∀ x ∈ ([.egress, .mctp, .jnl, .armed, .block .jl, .block .hbr] : List Portion), H x = false)
    (hk0 : Kept pk wq H z0 s) : Kept pk wq H z0 (State.raiseSvn s k v) := by
  unfold State.raiseSvn
  repeat' (first
    | with_reducible assumption | exact held_sub hH rfl | exact held_one hH rfl | exact fldOk rfl
    | with_reducible refine State.journalNow_kept ?_ ?_ | with_reducible refine ite_kept ?_ ?_
    | simp only [Kept.frame_iff, and_self, true_or, or_true] | with_reducible intro _ | dsimp only | split)

theorem State.setStaged_kept {s : State} {mask : Nat}
    (hH : ∀ x ∈ ([.block .sec, .block .hbr] : List Portion), H x = false) (hk0 : Kept pk wq H z0 s) : Kept pk wq H z0
    (State.setStaged s mask) := by
  unfold State.setStaged
  repeat' (first
    | with_reducible assumption | exact held_sub hH rfl | exact held_one hH rfl | exact fldOk rfl
    | with_reducible refine State.setFld_kept ?_ ?_ ?_ | with_reducible intro _ | dsimp only | split)

theorem State.bootStart_kept {s : State} {cause : Nat}
    (hH : ∀ x ∈ ([.egress, .mctp, .jnl, .armed, .block .jl, .block .sec, .block .hbr] : List Portion), H x = false)
    (hk0 : Kept pk wq H z0 s) : Kept pk wq H z0 (State.bootStart s cause) := by
  unfold State.bootStart
  repeat' (first
    | with_reducible assumption | exact held_sub hH rfl | exact held_one hH rfl | exact fldOk rfl
    | with_reducible refine State.setFld_kept ?_ ?_ ?_ | with_reducible refine State.hbrEvent_kept ?_ ?_ ?_ ?_
    | with_reducible refine State.journalNow_kept ?_ ?_ | with_reducible refine State.replayJournal_kept ?_ ?_
    | with_reducible refine State.setStaged_kept ?_ ?_ | with_reducible refine foldl_kept ?_ ?_
    | with_reducible refine ite_kept ?_ ?_ | with_reducible refine iteP_kept ?_ ?_
    | with_reducible refine foldlP_kept ?_ ?_
    | with_reducible refine foldlP_kept' (by with_reducible assumption) ?_ ?_
    | simp only [Kept.frame_iff, and_self, true_or, or_true] | with_reducible intro _ | dsimp only | split)

theorem State.warmReset_kept {s : State} {cause : Nat}
    (hH : ∀ x ∈ ([.mem, .islets, .fns, .optim, .queues, .jobs, .reefs, .ports, .egress, .lead, .actions, .gov, .lanes, .pins, .jtag, .mctp, .jnl, .armed, .watchdogs, .counts, .ticks, .block .str, .block .img, .block .isl, .block .mem, .block .pipe, .block .reef, .block .jl, .block .red, .block .opt, .block .svc, .block .sec, .block .hbr] : List Portion), H x = false)
    (hk0 : Kept pk wq H z0 s) : Kept pk wq H z0 (State.warmReset s cause) := by
  unfold State.warmReset
  repeat' (first
    | with_reducible assumption | exact held_sub hH rfl | exact held_one hH rfl | exact fldOk rfl
    | with_reducible refine State.satFld_kept ?_ ?_ ?_ | with_reducible refine State.recordChange_kept ?_ ?_
    | with_reducible refine State.portsReset_kept ?_ ?_ | with_reducible refine State.resetBase_kept ?_ ?_
    | with_reducible refine State.bootStart_kept ?_ ?_ | with_reducible refine foldl_kept ?_ ?_
    | with_reducible refine ite_kept ?_ ?_ | with_reducible refine iteP_kept ?_ ?_
    | with_reducible refine foldlP_kept ?_ ?_
    | with_reducible refine foldlP_kept' (by with_reducible assumption) ?_ ?_ | with_reducible intro _ | dsimp only
    | split)

theorem execHarbourWatchdog_kept {s : State}
    (hH : ∀ x ∈ ([.mem, .islets, .fns, .optim, .queues, .jobs, .reefs, .ports, .egress, .lead, .actions, .gov, .lanes, .pins, .jtag, .mctp, .jnl, .armed, .watchdogs, .counts, .ticks, .block .str, .block .img, .block .isl, .block .mem, .block .pipe, .block .reef, .block .jl, .block .red, .block .opt, .block .svc, .block .sec, .block .hbr] : List Portion), H x = false)
    (hk0 : Kept pk wq H z0 s) : Kept.Outcome pk wq H z0 (execHarbourWatchdog s) := by
  unfold execHarbourWatchdog
  repeat' (first
    | with_reducible assumption | exact held_sub hH rfl | exact held_one hH rfl | exact fldOk rfl
    | with_reducible refine State.reachCount_kept ?_ ?_ | with_reducible refine State.warmReset_kept ?_ ?_
    | with_reducible refine ite_kept ?_ ?_ | with_reducible refine iteO_kept ?_ ?_
    | with_reducible refine Kept.next ?_ | with_reducible intro _ | dsimp only | split)

theorem execHarbourWatchdogWrite_kept {core : Nat} {s : State} (hH : ∀ x ∈ ([.watchdogs] : List Portion), H x = false)
    (hk0 : Kept pk wq H z0 s) : Kept.Outcome pk wq H z0 (execHarbourWatchdogWrite core s) := by
  have hWatchdogs : H .watchdogs = false := held_one hH rfl
  unfold execHarbourWatchdogWrite
  repeat' (first
    | with_reducible assumption | with_reducible refine ite_kept ?_ ?_ | with_reducible refine iteO_kept ?_ ?_
    | simp only [Kept.frame_iff, hWatchdogs, and_self, true_or, or_true] | with_reducible refine Kept.next ?_
    | with_reducible intro _ | dsimp only | split)

theorem execReadyTimeout_kept {s : State} (hH : ∀ x ∈ ([.pins, .counts] : List Portion), H x = false)
    (hk0 : Kept pk wq H z0 s) : Kept.Outcome pk wq H z0 (execReadyTimeout s) := by
  have hPins : H .pins = false := held_one hH rfl
  unfold execReadyTimeout
  repeat' (first
    | with_reducible assumption | exact held_sub hH rfl | exact held_one hH rfl | exact fldOk rfl
    | with_reducible refine State.reachCount_kept ?_ ?_ | with_reducible refine ite_kept ?_ ?_
    | with_reducible refine iteO_kept ?_ ?_ | simp only [Kept.frame_iff, hPins, and_self, true_or, or_true]
    | with_reducible refine Kept.next ?_ | with_reducible intro _ | dsimp only | split)

theorem State.trialFails_kept {s : State}
    (hH : ∀ x ∈ ([.mem, .islets, .fns, .optim, .queues, .jobs, .reefs, .ports, .egress, .lead, .actions, .gov, .lanes, .pins, .jtag, .mctp, .jnl, .armed, .watchdogs, .counts, .ticks, .block .str, .block .img, .block .isl, .block .mem, .block .pipe, .block .reef, .block .jl, .block .red, .block .opt, .block .svc, .block .sec, .block .hbr] : List Portion), H x = false)
    (hk0 : Kept pk wq H z0 s) : Kept pk wq H z0 (State.trialFails s) := by
  unfold State.trialFails
  repeat' (first
    | with_reducible assumption | exact held_sub hH rfl | exact held_one hH rfl | exact fldOk rfl
    | with_reducible refine State.hbrEvent_kept ?_ ?_ ?_ ?_ | with_reducible refine State.journalNow_kept ?_ ?_
    | with_reducible refine State.warmReset_kept ?_ ?_ | with_reducible intro _ | dsimp only | split)

theorem execTrialTimeout_kept {s : State}
    (hH : ∀ x ∈ ([.mem, .islets, .fns, .optim, .queues, .jobs, .reefs, .ports, .egress, .lead, .actions, .gov, .lanes, .pins, .jtag, .mctp, .jnl, .armed, .watchdogs, .counts, .ticks, .block .str, .block .img, .block .isl, .block .mem, .block .pipe, .block .reef, .block .jl, .block .red, .block .opt, .block .svc, .block .sec, .block .hbr] : List Portion), H x = false)
    (hk0 : Kept pk wq H z0 s) : Kept.Outcome pk wq H z0 (execTrialTimeout s) := by
  unfold execTrialTimeout
  repeat' (first
    | with_reducible assumption | exact held_sub hH rfl | exact held_one hH rfl | exact fldOk rfl
    | with_reducible refine State.reachCount_kept ?_ ?_ | with_reducible refine State.trialFails_kept ?_ ?_
    | with_reducible refine ite_kept ?_ ?_ | with_reducible refine iteO_kept ?_ ?_
    | with_reducible refine Kept.next ?_ | with_reducible intro _ | dsimp only | split)

theorem State.cutMoves_kept {s : State} {k : Nat}
    (hH : ∀ x ∈ ([.mem, .fns, .egress, .lanes, .mctp, .armed, .block .img, .block .mem, .block .reef, .block .jl, .block .sec, .block .hbr] : List Portion), H x = false)
    (hk0 : Kept pk wq H z0 s) : Kept pk wq H z0 (State.cutMoves s k) := by
  unfold State.cutMoves
  repeat' (first
    | with_reducible assumption | exact held_sub hH rfl | exact held_one hH rfl | exact fldOk rfl
    | with_reducible refine State.demoteAbandon_kept ?_ ?_ | with_reducible refine State.promoteFail_kept ?_ ?_
    | with_reducible refine foldl_kept ?_ ?_ | with_reducible refine getD_kept ?_ ?_
    | with_reducible refine mapFst_kept ?_ | with_reducible refine ite_kept ?_ ?_
    | with_reducible refine iteP_kept ?_ ?_ | with_reducible refine foldlP_kept ?_ ?_
    | with_reducible refine foldlP_kept' (by with_reducible assumption) ?_ ?_ | with_reducible intro _ | dsimp only
    | split)

theorem State.planStack_kept {s : State} {i : Nat} {e : Nat} {k : Nat}
    (hH : ∀ x ∈ ([.mem, .islets, .fns, .optim, .queues, .jobs, .egress, .gov, .lanes, .mctp, .armed, .block .isl, .block .mem, .block .pipe, .block .reef, .block .jl, .block .red, .block .opt, .block .svc, .block .hbr] : List Portion), H x = false)
    (hk0 : Kept pk wq H z0 s) : Kept pk wq H z0 (State.planStack s i e k) := by
  unfold State.planStack
  repeat' (first
    | with_reducible assumption | exact held_sub hH rfl | exact held_one hH rfl | exact fldOk rfl
    | with_reducible refine State.planFails_kept ?_ ?_ | with_reducible refine ite_kept ?_ ?_ | with_reducible intro _
    | dsimp only | split)

theorem State.stackReset_kept {s : State} {k : Nat}
    (hH : ∀ x ∈ ([.mem, .islets, .fns, .optim, .queues, .jobs, .reefs, .egress, .actions, .gov, .lanes, .mctp, .armed, .block .str, .block .img, .block .isl, .block .mem, .block .pipe, .block .reef, .block .jl, .block .red, .block .opt, .block .svc, .block .sec, .block .hbr] : List Portion), H x = false)
    (hk0 : Kept pk wq H z0 s) : Kept pk wq H z0 (State.stackReset s k) := by
  unfold State.stackReset
  repeat' (first
    | with_reducible assumption | exact held_sub hH rfl | exact held_one hH rfl | exact fldOk rfl
    | with_reducible refine State.unserved_kept ?_ | with_reducible refine State.setFld_kept ?_ ?_ ?_
    | with_reducible refine State.dropHeld_kept ?_ ?_ | with_reducible refine State.straitDown_kept ?_ ?_
    | with_reducible refine State.modReef_kept ?_ ?_ | with_reducible refine State.reefReset_kept ?_ ?_
    | with_reducible refine State.migStop_kept ?_ ?_ | with_reducible refine State.loadFault_kept ?_ ?_
    | with_reducible refine State.cutMoves_kept ?_ ?_ | with_reducible refine State.planStack_kept ?_ ?_
    | with_reducible refine foldl_kept ?_ ?_ | with_reducible refine ite_kept ?_ ?_
    | with_reducible refine iteP_kept ?_ ?_ | with_reducible refine foldlP_kept ?_ ?_
    | with_reducible refine foldlP_kept' (by with_reducible assumption) ?_ ?_
    | simp only [Kept.frame_iff, and_self, true_or, or_true] | with_reducible intro _ | dsimp only | split)

theorem State.writeResetCtl_kept {s : State} {fn : Nat} {w : Word}
    (hH : ∀ x ∈ ([.mem, .islets, .fns, .optim, .queues, .jobs, .reefs, .ports, .egress, .lead, .actions, .gov, .lanes, .pins, .jtag, .mctp, .jnl, .armed, .watchdogs, .counts, .ticks, .block .str, .block .img, .block .isl, .block .mem, .block .pipe, .block .reef, .block .jl, .block .red, .block .opt, .block .svc, .block .sec, .block .hbr] : List Portion), H x = false)
    (hk0 : Kept pk wq H z0 s) : Kept pk wq H z0 (State.writeResetCtl s fn w) := by
  unfold State.writeResetCtl
  repeat' (first
    | with_reducible assumption | exact held_sub hH rfl | exact held_one hH rfl | exact fldOk rfl
    | with_reducible refine State.writeReg_kept ?_ ?_ | with_reducible refine State.warmReset_kept ?_ ?_
    | with_reducible refine State.stackReset_kept ?_ ?_ | with_reducible refine ite_kept ?_ ?_
    | with_reducible intro _ | dsimp only | split)

theorem execWarmReset_kept {fn : Nat} {w : Word} {s : State}
    (hH : ∀ x ∈ ([.mem, .islets, .fns, .optim, .queues, .jobs, .reefs, .ports, .egress, .lead, .actions, .gov, .lanes, .pins, .jtag, .mctp, .jnl, .armed, .watchdogs, .counts, .ticks, .block .str, .block .img, .block .isl, .block .mem, .block .pipe, .block .reef, .block .jl, .block .red, .block .opt, .block .svc, .block .sec, .block .hbr] : List Portion), H x = false)
    (hk0 : Kept pk wq H z0 s) : Kept.Outcome pk wq H z0 (execWarmReset fn w s) := by
  unfold execWarmReset
  repeat' (first
    | with_reducible assumption | exact held_sub hH rfl | exact held_one hH rfl | exact fldOk rfl
    | with_reducible refine State.writeResetCtl_kept ?_ ?_ | with_reducible refine iteO_kept ?_ ?_
    | with_reducible refine Kept.next ?_ | with_reducible intro _ | dsimp only | split)

theorem execStackReset_kept {fn : Nat} {w : Word} {s : State}
    (hH : ∀ x ∈ ([.mem, .islets, .fns, .optim, .queues, .jobs, .reefs, .ports, .egress, .lead, .actions, .gov, .lanes, .pins, .jtag, .mctp, .jnl, .armed, .watchdogs, .counts, .ticks, .block .str, .block .img, .block .isl, .block .mem, .block .pipe, .block .reef, .block .jl, .block .red, .block .opt, .block .svc, .block .sec, .block .hbr] : List Portion), H x = false)
    (hk0 : Kept pk wq H z0 s) : Kept.Outcome pk wq H z0 (execStackReset fn w s) := by
  unfold execStackReset
  repeat' (first
    | with_reducible assumption | exact held_sub hH rfl | exact held_one hH rfl | exact fldOk rfl
    | with_reducible refine State.writeResetCtl_kept ?_ ?_ | with_reducible refine iteO_kept ?_ ?_
    | with_reducible refine Kept.next ?_ | with_reducible intro _ | dsimp only | split)

theorem execStackResetDone_kept {stack : Nat} {s : State}
    (hH : ∀ x ∈ ([.block .str, .block .mem, .block .hbr] : List Portion), H x = false) (hk0 : Kept pk wq H z0 s) :
    Kept.Outcome pk wq H z0 (execStackResetDone stack s) := by
  unfold execStackResetDone
  repeat' (first
    | with_reducible assumption | exact held_sub hH rfl | exact held_one hH rfl | exact fldOk rfl
    | with_reducible refine State.setFld_kept ?_ ?_ ?_ | with_reducible refine State.straitUp_kept ?_ ?_
    | with_reducible refine ite_kept ?_ ?_ | with_reducible refine iteO_kept ?_ ?_
    | with_reducible refine Kept.next ?_ | with_reducible intro _ | dsimp only | split)

theorem State.bootRepairs_kept {s : State}
    (hH : ∀ x ∈ ([.egress, .lanes, .mctp, .armed, .block .mem, .block .jl, .block .hbr] : List Portion), H x = false)
    (hk0 : Kept pk wq H z0 s) : Kept pk wq H z0 (State.bootRepairs s) := by
  unfold State.bootRepairs
  repeat' (first
    | with_reducible assumption | exact held_sub hH rfl | exact held_one hH rfl | exact fldOk rfl
    | with_reducible refine State.drawn_kept ?_ | with_reducible refine State.journal_kept ?_ ?_
    | with_reducible refine State.memRecord_kept ?_ ?_ | with_reducible refine State.rowsStat_kept ?_ ?_
    | with_reducible refine foldl_kept ?_ ?_ | with_reducible refine ite_kept ?_ ?_
    | with_reducible refine iteP_kept ?_ ?_ | with_reducible refine foldlP_kept ?_ ?_
    | with_reducible refine foldlP_kept' (by with_reducible assumption) ?_ ?_
    | simp only [Kept.frame_iff, and_self, true_or, or_true] | with_reducible intro _ | dsimp only | split)

theorem State.bootPort_kept {s : State} {p : Nat} {cap : Nat} {bad : Bool}
    (hH : ∀ x ∈ ([.block .mem] : List Portion), H x = false) (hk0 : Kept pk wq H z0 s) : Kept pk wq H z0
    (State.bootPort s p cap bad) := by
  unfold State.bootPort
  repeat' (first
    | with_reducible assumption | exact held_sub hH rfl | exact held_one hH rfl | exact fldOk rfl
    | with_reducible refine State.setFld_kept ?_ ?_ ?_ | with_reducible refine ite_kept ?_ ?_ | with_reducible intro _
    | dsimp only | split)

theorem State.activateTrial_kept {s : State}
    (hH : ∀ x ∈ ([.egress, .mctp, .jnl, .armed, .block .jl, .block .sec, .block .hbr] : List Portion), H x = false)
    (hk0 : Kept pk wq H z0 s) : Kept pk wq H z0 (State.activateTrial s) := by
  unfold State.activateTrial
  repeat' (first
    | with_reducible assumption | exact held_sub hH rfl | exact held_one hH rfl | exact fldOk rfl
    | with_reducible refine State.setFld_kept ?_ ?_ ?_ | with_reducible refine State.hbrEvent_kept ?_ ?_ ?_ ?_
    | with_reducible refine State.journalNow_kept ?_ ?_ | with_reducible refine State.raiseSvn_kept ?_ ?_
    | with_reducible refine State.setStaged_kept ?_ ?_ | with_reducible refine foldl_kept ?_ ?_
    | with_reducible refine ite_kept ?_ ?_ | with_reducible refine iteP_kept ?_ ?_
    | with_reducible refine foldlP_kept ?_ ?_
    | with_reducible refine foldlP_kept' (by with_reducible assumption) ?_ ?_
    | simp only [Kept.frame_iff, and_self, true_or, or_true] | with_reducible intro _ | dsimp only | split)

theorem State.zeroFill_kept {s : State} (hH : ∀ x ∈ ([.mem] : List Portion), H x = false) (h : Kept pk wq H z0 s) :
    Kept pk wq H z0 s.zeroFill :=
  Kept.memoryAnd (reefs := s.reefs) (leases := s.leases) (m := []) (held_one hH rfl) (.inl rfl) rfl h

theorem State.bootPorts_kept {s : State} (hH : ∀ x ∈ ([.ports, .block .str, .block .jl] : List Portion), H x = false)
    (hk0 : Kept pk wq H z0 s) : Kept pk wq H z0 (State.bootPorts s) := by
  unfold State.bootPorts
  repeat' (first
    | with_reducible assumption | exact held_sub hH rfl | exact held_one hH rfl | exact fldOk rfl
    | with_reducible refine State.setFld_kept ?_ ?_ ?_ | with_reducible refine State.startTraining_kept ?_ ?_
    | with_reducible refine foldl_kept ?_ ?_ | with_reducible refine ite_kept ?_ ?_
    | with_reducible refine iteP_kept ?_ ?_ | with_reducible refine foldlP_kept ?_ ?_
    | with_reducible refine foldlP_kept' (by with_reducible assumption) ?_ ?_ | with_reducible intro _ | dsimp only
    | split)

theorem State.i3cReads_kept {s : State} (hH : ∀ x ∈ ([.mctp] : List Portion), H x = false) (hk0 : Kept pk wq H z0 s) :
    Kept pk wq H z0 (State.i3cReads s) := by
  have hMctp : H .mctp = false := held_one hH rfl
  unfold State.i3cReads
  repeat' (first
    | with_reducible assumption | with_reducible refine ite_kept ?_ ?_
    | simp only [Kept.frame_iff, hMctp, and_self, true_or, or_true] | with_reducible intro _ | dsimp only | split)

theorem State.idles_kept {s : State}
    (hH : ∀ x ∈ ([.ports, .mctp, .counts, .ticks, .block .str, .block .jl] : List Portion), H x = false)
    (hk0 : Kept pk wq H z0 s) : Kept pk wq H z0 (State.idles s) := by
  unfold State.idles
  repeat' (first
    | with_reducible assumption | exact held_sub hH rfl | exact held_one hH rfl | exact fldOk rfl
    | with_reducible refine State.idleTick_kept ?_ ?_ | with_reducible refine State.bootPorts_kept ?_ ?_
    | with_reducible refine State.i3cReads_kept ?_ ?_ | with_reducible refine ite_kept ?_ ?_ | with_reducible intro _
    | dsimp only | split)

theorem State.boots_kept {s : State} {mlCaps : List Nat} {mlBad : List Nat}
    (hH : ∀ x ∈ ([.mem, .ports, .egress, .lanes, .mctp, .jnl, .armed, .watchdogs, .block .str, .block .mem, .block .jl, .block .sec, .block .hbr] : List Portion), H x = false)
    (hk0 : Kept pk wq H z0 s) : Kept pk wq H z0 (State.boots s mlCaps mlBad) := by
  have hWatchdogs : H .watchdogs = false := held_one hH rfl
  unfold State.boots
  repeat' (first
    | with_reducible assumption | exact held_sub hH rfl | exact held_one hH rfl | exact fldOk rfl
    | with_reducible refine State.setFld_kept ?_ ?_ ?_ | with_reducible refine State.journal_kept ?_ ?_
    | with_reducible refine State.straitUp_kept ?_ ?_ | with_reducible refine State.bootRepairs_kept ?_ ?_
    | with_reducible refine State.bootPort_kept ?_ ?_ | with_reducible refine State.activateTrial_kept ?_ ?_
    | with_reducible refine State.zeroFill_kept ?_ ?_ | with_reducible refine State.bootPorts_kept ?_ ?_
    | with_reducible refine foldl_kept ?_ ?_ | with_reducible refine getD_kept ?_ ?_
    | with_reducible refine ite_kept ?_ ?_ | with_reducible refine iteP_kept ?_ ?_
    | with_reducible refine foldlP_kept ?_ ?_
    | with_reducible refine foldlP_kept' (by with_reducible assumption) ?_ ?_
    | simp only [Kept.frame_iff, hWatchdogs, and_self, true_or, or_true] | with_reducible intro _ | dsimp only
    | split)

theorem execBootReady_kept {mlCaps : List Nat} {mlBad : List Nat} {s : State}
    (hH : ∀ x ∈ ([.mem, .islets, .fns, .optim, .queues, .jobs, .reefs, .ports, .egress, .lead, .actions, .gov, .lanes, .pins, .jtag, .mctp, .jnl, .armed, .watchdogs, .counts, .ticks, .block .str, .block .img, .block .isl, .block .mem, .block .pipe, .block .reef, .block .jl, .block .red, .block .opt, .block .svc, .block .sec, .block .hbr] : List Portion), H x = false)
    (hk0 : Kept pk wq H z0 s) : Kept.Outcome pk wq H z0 (execBootReady mlCaps mlBad s) := by
  unfold execBootReady
  repeat' (first
    | with_reducible assumption | exact held_sub hH rfl | exact held_one hH rfl | exact fldOk rfl
    | with_reducible refine State.trialFails_kept ?_ ?_ | with_reducible refine State.boots_kept ?_ ?_
    | with_reducible refine ite_kept ?_ ?_ | with_reducible refine iteO_kept ?_ ?_
    | with_reducible refine Kept.next ?_ | with_reducible intro _ | dsimp only | split)

theorem State.fwAsks_kept {s : State} (hH : ∀ x ∈ ([.egress, .lanes, .armed, .block .jl] : List Portion), H x = false)
    (hk0 : Kept pk wq H z0 s) : Kept pk wq H z0 (State.fwAsks s) := by
  unfold State.fwAsks
  repeat' (first
    | with_reducible assumption | exact held_sub hH rfl | exact held_one hH rfl | exact fldOk rfl
    | with_reducible refine State.hostRead_kept ?_ ?_ | with_reducible refine ite_kept ?_ ?_
    | simp only [Kept.frame_iff, and_self, true_or, or_true] | with_reducible intro _ | dsimp only | split)

theorem State.stageFw_kept {s : State} {addr : Nat}
    (hH : ∀ x ∈ ([.egress, .lanes, .armed, .block .jl, .block .hbr] : List Portion), H x = false)
    (hk0 : Kept pk wq H z0 s) : Kept pk wq H z0 (State.stageFw s addr) := by
  unfold State.stageFw
  repeat' (first
    | with_reducible assumption | exact held_sub hH rfl | exact held_one hH rfl | exact fldOk rfl
    | with_reducible refine State.setFld_kept ?_ ?_ ?_ | with_reducible refine State.fwAsks_kept ?_ ?_
    | with_reducible refine ite_kept ?_ ?_ | simp only [Kept.frame_iff, and_self, true_or, or_true]
    | with_reducible intro _ | dsimp only | split)

theorem State.cancelFw_kept {s : State}
    (hH : ∀ x ∈ ([.egress, .mctp, .armed, .block .jl, .block .sec, .block .hbr] : List Portion), H x = false)
    (hk0 : Kept pk wq H z0 s) : Kept pk wq H z0 (State.cancelFw s) := by
  unfold State.cancelFw
  repeat' (first
    | with_reducible assumption | exact held_sub hH rfl | exact held_one hH rfl | exact fldOk rfl
    | with_reducible refine State.hbrEvent_kept ?_ ?_ ?_ ?_ | with_reducible refine State.journal_kept ?_ ?_
    | with_reducible refine State.setStaged_kept ?_ ?_ | with_reducible refine getD_kept ?_ ?_
    | simp only [Kept.frame_iff, and_self, true_or, or_true] | with_reducible intro _ | dsimp only | split)

theorem State.writeFwCtl_kept {s : State} {fn : Nat} {w : Word}
    (hH : ∀ x ∈ ([.egress, .lanes, .mctp, .armed, .block .jl, .block .sec, .block .hbr] : List Portion), H x = false)
    (hk0 : Kept pk wq H z0 s) : Kept pk wq H z0 (State.writeFwCtl s fn w) := by
  unfold State.writeFwCtl
  repeat' (first
    | with_reducible assumption | exact held_sub hH rfl | exact held_one hH rfl | exact fldOk rfl
    | with_reducible refine State.stageFw_kept ?_ ?_ | with_reducible refine State.cancelFw_kept ?_ ?_
    | with_reducible refine ite_kept ?_ ?_ | with_reducible intro _ | dsimp only | split)

theorem execFwStage_kept {fn : Nat} {w : Word} {s : State}
    (hH : ∀ x ∈ ([.egress, .lanes, .mctp, .armed, .block .jl, .block .sec, .block .hbr] : List Portion), H x = false)
    (hk0 : Kept pk wq H z0 s) : Kept.Outcome pk wq H z0 (execFwStage fn w s) := by
  unfold execFwStage
  repeat' (first
    | with_reducible assumption | exact held_sub hH rfl | exact held_one hH rfl | exact fldOk rfl
    | with_reducible refine State.writeFwCtl_kept ?_ ?_ | with_reducible refine iteO_kept ?_ ?_
    | with_reducible refine Kept.next ?_ | with_reducible intro _ | dsimp only | split)

theorem execFwCancel_kept {fn : Nat} {w : Word} {s : State}
    (hH : ∀ x ∈ ([.egress, .lanes, .mctp, .armed, .block .jl, .block .sec, .block .hbr] : List Portion), H x = false)
    (hk0 : Kept pk wq H z0 s) : Kept.Outcome pk wq H z0 (execFwCancel fn w s) := by
  unfold execFwCancel
  repeat' (first
    | with_reducible assumption | exact held_sub hH rfl | exact held_one hH rfl | exact fldOk rfl
    | with_reducible refine State.writeFwCtl_kept ?_ ?_ | with_reducible refine iteO_kept ?_ ?_
    | with_reducible refine Kept.next ?_ | with_reducible intro _ | dsimp only | split)

theorem State.fwStaged_kept {s : State} {img : List Byte}
    (hH : ∀ x ∈ ([.egress, .mctp, .armed, .block .jl, .block .sec, .block .hbr] : List Portion), H x = false)
    (hk0 : Kept pk wq H z0 s) : Kept pk wq H z0 (State.fwStaged s img) := by
  unfold State.fwStaged
  repeat' (first
    | with_reducible assumption | exact held_sub hH rfl | exact held_one hH rfl | exact fldOk rfl
    | with_reducible refine State.setFld_kept ?_ ?_ ?_ | with_reducible refine State.journal_kept ?_ ?_
    | with_reducible refine State.setStaged_kept ?_ ?_ | simp only [Kept.frame_iff, and_self, true_or, or_true]
    | with_reducible intro _ | dsimp only | split)

theorem State.fwRestages_kept {s : State} {head : List Byte}
    (hH : ∀ x ∈ ([.block .sec, .block .hbr] : List Portion), H x = false) (hk0 : Kept pk wq H z0 s) : Kept pk wq H z0
    (State.fwRestages s head) := by
  unfold State.fwRestages
  repeat' (first
    | with_reducible assumption | exact held_sub hH rfl | exact held_one hH rfl | exact fldOk rfl
    | with_reducible refine State.setStaged_kept ?_ ?_ | with_reducible refine ite_kept ?_ ?_
    | simp only [Kept.frame_iff, and_self, true_or, or_true] | with_reducible intro _ | dsimp only | split)

theorem State.fwUnchanged_kept {s : State} {k : Option Nat}
    (hH : ∀ x ∈ ([.block .sec, .block .hbr] : List Portion), H x = false) (hk0 : Kept pk wq H z0 s) : Kept pk wq H z0
    (State.fwUnchanged s k) := by
  unfold State.fwUnchanged
  repeat' (first
    | with_reducible assumption | exact held_sub hH rfl | exact held_one hH rfl | exact fldOk rfl
    | with_reducible refine State.setStaged_kept ?_ ?_ | with_reducible intro _ | dsimp only | split)

theorem State.fwStageEnds_kept {s : State}
    (hH : ∀ x ∈ ([.egress, .mctp, .armed, .block .jl, .block .hbr] : List Portion), H x = false)
    (hk0 : Kept pk wq H z0 s) : Kept pk wq H z0 (State.fwStageEnds s) := by
  unfold State.fwStageEnds
  repeat' (first
    | with_reducible assumption | exact held_sub hH rfl | exact held_one hH rfl | exact fldOk rfl
    | with_reducible refine State.setFld_kept ?_ ?_ ?_ | with_reducible refine State.hbrEvent_kept ?_ ?_ ?_ ?_
    | simp only [Kept.frame_iff, and_self, true_or, or_true] | with_reducible intro _ | dsimp only | split)

theorem State.fwRead_kept {s : State} {ans : Answer}
    (hH : ∀ x ∈ ([.egress, .mctp, .armed, .block .jl, .block .sec, .block .hbr] : List Portion), H x = false)
    (hk0 : Kept pk wq H z0 s) : Kept pk wq H z0 (State.fwRead s ans) := by
  unfold State.fwRead
  repeat' (first
    | with_reducible assumption | exact held_sub hH rfl | exact held_one hH rfl | exact fldOk rfl
    | with_reducible refine State.setFld_kept ?_ ?_ ?_ | with_reducible refine State.fwStaged_kept ?_ ?_
    | with_reducible refine State.fwUnchanged_kept ?_ ?_ | with_reducible refine State.fwStageEnds_kept ?_ ?_
    | with_reducible refine ite_kept ?_ ?_ | with_reducible intro _ | dsimp only | split)

theorem execFwStageDone_kept {ans : Answer} {s : State}
    (hH : ∀ x ∈ ([.egress, .lanes, .mctp, .armed, .block .jl, .block .sec, .block .hbr] : List Portion), H x = false)
    (hk0 : Kept pk wq H z0 s) : Kept.Outcome pk wq H z0 (execFwStageDone ans s) := by
  unfold execFwStageDone
  repeat' (first
    | with_reducible assumption | exact held_sub hH rfl | exact held_one hH rfl | exact fldOk rfl
    | with_reducible refine State.hostRead_kept ?_ ?_ | with_reducible refine State.hostAnswer_kept ?_ ?_
    | with_reducible refine State.fwAsks_kept ?_ ?_ | with_reducible refine State.fwRestages_kept ?_ ?_
    | with_reducible refine State.fwRead_kept ?_ ?_ | with_reducible refine ite_kept ?_ ?_
    | with_reducible refine iteO_kept ?_ ?_
    | with_reducible refine State.hostAnswer_kept' (by with_reducible assumption) ?_ ?_
    | simp only [Kept.frame_iff, and_self, true_or, or_true] | with_reducible refine Kept.next ?_
    | with_reducible intro _ | dsimp only | split)

end Sys2Proof.Machine
end

