-- ==== Sys2Proof/Laws/KeptMctp.lean ====
section
/-! SUPPORT. What the operations of Mctp.lean keep. -/

namespace Sys2Proof.Machine
open Sys2Proof

variable {pk : Package} {wq : List Instr} {H : Portion → Bool} {z0 : State}

theorem State.mctpPacket_kept {s : State} {bind : Nat} {pkt : List Byte}
    (hH : ∀ x ∈ ([.mctp] : List Portion), H x = false) (hk0 : Kept pk wq H z0 s) : Kept pk wq H z0
    (State.mctpPacket s bind pkt) := by
  have hMctp : H .mctp = false := held_one hH rfl
  unfold State.mctpPacket
  repeat' (first
    | with_reducible assumption | with_reducible refine ite_kept ?_ ?_
    | simp only [Kept.frame_iff, hMctp, and_self, true_or, or_true] | with_reducible intro _ | dsimp only | split)

theorem State.mctpTake_kept {s : State} {bind : Nat} {req : List Byte}
    (hH : ∀ x ∈ ([.mctp, .block .hbr] : List Portion), H x = false) (hk0 : Kept pk wq H z0 s) : KeptSome pk wq H z0
    (State.mctpTake s bind req) := by
  have hMctp : H .mctp = false := held_one hH rfl
  unfold State.mctpTake
  repeat' (first
    | with_reducible assumption | exact held_sub hH rfl | exact held_one hH rfl | exact fldOk rfl
    | with_reducible refine State.setFld_kept ?_ ?_ ?_ | with_reducible refine ite_kept ?_ ?_
    | with_reducible refine iteS_kept ?_ ?_ | simp only [Kept.frame_iff, hMctp, and_self, true_or, or_true]
    | with_reducible exact KeptSome.none | with_reducible refine KeptSome.some ?_
    | with_reducible refine KeptIn.some ?_ | with_reducible exact KeptIn.none | with_reducible intro _ | dsimp only
    | split)
theorem State.mctpTake_kept' {s : State} {bind : Nat} {req : List Byte} {t} (e : State.mctpTake s bind req = some t)
    (hH : ∀ x ∈ ([.mctp, .block .hbr] : List Portion), H x = false) (hk0 : Kept pk wq H z0 s) : Kept pk wq H z0 t :=
  State.mctpTake_kept hH hk0 _ e

theorem State.mctpServe_kept {s : State} {bind : Nat} {req : List Byte} {kind : List Byte → Bool}
    {f : State → List Byte → State × List Byte}
    (hH : ∀ x ∈ ([.egress, .mctp, .armed, .block .jl, .block .hbr] : List Portion), H x = false)
    (hk0 : Kept pk wq H z0 s) (hf : ∀ s0 x1, Kept pk wq H z0 s0 → Kept pk wq H z0 (f s0 x1).1) : Kept.Outcome pk wq H
    z0 (State.mctpServe s bind req kind f) := by
  unfold State.mctpServe
  repeat' (first
    | with_reducible assumption | exact held_sub hH rfl | exact held_one hH rfl | exact fldOk rfl
    | with_reducible refine State.mctpSend_kept ?_ ?_ | with_reducible refine State.mctpTake_kept ?_ ?_
    | with_reducible apply hf | with_reducible refine ite_kept ?_ ?_ | with_reducible refine iteO_kept ?_ ?_
    | with_reducible refine State.mctpTake_kept' (by with_reducible assumption) ?_ ?_
    | with_reducible refine Kept.next ?_ | with_reducible intro _ | dsimp only | split)

theorem execSetEndpointId_kept {bind : Nat} {req : List Byte} {s : State}
    (hH : ∀ x ∈ ([.egress, .mctp, .armed, .block .jl, .block .hbr] : List Portion), H x = false)
    (hk0 : Kept pk wq H z0 s) : Kept.Outcome pk wq H z0 (execSetEndpointId bind req s) := by
  have hMctp : H .mctp = false := held_one hH rfl
  unfold execSetEndpointId
  repeat' (first
    | with_reducible assumption | exact held_sub hH rfl | exact held_one hH rfl | exact fldOk rfl
    | with_reducible refine State.mctpServe_kept ?_ ?_ ?_ | with_reducible refine ite_kept ?_ ?_
    | with_reducible refine iteO_kept ?_ ?_
    | with_reducible refine Kept.out (State.mctpServe_kept ?_ ?_ ?_) (by with_reducible assumption)
    | simp only [Kept.frame_iff, hMctp, and_self, true_or, or_true] | with_reducible refine Kept.next ?_
    | with_reducible intro _ | dsimp only | split)

theorem execGetEndpointId_kept {bind : Nat} {req : List Byte} {s : State}
    (hH : ∀ x ∈ ([.egress, .mctp, .armed, .block .jl, .block .hbr] : List Portion), H x = false)
    (hk0 : Kept pk wq H z0 s) : Kept.Outcome pk wq H z0 (execGetEndpointId bind req s) := by
  unfold execGetEndpointId
  repeat' (first
    | with_reducible assumption | exact held_sub hH rfl | exact held_one hH rfl | exact fldOk rfl
    | with_reducible refine State.mctpServe_kept ?_ ?_ ?_ | with_reducible refine iteO_kept ?_ ?_
    | with_reducible refine Kept.out (State.mctpServe_kept ?_ ?_ ?_) (by with_reducible assumption)
    | with_reducible refine Kept.next ?_ | with_reducible intro _ | dsimp only | split)

theorem execGetMctpVersionSupport_kept {bind : Nat} {req : List Byte} {s : State}
    (hH : ∀ x ∈ ([.egress, .mctp, .armed, .block .jl, .block .hbr] : List Portion), H x = false)
    (hk0 : Kept pk wq H z0 s) : Kept.Outcome pk wq H z0 (execGetMctpVersionSupport bind req s) := by
  unfold execGetMctpVersionSupport
  repeat' (first
    | with_reducible assumption | exact held_sub hH rfl | exact held_one hH rfl | exact fldOk rfl
    | with_reducible refine State.mctpServe_kept ?_ ?_ ?_ | with_reducible refine ite_kept ?_ ?_
    | with_reducible refine iteO_kept ?_ ?_
    | with_reducible refine Kept.out (State.mctpServe_kept ?_ ?_ ?_) (by with_reducible assumption)
    | with_reducible refine Kept.next ?_ | with_reducible intro _ | dsimp only | split)

theorem execGetMessageTypeSupport_kept {bind : Nat} {req : List Byte} {s : State}
    (hH : ∀ x ∈ ([.egress, .mctp, .armed, .block .jl, .block .hbr] : List Portion), H x = false)
    (hk0 : Kept pk wq H z0 s) : Kept.Outcome pk wq H z0 (execGetMessageTypeSupport bind req s) := by
  unfold execGetMessageTypeSupport
  repeat' (first
    | with_reducible assumption | exact held_sub hH rfl | exact held_one hH rfl | exact fldOk rfl
    | with_reducible refine State.mctpServe_kept ?_ ?_ ?_ | with_reducible refine iteO_kept ?_ ?_
    | with_reducible refine Kept.out (State.mctpServe_kept ?_ ?_ ?_) (by with_reducible assumption)
    | with_reducible refine Kept.next ?_ | with_reducible intro _ | dsimp only | split)

theorem State.pldmServe_kept {s : State} {bind : Nat} {req : List Byte} {type : Nat} {cmd : Nat}
    {f : State → List Byte → State × Nat × List Byte}
    (hH : ∀ x ∈ ([.egress, .mctp, .armed, .block .jl, .block .hbr] : List Portion), H x = false)
    (hk0 : Kept pk wq H z0 s) (hf : ∀ s0 x1, Kept pk wq H z0 s0 → Kept pk wq H z0 (f s0 x1).1) : Kept.Outcome pk wq H
    z0 (State.pldmServe s bind req type cmd f) := by
  unfold State.pldmServe
  repeat' (first
    | with_reducible assumption | exact held_sub hH rfl | exact held_one hH rfl | exact fldOk rfl
    | with_reducible refine State.mctpServe_kept ?_ ?_ ?_ | with_reducible apply hf
    | with_reducible refine ite_kept ?_ ?_ | with_reducible refine iteO_kept ?_ ?_
    | with_reducible refine Kept.out (State.mctpServe_kept ?_ ?_ ?_) (by with_reducible assumption)
    | with_reducible refine Kept.next ?_ | with_reducible intro _ | dsimp only | split)

theorem execGetTid_kept {bind : Nat} {req : List Byte} {s : State}
    (hH : ∀ x ∈ ([.egress, .mctp, .armed, .block .jl, .block .hbr] : List Portion), H x = false)
    (hk0 : Kept pk wq H z0 s) : Kept.Outcome pk wq H z0 (execGetTid bind req s) := by
  unfold execGetTid
  repeat' (first
    | with_reducible assumption | exact held_sub hH rfl | exact held_one hH rfl | exact fldOk rfl
    | with_reducible refine State.pldmServe_kept ?_ ?_ ?_ | with_reducible refine iteO_kept ?_ ?_
    | with_reducible refine Kept.out (State.pldmServe_kept ?_ ?_ ?_) (by with_reducible assumption)
    | with_reducible refine Kept.next ?_ | with_reducible intro _ | dsimp only | split)

theorem execSetTid_kept {bind : Nat} {req : List Byte} {s : State}
    (hH : ∀ x ∈ ([.egress, .mctp, .armed, .block .jl, .block .hbr] : List Portion), H x = false)
    (hk0 : Kept pk wq H z0 s) : Kept.Outcome pk wq H z0 (execSetTid bind req s) := by
  have hMctp : H .mctp = false := held_one hH rfl
  unfold execSetTid
  repeat' (first
    | with_reducible assumption | exact held_sub hH rfl | exact held_one hH rfl | exact fldOk rfl
    | with_reducible refine State.pldmServe_kept ?_ ?_ ?_ | with_reducible refine ite_kept ?_ ?_
    | with_reducible refine iteO_kept ?_ ?_
    | with_reducible refine Kept.out (State.pldmServe_kept ?_ ?_ ?_) (by with_reducible assumption)
    | simp only [Kept.frame_iff, hMctp, and_self, true_or, or_true] | with_reducible refine Kept.next ?_
    | with_reducible intro _ | dsimp only | split)

theorem execGetPldmVersion_kept {bind : Nat} {req : List Byte} {s : State}
    (hH : ∀ x ∈ ([.egress, .mctp, .armed, .block .jl, .block .hbr] : List Portion), H x = false)
    (hk0 : Kept pk wq H z0 s) : Kept.Outcome pk wq H z0 (execGetPldmVersion bind req s) := by
  unfold execGetPldmVersion
  repeat' (first
    | with_reducible assumption | exact held_sub hH rfl | exact held_one hH rfl | exact fldOk rfl
    | with_reducible refine State.drawBytes_kept ?_ | with_reducible refine State.pldmServe_kept ?_ ?_ ?_
    | with_reducible refine ite_kept ?_ ?_ | with_reducible refine iteO_kept ?_ ?_
    | with_reducible refine State.drawBytes_kept' (by with_reducible assumption) ?_
    | with_reducible refine Kept.out (State.pldmServe_kept ?_ ?_ ?_) (by with_reducible assumption)
    | with_reducible refine Kept.next ?_ | with_reducible intro _ | dsimp only | split)

theorem execGetPldmTypes_kept {bind : Nat} {req : List Byte} {s : State}
    (hH : ∀ x ∈ ([.egress, .mctp, .armed, .block .jl, .block .hbr] : List Portion), H x = false)
    (hk0 : Kept pk wq H z0 s) : Kept.Outcome pk wq H z0 (execGetPldmTypes bind req s) := by
  unfold execGetPldmTypes
  repeat' (first
    | with_reducible assumption | exact held_sub hH rfl | exact held_one hH rfl | exact fldOk rfl
    | with_reducible refine State.pldmServe_kept ?_ ?_ ?_ | with_reducible refine iteO_kept ?_ ?_
    | with_reducible refine Kept.out (State.pldmServe_kept ?_ ?_ ?_) (by with_reducible assumption)
    | with_reducible refine Kept.next ?_ | with_reducible intro _ | dsimp only | split)

theorem execGetPldmCommands_kept {bind : Nat} {req : List Byte} {s : State}
    (hH : ∀ x ∈ ([.egress, .mctp, .armed, .block .jl, .block .hbr] : List Portion), H x = false)
    (hk0 : Kept pk wq H z0 s) : Kept.Outcome pk wq H z0 (execGetPldmCommands bind req s) := by
  unfold execGetPldmCommands
  repeat' (first
    | with_reducible assumption | exact held_sub hH rfl | exact held_one hH rfl | exact fldOk rfl
    | with_reducible refine State.pldmServe_kept ?_ ?_ ?_ | with_reducible refine ite_kept ?_ ?_
    | with_reducible refine iteO_kept ?_ ?_
    | with_reducible refine Kept.out (State.pldmServe_kept ?_ ?_ ?_) (by with_reducible assumption)
    | with_reducible refine Kept.next ?_ | with_reducible intro _ | dsimp only | split)

theorem State.numericReading_kept {s : State} {id : Nat} (hk0 : Kept pk wq H z0 s) : Kept pk wq H z0
    (State.numericReading s id).1 := by
  unfold State.numericReading
  repeat' (first
    | with_reducible assumption | with_reducible refine State.drawn_kept ?_ | with_reducible refine id_kept ?_
    | with_reducible refine ite_kept ?_ ?_ | with_reducible refine iteP_kept ?_ ?_ | with_reducible intro _
    | dsimp only | split)
theorem State.numericReading_kept' {s : State} {id : Nat} {t z} (e : State.numericReading s id = (t, z))
    (hk0 : Kept pk wq H z0 s) : Kept pk wq H z0 t := by
  have k : Kept pk wq H z0 (State.numericReading s id).1 := State.numericReading_kept hk0
  rw [e] at k; exact k

theorem execGetPdrRepositoryInfo_kept {bind : Nat} {req : List Byte} {s : State}
    (hH : ∀ x ∈ ([.egress, .mctp, .armed, .block .jl, .block .hbr] : List Portion), H x = false)
    (hk0 : Kept pk wq H z0 s) : Kept.Outcome pk wq H z0 (execGetPdrRepositoryInfo bind req s) := by
  unfold execGetPdrRepositoryInfo
  repeat' (first
    | with_reducible assumption | exact held_sub hH rfl | exact held_one hH rfl | exact fldOk rfl
    | with_reducible refine State.drawBytes_kept ?_ | with_reducible refine State.pldmServe_kept ?_ ?_ ?_
    | with_reducible refine iteO_kept ?_ ?_
    | with_reducible refine State.drawBytes_kept' (by with_reducible assumption) ?_
    | with_reducible refine Kept.out (State.pldmServe_kept ?_ ?_ ?_) (by with_reducible assumption)
    | with_reducible refine Kept.next ?_ | with_reducible intro _ | dsimp only | split)

theorem execGetPdr_kept {bind : Nat} {req : List Byte} {s : State}
    (hH : ∀ x ∈ ([.egress, .mctp, .armed, .block .jl, .block .hbr] : List Portion), H x = false)
    (hk0 : Kept pk wq H z0 s) : Kept.Outcome pk wq H z0 (execGetPdr bind req s) := by
  unfold execGetPdr
  repeat' (first
    | with_reducible assumption | exact held_sub hH rfl | exact held_one hH rfl | exact fldOk rfl
    | with_reducible refine State.drawn_kept ?_ | with_reducible refine State.drawBytes_kept ?_
    | with_reducible refine State.pldmServe_kept ?_ ?_ ?_ | with_reducible refine ite_kept ?_ ?_
    | with_reducible refine iteO_kept ?_ ?_
    | with_reducible refine State.drawBytes_kept' (by with_reducible assumption) ?_
    | with_reducible refine Kept.out (State.pldmServe_kept ?_ ?_ ?_) (by with_reducible assumption)
    | with_reducible refine Kept.next ?_ | with_reducible intro _ | dsimp only | split)

theorem execGetSensorReading_kept {bind : Nat} {req : List Byte} {s : State}
    (hH : ∀ x ∈ ([.egress, .mctp, .armed, .block .jl, .block .hbr] : List Portion), H x = false)
    (hk0 : Kept pk wq H z0 s) : Kept.Outcome pk wq H z0 (execGetSensorReading bind req s) := by
  unfold execGetSensorReading
  repeat' (first
    | with_reducible assumption | exact held_sub hH rfl | exact held_one hH rfl | exact fldOk rfl
    | with_reducible refine State.pldmServe_kept ?_ ?_ ?_ | with_reducible refine State.numericReading_kept ?_
    | with_reducible refine id_kept ?_ | with_reducible refine ite_kept ?_ ?_ | with_reducible refine iteO_kept ?_ ?_
    | with_reducible refine Kept.out (State.pldmServe_kept ?_ ?_ ?_) (by with_reducible assumption)
    | with_reducible refine State.numericReading_kept' (by with_reducible assumption) ?_
    | with_reducible refine Kept.next ?_ | with_reducible intro _ | dsimp only | split)

theorem execGetStateSensorReadings_kept {bind : Nat} {req : List Byte} {s : State}
    (hH : ∀ x ∈ ([.egress, .mctp, .armed, .block .jl, .block .hbr] : List Portion), H x = false)
    (hk0 : Kept pk wq H z0 s) : Kept.Outcome pk wq H z0 (execGetStateSensorReadings bind req s) := by
  unfold execGetStateSensorReadings
  repeat' (first
    | with_reducible assumption | exact held_sub hH rfl | exact held_one hH rfl | exact fldOk rfl
    | with_reducible refine State.drawBytes_kept ?_ | with_reducible refine State.pldmServe_kept ?_ ?_ ?_
    | with_reducible refine id_kept ?_ | with_reducible refine ite_kept ?_ ?_ | with_reducible refine iteO_kept ?_ ?_
    | with_reducible refine State.drawBytes_kept' (by with_reducible assumption) ?_
    | with_reducible refine Kept.out (State.pldmServe_kept ?_ ?_ ?_) (by with_reducible assumption)
    | with_reducible refine Kept.next ?_ | with_reducible intro _ | dsimp only | split)

theorem execPldmUnsupported_kept {bind : Nat} {req : List Byte} {s : State}
    (hH : ∀ x ∈ ([.egress, .mctp, .armed, .block .jl, .block .hbr] : List Portion), H x = false)
    (hk0 : Kept pk wq H z0 s) : Kept.Outcome pk wq H z0 (execPldmUnsupported bind req s) := by
  unfold execPldmUnsupported
  repeat' (first
    | with_reducible assumption | exact held_sub hH rfl | exact held_one hH rfl | exact fldOk rfl
    | with_reducible refine State.mctpServe_kept ?_ ?_ ?_ | with_reducible refine ite_kept ?_ ?_
    | with_reducible refine iteO_kept ?_ ?_
    | with_reducible refine Kept.out (State.mctpServe_kept ?_ ?_ ?_) (by with_reducible assumption)
    | with_reducible refine Kept.next ?_ | with_reducible intro _ | dsimp only | split)

theorem State.updateAnswer_kept {s : State} {req : List Byte}
    (hH : ∀ x ∈ ([.egress, .mctp, .armed, .block .jl, .block .hbr] : List Portion), H x = false)
    (hk0 : Kept pk wq H z0 s) : Kept pk wq H z0 (State.updateAnswer s req) := by
  unfold State.updateAnswer
  repeat' (first
    | with_reducible assumption | exact held_sub hH rfl | exact held_one hH rfl | exact fldOk rfl
    | with_reducible refine State.drawn_kept ?_ | with_reducible refine State.mctpSend_kept ?_ ?_
    | with_reducible refine State.drawBytes_kept ?_ | with_reducible refine State.mctpTake_kept ?_ ?_
    | with_reducible refine State.drawBytes_kept' (by with_reducible assumption) ?_
    | with_reducible refine State.mctpTake_kept' (by with_reducible assumption) ?_ ?_ | with_reducible intro _
    | dsimp only | split)

theorem execPldmFirmwareUpdate_kept {bind : Nat} {src : Nat} {s : State}
    (hH : ∀ x ∈ ([.egress, .lanes, .mctp, .armed, .block .jl, .block .hbr] : List Portion), H x = false)
    (hk0 : Kept pk wq H z0 s) : Kept.Outcome pk wq H z0 (execPldmFirmwareUpdate bind src s) := by
  unfold execPldmFirmwareUpdate
  repeat' (first
    | with_reducible assumption | exact held_sub hH rfl | exact held_one hH rfl | exact fldOk rfl
    | with_reducible refine State.stageFw_kept ?_ ?_ | with_reducible refine State.updateAnswer_kept ?_ ?_
    | with_reducible refine ite_kept ?_ ?_ | with_reducible refine iteO_kept ?_ ?_
    | with_reducible refine Kept.next ?_ | with_reducible intro _ | dsimp only | split)

theorem State.mailboxTakes_kept {s : State}
    (hH : ∀ x ∈ ([.egress, .mctp, .armed, .block .jl, .block .hbr] : List Portion), H x = false)
    (hk0 : Kept pk wq H z0 s) : Kept pk wq H z0 (State.mailboxTakes s) := by
  have hMctp : H .mctp = false := held_one hH rfl
  unfold State.mailboxTakes
  repeat' (first
    | with_reducible assumption | exact held_sub hH rfl | exact held_one hH rfl | exact fldOk rfl
    | with_reducible refine State.setFld_kept ?_ ?_ ?_ | with_reducible refine State.mctpSend_kept ?_ ?_
    | with_reducible refine ite_kept ?_ ?_ | simp only [Kept.frame_iff, hMctp, and_self, true_or, or_true]
    | with_reducible intro _ | dsimp only | split)

theorem State.writeMctpCtl_kept {s : State} {fn : Nat} {w : Word}
    (hH : ∀ x ∈ ([.egress, .mctp, .armed, .block .jl, .block .hbr] : List Portion), H x = false)
    (hk0 : Kept pk wq H z0 s) : Kept pk wq H z0 (State.writeMctpCtl s fn w) := by
  unfold State.writeMctpCtl
  repeat' (first
    | with_reducible assumption | exact held_sub hH rfl | exact held_one hH rfl | exact fldOk rfl
    | with_reducible refine State.setFld_kept ?_ ?_ ?_ | with_reducible refine State.writeReg_kept ?_ ?_
    | with_reducible refine State.mailboxFill_kept ?_ ?_ | with_reducible refine State.mctpPacket_kept ?_ ?_
    | with_reducible refine State.mailboxTakes_kept ?_ ?_ | with_reducible refine ite_kept ?_ ?_
    | with_reducible intro _ | dsimp only | split)

theorem execMctpInGo_kept {fn : Nat} {w : Word} {s : State}
    (hH : ∀ x ∈ ([.egress, .mctp, .armed, .block .jl, .block .hbr] : List Portion), H x = false)
    (hk0 : Kept pk wq H z0 s) : Kept.Outcome pk wq H z0 (execMctpInGo fn w s) := by
  unfold execMctpInGo
  repeat' (first
    | with_reducible assumption | exact held_sub hH rfl | exact held_one hH rfl | exact fldOk rfl
    | with_reducible refine State.writeMctpCtl_kept ?_ ?_ | with_reducible refine iteO_kept ?_ ?_
    | with_reducible refine Kept.next ?_ | with_reducible intro _ | dsimp only | split)

theorem execMctpOutAck_kept {fn : Nat} {w : Word} {s : State}
    (hH : ∀ x ∈ ([.egress, .mctp, .armed, .block .jl, .block .hbr] : List Portion), H x = false)
    (hk0 : Kept pk wq H z0 s) : Kept.Outcome pk wq H z0 (execMctpOutAck fn w s) := by
  unfold execMctpOutAck
  repeat' (first
    | with_reducible assumption | exact held_sub hH rfl | exact held_one hH rfl | exact fldOk rfl
    | with_reducible refine State.writeMctpCtl_kept ?_ ?_ | with_reducible refine iteO_kept ?_ ?_
    | with_reducible refine Kept.next ?_ | with_reducible intro _ | dsimp only | split)

end Sys2Proof.Machine
end

