-- ==== Sys2Proof/Laws/KeptPins.lean ====
section
/-! SUPPORT. What the operations of Pins.lean keep. -/

namespace Sys2Proof.Machine
open Sys2Proof

variable {pk : Package} {wq : List Instr} {H : Portion → Bool} {z0 : State}

theorem State.coldAssert_kept {s : State} {pins : Pins}
    (hH : ∀ x ∈ ([.mem, .islets, .fns, .optim, .queues, .jobs, .reefs, .ports, .egress, .lead, .actions, .gov, .lanes, .pins, .jtag, .mctp, .jnl, .armed, .watchdogs, .counts, .ticks, .block .str, .block .img, .block .isl, .block .mem, .block .pipe, .block .reef, .block .jl, .block .red, .block .opt, .block .svc, .block .sec, .block .hbr] : List Portion), H x = false)
    (hk0 : Kept pk wq H z0 s) : Kept pk wq H z0 (State.coldAssert s pins) := by
  have hPins : H .pins = false := held_one hH rfl
  unfold State.coldAssert
  repeat' (first
    | with_reducible assumption | exact held_sub hH rfl | exact held_one hH rfl | exact fldOk rfl
    | with_reducible refine State.portsReset_kept ?_ ?_ | with_reducible refine State.resetBase_kept ?_ ?_
    | simp only [Kept.frame_iff, hPins, and_self, true_or, or_true] | with_reducible intro _ | dsimp only | split)

theorem State.coldRelease_kept {s : State} {pins : Pins} {cause : Nat}
    (hH : ∀ x ∈ ([.egress, .pins, .mctp, .jnl, .armed, .block .jl, .block .sec, .block .hbr] : List Portion), H x = false)
    (hk0 : Kept pk wq H z0 s) : Kept pk wq H z0 (State.coldRelease s pins cause) := by
  have hPins : H .pins = false := held_one hH rfl
  unfold State.coldRelease
  repeat' (first
    | with_reducible assumption | exact held_sub hH rfl | exact held_one hH rfl | exact fldOk rfl
    | with_reducible refine State.bootStart_kept ?_ ?_ | with_reducible refine ite_kept ?_ ?_
    | simp only [Kept.frame_iff, hPins, and_self, true_or, or_true] | with_reducible intro _ | dsimp only | split)

theorem execResetNAssert_kept {s : State}
    (hH : ∀ x ∈ ([.mem, .islets, .fns, .optim, .queues, .jobs, .reefs, .ports, .egress, .lead, .actions, .gov, .lanes, .pins, .jtag, .mctp, .jnl, .armed, .watchdogs, .counts, .ticks, .block .str, .block .img, .block .isl, .block .mem, .block .pipe, .block .reef, .block .jl, .block .red, .block .opt, .block .svc, .block .sec, .block .hbr] : List Portion), H x = false)
    (hk0 : Kept pk wq H z0 s) : Kept.Outcome pk wq H z0 (execResetNAssert s) := by
  unfold execResetNAssert
  repeat' (first
    | with_reducible assumption | exact held_sub hH rfl | exact held_one hH rfl | exact fldOk rfl
    | with_reducible refine State.coldAssert_kept ?_ ?_ | with_reducible refine ite_kept ?_ ?_
    | with_reducible refine iteO_kept ?_ ?_ | simp only [Kept.frame_iff, and_self, true_or, or_true]
    | with_reducible refine Kept.next ?_ | with_reducible intro _ | dsimp only | split)

theorem execResetNRelease_kept {s : State}
    (hH : ∀ x ∈ ([.egress, .pins, .mctp, .jnl, .armed, .block .jl, .block .sec, .block .hbr] : List Portion), H x = false)
    (hk0 : Kept pk wq H z0 s) : Kept.Outcome pk wq H z0 (execResetNRelease s) := by
  unfold execResetNRelease
  repeat' (first
    | with_reducible assumption | exact held_sub hH rfl | exact held_one hH rfl | exact fldOk rfl
    | with_reducible refine State.coldRelease_kept ?_ ?_ | with_reducible refine ite_kept ?_ ?_
    | with_reducible refine iteO_kept ?_ ?_ | simp only [Kept.frame_iff, and_self, true_or, or_true]
    | with_reducible refine Kept.next ?_ | with_reducible intro _ | dsimp only | split)

theorem execPwrGoodNAssert_kept {s : State}
    (hH : ∀ x ∈ ([.mem, .islets, .fns, .optim, .queues, .jobs, .reefs, .ports, .egress, .lead, .actions, .gov, .lanes, .pins, .jtag, .mctp, .jnl, .armed, .watchdogs, .counts, .ticks, .block .str, .block .img, .block .isl, .block .mem, .block .pipe, .block .reef, .block .jl, .block .red, .block .opt, .block .svc, .block .sec, .block .hbr] : List Portion), H x = false)
    (hk0 : Kept pk wq H z0 s) : Kept.Outcome pk wq H z0 (execPwrGoodNAssert s) := by
  unfold execPwrGoodNAssert
  repeat' (first
    | with_reducible assumption | exact held_sub hH rfl | exact held_one hH rfl | exact fldOk rfl
    | with_reducible refine State.coldAssert_kept ?_ ?_ | with_reducible refine ite_kept ?_ ?_
    | with_reducible refine iteO_kept ?_ ?_ | simp only [Kept.frame_iff, and_self, true_or, or_true]
    | with_reducible refine Kept.next ?_ | with_reducible intro _ | dsimp only | split)

theorem execPwrGoodNRelease_kept {s : State}
    (hH : ∀ x ∈ ([.egress, .pins, .mctp, .jnl, .armed, .block .jl, .block .sec, .block .hbr] : List Portion), H x = false)
    (hk0 : Kept pk wq H z0 s) : Kept.Outcome pk wq H z0 (execPwrGoodNRelease s) := by
  unfold execPwrGoodNRelease
  repeat' (first
    | with_reducible assumption | exact held_sub hH rfl | exact held_one hH rfl | exact fldOk rfl
    | with_reducible refine State.coldRelease_kept ?_ ?_ | with_reducible refine ite_kept ?_ ?_
    | with_reducible refine iteO_kept ?_ ?_ | simp only [Kept.frame_iff, and_self, true_or, or_true]
    | with_reducible refine Kept.next ?_ | with_reducible intro _ | dsimp only | split)

theorem execTestEnAssert_kept {s : State}
    (hH : ∀ x ∈ ([.mem, .islets, .fns, .optim, .queues, .jobs, .reefs, .ports, .egress, .lead, .actions, .gov, .lanes, .pins, .jtag, .mctp, .jnl, .armed, .watchdogs, .counts, .ticks, .block .str, .block .img, .block .isl, .block .mem, .block .pipe, .block .reef, .block .jl, .block .red, .block .opt, .block .svc, .block .sec, .block .hbr] : List Portion), H x = false)
    (hk0 : Kept pk wq H z0 s) : Kept.Outcome pk wq H z0 (execTestEnAssert s) := by
  unfold execTestEnAssert
  repeat' (first
    | with_reducible assumption | exact held_sub hH rfl | exact held_one hH rfl | exact fldOk rfl
    | with_reducible refine State.coldAssert_kept ?_ ?_ | with_reducible refine ite_kept ?_ ?_
    | with_reducible refine iteO_kept ?_ ?_ | simp only [Kept.frame_iff, and_self, true_or, or_true]
    | with_reducible refine Kept.next ?_ | with_reducible intro _ | dsimp only | split)

theorem execTestEnRelease_kept {s : State}
    (hH : ∀ x ∈ ([.egress, .pins, .mctp, .jnl, .armed, .block .jl, .block .sec, .block .hbr] : List Portion), H x = false)
    (hk0 : Kept pk wq H z0 s) : Kept.Outcome pk wq H z0 (execTestEnRelease s) := by
  unfold execTestEnRelease
  repeat' (first
    | with_reducible assumption | exact held_sub hH rfl | exact held_one hH rfl | exact fldOk rfl
    | with_reducible refine State.coldRelease_kept ?_ ?_ | with_reducible refine ite_kept ?_ ?_
    | with_reducible refine iteO_kept ?_ ?_ | simp only [Kept.frame_iff, and_self, true_or, or_true]
    | with_reducible refine Kept.next ?_ | with_reducible intro _ | dsimp only | split)

theorem execRefclkFault_kept {s : State} (hk0 : Kept pk wq H z0 s) : Kept.Outcome pk wq H z0 (execRefclkFault s) := by
  unfold execRefclkFault
  repeat' (first
    | with_reducible assumption | with_reducible refine ite_kept ?_ ?_ | with_reducible refine iteO_kept ?_ ?_
    | with_reducible refine Kept.next ?_ | with_reducible exact Kept.fault | with_reducible intro _ | dsimp only
    | split)

theorem execPowerLoss_kept {s : State}
    (hH : ∀ x ∈ ([.mem, .islets, .fns, .optim, .queues, .jobs, .reefs, .ports, .egress, .lead, .actions, .gov, .lanes, .pins, .jtag, .mctp, .jnl, .armed, .watchdogs, .counts, .ticks, .block .str, .block .img, .block .isl, .block .mem, .block .pipe, .block .reef, .block .jl, .block .red, .block .opt, .block .svc, .block .sec, .block .hbr] : List Portion), H x = false)
    (hk0 : Kept pk wq H z0 s) : Kept.Outcome pk wq H z0 (execPowerLoss s) := by
  have hPins : H .pins = false := held_one hH rfl
  have hJtag : H .jtag = false := held_one hH rfl
  unfold execPowerLoss
  repeat' (first
    | with_reducible assumption | exact held_sub hH rfl | exact held_one hH rfl | exact fldOk rfl
    | with_reducible refine State.resetBase_kept ?_ ?_ | with_reducible refine iteO_kept ?_ ?_
    | simp only [Kept.frame_iff, hPins, hJtag, and_self, true_or, or_true] | with_reducible refine Kept.next ?_
    | with_reducible intro _ | dsimp only | split)

theorem execEntdaa_kept {addr : Nat} {s : State} (hH : ∀ x ∈ ([.mctp] : List Portion), H x = false)
    (hk0 : Kept pk wq H z0 s) : Kept.Outcome pk wq H z0 (execEntdaa addr s) := by
  have hMctp : H .mctp = false := held_one hH rfl
  unfold execEntdaa
  repeat' (first
    | with_reducible assumption | with_reducible refine ite_kept ?_ ?_ | with_reducible refine iteO_kept ?_ ?_
    | simp only [Kept.frame_iff, hMctp, and_self, true_or, or_true] | with_reducible refine Kept.next ?_
    | with_reducible intro _ | dsimp only | split)

theorem execSetdasa_kept {static : Nat} {addr : Nat} {s : State} (hH : ∀ x ∈ ([.mctp] : List Portion), H x = false)
    (hk0 : Kept pk wq H z0 s) : Kept.Outcome pk wq H z0 (execSetdasa static addr s) := by
  have hMctp : H .mctp = false := held_one hH rfl
  unfold execSetdasa
  repeat' (first
    | with_reducible assumption | with_reducible refine ite_kept ?_ ?_ | with_reducible refine iteO_kept ?_ ?_
    | simp only [Kept.frame_iff, hMctp, and_self, true_or, or_true] | with_reducible refine Kept.next ?_
    | with_reducible intro _ | dsimp only | split)

theorem State.jtagLoad_kept {s : State} {op : JtagOp} (hH : ∀ x ∈ ([.jtag] : List Portion), H x = false)
    (hk0 : Kept pk wq H z0 s) : Kept pk wq H z0 (State.jtagLoad s op) := by
  have hJtag : H .jtag = false := held_one hH rfl
  unfold State.jtagLoad
  repeat' (first
    | with_reducible assumption | simp only [Kept.frame_iff, hJtag, and_self, true_or, or_true]
    | with_reducible intro _ | dsimp only | split)

theorem State.jtagExtest_kept {s : State} {op : JtagOp} (hH : ∀ x ∈ ([.jtag] : List Portion), H x = false)
    (hk0 : Kept pk wq H z0 s) : Kept pk wq H z0 (State.jtagExtest s op) := by
  have hJtag : H .jtag = false := held_one hH rfl
  unfold State.jtagExtest
  repeat' (first
    | with_reducible assumption | exact held_sub hH rfl | exact held_one hH rfl | exact fldOk rfl
    | with_reducible refine State.drawn_kept ?_ | with_reducible refine State.jtagLoad_kept ?_ ?_
    | with_reducible refine mapFst_kept ?_ | with_reducible refine ite_kept ?_ ?_
    | simp only [Kept.frame_iff, hJtag, and_self, true_or, or_true] | with_reducible intro _ | dsimp only | split)

theorem execBypass_kept {s : State} (hH : ∀ x ∈ ([.jtag] : List Portion), H x = false) (hk0 : Kept pk wq H z0 s) :
    Kept.Outcome pk wq H z0 (execBypass s) := by
  unfold execBypass
  repeat' (first
    | with_reducible assumption | exact held_sub hH rfl | exact held_one hH rfl | exact fldOk rfl
    | with_reducible refine State.jtagLoad_kept ?_ ?_ | with_reducible refine iteO_kept ?_ ?_
    | with_reducible refine Kept.next ?_ | with_reducible intro _ | dsimp only | split)

theorem execIdcode_kept {s : State} (hH : ∀ x ∈ ([.jtag] : List Portion), H x = false) (hk0 : Kept pk wq H z0 s) :
    Kept.Outcome pk wq H z0 (execIdcode s) := by
  unfold execIdcode
  repeat' (first
    | with_reducible assumption | exact held_sub hH rfl | exact held_one hH rfl | exact fldOk rfl
    | with_reducible refine State.jtagLoad_kept ?_ ?_ | with_reducible refine iteO_kept ?_ ?_
    | with_reducible refine Kept.next ?_ | with_reducible intro _ | dsimp only | split)

theorem execSamplePreload_kept {preload : Option (List Bool)} {captured : List Bool} {s : State}
    (hH : ∀ x ∈ ([.jtag] : List Portion), H x = false) (hk0 : Kept pk wq H z0 s) : Kept.Outcome pk wq H z0
    (execSamplePreload preload captured s) := by
  have hJtag : H .jtag = false := held_one hH rfl
  unfold execSamplePreload
  repeat' (first
    | with_reducible assumption | with_reducible refine getD_kept ?_ ?_ | with_reducible refine iteO_kept ?_ ?_
    | simp only [Kept.frame_iff, hJtag, and_self, true_or, or_true] | with_reducible refine Kept.next ?_
    | with_reducible intro _ | dsimp only | split)

theorem execExtest_kept {s : State} (hH : ∀ x ∈ ([.jtag] : List Portion), H x = false) (hk0 : Kept pk wq H z0 s) :
    Kept.Outcome pk wq H z0 (execExtest s) := by
  unfold execExtest
  repeat' (first
    | with_reducible assumption | exact held_sub hH rfl | exact held_one hH rfl | exact fldOk rfl
    | with_reducible refine State.jtagExtest_kept ?_ ?_ | with_reducible refine iteO_kept ?_ ?_
    | with_reducible refine Kept.next ?_ | with_reducible intro _ | dsimp only | split)

theorem execClamp_kept {s : State} (hH : ∀ x ∈ ([.jtag] : List Portion), H x = false) (hk0 : Kept pk wq H z0 s) :
    Kept.Outcome pk wq H z0 (execClamp s) := by
  unfold execClamp
  repeat' (first
    | with_reducible assumption | exact held_sub hH rfl | exact held_one hH rfl | exact fldOk rfl
    | with_reducible refine State.jtagLoad_kept ?_ ?_ | with_reducible refine iteO_kept ?_ ?_
    | with_reducible refine Kept.next ?_ | with_reducible intro _ | dsimp only | split)

theorem execHighz_kept {s : State} (hH : ∀ x ∈ ([.jtag] : List Portion), H x = false) (hk0 : Kept pk wq H z0 s) :
    Kept.Outcome pk wq H z0 (execHighz s) := by
  unfold execHighz
  repeat' (first
    | with_reducible assumption | exact held_sub hH rfl | exact held_one hH rfl | exact fldOk rfl
    | with_reducible refine State.jtagLoad_kept ?_ ?_ | with_reducible refine iteO_kept ?_ ?_
    | with_reducible refine Kept.next ?_ | with_reducible intro _ | dsimp only | split)

theorem execExtestPulse_kept {s : State} (hH : ∀ x ∈ ([.jtag] : List Portion), H x = false) (hk0 : Kept pk wq H z0 s)
    : Kept.Outcome pk wq H z0 (execExtestPulse s) := by
  unfold execExtestPulse
  repeat' (first
    | with_reducible assumption | exact held_sub hH rfl | exact held_one hH rfl | exact fldOk rfl
    | with_reducible refine State.jtagExtest_kept ?_ ?_ | with_reducible refine iteO_kept ?_ ?_
    | with_reducible refine Kept.next ?_ | with_reducible intro _ | dsimp only | split)

theorem execExtestTrain_kept {s : State} (hH : ∀ x ∈ ([.jtag] : List Portion), H x = false) (hk0 : Kept pk wq H z0 s)
    : Kept.Outcome pk wq H z0 (execExtestTrain s) := by
  unfold execExtestTrain
  repeat' (first
    | with_reducible assumption | exact held_sub hH rfl | exact held_one hH rfl | exact fldOk rfl
    | with_reducible refine State.jtagExtest_kept ?_ ?_ | with_reducible refine iteO_kept ?_ ?_
    | with_reducible refine Kept.next ?_ | with_reducible intro _ | dsimp only | split)

end Sys2Proof.Machine
end

