-- ==== Sys2Proof/Laws/KeptTrust.lean ====
section
/-! SUPPORT. What the operations of Trust.lean keep. -/

namespace Sys2Proof.Machine
open Sys2Proof

variable {pk : Package} {wq : List Instr} {H : Portion → Bool} {z0 : State}

theorem State.spdmNotReady_kept {s : State} {m : List Byte} (hk0 : Kept pk wq H z0 s) : Kept pk wq H z0
    (State.spdmNotReady s m).1 := by
  unfold State.spdmNotReady
  repeat' (first
    | with_reducible assumption | with_reducible refine State.drawBytes_kept ?_
    | with_reducible refine iteP_kept ?_ ?_
    | with_reducible refine State.drawBytes_kept' (by with_reducible assumption) ?_ | with_reducible intro _
    | dsimp only | split)
theorem State.spdmNotReady_kept' {s : State} {m : List Byte} {t z} (e : State.spdmNotReady s m = (t, z))
    (hk0 : Kept pk wq H z0 s) : Kept pk wq H z0 t := by
  have k : Kept pk wq H z0 (State.spdmNotReady s m).1 := State.spdmNotReady_kept hk0
  rw [e] at k; exact k

theorem State.spdmServe_kept {s : State} {bind : Nat} {req : List Byte} {code : Nat} {need : Nat} {done : Nat}
    {f : State → List Byte → State × List Byte}
    (hH : ∀ x ∈ ([.fns, .egress, .mctp, .armed, .block .jl, .block .hbr] : List Portion), H x = false)
    (hk0 : Kept pk wq H z0 s) (hf : ∀ s0 x1, Kept pk wq H z0 s0 → Kept pk wq H z0 (f s0 x1).1) : Kept.Outcome pk wq H
    z0 (State.spdmServe s bind req code need done f) := by
  have hMctp : H .mctp = false := held_one hH rfl
  unfold State.spdmServe
  repeat' (first
    | with_reducible assumption | exact held_sub hH rfl | exact held_one hH rfl | exact fldOk rfl
    | with_reducible refine State.copyPage.done_kept ?_ ?_ | with_reducible refine State.mctpServe_kept ?_ ?_ ?_
    | with_reducible refine State.spdmNotReady_kept ?_ | with_reducible apply hf
    | with_reducible refine ite_kept ?_ ?_ | with_reducible refine iteO_kept ?_ ?_
    | with_reducible refine Kept.out (State.mctpServe_kept ?_ ?_ ?_) (by with_reducible assumption)
    | with_reducible refine State.spdmNotReady_kept' (by with_reducible assumption) ?_
    | simp only [Kept.frame_iff, hMctp, and_self, true_or, or_true] | with_reducible refine Kept.next ?_
    | with_reducible intro _ | dsimp only | split)

theorem execGetVersion_kept {bind : Nat} {req : List Byte} {s : State}
    (hH : ∀ x ∈ ([.fns, .egress, .mctp, .armed, .block .jl, .block .hbr] : List Portion), H x = false)
    (hk0 : Kept pk wq H z0 s) : Kept.Outcome pk wq H z0 (execGetVersion bind req s) := by
  unfold execGetVersion
  repeat' (first
    | with_reducible assumption | exact held_sub hH rfl | exact held_one hH rfl | exact fldOk rfl
    | with_reducible refine State.spdmServe_kept ?_ ?_ ?_ | with_reducible refine iteO_kept ?_ ?_
    | with_reducible refine Kept.out (State.spdmServe_kept ?_ ?_ ?_) (by with_reducible assumption)
    | with_reducible refine Kept.next ?_ | with_reducible intro _ | dsimp only | split)

theorem execGetCapabilities_kept {bind : Nat} {req : List Byte} {s : State}
    (hH : ∀ x ∈ ([.fns, .egress, .mctp, .armed, .block .jl, .block .hbr] : List Portion), H x = false)
    (hk0 : Kept pk wq H z0 s) : Kept.Outcome pk wq H z0 (execGetCapabilities bind req s) := by
  unfold execGetCapabilities
  repeat' (first
    | with_reducible assumption | exact held_sub hH rfl | exact held_one hH rfl | exact fldOk rfl
    | with_reducible refine State.drawBytes_kept ?_ | with_reducible refine State.spdmServe_kept ?_ ?_ ?_
    | with_reducible refine iteO_kept ?_ ?_
    | with_reducible refine State.drawBytes_kept' (by with_reducible assumption) ?_
    | with_reducible refine Kept.out (State.spdmServe_kept ?_ ?_ ?_) (by with_reducible assumption)
    | with_reducible refine Kept.next ?_ | with_reducible intro _ | dsimp only | split)

theorem execNegotiateAlgorithms_kept {bind : Nat} {req : List Byte} {s : State}
    (hH : ∀ x ∈ ([.fns, .egress, .mctp, .armed, .block .jl, .block .hbr] : List Portion), H x = false)
    (hk0 : Kept pk wq H z0 s) : Kept.Outcome pk wq H z0 (execNegotiateAlgorithms bind req s) := by
  unfold execNegotiateAlgorithms
  repeat' (first
    | with_reducible assumption | exact held_sub hH rfl | exact held_one hH rfl | exact fldOk rfl
    | with_reducible refine State.spdmServe_kept ?_ ?_ ?_ | with_reducible refine iteO_kept ?_ ?_
    | with_reducible refine Kept.out (State.spdmServe_kept ?_ ?_ ?_) (by with_reducible assumption)
    | with_reducible refine Kept.next ?_ | with_reducible intro _ | dsimp only | split)

theorem execGetDigests_kept {bind : Nat} {req : List Byte} {s : State}
    (hH : ∀ x ∈ ([.fns, .egress, .mctp, .armed, .block .jl, .block .hbr] : List Portion), H x = false)
    (hk0 : Kept pk wq H z0 s) : Kept.Outcome pk wq H z0 (execGetDigests bind req s) := by
  unfold execGetDigests
  repeat' (first
    | with_reducible assumption | exact held_sub hH rfl | exact held_one hH rfl | exact fldOk rfl
    | with_reducible refine State.spdmServe_kept ?_ ?_ ?_ | with_reducible refine iteO_kept ?_ ?_
    | with_reducible refine Kept.out (State.spdmServe_kept ?_ ?_ ?_) (by with_reducible assumption)
    | with_reducible refine Kept.next ?_ | with_reducible intro _ | dsimp only | split)

theorem execGetCertificate_kept {bind : Nat} {req : List Byte} {s : State}
    (hH : ∀ x ∈ ([.fns, .egress, .mctp, .armed, .block .jl, .block .hbr] : List Portion), H x = false)
    (hk0 : Kept pk wq H z0 s) : Kept.Outcome pk wq H z0 (execGetCertificate bind req s) := by
  unfold execGetCertificate
  repeat' (first
    | with_reducible assumption | exact held_sub hH rfl | exact held_one hH rfl | exact fldOk rfl
    | with_reducible refine State.spdmServe_kept ?_ ?_ ?_ | with_reducible refine ite_kept ?_ ?_
    | with_reducible refine iteO_kept ?_ ?_
    | with_reducible refine Kept.out (State.spdmServe_kept ?_ ?_ ?_) (by with_reducible assumption)
    | with_reducible refine Kept.next ?_ | with_reducible intro _ | dsimp only | split)

theorem execGetMeasurements_kept {bind : Nat} {req : List Byte} {s : State}
    (hH : ∀ x ∈ ([.fns, .egress, .mctp, .armed, .block .jl, .block .hbr] : List Portion), H x = false)
    (hk0 : Kept pk wq H z0 s) : Kept.Outcome pk wq H z0 (execGetMeasurements bind req s) := by
  unfold execGetMeasurements
  repeat' (first
    | with_reducible assumption | exact held_sub hH rfl | exact held_one hH rfl | exact fldOk rfl
    | with_reducible refine State.drawBytes_kept ?_ | with_reducible refine State.spdmServe_kept ?_ ?_ ?_
    | with_reducible refine ite_kept ?_ ?_ | with_reducible refine iteO_kept ?_ ?_
    | with_reducible refine State.drawBytes_kept' (by with_reducible assumption) ?_
    | with_reducible refine Kept.out (State.spdmServe_kept ?_ ?_ ?_) (by with_reducible assumption)
    | with_reducible refine Kept.next ?_ | with_reducible intro _ | dsimp only | split)

theorem execChallenge_kept {bind : Nat} {req : List Byte} {s : State}
    (hH : ∀ x ∈ ([.fns, .egress, .mctp, .armed, .block .jl, .block .hbr] : List Portion), H x = false)
    (hk0 : Kept pk wq H z0 s) : Kept.Outcome pk wq H z0 (execChallenge bind req s) := by
  unfold execChallenge
  repeat' (first
    | with_reducible assumption | exact held_sub hH rfl | exact held_one hH rfl | exact fldOk rfl
    | with_reducible refine State.drawBytes_kept ?_ | with_reducible refine State.spdmServe_kept ?_ ?_ ?_
    | with_reducible refine ite_kept ?_ ?_ | with_reducible refine iteO_kept ?_ ?_
    | with_reducible refine State.drawBytes_kept' (by with_reducible assumption) ?_
    | with_reducible refine Kept.out (State.spdmServe_kept ?_ ?_ ?_) (by with_reducible assumption)
    | with_reducible refine Kept.next ?_ | with_reducible intro _ | dsimp only | split)

theorem execSpdmUnsupported_kept {bind : Nat} {req : List Byte} {s : State}
    (hH : ∀ x ∈ ([.egress, .mctp, .armed, .block .jl, .block .hbr] : List Portion), H x = false)
    (hk0 : Kept pk wq H z0 s) : Kept.Outcome pk wq H z0 (execSpdmUnsupported bind req s) := by
  unfold execSpdmUnsupported
  repeat' (first
    | with_reducible assumption | exact held_sub hH rfl | exact held_one hH rfl | exact fldOk rfl
    | with_reducible refine State.mctpServe_kept ?_ ?_ ?_ | with_reducible refine State.spdmNotReady_kept ?_
    | with_reducible refine ite_kept ?_ ?_ | with_reducible refine iteO_kept ?_ ?_
    | with_reducible refine Kept.out (State.mctpServe_kept ?_ ?_ ?_) (by with_reducible assumption)
    | with_reducible refine State.spdmNotReady_kept' (by with_reducible assumption) ?_
    | with_reducible refine Kept.next ?_ | with_reducible intro _ | dsimp only | split)

end Sys2Proof.Machine
end

