-- ==== Sys2Proof/Laws/KeptVector.lean ====
section
/-! SUPPORT. What the operations of Vector.lean keep. -/

namespace Sys2Proof.Machine
open Sys2Proof

variable {pk : Package} {wq : List Instr} {H : Portion → Bool} {z0 : State}

theorem State.rowLengths_kept {s : State} {islet : Nat} {n : Nat} (hk0 : Kept pk wq H z0 s) : Kept pk wq H z0
    (State.rowLengths s islet n).1 := by
  unfold State.rowLengths
  repeat' (first
    | with_reducible assumption | with_reducible refine mapFst_kept ?_ | with_reducible refine ite_kept ?_ ?_
    | with_reducible refine iteP_kept ?_ ?_ | simp only [Kept.frame_iff, and_self, true_or, or_true]
    | with_reducible intro _ | dsimp only | split)
theorem State.rowLengths_kept' {s : State} {islet : Nat} {n : Nat} {t z} (e : State.rowLengths s islet n = (t, z))
    (hk0 : Kept pk wq H z0 s) : Kept pk wq H z0 t := by
  have k : Kept pk wq H z0 (State.rowLengths s islet n).1 := State.rowLengths_kept hk0
  rw [e] at k; exact k

theorem State.chainRuns_kept {s : State} {islet : Nat} {n : Nat} {flag : Nat} {rest : List (Nat × Nat)}
    (hH : ∀ x ∈ ([.islets, .block .isl] : List Portion), H x = false) (hk0 : Kept pk wq H z0 s) : Kept pk wq H z0
    (State.chainRuns s islet n flag rest) := by
  unfold State.chainRuns
  repeat' (first
    | with_reducible assumption | exact held_sub hH rfl | exact held_one hH rfl | exact fldOk rfl
    | with_reducible refine State.setFld_kept ?_ ?_ ?_ | with_reducible refine State.modIslet_kept ?_ ?_
    | with_reducible refine State.queueStat_kept ?_ ?_ | with_reducible refine State.rowLengths_kept ?_
    | with_reducible refine State.rowLengths_kept' (by with_reducible assumption) ?_
    | simp only [Kept.frame_iff, and_self, true_or, or_true] | with_reducible intro _ | dsimp only | split)

theorem execVxChainStart_kept {islet : Nat} {s : State}
    (hH : ∀ x ∈ ([.islets, .block .isl] : List Portion), H x = false) (hk0 : Kept pk wq H z0 s) : Kept.Outcome pk wq H
    z0 (execVxChainStart islet s) := by
  unfold execVxChainStart
  repeat' (first
    | with_reducible assumption | exact held_sub hH rfl | exact held_one hH rfl | exact fldOk rfl
    | with_reducible refine State.chainRuns_kept ?_ ?_ | with_reducible refine ite_kept ?_ ?_
    | with_reducible refine iteO_kept ?_ ?_ | with_reducible refine Kept.next ?_ | with_reducible exact Kept.fault
    | with_reducible intro _ | dsimp only | split)

theorem State.chainEnds_kept {s : State} {islet : Nat} {flag : Nat} {p : VProg} {stalls : Nat} {spCorrected : Nat}
    {vxCorrected : Nat} (hH : ∀ x ∈ ([.islets, .counts, .block .isl] : List Portion), H x = false)
    (hk0 : Kept pk wq H z0 s) : Kept pk wq H z0 (State.chainEnds s islet flag p stalls spCorrected vxCorrected) := by
  unfold State.chainEnds
  repeat' (first
    | with_reducible assumption | exact held_sub hH rfl | exact held_one hH rfl | exact fldOk rfl
    | with_reducible refine State.setFld_kept ?_ ?_ ?_ | with_reducible refine State.addFld_kept ?_ ?_ ?_
    | with_reducible refine State.satFld_kept ?_ ?_ ?_ | with_reducible refine State.setCount_kept ?_ ?_
    | with_reducible refine State.modIslet_kept ?_ ?_ | with_reducible refine State.setFlags_kept ?_ ?_
    | with_reducible refine State.spCorrected_kept ?_ ?_ | with_reducible refine foldl_kept ?_ ?_
    | with_reducible refine ite_kept ?_ ?_ | with_reducible refine iteP_kept ?_ ?_
    | with_reducible refine foldlP_kept ?_ ?_
    | with_reducible refine foldlP_kept' (by with_reducible assumption) ?_ ?_
    | simp only [Kept.frame_iff, and_self, true_or, or_true] | with_reducible intro _ | dsimp only | split)

theorem execVxChainComplete_kept {islet : Nat} {stalls : Nat} {spCorrected : Nat} {vxCorrected : Nat} {s : State}
    (hH : ∀ x ∈ ([.islets, .counts, .block .isl] : List Portion), H x = false) (hk0 : Kept pk wq H z0 s) :
    Kept.Outcome pk wq H z0 (execVxChainComplete islet stalls spCorrected vxCorrected s) := by
  unfold execVxChainComplete
  repeat' (first
    | with_reducible assumption | exact held_sub hH rfl | exact held_one hH rfl | exact fldOk rfl
    | with_reducible refine State.spCorrected_kept ?_ ?_ | with_reducible refine State.chainEnds_kept ?_ ?_
    | with_reducible refine ite_kept ?_ ?_ | with_reducible refine iteO_kept ?_ ?_
    | with_reducible refine Kept.next ?_ | with_reducible exact Kept.fault | with_reducible intro _ | dsimp only
    | split)

end Sys2Proof.Machine
end

