-- ==== Sys2Proof/Laws/KeptWindow.lean ====
section
/-! SUPPORT. What the operations of Window.lean keep. -/

namespace Sys2Proof.Machine
open Sys2Proof

variable {pk : Package} {wq : List Instr} {H : Portion → Bool} {z0 : State}

theorem State.clearEvents_kept {s : State} {fn : Nat} {k : Nat} {r : Reg} {a : Nat} {b : Nat} {w : Word}
    (hH : ∀ x ∈ ([.egress, .armed, .block .str, .block .img, .block .isl, .block .mem, .block .pipe, .block .reef, .block .jl, .block .red, .block .opt, .block .svc, .block .sec, .block .hbr] : List Portion), H x = false)
    (hk0 : Kept pk wq H z0 s) : Kept pk wq H z0 (State.clearEvents s fn k r a b w) := by
  unfold State.clearEvents
  repeat' (first
    | with_reducible assumption | with_reducible refine State.writeReg_any ?_ ?_ | exact held_sub hH rfl
    | exact held_one hH rfl | exact fldOk rfl | with_reducible refine State.writeReg_kept ?_ ?_
    | with_reducible refine State.armEvent_kept ?_ ?_ | with_reducible refine ite_kept ?_ ?_ | with_reducible intro _
    | dsimp only | split)

theorem State.plainWrite_kept {s : State} {fn : Nat} {r : Reg} {a : Nat} {b : Nat} {w : Word}
    (hH : ∀ x ∈ ([.block .str, .block .img, .block .isl, .block .mem, .block .pipe, .block .reef, .block .jl, .block .red, .block .opt, .block .svc, .block .sec, .block .hbr] : List Portion), H x = false)
    (hk0 : Kept pk wq H z0 s) : Kept pk wq H z0 (State.plainWrite s fn r a b w) := by
  unfold State.plainWrite
  repeat' (first
    | with_reducible assumption | with_reducible refine State.writeReg_any ?_ ?_ | exact held_sub hH rfl
    | exact held_one hH rfl | exact fldOk rfl | with_reducible refine State.writeReg_kept ?_ ?_
    | with_reducible refine ite_kept ?_ ?_ | with_reducible intro _ | dsimp only | split)

theorem State.windowWrites_kept {s : State} {fn : Nat} {r : Reg} {a : Nat} {b : Nat} {w : Word}
    (hH : ∀ x ∈ ([.mem, .islets, .fns, .optim, .queues, .jobs, .reefs, .ports, .egress, .lead, .actions, .gov, .lanes, .pins, .jtag, .mctp, .jnl, .armed, .watchdogs, .counts, .ticks, .block .str, .block .img, .block .isl, .block .mem, .block .pipe, .block .reef, .block .jl, .block .red, .block .opt, .block .svc, .block .sec, .block .hbr] : List Portion), H x = false)
    (hk0 : Kept pk wq H z0 s) : Kept.Outcome pk wq H z0 (State.windowWrites s fn r a b w) := by
  unfold State.windowWrites
  repeat' (first
    | with_reducible assumption | with_reducible refine State.writeReg_any ?_ ?_ | exact held_sub hH rfl
    | exact held_one hH rfl | exact fldOk rfl | with_reducible refine State.writeReg_kept ?_ ?_
    | with_reducible refine State.writeIslCtl_kept ?_ ?_ | with_reducible refine State.reefIssue_kept ?_ ?_
    | with_reducible refine State.writeMigCtl_kept ?_ ?_ | with_reducible refine execXlateLookup_kept ?_ ?_
    | with_reducible refine State.optCtlResult_kept ?_ ?_ | with_reducible refine State.writeLoadCtl_kept ?_ ?_
    | with_reducible refine State.writeJobCtl_kept ?_ ?_ | with_reducible refine State.writePortCtl_kept ?_ ?_
    | with_reducible refine State.writeRoute_kept ?_ ?_ | with_reducible refine execQueueDoorbell_kept ?_ ?_
    | with_reducible refine execCompletionDoorbell_kept ?_ ?_ | with_reducible refine State.writeQCfg_kept ?_ ?_
    | with_reducible refine State.writeEvtRoute_kept ?_ ?_ | with_reducible refine State.writeGovCfg_kept ?_ ?_
    | with_reducible refine State.writeJnlCtl_kept ?_ ?_ | with_reducible refine State.writeGrantCtl_kept ?_ ?_
    | with_reducible refine State.writeFnCtl_kept ?_ ?_ | with_reducible refine State.writeGrant_kept ?_ ?_
    | with_reducible refine State.writeKeyCtl_kept ?_ ?_ | with_reducible refine State.writeHbrEvt_kept ?_ ?_
    | with_reducible refine State.writeHbrRoute_kept ?_ ?_ | with_reducible refine State.writeSnap_kept ?_ ?_
    | with_reducible refine State.writeResetCtl_kept ?_ ?_ | with_reducible refine State.writeFwCtl_kept ?_ ?_
    | with_reducible refine State.writeMctpCtl_kept ?_ ?_ | with_reducible refine State.clearEvents_kept ?_ ?_
    | with_reducible refine State.plainWrite_kept ?_ ?_ | with_reducible refine ite_kept ?_ ?_
    | with_reducible refine iteO_kept ?_ ?_
    | with_reducible refine Kept.out (State.reefIssue_kept ?_ ?_) (by with_reducible assumption)
    | with_reducible refine Kept.out (execXlateLookup_kept ?_ ?_) (by with_reducible assumption)
    | with_reducible refine Kept.out (State.optCtlResult_kept ?_ ?_) (by with_reducible assumption)
    | with_reducible refine Kept.out (execQueueDoorbell_kept ?_ ?_) (by with_reducible assumption)
    | with_reducible refine Kept.out (execCompletionDoorbell_kept ?_ ?_) (by with_reducible assumption)
    | with_reducible refine Kept.next ?_ | with_reducible intro _ | dsimp only | split)

theorem State.writeRegister_kept {s : State} {fn : Nat} {off : Nat} {w : Word}
    (hH : ∀ x ∈ ([.mem, .islets, .fns, .optim, .queues, .jobs, .reefs, .ports, .egress, .lead, .actions, .gov, .lanes, .pins, .jtag, .mctp, .jnl, .armed, .watchdogs, .counts, .ticks, .block .str, .block .img, .block .isl, .block .mem, .block .pipe, .block .reef, .block .jl, .block .red, .block .opt, .block .svc, .block .sec, .block .hbr] : List Portion), H x = false)
    (hk0 : Kept pk wq H z0 s) : Kept.Outcome pk wq H z0 (State.writeRegister s fn off w) := by
  unfold State.writeRegister
  repeat' (first
    | with_reducible assumption | exact held_sub hH rfl | exact held_one hH rfl | exact fldOk rfl
    | with_reducible refine State.windowWrites_kept ?_ ?_ | with_reducible refine ite_kept ?_ ?_
    | with_reducible refine iteO_kept ?_ ?_
    | with_reducible refine Kept.out (State.windowWrites_kept ?_ ?_) (by with_reducible assumption)
    | with_reducible refine Kept.next ?_ | with_reducible intro _ | dsimp only | split)

theorem execRegisterWrite_kept {fn : Nat} {off : Nat} {w : Word} {s : State}
    (hH : ∀ x ∈ ([.mem, .islets, .fns, .optim, .queues, .jobs, .reefs, .ports, .egress, .lead, .actions, .gov, .lanes, .pins, .jtag, .mctp, .jnl, .armed, .watchdogs, .counts, .ticks, .block .str, .block .img, .block .isl, .block .mem, .block .pipe, .block .reef, .block .jl, .block .red, .block .opt, .block .svc, .block .sec, .block .hbr] : List Portion), H x = false)
    (hk0 : Kept pk wq H z0 s) : Kept.Outcome pk wq H z0 (execRegisterWrite fn off w s) := by
  unfold execRegisterWrite
  repeat' (first
    | with_reducible assumption | exact held_sub hH rfl | exact held_one hH rfl | exact fldOk rfl
    | with_reducible refine State.writeRegister_kept ?_ ?_ | with_reducible refine iteO_kept ?_ ?_
    | with_reducible refine Kept.out (State.writeRegister_kept ?_ ?_) (by with_reducible assumption)
    | with_reducible refine Kept.next ?_ | with_reducible intro _ | dsimp only | split)

theorem execEventBitClear_kept {fn : Nat} {off : Nat} {w : Word} {s : State}
    (hH : ∀ x ∈ ([.mem, .islets, .fns, .optim, .queues, .jobs, .reefs, .ports, .egress, .lead, .actions, .gov, .lanes, .pins, .jtag, .mctp, .jnl, .armed, .watchdogs, .counts, .ticks, .block .str, .block .img, .block .isl, .block .mem, .block .pipe, .block .reef, .block .jl, .block .red, .block .opt, .block .svc, .block .sec, .block .hbr] : List Portion), H x = false)
    (hk0 : Kept pk wq H z0 s) : Kept.Outcome pk wq H z0 (execEventBitClear fn off w s) := by
  unfold execEventBitClear
  repeat' (first
    | with_reducible assumption | exact held_sub hH rfl | exact held_one hH rfl | exact fldOk rfl
    | with_reducible refine State.writeRegister_kept ?_ ?_ | with_reducible refine iteO_kept ?_ ?_
    | with_reducible refine Kept.out (State.writeRegister_kept ?_ ?_) (by with_reducible assumption)
    | with_reducible refine Kept.next ?_ | with_reducible intro _ | dsimp only | split)

theorem State.answerRead_kept {s : State} {f : Flit} {ans : Answer}
    (hH : ∀ x ∈ ([.egress, .armed, .block .jl] : List Portion), H x = false) (hk0 : Kept pk wq H z0 s) : Kept pk wq H
    z0 (State.answerRead s f ans) := by
  unfold State.answerRead
  repeat' (first
    | with_reducible assumption | exact held_sub hH rfl | exact held_one hH rfl | exact fldOk rfl
    | with_reducible refine State.answerLink_kept ?_ ?_ | simp only [Kept.frame_iff, and_self, true_or, or_true]
    | with_reducible intro _ | dsimp only | split)

theorem State.readWindow_kept {s : State} {f : Flit}
    (hH : ∀ x ∈ ([.egress, .armed, .block .jl] : List Portion), H x = false) (hk0 : Kept pk wq H z0 s) : Kept pk wq H
    z0 (State.readWindow s f) := by
  unfold State.readWindow
  repeat' (first
    | with_reducible assumption | exact held_sub hH rfl | exact held_one hH rfl | exact fldOk rfl
    | with_reducible refine State.answerRead_kept ?_ ?_ | with_reducible refine ite_kept ?_ ?_
    | simp only [Kept.frame_iff, and_self, true_or, or_true] | with_reducible intro _ | dsimp only | split)

theorem State.writeWindow_kept {s : State} {f : Flit}
    (hH : ∀ x ∈ ([.mem, .islets, .fns, .optim, .queues, .jobs, .reefs, .ports, .egress, .lead, .actions, .gov, .lanes, .pins, .jtag, .mctp, .jnl, .armed, .watchdogs, .counts, .ticks, .block .str, .block .img, .block .isl, .block .mem, .block .pipe, .block .reef, .block .jl, .block .red, .block .opt, .block .svc, .block .sec, .block .hbr] : List Portion), H x = false)
    (hk0 : Kept pk wq H z0 s) : Kept.Outcome pk wq H z0 (State.writeWindow s f) := by
  unfold State.writeWindow
  repeat' (first
    | with_reducible assumption | exact held_sub hH rfl | exact held_one hH rfl | exact fldOk rfl
    | with_reducible refine State.writeRegister_kept ?_ ?_ | with_reducible refine ite_kept ?_ ?_
    | with_reducible refine iteO_kept ?_ ?_
    | with_reducible refine Kept.out (State.writeRegister_kept ?_ ?_) (by with_reducible assumption)
    | with_reducible refine Kept.next ?_ | with_reducible intro _ | dsimp only | split)

theorem State.writeMemory_kept {s : State} {f : Flit}
    (hH : ∀ x ∈ ([.mem, .islets, .fns, .queues, .jobs, .reefs, .egress, .gov, .lanes, .mctp, .armed, .block .img, .block .isl, .block .mem, .block .pipe, .block .reef, .block .jl, .block .red, .block .svc, .block .hbr] : List Portion), H x = false)
    (hk0 : Kept pk wq H z0 s) : Kept pk wq H z0 (State.writeMemory s f) := by
  unfold State.writeMemory
  repeat' (first
    | with_reducible assumption | exact held_sub hH rfl | exact held_one hH rfl | exact fldOk rfl
    | with_reducible refine State.unserved_kept ?_ | with_reducible refine State.takeAccess_kept ?_ ?_
    | with_reducible refine State.unitWrite_kept ?_ ?_ | with_reducible refine foldl_kept ?_ ?_
    | with_reducible refine ite_kept ?_ ?_ | with_reducible refine iteP_kept ?_ ?_
    | with_reducible refine foldlP_kept ?_ ?_
    | with_reducible refine State.unitWrite_kept' (by with_reducible assumption) ?_ ?_
    | with_reducible refine foldlP_kept' (by with_reducible assumption) ?_ ?_
    | simp only [Kept.frame_iff, and_self, true_or, or_true] | with_reducible intro _ | dsimp only | split)

theorem State.readMemory_kept {s : State} {f : Flit}
    (hH : ∀ x ∈ ([.mem, .fns, .egress, .lanes, .mctp, .armed, .block .img, .block .mem, .block .pipe, .block .reef, .block .jl, .block .hbr] : List Portion), H x = false)
    (hk0 : Kept pk wq H z0 s) : Kept pk wq H z0 (State.readMemory s f) := by
  unfold State.readMemory
  repeat' (first
    | with_reducible assumption | exact held_sub hH rfl | exact held_one hH rfl | exact fldOk rfl
    | with_reducible refine State.unserved_kept ?_ | with_reducible refine State.takeAccess_kept ?_ ?_
    | with_reducible refine State.devRead_kept ?_ ?_ | with_reducible refine State.unitRead_kept ?_ ?_
    | with_reducible refine State.unitReady_kept ?_ ?_ | with_reducible refine State.answerRead_kept ?_ ?_
    | with_reducible refine foldl_kept ?_ ?_ | with_reducible refine ite_kept ?_ ?_
    | with_reducible refine iteP_kept ?_ ?_ | with_reducible refine foldlP_kept ?_ ?_
    | with_reducible refine State.devRead_kept' (by with_reducible assumption) ?_ ?_
    | with_reducible refine State.unitRead_kept' (by with_reducible assumption) ?_ ?_
    | with_reducible refine State.unitReady_kept' (by with_reducible assumption) ?_ ?_
    | with_reducible refine foldlP_kept' (by with_reducible assumption) ?_ ?_
    | simp only [Kept.frame_iff, and_self, true_or, or_true] | with_reducible intro _ | dsimp only | split)

theorem State.deliverWrite_kept {s : State} {f : Flit}
    (hH : ∀ x ∈ ([.mem, .islets, .fns, .optim, .queues, .jobs, .reefs, .ports, .egress, .lead, .actions, .gov, .lanes, .pins, .jtag, .mctp, .jnl, .armed, .watchdogs, .counts, .ticks, .block .str, .block .img, .block .isl, .block .mem, .block .pipe, .block .reef, .block .jl, .block .red, .block .opt, .block .svc, .block .sec, .block .hbr] : List Portion), H x = false)
    (hk0 : Kept pk wq H z0 s) : Kept.Outcome pk wq H z0 (State.deliverWrite s f) := by
  unfold State.deliverWrite
  repeat' (first
    | with_reducible assumption | exact held_sub hH rfl | exact held_one hH rfl | exact fldOk rfl
    | with_reducible refine State.satFld_kept ?_ ?_ ?_ | with_reducible refine State.writeWindow_kept ?_ ?_
    | with_reducible refine State.writeMemory_kept ?_ ?_ | with_reducible refine ite_kept ?_ ?_
    | with_reducible refine iteO_kept ?_ ?_
    | with_reducible refine Kept.out (State.writeWindow_kept ?_ ?_) (by with_reducible assumption)
    | with_reducible refine Kept.next ?_ | with_reducible exact Kept.fault | with_reducible intro _ | dsimp only
    | split)

theorem State.deliverRead_kept {s : State} {f : Flit}
    (hH : ∀ x ∈ ([.mem, .fns, .egress, .lanes, .mctp, .armed, .block .img, .block .mem, .block .pipe, .block .reef, .block .jl, .block .hbr] : List Portion), H x = false)
    (hk0 : Kept pk wq H z0 s) : Kept pk wq H z0 (State.deliverRead s f) := by
  unfold State.deliverRead
  repeat' (first
    | with_reducible assumption | exact held_sub hH rfl | exact held_one hH rfl | exact fldOk rfl
    | with_reducible refine State.satFld_kept ?_ ?_ ?_ | with_reducible refine State.readWindow_kept ?_ ?_
    | with_reducible refine State.readMemory_kept ?_ ?_ | with_reducible refine ite_kept ?_ ?_
    | with_reducible intro _ | dsimp only | split)

theorem execWrite_kept {p : Nat} {rx : RxFlit} {s : State}
    (hH : ∀ x ∈ ([.mem, .islets, .fns, .optim, .queues, .jobs, .reefs, .ports, .egress, .lead, .actions, .gov, .lanes, .pins, .jtag, .mctp, .jnl, .armed, .watchdogs, .counts, .ticks, .block .str, .block .img, .block .isl, .block .mem, .block .pipe, .block .reef, .block .jl, .block .red, .block .opt, .block .svc, .block .sec, .block .hbr] : List Portion), H x = false)
    (hk0 : Kept pk wq H z0 s) : Kept.Outcome pk wq H z0 (execWrite p rx s) := by
  unfold execWrite
  repeat' (first
    | with_reducible assumption | exact held_sub hH rfl | exact held_one hH rfl | exact fldOk rfl
    | with_reducible refine State.freeSlot_kept ?_ ?_ | with_reducible refine State.linkIn_kept ?_ ?_
    | with_reducible refine State.arrive_kept ?_ ?_ ?_ | with_reducible refine State.deliverWrite_kept ?_ ?_
    | with_reducible refine id_kept ?_ | with_reducible refine ite_kept ?_ ?_ | with_reducible refine iteO_kept ?_ ?_
    | with_reducible refine State.linkIn_kept' (by with_reducible assumption) ?_ ?_
    | with_reducible refine Kept.out (State.deliverWrite_kept ?_ ?_) (by with_reducible assumption)
    | with_reducible refine Kept.next ?_ | with_reducible intro _ | dsimp only | split)

theorem execReadReq_kept {p : Nat} {rx : RxFlit} {s : State}
    (hH : ∀ x ∈ ([.mem, .islets, .fns, .optim, .queues, .jobs, .reefs, .ports, .egress, .actions, .gov, .lanes, .mctp, .armed, .block .img, .block .isl, .block .mem, .block .pipe, .block .reef, .block .jl, .block .red, .block .opt, .block .svc, .block .hbr] : List Portion), H x = false)
    (hk0 : Kept pk wq H z0 s) : Kept.Outcome pk wq H z0 (execReadReq p rx s) := by
  unfold execReadReq
  repeat' (first
    | with_reducible assumption | exact held_sub hH rfl | exact held_one hH rfl | exact fldOk rfl
    | with_reducible refine State.arrive_kept ?_ ?_ ?_ | with_reducible refine State.deliverRead_kept ?_ ?_
    | with_reducible refine iteO_kept ?_ ?_ | with_reducible refine Kept.next ?_ | with_reducible intro _ | dsimp only
    | split)

end Sys2Proof.Machine
end

