-- ==== Sys2Proof/Laws/KeptWrite.lean ====
section
/-! SUPPORT. What a write through a window may change, by the register at its offset. -/

namespace Sys2Proof.Machine
open Sys2Proof
variable {pk : Package} {wq : List Instr} {H : Portion → Bool} {z0 : State}

theorem State.plainWrite_reg_kept {s : State} {fn : Nat} {r : Reg} {a b : Nat} {w : Word} (hr : H (.block (regBlock r)) = false)
    (h : Kept pk wq H z0 s) : Kept pk wq H z0 (s.plainWrite fn r a b w) := by
  unfold State.plainWrite
  split
  · exact State.writeReg_kept hr h
  · exact h

theorem State.writeGrant_reg_kept {s : State} {fn : Nat} {r : Reg} {a b : Nat} {w : Word} (hr : H (.block (regBlock r)) = false)
    (h : Kept pk wq H z0 s) : Kept pk wq H z0 (s.writeGrant fn r a b w) := by
  unfold State.writeGrant
  split
  · exact State.writeReg_kept hr h
  · exact h

theorem State.clearEvents_reg_kept {s : State} {fn k : Nat} {r : Reg} {a b : Nat} {w : Word}
    (hH : ∀ x ∈ ([.egress, .armed, .block .jl] : List Portion), H x = false) (hr : H (.block (regBlock r)) = false)
    (h : Kept pk wq H z0 s) : Kept pk wq H z0 (s.clearEvents fn k r a b w) := by
  unfold State.clearEvents
  dsimp only
  split
  · exact State.writeReg_kept hr h
  · exact State.armEvent_kept hH (State.writeReg_kept hr h)

/-- A queue's ring base, which only a DISABLED queue takes. -/
theorem State.ifWrite_kept {s : State} {c : Prop} [Decidable c] {r : Reg} {a b : Nat} {w : Word} (hr : H (.block (regBlock r)) = false)
    (h : Kept pk wq H z0 s) : Kept pk wq H z0 (if c then s.writeReg r a b w else s) := by
  split
  · exact State.writeReg_kept hr h
  · exact h

/-- Events that only a function's own window clears. -/
theorem State.ifClear_kept {s : State} {c : Prop} [Decidable c] {fn k : Nat} {r : Reg} {a b : Nat} {w : Word}
    (hH : ∀ x ∈ ([.egress, .armed, .block .jl] : List Portion), H x = false) (hr : H (.block (regBlock r)) = false)
    (h : Kept pk wq H z0 s) : Kept pk wq H z0 (if c then s else s.clearEvents fn k r a b w) := by
  split
  · exact h
  · exact State.clearEvents_reg_kept hH hr h

/-- A write that the window makes of a register. -/
theorem State.windowWrites_reg_kept {s : State} {fn : Nat} {r : Reg} {a b : Nat} {w : Word} (hH : ∀ x ∈ regTouches r, H x = false)
    (h : Kept pk wq H z0 s) : Kept.Outcome pk wq H z0 (s.windowWrites fn r a b w) := by
  cases r
  all_goals
    unfold State.windowWrites
    dsimp only [eventSource]
    first
    | with_reducible exact Kept.next (State.plainWrite_reg_kept (held_one hH rfl) h)
    | with_reducible exact Kept.next (State.writeGrant_reg_kept (held_one hH rfl) h)
    | with_reducible exact Kept.next (State.ifWrite_kept (held_one hH rfl) h)
    | with_reducible exact Kept.next (State.writeIslCtl_kept (held_sub hH rfl) h)
    | with_reducible exact State.reefIssue_kept (held_sub hH rfl) h
    | with_reducible exact Kept.next (State.writeMigCtl_kept (held_sub hH rfl) h)
    | with_reducible exact execXlateLookup_kept (held_sub hH rfl) h
    | with_reducible exact State.optCtlResult_kept (held_sub hH rfl) h
    | with_reducible exact Kept.next (State.writeLoadCtl_kept (held_sub hH rfl) h)
    | with_reducible exact Kept.next (State.writeJobCtl_kept (held_sub hH rfl) h)
    | with_reducible exact Kept.next (State.writePortCtl_kept (held_sub hH rfl) h)
    | with_reducible exact Kept.next (State.writeRoute_kept (held_sub hH rfl) h)
    | with_reducible exact execQueueDoorbell_kept (held_sub hH rfl) h
    | with_reducible exact execCompletionDoorbell_kept (held_sub hH rfl) h
    | with_reducible exact Kept.next (State.writeQCfg_kept (held_sub hH rfl) h)
    | with_reducible exact Kept.next (State.writeEvtRoute_kept (held_sub hH rfl) h)
    | with_reducible exact Kept.next (State.writeGovCfg_kept (held_sub hH rfl) h)
    | with_reducible exact Kept.next (State.writeJnlCtl_kept (held_sub hH rfl) h)
    | with_reducible exact Kept.next (State.writeGrantCtl_kept (held_sub hH rfl) h)
    | with_reducible exact Kept.next (State.writeFnCtl_kept (held_sub hH rfl) h)
    | with_reducible exact Kept.next (State.writeKeyCtl_kept (held_sub hH rfl) h)
    | with_reducible exact Kept.next (State.writeHbrEvt_kept (held_sub hH rfl) h)
    | with_reducible exact Kept.next (State.writeHbrRoute_kept (held_sub hH rfl) h)
    | with_reducible exact Kept.next (State.writeSnap_kept (held_sub hH rfl) h)
    | with_reducible exact Kept.next (State.writeResetCtl_kept (held_sub hH rfl) h)
    | with_reducible exact Kept.next (State.writeFwCtl_kept (held_sub hH rfl) h)
    | with_reducible exact Kept.next (State.writeMctpCtl_kept (held_sub hH rfl) h)
    | with_reducible exact Kept.next (State.ifClear_kept (held_sub hH rfl) (held_one hH rfl) h)

/-- A write at an offset of a window. -/
theorem State.writeRegister_off_kept {s : State} {fn off : Nat} {w : Word} (hH : ∀ x ∈ offsetTouches off, H x = false)
    (h : Kept pk wq H z0 s) : Kept.Outcome pk wq H z0 (s.writeRegister fn off w) := by
  unfold State.writeRegister
  unfold offsetTouches at hH
  split
  · exact Kept.next h
  · next r i b e =>
    rw [e] at hH
    dsimp only
    split
    · exact State.windowWrites_reg_kept hH h
    · exact Kept.next h

theorem execEventBitClear_off_kept {s : State} {fn off : Nat} {w : Word} (hH : ∀ x ∈ offsetTouches off, H x = false)
    (h : Kept pk wq H z0 s) : Kept.Outcome pk wq H z0 (execEventBitClear fn off w s) := by
  unfold execEventBitClear
  split
  · exact Kept.next h
  · exact State.writeRegister_off_kept hH h

theorem execGrantWrite_off_kept {s : State} {fn off : Nat} {w : Word} (hH : ∀ x ∈ ([.block .sec] : List Portion), H x = false)
    (h : Kept pk wq H z0 s) : Kept.Outcome pk wq H z0 (execGrantWrite fn off w s) := by
  unfold execGrantWrite
  split
  · exact Kept.next (State.writeGrant_reg_kept (held_one hH rfl) h)
  · exact Kept.next (State.writeGrant_reg_kept (held_one hH rfl) h)
  · exact Kept.next (State.writeGrant_reg_kept (held_one hH rfl) h)
  · exact Kept.next (State.writeGrant_reg_kept (held_one hH rfl) h)
  · exact Kept.next h

/-- A verified WRITE flit: what the link may change, and for a window the register at the offset. -/
theorem execWrite_off_kept {s : State} {p : Nat} {rx : RxFlit} (hH : ∀ x ∈ touches (.write p rx), H x = false)
    (h : Kept pk wq H z0 s) : Kept.Outcome pk wq H z0 (execWrite p rx s) := by
  unfold touches at hH
  have link := fun x hx => hH x (List.mem_append.2 (.inr hx))
  have k : Kept pk wq H z0 (s.linkIn p rx).1 := State.linkIn_kept (held_sub link rfl) h
  unfold execWrite
  dsimp only
  split
  · split
    · next u e =>
      refine Kept.next (State.freeSlot_kept (held_sub link rfl) ?_)
      unfold State.deliverWrite at e
      split at e
      · split at e
        · cases e
        · cases e
          exact State.writeMemory_kept (held_sub link rfl) k
      · split at e
        · next hs =>
          unfold State.writeWindow at e
          have off := fun x hx => hH x (List.mem_append.2 (.inl (by rw [if_pos hs]; exact hx)))
          split at e
          · exact State.writeRegister_off_kept off k _ e
          · cases e; exact k
        · cases e
          exact State.satFld_kept (by decide +kernel) (held_one link rfl) k
    · next e => intro t ht; exact absurd ht (e t)
  · exact Kept.next (State.arrive_kept (held_sub link rfl) h (fun _ k => k))

end Sys2Proof.Machine
end

