-- ==== Sys2Proof/Laws/Outside.lean ====
section
/-! SUPPORT. What stores of the device leave as it is: a write reaches bytes of the pages it goes through, and of no other place, where no
unit has an error. -/

namespace Sys2Proof.Machine
open Sys2Proof

/-- A step that stores at places `P` only, adds no error, and keeps every page in its frame. -/
structure StoresIn (P : Nat → Prop) (s t : State) : Prop where
  bad : s.bad = [] → t.bad = []
  mem : ∀ x, ¬ P x → memByte t.mem x = memByte s.mem x
  pages : ∀ fn a, (t.pageAt fn a).map Page.frame = (s.pageAt fn a).map Page.frame

theorem StoresIn.refl {P : Nat → Prop} (s : State) : StoresIn P s s := ⟨id, fun _ _ => rfl, fun _ _ => rfl⟩

theorem StoresIn.trans {P : Nat → Prop} {s t u : State} (h : StoresIn P s t) (k : StoresIn P t u) : StoresIn P s u :=
  ⟨fun e => k.bad (h.bad e), fun x hx => (k.mem x hx).trans (h.mem x hx), fun fn a => (k.pages fn a).trans (h.pages fn a)⟩

theorem StoresIn.mono {P Q : Nat → Prop} {s t : State} (h : StoresIn P s t) (hPQ : ∀ x, P x → Q x) : StoresIn Q s t :=
  ⟨h.bad, fun x hx => h.mem x fun hp => hx (hPQ x hp), h.pages⟩

/-- Where memory, errors and the functions are as before, nothing is stored. -/
theorem StoresIn.of_eq {P : Nat → Prop} {s t : State} (hm : t.mem = s.mem) (hb : t.bad = s.bad) (hf : t.fns = s.fns) : StoresIn P s t :=
  ⟨fun e => hb.trans e, fun x _ => by rw [hm], fun fn a => by unfold State.pageAt State.segmentAt State.fnState; rw [hf]⟩

/-! ## Pages keep their frames -/

theorem State.modFn_fnState (s : State) (fn : Nat) (f : FnState → FnState) (fn' : Nat) :
    (s.modFn fn f).fnState fn' = if fn' = fn then f (s.fnState fn) else s.fnState fn' := by
  unfold State.fnState State.modFn
  rw [storeGet_storeSet]
  rfl

/-- Segments changed so that they hold the same addresses, with the frames of their pages, keep every page in its frame. -/
theorem State.modSegs_pages (s : State) (fn : Nat) (g : Segment → Segment) (hb : ∀ x, (g x).base = x.base)
    (hl : ∀ x, (g x).pages.length = x.pages.length) (hp : ∀ (x : Segment) (i : Nat), ((g x).pages[i]?).map Page.frame = (x.pages[i]?).map Page.frame)
    (fn' a : Nat) : ((s.modFn fn (fun st => { st with segs := st.segs.map g })).pageAt fn' a).map Page.frame =
      (s.pageAt fn' a).map Page.frame := by
  have hh : ∀ x : Segment, (g x).holds a = x.holds a := by intro x; unfold Segment.holds; rw [hb, hl]
  unfold State.pageAt State.segmentAt
  rw [State.modFn_fnState]
  by_cases e : fn' = fn
  · subst e
    rw [if_pos rfl]
    dsimp only
    rw [List.find?_map]
    have : ((fun x : Segment => x.holds a) ∘ g) = (fun x => x.holds a) := by funext x; exact hh x
    rw [this]
    cases (s.fnState fn').segs.find? (fun x => x.holds a) with
    | none => rfl
    | some x =>
      show ((g x).pages[(a - (g x).base) / 65536]?).map Page.frame = _
      rw [hb, hp]
  · rw [if_neg e]

theorem State.modPage_pages (s : State) (fn addr : Nat) (f : Page → Page) (hf : ∀ p, (f p).frame = p.frame) (fn' a : Nat) :
    ((s.modPage fn addr f).pageAt fn' a).map Page.frame = (s.pageAt fn' a).map Page.frame := by
  refine State.modSegs_pages s fn _ (fun x => ?_) (fun x => ?_) (fun x i => ?_) fn' a
  · split <;> rfl
  · split <;> simp
  · split
    · simp only [List.getElem?_modify]
      rcases x.pages[i]? with _ | p
      · rfl
      · simp only [Option.map_some]
        split
        · simp [hf]
        · rfl
    · rfl

/-- A promotion that a write starts stores nothing and moves no page yet. -/
theorem State.writePromotes_stores {P : Nat → Prop} (s : State) (fn addr : Nat) (f : Frame) : StoresIn P s (s.writePromotes fn addr f) := by
  have k1 : StoresIn P s (s.startPromotion fn addr false f) := by
    unfold State.startPromotion
    split
    · split
      · refine ⟨id, fun _ _ => rfl, fun fn' a => ?_⟩
        dsimp only
        rw [State.modPage_pages _ _ _ _ (by intro p; rfl)]
        rfl
      · exact .refl s
    · exact .refl s
  refine k1.trans ⟨id, fun _ _ => rfl, fun fn' a => ?_⟩
  unfold State.writePromotes State.modSegment
  refine State.modSegs_pages _ _ _ (fun x => ?_) (fun x => ?_) (fun x i => ?_) fn' a
  all_goals split <;> rfl

/-! ## A write into a frame -/

/-- Units of a frame written in turn, none in error. -/
theorem State.writeUnits_stores (src : Source) (fn : Nat) (f : Frame) (off : Nat) (bs : List Byte) (pageAddr : Option Nat)
    (us : List Nat) : ∀ (s : State) (st : Status), s.bad = [] →
    StoresIn (fun x => ∃ k, k < bs.length ∧ x = frameByte f (off + k)) s (us.foldl (fun acc u =>
      let (s, st) := acc
      let lo := max u off
      let hi := min (u + frameUnit f) (off + bs.length)
      let part := (bs.drop (lo - off)).take (hi - lo)
      let phys := frameByte f u
      if part.length = frameUnit f then
        ((s.setErrors phys []).putFrame f lo part, st)
      else
        let (s, good) := s.decodeUnit src fn f phys (pageAddr.map (· + u))
        if good then ((s.setErrors phys []).putFrame f lo part, st)
        else (s, .uncorrectableMem)) (s, st)).1 := by
  induction us with
  | nil => intro s st _; exact .refl s
  | cons u us ih =>
    intro s st hb
    rw [List.foldl_cons]
    dsimp only
    have e : s.decodeUnit src fn f (frameByte f u) (pageAddr.map (· + u)) = (s, true) := by
      simp only [State.decodeUnit, State.unitErrors, hb, storeGet, if_true]
    rw [e]
    simp only [if_true, ite_self]
    generalize hv : State.putFrame _ f (max u off) _ = v
    have kv : StoresIn (fun x => ∃ k, k < bs.length ∧ x = frameByte f (off + k)) s v := by
      refine ⟨fun _ => ?_, fun x hx => ?_, fun fn' a => by rw [← hv]; rfl⟩
      · rw [← hv]
        show storeSet [] s.bad (errKey (frameByte f u)) [] = []
        rw [hb]; rfl
      · rw [← hv]
        refine State.putFrame_outside _ _ _ _ _ fun k hk e => hx ⟨max u off - off + k, ?_, ?_⟩
        · rw [List.length_take, List.length_drop] at hk; omega
        · rw [e]; congr 1; omega
    exact kv.trans (ih v st (kv.bad hb))

theorem State.writeFrame_stores (s : State) (src : Source) (fn : Nat) (f : Frame) (off : Nat) (bs : List Byte) (pageAddr : Option Nat)
    (hb : s.bad = []) : StoresIn (fun x => ∃ k, k < bs.length ∧ x = frameByte f (off + k)) s (s.writeFrame src fn f off bs pageAddr).1 :=
  State.writeUnits_stores src fn f off bs pageAddr _ s .ok hb

/-! ## A write of an engine or a flit -/

/-- The bytes of the pages that a range goes through, at the range's addresses. -/
def State.holdsAt (s : State) (fn addr len x : Nat) : Prop :=
  ∃ p ∈ pagePieces (len / 65536 + 2) addr len, ∃ pg, s.pageAt fn p.1 = some pg ∧ ∃ k, k < p.2 ∧ x = frameByte pg.frame (p.1 % 65536 + k)

theorem State.trackWrite_stores {P : Nat → Prop} (s : State) (fn addr : Nat) : StoresIn P s (s.trackWrite fn addr) := .of_eq rfl rfl rfl

theorem State.noteYields_stores {P : Nat → Prop} (s : State) (f : Frame) (off len : Nat) : StoresIn P s (s.noteYields f off len) := by
  unfold State.noteYields State.yieldsAt
  dsimp only
  split
  · exact .refl s
  · split
    · exact .refl s
    · exact .of_eq rfl rfl rfl

theorem State.straitOffer_lanes (s : State) (a b c n : Nat) : ∃ l, s.straitOffer a b c n = { s with lanes := l } := by
  unfold State.straitOffer State.straitPut
  split
  · exact ⟨s.lanes, rfl⟩
  · dsimp only
    split
    · exact ⟨s.lanes, rfl⟩
    · exact ⟨_, rfl⟩

theorem State.straitOffer_stores {P : Nat → Prop} (s : State) (a b c n : Nat) : StoresIn P s (s.straitOffer a b c n) := by
  obtain ⟨l, h⟩ := s.straitOffer_lanes a b c n
  rw [h]
  exact .of_eq rfl rfl rfl

theorem State.memTraffic_stores {P : Nat → Prop} (s : State) (src mem : Nat) (write : Bool) (len : Nat) :
    StoresIn P s (s.memTraffic src mem write len) := by
  have leg : ∀ (s : State) (a b : Nat), StoresIn P s
      (if write then s.straitOffer a b 0 (unitsOf len) else (s.straitOffer a b 0 1).straitOffer b a 0 (unitsOf len)) := by
    intro s a b
    split
    · exact s.straitOffer_stores _ _ _ _
    · exact (s.straitOffer_stores _ _ _ _).trans (State.straitOffer_stores _ _ _ _ _)
  unfold State.memTraffic
  dsimp only
  split
  · exact (leg _ _ _).trans (leg _ _ _)
  · exact leg _ _ _

/-- Nothing of memory, its errors and the functions is changed. -/
def sameStore (s t : State) : Prop := t.mem = s.mem ∧ t.bad = s.bad ∧ t.fns = s.fns

theorem sameStore.trans {s t u : State} (h : sameStore s t) (k : sameStore t u) : sameStore s u :=
  ⟨k.1.trans h.1, k.2.1.trans h.2.1, k.2.2.trans h.2.2⟩

theorem sameStore.stores {P : Nat → Prop} {s t : State} (h : sameStore s t) : StoresIn P s t := .of_eq h.1 h.2.1 h.2.2

theorem sameStore_setFld (s : State) (f : Fld) (a b v : Nat) : sameStore s (s.setFld f a b v) := ⟨rfl, rfl, rfl⟩

theorem sameStore_addFld (s : State) (f : Fld) (a b n : Nat) : sameStore s (s.addFld f a b n) := ⟨rfl, rfl, rfl⟩

theorem sameStore_satFld (s : State) (f : Fld) (a b n : Nat) : sameStore s (s.satFld f a b n) := ⟨rfl, rfl, rfl⟩

theorem sameStore_queueFlit (s : State) (p : Nat) (f : Flit) : sameStore s (s.queueFlit p f) := by
  unfold State.queueFlit
  dsimp only
  split <;> exact ⟨rfl, rfl, rfl⟩

theorem sameStore_endReads (s : State) (st : Status) (p : Nat → ReadReq → Bool) : sameStore s (s.endReads st p) := ⟨rfl, rfl, rfl⟩

theorem sameStore_latchUnreach (s : State) (fn dst addr reason : Nat) : sameStore s (s.latchUnreach fn dst addr reason) := by
  have k := ((sameStore_setFld s .JL_UNREACH_REASON fn 0 reason).trans (sameStore_setFld _ .JL_UNREACH_DST fn 0 dst)).trans
    (sameStore_setFld _ .JL_UNREACH_ADDR fn 0 addr)
  unfold State.latchUnreach State.failReads
  dsimp only
  refine sameStore.trans ?_ (sameStore_endReads _ _ _)
  split
  · exact k
  · exact k.trans (sameStore_setFld _ _ _ _ _)

theorem sameStore_sendAdapter (s : State) (f : Flit) : sameStore s (s.sendAdapter f) := by
  unfold State.sendAdapter
  split
  · exact sameStore_queueFlit _ _ _
  · dsimp only
    split
    · exact (sameStore_satFld s _ _ _ _).trans (sameStore_latchUnreach _ _ _ _ _)
    · exact sameStore_satFld s _ _ _ _

theorem sameStore_fnEvent (s : State) (fn k : Nat) (f : Fld) (a : Nat) : sameStore s (s.fnEvent fn k f a) := by
  unfold State.fnEvent State.fireEvent State.interrupt
  split
  · exact (sameStore_setFld s f a 0 1).trans (sameStore_sendAdapter _ _)
  · exact sameStore_setFld s f a 0 1

theorem sameStore_unmapped (s : State) (fn addr : Nat) : sameStore s (s.unmapped fn addr) := by
  unfold State.unmapped
  split
  · exact ⟨rfl, rfl, rfl⟩
  · exact ((sameStore_satFld s _ _ _ _).trans (sameStore_setFld _ _ _ _ _)).trans (sameStore_fnEvent _ _ _ _ _)

/-- A write of bytes within one page stores at that page's bytes only. -/
theorem State.memAccess_stores (s : State) (a : Access) (bs : List Byte) (hw : a.wr = some bs) (hl : bs.length ≤ a.len)
    (hb : s.bad = []) : StoresIn (fun x => ∃ pg, s.pageAt a.fn a.addr = some pg ∧ ∃ k, k < a.len ∧ x = frameByte pg.frame (a.addr % 65536 + k))
      s (s.memAccess a 0).1 := by
  unfold State.memAccess
  split
  · next g pg hg hp =>
    have into : ∀ (u : State) (f : Frame) (bytes : List Byte) (base : Option Nat), f = pg.frame → bytes.length ≤ a.len → u.bad = [] →
        StoresIn (fun x => ∃ pg, s.pageAt a.fn a.addr = some pg ∧ ∃ k, k < a.len ∧ x = frameByte pg.frame (a.addr % 65536 + k)) u
          (u.writeFrame a.src a.fn f (a.addr % 65536) bytes base).1 := by
      intro u f bytes base hf hlen hu
      refine (State.writeFrame_stores u a.src a.fn f _ bytes base hu).mono ?_
      rintro x ⟨k, hk, rfl⟩
      exact ⟨pg, hp, k, by omega, by rw [hf]⟩
    dsimp only
    split
    · exact .refl s
    split
    · exact .of_eq rfl rfl rfl
    split
    · split
      · exact .refl s
      split
      · exact .of_eq rfl rfl rfl
      split
      · split
        · exact .refl s
        · split
          · exact .refl s
          · exact (s.writePromotes_stores _ _ _).trans (.of_eq rfl rfl rfl)
      · next h => rw [hw] at h; exact absurd rfl h
    · next f hf =>
      split
      · exact .refl s
      rw [hw]
      dsimp only
      split
      · refine StoresIn.trans (t := { (State.trackWrite s a.fn a.addr).spoilLeases pg.frame.stack (accessRows pg.frame (a.addr % 65536) a.len) with freeCtr := s.freeCtr + a.len }) (.of_eq rfl rfl rfl) ?_
        exact into _ _ _ _ rfl (by simp) hb
      · exact (s.trackWrite_stores _ _).trans (into _ _ _ _ rfl hl hb)
  · exact (sameStore_unmapped s _ _).stores

/-- The same of the access with its traffic and the yields it causes. -/
theorem State.memServe_stores (s : State) (a : Access) (bs : List Byte) (hw : a.wr = some bs) (hl : bs.length ≤ a.len)
    (hb : s.bad = []) : StoresIn (fun x => ∃ pg, s.pageAt a.fn a.addr = some pg ∧ ∃ k, k < a.len ∧ x = frameByte pg.frame (a.addr % 65536 + k))
      s (s.memServe a 0).1 := by
  have k := s.memAccess_stores a bs hw hl hb
  unfold State.memServe
  split
  · next t ans pg h hp =>
    rw [h] at k
    dsimp only
    split
    · exact (k.trans (State.noteYields_stores _ _ _ _)).trans (State.memTraffic_stores _ _ _ _ _)
    · exact k
  · exact k

theorem State.devPiece_stores (s : State) (a : Access) (bs : List Byte) (hw : a.wr = some bs) (hl : bs.length ≤ a.len)
    (hb : s.bad = []) : StoresIn (fun x => ∃ pg, s.pageAt a.fn a.addr = some pg ∧ ∃ k, k < a.len ∧ x = frameByte pg.frame (a.addr % 65536 + k))
      s (s.devPiece a).1 := by
  have k := s.memServe_stores a bs hw hl hb
  unfold State.devPiece
  split
  · next h => rw [h] at k; exact k
  · next h =>
    rw [h] at k
    split
    · next e _ => rw [hw] at e; cases e
    · exact k

/-- Pieces in pages whose frames stay: each stores at the bytes of its own page as it stood at first. -/
theorem pieces_stores {α : Type} (fn : Nat) (step : State × α → Nat × Nat → State × α) (s0 : State)
    (hstep : ∀ (acc : State × α) p, acc.1.bad = [] →
      StoresIn (fun x => ∃ pg, acc.1.pageAt fn p.1 = some pg ∧ ∃ k, k < p.2 ∧ x = frameByte pg.frame (p.1 % 65536 + k)) acc.1 (step acc p).1)
    (ps all : List (Nat × Nat)) (hps : ∀ p ∈ ps, p ∈ all) : ∀ acc : State × α,
    StoresIn (fun x => ∃ p ∈ all, ∃ pg, s0.pageAt fn p.1 = some pg ∧ ∃ k, k < p.2 ∧ x = frameByte pg.frame (p.1 % 65536 + k)) s0 acc.1 →
    s0.bad = [] →
    StoresIn (fun x => ∃ p ∈ all, ∃ pg, s0.pageAt fn p.1 = some pg ∧ ∃ k, k < p.2 ∧ x = frameByte pg.frame (p.1 % 65536 + k)) s0
      (ps.foldl step acc).1 := by
  induction ps with
  | nil => intro acc h _; exact h
  | cons p ps ih =>
    intro acc h hb
    rw [List.foldl_cons]
    refine ih (fun q hq => hps q (List.mem_cons_of_mem _ hq)) _ (h.trans ((hstep acc p (h.bad hb)).mono ?_)) hb
    rintro x ⟨pg, hp, k, hk, rfl⟩
    have e := h.pages fn p.1
    rw [hp] at e
    cases e0 : s0.pageAt fn p.1 with
    | none => rw [e0] at e; cases e
    | some pg0 =>
      rw [e0] at e
      exact ⟨p, hps p (List.mem_cons_self ..), pg0, e0, k, hk, by rw [← Option.some.inj e]⟩

/-- An engine's write of a range stores at the range's bytes only. -/
theorem State.devWrite_stores (s : State) (src : Source) (fn addr : Nat) (bs : List Byte) (die : Option Nat) (hb : s.bad = []) :
    StoresIn (s.holdsAt fn addr bs.length) s (s.devWrite src fn addr bs die).1 := by
  refine pieces_stores fn _ s (fun acc p h => ?_) _ _ (fun _ h => h) (s, Status.ok) (.refl s) hb
  exact State.devPiece_stores acc.1 { fn := fn, src := src, die := die, addr := p.1, len := p.2, wr := some ((bs.drop (p.1 - addr)).take p.2) }
    _ rfl (by simp only [List.length_take]; omega) h

/-- Preparing a range for a write stores nothing. -/
theorem State.prepareWrite_stores {P : Nat → Prop} (s : State) (fn addr len : Nat) : StoresIn P s (s.prepareWrite fn addr len).1 := by
  unfold State.prepareWrite
  dsimp only
  have k : ∀ (ps : List (Nat × Nat)) (u : State), StoresIn P u (ps.foldl (fun s p =>
      match s.segmentAt fn p.1, s.pageAt fn p.1 with
      | some g, some pg =>
        if pg.frame.isBoard ∧ ¬ pg.moving ∧ ¬ g.frozen ∧ s.pageWaits pg 0 0 true = false then
          match s.writeFrame? g with
          | some t => if s.fld .MEM_STACK_STAT_STATE t.stack = 2 then s else s.writePromotes fn p.1 t
          | none => s
        else s
      | _, _ => s) u) := by
    intro ps
    induction ps with
    | nil => intro u; exact .refl u
    | cons p ps ih =>
      intro u
      rw [List.foldl_cons]
      refine StoresIn.trans ?_ (ih _)
      split
      · split
        · split
          · split
            · exact .refl u
            · exact u.writePromotes_stores _ _ _
          · exact .refl u
        · exact .refl u
      · exact .refl u
  exact k _ s

/-- A write of a flit, served or held, likewise: nothing answers it. -/
theorem State.takeAccess_stores (s : State) (a : Access) (bs : List Byte) (hw : a.wr = some bs) (hn : a.notify = none) (hl : bs.length ≤ a.len)
    (hb : s.bad = []) : StoresIn (fun x => ∃ pg, s.pageAt a.fn a.addr = some pg ∧ ∃ k, k < a.len ∧ x = frameByte pg.frame (a.addr % 65536 + k))
      s (s.takeAccess a 0) := by
  have k := s.memServe_stores a bs hw hl hb
  unfold State.takeAccess
  split
  · next h => rw [h] at k; exact k
  · next t ans h =>
    rw [h] at k
    refine k.trans ?_
    unfold State.accessEnds State.answerLink
    rw [hn]
    dsimp only
    split
    · next e => rw [hw] at e; cases e
    · exact .of_eq rfl rfl rfl

/-! ## A page copied whole -/

/-- A row of a frame holds bytes of the frame. -/
theorem frameRows_bytes (f : Frame) (hr : (frameRows f).length ≤ 64) (x : Nat) (hx : x / 1024 ∈ frameRows f) :
    ∃ k, k < 65536 ∧ x = frameByte f k := by
  cases f with
  | spread st row =>
    obtain ⟨pc, hpc, e⟩ := List.mem_map.1 hx
    have hpc := List.mem_range.1 hpc
    refine ⟨(x % 1024 / 32 * 64 + pc) * 32 + x % 32, by omega, ?_⟩
    unfold frameByte
    dsimp only
    rw [show ((x % 1024 / 32 * 64 + pc) * 32 + x % 32) / 32 = x % 1024 / 32 * 64 + pc by omega,
      show (x % 1024 / 32 * 64 + pc) % 64 = pc by omega, show (x % 1024 / 32 * 64 + pc) / 64 = x % 1024 / 32 by omega,
      show ((x % 1024 / 32 * 64 + pc) * 32 + x % 32) % 32 = x % 32 by omega, e]
    omega
  | channel st pc rows =>
    obtain ⟨row, hrow, e⟩ := List.mem_map.1 hx
    obtain ⟨i, hi, rfl⟩ := List.getElem_of_mem hrow
    have hlen : rows.length ≤ 64 := by simpa [frameRows] using hr
    refine ⟨(i * 32 + x % 1024 / 32) * 32 + x % 32, by omega, ?_⟩
    unfold frameByte
    dsimp only
    rw [show ((i * 32 + x % 1024 / 32) * 32 + x % 32) / 32 = i * 32 + x % 1024 / 32 by omega,
      show (i * 32 + x % 1024 / 32) % 32 = x % 1024 / 32 by omega, show (i * 32 + x % 1024 / 32) / 32 = i by omega,
      show ((i * 32 + x % 1024 / 32) * 32 + x % 32) % 32 = x % 32 by omega, List.getD_eq_getElem?_getD, List.getElem?_eq_getElem hi,
      Option.getD_some, e]
    omega
  | board p fr =>
    obtain ⟨k, hk, e⟩ := List.mem_map.1 hx
    have hk := List.mem_range.1 hk
    have hb : boardBase = 2 ^ 45 := rfl
    refine ⟨k * 1024 + x % 1024, by omega, ?_⟩
    show x = boardBase + p * 2 ^ 37 + fr * 65536 + (k * 1024 + x % 1024)
    rw [hb] at e ⊢
    omega

/-- A frame filled with zero is stored to in its own bytes only. -/
theorem State.zeroFrame_stores (s : State) (f : Frame) (hr : (frameRows f).length ≤ 64) :
    StoresIn (fun x => ∃ k, k < 65536 ∧ x = frameByte f k) s (s.zeroFrame f) := by
  refine ⟨fun h => by unfold State.zeroFrame; simp [h], fun x hx => ?_, fun fn a => rfl⟩
  unfold State.zeroFrame
  dsimp only
  have key : ∀ p : Nat → Bool, p x = false → memByte (s.mem.filter (fun e => !p e.1)) x = memByte s.mem x := by
    intro p hp
    unfold memByte
    rw [storeGet_filter 0 (fun k => !p k), if_pos (by rw [hp]; rfl)]
  cases f with
  | spread st row =>
    exact key (fun phys => (frameRows (.spread st row)).contains (phys / 1024)) (by
      by_contra h
      exact hx (frameRows_bytes _ hr x (by simpa using h)))
  | channel st pc rows =>
    exact key (fun phys => (frameRows (.channel st pc rows)).contains (phys / 1024)) (by
      by_contra h
      exact hx (frameRows_bytes _ hr x (by simpa using h)))
  | board p fr =>
    refine key (fun phys => decide (boardBase + p * 2 ^ 37 + fr * 65536 ≤ phys) && decide (phys < boardBase + p * 2 ^ 37 + fr * 65536 + 65536)) ?_
    by_contra h
    simp only [Bool.not_eq_false, Bool.and_eq_true, decide_eq_true_eq] at h
    exact hx ⟨x - (boardBase + p * 2 ^ 37 + fr * 65536), by omega, by show x = boardBase + p * 2 ^ 37 + fr * 65536 + _; omega⟩

/-- A page copied into a frame is stored in that frame's bytes only. -/
theorem State.copyFrame_stores (s : State) (src dst : Frame) (hr : (frameRows dst).length ≤ 64) :
    StoresIn (fun x => ∃ k, k < 65536 ∧ x = frameByte dst k) s (s.copyFrame src dst) := by
  have put : ∀ (data : List (Nat × Byte)) (m : Memory) (x : Nat), (∀ e ∈ data, e.1 < 65536) → (¬ ∃ k, k < 65536 ∧ x = frameByte dst k) →
      memByte (data.foldl (fun m e => memPut m (frameByte dst e.1) e.2) m) x = memByte m x := by
    intro data
    induction data with
    | nil => intro m x _ _; rfl
    | cons e data ih =>
      intro m x he hx
      rw [List.foldl_cons, ih _ _ (fun y hy => he y (List.mem_cons_of_mem _ hy)) hx, memByte_memPut, if_neg]
      exact fun h => hx ⟨e.1, he e (List.mem_cons_self ..), h⟩
  have moved : StoresIn (fun x => ∃ k, k < 65536 ∧ x = frameByte dst k) s
      (((((s.straitOffer (frameIsland src) 17 0 (unitsOf 65536)).straitOffer 17 (frameIsland dst) 0 (unitsOf 65536)).noteYields src 0 65536).noteYields
        dst 0 65536).zeroFrame dst) :=
    ((((s.straitOffer_stores _ _ _ _).trans (State.straitOffer_stores _ _ _ _ _)).trans (State.noteYields_stores _ _ _ _)).trans
      (State.noteYields_stores _ _ _ _)).trans (State.zeroFrame_stores _ dst hr)
  unfold State.copyFrame
  dsimp only
  refine moved.trans ?_
  generalize hd : List.filterMap _ (List.range 65536) = data
  have small : ∀ e ∈ data, e.1 < 65536 := by
    intro e he
    rw [← hd, List.mem_filterMap] at he
    obtain ⟨k, hk, e'⟩ := he
    rw [List.mem_range] at hk
    split at e'
    · cases e'
    · rw [← Option.some.inj e']; exact hk
  clear hd
  exact ⟨id, fun x hx => put data _ x small hx, fun _ _ => rfl⟩

/-- A frame without an error in memory is read whole, and nothing changes. -/
theorem State.readWhole_clean (s : State) (src : Source) (fn : Nat) (f : Frame) (pageAddr : Option Nat) (hb : s.bad = []) :
    s.readWhole src fn f pageAddr = (s, true) := by
  unfold State.readWhole
  dsimp only
  rw [hb]
  generalize unitOffsets f 0 65536 = us
  induction us with
  | nil => rfl
  | cons u us ih => rw [List.foldl_cons]; exact ih

end Sys2Proof.Machine
end

