-- ==== Sys2Proof/WellFormed.lean ====
section
/-! DEFINITION. Well-formed commands: every unit a command names has a number of R10 (and of the tables that number the others). -/

namespace Sys2Proof

/-- What an operand names, with its number. -/
inductive Unit where
  /-- Functions 0-8 (R10). -/
  | function (n : Nat)
  /-- Functions 1-8 (R10). -/
  | partition (n : Nat)
  /-- Islets (R10). -/
  | islet (n : Nat)
  /-- Jumel ports (R10). -/
  | jumelPort (n : Nat)
  /-- Mainland ports (R10). -/
  | mainlandPort (n : Nat)
  /-- Isle dies (R10). -/
  | die (n : Nat)
  /-- Clock islands (R10). -/
  | island (n : Nat)
  /-- HBM stacks (R10). -/
  | stack (n : Nat)
  /-- Pseudo-channels of a stack (R10). -/
  | pseudoChannel (n : Nat)
  /-- Straits (R25). -/
  | strait (n : Nat)
  /-- Strait classes TC0-TC3 (R28). -/
  | cls (n : Nat)
  /-- Queues of a function (R376). -/
  | queue (n : Nat)
  /-- Stage slots (R190). -/
  | stage (n : Nat)
  /-- Job contexts (R322). -/
  | context (n : Nat)
  /-- Buckets of a job (R324). -/
  | bucket (n : Nat)
  /-- Copy engines of an islet (R89). -/
  | engine (n : Nat)
  /-- Scratchpad banks (R81). -/
  | bank (n : Nat)
  /-- Quadrants of a matrix array (R106). -/
  | quadrant (n : Nat)
  /-- Virtual channels of a port (R291). -/
  | channel (n : Nat)
  /-- MCTP bindings (R461). -/
  | binding (n : Nat)
  /-- Output ports of a router (R95). -/
  | isletPort (n : Nat)
  /-- Channel ends of an islet (R97). -/
  | chanId (n : Nat)
  /-- Physical lanes of a direction of a port (R276). -/
  | lane (n : Nat)
  /-- Chain addresses (R304). -/
  | address (n : Nat)
  /-- Read tags (R284). -/
  | tag (n : Nat)
  /-- DVFS points (R434). -/
  | point (n : Nat)
  /-- Cores of a cluster (R373). -/
  | core (n : Nat)
  /-- Event sources (R395). -/
  | source (n : Nat)
  /-- Shards (R346). -/
  | shard (n : Nat)
  /-- Ends of control packets: islets, and the controllers of a die as 384 + d (R100). -/
  | packetEnd (n : Nat)
  /-- A flit: its header fields in their widths (R284). -/
  | flit (f : Flit)
  deriving DecidableEq, Repr

/-- A flit whose header fields fit their widths and whose payload fits 512 bytes (R283, R284). -/
def Flit.fits (f : Flit) : Bool :=
  decide (f.ftype < 256) && decide (f.sub < 256) && decide (f.ttl < 256) && decide (f.dst < 256) && decide (f.src < 256) &&
  decide (f.dfn < 9) && decide (f.sfn < 9) && decide (f.tag < 256) && decide (f.len ≤ 16) && decide (f.vc < 4) &&
  decide (f.addr < 2 ^ 64) && decide (f.payload.length ≤ 512)

/-- The number is one that R10 or the unit's table gives. -/
def Unit.ok : Unit → Bool
  | .function n => decide (n < 9)
  | .partition n => decide (1 ≤ n) && decide (n < 9)
  | .islet n => decide (n < 384)
  | .jumelPort n => decide (n < 24)
  | .mainlandPort n => decide (n < 16)
  | .die n => decide (n < 4)
  | .island n => decide (n < 18)
  | .stack n => decide (n < 8)
  | .pseudoChannel n => decide (n < 64)
  | .strait n => decide (n < 35)
  | .cls n => decide (n < 4)
  | .queue n => decide (n < 64)
  | .stage n => decide (n < 64)
  | .context n => decide (n < 32)
  | .bucket n => decide (n < 4096)
  | .engine n => decide (n < 2)
  | .bank n => decide (n < 16)
  | .quadrant n => decide (n < 4)
  | .channel n => decide (n < 4)
  | .binding n => decide (n < 2)
  | .isletPort n => decide (n < 6)
  | .chanId n => decide (n < 32)
  | .lane n => decide (n < 9)
  | .address n => decide (n < 256)
  | .tag n => decide (n < 256)
  | .point n => decide (n < 15)
  | .core n => decide (n < 4)
  | .source n => decide (n < 16)
  | .shard n => decide (n < 4096)
  | .packetEnd n => decide (n < 388)
  | .flit f => f.fits

/-- The units a command names. -/
def Instr.units : Instr → List Unit
  | .straitUnitSend n _ => [.strait n]
  | .straitUnitArrive n _ cls _ _ => [.strait n, .cls cls]
  | .straitStallTimeout n _ => [.strait n]
  | .straitCrossbarForward die out cls => [.die die, .strait out, .cls cls]
  | .pllRelockDone island => [.island island]
  | .loadStart fn _ => [.function fn]
  | .loadQueuedStart fn => [.function fn]
  | .loadCancel fn _ => [.function fn]
  | .loadHeaderFetched fn _ => [.function fn]
  | .loadStageStart fn => [.function fn]
  | .loadStageDone fn _ => [.function fn]
  | .loadFault fn _ => [.function fn]
  | .loadWaitIdleExit fn => [.function fn]
  | .loadQuiesceDone fn => [.function fn]
  | .loadWriteDone fn => [.function fn]
  | .launchParamsRead _ _ => []
  | .isletStartArrive _ islet => [.islet islet]
  | .launchTimeout _ => []
  | .collisionForcedGrant islet bank => [.islet islet, .bank bank]
  | .isletFault islet _ _ _ => [.islet islet]
  | .islStop fn islet _ => [.function fn, .islet islet]
  | .isletReset fn islet _ => [.function fn, .islet islet]
  | .copyPlanStart islet eng _ => [.islet islet, .engine eng]
  | .copyReadReturn islet eng _ _ _ => [.islet islet, .engine eng]
  | .copyPlanComplete islet eng => [.islet islet, .engine eng.unit]
  | .seqNop islet => [.islet islet]
  | .seqMx islet => [.islet islet]
  | .seqVx islet => [.islet islet]
  | .seqCopy islet => [.islet islet]
  | .seqSend islet => [.islet islet.unit]
  | .seqRecv islet => [.islet islet]
  | .seqWait islet => [.islet islet]
  | .seqSetf islet => [.islet islet]
  | .seqClrf islet => [.islet islet]
  | .seqSignal islet => [.islet islet]
  | .seqLdcnt islet => [.islet islet]
  | .seqLoop islet => [.islet islet]
  | .seqJump islet => [.islet islet]
  | .seqFence islet => [.islet islet]
  | .seqHalt islet => [.islet islet]
  | .seqStallRelease islet => [.islet islet.unit]
  | .channelUnitHop islet port => [.islet islet, .isletPort port]
  | .channelUnitReceive islet chan _ => [.islet islet, .chanId chan]
  | .channelCreditReturn islet chan => [.islet islet, .chanId chan]
  | .controlPacketArrive src dst => [.packetEnd src, .packetEnd dst]
  | .gangOpStart islet => [.islet islet]
  | .mxLoadDispatch islet => [.islet islet]
  | .mxLoadComplete islet quad corrected => [.islet islet, .quadrant quad] ++ corrected.map (fun e => Unit.islet e.1)
  | .mxSwap islet => [.islet islet]
  | .mxTileStart islet => [.islet islet]
  | .mxTileComplete islet quad _ spCorrected _ => [.islet islet, .quadrant quad] ++ spCorrected.map (fun e => Unit.islet e.1)
  | .mxCombineStart islet => [.islet islet]
  | .mxCombineComplete islet spCorrected _ => [.islet islet] ++ spCorrected.map (fun e => Unit.islet e.1)
  | .mxIdleGate islet => [.islet islet]
  | .vxChainStart islet => [.islet islet]
  | .vxChainComplete islet _ _ _ => [.islet islet]
  | .phaseStart fn slot => [.function fn, .stage slot]
  | .phaseDone fn slot => [.function fn, .stage slot]
  | .phaseTimeout fn slot => [.function fn, .stage slot]
  | .shoalWindowAccess fn _ _ _ _ => [.function fn]
  | .feedCopyDone fn slot _ => [.function fn, .stage slot]
  | .memoryAccess fn src _ _ _ _ => [.function fn, .die src.die]
  | .hbmRefresh stack pc _ => [.stack stack, .pseudoChannel pc]
  | .patrolScrub _ _ => []
  | .pageRelocate fn _ => [.function fn]
  | .mainlandPortDown port => [.mainlandPort port]
  | .migGo fn _ => [.function fn]
  | .migMap fn => [.function fn]
  | .migUnmap fn => [.function fn]
  | .migPromote fn => [.function fn]
  | .migDemote fn => [.function fn]
  | .migCopy fn => [.function fn]
  | .migIngest fn => [.function fn]
  | .migPageStart fn _ _ => [.function fn]
  | .demotePageCopied port _ => [.mainlandPort port]
  | .promotePageDone port _ => [.mainlandPort port]
  | .migRequestComplete fn => [.function fn]
  | .migCancel fn _ => [.function fn]
  | .xlateLookup fn _ => [.function fn]
  | .xlateLookupDone fn => [.function fn]
  | .reefWindowWrite fn _ _ => [.function fn]
  | .reefGo fn stack _ => [.function fn, .stack stack]
  | .reefCancel fn stack _ => [.function fn, .stack stack]
  | .reefAdmit stack => [.stack stack]
  | .reefOpStart stack _ => [.stack stack]
  | .reefOpEnd stack _ _ => [.stack stack]
  | .reefUncorrectable stack _ pc => [.stack stack, .pseudoChannel pc]
  | .laneFail p lane => [.jumelPort p, .lane lane.lane]
  | .laneSwitchOver p => [.jumelPort p]
  | .laneSwapTimeout p => [.jumelPort p]
  | .flitSend p vc => [.jumelPort p, .channel vc]
  | .flitCorrupt p _ => [.jumelPort p]
  | .flitReservedType p rx => [.jumelPort p, .flit rx.flit]
  | .idle p rx => [.jumelPort p, .flit rx.flit]
  | .write p rx => [.jumelPort p, .flit rx.flit]
  | .readReq p rx => [.jumelPort p, .flit rx.flit]
  | .readRsp p rx => [.jumelPort p, .flit rx.flit]
  | .interrupt p rx => [.jumelPort p, .flit rx.flit]
  | .unreachable p rx => [.jumelPort p, .flit rx.flit]
  | .claim p rx => [.jumelPort p, .flit rx.flit]
  | .claimAck p rx => [.jumelPort p, .flit rx.flit]
  | .claimEnd p rx => [.jumelPort p, .flit rx.flit]
  | .probe p rx => [.jumelPort p, .flit rx.flit]
  | .probeAck p rx => [.jumelPort p, .flit rx.flit]
  | .brk p rx => [.jumelPort p, .flit rx.flit]
  | .hello p rx => [.jumelPort p, .flit rx.flit]
  | .keyShare p rx => [.jumelPort p, .flit rx.flit]
  | .cert p rx => [.jumelPort p, .flit rx.flit]
  | .keyAuth p rx => [.jumelPort p, .flit rx.flit]
  | .keyDone p rx => [.jumelPort p, .flit rx.flit]
  | .rekeySwitch p rx => [.jumelPort p, .flit rx.flit]
  | .laneSwap p rx => [.jumelPort p, .flit rx.flit]
  | .laneSwapAck p rx => [.jumelPort p, .flit rx.flit]
  | .rs p rx => [.jumelPort p, .flit rx.flit]
  | .rsEnd p rx => [.jumelPort p, .flit rx.flit]
  | .ag p rx => [.jumelPort p, .flit rx.flit]
  | .agEnd p rx => [.jumelPort p, .flit rx.flit]
  | .up p rx => [.jumelPort p, .flit rx.flit]
  | .upEnd p rx => [.jumelPort p, .flit rx.flit]
  | .down p rx => [.jumelPort p, .flit rx.flit]
  | .downEnd p rx => [.jumelPort p, .flit rx.flit]
  | .vote p rx => [.jumelPort p, .flit rx.flit]
  | .voteResult p rx => [.jumelPort p, .flit rx.flit]
  | .stepAbort p rx => [.jumelPort p, .flit rx.flit]
  | .replayTimeout p => [.jumelPort p]
  | .livenessTimeout p => [.jumelPort p]
  | .keyingTimeout p => [.jumelPort p]
  | .keyingResend p => [.jumelPort p]
  | .readTimeout fn tag => [.function fn, .tag tag]
  | .flitStall p vc => [.jumelPort p, .channel vc]
  | .claimWait => []
  | .trainingDone p txSpare rxSpare => [.jumelPort p, .lane txSpare, .lane rxSpare]
  | .trainTimeout p => [.jumelPort p]
  | .portRetry p => [.jumelPort p]
  | .peerLoss p => [.jumelPort p]
  | .portEnable fn p _ => [.function fn, .jumelPort p]
  | .portReset fn p _ => [.function fn, .jumelPort p]
  | .portRekey fn p _ => [.function fn, .jumelPort p]
  | .rekeyThreshold p => [.jumelPort p]
  | .counterLimit p => [.jumelPort p]
  | .rekeyTimeout p => [.jumelPort p]
  | .rekeyRetry p => [.jumelPort p]
  | .routeWrite fn d _ => [.function fn, .address d]
  | .bucketStart ctx b => [.context ctx, .bucket b]
  | .heldFlitRelease p => [.jumelPort p]
  | .bucketComplete ctx b => [.context ctx, .bucket b]
  | .bucketDeadline ctx b => [.context ctx, .bucket b]
  | .voteTimeout ctx => [.context ctx]
  | .redResume fn ctx _ => [.function fn, .context ctx]
  | .redAbortStep fn ctx _ => [.function fn, .context ctx]
  | .normEntryAccepted fn _ => [.function fn]
  | .normTimeout fn => [.function fn]
  | .shardUpdateStart fn shard => [.function fn, .shard shard]
  | .shardCommit fn shard => [.function fn, .shard shard]
  | .digestRecordAccepted fn _ => [.function fn]
  | .digestTimeout fn => [.function fn]
  | .optRecover fn _ => [.function fn]
  | .optAdopt fn _ => [.function fn]
  | .queueDoorbell fn q _ => [.function fn, .queue q]
  | .descriptorFetched fn q _ => [.function fn, .queue q]
  | .cmdNop fn q => [.function fn, .queue q]
  | .cmdLoad fn q => [.function fn, .queue q]
  | .cmdLaunch fn q => [.function fn, .queue q]
  | .cmdStep fn q => [.function fn, .queue q]
  | .cmdGenerate fn q _ => [.function fn, .queue q]
  | .cmdMigrate fn q => [.function fn, .queue q]
  | .servicePause fn q => [.function fn, .queue q]
  | .serviceResume fn q => [.function fn, .queue q]
  | .serviceStop fn q => [.function fn, .queue q]
  | .completionWrite fn q _ => [.function fn, .queue q]
  | .completionDoorbell fn q _ => [.function fn, .queue q]
  | .queueEnable fn q _ => [.function fn, .queue q]
  | .queueDisable fn q _ => [.function fn, .queue q]
  | .controllerWatchdogWrite die core => [.die die, .core core]
  | .controllerRestart die => [.die die]
  | .controllerRestartDone die => [.die die]
  | .stepRecordWrite fn => [.function fn]
  | .genPoll fn _ => [.function fn]
  | .eventBitClear fn _ _ => [.function fn]
  | .eventRouteWrite fn k _ => [.function fn, .source k]
  | .registerWrite fn _ _ => [.function fn]
  | .functionEnable fn f _ => [.function fn, .partition f]
  | .enableComplete f => [.partition f]
  | .functionDisable fn f _ => [.function fn, .partition f]
  | .grantCtlReset fn f _ => [.function fn, .partition f]
  | .fnCtlReset fn _ => [.function fn]
  | .shutdownComplete f => [.partition f]
  | .grantWrite fn _ _ => [.function fn]
  | .keyRotate fn _ => [.function fn]
  | .rotationKeyLoaded f => [.partition f]
  | .sweepPageStart f port _ => [.partition f, .mainlandPort port]
  | .sweepPageDone f port => [.partition f, .mainlandPort port]
  | .drbgHealthFail _ => []
  | .drbgReseed => []
  | .getVersion bind _ => [.binding bind]
  | .getCapabilities bind _ => [.binding bind]
  | .negotiateAlgorithms bind _ => [.binding bind]
  | .getDigests bind _ => [.binding bind]
  | .getCertificate bind _ => [.binding bind]
  | .challenge bind _ => [.binding bind]
  | .getMeasurements bind _ => [.binding bind]
  | .spdmUnsupported bind _ => [.binding bind]
  | .harbourWatchdog => []
  | .hbrEvtClear fn _ => [.function fn]
  | .hbrEvtRouteWrite fn _ => [.function fn]
  | .wakeRequest islet => [.islet islet]
  | .dvfsRequest die point => [.die die, .point point]
  | .govWindowStart => []
  | .chargeEnd die => [.die die]
  | .govCfgWrite fn _ => [.function fn]
  | .dvfsVoltageSettled die => [.die die]
  | .tempSample _ _ => []
  | .thermalCapStep die => [.die die]
  | .leadRequest _ => []
  | .leadRelease => []
  | .leadGrant => []
  | .leadHoldTimeout => []
  | .leaderTakeover _ => []
  | .gateActionArrive _ gate => [.die gate]
  | .gateResponse _ => []
  | .gateGo _ gate => [.die gate]
  | .gateDrop _ gate => [.die gate]
  | .gateTimeout _ gate => [.die gate]
  | .snapshotGo fn _ => [.function fn]
  | .snapshotUnitAccept island => [.island island]
  | .warmReset fn _ => [.function fn]
  | .stackReset fn _ => [.function fn]
  | .stackResetDone stack => [.stack stack]
  | .bootReady _ _ => []
  | .readyTimeout => []
  | .trialTimeout => []
  | .fwStage fn _ => [.function fn]
  | .fwStageDone _ => []
  | .fwCancel fn _ => [.function fn]
  | .journalCommit _ => []
  | .journalCompact fn _ => [.function fn]
  | .journalCompactionDone => []
  | .mctpInGo fn _ => [.function fn]
  | .mctpOutAck fn _ => [.function fn]
  | .setEndpointId bind _ => [.binding bind]
  | .getEndpointId bind _ => [.binding bind]
  | .getMctpVersionSupport bind _ => [.binding bind]
  | .getMessageTypeSupport bind _ => [.binding bind]
  | .getTid bind _ => [.binding bind]
  | .setTid bind _ => [.binding bind]
  | .getPldmVersion bind _ => [.binding bind]
  | .getPldmTypes bind _ => [.binding bind]
  | .getPldmCommands bind _ => [.binding bind]
  | .getPdrRepositoryInfo bind _ => [.binding bind]
  | .getPdr bind _ => [.binding bind]
  | .getSensorReading bind _ => [.binding bind]
  | .getStateSensorReadings bind _ => [.binding bind]
  | .pldmFirmwareUpdate bind _ => [.binding bind]
  | .pldmUnsupported bind _ => [.binding bind]
  | .entdaa _ => []
  | .setdasa _ _ => []
  | .bypass => []
  | .idcode => []
  | .samplePreload _ _ => []
  | .extest => []
  | .clamp => []
  | .highz => []
  | .extestPulse => []
  | .extestTrain => []
  | .resetNAssert => []
  | .resetNRelease => []
  | .pwrGoodNAssert => []
  | .pwrGoodNRelease => []
  | .testEnAssert => []
  | .testEnRelease => []
  | .refclkFault => []
  | .powerLoss => []
  | .harbourWatchdogWrite core => [.core core]
  | .mainlandPortTrainingLoss port => [.mainlandPort port]
  | .mainlandPortRetrained port => [.mainlandPort port]
  | .mainlandRefresh port _ => [.mainlandPort port]
  | .shardDigestReadDone fn shard => [.function fn, .shard shard]
  | .adoptRegenerationDone fn => [.function fn]

/-- Shape of the operands beside units: an access lies in one page and a write brings as many bytes as it names. -/
def Instr.shaped : Instr → Bool
  | .memoryAccess _ _ addr len wr _ => decide (addr % 65536 + len ≤ 65536) && (match wr with | some bs => bs.length == len | none => true)
  | .shoalWindowAccess _ _ len wr _ => (match wr with | some bs => bs.length == len | none => true)
  | .tempSample temps dram => temps.length == 18 && dram.length == 8
  | .bootReady mlCaps mlBad => decide (mlCaps.length ≤ 16) && mlBad.all (fun p => decide (p < 16))
  | .registerWrite _ off _ => off % 8 == 0 && decide (off < 0x4000000)
  | .eventBitClear _ off _ => off % 8 == 0 && decide (off < 0x4000000)
  | .grantWrite _ off _ => off % 8 == 0 && decide (off < 0x4000000)
  | _ => true

/-- A well-formed command. -/
def Instr.wf (i : Instr) : Bool := i.units.all Unit.ok && i.shaped

end Sys2Proof
end

