-- ==== Sys2Proof/Laws/PerInstr.lean ====
section
/-! SUPPORT. Statements about each command as syntax. -/

namespace Sys2Proof.Laws

/-- A well-formed command names only units that exist, and is well-shaped. -/
def Wf.Statement (i : Instr) : Prop := i.wf = true → (∀ u ∈ i.units, u.ok = true) ∧ i.shaped = true

/-- The statement holds of every command. -/
theorem wf_units (i : Instr) : Wf.Statement i := by
  intro h
  simp only [Instr.wf, Bool.and_eq_true, List.all_eq_true] at h
  exact h

theorem Wf.straitUnitSend (n : Nat) (ba : Bool) : Wf.Statement (.straitUnitSend n ba) := wf_units _
theorem Wf.straitUnitArrive (n : Nat) (ba : Bool) (cls : Nat) (crcOk : Bool) (syndrome : Nat) : Wf.Statement (.straitUnitArrive n ba cls crcOk syndrome) := wf_units _
theorem Wf.straitStallTimeout (n : Nat) (ba : Bool) : Wf.Statement (.straitStallTimeout n ba) := wf_units _
theorem Wf.straitCrossbarForward (die : Nat) (out : Nat) (cls : Nat) : Wf.Statement (.straitCrossbarForward die out cls) := wf_units _
theorem Wf.pllRelockDone (island : Nat) : Wf.Statement (.pllRelockDone island) := wf_units _
theorem Wf.loadStart (fn : Nat) (w : Word) : Wf.Statement (.loadStart fn w) := wf_units _
theorem Wf.loadQueuedStart (fn : Nat) : Wf.Statement (.loadQueuedStart fn) := wf_units _
theorem Wf.loadCancel (fn : Nat) (w : Word) : Wf.Statement (.loadCancel fn w) := wf_units _
theorem Wf.loadHeaderFetched (fn : Nat) (ans : Answer) : Wf.Statement (.loadHeaderFetched fn ans) := wf_units _
theorem Wf.loadStageStart (fn : Nat) : Wf.Statement (.loadStageStart fn) := wf_units _
theorem Wf.loadStageDone (fn : Nat) (ans : Answer) : Wf.Statement (.loadStageDone fn ans) := wf_units _
theorem Wf.loadFault (fn : Nat) (st : Status) : Wf.Statement (.loadFault fn st) := wf_units _
theorem Wf.loadWaitIdleExit (fn : Nat) : Wf.Statement (.loadWaitIdleExit fn) := wf_units _
theorem Wf.loadQuiesceDone (fn : Nat) : Wf.Statement (.loadQuiesceDone fn) := wf_units _
theorem Wf.loadWriteDone (fn : Nat) : Wf.Statement (.loadWriteDone fn) := wf_units _
theorem Wf.launchParamsRead (lid : Nat) (ans : Answer) : Wf.Statement (.launchParamsRead lid ans) := wf_units _
theorem Wf.isletStartArrive (lid : Nat) (islet : Nat) : Wf.Statement (.isletStartArrive lid islet) := wf_units _
theorem Wf.launchTimeout (lid : Nat) : Wf.Statement (.launchTimeout lid) := wf_units _
theorem Wf.collisionForcedGrant (islet : Nat) (bank : Nat) : Wf.Statement (.collisionForcedGrant islet bank) := wf_units _
theorem Wf.isletFault (islet : Nat) (cause : Nat) (place : Nat) (index : Nat) : Wf.Statement (.isletFault islet cause place index) := wf_units _
theorem Wf.islStop (fn : Nat) (islet : Nat) (w : Word) : Wf.Statement (.islStop fn islet w) := wf_units _
theorem Wf.isletReset (fn : Nat) (islet : Nat) (w : Word) : Wf.Statement (.isletReset fn islet w) := wf_units _
theorem Wf.copyPlanStart (islet : Nat) (eng : Nat) (corrected : Nat) : Wf.Statement (.copyPlanStart islet eng corrected) := wf_units _
theorem Wf.copyReadReturn (islet : Nat) (eng : Nat) (k : Nat) (upset : Nat) (losses : Nat) : Wf.Statement (.copyReadReturn islet eng k upset losses) := wf_units _
theorem Wf.copyPlanComplete (islet : Nat) (eng : Corrected) : Wf.Statement (.copyPlanComplete islet eng) := wf_units _
theorem Wf.seqNop (islet : Nat) : Wf.Statement (.seqNop islet) := wf_units _
theorem Wf.seqMx (islet : Nat) : Wf.Statement (.seqMx islet) := wf_units _
theorem Wf.seqVx (islet : Nat) : Wf.Statement (.seqVx islet) := wf_units _
theorem Wf.seqCopy (islet : Nat) : Wf.Statement (.seqCopy islet) := wf_units _
theorem Wf.seqSend (islet : Corrected) : Wf.Statement (.seqSend islet) := wf_units _
theorem Wf.seqRecv (islet : Nat) : Wf.Statement (.seqRecv islet) := wf_units _
theorem Wf.seqWait (islet : Nat) : Wf.Statement (.seqWait islet) := wf_units _
theorem Wf.seqSetf (islet : Nat) : Wf.Statement (.seqSetf islet) := wf_units _
theorem Wf.seqClrf (islet : Nat) : Wf.Statement (.seqClrf islet) := wf_units _
theorem Wf.seqSignal (islet : Nat) : Wf.Statement (.seqSignal islet) := wf_units _
theorem Wf.seqLdcnt (islet : Nat) : Wf.Statement (.seqLdcnt islet) := wf_units _
theorem Wf.seqLoop (islet : Nat) : Wf.Statement (.seqLoop islet) := wf_units _
theorem Wf.seqJump (islet : Nat) : Wf.Statement (.seqJump islet) := wf_units _
theorem Wf.seqFence (islet : Nat) : Wf.Statement (.seqFence islet) := wf_units _
theorem Wf.seqHalt (islet : Nat) : Wf.Statement (.seqHalt islet) := wf_units _
theorem Wf.seqStallRelease (islet : Corrected) : Wf.Statement (.seqStallRelease islet) := wf_units _
theorem Wf.channelUnitHop (islet : Nat) (port : Nat) : Wf.Statement (.channelUnitHop islet port) := wf_units _
theorem Wf.channelUnitReceive (islet : Nat) (chan : Nat) (losses : Nat) : Wf.Statement (.channelUnitReceive islet chan losses) := wf_units _
theorem Wf.channelCreditReturn (islet : Nat) (chan : Nat) : Wf.Statement (.channelCreditReturn islet chan) := wf_units _
theorem Wf.controlPacketArrive (src : Nat) (dst : Nat) : Wf.Statement (.controlPacketArrive src dst) := wf_units _
theorem Wf.gangOpStart (islet : Nat) : Wf.Statement (.gangOpStart islet) := wf_units _
theorem Wf.mxLoadDispatch (islet : Nat) : Wf.Statement (.mxLoadDispatch islet) := wf_units _
theorem Wf.mxLoadComplete (islet : Nat) (quad : Nat) (corrected : List (Nat × Nat)) : Wf.Statement (.mxLoadComplete islet quad corrected) := wf_units _
theorem Wf.mxSwap (islet : Nat) : Wf.Statement (.mxSwap islet) := wf_units _
theorem Wf.mxTileStart (islet : Nat) : Wf.Statement (.mxTileStart islet) := wf_units _
theorem Wf.mxTileComplete (islet : Nat) (quad : Nat) (stalls : Nat) (spCorrected : List (Nat × Nat)) (mxCorrected : Nat) : Wf.Statement (.mxTileComplete islet quad stalls spCorrected mxCorrected) := wf_units _
theorem Wf.mxCombineStart (islet : Nat) : Wf.Statement (.mxCombineStart islet) := wf_units _
theorem Wf.mxCombineComplete (islet : Nat) (spCorrected : List (Nat × Nat)) (mxCorrected : Nat) : Wf.Statement (.mxCombineComplete islet spCorrected mxCorrected) := wf_units _
theorem Wf.mxIdleGate (islet : Nat) : Wf.Statement (.mxIdleGate islet) := wf_units _
theorem Wf.vxChainStart (islet : Nat) : Wf.Statement (.vxChainStart islet) := wf_units _
theorem Wf.vxChainComplete (islet : Nat) (stalls : Nat) (spCorrected : Nat) (vxCorrected : Nat) : Wf.Statement (.vxChainComplete islet stalls spCorrected vxCorrected) := wf_units _
theorem Wf.phaseStart (fn : Nat) (slot : Nat) : Wf.Statement (.phaseStart fn slot) := wf_units _
theorem Wf.phaseDone (fn : Nat) (slot : Nat) : Wf.Statement (.phaseDone fn slot) := wf_units _
theorem Wf.phaseTimeout (fn : Nat) (slot : Nat) : Wf.Statement (.phaseTimeout fn slot) := wf_units _
theorem Wf.shoalWindowAccess (fn : Nat) (addr : Nat) (len : Nat) (wr : Option (List Byte)) (upset : Nat) : Wf.Statement (.shoalWindowAccess fn addr len wr upset) := wf_units _
theorem Wf.feedCopyDone (fn : Nat) (slot : Nat) (ans : Answer) : Wf.Statement (.feedCopyDone fn slot ans) := wf_units _
theorem Wf.memoryAccess (fn : Nat) (src : Requester) (addr : Nat) (len : Nat) (wr : Option (List Byte)) (upset : Nat) : Wf.Statement (.memoryAccess fn src addr len wr upset) := wf_units _
theorem Wf.hbmRefresh (stack : Nat) (pc : Nat) (bank : Nat) : Wf.Statement (.hbmRefresh stack pc bank) := wf_units _
theorem Wf.patrolScrub (key : Nat) (upset : Nat) : Wf.Statement (.patrolScrub key upset) := wf_units _
theorem Wf.pageRelocate (fn : Nat) (page : Nat) : Wf.Statement (.pageRelocate fn page) := wf_units _
theorem Wf.mainlandPortDown (port : Nat) : Wf.Statement (.mainlandPortDown port) := wf_units _
theorem Wf.migGo (fn : Nat) (w : Word) : Wf.Statement (.migGo fn w) := wf_units _
theorem Wf.migMap (fn : Nat) : Wf.Statement (.migMap fn) := wf_units _
theorem Wf.migUnmap (fn : Nat) : Wf.Statement (.migUnmap fn) := wf_units _
theorem Wf.migPromote (fn : Nat) : Wf.Statement (.migPromote fn) := wf_units _
theorem Wf.migDemote (fn : Nat) : Wf.Statement (.migDemote fn) := wf_units _
theorem Wf.migCopy (fn : Nat) : Wf.Statement (.migCopy fn) := wf_units _
theorem Wf.migIngest (fn : Nat) : Wf.Statement (.migIngest fn) := wf_units _
theorem Wf.migPageStart (fn : Nat) (upset : Nat) (ans : Answer) : Wf.Statement (.migPageStart fn upset ans) := wf_units _
theorem Wf.demotePageCopied (port : Nat) (upset : Nat) : Wf.Statement (.demotePageCopied port upset) := wf_units _
theorem Wf.promotePageDone (port : Nat) (upset : Nat) : Wf.Statement (.promotePageDone port upset) := wf_units _
theorem Wf.migRequestComplete (fn : Nat) : Wf.Statement (.migRequestComplete fn) := wf_units _
theorem Wf.migCancel (fn : Nat) (w : Word) : Wf.Statement (.migCancel fn w) := wf_units _
theorem Wf.xlateLookup (fn : Nat) (w : Word) : Wf.Statement (.xlateLookup fn w) := wf_units _
theorem Wf.xlateLookupDone (fn : Nat) : Wf.Statement (.xlateLookupDone fn) := wf_units _
theorem Wf.reefWindowWrite (fn : Nat) (addr : Nat) (data : List Byte) : Wf.Statement (.reefWindowWrite fn addr data) := wf_units _
theorem Wf.reefGo (fn : Nat) (stack : Nat) (w : Word) : Wf.Statement (.reefGo fn stack w) := wf_units _
theorem Wf.reefCancel (fn : Nat) (stack : Nat) (w : Word) : Wf.Statement (.reefCancel fn stack w) := wf_units _
theorem Wf.reefAdmit (stack : Nat) : Wf.Statement (.reefAdmit stack) := wf_units _
theorem Wf.reefOpStart (stack : Nat) (k : Nat) : Wf.Statement (.reefOpStart stack k) := wf_units _
theorem Wf.reefOpEnd (stack : Nat) (k : Nat) (cycles : Nat) : Wf.Statement (.reefOpEnd stack k cycles) := wf_units _
theorem Wf.reefUncorrectable (stack : Nat) (k : Nat) (pc : Nat) : Wf.Statement (.reefUncorrectable stack k pc) := wf_units _
theorem Wf.laneFail (p : Nat) (lane : LaneFault) : Wf.Statement (.laneFail p lane) := wf_units _
theorem Wf.laneSwitchOver (p : Nat) : Wf.Statement (.laneSwitchOver p) := wf_units _
theorem Wf.laneSwapTimeout (p : Nat) : Wf.Statement (.laneSwapTimeout p) := wf_units _
theorem Wf.flitSend (p : Nat) (vc : Nat) : Wf.Statement (.flitSend p vc) := wf_units _
theorem Wf.flitCorrupt (p : Nat) (uncorr : BadFlit) : Wf.Statement (.flitCorrupt p uncorr) := wf_units _
theorem Wf.flitReservedType (p : Nat) (rx : RxFlit) : Wf.Statement (.flitReservedType p rx) := wf_units _
theorem Wf.idle (p : Nat) (rx : RxFlit) : Wf.Statement (.idle p rx) := wf_units _
theorem Wf.write (p : Nat) (rx : RxFlit) : Wf.Statement (.write p rx) := wf_units _
theorem Wf.readReq (p : Nat) (rx : RxFlit) : Wf.Statement (.readReq p rx) := wf_units _
theorem Wf.readRsp (p : Nat) (rx : RxFlit) : Wf.Statement (.readRsp p rx) := wf_units _
theorem Wf.interrupt (p : Nat) (rx : RxFlit) : Wf.Statement (.interrupt p rx) := wf_units _
theorem Wf.unreachable (p : Nat) (rx : RxFlit) : Wf.Statement (.unreachable p rx) := wf_units _
theorem Wf.claim (p : Nat) (rx : RxFlit) : Wf.Statement (.claim p rx) := wf_units _
theorem Wf.claimAck (p : Nat) (rx : RxFlit) : Wf.Statement (.claimAck p rx) := wf_units _
theorem Wf.claimEnd (p : Nat) (rx : RxFlit) : Wf.Statement (.claimEnd p rx) := wf_units _
theorem Wf.probe (p : Nat) (rx : RxFlit) : Wf.Statement (.probe p rx) := wf_units _
theorem Wf.probeAck (p : Nat) (rx : RxFlit) : Wf.Statement (.probeAck p rx) := wf_units _
theorem Wf.brk (p : Nat) (rx : RxFlit) : Wf.Statement (.brk p rx) := wf_units _
theorem Wf.hello (p : Nat) (rx : RxFlit) : Wf.Statement (.hello p rx) := wf_units _
theorem Wf.keyShare (p : Nat) (rx : RxFlit) : Wf.Statement (.keyShare p rx) := wf_units _
theorem Wf.cert (p : Nat) (rx : RxFlit) : Wf.Statement (.cert p rx) := wf_units _
theorem Wf.keyAuth (p : Nat) (rx : RxFlit) : Wf.Statement (.keyAuth p rx) := wf_units _
theorem Wf.keyDone (p : Nat) (rx : RxFlit) : Wf.Statement (.keyDone p rx) := wf_units _
theorem Wf.rekeySwitch (p : Nat) (rx : RxFlit) : Wf.Statement (.rekeySwitch p rx) := wf_units _
theorem Wf.laneSwap (p : Nat) (rx : RxFlit) : Wf.Statement (.laneSwap p rx) := wf_units _
theorem Wf.laneSwapAck (p : Nat) (rx : RxFlit) : Wf.Statement (.laneSwapAck p rx) := wf_units _
theorem Wf.rs (p : Nat) (rx : RxFlit) : Wf.Statement (.rs p rx) := wf_units _
theorem Wf.rsEnd (p : Nat) (rx : RxFlit) : Wf.Statement (.rsEnd p rx) := wf_units _
theorem Wf.ag (p : Nat) (rx : RxFlit) : Wf.Statement (.ag p rx) := wf_units _
theorem Wf.agEnd (p : Nat) (rx : RxFlit) : Wf.Statement (.agEnd p rx) := wf_units _
theorem Wf.up (p : Nat) (rx : RxFlit) : Wf.Statement (.up p rx) := wf_units _
theorem Wf.upEnd (p : Nat) (rx : RxFlit) : Wf.Statement (.upEnd p rx) := wf_units _
theorem Wf.down (p : Nat) (rx : RxFlit) : Wf.Statement (.down p rx) := wf_units _
theorem Wf.downEnd (p : Nat) (rx : RxFlit) : Wf.Statement (.downEnd p rx) := wf_units _
theorem Wf.vote (p : Nat) (rx : RxFlit) : Wf.Statement (.vote p rx) := wf_units _
theorem Wf.voteResult (p : Nat) (rx : RxFlit) : Wf.Statement (.voteResult p rx) := wf_units _
theorem Wf.stepAbort (p : Nat) (rx : RxFlit) : Wf.Statement (.stepAbort p rx) := wf_units _
theorem Wf.replayTimeout (p : Nat) : Wf.Statement (.replayTimeout p) := wf_units _
theorem Wf.livenessTimeout (p : Nat) : Wf.Statement (.livenessTimeout p) := wf_units _
theorem Wf.keyingTimeout (p : Nat) : Wf.Statement (.keyingTimeout p) := wf_units _
theorem Wf.keyingResend (p : Nat) : Wf.Statement (.keyingResend p) := wf_units _
theorem Wf.readTimeout (fn : Nat) (tag : Nat) : Wf.Statement (.readTimeout fn tag) := wf_units _
theorem Wf.flitStall (p : Nat) (vc : Nat) : Wf.Statement (.flitStall p vc) := wf_units _
theorem Wf.claimWait : Wf.Statement .claimWait := wf_units _
theorem Wf.trainingDone (p : Nat) (txSpare : Nat) (rxSpare : Nat) : Wf.Statement (.trainingDone p txSpare rxSpare) := wf_units _
theorem Wf.trainTimeout (p : Nat) : Wf.Statement (.trainTimeout p) := wf_units _
theorem Wf.portRetry (p : Nat) : Wf.Statement (.portRetry p) := wf_units _
theorem Wf.peerLoss (p : Nat) : Wf.Statement (.peerLoss p) := wf_units _
theorem Wf.portEnable (fn : Nat) (p : Nat) (w : Word) : Wf.Statement (.portEnable fn p w) := wf_units _
theorem Wf.portReset (fn : Nat) (p : Nat) (w : Word) : Wf.Statement (.portReset fn p w) := wf_units _
theorem Wf.portRekey (fn : Nat) (p : Nat) (w : Word) : Wf.Statement (.portRekey fn p w) := wf_units _
theorem Wf.rekeyThreshold (p : Nat) : Wf.Statement (.rekeyThreshold p) := wf_units _
theorem Wf.counterLimit (p : Nat) : Wf.Statement (.counterLimit p) := wf_units _
theorem Wf.rekeyTimeout (p : Nat) : Wf.Statement (.rekeyTimeout p) := wf_units _
theorem Wf.rekeyRetry (p : Nat) : Wf.Statement (.rekeyRetry p) := wf_units _
theorem Wf.routeWrite (fn : Nat) (d : Nat) (w : Word) : Wf.Statement (.routeWrite fn d w) := wf_units _
theorem Wf.bucketStart (ctx : Nat) (b : Nat) : Wf.Statement (.bucketStart ctx b) := wf_units _
theorem Wf.heldFlitRelease (p : Nat) : Wf.Statement (.heldFlitRelease p) := wf_units _
theorem Wf.bucketComplete (ctx : Nat) (b : Nat) : Wf.Statement (.bucketComplete ctx b) := wf_units _
theorem Wf.bucketDeadline (ctx : Nat) (b : Nat) : Wf.Statement (.bucketDeadline ctx b) := wf_units _
theorem Wf.voteTimeout (ctx : Nat) : Wf.Statement (.voteTimeout ctx) := wf_units _
theorem Wf.redResume (fn : Nat) (ctx : Nat) (w : Word) : Wf.Statement (.redResume fn ctx w) := wf_units _
theorem Wf.redAbortStep (fn : Nat) (ctx : Nat) (w : Word) : Wf.Statement (.redAbortStep fn ctx w) := wf_units _
theorem Wf.normEntryAccepted (fn : Nat) (q : Nat) : Wf.Statement (.normEntryAccepted fn q) := wf_units _
theorem Wf.normTimeout (fn : Nat) : Wf.Statement (.normTimeout fn) := wf_units _
theorem Wf.shardUpdateStart (fn : Nat) (shard : Nat) : Wf.Statement (.shardUpdateStart fn shard) := wf_units _
theorem Wf.shardCommit (fn : Nat) (shard : Nat) : Wf.Statement (.shardCommit fn shard) := wf_units _
theorem Wf.digestRecordAccepted (fn : Nat) (round : Nat) : Wf.Statement (.digestRecordAccepted fn round) := wf_units _
theorem Wf.digestTimeout (fn : Nat) : Wf.Statement (.digestTimeout fn) := wf_units _
theorem Wf.optRecover (fn : Nat) (w : Word) : Wf.Statement (.optRecover fn w) := wf_units _
theorem Wf.optAdopt (fn : Nat) (w : Word) : Wf.Statement (.optAdopt fn w) := wf_units _
theorem Wf.queueDoorbell (fn : Nat) (q : Nat) (w : Word) : Wf.Statement (.queueDoorbell fn q w) := wf_units _
theorem Wf.descriptorFetched (fn : Nat) (q : Nat) (ans : Answer) : Wf.Statement (.descriptorFetched fn q ans) := wf_units _
theorem Wf.cmdNop (fn : Nat) (q : Nat) : Wf.Statement (.cmdNop fn q) := wf_units _
theorem Wf.cmdLoad (fn : Nat) (q : Nat) : Wf.Statement (.cmdLoad fn q) := wf_units _
theorem Wf.cmdLaunch (fn : Nat) (q : Nat) : Wf.Statement (.cmdLaunch fn q) := wf_units _
theorem Wf.cmdStep (fn : Nat) (q : Nat) : Wf.Statement (.cmdStep fn q) := wf_units _
theorem Wf.cmdGenerate (fn : Nat) (q : Nat) (ans : Answer) : Wf.Statement (.cmdGenerate fn q ans) := wf_units _
theorem Wf.cmdMigrate (fn : Nat) (q : Nat) : Wf.Statement (.cmdMigrate fn q) := wf_units _
theorem Wf.servicePause (fn : Nat) (q : Nat) : Wf.Statement (.servicePause fn q) := wf_units _
theorem Wf.serviceResume (fn : Nat) (q : Nat) : Wf.Statement (.serviceResume fn q) := wf_units _
theorem Wf.serviceStop (fn : Nat) (q : Nat) : Wf.Statement (.serviceStop fn q) := wf_units _
theorem Wf.completionWrite (fn : Nat) (q : Nat) (st : Status) : Wf.Statement (.completionWrite fn q st) := wf_units _
theorem Wf.completionDoorbell (fn : Nat) (q : Nat) (w : Word) : Wf.Statement (.completionDoorbell fn q w) := wf_units _
theorem Wf.queueEnable (fn : Nat) (q : Nat) (w : Word) : Wf.Statement (.queueEnable fn q w) := wf_units _
theorem Wf.queueDisable (fn : Nat) (q : Nat) (w : Word) : Wf.Statement (.queueDisable fn q w) := wf_units _
theorem Wf.controllerWatchdogWrite (die : Nat) (core : Nat) : Wf.Statement (.controllerWatchdogWrite die core) := wf_units _
theorem Wf.controllerRestart (die : Nat) : Wf.Statement (.controllerRestart die) := wf_units _
theorem Wf.controllerRestartDone (die : Nat) : Wf.Statement (.controllerRestartDone die) := wf_units _
theorem Wf.stepRecordWrite (fn : Nat) : Wf.Statement (.stepRecordWrite fn) := wf_units _
theorem Wf.genPoll (fn : Nat) (ans : Answer) : Wf.Statement (.genPoll fn ans) := wf_units _
theorem Wf.eventBitClear (fn : Nat) (off : Nat) (w : Word) : Wf.Statement (.eventBitClear fn off w) := wf_units _
theorem Wf.eventRouteWrite (fn : Nat) (k : Nat) (w : Word) : Wf.Statement (.eventRouteWrite fn k w) := wf_units _
theorem Wf.registerWrite (fn : Nat) (off : Nat) (w : Word) : Wf.Statement (.registerWrite fn off w) := wf_units _
theorem Wf.functionEnable (fn : Nat) (f : Nat) (w : Word) : Wf.Statement (.functionEnable fn f w) := wf_units _
theorem Wf.enableComplete (f : Nat) : Wf.Statement (.enableComplete f) := wf_units _
theorem Wf.functionDisable (fn : Nat) (f : Nat) (w : Word) : Wf.Statement (.functionDisable fn f w) := wf_units _
theorem Wf.grantCtlReset (fn : Nat) (f : Nat) (w : Word) : Wf.Statement (.grantCtlReset fn f w) := wf_units _
theorem Wf.fnCtlReset (fn : Nat) (w : Word) : Wf.Statement (.fnCtlReset fn w) := wf_units _
theorem Wf.shutdownComplete (f : Nat) : Wf.Statement (.shutdownComplete f) := wf_units _
theorem Wf.grantWrite (fn : Nat) (off : Nat) (w : Word) : Wf.Statement (.grantWrite fn off w) := wf_units _
theorem Wf.keyRotate (fn : Nat) (w : Word) : Wf.Statement (.keyRotate fn w) := wf_units _
theorem Wf.rotationKeyLoaded (f : Nat) : Wf.Statement (.rotationKeyLoaded f) := wf_units _
theorem Wf.sweepPageStart (f : Nat) (port : Nat) (upset : Nat) : Wf.Statement (.sweepPageStart f port upset) := wf_units _
theorem Wf.sweepPageDone (f : Nat) (port : Nat) : Wf.Statement (.sweepPageDone f port) := wf_units _
theorem Wf.drbgHealthFail (test : Nat) : Wf.Statement (.drbgHealthFail test) := wf_units _
theorem Wf.drbgReseed : Wf.Statement .drbgReseed := wf_units _
theorem Wf.getVersion (bind : Nat) (req : List Byte) : Wf.Statement (.getVersion bind req) := wf_units _
theorem Wf.getCapabilities (bind : Nat) (req : List Byte) : Wf.Statement (.getCapabilities bind req) := wf_units _
theorem Wf.negotiateAlgorithms (bind : Nat) (req : List Byte) : Wf.Statement (.negotiateAlgorithms bind req) := wf_units _
theorem Wf.getDigests (bind : Nat) (req : List Byte) : Wf.Statement (.getDigests bind req) := wf_units _
theorem Wf.getCertificate (bind : Nat) (req : List Byte) : Wf.Statement (.getCertificate bind req) := wf_units _
theorem Wf.challenge (bind : Nat) (req : List Byte) : Wf.Statement (.challenge bind req) := wf_units _
theorem Wf.getMeasurements (bind : Nat) (req : List Byte) : Wf.Statement (.getMeasurements bind req) := wf_units _
theorem Wf.spdmUnsupported (bind : Nat) (req : List Byte) : Wf.Statement (.spdmUnsupported bind req) := wf_units _
theorem Wf.harbourWatchdog : Wf.Statement .harbourWatchdog := wf_units _
theorem Wf.hbrEvtClear (fn : Nat) (w : Word) : Wf.Statement (.hbrEvtClear fn w) := wf_units _
theorem Wf.hbrEvtRouteWrite (fn : Nat) (w : Word) : Wf.Statement (.hbrEvtRouteWrite fn w) := wf_units _
theorem Wf.wakeRequest (islet : Nat) : Wf.Statement (.wakeRequest islet) := wf_units _
theorem Wf.dvfsRequest (die : Nat) (point : Nat) : Wf.Statement (.dvfsRequest die point) := wf_units _
theorem Wf.govWindowStart : Wf.Statement .govWindowStart := wf_units _
theorem Wf.chargeEnd (die : Nat) : Wf.Statement (.chargeEnd die) := wf_units _
theorem Wf.govCfgWrite (fn : Nat) (w : Word) : Wf.Statement (.govCfgWrite fn w) := wf_units _
theorem Wf.dvfsVoltageSettled (die : Nat) : Wf.Statement (.dvfsVoltageSettled die) := wf_units _
theorem Wf.tempSample (temps : List Nat) (dram : List Nat) : Wf.Statement (.tempSample temps dram) := wf_units _
theorem Wf.thermalCapStep (die : Nat) : Wf.Statement (.thermalCapStep die) := wf_units _
theorem Wf.leadRequest (west : Bool) : Wf.Statement (.leadRequest west) := wf_units _
theorem Wf.leadRelease : Wf.Statement .leadRelease := wf_units _
theorem Wf.leadGrant : Wf.Statement .leadGrant := wf_units _
theorem Wf.leadHoldTimeout : Wf.Statement .leadHoldTimeout := wf_units _
theorem Wf.leaderTakeover (west : Bool) : Wf.Statement (.leaderTakeover west) := wf_units _
theorem Wf.gateActionArrive (act : Nat) (gate : Nat) : Wf.Statement (.gateActionArrive act gate) := wf_units _
theorem Wf.gateResponse (act : Nat) : Wf.Statement (.gateResponse act) := wf_units _
theorem Wf.gateGo (act : Nat) (gate : Nat) : Wf.Statement (.gateGo act gate) := wf_units _
theorem Wf.gateDrop (act : Nat) (gate : Nat) : Wf.Statement (.gateDrop act gate) := wf_units _
theorem Wf.gateTimeout (act : Nat) (gate : Nat) : Wf.Statement (.gateTimeout act gate) := wf_units _
theorem Wf.snapshotGo (fn : Nat) (w : Word) : Wf.Statement (.snapshotGo fn w) := wf_units _
theorem Wf.snapshotUnitAccept (island : Nat) : Wf.Statement (.snapshotUnitAccept island) := wf_units _
theorem Wf.warmReset (fn : Nat) (w : Word) : Wf.Statement (.warmReset fn w) := wf_units _
theorem Wf.stackReset (fn : Nat) (w : Word) : Wf.Statement (.stackReset fn w) := wf_units _
theorem Wf.stackResetDone (stack : Nat) : Wf.Statement (.stackResetDone stack) := wf_units _
theorem Wf.bootReady (mlCaps : List Nat) (mlBad : List Nat) : Wf.Statement (.bootReady mlCaps mlBad) := wf_units _
theorem Wf.readyTimeout : Wf.Statement .readyTimeout := wf_units _
theorem Wf.trialTimeout : Wf.Statement .trialTimeout := wf_units _
theorem Wf.fwStage (fn : Nat) (w : Word) : Wf.Statement (.fwStage fn w) := wf_units _
theorem Wf.fwStageDone (ans : Answer) : Wf.Statement (.fwStageDone ans) := wf_units _
theorem Wf.fwCancel (fn : Nat) (w : Word) : Wf.Statement (.fwCancel fn w) := wf_units _
theorem Wf.journalCommit (badBlock : Bool) : Wf.Statement (.journalCommit badBlock) := wf_units _
theorem Wf.journalCompact (fn : Nat) (w : Word) : Wf.Statement (.journalCompact fn w) := wf_units _
theorem Wf.journalCompactionDone : Wf.Statement .journalCompactionDone := wf_units _
theorem Wf.mctpInGo (fn : Nat) (w : Word) : Wf.Statement (.mctpInGo fn w) := wf_units _
theorem Wf.mctpOutAck (fn : Nat) (w : Word) : Wf.Statement (.mctpOutAck fn w) := wf_units _
theorem Wf.setEndpointId (bind : Nat) (req : List Byte) : Wf.Statement (.setEndpointId bind req) := wf_units _
theorem Wf.getEndpointId (bind : Nat) (req : List Byte) : Wf.Statement (.getEndpointId bind req) := wf_units _
theorem Wf.getMctpVersionSupport (bind : Nat) (req : List Byte) : Wf.Statement (.getMctpVersionSupport bind req) := wf_units _
theorem Wf.getMessageTypeSupport (bind : Nat) (req : List Byte) : Wf.Statement (.getMessageTypeSupport bind req) := wf_units _
theorem Wf.getTid (bind : Nat) (req : List Byte) : Wf.Statement (.getTid bind req) := wf_units _
theorem Wf.setTid (bind : Nat) (req : List Byte) : Wf.Statement (.setTid bind req) := wf_units _
theorem Wf.getPldmVersion (bind : Nat) (req : List Byte) : Wf.Statement (.getPldmVersion bind req) := wf_units _
theorem Wf.getPldmTypes (bind : Nat) (req : List Byte) : Wf.Statement (.getPldmTypes bind req) := wf_units _
theorem Wf.getPldmCommands (bind : Nat) (req : List Byte) : Wf.Statement (.getPldmCommands bind req) := wf_units _
theorem Wf.getPdrRepositoryInfo (bind : Nat) (req : List Byte) : Wf.Statement (.getPdrRepositoryInfo bind req) := wf_units _
theorem Wf.getPdr (bind : Nat) (req : List Byte) : Wf.Statement (.getPdr bind req) := wf_units _
theorem Wf.getSensorReading (bind : Nat) (req : List Byte) : Wf.Statement (.getSensorReading bind req) := wf_units _
theorem Wf.getStateSensorReadings (bind : Nat) (req : List Byte) : Wf.Statement (.getStateSensorReadings bind req) := wf_units _
theorem Wf.pldmFirmwareUpdate (bind : Nat) (src : Nat) : Wf.Statement (.pldmFirmwareUpdate bind src) := wf_units _
theorem Wf.pldmUnsupported (bind : Nat) (req : List Byte) : Wf.Statement (.pldmUnsupported bind req) := wf_units _
theorem Wf.entdaa (addr : Nat) : Wf.Statement (.entdaa addr) := wf_units _
theorem Wf.setdasa (static : Nat) (addr : Nat) : Wf.Statement (.setdasa static addr) := wf_units _
theorem Wf.bypass : Wf.Statement .bypass := wf_units _
theorem Wf.idcode : Wf.Statement .idcode := wf_units _
theorem Wf.samplePreload (preload : Option (List Bool)) (captured : List Bool) : Wf.Statement (.samplePreload preload captured) := wf_units _
theorem Wf.extest : Wf.Statement .extest := wf_units _
theorem Wf.clamp : Wf.Statement .clamp := wf_units _
theorem Wf.highz : Wf.Statement .highz := wf_units _
theorem Wf.extestPulse : Wf.Statement .extestPulse := wf_units _
theorem Wf.extestTrain : Wf.Statement .extestTrain := wf_units _
theorem Wf.resetNAssert : Wf.Statement .resetNAssert := wf_units _
theorem Wf.resetNRelease : Wf.Statement .resetNRelease := wf_units _
theorem Wf.pwrGoodNAssert : Wf.Statement .pwrGoodNAssert := wf_units _
theorem Wf.pwrGoodNRelease : Wf.Statement .pwrGoodNRelease := wf_units _
theorem Wf.testEnAssert : Wf.Statement .testEnAssert := wf_units _
theorem Wf.testEnRelease : Wf.Statement .testEnRelease := wf_units _
theorem Wf.refclkFault : Wf.Statement .refclkFault := wf_units _
theorem Wf.powerLoss : Wf.Statement .powerLoss := wf_units _
theorem Wf.harbourWatchdogWrite (core : Nat) : Wf.Statement (.harbourWatchdogWrite core) := wf_units _
theorem Wf.mainlandPortTrainingLoss (port : Nat) : Wf.Statement (.mainlandPortTrainingLoss port) := wf_units _
theorem Wf.mainlandPortRetrained (port : Nat) : Wf.Statement (.mainlandPortRetrained port) := wf_units _
theorem Wf.mainlandRefresh (port : Nat) (rfm : Bool) : Wf.Statement (.mainlandRefresh port rfm) := wf_units _
theorem Wf.shardDigestReadDone (fn : Nat) (shard : Nat) : Wf.Statement (.shardDigestReadDone fn shard) := wf_units _
theorem Wf.adoptRegenerationDone (fn : Nat) : Wf.Statement (.adoptRegenerationDone fn) := wf_units _

end Sys2Proof.Laws
end

