-- ==== Sys2Proof/Laws/Quiet.lean ====
section
/-! SUPPORT. Raising a management event changes neither the committed journal nor the records that wait for it. -/

namespace Sys2Proof.Machine

/-- Two states with the same journal store and the same waiting records. -/
def sameJournal (s t : State) : Prop := t.jqueue = s.jqueue ∧ t.jnl = s.jnl

theorem sameJournal.refl (s : State) : sameJournal s s := ⟨rfl, rfl⟩

theorem sameJournal.trans {s t u : State} (h : sameJournal s t) (k : sameJournal t u) : sameJournal s u :=
  ⟨k.1.trans h.1, k.2.trans h.2⟩

theorem sameJournal_foldl {α : Type} (g : State → α → State) (h : ∀ s x, sameJournal s (g s x)) (l : List α) (s : State) :
    sameJournal s (l.foldl g s) := by
  induction l generalizing s with
  | nil => exact .refl s
  | cons x l ih => exact (h s x).trans (ih (g s x))

theorem sameJournal_setReg (s : State) (r : Reg) (a b : Nat) (w : Word) : sameJournal s (s.setReg r a b w) := ⟨rfl, rfl⟩

theorem sameJournal_setFld (s : State) (f : Fld) (a b v : Nat) : sameJournal s (s.setFld f a b v) := ⟨rfl, rfl⟩

theorem sameJournal_queueFlit (s : State) (p : Nat) (f : Flit) : sameJournal s (s.queueFlit p f) := by
  unfold State.queueFlit
  dsimp only
  split <;> exact ⟨rfl, rfl⟩

theorem sameJournal_failReads (s : State) (p : Nat → ReadReq → Bool) : sameJournal s (s.failReads p) := ⟨rfl, rfl⟩

theorem sameJournal_ite (s t u : State) (c : Prop) [Decidable c] (h : sameJournal s t) (k : sameJournal s u) :
    sameJournal s (if c then t else u) := by
  split
  · exact h
  · exact k

theorem sameJournal_latchUnreach (s : State) (fn dst addr n : Nat) : sameJournal s (s.latchUnreach fn dst addr n) := by
  have k := ((sameJournal_setFld s .JL_UNREACH_REASON fn 0 n).trans (sameJournal_setFld _ .JL_UNREACH_DST fn 0 dst)).trans
    (sameJournal_setFld _ .JL_UNREACH_ADDR fn 0 addr)
  unfold State.latchUnreach
  exact (sameJournal_ite _ _ _ _ k (k.trans (sameJournal_setFld _ _ _ _ _))).trans (sameJournal_failReads _ _)

theorem sameJournal_satFld (s : State) (f : Fld) (a b n : Nat) : sameJournal s (s.satFld f a b n) := sameJournal_setFld _ _ _ _ _

theorem sameJournal_sendAdapter (s : State) (f : Flit) : sameJournal s (s.sendAdapter f) := by
  have k : sameJournal s (s.satFld .JL_DROPS_ROUTE 0 0 1) := sameJournal_satFld ..
  unfold State.sendAdapter
  split
  · exact sameJournal_queueFlit _ _ _
  · dsimp only
    split
    · exact (k.trans (sameJournal_latchUnreach _ _ _ _ _)).trans ⟨rfl, rfl⟩
    · exact k

theorem sameJournal_interrupt (s : State) (fn v : Nat) : sameJournal s (s.interrupt fn v) := sameJournal_sendAdapter _ _

theorem sameJournal_hbrInterrupt (s : State) : sameJournal s s.hbrInterrupt := by
  unfold State.hbrInterrupt
  split
  · exact (sameJournal_interrupt _ _ _).trans ⟨rfl, rfl⟩
  · exact .refl s

theorem sameJournal_pldmQueued (s : State) (cls : Nat) (data : List Byte) : sameJournal s (s.pldmQueued cls data) := by
  unfold State.pldmQueued
  refine sameJournal_foldl _ (fun s b => ?_) _ _
  dsimp only
  split <;> exact ⟨rfl, rfl⟩

theorem sameJournal_mailboxFill (s : State) : sameJournal s s.mailboxFill := by
  unfold State.mailboxFill
  split
  · exact .refl s
  · split
    · exact .refl s
    · dsimp only
      generalize hu : State.setFld (List.foldl _ _ _) _ _ _ _ = u
      have k : sameJournal s u := by
        rw [← hu]
        refine sameJournal.trans ?_ (sameJournal_setFld _ _ _ _ _)
        refine sameJournal.trans ?_ (sameJournal_foldl _ (fun _ _ => sameJournal_setReg _ _ _ _ _) _ _)
        exact ⟨rfl, rfl⟩
      have k := ((k.trans (sameJournal_setFld _ .HBR_MCTP_CTL_OUT_VALID 0 0 1)).trans (sameJournal_setFld _ .HBR_EVT_MCTP 0 0 1)).trans
        (sameJournal_hbrInterrupt _)
      exact sameJournal_ite _ _ _ _ (k.trans (sameJournal_pldmQueued _ _ _)) k

theorem sameJournal_pldmEvent (s : State) : sameJournal s s.pldmEvent :=
  (sameJournal_pldmQueued _ _ _).trans (sameJournal_mailboxFill _)

theorem sameJournal_hbrEvent (s : State) (f : Fld) : sameJournal s (s.hbrEvent f) := by
  unfold State.hbrEvent State.fireHbr
  exact ((sameJournal_setFld _ _ _ _ _).trans (sameJournal_hbrInterrupt _)).trans (sameJournal_pldmEvent _)

/-! ## The committed log -/

/-- Two states with the same committed records and the same waiting records. -/
def sameLog (s t : State) : Prop := t.jqueue = s.jqueue ∧ t.jnl.log = s.jnl.log

theorem sameLog.refl (s : State) : sameLog s s := ⟨rfl, rfl⟩

theorem sameLog.trans {s t u : State} (h : sameLog s t) (k : sameLog t u) : sameLog s u := ⟨k.1.trans h.1, k.2.trans h.2⟩

theorem sameJournal.log {s t : State} (h : sameJournal s t) : sameLog s t := ⟨h.1, congrArg Journal.log h.2⟩

theorem sameLog_modJnl (s : State) (f : Journal → Journal) (h : ∀ j, (f j).log = j.log) : sameLog s (s.modJnl f) := ⟨rfl, h _⟩

theorem sameLog_jnlStat (s : State) : sameLog s s.jnlStat :=
  ((sameJournal_setFld _ _ _ _ _).trans (sameJournal_setFld _ _ _ _ _)).log

theorem sameLog_satFld (s : State) (f : Fld) (a b n : Nat) : sameLog s (s.satFld f a b n) := (sameJournal_satFld _ _ _ _ _).log

/-- The next segment leaves the log and the waiting records as they are. -/
theorem sameLog_nextSegment (s t : State) (seq : Nat) (h : s.nextSegment seq = some t) : sameLog s t := by
  unfold State.nextSegment at h
  split at h
  · cases h
  · injection h with h
    rw [← h]
    refine sameLog.trans ?_ (sameLog_jnlStat _)
    exact sameLog_modJnl _ _ fun _ => rfl

/-- So does retiring a segment. -/
theorem sameLog_retireSegment (s : State) : sameLog s s.retireSegment := by
  unfold State.retireSegment
  dsimp only
  split
  · exact .refl s
  · next t h =>
    refine sameLog.trans ?_ (sameJournal_hbrEvent _ _).log
    refine sameLog.trans ?_ (sameLog_satFld _ _ _ _ _)
    refine (sameLog_nextSegment s t _ h).trans ?_
    exact sameLog_modJnl _ _ fun _ => rfl

/-- A record of a type other than MEM_ERROR joins the waiting records. -/
theorem journal_queues (s : State) (type : Nat) (p : List Byte) (h : type ≠ 0x50) :
    ∃ r, (s.journal type p).jqueue = s.jqueue ++ [r] ∧ (s.journal type p).jnl = s.jnl := by
  unfold State.journal
  rw [if_neg (fun k => h k.1)]
  exact ⟨_, rfl, rfl⟩

/-- A compaction that starts only asks for a record. -/
theorem startCompaction_queues (s : State) :
    ∃ more, s.startCompaction.jqueue = s.jqueue ++ more ∧ s.startCompaction.jnl.log = s.jnl.log := by
  unfold State.startCompaction
  split
  · exact ⟨[], (List.append_nil _).symm, rfl⟩
  · dsimp only
    generalize hu : State.modJnl _ _ = u
    have k : sameLog s u := by
      rw [← hu]
      exact (sameJournal_setFld _ _ _ _ _).log.trans (sameLog_modJnl _ _ fun _ => rfl)
    obtain ⟨r, h1, h2⟩ := journal_queues u 1 (leBytes 8 (s.reg .HBR_JNL_SEQ).toNat) (by decide)
    exact ⟨[r], h1.trans (by rw [k.1]), (congrArg Journal.log h2).trans k.2⟩

end Sys2Proof.Machine
end

