-- ==== Sys2Proof/Laws/Window.lean ====
section
/-! SUPPORT. A read through a window shows the fields of the register and nothing else (R16). -/

namespace Sys2Proof.Machine
open Sys2Proof

/-- The fields of a register lie in its fields. -/
theorem fieldMask_legal (r : Reg) : wordLegal r (BitVec.ofNat 64 (fieldMask r)) = true := by
  have h : Reg.all.all (fun r => wordLegal r (BitVec.ofNat 64 (fieldMask r))) = true := by decide +kernel
  exact List.all_eq_true.1 h r (Reg.mem_all r)

/-- Bits taken through the mask of the fields lie in the fields. -/
theorem fieldMask_land_legal (r : Reg) (n : Nat) : wordLegal r (BitVec.ofNat 64 (n &&& fieldMask r)) = true := by
  refine wordLegal_iff.2 fun i hi => wordLegal_iff.1 (fieldMask_legal r) i ?_
  rw [BitVec.toNat_ofNat, Nat.testBit_mod_two_pow, Bool.and_eq_true, Nat.testBit_and, Bool.and_eq_true] at hi
  rw [BitVec.toNat_ofNat, Nat.testBit_mod_two_pow, Bool.and_eq_true]
  exact ⟨hi.1, hi.2.2⟩

/-- What the window shows of a register of a sound state has its reserved fields zero. -/
theorem Sound.windowWord_legal {s : State} (h : Sound s) (fn : Nat) (r : Reg) (a b : Nat) :
    wordLegal r (s.windowWord fn r a b) = true := by
  unfold State.windowWord
  split
  · exact fieldMask_land_legal r _
  · exact h.reg_legal r a b

end Sys2Proof.Machine
end

