-- ==== Sys2Proof/Tests/Slice0.lean ====
section
/-! SUPPORT. Tests: a state that meets the hypotheses of each statement; an ill-formed command for each check; examples of the
specification. -/

set_option Elab.async false

namespace Sys2Proof.Machine
open Sys2Proof

/-! ## States for witnesses -/

/-- The state of a result that goes on. -/
def stateOf : Result → State
  | .next t => t
  | _ => State.reset
def isNext : Result → Bool
  | .next _ => true
  | _ => false
theorem stateOf_next {r : Result} (h : isNext r = true) : r = .next (stateOf r) := by
  cases r <;> first | rfl | cases h
def hopState : Hop → State
  | .moved t => t
  | _ => State.reset
def hopMoves : Hop → Bool
  | .moved _ => true
  | _ => false
theorem hopState_moved {r : Hop} (h : hopMoves r = true) : r = .moved (hopState r) := by
  cases r <;> first | rfl | cases h
theorem pairOf {α β : Type} {p : α × β} {b : β} (h : p.2 = b) : p = (p.1, b) := by rw [← h]
theorem pairSnd {α β : Type} {p : α × β} {a : α} (h : p.1 = a) : p = (a, p.2) := by rw [← h]
theorem pairSome {α β : Type} {p : α × Option β} (h : p.2.isSome = true) : p = (p.1, some (p.2.get h)) := by
  obtain ⟨a, b⟩ := p; cases b <;> simp_all
theorem somePair {α β : Type} {o : Option (α × β)} (h : o.isSome = true) : o = some ((o.get h).1, (o.get h).2) :=
  (Option.some_get h).symm
theorem tripleOf {α β γ : Type} {p : α × β × γ} {c : γ} (h : p.2.2 = c) : p = (p.1, p.2.1, c) := by rw [← h]
theorem tripleOf2 {α β γ : Type} {p : α × β × γ} {b : β} {c : γ} (h : p.2.1 = b) (k : p.2.2 = c) : p = (p.1, b, c) := by
  rw [← h, ← k]

/-- A package out of reset, READY, its straits UP. -/
def board : State :=
  let s : State := { State.reset with pins := { resetN := true, pwrGoodN := false } }
  let s := (List.range 35).foldl (fun s n => s.setFld .STR_STAT_STATE n 0 1) s
  ((s.setFld .HBR_STAT_STATE 0 0 1).setFld .SEC_DEV_STAT_DRBG 0 0 1).setFld .MEM_SCRUB_CFG_SCRUB_PERIOD 0 0 1

/-- Function 8 is enabled and holds every atoll, stack and port. -/
def live : State :=
  let s := (board.setFld .SEC_GRANT_CTL_STATE 8 0 2).setFld .SEC_GRANT_CTL_ENABLE 8 0 1
  let s := (s.setFld .SEC_GRANT_ATOLLS_ATOLLS 8 0 0xFFFFFF).setFld .SEC_GRANT_PORTS_PORTS 8 0 0xFFFFFF
  let s := (s.setFld .SEC_GRANT_RES_STACKS 8 0 0xFF).setFld .SEC_KEY_STAT_SLOT0 8 0 1
  (List.range 8).foldl (fun s k => (s.setFld .MEM_STACK_STAT_STATE k 0 1).setFld .REEF_STACK_STAT_LIMIT k 0 32) s

/-- A package released from cold reset, not yet READY. -/
def released : State := { State.reset with pins := { resetN := true, pwrGoodN := false } }

/-- A unit is ready in class 0 of strait 34. -/
def strait0 : State := { board with lanes := [(laneKey 34 false 0, { ready := [({}, 0)], flight := [{}] }), (laneKey 34 false 3, { flight := [{}] })] }

/-- A load of function 8 stands in a state. -/
def loadingAt (n : Nat) : State :=
  ((live.modLoad 8 (fun l => { l with host := true })).setFld .IMG_LOAD_STAT_STATE 8 0 n).setFld .IMG_LOAD_STAT_BUSY 8 0 1

/-- A unit for island 0 stands at the head of a reader queue of die 0's crossbar. -/
def crossing : State :=
  { live with lanes := [(laneKey 4 true 0, { reader := [{ dst := 1 }] })] }

/-- A load command of function 8 waits. -/
def loadWaits : State :=
  ({ live with queues := [(64 * 8 + 63, { cmds := [{ index := 5 }] })] } : State).modFn 8 (fun f => { f with loadsWaiting := [{ fn := 8, q := 63, index := 5 }] })

/-- Function 8's load spans dies, whose command die holds an epoch. -/
def loadWide : State := { loadingAt loadWaitIdle with lead := { holder := some false, dieEpoch := [(0, 1)], gateEpoch := [(0, 1)] } }

/-- Function 8, with one die, in WAIT_IDLE. -/
def loadOne : State := ((loadingAt loadWaitIdle).setFld .SEC_GRANT_ATOLLS_ATOLLS 8 0 1).setFld .SEC_GRANT_RES_STACKS 8 0 0

/-- An entry of atoll 23. -/
def entry23 : List Byte := List.replicate 10 0 ++ leBytes 1 0x80 ++ List.replicate 17 0 ++ leBytes 4 9

/-- An entry of atoll 23 with 8 bytes of parameters. -/
def entryGiven : List Byte := List.replicate 10 0 ++ leBytes 1 0x80 ++ List.replicate 13 0 ++ leBytes 2 8 ++ List.replicate 2 0 ++ leBytes 4 9

/-- A launch of function 8 on atoll 23 has been taken. -/
def launching : State := { live with launches := [(0, { fn := 8, entry := entry23, client := .command { fn := 8, q := 63, index := 7 }, source := 2 })], nextLaunch := 1 }

/-- Its starts are in flight. -/
def launchStarting : State := { live with launches := [(0, { fn := 8, entry := entry23, client := .command { fn := 8, q := 63, index := 7 }, source := 2, started := true, starting := [383] })], nextLaunch := 1 }

/-- Islet 383 runs. -/
def running : State := live.setFld .ISL_STAT_SEQ_STATE 383 0 seqRunning

/-- Islet 383 stands at an instruction. -/
def seqWith (w : Nat) : State := running.modIslet 383 (fun x => { x with prog := [(0, BitVec.ofNat 64 w)], sends := [(0, {})], recvs := [(0, {})] })

/-- Islet 383 stands at an instruction of an opcode, with operands 0. -/
def seqAt (op : Nat) : State := seqWith (op * 2 ^ 56)

/-- A control packet is in flight. -/
def packetIn (p : Packet) : State := { live with packets := [p] }
def packetFlag : State := packetIn { src := 0, dst := 383, kind := .flagSet 31 }
def packetRelease : State := packetIn { src := 0, dst := 383, kind := .release 31 2 }
def packetHalt : State := packetIn { src := 0, dst := 387, kind := .halt (.launch 0) }

/-- A write waits at port B of islet 383. -/
def portBChannel : State := live.modIslet 383 (fun x => { x with portB := [{ off := 480, data := [], writer := .channel 31 }] })
def portBEngine : State := live.modIslet 383 (fun x => { x with portB := [{ off := 480, data := [], writer := .engine 1 }] })

/-- Port 23 in a state, the device at chain address 1. -/
def linkIn (st : Nat) : State :=
  ((live.setFld .JL_PORT_STAT_STATE 23 0 st).setFld .JL_CHAIN_ADDR_VALID 0 0 1).setFld .JL_CHAIN_ADDR 0 0 1 |>.setFld .JL_PORT_STAT_SPARE_RX 23 0 0xF
def linkUp : State := linkIn portIsUp
def linkKeying : State := (linkIn portKeying).modLink 23 (fun l => { l with unanswered := [linkCtrl 1 []] })
def linkAccepted : State := linkKeying.modLink 23 (fun l => { l with accepted := true })
def linkSends : State := { linkUp with egress := [(4 * 23 + 3, [{}])] }

/-- A verified flit for function 8 of the device. -/
def rxOf (ft sub : Nat) : RxFlit := { flit := { ftype := ft, sub := sub, dst := 1, dfn := 8, len := 1 } }

/-- A command of an opcode waits in queue 63 of function 8. -/
def cmdRef : CmdRef := { fn := 8, q := 63, index := 7 }
def cmdOf (op : Nat) : Command := { index := 7, bytes := leBytes 1 op ++ List.replicate 63 0 }
def queued (c : Command) : State := { live.setFld .SVC_Q_STATE_STATE 8 63 queueActive with queues := [(64 * 8 + 63, { cmds := [c] })] }
def waits (op : Nat) : State := queued (cmdOf op)

/-- A SERVICE_CTL of function 8 for a target and an action waits at the head of its queue 63. -/
def ctlOf (target action : Nat) : Command :=
  { index := 7, bytes := leBytes 1 6 ++ List.replicate 7 0 ++ leBytes 1 target ++ leBytes 1 action ++ List.replicate 54 0 }
def waitsCtl (target action : Nat) : State := queued (ctlOf target action)

/-- The west half holds the lead. -/
def leading : State := { live with lead := { holder := some true, dieEpoch := [(2, 1)], gateEpoch := [(0, 1), (1, 1), (2, 1), (3, 1)] } }

/-- The device has its address on the I3C bus. -/
def i3cUp : State := { live with mctp := { i3c := some 9, spdm := [(0, 7)] } }

/-- A package that boots, with its address on the I3C bus. -/
def bootingUp : State := { released with mctp := { i3c := some 9 } }

/-- Requests: source endpoint 5, tag byte 8, then the message. -/
def spdmReq (code : Nat) : List Byte := leBytes 1 5 ++ leBytes 1 8 ++ leBytes 1 5 ++ leBytes 1 0x13 ++ leBytes 1 code ++ List.replicate 60 0
def ctlReq (cmd : Nat) (data : List Nat) : List Byte :=
  leBytes 1 5 ++ leBytes 1 8 ++ leBytes 1 0 ++ leBytes 1 0x80 ++ leBytes 1 cmd ++ data.flatMap (leBytes 1)
def pldmReq (type cmd : Nat) (data : List Nat) : List Byte :=
  leBytes 1 5 ++ leBytes 1 8 ++ leBytes 1 1 ++ leBytes 1 0x80 ++ leBytes 1 type ++ leBytes 1 cmd ++ data.flatMap (leBytes 1)

/-- Plan 3 moves one word from scratchpad offset 0 to 32, or by another kind; it may chain to itself. -/
def planBytes (kind chain : Nat) : List Byte :=
  leBytes 1 0 ++ leBytes 1 kind ++ leBytes 2 0 ++ leBytes 2 chain ++ leBytes 2 3 ++ List.replicate 12 0 ++ leBytes 4 32 ++ leBytes 4 32 ++
    leBytes 2 1 ++ leBytes 2 1 ++ List.replicate 32 0
def plan0 : List Byte := planBytes 2 0
/-- Engine 1 of islet 383 has plan 3 queued, or runs it. -/
def copying (e : CopyEngine) : State := live.modIslet 383 (fun x => { x with plans := [(3, plan0)], eng1 := e })
/-- Islet 383 has channel ends. -/
def chanEnds (x : Islet) : State := live.modIslet 383 (fun _ => x)

/-- A descriptor of an OP with FP8 elements and nothing else. -/
def mxDesc (op fmt m slices : Nat) : List Byte :=
  leBytes 4 0 ++ leBytes 1 op ++ leBytes 1 0 ++ leBytes 1 fmt ++ leBytes 1 0 ++ leBytes 2 m ++ leBytes 1 slices ++ leBytes 1 0 ++ List.replicate 8 0 ++
    leBytes 4 0xFFFFFFFF ++ List.replicate 8 0 ++ leBytes 4 0 ++ List.replicate 20 0
/-- The array of islet 383. -/
def mxWith (d : List Byte) (f : Matrix → Matrix) : State :=
  live.modIslet 383 (fun x => { x with mx := f { descs := [(0, d)], queue := [{}], issued := 1 } })

/-- A program of one stage that moves the constant of SEED. -/
def prog0 : List Byte :=
  List.replicate 4 0 ++ leBytes 1 1 ++ List.replicate 3 0 ++ leBytes 2 1 ++ leBytes 2 1 ++ List.replicate 16 0 ++ leBytes 4 0xFFFFFFFF ++
    leBytes 4 0x9000 ++ List.replicate 160 0
def vxWith (f : VectorEngine → VectorEngine) : State :=
  live.modIslet 383 (fun x => { x with vx := f { progs := [(511, prog0)] } })

/-- A pipeline of one stage on the islets of atoll 0 that a mask picks, with its flags, timeout and feed bytes; its shoal lies at 0. -/
def pipeOf (mask flags timeout feed : Nat) : List (List Byte) :=
  [leBytes 2 0 ++ leBytes 2 1 ++ leBytes 4 1 ++ leBytes 4 1 ++ leBytes 52 0,
   leBytes 4 1 ++ leBytes 2 mask ++ leBytes 1 1 ++ leBytes 1 flags ++ leBytes 8 1 ++ leBytes 2 0 ++ leBytes 2 0xFF ++ leBytes 4 timeout ++ leBytes 8 feed ++
     leBytes 32 0]
def shoal0 : List Byte := leBytes 16 0 ++ leBytes 8 65536 ++ leBytes 8 65536 ++ leBytes 32 0
/-- A step service of function 8 whose stage 0 is as given. -/
def stepping (v : StepSvc) (g : Stage) : State :=
  live.modFn 8 (fun f => { f with step := some v, stages := [(0, g)], pipe := pipeOf 0 0 0 0, shoal := [shoal0] })

/-- Function 8 has one HBM page mapped at 0, and another on mainland port 15 at 65536. -/
def mapped : State :=
  (({ live with mlPorts := [(15, {})] } : State).setFld .MEM_ML_PORT_STAT_STATE 15 0 1).modFn 8 (fun f =>
    { f with segs := [{ base := 0, pages := [{ frame := .spread 7 1000 }, { frame := .board 15 3, slot := 0 }] }] })
/-- It has a migration request waiting, or running. -/
def migWaits (op pages addr : Nat) : State := mapped.modFn 8 (fun f => { f with mig := { queue := [{ w0 := op + pages * 2 ^ 32, w3 := addr }] } })
def migRuns (op next : Nat) (st : Option Status) : State :=
  mapped.modFn 8 (fun f => { f with mig := { run := some { req := { w0 := op + 2 * 2 ^ 32, w3 := 0 }, next := next, status := st } } })
/-- Port 15 moves a page. -/
def moving (m : PageMove) : State := { mapped with mlPorts := [(15, { current := some m })] }

/-- A page going up to HBM frame 9 of stack 7, and one going down to frame 4 of port 15. -/
def raised : PageMove := { fn := 8, addr := 65536, kind := .promote, target := .spread 7 9 }
def lowered : PageMove := { fn := 8, addr := 0, kind := .demote, target := .board 15 4 }

/-- A completion record of queue 63 waits; its ring is in device memory. -/
def ringed : State := { mapped with queues := [(64 * 8 + 63, { cmds := [], cpls := [{}] })] }

/-- The west half waits for the token, or its grant is under way, with some actions at the gates. -/
def grantWaits (a : Store Action) : State :=
  ({ live with lead := { wants := [true], westLeader := 2 }, actions := a } : State).setFld .HBR_LEAD_EPOCH 0 0 0xFFFF
def grantRuns (a : Store Action) : State :=
  { live with lead := { wants := [true], westLeader := 2, granting := some (true, 7) }, actions := a }

/-- A thermal trip has stopped the package, with a journal record waiting. -/
def hot : State := let s := live.journal 0x53 []; { s with pins := { s.pins with tripped := true } }

/-- Reef stack 7 of function 8. -/
def reefWith (x : ReefStack) : State := { mapped with reefs := [(7, x)] }

/-- A job of function 8 in context 31. -/
def jobWith (st : Nat) (j : Job) : State := { live.setFld .RED_JOB_STAT_STATE 31 0 st with jobs := [(31, { j with fn := 8 })] }

/-- The optimiser of function 8 in a state. -/
def optAt (st : Nat) (o : Opt) (opt : List (List Byte)) : State :=
  (mapped.modFn 8 (fun f => { f with optim := o, opt := opt })).setFld .OPT_STAT_STATE 8 0 st
/-- OPT and SHARD records. -/
def optRec0 : List Byte := leBytes 1 0 ++ leBytes 1 0 ++ List.replicate 6 0 ++ leBytes 2 1 ++ leBytes 2 0 ++ List.replicate 116 0
/-- OPT and SHARD records that keep every limit. -/
def optRecL : List Byte :=
  leBytes 3 0 ++ leBytes 5 1 ++ leBytes 2 1 ++ leBytes 2 1 ++ leBytes 20 0 ++ leBytes 8 1 ++ leBytes 4 1 ++ leBytes 4 1 ++ leBytes 32 0 ++ leBytes 4 1 ++
    leBytes 4 1 ++ leBytes 2 5 ++ leBytes 38 0
def shardRecL : List Byte :=
  leBytes 4 1 ++ leBytes 8 5 ++ leBytes 4 8192 ++ leBytes 32 0 ++ leBytes 8 0 ++ leBytes 24 0xF ++ leBytes 8 0 ++ leBytes 24 0xF ++ leBytes 16 0
def shardRec0 : List Byte := leBytes 1 1 ++ List.replicate 255 0

/-- An action of function 8 is under way. -/
def acting (a : Action) : State := { live with actions := [(5, { a with kind := .commit 8 })] }

/-- A message waits at the mailbox. -/
def mailReq (req : List Byte) : State :=
  { i3cUp with mctp := { i3cUp.mctp with incoming := [(1, req.take 2 ++ leBytes 1 1 ++ req.drop 2)], spdm := [(0, 7), (1, 7)] } }

/-- Function 8 has an installed entry of each kind. -/
def entryOf (kind : Nat) : List Byte := List.replicate 2 0 ++ leBytes 1 kind ++ List.replicate 7 0 ++ leBytes 1 0x80 ++ List.replicate 53 0
def installed (s : State) (kind : Nat) : State :=
  ((s.modFn 8 (fun f => { f with entries := [entryOf kind], pipe := [List.replicate 64 0], opt := [List.replicate 128 0] })).setFld .IMG_CFG_STATE_BASE 8 0 1
    ).setFld .IMG_CFG_STATE_ATOLLS_LOADED 8 0 0xFFFFFF |>.setFld .OPT_STAT_STATE 8 0 optIdle
/-- A STEP command of 1 step whose control block lies at 0. -/
def stepCmd : Command := { index := 7, bytes := leBytes 1 3 ++ List.replicate 11 0 ++ leBytes 4 1 ++ List.replicate 48 0 }

/-- A reef operation of one member, pseudo-channel 0: one row of 32 FP8 values. -/
def reefDesc0 : List Byte :=
  List.replicate 2 0 ++ leBytes 1 0 ++ leBytes 1 0x33 ++ leBytes 1 0 ++ leBytes 1 0 ++ leBytes 1 1 ++ leBytes 1 1 ++ List.replicate 8 0 ++
    leBytes 8 0 ++ leBytes 8 65536 ++ leBytes 8 131072 ++ leBytes 4 1 ++ leBytes 4 32 ++ leBytes 4 32 ++ leBytes 4 0 ++ leBytes 4 0 ++ List.replicate 4 0
def reefReq0 : List Byte := leBytes 2 5 ++ leBytes 1 1 ++ List.replicate 21 0 ++ leBytes 4 0xFFFFFFFF ++ leBytes 4 0xFFFFFFFF
def reefOp0 (b : Bool) : ReefOp := { id := 9, fn := 8, req := reefReq0, desc := reefDesc0, started := b }
def reefPages0 : State := (live.modFn 8 (fun f =>
  { f with segs := [{ base := 0, channelLocal := true, pages := (List.range 3).map (fun k => ({ frame := .channel 7 0 ((List.range 64).map (fun i => 64 * k + i)) } : Page)) }] })
  ).setFld .REEF_STACK_STAT_LOADED 7 0 1
def reefAt (x : ReefStack) : State := { reefPages0 with reefs := [(7, x)] }
/-- Its control block has a record ring of 16 entries. -/
def stepReady : State :=
  { (installed (queued stepCmd) 1).modFn 8 (fun f => { f with segs := (mapped.fnState 8).segs }) with mem := memPut [] (frameByte (.spread 7 1000) 0x20) 4 }
/-- The states as the command is read: started, its control block read, its parameter block read; its entry. -/
def stepT : State :=
  (stepReady.mayStart cmdRef (stepReady.trainAtolls 8 (((stepReady.fnState 8).entries.find? (fun z => entryId z == stepCmd.arg 8 2)).getD []))).1
def stepU : State × Answer := stepT.devRead .islet 8 (stepCmd.arg 0x18 8) 64
def stepE : List Byte := (stepT.entryFor 8 (stepCmd.arg 8 2) 1).getD []
def stepV : State × Answer := stepU.1.devRead .islet 8 (bytesAt stepU.2.data 0 8) (entryParamLen stepE)
theorem stepU_eq : stepT.devRead .islet 8 (stepCmd.arg 0x18 8) 64 = (stepU.1, stepU.2) := by rw [← stepU.eq_1]
theorem stepV_eq : stepU.1.devRead .islet 8 (bytesAt stepU.2.data 0 8) (entryParamLen stepE) = (stepV.1, stepV.2) := by rw [← stepV.eq_1]

/-- A firmware image at host address 0 is being read, its header read so far; a header of 32 bytes that gives a length. -/
def fwHead (n : Nat) : List Byte := leBytes 8 0 ++ leBytes 8 n ++ leBytes 16 0
def fwReads (head : List Byte) : State := { live with staging := [9], fw := { staging := some 0, asked := true, head := head } }

/-- A TVA-768. -/
def small : State := { State.reset with pkg := { State.reset.pkg with part := .tva768 } }

/-! ## A state that meets the hypotheses of each statement -/

theorem witness_StraitCommandsComplete_0 : ∃ (s : State) (n : Nat), n < 35 ∧ s.straitCarries n = true ∧ s.straitRuns n
    = true :=
⟨strait0, 34, by decide +kernel, by decide +kernel, by decide +kernel⟩
theorem witness_StraitCommandsComplete_1 : ∃ (s : State) (n : Nat) (cls : Nat) (ba : Bool) (t : State), n < 35 ∧ cls <
    4 ∧ s.straitCarries n = true ∧ s.straitRuns n = true ∧ (s.lane n ba cls).flight ≠ [] ∧ (s.straitPass n ba
    cls).capeTakes n ba cls = t ∧ (∀ e ∈ dieLanes (straitReader n ba), t.laneTake e.1 (straitReader e.1 true ==
    straitReader n ba) e.2 = none) :=
⟨strait0, 34, 3, false, ((strait0.straitPass 34 false 3).capeTakes 34 false 3), by decide +kernel, by decide +kernel,
    by decide +kernel, by decide +kernel, by decide +kernel, rfl, by decide +kernel⟩
theorem witness_StraitCommandsComplete_2 : ∃ (s : State) (n : Nat) (cls : Nat) (ba : Bool), n < 35 ∧ cls < 4 ∧
    s.straitCarries n = true ∧ s.straitRuns n = true ∧ (s.lane n ba cls).flight ≠ [] :=
⟨strait0, 34, 3, false, by decide +kernel, by decide +kernel, by decide +kernel, by decide +kernel, by decide +kernel⟩
theorem witness_StraitCommandsComplete_3 : ∃ (s : State) (n : Nat), n < 35 ∧ s.straitState n ≠ 3 ∧ s.straitRuns n =
    true ∧ s.heldInReset = false ∧ (stackOfStrait n).any (bit (s.fld .HBR_RESET_STAT_STACK_BUSY)) = false :=
⟨live, 34, by decide +kernel, by decide +kernel, by decide +kernel, by decide +kernel, by decide +kernel⟩
theorem witness_StraitCommandsComplete_4 : ∃ (s : State) (die : Nat) (out : Nat) (cls : Nat) (n : Nat) (u :
    StraitUnit) (rest : List StraitUnit) (ns : List Nat) (t : State), die < 4 ∧ out < 18 ∧ cls < 4 ∧ s.straitCarries
    out = true ∧ s.relocking die = false ∧ (s.lane out (leavesBA out die) cls).readyCount < 16 ∧ (s.crossbarRivals die
    out cls).filter (fun n => storeGet 0 s.xturn (turnKey die out cls) ≤ n) ++ s.crossbarRivals die out cls = n :: ns
    ∧ (s.lane n (straitReader n true == die) cls).reader = u :: rest ∧ s.crossbarMove die out cls n u rest = t ∧ (∀ e
    ∈ dieLanes (die), t.laneTake e.1 (straitReader e.1 true == die) e.2 = none) :=
⟨crossing, 0, 0, 0, 4, ({ dst := 1 } : StraitUnit), ([] : List StraitUnit), ([4] : List Nat), (crossing.crossbarMove 0
    0 0 4 ({ dst := 1 } : StraitUnit) ([] : List StraitUnit)), by decide +kernel, by decide +kernel,
    by decide +kernel, by decide +kernel, by decide +kernel, by decide +kernel, by decide +kernel, by decide +kernel,
    rfl, by decide +kernel⟩
theorem witness_LoadCommandsComplete_0 : ∃ (s : State) (fn : Nat) (w : Word), s.fnLive fn = true ∧ bit w.toNat 1 =
    false ∧ bit w.toNat 0 = true :=
⟨live, 8, 1, by decide +kernel, by decide +kernel, by decide +kernel⟩
theorem witness_LoadCommandsComplete_1 : ∃ (s : State) (fn : Nat) (w : Word), s.fnLive fn = true ∧ bit w.toNat 1 =
    true ∧ bit w.toNat 0 = false ∧ (s.writeReg .IMG_LOAD_CTL fn 0 w).loading fn = true ∧ (s.writeReg .IMG_LOAD_CTL fn
    0 w).loadState fn ≤ loadWaitIdle :=
⟨(loadingAt loadWaitIdle), 8, 2, by decide +kernel, by decide +kernel, by decide +kernel, by decide +kernel,
    by decide +kernel⟩
theorem witness_LoadCommandsComplete_2 : ∃ (s : State) (fn : Nat) (r : CmdRef) (rest : List CmdRef) (c : Command),
    s.fnLive fn = true ∧ s.loading fn = false ∧ (s.fnState fn).loadsWaiting = r :: rest ∧ (s.modFn fn (fun f =>
    { f with loadsWaiting := rest })).command r = some c ∧ (s.modFn fn (fun f =>
    { f with loadsWaiting := rest })).ringRoom fn r.q = true :=
⟨loadWaits, 8, ({ fn := 8, q := 63, index := 5 } : CmdRef), ([] : List CmdRef), ({ index := 5 } : Command),
    by decide +kernel, by decide +kernel, by decide +kernel, by decide +kernel, by decide +kernel⟩
theorem witness_LoadCommandsComplete_3 : ∃ (s : State) (fn : Nat) (ans : Answer) (t : State) (a : Answer), s.fnLive fn
    = true ∧ s.loadState fn = loadCheckState ∧ s.sourceReady fn (s.load fn).src 4096 (s.load fn).host ans = true ∧
    s.sourceRead fn (s.load fn).src 4096 (s.load fn).host ans = (t, a) ∧ a.status = .ok :=
⟨(loadingAt loadCheckState), 8, ({ data := List.replicate 4096 0 } : Answer), (((loadingAt loadCheckState).sourceRead
    8 ((loadingAt loadCheckState).load 8).src 4096 ((loadingAt loadCheckState).load 8).host
    ({ data := List.replicate 4096 0 } : Answer)).1), (((loadingAt loadCheckState).sourceRead 8 ((loadingAt
    loadCheckState).load 8).src 4096 ((loadingAt loadCheckState).load 8).host ({ data := List.replicate 4096 0 } :
    Answer)).2), by decide +kernel, by decide +kernel, by decide +kernel, rfl, by decide +kernel⟩
theorem witness_LoadCommandsComplete_4 : ∃ (s : State) (fn : Nat) (ans : Answer) (t : State) (a : Answer), s.fnLive fn
    = true ∧ s.loadState fn = loadCheckState ∧ s.sourceReady fn (s.load fn).src 4096 (s.load fn).host ans = true ∧
    s.sourceRead fn (s.load fn).src 4096 (s.load fn).host ans = (t, a) ∧ a.status ≠ .ok :=
⟨(loadingAt loadCheckState), 8, ({ status := .linkDown } : Answer), (((loadingAt loadCheckState).sourceRead 8
    ((loadingAt loadCheckState).load 8).src 4096 ((loadingAt loadCheckState).load 8).host ({ status := .linkDown } :
    Answer)).1), (((loadingAt loadCheckState).sourceRead 8 ((loadingAt loadCheckState).load 8).src 4096 ((loadingAt
    loadCheckState).load 8).host ({ status := .linkDown } : Answer)).2), by decide +kernel, by decide +kernel,
    by decide +kernel, rfl, by decide +kernel⟩
theorem witness_LoadCommandsComplete_5 : ∃ (s : State) (fn : Nat), s.staging.head? = some fn ∧ s.stagingBusy = false ∧
    s.loadState fn = loadStage :=
⟨{ loadingAt loadStage with staging := [8] }, 8, by decide +kernel, by decide +kernel, by decide +kernel⟩
theorem witness_LoadCommandsComplete_6 : ∃ (s : State) (fn : Nat) (ans : Answer) (t : State) (a : Answer),
    s.staging.head? = some fn ∧ s.stagingBusy = true ∧ s.loadState fn = loadStage ∧ s.sourceReady fn (s.load fn).src
    (imgLength (s.load fn).header) (s.load fn).host ans = true ∧ s.sourceRead fn (s.load fn).src (imgLength (s.load
    fn).header) (s.load fn).host ans = (t, a) ∧ a.status = .ok :=
⟨({ loadingAt loadStage with staging := [8], stagingBusy := true } : State), 8, ({} : Answer),
    ((({ loadingAt loadStage with staging := [8], stagingBusy := true } : State).sourceRead 8
    (({ loadingAt loadStage with staging := [8], stagingBusy := true } : State).load 8).src (imgLength
    (({ loadingAt loadStage with staging := [8], stagingBusy := true } : State).load 8).header)
    (({ loadingAt loadStage with staging := [8], stagingBusy := true } : State).load 8).host ({} : Answer)).1),
    ((({ loadingAt loadStage with staging := [8], stagingBusy := true } : State).sourceRead 8
    (({ loadingAt loadStage with staging := [8], stagingBusy := true } : State).load 8).src (imgLength
    (({ loadingAt loadStage with staging := [8], stagingBusy := true } : State).load 8).header)
    (({ loadingAt loadStage with staging := [8], stagingBusy := true } : State).load 8).host ({} : Answer)).2),
    by decide +kernel, by decide +kernel, by decide +kernel, by decide +kernel, rfl, by decide +kernel⟩
theorem witness_LoadCommandsComplete_7 : ∃ (s : State) (fn : Nat) (st : Status), loadFaultStatus st = true ∧ s.loading
    fn = true ∧ s.loadState fn ≠ loadWaitIdle :=
⟨(loadingAt loadStage), 8, (.uncorrectableMem : Status), by decide +kernel, by decide +kernel, by decide +kernel⟩
theorem witness_LoadCommandsComplete_8 : ∃ (s : State) (fn : Nat), s.loading fn = true ∧ s.loadState fn = loadWaitIdle
    ∧ s.loadTargetsIdle fn = true ∧ (s.load fn).gate = none ∧ (s.loadDies fn).length ≤ 1 :=
⟨loadOne, 8, by decide +kernel, by decide +kernel, by decide +kernel, by decide +kernel, by decide +kernel⟩
theorem witness_LoadCommandsComplete_9 : ∃ (s : State) (fn : Nat), s.loading fn = true ∧ s.loadState fn = loadWaitIdle
    ∧ s.loadTargetsIdle fn = true ∧ (s.load fn).gate = none ∧ 1 < (s.loadDies fn).length ∧ s.straitState (18 +
    s.commandDie fn) ≠ 3 ∧ s.heldEpoch (s.commandDie fn) ≠ 0 :=
⟨loadWide, 8, by decide +kernel, by decide +kernel, by decide +kernel, by decide +kernel, by decide +kernel,
    by decide +kernel, by decide +kernel⟩
theorem witness_LoadCommandsComplete_10 : ∃ (s : State) (fn : Nat), s.loading fn = true ∧ s.loadState fn = loadQuiesce
    ∧ (setBits (s.loadStacks fn) 8).any (fun k => (s.reef k).ops.any (fun o => o.fn == fn)) = false ∧ s.loadStale fn =
    false :=
⟨(loadingAt loadQuiesce), 8, by decide +kernel, by decide +kernel, by decide +kernel, by decide +kernel⟩
theorem witness_LoadCommandsComplete_11 : ∃ (s : State) (fn : Nat), s.loading fn = true ∧ s.loadState fn = loadWrite ∧
    s.loadStale fn = false :=
⟨(loadingAt loadWrite), 8, by decide +kernel, by decide +kernel, by decide +kernel⟩
theorem witness_LaunchCommandsComplete_0 : ∃ (s : State) (lid : Nat) (l : Launch), storeGet {} s.launches lid = l ∧
    s.launchOpen lid = true ∧ l.started = false ∧ l.source = 2 ∧ s.entryUnsafe l.fn l.entry = false ∧ l.forService =
    false ∧ (launchIslets l).any (fun i => s.isletActive i || (s.islet i).malformed) = false ∧ s.launchRoom l = true :=
⟨launching, 0, (storeGet {} launching.launches 0), rfl, by decide +kernel, by decide +kernel, by decide +kernel,
    by decide +kernel, by decide +kernel, by decide +kernel, by decide +kernel⟩
theorem witness_LaunchCommandsComplete_1 : ∃ (s : State) (lid : Nat) (ans : Answer) (l : Launch) (u : State) (a :
    Answer), storeGet {} s.launches lid = l ∧ s.launchOpen lid = true ∧ l.started = false ∧ l.source = 1 ∧
    s.entryUnsafe l.fn l.entry = false ∧ l.forService = false ∧ entryParamLen l.entry - l.given.length ≠ 0 ∧
    s.hostReady l.fn l.addr (entryParamLen l.entry - l.given.length) ans = true ∧ s.hostAnswer l.fn l.addr
    (entryParamLen l.entry - l.given.length) ans = (u, a) ∧ a.status = .ok ∧ (launchIslets l).any (fun i =>
    u.isletActive i || (u.islet i).malformed) = false ∧ s.launchRoom l = true :=
⟨({ live with launches := [(0, { fn := 8, entry := entryGiven, client := .command { fn := 8, q := 63, index := 7 }, source := 1 })], nextLaunch := 1 }
    : State), 0, ({ data := List.replicate 8 0 } : Answer), (storeGet {}
    ({ live with launches := [(0, { fn := 8, entry := entryGiven, client := .command { fn := 8, q := 63, index := 7 }, source := 1 })], nextLaunch := 1 }
    : State).launches 0),
    ((({ live with launches := [(0, { fn := 8, entry := entryGiven, client := .command { fn := 8, q := 63, index := 7 }, source := 1 })], nextLaunch := 1 }
    : State).hostAnswer (storeGet {}
    ({ live with launches := [(0, { fn := 8, entry := entryGiven, client := .command { fn := 8, q := 63, index := 7 }, source := 1 })], nextLaunch := 1 }
    : State).launches 0).fn (storeGet {}
    ({ live with launches := [(0, { fn := 8, entry := entryGiven, client := .command { fn := 8, q := 63, index := 7 }, source := 1 })], nextLaunch := 1 }
    : State).launches 0).addr (entryParamLen (storeGet {}
    ({ live with launches := [(0, { fn := 8, entry := entryGiven, client := .command { fn := 8, q := 63, index := 7 }, source := 1 })], nextLaunch := 1 }
    : State).launches 0).entry - (storeGet {}
    ({ live with launches := [(0, { fn := 8, entry := entryGiven, client := .command { fn := 8, q := 63, index := 7 }, source := 1 })], nextLaunch := 1 }
    : State).launches 0).given.length) ({ data := List.replicate 8 0 } : Answer)).1),
    ((({ live with launches := [(0, { fn := 8, entry := entryGiven, client := .command { fn := 8, q := 63, index := 7 }, source := 1 })], nextLaunch := 1 }
    : State).hostAnswer (storeGet {}
    ({ live with launches := [(0, { fn := 8, entry := entryGiven, client := .command { fn := 8, q := 63, index := 7 }, source := 1 })], nextLaunch := 1 }
    : State).launches 0).fn (storeGet {}
    ({ live with launches := [(0, { fn := 8, entry := entryGiven, client := .command { fn := 8, q := 63, index := 7 }, source := 1 })], nextLaunch := 1 }
    : State).launches 0).addr (entryParamLen (storeGet {}
    ({ live with launches := [(0, { fn := 8, entry := entryGiven, client := .command { fn := 8, q := 63, index := 7 }, source := 1 })], nextLaunch := 1 }
    : State).launches 0).entry - (storeGet {}
    ({ live with launches := [(0, { fn := 8, entry := entryGiven, client := .command { fn := 8, q := 63, index := 7 }, source := 1 })], nextLaunch := 1 }
    : State).launches 0).given.length) ({ data := List.replicate 8 0 } : Answer)).2), rfl, by decide +kernel,
    by decide +kernel, by decide +kernel, by decide +kernel, by decide +kernel, by decide +kernel, by decide +kernel,
    rfl, by decide +kernel, by decide +kernel, by decide +kernel⟩
theorem witness_LaunchCommandsComplete_2 : ∃ (s : State) (lid : Nat) (islet : Nat), (storeGet {} s.launches
    lid).starting.contains islet = true ∧ s.wayOpen (leadIsland (entryAtolls (storeGet {} s.launches lid).entry))
    (islDie islet) = true :=
⟨launchStarting, 0, 383, by decide +kernel, by decide +kernel⟩
theorem witness_LaunchCommandsComplete_3 : ∃ (s : State) (lid : Nat), s.launchOpen lid = true ∧ (storeGet {}
    s.launches lid).started = true ∧ entryTimeout (storeGet {} s.launches lid).entry ≠ 0 :=
⟨launchStarting, 0, by decide +kernel, by decide +kernel, by decide +kernel⟩
theorem witness_LaunchCommandsComplete_4 : ∃ (s : State) (fn : Nat) (islet : Nat) (w : Word), s.fnLive fn = true ∧
    islet < 384 ∧ s.isletFn islet = fn ∧ bit w.toNat 0 = true ∧ bit w.toNat 1 = false :=
⟨live, 8, 383, 1, by decide +kernel, by decide +kernel, by decide +kernel, by decide +kernel, by decide +kernel⟩
theorem witness_LaunchCommandsComplete_5 : ∃ (s : State) (fn : Nat) (islet : Nat) (w : Word), s.fnLive fn = true ∧
    islet < 384 ∧ s.isletFn islet = fn ∧ bit w.toNat 0 = false ∧ bit w.toNat 1 = true :=
⟨live, 8, 383, 2, by decide +kernel, by decide +kernel, by decide +kernel, by decide +kernel, by decide +kernel⟩
theorem witness_LaunchCommandsComplete_6 : ∃ (s : State) (islet : Nat) (cause : Nat) (place : Nat) (index : Nat) (u :
    State), islet < 384 ∧ s.isletActive islet = true ∧ (cause = 1 ∨ cause = 2 ∨ cause = 5 ∨ cause = 6) ∧
    (s.drawn.isletErr islet cause place index (1 + s.free % 255)).straitOffer (islDie islet) 16 3 (unitsOf 32) = u :=
⟨running, 383, 6, 0, 0, ((running.drawn.isletErr 383 6 0 0 (1 + running.free % 255)).straitOffer (islDie 383) 16 3
    (unitsOf 32)), by decide +kernel, by decide +kernel, by decide +kernel, rfl⟩
theorem witness_LaunchCommandsComplete_7 : ∃ (s : State) (src : Nat) (dst : Nat) (f : Nat) (p : Packet),
    s.packets.find? (fun p => p.src == src && p.dst == dst) = some p ∧ s.wayOpen (packetDie src) (packetDie dst) =
    true ∧ p.kind = .flagSet f :=
⟨packetFlag, 0, 383, 31, ({ src := 0, dst := 383, kind := .flagSet 31 } : Packet), by decide +kernel,
    by decide +kernel, by decide +kernel⟩
theorem witness_LaunchCommandsComplete_8 : ∃ (s : State) (src : Nat) (dst : Nat) (c : Nat) (n : Nat) (p : Packet),
    s.packets.find? (fun p => p.src == src && p.dst == dst) = some p ∧ s.wayOpen (packetDie src) (packetDie dst) =
    true ∧ p.kind = .release c n :=
⟨packetRelease, 0, 383, 31, 2, ({ src := 0, dst := 383, kind := .release 31 2 } : Packet), by decide +kernel,
    by decide +kernel, by decide +kernel⟩
theorem witness_LaunchCommandsComplete_9 : ∃ (s : State) (src : Nat) (dst : Nat) (lid : Nat) (p : Packet),
    s.packets.find? (fun p => p.src == src && p.dst == dst) = some p ∧ s.wayOpen (packetDie src) (packetDie dst) =
    true ∧ p.kind = .halt (.launch lid) ∧ (storeGet {} s.launches lid).client ≠ .generation true :=
⟨packetHalt, 0, 387, 0, ({ src := 0, dst := 387, kind := .halt (.launch 0) } : Packet), by decide +kernel,
    by decide +kernel, by decide +kernel, by decide +kernel⟩
theorem witness_CopyAndChannelCommandsComplete_0 : ∃ (s : State) (islet : Nat) (bank : Nat) (c : Nat) (w :
    PortBWrite), (s.islet islet).portB.find? (fun w => spBank w.off == bank) = some w ∧ w.writer = .channel c :=
⟨portBChannel, 383, 15, 31, ({ off := 480, data := [], writer := .channel 31 } : PortBWrite), by decide +kernel,
    by decide +kernel⟩
theorem witness_CopyAndChannelCommandsComplete_1 : ∃ (s : State) (islet : Nat) (bank : Nat) (e : Nat) (w :
    PortBWrite), (s.islet islet).portB.find? (fun w => spBank w.off == bank) = some w ∧ w.writer = .engine e :=
⟨portBEngine, 383, 15, 1, ({ off := 480, data := [], writer := .engine 1 } : PortBWrite), by decide +kernel,
    by decide +kernel⟩
theorem witness_CopyAndChannelCommandsComplete_2 : ∃ (s : State) (islet : Nat) (eng : Nat) (corrected : Nat) (n : Nat)
    (flag : Nat) (rest : List (Nat × Nat)) (p : Plan) (t : State), islet < 384 ∧ eng < 2 ∧ ((s.islet islet).engine
    eng).run = none ∧ ((s.islet islet).engine eng).queue = (n, flag) :: rest ∧ (s.modIslet islet (fun x => x.setEngine
    eng { (s.islet islet).engine eng with queue := rest })).spCorrected islet corrected = t ∧ t.planAt islet n = some
    p ∧ p.legal = true :=
⟨(copying { queue := [(3, 31)] }), 383, 1, 0, 3, 31, ([] : List (Nat × Nat)), (Option.get ((((copying
    { queue := [(3, 31)] }).modIslet 383 (fun x => x.setEngine 1
    { ((copying { queue := [(3, 31)] }).islet 383).engine 1 with queue := ([] : List (Nat × Nat)) })).spCorrected 383
    0).planAt 383 3) (by decide +kernel)), (((copying { queue := [(3, 31)] }).modIslet 383 (fun x => x.setEngine 1
    { ((copying { queue := [(3, 31)] }).islet 383).engine 1 with queue := ([] : List (Nat × Nat)) })).spCorrected 383
    0), by decide +kernel, by decide +kernel, by decide +kernel, by decide +kernel, rfl, (Option.some_get _).symm,
    by decide +kernel⟩
theorem witness_CopyAndChannelCommandsComplete_3 : ∃ (s : State) (islet : Nat) (eng : Nat) (k : Nat) (r : CopyRun) (p
    : Plan), ((s.islet islet).engine eng).run = some r ∧ s.planAt islet r.plan = some p ∧ r.out.head? = some k ∧
    (s.islet islet).portB.any (fun w => w.writer == .engine eng && spBank w.off == spBank (p.spAt p.spOff2 k).toNat) =
    false ∧ p.kind = 2 :=
⟨(copying { run := some { plan := 3, out := [0] } }), 383, 1, 0, ({ plan := 3, out := [0] } : CopyRun), (Option.get
    ((copying { run := some { plan := 3, out := [0] } }).planAt 383 ({ plan := 3, out := [0] } : CopyRun).plan)
    (by decide +kernel)), by decide +kernel, (Option.some_get _).symm, by decide +kernel, by decide +kernel,
    by decide +kernel⟩
theorem witness_CopyAndChannelCommandsComplete_4 : ∃ (s : State) (islet : Nat) (eng : Nat) (r : CopyRun) (p : Plan),
    ((s.islet islet).engine eng).run = some r ∧ s.planAt islet r.plan = some p ∧ r.out = [] ∧ (s.islet
    islet).portB.any (fun w => w.writer == .engine eng) = false ∧ p.kind ≠ 1 ∧ p.words ≤ r.next ∧ p.chain = false :=
⟨(copying { run := some { plan := 3, next := 1 } }), 383, 1, ({ plan := 3, next := 1 } : CopyRun), (Option.get
    ((copying { run := some { plan := 3, next := 1 } }).planAt 383 ({ plan := 3, next := 1 } : CopyRun).plan)
    (by decide +kernel)), by decide +kernel, (Option.some_get _).symm, by decide +kernel, by decide +kernel,
    by decide +kernel, by decide +kernel, by decide +kernel⟩
theorem witness_CopyAndChannelCommandsComplete_5 : ∃ (s : State) (islet : Nat) (eng : Nat) (corrected : Nat) (r :
    CopyRun) (p : Plan) (q : Plan) (t : State), ((s.islet islet).engine eng).run = some r ∧ s.planAt islet r.plan =
    some p ∧ r.out = [] ∧ (s.islet islet).portB.any (fun w => w.writer == .engine eng) = false ∧ p.kind ≠ 1 ∧ p.words
    ≤ r.next ∧ p.chain = true ∧ (s.planDone islet eng r).spCorrected islet corrected = t ∧ t.planAt islet p.next =
    some q ∧ q.legal = true :=
⟨(live.modIslet 383 (fun x =>
    { x with plans := [(3, planBytes 2 1)], eng1 := { run := some { plan := 3, next := 1 } } })), 383, 1, 0,
    ({ plan := 3, next := 1 } : CopyRun), (Option.get ((live.modIslet 383 (fun x =>
    { x with plans := [(3, planBytes 2 1)], eng1 := { run := some { plan := 3, next := 1 } } })).planAt 383
    ({ plan := 3, next := 1 } : CopyRun).plan) (by decide +kernel)), (Option.get ((((live.modIslet 383 (fun x =>
    { x with plans := [(3, planBytes 2 1)], eng1 := { run := some { plan := 3, next := 1 } } })).planDone 383 1
    ({ plan := 3, next := 1 } : CopyRun)).spCorrected 383 0).planAt 383 (Option.get ((live.modIslet 383 (fun x =>
    { x with plans := [(3, planBytes 2 1)], eng1 := { run := some { plan := 3, next := 1 } } })).planAt 383
    ({ plan := 3, next := 1 } : CopyRun).plan) (by decide +kernel)).next) (by decide +kernel)), (((live.modIslet 383
    (fun x => { x with plans := [(3, planBytes 2 1)], eng1 := { run := some { plan := 3, next := 1 } } })).planDone
    383 1 ({ plan := 3, next := 1 } : CopyRun)).spCorrected 383 0), by decide +kernel, (Option.some_get _).symm,
    by decide +kernel, by decide +kernel, by decide +kernel, by decide +kernel, by decide +kernel, rfl,
    (Option.some_get _).symm, by decide +kernel⟩
theorem witness_CopyAndChannelCommandsComplete_6 : ∃ (s : State) (islet : Nat) (eng : Nat) (r : CopyRun) (p : Plan) (t
    : State), ((s.islet islet).engine eng).run = some r ∧ s.planAt islet r.plan = some p ∧ r.out = [] ∧ (s.islet
    islet).portB.any (fun w => w.writer == .engine eng) = false ∧ p.kind = 1 ∧ p.chain = false ∧ s.planForbidden islet
    p r.next = false ∧ s.planWrites islet eng p r.next = (t, .ok, true) ∧ ((t.islet islet).engine eng).run ≠ none :=
⟨(mapped.modIslet 383 (fun x =>
    { x with task := some (.launch 0), plans := [(3, planBytes 1 0)], eng1 := { run := some { plan := 3 } } })), 383,
    1, ({ plan := 3 } : CopyRun), (Option.get ((mapped.modIslet 383 (fun x =>
    { x with task := some (.launch 0), plans := [(3, planBytes 1 0)], eng1 := { run := some { plan := 3 } } })).planAt
    383 ({ plan := 3 } : CopyRun).plan) (by decide +kernel)), (((mapped.modIslet 383 (fun x =>
    { x with task := some (.launch 0), plans := [(3, planBytes 1 0)], eng1 := { run := some { plan := 3 } } })).planWrites
    383 1 (Option.get ((mapped.modIslet 383 (fun x =>
    { x with task := some (.launch 0), plans := [(3, planBytes 1 0)], eng1 := { run := some { plan := 3 } } })).planAt
    383 ({ plan := 3 } : CopyRun).plan) (by decide +kernel)) ({ plan := 3 } : CopyRun).next).1), by decide +kernel,
    (Option.some_get _).symm, by decide +kernel, by decide +kernel, by decide +kernel, by decide +kernel,
    by decide +kernel, tripleOf2 (by decide +kernel) (by decide +kernel), by decide +kernel⟩
theorem witness_CopyAndChannelCommandsComplete_7 : ∃ (s : State) (islet : Nat) (port : Nat) (id : Nat) (u : ChanUnit)
    (rest : List (Nat × ChanUnit)) (t : State), islet < 384 ∧ 0 < port ∧ port < 6 ∧ s.hopChoices islet port = (id, u)
    :: rest ∧ (s.hopTaken islet port id).hopLink islet port id u = .moved t ∧ (∀ e ∈ dieLanes (islDie islet),
    t.laneTake e.1 (straitReader e.1 true == islDie islet) e.2 = none) :=
⟨(chanEnds { bufs := [(32 * 3 + 15, [{}])] }), 383, 3, 15, ({} : ChanUnit), ([] : List (Nat × ChanUnit)), (hopState
    (((chanEnds { bufs := [(32 * 3 + 15, [{}])] }).hopTaken 383 3 15).hopLink 383 3 15 ({} : ChanUnit))),
    by decide +kernel, by decide +kernel, by decide +kernel, by decide +kernel, hopState_moved (by decide +kernel),
    by decide +kernel⟩
theorem witness_CopyAndChannelCommandsComplete_8 : ∃ (s : State) (islet : Nat) (chan : Nat) (losses : Nat) (u :
    ChanUnit) (rest : List ChanUnit) (e : RecvEnd) (t : State), storeGet {} (s.islet islet).recvs chan = e ∧ e.arrived
    = u :: rest ∧ (s.islet islet).portB.any (fun w => w.writer == .channel chan) = false ∧ s.portBWrite islet
    { off := e.ringOff + e.wr, data := u.data, writer := .channel chan } losses = t :=
⟨(chanEnds { recvs := [(31, { arrived := [{}] })] }), 383, 31, 0, ({} : ChanUnit), ([] : List ChanUnit), (storeGet {}
    ((chanEnds { recvs := [(31, { arrived := [{}] })] }).islet 383).recvs 31), ((chanEnds
    { recvs := [(31, { arrived := [{}] })] }).portBWrite 383
    { off := (storeGet {} ((chanEnds { recvs := [(31, { arrived := [{}] })] }).islet 383).recvs 31).ringOff + (storeGet {} ((chanEnds { recvs := [(31, { arrived := [{}] })] }).islet 383).recvs 31).wr, data := ({} : ChanUnit).data, writer := .channel 31 }
    0), rfl, by decide +kernel, by decide +kernel, rfl⟩
theorem witness_CopyAndChannelCommandsComplete_9 : ∃ (s : State) (islet : Nat) (chan : Nat) (k : Nat) (e : SendEnd),
    (s.islet islet).sends.find? (fun e => e.1 == chan) = some (k, e) :=
⟨(chanEnds { sends := [(31, {})], creditsIn := [(31, 4)] }), 383, 31, 31, ({} : SendEnd), by decide +kernel⟩
theorem witness_SequencerIssues_0 : ∃ (s : State) (islet : Nat), islet < 384 ∧ s.seqState islet = seqRunning ∧ insOp
    (s.instruction islet) = 0 :=
⟨(seqAt 0), 383, by decide +kernel, by decide +kernel, by decide +kernel⟩
theorem witness_SequencerIssues_1 : ∃ (s : State) (islet : Nat), islet < 384 ∧ s.seqState islet = seqRunning ∧ insOp
    (s.instruction islet) = 1 :=
⟨(seqAt 1), 383, by decide +kernel, by decide +kernel, by decide +kernel⟩
theorem witness_SequencerIssues_2 : ∃ (s : State) (islet : Nat), islet < 384 ∧ s.seqState islet = seqRunning ∧ insOp
    (s.instruction islet) = 2 :=
⟨(seqAt 2), 383, by decide +kernel, by decide +kernel, by decide +kernel⟩
theorem witness_SequencerIssues_3 : ∃ (s : State) (islet : Nat), islet < 384 ∧ s.seqState islet = seqRunning ∧ insOp
    (s.instruction islet) = 3 :=
⟨(seqAt 3), 383, by decide +kernel, by decide +kernel, by decide +kernel⟩
theorem witness_SequencerIssues_4 : ∃ (s : State) (islet : Nat), islet < 384 ∧ s.seqState islet = seqRunning ∧ insOp
    (s.instruction islet) = 6 :=
⟨(seqAt 6), 383, by decide +kernel, by decide +kernel, by decide +kernel⟩
theorem witness_SequencerIssues_5 : ∃ (s : State) (islet : Nat), islet < 384 ∧ s.seqState islet = seqRunning ∧ insOp
    (s.instruction islet) = 7 :=
⟨(seqAt 7), 383, by decide +kernel, by decide +kernel, by decide +kernel⟩
theorem witness_SequencerIssues_6 : ∃ (s : State) (islet : Nat), islet < 384 ∧ s.seqState islet = seqRunning ∧ insOp
    (s.instruction islet) = 8 :=
⟨(seqAt 8), 383, by decide +kernel, by decide +kernel, by decide +kernel⟩
theorem witness_SequencerIssues_7 : ∃ (s : State) (islet : Nat), islet < 384 ∧ s.seqState islet = seqRunning ∧ insOp
    (s.instruction islet) = 9 :=
⟨(seqAt 9), 383, by decide +kernel, by decide +kernel, by decide +kernel⟩
theorem witness_SequencerIssues_8 : ∃ (s : State) (islet : Nat), islet < 384 ∧ s.seqState islet = seqRunning ∧ insOp
    (s.instruction islet) = 10 :=
⟨(seqAt 10), 383, by decide +kernel, by decide +kernel, by decide +kernel⟩
theorem witness_SequencerIssues_9 : ∃ (s : State) (islet : Nat), islet < 384 ∧ s.seqState islet = seqRunning ∧ insOp
    (s.instruction islet) = 11 :=
⟨(seqAt 11), 383, by decide +kernel, by decide +kernel, by decide +kernel⟩
theorem witness_SequencerIssues_10 : ∃ (s : State) (islet : Nat), islet < 384 ∧ s.seqState islet = seqRunning ∧ insOp
    (s.instruction islet) = 12 :=
⟨(seqAt 12), 383, by decide +kernel, by decide +kernel, by decide +kernel⟩
theorem witness_SequencerIssues_11 : ∃ (s : State) (islet : Nat), islet < 384 ∧ s.seqState islet = seqRunning ∧ insOp
    (s.instruction islet) = 13 :=
⟨(seqAt 13), 383, by decide +kernel, by decide +kernel, by decide +kernel⟩
theorem witness_SequencerIssues_12 : ∃ (s : State) (islet : Nat), islet < 384 ∧ s.seqState islet = seqRunning ∧ insOp
    (s.instruction islet) = 14 :=
⟨(seqAt 14), 383, by decide +kernel, by decide +kernel, by decide +kernel⟩
theorem witness_SequencerIssues_13 : ∃ (s : State) (islet : Nat) (k : Nat) (e : SendEnd), islet < 384 ∧ s.seqState
    islet = seqRunning ∧ insOp (s.instruction islet) = 4 ∧ (s.islet islet).sends.find? (fun e => e.1 == bits
    (s.instruction islet).toNat 0 5) = some (k, e) :=
⟨(seqAt 4), 383, 0, ({} : SendEnd), by decide +kernel, by decide +kernel, by decide +kernel, by decide +kernel⟩
theorem witness_SequencerIssues_14 : ∃ (s : State) (islet : Nat) (k : Nat) (e : RecvEnd), islet < 384 ∧ s.seqState
    islet = seqRunning ∧ insOp (s.instruction islet) = 5 ∧ (s.islet islet).recvs.find? (fun e => e.1 == bits
    (s.instruction islet).toNat 0 5) = some (k, e) :=
⟨(seqAt 5), 383, 0, ({} : RecvEnd), by decide +kernel, by decide +kernel, by decide +kernel, by decide +kernel⟩
theorem witness_SequencerIssues_15 : ∃ (s : State) (islet : Nat) (k : Nat) (e : SendEnd), islet < 384 ∧ s.seqState
    islet = seqWaiting ∧ insOp (s.instruction islet) = 4 ∧ (s.islet islet).sends.find? (fun e => e.1 == bits
    (s.instruction islet).toNat 0 5) = some (k, e) :=
⟨((seqAt 4).setFld .ISL_STAT_SEQ_STATE 383 0 seqWaiting), 383, 0, ({} : SendEnd), by decide +kernel,
    by decide +kernel, by decide +kernel, by decide +kernel⟩
theorem witness_SequencerIssues_16 : ∃ (s : State) (islet : Nat), islet < 384 ∧ s.seqState islet = seqWaiting ∧ insOp
    (s.instruction islet) ≤ 14 ∧ insOp (s.instruction islet) ≠ 4 ∧ insOp (s.instruction islet) ≠ 5 :=
⟨((seqAt 6).setFld .ISL_STAT_SEQ_STATE 383 0 seqWaiting), 383, by decide +kernel, by decide +kernel,
    by decide +kernel, by decide +kernel, by decide +kernel⟩
theorem witness_MatrixCommandsComplete_0 : ∃ (s : State) (islet : Nat), islet < 384 ∧ (s.islet (s.gangLead
    islet)).mx.assembled = false ∧ (s.gangIslets islet).any (fun i => (s.islet i).mx.queue.isEmpty) = false ∧
    (s.gangIslets islet).all s.headLegal = true ∧ s.headsAgree (s.gangIslets islet) = true ∧ ((s.gangIslets islet).map
    (fun i => ((s.islet i).mx.queue.head?).map (·.n))).eraseDups.length ≤ 1 :=
⟨(mxWith (mxDesc 1 2 0 0) id), 383, by decide +kernel, by decide +kernel, by decide +kernel, by decide +kernel,
    by decide +kernel, by decide +kernel⟩
theorem witness_MatrixCommandsComplete_1 : ∃ (s : State) (islet : Nat), islet < 384 ∧ s.headReady (s.gangLead islet) 0
    = true ∧ (s.islet (s.gangLead islet)).mx.loads.any (fun e => e.1 == (mxTarget (s.gangOf (s.gangLead islet))
    (s.mxHead (s.gangLead islet)))) = false :=
⟨(mxWith (mxDesc 0 2 0 0) (fun m => { m with assembled := true })), 383, by decide +kernel, by decide +kernel,
    by decide +kernel⟩
theorem witness_MatrixCommandsComplete_2 : ∃ (s : State) (islet : Nat) (quad : Nat), islet < 384 ∧ (s.gangIslets
    (s.gangLead islet)).any (fun i => !((s.islet i).mx.loads.any (fun e => e.1 == quad))) = false :=
⟨(mxWith (mxDesc 0 2 0 0) (fun m => { m with loads := [(0, {})] })), 383, 0, by decide +kernel, by decide +kernel⟩
theorem witness_MatrixCommandsComplete_3 : ∃ (s : State) (islet : Nat), islet < 384 ∧ s.headReady (s.gangLead islet) 1
    = true ∧ descSwap (s.mxHead (s.gangLead islet)) = true ∧ (s.islet (s.gangLead islet)).mx.swapped = false ∧
    (s.gangIslets (s.gangLead islet)).any (fun i => !(s.islet i).mx.loads.isEmpty) = false ∧ (s.gangIslets (s.gangLead
    islet)).any (fun i => (storeGet ({} : StatSet) (s.islet i).mx.shadow (mxTarget (s.gangOf (s.gangLead islet))
    (s.mxHead (s.gangLead islet)))).state != 2) = false :=
⟨(mxWith (leBytes 4 0 ++ leBytes 1 1 ++ leBytes 1 1 ++ List.replicate 50 0) (fun m =>
    { m with assembled := true, shadow := [(0, { state := 2 })] })), 383, by decide +kernel, by decide +kernel,
    by decide +kernel, by decide +kernel, by decide +kernel, by decide +kernel⟩
theorem witness_MatrixCommandsComplete_4 : ∃ (s : State) (islet : Nat), islet < 384 ∧ s.headReady (s.gangLead islet) 1
    = true ∧ (descSwap (s.mxHead (s.gangLead islet)) && !(s.islet (s.gangLead islet)).mx.swapped) = false ∧
    (s.gangIslets (s.gangLead islet)).any (fun i => !tileMeets (s.gangRow i + 1 == gangRows (s.gangOf i)) (s.gangOf i)
    (s.mxHead i) (storeGet {} (s.islet i).mx.active (mxTarget (s.gangOf (s.gangLead islet)) (s.mxHead (s.gangLead
    islet))))) = false :=
⟨(mxWith (mxDesc 1 2 0 0) (fun m => { m with assembled := true })), 383, by decide +kernel, by decide +kernel,
    by decide +kernel, by decide +kernel⟩
theorem witness_MatrixCommandsComplete_5 : ∃ (s : State) (islet : Nat) (quad : Nat) (cut : Nat) (t : State), islet <
    384 ∧ (s.tileOf (s.gangLead islet) quad).isNone = false ∧ (s.gangIslets (s.gangLead islet)).any (fun i =>
    (s.tileOf i quad).isNone) = false ∧ s.tileWaits (s.gangLead islet) quad = false ∧ s.gangFill islet quad = (t, cut,
    true) :=
⟨(mxWith (mxDesc 1 2 0 0) (fun m => { m with tiles := [(0, [{}])] })), 383, 0, (((mxWith (mxDesc 1 2 0 0) (fun m =>
    { m with tiles := [(0, [{}])] })).gangFill 383 0).2.1), (((mxWith (mxDesc 1 2 0 0) (fun m =>
    { m with tiles := [(0, [{}])] })).gangFill 383 0).1), by decide +kernel, by decide +kernel, by decide +kernel,
    by decide +kernel, tripleOf (by decide +kernel)⟩
theorem witness_MatrixCommandsComplete_6 : ∃ (s : State) (islet : Nat), islet < 384 ∧ s.headReady (s.gangLead islet) 2
    = true ∧ (s.gangIslets (s.gangLead islet)).any (fun i => !((s.islet i).mx.loads.isEmpty && (s.islet
    i).mx.tiles.all (·.2.isEmpty))) = false ∧ (s.gangEnds (s.gangLead islet)).any (fun i => (s.islet i).vx.run.isSome)
    = false :=
⟨(mxWith (mxDesc 2 0 0 5) (fun m => { m with assembled := true })), 383, by decide +kernel, by decide +kernel,
    by decide +kernel, by decide +kernel⟩
theorem witness_MatrixCommandsComplete_7 : ∃ (s : State) (islet : Nat), islet < 384 ∧ (s.gangIslets (s.gangLead
    islet)).any (fun i => (s.islet i).mx.combine.isNone) = false :=
⟨(mxWith (mxDesc 2 0 0 5) (fun m => { m with combine := some {} })), 383, by decide +kernel, by decide +kernel⟩
theorem witness_MatrixCommandsComplete_8 : ∃ (s : State) (islet : Nat), islet < 384 ∧ (s.islet islet).mx.idle = true ∧
    s.fld .MX_GATE_CFG_IDLE_GATE islet ≠ 0 :=
⟨(live.setFld .MX_GATE_CFG_IDLE_GATE 383 0 1), 383, by decide +kernel, by decide +kernel, by decide +kernel⟩
theorem witness_VectorAndPhaseCommandsComplete_0 : ∃ (s : State) (islet : Nat) (n : Nat) (flag : Nat) (rest : List
    (Nat × Nat)) (p : VProg), islet < 384 ∧ (s.islet islet).vx.queue = (n, flag) :: rest ∧ (s.islet islet).vx.run =
    none ∧ (s.islet islet).mx.combine = none ∧ s.vxProgram islet n = some p ∧ n < 512 ∧ p.legal (isLagoon islet) =
    true ∧ p.sideLegal = true :=
⟨(vxWith (fun v => { v with queue := [(511, 31)] })), 383, 511, 31, ([] : List (Nat × Nat)), (Option.get ((vxWith (fun
    v => { v with queue := [(511, 31)] })).vxProgram 383 511) (by decide +kernel)), by decide +kernel,
    by decide +kernel, by decide +kernel, by decide +kernel, (Option.some_get _).symm, by decide +kernel,
    by decide +kernel, by decide +kernel⟩
theorem witness_VectorAndPhaseCommandsComplete_1 : ∃ (s : State) (islet : Nat) (n : Nat) (flag : Nat) (p : VProg),
    (s.islet islet).vx.run = some (n, flag) ∧ s.vxProgram islet n = some p ∧ (s.chainCtx islet p).sound = true :=
⟨(vxWith (fun v => { v with run := some (511, 31) })), 383, 511, 31, (Option.get ((vxWith (fun v =>
    { v with run := some (511, 31) })).vxProgram 383 511) (by decide +kernel)), by decide +kernel, (Option.some_get
    _).symm, by decide +kernel⟩
theorem witness_VectorAndPhaseCommandsComplete_2 : ∃ (s : State) (fn : Nat) (slot : Nat) (k : Nat) (m : Nat) (rest :
    List (Nat × Nat)) (v : StepSvc), (s.fnState fn).step = some v ∧ (s.stage fn slot).todo = (k, m) :: rest ∧ v.point
    = .running ∧ (s.stage fn slot).running = none ∧ s.phaseWaits fn slot k = false ∧ (k = 0 → m = 0 → s.shardsCurrent
    fn slot = true) ∧ s.pipeSound fn = true ∧ (stageIslets (s.stageRecOf fn slot)).any (fun i => (s.islet
    i).malformed) = false :=
⟨(stepping { point := .running } { todo := [(1, 0)] }), 8, 0, 1, 0, ([] : List (Nat × Nat)), (Option.get (((stepping
    { point := .running } { todo := [(1, 0)] }).fnState 8).step) (by decide +kernel)), (Option.some_get _).symm,
    by decide +kernel, by decide +kernel, by decide +kernel, by decide +kernel, by decide +kernel, by decide +kernel,
    by decide +kernel⟩
theorem witness_VectorAndPhaseCommandsComplete_3 : ∃ (s : State) (fn : Nat) (slot : Nat) (k : Nat) (m : Nat) (v :
    StepSvc), (s.fnState fn).step = some v ∧ (s.stage fn slot).running = some (k, m) ∧ (stageIslets (s.stageRecOf fn
    slot)).all (fun i => (s.stage fn slot).halted.contains i && (s.islet i).copyIdle && !s.packets.any (fun q => q.src
    == i && q.kind == .copyIdle fn slot)) = true ∧ (stageTimeout (s.stageRecOf fn slot) = 0 ∨ (s.stage fn slot).heard
    ≤ phaseClose (s.stageRecOf fn slot) (s.stage fn slot).opened) :=
⟨(stepping { point := .running } { running := some (1, 0) }), 8, 0, 1, 0, (Option.get (((stepping
    { point := .running } { running := some (1, 0) }).fnState 8).step) (by decide +kernel)), (Option.some_get _).symm,
    by decide +kernel, by decide +kernel, by decide +kernel⟩
theorem witness_VectorAndPhaseCommandsComplete_4 : ∃ (s : State) (fn : Nat) (slot : Nat) (k : Nat) (m : Nat), (s.stage
    fn slot).running = some (k, m) ∧ stageTimeout (s.stageRecOf fn slot) ≠ 0 ∧ s.phaseIsDone fn slot = false :=
⟨((stepping { point := .running } { running := some (1, 0) }).modFn 8 (fun f => { f with pipe := pipeOf 1 0 1 0 })),
    8, 0, 1, 0, by decide +kernel, by decide +kernel, by decide +kernel⟩
theorem witness_VectorAndPhaseCommandsComplete_5 : ∃ (s : State) (fn : Nat) (slot : Nat) (m : Nat) (rest : List (Nat ×
    Nat)) (v : StepSvc) (ans : Answer) (a : Answer) (t : State) (u : State) (w : State), (s.fnState fn).step = some v
    ∧ (s.stage fn slot).todo = (0, m) :: rest ∧ (s.stage fn slot).feeding = true ∧ v.point = .running ∧ bit v.flags 0
    = true ∧ s.prepareWrite fn (shoalRingBase (s.shoalRecOf fn slot) + (s.stage fn slot).start) (stageFeedBytes
    (s.stageRecOf fn slot)) = (t, true) ∧ ans.status = .ok ∧ s.pipeSound fn = true ∧ ¬ (s.stage fn slot).limit <
    stageFeedBytes (s.stageRecOf fn slot) ∧ t.hostReady fn (t.feedAddr fn slot m v) (stageFeedBytes (s.stageRecOf fn
    slot)) ans = true ∧ t.optForbids fn true (shoalRingBase (s.shoalRecOf fn slot) + (s.stage fn slot).start)
    (stageFeedBytes (s.stageRecOf fn slot)) = false ∧ t.hostAnswer fn (t.feedAddr fn slot m v) (stageFeedBytes
    (s.stageRecOf fn slot)) ans = (w, a) ∧ a.status = .ok ∧ w.devWrite .islet fn (shoalRingBase (s.shoalRecOf fn slot)
    + (s.stage fn slot).start) (a.data.take (stageFeedBytes (s.stageRecOf fn slot))) = (u, .ok) :=
⟨((stepping { point := .running, flags := 1 } { todo := [(0, 0)], feeding := true, limit := 65536 }).modFn 8 (fun f =>
    { f with segs := (mapped.fnState 8).segs, pipe := pipeOf 0 2 0 32 })), 8, 0, 0, ([] : List (Nat × Nat)),
    (Option.get ((((stepping { point := .running, flags := 1 }
    { todo := [(0, 0)], feeding := true, limit := 65536 }).modFn 8 (fun f =>
    { f with segs := (mapped.fnState 8).segs, pipe := pipeOf 0 2 0 32 })).fnState 8).step) (by decide +kernel)),
    ({ data := List.replicate 32 7 } : Answer), ((((((stepping { point := .running, flags := 1 }
    { todo := [(0, 0)], feeding := true, limit := 65536 }).modFn 8 (fun f =>
    { f with segs := (mapped.fnState 8).segs, pipe := pipeOf 0 2 0 32 })).prepareWrite 8 (shoalRingBase (((stepping
    { point := .running, flags := 1 } { todo := [(0, 0)], feeding := true, limit := 65536 }).modFn 8 (fun f =>
    { f with segs := (mapped.fnState 8).segs, pipe := pipeOf 0 2 0 32 })).shoalRecOf 8 0) + (((stepping
    { point := .running, flags := 1 } { todo := [(0, 0)], feeding := true, limit := 65536 }).modFn 8 (fun f =>
    { f with segs := (mapped.fnState 8).segs, pipe := pipeOf 0 2 0 32 })).stage 8 0).start) (stageFeedBytes
    (((stepping { point := .running, flags := 1 } { todo := [(0, 0)], feeding := true, limit := 65536 }).modFn 8 (fun
    f => { f with segs := (mapped.fnState 8).segs, pipe := pipeOf 0 2 0 32 })).stageRecOf 8 0))).1).hostAnswer 8
    (((((stepping { point := .running, flags := 1 } { todo := [(0, 0)], feeding := true, limit := 65536 }).modFn 8
    (fun f => { f with segs := (mapped.fnState 8).segs, pipe := pipeOf 0 2 0 32 })).prepareWrite 8 (shoalRingBase
    (((stepping { point := .running, flags := 1 } { todo := [(0, 0)], feeding := true, limit := 65536 }).modFn 8 (fun
    f => { f with segs := (mapped.fnState 8).segs, pipe := pipeOf 0 2 0 32 })).shoalRecOf 8 0) + (((stepping
    { point := .running, flags := 1 } { todo := [(0, 0)], feeding := true, limit := 65536 }).modFn 8 (fun f =>
    { f with segs := (mapped.fnState 8).segs, pipe := pipeOf 0 2 0 32 })).stage 8 0).start) (stageFeedBytes
    (((stepping { point := .running, flags := 1 } { todo := [(0, 0)], feeding := true, limit := 65536 }).modFn 8 (fun
    f => { f with segs := (mapped.fnState 8).segs, pipe := pipeOf 0 2 0 32 })).stageRecOf 8 0))).1).feedAddr 8 0 0
    (Option.get ((((stepping { point := .running, flags := 1 }
    { todo := [(0, 0)], feeding := true, limit := 65536 }).modFn 8 (fun f =>
    { f with segs := (mapped.fnState 8).segs, pipe := pipeOf 0 2 0 32 })).fnState 8).step) (by decide +kernel)))
    (stageFeedBytes (((stepping { point := .running, flags := 1 }
    { todo := [(0, 0)], feeding := true, limit := 65536 }).modFn 8 (fun f =>
    { f with segs := (mapped.fnState 8).segs, pipe := pipeOf 0 2 0 32 })).stageRecOf 8 0))
    ({ data := List.replicate 32 7 } : Answer)).2), ((((stepping { point := .running, flags := 1 }
    { todo := [(0, 0)], feeding := true, limit := 65536 }).modFn 8 (fun f =>
    { f with segs := (mapped.fnState 8).segs, pipe := pipeOf 0 2 0 32 })).prepareWrite 8 (shoalRingBase (((stepping
    { point := .running, flags := 1 } { todo := [(0, 0)], feeding := true, limit := 65536 }).modFn 8 (fun f =>
    { f with segs := (mapped.fnState 8).segs, pipe := pipeOf 0 2 0 32 })).shoalRecOf 8 0) + (((stepping
    { point := .running, flags := 1 } { todo := [(0, 0)], feeding := true, limit := 65536 }).modFn 8 (fun f =>
    { f with segs := (mapped.fnState 8).segs, pipe := pipeOf 0 2 0 32 })).stage 8 0).start) (stageFeedBytes
    (((stepping { point := .running, flags := 1 } { todo := [(0, 0)], feeding := true, limit := 65536 }).modFn 8 (fun
    f => { f with segs := (mapped.fnState 8).segs, pipe := pipeOf 0 2 0 32 })).stageRecOf 8 0))).1), ((((((((stepping
    { point := .running, flags := 1 } { todo := [(0, 0)], feeding := true, limit := 65536 }).modFn 8 (fun f =>
    { f with segs := (mapped.fnState 8).segs, pipe := pipeOf 0 2 0 32 })).prepareWrite 8 (shoalRingBase (((stepping
    { point := .running, flags := 1 } { todo := [(0, 0)], feeding := true, limit := 65536 }).modFn 8 (fun f =>
    { f with segs := (mapped.fnState 8).segs, pipe := pipeOf 0 2 0 32 })).shoalRecOf 8 0) + (((stepping
    { point := .running, flags := 1 } { todo := [(0, 0)], feeding := true, limit := 65536 }).modFn 8 (fun f =>
    { f with segs := (mapped.fnState 8).segs, pipe := pipeOf 0 2 0 32 })).stage 8 0).start) (stageFeedBytes
    (((stepping { point := .running, flags := 1 } { todo := [(0, 0)], feeding := true, limit := 65536 }).modFn 8 (fun
    f => { f with segs := (mapped.fnState 8).segs, pipe := pipeOf 0 2 0 32 })).stageRecOf 8 0))).1).hostAnswer 8
    (((((stepping { point := .running, flags := 1 } { todo := [(0, 0)], feeding := true, limit := 65536 }).modFn 8
    (fun f => { f with segs := (mapped.fnState 8).segs, pipe := pipeOf 0 2 0 32 })).prepareWrite 8 (shoalRingBase
    (((stepping { point := .running, flags := 1 } { todo := [(0, 0)], feeding := true, limit := 65536 }).modFn 8 (fun
    f => { f with segs := (mapped.fnState 8).segs, pipe := pipeOf 0 2 0 32 })).shoalRecOf 8 0) + (((stepping
    { point := .running, flags := 1 } { todo := [(0, 0)], feeding := true, limit := 65536 }).modFn 8 (fun f =>
    { f with segs := (mapped.fnState 8).segs, pipe := pipeOf 0 2 0 32 })).stage 8 0).start) (stageFeedBytes
    (((stepping { point := .running, flags := 1 } { todo := [(0, 0)], feeding := true, limit := 65536 }).modFn 8 (fun
    f => { f with segs := (mapped.fnState 8).segs, pipe := pipeOf 0 2 0 32 })).stageRecOf 8 0))).1).feedAddr 8 0 0
    (Option.get ((((stepping { point := .running, flags := 1 }
    { todo := [(0, 0)], feeding := true, limit := 65536 }).modFn 8 (fun f =>
    { f with segs := (mapped.fnState 8).segs, pipe := pipeOf 0 2 0 32 })).fnState 8).step) (by decide +kernel)))
    (stageFeedBytes (((stepping { point := .running, flags := 1 }
    { todo := [(0, 0)], feeding := true, limit := 65536 }).modFn 8 (fun f =>
    { f with segs := (mapped.fnState 8).segs, pipe := pipeOf 0 2 0 32 })).stageRecOf 8 0))
    ({ data := List.replicate 32 7 } : Answer)).1).devWrite .islet 8 (shoalRingBase (((stepping
    { point := .running, flags := 1 } { todo := [(0, 0)], feeding := true, limit := 65536 }).modFn 8 (fun f =>
    { f with segs := (mapped.fnState 8).segs, pipe := pipeOf 0 2 0 32 })).shoalRecOf 8 0) + (((stepping
    { point := .running, flags := 1 } { todo := [(0, 0)], feeding := true, limit := 65536 }).modFn 8 (fun f =>
    { f with segs := (mapped.fnState 8).segs, pipe := pipeOf 0 2 0 32 })).stage 8 0).start) (((((((stepping
    { point := .running, flags := 1 } { todo := [(0, 0)], feeding := true, limit := 65536 }).modFn 8 (fun f =>
    { f with segs := (mapped.fnState 8).segs, pipe := pipeOf 0 2 0 32 })).prepareWrite 8 (shoalRingBase (((stepping
    { point := .running, flags := 1 } { todo := [(0, 0)], feeding := true, limit := 65536 }).modFn 8 (fun f =>
    { f with segs := (mapped.fnState 8).segs, pipe := pipeOf 0 2 0 32 })).shoalRecOf 8 0) + (((stepping
    { point := .running, flags := 1 } { todo := [(0, 0)], feeding := true, limit := 65536 }).modFn 8 (fun f =>
    { f with segs := (mapped.fnState 8).segs, pipe := pipeOf 0 2 0 32 })).stage 8 0).start) (stageFeedBytes
    (((stepping { point := .running, flags := 1 } { todo := [(0, 0)], feeding := true, limit := 65536 }).modFn 8 (fun
    f => { f with segs := (mapped.fnState 8).segs, pipe := pipeOf 0 2 0 32 })).stageRecOf 8 0))).1).hostAnswer 8
    (((((stepping { point := .running, flags := 1 } { todo := [(0, 0)], feeding := true, limit := 65536 }).modFn 8
    (fun f => { f with segs := (mapped.fnState 8).segs, pipe := pipeOf 0 2 0 32 })).prepareWrite 8 (shoalRingBase
    (((stepping { point := .running, flags := 1 } { todo := [(0, 0)], feeding := true, limit := 65536 }).modFn 8 (fun
    f => { f with segs := (mapped.fnState 8).segs, pipe := pipeOf 0 2 0 32 })).shoalRecOf 8 0) + (((stepping
    { point := .running, flags := 1 } { todo := [(0, 0)], feeding := true, limit := 65536 }).modFn 8 (fun f =>
    { f with segs := (mapped.fnState 8).segs, pipe := pipeOf 0 2 0 32 })).stage 8 0).start) (stageFeedBytes
    (((stepping { point := .running, flags := 1 } { todo := [(0, 0)], feeding := true, limit := 65536 }).modFn 8 (fun
    f => { f with segs := (mapped.fnState 8).segs, pipe := pipeOf 0 2 0 32 })).stageRecOf 8 0))).1).feedAddr 8 0 0
    (Option.get ((((stepping { point := .running, flags := 1 }
    { todo := [(0, 0)], feeding := true, limit := 65536 }).modFn 8 (fun f =>
    { f with segs := (mapped.fnState 8).segs, pipe := pipeOf 0 2 0 32 })).fnState 8).step) (by decide +kernel)))
    (stageFeedBytes (((stepping { point := .running, flags := 1 }
    { todo := [(0, 0)], feeding := true, limit := 65536 }).modFn 8 (fun f =>
    { f with segs := (mapped.fnState 8).segs, pipe := pipeOf 0 2 0 32 })).stageRecOf 8 0))
    ({ data := List.replicate 32 7 } : Answer)).2).data.take (stageFeedBytes (((stepping
    { point := .running, flags := 1 } { todo := [(0, 0)], feeding := true, limit := 65536 }).modFn 8 (fun f =>
    { f with segs := (mapped.fnState 8).segs, pipe := pipeOf 0 2 0 32 })).stageRecOf 8 0)))).1), ((((((stepping
    { point := .running, flags := 1 } { todo := [(0, 0)], feeding := true, limit := 65536 }).modFn 8 (fun f =>
    { f with segs := (mapped.fnState 8).segs, pipe := pipeOf 0 2 0 32 })).prepareWrite 8 (shoalRingBase (((stepping
    { point := .running, flags := 1 } { todo := [(0, 0)], feeding := true, limit := 65536 }).modFn 8 (fun f =>
    { f with segs := (mapped.fnState 8).segs, pipe := pipeOf 0 2 0 32 })).shoalRecOf 8 0) + (((stepping
    { point := .running, flags := 1 } { todo := [(0, 0)], feeding := true, limit := 65536 }).modFn 8 (fun f =>
    { f with segs := (mapped.fnState 8).segs, pipe := pipeOf 0 2 0 32 })).stage 8 0).start) (stageFeedBytes
    (((stepping { point := .running, flags := 1 } { todo := [(0, 0)], feeding := true, limit := 65536 }).modFn 8 (fun
    f => { f with segs := (mapped.fnState 8).segs, pipe := pipeOf 0 2 0 32 })).stageRecOf 8 0))).1).hostAnswer 8
    (((((stepping { point := .running, flags := 1 } { todo := [(0, 0)], feeding := true, limit := 65536 }).modFn 8
    (fun f => { f with segs := (mapped.fnState 8).segs, pipe := pipeOf 0 2 0 32 })).prepareWrite 8 (shoalRingBase
    (((stepping { point := .running, flags := 1 } { todo := [(0, 0)], feeding := true, limit := 65536 }).modFn 8 (fun
    f => { f with segs := (mapped.fnState 8).segs, pipe := pipeOf 0 2 0 32 })).shoalRecOf 8 0) + (((stepping
    { point := .running, flags := 1 } { todo := [(0, 0)], feeding := true, limit := 65536 }).modFn 8 (fun f =>
    { f with segs := (mapped.fnState 8).segs, pipe := pipeOf 0 2 0 32 })).stage 8 0).start) (stageFeedBytes
    (((stepping { point := .running, flags := 1 } { todo := [(0, 0)], feeding := true, limit := 65536 }).modFn 8 (fun
    f => { f with segs := (mapped.fnState 8).segs, pipe := pipeOf 0 2 0 32 })).stageRecOf 8 0))).1).feedAddr 8 0 0
    (Option.get ((((stepping { point := .running, flags := 1 }
    { todo := [(0, 0)], feeding := true, limit := 65536 }).modFn 8 (fun f =>
    { f with segs := (mapped.fnState 8).segs, pipe := pipeOf 0 2 0 32 })).fnState 8).step) (by decide +kernel)))
    (stageFeedBytes (((stepping { point := .running, flags := 1 }
    { todo := [(0, 0)], feeding := true, limit := 65536 }).modFn 8 (fun f =>
    { f with segs := (mapped.fnState 8).segs, pipe := pipeOf 0 2 0 32 })).stageRecOf 8 0))
    ({ data := List.replicate 32 7 } : Answer)).1), (Option.some_get _).symm, by decide +kernel, by decide +kernel,
    by decide +kernel, by decide +kernel, pairOf (by decide +kernel), by decide +kernel, by decide +kernel,
    by decide +kernel, by decide +kernel, by decide +kernel, rfl, by decide +kernel, pairOf (by decide +kernel)⟩
theorem witness_MemoryCommandsComplete_0 : ∃ (s : State) (fn : Nat) (addr : Nat) (bs : List Byte) (t : State) (u :
    State) (st : Status), s.fnLive fn = true ∧ isReserved addr = true ∧ s.writeForbidden fn true addr bs.length =
    false ∧ s.unitReady fn addr bs.length true = (t, true) ∧ t.pageAt fn (t.windowRange fn addr) = none ∧ t.unitWrite
    .islet fn addr bs = (u, st) :=
⟨live, 8, 0xFF00000000000, (leBytes 8 1), ((live.unitReady 8 0xFF00000000000 (leBytes 8 1).length true).1),
    ((((live.unitReady 8 0xFF00000000000 (leBytes 8 1).length true).1).unitWrite .islet 8 0xFF00000000000 (leBytes 8
    1)).1), ((((live.unitReady 8 0xFF00000000000 (leBytes 8 1).length true).1).unitWrite .islet 8 0xFF00000000000
    (leBytes 8 1)).2), by decide +kernel, by decide +kernel, by decide +kernel, pairOf (by decide +kernel),
    by decide +kernel, rfl⟩
theorem witness_MemoryCommandsComplete_1 : ∃ (s : State) (fn : Nat) (addr : Nat) (len : Nat) (a : Answer) (t : State)
    (u : State), s.fnLive fn = true ∧ isReserved addr = true ∧ s.unitReady fn addr len false = (t, true) ∧ t.pageAt fn
    (t.windowRange fn addr) = none ∧ t.unitRead .islet fn addr len = (u, a) :=
⟨live, 8, 0xFF00000000000, 8, ((((live.unitReady 8 0xFF00000000000 8 false).1).unitRead .islet 8 0xFF00000000000
    8).2), ((live.unitReady 8 0xFF00000000000 8 false).1), ((((live.unitReady 8 0xFF00000000000 8 false).1).unitRead
    .islet 8 0xFF00000000000 8).1), by decide +kernel, by decide +kernel, pairOf (by decide +kernel),
    by decide +kernel, rfl⟩
theorem witness_MemoryCommandsComplete_2 : ∃ (s : State) (fn : Nat) (addr : Nat) (len : Nat), s.fnLive fn = true ∧ 0 <
    len ∧ addr % 65536 + len ≤ 65536 ∧ addr < reservedBase :=
⟨live, 8, 65535, 1, by decide +kernel, by decide +kernel, by decide +kernel, by decide +kernel⟩
theorem witness_MemoryCommandsComplete_3 : ∃ (s : State) (fn : Nat) (addr : Nat) (src : Source) (bs : List Byte),
    s.fnLive fn = true ∧ 0 < bs.length ∧ addr % 65536 + bs.length ≤ 65536 ∧ addr < reservedBase ∧ s.optForbids fn (src
    != .host) addr bs.length = false :=
⟨live, 8, 65535, (.islet : Source), (leBytes 1 7), by decide +kernel, by decide +kernel, by decide +kernel,
    by decide +kernel, by decide +kernel⟩
theorem witness_MemoryCommandsComplete_6 : ∃ (s : State) (key : Nat), key < boardBase ∧ s.fld
    .MEM_SCRUB_CFG_SCRUB_PERIOD ≠ 0 ∧ s.leasesOf (key / 1024 / 2 ^ 21 / 64) = [] ∧ key / 1024 / 2 ^ 21 / 64 < 8 ∧
    s.fld .MEM_STACK_STAT_STATE (key / 1024 / 2 ^ 21 / 64) = 1 :=
⟨live, 1023, by decide +kernel, by decide +kernel, by decide +kernel, by decide +kernel, by decide +kernel⟩
theorem witness_MemoryCommandsComplete_7 : ∃ (s : State) (key : Nat), boardBase ≤ key ∧ s.fld
    .MEM_SCRUB_CFG_SCRUB_PERIOD ≠ 0 ∧ s.mlUp ((key - boardBase) / 2 ^ 37) = true ∧ (storeGet {} s.mlPorts ((key -
    boardBase) / 2 ^ 37)).lost = false :=
⟨mapped, (boardBase + 15 * 2 ^ 37), by decide +kernel, by decide +kernel, by decide +kernel, by decide +kernel⟩
theorem witness_MemoryCommandsComplete_8 : ∃ (s : State) (fn : Nat) (page : Nat) (pg : Page) (t : Frame), s.pageAt fn
    page = some pg ∧ pg.moving = false ∧ pg.frame.isBoard = false ∧ s.frameResetting pg.frame = false ∧ (frameRows
    pg.frame).all (fun k => !s.repairs.contains k) = false ∧ s.frameUncorrectable pg.frame = false ∧ s.frameLeased
    pg.frame = false ∧ s.takeSpare pg.frame = some t :=
⟨({ mapped with repairs := [rowKey 7 0 1000] } : State), 8, 0, (Option.get
    (({ mapped with repairs := [rowKey 7 0 1000] } : State).pageAt 8 0) (by decide +kernel)), (Option.get
    (({ mapped with repairs := [rowKey 7 0 1000] } : State).takeSpare (Option.get
    (({ mapped with repairs := [rowKey 7 0 1000] } : State).pageAt 8 0) (by decide +kernel)).frame)
    (by decide +kernel)), (Option.some_get _).symm, by decide +kernel, by decide +kernel, by decide +kernel,
    by decide +kernel, by decide +kernel, by decide +kernel, (Option.some_get _).symm⟩
theorem witness_MemoryCommandsComplete_9 : ∃ (s : State) (port : Nat) (p : MlPort), storeGet {} s.mlPorts port = p ∧
    p.lost = true :=
⟨({ live with mlPorts := [(15, { lost := true })] } : State), 15, (storeGet {}
    ({ live with mlPorts := [(15, { lost := true })] } : State).mlPorts 15), rfl, by decide +kernel⟩
theorem witness_MemoryCommandsComplete_10 : ∃ (s : State) (port : Nat), s.mlUp port = true :=
⟨mapped, 15, by decide +kernel⟩
theorem witness_MemoryCommandsComplete_11 : ∃ (s : State) (port : Nat) (p : MlPort), storeGet {} s.mlPorts port = p ∧
    p.lost = true :=
⟨({ live with mlPorts := [(15, { lost := true })] } : State), 15, (storeGet {}
    ({ live with mlPorts := [(15, { lost := true })] } : State).mlPorts 15), rfl, by decide +kernel⟩
theorem witness_MigrationCommandsComplete_0 : ∃ (s : State) (fn : Nat), s.fnLive fn = true :=
⟨live, 8, by decide +kernel⟩
theorem witness_MigrationCommandsComplete_1 : ∃ (s : State) (fn : Nat), s.fnLive fn = true :=
⟨live, 8, by decide +kernel⟩
theorem witness_MigrationCommandsComplete_2 : ∃ (s : State) (fn : Nat) (t : State) (run : MigRun), s.migStart fn 0 =
    some (t, run) ∧ run.status = none :=
⟨(migWaits 0 1 131072), 8, (Option.get ((migWaits 0 1 131072).migStart 8 0) (by decide +kernel)).1, (Option.get
    ((migWaits 0 1 131072).migStart 8 0) (by decide +kernel)).2, somePair (by decide +kernel), by decide +kernel⟩
theorem witness_MigrationCommandsComplete_3 : ∃ (s : State) (fn : Nat) (t : State) (run : MigRun) (g : Segment),
    s.migStart fn 1 = some (t, run) ∧ run.status = none ∧ (s.fnState fn).segs.find? (fun x => x.base == run.req.w3) =
    some g ∧ g.pages.any (fun p => p.moving || s.frameLeased p.frame) = false :=
⟨(migWaits 1 2 0), 8, (Option.get ((migWaits 1 2 0).migStart 8 1) (by decide +kernel)).1, (Option.get ((migWaits 1 2
    0).migStart 8 1) (by decide +kernel)).2, (Option.get (((migWaits 1 2 0).fnState 8).segs.find? (fun x => x.base ==
    (Option.get ((migWaits 1 2 0).migStart 8 1) (by decide +kernel)).2.req.w3)) (by decide +kernel)), somePair
    (by decide +kernel), by decide +kernel, (Option.some_get _).symm, by decide +kernel⟩
theorem witness_MigrationCommandsComplete_4 : ∃ (s : State) (fn : Nat) (t : State) (run : MigRun), s.migStart fn 2 =
    some (t, run) :=
⟨(migWaits 2 2 0), 8, (Option.get ((migWaits 2 2 0).migStart 8 2) (by decide +kernel)).1, (Option.get ((migWaits 2 2
    0).migStart 8 2) (by decide +kernel)).2, somePair (by decide +kernel)⟩
theorem witness_MigrationCommandsComplete_5 : ∃ (s : State) (fn : Nat) (t : State) (run : MigRun), s.migStart fn 3 =
    some (t, run) :=
⟨(migWaits 3 2 0), 8, (Option.get ((migWaits 3 2 0).migStart 8 3) (by decide +kernel)).1, (Option.get ((migWaits 3 2
    0).migStart 8 3) (by decide +kernel)).2, somePair (by decide +kernel)⟩
theorem witness_MigrationCommandsComplete_6 : ∃ (s : State) (fn : Nat) (t : State) (run : MigRun), s.migStart fn 4 =
    some (t, run) ∧ run.status = none :=
⟨(migWaits 4 1 131072), 8, (Option.get ((migWaits 4 1 131072).migStart 8 4) (by decide +kernel)).1, (Option.get
    ((migWaits 4 1 131072).migStart 8 4) (by decide +kernel)).2, somePair (by decide +kernel), by decide +kernel⟩
theorem witness_MigrationCommandsComplete_7 : ∃ (s : State) (fn : Nat) (t : State) (u : State) (run : MigRun) (r :
    MigRun), (s.fnState fn).mig.run = none ∧ s.migStart fn 5 = some (t, run) ∧ run.status = none ∧ (t.createSegment fn
    run.req run.slot).modRun fn (fun m => { m with made := true }) = u ∧ (u.fnState fn).mig.run = some r ∧ r.made =
    true :=
⟨(migWaits 5 1 131072), 8, (Option.get ((migWaits 5 1 131072).migStart 8 5) (by decide +kernel)).1, (((Option.get
    ((migWaits 5 1 131072).migStart 8 5) (by decide +kernel)).1.createSegment 8 (Option.get ((migWaits 5 1
    131072).migStart 8 5) (by decide +kernel)).2.req (Option.get ((migWaits 5 1 131072).migStart 8 5)
    (by decide +kernel)).2.slot).modRun 8 (fun m => { m with made := true })), (Option.get ((migWaits 5 1
    131072).migStart 8 5) (by decide +kernel)).2, (Option.get (((((Option.get ((migWaits 5 1 131072).migStart 8 5)
    (by decide +kernel)).1.createSegment 8 (Option.get ((migWaits 5 1 131072).migStart 8 5) (by decide +kernel)).2.req
    (Option.get ((migWaits 5 1 131072).migStart 8 5) (by decide +kernel)).2.slot).modRun 8 (fun m =>
    { m with made := true })).fnState 8).mig.run) (by decide +kernel)), by decide +kernel, somePair
    (by decide +kernel), by decide +kernel, rfl, (Option.some_get _).symm, by decide +kernel⟩
theorem witness_MigrationCommandsComplete_8 : ∃ (s : State) (fn : Nat) (run : MigRun), (s.fnState fn).mig.run = some
    run ∧ run.status = none ∧ (s.fnState fn).mig.cancel = false ∧ run.next < migPages run.req ∧ (s.migPorts fn).all
    (fun p => (s.mlPort p).current.isNone && !(s.mlPort p).lost && s.migTurn fn p) = true ∧ migOp run.req = 2 ∧
    s.pageHeld fn (run.req.w3 + 65536 * run.next) = false :=
⟨(migRuns 2 1 none), 8, (Option.get (((migRuns 2 1 none).fnState 8).mig.run) (by decide +kernel)), (Option.some_get
    _).symm, by decide +kernel, by decide +kernel, by decide +kernel, by decide +kernel, by decide +kernel,
    by decide +kernel⟩
theorem witness_MigrationCommandsComplete_9 : ∃ (s : State) (fn : Nat) (run : MigRun), (s.fnState fn).mig.run = some
    run ∧ run.status = none ∧ (s.fnState fn).mig.cancel = false ∧ run.next < migPages run.req ∧ (s.migPorts fn).all
    (fun p => (s.mlPort p).current.isNone && !(s.mlPort p).lost && s.migTurn fn p) = true ∧ migOp run.req = 3 ∧
    s.pageHeld fn (run.req.w3 + 65536 * run.next) = false :=
⟨(migRuns 3 0 none), 8, (Option.get (((migRuns 3 0 none).fnState 8).mig.run) (by decide +kernel)), (Option.some_get
    _).symm, by decide +kernel, by decide +kernel, by decide +kernel, by decide +kernel, by decide +kernel,
    by decide +kernel⟩
theorem witness_MigrationCommandsComplete_10 : ∃ (s : State) (fn : Nat) (run : MigRun), (s.fnState fn).mig.run = some
    run ∧ run.status = none ∧ (s.fnState fn).mig.cancel = false ∧ run.next < migPages run.req ∧ (s.migPorts fn).all
    (fun p => (s.mlPort p).current.isNone && !(s.mlPort p).lost && s.migTurn fn p) = true ∧ migOp run.req = 4 ∧
    s.pageHeld fn (run.req.w2 + 65536 * run.next) = false ∧ s.optForbids fn true (run.req.w3 + 65536 * run.next) 65536
    = false :=
⟨(migRuns 4 1 none), 8, (Option.get (((migRuns 4 1 none).fnState 8).mig.run) (by decide +kernel)), (Option.some_get
    _).symm, by decide +kernel, by decide +kernel, by decide +kernel, by decide +kernel, by decide +kernel,
    by decide +kernel, by decide +kernel⟩
theorem witness_MigrationCommandsComplete_11 : ∃ (s : State) (fn : Nat) (ans : Answer) (run : MigRun), (s.fnState
    fn).mig.run = some run ∧ run.status = none ∧ (s.fnState fn).mig.cancel = false ∧ run.next < migPages run.req ∧
    (s.migPorts fn).all (fun p => (s.mlPort p).current.isNone && !(s.mlPort p).lost && s.migTurn fn p) = true ∧ migOp
    run.req = 5 ∧ s.hostReady fn (run.req.w2 + 65536 * run.next) 65536 ans = true ∧ s.optForbids fn false (run.req.w3
    + 65536 * run.next) 65536 = false :=
⟨(migRuns 5 1 none), 8, ({ status := .aborted } : Answer), (Option.get (((migRuns 5 1 none).fnState 8).mig.run)
    (by decide +kernel)), (Option.some_get _).symm, by decide +kernel, by decide +kernel, by decide +kernel,
    by decide +kernel, by decide +kernel, by decide +kernel, by decide +kernel⟩
theorem witness_MigrationCommandsComplete_12 : ∃ (s : State) (port : Nat) (upset : Nat) (m : PageMove) (pg : Page) (t
    : State), (s.mlPort port).current = some m ∧ m.kind = .demote ∧ (s.mlPort port).lost = false ∧ s.pageAt m.fn
    m.addr = some pg ∧ m.tracked = false ∧ s.mlUp port = true ∧ s.frameLeased pg.frame = false ∧ (s.addUpset pg.frame
    (frameByte pg.frame 0) upset).readWhole .migration m.fn pg.frame (some m.addr) = (t, true) :=
⟨(moving { fn := 8, addr := 0, kind := .demote, target := .board 15 4 }), 15, 0, (Option.get (((moving
    { fn := 8, addr := 0, kind := .demote, target := .board 15 4 }).mlPort 15).current) (by decide +kernel)),
    (Option.get ((moving { fn := 8, addr := 0, kind := .demote, target := .board 15 4 }).pageAt (Option.get (((moving
    { fn := 8, addr := 0, kind := .demote, target := .board 15 4 }).mlPort 15).current) (by decide +kernel)).fn
    (Option.get (((moving { fn := 8, addr := 0, kind := .demote, target := .board 15 4 }).mlPort 15).current)
    (by decide +kernel)).addr) (by decide +kernel)), ((((moving
    { fn := 8, addr := 0, kind := .demote, target := .board 15 4 }).addUpset (Option.get ((moving
    { fn := 8, addr := 0, kind := .demote, target := .board 15 4 }).pageAt (Option.get (((moving
    { fn := 8, addr := 0, kind := .demote, target := .board 15 4 }).mlPort 15).current) (by decide +kernel)).fn
    (Option.get (((moving { fn := 8, addr := 0, kind := .demote, target := .board 15 4 }).mlPort 15).current)
    (by decide +kernel)).addr) (by decide +kernel)).frame (frameByte (Option.get ((moving
    { fn := 8, addr := 0, kind := .demote, target := .board 15 4 }).pageAt (Option.get (((moving
    { fn := 8, addr := 0, kind := .demote, target := .board 15 4 }).mlPort 15).current) (by decide +kernel)).fn
    (Option.get (((moving { fn := 8, addr := 0, kind := .demote, target := .board 15 4 }).mlPort 15).current)
    (by decide +kernel)).addr) (by decide +kernel)).frame 0) 0).readWhole .migration (Option.get (((moving
    { fn := 8, addr := 0, kind := .demote, target := .board 15 4 }).mlPort 15).current) (by decide +kernel)).fn
    (Option.get ((moving { fn := 8, addr := 0, kind := .demote, target := .board 15 4 }).pageAt (Option.get (((moving
    { fn := 8, addr := 0, kind := .demote, target := .board 15 4 }).mlPort 15).current) (by decide +kernel)).fn
    (Option.get (((moving { fn := 8, addr := 0, kind := .demote, target := .board 15 4 }).mlPort 15).current)
    (by decide +kernel)).addr) (by decide +kernel)).frame (some (Option.get (((moving
    { fn := 8, addr := 0, kind := .demote, target := .board 15 4 }).mlPort 15).current)
    (by decide +kernel)).addr)).1), (Option.some_get _).symm, by decide +kernel, by decide +kernel, (Option.some_get
    _).symm, by decide +kernel, by decide +kernel, by decide +kernel, pairOf (by decide +kernel)⟩
theorem witness_MigrationCommandsComplete_13 : ∃ (s : State) (port : Nat) (upset : Nat) (m : PageMove) (pg : Page) (t
    : State), (s.mlPort port).current = some m ∧ m.kind = .promote ∧ (s.mlPort port).lost = false ∧ s.pageAt m.fn
    m.addr = some pg ∧ s.unserved.mlUp port = true ∧ ((s.unserved.addUpset pg.frame (frameByte pg.frame 0)
    upset).readWhole .migration m.fn pg.frame (some m.addr)) = (t, true) :=
⟨(moving { fn := 8, addr := 65536, kind := .promote, target := .spread 7 9 }), 15, 0, (Option.get (((moving
    { fn := 8, addr := 65536, kind := .promote, target := .spread 7 9 }).mlPort 15).current) (by decide +kernel)),
    (Option.get ((moving { fn := 8, addr := 65536, kind := .promote, target := .spread 7 9 }).pageAt (Option.get
    (((moving { fn := 8, addr := 65536, kind := .promote, target := .spread 7 9 }).mlPort 15).current)
    (by decide +kernel)).fn (Option.get (((moving
    { fn := 8, addr := 65536, kind := .promote, target := .spread 7 9 }).mlPort 15).current)
    (by decide +kernel)).addr) (by decide +kernel)), ((((moving
    { fn := 8, addr := 65536, kind := .promote, target := .spread 7 9 }).unserved.addUpset (Option.get ((moving
    { fn := 8, addr := 65536, kind := .promote, target := .spread 7 9 }).pageAt (Option.get (((moving
    { fn := 8, addr := 65536, kind := .promote, target := .spread 7 9 }).mlPort 15).current) (by decide +kernel)).fn
    (Option.get (((moving { fn := 8, addr := 65536, kind := .promote, target := .spread 7 9 }).mlPort 15).current)
    (by decide +kernel)).addr) (by decide +kernel)).frame (frameByte (Option.get ((moving
    { fn := 8, addr := 65536, kind := .promote, target := .spread 7 9 }).pageAt (Option.get (((moving
    { fn := 8, addr := 65536, kind := .promote, target := .spread 7 9 }).mlPort 15).current) (by decide +kernel)).fn
    (Option.get (((moving { fn := 8, addr := 65536, kind := .promote, target := .spread 7 9 }).mlPort 15).current)
    (by decide +kernel)).addr) (by decide +kernel)).frame 0) 0).readWhole .migration (Option.get (((moving
    { fn := 8, addr := 65536, kind := .promote, target := .spread 7 9 }).mlPort 15).current) (by decide +kernel)).fn
    (Option.get ((moving { fn := 8, addr := 65536, kind := .promote, target := .spread 7 9 }).pageAt (Option.get
    (((moving { fn := 8, addr := 65536, kind := .promote, target := .spread 7 9 }).mlPort 15).current)
    (by decide +kernel)).fn (Option.get (((moving
    { fn := 8, addr := 65536, kind := .promote, target := .spread 7 9 }).mlPort 15).current)
    (by decide +kernel)).addr) (by decide +kernel)).frame (some (Option.get (((moving
    { fn := 8, addr := 65536, kind := .promote, target := .spread 7 9 }).mlPort 15).current)
    (by decide +kernel)).addr)).1), (Option.some_get _).symm, by decide +kernel, by decide +kernel, (Option.some_get
    _).symm, by decide +kernel, pairOf (by decide +kernel)⟩
theorem witness_MigrationCommandsComplete_14 : ∃ (s : State) (fn : Nat) (r : MigRun) (st : Status), (s.fnState
    fn).mig.run = some r ∧ s.migMoving fn = false ∧ r.status = some st ∧ s.endWaits fn r st = false ∧ s.manifestWaits
    r = false ∧ (st = .ok → migManifest r.req = true → r.manifest ≠ none) :=
⟨(migRuns 2 1 (some .aborted)), 8, (Option.get (((migRuns 2 1 (some .aborted)).fnState 8).mig.run)
    (by decide +kernel)), (.aborted : Status), (Option.some_get _).symm, by decide +kernel, by decide +kernel,
    by decide +kernel, by decide +kernel, by decide +kernel⟩
theorem witness_MigrationCommandsComplete_15 : ∃ (s : State) (fn : Nat) (r : MigRun), (s.fnState fn).mig.run = some r
    ∧ s.migMoving fn = false ∧ r.status = some .ok ∧ s.endWaits fn r .ok = false ∧ s.manifestWaits r = false ∧
    migManifest r.req = true ∧ r.manifest = none :=
⟨(migRuns 132 2 (some .ok)), 8, (Option.get (((migRuns 132 2 (some .ok)).fnState 8).mig.run) (by decide +kernel)),
    (Option.some_get _).symm, by decide +kernel, by decide +kernel, by decide +kernel, by decide +kernel,
    by decide +kernel, by decide +kernel⟩
theorem witness_MigrationCommandsComplete_16 : ∃ (s : State) (fn : Nat) (r : MigRun), (s.fnState fn).mig.run = some r
    ∧ s.migMoving fn = false ∧ r.status = none ∧ migPages r.req ≤ r.next ∧ s.manifestWaits r = false ∧ (migManifest
    r.req = true → r.manifest ≠ none) :=
⟨(migRuns 2 2 none), 8, (Option.get (((migRuns 2 2 none).fnState 8).mig.run) (by decide +kernel)), (Option.some_get
    _).symm, by decide +kernel, by decide +kernel, by decide +kernel, by decide +kernel, by decide +kernel⟩
theorem witness_MigrationCommandsComplete_17 : ∃ (s : State) (fn : Nat), s.fnLive fn = true :=
⟨live, 8, by decide +kernel⟩
theorem witness_MigrationCommandsComplete_18 : ∃ (s : State) (fn : Nat), (s.fnState fn).xlating = true :=
⟨(mapped.modFn 8 (fun f => { f with xlating := true })), 8, by decide +kernel⟩
theorem witness_ReefCommandsComplete_0 : ∃ (s : State) (f : Nat) (ad : Nat) (st : Nat) (bs : List Byte) (a : Access)
    (t : State) (e : Status), issueWindow ad = some st ∧ s.fnLive f = true ∧ bs ≠ [] ∧
    ({ fn := f, addr := ad, len := bs.length, wr := some bs } : Access) = a ∧ s.unserved.issueWrite a = (t, some e) :=
⟨live, 8, (issueBase + 7 * 65536), 7, (List.replicate 32 0),
    ({ fn := 8, addr := (issueBase + 7 * 65536), len := (List.replicate 32 0).length, wr := some (List.replicate 32 0) }
    : Access), ((live.unserved.issueWrite
    ({ fn := 8, addr := (issueBase + 7 * 65536), len := (List.replicate 32 0).length, wr := some (List.replicate 32 0) }
    : Access)).1), (Option.get (live.unserved.issueWrite
    ({ fn := 8, addr := (issueBase + 7 * 65536), len := (List.replicate 32 0).length, wr := some (List.replicate 32 0) }
    : Access)).2 (by decide +kernel)), by decide +kernel, by decide +kernel, by decide +kernel, rfl, pairSome
    (by decide +kernel)⟩
theorem witness_ReefCommandsComplete_1 : ∃ (s : State) (f : Nat) (ad : Nat) (st : Nat) (bs : List Byte) (t : State),
    issueWindow ad = some st ∧ s.fnLive f = true ∧ bs ≠ [] ∧ s.unserved.issueWrite
    { fn := f, addr := ad, len := bs.length, wr := some bs } = (t, none) :=
⟨(reefAt { queue := List.replicate 64 (8, reefReq0) }), 8, (issueBase + 7 * 65536), 7, (List.replicate 32 0),
    (((reefAt { queue := List.replicate 64 (8, reefReq0) }).unserved.issueWrite
    { fn := 8, addr := (issueBase + 7 * 65536), len := (List.replicate 32 0).length, wr := some (List.replicate 32 0) }).1),
    by decide +kernel, by decide +kernel, by decide +kernel, pairOf (by decide +kernel)⟩
theorem witness_ReefCommandsComplete_2 : ∃ (s : State) (stack : Nat) (w : Word), bit w.toNat 0 = true ∧ (s.reef
    stack).queue.any (fun e => s.complForbidden e.1 e.2) = false :=
⟨live, 7, 1, by decide +kernel, by decide +kernel⟩
theorem witness_ReefCommandsComplete_3 : ∃ (s : State) (stack : Nat) (w : Word), bit w.toNat 1 = true ∧ (s.reef
    stack).queue.any (fun e => s.complForbidden e.1 e.2) = false :=
⟨live, 7, 2, by decide +kernel, by decide +kernel⟩
theorem witness_ReefCommandsComplete_4 : ∃ (s : State) (stack : Nat) (fn : Nat) (r : List Byte) (rest : List (Nat ×
    List Byte)) (x : ReefStack) (d : List Byte), s.reef stack = x ∧ x.queue = (fn, r) :: rest ∧ s.unserved.reefRefused
    stack r = false ∧ storeGet [] x.descs (reqDesc r) = d ∧ reefLegal d r = true ∧ (reefMembers d).length ≤ s.fld
    .REEF_STACK_STAT_LIMIT stack ∧ reefAdmissible (s.fld .REEF_CAUSE_FUSED stack) d r ≤ 18000 ∧ (reefMembers d).any
    (x.ops.flatMap (fun o => reefMembers o.desc)).contains = false ∧ (x.ops.flatMap (fun o => reefMembers
    o.desc)).length + (reefMembers d).length ≤ s.fld .REEF_STACK_STAT_LIMIT stack ∧ s.unserved.reefForbidden fn d r =
    false :=
⟨(reefAt { descs := [(5, reefDesc0)], queue := [(8, reefReq0)] }), 7, 8, reefReq0, ([] : List (Nat × List Byte)),
    ((reefAt { descs := [(5, reefDesc0)], queue := [(8, reefReq0)] }).reef 7), reefDesc0, rfl, by decide +kernel,
    by decide +kernel, by decide +kernel, by decide +kernel, by decide +kernel, by decide +kernel, by decide +kernel,
    by decide +kernel, by decide +kernel⟩
theorem witness_ReefCommandsComplete_5 : ∃ (s : State) (stack : Nat) (k : Nat) (o : ReefOp), (s.reef stack).ops.find?
    (fun o => o.id == k && !o.started) = some o ∧ (reefTouched o).any (fun t => (s.reefPage o t.2.1 t.1 t.2.2).any
    (·.moving)) = false ∧ (reefTouched o).any (s.unserved.reefBadPage stack o) = false ∧ s.fld
    .REEF_STACK_STAT_COMPUTING stack + (reefMembers o.desc).length ≤ s.fld .REEF_STACK_STAT_LIMIT stack :=
⟨(reefAt { descs := [(5, reefDesc0)], ops := [reefOp0 false] }), 7, 9, (reefOp0 false), by decide +kernel,
    by decide +kernel, by decide +kernel, by decide +kernel⟩
theorem witness_ReefCommandsComplete_6 : ∃ (s : State) (stack : Nat) (k : Nat) (o : ReefOp), (s.reef stack).ops.find?
    (fun o => o.id == k && o.started) = some o ∧ s.reefForbidden o.fn o.desc o.req = false :=
⟨(reefAt { descs := [(5, reefDesc0)], ops := [reefOp0 true] }), 7, 9, (reefOp0 true), by decide +kernel,
    by decide +kernel⟩
theorem witness_ReefCommandsComplete_7 : ∃ (s : State) (stack : Nat) (k : Nat) (pc : Nat) (o : ReefOp), (s.reef
    stack).ops.find? (fun o => o.id == k && o.started) = some o ∧ (reefMembers o.desc).contains pc = true ∧
    s.complForbidden o.fn o.req = false :=
⟨(reefAt { descs := [(5, reefDesc0)], ops := [reefOp0 true] }), 7, 9, 0, (reefOp0 true), by decide +kernel,
    by decide +kernel, by decide +kernel⟩
theorem witness_FlitsArrive_0 : ∃ (s : State) (p : Nat) (rx : RxFlit) (t : State), (rx.flit.ftype == 2) = true ∧
    s.portPresent p = true ∧ s.portState p = portIsUp ∧ s.linkIn p rx = (t, true) :=
⟨linkUp, 23, (rxOf 2 1), ((linkUp.linkIn 23 (rxOf 2 1)).1), by decide +kernel, by decide +kernel, by decide +kernel,
    pairOf (by decide +kernel)⟩
theorem witness_FlitsArrive_1 : ∃ (s : State) (p : Nat) (rx : RxFlit) (t : State), (rx.flit.ftype == 3) = true ∧
    s.portPresent p = true ∧ s.portState p = portIsUp ∧ s.linkIn p rx = (t, true) :=
⟨linkUp, 23, (rxOf 3 0), ((linkUp.linkIn 23 (rxOf 3 0)).1), by decide +kernel, by decide +kernel, by decide +kernel,
    pairOf (by decide +kernel)⟩
theorem witness_FlitsArrive_2 : ∃ (s : State) (p : Nat) (rx : RxFlit) (t : State), isMessage rx 1 = true ∧
    s.portPresent p = true ∧ s.portState p = portIsUp ∧ s.linkIn p rx = (t, true) :=
⟨linkUp, 23, (rxOf 5 1), ((linkUp.linkIn 23 (rxOf 5 1)).1), by decide +kernel, by decide +kernel, by decide +kernel,
    pairOf (by decide +kernel)⟩
theorem witness_FlitsArrive_3 : ∃ (s : State) (p : Nat) (rx : RxFlit) (t : State), isMessage rx 2 = true ∧
    s.portPresent p = true ∧ s.portState p = portIsUp ∧ s.linkIn p rx = (t, true) :=
⟨linkUp, 23, (rxOf 5 2), ((linkUp.linkIn 23 (rxOf 5 2)).1), by decide +kernel, by decide +kernel, by decide +kernel,
    pairOf (by decide +kernel)⟩
theorem witness_FlitsArrive_4 : ∃ (s : State) (p : Nat) (rx : RxFlit) (t : State), isMessage rx 8 = true ∧
    s.portPresent p = true ∧ s.portState p = portIsUp ∧ s.linkIn p rx = (t, true) :=
⟨linkUp, 23, (rxOf 5 8), ((linkUp.linkIn 23 (rxOf 5 8)).1), by decide +kernel, by decide +kernel, by decide +kernel,
    pairOf (by decide +kernel)⟩
theorem witness_FlitsArrive_5 : ∃ (s : State) (p : Nat) (rx : RxFlit) (t : State), isMessage rx 9 = true ∧
    s.portPresent p = true ∧ s.portState p = portIsUp ∧ s.linkIn p rx = (t, true) :=
⟨linkUp, 23, (rxOf 5 9), ((linkUp.linkIn 23 (rxOf 5 9)).1), by decide +kernel, by decide +kernel, by decide +kernel,
    pairOf (by decide +kernel)⟩
theorem witness_FlitsArrive_6 : ∃ (s : State) (p : Nat) (rx : RxFlit) (t : State), isMessage rx 0xA = true ∧
    s.portPresent p = true ∧ s.portState p = portIsUp ∧ s.linkIn p rx = (t, true) :=
⟨linkUp, 23, (rxOf 5 10), ((linkUp.linkIn 23 (rxOf 5 10)).1), by decide +kernel, by decide +kernel, by decide +kernel,
    pairOf (by decide +kernel)⟩
theorem witness_FlitsArrive_7 : ∃ (s : State) (p : Nat) (rx : RxFlit) (t : State), isMessage rx 0xB = true ∧
    s.portPresent p = true ∧ s.portState p = portIsUp ∧ s.linkIn p rx = (t, true) :=
⟨linkUp, 23, (rxOf 5 11), ((linkUp.linkIn 23 (rxOf 5 11)).1), by decide +kernel, by decide +kernel, by decide +kernel,
    pairOf (by decide +kernel)⟩
theorem witness_FlitsArrive_8 : ∃ (s : State) (p : Nat) (rx : RxFlit) (t : State), isMessage rx 0x40 = true ∧
    s.portPresent p = true ∧ s.portState p = portIsUp ∧ s.linkIn p rx = (t, true) :=
⟨linkUp, 23, (rxOf 5 64), ((linkUp.linkIn 23 (rxOf 5 64)).1), by decide +kernel, by decide +kernel, by decide +kernel,
    pairOf (by decide +kernel)⟩
theorem witness_FlitsArrive_9 : ∃ (s : State) (p : Nat) (rx : RxFlit) (t : State), isMessage rx 0x41 = true ∧
    s.portPresent p = true ∧ s.portState p = portIsUp ∧ s.linkIn p rx = (t, true) :=
⟨linkUp, 23, (rxOf 5 65), ((linkUp.linkIn 23 (rxOf 5 65)).1), by decide +kernel, by decide +kernel, by decide +kernel,
    pairOf (by decide +kernel)⟩
theorem witness_FlitsArrive_10 : ∃ (s : State) (p : Nat) (rx : RxFlit) (t : State), isMessage rx 0x42 = true ∧
    s.portPresent p = true ∧ s.portState p = portIsUp ∧ s.linkIn p rx = (t, true) :=
⟨linkUp, 23, (rxOf 5 66), ((linkUp.linkIn 23 (rxOf 5 66)).1), by decide +kernel, by decide +kernel, by decide +kernel,
    pairOf (by decide +kernel)⟩
theorem witness_FlitsArrive_11 : ∃ (s : State) (p : Nat) (rx : RxFlit) (t : State), rx.flit.ftype = 1 ∧ rx.flit.sub =
    0 ∧ s.portPresent p = true ∧ s.portState p = portIsUp ∧ s.linkIn p rx = (t, true) ∧ t.routeFlit rx.flit = .here ∧
    t.mayDeliver p rx.flit = true ∧ t.writeForbidden rx.flit.dfn false rx.flit.addr (32 * rx.flit.len) = false :=
⟨linkUp, 23, (rxOf 1 0), ((linkUp.linkIn 23 (rxOf 1 0)).1), by decide +kernel, by decide +kernel, by decide +kernel,
    by decide +kernel, pairOf (by decide +kernel), by decide +kernel, by decide +kernel, by decide +kernel⟩
theorem witness_FlitsArrive_12 : ∃ (s : State) (p : Nat) (rx : RxFlit) (t : State), rx.flit.ftype = 1 ∧ 1 <
    rx.flit.sub ∧ s.portPresent p = true ∧ s.portState p = portIsUp ∧ s.linkIn p rx = (t, true) ∧ t.routeFlit rx.flit
    = .here ∧ t.mayDeliver p rx.flit = true :=
⟨linkUp, 23, (rxOf 1 2), ((linkUp.linkIn 23 (rxOf 1 2)).1), by decide +kernel, by decide +kernel, by decide +kernel,
    by decide +kernel, pairOf (by decide +kernel), by decide +kernel, by decide +kernel⟩
theorem witness_FlitsArrive_13 : ∃ (s : State) (p : Nat) (rx : RxFlit) (t : State), rx.flit.ftype = 1 ∧ rx.flit.sub =
    1 ∧ s.portPresent p = true ∧ s.portState p = portIsUp ∧ s.linkIn p rx = (t, true) ∧ t.routeFlit rx.flit = .here ∧
    t.mayDeliver p rx.flit = true ∧ (rx.flit.len ≠ 1 ∨ rx.flit.addr % 8 ≠ 0 ∨ regAt rx.flit.addr = none) :=
⟨(linkUp.setFld .JL_PORT_STAT_STATE 0 0 portIsUp), 0, ({ (rxOf 1 1) with flit := { (rxOf 1 1).flit with len := 2 } } :
    RxFlit), (((linkUp.setFld .JL_PORT_STAT_STATE 0 0 portIsUp).linkIn 0
    ({ (rxOf 1 1) with flit := { (rxOf 1 1).flit with len := 2 } } : RxFlit)).1), by decide +kernel,
    by decide +kernel, by decide +kernel, by decide +kernel, pairOf (by decide +kernel), by decide +kernel,
    by decide +kernel, by decide +kernel⟩
theorem witness_FlitsArrive_14 : ∃ (s : State) (p : Nat) (i : Nat) (b : Nat) (rx : RxFlit) (r : Reg) (t : State),
    rx.flit.ftype = 1 ∧ rx.flit.sub = 1 ∧ s.portPresent p = true ∧ s.portState p = portIsUp ∧ s.linkIn p rx = (t,
    true) ∧ t.routeFlit rx.flit = .here ∧ t.mayDeliver p rx.flit = true ∧ rx.flit.len = 1 ∧ rx.flit.addr % 8 = 0 ∧
    regAt rx.flit.addr = some (r, i, b) ∧ t.windowOpen rx.flit.dfn = true ∧ t.shows rx.flit.dfn r (ownIndex r
    rx.flit.dfn i) b = true ∧ [Reg.MEM_XLATE_ADDR, .SVC_Q_DB, .SVC_Q_CPL_DB, .OPT_CTL, .REEF_ISSUE].contains r = false :=
⟨(linkUp.setFld .JL_PORT_STAT_STATE 0 0 portIsUp), 0, 0, 0,
    ({ (rxOf 1 1) with flit := { (rxOf 1 1).flit with addr := 0x400000, dfn := 8, len := 1 } } : RxFlit), (.MEM_CAP :
    Reg), (((linkUp.setFld .JL_PORT_STAT_STATE 0 0 portIsUp).linkIn 0
    ({ (rxOf 1 1) with flit := { (rxOf 1 1).flit with addr := 0x400000, dfn := 8, len := 1 } } : RxFlit)).1),
    by decide +kernel, by decide +kernel, by decide +kernel, by decide +kernel, pairOf (by decide +kernel),
    by decide +kernel, by decide +kernel, by decide +kernel, by decide +kernel, by decide +kernel, by decide +kernel,
    by decide +kernel, by decide +kernel⟩
theorem witness_FlitsArrive_15 : ∃ (s : State) (p : Nat) (i : Nat) (b : Nat) (rx : RxFlit) (t : State), rx.flit.ftype
    = 1 ∧ rx.flit.sub = 1 ∧ s.portPresent p = true ∧ s.portState p = portIsUp ∧ s.linkIn p rx = (t, true) ∧
    t.routeFlit rx.flit = .here ∧ t.mayDeliver p rx.flit = true ∧ rx.flit.len = 1 ∧ rx.flit.addr % 8 = 0 ∧ regAt
    rx.flit.addr = some (.OPT_CTL, i, b) ∧ t.windowOpen rx.flit.dfn = true ∧ t.shows rx.flit.dfn .OPT_CTL (ownIndex
    .OPT_CTL rx.flit.dfn i) b = true ∧ (t.optAdopts rx.flit.dfn (BitVec.ofNat 64 (bytesAt rx.flit.payload 0 8)) &&
    t.adoptBroken rx.flit.dfn) = false :=
⟨(linkUp.setFld .JL_PORT_STAT_STATE 0 0 portIsUp), 0, 0, 0,
    ({ (rxOf 1 1) with flit := { (rxOf 1 1).flit with addr := 0x780000, dfn := 8, len := 1 } } : RxFlit),
    (((linkUp.setFld .JL_PORT_STAT_STATE 0 0 portIsUp).linkIn 0
    ({ (rxOf 1 1) with flit := { (rxOf 1 1).flit with addr := 0x780000, dfn := 8, len := 1 } } : RxFlit)).1),
    by decide +kernel, by decide +kernel, by decide +kernel, by decide +kernel, pairOf (by decide +kernel),
    by decide +kernel, by decide +kernel, by decide +kernel, by decide +kernel, by decide +kernel, by decide +kernel,
    by decide +kernel, by decide +kernel⟩
theorem witness_FlitsArrive_16 : ∃ (s : State) (p : Nat) (i : Nat) (b : Nat) (rx : RxFlit) (t : State), rx.flit.ftype
    = 1 ∧ rx.flit.sub = 1 ∧ s.portPresent p = true ∧ s.portState p = portIsUp ∧ s.linkIn p rx = (t, true) ∧
    t.routeFlit rx.flit = .here ∧ t.mayDeliver p rx.flit = true ∧ rx.flit.len = 1 ∧ rx.flit.addr % 8 = 0 ∧ regAt
    rx.flit.addr = some (.REEF_ISSUE, i, b) ∧ t.windowOpen rx.flit.dfn = true ∧ t.shows rx.flit.dfn .REEF_ISSUE i b =
    true ∧ (t.reef i).queue.any (fun e => t.complForbidden e.1 e.2) = false :=
⟨(linkUp.setFld .JL_PORT_STAT_STATE 0 0 portIsUp), 0, 7, 0,
    ({ (rxOf 1 1) with flit := { (rxOf 1 1).flit with addr := 0x507028, dfn := 8, len := 1 } } : RxFlit),
    (((linkUp.setFld .JL_PORT_STAT_STATE 0 0 portIsUp).linkIn 0
    ({ (rxOf 1 1) with flit := { (rxOf 1 1).flit with addr := 0x507028, dfn := 8, len := 1 } } : RxFlit)).1),
    by decide +kernel, by decide +kernel, by decide +kernel, by decide +kernel, pairOf (by decide +kernel),
    by decide +kernel, by decide +kernel, by decide +kernel, by decide +kernel, by decide +kernel, by decide +kernel,
    by decide +kernel, by decide +kernel⟩
theorem witness_FlitsArrive_17 : ∃ (s : State) (p : Nat) (rx : RxFlit) (t : State) (q : Nat), rx.flit.ftype = 1 ∧
    s.portPresent p = true ∧ s.portState p = portIsUp ∧ s.linkIn p rx = (t, true) ∧ t.routeFlit rx.flit = .onward q :=
⟨linkUp, 23, ({ (rxOf 1 1) with flit := { (rxOf 1 1).flit with dst := 0x10 } } : RxFlit), ((linkUp.linkIn 23
    ({ (rxOf 1 1) with flit := { (rxOf 1 1).flit with dst := 0x10 } } : RxFlit)).1), 0x1F, by decide +kernel,
    by decide +kernel, by decide +kernel, pairOf (by decide +kernel), by decide +kernel⟩
theorem witness_FlitsArrive_18 : ∃ (s : State) (p : Nat) (rx : RxFlit) (t : State), rx.flit.ftype = 1 ∧ s.portPresent
    p = true ∧ s.portState p = portIsUp ∧ s.linkIn p rx = (t, true) ∧ t.routeFlit rx.flit = .here ∧ t.mayDeliver p
    rx.flit = false :=
⟨linkUp, 23, ({ (rxOf 1 1) with flit := { (rxOf 1 1).flit with dfn := 9 } } : RxFlit), ((linkUp.linkIn 23
    ({ (rxOf 1 1) with flit := { (rxOf 1 1).flit with dfn := 9 } } : RxFlit)).1), by decide +kernel,
    by decide +kernel, by decide +kernel, pairOf (by decide +kernel), by decide +kernel, by decide +kernel⟩
theorem witness_FlitsArrive_19 : ∃ (s : State) (p : Nat) (rx : RxFlit), rx.flit.ftype = 0 ∧ s.portPresent p = true ∧
    s.portState p = portIsUp :=
⟨linkUp, 23, (rxOf 0 0), by decide +kernel, by decide +kernel, by decide +kernel⟩
theorem witness_FlitsArrive_20 : ∃ (s : State) (p : Nat) (rx : RxFlit) (t : State), (7 ≤ rx.flit.ftype ∨
    (rx.flit.ftype = 5 ∧ definedMessage rx.flit.sub = false)) ∧ s.portPresent p = true ∧ s.portState p = portIsUp ∧
    s.linkIn p rx = (t, true) :=
⟨linkUp, 23, (rxOf 7 0), ((linkUp.linkIn 23 (rxOf 7 0)).1), by decide +kernel, by decide +kernel, by decide +kernel,
    pairOf (by decide +kernel)⟩
theorem witness_FlitsArrive_21 : ∃ (s : State) (rx : RxFlit), rx.flit.ftype = 4 ∧ (rx.flit.sub = 0 ∨ 8 < rx.flit.sub) :=
⟨linkUp, (rxOf 4 9), by decide +kernel, by decide +kernel⟩
theorem witness_ReduceFlitsArrive_0 : ∃ (s : State) (p : Nat) (rx : RxFlit) (t : State), rx.flit.ftype = 4 ∧
    rx.flit.sub = 1 ∧ s.portPresent p = true ∧ s.portState p = portIsUp ∧ s.linkIn p rx = (t, true) :=
⟨linkUp, 23, (rxOf 4 1), ((linkUp.linkIn 23 (rxOf 4 1)).1), by decide +kernel, by decide +kernel, by decide +kernel,
    by decide +kernel, pairOf (by decide +kernel)⟩
theorem witness_ReduceFlitsArrive_1 : ∃ (s : State) (p : Nat) (rx : RxFlit) (t : State), rx.flit.ftype = 4 ∧
    rx.flit.sub = 2 ∧ s.portPresent p = true ∧ s.portState p = portIsUp ∧ s.linkIn p rx = (t, true) :=
⟨linkUp, 23, (rxOf 4 2), ((linkUp.linkIn 23 (rxOf 4 2)).1), by decide +kernel, by decide +kernel, by decide +kernel,
    by decide +kernel, pairOf (by decide +kernel)⟩
theorem witness_ReduceFlitsArrive_2 : ∃ (s : State) (p : Nat) (rx : RxFlit) (t : State), rx.flit.ftype = 4 ∧
    rx.flit.sub = 3 ∧ s.portPresent p = true ∧ s.portState p = portIsUp ∧ s.linkIn p rx = (t, true) :=
⟨linkUp, 23, (rxOf 4 3), ((linkUp.linkIn 23 (rxOf 4 3)).1), by decide +kernel, by decide +kernel, by decide +kernel,
    by decide +kernel, pairOf (by decide +kernel)⟩
theorem witness_ReduceFlitsArrive_3 : ∃ (s : State) (p : Nat) (rx : RxFlit) (t : State), rx.flit.ftype = 4 ∧
    rx.flit.sub = 4 ∧ s.portPresent p = true ∧ s.portState p = portIsUp ∧ s.linkIn p rx = (t, true) :=
⟨linkUp, 23, (rxOf 4 4), ((linkUp.linkIn 23 (rxOf 4 4)).1), by decide +kernel, by decide +kernel, by decide +kernel,
    by decide +kernel, pairOf (by decide +kernel)⟩
theorem witness_ReduceFlitsArrive_4 : ∃ (s : State) (p : Nat) (rx : RxFlit) (t : State), rx.flit.ftype = 4 ∧
    rx.flit.sub = 5 ∧ s.portPresent p = true ∧ s.portState p = portIsUp ∧ s.linkIn p rx = (t, true) :=
⟨linkUp, 23, (rxOf 4 5), ((linkUp.linkIn 23 (rxOf 4 5)).1), by decide +kernel, by decide +kernel, by decide +kernel,
    by decide +kernel, pairOf (by decide +kernel)⟩
theorem witness_ReduceFlitsArrive_5 : ∃ (s : State) (p : Nat) (rx : RxFlit) (t : State), rx.flit.ftype = 4 ∧
    rx.flit.sub = 6 ∧ s.portPresent p = true ∧ s.portState p = portIsUp ∧ s.linkIn p rx = (t, true) :=
⟨linkUp, 23, (rxOf 4 6), ((linkUp.linkIn 23 (rxOf 4 6)).1), by decide +kernel, by decide +kernel, by decide +kernel,
    by decide +kernel, pairOf (by decide +kernel)⟩
theorem witness_ReduceFlitsArrive_6 : ∃ (s : State) (p : Nat) (rx : RxFlit) (t : State), rx.flit.ftype = 4 ∧
    rx.flit.sub = 7 ∧ s.portPresent p = true ∧ s.portState p = portIsUp ∧ s.linkIn p rx = (t, true) :=
⟨linkUp, 23, (rxOf 4 7), ((linkUp.linkIn 23 (rxOf 4 7)).1), by decide +kernel, by decide +kernel, by decide +kernel,
    by decide +kernel, pairOf (by decide +kernel)⟩
theorem witness_ReduceFlitsArrive_7 : ∃ (s : State) (p : Nat) (rx : RxFlit) (t : State), rx.flit.ftype = 4 ∧
    rx.flit.sub = 8 ∧ s.portPresent p = true ∧ s.portState p = portIsUp ∧ s.linkIn p rx = (t, true) :=
⟨linkUp, 23, (rxOf 4 8), ((linkUp.linkIn 23 (rxOf 4 8)).1), by decide +kernel, by decide +kernel, by decide +kernel,
    by decide +kernel, pairOf (by decide +kernel)⟩
theorem witness_ReduceFlitsArrive_8 : ∃ (s : State) (p : Nat), s.portState p = portIsUp :=
⟨linkUp, 23, by decide +kernel⟩
theorem witness_ControlFlitsArrive_0 : ∃ (s : State) (p : Nat) (rx : RxFlit) (t : State), isCtrl rx 0x10 = true ∧
    s.portPresent p = true ∧ s.portState p = portIsUp ∧ s.linkIn p rx = (t, true) :=
⟨linkUp, 23, (rxOf 6 0x10), ((linkUp.linkIn 23 (rxOf 6 0x10)).1), by decide +kernel, by decide +kernel,
    by decide +kernel, pairOf (by decide +kernel)⟩
theorem witness_ControlFlitsArrive_1 : ∃ (s : State) (p : Nat) (rx : RxFlit) (t : State), isCtrl rx 0x11 = true ∧
    s.portPresent p = true ∧ s.portState p = portIsUp ∧ s.linkIn p rx = (t, true) :=
⟨linkUp, 23, (rxOf 6 0x11), ((linkUp.linkIn 23 (rxOf 6 0x11)).1), by decide +kernel, by decide +kernel,
    by decide +kernel, pairOf (by decide +kernel)⟩
theorem witness_ControlFlitsArrive_2 : ∃ (s : State) (p : Nat) (rx : RxFlit) (u : State), isCtrl rx 1 = true ∧
    s.portPresent p = true ∧ s.portState p = portKeying ∧ unprotected rx = true ∧ (s.fecCorr p
    rx.corrected).keyingOpen p = true ∧ (s.fecCorr p rx.corrected).modLink p (fun l => l.answered 1) = u :=
⟨linkKeying, 23, (rxOf 6 1), ((linkKeying.fecCorr 23 (rxOf 6 1).corrected).modLink 23 (fun l => l.answered 1)),
    by decide +kernel, by decide +kernel, by decide +kernel, by decide +kernel, by decide +kernel, rfl⟩
theorem witness_ControlFlitsArrive_3 : ∃ (s : State) (p : Nat) (rx : RxFlit) (u : State), isCtrl rx 2 = true ∧
    s.portPresent p = true ∧ s.portState p = portKeying ∧ unprotected rx = true ∧ (s.fecCorr p
    rx.corrected).keyingOpen p = true ∧ (s.fecCorr p rx.corrected).modLink p (fun l => l.answered 2) = u :=
⟨linkKeying, 23, (rxOf 6 2), ((linkKeying.fecCorr 23 (rxOf 6 2).corrected).modLink 23 (fun l => l.answered 2)),
    by decide +kernel, by decide +kernel, by decide +kernel, by decide +kernel, by decide +kernel, rfl⟩
theorem witness_ControlFlitsArrive_4 : ∃ (s : State) (p : Nat) (rx : RxFlit) (t : State), isCtrl rx 2 = true ∧
    s.portPresent p = true ∧ s.portState p = portIsUp ∧ s.linkIn p rx = (t, true) :=
⟨linkUp, 23, (rxOf 6 2), ((linkUp.linkIn 23 (rxOf 6 2)).1), by decide +kernel, by decide +kernel, by decide +kernel,
    pairOf (by decide +kernel)⟩
theorem witness_ControlFlitsArrive_5 : ∃ (s : State) (p : Nat) (rx : RxFlit) (u : State), isCtrl rx 3 = true ∧
    s.portPresent p = true ∧ s.portState p = portKeying ∧ unprotected rx = true ∧ (s.fecCorr p
    rx.corrected).keyingOpen p = true ∧ (s.fecCorr p rx.corrected).modLink p (fun l => l.answered 3) = u :=
⟨linkKeying, 23, (rxOf 6 3), ((linkKeying.fecCorr 23 (rxOf 6 3).corrected).modLink 23 (fun l => l.answered 3)),
    by decide +kernel, by decide +kernel, by decide +kernel, by decide +kernel, by decide +kernel, rfl⟩
theorem witness_ControlFlitsArrive_6 : ∃ (s : State) (p : Nat) (rx : RxFlit) (u : State), isCtrl rx 4 = true ∧
    s.portPresent p = true ∧ s.portState p = portKeying ∧ unprotected rx = true ∧ (s.fecCorr p
    rx.corrected).keyingOpen p = true ∧ (s.fecCorr p rx.corrected).modLink p (fun l => l.answered 4) = u :=
⟨linkKeying, 23, (rxOf 6 4), ((linkKeying.fecCorr 23 (rxOf 6 4).corrected).modLink 23 (fun l => l.answered 4)),
    by decide +kernel, by decide +kernel, by decide +kernel, by decide +kernel, by decide +kernel, rfl⟩
theorem witness_ControlFlitsArrive_7 : ∃ (s : State) (p : Nat) (rx : RxFlit) (t : State), isCtrl rx 4 = true ∧
    s.portPresent p = true ∧ s.portState p = portIsUp ∧ s.linkIn p rx = (t, true) :=
⟨linkUp, 23, (rxOf 6 4), ((linkUp.linkIn 23 (rxOf 6 4)).1), by decide +kernel, by decide +kernel, by decide +kernel,
    pairOf (by decide +kernel)⟩
theorem witness_ControlFlitsArrive_8 : ∃ (s : State) (p : Nat) (rx : RxFlit) (u : State) (v : State), isCtrl rx 5 =
    true ∧ s.portPresent p = true ∧ s.portState p = portKeying ∧ unprotected rx = true ∧ (s.fecCorr p
    rx.corrected).keyingOpen p = true ∧ (s.fecCorr p rx.corrected).modLink p (fun l => l.answered 5) = u ∧ bytesAt
    rx.flit.payload 0 8 = (u.link p).nextSession ∧ u.modLink p (fun l => { l with doneSeen := true }) = v ∧ (v.link
    p).keyed = true :=
⟨(linkAccepted.modLink 23 (fun l => { l with doneSent := true })), 23,
    ({ (rxOf 6 5) with flit := { (rxOf 6 5).flit with payload := leBytes 8 1 } } : RxFlit), (((linkAccepted.modLink 23
    (fun l => { l with doneSent := true })).fecCorr 23
    ({ (rxOf 6 5) with flit := { (rxOf 6 5).flit with payload := leBytes 8 1 } } : RxFlit).corrected).modLink 23 (fun
    l => l.answered 5)), ((((linkAccepted.modLink 23 (fun l => { l with doneSent := true })).fecCorr 23
    ({ (rxOf 6 5) with flit := { (rxOf 6 5).flit with payload := leBytes 8 1 } } : RxFlit).corrected).modLink 23 (fun
    l => l.answered 5)).modLink 23 (fun l => { l with doneSeen := true })), by decide +kernel, by decide +kernel,
    by decide +kernel, by decide +kernel, by decide +kernel, rfl, by decide +kernel, rfl, by decide +kernel⟩
theorem witness_ControlFlitsArrive_9 : ∃ (s : State) (p : Nat) (rx : RxFlit) (u : State) (v : State), isCtrl rx 5 =
    true ∧ s.portPresent p = true ∧ s.portState p = portKeying ∧ unprotected rx = true ∧ (s.fecCorr p
    rx.corrected).keyingOpen p = true ∧ (s.fecCorr p rx.corrected).modLink p (fun l => l.answered 5) = u ∧ bytesAt
    rx.flit.payload 0 8 = (u.link p).nextSession ∧ u.modLink p (fun l => { l with doneSeen := true }) = v ∧ (v.link
    p).keyed = false :=
⟨linkAccepted, 23, ({ (rxOf 6 5) with flit := { (rxOf 6 5).flit with payload := leBytes 8 1 } } : RxFlit),
    ((linkAccepted.fecCorr 23 ({ (rxOf 6 5) with flit := { (rxOf 6 5).flit with payload := leBytes 8 1 } } :
    RxFlit).corrected).modLink 23 (fun l => l.answered 5)), (((linkAccepted.fecCorr 23
    ({ (rxOf 6 5) with flit := { (rxOf 6 5).flit with payload := leBytes 8 1 } } : RxFlit).corrected).modLink 23 (fun
    l => l.answered 5)).modLink 23 (fun l => { l with doneSeen := true })), by decide +kernel, by decide +kernel,
    by decide +kernel, by decide +kernel, by decide +kernel, rfl, by decide +kernel, rfl, by decide +kernel⟩
theorem witness_ControlFlitsArrive_10 : ∃ (s : State) (p : Nat) (rx : RxFlit) (t : State), isCtrl rx 5 = true ∧
    s.portPresent p = true ∧ s.portState p = portIsUp ∧ s.linkIn p rx = (t, true) ∧ t.rekeyOpen p = true ∧ (t.link
    p).newT ≠ [] ∧ bytesAt rx.flit.payload 0 8 = (t.link p).session + 1 ∧ (t.fld .JL_PORT_STAT_KEY_PHASE p == 1) =
    (t.link p).rekeyFromTx :=
⟨((linkUp.setFld .JL_PORT_STAT_REKEYING 23 0 1).modLink 23 (fun l => { l with newT := [0] })), 23,
    ({ (rxOf 6 5) with flit := { (rxOf 6 5).flit with payload := leBytes 8 1 } } : RxFlit), ((((linkUp.setFld
    .JL_PORT_STAT_REKEYING 23 0 1).modLink 23 (fun l => { l with newT := [0] })).linkIn 23
    ({ (rxOf 6 5) with flit := { (rxOf 6 5).flit with payload := leBytes 8 1 } } : RxFlit)).1), by decide +kernel,
    by decide +kernel, by decide +kernel, pairOf (by decide +kernel), by decide +kernel, by decide +kernel,
    by decide +kernel, by decide +kernel⟩
theorem witness_ControlFlitsArrive_11 : ∃ (s : State) (p : Nat) (rx : RxFlit) (t : State), isCtrl rx 6 = true ∧
    s.portPresent p = true ∧ s.portState p = portIsUp ∧ s.linkIn p rx = (t, true) ∧ t.rekeyOpen p = true ∧ (t.link
    p).accepted = true ∧ (t.link p).rxPhase = (t.link p).rekeyFrom ∧ bytesAt rx.flit.payload 0 8 = (t.link p).session
    + 1 :=
⟨((linkUp.setFld .JL_PORT_STAT_REKEYING 23 0 1).modLink 23 (fun l => { l with accepted := true })), 23,
    ({ (rxOf 6 6) with flit := { (rxOf 6 6).flit with payload := leBytes 8 1 } } : RxFlit), ((((linkUp.setFld
    .JL_PORT_STAT_REKEYING 23 0 1).modLink 23 (fun l => { l with accepted := true })).linkIn 23
    ({ (rxOf 6 6) with flit := { (rxOf 6 6).flit with payload := leBytes 8 1 } } : RxFlit)).1), by decide +kernel,
    by decide +kernel, by decide +kernel, pairOf (by decide +kernel), by decide +kernel, by decide +kernel,
    by decide +kernel, by decide +kernel⟩
theorem witness_ControlFlitsArrive_12 : ∃ (s : State) (p : Nat) (rx : RxFlit) (u : State), isCtrl rx 7 = true ∧
    s.portPresent p = true ∧ s.portState p = portKeying ∧ unprotected rx = true ∧ (s.fecCorr p
    rx.corrected).keyingOpen p = true ∧ (s.fecCorr p rx.corrected).modLink p (fun l => l.answered 7) = u :=
⟨linkKeying, 23, (rxOf 6 7), ((linkKeying.fecCorr 23 (rxOf 6 7).corrected).modLink 23 (fun l => l.answered 7)),
    by decide +kernel, by decide +kernel, by decide +kernel, by decide +kernel, by decide +kernel, rfl⟩
theorem witness_ControlFlitsArrive_13 : ∃ (s : State) (p : Nat) (rx : RxFlit) (t : State), isCtrl rx 7 = true ∧
    s.portPresent p = true ∧ s.portState p = portIsUp ∧ s.linkIn p rx = (t, true) :=
⟨linkUp, 23, (rxOf 6 7), ((linkUp.linkIn 23 (rxOf 6 7)).1), by decide +kernel, by decide +kernel, by decide +kernel,
    pairOf (by decide +kernel)⟩
theorem witness_ControlFlitsArrive_14 : ∃ (s : State) (p : Nat) (rx : RxFlit) (u : State), isCtrl rx 8 = true ∧
    s.portPresent p = true ∧ s.portState p = portKeying ∧ unprotected rx = true ∧ (s.fecCorr p
    rx.corrected).keyingOpen p = true ∧ (s.fecCorr p rx.corrected).modLink p (fun l => l.answered 8) = u :=
⟨linkKeying, 23, (rxOf 6 8), ((linkKeying.fecCorr 23 (rxOf 6 8).corrected).modLink 23 (fun l => l.answered 8)),
    by decide +kernel, by decide +kernel, by decide +kernel, by decide +kernel, by decide +kernel, rfl⟩
theorem witness_ControlFlitsArrive_15 : ∃ (s : State) (p : Nat) (rx : RxFlit) (t : State), isCtrl rx 8 = true ∧
    s.portPresent p = true ∧ s.portState p = portIsUp ∧ s.linkIn p rx = (t, true) :=
⟨linkUp, 23, (rxOf 6 8), ((linkUp.linkIn 23 (rxOf 6 8)).1), by decide +kernel, by decide +kernel, by decide +kernel,
    pairOf (by decide +kernel)⟩
theorem witness_PortEventsComplete_0 : ∃ (s : State) (p : Nat) (lane : Nat) (symbols : Nat) (lost : Bool),
    (s.portState p = portKeying ∨ s.portState p = portIsUp) ∧ lane < 8 ∧ s.laneFails p lost symbols = true ∧ (s.link
    p).swap = none ∧ s.fld .JL_PORT_STAT_SPARE_RX p = 0xF :=
⟨linkUp, 23, 7, 0, true, by decide +kernel, by decide +kernel, by decide +kernel, by decide +kernel,
    by decide +kernel⟩
theorem witness_PortEventsComplete_1 : ∃ (s : State) (p : Nat) (lane : Nat) (symbols : Nat) (lost : Bool),
    (s.portState p = portKeying ∨ s.portState p = portIsUp) ∧ lane < 8 ∧ s.laneFails p lost symbols = true ∧ (s.link
    p).swap = none ∧ s.fld .JL_PORT_STAT_SPARE_RX p ≠ 0xF :=
⟨(linkUp.setFld .JL_PORT_STAT_SPARE_RX 23 0 0), 23, 7, 0, true, by decide +kernel, by decide +kernel,
    by decide +kernel, by decide +kernel, by decide +kernel⟩
theorem witness_PortEventsComplete_2 : ∃ (s : State) (p : Nat) (k : Nat) (c : Nat) (n : Nat), (s.link p).swap = some
    (k, c) ∧ (s.link p).swapAt = some n ∧ s.inWindow (capeIsland p) (c + 16000) = true :=
⟨(linkUp.modLink 23 (fun l => { l with swap := some (7, 0), swapAt := some 5 })), 23, 7, 0, 5, by decide +kernel,
    by decide +kernel, by decide +kernel⟩
theorem witness_PortEventsComplete_3 : ∃ (s : State) (p : Nat) (k : Nat) (c : Nat), (s.link p).swap = some (k, c) :=
⟨(linkUp.modLink 23 (fun l => { l with swap := some (7, 0) })), 23, 7, 0, by decide +kernel⟩
theorem witness_PortEventsComplete_4 : ∃ (s : State) (p : Nat) (t : State), s.portState p = portKeying ∧ s.keyingOpen
    p = true ∧ s.sendKeyingFlit p = t ∧ (t.link p).keyed = false :=
⟨linkKeying, 23, (linkKeying.sendKeyingFlit 23), by decide +kernel, by decide +kernel, rfl, by decide +kernel⟩
theorem witness_PortEventsComplete_5 : ∃ (s : State) (p : Nat) (t : State), s.portState p = portKeying ∧ s.keyingOpen
    p = true ∧ s.sendKeyingFlit p = t ∧ (t.link p).keyed = true :=
⟨(linkAccepted.modLink 23 (fun l => { l with doneSent := true, doneSeen := true })), 23, ((linkAccepted.modLink 23
    (fun l => { l with doneSent := true, doneSeen := true })).sendKeyingFlit 23), by decide +kernel,
    by decide +kernel, rfl, by decide +kernel⟩
theorem witness_PortEventsComplete_6 : ∃ (s : State) (p : Nat), s.portState p = portKeying ∧ s.keyingOpen p = false :=
⟨(linkKeying.setCount 15 160000001), 23, by decide +kernel, by decide +kernel⟩
theorem witness_PortEventsComplete_7 : ∃ (s : State) (p : Nat) (vc : Nat) (t : State), s.portState p = portIsUp ∧ vc <
    4 ∧ (s.windowsClosed p).dropStalled p vc = t ∧ t.portState p ≠ portIsUp :=
⟨(linkUp.setCount 15 16001), 23, 3, (((linkUp.setCount 15 16001).windowsClosed 23).dropStalled 23 3),
    by decide +kernel, by decide +kernel, rfl, by decide +kernel⟩
theorem witness_PortEventsComplete_8 : ∃ (s : State) (p : Nat) (vc : Nat) (t : State), s.portState p = portIsUp ∧ vc <
    4 ∧ (s.windowsClosed p).dropStalled p vc = t ∧ t.portState p = portIsUp ∧ 0 < (t.link p).resend :=
⟨(linkUp.modLink 23 (fun l => { l with resend := 1 })), 23, 3, (((linkUp.modLink 23 (fun l =>
    { l with resend := 1 })).windowsClosed 23).dropStalled 23 3), by decide +kernel, by decide +kernel, rfl,
    by decide +kernel, by decide +kernel⟩
theorem witness_PortEventsComplete_9 : ∃ (s : State) (p : Nat) (vc : Nat) (f : Flit) (rest : List Flit) (t : State),
    s.portState p = portIsUp ∧ vc < 4 ∧ (s.windowsClosed p).dropStalled p vc = t ∧ t.portState p = portIsUp ∧ (t.link
    p).resend = 0 ∧ t.egressOf p vc = f :: rest ∧ 0 < (t.link p).credits.getD vc 0 ∧ (t.link p).retained.length < 1024
    ∧ t.fld .JL_PORT_TXC_TXC p < txcLimit :=
⟨linkSends, 23, 3, ({} : Flit), ([] : List Flit), ((linkSends.windowsClosed 23).dropStalled 23 3), by decide +kernel,
    by decide +kernel, rfl, by decide +kernel, by decide +kernel, by decide +kernel, by decide +kernel,
    by decide +kernel, by decide +kernel⟩
theorem witness_PortEventsComplete_10 : ∃ (s : State) (p : Nat) (vc : Nat) (t : State), s.portState p = portIsUp ∧ vc
    < 4 ∧ (s.windowsClosed p).dropStalled p vc = t ∧ t.portState p = portIsUp ∧ (t.link p).resend = 0 ∧ t.egressOf p
    vc = [] :=
⟨linkUp, 23, 3, ((linkUp.windowsClosed 23).dropStalled 23 3), by decide +kernel, by decide +kernel, rfl,
    by decide +kernel, by decide +kernel, by decide +kernel⟩
theorem witness_PortEventsComplete_11 : ∃ (s : State) (p : Nat) (corrected : Nat) (uncorr : Bool) (t : State),
    s.portState p = portIsUp ∧ (s.fecCorr p corrected).satFld (if uncorr then .JL_PORT_ERR_FEC_UNCORR else
    .JL_PORT_ERR_CRC_FAIL) p 0 1 = t ∧ t.portState p = portIsUp :=
⟨linkUp, 23, 0, true, ((linkUp.fecCorr 23 0).satFld (if true then .JL_PORT_ERR_FEC_UNCORR else .JL_PORT_ERR_CRC_FAIL)
    23 0 1), by decide +kernel, rfl, by decide +kernel⟩
theorem witness_PortEventsComplete_12 : ∃ (s : State) (p : Nat) (corrected : Nat) (uncorr : Bool) (t : State),
    s.portState p = portKeying ∧ (s.fecCorr p corrected).satFld (if uncorr then .JL_PORT_ERR_FEC_UNCORR else
    .JL_PORT_ERR_CRC_FAIL) p 0 1 = t ∧ t.portState p = portKeying :=
⟨linkKeying, 23, 3, false, ((linkKeying.fecCorr 23 3).satFld (if false then .JL_PORT_ERR_FEC_UNCORR else
    .JL_PORT_ERR_CRC_FAIL) 23 0 1), by decide +kernel, rfl, by decide +kernel⟩
theorem witness_PortEventsComplete_13 : ∃ (s : State) (p : Nat), s.portState p = portIsUp ∧ (s.link p).retained ≠ [] :=
⟨(linkUp.modLink 23 (fun l => { l with retained := [(0, {})] })), 23, by decide +kernel, by decide +kernel⟩
theorem witness_PortEventsComplete_14 : ∃ (s : State) (p : Nat), s.portState p = portIsUp :=
⟨linkUp, 23, by decide +kernel⟩
theorem witness_PortEventsComplete_15 : ∃ (s : State) (p : Nat), s.portState p = portKeying :=
⟨linkKeying, 23, by decide +kernel⟩
theorem witness_PortEventsComplete_16 : ∃ (s : State) (p : Nat), s.portState p = portKeying :=
⟨linkKeying, 23, by decide +kernel⟩
theorem witness_PortEventsComplete_17 : ∃ (s : State) (fn : Nat) (tag : Nat) (k : Nat) (c : Nat) (r : ReadReq),
    s.reads.find? (fun e => e.1 == 256 * fn + tag) = some (k, r) ∧ r.opened = some c ∧ r.done = none :=
⟨({ live with reads := [(256 * 8 + 255, { opened := some 0 })] } : State), 8, 255, (256 * 8 + 255), 0,
    ({ opened := some 0 } : ReadReq), by decide +kernel, by decide +kernel, by decide +kernel⟩
theorem witness_PortEventsComplete_18 : ∃ (s : State) (p : Nat) (vc : Nat) (f : Flit) (rest : List Flit), s.portState
    p = portIsUp ∧ vc < 4 ∧ s.egressOf p vc = f :: rest :=
⟨linkSends, 23, 3, ({} : Flit), ([] : List Flit), by decide +kernel, by decide +kernel, by decide +kernel⟩
theorem witness_PortEventsComplete_19 : ∃ (s : State) (c : Nat), s.claimWait = some c :=
⟨{ linkUp with claimWait := some 0 }, 0, by decide +kernel⟩
theorem witness_PortEventsComplete_20 : ∃ (s : State) (p : Nat) (txSpare : Nat) (rxSpare : Nat), s.portState p =
    portTraining ∧ s.portPresent p = true ∧ txSpare < 9 ∧ rxSpare < 9 ∧ s.inWindow (capeIsland p) ((s.link p).entered
    + 81600000) = true :=
⟨(linkIn portTraining), 23, 8, 8, by decide +kernel, by decide +kernel, by decide +kernel, by decide +kernel,
    by decide +kernel⟩
theorem witness_PortEventsComplete_21 : ∃ (s : State) (p : Nat), s.portState p = portTraining :=
⟨(linkIn portTraining), 23, by decide +kernel⟩
theorem witness_PortEventsComplete_22 : ∃ (s : State) (p : Nat), s.portState p = portIsDown ∧ s.fld
    .JL_PORT_CTL_AUTO_RETRY p = 1 ∧ s.fld .JL_PORT_CTL_ENABLE p = 1 :=
⟨(((linkIn portIsDown).setFld .JL_PORT_CTL_AUTO_RETRY 23 0 1).setFld .JL_PORT_CTL_ENABLE 23 0 1), 23,
    by decide +kernel, by decide +kernel, by decide +kernel⟩
theorem witness_PortEventsComplete_23 : ∃ (s : State) (p : Nat), (s.portState p = portKeying ∨ s.portState p =
    portIsUp) :=
⟨linkUp, 23, by decide +kernel⟩
theorem witness_PortEventsComplete_27 : ∃ (s : State) (p : Nat), s.fld .JL_PORT_CFG_REKEY_AT p ≠ 0 ∧ (s.fld
    .JL_PORT_CFG_REKEY_AT p * 2 ^ 32 ≤ s.fld .JL_PORT_TXC_TXC p ∨ s.fld .JL_PORT_CFG_REKEY_AT p * 2 ^ 32 ≤ (s.link
    p).rxTxc) :=
⟨((linkUp.setFld .JL_PORT_CFG_REKEY_AT 23 0 1).setFld .JL_PORT_TXC_TXC 23 0 (2 ^ 32)), 23, by decide +kernel,
    by decide +kernel⟩
theorem witness_PortEventsComplete_28 : ∃ (s : State) (p : Nat), s.portState p = portIsUp ∧ txcLimit ≤ s.fld
    .JL_PORT_TXC_TXC p :=
⟨(linkUp.setFld .JL_PORT_TXC_TXC 23 0 txcLimit), 23, by decide +kernel, by decide +kernel⟩
theorem witness_PortEventsComplete_29 : ∃ (s : State) (p : Nat), s.portState p = portIsUp ∧ s.fld
    .JL_PORT_STAT_REKEYING p = 1 :=
⟨(linkUp.setFld .JL_PORT_STAT_REKEYING 23 0 1), 23, by decide +kernel, by decide +kernel⟩
theorem witness_PortEventsComplete_30 : ∃ (s : State) (p : Nat) (c : Nat), (s.link p).rekeyAgain = some c :=
⟨(linkUp.modLink 23 (fun l => { l with rekeyAgain := some 0 })), 23, 0, by decide +kernel⟩
theorem witness_ReductionCommandsComplete_0 : ∃ (s : State) (ctx : Nat) (b : Nat), s.jobState ctx = jobRunning ∧ b <
    jobBuckets (s.job ctx).recd ∧ ((s.job ctx).bucket b).full = true ∧ ((s.job ctx).bucket b).started = false ∧ (b = 0
    ∨ ((s.job ctx).bucket (b - 1)).started = true) ∧ ((s.job ctx).run.filter (fun e => e.2.started &&
    !e.2.complete)).length < 64 ∧ s.rowsLeased (s.job ctx).fn (bucketBase ((s.job ctx).bucketRec b)) (65536 *
    bucketPages ((s.job ctx).bucketRec b)) = false :=
⟨(jobWith jobRunning { recd := List.replicate 64 1, run := [(0, { full := true })] }), 31, 0, by decide +kernel,
    by decide +kernel, by decide +kernel, by decide +kernel, by decide +kernel, by decide +kernel, by decide +kernel⟩
theorem witness_ReductionCommandsComplete_1 : ∃ (s : State) (ctx : Nat) (b : Nat) (ts : List (List Byte)),
    s.bucketTrailers ctx b = some ts ∧ ((s.job ctx).bucket b).started = true ∧ ((s.job ctx).bucket b).complete = false
    ∧ s.bucketUnsent ctx b = false ∧ s.bucketHeld ctx b = false ∧ ((s.job ctx).bucket b).late = false ∧ (jobDeadline
    (s.job ctx).recd = 0 ∨ ((s.job ctx).bucket b).lastIn ≤ bucketClose (s.job ctx) ((s.job ctx).bucket b)) :=
⟨(jobWith jobRunning { run := [(0, { full := true, started := true })] }), 31, 0, (Option.get ((jobWith jobRunning
    { run := [(0, { full := true, started := true })] }).bucketTrailers 31 0) (by decide +kernel)), (Option.some_get
    _).symm, by decide +kernel, by decide +kernel, by decide +kernel, by decide +kernel, by decide +kernel,
    by decide +kernel⟩
theorem witness_ReductionCommandsComplete_2 : ∃ (s : State) (ctx : Nat) (b : Nat) (ts : List (List Byte)),
    s.bucketTrailers ctx b = some ts ∧ ((s.job ctx).bucket b).started = true ∧ ((s.job ctx).bucket b).complete = false
    ∧ s.bucketUnsent ctx b = false ∧ s.bucketHeld ctx b = false ∧ ((s.job ctx).bucket b).late = true :=
⟨(jobWith jobRunning { run := [(0, { full := true, started := true, late := true })] }), 31, 0, (Option.get ((jobWith
    jobRunning { run := [(0, { full := true, started := true, late := true })] }).bucketTrailers 31 0)
    (by decide +kernel)), (Option.some_get _).symm, by decide +kernel, by decide +kernel, by decide +kernel,
    by decide +kernel, by decide +kernel⟩
theorem witness_ReductionCommandsComplete_3 : ∃ (s : State) (ctx : Nat) (b : Nat), s.jobState ctx = jobRunning ∧
    ((s.job ctx).bucket b).started = true ∧ ((s.job ctx).bucket b).complete = false ∧ ((s.job ctx).bucket b).late =
    false ∧ jobDeadline (s.job ctx).recd ≠ 0 ∧ s.bucketInTime ctx b = false :=
⟨(jobWith jobRunning { recd := List.replicate 64 1, run := [(0, { started := true })] }), 31, 0, by decide +kernel,
    by decide +kernel, by decide +kernel, by decide +kernel, by decide +kernel, by decide +kernel⟩
theorem witness_ReductionCommandsComplete_4 : ∃ (s : State) (ctx : Nat) (t : State), s.jobState ctx = jobVoting ∧
    (s.job ctx).applied = false ∧ t = s.reachCount (jobIsland (s.job ctx)) ((s.job ctx).voteOpened + 1000 * jobVote
    (s.job ctx).recd) :=
⟨(jobWith jobVoting {}), 31, ((jobWith jobVoting {}).reachCount (jobIsland ((jobWith jobVoting {}).job 31)) (((jobWith
    jobVoting {}).job 31).voteOpened + 1000 * jobVote ((jobWith jobVoting {}).job 31).recd)), by decide +kernel,
    by decide +kernel, rfl⟩
theorem witness_ReductionCommandsComplete_5 : ∃ (s : State) (fn : Nat) (ctx : Nat) (w : Word), s.fnLive fn = true ∧
    (s.job ctx).fn = fn ∧ bit w.toNat 0 = false ∧ bit w.toNat 1 = true ∧ s.jobState ctx = jobStopped :=
⟨(jobWith jobStopped {}), 8, 31, 2, by decide +kernel, by decide +kernel, by decide +kernel, by decide +kernel,
    by decide +kernel⟩
theorem witness_ReductionCommandsComplete_6 : ∃ (s : State) (fn : Nat) (ctx : Nat) (w : Word), s.fnLive fn = true ∧
    (s.job ctx).fn = fn ∧ bit w.toNat 0 = true ∧ bit w.toNat 1 = false :=
⟨(jobWith jobRunning {}), 8, 31, 1, by decide +kernel, by decide +kernel, by decide +kernel, by decide +kernel⟩
theorem witness_OptimiserCommandsComplete_0 : ∃ (s : State) (fn : Nat) (q : Nat), s.optState fn = optNorm ∧ q < optQ
    (s.optCfg fn) ∧ (s.normNotice fn q).normPresent fn = true :=
⟨(optAt optNorm {} [leBytes 1 0 ++ List.replicate 9 0 ++ leBytes 2 1 ++ List.replicate 116 0]), 8, 0,
    by decide +kernel, by decide +kernel, by decide +kernel⟩
theorem witness_OptimiserCommandsComplete_1 : ∃ (s : State) (fn : Nat) (q : Nat), s.optState fn = optNorm ∧ q < optQ
    (s.optCfg fn) ∧ (s.normNotice fn q).normPresent fn = false :=
⟨(optAt optNorm { step := 5 } [leBytes 1 0 ++ List.replicate 9 0 ++ leBytes 2 1 ++ List.replicate 116 0]), 8, 0,
    by decide +kernel, by decide +kernel, by decide +kernel⟩
theorem witness_OptimiserCommandsComplete_2 : ∃ (s : State) (fn : Nat), s.optState fn = optNorm ∧ s.normPresent fn =
    false :=
⟨(optAt optNorm { step := 5 } [leBytes 1 0 ++ List.replicate 9 0 ++ leBytes 2 1 ++ List.replicate 116 0]), 8,
    by decide +kernel, by decide +kernel⟩
theorem witness_OptimiserCommandsComplete_3 : ∃ (s : State) (fn : Nat) (shard : Nat) (r : List Byte) (t : State) (u :
    State) (w : CommitWord), (s.fnState fn).shardRec shard = some r ∧ (s.opt fn).waits ≠ 1 ∧ s.shardMayStart fn r =
    true ∧ (s.fnState fn).optLegal = true ∧ s.prepareWrite fn (shardBase r) 32 = (t, true) ∧ t.readCommit fn r = (u,
    some w) :=
⟨(optAt optUpdating { released := true, shards := [(0, 1)] } [optRecL, shardRecL]), 8, 0, (Option.get (((optAt
    optUpdating { released := true, shards := [(0, 1)] } [optRecL, shardRecL]).fnState 8).shardRec 0)
    (by decide +kernel)), (((optAt optUpdating { released := true, shards := [(0, 1)] } [optRecL,
    shardRecL]).prepareWrite 8 (shardBase (Option.get (((optAt optUpdating { released := true, shards := [(0, 1)] }
    [optRecL, shardRecL]).fnState 8).shardRec 0) (by decide +kernel))) 32).1), (((((optAt optUpdating
    { released := true, shards := [(0, 1)] } [optRecL, shardRecL]).prepareWrite 8 (shardBase (Option.get (((optAt
    optUpdating { released := true, shards := [(0, 1)] } [optRecL, shardRecL]).fnState 8).shardRec 0)
    (by decide +kernel))) 32).1).readCommit 8 (Option.get (((optAt optUpdating
    { released := true, shards := [(0, 1)] } [optRecL, shardRecL]).fnState 8).shardRec 0) (by decide +kernel))).1),
    (Option.get ((((optAt optUpdating { released := true, shards := [(0, 1)] } [optRecL, shardRecL]).prepareWrite 8
    (shardBase (Option.get (((optAt optUpdating { released := true, shards := [(0, 1)] } [optRecL, shardRecL]).fnState
    8).shardRec 0) (by decide +kernel))) 32).1).readCommit 8 (Option.get (((optAt optUpdating
    { released := true, shards := [(0, 1)] } [optRecL, shardRecL]).fnState 8).shardRec 0) (by decide +kernel))).2
    (by decide +kernel)), (Option.some_get _).symm, by decide +kernel, by decide +kernel, by decide +kernel, pairOf
    (by decide +kernel), pairSome (by decide +kernel)⟩
theorem witness_OptimiserCommandsComplete_4 : ∃ (s : State) (fn : Nat) (shard : Nat) (r : List Byte) (t : State),
    (s.fnState fn).shardRec shard = some r ∧ (s.opt fn).waits = 1 ∧ s.optRoom fn = (t, true) :=
⟨(optAt optUpdating { waits := 1 } [optRec0, shardRec0]), 8, 0, (Option.get (((optAt optUpdating { waits := 1 }
    [optRec0, shardRec0]).fnState 8).shardRec 0) (by decide +kernel)), (((optAt optUpdating { waits := 1 } [optRec0,
    shardRec0]).optRoom 8).1), (Option.some_get _).symm, by decide +kernel, pairOf (by decide +kernel)⟩
theorem witness_OptimiserCommandsComplete_5 : ∃ (s : State) (fn : Nat) (shard : Nat) (r : List Byte) (k : Ticket) (t :
    State) (u : State) (w : CommitWord), (s.fnState fn).shardRec shard = some r ∧ (s.opt fn).ticket = some k ∧
    s.shardState fn shard = 2 ∧ s.shardRoom fn r (s.shardCurSlot fn r) = (t, true) ∧ t.readCommit fn r = (u, some w) :=
⟨(optAt optUpdating { ticket := some {}, shards := [(0, 2)] } [optRec0, shardRec0]), 8, 0, (Option.get (((optAt
    optUpdating { ticket := some {}, shards := [(0, 2)] } [optRec0, shardRec0]).fnState 8).shardRec 0)
    (by decide +kernel)), ({} : Ticket), (((optAt optUpdating { ticket := some {}, shards := [(0, 2)] } [optRec0,
    shardRec0]).shardRoom 8 (Option.get (((optAt optUpdating { ticket := some {}, shards := [(0, 2)] } [optRec0,
    shardRec0]).fnState 8).shardRec 0) (by decide +kernel)) ((optAt optUpdating
    { ticket := some {}, shards := [(0, 2)] } [optRec0, shardRec0]).shardCurSlot 8 (Option.get (((optAt optUpdating
    { ticket := some {}, shards := [(0, 2)] } [optRec0, shardRec0]).fnState 8).shardRec 0) (by decide +kernel)))).1),
    (((((optAt optUpdating { ticket := some {}, shards := [(0, 2)] } [optRec0, shardRec0]).shardRoom 8 (Option.get
    (((optAt optUpdating { ticket := some {}, shards := [(0, 2)] } [optRec0, shardRec0]).fnState 8).shardRec 0)
    (by decide +kernel)) ((optAt optUpdating { ticket := some {}, shards := [(0, 2)] } [optRec0,
    shardRec0]).shardCurSlot 8 (Option.get (((optAt optUpdating { ticket := some {}, shards := [(0, 2)] } [optRec0,
    shardRec0]).fnState 8).shardRec 0) (by decide +kernel)))).1).readCommit 8 (Option.get (((optAt optUpdating
    { ticket := some {}, shards := [(0, 2)] } [optRec0, shardRec0]).fnState 8).shardRec 0) (by decide +kernel))).1),
    (Option.get ((((optAt optUpdating { ticket := some {}, shards := [(0, 2)] } [optRec0, shardRec0]).shardRoom 8
    (Option.get (((optAt optUpdating { ticket := some {}, shards := [(0, 2)] } [optRec0, shardRec0]).fnState
    8).shardRec 0) (by decide +kernel)) ((optAt optUpdating { ticket := some {}, shards := [(0, 2)] } [optRec0,
    shardRec0]).shardCurSlot 8 (Option.get (((optAt optUpdating { ticket := some {}, shards := [(0, 2)] } [optRec0,
    shardRec0]).fnState 8).shardRec 0) (by decide +kernel)))).1).readCommit 8 (Option.get (((optAt optUpdating
    { ticket := some {}, shards := [(0, 2)] } [optRec0, shardRec0]).fnState 8).shardRec 0) (by decide +kernel))).2
    (by decide +kernel)), (Option.some_get _).symm, by decide +kernel, by decide +kernel, pairOf (by decide +kernel),
    pairSome (by decide +kernel)⟩
theorem witness_OptimiserCommandsComplete_6 : ∃ (s : State) (round : Nat), (round = 1 ∨ round = 2) :=
⟨live, 2, by decide +kernel⟩
theorem witness_OptimiserCommandsComplete_7 : ∃ (s : State) (fn : Nat) (d : DigestRun), (s.opt fn).digest = some d ∧
    d.own.isSome = true :=
⟨(optAt 0 { digest := some { waiting := [], own := some [] } } []), 8, (Option.get (((optAt 0
    { digest := some { waiting := [], own := some [] } } []).opt 8).digest) (by decide +kernel)), (Option.some_get
    _).symm, by decide +kernel⟩
theorem witness_OptimiserCommandsComplete_8 : ∃ (s : State) (fn : Nat) (w : Word), s.fnLive fn = true ∧ (s.optCfg
    fn).isEmpty = false ∧ bit w.toNat 1 = false ∧ bit w.toNat 0 = true ∧ (s.opt fn).waits ≠ 2 ∧ (s.opt fn).adopting =
    none ∧ s.optState fn ≠ optUnloaded :=
⟨(optAt optIdle {} [optRec0]), 8, 1, by decide +kernel, by decide +kernel, by decide +kernel, by decide +kernel,
    by decide +kernel, by decide +kernel, by decide +kernel⟩
theorem witness_OptimiserCommandsComplete_9 : ∃ (s : State) (fn : Nat) (w : Word), s.fnLive fn = true ∧ (s.optCfg
    fn).isEmpty = false ∧ bit w.toNat 1 = true ∧ s.optRests fn = true ∧ s.adoptBroken fn = false :=
⟨(optAt optUnloaded {} [optRecL, shardRecL]), 8, 2, by decide +kernel, by decide +kernel, by decide +kernel,
    by decide +kernel, by decide +kernel⟩
theorem witness_OptimiserCommandsComplete_10 : ∃ (s : State) (fn : Nat) (shard : Nat) (d : DigestRun) (r : List Byte)
    (t : State) (a : Answer), (s.opt fn).digest = some d ∧ (s.fnState fn).shardRec shard = some r ∧ d.waiting.contains
    shard = true ∧ s.rangeReady fn (shardSlot (s.optCfg fn) r (s.shardCurSlot fn r) 0) (4 * shardN r) = true ∧
    s.devRead .islet fn (shardSlot (s.optCfg fn) r (s.shardCurSlot fn r) 0) (4 * shardN r) = (t, a) ∧ a.status = .ok ∧
    d.waiting.erase shard ≠ [] :=
⟨(optAt 0 { digest := some { waiting := [0, 1], own := none } } [optRec0, shardRec0]), 8, 0, (Option.get (((optAt 0
    { digest := some { waiting := [0, 1], own := none } } [optRec0, shardRec0]).opt 8).digest) (by decide +kernel)),
    (Option.get (((optAt 0 { digest := some { waiting := [0, 1], own := none } } [optRec0, shardRec0]).fnState
    8).shardRec 0) (by decide +kernel)), (((optAt 0 { digest := some { waiting := [0, 1], own := none } } [optRec0,
    shardRec0]).devRead .islet 8 (shardSlot ((optAt 0 { digest := some { waiting := [0, 1], own := none } } [optRec0,
    shardRec0]).optCfg 8) (Option.get (((optAt 0 { digest := some { waiting := [0, 1], own := none } } [optRec0,
    shardRec0]).fnState 8).shardRec 0) (by decide +kernel)) ((optAt 0
    { digest := some { waiting := [0, 1], own := none } } [optRec0, shardRec0]).shardCurSlot 8 (Option.get (((optAt 0
    { digest := some { waiting := [0, 1], own := none } } [optRec0, shardRec0]).fnState 8).shardRec 0)
    (by decide +kernel))) 0) (4 * shardN (Option.get (((optAt 0 { digest := some { waiting := [0, 1], own := none } }
    [optRec0, shardRec0]).fnState 8).shardRec 0) (by decide +kernel)))).1), (((optAt 0
    { digest := some { waiting := [0, 1], own := none } } [optRec0, shardRec0]).devRead .islet 8 (shardSlot ((optAt 0
    { digest := some { waiting := [0, 1], own := none } } [optRec0, shardRec0]).optCfg 8) (Option.get (((optAt 0
    { digest := some { waiting := [0, 1], own := none } } [optRec0, shardRec0]).fnState 8).shardRec 0)
    (by decide +kernel)) ((optAt 0 { digest := some { waiting := [0, 1], own := none } } [optRec0,
    shardRec0]).shardCurSlot 8 (Option.get (((optAt 0 { digest := some { waiting := [0, 1], own := none } } [optRec0,
    shardRec0]).fnState 8).shardRec 0) (by decide +kernel))) 0) (4 * shardN (Option.get (((optAt 0
    { digest := some { waiting := [0, 1], own := none } } [optRec0, shardRec0]).fnState 8).shardRec 0)
    (by decide +kernel)))).2), (Option.some_get _).symm, (Option.some_get _).symm, by decide +kernel,
    by decide +kernel, rfl, by decide +kernel, by decide +kernel⟩
theorem witness_OptimiserCommandsComplete_11 : ∃ (s : State) (fn : Nat) (shard : Nat) (d : DigestRun) (r : List Byte)
    (t : State) (a : Answer), (s.opt fn).digest = some d ∧ (s.fnState fn).shardRec shard = some r ∧ d.waiting.contains
    shard = true ∧ s.rangeReady fn (shardSlot (s.optCfg fn) r (s.shardCurSlot fn r) 0) (4 * shardN r) = true ∧
    s.devRead .islet fn (shardSlot (s.optCfg fn) r (s.shardCurSlot fn r) 0) (4 * shardN r) = (t, a) ∧ a.status = .ok ∧
    d.waiting.erase shard = [] :=
⟨(optAt 0 { digest := some { waiting := [0], own := none } } [optRec0, shardRec0]), 8, 0, (Option.get (((optAt 0
    { digest := some { waiting := [0], own := none } } [optRec0, shardRec0]).opt 8).digest) (by decide +kernel)),
    (Option.get (((optAt 0 { digest := some { waiting := [0], own := none } } [optRec0, shardRec0]).fnState
    8).shardRec 0) (by decide +kernel)), (((optAt 0 { digest := some { waiting := [0], own := none } } [optRec0,
    shardRec0]).devRead .islet 8 (shardSlot ((optAt 0 { digest := some { waiting := [0], own := none } } [optRec0,
    shardRec0]).optCfg 8) (Option.get (((optAt 0 { digest := some { waiting := [0], own := none } } [optRec0,
    shardRec0]).fnState 8).shardRec 0) (by decide +kernel)) ((optAt 0
    { digest := some { waiting := [0], own := none } } [optRec0, shardRec0]).shardCurSlot 8 (Option.get (((optAt 0
    { digest := some { waiting := [0], own := none } } [optRec0, shardRec0]).fnState 8).shardRec 0)
    (by decide +kernel))) 0) (4 * shardN (Option.get (((optAt 0 { digest := some { waiting := [0], own := none } }
    [optRec0, shardRec0]).fnState 8).shardRec 0) (by decide +kernel)))).1), (((optAt 0
    { digest := some { waiting := [0], own := none } } [optRec0, shardRec0]).devRead .islet 8 (shardSlot ((optAt 0
    { digest := some { waiting := [0], own := none } } [optRec0, shardRec0]).optCfg 8) (Option.get (((optAt 0
    { digest := some { waiting := [0], own := none } } [optRec0, shardRec0]).fnState 8).shardRec 0)
    (by decide +kernel)) ((optAt 0 { digest := some { waiting := [0], own := none } } [optRec0,
    shardRec0]).shardCurSlot 8 (Option.get (((optAt 0 { digest := some { waiting := [0], own := none } } [optRec0,
    shardRec0]).fnState 8).shardRec 0) (by decide +kernel))) 0) (4 * shardN (Option.get (((optAt 0
    { digest := some { waiting := [0], own := none } } [optRec0, shardRec0]).fnState 8).shardRec 0)
    (by decide +kernel)))).2), (Option.some_get _).symm, (Option.some_get _).symm, by decide +kernel,
    by decide +kernel, rfl, by decide +kernel, by decide +kernel⟩
theorem witness_OptimiserCommandsComplete_12 : ∃ (s : State) (fn : Nat) (stale : List Nat) (t : State) (u : State),
    (s.opt fn).adopting = some stale ∧ s.adoptRoom fn ((s.shardList fn).filter (fun r => stale.contains (shardIndex
    r))) = (t, true) ∧ t.adoptCopies fn ((s.shardList fn).filter (fun r => stale.contains (shardIndex r))) = (u, .ok) :=
⟨(optAt 0 { adopting := some [] } [optRec0]), 8, ([] : List Nat), (((optAt 0 { adopting := some [] }
    [optRec0]).adoptRoom 8 (((optAt 0 { adopting := some [] } [optRec0]).shardList 8).filter (fun r => ([] : List
    Nat).contains (shardIndex r)))).1), (((((optAt 0 { adopting := some [] } [optRec0]).adoptRoom 8 (((optAt 0
    { adopting := some [] } [optRec0]).shardList 8).filter (fun r => ([] : List Nat).contains (shardIndex
    r)))).1).adoptCopies 8 (((optAt 0 { adopting := some [] } [optRec0]).shardList 8).filter (fun r => ([] : List
    Nat).contains (shardIndex r)))).1), by decide +kernel, pairOf (by decide +kernel), pairOf (by decide +kernel)⟩
theorem witness_OptimiserCommandsComplete_13 : ∃ (s : State) (fn : Nat), (s.opt fn).adopting = none ∧ (s.opt fn).waits
    = 2 ∧ s.adoptBroken fn = false :=
⟨(optAt optUnloaded { waits := 2 } [optRecL, shardRecL]), 8, by decide +kernel, by decide +kernel, by decide +kernel⟩
theorem witness_QueueCommandsComplete_0 : ∃ (s : State) (fn : Nat) (q : Nat) (w : Word) (t : State), s.fnLive fn =
    true ∧ q < 64 ∧ t = (s.writeReg .SVC_Q_DB fn q w).straitOffer (capeIsland s.adapterPort) (s.commandDie fn) 1 1 ∧
    (t.fld .SVC_Q_DB_TAIL fn q + 2 ^ 32 - t.fld .SVC_Q_STAT_HEAD fn q) % 2 ^ 32 ≤ 2 ^ t.fld .SVC_Q_CFG_SIZE fn q :=
⟨live, 8, 63, 0, ((live.writeReg .SVC_Q_DB 8 63 0).straitOffer (capeIsland live.adapterPort) (live.commandDie 8) 1 1),
    by decide +kernel, by decide +kernel, rfl, by decide +kernel⟩
theorem witness_QueueCommandsComplete_1 : ∃ (s : State) (fn : Nat) (q : Nat) (ans : Answer) (t : State), s.fnLive fn =
    true ∧ q < 64 ∧ t = (if (s.queue fn q).fetching = 0 then s else s.setQueue fn q
    { s.queue fn q with fetching := (s.queue fn q).fetching - 1 }) ∧ t.fetchRoom fn q = true ∧ t.fnLive fn = true ∧
    t.restarting.contains (t.commandDie fn) = false ∧ s.fetchTurn fn q = true ∧ s.fld .SVC_Q_CFG_CMD_HOST fn q = 1 ∧
    s.hostReady fn (s.descAddr fn q (s.fld .SVC_Q_STAT_HEAD fn q)) 64 ans = true ∧ (t.hostAnswer fn (t.descAddr fn q
    (s.fld .SVC_Q_STAT_HEAD fn q)) 64 ans).2.status = .ok :=
⟨(((live.setFld .SVC_Q_STATE_STATE 8 63 queueActive).setFld .SVC_Q_DB_TAIL 8 63 1).setFld .SVC_Q_CFG_CMD_HOST 8 63 1),
    8, 63, ({ data := List.replicate 64 0 } : Answer), (if ((((live.setFld .SVC_Q_STATE_STATE 8 63 queueActive).setFld
    .SVC_Q_DB_TAIL 8 63 1).setFld .SVC_Q_CFG_CMD_HOST 8 63 1).queue 8 63).fetching = 0 then (((live.setFld
    .SVC_Q_STATE_STATE 8 63 queueActive).setFld .SVC_Q_DB_TAIL 8 63 1).setFld .SVC_Q_CFG_CMD_HOST 8 63 1) else
    (((live.setFld .SVC_Q_STATE_STATE 8 63 queueActive).setFld .SVC_Q_DB_TAIL 8 63 1).setFld .SVC_Q_CFG_CMD_HOST 8 63
    1).setQueue 8 63
    { (((live.setFld .SVC_Q_STATE_STATE 8 63 queueActive).setFld .SVC_Q_DB_TAIL 8 63 1).setFld .SVC_Q_CFG_CMD_HOST 8 63 1).queue 8 63 with fetching := ((((live.setFld .SVC_Q_STATE_STATE 8 63 queueActive).setFld .SVC_Q_DB_TAIL 8 63 1).setFld .SVC_Q_CFG_CMD_HOST 8 63 1).queue 8 63).fetching - 1 }),
    by decide +kernel, by decide +kernel, rfl, by decide +kernel, by decide +kernel, by decide +kernel,
    by decide +kernel, by decide +kernel, by decide +kernel, by decide +kernel⟩
theorem witness_QueueCommandsComplete_2 : ∃ (s : State) (fn : Nat) (q : Nat) (t : State), s.fnLive fn = true ∧ q < 64
    ∧ t = (if (s.queue fn q).fetching = 0 then s else s.setQueue fn q
    { s.queue fn q with fetching := (s.queue fn q).fetching - 1 }) ∧ t.fetchRoom fn q = true ∧ t.fnLive fn = true ∧
    t.restarting.contains (t.commandDie fn) = false ∧ s.fetchTurn fn q = true ∧ s.fld .SVC_Q_CFG_CMD_HOST fn q = 0 ∧
    s.rangeReady fn (s.descAddr fn q (s.fld .SVC_Q_STAT_HEAD fn q)) 64 = true ∧ (t.devRead .islet fn (t.descAddr fn q
    (s.fld .SVC_Q_STAT_HEAD fn q)) 64).2.status = .ok :=
⟨((mapped.setFld .SVC_Q_STATE_STATE 8 63 queueActive).setFld .SVC_Q_DB_TAIL 8 63 1), 8, 63, (if (((mapped.setFld
    .SVC_Q_STATE_STATE 8 63 queueActive).setFld .SVC_Q_DB_TAIL 8 63 1).queue 8 63).fetching = 0 then ((mapped.setFld
    .SVC_Q_STATE_STATE 8 63 queueActive).setFld .SVC_Q_DB_TAIL 8 63 1) else ((mapped.setFld .SVC_Q_STATE_STATE 8 63
    queueActive).setFld .SVC_Q_DB_TAIL 8 63 1).setQueue 8 63
    { ((mapped.setFld .SVC_Q_STATE_STATE 8 63 queueActive).setFld .SVC_Q_DB_TAIL 8 63 1).queue 8 63 with fetching := (((mapped.setFld .SVC_Q_STATE_STATE 8 63 queueActive).setFld .SVC_Q_DB_TAIL 8 63 1).queue 8 63).fetching - 1 }),
    by decide +kernel, by decide +kernel, rfl, by decide +kernel, by decide +kernel, by decide +kernel,
    by decide +kernel, by decide +kernel, by decide +kernel, by decide +kernel⟩
theorem witness_QueueCommandsComplete_3 : ∃ (s : State) (fn : Nat) (q : Nat) (r : CmdRef) (c : Command), s.nextCommand
    fn q = some (r, c) ∧ c.opcode = 0 :=
⟨(waits 0), 8, 63, cmdRef, (cmdOf 0), by decide +kernel, by decide +kernel⟩
theorem witness_QueueCommandsComplete_4 : ∃ (s : State) (fn : Nat) (q : Nat) (r : CmdRef) (c : Command), s.nextCommand
    fn q = some (r, c) ∧ c.opcode = 1 ∧ s.loading fn = false ∧ (s.fnState fn).loadsWaiting = [] :=
⟨(waits 1), 8, 63, cmdRef, (cmdOf 1), by decide +kernel, by decide +kernel, by decide +kernel, by decide +kernel⟩
theorem witness_QueueCommandsComplete_5 : ∃ (s : State) (fn : Nat) (q : Nat) (r : CmdRef) (c : Command), s.nextCommand
    fn q = some (r, c) ∧ c.opcode = 1 ∧ s.loading fn = true ∧ (s.fnState fn).loadsWaiting = [] :=
⟨((waits 1).setFld .IMG_LOAD_STAT_BUSY 8 0 1), 8, 63, cmdRef, (cmdOf 1), by decide +kernel, by decide +kernel,
    by decide +kernel, by decide +kernel⟩
theorem witness_QueueCommandsComplete_6 : ∃ (s : State) (fn : Nat) (q : Nat) (r : CmdRef) (c : Command) (t : State) (e
    : List Byte), s.nextCommand fn q = some (r, c) ∧ c.opcode = 2 ∧ s.launches.any (fun e => e.2.client == .command r)
    = false ∧ s.mayStart r (s.idAtolls fn (c.arg 8 2)) = (t, true) ∧ t.entryFor fn (c.arg 8 2) 0 = some e :=
⟨(installed (waits 2) 0), 8, 63, cmdRef, (cmdOf 2), (((installed (waits 2) 0).mayStart cmdRef ((installed (waits 2)
    0).idAtolls 8 ((cmdOf 2).arg 8 2))).1), (Option.get ((((installed (waits 2) 0).mayStart cmdRef ((installed (waits
    2) 0).idAtolls 8 ((cmdOf 2).arg 8 2))).1).entryFor 8 ((cmdOf 2).arg 8 2) 0) (by decide +kernel)),
    by decide +kernel, by decide +kernel, by decide +kernel, pairOf (by decide +kernel), (Option.some_get _).symm⟩
theorem witness_QueueCommandsComplete_7 : ∃ (s : State) (fn : Nat) (q : Nat) (r : CmdRef) (c : Command) (t : State) (u
    : State) (v : State) (a : Answer) (b : Answer) (e : List Byte), s.nextCommand fn q = some (r, c) ∧ c.opcode = 3 ∧
    (s.fnState fn).step = none ∧ s.mayStart r (s.trainAtolls fn (((s.fnState fn).entries.find? (fun z => entryId z ==
    c.arg 8 2)).getD [])) = (t, true) ∧ t.stepRefused fn (c.arg 8 2) = false ∧ (t.optState fn = optIdle ∨ t.optState
    fn = optStopped) ∧ c.arg 0xC 4 ≠ 0 ∧ c.arg 0x18 8 % 32 = 0 ∧ e = (t.entryFor fn (c.arg 8 2) 1).getD [] ∧
    t.entryUnsafe fn e = false ∧ t.rangeReady fn (c.arg 0x18 8) 64 = true ∧ t.devRead .islet fn (c.arg 0x18 8) 64 =
    (u, a) ∧ a.status = .ok ∧ u.rangeReady fn (bytesAt a.data 0 8) (entryParamLen e) = true ∧ u.devRead .islet fn
    (bytesAt a.data 0 8) (entryParamLen e) = (v, b) ∧ b.status = .ok ∧ (t.opt fn).waits = 0 ∧ c.arg 0x20 1 < 4 ∧
    stepBlockLegal a.data = true :=
⟨stepReady, 8, 63, cmdRef, stepCmd, stepT, stepU.1, stepV.1, stepU.2, stepV.2, stepE, by decide +kernel,
    by decide +kernel, by decide +kernel, pairOf (by decide +kernel), by decide +kernel, by decide +kernel,
    by decide +kernel, by decide +kernel, rfl, by decide +kernel, by decide +kernel, stepU_eq, by decide +kernel,
    by decide +kernel, stepV_eq, by decide +kernel, by decide +kernel, by decide +kernel, by decide +kernel⟩
theorem witness_QueueCommandsComplete_8 : ∃ (s : State) (fn : Nat) (q : Nat) (r : CmdRef) (c : Command) (t : State) (u
    : State) (ans : Answer), s.nextCommand fn q = some (r, c) ∧ c.opcode = 4 ∧ (s.fnState fn).gen = none ∧ s.mayStart
    r (s.entriesAtolls fn c.bytes) = (t, true) ∧ (c.arg 0x10 1 = 0 ∨ (c.arg 0x10 1 = 1 ∧ partReef t.pkg.part = true))
    ∧ 0 < c.arg 0x11 1 ∧ c.arg 0x11 1 ≤ 64 ∧ c.arg 0x18 8 % 64 = 0 ∧ c.arg 0x12 1 < 4 ∧ ((t.startCommand r).modFn fn
    (fun f => { f with gen := some { ref := r, ops := c.bytes } })).genStat fn = u ∧ u.slotsForbidden (u.genOpen fn
    ans) fn = false :=
⟨(queued { index := 7, bytes := leBytes 1 4 ++ List.replicate 16 0 ++ leBytes 1 64 ++ List.replicate 46 0 }), 8, 63,
    cmdRef, ({ index := 7, bytes := leBytes 1 4 ++ List.replicate 16 0 ++ leBytes 1 64 ++ List.replicate 46 0 } :
    Command), (((queued
    { index := 7, bytes := leBytes 1 4 ++ List.replicate 16 0 ++ leBytes 1 64 ++ List.replicate 46 0 }).mayStart
    cmdRef ((queued
    { index := 7, bytes := leBytes 1 4 ++ List.replicate 16 0 ++ leBytes 1 64 ++ List.replicate 46 0 }).entriesAtolls
    8 ({ index := 7, bytes := leBytes 1 4 ++ List.replicate 16 0 ++ leBytes 1 64 ++ List.replicate 46 0 } :
    Command).bytes)).1), ((((((queued
    { index := 7, bytes := leBytes 1 4 ++ List.replicate 16 0 ++ leBytes 1 64 ++ List.replicate 46 0 }).mayStart
    cmdRef ((queued
    { index := 7, bytes := leBytes 1 4 ++ List.replicate 16 0 ++ leBytes 1 64 ++ List.replicate 46 0 }).entriesAtolls
    8 ({ index := 7, bytes := leBytes 1 4 ++ List.replicate 16 0 ++ leBytes 1 64 ++ List.replicate 46 0 } :
    Command).bytes)).1).startCommand cmdRef).modFn 8 (fun f =>
    { f with gen := some { ref := cmdRef, ops := ({ index := 7, bytes := leBytes 1 4 ++ List.replicate 16 0 ++ leBytes 1 64 ++ List.replicate 46 0 } : Command).bytes } })).genStat
    8), ({} : Answer), by decide +kernel, by decide +kernel, by decide +kernel, pairOf (by decide +kernel),
    by decide +kernel, by decide +kernel, by decide +kernel, by decide +kernel, by decide +kernel, rfl,
    by decide +kernel⟩
theorem witness_QueueCommandsComplete_9 : ∃ (s : State) (fn : Nat) (q : Nat) (r : CmdRef) (c : Command), s.nextCommand
    fn q = some (r, c) ∧ c.opcode = 5 ∧ (s.fnState fn).mig.queue.length < 64 :=
⟨(waits 5), 8, 63, cmdRef, (cmdOf 5), by decide +kernel, by decide +kernel, by decide +kernel⟩
theorem witness_QueueCommandsComplete_10 : ∃ (s : State) (fn : Nat) (q : Nat) (r : CmdRef) (c : Command) (v :
    StepSvc), s.nextCommand fn q = some (r, c) ∧ c.opcode = 6 ∧ c.arg 8 1 = 0 ∧ c.arg 9 1 = 0 ∧ (s.fnState fn).step =
    some v :=
⟨((queued
    { index := 7, bytes := leBytes 1 6 ++ List.replicate 7 0 ++ leBytes 1 0 ++ leBytes 1 0 ++ List.replicate 54 0 }).modFn
    8 (fun f => { f with step := some {} })), 8, 63, cmdRef,
    ({ index := 7, bytes := leBytes 1 6 ++ List.replicate 7 0 ++ leBytes 1 0 ++ leBytes 1 0 ++ List.replicate 54 0 } :
    Command), (Option.get ((((queued
    { index := 7, bytes := leBytes 1 6 ++ List.replicate 7 0 ++ leBytes 1 0 ++ leBytes 1 0 ++ List.replicate 54 0 }).modFn
    8 (fun f => { f with step := some {} })).fnState 8).step) (by decide +kernel)), by decide +kernel,
    by decide +kernel, by decide +kernel, by decide +kernel, (Option.some_get _).symm⟩
theorem witness_QueueCommandsComplete_11 : ∃ (s : State) (fn : Nat) (q : Nat) (r : CmdRef) (c : Command) (g : GenSvc),
    s.nextCommand fn q = some (r, c) ∧ c.opcode = 6 ∧ c.arg 8 1 = 1 ∧ c.arg 9 1 = 0 ∧ (s.fnState fn).gen = some g ∧
    g.point ≠ .boundary :=
⟨((queued
    { index := 7, bytes := leBytes 1 6 ++ List.replicate 7 0 ++ leBytes 1 1 ++ leBytes 1 0 ++ List.replicate 54 0 }).modFn
    8 (fun f => { f with gen := some { point := .entries } })), 8, 63, cmdRef,
    ({ index := 7, bytes := leBytes 1 6 ++ List.replicate 7 0 ++ leBytes 1 1 ++ leBytes 1 0 ++ List.replicate 54 0 } :
    Command), (Option.get ((((queued
    { index := 7, bytes := leBytes 1 6 ++ List.replicate 7 0 ++ leBytes 1 1 ++ leBytes 1 0 ++ List.replicate 54 0 }).modFn
    8 (fun f => { f with gen := some { point := .entries } })).fnState 8).gen) (by decide +kernel)),
    by decide +kernel, by decide +kernel, by decide +kernel, by decide +kernel, (Option.some_get _).symm,
    by decide +kernel⟩
theorem witness_QueueCommandsComplete_12 : ∃ (s : State) (fn : Nat) (q : Nat) (r : CmdRef) (c : Command) (g : GenSvc),
    s.nextCommand fn q = some (r, c) ∧ c.opcode = 6 ∧ c.arg 8 1 = 1 ∧ c.arg 9 1 = 0 ∧ (s.fnState fn).gen = some g ∧
    g.point = .boundary :=
⟨((queued
    { index := 7, bytes := leBytes 1 6 ++ List.replicate 7 0 ++ leBytes 1 1 ++ leBytes 1 0 ++ List.replicate 54 0 }).modFn
    8 (fun f => { f with gen := some { point := .boundary } })), 8, 63, cmdRef,
    ({ index := 7, bytes := leBytes 1 6 ++ List.replicate 7 0 ++ leBytes 1 1 ++ leBytes 1 0 ++ List.replicate 54 0 } :
    Command), (Option.get ((((queued
    { index := 7, bytes := leBytes 1 6 ++ List.replicate 7 0 ++ leBytes 1 1 ++ leBytes 1 0 ++ List.replicate 54 0 }).modFn
    8 (fun f => { f with gen := some { point := .boundary } })).fnState 8).gen) (by decide +kernel)),
    by decide +kernel, by decide +kernel, by decide +kernel, by decide +kernel, (Option.some_get _).symm,
    by decide +kernel⟩
theorem witness_QueueCommandsComplete_13 : ∃ (s : State) (fn : Nat) (q : Nat) (r : CmdRef) (c : Command) (v :
    StepSvc), s.nextCommand fn q = some (r, c) ∧ c.opcode = 6 ∧ c.arg 8 1 = 0 ∧ c.arg 9 1 = 2 ∧ (s.fnState fn).step =
    some v :=
⟨((queued
    { index := 7, bytes := leBytes 1 6 ++ List.replicate 7 0 ++ leBytes 1 0 ++ leBytes 1 2 ++ List.replicate 54 0 }).modFn
    8 (fun f => { f with step := some {} })), 8, 63, cmdRef,
    ({ index := 7, bytes := leBytes 1 6 ++ List.replicate 7 0 ++ leBytes 1 0 ++ leBytes 1 2 ++ List.replicate 54 0 } :
    Command), (Option.get ((((queued
    { index := 7, bytes := leBytes 1 6 ++ List.replicate 7 0 ++ leBytes 1 0 ++ leBytes 1 2 ++ List.replicate 54 0 }).modFn
    8 (fun f => { f with step := some {} })).fnState 8).step) (by decide +kernel)), by decide +kernel,
    by decide +kernel, by decide +kernel, by decide +kernel, (Option.some_get _).symm⟩
theorem witness_QueueCommandsComplete_14 : ∃ (s : State) (fn : Nat) (q : Nat) (r : CmdRef) (c : Command) (g : GenSvc),
    s.nextCommand fn q = some (r, c) ∧ c.opcode = 6 ∧ c.arg 8 1 = 1 ∧ c.arg 9 1 = 2 ∧ (s.fnState fn).gen = some g ∧
    g.point ≠ .boundary :=
⟨((queued
    { index := 7, bytes := leBytes 1 6 ++ List.replicate 7 0 ++ leBytes 1 1 ++ leBytes 1 2 ++ List.replicate 54 0 }).modFn
    8 (fun f => { f with gen := some { point := .entries } })), 8, 63, cmdRef,
    ({ index := 7, bytes := leBytes 1 6 ++ List.replicate 7 0 ++ leBytes 1 1 ++ leBytes 1 2 ++ List.replicate 54 0 } :
    Command), (Option.get ((((queued
    { index := 7, bytes := leBytes 1 6 ++ List.replicate 7 0 ++ leBytes 1 1 ++ leBytes 1 2 ++ List.replicate 54 0 }).modFn
    8 (fun f => { f with gen := some { point := .entries } })).fnState 8).gen) (by decide +kernel)),
    by decide +kernel, by decide +kernel, by decide +kernel, by decide +kernel, (Option.some_get _).symm,
    by decide +kernel⟩
theorem witness_QueueCommandsComplete_15 : ∃ (s : State) (fn : Nat) (q : Nat) (r : CmdRef) (c : Command) (g : GenSvc),
    s.nextCommand fn q = some (r, c) ∧ c.opcode = 6 ∧ c.arg 8 1 = 1 ∧ c.arg 9 1 = 2 ∧ (s.fnState fn).gen = some g ∧
    g.point = .boundary :=
⟨((queued
    { index := 7, bytes := leBytes 1 6 ++ List.replicate 7 0 ++ leBytes 1 1 ++ leBytes 1 2 ++ List.replicate 54 0 }).modFn
    8 (fun f => { f with gen := some { point := .boundary } })), 8, 63, cmdRef,
    ({ index := 7, bytes := leBytes 1 6 ++ List.replicate 7 0 ++ leBytes 1 1 ++ leBytes 1 2 ++ List.replicate 54 0 } :
    Command), (Option.get ((((queued
    { index := 7, bytes := leBytes 1 6 ++ List.replicate 7 0 ++ leBytes 1 1 ++ leBytes 1 2 ++ List.replicate 54 0 }).modFn
    8 (fun f => { f with gen := some { point := .boundary } })).fnState 8).gen) (by decide +kernel)),
    by decide +kernel, by decide +kernel, by decide +kernel, by decide +kernel, (Option.some_get _).symm,
    by decide +kernel⟩
theorem witness_QueueCommandsComplete_16 : ∃ (s : State) (fn : Nat) (q : Nat) (r : CmdRef) (c : Command) (v :
    StepSvc), s.nextCommand fn q = some (r, c) ∧ c.opcode = 6 ∧ c.arg 8 1 = 0 ∧ c.arg 9 1 = 1 ∧ (s.fnState fn).step =
    some v :=
⟨((queued
    { index := 7, bytes := leBytes 1 6 ++ List.replicate 7 0 ++ leBytes 1 0 ++ leBytes 1 1 ++ List.replicate 54 0 }).modFn
    8 (fun f => { f with step := some {} })), 8, 63, cmdRef,
    ({ index := 7, bytes := leBytes 1 6 ++ List.replicate 7 0 ++ leBytes 1 0 ++ leBytes 1 1 ++ List.replicate 54 0 } :
    Command), (Option.get ((((queued
    { index := 7, bytes := leBytes 1 6 ++ List.replicate 7 0 ++ leBytes 1 0 ++ leBytes 1 1 ++ List.replicate 54 0 }).modFn
    8 (fun f => { f with step := some {} })).fnState 8).step) (by decide +kernel)), by decide +kernel,
    by decide +kernel, by decide +kernel, by decide +kernel, (Option.some_get _).symm⟩
theorem witness_QueueCommandsComplete_17 : ∃ (s : State) (fn : Nat) (q : Nat) (r : CmdRef) (c : Command) (g : GenSvc),
    s.nextCommand fn q = some (r, c) ∧ c.opcode = 6 ∧ c.arg 8 1 = 1 ∧ c.arg 9 1 = 1 ∧ (s.fnState fn).gen = some g :=
⟨((queued
    { index := 7, bytes := leBytes 1 6 ++ List.replicate 7 0 ++ leBytes 1 1 ++ leBytes 1 1 ++ List.replicate 54 0 }).modFn
    8 (fun f => { f with gen := some { point := .boundary } })), 8, 63, cmdRef,
    ({ index := 7, bytes := leBytes 1 6 ++ List.replicate 7 0 ++ leBytes 1 1 ++ leBytes 1 1 ++ List.replicate 54 0 } :
    Command), (Option.get ((((queued
    { index := 7, bytes := leBytes 1 6 ++ List.replicate 7 0 ++ leBytes 1 1 ++ leBytes 1 1 ++ List.replicate 54 0 }).modFn
    8 (fun f => { f with gen := some { point := .boundary } })).fnState 8).gen) (by decide +kernel)),
    by decide +kernel, by decide +kernel, by decide +kernel, by decide +kernel, (Option.some_get _).symm⟩
theorem witness_QueueCommandsComplete_18 : ∃ (s : State) (fn : Nat) (q : Nat) (addr : Nat) (phase : Nat) (c :
    Completion) (rest : List Completion) (t : State) (u : State), (s.queue fn q).cpls = c :: rest ∧ s.completionAddr
    fn q = (addr, phase) ∧ s.fnLive fn = true ∧ s.ringRoom fn q = true ∧ s.restarting.contains (s.commandDie fn) =
    false ∧ s.fld .SVC_Q_CFG_CPL_HOST fn q = 1 ∧ t = s.setQueue fn q { s.queue fn q with cpls := rest } ∧ t.hostUp =
    true ∧ u = t.hostWrite fn (t.commandDie fn) 1 addr (completionBytes q phase c) :=
⟨({ (linkUp.setFld .JL_PORT_STAT_STATE 0 0 portIsUp).setFld .SVC_Q_CFG_CPL_HOST 8 63 1 with queues := [(64 * 8 + 63, { cpls := [{}] })] }
    : State), 8, 63,
    ((({ (linkUp.setFld .JL_PORT_STAT_STATE 0 0 portIsUp).setFld .SVC_Q_CFG_CPL_HOST 8 63 1 with queues := [(64 * 8 + 63, { cpls := [{}] })] }
    : State).completionAddr 8 63).1),
    ((({ (linkUp.setFld .JL_PORT_STAT_STATE 0 0 portIsUp).setFld .SVC_Q_CFG_CPL_HOST 8 63 1 with queues := [(64 * 8 + 63, { cpls := [{}] })] }
    : State).completionAddr 8 63).2), ({} : Completion), ([] : List Completion),
    (({ (linkUp.setFld .JL_PORT_STAT_STATE 0 0 portIsUp).setFld .SVC_Q_CFG_CPL_HOST 8 63 1 with queues := [(64 * 8 + 63, { cpls := [{}] })] }
    : State).setQueue 8 63
    { ({ (linkUp.setFld .JL_PORT_STAT_STATE 0 0 portIsUp).setFld .SVC_Q_CFG_CPL_HOST 8 63 1 with queues := [(64 * 8 + 63, { cpls := [{}] })] } : State).queue 8 63 with cpls := ([] : List Completion) }),
    ((({ (linkUp.setFld .JL_PORT_STAT_STATE 0 0 portIsUp).setFld .SVC_Q_CFG_CPL_HOST 8 63 1 with queues := [(64 * 8 + 63, { cpls := [{}] })] }
    : State).setQueue 8 63
    { ({ (linkUp.setFld .JL_PORT_STAT_STATE 0 0 portIsUp).setFld .SVC_Q_CFG_CPL_HOST 8 63 1 with queues := [(64 * 8 + 63, { cpls := [{}] })] } : State).queue 8 63 with cpls := ([] : List Completion) }).hostWrite
    8
    ((({ (linkUp.setFld .JL_PORT_STAT_STATE 0 0 portIsUp).setFld .SVC_Q_CFG_CPL_HOST 8 63 1 with queues := [(64 * 8 + 63, { cpls := [{}] })] }
    : State).setQueue 8 63
    { ({ (linkUp.setFld .JL_PORT_STAT_STATE 0 0 portIsUp).setFld .SVC_Q_CFG_CPL_HOST 8 63 1 with queues := [(64 * 8 + 63, { cpls := [{}] })] } : State).queue 8 63 with cpls := ([] : List Completion) }).commandDie
    8) 1
    ((({ (linkUp.setFld .JL_PORT_STAT_STATE 0 0 portIsUp).setFld .SVC_Q_CFG_CPL_HOST 8 63 1 with queues := [(64 * 8 + 63, { cpls := [{}] })] }
    : State).completionAddr 8 63).1) (completionBytes 63
    ((({ (linkUp.setFld .JL_PORT_STAT_STATE 0 0 portIsUp).setFld .SVC_Q_CFG_CPL_HOST 8 63 1 with queues := [(64 * 8 + 63, { cpls := [{}] })] }
    : State).completionAddr 8 63).2) ({} : Completion))), by decide +kernel, rfl, by decide +kernel,
    by decide +kernel, by decide +kernel, by decide +kernel, rfl, by decide +kernel, rfl⟩
theorem witness_QueueCommandsComplete_19 : ∃ (s : State) (fn : Nat) (q : Nat) (addr : Nat) (phase : Nat) (c :
    Completion) (rest : List Completion) (t : State) (u : State) (v : State), (s.queue fn q).cpls = c :: rest ∧
    s.completionAddr fn q = (addr, phase) ∧ s.fnLive fn = true ∧ s.ringRoom fn q = true ∧ s.restarting.contains
    (s.commandDie fn) = false ∧ s.fld .SVC_Q_CFG_CPL_HOST fn q = 0 ∧ s.optForbids fn true addr 32 = false ∧
    s.prepareWrite fn addr 32 = (t, true) ∧ u = t.setQueue fn q { t.queue fn q with cpls := rest } ∧ u.devWrite .islet
    fn addr (completionBytes q phase c) = (v, .ok) :=
⟨({ mapped with queues := [(64 * 8 + 63, { cpls := [{}] })] } : State), 8, 63,
    ((({ mapped with queues := [(64 * 8 + 63, { cpls := [{}] })] } : State).completionAddr 8 63).1),
    ((({ mapped with queues := [(64 * 8 + 63, { cpls := [{}] })] } : State).completionAddr 8 63).2), ({} :
    Completion), ([] : List Completion), ((({ mapped with queues := [(64 * 8 + 63, { cpls := [{}] })] } :
    State).prepareWrite 8 ((({ mapped with queues := [(64 * 8 + 63, { cpls := [{}] })] } : State).completionAddr 8
    63).1) 32).1), (((({ mapped with queues := [(64 * 8 + 63, { cpls := [{}] })] } : State).prepareWrite 8
    ((({ mapped with queues := [(64 * 8 + 63, { cpls := [{}] })] } : State).completionAddr 8 63).1) 32).1).setQueue 8
    63
    { ((({ mapped with queues := [(64 * 8 + 63, { cpls := [{}] })] } : State).prepareWrite 8 ((({ mapped with queues := [(64 * 8 + 63, { cpls := [{}] })] } : State).completionAddr 8 63).1) 32).1).queue 8 63 with cpls := ([] : List Completion) }),
    (((((({ mapped with queues := [(64 * 8 + 63, { cpls := [{}] })] } : State).prepareWrite 8
    ((({ mapped with queues := [(64 * 8 + 63, { cpls := [{}] })] } : State).completionAddr 8 63).1) 32).1).setQueue 8
    63
    { ((({ mapped with queues := [(64 * 8 + 63, { cpls := [{}] })] } : State).prepareWrite 8 ((({ mapped with queues := [(64 * 8 + 63, { cpls := [{}] })] } : State).completionAddr 8 63).1) 32).1).queue 8 63 with cpls := ([] : List Completion) }).devWrite
    .islet 8 ((({ mapped with queues := [(64 * 8 + 63, { cpls := [{}] })] } : State).completionAddr 8 63).1)
    (completionBytes 63 ((({ mapped with queues := [(64 * 8 + 63, { cpls := [{}] })] } : State).completionAddr 8
    63).2) ({} : Completion))).1), by decide +kernel, rfl, by decide +kernel, by decide +kernel, by decide +kernel,
    by decide +kernel, by decide +kernel, pairOf (by decide +kernel), rfl, pairOf (by decide +kernel)⟩
theorem witness_QueueCommandsComplete_20 : ∃ (s : State) (fn : Nat) (q : Nat), s.fnLive fn = true ∧ q < 64 :=
⟨live, 8, 63, by decide +kernel, by decide +kernel⟩
theorem witness_QueueCommandsComplete_21 : ∃ (s : State) (fn : Nat) (q : Nat) (w : Word) (t : State), s.fnLive fn =
    true ∧ q < 64 ∧ s.fld .SVC_Q_STATE_STATE fn q = queueDisabled ∧ t = s.writeReg .SVC_Q_CFG fn q w ∧ t.fld
    .SVC_Q_CFG_ENABLE fn q = 1 :=
⟨live, 8, 63, 1, (live.writeReg .SVC_Q_CFG 8 63 1), by decide +kernel, by decide +kernel, by decide +kernel, rfl,
    by decide +kernel⟩
theorem witness_QueueCommandsComplete_22 : ∃ (s : State) (fn : Nat) (q : Nat) (w : Word) (t : State) (u : State),
    s.fnLive fn = true ∧ q < 64 ∧ (s.fld .SVC_Q_STATE_STATE fn q = queueActive ∨ s.fld .SVC_Q_STATE_STATE fn q =
    queueError) ∧ bit w.toNat 0 = false ∧ t = (s.setFld .SVC_Q_CFG_ENABLE fn q 0).setFld .SVC_Q_STATE_STATE fn q
    queueDraining ∧ u = t.setQueue fn q { t.queue fn q with fetching := 0 } :=
⟨(live.setFld .SVC_Q_STATE_STATE 8 63 queueActive), 8, 63, 0, (((live.setFld .SVC_Q_STATE_STATE 8 63
    queueActive).setFld .SVC_Q_CFG_ENABLE 8 63 0).setFld .SVC_Q_STATE_STATE 8 63 queueDraining), ((((live.setFld
    .SVC_Q_STATE_STATE 8 63 queueActive).setFld .SVC_Q_CFG_ENABLE 8 63 0).setFld .SVC_Q_STATE_STATE 8 63
    queueDraining).setQueue 8 63
    { (((live.setFld .SVC_Q_STATE_STATE 8 63 queueActive).setFld .SVC_Q_CFG_ENABLE 8 63 0).setFld .SVC_Q_STATE_STATE 8 63 queueDraining).queue 8 63 with fetching := 0 }),
    by decide +kernel, by decide +kernel, by decide +kernel, by decide +kernel, rfl, rfl⟩
theorem witness_QueueCommandsComplete_23 : ∃ (s : State) (fn : Nat) (q : Nat) (r : CmdRef) (c : Command),
    s.nextCommand fn q = some (r, c) ∧ c.opcode = 6 ∧ c.arg 8 1 = 0 ∧ c.arg 9 1 = 0 ∧ (s.fnState fn).step = none :=
⟨(waitsCtl 0 0), 8, 63, cmdRef, (ctlOf 0 0), by decide +kernel, by decide +kernel, by decide +kernel,
    by decide +kernel, by decide +kernel⟩
theorem witness_QueueCommandsComplete_24 : ∃ (s : State) (fn : Nat) (q : Nat) (r : CmdRef) (c : Command),
    s.nextCommand fn q = some (r, c) ∧ c.opcode = 6 ∧ c.arg 8 1 = 1 ∧ c.arg 9 1 = 0 ∧ (s.fnState fn).gen = none :=
⟨(waitsCtl 1 0), 8, 63, cmdRef, (ctlOf 1 0), by decide +kernel, by decide +kernel, by decide +kernel,
    by decide +kernel, by decide +kernel⟩
theorem witness_QueueCommandsComplete_25 : ∃ (s : State) (fn : Nat) (q : Nat) (r : CmdRef) (c : Command),
    s.nextCommand fn q = some (r, c) ∧ c.opcode = 6 ∧ c.arg 8 1 = 0 ∧ c.arg 9 1 = 1 ∧ (s.fnState fn).step = none :=
⟨(waitsCtl 0 1), 8, 63, cmdRef, (ctlOf 0 1), by decide +kernel, by decide +kernel, by decide +kernel,
    by decide +kernel, by decide +kernel⟩
theorem witness_QueueCommandsComplete_26 : ∃ (s : State) (fn : Nat) (q : Nat) (r : CmdRef) (c : Command),
    s.nextCommand fn q = some (r, c) ∧ c.opcode = 6 ∧ c.arg 8 1 = 1 ∧ c.arg 9 1 = 1 ∧ (s.fnState fn).gen = none :=
⟨(waitsCtl 1 1), 8, 63, cmdRef, (ctlOf 1 1), by decide +kernel, by decide +kernel, by decide +kernel,
    by decide +kernel, by decide +kernel⟩
theorem witness_QueueCommandsComplete_27 : ∃ (s : State) (fn : Nat) (q : Nat) (r : CmdRef) (c : Command),
    s.nextCommand fn q = some (r, c) ∧ c.opcode = 6 ∧ c.arg 8 1 = 0 ∧ c.arg 9 1 = 2 ∧ (s.fnState fn).step = none :=
⟨(waitsCtl 0 2), 8, 63, cmdRef, (ctlOf 0 2), by decide +kernel, by decide +kernel, by decide +kernel,
    by decide +kernel, by decide +kernel⟩
theorem witness_QueueCommandsComplete_28 : ∃ (s : State) (fn : Nat) (q : Nat) (r : CmdRef) (c : Command),
    s.nextCommand fn q = some (r, c) ∧ c.opcode = 6 ∧ c.arg 8 1 = 1 ∧ c.arg 9 1 = 2 ∧ (s.fnState fn).gen = none :=
⟨(waitsCtl 1 2), 8, 63, cmdRef, (ctlOf 1 2), by decide +kernel, by decide +kernel, by decide +kernel,
    by decide +kernel, by decide +kernel⟩
theorem witness_ServiceEventsComplete_0 : ∃ (s : State) (die : Nat) (core : Nat), die < 4 ∧ core < 4 :=
⟨live, 3, 3, by decide +kernel, by decide +kernel⟩
theorem witness_ServiceEventsComplete_1 : ∃ (s : State) (die : Nat) (a : Nat) (b : Nat) (c : Nat) (d : Nat), die < 4 ∧
    s.restarting.contains die = false ∧ (List.range 4).map (fun c => storeGet 0 s.watchdogs (4 * die + c)) = [a, b, c,
    d] :=
⟨live, 3, 0, 0, 0, 0, by decide +kernel, by decide +kernel, by decide +kernel⟩
theorem witness_ServiceEventsComplete_2 : ∃ (s : State) (die : Nat), s.restarting.contains die = true :=
⟨{ live with restarting := [3] }, 3, by decide +kernel⟩
theorem witness_ServiceEventsComplete_3 : ∃ (s : State) (fn : Nat) (v : StepSvc) (r : StepRec) (rest : List StepRec)
    (t : State), s.fnLive fn = true ∧ s.restarting.contains (s.commandDie fn) = false ∧ (s.fnState fn).step = some v ∧
    v.recs = r :: rest ∧ 4 ≤ bytesAt v.cb 0x20 1 ∧ bytesAt v.cb 0x20 1 ≤ 16 ∧ r.ckpts ≤ (s.fnState
    fn).ckptEnded.length ∧ s.optForbids fn true (bytesAt v.cb 0x18 8 + 64 * (v.seq % 2 ^ bytesAt v.cb 0x20 1)) 64 =
    false ∧ s.prepareWrite fn (bytesAt v.cb 0x18 8 + 64 * (v.seq % 2 ^ bytesAt v.cb 0x20 1)) 64 = (t, true) :=
⟨((stepping { cb := List.replicate 32 0 ++ leBytes 1 4, recs := [{}] } {}).modFn 8 (fun f =>
    { f with segs := (mapped.fnState 8).segs })), 8, (Option.get ((((stepping
    { cb := List.replicate 32 0 ++ leBytes 1 4, recs := [{}] } {}).modFn 8 (fun f =>
    { f with segs := (mapped.fnState 8).segs })).fnState 8).step) (by decide +kernel)), ({} : StepRec), ([] : List
    StepRec), ((((stepping { cb := List.replicate 32 0 ++ leBytes 1 4, recs := [{}] } {}).modFn 8 (fun f =>
    { f with segs := (mapped.fnState 8).segs })).prepareWrite 8 (bytesAt (Option.get ((((stepping
    { cb := List.replicate 32 0 ++ leBytes 1 4, recs := [{}] } {}).modFn 8 (fun f =>
    { f with segs := (mapped.fnState 8).segs })).fnState 8).step) (by decide +kernel)).cb 0x18 8 + 64 * ((Option.get
    ((((stepping { cb := List.replicate 32 0 ++ leBytes 1 4, recs := [{}] } {}).modFn 8 (fun f =>
    { f with segs := (mapped.fnState 8).segs })).fnState 8).step) (by decide +kernel)).seq % 2 ^ bytesAt (Option.get
    ((((stepping { cb := List.replicate 32 0 ++ leBytes 1 4, recs := [{}] } {}).modFn 8 (fun f =>
    { f with segs := (mapped.fnState 8).segs })).fnState 8).step) (by decide +kernel)).cb 0x20 1)) 64).1),
    by decide +kernel, by decide +kernel, (Option.some_get _).symm, by decide +kernel, by decide +kernel,
    by decide +kernel, by decide +kernel, by decide +kernel, pairOf (by decide +kernel)⟩
theorem witness_ServiceEventsComplete_4 : ∃ (s : State) (fn : Nat) (ans : Answer), s.fnLive fn = true ∧
    s.restarting.contains (s.commandDie fn) = false ∧ s.slotsForbidden (s.genOpen fn ans) fn = false :=
⟨live, 8, ({} : Answer), by decide +kernel, by decide +kernel, by decide +kernel⟩
theorem witness_ServiceEventsComplete_5 : ∃ (s : State) (fn : Nat) (k : Nat) (i : Nat) (b : Nat) (off : Nat) (r :
    Reg), regAt off = some (r, i, b) ∧ eventSource r = some k ∧ fn ≠ 0 ∧ s.windowOpen fn = true ∧ s.shows fn r
    (ownIndex r fn i) b = true :=
⟨live, 8, 6, 0, 0, 0x800008, (.SVC_EVT : Reg), by decide +kernel, by decide +kernel, by decide +kernel,
    by decide +kernel, by decide +kernel⟩
theorem witness_ServiceEventsComplete_6 : ∃ (s : State) (fn : Nat) (k : Nat), s.fnLive fn = true ∧ k < 7 :=
⟨live, 8, 6, by decide +kernel, by decide +kernel⟩
theorem witness_ServiceEventsComplete_7 : ∃ (s : State) (fn : Nat) (i : Nat) (b : Nat) (off : Nat) (r : Reg), regAt
    off = some (r, i, b) ∧ s.windowOpen fn = true ∧ s.shows fn r (ownIndex r fn i) b = true ∧ [Reg.MEM_XLATE_ADDR,
    .SVC_Q_DB, .SVC_Q_CPL_DB, .OPT_CTL, .REEF_ISSUE].contains r = false :=
⟨live, 8, 0, 0, 0x400000, (.MEM_CAP : Reg), by decide +kernel, by decide +kernel, by decide +kernel,
    by decide +kernel⟩
theorem witness_ServiceEventsComplete_8 : ∃ (s : State) (fn : Nat) (i : Nat) (b : Nat) (off : Nat) (w : Word), regAt
    off = some (.OPT_CTL, i, b) ∧ s.windowOpen fn = true ∧ s.shows fn .OPT_CTL (ownIndex .OPT_CTL fn i) b = true ∧
    (s.optAdopts fn w && s.adoptBroken fn) = false :=
⟨live, 8, 0, 0, 0x780000, 0, by decide +kernel, by decide +kernel, by decide +kernel, by decide +kernel⟩
theorem witness_ServiceEventsComplete_9 : ∃ (s : State) (fn : Nat) (i : Nat) (b : Nat) (off : Nat), regAt off = some
    (.MEM_XLATE_ADDR, i, b) ∧ s.windowOpen fn = true ∧ s.shows fn .MEM_XLATE_ADDR (ownIndex .MEM_XLATE_ADDR fn i) b =
    true :=
⟨live, 8, 0, 0, 0x400080, by decide +kernel, by decide +kernel, by decide +kernel⟩
theorem witness_ServiceEventsComplete_10 : ∃ (s : State) (fn : Nat) (i : Nat) (b : Nat) (off : Nat), regAt off = some
    (.SVC_Q_DB, i, b) ∧ s.windowOpen fn = true ∧ s.shows fn .SVC_Q_DB (ownIndex .SVC_Q_DB fn i) b = true :=
⟨live, 8, 0, 63, 0x801FD8, by decide +kernel, by decide +kernel, by decide +kernel⟩
theorem witness_ServiceEventsComplete_11 : ∃ (s : State) (fn : Nat) (i : Nat) (b : Nat) (off : Nat), regAt off = some
    (.SVC_Q_CPL_DB, i, b) ∧ s.windowOpen fn = true ∧ s.shows fn .SVC_Q_CPL_DB (ownIndex .SVC_Q_CPL_DB fn i) b = true :=
⟨live, 8, 0, 63, 0x801FE0, by decide +kernel, by decide +kernel, by decide +kernel⟩
theorem witness_ServiceEventsComplete_12 : ∃ (s : State) (fn : Nat) (i : Nat) (b : Nat) (off : Nat), regAt off = some
    (.REEF_ISSUE, i, b) ∧ s.windowOpen fn = true ∧ s.shows fn .REEF_ISSUE (ownIndex .REEF_ISSUE fn i) b = true :=
⟨live, 8, 7, 0, 0x507028, by decide +kernel, by decide +kernel, by decide +kernel⟩
theorem witness_ServiceEventsComplete_13 : ∃ (s : State) (i : Nat) (b : Nat) (off : Nat) (r : Reg), regAt off = some
    (r, i, b) ∧ s.ready = true ∧ [Reg.STR_ARB, .STR_EVT, .MEM_SCRUB_CFG, .JL_PORT_CFG, .JL_PORT_PIN].contains r = true
    ∧ s.shows 0 r i b = true :=
⟨live, 0, 0, 0x10118, (.STR_ARB : Reg), by decide +kernel, by decide +kernel, by decide +kernel, by decide +kernel⟩
theorem witness_ServiceEventsComplete_14 : ∃ (s : State) (fn : Nat) (i : Nat) (b : Nat) (off : Nat) (r : Reg), regAt
    off = some (r, i, b) ∧ (s.windowOpen fn = false ∨ s.shows fn r (ownIndex r fn i) b = false) :=
⟨board, 8, 0, 0, 0x400010, (.MEM_MIG_REQ : Reg), by decide +kernel, by decide +kernel⟩
theorem witness_PartitionCommandsComplete_0 : ∃ (s : State) (f : Nat) (w : Word), isFn f = true ∧ s.ready = true ∧ bit
    w.toNat 0 = true ∧ s.fnStateOf f = fnDisabled :=
⟨board, 8, 1, by decide +kernel, by decide +kernel, by decide +kernel, by decide +kernel⟩
theorem witness_PartitionCommandsComplete_1 : ∃ (s : State) (f : Nat) (w : Word), isFn f = true ∧ s.ready = true ∧ bit
    w.toNat 0 = false ∧ s.fnStateOf f = fnEnabledState :=
⟨live, 8, 0, by decide +kernel, by decide +kernel, by decide +kernel, by decide +kernel⟩
theorem witness_PartitionCommandsComplete_2 : ∃ (s : State) (f : Nat) (w : Word), isFn f = true ∧ s.ready = true ∧ bit
    w.toNat 0 = true ∧ bit w.toNat 1 = true ∧ s.fnStateOf f = fnEnabledState :=
⟨live, 8, 3, by decide +kernel, by decide +kernel, by decide +kernel, by decide +kernel, by decide +kernel⟩
theorem witness_PartitionCommandsComplete_3 : ∃ (s : State) (fn : Nat) (w : Word), s.fnLive fn = true ∧ bit w.toNat 0
    = true :=
⟨live, 8, 1, by decide +kernel, by decide +kernel⟩
theorem witness_PartitionCommandsComplete_4 : ∃ (s : State) (f : Nat), isFn f = true ∧ s.fnStateOf f = fnEnabling ∧
    storeGet 0 (s.enables f).enablePend f = 0 :=
⟨(board.setFld .SEC_GRANT_CTL_STATE 8 0 fnEnabling), 8, by decide +kernel, by decide +kernel, by decide +kernel⟩
theorem witness_PartitionCommandsComplete_5 : ∃ (s : State) (f : Nat), isFn f = true ∧ s.fnStateOf f = fnEnabling ∧
    storeGet 0 (s.enables f).enablePend f = 1 :=
⟨{ board.setFld .SEC_GRANT_CTL_STATE 8 0 fnEnabling with enablePend := [(8, 1)] }, 8, by decide +kernel,
    by decide +kernel, by decide +kernel⟩
theorem witness_PartitionCommandsComplete_6 : ∃ (s : State) (f : Nat), isFn f = true ∧ s.fnStateOf f = fnEnabling ∧
    storeGet 0 (s.enables f).enablePend f = 2 :=
⟨{ board.setFld .SEC_GRANT_CTL_STATE 8 0 fnEnabling with enablePend := [(8, 2)] }, 8, by decide +kernel,
    by decide +kernel, by decide +kernel⟩
theorem witness_PartitionCommandsComplete_7 : ∃ (s : State) (f : Nat), isFn f = true ∧ s.fnStateOf f = fnDraining ∧
    s.abortsWait f = false :=
⟨(board.setFld .SEC_GRANT_CTL_STATE 8 0 fnDraining), 8, by decide +kernel, by decide +kernel, by decide +kernel⟩
theorem witness_PartitionCommandsComplete_8 : ∃ (s : State) (off : Nat) (f : Nat) (j : Nat), regAt off = some
    (.SEC_GRANT_ATOLLS, f, j) ∧ isFn f = true ∧ s.ready = true ∧ s.fnStateOf f = fnDisabled :=
⟨board, 0x902008, 8, 0, by decide +kernel, by decide +kernel, by decide +kernel, by decide +kernel⟩
theorem witness_PartitionCommandsComplete_9 : ∃ (s : State) (off : Nat) (f : Nat) (j : Nat), regAt off = some
    (.SEC_GRANT_RES, f, j) ∧ isFn f = true ∧ s.ready = true ∧ s.fnStateOf f = fnDisabled :=
⟨board, 0x902010, 8, 0, by decide +kernel, by decide +kernel, by decide +kernel, by decide +kernel⟩
theorem witness_PartitionCommandsComplete_10 : ∃ (s : State) (off : Nat) (f : Nat) (j : Nat), regAt off = some
    (.SEC_GRANT_PORTS, f, j) ∧ isFn f = true ∧ s.ready = true ∧ s.fnStateOf f = fnDisabled :=
⟨board, 0x902018, 8, 0, by decide +kernel, by decide +kernel, by decide +kernel, by decide +kernel⟩
theorem witness_PartitionCommandsComplete_11 : ∃ (s : State) (off : Nat) (f : Nat) (j : Nat), regAt off = some
    (.SEC_GRANT_ML, f, j) ∧ isFn f = true ∧ s.ready = true ∧ s.fnStateOf f = fnDisabled :=
⟨board, 0x902020, 8, 0, by decide +kernel, by decide +kernel, by decide +kernel, by decide +kernel⟩
theorem witness_PartitionCommandsComplete_12 : ∃ (s : State) (fn : Nat) (w : Word), s.fnLive fn = true ∧ bit w.toNat 0
    = true ∧ s.fld (slotState (1 - s.currentSlot fn)) fn = 0 ∧ storeGet 0 s.rotations fn = 0 ∧ s.fld
    .SEC_DEV_STAT_DRBG ≠ 2 :=
⟨live, 8, 1, by decide +kernel, by decide +kernel, by decide +kernel, by decide +kernel, by decide +kernel⟩
theorem witness_PartitionCommandsComplete_13 : ∃ (s : State) (fn : Nat) (w : Word), s.fnLive fn = true ∧ bit w.toNat 0
    = true ∧ s.fld (slotState (1 - s.currentSlot fn)) fn ≠ 0 :=
⟨(live.setFld .SEC_KEY_STAT_SLOT1 8 0 2), 8, 1, by decide +kernel, by decide +kernel, by decide +kernel⟩
theorem witness_PartitionCommandsComplete_14 : ∃ (s : State) (f : Nat), isFn f = true ∧ storeGet 0 s.rotations f = 3 ∧
    (s.rotationEnds f).fld .SEC_DEV_STAT_DRBG ≠ 2 :=
⟨{ live with rotations := [(8, 3)] }, 8, by decide +kernel, by decide +kernel, by decide +kernel⟩
theorem witness_PartitionCommandsComplete_15 : ∃ (s : State) (f : Nat) (port : Nat) (upset : Nat) (addr : Nat) (pg :
    Page) (t : State), isFn f = true ∧ (s.mlPort port).current = none ∧ (s.mlPort port).lost = false ∧ s.sweepNext f
    port = some (addr, pg) ∧ s.mlUp port = true ∧ (s.addUpset pg.frame (frameByte pg.frame 0) upset).readWhole
    .migration f pg.frame (some addr) = (t, true) :=
⟨((mapped.modFn 8 (fun f =>
    { f with segs := [{ base := 0, pages := [{ frame := .board 15 3, slot := 0 }] }] })).setFld .SEC_KEY_STAT_SLOT0 8
    0 2).setFld .SEC_KEY_STAT_CURRENT 8 0 1, 8, 15, 0, (Option.get ((((mapped.modFn 8 (fun f =>
    { f with segs := [{ base := 0, pages := [{ frame := .board 15 3, slot := 0 }] }] })).setFld .SEC_KEY_STAT_SLOT0 8
    0 2).setFld .SEC_KEY_STAT_CURRENT 8 0 1).sweepNext 8 15) (by decide +kernel)).1, (Option.get ((((mapped.modFn 8
    (fun f => { f with segs := [{ base := 0, pages := [{ frame := .board 15 3, slot := 0 }] }] })).setFld
    .SEC_KEY_STAT_SLOT0 8 0 2).setFld .SEC_KEY_STAT_CURRENT 8 0 1).sweepNext 8 15) (by decide +kernel)).2,
    ((((((mapped.modFn 8 (fun f =>
    { f with segs := [{ base := 0, pages := [{ frame := .board 15 3, slot := 0 }] }] })).setFld .SEC_KEY_STAT_SLOT0 8
    0 2).setFld .SEC_KEY_STAT_CURRENT 8 0 1).addUpset (Option.get ((((mapped.modFn 8 (fun f =>
    { f with segs := [{ base := 0, pages := [{ frame := .board 15 3, slot := 0 }] }] })).setFld .SEC_KEY_STAT_SLOT0 8
    0 2).setFld .SEC_KEY_STAT_CURRENT 8 0 1).sweepNext 8 15) (by decide +kernel)).2.frame (frameByte (Option.get
    ((((mapped.modFn 8 (fun f =>
    { f with segs := [{ base := 0, pages := [{ frame := .board 15 3, slot := 0 }] }] })).setFld .SEC_KEY_STAT_SLOT0 8
    0 2).setFld .SEC_KEY_STAT_CURRENT 8 0 1).sweepNext 8 15) (by decide +kernel)).2.frame 0) 0).readWhole .migration 8
    (Option.get ((((mapped.modFn 8 (fun f =>
    { f with segs := [{ base := 0, pages := [{ frame := .board 15 3, slot := 0 }] }] })).setFld .SEC_KEY_STAT_SLOT0 8
    0 2).setFld .SEC_KEY_STAT_CURRENT 8 0 1).sweepNext 8 15) (by decide +kernel)).2.frame (some (Option.get
    ((((mapped.modFn 8 (fun f =>
    { f with segs := [{ base := 0, pages := [{ frame := .board 15 3, slot := 0 }] }] })).setFld .SEC_KEY_STAT_SLOT0 8
    0 2).setFld .SEC_KEY_STAT_CURRENT 8 0 1).sweepNext 8 15) (by decide +kernel)).1)).1), by decide +kernel,
    by decide +kernel, by decide +kernel, somePair (by decide +kernel), by decide +kernel, pairOf (by decide +kernel)⟩
theorem witness_PartitionCommandsComplete_16 : ∃ (s : State) (f : Nat) (port : Nat) (mv : PageMove) (pg : Page),
    (s.mlPort port).current = some mv ∧ mv.kind = .sweep ∧ mv.fn = f ∧ (s.mlPort port).lost = false ∧ s.pageAt f
    mv.addr = some pg ∧ (s.unserved.portNext port).mlUp port = true :=
⟨(moving { fn := 8, addr := 65536, kind := .sweep, target := .board 15 3 }), 8, 15, (Option.get (((moving
    { fn := 8, addr := 65536, kind := .sweep, target := .board 15 3 }).mlPort 15).current) (by decide +kernel)),
    (Option.get ((moving { fn := 8, addr := 65536, kind := .sweep, target := .board 15 3 }).pageAt 8 (Option.get
    (((moving { fn := 8, addr := 65536, kind := .sweep, target := .board 15 3 }).mlPort 15).current)
    (by decide +kernel)).addr) (by decide +kernel)), (Option.some_get _).symm, by decide +kernel, by decide +kernel,
    by decide +kernel, (Option.some_get _).symm, by decide +kernel⟩
theorem witness_PartitionCommandsComplete_17 : ∃ (s : State), s.heldInReset = false :=
⟨live, by decide +kernel⟩
theorem witness_PartitionCommandsComplete_18 : ∃ (s : State), s.fld .SEC_DEV_STAT_DRBG = 1 :=
⟨live, by decide +kernel⟩
theorem witness_GovernorCommandsComplete_0 : ∃ (s : State) (islet : Nat), islet < 384 ∧ (s.islet
    islet).mx.waking.isSome = true ∧ (storeGet [] s.gov.queues (islDie islet)).contains (.wake islet) = false ∧
    s.wayOpen (islDie islet) 16 = true :=
⟨(live.modIslet 383 (fun x => { x with mx := { waking := some 0 } })), 383, by decide +kernel, by decide +kernel,
    by decide +kernel, by decide +kernel⟩
theorem witness_GovernorCommandsComplete_1 : ∃ (s : State) (die : Nat) (point : Nat), point ≤ 14 ∧ die < 4 ∧
    s.restarting.contains die = false ∧ s.wayOpen die 16 = true ∧ s.pins.tripped = false :=
⟨live, 3, 14, by decide +kernel, by decide +kernel, by decide +kernel, by decide +kernel, by decide +kernel⟩
theorem witness_GovernorCommandsComplete_2 : ∃ (s : State) (die : Nat) (point : Nat), point ≤ 14 ∧ 4 ≤ die ∧ die < 6 ∧
    s.lead.leader (die == 5) < 4 ∧ s.heldEpoch (s.lead.leader (die == 5)) ≠ 0 ∧ s.wayOpen (s.lead.leader (die == 5))
    16 = true ∧ s.pins.tripped = false :=
⟨leading, 5, 14, by decide +kernel, by decide +kernel, by decide +kernel, by decide +kernel, by decide +kernel,
    by decide +kernel, by decide +kernel⟩
theorem witness_GovernorCommandsComplete_3 : ∃ (s : State) (t : State) (u : State), s.pins.tripped = false ∧ t = (if
    s.gov.window < govWindow (s.count 16) then s else s.setCount 16 (max (s.count 16) (4000 * (s.gov.window + 1) +
    1))) ∧ u = t.modGov (fun g => { g with window := govWindow (t.count 16), wakes := [] }) :=
⟨live, (if live.gov.window < govWindow (live.count 16) then live else live.setCount 16 (max (live.count 16) (4000 *
    (live.gov.window + 1) + 1))), ((if live.gov.window < govWindow (live.count 16) then live else live.setCount 16
    (max (live.count 16) (4000 * (live.gov.window + 1) + 1))).modGov (fun g =>
    { g with window := govWindow ((if live.gov.window < govWindow (live.count 16) then live else live.setCount 16 (max (live.count 16) (4000 * (live.gov.window + 1) + 1))).count 16), wakes := [] })),
    by decide +kernel, rfl, rfl⟩
theorem witness_GovernorCommandsComplete_4 : ∃ (s : State) (die : Nat) (e : Nat) (rest : List Nat) (t : State),
    (s.gov.charges.filter (fun c => c.1 == die)).map (fun c => c.2.2) = e :: rest ∧ t = s.reachCount 16 (rest.foldl
    min e) :=
⟨{ live with gov := { live.gov with charges := [(3, 6, 750)] } }, 3, 750, ([] : List Nat),
    ({ live with gov := { live.gov with charges := [(3, 6, 750)] } }.reachCount 16 (([] : List Nat).foldl min 750)),
    by decide +kernel, rfl⟩
theorem witness_GovernorCommandsComplete_6 : ∃ (s : State), s.ready = true ∧ partReef s.pkg.part = true :=
⟨live, by decide +kernel, by decide +kernel⟩
theorem witness_GovernorCommandsComplete_7 : ∃ (s : State) (die : Nat) (p : Nat), s.dvfsChange die = some (p, 1) :=
⟨{ live with gov := { live.gov with changes := [(3, 14, 1)] } }, 3, 14, by decide +kernel⟩
theorem witness_GovernorCommandsComplete_8 : ∃ (s : State) (island : Nat) (p : Nat) (t : State), s.relocking island =
    true ∧ (s.setFld .STR_ISLAND_CLK_RELOCK island 0 0).dvfsChange island = some (p, 2) ∧ t = ((((((s.setFld
    .STR_ISLAND_CLK_RELOCK island 0 0).modGov (fun g => { g with changes := storeErase g.changes island })).setFld
    .STR_ISLAND_CLK_POINT island 0 p).setFld .STR_ISLAND_CLK_FREQ_MHZ island 0 (600 + 50 * p)).driveCode island
    p).lowersNext island) ∧ (∀ e ∈ dieLanes island, t.laneTake e.1 (straitReader e.1 true == island) e.2 = none) :=
⟨({ live with gov := { live.gov with changes := [(3, 14, 2)] } } : State).setFld .STR_ISLAND_CLK_RELOCK 3 0 1, 3, 14,
    (((((((({ live with gov := { live.gov with changes := [(3, 14, 2)] } } : State).setFld .STR_ISLAND_CLK_RELOCK 3 0
    1).setFld .STR_ISLAND_CLK_RELOCK 3 0 0).modGov (fun g => { g with changes := storeErase g.changes 3 })).setFld
    .STR_ISLAND_CLK_POINT 3 0 14).setFld .STR_ISLAND_CLK_FREQ_MHZ 3 0 (600 + 50 * 14)).driveCode 3 14).lowersNext 3),
    by decide +kernel, by decide +kernel, rfl, by decide +kernel⟩
theorem witness_GovernorCommandsComplete_9 : ∃ (s : State) (island : Nat) (t : State), s.relocking island = true ∧ t =
    s.setFld .STR_ISLAND_CLK_RELOCK island 0 0 ∧ t.dvfsChange island = none ∧ (∀ e ∈ dieLanes island, t.laneTake e.1
    (straitReader e.1 true == island) e.2 = none) :=
⟨(live.setFld .STR_ISLAND_CLK_RELOCK 17 0 1), 17, ((live.setFld .STR_ISLAND_CLK_RELOCK 17 0 1).setFld
    .STR_ISLAND_CLK_RELOCK 17 0 0), by decide +kernel, rfl, by decide +kernel, by decide +kernel⟩
theorem witness_GovernorCommandsComplete_10 : ∃ (s : State) (temps : List Nat) (dram : List Nat) (t : State),
    s.pins.tripped = false ∧ t = (((s.tempTraffic temps.length).writeTemps temps).writeDram dram).crossings s ∧
    (temps.take 18).any (fun t => decide (125 ≤ t)) = false ∧ (dram.take 8).any (fun t => decide (110 ≤ t)) = false :=
⟨live, ([124, 30] : List Nat), ([109] : List Nat), ((((live.tempTraffic ([124, 30] : List Nat).length).writeTemps
    ([124, 30] : List Nat)).writeDram ([109] : List Nat)).crossings live), by decide +kernel, rfl, by decide +kernel,
    by decide +kernel⟩
theorem witness_GovernorCommandsComplete_11 : ∃ (s : State) (temps : List Nat) (dram : List Nat), s.pins.tripped =
    false ∧ ((temps.take 18).any (fun t => decide (125 ≤ t)) = true ∨ (dram.take 8).any (fun t => decide (110 ≤ t)) =
    true) :=
⟨live, ([125] : List Nat), ([] : List Nat), by decide +kernel, by decide +kernel⟩
theorem witness_GovernorCommandsComplete_12 : ∃ (s : State) (die : Nat) (t : State) (u : State), die < 4 ∧
    s.pins.tripped = false ∧ storeGet 0 s.gov.capMode die = 3 ∧ t = s.reachCount 16 (storeGet 0 s.gov.capAt die +
    10000000) ∧ u = t.modGov (fun g => { g with capAt := storeSet 0 g.capAt die (t.count 16) }) ∧ s.fld
    .HBR_GOV_POINT_CAP die + 1 < u.pointMax die :=
⟨({ live with gov := { live.gov with capMode := [(3, 3)] } } : State).setFld .HBR_GOV_POINT_CAP 3 0 5, 3,
    ((({ live with gov := { live.gov with capMode := [(3, 3)] } } : State).setFld .HBR_GOV_POINT_CAP 3 0 5).reachCount
    16 (storeGet 0 (({ live with gov := { live.gov with capMode := [(3, 3)] } } : State).setFld .HBR_GOV_POINT_CAP 3 0
    5).gov.capAt 3 + 10000000)), (((({ live with gov := { live.gov with capMode := [(3, 3)] } } : State).setFld
    .HBR_GOV_POINT_CAP 3 0 5).reachCount 16 (storeGet 0 (({ live with gov := { live.gov with capMode := [(3, 3)] } } :
    State).setFld .HBR_GOV_POINT_CAP 3 0 5).gov.capAt 3 + 10000000)).modGov (fun g =>
    { g with capAt := storeSet 0 g.capAt 3 (((({ live with gov := { live.gov with capMode := [(3, 3)] } } : State).setFld .HBR_GOV_POINT_CAP 3 0 5).reachCount 16 (storeGet 0 (({ live with gov := { live.gov with capMode := [(3, 3)] } } : State).setFld .HBR_GOV_POINT_CAP 3 0 5).gov.capAt 3 + 10000000)).count 16) })),
    by decide +kernel, by decide +kernel, by decide +kernel, rfl, rfl, by decide +kernel⟩
theorem witness_GovernorCommandsComplete_13 : ∃ (s : State) (die : Nat) (t : State) (u : State), die < 4 ∧
    s.pins.tripped = false ∧ storeGet 0 s.gov.capMode die = 3 ∧ t = s.reachCount 16 (storeGet 0 s.gov.capAt die +
    10000000) ∧ u = t.modGov (fun g => { g with capAt := storeSet 0 g.capAt die (t.count 16) }) ∧ s.fld
    .HBR_GOV_POINT_CAP die + 1 = u.pointMax die :=
⟨({ live with gov := { live.gov with capMode := [(3, 3)] } } : State).setFld .HBR_GOV_POINT_CAP 3 0 13, 3,
    ((({ live with gov := { live.gov with capMode := [(3, 3)] } } : State).setFld .HBR_GOV_POINT_CAP 3 0
    13).reachCount 16 (storeGet 0 (({ live with gov := { live.gov with capMode := [(3, 3)] } } : State).setFld
    .HBR_GOV_POINT_CAP 3 0 13).gov.capAt 3 + 10000000)),
    (((({ live with gov := { live.gov with capMode := [(3, 3)] } } : State).setFld .HBR_GOV_POINT_CAP 3 0
    13).reachCount 16 (storeGet 0 (({ live with gov := { live.gov with capMode := [(3, 3)] } } : State).setFld
    .HBR_GOV_POINT_CAP 3 0 13).gov.capAt 3 + 10000000)).modGov (fun g =>
    { g with capAt := storeSet 0 g.capAt 3 (((({ live with gov := { live.gov with capMode := [(3, 3)] } } : State).setFld .HBR_GOV_POINT_CAP 3 0 13).reachCount 16 (storeGet 0 (({ live with gov := { live.gov with capMode := [(3, 3)] } } : State).setFld .HBR_GOV_POINT_CAP 3 0 13).gov.capAt 3 + 10000000)).count 16) })),
    by decide +kernel, by decide +kernel, by decide +kernel, rfl, rfl, by decide +kernel⟩
theorem witness_GovernorCommandsComplete_14 : ∃ (s : State) (die : Nat) (t : State) (u : State), die < 4 ∧
    s.pins.tripped = false ∧ storeGet 0 s.gov.capMode die = 2 ∧ t = s.reachCount 16 (storeGet 0 s.gov.capAt die +
    1000000) ∧ u = ((t.modGov (fun g => { g with capAt := storeSet 0 g.capAt die (t.count 16) })).setFld
    .HBR_GOV_POINT_CAP die 0 (s.fld .HBR_GOV_POINT_CAP die - 1)).modGov (fun g =>
    { g with capMode := storeSet 0 g.capMode die 2 }) :=
⟨({ live with gov := { live.gov with capMode := [(3, 2)] } } : State), 3,
    (({ live with gov := { live.gov with capMode := [(3, 2)] } } : State).reachCount 16 (storeGet 0
    ({ live with gov := { live.gov with capMode := [(3, 2)] } } : State).gov.capAt 3 + 1000000)),
    ((((({ live with gov := { live.gov with capMode := [(3, 2)] } } : State).reachCount 16 (storeGet 0
    ({ live with gov := { live.gov with capMode := [(3, 2)] } } : State).gov.capAt 3 + 1000000)).modGov (fun g =>
    { g with capAt := storeSet 0 g.capAt 3 ((({ live with gov := { live.gov with capMode := [(3, 2)] } } : State).reachCount 16 (storeGet 0 ({ live with gov := { live.gov with capMode := [(3, 2)] } } : State).gov.capAt 3 + 1000000)).count 16) })).setFld
    .HBR_GOV_POINT_CAP 3 0 (({ live with gov := { live.gov with capMode := [(3, 2)] } } : State).fld
    .HBR_GOV_POINT_CAP 3 - 1)).modGov (fun g => { g with capMode := storeSet 0 g.capMode 3 2 })), by decide +kernel,
    by decide +kernel, by decide +kernel, rfl, rfl⟩
theorem witness_GovernorCommandsComplete_15 : ∃ (s : State) (die : Nat) (t : State) (u : State), die < 4 ∧
    s.pins.tripped = false ∧ storeGet 0 s.gov.capMode die = 1 ∧ t = s.reachCount 16 (storeGet 0 s.gov.capAt die +
    1000000) ∧ u = ((t.modGov (fun g => { g with capAt := storeSet 0 g.capAt die (t.count 16) })).setFld
    .HBR_GOV_POINT_CAP die 0 (s.fld .HBR_GOV_POINT_CAP die - 1)).modGov (fun g =>
    { g with capMode := storeSet 0 g.capMode die 2 }) :=
⟨({ live with gov := { live.gov with capMode := [(3, 1)] } } : State), 3,
    (({ live with gov := { live.gov with capMode := [(3, 1)] } } : State).reachCount 16 (storeGet 0
    ({ live with gov := { live.gov with capMode := [(3, 1)] } } : State).gov.capAt 3 + 1000000)),
    ((((({ live with gov := { live.gov with capMode := [(3, 1)] } } : State).reachCount 16 (storeGet 0
    ({ live with gov := { live.gov with capMode := [(3, 1)] } } : State).gov.capAt 3 + 1000000)).modGov (fun g =>
    { g with capAt := storeSet 0 g.capAt 3 ((({ live with gov := { live.gov with capMode := [(3, 1)] } } : State).reachCount 16 (storeGet 0 ({ live with gov := { live.gov with capMode := [(3, 1)] } } : State).gov.capAt 3 + 1000000)).count 16) })).setFld
    .HBR_GOV_POINT_CAP 3 0 (({ live with gov := { live.gov with capMode := [(3, 1)] } } : State).fld
    .HBR_GOV_POINT_CAP 3 - 1)).modGov (fun g => { g with capMode := storeSet 0 g.capMode 3 2 })), by decide +kernel,
    by decide +kernel, by decide +kernel, rfl, rfl⟩
theorem witness_LeadAndGateCommandsComplete_0 : ∃ (s : State) (west : Bool) (t : State), s.lead.leader west < 4 ∧
    s.straitCarries (18 + s.lead.leader west) = true ∧ t = s.straitOffer (s.lead.leader west) 16 2 1 ∧ t.lead.holder =
    some west :=
⟨leading, true, (leading.straitOffer (leading.lead.leader true) 16 2 1), by decide +kernel, by decide +kernel, rfl,
    by decide +kernel⟩
theorem witness_LeadAndGateCommandsComplete_1 : ∃ (s : State) (west : Bool) (t : State), s.lead.leader west < 4 ∧
    s.straitCarries (18 + s.lead.leader west) = true ∧ t = s.straitOffer (s.lead.leader west) 16 2 1 ∧ t.lead.holder =
    none ∧ t.lead.wants.contains west = false :=
⟨live, false, (live.straitOffer (live.lead.leader false) 16 2 1), by decide +kernel, by decide +kernel, rfl,
    by decide +kernel, by decide +kernel⟩
theorem witness_LeadAndGateCommandsComplete_2 : ∃ (s : State) (west : Bool) (t : State), s.lead.leader west < 4 ∧
    s.straitCarries (18 + s.lead.leader west) = true ∧ t = s.straitOffer (s.lead.leader west) 16 2 1 ∧ t.lead.holder =
    some (!west) ∧ t.lead.wants.contains west = false ∧ t.lead.asked = false :=
⟨leading, false, (leading.straitOffer (leading.lead.leader false) 16 2 1), by decide +kernel, by decide +kernel, rfl,
    by decide +kernel, by decide +kernel, by decide +kernel⟩
theorem witness_LeadAndGateCommandsComplete_3 : ∃ (s : State) (west : Bool), s.lead.holder = some west ∧ s.lead.asked
    = true ∧ s.actions.any (fun e => s.actionHalf e.2 == west) = false ∧ s.lead.leader west < 4 :=
⟨{ leading with lead := { leading.lead with asked := true } }, true, by decide +kernel, by decide +kernel,
    by decide +kernel, by decide +kernel⟩
theorem witness_LeadAndGateCommandsComplete_4 : ∃ (s : State) (west : Bool) (rest : List Bool) (t : State),
    s.lead.holder = none ∧ s.lead.granting = none ∧ s.lead.wants = west :: rest ∧ s.lead.leader west < 4 ∧ t =
    s.grantBegins west ∧ t.gatesHold = false :=
⟨{ live with lead := { live.lead with wants := [true] } }, true, ([] : List Bool),
    ({ live with lead := { live.lead with wants := [true] } }.grantBegins true), by decide +kernel, by decide +kernel,
    by decide +kernel, by decide +kernel, rfl, by decide +kernel⟩
theorem witness_LeadAndGateCommandsComplete_5 : ∃ (s : State) (west : Bool) (rest : List Bool) (t : State),
    s.lead.holder = none ∧ s.lead.granting = none ∧ s.lead.wants = west :: rest ∧ s.lead.leader west < 4 ∧ t =
    s.grantBegins west ∧ t.gatesHold = true :=
⟨{ acting { dies := [3], holding := [(3, 1)] } with lead := { live.lead with wants := [true] } }, true, ([] : List
    Bool),
    ({ acting { dies := [3], holding := [(3, 1)] } with lead := { live.lead with wants := [true] } }.grantBegins
    true), by decide +kernel, by decide +kernel, by decide +kernel, by decide +kernel, rfl, by decide +kernel⟩
theorem witness_LeadAndGateCommandsComplete_6 : ∃ (s : State) (west : Bool) (c : Nat), s.lead.holder = none ∧
    s.lead.granting = some (west, c) ∧ s.lead.leader west < 4 :=
⟨{ live with lead := { live.lead with wants := [true], granting := some (true, 0) } }, true, 0, by decide +kernel,
    by decide +kernel, by decide +kernel⟩
theorem witness_LeadAndGateCommandsComplete_7 : ∃ (s : State), s.lead.holder.isSome = true ∧ s.lead.asked = true :=
⟨{ leading with lead := { leading.lead with asked := true } }, by decide +kernel, by decide +kernel⟩
theorem witness_LeadAndGateCommandsComplete_8 : ∃ (s : State) (west : Bool) (d : Nat), 4 ≤ s.lead.leader west ∧
    ((halfDies west).filter (· ≠ if west then s.fld .HBR_LEAD_WEST_LEADER else s.fld .HBR_LEAD_EAST_LEADER) ++ [if
    west then s.fld .HBR_LEAD_WEST_LEADER else s.fld .HBR_LEAD_EAST_LEADER]).find? s.mayLead = some d :=
⟨({ live with lead := { westLeader := 4 } } : State), true, (Option.get (((halfDies true).filter (· ≠ if true then
    ({ live with lead := { westLeader := 4 } } : State).fld .HBR_LEAD_WEST_LEADER else
    ({ live with lead := { westLeader := 4 } } : State).fld .HBR_LEAD_EAST_LEADER) ++ [if true then
    ({ live with lead := { westLeader := 4 } } : State).fld .HBR_LEAD_WEST_LEADER else
    ({ live with lead := { westLeader := 4 } } : State).fld .HBR_LEAD_EAST_LEADER]).find?
    ({ live with lead := { westLeader := 4 } } : State).mayLead) (by decide +kernel)), by decide +kernel,
    (Option.some_get _).symm⟩
theorem witness_LeadAndGateCommandsComplete_9 : ∃ (s : State) (act : Nat) (gate : Nat) (a : Action) (t : State),
    s.action act = some a ∧ a.phase = 0 ∧ a.dies.contains gate = true ∧ a.answered.contains gate = false ∧ s.wayOpen
    a.src gate = true ∧ t = s.straitOffer gate a.src (actionClass a.kind) 1 ∧ storeGet 0 t.lead.gateEpoch gate =
    a.epoch ∧ a.epoch ≠ 0 :=
⟨({ acting { src := 3, epoch := 1, dies := [3] } with lead := leading.lead } : State), 5, 3, (Option.get
    (({ acting { src := 3, epoch := 1, dies := [3] } with lead := leading.lead } : State).action 5)
    (by decide +kernel)), (({ acting { src := 3, epoch := 1, dies := [3] } with lead := leading.lead } :
    State).straitOffer 3 (Option.get (({ acting { src := 3, epoch := 1, dies := [3] } with lead := leading.lead } :
    State).action 5) (by decide +kernel)).src (actionClass (Option.get
    (({ acting { src := 3, epoch := 1, dies := [3] } with lead := leading.lead } : State).action 5)
    (by decide +kernel)).kind) 1), (Option.some_get _).symm, by decide +kernel, by decide +kernel, by decide +kernel,
    by decide +kernel, rfl, by decide +kernel, by decide +kernel⟩
theorem witness_LeadAndGateCommandsComplete_10 : ∃ (s : State) (act : Nat) (gate : Nat) (a : Action) (t : State),
    s.action act = some a ∧ a.phase = 0 ∧ a.dies.contains gate = true ∧ a.answered.contains gate = false ∧ s.wayOpen
    a.src gate = true ∧ t = s.straitOffer gate a.src (actionClass a.kind) 1 ∧ (storeGet 0 t.lead.gateEpoch gate ≠
    a.epoch ∨ a.epoch = 0) ∧ a.refused = false :=
⟨(acting { src := 3, epoch := 1, dies := [3] }), 5, 3, (Option.get ((acting
    { src := 3, epoch := 1, dies := [3] }).action 5) (by decide +kernel)), ((acting
    { src := 3, epoch := 1, dies := [3] }).straitOffer 3 (Option.get ((acting
    { src := 3, epoch := 1, dies := [3] }).action 5) (by decide +kernel)).src (actionClass (Option.get ((acting
    { src := 3, epoch := 1, dies := [3] }).action 5) (by decide +kernel)).kind) 1), (Option.some_get _).symm,
    by decide +kernel, by decide +kernel, by decide +kernel, by decide +kernel, rfl, by decide +kernel,
    by decide +kernel⟩
theorem witness_LeadAndGateCommandsComplete_11 : ∃ (s : State) (act : Nat) (a : Action), s.action act = some a ∧
    a.phase = 0 ∧ a.refused = false ∧ a.dies.all a.answered.contains = true :=
⟨(acting { dies := [3], answered := [3] }), 5, (Option.get ((acting { dies := [3], answered := [3] }).action 5)
    (by decide +kernel)), (Option.some_get _).symm, by decide +kernel, by decide +kernel, by decide +kernel⟩
theorem witness_LeadAndGateCommandsComplete_12 : ∃ (s : State) (act : Nat) (a : Action), s.action act = some a ∧
    a.phase = 0 ∧ a.refused = true :=
⟨(acting { dies := [3], refused := true }), 5, (Option.get ((acting { dies := [3], refused := true }).action 5)
    (by decide +kernel)), (Option.some_get _).symm, by decide +kernel, by decide +kernel⟩
theorem witness_LeadAndGateCommandsComplete_13 : ∃ (s : State) (act : Nat) (gate : Nat) (a : Action), s.action act =
    some a ∧ a.phase = 1 ∧ a.holding.any (fun h => h.1 == gate && s.inWindow 16 (h.2 - 1 + 20000)) = true ∧ s.wayOpen
    a.src gate = true ∧ storeErase a.holding gate ≠ [] :=
⟨(acting { phase := 1, holding := [(2, 1), (3, 1)] }), 5, 3, (Option.get ((acting
    { phase := 1, holding := [(2, 1), (3, 1)] }).action 5) (by decide +kernel)), (Option.some_get _).symm,
    by decide +kernel, by decide +kernel, by decide +kernel, by decide +kernel⟩
theorem witness_LeadAndGateCommandsComplete_14 : ∃ (s : State) (act : Nat) (gate : Nat) (a : Action), s.action act =
    some a ∧ a.phase = 1 ∧ a.holding.any (fun h => h.1 == gate && s.inWindow 16 (h.2 - 1 + 20000)) = true ∧ s.wayOpen
    a.src gate = true ∧ storeErase a.holding gate = [] :=
⟨(acting { phase := 1, holding := [(3, 1)] }), 5, 3, (Option.get ((acting { phase := 1, holding := [(3, 1)] }).action
    5) (by decide +kernel)), (Option.some_get _).symm, by decide +kernel, by decide +kernel, by decide +kernel,
    by decide +kernel⟩
theorem witness_LeadAndGateCommandsComplete_15 : ∃ (s : State) (act : Nat) (gate : Nat) (a : Action), s.action act =
    some a ∧ a.phase = 2 ∧ s.wayOpen a.src gate = true :=
⟨(acting { phase := 2, holding := [(3, 1)] }), 5, 3, (Option.get ((acting { phase := 2, holding := [(3, 1)] }).action
    5) (by decide +kernel)), (Option.some_get _).symm, by decide +kernel, by decide +kernel⟩
theorem witness_LeadAndGateCommandsComplete_16 : ∃ (s : State) (act : Nat) (gate : Nat) (g : Nat) (c : Nat) (a :
    Action) (t : State), s.action act = some a ∧ a.holding.find? (fun h => h.1 == gate) = some (g, c) ∧ t =
    (s.reachCount 16 (c - 1 + 20000)).modAction act (fun y => { y with holding := storeErase y.holding gate }) :=
⟨(acting { phase := 2, holding := [(3, 1)] }), 5, 3, 3, 1, (Option.get ((acting
    { phase := 2, holding := [(3, 1)] }).action 5) (by decide +kernel)), (((acting
    { phase := 2, holding := [(3, 1)] }).reachCount 16 (1 - 1 + 20000)).modAction 5 (fun y =>
    { y with holding := storeErase y.holding 3 })), (Option.some_get _).symm, by decide +kernel, rfl⟩
theorem witness_HarbourCommandsComplete_0 : ∃ (s : State) (core : Nat), core < 2 ∧ s.heldInReset = false :=
⟨live, 1, by decide +kernel, by decide +kernel⟩
theorem witness_HarbourCommandsComplete_1 : ∃ (s : State), s.heldInReset = false :=
⟨live, by decide +kernel⟩
theorem witness_HarbourCommandsComplete_5 : ∃ (s : State) (island : Nat), s.snapSent.contains island = true ∧
    s.wayOpen 16 island = true :=
⟨{ live with snapSent := [17] }, 17, by decide +kernel, by decide +kernel⟩
theorem witness_HarbourCommandsComplete_8 : ∃ (s : State) (stack : Nat), stack < 8 ∧ bit (s.fld
    .HBR_RESET_STAT_STACK_BUSY) stack = true :=
⟨(live.setFld .HBR_RESET_STAT_STACK_BUSY 0 0 128), 7, by decide +kernel, by decide +kernel⟩
theorem witness_HarbourCommandsComplete_9 : ∃ (s : State), s.ready = false ∧ s.heldInReset = false ∧ s.pins.tripped =
    false ∧ s.bootRefused = false ∧ s.trialRefused = false ∧ (s.fw.trial = 0 ∨ s.inWindow 16 2000000000 = true) :=
⟨released, by decide +kernel, by decide +kernel, by decide +kernel, by decide +kernel, by decide +kernel,
    by decide +kernel⟩
theorem witness_HarbourCommandsComplete_10 : ∃ (s : State), s.ready = false ∧ s.heldInReset = false ∧ s.pins.tripped =
    false ∧ s.bootRefused = false ∧ (s.trialRefused = true ∨ (s.fw.trial ≠ 0 ∧ s.inWindow 16 2000000000 = false)) :=
⟨{ released with fw := { released.fw with trial := 1 }, svn := [(0, 5)] }, by decide +kernel, by decide +kernel,
    by decide +kernel, by decide +kernel, by decide +kernel⟩
theorem witness_HarbourCommandsComplete_11 : ∃ (s : State), s.fld .HBR_STAT_STATE ≠ 1 ∧ s.heldInReset = false :=
⟨released, by decide +kernel, by decide +kernel⟩
theorem witness_HarbourCommandsComplete_12 : ∃ (s : State), s.fw.trial ≠ 0 ∧ s.ready = false ∧ s.heldInReset = false ∧
    s.pins.tripped = false :=
⟨{ released with fw := { released.fw with trial := 1 } }, by decide +kernel, by decide +kernel, by decide +kernel,
    by decide +kernel⟩
theorem witness_HarbourCommandsComplete_15 : ∃ (s : State) (ans : Answer) (a : Answer) (u : State) (v : State) (addr :
    Nat), s.staging.head? = some 9 ∧ s.stagingBusy = false ∧ u = s.fwAsks ∧ u.fwRange = (addr, 4096) ∧ u.fw.head = []
    ∧ ans.status = .ok ∧ ans.data.length = 4096 ∧ u.hostReady 0 addr 4096 ans = true ∧ u.hostAnswer 0 addr 4096 ans =
    (v, a) ∧ v.fw.head = [] ∧ a.status = .ok ∧ 4096 < fwLength a.data ∧ fwLength a.data ≤ 67108864 :=
⟨(fwReads []), ({ data := fwHead 8192 ++ leBytes 4064 0 } : Answer), (((fwReads []).fwAsks.hostAnswer 0 0 4096
    ({ data := fwHead 8192 ++ leBytes 4064 0 } : Answer)).2), (fwReads []).fwAsks, (((fwReads []).fwAsks.hostAnswer 0
    0 4096 ({ data := fwHead 8192 ++ leBytes 4064 0 } : Answer)).1), 0, by decide +kernel, by decide +kernel, rfl,
    by decide +kernel, by decide +kernel, by decide +kernel, by decide +kernel, by decide +kernel, rfl,
    by decide +kernel, by decide +kernel, by decide +kernel, by decide +kernel⟩
theorem witness_HarbourCommandsComplete_16 : ∃ (s : State) (ans : Answer) (a : Answer) (u : State) (v : State) (addr :
    Nat) (n : Nat), s.staging.head? = some 9 ∧ s.stagingBusy = false ∧ u = s.fwAsks ∧ u.fwRange = (addr, n) ∧
    u.fw.head.isEmpty = false ∧ u.hostReady 0 addr n ans = true ∧ u.hostAnswer 0 addr n ans = (v, a) ∧
    v.fw.head.isEmpty = false ∧ a.status = .ok :=
⟨(fwReads (fwHead 4128)), ({ data := leBytes 32 0 } : Answer), (((fwReads (fwHead 4128)).fwAsks.hostAnswer 0 4096 32
    ({ data := leBytes 32 0 } : Answer)).2), (fwReads (fwHead 4128)).fwAsks, (((fwReads (fwHead
    4128)).fwAsks.hostAnswer 0 4096 32 ({ data := leBytes 32 0 } : Answer)).1), 4096, 32, by decide +kernel,
    by decide +kernel, rfl, by decide +kernel, by decide +kernel, by decide +kernel, rfl, by decide +kernel,
    by decide +kernel⟩
theorem witness_HarbourCommandsComplete_17 : ∃ (s : State) (ans : Answer) (a : Answer) (u : State) (v : State) (addr :
    Nat) (n : Nat), s.staging.head? = some 9 ∧ s.stagingBusy = false ∧ u = s.fwAsks ∧ u.fwRange = (addr, n) ∧
    ans.status ≠ .ok ∧ u.hostReady 0 addr n ans = true ∧ u.hostAnswer 0 addr n ans = (v, a) ∧ a.status ≠ .ok :=
⟨(fwReads []), ({ status := .aborted } : Answer), (((fwReads []).fwAsks.hostAnswer 0 0 4096 ({ status := .aborted } :
    Answer)).2), (fwReads []).fwAsks, (((fwReads []).fwAsks.hostAnswer 0 0 4096 ({ status := .aborted } : Answer)).1),
    0, 4096, by decide +kernel, by decide +kernel, rfl, by decide +kernel, by decide +kernel, by decide +kernel, rfl,
    by decide +kernel⟩
theorem witness_HarbourCommandsComplete_18 : ∃ (s : State) (ans : Answer) (u : State) (addr : Nat), s.staging.head? =
    some 9 ∧ s.stagingBusy = false ∧ u = s.fwAsks ∧ u.fwRange = (addr, 4096) ∧ u.fw.head = [] ∧ ans.status = .ok ∧
    4096 < ans.data.length ∧ fwLength ans.data = ans.data.length :=
⟨(fwReads []), ({ data := fwHead 4128 ++ leBytes 4096 0 } : Answer), (fwReads []).fwAsks, 0, by decide +kernel,
    by decide +kernel, rfl, by decide +kernel, by decide +kernel, by decide +kernel, by decide +kernel,
    by decide +kernel⟩
theorem witness_HarbourCommandsComplete_19 : ∃ (s : State), s.jqueue ≠ [] ∧ s.pins.tripped = false ∧ s.heldInReset =
    false :=
⟨(live.journal 0x53 []), by decide +kernel, by decide +kernel, by decide +kernel⟩
theorem witness_HarbourCommandsComplete_21 : ∃ (s : State) (q : Nat), s.jnl.begun = some q ∧ s.pins.tripped = false ∧
    s.heldInReset = false ∧ s.jqueue.any (fun r => decide (r.seq ≤ q)) = false :=
⟨{ live with jnl := { live.jnl with begun := some 0 } }, 0, by decide +kernel, by decide +kernel, by decide +kernel,
    by decide +kernel⟩
theorem witness_SpdmRequestsAnswered_0 : ∃ (s : State) (bind : Nat) (req : List Byte) (t : State) (u : State), isSpdm
    0x84 (reqMsg req) = true ∧ s.mctpTake bind req = some t ∧ t.ready = true ∧ u =
    { t with mctp := { t.mctp with spdm := storeSet 0 t.mctp.spdm bind (0 ||| 1) } } :=
⟨i3cUp, 0, (spdmReq 0x84), (Option.get (i3cUp.mctpTake 0 (spdmReq 0x84)) (by decide +kernel)),
    { (Option.get (i3cUp.mctpTake 0 (spdmReq 0x84)) (by decide +kernel)) with mctp := { (Option.get (i3cUp.mctpTake 0 (spdmReq 0x84)) (by decide +kernel)).mctp with spdm := storeSet 0 (Option.get (i3cUp.mctpTake 0 (spdmReq 0x84)) (by decide +kernel)).mctp.spdm 0 (0 ||| 1) } },
    by decide +kernel, (Option.some_get _).symm, by decide +kernel, rfl⟩
theorem witness_SpdmRequestsAnswered_1 : ∃ (s : State) (bind : Nat) (req : List Byte) (t : State) (u : State) (v :
    State) (x : List Byte), isSpdm 0xE1 (reqMsg req) = true ∧ s.mctpTake bind req = some t ∧ t.ready = true ∧ bytesAt
    (reqMsg req) 1 1 = 0x13 ∧ storeGet 0 t.mctp.spdm bind &&& 1 = 1 ∧ u =
    { t with mctp := { t.mctp with spdm := storeSet 0 t.mctp.spdm bind (storeGet 0 t.mctp.spdm bind ||| 2) } } ∧
    u.drawBytes 9 = (v, x) :=
⟨i3cUp, 0, (spdmReq 0xE1), (Option.get (i3cUp.mctpTake 0 (spdmReq 0xE1)) (by decide +kernel)),
    { (Option.get (i3cUp.mctpTake 0 (spdmReq 0xE1)) (by decide +kernel)) with mctp := { (Option.get (i3cUp.mctpTake 0 (spdmReq 0xE1)) (by decide +kernel)).mctp with spdm := storeSet 0 (Option.get (i3cUp.mctpTake 0 (spdmReq 0xE1)) (by decide +kernel)).mctp.spdm 0 (storeGet 0 (Option.get (i3cUp.mctpTake 0 (spdmReq 0xE1)) (by decide +kernel)).mctp.spdm 0 ||| 2) } },
    (({ (Option.get (i3cUp.mctpTake 0 (spdmReq 0xE1)) (by decide +kernel)) with mctp := { (Option.get (i3cUp.mctpTake 0 (spdmReq 0xE1)) (by decide +kernel)).mctp with spdm := storeSet 0 (Option.get (i3cUp.mctpTake 0 (spdmReq 0xE1)) (by decide +kernel)).mctp.spdm 0 (storeGet 0 (Option.get (i3cUp.mctpTake 0 (spdmReq 0xE1)) (by decide +kernel)).mctp.spdm 0 ||| 2) } }.drawBytes
    9).1),
    (({ (Option.get (i3cUp.mctpTake 0 (spdmReq 0xE1)) (by decide +kernel)) with mctp := { (Option.get (i3cUp.mctpTake 0 (spdmReq 0xE1)) (by decide +kernel)).mctp with spdm := storeSet 0 (Option.get (i3cUp.mctpTake 0 (spdmReq 0xE1)) (by decide +kernel)).mctp.spdm 0 (storeGet 0 (Option.get (i3cUp.mctpTake 0 (spdmReq 0xE1)) (by decide +kernel)).mctp.spdm 0 ||| 2) } }.drawBytes
    9).2), by decide +kernel, (Option.some_get _).symm, by decide +kernel, by decide +kernel, by decide +kernel, rfl,
    rfl⟩
theorem witness_SpdmRequestsAnswered_2 : ∃ (s : State) (bind : Nat) (req : List Byte) (t : State) (u : State), isSpdm
    0xE3 (reqMsg req) = true ∧ s.mctpTake bind req = some t ∧ t.ready = true ∧ bytesAt (reqMsg req) 1 1 = 0x13 ∧
    storeGet 0 t.mctp.spdm bind &&& 3 = 3 ∧ u =
    { t with mctp := { t.mctp with spdm := storeSet 0 t.mctp.spdm bind (storeGet 0 t.mctp.spdm bind ||| 4) } } :=
⟨i3cUp, 0, (spdmReq 0xE3), (Option.get (i3cUp.mctpTake 0 (spdmReq 0xE3)) (by decide +kernel)),
    { (Option.get (i3cUp.mctpTake 0 (spdmReq 0xE3)) (by decide +kernel)) with mctp := { (Option.get (i3cUp.mctpTake 0 (spdmReq 0xE3)) (by decide +kernel)).mctp with spdm := storeSet 0 (Option.get (i3cUp.mctpTake 0 (spdmReq 0xE3)) (by decide +kernel)).mctp.spdm 0 (storeGet 0 (Option.get (i3cUp.mctpTake 0 (spdmReq 0xE3)) (by decide +kernel)).mctp.spdm 0 ||| 4) } },
    by decide +kernel, (Option.some_get _).symm, by decide +kernel, by decide +kernel, by decide +kernel, rfl⟩
theorem witness_SpdmRequestsAnswered_3 : ∃ (s : State) (bind : Nat) (req : List Byte) (t : State), isSpdm 0x81 (reqMsg
    req) = true ∧ s.mctpTake bind req = some t ∧ t.ready = true ∧ bytesAt (reqMsg req) 1 1 = 0x13 ∧ storeGet 0
    t.mctp.spdm bind &&& 7 = 7 :=
⟨(mailReq (spdmReq 0x81)), 1, (spdmReq 0x81), (Option.get ((mailReq (spdmReq 0x81)).mctpTake 1 (spdmReq 0x81))
    (by decide +kernel)), by decide +kernel, (Option.some_get _).symm, by decide +kernel, by decide +kernel,
    by decide +kernel⟩
theorem witness_SpdmRequestsAnswered_4 : ∃ (s : State) (bind : Nat) (req : List Byte) (t : State) (off : Nat) (part :
    List Byte), isSpdm 0x82 (reqMsg req) = true ∧ s.mctpTake bind req = some t ∧ t.ready = true ∧ bytesAt (reqMsg req)
    1 1 = 0x13 ∧ storeGet 0 t.mctp.spdm bind &&& 7 = 7 ∧ bytesAt (reqMsg req) 3 1 % 16 = 0 ∧ bytesAt (reqMsg req) 5 2
    = off ∧ part = (spdmChain.drop off).take (bytesAt (reqMsg req) 7 2) :=
⟨i3cUp, 0, (spdmReq 0x82), (Option.get (i3cUp.mctpTake 0 (spdmReq 0x82)) (by decide +kernel)), (bytesAt (reqMsg
    (spdmReq 0x82)) 5 2), ((spdmChain.drop (bytesAt (reqMsg (spdmReq 0x82)) 5 2)).take (bytesAt (reqMsg (spdmReq
    0x82)) 7 2)), by decide +kernel, (Option.some_get _).symm, by decide +kernel, by decide +kernel,
    by decide +kernel, by decide +kernel, rfl, rfl⟩
theorem witness_SpdmRequestsAnswered_5 : ∃ (s : State) (bind : Nat) (req : List Byte) (t : State), isSpdm 0x82 (reqMsg
    req) = true ∧ s.mctpTake bind req = some t ∧ t.ready = true ∧ bytesAt (reqMsg req) 1 1 = 0x13 ∧ storeGet 0
    t.mctp.spdm bind &&& 7 = 7 ∧ bytesAt (reqMsg req) 3 1 % 16 ≠ 0 :=
⟨i3cUp, 0, (leBytes 1 5 ++ leBytes 1 8 ++ leBytes 1 5 ++ leBytes 1 0x13 ++ leBytes 1 0x82 ++ leBytes 1 15 ++
    List.replicate 60 0), (Option.get (i3cUp.mctpTake 0 (leBytes 1 5 ++ leBytes 1 8 ++ leBytes 1 5 ++ leBytes 1 0x13
    ++ leBytes 1 0x82 ++ leBytes 1 15 ++ List.replicate 60 0)) (by decide +kernel)), by decide +kernel,
    (Option.some_get _).symm, by decide +kernel, by decide +kernel, by decide +kernel, by decide +kernel⟩
theorem witness_SpdmRequestsAnswered_6 : ∃ (s : State) (bind : Nat) (req : List Byte) (t : State) (u : State) (v :
    State) (w : State) (nonce : List Byte) (tcb : List Byte) (sig : List Byte), isSpdm 0x83 (reqMsg req) = true ∧
    s.mctpTake bind req = some t ∧ t.ready = true ∧ bytesAt (reqMsg req) 1 1 = 0x13 ∧ storeGet 0 t.mctp.spdm bind &&&
    7 = 7 ∧ bytesAt (reqMsg req) 3 1 % 16 = 0 ∧ t.drawBytes 32 = (u, nonce) ∧ u.drawBytes (if bytesAt (reqMsg req) 4 1
    = 1 then 64 else 0) = (v, tcb) ∧ v.drawBytes 114 = (w, sig) :=
⟨i3cUp, 0, (leBytes 1 5 ++ leBytes 1 8 ++ leBytes 1 5 ++ leBytes 1 0x13 ++ leBytes 1 0x83 ++ leBytes 1 0 ++ leBytes 1
    0xFF ++ List.replicate 60 0), (Option.get (i3cUp.mctpTake 0 (leBytes 1 5 ++ leBytes 1 8 ++ leBytes 1 5 ++ leBytes
    1 0x13 ++ leBytes 1 0x83 ++ leBytes 1 0 ++ leBytes 1 0xFF ++ List.replicate 60 0)) (by decide +kernel)),
    (((Option.get (i3cUp.mctpTake 0 (leBytes 1 5 ++ leBytes 1 8 ++ leBytes 1 5 ++ leBytes 1 0x13 ++ leBytes 1 0x83 ++
    leBytes 1 0 ++ leBytes 1 0xFF ++ List.replicate 60 0)) (by decide +kernel)).drawBytes 32).1), (((((Option.get
    (i3cUp.mctpTake 0 (leBytes 1 5 ++ leBytes 1 8 ++ leBytes 1 5 ++ leBytes 1 0x13 ++ leBytes 1 0x83 ++ leBytes 1 0 ++
    leBytes 1 0xFF ++ List.replicate 60 0)) (by decide +kernel)).drawBytes 32).1).drawBytes (if bytesAt (reqMsg
    (leBytes 1 5 ++ leBytes 1 8 ++ leBytes 1 5 ++ leBytes 1 0x13 ++ leBytes 1 0x83 ++ leBytes 1 0 ++ leBytes 1 0xFF ++
    List.replicate 60 0)) 4 1 = 1 then 64 else 0)).1), (((((((Option.get (i3cUp.mctpTake 0 (leBytes 1 5 ++ leBytes 1 8
    ++ leBytes 1 5 ++ leBytes 1 0x13 ++ leBytes 1 0x83 ++ leBytes 1 0 ++ leBytes 1 0xFF ++ List.replicate 60 0))
    (by decide +kernel)).drawBytes 32).1).drawBytes (if bytesAt (reqMsg (leBytes 1 5 ++ leBytes 1 8 ++ leBytes 1 5 ++
    leBytes 1 0x13 ++ leBytes 1 0x83 ++ leBytes 1 0 ++ leBytes 1 0xFF ++ List.replicate 60 0)) 4 1 = 1 then 64 else
    0)).1).drawBytes 114).1), (((Option.get (i3cUp.mctpTake 0 (leBytes 1 5 ++ leBytes 1 8 ++ leBytes 1 5 ++ leBytes 1
    0x13 ++ leBytes 1 0x83 ++ leBytes 1 0 ++ leBytes 1 0xFF ++ List.replicate 60 0)) (by decide +kernel)).drawBytes
    32).2), (((((Option.get (i3cUp.mctpTake 0 (leBytes 1 5 ++ leBytes 1 8 ++ leBytes 1 5 ++ leBytes 1 0x13 ++ leBytes
    1 0x83 ++ leBytes 1 0 ++ leBytes 1 0xFF ++ List.replicate 60 0)) (by decide +kernel)).drawBytes 32).1).drawBytes
    (if bytesAt (reqMsg (leBytes 1 5 ++ leBytes 1 8 ++ leBytes 1 5 ++ leBytes 1 0x13 ++ leBytes 1 0x83 ++ leBytes 1 0
    ++ leBytes 1 0xFF ++ List.replicate 60 0)) 4 1 = 1 then 64 else 0)).2), (((((((Option.get (i3cUp.mctpTake 0
    (leBytes 1 5 ++ leBytes 1 8 ++ leBytes 1 5 ++ leBytes 1 0x13 ++ leBytes 1 0x83 ++ leBytes 1 0 ++ leBytes 1 0xFF ++
    List.replicate 60 0)) (by decide +kernel)).drawBytes 32).1).drawBytes (if bytesAt (reqMsg (leBytes 1 5 ++ leBytes
    1 8 ++ leBytes 1 5 ++ leBytes 1 0x13 ++ leBytes 1 0x83 ++ leBytes 1 0 ++ leBytes 1 0xFF ++ List.replicate 60 0)) 4
    1 = 1 then 64 else 0)).1).drawBytes 114).2), by decide +kernel, (Option.some_get _).symm, by decide +kernel,
    by decide +kernel, by decide +kernel, by decide +kernel, rfl, rfl, rfl⟩
theorem witness_SpdmRequestsAnswered_7 : ∃ (s : State) (bind : Nat) (req : List Byte) (t : State) (u : State) (v :
    State) (k : Nat) (nonce : List Byte) (sig : List Byte), isSpdm 0xE0 (reqMsg req) = true ∧ s.mctpTake bind req =
    some t ∧ t.ready = true ∧ bytesAt (reqMsg req) 1 1 = 0x13 ∧ storeGet 0 t.mctp.spdm bind &&& 7 = 7 ∧ bytesAt
    (reqMsg req) 4 1 = k ∧ k ≠ 0 ∧ k ≠ 0xFF ∧ k ≠ 0xFD ∧ measIndices.contains k = true ∧ bit (bytesAt (reqMsg req) 3
    1) 0 = true ∧ bytesAt (reqMsg req) 37 1 % 16 = 0 ∧ t.drawBytes 32 = (u, nonce) ∧ u.drawBytes 114 = (v, sig) :=
⟨i3cUp, 0, (leBytes 1 5 ++ leBytes 1 8 ++ leBytes 1 5 ++ leBytes 1 0x13 ++ leBytes 1 0xE0 ++ leBytes 1 1 ++ leBytes 1
    0x18 ++ List.replicate 60 0), (Option.get (i3cUp.mctpTake 0 (leBytes 1 5 ++ leBytes 1 8 ++ leBytes 1 5 ++ leBytes
    1 0x13 ++ leBytes 1 0xE0 ++ leBytes 1 1 ++ leBytes 1 0x18 ++ List.replicate 60 0)) (by decide +kernel)),
    (((Option.get (i3cUp.mctpTake 0 (leBytes 1 5 ++ leBytes 1 8 ++ leBytes 1 5 ++ leBytes 1 0x13 ++ leBytes 1 0xE0 ++
    leBytes 1 1 ++ leBytes 1 0x18 ++ List.replicate 60 0)) (by decide +kernel)).drawBytes 32).1), (((((Option.get
    (i3cUp.mctpTake 0 (leBytes 1 5 ++ leBytes 1 8 ++ leBytes 1 5 ++ leBytes 1 0x13 ++ leBytes 1 0xE0 ++ leBytes 1 1 ++
    leBytes 1 0x18 ++ List.replicate 60 0)) (by decide +kernel)).drawBytes 32).1).drawBytes 114).1), 0x18,
    (((Option.get (i3cUp.mctpTake 0 (leBytes 1 5 ++ leBytes 1 8 ++ leBytes 1 5 ++ leBytes 1 0x13 ++ leBytes 1 0xE0 ++
    leBytes 1 1 ++ leBytes 1 0x18 ++ List.replicate 60 0)) (by decide +kernel)).drawBytes 32).2), (((((Option.get
    (i3cUp.mctpTake 0 (leBytes 1 5 ++ leBytes 1 8 ++ leBytes 1 5 ++ leBytes 1 0x13 ++ leBytes 1 0xE0 ++ leBytes 1 1 ++
    leBytes 1 0x18 ++ List.replicate 60 0)) (by decide +kernel)).drawBytes 32).1).drawBytes 114).2),
    by decide +kernel, (Option.some_get _).symm, by decide +kernel, by decide +kernel, by decide +kernel,
    by decide +kernel, by decide +kernel, by decide +kernel, by decide +kernel, by decide +kernel, by decide +kernel,
    by decide +kernel, rfl, rfl⟩
theorem witness_SpdmRequestsAnswered_8 : ∃ (s : State) (bind : Nat) (req : List Byte) (t : State) (u : State) (v :
    State) (nonce : List Byte) (sig : List Byte), isSpdm 0xE0 (reqMsg req) = true ∧ s.mctpTake bind req = some t ∧
    t.ready = true ∧ bytesAt (reqMsg req) 1 1 = 0x13 ∧ storeGet 0 t.mctp.spdm bind &&& 7 = 7 ∧ bytesAt (reqMsg req) 4
    1 = 0 ∧ bit (bytesAt (reqMsg req) 3 1) 0 = false ∧ t.drawBytes 32 = (u, nonce) ∧ u.drawBytes 0 = (v, sig) :=
⟨i3cUp, 0, (leBytes 1 5 ++ leBytes 1 8 ++ leBytes 1 5 ++ leBytes 1 0x13 ++ leBytes 1 0xE0 ++ leBytes 1 0 ++ leBytes 1
    0 ++ List.replicate 60 0), (Option.get (i3cUp.mctpTake 0 (leBytes 1 5 ++ leBytes 1 8 ++ leBytes 1 5 ++ leBytes 1
    0x13 ++ leBytes 1 0xE0 ++ leBytes 1 0 ++ leBytes 1 0 ++ List.replicate 60 0)) (by decide +kernel)), (((Option.get
    (i3cUp.mctpTake 0 (leBytes 1 5 ++ leBytes 1 8 ++ leBytes 1 5 ++ leBytes 1 0x13 ++ leBytes 1 0xE0 ++ leBytes 1 0 ++
    leBytes 1 0 ++ List.replicate 60 0)) (by decide +kernel)).drawBytes 32).1), (((((Option.get (i3cUp.mctpTake 0
    (leBytes 1 5 ++ leBytes 1 8 ++ leBytes 1 5 ++ leBytes 1 0x13 ++ leBytes 1 0xE0 ++ leBytes 1 0 ++ leBytes 1 0 ++
    List.replicate 60 0)) (by decide +kernel)).drawBytes 32).1).drawBytes 0).1), (((Option.get (i3cUp.mctpTake 0
    (leBytes 1 5 ++ leBytes 1 8 ++ leBytes 1 5 ++ leBytes 1 0x13 ++ leBytes 1 0xE0 ++ leBytes 1 0 ++ leBytes 1 0 ++
    List.replicate 60 0)) (by decide +kernel)).drawBytes 32).2), (((((Option.get (i3cUp.mctpTake 0 (leBytes 1 5 ++
    leBytes 1 8 ++ leBytes 1 5 ++ leBytes 1 0x13 ++ leBytes 1 0xE0 ++ leBytes 1 0 ++ leBytes 1 0 ++ List.replicate 60
    0)) (by decide +kernel)).drawBytes 32).1).drawBytes 0).2), by decide +kernel, (Option.some_get _).symm,
    by decide +kernel, by decide +kernel, by decide +kernel, by decide +kernel, by decide +kernel, rfl, rfl⟩
theorem witness_SpdmRequestsAnswered_9 : ∃ (s : State) (bind : Nat) (req : List Byte) (t : State) (u : State) (v :
    State) (nonce : List Byte) (sig : List Byte), isSpdm 0xE0 (reqMsg req) = true ∧ s.mctpTake bind req = some t ∧
    t.ready = true ∧ bytesAt (reqMsg req) 1 1 = 0x13 ∧ storeGet 0 t.mctp.spdm bind &&& 7 = 7 ∧ bytesAt (reqMsg req) 4
    1 = 0xFF ∧ bit (bytesAt (reqMsg req) 3 1) 0 = false ∧ t.drawBytes 32 = (u, nonce) ∧ u.drawBytes 0 = (v, sig) :=
⟨i3cUp, 0, (leBytes 1 5 ++ leBytes 1 8 ++ leBytes 1 5 ++ leBytes 1 0x13 ++ leBytes 1 0xE0 ++ leBytes 1 0 ++ leBytes 1
    0xFF ++ List.replicate 60 0), (Option.get (i3cUp.mctpTake 0 (leBytes 1 5 ++ leBytes 1 8 ++ leBytes 1 5 ++ leBytes
    1 0x13 ++ leBytes 1 0xE0 ++ leBytes 1 0 ++ leBytes 1 0xFF ++ List.replicate 60 0)) (by decide +kernel)),
    (((Option.get (i3cUp.mctpTake 0 (leBytes 1 5 ++ leBytes 1 8 ++ leBytes 1 5 ++ leBytes 1 0x13 ++ leBytes 1 0xE0 ++
    leBytes 1 0 ++ leBytes 1 0xFF ++ List.replicate 60 0)) (by decide +kernel)).drawBytes 32).1), (((((Option.get
    (i3cUp.mctpTake 0 (leBytes 1 5 ++ leBytes 1 8 ++ leBytes 1 5 ++ leBytes 1 0x13 ++ leBytes 1 0xE0 ++ leBytes 1 0 ++
    leBytes 1 0xFF ++ List.replicate 60 0)) (by decide +kernel)).drawBytes 32).1).drawBytes 0).1), (((Option.get
    (i3cUp.mctpTake 0 (leBytes 1 5 ++ leBytes 1 8 ++ leBytes 1 5 ++ leBytes 1 0x13 ++ leBytes 1 0xE0 ++ leBytes 1 0 ++
    leBytes 1 0xFF ++ List.replicate 60 0)) (by decide +kernel)).drawBytes 32).2), (((((Option.get (i3cUp.mctpTake 0
    (leBytes 1 5 ++ leBytes 1 8 ++ leBytes 1 5 ++ leBytes 1 0x13 ++ leBytes 1 0xE0 ++ leBytes 1 0 ++ leBytes 1 0xFF ++
    List.replicate 60 0)) (by decide +kernel)).drawBytes 32).1).drawBytes 0).2), by decide +kernel, (Option.some_get
    _).symm, by decide +kernel, by decide +kernel, by decide +kernel, by decide +kernel, by decide +kernel, rfl, rfl⟩
theorem witness_SpdmRequestsAnswered_10 : ∃ (s : State) (bind : Nat) (req : List Byte) (t : State), isSpdm 0xE1
    (reqMsg req) = true ∧ s.mctpTake bind req = some t ∧ t.ready = true ∧ bytesAt (reqMsg req) 1 1 ≠ 0x13 :=
⟨i3cUp, 0, ((spdmReq 0xE1).take 3 ++ leBytes 1 0x12 ++ (spdmReq 0xE1).drop 4), (Option.get (i3cUp.mctpTake 0 ((spdmReq
    0xE1).take 3 ++ leBytes 1 0x12 ++ (spdmReq 0xE1).drop 4)) (by decide +kernel)), by decide +kernel,
    (Option.some_get _).symm, by decide +kernel, by decide +kernel⟩
theorem witness_SpdmRequestsAnswered_11 : ∃ (s : State) (bind : Nat) (req : List Byte) (t : State), isSpdm 0xE3
    (reqMsg req) = true ∧ s.mctpTake bind req = some t ∧ t.ready = true ∧ bytesAt (reqMsg req) 1 1 ≠ 0x13 :=
⟨i3cUp, 0, ((spdmReq 0xE3).take 3 ++ leBytes 1 0x12 ++ (spdmReq 0xE3).drop 4), (Option.get (i3cUp.mctpTake 0 ((spdmReq
    0xE3).take 3 ++ leBytes 1 0x12 ++ (spdmReq 0xE3).drop 4)) (by decide +kernel)), by decide +kernel,
    (Option.some_get _).symm, by decide +kernel, by decide +kernel⟩
theorem witness_SpdmRequestsAnswered_12 : ∃ (s : State) (bind : Nat) (req : List Byte) (t : State), isSpdm 0x81
    (reqMsg req) = true ∧ s.mctpTake bind req = some t ∧ t.ready = true ∧ bytesAt (reqMsg req) 1 1 ≠ 0x13 :=
⟨i3cUp, 0, ((spdmReq 0x81).take 3 ++ leBytes 1 0x12 ++ (spdmReq 0x81).drop 4), (Option.get (i3cUp.mctpTake 0 ((spdmReq
    0x81).take 3 ++ leBytes 1 0x12 ++ (spdmReq 0x81).drop 4)) (by decide +kernel)), by decide +kernel,
    (Option.some_get _).symm, by decide +kernel, by decide +kernel⟩
theorem witness_SpdmRequestsAnswered_13 : ∃ (s : State) (bind : Nat) (req : List Byte) (t : State), isSpdm 0x82
    (reqMsg req) = true ∧ s.mctpTake bind req = some t ∧ t.ready = true ∧ bytesAt (reqMsg req) 1 1 ≠ 0x13 :=
⟨i3cUp, 0, ((spdmReq 0x82).take 3 ++ leBytes 1 0x12 ++ (spdmReq 0x82).drop 4), (Option.get (i3cUp.mctpTake 0 ((spdmReq
    0x82).take 3 ++ leBytes 1 0x12 ++ (spdmReq 0x82).drop 4)) (by decide +kernel)), by decide +kernel,
    (Option.some_get _).symm, by decide +kernel, by decide +kernel⟩
theorem witness_SpdmRequestsAnswered_14 : ∃ (s : State) (bind : Nat) (req : List Byte) (t : State), isSpdm 0x83
    (reqMsg req) = true ∧ s.mctpTake bind req = some t ∧ t.ready = true ∧ bytesAt (reqMsg req) 1 1 ≠ 0x13 :=
⟨i3cUp, 0, ((spdmReq 0x83).take 3 ++ leBytes 1 0x12 ++ (spdmReq 0x83).drop 4), (Option.get (i3cUp.mctpTake 0 ((spdmReq
    0x83).take 3 ++ leBytes 1 0x12 ++ (spdmReq 0x83).drop 4)) (by decide +kernel)), by decide +kernel,
    (Option.some_get _).symm, by decide +kernel, by decide +kernel⟩
theorem witness_SpdmRequestsAnswered_15 : ∃ (s : State) (bind : Nat) (req : List Byte) (t : State), isSpdm 0xE0
    (reqMsg req) = true ∧ s.mctpTake bind req = some t ∧ t.ready = true ∧ bytesAt (reqMsg req) 1 1 ≠ 0x13 :=
⟨i3cUp, 0, ((spdmReq 0xE0).take 3 ++ leBytes 1 0x12 ++ (spdmReq 0xE0).drop 4), (Option.get (i3cUp.mctpTake 0 ((spdmReq
    0xE0).take 3 ++ leBytes 1 0x12 ++ (spdmReq 0xE0).drop 4)) (by decide +kernel)), by decide +kernel,
    (Option.some_get _).symm, by decide +kernel, by decide +kernel⟩
theorem witness_SpdmRequestsAnswered_16 : ∃ (s : State) (bind : Nat) (req : List Byte) (t : State), bytesAt (reqMsg
    req) 0 1 % 128 = 5 ∧ bit (bytesAt (reqMsg req) 2 1) 7 = true ∧ spdmCodes.contains (bytesAt (reqMsg req) 2 1) =
    false ∧ s.mctpTake bind req = some t ∧ t.ready = true :=
⟨i3cUp, 0, (spdmReq 0xFF), (Option.get (i3cUp.mctpTake 0 (spdmReq 0xFF)) (by decide +kernel)), by decide +kernel,
    by decide +kernel, by decide +kernel, (Option.some_get _).symm, by decide +kernel⟩
theorem witness_ControlAndPldmRequestsAnswered_0 : ∃ (s : State) (bind : Nat) (req : List Byte) (t : State) (u :
    State), isControl 1 (reqMsg req) = true ∧ s.mctpTake bind req = some t ∧ bytesAt (reqMsg req) 3 1 % 4 ≤ 1 ∧
    bytesAt (reqMsg req) 4 1 ≠ 0 ∧ bytesAt (reqMsg req) 4 1 ≠ 0xFF ∧ u =
    { t with mctp := { t.mctp with eids := storeSet 0 t.mctp.eids bind (bytesAt (reqMsg req) 4 1), owners := storeSet 0 t.mctp.owners bind (bytesAt req 0 1) } } :=
⟨i3cUp, 0, (ctlReq 1 [0, 9]), (Option.get (i3cUp.mctpTake 0 (ctlReq 1 [0, 9])) (by decide +kernel)),
    { (Option.get (i3cUp.mctpTake 0 (ctlReq 1 [0, 9])) (by decide +kernel)) with mctp := { (Option.get (i3cUp.mctpTake 0 (ctlReq 1 [0, 9])) (by decide +kernel)).mctp with eids := storeSet 0 (Option.get (i3cUp.mctpTake 0 (ctlReq 1 [0, 9])) (by decide +kernel)).mctp.eids 0 (bytesAt (reqMsg (ctlReq 1 [0, 9])) 4 1), owners := storeSet 0 (Option.get (i3cUp.mctpTake 0 (ctlReq 1 [0, 9])) (by decide +kernel)).mctp.owners 0 (bytesAt (ctlReq 1 [0, 9]) 0 1) } },
    by decide +kernel, (Option.some_get _).symm, by decide +kernel, by decide +kernel, by decide +kernel, rfl⟩
theorem witness_ControlAndPldmRequestsAnswered_1 : ∃ (s : State) (bind : Nat) (req : List Byte) (t : State), isControl
    1 (reqMsg req) = true ∧ s.mctpTake bind req = some t ∧ bytesAt (reqMsg req) 3 1 % 4 ≤ 1 ∧ (bytesAt (reqMsg req) 4
    1 = 0 ∨ bytesAt (reqMsg req) 4 1 = 0xFF) :=
⟨i3cUp, 0, (ctlReq 1 [0, 255]), (Option.get (i3cUp.mctpTake 0 (ctlReq 1 [0, 255])) (by decide +kernel)),
    by decide +kernel, (Option.some_get _).symm, by decide +kernel, by decide +kernel⟩
theorem witness_ControlAndPldmRequestsAnswered_2 : ∃ (s : State) (bind : Nat) (req : List Byte) (t : State), isControl
    2 (reqMsg req) = true ∧ s.mctpTake bind req = some t :=
⟨(mailReq (ctlReq 2 [])), 1, (ctlReq 2 []), (Option.get ((mailReq (ctlReq 2 [])).mctpTake 1 (ctlReq 2 []))
    (by decide +kernel)), by decide +kernel, (Option.some_get _).symm⟩
theorem witness_ControlAndPldmRequestsAnswered_3 : ∃ (s : State) (bind : Nat) (req : List Byte) (t : State), isControl
    4 (reqMsg req) = true ∧ s.mctpTake bind req = some t ∧ (bytesAt (reqMsg req) 3 1 = 0xFF ∨ bytesAt (reqMsg req) 3 1
    = 0) :=
⟨i3cUp, 0, (ctlReq 4 [255]), (Option.get (i3cUp.mctpTake 0 (ctlReq 4 [255])) (by decide +kernel)), by decide +kernel,
    (Option.some_get _).symm, by decide +kernel⟩
theorem witness_ControlAndPldmRequestsAnswered_4 : ∃ (s : State) (bind : Nat) (req : List Byte) (t : State), isControl
    4 (reqMsg req) = true ∧ s.mctpTake bind req = some t ∧ (bytesAt (reqMsg req) 3 1 = 1 ∨ bytesAt (reqMsg req) 3 1 =
    5) :=
⟨i3cUp, 0, (ctlReq 4 [5]), (Option.get (i3cUp.mctpTake 0 (ctlReq 4 [5])) (by decide +kernel)), by decide +kernel,
    (Option.some_get _).symm, by decide +kernel⟩
theorem witness_ControlAndPldmRequestsAnswered_5 : ∃ (s : State) (bind : Nat) (req : List Byte) (t : State), isControl
    5 (reqMsg req) = true ∧ s.mctpTake bind req = some t :=
⟨i3cUp, 0, (ctlReq 5 []), (Option.get (i3cUp.mctpTake 0 (ctlReq 5 [])) (by decide +kernel)), by decide +kernel,
    (Option.some_get _).symm⟩
theorem witness_ControlAndPldmRequestsAnswered_6 : ∃ (s : State) (bind : Nat) (req : List Byte) (t : State), isPldm 0
    2 (reqMsg req) = true ∧ s.mctpTake bind req = some t ∧ t.ready = true :=
⟨i3cUp, 0, (pldmReq 0 2 []), (Option.get (i3cUp.mctpTake 0 (pldmReq 0 2 [])) (by decide +kernel)), by decide +kernel,
    (Option.some_get _).symm, by decide +kernel⟩
theorem witness_ControlAndPldmRequestsAnswered_7 : ∃ (s : State) (bind : Nat) (req : List Byte) (t : State) (k : Nat)
    (u : State), isPldm 0 1 (reqMsg req) = true ∧ s.mctpTake bind req = some t ∧ t.ready = true ∧ pldmArg (reqMsg req)
    0 1 = k ∧ k ≠ 0 ∧ k ≠ 0xFF ∧ u = { t with mctp := { t.mctp with tid := k } } :=
⟨i3cUp, 0, (pldmReq 0 1 [254]), (Option.get (i3cUp.mctpTake 0 (pldmReq 0 1 [254])) (by decide +kernel)), 254,
    { (Option.get (i3cUp.mctpTake 0 (pldmReq 0 1 [254])) (by decide +kernel)) with mctp := { (Option.get (i3cUp.mctpTake 0 (pldmReq 0 1 [254])) (by decide +kernel)).mctp with tid := 254 } },
    by decide +kernel, (Option.some_get _).symm, by decide +kernel, by decide +kernel, by decide +kernel,
    by decide +kernel, rfl⟩
theorem witness_ControlAndPldmRequestsAnswered_8 : ∃ (s : State) (bind : Nat) (req : List Byte) (t : State), isPldm 0
    1 (reqMsg req) = true ∧ s.mctpTake bind req = some t ∧ t.ready = true ∧ pldmArg (reqMsg req) 0 1 = 0xFF :=
⟨i3cUp, 0, (pldmReq 0 1 [255]), (Option.get (i3cUp.mctpTake 0 (pldmReq 0 1 [255])) (by decide +kernel)),
    by decide +kernel, (Option.some_get _).symm, by decide +kernel, by decide +kernel⟩
theorem witness_ControlAndPldmRequestsAnswered_9 : ∃ (s : State) (bind : Nat) (req : List Byte) (t : State) (u :
    State) (v : List Byte), isPldm 0 3 (reqMsg req) = true ∧ s.mctpTake bind req = some t ∧ t.ready = true ∧
    pldmTypes.contains (pldmArg (reqMsg req) 5 1) = true ∧ t.drawBytes 4 = (u, v) :=
⟨i3cUp, 0, (pldmReq 0 3 [0, 0, 0, 0, 1, 5]), (Option.get (i3cUp.mctpTake 0 (pldmReq 0 3 [0, 0, 0, 0, 1, 5]))
    (by decide +kernel)), (((Option.get (i3cUp.mctpTake 0 (pldmReq 0 3 [0, 0, 0, 0, 1, 5]))
    (by decide +kernel)).drawBytes 4).1), (((Option.get (i3cUp.mctpTake 0 (pldmReq 0 3 [0, 0, 0, 0, 1, 5]))
    (by decide +kernel)).drawBytes 4).2), by decide +kernel, (Option.some_get _).symm, by decide +kernel,
    by decide +kernel, rfl⟩
theorem witness_ControlAndPldmRequestsAnswered_10 : ∃ (s : State) (bind : Nat) (req : List Byte) (t : State), isPldm 0
    3 (reqMsg req) = true ∧ s.mctpTake bind req = some t ∧ t.ready = true ∧ pldmTypes.contains (pldmArg (reqMsg req) 5
    1) = false :=
⟨i3cUp, 0, (pldmReq 0 3 [0, 0, 0, 0, 1, 6]), (Option.get (i3cUp.mctpTake 0 (pldmReq 0 3 [0, 0, 0, 0, 1, 6]))
    (by decide +kernel)), by decide +kernel, (Option.some_get _).symm, by decide +kernel, by decide +kernel⟩
theorem witness_ControlAndPldmRequestsAnswered_11 : ∃ (s : State) (bind : Nat) (req : List Byte) (t : State), isPldm 0
    4 (reqMsg req) = true ∧ s.mctpTake bind req = some t ∧ t.ready = true :=
⟨i3cUp, 0, (pldmReq 0 4 []), (Option.get (i3cUp.mctpTake 0 (pldmReq 0 4 [])) (by decide +kernel)), by decide +kernel,
    (Option.some_get _).symm, by decide +kernel⟩
theorem witness_ControlAndPldmRequestsAnswered_12 : ∃ (s : State) (bind : Nat) (req : List Byte) (t : State) (k :
    Nat), isPldm 0 5 (reqMsg req) = true ∧ s.mctpTake bind req = some t ∧ t.ready = true ∧ pldmArg (reqMsg req) 0 1 =
    k ∧ (k = 0 ∨ k = 2) :=
⟨i3cUp, 0, (pldmReq 0 5 [2]), (Option.get (i3cUp.mctpTake 0 (pldmReq 0 5 [2])) (by decide +kernel)), 2,
    by decide +kernel, (Option.some_get _).symm, by decide +kernel, by decide +kernel, by decide +kernel⟩
theorem witness_ControlAndPldmRequestsAnswered_13 : ∃ (s : State) (bind : Nat) (req : List Byte) (t : State), isPldm 0
    5 (reqMsg req) = true ∧ s.mctpTake bind req = some t ∧ t.ready = true ∧ pldmArg (reqMsg req) 0 1 = 5 :=
⟨i3cUp, 0, (pldmReq 0 5 [5]), (Option.get (i3cUp.mctpTake 0 (pldmReq 0 5 [5])) (by decide +kernel)),
    by decide +kernel, (Option.some_get _).symm, by decide +kernel, by decide +kernel⟩
theorem witness_ControlAndPldmRequestsAnswered_14 : ∃ (s : State) (bind : Nat) (req : List Byte) (t : State) (u :
    State) (v : State) (x : List Byte) (z : List Byte), isPldm 2 0x50 (reqMsg req) = true ∧ s.mctpTake bind req = some
    t ∧ t.ready = true ∧ t.drawBytes 26 = (u, x) ∧ u.drawBytes 9 = (v, z) :=
⟨i3cUp, 0, (pldmReq 2 0x50 []), (Option.get (i3cUp.mctpTake 0 (pldmReq 2 0x50 [])) (by decide +kernel)), (((Option.get
    (i3cUp.mctpTake 0 (pldmReq 2 0x50 [])) (by decide +kernel)).drawBytes 26).1), (((((Option.get (i3cUp.mctpTake 0
    (pldmReq 2 0x50 [])) (by decide +kernel)).drawBytes 26).1).drawBytes 9).1), (((Option.get (i3cUp.mctpTake 0
    (pldmReq 2 0x50 [])) (by decide +kernel)).drawBytes 26).2), (((((Option.get (i3cUp.mctpTake 0 (pldmReq 2 0x50 []))
    (by decide +kernel)).drawBytes 26).1).drawBytes 9).2), by decide +kernel, (Option.some_get _).symm,
    by decide +kernel, rfl, rfl⟩
theorem witness_ControlAndPldmRequestsAnswered_15 : ∃ (s : State) (bind : Nat) (req : List Byte) (t : State), isPldm 2
    0x51 (reqMsg req) = true ∧ s.mctpTake bind req = some t ∧ t.ready = true ∧ numericSensors + stateSensors < max 1
    (pldmArg (reqMsg req) 0 4) :=
⟨i3cUp, 0, (pldmReq 2 0x51 [103, 0, 0, 0]), (Option.get (i3cUp.mctpTake 0 (pldmReq 2 0x51 [103, 0, 0, 0]))
    (by decide +kernel)), by decide +kernel, (Option.some_get _).symm, by decide +kernel, by decide +kernel⟩
theorem witness_ControlAndPldmRequestsAnswered_16 : ∃ (s : State) (bind : Nat) (req : List Byte) (t : State) (h : Nat)
    (u : State) (tail : List Byte) (body : List Byte) (rec0 : List Byte), isPldm 2 0x51 (reqMsg req) = true ∧
    s.mctpTake bind req = some t ∧ t.ready = true ∧ h = max 1 (pldmArg (reqMsg req) 0 4) ∧ h ≤ numericSensors +
    stateSensors ∧ t.drawn.drawBytes (t.free % 64) = (u, tail) ∧ body = leBytes 2 0 ++ leBytes 2 h ++ tail ∧ rec0 =
    leBytes 4 h ++ leBytes 1 1 ++ leBytes 1 (if h ≤ numericSensors then 2 else 4) ++ leBytes 2 0 ++ leBytes 2
    body.length ++ body :=
⟨i3cUp, 0, (pldmReq 2 0x51 [102, 0, 0, 0]), (Option.get (i3cUp.mctpTake 0 (pldmReq 2 0x51 [102, 0, 0, 0]))
    (by decide +kernel)), 102, (((Option.get (i3cUp.mctpTake 0 (pldmReq 2 0x51 [102, 0, 0, 0]))
    (by decide +kernel)).drawn.drawBytes ((Option.get (i3cUp.mctpTake 0 (pldmReq 2 0x51 [102, 0, 0, 0]))
    (by decide +kernel)).free % 64)).1), (((Option.get (i3cUp.mctpTake 0 (pldmReq 2 0x51 [102, 0, 0, 0]))
    (by decide +kernel)).drawn.drawBytes ((Option.get (i3cUp.mctpTake 0 (pldmReq 2 0x51 [102, 0, 0, 0]))
    (by decide +kernel)).free % 64)).2), (leBytes 2 0 ++ leBytes 2 102 ++ (((Option.get (i3cUp.mctpTake 0 (pldmReq 2
    0x51 [102, 0, 0, 0])) (by decide +kernel)).drawn.drawBytes ((Option.get (i3cUp.mctpTake 0 (pldmReq 2 0x51 [102, 0,
    0, 0])) (by decide +kernel)).free % 64)).2)), (leBytes 4 102 ++ leBytes 1 1 ++ leBytes 1 (if 102 ≤ numericSensors
    then 2 else 4) ++ leBytes 2 0 ++ leBytes 2 (leBytes 2 0 ++ leBytes 2 102 ++ (((Option.get (i3cUp.mctpTake 0
    (pldmReq 2 0x51 [102, 0, 0, 0])) (by decide +kernel)).drawn.drawBytes ((Option.get (i3cUp.mctpTake 0 (pldmReq 2
    0x51 [102, 0, 0, 0])) (by decide +kernel)).free % 64)).2)).length ++ (leBytes 2 0 ++ leBytes 2 102 ++
    (((Option.get (i3cUp.mctpTake 0 (pldmReq 2 0x51 [102, 0, 0, 0])) (by decide +kernel)).drawn.drawBytes ((Option.get
    (i3cUp.mctpTake 0 (pldmReq 2 0x51 [102, 0, 0, 0])) (by decide +kernel)).free % 64)).2))), by decide +kernel,
    (Option.some_get _).symm, by decide +kernel, by decide +kernel, by decide +kernel, rfl, rfl, rfl⟩
theorem witness_ControlAndPldmRequestsAnswered_17 : ∃ (s : State) (bind : Nat) (req : List Byte) (t : State) (u :
    State) (v : Nat), isPldm 2 0x11 (reqMsg req) = true ∧ s.mctpTake bind req = some t ∧ t.ready = true ∧ 0 < pldmArg
    (reqMsg req) 0 2 ∧ pldmArg (reqMsg req) 0 2 ≤ numericSensors ∧ t.numericReading (pldmArg (reqMsg req) 0 2) = (u,
    v) :=
⟨i3cUp, 0, (pldmReq 2 0x11 [35, 0]), (Option.get (i3cUp.mctpTake 0 (pldmReq 2 0x11 [35, 0])) (by decide +kernel)),
    (((Option.get (i3cUp.mctpTake 0 (pldmReq 2 0x11 [35, 0])) (by decide +kernel)).numericReading (pldmArg (reqMsg
    (pldmReq 2 0x11 [35, 0])) 0 2)).1), (((Option.get (i3cUp.mctpTake 0 (pldmReq 2 0x11 [35, 0]))
    (by decide +kernel)).numericReading (pldmArg (reqMsg (pldmReq 2 0x11 [35, 0])) 0 2)).2), by decide +kernel,
    (Option.some_get _).symm, by decide +kernel, by decide +kernel, by decide +kernel, rfl⟩
theorem witness_ControlAndPldmRequestsAnswered_18 : ∃ (s : State) (bind : Nat) (req : List Byte) (t : State), isPldm 2
    0x11 (reqMsg req) = true ∧ s.mctpTake bind req = some t ∧ t.ready = true ∧ numericSensors < pldmArg (reqMsg req) 0
    2 :=
⟨i3cUp, 0, (pldmReq 2 0x11 [36, 0]), (Option.get (i3cUp.mctpTake 0 (pldmReq 2 0x11 [36, 0])) (by decide +kernel)),
    by decide +kernel, (Option.some_get _).symm, by decide +kernel, by decide +kernel⟩
theorem witness_ControlAndPldmRequestsAnswered_19 : ∃ (s : State) (bind : Nat) (req : List Byte) (t : State) (u :
    State) (x : List Byte), isPldm 2 0x21 (reqMsg req) = true ∧ s.mctpTake bind req = some t ∧ t.ready = true ∧
    numericSensors < pldmArg (reqMsg req) 0 2 ∧ pldmArg (reqMsg req) 0 2 ≤ numericSensors + stateSensors ∧ t.drawBytes
    1 = (u, x) :=
⟨i3cUp, 0, (pldmReq 2 0x21 [102, 0]), (Option.get (i3cUp.mctpTake 0 (pldmReq 2 0x21 [102, 0])) (by decide +kernel)),
    (((Option.get (i3cUp.mctpTake 0 (pldmReq 2 0x21 [102, 0])) (by decide +kernel)).drawBytes 1).1), (((Option.get
    (i3cUp.mctpTake 0 (pldmReq 2 0x21 [102, 0])) (by decide +kernel)).drawBytes 1).2), by decide +kernel,
    (Option.some_get _).symm, by decide +kernel, by decide +kernel, by decide +kernel, rfl⟩
theorem witness_ControlAndPldmRequestsAnswered_20 : ∃ (s : State) (bind : Nat), s.ready = true ∧ (bind = 1 ∨ (bind = 0
    ∧ s.mctp.i3c.isSome = true)) ∧ (bind = 0 ∨ s.updateRequest = none) :=
⟨live, 1, by decide +kernel, by decide +kernel, by decide +kernel⟩
theorem witness_ControlAndPldmRequestsAnswered_21 : ∃ (s : State) (req : List Byte), s.ready = true ∧ s.updateRequest
    = some req :=
⟨(mailReq (pldmReq 5 0x14 [])), (pldmReq 5 0x14 []), by decide +kernel, by decide +kernel⟩
theorem witness_ControlAndPldmRequestsAnswered_22 : ∃ (s : State) (bind : Nat) (req : List Byte) (t : State),
    isPldmReq (reqMsg req) = true ∧ pldmSupported (reqMsg req) = false ∧ s.mctpTake bind req = some t ∧ t.ready = true :=
⟨i3cUp, 0, (pldmReq 63 255 []), (Option.get (i3cUp.mctpTake 0 (pldmReq 63 255 [])) (by decide +kernel)),
    by decide +kernel, by decide +kernel, (Option.some_get _).symm, by decide +kernel⟩
theorem witness_ControlAndPldmRequestsAnswered_23 : ∃ (s : State) (bind : Nat) (req : List Byte) (t : State),
    isPldmReq (reqMsg req) = true ∧ (pldmSupported (reqMsg req) = false ∨ bytesAt (reqMsg req) 2 1 % 64 = 5) ∧
    s.mctpTake bind req = some t ∧ s.ready = false ∧ t.ready = false :=
⟨bootingUp, 0, (pldmReq 5 0x14 []), (Option.get (bootingUp.mctpTake 0 (pldmReq 5 0x14 [])) (by decide +kernel)),
    by decide +kernel, by decide +kernel, (Option.some_get _).symm, by decide +kernel, by decide +kernel⟩
theorem witness_PinCommandsComplete_0 : ∃ (s : State) (addr : Nat), s.heldInReset = false ∧ s.mctp.i3c = none ∧ addr <
    128 :=
⟨live, 127, by decide +kernel, by decide +kernel, by decide +kernel⟩
theorem witness_PinCommandsComplete_1 : ∃ (s : State) (static : Nat) (addr : Nat), s.heldInReset = false ∧ s.mctp.i3c
    = none ∧ addr < 128 ∧ static = 0x48 + s.mctp.i3cStrap % 4 :=
⟨live, 0x48, 127, by decide +kernel, by decide +kernel, by decide +kernel, by decide +kernel⟩
theorem witness_PinCommandsComplete_10 : ∃ (s : State), s.pins.resetN = true :=
⟨live, by decide +kernel⟩
theorem witness_PinCommandsComplete_11 : ∃ (s : State), s.pins.resetN = false :=
⟨{ live with pins := { live.pins with resetN := false } }, by decide +kernel⟩
theorem witness_PinCommandsComplete_12 : ∃ (s : State), s.pins.pwrGoodN = false :=
⟨live, by decide +kernel⟩
theorem witness_PinCommandsComplete_13 : ∃ (s : State), s.pins.pwrGoodN = true :=
⟨{ live with pins := { live.pins with pwrGoodN := true } }, by decide +kernel⟩
theorem witness_PinCommandsComplete_14 : ∃ (s : State), s.pins.testEn = false :=
⟨live, by decide +kernel⟩
theorem witness_PinCommandsComplete_15 : ∃ (s : State), s.pins.testEn = true :=
⟨{ live with pins := { live.pins with testEn := true } }, by decide +kernel⟩
theorem witness_PinCommandsComplete_16 : ∃ (s : State), s.pins.pwrGoodN = true :=
⟨{ live with pins := { live.pins with pwrGoodN := true } }, by decide +kernel⟩
theorem witness_StepRunsTheFrontCommand : ∃ (c : Instr) (rest : List Instr) (s : State), s.pending = c :: rest :=
  ⟨.idcode, [], { live with pending := [.idcode] }, rfl⟩
theorem witness_EmptyQueueIdles_0 : ∃ s : State, s.pending = [] ∧ s.ibi = none :=
  ⟨live, by decide +kernel, by decide +kernel⟩
theorem witness_EmptyQueueIdles_1 : ∃ s : State, s.pending = [] ∧ s.ibi ≠ none :=
  ⟨{ i3cUp with mctpOut := [(0, [1])] }, by decide +kernel, by decide +kernel⟩
theorem witness_ResetIsSound : ∃ fn, isFn fn = true :=
  ⟨8, rfl⟩
theorem witness_EveryStepKeepsTheStateSound : ∃ s t : State, Sound s ∧ Machine.step s = .next t :=
  ⟨{ live with pending := [.bypass] }, _, ⟨by decide +kernel, by decide +kernel, by decide +kernel⟩, rfl⟩
theorem witness_ReservedFieldsReadZero_0 : ∃ (s : State) (r : Reg) (a b i : Nat), Sound s ∧ (s.reg r a b).toNat.testBit i = true :=
  ⟨live, .PKG_IDENT, 0, 0, 63 - 1, ⟨by decide +kernel, by decide +kernel, by decide +kernel⟩, by decide +kernel⟩
theorem witness_ReservedFieldsReadZero_1 : ∃ (s : State) (fn off : Nat) (r : Reg) (a b i : Nat), Sound s ∧ regAt off = some (r, a, b) ∧ (s.readRegister fn off).toNat.testBit i = true :=
  ⟨live, 8, 0x800000, .SVC_INFO, 0, 0, 6, ⟨by decide +kernel, by decide +kernel, by decide +kernel⟩, by decide +kernel, by decide +kernel⟩
theorem witness_ReservedFieldsReadZero_2 : ∃ (s : State) (off : Nat), Sound s ∧ regAt off = none :=
  ⟨live, 0xFFFFFF, ⟨by decide +kernel, by decide +kernel, by decide +kernel⟩, by decide +kernel⟩
theorem witness_IdentityRegistersHold_0 : ∃ (s : State) (r : Reg), Sound s ∧ fixedReg r = true :=
  ⟨live, .PKG_CAP, ⟨by decide +kernel, by decide +kernel, by decide +kernel⟩, rfl⟩
theorem witness_IdentityRegistersHold_1 : ∃ (s : State) (off : Nat) (r : Reg) (a b : Nat), Sound s ∧ regAt off = some (r, a, b) ∧ fixedReg r = true :=
  ⟨live, 8, .PKG_CAP, 0, 0, ⟨by decide +kernel, by decide +kernel, by decide +kernel⟩, by decide +kernel, rfl⟩
theorem witness_StraitsCommandsFrame : ∃ (c : Instr) (s t : State) (x : Portion), chapter c = .straits ∧ Sound s ∧ exec c s = .next t ∧
    (touches c).contains x = false :=
  ⟨.straitUnitSend 0 true, live, stateOf (exec (.straitUnitSend 0 true) live), .block .pkg, rfl, ⟨by decide +kernel, by decide +kernel, by decide +kernel⟩,
    stateOf_next (by decide +kernel), rfl⟩
theorem witness_ImageCommandsFrame : ∃ (c : Instr) (s t : State) (x : Portion), chapter c = .image ∧ Sound s ∧ exec c s = .next t ∧
    (touches c).contains x = false :=
  ⟨.launchTimeout 0, live, stateOf (exec (.launchTimeout 0) live), .block .pkg, rfl, ⟨by decide +kernel, by decide +kernel, by decide +kernel⟩,
    stateOf_next (by decide +kernel), rfl⟩
theorem witness_IsletCommandsFrame : ∃ (c : Instr) (s t : State) (x : Portion), chapter c = .islet ∧ Sound s ∧ exec c s = .next t ∧
    (touches c).contains x = false :=
  ⟨.seqNop 0, live, stateOf (exec (.seqNop 0) live), .block .pkg, rfl, ⟨by decide +kernel, by decide +kernel, by decide +kernel⟩,
    stateOf_next (by decide +kernel), rfl⟩
theorem witness_MatrixCommandsFrame : ∃ (c : Instr) (s t : State) (x : Portion), chapter c = .matrix ∧ Sound s ∧ exec c s = .next t ∧
    (touches c).contains x = false :=
  ⟨.mxSwap 0, live, stateOf (exec (.mxSwap 0) live), .block .pkg, rfl, ⟨by decide +kernel, by decide +kernel, by decide +kernel⟩,
    stateOf_next (by decide +kernel), rfl⟩
theorem witness_VectorCommandsFrame : ∃ (c : Instr) (s t : State) (x : Portion), chapter c = .vector ∧ Sound s ∧ exec c s = .next t ∧
    (touches c).contains x = false :=
  ⟨.vxChainStart 0, live, stateOf (exec (.vxChainStart 0) live), .block .pkg, rfl, ⟨by decide +kernel, by decide +kernel, by decide +kernel⟩,
    stateOf_next (by decide +kernel), rfl⟩
theorem witness_PassCommandsFrame : ∃ (c : Instr) (s t : State) (x : Portion), chapter c = .passes ∧ Sound s ∧ exec c s = .next t ∧
    (touches c).contains x = false :=
  ⟨.phaseStart 0 0, live, stateOf (exec (.phaseStart 0 0) live), .block .pkg, rfl, ⟨by decide +kernel, by decide +kernel, by decide +kernel⟩,
    stateOf_next (by decide +kernel), rfl⟩
theorem witness_MemoryCommandsFrame : ∃ (c : Instr) (s t : State) (x : Portion), chapter c = .memory ∧ Sound s ∧ exec c s = .next t ∧
    (touches c).contains x = false :=
  ⟨.hbmRefresh 0 0 0, live, stateOf (exec (.hbmRefresh 0 0 0) live), .block .pkg, rfl, ⟨by decide +kernel, by decide +kernel, by decide +kernel⟩,
    stateOf_next (by decide +kernel), rfl⟩
theorem witness_ReefCommandsFrame : ∃ (c : Instr) (s t : State) (x : Portion), chapter c = .reef ∧ Sound s ∧ exec c s = .next t ∧
    (touches c).contains x = false :=
  ⟨.reefAdmit 0, live, stateOf (exec (.reefAdmit 0) live), .block .pkg, rfl, ⟨by decide +kernel, by decide +kernel, by decide +kernel⟩,
    stateOf_next (by decide +kernel), rfl⟩
theorem witness_LinkCommandsFrame : ∃ (c : Instr) (s t : State) (x : Portion), chapter c = .link ∧ Sound s ∧ exec c s = .next t ∧
    (touches c).contains x = false :=
  ⟨.routeWrite 0 0 0, live, stateOf (exec (.routeWrite 0 0 0) live), .block .pkg, rfl, ⟨by decide +kernel, by decide +kernel, by decide +kernel⟩,
    stateOf_next (by decide +kernel), rfl⟩
theorem witness_ReductionCommandsFrame : ∃ (c : Instr) (s t : State) (x : Portion), chapter c = .reduction ∧ Sound s ∧ exec c s = .next t ∧
    (touches c).contains x = false :=
  ⟨.bucketDeadline 0 0, live, stateOf (exec (.bucketDeadline 0 0) live), .block .pkg, rfl, ⟨by decide +kernel, by decide +kernel, by decide +kernel⟩,
    stateOf_next (by decide +kernel), rfl⟩
theorem witness_OptimiserCommandsFrame : ∃ (c : Instr) (s t : State) (x : Portion), chapter c = .optimiser ∧ Sound s ∧ exec c s = .next t ∧
    (touches c).contains x = false :=
  ⟨.normTimeout 0, live, stateOf (exec (.normTimeout 0) live), .block .pkg, rfl, ⟨by decide +kernel, by decide +kernel, by decide +kernel⟩,
    stateOf_next (by decide +kernel), rfl⟩
theorem witness_ServiceCommandsFrame : ∃ (c : Instr) (s t : State) (x : Portion), chapter c = .services ∧ Sound s ∧ exec c s = .next t ∧
    (touches c).contains x = false :=
  ⟨.genPoll 0 {}, live, stateOf (exec (.genPoll 0 {}) live), .block .pkg, rfl, ⟨by decide +kernel, by decide +kernel, by decide +kernel⟩,
    stateOf_next (by decide +kernel), rfl⟩
theorem witness_PartitionCommandsFrame : ∃ (c : Instr) (s t : State) (x : Portion), chapter c = .trust ∧ Sound s ∧ exec c s = .next t ∧
    (touches c).contains x = false :=
  ⟨.drbgReseed, live, stateOf (exec (.drbgReseed) live), .block .pkg, rfl, ⟨by decide +kernel, by decide +kernel, by decide +kernel⟩,
    stateOf_next (by decide +kernel), rfl⟩
theorem witness_HarbourCommandsFrame : ∃ (c : Instr) (s t : State) (x : Portion), chapter c = .harbour ∧ Sound s ∧ exec c s = .next t ∧
    (touches c).contains x = false :=
  ⟨.harbourWatchdogWrite 0, live, stateOf (exec (.harbourWatchdogWrite 0) live), .block .pkg, rfl, ⟨by decide +kernel, by decide +kernel, by decide +kernel⟩,
    stateOf_next (by decide +kernel), rfl⟩
theorem witness_PinCommandsFrame : ∃ (c : Instr) (s t : State) (x : Portion), chapter c = .signals ∧ Sound s ∧ exec c s = .next t ∧
    (touches c).contains x = false :=
  ⟨.bypass, live, stateOf (exec (.bypass) live), .block .pkg, rfl, ⟨by decide +kernel, by decide +kernel, by decide +kernel⟩,
    stateOf_next (by decide +kernel), rfl⟩
theorem witness_StraitSendsInClassOrder : ∃ (n : Nat) (ba : Bool) (s t : State), n < 35 ∧ s.straitCarries n = true ∧ s.straitRuns n = true ∧
    0 < s.fld .STR_ARB_STARVE_LIMIT n ∧ exec (.straitUnitSend n ba) s = .next t :=
  ⟨34, false, strait0, stateOf (exec (.straitUnitSend 34 false) strait0), by decide, by decide +kernel, by decide +kernel, by decide +kernel, stateOf_next (by decide +kernel)⟩
theorem witness_StraitKeepsUnitsInOrder : ∃ (n c : Nat) (ba : Bool) (s : State), n < 35 ∧ c < 4 ∧ s.straitCarries n = true ∧ s.straitRuns n = true ∧
    (s.lane n ba c).flight ≠ [] ∧ (s.lane n ba c).retry = false ∧ (∃ dst rest, (s.lane n ba c).flight = dst :: rest) ∧
    laneKey 34 false 3 ≠ laneKey n ba c :=
  ⟨34, 0, false, strait0, by decide, by decide, by decide +kernel, by decide +kernel, by decide +kernel, by decide +kernel, ⟨{}, [], by decide +kernel⟩, by decide⟩
theorem witness_AbsentUnitsReadZero_0 : ∃ (s : State) (off : Nat), s.pkg.part ≠ .tva1024 ∧ 0x500000 ≤ off ∧ off < 0x600000 :=
  ⟨small, 0x5FFFFF, by decide, by decide, by decide⟩
theorem witness_AbsentUnitsReadZero_1 : ∃ (s : State) (off p : Nat), p < 24 ∧ bit (partJl s.pkg.part) p = false ∧ 0x600000 + 0x1000 * p ≤ off ∧
    off < 0x601000 + 0x1000 * p :=
  ⟨small, 0x617FFF, 23, by decide, by decide, by decide, by decide⟩
theorem witness_AbsentUnitsReadZero_2 : ∃ (s : State) (off p : Nat), p < 16 ∧ bit (partMl s.pkg.part) p = false ∧ 0x400300 + 0x10 * p ≤ off ∧
    off < 0x400310 + 0x10 * p :=
  ⟨small, 0x400380, 8, by decide, by decide, by decide, by decide⟩
theorem witness_CommandDieIsLowest_0 : ∃ s : State, ∀ a, a < 24 → bit (s.atollsOf 1) a = false :=
  ⟨live, by decide +kernel⟩
theorem witness_CommandDieIsLowest_1 : ∃ (s : State) (a : Nat), a < 24 ∧ bit (s.atollsOf 8) a = true :=
  ⟨live, 23, by decide, by decide +kernel⟩
theorem witness_CommandDieIsLowest_2 : ∃ fn : Nat, fn ≠ 0 ∧ live.commandDie fn < 4 :=
  ⟨8, by decide, by decide +kernel⟩
theorem witness_BoundaryScanActsOnlyInReset : (∃ s : State, s.pins.resetN = false) ∧ ∃ s : State, s.pins.resetN = true :=
  ⟨⟨State.reset, by decide +kernel⟩, live, by decide +kernel⟩
theorem witness_JournalCommitsInOrder_0 : ∃ (s t : State) (bad : Bool), exec (.journalCommit bad) s = .next t ∧ s.jqueue ≠ [] :=
  ⟨live.journal 0x53 [], stateOf (exec (.journalCommit true) (live.journal 0x53 [])), true, stateOf_next (by decide +kernel), by decide +kernel⟩
theorem witness_JournalCommitsInOrder_1 : ∃ s t : State, exec (.journalCommit false) s = .next t ∧ s.heldInReset = true :=
  ⟨State.reset, stateOf (exec (.journalCommit false) State.reset), stateOf_next (by decide +kernel), by decide +kernel⟩
theorem witness_JournalCommitsInOrder_2 : ∃ s t : State, exec (.journalCommit false) s = .next t ∧ s.pins.tripped = true :=
  ⟨hot, stateOf (exec (.journalCommit false) hot), stateOf_next (by decide +kernel), by decide +kernel⟩
theorem witness_PackageResetEndsEveryFunction : ∃ (s : State) (w : Word), Sound s ∧ s.ready = true ∧ bit w.toNat 0 = true :=
  ⟨live, 1, ⟨by decide +kernel, by decide +kernel, by decide +kernel⟩, by decide +kernel, by decide +kernel⟩
theorem witness_GrantAdvancesTheEpoch_0 : ∃ (s : State) (west : Bool) (rest : List Bool), Sound s ∧ s.lead.holder = none ∧ s.lead.granting = none ∧ s.lead.wants = west :: rest ∧
    s.lead.leader west < 4 ∧ s.fld .HBR_LEAD_EPOCH = 0xFFFF ∧
    s.actions.any (fun e => [0, 1, 2, 3].any (fun d => decide (d < 4) && s.straitCarries (18 + d) && e.2.holding.any (fun h => h.1 == d))) = false :=
  ⟨grantWaits [], true, [], ⟨by decide +kernel, by decide +kernel, by decide +kernel⟩, rfl, rfl, rfl, by decide, by decide +kernel, by decide +kernel⟩
theorem witness_GrantAdvancesTheEpoch_1 : ∃ (s : State) (west : Bool) (rest : List Bool), Sound s ∧ s.lead.holder = none ∧ s.lead.granting = none ∧ s.lead.wants = west :: rest ∧
    s.lead.leader west < 4 ∧ s.fld .HBR_LEAD_EPOCH = 0xFFFF ∧
    s.actions.any (fun e => [0, 1, 2, 3].any (fun d => decide (d < 4) && s.straitCarries (18 + d) && e.2.holding.any (fun h => h.1 == d))) = true :=
  ⟨grantWaits [(5, { kind := .commit 8, holding := [(3, 1)] })], true, [], ⟨by decide +kernel, by decide +kernel, by decide +kernel⟩, rfl, rfl, rfl, by decide, by decide +kernel, by decide +kernel⟩
theorem witness_GrantAdvancesTheEpoch_2 : ∃ (s : State) (west : Bool) (c : Nat), Sound s ∧ s.lead.holder = none ∧ s.lead.granting = some (west, c) ∧ s.lead.leader west < 4 ∧
    s.actions.any (fun e => [0, 1, 2, 3].any (fun d => decide (d < 4) && s.straitCarries (18 + d) && e.2.holding.any (fun h => h.1 == d))) = false :=
  ⟨grantRuns [], true, 7, ⟨by decide +kernel, by decide +kernel, by decide +kernel⟩, rfl, rfl, by decide, by decide +kernel⟩
theorem witness_GrantAdvancesTheEpoch_3 : ∃ (s : State) (west : Bool) (c : Nat), Sound s ∧ s.lead.holder = none ∧ s.lead.granting = some (west, c) ∧ s.lead.leader west < 4 ∧
    s.actions.any (fun e => [0, 1, 2, 3].any (fun d => decide (d < 4) && s.straitCarries (18 + d) && e.2.holding.any (fun h => h.1 == d))) = true :=
  ⟨grantRuns [(5, { kind := .commit 8, holding := [(3, 1)] })], true, 7, ⟨by decide +kernel, by decide +kernel, by decide +kernel⟩, rfl, rfl, by decide, by decide +kernel⟩
theorem witness_ArmedEventInterruptsOnce_0 : ∃ (s : State) (fn off k i b : Nat) (r : Reg) (w : Word), regAt off = some (r, i, b) ∧ eventSource r = some k ∧ fn ≠ 0 ∧
    s.windowOpen fn = true ∧ s.shows fn r (ownIndex r fn i) b = true ∧
    s.reg r (ownIndex r fn i) b &&& w &&& BitVec.ofNat 64 (accessMask r .RW1C) ≠ 0 ∧ s.fld .SVC_EVT_ROUTE_EN fn k = 1 ∧
    eventWord (s.writeReg r (ownIndex r fn i) b w) fn k ≠ 0 :=
  ⟨(live.setFld .SVC_EVT_ROUTE_EN 8 6 1).setReg .SVC_EVT 8 0 3, 8, 0x800008, 6, 0, 0, .SVC_EVT, 1, by decide +kernel, rfl, by decide, by decide +kernel, by decide +kernel, by decide +kernel, by decide +kernel, by decide +kernel⟩
theorem witness_ArmedEventInterruptsOnce_1 : ∃ (s : State) (fn off k i b : Nat) (r : Reg) (w : Word), regAt off = some (r, i, b) ∧ eventSource r = some k ∧ fn ≠ 0 ∧
    s.windowOpen fn = true ∧ s.shows fn r (ownIndex r fn i) b = true ∧
    s.reg r (ownIndex r fn i) b &&& w &&& BitVec.ofNat 64 (accessMask r .RW1C) ≠ 0 ∧ s.fld .SVC_EVT_ROUTE_EN fn k = 1 ∧
    eventWord (s.writeReg r (ownIndex r fn i) b w) fn k = 0 :=
  ⟨(live.setFld .SVC_EVT_ROUTE_EN 8 6 1).setReg .SVC_EVT 8 0 1, 8, 0x800008, 6, 0, 0, .SVC_EVT, 1, by decide +kernel, rfl, by decide, by decide +kernel, by decide +kernel, by decide +kernel, by decide +kernel, by decide +kernel⟩
theorem witness_StoredBytesReadBack : ∃ (s : State) (fn addr slot die die2 : Nat) (src src2 : Source) (bs : List Byte) (f : Frame) (g : Segment), s.fnLive fn = true ∧
    bs ≠ [] ∧ addr % 65536 + bs.length ≤ 65536 ∧ addr < reservedBase ∧ s.segmentAt fn addr = some g ∧ g.frozen = false ∧
    s.pageAt fn addr = some { frame := f, slot := slot, moving := false } ∧ f.isBoard = false ∧
    (∀ a b, a < 65536 → b < 65536 → frameByte f a = frameByte f b → a = b) ∧ s.leasesOf f.stack = [] ∧
    s.fld .MEM_STACK_STAT_STATE f.stack ≠ 2 ∧
    (∀ x ∈ [(src, die), (src2, die2)], s.memCut (s.sourceIsland { fn := fn, src := x.1, die := some x.2 }) (4 + f.stack) = false) ∧
    (∀ u ∈ unitOffsets f (addr % 65536) bs.length, storeGet [] s.bad (errKey (frameByte f u)) = []) ∧
    s.optForbids fn (src != .host) addr bs.length = false :=
  ⟨mapped, 8, 65535, 0, 0, 3, .islet, .host, [1], .spread 7 1000,
    { base := 0, pages := [{ frame := .spread 7 1000 }, { frame := .board 15 3, slot := 0 }] }, by decide +kernel, by decide, by decide,
    by decide, by decide +kernel, rfl, by decide +kernel, rfl, frameApart_spread 7 1000, by decide +kernel, by decide +kernel, by decide +kernel, by decide +kernel, by decide +kernel⟩
theorem witness_CapabilityRegistersPerPart : ∃ s : State, Sound s :=
  ⟨live, ⟨by decide +kernel, by decide +kernel, by decide +kernel⟩⟩
theorem witness_StoresStayInTheirPages_0 : ∃ (s t : State) (fn q : Nat), Sound s ∧ s.bad = [] ∧ exec (.completionWrite fn q .ok) s = .next t ∧
    s.fld .SVC_Q_CFG_CPL_HOST fn q = 0 ∧ (s.queue fn q).cpls ≠ [] :=
  ⟨ringed, stateOf (exec (.completionWrite 8 63 .ok) ringed), 8, 63, ⟨by decide +kernel, by decide +kernel, by decide +kernel⟩, rfl, stateOf_next (by decide +kernel), by decide +kernel, by decide +kernel⟩
theorem witness_StoresStayInTheirPages_1 : ∃ (s t : State) (port : Nat) (m : PageMove), Sound s ∧ s.bad = [] ∧ s.held = [] ∧ (s.mlPort port).current = some m ∧
    s.mlUp port = true ∧ (frameRows m.target).length ≤ 64 ∧ exec (.promotePageDone port 0) s = .next t :=
  ⟨moving raised, stateOf (exec (.promotePageDone 15 0) (moving raised)), 15, raised, ⟨by decide +kernel, by decide +kernel, by decide +kernel⟩, rfl, rfl, by decide +kernel, by decide +kernel, by decide +kernel, stateOf_next (by decide +kernel)⟩
theorem witness_StoresStayInTheirPages_2 : ∃ (s t : State) (port : Nat) (m : PageMove), Sound s ∧ s.bad = [] ∧ (s.mlPort port).current = some m ∧
    (frameRows m.target).length ≤ 64 ∧ exec (.demotePageCopied port 0) s = .next t :=
  ⟨moving lowered, stateOf (exec (.demotePageCopied 15 0) (moving lowered)), 15, lowered, ⟨by decide +kernel, by decide +kernel, by decide +kernel⟩, rfl, by decide +kernel, by decide +kernel, stateOf_next (by decide +kernel)⟩
theorem witness_StoresStayInTheirPages_3 : ∃ (s t : State) (fn : Nat) (run : MigRun) (pg : Page), Sound s ∧ s.bad = [] ∧ (s.fnState fn).mig.run = some run ∧
    migOp run.req = 4 ∧ s.pageAt fn (run.req.w3 + 65536 * run.next) = some pg ∧ (frameRows pg.frame).length ≤ 64 ∧
    exec (.migPageStart fn 0 {}) s = .next t :=
  ⟨migRuns 4 1 none, stateOf (exec (.migPageStart 8 0 {}) (migRuns 4 1 none)), 8, ((migRuns 4 1 none).fnState 8).mig.run.getD {},
    _, ⟨by decide +kernel, by decide +kernel, by decide +kernel⟩, rfl, rfl, by decide +kernel, rfl, by decide +kernel, stateOf_next (by decide +kernel)⟩
theorem witness_StoresStayInTheirPages_4 : ∃ (s : State) (port : Nat) (rx : RxFlit), rx.flit.ftype = 1 ∧ rx.flit.sub = 0 ∧ isReserved rx.flit.addr = false ∧
    s.portPresent port = true ∧ s.portState port = portIsUp ∧ (s.linkIn port rx).2 = true ∧
    (s.linkIn port rx).1.routeFlit rx.flit = .here ∧ (s.linkIn port rx).1.mayDeliver port rx.flit = true ∧ (s.linkIn port rx).1.bad = [] ∧
    (s.linkIn port rx).1.writeForbidden rx.flit.dfn false rx.flit.addr (32 * rx.flit.len) = false :=
  ⟨linkUp, 23, rxOf 1 0, rfl, rfl, by decide +kernel, by decide +kernel, by decide +kernel, by decide +kernel, by decide +kernel, by decide +kernel, by decide +kernel, by decide +kernel⟩

/-! ## Ill-formed commands: one for each check -/

theorem test_wf_function : ((.loadStart 9 0 : Instr)).wf = false := by decide
theorem test_wf_partition : ((.functionEnable 0 0 0 : Instr)).wf = false := by decide
theorem test_wf_islet : ((.seqNop 384 : Instr)).wf = false := by decide
theorem test_wf_jumelPort : ((.laneFail 24 ⟨0, true, 0⟩ : Instr)).wf = false := by decide
theorem test_wf_mainlandPort : ((.mainlandPortDown 16 : Instr)).wf = false := by decide
theorem test_wf_die : ((.straitCrossbarForward 4 0 0 : Instr)).wf = false := by decide
theorem test_wf_island : ((.pllRelockDone 18 : Instr)).wf = false := by decide
theorem test_wf_stack : ((.hbmRefresh 8 0 0 : Instr)).wf = false := by decide
theorem test_wf_pseudoChannel : ((.hbmRefresh 0 64 0 : Instr)).wf = false := by decide
theorem test_wf_strait : ((.straitUnitSend 35 true : Instr)).wf = false := by decide
theorem test_wf_class : ((.straitUnitArrive 0 true 4 true 0 : Instr)).wf = false := by decide
theorem test_wf_queue : ((.queueDoorbell 1 64 0 : Instr)).wf = false := by decide
theorem test_wf_stage : ((.phaseStart 1 64 : Instr)).wf = false := by decide
theorem test_wf_context : ((.bucketStart 32 0 : Instr)).wf = false := by decide
theorem test_wf_bucket : ((.bucketStart 0 4096 : Instr)).wf = false := by decide
theorem test_wf_engine : ((.copyPlanStart 0 2 0 : Instr)).wf = false := by decide
theorem test_wf_bank : ((.collisionForcedGrant 0 16 : Instr)).wf = false := by decide
theorem test_wf_quadrant : ((.mxLoadComplete 0 4 [] : Instr)).wf = false := by decide
theorem test_wf_channel : ((.flitSend 0 4 : Instr)).wf = false := by decide
theorem test_wf_binding : ((.getVersion 2 [] : Instr)).wf = false := by decide
theorem test_wf_isletPort : ((.channelUnitHop 0 6 : Instr)).wf = false := by decide
theorem test_wf_chanId : ((.channelUnitReceive 0 32 0 : Instr)).wf = false := by decide
theorem test_wf_lane : ((.laneFail 0 ⟨9, true, 0⟩ : Instr)).wf = false := by decide
theorem test_wf_address : ((.routeWrite 0 256 0 : Instr)).wf = false := by decide
theorem test_wf_tag : ((.readTimeout 1 256 : Instr)).wf = false := by decide
theorem test_wf_point : ((.dvfsRequest 0 15 : Instr)).wf = false := by decide
theorem test_wf_core : ((.controllerWatchdogWrite 0 4 : Instr)).wf = false := by decide
theorem test_wf_source : ((.eventRouteWrite 1 16 0 : Instr)).wf = false := by decide
theorem test_wf_shard : ((.shardUpdateStart 1 4096 : Instr)).wf = false := by decide
theorem test_wf_packetEnd : ((.controlPacketArrive 388 0 : Instr)).wf = false := by decide
theorem test_wf_flit : ((.idle 0 { flit := { sub := 256 } } : Instr)).wf = false := by decide
theorem test_wf_memoryAccess : ((.memoryAccess 1 ⟨.host, 0⟩ 65535 2 none 0 : Instr)).wf = false := by decide
theorem test_wf_memoryBytes : ((.memoryAccess 1 ⟨.host, 0⟩ 0 2 (some [0]) 0 : Instr)).wf = false := by decide
theorem test_wf_shoalBytes : ((.shoalWindowAccess 0 0 2 (some [0]) 0 : Instr)).wf = false := by decide
theorem test_wf_dvfsDie : ((.dvfsRequest 6 0 : Instr)).wf = false := by decide
theorem test_wf_tempSample : ((.tempSample [] [] : Instr)).wf = false := by decide
theorem test_wf_bootReady : ((.bootReady [] [16] : Instr)).wf = false := by decide
theorem test_wf_registerOffset : ((.registerWrite 0 4 0 : Instr)).wf = false := by decide
theorem test_wf_eventOffset : ((.eventBitClear 0 4 0 : Instr)).wf = false := by decide
theorem test_wf_grantOffset : ((.grantWrite 0 4 0 : Instr)).wf = false := by decide

/-! ## Examples of the specification -/

/-- 04, the worked example of an FP64 product: the slices of a_1 = 1 + 2^-30 with e_a = 1, s = 8. -/
theorem test_fp64_slices : (List.range 8).map (fun j => sliceDigit 8 (j + 1) (sliceOf 8 1 0x3FF0000000400000)) = [64, 0, 0, 0, 16, 0, 0, 0] := by
  decide +kernel

/-- 04, the same example: the exact sum is 2^-60. -/
theorem test_fp64_cancelled : fp64Add (fp64Mul 0x3FF0000000400000 0x3FF0000000400000).1 0 = (0x3FF0000000800000, 0) := by
  decide +kernel

/-- 05, the worked example of FP32 to FP8-E4M3: 300.0, 500.0 and -0.0123 (flags of R180: bit 0 NX, 1 UF, 7 ST). -/
theorem test_e4m3 : [0x43960000, 0x43FA0000, 0xBC4985F0].map (fun x => convertNum 3 false 0 0 false (fmtFp32.decode x)) =
    [(0x79, 1), (0x7E, 0x81), (0x86, 3)] := by decide +kernel

/-- 05, the same example: with RND 4, 300.0 becomes 320 from the draw 40,960 on. -/
theorem test_e4m3_stochastic : [40959, 40960].map (fun u => (convertNum 3 false 4 u false (fmtFp32.decode 0x43960000)).1) =
    [0x79, 0x7A] := by decide +kernel

/-- 05, the same example in MXFP8-E4M3: scales 0x7F and 0x82. -/
theorem test_mx_blocks : (mxBlock 5 0 false [(fmtFp32.decode 0x43960000, 0), (fmtFp32.decode 0x3C23D70A, 0)]).1 = 0x7F ∧
    ((mxBlock 5 0 false [(fmtFp32.decode 0x453B8000, 0), (fmtFp32.decode 0x3C23D70A, 0)]).1,
      (mxBlock 5 0 false [(fmtFp32.decode 0x453B8000, 0), (fmtFp32.decode 0x3C23D70A, 0)]).2.1) = (0x82, [0x7C, 0x01]) := by
  decide +kernel

/-- R218: byte 0x21 of a frame is byte 1 of the sector of pseudo-channel 1. -/
theorem test_frame_byte : frameByte (.spread 0 5) 0x21 = (2 ^ 21 + 5) * 1024 + 1 := by decide +kernel

end Sys2Proof.Machine
end

/-! ## What every command keeps -/

namespace Sys2Proof.Machine
open Sys2Proof

section ExecKept
variable {pk : Package} {wq : List Instr} {H : Portion → Bool} {z0 : State}

/-- A command keeps every portion that `touches` does not list for it, with the package, the waiting commands and the sound
form of memory and register file. -/
theorem exec_kept {c : Instr} {s : State} (hH : ∀ x ∈ touches c, H x = false) (h : Kept pk wq H z0 s) :
    Kept.Outcome pk wq H z0 (exec c s) := by
  cases c
  case straitUnitSend => exact execStraitUnitSend_kept (held_sub hH rfl) h
  case straitUnitArrive => exact execStraitUnitArrive_kept (held_sub hH rfl) h
  case straitStallTimeout n ba => exact execStraitStallTimeout_kept ba (held_sub hH rfl) h
  case straitCrossbarForward => exact execStraitCrossbarForward_kept (held_sub hH rfl) h
  case pllRelockDone => exact execPllRelockDone_kept (held_sub hH rfl) h
  case loadStart => exact execLoadStart_kept (held_sub hH rfl) h
  case loadQueuedStart => exact execLoadQueuedStart_kept (held_sub hH rfl) h
  case loadCancel => exact execLoadCancel_kept (held_sub hH rfl) h
  case loadHeaderFetched => exact execLoadHeaderFetched_kept (held_sub hH rfl) h
  case loadStageStart => exact execLoadStageStart_kept (held_sub hH rfl) h
  case loadStageDone => exact execLoadStageDone_kept (held_sub hH rfl) h
  case loadFault => exact execLoadFault_kept (held_sub hH rfl) h
  case loadWaitIdleExit => exact execLoadWaitIdleExit_kept (held_sub hH rfl) h
  case loadQuiesceDone => exact execLoadQuiesceDone_kept (held_sub hH rfl) h
  case loadWriteDone => exact execLoadWriteDone_kept (held_sub hH rfl) h
  case launchParamsRead => exact execLaunchParamsRead_kept (held_sub hH rfl) h
  case isletStartArrive => exact execIsletStartArrive_kept (held_sub hH rfl) h
  case launchTimeout => exact execLaunchTimeout_kept (held_sub hH rfl) h
  case collisionForcedGrant => exact execCollisionForcedGrant_kept (held_sub hH rfl) h
  case isletFault => exact execIsletFault_kept (held_sub hH rfl) h
  case islStop => exact execIslStop_kept (held_sub hH rfl) h
  case isletReset => exact execIsletReset_kept (held_sub hH rfl) h
  case copyPlanStart => exact execCopyPlanStart_kept (held_sub hH rfl) h
  case copyReadReturn => exact execCopyReadReturn_kept (held_sub hH rfl) h
  case copyPlanComplete => exact execCopyPlanComplete_kept (held_sub hH rfl) h
  case seqNop => exact execSeqNop_kept (held_sub hH rfl) h
  case seqMx => exact execSeqMx_kept (held_sub hH rfl) h
  case seqVx => exact execSeqVx_kept (held_sub hH rfl) h
  case seqCopy => exact execSeqCopy_kept (held_sub hH rfl) h
  case seqSend => exact execSeqSend_kept (held_sub hH rfl) h
  case seqRecv => exact execSeqRecv_kept (held_sub hH rfl) h
  case seqWait => exact execSeqWait_kept (held_sub hH rfl) h
  case seqSetf => exact execSeqSetf_kept (held_sub hH rfl) h
  case seqClrf => exact execSeqClrf_kept (held_sub hH rfl) h
  case seqSignal => exact execSeqSignal_kept (held_sub hH rfl) h
  case seqLdcnt => exact execSeqLdcnt_kept (held_sub hH rfl) h
  case seqLoop => exact execSeqLoop_kept (held_sub hH rfl) h
  case seqJump => exact execSeqJump_kept (held_sub hH rfl) h
  case seqFence => exact execSeqFence_kept (held_sub hH rfl) h
  case seqHalt => exact execSeqHalt_kept (held_sub hH rfl) h
  case seqStallRelease => exact execSeqStallRelease_kept (held_sub hH rfl) h
  case channelUnitHop => exact execChannelUnitHop_kept (held_sub hH rfl) h
  case channelUnitReceive => exact execChannelUnitReceive_kept (held_sub hH rfl) h
  case channelCreditReturn => exact execChannelCreditReturn_kept (held_sub hH rfl) h
  case controlPacketArrive => exact execControlPacketArrive_kept (held_sub hH rfl) h
  case gangOpStart => exact execGangOpStart_kept (held_sub hH rfl) h
  case mxLoadDispatch => exact execMxLoadDispatch_kept (held_sub hH rfl) h
  case mxLoadComplete => exact execMxLoadComplete_kept (held_sub hH rfl) h
  case mxSwap => exact execMxSwap_kept (held_sub hH rfl) h
  case mxTileStart => exact execMxTileStart_kept (held_sub hH rfl) h
  case mxTileComplete => exact execMxTileComplete_kept (held_sub hH rfl) h
  case mxCombineStart => exact execMxCombineStart_kept (held_sub hH rfl) h
  case mxCombineComplete => exact execMxCombineComplete_kept (held_sub hH rfl) h
  case mxIdleGate => exact execMxIdleGate_kept (held_sub hH rfl) h
  case vxChainStart => exact execVxChainStart_kept (held_sub hH rfl) h
  case vxChainComplete => exact execVxChainComplete_kept (held_sub hH rfl) h
  case phaseStart => exact execPhaseStart_kept (held_sub hH rfl) h
  case phaseDone => exact execPhaseDone_kept (held_sub hH rfl) h
  case phaseTimeout => exact execPhaseTimeout_kept (held_sub hH rfl) h
  case shoalWindowAccess => exact execShoalWindowAccess_kept (held_sub hH rfl) h
  case feedCopyDone => exact execFeedCopyDone_kept (held_sub hH rfl) h
  case memoryAccess => exact execMemoryAccess_kept (held_sub hH rfl) h
  case hbmRefresh stack pc bank => exact execHbmRefresh_kept stack pc bank h
  case patrolScrub => exact execPatrolScrub_kept (held_sub hH rfl) h
  case pageRelocate => exact execPageRelocate_kept (held_sub hH rfl) h
  case mainlandPortDown => exact execMainlandPortDown_kept (held_sub hH rfl) h
  case migGo => exact execMigGo_kept (held_sub hH rfl) h
  case migMap => exact execMigMap_kept (held_sub hH rfl) h
  case migUnmap => exact execMigUnmap_kept (held_sub hH rfl) h
  case migPromote => exact execMigPromote_kept (held_sub hH rfl) h
  case migDemote => exact execMigDemote_kept (held_sub hH rfl) h
  case migCopy => exact execMigCopy_kept (held_sub hH rfl) h
  case migIngest => exact execMigIngest_kept (held_sub hH rfl) h
  case migPageStart => exact execMigPageStart_kept (held_sub hH rfl) h
  case demotePageCopied => exact execDemotePageCopied_kept (held_sub hH rfl) h
  case promotePageDone => exact execPromotePageDone_kept (held_sub hH rfl) h
  case migRequestComplete => exact execMigRequestComplete_kept (held_sub hH rfl) h
  case migCancel => exact execMigCancel_kept (held_sub hH rfl) h
  case xlateLookup => exact execXlateLookup_kept (held_sub hH rfl) h
  case xlateLookupDone => exact execXlateLookupDone_kept (held_sub hH rfl) h
  case reefWindowWrite => exact execReefWindowWrite_kept (held_sub hH rfl) h
  case reefGo => exact execReefGo_kept (held_sub hH rfl) h
  case reefCancel => exact execReefCancel_kept (held_sub hH rfl) h
  case reefAdmit => exact execReefAdmit_kept (held_sub hH rfl) h
  case reefOpStart => exact execReefOpStart_kept (held_sub hH rfl) h
  case reefOpEnd => exact execReefOpEnd_kept (held_sub hH rfl) h
  case reefUncorrectable => exact execReefUncorrectable_kept (held_sub hH rfl) h
  case laneFail => exact execLaneFail_kept (held_sub hH rfl) h
  case laneSwitchOver => exact execLaneSwitchOver_kept (held_sub hH rfl) h
  case laneSwapTimeout => exact execLaneSwapTimeout_kept (held_sub hH rfl) h
  case flitSend => exact execFlitSend_kept (held_sub hH rfl) h
  case flitCorrupt => exact execFlitCorrupt_kept (held_sub hH rfl) h
  case flitReservedType => exact execFlitReservedType_kept (held_sub hH rfl) h
  case idle => exact execIdle_kept (held_sub hH rfl) h
  case write => exact execWrite_off_kept hH h
  case readReq => exact execReadReq_kept (held_sub hH rfl) h
  case readRsp => exact execReadRsp_kept (held_sub hH rfl) h
  case interrupt => exact execInterrupt_kept (held_sub hH rfl) h
  case unreachable => exact execUnreachable_kept (held_sub hH rfl) h
  case claim => exact execClaim_kept (held_sub hH rfl) h
  case claimAck => exact execClaimAck_kept (held_sub hH rfl) h
  case claimEnd => exact execClaimEnd_kept (held_sub hH rfl) h
  case probe => exact execProbe_kept (held_sub hH rfl) h
  case probeAck => exact execProbeAck_kept (held_sub hH rfl) h
  case brk => exact execBrk_kept (held_sub hH rfl) h
  case hello => exact execHello_kept (held_sub hH rfl) h
  case keyShare => exact execKeyShare_kept (held_sub hH rfl) h
  case cert => exact execCert_kept (held_sub hH rfl) h
  case keyAuth => exact execKeyAuth_kept (held_sub hH rfl) h
  case keyDone => exact execKeyDone_kept (held_sub hH rfl) h
  case rekeySwitch => exact execRekeySwitch_kept (held_sub hH rfl) h
  case laneSwap => exact execLaneSwap_kept (held_sub hH rfl) h
  case laneSwapAck => exact execLaneSwapAck_kept (held_sub hH rfl) h
  case rs => exact execRs_kept (held_sub hH rfl) h
  case rsEnd => exact execRsEnd_kept (held_sub hH rfl) h
  case ag => exact execAg_kept (held_sub hH rfl) h
  case agEnd => exact execAgEnd_kept (held_sub hH rfl) h
  case up => exact execUp_kept (held_sub hH rfl) h
  case upEnd => exact execUpEnd_kept (held_sub hH rfl) h
  case down => exact execDown_kept (held_sub hH rfl) h
  case downEnd => exact execDownEnd_kept (held_sub hH rfl) h
  case vote => exact execVote_kept (held_sub hH rfl) h
  case voteResult => exact execVoteResult_kept (held_sub hH rfl) h
  case stepAbort => exact execStepAbort_kept (held_sub hH rfl) h
  case replayTimeout => exact execReplayTimeout_kept (held_sub hH rfl) h
  case livenessTimeout => exact execLivenessTimeout_kept (held_sub hH rfl) h
  case keyingTimeout => exact execKeyingTimeout_kept (held_sub hH rfl) h
  case keyingResend => exact execKeyingResend_kept (held_sub hH rfl) h
  case readTimeout => exact execReadTimeout_kept (held_sub hH rfl) h
  case flitStall => exact execFlitStall_kept (held_sub hH rfl) h
  case claimWait => exact execClaimWait_kept (held_sub hH rfl) h
  case trainingDone => exact execTrainingDone_kept (held_sub hH rfl) h
  case trainTimeout => exact execTrainTimeout_kept (held_sub hH rfl) h
  case portRetry => exact execPortRetry_kept (held_sub hH rfl) h
  case peerLoss => exact execPeerLoss_kept (held_sub hH rfl) h
  case portEnable => exact execPortEnable_kept (held_sub hH rfl) h
  case portReset => exact execPortReset_kept (held_sub hH rfl) h
  case portRekey => exact execPortRekey_kept (held_sub hH rfl) h
  case rekeyThreshold => exact execRekeyThreshold_kept (held_sub hH rfl) h
  case counterLimit => exact execCounterLimit_kept (held_sub hH rfl) h
  case rekeyTimeout => exact execRekeyTimeout_kept (held_sub hH rfl) h
  case rekeyRetry => exact execRekeyRetry_kept (held_sub hH rfl) h
  case routeWrite => exact execRouteWrite_kept (held_sub hH rfl) h
  case bucketStart => exact execBucketStart_kept (held_sub hH rfl) h
  case heldFlitRelease => exact execHeldFlitRelease_kept (held_sub hH rfl) h
  case bucketComplete => exact execBucketComplete_kept (held_sub hH rfl) h
  case bucketDeadline => exact execBucketDeadline_kept (held_sub hH rfl) h
  case voteTimeout => exact execVoteTimeout_kept (held_sub hH rfl) h
  case redResume => exact execRedResume_kept (held_sub hH rfl) h
  case redAbortStep => exact execRedAbortStep_kept (held_sub hH rfl) h
  case normEntryAccepted => exact execNormEntryAccepted_kept (held_sub hH rfl) h
  case normTimeout => exact execNormTimeout_kept (held_sub hH rfl) h
  case shardUpdateStart => exact execShardUpdateStart_kept (held_sub hH rfl) h
  case shardCommit => exact execShardCommit_kept (held_sub hH rfl) h
  case digestRecordAccepted => exact execDigestRecordAccepted_kept (held_sub hH rfl) h
  case digestTimeout => exact execDigestTimeout_kept (held_sub hH rfl) h
  case optRecover => exact execOptRecover_kept (held_sub hH rfl) h
  case optAdopt => exact execOptAdopt_kept (held_sub hH rfl) h
  case queueDoorbell => exact execQueueDoorbell_kept (held_sub hH rfl) h
  case descriptorFetched => exact execDescriptorFetched_kept (held_sub hH rfl) h
  case cmdNop => exact execCmdNop_kept (held_sub hH rfl) h
  case cmdLoad => exact execCmdLoad_kept (held_sub hH rfl) h
  case cmdLaunch => exact execCmdLaunch_kept (held_sub hH rfl) h
  case cmdStep => exact execCmdStep_kept (held_sub hH rfl) h
  case cmdGenerate => exact execCmdGenerate_kept (held_sub hH rfl) h
  case cmdMigrate => exact execCmdMigrate_kept (held_sub hH rfl) h
  case servicePause => exact execServicePause_kept (held_sub hH rfl) h
  case serviceResume => exact execServiceResume_kept (held_sub hH rfl) h
  case serviceStop => exact execServiceStop_kept (held_sub hH rfl) h
  case completionWrite => exact execCompletionWrite_kept (held_sub hH rfl) h
  case completionDoorbell => exact execCompletionDoorbell_kept (held_sub hH rfl) h
  case queueEnable => exact execQueueEnable_kept (held_sub hH rfl) h
  case queueDisable => exact execQueueDisable_kept (held_sub hH rfl) h
  case controllerWatchdogWrite => exact execControllerWatchdogWrite_kept (held_sub hH rfl) h
  case controllerRestart => exact execControllerRestart_kept (held_sub hH rfl) h
  case controllerRestartDone => exact execControllerRestartDone_kept (held_sub hH rfl) h
  case stepRecordWrite => exact execStepRecordWrite_kept (held_sub hH rfl) h
  case genPoll => exact execGenPoll_kept (held_sub hH rfl) h
  case eventBitClear => exact execEventBitClear_off_kept hH h
  case eventRouteWrite => exact execEventRouteWrite_kept (held_sub hH rfl) h
  case registerWrite => exact State.writeRegister_off_kept hH h
  case functionEnable => exact execFunctionEnable_kept (held_sub hH rfl) h
  case enableComplete => exact execEnableComplete_kept (held_sub hH rfl) h
  case functionDisable => exact execFunctionDisable_kept (held_sub hH rfl) h
  case grantCtlReset => exact execGrantCtlReset_kept (held_sub hH rfl) h
  case fnCtlReset => exact execFnCtlReset_kept (held_sub hH rfl) h
  case shutdownComplete => exact execShutdownComplete_kept (held_sub hH rfl) h
  case grantWrite => exact execGrantWrite_off_kept (held_sub hH rfl) h
  case keyRotate => exact execKeyRotate_kept (held_sub hH rfl) h
  case rotationKeyLoaded => exact execRotationKeyLoaded_kept (held_sub hH rfl) h
  case sweepPageStart => exact execSweepPageStart_kept (held_sub hH rfl) h
  case sweepPageDone => exact execSweepPageDone_kept (held_sub hH rfl) h
  case drbgHealthFail => exact execDrbgHealthFail_kept (held_sub hH rfl) h
  case drbgReseed => exact execDrbgReseed_kept (held_sub hH rfl) h
  case getVersion => exact execGetVersion_kept (held_sub hH rfl) h
  case getCapabilities => exact execGetCapabilities_kept (held_sub hH rfl) h
  case negotiateAlgorithms => exact execNegotiateAlgorithms_kept (held_sub hH rfl) h
  case getDigests => exact execGetDigests_kept (held_sub hH rfl) h
  case getCertificate => exact execGetCertificate_kept (held_sub hH rfl) h
  case challenge => exact execChallenge_kept (held_sub hH rfl) h
  case getMeasurements => exact execGetMeasurements_kept (held_sub hH rfl) h
  case spdmUnsupported => exact execSpdmUnsupported_kept (held_sub hH rfl) h
  case harbourWatchdog => exact execHarbourWatchdog_kept (held_sub hH rfl) h
  case hbrEvtClear => exact execHbrEvtClear_kept (held_sub hH rfl) h
  case hbrEvtRouteWrite => exact execHbrEvtRouteWrite_kept (held_sub hH rfl) h
  case wakeRequest => exact execWakeRequest_kept (held_sub hH rfl) h
  case dvfsRequest => exact execDvfsRequest_kept (held_sub hH rfl) h
  case govWindowStart => exact execGovWindowStart_kept (held_sub hH rfl) h
  case chargeEnd => exact execChargeEnd_kept (held_sub hH rfl) h
  case govCfgWrite => exact execGovCfgWrite_kept (held_sub hH rfl) h
  case dvfsVoltageSettled => exact execDvfsVoltageSettled_kept (held_sub hH rfl) h
  case tempSample => exact execTempSample_kept (held_sub hH rfl) h
  case thermalCapStep => exact execThermalCapStep_kept (held_sub hH rfl) h
  case leadRequest => exact execLeadRequest_kept (held_sub hH rfl) h
  case leadRelease => exact execLeadRelease_kept (held_sub hH rfl) h
  case leadGrant => exact execLeadGrant_kept (held_sub hH rfl) h
  case leadHoldTimeout => exact execLeadHoldTimeout_kept (held_sub hH rfl) h
  case leaderTakeover => exact execLeaderTakeover_kept (held_sub hH rfl) h
  case gateActionArrive => exact execGateActionArrive_kept (held_sub hH rfl) h
  case gateResponse => exact execGateResponse_kept (held_sub hH rfl) h
  case gateGo => exact execGateGo_kept (held_sub hH rfl) h
  case gateDrop => exact execGateDrop_kept (held_sub hH rfl) h
  case gateTimeout => exact execGateTimeout_kept (held_sub hH rfl) h
  case snapshotGo => exact execSnapshotGo_kept (held_sub hH rfl) h
  case snapshotUnitAccept => exact execSnapshotUnitAccept_kept (held_sub hH rfl) h
  case warmReset => exact execWarmReset_kept (held_sub hH rfl) h
  case stackReset => exact execStackReset_kept (held_sub hH rfl) h
  case stackResetDone => exact execStackResetDone_kept (held_sub hH rfl) h
  case bootReady => exact execBootReady_kept (held_sub hH rfl) h
  case readyTimeout => exact execReadyTimeout_kept (held_sub hH rfl) h
  case trialTimeout => exact execTrialTimeout_kept (held_sub hH rfl) h
  case fwStage => exact execFwStage_kept (held_sub hH rfl) h
  case fwStageDone => exact execFwStageDone_kept (held_sub hH rfl) h
  case fwCancel => exact execFwCancel_kept (held_sub hH rfl) h
  case journalCommit => exact execJournalCommit_kept (held_sub hH rfl) h
  case journalCompact => exact execJournalCompact_kept (held_sub hH rfl) h
  case journalCompactionDone => exact execJournalCompactionDone_kept (held_sub hH rfl) h
  case mctpInGo => exact execMctpInGo_kept (held_sub hH rfl) h
  case mctpOutAck => exact execMctpOutAck_kept (held_sub hH rfl) h
  case setEndpointId => exact execSetEndpointId_kept (held_sub hH rfl) h
  case getEndpointId => exact execGetEndpointId_kept (held_sub hH rfl) h
  case getMctpVersionSupport => exact execGetMctpVersionSupport_kept (held_sub hH rfl) h
  case getMessageTypeSupport => exact execGetMessageTypeSupport_kept (held_sub hH rfl) h
  case getTid => exact execGetTid_kept (held_sub hH rfl) h
  case setTid => exact execSetTid_kept (held_sub hH rfl) h
  case getPldmVersion => exact execGetPldmVersion_kept (held_sub hH rfl) h
  case getPldmTypes => exact execGetPldmTypes_kept (held_sub hH rfl) h
  case getPldmCommands => exact execGetPldmCommands_kept (held_sub hH rfl) h
  case getPdrRepositoryInfo => exact execGetPdrRepositoryInfo_kept (held_sub hH rfl) h
  case getPdr => exact execGetPdr_kept (held_sub hH rfl) h
  case getSensorReading => exact execGetSensorReading_kept (held_sub hH rfl) h
  case getStateSensorReadings => exact execGetStateSensorReadings_kept (held_sub hH rfl) h
  case pldmFirmwareUpdate => exact execPldmFirmwareUpdate_kept (held_sub hH rfl) h
  case pldmUnsupported => exact execPldmUnsupported_kept (held_sub hH rfl) h
  case entdaa => exact execEntdaa_kept (held_sub hH rfl) h
  case setdasa => exact execSetdasa_kept (held_sub hH rfl) h
  case bypass => exact execBypass_kept (held_sub hH rfl) h
  case idcode => exact execIdcode_kept (held_sub hH rfl) h
  case samplePreload => exact execSamplePreload_kept (held_sub hH rfl) h
  case extest => exact execExtest_kept (held_sub hH rfl) h
  case clamp => exact execClamp_kept (held_sub hH rfl) h
  case highz => exact execHighz_kept (held_sub hH rfl) h
  case extestPulse => exact execExtestPulse_kept (held_sub hH rfl) h
  case extestTrain => exact execExtestTrain_kept (held_sub hH rfl) h
  case resetNAssert => exact execResetNAssert_kept (held_sub hH rfl) h
  case resetNRelease => exact execResetNRelease_kept (held_sub hH rfl) h
  case pwrGoodNAssert => exact execPwrGoodNAssert_kept (held_sub hH rfl) h
  case pwrGoodNRelease => exact execPwrGoodNRelease_kept (held_sub hH rfl) h
  case testEnAssert => exact execTestEnAssert_kept (held_sub hH rfl) h
  case testEnRelease => exact execTestEnRelease_kept (held_sub hH rfl) h
  case refclkFault => exact execRefclkFault_kept h
  case powerLoss => exact execPowerLoss_kept (held_sub hH rfl) h
  case harbourWatchdogWrite => exact execHarbourWatchdogWrite_kept (held_sub hH rfl) h
  case mainlandPortTrainingLoss => exact execMainlandPortTrainingLoss_kept h
  case mainlandPortRetrained => exact execMainlandPortRetrained_kept (held_sub hH rfl) h
  case mainlandRefresh port rfm => exact execMainlandRefresh_kept port rfm h
  case shardDigestReadDone => exact execShardDigestReadDone_kept (held_sub hH rfl) h
  case adoptRegenerationDone => exact execAdoptRegenerationDone_kept (held_sub hH rfl) h

end ExecKept

/-- Nothing is held of a sound state but its package, its waiting commands and its form. -/
theorem Sound.kept {s : State} (h : Sound s) : Kept s.pkg s.pending (fun _ => false) s s :=
  ⟨rfl, rfl, h, fun _ hx => nomatch hx⟩

/-- Taking the front command from the queue leaves memory and registers. -/
theorem Sound.withPending {s : State} (h : Sound s) (q : List Instr) : Sound { s with pending := q } :=
  ⟨h.mem, h.regs, h.fields⟩

/-- A step that goes on keeps the package and a sound form, and takes the front command from the queue. -/
theorem step_kept {s : State} (h : Sound s) : Kept.Outcome s.pkg s.pending.tail (fun _ => false) s (step s) := by
  unfold step
  split
  · next e =>
    rw [e]
    have k := h.kept
    rw [e] at k
    exact Kept.next (State.idles_kept (fun _ _ => rfl) k)
  · next c rest e =>
    rw [e]
    have k : Kept s.pkg rest (fun _ => false) { s with pending := rest } { s with pending := rest } := (h.withPending rest).kept
    intro t ht
    have kt := exec_kept (fun _ _ => rfl) k t ht
    exact ⟨kt.pkg, kt.pending, kt.sound, fun _ hx => nomatch hx⟩

/-- Settles O30: every command and the idle tick keep the sound form. -/
theorem everyStepKeepsTheStateSound : Obligations.EveryStepKeepsTheStateSound := by
  intro s t h e
  obtain ⟨hpkg, hpending, hsound, -⟩ := step_kept h t e
  exact ⟨hsound, hpkg, hpending⟩

end Sys2Proof.Machine

/-! ## What a read through a window gives -/

namespace Sys2Proof.Machine
open Sys2Proof

/-- A reserved offset reads as zero. -/
theorem State.readRegister_none {s : State} {fn off : Nat} (e : regAt off = none) : s.readRegister fn off = 0 := by
  simp only [State.readRegister, e]

/-- An offset with a register reads as the window's word of it where the window shows it. -/
theorem State.readRegister_some {s : State} {fn off i b : Nat} {r : Reg} (e : regAt off = some (r, i, b)) :
    s.readRegister fn off =
      if s.shows fn r (ownIndex r fn i) b = true then s.windowWord fn r (ownIndex r fn i) b else 0 := by
  simp only [State.readRegister, e]

/-- A set bit of a legal word lies in a field of the register. -/
theorem wordLegal_field_of_bit {r : Reg} {w : Word} {i : Nat} (h : wordLegal r w = true) (hi : w.toNat.testBit i = true) :
    ∃ f ∈ r.fields, f.lo ≤ i ∧ i ≤ f.hi := by
  simpa only [List.any_eq_true, Bool.and_eq_true, decide_eq_true_eq] using wordLegal_iff.1 h i hi

/-- Zero has no bit outside the fields of a register. -/
theorem wordLegal_zero (r : Reg) : wordLegal r 0 = true :=
  wordLegal_iff.2 fun i hi => by simp at hi

/-- A read of an offset has the reserved fields of the register there zero (R16). -/
theorem Sound.readRegister_legal {s : State} (h : Sound s) {fn off i b : Nat} {r : Reg} (e : regAt off = some (r, i, b)) :
    wordLegal r (s.readRegister fn off) = true := by
  rw [State.readRegister_some e]
  split
  · exact h.windowWord_legal fn r _ b
  · exact wordLegal_zero r

/-- Settles O31: the window's words, and the registers themselves, have bits in their fields alone. -/
theorem reservedFieldsReadZero : Obligations.ReservedFieldsReadZero := by
  intro s h
  refine ⟨fun fn off => ⟨State.readRegister_none, ?_⟩, ?_⟩
  · intro r a b i e hi
    exact wordLegal_field_of_bit (h.readRegister_legal e) hi
  · intro r a b i hi
    exact wordLegal_field_of_bit (h.reg_legal r a b) hi

/-! ## Identification registers -/

/-- A software write of a fixed register of a sound state changes no register. -/
theorem Sound.reg_writeReg_fixed {s : State} (h : Sound s) {r : Reg} (hf : fixedReg r = true) (a b : Nat) (w : Word)
    (q : Reg) (x y : Nat) : (s.writeReg r a b w).reg q x y = s.reg q x y := by
  have hw : writtenWord r (s.reg r a b) w = resetWord s.pkg r a b := by
    rw [writtenWord_fixed hf, h.reg_fixed r a b hf]
  unfold State.writeReg
  by_cases hq : q = r
  · subst hq
    rw [h.reg_fixed q x y hf, (h.setReg (.inl hw)).reg_fixed q x y hf]
    rfl
  · exact State.reg_setReg_ne s r q a b x y _ hq

/-- SEC_FN_ID apart, a window shows a fixed register's own word. -/
theorem State.shownOf_fixed {s : State} {fn a b : Nat} {r : Reg} (hf : fixedReg r = true) (hr : r ≠ .SEC_FN_ID) :
    s.shownOf fn r a b = none := by
  unfold fixedReg at hf
  split at hf
  case h_8 => exact absurd rfl hr
  case h_10 => cases hf
  all_goals rfl

/-- SEC_FN_ID shows the number of the function whose window it is (R428). -/
theorem State.windowWord_fnId (s : State) (fn a b : Nat) :
    s.windowWord fn .SEC_FN_ID a b = resetWord s.pkg .SEC_FN_ID fn b := by
  have hm : fieldMask .SEC_FN_ID = 2 ^ 4 - 1 := by decide
  simp only [State.windowWord, State.shownOf, resetWord, hm, Nat.and_two_pow_sub_one_eq_mod]

/-- In a sound state a window shows a fixed register with its reset value. -/
theorem Sound.windowWord_fixed {s : State} (h : Sound s) {r : Reg} (hf : fixedReg r = true) (fn i b : Nat) :
    s.windowWord fn r (ownIndex r fn i) b = resetWord s.pkg r (ownIndex r fn i) b := by
  by_cases hr : r = .SEC_FN_ID
  · subst hr
    exact s.windowWord_fnId fn _ b
  · unfold State.windowWord
    rw [State.shownOf_fixed hf hr]
    exact h.reg_fixed r _ b hf

/-- Settles O32: no field of an identification register is software's, and a sound state lists none of them. -/
theorem identityRegistersHold : Obligations.IdentityRegistersHold := by
  intro s h
  refine ⟨?_, ?_⟩
  · intro fn off r a b e hf
    rw [State.readRegister_some e, h.windowWord_fixed hf]
  · intro r a b w hf
    exact ⟨h.reg_fixed r a b hf, h.reg_writeReg_fixed hf a b w⟩

/-- The registers of the first block show in every window. -/
theorem State.shows_pkg {s : State} {fn a b : Nat} {r : Reg} (h : r.place.base < 0x20000) : s.shows fn r a b = true := by
  unfold State.shows
  dsimp only
  rw [if_pos h]

/-- A fixed register that every window shows reads its reset value. -/
theorem Sound.readRegister_pkg {s : State} (h : Sound s) {fn off i b : Nat} {r : Reg} (e : regAt off = some (r, i, b))
    (hf : fixedReg r = true) (hb : r.place.base < 0x20000) : s.readRegister fn off = resetWord s.pkg r (ownIndex r fn i) b := by
  rw [State.readRegister_some e, if_pos (State.shows_pkg hb), h.windowWord_fixed hf]

/-- Settles O58: both registers are fixed, and every window shows them. -/
theorem capabilityRegistersPerPart : Obligations.CapabilityRegistersPerPart := by
  intro s fn h
  have cap : regAt 0x8 = some (.PKG_CAP, 0, 0) := by decide
  have ports : regAt 0x10 = some (.PKG_PORTS, 0, 0) := by decide
  refine ⟨?_, ?_⟩
  · rw [h.readRegister_pkg cap rfl (by decide), resetWord]
    cases s.pkg.part <;> decide
  · rw [h.readRegister_pkg ports rfl (by decide), resetWord]
    cases s.pkg.part <;> decide

end Sys2Proof.Machine

/-! ## What a write through a window comes to -/

namespace Sys2Proof.Machine
open Sys2Proof

/-- A write of a register that an open window shows acts by the register's rules. -/
theorem exec_registerWrite_shown {s : State} {fn off i b : Nat} {r : Reg} {w : Word} (e : regAt off = some (r, i, b))
    (ho : s.windowOpen fn = true) (hs : s.shows fn r (ownIndex r fn i) b = true) :
    exec (.registerWrite fn off w) s = s.windowWrites fn r (ownIndex r fn i) b w := by
  simp only [exec_registerWrite, execRegisterWrite, State.writeRegister, e]
  rw [if_pos ⟨ho, hs⟩]

/-- A write at a reserved offset changes nothing. -/
theorem exec_registerWrite_none {s : State} {fn off : Nat} {w : Word} (e : regAt off = none) :
    exec (.registerWrite fn off w) s = .next s := by
  simp only [exec_registerWrite, execRegisterWrite, State.writeRegister, e]

/-- A window that is not open, or does not show the register, ignores the write. -/
theorem exec_registerWrite_ignored {s : State} {fn off i b : Nat} {r : Reg} {w : Word} (e : regAt off = some (r, i, b))
    (h : s.windowOpen fn = false ∨ s.shows fn r (ownIndex r fn i) b = false) :
    exec (.registerWrite fn off w) s = .next s := by
  simp only [exec_registerWrite, execRegisterWrite, State.writeRegister, e]
  rw [if_neg]
  rintro ⟨ho, hs⟩
  rcases h with h | h
  · rw [ho] at h; cases h
  · rw [hs] at h; cases h

end Sys2Proof.Machine

/-! ## Slots of absent units -/

namespace Sys2Proof.Machine
open Sys2Proof

/-- A distance is the strides it holds and the rest; with no stride it is all rest. -/
theorem strides_rest (stride d : Nat) :
    d = stride * (if stride = 0 then 0 else d / stride) + (if stride = 0 then d else d % stride) := by
  split
  · omega
  · exact (Nat.div_add_mod d stride).symm

/-- An offset has indices in a register's place where it is the base and so many strides. -/
theorem RegPlace.index_some {p : RegPlace} {off a b : Nat} (h : p.index off = some (a, b)) :
    off = p.base + p.strideA * a + p.strideB * b ∧ a < p.countA ∧ b < p.countB := by
  simp only [RegPlace.index, Option.ite_none_left_eq_some, Option.ite_none_right_eq_some, Option.some.injEq, Prod.mk.injEq] at h
  obtain ⟨hbase, ⟨ha, hb, hrest⟩, rfl, rfl⟩ := h
  have hA := strides_rest p.strideA (off - p.base)
  have hB := strides_rest p.strideB (if p.strideA = 0 then off - p.base else (off - p.base) % p.strideA)
  rw [hrest, Nat.add_zero] at hB
  rw [← hB, Nat.add_assoc, ← hA]
  exact ⟨by omega, ha, hb⟩

/-- The register found at an offset has its indices there. -/
theorem regAt_index {off a b : Nat} {r : Reg} (h : regAt off = some (r, a, b)) : r.place.index off = some (a, b) := by
  obtain ⟨q, -, hq⟩ := List.exists_of_findSome?_eq_some h
  obtain ⟨i, hi, hs⟩ := Option.bind_eq_some_iff.1 hq
  split at hs
  · cases hs
  · cases hs; exact hi

/-- A register stands before `n` slots of `stride` bytes from `lo`, or after them, or once in each. -/
def RegPlace.inSlots (p : RegPlace) (lo stride n : Nat) : Bool :=
  decide (p.base + p.strideA * (p.countA - 1) + p.strideB * (p.countB - 1) < lo) || decide (lo + stride * n ≤ p.base) ||
  (decide (lo ≤ p.base) && decide (p.base + p.strideB * (p.countB - 1) < lo + stride) && p.strideA == stride && !p.perFn)

/-- The register at an offset in slot `p` stands there once in each slot, and its first index is the slot's number. -/
theorem regAt_slot {lo stride n p off a b : Nat} {r : Reg} (k : Reg.all.all (fun r => r.place.inSlots lo stride n) = true)
    (hp : p < n) (hlo : lo + stride * p ≤ off) (hhi : off < lo + stride * p + stride) (e : regAt off = some (r, a, b)) :
    (lo ≤ r.place.base ∧ r.place.base < lo + stride) ∧ r.place.perFn = false ∧ a = p := by
  obtain ⟨ho, ha, hb⟩ := RegPlace.index_some (regAt_index e)
  have hA : r.place.strideA * a ≤ r.place.strideA * (r.place.countA - 1) := Nat.mul_le_mul_left _ (by omega)
  have hB : r.place.strideB * b ≤ r.place.strideB * (r.place.countB - 1) := Nat.mul_le_mul_left _ (by omega)
  have hn : stride * p + stride ≤ stride * n := Nat.mul_le_mul_left stride hp
  have hr := List.all_eq_true.1 k r (Reg.mem_all r)
  simp only [RegPlace.inSlots, Bool.or_eq_true, Bool.and_eq_true, decide_eq_true_eq, beq_iff_eq, Bool.not_eq_true'] at hr
  rcases hr with (hbefore | hafter) | ⟨⟨⟨hbase, hslot⟩, hstride⟩, hfn⟩
  · omega
  · omega
  · rw [hstride] at ho
    have h1 : p < a + 1 := Nat.lt_of_mul_lt_mul_left (a := stride) (by rw [Nat.mul_succ]; omega)
    have h2 : a < p + 1 := Nat.lt_of_mul_lt_mul_left (a := stride) (by rw [Nat.mul_succ]; omega)
    exact ⟨⟨hbase, by omega⟩, hfn, by omega⟩

/-- The slots of stacks in the REEF block, of Jumel ports and of mainland ports (R7). -/
theorem reef_inSlots : Reg.all.all (fun r => r.place.inSlots 0x500000 0x1000 256) = true := by decide +kernel
theorem port_inSlots : Reg.all.all (fun r => r.place.inSlots 0x600000 0x1000 24) = true := by decide +kernel
theorem mainland_inSlots : Reg.all.all (fun r => r.place.inSlots 0x400300 0x10 16) = true := by decide +kernel

/-- The register at an offset of the REEF block stands in the first slot once, and then in each. -/
theorem regAt_reef {off a b : Nat} {r : Reg} (hlo : 0x500000 ≤ off) (hhi : off < 0x600000) (e : regAt off = some (r, a, b)) :
    0x500000 ≤ r.place.base ∧ r.place.base < 0x501000 := by
  have hp : (off - 0x500000) / 0x1000 < 256 := by omega
  have h1 : 0x500000 + 0x1000 * ((off - 0x500000) / 0x1000) ≤ off := by omega
  have h2 : off < 0x500000 + 0x1000 * ((off - 0x500000) / 0x1000) + 0x1000 := by omega
  exact (regAt_slot reef_inSlots hp h1 h2 e).1

/-- A window shows registers of the REEF block only on a part that has reef units. -/
theorem State.shows_reef {s : State} {fn a b : Nat} {r : Reg} (hlo : 0x500000 ≤ r.place.base) (hhi : r.place.base < 0x600000) :
    s.shows fn r a b = (partReef s.pkg.part && (fn == 0 || bit (s.stacksOf fn) a)) := by
  unfold State.shows
  dsimp only
  iterate 8 rw [if_neg (by omega)]
  rw [if_pos hhi]

/-- A window shows the registers of a Jumel port only on a part that has the port. -/
theorem State.shows_port {s : State} {fn a b : Nat} {r : Reg} (hlo : 0x600000 ≤ r.place.base) (hhi : r.place.base < 0x618000) :
    s.shows fn r a b = (s.portPresent a && (fn == 0 || bit (s.portsOf fn) a)) := by
  unfold State.shows
  dsimp only
  iterate 9 rw [if_neg (by omega)]
  rw [if_pos hhi]

/-- A window shows the registers of a mainland port only on a part that has the port. -/
theorem State.shows_mainland {s : State} {fn a b : Nat} {r : Reg} (hlo : 0x400300 ≤ r.place.base)
    (hhi : r.place.base < 0x4F0000) :
    s.shows fn r a b = (bit (partMl s.pkg.part) a && (fn == 0 || (s.boardPorts fn).contains a)) := by
  unfold State.shows
  dsimp only
  iterate 6 rw [if_neg (by omega)]
  rw [if_pos hhi]

/-- An offset reads as zero and ignores writes where the window does not show the register there. -/
theorem hidden_reads_zero {s : State} {fn off : Nat} (w : Word)
    (h : ∀ r i b, regAt off = some (r, i, b) → s.shows fn r (ownIndex r fn i) b = false) :
    s.readRegister fn off = 0 ∧ exec (.registerWrite fn off w) s = .next s := by
  cases e : regAt off with
  | none => exact ⟨State.readRegister_none e, exec_registerWrite_none e⟩
  | some x =>
    obtain ⟨r, i, b⟩ := x
    have hs := h r i b e
    refine ⟨?_, exec_registerWrite_ignored e (.inr hs)⟩
    rw [State.readRegister_some e, hs]
    rfl

/-- Settles O50: no window shows the registers of a unit that the part lacks. -/
theorem absentUnitsReadZero : Obligations.AbsentUnitsReadZero := by
  intro s fn off w h
  refine hidden_reads_zero w fun r i b e => ?_
  rcases h with ⟨hpart, hlo, hhi⟩ | ⟨p, hp, habsent, hlo, hhi⟩ | ⟨p, hp, habsent, hlo, hhi⟩
  · have hreef : partReef s.pkg.part = false := by
      cases hq : s.pkg.part with
      | tva1024 => exact absurd hq hpart
      | tva1024p | tva768 => rfl
    obtain ⟨h1, h2⟩ := regAt_reef hlo hhi e
    rw [State.shows_reef h1 (by omega), hreef, Bool.false_and]
  · obtain ⟨⟨h1, h2⟩, hfn, rfl⟩ := regAt_slot port_inSlots hp hlo (by omega) e
    simp [State.shows_port h1 (by omega), State.portPresent, ownIndex, hfn, habsent]
  · obtain ⟨⟨h1, h2⟩, hfn, rfl⟩ := regAt_slot mainland_inSlots hp hlo (by omega) e
    simp [State.shows_mainland h1 (by omega), ownIndex, hfn, habsent]

end Sys2Proof.Machine

/-! ## The state after reset -/

namespace Sys2Proof.Machine
open Sys2Proof

/-- The register file of the state after reset is empty, so every register reads its reset value. -/
theorem State.reg_reset (r : Reg) (a b : Nat) : State.reset.reg r a b = resetWord State.reset.pkg r a b := rfl

/-- Settles O29: memory and register file of the state after reset list nothing. -/
theorem resetIsSound : Obligations.ResetIsSound := by
  refine ⟨⟨rfl, rfl, rfl⟩, rfl, rfl, State.reg_reset, fun _ => rfl, ?_, ?_⟩
  · decide
  · intro fn _
    exact (by decide : bits (plainReset .SEC_GRANT_CTL).toNat 0 1 = 0)

/-! ## Service events and register writes -/

/-- EVENT_BIT_CLEAR at the offset of an event register is a write of that register. -/
theorem exec_eventBitClear_event {s : State} {fn off i b k : Nat} {r : Reg} {w : Word} (e : regAt off = some (r, i, b))
    (hk : eventSource r = some k) : exec (.eventBitClear fn off w) s = exec (.registerWrite fn off w) s := by
  simp only [exec_eventBitClear, execEventBitClear, e, Option.bind_some, hk]
  rfl

/-- Only five registers have writes that may stop the machine, or are a command of their own. -/
theorem State.windowWrites_next {s : State} {fn a b : Nat} {r : Reg} {w : Word}
    (h : [Reg.MEM_XLATE_ADDR, .SVC_Q_DB, .SVC_Q_CPL_DB, .OPT_CTL, .REEF_ISSUE].contains r = false) :
    ∃ t, s.windowWrites fn r a b w = .next t := by
  cases r
  case MEM_XLATE_ADDR | SVC_Q_DB | SVC_Q_CPL_DB | OPT_CTL | REEF_ISSUE => exact absurd h (by decide)
  all_goals exact ⟨_, rfl⟩

/-- A function's write of one of its event registers clears events and arms the source again (R395). -/
theorem State.windowWrites_event {s : State} {fn a b k : Nat} {r : Reg} {w : Word} (hk : eventSource r = some k) (hf : fn ≠ 0) :
    s.windowWrites fn r a b w = .next (s.clearEvents fn k r a b w) := by
  unfold eventSource at hk
  split at hk
  case h_8 => cases hk
  all_goals
    cases hk
    simp only [State.windowWrites, eventSource, if_neg hf]

/-- Function 0's write of a managed register with no behaviour of its own goes by the access types of its fields (R14). -/
theorem State.plainWrite_managed {s : State} {r : Reg} {a b : Nat} {w : Word} (h : managedReg r = true) :
    s.plainWrite 0 r a b w = s.writeReg r a b w :=
  if_pos h

/-- Managed registers of straits, scrubbing and ports that function 0 writes so. -/
theorem State.windowWrites_managed {s : State} {a b : Nat} {r : Reg} {w : Word}
    (h : [Reg.STR_ARB, .STR_EVT, .MEM_SCRUB_CFG, .JL_PORT_CFG, .JL_PORT_PIN].contains r = true) :
    ownIndex r 0 a = a ∧ s.windowWrites 0 r a b w = .next (s.writeReg r a b w) := by
  have hm : managedReg r = true := List.all_eq_true.1 (by decide +kernel :
    [Reg.STR_ARB, .STR_EVT, .MEM_SCRUB_CFG, .JL_PORT_CFG, .JL_PORT_PIN].all managedReg = true) r (List.contains_iff_mem.1 h)
  rw [← State.plainWrite_managed hm]
  simp only [List.contains_iff_mem, List.mem_cons, List.not_mem_nil, or_false] at h
  rcases h with rfl | rfl | rfl | rfl | rfl
  all_goals exact ⟨rfl, rfl⟩

/-- The route of a source of a function: the write, disarmed and armed again. -/
theorem State.writeEvtRoute_source {s : State} {fn k : Nat} {w : Word} (hf : s.fnLive fn = true) (hk : k < 7) :
    s.writeEvtRoute fn k w = ((s.writeReg .SVC_EVT_ROUTE fn k w).setArmed fn k false).armEvent fn k := by
  unfold State.writeEvtRoute
  rw [if_neg (by simp [hf]; omega)]
  dsimp only
  rw [if_neg (by omega)]

/-- The first waiting record is written where its checkpoints have ended, its page takes a write and no optimiser forbids it
(R390). -/
theorem execStepRecordWrite_writes {fn : Nat} {v : StepSvc} {r : StepRec} {rest : List StepRec} {s t : State}
    (hlive : s.fnLive fn = true) (hrun : s.restarting.contains (s.commandDie fn) = false)
    (hstep : (s.fnState fn).step = some v) (hrecs : v.recs = r :: rest)
    (hended : r.ckpts ≤ (s.fnState fn).ckptEnded.length)
    (hfree : s.optForbids fn true (bytesAt v.cb 0x18 8 + 64 * (v.seq % 2 ^ bytesAt v.cb 0x20 1)) 64 = false)
    (hroom : s.prepareWrite fn (bytesAt v.cb 0x18 8 + 64 * (v.seq % 2 ^ bytesAt v.cb 0x20 1)) 64 = (t, true)) :
    execStepRecordWrite fn s = .next (t.stepRecorded fn v r rest) := by
  unfold execStepRecordWrite
  rw [if_neg (by simp only [hlive, hrun]; decide)]
  simp only [hstep, hrecs, if_neg (Nat.not_lt.2 hended), hfree, hroom]
  rfl

/-- A restart counts 8 ms from the oldest of the cluster's four watchdog writes (R374). -/
theorem execControllerRestart_oldest {die a b c d : Nat} {s : State} (hdie : die < 4)
    (hrun : s.restarting.contains die = false)
    (hw : (List.range 4).map (fun c => storeGet 0 s.watchdogs (4 * die + c)) = [a, b, c, d]) :
    execControllerRestart die s =
      .next ((s.reachCount 16 (min (min (min (min a a) b) c) d + 8000000)).clusterRestarts die) := by
  unfold execControllerRestart
  rw [if_neg (by simp only [hdie, hrun]; decide)]
  simp only [hw]
  rfl

/-- A live function polls its slot table unless its cluster restarts; a boundary that writes no forbidden slot goes on. -/
theorem execGenPoll_opens {fn : Nat} {ans : Answer} {s : State} (hlive : s.fnLive fn = true)
    (hrun : s.restarting.contains (s.commandDie fn) = false) (hfree : s.slotsForbidden (s.genOpen fn ans) fn = false) :
    execGenPoll fn ans s = .next (s.genOpen fn ans) := by
  unfold execGenPoll State.genBoundaryOpen
  rw [if_pos ⟨hlive, hrun⟩]
  simp only [hfree]
  rfl

/-- Settles O18: each command is run on the state that its clause describes, and a register write comes to what the window
does with the register. -/
theorem serviceEventsComplete : Obligations.ServiceEventsComplete := by
  refine ⟨?_, ?_, ?_, ?_, ?_, ?_, ?_, ?_, ?_, ?_, ?_, ?_, ?_, ?_, ?_⟩
  · intro die core s hdie hcore
    exact if_pos ⟨hdie, hcore⟩
  · intro die a b c d s hdie hrun hw
    exact execControllerRestart_oldest hdie hrun hw
  · intro die s hrun
    exact if_pos hrun
  · intro fn v r rest t s hlive hrun hstep hrecs _ _ hended hfree hroom
    exact execStepRecordWrite_writes hlive hrun hstep hrecs hended hfree hroom
  · intro fn ans s hlive hrun hfree
    exact execGenPoll_opens hlive hrun hfree
  · intro fn k i b off w r s e hk hf ho hs
    rw [exec_eventBitClear_event e hk, exec_registerWrite_shown e ho hs, State.windowWrites_event hk hf]
  · intro fn k w s hlive hk
    rw [exec_eventRouteWrite, execEventRouteWrite, State.writeEvtRoute_source hlive hk]
  · intro fn i b off w r s e ho hs hr
    obtain ⟨t, ht⟩ := State.windowWrites_next hr
    exact ⟨t, (exec_registerWrite_shown e ho hs).trans ht, ht⟩
  · intro fn i b off w s e ho hs hsound
    rw [exec_registerWrite_shown e ho hs]
    simp only [State.windowWrites, State.optCtlResult, hsound]
    rfl
  · intro fn i b off w s e ho hs
    exact exec_registerWrite_shown e ho hs
  · intro fn i b off w s e ho hs
    exact exec_registerWrite_shown e ho hs
  · intro fn i b off w s e ho hs
    exact exec_registerWrite_shown e ho hs
  · intro fn i b off w s e ho hs
    exact exec_registerWrite_shown e ho hs
  · intro i b off w r s e hready hr hs
    obtain ⟨hi, hw⟩ := State.windowWrites_managed (s := s) (a := i) (b := b) (w := w) hr
    have ho : s.windowOpen 0 = true := by rw [State.windowOpen, hready]; rfl
    rw [exec_registerWrite_shown e ho (by rw [hi]; exact hs), hi, hw]
    rfl
  · intro fn i b off w r s e h
    exact exec_registerWrite_ignored e h

end Sys2Proof.Machine

/-! ## Straits: the lanes of a writer cycle -/

namespace Sys2Proof.Machine
open Sys2Proof

/-- A lane reads as set. -/
@[simp] theorem State.lane_setLane_self (s : State) (n : Nat) (ba : Bool) (c : Nat) (l : Lane) :
    (s.setLane n ba c l).lane n ba c = l := by
  simp only [State.lane, State.setLane, storeGet_storeSet_self]

/-- A lane of another key reads as before. -/
theorem State.lane_setLane_ne {s : State} {n m c d : Nat} {ba dir : Bool} {l : Lane} (h : laneKey m dir d ≠ laneKey n ba c) :
    (s.setLane n ba c l).lane m dir d = s.lane m dir d := by
  simp only [State.lane, State.setLane, storeGet_storeSet_ne _ _ _ _ _ h]

/-- The FULL bits are no part of a lane. -/
@[simp] theorem State.lane_straitFull (s : State) (k n : Nat) (ba : Bool) (c : Nat) :
    (s.straitFull k).lane n ba c = s.lane n ba c := by
  rw [State.straitFull, State.setFld_lane, State.setFld_lane]

/-- Nor is the state of a strait. -/
@[simp] theorem State.lane_straitRetryState (s : State) (k n : Nat) (ba : Bool) (c : Nat) :
    (s.straitRetryState k).lane n ba c = s.lane n ba c := by
  rw [State.straitRetryState, State.setFld_lane]

/-- A lane's key takes the class modulo 4. -/
theorem State.lane_mod (s : State) (n : Nat) (ba : Bool) (c : Nat) : s.lane n ba (c % 4) = s.lane n ba c := by
  simp only [State.lane, laneKey, Nat.mod_mod]

/-- Classes have numbers below 4. -/
theorem mem_classOrder {c : Nat} : c ∈ classOrder ↔ c < 4 := by
  simp only [classOrder, List.mem_cons, List.not_mem_nil, or_false]
  omega

theorem mem_classes {c : Nat} : c ∈ [0, 1, 2, 3] ↔ c < 4 := by
  simp only [List.mem_cons, List.not_mem_nil, or_false]
  omega

/-- Classes of a direction have lanes of their own. -/
theorem laneKey_class_ne {n c d : Nat} {ba : Bool} (hc : c < 4) (hd : d < 4) (h : c ≠ d) : laneKey n ba c ≠ laneKey n ba d := by
  simp only [laneKey]
  omega

/-- Change the lane of each class of a direction. -/
def State.eachClass (s : State) (n : Nat) (ba : Bool) (f : Nat → Lane → Lane) (ks : List Nat) : State :=
  ks.foldl (fun s k => s.setLane n ba k (f k (s.lane n ba k))) s

/-- Each class of a list without repetition is changed once, by its own change. -/
theorem State.lane_eachClass {n : Nat} {ba : Bool} {f : Nat → Lane → Lane} {k : Nat} (hk : k < 4) :
    ∀ (ks : List Nat) (s : State), ks.Nodup → (∀ j ∈ ks, j < 4) →
      (s.eachClass n ba f ks).lane n ba k = if k ∈ ks then f k (s.lane n ba k) else s.lane n ba k
  | [], _, _, _ => rfl
  | j :: ks, s, hnd, hlt => by
    obtain ⟨hj, hnd⟩ := List.nodup_cons.1 hnd
    have hj4 : j < 4 := hlt j (List.mem_cons_self ..)
    have ih := State.lane_eachClass (n := n) (ba := ba) (f := f) hk ks (s.setLane n ba j (f j (s.lane n ba j))) hnd
      fun x hx => hlt x (List.mem_cons_of_mem _ hx)
    refine ih.trans ?_
    by_cases h : k = j
    · subst h
      simp [hj]
    · simp [h, State.lane_setLane_ne (laneKey_class_ne (n := n) (ba := ba) hk hj4 h)]

/-- All four classes are changed. -/
theorem State.lane_eachClass_all (s : State) (n : Nat) (ba : Bool) (f : Nat → Lane → Lane) {k : Nat} (hk : k < 4) :
    (s.eachClass n ba f classOrder).lane n ba k = f k (s.lane n ba k) := by
  rw [State.lane_eachClass hk classOrder s (by decide) fun j hj => mem_classOrder.1 hj, if_pos (mem_classOrder.2 hk)]

theorem State.straitRefill_eq (s : State) (n : Nat) (ba : Bool) :
    s.straitRefill n ba = s.eachClass n ba (fun _ l => l.refill) classOrder := rfl

/-- After the refill every lane of the direction is the lane refilled. -/
theorem State.lane_straitRefill (s : State) (n : Nat) (ba : Bool) (k : Nat) :
    (s.straitRefill n ba).lane n ba k = (s.lane n ba k).refill := by
  rw [← State.lane_mod, ← State.lane_mod s, State.straitRefill_eq, State.lane_eachClass_all _ _ _ _ (Nat.mod_lt k (by decide))]

/-- The refill changes no register. -/
theorem State.fld_straitRefill (s : State) (n : Nat) (ba : Bool) (f : Fld) (a b : Nat) :
    (s.straitRefill n ba).fld f a b = s.fld f a b := by
  simp only [State.straitRefill, classOrder, List.foldl_cons, List.foldl_nil, State.setLane_fld]

/-- What a writer cycle does to the lane of a class, with the class that sends: it sends, or has waited one cycle more where it
is ready (R29). -/
def writerCycle (sent : Option Nat) (k : Nat) (l : Lane) : Lane :=
  if sent = some k then l.send else if l.isReady then { l with waited := l.waited + 1 } else l

/-- A writer cycle of a strait that carries units and runs. -/
theorem execStraitUnitSend_runs {n : Nat} {ba : Bool} {s : State} (hn : n < 35) (hc : s.straitCarries n = true)
    (hr : s.straitRuns n = true) :
    execStraitUnitSend n ba s = .next (((s.straitRefill n ba).eachClass n ba (writerCycle ((s.straitRefill n ba).nextClass n ba))
      classOrder).straitFull n) :=
  if_pos ⟨hn, hc, hr⟩

/-- The lanes of the direction after a writer cycle. -/
theorem lane_writerCycle (s : State) (n : Nat) (ba : Bool) (sent : Option Nat) {k : Nat} (hk : k < 4) :
    (((s.straitRefill n ba).eachClass n ba (writerCycle sent) classOrder).straitFull n).lane n ba k =
      writerCycle sent k (s.lane n ba k).refill := by
  rw [State.lane_straitFull, State.lane_eachClass_all _ _ _ _ hk, State.lane_straitRefill]

/-- A unit that passes its check. -/
theorem execStraitUnitArrive_pass {n cls syn : Nat} {ba : Bool} {s : State} (hn : n < 35) (hk : cls < 4)
    (hc : s.straitCarries n = true) (hr : s.straitRuns n = true) (hf : (s.lane n ba cls).flight ≠ []) :
    execStraitUnitArrive n ba cls true syn s = ((s.straitPass n ba cls).capeTakes n ba cls).dieTakes (straitReader n ba) := by
  simp [execStraitUnitArrive, hn, hk, hc, hr, hf]

/-- A unit that fails its check. -/
theorem execStraitUnitArrive_fail {n cls syn : Nat} {ba : Bool} {s : State} (hn : n < 35) (hk : cls < 4)
    (hc : s.straitCarries n = true) (hr : s.straitRuns n = true) (hf : (s.lane n ba cls).flight ≠ []) :
    execStraitUnitArrive n ba cls false syn s = .next (if (s.lane n ba cls).retry then
      (s.setFld .STR_ERR_LAST_SYNDROME n 0 syn).straitFail n else s.straitRetry n ba cls syn) := by
  simp only [execStraitUnitArrive, hn, hk, hc, hr, hf]
  cases (s.lane n ba cls).retry <;> rfl

/-- A strait that has not failed, with its ends running and no reset of its stack, fails at its stall timeout (R35). -/
theorem execStraitStallTimeout_fails {n : Nat} {ba : Bool} {s : State} (hn : n < 35) (hs : s.straitState n ≠ 3)
    (hr : s.straitRuns n = true) (hh : s.heldInReset = false)
    (hb : (stackOfStrait n).any (bit (s.fld .HBR_RESET_STAT_STACK_BUSY)) = false) :
    execStraitStallTimeout n ba s = .next (s.straitFail n) := by
  simp [execStraitStallTimeout, hn, hs, hr, hh, hb]

/-- The crossbar moves the unit at the head of the first rival in turn (R32). -/
theorem State.crossbarForward_moves {die out cls n : Nat} {u : StraitUnit} {rest : List StraitUnit} {ns : List Nat} {s : State}
    (hd : die < 4) (ho : out < 18) (hk : cls < 4) (hc : s.straitCarries out = true) (hr : s.relocking die = false)
    (hroom : (s.lane out (leavesBA out die) cls).readyCount < 16)
    (hturn : (s.crossbarRivals die out cls).filter (fun n => storeGet 0 s.xturn (turnKey die out cls) ≤ n) ++
      s.crossbarRivals die out cls = n :: ns)
    (hhead : (s.lane n (straitReader n true == die) cls).reader = u :: rest) :
    s.crossbarForward die out cls = s.crossbarMove die out cls n u rest := by
  unfold State.crossbarForward
  rw [if_pos ⟨hd, ho, hk, hc, hr, hroom⟩]
  simp only [hturn, hhead]

/-- Settles O1: each command is run on the state that its clause describes; a die that can take nothing stays as it is. -/
theorem straitCommandsComplete : Obligations.StraitCommandsComplete := by
  refine ⟨?_, ?_, ?_, ?_, ?_⟩
  · intro n ba s hn hc hr
    refine ⟨_, (exec_straitUnitSend).trans (execStraitUnitSend_runs hn hc hr), fun k hk => ?_⟩
    simp only [State.lane_straitRefill]
    exact lane_writerCycle s n ba _ hk
  · intro n cls syn ba t s hn hk hc hr hf ht hnone
    rw [exec_straitUnitArrive, execStraitUnitArrive_pass hn hk hc hr hf, ht, State.dieTakes_none hnone]
  · intro n cls syn ba s hn hk hc hr hf
    rw [exec_straitUnitArrive, execStraitUnitArrive_fail hn hk hc hr hf]
  · intro n ba s hn hs hr hh hb
    rw [exec_straitStallTimeout, execStraitStallTimeout_fails hn hs hr hh hb]
  · intro die out cls n u rest ns t s hd ho hk hc hr hroom hturn hhead ht hnone
    rw [exec_straitCrossbarForward, execStraitCrossbarForward,
      State.crossbarForward_moves hd ho hk hc hr hroom hturn hhead, ht, State.dieTakes_none hnone]

/-! ## The class that sends first (R29) -/

/-- The place of a class in the order TC2, TC1, TC3, TC0. -/
def classRank (d : Nat) : Nat := [(2, 0), (1, 1), (3, 2), (0, 3)].lookup d |>.getD 4

/-- A class has a unit ready and room at the reader. -/
def Lane.canSend (l : Lane) : Bool := l.isReady && l.room

/-- The cycles a class has waited, counted from the starvation limit on. -/
def Lane.starvedFor (l : Lane) (limit : Nat) : Nat := if limit ≤ l.waited then l.waited else 0

/-- Class `d` comes before class `e`: it has starved longer, or as long and stands before it in the order. -/
def classBefore (limit : Nat) (q : Nat → Lane) (d e : Nat) : Prop :=
  (q e).starvedFor limit < (q d).starvedFor limit ∨
    ((q d).starvedFor limit = (q e).starvedFor limit ∧ classRank d < classRank e)

theorem classBefore.asymm {limit : Nat} {q : Nat → Lane} {d e : Nat} (h : classBefore limit q d e) : ¬ classBefore limit q e d := by
  unfold classBefore at *
  omega

/-- The classes that can send, in the order. -/
def sendable (q : Nat → Lane) : List Nat := classOrder.filter (fun c => (q c).canSend)

theorem mem_sendable {q : Nat → Lane} {c : Nat} : c ∈ sendable q ↔ c < 4 ∧ (q c).canSend = true := by
  rw [sendable, List.mem_filter, mem_classOrder]

theorem sendable_sorted (q : Nat → Lane) : (sendable q).Pairwise (fun d e => classRank d < classRank e) :=
  (by decide : classOrder.Pairwise (fun d e => classRank d < classRank e)).filter _

/-- Where a list has no longest wait it is empty. -/
theorem longestWait_none {w : Nat → Nat} {l : List Nat} (h : longestWait w l = none) : l = [] := by
  cases l with
  | nil => rfl
  | cons c cs =>
    unfold longestWait at h
    split at h
    · cases h
    · split at h <;> cases h

/-- Of classes in their order the longest wait is that of the class before which none comes. -/
theorem longestWait_some {w : Nat → Nat} {l : List Nat} {c : Nat} (hl : l.Pairwise (fun d e => classRank d < classRank e))
    (h : longestWait w l = some c) :
    c ∈ l ∧ ∀ d ∈ l, d ≠ c → w d < w c ∨ (w c = w d ∧ classRank c < classRank d) := by
  induction l generalizing c with
  | nil => cases h
  | cons a cs ih =>
    obtain ⟨ha, hcs⟩ := List.pairwise_cons.1 hl
    unfold longestWait at h
    split at h
    next e =>
      cases h
      rw [longestWait_none e]
      simp
    next b e =>
      obtain ⟨hb, hmax⟩ := ih hcs e
      split at h
      next hab =>
        cases h
        refine ⟨List.mem_cons_of_mem _ hb, fun d hd hne => ?_⟩
        rcases List.mem_cons.1 hd with rfl | hd
        · exact .inl hab
        · exact hmax d hd hne
      next hab =>
        cases h
        refine ⟨List.mem_cons_self .., fun d hd hne => ?_⟩
        rcases List.mem_cons.1 hd with rfl | hd
        · exact absurd rfl hne
        · have hrank := ha d hd
          by_cases hdb : d = b
          · subst hdb; omega
          · have := hmax d hd hdb; omega

/-- The class that a writer sends next, of its four lanes. -/
def firstClass (limit : Nat) (q : Nat → Lane) : Option Nat :=
  (longestWait (fun c => (q c).waited) ((sendable q).filter (fun c => limit ≤ (q c).waited))).or (sendable q).head?

theorem State.nextClass_eq (s : State) (n : Nat) (ba : Bool) :
    s.nextClass n ba = firstClass (max 1 (s.fld .STR_ARB_STARVE_LIMIT n)) (s.lane n ba) := rfl

theorem firstClass_none {limit : Nat} {q : Nat → Lane} (h : firstClass limit q = none) : sendable q = [] :=
  List.head?_eq_none_iff.1 (Option.or_eq_none_iff.1 h).2

/-- The class that is sent can send, and comes before the others that can. -/
theorem firstClass_some {limit : Nat} {q : Nat → Lane} {c : Nat} (hlim : 1 ≤ limit) (h : firstClass limit q = some c) :
    c ∈ sendable q ∧ ∀ d ∈ sendable q, d ≠ c → classBefore limit q c d := by
  rcases Option.or_eq_some_iff.1 h with hstarved | ⟨hnone, hhead⟩
  · obtain ⟨hmem, hmax⟩ := longestWait_some ((sendable_sorted q).filter _) hstarved
    obtain ⟨hcan, hc⟩ := List.mem_filter.1 hmem
    have hc := of_decide_eq_true hc
    refine ⟨hcan, fun d hd hne => ?_⟩
    unfold classBefore Lane.starvedFor
    rw [if_pos hc]
    split
    next hds => exact hmax d (List.mem_filter.2 ⟨hd, decide_eq_true hds⟩) hne
    next => exact .inl (Nat.lt_of_lt_of_le hlim hc)
  · have hnot : ∀ d ∈ sendable q, (q d).starvedFor limit = 0 := fun d hd =>
      if_neg fun k => List.filter_eq_nil_iff.1 (longestWait_none hnone) d hd (decide_eq_true k)
    obtain ⟨rest, hl⟩ := List.head?_eq_some_iff.1 hhead
    have hc : c ∈ sendable q := hl ▸ List.mem_cons_self ..
    refine ⟨hc, fun d hd hne => .inr ⟨by rw [hnot c hc, hnot d hd], ?_⟩⟩
    have hs := sendable_sorted q
    rw [hl] at hs hd
    exact List.rel_of_pairwise_cons hs ((List.mem_cons.1 hd).resolve_left hne)

/-- A class is sent exactly where it can send and comes before every other that can (R29). -/
theorem firstClass_iff {limit : Nat} {q : Nat → Lane} {c : Nat} (hlim : 1 ≤ limit) :
    firstClass limit q = some c ↔ c ∈ sendable q ∧ ∀ d ∈ sendable q, d ≠ c → classBefore limit q c d := by
  refine ⟨firstClass_some hlim, fun ⟨hc, hbefore⟩ => ?_⟩
  cases h : firstClass limit q with
  | none => rw [firstClass_none h] at hc; cases hc
  | some e =>
    obtain ⟨he, hfirst⟩ := firstClass_some hlim h
    by_contra hne
    have hne : e ≠ c := fun k => hne (k ▸ rfl)
    exact (hbefore e he hne).asymm (hfirst c hc (Ne.symm hne))

/-- Settles O48: the lanes after the refill decide, and of those that can send the class is sent that comes before the others. -/
theorem straitSendsInClassOrder : Obligations.StraitSendsInClassOrder := by
  intro n ba s t hn hc hr ht limit q can starved rank wait before c hk
  rw [exec_straitUnitSend, execStraitUnitSend_runs hn hc hr] at ht
  cases ht
  have hnext : (s.straitRefill n ba).nextClass n ba = firstClass limit q := by
    rw [State.nextClass_eq, State.fld_straitRefill, funext (State.lane_straitRefill s n ba)]
  have hbefore : ∀ d e, before d e = true ↔ classBefore limit q d e := fun d e => by
    simp only [before, wait, starved, rank, classBefore, Lane.starvedFor, classRank, Bool.or_eq_true, Bool.and_eq_true, decide_eq_true_eq]
  have hfirst : firstClass limit q = some c ↔ (can c && [0, 1, 2, 3].all (fun d => d == c || !can d || before c d)) = true := by
    have hall : [0, 1, 2, 3].all (fun d => d == c || !can d || before c d) = true ↔
        ∀ d ∈ sendable q, d ≠ c → classBefore limit q c d := by
      simp only [List.all_eq_true, Bool.or_eq_true, beq_iff_eq, Bool.not_eq_true', hbefore, mem_sendable, mem_classes]
      refine ⟨fun h d ⟨hd, hcan⟩ hne => ?_, fun h d hd => ?_⟩
      · rcases h d hd with (heq | hnot) | hb
        · exact absurd heq hne
        · exact absurd (hcan.symm.trans hnot) (by decide)
        · exact hb
      · by_cases heq : d = c
        · exact .inl (.inl heq)
        · cases hcan : (q d).canSend with
          | false => exact .inl (.inr hcan)
          | true => exact .inr (h d ⟨hd, hcan⟩ heq)
    rw [firstClass_iff (Nat.le_max_left ..), mem_sendable, Bool.and_eq_true, hall]
    exact and_congr_left' (and_iff_right hk)
  rw [lane_writerCycle s n ba _ hk, hnext, writerCycle]
  exact ite_congr (propext hfirst) (fun _ => rfl) (fun _ => rfl)

/-! ## The line of a class and direction (R30, R34) -/

/-- The units of a queue, one by one. -/
def unitsExpand (q : List (StraitUnit × Nat)) : List StraitUnit := q.flatMap (fun u => List.replicate (u.2 + 1) u.1)

@[simp] theorem unitsExpand_nil : unitsExpand [] = [] := rfl

@[simp] theorem unitsExpand_cons (u : StraitUnit) (k : Nat) (q : List (StraitUnit × Nat)) :
    unitsExpand ((u, k) :: q) = List.replicate (k + 1) u ++ unitsExpand q := rfl

@[simp] theorem unitsExpand_append (p q : List (StraitUnit × Nat)) : unitsExpand (p ++ q) = unitsExpand p ++ unitsExpand q :=
  List.flatMap_append ..

/-- Units put back one by one. -/
@[simp] theorem unitsExpand_singles (l : List StraitUnit) : unitsExpand (l.map (fun u => (u, 0))) = l := by
  induction l with
  | nil => rfl
  | cons u l ih => rw [List.map_cons, unitsExpand_cons, ih]; rfl

/-- Units that join a queue stand at its end. -/
@[simp] theorem unitsExpand_unitsJoin (q : List (StraitUnit × Nat)) (u : StraitUnit) (k : Nat) :
    unitsExpand (unitsJoin q u k) = unitsExpand q ++ List.replicate k u := by
  unfold unitsJoin
  split
  next h => simp [h]
  next h =>
    have hk : k - 1 + 1 = k := by omega
    split
    next v j hlast =>
      split
      next hv =>
        subst hv
        conv => rhs; rw [← List.dropLast_append_getLast? _ hlast]
        simp [Nat.add_right_comm]
      next => simp [hk]
    next hlast => simp [List.getLast?_eq_none_iff.1 hlast, hk]

/-- The units of a lane that have not reached the reader, in the order written. -/
def Lane.line (l : Lane) : List StraitUnit := l.flight ++ unitsExpand l.ready ++ unitsExpand l.backlog

/-- Two lanes with the same line and the same units at the reader. -/
def Lane.SameLine (l l' : Lane) : Prop := l'.line = l.line ∧ l'.reader = l.reader

/-- A refill moves units from the front of the backlog to the end of the writer's queue. -/
theorem Lane.sameLine_refill (l : Lane) : l.SameLine l.refill := by
  unfold Lane.refill
  split
  · exact ⟨rfl, rfl⟩
  next u k rest hback =>
    refine ⟨?_, rfl⟩
    have hm : min (k + 1) (16 - l.readyCount) ≤ k + 1 := Nat.min_le_left ..
    generalize min (k + 1) (16 - l.readyCount) = m at *
    simp only [Lane.line, hback, unitsExpand_unitsJoin, unitsExpand_cons, List.append_assoc]
    congr 2
    split
    next h => rw [h]
    next h =>
      have hk : m + (k - m + 1) = k + 1 := by omega
      rw [unitsExpand_cons, ← List.append_assoc, ← List.replicate_add, hk]

/-- A send moves a unit from the front of the writer's queue to the end of those in flight. -/
theorem Lane.sameLine_send (l : Lane) : l.SameLine l.send := by
  unfold Lane.send
  split
  · exact ⟨rfl, rfl⟩
  next u k rest hready =>
    refine ⟨?_, rfl⟩
    simp only [Lane.line, hready, unitsExpand_cons, List.append_assoc]
    congr 1
    cases k with
    | zero => rfl
    | succ k => rw [if_neg (Nat.succ_ne_zero k), unitsExpand_cons, List.append_assoc]; rfl

theorem sameLine_writerCycle (sent : Option Nat) (k : Nat) (l : Lane) : l.SameLine (writerCycle sent k l) := by
  unfold writerCycle
  split
  · exact l.sameLine_send
  · split <;> exact ⟨rfl, rfl⟩

/-- A retry puts the units in flight back before the ready ones (R34). -/
theorem Lane.sameLine_retry (l : Lane) :
    l.SameLine { l with ready := l.flight.map (fun u => (u, 0)) ++ l.ready, flight := [], retry := true } :=
  ⟨by simp [Lane.line], rfl⟩

/-- Two states whose lanes have the same lines and the same units at the readers. -/
def SameLines (s t : State) : Prop := ∀ (m d : Nat) (dir : Bool), (s.lane m dir d).SameLine (t.lane m dir d)

theorem SameLines.trans {s t u : State} (h : SameLines s t) (k : SameLines t u) : SameLines s u := fun m d dir =>
  ⟨(k m d dir).1.trans (h m d dir).1, (k m d dir).2.trans (h m d dir).2⟩

theorem sameLines_setLane {s : State} {n c : Nat} {ba : Bool} {l : Lane} (h : (s.lane n ba c).SameLine l) :
    SameLines s (s.setLane n ba c l) := by
  intro m d dir
  by_cases hkey : laneKey m dir d = laneKey n ba c
  · have hl : ∀ t : State, t.lane m dir d = t.lane n ba c := fun t => by simp only [State.lane, hkey]
    rw [hl, hl, State.lane_setLane_self]
    exact h
  · rw [State.lane_setLane_ne hkey]
    exact ⟨rfl, rfl⟩

theorem sameLines_eachClass {n : Nat} {ba : Bool} {f : Nat → Lane → Lane} (hf : ∀ k l, Lane.SameLine l (f k l)) (ks : List Nat)
    (s : State) : SameLines s (s.eachClass n ba f ks) := by
  induction ks generalizing s with
  | nil => exact fun _ _ _ => ⟨rfl, rfl⟩
  | cons k ks ih => exact (sameLines_setLane (hf k _)).trans (ih _)

theorem sameLines_straitRefill (s : State) (n : Nat) (ba : Bool) : SameLines s (s.straitRefill n ba) := by
  rw [State.straitRefill_eq]
  exact sameLines_eachClass (fun _ l => l.sameLine_refill) classOrder s

theorem SameLines.straitFull {s t : State} (h : SameLines s t) (n : Nat) : SameLines s (t.straitFull n) := fun m d dir => by
  rw [State.lane_straitFull]
  exact h m d dir

/-- A writer cycle keeps every line. -/
theorem sameLines_straitUnitSend (s : State) (n : Nat) (ba : Bool) (sent : Option Nat) :
    SameLines s (((s.straitRefill n ba).eachClass n ba (writerCycle sent) classOrder).straitFull n) :=
  ((sameLines_straitRefill s n ba).trans (sameLines_eachClass (sameLine_writerCycle sent) classOrder _)).straitFull n

/-- A retry keeps every line. -/
theorem sameLines_straitRetry (s : State) (n : Nat) (ba : Bool) (c syn : Nat) : SameLines s (s.straitRetry n ba c syn) := by
  have h := sameLines_setLane (s.lane n ba c).sameLine_retry
  intro m d dir
  rw [State.straitRetry, State.lane_straitFull, State.lane_straitRetryState, State.setFld_lane, State.satFld_lane]
  exact h m d dir

/-- The island at the reader takes a unit that passes at once. -/
def State.takenAtOnce (s : State) (n : Nat) (ba : Bool) (c : Nat) (u : StraitUnit) : Bool :=
  (s.lane n ba c).reader.isEmpty && u.cargo.isNone && u.transit.isNone && u.dst == straitReader n ba

/-- The lane of a unit that passes its check. -/
theorem State.lane_straitPass_self {s : State} {n c : Nat} {ba : Bool} {u : StraitUnit} {rest : List StraitUnit}
    (h : (s.lane n ba c).flight = u :: rest) :
    (s.straitPass n ba c).lane n ba c = { s.lane n ba c with
      flight := rest
      reader := if s.takenAtOnce n ba c u then (s.lane n ba c).reader else (s.lane n ba c).reader ++ [u]
      retry := false } := by
  unfold State.straitPass
  simp [h, State.takenAtOnce]

/-- No other lane changes (R30). -/
theorem State.lane_straitPass_ne {s : State} {n m c d : Nat} {ba dir : Bool} (h : laneKey m dir d ≠ laneKey n ba c) :
    (s.straitPass n ba c).lane m dir d = s.lane m dir d := by
  unfold State.straitPass
  dsimp only
  split
  · rfl
  · simp [State.lane_setLane_ne h]

/-- Settles O49: a writer cycle and a retry keep every line; a unit that passes is the front of its line. -/
theorem straitKeepsUnitsInOrder : Obligations.StraitKeepsUnitsInOrder := by
  intro n c ba s hn hk hc hr
  refine ⟨?_, ?_, ?_⟩
  · exact ⟨_, exec_straitUnitSend.trans (execStraitUnitSend_runs hn hc hr),
      fun m d dir _ _ => sameLines_straitUnitSend s n ba _ m d dir⟩
  · intro syn hf hretry
    refine ⟨s.straitRetry n ba c syn, ?_, fun m d dir _ _ => sameLines_straitRetry s n ba c syn m d dir⟩
    rw [exec_straitUnitArrive, execStraitUnitArrive_fail hn hk hc hr hf, hretry]
    rfl
  · intro syn u rest hf
    have hne : (s.lane n ba c).flight ≠ [] := hf ▸ List.cons_ne_nil u rest
    refine ⟨s.straitPass n ba c, exec_straitUnitArrive.trans (execStraitUnitArrive_pass hn hk hc hr hne), ?_, ?_,
      fun m d dir _ _ h => State.lane_straitPass_ne h⟩
    · simp only [State.lane_straitPass_self hf, hf, List.cons_append]
    · rw [State.lane_straitPass_self hf]
      cases htaken : s.takenAtOnce n ba c u with
      | false => exact .inl rfl
      | true =>
        simp only [State.takenAtOnce, Bool.and_eq_true, Option.isNone_iff_eq_none, beq_iff_eq] at htaken
        obtain ⟨⟨⟨-, hcargo⟩, htransit⟩, hdst⟩ := htaken
        exact .inr ⟨rfl, hdst, hcargo, htransit⟩

end Sys2Proof.Machine

/-! ## The idle step -/

namespace Sys2Proof.Machine
open Sys2Proof

/-- Two states that differ in the island counters and the number of ticks alone. -/
def SameButCounts (s t : State) : Prop := t = { s with counts := t.counts, ticks := t.ticks }

theorem SameButCounts.trans {s t u : State} (h : SameButCounts s t) (k : SameButCounts t u) : SameButCounts s u := by
  unfold SameButCounts at *
  rw [k, h]

theorem sameButCounts_foldl {α : Type} {f : State → α → State} (hf : ∀ s x, SameButCounts s (f s x)) (l : List α) (s : State) :
    SameButCounts s (l.foldl f s) := by
  induction l generalizing s with
  | nil => rfl
  | cons x l ih => exact (hf s x).trans (ih _)

/-- An idle tick changes the island counters and the number of ticks alone. -/
theorem State.sameButCounts_idleTick (s : State) : SameButCounts s s.idleTick := by
  have htick : SameButCounts s { s with ticks := s.ticks + 1 } := rfl
  refine htick.trans (sameButCounts_foldl (fun t i => ?_) _ _)
  split <;> rfl

/-- The I3C controller reads a packet where an in-band interrupt calls it. -/
theorem State.i3cReads_eq (s : State) :
    s.i3cReads = if s.ibi = none then s else { s with mctpOut := s.mctpOut.eraseP (fun e => e.1 == 0) } := by
  unfold State.i3cReads
  cases s.ibi <;> rfl

/-- What keeps a boot from its step 9. -/
def State.bootHeld (s : State) : Prop :=
  s.ready = true ∨ s.heldInReset = true ∨ s.pins.tripped = true ∨ s.trialRefused = true ∨ s.bootRefused = true

/-- The idle tick and the packet read leave it as it was. -/
theorem State.bootHeld_idle (s : State) : s.idleTick.i3cReads.bootHeld = s.bootHeld := by
  rw [State.i3cReads_eq, s.sameButCounts_idleTick]
  split <;> rfl

theorem State.ibi_idleTick (s : State) : s.idleTick.ibi = s.ibi := by
  rw [s.sameButCounts_idleTick]
  rfl

theorem State.mctpOut_idleTick (s : State) : s.idleTick.mctpOut = s.mctpOut := by
  rw [s.sameButCounts_idleTick]

/-- Settles O27: the tick changes counters and ticks alone, so the reading of packets and the boot go by the state before it. -/
theorem emptyQueueIdles : Obligations.EmptyQueueIdles := by
  intro s hempty
  refine ⟨?_, ?_, ?_, ?_⟩
  · rw [step, hempty]
  · rw [s.sameButCounts_idleTick]
  · rw [State.idles]
    exact ite_congr s.bootHeld_idle (fun _ => rfl) (fun _ => rfl)
  · rw [State.i3cReads_eq, s.ibi_idleTick, s.mctpOut_idleTick]

end Sys2Proof.Machine

/-! ## The governor -/

namespace Sys2Proof.Machine
open Sys2Proof

/-- A waking sub-array's request joins its die's queue (R132, R432). -/
theorem execWakeRequest_queues {islet : Nat} {s : State} (hi : islet < 384) (hw : (s.islet islet).mx.waking.isSome = true)
    (hq : (storeGet [] s.gov.queues (islDie islet)).contains (.wake islet) = false) (ho : s.wayOpen (islDie islet) 16 = true) :
    execWakeRequest islet s = .next ((s.straitOffer (islDie islet) 16 2 1).govPush (islDie islet) (.wake islet)) :=
  if_pos ⟨hi, hw, hq, ho⟩

/-- A die whose controllers run and whose harbour is reached requests a point (R434). -/
theorem execDvfsRequest_die {die point : Nat} {s : State} (hp : point ≤ 14) (hd : die < 4)
    (hr : s.restarting.contains die = false) (ho : s.wayOpen die 16 = true) (ht : s.pins.tripped = false) :
    execDvfsRequest die point s = .next ((s.straitOffer die 16 2 1).dvfsRequest die point) := by
  unfold execDvfsRequest
  rw [if_neg (by simp [ht, hp]), if_pos hd, if_neg (by simp only [hr, ho]; decide), ok]

/-- A half with a leader that holds an epoch issues a package-wide action (R437). -/
theorem execDvfsRequest_half {die point : Nat} {s : State} (hp : point ≤ 14) (h4 : 4 ≤ die) (h6 : die < 6)
    (hl : s.lead.leader (die == 5) < 4) (he : s.heldEpoch (s.lead.leader (die == 5)) ≠ 0)
    (ho : s.wayOpen (s.lead.leader (die == 5)) 16 = true) (ht : s.pins.tripped = false) :
    execDvfsRequest die point s = .next (s.issueAction (.power (die == 5) point) (s.lead.leader (die == 5))
      (s.heldEpoch (s.lead.leader (die == 5))) (halfDies (die == 5))).1 := by
  unfold execDvfsRequest
  rw [if_neg (by simp [ht, hp]), if_neg (Nat.not_lt.2 h4), if_pos h6]
  refine if_neg ?_
  rintro (hnone | hepoch | hway)
  · exact absurd hl (Nat.not_lt.2 hnone)
  · exact he hepoch
  · exact absurd (ho.symm.trans hway) (by decide)

/-- An admission window opens where no trip has stopped the device (R431, R433). -/
theorem execGovWindowStart_opens {s t u : State} (ht : s.pins.tripped = false)
    (hcount : t = (if s.gov.window < govWindow (s.count 16) then s else
      s.setCount 16 (max (s.count 16) (4000 * (s.gov.window + 1) + 1))))
    (hopen : u = t.modGov (fun g => { g with window := govWindow (t.count 16), wakes := [] })) :
    execGovWindowStart s = .next ((([0, 1, 2, 3].foldl (fun s d => s.govExamine d) u).limitRaise false).limitRaise true) := by
  subst hopen hcount
  unfold execGovWindowStart
  rw [if_neg (by rw [ht]; decide), ok]

/-- The first of a die's charges to end has ended (R432). -/
theorem execChargeEnd_ends {die e : Nat} {rest : List Nat} {s : State}
    (h : (s.gov.charges.filter (fun c => c.1 == die)).map (fun c => c.2.2) = e :: rest) :
    execChargeEnd die s = .next (((s.reachCount 16 (rest.foldl min e)).modGov (fun g =>
      { g with charges := g.charges.filter (fun c => !(c.1 == die && decide (c.2.2 ≤ rest.foldl min e))) })).govExamine die) := by
  unfold execChargeEnd
  simp only [h, ok]

/-- Function 0's write of HBR_GOV_CFG cuts the limits to REEF_MAX (R264). -/
theorem State.writeGovCfg_ready {s : State} {w : Word} (hr : s.ready = true) (hp : partReef s.pkg.part = true) :
    s.writeGovCfg 0 w = (List.range 8).foldl (fun s k =>
      s.setFld .REEF_STACK_STAT_LIMIT k 0 (min (s.fld .REEF_STACK_STAT_LIMIT k) s.reefMax)) (s.writeReg .HBR_GOV_CFG 0 0 w) := by
  unfold State.writeGovCfg
  rw [if_neg (by simp [hr])]
  exact if_pos hp

/-- A raise whose voltage has settled relocks its island (R468). -/
theorem execDvfsVoltageSettled_relocks {die p : Nat} {s : State} (h : s.dvfsChange die = some (p, 1)) :
    execDvfsVoltageSettled die s = .next (s.relock die p) := by
  unfold execDvfsVoltageSettled
  rw [h]
  rfl

/-- An island whose PLL has relocked for a change has the change's point, and its die takes what it can (R434, R435). -/
theorem execPllRelockDone_change {island p : Nat} {s : State} (hr : s.relocking island = true)
    (h : (s.setFld .STR_ISLAND_CLK_RELOCK island 0 0).dvfsChange island = some (p, 2)) :
    execPllRelockDone island s = (((((((s.setFld .STR_ISLAND_CLK_RELOCK island 0 0).modGov (fun g =>
      { g with changes := storeErase g.changes island })).setFld .STR_ISLAND_CLK_POINT island 0 p).setFld
      .STR_ISLAND_CLK_FREQ_MHZ island 0 (600 + 50 * p)).driveCode island p).lowersNext island)).dieTakes island := by
  unfold execPllRelockDone
  rw [if_neg (by rw [hr]; decide)]
  simp only [h]

/-- An island whose PLL has relocked with no change waiting (R23). -/
theorem execPllRelockDone_plain {island : Nat} {s : State} (hr : s.relocking island = true)
    (h : (s.setFld .STR_ISLAND_CLK_RELOCK island 0 0).dvfsChange island = none) :
    execPllRelockDone island s = (s.setFld .STR_ISLAND_CLK_RELOCK island 0 0).dieTakes island := by
  unfold execPllRelockDone
  rw [if_neg (by rw [hr]; decide)]
  simp only [h]

/-- Samples none of which trips the device judge the caps (R435). -/
theorem execTempSample_judges {temps dram : List Nat} {s : State} (ht : s.pins.tripped = false)
    (hi : (temps.take 18).any (fun t => decide (125 ≤ t)) = false) (hm : (dram.take 8).any (fun t => decide (110 ≤ t)) = false) :
    execTempSample temps dram s = .next ([0, 1, 2, 3].foldl (fun s d => s.capCheck d)
      ((((s.tempTraffic temps.length).writeTemps temps).writeDram dram).crossings s)) := by
  unfold execTempSample
  rw [if_neg (by rw [ht]; decide), hi, hm]
  rfl

theorem State.tripped_thermalTrip (s : State) : s.thermalTrip.pins.tripped = true := rfl

/-- A sample that reaches its limit trips the device (R476). -/
theorem execTempSample_trips {temps dram : List Nat} {s : State} (ht : s.pins.tripped = false)
    (hot : (temps.take 18).any (fun t => decide (125 ≤ t)) = true ∨ (dram.take 8).any (fun t => decide (110 ≤ t)) = true) :
    execTempSample temps dram s = .next ((((s.tempTraffic temps.length).writeTemps temps).writeDram dram).crossings s).thermalTrip := by
  unfold execTempSample
  rw [if_neg (by rw [ht]; decide)]
  exact if_pos hot

/-- The governor when a step of a die's cap is taken, `counts` after the one before: island 16 has counted to it (R435). -/
def State.capTimed (s : State) (die counts : Nat) : State :=
  let t := s.reachCount 16 (storeGet 0 s.gov.capAt die + counts)
  t.modGov (fun g => { g with capAt := storeSet 0 g.capAt die (t.count 16) })

/-- A die's cap a point lower, its episode under way. -/
def State.capLowered (s : State) (die cap : Nat) : State :=
  (s.setFld .HBR_GOV_POINT_CAP die 0 (cap - 1)).modGov (fun g => { g with capMode := storeSet 0 g.capMode die 2 })

/-- The first step of an episode raises HBR_EVT.THERMAL, with a record. -/
def State.capEvent (s : State) (die cap : Nat) : State :=
  (s.journal 0x56 (leBytes 1 die ++ leBytes 1 (s.fld .HBR_TEMP_TEMP_C die) ++ leBytes 1 (cap - 1))).hbrEvent .HBR_EVT_THERMAL

/-- No step is passed over for a die with a cap moving, with no trip. -/
theorem capStep_taken {die m : Nat} {s : State} (hd : die < 4) (ht : s.pins.tripped = false) (hm : m ≠ 0) :
    ¬ (¬ die < 4 ∨ m = 0 ∨ s.pins.tripped = true) := by
  rw [ht]
  rintro (h | h | h)
  · exact h hd
  · exact hm h
  · exact absurd h (by decide)

/-- A die's cap a point higher, up to POINT_MAX, where the episode has ended. -/
def State.capRaised (s : State) (die cap : Nat) : State :=
  let t := if cap < s.pointMax die then s.setFld .HBR_GOV_POINT_CAP die 0 (cap + 1) else s
  if s.pointMax die ≤ cap + 1 then t.modGov (fun g => { g with capMode := storeSet 0 g.capMode die 0 }) else t

/-- A cap that rises below POINT_MAX goes on rising. -/
theorem State.capRaised_below {s : State} {die cap : Nat} (h : cap + 1 < s.pointMax die) :
    s.capRaised die cap = s.setFld .HBR_GOV_POINT_CAP die 0 (cap + 1) := by
  rw [State.capRaised, if_neg (Nat.not_le.2 h), if_pos (Nat.lt_of_succ_lt h)]

/-- A cap that comes to POINT_MAX has risen for the last time. -/
theorem State.capRaised_top {s : State} {die cap : Nat} (h : cap + 1 = s.pointMax die) :
    s.capRaised die cap = (s.setFld .HBR_GOV_POINT_CAP die 0 (cap + 1)).modGov
      (fun g => { g with capMode := storeSet 0 g.capMode die 0 }) := by
  rw [State.capRaised, if_pos (Nat.le_of_eq h.symm), if_pos (Nat.lt_of_succ_le (Nat.le_of_eq h))]

/-- A cap that rises does so every 10 ms. -/
theorem execThermalCapStep_rises {die : Nat} {s : State} (hd : die < 4) (ht : s.pins.tripped = false)
    (hm : storeGet 0 s.gov.capMode die = 3) :
    execThermalCapStep die s = .next ((s.capTimed die 10000000).capRaised die (s.fld .HBR_GOV_POINT_CAP die)) := by
  unfold execThermalCapStep
  rw [hm, if_neg (capStep_taken hd ht (by decide))]
  rfl

/-- A cap that falls does so every 1 ms and lowers its island, after the event where the episode begins. -/
theorem execThermalCapStep_falls {die m : Nat} {s : State} (hd : die < 4) (ht : s.pins.tripped = false)
    (hm : storeGet 0 s.gov.capMode die = m) (hm0 : m ≠ 0) (hm3 : m ≠ 3) :
    execThermalCapStep die s = .next ((if m = 1 then
        ((s.capTimed die 1000000).capLowered die (s.fld .HBR_GOV_POINT_CAP die)).capEvent die (s.fld .HBR_GOV_POINT_CAP die)
      else (s.capTimed die 1000000).capLowered die (s.fld .HBR_GOV_POINT_CAP die)).lower die (s.fld .HBR_GOV_POINT_CAP die - 1)) := by
  unfold execThermalCapStep
  rw [hm, if_neg (capStep_taken hd ht hm0), if_neg hm3, if_neg hm3]
  rfl

/-- Settles O20: each command is run on the state that its clause describes; a die that can take nothing stays as it is. -/
theorem governorCommandsComplete : Obligations.GovernorCommandsComplete := by
  refine ⟨?_, ?_, ?_, ?_, ?_, ?_, ?_, ?_, ?_, ?_, ?_, ?_, ?_, ?_, ?_, ?_⟩
  · intro islet s hi hw hq ho
    exact execWakeRequest_queues hi hw hq ho
  · intro die point s hp hd hr ho ht
    exact execDvfsRequest_die hp hd hr ho ht
  · intro die point s hp h4 h6 hl he ho ht
    exact execDvfsRequest_half hp h4 h6 hl he ho ht
  · intro t u s ht hcount hopen
    exact execGovWindowStart_opens ht hcount hopen
  · rintro die e rest t s h rfl
    exact execChargeEnd_ends h
  · intro fn w s
    rw [exec_govCfgWrite, execGovCfgWrite, ok]
  · intro w s hr hp
    rw [exec_govCfgWrite, execGovCfgWrite, ok, State.writeGovCfg_ready hr hp]
  · intro die p s h
    exact execDvfsVoltageSettled_relocks h
  · rintro island p t s hr h rfl hnone
    exact (execPllRelockDone_change hr h).trans (State.dieTakes_none hnone)
  · rintro island t s hr rfl h hnone
    exact (execPllRelockDone_plain hr h).trans (State.dieTakes_none hnone)
  · rintro temps dram t s ht rfl hi hm
    exact execTempSample_judges ht hi hm
  · intro temps dram s ht hot
    exact ⟨_, execTempSample_trips ht hot, State.tripped_thermalTrip _⟩
  · rintro die t u s hd ht hm rfl hu hc
    obtain rfl : u = s.capTimed die 10000000 := hu
    rw [exec_thermalCapStep, execThermalCapStep_rises hd ht hm, State.capRaised_below hc]
  · rintro die t u s hd ht hm rfl hu hc
    obtain rfl : u = s.capTimed die 10000000 := hu
    rw [exec_thermalCapStep, execThermalCapStep_rises hd ht hm, State.capRaised_top hc]
  · rintro die t u s hd ht hm rfl hu
    obtain rfl : u = (s.capTimed die 1000000).capLowered die (s.fld .HBR_GOV_POINT_CAP die) := hu
    rw [exec_thermalCapStep, execThermalCapStep_falls hd ht hm (by decide) (by decide), if_neg (by decide)]
  · rintro die t u s hd ht hm rfl hu
    obtain rfl : u = (s.capTimed die 1000000).capLowered die (s.fld .HBR_GOV_POINT_CAP die) := hu
    refine ⟨_, rfl, ?_⟩
    rw [exec_thermalCapStep, execThermalCapStep_falls hd ht hm (by decide) (by decide), if_pos rfl, State.capEvent]

end Sys2Proof.Machine

/-! ## Loads -/

namespace Sys2Proof.Machine
open Sys2Proof

/-- A START without CANCEL begins a load with the latched fields, or finds one in progress (R47, R66). -/
theorem State.writeLoadCtl_start {fn : Nat} {w : Word} {s t : State} (hlive : s.fnLive fn = true)
    (hcancel : bit w.toNat 1 = false) (hstart : bit w.toNat 0 = true) (ht : s.writeReg .IMG_LOAD_CTL fn 0 w = t) :
    s.writeLoadCtl fn w =
      if t.loading fn then t.fnEvent fn 0 .IMG_EVT_REJ_BUSY fn
      else t.loadBegin fn (4096 * t.fld .IMG_SRC_ADDR_ADDR fn) (t.fld .IMG_LOAD_CTL_SRC fn == 1)
        (t.fld .IMG_ATOLL_SEL_SEL fn) (t.fld .IMG_LOAD_CTL_FORCE fn == 1) (t.fld .IMG_LOAD_CTL_MODE fn == 1) none := by
  subst ht
  simp only [State.writeLoadCtl, hlive, hcancel, hstart]
  rfl

/-- A CANCEL without START ends a load before QUIESCE (R65). -/
theorem State.writeLoadCtl_cancel {fn : Nat} {w : Word} {s t : State} (hlive : s.fnLive fn = true)
    (hcancel : bit w.toNat 1 = true) (hstart : bit w.toNat 0 = false) (ht : s.writeReg .IMG_LOAD_CTL fn 0 w = t)
    (hload : t.loading fn = true) (hstate : t.loadState fn ≤ loadWaitIdle) :
    s.writeLoadCtl fn w = t.loadEnd fn loadRefused 0xC .aborted := by
  subst ht
  unfold State.writeLoadCtl
  rw [if_pos hlive]
  dsimp only
  rw [if_pos hstart, if_pos ⟨hcancel, hload, hstate⟩]

/-- The first waiting command reaches a loader without a load (R66). -/
theorem execLoadQueuedStart_starts {fn : Nat} {r : CmdRef} {rest : List CmdRef} {c : Command} {s t : State}
    (hlive : s.fnLive fn = true) (hload : s.loading fn = false) (hwait : (s.fnState fn).loadsWaiting = r :: rest)
    (ht : s.modFn fn (fun f => { f with loadsWaiting := rest }) = t) (hc : t.command r = some c)
    (hroom : t.ringRoom fn r.q = true) : execLoadQueuedStart fn s = .next (t.loadCommand r c) := by
  subst ht
  unfold execLoadQueuedStart
  rw [if_neg (by simp [hlive, hload])]
  simp only [hwait, hc, hroom, if_true]

/-- A header that was read passes the checks of R47, or ends the load with the one that failed. -/
theorem execLoadHeaderFetched_checks {fn : Nat} {ans a : Answer} {s t : State} (hlive : s.fnLive fn = true)
    (hstate : s.loadState fn = loadCheckState)
    (hready : s.sourceReady fn (s.load fn).src 4096 (s.load fn).host ans = true)
    (hread : s.sourceRead fn (s.load fn).src 4096 (s.load fn).host ans = (t, a)) (hok : a.status = .ok) :
    execLoadHeaderFetched fn ans s = .next (match t.loadCheck fn a.data with
      | some x => t.loadEnd fn loadRefused x.1 x.2
      | none => t.headerPasses fn a.data) := by
  unfold execLoadHeaderFetched
  rw [if_neg (by simp [hlive, hstate, hready])]
  simp only [hread, hok]
  cases t.loadCheck fn a.data <;> rfl

/-- A header that could not be read ends the load (R67). -/
theorem execLoadHeaderFetched_fails {fn : Nat} {ans a : Answer} {s t : State} (hlive : s.fnLive fn = true)
    (hstate : s.loadState fn = loadCheckState)
    (hready : s.sourceReady fn (s.load fn).src 4096 (s.load fn).host ans = true)
    (hread : s.sourceRead fn (s.load fn).src 4096 (s.load fn).host ans = (t, a)) (hbad : a.status ≠ .ok) :
    execLoadHeaderFetched fn ans s = .next (t.loadEnd fn loadRefused 0xD a.status) := by
  unfold execLoadHeaderFetched
  rw [if_neg (by simp [hlive, hstate, hready]), hread]
  exact if_pos hbad

/-- A free staging engine takes the head of its queue (R53). -/
theorem execLoadStageStart_takes {fn : Nat} {s : State} (hhead : s.staging.head? = some fn) (hfree : s.stagingBusy = false)
    (hstate : s.loadState fn = loadStage) :
    execLoadStageStart fn s = .next (let t : State := { s with stagingBusy := true }
      if (s.load fn).host then t.hostRead fn 16 (s.load fn).src (imgLength (s.load fn).header) else t) :=
  if_pos ⟨hhead, hfree, hstate⟩

/-- An image that has been read is staged and digested; its load holds what uses its targets (R52, R54). -/
theorem execLoadStageDone_stages {fn : Nat} {ans a : Answer} {s t : State} (hhead : s.staging.head? = some fn)
    (hbusy : s.stagingBusy = true) (hstate : s.loadState fn = loadStage)
    (hready : s.sourceReady fn (s.load fn).src (imgLength (s.load fn).header) (s.load fn).host ans = true)
    (hread : s.sourceRead fn (s.load fn).src (imgLength (s.load fn).header) (s.load fn).host ans = (t, a))
    (hok : a.status = .ok) :
    execLoadStageDone fn ans s = .next (((({ t with staging := t.staging.tail, stagingBusy := false } : State).modLoad fn
      (fun l => { l with staged := a.data, digest := shake256 64 a.data })).enterLoad fn loadWaitIdle).loadHolds fn) := by
  unfold execLoadStageDone
  rw [if_neg (by simp [hhead, hbusy, hstate, hready])]
  simp only [hread, hok, ne_eq, not_true_eq_false, if_false]

/-- A fault ends a load that does not wait: REFUSED before QUIESCE, FAILED from there on (R67, R68). -/
theorem State.loadFault_ends {fn : Nat} {st : Status} {s : State} (hload : s.loading fn = true)
    (hstate : s.loadState fn ≠ loadWaitIdle) :
    s.loadFault fn st = s.loadEnd fn (if s.loadState fn < loadQuiesce then loadRefused else loadFailed) 0xD st :=
  if_neg (by simp [hload, hstate])

/-- Nothing keeps a load in WAIT_IDLE whose targets are idle and whose gate has not been asked for. -/
theorem loadWaitIdle_ends {fn : Nat} {s : State} (hload : s.loading fn = true) (hstate : s.loadState fn = loadWaitIdle)
    (hidle : s.loadTargetsIdle fn = true) (hgate : (s.load fn).gate = none) :
    ¬ (s.loading fn = false ∨ s.loadState fn ≠ loadWaitIdle ∨ s.loadTargetsIdle fn = false ∨
      (s.load fn).gate.isSome = true) := by
  simp [hload, hstate, hidle, hgate]

/-- A load on one die needs no gate (R63). -/
theorem execLoadWaitIdleExit_oneDie {fn : Nat} {s : State} (hload : s.loading fn = true)
    (hstate : s.loadState fn = loadWaitIdle) (hidle : s.loadTargetsIdle fn = true) (hgate : (s.load fn).gate = none)
    (hdies : (s.loadDies fn).length ≤ 1) : execLoadWaitIdleExit fn s = .next (s.enterQuiesce fn) := by
  unfold execLoadWaitIdleExit
  rw [if_neg (loadWaitIdle_ends hload hstate hidle hgate)]
  exact if_pos hdies

/-- A load across dies presents its epoch to their gates (R63, R440). -/
theorem execLoadWaitIdleExit_gates {fn : Nat} {s : State} (hload : s.loading fn = true)
    (hstate : s.loadState fn = loadWaitIdle) (hidle : s.loadTargetsIdle fn = true) (hgate : (s.load fn).gate = none)
    (hdies : 1 < (s.loadDies fn).length) (hstrait : s.straitState (18 + s.commandDie fn) ≠ 3)
    (hepoch : s.heldEpoch (s.commandDie fn) ≠ 0) :
    execLoadWaitIdleExit fn s = .next ((s.issueAction (.load fn) (s.commandDie fn) (s.heldEpoch (s.commandDie fn))
      (s.loadDies fn)).1.modLoad fn (fun l => { l with gate := some s.nextAction })) := by
  unfold execLoadWaitIdleExit
  rw [if_neg (loadWaitIdle_ends hload hstate hidle hgate)]
  dsimp only
  rw [if_neg (Nat.not_le.2 hdies), if_neg (not_or.2 ⟨hstrait, hepoch⟩)]
  rfl

/-- A load whose stacks run no reef operation of its function is cleared for WRITE (R57). -/
theorem execLoadQuiesceDone_clears {fn : Nat} {s : State} (hload : s.loading fn = true)
    (hstate : s.loadState fn = loadQuiesce)
    (hreef : (setBits (s.loadStacks fn) 8).any (fun k => (s.reef k).ops.any (fun o => o.fn == fn)) = false)
    (hstale : s.loadStale fn = false) :
    execLoadQuiesceDone fn s = .next ((s.loadClears fn).enterLoad fn loadWrite) := by
  unfold execLoadQuiesceDone
  rw [if_neg (by simp [hload, hstate]), if_neg (by simp [hreef]), if_neg (by simp [hstale])]

/-- A load that its gates let write installs its image, activates it and ends DONE (R58, R59). -/
theorem execLoadWriteDone_installs {fn : Nat} {s : State} (hload : s.loading fn = true)
    (hstate : s.loadState fn = loadWrite) (hstale : s.loadStale fn = false) :
    execLoadWriteDone fn s = .next (((((s.loadInstall fn).enterLoad fn loadActivate).loadActivates fn).recordChange
      fn).loadEnd fn loadDone 0 .ok) := by
  unfold execLoadWriteDone
  rw [if_neg (by simp [hload, hstate]), if_neg (by simp [hstale])]

/-- Settles O2: each command is run on the state that its clause describes. -/
theorem loadCommandsComplete : Obligations.LoadCommandsComplete := by
  refine ⟨?_, ?_, ?_, ?_, ?_, ?_, ?_, ?_, ?_, ?_, ?_, ?_⟩
  · intro fn w s hlive hcancel hstart
    rw [exec_loadStart, execLoadStart, ok, State.writeLoadCtl_start hlive hcancel hstart rfl]
  · intro fn w s hlive hcancel hstart hload hstate
    rw [exec_loadCancel, execLoadCancel, ok, State.writeLoadCtl_cancel hlive hcancel hstart rfl hload hstate]
  · intro fn r rest c s hlive hload hwait hc hroom
    exact execLoadQueuedStart_starts hlive hload hwait rfl hc hroom
  · intro fn ans t a s hlive hstate hready hread hok
    exact execLoadHeaderFetched_checks hlive hstate hready hread hok
  · intro fn ans t a s hlive hstate hready hread hbad
    exact execLoadHeaderFetched_fails hlive hstate hready hread hbad
  · intro fn s hhead hfree hstate
    exact execLoadStageStart_takes hhead hfree hstate
  · intro fn ans t a s hhead hbusy hstate hready hread hok
    exact execLoadStageDone_stages hhead hbusy hstate hready hread hok
  · intro fn st s hst hload hstate
    rw [exec_loadFault, execLoadFault, if_pos hst, ok, State.loadFault_ends hload hstate]
  · intro fn s hload hstate hidle hgate hdies
    exact execLoadWaitIdleExit_oneDie hload hstate hidle hgate hdies
  · intro fn s hload hstate hidle hgate hdies hstrait hepoch
    exact execLoadWaitIdleExit_gates hload hstate hidle hgate hdies hstrait hepoch
  · intro fn s hload hstate hreef hstale
    exact execLoadQuiesceDone_clears hload hstate hreef hstale
  · intro fn s hload hstate hstale
    exact execLoadWriteDone_installs hload hstate hstale

end Sys2Proof.Machine

/-! ## Launches, islets and control packets -/

namespace Sys2Proof.Machine
open Sys2Proof

/-- A launch that has its parameters already writes them and starts its islets (R73). -/
theorem execLaunchParamsRead_given {lid : Nat} {ans : Answer} {l : Launch} {s : State}
    (hl : storeGet {} s.launches lid = l) (hopen : s.launchOpen lid = true) (hstarted : l.started = false)
    (hsource : l.source = 2) (hsafe : s.entryUnsafe l.fn l.entry = false) (hsvc : l.forService = false)
    (hidle : (launchIslets l).any (fun i => s.isletActive i || (s.islet i).malformed) = false)
    (hroom : s.launchRoom l = true) : execLaunchParamsRead lid ans s = .next (s.launchStarts lid l []) := by
  unfold execLaunchParamsRead
  simp only [hl]
  rw [if_neg (by simp [hopen, hstarted, hroom]), if_neg (by simp [hsource, hsafe, hsvc]), if_neg (by simp [hsource]),
    if_pos (show l.source = 2 ∨ entryParamLen l.entry - l.given.length = 0 from .inl hsource), if_neg (not_not.2 rfl),
    if_neg (by simp only [hidle]; decide)]

/-- A launch whose parameters the host gives writes them and starts its islets (R73). -/
theorem execLaunchParamsRead_host {lid : Nat} {ans a : Answer} {l : Launch} {s u : State}
    (hl : storeGet {} s.launches lid = l) (hopen : s.launchOpen lid = true) (hstarted : l.started = false)
    (hsource : l.source = 1) (hsafe : s.entryUnsafe l.fn l.entry = false) (hsvc : l.forService = false)
    (hlen : entryParamLen l.entry - l.given.length ≠ 0)
    (hready : s.hostReady l.fn l.addr (entryParamLen l.entry - l.given.length) ans = true)
    (hread : s.hostAnswer l.fn l.addr (entryParamLen l.entry - l.given.length) ans = (u, a)) (hok : a.status = .ok)
    (hidle : (launchIslets l).any (fun i => u.isletActive i || (u.islet i).malformed) = false)
    (hroom : s.launchRoom l = true) : execLaunchParamsRead lid ans s = .next (u.launchStarts lid l a.data) := by
  have hasks : ¬ (l.source = 2 ∨ entryParamLen l.entry - l.given.length = 0) :=
    not_or.2 ⟨by simp [hsource], hlen⟩
  unfold execLaunchParamsRead
  simp only [hl]
  rw [if_neg (by simp [hopen, hstarted, hroom]), if_neg (by simp [hsource, hsafe, hsvc]),
    if_neg (by simp [hsource, hready]), if_neg hasks, if_pos hsource, hread, if_neg (not_not.2 hok),
    if_neg (by simp only [hidle]; decide)]

/-- A start for an islet of a launch reaches it over an open way (R73). -/
theorem execIsletStartArrive_starts {lid islet : Nat} {l : Launch} {s : State} (hl : storeGet {} s.launches lid = l)
    (hstart : l.starting.contains islet = true)
    (hway : s.wayOpen (leadIsland (entryAtolls l.entry)) (islDie islet) = true) :
    execIsletStartArrive lid islet s = .next ((s.modLaunch lid (fun l =>
      { l with starting := l.starting.erase islet })).launchIslet lid islet l) := by
  subst hl
  exact if_pos ⟨hstart, hway⟩

/-- The deadline of a launch that has one stops it (R74). -/
theorem execLaunchTimeout_stops {lid : Nat} {l : Launch} {s : State} (hl : storeGet {} s.launches lid = l)
    (hopen : s.launchOpen lid = true) (hstarted : l.started = true) (htime : entryTimeout l.entry ≠ 0) :
    execLaunchTimeout lid s =
      .next ((s.reachCount (leadIsland (entryAtolls l.entry)) (launchClose l)).launchStop lid .aborted) := by
  subst hl
  exact if_pos ⟨hopen, hstarted, htime⟩

/-- A write of ISL_CTL by the function that holds the islet acts on it as its bits say: STOP, then RESET (R87, R448). -/
theorem State.writeIslCtl_holder {fn islet : Nat} {w : Word} {s : State} (hlive : s.fnLive fn = true) (hi : islet < 384)
    (hfn : s.isletFn islet = fn) :
    s.writeIslCtl fn islet w =
      (let t := if bit w.toNat 0 then (s.stopIslet islet causeStopped).taskEnd (s.islet islet).task .aborted else s
       if bit w.toNat 1 then t.isletResets islet else t) :=
  if_pos ⟨hlive, hi, hfn⟩

/-- An uncorrectable read of an active islet is located, journaled and ends its work (R87). -/
theorem execIsletFault_faults {islet cause place index : Nat} {s u : State} (hi : islet < 384)
    (hactive : s.isletActive islet = true) (hcause : cause = 1 ∨ cause = 2 ∨ cause = 5 ∨ cause = 6)
    (hu : (s.drawn.isletErr islet cause place index (1 + s.free % 255)).straitOffer (islDie islet) 16 3 (unitsOf 32) = u) :
    execIsletFault islet cause place index s = .next ((u.journal 0x50
      (u.isletRecord islet cause place index (1 + s.free % 255))).isletFaults islet cause .uncorrectableMem) := by
  subst hu
  refine if_neg ?_
  rintro (hbig | ⟨hstill, -⟩ | hother)
  · exact hbig hi
  · exact absurd (hactive.symm.trans hstill) (by decide)
  · exact hother hcause

section ControlPacket
variable {src dst : Nat} {p : Packet} {s : State}
  (hp : s.packets.find? (fun p => p.src == src && p.dst == dst) = some p)
  (hway : s.wayOpen (packetDie src) (packetDie dst) = true)
include hp hway

/-- A packet that sets a flag sets it at its destination (R97). -/
theorem execControlPacketArrive_flagSet {f : Nat} (hk : p.kind = .flagSet f) :
    execControlPacketArrive src dst s = .next (({ s with packets := s.packets.erase p } : State).setFlags dst (2 ^ f)) := by
  simp only [execControlPacketArrive, hp, hway, hk, Bool.true_eq_false, if_false]

/-- A packet that returns credits adds them at its destination (R100). -/
theorem execControlPacketArrive_release {c n : Nat} (hk : p.kind = .release c n) :
    execControlPacketArrive src dst s = .next (({ s with packets := s.packets.erase p } : State).modIslet dst (fun x =>
      { x with creditsIn := storeSet 0 x.creditsIn c (storeGet 0 x.creditsIn c + n) })) := by
  simp only [execControlPacketArrive, hp, hway, hk, Bool.true_eq_false, if_false]

/-- A halt notice of a launch is for the launch to hear (R74). -/
theorem execControlPacketArrive_halt {lid : Nat} (hk : p.kind = .halt (.launch lid)) :
    execControlPacketArrive src dst s = ({ s with packets := s.packets.erase p } : State).launchHears lid src := by
  simp only [execControlPacketArrive, hp, hway, hk, Bool.true_eq_false, if_false]

end ControlPacket

/-- A launch other than the service's sampling launch takes each halt notice. -/
theorem State.launchHears_plain {lid i : Nat} {s : State} (h : (storeGet {} s.launches lid).client ≠ .generation true) :
    s.launchHears lid i = .next (s.launchHalted lid i) :=
  if_neg fun ⟨_, _, hsampling, _⟩ => h hsampling

/-- Settles O3: each command is run on the state that its clause describes. -/
theorem launchCommandsComplete : Obligations.LaunchCommandsComplete := by
  refine ⟨?_, ?_, ?_, ?_, ?_, ?_, ?_, ?_, ?_, ?_⟩
  · intro lid ans l s hl hopen hstarted hsource hsafe hsvc hidle hroom
    exact execLaunchParamsRead_given hl hopen hstarted hsource hsafe hsvc hidle hroom
  · intro lid ans l u a s hl hopen hstarted hsource hsafe hsvc hlen hready hread hok hidle hroom
    exact execLaunchParamsRead_host hl hopen hstarted hsource hsafe hsvc hlen hready hread hok hidle hroom
  · intro lid islet s hstart hway
    exact execIsletStartArrive_starts rfl hstart hway
  · intro lid s hopen hstarted htime
    exact execLaunchTimeout_stops rfl hopen hstarted htime
  · intro fn islet w s hlive hi hfn hstop hreset
    rw [exec_islStop, execIslStop, ok, State.writeIslCtl_holder hlive hi hfn, if_pos hstop, hreset]
    rfl
  · intro fn islet w s hlive hi hfn hstop hreset
    rw [exec_isletReset, execIsletReset, ok, State.writeIslCtl_holder hlive hi hfn, if_pos hreset, hstop]
    rfl
  · intro islet cause place index u s hi hactive hcause hu
    exact execIsletFault_faults hi hactive hcause hu
  · intro src dst f p s hp hway hk
    exact execControlPacketArrive_flagSet hp hway hk
  · intro src dst c n p s hp hway hk
    exact execControlPacketArrive_release hp hway hk
  · intro src dst lid p s hp hway hk hclient
    exact (execControlPacketArrive_halt hp hway hk).trans (State.launchHears_plain hclient)

end Sys2Proof.Machine

/-! ## Copy engines, port B and the mesh channels -/

namespace Sys2Proof.Machine
open Sys2Proof

section ForcedGrant
variable {islet bank : Nat} {w : PortBWrite} {s : State}
  (hw : (s.islet islet).portB.find? (fun w => spBank w.off == bank) = some w)
include hw

/-- The forced grant of a receive end's write puts its unit into the ring (R85, R97). -/
theorem execCollisionForcedGrant_channel {c : Nat} (hc : w.writer = .channel c) :
    execCollisionForcedGrant islet bank s = .next ((((s.modIslet islet (fun x =>
      { x with portB := x.portB.erase w })).spWrite islet w.off w.data).satFld .ISL_COLL_LIMIT_HITS islet 0
      1).unitReceived islet c) := by
  simp only [execCollisionForcedGrant, hw, hc, ok]

/-- The forced grant of a copy engine's write marks its plan with COLLISION (R85, R93). -/
theorem execCollisionForcedGrant_engine {e : Nat} (he : w.writer = .engine e) :
    execCollisionForcedGrant islet bank s = .next ((((s.modIslet islet (fun x =>
      { x with portB := x.portB.erase w })).spWrite islet w.off w.data).satFld .ISL_COLL_LIMIT_HITS islet 0 1).modIslet
      islet (fun x => x.setEngine e { x.engine e with
        run := (x.engine e).run.map (fun r => { r with status := if r.status = .ok then .collision else r.status }) })) := by
  simp only [execCollisionForcedGrant, hw, he, ok]

end ForcedGrant

/-- A legal plan starts with as many words out as its window allows (R90, R91). -/
theorem State.planStart_legal {islet eng n flag : Nat} {p : Plan} {s : State} (hp : s.planAt islet n = some p)
    (hlegal : p.legal = true) :
    s.planStart islet eng n flag = .next (s.planRuns islet eng n flag (min (planWindow p) p.words)) := by
  unfold State.planStart
  simp only [hp]
  rw [if_neg (by simp [hlegal]), ok]

/-- An idle engine starts the head of its queue (R89). -/
theorem execCopyPlanStart_idle {islet eng corrected n flag : Nat} {rest : List (Nat × Nat)} {s t : State}
    (hi : islet < 384) (he : eng < 2) (hidle : ((s.islet islet).engine eng).run = none)
    (hqueue : ((s.islet islet).engine eng).queue = (n, flag) :: rest)
    (ht : (s.modIslet islet (fun x => x.setEngine eng { (s.islet islet).engine eng with queue := rest })).spCorrected islet
      corrected = t) : execCopyPlanStart islet eng corrected s = t.planStart islet eng n flag := by
  subst ht
  unfold execCopyPlanStart
  rw [if_neg (by simp [hi, he])]
  simp only [hidle, hqueue]

/-- The word of a scratchpad move goes from one place of the scratchpad to the other (R91). -/
theorem execCopyReadReturn_move {islet eng k upset losses : Nat} {r : CopyRun} {p : Plan} {s : State}
    (hrun : ((s.islet islet).engine eng).run = some r) (hp : s.planAt islet r.plan = some p) (hk : r.out.head? = some k)
    (hfree : (s.islet islet).portB.any (fun w => w.writer == .engine eng &&
      spBank w.off == spBank (p.spAt p.spOff2 k).toNat) = false) (hkind : p.kind = 2) :
    execCopyReadReturn islet eng k upset losses s =
      .next (s.planWord islet eng k p p.spOff2 (s.spRead islet (p.spAt p.spOff k).toNat 32) losses) := by
  unfold execCopyReadReturn
  simp only [hrun, hp, if_pos hkind]
  rw [if_neg (by simp [hk, hfree]), ok]

section PlanEnds
variable {islet eng corrected : Nat} {r : CopyRun} {p : Plan} {s : State}
  (hrun : ((s.islet islet).engine eng).run = some r) (hp : s.planAt islet r.plan = some p) (hout : r.out = [])
  (hfree : (s.islet islet).portB.any (fun w => w.writer == .engine eng) = false)
include hrun hp hout hfree

/-- A plan that has had its words moved ends: it goes on to its chained plan, or leaves its engine (R92). -/
theorem execCopyPlanComplete_reads (hkind : p.kind ≠ 1) (hlast : p.words ≤ r.next) :
    execCopyPlanComplete islet ⟨eng, corrected⟩ s =
      if p.chain then ((s.planDone islet eng r).spCorrected islet corrected).planStart islet eng p.next r.flag
      else .next ((s.planDone islet eng r).planLast islet eng r.flag) := by
  have hallowed : ¬ s.planForbidden islet p r.next = true := by simp [State.planForbidden, hkind]
  unfold execCopyPlanComplete
  simp only [hrun, hp]
  rw [if_neg (by simp [hout, hfree, hlast]), if_neg hallowed, if_neg hkind]
  dsimp only
  rw [if_neg (by simp [hrun]), if_neg (not_not.2 rfl)]

/-- A plan whose memory writes have all been taken OK ends likewise (R91, R92). -/
theorem execCopyPlanComplete_writes {t : State} (hkind : p.kind = 1) (hallowed : s.planForbidden islet p r.next = false)
    (hwrites : s.planWrites islet eng p r.next = (t, .ok, true)) (hstill : ((t.islet islet).engine eng).run ≠ none) :
    execCopyPlanComplete islet ⟨eng, corrected⟩ s =
      if p.chain then ((t.planDone islet eng r).spCorrected islet corrected).planStart islet eng p.next r.flag
      else .next ((t.planDone islet eng r).planLast islet eng r.flag) := by
  unfold execCopyPlanComplete
  simp only [hrun, hp]
  rw [if_neg (by simp [hout, hfree, hkind]), if_neg (by simp [hallowed]), if_pos hkind, hwrites]
  dsimp only
  rw [if_neg (by simp [hstill]), if_neg (not_not.2 rfl)]

end PlanEnds

/-- The first choice of a mesh or strait port moves where its link takes it; the die then takes what it can (R96). -/
theorem execChannelUnitHop_moves {islet port id : Nat} {u : ChanUnit} {rest : List (Nat × ChanUnit)} {s t : State}
    (hi : islet < 384) (hlow : 0 < port) (hhigh : port < 6) (hchoice : s.hopChoices islet port = (id, u) :: rest)
    (hmoved : (s.hopTaken islet port id).hopLink islet port id u = .moved t) :
    execChannelUnitHop islet port s = t.dieTakes (islDie islet) := by
  unfold execChannelUnitHop
  rw [if_pos ⟨hi, hhigh⟩, hchoice, State.hopFirst, if_neg (Nat.ne_of_gt hlow), hmoved]

/-- A unit at a receive end is written into its ring, or waits for its forced grant (R85, R97). -/
theorem execChannelUnitReceive_writes {islet chan losses : Nat} {u : ChanUnit} {rest : List ChanUnit} {e : RecvEnd}
    {s t : State} (he : storeGet {} (s.islet islet).recvs chan = e) (hunit : e.arrived = u :: rest)
    (hfree : (s.islet islet).portB.any (fun w => w.writer == .channel chan) = false)
    (ht : s.portBWrite islet { off := e.ringOff + e.wr, data := u.data, writer := .channel chan } losses = t) :
    execChannelUnitReceive islet chan losses s =
      .next (if s.portBWaits islet losses then t else t.unitReceived islet chan) := by
  subst ht
  unfold execChannelUnitReceive
  simp only [he, hunit]
  rw [if_neg (by simp only [hfree]; decide), ok]

/-- A send end takes the credits that its islet holds for it (R97). -/
theorem execChannelCreditReturn_adds {islet chan k : Nat} {e : SendEnd} {s : State}
    (he : (s.islet islet).sends.find? (fun e => e.1 == chan) = some (k, e)) :
    execChannelCreditReturn islet chan s = .next (s.setIslet islet { s.islet islet with
      creditsIn := storeSet 0 (s.islet islet).creditsIn chan 0
      sends := storeSet {} (s.islet islet).sends chan
        { e with credits := e.credits + storeGet 0 (s.islet islet).creditsIn chan } }) := by
  simp only [execChannelCreditReturn, he, ok]

/-- Settles O4: each command is run on the state that its clause describes; a chained plan starts as any other does, and a die
that can take nothing stays as it is. -/
theorem copyAndChannelCommandsComplete : Obligations.CopyAndChannelCommandsComplete := by
  refine ⟨?_, ?_, ?_, ?_, ?_, ?_, ?_, ?_, ?_, ?_⟩
  · intro islet bank c w s hw hc
    exact execCollisionForcedGrant_channel hw hc
  · intro islet bank e w s hw he
    exact execCollisionForcedGrant_engine hw he
  · intro islet eng corrected n flag rest p t s hi he hidle hqueue ht hp hlegal
    rw [exec_copyPlanStart, execCopyPlanStart_idle hi he hidle hqueue ht, State.planStart_legal hp hlegal]
  · intro islet eng k upset losses r p s hrun hp hk hfree hkind
    exact execCopyReadReturn_move hrun hp hk hfree hkind
  · intro islet eng corrected r p s hrun hp hout hfree hkind hlast hchain
    rw [exec_copyPlanComplete, execCopyPlanComplete_reads hrun hp hout hfree hkind hlast, if_neg (by simp [hchain])]
  · intro islet eng corrected r p q t s hrun hp hout hfree hkind hlast hchain ht hq hlegal
    rw [exec_copyPlanComplete, execCopyPlanComplete_reads hrun hp hout hfree hkind hlast, if_pos hchain, ht,
      State.planStart_legal hq hlegal]
  · intro islet eng corrected r p t s hrun hp hout hfree hkind hchain hallowed hwrites hstill
    rw [exec_copyPlanComplete, execCopyPlanComplete_writes hrun hp hout hfree hkind hallowed hwrites hstill,
      if_neg (by simp [hchain])]
  · intro islet port id u rest t s hi hlow hhigh hchoice hmoved hnone
    rw [exec_channelUnitHop, execChannelUnitHop_moves hi hlow hhigh hchoice hmoved, State.dieTakes_none hnone]
  · intro islet chan losses u rest e t s he hunit hfree ht
    exact execChannelUnitReceive_writes he hunit hfree ht
  · intro islet chan k e s he
    exact execChannelCreditReturn_adds he

end Sys2Proof.Machine

/-! ## The sequencer -/

namespace Sys2Proof.Machine
open Sys2Proof

section RunIns
variable {s : State} {i : Nat}

/-! What the instruction at the program counter does, one lemma per opcode of the table (R102). -/

theorem State.runIns_nop (h : insOp (s.instruction i) = 0) : s.runIns i = .next (s.seqNext i) := by
  simp only [State.runIns, h, ok]

theorem State.runIns_mx (h : insOp (s.instruction i) = 1) : s.runIns i = .next (s.insMx i (s.instruction i)) := by
  simp only [State.runIns, h, ok]

theorem State.runIns_vx (h : insOp (s.instruction i) = 2) : s.runIns i = .next (s.insVx i (s.instruction i)) := by
  simp only [State.runIns, h, ok]

theorem State.runIns_copy (h : insOp (s.instruction i) = 3) : s.runIns i = .next (s.insCopy i (s.instruction i)) := by
  simp only [State.runIns, h, ok]

theorem State.runIns_send (h : insOp (s.instruction i) = 4) : s.runIns i = s.insSend i (s.instruction i) := by
  simp only [State.runIns, h]

theorem State.runIns_recv (h : insOp (s.instruction i) = 5) : s.runIns i = s.insRecv i (s.instruction i) := by
  simp only [State.runIns, h]

theorem State.runIns_wait (h : insOp (s.instruction i) = 6) : s.runIns i = .next (s.insWait i (s.instruction i)) := by
  simp only [State.runIns, h, ok]

theorem State.runIns_setf (h : insOp (s.instruction i) = 7) :
    s.runIns i = .next ((s.setFlags i (bits (s.instruction i).toNat 0 32)).seqNext i) := by
  simp only [State.runIns, h, ok]

theorem State.runIns_clrf (h : insOp (s.instruction i) = 8) :
    s.runIns i = .next ((s.clearFlags i (bits (s.instruction i).toNat 0 32)).seqNext i) := by
  simp only [State.runIns, h, ok]

theorem State.runIns_signal (h : insOp (s.instruction i) = 9) :
    s.runIns i = .next (s.insSignal i (s.instruction i)) := by
  simp only [State.runIns, h, ok]

theorem State.runIns_ldcnt (h : insOp (s.instruction i) = 10) :
    s.runIns i = .next ((s.setCounter i (bits (s.instruction i).toNat 0 2)
      (bits (s.instruction i).toNat 24 32)).seqNext i) := by
  simp only [State.runIns, h, ok]

theorem State.runIns_loop (h : insOp (s.instruction i) = 11) : s.runIns i = .next (s.insLoop i (s.instruction i)) := by
  simp only [State.runIns, h, ok]

theorem State.runIns_jump (h : insOp (s.instruction i) = 12) :
    s.runIns i = .next (s.seqAt i (bits (s.instruction i).toNat 32 13)) := by
  simp only [State.runIns, h, ok]

theorem State.runIns_fence (h : insOp (s.instruction i) = 13) : s.runIns i = .next (s.insFence i) := by
  simp only [State.runIns, h, ok]

theorem State.runIns_halt (h : insOp (s.instruction i) = 14) : s.runIns i = .next (s.insHalt i) := by
  simp only [State.runIns, h, ok]

/-- An instruction of the table that names no channel always acts or stalls. -/
theorem State.runIns_goesOn (htable : insOp (s.instruction i) ≤ 14) (hsend : insOp (s.instruction i) ≠ 4)
    (hrecv : insOp (s.instruction i) ≠ 5) : ∃ t, s.runIns i = .next t := by
  generalize hop : insOp (s.instruction i) = op at htable hsend hrecv
  match op, htable with
  | 0, _ => exact ⟨_, State.runIns_nop hop⟩
  | 1, _ => exact ⟨_, State.runIns_mx hop⟩
  | 2, _ => exact ⟨_, State.runIns_vx hop⟩
  | 3, _ => exact ⟨_, State.runIns_copy hop⟩
  | 4, _ => exact absurd rfl hsend
  | 5, _ => exact absurd rfl hrecv
  | 6, _ => exact ⟨_, State.runIns_wait hop⟩
  | 7, _ => exact ⟨_, State.runIns_setf hop⟩
  | 8, _ => exact ⟨_, State.runIns_clrf hop⟩
  | 9, _ => exact ⟨_, State.runIns_signal hop⟩
  | 10, _ => exact ⟨_, State.runIns_ldcnt hop⟩
  | 11, _ => exact ⟨_, State.runIns_loop hop⟩
  | 12, _ => exact ⟨_, State.runIns_jump hop⟩
  | 13, _ => exact ⟨_, State.runIns_fence hop⟩
  | 14, _ => exact ⟨_, State.runIns_halt hop⟩

end RunIns

/-- SEND goes on, or stalls with words left, where its islet has the send end it names (R97). -/
theorem State.insSend_configured {s : State} {i k : Nat} {w : Word} {e : SendEnd}
    (he : (s.islet i).sends.find? (fun e => e.1 == bits w.toNat 0 5) = some (k, e)) : ∃ t, s.insSend i w = .next t := by
  simp only [State.insSend, he, ok, Host.Outcome.next.injEq, exists_eq']

/-- RECV releases its words, or stalls until they are there, where its islet has the receive end it names (R97). -/
theorem State.insRecv_configured {s : State} {i k : Nat} {w : Word} {e : RecvEnd}
    (he : (s.islet i).recvs.find? (fun e => e.1 == bits w.toNat 0 5) = some (k, e)) : ∃ t, s.insRecv i w = .next t := by
  unfold State.insRecv
  simp only [he]
  split
  · exact ⟨_, rfl⟩
  · exact ⟨_, rfl⟩

section Issue
variable {s t : State} {i corrected : Nat}

/-- A running sequencer issues an instruction that has the opcode of the command. -/
theorem State.issue_runs {op : Nat} (hi : i < 384) (hrun : s.seqState i = seqRunning)
    (hop : insOp (s.instruction i) = op) : s.issue i op = s.runIns i := by
  unfold State.issue
  rw [if_pos ⟨hi, hrun⟩, if_pos (.inl hop)]

/-- The single-bit errors of a SEND that a running sequencer issues are counted (R86). -/
theorem execSeqSend_runs (hi : i < 384) (hrun : s.seqState i = seqRunning) (hop : insOp (s.instruction i) = 4)
    (ht : s.runIns i = .next t) : execSeqSend ⟨i, corrected⟩ s = .next (t.spCorrected i corrected) := by
  simp only [execSeqSend, State.issue_runs hi hrun hop, ht]
  rw [if_pos ⟨hrun, hop⟩, ok]

/-- A stalled sequencer tries its instruction again (R103); the single-bit errors of a SEND are counted (R86). -/
theorem execSeqStallRelease_runs (hi : i < 384) (hwait : s.seqState i = seqWaiting) (ht : s.runIns i = .next t) :
    execSeqStallRelease ⟨i, corrected⟩ s =
      .next (if insOp (s.instruction i) = 4 then t.spCorrected i corrected else t) := by
  unfold execSeqStallRelease
  dsimp only
  rw [if_pos ⟨hi, hwait⟩, ht]

end Issue

/-- Settles O5: a running sequencer runs the instruction that its command names, and a stalled one the instruction that it
stands at; that instruction does what its opcode says. -/
theorem sequencerIssues : Obligations.SequencerIssues := by
  refine ⟨?_, ?_, ?_, ?_, ?_, ?_, ?_, ?_, ?_, ?_, ?_, ?_, ?_, ?_, ?_, ?_, ?_⟩
  · intro islet s hi hrun hop
    exact (State.issue_runs hi hrun hop).trans (State.runIns_nop hop)
  · intro islet s hi hrun hop
    exact (State.issue_runs hi hrun hop).trans (State.runIns_mx hop)
  · intro islet s hi hrun hop
    exact (State.issue_runs hi hrun hop).trans (State.runIns_vx hop)
  · intro islet s hi hrun hop
    exact (State.issue_runs hi hrun hop).trans (State.runIns_copy hop)
  · intro islet s hi hrun hop
    exact (State.issue_runs hi hrun hop).trans (State.runIns_wait hop)
  · intro islet s hi hrun hop
    exact (State.issue_runs hi hrun hop).trans (State.runIns_setf hop)
  · intro islet s hi hrun hop
    exact (State.issue_runs hi hrun hop).trans (State.runIns_clrf hop)
  · intro islet s hi hrun hop
    exact (State.issue_runs hi hrun hop).trans (State.runIns_signal hop)
  · intro islet s hi hrun hop
    exact (State.issue_runs hi hrun hop).trans (State.runIns_ldcnt hop)
  · intro islet s hi hrun hop
    exact (State.issue_runs hi hrun hop).trans (State.runIns_loop hop)
  · intro islet s hi hrun hop
    exact (State.issue_runs hi hrun hop).trans (State.runIns_jump hop)
  · intro islet s hi hrun hop
    exact (State.issue_runs hi hrun hop).trans (State.runIns_fence hop)
  · intro islet s hi hrun hop
    exact (State.issue_runs hi hrun hop).trans (State.runIns_halt hop)
  · intro islet corrected k e s hi hrun hop he
    obtain ⟨t, ht⟩ := State.insSend_configured he
    exact ⟨t, execSeqSend_runs hi hrun hop ((State.runIns_send hop).trans ht), ht⟩
  · intro islet k e s hi hrun hop he
    obtain ⟨t, ht⟩ := State.insRecv_configured he
    exact ⟨t, ((State.issue_runs hi hrun hop).trans (State.runIns_recv hop)).trans ht, ht⟩
  · intro islet corrected k e s hi hwait hop he
    obtain ⟨t, ht⟩ := State.insSend_configured he
    refine ⟨t, ?_, ht⟩
    rw [exec_seqStallRelease, execSeqStallRelease_runs hi hwait ((State.runIns_send hop).trans ht), if_pos hop]
  · intro islet corrected s hi hwait htable hsend hrecv
    obtain ⟨t, ht⟩ := State.runIns_goesOn htable hsend hrecv
    refine ⟨t, ?_, ht⟩
    rw [exec_seqStallRelease, execSeqStallRelease_runs hi hwait ht, if_neg hsend]

end Sys2Proof.Machine

/-! ## The matrix array -/

namespace Sys2Proof.Machine
open Sys2Proof

section GangCommands
variable {s : State} {islet lead : Nat} (hi : islet < 384)
include hi

/-- Legal heads that agree make a gang operation, or wake the members that are powered down (R117, R132). -/
theorem execGangOpStart_legal (hlead : s.gangLead islet = lead)
    (hnew : (s.islet lead).mx.assembled = false)
    (hissued : (s.gangIslets islet).any (fun i => (s.islet i).mx.queue.isEmpty) = false)
    (hlegal : (s.gangIslets islet).all s.headLegal = true) (hagree : s.headsAgree (s.gangIslets islet) = true)
    (hsame : ((s.gangIslets islet).map (fun i => ((s.islet i).mx.queue.head?).map (·.n))).eraseDups.length ≤ 1)
    {gated : List Nat} (hgated : (s.gangIslets islet).filter (fun i => s.fld .MX_STAT_GATED i == 1) = gated) :
    execGangOpStart islet s = .next (if gated.isEmpty then s.modMx lead (fun m => { m with assembled := true })
      else s.gangWakes gated) := by
  subst hlead hgated
  unfold execGangOpStart
  dsimp only
  rw [if_neg (by simp only [hi, hnew, hissued]; decide),
    if_neg (by simp only [hlegal, hagree, Nat.not_lt.mpr hsame]; decide)]
  exact (apply_ite Host.Outcome.next _ _ _).symm

/-- An array that is idle, with gating asked for, powers down (R132). -/
theorem execMxIdleGate_idle (hidle : (s.islet islet).mx.idle = true) (hgate : s.fld .MX_GATE_CFG_IDLE_GATE islet ≠ 0) :
    execMxIdleGate islet s = .next (s.setFld .MX_STAT_GATED islet 0 1) :=
  if_pos ⟨hi, hidle, hgate⟩

variable (hlead : s.gangLead islet = lead)
include hlead

section HeadTarget
variable {t : Nat} (ht : mxTarget (s.gangOf lead) (s.mxHead lead) = t)
include ht

/-- A LOAD dispatches to a target that no earlier LOAD still fills (R122). -/
theorem execMxLoadDispatch_free (hready : s.headReady lead 0 = true)
    (hfree : (s.islet lead).mx.loads.any (fun e => e.1 == t) = false) :
    execMxLoadDispatch islet s = .next (s.gangLoads lead t) := by
  subst hlead ht
  unfold execMxLoadDispatch
  dsimp only
  rw [if_neg (by simp only [hi, hready, hfree]; decide), ok]

/-- A TILE that asks for it swaps in shadow sets that are VALID in every member (R122, R123). -/
theorem execMxSwap_valid (hready : s.headReady lead 1 = true) (hswap : descSwap (s.mxHead lead) = true)
    (hnew : (s.islet lead).mx.swapped = false)
    (hloaded : (s.gangIslets lead).any (fun i => !(s.islet i).mx.loads.isEmpty) = false)
    (hvalid : (s.gangIslets lead).any (fun i =>
      (storeGet ({} : StatSet) (s.islet i).mx.shadow t).state != 2) = false) :
    execMxSwap islet s = .next (s.gangSwaps lead t) := by
  subst hlead ht
  unfold execMxSwap
  dsimp only
  rw [if_neg (by simp only [hi, hready, hswap, hnew, hloaded]; decide),
    if_neg (by simp only [hvalid]; decide), ok]

/-- A TILE that has no swap to wait for enters with the stationary sets that it meets (R108, R123, R139). -/
theorem execMxTileStart_meets (hready : s.headReady lead 1 = true)
    (hswapped : (descSwap (s.mxHead lead) && !(s.islet lead).mx.swapped) = false)
    (hmeets : (s.gangIslets lead).any (fun i => !tileMeets (s.gangRow i + 1 == gangRows (s.gangOf i)) (s.gangOf i)
      (s.mxHead i) (storeGet {} (s.islet i).mx.active t)) = false) :
    execMxTileStart islet s = .next (s.popGang lead (fun m op =>
      { m with tiles := storeSet [] m.tiles t (storeGet [] m.tiles t ++
        [{ op with set := storeGet {} m.active t }]) })) := by
  subst hlead ht
  unfold execMxTileStart
  dsimp only
  rw [if_neg (by simp only [hi, hready, hswapped]; decide), if_neg (by simp only [hmeets]; decide), ok]

end HeadTarget

/-- A LOAD that every member runs completes (R121). -/
theorem execMxLoadComplete_loading {quad : Nat} {corrected : List (Nat × Nat)}
    (hloading : (s.gangIslets lead).any (fun i => !((s.islet i).mx.loads.any (fun e => e.1 == quad))) = false) :
    execMxLoadComplete islet quad corrected s =
      .next ((s.gangLoaded lead quad).gangReads (s.gangIslets lead) corrected) := by
  subst hlead
  unfold execMxLoadComplete
  dsimp only
  rw [if_neg (by simp only [hi, hloading]; decide), ok]

/-- A TILE in flight at every member, that waits for none before it and has its slices, completes (R126, R138). -/
theorem execMxTileComplete_filled {quad stalls mxCorrected cut : Nat} {spCorrected : List (Nat × Nat)} {t : State}
    (hleadTile : (s.tileOf lead quad).isNone = false)
    (htiles : (s.gangIslets lead).any (fun i => (s.tileOf i quad).isNone) = false)
    (hfirst : s.tileWaits lead quad = false) (hfill : s.gangFill islet quad = (t, cut, true)) :
    execMxTileComplete islet quad stalls spCorrected mxCorrected s =
      .next (t.gangTileOut lead quad cut stalls spCorrected mxCorrected) := by
  subst hlead
  unfold execMxTileComplete
  dsimp only
  rw [if_neg (by simp only [hi, hleadTile, htiles, hfirst]; decide)]
  simp only [hfill, ok]

/-- A COMBINE starts once the gang has nothing in flight and its last row runs no chain (R142). -/
theorem execMxCombineStart_free (hready : s.headReady lead 2 = true)
    (hdrained : (s.gangIslets lead).any (fun i =>
      !((s.islet i).mx.loads.isEmpty && (s.islet i).mx.tiles.all (·.2.isEmpty))) = false)
    (hchains : (s.gangEnds lead).any (fun i => (s.islet i).vx.run.isSome) = false) :
    execMxCombineStart islet s = .next (s.gangCombine lead (s.gangEnds lead)) := by
  subst hlead
  unfold execMxCombineStart
  dsimp only
  rw [if_neg (by simp only [hi, hready, hdrained, hchains]; decide), ok]

/-- A COMBINE that every member runs completes (R141, R142). -/
theorem execMxCombineComplete_combining {mxCorrected : Nat} {spCorrected : List (Nat × Nat)}
    (hcombining : (s.gangIslets lead).any (fun i => (s.islet i).mx.combine.isNone) = false) :
    execMxCombineComplete islet spCorrected mxCorrected s =
      .next (((s.gangCombined lead).gangReads (s.gangIslets lead) spCorrected).gangAccReads (s.gangIslets lead)
        mxCorrected) := by
  subst hlead
  unfold execMxCombineComplete
  dsimp only
  rw [if_neg (by simp only [hi, hcombining]; decide), ok]

end GangCommands

/-- Settles O6: each command is run on the gang, head and target that its clause names; none of its guards holds it back. -/
theorem matrixCommandsComplete : Obligations.MatrixCommandsComplete := by
  refine ⟨?_, ?_, ?_, ?_, ?_, ?_, ?_, ?_, ?_⟩
  · intro islet s hi hnew hissued hlegal hagree hsame
    exact execGangOpStart_legal hi rfl hnew hissued hlegal hagree hsame rfl
  · intro islet s hi hready hfree
    exact execMxLoadDispatch_free hi rfl rfl hready hfree
  · intro islet quad corrected s hi hloading
    exact execMxLoadComplete_loading hi rfl hloading
  · intro islet s hi hready hswap hnew hloaded hvalid
    exact execMxSwap_valid hi rfl rfl hready hswap hnew hloaded hvalid
  · intro islet s hi hready hswapped hmeets
    exact execMxTileStart_meets hi rfl rfl hready hswapped hmeets
  · intro islet quad stalls mxCorrected cut spCorrected t s hi hleadTile htiles hfirst hfill
    exact execMxTileComplete_filled hi rfl hleadTile htiles hfirst hfill
  · intro islet s hi hready hdrained hchains
    exact execMxCombineStart_free hi rfl hready hdrained hchains
  · intro islet mxCorrected spCorrected s hi hcombining
    exact execMxCombineComplete_combining hi rfl hcombining
  · intro islet s hi hidle hgate
    exact execMxIdleGate_idle hi hidle hgate

end Sys2Proof.Machine

/-! ## Chains, phases and feed copies -/

namespace Sys2Proof.Machine
open Sys2Proof

section ChainCommands
variable {s : State} {islet n flag : Nat} {p : VProg}

/-- The head of the VX queue runs, on an islet with neither a chain nor a COMBINE in progress, where its program keeps
the limits (R155, R181). -/
theorem execVxChainStart_legal {rest : List (Nat × Nat)} (hi : islet < 384)
    (hqueue : (s.islet islet).vx.queue = (n, flag) :: rest) (hrun : (s.islet islet).vx.run = none)
    (hcombine : (s.islet islet).mx.combine = none) (hprog : s.vxProgram islet n = some p)
    (hn : n < 512) (hlegal : p.legal (isLagoon islet) = true) (hside : p.sideLegal = true) :
    execVxChainStart islet s = .next (s.chainRuns islet n flag rest) := by
  simp only [execVxChainStart, hqueue, hprog]
  rw [if_neg (by simp [hi, hrun, hcombine]), if_pos ⟨hn, hlegal, hside⟩, ok]

/-- A chain in progress ends with what its rows leave, where its elements lie in legal places and none that it reads is
written by another (R162, R183, R184). -/
theorem execVxChainComplete_sound {stalls spCorrected vxCorrected : Nat}
    (hrun : (s.islet islet).vx.run = some (n, flag)) (hprog : s.vxProgram islet n = some p)
    (hsound : (s.chainCtx islet p).sound = true) :
    execVxChainComplete islet stalls spCorrected vxCorrected s =
      .next (s.chainEnds islet flag p stalls spCorrected vxCorrected) := by
  simp only [execVxChainComplete, hrun, hprog]
  rw [if_neg (by simp [hsound]), ok]

end ChainCommands

section PhaseCommands
variable {s : State} {fn slot k m : Nat} {v : StepSvc}

/-- The phase at the head of a running step's list begins where no islet of the stage, no feed and, for the first one,
no shard keeps it waiting, and where what the stage holds is sound (R193, R195). -/
theorem execPhaseStart_free {rest : List (Nat × Nat)} (hstep : (s.fnState fn).step = some v)
    (htodo : (s.stage fn slot).todo = (k, m) :: rest) (hpoint : v.point = .running)
    (hfree : (s.stage fn slot).running = none) (hready : s.phaseWaits fn slot k = false)
    (hshards : k = 0 → m = 0 → s.shardsCurrent fn slot = true) (hpipe : s.pipeSound fn = true)
    (hislets : (stageIslets (s.stageRecOf fn slot)).any (fun i => (s.islet i).malformed) = false) :
    execPhaseStart fn slot s = .next (s.phaseBegins fn slot k m rest v) := by
  have hcurrent : ¬ (k = 0 ∧ m = 0 ∧ s.shardsCurrent fn slot = false) := by
    rintro ⟨hk, hm, hstale⟩
    exact absurd (hshards hk hm) (by simp [hstale])
  simp only [execPhaseStart, hstep, htodo]
  rw [if_neg (by simp [hpoint, hfree, hready, hcurrent]), if_neg (by simp [hpipe, hislets]), ok]

/-- A phase is done once every islet of its stage has halted with its copies, in time where the stage has a timeout
(R193, R196). -/
theorem State.phaseIsDone_halted
    (hhalted : (stageIslets (s.stageRecOf fn slot)).all (fun i => (s.stage fn slot).halted.contains i &&
      (s.islet i).copyIdle && !s.packets.any (fun q => q.src == i && q.kind == .copyIdle fn slot)) = true)
    (htime : stageTimeout (s.stageRecOf fn slot) = 0 ∨
      (s.stage fn slot).heard ≤ phaseClose (s.stageRecOf fn slot) (s.stage fn slot).opened) :
    s.phaseIsDone fn slot = true := by
  simp only [State.phaseIsDone, hhalted, Bool.true_and, Bool.or_eq_true, beq_iff_eq, decide_eq_true_eq]
  exact htime

/-- A running phase that is done ends (R193). -/
theorem execPhaseDone_done (hstep : (s.fnState fn).step = some v) (hrunning : (s.stage fn slot).running = some (k, m))
    (hdone : s.phaseIsDone fn slot = true) : execPhaseDone fn slot s = .next (s.phaseEnds fn slot k m v) := by
  simp only [execPhaseDone, hstep, hrunning]
  rw [if_neg (by simp [hdone]), ok]

/-- A running phase of a stage with a timeout that is not done aborts the step (R196). -/
theorem execPhaseTimeout_undone (hrunning : (s.stage fn slot).running = some (k, m))
    (htimeout : stageTimeout (s.stageRecOf fn slot) ≠ 0) (hundone : s.phaseIsDone fn slot = false) :
    execPhaseTimeout fn slot s = .next ((s.reachCount (stageHome (s.stageRecOf fn slot))
      (phaseClose (s.stageRecOf fn slot) (s.stage fn slot).opened)).abortStep fn .aborted true) := by
  simp only [execPhaseTimeout, hrunning]
  rw [if_neg (by simp [htimeout, hundone]), ok]

/-- A feed copy from the host whose bytes have come puts the record into its frame (R209). -/
theorem execFeedCopyDone_fromHost {rest : List (Nat × Nat)} {ans a : Answer} {t u w : State} {src dst len : Nat}
    (hstep : (s.fnState fn).step = some v) (htodo : (s.stage fn slot).todo = (0, m) :: rest)
    (hfeeding : (s.stage fn slot).feeding = true) (hpoint : v.point = .running) (hhost : bit v.flags 0 = true)
    (hpipe : s.pipeSound fn = true) (hlen : stageFeedBytes (s.stageRecOf fn slot) = len)
    (hdst : shoalRingBase (s.shoalRecOf fn slot) + (s.stage fn slot).start = dst)
    (hroom : ¬ (s.stage fn slot).limit < len) (hprepared : s.prepareWrite fn dst len = (t, true))
    (hsrc : t.feedAddr fn slot m v = src) (hready : t.hostReady fn src len ans = true)
    (hallowed : t.optForbids fn true dst len = false) (hanswer : t.hostAnswer fn src len ans = (w, a))
    (hok : a.status = .ok) (hwrite : w.devWrite .islet fn dst (a.data.take len) = (u, .ok)) :
    execFeedCopyDone fn slot ans s =
      .next (u.modStage fn slot (fun g => { g with feeding := false, fed := true })) := by
  simp only [execFeedCopyDone, hstep, htodo, hlen, hdst, hprepared, hsrc, hhost, if_true, hanswer, hok, hwrite]
  rw [if_neg (by simp [hfeeding, hpoint]), if_neg (by simp [hpipe]), if_neg hroom, if_neg (by simp [hready]),
    if_neg (by simp [hallowed]), ok]

end PhaseCommands

/-- Settles O7: each command is run on the chain, phase or feed copy that its clause names; none of its guards holds it
back. -/
theorem vectorAndPhaseCommandsComplete : Obligations.VectorAndPhaseCommandsComplete := by
  refine ⟨?_, ?_, ?_, ?_, ?_, ?_⟩
  · intro islet n flag rest p s hi hqueue hrun hcombine hprog hn hlegal hside
    exact execVxChainStart_legal hi hqueue hrun hcombine hprog hn hlegal hside
  · intro islet stalls spCorrected vxCorrected n flag p s hrun hprog hsound
    exact execVxChainComplete_sound hrun hprog hsound
  · intro fn slot k m rest v s hstep htodo hpoint hfree hready hshards hpipe hislets
    exact execPhaseStart_free hstep htodo hpoint hfree hready hshards hpipe hislets
  · intro fn slot k m v s hstep hrunning hhalted htime
    exact execPhaseDone_done hstep hrunning (State.phaseIsDone_halted hhalted htime)
  · intro fn slot k m s hrunning htimeout hundone
    exact execPhaseTimeout_undone hrunning htimeout hundone
  · intro fn slot m rest v ans a t u w s hstep htodo hfeeding hpoint hhost hprepared _ hpipe hroom hready hallowed
      hanswer hok hwrite
    exact execFeedCopyDone_fromHost hstep htodo hfeeding hpoint hhost hpipe rfl rfl hroom hprepared rfl hready hallowed
      hanswer hok hwrite

end Sys2Proof.Machine

/-! ## Memory accesses, refresh, scrub, relocation and mainland ports -/

namespace Sys2Proof.Machine
open Sys2Proof

section MemoryCommands
variable {s t u : State} {fn addr len upset : Nat} {bs : List Byte}

/-- A write through a window that is ready and reaches no page is served as a unit's write of that
address (R203, R206, R207). -/
theorem execShoalWindowAccess_write {st : Status} (hlive : s.fnLive fn = true) (hwindow : isReserved addr = true)
    (hallowed : s.writeForbidden fn true addr bs.length = false)
    (hready : s.unitReady fn addr bs.length true = (t, true)) (hpage : t.pageAt fn (t.windowRange fn addr) = none)
    (hwrite : t.unitWrite .islet fn addr bs = (u, st)) :
    execShoalWindowAccess fn addr len (some bs) upset s = .next
      { u with served := [{ access := { fn := fn, addr := addr, len := bs.length, wr := some bs },
                            answer := { status := st } }] } := by
  unfold execShoalWindowAccess
  simp only [Option.isSome_some, hready, Bool.not_true, Bool.false_eq_true, if_false, hpage, hwrite]
  rw [if_pos ⟨hlive, hwindow⟩, if_neg (by simp [hallowed]), ok]

/-- A read through a window that is ready and reaches no page is served as a unit's read of that
address (R203, R206). -/
theorem execShoalWindowAccess_read {a : Answer} (hlive : s.fnLive fn = true) (hwindow : isReserved addr = true)
    (hready : s.unitReady fn addr len false = (t, true)) (hpage : t.pageAt fn (t.windowRange fn addr) = none)
    (hread : t.unitRead .islet fn addr len = (u, a)) :
    execShoalWindowAccess fn addr len none upset s = .next
      { u with served := [{ access := { fn := fn, addr := addr, len := len }, answer := a }] } := by
  unfold execShoalWindowAccess
  simp only [Option.isSome_none, hready, Bool.not_true, Bool.false_eq_true, if_false, hpage, hread]
  rw [if_pos ⟨hlive, hwindow⟩, if_neg (by simp), ok]

/-- A read within one page below the reserved range is taken by its controller (R219). -/
theorem execMemoryAccess_read {src : Source} {die : Nat} (hlive : s.fnLive fn = true) (hlen : 0 < len)
    (hpage : addr % 65536 + len ≤ 65536) (hbelow : addr < reservedBase) :
    execMemoryAccess fn ⟨src, die⟩ addr len none upset s = .next (s.unserved.takeAccess
      { fn := fn, src := src, die := some die, addr := addr, len := len, wr := none } upset) := by
  dsimp only [execMemoryAccess]
  rw [if_pos ⟨hlive, hlen, hpage, .inl hbelow⟩, if_neg (by simp), ok]

/-- A write within one page below the reserved range that no rule of the optimiser forbids is taken by its controller
(R219, R346, R350, R357). -/
theorem execMemoryAccess_write {src : Source} {die : Nat} (hlive : s.fnLive fn = true) (hlen : 0 < bs.length)
    (hpage : addr % 65536 + bs.length ≤ 65536) (hbelow : addr < reservedBase)
    (hallowed : s.optForbids fn (src != .host) addr bs.length = false) :
    execMemoryAccess fn ⟨src, die⟩ addr len (some bs) upset s = .next (s.unserved.takeAccess
      { fn := fn, src := src, die := some die, addr := addr, len := bs.length, wr := some bs } upset) := by
  dsimp only [execMemoryAccess]
  rw [if_pos ⟨hlive, hlen, hpage, .inl hbelow⟩, if_neg (by simp [hallowed]), ok]

/-- The patrol scrub reads a sector of a populated stack with no lease (R224). -/
theorem execPatrolScrub_stack {key stack : Nat} (hhbm : key < boardBase) (hstack : key / 1024 / 2 ^ 21 / 64 = stack)
    (hperiod : s.fld .MEM_SCRUB_CFG_SCRUB_PERIOD ≠ 0) (hfree : s.leasesOf stack = []) (hnumber : stack < 8)
    (hthere : s.fld .MEM_STACK_STAT_STATE stack = 1) :
    execPatrolScrub key upset s = .next (s.scrubUnit key upset) := by
  simp only [execPatrolScrub, hstack, hfree, List.any_nil, Bool.and_false, if_pos hhbm]
  rw [if_neg (by simp [hperiod, hnumber, hthere]), ok]

/-- The patrol scrub reads a unit of board memory behind a port that is UP and trained (R224, R230). -/
theorem execPatrolScrub_board {key port : Nat} (hboard : boardBase ≤ key) (hport : (key - boardBase) / 2 ^ 37 = port)
    (hperiod : s.fld .MEM_SCRUB_CFG_SCRUB_PERIOD ≠ 0) (hup : s.mlUp port = true)
    (htrained : (storeGet {} s.mlPorts port).lost = false) :
    execPatrolScrub key upset s = .next (s.scrubUnit key upset) := by
  have hhbm : ¬ key < boardBase := Nat.not_lt.mpr hboard
  simp only [execPatrolScrub, hport, decide_eq_false hhbm, Bool.false_and, if_neg hhbm]
  rw [if_neg (by simp [hperiod, hup, htrained]), ok]

/-- A page of HBM on a degraded row moves to the spare rows found for it, where no sector of it is known to be
uncorrectable and neither a move, a lease nor a stack reset holds it (R225, R226). -/
theorem execPageRelocate_spare {page : Nat} {pg : Page} {spare : Frame} (hpage : s.pageAt fn page = some pg)
    (hstill : pg.moving = false) (hhbm : pg.frame.isBoard = false) (hstack : s.frameResetting pg.frame = false)
    (hdegraded : (frameRows pg.frame).all (fun k => !s.repairs.contains k) = false)
    (hgood : s.frameUncorrectable pg.frame = false) (hfree : s.frameLeased pg.frame = false)
    (hspare : s.takeSpare pg.frame = some spare) :
    execPageRelocate fn page s = .next (s.relocatePage fn page pg.frame spare) := by
  simp only [execPageRelocate, hpage, hspare]
  rw [if_neg (by simp only [hstill, hhbm, hstack, hdegraded, hgood, hfree]; decide), ok]

end MemoryCommands

section MainlandPorts
variable {s : State} {port : Nat}

/-- A port that is UP loses training (R230). -/
theorem execMainlandPortTrainingLoss_up (hup : s.mlUp port = true) :
    execMainlandPortTrainingLoss port s = .next
      { s with mlPorts := storeSet {} s.mlPorts port { storeGet {} s.mlPorts port with lost := true } } :=
  if_pos hup

variable {p : MlPort} (hport : storeGet {} s.mlPorts port = p) (hlost : p.lost = true)
include hport hlost

/-- A port that has training back carries on: the accesses held meanwhile are tried again (R230). -/
theorem execMainlandPortRetrained_lost :
    execMainlandPortRetrained port s = .next
      ({ s with mlPorts := storeSet {} s.mlPorts port { p with lost := false }, served := [] } : State).retryHeld := by
  simp only [execMainlandPortRetrained, hport]
  rw [if_pos hlost, ok]

/-- A port that does not get training back is DOWN, and the accesses held meanwhile are tried again there (R230). -/
theorem execMainlandPortDown_lost :
    execMainlandPortDown port s = .next
      ((({ s with mlPorts := storeSet {} s.mlPorts port { p with lost := false }, served := [] } : State).setFld
        .MEM_ML_PORT_STAT_STATE port 0 2).retryHeld) := by
  simp only [execMainlandPortDown, hport]
  rw [if_pos hlost, ok]

end MainlandPorts

/-- Settles O8: each command is run on the access, key, page or port that its clause names; none of its guards holds it
back. Refresh takes time only, so its two clauses hold by definition (R223, R228). -/
theorem memoryCommandsComplete : Obligations.MemoryCommandsComplete := by
  refine ⟨?_, ?_, ?_, ?_, ?_, ?_, ?_, ?_, ?_, ?_, ?_, ?_⟩
  · intro fn addr upset len bs t u st s hlive hwindow hallowed hready hpage hwrite
    rw [exec_shoalWindowAccess]
    exact execShoalWindowAccess_write hlive hwindow hallowed hready hpage hwrite
  · intro fn addr upset len a t u s hlive hwindow hready hpage hread
    rw [exec_shoalWindowAccess]
    exact execShoalWindowAccess_read hlive hwindow hready hpage hread
  · intro fn addr len upset die src s hlive hlen hpage hbelow
    rw [exec_memoryAccess]
    exact execMemoryAccess_read hlive hlen hpage hbelow
  · intro fn addr len upset die src bs s hlive hlen hpage hbelow hallowed
    rw [exec_memoryAccess]
    exact execMemoryAccess_write hlive hlen hpage hbelow hallowed
  · intro stack pc bank s
    rw [exec_hbmRefresh, execHbmRefresh, ok]
  · intro port rfm s
    rw [exec_mainlandRefresh, execMainlandRefresh, ok]
  · intro key upset s hhbm hperiod hfree hnumber hthere
    exact execPatrolScrub_stack hhbm rfl hperiod hfree hnumber hthere
  · intro key upset s hboard hperiod hup htrained
    exact execPatrolScrub_board hboard rfl hperiod hup htrained
  · intro fn page pg t s hpage hstill hhbm hstack hdegraded hgood hfree hspare
    exact execPageRelocate_spare hpage hstill hhbm hstack hdegraded hgood hfree hspare
  · intro port p s hport hlost
    exact execMainlandPortDown_lost hport hlost
  · intro port s hup
    exact execMainlandPortTrainingLoss_up hup
  · intro port p s hport hlost
    exact execMainlandPortRetrained_lost hport hlost

end Sys2Proof.Machine

/-! ## Bytes stored through a page read back -/

namespace Sys2Proof.Machine
open Sys2Proof

/-- Registers, package, pins, functions and leases are as before, so that accesses find the same pages, ways and stacks. -/
structure SameMaps (s t : State) : Prop where
  regs : t.regs = s.regs
  pkg : t.pkg = s.pkg
  pins : t.pins = s.pins
  fns : t.fns = s.fns
  leases : t.leases = s.leases

theorem SameMaps.trans {s t u : State} (h : SameMaps s t) (k : SameMaps t u) : SameMaps s u :=
  ⟨k.regs.trans h.regs, k.pkg.trans h.pkg, k.pins.trans h.pins, k.fns.trans h.fns, k.leases.trans h.leases⟩

section SameMaps
variable {s t : State} (h : SameMaps s t)
include h

theorem SameMaps.fld (f : Fld) (a b : Nat) : t.fld f a b = s.fld f a b := by
  simp only [State.fld, State.reg, h.regs, h.pkg]

theorem SameMaps.fnLive (fn : Nat) : t.fnLive fn = s.fnLive fn := by
  simp only [State.fnLive, State.fnEnabled, h.fld, h.pins]

theorem SameMaps.segmentAt (fn addr : Nat) : t.segmentAt fn addr = s.segmentAt fn addr := by
  simp only [State.segmentAt, State.fnState, h.fns]

theorem SameMaps.pageAt (fn addr : Nat) : t.pageAt fn addr = s.pageAt fn addr := by
  simp only [State.pageAt, h.segmentAt]

theorem SameMaps.leasesOf (stack : Nat) : t.leasesOf stack = s.leasesOf stack := by
  simp only [State.leasesOf, h.leases]

theorem SameMaps.sourceIsland (a : Access) : t.sourceIsland a = s.sourceIsland a := by
  simp only [State.sourceIsland, State.adapterPort, State.commandDie, State.atollsOf, h.fld]

theorem SameMaps.memCut (src mem : Nat) : t.memCut src mem = s.memCut src mem := by
  simp only [State.memCut, State.straitState, h.fld]

end SameMaps

/-- The traffic of an access changes the lanes of straits only. -/
theorem State.memTraffic_lanes (s : State) (src mem : Nat) (write : Bool) (len : Nat) :
    ∃ l, s.memTraffic src mem write len = { s with lanes := l } := by
  have leg : ∀ (u : State) (a b : Nat), ∃ l,
      (if write then u.straitOffer a b 0 (unitsOf len) else (u.straitOffer a b 0 1).straitOffer b a 0 (unitsOf len)) =
        { u with lanes := l } := by
    intro u a b
    by_cases hw : write = true
    · rw [if_pos hw]
      exact u.straitOffer_lanes a b 0 _
    · rw [if_neg hw]
      obtain ⟨l, hl⟩ := u.straitOffer_lanes a b 0 1
      rw [hl]
      exact State.straitOffer_lanes _ b a 0 _
  by_cases hdie : src = 16 ∧ 4 ≤ mem ∧ mem < 12
  · obtain ⟨l, hl⟩ := leg s 16 ((mem - 4) / 2)
    simp only [State.memTraffic, if_pos hdie, hl]
    exact leg _ _ _
  · simp only [State.memTraffic, if_neg hdie]
    exact leg s src mem

/-- An access to a stack with no leases makes no reef unit yield (R266). -/
theorem State.noteYields_free {s : State} {f : Frame} {off len : Nat} (hfree : s.leasesOf f.stack = []) :
    s.noteYields f off len = s := by
  simp only [State.noteYields, State.yieldsAt, hfree, if_true]

/-- No upset leaves the errors of a unit as they are. -/
@[simp] theorem State.addUpset_zero (s : State) (f : Frame) (phys : Nat) : s.addUpset f phys 0 = s := rfl

section HbmAccess
variable {s t : State} {a : Access} {g : Segment} {pg : Page}

/-- An access can be served at once from its page in HBM: the page is not moving, its stack is not in reset and holds no
leases, and the access reaches it (R219, R232, R267). -/
structure State.HbmServes (s : State) (a : Access) (g : Segment) (pg : Page) : Prop where
  segment : s.segmentAt a.fn a.addr = some g
  page : s.pageAt a.fn a.addr = some pg
  still : pg.moving = false
  hbm : pg.frame.isBoard = false
  way : s.memCut (s.sourceIsland a) (4 + pg.frame.stack) = false
  running : s.fld .MEM_STACK_STAT_STATE pg.frame.stack ≠ 2
  free : s.leasesOf pg.frame.stack = []

theorem State.HbmServes.congr (h : s.HbmServes a g pg) (k : SameMaps s t) : t.HbmServes a g pg :=
  ⟨k.segmentAt _ _ ▸ h.segment, k.pageAt _ _ ▸ h.page, h.still, h.hbm, by rw [k.memCut, k.sourceIsland, h.way],
    by rw [k.fld]; exact h.running, k.leasesOf _ ▸ h.free⟩

/-- A write of such an access to a segment that is not FROZEN goes into the frame (R222, R232). -/
theorem State.memAccess_hbmWrite {bs : List Byte} {r : Status} (h : s.HbmServes a g pg) (hthawed : g.frozen = false)
    (hwr : a.wr = some bs) (hwrite : (s.trackWrite a.fn a.addr).writeFrame a.src a.fn pg.frame (a.addr % 65536) bs
      (some (a.addr / 65536 * 65536)) = (t, r)) :
    s.memAccess a 0 = (t, some { status := r }) := by
  obtain ⟨f, slot, moving⟩ := pg
  obtain ⟨hseg, hpage, hstill, hhbm, hway, hrunning, hfree⟩ := h
  obtain rfl : moving = false := hstill
  cases f with
  | board p fr => cases hhbm
  | spread st row | channel st pc rows =>
    simp only [State.memAccess, hseg, hpage, hwr, hthawed, hway, hrunning, hfree, State.addUpset_zero, hwrite]
    rfl

/-- A read of such an access reads the frame (R221, R232). -/
theorem State.memAccess_hbmRead {ans : Answer} (h : s.HbmServes a g pg) (hwr : a.wr = none)
    (hread : s.readFrame a.src a.fn pg.frame (a.addr % 65536) a.len (some (a.addr / 65536 * 65536)) = (t, ans)) :
    s.memAccess a 0 = (t, some ans) := by
  obtain ⟨f, slot, moving⟩ := pg
  obtain ⟨hseg, hpage, hstill, hhbm, hway, hrunning, hfree⟩ := h
  obtain rfl : moving = false := hstill
  cases f with
  | board p fr => cases hhbm
  | spread st row | channel st pc rows =>
    simp only [State.memAccess, hseg, hpage, hwr, hway, hrunning, hfree, State.addUpset_zero, hread]
    rfl

/-- An access that is answered OK from a page without leases, and that nothing waits for, is noted as served; apart from
that only lanes of straits change. -/
theorem State.takeAccess_served {ans : Answer} (hserve : s.memAccess a 0 = (t, some ans))
    (hpage : s.pageAt a.fn a.addr = some pg) (hfree : t.leasesOf pg.frame.stack = []) (hok : ans.status = .ok)
    (hreply : a.reply = none) (hnotify : a.notify = none) :
    ∃ l, s.takeAccess a 0 = ({ t with lanes := l } : State).noteServed a ans := by
  obtain ⟨l, hl⟩ := t.memTraffic_lanes (s.sourceIsland a) (frameIsland pg.frame) a.wr.isSome a.len
  refine ⟨l, ?_⟩
  simp only [State.takeAccess, State.memServe, hserve, hpage, hok, true_or, if_true, State.noteYields_free hfree, hl,
    State.accessEnds, State.answerLink, hreply, hnotify]

/-- Bytes written into a frame are the frame's bytes there. -/
theorem Wrote.frameBytes {f : Frame} {off : Nat} {bs : List Byte} (h : Wrote f off bs (fun _ => true) s t) :
    t.frameBytes f off bs.length = bs := by
  refine List.ext_getElem (by simp [State.frameBytes]) fun k _ hk => ?_
  simpa [State.frameBytes] using h.inside k hk

/-- The outcome of an access that writes bytes into its page in HBM: it is noted as served OK, the bytes stand in the
page's frame, every other byte is as before, no unit has a new error, and later accesses find the same pages. -/
structure StoredInFrame (a : Access) (f : Frame) (bs : List Byte) (s t : State) : Prop where
  served : t.served = s.served ++ [{ access := a, answer := { status := .ok } }]
  bytes : t.frameBytes f (a.addr % 65536) bs.length = bs
  outside : ∀ x, (∀ k, k < bs.length → x ≠ frameByte f (a.addr % 65536 + k)) → memByte t.mem x = memByte s.mem x
  clean : ∀ key, storeGet [] s.bad key = [] → storeGet [] t.bad key = []
  maps : SameMaps s t

/-- A write within a page in HBM, where no unit that it touches has an error, stores its bytes (R222). -/
theorem State.takeAccess_hbmWrite {bs : List Byte} (h : s.HbmServes a g pg) (hthawed : g.frozen = false) (hwr : a.wr = some bs)
    (hreply : a.reply = none) (hnotify : a.notify = none) (hf : frameApart pg.frame) (hin : a.addr % 65536 + bs.length ≤ 65536)
    (hgood : ∀ u ∈ unitOffsets pg.frame (a.addr % 65536) bs.length, storeGet [] s.bad (errKey (frameByte pg.frame u)) = []) :
    StoredInFrame a pg.frame bs s (s.takeAccess a 0) := by
  obtain ⟨t, hwrite, hwrote⟩ := State.writeFrame_good (s.trackWrite a.fn a.addr) a.src a.fn pg.frame (a.addr % 65536) bs
    (some (a.addr / 65536 * 65536)) hf hin hgood
  have hmaps : SameMaps s t := by
    rw [hwrote.rest]
    exact ⟨rfl, rfl, rfl, rfl, rfl⟩
  have hserved : t.served = s.served := by
    rw [hwrote.rest]
    rfl
  obtain ⟨l, hl⟩ := State.takeAccess_served (State.memAccess_hbmWrite h hthawed hwr hwrite) h.page
    (hmaps.leasesOf _ ▸ h.free) rfl hreply hnotify
  rw [hl]
  exact ⟨congrArg (· ++ _) hserved, hwrote.frameBytes, hwrote.outside, hwrote.clean, hmaps.trans ⟨rfl, rfl, rfl, rfl, rfl⟩⟩

/-- A read within a page in HBM, where no unit that it touches has an error, is answered OK with the bytes of the frame,
and changes no byte (R221). -/
theorem State.takeAccess_hbmRead (h : s.HbmServes a g pg) (hwr : a.wr = none) (hreply : a.reply = none) (hnotify : a.notify = none)
    (hgood : ∀ u ∈ unitOffsets pg.frame (a.addr % 65536) a.len, storeGet [] s.bad (errKey (frameByte pg.frame u)) = []) :
    (s.takeAccess a 0).served = s.served ++
        [{ access := a, answer := { status := .ok, data := s.frameBytes pg.frame (a.addr % 65536) a.len } }] ∧
      (s.takeAccess a 0).mem = s.mem := by
  obtain ⟨l, hl⟩ := State.takeAccess_served
    (State.memAccess_hbmRead h hwr (State.readFrame_good s a.src a.fn pg.frame (a.addr % 65536) a.len _ hgood)) h.page h.free rfl
    hreply hnotify
  rw [hl]
  exact ⟨rfl, rfl⟩

end HbmAccess

/-- Settles O57: the write puts its bytes into the page's frame and leaves the pages, the leases and the registers as they
are, so that the read finds the same frame, with no error in its units. -/
theorem storedBytesReadBack : Obligations.StoredBytesReadBack := by
  intro s fn addr slot die die2 src src2 bs f g hlive hbytes hin hbelow hsegment hthawed hpage hhbm hapart hfree hrunning
    hway hgood hallowed
  have hlen : 0 < bs.length := List.length_pos_iff.2 hbytes
  have hserves : ∀ x ∈ [(src, die), (src2, die2)], ∀ wr, s.unserved.HbmServes
      { fn := fn, src := x.1, die := some x.2, addr := addr, len := bs.length, wr := wr } g { frame := f, slot := slot } :=
    fun x hx _ => ⟨hsegment, hpage, rfl, hhbm, hway x hx, hrunning, hfree⟩
  have hstored := State.takeAccess_hbmWrite (hserves (src, die) (by simp) (some bs)) hthawed rfl rfl rfl hapart hin hgood
  have hwrite := (exec_memoryAccess (upset := 0)).trans (execMemoryAccess_write (upset := 0) (die := die) (len := bs.length)
    hlive hlen hin hbelow hallowed)
  generalize s.unserved.takeAccess _ 0 = t at hstored hwrite
  have hmaps : SameMaps s.unserved t.unserved := hstored.maps.trans ⟨rfl, rfl, rfl, rfl, rfl⟩
  obtain ⟨hserved, hmem⟩ := State.takeAccess_hbmRead ((hserves (src2, die2) (by simp) none).congr hmaps) rfl rfl rfl
    fun u hu => hstored.clean _ (hgood u hu)
  have hbytes : t.unserved.frameBytes f (addr % 65536) bs.length = bs := hstored.bytes
  refine ⟨t, _, hwrite, hstored.served, hstored.outside, ?_, ?_, hmem⟩
  · rw [exec_memoryAccess]
    exact execMemoryAccess_read ((hmaps.fnLive fn).trans hlive) hlen hin hbelow
  · rw [hserved, hbytes]
    rfl

end Sys2Proof.Machine

/-! ## Stores stay in the bytes of their pages -/

namespace Sys2Proof.Machine
open Sys2Proof

/-- Of a state, its device memory is held. -/
def memHeld (p : Portion) : Bool := p == .mem

/-- From a sound state a step leads to a sound state, and changes bytes at places `P` only. -/
structure SoundStores (P : Nat → Prop) (s t : State) : Prop where
  sound : Sound t
  mem : ∀ x, ¬ P x → memByte t.mem x = memByte s.mem x

section SoundStores
variable {P : Nat → Prop} {s t u : State}

theorem SoundStores.trans (h : SoundStores P s t) (k : SoundStores P t u) : SoundStores P s u :=
  ⟨k.sound, fun x hx => (k.mem x hx).trans (h.mem x hx)⟩

/-- A step that keeps the form and stores at `P` only. -/
theorem SoundStores.of_stores (h : StoresIn P s t) (hs : Sound s)
    (hform : Kept s.pkg s.pending (fun _ => false) s s → Kept s.pkg s.pending (fun _ => false) s t) : SoundStores P s t :=
  ⟨(hform hs.kept).sound, h.mem⟩

/-- A step that keeps memory. -/
theorem SoundStores.of_kept (hs : Sound s)
    (h : Kept s.pkg s.pending memHeld s s → Kept s.pkg s.pending memHeld s t) : SoundStores P s t := by
  have hself : Kept s.pkg s.pending memHeld s s := ⟨rfl, rfl, hs, fun p hp => by
    obtain rfl : p = .mem := beq_iff_eq.1 hp
    exact fun _ => rfl⟩
  exact ⟨(h hself).sound, fun x _ => (h hself).same .mem rfl x⟩

theorem SoundStores.mono {Q : Nat → Prop} (h : SoundStores P s t) (hPQ : ∀ x, P x → Q x) : SoundStores Q s t :=
  ⟨h.sound, fun x hx => h.mem x fun hp => hx (hPQ x hp)⟩

theorem SoundStores.refl (hs : Sound s) : SoundStores P s s := .of_kept hs id

end SoundStores

/-! ### A completion record -/

@[simp] theorem leBytes_length (n v : Nat) : (leBytes n v).length = n := by
  induction n generalizing v with
  | zero => rfl
  | succ n ih => rw [leBytes, List.length_cons, ih]

/-- A completion record has 32 bytes (R382). -/
theorem completionBytes_length (q phase : Nat) (c : Completion) : (completionBytes q phase c).length = 32 := by
  simp [completionBytes]

/-- While pages keep their frames, a range keeps its bytes. -/
theorem State.holdsAt_of_pages {s t : State} (h : ∀ fn a, (t.pageAt fn a).map Page.frame = (s.pageAt fn a).map Page.frame)
    {fn addr len x : Nat} (hx : t.holdsAt fn addr len x) : s.holdsAt fn addr len x := by
  obtain ⟨p, hp, pg, hpage, k, hk, rfl⟩ := hx
  have e := h fn p.1
  rw [hpage, Option.map_some, eq_comm, Option.map_eq_some_iff] at e
  obtain ⟨pg0, hpage0, hframe⟩ := e
  exact ⟨p, hp, pg0, hpage0, k, hk, by rw [hframe]⟩

section CompletionWrite
variable {P : Nat → Prop} {s t u : State} {fn q : Nat}

/-- What follows the write of a record stores nothing (R379, R380). -/
theorem SoundStores.recordEnds {c : Completion} {st : Status} (hu : SoundStores P s u)
    (h : (if st ≠ .ok then ok ((u.queueFails fn q st).queueDrained fn q) else ok (u.recordWritten fn q c)) = .next t) :
    SoundStores P s t := by
  refine hu.trans (.of_kept hu.sound fun hk => ?_)
  split at h
  · cases h
    exact State.queueDrained_kept (by decide) (State.queueFails_kept (by decide) hk)
  · cases h
    exact State.recordWritten_kept (by decide) hk

/-- A record written to device memory reaches the bytes of its range in the pages there. -/
theorem State.recordStore_stores {v : Queue} {addr n : Nat} {bs : List Byte} (hlen : bs.length = n) (hs : Sound s)
    (hb : s.bad = []) : SoundStores (s.holdsAt fn addr n) s
      ((((s.prepareWrite fn addr n).1.setQueue fn q v).devWrite .islet fn addr bs).1) := by
  subst hlen
  have hready : StoresIn (s.holdsAt fn addr bs.length) s ((s.prepareWrite fn addr bs.length).1.setQueue fn q v) :=
    (s.prepareWrite_stores fn addr bs.length).trans (.of_eq rfl rfl rfl)
  refine .of_stores (hready.trans ((State.devWrite_stores _ .islet fn addr bs none (hready.bad hb)).mono
    fun x hx => State.holdsAt_of_pages hready.pages hx)) hs fun hk => ?_
  exact State.devWrite_kept (fun _ _ => rfl) (State.setQueue_kept (fun _ _ => rfl) (State.prepareWrite_kept (fun _ _ => rfl) hk))

/-- COMPLETION_WRITE changes no byte but those of the ring entry that CPL_TAIL names, and none for a ring in host memory
(R376, R379). -/
theorem execCompletionWrite_stores {st : Status} (hs : Sound s) (hb : s.bad = []) (h : execCompletionWrite fn q st s = .next t) :
    SoundStores (fun x => s.fld .SVC_Q_CFG_CPL_HOST fn q ≠ 1 ∧ s.holdsAt fn (s.completionAddr fn q).1 32 x) s t := by
  unfold execCompletionWrite at h
  dsimp only at h
  split at h
  · cases h
    exact .refl hs
  next c rest hcpls =>
  split at h
  · cases h
    exact .refl hs
  split at h
  · cases h
  by_cases hhost : s.fld .SVC_Q_CFG_CPL_HOST fn q = 1
  · simp only [hhost, beq_self_eq_true, if_true, Bool.true_eq_false, if_false] at h
    split at h
    · split at h
      · exact .recordEnds (.of_kept hs fun hk => State.hostWrite_kept (by decide) (State.setQueue_kept (by decide) hk)) h
      · exact .recordEnds (.of_kept hs (State.setQueue_kept (by decide))) h
    · exact .recordEnds (.of_kept hs (State.setQueue_kept (by decide))) h
  · have hdevice : (s.fld .SVC_Q_CFG_CPL_HOST fn q == 1) = false := beq_false_of_ne hhost
    simp only [hdevice, Bool.false_eq_true, if_false] at h
    split at h
    · cases h
      exact .of_stores (s.prepareWrite_stores _ _ _) hs (State.prepareWrite_kept (fun _ _ => rfl))
    · refine .recordEnds ?_ h
      exact (State.recordStore_stores (completionBytes_length q _ c) hs hb).mono fun x hp => ⟨hhost, hp⟩

end CompletionWrite

/-! ### A page that moves -/

/-- The bytes of a frame. -/
def Frame.holdsByte (f : Frame) (x : Nat) : Prop := ∃ k, k < 65536 ∧ x = frameByte f k

section PageMoves
variable {P : Nat → Prop} {s t u : State} {fn addr port slot : Nat} {m : PageMove} {pg : Page} {entry : Page → Page}

/-- A page leaves its frame for another: its entry changes, its port goes on, its frame is free. That stores nothing. -/
theorem SoundStores.pageLeaves (hu : SoundStores P s u) :
    SoundStores P s (((u.modPage fn addr entry).portNext port).freeFrame fn pg) :=
  hu.trans (.of_kept hu.sound fun hk => State.freeFrame_kept (by decide) (State.portNext_kept (State.modPage_kept (by decide) hk)))

theorem SoundStores.pageSettled {skip : Bool} (hu : SoundStores P s u) : SoundStores P s (u.pageSettled fn skip) :=
  hu.trans (.of_kept hu.sound (State.pageSettled_kept (by decide)))

theorem SoundStores.slotWritten (hu : SoundStores P s u) : SoundStores P s (u.slotWritten fn slot) :=
  hu.trans (.of_kept hu.sound (State.slotWritten_kept (by decide)))

/-- A page copied into a frame from a sound state. -/
theorem State.copyFrame_soundStores {src dst : Frame} (hs : Sound s) (hr : (frameRows dst).length ≤ 64) :
    SoundStores dst.holdsByte s (s.copyFrame src dst) :=
  .of_stores (s.copyFrame_stores src dst hr) hs (State.copyFrame_kept (fun _ _ => rfl))

/-- A demoted page is stored in its mainland frame only (R240). -/
theorem State.demotePage_stores (hs : Sound s) (hr : (frameRows m.target).length ≤ 64) :
    SoundStores m.target.holdsByte s (s.demotePage port slot m pg) :=
  (State.copyFrame_soundStores hs hr).slotWritten.pageLeaves.pageSettled

/-- DEMOTE_PAGE_COPIED changes bytes of the frame the page goes to only (R240). -/
theorem execDemotePageCopied_stores (hs : Sound s) (hb : s.bad = []) (hcurrent : (s.mlPort port).current = some m)
    (hr : (frameRows m.target).length ≤ 64) (h : execDemotePageCopied port 0 s = .next t) :
    SoundStores m.target.holdsByte s t := by
  have habandon : ∀ {u : State} {stop : Option Status}, SoundStores m.target.holdsByte s u →
      SoundStores m.target.holdsByte s (u.demoteAbandon port m (((s.fnState m.fn).mig.run.map (·.slot)).getD 0) stop) :=
    fun hu => hu.trans (.of_kept hu.sound (State.demoteAbandon_kept (by decide)))
  simp only [execDemotePageCopied, hcurrent] at h
  split at h
  · cases h
    exact .refl hs
  split at h
  · cases h
    exact .refl hs
  next pg hpage =>
  split at h
  · cases h
    exact habandon (.refl hs)
  split at h
  · cases h
    exact habandon (.of_kept hs (State.portDownRecord_kept (by decide)))
  split at h
  · cases h
    exact .refl hs
  rw [State.addUpset_zero, s.readWhole_clean _ _ _ _ hb] at h
  cases h
  exact State.demotePage_stores hs hr

/-! Nothing that settles a moved page adds to the accesses that wait. -/

@[simp] theorem State.modPage_held (s : State) (fn addr : Nat) (f : Page → Page) : (s.modPage fn addr f).held = s.held := rfl

@[simp] theorem State.portNext_held (s : State) (p : Nat) : (s.portNext p).held = s.held := rfl

@[simp] theorem State.pageSettled_held (s : State) (fn : Nat) (skip : Bool) : (s.pageSettled fn skip).held = s.held := rfl

@[simp] theorem State.noteYields_held (s : State) (f : Frame) (off len : Nat) : (s.noteYields f off len).held = s.held := by
  unfold State.noteYields State.yieldsAt
  dsimp only
  split
  · rfl
  · split <;> rfl

@[simp] theorem State.straitOffer_held (s : State) (a b c n : Nat) : (s.straitOffer a b c n).held = s.held := by
  obtain ⟨l, h⟩ := s.straitOffer_lanes a b c n
  rw [h]

@[simp] theorem State.copyFrame_held (s : State) (src dst : Frame) : (s.copyFrame src dst).held = s.held := by
  simp only [State.copyFrame, State.zeroFrame, State.noteYields_held, State.straitOffer_held]

@[simp] theorem State.spareStat_held (s : State) (stack : Nat) : (s.spareStat stack).held = s.held :=
  State.setFld_held s _ _ _ _

@[simp] theorem State.rowsStat_held (s : State) (stack : Nat) : (s.rowsStat stack).held = s.held := by
  rw [State.rowsStat, State.spareStat_held, State.withdrawnStat, State.setFld_held]

@[simp] theorem State.withdraw_held (s : State) (rows : List Nat) : (s.withdraw rows).held = s.held := by
  unfold State.withdraw
  refine List.foldlRecOn (motive := fun u : State => u.held = s.held) _ _ rfl fun u hu k _ => ?_
  rw [apply_ite State.held, State.rowsStat_held, ite_self, hu]

@[simp] theorem State.frameLeft_held (s : State) (f : Frame) : (s.frameLeft f).held = s.held := by
  unfold State.frameLeft
  dsimp only
  by_cases hboard : f.isBoard = true
  · rw [if_pos hboard, apply_ite State.held, State.withdraw_held, ite_self]
  · rw [if_neg hboard, State.spareStat_held, apply_ite State.held, State.withdraw_held, ite_self]

@[simp] theorem State.slotSub_held (s : State) (fn slot : Nat) : (s.slotSub fn slot).held = s.held := by
  simp only [State.slotSub, State.slotRetire, apply_ite State.held, State.setFld_held, ite_self]

@[simp] theorem State.freeFrame_held (s : State) (fn : Nat) (pg : Page) : (s.freeFrame fn pg).held = s.held := by
  simp only [State.freeFrame, State.frameLeft_held, apply_ite State.held, State.slotSub_held, ite_self]

/-- Where no access waits, none is served again. -/
theorem State.retryHeld_none (hheld : s.held = []) : s.retryHeld = s := by
  have hself : { s with held := [] } = s := by rw [← hheld]
  simp only [State.retryHeld, hheld, List.filter_nil, List.foldl_nil, hself]

/-- A promoted page is stored in its HBM frame only, where no access waits for it (R241). -/
theorem State.promotePage_stores (hs : Sound s) (hheld : s.held = []) (hr : (frameRows m.target).length ≤ 64) :
    SoundStores m.target.holdsByte s (s.promotePage port m pg) := by
  have hcopy : SoundStores m.target.holdsByte s (s.copyFrame pg.frame m.target) := State.copyFrame_soundStores hs hr
  have hleft : SoundStores m.target.holdsByte s (((s.copyFrame pg.frame m.target).modPage m.fn m.addr
      fun _ => { frame := m.target }).portNext port |>.freeFrame m.fn pg) := hcopy.pageLeaves
  have hnone : (((s.copyFrame pg.frame m.target).modPage m.fn m.addr
      fun _ => { frame := m.target }).portNext port |>.freeFrame m.fn pg).held = [] := by
    simp only [State.freeFrame_held, State.portNext_held, State.modPage_held, State.copyFrame_held, hheld]
  unfold State.promotePage
  dsimp only
  generalize State.freeFrame _ m.fn pg = v at hleft hnone
  split
  · rw [State.retryHeld_none ((State.pageSettled_held _ _ _).trans hnone)]
    exact hleft.pageSettled
  · rw [State.retryHeld_none hnone]
    exact hleft

/-- PROMOTE_PAGE_DONE from a port that is UP changes bytes of the frame the page goes to only (R241). -/
theorem execPromotePageDone_stores (hs : Sound s) (hb : s.bad = []) (hheld : s.held = [])
    (hcurrent : (s.mlPort port).current = some m) (hup : s.mlUp port = true) (hr : (frameRows m.target).length ≤ 64)
    (h : execPromotePageDone port 0 s = .next t) : SoundStores m.target.holdsByte s t := by
  simp only [execPromotePageDone, hcurrent] at h
  split at h
  · cases h
    exact .refl hs
  split at h
  · cases h
    exact .refl hs
  next pg hpage =>
  have hup' : s.unserved.mlUp port = true := hup
  rw [if_neg (by rw [hup']; decide), State.addUpset_zero, s.unserved.readWhole_clean _ _ _ _ hb] at h
  cases h
  have hunserved : SoundStores m.target.holdsByte s s.unserved := .of_kept hs State.unserved_kept
  exact hunserved.trans (State.promotePage_stores hunserved.sound hheld hr)

end PageMoves

/-! ### A page of a COPY -/

section CopyPage
variable {s t : State} {fn : Nat} {run : MigRun} {a b : Page}

/-- A page of a COPY is stored in the frame of its target page only (R242). -/
theorem State.copyPage.move_stores {srcAddr : Nat} (hs : Sound s) (hb : s.bad = []) (hr : (frameRows b.frame).length ≤ 64) :
    SoundStores b.frame.holdsByte s (State.copyPage.move fn run 0 s a b srcAddr) := by
  have hcopy : ∀ {u : State}, SoundStores b.frame.holdsByte s u →
      SoundStores b.frame.holdsByte s (u.copyFrame a.frame b.frame) :=
    fun hu => hu.trans (State.copyFrame_soundStores hu.sound hr)
  have hdone : ∀ {u : State}, SoundStores b.frame.holdsByte s u →
      SoundStores b.frame.holdsByte s (State.copyPage.done fn run u b) :=
    fun hu => hu.trans (.of_kept hu.sound (State.copyPage.done_kept (by decide)))
  simp only [State.copyPage.move, State.addUpset_zero, s.readWhole_clean _ _ _ _ hb, Bool.not_true, Bool.false_eq_true, if_false]
  split
  · split
    · exact hdone (hcopy (.refl hs)).slotWritten
    · exact .of_kept hs fun hk => State.migStop_kept (by decide) (State.portDownRecord_kept (by decide) hk)
  · exact hdone (hcopy (.of_kept hs State.spoilFrame_kept))

theorem State.copyPage_stores (hs : Sound s) (hb : s.bad = [])
    (hpage : s.pageAt fn (run.req.w3 + 65536 * run.next) = some b) (hr : (frameRows b.frame).length ≤ 64) :
    SoundStores b.frame.holdsByte s (s.copyPage fn run 0) := by
  simp only [State.copyPage, hpage]
  split
  · next a b' ha hb' =>
    obtain rfl := Option.some.inj hb'
    split
    · exact .of_kept hs (State.migStop_kept (by decide))
    split
    · split
      · exact .of_kept hs fun hk => State.migStop_kept (by decide) (State.portDownRecord_kept (by decide) hk)
      · exact State.copyPage.move_stores hs hb hr
    · exact State.copyPage.move_stores hs hb hr
  · exact .refl hs

/-- MIG_PAGE_START of a COPY changes bytes of the frame of its target page only (R242). -/
theorem execMigPageStart_stores {ans : Answer} (hs : Sound s) (hb : s.bad = []) (hrun : (s.fnState fn).mig.run = some run)
    (hop : migOp run.req = 4) (hpage : s.pageAt fn (run.req.w3 + 65536 * run.next) = some b)
    (hr : (frameRows b.frame).length ≤ 64) (h : execMigPageStart fn 0 ans s = .next t) :
    SoundStores b.frame.holdsByte s t := by
  simp only [execMigPageStart, hrun] at h
  split at h
  · cases h
    exact .refl hs
  split at h
  · cases h
    exact .refl hs
  split at h
  · cases h
  rw [hop] at h
  cases h
  have hcopy := State.copyPage_stores hs hb hpage hr
  exact hcopy.trans (.of_kept hcopy.sound fun hk => foldl_kept hk fun _ _ => State.modPort_kept)

end CopyPage

/-! ### A WRITE flit -/

section WriteFlit
variable {s t : State} {f : Flit}

/-- A WRITE of device memory below the windows reaches the bytes of the pages that it goes through (R309). -/
theorem State.writeMemory_stores (hb : s.bad = []) (hbelow : isReserved f.addr = false) :
    StoresIn (fun x => ∃ p ∈ pagePieces 2 f.addr (f.payload.take (32 * f.len)).length, ∃ pg, s.pageAt f.dfn p.1 = some pg ∧
      ∃ k, k < p.2 ∧ x = frameByte pg.frame (p.1 % 65536 + k)) s (s.writeMemory f) := by
  unfold State.writeMemory
  dsimp only
  rw [if_neg (by rw [hbelow]; decide)]
  have hpair : ∀ (step : State → Nat × Nat → State) (ps : List (Nat × Nat)) (u : State),
      ps.foldl step u = (ps.foldl (fun acc p => (step acc.1 p, ())) (u, ())).1 :=
    fun step ps u => List.foldl_hom (g₁ := fun acc p => (step acc.1 p, ())) (init := (u, ())) Prod.fst fun _ _ => rfl
  rw [hpair]
  refine pieces_stores f.dfn _ s (fun acc p hacc => ?_) _ _ (fun _ hp => hp) (s.unserved, ()) (.of_eq rfl rfl rfl) hb
  exact State.takeAccess_stores acc.1
    { fn := f.dfn, src := .host, addr := p.1, len := p.2,
      wr := some (((f.payload.take (32 * f.len)).drop (p.1 - f.addr)).take p.2) } _ rfl rfl (List.length_take_le _ _) hacc

/-- A WRITE that the flit's route gives to this device, and that nothing forbids, is stored, and its slot is free again
(R285, R309). -/
theorem execWrite_here {port : Nat} {rx : RxFlit} (htype : rx.flit.ftype = 1) (hsub : rx.flit.sub = 0)
    (hpresent : s.portPresent port = true) (hup : s.portState port = portIsUp) (hlink : s.linkIn port rx = (t, true))
    (hhere : t.routeFlit rx.flit = .here) (hmay : t.mayDeliver port rx.flit = true)
    (hallowed : t.writeForbidden rx.flit.dfn false rx.flit.addr (32 * rx.flit.len) = false) :
    execWrite port rx s = .next ((t.writeMemory rx.flit).freeSlot port rx.flit.vc) := by
  have hdeliver : t.deliverWrite rx.flit = .next (t.writeMemory rx.flit) := by
    rw [State.deliverWrite, if_pos hsub, if_neg (by rw [hallowed]; decide), ok]
  simp only [execWrite, hlink, hdeliver]
  rw [if_pos ⟨htype, hpresent, hup, trivial, hhere, hmay⟩, ok]

end WriteFlit

/-- Settles O59: each command stores through `devWrite`, `copyFrame` or `takeAccess`, which reach bytes of the pages there
only, and all else that it does keeps memory. -/
theorem storesStayInTheirPages : Obligations.StoresStayInTheirPages := by
  refine ⟨?_, ?_, ?_, ?_, ?_⟩
  · intro s t fn q st hs hb h x hx
    refine (execCompletionWrite_stores hs hb h).mem x ?_
    rintro ⟨hdevice, p, hp, pg, hpage, k, hk, hbyte⟩
    exact (hx p hp pg hpage k hk).elim hdevice (· hbyte)
  · intro s t port m hs hb hheld hcurrent hup hr h x hx
    exact (execPromotePageDone_stores hs hb hheld hcurrent hup hr h).mem x fun ⟨k, hk, hbyte⟩ => hx k hk hbyte
  · intro s t port m hs hb hcurrent hr h x hx
    exact (execDemotePageCopied_stores hs hb hcurrent hr h).mem x fun ⟨k, hk, hbyte⟩ => hx k hk hbyte
  · intro s t fn ans run pg hs hb hrun hop hpage hr h x hx
    exact (execMigPageStart_stores hs hb hrun hop hpage hr h).mem x fun ⟨k, hk, hbyte⟩ => hx k hk hbyte
  · intro s port rx htype hsub hbelow hpresent hup hlink hhere hmay hb hallowed
    refine ⟨_, execWrite_here htype hsub hpresent hup (Prod.ext rfl hlink) hhere hmay hallowed, fun x hx => ?_⟩
    exact (State.writeMemory_stores hb hbelow).mem x fun ⟨p, hp, pg, hpage, k, hk, hbyte⟩ => hx p hp pg hpage k hk hbyte

end Sys2Proof.Machine

/-! ## Migration requests and page lookups -/

namespace Sys2Proof.Machine
open Sys2Proof

section MigRequests
variable {s t : State} {fn : Nat} {run : MigRun}

/-- GO queues the held request of an enabled function (R238). -/
theorem execMigGo_live {w : Word} (hlive : s.fnLive fn = true) : execMigGo fn w s = .next (s.writeMigCtl fn w) := if_pos hlive

/-- CANCEL aborts the requests of an enabled function (R244). -/
theorem execMigCancel_live {w : Word} (hlive : s.fnLive fn = true) : execMigCancel fn w s = .next (s.writeMigCtl fn w) :=
  if_pos hlive

/-- A MAP that passes its check maps its segment (R237, R238). -/
theorem execMigMap_checked (hstart : s.migStart fn 0 = some (t, run)) (hpasses : run.status = none) :
    execMigMap fn s = .next (t.mapSegment fn run) := by
  simp only [execMigMap, hstart, hpasses, if_true, ok]

/-- An UNMAP that passes its check removes its segment, of whose pages none is moving or leased (R234, R237). -/
theorem execMigUnmap_checked {g : Segment} (hstart : s.migStart fn 1 = some (t, run)) (hpasses : run.status = none)
    (hsegment : (s.fnState fn).segs.find? (fun x => x.base == run.req.w3) = some g)
    (hfree : g.pages.any (fun p => p.moving || s.frameLeased p.frame) = false) :
    execMigUnmap fn s = .next ((t.removeSegment fn run.req.w3).modRun fn
      (fun m => { m with status := some .ok, done := migPages run.req })) := by
  simp only [execMigUnmap, hstart, hpasses, hsegment, hfree]
  rfl

/-- A COPY or INGEST that passes its check creates its segment (R237, R238). -/
theorem State.migCreate_checked {op : Nat} (hstart : s.migStart fn op = some (t, run)) (hpasses : run.status = none) :
    s.migCreate fn op = (t.createSegment fn run.req run.slot).modRun fn (fun m => { m with made := true }) := by
  simp only [State.migCreate, hstart, hpasses, if_true]

/-- An INGEST that has created its segment asks the host for its first page (R237, R312). -/
theorem execMigIngest_made {u : State} {r : MigRun} (hidle : (s.fnState fn).mig.run = none) (hcreate : s.migCreate fn 5 = u)
    (hrun : (u.fnState fn).mig.run = some r) (hmade : r.made = true) :
    execMigIngest fn s = .next (u.ingestAsk fn r.req 0) := by
  simp only [execMigIngest, hcreate, hidle, hrun, hmade, if_true, ok]

end MigRequests

section PageStart
variable {s : State} {fn upset : Nat} {ans : Answer} {run : MigRun}

/-- The running request of a function can start its next page: it is not at its end, and its ports are free and the
function's turn (R238, R243). -/
structure State.PageTurn (s : State) (fn : Nat) (run : MigRun) : Prop where
  running : (s.fnState fn).mig.run = some run
  unsettled : run.status = none
  uncancelled : (s.fnState fn).mig.cancel = false
  more : run.next < migPages run.req
  ports : (s.migPorts fn).all (fun p => (s.mlPort p).current.isNone && !(s.mlPort p).lost && s.migTurn fn p) = true

/-- A page has started on the ports of the running request: the function is the one served last there (R238). -/
def State.portsServed (s : State) (fn : Nat) (t : State) : State :=
  (s.migPorts fn).foldl (fun t p => t.modPort p (fun m => { m with lastFn := fn })) t

/-- The start of the next page of a running request, by its OP (R237, R238). -/
def State.pageStarts (s : State) (fn upset : Nat) (ans : Answer) (run : MigRun) : State :=
  match migOp run.req with
  | 2 => s.promoteStart fn (run.req.w3 + 65536 * run.next) run
  | 3 => s.demoteStart fn (run.req.w3 + 65536 * run.next)
  | 4 => s.portsServed fn (s.copyPage fn run upset)
  | 5 => s.portsServed fn (s.ingestPage fn run ans)
  | _ => s

variable (hturn : s.PageTurn fn run)
include hturn

/-- On its turn, and where neither a page that is held, a host read nor a rule of the optimiser stands against it, the
next page starts by the request's OP (R238, R243). -/
theorem execMigPageStart_turn
    (hfree : migOp run.req ≠ 5 →
      s.pageHeld fn (if migOp run.req = 4 then run.req.w2 + 65536 * run.next else run.req.w3 + 65536 * run.next) = false)
    (hready : migOp run.req = 5 → s.hostReady fn (run.req.w2 + 65536 * run.next) 65536 ans = true)
    (hallowed : 4 ≤ migOp run.req → s.optForbids fn (migOp run.req == 4) (run.req.w3 + 65536 * run.next) 65536 = false) :
    execMigPageStart fn upset ans s = .next (s.pageStarts fn upset ans run) := by
  obtain ⟨hrunning, hunsettled, huncancelled, hmore, hports⟩ := hturn
  have hgoes : ¬ (run.status.isSome = true ∨ (s.fnState fn).mig.cancel = true ∨ migPages run.req ≤ run.next) := by
    simp [hunsettled, huncancelled, hmore]
  simp only [execMigPageStart, hrunning, hports]
  rw [if_neg hgoes, if_neg, if_neg]
  · unfold State.pageStarts
    generalize migOp run.req = op
    rcases op with _ | _ | _ | _ | _ | _ | op <;> rfl
  · rintro ⟨hop, hforbidden⟩
    rw [hallowed hop] at hforbidden
    cases hforbidden
  · rintro (hbusy | ⟨hop, hheld⟩ | ⟨hop, hwaits⟩)
    · cases hbusy
    · rw [hfree hop] at hheld
      cases hheld
    · rw [hready hop] at hwaits
      cases hwaits

end PageStart

section PageDone
variable {s t : State} {port upset : Nat} {m : PageMove} {pg : Page}
variable (hcurrent : (s.mlPort port).current = some m) (htrained : (s.mlPort port).lost = false)
  (hpage : s.pageAt m.fn m.addr = some pg)
include hcurrent htrained hpage

/-- A demoted page whose data has been read whole, with no write tracked and no lease, is MAINLAND behind a port that is
UP (R240). -/
theorem execDemotePageCopied_read (hkind : m.kind = .demote) (huntracked : m.tracked = false) (hup : s.mlUp port = true)
    (hfree : s.frameLeased pg.frame = false)
    (hread : (s.addUpset pg.frame (frameByte pg.frame 0) upset).readWhole .migration m.fn pg.frame (some m.addr) = (t, true)) :
    execDemotePageCopied port upset s =
      .next (t.demotePage port ((((s.fnState m.fn).mig.run).map (·.slot)).getD 0) m pg) := by
  simp only [execDemotePageCopied, hcurrent, hpage, huntracked, hup, hfree, hread]
  rw [if_neg (by simp [hkind, htrained])]
  rfl

/-- A promoted page whose data has been read whole is HBM (R241). -/
theorem execPromotePageDone_read (hkind : m.kind = .promote) (hup : s.unserved.mlUp port = true)
    (hread : (s.unserved.addUpset pg.frame (frameByte pg.frame 0) upset).readWhole .migration m.fn pg.frame (some m.addr) =
      (t, true)) :
    execPromotePageDone port upset s = .next (t.promotePage port m pg) := by
  simp only [execPromotePageDone, hcurrent, hpage, hup, hread]
  rw [if_neg (by simp [hkind, htrained])]
  rfl

end PageDone

section RequestEnds
variable {s : State} {fn : Nat} {r : MigRun}

/-- The status with which a running request may end: its own once it has one, or OK once its pages are done (R238, R243). -/
def MigRun.endsWith (r : MigRun) (st : Status) : Prop := r.status = some st ∨ r.status = none ∧ migPages r.req ≤ r.next ∧ st = .ok

variable {st : Status} (hrun : (s.fnState fn).mig.run = some r) (hstill : s.migMoving fn = false) (hends : r.endsWith st)
  (hfree : s.endWaits fn r st = false) (hcommitted : s.manifestWaits r = false)
include hrun hstill hends hfree hcommitted

/-- A request with no page in progress and a status to end with either asks for its manifest or ends (R243, R245). -/
theorem execMigRequestComplete_ends : execMigRequestComplete fn s =
    if st = .ok ∧ migManifest r.req = true ∧ r.manifest = none then .next (s.manifestAsk fn r) else .next (s.migFinish fn r st) := by
  rcases hends with hstatus | ⟨hstatus, hdone, rfl⟩
  · simp only [execMigRequestComplete, hrun, hstill, hstatus, hfree, hcommitted]
    rfl
  · simp only [execMigRequestComplete, hrun, hstill, hstatus, hdone, if_true, hfree, hcommitted]
    rfl

/-- A request whose manifest, where it succeeds and asks for one, is written ends (R243, R245). -/
theorem execMigRequestComplete_finishes (hmanifest : st = .ok → migManifest r.req = true → r.manifest ≠ none) :
    execMigRequestComplete fn s = .next (s.migFinish fn r st) := by
  rw [execMigRequestComplete_ends hrun hstill hends hfree hcommitted, if_neg]
  rintro ⟨hok, hasks, hnone⟩
  exact hmanifest hok hasks hnone

end RequestEnds

/-- A segment keeps a request waiting only where the request fails (R237). -/
theorem State.endWaits_ok (s : State) (fn : Nat) (r : MigRun) : s.endWaits fn r .ok = false := by
  simp [State.endWaits]

/-- A lookup starts for an enabled function (R232). -/
theorem execXlateLookup_live {s : State} {fn : Nat} {w : Word} (hlive : s.fnLive fn = true) :
    execXlateLookup fn w s = .next (((s.writeReg .MEM_XLATE_ADDR fn 0 w).setReg .MEM_XLATE_RES fn 0 0).modFn fn
      (fun f => { f with xlating := true })) :=
  if_pos hlive

/-- A lookup in progress is answered (R203). -/
theorem execXlateLookupDone_running {s : State} {fn : Nat} (hrunning : (s.fnState fn).xlating = true) :
    execXlateLookupDone fn s = .next (s.lookupAnswer fn) :=
  if_neg (by rw [hrunning]; decide)

/-- Settles O9: each command is run on the request, page or lookup that its clause names; none of its guards holds it
back. -/
theorem migrationCommandsComplete : Obligations.MigrationCommandsComplete := by
  refine ⟨?_, ?_, ?_, ?_, ?_, ?_, ?_, ?_, ?_, ?_, ?_, ?_, ?_, ?_, ?_, ?_, ?_, ?_, ?_⟩
  · intro fn w s hlive
    exact execMigGo_live hlive
  · intro fn w s hlive
    exact execMigCancel_live hlive
  · intro fn t run s hstart hpasses
    exact execMigMap_checked hstart hpasses
  · intro fn t run g s hstart hpasses hsegment hfree
    exact execMigUnmap_checked hstart hpasses hsegment hfree
  · intro fn t run s hstart
    rw [exec_migPromote, execMigPromote, hstart, Option.map_some, Option.getD_some, ok]
  · intro fn t run s hstart
    rw [exec_migDemote, execMigDemote, hstart, Option.map_some, Option.getD_some, ok]
  · intro fn t run s hstart hpasses
    rw [exec_migCopy, execMigCopy, State.migCreate_checked hstart hpasses, ok]
  · intro fn t u run r s hidle hstart hpasses hcreate hrun hmade
    exact execMigIngest_made hidle ((State.migCreate_checked hstart hpasses).trans hcreate) hrun hmade
  · intro fn upset ans run s hrun hstatus hcancel hmore hports hop hfree
    rw [exec_migPageStart, execMigPageStart_turn ⟨hrun, hstatus, hcancel, hmore, hports⟩ (by simp [hop, hfree])
      (by simp [hop]) (by simp [hop])]
    simp only [State.pageStarts, hop]
  · intro fn upset ans run s hrun hstatus hcancel hmore hports hop hfree
    rw [exec_migPageStart, execMigPageStart_turn ⟨hrun, hstatus, hcancel, hmore, hports⟩ (by simp [hop, hfree])
      (by simp [hop]) (by simp [hop])]
    simp only [State.pageStarts, hop]
  · intro fn upset ans run s hrun hstatus hcancel hmore hports hop hfree hallowed
    rw [exec_migPageStart, execMigPageStart_turn ⟨hrun, hstatus, hcancel, hmore, hports⟩ (by simp [hop, hfree])
      (by simp [hop]) (by simp [hop, hallowed])]
    simp only [State.pageStarts, State.portsServed, hop]
  · intro fn upset ans run s hrun hstatus hcancel hmore hports hop hready hallowed
    rw [exec_migPageStart, execMigPageStart_turn ⟨hrun, hstatus, hcancel, hmore, hports⟩ (by simp [hop])
      (by simp [hop, hready]) (by simp [hop, hallowed])]
    simp only [State.pageStarts, State.portsServed, hop]
  · intro port upset m pg t s hcurrent hkind htrained hpage huntracked hup hfree hread
    exact execDemotePageCopied_read hcurrent htrained hpage hkind huntracked hup hfree hread
  · intro port upset m pg t s hcurrent hkind htrained hpage hup hread
    exact execPromotePageDone_read hcurrent htrained hpage hkind hup hread
  · intro fn r st s hrun hstill hstatus hfree hcommitted hmanifest
    exact execMigRequestComplete_finishes hrun hstill (.inl hstatus) hfree hcommitted hmanifest
  · intro fn r s hrun hstill hstatus hfree hcommitted hasks hnone
    rw [exec_migRequestComplete, execMigRequestComplete_ends hrun hstill (.inl hstatus) hfree hcommitted,
      if_pos ⟨rfl, hasks, hnone⟩]
  · intro fn r s hrun hstill hstatus hdone hcommitted hmanifest
    exact execMigRequestComplete_finishes hrun hstill (.inr ⟨hstatus, hdone, rfl⟩) (s.endWaits_ok fn r) hcommitted
      fun _ => hmanifest
  · intro fn w s hlive
    exact execXlateLookup_live hlive
  · intro fn s hrunning
    exact execXlateLookupDone_running hrunning

end Sys2Proof.Machine

/-! ## Reef requests and operations -/

namespace Sys2Proof.Machine
open Sys2Proof

section ReefRequests
variable {s t : State} {fn stack addr : Nat} {data : List Byte}

section WindowWrite
variable (hwindow : issueWindow addr = some stack) (hlive : s.fnLive fn = true) (hdata : data ≠ [])
include hwindow hlive hdata

/-- A window write of an enabled function that the issue windows answer ends with their status (R257). -/
theorem execReefWindowWrite_answered {st : Status}
    (hwrite : s.unserved.issueWrite { fn := fn, addr := addr, len := data.length, wr := some data } = (t, some st)) :
    execReefWindowWrite fn addr data s =
      .next (t.accessEnds { fn := fn, addr := addr, len := data.length, wr := some data } { status := st }) := by
  rw [execReefWindowWrite, if_pos ⟨by simp [hwindow], hlive, hdata⟩]
  simp only [hwrite, ok]

/-- A window write of an enabled function that waits for room in a queue is held without a status (R258). -/
theorem execReefWindowWrite_held
    (hwrite : s.unserved.issueWrite { fn := fn, addr := addr, len := data.length, wr := some data } = (t, none)) :
    execReefWindowWrite fn addr data s = .next t := by
  rw [execReefWindowWrite, if_pos ⟨by simp [hwindow], hlive, hdata⟩]
  simp only [hwrite, ok]

end WindowWrite

/-- A write of REEF_ISSUE takes effect where every queued record may be written: a CANCEL then ends no request in a
forbidden place (R258, R273). -/
theorem State.reefIssue_allowed {w : Word}
    (hallowed : (s.reef stack).queue.any (fun e => s.complForbidden e.1 e.2) = false) :
    s.reefIssue fn stack w = .next (s.unserved.writeReefIssue fn stack w) :=
  if_neg fun ⟨_, _, hforbidden⟩ => Bool.false_ne_true (hallowed.symm.trans hforbidden)

/-- A request that lands in no forbidden place has its record in none (R346, R350, R357). -/
theorem State.complForbidden_of_reefForbidden {d r : List Byte} (hallowed : s.reefForbidden fn d r = false) :
    s.complForbidden fn r = false :=
  (Bool.or_eq_false_iff.mp hallowed).1

/-- The member units of the operations admitted to a stack (R259). -/
def ReefStack.taken (x : ReefStack) : List Nat := x.ops.flatMap fun o => reefMembers o.desc

/-- A request of a function that names a descriptor is admitted to a stack: it is well formed, its writes are allowed, it
fits the stack's limit and time, and its members are free, with room for them beside those taken (R259). -/
structure State.ReefAdmits (s : State) (stack fn : Nat) (r d : List Byte) : Prop where
  accepted : s.reefRefused stack r = false
  named : storeGet [] (s.reef stack).descs (reqDesc r) = d
  legal : reefLegal d r = true
  allowed : s.reefForbidden fn d r = false
  fits : (reefMembers d).length ≤ s.fld .REEF_STACK_STAT_LIMIT stack
  timely : reefAdmissible (s.fld .REEF_CAUSE_FUSED stack) d r ≤ 18000
  free : (reefMembers d).any (s.reef stack).taken.contains = false
  room : (s.reef stack).taken.length + (reefMembers d).length ≤ s.fld .REEF_STACK_STAT_LIMIT stack

/-- The request at the head of a stack's queue leaves it for the stack's operations where it is admitted; window writes
held at the queue then go on (R258, R259). -/
theorem execReefAdmit_admits {r d : List Byte} {rest : List (Nat × List Byte)}
    (hqueue : (s.reef stack).queue = (fn, r) :: rest) (hadmits : s.unserved.ReefAdmits stack fn r d) :
    execReefAdmit stack s = .next ((s.unserved.modReef stack (fun x => { x with queue := rest })).modReef stack (fun x =>
      { x with ops := x.ops ++ [{ id := x.nextOp, fn := fn, req := r, desc := d }], nextOp := x.nextOp + 1 })).retryIssues := by
  obtain ⟨haccepted, rfl, hlegal, hallowed, hfits, htimely, hfree, hroom⟩ := hadmits
  have hrecord := State.complForbidden_of_reefForbidden hallowed
  simp only [execReefAdmit, hqueue]
  rw [if_neg (by simp [hrecord]), if_neg (by simp [haccepted]), if_neg, if_neg, if_neg, ok]
  · rfl
  · rintro (htaken | hfull)
    · exact Bool.false_ne_true (hfree.symm.trans htaken)
    · exact hfull.not_ge hroom
  · rintro (hwide | hslow)
    · exact hwide.not_ge hfits
    · exact hslow.not_ge htimely
  · rintro (hillegal | hforbidden)
    · exact Bool.false_ne_true (hillegal.symm.trans hlegal)
    · exact Bool.false_ne_true (hallowed.symm.trans hforbidden)

end ReefRequests

section ReefOperations
variable {s : State} {stack k : Nat} {o : ReefOp}

/-- An admitted operation none of whose touched pages moves or is out of place starts once the units that compute leave
it room under the limit (R261, R263). -/
theorem execReefOpStart_ready (hfind : (s.reef stack).ops.find? (fun o => o.id == k && !o.started) = some o)
    (hstill : (reefTouched o).any (fun t => (s.reefPage o t.2.1 t.1 t.2.2).any (·.moving)) = false)
    (hplaced : (reefTouched o).any (s.unserved.reefBadPage stack o) = false)
    (hroom : s.fld .REEF_STACK_STAT_COMPUTING stack + (reefMembers o.desc).length ≤ s.fld .REEF_STACK_STAT_LIMIT stack) :
    execReefOpStart stack k s = .next (s.unserved.reefStarts stack k o) := by
  simp only [execReefOpStart, hfind]
  rw [if_neg (by simp [hstill]), if_neg (by simp [hplaced])]
  exact if_neg hroom.not_gt

variable (hfind : (s.reef stack).ops.find? (fun o => o.id == k && o.started) = some o)
include hfind

/-- A running operation whose record and results land in no forbidden place ends (R262). -/
theorem execReefOpEnd_running {cycles : Nat} (hallowed : s.reefForbidden o.fn o.desc o.req = false) :
    execReefOpEnd stack k cycles s = .next (s.unserved.reefFinish stack k cycles o) := by
  simp only [execReefOpEnd, hfind]
  rw [if_neg (by simp [hallowed]), ok]

/-- An uncorrectable sector of a member ends a running operation whose record lands in no forbidden place (R272). -/
theorem execReefUncorrectable_member {pc : Nat} (hmember : (reefMembers o.desc).contains pc = true)
    (hallowed : s.complForbidden o.fn o.req = false) :
    execReefUncorrectable stack k pc s = .next (s.unserved.reefBadSector stack pc o) := by
  simp only [execReefUncorrectable, hfind]
  rw [if_neg (by rw [hmember]; decide), if_neg (by simp [hallowed]), ok]

end ReefOperations

/-- Settles O10: each command is run on the window write, request or operation that its clause names; none of its guards
holds it back. -/
theorem reefCommandsComplete : Obligations.ReefCommandsComplete := by
  refine ⟨?_, ?_, ?_, ?_, ?_, ?_, ?_, ?_⟩
  · rintro f ad st bs _ t e s hwindow hlive hdata rfl hwrite
    exact execReefWindowWrite_answered hwindow hlive hdata hwrite
  · intro f ad st bs t s hwindow hlive hdata hwrite
    exact execReefWindowWrite_held hwindow hlive hdata hwrite
  · intro fn stack w s _ hallowed
    exact State.reefIssue_allowed hallowed
  · intro fn stack w s _ hallowed
    exact State.reefIssue_allowed hallowed
  · rintro stack fn r rest _ d s rfl hqueue haccepted hnamed hlegal hfits htimely hfree hroom hallowed
    exact execReefAdmit_admits hqueue ⟨haccepted, hnamed, hlegal, hallowed, hfits, htimely, hfree, hroom⟩
  · intro stack k o s hfind hstill hplaced hroom
    exact execReefOpStart_ready hfind hstill hplaced hroom
  · intro stack k cycles o s hfind hallowed
    exact execReefOpEnd_running hfind hallowed
  · intro stack k pc o s hfind hmember hallowed
    exact execReefUncorrectable_member hfind hmember hallowed

end Sys2Proof.Machine

/-! ## Events of a function and their interrupts -/

namespace Sys2Proof.Machine
open Sys2Proof

section ArmedEvents
variable {s : State} {fn k : Nat}

/-- A flit queued at a port waits last in its channel (R290). -/
theorem State.queueFlit_egressOf (s : State) (p : Nat) (f : Flit) :
    (s.queueFlit p f).egressOf p f.vc = s.egressOf p f.vc ++ [f] := by
  unfold State.queueFlit
  dsimp only
  split <;> exact storeGet_storeSet_self _ _ _ _

/-- Queueing a flit touches no register. -/
@[simp] theorem State.queueFlit_reg (s : State) (p : Nat) (f : Flit) (q : Reg) (x y : Nat) :
    (s.queueFlit p f).reg q x y = s.reg q x y := by
  unfold State.queueFlit
  dsimp only
  split <;> rfl

/-- Latching a lost flit touches two registers of its function (R310). -/
theorem State.latchUnreach_reg (s : State) (fn dst addr reason : Nat) {q : Reg} (x y : Nat) (hlatch : q ≠ .JL_UNREACH)
    (hevent : q ≠ .JL_FN_EVT) : (s.latchUnreach fn dst addr reason).reg q x y = s.reg q x y := by
  unfold State.latchUnreach
  dsimp only
  have hlatched : (((s.setFld .JL_UNREACH_REASON fn 0 reason).setFld .JL_UNREACH_DST fn 0 dst).setFld
      .JL_UNREACH_ADDR fn 0 addr).reg q x y = s.reg q x y := by
    iterate 3 rw [State.reg_setFld_ne _ _ _ _ _ _ _ _ hlatch]
  rw [State.failReads_reg]
  split
  · exact hlatched
  · rw [State.reg_setFld_ne _ _ _ _ _ _ _ _ hevent, hlatched]

/-- A flit to the adapter is queued where the port toward it is UP and the device has an address (R312, R313). -/
theorem State.sendAdapter_up {f : Flit} (hup : s.hostUp = true) :
    s.sendAdapter f = s.queueFlit s.adapterPort { f with dst := 0, src := s.fld .JL_CHAIN_ADDR, ttl := 255 } := if_pos hup

/-- A flit to the adapter touches registers only where it is lost: its count, and its function's latch and event (R308,
R310). -/
theorem State.sendAdapter_reg (s : State) (f : Flit) (q : Reg) (x y : Nat) :
    (s.sendAdapter f).reg q x y = s.reg q x y ∨ q = .JL_UNREACH ∨ q = .JL_FN_EVT ∨ q = .JL_DROPS := by
  by_cases hlost : q = .JL_UNREACH ∨ q = .JL_FN_EVT ∨ q = .JL_DROPS
  · exact .inr hlost
  · simp only [not_or] at hlost
    obtain ⟨hlatch, hevent, hcount⟩ := hlost
    have hdropped : (s.satFld .JL_DROPS_ROUTE 0 0 1).reg q x y = s.reg q x y := State.reg_setFld_ne _ _ _ _ _ _ _ _ hcount
    left
    unfold State.sendAdapter
    dsimp only
    split
    · exact State.queueFlit_reg ..
    · split
      · exact (State.latchUnreach_reg _ _ _ _ _ x y hlatch hevent).trans hdropped
      · exact hdropped

/-- A source is armed as set. -/
@[simp] theorem State.setArmed_isArmed_self (s : State) (fn k : Nat) (b : Bool) : (s.setArmed fn k b).isArmed fn k = b := by
  simp only [State.isArmed, State.setArmed, storeGet_storeSet_self]
  cases b <;> rfl

variable (henabled : s.fld .SVC_EVT_ROUTE_EN fn k = 1)
include henabled

/-- An enabled source with no event bit set is armed and waits (R395). -/
theorem State.armEvent_quiet (hquiet : eventWord s fn k = 0) : s.armEvent fn k = s.setArmed fn k true := by
  rw [State.armEvent, if_pos henabled]
  exact if_pos hquiet

/-- An enabled source with an event bit set sends its interrupt at once, and is disarmed (R395). -/
theorem State.armEvent_pending (hpending : eventWord s fn k ≠ 0) : s.armEvent fn k =
    ((s.setArmed fn k true).interrupt fn (s.fld .SVC_EVT_ROUTE_VECTOR fn k)).setArmed fn k false := by
  have hfires : s.armEvent fn k = (s.setArmed fn k true).fireEvent fn k := by
    rw [State.armEvent, if_pos henabled]
    exact if_neg hpending
  rw [hfires, State.fireEvent, if_pos (State.setArmed_isArmed_self ..)]
  rfl

/-- The INTERRUPT flit of such a source waits last in VC0 of the chain port toward the adapter (R285, R313). -/
theorem State.armEvent_sends (hpending : eventWord s fn k ≠ 0) (hup : s.hostUp = true) :
    (s.armEvent fn k).egressOf s.adapterPort 0 = s.egressOf s.adapterPort 0 ++
      [{ ftype := 5, sub := 1, dst := 0, src := s.fld .JL_CHAIN_ADDR, ttl := 255, sfn := fn, len := 1, vc := 0,
         payload := leBytes 2 (s.fld .SVC_EVT_ROUTE_VECTOR fn k) }] := by
  have harmed : (s.setArmed fn k true).hostUp = true := hup
  rw [State.armEvent_pending henabled hpending, State.interrupt, State.sendAdapter_up harmed]
  exact State.queueFlit_egressOf (s.setArmed fn k true) s.adapterPort _

end ArmedEvents

/-- A write of an event register touches no field of a register that is none. -/
theorem State.fld_writeReg_event {s : State} {r : Reg} {k a b : Nat} {w : Word} (hsource : eventSource r = some k) {f : Fld}
    (hother : eventSource f.reg = none) (x y : Nat) : (s.writeReg r a b w).fld f x y = s.fld f x y := by
  refine State.fld_setReg_ne _ _ _ _ _ _ _ _ fun h => ?_
  rw [h, hsource] at hother
  cases hother

/-- A function's write that clears bits of its event register arms the register's source again (R395). -/
theorem exec_eventBitClear_arms {s : State} {fn off k i b : Nat} {r : Reg} {w : Word} (hat : regAt off = some (r, i, b))
    (hsource : eventSource r = some k) (hfn : fn ≠ 0) (hopen : s.windowOpen fn = true)
    (hshown : s.shows fn r (ownIndex r fn i) b = true)
    (hclears : s.reg r (ownIndex r fn i) b &&& w &&& BitVec.ofNat 64 (accessMask r .RW1C) ≠ 0) :
    exec (.eventBitClear fn off w) s = .next ((s.writeReg r (ownIndex r fn i) b w).armEvent fn k) := by
  rw [exec_eventBitClear_event hat hsource, exec_registerWrite_shown hat hopen hshown, State.windowWrites_event hsource hfn]
  exact congrArg _ (if_neg hclears)

/-- Settles O56: the write arms the source on the state in which the bits are cleared; what is left of them decides whether
it waits or sends. -/
theorem armedEventInterruptsOnce : Obligations.ArmedEventInterruptsOnce := by
  intro s fn off k i b r w hat hsource hfn hopen hshown hclears henabled cleared
  have hfld {f : Fld} (hother : eventSource f.reg = none) (x y : Nat) : cleared.fld f x y = s.fld f x y :=
    State.fld_writeReg_event hsource hother x y
  have hroute : cleared.fld .SVC_EVT_ROUTE_EN fn k = 1 := (hfld rfl fn k).trans henabled
  have hadapter : cleared.adapterPort = s.adapterPort := hfld rfl 0 0
  refine ⟨_, exec_eventBitClear_arms hat hsource hfn hopen hshown hclears, ?_⟩
  by_cases hquiet : eventWord cleared fn k = 0
  · rw [if_pos hquiet, State.armEvent_quiet hroute hquiet]
    exact ⟨fun _ _ _ => .inl rfl, State.setArmed_isArmed_self .., rfl⟩
  · rw [if_neg hquiet]
    refine ⟨fun q x y => ?_, ?_, fun hup hvalid => ?_⟩
    · rw [State.armEvent_pending hroute hquiet]
      exact State.sendAdapter_reg _ _ q x y
    · rw [State.armEvent_pending hroute hquiet]
      exact State.setArmed_isArmed_self ..
    · have hhost : cleared.hostUp = true := by
        have hport : cleared.portUp s.adapterPort = true := (congrArg (· == 3) (hfld rfl s.adapterPort 0)).trans hup
        rw [State.hostUp, hadapter, hport, hfld rfl, hvalid]
        rfl
      have hsent := State.armEvent_sends hroute hquiet hhost
      rw [hadapter, hfld rfl, hfld rfl] at hsent
      exact hsent

end Sys2Proof.Machine

/-! ## Flits that arrive at a port -/

namespace Sys2Proof.Machine
open Sys2Proof

section Arrivals
variable {s t u : State} {p : Nat} {rx : RxFlit}

/-- A port that is present and UP, whose link accepts a flit and goes over to `t` by it (R286, R289). -/
structure State.AcceptsAt (s : State) (p : Nat) (rx : RxFlit) (t : State) : Prop where
  present : s.portPresent p = true
  up : s.portState p = portIsUp
  accepted : s.linkIn p rx = (t, true)

/-- A WRITE that such a port accepts, that is for this device and passes the fence (R308, R309). -/
structure State.DeliversAt (s : State) (p : Nat) (rx : RxFlit) (t : State) : Prop extends s.AcceptsAt p rx t where
  isWrite : rx.flit.ftype = 1
  here : t.routeFlit rx.flit = .here
  passes : t.mayDeliver p rx.flit = true

/-- A flit for this device waits for no strait. -/
theorem State.transits_here (hhere : s.routeFlit rx.flit = .here) : s.transits p rx.flit = false := by
  rw [State.transits, hhere]

/-- A route to a port forwards the flit over it (R308). -/
theorem State.routeIn_onward {q : Nat} {act : State → State} (honward : s.routeFlit rx.flit = .onward q) :
    s.routeIn p rx.flit act = s.forward p rx.flit q := by
  rw [State.routeIn, honward]

/-- The fence discards a flit for this device that may not be delivered (R309). -/
theorem State.routeIn_fenced {act : State → State} (hhere : s.routeFlit rx.flit = .here)
    (hfenced : s.mayDeliver p rx.flit = false) : s.routeIn p rx.flit act = s.dropFence rx.flit := by
  rw [State.routeIn, hhere]
  exact if_neg (by rw [hfenced]; decide)

section Accepted
variable (haccepts : s.AcceptsAt p rx t)
include haccepts

/-- An accepted flit of the kind of its row is routed, and its slot is freed unless it crosses the straits (R290, R308). -/
theorem State.arrive_accepted {kind : Bool} (hkind : kind = true) (act : State → State) :
    s.arrive p rx kind act = (t.routeIn p rx.flit act).slotAfter p rx.flit (t.transits p rx.flit) := by
  obtain ⟨hpresent, hup, hlink⟩ := haccepts
  rw [State.arrive, if_neg (by simp [hkind, hpresent, hup]), hlink]

/-- Any other WRITE is routed as a flit of another type is (R308, R309). -/
theorem execWrite_routed (htype : rx.flit.ftype = 1)
    (hother : ¬ (t.routeFlit rx.flit = .here ∧ t.mayDeliver p rx.flit = true)) :
    execWrite p rx s = .next ((t.routeIn p rx.flit id).slotAfter p rx.flit (t.transits p rx.flit)) := by
  rw [execWrite, if_neg, State.arrive_accepted haccepts (by rw [htype]; decide), ok]
  rintro ⟨-, -, -, -, hdelivered⟩
  rw [haccepts.accepted] at hdelivered
  exact hother hdelivered

/-- An accepted flit of a reserved type or MESSAGE subtype is counted, and its slot is freed (R285). -/
theorem execFlitReservedType_counted
    (hreserved : 7 ≤ rx.flit.ftype ∨ rx.flit.ftype = 5 ∧ definedMessage rx.flit.sub = false) :
    execFlitReservedType p rx s = .next ((t.satFld .JL_DROPS_ROUTE 0 0 1).freeSlot p rx.flit.vc) := by
  obtain ⟨hpresent, hup, hlink⟩ := haccepts
  have hnotReduce : ¬ (rx.flit.ftype = 4 ∧ (rx.flit.sub = 0 ∨ 8 < rx.flit.sub)) := by omega
  simp only [execFlitReservedType, hlink]
  rw [if_neg hnotReduce, if_pos ⟨by simpa using hreserved, hpresent, hup⟩, ok]

/-- An accepted LINK_CTRL flit acts by its meaning in session, and a slot of VC3 is freed (R298). -/
theorem State.arriveCtrl_up {sub : Nat} (hsub : isCtrl rx sub = true) (keying act : State → State) :
    s.arriveCtrl p rx sub keying act = (act t).freeSlot p 3 := by
  obtain ⟨hpresent, hup, hlink⟩ := haccepts
  rw [State.arriveCtrl, if_neg (by simp [hsub, hpresent]), if_neg (by rw [hup]; decide), if_pos hup, hlink]

end Accepted

/-- A WRITE for this device that the fence lets pass is delivered, and its slot is freed (R309). -/
theorem execWrite_delivered (hdelivers : s.DeliversAt p rx t) (hdelivered : t.deliverWrite rx.flit = .next u) :
    execWrite p rx s = .next (u.freeSlot p rx.flit.vc) := by
  obtain ⟨⟨hpresent, hup, hlink⟩, htype, hhere, hpasses⟩ := hdelivers
  simp only [execWrite, hlink, hdelivered]
  rw [if_pos ⟨htype, hpresent, hup, trivial, hhere, hpasses⟩, ok]

section DeliveredWrite
variable {f : Flit}

/-- A delivered WRITE of a reserved SUB is counted (R285). -/
theorem State.deliverWrite_reserved (hsub : 1 < f.sub) : s.deliverWrite f = .next (s.satFld .JL_DROPS_ROUTE 0 0 1) := by
  rw [State.deliverWrite, if_neg (by omega), if_neg (by omega), ok]

variable (hsub : f.sub = 1)
include hsub

/-- A window WRITE of one aligned register is a write of that register (R314). -/
theorem State.deliverWrite_register (hlen : f.len = 1) (haligned : f.addr % 8 = 0) : s.deliverWrite f =
    exec (.registerWrite f.dfn f.addr (BitVec.ofNat 64 (bytesAt f.payload 0 8))) s := by
  rw [State.deliverWrite, if_neg (by omega), if_pos hsub, State.writeWindow, if_pos ⟨hlen, haligned⟩]
  rfl

/-- A window WRITE of a register that the window shows acts by the register's rules (R314). -/
theorem State.deliverWrite_shown {r : Reg} {i b : Nat} (hlen : f.len = 1) (haligned : f.addr % 8 = 0)
    (hat : regAt f.addr = some (r, i, b)) (hopen : s.windowOpen f.dfn = true)
    (hshown : s.shows f.dfn r (ownIndex r f.dfn i) b = true) : s.deliverWrite f =
    s.windowWrites f.dfn r (ownIndex r f.dfn i) b (BitVec.ofNat 64 (bytesAt f.payload 0 8)) := by
  rw [State.deliverWrite_register hsub hlen haligned, exec_registerWrite_shown hat hopen hshown]

/-- A window WRITE that is not of one aligned register changes nothing. -/
theorem State.deliverWrite_discarded (hnone : f.len ≠ 1 ∨ f.addr % 8 ≠ 0 ∨ regAt f.addr = none) :
    s.deliverWrite f = .next s := by
  by_cases hregister : f.len = 1 ∧ f.addr % 8 = 0
  · obtain ⟨hlen, haligned⟩ := hregister
    have hreserved : regAt f.addr = none := (hnone.resolve_left (· hlen)).resolve_left (· haligned)
    rw [State.deliverWrite_register hsub hlen haligned, exec_registerWrite_none hreserved]
  · rw [State.deliverWrite, if_neg (by omega), if_pos hsub, State.writeWindow, if_neg hregister, ok]

end DeliveredWrite

/-- A write of OPT_CTL in a window takes effect unless it adopts from a broken record (R363, R368). -/
theorem State.windowWrites_optCtl {fn a b : Nat} {w : Word} (hsound : (s.optAdopts fn w && s.adoptBroken fn) = false) :
    s.windowWrites fn .OPT_CTL a b w = .next (s.writeOptCtl fn w) :=
  if_neg (by rw [hsound]; decide)

/-- An unprotected LINK_CTRL flit within the window of KEYING acts by its meaning there, its message no longer unanswered
(R295, R298, R315). -/
theorem State.arriveCtrl_keying {sub : Nat} (hsub : isCtrl rx sub = true) (hpresent : s.portPresent p = true)
    (hkeying : s.portState p = portKeying) (hplain : unprotected rx = true)
    (hopen : (s.fecCorr p rx.corrected).keyingOpen p = true) (act up : State → State) :
    s.arriveCtrl p rx sub act up = act ((s.fecCorr p rx.corrected).modLink p (fun l => l.answered sub)) := by
  rw [State.arriveCtrl, if_neg (by simp [hsub, hpresent]), if_pos hkeying]
  exact if_pos ⟨hplain, hopen⟩

end Arrivals

/-- Settles O11: an accepted flit is routed by its row's action; a WRITE for this device is delivered as its SUB and the
register at its address say. -/
theorem flitsArrive : Obligations.FlitsArrive := by
  refine ⟨?readReq, ?readRsp, ?interrupt, ?unreachable, ?claimAck, ?claimEnd, ?probeAck, ?brk, ?vote, ?voteResult,
    ?stepAbort, ?writeMemory, ?writeReserved, ?writeDiscarded, ?writeRegister, ?writeOptCtl, ?writeReefIssue,
    ?writeOnward, ?writeFenced, ?idle, ?reservedType, ?reservedReduce⟩
  case readReq | readRsp | interrupt | unreachable | claimAck | claimEnd | probeAck | brk | vote | voteResult | stepAbort =>
    intro p rx t s hkind hpresent hup hlink
    exact congrArg Host.Outcome.next (State.arrive_accepted ⟨hpresent, hup, hlink⟩ hkind _)
  case writeMemory =>
    intro p rx t s htype hsub hpresent hup hlink hhere hpasses hallowed
    exact execWrite_here htype hsub hpresent hup hlink hhere hpasses hallowed
  case writeReserved =>
    intro p rx t s htype hsub hpresent hup hlink hhere hpasses
    exact execWrite_delivered ⟨⟨hpresent, hup, hlink⟩, htype, hhere, hpasses⟩ (State.deliverWrite_reserved hsub)
  case writeDiscarded =>
    intro p rx t s htype hsub hpresent hup hlink hhere hpasses hnone
    exact execWrite_delivered ⟨⟨hpresent, hup, hlink⟩, htype, hhere, hpasses⟩ (State.deliverWrite_discarded hsub hnone)
  case writeRegister =>
    intro p i b rx r t s htype hsub hpresent hup hlink hhere hpasses hlen haligned hat hopen hshown hplain
    obtain ⟨u, hu⟩ := State.windowWrites_next hplain
    exact ⟨u, hu, execWrite_delivered ⟨⟨hpresent, hup, hlink⟩, htype, hhere, hpasses⟩
      ((State.deliverWrite_shown hsub hlen haligned hat hopen hshown).trans hu)⟩
  case writeOptCtl =>
    intro p i b rx t s htype hsub hpresent hup hlink hhere hpasses hlen haligned hat hopen hshown hsound
    exact execWrite_delivered ⟨⟨hpresent, hup, hlink⟩, htype, hhere, hpasses⟩
      ((State.deliverWrite_shown hsub hlen haligned hat hopen hshown).trans (State.windowWrites_optCtl hsound))
  case writeReefIssue =>
    intro p i b rx t s htype hsub hpresent hup hlink hhere hpasses hlen haligned hat hopen hshown hallowed
    exact execWrite_delivered ⟨⟨hpresent, hup, hlink⟩, htype, hhere, hpasses⟩
      ((State.deliverWrite_shown hsub hlen haligned hat hopen hshown).trans (State.reefIssue_allowed hallowed))
  case writeOnward =>
    intro p rx t q s htype hpresent hup hlink honward
    rw [exec_write, execWrite_routed ⟨hpresent, hup, hlink⟩ htype (by simp [honward]), State.routeIn_onward honward]
  case writeFenced =>
    intro p rx t s htype hpresent hup hlink hhere hfenced
    rw [exec_write, execWrite_routed ⟨hpresent, hup, hlink⟩ htype (by simp [hfenced]),
      State.routeIn_fenced hhere hfenced, State.transits_here hhere]
    rfl
  case idle =>
    intro p rx s htype hpresent hup
    exact if_pos ⟨htype, hpresent, hup⟩
  case reservedType =>
    intro p rx t s hreserved hpresent hup hlink
    exact execFlitReservedType_counted ⟨hpresent, hup, hlink⟩ hreserved
  case reservedReduce =>
    intro p rx s htype hsub
    exact if_pos ⟨htype, hsub⟩

/-- Settles O13: a LINK_CTRL flit acts in KEYING by its meaning there, and UP by its meaning in session on the state that the
link goes over to. -/
theorem controlFlitsArrive : Obligations.ControlFlitsArrive := by
  refine ⟨?claim, ?probe, ?hello, ?keyShare, ?rekeyShare, ?cert, ?keyAuth, ?rekeyAuth, ?lastKeyDone, ?keyDone, ?rekeyDone,
    ?rekeySwitch, ?laneSwapKeying, ?laneSwapUp, ?laneSwapAckKeying, ?laneSwapAckUp⟩
  case lastKeyDone =>
    rintro p rx _ _ s hsub hpresent hkeying hplain hopen rfl hnumber rfl hkeyed
    rw [exec_keyDone, execKeyDone, State.arriveCtrl_keying hsub hpresent hkeying hplain hopen, ok]
    rw [if_neg (not_not_intro hnumber), if_pos hkeyed]
  case keyDone =>
    rintro p rx _ _ s hsub hpresent hkeying hplain hopen rfl hnumber rfl hunkeyed
    rw [exec_keyDone, execKeyDone, State.arriveCtrl_keying hsub hpresent hkeying hplain hopen, ok]
    rw [if_neg (not_not_intro hnumber), if_neg (by rw [hunkeyed]; decide)]
  case rekeyDone =>
    intro p rx t s hsub hpresent hup hlink hopen hnew hnumber hphase
    rw [exec_keyDone, execKeyDone, State.arriveCtrl_up ⟨hpresent, hup, hlink⟩ hsub, ok]
    rw [if_pos ⟨hopen, hnew, hnumber, hphase⟩, hnumber]
  case rekeySwitch =>
    intro p rx t s hsub hpresent hup hlink hopen haccepted hphase hnumber
    rw [exec_rekeySwitch, execRekeySwitch, State.arriveCtrl_up ⟨hpresent, hup, hlink⟩ hsub, ok]
    rw [if_pos ⟨hopen, haccepted, hphase, hnumber⟩]
  case hello | keyShare | cert | keyAuth | laneSwapKeying | laneSwapAckKeying =>
    rintro p rx _ s hsub hpresent hkeying hplain hopen rfl
    exact congrArg Host.Outcome.next (State.arriveCtrl_keying hsub hpresent hkeying hplain hopen _ _)
  case claim | probe | rekeyShare | rekeyAuth | laneSwapUp | laneSwapAckUp =>
    intro p rx t s hsub hpresent hup hlink
    exact congrArg Host.Outcome.next (State.arriveCtrl_up ⟨hpresent, hup, hlink⟩ hsub _ _)

end Sys2Proof.Machine

/-! ## Events of a Jumel port -/

namespace Sys2Proof.Machine
open Sys2Proof

section PortEvents
variable {s t : State} {p vc : Nat}

section FailedLane
variable {lane symbols : Nat} {lost : Bool} (hlinked : s.portState p = portKeying ∨ s.portState p = portIsUp)
  (hlane : lane < 8) (hfails : s.laneFails p lost symbols = true) (hfirst : (s.link p).swap = none)
include hlinked hlane hfails hfirst

/-- The first failed lane is asked for on the spare (R281). -/
theorem execLaneFail_swaps (hspare : s.fld .JL_PORT_STAT_SPARE_RX p = 0xF) :
    execLaneFail p ⟨lane, lost, symbols⟩ s = .next ((s.modLink p (fun l =>
      { l with swap := some (lane, s.capeCount p) })).sendCtrl p (linkCtrl 7 (leBytes 1 lane))) := by
  simp only [execLaneFail, hfirst]
  rw [if_pos ⟨hlinked, hlane, hfails⟩, if_neg (not_not_intro hspare), ok]

/-- A failed lane takes the port DOWN where the spare is used (R282). -/
theorem execLaneFail_down (hused : s.fld .JL_PORT_STAT_SPARE_RX p ≠ 0xF) :
    execLaneFail p ⟨lane, lost, symbols⟩ s = .next (s.portDown p 2) := by
  simp only [execLaneFail, hfirst]
  rw [if_pos ⟨hlinked, hlane, hfails⟩, if_pos hused, ok]

end FailedLane

/-- Codeword N takes the lane from the spare, within the window of the switch-over (R281, R282). -/
theorem execLaneSwitchOver_inTime {k c n : Nat} (hswap : (s.link p).swap = some (k, c)) (hat : (s.link p).swapAt = some n)
    (hopen : s.inWindow (capeIsland p) (c + 16000) = true) : execLaneSwitchOver p s =
      .next ((((s.modLink p (fun l => { l with swap := none, swapAt := none })).setFld .JL_PORT_STAT_SPARE_RX p 0 k).addFld
        .JL_PORT_ERR2_LANE_SWAPS p 0 1).portEvent p .JL_PORT_EVT_LANE_EVT) := by
  simp only [execLaneSwitchOver, hswap, hat]
  rw [if_pos hopen, ok]

section Keying
variable (hkeying : s.portState p = portKeying)
include hkeying

/-- A send within the window of KEYING sends the next message of the exchange; the port is UP once it is keyed (R296,
R298). -/
theorem execFlitSend_keying (hopen : s.keyingOpen p = true) : execFlitSend p 3 s =
    .next (if ((s.sendKeyingFlit p).link p).keyed then (s.sendKeyingFlit p).portUpNow p else s.sendKeyingFlit p) := by
  rw [execFlitSend, if_pos ⟨hkeying, rfl⟩, if_neg (by rw [hopen]; decide), ok]

/-- A send past the close of KEYING takes the port DOWN (R315, R445). -/
theorem execFlitSend_late (hclosed : s.keyingOpen p = false) : execFlitSend p 3 s = .next (s.portDown p 5) := by
  rw [execFlitSend, if_pos ⟨hkeying, rfl⟩, if_pos hclosed, ok]

end Keying

/-- A send of a port that is UP follows what its closed windows and a stalled head leave (R315, R445). -/
theorem execFlitSend_up (hup : s.portState p = portIsUp) (hvc : vc < 4) :
    execFlitSend p vc s = .next (((s.windowsClosed p).dropStalled p vc).sendUp p vc) := by
  rw [execFlitSend, if_neg (by rw [hup]; exact fun h => absurd h.1 (by decide)), if_neg (by simp [hup, hvc]), ok]

/-- A port that its closed windows have taken from UP sends nothing. -/
theorem State.sendUp_down (hdown : s.portState p ≠ portIsUp) : s.sendUp p vc = s := by
  rw [State.sendUp, if_pos hdown]

section SendUp
variable (hup : s.portState p = portIsUp)
include hup

/-- A replay's next flit goes first (R293). -/
theorem State.sendUp_replay (hreplay : 0 < (s.link p).resend) : s.sendUp p vc = s.resendFlit p := by
  rw [State.sendUp, if_neg (not_not_intro hup), if_pos hreplay]

variable (hnew : (s.link p).resend = 0)
include hnew

/-- Without a replay the head of the channel goes out where it holds a credit and finds room and a count (R290, R293,
R303). -/
theorem State.sendUp_head {f : Flit} {rest : List Flit} (hhead : s.egressOf p vc = f :: rest)
    (hcredit : 0 < (s.link p).credits.getD vc 0) (hroom : (s.link p).retained.length < 1024)
    (hcount : s.fld .JL_PORT_TXC_TXC p < txcLimit) : s.sendUp p vc = s.sendNew p f := by
  rw [State.sendUp, if_neg (not_not_intro hup), if_neg (by omega), hhead]
  exact if_pos ⟨hcredit, hroom, hcount⟩

/-- Without a replay an empty channel sends an IDLE flit (R286). -/
theorem State.sendUp_empty (hempty : s.egressOf p vc = []) : s.sendUp p vc = s.sentIdle p := by
  rw [State.sendUp, if_neg (not_not_intro hup), if_neg (by omega), hempty]

end SendUp

/-- The counts of a flit that fails its CRC, or lies in an uncorrectable codeword (R278, R293). -/
def State.corruptCounted (s : State) (p : Nat) (uncorr : Bool) (corrected : Nat) : State :=
  (s.fecCorr p corrected).satFld (if uncorr then .JL_PORT_ERR_FEC_UNCORR else .JL_PORT_ERR_CRC_FAIL) p 0 1

/-- A corrupt flit of a linked port is counted, and is lost where the port is UP after it (R278, R289, R293). -/
theorem execFlitCorrupt_linked {uncorr : Bool} {corrected : Nat}
    (hlinked : s.portState p = portKeying ∨ s.portState p = portIsUp) : execFlitCorrupt p ⟨uncorr, corrected⟩ s =
      .next (if (s.corruptCounted p uncorr corrected).portState p = portIsUp then
        (s.corruptCounted p uncorr corrected).lostFlit p else s.corruptCounted p uncorr corrected) := by
  rw [execFlitCorrupt, if_pos hlinked]
  rfl

/-- The time limit of a read ends it, and reads that wait go out (R312, R315). -/
theorem execReadTimeout_open {fn tag k c : Nat} {r : ReadReq}
    (hread : s.reads.find? (fun e => e.1 == 256 * fn + tag) = some (k, r)) (hopened : r.opened = some c)
    (hwaits : r.done = none) : execReadTimeout fn tag s =
      .next (State.issueReads 256 ((s.reachCount (capeIsland r.port) (s.readClose c)).failReads (fun j _ => j == k))) := by
  simp only [execReadTimeout, hread, hopened, hwaits, ok]

/-- A stalled head is discarded at the close of its window (R311, R315). -/
theorem execFlitStall_head {f : Flit} {rest : List Flit} (hup : s.portState p = portIsUp) (hvc : vc < 4)
    (hhead : s.egressOf p vc = f :: rest) : execFlitStall p vc s =
      .next (((s.reachCount (capeIsland p) (s.stallClose p vc)).popEgress p vc).dropRoute f 4) := by
  rw [execFlitStall, hup, hhead]
  exact if_pos hvc

end PortEvents

/-- Settles O14: each row's guards hold in the states that its clause describes; a send of a port UP goes by the state that
its closed windows leave. -/
theorem portEventsComplete : Obligations.PortEventsComplete := by
  refine ⟨?laneAsks, ?laneDown, ?laneSwitchOver, ?laneSwapTimeout, ?sendKeying, ?sendKeyed, ?sendLate, ?sendDown,
    ?sendReplay, ?sendHead, ?sendIdle, ?corruptUp, ?corruptKeying, ?replayTimeout, ?livenessTimeout, ?keyingTimeout,
    ?keyingResend, ?readTimeout, ?flitStall, ?claimWait, ?trainingDone, ?trainTimeout, ?portRetry, ?peerLoss, ?portEnable, ?portReset,
    ?portRekey, ?rekeyThreshold, ?counterLimit, ?rekeyTimeout, ?rekeyRetry, ?routeWrite⟩
  case laneAsks =>
    intro p lane symbols lost s hlinked hlane hfails hfirst hspare
    exact execLaneFail_swaps hlinked hlane hfails hfirst hspare
  case laneDown =>
    intro p lane symbols lost s hlinked hlane hfails hfirst hused
    exact execLaneFail_down hlinked hlane hfails hfirst hused
  case laneSwitchOver =>
    intro p k c n s hswap hat hopen
    exact execLaneSwitchOver_inTime hswap hat hopen
  case laneSwapTimeout =>
    intro p k c s hswap
    rw [exec_laneSwapTimeout, execLaneSwapTimeout, hswap, ok]
  case sendKeying =>
    rintro p _ s hkeying hopen rfl hunkeyed
    rw [exec_flitSend, execFlitSend_keying hkeying hopen, if_neg (by rw [hunkeyed]; decide)]
  case sendKeyed =>
    rintro p _ s hkeying hopen rfl hkeyed
    rw [exec_flitSend, execFlitSend_keying hkeying hopen, if_pos hkeyed]
  case sendLate =>
    intro p s hkeying hclosed
    exact execFlitSend_late hkeying hclosed
  case sendDown =>
    rintro p vc _ s hup hvc rfl hdown
    rw [exec_flitSend, execFlitSend_up hup hvc, State.sendUp_down hdown]
  case sendReplay =>
    rintro p vc _ s hup hvc rfl hstays hreplay
    rw [exec_flitSend, execFlitSend_up hup hvc, State.sendUp_replay hstays hreplay]
  case sendHead =>
    rintro p vc f rest _ s hup hvc rfl hstays hnew hhead hcredit hroom hcount
    rw [exec_flitSend, execFlitSend_up hup hvc, State.sendUp_head hstays hnew hhead hcredit hroom hcount]
  case sendIdle =>
    rintro p vc _ s hup hvc rfl hstays hnew hempty
    rw [exec_flitSend, execFlitSend_up hup hvc, State.sendUp_empty hstays hnew hempty]
  case corruptUp =>
    rintro p corrected uncorr _ s hup rfl hstays
    exact (execFlitCorrupt_linked (.inr hup)).trans (congrArg _ (if_pos hstays))
  case corruptKeying =>
    rintro p corrected uncorr _ s hkeying rfl hstays
    exact (execFlitCorrupt_linked (.inl hkeying)).trans (congrArg _ (if_neg (ne_of_eq_of_ne hstays (by decide))))
  case replayTimeout =>
    intro p s hup hretained
    exact if_pos ⟨hup, hretained⟩
  case livenessTimeout =>
    intro p s hup
    exact if_pos hup
  case keyingTimeout =>
    intro p s hkeying
    exact if_pos hkeying
  case keyingResend =>
    intro p s hkeying
    exact if_pos hkeying
  case readTimeout =>
    intro fn tag k c r s hread hopened hwaits
    exact execReadTimeout_open hread hopened hwaits
  case flitStall =>
    intro p vc f rest s hup hvc hhead
    exact execFlitStall_head hup hvc hhead
  case claimWait =>
    intro c s hwait
    rw [exec_claimWait, execClaimWait, hwait, ok]
  case trainingDone =>
    intro p txSpare rxSpare s htraining hpresent htx hrx hopen
    exact if_pos ⟨htraining, hpresent, htx, hrx, hopen⟩
  case trainTimeout =>
    intro p s htraining
    exact if_pos htraining
  case portRetry =>
    intro p s hdown hretry henabled
    exact if_pos ⟨hdown, hretry, henabled⟩
  case peerLoss =>
    intro p s hlinked
    exact if_pos hlinked
  case portEnable | portReset | portRekey =>
    intro fn p w s
    rfl
  case rekeyThreshold =>
    intro p s hset hreached
    exact if_pos ⟨Nat.mul_ne_zero hset (by decide), hreached⟩
  case counterLimit =>
    intro p s hup hlimit
    exact if_pos ⟨hup, hlimit⟩
  case rekeyTimeout =>
    intro p s hup hrekeying
    exact if_pos ⟨hup, hrekeying⟩
  case rekeyRetry =>
    intro p c s hagain
    rw [exec_rekeyRetry, execRekeyRetry, hagain, ok]
  case routeWrite =>
    intro fn d w s
    rfl

end Sys2Proof.Machine

/-! ## Gradient reduction -/

namespace Sys2Proof.Machine
open Sys2Proof

section ReduceFlits
variable {s t : State} {p sub : Nat} {rx : RxFlit}

/-- An accepted REDUCE flit of the SUB of its row joins the flits held at the port, which are then judged (R323). -/
theorem State.arriveReduce_accepted (haccepts : s.AcceptsAt p rx t) (htype : rx.flit.ftype = 4) (hsub : rx.flit.sub = sub) :
    s.arriveReduce p rx sub = (t.modLink p (fun l =>
      { l with heldFlits := l.heldFlits ++ [(t.verifyCount p rx.flit, rx.flit)] })).releaseHeld p := by
  obtain ⟨hpresent, hup, hlink⟩ := haccepts
  rw [State.arriveReduce, if_neg (by simp [htype, hsub, hpresent, hup]), hlink]

end ReduceFlits

/-- Settles O12: a flit of each SUB arrives in the one way of `State.arriveReduce_accepted`, and a port that is UP judges what it
holds. -/
theorem reduceFlitsArrive : Obligations.ReduceFlitsArrive := by
  refine ⟨?rs, ?rsEnd, ?ag, ?agEnd, ?up, ?upEnd, ?down, ?downEnd, ?heldFlitRelease⟩
  case rs | rsEnd | ag | agEnd | up | upEnd | down | downEnd =>
    intro p rx t s htype hsub hpresent hup hlink
    exact congrArg Host.Outcome.next (State.arriveReduce_accepted ⟨hpresent, hup, hlink⟩ htype hsub)
  case heldFlitRelease =>
    intro p s hup
    exact if_pos hup

section Buckets
variable {s : State} {ctx b : Nat}

/-- A full bucket of a running job starts after the bucket before it, with fewer than 64 outstanding and no row of it leased
(R267, R325). -/
theorem execBucketStart_begins (hrunning : s.jobState ctx = jobRunning) (hindex : b < jobBuckets (s.job ctx).recd)
    (hfull : ((s.job ctx).bucket b).full = true) (hnew : ((s.job ctx).bucket b).started = false)
    (horder : b = 0 ∨ ((s.job ctx).bucket (b - 1)).started = true)
    (hroom : ((s.job ctx).run.filter (fun e => e.2.started && !e.2.complete)).length < 64)
    (hrows : s.rowsLeased (s.job ctx).fn (bucketBase ((s.job ctx).bucketRec b))
      (65536 * bucketPages ((s.job ctx).bucketRec b)) = false) :
    execBucketStart ctx b s = .next (s.bucketBegins ctx b) := by
  refine if_neg ?_
  rintro (hstate | hbeyond | hpart | hstarted | ⟨hlater, hskipped⟩ | hcrowded | hleased)
  · exact hstate hrunning
  · exact hbeyond hindex
  · exact absurd (hfull.symm.trans hpart) (by decide)
  · exact absurd (hnew.symm.trans hstarted) (by decide)
  · exact absurd ((horder.resolve_left hlater).symm.trans hskipped) (by decide)
  · exact absurd hroom (Nat.not_lt.mpr hcrowded)
  · exact absurd (hrows.symm.trans hleased) (by decide)

section Ends
variable {ts : List (List Byte)} (htrailers : s.bucketTrailers ctx b = some ts)
  (hstarted : ((s.job ctx).bucket b).started = true) (hopen : ((s.job ctx).bucket b).complete = false)
  (hsent : s.bucketUnsent ctx b = false) (hwritten : s.bucketHeld ctx b = false)
include htrailers hstarted hopen hsent hwritten

/-- A started bucket with all its trailers, with nothing to send and no held write, ends: as LATE, or with its record where its
last flit came by the close of its window (R334, R336). -/
theorem execBucketComplete_ends : execBucketComplete ctx b s =
    if ((s.job ctx).bucket b).late then
      .next ((s.modBucket ctx b (fun c => { c with complete := true })).jobStat ctx)
    else if jobDeadline (s.job ctx).recd ≠ 0 ∧
        bucketClose (s.job ctx) ((s.job ctx).bucket b) < ((s.job ctx).bucket b).lastIn then .next s
    else .next (s.bucketDone ctx b ts) := by
  rw [execBucketComplete, htrailers]
  exact if_neg (by simp [hstarted, hopen, hsent, hwritten])

/-- Such a bucket that is LATE completes without a record (R336). -/
theorem execBucketComplete_late (hlate : ((s.job ctx).bucket b).late = true) : execBucketComplete ctx b s =
    .next ((s.modBucket ctx b (fun c => { c with complete := true })).jobStat ctx) := by
  rw [execBucketComplete_ends htrailers hstarted hopen hsent hwritten, if_pos hlate]

/-- Such a bucket whose last flit came in time is done (R334). -/
theorem execBucketComplete_onTime (htimely : ((s.job ctx).bucket b).late = false)
    (hclose : jobDeadline (s.job ctx).recd = 0 ∨
      ((s.job ctx).bucket b).lastIn ≤ bucketClose (s.job ctx) ((s.job ctx).bucket b)) :
    execBucketComplete ctx b s = .next (s.bucketDone ctx b ts) := by
  rw [execBucketComplete_ends htrailers hstarted hopen hsent hwritten, if_neg (by rw [htimely]; decide), if_neg]
  exact fun ⟨hset, hpast⟩ => absurd (hclose.resolve_left hset) (Nat.not_le.mpr hpast)

end Ends

end Buckets

section JobControl
variable {s : State} {fn ctx : Nat} {w : Word} (hlive : s.fnLive fn = true) (howns : (s.job ctx).fn = fn)
include hlive howns

/-- RESUME alone returns a job in STOPPED to IDLE, and clears the cause of its stop (R341). -/
theorem State.writeJobCtl_resume (hno : bit w.toNat 0 = false) (hresume : bit w.toNat 1 = true)
    (hstopped : s.jobState ctx = jobStopped) : s.writeJobCtl fn ctx w =
      (s.setFld .RED_JOB_STAT_STATE ctx 0 jobIdle).setFld .RED_JOB_STAT_STOP_CAUSE ctx 0 0 := by
  have hkeeps : ¬ bit w.toNat 0 = true := by rw [hno]; decide
  rw [State.writeJobCtl, if_pos ⟨hlive, howns⟩, if_neg hkeeps]
  exact if_pos ⟨hresume, hstopped⟩

/-- ABORT_STEP alone ends the step everywhere, and tells the step groups (R343). -/
theorem State.writeJobCtl_abort (habort : bit w.toNat 0 = true) (hno : bit w.toNat 1 = false) :
    s.writeJobCtl fn ctx w = s.abortStep fn .aborted true := by
  rw [State.writeJobCtl, if_pos ⟨hlive, howns⟩, if_pos habort]
  exact if_neg (by rw [hno]; exact fun h => absurd h.1 (by decide))

end JobControl

/-- Settles O15: each command is run on the bucket, vote or job that its clause names; none of its guards holds it back. -/
theorem reductionCommandsComplete : Obligations.ReductionCommandsComplete := by
  refine ⟨?bucketStart, ?bucketComplete, ?lateComplete, ?bucketDeadline, ?voteTimeout, ?redResume, ?redAbortStep⟩
  case bucketStart =>
    intro ctx b s hrunning hindex hfull hnew horder hroom hrows
    exact execBucketStart_begins hrunning hindex hfull hnew horder hroom hrows
  case bucketComplete =>
    intro ctx b ts s htrailers hstarted hopen hsent hwritten htimely hclose
    exact execBucketComplete_onTime htrailers hstarted hopen hsent hwritten htimely hclose
  case lateComplete =>
    intro ctx b ts s htrailers hstarted hopen hsent hwritten hlate
    exact execBucketComplete_late htrailers hstarted hopen hsent hwritten hlate
  case bucketDeadline =>
    intro ctx b s hrunning hstarted hopen htimely hset hmissing
    exact if_pos ⟨hrunning, hstarted, hopen, htimely, hset, hmissing⟩
  case voteTimeout =>
    rintro ctx _ s hvoting hopen rfl
    exact if_pos ⟨hvoting, hopen⟩
  case redResume =>
    intro fn ctx w s hlive howns hno hresume hstopped
    exact congrArg Host.Outcome.next (State.writeJobCtl_resume hlive howns hno hresume hstopped)
  case redAbortStep =>
    intro fn ctx w s hlive howns habort hno
    exact congrArg Host.Outcome.next (State.writeJobCtl_abort hlive howns habort hno)

end Sys2Proof.Machine

/-! ## What commands leave unchanged, chapter by chapter -/

namespace Sys2Proof.Machine
open Sys2Proof

/-- Every portion of a state is as it is. -/
theorem same_refl (x : Portion) (s : State) : same x s s := by
  cases x
  case optim | mem => exact fun _ => rfl
  case block => exact fun _ _ _ _ => rfl
  case egress | actions | lanes | mctp | armed => exact ⟨rfl, rfl⟩
  all_goals rfl

/-- The portions that a list does not name. -/
def outside (l : List Portion) (x : Portion) : Bool := !l.contains x

/-- What a list names is not outside it. -/
theorem outside_listed {l : List Portion} {x : Portion} (hx : x ∈ l) : outside l x = false := by
  rw [outside, List.contains_iff_mem.2 hx]
  rfl

/-- A sound state has every portion as it has it. -/
theorem Sound.keptSelf {s : State} (h : Sound s) (H : Portion → Bool) : Kept s.pkg s.pending H s s :=
  ⟨rfl, rfl, h, fun x _ => same_refl x s⟩

/-- A command that goes on from a sound state leaves every portion that `touches` does not list for it as it was. -/
theorem exec_frame {c : Instr} {s t : State} (h : Sound s) (e : exec c s = .next t) {x : Portion}
    (hx : (touches c).contains x = false) : same x s t :=
  (exec_kept (fun _ => outside_listed) (h.keptSelf (outside (touches c))) t e).same x (by rw [outside, hx]; rfl)

/-- Settles O33: the frame of every command, for those of chapter 01. -/
theorem straitsCommandsFrame : Obligations.StraitsCommandsFrame :=
  fun _ _ _ _ h e _ hx => exec_frame h e hx

/-- Settles O34: the frame of every command, for those of chapter 02. -/
theorem imageCommandsFrame : Obligations.ImageCommandsFrame :=
  fun _ _ _ _ h e _ hx => exec_frame h e hx

/-- Settles O35: the frame of every command, for those of chapter 03. -/
theorem isletCommandsFrame : Obligations.IsletCommandsFrame :=
  fun _ _ _ _ h e _ hx => exec_frame h e hx

/-- Settles O36: the frame of every command, for those of chapter 04. -/
theorem matrixCommandsFrame : Obligations.MatrixCommandsFrame :=
  fun _ _ _ _ h e _ hx => exec_frame h e hx

/-- Settles O37: the frame of every command, for those of chapter 05. -/
theorem vectorCommandsFrame : Obligations.VectorCommandsFrame :=
  fun _ _ _ _ h e _ hx => exec_frame h e hx

/-- Settles O38: the frame of every command, for those of chapter 06. -/
theorem passCommandsFrame : Obligations.PassCommandsFrame :=
  fun _ _ _ _ h e _ hx => exec_frame h e hx

/-- Settles O39: the frame of every command, for those of chapter 07. -/
theorem memoryCommandsFrame : Obligations.MemoryCommandsFrame :=
  fun _ _ _ _ h e _ hx => exec_frame h e hx

/-- Settles O40: the frame of every command, for those of chapter 08. -/
theorem reefCommandsFrame : Obligations.ReefCommandsFrame :=
  fun _ _ _ _ h e _ hx => exec_frame h e hx

/-- Settles O41: the frame of every command, for those of chapter 09. -/
theorem linkCommandsFrame : Obligations.LinkCommandsFrame :=
  fun _ _ _ _ h e _ hx => exec_frame h e hx

/-- Settles O42: the frame of every command, for those of chapter 10. -/
theorem reductionCommandsFrame : Obligations.ReductionCommandsFrame :=
  fun _ _ _ _ h e _ hx => exec_frame h e hx

/-- Settles O43: the frame of every command, for those of chapter 11. -/
theorem optimiserCommandsFrame : Obligations.OptimiserCommandsFrame :=
  fun _ _ _ _ h e _ hx => exec_frame h e hx

/-- Settles O44: the frame of every command, for those of chapter 12 and REGISTER_WRITE. -/
theorem serviceCommandsFrame : Obligations.ServiceCommandsFrame :=
  fun _ _ _ _ h e _ hx => exec_frame h e hx

/-- Settles O45: the frame of every command, for those of chapter 13. -/
theorem partitionCommandsFrame : Obligations.PartitionCommandsFrame :=
  fun _ _ _ _ h e _ hx => exec_frame h e hx

/-- Settles O46: the frame of every command, for those of chapter 14. -/
theorem harbourCommandsFrame : Obligations.HarbourCommandsFrame :=
  fun _ _ _ _ h e _ hx => exec_frame h e hx

/-- Settles O47: the frame of every command, for those of chapter 15. -/
theorem pinCommandsFrame : Obligations.PinCommandsFrame :=
  fun _ _ _ _ h e _ hx => exec_frame h e hx

end Sys2Proof.Machine

/-! ## A step and the front of the queue -/

namespace Sys2Proof.Machine
open Sys2Proof

/-- Settles O26: the step takes the front command from the queue that waits. -/
theorem stepRunsTheFrontCommand : Obligations.StepRunsTheFrontCommand := by
  intro c rest s hwait
  rw [step, hwait]

/-- Settles O28: no row of the command table has bits, so nothing is fetched for a word. -/
theorem noWordSpellsACommand : Obligations.NoWordSpellsACommand := by
  intro n w s
  have hnone : decodeTableWord n w = none := rfl
  exact ⟨hnone, by rw [State.withFetchWord, hnone]⟩

end Sys2Proof.Machine

/-! ## The command die -/

namespace Sys2Proof.Machine
open Sys2Proof

/-- The bits listed as set are the set bits below the bound. -/
theorem mem_setBits {w n k : Nat} : k ∈ setBits w n ↔ k < n ∧ bit w k = true := by
  rw [setBits, List.mem_filter, List.mem_range]

/-- The first bit listed as set is the lowest. -/
theorem setBits_head_le {w n a k : Nat} {rest : List Nat} (h : setBits w n = a :: rest) (hk : k < n)
    (hset : bit w k = true) : a ≤ k := by
  have rising : (a :: rest).Pairwise (· < ·) := h ▸ List.Pairwise.filter _ List.pairwise_lt_range
  have hmem : k ∈ a :: rest := h ▸ mem_setBits.2 ⟨hk, hset⟩
  rcases List.mem_cons.1 hmem with rfl | hlater
  · exact Nat.le_refl k
  · exact Nat.le_of_lt ((List.pairwise_cons.1 rising).1 k hlater)

/-- A function with no atoll has command die 0. -/
theorem State.commandDie_none {s : State} {fn : Nat} (h : ∀ a, a < 24 → bit (s.atollsOf fn) a = false) :
    s.commandDie fn = 0 := by
  have hnil : setBits (s.atollsOf fn) 24 = [] := List.filter_eq_nil_iff.2 fun a ha => by
    rw [h a (List.mem_range.1 ha)]
    decide
  rw [State.commandDie, hnil]

/-- The command die of a function with an atoll is that of its lowest (R375). -/
theorem State.commandDie_lowest {s : State} {fn a : Nat} (ha : a < 24) (hset : bit (s.atollsOf fn) a = true) :
    ∃ b, b < 24 ∧ bit (s.atollsOf fn) b = true ∧ s.commandDie fn = b / 6 ∧ b ≤ a := by
  cases h : setBits (s.atollsOf fn) 24 with
  | nil => exact absurd (h ▸ mem_setBits.2 ⟨ha, hset⟩) List.not_mem_nil
  | cons b rest =>
    obtain ⟨hb, hbit⟩ := mem_setBits.1 (h ▸ List.mem_cons_self : b ∈ setBits (s.atollsOf fn) 24)
    exact ⟨b, hb, hbit, by rw [State.commandDie, h], setBits_head_le h ha hset⟩

/-- The package has four dies. -/
theorem State.commandDie_lt (s : State) (fn : Nat) : s.commandDie fn < 4 := by
  by_cases h : ∀ a, a < 24 → bit (s.atollsOf fn) a = false
  · rw [State.commandDie_none h]
    decide
  · push Not at h
    obtain ⟨a, ha, hset⟩ := h
    obtain ⟨b, hb, -, hdie, -⟩ := State.commandDie_lowest ha (eq_true_of_ne_false hset)
    omega

/-- The window of a function shows its SVC_INFO with the command die in bits 17-16. -/
theorem State.readRegister_svcInfo {s : State} {fn : Nat} (hf : fn ≠ 0) :
    s.readRegister fn 0x800000 = BitVec.ofNat 64 (s.commandDie fn * 2 ^ 16 + 0x40) := by
  have hat : regAt 0x800000 = some (.SVC_INFO, 0, 0) := by decide
  have hshows : s.shows fn .SVC_INFO (ownIndex .SVC_INFO fn 0) 0 = true := bne_iff_ne.2 hf
  have hmask : ∀ d, d < 4 → (d * 2 ^ 16 + 0x40) &&& fieldMask .SVC_INFO = d * 2 ^ 16 + 0x40 := by decide
  rw [State.readRegister_some hat, if_pos hshows]
  simp only [State.windowWord, State.shownOf, hmask _ (s.commandDie_lt fn)]

/-- Settles O51: the first set bit of the granted atolls is the lowest, and the window shows its die. -/
theorem commandDieIsLowest : Obligations.CommandDieIsLowest := by
  intro s fn
  refine ⟨State.commandDie_none, ?_, fun hf => ⟨s.commandDie_lt fn, State.readRegister_svcInfo hf⟩⟩
  intro a ha hset
  obtain ⟨b, hb, hbit, hdie, hle⟩ := State.commandDie_lowest ha hset
  exact ⟨hdie ▸ Nat.div_le_div_right hle, b, hb, hbit, hdie⟩

end Sys2Proof.Machine

/-! ## Boundary scan -/

namespace Sys2Proof.Machine
open Sys2Proof

/-- The boundary-scan instructions that act only while RESET_N is low (R480). -/
def scanOps : List JtagOp := [.extest, .clamp, .highz, .extestPulse, .extestTrain]

/-- What loading a boundary-scan instruction comes to: the port holds the instruction and its cells as before, and nothing else
of the state but the count of free values has changed; with RESET_N high only the instruction has. -/
structure ScanLoaded (s t : State) (op : JtagOp) : Prop where
  rest : { t with jtag := s.jtag, freeCtr := s.freeCtr } = s
  loads : t.jtag.op = op
  cells : t.jtag.cells = s.jtag.cells
  pins : t.pins = s.pins
  high : s.pins.resetN = true → t = s.jtagLoad op

/-- An instruction that captures nothing from the lands. -/
theorem State.jtagLoad_loaded (s : State) (op : JtagOp) : ScanLoaded s (s.jtagLoad op) op :=
  ⟨rfl, rfl, rfl, rfl, fun _ => rfl⟩

/-- An instruction that captures the lands, where it acts. -/
theorem State.jtagExtest_loaded (s : State) {op : JtagOp} (hop : op.needsReset = true) : ScanLoaded s (s.jtagExtest op) op := by
  unfold State.jtagExtest
  dsimp only
  split
  · exact s.jtagLoad_loaded op
  · next hacts =>
    refine ⟨rfl, rfl, rfl, rfl, fun hhigh => absurd ?_ hacts⟩
    have hneeds : ((s.jtagLoad op).jtag.op.needsReset && (s.jtagLoad op).pins.resetN) = true := by
      rw [Bool.and_eq_true]
      exact ⟨hop, hhigh⟩
    rw [State.jtagActs, if_pos hneeds]

/-- While RESET_N is low the port acts by the loaded instruction. -/
theorem ScanLoaded.acts_low {s t : State} {op : JtagOp} (h : ScanLoaded s t op) (hlow : s.pins.resetN = false) :
    t.jtagActs = op := by
  rw [State.jtagActs, h.pins, hlow, Bool.and_false, if_neg Bool.false_ne_true, h.loads]

/-- While RESET_N is high it acts as BYPASS. -/
theorem ScanLoaded.acts_high {s t : State} {op : JtagOp} (h : ScanLoaded s t op) (hop : op.needsReset = true)
    (hhigh : s.pins.resetN = true) : t.jtagActs = .bypass := by
  rw [State.jtagActs, h.pins, hhigh, h.loads, hop]
  rfl

/-- HIGHZ releases the lands; the other boundary-scan instructions drive them from the boundary cells. -/
theorem jtagDrives_scan {t : State} {op : JtagOp} (hop : op ∈ scanOps) (hacts : t.jtagActs = op) :
    t.jtagDrives = if op = .highz then .released else .cells t.jtag.cells := by
  simp only [scanOps, List.mem_cons, List.not_mem_nil, or_false] at hop
  rcases hop with rfl | rfl | rfl | rfl | rfl <;> rw [State.jtagDrives, hacts] <;> rfl

/-- Settles O52: each of the five commands loads its instruction, and whether the port acts by it is up to RESET_N. -/
theorem boundaryScanActsOnlyInReset : Obligations.BoundaryScanActsOnlyInReset := by
  intro s c hc
  have loaded : c.2 ∈ scanOps ∧ c.2.needsReset = true ∧ ∃ t, exec c.1 s = .next t ∧ ScanLoaded s t c.2 := by
    simp only [List.mem_cons, List.not_mem_nil, or_false] at hc
    rcases hc with rfl | rfl | rfl | rfl | rfl
    · exact ⟨by decide, rfl, _, rfl, s.jtagExtest_loaded rfl⟩
    · exact ⟨by decide, rfl, _, rfl, s.jtagLoad_loaded _⟩
    · exact ⟨by decide, rfl, _, rfl, s.jtagLoad_loaded _⟩
    · exact ⟨by decide, rfl, _, rfl, s.jtagExtest_loaded rfl⟩
    · exact ⟨by decide, rfl, _, rfl, s.jtagExtest_loaded rfl⟩
  obtain ⟨hscan, hneeds, t, ht, h⟩ := loaded
  refine ⟨t, ht, h.rest, h.loads, h.cells, fun hlow => ⟨h.acts_low hlow, ?_⟩, fun hhigh => ⟨h.high hhigh, h.acts_high hneeds hhigh, ?_, ?_⟩⟩
  · rw [jtagDrives_scan hscan (h.acts_low hlow), h.cells]
  · rw [State.jtagCapture, h.acts_high hneeds hhigh]
  · rw [State.jtagDrives, h.acts_high hneeds hhigh]

end Sys2Proof.Machine

/-! ## The journal's commits -/

namespace Sys2Proof.Machine
open Sys2Proof

/-- A record that is committed, and what is asked for meanwhile: the log of `s` has grown by `done`, and `done` with the records
that wait in `t` is what waited in `s`, with more behind. -/
structure Commits (s t : State) (done : List JournalRecord) : Prop where
  log : t.jnl.log = s.jnl.log ++ done
  queue : ∃ more, done ++ t.jqueue = s.jqueue ++ more

/-- Nothing is committed and nothing asked for. -/
theorem sameLog.commits {s t : State} (h : sameLog s t) : Commits s t [] :=
  ⟨by rw [h.2, List.append_nil], [], by rw [h.1, List.nil_append, List.append_nil]⟩

/-- What goes before a commit with the same journal leaves the commit the same. -/
theorem Commits.after {s t u : State} {done : List JournalRecord} (h : sameLog s t) (k : Commits t u done) : Commits s u done := by
  obtain ⟨more, hmore⟩ := k.queue
  exact ⟨h.2 ▸ k.log, more, h.1 ▸ hmore⟩

/-- A committed FW_STAGED record changes the firmware slots alone. -/
theorem sameLog_fwCommits (s : State) (r : JournalRecord) : sameLog s (s.fwCommits r) := by
  unfold State.fwCommits
  split <;> exact ⟨rfl, rfl⟩

/-- A record that finds room joins the committed log at its end (R457). -/
theorem State.appendRecord_log {s t : State} {r : JournalRecord} (h : s.appendRecord r = some t) :
    t.jnl.log = s.jnl.log ++ [r] ∧ ∃ more, t.jqueue = s.jqueue ++ more := by
  unfold State.appendRecord at h
  split at h
  · cases h
  · next u hroom =>
    have hu : sameLog s u := by
      split at hroom
      · cases hroom
        exact .refl s
      · exact sameLog_nextSegment s u _ hroom
    have hv : sameLog (u.modJnl (fun j => j.append r)) (((u.modJnl (fun j => j.append r)).jnlStat).fwCommits r) :=
      (sameLog_jnlStat _).trans (sameLog_fwCommits _ r)
    have hlog : (((u.modJnl (fun j => j.append r)).jnlStat).fwCommits r).jnl.log = s.jnl.log ++ [r] :=
      hv.2.trans (congrArg (· ++ [r]) hu.2)
    have hqueue : (((u.modJnl (fun j => j.append r)).jnlStat).fwCommits r).jqueue = s.jqueue := hv.1.trans hu.1
    dsimp only at h
    split at h
    · cases h
      obtain ⟨more, hq, hl⟩ := startCompaction_queues (((u.modJnl (fun j => j.append r)).jnlStat).fwCommits r)
      exact ⟨hl.trans hlog, more, by rw [hq, hqueue]⟩
    · cases h
      exact ⟨hlog, [], by rw [hqueue, List.append_nil]⟩

/-- A commit takes the first waiting record, or none (R457). -/
theorem State.commitNext_commits (s : State) :
    Commits s s.commitNext [] ∨ ∃ r rest, s.jqueue = r :: rest ∧ Commits s s.commitNext [r] := by
  unfold State.commitNext
  split
  · exact .inl (sameLog.refl s).commits
  · next r rest hwait =>
    split
    · exact .inl (sameLog.refl s).commits
    · cases happend : ({ s with jqueue := rest } : State).appendRecord r with
      | none => exact .inl (sameLog.refl s).commits
      | some t =>
        obtain ⟨hlog, more, hqueue⟩ := State.appendRecord_log happend
        refine .inr ⟨r, rest, hwait, hlog, more, ?_⟩
        rw [Option.getD_some, hqueue, hwait]
        rfl

/-- Settles O53: a failing block retires its segment, which leaves log and queue as they are; then the first record is taken. -/
theorem journalCommitsInOrder : Obligations.JournalCommitsInOrder := by
  intro s t bad e
  rw [exec_journalCommit, execJournalCommit] at e
  split at e
  · cases e
    exact ⟨.inl rfl, ⟨[], by simp⟩, fun _ => rfl⟩
  · next hopen =>
    cases e
    have hseg : sameLog s (if bad then s.retireSegment else s) := by
      split
      · exact sameLog_retireSegment s
      · exact .refl s
    have hstays (h : s.pins.tripped = true ∨ s.heldInReset = true) : (if bad then s.retireSegment else s).commitNext = s :=
      absurd (.inr h) hopen
    rcases (if bad then s.retireSegment else s).commitNext_commits with h | ⟨r, rest, hwait, h⟩
    · obtain ⟨hlog, more, hqueue⟩ := Commits.after hseg h
      rw [List.append_nil] at hlog
      refine ⟨.inl hlog, ⟨more, ?_⟩, hstays⟩
      rw [hlog, List.drop_length]
      exact hqueue.symm
    · obtain ⟨hlog, more, hqueue⟩ := Commits.after hseg h
      refine ⟨.inr ⟨r, rest, hseg.1 ▸ hwait, hlog⟩, ⟨more, ?_⟩, hstays⟩
      rw [hlog, List.drop_left]
      exact hqueue.symm

end Sys2Proof.Machine

/-! ## Grants of the lead token -/

namespace Sys2Proof.Machine
open Sys2Proof

/-- Writing one value at each key of a list. -/
theorem storeGet_foldl_storeSet (l : List Nat) (st : Store Nat) (v k : Nat) :
    storeGet 0 (l.foldl (fun st j => storeSet 0 st j v) st) k = if k ∈ l then v else storeGet 0 st k := by
  induction l generalizing st with
  | nil => rfl
  | cons j l ih =>
    rw [List.foldl_cons, ih, storeGet_storeSet]
    by_cases hk : k ∈ l
    · rw [if_pos hk, if_pos (List.mem_cons_of_mem j hk)]
    · rw [if_neg hk]
      simp only [List.mem_cons, hk, or_false]

/-- The epochs of the dies where those of a list that do not restart have a new one. -/
def epochsGiven (restarting : List Nat) (e : Nat) (dies : List Nat) (st : Store Nat) : Store Nat :=
  (dies.filter (fun d => !restarting.contains d)).foldl (fun st d => storeSet 0 st d e) st

/-- A listed die that does not restart has the new epoch. -/
theorem storeGet_epochsGiven {restarting dies : List Nat} {e d : Nat} {st : Store Nat} (hd : d ∈ dies)
    (hr : restarting.contains d = false) : storeGet 0 (epochsGiven restarting e dies st) d = e := by
  rw [epochsGiven, storeGet_foldl_storeSet, if_pos]
  exact List.mem_filter.2 ⟨hd, by rw [hr]; rfl⟩

/-- Telling a half its epoch changes the epochs of its dies, and strait traffic (R440). -/
theorem State.distribute_eq (s : State) (west : Bool) (e : Nat) : ∃ lanes, s.distribute west e =
    { s with lanes := lanes
             lead := { s.lead with dieEpoch := epochsGiven s.restarting e (halfDies west) s.lead.dieEpoch } } := by
  unfold State.distribute
  generalize halfDies west = dies
  induction dies generalizing s with
  | nil => exact ⟨s.lanes, rfl⟩
  | cons d dies ih =>
    rw [List.foldl_cons]
    obtain ⟨l, hl⟩ := s.straitOffer_lanes (s.lead.leader west) d 2 1
    rw [hl]
    dsimp only
    by_cases hr : s.restarting.contains d = true
    · rw [if_pos hr]
      obtain ⟨m, hm⟩ := ih { s with lanes := l }
      exact ⟨m, hm.trans (by simp only [epochsGiven, List.filter_cons, hr, Bool.not_true, Bool.false_eq_true, if_false])⟩
    · rw [if_neg hr]
      obtain ⟨m, hm⟩ := ih (({ s with lanes := l } : State).setDieEpoch d e)
      refine ⟨m, hm.trans ?_⟩
      simp only [epochsGiven, List.filter_cons, hr, Bool.not_false, if_true, List.foldl_cons]
      rfl

/-- Messages from the harbour to a list of dies are strait traffic. -/
theorem State.foldl_straitOffer_lanes (s : State) (dies : List Nat) :
    ∃ lanes, dies.foldl (fun s d => s.straitOffer 16 d 2 1) s = { s with lanes := lanes } := by
  induction dies generalizing s with
  | nil => exact ⟨s.lanes, rfl⟩
  | cons d dies ih =>
    obtain ⟨l, hl⟩ := s.straitOffer_lanes 16 d 2 1
    rw [List.foldl_cons, hl]
    exact ih { s with lanes := l }

/-- Strait traffic touches no field. -/
@[simp] theorem State.fld_lanes (s : State) (lanes : Store Lane) (f : Fld) (a b : Nat) :
    ({ s with lanes := lanes } : State).fld f a b = s.fld f a b := rfl

/-- The epoch after one: 0 is never granted (R438). -/
def nextEpoch (e : Nat) : Nat := if e = 0xFFFF then 1 else e + 1

theorem nextEpoch_pos (e : Nat) : nextEpoch e ≠ 0 := by
  unfold nextEpoch
  split <;> omega

theorem nextEpoch_lt {e : Nat} (h : e < 2 ^ 16) : nextEpoch e < 2 ^ 16 := by
  unfold nextEpoch
  split <;> omega

/-- The first part of a grant, but for strait traffic. -/
theorem State.grantBegins_eq (s : State) (west : Bool) : ∃ lanes, s.grantBegins west =
    { (s.modLead (fun l => { l with
        granting := some (west, s.count 16)
        gateEpoch := s.reachedGates.foldl (fun g d => storeSet 0 g d (nextEpoch (s.fld .HBR_LEAD_EPOCH))) l.gateEpoch
        })).setFld .HBR_LEAD_EPOCH 0 0 (nextEpoch (s.fld .HBR_LEAD_EPOCH)) with lanes := lanes } :=
  State.foldl_straitOffer_lanes _ _

/-- What the first part of a grant comes to: EPOCH and the gates that can be reached have the new epoch (R438). -/
structure GrantBegun (s t : State) (west : Bool) : Prop where
  epoch : t.fld .HBR_LEAD_EPOCH = nextEpoch (s.fld .HBR_LEAD_EPOCH)
  lead : t.lead = { s.lead with
    granting := some (west, s.count 16)
    gateEpoch := s.reachedGates.foldl (fun g d => storeSet 0 g d (nextEpoch (s.fld .HBR_LEAD_EPOCH))) s.lead.gateEpoch }
  restarting : t.restarting = s.restarting
  gatesHold : t.gatesHold = s.gatesHold

theorem State.grantBegins_begun (s : State) (west : Bool) : GrantBegun s (s.grantBegins west) west := by
  obtain ⟨lanes, h⟩ := s.grantBegins_eq west
  have hcarries (n : Nat) : (s.grantBegins west).straitCarries n = s.straitCarries n := by
    have hstate : (s.grantBegins west).straitState n = s.straitState n := by
      rw [h, State.straitState, State.fld_lanes, State.fld_setFld_ne _ _ _ _ _ _ _ _ (by decide)]
      rfl
    rw [State.straitCarries, State.straitCarries, hstate]
  refine ⟨?_, ?_, ?_, ?_⟩
  · rw [h, State.fld_lanes, State.fld_setFld_self _ _ _ _ _ rfl]
    exact Nat.mod_eq_of_lt (nextEpoch_lt (State.fld_lt s .HBR_LEAD_EPOCH 0 0))
  · rw [h]
    rfl
  · rw [h]
    rfl
  · have hreached : (s.grantBegins west).reachedGates = s.reachedGates := by
      simp only [State.reachedGates, hcarries]
    rw [State.gatesHold, State.gatesHold, hreached, h]
    rfl

/-- The gates have the new epoch where they can be reached, and their old one elsewhere. -/
theorem GrantBegun.gateEpoch {s t : State} {west : Bool} (h : GrantBegun s t west) {d : Nat} (hd : d < 4) :
    storeGet 0 t.lead.gateEpoch d =
      if s.straitCarries (18 + d) = true then nextEpoch (s.fld .HBR_LEAD_EPOCH) else storeGet 0 s.lead.gateEpoch d := by
  have hmem : d ∈ s.reachedGates ↔ s.straitCarries (18 + d) = true := by
    rw [State.reachedGates, List.mem_filter]
    refine ⟨fun ⟨_, hc⟩ => hc, fun hc => ⟨?_, hc⟩⟩
    simp only [List.mem_cons, List.not_mem_nil, or_false]
    omega
  rw [h.lead]
  dsimp only
  rw [storeGet_foldl_storeSet]
  simp only [hmem]

/-- What the rest of a grant comes to: the half has the token and its dies the epoch (R438, R440). -/
structure GrantEnded (s t : State) (west : Bool) : Prop where
  holder : t.lead.holder = some west
  granting : t.lead.granting = none
  shown : t.fld .HBR_LEAD_HOLDER = if west then 2 else 1
  dies : ∀ d ∈ halfDies west, s.restarting.contains d = false → storeGet 0 t.lead.dieEpoch d = s.fld .HBR_LEAD_EPOCH
  gateEpoch : t.lead.gateEpoch = s.lead.gateEpoch
  epoch : t.fld .HBR_LEAD_EPOCH = s.fld .HBR_LEAD_EPOCH
  counts : t.counts = s.counts

/-- The token and the half's name shown, and its leader told. -/
def State.leadNamed (s : State) (west : Bool) : State :=
  let rest := s.lead.wants.erase west
  let s := s.modLead (fun l => { l with holder := some west, granting := none, wants := rest, asked := rest ≠ [], askedAt := s.count 16 })
  (s.setFld .HBR_LEAD_HOLDER 0 0 (if west then 2 else 1)).straitOffer 16 (s.lead.leader west) 2 1

theorem State.leadGranted_eq (s : State) (west : Bool) : s.leadGranted west =
    ((s.leadNamed west).distribute west ((s.leadNamed west).fld .HBR_LEAD_EPOCH)).leadResume west := rfl

/-- What waited for the token goes on beside the token itself, HBR_LEAD and the counts. -/
theorem State.leadResume_lead {s : State} (h : Sound s) (west : Bool) : (s.leadResume west).lead = s.lead ∧
    (s.leadResume west).counts = s.counts ∧ ∀ f : Fld, f.reg = .HBR_LEAD → (s.leadResume west).fld f = s.fld f := by
  have k := State.leadResume_kept (west := west) (fun _ => outside_listed)
    (h.keptSelf (outside [.fns, .optim, .actions, .lanes]))
  refine ⟨k.same .lead rfl, k.same .counts rfl, fun f hf => ?_⟩
  rw [State.fld_eq, State.fld_eq, k.same (.block .hbr) rfl f.reg 0 0 (by rw [hf]; rfl)]

theorem State.leadGranted_ended {s : State} (h : Sound s) (west : Bool) : GrantEnded s (s.leadGranted west) west := by
  have hn : ∃ lanes, s.leadNamed west = { (s.modLead (fun l => { l with
      holder := some west
      granting := none
      wants := s.lead.wants.erase west
      asked := s.lead.wants.erase west ≠ []
      askedAt := s.count 16 })).setFld .HBR_LEAD_HOLDER 0 0 (if west then 2 else 1) with lanes := lanes } :=
    State.straitOffer_lanes _ _ _ _ _
  obtain ⟨lanes, hn⟩ := hn
  have hholder : (s.leadNamed west).fld .HBR_LEAD_HOLDER = if west then 2 else 1 := by
    rw [hn, State.fld_lanes, State.fld_setFld_self _ _ _ _ _ rfl]
    cases west <;> rfl
  have hepoch : (s.leadNamed west).fld .HBR_LEAD_EPOCH = s.fld .HBR_LEAD_EPOCH := by
    rw [hn, State.fld_lanes, State.fld_setFld_disjoint _ .HBR_LEAD_HOLDER .HBR_LEAD_EPOCH _ _ _ rfl rfl (.inr (by decide)) rfl]
    rfl
  obtain ⟨lanes', hd⟩ := (s.leadNamed west).distribute_eq west (s.fld .HBR_LEAD_EPOCH)
  have hsound : Sound ((s.leadNamed west).distribute west (s.fld .HBR_LEAD_EPOCH)) :=
    (State.distribute_kept (fun _ _ => rfl) (State.straitOffer_kept (fun _ _ => rfl)
      (State.setFld_kept rfl rfl (State.modLead_kept (fun _ _ => rfl) h.kept)))).sound
  obtain ⟨hlead, hcounts, hfld⟩ := State.leadResume_lead hsound west
  rw [State.leadGranted_eq, hepoch]
  refine ⟨?_, ?_, ?_, ?_, ?_, ?_, ?_⟩
  · rw [hlead, hd, hn]; rfl
  · rw [hlead, hd, hn]; rfl
  · rw [hfld .HBR_LEAD_HOLDER rfl, hd]
    exact hholder
  · intro d hmem hr
    rw [hlead, hd, hn]
    exact storeGet_epochsGiven hmem hr
  · rw [hlead, hd, hn]; rfl
  · rw [hfld .HBR_LEAD_EPOCH rfl, hd]
    exact hepoch
  · rw [hcounts, hd, hn]; rfl

/-- A half that waits for the FREE token and has a leader: its grant begins, and ends at once where no gate holds an action. -/
theorem execLeadGrant_begins {s : State} {west : Bool} {rest : List Bool} (hfree : s.lead.holder = none)
    (hnone : s.lead.granting = none) (hwants : s.lead.wants = west :: rest) (hleader : s.lead.leader west < 4) :
    execLeadGrant s = .next (if s.gatesHold then s.grantBegins west else (s.grantBegins west).leadGranted west) := by
  rw [execLeadGrant, hfree, hnone, hwants]
  dsimp only
  rw [if_neg (Nat.not_le.2 hleader), (s.grantBegins_begun west).gatesHold]

/-- A grant under way ends, after 20 µs at most (R440). -/
theorem execLeadGrant_ends {s : State} {west : Bool} {c : Nat} (hfree : s.lead.holder = none)
    (hgranting : s.lead.granting = some (west, c)) (hleader : s.lead.leader west < 4) :
    execLeadGrant s = .next ((if s.gatesHold then s.reachCount 16 (c + 20000) else s).leadGranted west) := by
  rw [execLeadGrant, hfree, hgranting]
  dsimp only
  rw [if_neg (Nat.not_le.2 hleader)]

/-- The gates that can be reached are those of the four dies whose harbour straits carry. -/
theorem State.gatesHold_eq (s : State) : s.gatesHold = s.actions.any (fun e => [0, 1, 2, 3].any (fun d =>
    decide (d < 4) && s.straitCarries (18 + d) && e.2.holding.any (fun h => h.1 == d))) := by
  simp only [State.gatesHold, State.reachedGates, List.any_filter]
  rfl

/-- The count of an island that has come to a count. -/
theorem State.count_reachCount (s : State) (i c : Nat) : (s.reachCount i c).count i = max (s.count i) (c + 1) % 2 ^ 64 := by
  rw [State.reachCount, State.setCount, State.count, storeGet_storeSet_self]

/-- Settles O55: a grant begins, with EPOCH and the gates written, and ends, with the holder and its dies told; the two come as one
event where no gate holds an action. -/
theorem grantAdvancesTheEpoch : Obligations.GrantAdvancesTheEpoch := by
  unfold Obligations.GrantAdvancesTheEpoch
  intro held granted
  refine ⟨?_, ?_⟩
  · intro s west rest hsound hfree hnone hwants hleader new
    have hheld : held s = s.gatesHold := s.gatesHold_eq.symm
    have b := s.grantBegins_begun west
    rw [exec_leadGrant, execLeadGrant_begins hfree hnone hwants hleader, hheld]
    by_cases hhold : s.gatesHold = true
    · simp only [if_pos hhold]
      refine ⟨_, rfl, b.epoch, nextEpoch_pos _, fun d hd => b.gateEpoch hd, ?_, ?_, ?_⟩
      all_goals rw [b.lead]
      exact hfree
    · simp only [if_neg hhold]
      have hs : Sound (s.grantBegins west) := (State.grantBegins_kept (fun _ _ => rfl) hsound.kept).sound
      have g := State.leadGranted_ended hs west
      refine ⟨_, rfl, g.epoch.trans b.epoch, nextEpoch_pos _, fun d hd => ?_, g.holder, g.granting, g.shown, fun d hd hr => ?_⟩
      · rw [g.gateEpoch]
        exact b.gateEpoch hd
      · exact (g.dies d hd (by rw [b.restarting]; exact hr)).trans b.epoch
  · intro s west c hsound hfree hgranting hleader
    have hheld : held s = s.gatesHold := s.gatesHold_eq.symm
    rw [exec_leadGrant, execLeadGrant_ends hfree hgranting hleader, hheld]
    by_cases hhold : s.gatesHold = true
    · simp only [if_pos hhold]
      have hs : Sound (s.reachCount 16 (c + 20000)) := (State.reachCount_kept (fun _ _ => rfl) hsound.kept).sound
      have g := State.leadGranted_ended hs west
      refine ⟨_, rfl, g.epoch, g.gateEpoch, ⟨g.holder, g.granting, g.shown, g.dies⟩, ?_⟩
      rw [State.count, g.counts]
      exact s.count_reachCount 16 (c + 20000)
    · simp only [if_neg hhold]
      have g := State.leadGranted_ended hsound west
      refine ⟨_, rfl, g.epoch, g.gateEpoch, ⟨g.holder, g.granting, g.shown, g.dies⟩, ?_⟩
      rw [State.count, g.counts]
      rfl

end Sys2Proof.Machine

/-! ## A package warm reset -/

namespace Sys2Proof.Machine
open Sys2Proof

/-- What the reset and the boot after it change of the emptied package: nothing that functions, islets, queues or jobs hold, no
memory, and registers of JL, SEC and HBR only. -/
def bootTouches : List Portion := [.egress, .mctp, .jnl, .armed, .block .jl, .block .sec, .block .hbr]

/-- The grant registers of a function (R398). -/
def grantRegs : List Reg := [.SEC_GRANT_ATOLLS, .SEC_GRANT_RES, .SEC_GRANT_PORTS, .SEC_GRANT_ML]

/-- A register of JL, SEC or HBR that neither grants nor enables. -/
def besideGrants (r : Reg) : Bool :=
  bootTouches.contains (.block (regBlock r)) && !(Reg.SEC_GRANT_CTL :: grantRegs).contains r

/-- The package `z`, emptied by a reset, as it boots again: every function DISABLED with no grant. -/
structure Rebooted (z s : State) : Prop where
  kept : Kept z.pkg z.pending (outside bootTouches) z s
  ctl : ∀ f, isFn f = true → s.fld .SEC_GRANT_CTL_ENABLE f = 0 ∧ s.fld .SEC_GRANT_CTL_STATE f = 0
  grants : ∀ r ∈ grantRegs, ∀ f j, s.reg r f j = 0

variable {z s t : State}

/-- An operation that no register of SEC and only what a boot changes is left to. -/
theorem Rebooted.step {L : List Portion} (op : ∀ {H : Portion → Bool} {z0 : State}, (∀ x ∈ L, H x = false) →
    Kept z.pkg z.pending H z0 s → Kept z.pkg z.pending H z0 t) (h : Rebooted z s)
    (hsub : L.all (fun x => bootTouches.contains x) = true) (hsec : outside L (.block .sec) = true) : Rebooted z t := by
  have hsame : ∀ r a b, regBlock r = .sec → t.reg r a b = s.reg r a b :=
    (op (fun _ => outside_listed) ⟨h.kept.pkg, h.kept.pending, h.kept.sound, fun x _ => same_refl x s⟩).same (.block .sec) hsec
  refine ⟨op (held_sub (fun _ => outside_listed) hsub) h.kept, fun f hf => ?_, fun r hr f j => ?_⟩
  · rw [State.fld_eq, State.fld_eq, hsame _ f 0 rfl, hsame _ f 0 rfl]
    exact h.ctl f hf
  · have hblock : ∀ r ∈ grantRegs, regBlock r = .sec := by decide
    rw [hsame r f j (hblock r hr)]
    exact h.grants r hr f j

/-- A legal word in a register beside the grants. -/
theorem Rebooted.setReg (h : Rebooted z s) (r : Reg) (a b : Nat) {w : Word} (hw : wordOk r w = true)
    (hbeside : besideGrants r = true) : Rebooted z (s.setReg r a b w) := by
  simp only [besideGrants, Bool.and_eq_true, Bool.not_eq_true', ← Bool.not_eq_true, List.contains_iff_mem, List.mem_cons,
    not_or] at hbeside
  obtain ⟨hblock, hr⟩ := hbeside
  refine ⟨State.setReg_kept hw (outside_listed hblock) h.kept, fun f hf => ?_, fun q hq f j => ?_⟩
  · rw [State.fld_setReg_ne _ _ _ _ _ _ _ _ (Ne.symm hr.1), State.fld_setReg_ne _ _ _ _ _ _ _ _ (Ne.symm hr.1)]
    exact h.ctl f hf
  · rw [State.reg_setReg_ne _ _ _ _ _ _ _ _ (fun e : q = r => hr.2 (e ▸ hq))]
    exact h.grants q hq f j

/-- A field of such a register. -/
theorem Rebooted.setFld (h : Rebooted z s) (f : Fld) (a b v : Nat) (hf : f.legal = true)
    (hbeside : besideGrants f.reg = true) : Rebooted z (s.setFld f a b v) := by
  simp only [Fld.legal, Bool.and_eq_true, decide_eq_true_eq] at hf
  obtain ⟨⟨hfree, hle⟩, hfield⟩ := hf
  refine h.setReg f.reg a b ?_ hbeside
  simp only [wordOk, hfree, Bool.true_and]
  exact wordLegal_field (h.kept.sound.reg_legal f.reg a b) hfield hle

/-- The SEQ of a function's grants is beside its ENABLE and STATE. -/
theorem Rebooted.setSeq {f v : Nat} (h : Rebooted z s) (hf : isFn f = true) : Rebooted z (s.setFld .SEC_GRANT_CTL_SEQ f 0 v) := by
  simp only [isFn, Bool.and_eq_true, decide_eq_true_eq] at hf
  have beside (g : Fld) (hreg : g.reg = .SEC_GRANT_CTL) (hlow : g.hi < 32) (hg : g.fits = true) (k : Nat) (hk : isFn k = true) :
      (s.setFld .SEC_GRANT_CTL_SEQ f 0 v).fld g k = s.fld g k := by
    simp only [isFn, Bool.and_eq_true, decide_eq_true_eq] at hk
    by_cases e : k = f
    · subst e
      exact State.fld_setFld_disjoint s .SEC_GRANT_CTL_SEQ g k 0 v rfl hreg (.inr hlow) hg
    · exact State.fld_setFld_index s .SEC_GRANT_CTL_SEQ g f 0 v k 0 (.inl (by omega))
  refine ⟨State.setFld_kept rfl rfl h.kept, fun k hk => ?_, fun r hr k j => ?_⟩
  · rw [beside _ rfl (by decide) rfl k hk, beside _ rfl (by decide) rfl k hk]
    exact h.ctl k hk
  · rw [State.reg_setFld_ne _ _ _ _ _ _ _ _ (fun e : r = Fld.SEC_GRANT_CTL_SEQ.reg => absurd (e ▸ hr) (by decide))]
    exact h.grants r hr k j

/-- Fields of the state that no portion names. -/
theorem Rebooted.beside (h : Rebooted z s)
    (op : ∀ {H : Portion → Bool} {z0 : State}, Kept z.pkg z.pending H z0 s → Kept z.pkg z.pending H z0 t) : Rebooted z t :=
  h.step (L := []) (fun _ => op) rfl rfl

theorem Rebooted.foldl {α : Type} {f : State → α → State} {l : List α} (h : Rebooted z s)
    (hf : ∀ s, ∀ x ∈ l, Rebooted z s → Rebooted z (f s x)) : Rebooted z (l.foldl f s) :=
  List.foldlRecOn l f h fun s hs x hx => hf s x hx hs

theorem Rebooted.journalNow (h : Rebooted z s) (type : Nat) (p : List Byte) : Rebooted z (s.journalNow type p) :=
  h.step State.journalNow_kept rfl rfl

theorem Rebooted.hbrEvent {f : Fld} (h : Rebooted z s) (hf : f.legal = true) (hb : regBlock f.reg = .hbr) :
    Rebooted z (s.hbrEvent f) :=
  h.step (L := [.egress, .mctp, .armed, .block .jl, .block .hbr]) (fun hH =>
    State.hbrEvent_kept hf (held_one hH (by rw [hb]; rfl)) (held_sub hH rfl)) rfl rfl

theorem Rebooted.setStaged (h : Rebooted z s) (mask : Nat) : Rebooted z (s.setStaged mask) :=
  (h.setFld .HBR_FW_STAT_STAGED 0 0 mask rfl rfl).setFld .SEC_DEV_STAT_UPDATE_STAGED 0 0 (natOf (mask % 16 != 0)) rfl rfl

/-- The journal is replayed and the slots are chosen beside the grants (R450). -/
theorem Rebooted.bootStart (h : Rebooted z s) (cause : Nat) : Rebooted z (s.bootStart cause) := by
  have intents (l : List (Nat × Nat)) (s : State) (h : Rebooted z s) : Rebooted z (l.foldl (fun s e =>
      let s := { s with svn := storeSet 0 s.svn e.1 (max e.2 (storeGet 0 s.svn e.1)) }
      s.journalNow 0x21 (leBytes 1 e.1 ++ leBytes 1 e.2)) s) :=
    h.foldl fun s e _ h => (h.beside fun k => by simp only [Kept.frame_iff, and_self, true_or]; exact k).journalNow 0x21 _
  unfold State.bootStart
  dsimp only
  have base := intents (s.replayJournal.setFld .HBR_RESET_STAT_CAUSE 0 0 cause).jnl.intents _
    ((h.step State.replayJournal_kept rfl rfl).setFld .HBR_RESET_STAT_CAUSE 0 0 cause rfl rfl)
  generalize List.foldl _ _ _ = u at base ⊢
  have chosen := ((base.setStaged u.jnl.fw.staged).setFld .HBR_STAT_ACTIVE_B 0 0 u.jnl.fw.activeB rfl rfl).setFld
    .HBR_FW_STAT_LAST_TRIAL 0 0 u.jnl.fw.last rfl rfl
  split
  · exact (((chosen.setStaged 0).setFld .HBR_FW_STAT_LAST_TRIAL 0 0 2 rfl rfl).journalNow 0x32 _).hbrEvent rfl rfl
  · split
    · exact ((chosen.journalNow 0x34 _).beside fun k => by simp only [Kept.frame_iff, and_self, true_or]; exact k).setFld
        .HBR_STAT_ACTIVE_B 0 0 _ rfl rfl
    · exact chosen

/-- The record of a function changes beside its grants (R424). -/
theorem Rebooted.recordChange {f : Nat} (h : Rebooted z s) (hf : isFn f = true) : Rebooted z (s.recordChange f) :=
  ((h.beside fun k => by simp only [Kept.frame_iff, and_self, true_or]; exact k).setSeq hf).step State.journal_kept rfl rfl

/-- The package that a reset leaves: nothing in memory or in the register file. -/
theorem State.resetKept_rebooted (s : State) (warm : Bool) : Rebooted (s.resetKept warm) (s.resetKept warm) := by
  have hsound : Sound (s.resetKept warm) := ⟨rfl, rfl, rfl⟩
  refine ⟨hsound.keptSelf _, fun f _ => ⟨?_, ?_⟩, fun r hr f j => ?_⟩
  · exact (by decide : bits (plainReset .SEC_GRANT_CTL).toNat 0 1 = 0)
  · exact (by decide : bits (plainReset .SEC_GRANT_CTL).toNat 2 2 = 0)
  · have hreset : ∀ r ∈ grantRegs, plainReset r = 0 := by decide
    have hplain : resetWord s.pkg r f j = plainReset r := by
      simp only [grantRegs, List.mem_cons, List.not_mem_nil, or_false] at hr
      rcases hr with rfl | rfl | rfl | rfl <;> rfl
    exact hplain.trans (hreset r hr)

/-- What a reset carries over from the registers is beside the grants. -/
theorem State.resetBase_rebooted {s : State} (h : Sound s) : Rebooted (s.resetKept true) (s.resetBase true) := by
  have jnl := ((s.resetKept_rebooted true).setReg .HBR_JNL_STAT 0 0 (w := s.reg .HBR_JNL_STAT) (h.wordOk_self rfl) rfl).setFld
    .HBR_JNL_STAT_DROPPED 0 0 0 rfl rfl
  have trial := (jnl.setReg .HBR_JNL_SEQ 0 0 (w := s.reg .HBR_JNL_SEQ) (h.wordOk_self rfl) rfl).setFld
    .HBR_FW_STAT_LAST_TRIAL 0 0 (s.fld .HBR_FW_STAT_LAST_TRIAL) rfl rfl
  have chain := ((trial.setReg .JL_CHAIN 0 0 (w := s.reg .JL_CHAIN) (h.wordOk_self rfl) rfl).setFld
    .HBR_RESET_STAT_WARM_COUNT 0 0 (s.fld .HBR_RESET_STAT_WARM_COUNT) rfl rfl).setFld
    .SEC_DRBG_HEALTH_FAILS 0 0 (s.fld .SEC_DRBG_HEALTH_FAILS) rfl rfl
  unfold State.resetBase
  dsimp only
  rw [if_pos rfl]
  refine Rebooted.foldl chain fun t f hf k => ?_
  exact k.setSeq ((by decide : ∀ f ∈ [1, 2, 3, 4, 5, 6, 7, 8], isFn f = true) f hf)

/-- A warm reset that no trip forbids leaves a package that has booted from an emptied one (R406, R447). -/
theorem State.warmReset_rebooted {s : State} (h : Sound s) (hcool : s.pins.tripped = false) (cause : Nat) :
    Rebooted (s.portsReset.resetKept true) (s.warmReset cause) := by
  have hports : Sound s.portsReset := (State.portsReset_kept (fun _ _ => rfl) h.kept).sound
  unfold State.warmReset
  rw [if_neg (by rw [hcool]; exact Bool.false_ne_true)]
  have counted (n : Nat) : Rebooted (s.portsReset.resetKept true)
      ((s.portsReset.resetBase true).satFld .HBR_RESET_STAT_WARM_COUNT 0 0 n) :=
    (State.resetBase_rebooted hports).setFld .HBR_RESET_STAT_WARM_COUNT 0 0 _ rfl rfl
  have booted := (counted 1).bootStart cause
  dsimp only
  refine Rebooted.foldl booted fun t f hf k => ?_
  exact k.recordChange ((by decide : ∀ f ∈ [1, 2, 3, 4, 5, 6, 7, 8], isFn f = true) f hf)

/-- A write of WARM by function 0 of a READY package starts a warm reset (R447). -/
theorem State.writeResetCtl_warm {s : State} {w : Word} (hready : s.ready = true) (hwarm : bit w.toNat 0 = true) :
    s.writeResetCtl 0 w = (s.writeReg .HBR_RESET_CTL 0 0 w).warmReset 2 := by
  unfold State.writeResetCtl
  rw [if_neg (by rw [hready]; decide)]
  exact if_pos hwarm

/-- A READY package has not tripped. -/
theorem State.ready_cool {s : State} (h : s.ready = true) : s.pins.tripped = false := by
  simp only [State.ready, Bool.and_eq_true, Bool.not_eq_true'] at h
  exact h.2

/-- Settles O54: the reset empties the package and clears its grants, and the boot that follows keeps to registers and portions
beside them. -/
theorem packageResetEndsEveryFunction : Obligations.PackageResetEndsEveryFunction := by
  intro s w hsound hready hwarm
  have hwritten := State.writeReg_kept (r := .HBR_RESET_CTL) (a := 0) (b := 0) (w := w) rfl hsound.kept
  have h := State.warmReset_rebooted hwritten.sound (State.ready_cool (s := s) hready) 2
  have hports := State.portsReset_kept (fun _ _ => rfl) hwritten
  refine ⟨_, ?_, fun f hf => ⟨(h.ctl f hf).1, (h.ctl f hf).2, fun j => ⟨?_, ?_, ?_, ?_⟩⟩, h.kept.same .islets rfl, h.kept.same .fns rfl,
    h.kept.same .queues rfl, h.kept.same .jobs rfl, h.kept.same .mem rfl, fun r a b hsec hhbr hjl => ?_⟩
  · rw [exec_warmReset, execWarmReset, State.writeResetCtl_warm hready hwarm]
  · exact h.grants .SEC_GRANT_ATOLLS (by decide) f j
  · exact h.grants .SEC_GRANT_RES (by decide) f j
  · exact h.grants .SEC_GRANT_PORTS (by decide) f j
  · exact h.grants .SEC_GRANT_ML (by decide) f j
  · have hout : outside bootTouches (.block (regBlock r)) = true := by
      cases hb : regBlock r
      case sec => exact absurd hb hsec
      case hbr => exact absurd hb hhbr
      case jl => exact absurd hb hjl
      all_goals rfl
    rw [h.kept.same _ hout r a b rfl, ← hports.pkg]
    rfl

end Sys2Proof.Machine

/-! ## The optimiser -/

namespace Sys2Proof.Machine
open Sys2Proof

/-- A norm entry of a ring of the function is noted, and decides where it was the last to come (R353). -/
theorem execNormEntryAccepted_notes {fn q : Nat} {s : State} (hnorm : s.optState fn = optNorm) (hq : q < optQ (s.optCfg fn)) :
    execNormEntryAccepted fn q s = .next
      (if (s.normNotice fn q).normPresent fn then (s.normNotice fn q).normDecides fn else s.normNotice fn q) :=
  if_pos ⟨hnorm, hq⟩

section ShardUpdate
variable {fn shard : Nat} {r : List Byte} {t u : State} {w : CommitWord} {s : State}
  (hrec : (s.fnState fn).shardRec shard = some r)
include hrec

/-- An update begins with its commit word read and marked (R358). -/
theorem execShardUpdateStart_begins (hwaits : (s.opt fn).waits ≠ 1) (hmay : s.shardMayStart fn r = true)
    (hlegal : (s.fnState fn).optLegal = true) (hroom : s.prepareWrite fn (shardBase r) 32 = (t, true))
    (hword : t.readCommit fn r = (u, some w)) :
    execShardUpdateStart fn shard s = .next (u.shardBegins fn shard r w) := by
  unfold execShardUpdateStart
  rw [hrec]
  dsimp only
  rw [if_neg hwaits, if_neg (by simp [hmay]), if_neg (by simp [hlegal]), hroom]
  dsimp only
  rw [hword]

/-- A recovery that waits goes on once its pages are in place (R363). -/
theorem execShardUpdateStart_recovers (hwaits : (s.opt fn).waits = 1) (hroom : s.optRoom fn = (t, true)) :
    execShardUpdateStart fn shard s = .next (t.optRecovers fn) := by
  unfold execShardUpdateStart
  rw [hrec]
  dsimp only
  rw [if_pos hwaits, hroom]

/-- A shard whose update has run is committed (R359, R361). -/
theorem execShardCommit_commits {k : Ticket} (hticket : (s.opt fn).ticket = some k) (hran : s.shardState fn shard = 2)
    (hroom : s.shardRoom fn r (s.shardCurSlot fn r) = (t, true)) (hword : t.readCommit fn r = (u, some w)) :
    execShardCommit fn shard s = .next (u.shardCommits fn shard r k w (s.shardCurSlot fn r)) := by
  unfold execShardCommit
  rw [hrec, hticket]
  dsimp only
  rw [if_neg (not_not.2 hran), hroom]
  dsimp only
  rw [if_neg (by decide), hword]

/-- The read of a shard adds its digest; the last to come forms the function's (R365, R366). -/
theorem execShardDigestReadDone_adds {d : DigestRun} {a : Answer} (hdigest : (s.opt fn).digest = some d)
    (hwaits : d.waiting.contains shard = true)
    (hready : s.rangeReady fn (shardSlot (s.optCfg fn) r (s.shardCurSlot fn r) 0) (4 * shardN r) = true)
    (hread : s.devRead .islet fn (shardSlot (s.optCfg fn) r (s.shardCurSlot fn r) 0) (4 * shardN r) = (t, a))
    (hok : a.status = .ok) (e : DigestRun)
    (he : e = { d with waiting := d.waiting.erase shard, got := storeSet [] d.got shard (shake256 64 a.data) }) :
    execShardDigestReadDone fn shard s = .next
      (if d.waiting.erase shard ≠ [] then t.modOpt fn (fun o => { o with digest := some e }) else t.digestFormed fn e) := by
  subst he
  unfold execShardDigestReadDone
  rw [hdigest, hrec]
  dsimp only
  rw [if_neg (by rw [hwaits]; decide), if_neg (by simp [hready]), hread]
  dsimp only
  rw [if_neg (not_not.2 hok), apply_ite Host.Outcome.next]

end ShardUpdate

/-- A digest run that has its own digest ends at the close of its window (R366). -/
theorem execDigestTimeout_late {fn : Nat} {d : DigestRun} {s : State} (hdigest : (s.opt fn).digest = some d)
    (hown : d.own.isSome = true) :
    execDigestTimeout fn s = .next ((s.reachCount (s.normIsland fn) (s.digestClose fn d)).optStop fn .late) := by
  unfold execDigestTimeout
  rw [hdigest]
  exact if_pos hown

/-- A write of OPT_CTL without ADOPT does not adopt. -/
theorem State.optAdopts_clear {fn : Nat} {w : Word} {s : State} (h : bit w.toNat 1 = false) : s.optAdopts fn w = false := by
  simp [State.optAdopts, h]

/-- RECOVER alone recovers the optimiser of a function with one loaded (R363). -/
theorem State.optCtlResult_recovers {fn : Nat} {w : Word} {s : State} (hlive : s.fnLive fn = true)
    (hcfg : (s.optCfg fn).isEmpty = false) (hno : bit w.toNat 1 = false) (hrecover : bit w.toNat 0 = true)
    (hwaits : (s.opt fn).waits ≠ 2) (hnone : (s.opt fn).adopting = none) (hloaded : s.optState fn ≠ optUnloaded) :
    s.optCtlResult fn w = .next (s.optRecoverNow fn) := by
  have hadopts : s.optAdopts fn w = false := State.optAdopts_clear hno
  rw [State.optCtlResult, hadopts, Bool.false_and, if_neg Bool.false_ne_true, State.writeOptCtl, hadopts, if_neg Bool.false_ne_true,
    if_pos ⟨hlive, hcfg, hno, hrecover, hwaits, hnone, hloaded⟩]

/-- ADOPT of an optimiser at rest with sound records starts the adoption (R368). -/
theorem State.optCtlResult_adopts {fn : Nat} {w : Word} {s : State} (hadopts : s.optAdopts fn w = true)
    (hsound : s.adoptBroken fn = false) : s.optCtlResult fn w = .next (s.adoptStarts fn) := by
  rw [State.optCtlResult, hadopts, hsound, Bool.and_false, if_neg Bool.false_ne_true, State.writeOptCtl, hadopts, if_pos rfl]

/-- An adoption whose copies are all made ends (R368). -/
theorem execAdoptRegenerationDone_adopted {fn : Nat} {stale : List Nat} {t u : State} {s : State}
    (hstale : (s.opt fn).adopting = some stale)
    (hroom : s.adoptRoom fn ((s.shardList fn).filter (fun r => stale.contains (shardIndex r))) = (t, true))
    (hcopies : t.adoptCopies fn ((s.shardList fn).filter (fun r => stale.contains (shardIndex r))) = (u, .ok)) :
    execAdoptRegenerationDone fn s = .next (u.adopted fn) := by
  unfold execAdoptRegenerationDone
  rw [hstale]
  dsimp only
  rw [hroom]
  dsimp only
  rw [hcopies]

/-- An adoption that waits for its pages starts again. -/
theorem execAdoptRegenerationDone_starts {fn : Nat} {s : State} (hnone : (s.opt fn).adopting = none)
    (hwaits : (s.opt fn).waits = 2) (hsound : s.adoptBroken fn = false) :
    execAdoptRegenerationDone fn s = .next (s.adoptStarts fn) := by
  unfold execAdoptRegenerationDone
  rw [hnone]
  dsimp only
  rw [if_neg (not_not.2 hwaits), if_neg (by simp [hsound])]

/-- Settles O16: each command is run on the state that its clause describes. -/
theorem optimiserCommandsComplete : Obligations.OptimiserCommandsComplete := by
  refine ⟨?_, ?_, ?_, ?_, ?_, ?_, ?_, ?_, ?_, ?_, ?_, ?_, ?_, ?_⟩
  · intro fn q s hnorm hq hpresent
    rw [exec_normEntryAccepted, execNormEntryAccepted_notes hnorm hq, if_pos hpresent]
  · intro fn q s hnorm hq hmissing
    rw [exec_normEntryAccepted, execNormEntryAccepted_notes hnorm hq, if_neg (by simp [hmissing])]
  · intro fn s hnorm hmissing
    exact if_pos ⟨hnorm, hmissing⟩
  · intro fn shard r t u w s hrec hwaits hmay hlegal hroom hword
    exact execShardUpdateStart_begins hrec hwaits hmay hlegal hroom hword
  · intro fn shard r t s hrec hwaits hroom
    exact execShardUpdateStart_recovers hrec hwaits hroom
  · intro fn shard r k t u w s hrec hticket hran hroom hword
    exact execShardCommit_commits hrec hticket hran hroom hword
  · intro fn round s hround
    exact if_pos hround
  · intro fn d s hdigest hown
    exact execDigestTimeout_late hdigest hown
  · intro fn w s hlive hcfg hno hrecover hwaits hnone hloaded
    exact State.optCtlResult_recovers hlive hcfg hno hrecover hwaits hnone hloaded
  · intro fn w s hlive hcfg hadopt hrests hsound
    refine State.optCtlResult_adopts ?_ hsound
    simp [State.optAdopts, hlive, hcfg, hadopt, hrests]
  · intro fn shard d r t a s hdigest hrec hwaits hready hread hok hmore
    rw [exec_shardDigestReadDone, execShardDigestReadDone_adds hrec hdigest hwaits hready hread hok _ rfl, if_pos hmore]
  · intro fn shard d r t a s hdigest hrec hwaits hready hread hok hlast
    rw [exec_shardDigestReadDone, execShardDigestReadDone_adds hrec hdigest hwaits hready hread hok _ rfl,
      if_neg (not_not.2 hlast)]
  · intro fn stale t u s hstale hroom hcopies
    exact execAdoptRegenerationDone_adopted hstale hroom hcopies
  · intro fn s hnone hwaits hsound
    exact execAdoptRegenerationDone_starts hnone hwaits hsound

end Sys2Proof.Machine

/-! ## Queues and services -/

namespace Sys2Proof.Machine
open Sys2Proof

/-- SVC_Q_DB with a tail within the ring fetches as far as there is room (R377). -/
theorem execQueueDoorbell_fetches {fn q : Nat} {w : Word} {s t : State} (hlive : s.fnLive fn = true) (hq : q < 64)
    (ht : t = (s.writeReg .SVC_Q_DB fn q w).straitOffer (capeIsland s.adapterPort) (s.commandDie fn) 1 1)
    (hring : (t.fld .SVC_Q_DB_TAIL fn q + 2 ^ 32 - t.fld .SVC_Q_STAT_HEAD fn q) % 2 ^ 32 ≤ 2 ^ t.fld .SVC_Q_CFG_SIZE fn q) :
    execQueueDoorbell fn q w s = .next (State.fetchMore 8 t fn q) := by
  subst ht
  unfold execQueueDoorbell
  rw [if_pos ⟨hlive, hq⟩]
  dsimp only
  rw [if_neg (fun h => absurd h.2 (Nat.not_lt.2 hring))]

section Fetched
variable {fn q : Nat} {ans : Answer} {s t : State} (hlive : t.fnLive fn = true) (hq : q < 64)
  (ht : t = if (s.queue fn q).fetching = 0 then s else s.setQueue fn q { s.queue fn q with fetching := (s.queue fn q).fetching - 1 })
  (hroom : t.fetchRoom fn q = true) (hrun : t.restarting.contains (t.commandDie fn) = false) (hturn : s.fetchTurn fn q = true)
include hlive hq ht hroom hrun hturn

/-- A descriptor that has come from a ring in host memory joins its queue (R377, R378). -/
theorem execDescriptorFetched_host (hhost : s.fld .SVC_Q_CFG_CMD_HOST fn q = 1)
    (hready : s.hostReady fn (s.descAddr fn q (s.fld .SVC_Q_STAT_HEAD fn q)) 64 ans = true)
    (hok : (t.hostAnswer fn (t.descAddr fn q (s.fld .SVC_Q_STAT_HEAD fn q)) 64 ans).2.status = .ok) :
    execDescriptorFetched fn q ans s = .next
      ((t.hostAnswer fn (t.descAddr fn q (s.fld .SVC_Q_STAT_HEAD fn q)) 64 ans).1.joinsQueue fn q (s.fld .SVC_Q_STAT_HEAD fn q)
        (t.hostAnswer fn (t.descAddr fn q (s.fld .SVC_Q_STAT_HEAD fn q)) 64 ans).2.data) := by
  unfold execDescriptorFetched
  dsimp only
  rw [if_neg (by simp [hhost, hready, hturn]), ← ht, if_neg (by simp only [hlive, hq, hroom, hrun]; decide)]
  simp only [if_pos hhost]
  rw [if_neg (not_not.2 hok)]

/-- So does one of a ring in device memory. -/
theorem execDescriptorFetched_device (hdevice : s.fld .SVC_Q_CFG_CMD_HOST fn q = 0)
    (hready : s.rangeReady fn (s.descAddr fn q (s.fld .SVC_Q_STAT_HEAD fn q)) 64 = true)
    (hok : (t.devRead .islet fn (t.descAddr fn q (s.fld .SVC_Q_STAT_HEAD fn q)) 64).2.status = .ok) :
    execDescriptorFetched fn q ans s = .next
      ((t.devRead .islet fn (t.descAddr fn q (s.fld .SVC_Q_STAT_HEAD fn q)) 64).1.joinsQueue fn q (s.fld .SVC_Q_STAT_HEAD fn q)
        (t.devRead .islet fn (t.descAddr fn q (s.fld .SVC_Q_STAT_HEAD fn q)) 64).2.data) := by
  have hhost : ¬ s.fld .SVC_Q_CFG_CMD_HOST fn q = 1 := by rw [hdevice]; decide
  unfold execDescriptorFetched
  dsimp only
  rw [if_neg (by simp [hdevice, hready, hturn]), ← ht, if_neg (by simp only [hlive, hq, hroom, hrun]; decide)]
  simp only [if_neg hhost]
  rw [if_neg (not_not.2 hok)]

end Fetched

section Commands
variable {fn q : Nat} {r : CmdRef} {c : Command} {s : State} (hnext : s.nextCommand fn q = some (r, c))
include hnext

/-- The command that may start next is served by its opcode (R379, R384). -/
theorem State.withCommand_serves {op : Nat} {f : CmdRef → Command → Result} (hop : c.opcode = op) (hknown : op ≤ 6) :
    s.withCommand fn q op f = f r c := by
  unfold State.withCommand
  rw [hnext]
  dsimp only
  rw [if_neg (by omega), if_pos hop]

/-- LOAD starts its load where none runs or waits (R66). -/
theorem execCmdLoad_loads (hop : c.opcode = 1) (hidle : s.loading fn = false) (hnone : (s.fnState fn).loadsWaiting = []) :
    execCmdLoad fn q s = .next (s.loadCommand r c) := by
  rw [execCmdLoad, State.withCommand_serves hnext hop (by decide)]
  exact if_pos ⟨hidle, hnone⟩

/-- LOAD waits for the load that runs (R66). -/
theorem execCmdLoad_waits (hop : c.opcode = 1) (hload : s.loading fn = true) (hnone : (s.fnState fn).loadsWaiting = []) :
    execCmdLoad fn q s = .next (s.modFn fn (fun f => { f with loadsWaiting := [r] })) := by
  rw [execCmdLoad, State.withCommand_serves hnext hop (by decide)]
  dsimp only
  rw [hnone, if_neg (by simp [hload])]
  rfl

/-- LAUNCH takes the launch of its entry (R73). -/
theorem execCmdLaunch_launches {t : State} {e : List Byte} (hop : c.opcode = 2)
    (hnew : s.launches.any (fun e => e.2.client == .command r) = false)
    (hmay : s.mayStart r (s.idAtolls fn (c.arg 8 2)) = (t, true)) (hentry : t.entryFor fn (c.arg 8 2) 0 = some e) :
    execCmdLaunch fn q s = .next (t.launchCommand fn r c e) := by
  rw [execCmdLaunch, State.withCommand_serves hnext hop (by decide)]
  rw [if_neg (by rw [hnew]; decide), hmay]
  dsimp only
  rw [hentry]

/-- STEP of a legal control block begins the service (R386, R387). -/
theorem execCmdStep_begins {t u v : State} {a b : Answer} {e : List Byte} (hop : c.opcode = 3) (hnone : (s.fnState fn).step = none)
    (hmay : s.mayStart r (s.trainAtolls fn (((s.fnState fn).entries.find? (fun z => entryId z == c.arg 8 2)).getD [])) = (t, true))
    (hok : t.stepRefused fn (c.arg 8 2) = false) (hrests : t.optState fn = optIdle ∨ t.optState fn = optStopped)
    (hsteps : c.arg 0xC 4 ≠ 0) (halign : c.arg 0x18 8 % 32 = 0) (he : e = (t.entryFor fn (c.arg 8 2) 1).getD [])
    (hsafe : t.entryUnsafe fn e = false) (hready : t.rangeReady fn (c.arg 0x18 8) 64 = true)
    (hblock : t.devRead .islet fn (c.arg 0x18 8) 64 = (u, a)) (ha : a.status = .ok)
    (hpages : u.rangeReady fn (bytesAt a.data 0 8) (entryParamLen e) = true)
    (hparams : u.devRead .islet fn (bytesAt a.data 0 8) (entryParamLen e) = (v, b)) (hb : b.status = .ok)
    (hwaits : (t.opt fn).waits = 0) (hflags : c.arg 0x20 1 < 4) (hlegal : stepBlockLegal a.data = true) :
    execCmdStep fn q s = .next (v.stepBegins fn r c e a.data b.data) := by
  subst he
  have hfree : ¬ ((t.optState fn ≠ optIdle ∧ t.optState fn ≠ optStopped) ∨ (t.opt fn).waits ≠ 0) := by
    rintro (⟨hidle, hstopped⟩ | h)
    · exact hrests.elim hidle hstopped
    · exact h hwaits
  have hrange : ¬ (c.arg 0xC 4 = 0 ∨ c.arg 0x18 8 % 32 ≠ 0 ∨ 4 ≤ c.arg 0x20 1) := by omega
  rw [execCmdStep, State.withCommand_serves hnext hop (by decide)]
  dsimp only
  rw [if_neg (by rw [hnone]; decide), hmay]
  dsimp only
  rw [if_neg (by rw [hok]; decide), if_neg hfree, if_neg hrange, if_neg (by rw [hsafe]; decide), if_neg (by rw [hready]; decide), hblock]
  dsimp only
  rw [if_neg (not_not.2 ha), if_neg (by rw [hlegal]; decide), if_neg (by rw [hpages]; decide), hparams]
  dsimp only
  rw [if_neg (not_not.2 hb)]

/-- GENERATE within its ranges begins the service with its first boundary (R391). -/
theorem execCmdGenerate_begins {ans : Answer} {t u : State} (hop : c.opcode = 4) (hnone : (s.fnState fn).gen = none)
    (hmay : s.mayStart r (s.entriesAtolls fn c.bytes) = (t, true))
    (hdecode : c.arg 0x10 1 = 0 ∨ (c.arg 0x10 1 = 1 ∧ partReef t.pkg.part = true)) (hslot : 0 < c.arg 0x11 1)
    (hslots : c.arg 0x11 1 ≤ 64) (halign : c.arg 0x18 8 % 64 = 0) (hflags : c.arg 0x12 1 < 4)
    (hu : ((t.startCommand r).modFn fn (fun f => { f with gen := some { ref := r, ops := c.bytes } })).genStat fn = u)
    (hfree : u.slotsForbidden (u.genOpen fn ans) fn = false) :
    execCmdGenerate fn q ans s = .next (u.genOpen fn ans) := by
  subst hu
  have hunit : ¬ (c.arg 0x10 1 = 1 ∧ partReef t.pkg.part = false) := by
    rintro ⟨hreef, hno⟩
    rcases hdecode with h | ⟨-, h⟩
    · omega
    · exact Bool.false_ne_true (hno.symm.trans h)
  have hrange : ¬ (1 < c.arg 0x10 1 ∨ c.arg 0x11 1 = 0 ∨ 64 < c.arg 0x11 1 ∨ c.arg 0x18 8 % 64 ≠ 0 ∨ 4 ≤ c.arg 0x12 1) := by omega
  rw [execCmdGenerate, State.withCommand_serves hnext hop (by decide)]
  dsimp only
  rw [if_neg (by rw [hnone]; decide), hmay]
  dsimp only
  rw [if_neg hunit, if_neg hrange, State.genBegins, State.genBoundaryOpen, if_neg (by rw [hfree]; decide)]

/-- MIGRATE joins a migration queue with room (R238). -/
theorem execCmdMigrate_queues (hop : c.opcode = 5) (hroom : (s.fnState fn).mig.queue.length < 64) :
    execCmdMigrate fn q s = .next ((s.startCommand r).migQueue fn
      { w0 := c.arg 8 8, w1 := c.arg 0x10 8, w2 := c.arg 0x18 8, w3 := c.arg 0x20 8, source := .command r }) := by
  rw [execCmdMigrate, State.withCommand_serves hnext hop (by decide)]
  exact if_neg (Nat.not_le.2 hroom)

/-! What SERVICE_CTL does to its target, by its action: 0 pauses, 1 resumes, 2 stops (R383). -/

section Control
variable {action : Nat} (hop : c.opcode = 6) (haction : c.arg 9 1 = action) (hlow : action ≤ 2)
include hop haction hlow

/-- A target that does not run is ABORTED. -/
theorem State.serviceCtl_refused {target : Nat} (htarget : c.arg 8 1 = target) (hknown : target ≤ 1)
    (hnone : (if target = 0 then (s.fnState fn).step.isNone else (s.fnState fn).gen.isNone) = true) :
    s.serviceCtl fn q action = .next (s.refuseCommand r .aborted) := by
  subst htarget
  rw [State.serviceCtl, State.withCommand_serves hnext hop (by decide)]
  dsimp only
  rw [if_neg (by omega), if_neg (not_not.2 haction), if_pos hnone]

section Step
variable {v : StepSvc} (htarget : c.arg 8 1 = 0) (hstep : (s.fnState fn).step = some v)
include htarget hstep

/-- A pause or stop of the step service waits for its next boundary. -/
theorem State.serviceCtl_step (hwait : action ≠ 1) : s.serviceCtl fn q action = .next
    (((s.startCommand r).modStep fn (fun v => { v with ctl := v.ctl ++ [(r, action)] })).stepBoundary fn) := by
  have hrange : ¬ (1 < c.arg 8 1 ∨ 2 < c.arg 9 1) := by omega
  rw [State.serviceCtl, State.withCommand_serves hnext hop (by decide)]
  dsimp only
  rw [if_neg hrange, if_neg (not_not.2 haction), htarget, if_pos rfl, hstep, Option.isNone_some, if_neg Bool.false_ne_true]
  rcases (by omega : action = 0 ∨ action = 2) with rfl | rfl <;> rfl

/-- A resume of the step service takes effect at once. -/
theorem State.serviceCtl_stepResume (hresume : action = 1) : s.serviceCtl fn q action = .next
    (((((s.startCommand r).completeCommand r .ok 0 (leBytes 16 0)).modStep fn (fun v =>
      { v with paused := false })).stepStat fn).stepBoundary fn) := by
  have hrange : ¬ (1 < c.arg 8 1 ∨ 2 < c.arg 9 1) := by omega
  rw [State.serviceCtl, State.withCommand_serves hnext hop (by decide)]
  dsimp only
  rw [if_neg hrange, if_neg (not_not.2 haction), htarget, if_pos rfl, hstep, Option.isNone_some, if_neg Bool.false_ne_true, hresume]
  rfl

end Step

section Generation
variable {g : GenSvc} (htarget : c.arg 8 1 = 1) (hgen : (s.fnState fn).gen = some g)
include htarget hgen

/-- A pause or stop of the generation service is noted, and acts at once where the service stands at a boundary. -/
theorem State.serviceCtl_gen (hwait : action ≠ 1) : s.serviceCtl fn q action = .next
    (if g.point = .boundary then ((s.startCommand r).modGen fn (fun g => { g with ctl := g.ctl ++ [(r, action)] })).genBoundary fn
     else (s.startCommand r).modGen fn (fun g => { g with ctl := g.ctl ++ [(r, action)] })) := by
  have hrange : ¬ (1 < c.arg 8 1 ∨ 2 < c.arg 9 1) := by omega
  rw [State.serviceCtl, State.withCommand_serves hnext hop (by decide)]
  dsimp only
  rw [if_neg hrange, if_neg (not_not.2 haction), htarget, if_neg (by decide : ¬ 1 = 0), hgen, Option.isNone_some, if_neg Bool.false_ne_true,
    apply_ite Host.Outcome.next]
  rcases (by omega : action = 0 ∨ action = 2) with rfl | rfl <;> simp only [Option.any_some, beq_iff_eq]

/-- A resume of the generation service takes effect at once. -/
theorem State.serviceCtl_genResume (hresume : action = 1) : s.serviceCtl fn q action = .next
    ((((s.startCommand r).completeCommand r .ok 0 (leBytes 16 0)).modGen fn (fun g => { g with paused := false })).genStat fn) := by
  have hrange : ¬ (1 < c.arg 8 1 ∨ 2 < c.arg 9 1) := by omega
  rw [State.serviceCtl, State.withCommand_serves hnext hop (by decide)]
  dsimp only
  rw [if_neg hrange, if_neg (not_not.2 haction), htarget, if_neg (by decide : ¬ 1 = 0), hgen, Option.isNone_some, if_neg Bool.false_ne_true, hresume]
  rfl

end Generation

end Control

end Commands

section Completion
variable {fn q addr phase : Nat} {c : Completion} {rest : List Completion} {s t : State}
  (hcpls : (s.queue fn q).cpls = c :: rest) (haddr : s.completionAddr fn q = (addr, phase)) (hlive : s.fnLive fn = true)
  (hroom : s.ringRoom fn q = true) (hrun : s.restarting.contains (s.commandDie fn) = false)
include hcpls haddr hlive hroom hrun

/-- A record of a completion ring in host memory is written over an up link (R379). -/
theorem execCompletionWrite_host (hhost : s.fld .SVC_Q_CFG_CPL_HOST fn q = 1)
    (ht : t = s.setQueue fn q { s.queue fn q with cpls := rest }) (hup : t.hostUp = true) :
    execCompletionWrite fn q .ok s = .next
      ((t.hostWrite fn (t.commandDie fn) 1 addr (completionBytes q phase c)).recordWritten fn q c) := by
  subst ht
  unfold execCompletionWrite
  rw [hcpls]
  dsimp only
  rw [haddr, hhost]
  dsimp only
  rw [if_neg (by simp only [hlive, hroom, hrun]; decide), if_neg (fun h => absurd h.1 (by decide))]
  simp only [beq_self_eq_true, if_true, hup]
  rfl

/-- A record of one in device memory is written where the optimiser forbids no write (R379). -/
theorem execCompletionWrite_device {st : Status} {u v : State} (hdevice : s.fld .SVC_Q_CFG_CPL_HOST fn q = 0)
    (hfree : s.optForbids fn true addr 32 = false) (hpage : s.prepareWrite fn addr 32 = (t, true))
    (hu : u = t.setQueue fn q { t.queue fn q with cpls := rest })
    (hwrite : u.devWrite .islet fn addr (completionBytes q phase c) = (v, .ok)) :
    execCompletionWrite fn q st s = .next (v.recordWritten fn q c) := by
  subst hu
  unfold execCompletionWrite
  rw [hcpls]
  dsimp only
  rw [haddr, hdevice]
  dsimp only
  rw [if_neg (by simp only [hlive, hroom, hrun]; decide), if_neg (by rw [hfree]; decide)]
  rw [if_neg (by decide : ¬ (0 == 1) = true), hpage]
  dsimp only
  rw [if_neg (by decide), if_neg (by decide : ¬ (0 == 1) = true), hwrite]
  rfl

end Completion

section QueueConfig
variable {fn q : Nat} {w : Word} {s : State} (hlive : s.fnLive fn = true) (hq : q < 64)
include hlive hq

/-- A DISABLED queue takes every field, and becomes ACTIVE and empty by ENABLE (R380). -/
theorem State.writeQCfg_enables {t : State} (hstate : s.fld .SVC_Q_STATE_STATE fn q = queueDisabled)
    (ht : t = s.writeReg .SVC_Q_CFG fn q w) (henable : t.fld .SVC_Q_CFG_ENABLE fn q = 1) :
    s.writeQCfg fn q w = (((((t.setReg .SVC_Q_STAT fn q 0).setReg .SVC_Q_DB fn q 0).setReg .SVC_Q_CPL_DB fn q 0).setQueue fn q
      {}).setFld .SVC_Q_STATE_STATE fn q queueActive).setFld .SVC_Q_STATE_ERR_STATUS fn q 0 := by
  subst ht
  unfold State.writeQCfg
  rw [if_neg (by simp [hlive, hq])]
  dsimp only
  rw [if_pos hstate, if_pos henable]

/-- A queue at work whose ENABLE is cleared drains: its commands not started are ABORTED (R380). -/
theorem State.writeQCfg_drains {t u : State}
    (hstate : s.fld .SVC_Q_STATE_STATE fn q = queueActive ∨ s.fld .SVC_Q_STATE_STATE fn q = queueError)
    (hclear : bit w.toNat 0 = false) (ht : t = (s.setFld .SVC_Q_CFG_ENABLE fn q 0).setFld .SVC_Q_STATE_STATE fn q queueDraining)
    (hu : u = t.setQueue fn q { t.queue fn q with fetching := 0 }) :
    s.writeQCfg fn q w = ((u.unstartedOf fn q).foldl (fun s r => s.refuseCommand r .aborted) u).queueDrained fn q := by
  subst hu ht
  have hwork : s.fld .SVC_Q_STATE_STATE fn q ≠ queueDisabled ∧ s.fld .SVC_Q_STATE_STATE fn q ≠ queueDraining := by
    rcases hstate with h | h <;> rw [h] <;> decide
  unfold State.writeQCfg
  rw [if_neg (by simp [hlive, hq])]
  dsimp only
  rw [if_neg hwork.1, if_neg (by rw [hclear]; exact fun h => h.elim Bool.false_ne_true hwork.2)]

end QueueConfig

/-- Settles O17: each command is run on the state that its clause describes; SERVICE_CTL comes to what its action does to the
service. -/
theorem queueCommandsComplete : Obligations.QueueCommandsComplete := by
  refine ⟨?_, ?_, ?_, ?_, ?_, ?_, ?_, ?_, ?_, ?_, ?_, ?_, ?_, ?_, ?_, ?_, ?_, ?_, ?_, ?_, ?_, ?_, ?_, ?_, ?_, ?_, ?_, ?_, ?_⟩
  · intro fn q w t s hlive hq ht hring
    exact execQueueDoorbell_fetches hlive hq ht hring
  · intro fn q ans t s _ hq ht hroom hlive hrun hturn hhost hready hok
    exact execDescriptorFetched_host hlive hq ht hroom hrun hturn hhost hready hok
  · intro fn q ans t s _ hq ht hroom hlive hrun hturn hdevice hready hok
    exact execDescriptorFetched_device hlive hq ht hroom hrun hturn hdevice hready hok
  · intro fn q r c s hnext hop
    exact State.withCommand_serves hnext hop (by decide)
  · intro fn q r c s hnext hop hidle hnone
    exact execCmdLoad_loads hnext hop hidle hnone
  · intro fn q r c s hnext hop hload hnone
    exact execCmdLoad_waits hnext hop hload hnone
  · intro fn q r c t e s hnext hop hnew hmay hentry
    exact execCmdLaunch_launches hnext hop hnew hmay hentry
  · intro fn q r c t u v a b e s hnext hop hnone hmay hok hrests hsteps halign he hsafe hready hblock ha hpages hparams hb hwaits
      hflags hlegal
    exact execCmdStep_begins hnext hop hnone hmay hok hrests hsteps halign he hsafe hready hblock ha hpages hparams hb hwaits
      hflags hlegal
  · intro fn q r c t u ans s hnext hop hnone hmay hdecode hslot hslots halign hflags hu hfree
    exact execCmdGenerate_begins hnext hop hnone hmay hdecode hslot hslots halign hflags hu hfree
  · intro fn q r c s hnext hop hroom
    exact execCmdMigrate_queues hnext hop hroom
  · intro fn q r c v s hnext hop htarget haction hstep
    exact State.serviceCtl_step hnext hop haction (by decide) htarget hstep (by decide)
  · intro fn q r c g s hnext hop htarget haction hgen hpoint
    rw [exec_servicePause, execServicePause, State.serviceCtl_gen hnext hop haction (by decide) htarget hgen (by decide),
      if_neg hpoint]
  · intro fn q r c g s hnext hop htarget haction hgen hpoint
    rw [exec_servicePause, execServicePause, State.serviceCtl_gen hnext hop haction (by decide) htarget hgen (by decide),
      if_pos hpoint]
  · intro fn q r c v s hnext hop htarget haction hstep
    exact State.serviceCtl_step hnext hop haction (by decide) htarget hstep (by decide)
  · intro fn q r c g s hnext hop htarget haction hgen hpoint
    rw [exec_serviceStop, execServiceStop, State.serviceCtl_gen hnext hop haction (by decide) htarget hgen (by decide),
      if_neg hpoint]
  · intro fn q r c g s hnext hop htarget haction hgen hpoint
    rw [exec_serviceStop, execServiceStop, State.serviceCtl_gen hnext hop haction (by decide) htarget hgen (by decide),
      if_pos hpoint]
  · intro fn q r c v s hnext hop htarget haction hstep
    exact State.serviceCtl_stepResume hnext hop haction (by decide) htarget hstep rfl
  · intro fn q r c g s hnext hop htarget haction hgen
    exact State.serviceCtl_genResume hnext hop haction (by decide) htarget hgen rfl
  · rintro fn q addr phase st c rest t u s hcpls haddr hlive hroom hrun hhost ht hup rfl
    exact execCompletionWrite_host hcpls haddr hlive hroom hrun hhost ht hup
  · intro fn q addr phase st c rest t u v s hcpls haddr hlive hroom hrun hdevice hfree hpage hu hwrite
    exact execCompletionWrite_device hcpls haddr hlive hroom hrun hdevice hfree hpage hu hwrite
  · intro fn q w s hlive hq
    exact if_pos ⟨hlive, hq⟩
  · intro fn q w t s hlive hq hstate ht henable
    exact congrArg Host.Outcome.next (State.writeQCfg_enables hlive hq hstate ht henable)
  · intro fn q w t u s hlive hq hstate hclear ht hu
    exact congrArg Host.Outcome.next (State.writeQCfg_drains hlive hq hstate hclear ht hu)
  all_goals
    intro fn q r c s hnext hop htarget haction hnone
    refine State.serviceCtl_refused hnext hop haction (by decide) htarget (by decide) ?_
    rw [hnone]
    rfl

end Sys2Proof.Machine

/-! ## Partitions, keys and the DRBG -/

namespace Sys2Proof.Machine
open Sys2Proof

section GrantControl
variable {f : Nat} {w : Word} {s : State} (hf : isFn f = true) (hready : s.ready = true)
include hf hready

/-- Function 0's write of SEC_GRANT_CTL to a DISABLED function is an enable where it sets ENABLE (R401). -/
theorem State.writeGrantCtl_disabled (hen : bit w.toNat 0 = true) (hstate : s.fnStateOf f = fnDisabled) :
    s.writeGrantCtl 0 f w = (s.setFld .SEC_GRANT_CTL_ENABLE f 0 1).grantEnable f := by
  unfold State.writeGrantCtl
  rw [if_neg (by simp [hf, hready])]
  dsimp only
  rw [if_pos hstate, if_pos hen, hen]
  rfl

/-- To an ENABLED one it is a shut-down where it clears ENABLE (R402). -/
theorem State.writeGrantCtl_disables (hen : bit w.toNat 0 = false) (hstate : s.fnStateOf f = fnEnabledState) :
    s.writeGrantCtl 0 f w = (s.setFld .SEC_GRANT_CTL_ENABLE f 0 0).shutdown f 0 := by
  unfold State.writeGrantCtl
  rw [if_neg (by simp [hf, hready])]
  dsimp only
  rw [if_neg (by rw [hstate]; decide), if_neg (by rw [hstate]; decide), if_pos hstate, hen, if_pos (by decide)]
  rfl

/-- So it is where it sets RESET beside ENABLE (R402). -/
theorem State.writeGrantCtl_resets (hen : bit w.toNat 0 = true) (hrst : bit w.toNat 1 = true)
    (hstate : s.fnStateOf f = fnEnabledState) :
    s.writeGrantCtl 0 f w = (s.setFld .SEC_GRANT_CTL_ENABLE f 0 1).shutdown f 1 := by
  unfold State.writeGrantCtl
  rw [if_neg (by simp [hf, hready])]
  dsimp only
  rw [if_neg (by rw [hstate]; decide), if_neg (by rw [hstate]; decide), if_pos hstate, hen, if_neg (by decide), if_pos hrst]
  rfl

/-- A grant register of a DISABLED function takes function 0's write (R398). -/
theorem State.writeGrant_disabled {r : Reg} {j : Nat} (hstate : s.fnStateOf f = fnDisabled) :
    s.writeGrant 0 r f j w = s.writeReg r f j w :=
  if_pos ⟨rfl, hf, hready, hstate⟩

end GrantControl

section EnableComplete
variable {f : Nat} {s : State} (hf : isFn f = true) (hstate : s.fnStateOf f = fnEnabling)
include hf hstate

/-- An enable sequence ends with nothing held meanwhile (R401). -/
theorem execEnableComplete_enables (hnone : storeGet 0 (s.enables f).enablePend f = 0) :
    execEnableComplete f s = .next (s.enables f) := by
  unfold execEnableComplete
  rw [if_neg (by simp [hf, hstate])]
  dsimp only
  rw [hnone]
  rfl

/-- ENABLE = 0 or RESET held meanwhile takes effect then, with its cause (R401, R402). -/
theorem execEnableComplete_held {cause : Nat} (hcause : cause ≤ 1) (hheld : storeGet 0 (s.enables f).enablePend f = cause + 1) :
    execEnableComplete f s =
      .next (({ s.enables f with enablePend := storeSet 0 (s.enables f).enablePend f 0 } : State).shutdown f cause) := by
  unfold execEnableComplete
  rw [if_neg (by simp [hf, hstate])]
  dsimp only
  rw [hheld]
  rcases Nat.le_one_iff_eq_zero_or_eq_one.1 hcause with rfl | rfl <;> rfl

end EnableComplete

/-- A shut-down ends, and the enable starts again where ENABLE is set (R403, R404). -/
theorem execShutdownComplete_ends {f : Nat} {s : State} (hf : isFn f = true) (hstate : s.fnStateOf f = fnDraining)
    (hsent : s.abortsWait f = false) :
    execShutdownComplete f s = .next (if (s.shutsDown f).fld .SEC_GRANT_CTL_ENABLE f = 1 then (s.shutsDown f).grantEnable f
      else s.shutsDown f) := by
  unfold execShutdownComplete
  rw [if_neg (by simp [hf, hstate, hsent])]
  exact (apply_ite Host.Outcome.next _ _ _).symm

section KeyControl
variable {fn : Nat} {w : Word} {s : State} (hlive : s.fnLive fn = true) (hrotate : bit w.toNat 0 = true)
include hlive hrotate

/-- ROTATE with the other slot EMPTY and the DRBG at work waits for the token (R413). -/
theorem State.writeKeyCtl_rotates (hempty : s.fld (slotState (1 - s.currentSlot fn)) fn = 0)
    (hnone : storeGet 0 s.rotations fn = 0) (hdrbg : s.fld .SEC_DEV_STAT_DRBG ≠ 2) :
    s.writeKeyCtl fn w = ({ s with rotations := storeSet 0 s.rotations fn 1 } : State).rotateIssue fn := by
  unfold State.writeKeyCtl
  rw [if_neg (by simp [hlive, hrotate])]
  dsimp only
  rw [if_neg (by simp [hempty, hnone]), if_neg hdrbg]

/-- ROTATE with the other slot in use stores KEY_SLOT_BUSY (R413). -/
theorem State.writeKeyCtl_busy (hused : s.fld (slotState (1 - s.currentSlot fn)) fn ≠ 0) :
    s.writeKeyCtl fn w = s.setFld .SEC_KEY_STAT_LAST_STATUS fn 0 (statusCode .keySlotBusy) := by
  unfold State.writeKeyCtl
  rw [if_neg (by simp [hlive, hrotate])]
  exact if_pos (.inl hused)

end KeyControl

/-- A loaded key takes its place while the DRBG works (R413). -/
theorem execRotationKeyLoaded_rotates {f : Nat} {s : State} (hf : isFn f = true) (hloads : storeGet 0 s.rotations f = 3)
    (hdrbg : (s.rotationEnds f).fld .SEC_DEV_STAT_DRBG ≠ 2) :
    execRotationKeyLoaded f s = .next ((s.rotationEnds f).rotates f) := by
  unfold execRotationKeyLoaded
  rw [if_neg (by simp [hf, hloads])]
  exact if_neg hdrbg

/-- The sweep reads its next page on an idle port that is UP (R414). -/
theorem execSweepPageStart_reads {f port upset addr : Nat} {pg : Page} {s t : State} (hf : isFn f = true)
    (hidle : (s.mlPort port).current = none) (hport : (s.mlPort port).lost = false)
    (hnext : s.sweepNext f port = some (addr, pg)) (hup : s.mlUp port = true)
    (hread : (s.addUpset pg.frame (frameByte pg.frame 0) upset).readWhole .migration f pg.frame (some addr) = (t, true)) :
    execSweepPageStart f port upset s = .next ((t.modPort port (fun m =>
      { m with current := some { fn := f, addr := addr, kind := .sweep, target := pg.frame } })).modPage f addr (fun e =>
      { e with moving := true })) := by
  unfold execSweepPageStart
  dsimp only
  rw [if_neg (by simp [hf, hidle, hport]), hnext]
  dsimp only
  rw [if_neg (by simp [hup]), hread]
  rfl

/-- A swept page goes back under the new slot while its port is UP (R414). -/
theorem execSweepPageDone_puts {f port : Nat} {mv : PageMove} {pg : Page} {s : State} (hmove : (s.mlPort port).current = some mv)
    (hkind : mv.kind = .sweep) (hfn : mv.fn = f) (hport : (s.mlPort port).lost = false) (hpage : s.pageAt f mv.addr = some pg)
    (hup : (s.unserved.portNext port).mlUp port = true) :
    execSweepPageDone f port s = .next ((s.unserved.portNext port).sweepPuts f mv pg) := by
  unfold execSweepPageDone
  dsimp only
  rw [hmove]
  dsimp only
  rw [if_neg (by simp [hkind, hfn, hport]), hpage]
  dsimp only
  rw [if_neg (by simp [hup])]

/-- Settles O19: each command is run on the state that its clause describes. -/
theorem partitionCommandsComplete : Obligations.PartitionCommandsComplete := by
  refine ⟨?_, ?_, ?_, ?_, ?_, ?_, ?_, ?_, ?_, ?_, ?_, ?_, ?_, ?_, ?_, ?_, ?_, ?_, ?_⟩
  · intro f w s hf hready hen hstate
    exact congrArg Host.Outcome.next (State.writeGrantCtl_disabled hf hready hen hstate)
  · intro f w s hf hready hen hstate
    exact congrArg Host.Outcome.next (State.writeGrantCtl_disables hf hready hen hstate)
  · intro f w s hf hready hen hrst hstate
    exact congrArg Host.Outcome.next (State.writeGrantCtl_resets hf hready hen hrst hstate)
  · intro fn w s hlive hrst
    exact congrArg Host.Outcome.next (if_pos ⟨hlive, hrst⟩)
  · intro f s hf hstate hnone
    exact execEnableComplete_enables hf hstate hnone
  · intro f s hf hstate hheld
    exact execEnableComplete_held hf hstate (by decide) hheld
  · intro f s hf hstate hheld
    exact execEnableComplete_held hf hstate (by decide) hheld
  · intro f s hf hstate hsent
    exact execShutdownComplete_ends hf hstate hsent
  · intro off f j w s e hf hready hstate
    rw [exec_grantWrite, execGrantWrite, e]
    exact congrArg Host.Outcome.next (State.writeGrant_disabled hf hready hstate)
  · intro off f j w s e hf hready hstate
    rw [exec_grantWrite, execGrantWrite, e]
    exact congrArg Host.Outcome.next (State.writeGrant_disabled hf hready hstate)
  · intro off f j w s e hf hready hstate
    rw [exec_grantWrite, execGrantWrite, e]
    exact congrArg Host.Outcome.next (State.writeGrant_disabled hf hready hstate)
  · intro off f j w s e hf hready hstate
    rw [exec_grantWrite, execGrantWrite, e]
    exact congrArg Host.Outcome.next (State.writeGrant_disabled hf hready hstate)
  · intro fn w s hlive hrotate hempty hnone hdrbg
    exact congrArg Host.Outcome.next (State.writeKeyCtl_rotates hlive hrotate hempty hnone hdrbg)
  · intro fn w s hlive hrotate hused
    exact congrArg Host.Outcome.next (State.writeKeyCtl_busy hlive hrotate hused)
  · intro f s hf hloads hdrbg
    exact execRotationKeyLoaded_rotates hf hloads hdrbg
  · intro f port upset addr pg t s hf hidle hport hnext hup hread
    exact execSweepPageStart_reads hf hidle hport hnext hup hread
  · intro f port mv pg s hmove hkind hfn hport hpage hup
    exact execSweepPageDone_puts hmove hkind hfn hport hpage hup
  · intro test s hrun
    exact if_neg (by rw [hrun]; exact Bool.false_ne_true)
  · intro s hworks
    rw [exec_drbgReseed, execDrbgReseed, if_pos hworks]
    rfl

end Sys2Proof.Machine

/-! ## The lead token and the gates -/

namespace Sys2Proof.Machine
open Sys2Proof

/-- A half that does not wait for the token joins those that wait. -/
theorem State.modLead_wants_new {s : State} {west : Bool} (h : s.lead.wants.contains west = false) :
    s.modLead (fun l => { l with wants := if l.wants.contains west then l.wants else l.wants ++ [west] }) =
      s.modLead (fun l => { l with wants := l.wants ++ [west] }) := by
  simp only [State.modLead, h, Bool.false_eq_true, if_false]

section LeadRequest
variable {west : Bool} {s t : State} (hleader : s.lead.leader west < 4)
  (hway : s.straitCarries (18 + s.lead.leader west) = true) (ht : t = s.straitOffer (s.lead.leader west) 16 2 1)
include hleader hway ht

/-- The half that holds the token is answered with its epoch (R438). -/
theorem execLeadRequest_own (hholder : t.lead.holder = some west) : execLeadRequest west s = .next
    (((t.straitOffer 16 (s.lead.leader west) 2 1).distribute west (t.fld .HBR_LEAD_EPOCH)).leadResume west) := by
  subst ht
  unfold execLeadRequest
  dsimp only
  rw [if_neg (by simp [hway, hleader]), hholder]
  dsimp only
  rw [if_pos rfl]

/-- While the token is FREE a request waits for a grant. -/
theorem execLeadRequest_free (hholder : t.lead.holder = none) (hnew : t.lead.wants.contains west = false) :
    execLeadRequest west s = .next (t.modLead (fun l => { l with wants := l.wants ++ [west] })) := by
  subst ht
  unfold execLeadRequest
  dsimp only
  rw [if_neg (by simp [hway, hleader]), hholder]
  dsimp only
  rw [State.modLead_wants_new hnew]

/-- The other half, where it holds the token, is asked to release it (R438). -/
theorem execLeadRequest_asks (hholder : t.lead.holder = some (!west)) (hnew : t.lead.wants.contains west = false)
    (hasked : t.lead.asked = false) : execLeadRequest west s = .next ((t.modLead (fun l =>
      { l with wants := l.wants ++ [west] })).modLead (fun l => { l with asked := true, askedAt := t.count 16 })) := by
  subst ht
  unfold execLeadRequest
  dsimp only
  rw [if_neg (by simp [hway, hleader]), hholder]
  dsimp only
  rw [if_neg (by cases west <;> decide), State.modLead_wants_new hnew]
  exact congrArg Host.Outcome.next (if_neg (by rw [State.modLead, hasked]; decide))

end LeadRequest

/-- The holder releases the token once asked, with none of its actions in progress (R438). -/
theorem execLeadRelease_releases {west : Bool} {s : State} (hholder : s.lead.holder = some west)
    (hasked : s.lead.asked = true) (hidle : s.actions.any (fun e => s.actionHalf e.2 == west) = false)
    (hleader : s.lead.leader west < 4) :
    execLeadRelease s = .next ((s.straitOffer (s.lead.leader west) 16 2 1).leadFree.distribute west 0) := by
  rw [execLeadRelease, hholder]
  dsimp only
  rw [hasked, hidle, if_neg (by simp [hleader])]

/-- A cluster that may lead takes the lead of its half (R436). -/
theorem execLeaderTakeover_takes {west : Bool} {d : Nat} {s : State} (hnone : 4 ≤ s.lead.leader west)
    (hfound : ((halfDies west).filter (· ≠ if west then s.fld .HBR_LEAD_WEST_LEADER else s.fld .HBR_LEAD_EAST_LEADER) ++
      [if west then s.fld .HBR_LEAD_WEST_LEADER else s.fld .HBR_LEAD_EAST_LEADER]).find? s.mayLead = some d) :
    execLeaderTakeover west s = .next ((s.setLeader west d).setDieEpoch d 0) := by
  unfold execLeaderTakeover
  dsimp only
  rw [if_neg (Nat.not_lt.2 hnone), hfound]

section Arrive
variable {act gate : Nat} {a : Action} {s t : State} (ha : s.action act = some a) (hphase : a.phase = 0)
  (hdie : a.dies.contains gate = true) (hnew : a.answered.contains gate = false) (hway : s.wayOpen a.src gate = true)
  (ht : t = s.straitOffer gate a.src (actionClass a.kind) 1)
include ha hphase hdie hnew hway ht

/-- A gate whose epoch an action has holds it, from then on (R441). -/
theorem execGateActionArrive_holds (hepoch : storeGet 0 t.lead.gateEpoch gate = a.epoch) (hpos : a.epoch ≠ 0) :
    execGateActionArrive act gate s = .next (t.modAction act (fun a =>
      { a with answered := a.answered ++ [gate], holding := storeSet 0 a.holding gate (t.count 16 + 1) })) := by
  subst ht
  rw [execGateActionArrive, ha]
  dsimp only
  rw [if_neg (by rw [hphase, hdie, hnew, hway]; decide), if_pos ⟨hepoch, hpos⟩]

/-- A gate of another epoch refuses it, and HBR_LEAD counts the first refusal of an action (R441). -/
theorem execGateActionArrive_refuses (hepoch : storeGet 0 t.lead.gateEpoch gate ≠ a.epoch ∨ a.epoch = 0)
    (hrefused : a.refused = false) : execGateActionArrive act gate s = .next
      ((t.satFld .HBR_LEAD_REFUSALS 0 0 1).modAction act (fun a =>
        { a with answered := a.answered ++ [gate], refused := true })) := by
  subst ht
  rw [execGateActionArrive, ha]
  dsimp only
  rw [if_neg (by rw [hphase, hdie, hnew, hway]; decide), if_neg (fun h => hepoch.elim (· h.1) h.2), hrefused,
    if_neg Bool.false_ne_true]

end Arrive

section Issuer
variable {act : Nat} {a : Action} {s : State} (ha : s.action act = some a)
include ha

/-- With every acknowledgement the issuer sends GO (R441). -/
theorem execGateResponse_goes (hphase : a.phase = 0) (hrefused : a.refused = false)
    (hall : a.dies.all a.answered.contains = true) : execGateResponse act s = .next
      ((s.toGates a.kind a.src a.dies).modAction act (fun a => { a with phase := 1 })) := by
  rw [execGateResponse, ha]
  dsimp only
  rw [if_neg (not_not_intro hphase), hrefused, if_neg Bool.false_ne_true, if_pos hall]

/-- On a refusal it sends DROP to the gates that hold the action (R441). -/
theorem execGateResponse_drops (hphase : a.phase = 0) (hrefused : a.refused = true) : execGateResponse act s = .next
    (((s.toGates a.kind a.src (a.holding.map Prod.fst)).actionLost act a).actionGone act) := by
  rw [execGateResponse, ha]
  dsimp only
  rw [if_neg (not_not_intro hphase), if_pos hrefused]

variable {gate : Nat}

/-- On DROP a gate drops the action it holds (R441). -/
theorem execGateDrop_drops (hphase : a.phase = 2) (hway : s.wayOpen a.src gate = true) : execGateDrop act gate s = .next
    ((s.modAction act (fun a => { a with holding := storeErase a.holding gate })).actionGone act) := by
  rw [execGateDrop, ha]
  exact if_pos ⟨hphase, hway⟩

/-- A gate that has had neither GO nor DROP for 20 µs drops the action, which is lost (R441). -/
theorem execGateTimeout_drops {g c : Nat} {t : State} (hheld : a.holding.find? (fun h => h.1 == gate) = some (g, c))
    (ht : t = (s.reachCount 16 (gateClose c)).modAction act (fun y => { y with holding := storeErase y.holding gate })) :
    execGateTimeout act gate s = .next ((if a.phase = 2 then t else t.actionLost act a).actionGone act) := by
  subst ht
  rw [execGateTimeout, ha]
  dsimp only
  rw [hheld]

variable (hphase : a.phase = 1)
  (hheld : a.holding.any (fun h => h.1 == gate && s.inWindow 16 (gateClose h.2)) = true)
  (hway : s.wayOpen a.src gate = true)
include hphase hheld hway

/-- On GO, before the close of its 20 µs, a gate releases the action, others hold it still (R441, R445). -/
theorem execGateGo_releases (hrest : storeErase a.holding gate ≠ []) : execGateGo act gate s = .next
    (s.modAction act (fun a => { a with holding := storeErase a.holding gate })) := by
  rw [execGateGo, ha]
  dsimp only
  rw [if_neg (by rw [hphase, hheld, hway]; decide), if_neg hrest]

/-- With the last gate the action takes effect on its dies (R441). -/
theorem execGateGo_takes (hrest : storeErase a.holding gate = []) : execGateGo act gate s = .next
    ((s.modAction act (fun a => { a with holding := storeErase a.holding gate })).actionReleased act a) := by
  rw [execGateGo, ha]
  dsimp only
  rw [if_neg (by rw [hphase, hheld, hway]; decide), if_pos hrest]

end Issuer

/-- Settles O21: the rows are unfolded one by one; the grant is that of `execLeadGrant_begins` and
`execLeadGrant_ends`. -/
theorem leadAndGateCommandsComplete : Obligations.LeadAndGateCommandsComplete := by
  refine ⟨?_, ?_, ?_, ?_, ?_, ?_, ?_, ?_, ?_, ?_, ?_, ?_, ?_, ?_, ?_, ?_, ?_⟩
  · intro west t s hleader hway ht hholder
    exact execLeadRequest_own hleader hway ht hholder
  · intro west t s hleader hway ht hholder hnew
    exact execLeadRequest_free hleader hway ht hholder hnew
  · intro west t s hleader hway ht hholder hnew hasked
    exact execLeadRequest_asks hleader hway ht hholder hnew hasked
  · intro west s hholder hasked hidle hleader
    exact execLeadRelease_releases hholder hasked hidle hleader
  · intro west rest t s hfree hnone hwants hleader ht hhold
    rw [exec_leadGrant, execLeadGrant_begins hfree hnone hwants hleader, ← (s.grantBegins_begun west).gatesHold, ← ht,
      hhold, if_neg Bool.false_ne_true]
  · intro west rest t s hfree hnone hwants hleader ht hhold
    rw [exec_leadGrant, execLeadGrant_begins hfree hnone hwants hleader, ← (s.grantBegins_begun west).gatesHold, ← ht,
      hhold, if_pos rfl]
  · intro west c s hfree hgranting hleader
    exact execLeadGrant_ends hfree hgranting hleader
  · intro s hholder hasked
    exact if_pos ⟨hholder, hasked⟩
  · intro west d s hnone hfound
    exact execLeaderTakeover_takes hnone hfound
  · intro act gate a t s ha hphase hdie hnew hway ht hepoch hpos
    exact execGateActionArrive_holds ha hphase hdie hnew hway ht hepoch hpos
  · intro act gate a t s ha hphase hdie hnew hway ht hepoch hrefused
    exact execGateActionArrive_refuses ha hphase hdie hnew hway ht hepoch hrefused
  · intro act a s ha hphase hrefused hall
    exact execGateResponse_goes ha hphase hrefused hall
  · intro act a s ha hphase hrefused
    exact execGateResponse_drops ha hphase hrefused
  · intro act gate a s ha hphase hheld hway hrest
    exact execGateGo_releases ha hphase hheld hway hrest
  · intro act gate a s ha hphase hheld hway hrest
    exact execGateGo_takes ha hphase hheld hway hrest
  · intro act gate a s ha hphase hway
    exact execGateDrop_drops ha hphase hway
  · intro act gate g c a t s ha hheld ht
    exact execGateTimeout_drops ha hheld ht

end Sys2Proof.Machine

/-! ## The harbour: watchdogs, resets, boots, firmware and the journal -/

namespace Sys2Proof.Machine
open Sys2Proof

/-- A core that has not written its watchdog for 8 ms resets the package (R429). -/
theorem execHarbourWatchdog_resets {s : State} (hheld : s.heldInReset = false) : execHarbourWatchdog s = .next
    ((s.reachCount 16 (min (storeGet 0 s.watchdogs 16) (storeGet 0 s.watchdogs 17) + 8000000)).warmReset 3) := by
  rw [execHarbourWatchdog, hheld]
  exact if_neg Bool.false_ne_true

/-- An island accepts the snapshot unit sent to it, and its count is valid (R444). -/
theorem execSnapshotUnitAccept_accepts {island : Nat} {s : State} (hsent : s.snapSent.contains island = true)
    (hway : s.wayOpen 16 island = true) : execSnapshotUnitAccept island s = .next
    ((({ s with snapSent := s.snapSent.filter (· ≠ island) } : State).setFld .HBR_SNAP_CTL_VALID 0 0
      (putBit (s.fld .HBR_SNAP_CTL_VALID) island true)).setFld .HBR_SNAP_CNT_COUNT island 0 (s.count island)) := by
  rw [execSnapshotUnitAccept, hsent, hway]
  exact if_neg (by decide)

/-- READY not reached 3 s after the release is remembered (R477). -/
theorem execReadyTimeout_late {s : State} (hstate : s.fld .HBR_STAT_STATE ≠ 1) (hheld : s.heldInReset = false) :
    execReadyTimeout s = .next
      { s.reachCount 16 3000000000 with pins := { (s.reachCount 16 3000000000).pins with readyLate := true } } := by
  rw [execReadyTimeout, hheld]
  exact if_neg (fun h => h.elim hstate Bool.false_ne_true)

/-- A trial that has not reached READY in 2 s has failed (R453). -/
theorem execTrialTimeout_fails {s : State} (htrial : s.fw.trial ≠ 0) (hready : s.ready = false)
    (hheld : s.heldInReset = false) (htrip : s.pins.tripped = false) :
    execTrialTimeout s = .next (s.reachCount 16 2000000000).trialFails := by
  rw [execTrialTimeout, hready, hheld, htrip]
  exact if_neg (by simp [htrial])

section BootReady
variable {mlCaps mlBad : List Nat} {s : State} (hready : s.ready = false) (hheld : s.heldInReset = false)
  (htrip : s.pins.tripped = false) (haccepted : s.bootRefused = false)
include hready hheld htrip haccepted

/-- A boot whose images pass, in time where they are on trial, ends READY (R450). -/
theorem execBootReady_boots (htrial : s.trialRefused = false) (htime : s.fw.trial = 0 ∨ s.inWindow 16 2000000000 = true) :
    execBootReady mlCaps mlBad s = .next (s.boots mlCaps mlBad) := by
  rw [execBootReady, hready, hheld, htrip, haccepted, htrial, if_neg (by decide), if_neg]
  rintro (h | ⟨hon, hlate⟩)
  · exact Bool.false_ne_true h
  · rcases htime with h | h
    · exact hon h
    · exact Bool.false_ne_true (hlate.symm.trans h)

/-- A trial whose image fails, or that comes late, falls back (R453). -/
theorem execBootReady_fails (htrial : s.trialRefused = true ∨ (s.fw.trial ≠ 0 ∧ s.inWindow 16 2000000000 = false)) :
    execBootReady mlCaps mlBad s = .next s.trialFails := by
  rw [execBootReady, hready, hheld, htrip, haccepted, if_neg (by decide), if_pos htrial]

end BootReady

section FwStageDone
variable {ans a : Answer} {s u v : State} {addr n : Nat} (hfirst : s.staging.head? = some 9) (hbusy : s.stagingBusy = false)
  (hu : u = s.fwAsks)
include hfirst hbusy hu

/-- The header of an image read, the rest is asked for (R451). -/
theorem execFwStageDone_header (hrange : u.fwRange = (addr, 4096)) (hheader : ans.data.length = 4096)
    (hhost : u.hostReady 0 addr 4096 ans = true) (hanswer : u.hostAnswer 0 addr 4096 ans = (v, a)) (hnone : v.fw.head = [])
    (hok : a.status = .ok) (hmore : 4096 < fwLength a.data) (hmost : fwLength a.data ≤ 67108864) :
    execFwStageDone ans s = .next ((({ v with fw := { v.fw with head := a.data } } : State).fwRestages a.data).hostRead
      0 16 (addr + 4096) (fwLength a.data - 4096)) := by
  subst hu
  rw [execFwStageDone, if_neg (by simp [hfirst, hbusy])]
  dsimp only
  rw [if_neg (by simp [hheader]), hrange]
  dsimp only
  rw [hhost, if_neg (by decide), hanswer]
  dsimp only
  rw [if_neg (not_not_intro hok), hnone, if_neg (by decide), if_neg (by omega)]

/-- The rest read, the image is checked (R451). -/
theorem execFwStageDone_rest (hrange : u.fwRange = (addr, n)) (hhead : u.fw.head.isEmpty = false)
    (hhost : u.hostReady 0 addr n ans = true) (hanswer : u.hostAnswer 0 addr n ans = (v, a))
    (hkept : v.fw.head.isEmpty = false) (hok : a.status = .ok) :
    execFwStageDone ans s = .next (v.fwRead { a with data := v.fw.head ++ a.data }) := by
  subst hu
  rw [execFwStageDone, if_neg (by simp [hfirst, hbusy])]
  dsimp only
  rw [if_neg (by rw [hhead]; exact Bool.false_ne_true), hrange]
  dsimp only
  rw [hhost, if_neg (by decide), hanswer]
  dsimp only
  rw [if_neg (not_not_intro hok), if_pos hkept]

/-- A read that failed ends the stage (R451). -/
theorem execFwStageDone_fails (hrange : u.fwRange = (addr, n)) (hans : ans.status ≠ .ok)
    (hhost : u.hostReady 0 addr n ans = true) (hanswer : u.hostAnswer 0 addr n ans = (v, a)) (hfail : a.status ≠ .ok) :
    execFwStageDone ans s = .next (v.fwRead a) := by
  subst hu
  rw [execFwStageDone, if_neg (by simp [hfirst, hbusy])]
  dsimp only
  rw [if_neg (by simp [hans]), hrange]
  dsimp only
  rw [hhost, if_neg (by decide), hanswer]
  exact if_pos hfail

/-- An answer that holds the whole image ends the stage at once. -/
theorem execFwStageDone_whole (hrange : u.fwRange = (addr, 4096)) (hnone : u.fw.head = []) (hok : ans.status = .ok)
    (hmore : 4096 < ans.data.length) (hlen : fwLength ans.data = ans.data.length) :
    execFwStageDone ans s = .next ((u.hostAnswer 0 addr 4096 ans).1.fwRead ans) := by
  subst hu
  rw [execFwStageDone, if_neg (by simp [hfirst, hbusy])]
  dsimp only
  rw [if_pos (by simp [hnone, hok, hmore, hlen]), hrange]

end FwStageDone

/-- The record at the front is committed, its segment retired first where a block of it fails (R457). -/
theorem execJournalCommit_commits {badBlock : Bool} {s : State} (hqueue : s.jqueue ≠ []) (htrip : s.pins.tripped = false)
    (hheld : s.heldInReset = false) :
    execJournalCommit badBlock s = .next (if badBlock then s.retireSegment else s).commitNext := by
  rw [execJournalCommit, htrip, hheld]
  exact if_neg (by simp [hqueue])

/-- A compaction ends once everything up to its BASE_BEGIN is committed (R458). -/
theorem execJournalCompactionDone_ends {q : Nat} {s : State} (hbegun : s.jnl.begun = some q)
    (htrip : s.pins.tripped = false) (hheld : s.heldInReset = false)
    (hcommitted : s.jqueue.any (fun r => decide (r.seq ≤ q)) = false) : execJournalCompactionDone s = .next (s.compacted q) := by
  rw [execJournalCompactionDone, hbegun]
  dsimp only
  rw [htrip, hheld, hcommitted]
  exact if_neg (by decide)

/-- Settles O22: the rows are unfolded one by one; register writes answer the state of the write by definition. -/
theorem harbourCommandsComplete : Obligations.HarbourCommandsComplete := by
  refine ⟨?_, ?_, ?_, ?_, ?_, ?_, ?_, ?_, ?_, ?_, ?_, ?_, ?_, ?_, ?_, ?_, ?_, ?_, ?_, ?_, ?_, ?_⟩
  · intro core s hcore hheld
    exact if_pos ⟨hcore, hheld⟩
  · intro s hheld
    exact execHarbourWatchdog_resets hheld
  · intro fn w s
    exact exec_hbrEvtClear
  · intro fn w s
    exact exec_hbrEvtRouteWrite
  · intro fn w s
    exact exec_snapshotGo
  · intro island s hsent hway
    exact execSnapshotUnitAccept_accepts hsent hway
  · intro fn w s
    exact exec_warmReset
  · intro fn w s
    exact exec_stackReset
  · intro stack s hstack hbusy
    exact if_pos ⟨hstack, hbusy⟩
  · intro mlCaps mlBad s hready hheld htrip haccepted htrial htime
    exact execBootReady_boots hready hheld htrip haccepted htrial htime
  · intro mlCaps mlBad s hready hheld htrip haccepted htrial
    exact execBootReady_fails hready hheld htrip haccepted htrial
  · intro s hstate hheld
    exact execReadyTimeout_late hstate hheld
  · intro s htrial hready hheld htrip
    exact execTrialTimeout_fails htrial hready hheld htrip
  · intro fn w s
    exact exec_fwStage
  · intro fn w s
    exact exec_fwCancel
  · intro ans a u v addr s hfirst hbusy hu hrange _ _ hheader hhost hanswer hnone hok hmore hmost
    exact execFwStageDone_header hfirst hbusy hu hrange hheader hhost hanswer hnone hok hmore hmost
  · intro ans a u v addr n s hfirst hbusy hu hrange hhead hhost hanswer hkept hok
    exact execFwStageDone_rest hfirst hbusy hu hrange hhead hhost hanswer hkept hok
  · intro ans a u v addr n s hfirst hbusy hu hrange hans hhost hanswer hfail
    exact execFwStageDone_fails hfirst hbusy hu hrange hans hhost hanswer hfail
  · intro ans u addr s hfirst hbusy hu hrange hnone hok hmore hlen
    exact execFwStageDone_whole hfirst hbusy hu hrange hnone hok hmore hlen
  · intro badBlock s hqueue htrip hheld
    exact execJournalCommit_commits hqueue htrip hheld
  · intro fn w s
    exact exec_journalCompact
  · intro q s hbegun htrip hheld hcommitted
    exact execJournalCompactionDone_ends hbegun htrip hheld hcommitted

end Sys2Proof.Machine

/-! ## Pins, I3C addresses and the JTAG port -/

namespace Sys2Proof.Machine
open Sys2Proof

/-- Settles O25: a signal that moves acts, the JTAG rows answer their states by definition. -/
theorem pinCommandsComplete : Obligations.PinCommandsComplete := by
  refine ⟨?_, ?_, ?_, ?_, ?_, ?_, ?_, ?_, ?_, ?_, ?_, ?_, ?_, ?_, ?_, ?_, ?_, ?_⟩
  · intro addr s hheld hnone haddr
    exact if_pos ⟨hheld, hnone, haddr⟩
  · intro static addr s hheld hnone haddr hstatic
    exact if_pos ⟨hheld, hnone, haddr, hstatic⟩
  · intro s
    exact exec_extest
  · intro s
    exact exec_extestPulse
  · intro s
    exact exec_extestTrain
  · intro s
    exact exec_bypass
  · intro s
    exact exec_idcode
  · intro s
    exact exec_clamp
  · intro s
    exact exec_highz
  · intro preload captured s
    exact exec_samplePreload
  · intro s hhigh
    exact if_pos hhigh
  · intro s hlow
    exact if_neg (ne_true_of_eq_false hlow)
  · intro s hlow
    exact if_neg (ne_true_of_eq_false hlow)
  · intro s hhigh
    exact if_pos hhigh
  · intro s hlow
    exact if_neg (ne_true_of_eq_false hlow)
  · intro s hhigh
    exact if_pos hhigh
  · intro s hhigh
    exact if_pos hhigh
  · intro s
    exact exec_powerLoss

end Sys2Proof.Machine

/-! ## MCTP control and PLDM requests -/

namespace Sys2Proof.Machine
open Sys2Proof

section Serve
variable {bind : Nat} {req : List Byte} {s t u : State} (htake : s.mctpTake bind req = some t)
include htake

/-- A request that is recognised and taken is answered with its response. -/
theorem State.mctpServe_answers {kind : List Byte → Bool} {f : State → List Byte → State × List Byte} {rsp : List Byte}
    (hkind : kind (reqMsg req) = true) (hf : f t (reqMsg req) = (u, rsp)) :
    s.mctpServe bind req kind f = .next (u.mctpSend bind (bytesAt req 0 1) false (bytesAt req 1 1 % 8) rsp) := by
  rw [State.mctpServe, if_neg (by rw [hkind]; decide), htake]
  dsimp only
  rw [hf]

/-- So is a PLDM request once READY. -/
theorem State.pldmServe_answers {type cmd cc : Nat} {f : State → List Byte → State × Nat × List Byte} {data : List Byte}
    (hkind : isPldm type cmd (reqMsg req) = true) (hready : t.ready = true) (hf : f t (reqMsg req) = (u, cc, data)) :
    s.pldmServe bind req type cmd f = .next
      (u.mctpSend bind (bytesAt req 0 1) false (bytesAt req 1 1 % 8) (pldmRsp (reqMsg req) cc data)) := by
  refine State.mctpServe_answers htake hkind ?_
  dsimp only
  rw [if_neg (by rw [hready]; decide), hf]

end Serve

section FirmwareUpdate
variable {bind src : Nat} {s : State} (hready : s.ready = true)
include hready

/-- With no request of the update in the mailbox, a component is staged at once (R451). -/
theorem execPldmFirmwareUpdate_stages (hway : bind = 1 ∨ (bind = 0 ∧ s.mctp.i3c.isSome = true))
    (hnone : bind = 0 ∨ s.updateRequest = none) :
    execPldmFirmwareUpdate bind src s = .next (s.stageFw (src / 4096 * 4096)) := by
  have hmatch : (if bind = 1 then s.updateRequest else none) = none := by
    rcases hnone with rfl | h
    · exact if_neg (by decide)
    · rw [h, ite_self]
  rw [execPldmFirmwareUpdate, if_neg (fun h => h.elim (by rw [hready]; decide) (· hway)), hmatch]

/-- The request in the mailbox is answered; UpdateComponent stages its component (R462). -/
theorem execPldmFirmwareUpdate_answers {req : List Byte} (hreq : s.updateRequest = some req) :
    execPldmFirmwareUpdate 1 src s = .next (if bytesAt (reqMsg req) 3 1 = 0x14 then
      (s.updateAnswer req).stageFw (src / 4096 * 4096) else s.updateAnswer req) := by
  rw [execPldmFirmwareUpdate, if_neg (fun h => h.elim (by rw [hready]; decide) (· (Or.inl rfl))), if_pos rfl, hreq]

end FirmwareUpdate

/-- Settles O24: every request goes through `State.mctpServe_answers`, so each row is left with its own response. -/
theorem controlAndPldmRequestsAnswered : Obligations.ControlAndPldmRequestsAnswered := by
  refine ⟨?_, ?_, ?_, ?_, ?_, ?_, ?_, ?_, ?_, ?_, ?_, ?_, ?_, ?_, ?_, ?_, ?_, ?_, ?_, ?_, ?_, ?_, ?_, ?_, ?_, ?_⟩
  · intro bind req t u s hkind htake hop hzero hones hu
    rw [exec_setEndpointId, execSetEndpointId]
    refine State.mctpServe_answers htake hkind ?_
    dsimp only
    rw [if_neg (fun h => h.2.elim hzero hones), if_pos hop, hu]
  · intro bind req t s hkind htake hop hbad
    rw [exec_setEndpointId, execSetEndpointId]
    exact State.mctpServe_answers htake hkind (if_pos ⟨hop, hbad⟩)
  · intro bind req t s hkind htake
    rw [exec_getEndpointId, execGetEndpointId]
    exact State.mctpServe_answers htake hkind rfl
  · intro bind req t s hkind htake htype
    rw [exec_getMctpVersionSupport, execGetMctpVersionSupport]
    exact State.mctpServe_answers htake hkind (if_pos htype)
  · intro bind req t s hkind htake htype
    rw [exec_getMctpVersionSupport, execGetMctpVersionSupport]
    refine State.mctpServe_answers htake hkind ?_
    dsimp only
    rw [if_neg (by omega), if_pos htype]
  · intro bind req t s hkind htake
    rw [exec_getMessageTypeSupport, execGetMessageTypeSupport]
    exact State.mctpServe_answers htake hkind rfl
  · intro bind req t s hkind htake hready
    rw [exec_getTid, execGetTid]
    exact State.pldmServe_answers htake hkind hready rfl
  · intro bind req t k u s hkind htake hready hk hzero hones hu
    subst hk hu
    rw [exec_setTid, execSetTid]
    exact State.pldmServe_answers htake hkind hready (if_neg (fun h => h.elim hzero hones))
  · intro bind req t s hkind htake hready hones
    rw [exec_setTid, execSetTid]
    exact State.pldmServe_answers htake hkind hready (if_pos (Or.inr hones))
  · intro bind req t u v s hkind htake hready hknown hdraw
    rw [exec_getPldmVersion, execGetPldmVersion]
    refine State.pldmServe_answers htake hkind hready ?_
    dsimp only
    rw [hknown, if_neg (by decide), hdraw]
  · intro bind req t s hkind htake hready hunknown
    rw [exec_getPldmVersion, execGetPldmVersion]
    exact State.pldmServe_answers htake hkind hready (if_pos hunknown)
  · intro bind req t s hkind htake hready
    rw [exec_getPldmTypes, execGetPldmTypes]
    exact State.pldmServe_answers htake hkind hready rfl
  · intro bind req t k s hkind htake hready hk htype
    rw [exec_getPldmCommands, execGetPldmCommands]
    refine State.pldmServe_answers htake hkind hready ?_
    dsimp only
    rw [hk, if_neg (by rcases htype with rfl | rfl <;> decide), if_neg (by omega)]
  · intro bind req t s hkind htake hready hk
    rw [exec_getPldmCommands, execGetPldmCommands]
    refine State.pldmServe_answers htake hkind hready ?_
    dsimp only
    rw [hk, if_neg (by decide), if_pos rfl]
  · intro bind req t u v x z s hkind htake hready hx hz
    rw [exec_getPdrRepositoryInfo, execGetPdrRepositoryInfo]
    refine State.pldmServe_answers htake hkind hready ?_
    dsimp only
    rw [hx]
    dsimp only
    rw [hz]
  · intro bind req t s hkind htake hready hbeyond
    rw [exec_getPdr, execGetPdr]
    exact State.pldmServe_answers htake hkind hready (if_pos hbeyond)
  · intro bind req t h u tail body rec0 s hkind htake hready hh hwithin hdraw hbody hrec
    subst hrec hbody hh
    rw [exec_getPdr, execGetPdr]
    refine State.pldmServe_answers htake hkind hready ?_
    dsimp only
    rw [if_neg (Nat.not_lt.2 hwithin), hdraw]
  · intro bind req t u v s hkind htake hready hpos hwithin hread
    rw [exec_getSensorReading, execGetSensorReading]
    refine State.pldmServe_answers htake hkind hready ?_
    dsimp only
    rw [if_neg (by omega), hread]
  · intro bind req t s hkind htake hready hbeyond
    rw [exec_getSensorReading, execGetSensorReading]
    exact State.pldmServe_answers htake hkind hready (if_pos (Or.inr hbeyond))
  · intro bind req t u x s hkind htake hready hbeyond hwithin hdraw
    rw [exec_getStateSensorReadings, execGetStateSensorReadings]
    refine State.pldmServe_answers htake hkind hready ?_
    dsimp only
    rw [if_neg (by omega), hdraw]
  · intro bind src s hready hway hnone
    exact execPldmFirmwareUpdate_stages hready hway hnone
  · intro src req s hready hreq
    exact execPldmFirmwareUpdate_answers hready hreq
  · intro bind req t s hreq hunsupported htake hready
    rw [exec_pldmUnsupported, execPldmUnsupported]
    refine State.mctpServe_answers htake (by rw [hreq, hunsupported]; rfl) ?_
    rw [if_pos hready]
  · intro bind req t s hreq hkind htake hbooting hready
    rw [exec_pldmUnsupported, execPldmUnsupported]
    refine State.mctpServe_answers htake ?_ ?_
    · rcases hkind with h | h
      · rw [hreq, h]
        rfl
      · rw [hreq, h, hbooting]
        exact Bool.or_true _
    · rw [hready]
      rfl
  · intro fn w s
    exact exec_mctpInGo
  · intro fn w s
    exact exec_mctpOutAck

end Sys2Proof.Machine

/-! ## SPDM requests -/

namespace Sys2Proof.Machine
open Sys2Proof

section SpdmServe
variable {bind code need done : Nat} {req rsp : List Byte} {s t u v : State}
  {f : State → List Byte → State × List Byte} (hkind : isSpdm code (reqMsg req) = true)
  (htake : s.mctpTake bind req = some t) (hready : t.ready = true)
include hkind htake hready

/-- A request of another version than 1.3 is unsupported, but for GET_VERSION (R422). -/
theorem State.spdmServe_otherVersion (hversion : bytesAt (reqMsg req) 1 1 ≠ 0x13) (hcode : code ≠ 0x84) :
    s.spdmServe bind req code need done f = .next
      (t.mctpSend bind (bytesAt req 0 1) false (bytesAt req 1 1 % 8) (spdmError 7 code)) := by
  refine State.mctpServe_answers htake hkind ?_
  dsimp only
  rw [hready, if_neg (by decide), if_pos ⟨hversion, hcode⟩]

variable (hversion : bytesAt (reqMsg req) 1 1 = 0x13 ∨ code = 0x84) (hseen : storeGet 0 t.mctp.spdm bind &&& need = need)
include hversion hseen

/-- A request after those that come before it in the exchange is answered with its response. -/
theorem State.spdmServe_answers (hdone : done = 0) (hf : f t (reqMsg req) = (u, rsp)) :
    s.spdmServe bind req code need done f = .next
      (u.mctpSend bind (bytesAt req 0 1) false (bytesAt req 1 1 % 8) rsp) := by
  refine State.mctpServe_answers htake hkind ?_
  dsimp only
  rw [hready, if_neg (by decide), if_neg (fun h => hversion.elim h.1 h.2), if_neg (not_not_intro hseen), if_pos hdone, hf]

/-- So is one that opens the way to others, which the exchange then remembers. -/
theorem State.spdmServe_reaches (hdone : done ≠ 0)
    (hv : v = { t with mctp := { t.mctp with
      spdm := storeSet 0 t.mctp.spdm bind ((if done = 1 then 0 else storeGet 0 t.mctp.spdm bind) ||| done) } })
    (hf : f v (reqMsg req) = (u, rsp)) : s.spdmServe bind req code need done f = .next
      (u.mctpSend bind (bytesAt req 0 1) false (bytesAt req 1 1 % 8) rsp) := by
  subst hv
  refine State.mctpServe_answers htake hkind ?_
  dsimp only
  rw [hready, if_neg (by decide), if_neg (fun h => hversion.elim h.1 h.2), if_neg (not_not_intro hseen), if_neg hdone, hf]

end SpdmServe

section Rows
variable {bind : Nat} {req : List Byte} {s t : State} (htake : s.mctpTake bind req = some t) (hready : t.ready = true)
include htake hready

/-- GET_VERSION is answered with 1.3, and opens the exchange anew (R422). -/
theorem execGetVersion_answers {u : State} (hkind : isSpdm 0x84 (reqMsg req) = true)
    (hu : u = { t with mctp := { t.mctp with spdm := storeSet 0 t.mctp.spdm bind (0 ||| 1) } }) :
    execGetVersion bind req s = .next (u.mctpSend bind (bytesAt req 0 1) false (bytesAt req 1 1 % 8)
      (spdmMsg 0x10 4 0 0 (leBytes 1 0 ++ leBytes 1 1 ++ leBytes 2 0x1300))) := by
  rw [execGetVersion]
  exact State.spdmServe_reaches hkind htake hready (Or.inr rfl) (Nat.and_zero _) (by decide)
    (hu.trans (by rw [if_pos rfl])) rfl

variable (hversion : bytesAt (reqMsg req) 1 1 = 0x13)
include hversion

/-- GET_CAPABILITIES after GET_VERSION; times and sizes are free values (R422). -/
theorem execGetCapabilities_answers {u v : State} {x : List Byte} (hkind : isSpdm 0xE1 (reqMsg req) = true)
    (hseen : storeGet 0 t.mctp.spdm bind &&& 1 = 1)
    (hu : u = { t with mctp := { t.mctp with spdm := storeSet 0 t.mctp.spdm bind (storeGet 0 t.mctp.spdm bind ||| 2) } })
    (hx : u.drawBytes 9 = (v, x)) :
    execGetCapabilities bind req s = .next (v.mctpSend bind (bytesAt req 0 1) false (bytesAt req 1 1 % 8)
      (spdmMsg 0x13 0x61 0 0 (leBytes 1 0 ++ x.take 1 ++ leBytes 2 0 ++ leBytes 4 0x16 ++ x.drop 1))) := by
  rw [execGetCapabilities]
  refine State.spdmServe_reaches hkind htake hready (Or.inl hversion) hseen (by decide)
    (hu.trans (by rw [if_neg (by decide)])) ?_
  dsimp only
  rw [hx]

/-- NEGOTIATE_ALGORITHMS after both, with what the requester offers of the device's algorithms (R422). -/
theorem execNegotiateAlgorithms_answers {u : State} (hkind : isSpdm 0xE3 (reqMsg req) = true)
    (hseen : storeGet 0 t.mctp.spdm bind &&& 3 = 3)
    (hu : u = { t with mctp := { t.mctp with spdm := storeSet 0 t.mctp.spdm bind (storeGet 0 t.mctp.spdm bind ||| 4) } }) :
    execNegotiateAlgorithms bind req s = .next (u.mctpSend bind (bytesAt req 0 1) false (bytesAt req 1 1 % 8)
      (spdmMsg 0x13 0x63 0 0 (leBytes 2 36 ++ leBytes 1 (bytesAt (reqMsg req) 7 1 % 2) ++ leBytes 1 0 ++ leBytes 4 1 ++
        leBytes 4 (bytesAt (reqMsg req) 9 4 &&& 0x800) ++ leBytes 4 (bytesAt (reqMsg req) 13 4 &&& 0x20) ++
        leBytes 16 0))) := by
  rw [execNegotiateAlgorithms]
  exact State.spdmServe_reaches hkind htake hready (Or.inl hversion) hseen (by decide)
    (hu.trans (by rw [if_neg (by decide)])) rfl

variable (hseen : storeGet 0 t.mctp.spdm bind &&& 7 = 7)
include hseen

/-- GET_DIGESTS is answered with the digest of the chain (R422). -/
theorem execGetDigests_answers (hkind : isSpdm 0x81 (reqMsg req) = true) :
    execGetDigests bind req s = .next (t.mctpSend bind (bytesAt req 0 1) false (bytesAt req 1 1 % 8)
      (spdmMsg 0x13 1 1 1 chainDigest)) := by
  rw [execGetDigests]
  exact State.spdmServe_answers hkind htake hready (Or.inl hversion) hseen rfl rfl

/-- GET_CERTIFICATE is answered with a portion of the chain, where it begins within it (R422). -/
theorem execGetCertificate_answers {off : Nat} {part : List Byte} (hkind : isSpdm 0x82 (reqMsg req) = true)
    (hslot : bytesAt (reqMsg req) 3 1 % 16 = 0) (hoff : bytesAt (reqMsg req) 5 2 = off)
    (hpart : part = (spdmChain.drop off).take (bytesAt (reqMsg req) 7 2)) :
    execGetCertificate bind req s = .next (t.mctpSend bind (bytesAt req 0 1) false (bytesAt req 1 1 % 8)
      (if spdmChain.length ≤ off then spdmError 1 0 else spdmMsg 0x13 2 0 0
        (leBytes 2 part.length ++ leBytes 2 (spdmChain.length - off - part.length) ++ part))) := by
  subst hoff hpart
  rw [execGetCertificate]
  refine State.spdmServe_answers hkind htake hready (Or.inl hversion) hseen rfl ?_
  dsimp only
  rw [if_neg (not_not_intro hslot)]
  by_cases hbeyond : spdmChain.length ≤ bytesAt (reqMsg req) 5 2
  · rw [if_pos hbeyond, if_pos hbeyond]
  · rw [if_neg hbeyond, if_neg hbeyond]

/-- There is no other slot than 0 (R422). -/
theorem execGetCertificate_otherSlot (hkind : isSpdm 0x82 (reqMsg req) = true)
    (hslot : bytesAt (reqMsg req) 3 1 % 16 ≠ 0) :
    execGetCertificate bind req s = .next (t.mctpSend bind (bytesAt req 0 1) false (bytesAt req 1 1 % 8)
      (spdmError 7 0x82)) := by
  rw [execGetCertificate]
  exact State.spdmServe_answers hkind htake hready (Or.inl hversion) hseen rfl (if_pos hslot)

/-- CHALLENGE is answered with nonce and signature as free values (R421). -/
theorem execChallenge_answers {u v w : State} {nonce tcb sig : List Byte} (hkind : isSpdm 0x83 (reqMsg req) = true)
    (hslot : bytesAt (reqMsg req) 3 1 % 16 = 0) (hnonce : t.drawBytes 32 = (u, nonce))
    (htcb : u.drawBytes (if bytesAt (reqMsg req) 4 1 = 1 then 64 else 0) = (v, tcb)) (hsig : v.drawBytes 114 = (w, sig)) :
    execChallenge bind req s = .next (w.mctpSend bind (bytesAt req 0 1) false (bytesAt req 1 1 % 8)
      (spdmMsg 0x13 3 0 1 (chainDigest ++ nonce ++ (if bytesAt (reqMsg req) 4 1 = 0xFF then
        sha3of512 (measIndices.flatMap v.measBlock) else tcb) ++ leBytes 2 0 ++ ((reqMsg req).drop 37).take 8 ++ sig))) := by
  rw [execChallenge]
  refine State.spdmServe_answers hkind htake hready (Or.inl hversion) hseen rfl ?_
  dsimp only
  rw [if_neg (not_not_intro hslot), hnonce]
  dsimp only
  rw [htcb]
  dsimp only
  rw [hsig]

/-- GET_MEASUREMENTS of one block, signed (R423). -/
theorem execGetMeasurements_one {u v : State} {k : Nat} {nonce sig : List Byte} (hkind : isSpdm 0xE0 (reqMsg req) = true)
    (hop : bytesAt (reqMsg req) 4 1 = k) (hcount : k ≠ 0) (hall : k ≠ 0xFF) (hmanifest : k ≠ 0xFD)
    (hblock : measIndices.contains k = true) (hsigned : bit (bytesAt (reqMsg req) 3 1) 0 = true)
    (hslot : bytesAt (reqMsg req) 37 1 % 16 = 0) (hnonce : t.drawBytes 32 = (u, nonce))
    (hsig : u.drawBytes 114 = (v, sig)) :
    execGetMeasurements bind req s = .next (v.mctpSend bind (bytesAt req 0 1) false (bytesAt req 1 1 % 8)
      (spdmMsg 0x13 0x60 0 0 (leBytes 1 1 ++ leBytes 3 (t.measBlock k).length ++ t.measBlock k ++ nonce ++ leBytes 2 0 ++
        ((reqMsg req).drop 38).take 8 ++ sig))) := by
  rw [execGetMeasurements]
  refine State.spdmServe_answers hkind htake hready (Or.inl hversion) hseen rfl ?_
  dsimp only
  rw [hop, hsigned, hblock, if_neg (by simp [hmanifest, hslot]), if_neg (by simp), if_neg hcount, if_neg hall, hnonce]
  dsimp only
  rw [if_pos rfl, if_pos rfl, if_neg hcount, hsig, List.flatMap_singleton]
  rfl

/-- GET_MEASUREMENTS of the number of blocks, unsigned (R423). -/
theorem execGetMeasurements_count {u v : State} {nonce sig : List Byte} (hkind : isSpdm 0xE0 (reqMsg req) = true)
    (hop : bytesAt (reqMsg req) 4 1 = 0) (hsigned : bit (bytesAt (reqMsg req) 3 1) 0 = false)
    (hnonce : t.drawBytes 32 = (u, nonce)) (hsig : u.drawBytes 0 = (v, sig)) :
    execGetMeasurements bind req s = .next (v.mctpSend bind (bytesAt req 0 1) false (bytesAt req 1 1 % 8)
      (spdmMsg 0x13 0x60 measIndices.length 0 (leBytes 1 0 ++ leBytes 3 0 ++ nonce ++ leBytes 2 0 ++
        ((reqMsg req).drop 5).take 8 ++ sig))) := by
  rw [execGetMeasurements]
  refine State.spdmServe_answers hkind htake hready (Or.inl hversion) hseen rfl ?_
  dsimp only
  rw [hop, hsigned, if_neg (by simp), if_neg (by simp), if_pos rfl, hnonce]
  dsimp only
  rw [if_neg Bool.false_ne_true, if_neg Bool.false_ne_true, if_pos rfl, hsig, List.flatMap_nil, List.append_nil]
  rfl

/-- GET_MEASUREMENTS of all blocks, unsigned (R423). -/
theorem execGetMeasurements_all {u v : State} {nonce sig : List Byte} (hkind : isSpdm 0xE0 (reqMsg req) = true)
    (hop : bytesAt (reqMsg req) 4 1 = 0xFF) (hsigned : bit (bytesAt (reqMsg req) 3 1) 0 = false)
    (hnonce : t.drawBytes 32 = (u, nonce)) (hsig : u.drawBytes 0 = (v, sig)) :
    execGetMeasurements bind req s = .next (v.mctpSend bind (bytesAt req 0 1) false (bytesAt req 1 1 % 8)
      (spdmMsg 0x13 0x60 0 0 (leBytes 1 measIndices.length ++ leBytes 3 (measIndices.flatMap t.measBlock).length ++
        measIndices.flatMap t.measBlock ++ nonce ++ leBytes 2 0 ++ ((reqMsg req).drop 5).take 8 ++ sig))) := by
  rw [execGetMeasurements]
  refine State.spdmServe_answers hkind htake hready (Or.inl hversion) hseen rfl ?_
  dsimp only
  rw [hop, hsigned, if_neg (by simp), if_neg (by simp), if_neg (show (0xFF : Nat) ≠ 0 by decide), if_pos rfl,
    hnonce]
  dsimp only
  rw [if_neg Bool.false_ne_true, if_neg Bool.false_ne_true, if_neg (show (0xFF : Nat) ≠ 0 by decide), hsig]

end Rows

/-- A request that the device does not serve is unsupported (R422). -/
theorem execSpdmUnsupported_answers {bind : Nat} {req : List Byte} {s t : State} (htype : bytesAt (reqMsg req) 0 1 % 128 = 5)
    (hreq : bit (bytesAt (reqMsg req) 2 1) 7 = true) (hunknown : spdmCodes.contains (bytesAt (reqMsg req) 2 1) = false)
    (htake : s.mctpTake bind req = some t) (hready : t.ready = true) :
    execSpdmUnsupported bind req s = .next (t.mctpSend bind (bytesAt req 0 1) false (bytesAt req 1 1 % 8)
      (spdmError 7 (bytesAt (reqMsg req) 2 1))) := by
  rw [execSpdmUnsupported]
  refine State.mctpServe_answers htake ?_ (if_pos hready)
  rw [htype, hreq, hunknown]
  rfl

/-- Settles O23: each request is served in its order, and answered as its row says. -/
theorem spdmRequestsAnswered : Obligations.SpdmRequestsAnswered := by
  refine ⟨?_, ?_, ?_, ?_, ?_, ?_, ?_, ?_, ?_, ?_, ?_, ?_, ?_, ?_, ?_, ?_, ?_⟩
  · intro bind req t u s hkind htake hready hu
    exact execGetVersion_answers htake hready hkind hu
  · intro bind req t u v x s hkind htake hready hversion hseen hu hx
    exact execGetCapabilities_answers htake hready hversion hkind hseen hu hx
  · intro bind req t u s hkind htake hready hversion hseen hu
    exact execNegotiateAlgorithms_answers htake hready hversion hkind hseen hu
  · intro bind req t s hkind htake hready hversion hseen
    exact execGetDigests_answers htake hready hversion hseen hkind
  · intro bind req t off part s hkind htake hready hversion hseen hslot hoff hpart
    exact execGetCertificate_answers htake hready hversion hseen hkind hslot hoff hpart
  · intro bind req t s hkind htake hready hversion hseen hslot
    exact execGetCertificate_otherSlot htake hready hversion hseen hkind hslot
  · intro bind req t u v w nonce tcb sig s hkind htake hready hversion hseen hslot hnonce htcb hsig
    exact execChallenge_answers htake hready hversion hseen hkind hslot hnonce htcb hsig
  · intro bind req t u v k nonce sig s hkind htake hready hversion hseen hop hcount hall hmanifest hblock hsigned hslot
      hnonce hsig
    exact execGetMeasurements_one htake hready hversion hseen hkind hop hcount hall hmanifest hblock hsigned hslot hnonce
      hsig
  · intro bind req t u v nonce sig s hkind htake hready hversion hseen hop hsigned hnonce hsig
    exact execGetMeasurements_count htake hready hversion hseen hkind hop hsigned hnonce hsig
  · intro bind req t u v nonce sig s hkind htake hready hversion hseen hop hsigned hnonce hsig
    exact execGetMeasurements_all htake hready hversion hseen hkind hop hsigned hnonce hsig
  · intro bind req t s hkind htake hready hversion
    rw [exec_getCapabilities, execGetCapabilities, State.spdmServe_otherVersion hkind htake hready hversion (by decide)]
  · intro bind req t s hkind htake hready hversion
    rw [exec_negotiateAlgorithms, execNegotiateAlgorithms,
      State.spdmServe_otherVersion hkind htake hready hversion (by decide)]
  · intro bind req t s hkind htake hready hversion
    rw [exec_getDigests, execGetDigests, State.spdmServe_otherVersion hkind htake hready hversion (by decide)]
  · intro bind req t s hkind htake hready hversion
    rw [exec_getCertificate, execGetCertificate, State.spdmServe_otherVersion hkind htake hready hversion (by decide)]
  · intro bind req t s hkind htake hready hversion
    rw [exec_challenge, execChallenge, State.spdmServe_otherVersion hkind htake hready hversion (by decide)]
  · intro bind req t s hkind htake hready hversion
    rw [exec_getMeasurements, execGetMeasurements, State.spdmServe_otherVersion hkind htake hready hversion (by decide)]
  · intro bind req t s htype hreq hunknown htake hready
    exact execSpdmUnsupported_answers htype hreq hunknown htake hready

end Sys2Proof.Machine
